-- ==== Sys2Proof/Word.lean ====
section
/-!
DEFINITION. The plain widths of the device's values.
A register of the object dictionary is a number below 2^(8·size) (Table 16.1) or a byte string; widths differ per object, so the
dictionary holds numbers and the access operations cut them to their width. The sides, ports and other fixed sets of names are
inductive types of `Syntax`.
-/
namespace Sys2Proof

/-- A byte of a BLOB, a message or a record: a number below 256. -/
abbrev Byte := Nat

/-- An F32 or F64 value, as its binary32 or binary64 pattern (R7). -/
abbrev FBits := Nat

/-- A ridge-time instant in units of 2^-32 ns (R339: TIME96 with 16 further fraction bits). -/
abbrev RTime := Nat

/-- An elapsed instant in femtoseconds since power good. -/
abbrev Fs := Nat

/-- An object's key: index · 256 + subindex (R421). -/
abbrev Obj := Nat

end Sys2Proof
end

