-- ==== Sys2Proof/Syntax.lean ====
section
/-!
DEFINITION. The syntax of the block: one constructor of `Instr` per row of spec/opcode_table.json.
The table gives its rows no operand fields; the operands here are the model's choice (log entry 3). Every command carries its
instant `t`, in femtoseconds since power good (log entry 1). A received message or frame is given by the fields the rules read.
-/
namespace Sys2Proof

/-- The two control sides (R18). -/
inductive Side where
  | A
  | B
  deriving DecidableEq, Repr

/-- A SOT message as it arrives (R434): its path (1 boot port, 2 port X, 3 port Y), the sender's IPv4 address and UDP port, 0 on the boot
port, and its bytes. -/
structure Msg where
  path : Nat
  ip : Nat
  udp : Nat
  data : List Nat
  deriving DecidableEq, Repr

/-- A received Ethernet frame (R433 to R440): its EtherType, VLAN tag (0 untagged), its length in bytes, whether its check sequence is good, source and
destination addresses, whether it is an IPv4 fragment, whether it carries a valid redundancy trailer or tag, with its sequence number; of
a PTP message (`isPtp`) the messageType, domainNumber, sequenceId and correctionField and the residence time in 2^-16 ns; and the SOT message
it carries, if any. -/
structure Frame where
  etherType : Nat
  vlan : Nat
  len : Nat
  fcsOk : Bool
  src : Nat
  dst : Nat
  fragment : Bool
  tagged : Bool
  rseq : Nat
  isPtp : Bool
  ptpType : Nat
  domain : Nat
  ptpSeq : Nat
  correction : Nat
  residence : Nat
  sot : Option Msg
  deriving DecidableEq, Repr

/-- The commands of the block. -/
inductive Instr where
  /-- POWER_GOOD (R452). All monitored rails and REF_IN edges have held for 1 ms, so the device starts from its after-power-up values and enters the ROM stage. -/
  | powerGood (t : Nat) (sideRails : Nat)
  /-- ROM_CHECKS_COMPLETE (R453). The mask ROM finishes its checks, having sampled the straps and read the side rail monitors, and moves to IDENTITY. -/
  | romChecksComplete (t : Nat) (straps : Nat) (sideRails : Nat)
  /-- PUF_DERIVATION (R456). A PUF derivation attempt completes: the key is accepted when its two results agree, and after four failed attempts the device enters HALTED with Cause 1. -/
  | pufDerivation (t : Nat) (k1 : Nat) (k2 : Nat)
  /-- LOADER_BLOCK (R459). A BLOCK request on UDP port 48022 is accepted or refused: it may claim the load, and the block is appended at NextOffset. -/
  | loaderBlock (t : Nat) (port : Nat) (ip : Nat) (off : Nat) (len : Nat) (data : List Nat)
  /-- LOADER_STATUS_OP (R459). A STATUS request on UDP port 48022 returns the loader's NextOffset, Stage and Result. -/
  | loaderStatusOp (t : Nat) (port : Nat) (ip : Nat)
  /-- LOADER_ABORT (R459). ABORT from the claiming source releases the claim, discards the bytes received and returns the stage to WAIT_IMAGE. -/
  | loaderAbort (t : Nat) (port : Nat) (ip : Nat)
  /-- BOOT_LOAD (R459). The boot-port opcode 0x10 LOAD delivers one image block at an offset, with Busy set while the block is absorbed. -/
  | bootLoad (t : Nat) (off : Nat) (len : Nat) (data : List Nat)
  /-- LOADER_STATUS (R459). The boot-port opcode 0x11 shifts out the 12-byte response to the last loader request on the boot port. -/
  | loaderStatus (t : Nat)
  /-- LOADER_IDLE_TIMEOUT (R459). 10 s pass without an accepted block, so the claim is released and the stage returns to WAIT_IMAGE. -/
  | loaderIdleTimeout (t : Nat)
  /-- IMAGE_VERIFY (R460). VERIFY completes the hash and signature check, so the image runs or is discarded with its result recorded. -/
  | imageVerify (t : Nat)
  /-- FW_START (R453). The firmware started from slot 0 begins serving SOT, the stage becomes WAIT_REPAIR, and EVT_N begins to follow its rule. -/
  | fwStart (t : Nat)
  /-- BRING_UP (R465). BootCommand Code BRING_UP is accepted in WAIT_REPAIR with no set open and starts bring-up, or is refused with a reason. -/
  | bringUp (t : Nat) (sideRails : Nat)
  /-- BRING_UP_COMPLETE (R467). Bring-up tests end: the usable sides are judged, and the device enters READY or enters HALTED with Cause 2. -/
  | bringUpComplete (t : Nat) (found : List (List Nat)) (linkOk : Bool)
  /-- RESTART (R474). BootCommand Code RESTART with Confirm 0x782 restarts the device 10 ms after receipt, as at power good. -/
  | restart (t : Nat) (confirm : Nat)
  /-- ISLAND_WATCHDOG (R470). The ridge watchdog expires after 100 ms without service, or an internal island error occurs, and restarts the management island. -/
  | islandWatchdog (t : Nat) (internal : Bool)
  /-- ISLAND_RESTART_DONE (R470). The island restart completes, keeping every object value, key and session; an open configuration set has been aborted. -/
  | islandRestartDone (t : Nat)
  /-- IMAGE_PART_WRITE (R473). A write of ImagePart0 to ImagePart6 stores part of an image in firmware slot 1 and sets its state to LOADED. -/
  | imagePartWrite (t : Nat) (part : Nat) (data : List Nat)
  /-- IMAGE_VERIFY_COMMAND (R473). ImageCommand VERIFY checks the inactive slot, setting VERIFIED or REJECTED. -/
  | imageVerifyCommand (t : Nat)
  /-- IMAGE_SWITCH (R473). ImageCommand SWITCH restarts the island on the verified inactive slot at receipt plus 2000 ns, or is refused with EV_250. -/
  | imageSwitch (t : Nat)
  /-- IMAGE_DISCARD (R473). ImageCommand DISCARD empties the inactive firmware slot. -/
  | imageDiscard (t : Nat)
  /-- TEMP_HIGH (R472). A die temperature stays at or above TempHigh for 100 ms and EV_241 is raised once. -/
  | tempHigh (t : Nat) (sensor : Nat) (value : Nat) (held : Nat)
  /-- TEMP_CRITICAL (R472). A die temperature stays at or above 125 °C for 10 ms, which is a side fault or a ridge fault. -/
  | tempCritical (t : Nat) (sensor : Nat) (value : Nat) (held : Nat)
  /-- RAIL_WARNING (R472). A rail stays outside ±3 % of nominal for 1 ms and EV_243 is raised once per episode. -/
  | railWarning (t : Nat) (sensor : Nat) (value : Nat) (held : Nat)
  /-- RAIL_FAULT (R472). A rail stays outside ±6 % for 100 µs, which is a side fault or a ridge fault. -/
  | railFault (t : Nat) (sensor : Nat) (value : Nat) (held : Nat)
  /-- VDD_RIDGE_LOSS (R492). VDD_RIDGE falls below its monitor threshold, so every gate ball goes to high impedance and a ridge fault follows. -/
  | vddRidgeLoss (t : Nat)
  /-- RIDGE_FAULT (R23). The ridge detects a fault in itself and reaches SAFE_STOP within 50 µs. -/
  | ridgeFault (t : Nat)
  /-- TRUSS_LINK_FRAME (R20). Data arrives over the truss-to-truss link: permitted kinds go to the mirror region, and any other kind is discarded and counted as a link error. -/
  | trussLinkFrame (t : Nat) (side : Side) (kind : Nat) (data : List Nat)
  /-- SYNC_IN_EDGE (R60). An edge of the selected polarity persists for 20 ns at SYNC_IN, is stamped and sets the alignment instant at 1000 ns later, or is ignored. -/
  | syncInEdge (t : Nat) (rising : Bool)
  /-- SYNC_COMMAND (R61). A write to SyncCommand requests an alignment at the time written, or at receipt plus 1000 ns for zero, or is rejected. -/
  | syncCommand (t : Nat) (at96 : Nat)
  /-- SYNC_OUT_PULSE (R64). At t_a − 960 ns, SYNC_OUT is driven high for 200 ns. -/
  | syncOutPulse (t : Nat)
  /-- DECIM_ALIGNMENT (R62). At the first sampling edge at or after t_a, each enabled group clears its decimators and sets Settling. -/
  | decimAlignment (t : Nat) (g : Nat)
  /-- DECIMATION_BOUNDARY (R43). A channel reaches an output boundary, so the chain computes an FIR output that the arc resamples and the DC blocker processes. -/
  | decimationBoundary (t : Nat) (side : Side) (c : Nat)
  /-- STUCK_BITS (R66). A ball carries 64 consecutive identical bits and the sill reports FEEDBACK_LOST. -/
  | stuckBits (t : Nat) (side : Side) (c : Nat)
  /-- MOD_CLOCK_MISSING (R66). A group's sampling clock shows no edge for 64 periods, so FEEDBACK_LOST is reported and EV_067 is raised. -/
  | modClockMissing (t : Nat) (g : Nat)
  /-- FEEDBACK_DISAGREEMENT (R69). One sill reports lost or frozen feedback and the other's sample without Fault decides the reporting side faulty, with no fallback. -/
  | feedbackDisagreement (t : Nat) (c : Nat)
  /-- MODEL_TIME_EXPIRY (R206). ModelTime expires under MODEL_THEN_DISABLE and SAFE_DISABLE follows. -/
  | modelTimeExpiry (t : Nat) (c : Nat)
  /-- SAMPLING_CLOCK_START (R65). A group's sampling clock starts, so its channels restart on a new grid with Settling set. -/
  | samplingClockStart (t : Nat) (g : Nat)
  /-- FEEDBACK_RECOVERY (R71). The feedback condition ends, so the channel restarts and the Fault qualifier ends once Settling clears. -/
  | feedbackRecovery (t : Nat) (c : Nat)
  /-- SETTLING_CLEARED (R65). SettleCount fine samples after a restart, Settling clears on the channel. -/
  | settlingCleared (t : Nat) (side : Side) (c : Nat)
  /-- BANK_SWAP_REQUEST (R58). A write to BankSwapRequest stamps T_swap for each accepted group and delivers it to both sills. -/
  | bankSwapRequest (t : Nat) (mask : Nat)
  /-- ARC_REF_TRIPLE (R76). A reference triple reaches a sill and is held for application, or is discarded as late with EV_076. -/
  | arcRefTriple (t : Nat) (side : Side) (d : Nat)
  /-- ARC_REF_APPLY (R75). At t_apply the sill applies a triple as the new angle line of the domain. -/
  | arcRefApply (t : Nat) (side : Side) (d : Nat)
  /-- ARC_REF_STALE (R79). RefTimeout passes with no triple applied, so the domain keeps its line, sets RefStale and OffLock and raises EV_074. -/
  | arcRefStale (t : Nat) (d : Nat)
  /-- COMPARATOR_FIRE (R96). A chord comparator completes Persistence consecutive values beyond its threshold and fires with its action. -/
  | comparatorFire (t : Nat) (c : Nat) (k : Nat)
  /-- BLANK_WINDOW_OPEN (R99). A gate edge in a selected carrier group opens a blanking window that holds the blanked comparators. -/
  | blankWindowOpen (t : Nat) (c : Nat) (g : Nat)
  /-- BLANK_WINDOW_CLOSE (R99). BlankTime after its opening edge, the blanking window closes. -/
  | blankWindowClose (t : Nat) (c : Nat)
  /-- FAST_TICK (R105). The tick falls ReadyLead before a selected anchor vertex, sealing the frame and starting a fast cycle. -/
  | fastTick (t : Nat) (side : Side)
  /-- LANE_WAKE (R118). A clock-gated lane is woken 40 ns before the tick or 16 lane clocks before its next entry. -/
  | laneWake (t : Nat) (side : Side) (joist : Nat) (lane : Nat)
  /-- ENTRY_EXECUTION (R156). A schedule entry starts at its lane clock and runs the steps of one execution, writing its outputs and state at completion. -/
  | entryExecution (t : Nat) (side : Side) (entry : Nat)
  /-- COMPARE_WRITER (R115). At lane clock CompareStart, the compare writer converts the driven outputs to compare counts, writes the PWM shadow and commits the update groups it drives. -/
  | compareWriter (t : Nat) (side : Side)
  /-- GRAPH_SWITCH_REQUEST (R128). A write to GraphSwitchRequest is accepted or rejected with EV_115. -/
  | graphSwitchRequest (t : Nat) (word : Nat)
  /-- GRAPH_SWITCH (R129). At the chosen tick, both sides switch to the new slot, carrying the states of matching instances, and EV_114 is raised. -/
  | graphSwitch (t : Nat)
  /-- RESULT_READ (R134). A read of a plain result returns one production and sets AlreadyRead per reader. -/
  | resultRead (t : Nat) (reader : Nat) (j : Nat) (sub : Nat)
  /-- RESULT_FIFO_READ (R136). A read of Value or Snapshot of a FIFO result removes and returns its oldest entry on every side in service. -/
  | resultFifoRead (t : Nat) (reader : Nat) (j : Nat) (sub : Nat)
  /-- PRESET_NOW (R152). A write of PresetNow to an instance's Command is stamped with an application time and acts in the first execution at or after it. -/
  | presetNow (t : Nat) (slot : Nat) (rec : Nat)
  /-- MODE_FORCE_MANUAL (R161). ModeCmd 0b01 forces element 0x08 into manual from its application time. -/
  | modeForceManual (t : Nat) (slot : Nat) (rec : Nat)
  /-- MODE_FORCE_AUTOMATIC (R161). ModeCmd 0b10 forces element 0x08 into automatic from its application time. -/
  | modeForceAutomatic (t : Nat) (slot : Nat) (rec : Nat)
  /-- MODE_RELEASE (R161). ModeCmd 0b11 releases element 0x08 to its MODE input. -/
  | modeRelease (t : Nat) (slot : Nat) (rec : Nat)
  /-- PARAM_SWAP_REQUEST (R154). A write to ParamSwapRequest stamps T_swap for each accepted group, or rejects the group with EV_119. -/
  | paramSwapRequest (t : Nat) (mask : Nat)
  /-- GF_MAIN_TICK (R193). At a main tick, the ridge reads the condition bindings, evaluates the state machine and pending commands, and makes effective a transition decided at the previous tick. -/
  | gfMainTick (t : Nat)
  /-- GF_IDLE_EVALUATION (R193). While no tick occurs, the ridge evaluates the state machine every 100 µs, allowing only transitions to SAFE_STOP or STANDBY. -/
  | gfIdleEvaluation (t : Nat)
  /-- BLACK_START (R196). GfCommand Code 1 requests a black start, coherent when Coherent is set, and is evaluated at a main tick. -/
  | blackStart (t : Nat) (coherent : Bool)
  /-- JOIN (R201). GfCommand Code 2 requests joining a live bus, loading the rotor from the GRID line. -/
  | join (t : Nat)
  /-- RESYNC (R196). GfCommand Code 3 requests resynchronisation from FORMING. -/
  | resync (t : Nat)
  /-- ABORT_RESYNC (R196). GfCommand Code 4 abandons RESYNC for FORMING. -/
  | abortResync (t : Nat)
  /-- STOP (R196). GfCommand Code 5 returns the converter to STANDBY with the gates in high impedance. -/
  | stop (t : Nat)
  /-- ACKNOWLEDGE (R196). GfCommand Code 6 returns SAFE_STOP to STANDBY once every cause is cleared. -/
  | acknowledge (t : Nat)
  /-- CANCEL_START (R199). GfCommand Code 7 clears StartArmed before the start time. -/
  | cancelStart (t : Nat)
  /-- COHERENT_START (R199). At the first main tick at or after StartAt, an armed coherent start is checked, and the state enters BLACK_START with the rotor loaded. -/
  | coherentStart (t : Nat)
  /-- RIDE_EXIT (R191). No cause has held for RideExitHold, so RIDE_THROUGH returns to FORMING or PARALLEL. -/
  | rideExit (t : Nat)
  /-- LIMIT_ENTRY (R190). CurrentLimit has held for LimitEntryTime without interruption, so the LIMIT cause holds. -/
  | limitEntry (t : Nat)
  /-- RIDE_TIMEOUT (R191). RIDE_THROUGH has lasted RideMaxTime, leading to SAFE_STOP with EV_124. -/
  | rideTimeout (t : Nat)
  /-- BLACK_START_TIMEOUT (R195). BlackStartMaxTime expires in BLACK_START, leading to SAFE_STOP with EV_125. -/
  | blackStartTimeout (t : Nat)
  /-- RESYNC_TIMEOUT (R195). ResyncMaxTime expires in RESYNC, returning the state to FORMING with EV_126. -/
  | resyncTimeout (t : Nat)
  /-- BREAKER_DIN_CHANGE (R204). The breaker's auxiliary contact on BreakerDin changes, releasing the close output and enabling the breaker transitions. -/
  | breakerDinChange (t : Nat) (din : Nat)
  /-- BREAKER_FAIL (R204). BreakerConfirmTime passes without BreakerDin showing closed, so the output is released and EV_128 is raised. -/
  | breakerFail (t : Nat)
  /-- CARRIER_VERTEX (R224). A carrier group passes a vertex, so update groups take committed sets at reload points and the half begins with its on-times. -/
  | carrierVertex (t : Nat) (side : Side) (g : Nat)
  /-- GATE_COMMAND_EDGE (R216). A counter match changes the command C, so one gate output falls and the dead time of the other begins. -/
  | gateCommandEdge (t : Nat) (side : Side) (p : Nat)
  /-- DEAD_TIME_EXPIRY (R216). The dead time after a command edge ends and the gate output rises if C is still at its level. -/
  | deadTimeExpiry (t : Nat) (side : Side) (p : Nat)
  /-- CARRIER_START (R213). A write to CarrierStart requests that the stopped groups with Run set start at time T, or is rejected with EV_149. -/
  | carrierStart (t : Nat) (at96 : Nat)
  /-- CARRIER_GROUP_START (R213). At the start time, a master starts at its bottom vertex and its followers Lag later, forming the sets from their shadows, and EV_148 is raised. -/
  | carrierGroupStart (t : Nat) (side : Side) (g : Nat)
  /-- CARRIER_STOP (R214). A write to CarrierStop names groups to halt in STANDBY or SAFE_STOP, or is rejected with EV_149. -/
  | carrierStop (t : Nat) (mask : Nat)
  /-- UPDATE_COMMIT (R223). A host write to UpdateCommit is stamped with an application time to commit the named update groups. -/
  | updateCommit (t : Nat) (mask : Nat)
  /-- SHADOW_WRITE (R222). A host write to ShadowUp, ShadowDown or ShadowOff of an undriven word is stamped for the sills, or is rejected with EV_147. -/
  | shadowWrite (t : Nat) (p : Nat) (sub : Nat) (value : Nat)
  /-- SHADOW_APPLY (R222). At its application time, a host shadow write or commit is applied in both sills, setting Partial or CommitPending. -/
  | shadowApply (t : Nat)
  /-- FAULT_IN_TRIP (R230). An enabled FAULT_IN reaches its active level, so every gate ball goes to high impedance within 120 ns and the trip latches. -/
  | faultInTrip (t : Nat) (n : Nat) (active : Bool)
  /-- RELEASE_FAULT_IN (R231). TripRelease bit 0 releases latched FAULT_IN trips in SAFE_STOP, or is refused with ReleaseRejected. -/
  | releaseFaultIn (t : Nat)
  /-- RELEASE_CHORD_TRIP (R231). TripRelease bit 1 releases a latched chord trip in SAFE_STOP, or is refused. -/
  | releaseChordTrip (t : Nat)
  /-- DISABLE_MASK_WRITE (R232). A write of a disable mask is stamped with an application time for disabling or enabling pairs. -/
  | disableMaskWrite (t : Nat) (ix : Nat) (value : Nat)
  /-- COMMISSION_ENTER (R233). CommissionRequest 1 enters COMMISSIONING when the seal is closed, the state is STANDBY and no trip is latched. -/
  | commissionEnter (t : Nat)
  /-- COMMISSION_LEAVE (R233). CommissionRequest 0 leaves COMMISSIONING, placing every pair in high impedance at once. -/
  | commissionLeave (t : Nat)
  /-- OVERRIDE_MAP_WRITE (R234). A write of OverrideMap in COMMISSIONING redirects or inverts pairs from the next vertex, or is refused. -/
  | overrideMapWrite (t : Nat) (map : List Nat)
  /-- DEBUG_HALT (R235). A debug halt freezes both sills' counters, with the gates in high impedance if the halt guard is closed, and raises EV_012. -/
  | debugHalt (t : Nat) (en : Bool)
  /-- DEBUG_RESUME (R236). Resume continues the counters and resets the heartbeat, signature and timeout judgements. -/
  | debugResume (t : Nat)
  /-- STACK_TRANSACTION (R241). A stack link transaction completes or fails, and is repeated up to twice before LinkFail is set. -/
  | stackTransaction (t : Nat) (k : Nat) (ok : Bool)
  /-- STRETCH_TIMEOUT (R239). Clock stretching exceeds 1 ms per byte and ends the transaction as failed. -/
  | stretchTimeout (t : Nat) (k : Nat)
  /-- POLL_TIMEOUT (R241). No acknowledge to address polling arrives within 6 ms of a page write, which fails the transaction. -/
  | pollTimeout (t : Nat) (k : Nat)
  /-- STACK_READ_DONE (R244). The read of a stack's identity block and copies completes and the valid later copy is adopted. -/
  | stackReadDone (t : Nat) (k : Nat) (ident : List Nat) (copyA : List Nat) (copyB : List Nat)
  /-- FLUSH (R252). StackCommand FLUSH queues a life-record write in STANDBY or SAFE_STOP. -/
  | flush (t : Nat) (k : Nat) (all : Bool)
  /-- RESCAN (R244). StackCommand RESCAN reads the stack's record again. -/
  | rescan (t : Nat) (k : Nat) (all : Bool)
  /-- INIT_RECORD (R245). StackCommand INIT_RECORD writes copy A with zero life when its conditions hold. -/
  | initRecord (t : Nat) (k : Nat)
  /-- BRING_IN (R256). StackCommand BRING_IN arms the spare for the named leg, or is refused with EV_186. -/
  | bringIn (t : Nat) (k : Nat) (leg : Nat)
  /-- CANCEL_BRING_IN (R257). StackCommand CANCEL_BRING_IN abandons an armed bring-in before it takes effect. -/
  | cancelBringIn (t : Nat) (k : Nat)
  /-- LIFE_WRITE_INTERVAL (R251). WriteInterval passes since the stack's last write or read, so a life-record write is queued. -/
  | lifeWriteInterval (t : Nat) (k : Nat)
  /-- LIFE_WRITTEN (R251). A life-record write of a stack completes, raising EV_179 and switching the target copy. -/
  | lifeWritten (t : Nat) (k : Nat)
  /-- RAINFLOW_POSTING (R249). The ridge applies a posting of closed cycles and TJ from a 0x2D instance to the stack account. -/
  | rainflowPosting (t : Nat)
  /-- STACK_HOURS (R250). Hours of a stack advance by 1/1024 h of ridge time while a pair of the stack is driven. -/
  | stackHours (t : Nat) (k : Nat)
  /-- WEAR_EVALUATION (R254). Every 60 s, the ridge recomputes the wear shares and marks legs DUE. -/
  | wearEvaluation (t : Nat)
  /-- SPARE_CROSSING_CHECK (R257). Every 1 µs, the ridge evaluates the chord sum S_c and detects a sign change. -/
  | spareCrossingCheck (t : Nat) (k : Nat)
  /-- SPARE_SWAP_TIMEOUT (R257). No crossing occurs within 100 ms of evaluation, so the arming is abandoned with EV_185. -/
  | spareSwapTimeout (t : Nat) (k : Nat)
  /-- HEARTBEAT (R264). A heartbeat of a side is received on path 1 or path 2 and checked for sequence and CRC. -/
  | heartbeat (t : Nat) (side : Side) (path : Nat) (seq : Nat) (crcOk : Bool)
  /-- HEARTBEAT_MISSING (R265). A heartbeat is not received 125 ns after its due instant and the missing count of that path grows. -/
  | heartbeatMissing (t : Nat) (side : Side) (path : Nat)
  /-- SIGNATURE_COMPARE (R268). 300 ns after formation, the ridge compares the two sides' signatures and raises EV_040 on a mismatch. -/
  | signatureCompare (t : Nat) (state : Bool) (received : Bool)
  /-- MISMATCH_RESOLUTION (R269). The lane tests ordered at a mismatch complete and decide the faulty side, or the mismatch is unresolved. -/
  | mismatchResolution (t : Nat) (failsA : List Nat) (failsB : List Nat)
  /-- MIRROR_FRAME (R273). In SPLIT_EXTENDED, side B receives mirrored compare words and state from side A and commits the same update groups. -/
  | mirrorFrame (t : Nat) (crcOk : Bool)
  /-- SIDE_JOINED (R279). The recovering side joins at the first tick after the mirror is complete, becomes RESERVE and clears Degraded. -/
  | sideJoined (t : Nat) (side : Side)
  /-- REINIT_ATTEMPT_FAILED (R280). A re-initialisation step finds a fault, so the attempt ends with the side FAILED. -/
  | reinitAttemptFailed (t : Nat) (side : Side)
  /-- REINIT_RETRY (R280). 1 s after a failed attempt, a new attempt starts if retries remain, and otherwise EV_037 is raised. -/
  | reinitRetry (t : Nat) (side : Side)
  /-- HANDOVER (R281). SideCommand HANDOVER requests a commanded handover to a RESERVE side. -/
  | handover (t : Nat)
  /-- HANDOVER_EXECUTE (R281). At the first main tick at which nothing blocks it, a revertive or commanded handover moves control and raises EV_038. -/
  | handoverExecute (t : Nat)
  /-- RESTORE (R280). SideCommand RESTORE restarts the re-initialisation of a side whose retries are spent. -/
  | restore (t : Nat) (side : Side)
  /-- POWER_DOWN (R285). SideCommand POWER_DOWN isolates a RESERVE or FAILED side and opens its power switches. -/
  | powerDown (t : Nat) (side : Side)
  /-- POWER_UP (R285). SideCommand POWER_UP closes an OFF side's switches and starts its re-initialisation. -/
  | powerUp (t : Nat) (side : Side)
  /-- DOUT_REQUEST (R276). A truss's DOUT request word reaches the ridge, which drives the unowned DOUT balls and may close the kerf window. -/
  | doutRequest (t : Nat) (side : Side)
  /-- KERF_WINDOW_CLOSE (R277). 3 µs after its opening, the kerf window closes at the latest. -/
  | kerfWindowClose (t : Nat)
  /-- LANE_TEST (R283). A lane signature test completes, and a failure is fatal for a lane in service. -/
  | laneTest (t : Nat) (side : Side) (joist : Nat) (lane : Nat) (pass : Bool)
  /-- ECC_ERROR (R283). An ECC error is detected on an access or a scrub, and an uncorrectable one is a side fault. -/
  | eccError (t : Nat) (side : Side) (loft : Bool) (uncorrectable : Bool) (addr : Nat)
  /-- PLL_FREQ_CHECK (R283). The PLL frequency check runs every 10 µs, and an error above 0.1 % is a fatal finding. -/
  | pllFreqCheck (t : Nat) (p : Nat) (ok : Bool)
  /-- BAD_HOLD_EXPIRY (R283). 1 s after a non-fatal condition ends, Bad clears in the health report. -/
  | badHoldExpiry (t : Nat) (side : Side)
  /-- SAFETY_CHANNEL_FAULT (R289). A difference between the safety channels lasts 1 µs, which is a ridge fault with Permit cleared. -/
  | safetyChannelFault (t : Nat)
  /-- SEAL_READING_ACCEPTED (R290). A seal-switch reading or mismatch persists for 10 ms and is accepted or becomes a seal fault. -/
  | sealReadingAccepted (t : Nat) (n : Nat) (tHigh : Bool) (cHigh : Bool) (held : Nat)
  /-- SIN_FILTER_EXPIRY (R295). A SIN ball holds its level for the filter time and becomes at demand or healthy. -/
  | sinFilterExpiry (t : Nat) (ball : Nat) (high : Bool) (held : Nat) (chans : Nat)
  /-- SIN_DISCREPANCY (R296). A discrepancy of a pair lasts the discrepancy time and latches SinDiscrepancy. -/
  | sinDiscrepancy (t : Nat) (n : Nat)
  /-- SOUT_REQUEST_WRITE (R297). A write to SoutRequest opens or allows the SOUT pairs on receipt. -/
  | soutRequestWrite (t : Nat) (value : Nat)
  /-- SOUT_TEST_PULSE (R300). A SOUT ball commanded high is driven low for its scheduled 250 µs test pulse. -/
  | soutTestPulse (t : Nat) (ball : Nat)
  /-- SOUT_TEST_END (R300). The test pulse ends and the readback decides pass, failure or discard. -/
  | soutTestEnd (t : Nat) (ball : Nat) (lowOk : Bool) (highOk : Bool)
  /-- SOUT_STUCK_ON (R299). A SOUT ball reads high while commanded low for 100 µs, which is a test failure. -/
  | soutStuckOn (t : Nat) (ball : Nat) (high : Bool) (held : Nat)
  /-- SAFETY_RESET (R305). At the return edge of a valid reset pulse, DemandLatched clears and Permit is set if no blocking condition holds. -/
  | safetyReset (t : Nat) (dur : Nat)
  /-- RESET_STUCK (R304). The reset line stays active for 2 s, blocking the reset and raising EV_006. -/
  | resetStuck (t : Nat)
  /-- RESET_DISCREPANCY (R304). The two reset balls disagree for 50 ms, blocking the reset and raising EV_007. -/
  | resetDiscrepancy (t : Nat)
  /-- RESET_BLOCK_END (R304). The reset line has been inactive for 1 s without interruption, so ResetBlocked clears. -/
  | resetBlockEnd (t : Nat)
  /-- ARBITER_REQUEST (R322). A request at an arbitrated resource is granted within its class bound, or refused for breaking the resource order. -/
  | arbiterRequest (t : Nat) (r : Nat) (inst : Nat) (unit : Nat) (num : Nat) (side : Side) (held : Nat) (addr : Nat) (write : Bool)
  /-- SEMAPHORE_REQUEST (R334). A request for a ridge semaphore is granted, queued or refused as busy. -/
  | semaphoreRequest (t : Nat) (n : Nat) (cls : Nat) (requester : Nat) (held : Nat)
  /-- SEMAPHORE_RELEASE (R334). The holder releases a semaphore and the next waiting request is granted. -/
  | semaphoreRelease (t : Nat) (n : Nat) (cls : Nat) (requester : Nat)
  /-- SEMAPHORE_LEASE_EXPIRED (R334). A 10 µs lease expires, which releases the semaphore and raises EV_252. -/
  | semaphoreLeaseExpired (t : Nat) (n : Nat)
  /-- INCREMENT_WRITE (R340). A write of Increment takes effect at the next tick, or is refused with EV_200. -/
  | incrementWrite (t : Nat) (value : Nat)
  /-- TIME_SET (R342). A write of TimeSet requests a step to an absolute time, or is refused. -/
  | timeSet (t : Nat) (at96 : Nat)
  /-- TIME_ADJUST (R342). A write of TimeAdjust requests a step by an offset, or is refused. -/
  | timeAdjust (t : Nat) (off : Nat)
  /-- TIME_STEP (R343). An accepted step acts at its tick, moving the pending stamped instants and angle lines and raising EV_192. -/
  | timeStep (t : Nat)
  /-- PTP_SYNC_RECEIVED (R344). A Sync on a slave port yields an offset, which the firmware servo uses to step or slew. -/
  | ptpSyncReceived (t : Nat) (port : Nat) (ether : Bool) (domain : Nat) (t1 : Nat) (t2 : Nat) (corr : Nat) (gm : Nat)
  /-- PATH_DELAY_MEASUREMENT (R352). A path-delay measurement completes and updates the held value, or makes the port suspect. -/
  | pathDelayMeasurement (t : Nat) (port : Nat) (d : Nat)
  /-- PATH_CONFIRM (R353). A write of PathConfirm sets Asymmetry and ends the path-step hold, or is refused. -/
  | pathConfirm (t : Nat) (port : Nat) (value : Nat)
  /-- PTP_ANNOUNCE_RECEIVED (R349). An Announce on a port feeds the BMCA and keeps the master present. -/
  | ptpAnnounceReceived (t : Nat) (port : Nat) (ether : Bool) (domain : Nat) (gm : Nat) (p1 : Nat) (cls : Nat) (acc : Nat) (var : Nat) (p2 : Nat) (steps : Nat) (sender : Nat)
  /-- ANNOUNCE_TIMEOUT (R346). announceReceiptTimeout expires or three Syncs are missed on the ports, which can begin holdover. -/
  | announceTimeout (t : Nat) (port : Nat)
  /-- HOLDOVER_VALID_EXPIRY (R347). Holdover has lasted HoldoverValid, so Synchronised clears. -/
  | holdoverValidExpiry (t : Nat)
  /-- PPS_IN_EDGE (R354). A rising edge at PPS_IN is timestamped and yields an offset when TimeSource is PPS_IN. -/
  | ppsInEdge (t : Nat) (stamp : Nat)
  /-- PPS_IN_TIMEOUT (R346). No PPS_IN edge arrives for 1.1 s, so holdover begins. -/
  | ppsInTimeout (t : Nat)
  /-- PTP_SYNC_SEND (R351). At its interval, a master port sends a one-step Sync stamped as it leaves. -/
  | ptpSyncSend (t : Nat) (port : Nat)
  /-- PPS_OUT_PULSE (R354). At each whole second of ridge time, PPS_OUT rises for PpsWidth ms. -/
  | ppsOutPulse (t : Nat)
  /-- LEAP_SECOND (R355). At LeapAt, UtcOffset changes by one and LeapPending clears. -/
  | leapSecond (t : Nat)
  /-- REF_FAULT (R359). A reference becomes faulty, so the ridge may switch to the other reference, and EV_202 is raised. -/
  | refFault (t : Nat) (alt : Bool) (on : Bool) (edges : Bool)
  /-- REF_SWITCH_COMMAND (R359). A write to RefSwitchCommand switches to the named reference at its next edge, or is refused. -/
  | refSwitchCommand (t : Nat) (value : Nat)
  /-- REF_DISAGREE (R361). The references differ by more than 1000 ppm over 1 s, setting Disagree. -/
  | refDisagree (t : Nat) (diff : Nat)
  /-- PLL_START (R364). A PLL is powered with its first band tried and its loop closed. -/
  | pllStart (t : Nat) (p : Nat)
  /-- PLL_LOCK (R364). Lock is declared after 128 reference periods within ±1 ns, recording StoredBand. -/
  | pllLock (t : Nat) (p : Nat)
  /-- PLL_RETRY_BAND (R364). 20 µs without lock, the PLL tries the other band and a lock then raises EV_204. -/
  | pllRetryBand (t : Nat) (p : Nat)
  /-- PLL_SWEEP (R365). 40 µs without lock, or with no band known, the PLL sweeps its bands and raises EV_205. -/
  | pllSweep (t : Nat) (p : Nat)
  /-- PLL_SWEEP_DONE (R365). The sweep completes and chooses a band, or leaves the PLL unlocked with EV_203. -/
  | pllSweepDone (t : Nat) (p : Nat) (table : List Nat)
  /-- PLL_LOCK_LOST (R367). A locked PLL loses lock: a side fault for a side PLL, and a stop and restart of the outputs for PLL_RIDGE. -/
  | pllLockLost (t : Nat) (p : Nat) (stopped : Bool)
  /-- CLKOUT_START (R370). A StartMask bit of ClkOutCommand starts an output at its application time, or the command is refused. -/
  | clkoutStart (t : Nat) (word : Nat)
  /-- CLKOUT_STOP (R370). A StopMask bit stops an output or cancels its held start, or the command is refused. -/
  | clkoutStop (t : Nat) (word : Nat)
  /-- CLKOUT_GATE_OPEN (R369). The output gate opens at the first falling divider edge after the application time, and EV_206 is raised. -/
  | clkoutGateOpen (t : Nat) (k : Nat)
  /-- CLKOUT_GATE_CLOSE (R369). The output gate closes at the first low divider instant after the application time. -/
  | clkoutGateClose (t : Nat) (k : Nat)
  /-- TRUSS_CLOCK_SWITCH (R373). In a lane-idle gap of 100 ns, a truss changes between PLL_TRUSS and its bridge. -/
  | trussClockSwitch (t : Nat) (side : Side)
  /-- SWITCH_DEFERRED (R373). No gap occurs within 10 ms, so SwitchDeferred is set and the truss keeps its source. -/
  | switchDeferred (t : Nat) (side : Side)
  /-- ARM (R382). CaptureCommand ARM arms the first free segment of each named plan from its application time. -/
  | arm (t : Nat) (mask : Nat) (session : Nat)
  /-- DISARM (R386). CaptureCommand DISARM stops the named plans at their next row. -/
  | disarm (t : Nat) (mask : Nat)
  /-- TRIGGER (R383). CaptureCommand TRIGGER sets a command trigger at its application time. -/
  | trigger (t : Nat) (mask : Nat)
  /-- RELEASE (R386). CaptureCommand RELEASE frees a named segment and may re-arm a full plan. -/
  | release (t : Nat) (seg : Nat)
  /-- CAPTURE_ROW (R379). A timebase event records a row of an armed plan at the factor in effect. -/
  | captureRow (t : Nat) (side : Side) (k : Nat) (stamp : Nat) (fill : Nat)
  /-- STREAM_BACKLOG_HALVING (R387). A stream backlog above StreamBacklog orders both sills to double their factor. -/
  | streamBacklogHalving (t : Nat) (k : Nat)
  /-- CAPTURE_STREAM_SEND (R390). The ridge sends the next STREAM message of a triggered segment within StreamRateMax. -/
  | captureStreamSend (t : Nat) (k : Nat)
  /-- SEGMENT_HOLD_EXPIRY (R386). 10 s after the last read of a segment, it is no longer held for reading. -/
  | segmentHoldExpiry (t : Nat) (side : Side) (seg : Nat)
  /-- SEGMENT_SELECT (R389). A write of SegmentSelect selects a segment for this reader and resets ReadOffset. -/
  | segmentSelect (t : Nat) (reader : Nat) (value : Nat)
  /-- SEGMENT_ROWS_READ (R389). A read of SegmentRows returns whole rows from ReadOffset and advances it. -/
  | segmentRowsRead (t : Nat) (reader : Nat)
  /-- HOURS_SEED (R395). The first write of HoursSeed sets OperatingHours, and later writes are refused with EV_217. -/
  | hoursSeed (t : Nat) (value : Nat)
  /-- POWER_CYCLE_SEED (R396). The first write of PowerCycleSeed sets PowerCycles, and later writes are refused. -/
  | powerCycleSeed (t : Nat) (value : Nat)
  /-- OPERATING_HOURS_TICK (R395). OperatingHours advances by one unit every 3.515625 s of elapsed ticks. -/
  | operatingHoursTick (t : Nat)
  /-- HISTOGRAM_SAMPLE (R398). Every PeriodMs, a quantity is sampled into its bins and extremes, or is skipped. -/
  | histogramSample (t : Nat) (q : Nat)
  /-- HISTOGRAM_CLEAR (R401). A write of HistogramClear clears the named quantities at its application time. -/
  | histogramClear (t : Nat) (mask : Nat)
  /-- SCRIBE_NOTE (R408). A write of ScribeNote enters a host record under the note bucket, or is refused. -/
  | scribeNote (t : Nat) (note : List Nat)
  /-- SCRIBE_TOKEN_REFILL (R407). A bucket below Capacity gains a token RefillMs after it fell below or last gained. -/
  | scribeTokenRefill (t : Nat) (bucket : Nat)
  /-- SCRIBE_RECORDS_READ (R406). A read of Records returns up to 32 records from this reader's RecordSelect and advances it. -/
  | scribeRecordsRead (t : Nat) (reader : Nat)
  /-- COMPAT_RECORDS_READ (R409). A read of CompatRecords returns records in the PX4410 format and advances CompatSelect. -/
  | compatRecordsRead (t : Nat) (reader : Nat)
  /-- START (R413). CounterCommand START starts the enabled counters of the named banks at the application time. -/
  | startCounters (t : Nat) (banks : Nat)
  /-- STOP_COUNTERS (R413). CounterCommand STOP stops the enabled counters of the named banks. -/
  | stopCounters (t : Nat) (banks : Nat)
  /-- CLEAR (R413). CounterCommand CLEAR sets the enabled counters of the named banks to 0. -/
  | clearCounters (t : Nat) (banks : Nat)
  /-- COUNTER_WRITE (R413). A write of Counter acts in the first clock of its die at or after the application time. -/
  | counterWrite (t : Nat) (ix : Nat) (value : Nat)
  /-- COUNTER_READ_LATCH (R415). A read of an even chained counter latches its odd partner for this reader. -/
  | counterReadLatch (t : Nat) (reader : Nat) (ix : Nat)
  /-- COUNTER_OVERFLOW (R410). A counter passes 0xFFFF_FFFF, wraps, sets Overflow, carries and may raise EV_218. -/
  | counterOverflow (t : Nat) (ix : Nat) (amount : Nat)
  /-- TAG_RECORD (R418). A tagged execution reaches Readable and its record is appended to the tag ring. -/
  | tagRecord (t : Nat) (side : Side) (joist : Nat) (timing : List Nat)
  /-- TAG_RECORDS_READ (R406). A read of TagRecords returns records from this reader's TagSelect and advances it. -/
  | tagRecordsRead (t : Nat) (reader : Nat) (side : Side)
  /-- FRAME_RECEIVED (R433). A port receives an Ethernet frame, which is delivered, forwarded or discarded under the redundancy mode. -/
  | frameReceived (t : Nat) (port : Nat) (frame : Frame)
  /-- ARP_REQUEST (R433). An ARP request for the device's address is answered. -/
  | arpRequest (t : Nat) (port : Nat) (target : Nat)
  /-- ICMP_ECHO (R433). An ICMP echo request is answered, at most 100 replies per second. -/
  | icmpEcho (t : Nat) (port : Nat) (target : Nat)
  /-- SUPERVISION_FRAME_SEND (R438). Every LifeCheckInterval, a PRP or HSR supervision frame is sent. -/
  | supervisionFrameSend (t : Nat)
  /-- LAN_FAULT (R438). Trailered frames arrive on one port only for LanCheckTime, setting the LAN fault of the silent port. -/
  | lanFault (t : Nat) (port : Nat)
  /-- RING_FAULT (R439). The device's own supervision frames fail to return for three intervals, setting RingOpen. -/
  | ringFault (t : Nat) (port : Nat)
  /-- PORT_LINK_CHANGE (R450). The PHY reports a link change over MDIO and EV_232 is raised. -/
  | portLinkChange (t : Nat) (port : Nat) (up : Bool)
  /-- IDENTIFY (R437). An IDENTIFY message is answered with the identity objects without authentication. -/
  | identify (t : Nat) (msg : Msg)
  /-- KEY_LOAD (R442). A KEY_LOAD that decrypts and verifies sets the role keys and KeyState LOADED. -/
  | keyLoad (t : Nat) (msg : Msg)
  /-- OPEN (R444). An OPEN request opens a session with a fresh DeviceNonce and session key, or is discarded. -/
  | openSession (t : Nat) (msg : Msg)
  /-- CLOSE (R445). A CLOSE message closes its session and discards its per-reader values. -/
  | closeSession (t : Nat) (msg : Msg)
  /-- READ (R435). A READ message reads each of its items in order and returns a response. -/
  | readObjects (t : Nat) (msg : Msg)
  /-- WRITE (R435). A WRITE message writes each of its items in order and returns a response. -/
  | writeObjects (t : Nat) (msg : Msg)
  /-- KEEPALIVE (R445). A KEEPALIVE message keeps its session from closing for idle time. -/
  | keepalive (t : Nat) (msg : Msg)
  /-- SOURCE_BLOCK_END (R443). 10 s after blocking, messages from the address are processed again. -/
  | sourceBlockEnd (t : Nat) (ip : Nat)
  /-- SESSION_IDLE_TIMEOUT (R445). SessionIdle passes with no accepted message, so the session closes. -/
  | sessionIdleTimeout (t : Nat) (sid : Nat)
  /-- SEND (R441). Boot-port opcode SEND shifts in one SOT message, which is discarded while Busy. -/
  | bootSend (t : Nat) (len : Nat) (msg : Msg)
  /-- FETCH (R441). Boot-port opcode FETCH shifts out the oldest waiting message with its length. -/
  | bootFetch (t : Nat)
  /-- STATUS (R441). Boot-port opcode STATUS returns only the status byte. -/
  | bootStatus (t : Nat)
  /-- BEGIN (R428). SetCommand BEGIN opens a configuration set owned by the session, or is refused. -/
  | beginSet (t : Nat) (reader : Nat) (setId : Nat)
  /-- COMMIT (R430). SetCommand COMMIT starts the ordered checks of the staged set. -/
  | commitSet (t : Nat) (reader : Nat)
  /-- ABORT (R432). SetCommand ABORT discards the staged values and closes the set. -/
  | abortSet (t : Nat) (reader : Nat)
  /-- COMMIT_COMPLETE (R431). The checks complete, so the set takes effect at T_c on both sides, or is rejected with its error. -/
  | commitComplete (t : Nat)
  /-- SET_IDLE_TIMEOUT (R432). SetIdleTimeout passes without a write or COMMIT from the owner, so the set is aborted. -/
  | setIdleTimeout (t : Nat)
  /-- CONFIG_OBJECT_WRITE (R429). A write of a configuration object inside an open set is checked and staged. -/
  | configObjectWrite (t : Nat) (reader : Nat) (obj : Nat) (data : List Nat)
  /-- OBJECT_WRITE (R423). A write to an object with no row of its own takes effect on receipt after the checks of access, size and range. -/
  | objectWrite (t : Nat) (reader : Nat) (obj : Nat) (data : List Nat)
  /-- SEGMENTED_WRITE_TIMEOUT (R426). A segmented write in progress that receives no segment for 10 s is discarded. -/
  | segmentedWriteTimeout (t : Nat) (reader : Nat) (obj : Nat)
  /-- SNAPSHOT_TIMEOUT (R427). A read snapshot left unread for 1 s is released. -/
  | snapshotTimeout (t : Nat) (reader : Nat) (obj : Nat)
  /-- PENDING_CLEAR (R446). A 32-byte W1C write to Pending clears event flags, and EVT_N may release. -/
  | pendingClear (t : Nat) (data : List Nat)
  /-- COUNT_CLEAR (R446). A 32-byte write to CountClear clears the named occurrence counts. -/
  | countClear (t : Nat) (data : List Nat)
  /-- NOTIFY_HOLDOFF_EXPIRY (R448). NotifyHoldoff after the first unreported occurrence, NOTIFY messages are sent to the subscribed session. -/
  | notifyHoldoffExpiry (t : Nat) (reader : Nat)
  /-- SAMPLING_EDGE (R94). At each sampling edge of a clock group, every receiver takes a modulator bit; the CIC integrates it, each chord filter is re-evaluated, comparator persistence counts advance or restart, and the run of identical bits grows or restarts. -/
  | samplingEdge (t : Nat) (g : Nat) (bitsA : Nat) (bitsB : Nat) (bitsR : Nat)
  /-- PLATE_MIN_ON_EXPIRY (R228). PlateMinOn after an output rose, the plate's minimum on-time hold ends and a held output falls to follow its command. -/
  | plateMinOnExpiry (t : Nat) (p : Nat)
  /-- SENSOR_UPDATE (R471). At its cadence of 1 ms, 10 ms or 1 s, the management island updates a sensor value, and TempHigh and rail-warning episodes end when the value has returned. -/
  | sensorUpdate (t : Nat) (sensor : Nat) (value : Nat)
  /-- PTP_DELAY_REQUEST_SEND (R352). At its log delay interval, a slave port sends a Delay_Req, or a Pdelay_Req under POWER_UTILITY, stamped as it leaves. -/
  | ptpDelayRequestSend (t : Nat) (port : Nat)
  /-- PTP_ANNOUNCE_SEND (R349). At its logAnnounceInterval, a port in a master role sends an Announce for the BMCA of the other clocks. -/
  | ptpAnnounceSend (t : Nat) (port : Nat)
  deriving DecidableEq, Repr

/-- The instant of a command, in femtoseconds since power good (log entry 1). -/
def Instr.time : Instr → Nat
  | .powerGood t _ => t
  | .romChecksComplete t _ _ => t
  | .pufDerivation t _ _ => t
  | .loaderBlock t _ _ _ _ _ => t
  | .loaderStatusOp t _ _ => t
  | .loaderAbort t _ _ => t
  | .bootLoad t _ _ _ => t
  | .loaderStatus t => t
  | .loaderIdleTimeout t => t
  | .imageVerify t => t
  | .fwStart t => t
  | .bringUp t _ => t
  | .bringUpComplete t _ _ => t
  | .restart t _ => t
  | .islandWatchdog t _ => t
  | .islandRestartDone t => t
  | .imagePartWrite t _ _ => t
  | .imageVerifyCommand t => t
  | .imageSwitch t => t
  | .imageDiscard t => t
  | .tempHigh t _ _ _ => t
  | .tempCritical t _ _ _ => t
  | .railWarning t _ _ _ => t
  | .railFault t _ _ _ => t
  | .vddRidgeLoss t => t
  | .ridgeFault t => t
  | .trussLinkFrame t _ _ _ => t
  | .syncInEdge t _ => t
  | .syncCommand t _ => t
  | .syncOutPulse t => t
  | .decimAlignment t _ => t
  | .decimationBoundary t _ _ => t
  | .stuckBits t _ _ => t
  | .modClockMissing t _ => t
  | .feedbackDisagreement t _ => t
  | .modelTimeExpiry t _ => t
  | .samplingClockStart t _ => t
  | .feedbackRecovery t _ => t
  | .settlingCleared t _ _ => t
  | .bankSwapRequest t _ => t
  | .arcRefTriple t _ _ => t
  | .arcRefApply t _ _ => t
  | .arcRefStale t _ => t
  | .comparatorFire t _ _ => t
  | .blankWindowOpen t _ _ => t
  | .blankWindowClose t _ => t
  | .fastTick t _ => t
  | .laneWake t _ _ _ => t
  | .entryExecution t _ _ => t
  | .compareWriter t _ => t
  | .graphSwitchRequest t _ => t
  | .graphSwitch t => t
  | .resultRead t _ _ _ => t
  | .resultFifoRead t _ _ _ => t
  | .presetNow t _ _ => t
  | .modeForceManual t _ _ => t
  | .modeForceAutomatic t _ _ => t
  | .modeRelease t _ _ => t
  | .paramSwapRequest t _ => t
  | .gfMainTick t => t
  | .gfIdleEvaluation t => t
  | .blackStart t _ => t
  | .join t => t
  | .resync t => t
  | .abortResync t => t
  | .stop t => t
  | .acknowledge t => t
  | .cancelStart t => t
  | .coherentStart t => t
  | .rideExit t => t
  | .limitEntry t => t
  | .rideTimeout t => t
  | .blackStartTimeout t => t
  | .resyncTimeout t => t
  | .breakerDinChange t _ => t
  | .breakerFail t => t
  | .carrierVertex t _ _ => t
  | .gateCommandEdge t _ _ => t
  | .deadTimeExpiry t _ _ => t
  | .carrierStart t _ => t
  | .carrierGroupStart t _ _ => t
  | .carrierStop t _ => t
  | .updateCommit t _ => t
  | .shadowWrite t _ _ _ => t
  | .shadowApply t => t
  | .faultInTrip t _ _ => t
  | .releaseFaultIn t => t
  | .releaseChordTrip t => t
  | .disableMaskWrite t _ _ => t
  | .commissionEnter t => t
  | .commissionLeave t => t
  | .overrideMapWrite t _ => t
  | .debugHalt t _ => t
  | .debugResume t => t
  | .stackTransaction t _ _ => t
  | .stretchTimeout t _ => t
  | .pollTimeout t _ => t
  | .stackReadDone t _ _ _ _ => t
  | .flush t _ _ => t
  | .rescan t _ _ => t
  | .initRecord t _ => t
  | .bringIn t _ _ => t
  | .cancelBringIn t _ => t
  | .lifeWriteInterval t _ => t
  | .lifeWritten t _ => t
  | .rainflowPosting t => t
  | .stackHours t _ => t
  | .wearEvaluation t => t
  | .spareCrossingCheck t _ => t
  | .spareSwapTimeout t _ => t
  | .heartbeat t _ _ _ _ => t
  | .heartbeatMissing t _ _ => t
  | .signatureCompare t _ _ => t
  | .mismatchResolution t _ _ => t
  | .mirrorFrame t _ => t
  | .sideJoined t _ => t
  | .reinitAttemptFailed t _ => t
  | .reinitRetry t _ => t
  | .handover t => t
  | .handoverExecute t => t
  | .restore t _ => t
  | .powerDown t _ => t
  | .powerUp t _ => t
  | .doutRequest t _ => t
  | .kerfWindowClose t => t
  | .laneTest t _ _ _ _ => t
  | .eccError t _ _ _ _ => t
  | .pllFreqCheck t _ _ => t
  | .badHoldExpiry t _ => t
  | .safetyChannelFault t => t
  | .sealReadingAccepted t _ _ _ _ => t
  | .sinFilterExpiry t _ _ _ _ => t
  | .sinDiscrepancy t _ => t
  | .soutRequestWrite t _ => t
  | .soutTestPulse t _ => t
  | .soutTestEnd t _ _ _ => t
  | .soutStuckOn t _ _ _ => t
  | .safetyReset t _ => t
  | .resetStuck t => t
  | .resetDiscrepancy t => t
  | .resetBlockEnd t => t
  | .arbiterRequest t _ _ _ _ _ _ _ _ => t
  | .semaphoreRequest t _ _ _ _ => t
  | .semaphoreRelease t _ _ _ => t
  | .semaphoreLeaseExpired t _ => t
  | .incrementWrite t _ => t
  | .timeSet t _ => t
  | .timeAdjust t _ => t
  | .timeStep t => t
  | .ptpSyncReceived t _ _ _ _ _ _ _ => t
  | .pathDelayMeasurement t _ _ => t
  | .pathConfirm t _ _ => t
  | .ptpAnnounceReceived t _ _ _ _ _ _ _ _ _ _ _ => t
  | .announceTimeout t _ => t
  | .holdoverValidExpiry t => t
  | .ppsInEdge t _ => t
  | .ppsInTimeout t => t
  | .ptpSyncSend t _ => t
  | .ppsOutPulse t => t
  | .leapSecond t => t
  | .refFault t _ _ _ => t
  | .refSwitchCommand t _ => t
  | .refDisagree t _ => t
  | .pllStart t _ => t
  | .pllLock t _ => t
  | .pllRetryBand t _ => t
  | .pllSweep t _ => t
  | .pllSweepDone t _ _ => t
  | .pllLockLost t _ _ => t
  | .clkoutStart t _ => t
  | .clkoutStop t _ => t
  | .clkoutGateOpen t _ => t
  | .clkoutGateClose t _ => t
  | .trussClockSwitch t _ => t
  | .switchDeferred t _ => t
  | .arm t _ _ => t
  | .disarm t _ => t
  | .trigger t _ => t
  | .release t _ => t
  | .captureRow t _ _ _ _ => t
  | .streamBacklogHalving t _ => t
  | .captureStreamSend t _ => t
  | .segmentHoldExpiry t _ _ => t
  | .segmentSelect t _ _ => t
  | .segmentRowsRead t _ => t
  | .hoursSeed t _ => t
  | .powerCycleSeed t _ => t
  | .operatingHoursTick t => t
  | .histogramSample t _ => t
  | .histogramClear t _ => t
  | .scribeNote t _ => t
  | .scribeTokenRefill t _ => t
  | .scribeRecordsRead t _ => t
  | .compatRecordsRead t _ => t
  | .startCounters t _ => t
  | .stopCounters t _ => t
  | .clearCounters t _ => t
  | .counterWrite t _ _ => t
  | .counterReadLatch t _ _ => t
  | .counterOverflow t _ _ => t
  | .tagRecord t _ _ _ => t
  | .tagRecordsRead t _ _ => t
  | .frameReceived t _ _ => t
  | .arpRequest t _ _ => t
  | .icmpEcho t _ _ => t
  | .supervisionFrameSend t => t
  | .lanFault t _ => t
  | .ringFault t _ => t
  | .portLinkChange t _ _ => t
  | .identify t _ => t
  | .keyLoad t _ => t
  | .openSession t _ => t
  | .closeSession t _ => t
  | .readObjects t _ => t
  | .writeObjects t _ => t
  | .keepalive t _ => t
  | .sourceBlockEnd t _ => t
  | .sessionIdleTimeout t _ => t
  | .bootSend t _ _ => t
  | .bootFetch t => t
  | .bootStatus t => t
  | .beginSet t _ _ => t
  | .commitSet t _ => t
  | .abortSet t _ => t
  | .commitComplete t => t
  | .setIdleTimeout t => t
  | .configObjectWrite t _ _ _ => t
  | .objectWrite t _ _ _ => t
  | .segmentedWriteTimeout t _ _ => t
  | .snapshotTimeout t _ _ => t
  | .pendingClear t _ => t
  | .countClear t _ => t
  | .notifyHoldoffExpiry t _ => t
  | .samplingEdge t _ _ _ _ => t
  | .plateMinOnExpiry t _ => t
  | .sensorUpdate t _ _ => t
  | .ptpDelayRequestSend t _ => t
  | .ptpAnnounceSend t _ => t

end Sys2Proof
end

