-- ==== Sys2Proof/Config.lean ====
section
/-!
DEFINITION. What an implementation fixes and the spec does not give: constants without a body, so that no proof can see their values.
-/
namespace Sys2Proof.Config

/-- The root key in the ridge mask ROM (R460): an uncompressed P-256 point. -/
opaque rootKey : List Nat

/-- A value the spec leaves open, one for each count of State.freeCount (log entry 5). -/
opaque freeWord : Nat → Nat

/-- The free coefficients of the arc resampler's prototype in Q1.22 (R84 gives properties of the prototype and no values): `arcH` of
Machine/ArcOps.lean makes of them a prototype with the exact properties of Table 03.6. -/
opaque arcProto : Nat → Int

/-- The coefficient 1 − exp(−Ts/τ) of element 0x2C (R246) in F32, from Ts and τ as F32 patterns, as the device's own algorithm gives it:
free within the relative error that R246 states (`expCoef` of Machine/ElemOps.lean). -/
opaque expCoef : Nat → Nat → Nat

/-- What R164 leaves open in the step of a resonant pair of elements 0x0C and 0x0D, from Kr, Order, F, Wc and Ts, all F32 patterns in this
order: the coefficient of x1 in x1 (0), of x2 in x1 (1), and of the error in x1 (2) and in x2 (3). -/
opaque resonator : List Nat → Nat → Nat

/-- What an F32 that is not a number becomes in a conversion to Q1.30 (R165, R206 state no value). -/
opaque nanQ30 : Nat → Int

/-- What a clamp of an F32 to the empty range of a negative limit gives (R167 states no value), from the F32 and the limit. -/
opaque openClamp : Nat → Nat → Nat

/-- What a channel input of a frame reads while the channel has delivered no sample (R108 states no value), as Q1.30. -/
opaque noSample : Nat → Int

/-- The ridge time at which the last scrub pass of a side had completed at a ridge time, both in 2^-32 ns (Table 09.4 bounds the length of a
pass and states no instant). -/
opaque scrubPass : Nat → Nat → Nat

/-- How long the ROM loader absorbs a block of a length, in ns (Table 17.3 states no time). -/
opaque absorbTime : Nat → Nat

/-- A read of a side's loft that is granted at a ridge time meets a refresh (Tables 11.2 and 15.8 state no instants of refreshes). -/
opaque meetsRefresh : Nat → Nat → Bool

end Sys2Proof.Config
end

