-- ==== Sys2Proof/Machine/Arith.lean ====
section
/-!
DEFINITION. Bit fields, two's complement, convergent rounding (R50), saturation (R51), CRC-32 (R55), and the exact dyadic
arithmetic under F32 and F64 (R7, R144).
-/
namespace Sys2Proof.Machine

/-! ### Bit fields (R10) -/

/-- Field [hi:lo] of a register value. -/
def bits (n hi lo : Nat) : Nat := (n >>> lo) % 2 ^ (hi + 1 - lo)

/-- The register value with field [hi:lo] replaced by `v`. -/
def setBits (n hi lo v : Nat) : Nat :=
  (n >>> (hi + 1)) <<< (hi + 1) ||| ((v % 2 ^ (hi + 1 - lo)) <<< lo) ||| (n % 2 ^ lo)

/-- Bit `i` of a register value set to `b`. -/
def setBit (n i : Nat) (b : Bool) : Nat := setBits n i i b.toNat

/-- The bits of `m` cleared in `n`: a write of ones to W1C flags (Table 00.4). -/
def clearMask (n m : Nat) : Nat := n - (n &&& m)

/-- The indices below `n` whose bit is set in `m`, rising. -/
def maskList (n m : Nat) : List Nat := (List.range n).filter (fun i => m.testBit i)

/-! ### Two's complement and rounding -/

/-- The signed reading of a `w`-bit pattern. -/
def sx (w n : Nat) : Int := if n.testBit (w - 1) then (n : Int) - (2 ^ w : Nat) else n

/-- The `w`-bit pattern of an integer. -/
def ofInt (w : Nat) (i : Int) : Nat := (i % ((2 ^ w : Nat) : Int)).toNat

/-- Convergent rounding of num / den, den positive: to nearest, ties to even (R50). -/
def convDiv (num : Int) (den : Nat) : Int :=
  let q := num / (den : Int)
  let r := 2 * (num % (den : Int))
  if r < den then q else if r > den then q + 1 else if q % 2 = 0 then q else q + 1

/-- Convergent rounding of num / 2^k (R50). -/
def convShift (num : Int) (k : Nat) : Int := convDiv num (2 ^ k)

/-- An integer held within [lo, hi]. -/
def clampI (lo hi x : Int) : Int := if x < lo then lo else if hi < x then hi else x

/-- Saturation to a `w`-bit signed number (R51). -/
def satI (w : Nat) (x : Int) : Int := clampI (-(2 ^ (w - 1) : Nat)) ((2 ^ (w - 1) : Nat) - 1) x

/-- A counter that stops at its greatest value. -/
def satInc (w n : Nat) : Nat := if n + 1 < 2 ^ w then n + 1 else 2 ^ w - 1

/-- The number of ones of an `n`-bit mask. -/
def popcount (n m : Nat) : Nat := (maskList n m).length

/-! ### Byte strings (R9) -/

/-- The big-endian value of a byte string. -/
def beNat (bs : List Nat) : Nat := bs.foldl (fun a b => a * 256 + b % 256) 0

/-- The `n` big-endian bytes of a number. -/
def beBytes : Nat → Nat → List Nat
  | 0, _ => []
  | n + 1, v => (v >>> (8 * n)) % 256 :: beBytes n v

/-- The bytes [off, off + n) of a byte string. -/
def slice (bs : List Nat) (off n : Nat) : List Nat := (bs.drop off).take n

/-- The big-endian field of `n` bytes at `off`. -/
def field (bs : List Nat) (off n : Nat) : Nat := beNat (slice bs off n)

/-- The 32-bit word `i` of a byte string. -/
def word32 (bs : List Nat) (i : Nat) : Nat := field bs (4 * i) 4

/-- All 32-bit words of a byte string of `n` words. -/
def words32 (bs : List Nat) (n : Nat) : List Nat := (List.range n).map (word32 bs)

/-- The byte string of a list of 32-bit words. -/
def bytesOf32 (ws : List Nat) : List Nat := ws.flatMap (beBytes 4)

/-- Element `i` of a list with a default. -/
def nth {α : Type} (d : α) (l : List α) (i : Nat) : α := (l[i]?).getD d

/-- Element `i` replaced; a position beyond the list is no element of it. -/
def setNth {α : Type} (l : List α) (i : Nat) (v : α) : List α := l.set i v

/-- The bits of a byte string, bit n of byte n div 8 counted from bit 0 (Table 16.10). -/
def blobBit (bs : List Nat) (n : Nat) : Bool := (nth 0 bs (n / 8)).testBit (n % 8)

/-- One bit of a byte string set. -/
def blobSetBit (bs : List Nat) (n : Nat) (b : Bool) : List Nat :=
  setNth bs (n / 8) (setBit (nth 0 bs (n / 8)) (n % 8) b)

/-- One step of the reflected CRC-32 of IEEE 802.3 over a bit. -/
def crcBit (c : Nat) : Nat := if c % 2 = 1 then (c / 2) ^^^ 0xEDB88320 else c / 2

/-- One byte of the reflected CRC-32. -/
def crcByte (c b : Nat) : Nat :=
  crcBit (crcBit (crcBit (crcBit (crcBit (crcBit (crcBit (crcBit (c ^^^ (b % 256)))))))))

/-- CRC-32 of IEEE 802.3 over a byte string (R55). -/
def crc32 (bs : List Nat) : Nat := (bs.foldl crcByte 0xFFFFFFFF) ^^^ 0xFFFFFFFF

/-! ### Dyadic numbers and IEEE 754 formats -/

/-- An exact number m · 2^e. -/
structure Dyadic where
  m : Int
  e : Int
  deriving DecidableEq, Repr

namespace Dy

/-- Two dyadics over their common exponent. -/
def align (a b : Dyadic) : Int × Int × Int :=
  let e := min a.e b.e
  (a.m * ((2 ^ (a.e - e).toNat : Nat) : Int), b.m * ((2 ^ (b.e - e).toNat : Nat) : Int), e)

def add (a b : Dyadic) : Dyadic := let (x, y, e) := align a b; ⟨x + y, e⟩
def neg (a : Dyadic) : Dyadic := ⟨-a.m, a.e⟩
def sub (a b : Dyadic) : Dyadic := add a (neg b)
def mul (a b : Dyadic) : Dyadic := ⟨a.m * b.m, a.e + b.e⟩
def ofInt (i : Int) : Dyadic := ⟨i, 0⟩
def lt (a b : Dyadic) : Bool := let (x, y, _) := align a b; x < y
def le (a b : Dyadic) : Bool := let (x, y, _) := align a b; x ≤ y
/-- The integer nearest to a · 2^k, ties to even. -/
def roundScaled (a : Dyadic) (k : Int) : Int :=
  let e := a.e + k
  if 0 ≤ e then a.m * ((2 ^ e.toNat : Nat) : Int) else convShift a.m (-e).toNat
/-- The floor of a · 2^k. -/
def floorScaled (a : Dyadic) (k : Int) : Int :=
  let e := a.e + k
  if 0 ≤ e then a.m * ((2 ^ e.toNat : Nat) : Int) else a.m / ((2 ^ (-e).toNat : Nat) : Int)

end Dy

/-- A binary interchange format: exponent bits and fraction bits. -/
structure Fmt where
  eb : Nat
  mb : Nat
  deriving DecidableEq, Repr

/-- binary32 (R7). -/
def Fmt.b32 : Fmt := ⟨8, 23⟩
/-- binary64 (R7). -/
def Fmt.b64 : Fmt := ⟨11, 52⟩

/-- The value of a pattern: not a number, an infinity, or ± m · 2^e. -/
inductive Fp where
  | nan
  | inf (neg : Bool)
  | fin (neg : Bool) (m : Nat) (e : Int)
  deriving DecidableEq, Repr

namespace Fp

def bias (f : Fmt) : Int := (2 ^ (f.eb - 1) : Nat) - 1

/-- The value a pattern holds; with `ftz` a subnormal reads as zero of its sign (R144). -/
def unpack (f : Fmt) (ftz : Bool) (n : Nat) : Fp :=
  let neg := n.testBit (f.eb + f.mb)
  let ex := bits n (f.eb + f.mb - 1) f.mb
  let fr := n % 2 ^ f.mb
  if ex = 2 ^ f.eb - 1 then (if fr = 0 then inf neg else nan)
  else if ex = 0 then (if ftz then fin neg 0 0 else fin neg fr (1 - bias f - f.mb))
  else fin neg (2 ^ f.mb + fr) ((ex : Int) - bias f - f.mb)

def signBit (f : Fmt) (neg : Bool) : Nat := if neg then 2 ^ (f.eb + f.mb) else 0
def packInf (f : Fmt) (neg : Bool) : Nat := signBit f neg + (2 ^ f.eb - 1) <<< f.mb
/-- The quiet NaN with a clear payload. -/
def packNan (f : Fmt) : Nat := (2 ^ f.eb - 1) <<< f.mb + 2 ^ (f.mb - 1)

/-- m with `sh` low bits rounded away to nearest even; `sticky` says that the exact value lies above m. -/
def roundShift (m : Nat) (sh : Int) (sticky : Bool) : Nat :=
  if sh ≤ 0 then m <<< (-sh).toNat
  else
    let k := sh.toNat
    let q := m >>> k
    let r := m % 2 ^ k
    let h := 2 ^ (k - 1)
    if r < h then q else if r > h then q + 1 else if sticky || q % 2 = 1 then q + 1 else q

/-- The pattern nearest to ± m · 2^e: ties to even; with `ftz` judged under R144, else with gradual underflow. -/
def pack (f : Fmt) (ftz : Bool) (neg : Bool) (m : Nat) (e : Int) (sticky : Bool) : Nat :=
  if m = 0 then signBit f neg
  else
    let p : Int := f.mb + 1
    let len : Int := (Nat.log2 m : Int) + 1
    let emin := 1 - bias f - f.mb
    let sh := if ftz then len - p else max (len - p) (emin - e)
    let q := roundShift m sh sticky
    if q = 0 then signBit f neg
    else
      let qe := e + sh
      let msb := qe + (Nat.log2 q : Int)
      if bias f < msb then packInf f neg
      else if msb < 1 - bias f then
        (if ftz then signBit f neg
         else signBit f neg + (if qe ≥ emin then q <<< (qe - emin).toNat else q >>> (emin - qe).toNat))
      else
        let d := (p - 1) - (Nat.log2 q : Int)
        let frac := (if 0 ≤ d then q <<< d.toNat else q >>> (-d).toNat) % 2 ^ f.mb
        signBit f neg + (msb + bias f).toNat <<< f.mb + frac

def packDy (f : Fmt) (ftz : Bool) (d : Dyadic) : Nat := pack f ftz (d.m < 0) d.m.natAbs d.e false

def dy (neg : Bool) (m : Nat) (e : Int) : Dyadic := ⟨if neg then -(m : Int) else m, e⟩

/-- The exact value of a finite pattern, zero for the others. -/
def toDy (f : Fmt) (ftz : Bool) (n : Nat) : Dyadic :=
  match unpack f ftz n with
  | fin s m e => dy s m e
  | _ => ⟨0, 0⟩

def isNan (f : Fmt) (n : Nat) : Bool := unpack f false n == nan
def isFinite (f : Fmt) (n : Nat) : Bool := bits n (f.eb + f.mb - 1) f.mb != 2 ^ f.eb - 1

def neg (f : Fmt) (n : Nat) : Nat := n ^^^ 2 ^ (f.eb + f.mb)
def abs (f : Fmt) (n : Nat) : Nat := n % 2 ^ (f.eb + f.mb)

/-- The sum of two finite values with the sign of an exact zero as IEEE 754 gives it. -/
def addFin (f : Fmt) (ftz : Bool) (s1 : Bool) (m1 : Nat) (e1 : Int) (s2 : Bool) (m2 : Nat) (e2 : Int) : Nat :=
  let r := Dy.add (dy s1 m1 e1) (dy s2 m2 e2)
  if r.m = 0 then signBit f (m1 == 0 && m2 == 0 && s1 && s2) else packDy f ftz r

def add (f : Fmt) (ftz : Bool) (a b : Nat) : Nat :=
  match unpack f ftz a, unpack f ftz b with
  | fin s1 m1 e1, fin s2 m2 e2 => addFin f ftz s1 m1 e1 s2 m2 e2
  | nan, _ => packNan f
  | _, nan => packNan f
  | inf s1, inf s2 => if s1 = s2 then packInf f s1 else packNan f
  | inf s, fin _ _ _ => packInf f s
  | fin _ _ _, inf s => packInf f s

def sub (f : Fmt) (ftz : Bool) (a b : Nat) : Nat := add f ftz a (neg f b)

def mul (f : Fmt) (ftz : Bool) (a b : Nat) : Nat :=
  match unpack f ftz a, unpack f ftz b with
  | fin s1 m1 e1, fin s2 m2 e2 => pack f ftz (s1 != s2) (m1 * m2) (e1 + e2) false
  | nan, _ => packNan f
  | _, nan => packNan f
  | inf s1, inf s2 => packInf f (s1 != s2)
  | inf s1, fin s2 m _ => if m = 0 then packNan f else packInf f (s1 != s2)
  | fin s1 m _, inf s2 => if m = 0 then packNan f else packInf f (s1 != s2)

/-- a × b + c rounded once. -/
def fma (f : Fmt) (ftz : Bool) (a b c : Nat) : Nat :=
  match unpack f ftz a, unpack f ftz b, unpack f ftz c with
  | fin s1 m1 e1, fin s2 m2 e2, fin s3 m3 e3 => addFin f ftz (s1 != s2) (m1 * m2) (e1 + e2) s3 m3 e3
  | fin _ _ _, fin _ _ _, inf s => packInf f s
  | _, _, _ => add f ftz (mul f ftz a b) c

def div (f : Fmt) (ftz : Bool) (a b : Nat) : Nat :=
  match unpack f ftz a, unpack f ftz b with
  | fin s1 m1 e1, fin s2 m2 e2 =>
    if m2 = 0 then (if m1 = 0 then packNan f else packInf f (s1 != s2))
    else
      let k := f.mb + 4 + Nat.log2 m2
      let n := m1 <<< k
      pack f ftz (s1 != s2) (n / m2) (e1 - e2 - k) (n % m2 != 0)
  | nan, _ => packNan f
  | _, nan => packNan f
  | inf _, inf _ => packNan f
  | inf s1, fin s2 _ _ => packInf f (s1 != s2)
  | fin s1 _ _, inf s2 => signBit f (s1 != s2)

/-- The integer square root of `n`, the bits from `k` down. -/
def isqrtGo (n : Nat) : Nat → Nat → Nat
  | 0, r => if (r + 1) * (r + 1) ≤ n then r + 1 else r
  | k + 1, r => let t := r + 2 ^ (k + 1); isqrtGo n k (if t * t ≤ n then t else r)

def isqrt (n : Nat) : Nat := isqrtGo n (Nat.log2 n / 2 + 1) 0

def sqrt (f : Fmt) (ftz : Bool) (a : Nat) : Nat :=
  match unpack f ftz a with
  | nan => packNan f
  | inf s => if s then packNan f else packInf f false
  | fin s m e =>
    if m = 0 then signBit f s
    else if s then packNan f
    else
      let k := 2 * (f.mb + 4)
      let k' := if (e - k) % 2 = 0 then k else k + 1
      let n := m <<< k'
      let r := isqrt n
      pack f ftz false r ((e - k') / 2) (r * r != n)

/-- a < b, false when either is not a number. -/
def lt (f : Fmt) (ftz : Bool) (a b : Nat) : Bool :=
  match unpack f ftz a, unpack f ftz b with
  | nan, _ => false
  | _, nan => false
  | inf s1, inf s2 => s1 && !s2
  | inf s1, fin _ _ _ => s1
  | fin _ _ _, inf s2 => !s2
  | fin s1 m1 e1, fin s2 m2 e2 => Dy.lt (dy s1 m1 e1) (dy s2 m2 e2)

/-- a ≤ b, false when either is not a number. -/
def le (f : Fmt) (ftz : Bool) (a b : Nat) : Bool :=
  !isNan f a && !isNan f b && !lt f ftz b a

/-- The nearest pattern to an integer times 2^k. -/
def ofScaled (f : Fmt) (ftz : Bool) (i : Int) (k : Int) : Nat := packDy f ftz ⟨i, k⟩

/-- The nearest pattern to num / den, den positive. -/
def ofRat (f : Fmt) (ftz : Bool) (num : Int) (den : Nat) : Nat :=
  if num = 0 then 0
  else
    let k := f.mb + 4 + Nat.log2 den
    let n := num.natAbs <<< k
    pack f ftz (num < 0) (n / den) (-(k : Int)) (n % den != 0)

end Fp

/-! ### F32 in the lanes (R144): flush to zero, each operation rounded once -/

namespace L32

def add (a b : Nat) : Nat := Fp.add .b32 true a b
def sub (a b : Nat) : Nat := Fp.sub .b32 true a b
def mul (a b : Nat) : Nat := Fp.mul .b32 true a b
def div (a b : Nat) : Nat := Fp.div .b32 true a b
def fma (a b c : Nat) : Nat := Fp.fma .b32 true a b c
def sqrt (a : Nat) : Nat := Fp.sqrt .b32 true a
def neg (a : Nat) : Nat := Fp.neg .b32 a
def abs (a : Nat) : Nat := Fp.abs .b32 a
def lt (a b : Nat) : Bool := Fp.lt .b32 true a b
def le (a b : Nat) : Bool := Fp.le .b32 true a b
def isNan (a : Nat) : Bool := Fp.isNan .b32 a
def isFinite (a : Nat) : Bool := Fp.isFinite .b32 a
def isZero (a : Nat) : Bool := Fp.isFinite .b32 a && (Fp.toDy .b32 true a).m == 0
def toDy (a : Nat) : Dyadic := Fp.toDy .b32 true a
def ofInt (i : Int) : Nat := Fp.ofScaled .b32 true i 0
def ofScaled (i : Int) (k : Int) : Nat := Fp.ofScaled .b32 true i k
def ofRat (num : Int) (den : Nat) : Nat := Fp.ofRat .b32 true num den
def ofDy (d : Dyadic) : Nat := Fp.packDy .b32 true d
/-- max and min of two numbers; the first wins a tie. -/
def max (a b : Nat) : Nat := if lt a b then b else a
def min (a b : Nat) : Nat := if lt b a then b else a
def clamp (x lo hi : Nat) : Nat := if lt x lo then lo else if lt hi x then hi else x
def zero : Nat := 0
def one : Nat := 0x3F800000
def half : Nat := 0x3F000000
def two : Nat := 0x40000000
def ofBool (b : Bool) : Nat := if b then one else zero
/-- A port value read as a boolean (R142): true when neither zero nor a NaN. -/
def truth (a : Nat) : Bool := !isZero a && !isNan a

end L32

/-! ### F64 (R7) -/

namespace D64

def add (a b : Nat) : Nat := Fp.add .b64 false a b
def sub (a b : Nat) : Nat := Fp.sub .b64 false a b
def mul (a b : Nat) : Nat := Fp.mul .b64 false a b
def div (a b : Nat) : Nat := Fp.div .b64 false a b
def sqrt (a : Nat) : Nat := Fp.sqrt .b64 false a
def neg (a : Nat) : Nat := Fp.neg .b64 a
def abs (a : Nat) : Nat := Fp.abs .b64 a
def lt (a b : Nat) : Bool := Fp.lt .b64 false a b
def le (a b : Nat) : Bool := Fp.le .b64 false a b
def toDy (a : Nat) : Dyadic := Fp.toDy .b64 false a
def ofInt (i : Int) : Nat := Fp.ofScaled .b64 false i 0
def ofScaled (i k : Int) : Nat := Fp.ofScaled .b64 false i k
def ofDy (d : Dyadic) : Nat := Fp.packDy .b64 false d
def ofRat (num : Int) (den : Nat) : Nat := Fp.ofRat .b64 false num den
/-- F32 widened exactly. -/
def of32 (a : Nat) : Nat :=
  match Fp.unpack .b32 false a with
  | .nan => Fp.packNan .b64
  | .inf s => Fp.packInf .b64 s
  | .fin s m e => Fp.pack .b64 false s m e false
/-- F64 rounded once to F32 (R174), judged as a lane result. -/
def to32 (a : Nat) : Nat :=
  match Fp.unpack .b64 false a with
  | .nan => Fp.packNan .b32
  | .inf s => Fp.packInf .b32 s
  | .fin s m e => Fp.pack .b32 true s m e false

end D64

/-! ### Exponential and logarithm, as fixed-point numbers of scale 2^256 (R246, R248) -/

namespace Fx

def sc : Nat := 2 ^ 256

/-- The rest of the series of artanh from the term of degree `n` on, whose power is `p`. -/
def artanhGo (z2 : Nat) : Nat → Nat → Nat → Nat
  | 0, _, _ => 0
  | fuel + 1, n, p => p / n + artanhGo z2 fuel (n + 2) (p * z2 / sc)

/-- ln(a / b) for 1 ≤ a / b ≤ 2. -/
def lnUnit (a b : Nat) : Nat :=
  let z := (a - b) * sc / (a + b)
  2 * artanhGo (z * z / sc) 90 1 z

def ln2 : Nat := lnUnit 2 1

/-- ln(a / b) of positive numbers. -/
def ln (a b : Nat) : Int :=
  let k : Int := (Nat.log2 a : Int) - Nat.log2 b
  let a' := a <<< (-k).toNat
  let b' := b <<< k.toNat
  if a' < b' then (k - 1) * ln2 + lnUnit (2 * a') b' else k * ln2 + lnUnit a' b'

/-- The rest of the series of e^r from a term on. -/
def expGo (r : Nat) : Nat → Nat → Nat → Nat
  | 0, _, _ => 0
  | fuel + 1, n, t => t + expGo r fuel (n + 1) (t * r / (sc * n))

/-- e^x. -/
def exp (x : Int) : Dyadic :=
  let n := x / ln2
  ⟨expGo (x - n * ln2).toNat 64 1 sc, n - 256⟩

/-- A dyadic number as a fixed-point number. -/
def ofDy (a : Dyadic) : Int := Dy.floorScaled a 256

end Fx

/-! ### Sine and the vector angle (R507, R503) -/

/-- ⌊2π · 2^120⌋: the turn in radians as a fixed-point number. -/
def twoPiFix : Nat := 0x6487ED5110B4611A62633145C06E0E6

/-- The alternating series of the sine at the fixed-point angle `x` (scale 2^120), from its term `n` on. -/
def sinSeries (x2 : Nat) : Nat → Nat → Int → Int
  | 0, _, _ => 0
  | fuel + 1, n, term =>
    term + sinSeries x2 fuel (n + 2) (-(term * (x2 : Int)) / ((2 ^ 120 * ((n + 1) * (n + 2)) : Nat) : Int))

/-- sin(2π i / 4096) · 2^120 for i in the first quadrant. -/
def sinFixQ (i : Nat) : Int :=
  let x := twoPiFix * i / 4096
  sinSeries (x * x / 2 ^ 120) 24 1 x

/-- The table S of R507: sin(2π i / 4096) rounded to nearest even in F32. -/
def sinTable (i : Nat) : Nat :=
  let j := i % 4096
  let q := j / 1024
  let r := j % 1024
  let v := if q % 2 = 0 then sinFixQ r else sinFixQ (1024 - r)
  if (j = 0 || j = 2048) then 0
  else Fp.packDy .b32 true ⟨if q < 2 then v else -v, -120⟩

/-- The constant h of R507: the F32 value nearest to 2π / 4096. -/
def sinStep : Nat := Fp.packDy .b32 true ⟨twoPiFix, -132⟩

/-- sin of a U32 angle (R507). -/
def sinTurns (a : Nat) : Nat :=
  let i := bits a 31 20
  let u := L32.ofScaled (a % 2 ^ 20 : Nat) (-20)
  let s0 := sinTable i
  let s1 := sinTable (i + 1)
  let d0 := L32.mul sinStep (sinTable (i + 1024))
  let d1 := L32.mul sinStep (sinTable (i + 1025))
  let t1 := L32.sub s1 s0
  let t3 := L32.add (L32.add d0 d0) d1
  let t4 := L32.fma 0x40400000 t1 (L32.neg t3)
  let t6 := L32.fma 0xC0000000 t1 (L32.add d0 d1)
  L32.fma u (L32.fma u (L32.fma u t6 t4) d0) s0

/-- cos(a) = sin(a + 2^30), modulo one turn (R507). -/
def cosTurns (a : Nat) : Nat := sinTurns ((a + 2 ^ 30) % 2 ^ 32)

/-- A_0 to A_23 of R503: atan(2^-k) / (2π) · 2^32 rounded to nearest, ties to even. -/
def atanTable : List Nat :=
  [536870912, 316933406, 167458907, 85004756, 42667331, 21354465, 10679838, 5340245, 2670163, 1335087, 667544, 333772,
   166886, 83443, 41722, 20861, 10430, 5215, 2608, 1304, 652, 326, 163, 81]

/-- One pass of R503 over the remaining A_k. -/
def vecAngleGo : List Nat → Nat → Nat → Nat → Nat → Nat
  | [], _, _, _, z => z
  | a :: as, k, x, y, z =>
    let sc := D64.ofScaled 1 (-(k : Int))
    if D64.le 0 y then
      vecAngleGo as (k + 1) (D64.add x (D64.mul y sc)) (D64.sub y (D64.mul x sc)) ((z + a) % 2 ^ 32)
    else
      vecAngleGo as (k + 1) (D64.sub x (D64.mul y sc)) (D64.add y (D64.mul x sc)) ((z + 2 ^ 32 - a) % 2 ^ 32)

/-- The angle of (D, Q) in units of 2^-32 turn, a 32-bit pattern (R503). -/
def vecAngle (d q : Nat) : Nat :=
  let x := D64.of32 d
  let y := D64.of32 q
  if D64.lt x 0 then vecAngleGo atanTable 0 (D64.neg x) (D64.neg y) (2 ^ 31) else vecAngleGo atanTable 0 x y 0

end Sys2Proof.Machine
end

