-- ==== Sys2Proof/Machine/Crypto.lean ====
section
/-!
DEFINITION. The cryptography the spec names and does not define (R434, R442, R444, R456 to R460): SHA-256 and HMAC (FIPS 180-4,
FIPS 198-1), HKDF (RFC 5869), P-256 with ECDSA and ECDH (FIPS 186-5), AES-256-GCM (FIPS 197, SP 800-38D). PRESUMED: the algorithms
are taken from those standards (log entry 10).
-/
namespace Sys2Proof.Machine

/-! ### SHA-256 -/

/-- A 32-bit word turned right. -/
def turn (x n : Nat) : Nat := (x * 2 ^ 32 + x) / 2 ^ n % 2 ^ 32

/-- What the schedule takes of a word: two turns and a shift that drops bits. -/
def stirred (x p q d : Nat) : Nat := turn x p ^^^ turn x q ^^^ x / 2 ^ d

/-- The first 64 primes. -/
def shaPrimes : List Nat :=
  [2, 3, 5, 7, 11, 13, 17, 19, 23, 29, 31, 37, 41, 43, 47, 53] ++
  [59, 61, 67, 71, 73, 79, 83, 89, 97, 101, 103, 107, 109, 113, 127, 131] ++
  [137, 139, 149, 151, 157, 163, 167, 173, 179, 181, 191, 193, 197, 199, 211, 223] ++
  [227, 229, 233, 239, 241, 251, 257, 263, 269, 271, 277, 281, 283, 293, 307, 311]

/-- The first 32 bits of the fraction of an e-th root of a prime, found bit by bit. -/
def rootBits (e p : Nat) : Nat :=
  (List.range 37).foldl (fun r b => if (r + 2 ^ (36 - b)) ^ e ≤ p * 2 ^ (32 * e) then r + 2 ^ (36 - b) else r) 0 % 2 ^ 32

/-- The constants of the rounds, and of the start. -/
def shaK : List Nat := shaPrimes.map (rootBits 3)
def shaH0 : List Nat := (shaPrimes.take 8).map (rootBits 2)

/-- The padded message. -/
def shaPad (m : List Nat) : List Nat :=
  m ++ [0x80] ++ List.replicate ((119 - m.length % 64) % 64) 0 ++ beBytes 8 (8 * m.length)

/-- The message schedule: each further word from the 16 before it. -/
def shaW (block : List Nat) : List Nat :=
  (List.range 48).foldl (fun w t =>
    w ++ [(nth 0 w t + stirred (nth 0 w (t + 1)) 7 18 3 + nth 0 w (t + 9) + stirred (nth 0 w (t + 14)) 17 19 10) % 2 ^ 32])
    (words32 block 16)

/-- The eight words at work. -/
structure ShaWork where
  lo : Nat × Nat × Nat × Nat
  hi : Nat × Nat × Nat × Nat

/-- One round, with the sum of its constant and its schedule word: choice is bit by bit f where e is set and g elsewhere; majority is the
value that two of three hold. -/
def ShaWork.round (v : ShaWork) (kw : Nat) : ShaWork :=
  let (a, b, c, d) := v.lo
  let (e, f, g, h) := v.hi
  let x := h + (turn e 6 ^^^ turn e 11 ^^^ turn e 25) + (g ^^^ (e &&& (f ^^^ g))) + kw
  let y := (turn a 2 ^^^ turn a 13 ^^^ turn a 22) + ((a &&& (b ||| c)) ||| (b &&& c))
  ⟨((x + y) % 2 ^ 32, a, b, c), ((d + x) % 2 ^ 32, e, f, g)⟩

/-- The work on one block, added word by word to what it began with. -/
def shaBlock (h : List Nat) (block : List Nat) : List Nat :=
  let n := fun (i : Nat) => nth 0 h i
  let r := (List.zipWith (fun k w => k + w) shaK (shaW block)).foldl ShaWork.round ⟨(n 0, n 1, n 2, n 3), (n 4, n 5, n 6, n 7)⟩
  let add := fun (i x : Nat) => (n i + x) % 2 ^ 32
  [add 0 r.lo.1, add 1 r.lo.2.1, add 2 r.lo.2.2.1, add 3 r.lo.2.2.2, add 4 r.hi.1, add 5 r.hi.2.1, add 6 r.hi.2.2.1, add 7 r.hi.2.2.2]

/-- SHA-256 over a byte string. -/
def sha256 (m : List Nat) : List Nat :=
  let p := shaPad m
  bytesOf32 ((List.range (p.length / 64)).foldl (fun h i => shaBlock h (slice p (64 * i) 64)) shaH0)

/-- HMAC-SHA-256. -/
def hmac (key m : List Nat) : List Nat :=
  let k := if key.length ≤ 64 then key else sha256 key
  let k := k ++ List.replicate (64 - k.length) 0
  sha256 (k.map (· ^^^ 0x5c) ++ sha256 (k.map (· ^^^ 0x36) ++ m))

/-- HKDF-SHA-256 with 32 bytes of output. -/
def hkdf32 (salt ikm info : List Nat) : List Nat := hmac (hmac salt ikm) (info ++ [1])

/-! ### P-256 -/

def p256P : Nat := 0xFFFFFFFF00000001000000000000000000000000FFFFFFFFFFFFFFFFFFFFFFFF
def p256N : Nat := 0xFFFFFFFF00000000FFFFFFFFFFFFFFFFBCE6FAADA7179E84F3B9CAC2FC632551
def p256B : Nat := 0x5AC635D8AA3A93E7B3EBBD55769886BC651D06B0CC53B0F63BCE3C3E27D2604B
def p256Gx : Nat := 0x6B17D1F2E12C4247F8BCE6E563A440F277037D812DEB33A0F4A13945D898C296
def p256Gy : Nat := 0x4FE342E2FE1A7F9B8EE7EB4A7C0F9E162BCE33576B315ECECBB6406837BF51F5

/-- b^e modulo m, over the low `n` bits of e. -/
def powModGo (m : Nat) : Nat → Nat → Nat → Nat
  | 0, _, _ => 1 % m
  | n + 1, b, e => let r := powModGo m n (b * b % m) (e / 2); if e % 2 = 1 then r * b % m else r
def invMod (a m : Nat) : Nat := powModGo m 256 (a % m) (m - 2)

/-- A point in Jacobian coordinates; z = 0 is the point at infinity. -/
abbrev JPoint := Nat × Nat × Nat

def fsub (a b : Nat) : Nat := (a + p256P - b % p256P) % p256P

def jDbl (q : JPoint) : JPoint :=
  let (x, y, z) := q
  if z = 0 || y = 0 then (1, 1, 0)
  else
    let z2 := z * z % p256P
    let m := 3 * (fsub x z2) % p256P * ((x + z2) % p256P) % p256P
    let y2 := y * y % p256P
    let s := 4 * x * y2 % p256P
    let x' := fsub (m * m % p256P) (2 * s)
    (x', fsub (m * fsub s x' % p256P) (8 * y2 * y2), 2 * y * z % p256P)

def jAdd (a b : JPoint) : JPoint :=
  let (x1, y1, z1) := a
  let (x2, y2, z2) := b
  if z1 = 0 then b else if z2 = 0 then a
  else
    let z1z := z1 * z1 % p256P
    let z2z := z2 * z2 % p256P
    let u1 := x1 * z2z % p256P
    let u2 := x2 * z1z % p256P
    let s1 := y1 * z2z % p256P * z2 % p256P
    let s2 := y2 * z1z % p256P * z1 % p256P
    let h := fsub u2 u1
    let r := fsub s2 s1
    if h = 0 then (if r = 0 then jDbl a else (1, 1, 0))
    else
      let h2 := h * h % p256P
      let h3 := h2 * h % p256P
      let v := u1 * h2 % p256P
      let x := fsub (r * r % p256P) (h3 + 2 * v)
      (x, fsub (r * fsub v x % p256P) (s1 * h3), h * z1 % p256P * z2 % p256P)

/-- k · q over the low `n` bits of k. -/
def jMulGo (q : JPoint) : Nat → Nat → JPoint
  | 0, _ => (1, 1, 0)
  | n + 1, k => let r := jDbl (jMulGo q n (k / 2)); if k % 2 = 1 then jAdd r q else r
def jMul (k : Nat) (q : JPoint) : JPoint := jMulGo q 256 k

/-- The affine coordinates of a point. -/
def jAffine (q : JPoint) : Option (Nat × Nat) :=
  let (x, y, z) := q
  if z = 0 then none
  else
    let zi := invMod z p256P
    let zi2 := zi * zi % p256P
    some (x * zi2 % p256P, y * zi2 % p256P * zi % p256P)

def p256G : JPoint := (p256Gx, p256Gy, 1)

/-- The uncompressed public point of a private key, 65 bytes. -/
def publicKey (d : Nat) : List Nat :=
  match jAffine (jMul d p256G) with
  | some (x, y) => 4 :: (beBytes 32 x ++ beBytes 32 y)
  | none => List.replicate 65 0

/-- The affine point of 65 uncompressed bytes, where they name a point of the curve. -/
def pointOf (b : List Nat) : Option (Nat × Nat) :=
  let x := field b 1 32
  let y := field b 33 32
  if b.length = 65 && nth 0 b 0 == 4 && decide (x < p256P) && decide (y < p256P)
      && decide (y * y % p256P = (x * x * x + (p256P - 3) * x + p256B) % p256P) then some (x, y) else none

/-- The ECDH shared secret of a private key and a peer's point. -/
def ecdh (d : Nat) (peer : List Nat) : Option (List Nat) :=
  match pointOf peer with
  | some (x, y) => (jAffine (jMul d (x, y, 1))).map (fun r => beBytes 32 r.1)
  | none => none

/-- ECDSA P-256 verification of r ‖ s over a hash. -/
def ecdsaVerify (key : List Nat) (hash sig : List Nat) : Bool :=
  let r := field sig 0 32
  let sv := field sig 32 32
  match pointOf key with
  | none => false
  | some (x, y) =>
    if r = 0 || sv = 0 || decide (p256N ≤ r) || decide (p256N ≤ sv) then false
    else
      let w := invMod sv p256N
      let u1 := beNat hash * w % p256N
      let u2 := r * w % p256N
      match jAffine (jAdd (jMul u1 p256G) (jMul u2 (x, y, 1))) with
      | some (vx, _) => vx % p256N == r
      | none => false

/-! ### AES-256-GCM -/

/-- Multiplication by x in GF(2^8), and the product of two bytes. -/
def xtime (a : Nat) : Nat := let b := 2 * a; if b < 256 then b else (b ^^^ 0x11B) % 256
def gmulGo : Nat → Nat → Nat → Nat
  | 0, _, _ => 0
  | n + 1, a, b => (if b % 2 = 1 then a else 0) ^^^ gmulGo n (xtime a) (b / 2)
def gmul (a b : Nat) : Nat := gmulGo 8 a b

/-- a^254 in GF(2^8): the inverse. -/
def ginv (a : Nat) : Nat :=
  let a2 := gmul a a
  let a3 := gmul a2 a
  let a6 := gmul a3 a3
  let a12 := gmul a6 a6
  let a15 := gmul a12 a3
  let a30 := gmul a15 a15
  let a60 := gmul a30 a30
  let a120 := gmul a60 a60
  let a126 := gmul a120 a6
  let a127 := gmul a126 a
  gmul a127 a127

/-- The AES S-box. -/
def sbox (a : Nat) : Nat :=
  let b := ginv a
  let rl := fun n => ((b <<< n) ||| (b >>> (8 - n))) % 256
  b ^^^ rl 1 ^^^ rl 2 ^^^ rl 3 ^^^ rl 4 ^^^ 0x63

def xorL (a b : List Nat) : List Nat := List.zipWith (· ^^^ ·) a b

/-- The sixty words of the AES-256 key schedule, each four bytes. -/
def aesKeys (key : List Nat) : List (List Nat) :=
  let w0 := (List.range 8).map (fun i => slice key (4 * i) 4)
  ((List.range 52).foldl (fun (p : List (List Nat) × Nat) j =>
    let i := j + 8
    let w := p.1
    let prev := nth [] w (i - 1)
    let (tmp, rc) := if i % 8 = 0 then
        let rot := (prev.drop 1 ++ prev.take 1).map sbox
        (xorL rot [p.2, 0, 0, 0], xtime p.2)
      else if i % 8 = 4 then (prev.map sbox, p.2) else (prev, p.2)
    (w ++ [xorL (nth [] w (i - 8)) tmp], rc)) (w0, 1)).1

def shiftRows (s : List Nat) : List Nat := (List.range 16).map (fun i => nth 0 s ((i + 4 * (i % 4)) % 16))
def mixCol (c : List Nat) : List Nat :=
  (List.range 4).map (fun i => gmul (nth 0 c i) 2 ^^^ gmul (nth 0 c ((i + 1) % 4)) 3 ^^^ nth 0 c ((i + 2) % 4) ^^^
    nth 0 c ((i + 3) % 4))
def mixCols (s : List Nat) : List Nat := (List.range 4).flatMap (fun i => mixCol (slice s (4 * i) 4))

/-- One block enciphered. -/
def aesBlock (ks : List (List Nat)) (b : List Nat) : List Nat :=
  let rk := fun r => (slice [] 0 0) ++ ((ks.drop (4 * r)).take 4).flatten
  let s := (List.range 13).foldl (fun s r => xorL (mixCols (shiftRows (s.map sbox))) (rk (r + 1))) (xorL b (rk 0))
  xorL (shiftRows (s.map sbox)) (rk 14)

/-- The product in GF(2^128) of GCM. -/
def ghMulGo (x : Nat) : Nat → Nat → Nat → Nat
  | 0, _, z => z
  | n + 1, v, z =>
    let z := if x.testBit n then z ^^^ v else z
    ghMulGo x n (if v % 2 = 1 then (v / 2) ^^^ (0xE1 <<< 120) else v / 2) z
def ghMul (x y : Nat) : Nat := ghMulGo x 128 y 0

/-- Blocks of 16 bytes, the last one filled with zeros. -/
def blocks16 (b : List Nat) : List (List Nat) :=
  (List.range ((b.length + 15) / 16)).map (fun i => let c := slice b (16 * i) 16; c ++ List.replicate (16 - c.length) 0)

/-- AES-256-GCM decryption of ciphertext ‖ tag under a 12-byte nonce; none where the tag does not verify. -/
def gcmOpen (key nonce ct : List Nat) : Option (List Nat) :=
  let ks := aesKeys key
  let body := ct.take (ct.length - 16)
  let tag := ct.drop (ct.length - 16)
  let h := beNat (aesBlock ks (List.replicate 16 0))
  let gh := ((blocks16 body) ++ [beBytes 8 0 ++ beBytes 8 (8 * body.length)]).foldl (fun y b => ghMul (y ^^^ beNat b) h) 0
  let ctr := fun i => aesBlock ks (nonce ++ beBytes 4 (i + 1))
  let t := xorL (beBytes 16 gh) (ctr 0)
  if decide (16 ≤ ct.length) && t == tag then
    some (((blocks16 body).zipIdx.flatMap (fun p => xorL p.1 (ctr (p.2 + 1)))).take body.length)
  else none

end Sys2Proof.Machine
end

