-- ==== Sys2Proof/Machine/State.lean ====
section
/-!
DEFINITION. The state of the device: plain data.
The object dictionary is one canonical store (`od`), the one home of every register that an object names; an object it does not list
holds its power-up value (Objects.lean). Everything the spec gives the machine beside its objects stands in the records below, one per
part of the device. A sparse table is a store whose unlisted keys hold the record's power-up value.
-/
namespace Sys2Proof.Machine

/-- A sparse table: keys rising, no entry equal to what an unlisted key holds. -/
abbrev Store (α : Type) := List (Nat × α)

/-- The value of an object: a number (its bits, R10) or a byte string (BLOB and STR, Table 16.1). -/
inductive Val where
  | num (n : Nat)
  | blob (b : List Nat)
  deriving DecidableEq, Repr

/-! ### Measurement, arc and chord (chapters 02, 03) -/

/-- A fine sample in joist scratch: its Q1.30 value, its qualifiers (Fault 16, Coarse 8, Settling 4, Saturated 2, OffLock 1), its arc
tag (R85) and its stamp t_n (R82); `model` marks a value that is a model voltage in F32 (R206). -/
structure Sample where
  v : Int
  q : Nat
  idx : Nat
  cycleStart : Bool
  part : Bool
  stamp : Nat
  model : Bool
  deriving DecidableEq, Repr

/-- The fine chain of one channel in one sill (R43 to R51, R65 to R71, R82, R101). Delay lines are newest first. `settle` counts the fine
samples that still carry Settling (R65), `arcSettle` the CycleStarts of R92; `n` is the N in use, 0 before the first index. -/
structure Chain where
  integ : List Nat
  comb : List Nat
  hb0 : List Int
  hb1 : List Int
  fir : List Int
  due : Bool
  sat : Bool
  lastBit : Nat
  run : Nat
  lastFir : Option Int
  frozenRun : Nat
  dc : Int
  settle : Nat
  arc : List Int
  n : Nat
  k : Nat
  part : Bool
  arcSettle : Nat
  substituting : Bool
  hold : Nat
  faultQ : Bool
  held : Int
  outAt : Nat
  samples : List Sample
  deriving DecidableEq, Repr

/-- A clock group's sampling clock (R42, R65, R66): whether it runs, the edges since the start of its grid, whether that is the grid of
the last alignment, whether its absence is reported, whether its next edge starts a new grid, and the instant of its last edge. -/
structure ClockGroup where
  running : Bool
  edges : Nat
  aligned : Bool
  missing : Bool
  restart : Bool
  last : Nat
  deriving DecidableEq, Repr

/-- A swap of FIR banks in progress (R58): T_swap and the channels each side has swapped. -/
structure BankSwap where
  tSwap : Nat
  doneA : Nat
  doneB : Nat
  deriving DecidableEq, Repr

/-- A decimator alignment in progress (R60 to R64): its t_a, whether a command asked for it, and with a nonzero T, the groups reset so far,
whether SYNC_OUT has been driven for it, and from t_a on the groups that take part: those whose sampling clock was present at t_a. -/
structure Align where
  ta : Nat
  command : Bool
  explicit : Bool
  groups : Nat
  pulsed : Bool
  taking : Option Nat
  deriving DecidableEq, Repr

/-- Feedback supervision of one channel, as the ridge sees it (R68 to R71): each side's report (0 none, 1 stuck bits, 2 clock, 3 frozen)
and its instant, the condition declared, the instant ModelTime ends, whether a SAFE_DISABLE has acted, and whether FEEDBACK_FROZEN is to be
declared at the end of the ridge clock of its first report. -/
structure Feedback where
  repA : Nat
  atA : Nat
  repB : Nat
  atB : Nat
  declared : Nat
  modelUntil : Option Nat
  acted : Bool
  waits : Bool
  deriving DecidableEq, Repr

/-- The bits a receiver holds of one ball (R95): newest in bit 0, and how many are filled, up to 96. -/
structure History where
  bits : Nat
  n : Nat
  deriving DecidableEq, Repr

/-- A window comparator of a chord (R96): its persistence count, whether it has fired in the present run, and whether a completed
count waits for its firing. -/
structure Comparator where
  count : Nat
  fired : Bool
  due : Bool
  deriving DecidableEq, Repr

/-- A blanking window of a channel (R99): the instant of its last opening, and whether it is open. -/
structure Blank where
  openedAt : Option Nat
  isOpen : Bool
  deriving DecidableEq, Repr

/-- A reference triple (R75): θ in 2^-32 turn, f in UQ8.24 Hz, t in ridge time; `grid` says which reference it is. -/
structure Triple where
  grid : Bool
  theta : Nat
  f : Nat
  t : Nat
  deriving DecidableEq, Repr

/-- An angle line θ(t) = θ + f (t − t_ref): θ in 2^-64 turn, f in UQ8.24 Hz. -/
structure Line where
  theta : Nat
  f : Nat
  t : Nat
  deriving DecidableEq, Repr

/-- An arc domain in one sill (R74 to R92): the triples waiting, the line in effect, the lines of its ROTOR and GRID references, the
source in use (Table 03.1), the instant of the last t_apply, and whether the line is clamped or stale. -/
structure Arc where
  held : List Triple
  line : Option Line
  rotor : Option Line
  grid : Option Line
  src : Nat
  lastApply : Nat
  clamped : Bool
  stale : Bool
  deriving DecidableEq, Repr

/-- The measurement side of the state; `aligns` holds the alignments accepted and not complete, in the order of their acceptance (R63), and
`syncOutEnd` is the instant at which the last pulse at SYNC_OUT ends (R64). -/
structure Meas where
  chains : Store Chain
  groups : Store ClockGroup
  swaps : Store BankSwap
  aligns : List Align
  syncOutEnd : Nat
  feedback : Store Feedback
  histories : Store History
  comps : Store Comparator
  blanks : Store Blank
  arcs : Store Arc
  chordTrip : Bool
  deriving DecidableEq, Repr

/-! ### Control graphs and elements (chapters 04, 05) -/

/-- An output of an instance: its value (an F32, or θ for an angle), the frequency of an angle, its qualifiers, and for a candidate
set its cost words. -/
structure Port where
  v : Nat
  f : Nat
  q : Nat
  deriving DecidableEq, Repr

/-- One instance of an element on one side (R111, R112, R147, R152, R161): its state words, its outputs, those of the execution before,
those exchanged to other rates, a forced mode of element 0x08 (0 none, 1 manual, 2 automatic), whether its next execution starts anew
(R177), the samples of its ring inputs, newest first, and their runs of clean samples, the results of its parts (part, sequence, cost),
its bank and the swap group whose pending swap it has carried out, the parameter words it ran before a graph switch, whether it has completed in the present
cycle of its rate, whether an execution is due in it, and a load by the ridge (R199, R201). -/
structure Inst where
  st : List Nat
  out : List Port
  prev : List Port
  cross : List Port
  mode : Nat
  fresh : Bool
  window : List (List Sample)
  run : List Nat
  parts : List (Nat × Nat × Nat)
  bank : Nat
  swapDone : Option Nat
  oldBank : List Nat
  completed : Bool
  due : Bool
  loadAt : Option (Nat × Nat)
  deriving DecidableEq, Repr

/-- A production of a FIFO result: value bits, qualifiers and Sequence (R136). -/
structure Prod where
  v : Nat
  q : Nat
  seq : Nat
  deriving DecidableEq, Repr

/-- A result of one side (R132 to R138); `wide` where its value is an F64. `past` keeps its latest productions, newest first: ridge time
of completion, value, qualifiers, and the ridge time, plus one, at which Stale was set after it (R379, R381). -/
structure Result where
  v : Nat
  q : Nat
  count : Nat
  valid : Bool
  stale : Bool
  wide : Bool
  fifo : List Prod
  past : List (Nat × Nat × Nat × Nat)
  deriving DecidableEq, Repr

/-- The graph engine of one side (R105 to R119): the fast cycle index, whether a slot runs, the ridge time and instant of the last tick
and the vertex it leads, the fast period of its cycles in counts; of the four rates the ridge times at which their cycles began, their fast
periods, their last frame cutoffs (0 before the first) and what their executions see of the grid-forming state; the frame of each channel
input and of each cross-rate link (key · 256 + port), the schedule entries completed in this cycle, the lanes awake and the instant at which
the last of them fell asleep, the instances, the
results, the entries of this cycle whose start the tagging has taken (R417), the commands stamped for instance records (record, command, application time), the commits that the compare writer is to issue
(instant, mask of update groups; Table 04.2), the signatures, the instances completed in the
main cycle, the reference triples published in the cycle and those not yet sent (domain, triple), the DOUT request word, whether the
compare writer has run in this cycle and whether it found an overrun, consecutive overruns, and whether the side ran the CONTROL
instances at its last tick. -/
structure Graph where
  index : Nat
  started : Bool
  tick : Nat
  tickAt : Nat
  vertex : Nat
  period : Nat
  rateTick : List Nat
  ratePer : List Nat
  cutoffs : List Nat
  gfAt : List (List Nat)
  frame : Store (List Sample)
  links : Store Port
  done : List Nat
  awake : List Nat
  sleptAt : Nat
  inst : Store Inst
  results : Store Result
  tagged : List Nat
  cmds : List (Nat × Nat × Nat)
  commits : Option (Nat × Nat)
  fastSig : Nat
  stateSig : Nat
  mainDone : List Nat
  pubs : List (Nat × Triple)
  triples : List (Nat × Triple)
  doutReq : Nat
  compared : Bool
  overran : Bool
  overruns : Nat
  ctl : Bool
  deriving DecidableEq, Repr

/-- A posting of closed cycles by a 0x2D instance (R249): record, tick, stack, leg, switch, TJ and the cycles (x, y, full). -/
structure Posting where
  record : Nat
  tick : Nat
  stack : Nat
  leg : Nat
  sw : Nat
  tj : Nat
  cycles : List (Nat × Nat × Bool)
  deriving DecidableEq, Repr

/-- The graphs of both sides, the pending switch (target, earliest instant), the pending parameter swaps (T_swap per group), the
postings of 0x2D instances and the rate tick, plus one, of the last one accepted of each record (R249), the records whose postings are in an episode of EV_188, the mirrored CONTROL instances and
cross-rate link buffers (R273) and the shares of wear groups not yet in effect (group, application time, F32 words; R254). -/
structure Graphs where
  a : Graph
  b : Graph
  switch : Option (Nat × Nat)
  swaps : Store Nat
  postings : List Posting
  posted : Store Nat
  misMapped : List Nat
  mirror : Store Inst
  mirrorLinks : Store Port
  shares : List (Nat × Nat × List Nat)
  deriving DecidableEq, Repr

/-! ### Grid-forming (chapter 06) -/

/-- A transition decided (R193): its target, its Cause, its priority (Table 06.5) and the instant of its decision. -/
structure Trans where
  dest : Nat
  cause : Nat
  prio : Nat
  decided : Nat
  deriving DecidableEq, Repr

/-- The ridge's grid-forming machine beside its objects (R192 to R204): the transition decided; the command waiting (code, Coherent,
application time); the mask of priority-1 causes detected, by the codes of Table 06.9, and the first of them; whether RIDE_THROUGH was
entered from PARALLEL; since when CurrentLimit has been true; the causes of Table 06.3 that hold (bits 0 to 3: LV, HV, JUMP, LIMIT) and
since when each does (0 none); since when none has held; the last known readings of RideClass, PhaseJump and CurrentLimit; the bindings
in an unknown episode; the instant of the last transition, of the breaker close and of the end of its inhibition; whether a close is due
at the next tick; the steps of ridge time since the last transition (R343); σ and f_g in F32; the instant of the last main tick evaluated; and whether ResyncMaxTime has been reported. -/
structure GridForm where
  trans : Option Trans
  cmd : Option (Nat × Bool × Nat)
  causes : Nat
  firstCause : Nat
  rideFromParallel : Bool
  limitSince : Option Nat
  holds : Nat
  heldSince : List Nat
  quietSince : Option Nat
  lastReads : List Nat
  unknown : Nat
  enteredAt : Nat
  closeAt : Option Nat
  closeNext : Bool
  shift : Int
  inhibitUntil : Nat
  sigma : Nat
  fGrid : Nat
  lastMain : Nat
  resyncOut : Bool
  deriving DecidableEq, Repr

/-! ### Modulation and the plate (chapter 07) -/

/-- The words of one pair in one copy of its update group. -/
structure PairSet where
  up : Nat
  dn : Nat
  off : Bool
  deriving DecidableEq, Repr

/-- A pair in one sill: shadow, committed set, the committed set before it (for a commit in the reload clock, R224), the set in
effect after R219 and R220, the command C, the two sill outputs and the ends of their dead times. -/
structure SillPair where
  sh : PairSet
  cm : PairSet
  pv : PairSet
  ef : PairSet
  onUp : Nat
  onDn : Nat
  off : Bool
  c : Bool
  h : Bool
  l : Bool
  dtH : Option Nat
  dtL : Option Nat
  edges : List (Nat × Bool)
  deriving DecidableEq, Repr

/-- A carrier group's counter in one sill (R210 to R214): whether it runs, whether the half now running is an up half, the instant of
the last vertex (femtoseconds), its half-period in counts, the four copies of its period, the pending starts, earliest first, each with
whether it names its time, a pending stop, and for a follower whether its master drives it and the vertices still to come (instant,
half-period, 0 for a halt). -/
structure Carrier where
  running : Bool
  up : Bool
  at_ : Nat
  hs : Nat
  per : Nat
  perCm : Nat
  perPv : Nat
  perEf : Nat
  starts : List (Nat × Bool)
  stopping : Bool
  attached : Bool
  delay : List (Nat × Nat)
  deriving DecidableEq, Repr

/-- An update group in one sill: whether its shadow is partial and since which clock, whether a commit is pending and applied in
which clock, whether an older commit still waits, and a torn update not yet reported: the clock of its reload point and its ridge time
(R224). -/
structure Update where
  partialAt : Option Nat
  commitAt : Option Nat
  olderAt : Option Nat
  tornAt : Option (Nat × Nat)
  deriving DecidableEq, Repr

/-- One sill's modulation. -/
structure Sill where
  carriers : Store Carrier
  pairs : Store SillPair
  updates : Store Update
  deriving DecidableEq, Repr

/-- A physical pair at the plate (R226 to R229): the logical pair mapped to it, whether it is driven, from which side, its two ball
levels, the instants (femtoseconds) of the last fall and rise of each, and whether a correction was reported in this carrier period. -/
structure PlatePair where
  pair : Nat
  driving : Bool
  sideB : Bool
  h : Bool
  l : Bool
  fallH : Nat
  fallL : Nat
  riseH : Nat
  riseL : Nat
  corrected : Bool
  deriving DecidableEq, Repr

/-- A host write waiting for its application time (R222, R232, R234): kind (0 shadow, 1 commit, 2 disable mask, 3 override map,
4 period), its object or pair, its value and its application time. -/
structure Stamped where
  kind : Nat
  key : Nat
  value : Nat
  due : Nat
  deriving DecidableEq, Repr

/-- The modulation and the output plate: both sills, the physical pairs, host writes waiting, the pairs disabled, the override maps waiting
(map, application time, carrier groups that have taken it or a later one), the map in force, the physical pairs of spares in service, the FAULT_IN inputs at their
active level, the hold of every gate until SAFE_STOP, a debug halt with its instant, the end of the last halt and the fast cycles until
signatures are compared again, and the start last announced by EV_148. -/
structure Plate where
  a : Sill
  b : Sill
  pairs : Store PlatePair
  waiting : List Stamped
  disabled : Nat
  pendingMaps : List (List Nat × Nat × Nat)
  mapNow : List Nat
  spareMap : Store Nat
  faultLevel : Nat
  gateHold : Bool
  halted : Bool
  haltAt : Nat
  resumedAt : Nat
  skipSig : Nat
  announced : Option Nat
  deriving DecidableEq, Repr

/-! ### Stacks (chapter 08) -/

/-- An armed bring-in (R256, R257): the leg, its application time, the time for which S_c has been evaluated and the instant of the last
evaluation since when it goes on (none while it waits), the sign at the last one (none before it), and whether the crossing is found. -/
structure Bring where
  leg : Nat
  appTime : Nat
  evalFor : Nat
  evalAt : Option Nat
  lastNeg : Option Bool
  crossed : Bool
  deriving DecidableEq, Repr

/-- The RAM account and link state of one stack beside its objects (R241 to R259): the Serial read in this power cycle, whether the copy
last read or written is copy B, SpareFor, TjPeak, WriteCount, the failed attempts of the transaction in progress, the snapshot being
written, the instant from which the periodic timer counts, the ridge time for which the stack has been driven since the last step of Hours,
and an armed bring-in. -/
structure Stack where
  serial : Option (List Nat)
  copyB : Bool
  spareFor : List Nat
  tjPeak : List Nat
  writeCount : Nat
  attempts : Nat
  snapshot : List Nat
  lastTimer : Nat
  driven : Nat
  bring : Option Bring
  deriving DecidableEq, Repr

/-! ### Sides (chapter 09) -/

/-- Heartbeats of one side on one path, as received (R264 to R266); `slot` numbers the last due instant that has been judged. -/
structure Beat where
  last : Option Nat
  missing : Nat
  bad : Bool
  slot : Nat
  deriving DecidableEq, Repr

/-- The ridge's record of one side (R262 to R285): heartbeats received from it on both paths and the last Bad; the attempts at
re-initialisation, the instant of the next, whether they are spent; since when it is RESERVE with Bad clear; since when no finding has
held Bad; the instants of its last link errors; a spare lane found faulty; lanes found faulty since it was last initialised; whether it
was usable at bring-up; whether its sill clock has stopped; its latest DOUT word; its mirror region, by kind; and the sequence number of its
next heartbeats. -/
structure SideRt where
  p1 : Beat
  p2 : Beat
  lastBad : Bool
  attempts : Nat
  retryAt : Option Nat
  spent : Bool
  reserveSince : Option Nat
  badSince : Option Nat
  linkErrs : List Nat
  spareFail : Bool
  newLanes : List (Nat × Nat)
  usable : Bool
  clockStopped : Bool
  dout : Nat
  region : Store (List Nat)
  beatSeq : Nat
  deriving DecidableEq, Repr

/-- Both sides: a takeover in progress (its order instant, the carrier groups still to change, and whether it is a handover), a
mismatch being resolved, the instants of unresolved mismatches, a commanded handover waiting (1), the kerf window (opening instant and
the levels at opening), the DIN levels, a double fault not yet acknowledged. -/
structure Sides where
  a : SideRt
  b : SideRt
  takeover : Option (Nat × Nat × Bool)
  mismatch : Bool
  unresolved : List Nat
  handover : Nat
  kerf : Option (Nat × Nat)
  dinLevel : Nat
  doubleFault : Bool
  deriving DecidableEq, Repr

/-! ### Safety (chapter 10) -/

/-- A safety channel (R288): the SIN balls it holds at demand (bit n: SIN_A_n, bit 4 + n: SIN_B_n), its Permit, by which it drives its own
SOUT balls, and its enable in the output plate. -/
structure Channel where
  sin : Nat
  permit : Bool
  enable : Bool
  deriving DecidableEq, Repr

/-- The safety logic: readings taken before READY and accepted now, the levels of SEAL_T_n and SEAL_C_n, faults of permission switches,
the two channels, per pair the instant at which its discrepancy began, plus one (0 none), the discrepancy latches half cleared, the
reasons that block the reset (1 stuck, 2 disagreement, 4 power-up), the last instant at which the reset line is known not to have been
inactive and the instant from which a fresh pulse may begin (R304), SOUT balls under test with the instant of the start, discarded, and
kept low after a discarded test, the pads last read high while commanded low and low while commanded high (R299), per ball the instant from
which it has been commanded low, plus one (0: commanded high), a pending ridge fault. -/
structure Safety where
  held : Nat
  accepted : Nat
  sealT : Nat
  sealC : Nat
  permFault : Nat
  a : Channel
  b : Channel
  discSince : Store Nat
  bothDemand : Nat
  blocks : Nat
  lineAt : Nat
  freshFrom : Nat
  testing : Nat
  testAt : Store Nat
  discarded : Nat
  keptLow : Nat
  padHigh : Nat
  padLow : Nat
  lowFrom : Store Nat
  ridgeFault : Bool
  deriving DecidableEq, Repr

/-! ### Sharing (chapter 11) -/

/-- A request at an arbiter: its class, its requester number (2 n + side), its byte address in the resource's own space, whether it writes,
and the slots it has waited at the head of its class. -/
structure Req where
  cls : Nat
  who : Nat
  addr : Nat
  write : Bool
  waited : Nat
  deriving DecidableEq, Repr

/-- An arbiter of one resource instance (R313 to R323): the requests presented, in order of arrival; the number of the resource's clock up
to which slots are decided; deficits of C2 to C5, the class at the pointer (0 before the first opportunity), whether it is in a visit, the
clocks of the recent grants of C5, and per class the requester number next in turn. -/
structure Arbiter where
  reqs : List Req
  last : Nat
  deficit : List Nat
  ptr : Nat
  visit : Bool
  c5 : List Nat
  turn : List Nat
  deriving DecidableEq, Repr

/-- A ridge semaphore (R334): its holder (class, requester) and the end of its lease, and the requests waiting (class, requester, the
ridge clock of their arrival). -/
structure Sem where
  holder : Option (Nat × Nat)
  lease : Nat
  queue : List (Nat × Nat × Nat)
  deriving DecidableEq, Repr

/-- The arbiters, the semaphores, the stack link (R252, R330): the reads and writes queued and the one in progress, each (0 read, 1 write
due at SAFE_STOP, 2 other write, 3 write of INIT_RECORD; stack); the C5 transactions waiting, each by the instant from which it has waited and
its requester, the failed attempts of the one that holds the link (none while none does) and its requester, the instant of the last one
admitted, plus one (0 none), and of the read or write in progress the instant at which its present transaction began and how many are
complete; and, from a commit until its tables are in use, the earliest instant of
their use and the tables and quanta in use until then (R336). -/
structure Sharing where
  arbs : Store Arbiter
  sems : Store Sem
  link : List (Nat × Nat)
  linkBusy : Option (Nat × Nat)
  linkC5 : List (Nat × Nat)
  c5Tries : Option Nat
  c5Who : Nat
  c5Last : Nat
  linkSince : Nat
  linkTx : Nat
  oldTables : Option (Nat × List (List Nat × Nat))
  deriving DecidableEq, Repr

/-! ### Time and clocks (chapters 12, 13) -/

/-- One PTP port (R344 to R353); `gm` is the grandmaster it follows or followed last (R350). -/
structure PtpPort where
  meas : List Int
  sinceSuspect : List Int
  lastOff : Option Int
  beyond : Nat
  inMeas : Bool
  inOff : Bool
  missed : Nat
  master : Option (List Nat)
  gm : Option Nat
  lastAnnounce : Nat
  seqId : Nat
  deriving DecidableEq, Repr

/-- The servo, the accepted steps waiting (set or adjust, value in 2^-32 ns, receipt), the leap seconds applied, the clock output
commands waiting (output, start, application time), the outputs whose start or stop has fallen due and waits for its divider edge, the
instant at which the output dividers were last reset (R368), the trusses whose change of source is deferred, the instant from which each truss has waited for its gap, and the commanded switches of
reference waiting (to REF_ALT, application time), and the references without edges (bit 0 REF_IN, bit 1 REF_ALT). -/
structure Clock where
  steps : List (Bool × Int × Nat)
  servoI : Nat
  good : Nat
  servoPort : Option Bool
  ppsLast : Option Nat
  holdAt : Nat
  lastWhole : Nat
  leaps : List (Nat × Int)
  clkCmds : List (Nat × Bool × Nat)
  clkArmed : Nat
  clkStopping : Nat
  divAt : Nat
  deferred : Nat
  waitA : Option Nat
  waitB : Option Nat
  refCmds : List (Bool × Nat)
  refDead : Nat
  deriving DecidableEq, Repr

/-- One PLL (R362 to R367): when it was started, when its present step began, the step of Table 13.2 it is in (0 none, 1 first band,
2 other band, 3 sweep, 4 swept), the bands it tries, and whether BandEdge was set during its last locked run. -/
structure Pll where
  startedAt : Nat
  stepAt : Nat
  phase : Nat
  bands : List Nat
  lastEdge : Bool
  deriving DecidableEq, Repr

/-! ### Capture, scribe, counters, tags (chapters 14, 15) -/

/-- A recorded row: the ridge stamp of its event, 32-bit values and qualifier bytes (R381). -/
structure Row where
  stamp : Nat
  vals : List Nat
  quals : List Nat
  deriving DecidableEq, Repr

/-- A triggered capture segment in one loft (R385 to R392): its plan, its Sequence, its rows oldest first, the index of the trigger row,
Flags (Table 14.2, without Side), FactorStart and Changes (row, log2 of the factor, cause), whether it is complete, its header from then
on, and the instant until which reads hold it. -/
structure Segment where
  plan : Nat
  seq : Nat
  rows : List Row
  preCount : Nat
  flags : Nat
  factorStart : Nat
  changes : List (Nat × Nat × Nat)
  complete : Bool
  head : List Nat
  heldUntil : Nat
  deriving DecidableEq, Repr

/-- A plan's engine in one sill (R379 to R388): the armed segment, the application time of an ARM, a DISARM waiting, the pre-trigger rows
kept, newest first, the rows recorded since arming, whether the trigger row is past and the number of the first kept row, log2 of the
factor, the events since the last recorded row, the rows since the last doubling, the doublings (row, factor, cause), the trigger signal's
last value, the segments completed, the stamps of triggers waiting, an ordered doubling, whether TIME has triggered since ARM, whether the
plan has stopped full, whether the write buffer was above 48 KiB, and the last event (stamp and arc index). -/
structure Engine where
  seg : Option Nat
  armAt : Option Nat
  stopping : Bool
  rows : List Row
  total : Nat
  past : Bool
  start : Nat
  factor : Nat
  since : Nat
  sinceHalve : Nat
  changes : List (Nat × Nat × Nat)
  prev : Option Nat
  seqNo : Nat
  trigs : List Nat
  halveAt : Option Nat
  timeDone : Bool
  full : Bool
  above : Bool
  lastEv : Option (Nat × Nat)
  deriving DecidableEq, Repr

/-- A plan's stream in the ridge (R390): the session that armed the plan (0 none), the Sequence being sent and the bytes of it sent, the
instant from which the next message may go, the side it is read from with the segment's FactorStart and Changes, and whether the backlog
was above StreamBacklog. -/
structure Stream where
  owner : Nat
  seq : Nat
  off : Nat
  nextAt : Nat
  side : Nat
  factorStart : Nat
  changes : List (Nat × Nat × Nat)
  above : Bool
  deriving DecidableEq, Repr

/-- Capture: engines and segments of both sides, the streams, the SegmentIds allocated to each plan (R377), and the plans whose missed
triggers of this command are to be reported (R384). -/
structure Capture where
  engines : Store Engine
  segs : Store Segment
  streams : Store Stream
  ids : Store (List Nat)
  missed : List Nat
  deriving DecidableEq, Repr

/-- A token bucket (R407): tokens missing from Capacity, the instant its refill timer counts from, drops pending. -/
structure Bucket where
  used : Nat
  since : Nat
  drops : Nat
  deriving DecidableEq, Repr

/-- The scribe ring, its buckets, the quantities whose saturation is reported, their next sampling instants, the HistogramClear commands
waiting (mask, application time); the counters running, the mask of banks last ordered started (R416), the counter commands waiting
(application time; 1 START, 2 STOP, 3 CLEAR, 4 + i a write of counter i, 127 their note and 128 + code a part of them for the sills or for
the ridge; banks or value), the counters whose overflow of this command is to be reported; the tagging of each truss (LFSR), the
tag rings, the tagged executions not yet Readable (side, bytes 0 to 4 and 6 to 11 of the record, nanoseconds of the tick, instant of
issue), the rings that
have refused a record; and the reference tick of the last step of OperatingHours. -/
structure Scribe where
  ring : Store (List Nat)
  buckets : Store Bucket
  saturated : Nat
  histAt : Store Nat
  clears : List (Nat × Nat)
  running : List Nat
  ordered : Nat
  ctrCmds : List (Nat × Nat × Nat)
  ovf : List Nat
  lfsr : List Nat
  tagRing : Store (List Nat)
  tagPend : List (Nat × List Nat × Nat × Nat)
  tagStopped : Nat
  hourTicks : Nat
  deriving DecidableEq, Repr

/-! ### Network, sessions, objects (chapter 16) -/

/-- A segmented write in progress (R426). -/
structure SegWrite where
  data : List Nat
  at_ : Nat
  deriving DecidableEq, Repr

/-- A snapshot held for a reader (R427). -/
structure Snap where
  data : List Nat
  at_ : Nat
  deriving DecidableEq, Repr

/-- A NOTIFY entry of a session (R448). -/
structure Note where
  ev : Nat
  since : Nat
  first : Nat
  deriving DecidableEq, Repr

/-- The values a reader holds (R134, R423): per-reader objects, last productions, latched counters, snapshots, writes in progress and
NOTIFY entries. -/
structure Reader where
  vals : Store Nat
  lastProd : Store Nat
  latched : Store Nat
  snaps : Store Snap
  writes : Store SegWrite
  notes : List Note
  holdoff : Option Nat
  deriving DecidableEq, Repr

/-- An open session (R443 to R445). -/
structure Session where
  role : Nat
  path : Nat
  ip : Nat
  udp : Nat
  key : List Nat
  high : Nat
  window : Nat
  lastMsg : Nat
  outSeq : Nat
  deriving DecidableEq, Repr

/-- What the device emits: a kind, an address (port, session or ball) and bytes. Kinds: 1 PPS_OUT pulse, 2 Sync, 3 delay request,
4 Announce, 5 loader response, 6 boot-port bytes, 7 stack page writes, 8 SOT message, 9 capture stream message, 10 forwarded frame,
11 supervision frame, 12 ARP reply, 13 ICMP echo reply, 14 SYNC_OUT pulse, 15 CLK_OUT gate, 16 SOUT test pulse, 17 an
object's bytes, returned to a reader, 18 an arbiter's grant, 19 a semaphore's answer, 20 the status of a write, 21 the redundancy tag or
trailer of a frame of the device's own (R438, R439). -/
structure Out where
  kind : Nat
  dest : Nat
  data : List Nat
  deriving DecidableEq, Repr

/-- The response to a WRITE that carries COMMIT, waiting for the checks (R430): its session (0xFF the boot port's access), RequestRef, the
response items, which of them stands for the COMMIT and the Offset that it echoes; and for a COMMIT of a row of its own the reader that is
answered. -/
structure Reply where
  sid : Nat
  ref : Nat
  items : List (List Nat)
  ix : Nat
  off : Nat
  row : Option Nat
  deriving DecidableEq, Repr

/-- The open configuration set (R428 to R432): its owner's SessionId (0xFF the boot port's access, R506), its SetId, the values staged,
the bytes written, whether the checks run, the instant of the owner's last write or COMMIT, and the response that waits. -/
structure OpenSet where
  owner : Nat
  id : Nat
  staged : Store Val
  bytes : Nat
  checking : Bool
  last : Nat
  reply : Option Reply
  deriving DecidableEq, Repr

/-- Communication: readers, sessions, the set, the HostNonces accepted, failures (IPv4, instant) and blocked sources (IPv4, end), the
messages waiting for FETCH, the frames seen (source, redundancy number, instant) and their sources (address, last on X, last on Y), the
next redundancy number, the instants of the latest ICMP replies, when the device's own supervision frames last came back on X and Y, the
ports on which they are missing, when it last sent them, the SOT messages waiting with the frame (source, redundancy number) that brought
each, the least ridge time of the next receipt (R436), and for each port the instants at which the frames on it and waiting for it end. -/
structure Net where
  readers : Store Reader
  sessions : Store Session
  openSet : Option OpenSet
  nonces : List Nat
  fails : List (Nat × Nat)
  blocked : List (Nat × Nat)
  bootQueue : List (List Nat)
  dups : List (Nat × Nat × Nat)
  nodes : List (Nat × Nat × Nat)
  redSeq : Nat
  icmp : List Nat
  lifeBack : List Nat
  ringPorts : Nat
  lifeAt : Nat
  queue : List (Msg × Option (Nat × Nat))
  nextReceipt : Nat
  lines : List (List Nat)
  deriving DecidableEq, Repr

/-! ### Boot and management (chapter 17) -/

/-- The loader (its claim: 1 boot port, 2 port X, 3 port Y; the instant up to which it absorbs a block), the PUF, the firmware slots and the
island; the application time of an accepted SWITCH, and the instant at which an accepted
RESTART acts. -/
structure Boot where
  powerAt : Nat
  pufTries : Nat
  deviceKey : Option Nat
  straps : Nat
  railsA : Bool
  railsB : Bool
  claim : Option Nat
  absorbTo : Nat
  nextOffset : Nat
  image : List Nat
  lastBlock : Nat
  response : List Nat
  unread : Bool
  parts : Store (List Nat)
  slotA : List Nat
  slotB : List Nat
  active : Nat
  islandDown : Bool
  fwStarted : Bool
  serving : Bool
  switchAt : Option Nat
  restartAt : Option Nat
  bringUpBegun : Bool
  tempEpisodes : Nat
  railEpisodes : Nat
  critEpisodes : Nat
  corrected : List Nat
  deriving DecidableEq, Repr

/-! ### The device -/

/-- The whole state. `now` counts femtoseconds from power good, `ridge` is ridge time at the last reference tick, in 2^-32 ns (R339);
`fresh` names, by object, the flags set in the present ridge clock (R12); `freeCount` is the model's own counter for free values; `out` is
what the last command emitted. -/
structure State where
  pending : List Instr
  now : Nat
  ridge : Nat
  od : Store Val
  fresh : Store Nat
  meas : Meas
  graphs : Graphs
  gf : GridForm
  plate : Plate
  stk : Store Stack
  sides : Sides
  safety : Safety
  sharing : Sharing
  ptp : Store PtpPort
  clock : Clock
  plls : Store Pll
  capture : Capture
  scribe : Scribe
  net : Net
  boot : Boot
  out : List Out
  freeCount : Nat
  deriving DecidableEq, Repr

/-- The machine never stops with a fault: what the device detects in itself is an effect on its state (side faults, ridge faults,
demands, events). The type has no constructor. -/
inductive Fault where
  deriving DecidableEq, Repr

/-- Refusals. -/
inductive Refusal where
  /-- Raised by exec's arms alone, for a command whose meaning is not written. Safe: nothing is claimed of it. -/
  | notModelled (mnemonic : String)
  deriving DecidableEq, Repr

/-! ### After power good -/

namespace Chain
/-- A chain right after a restart: filters empty (R62). -/
def init : Chain :=
  ⟨[], [], [], [], [], false, false, 0, 0, none, 0, 0, 0, [], 0, 0, false, 0, false, 0, false, 0, 0, []⟩
end Chain

def ClockGroup.init : ClockGroup := ⟨false, 0, false, false, false, 0⟩
def Feedback.init : Feedback := ⟨0, 0, 0, 0, 0, none, false, false⟩
def History.init : History := ⟨0, 0⟩
def Comparator.init : Comparator := ⟨0, false, false⟩
def Blank.init : Blank := ⟨none, false⟩
def Arc.init : Arc := ⟨[], none, none, none, 3, 0, false, false⟩
def Meas.init : Meas := ⟨[], [], [], [], 0, [], [], [], [], [], false⟩
def Port.init : Port := ⟨0, 0, 0⟩
def Inst.init : Inst := ⟨[], [], [], [], 0, true, [], [], [], 0, none, [], false, false, none⟩
def Result.init : Result := ⟨0, 0, 0, false, false, false, [], []⟩
def Graph.init : Graph :=
  { index := 0, started := false, tick := 0, tickAt := 0, vertex := 0, period := 0, rateTick := [0, 0, 0, 0], ratePer := [0, 0, 0, 0]
    cutoffs := [0, 0, 0, 0], gfAt := [[], [], [], []], frame := [], links := [], done := [], awake := [], sleptAt := 0, inst := [], results := []
    tagged := [], cmds := [], commits := none, fastSig := 0, stateSig := 0, mainDone := [], pubs := [], triples := [], doutReq := 0, compared := false
    overran := false, overruns := 0, ctl := false }
def Graphs.init : Graphs := ⟨Graph.init, Graph.init, none, [], [], [], [], [], [], []⟩
def GridForm.init : GridForm :=
  { trans := none, cmd := none, causes := 0, firstCause := 0, rideFromParallel := false, limitSince := none, holds := 0
    heldSince := [0, 0, 0, 0], quietSince := none, lastReads := [0, 0, 0], unknown := 0, enteredAt := 0, closeAt := none
    closeNext := false, shift := 0, inhibitUntil := 0, sigma := 0, fGrid := 0, lastMain := 0, resyncOut := false }
def PairSet.init : PairSet := ⟨0, 0, false⟩
def SillPair.init : SillPair :=
  ⟨PairSet.init, PairSet.init, PairSet.init, PairSet.init, 0, 0, false, false, false, false, none, none, []⟩
def Carrier.init : Carrier := ⟨false, true, 0, 10000, 10000, 10000, 10000, 10000, [], false, false, []⟩
def Update.init : Update := ⟨none, none, none, none⟩
def Sill.init : Sill := ⟨[], [], []⟩
def PlatePair.init : PlatePair := ⟨0, false, false, false, false, 0, 0, 0, 0, false⟩
/-- The inputs at power good are taken at their inactive levels (log entry 6). -/
def Plate.init : Plate :=
  ⟨Sill.init, Sill.init, [], [], 0, [], [], [], 0, false, false, 0, 0, 0, none⟩
def Stack.init : Stack := ⟨none, false, [], [], 0, 0, [], 0, 0, none⟩
def Beat.init : Beat := ⟨none, 0, false, 0⟩
def SideRt.init : SideRt :=
  ⟨Beat.init, Beat.init, false, 0, none, false, none, none, [], false, [], true, false, 0, [], 0⟩
def Sides.init : Sides := ⟨SideRt.init, SideRt.init, none, false, [], 0, none, 0, false⟩
/-- The reset is blocked after power-up (R304). -/
def Safety.init : Safety := ⟨0, 0, 0xFF, 0, 0, ⟨0, false, false⟩, ⟨0, false, false⟩, [], 0, 4, 0, 0, 0, [], 0, 0, 0, 0, [], false⟩
def Arbiter.init : Arbiter := ⟨[], 0, [0, 0, 0, 0], 0, false, [], [0, 0, 0, 0, 0, 0]⟩
def Sem.init : Sem := ⟨none, 0, []⟩
def Sharing.init : Sharing := ⟨[], [], [], none, [], none, 0, 0, 0, 0, none⟩
def PtpPort.init : PtpPort := ⟨[], [], none, 0, false, false, 0, none, none, 0, 0⟩
def Clock.init : Clock := ⟨[], 0, 0, none, none, 0, 0, [], [], 0, 0, 0, 0, none, none, [], 0⟩
def Pll.init : Pll := ⟨0, 0, 0, [], false⟩
def Engine.init : Engine :=
  { seg := none, armAt := none, stopping := false, rows := [], total := 0, past := false, start := 0, factor := 0, since := 0
    sinceHalve := 0, changes := [], prev := none, seqNo := 0, trigs := [], halveAt := none, timeDone := false, full := false
    above := false, lastEv := none }
def Segment.init : Segment := ⟨0, 0, [], 0, 0, 0, [], false, [], 0⟩
def Stream.init : Stream := ⟨0, 0, 0, 0, 0, 0, [], false⟩
def Capture.init : Capture := ⟨[], [], [], [], []⟩
def Bucket.init : Bucket := ⟨0, 0, 0⟩
def Scribe.init : Scribe := ⟨[], [], 0, [], [], [], 0, [], [], [1, 1], [], [], 0, 0⟩
def Reader.init : Reader := ⟨[], [], [], [], [], [], none⟩
def Session.init : Session := ⟨0, 0, 0, 0, [], 0, 0, 0, 0⟩
def Net.init : Net := ⟨[], [], none, [], [], [], [], [], [], 0, [], [0, 0], 0, 0, [], 0, [[], []]⟩
def Boot.init : Boot :=
  ⟨0, 0, none, 0, true, true, none, 0, 0, [], 0, [], false, [], [], [], 0, false, false, false, none, none, false, 0, 0, 0, [0, 0, 0, 0]⟩

/-- The device at power good: every object at its after-power-up value, ridge time 0, nothing running (R452, R339). -/
def State.reset : State :=
  { pending := [], now := 0, ridge := 0, od := [], fresh := [], meas := Meas.init, graphs := Graphs.init, gf := GridForm.init
    plate := Plate.init, stk := [], sides := Sides.init, safety := Safety.init, sharing := Sharing.init, ptp := []
    clock := Clock.init, plls := [], capture := Capture.init, scribe := Scribe.init, net := Net.init, boot := Boot.init
    out := [], freeCount := 0 }

end Sys2Proof.Machine
end

