-- ==== Sys2Proof/Machine/Objects.lean ====
section
/-!
DEFINITION. The object dictionary: every object of Table 18.3 with its size, kind (R423), writable and W1C bits, role rights
(Table 18.2) and after-power-up value, from the field maps of its chapter (R481).
-/
namespace Sys2Proof.Machine

/-- The kinds of object (R423): every field RO; configuration; command; immediate; per reader (immediate, one value a reader). -/
inductive Kind where
  | ro
  | cfg
  | cmd
  | imm
  | per
  deriving DecidableEq, Repr

/-- The rights codes of Table 18.2. -/
inductive Right where
  | r
  | a
  | e
  | o
  | os
  | s
  | p
  | ke
  | ks
  deriving DecidableEq, Repr

/-- An object of a record: its subindices, its size in bytes (0: BLOB or STR), kind, the bits of its RW and WO fields, of its W1C
fields, its rights, its number after power-up, and for a BLOB the greatest length of a write (`exact`: the only one). -/
structure ObjRow where
  lo : Nat
  hi : Nat
  size : Nat
  kind : Kind
  rw : Nat
  w1c : Nat
  right : Right
  dflt : Nat
  len : Nat
  exact : Bool
  deriving DecidableEq, Repr

/-- The greatest BLOB (Table 16.1). -/
def blobMax : Nat := 1048576

/-- All bits of a number of `n` bytes. -/
def ones (n : Nat) : Nat := 2 ^ (8 * n) - 1

/-- An RO number. -/
def rRO (sub size d : Nat) : ObjRow := ⟨sub, sub, size, .ro, 0, 0, .r, d, 0, false⟩
/-- An RO BLOB or STR. -/
def rROB (sub : Nat) : ObjRow := ⟨sub, sub, 0, .ro, 0, 0, .r, 0, 0, false⟩
/-- A configuration number. -/
def rCF (q : Right) (sub size mask d : Nat) : ObjRow := ⟨sub, sub, size, .cfg, mask, 0, q, d, 0, false⟩
/-- A configuration number whose every bit is RW, rights E. -/
def rCE (sub size d : Nat) : ObjRow := rCF .e sub size (ones size) d
/-- A configuration BLOB. -/
def rCB (q : Right) (sub : Nat) : ObjRow := ⟨sub, sub, 0, .cfg, 0, 0, q, 0, blobMax, false⟩
/-- A command object. -/
def rCM (q : Right) (sub size mask : Nat) : ObjRow := ⟨sub, sub, size, .cmd, mask, 0, q, 0, 0, false⟩
/-- An object with W1C flags and RO fields only. -/
def rW1 (sub size mask : Nat) : ObjRow := ⟨sub, sub, size, .imm, 0, mask, .a, 0, 0, false⟩
/-- An immediate number. -/
def rIM (q : Right) (sub size mask w1c d : Nat) : ObjRow := ⟨sub, sub, size, .imm, mask, w1c, q, d, 0, false⟩
/-- A per-reader number. -/
def rPR (sub size mask : Nat) : ObjRow := ⟨sub, sub, size, .per, mask, 0, .p, 0, 0, false⟩

/-- A record: its first and last index and its objects. -/
structure ObjRec where
  lo : Nat
  hi : Nat
  rows : List ObjRow

/-- Identity to events (chapter 16). -/
def objRecs1 : List ObjRec := [
  ⟨0x1000, 0x1000, [rRO 1 8 0, rRO 2 4 0, rROB 3, rRO 4 4 0x7820, rRO 5 1 0, rRO 6 1 0, rRO 7 8 0]⟩,
  ⟨0x1010, 0x1010, [rCF .e 1 8 0xFFFFFFFFFFFF 0, rCE 2 4 0, rCE 3 4 0xFFFF0000, rCE 4 4 0, rCF .e 5 4 0x0FFF0770 0]⟩,
  ⟨0x1020, 0x1020, [rCE 1 1 0, rCE 2 2 2000, rCE 3 2 400, rCE 4 2 5000, rW1 5 2 7]⟩,
  ⟨0x1030, 0x1030, [⟨1, 3, 0, .cfg, 0, 0, .ke, 0, blobMax, false⟩, ⟨4, 4, 0, .cfg, 0, 0, .ks, 0, blobMax, false⟩, rCE 5 2 2000,
    rCE 6 2 60, rROB 7]⟩,
  ⟨0x1040, 0x1040, [rROB 1, rPR 2 1 0xFF]⟩,
  ⟨0x1050, 0x1050, [rCM .a 1 8 0xF0000000FFFFFFFF, rRO 2 4 0, rRO 3 4 0, rRO 4 12 0, rROB 5, rRO 6 4 0, rRO 7 4 0,
    rIM .e 8 2 0xFFFF 0 600]⟩,
  ⟨0x1200, 0x1200, [⟨1, 1, 0, .imm, 0, 1, .a, 0, 32, true⟩, rROB 2, rCB .e 3, rCB .e 4, rCE 5 2 10,
    ⟨6, 6, 0, .cmd, 0, 0, .o, 0, 32, true⟩, rROB 7]⟩]

/-- Measurement, arc and chord (chapters 02, 03). DESIGN CHOICE (log entry 23): GroupDelay, SettleCount and ArcDelay, which Tables 02.3 and 03.5
give no after-power-up value, read 0 until the first commit forms them (R501). -/
def objRecs2 : List ObjRec := [
  ⟨0x2001, 0x2001, [⟨1, 8, 4, .cfg, 0xFFF07FFF, 0, .e, 20000, 0, false⟩]⟩,
  ⟨0x2100, 0x213F, [rCF .e 1 2 0x8801 0, rCF .e 2 4 0x7FFF 0x620, rCF .e 3 4 0xFFFFFF 0x800000, rCF .e 4 2 0xE000 0,
    rCF .e 5 2 0xDF0F 0x0E00, rCE 6 4 0, rCE 7 4 0x00C80000, rCE 8 4 0x3F800000, rCE 9 4 0, rCE 0xA 1 0, rW1 0xB 2 0xF8,
    rRO 0xC 8 0, rRO 0xD 1 0, rRO 0xE 2 0, rCF .e 0xF 1 3 0, rRO 0x10 8 0]⟩,
  ⟨0x2200, 0x227F, [⟨1, 0x80, 4, .cfg, 0xFFFFFFFF, 0, .e, 0, 0, false⟩, rCE 0x81 1 1, rCE 0x82 4 0, rRO 0x83 1 0]⟩,
  ⟨0x2300, 0x2300, [rCM .e 1 2 0xFF, rW1 2 2 0xFF]⟩,
  ⟨0x2310, 0x2310, [rCF .e 1 2 0xF000 0x1000, rCM .e 2 12 (ones 12), rRO 3 4 0, rRO 4 12 0]⟩,
  ⟨0x2500, 0x2503, [rCF .e 1 4 0xF0000FFF 0xF0000100, rCE 2 4 0x42340000, rCE 3 4 0x425C0000, rCE 4 4 0x42480000, rCE 5 2 1000,
    rW1 6 2 0xF, rRO 7 4 0, rRO 8 4 0, rRO 9 2 0]⟩,
  ⟨0x2600, 0x263F, [rCF .e 1 4 0xFC00FFFF 0x4100, rCF .e 2 4 0xEF000FFF 0x010007FF, rCF .e 3 4 0xEF000FFF 0x010007FF,
    rCF .e 4 4 0xEF000FFF 0x01000800, rCF .e 5 4 0xEF000FFF 0x01000800, rCE 6 2 0, rW1 7 2 0xF040, rRO 8 2 0]⟩]

/-- Control graphs, elements and grid-forming (chapters 04 to 06). -/
def objRecs3 : List ObjRec := [
  ⟨0x3000, 0x3000, [rCM .e 1 2 1, rIM .a 2 4 0 0x10000000 0x40000000, rRO 3 12 0, rRO 4 2 0, rRO 5 2 0, rRO 6 2 0]⟩,
  ⟨0x3100, 0x3101, [rCB .e 1, rCB .e 2, rRO 3 4 0, rRO 4 1 0]⟩,
  ⟨0x3300, 0x3300, [rCM .e 1 2 0xFFFF, rW1 2 4 0xFFFF]⟩,
  ⟨0x3400, 0x3BFF, [rCB .e 1, rCB .e 2, rCB .e 3, rCF .e 4 2 0xF000 0, rCM .o 5 2 7, rW1 6 2 0x1F, rROB 7, rRO 8 4 0]⟩,
  ⟨0x3C00, 0x3DFF, [rRO 1 4 0, rRO 2 4 0, rROB 3]⟩,
  ⟨0x4000, 0x4000, [rCE 1 4 0x49742400, rCE 2 4 0x43C80000, rCE 3 4 0x42480000, rRO 4 4 0x44B46CCD, rRO 5 4 0x3E23D70A]⟩,
  ⟨0x4001, 0x4001, [rCM .o 1 2 0x800F, rCF .o 2 12 (ones 12) 0, rRO 3 2 0, rRO 4 12 0, rRO 5 2 0]⟩,
  ⟨0x4002, 0x4002, [rCF .e 1 4 0xFFFFC000 0x80014000, rCE 2 2 20, rCE 3 2 3000, rCE 4 2 2000, rCE 5 2 30, rCE 6 2 60,
    rCE 7 4 0x3D4CCCCD, rCE 8 4 0x3F59999A, rCE 9 4 0x3DCCCCCD, rCE 0xA 4 0x3D4CCCCD, rCE 0xB 4 0x40A00000, rCE 0xC 4 0x3DCCCCCD,
    rCE 0xD 4 0x3D4CCCCD, rCE 0xE 2 80, rCE 0xF 2 300, rRO 0x10 4 0, rRO 0x11 4 0]⟩,
  ⟨0x4010, 0x4010, [⟨1, 8, 2, .cfg, 0xFFFF, 0, .e, 0xFFFF, 0, false⟩]⟩]

/-- Modulation, sides, safety (chapters 01, 07, 09, 10). -/
def objRecs4 : List ObjRec := [
  ⟨0x5100, 0x5100, [rCM .e 1 4 0xFFFFFFFF, rCM .o 2 12 (ones 12), rCM .o 3 1 0xFF, rW1 4 4 1]⟩,
  ⟨0x5120, 0x5127, [rCF .e 1 4 0xFFF00000 0x06000000, rCE 2 4 0, rCE 3 4 10000, rCF .e 4 4 0x8001FFFF 0, rRO 5 4 0, rRO 6 4 0,
    rRO 7 2 0]⟩,
  ⟨0x5140, 0x515F, [rCF .e 1 2 7 0, rW1 2 2 7, rRO 3 4 0]⟩,
  ⟨0x5200, 0x5247, [rCF .e 1 4 0xF87F0000 0, rCE 2 4 0x32003200, rIM .e 3 4 0x3FFFFF 0 0, rIM .e 4 4 0x3FFFFF 0 0,
    rIM .e 5 1 0xFF 0 0, rRO 6 4 0, rRO 7 4 0, rW1 8 2 7]⟩,
  ⟨0x5300, 0x5300, [rIM .o 1 4 0xFFFFFFFF 0 0, rIM .o 2 4 0xFFFFFFFF 0 0, rIM .o 3 1 0xFF 0 0, rIM .a 4 2 0 3 0x1000]⟩,
  ⟨0x5310, 0x5310, [rCF .s 1 2 0xFFFF 0xFFFF, rCF .s 2 2 0xFFFF 0, rRO 3 2 0, rRO 4 2 0, rCM .s 5 2 3]⟩,
  ⟨0x5320, 0x5320, [rCM .s 1 1 0xFF, ⟨2, 2, 0, .imm, 0, 0, .s, 0, 72, false⟩]⟩,
  ⟨0x6000, 0x6000, [rCF .e 1 2 0x0317 0x0200, rRO 2 2 0x0200]⟩,
  ⟨0x6010, 0x6010, [rCF .e 1 2 0xC003 0x4002, rCE 2 2 10, rCE 3 2 0, rCE 4 2 100]⟩,
  ⟨0x6020, 0x6020, [rCM .e 1 2 0xF001, rRO 2 2 0]⟩,
  ⟨0x6021, 0x6021, [rRO 1 4 0, rRO 2 12 0, rRO 3 1 0, rRO 4 4 0, rRO 5 2 0]⟩,
  ⟨0x6030, 0x6031, [rW1 1 4 0x00FF0000, rRO 2 4 0, rRO 3 4 0, rRO 4 2 0, rRO 5 4 0, rRO 6 4 0, rRO 7 4 0, rRO 8 4 0, rRO 9 12 0]⟩,
  ⟨0x6800, 0x6800, [rRO 1 2 0, rIM .a 2 4 0 0xFC 0x04000000, rRO 3 1 0, rIM .os 4 1 0xF 0 0xF, rRO 5 1 0, rCF .s 6 2 0x800F 0,
    rRO 7 2 0, rRO 8 4 0, rRO 9 2 0, rRO 0xA 2 0, rRO 0xB 12 0]⟩]

/-- Time and clocks (chapters 12, 13). -/
def objRecs5 : List ObjRec := [
  ⟨0x7000, 0x7000, [rRO 1 12 0, rIM .e 2 8 0xFFFFFFFFFF 0 0x2800000000, rCM .e 3 12 (ones 12), rCM .e 4 8 (ones 8),
    rIM .a 5 4 0x80 7 0, rRO 6 2 0, rRO 7 12 0, rRO 8 12 0]⟩,
  ⟨0x7010, 0x7010, [rCF .e 1 4 0xFEFFFFF0 0x100, rCE 2 4 0x3F000000, rCE 3 4 0x3DCCCCCD, rCE 4 4 10000, rCE 5 4 1000, rCE 6 2 10,
    rRO 7 8 0, rRO 8 4 0]⟩,
  ⟨0x7020, 0x7020, [rCE 1 8 0, rCE 2 1 128, rCE 3 1 128, rCE 4 1 248, rCE 5 1 0xFE, rCE 6 2 0xFFFF, rRO 7 8 0]⟩,
  ⟨0x7028, 0x7029, [rRO 1 1 1, rW1 2 2 7, rRO 3 8 0, rCE 4 4 0, rCE 5 4 0, rCE 6 4 0, rCM .e 7 4 0xFFFFFFFF, rCE 8 2 50, rCE 9 2 10]⟩,
  ⟨0x7030, 0x7030, [rCF .e 1 2 0xC3FF 0x64, rCE 2 4 0, rCE 3 4 0, rRO 4 12 0, rIM .e 5 2 0xFFFF 0 0, rCE 6 1 0, rCE 7 12 0, rROB 8]⟩,
  ⟨0x7040, 0x7040, [rCF .e 1 2 0x8000 0, rW1 2 2 0xF, rRO 3 4 0, rCM .e 4 1 0xFF]⟩,
  ⟨0x7050, 0x7050, [rRO 1 2 0]⟩,
  ⟨0x7060, 0x7060, [rCM .e 1 2 0xFFFF, rW1 2 2 1]⟩,
  ⟨0x7100, 0x7104, [rCB .e 1, rCE 2 2 60, rW1 3 2 0xE, rRO 4 1 0xFF, rRO 5 4 0, rRO 6 2 0, rROB 7]⟩,
  ⟨0x7200, 0x7207, [rCF .e 1 4 0xC0000FFF 0xC8, rRO 2 2 0, rRO 3 4 20000]⟩]

/-- Capture, scribe, counters (chapters 14, 15). DESIGN CHOICE (log entry 23): QuantityConfig powers up with the PeriodMs 1000 of Table 15.2,
where Table 15.1 gives the whole object 0. -/
def objRecs6 : List ObjRec := [
  ⟨0x8000, 0x8000, [rCM .o 1 4 0xFFFF00FF, rW1 2 4 7, rCE 3 2 256, rIM .o 4 1 0xFF 0 0, rRO 5 2 0]⟩,
  ⟨0x8010, 0x8017, [rCF .e 1 4 0xFFFF0000 0, rCB .e 2, rCE 3 4 4096, rCE 4 4 0, rCE 5 2 1, rCF .e 6 4 0xF8003FFF 0, rCE 7 4 0,
    rCE 8 12 0, rCE 9 4 10000, rCE 0xA 4 2048, rRO 0xB 4 0, rRO 0xC 4 0, rRO 0xD 2 0]⟩,
  ⟨0x8020, 0x8020, [rPR 1 2 0xFFF, rROB 2, rPR 3 4 0xFFFFFFFF, rROB 4, rROB 5]⟩,
  ⟨0x8100, 0x8100, [rCM .e 1 4 0xFFFFFFFF, rCM .e 2 4 0xFFFFFFFF, rW1 3 2 7, rRO 4 4 0, rPR 5 4 0xFFFFFFFF, rROB 6, rCB .e 7,
    rRO 8 4 0, rRO 9 4 0, rRO 0xA 4 0, ⟨0xB, 0xB, 0, .cmd, 0, 0, .o, 0, 14, true⟩, rCF .e 0xC 4 0xFF00FFFF 0x10000064]⟩,
  ⟨0x8101, 0x8101, [rCB .e 1]⟩,
  ⟨0x8110, 0x814F, [rCF .e 1 4 0xC1FFFFFF 1000, rCE 2 4 0, rCE 3 4 0x3F800000, rROB 4, rROB 5, rRO 6 4 0, rRO 7 4 0]⟩,
  ⟨0x8180, 0x8180, [rCM .o 1 8 (ones 8)]⟩,
  ⟨0x8200, 0x8200, [rCM .e 1 2 0xF007]⟩,
  ⟨0x8210, 0x8211, [rCF .e 1 4 0xFFDF0000 0x80000, rCE 2 4 1, rRO 3 4 0, rPR 4 4 0xFFFFFFFF, rROB 5, rRO 6 4 0]⟩,
  ⟨0x8300, 0x836F, [rCF .e 1 4 0xEFFF00FF 0x0F000000, rCF .e 2 2 0x3F1F 0x3F1F, rCE 3 4 0, rCE 4 4 0xFFFFFFFF,
    rIM .e 5 4 0xFFFFFFFF 0 0, rRO 6 4 0, rRO 7 8 0, rW1 8 2 3]⟩]

/-- Stacks, sharing, management, compatibility (chapters 08, 11, 15, 17). -/
def objRecs7 : List ObjRec := [
  ⟨0x9000, 0x9000, [rCE 1 2 0, rCE 2 2 15, rCE 3 4 0x3F666666, rCM .e 4 2 0xFF87, rRO 5 2 0]⟩,
  ⟨0x9010, 0x901F, [rCF .e 1 4 0x800F7FFF 0x000F7FFF, rROB 2, rW1 3 2 0xF, rRO 4 4 0, rRO 5 4 0, rROB 6, rROB 7, rROB 8, rRO 9 12 0]⟩,
  ⟨0x9100, 0x910F, [rCF .e 1 2 0xC000 0, rCB .e 2, rCE 3 4 0x3DCCCCCD, rROB 4]⟩,
  ⟨0xA000, 0xA000, [rW1 1 4 0xFF000003, rRO 2 4 0, rRO 3 4 0, rRO 4 4 0, rRO 5 2 0, rRO 6 4 0]⟩,
  ⟨0xA100, 0xA106, [rCB .e 1, rCE 2 4 0, rROB 3, rROB 4, rRO 5 1 0]⟩,
  ⟨0xB000, 0xB000, [rRO 1 4 0x00100000, rCM .e 2 2 0xFFFF, rRO 3 2 0, rROB 4, rRO 5 1 0, rRO 6 2 0, rRO 7 1 0]⟩,
  ⟨0xB010, 0xB010, [rROB 1, rCE 2 4 0x42D20000, rW1 3 2 0xF]⟩,
  ⟨0xB100, 0xB100, [rCB .e 1, rROB 2, rRO 3 4 0]⟩,
  ⟨0xB200, 0xB200, [⟨1, 7, 0, .cmd, 0, 0, .e, 0, blobMax, false⟩, rCM .e 8 1 0xFF, rRO 9 4 0, rRO 0xA 4 0]⟩,
  ⟨0xF000, 0xF000, [rRO 1 4 0, rPR 2 4 0xFFFFFFFF, rROB 3]⟩]

/-- The record that holds an index among those listed. -/
def findRec (i : Nat) : List ObjRec → Option ObjRec
  | [] => none
  | r :: rs => if r.lo ≤ i && i ≤ r.hi then some r else findRec i rs

/-- The record of an index (Table 18.3, by the ranges of Table 18.1). -/
def recOf (i : Nat) : Option ObjRec :=
  if i < 0x2000 then findRec i objRecs1
  else if i < 0x3000 then findRec i objRecs2
  else if i < 0x5000 then findRec i objRecs3
  else if i < 0x7000 then findRec i objRecs4
  else if i < 0x8000 then findRec i objRecs5
  else if i < 0x9000 then findRec i objRecs6
  else findRec i objRecs7

/-- The object a key names, none where the dictionary defines none (R421, R477). Subindex 0 is the record's highest subindex. -/
def rowOf (k : Nat) : Option ObjRow :=
  match recOf (k / 256) with
  | none => none
  | some r =>
    if k % 256 = 0 then some (rRO 0 1 (r.rows.foldl (fun m o => if m < o.hi then o.hi else m) 0))
    else r.rows.find? (fun o => decide (o.lo ≤ k % 256) && decide (k % 256 ≤ o.hi))

/-- The after-power-up number of an object whose value depends on its index or subindex. -/
def indexDefault (i j d : Nat) : Nat :=
  if i = 0x2001 && j != 0 then ((j - 1) <<< 20) ||| 20000
  else if 0x2200 ≤ i && i ≤ 0x227F then
    if i % 2 = 0 then (if j = 1 then 0x400000 else if j = 0x82 then 0x2A319FB6 else if j = 0x83 then 2 else d) else d
  else if 0x5120 ≤ i && i ≤ 0x5127 then (if j = 1 then 0x06000000 + (i - 0x5120) <<< 20 else d)
  else if 0x5140 ≤ i && i ≤ 0x515F then (if j = 1 then i % 8 else d)
  else if 0x5200 ≤ i && i ≤ 0x5247 then (if j = 1 then ((i - 0x5200) % 32) <<< 27 ||| (i - 0x5200) <<< 16 else d)
  else if 0xA100 ≤ i && i ≤ 0xA106 then
    if j = 2 then nth 0 [0, 0x08060501, 0x101C0004, 0x0C0A0802, 0x01010101, 0x00060501, 0x04030201] (i - 0xA100)
    else if j = 5 then nth 0 [48, 44, 16, 32, 12, 4, 6] (i - 0xA100) else d
  else d

/-- The slot tables after power-up (Table 11.3). -/
def slotTableInit (r : Nat) : List Nat :=
  if r = 0 then
    (List.range 64).map (fun s =>
      match s % 8 with
      | 2 => if (s / 8) % 2 = 0 then 2 else 4
      | 4 => 1
      | 7 => if s / 8 = 3 || s / 8 = 7 then 5 else 3
      | _ => 0)
  else if r = 1 then
    (List.range 64).map (fun s =>
      if s % 2 = 0 then 0 else if s % 16 = 3 || s % 16 = 9 || s % 16 = 15 then 1 else 0xFF)
  else if r = 2 then (List.range 64).map (fun s => if s % 4 = 0 then 0 else 0xFF)
  else if r = 3 then (List.range 64).map (fun s => if s % 4 = 0 then 0 else if s % 4 = 2 then 1 else 0xFF)
  else if r = 4 then (List.range 16).map (fun s => if s % 2 = 0 then 0 else if s % 4 = 1 then 1 else 0xFF)
  else if r = 5 then (List.range 16).map (fun s => if s % 4 = 0 then 0 else 0xFF)
  else (List.range 16).map (fun s => if s % 4 = 0 then 0 else if s % 8 = 2 then 1 else 0xFF)

/-- The grant bounds after power-up (Table 11.4), 0xFFFF for an absent class. -/
def grantBoundInit (r : Nat) : List Nat :=
  (nth [] [[2, 8, 16, 16, 16, 32], [2, 6, 52, 60, 64, 144], [4, 0xFFFF, 66, 42, 0xFFFF, 154], [4, 4, 42, 46, 50, 126],
    [2, 4, 16, 16, 16, 32], [4, 0xFFFF, 0xFFFF, 14, 16, 40], [4, 8, 14, 16, 18, 36]] r).flatMap (beBytes 2)

/-- A byte string of `n` zero bytes with the bytes listed. -/
def bytesWith (n : Nat) (l : List (Nat × Nat)) : List Nat :=
  (List.range n).map (fun i => match l.find? (fun p => p.1 == i) with | some p => p.2 | none => 0)

/-- The after-power-up bytes of a BLOB (Tables 16.10, 18.5, 11.3, 11.4, 15.1, 15.6, 17.9, 17.11). DESIGN CHOICE (log entry 23): Table 17.11 gives
Sensors 192 bytes and no values; every sensor reads as a NaN until its first update. -/
def blobDefault (i j : Nat) : List Nat :=
  if i = 0x1030 then (if j = 7 then List.replicate 24 0 else [])
  else if i = 0x1200 then
    if j = 1 then List.replicate 32 0
    else if j = 2 then List.replicate 512 0
    else if j = 3 then bytesWith 32 [(0, 0xFF), (1, 0x7F), (4, 0xFF), (5, 0x1F), (8, 0xFF), (9, 0x7F), (14, 0xFF), (15, 0xFF),
      (16, 0x1F), (18, 0x7F), (22, 0xFF), (23, 0x1F), (24, 0xFF), (25, 0xFF), (26, 0xFF), (27, 0x0F), (28, 0xFF), (29, 0x0F),
      (30, 0xFF), (31, 0x7F)]
    else if j = 4 then bytesWith 32 [(0, 0x55), (1, 0x43), (4, 0x23), (5, 0x04), (8, 0x03), (14, 0x01), (15, 0x70), (16, 0x01),
      (22, 0x10), (25, 0x0C), (30, 0x94)]
    else if j = 7 then List.replicate 6144 0 else []
  else if 0x3C00 ≤ i && i ≤ 0x3DFF then List.replicate 12 0
  else if i = 0x7030 then List.replicate 12 0
  else if i = 0x8100 then (if j = 6 then List.replicate 4 0 else if j = 7 then List.replicate 32 0xFF else [])
  else if i = 0x8101 then (List.replicate 256 [8, 0, 0x03, 0xE8]).flatten
  else if 0x8110 ≤ i && i ≤ 0x814F then (if j = 4 then List.replicate 256 0 else if j = 5 then List.replicate 40 0 else [])
  else if 0x8210 ≤ i && i ≤ 0x8211 then List.replicate 4 0
  else if 0xA100 ≤ i && i ≤ 0xA106 then
    if j = 1 then slotTableInit (i - 0xA100) else if j = 3 then grantBoundInit (i - 0xA100)
    else if j = 4 then List.replicate 12 0 else []
  else if i = 0xB000 then (if j = 4 then List.replicate 40 0 else [])
  else if i = 0xB010 then (if j = 1 then (List.replicate 48 [0x7F, 0xC0, 0, 0]).flatten else [])
  else if i = 0xF000 then List.replicate 4 0
  else []

/-- The value an unlisted object holds: its after-power-up value (R11). -/
def objDefault (k : Nat) : Val :=
  match rowOf k with
  | none => .num 0
  | some o => if o.size = 0 then .blob (blobDefault (k / 256) (k % 256)) else .num (indexDefault (k / 256) (k % 256) o.dflt)

end Sys2Proof.Machine
end

