-- ==== Sys2Proof/WellFormed.lean ====
section
/-!
DEFINITION. Well-formed commands: every operand within the range the spec gives what it names (a channel 0 to 63, a carrier group
0 to 7, a byte below 256, a field within its width).
-/
namespace Sys2Proof

/-- Every number of a byte string is a byte. -/
def bytesOk (l : List Nat) : Bool := l.all (fun b => decide (b < 256))

/-- A message's fields lie within their widths (R434). -/
def Msg.wf (m : Msg) : Bool :=
  decide (1 ≤ m.path) && decide (m.path ≤ 3) && decide (m.ip < 2 ^ 32) && decide (m.udp < 2 ^ 16)
    && (m.path != 1 || (m.ip == 0 && m.udp == 0)) && bytesOk m.data

/-- A frame's fields lie within their widths (R433). -/
def Frame.wf (f : Frame) : Bool :=
  decide (f.etherType < 2 ^ 16) && decide (f.vlan < 2 ^ 12) && decide (f.len < 2 ^ 16) && decide (f.src < 2 ^ 48) && decide (f.dst < 2 ^ 48)
    && decide (f.rseq < 2 ^ 16) && decide (f.ptpType < 16) && decide (f.domain < 2 ^ 8) && decide (f.ptpSeq < 2 ^ 16)
    && decide (f.correction < 2 ^ 64) && decide (f.residence < 2 ^ 64)
    && (match f.sot with | none => true | some m => m.wf && m.path != 1)

/-- Physical lanes of a side, as joist · 16 + lane. -/
def lanesOk (l : List Nat) : Bool := l.all (fun n => decide (n / 16 < 16) && decide (n % 16 < 9))

/-- The instances of resource r (R313, Table 11.2), as 2 · index + side: joists, ports of bay crossbars (index 16 · bay + port), swap ports,
and the loft and bays of a die network; one of each ridge resource and of the stack link. -/
def resInstances (r : Nat) : Nat := if r = 0 then 32 else if r = 1 then 128 else if r = 2 then 8 else if r = 3 then 10 else 1

/-- The operands of a command lie within what they name. -/
def Instr.wf : Instr → Bool
  | .powerGood _ sideRails => decide (sideRails < 4)
  | .romChecksComplete _ straps sideRails => decide (straps < 64) && decide (sideRails < 4)
  | .pufDerivation _ _ _ => true
  | .loaderBlock _ port ip off len data => decide (port < 2) && decide (ip < 2 ^ 32) && decide (off < 2 ^ 32) && decide (len < 2 ^ 16) &&
    bytesOk data
  | .loaderStatusOp _ port ip => decide (port < 2) && decide (ip < 2 ^ 32)
  | .loaderAbort _ port ip => decide (port < 2) && decide (ip < 2 ^ 32)
  | .bootLoad _ off len data => decide (off < 2 ^ 32) && decide (len < 2 ^ 16) && bytesOk data
  | .loaderStatus _ => true
  | .loaderIdleTimeout _ => true
  | .imageVerify _ => true
  | .fwStart _ => true
  | .bringUp _ sideRails => decide (sideRails < 4)
  | .bringUpComplete _ found _ => found.all (fun e => bytesOk e && e.length == 8)
  | .restart _ confirm => decide (confirm < 2 ^ 12)
  | .islandWatchdog _ _ => true
  | .islandRestartDone _ => true
  | .imagePartWrite _ part data => decide (part < 7) && bytesOk data
  | .imageVerifyCommand _ => true
  | .imageSwitch _ => true
  | .imageDiscard _ => true
  | .tempHigh _ sensor value _ => decide (sensor < 7) && decide (value < 2 ^ 32)
  | .tempCritical _ sensor value _ => decide (sensor < 7) && decide (value < 2 ^ 32)
  | .railWarning _ sensor value _ => decide (sensor < 20) && decide (value < 2 ^ 32)
  | .railFault _ sensor value _ => decide (sensor < 20) && decide (value < 2 ^ 32)
  | .vddRidgeLoss _ => true
  | .ridgeFault _ => true
  | .trussLinkFrame _ _ _ data => bytesOk data
  | .syncInEdge _ _ => true
  | .syncCommand _ at96 => decide (at96 < 2 ^ 96)
  | .syncOutPulse _ => true
  | .decimAlignment _ g => decide (g < 8)
  | .decimationBoundary _ _ c => decide (c < 64)
  | .stuckBits _ _ c => decide (c < 64)
  | .modClockMissing _ g => decide (g < 8)
  | .feedbackDisagreement _ c => decide (c < 64)
  | .modelTimeExpiry _ c => decide (c < 64)
  | .samplingClockStart _ g => decide (g < 8)
  | .feedbackRecovery _ c => decide (c < 64)
  | .settlingCleared _ _ c => decide (c < 64)
  | .bankSwapRequest _ mask => decide (mask < 2 ^ 16)
  | .arcRefTriple _ _ d => decide (d < 4)
  | .arcRefApply _ _ d => decide (d < 4)
  | .arcRefStale _ d => decide (d < 4)
  | .comparatorFire _ c k => decide (c < 64) && decide (k < 4)
  | .blankWindowOpen _ c g => decide (c < 64) && decide (g < 8)
  | .blankWindowClose _ c => decide (c < 64)
  | .fastTick _ _ => true
  | .laneWake _ _ joist lane => decide (joist < 16) && decide (lane < 8)
  | .entryExecution _ _ entry => decide (entry < 8192)
  | .compareWriter _ _ => true
  | .graphSwitchRequest _ word => decide (word < 2 ^ 16)
  | .graphSwitch _ => true
  | .resultRead _ reader j sub => decide (reader < 18) && decide (j < 512) && decide (sub < 4)
  | .resultFifoRead _ reader j sub => decide (reader < 18) && decide (j < 512) && decide (sub < 4)
  | .presetNow _ slot rec => decide (slot < 2) && decide (rec < 1024)
  | .modeForceManual _ slot rec => decide (slot < 2) && decide (rec < 1024)
  | .modeForceAutomatic _ slot rec => decide (slot < 2) && decide (rec < 1024)
  | .modeRelease _ slot rec => decide (slot < 2) && decide (rec < 1024)
  | .paramSwapRequest _ mask => decide (mask < 2 ^ 16)
  | .gfMainTick _ => true
  | .gfIdleEvaluation _ => true
  | .blackStart _ _ => true
  | .join _ => true
  | .resync _ => true
  | .abortResync _ => true
  | .stop _ => true
  | .acknowledge _ => true
  | .cancelStart _ => true
  | .coherentStart _ => true
  | .rideExit _ => true
  | .limitEntry _ => true
  | .rideTimeout _ => true
  | .blackStartTimeout _ => true
  | .resyncTimeout _ => true
  | .breakerDinChange _ din => decide (din < 2 ^ 16)
  | .breakerFail _ => true
  | .carrierVertex _ _ g => decide (g < 8)
  | .gateCommandEdge _ _ p => decide (p < 72)
  | .deadTimeExpiry _ _ p => decide (p < 72)
  | .carrierStart _ at96 => decide (at96 < 2 ^ 96)
  | .carrierGroupStart _ _ g => decide (g < 8)
  | .carrierStop _ mask => decide (mask < 2 ^ 8)
  | .updateCommit _ mask => decide (mask < 2 ^ 32)
  | .shadowWrite _ p sub value => decide (p < 72) && decide (sub < 6) && decide (value < 2 ^ 32)
  | .shadowApply _ => true
  | .faultInTrip _ n _ => decide (n < 16)
  | .releaseFaultIn _ => true
  | .releaseChordTrip _ => true
  | .disableMaskWrite _ ix value => decide (ix < 3) && decide (value < 2 ^ 32)
  | .commissionEnter _ => true
  | .commissionLeave _ => true
  | .overrideMapWrite _ map => bytesOk map
  | .debugHalt _ _ => true
  | .debugResume _ => true
  | .stackTransaction _ k _ => decide (k < 16)
  | .stretchTimeout _ k => decide (k < 16)
  | .pollTimeout _ k => decide (k < 16)
  | .stackReadDone _ k ident copyA copyB => decide (k < 16) && bytesOk ident && bytesOk copyA && bytesOk copyB
  | .flush _ k _ => decide (k < 16)
  | .rescan _ k _ => decide (k < 16)
  | .initRecord _ k => decide (k < 16)
  | .bringIn _ k leg => decide (k < 16) && decide (leg < 8)
  | .cancelBringIn _ k => decide (k < 16)
  | .lifeWriteInterval _ k => decide (k < 16)
  | .lifeWritten _ k => decide (k < 16)
  | .rainflowPosting _ => true
  | .stackHours _ k => decide (k < 16)
  | .wearEvaluation _ => true
  | .spareCrossingCheck _ k => decide (k < 16)
  | .spareSwapTimeout _ k => decide (k < 16)
  | .heartbeat _ _ path seq _ => decide (path < 2) && decide (seq < 2 ^ 16)
  | .heartbeatMissing _ _ path => decide (path < 2)
  | .signatureCompare _ _ _ => true
  | .mismatchResolution _ failsA failsB => lanesOk failsA && lanesOk failsB
  | .mirrorFrame _ _ => true
  | .sideJoined _ _ => true
  | .reinitAttemptFailed _ _ => true
  | .reinitRetry _ _ => true
  | .handover _ => true
  | .handoverExecute _ => true
  | .restore _ _ => true
  | .powerDown _ _ => true
  | .powerUp _ _ => true
  | .doutRequest _ _ => true
  | .kerfWindowClose _ => true
  | .laneTest _ _ joist lane _ => decide (joist < 16) && decide (lane < 9)
  | .eccError _ _ _ _ addr => decide (addr < 2 ^ 32)
  | .pllFreqCheck _ p _ => decide (p < 5)
  | .badHoldExpiry _ _ => true
  | .safetyChannelFault _ => true
  | .sealReadingAccepted _ n _ _ _ => decide (n < 8)
  | .sinFilterExpiry _ ball _ _ chans => decide (ball < 8) && decide (1 ≤ chans) && decide (chans ≤ 3)
  | .sinDiscrepancy _ n => decide (n < 4)
  | .soutRequestWrite _ value => decide (value < 2 ^ 8)
  | .soutTestPulse _ ball => decide (ball < 8)
  | .soutTestEnd _ ball _ _ => decide (ball < 8)
  | .soutStuckOn _ ball _ _ => decide (ball < 8)
  | .safetyReset _ _ => true
  | .resetStuck _ => true
  | .resetDiscrepancy _ => true
  | .resetBlockEnd _ => true
  | .arbiterRequest _ r inst unit _ _ held addr _ => decide (r < 8) && decide (inst < resInstances r) && decide (unit < 6) &&
    decide (addr < 2 ^ 32) && (decide (2 ≤ unit) || held == 0)
  | .semaphoreRequest _ n cls _ _ => decide (n < 32) && decide (cls < 6)
  | .semaphoreRelease _ n cls _ => decide (n < 32) && decide (cls < 6)
  | .semaphoreLeaseExpired _ n => decide (n < 32)
  | .incrementWrite _ value => decide (value < 2 ^ 64)
  | .timeSet _ at96 => decide (at96 < 2 ^ 96)
  | .timeAdjust _ off => decide (off < 2 ^ 64)
  | .timeStep _ => true
  | .ptpSyncReceived _ port _ domain t1 t2 corr gm => decide (port < 2) && decide (domain < 2 ^ 8) && decide (t1 < 2 ^ 96) && decide (t2 < 2 ^ 96) &&
    decide (corr < 2 ^ 64) && decide (gm < 2 ^ 64)
  | .pathDelayMeasurement _ port d => decide (port < 2) && decide (d < 2 ^ 64)
  | .pathConfirm _ port value => decide (port < 2) && decide (value < 2 ^ 32)
  | .ptpAnnounceReceived _ port _ domain gm p1 cls acc var p2 steps sender => decide (port < 2) && decide (domain < 2 ^ 8) && decide (gm < 2 ^ 64) && decide (p1 < 2 ^ 8) &&
    decide (cls < 2 ^ 8) && decide (acc < 2 ^ 8) && decide (var < 2 ^ 16) && decide (p2 < 2 ^ 8) && decide (steps < 2 ^ 16) && decide (sender < 2 ^ 64)
  | .announceTimeout _ port => decide (port < 2)
  | .holdoverValidExpiry _ => true
  | .ppsInEdge _ stamp => decide (stamp < 2 ^ 96)
  | .ppsInTimeout _ => true
  | .ptpSyncSend _ port => decide (port < 2)
  | .ppsOutPulse _ => true
  | .leapSecond _ => true
  | .refFault _ _ _ _ => true
  | .refSwitchCommand _ value => decide (value < 2 ^ 8)
  | .refDisagree _ diff => decide (diff < 2 ^ 32)
  | .pllStart _ p => decide (p < 5)
  | .pllLock _ p => decide (p < 5)
  | .pllRetryBand _ p => decide (p < 5)
  | .pllSweep _ p => decide (p < 5)
  | .pllSweepDone _ p table => decide (p < 5) && bytesOk table
  | .pllLockLost _ p _ => decide (p < 5)
  | .clkoutStart _ word => decide (word < 2 ^ 16)
  | .clkoutStop _ word => decide (word < 2 ^ 16)
  | .clkoutGateOpen _ k => decide (k < 8)
  | .clkoutGateClose _ k => decide (k < 8)
  | .trussClockSwitch _ _ => true
  | .switchDeferred _ _ => true
  | .arm _ mask session => decide (mask < 2 ^ 8) && decide (session < 18)
  | .disarm _ mask => decide (mask < 2 ^ 8)
  | .trigger _ mask => decide (mask < 2 ^ 8)
  | .release _ seg => decide (seg < 4096)
  | .captureRow _ _ k stamp fill => decide (k < 8) && decide (stamp < 2 ^ 96) && decide (fill < 2 ^ 17)
  | .streamBacklogHalving _ k => decide (k < 8)
  | .captureStreamSend _ k => decide (k < 8)
  | .segmentHoldExpiry _ _ seg => decide (seg < 4096)
  | .segmentSelect _ reader value => decide (reader < 18) && decide (value < 2 ^ 16)
  | .segmentRowsRead _ reader => decide (reader < 18)
  | .hoursSeed _ value => decide (value < 2 ^ 32)
  | .powerCycleSeed _ value => decide (value < 2 ^ 32)
  | .operatingHoursTick _ => true
  | .histogramSample _ q => decide (q < 64)
  | .histogramClear _ mask => decide (mask < 2 ^ 64)
  | .scribeNote _ note => bytesOk note
  | .scribeTokenRefill _ bucket => decide (bucket < 257)
  | .scribeRecordsRead _ reader => decide (reader < 18)
  | .compatRecordsRead _ reader => decide (reader < 18)
  | .startCounters _ banks => decide (banks < 8)
  | .stopCounters _ banks => decide (banks < 8)
  | .clearCounters _ banks => decide (banks < 8)
  | .counterWrite _ ix value => decide (ix < 112) && decide (value < 2 ^ 32)
  | .counterReadLatch _ reader ix => decide (reader < 18) && decide (ix < 112)
  | .counterOverflow _ ix _ => decide (ix < 112)
  | .tagRecord _ _ joist _ => decide (joist < 16)
  | .tagRecordsRead _ reader _ => decide (reader < 18)
  | .frameReceived _ port frame => decide (port < 2) && frame.wf
  | .arpRequest _ port target => decide (port < 2) && decide (target < 2 ^ 32)
  | .icmpEcho _ port target => decide (port < 2) && decide (target < 2 ^ 32)
  | .supervisionFrameSend _ => true
  | .lanFault _ port => decide (port < 2)
  | .ringFault _ port => decide (port < 2)
  | .portLinkChange _ port _ => decide (port < 2)
  | .identify _ msg => msg.wf
  | .keyLoad _ msg => msg.wf
  | .openSession _ msg => msg.wf
  | .closeSession _ msg => msg.wf
  | .readObjects _ msg => msg.wf
  | .writeObjects _ msg => msg.wf
  | .keepalive _ msg => msg.wf
  | .sourceBlockEnd _ ip => decide (ip < 2 ^ 32)
  | .sessionIdleTimeout _ sid => decide (sid < 17)
  | .bootSend _ len msg => decide (len < 2 ^ 16) && msg.wf
  | .bootFetch _ => true
  | .bootStatus _ => true
  | .beginSet _ reader setId => decide (reader < 18) && decide (setId < 2 ^ 32)
  | .commitSet _ reader => decide (reader < 18)
  | .abortSet _ reader => decide (reader < 18)
  | .commitComplete _ => true
  | .setIdleTimeout _ => true
  | .configObjectWrite _ reader obj data => decide (reader < 18) && decide (obj < 2 ^ 24) && bytesOk data
  | .objectWrite _ reader obj data => decide (reader < 18) && decide (obj < 2 ^ 24) && bytesOk data
  | .segmentedWriteTimeout _ reader obj => decide (reader < 18) && decide (obj < 2 ^ 24)
  | .snapshotTimeout _ reader obj => decide (reader < 18) && decide (obj < 2 ^ 24)
  | .pendingClear _ data => bytesOk data
  | .countClear _ data => bytesOk data
  | .notifyHoldoffExpiry _ reader => decide (reader < 18)
  | .samplingEdge _ g bitsA bitsB bitsR => decide (g < 8) && decide (bitsA < 2 ^ 9) && decide (bitsB < 2 ^ 9) && decide (bitsR < 2 ^ 9)
  | .plateMinOnExpiry _ p => decide (p < 72)
  | .sensorUpdate _ sensor value => decide (sensor < 48) && decide (value < 2 ^ 32)
  | .ptpDelayRequestSend _ port => decide (port < 2)
  | .ptpAnnounceSend _ port => decide (port < 2)

end Sys2Proof
end

