-- ==== Sys2Proof/Machine/Ops.lean ====
section
/-!
DEFINITION. The named operations on the state: sparse stores, objects and their fields, TIME96, elapsed time, and the status words
that many rules read (side states, boot stage, grid-forming state).
-/
namespace Sys2Proof.Machine

/-! ### Sparse stores -/

/-- The entry of a key, if listed. -/
def Store.find {α : Type} (k : Nat) : Store α → Option α
  | [] => none
  | (k', v) :: l => if k' = k then some v else Store.find k l

/-- What a store holds at a key: the listed entry, else the default. -/
def Store.get {α : Type} (d : α) (k : Nat) (l : Store α) : α := (Store.find k l).getD d

/-- An entry inserted before the first greater key. -/
def Store.ins {α : Type} (k : Nat) (v : α) : Store α → Store α
  | [] => [(k, v)]
  | (k', v') :: l => if k < k' then (k, v) :: (k', v') :: l else (k', v') :: Store.ins k v l

/-- A store with one key set: in key order, the entry dropped where the value is the default. -/
def Store.put {α : Type} [DecidableEq α] (d : α) (k : Nat) (v : α) (l : Store α) : Store α :=
  let r := l.filter (fun e => e.1 != k)
  if v = d then r else Store.ins k v r

/-- A store with the entry of a key changed by a function. -/
def Store.mod {α : Type} [DecidableEq α] (d : α) (k : Nat) (f : α → α) (l : Store α) : Store α :=
  Store.put d k (f (Store.get d k l)) l

/-- The canonical form of a store: keys strictly rising and no entry equal to the default of its key. -/
def Store.wf {α : Type} [DecidableEq α] (d : Nat → α) : Store α → Bool
  | [] => true
  | [(k, v)] => decide (v ≠ d k)
  | (k, v) :: (k', v') :: l => decide (v ≠ d k) && decide (k < k') && Store.wf d ((k', v') :: l)

/-- A function applied `n` times with the index, rising. -/
def forN {α : Type} (n : Nat) (f : Nat → α → α) (a : α) : α := (List.range n).foldl (fun a i => f i a) a

/-- A function applied over the set bits of a mask, rising. -/
def forMask {α : Type} (n m : Nat) (f : Nat → α → α) (a : α) : α := (maskList n m).foldl (fun a i => f i a) a

/-- Apply where a condition holds. -/
def ifS {α : Type} (b : Bool) (f : α → α) (a : α) : α := if b then f a else a

/-! ### Objects (R421, R422) -/

/-- The value an object holds. -/
def State.val (s : State) (k : Nat) : Val := (Store.find k s.od).getD (objDefault k)

/-- The number that a value is, and its bytes. -/
def Val.asNum : Val → Nat
  | .num n => n
  | .blob _ => 0
def Val.asBlob : Val → List Nat
  | .num _ => []
  | .blob b => b

/-- The number an object holds. -/
def State.num (s : State) (i j : Nat) : Nat := (s.val (i * 256 + j)).asNum

/-- The bytes an object holds. -/
def State.blob (s : State) (i j : Nat) : List Nat := (s.val (i * 256 + j)).asBlob

/-- An object given a value. -/
def State.putVal (s : State) (k : Nat) (v : Val) : State := { s with od := Store.put (objDefault k) k v s.od }

/-- The bytes of an object's type (Table 16.1), 0 for a BLOB. -/
def sizeOf (i j : Nat) : Nat :=
  match rowOf (i * 256 + j) with
  | some r => r.size
  | none => 0

/-- An object given a number, cut to its width. -/
def State.setNum (s : State) (i j v : Nat) : State := s.putVal (i * 256 + j) (.num (v % 2 ^ (8 * sizeOf i j)))

/-- An object given bytes. -/
def State.setBlob (s : State) (i j : Nat) (b : List Nat) : State := s.putVal (i * 256 + j) (.blob b)

/-- Field [hi:lo] of an object. -/
def State.fld (s : State) (i j hi lo : Nat) : Nat := bits (s.num i j) hi lo

/-- Field [hi:lo] of an object set. -/
def State.setFld (s : State) (i j hi lo v : Nat) : State := s.setNum i j (setBits (s.num i j) hi lo v)

/-- Bit of an object. -/
def State.bit (s : State) (i j n : Nat) : Bool := (s.num i j).testBit n

/-- The flags of an object that were set in the present ridge clock. -/
def State.freshOf (s : State) (k : Nat) : Nat := Store.get 0 k s.fresh

/-- A flag set in the present ridge clock is noted: a clear in the same clock leaves it set (R12). -/
def State.noteFresh (s : State) (k n : Nat) (b : Bool) : State :=
  { s with fresh := if b then Store.put 0 k (setBit (s.freshOf k) n true) s.fresh else s.fresh }

/-- Flags of an object set in the present ridge clock, by their mask. -/
def State.noteFlags (s : State) (k m : Nat) : State := { s with fresh := Store.put 0 k (s.freshOf k ||| m) s.fresh }

/-- Bit of an object set; a bit that becomes 1 is noted as set in this clock. -/
def State.setBitO (s : State) (i j n : Nat) (b : Bool) : State :=
  (s.setNum i j (setBit (s.num i j) n b)).noteFresh (i * 256 + j) n b

/-- Bits set where a condition holds, of `n`. -/
def maskOf (n : Nat) (f : Nat → Bool) : Nat := forN n (fun i m => if f i then m + 2 ^ i else m) 0

/-- A list in rising order of a key, equal keys in their order. -/
def insertOn {α : Type} (f : α → Nat) (a : α) : List α → List α
  | [] => [a]
  | b :: l => if f a < f b then a :: b :: l else b :: insertOn f a l
def sortOn {α : Type} (f : α → Nat) (l : List α) : List α := l.foldl (fun acc a => insertOn f a acc) []

/-- A counter object that saturates at its width. -/
def State.incSat (s : State) (i j : Nat) : State := s.setNum i j (satInc (8 * sizeOf i j) (s.num i j))

/-- A counter object that wraps. -/
def State.incWrap (s : State) (i j : Nat) : State := s.setNum i j (s.num i j + 1)

/-- A free value of the model: the counter that the next free value is taken at is advanced (log entry 5). -/
def State.nextFree (s : State) : State := { s with freeCount := s.freeCount + 1 }

/-! ### Time (R8, R339) -/

/-- The period of the 25 MHz reference in femtoseconds. -/
def tickFs : Nat := 40000000

/-- One nanosecond of ridge time, in 2^-32 ns. -/
def nsR : Nat := 2 ^ 32

/-- Nanoseconds as ridge time. -/
def rns (n : Nat) : Nat := n * nsR

/-- Microseconds, milliseconds and seconds as femtoseconds. -/
def usFs (n : Nat) : Nat := n * 1000000000
def msFs (n : Nat) : Nat := n * 1000000000000
def secFs (n : Nat) : Nat := n * 1000000000000000
def nsFs (n : Nat) : Nat := n * 1000000

/-- TIME96 of a ridge time (R8): the lower 16 fraction bits dropped (R339). -/
def toT96 (r : Nat) : Nat :=
  let ns := r / nsR
  ((ns / 1000000000) % 2 ^ 48) <<< 48 ||| (ns % 1000000000) <<< 16 ||| (r / 2 ^ 16) % 2 ^ 16

/-- Ridge time of a TIME96. DESIGN CHOICE (log entry 8): a nanoseconds field above 999 999 999, which R8 does not allow and for which it
states nothing, carries its excess into the seconds. -/
def ofT96 (v : Nat) : Nat := (bits v 95 48 * 1000000000 + bits v 47 16) * nsR + bits v 15 0 * 2 ^ 16

/-- Seconds and nanoseconds of a ridge time. -/
def rSecs (r : Nat) : Nat := r / nsR / 1000000000
def rNs (r : Nat) : Nat := (r / nsR) % 1000000000

/-- The application time the ridge stamps at a receipt: receipt + 2000 ns. -/
def State.appTime (s : State) : Nat := s.ridge + rns 2000

/-- The ridge ticks elapsed since power good. -/
def State.ticks (s : State) : Nat := s.now / tickFs

/-- Time runs to an instant: ridge time gains Increment at each reference tick passed (R339), and the ridge's clocks are these ticks: flags
set before the last of them are no longer new (R12). -/
def State.advance (s : State) (t : Nat) : State :=
  let now' := max s.now t
  let n := now' / tickFs - s.now / tickFs
  { s with now := now', ridge := s.ridge + n * s.num 0x7000 2, fresh := if n = 0 then s.fresh else [] }

/-- A sill clock in femtoseconds (R362). -/
def clockFs : Nat := 2500000

/-- Ridge time interpolated between two ticks, to the clock of 400 MHz: sixteen of these make a reference period. -/
def State.ridgeFine (s : State) : Nat := s.ridge + s.now % tickFs / clockFs * s.num 0x7000 2 / 16

/-- The instant of the first clock of period `p`, the sills' or the ridge's, at or after a ridge time, on the clocks of the present tick. -/
def State.firstClock (s : State) (p r : Nat) : Nat :=
  let inc : Int := ((max 1 (s.num 0x7000 2) : Nat) : Int)
  let d : Int := (r : Int) - (s.ridge : Int)
  let rest := d - d / inc * inc
  let steps : Int := if p = tickFs then (if rest = 0 then 0 else 16) else -((-(rest * 16)) / inc)
  ((((s.now / tickFs : Nat) : Int) + d / inc) * tickFs + steps * clockFs).toNat

/-- The ridge time of the first sill clock at or after a ridge time (R75), on the clocks of the present tick. -/
def State.toSillClock (s : State) (r : Nat) : Nat :=
  let inc : Int := ((max 1 (s.num 0x7000 2) : Nat) : Int)
  let n : Int := -(((s.ridge : Int) - (r : Int)) * 16 / inc)
  ((s.ridge : Int) + n * inc / 16).toNat

/-! ### Status words that many rules read -/

/-- The firmware serves the host: FW_START is reached and the island is not restarting (R453, R470). -/
def hostOk (s : State) : Bool := s.boot.serving && !s.boot.islandDown

/-- The index of a side: 0 A, 1 B (R482). -/
def sideIx : Side → Nat
  | .A => 0
  | .B => 1

/-- The other side. -/
def otherSide : Side → Side
  | .A => .B
  | .B => .A

/-- The side of an index. -/
def sideOf (n : Nat) : Side := if n = 0 then .A else .B

/-- The boot stage (Table 17.1). -/
def State.stage (s : State) : Nat := s.fld 0xB000 1 31 28

/-- The device is in READY. -/
def State.ready (s : State) : Bool := s.stage == 8

/-- The grid-forming state (Table 06.4). -/
def State.gfState (s : State) : Nat := s.fld 0x4001 3 3 0

/-- The grid-forming state is STANDBY or SAFE_STOP. -/
def State.stopped (s : State) : Bool := s.gfState == 0 || s.gfState == 6

/-- The state of a side (Table 09.1). -/
def State.sideState (s : State) : Side → Nat
  | .A => s.fld 0x6021 1 31 28
  | .B => s.fld 0x6021 1 27 24

/-- The state of a side set. -/
def State.setSideState (s : State) (x : Side) (v : Nat) : State :=
  match x with
  | .A => s.setFld 0x6021 1 31 28 v
  | .B => s.setFld 0x6021 1 27 24 v

/-- A side in service: IN_CONTROL or RESERVE (R262). -/
def State.inService (s : State) (x : Side) : Bool := s.sideState x == 1 || s.sideState x == 2

/-- A side is powered: not OFF. -/
def State.powered (s : State) (x : Side) : Bool := s.sideState x != 0

/-- The side IN_CONTROL, if any. -/
def State.control (s : State) : Option Side :=
  if s.sideState .A == 1 then some .A else if s.sideState .B == 1 then some .B else none

/-- The side whose sill and truss serve the shared objects: the one IN_CONTROL (R137), A while none is. -/
def State.reporter (s : State) : Side := s.control.getD .A

/-- A side serves the shared objects. -/
def State.reports (s : State) (x : Side) : Bool := s.reporter == x

/-- A side computes: its sill and truss are in service, or SUSPECT (Table 09.1). -/
def State.feeds (s : State) (x : Side) : Bool := s.sideState x == 1 || s.sideState x == 2 || s.sideState x == 3

/-- A PLL is locked (Table 13.9). -/
def pllLocked (s : State) (p : Nat) : Bool := s.bit (0x7100 + p) 3 15

/-- A PLL is powered off. -/
def pllOff (p : Nat) (s : State) : State :=
  ((s.setBitO (0x7100 + p) 3 15 false).setBitO (0x7100 + p) 3 14 false).setBitO (0x7100 + p) 3 13 false

/-- The sill port x is served before READY: its side's rails are present and its PLL_SILL is locked (R453, R491). -/
def bootPortServed (s : State) (x : Nat) : Bool := (if x = 0 then s.boot.railsA else s.boot.railsB) && pllLocked s (3 + x)


/-- Port x is served: before READY with its sill (R453), in READY while its side is neither FAILED, REINIT nor OFF (R278). -/
def portServed (s : State) (x : Nat) : Bool := if s.ready then s.feeds (sideOf x) else bootPortServed s x

/-- A port is served, so that a frame can leave (R278). -/
def anyPort (s : State) : Bool := portServed s 0 || portServed s 1

/-- What frames a frame on a port: the VLAN tag with a priority, 0 where VlanId is 0 (R433); the redundancy sequence number, RedMode, and
the LanId, A on port X and B on port Y (R438, R439). -/
def frameTag (s : State) (pcp port : Nat) : List Nat :=
  let vid := s.fld 0x1010 5 27 16
  beBytes 2 (if vid = 0 then 0 else pcp <<< 13 ||| vid) ++ beBytes 2 s.net.redSeq ++ [s.num 0x1020 1, 0xA + port]

/-- The profile in effect (Table 01.6). -/
def State.profile (s : State) : Nat := s.fld 0x6000 2 2 0

/-- A trip or demand that holds every gate ball in high impedance is latched (R226). -/
def State.tripped (s : State) : Bool := s.meas.chordTrip || s.num 0x5310 3 != 0

/-- DemandLatched of the safety logic (Table 10.7). -/
def State.demandLatched (s : State) : Bool := s.bit 0x6800 2 29

/-- The reading in use of permission switch n, 5 to 7 (Table 10.1, R293): the accepted one, or the table's on a seal fault. -/
def State.permission (s : State) (n : Nat) : Bool :=
  if s.safety.permFault.testBit n then n == 5 else s.safety.accepted.testBit n

/-- The plate is in COMMISSIONING (Table 07.13). -/
def State.commissioning (s : State) : Bool := s.bit 0x5300 4 13

/-- The records of a side. -/
def State.sideRt (s : State) : Side → SideRt
  | .A => s.sides.a
  | .B => s.sides.b
def State.setSideRt (s : State) (x : Side) (v : SideRt) : State :=
  match x with
  | .A => { s with sides := { s.sides with a := v } }
  | .B => { s with sides := { s.sides with b := v } }
def State.graph (s : State) : Side → Graph
  | .A => s.graphs.a
  | .B => s.graphs.b
def State.setGraph (s : State) (x : Side) (v : Graph) : State :=
  match x with
  | .A => { s with graphs := { s.graphs with a := v } }
  | .B => { s with graphs := { s.graphs with b := v } }
def State.sill (s : State) : Side → Sill
  | .A => s.plate.a
  | .B => s.plate.b
def State.setSill (s : State) (x : Side) (v : Sill) : State :=
  match x with
  | .A => { s with plate := { s.plate with a := v } }
  | .B => { s with plate := { s.plate with b := v } }

/-- What a command emits. -/
def State.emit (s : State) (kind dest : Nat) (data : List Nat) : State := { s with out := s.out ++ [⟨kind, dest, data⟩] }

end Sys2Proof.Machine
end

