-- ==== Sys2Proof/Machine/Events.lean ====
section
/-!
DEFINITION. Event occurrences (R446 to R448, R482), the scribe's records and their rate limits (R403 to R408), and the line EVT_N.
-/
namespace Sys2Proof.Machine

/-- The reader of an open session: the boot port is one reader (R441), every other session its own. -/
def readerOf (sid : Nat) (ses : Session) : Nat := if ses.path = 1 then 0 else sid

/-- A reader's records. -/
def State.reader (s : State) (r : Nat) : Reader := Store.get Reader.init r s.net.readers
def State.setReader (s : State) (r : Nat) (v : Reader) : State :=
  { s with net := { s.net with readers := Store.put Reader.init r v s.net.readers } }

/-- The value a reader holds of a per-reader object (R423). -/
def Reader.val (r : Reader) (i j : Nat) : Nat := Store.get 0 (i * 256 + j) r.vals
def Reader.setVal (r : Reader) (i j v : Nat) : Reader := { r with vals := Store.put 0 (i * 256 + j) v r.vals }

/-- The NOTIFY entry of an event counts an occurrence; the first unreported one starts the holdoff (R448). -/
def noteOne (s : State) (e : Nat) (r : Reader) : Reader :=
  let add := fun (n : Note) => if n.ev = e then { n with since := satInc 16 n.since } else n
  let notes := if r.notes.any (fun n => n.ev == e) then r.notes.map add else r.notes ++ [⟨e, 1, s.ridge⟩]
  { r with notes := notes, holdoff := match r.holdoff with
      | none => some (s.now + msFs (s.num 0x1200 5))
      | h => h }

/-- Every subscribed session notes an occurrence whose NotifyRoute bit is set (R448). -/
def State.notifyAll (s : State) (e : Nat) : State :=
  if blobBit (s.blob 0x1200 3) e then
    s.net.sessions.foldl (fun s p =>
      let r := readerOf p.1 p.2
      if (s.reader r).val 0x1040 2 = 1 then s.setReader r (noteOne s e (s.reader r)) else s) s
  else s

/-- The 24 bytes of LastOccurrence of an event. -/
def lastOccBytes (s : State) (p0 p1 p2 : Nat) : List Nat :=
  beBytes 12 (toT96 s.ridge) ++ beBytes 4 p0 ++ beBytes 4 p1 ++ beBytes 4 p2

/-- A byte string with the bytes from an offset replaced. -/
def patch (b : List Nat) (off : Nat) (d : List Nat) : List Nat := b.take off ++ d ++ b.drop (off + d.length)

/-! ### Performance counters (R410 to R412) -/

/-- Counter i, 0 to 47 of side A, 48 to 95 of side B, 96 to 111 of the ridge (Table 15.12): its record, and its bank. -/
def ctrIx (i : Nat) : Nat := 0x8300 + i
def ctrBank (i : Nat) : Nat := min 2 (i / 48)

/-- Counter i is odd and counts the carries of the counter below it (R411). -/
def ctrChained (s : State) (i : Nat) : Bool := i % 2 == 1 && s.bit (ctrIx i) 1 30

/-- A counter gains `n` (R410): it wraps, and a wrap sets Overflow and, with OvfEvent, EV_218 at the end of the command. -/
def ctrAdd (i n : Nat) (s : State) : State :=
  let v := s.num (ctrIx i) 5 + n
  let s := s.setNum (ctrIx i) 5 v
  if v < 2 ^ 32 then s
  else
    let s := s.setBitO (ctrIx i) 8 0 true
    if s.bit (ctrIx i) 1 29 then { s with scribe := { s.scribe with ovf := s.scribe.ovf ++ [i] } } else s

/-- A counter gains `n`, and the odd one that chains on it the carries (R411). -/
def ctrBump (i n : Nat) (s : State) : State :=
  let c := (s.num (ctrIx i) 5 + n) / 2 ^ 32
  let s := ctrAdd i n s
  if i % 2 = 0 && c ≠ 0 && ctrChained s (i + 1) && s.scribe.running.contains (i + 1) then ctrAdd (i + 1) c s else s

/-- The element class of a type (Table 15.9). -/
def elemClass (e : Nat) : Nat :=
  if e ≤ 0x0A then 1 else if e ≤ 0x11 then 2 else if e ≤ 0x19 then 3 else if e ≤ 0x25 then 4 else if e ≤ 0x27 then 5
  else if e ≤ 0x2B then 6 else if e ≤ 0x2D then 7 else 8

/-- The element class filter (R412): ExactType and ElementSelect. -/
def elemPasses (exact : Bool) (sel e : Nat) : Bool := sel == 0 || (if exact then sel == e else sel == elemClass e)

/-- `n` occurrences of a counter event on a bank (R410), at the counters whose filters pass them. -/
def countIf (bank ev n : Nat) (pass : State → Nat → Bool) (s : State) : State :=
  s.scribe.running.foldl (fun s i =>
    if decide (i < 112) && ev != 0 && ctrBank i == bank && s.fld (ctrIx i) 1 7 0 == ev && !ctrChained s i && pass s i then ctrBump i n s else s) s

/-- Occurrences of an element type, 0 where the event has none. -/
def countEvent (bank ev n e : Nat) (s : State) : State :=
  countIf bank ev n (fun s i => e == 0 || elemPasses (s.bit (ctrIx i) 1 23) (s.fld (ctrIx i) 1 22 16) e) s

/-- The privilege of a class, as its bit of Privilege (R412). -/
def privBit (cls : Nat) : Nat := if cls ≤ 2 then 27 else 29 - cls

/-- The address filter (R412): a byte address within AddrLow to AddrHigh. -/
def addrPasses (s : State) (i addr : Nat) : Bool := decide (s.num (ctrIx i) 3 ≤ addr) && decide (addr ≤ s.num (ctrIx i) 4)

/-- RequesterFilter after power-up, which passes everything (R412). -/
def anyRequester : Nat := 0x3F1F

/-- Occurrences by a requester (R412): the privilege and requester filters, and the address filter where Table 15.8 gives the event one. -/
def countReq (bank ev n cls who : Nat) (addr : Option Nat) (s : State) : State :=
  countIf bank ev n (fun s i =>
    s.bit (ctrIx i) 1 (privBit cls) && (s.num (ctrIx i) 2 == anyRequester
        || (s.bit (ctrIx i) 2 (8 + cls) && (!s.bit (ctrIx i) 2 4 || s.fld (ctrIx i) 2 3 0 == who / 2)))
      && addr.all (addrPasses s i)) s

/-- A transaction of the stack link by a class (event 0x45): the privilege filter alone. -/
def countLink (cls : Nat) (s : State) : State := countIf 2 0x45 1 (fun s i => s.bit (ctrIx i) 1 (privBit cls)) s

/-! ### Capture triggers (R383, R384) and occurrences -/

/-- A plan's engine in the sill of a side (R376). -/
def State.engine (s : State) (x : Side) (k : Nat) : Engine := Store.get Engine.init (8 * sideIx x + k) s.capture.engines
def State.setEngine (s : State) (x : Side) (k : Nat) (v : Engine) : State :=
  { s with capture := { s.capture with engines := Store.put Engine.init (8 * sideIx x + k) v s.capture.engines } }

/-- A trigger of plan k is missed (R384): TriggersMissed; EV_213 follows at the end of the command. -/
def missTrigger (k : Nat) (s : State) : State :=
  let s := s.incSat (0x8010 + k) 0xD
  { s with capture := { s.capture with missed := s.capture.missed ++ [k] } }

/-- A trigger of plan k stamped `t` (R383, R384): it waits in each sill whose segment is armed and not past its trigger, and is missed
where the sill that serves the shared objects has none. -/
def pushTrigger (k t : Nat) (s : State) : State :=
  [Side.A, Side.B].foldl (fun s x =>
    let v := s.engine x k
    if v.seg.isSome && !v.past then s.setEngine x k { v with trigs := v.trigs ++ [t] }
    else if s.reports x then missTrigger k s else s) s

/-- An occurrence is delivered to the plans of Kind EVENT that name it (R383). -/
def captureEvents (e : Nat) (s : State) : State :=
  forN 8 (fun k s =>
    let c := s.num (0x8010 + k) 6
    if s.bit (0x8010 + k) 1 31 && bits c 31 29 == 2 && bits c 7 0 == e then pushTrigger k s.ridge s else s) s

/-- An occurrence of an event (R446): Pending, its count, its last occurrence, the NOTIFY entries and the capture triggers. -/
def State.occur (s : State) (e p0 p1 p2 : Nat) : State :=
  let s := (s.setBlob 0x1200 1 (blobSetBit (s.blob 0x1200 1) e true)).noteFresh 0x120001 e true
  let cnt := s.blob 0x1200 2
  let s := s.setBlob 0x1200 2 (patch cnt (2 * e) (beBytes 2 (satInc 16 (field cnt (2 * e) 2))))
  let s := s.setBlob 0x1200 7 (patch (s.blob 0x1200 7) (24 * e) (lastOccBytes s p0 p1 p2))
  countEvent 2 0x46 1 0 (captureEvents e (s.notifyAll e))

/-- The flags of a scribe record (Table 15.3). -/
def recFlags (s : State) (origin dropped : Nat) : Nat :=
  origin <<< 6 ||| (if s.bit 0x8100 3 15 then 0 else 0x20) ||| (if s.bit 0x7000 5 31 || s.bit 0x7000 5 7 then 0 else 0x10) |||
    dropped % 16

/-- The lap of a record number and its mark (R404). -/
def recLap (m : Nat) : Nat := m / 16384
def recMark (m : Nat) : Nat := 0x80 + recLap m % 128

/-- A record takes its place among those of its own ridge clock, of which the last stands at number m − 1, in ascending code order (R404):
the later ones move up, each with the mark of its number. -/
def sinkRecord : Nat → List Nat → Store (List Nat) → Store (List Nat)
  | 0, r, ring => Store.put [] 0 (patch r 3 [recMark 0]) ring
  | m + 1, r, ring =>
    let q := Store.get [] (m % 16384) ring
    if slice q 12 8 = slice r 12 8 && decide (field r 0 2 < field q 0 2) then
      sinkRecord m r (Store.put [] ((m + 1) % 16384) (patch q 3 [recMark (m + 1)]) ring)
    else Store.put [] ((m + 1) % 16384) (patch r 3 [recMark (m + 1)]) ring

/-- A record written to the ring (R404, R405); the first overwrite of a lap raises EV_215. -/
def State.writeRecord (s : State) (code origin dropped p0 p1 p2 : Nat) : State :=
  let m := s.num 0x8100 4
  let r := beBytes 2 code ++ [recFlags s origin dropped, recMark m] ++ beBytes 4 (s.num 0x8100 9) ++ beBytes 4 (s.num 0x8100 0xA)
    ++ beBytes 4 (rSecs s.ridge % 2 ^ 32) ++ beBytes 4 (rNs s.ridge) ++ beBytes 4 p0 ++ beBytes 4 p1 ++ beBytes 4 p2
  let s := { s with scribe := { s.scribe with ring := sinkRecord m r s.scribe.ring } }
  let s := countEvent 2 0x48 1 0 ((s.incWrap 0x8100 4).setNum 0xF000 1 (m + 1))
  if 16384 ≤ m && m % 16384 = 0 then s.occur 215 (recLap m) 0 0 else s

/-- The token bucket of a record code: its key, its Capacity and its RefillMs (R407); host notes share bucket 256. -/
def bucketOf (s : State) (code : Nat) : Nat × Nat × Nat :=
  if code < 256 then (code, field (s.blob 0x8101 1) (4 * code) 1, field (s.blob 0x8101 1) (4 * code + 2) 2)
  else (256, s.fld 0x8100 0xC 31 24, s.fld 0x8100 0xC 15 0)

/-- A record that falls due takes a token and is written, or is dropped (R407). Codes 0x0100 to 0x01FF are not limited. -/
def State.record (s : State) (code origin p0 p1 p2 : Nat) : State :=
  let (key, cap, refill) := bucketOf s code
  let b := Store.get Bucket.init key s.scribe.buckets
  let d := Store.get Bucket.init (0x10000 + code) s.scribe.buckets
  if (256 ≤ code && code < 512) || refill = 0 then
    let s := { s with scribe := { s.scribe with buckets := Store.put Bucket.init (0x10000 + code) Bucket.init s.scribe.buckets } }
    s.writeRecord code origin d.drops p0 p1 p2
  else if b.used < cap then
    let b' : Bucket := ⟨b.used + 1, if b.used = 0 then s.now else b.since, 0⟩
    let bs := Store.put Bucket.init (0x10000 + code) Bucket.init (Store.put Bucket.init key b' s.scribe.buckets)
    let s := { s with scribe := { s.scribe with buckets := bs } }
    s.writeRecord code origin d.drops p0 p1 p2
  else
    let s := countEvent 2 0x49 1 0 ((s.incSat 0x8100 8).setBitO 0x8100 3 0 true)
    let bs := Store.put Bucket.init (0x10000 + code) ⟨0, 0, min 15 (d.drops + 1)⟩ s.scribe.buckets
    let s := { s with scribe := { s.scribe with buckets := bs } }
    if d.drops = 0 then s.occur 214 code 0 0 else s

/-- An event is raised (R446): it occurs, and is recorded where ScribeRoute selects it; EV_214 to EV_219 are never recorded (R403). -/
def State.raise (s : State) (e : Nat) (p0 : Nat := 0) (p1 : Nat := 0) (p2 : Nat := 0) : State :=
  let s := s.occur e p0 p1 p2
  if blobBit (s.blob 0x8100 7) e && !(decide (214 ≤ e) && decide (e ≤ 219)) then s.record e 0 p0 p1 p2 else s

/-- EV_213 for each trigger missed in this command (R384) and EV_218 for each counter that overflowed in it (R410). What these
occurrences themselves miss or overflow is shown by TriggersMissed and Overflow only (log entry 17). -/
def State.reportLate (s : State) : State :=
  let l := s.capture.missed
  let o := s.scribe.ovf
  let s := l.foldl (fun s k => s.raise 213 k) s
  let s := o.foldl (fun s i => s.raise 218 (ctrBank i) (i - 48 * ctrBank i)) s
  { s with capture := { s.capture with missed := [] }, scribe := { s.scribe with ovf := [] } }

/-- A note of management firmware (Table 15.4). -/
def State.fwNote (s : State) (code : Nat) (p0 : Nat := 0) (p1 : Nat := 0) (p2 : Nat := 0) : State := s.record code 1 p0 p1 p2

/-- Some event has both its Pending and its EvtRoute bit set. -/
def evtCond (s : State) : Bool :=
  (List.range 256).any (fun e => blobBit (s.blob 0x1200 1) e && blobBit (s.blob 0x1200 4) e)

/-- EVT_N is low exactly while FW_START has been reached and a routed event is pending (R447, R454). -/
def State.evtLow (s : State) : Bool := s.boot.fwStarted && evtCond s

end Sys2Proof.Machine
end

