-- ==== Sys2Proof/Machine/ArcOps.lean ====
section
/-!
DEFINITION. The arc domains of each sill (R73 to R92): sources, angle lines, steps and re-indexing, and the resampler's prototype.
-/
namespace Sys2Proof.Machine

/-! ### Domains -/

/-- The domain record of domain d in the sill of side `x`. -/
def State.arc (s : State) (x : Side) (d : Nat) : Arc := Store.get Arc.init (4 * sideIx x + d) s.meas.arcs
def State.setArc (s : State) (x : Side) (d : Nat) (a : Arc) : State :=
  { s with meas := { s.meas with arcs := Store.put Arc.init (4 * sideIx x + d) a s.meas.arcs } }

/-- The fine chain of channel c in the sill of side `x`. -/
def State.chain (s : State) (x : Side) (c : Nat) : Chain := Store.get Chain.init (64 * sideIx x + c) s.meas.chains
def State.setChain (s : State) (x : Side) (c : Nat) (v : Chain) : State :=
  { s with meas := { s.meas with chains := Store.put Chain.init (64 * sideIx x + c) v s.meas.chains } }

/-- The group of a channel, and whether channel and group are in service (Tables 02.2, 02.4). -/
def chanGroup (c : Nat) : Nat := c / 8
def groupEnabled (s : State) (g : Nat) : Bool := s.bit 0x2001 (g + 1) 31
def chanEnabled (s : State) (c : Nat) : Bool := s.bit (0x2100 + c) 1 15 && groupEnabled s (chanGroup c)

/-- The arc domain of a channel (Table 03.5). -/
def chanDomain (s : State) (c : Nat) : Nat := s.fld (0x2100 + c) 0xF 1 0

/-- The enabled channels of a domain. -/
def domainChannels (s : State) (d : Nat) : List Nat := (List.range 64).filter (fun c => chanEnabled s c && chanDomain s c == d)

/-- N as committed (Table 03.3). -/
def arcN (s : State) (d : Nat) : Nat := s.fld (0x2500 + d) 1 11 0

/-- The source a domain belongs on (R74): ResyncSource while the grid-forming state is RESYNC. -/
def arcWanted (s : State) (d : Nat) : Nat :=
  if s.gfState = 5 then s.fld (0x2500 + d) 1 29 28 else s.fld (0x2500 + d) 1 31 30

/-- An F32 frequency as UQ8.24, by convergent rounding (R78). -/
def freqQ24 (f : Nat) : Nat := (Dy.roundScaled (L32.toDy f) 24).toNat

/-- UQ8.24 as F32. -/
def q24F32 (f : Nat) : Nat := L32.ofScaled f (-24)

/-! ### Angle lines (R75, R78) -/

/-- Instants inside the resampler are counted in 2^-32 ps / khz, where khz is the modulator clock of a channel: exact for ridge time,
for D_c in whole ps and for T_in. -/
def lineUnit (khz : Nat) : Nat := 1000 * khz

/-- θ(t) of a line, not reduced to one turn, truncated to 2^-64 turn; `t` in the units of `lineUnit khz` (R75). -/
def Line.at (l : Line) (khz : Nat) (t : Int) : Int :=
  (l.theta : Int) + (l.f : Int) * (t - (l.t : Int) * lineUnit khz) * 256 / ((10 ^ 12 * khz : Nat) : Int)

/-- θ of a line at a ridge time, in 2^-32 turn. -/
def Line.angle (l : Line) (r : Nat) : Nat := ((Line.at l 1 ((r : Int) * lineUnit 1)) % 2 ^ 64).toNat / 2 ^ 32

/-- The line of the FIXED source (R78). -/
def fixedLine (s : State) (d : Nat) : Line := ⟨0, freqQ24 (s.num (0x2500 + d) 4), 0⟩

/-- The line of a triple, its frequency held to FreqMin to FreqMax (R75, R80), and whether it was held. -/
def tripleLine (s : State) (d : Nat) (t : Triple) : Line × Bool :=
  let f := L32.ofScaled t.f (-24)
  let lo := s.num (0x2500 + d) 2
  let hi := s.num (0x2500 + d) 3
  if L32.lt f lo then (⟨t.theta * 2 ^ 32, freqQ24 lo, t.t⟩, true)
  else if L32.lt hi f then (⟨t.theta * 2 ^ 32, freqQ24 hi, t.t⟩, true)
  else (⟨t.theta * 2 ^ 32, t.f, t.t⟩, false)

/-! ### The delay of a channel (R81, R501) -/

/-- The decimation of a channel (Table 02.7): D, K, half-band stages, FIR decimation. -/
def decimD (s : State) (c : Nat) : Nat := s.fld (0x2100 + c) 2 8 0
def decimK (s : State) (c : Nat) : Nat := s.fld (0x2100 + c) 2 11 9
def decimH (s : State) (c : Nat) : Nat := s.fld (0x2100 + c) 2 13 12
def decimF (s : State) (c : Nat) : Nat := s.fld (0x2100 + c) 2 14 14
/-- ModClockKHz of a group. -/
def modKHz (s : State) (g : Nat) : Nat := s.fld 0x2001 (g + 1) 14 0
/-- Modulator periods of one FIR output. -/
def firPeriods (s : State) (c : Nat) : Nat := decimD s c * 2 ^ decimH s c * (1 + decimF s c)

/-- Tap j of a bank of channel c (Table 02.10), and its TapCount. -/
def bankIndex (c b : Nat) : Nat := 0x2200 + 2 * c + b
def tapCount (s : State) (c b : Nat) : Nat := s.num (bankIndex c b) 0x81
def tapAt (s : State) (c b j : Nat) : Int := sx 32 (s.num (bankIndex c b) (j + 1))
def tapList (s : State) (c b : Nat) : List Int := (List.range (tapCount s c b)).map (tapAt s c b)

/-- Σ j h_j of a list of taps from index j on. -/
def tapMoment : Nat → List Int → Int
  | _, [] => 0
  | j, h :: hs => (j : Int) * h + tapMoment (j + 1) hs

/-- The group delay G of a bank in FIR input samples, as a fraction (R501). -/
def firDelay (s : State) (c b : Nat) : Int × Nat :=
  let l := tapList s c b
  let d := l.foldl (· + ·) 0
  let n := tapMoment 0 l
  if d = 0 then ((l.length : Int) - 1, 2) else if d < 0 then (-n, d.natAbs) else (n, d.natAbs)

/-- GroupDelay in whole ps with bank b computing (R501): the delays of Table 02.5 and the greatest pipeline latencies. -/
def groupDelay (s : State) (c b : Nat) : Int :=
  let khz := modKHz s (chanGroup c)
  let d := decimD s c
  let h := decimH s c
  let (gn, gd) := firDelay s c b
  let fixed : Nat := 7500 + 15000 + 10000 * h + 160000
  -- modulator periods, doubled: K (D - 1) + 10 D (2^h - 1), and 2 G D 2^h
  let periods2 : Nat := decimK s c * (d - 1) + 10 * d * (2 ^ h - 1)
  let num : Int := ((periods2 * gd : Nat) : Int) + 2 * gn * ((d * 2 ^ h : Nat) : Int)
  convDiv (num * 10 ^ 9 + ((fixed * 2 * gd * khz : Nat) : Int)) (2 * gd * khz)

/-- D_c in whole ps with bank b computing (R81). -/
def arcDelay (s : State) (c b : Nat) : Int :=
  groupDelay s c b + convDiv ((8 * firPeriods s c * 10 ^ 9 : Nat) : Int) (modKHz s (chanGroup c))

/-- The bank computing a channel on a side (R58): ActiveBank, or the other where the channel has swapped in a swap not yet complete. -/
def bankOf (s : State) (x : Side) (c : Nat) : Nat :=
  let g := s.fld (0x2100 + c) 4 15 13
  let a := s.fld (0x2100 + c) 4 0 0
  match Store.find g s.meas.swaps with
  | some w => if (if sideIx x = 0 then w.doneA else w.doneB).testBit c then 1 - a else a
  | none => a

/-! ### Re-indexing and source changes (R89 to R92) -/

/-- The position u of a channel at an instant on a line, in 2^-64 samples of N (R81), not reduced modulo N. -/
def arcPos (s : State) (x : Side) (c n : Nat) (l : Line) (t : Int) : Int :=
  let khz := modKHz s (chanGroup c)
  (n : Int) * Line.at l khz (t - arcDelay s c (bankOf s x c) * ((2 ^ 32 * khz : Nat) : Int))

/-- Ridge time in the units of a channel's resampler. -/
def arcInstant (s : State) (c r : Nat) : Int := (r : Int) * lineUnit (modKHz s (chanGroup c))

/-- A channel is re-indexed onto a line at ridge time r (R89, R92): the next index due is ⌈u⌉ there. -/
def reindexChain (s : State) (x : Side) (l : Line) (r c : Nat) (v : Chain) : Chain :=
  let n := if v.n = 0 then arcN s (chanDomain s c) else v.n
  let u := arcPos s x c n l (arcInstant s c r)
  let k := (-((-u) / (2 ^ 64 : Int))) % (n : Int)
  { v with n := n, k := k.toNat, part := true, arcSettle := 2 }

/-- N in effect in a domain of one sill (R91): that of its first enabled channel which has taken an index, else N as committed. -/
def arcNow (s : State) (x : Side) (d : Nat) : Nat :=
  match ((domainChannels s d).map (fun c => (s.chain x c).n)).find? (fun n => n != 0) with
  | some n => n
  | none => arcN s d

/-- A large step on a domain of one sill (R89): StepCount, StepSeen and EV_072 with Δ. -/
def reindexDomain (x : Side) (d : Nat) (l : Line) (r delta : Nat) (s : State) : State :=
  let s := (domainChannels s d).foldl (fun s c => s.setChain x c (reindexChain s x l r c (s.chain x c))) s
  if s.reports x then ((s.incSat (0x2500 + d) 9).setBitO (0x2500 + d) 6 3 true).raise 72 d delta else s

/-- A line takes over on a domain of one sill at ridge time r (R89): a small step needs nothing, a large one, or the first line,
re-indexes. DESIGN CHOICE (log entry 26): Δ is the difference of the two lines' angles, each truncated to 2^-32 turn; a line that takes over from BYPASS has no line before it, and is a large step whose Δ is its own angle. -/
def takeLine (x : Side) (d : Nat) (l : Line) (r : Nat) (s : State) : State :=
  let a := s.arc x d
  let new := l.angle r
  let s := s.setArc x d { a with line := some l }
  let s := if s.reports x then s.setNum (0x2500 + d) 8 (q24F32 l.f) else s
  match a.line with
  | some o =>
    let delta := (new + 2 ^ 32 - o.angle r) % 2 ^ 32
    if (sx 32 delta).natAbs * arcNow s x d < 2 ^ 31 then s else reindexDomain x d l r delta s
  | none => reindexDomain x d l r new s

/-- A domain of one sill changes source (R90): EV_075. -/
def changeSource (x : Side) (d src : Nat) (s : State) : State :=
  let s := s.setArc x d { s.arc x d with src := src }
  if s.reports x then s.raise 75 d src else s

/-- A change to FIXED, or to BYPASS, which has no reference, takes effect at once (R90). DESIGN CHOICE (log entry 26): with BYPASS no line is
in effect, and FreqInUse keeps the frequency of the last one. -/
def sourceAtOnce (x : Side) (d : Nat) (s : State) : State :=
  let w := arcWanted s d
  if (s.arc x d).src = w || w < 2 then s
  else
    let s := changeSource x d w s
    if w = 2 then takeLine x d (fixedLine s d) s.ridge (s.setArc x d { s.arc x d with clamped := false, stale := false })
    else s.setArc x d { s.arc x d with line := none, clamped := false, stale := false }

/-- Every domain of both sills takes the source it belongs on, where that happens at once (R74, R90). -/
def sourcesAtOnce (s : State) : State :=
  forN 4 (fun d s => [Side.A, Side.B].foldl (fun s x => if s.feeds x then sourceAtOnce x d s else s) s) s

/-! ### The prototype (R83, R84) -/

/-- Σ of a function over the taps j below `n`. -/
def sumTo (n : Nat) (f : Nat → Int) : Int := (List.range n).foldl (fun a j => a + f j) 0

/-- The free half of the prototype: 0 at both ends, symmetric, in Q1.22. -/
def arcRaw (i : Nat) : Int := if i = 0 || 2048 ≤ i then 0 else satI 24 (Config.arcProto (min i (2048 - i)))

/-- The prototype with one coefficient of each phase formed so that the phase's sum is exactly 2^22 (R84). -/
def arcDep (i : Nat) : Int :=
  let r := min i (2048 - i)
  let rest := fun (skip : Nat) => sumTo 16 (fun j => let m := 128 * j + r % 128; if m = skip then 0 else arcRaw m)
  if r = 1024 then 2 ^ 22 - rest 1024
  else if r = 960 then (2 ^ 22 - (rest 960 - arcRaw 1088)) / 2
  else if 896 < r && r < 960 then 2 ^ 22 - rest r
  else arcRaw r

/-- Every coefficient so formed is in Q1.22. -/
def arcFits : Bool := (List.range 1025).all (fun i => decide (-2 ^ 23 ≤ arcDep i) && decide (arcDep i < 2 ^ 23))

/-- h[i] (R84). A free half of which a phase sum would take a coefficient out of Q1.22 is no prototype of Table 03.6: a triangle of 256
coefficients, which keeps the format, the ends, the symmetry and the sums, stands for it (log entry 5). -/
def arcH (i : Nat) : Int :=
  let d := (max i 1024) - (min i 1024)
  if arcFits then arcDep i else if d < 128 then ((2 ^ 15 * (128 - d) : Nat) : Int) else 0

/-- F_p over the delay line, newest first (R83). -/
def arcF (l : List Int) (p : Nat) : Int := sumTo 16 (fun j => arcH (128 * j + p) * nth 0 l j)

/-- y of R83 at μ in UQ0.24: the exact sum in Q1.52 with 17 more fraction bits. -/
def arcInterp (l : List Int) (mu : Nat) : Int :=
  let p : Nat := mu / 2 ^ 17
  let w : Nat := mu % 2 ^ 17
  arcF l p * 2 ^ 17 + (w : Int) * (arcF l (p + 1) - arcF l p)

end Sys2Proof.Machine
end

