-- ==== Sys2Proof/Machine/MeasOps.lean ====
section
/-!
DEFINITION. What the measurement chain shares with the passing of time: clock groups, swaps of coefficient banks (R55 to R59) and
decimator alignments (R60 to R64).
-/
namespace Sys2Proof.Machine

/-- An effect stamped with an earlier ridge time than the command that finds it due. A flag it set before the present ridge clock is not
one of this clock (R12). -/
def atRidge (r : Nat) (f : State → State) (s : State) : State :=
  let t := f { s with ridge := r }
  { t with ridge := s.ridge, fresh := if r < s.ridge then s.fresh else t.fresh }

/-! ### Clock groups (R42, R65) -/

/-- The record of a clock group. -/
def State.group (s : State) (g : Nat) : ClockGroup := Store.get ClockGroup.init g s.meas.groups
def State.setGroup (s : State) (g : Nat) (v : ClockGroup) : State :=
  { s with meas := { s.meas with groups := Store.put ClockGroup.init g v s.meas.groups } }

/-- The enabled channels of a clock group. -/
def groupChannels (s : State) (g : Nat) : List Nat := ((List.range 8).map (fun i => 8 * g + i)).filter (chanEnabled s)

/-! ### Swaps of coefficient banks (R57 to R59) -/

/-- The channels of a swap group. -/
def swapChannels (s : State) (g : Nat) : List Nat := (List.range 64).filter (fun c => s.fld (0x2100 + c) 4 15 13 == g)

/-- A channel produces output: enabled, with its clock running. -/
def producing (s : State) (c : Nat) : Bool := chanEnabled s c && (s.group (chanGroup c)).running

/-- GroupDelay and ArcDelay of a channel formed anew (R81, R501). DESIGN CHOICE (log entry 21): the two objects of a channel whose group
swaps change when the whole group completes. -/
def refreshDelay (c : Nat) (s : State) : State :=
  let b := s.fld (0x2100 + c) 4 0 0
  let ok := modKHz s (chanGroup c) != 0
  if ok then (s.setNum (0x2100 + c) 0xC (ofInt 64 (groupDelay s c b))).setNum (0x2100 + c) 0x10 (ofInt 64 (arcDelay s c b)) else s

/-- A group's swap is complete (R58, R59): ActiveBank toggles, the banks exchange their states, Pending clears and EV_068. DESIGN CHOICE (log
entry 21): the one GroupDelay and the one ArcDelay of a channel (R501) change here, once the whole group has changed on both sills. -/
def finishSwap (g : Nat) (s : State) : State :=
  let s := { s with meas := { s.meas with swaps := s.meas.swaps.filter (fun e => e.1 != g) } }
  let s := (swapChannels s g).foldl (fun s c =>
    let a := s.fld (0x2100 + c) 4 0 0
    let s := s.setFld (0x2100 + c) 4 0 0 (1 - a)
    refreshDelay c ((s.setNum (bankIndex c (1 - a)) 0x83 2).setNum (bankIndex c a) 0x83 1)) s
  (s.setBitO 0x2300 2 (8 + g) false).raise 68 g

/-- Every producing channel of the group has swapped on every sill in service. -/
def swapComplete (s : State) (g : Nat) (w : BankSwap) : Bool :=
  decide (w.tSwap ≤ s.ridge) && (swapChannels s g).all (fun c =>
    !producing s c || ((!s.inService .A || w.doneA.testBit c) && (!s.inService .B || w.doneB.testBit c)))

/-- Swaps that are complete end; one that only waited for its T_swap ended then (R59), but not before the ridge time `r`. -/
def sweepSwaps (r : Nat) (s : State) : State :=
  s.meas.swaps.foldl (fun s e =>
    if swapComplete s e.1 e.2 then atRidge (min s.ridge (max r e.2.tSwap)) (finishSwap e.1) s else s) s

/-! ### Decimator alignments (R60 to R64) -/

/-- An alignment is pending: accepted, its t_a not yet reached (R63). -/
def alignPending (s : State) : Bool := s.meas.aligns.any (fun a => decide (s.ridgeFine < a.ta))

/-- The clock groups whose sampling clock is present. -/
def groupsPresent (s : State) : Nat :=
  forN 8 (fun g m => if groupEnabled s g && (s.group g).running then setBit m g true else m) 0

/-- At t_a the groups whose sampling clock is present take part; with none there is no alignment to complete (R63). -/
def judgeAlign (s : State) : State :=
  let m := groupsPresent s
  let judge := fun (a : Align) =>
    if a.ta ≤ s.ridgeFine && a.taking.isNone then (if m = 0 then none else some { a with taking := some m }) else some a
  { s with meas := { s.meas with aligns := s.meas.aligns.filterMap judge } }

/-- SYNC_OUT is high: a pulse of 200 ns has begun and not ended (R64). -/
def State.syncOutHigh (s : State) : Bool := decide (s.now < s.meas.syncOutEnd)

end Sys2Proof.Machine
end

