-- ==== Sys2Proof/Machine/SillOps.lean ====
section
/-!
DEFINITION. The members of a sill, its shadows and commits (R222, R223), and what its clock alone brings: the commits of the compare
writer (Table 04.2) and the report of a torn update (R224).
-/
namespace Sys2Proof.Machine

/-- The carrier group whose period group g runs on: its master, or itself (Table 07.2). -/
def State.follower (s : State) (g : Nat) : Bool := s.bit (0x5120 + g) 1 30
def State.masterOf (s : State) (g : Nat) : Nat := if s.follower g then s.fld (0x5120 + g) 1 29 27 else g

/-- A pair of a sill. -/
def Sill.pair (l : Sill) (p : Nat) : SillPair := Store.get SillPair.init p l.pairs

/-- The update group and the carrier group of a logical pair (Tables 07.6, 07.10). -/
def State.pairUpdate (s : State) (p : Nat) : Nat := s.fld (0x5200 + p) 1 31 27
def State.updateCarrier (s : State) (u : Nat) : Nat := s.fld (0x5140 + u) 1 2 0
def State.pairCarrier (s : State) (p : Nat) : Nat := s.updateCarrier (s.pairUpdate p)

/-- A carrier group of a sill: its counter, before the first start at its power-up period. -/
def Sill.carrier (l : Sill) (g : Nat) : Carrier := Store.get Carrier.init g l.carriers

/-- The earliest pending start of a group, and the starts left once those up to ridge time `r` have passed. -/
def Carrier.startAt (c : Carrier) : Option Nat := c.starts.head?.map (fun p => p.1)
def Carrier.startsAfter (c : Carrier) (r : Nat) : List (Nat × Bool) := c.starts.filter (fun p => decide (r < p.1))

/-! ### Members of a sill -/

def State.modPair (s : State) (x : Side) (p : Nat) (f : SillPair → SillPair) : State :=
  s.setSill x { s.sill x with pairs := Store.mod SillPair.init p f (s.sill x).pairs }
def State.modCarrier (s : State) (x : Side) (g : Nat) (f : Carrier → Carrier) : State :=
  s.setSill x { s.sill x with carriers := Store.mod Carrier.init g f (s.sill x).carriers }
def Sill.update (l : Sill) (u : Nat) : Update := Store.get Update.init u l.updates
def State.setUpdate (s : State) (x : Side) (u : Nat) (v : Update) : State :=
  s.setSill x { s.sill x with updates := Store.put Update.init u v (s.sill x).updates }

/-- The update groups of a carrier group, the pairs of an update group and of a carrier group, and the masters whose period an update
group carries (R221). -/
def updatesOf (s : State) (g : Nat) : List Nat := (List.range 32).filter (fun u => s.updateCarrier u == g)
def pairsOf (s : State) (u : Nat) : List Nat := (List.range 72).filter (fun p => s.pairUpdate p == u)
def groupPairs (s : State) (g : Nat) : List Nat := (List.range 72).filter (fun p => s.pairCarrier p == g)
def periodUpdate (s : State) (g : Nat) : Nat := s.fld (0x5120 + g) 1 24 20
def mastersOf (s : State) (u : Nat) : List Nat := (List.range 8).filter (fun g => !s.follower g && periodUpdate s g == u)

/-- The number of the sill clock of an instant (R210). -/
def clockOf (t : Nat) : Nat := t / clockFs

/-! ### Shadow and commit (R222, R223) -/

/-- A write to the shadow of update group u: Partial. -/
def markPartial (x : Side) (u : Nat) (s : State) : State :=
  let v := (s.sill x).update u
  if v.partialAt.isSome then s else s.setUpdate x u { v with partialAt := some (clockOf s.now) }

/-- The words of a pair's shadow, by subindex of the pair record (R222). -/
def writeShadow (x : Side) (p sub value : Nat) (s : State) : State :=
  let f := fun (q : PairSet) =>
    if sub = 3 then { q with up := value } else if sub = 4 then { q with dn := value } else { q with off := value != 0 }
  markPartial x (s.pairUpdate p) (s.modPair x p (fun v => { v with sh := f v.sh }))

/-- A new period in the shadow of its master's period update group (R222). -/
def writePeriod (x : Side) (g hs : Nat) (s : State) : State :=
  markPartial x (periodUpdate s g) (s.modCarrier x g (fun c => { c with per := hs }))

/-- The reload points of a group (Table 07.2): at a top vertex bit 0, at a bottom vertex bit 1. -/
def reloadsAt (s : State) (g : Nat) (bottom : Bool) : Bool := s.bit (0x5120 + g) 1 (if bottom then 26 else 25)

/-- A commit in the clock of a reload point is reported once (R224). -/
def windowClosed (x : Side) (u : Nat) (s : State) : State :=
  if s.reports x then (s.setBitO (0x5140 + u) 2 2 true).raise 145 u else s

/-- A vertex of the update group's carrier group that reloads has already passed in this clock. -/
def reloadNow (s : State) (x : Side) (u : Nat) : Bool :=
  let g := s.updateCarrier u
  let c := (s.sill x).carrier g
  c.running && clockOf c.at_ == clockOf s.now && reloadsAt s g c.up

/-- A commit of an update group in one sill (R223): the whole shadow becomes the committed set. -/
def commitUpdate (x : Side) (u : Nat) (s : State) : State :=
  let v := (s.sill x).update u
  let clk := clockOf s.now
  let keep := v.commitAt == some clk
  let late := reloadNow s x u && !keep
  let s := (pairsOf s u).foldl (fun s p =>
    s.modPair x p (fun q => { q with pv := if keep then q.pv else q.cm, cm := q.sh })) s
  let s := (mastersOf s u).foldl (fun s g =>
    s.modCarrier x g (fun c => { c with perPv := if keep then c.perPv else c.perCm, perCm := c.per })) s
  let s := s.setUpdate x u { partialAt := none, commitAt := some clk, olderAt := if keep then v.olderAt else v.commitAt
                             tornAt := v.tornAt.filter (fun p => decide (p.1 < clk)) }
  if late then windowClosed x u s else s

/-- A commit in both sills. -/
def commitBoth (u : Nat) (s : State) : State := commitUpdate .B u (commitUpdate .A u s)

/-! ### What the sill clock brings -/

/-- Ridge time as the last tick of the reference at or before an earlier instant left it (R339). -/
def ridgeTick (s : State) (i : Nat) : Nat := s.ridge - (s.now / tickFs - i / tickFs) * s.num 0x7000 2

/-- An effect of an earlier instant than the command that finds it due: at that instant and its ridge time. -/
def atInstant (t r : Nat) (f : State → State) (s : State) : State :=
  { atRidge r f { s with now := t } with now := s.now }

/-- The commits that the compare writer of a side issues at lane clock 74 of the cycle and after (Table 04.2): every update group of the
mask given with their instant. -/
def dueCommits (x : Side) (s : State) : State :=
  match (s.graph x).commits with
  | some (t, m) =>
    if t ≤ s.now then
      atInstant t (ridgeTick s t) (forMask 32 m (commitUpdate x)) (s.setGraph x { s.graph x with commits := none })
    else s
  | none => s

/-- The groups of a side found partial at a reload point in an earlier clock, and not committed in that clock: TornUpdate and EV_144, from
the side that reports (R224). -/
def dueTorn (x : Side) (s : State) : State :=
  forN 32 (fun u s =>
    match ((s.sill x).update u).tornAt with
    | some (c, r) =>
      if c < clockOf s.now then
        let s := s.setUpdate x u { (s.sill x).update u with tornAt := none }
        if s.reports x then atRidge r (fun s => (s.setBitO (0x5140 + u) 2 1 true).raise 144 u) s else s
      else s
    | none => s) s

end Sys2Proof.Machine
end

