-- ==== Sys2Proof/Machine/StackTab.lean ====
section
/-!
DEFINITION. The stacks' records, the members of wear groups and the physical pairs they drive (R225, R250, R258), and the time for which
a stack is driven (R250), which passes between two commands.
-/
namespace Sys2Proof.Machine

/-! ### Physical pairs -/

/-- The override byte in force of logical pair p (R234): bits [6:0] its physical pair, bit 7 inverted. -/
def overrideOf (s : State) (p : Nat) : Option Nat := s.plate.mapNow[p]?.bind (fun b => if b = 0x7F then none else some b)

/-- The physical pair that a logical pair drives (R225, R234, R258), 0x7F for none; a redirection to none is one too. -/
def physOf (s : State) (p : Nat) : Nat :=
  match overrideOf s p with
  | some b => b % 128
  | none => Store.get (s.fld (0x5200 + p) 1 22 16) p s.plate.spareMap

/-- The record of a physical pair. -/
def State.plateOf (s : State) (n : Nat) : PlatePair := Store.get PlatePair.init n s.plate.pairs
/-! ### Stacks -/

/-- The record of stack k. -/
def State.stack (s : State) (k : Nat) : Stack := Store.get Stack.init k s.stk
def State.setStack (s : State) (k : Nat) (v : Stack) : State := { s with stk := Store.put Stack.init k v s.stk }

/-- RecordValid of stack k (Table 08.9). -/
def stackValid (s : State) (k : Nat) : Bool := s.bit (0x9010 + k) 3 15

/-! ### Wear groups -/

/-- A member of a wear group (Table 08.10): stack, leg, logical pair, channel. -/
structure Member where
  stack : Nat
  leg : Nat
  pair : Nat
  chan : Nat
  deriving DecidableEq, Repr

/-- The members of a list of bytes. -/
def membersOf (b : List Nat) : List Member :=
  (List.range (b.length / 4)).map (fun i => ⟨nth 0 b (4 * i), nth 0 b (4 * i + 1), nth 0 b (4 * i + 2), nth 0 b (4 * i + 3)⟩)

def wearMembers (s : State) (w : Nat) : List Member := membersOf (s.blob (0x9100 + w) 2)

/-- SparePhysicalPair of a stack (Table 08.8). -/
def sparePair (s : State) (k : Nat) : Nat := s.fld (0x9010 + k) 1 14 8

/-! ### Hours (R250) -/

/-- The plate drives a physical pair that a wear group or a spare assigns to stack k. -/
def stackDriven (s : State) (k : Nat) : Bool :=
  let driven := fun (n : Nat) => decide (n < 72) && (s.plateOf n).driving
  (List.range 16).any (fun w => (wearMembers s w).any (fun m => m.stack == k && driven (physOf s m.pair))) || driven (sparePair s k)

/-- Ridge time runs on by `d`: it counts for every stack that is driven (R250). -/
def driveStacks (d : Nat) (s : State) : State :=
  forN 16 (fun k s =>
    if stackDriven s k then s.setStack k { s.stack k with driven := (s.stack k).driven + d } else s) s

end Sys2Proof.Machine
end

