-- ==== Sys2Proof/Machine/PlateOps.lean ====
section
/-!
DEFINITION. The output plate (R225 to R229): the mapping of logical pairs, the interlocks of R228, side changes and the start of driving.
-/
namespace Sys2Proof.Machine

/-! ### What the plate follows (R226, R227) -/

/-- A carrier group runs on a side. -/
def State.carrierRuns (s : State) (x : Side) (g : Nat) : Bool := ((s.sill x).carrier g).running

/-- StartPending of a group (R213, R504): a start is accepted and not reached; a running group, or one without Run, waits for none. -/
def State.startPending (s : State) (x : Side) (g : Nat) : Bool :=
  s.bit (0x5120 + g) 1 31 && !((s.sill x).carrier g).running && ((s.sill x).carrier g).startAt.isSome

/-- The state drives its gate balls (Table 06.4): BLACK_START to RESYNC. -/
def State.driveState (s : State) : Bool := decide (1 ≤ s.gfState) && decide (s.gfState ≤ 5)

/-- What holds every pair in high impedance (R226, conditions 1, 2 and 5; R23, R24, R70, R282, R288, R454). -/
def State.plateHeld (s : State) : Bool :=
  !s.ready || !(s.driveState || (s.commissioning && s.gfState == 0)) || s.tripped || s.demandLatched || s.plate.gateHold
    || (s.plate.halted && s.permission 5) || !(s.safety.a.enable && s.safety.b.enable)

/-- The plate may drive logical pair `p` from side `x` (R226). -/
def State.mayDrive (s : State) (x : Side) (p : Nat) : Bool :=
  !s.plateHeld && !s.plate.disabled.testBit p && s.feeds x && s.carrierRuns x (s.pairCarrier p)

/-- A physical pair taken to high impedance where a condition of R226 fails. -/
def settlePair (s : State) (q : PlatePair) : PlatePair :=
  if q.driving && !s.mayDrive (if q.sideB then .B else .A) q.pair then { q with driving := false, h := false, l := false } else q

/-- The plate follows its conditions at once (R227): every pair that may not be driven is in high impedance. -/
def State.settle (s : State) : State :=
  { s with plate := { s.plate with pairs := s.plate.pairs.map (fun e => (e.1, settlePair s e.2)) } }

/-- One step of an on-time, 78.125 ps, and one sill clock, 2.5 ns, in femtoseconds. -/
def stepFs : Nat := 78125

/-- A pair is inverted by the override map. -/
def inverted (s : State) (p : Nat) : Bool := (overrideOf s p).any (fun b => decide (128 ≤ b))

/-- Dead times and the least on-time of a logical pair, in femtoseconds (Table 07.5, R228). -/
def deadH (s : State) (p : Nat) : Nat := s.fld (0x5200 + p) 2 31 16 * stepFs
def deadL (s : State) (p : Nat) : Nat := s.fld (0x5200 + p) 2 15 0 * stepFs
def plateMinOn (s : State) (p : Nat) : Nat :=
  s.fld (0x5120 + s.pairCarrier p) 4 16 0 * stepFs - max (deadH s p) (deadL s p)

/-- The record of a physical pair is replaced. -/
def State.setPlate (s : State) (n : Nat) (q : PlatePair) : State :=
  { s with plate := { s.plate with pairs := Store.put PlatePair.init n q s.plate.pairs } }

/-- What the plate makes of the outputs a side asks for (R228): the new record and, where it delays or holds one, the way: 1 exclusion,
2 dead time, 3 minimum on-time. -/
def interlock (now dh dl minOn : Nat) (q : PlatePair) (rh rl : Bool) : PlatePair × Nat :=
  let holdH := q.h && !rh && decide (now < q.riseH + minOn)
  let holdL := q.l && !rl && decide (now < q.riseL + minOn)
  let h1 := q.h && (rh || holdH)
  let l1 := q.l && (rl || holdL)
  let fallH := if q.h && !h1 then now else q.fallH
  let fallL := if q.l && !l1 then now else q.fallL
  let wantH := rh && !q.h
  let riseH := wantH && !l1 && decide (fallL + dh ≤ now)
  let h2 := h1 || riseH
  let wantL := rl && !q.l
  let riseL := wantL && !h2 && decide (fallH + dl ≤ now)
  let way := if holdH || holdL then 3 else if (wantH && l1) || (wantL && h2) then 1
    else if (wantH && !riseH) || (wantL && !riseL) then 2 else 0
  ({ q with h := h2, l := l1 || riseL, fallH := fallH, fallL := fallL, riseH := if riseH then now else q.riseH
            riseL := if riseL then now else q.riseL }, way)

/-- A driven physical pair follows the outputs of its side's sill under R228; a correction is reported once per carrier period. -/
def plateFollow (n : Nat) (s : State) : State :=
  let q := s.plateOf n
  if !q.driving then s
  else
    let o := (s.sill (if q.sideB then .B else .A)).pair q.pair
    let (q', way) := interlock s.now (deadH s q.pair) (deadL s q.pair) (plateMinOn s q.pair) q o.h o.l
    if way = 0 || q.corrected || decide (72 ≤ q.pair) then s.setPlate n q'
    else (((s.setPlate n { q' with corrected := true }).setBitO (0x5200 + q.pair) 8 0 true)).raise 11 n way

/-- The plate follows the outputs of logical pair p. -/
def pairFollow (p : Nat) (s : State) : State :=
  let n := physOf s p
  if decide (n < 72) && (s.plateOf n).pair == p then plateFollow n s else s

/-- The driven physical pairs of carrier group g. -/
def drivenOf (s : State) (g : Nat) : List Nat :=
  (List.range 72).filter (fun n => (s.plateOf n).driving && s.pairCarrier (s.plateOf n).pair == g)

/-- The driven pairs of a carrier group change to side `x` (R229). -/
def groupToSide (x : Side) (g : Nat) (s : State) : State :=
  (drivenOf s g).foldl (fun s n => plateFollow n (s.setPlate n { s.plateOf n with sideB := sideIx x == 1 })) s

/-- The plate begins to drive a pair from high impedance (R227, R228). -/
def plateBegin (x : Side) (p : Nat) (s : State) : State :=
  let n := physOf s p
  if decide (n < 72) && !(s.plateOf n).driving && s.mayDrive x p then
    s.setPlate n { pair := p, driving := true, sideB := sideIx x == 1, h := false, l := false, fallH := s.now, fallL := s.now,
                   riseH := 0, riseL := 0, corrected := false }
  else s

/-- A physical pair is placed in high impedance at once. -/
def plateRelease (n : Nat) (s : State) : State :=
  if (s.plateOf n).driving then s.setPlate n { s.plateOf n with driving := false, h := false, l := false } else s

/-- Every pair is placed in high impedance at once. -/
def plateReleaseAll (s : State) : State := forN 72 plateRelease s

/-- A trip, a fallback or a fault holds every gate ball in high impedance until SAFE_STOP holds it (R23, R24, R70, R282). -/
def holdGates (s : State) : State :=
  if s.gfState = 6 then s else { s with plate := { s.plate with gateHold := true } }

end Sys2Proof.Machine
end

