-- ==== Sys2Proof/Machine/Feedback.lean ====
section
/-!
DEFINITION. Feedback supervision as the ridge does it (R66 to R71, R205, R206): reports of the sills, the condition declared, and its
fallback.
-/
namespace Sys2Proof.Machine

/-- A cause of priority 1 is detected (R195): it stays present until the transition it leads to takes effect. -/
def noteCause (code : Nat) (s : State) : State :=
  if s.gfState = 6 then s
  else { s with gf := { s.gf with causes := setBit s.gf.causes code true
                                  firstCause := if s.gf.firstCause = 0 then code else s.gf.firstCause } }

def State.feedback (s : State) (c : Nat) : Feedback := Store.get Feedback.init c s.meas.feedback
def State.setFeedback (s : State) (c : Nat) (f : Feedback) : State :=
  { s with meas := { s.meas with feedback := Store.put Feedback.init c f s.meas.feedback } }

/-- The fallback of a channel (Table 02.15): 1 SAFE_DISABLE, 2 MODEL_THEN_DISABLE, 3 HOLD_AND_FLAG. -/
def fallbackOf (s : State) (c : Nat) : Nat :=
  let f := s.fld (0x2100 + c) 7 29 28
  if f = 0 then (match s.fld (0x2100 + c) 7 31 30 with
    | 1 => 1
    | 2 => 2
    | _ => 3) else f

/-- SAFE_DISABLE (R70, R205): the gate balls in high impedance; a cause of SAFE_STOP. -/
def safeDisable (c : Nat) (s : State) : State :=
  noteCause 10 (holdGates (s.setFeedback c { s.feedback c with acted := true, modelUntil := none }))

/-- The fallback of a declared condition starts (R70, R206). -/
def startFallback (c : Nat) (s : State) : State :=
  let ms := s.fld (0x2100 + c) 7 27 16
  if fallbackOf s c = 1 then safeDisable c s
  else if fallbackOf s c = 2 then
    if ms = 0 then safeDisable c s
    else (s.setFeedback c { s.feedback c with modelUntil := some (s.now + msFs ms) }).raise 130 c
  else s

/-- The channel's samples carry Fault from now on, with the value held (R70). -/
def markFault (c : Nat) (s : State) : State :=
  [Side.A, Side.B].foldl (fun s x =>
    if s.feeds x then s.setChain x c { s.chain x c with faultQ := true, substituting := false, hold := 0 } else s) s

/-- The ridge declares a condition (R68, R70): kinds 1 stuck bits, 2 clock, 3 frozen. -/
def declareFeedback (c kind : Nat) (s : State) : State :=
  let s := markFault c (s.setFeedback c { s.feedback c with declared := kind, waits := false })
  let s := s.setBitO (0x2100 + c) 0xB (if kind = 3 then 5 else 6) true
  startFallback c (if kind = 3 then s.raise 65 c else s.raise 64 c kind)

/-- A side's report of a channel, and its instant. -/
def Feedback.rep (f : Feedback) : Side → Nat × Nat
  | .A => (f.repA, f.atA)
  | .B => (f.repB, f.atB)

/-- A report recorded. -/
def Feedback.putRep (f : Feedback) (x : Side) (kind t : Nat) : Feedback :=
  match x with
  | .A => { f with repA := kind, atA := t }
  | .B => { f with repB := kind, atB := t }

/-- At the first report the value held is that of the last sample that emerged before it (R70). DESIGN CHOICE (log entry 26): 0 where the
channel has delivered none. -/
def holdValue (c : Nat) (s : State) : State :=
  [Side.A, Side.B].foldl (fun s x =>
    s.setChain x c { s.chain x c with held := ((s.chain x c).samples.head?).elim 0 Sample.v }) s

/-- Two instants lie in one ridge clock. -/
def sameClock (a b : Nat) : Bool := a / tickFs == b / tickFs

/-- The condition reported first, at instant `first`, is declared: FEEDBACK_FROZEN at the end of the ridge clock of its first report, for a
report of FEEDBACK_LOST in that clock goes before it (R68). -/
def judgeFeedback (c kind first : Nat) (s : State) : State :=
  if kind = 3 && sameClock first s.now then s.setFeedback c { s.feedback c with waits := true } else declareFeedback c kind s

/-- The ridge clock ends: what waited for its end is declared (R68). -/
def dueFrozen (s : State) : State := forN 64 (fun c s => if (s.feedback c).waits then declareFeedback c 3 s else s) s

/-- A sill in service reports a channel (R66 to R68). With both sills in service the condition is declared where the two reports fall
within 2 µs or the second sill has delivered no sample since the first; FEEDBACK_LOST goes before FEEDBACK_FROZEN in one ridge clock,
in the two sills' first reports and in one sill's reports of both conditions. -/
def reportFeedback (x : Side) (c kind : Nat) (s : State) : State :=
  let f := s.feedback c
  let (kx, tx) := f.rep x
  if !s.inService x || f.declared != 0 then s
  else if f.waits then (if kind < 3 then declareFeedback c kind (s.setFeedback c (f.putRep x kind s.now)) else s)
  else if kx != 0 then
    if sameClock tx s.now && decide (kind < kx) then s.setFeedback c (f.putRep x kind tx) else s
  else
    let y := otherSide x
    let s := if (f.rep y).1 = 0 then holdValue c s else s
    let s := s.setFeedback c (f.putRep x kind s.now)
    if !s.inService y then judgeFeedback c kind s.now s
    else
      let (ky, ty) := f.rep y
      if ky = 0 then s
      else if s.now ≤ ty + usFs 2 || (s.chain x c).outAt ≤ ty then
        judgeFeedback c (if sameClock ty s.now then min ky kind else ky) ty s
      else s

/-- While one side is out of service, the report of the sill in service alone declares (R68): a report that waited for the other sill is
declared as that sill leaves service. -/
def reportsAlone (s : State) : State :=
  let alone := fun (x : Side) (c : Nat) (s : State) =>
    let f := s.feedback c
    if s.inService x && !s.inService (otherSide x) && (f.rep x).1 != 0 && f.declared == 0 then
      judgeFeedback c (f.rep x).1 (f.rep x).2 s else s
  forN 64 (fun c s => alone .B c (alone .A c s)) s

end Sys2Proof.Machine
end

