-- ==== Sys2Proof/Machine/GraphTab.lean ====
section
/-!
DEFINITION. Graph and schedule tables (R124, R125), the catalogue's ports, word counts, parts and costs (Table 05.1), and what the
active slot's tables say of an instance, a compare word or a result.
-/
namespace Sys2Proof.Machine

/-! ### The catalogue (Table 05.1) -/

/-- Kinds of port (R142). -/
inductive PortKind where
  | scalar
  | boolean
  | angle
  | ring
  | cand
  deriving DecidableEq, Repr

/-- An element type: its ports, its numbers of parameter and state words, the parameter words that are U32, its parts. -/
structure ElemType where
  ins : List PortKind
  outs : List PortKind
  params : Nat
  uwords : List Nat
  states : Nat
  parts : Nat
  deriving DecidableEq, Repr

/-- `n` scalar ports. -/
def sc (n : Nat) : List PortKind := List.replicate n .scalar

/-- The element types 0x01 to 0x30; 0 stands for none. -/
def elemType (e : Nat) : ElemType :=
  let b := PortKind.boolean
  let a := PortKind.angle
  let r := PortKind.ring
  match e with
  | 0x01 => ⟨sc 4, sc 1, 5, [], 0, 1⟩
  | 0x02 => ⟨[], sc 1, 1, [], 0, 1⟩
  | 0x03 => ⟨sc 3, sc 1, 1, [], 0, 1⟩
  | 0x04 => ⟨sc 1, sc 1 ++ [b], 4, [], 1, 1⟩
  | 0x05 => ⟨sc 2, sc 2, 32, [], 0, 1⟩
  | 0x06 => ⟨sc 5, sc 1, 1, [0], 0, 1⟩
  | 0x07 => ⟨sc 2, sc 1 ++ [b], 2, [0, 1], 2, 1⟩
  | 0x08 => ⟨sc 2 ++ [b], sc 1 ++ [b], 1, [], 2, 1⟩
  | 0x09 => ⟨sc 1, [b], 3, [2], 2, 1⟩
  | 0x0A => ⟨[b, b, b, b], [b], 1, [0], 0, 1⟩
  | 0x0B => ⟨sc 4 ++ [b], sc 1 ++ [b, b], 6, [], 1, 1⟩
  | 0x0C => ⟨sc 4, sc 1 ++ [b], 6, [2], 2, 1⟩
  | 0x0D => ⟨sc 2, sc 1, 15, [6, 7, 8, 9, 10, 11], 12, 1⟩
  | 0x0E => ⟨sc 1, sc 1, 3, [], 1, 1⟩
  | 0x0F => ⟨sc 1, sc 1, 5, [], 2, 1⟩
  | 0x10 => ⟨sc 1, sc 1, 7, [0, 1, 2, 3, 4], 4, 1⟩
  | 0x11 => ⟨sc 2 ++ [b], sc 1 ++ [b], 3, [], 1, 1⟩
  | 0x12 => ⟨[r], sc 1 ++ [b], 0, [], 0, 1⟩
  | 0x13 => ⟨sc 3, sc 3, 0, [], 0, 1⟩
  | 0x14 => ⟨sc 3 ++ [a], sc 3, 0, [], 0, 1⟩
  | 0x15 => ⟨sc 3 ++ [a], sc 3, 0, [], 0, 1⟩
  | 0x16 => ⟨sc 2 ++ [a], sc 2, 1, [0], 0, 1⟩
  | 0x17 => ⟨[r, r, r], sc 5 ++ [b], 0, [], 0, 1⟩
  | 0x18 => ⟨[r], sc 8 ++ [b], 4, [0, 1, 2, 3], 0, 1⟩
  | 0x19 => ⟨sc 6, sc 4, 1, [], 4, 1⟩
  | 0x1A => ⟨sc 2 ++ [a, b], [a] ++ sc 2, 5, [], 3, 1⟩
  | 0x1B => ⟨sc 2, sc 1, 3, [], 0, 1⟩
  | 0x1C => ⟨sc 2, sc 1, 4, [], 1, 1⟩
  | 0x1D => ⟨sc 3, sc 2, 2, [], 0, 1⟩
  | 0x1E => ⟨sc 3, sc 2 ++ [b], 2, [1], 0, 1⟩
  | 0x1F => ⟨sc 3, [a] ++ sc 3 ++ [b], 6, [], 4, 1⟩
  | 0x20 => ⟨sc 3 ++ [a], [b] ++ sc 1, 2, [1], 2, 1⟩
  | 0x21 => ⟨sc 1, sc 1 ++ [b], 2, [0], 65, 1⟩
  | 0x22 => ⟨sc 2, sc 1 ++ [b, b], 5, [4], 3, 1⟩
  | 0x23 => ⟨sc 1 ++ [b] ++ sc 1 ++ [b], sc 2 ++ [b], 3, [], 3, 1⟩
  | 0x24 => ⟨sc 4, sc 5, 3, [2], 8, 1⟩
  | 0x25 => ⟨sc 2 ++ [a], sc 3, 3, [0, 1, 2], 0, 1⟩
  | 0x26 => ⟨sc 4, sc 3, 3, [2], 0, 1⟩
  | 0x27 => ⟨sc 9, sc 8, 2, [1], 0, 1⟩
  | 0x28 => ⟨sc 7 ++ [a] ++ sc 2, sc 4, 3, [], 1, 9⟩
  | 0x29 => ⟨sc 7 ++ [a] ++ sc 2, sc 4, 3, [], 1, 19⟩
  | 0x2A => ⟨sc 7 ++ [a] ++ sc 2, [.cand], 3, [], 0, 128⟩
  | 0x2B => ⟨[.cand], sc 4, 0, [], 1, 21⟩
  | 0x2C => ⟨sc 3, sc 4, 22, [], 8, 1⟩
  | 0x2D => ⟨sc 1, sc 2, 3, [0, 1, 2], 35, 1⟩
  | 0x2E => ⟨sc 1 ++ [b], sc 1, 0, [], 1, 1⟩
  | 0x2F => ⟨sc 1, sc 1, 1, [0], 64, 1⟩
  | 0x30 => ⟨[], sc 2 ++ [b], 0, [], 0, 1⟩
  | _ => ⟨[], [], 0, [], 0, 0⟩

/-- The cost of the parts of types 0x01 to 0x27, 0x2C to 0x30 in lane clocks, from type 0x01 on. -/
def elemCosts : List Nat :=
  [4, 2, 6, 6, 8, 4, 4, 6, 4, 2, 12, 16, 40, 6, 6, 10, 4, 40, 6, 10, 10, 6, 112, 144, 12, 16, 6, 6, 10, 14, 14, 10, 8, 8, 10, 40, 10,
   8, 16, 0, 0, 0, 0, 20, 12, 2, 4, 2]

/-- The cost of a part of an element type (Table 05.1). -/
def elemCost (e p : Nat) : Nat :=
  if e = 0x28 then (if p < 8 then 10 else 12)
  else if e = 0x29 then (if p < 16 then 38 else if p < 18 then 12 else 10)
  else if e = 0x2A then 54
  else if e = 0x2B then (if p < 16 then 12 else 10)
  else nth 0 elemCosts (e - 1)

/-! ### Graph tables (R124) -/

/-- An entry of a graph table, 32 bytes; the fields that its kind gives it (Table 04.4). -/
abbrev GEntry := List Nat

/-- The entries of a table with an `h`-byte header, its EntryCount and entries of `n` bytes. -/
def tabEntries (h n count : Nat) (b : List Nat) : List (List Nat) := (List.range count).map (fun i => slice b (h + n * i) n)

/-- The entries of a graph table. -/
def graphEntries (b : List Nat) : List GEntry := if b.isEmpty then [] else tabEntries 16 32 (field b 8 2) b

def gKind (e : GEntry) : Nat := nth 0 e 0
def gExtended (e : GEntry) : Bool := (nth 0 e 1).testBit 0
def gKey (e : GEntry) : Nat := field e 2 2
/-- ElementType, InPort, OutPort: byte 4. -/
def gB4 (e : GEntry) : Nat := nth 0 e 4
/-- Rate, Channel, FromPort, TargetKind: byte 5. -/
def gB5 (e : GEntry) : Nat := nth 0 e 5
/-- Record, FromKey, Target: bytes 6 and 7. -/
def gW6 (e : GEntry) : Nat := field e 6 2
/-- Binding of a CHANNEL entry: byte 6. -/
def gBinding (e : GEntry) : Nat := nth 0 e 6
/-- Result, FifoDepth and ValueType of an EXPORT entry. -/
def gResult (e : GEntry) : Nat := field e 5 2
def gDepth (e : GEntry) : Nat := nth 0 e 7
def gValueType (e : GEntry) : Nat := nth 0 e 8
/-- Delay of a LINK entry: byte 8. -/
def gDelay (e : GEntry) : Nat := nth 0 e 8

/-- The entries of a kind. -/
def ofKind (k : Nat) (l : List GEntry) : List GEntry := l.filter (fun e => gKind e == k)

/-- The INSTANCE entry of a key. -/
def instEntry (l : List GEntry) (key : Nat) : Option GEntry := l.find? (fun e => gKind e == 1 && gKey e == key)

/-- The rate of an instance. -/
def rateOf (l : List GEntry) (key : Nat) : Nat := ((instEntry l key).map gB5).getD 0

/-! ### Schedule tables (R125) -/

/-- An entry of a schedule table, 16 bytes (Table 04.5). -/
abbrev SEntry := List Nat

def schedEntries (b : List Nat) : List SEntry := if b.isEmpty then [] else tabEntries 32 16 (field b 4 2) b
def schAnchor (b : List Nat) : Nat := nth 0 b 6
def schVertexMode (b : List Nat) : Nat := nth 0 b 7
def schLead (b : List Nat) : Nat := field b 8 2
def schCompare (b : List Nat) : Nat := field b 10 2
def schMain (b : List Nat) : Nat := max 1 (nth 0 b 12)
def schSlow (b : List Nat) : Nat := max 1 (nth 0 b 13)
def schBack (b : List Nat) : Nat := max 1 (nth 0 b 14)
def seJoist (e : SEntry) : Nat := nth 0 e 0
def seLane (e : SEntry) : Nat := nth 0 e 1
def seKey (e : SEntry) : Nat := field e 2 2
def seStart (e : SEntry) : Nat := field e 4 4
def sePeriod (e : SEntry) : Nat := max 1 (field e 8 2)
def sePhase (e : SEntry) : Nat := field e 10 2
def seCost (e : SEntry) : Nat := field e 12 2
def sePart (e : SEntry) : Nat := nth 0 e 14

/-- Fast cycles per cycle of a rate (R106). -/
def rateCycles (sch : List Nat) : Nat → Nat
  | 0 => 1
  | 1 => schMain sch
  | 2 => schMain sch * schSlow sch
  | _ => schMain sch * schSlow sch * schBack sch

/-- The hyperperiod. -/
def hyper (sch : List Nat) : Nat := rateCycles sch 3

/-! ### Slots (R127) -/

/-- The slot now active, none while no slot has yet been active (Table 04.7). -/
def State.activeSlot (s : State) : Option Nat := if s.bit 0x3000 2 30 then none else some (s.fld 0x3000 2 29 29)

/-- The tables of a slot. -/
def slotGraph (s : State) (k : Nat) : List GEntry := graphEntries (s.blob (0x3100 + k) 1)
def slotSched (s : State) (k : Nat) : List Nat := s.blob (0x3100 + k) 2

/-- The graph entries of the active slot. -/
def activeGraph (s : State) : List GEntry := match s.activeSlot with
  | some k => slotGraph s k
  | none => []

/-- The schedule table of the active slot. -/
def activeSched (s : State) : List Nat := match s.activeSlot with
  | some k => slotSched s k
  | none => []

/-- The record of an instance in a slot (R124). -/
def instRecord (k : Nat) (e : GEntry) : Nat := 0x3400 + 0x400 * (k % 2) + gW6 e % 0x400

/-- A DRIVE entry of the active slot names word w of pair p (R222). -/
def graphDrives (s : State) (p w : Nat) : Bool :=
  (activeGraph s).any (fun e => gKind e == 5 && gB5 e == 0 && gW6 e == p * 256 + w)

/-- A side runs an instance under the profile in effect (R31, Table 01.6): in SPLIT_EXTENDED by the role that it took at its last tick
(R274). -/
def runsOn (s : State) (x : Side) (extended : Bool) : Bool :=
  s.feeds x && (if s.profile = 2 then (if extended then x == .B && !(s.graph x).ctl else (s.graph x).ctl) else true)

/-- The side whose execution of an instance stands for the device's (R137): the one that serves the results; in SPLIT_EXTENDED every side
that runs the instance, since one alone does. -/
def serves (s : State) (x : Side) : Bool := s.reports x || s.profile == 2

/-! ### Instances and results -/

def Graph.instOf (g : Graph) (key : Nat) : Inst := Store.get Inst.init key g.inst
def State.modInst (s : State) (x : Side) (key : Nat) (f : Inst → Inst) : State :=
  let g := s.graph x
  s.setGraph x { g with inst := Store.mod Inst.init key f g.inst }
def Graph.result (g : Graph) (j : Nat) : Result := Store.get Result.init j g.results
def State.modResult (s : State) (x : Side) (j : Nat) (f : Result → Result) : State :=
  let g := s.graph x
  s.setGraph x { g with results := Store.mod Result.init j f g.results }

/-- The EXPORT entry of result j in the active slot. -/
def exportOf (s : State) (j : Nat) : Option GEntry := (activeGraph s).find? (fun e => gKind e == 4 && gResult e == j)

/-- The entries of a schedule with their numbers. -/
def numbered (sch : List Nat) : List (Nat × SEntry) :=
  let l := schedEntries sch
  (List.range l.length).zip l

/-- The entries due in fast cycle `idx` that a side runs. -/
def dueEntries (s : State) (x : Side) (k idx : Nat) : List (Nat × SEntry) :=
  let l := slotGraph s k
  (numbered (slotSched s k)).filter (fun p =>
    idx % sePeriod p.2 == sePhase p.2 && (match instEntry l (seKey p.2) with
      | some e => runsOn s x (gExtended e)
      | none => false))

end Sys2Proof.Machine
end

