-- ==== Sys2Proof/Machine/ArbOps.lean ====
section
/-!
DEFINITION. What arbiters, semaphores and the stack link do as time passes (R313 to R323, R330, R334): the slots decided, the semaphores
granted at the end of a ridge clock, and the C5 transactions admitted.
-/
namespace Sys2Proof.Machine

/-! ### Wheels (R313, R314) -/

/-- Ridge time was last stepped to a value beyond `r` (StepCount, LastStepTime), so that no wheel or cycle that begins at r goes on (R343). -/
def State.steppedAfter (s : State) (r : Nat) : Bool := s.num 0x7000 6 != 0 && decide (r < ofT96 (s.num 0x7000 7))

/-- The wheel length of resource r in slots, a slot in 2^-32 ns, and the resource's clock in femtoseconds (Table 11.2). -/
def wheelSlots (r : Nat) : Nat := if r ≤ 3 then 64 else 16
def slotTime (r : Nat) : Nat := if r ≤ 3 then 5 * nsR / 2 else 40 * nsR
def resClock (r : Nat) : Nat := if r ≤ 3 then clockFs else tickFs

/-- Ridge time at an instant since the last command, interpolated between the ticks of the reference. -/
def ridgeAt (s : State) (i : Nat) : Nat :=
  let inc := s.num 0x7000 2
  s.ridge - (s.now / tickFs - i / tickFs) * inc + i % tickFs * inc / tickFs

/-- Slot of resource r in its clock k, and the ridge time of its wheel's slot 0 (R314): slot 0 is the first clock at or after a whole
multiple of the wheel period, and each slot is one clock. A wheel that a step of ridge time cut into has none after the step (R343). -/
def slotAt (s : State) (r k : Nat) : Nat × Nat :=
  let rt := ridgeAt s (k * resClock r)
  let off := rt % (wheelSlots r * slotTime r)
  let inc := if r ≤ 3 then s.num 0x7000 2 / 16 else s.num 0x7000 2
  (if s.steppedAfter (rt - off) then wheelSlots r else off / inc, ridgeAt s ((k - off / inc) * resClock r))

/-- The slot table and quanta in use at resource r in a wheel whose slot 0 fell at a ridge time (R336): a committed change waits for slot 0 of
a wheel at or after its instant. -/
def tablesIn (s : State) (r start : Nat) : List Nat × Nat :=
  let new := (s.blob (0xA100 + r) 1, s.num (0xA100 + r) 2)
  match s.sharing.oldTables with
  | some (t, old) => if start < t then nth new old r else new
  | none => new

/-- The weighted classes present at a resource (Table 11.2), and every class present. -/
def weighted (r : Nat) : List Nat := if r = 2 then [2, 3, 5] else if r = 5 then [3, 4, 5] else [2, 3, 4, 5]
def classPresent (r c : Nat) : Bool := c == 0 || (c == 1 && r != 2 && r != 5) || (decide (2 ≤ c) && (weighted r).contains c)

/-- The quantum of a class of C2 to C5. -/
def quantum (q c : Nat) : Nat := q / 256 ^ (5 - c) % 256

/-! ### Requests (R319) -/

/-- The request of least requester number among those. -/
def leastReq : List Req → Option Req
  | [] => none
  | q :: qs => match leastReq qs with
    | some p => if p.who < q.who then some p else some q
    | none => some q

/-- The head of a class: the next requester in turn (R319). -/
def headOf (a : Arbiter) (l : List Req) (c : Nat) : Option Req :=
  let m := l.filter (fun q => q.cls == c)
  match leastReq (m.filter (fun q => decide (nth 0 a.turn c ≤ q.who))) with
  | some q => some q
  | none => leastReq m

/-! ### The round robin (R317, R318) -/

/-- C5 may be granted: fewer than its quantum of grants in the last wheel period of clocks (R318). -/
def c5Free (a : Arbiter) (slot w q : Nat) : Bool := decide ((a.c5.filter (fun g => decide (slot < g + w))).length < q)

/-- The class after the pointer among those present, cyclically. -/
def nextClass (l : List Nat) (c : Nat) : Nat :=
  match l.find? (fun k => decide (c < k)) with
  | some k => k
  | none => nth 0 l 0

def deficitOf (a : Arbiter) (c : Nat) : Nat := nth 0 a.deficit (c - 2)
def setDeficit (a : Arbiter) (c v : Nat) : Arbiter := { a with deficit := setNth a.deficit (c - 2) v }

/-- The loop of R317; `pass` counts the classes passed without a grantable request. -/
def robin (present : List Nat) (q : Nat) (has can : Nat → Bool) : Nat → Nat → Arbiter → Option Nat × Arbiter
  | 0, _, a => (none, a)
  | fuel + 1, pass, a =>
    let k := a.ptr
    if a.visit && decide (1 ≤ deficitOf a k) && can k then (some k, setDeficit a k (deficitOf a k - 1))
    else
      let a := { a with visit := false }
      let a := if decide (2 ≤ k) && !has k then setDeficit a k 0 else a
      let n := nextClass present k
      let a := { a with ptr := n }
      if can n then robin present q has can fuel 0 (setDeficit { a with visit := true } n (min (quantum q n) (deficitOf a n + quantum q n)))
      else if present.length ≤ pass + 1 then (none, a)
      else robin present q has can fuel (pass + 1) a

/-- The class granted in slot `pos` of resource r, in its clock k (R315, R316), and the arbiter after it. -/
def decideSlot (r k pos : Nat) (tables : List Nat × Nat) (a : Arbiter) : Option Nat × Arbiter :=
  let w := wheelSlots r
  let mark := nth 0xFF tables.1 pos
  let has := fun (c : Nat) => classPresent r c && a.reqs.any (fun p => p.cls == c)
  if r = 0 then
    if has mark then (some mark, a) else ((List.range 5).find? has, a)
  else if (mark = 0 || mark = 1) && has mark then (some mark, a)
  else
    let can := fun (c : Nat) => has c && (c != 5 || c5Free a k w (quantum tables.2 5))
    match robin (weighted r) tables.2 has can 16 0 a with
    | (some c, a') => (some c, if c = 5 then { a' with c5 := k :: a'.c5.filter (fun g => decide (k < g + w)) } else a')
    | (none, a') => if has 0 then (some 0, a') else if has 1 then (some 1, a') else (none, a')

/-- Opportunities without a request (R317): the visit ends, and every class present keeps a deficit of 0. -/
def idleArbiter (a : Arbiter) : Arbiter := { a with visit := false, deficit := [0, 0, 0, 0] }

/-! ### Slots as they pass (R316 to R323) -/

/-- The arbiter of an instance of resource r. -/
def State.arbiter (s : State) (r inst : Nat) : Arbiter := Store.get Arbiter.init (r * 65536 + inst) s.sharing.arbs
def State.setArbiter (s : State) (r inst : Nat) (a : Arbiter) : State :=
  { s with sharing := { s.sharing with arbs := Store.put Arbiter.init (r * 65536 + inst) a s.sharing.arbs } }

/-- GrantBound and WaitMax of a class. -/
def grantBound (s : State) (r c : Nat) : Nat := field (s.blob (0xA100 + r) 3) (2 * c) 2
def waitMax (s : State) (r c : Nat) : Nat := field (s.blob (0xA100 + r) 4) (2 * c) 2

/-- A head request has waited one slot more (R323): WaitMax, and, where the wait passes the bound, BoundExceeded and EV_253. -/
def measureWait (r : Nat) (q : Req) (s : State) : State :=
  let m := min (max (waitMax s r q.cls) q.waited) 65535
  let s := s.setBlob (0xA100 + r) 4 (patch (s.blob (0xA100 + r) 4) (2 * q.cls) (beBytes 2 m))
  if q.waited = grantBound s r q.cls + 1 then (s.setBitO 0xA000 1 (24 + r) true).raise 253 r q.cls q.waited else s

/-- The counter events of a grant and of a waiting slot at a resource (Table 15.8), 0 where there is none: of the die network those at the
loft alone. Destination 0 of a side's die network is its loft, destination 1 + b its bay b (log entry 29). -/
def atLoft (r inst : Nat) : Bool := r == 3 && inst / 2 == 0
def grantEvent (r inst : Nat) (write : Bool) : Nat :=
  nth 0 [0x06, 0x08, 0, if atLoft r inst then (if write then 0x0B else 0x0A) else 0, 0x41, 0x42, 0x43] r
def waitEvent (r : Nat) : Nat := nth 0 [0x07, 0x09] r
def ctrBankOf (r inst : Nat) : Nat := if r ≤ 3 then inst % 2 else 2

/-- The head of each class that is not granted waits one slot more. -/
def headsWait (r inst : Nat) (granted : Option Nat) (s : State) : State :=
  forN 6 (fun c s =>
    if granted = some c then s
    else
      let a := s.arbiter r inst
      match headOf a a.reqs c with
      | none => s
      | some q =>
        let q' := { q with waited := q.waited + 1 }
        let s := s.setArbiter r inst { a with reqs := a.reqs.map (fun p => if p = q then q' else p) }
        countReq (ctrBankOf r inst) (waitEvent r) 1 q.cls q.who none (measureWait r q' s)) s

/-- A request is granted and leaves the arbiter; a granted read of ridge time returns that of its tick (R341). Whether a loft read meets a
refresh the spec does not state (log entry 5). -/
def grantReq (r inst c : Nat) (s : State) : State :=
  let a := s.arbiter r inst
  match headOf a a.reqs c with
  | none => s
  | some q =>
    let s := s.setArbiter r inst { a with reqs := a.reqs.erase q, turn := setNth a.turn c (q.who + 1) }
    let addr := if r = 4 || r = 5 then none else some q.addr
    let s := countReq (ctrBankOf r inst) (grantEvent r inst q.write) 1 q.cls q.who addr s
    let s := if atLoft r inst && !q.write && Config.meetsRefresh inst s.ridge then countReq (ctrBankOf r inst) 0x0C 1 q.cls q.who none s else s
    s.emit 18 r
      ([c, q.who] ++ (if r = 4 then beBytes 12 (toT96 s.ridge) else []))

/-- Clock k of a resource instance, at slot `p.1` of a wheel whose slot 0 fell at `p.2`: the slot is decided among the requests presented. A clock
beyond the last slot of a wheel has none. -/
def runSlot (r inst k : Nat) (p : Nat × Nat) (s : State) : State :=
  let a := s.arbiter r inst
  if wheelSlots r ≤ p.1 then s.setArbiter r inst { a with last := k + 1 }
  else
    let (g, a) := decideSlot r k p.1 (tablesIn s r p.2) a
    let s := headsWait r inst g (s.setArbiter r inst { a with last := k + 1 })
    match g with
    | some c => grantReq r inst c s
    | none => s

/-- The slots of an instance that have passed, while requests are presented; the rest are opportunities without one. -/
def runSlots (r inst : Nat) : Nat → State → State
  | 0, s => s
  | fuel + 1, s =>
    let a := s.arbiter r inst
    let top := s.now / resClock r
    if top ≤ a.last then s
    else if a.reqs.isEmpty then s.setArbiter r inst { idleArbiter a with last := top }
    else runSlots r inst fuel (atRidge (ridgeAt s (a.last * resClock r)) (runSlot r inst a.last (slotAt s r a.last)) s)

/-- A requester is heard (R21): the lanes, capture engine and mirroring of a side that is OFF or FAILED are absent; C3 to C5 issue from the
ridge. -/
def State.heard (s : State) (cls who : Nat) : Bool :=
  decide (3 ≤ cls) || !(s.sideState (sideOf (who % 2)) == 0 || s.sideState (sideOf (who % 2)) == 4)

/-- The requests of absent requesters are gone from an arbiter. -/
def dropAbsent (r inst : Nat) (s : State) : State :=
  let a := s.arbiter r inst
  s.setArbiter r inst { a with reqs := a.reqs.filter (fun q => s.heard q.cls q.who) }

/-- The arbiters with requests presented decide the slots that have passed. -/
def dueSlots (s : State) : State :=
  s.sharing.arbs.foldl (fun s e =>
    let r := e.1 / 65536
    let inst := e.1 % 65536
    if e.2.reqs.isEmpty || decide (7 * 65536 ≤ e.1) then s
    else runSlots r inst (s.now / resClock r - e.2.last) (dropAbsent r inst s)) s

/-! ### Semaphores (R334) -/

def State.sem (s : State) (n : Nat) : Sem := Store.get Sem.init n s.sharing.sems
def State.setSem (s : State) (n : Nat) (v : Sem) : State :=
  { s with sharing := { s.sharing with sems := Store.put Sem.init n v s.sharing.sems } }

/-- The lease of a grant, 10 µs. -/
def leaseFs : Nat := usFs 10

/-- Semaphore n, free, passes at an instant to the first request waiting. Answers: 0 granted, 1 queued, 2 busy. -/
def semGrant (n i : Nat) (s : State) : State :=
  let v := s.sem n
  match v.holder, v.queue with
  | none, (c, w, _) :: rest => (countReq 2 0x44 1 c w none (s.setSem n ⟨some (c, w), i + leaseFs, rest⟩)).emit 19 n [c, w, 0]
  | _, _ => s

/-- Free semaphores whose first request arrived in a ridge clock that has passed are granted at its end, so that requests of one clock are
ordered among themselves first. -/
def dueSems (s : State) : State :=
  s.sharing.sems.foldl (fun s e =>
    let v := s.sem e.1
    let v := { v with queue := v.queue.filter (fun q => s.heard q.1 q.2.1) }
    let s := s.setSem e.1 v
    match v.holder, v.queue with
    | none, q :: _ => if q.2.2 < s.ticks then semGrant e.1 ((q.2.2 + 1) * tickFs) s else s
    | _, _ => s) s

/-! ### C5 transactions of the stack link (R330) -/

/-- The link is at a transaction boundary: a waiting C5 transaction is admitted if no C3 transaction is queued or if it has waited 1 s, at
most one in any 1 s. One that waited longer than 1 s and the C3 transaction before it exceeds its bound. -/
def admitC5 (s : State) : State :=
  let v := s.sharing
  match v.linkC5 with
  | [] => s
  | (a, who) :: rest =>
    let idle := v.linkBusy.isNone && v.link.isEmpty
    let waited := s.now - a
    if v.c5Tries.isSome || !(idle || decide (secFs 1 ≤ waited)) || (v.c5Last != 0 && decide (s.now < v.c5Last + secFs 1)) then s
    else
      let bound := secFs 1 + (if idle then 0 else s.now - v.linkSince)
      let s := { s with sharing := { v with
          linkC5 := rest.map (fun b => (max b.1 s.now, b.2)), c5Tries := some 0, c5Who := who, c5Last := s.now + 1 } }
      let s := countLink 5 s
      if !idle && decide (bound < waited) then (s.setBitO 0xA000 1 31 true).raise 253 7 5 (waited / msFs 1) else s

/-- Between commands the link is at a boundary only while no transaction is in progress. -/
def dueLink (s : State) : State := if s.sharing.linkBusy.isNone then admitC5 s else s

end Sys2Proof.Machine
end

