-- ==== Sys2Proof/Machine/Later.lean ====
section
/-!
DEFINITION. Commands that act at a stated time after their receipt, and conditions that time alone makes last: the levels of the SOUT balls
(R297 to R299), the switch of references (R359), the clock outputs (R370), the gap that a truss waits for (R373), Bad of a health report
(R283), the island's restart on the other firmware slot (R470, R473), and the restart of the device (R474).
-/
namespace Sys2Proof.Machine

/-! ### Safety outputs (R297 to R301) -/

/-- The times of a test pulse (R300), in femtoseconds: its length, and the time the readback has on either edge. -/
def pulseFs : Nat := usFs 250
def readbackFs : Nat := usFs 100

/-- The test pulse of a ball holds it low now (R300). -/
def pulsed (s : State) (ball : Nat) : Bool :=
  s.safety.testing.testBit ball && (s.safety.discarded.testBit ball || decide (s.now < Store.get 0 ball s.safety.testAt + pulseFs))

/-- The channel that drives a ball (R288): A SOUT_A_n, B SOUT_B_n. -/
def ballChannel (s : State) (ball : Nat) : Channel := if ball < 4 then s.safety.a else s.safety.b

/-- A SOUT ball is commanded high (R288, R297, R301, R454): by its own channel's Permit. -/
def soutHigh (s : State) (ball : Nat) : Bool :=
  s.ready && (ballChannel s ball).permit && s.bit 0x6800 4 (ball % 4) && !pulsed s ball && !s.safety.keptLow.testBit ball

/-- SoutLevel, the readback of the pads (R299, Table 10.5): as commanded, but for pads last read otherwise. -/
def soutLevel (s : State) : Nat :=
  forN 8 (fun b m => if if soutHigh s b then !s.safety.padLow.testBit b else s.safety.padHigh.testBit b then m + 2 ^ b else m) 0

/-- The instants from which the balls have been commanded low are kept up (R299). -/
def noteSout (s : State) : State :=
  { s with safety := { s.safety with lowFrom := forN 8 (fun b l =>
      if soutHigh s b then Store.put 0 b 0 l else if Store.get 0 b l = 0 then Store.put 0 b (s.now + 1) l else l) s.safety.lowFrom } }

/-! ### References (R358 to R361) -/

/-- AltInUse, and the faulty bits of RefStatus (Table 13.7). -/
def altInUse (s : State) : Bool := s.bit 0x7040 2 15
def refFaulty (s : State) (alt : Bool) : Bool := s.bit 0x7040 2 (if alt then 13 else 14)

/-- The ridge switches references with ridge time kept continuous (R360). -/
def switchRef (alt : Bool) (s : State) : State :=
  ((s.setBitO 0x7040 2 15 alt).setBitO 0x7040 2 2 true).raise 201 alt.toNat

/-- A reference is not the one in use: a switch to it changes references. -/
def takeRef (c : Bool × Nat) (s : State) : State :=
  if altInUse s == c.1 then s else atRidge c.2 (switchRef c.1) s

/-- A RefSwitchCommand is carried out at the first edge of its reference from its application time on (R359): a reference without edges has
none until they come back; one that is faulty by its frequency has edges all the while. -/
def refDue (s : State) (c : Bool × Nat) : Bool := decide (c.2 ≤ s.ridge) && !s.clock.refDead.testBit c.1.toNat

/-- The RefSwitchCommands due, none before ridge time `r`. -/
def dueRefs (r : Nat) (s : State) : State :=
  let l := s.clock.refCmds
  (l.filter (refDue s)).foldl (fun s c => takeRef (c.1, max r c.2) s) { s with clock := { s.clock with refCmds := l.filter (fun c => !refDue s c) } }

/-! ### Clock outputs (R370) -/

/-- An output is running (Table 13.10). -/
def clkRunning (s : State) (k : Nat) : Bool := s.bit (0x7200 + k) 2 15

/-- One command of output k falls due: a start arms the gate; a stop cancels a start held or waiting, or waits for the divider. -/
def clkOne (k : Nat) (start : Bool) (s : State) : State :=
  let c := s.clock
  if start then (if clkRunning s k then s else { s with clock := { c with clkArmed := setBit c.clkArmed k true } })
  else if c.clkArmed.testBit k then { s with clock := { c with clkArmed := setBit c.clkArmed k false } }
  else if clkRunning s k then { s with clock := { c with clkStopping := setBit c.clkStopping k true } }
  else s

/-- The commands of the outputs that have fallen due act in their order (R370). -/
def clkDue (s : State) : State :=
  let due := s.clock.clkCmds.filter (fun c => decide (c.2.2 ≤ s.ridge))
  let s := { s with clock := { s.clock with clkCmds := s.clock.clkCmds.filter (fun c => !decide (c.2.2 ≤ s.ridge)) } }
  due.foldl (fun s c => clkOne c.1 c.2.1 s) s

/-! ### Truss clocks (R372, R373) -/

/-- R372: a truss belongs on its bridge. -/
def wantBridge (s : State) : Bool := s.profile == 1 || s.profile == 3 || s.gfState == 0

/-- A truss runs on its bridge. -/
def bridged (s : State) (x : Side) : Bool := s.bit 0x7050 1 (15 - sideIx x)

/-- SwitchDeferred (Table 13.12) follows the trusses whose change is deferred. -/
def setDeferred (x : Side) (b : Bool) (s : State) : State :=
  let m := setBit s.clock.deferred (sideIx x) b
  { s with clock := { s.clock with deferred := m } }.setBitO 0x7050 1 13 (m != 0)

/-- A truss waits for a gap to change its source (R373): onto its bridge, or off it once PLL_TRUSS has declared lock. -/
def changeWanted (s : State) (x : Side) : Bool :=
  s.ready && s.powered x && (wantBridge s != bridged s x) && (wantBridge s || pllLocked s (1 + sideIx x))

/-- The instant from which a truss has waited for its gap. -/
def State.waitsSince (s : State) : Side → Option Nat
  | .A => s.clock.waitA
  | .B => s.clock.waitB
def State.setWaits (s : State) (x : Side) (v : Option Nat) : State :=
  match x with
  | .A => { s with clock := { s.clock with waitA := v } }
  | .B => { s with clock := { s.clock with waitB := v } }

/-- A PLL_TRUSS runs though its truss is on its bridge and belongs there (R372), on a side that computes: a re-initialisation restarts it
(Table 09.3). -/
def trussIdle (s : State) (x : Side) : Bool :=
  s.ready && s.feeds x && bridged s x && wantBridge s && s.bit (0x7101 + sideIx x) 3 14

/-- The wait of a truss begins or ends, with the command that has brought its condition; SwitchDeferred ends with it. A PLL_TRUSS that its
truss does not need is powered off. -/
def dueTruss (x : Side) (s : State) : State :=
  let s := if trussIdle s x then pllOff (1 + sideIx x) s else s
  if changeWanted s x then (if (s.waitsSince x).isSome then s else s.setWaits x (some s.now))
  else
    let s := s.setWaits x none
    if s.clock.deferred.testBit (sideIx x) then setDeferred x false s else s

/-! ### Bad of a health report (R283) -/

/-- Corrected errors per second above CorrectedLimit: the loft and the scratch sensor of a side (Table 17.8). -/
def rateHigh (s : State) (x : Side) : Bool :=
  let lim := L32.ofInt (s.num 0x6010 4)
  L32.lt lim (field (s.blob 0xB010 1) (4 * (32 + sideIx x)) 4) || L32.lt lim (field (s.blob 0xB010 1) (4 * (34 + sideIx x)) 4)

/-- A finding that is not fatal holds on a side (Table 09.4). -/
def badCond (s : State) (x : Side) : Bool :=
  let rt := s.sideRt x
  let o := s.sideRt (otherSide x)
  rt.spareFail || rateHigh s x || o.p1.bad || o.p2.bad || rt.linkErrs.any (fun t => decide (s.now < t + secFs 1))

/-- Bad (Table 09.6). -/
def sideBad (s : State) (x : Side) : Bool := s.bit (0x6030 + sideIx x) 1 31

/-- Bad is set while a finding holds; from its end, the instant `since` where it has ended, 1 s counts (R283). -/
def refreshBadAt (since : Nat) (x : Side) (s : State) : State :=
  let rt := s.sideRt x
  if badCond s x then (s.setBitO (0x6030 + sideIx x) 1 31 true).setSideRt x { rt with badSince := none }
  else if sideBad s x && rt.badSince.isNone then s.setSideRt x { rt with badSince := some since }
  else s
def refreshBad (x : Side) (s : State) : State := refreshBadAt s.now x s

/-- Time has run on from an instant, and the second of a side's last link error may have ended: it ended then, or with the command at that
instant (R283). -/
def dueBad (old : Nat) (x : Side) (s : State) : State :=
  refreshBadAt (((s.sideRt x).linkErrs.map (fun t => t + secFs 1)).foldl max old) x s

/-! ### The island (R470, R473) -/

/-- The open configuration set is dropped (R432): 1 ABORT, 2 session closed, 3 idle, 4 island restart. -/
def abortOpenSet (way : Nat) (s : State) : State :=
  match s.net.openSet with
  | none => s
  | some o => { s with net := { s.net with openSet := none } }.raise 231 o.id way

/-- The island restarts (R470). -/
def islandRestart (cause : Nat) (s : State) : State :=
  let s := abortOpenSet 4 { s with boot := { s.boot with islandDown := true } }
  ((s.incSat 0xB000 6).setNum 0xB000 7 cause).raise 248 cause

/-- The parts of an image, of 1 MiB each (R473). -/
def partsOf (img : List Nat) : Store (List Nat) :=
  (List.range 7).filterMap (fun k => let d := slice img (k * 1048576) 1048576; if d.isEmpty then none else some (k, d))

/-- The island restarts on the other slot, and the old slot becomes the inactive one, VERIFIED (R473). -/
def takeSlot (s : State) : State :=
  let new := s.num 0xB200 0xA
  let old := s.num 0x1000 2
  let b := s.boot
  let s := { s with boot := { b with active := 1 - b.active, parts := partsOf (if b.active = 0 then b.slotA else b.slotB) } }
  let s := (((s.setBitO 0xB200 9 31 (s.boot.active == 1)).setFld 0xB200 9 27 24 2).setNum 0xB200 0xA old).setNum 0x1000 2 new
  (islandRestart 2 s).raise 249 new

/-- A SWITCH acts at its application time (R473). -/
def dueSlot (s : State) : State :=
  match s.boot.switchAt with
  | some t => if t ≤ s.ridge then atRidge t takeSlot { s with boot := { s.boot with switchAt := none } } else s
  | none => s

/-! ### Power good and restarts (R452, R474) -/

/-- The state at power good or at a restart (R452, R474): every after-power-up value applies. -/
def powerState (cause : Nat) (railsA railsB : Bool) (s : State) : State :=
  ({ State.reset with
      pending := s.pending, now := s.now, out := s.out, freeCount := s.freeCount
      boot := { Boot.init with powerAt := s.now, railsA := railsA, railsB := railsB }
      safety := { Safety.init with lineAt := s.now } }).setFld 0xB000 1 23 20 cause

end Sys2Proof.Machine
end

