-- ==== Sys2Proof/Machine/RepairTab.lean ====
section
/-!
DEFINITION. The repair map and the units marked faulty (R463, R464), and lane mapping (R121).
-/
namespace Sys2Proof.Machine

/-- The entries of a map in the format of R463. -/
def mapEntries (b : List Nat) : List (List Nat) := (List.range (field b 4 2)).map (fun i => slice b (16 + 8 * i) 8)

/-- Every unit marked faulty: the committed RepairMap and FoundFaults (R464). -/
def faultyUnits (s : State) : List (List Nat) := mapEntries (s.blob 0xB100 1) ++ mapEntries (s.blob 0xB100 2)

/-- The 8 bytes of an entry (Table 17.6). -/
def unitBytes (kind side index sub : Nat) : List Nat := [kind, side] ++ beBytes 2 index ++ beBytes 4 sub

/-- A unit is marked faulty. -/
def unitFaulty (s : State) (kind side index sub : Nat) : Bool := (faultyUnits s).contains (unitBytes kind side index sub)

/-- A map in the format of R463 with its CRC. -/
def faultMap (s : State) (es : List (List Nat)) : List Nat :=
  let b := beBytes 4 0x52504D31 ++ beBytes 2 es.length ++ [0, 0] ++ beBytes 8 (s.num 0x1000 1) ++ es.flatten
  b ++ beBytes 4 (crc32 b)

/-- The physical lanes of a joist that are out of service (R121). -/
def lanesOut (s : State) (x joist : Nat) : List Nat := (List.range 9).filter (fun l => unitFaulty s 1 x joist l)

/-- The bays powered on a side under BaysPerSide of the profile in effect (R500). -/
def baysOn (s : State) : Nat := if s.fld 0x6000 2 9 8 = 1 then 2 else 4

/-- The logical lanes that a joist offers (R121). -/
def lanesOffered (s : State) (x joist : Nat) : Nat :=
  if baysOn s * 4 ≤ joist then 0 else min 8 (9 - (lanesOut s x joist).length)

/-- A physical lane carries a logical lane (R121): it is in service and fewer than eight lanes in service lie below it. -/
def laneUsed (s : State) (x joist lane : Nat) : Bool :=
  decide (joist < baysOn s * 4) && !(lanesOut s x joist).contains lane
    && decide (((List.range lane).filter (fun l => !(lanesOut s x joist).contains l)).length < 8)

/-- FailedLanes of a health report (Table 09.6): the physical lanes of a side out of service. -/
def failedLanes (s : State) (x : Nat) : Nat := ((List.range 16).map (fun j => (lanesOut s x j).length)).foldl (· + ·) 0

/-- The faulty rows of a loft bank. -/
def rowsOf (s : State) (x bank : Nat) : List (List Nat) :=
  ((faultyUnits s).filter (fun e => e.take 4 == [3, x] ++ beBytes 2 bank)).eraseDups

/-- A bank is out of service: marked faulty, or with more than 16 faulty rows (Table 17.7). Banks 16 and 17 are the spares. -/
def bankOut (s : State) (x bank : Nat) : Bool := unitFaulty s 2 x bank 0 || decide (16 < (rowsOf s x bank).length)
def banksOut (s : State) (x : Nat) : List Nat := (List.range 16).filter (bankOut s x)
def spareBanks (s : State) (x : Nat) : List Nat := [16, 17].filter (fun b => !bankOut s x b)

/-- The banks replaced, as far as there are spares; and the faulty rows of the banks in service, spare banks among them. -/
def banksReplaced (s : State) (x : Nat) : List Nat := (banksOut s x).take (spareBanks s x).length
def rowsOut (s : State) (x : Nat) : List (List Nat) :=
  ((List.range 16).filter (fun b => !bankOut s x b) ++ (spareBanks s x).take (banksOut s x).length).flatMap (rowsOf s x)

/-- The spare rows that are good, and the rows replaced. -/
def spareRows (s : State) (x : Nat) : Nat := 256 - ((List.range 256).filter (fun r => unitFaulty s 4 x 0 r)).length
def rowsReplaced (s : State) (x : Nat) : List (List Nat) := (rowsOut s x).take (spareRows s x)

/-- A loft has the spare banks and spare rows that it needs (R466, R467). -/
def banksSuffice (s : State) (x : Nat) : Bool := decide ((banksOut s x).length ≤ (spareBanks s x).length)
def rowsSuffice (s : State) (x : Nat) : Bool := decide ((rowsOut s x).length ≤ spareRows s x)

end Sys2Proof.Machine
end

