-- ==== Sys2Proof/Machine/TagOps.lean ====
section
/-!
DEFINITION. Random tagging of executions (R417), which follows the starts of entries as time passes.
-/
namespace Sys2Proof.Machine

/-- One step of the tagging LFSR: Galois, to the right, with mask 0x8020_0003. -/
def lfsrStep (v : Nat) : Nat := if v % 2 = 1 then v / 2 ^^^ 0x80200003 else v / 2

/-- An execution of element type `ty` starts (R417): the LFSR steps where the filter passes it, and the execution is tagged where the low
bits are zero, or skipped where a tag of its joist is not yet Readable. -/
def tagExecution (x : Side) (e : SEntry) (ty : Nat) (s : State) : State :=
  let o := 0x8210 + sideIx x
  if elemPasses (s.bit o 1 29) (s.fld o 1 28 22) ty then
    let v := lfsrStep (nth 0 s.scribe.lfsr (sideIx x))
    let s := { s with scribe := { s.scribe with lfsr := setNth s.scribe.lfsr (sideIx x) v } }
    if v % 2 ^ s.fld o 1 20 16 ≠ 0 then s
    else if s.scribe.tagPend.any (fun p => p.1 == sideIx x && nth 0 p.2.1 3 / 16 == seJoist e) then s.incSat o 6
    else
      let g := s.graph x
      let lane := ((List.range 9).filter (laneUsed s (sideIx x) (seJoist e)))[seLane e]?
      let b := beBytes 2 (seKey e) ++ [ty, seJoist e * 16 + lane.getD (seLane e), sePart e] ++ beBytes 2 g.index ++ beBytes 4 (seStart e)
      { s with scribe := { s.scribe with tagPend := s.scribe.tagPend ++ [(sideIx x, b, rNs g.tick, g.tickAt + seStart e * clockFs)] } }
  else s

/-- The entries of the present cycle of a side that have started, in the order of their lane clocks, joists and lanes. -/
def startedEntries (s : State) (x : Side) (k : Nat) : List (Nat × SEntry) :=
  let g := s.graph x
  sortOn (fun p => seStart p.2 * 4096 + seJoist p.2 * 16 + seLane p.2)
    ((dueEntries s x k g.index).filter (fun p => decide (g.tickAt + seStart p.2 * clockFs ≤ s.now)))

/-- A truss that tags takes the executions that have started since it last did. -/
def dueTags (x : Side) (s : State) : State :=
  let g := s.graph x
  match s.activeSlot with
  | some k =>
    if !s.bit (0x8210 + sideIx x) 1 31 || !g.started || s.plate.halted then s
    else
      let new := (startedEntries s x k).filter (fun p => !g.tagged.contains p.1)
      new.foldl (fun s p => match instEntry (slotGraph s k) (seKey p.2) with
        | some d => tagExecution x p.2 (gB4 d) s
        | none => s) (s.setGraph x { g with tagged := g.tagged ++ new.map (fun p => p.1) })
  | none => s

end Sys2Proof.Machine
end

