-- ==== Sys2Proof/Machine/Due.lean ====
section
/-!
DEFINITION. What acts by the passing of time alone between two commands: HistogramClear (R401), CounterCommand and counter writes (R413)
at their application times, the counters of clocks (R410), T_swap (R59), t_a (R63), the sills' clocks (R113, R224), the starts of tagged executions (R417), the time a stack is
driven (R250) and what arbiters, semaphores and the stack link do (R313 to R323, R330, R334), and the commands of Later.lean.
-/
namespace Sys2Proof.Machine

/-! ### Histograms (R398 to R401) -/

def quantIx (q : Nat) : Nat := 0x8110 + q

/-- A quantity is cleared (R401): bins, Samples, Skipped and extremes. -/
def clearQuantity (q : Nat) (s : State) : State :=
  let s := (s.setBlob (quantIx q) 4 (List.replicate 256 0)).setBlob (quantIx q) 5 (List.replicate 40 0)
  let s := ((s.setNum (quantIx q) 6 0).setNum (quantIx q) 7 0).setBitO (quantIx q) 1 29 false
  { s with scribe := { s.scribe with saturated := setBit s.scribe.saturated q false } }

/-- HistogramClear at its application time: the quantities are cleared and the firmware notes it (Table 15.4). -/
def applyClear (c : Nat × Nat) (s : State) : State :=
  atRidge c.2 (fun s => (forMask 64 c.1 clearQuantity s).fwNote 0x0104 (c.1 % 2 ^ 32) (c.1 / 2 ^ 32)) s

/-- The ridge time up to which stamped commands have taken effect. While a commit's checks run, those of the present ridge clock wait for its
end, for a set that takes effect in this clock goes before them (R431). -/
def effectiveTime (s : State) : Nat := if s.net.openSet.any (fun o => o.checking) then s.ridge - s.num 0x7000 2 else s.ridge

/-- The HistogramClear commands due at a ridge time. -/
def dueClears (r : Nat) (s : State) : State :=
  let l := s.scribe.clears
  (l.filter (fun c => decide (c.2 ≤ r))).foldl (fun s c => applyClear c s)
    { s with scribe := { s.scribe with clears := l.filter (fun c => decide (r < c.2)) } }

/-! ### Counters (R410 to R416) -/

/-- Enabled counters of the banks named: bit 0 side A, 1 side B, 2 ridge. -/
def ctrsOf (s : State) (banks : Nat) : List Nat :=
  (List.range 112).filter (fun i => banks.testBit (ctrBank i) && s.bit (ctrIx i) 1 31)

/-- What a counter command does at each kind of die, and its note: the sills and the ridge act at clocks of their own (R413). -/
def ctrParts (c : Nat × Nat × Nat) : List (Nat × Nat × Nat) :=
  if 1 ≤ c.2.1 && c.2.1 ≤ 3 then
    [(c.1, 127, c.2.1 <<< 12 ||| c.2.2), (c.1, 128 + c.2.1, c.2.2 % 4), (c.1, 128 + c.2.1, c.2.2 / 4 * 4)]
  else [c]

/-- The period of the clocks in which a part acts. -/
def ctrClock (c : Nat × Nat × Nat) : Nat :=
  if c.2.1 = 127 || (decide (128 < c.2.1) && decide (4 ≤ c.2.2)) || (decide (100 ≤ c.2.1) && decide (c.2.1 < 127)) then tickFs else clockFs

/-- The instant from which a part's effect stands: START and STOP from the beginning of their clock; a write and CLEAR from its end, for what
the counter counts in that clock is lost (R414). -/
def ctrInstant (s : State) (c : Nat × Nat × Nat) : Nat :=
  s.firstClock (ctrClock c) c.1 + (if c.2.1 = 127 || c.2.1 = 129 || c.2.1 = 130 then 0 else ctrClock c)

/-- A part at its instant: the banks named take the order and their counters start or stop, a bank is cleared, a counter is written. -/
def applyCtr (c : Nat × Nat × Nat) (s : State) : State :=
  let l := ctrsOf s c.2.2
  let v := s.scribe
  atRidge c.1 (fun s =>
    match c.2.1 with
    | 127 => s.fwNote 0x0105 c.2.2
    | 129 => { s with scribe := { v with
        running := (List.range 112).filter (fun i => v.running.contains i || l.contains i), ordered := v.ordered ||| c.2.2 } }
    | 130 => { s with scribe := { v with running := v.running.filter (fun i => !l.contains i), ordered := clearMask v.ordered c.2.2 } }
    | 131 => l.foldl (fun s i => s.setNum (ctrIx i) 5 0) s
    | i => if i - 4 < 112 then s.setNum (ctrIx (i - 4)) 5 c.2.2 else s) s

/-- Sill and ridge clocks counted from one instant to another (events 0x01 and 0x40): a sill's while its clock runs, with the clocks of its
truss's lanes awake (0x03) at the counters without an element class filter (log entry 18). -/
def countClocks (a b : Nat) (s : State) : State :=
  let sill := fun (x : Side) (s : State) =>
    if s.powered x && !(s.sideRt x).clockStopped then
      let n := b / clockFs - a / clockFs
      let s := countEvent (sideIx x) 0x01 n 0 s
      countIf (sideIx x) 0x03 (n * (s.graph x).awake.length) (fun s i => s.fld (ctrIx i) 1 22 16 == 0) s
    else s
  countEvent 2 0x40 (b / tickFs - a / tickFs) 0 (sill .B (sill .A s))

/-- The clocks from one instant to another; a flag set before the present ridge clock is not one of this clock (R12). -/
def passClocks (a b : Nat) (s : State) : State :=
  let tick := s.now / tickFs * tickFs
  if tick ≤ a then countClocks a b s
  else countClocks (max a (tick - 1)) b { countClocks a (min b (tick - 1)) s with fresh := s.fresh }

/-- From an instant on to now, the parts due act in the order of their instants, with the clocks counted between them. -/
def dueCounters (start : Nat) (s : State) : State :=
  let l := s.scribe.ctrCmds.flatMap ctrParts
  let inst := ctrInstant s
  let due := fun (c : Nat × Nat × Nat) => decide (inst c ≤ s.now) && decide (c.1 ≤ effectiveTime s)
  let s := { s with scribe := { s.scribe with ctrCmds := l.filter (fun c => !due c) } }
  let p := (sortOn inst (l.filter due)).foldl (fun (p : Nat × State) c =>
    let i := max p.1 (inst c - 1)
    (i, applyCtr c (passClocks p.1 i p.2))) (start, s)
  passClocks p.1 p.2.now p.2

/-- What a sill's clock brings on both sides. -/
def dueSills (s : State) : State := dueTags .B (dueTags .A (dueTorn .B (dueTorn .A (dueCommits .B (dueCommits .A s)))))

/-- The heartbeats that a side has sent between two ridge times (R264). -/
def sendBeats (r : Nat) (x : Side) (s : State) : State :=
  let n := s.ridge / rns 500 - r / rns 500
  if s.ready && s.feeds x && n != 0 then s.setSideRt x { s.sideRt x with beatSeq := ((s.sideRt x).beatSeq + n) % 65536 } else s

/-- Time runs to an instant, and with it the stacks' driven time, the heartbeats sent and the second of the link errors. -/
def State.passTime (s : State) (t : Nat) : State :=
  let s' := s.advance t
  dueBad s.now .B (dueBad s.now .A (sendBeats s.ridge .B (sendBeats s.ridge .A (driveStacks (s'.ridge - s.ridge) s'))))

/-- What falls due by time alone up to an instant has acted. -/
def State.passed (s : State) (t : Nat) : State :=
  let s := dueTruss .B (dueTruss .A (if sameClock s.now t then s else dueFrozen s))
  let s' := dueCounters s.now ((noteSout s).passTime t)
  noteSout <| dueSlot (clkDue (dueRefs 0 (dueLink (dueSems (dueSlots (judgeAlign (sweepSwaps s.ridge (dueSills (dueClears (effectiveTime s') s')))))))))

/-- The state at a command's instant: time has run, and what fell due in between has acted, an accepted RESTART among it (R474). -/
def State.arrive (s : State) (t : Nat) : State :=
  let s := { s with out := [] }
  match s.boot.restartAt with
  | some r => if r ≤ t then (powerState 2 true true (s.passed r)).passed t else s.passed t
  | none => s.passed t

end Sys2Proof.Machine
end

