-- ==== Sys2Proof/Machine/Run.lean ====
section
/-!
DEFINITION. The frame of every command: time runs to the command's instant, the command's effect takes place, and the output plate,
which is combinational (R226, R227, R230), takes the conditions that now hold.
-/
namespace Sys2Proof.Machine

/-- The frame of a command: time runs to its instant; where its operands are well formed its effect `f` takes place; the plate settles;
the queue is left as it was. An ill-formed command only lets time pass (log entry 3). -/
def run (c : Instr) (f : State → State) (s : State) : Host.Outcome State Fault Refusal :=
  let s1 := s.arrive c.time
  let s2 := (if c.wf then f s1 else s1).reportLate
  .next { s2.settle with pending := s.pending }

end Sys2Proof.Machine
end

