-- ==== Sys2Proof/Machine/StackOps.lean ====
section
/-!
DEFINITION. The stacks' RAM account and the queue of the stack link (R241 to R253, R330), shared by every family that queues a write.
-/
namespace Sys2Proof.Machine

/-- LegCount and SpareLeg of the identity block of stack k (Table 08.2). -/
def legCount (s : State) (k : Nat) : Nat := nth 0 (s.blob (0x9010 + k) 2) 40
def spareLeg (s : State) (k : Nat) : Nat := nth 0xFF (s.blob (0x9010 + k) 2) 41

/-- LegState of a leg (Table 08.3). -/
def legState (s : State) (k r : Nat) : Nat := nth 0xFF (s.blob (0x9010 + k) 7) r

/-- The 64 bytes of a position in a life copy (Table 08.3). -/
def lifePosition (s : State) (k i : Nat) : List Nat :=
  beBytes 8 (field (s.blob (0x9010 + k) 6) (8 * i) 8) ++ beBytes 4 (nth 0 (s.stack k).tjPeak i) ++ List.replicate 52 0

/-- The life copy of stack k as it is written (Table 08.3), with its Generation. -/
def lifeCopy (s : State) (k gen : Nat) : List Nat :=
  let st := s.stack k
  let head := beBytes 4 0x50534C31 ++ beBytes 4 gen ++ beBytes 4 (s.num (0x9010 + k) 4) ++ beBytes 4 (satInc 32 st.writeCount)
    ++ (s.blob (0x9010 + k) 7).take 8 ++ st.spareFor ++ beBytes 4 (field (s.blob (0x9010 + k) 2) 252 4) ++ List.replicate 216 0
  let body := (List.range 16).flatMap (lifePosition s k) ++ s.blob (0x9010 + k) 8
  head ++ beBytes 4 (crc32 (head ++ body)) ++ body

/-- The order in which the link takes its queue (R252): writes due at SAFE_STOP in stack order, then the others as they came. -/
def linkPick (q : List (Nat × Nat)) : Option (Nat × Nat) :=
  match (List.range 16).find? (fun k => q.contains (1, k)) with
  | some k => some (1, k)
  | none => q.head?

/-- The account that INIT_RECORD writes (R245): zero counts and zero life, every leg IN_SERVICE and SpareLeg SPARE_IDLE. -/
def initAccount (k : Nat) (s : State) : State :=
  let n := legCount s k
  let st := (List.range 8).map (fun r => if n ≤ r then 0xFF else if r = spareLeg s k then 3 else 0)
  let i := 0x9010 + k
  let s := ((s.setBlob i 6 (List.replicate 128 0)).setBlob i 7 st).setBlob i 8 (List.replicate (4096 * n) 0)
  s.setStack k { s.stack k with spareFor := List.replicate 8 0xFF, tjPeak := List.replicate 16 0 }

/-- A life-record write that may not be made (R253): WriteFail and EV_180. -/
def writeFail (k : Nat) (s : State) : State := (s.setBitO (0x9010 + k) 3 2 true).raise 180 k

/-- The next reads or writes of the link start where none is in progress; a write takes its snapshot (R251), fails where the write seal
switch is open (R253), and is not made of a record that is no longer valid (R245). -/
def linkKickGo : Nat → State → State
  | 0, s => s
  | fuel + 1, s =>
    if s.sharing.c5Tries.isSome then s
    else match s.sharing.linkBusy, linkPick (s.sharing.link.filter (fun e => decide (e.2 < 16))) with
    | none, some (op, k) =>
      let s := { s with sharing := { s.sharing with link := s.sharing.link.erase (op, k) } }
      let st := s.stack k
      let busy := countLink 3 { s with sharing := { s.sharing with linkBusy := some (op, k), linkSince := s.now, linkTx := 0 } }
      if op = 0 then (busy.setBitO (0x9010 + k) 3 14 true).setStack k { st with attempts := 0 }
      else if op != 3 && !stackValid s k then linkKickGo fuel s
      else if !s.permission 7 then linkKickGo fuel (writeFail k s)
      else
        let copy := if op = 3 then lifeCopy (initAccount k s) k 0 else lifeCopy s k ((s.num (0x9010 + k) 5 + 1) % 2 ^ 32)
        (busy.setBitO (0x9010 + k) 3 13 true).setStack k { st with attempts := 0, snapshot := copy }
    | _, _ => s

/-- The link is at a boundary: a C5 transaction may be admitted (R330), and the next read or write starts where none is in progress. -/
def linkKick (s : State) : State := linkKickGo 64 (dueLink s)

/-- The C5 transaction that holds the link ends, and the link goes on (R330). -/
def c5Done (s : State) : State := linkKick { s with sharing := { s.sharing with c5Tries := none, linkSince := s.now } }

/-- The pages of a life copy of stack k (R243, R251). -/
def lifePages (s : State) (k : Nat) : Nat := 5 + 16 * legCount s k

/-- The C3 transactions queued (R330): every page of a write that waits or is in progress, but for the one on the bus. DESIGN CHOICE (log entry
29): a read that waits counts once, for its transactions are not stated. -/
def linkQueued (s : State) : Nat :=
  let size := fun (e : Nat × Nat) => if e.1 = 0 then 1 else lifePages s e.2
  s.sharing.link.foldl (fun n e => n + size e) (s.sharing.linkBusy.elim 0 (fun e => size e - 1 - s.sharing.linkTx))

/-- The read or write in progress ends, and the next one starts. -/
def linkDone (s : State) : State :=
  match s.sharing.linkBusy with
  | none => s
  | some (_, k) =>
    let s := { s with sharing := { s.sharing with linkBusy := none } }
    linkKick (if k < 16 then (s.setBitO (0x9010 + k) 3 14 false).setBitO (0x9010 + k) 3 13 false else s)

/-- A read of stack k is queued once. -/
def queueRead (k : Nat) (s : State) : State :=
  if s.sharing.link.contains (0, k) then s
  else linkKick { s with sharing := { s.sharing with link := s.sharing.link ++ [(0, k)] } }

/-- A life-record write of stack k falls due (R251 to R253): a stack without a valid record is not written; with the write seal switch
open it fails; a stack already queued is not queued twice, and a write due at SAFE_STOP takes precedence. -/
def queueWrite (safe : Bool) (k : Nat) (s : State) : State :=
  if !stackValid s k then s
  else if !s.permission 7 then writeFail k s
  else
    let op := if safe then 1 else 2
    let q := s.sharing.link
    let q := if q.contains (1, k) then q else if q.contains (2, k) then q.map (fun e => if e = (2, k) then (op, k) else e)
      else q ++ [(op, k)]
    linkKick { s with sharing := { s.sharing with link := q } }

/-- The life record of every stack is queued at an entry to SAFE_STOP (R251). -/
def queueAllLife (s : State) : State := forMask 16 (s.num 0x9000 1) (queueWrite true) s

end Sys2Proof.Machine
end

