-- ==== Sys2Proof/Machine/Sot.lean ====
section
/-!
DEFINITION. Messages of the Salval Object Transport as the device sends them (R434, Tables 16.5 and 16.6).
-/
namespace Sys2Proof.Machine

/-- A whole message: header, body and Mac; with no key the Mac is 32 zero bytes. -/
def sotBytes (key : List Nat) (type sid seq time ref : Nat) (body : List Nat) : List Nat :=
  let m := beBytes 2 0x5356 ++ [1, type] ++ beBytes 2 sid ++ beBytes 2 body.length ++ beBytes 4 seq ++ beBytes 12 time ++ beBytes 4 ref
    ++ body
  m ++ (if key.isEmpty then List.replicate 32 0 else hmac key m)

/-- A frame on each port served: what frames it there, with PcpSot (R433 gives it to SOT and ARP; ICMP and supervision frames take it too,
log entry 19). -/
def portFrames (s : State) : List Out :=
  ((List.range 2).filter (portServed s)).map (fun p => ⟨21, p, frameTag s (s.fld 0x1010 5 10 8) p⟩)

/-- The frames on a port and waiting for it: the instants at which they end. -/
def lineOf (s : State) (port : Nat) : List Nat := (nth [] s.net.lines port).filter (fun e => decide (s.now < e))

/-- A frame of `len` bytes takes its time on a port, behind the frames before it: at 1000 Mb/s, with preamble and gap (log entry 19). -/
def takeLineTime (port len : Nat) (s : State) : State :=
  let l := lineOf s port
  { s with net := { s.net with lines := setNth s.net.lines port (l ++ [l.foldl max s.now + nsFs (8 * (len + 20))]) } }

/-- A frame of `len` bytes leaves on both ports under one redundancy sequence number (R278); the counters of frames sent count it on the
ports served. -/
def State.frameOut (s : State) (len : Nat) : State :=
  let s := { s with net := { s.net with redSeq := (s.net.redSeq + 1) % 65536 } }
  let s := { s with out := s.out ++ portFrames s }
  forN 2 (fun p s => if portServed s p then countEvent p 0x13 1 0 (takeLineTime p len s) else s) s

/-- A message goes out: to the host of its session, while a port is served (R278), or to the boot port, where it waits for FETCH (R436,
R441). `kind` is 8, or 9 for a STREAM message; `dest` is the SessionId, or 2^32 · path + IPv4 where there is no session. -/
def State.sendSot (s : State) (kind dest : Nat) (boot : Bool) (m : List Nat) : State :=
  if boot then { s with net := { s.net with bootQueue := s.net.bootQueue ++ [m] } }
  else if anyPort s then (s.emit kind dest m).frameOut (m.length + 46)
  else s

/-- A message of an open session, under its next Sequence (R443). -/
def State.sendSession (s : State) (kind type sid ref : Nat) (body : List Nat) : State :=
  match Store.find sid s.net.sessions with
  | none => s
  | some ses =>
    let n := ses.outSeq + 1
    let s := { s with net := { s.net with sessions := Store.put Session.init sid { ses with outSeq := n } s.net.sessions } }
    s.sendSot kind sid (ses.path == 1) (sotBytes ses.key type sid n (toT96 s.ridge) ref body)

/-- The session of a reader: the boot port's, or the reader's own. -/
def State.sessionOf (s : State) (r : Nat) : Option Nat :=
  (s.net.sessions.find? (fun p => readerOf p.1 p.2 == r)).map (fun p => p.1)

end Sys2Proof.Machine
end

