-- ==== Sys2Proof/Machine/Time.lean ====
section
/-!
DEFINITION. Ridge time and precision time (chapter 12): Increment, steps, the servo, holdover, the PTP ports, pulses and the calendar.
Offsets and delays are in 2^-16 ns, ridge time in 2^-32 ns.
-/
namespace Sys2Proof.Machine

/-! ### Configuration and status -/

def State.timeRole (s : State) : Nat := s.fld 0x7010 1 31 29
def State.timeSource (s : State) : Nat := s.fld 0x7010 1 27 26
def State.synced (s : State) : Bool := s.bit 0x7000 5 31
def State.holdover (s : State) : Bool := s.bit 0x7000 5 30
def portState (s : State) (x : Nat) : Nat := s.num (0x7028 + x) 1
def portHold (s : State) (x : Nat) : Bool := s.bit (0x7028 + x) 2 14
def portSuspect (s : State) (x : Nat) : Bool := s.bit (0x7028 + x) 2 15
def State.ptpPort (s : State) (x : Nat) : PtpPort := Store.get PtpPort.init x s.ptp
def State.setPtpPort (s : State) (x : Nat) (p : PtpPort) : State := { s with ptp := Store.put PtpPort.init x p s.ptp }

/-- Port x belongs to the sill of side x; it sends and receives while its side is in service or SUSPECT (R278, Table 09.1). -/
def portUp (s : State) (x : Nat) : Bool := s.feeds (sideOf x)

/-- The servo port: the port chosen, else that of the side IN_CONTROL (R349). -/
def servoPort (s : State) : Nat :=
  match s.clock.servoPort with
  | some b => b.toNat
  | none => match s.control with
    | some x => sideIx x
    | none => 0

/-- A port delivers usable Syncs (R350): its side serves it, it is a SLAVE with a master, neither suspect nor in hold. -/
def portUsable (s : State) (x : Nat) : Bool :=
  portUp s x && portState s x == 9 && s.bit (0x7028 + x) 2 13 && !portSuspect s x && !portHold s x

/-- The grandmaster a port follows. -/
def portGm (s : State) (x : Nat) : Option Nat := ((s.ptpPort x).master).bind (fun m => m[0]?)

/-- The other port can take the servo (R350): it is usable, with the grandmaster that the servo port follows, or followed until it lost its
master. -/
def otherCanServe (s : State) : Bool :=
  let x := servoPort s
  portUsable s (1 - x) && portGm s (1 - x) == (s.ptpPort x).gm

/-- Every write of Increment is refused while the servo port is in path-step hold and the servo cannot move (R353). -/
def incHeld (s : State) : Bool := portHold s (servoPort s) && !otherCanServe s

/-- A port changes its state: EV_197 (Table 12.14). -/
def setPortState (s : State) (x v : Nat) : State :=
  if portState s x = v then s else (s.setNum (0x7028 + x) 1 v).raise 197 x v

/-- Synchronised set or cleared: a change raises EV_198 (R347). -/
def setSynced (s : State) (b : Bool) : State :=
  if s.synced = b then s
  else
    let s := (s.setBitO 0x7000 5 31 b).raise 198 b.toNat
    if b then { s with clock := { s.clock with servoPort := some (servoPort s == 1) } } else s

/-! ### Increment (R340) -/

/-- Increment lies within 40 ns ± 500 ppm. -/
def incInRange (v : Nat) : Bool := decide (3998 * 2 ^ 32 ≤ v * 100) && decide (v * 100 ≤ 4002 * 2 ^ 32)

/-- A host write of Increment is refused. -/
def incRefused (s : State) (v : Nat) : Bool := !incInRange v || !s.bit 0x7010 1 25 || incHeld s

/-- A host write of Increment (R340): it takes effect at the next tick, or is refused with EV_200. -/
def writeIncrement (v : Nat) (s : State) : State :=
  if incRefused s v then (s.setBitO 0x7000 5 2 true).raise 200 1 else s.setNum 0x7000 2 v

/-! ### Steps (R342, R343) -/

/-- A step is allowed: stopped, no coherent start armed, no timed start pending in a sill that computes, no alignment at a named time pending, no
port in path-step hold. -/
def stepAllowed (s : State) : Bool :=
  let timed := fun (x : Side) => s.feeds x && (s.sill x).carriers.any (fun e =>
    e.2.starts.any (fun p => p.2 && (decide (s.ridge < p.1) || s.startPending x e.1)))
  s.stopped && !s.bit 0x4001 3 5 && !timed .A && !timed .B
    && !s.meas.aligns.any (fun a => a.explicit && decide (s.ridgeFine < a.ta)) && !portHold s 0 && !portHold s 1

/-- A step request: accepted and left to act at its tick, or refused with EV_200, StepRefused (R342) and IncrementRefused (R340). -/
def requestStep (set : Bool) (v : Int) (s : State) : State :=
  if stepAllowed s then { s with clock := { s.clock with steps := s.clock.steps ++ [(set, v, s.ridge)] } }
  else ((s.setBitO 0x7000 5 1 true).setBitO 0x7000 5 2 true).raise 200 2

/-- A ridge instant moved by a step. -/
def mv (d : Int) (x : Nat) : Nat := ((x : Int) + d).toNat

/-- Pending instance commands moved by a step. -/
def mvGraph (d : Int) (g : Graph) : Graph :=
  { g with cmds := g.cmds.map (fun c => (c.1, c.2.1, mv d c.2.2)) }

/-- Starts stamped receipt + 2000 ns moved by a step; a step is refused while one that names its time waits. -/
def mvSill (d : Int) (l : Sill) : Sill :=
  { l with carriers := l.carriers.map (fun e =>
      (e.1, { e.2 with starts := e.2.starts.map (fun p => if p.2 then p else (mv d p.1, p.2)) })) }

/-- Every stamped application time is moved by Δ, so that it falls due 2000 ns after its receipt; the angle lines of ROTOR and GRID
domains are moved; missing-heartbeat counts are reset; the time since LastTransition is a duration and stays (R343). -/
def mvStamped (d : Int) (s : State) : State :=
  let gr := s.graphs
  let gr := { gr with
    a := mvGraph d gr.a
    b := mvGraph d gr.b
    switch := gr.switch.map (fun p => (p.1, mv d p.2))
    swaps := gr.swaps.map (fun p => (p.1, mv d p.2))
    shares := gr.shares.map (fun p => (p.1, mv d p.2.1, p.2.2)) }
  let pl := s.plate
  let pl := { pl with
    a := mvSill d pl.a
    b := mvSill d pl.b
    waiting := pl.waiting.map (fun w => { w with due := mv d w.due })
    pendingMaps := pl.pendingMaps.map (fun p => (p.1, mv d p.2.1, p.2.2)) }
  let me := s.meas
  let me := { me with
    swaps := me.swaps.map (fun p => (p.1, { p.2 with tSwap := mv d p.2.tSwap }))
    arcs := me.arcs.map (fun p =>
      (p.1, if p.2.src ≤ 1 then { p.2 with line := p.2.line.map (fun l => { l with t := mv d l.t }) } else p.2))
    aligns := me.aligns.map (fun a => if a.explicit || a.ta ≤ s.ridge then a else { a with ta := mv d a.ta }) }
  let clear := fun (b : Beat) => { b with missing := 0, slot := 0 }
  let side := fun (x : SideRt) => { x with p1 := clear x.p1, p2 := clear x.p2 }
  { s with
    graphs := gr
    plate := pl
    meas := me
    gf := { s.gf with cmd := s.gf.cmd.map (fun c => (c.1, c.2.1, mv d c.2.2)), shift := s.gf.shift + d }
    net := { s.net with nextReceipt := mv d s.net.nextReceipt }
    scribe := { s.scribe with
      clears := s.scribe.clears.map (fun p => (p.1, mv d p.2))
      ctrCmds := s.scribe.ctrCmds.map (fun p => (mv d p.1, p.2)) }
    capture := { s.capture with engines := s.capture.engines.map (fun p =>
      (p.1, { p.2 with armAt := p.2.armAt.map (mv d), trigs := p.2.trigs.map (mv d), halveAt := p.2.halveAt.map (mv d) })) }
    clock := { s.clock with
      clkCmds := s.clock.clkCmds.map (fun p => (p.1, p.2.1, mv d p.2.2))
      refCmds := s.clock.refCmds.map (fun p => (p.1, mv d p.2))
      steps := s.clock.steps.map (fun p => (p.1, p.2.1, mv d p.2.2)) }
    sharing := { s.sharing with oldTables := s.sharing.oldTables.map (fun p => (mv d p.1, p.2)) }
    stk := s.stk.map (fun p => (p.1, { p.2 with bring := p.2.bring.map (fun b => { b with appTime := mv d b.appTime }) }))
    boot := { s.boot with switchAt := s.boot.switchAt.map (mv d) }
    sides := { s.sides with a := side s.sides.a, b := side s.sides.b } }

/-- Ridge time counts modulo 2^48 seconds (R8). -/
def ridgeMod : Nat := 2 ^ 48 * 1000000000 * nsR

/-- An accepted step acts (R342): ridge time moves, StepCount, LastStepTime and EV_192. -/
def stepOne (c : Bool × Int × Nat) (s : State) : State :=
  let new : Int := if c.1 then c.2.1 + ((s.ridge : Int) - c.2.2) else (s.ridge : Int) + c.2.1
  let new := (new % (ridgeMod : Int)).toNat
  let d : Int := (new : Int) - s.ridge
  let s := mvStamped d { s with ridge := new, clock := { s.clock with lastWhole := rSecs new } }
  let w := ofInt 64 (d / 65536)
  ((s.incSat 0x7000 6).setNum 0x7000 7 (toT96 new)).raise 192 (w >>> 32) (w % 2 ^ 32)

/-! ### The servo (R344 to R346) -/

/-- The bound of R345 on i, 500 000, in F64. -/
def servoBound : Nat := D64.ofInt 500000

/-- F64 clamped to ± a bound. -/
def clampF64 (b x : Nat) : Nat := if D64.lt x (D64.neg b) then D64.neg b else if D64.lt b x then b else x

/-- Increment from y in ppb (R345): 40 ns (1 − y 10^-9), held within ± 500 ppm, in 2^-32 ns. -/
def servoIncrement (y : Nat) : Nat :=
  let d := D64.toDy y
  let e := d.e.toNat
  let k := (-d.e).toNat
  let num : Int := 40 * 2 ^ 32 * (1000000000 * 2 ^ k - d.m * ((2 ^ e : Nat) : Int))
  let v := convDiv num (1000000000 * 2 ^ k)
  (clampI (convDiv (3998 * 2 ^ 32) 100) (convDiv (4002 * 2 ^ 32) 100) v).toNat

/-- The firmware servo at an offset o (R345). -/
def servoStep (o : Int) (s : State) : State :=
  if decide ((s.num 0x7010 4 : Int) * 65536 < o.natAbs) && stepAllowed s then
    { s with clock := { s.clock with steps := s.clock.steps ++ [(false, -o * 65536, s.ridge)], servoI := 0 } }
  else
    let o64 := D64.ofScaled o (-16)
    let i := clampF64 servoBound (D64.add s.clock.servoI (D64.mul (D64.of32 (s.num 0x7010 3)) o64))
    let y := D64.add (D64.mul (D64.of32 (s.num 0x7010 2)) o64) i
    { s with clock := { s.clock with servoI := i } }.setNum 0x7000 2 (servoIncrement y)

/-- Synchronised follows the offsets used (Table 12.1): set at the eighth within ±SyncThreshold, cleared by one outside. -/
def judgeSync (o : Int) (s : State) : State :=
  if decide ((o.natAbs : Int) ≤ (s.num 0x7010 5 : Int) * 65536) then
    let g := min 8 (s.clock.good + 1)
    let s := { s with clock := { s.clock with good := g } }
    if g = 8 then setSynced s true else s
  else setSynced { s with clock := { s.clock with good := 0 } } false

/-- An offset is used: holdover ends (EV_194), the firmware servo acts, Synchronised is judged. -/
def useOffset (o : Int) (s : State) : State :=
  let s := if s.holdover then (s.setBitO 0x7000 5 30 false).raise 194 else s
  let s := if !s.bit 0x7010 1 25 && !s.boot.islandDown then servoStep o s else s
  judgeSync o s

/-- Holdover begins (R346): 1 PTP, 2 PPS_IN, 3 path step. -/
def beginHoldover (cause : Nat) (s : State) : State :=
  if s.holdover then s
  else
    let s := ((s.setBitO 0x7000 5 30 true).setBitO 0x7000 5 0 true).setNum 0x7000 8 (toT96 s.ridge)
    { s with clock := { s.clock with holdAt := s.now } }.raise 193 cause

/-- Where the servo port is no longer usable and the other port cannot take the servo, holdover begins (R346, R350). -/
def checkHoldover (cause : Nat) (s : State) : State :=
  if s.timeSource == 1 && !portUsable s (servoPort s) && !otherCanServe s then beginHoldover cause s else s

/-! ### PTP ports (R348 to R353) -/

/-- The port becomes suspect (R352). -/
def enterSuspect (x : Nat) (d : List Int) (s : State) : State :=
  if portSuspect s x then s
  else
    let s := (s.setBitO (0x7028 + x) 2 15 true).setBitO (0x7028 + x) 2 0 true
    s.setPtpPort x { s.ptpPort x with sinceSuspect := d, inMeas := false, inOff := false }

/-- Suspect ends at the first measurement and the first offset that again lie within the threshold (R352). -/
def leaveSuspect (x : Nat) (s : State) : State :=
  let p := s.ptpPort x
  if portSuspect s x && p.inMeas && p.inOff && !portHold s x then s.setBitO (0x7028 + x) 2 15 false else s

/-- The mean of measurements, in whole 2^-16 ns. -/
def meanOf (l : List Int) : Int := convDiv (l.foldl (· + ·) 0) (max 1 l.length)

/-- The last `n` of a list. -/
def lastN {α : Type} (n : Nat) (l : List α) : List α := l.drop (l.length - n)

/-- Path-step hold ends with a held value (R353): 1 settled, 2 confirmed. The port's offsets are usable again: the next is no jump from one
formed with the old value. -/
def endPathHold (x way : Nat) (held : Int) (s : State) : State :=
  let p := s.ptpPort x
  let s := ((s.setBitO (0x7028 + x) 2 14 false).setBitO (0x7028 + x) 2 15 false).setNum (0x7028 + x) 3 (ofInt 64 held)
  (s.setPtpPort x { p with meas := lastN 16 p.sinceSuspect, sinceSuspect := [], lastOff := none, beyond := 0, inMeas := false
                           inOff := false }).raise 196 x way

/-- The threshold of path steps of a port. -/
def stepThreshold (s : State) (x : Nat) : Int := (s.num (0x7028 + x) 8 : Int) * 65536

/-- A path-delay measurement of a SLAVE port (R352, R353). -/
def pathMeasure (x : Nat) (d : Int) (s : State) : State :=
  let p := s.ptpPort x
  let held := sx 64 (s.num (0x7028 + x) 3)
  let out := !p.meas.isEmpty && decide (stepThreshold s x < (d - held).natAbs)
  if portHold s x then
    let p := { p with sinceSuspect := p.sinceSuspect ++ [d] }
    let s := s.setPtpPort x p
    let l := lastN 16 p.sinceSuspect
    let m := meanOf l
    let band : Int := (s.num (0x7028 + x) 9 : Int) * 65536
    if l.length = 16 && l.all (fun v => decide (((v - m).natAbs : Int) ≤ band)) then endPathHold x 1 m s else s
  else if out then
    let s := if portSuspect s x then s.setPtpPort x { p with sinceSuspect := p.sinceSuspect ++ [d] } else enterSuspect x [d] s
    let s := s.setPtpPort x { s.ptpPort x with beyond := p.beyond + 1 }
    if p.beyond + 1 = 3 then
      let s := ((s.setBitO (0x7028 + x) 2 14 true).setBitO (0x7028 + x) 2 1 true).raise 195 x
      checkHoldover (if x = servoPort s then 3 else 1) s
    else checkHoldover 1 s
  else if portSuspect s x then
    leaveSuspect x (s.setPtpPort x { p with beyond := 0, inMeas := true, sinceSuspect := p.sinceSuspect ++ [d] })
  else
    let ms := lastN 16 (p.meas ++ [d])
    (s.setPtpPort x { p with beyond := 0, meas := ms }).setNum (0x7028 + x) 3 (ofInt 64 (meanOf ms))

/-- A path-delay measurement at a port that is no SLAVE, by the peer-to-peer mechanism (R351, R352): the meanLinkDelay it holds is the mean of
the last 16. -/
def linkMeasure (x : Nat) (d : Int) (s : State) : State :=
  let p := s.ptpPort x
  let ms := lastN 16 (p.meas ++ [d])
  (s.setPtpPort x { p with meas := ms }).setNum (0x7028 + x) 3 (ofInt 64 (meanOf ms))

/-- The offset of a Sync (R344), the ingress latency added to its time of arrival (R351). -/
def syncOffset (s : State) (x t1 t2 corr : Nat) : Int :=
  ((ofT96 t2 / 65536 : Nat) : Int) + sx 32 (s.num (0x7028 + x) 5) - ((ofT96 t1 / 65536 : Nat) : Int) - sx 64 (s.num (0x7028 + x) 3)
    - sx 32 (s.num (0x7028 + x) 4) - sx 64 corr

/-- A Sync at a slave port: its offset is judged (R352), the servo may move to this port (R350), and the servo port's offset is
published (R344) and used. -/
def takeSync (x : Nat) (o : Int) (s : State) : State :=
  let p := s.ptpPort x
  let jump := match p.lastOff with
    | some v => decide (stepThreshold s x < (o - v).natAbs)
    | none => false
  let was := portSuspect s x
  let s := s.setPtpPort x { p with lastOff := some o, missed := 0, inOff := p.inOff || (was && !jump) }
  let s := if jump then enterSuspect x [] s else leaveSuspect x s
  let x0 := servoPort s
  let s := if x ≠ x0 && s.timeSource == 1 && !portUsable s x0 && otherCanServe s then
      { s with clock := { s.clock with servoPort := some (x == 1) } }.raise 199 x
    else s
  if x = servoPort s && s.timeSource == 1 then
    let s := (s.setNum 0x7010 7 (ofInt 64 o)).incWrap 0x7010 8
    let s := match portGm s x with
      | some g => s.setNum 0x7020 7 g
      | none => s
    if portUsable s x then useOffset o s else checkHoldover 1 s
  else if jump then checkHoldover 1 s
  else s

/-- The order of two data sets under the default BMCA (R349): lower is better, by grandmaster fields, then by steps and sender. Fields:
identity, priority1, class, accuracy, variance, priority2, steps, sender. -/
def dsBetter (a b : List Nat) : Bool :=
  let key := fun (l : List Nat) => if nth 0 a 0 = nth 0 b 0 then [nth 0 l 6, nth 0 l 7]
    else [nth 0 l 1, nth 0 l 2, nth 0 l 3, nth 0 l 4, nth 0 l 5, nth 0 l 0]
  let rec lt : List Nat → List Nat → Bool
    | x :: xs, y :: ys => decide (x < y) || (x == y && lt xs ys)
    | _, _ => false
  lt (key a) (key b)

/-- The device's own data set (Table 12.9). -/
def ownDs (s : State) : List Nat :=
  [s.num 0x7020 1, s.num 0x7020 2, s.num 0x7020 4, s.num 0x7020 5, s.num 0x7020 6, s.num 0x7020 3, 0, s.num 0x7020 1]

/-- The state the BMCA gives a port of a BOUNDARY clock (R348): MASTER 6, PASSIVE 7 or SLAVE 9. -/
def bmcaState (s : State) (x : Nat) : Nat :=
  let e := (s.ptpPort x).master
  let o := (s.ptpPort (1 - x)).master
  let d := ownDs s
  if s.num 0x7020 4 ≤ 127 then
    match e with
    | some m => if dsBetter d m then 6 else 7
    | none => 6
  else
    match e, o with
    | none, _ => 6
    | some m, none => if dsBetter d m then 6 else 9
    | some m, some m' =>
      if dsBetter d m && dsBetter d m' then 6
      else if dsBetter m m' || (!dsBetter m' m && decide (x = 0)) then 9
      else if nth 0 m 0 = nth 0 m' 0 then 7 else 6

/-- The ports take the states of their role (R348): a slaveOnly port with a master is SLAVE, without one LISTENING. -/
def portsByRole (s : State) : State :=
  let st := fun (s : State) (x : Nat) =>
    if s.timeRole = 1 then 6
    else if s.timeRole = 2 then (if ((s.ptpPort x).master).isSome then 9 else 4)
    else if s.timeRole = 3 then bmcaState s x
    else 1
  let s := setPortState s 0 (st s 0)
  setPortState s 1 (st s 1)

/-- An Announce at a port of a SLAVE or BOUNDARY clock: the port's best master is kept, and the BMCA decides. -/
def takeAnnounce (x : Nat) (ds : List Nat) (s : State) : State :=
  let p := s.ptpPort x
  let m := match p.master with
    | some old => if nth 0 old 7 = nth 0 ds 7 || dsBetter ds old then ds else old
    | none => ds
  let s := s.setPtpPort x { p with master := some m, gm := m[0]?, lastAnnounce := s.now, missed := 0 }
  portsByRole (s.setBitO (0x7028 + x) 2 13 true)

/-- The master of a port is lost (R346): the other port may serve, or neither. -/
def loseMaster (x : Nat) (s : State) : State :=
  let s := s.setPtpPort x { s.ptpPort x with master := none, lastOff := none }
  checkHoldover 1 (portsByRole (s.setBitO (0x7028 + x) 2 13 false))

/-- A committed change of Role, Profile or Domain (R348): ports start afresh in their role. -/
def timeRoleCommitted (s : State) : State :=
  portsByRole (({ s with ptp := [] }.setBitO 0x7028 2 13 false).setBitO 0x7029 2 13 false)

/-- A committed change of TimeSource. DESIGN CHOICE (log entry 8): Synchronised starts anew, by TimeValid under NONE, and clear with no offset
counted under PTP and PPS_IN. -/
def timeSourceCommitted (s : State) : State :=
  let s := { s with clock := { s.clock with good := 0, servoI := 0 } }
  setSynced s (s.timeSource == 0 && s.bit 0x7000 5 7)

/-- A write of TimeValid: with TimeSource NONE, Synchronised follows it (Table 12.1). -/
def writeTimeValid (b : Bool) (s : State) : State :=
  let s := s.setBitO 0x7000 5 7 b
  if s.timeSource = 0 then setSynced s b else s

/-- A write of UtcOffset sets CalendarValid (R355). It is in effect at the present ridge time, so a leap that a step of ridge time has put in
the future again is no longer one applied (R409). -/
def writeUtcOffset (v : Nat) (s : State) : State :=
  ({ s with clock := { s.clock with leaps := s.clock.leaps.filter (fun l => decide (l.1 ≤ rSecs s.ridge)) } }.setNum 0x7030 5 v).setBitO
    0x7000 5 28 true

/-! ### The calendar (R355) -/

/-- The civil date of a day number counted from 1970-01-01. -/
def civil (z : Nat) : Nat × Nat × Nat :=
  let z := z + 719468
  let era := z / 146097
  let doe := z % 146097
  let yoe := (doe - doe / 1460 + doe / 36524 - doe / 146096) / 365
  let doy := doe - (365 * yoe + yoe / 4 - yoe / 100)
  let mp := (5 * doy + 2) / 153
  let m := if mp < 10 then mp + 3 else mp - 9
  (yoe + era * 400 + (if m ≤ 2 then 1 else 0), m, doy - (153 * mp + 2) / 5 + 1)

/-- UtcOffset in effect at a ridge second: the last written, less the leaps applied after it (R409). -/
def utcOffsetAt (s : State) (secs : Nat) : Int :=
  s.clock.leaps.foldl (fun o l => if secs < l.1 then o - l.2 else o) (sx 16 (s.num 0x7030 5))

/-- The calendar of a ridge second under a UtcOffset (R355): year, month, day, hour, minute, second; 23:59:60 during an inserted second. -/
def calendarAt (s : State) (off : Int) (secs : Nat) : List Nat :=
  let ins := s.clock.leaps.any (fun l => l.1 == secs && l.2 == 1)
  let u := ((secs : Int) - off).toNat
  let (y, m, d) := civil (u / 86400)
  let r := u % 86400
  [y, m, d, r / 3600, (r % 3600) / 60, if ins then 60 else r % 60]

/-- CalendarNow (R355, Table 12.12): by UtcOffset as it stands. -/
def calendarNow (s : State) : List Nat :=
  if s.bit 0x7000 5 28 then
    let c := calendarAt s (sx 16 (s.num 0x7030 5)) (rSecs s.ridge)
    beBytes 2 (nth 0 c 0) ++ (c.drop 1) ++ [0] ++ beBytes 4 (rNs s.ridge)
  else List.replicate 12 0

/-- A leap second is applied (R355). -/
def applyLeap (s : State) : State :=
  let d : Int := if s.num 0x7030 6 = 1 then 1 else -1
  let s := { s with clock := { s.clock with leaps := s.clock.leaps ++ [(bits (s.num 0x7030 7) 95 48, d)] } }
  (s.setNum 0x7030 5 (ofInt 16 (sx 16 (s.num 0x7030 5) + d))).setNum 0x7030 6 0

/-! ### What the device emits in this chapter: kind 1 PPS_OUT, 2 Sync, 3 delay request, 4 Announce, 22 Delay_Resp, 23 Pdelay_Resp -/

/-- INCREMENT_WRITE (R339, R340). -/
def execIncrementWrite (t value : Nat) (s : State) : Host.Outcome State Fault Refusal :=
  run (.incrementWrite t value) (fun s => if hostOk s then writeIncrement (value % 2 ^ 40) s else s) s

/-- TIME_SET (R342). -/
def execTimeSet (t at96 : Nat) (s : State) : Host.Outcome State Fault Refusal :=
  run (.timeSet t at96) (fun s => if hostOk s then requestStep true (ofT96 at96) s else s) s

/-- TIME_ADJUST (R342): a signed offset in 2^-16 ns. -/
def execTimeAdjust (t off : Nat) (s : State) : Host.Outcome State Fault Refusal :=
  run (.timeAdjust t off) (fun s => if hostOk s then requestStep false (sx 64 off * 65536) s else s) s

/-- TIME_STEP (R342, R343): the oldest accepted step acts at the first tick at or after receipt + 2000 ns. -/
def execTimeStep (t : Nat) (s : State) : Host.Outcome State Fault Refusal :=
  run (.timeStep t) (fun s =>
    match s.clock.steps with
    | c :: cs =>
      if c.2.2 + rns 2000 ≤ s.ridge then stepOne c { s with clock := { s.clock with steps := cs } } else s
    | [] => s) s

/-- A PTP message is of the profile's transport (`ether`: Ethernet, else UDP) and of the device's domain (Table 12.4). -/
def ptpOurs (s : State) (ether : Bool) (domain : Nat) : Bool := s.bit 0x7010 1 28 == ether && s.fld 0x7010 1 23 16 == domain

/-- PTP_SYNC_RECEIVED (R344 to R352). -/
def execPtpSyncReceived (t port : Nat) (ether : Bool) (domain t1 t2 corr gm : Nat) (s : State) : Host.Outcome State Fault Refusal :=
  run (.ptpSyncReceived t port ether domain t1 t2 corr gm) (fun s =>
    if ptpOurs s ether domain && portUp s port && portState s port == 9 && portGm s port == some gm then
      takeSync port (syncOffset s port t1 t2 corr) s
    else s) s

/-- The peer-to-peer mechanism runs on every port of a device that has a role (Tables 12.3, 12.4; R351). -/
def peerDelay (s : State) : Bool := s.bit 0x7010 1 28 && s.timeRole != 0

/-- PATH_DELAY_MEASUREMENT (R351 to R353). -/
def execPathDelayMeasurement (t port d : Nat) (s : State) : Host.Outcome State Fault Refusal :=
  run (.pathDelayMeasurement t port d) (fun s =>
    if !portUp s port then s
    else if portState s port = 9 then pathMeasure port (sx 64 d) s
    else if peerDelay s then linkMeasure port (sx 64 d) s
    else s) s

/-- A write of PathConfirm (R353): the hold ends confirmed, or the write is refused. -/
def confirmPath (port value : Nat) (s : State) : State :=
  let p := s.ptpPort port
  if portHold s port && !p.sinceSuspect.isEmpty then
    endPathHold port 2 (meanOf p.sinceSuspect) (s.setNum (0x7028 + port) 4 value)
  else s.setBitO (0x7028 + port) 2 2 true

/-- PATH_CONFIRM (R353). -/
def execPathConfirm (t port value : Nat) (s : State) : Host.Outcome State Fault Refusal :=
  run (.pathConfirm t port value) (fun s => if hostOk s then confirmPath port value s else s) s

/-- PTP_ANNOUNCE_RECEIVED (R349): only SLAVE and BOUNDARY clocks follow a master. -/
def execPtpAnnounceReceived (t port : Nat) (ether : Bool) (domain gm p1 cls acc var p2 steps sender : Nat) (s : State) :
    Host.Outcome State Fault Refusal :=
  run (.ptpAnnounceReceived t port ether domain gm p1 cls acc var p2 steps sender) (fun s =>
    if ptpOurs s ether domain && portUp s port && (s.timeRole == 2 || s.timeRole == 3) then
      takeAnnounce port [gm, p1, cls, acc, var, p2, steps, sender] s
    else s) s

/-- ANNOUNCE_TIMEOUT (R346): announceReceiptTimeout expires, or three Syncs are missed, also on a port that has had no master. -/
def execAnnounceTimeout (t port : Nat) (s : State) : Host.Outcome State Fault Refusal :=
  run (.announceTimeout t port) (fun s => if s.bit (0x7028 + port) 2 13 then loseMaster port s else checkHoldover 1 s) s

/-- HOLDOVER_VALID_EXPIRY (R347): Synchronised is cleared once holdover has lasted HoldoverValid, with a TimeSource that has a servo. -/
def execHoldoverValidExpiry (t : Nat) (s : State) : Host.Outcome State Fault Refusal :=
  run (.holdoverValidExpiry t) (fun s =>
    if s.timeSource != 0 && s.holdover && decide (s.clock.holdAt + secFs (s.num 0x7010 6) ≤ s.now) then setSynced s false else s) s

/-- The nearest whole second, in 2^-16 ns, of a ridge instant in 2^-16 ns. -/
def nearestSec (r : Int) : Int := convDiv r (1000000000 * 65536) * (1000000000 * 65536)

/-- A rising edge of PPS_IN (R344, R354): stamped, and with TimeSource PPS_IN its offset published and used. -/
def takePps (stamp : Nat) (s : State) : State :=
  let s := { s.setNum 0x7030 4 stamp with clock := { s.clock with ppsLast := some s.now } }
  if s.timeSource = 2 then
    let r : Int := ((ofT96 stamp / 65536 : Nat) : Int) - sx 32 (s.num 0x7030 3)
    let o := r - nearestSec r
    useOffset o ((s.setNum 0x7010 7 (ofInt 64 o)).incWrap 0x7010 8)
  else s

/-- PPS_IN_EDGE (R344, R354). -/
def execPpsInEdge (t stamp : Nat) (s : State) : Host.Outcome State Fault Refusal :=
  run (.ppsInEdge t stamp) (takePps stamp) s

/-- PPS_IN_TIMEOUT (R346): no edge for 1.1 s with TimeSource PPS_IN. -/
def execPpsInTimeout (t : Nat) (s : State) : Host.Outcome State Fault Refusal :=
  run (.ppsInTimeout t) (fun s =>
    if s.timeSource == 2 && decide ((s.clock.ppsLast.getD 0) + msFs 1100 ≤ s.now) then beginHoldover 2 s else s) s

/-- The time at a port's SerDes boundary, interpolated between ticks and cut to 1 ns, with a latency in 2^-16 ns (R351). -/
def portStamp (s : State) (latency : Nat) : Nat := (((ridgeAt s s.now / nsR * nsR : Nat) : Int) + sx 32 latency * 65536).toNat

/-- What carries a PTP message (Table 12.4): UDP over IPv4, on port 319 for event messages and 320 for others, with a checksum of 0 (R351); or
Ethernet, EtherType 0x88F7. -/
def ptpTransport (s : State) (event : Bool) : List Nat :=
  if s.bit 0x7010 1 28 then beBytes 2 0x88F7 else beBytes 2 0x0800 ++ beBytes 2 (if event then 319 else 320) ++ beBytes 2 0

/-- A PTP message leaves one port under the sequence number given, with twoStepFlag clear and its own time of leaving in it (R351). -/
def sendPtpPort (kind port seq : Nat) (body : List Nat) (s : State) : State :=
  let s := countEvent port 0x13 1 0 (takeLineTime port (if s.bit 0x7010 1 28 then 90 else 118) s)
  s.emit kind port (ptpTransport s (kind != 4 && kind != 22) ++ [0] ++ beBytes 1 (s.fld 0x7010 1 23 16) ++ beBytes 2 seq
    ++ beBytes 8 (s.num 0x7020 1) ++ beBytes 12 (toT96 (portStamp s (s.num (0x7028 + port) 6))) ++ frameTag s (s.fld 0x1010 5 6 4) port ++ body)

/-- A PTP message is sent under the next trailer number (R278): by a GRANDMASTER to both sills (Table 12.3), each served port sending it
with the same sequence number; in the other roles, whose ports measure and speak for themselves, on its own port (log entry 8). -/
def sendPtp (kind port : Nat) (body : List Nat) (s : State) : State :=
  let seq := (s.ptpPort port).seqId
  let send := fun (p : Nat) (s : State) => sendPtpPort kind p seq body (s.setPtpPort p { s.ptpPort p with seqId := (seq + 1) % 65536 })
  let s := { s with net := { s.net with redSeq := (s.net.redSeq + 1) % 65536 } }
  if s.timeRole = 1 then forN 2 (fun p s => if portUp s p then send p s else s) s else send port s

/-- A received request is answered on its own port under its sequenceId (R349, R351, Table 12.4): a Delay_Req at a MASTER port by Delay_Resp
with the time of its arrival, a Pdelay_Req by Pdelay_Resp, one-step, with the time from its arrival to the leaving of the answer in
correctionField. -/
def answerPtp (port : Nat) (f : Frame) (s : State) : State :=
  let lat := s.num (0x7028 + port) 5
  let send := fun (kind : Nat) (corr : Int) (s : State) =>
    sendPtpPort kind port f.ptpSeq (beBytes 6 f.src ++ beBytes 12 (toT96 (portStamp s lat)) ++ beBytes 8 (ofInt 64 (sx 64 f.correction + corr)))
      { s with net := { s.net with redSeq := (s.net.redSeq + 1) % 65536 } }
  if !(f.isPtp && f.fcsOk && f.src != s.num 0x1010 1 && portUp s port && ptpOurs s (f.etherType == 0x88F7) f.domain) then s
  else if f.ptpType = 1 && !s.bit 0x7010 1 28 && portState s port = 6 then send 22 0 s
  else if f.ptpType = 2 && peerDelay s then send 23 (sx 32 (s.num (0x7028 + port) 6) - sx 32 lat) s
  else s

/-- PTP_SYNC_SEND (R348, R351): from a MASTER port. -/
def execPtpSyncSend (t port : Nat) (s : State) : Host.Outcome State Fault Refusal :=
  run (.ptpSyncSend t port) (fun s => if portUp s port && portState s port == 6 then sendPtp 2 port [] s else s) s

/-- PPS_OUT_PULSE (R354): at a whole second not jumped over by a step, with the width in ms and PpsOutDelay. -/
def execPpsOutPulse (t : Nat) (s : State) : Host.Outcome State Fault Refusal :=
  run (.ppsOutPulse t) (fun s =>
    if s.clock.lastWhole < rSecs s.ridge then
      let s := { s with clock := { s.clock with lastWhole := rSecs s.ridge } }
      if s.ready && s.bit 0x7030 1 15 && (s.timeSource != 1 || s.synced || s.bit 0x7030 1 14) then
        s.emit 1 0 (beBytes 2 (s.fld 0x7030 1 9 0) ++ beBytes 4 (s.num 0x7030 2))
      else s
    else s) s

/-- LEAP_SECOND (R355). -/
def execLeapSecond (t : Nat) (s : State) : Host.Outcome State Fault Refusal :=
  run (.leapSecond t) (fun s => if s.num 0x7030 6 ≠ 0 && decide (ofT96 (s.num 0x7030 7) ≤ s.ridge) then applyLeap s else s) s

/-- PTP_DELAY_REQUEST_SEND (R351, R352): Delay_Req from a SLAVE port, or Pdelay_Req from any port of a device with a role. -/
def execPtpDelayRequestSend (t port : Nat) (s : State) : Host.Outcome State Fault Refusal :=
  run (.ptpDelayRequestSend t port) (fun s =>
    if portUp s port && (portState s port == 9 || peerDelay s) then
      sendPtp 3 port [] s
    else s) s

/-- The data set that a MASTER port announces (R349): that of a SLAVE port's master, one step further, or the device's own. -/
def announceDs (s : State) : List Nat :=
  let m := fun (x : Nat) => if portState s x = 9 then (s.ptpPort x).master else none
  match m 0, m 1 with
  | some d, _ => setNth d 6 (nth 0 d 6 + 1)
  | none, some d => setNth d 6 (nth 0 d 6 + 1)
  | none, none => ownDs s

/-- PTP_ANNOUNCE_SEND (R349): from a MASTER port, with grandmasterIdentity, priority1, class, accuracy, variance, priority2, stepsRemoved. -/
def execPtpAnnounceSend (t port : Nat) (s : State) : Host.Outcome State Fault Refusal :=
  run (.ptpAnnounceSend t port) (fun s =>
    if portUp s port && portState s port == 6 then
      let d := announceDs s
      sendPtp 4 port (beBytes 8 (nth 0 d 0) ++ [nth 0 d 1, nth 0 d 2, nth 0 d 3] ++ beBytes 2 (nth 0 d 4) ++ [nth 0 d 5] ++ beBytes 2 (nth 0 d 6)) s
    else s) s

end Sys2Proof.Machine
end

