-- ==== Sys2Proof/Machine/Fail.lean ====
section
/-!
DEFINITION. What every fault shares: boot stages and HALTED (R453, R468), the permit (R298, R301), the causes of SAFE_STOP and the entry
of a grid-forming state (R192 to R195), COMMISSIONING left (R233), ridge faults (R23), side faults, takeover and double fault (R267, R270,
R282), the start of a re-initialisation (R279, R280) and the kerf window (R276, R277).
-/
namespace Sys2Proof.Machine

/-! ### Boot stages -/

/-- Microseconds since power good. -/
def usSincePower (s : State) : Nat := (s.now - s.boot.powerAt) / usFs 1

/-- A boot stage is entered (R453): BootStatus and its StageTimes entry, the tenth for HALTED. -/
def setStage (n : Nat) (s : State) : State :=
  let i := if n = 15 then 9 else n
  (s.setFld 0xB000 1 31 28 n).setBlob 0xB000 4 (patch (s.blob 0xB000 4) (4 * i) (beBytes 4 (usSincePower s)))

/-- HALTED with its cause (R468). -/
def haltDevice (cause : Nat) (s : State) : State :=
  if s.stage = 15 then s else (setStage 15 s).setFld 0xB000 1 27 24 cause

/-! ### Permit -/

/-- Permit (Table 10.7). -/
def State.permit (s : State) : Bool := s.bit 0x6800 2 31

/-- SOUT tests in progress are discarded (R301). -/
def discardTests (m : Nat) (s : State) : State :=
  { s with safety := { s.safety with discarded := s.safety.discarded ||| (s.safety.testing &&& m) } }

/-- The enables of both safety channels in the output plate (R288). -/
def setEnables (on : Bool) (s : State) : State :=
  let v := s.safety
  { s with safety := { v with a := { v.a with enable := on }, b := { v.b with enable := on } } }

/-- The Permits of the two channels; Permit of SafetyStatus is set while both are (R288). -/
def setPermits (a b : Bool) (s : State) : State :=
  let v := s.safety
  { s with safety := { v with a := { v.a with permit := a }, b := { v.b with permit := b } } }.setBitO 0x6800 2 31 (a && b)

/-- Permit is cleared (R298), so a test in progress is discarded (R301). -/
def clearPermit (s : State) : State := discardTests 0xFF (setPermits false false s)

/-- Channels named by their bits (0 A, 1 B) withdraw Permit and enable: either alone opens its balls of every SOUT pair and holds the gates
(R288, R295). -/
def withdraw (m : Nat) (s : State) : State :=
  let v := s.safety
  let s := { s with safety := { v with a := { v.a with enable := v.a.enable && !m.testBit 0 }
                                       b := { v.b with enable := v.b.enable && !m.testBit 1 } } }
  discardTests ((if m.testBit 0 then 0x0F else 0) ||| (if m.testBit 1 then 0xF0 else 0))
    (setPermits (v.a.permit && !m.testBit 0) (v.b.permit && !m.testBit 1) s)

/-! ### DOUT (R276, R277, R307) -/

/-- The latest request word of a side, none while it is FAILED, REINIT or OFF (R21). -/
def doutWord (s : State) (x : Side) : Nat := if s.feeds x then (s.sideRt x).dout else 0

/-- DOUT n is owned by the breaker close (R203) or the indicator (R307). -/
def breakerOwns (s : State) (n : Nat) : Bool := s.bit 0x4002 1 30 && s.fld 0x4002 1 27 24 == n
def indicatorOwns (s : State) (n : Nat) : Bool := s.bit 0x6800 6 15 && s.fld 0x6800 6 3 0 == n

/-- The level of DOUT n (R276, R277, R203, R307, R454). -/
def doutBit (s : State) (n : Nat) : Bool :=
  if !s.ready then false
  else if breakerOwns s n then s.bit 0x4001 3 7
  else if indicatorOwns s n then s.permit && !s.demandLatched
  else match s.sides.kerf with
    | some (_, held) =>
      if s.bit 0x6010 3 n then held.testBit n else (doutWord s .A).testBit n || (doutWord s .B).testBit n
    | none => match s.control with
      | some x => (doutWord s x).testBit n
      | none => false

/-- The levels of DOUT_15 to DOUT_0. -/
def doutLevels (s : State) : Nat := forN 16 (fun n m => if doutBit s n then m + 2 ^ n else m) 0

/-- A kerf window opens (R277); `lv` are the levels at its opening, taken before control moves. -/
def kerfOpen (new : Side) (lv : Nat) (s : State) : State :=
  { s with sides := { s.sides with kerf := some (s.now, lv) } }.raise 43 (sideIx new)

/-! ### The grid-forming state -/

/-- CloseActive (Table 06.9). -/
def State.closeActive (s : State) : Bool := s.bit 0x4001 3 7

/-- The breaker close output is released (R204). -/
def releaseClose (s : State) : State :=
  { (s.setBitO 0x4001 3 7 false) with gf := { s.gf with closeAt := none, closeNext := false } }

/-- COMMISSIONING is left (R233), in the way 1 request, 2 seal switch, 3 SAFE_STOP, 4 another state: the map is emptied; in the first
three ways every pair, in the fourth those redirected or inverted, goes to high impedance at once. -/
def leaveCommission (way : Nat) (s : State) : State :=
  if !s.commissioning then s
  else
    let s := if way = 4 then forN 72 (fun p s => if (overrideOf s p).isSome then plateRelease (physOf s p) s else s) s
      else plateReleaseAll s
    let s := { s with plate := { s.plate with mapNow := [], pendingMaps := [] } }
    ((s.setBlob 0x5320 2 []).setBitO 0x5300 4 13 false).raise 13 0 way

/-- What an entry to SAFE_STOP does beside the state (R195, R251, R298, R301). -/
def onSafeStop (s : State) : State :=
  let s := { s with gf := { s.gf with causes := 0, firstCause := 0 }, plate := { s.plate with gateHold := false } }
  let s := if s.bit 0x6800 2 22 then clearPermit s else discardTests 0xFF s
  queueAllLife s

/-- A transition of the grid-forming state takes effect (R195): EV_122; arc domains whose source changes with RESYNC to FIXED or BYPASS
change at once (R74, R90). SAFE_STOP is left with the safety channels' enables present (R288, R306). -/
def enterGf (dst cause : Nat) (s : State) : State :=
  let old := s.gfState
  let s := if old = 5 then releaseClose s else if old = 6 then setEnables true s else s
  let s := if dst = 0 then s else leaveCommission (if dst = 6 then 3 else 4) s
  let w := s.num 0x4001 3
  let s := (s.setNum 0x4001 3 (cause <<< 12 ||| old <<< 8 ||| (w % 256 / 16 * 16) ||| dst)).setNum 0x4001 4 (toT96 s.ridge)
  let s := { s with gf := { s.gf with trans := none, enteredAt := s.now, shift := 0, quietSince := none, resyncOut := false
                                      rideFromParallel := dst == 4 && old == 3 } }
  let s := if dst = 6 then onSafeStop s else s
  let s := sourcesAtOnce s
  s.raise 122 dst old cause

/-- Ticks occur (R105, R193, R222): a slot is active and its anchor group runs on the side in control; none does in a debug halt (R235). -/
def ticksOccur (s : State) : Bool :=
  s.control.isSome && s.activeSlot.isSome && s.carrierRuns s.reporter (schAnchor (activeSched s)) && !s.plate.halted

/-- A cause of SAFE_STOP of R23 or R282: the gates are held at once, and the first main tick that finds the cause decides (R195). While no
tick occurs the transition takes effect at once (R193), within the 50 µs of R23 and R282. -/
def stopNow (cause : Nat) (s : State) : State :=
  if s.gfState = 6 then s
  else if ticksOccur s then noteCause cause (holdGates s)
  else enterGf 6 cause (holdGates s)

/-! ### Ridge faults (R23, R361, R472) -/

/-- A fault that the ridge detects in itself: before READY HALTED with Cause 3; then the gates in high impedance, Permit clear and
SAFE_STOP with Cause 12. It is pending until power-up. -/
def ridgeFault (s : State) : State :=
  if s.ready then stopNow 12 (clearPermit { s with safety := { s.safety with ridgeFault := true } }) else haltDevice 3 s

/-! ### Side faults (R262 to R282) -/

/-- Degraded of ProfileInEffect (Table 01.8). -/
def setDegraded (b : Bool) (s : State) : State := s.setBitO 0x6000 2 15 b

/-- The carrier groups with a pair driven from side `x`. -/
def groupsOn (s : State) (x : Side) : Nat :=
  forN 72 (fun n m =>
    let q := s.plateOf n
    if q.driving && q.sideB == (sideIx x == 1) then setBit m (s.pairCarrier q.pair) true else m) 0

/-- Every driven pair changes to side `x` at once (R229). -/
def allToSide (x : Side) (s : State) : State := forN 8 (groupToSide x) s

/-- Store entries whose key lies in [lo, hi) dropped. -/
def Store.dropRange {α : Type} (lo hi : Nat) (l : Store α) : Store α := l.filter (fun e => decide (e.1 < lo) || decide (hi ≤ e.1))

/-- Everything a side holds is lost: sill, joists, loft (R21, Table 09.3). -/
def clearSide (x : Side) (s : State) : State :=
  let i := sideIx x
  let s := (s.setSill x Sill.init).setGraph x Graph.init
  let s := { s with
    meas := { s.meas with chains := s.meas.chains.dropRange (64 * i) (64 * i + 64), arcs := s.meas.arcs.dropRange (4 * i) (4 * i + 4)
                          histories := s.meas.histories.dropRange (72 * i) (72 * i + 72) }
    capture := { s.capture with engines := s.capture.engines.dropRange (8 * i) (8 * i + 8)
                                segs := s.capture.segs.dropRange (4096 * i) (4096 * i + 4096) } }
  s.setSideRt x { s.sideRt x with p1 := Beat.init, p2 := Beat.init, lastBad := false, badSince := none, linkErrs := [], dout := 0,
                                  clockStopped := false, reserveSince := none, region := [] }

/-- The bays powered of a side (Table 13.12). -/
def setSideBays (x : Side) (m : Nat) (s : State) : State :=
  match x with
  | .A => s.setFld 0x7050 1 11 8 m
  | .B => s.setFld 0x7050 1 7 4 m

/-- A side that was in service is so no longer: its state, and the reports of feedback that waited for its sill (R68). -/
def leaveService (x : Side) (v : Nat) (s : State) : State := reportsAlone (s.setSideState x v)

/-- An attempt at re-initialisation starts (R279): EV_035 with its number; the side is held in reset with its bays gated. -/
def startReinit (x : Side) (s : State) : State :=
  let n := (s.sideRt x).attempts + 1
  let s := setSideBays x 0 (clearSide x s)
  let s := s.setSideRt x { s.sideRt x with attempts := n, retryAt := none }
  (pllOff (3 + sideIx x) (pllOff (1 + sideIx x) (s.setSideState x 5))).raise 35 (sideIx x) n

/-- A side becomes FAILED (R270, R279): its port falls silent, Degraded is set where the profile uses both sides, and its
re-initialisation starts, unless a double fault waits for ACKNOWLEDGE (R282). -/
def setFailed (x : Side) (s : State) : State :=
  let s := leaveService x 4 s
  let s := s.setSideRt x { s.sideRt x with attempts := 0, retryAt := none, spent := false, dout := 0, reserveSince := none }
  let s := if s.profile = 3 then s else setDegraded true s
  let s := checkHoldover 1 s
  if s.sides.doubleFault then s else startReinit x s

/-- An attempt ends with the side FAILED (R280, R122). -/
def failAttempt (x : Side) (noRetry : Bool) (s : State) : State :=
  let rt := s.sideRt x
  let last := decide (s.fld 0x6010 1 1 0 ≤ rt.attempts)
  let s := s.setSideState x 4
  if noRetry then s.setSideRt x { rt with spent := true }
  else if last then (s.setSideRt x { rt with spent := true }).raise 37 (sideIx x)
  else s.setSideRt x { rt with retryAt := some (s.now + secFs 1) }

/-- The last carrier group has changed (R270): LastChangeSpan; after a takeover the suspect side becomes FAILED and EV_034 is raised. A side
that became SUSPECT while it gave up control in a handover becomes FAILED too (log entry 7). -/
def finishChange (s : State) : State :=
  match s.sides.takeover with
  | none => s
  | some (t0, _, hand) =>
    let span := min ((s.now - t0) / nsFs 1) 0xFFFFFFFF
    let s := { s with sides := { s.sides with takeover := none } }.setNum 0x6021 4 span
    let y := (s.control).getD .A
    let x := otherSide y
    if !hand then setFailed x (s.raise 34 (sideIx y) span)
    else if s.sideState x = 3 then setFailed x s
    else s

/-- Control passes to side `y` (R270, R281): ActiveSide, TakeoverCount, the time and cause of the order. -/
def orderChange (y : Side) (cause : Nat) (s : State) : State :=
  let s := s.setBitO 0x6000 2 4 (sideIx y == 1)
  let s := s.setFld 0x6021 1 15 0 (satInc 16 (s.fld 0x6021 1 15 0))
  (s.setNum 0x6021 2 (toT96 s.ridge)).setNum 0x6021 3 cause

/-- The order is delivered to the plate (R229, R270): a group with no driven pair has changed at once, and every group where the clock of
the side taken over has stopped. -/
def deliverChange (y : Side) (hand : Bool) (s : State) : State :=
  let x := otherSide y
  let s := if (s.sideRt x).clockStopped then allToSide y s else s
  let m := groupsOn s x
  let s := { s with sides := { s.sides with takeover := some (s.now, m, hand), handover := 0 } }
  if m = 0 then finishChange s else s

/-- A takeover against side `x` (R270). -/
def takeover (x : Side) (cause : Nat) (s : State) : State :=
  let y := otherSide x
  let lv := doutLevels s
  let s := leaveService x 3 (s.setSideState y 1)
  let s := (orderChange y cause s).raise 33 (sideIx y) cause
  deliverChange y false (kerfOpen y lv s)

/-- A side whose sill clock the ridge finds stopped: every pair that waits for its vertex changes at once (R29, R229, R270). -/
def clockFound (x : Side) (s : State) : State :=
  let s := s.setSideRt x { s.sideRt x with clockStopped := true }
  match s.sides.takeover, s.control with
  | some _, some y => if y = x then s else finishChange (allToSide y s)
  | _, _ => s

/-- No side is left in service (R195, R282). With the other side FAILED, REINIT or SUSPECT it is a double fault; a side fault in
SINGLE_SIDE leads to SAFE_STOP alone (Table 01.6). -/
def noSideLeft (x : Side) (s : State) : State :=
  let y := otherSide x
  let double := s.powered y
  let s := { s with sides := { s.sides with doubleFault := true, takeover := none, handover := 0 } }
  let fail := fun (z : Side) (s : State) =>
    (s.setSideState z 4).setSideRt z { s.sideRt z with retryAt := none, dout := 0, reserveSince := none }
  let s := fail x s
  let s := if double then fail y s else s
  let s := if s.profile = 3 then s else setDegraded true s
  let s := checkHoldover 1 s
  let s := if double then clearPermit (s.raise 42) else s
  stopNow 12 (plateReleaseAll s)

/-- A side fault (R267), with its cause as LastTakeoverCause: before READY the side is unusable (R472). -/
def sideFault (x : Side) (cause : Nat) (s : State) : State :=
  if !s.ready then s.setSideRt x { s.sideRt x with usable := false }
  else
    let s := s.raise 32 (sideIx x) cause
    if s.sideState x = 1 then
      if s.sideState (otherSide x) = 2 then takeover x cause s else noSideLeft x s
    else if s.sideState x = 2 then
      -- DESIGN CHOICE (log entry 7): a side that gives up control in a handover stays SUSPECT until its last driven pair has changed
      if s.sides.takeover.isSome && groupsOn s x != 0 then leaveService x 3 s else setFailed x s
    else s

end Sys2Proof.Machine
end

