-- ==== Sys2Proof/Machine/Repair.lean ====
section
/-!
DEFINITION. FoundFaults (R466) and what follows from the repair map: lanes tested, bays and the sides' states at READY (R263).
-/
namespace Sys2Proof.Machine

/-- A unit found faulty is added to FoundFaults and reported (R466, R475). -/
def foundFault (e : List Nat) (s : State) : State :=
  if (faultyUnits s).contains e then s
  else (s.setBlob 0xB100 2 (faultMap s (mapEntries (s.blob 0xB100 2) ++ [e]))).raise 245 (field e 0 4) (field e 4 4)

/-- Joists of a side whose spare lane is in service. -/
def sparesIn (s : State) (x : Nat) : List Nat :=
  (List.range 16).filter (fun j => let o := lanesOut s x j; !o.isEmpty && !o.contains 8)

/-- SpareUse (Table 17.11). -/
def spareUse (s : State) : Nat :=
  (sparesIn s 0).length <<< 27 ||| (sparesIn s 1).length <<< 22 ||| min 255 (rowsReplaced s 0).length <<< 14 |||
    min 255 (rowsReplaced s 1).length <<< 6 ||| (banksReplaced s 0).length <<< 2 ||| (banksReplaced s 1).length

/-- The spares of a side are brought into service (R466): EV_246 for each spare brought in, EV_247 for a kind left without. -/
def bringSpares (x : Nat) (s : State) : State :=
  let s := (sparesIn s x).foldl (fun s j => s.raise 246 (1 <<< 24 ||| x <<< 16 ||| j) (nth 0 (lanesOut s x j) 0)) s
  let s := (banksReplaced s x).foldl (fun s b => s.raise 246 (2 <<< 24 ||| x <<< 16 ||| b) 0) s
  let s := (rowsReplaced s x).foldl (fun s e => s.raise 246 (field e 0 4) (field e 4 4)) s
  let s := if (List.range 16).any (fun j => decide (1 < (lanesOut s x j).length)) then s.raise 247 x 1 else s
  let s := if banksSuffice s x then s else s.raise 247 x 2
  if rowsSuffice s x then s else s.raise 247 x 3

/-! ### The end of Bad (R283) -/

/-- Bad clears 1 s after the last finding ended; HealthyHold counts afresh (R281, R283). -/
def expireBad (x : Side) (s : State) : State :=
  let s := refreshBad x s
  match (s.sideRt x).badSince with
  | some t =>
    if sideBad s x && decide (t + secFs 1 ≤ s.now) then
      (s.setBitO (0x6030 + sideIx x) 1 31 false).setSideRt x
        { s.sideRt x with badSince := none, reserveSince := (s.sideRt x).reserveSince.map (fun _ => s.now) }
    else s
  | none => s

/-- PreferredSide (Table 09.10). -/
def preferred (s : State) : Side := if s.bit 0x6010 1 15 then .B else .A

/-- A side is usable at the end of bring-up (R467). -/
def sideUsable (s : State) (x : Side) (linkOk : Bool) : Bool :=
  let i := sideIx x
  let rails := match x with
    | .A => s.boot.railsA
    | .B => s.boot.railsB
  (s.sideRt x).usable && rails && !unitFaulty s 7 i 0 0 && pllLocked s (1 + i) && pllLocked s (3 + i)
    && banksSuffice s i && rowsSuffice s i
    && ((linkOk && !unitFaulty s 8 0xFF 0 0) || preferred s == x)

/-- A side is powered off (R285, R493): its PLLs stop, its bays are off and its port falls silent. -/
def sideOff (x : Side) (s : State) : State :=
  setSideBays x 0 (pllOff (3 + sideIx x) (pllOff (1 + sideIx x) (leaveService x 0 (clearSide x s))))

/-- A truss runs on its bridge or on its PLL_TRUSS (Table 13.12). -/
def setBridged (x : Side) (b : Bool) (s : State) : State := s.setBitO 0x7050 1 (15 - sideIx x) b

/-- The bays of the profile are powered on a side (Table 13.12). -/
def powerBays (x : Side) (s : State) : State := setSideBays x (if baysOn s = 2 then 3 else 15) s

/-- The bays powered on a side. -/
def State.baysOf (s : State) : Side → Nat
  | .A => s.fld 0x7050 1 11 8
  | .B => s.fld 0x7050 1 7 4

/-- The bays powered (R500, Table 13.12): those of the profile on each powered side but one held in reset at the start of its
re-initialisation, whose bays are gated until its PLLs restart (Table 09.3). -/
def setBays (s : State) : State :=
  let one := fun (x : Side) (s : State) =>
    if !s.powered x then setSideBays x 0 s else if s.feeds x || s.baysOf x != 0 then powerBays x s else s
  one .B (one .A s)

/-- Whether physical lane `lane` of a joist has power (R17): it is in service in a powered bay. A spare lane out of use has power only within
its test, which LANE_TEST reports complete. -/
def lanePowered (s : State) (x : Side) (joist lane : Nat) : Bool := (s.baysOf x).testBit (joist / 4) && laneUsed s (sideIx x) joist lane

/-- ProfileInEffect takes ProfileSelect (R30, R34). -/
def adoptProfile (s : State) : State :=
  let p := s.num 0x6000 1
  (s.setFld 0x6000 2 9 8 (bits p 9 8)).setFld 0x6000 2 2 0 (bits p 2 0)

/-- A side takes RESERVE, from when its HealthyHold counts (R281). -/
def setReserve (x : Side) (s : State) : State :=
  (s.setSideState x 2).setSideRt x { s.sideRt x with reserveSince := some s.now }

/-- A side takes control. -/
def setControl (x : Side) (s : State) : State := (s.setSideState x 1).setBitO 0x6000 2 4 (sideIx x == 1)

/-- The finding of bring-up for a side. -/
def okOf (okA okB : Bool) : Side → Bool
  | .A => okA
  | .B => okB

/-- A side that is not usable at READY is FAILED (R263), so its re-initialisation starts (R279). -/
def failAtReady (x : Side) (s : State) : State := setFailed x s

/-- The side states at READY, from the usable sides (R263, R467). -/
def sidesAtReady (okA okB : Bool) (s : State) : State :=
  let x := if s.profile = 3 then sideOf (s.fld 0x6000 1 4 4) else preferred s
  let y := otherSide x
  if s.profile = 3 then
    if okOf okA okB x then sideOff y (setControl x s) else failAtReady x (setControl y s)
  else if okOf okA okB x && okOf okA okB y then setReserve y (setControl x s)
  else if okOf okA okB x then setDegraded true (failAtReady y (setControl x s))
  else setDegraded true (failAtReady x (setControl y s))

end Sys2Proof.Machine
end

