-- ==== Sys2Proof/Machine/Boot.lean ====
section
/-!
DEFINITION. Power-up, images and the management island (chapter 17): the boot stages, the PUF, the loader, bring-up, restarts, firmware
slots, temperatures and rails. ISLAND_RESTART_DONE stands in Network.lean, with the messages that waited.
-/
namespace Sys2Proof.Machine

/-- A coherent start is armed (Table 06.9). -/
def State.armed (s : State) : Bool := s.bit 0x4001 3 5

/-! ### Power good, ROM and identity (R452 to R457) -/

/-- POWER_GOOD (R452). -/
def execPowerGood (t sideRails : Nat) (s : State) : Host.Outcome State Fault Refusal :=
  run (.powerGood t sideRails) (powerState 1 (sideRails.testBit 0) (sideRails.testBit 1)) s

/-- Nominal rail voltages in units of 0.01 V, sensors 8 to 19 (Table 19.5). -/
def railNominal (n : Nat) : Nat := nth 0 [75, 75, 80, 80, 90, 90, 110, 110, 90, 180, 180, 330] (n - 8)

/-- A rail lies within ± `pct` % of its nominal value. -/
def railGood (pct n v : Nat) : Bool :=
  let d := D64.toDy (D64.of32 v)
  let x := Dy.mul d ⟨10000, 0⟩
  Dy.le ⟨(100 - pct : Nat) * railNominal n, 0⟩ x && Dy.le x ⟨(100 + pct : Nat) * railNominal n, 0⟩

/-- The side rail monitors as the sensors of the rails stand (Table 17.8): bit 0 side A, 1 side B, clear where one of a side's four rails is
below its monitor threshold, 94 % of nominal (Table 19.5). A rail that no sensor has read yet is taken as present (log entry 28). -/
def railsNow (s : State) : Nat :=
  let low := fun (n : Nat) =>
    let v := field (s.blob 0xB010 1) (4 * n) 4
    !L32.isNan v && !Dy.le ⟨94 * railNominal n, 0⟩ (Dy.mul (D64.toDy (D64.of32 v)) ⟨10000, 0⟩)
  maskOf 2 (fun x => !([8, 10, 12, 14].any (fun n => low (n + x))))

/-- The side rail monitors are read: a side whose rails are below threshold stays unusable until the next power-up (R491). -/
def readRails (m : Nat) (s : State) : State :=
  { s with boot := { s.boot with railsA := s.boot.railsA && m.testBit 0, railsB := s.boot.railsB && m.testBit 1 } }

/-- ROM_CHECKS_COMPLETE (R453, R455). -/
def execRomChecksComplete (t straps sideRails : Nat) (s : State) : Host.Outcome State Fault Refusal :=
  run (.romChecksComplete t straps sideRails) (fun s =>
    if s.stage = 0 then
      setStage 1 ({ readRails sideRails s with boot := { (readRails sideRails s).boot with straps := straps } }.setNum 0x1000 5 straps)
    else s) s

/-- The identity that the ROM forms from the device key (R457), and the header of FoundFaults. -/
def formIdentity (k : Nat) (s : State) : State :=
  let pk := publicKey k
  let h := sha256 pk
  let mac := beNat (2 :: slice h 8 5)
  let s := { s with boot := { s.boot with deviceKey := some k } }
  let s := ((s.setBlob 0x1000 3 pk).setNum 0x1000 1 (field h 0 8)).setNum 0x1010 1 mac
  let s := (s.setNum 0x1010 2 (0xA9FE4E64 + s.boot.straps)).setNum 0x7020 1
    ((mac >>> 24) <<< 40 ||| 0xFFFE <<< 24 ||| mac % 2 ^ 24)
  s.setBlob 0xB100 2 (faultMap s [])

/-- PUF_DERIVATION (R456): agreed, or the fourth failure ends in HALTED with Cause 1. -/
def execPufDerivation (t k1 k2 : Nat) (s : State) : Host.Outcome State Fault Refusal :=
  run (.pufDerivation t k1 k2) (fun s =>
    if s.stage ≠ 1 then s
    else
      let n := s.boot.pufTries + 1
      let s := { s with boot := { s.boot with pufTries := n } }
      if k1 = k2 && decide (1 ≤ k1) && decide (k1 < p256N) then setStage 2 (formIdentity k1 s)
      else if n = 4 then haltDevice 1 s else s) s

/-! ### The loader (R458, R459) -/

/-- The response to a loader request (Table 17.3). -/
def loaderResponse (s : State) (op status : Nat) : List Nat :=
  beBytes 2 0x4C44 ++ [op + 0x80, status] ++ beBytes 4 s.boot.nextOffset ++ [s.stage, s.num 0xB000 5]

/-- The load ends with a result, the claim is released and the bytes are discarded (R459, R460). -/
def endLoad (result : Nat) (s : State) : State :=
  let s := { s with boot := { s.boot with claim := none, nextOffset := 0, image := [] } }
  (setStage 2 s).setNum 0xB000 5 result |>.setFld 0xB000 1 19 16 0

/-- The bytes of the image in all, once the header is there (Table 17.2). -/
def imageTotal (img : List Nat) : Option Nat := if img.length < 256 then none else some (256 + field img 8 4)

/-- What a header that R458 does not allow ends a load with (Table 17.4), 0 for a good one. -/
def headerResult (img : List Nat) : Nat :=
  if field img 0 4 ≠ 0x494D4731 then 2
  else if decide (field img 8 4 < 4096) || decide (6291456 < field img 8 4) then 3 else 0

/-- A BLOCK of a source (R459; 1 boot port, 2 port X, 3 port Y): its status and the state after. DESIGN CHOICE (log entry 28): BUSY is answered
while the loader absorbs a block, after the checks of the stage and the source. -/
def takeBlock (src : Nat) (size off len : Nat) (data : List Nat) (s : State) : Nat × State :=
  let b := s.boot
  let expect := match imageTotal b.image with
    | some n => min size (n - off)
    | none => size
  if s.stage ≠ 2 && s.stage ≠ 3 then (4, s)
  else if b.claim.isSome && b.claim ≠ some src then (2, s)
  else if s.now < b.absorbTo then (5, s)
  else if off ≠ b.nextOffset then (1, s)
  else if len ≠ expect || data.length ≠ len then (3, s)
  else
    let img := b.image ++ data
    let s := { s with boot := { b with
      claim := some src, image := img, nextOffset := off + len, lastBlock := s.now
      absorbTo := s.now + nsFs (Config.absorbTime len) } }
    let s := if s.stage = 2 then (setStage 3 s).setFld 0xB000 1 19 16 src else s
    let r := if b.image.length < 256 && decide (256 ≤ img.length) then headerResult img else 0
    if r ≠ 0 then (0, endLoad r s)
    else if imageTotal img = some img.length then (0, setStage 4 s) else (0, s)

/-- LOADER_BLOCK (R459): UDP port 48022 of port x. -/
def execLoaderBlock (t port ip off len : Nat) (data : List Nat) (s : State) : Host.Outcome State Fault Refusal :=
  run (.loaderBlock t port ip off len data) (fun s =>
    if decide (2 ≤ s.stage) && decide (s.stage ≤ 4) && bootPortServed s port then
      let r := takeBlock (2 + port) 1024 off len data s
      r.2.emit 5 port (loaderResponse r.2 1 r.1)
    else s) s

/-- LOADER_STATUS_OP (R459). -/
def execLoaderStatusOp (t port ip : Nat) (s : State) : Host.Outcome State Fault Refusal :=
  run (.loaderStatusOp t port ip) (fun s =>
    if decide (2 ≤ s.stage) && decide (s.stage ≤ 4) && bootPortServed s port then s.emit 5 port (loaderResponse s 2 0) else s) s

/-- LOADER_ABORT (R459): from the claiming source only. -/
def execLoaderAbort (t port ip : Nat) (s : State) : Host.Outcome State Fault Refusal :=
  run (.loaderAbort t port ip) (fun s =>
    if decide (2 ≤ s.stage) && decide (s.stage ≤ 4) && bootPortServed s port then
      if s.stage = 3 && s.boot.claim = some (2 + port) then
        let s := endLoad 6 s
        s.emit 5 port (loaderResponse s 3 0)
      else s.emit 5 port (loaderResponse s 3 (if s.stage = 3 then 2 else 4))
    else s) s

/-- BOOT_LOAD (R459): opcode 0x10 of the boot port, served from WAIT_IMAGE on; its response waits for LOADER_STATUS. -/
def execBootLoad (t off len : Nat) (data : List Nat) (s : State) : Host.Outcome State Fault Refusal :=
  run (.bootLoad t off len data) (fun s =>
    if 2 ≤ s.stage then
      let r := takeBlock 1 4096 off len data s
      { r.2 with boot := { r.2.boot with response := loaderResponse r.2 1 r.1 ++ [0, 0], unread := true } }
    else s) s

/-- LOADER_STATUS (R459): opcode 0x11 shifts out the response. -/
def execLoaderStatus (t : Nat) (s : State) : Host.Outcome State Fault Refusal :=
  run (.loaderStatus t) (fun s =>
    if 2 ≤ s.stage then { s.emit 6 0 s.boot.response with boot := { s.boot with unread := false } } else s) s

/-- LOADER_IDLE_TIMEOUT (R459). -/
def execLoaderIdleTimeout (t : Nat) (s : State) : Host.Outcome State Fault Refusal :=
  run (.loaderIdleTimeout t) (fun s =>
    if s.stage = 3 && decide (s.boot.lastBlock + secFs 10 ≤ s.now) then endLoad 6 s else s) s

/-! ### Verification (R460) -/

/-- The result of the check of an image (R460, Table 17.4): 1 where it passes. The device keeps no record of versions: every image that the
root key has signed passes, whatever its ImageVersion (R461), at IMAGE_VERIFY and at VERIFY of the inactive slot alike. -/
def checkImage (img : List Nat) : Nat :=
  if headerResult img ≠ 0 then headerResult img
  else if sha256 (slice img 256 (field img 8 4)) ≠ slice img 16 32 then 4
  else if ecdsaVerify Config.rootKey (sha256 (img.take 48)) (slice img 48 64) then 1 else 5

/-- IMAGE_VERIFY (R460): the image runs from slot 0, or is discarded. -/
def execImageVerify (t : Nat) (s : State) : Host.Outcome State Fault Refusal :=
  run (.imageVerify t) (fun s =>
    if s.stage ≠ 4 then s
    else
      let r := checkImage s.boot.image
      if r = 1 then
        setStage 5 ({ s with boot := { s.boot with slotA := s.boot.image, image := [], claim := none, active := 0, fwStarted := true } }.setNum 0xB000 5 1)
      else endLoad r s) s

/-- FW_START (R453, R454): the firmware serves SOT. -/
def execFwStart (t : Nat) (s : State) : Host.Outcome State Fault Refusal :=
  run (.fwStart t) (fun s =>
    if s.stage = 5 then
      setStage 6 ({ s with boot := { s.boot with serving := true } }.setNum 0x1000 2 (field s.boot.slotA 4 4))
    else s) s

/-! ### Boot commands (R465, R474) -/

/-- BootCommandStatus, and EV_251 for a refusal (Table 17.12). -/
def bootStatus (code reason : Nat) (s : State) : State :=
  let s := s.setNum 0xB000 3 (code <<< 12 ||| reason)
  if reason = 0 then s else s.raise 251 code reason

/-- BRING_UP (R465): its reason, 0 accepted. -/
def bringUpReason (s : State) : Nat := if s.stage ≠ 6 then 2 else if s.net.openSet.isSome then 3 else 0

/-- An accepted BRING_UP starts bring-up with a reading of the side rails, and powers all four bays of each usable side (R466, Table 17.7). -/
def doBringUp (rails : Nat) (s : State) : State :=
  let r := bringUpReason s
  let s := bootStatus 1 r s
  if r = 0 then
    let s := readRails rails s
    let bays := fun (x : Side) (ok : Bool) (s : State) => if ok && (s.sideRt x).usable && !unitFaulty s 7 (sideIx x) 0 0 then setSideBays x 15 s else s
    let s := bays .B s.boot.railsB (bays .A s.boot.railsA s)
    setStage 7 { s with boot := { s.boot with bringUpBegun := true } }
  else s

/-- BRING_UP (R465). -/
def execBringUp (t sideRails : Nat) (s : State) : Host.Outcome State Fault Refusal :=
  run (.bringUp t sideRails) (fun s => if hostOk s then doBringUp sideRails s else s) s

/-- Permit at READY with StartInterlock open: set if no demand is present (Table 10.1), of a pair or of a switch (R292). The enables of the
safety channels (R288) are present unless a cause of chapter 10 stands. -/
def permitAtReady (s : State) : State :=
  let st := s.num 0x6800 2
  let none := !st.testBit 30 && !st.testBit 28
  let set := !st.testBit 21 && none
  setPermits set set (setEnables (none && !st.testBit 29 && !st.testBit 27) s)

/-- READY (R467). -/
def enterReady (okA okB : Bool) (s : State) : State :=
  let s := adoptProfile (setStage 8 s)
  let s := sidesAtReady okA okB s
  let s := { s with safety := { s.safety with held := s.safety.accepted % 32 } }
  let bridge := fun (x : Side) (s : State) => if s.inService x then setBridged x true (pllOff (1 + sideIx x) s) else s
  let s := setBays (bridge .B (bridge .A s))
  let s := permitAtReady s
  (s.raise 240 (s.num 0x6000 2)).fwNote 0x0100 (s.num 0x1000 2)

/-- Bring-up ends (R466, R467): the faults found, in the order of Table 17.7 (receivers and drivers, the link, lofts and lanes), the spares,
the usable sides. -/
def endBringUp (found : List (List Nat)) (linkOk : Bool) (s : State) : State :=
  let (pads, rest) := found.partition (fun e => nth 0 e 0 == 5 || nth 0 e 0 == 6)
  let s := pads.foldl (fun s e => foundFault e s) s
  let s := if linkOk then s else foundFault (unitBytes 8 0xFF 0 0) s
  let s := rest.foldl (fun s e => foundFault e s) s
  let s := bringSpares 1 (bringSpares 0 s)
  let s := s.setNum 0xB100 3 (spareUse s)
  let okA := sideUsable s .A linkOk
  let okB := sideUsable s .B linkOk
  if !pllLocked s 0 then haltDevice 4 s
  else if okA || okB then enterReady okA okB s
  else haltDevice 2 s

/-- BRING_UP_COMPLETE (R466, R467). -/
def execBringUpComplete (t : Nat) (found : List (List Nat)) (linkOk : Bool) (s : State) : Host.Outcome State Fault Refusal :=
  run (.bringUpComplete t found linkOk) (fun s => if s.stage = 7 then endBringUp found linkOk s else s) s

/-- RESTART (R474): its reason, 0 accepted. -/
def restartReason (confirm : Nat) (s : State) : Nat :=
  if !(s.stage == 15 || s.stage == 8) then 2 else if s.stage == 8 && !s.stopped then 4 else if confirm ≠ 0x782 then 5 else 0

/-- A RESTART: its status, and where it is accepted the instant 10 ms after receipt at which the device behaves as at power good. -/
def doRestart (confirm : Nat) (s : State) : State :=
  let r := restartReason confirm s
  let s := bootStatus 2 r s
  if r = 0 && s.boot.restartAt.isNone then { s with boot := { s.boot with restartAt := some (s.now + msFs 10) } } else s

/-- RESTART (R474). -/
def execRestart (t confirm : Nat) (s : State) : Host.Outcome State Fault Refusal :=
  run (.restart t confirm) (fun s => if hostOk s then doRestart confirm s else s) s

/-- A write of BootCommand (Table 17.9). -/
def bootCommandWrite (w : Nat) (s : State) : State :=
  let c := bits w 15 12
  if c = 1 then doBringUp (railsNow s) s else if c = 2 then doRestart (bits w 11 0) s else bootStatus c 1 s

/-! ### The island (R470, R473) -/

/-- ISLAND_WATCHDOG (R470). -/
def execIslandWatchdog (t : Nat) (internal : Bool) (s : State) : Host.Outcome State Fault Refusal :=
  run (.islandWatchdog t internal) (fun s => if hostOk s then islandRestart (if internal then 3 else 1) s else s) s

/-- InactiveState of the firmware slots (Table 17.11). -/
def slotState (s : State) : Nat := s.fld 0xB200 9 27 24

/-- A part of an image is written to the inactive slot (R473), which has no verified version then. -/
def writePart (part : Nat) (data : List Nat) (s : State) : State :=
  { (s.setFld 0xB200 9 27 24 1).setNum 0xB200 0xA 0 with boot := { s.boot with parts := Store.put [] part data s.boot.parts } }

/-- IMAGE_PART_WRITE (R473). -/
def execImagePartWrite (t part : Nat) (data : List Nat) (s : State) : Host.Outcome State Fault Refusal :=
  run (.imagePartWrite t part data) (fun s => if hostOk s && decide (data.length ≤ blobMax) then writePart part data s else s) s

/-- VERIFY of the inactive slot (R473). -/
def verifySlot (s : State) : State :=
  let img := (List.range 7).flatMap (fun i => Store.get [] i s.boot.parts)
  let r := checkImage img
  let s := s.setNum 0xB000 5 r
  if r = 1 then
    let s := (s.setFld 0xB200 9 27 24 2).setNum 0xB200 0xA (field img 4 4)
    { s with boot := if s.boot.active = 0 then { s.boot with slotB := img } else { s.boot with slotA := img } }
  else ((s.setFld 0xB200 9 27 24 3).setNum 0xB200 0xA 0).raise 250 r

/-- IMAGE_VERIFY_COMMAND (R473). -/
def execImageVerifyCommand (t : Nat) (s : State) : Host.Outcome State Fault Refusal :=
  run (.imageVerifyCommand t) (fun s => if hostOk s then verifySlot s else s) s

/-- SWITCH is refused (R473). -/
def switchRefused (s : State) : Bool :=
  slotState s != 2 || !s.ready || s.net.openSet.isSome || s.sharing.linkBusy.isSome || s.sideState .A == 5 || s.sideState .B == 5
    || s.armed

/-- SWITCH (R473): refused, or the island restarts on the other slot at receipt + 2000 ns. -/
def switchSlot (s : State) : State :=
  if switchRefused s then s.raise 250 0
  else if s.boot.switchAt.isSome then s
  else { s with boot := { s.boot with switchAt := some s.appTime } }

/-- IMAGE_SWITCH (R473). -/
def execImageSwitch (t : Nat) (s : State) : Host.Outcome State Fault Refusal :=
  run (.imageSwitch t) (fun s => if hostOk s then switchSlot s else s) s

/-- DISCARD empties the inactive slot (R473). -/
def discardSlot (s : State) : State :=
  let s := (s.setFld 0xB200 9 27 24 0).setNum 0xB200 0xA 0
  { s with boot := if s.boot.active = 0 then { s.boot with parts := [], slotB := [] } else { s.boot with parts := [], slotA := [] } }

/-- IMAGE_DISCARD (R473). -/
def execImageDiscard (t : Nat) (s : State) : Host.Outcome State Fault Refusal :=
  run (.imageDiscard t) (fun s => if hostOk s then discardSlot s else s) s

/-! ### Temperatures and rails (R471, R472) -/

/-- A sensor's value in Sensors. -/
def putSensor (n v : Nat) (s : State) : State := s.setBlob 0xB010 1 (patch (s.blob 0xB010 1) (4 * n) (beBytes 4 v))

/-- 125 °C in F32. -/
def critTemp : Nat := 0x42FA0000

/-- TEMP_HIGH (R472): a die temperature that has been at or above TempHigh for `held` ns, 100 ms at least; once per episode. -/
def execTempHigh (t sensor value held : Nat) (s : State) : Host.Outcome State Fault Refusal :=
  run (.tempHigh t sensor value held) (fun s =>
    if held < 100000000 || s.boot.tempEpisodes.testBit sensor || !L32.le (s.num 0xB010 2) value then s
    else
      let s := { s with boot := { s.boot with tempEpisodes := setBit s.boot.tempEpisodes sensor true } }
      ((putSensor sensor value s).setBitO 0xB010 3 0 true).raise 241 sensor value) s

/-- A die has reached 125 °C, or a rail has left ±6 %, and has not yet come back (R472). -/
def noteCritical (n : Nat) (s : State) : State := { s with boot := { s.boot with critEpisodes := setBit s.boot.critEpisodes n true } }

/-- TEMP_CRITICAL (R472): a die temperature that has been at or above 125 °C for `held` ns, 10 ms at least. Sensors 0 to 5 belong to the
sides, 6 to the ridge. -/
def execTempCritical (t sensor value held : Nat) (s : State) : Host.Outcome State Fault Refusal :=
  run (.tempCritical t sensor value held) (fun s =>
    if decide (10000000 ≤ held) && !s.boot.critEpisodes.testBit sensor && L32.le critTemp value then
      let s := ((putSensor sensor value (noteCritical sensor s)).setBitO 0xB010 3 1 true).raise 242 sensor value
      if sensor < 6 then sideFault (sideOf (sensor % 2)) 6 s else ridgeFault s
    else s) s

/-- RAIL_WARNING (R472): a rail that has been outside ±3 % for `held` ns, 1 ms at least; once per episode. -/
def execRailWarning (t sensor value held : Nat) (s : State) : Host.Outcome State Fault Refusal :=
  run (.railWarning t sensor value held) (fun s =>
    if sensor < 8 || held < 1000000 || railGood 3 sensor value || s.boot.railEpisodes.testBit sensor then s
    else
      let s := { s with boot := { s.boot with railEpisodes := setBit s.boot.railEpisodes sensor true } }
      ((putSensor sensor value s).setBitO 0xB010 3 2 true).raise 243 sensor value) s

/-- RAIL_FAULT (R472): a rail that has been outside ±6 % for `held` ns, 100 µs at least. Sensors 8 to 15 belong to the sides, 16 to 19 to the
ridge. -/
def execRailFault (t sensor value held : Nat) (s : State) : Host.Outcome State Fault Refusal :=
  run (.railFault t sensor value held) (fun s =>
    if sensor < 8 || held < 100000 || railGood 6 sensor value || s.boot.critEpisodes.testBit sensor then s
    else
      let s := ((putSensor sensor value (noteCritical sensor s)).setBitO 0xB010 3 3 true).raise 244 sensor value
      if sensor < 16 then sideFault (sideOf (sensor % 2)) 6 s else ridgeFault s) s

/-- VDD_RIDGE_LOSS (R24, R492): every gate ball in high impedance, and a ridge fault. -/
def execVddRidgeLoss (t : Nat) (s : State) : Host.Outcome State Fault Refusal :=
  run (.vddRidgeLoss t) (fun s => ridgeFault (plateReleaseAll (holdGates s))) s

/-- RIDGE_FAULT (R23). -/
def execRidgeFault (t : Nat) (s : State) : Host.Outcome State Fault Refusal :=
  run (.ridgeFault t) ridgeFault s

/-- Corrected errors above CorrectedLimit are a finding that is not fatal (R283). -/
def correctedRate (x : Side) (s : State) : State :=
  refreshBad x (if rateHigh s x then s.setBitO (0x6030 + sideIx x) 1 19 true else s)

/-- A die below 125 °C, or a rail back within ±6 %: a later excursion is a new one (R472). -/
def calmSensor (n : Nat) (s : State) : State := { s with boot := { s.boot with critEpisodes := setBit s.boot.critEpisodes n false } }

/-- A sensor is updated (R471): episodes end, BandEdge follows the tuning voltage (R366), corrected errors are judged (R283). -/
def takeSensor (n v : Nat) (s : State) : State :=
  let s := putSensor n v s
  if n < 7 then
    let s := if s.boot.tempEpisodes.testBit n && L32.lt v (L32.sub (s.num 0xB010 2) 0x40A00000) then
        { s with boot := { s.boot with tempEpisodes := setBit s.boot.tempEpisodes n false } }
      else s
    if L32.lt v critTemp then calmSensor n s else s
  else if decide (8 ≤ n) && decide (n < 20) then
    let s := if s.boot.railEpisodes.testBit n && railGood 3 n v then
        { s with boot := { s.boot with railEpisodes := setBit s.boot.railEpisodes n false } }
      else s
    if railGood 6 n v then calmSensor n s else s
  else if decide (26 ≤ n) && decide (n < 31) then
    let p := n - 26
    let edge := L32.lt v 0x3DCCCCCD || L32.lt 0x3F666666 v
    if pllLocked s p then
      let s := { s with plls := Store.mod Pll.init p (fun q => { q with lastEdge := q.lastEdge || edge }) s.plls }
      s.setBitO (0x7100 + p) 3 13 edge
    else s
  else if decide (32 ≤ n) && decide (n < 36) then correctedRate (sideOf (n % 2)) s
  else s

/-- The numbers of Table 17.8. -/
def sensorListed (n : Nat) : Bool :=
  decide (n < 7) || (decide (8 ≤ n) && decide (n < 20)) || n == 24 || (decide (26 ≤ n) && decide (n < 31)) || (decide (32 ≤ n) && decide (n < 36))

/-- The corrected errors of a sensor are counted anew, from 0. -/
def startSecond (n : Nat) (s : State) : State := { s with boot := { s.boot with corrected := setNth s.boot.corrected n 0 } }

/-- SENSOR_UPDATE (R471): a number not listed, and a die of a side that is off, read as a NaN; sensor 24 is RefDiff in ppm, and
sensors 32 to 35 take the corrected errors since their last update, which are exact. -/
def execSensorUpdate (t sensor value : Nat) (s : State) : Host.Outcome State Fault Refusal :=
  run (.sensorUpdate t sensor value) (fun s =>
    if !hostOk s || !sensorListed sensor then s
    else if s.ready && decide (sensor < 6) && !s.powered (sideOf (sensor % 2)) then putSensor sensor 0x7FC00000 s
    else if sensor = 24 then takeSensor 24 (L32.div (L32.ofInt (sx 32 (s.num 0x7040 3))) 0x447A0000) s
    else if 32 ≤ sensor then takeSensor sensor (L32.ofInt (nth 0 s.boot.corrected (sensor - 32) : Nat)) (startSecond (sensor - 32) s)
    else takeSensor sensor value s) s

end Sys2Proof.Machine
end

