-- ==== Sys2Proof/Machine/ElemOps.lean ====
section
/-!
DEFINITION. The computation of the elements 0x01 to 0x27, 0x2C to 0x30 (R157 to R179, R185 to R189, R197, R198, R246, R247, R255): step 6
of Table 05.7, in F32 under R144, each operation in the order written. An output carries the qualifiers of the inputs that its formula reads.
-/
namespace Sys2Proof.Machine

/-- What an execution sees beside its inputs: Ts (R146), the rate tick, the grid-forming state with whether the swing is frozen, σ, f_g and
DWELL, NominalFreq, the shares of a wear group, a stack's identity block where its record is valid, a load of the rotor by the ridge
(θ in 2^-64 turn, ω), whether the execution starts anew, the channel scale, N and the windows of ring inputs with their clean runs. -/
structure Env where
  ts : Nat
  tick : Nat
  gf : Nat
  frozen : Bool
  sigma : Nat
  fGrid : Nat
  dwell : Nat
  nominal : Nat
  shares : List Nat
  ident : List Nat
  load : Option (Nat × Nat)
  fresh : Bool
  full : Nat
  off : Nat
  n : Nat
  win : List (List Sample)
  run : List Nat
  deriving DecidableEq, Repr

/-- What an execution gives: outputs, state words, whether an output was held by an upper or a lower limit, and Manual. -/
structure Res where
  out : List Port
  st : List Nat
  hi : Bool
  lo : Bool
  manual : Bool
  deriving DecidableEq, Repr

namespace El

/-- Words and ports by number. -/
def w (l : List Nat) (k : Nat) : Nat := nth 0 l k
def v (i : List Port) (k : Nat) : Nat := (nth Port.init i k).v
def q (i : List Port) (k : Nat) : Nat := (nth Port.init i k).q
def t (i : List Port) (k : Nat) : Bool := L32.truth (v i k)
def tf (i : List Port) (k : Nat) : Bool := (q i k).testBit 4
/-- The qualifiers of all inputs. -/
def qs (i : List Port) : Nat := i.foldl (fun a p => a ||| p.q) 0
/-- The qualifiers of inputs a to b − 1. -/
def qr (i : List Port) (a n : Nat) : Nat := (List.range n).foldl (fun x j => x ||| q i (a + j)) 0
def port (x y : Nat) : Port := ⟨x, 0, y⟩
def boolPort (b : Bool) (y : Nat) : Port := ⟨L32.ofBool b, 0, y⟩
/-- A count held as an integral F32 (R502). -/
def count (a : Nat) : Nat := (Dy.floorScaled (L32.toDy a) 0).toNat
def ofCount (n : Nat) : Nat := L32.ofInt n
/-- A result without limits. -/
def plain (o : List Port) (st : List Nat) : Res := ⟨o, st, false, false, false⟩
/-- A value clamped, and whether the upper and the lower limit acted. -/
def lim (x lo hi : Nat) : Nat × Bool × Bool := (L32.clamp x lo hi, L32.lt hi x, L32.lt x lo)
def sq (a : Nat) : Nat := L32.mul a a

def sqrt3 : Nat := 0x3FDDB3D7
def sqrt3h : Nat := 0x3F5DB3D7
def three : Nat := 0x40400000
def twoThirds : Nat := 0x3F2AAAAB
def twoPi : Nat := 0x40C90FDB

/-! ### Arithmetic, logic and utility types (R171) -/

def sum (p : List Nat) (i : List Port) : Res :=
  plain [port (L32.fma (w p 3) (v i 3) (L32.fma (w p 2) (v i 2) (L32.fma (w p 1) (v i 1) (L32.fma (w p 0) (v i 0) (w p 4))))) (qs i)] []

def mulDiv (p : List Nat) (i : List Port) : Res :=
  let c := v i 2
  let cm := w p 0
  let d := if L32.le cm (L32.abs c) then c else if c.testBit 31 && !L32.isZero c then L32.neg cm else cm
  plain [port (L32.div (L32.mul (v i 0) (v i 1)) d) (qs i)] []

/-- Element 0x04 (R163). -/
def limit (p st : List Nat) (i : List Port) (e : Env) : Res :=
  let x := v i 0
  let y := w st 0
  let c := L32.clamp x (w p 1) (w p 0)
  let up := L32.add y (L32.mul (w p 2) e.ts)
  let dn := L32.sub y (L32.mul (w p 3) e.ts)
  let rise := L32.lt y c && L32.lt up c
  let fall := L32.lt c y && L32.lt c dn
  let o := if rise then up else if fall then dn else c
  let hi := L32.lt (w p 0) x || rise
  let lo := L32.lt x (w p 1) || fall
  ⟨[port o (q i 0), boolPort (hi || lo) (q i 0)], [o], hi, lo, false⟩

/-- The segment of a gain schedule: g of R171 for S in x_k ≤ S < x_(k+1). -/
def gainAt (p : List Nat) (s : Nat) : Nat :=
  if L32.isNan s || L32.le s (w p 0) then w p 16
  else if L32.le (w p 15) s then w p 31
  else match (List.range 15).find? (fun k => L32.le (w p k) s && L32.lt s (w p (k + 1))) with
    | some k =>
      let dx := L32.sub s (w p k)
      let dg := L32.sub (w p (k + 17)) (w p (k + 16))
      L32.add (w p (k + 16)) (L32.div (L32.mul dx dg) (L32.sub (w p (k + 1)) (w p k)))
    | none => w p 16

def schedule (p : List Nat) (i : List Port) : Res :=
  let g := gainAt p (v i 0)
  plain [port (L32.mul g (v i 1)) (qs i), port g (q i 0)] []

/-- The input a MAX or MIN selector delivers: the lowest-numbered of the best, X0 where all are NaN. -/
def best (i : List Port) (gt : Bool) : Nat :=
  let r := (List.range 4).foldl (fun (b : Option Nat) k =>
    if L32.isNan (v i k) then b
    else match b with
      | none => some k
      | some j => if (if gt then L32.lt (v i j) (v i k) else L32.lt (v i k) (v i j)) then some k else b) none
  r.getD 0

def selector (p : List Nat) (i : List Port) : Res :=
  let m := w p 0
  if m = 0 then
    let x := v i 4
    let k := if L32.isNan x then 0 else if L32.le 0x40400000 x then 3 else if L32.le x 0 then 0
      else (clampI 0 3 (Dy.roundScaled (L32.toDy x) 0)).toNat
    plain [port (v i k) (q i k ||| q i 4)] []
  else
    let k := best i (m == 1)
    plain [port (v i k) (q i k)] []

/-- Element 0x07 (R166). DESIGN CHOICE (log entry 27): a Mask of 0 while Using is 1, from a preset or a swap of banks, follows the rule's
execution steps, and PRI returns after HoldCount clean executions, though the rule's words say that PRI is delivered throughout. -/
def qualSel (p st : List Nat) (i : List Port) : Res :=
  let b := (q i 0) &&& (w p 0) % 32 != 0
  let using1 := count (w st 0) != 0
  let clean := count (w st 1) + 1
  let (u, c) := if b then (true, 0)
    else if using1 then (if w p 1 ≤ clean then (false, 0) else (true, clean))
    else (false, count (w st 1))
  let k := if u then 1 else 0
  plain [port (v i k) (q i k), boolPort u 0] [L32.ofBool u, ofCount c]

/-- Element 0x08 (R161); `m` is the forced mode. -/
def station (m : Nat) (p st : List Nat) (i : List Port) (e : Env) : Res :=
  let man := m == 1 || (m == 0 && t i 2)
  let qm := if m = 0 then q i 2 else 0
  if man then
    let y := w st 0
    let step := L32.mul (w p 0) e.ts
    let g := v i 1
    let up := L32.add y step
    let dn := L32.sub y step
    let hi := L32.lt y g && L32.lt up g
    let lo := L32.lt g y && L32.lt g dn
    let o := if hi then up else if lo then dn else g
    ⟨[port o (q i 1 ||| qm), boolPort true qm], [o, L32.one], hi, lo, true⟩
  else ⟨[port (v i 0) (q i 0 ||| qm), boolPort false qm], [v i 0, 0], false, false, false⟩

def threshold (p st : List Nat) (i : List Port) : Res :=
  let on := count (w st 0) != 0
  let cond := if on then L32.le (v i 0) (w p 1) else L32.le (w p 0) (v i 0)
  let n := if cond then count (w st 1) + 1 else 0
  let flip := decide (w p 2 ≤ n)
  let o := on != flip
  plain [boolPort o (q i 0)] [L32.ofBool o, ofCount (if flip then 0 else n)]

def logic (p : List Nat) (i : List Port) : Res :=
  let k := 8 * (t i 0).toNat + 4 * (t i 1).toNat + 2 * (t i 2).toNat + (t i 3).toNat
  plain [boolPort ((w p 0).testBit k) (qs i)] []

def hold (st : List Nat) (i : List Port) : Res :=
  if t i 1 then plain [port (w st 0) (q i 1)] st else plain [port (v i 0) (qs i)] [v i 0]

def delay (p st : List Nat) (i : List Port) : Res :=
  plain [port (w st (w p 0 - 1)) (q i 0)] ((v i 0 :: st).take 64)

/-! ### Controllers (R158 to R165) -/

/-- Element 0x0B (R159, R160). -/
def pi (p st : List Nat) (i : List Port) (e : Env) : Res :=
  let er := L32.sub (v i 0) (v i 1)
  let pe := L32.mul (w p 0) er
  let ff := v i 2
  if t i 4 then
    let (u, hi, lo) := lim (v i 3) (w p 3) (w p 2)
    let y := q i 3 ||| q i 4
    ⟨[port u y, boolPort false y, boolPort false y], [L32.clamp (L32.sub (L32.sub u pe) ff) (w p 5) (w p 4)], hi, lo, true⟩
  else
    let d := if tf i 1 then 0 else L32.mul (L32.mul (w p 1) e.ts) er
    let ic := L32.clamp (L32.add (w st 0) d) (w p 5) (w p 4)
    let (u, hi, lo) := lim (L32.add (L32.add pe ic) ff) (w p 3) (w p 2)
    let held := (hi && L32.lt 0 d) || (lo && L32.lt d 0)
    let y := qr i 0 3 ||| q i 4
    ⟨[port u y, boolPort hi y, boolPort lo y], [if held then w st 0 else ic], hi, lo, false⟩

/-- The integral of 0x0B re-expressed at a swap (R158), and whether its clamp changed it. -/
def piSwap (old new st : List Nat) (i : List Port) : Nat × Bool :=
  let er := L32.sub (v i 0) (v i 1)
  let ub := L32.clamp (L32.add (L32.add (L32.mul (w old 0) er) (w st 0)) (v i 2)) (w old 3) (w old 2)
  let i1 := L32.sub (L32.sub ub (L32.mul (w new 0) er)) (v i 2)
  let i2 := L32.clamp i1 (w new 5) (w new 4)
  (i2, i2 != i1)

/-- sin(2π m / n) as a fixed-point number of scale 2^120. -/
def sinFix (m : Int) (n : Nat) : Int :=
  let x := twoPiFix * (m % n).toNat / n
  sinSeries (x * x / 2 ^ 120) 28 1 x

/-- The sum and the product of the poles of a resonant pair (R164): a pair s² + Wc s + ω_h², of resonance ω_h = 2π × Order × F and bandwidth
Wc, under the bilinear transform prewarped at ω_h. With θ = ω_h Ts and α = Wc sin θ / (2 ω_h) they are 2 cos θ / (1 + α) and
(1 − α) / (1 + α). -/
def pairPoles (order f wc ts : Nat) : Nat × Nat :=
  if !(L32.isFinite f && L32.isFinite wc) then (0x7FC00000, 0x7FC00000)
  else
    let (m, n, _) := Dy.align (Dy.mul (Dy.mul ⟨order, 0⟩ (L32.toDy f)) (L32.toDy ts)) ⟨1, 0⟩
    let theta := (twoPiFix : Int) * m / n
    let g := Dy.floorScaled (Dy.mul (L32.toDy wc) (L32.toDy ts)) 120
    let al := if theta = 0 then g / 2 else g * sinFix m n.toNat / (2 * theta)
    let den := L32.ofScaled (2 ^ 120 + al) (-120)
    (L32.div (L32.ofScaled (2 * sinFix (4 * m + n) (4 * n).toNat) (-120)) den, L32.div (L32.ofScaled (2 ^ 120 - al) (-120)) den)

/-- A resonant pair steps (R164): it contributes nothing and keeps its state where Order × F is at or above 0.45/Ts. The step is linear in x1,
x2 and the error, with the poles of the rule; its gains and what x2 holds the rule does not state (log entry 5). -/
def resonate (kr order f wc er : Nat) (step : Bool) (x1 x2 : Nat) (e : Env) : Nat × Nat × Nat :=
  let o := L32.ofInt order
  if L32.le (L32.div 0x3EE66666 e.ts) (L32.mul o f) then (0, x1, x2)
  else if step then
    let c := Config.resonator [kr, o, f, wc, e.ts]
    let (sum, prod) := pairPoles order f wc e.ts
    let b := if L32.isFinite (c 1) && !L32.isZero (c 1) then c 1 else L32.one
    let d := L32.sub sum (c 0)
    let back := L32.div (L32.sub (L32.mul (c 0) d) prod) b
    let y1 := L32.add (L32.add (L32.mul (c 0) x1) (L32.mul b x2)) (L32.mul (c 2) er)
    (y1, y1, L32.add (L32.add (L32.mul back x1) (L32.mul d x2)) (L32.mul (c 3) er))
  else (x1, x1, x2)

/-- Element 0x0C. -/
def propRes (p st : List Nat) (i : List Port) (e : Env) : Res :=
  let er := L32.sub (v i 0) (v i 1)
  let (c, a, b) := resonate (w p 1) (w p 2) (v i 3) (w p 3) er (!tf i 1) (w st 0) (w st 1) e
  let (u, hi, lo) := lim (L32.add (L32.add (L32.mul (w p 0) er) c) (v i 2)) (w p 5) (w p 4)
  ⟨[port u (qs i), boolPort (hi || lo) (qs i)], [a, b], hi, lo, false⟩

/-- Element 0x0D. -/
def resBank (p st : List Nat) (i : List Port) (e : Env) : Res :=
  let rs := (List.range 6).map (fun k =>
    resonate (w p k) (w p (6 + k)) (v i 1) (w p 12) (v i 0) (!tf i 0) (w st (2 * k)) (w st (2 * k + 1)) e)
  let x := rs.foldl (fun a r => L32.add a r.1) 0
  let (u, hi, lo) := lim x (w p 14) (w p 13)
  ⟨[port u (qs i)], rs.flatMap (fun r => [r.2.1, r.2.2]), hi, lo, false⟩

/-- Element 0x11 (R163, R148). -/
def integrator (p st : List Nat) (i : List Port) (e : Env) : Res :=
  let load := t i 2
  let x := if load then v i 1 else if tf i 0 then w st 0
    else L32.add (w st 0) (L32.mul (L32.mul (w p 0) e.ts) (v i 0))
  let (y, hi, lo) := lim x (w p 2) (w p 1)
  let k := q i 2 ||| (if load then q i 1 else q i 0)
  ⟨[port y k, boolPort (hi || lo) k], [y], hi, lo, false⟩

/-! ### Linear filters (R165, R172) -/

def leadLag (p st : List Nat) (i : List Port) (e : Env) : Res :=
  let a := L32.div L32.two e.ts
  let at_ := L32.mul a (w p 1)
  let bt := L32.mul a (w p 2)
  let c := L32.div L32.one (L32.add L32.one bt)
  let b0 := L32.mul (L32.mul (w p 0) (L32.add L32.one at_)) c
  let b1 := L32.mul (L32.mul (w p 0) (L32.sub L32.one at_)) c
  let a1 := L32.mul (L32.sub L32.one bt) c
  let y := L32.add (L32.mul b0 (v i 0)) (w st 0)
  plain [port y (q i 0)] [L32.sub (L32.mul b1 (v i 0)) (L32.mul a1 y)]

def biquad (p st : List Nat) (i : List Port) : Res :=
  let x := v i 0
  let y := L32.add (L32.mul (w p 0) x) (w st 0)
  let s1 := L32.add (L32.sub (L32.mul (w p 1) x) (L32.mul (w p 3) y)) (w st 1)
  plain [port y (q i 0)] [s1, L32.sub (L32.mul (w p 2) x) (L32.mul (w p 4) y)]

/-- An F32 as Q1.30, convergent and saturated; an infinity saturates, and for a NaN the spec states no result (log entry 5). -/
def toQ30 (a : Nat) : Int :=
  if L32.isNan a then satI 32 (Config.nanQ30 a)
  else if !L32.isFinite a then (if a.testBit 31 then -(2 ^ 31) else 2 ^ 31 - 1)
  else satI 32 (Dy.roundScaled (L32.toDy a) 30)

/-- Element 0x10 (R165). -/
def biquadFix (p st : List Nat) (i : List Port) : Res :=
  let x := toQ30 (L32.mul (v i 0) (w p 5))
  let z := fun k => sx 32 (w st k)
  let b := fun k => sx 32 (w p k)
  let y := satI 32 (convShift (b 0 * x + b 1 * z 0 + b 2 * z 1 - b 3 * z 2 - b 4 * z 3) 29)
  plain [port (L32.mul (L32.ofScaled y (-30)) (w p 6)) (q i 0)] [ofInt 32 x, w st 0, ofInt 32 y, w st 2]

/-! ### Transforms (R173) -/

def alpha (a b c : Nat) : Nat := L32.div (L32.sub (L32.sub (L32.mul L32.two a) b) c) three
def beta (b c : Nat) : Nat := L32.div (L32.sub b c) sqrt3
def zero3 (a b c : Nat) : Nat := L32.div (L32.add (L32.add a b) c) three
/-- D and Q of element 0x14 at an angle. -/
def dq (a b c th : Nat) : Nat × Nat :=
  let al := alpha a b c
  let be := beta b c
  let cs := cosTurns th
  let sn := sinTurns th
  (L32.add (L32.mul al cs) (L32.mul be sn), L32.sub (L32.mul be cs) (L32.mul al sn))

def abcAb (i : List Port) : Res :=
  plain [port (alpha (v i 0) (v i 1) (v i 2)) (qs i), port (beta (v i 1) (v i 2)) (qr i 1 2),
    port (zero3 (v i 0) (v i 1) (v i 2)) (qs i)] []

def abcDq (i : List Port) : Res :=
  let (d, k) := dq (v i 0) (v i 1) (v i 2) (v i 3)
  plain [port d (qs i), port k (qs i), port (zero3 (v i 0) (v i 1) (v i 2)) (qr i 0 3)] []

def dqAbc (i : List Port) : Res :=
  let cs := cosTurns (v i 3)
  let sn := sinTurns (v i 3)
  let al := L32.sub (L32.mul (v i 0) cs) (L32.mul (v i 1) sn)
  let be := L32.add (L32.mul (v i 0) sn) (L32.mul (v i 1) cs)
  let z := v i 2
  let h := L32.div (L32.neg al) L32.two
  let r := L32.mul sqrt3h be
  plain [port (L32.add al z) (qs i), port (L32.add (L32.add h r) z) (qs i), port (L32.add (L32.sub h r) z) (qs i)] []

def rotation (p : List Nat) (i : List Port) : Res :=
  let cs := cosTurns (v i 2)
  let s0 := sinTurns (v i 2)
  let sn := if w p 0 = 0 then s0 else L32.neg s0
  plain [port (L32.sub (L32.mul (v i 0) cs) (L32.mul (v i 1) sn)) (qs i),
    port (L32.add (L32.mul (v i 0) sn) (L32.mul (v i 1) cs)) (qs i)] []

/-! ### Elements on whole cycles (R148, R174) -/

/-- sin(2π m / n) as Q1.30, to nearest even. -/
def sinQ30 (m n : Nat) : Int := convShift (sinFix m n) 90
/-- cos(2π m / n) as Q1.30. -/
def cosQ30 (m n : Nat) : Int := sinQ30 (4 * m + n) (4 * n)

/-- Σ q over a window, Σ q cos and Σ q sin of harmonic h (R174). -/
def sum0 (l : List Sample) : Int := l.foldl (fun a s => a + s.v) 0
def sumC (n h : Nat) (l : List Sample) : Int := l.foldl (fun a s => a + s.v * cosQ30 (h * s.idx % n) n) 0
def sumS (n h : Nat) (l : List Sample) : Int := l.foldl (fun a s => a + s.v * sinQ30 (h * s.idx % n) n) 0

/-- A window is ready: N consecutive clean samples have entered it. -/
def ready (e : Env) (k : Nat) : Bool := decide (0 < e.n) && decide (e.n ≤ nth 0 e.run k)
/-- The qualifiers of a window, with Settling while it is not ready. -/
def winQ (e : Env) (k : Nat) : Nat :=
  (nth [] e.win k).foldl (fun a s => a ||| s.q) (if ready e k then 0 else 4)

/-- (2/N) × an exact sum with 60 fraction bits, in F64. -/
def part64 (e : Env) (x : Int) : Nat := D64.mul (D64.div (D64.ofInt 2) (D64.ofInt e.n)) (D64.ofScaled x (-60))
/-- ScaleFull × S0 / N + ScaleOffset of window k in F64, rounded once to F32 (R174). DESIGN CHOICE (log entry 9): the operations are taken in
the order written, (ScaleFull × S0) / N, each rounded to F64. -/
def mean64 (e : Env) (k : Nat) : Nat :=
  let s0 := D64.ofScaled (sum0 (nth [] e.win k)) (-30)
  D64.to32 (D64.add (D64.div (D64.mul (D64.of32 e.full) s0) (D64.ofInt e.n)) (D64.of32 e.off))
def fullOf (e : Env) (x : Nat) : Nat := D64.to32 (D64.mul (D64.of32 e.full) x)
def mag64 (re im : Nat) : Nat := D64.sqrt (D64.add (D64.mul re re) (D64.mul im im))

def cycleAverage (e : Env) : Res :=
  let k := winQ e 0
  plain [port (mean64 e 0) k, boolPort (ready e 0) k] []

/-- √3/2 in F64. -/
def s3h64 : Nat := D64.div (D64.sqrt (D64.ofInt 3)) (D64.ofInt 2)
/-- a × (re, im) with a = e^(j2π/3), and with a² for `neg`. -/
def turn3 (neg : Bool) (re im : Nat) : Nat × Nat :=
  let h := D64.neg (D64.div (D64.ofInt 1) (D64.ofInt 2))
  let s := if neg then D64.neg s3h64 else s3h64
  (D64.sub (D64.mul h re) (D64.mul s im), D64.add (D64.mul s re) (D64.mul h im))
/-- (x + y + z) / 3. -/
def third (x y z : Nat × Nat) : Nat × Nat :=
  let f := fun a b c => D64.div (D64.add (D64.add a b) c) (D64.ofInt 3)
  (f x.1 y.1 z.1, f x.2 y.2 z.2)

/-- Element 0x17. -/
def sequence (e : Env) : Res :=
  let ph := fun k => let l := nth [] e.win k
    (part64 e (sumC e.n 1 l), D64.neg (part64 e (sumS e.n 1 l)))
  let a := ph 0
  let b := ph 1
  let c := ph 2
  let pp := third a (turn3 false b.1 b.2) (turn3 true c.1 c.2)
  let nn := third a (turn3 true b.1 b.2) (turn3 false c.1 c.2)
  let zz := third a b c
  let k := winQ e 0 ||| winQ e 1 ||| winQ e 2
  plain [port (fullOf e pp.1) k, port (fullOf e pp.2) k, port (fullOf e nn.1) k, port (fullOf e nn.2) k,
    port (fullOf e (mag64 zz.1 zz.2)) k, boolPort (ready e 0 && ready e 1 && ready e 2) k] []

/-- atan of x / 2^100, 0 ≤ x ≤ 2^100, as a fixed-point number of the same scale: the argument is halved three times, then the series. -/
def halfArg (x : Nat) : Nat := x * 2 ^ 100 / (2 ^ 100 + isqrt100 x)
where
  isqrt100 (x : Nat) : Nat := Fp.isqrt (2 ^ 200 + x * x)
def atanSeries (x2 : Nat) : Nat → Nat → Int → Int
  | 0, _, _ => 0
  | fuel + 1, k, term => term / (k : Int) + atanSeries x2 fuel (k + 2) (-(term * (x2 : Int)) / ((2 ^ 100 : Nat) : Int))
def atanFix (x : Nat) : Int :=
  let y := halfArg (halfArg (halfArg x))
  8 * atanSeries (y * y / 2 ^ 100) 32 1 y

/-- arg(re + j im) / 2π in F32. -/
def argTurns (re im : Nat) : Nat :=
  let (x, y, _) := Dy.align (D64.toDy re) (D64.toDy im)
  let ax := x.natAbs
  let ay := y.natAbs
  if ax = 0 && ay = 0 then 0
  else
    let quarter : Int := ((twoPiFix / 2 ^ 22 : Nat) : Int)
    let a : Int := if ay ≤ ax then atanFix (ay * 2 ^ 100 / ax) else quarter - atanFix (ax * 2 ^ 100 / ay)
    let a := if x < 0 then 2 * quarter - a else a
    let a := if y < 0 then -a else a
    L32.ofRat a (4 * quarter.toNat)

/-- Element 0x18: one order. -/
def harmonic (e : Env) (h : Nat) : List Port :=
  let k := winQ e 0
  if h = 0 then [port (mean64 e 0) k, port 0 k]
  else
    let l := nth [] e.win 0
    let re := part64 e (sumC e.n h l)
    let im := D64.neg (part64 e (sumS e.n h l))
    [port (fullOf e (mag64 re im)) k, port (argTurns re im) k]

def harmonics (p : List Nat) (e : Env) : Res :=
  plain ((List.range 4).flatMap (fun j => harmonic e (w p j)) ++ [boolPort (ready e 0) (winQ e 0)]) []

/-! ### Grid-side elements (R167, R175 to R179) -/

/-- Element 0x19 (R175). -/
def power (p st : List Nat) (i : List Port) (e : Env) : Res :=
  let va := v i 0
  let vb := v i 1
  let vc := v i 2
  let ia := v i 3
  let ib := v i 4
  let ic := v i 5
  let s3 := fun a b c => L32.add (L32.add a b) c
  let pw := L32.mul twoThirds (s3 (L32.mul va ia) (L32.mul vb ib) (L32.mul vc ic))
  let qw := L32.mul 0x3EC511A3 (s3 (L32.mul (L32.sub vb vc) ia) (L32.mul (L32.sub vc va) ib) (L32.mul (L32.sub va vb) ic))
  let v2 := L32.mul twoThirds (s3 (sq va) (sq vb) (sq vc))
  let i2 := L32.mul twoThirds (s3 (sq ia) (sq ib) (sq ic))
  let r := if L32.isZero (w p 0) then L32.one else L32.min L32.one (L32.div e.ts (w p 0))
  let f := fun k x => L32.add (w st k) (L32.mul r (L32.sub x (w st k)))
  let st := [f 0 pw, f 1 qw, f 2 v2, f 3 i2]
  plain [port (w st 0) (qs i), port (w st 1) (qs i), port (L32.sqrt (w st 2)) (qr i 0 3), port (L32.sqrt (w st 3)) (qr i 3 3)] st

/-- Element 0x1E (R167). A negative limit leaves the clamp of Mode 1 an empty range, for which the rule states no result: IQ is free then (log
entry 5). -/
def circle (p : List Nat) (i : List Port) : Res :=
  let d := v i 0
  let k := v i 1
  let l := L32.min (w p 0) (v i 2)
  let m := L32.sqrt (L32.add (sq d) (sq k))
  if L32.le m l then plain [port d (qs i), port k (qs i), boolPort false (qs i)] []
  else
    let (od, oq) := if w p 1 = 0 then (L32.mul d (L32.div l m), L32.mul k (L32.div l m))
      else
        let oq := if L32.lt l 0 then Config.openClamp k l else L32.clamp k (L32.neg l) l
        let r := L32.min (L32.abs d) (L32.sqrt (L32.sub (sq l) (sq oq)))
        ((if L32.isZero d then 0 else if L32.lt d 0 then L32.neg r else r), oq)
    ⟨[port od (qs i), port oq (qs i), boolPort true (qs i)], [], true, false, false⟩

/-- θ held as two words (R502), and the words of an angle. -/
def theta64 (st : List Nat) : Nat := w st 0 * 2 ^ 32 + w st 1
def thetaWords (th : Nat) : List Nat := [th / 2 ^ 32 % 2 ^ 32, th % 2 ^ 32]
/-- The step f × Ts in UQ0.64 (R168). -/
def angleStep (f ts : Nat) : Int := Dy.roundScaled (Dy.mul (L32.toDy f) (L32.toDy ts)) 64
def advanceTheta (th f ts : Nat) : Nat := (((th : Int) + angleStep f ts) % ((2 ^ 64 : Nat) : Int)).toNat

/-- Element 0x1A (R185, R168, R199, R201): parameters H, D, Fnom, Fmin, Fmax. -/
def rotor (p st : List Nat) (i : List Port) (e : Env) : Res :=
  let ld := t i 3
  let om0 := match e.load with
    | some l => l.2
    | none => w st 2
  let loaded := ld || e.load.isSome
  let th := if ld then v i 2 * 2 ^ 32 else match e.load with
    | some l => l.1
    | none => theta64 st
  let resync := e.gf == 5
  let dP := if resync then 0 else L32.sub (v i 0) (v i 1)
  let wr := if resync then L32.div (L32.add e.fGrid e.sigma) (w p 2) else L32.one
  let om := if e.frozen then om0
    else L32.add om0 (L32.mul (L32.div e.ts (L32.mul L32.two (w p 0))) (L32.sub dP (L32.mul (w p 1) (L32.sub om0 wr))))
  let (f, hi, lo) := lim (L32.mul om (w p 2)) (w p 3) (w p 4)
  let om := L32.div f (w p 2)
  let th := if loaded then th else advanceTheta th f e.ts
  let k := if e.frozen || resync then 0 else qr i 0 2
  ⟨[⟨th / 2 ^ 32, f, k ||| q i 3 ||| (if ld then q i 2 else 0)⟩, port f k, port om k], thetaWords th ++ [om], hi, lo, false⟩

/-- The deadband of R186. -/
def dz (x b : Nat) : Nat := if L32.lt b x then L32.sub x b else if L32.lt x (L32.neg b) then L32.add x b else 0

def pfDroop (p : List Nat) (i : List Port) : Res :=
  plain [port (L32.mul (w p 1) (L32.sub L32.one (L32.mul (w p 0) (dz (L32.sub (v i 1) (v i 0)) (w p 2))))) (qs i)] []

/-- Element 0x1C (R187): Nq, Vnom, Db, Tf. -/
def qvDroop (p st : List Nat) (i : List Port) (e : Env) : Res :=
  let qf := if L32.lt 0 (w p 3) then
      L32.add (w st 0) (L32.mul (L32.min (L32.div e.ts (w p 3)) L32.one) (L32.sub (v i 1) (w st 0)))
    else v i 1
  plain [port (L32.sub (w p 1) (L32.mul (w p 0) (dz (L32.sub qf (v i 0)) (w p 2)))) (qs i)] [qf]

def virtualZ (p : List Nat) (i : List Port) (e : Env) : Res :=
  let x := L32.div (L32.mul (w p 1) (v i 2)) e.nominal
  plain [port (L32.sub (L32.mul (w p 0) (v i 0)) (L32.mul x (v i 1))) (qs i),
    port (L32.add (L32.mul (w p 0) (v i 1)) (L32.mul x (v i 0))) (qs i)] []

/-- Element 0x1F (R176, R168): Kp, Ki, Fnom, Fmin, Fmax, LockTol. -/
def tracker (p st : List Nat) (i : List Port) (e : Env) : Res :=
  let th := theta64 st
  let (vd, vq) := dq (v i 0) (v i 1) (v i 2) (th / 2 ^ 32)
  let m0 := L32.sqrt (L32.add (sq vd) (sq vq))
  let er := L32.div vq (L32.max m0 0x3D4CCCCD)
  let om := L32.clamp (L32.add (w st 2) (L32.mul (L32.mul (w p 1) e.ts) er)) (L32.div (w p 3) (w p 2)) (L32.div (w p 4) (w p 2))
  let (f, hi, lo) := lim (L32.mul (L32.add om (L32.mul (w p 0) er)) (w p 2)) (w p 3) (w p 4)
  let n := if L32.le (L32.abs vq) (L32.mul (w p 5) m0) then min 64 (count (w st 3) + 1) else 0
  let th := advanceTheta th f e.ts
  let k := qs i
  ⟨[⟨th / 2 ^ 32, f, k⟩, port f k, port vd k, port vq k, boolPort (n == 64) k], thetaWords th ++ [om, ofCount n], hi, lo, false⟩

/-- Element 0x20 (R177): Thresh, Holdoff. -/
def phaseJump (p st : List Nat) (i : List Port) (e : Env) : Res :=
  let (d, k) := dq (v i 0) (v i 1) (v i 2) (v i 3)
  let weak := L32.lt (L32.sqrt (L32.add (sq d) (sq k))) 0x3D4CCCCD
  let phi := vecAngle d k
  let ref := if weak then w st 0 else phi
  let n0 := count (w st 1)
  if e.fresh then plain [boolPort (n0 != 0) (qs i), port 0 (qs i)] [ref, w st 1]
  else
    let diff := sx 32 ((phi + 2 ^ 32 - w st 0) % 2 ^ 32)
    let dph := if weak then 0 else L32.mul (L32.mul 0x43B40000 (L32.ofInt diff)) 0x2F800000
    let n := if L32.le (w p 0) (L32.abs dph) then w p 1 else n0 - 1
    plain [boolPort (n != 0) (qs i), port dph (qs i)] [ref, ofCount n]

/-- Element 0x21 (R177): Window, Thresh. -/
def rocof (p st : List Nat) (i : List Port) (e : Env) : Res :=
  let win := w p 0
  let fill := count (w st 64)
  let f := v i 0
  let shifted := (f :: st).take 64
  if fill < win then
    plain [port 0 (q i 0 ||| 4), boolPort false (q i 0)] (shifted ++ [ofCount (fill + 1)])
  else
    let rate := L32.div (L32.sub f (w st (win - 1))) (L32.mul (L32.ofInt win) e.ts)
    plain [port rate (q i 0), boolPort (L32.le (w p 1) (L32.abs rate)) (q i 0)] (shifted ++ [w st 64])

/-- Element 0x22 (R189): LvIn, LvOut, HvIn, HvOut, Persist. -/
def rideClass (p st : List Nat) (i : List Port) : Res :=
  let cls := count (w st 0)
  let up := fun (c : Bool) n => if c then n + 1 else 0
  let pers := w p 4
  let lv := if cls = 0 then up (L32.lt (v i 0) (w p 0)) (count (w st 1))
    else if cls = 1 then up (L32.lt (w p 1) (v i 0)) (count (w st 1)) else 0
  let hv := if cls = 0 then up (L32.lt (w p 2) (v i 1)) (count (w st 2))
    else if cls = 2 then up (L32.lt (v i 1) (w p 3)) (count (w st 2)) else 0
  let next := if cls = 0 then (if pers ≤ lv then 1 else if pers ≤ hv then 2 else 0)
    else if pers ≤ (if cls = 1 then lv else hv) then 0 else cls
  let (lv, hv) := if next = cls then (lv, hv) else (0, 0)
  plain [port (ofCount next) (qs i), boolPort (next == 1) (qs i), boolPort (next == 2) (qs i)] [ofCount next, ofCount lv, ofCount hv]

/-! ### The spline generator (R198) -/

/-- ds(w). -/
def ds (a j x : Nat) : Nat :=
  if L32.le (L32.div (sq a) j) x then L32.div (L32.mul x (L32.add (L32.div x a) (L32.div a j))) L32.two
  else L32.mul x (L32.sqrt (L32.div x j))

def cube (a : Nat) : Nat := L32.mul (L32.mul a a) a

/-- stopdist(v, a). -/
def stopDist (am j vv aa : Nat) : Nat :=
  let vp := L32.add vv (L32.div (sq aa) (L32.mul L32.two j))
  if L32.le 0 aa then
    L32.add (L32.add (L32.div (L32.mul vv aa) j) (L32.div (cube aa) (L32.mul three (sq j)))) (ds am j vp)
  else
    let b := L32.abs aa
    L32.sub (ds am j vp) (L32.sub (L32.div (L32.mul vp b) j) (L32.div (cube b) (L32.mul 0x40C00000 (sq j))))

/-- The sign s of R198: +1 where every sign consulted is zero. -/
def signOf (x y : Nat) : Bool := if !L32.isZero x then L32.lt x 0 else L32.lt y 0

/-- Element 0x23: RateMax, AccMax, JerkMax; state y, ẏ, ÿ; inputs TGT, GO, INIT, LOAD. -/
def spline (p st : List Nat) (i : List Port) (e : Env) : Res :=
  let load := t i 3
  let y := if load then v i 2 else w st 0
  let yd := if load then 0 else w st 1
  let ydd := if load then 0 else w st 2
  let go := t i 1
  let tgt := v i 0
  let vm := w p 0
  let am := w p 1
  let jm := w p 2
  let h := e.ts
  let er := L32.sub tgt y
  let minus := if go then signOf er yd else signOf yd ydd
  let sg := fun x => if minus then L32.neg x else x
  let d := if go then sg er else 0
  let vv := sg yd
  let a := sg ydd
  let a2j := L32.div (sq a) (L32.mul L32.two jm)
  let j := if L32.le 0 vv && L32.le d (stopDist am jm vv a) then
      (if L32.lt a 0 && L32.le vv a2j then jm else if L32.lt (L32.neg am) a then L32.neg jm else 0)
    else
      (if L32.lt 0 a && L32.le (L32.sub vm a2j) vv then L32.neg jm else if L32.lt vv vm && L32.lt a am then jm
       else if L32.lt a 0 then jm else 0)
  let a := L32.clamp (L32.add a (L32.mul j h)) (L32.neg am) am
  let vv := L32.clamp (L32.add vv (L32.mul a h)) (L32.neg vm) vm
  let y1 := L32.add y (L32.mul (sg vv) h)
  let yd := sg vv
  let ydd := sg a
  let passed := if minus then L32.lt y1 tgt else L32.lt tgt y1
  let y2 := if go && passed then tgt else y1
  let snap := go && L32.le (L32.abs (L32.sub tgt y2)) (L32.mul jm (cube h)) && L32.le (L32.abs yd) (L32.mul jm (sq h))
    && L32.le (L32.abs ydd) (L32.mul jm h)
  let (y3, yd, ydd) := if snap then (tgt, 0, 0) else (y2, yd, ydd)
  let done := L32.le y3 tgt && L32.le tgt y3 && L32.isZero yd && L32.isZero ydd
  let k := qr i 0 2 ||| q i 3 ||| (if load then q i 2 else 0)
  plain [port y3 k, port yd k, boolPort done k] [y3, yd, ydd]

/-! ### Identification, model voltage, duty, leg balance (R178, R206, R179, R255) -/

/-- Element 0x24 (R178): Amp, Finj, Cycles; state Vr, Vi, Ir, Ii, n, RG, XG, CONF; the phase is Finj × t as R78 forms it. -/
def impedance (p st : List Nat) (i : List Port) (e : Env) : Res :=
  let phi := Line.angle ⟨0, freqQ24 (w p 1), 0⟩ e.tick
  let cs := cosTurns phi
  let sn := sinTurns phi
  let acc := fun k a b c d => L32.add (L32.add (w st k) (L32.mul a b)) (L32.mul c d)
  let vr := acc 0 (v i 0) cs (v i 1) sn
  let vi := L32.sub (L32.add (w st 1) (L32.mul (v i 1) cs)) (L32.mul (v i 0) sn)
  let ir := acc 2 (v i 2) cs (v i 3) sn
  let ii := L32.sub (L32.add (w st 3) (L32.mul (v i 3) cs)) (L32.mul (v i 2) sn)
  let n := L32.add (w st 4) L32.one
  let need := -(Dy.floorScaled (L32.toDy (L32.neg (L32.div (L32.ofInt (w p 2)) (L32.mul (w p 1) e.ts)))) 0)
  let m2 := L32.add (sq ir) (sq ii)
  let st' := if need ≤ (count n : Int) then
      (if L32.lt 0 m2 then
        [0, 0, 0, 0, 0, L32.div (L32.add (L32.mul vr ir) (L32.mul vi ii)) m2, L32.div (L32.sub (L32.mul vi ir) (L32.mul vr ii)) m2,
         L32.min L32.one (L32.div (L32.sqrt m2) (L32.mul n (w p 0)))]
       else [0, 0, 0, 0, 0, w st 5, w st 6, 0])
    else [vr, vi, ir, ii, n, w st 5, w st 6, w st 7]
  plain [port (L32.mul (w p 0) cs) 0, port (L32.mul (w p 0) sn) 0, port (w st' 5) (qs i), port (w st' 6) (qs i),
    port (w st' 7) (qs i)] st'

/-- A third of a turn in 2^-32 turn, to nearest. -/
def thirdTurn : Nat := 0x55555555

def modelVoltage (i : List Port) : Res :=
  let f := fun th => L32.sub (L32.mul (v i 0) (cosTurns th)) (L32.mul (v i 1) (sinTurns th))
  let th := v i 2
  plain [port (f th) (qs i), port (f ((th + 2 ^ 32 - thirdTurn) % 2 ^ 32)) (qs i), port (f ((th + thirdTurn) % 2 ^ 32)) (qs i)] []

/-- Element 0x26 (R179): Dmax, Dmin, Zseq. -/
def duty (p : List Nat) (i : List Port) : Res :=
  let wv := L32.max (v i 3) 0x358637BD
  let m := (List.range 3).map (fun k => L32.div (v i k) wv)
  let mx := L32.max (L32.max (w m 0) (w m 1)) (w m 2)
  let mn := L32.min (L32.min (w m 0) (w m 1)) (w m 2)
  let z := if w p 2 = 0 then 0
    else if w p 2 = 1 then L32.div (L32.neg (L32.add mx mn)) L32.two
    else if L32.le (L32.neg mn) mx then L32.sub L32.half mx else L32.sub 0xBF000000 mn
  let ds := m.map (fun x => lim (L32.add (L32.add L32.half x) z) (w p 1) (w p 0))
  let k := fun j => if w p 2 = 0 then q i j ||| q i 3 else qs i
  ⟨(List.range 3).map (fun j => port (nth (0, false, false) ds j).1 (k j)), [], ds.any (fun d => d.2.1), ds.any (fun d => d.2.2), false⟩

/-- Element 0x27 (R255): Kbal, Legs; inputs D, I0 to I7. -/
def legBalance (p : List Nat) (i : List Port) (e : Env) : Res :=
  let n := w p 1 % 16
  let s := (List.range (n - 1)).foldl (fun a k => L32.add a (v i (k + 2))) (v i 1)
  let k0 := q i 0 ||| qr i 1 n
  let ds := (List.range n).map (fun k =>
    lim (L32.add (v i 0) (L32.mul (w p 0) (L32.sub (L32.mul (nth (L32.ofRat 1 n) e.shares k) s) (v i (k + 1))))) 0 L32.one)
  ⟨(List.range 8).map (fun k => if k < n then port (nth (0, false, false) ds k).1 k0 else port 0 0), [],
    ds.any (fun d => d.2.1), ds.any (fun d => d.2.2), false⟩

/-! ### Thermal model and rainflow (R246, R247) -/

/-- Whether an F32 lies within a relative error of 2^-20 of a positive fixed-point number. -/
def within20 (a : Nat) (x : Int) : Bool :=
  L32.isFinite a && decide ((Fx.ofDy (L32.toDy a) - x).natAbs * 2 ^ 20 ≤ x.natAbs)

/-- 1 − exp(−Ts/τ), exact to 2^-240. -/
def riseOf (ts tau : Dyadic) : Int :=
  let d := Dy.align ts tau
  (Fx.sc : Int) - Fx.ofDy (Fx.exp (-(d.1 * Fx.sc / d.2.1)))

/-- The coefficient a = 1 − exp(−Ts/τ) of R246: the device's own algorithm gives it within a relative error of 2^-20, and where in that
interval is free (log entry 5). -/
def expCoef (ts tau : Nat) : Nat :=
  let x := riseOf (L32.toDy ts) (L32.toDy tau)
  let a := Config.expCoef ts tau
  if within20 a x then a else L32.ofScaled x (-256)

/-- Element 0x2C: words of Table 08.4; state θH1 to θH4, θL1 to θL4. -/
def thermal (p st : List Nat) (i : List Port) (e : Env) : Res :=
  let ai := L32.abs (v i 0)
  let vdc := L32.max (v i 1) 0
  let pc := L32.mul ai (L32.add (w p 16) (L32.mul (w p 17) ai))
  let ps := L32.mul (L32.mul (L32.mul (w p 18) ai) (L32.div vdc (w p 19))) (w p 20)
  let tot := L32.add pc ps
  let big := L32.mul (w p 21) tot
  let small := L32.sub tot big
  let (ph, pl) := if L32.le 0 (v i 0) then (big, small) else (small, big)
  let step := fun k rth tau pw => let th := w st k
    L32.add th (L32.mul (expCoef e.ts (w p tau)) (L32.sub (L32.mul (w p rth) pw) th))
  let st := (List.range 4).map (fun k => step k k (4 + k) ph) ++ (List.range 4).map (fun k => step (4 + k) (8 + k) (12 + k) pl)
  let tj := fun o => (List.range 4).foldl (fun a k => L32.add a (w st (o + k))) (v i 2)
  plain [port (tj 0) (qs i), port (tj 4) (qs i), port ph (qr i 0 2), port pl (qr i 0 2)] st

/-- D(i, j) of R248, rounded once to F64 (log entry 5): ln D = α ln ΔT − Ea / (8.617 333e−5 · T) − ln A. A valid identity block keeps A, ΔT
and T above 0 (Table 08.2). -/
def damage (id : List Nat) (i j : Nat) : Nat :=
  let f := fun (off : Nat) => L32.toDy (field id off 4)
  let ab := fun (x : Dyadic) => (x.m.toNat <<< x.e.toNat, 1 <<< (-x.e).toNat)
  let swing := Dy.mul (f 72) ⟨2 * i + 1, -1⟩
  let kelvin := Dy.add (Dy.mul (Dy.add (f 76) (Dy.mul (f 80) ⟨2 * j + 1, -1⟩)) ⟨100, 0⟩) ⟨27315, 0⟩
  let ln := fun (x : Dyadic) => Fx.ln (ab x).1 (ab x).2
  let al := Dy.align (Dy.mul (f 64) ⟨10 ^ 13, 0⟩) (Dy.mul kelvin ⟨8617333, 0⟩)
  let x := Dy.floorScaled (Dy.mul (f 60) ⟨ln swing, 0⟩) 0 - al.1 * Fx.sc / al.2.1 - ln (f 56)
  let r := Fx.exp x
  Fp.pack .b64 false false r.m.toNat r.e true

/-- A residue being counted: its entries, oldest first, and the cycles closed (x, y, full). -/
abbrev Rain := List Nat × List (Nat × Nat × Bool)

/-- The closing of full cycles over the last four entries, newest first. -/
def closeFull : Nat → List Nat → List (Nat × Nat × Bool) → Rain
  | 0, l, cy => (l, cy)
  | fuel + 1, l, cy =>
    match l with
    | d :: c :: b :: a :: rest =>
      let cb := L32.abs (L32.sub c b)
      if L32.le cb (L32.abs (L32.sub b a)) && L32.le cb (L32.abs (L32.sub d c)) then
        closeFull fuel (d :: a :: rest) (cy ++ [(b, c, true)])
      else (l, cy)
    | _ => (l, cy)

/-- reversal(p) of R247. -/
def reversal (r : List Nat) (x : Nat) : Rain :=
  let (r, cy) := if r.length = 32 then (r.drop 1, [(nth 0 r 0, nth 0 r 1, false)]) else (r, [])
  let (l, cy) := closeFull 16 (x :: r.reverse) cy
  (l.reverse, cy)

/-- The bins of a cycle (R247). -/
def swingBin (id : List Nat) (x y : Nat) : Nat :=
  min 31 (Dy.floorScaled (L32.toDy (L32.div (L32.abs (L32.sub x y)) (field id 72 4))) 0).toNat
def meanBin (id : List Nat) (x y : Nat) : Nat :=
  (clampI 0 15 (Dy.floorScaled
    (L32.toDy (L32.div (L32.sub (L32.div (L32.add x y) L32.two) (field id 76 4)) (field id 80 4))) 0)).toNat

/-- The state of a rainflow counter after TJ, and the cycles it closed. -/
def rainStep (id st : List Nat) (tj : Nat) : List Nat × List (Nat × Nat × Bool) :=
  let n := count (w st 0)
  let r := (st.drop 3).take n
  let dir := w st 1
  let ext := w st 2
  let g := field id 84 4
  let last := nth 0 r (n - 1)
  let m1 := 0xBF800000
  let put := fun (x : Rain) d e => ([ofCount x.1.length, d, e] ++ x.1 ++ List.replicate (32 - x.1.length) 0, x.2)
  if n = 0 then put ([tj], []) 0 tj
  else if dir = L32.one then
    (if L32.lt ext tj then put (r, []) dir tj
     else if L32.le g (L32.sub ext tj) then put (reversal r ext) m1 tj else put (r, []) dir ext)
  else if dir = m1 then
    (if L32.lt tj ext then put (r, []) dir tj
     else if L32.le g (L32.sub tj ext) then put (reversal r ext) L32.one tj else put (r, []) dir ext)
  else if L32.le g (L32.sub tj last) then put (r, []) L32.one tj
  else if L32.le g (L32.sub last tj) then put (r, []) m1 tj
  else put (r, []) dir ext

/-- Element 0x2D (R247); no step where the stack has no valid record (R245). -/
def rainflow (st : List Nat) (i : List Port) (e : Env) : Res × List (Nat × Nat × Bool) :=
  if e.ident.isEmpty then (plain [port 0 (qs i), port 0 (qs i)] st, [])
  else
    let (st, cy) := rainStep e.ident st (v i 0)
    let cyc := cy.foldl (fun a c => L32.add a (if c.2.2 then L32.one else L32.half)) 0
    let dl := cy.foldl (fun a c =>
      let d := D64.to32 (damage e.ident (swingBin e.ident c.1 c.2.1) (meanBin e.ident c.1 c.2.1))
      L32.add a (if c.2.2 then d else L32.mul d L32.half)) 0
    (plain [port cyc (qs i), port dl (qs i)] st, cy)

/-- Element 0x30 (R197). -/
def stateReader (e : Env) : Res := plain [port (L32.ofInt e.gf) 0, port e.dwell 0, boolPort (e.gf == 4) 0] []

end El

/-! ### All single-part types -/

/-- Step 6 of Table 05.7 for a single-part type; `mode` is the forced mode of element 0x08. -/
def runElement (ty mode : Nat) (p st : List Nat) (i : List Port) (e : Env) : Res :=
  match ty with
  | 0x01 => El.sum p i
  | 0x02 => El.plain [El.port (El.w p 0) 0] []
  | 0x03 => El.mulDiv p i
  | 0x04 => El.limit p st i e
  | 0x05 => El.schedule p i
  | 0x06 => El.selector p i
  | 0x07 => El.qualSel p st i
  | 0x08 => El.station mode p st i e
  | 0x09 => El.threshold p st i
  | 0x0A => El.logic p i
  | 0x0B => El.pi p st i e
  | 0x0C => El.propRes p st i e
  | 0x0D => El.resBank p st i e
  | 0x0E => El.leadLag p st i e
  | 0x0F => El.biquad p st i
  | 0x10 => El.biquadFix p st i
  | 0x11 => El.integrator p st i e
  | 0x12 => El.cycleAverage e
  | 0x13 => El.abcAb i
  | 0x14 => El.abcDq i
  | 0x15 => El.dqAbc i
  | 0x16 => El.rotation p i
  | 0x17 => El.sequence e
  | 0x18 => El.harmonics p e
  | 0x19 => El.power p st i e
  | 0x1A => El.rotor p st i e
  | 0x1B => El.pfDroop p i
  | 0x1C => El.qvDroop p st i e
  | 0x1D => El.virtualZ p i e
  | 0x1E => El.circle p i
  | 0x1F => El.tracker p st i e
  | 0x20 => El.phaseJump p st i e
  | 0x21 => El.rocof p st i e
  | 0x22 => El.rideClass p st i
  | 0x23 => El.spline p st i e
  | 0x24 => El.impedance p st i e
  | 0x25 => El.modelVoltage i
  | 0x26 => El.duty p i
  | 0x27 => El.legBalance p i e
  | 0x2C => El.thermal p st i e
  | 0x2D => (El.rainflow st i e).1
  | 0x2E => El.hold st i
  | 0x2F => El.delay p st i
  | 0x30 => El.stateReader e
  | _ => El.plain [] st

/-! ### State limits (R157) -/

/-- A count word at most `n`. -/
def capCount (a n : Nat) : Nat := if n < El.count a then El.ofCount n else a

/-- The state words of a type clamped to the state limits of a bank (R157, step 3 of Table 05.7). -/
def clampState (ty : Nat) (p st : List Nat) (ts : Nat) : List Nat :=
  let w := El.w
  let c := fun k lo hi => setNth st k (L32.clamp (w st k) lo hi)
  match ty with
  | 0x04 => c 0 (w p 1) (w p 0)
  | 0x07 => setNth st 1 (capCount (w st 1) (w p 1 - 1))
  | 0x09 => setNth st 1 (capCount (w st 1) (w p 2 - 1))
  | 0x0B => c 0 (w p 5) (w p 4)
  | 0x11 => c 0 (w p 2) (w p 1)
  | 0x1A => c 2 (L32.div (w p 3) (w p 2)) (L32.div (w p 4) (w p 2))
  | 0x1F => setNth (c 2 (L32.div (w p 3) (w p 2)) (L32.div (w p 4) (w p 2))) 3 (capCount (w st 3) 64)
  | 0x20 => setNth st 1 (capCount (w st 1) (w p 1))
  | 0x21 => setNth st 64 (capCount (w st 64) (w p 0))
  | 0x22 => setNth (setNth st 1 (capCount (w st 1) (w p 4 - 1))) 2 (capCount (w st 2) (w p 4 - 1))
  | 0x23 => setNth (c 1 (L32.neg (w p 0)) (w p 0)) 2 (L32.clamp (w st 2) (L32.neg (w p 1)) (w p 1))
  | 0x24 =>
    let need := (-(Dy.floorScaled (L32.toDy (L32.neg (L32.div (L32.ofInt (w p 2)) (L32.mul (w p 1) ts)))) 0)).toNat
    setNth st 4 (capCount (w st 4) (need - 1))
  | 0x2D => setNth st 0 (capCount (w st 0) 32)
  | _ => st

/-- The state words of a type that are not F32 (R502). -/
def rawState (ty : Nat) : List Nat :=
  match ty with
  | 0x10 => [0, 1, 2, 3]
  | 0x1A => [0, 1]
  | 0x1F => [0, 1]
  | 0x20 => [0]
  | _ => []

/-- Every output and F32 state word is finite (R147). -/
def finiteRes (ty : Nat) (r : Res) : Bool :=
  let angle := (elemType ty).outs.map (fun k => k == .angle)
  (List.range r.out.length).all (fun k =>
      let o := nth Port.init r.out k
      if nth false angle k then L32.isFinite o.f else L32.isFinite o.v)
    && (List.range r.st.length).all (fun k => (rawState ty).contains k || L32.isFinite (El.w r.st k))

/-! ### The predictive enumerator (R169, R170) -/

/-- One step of the predicted dq current under state s (R169). -/
def predStep (p : List Nat) (th vdc wl ts : Nat) (vg : Nat × Nat) (s : Nat) (i : Nat × Nat) : Nat × Nat :=
  let lv := fun b => if s.testBit b then vdc else 0
  let vs := El.dq (lv 2) (lv 1) (lv 0) th
  let g := L32.div ts (El.w p 0)
  let r := El.w p 1
  (L32.add i.1 (L32.mul g (L32.add (L32.sub (L32.sub vs.1 vg.1) (L32.mul r i.1)) (L32.mul wl i.2))),
   L32.add i.2 (L32.mul g (L32.sub (L32.sub (L32.sub vs.2 vg.2) (L32.mul r i.2)) (L32.mul wl i.1))))

/-- The cost of sequence k over a horizon (R169). -/
def seqCost (p : List Nat) (i : List Port) (ts applied horizon k : Nat) : Nat :=
  let th := (nth Port.init i 7).v
  let om := L32.mul El.twoPi (nth Port.init i 7).f
  let wl := L32.mul om (El.w p 0)
  let vg := El.dq (El.v i 3) (El.v i 4) (El.v i 5) th
  let i0 := El.dq (El.v i 0) (El.v i 1) (El.v i 2) th
  let go := (List.range horizon).foldl (fun (a : (Nat × Nat) × Option Nat × Nat × Nat) j =>
    let (cur, cost, prev, n) := a
    let s := k / 8 ^ j % 8
    let cur := predStep p th (El.v i 6) wl ts vg s cur
    let c := L32.add (El.sq (L32.sub (El.v i 8) cur.1)) (El.sq (L32.sub (El.v i 9) cur.2))
    (cur, some (match cost with
      | none => c
      | some x => L32.add x c), s, n + popcount 3 (prev ^^^ s))) (i0, none, applied, 0)
  L32.add (go.2.1.getD 0) (L32.mul (El.w p 2) (L32.ofInt go.2.2.2))

/-- The better of two (sequence, cost): the lesser cost, then the lower sequence. -/
def better (a b : Nat × Nat) : Nat × Nat :=
  if L32.lt b.2 a.2 then b else if L32.lt a.2 b.2 then a else if b.1 < a.1 then b else a

/-- The best of a list. -/
def bestOf : List (Nat × Nat) → Option (Nat × Nat)
  | [] => none
  | a :: l => some (l.foldl better a)

/-- The sequences that evaluator part `part` of a type computes (Table 05.9). -/
def partSeqs (ty part : Nat) : List Nat := if ty = 0x28 then [part] else [4 * part, 4 * part + 1, 4 * part + 2, 4 * part + 3]

/-- The parts whose results reduction part `part` of a type reduces; for 0x2B's joist reductions, parts of its 0x2A. -/
def reduces (ty part : Nat) : List Nat :=
  if ty = 0x28 then List.range 8
  else if ty = 0x29 then
    (if part = 16 then List.range 8 else if part = 17 then (List.range 8).map (· + 8) else [16, 17])
  else if part < 16 then (List.range 8).map (· + 8 * part)
  else if part < 20 then (List.range 4).map (· + 4 * (part - 16))
  else (List.range 4).map (· + 16)

/-- An evaluator part, not a reduction. -/
def evaluates (ty part : Nat) : Bool := (ty == 0x28 && part < 8) || (ty == 0x29 && part < 16) || ty == 0x2A

/-- The steps of the horizon of an enumerator type. -/
def horizonOf (ty : Nat) : Nat := ty - 0x27

/-- The outputs of the winner (R169): s_1 as three levels, its cost, and Applied. -/
def winner (b : Nat × Nat) (k : Nat) : Res :=
  let s := b.1 % 8
  El.plain [El.boolPort (s.testBit 2) k, El.boolPort (s.testBit 1) k, El.boolPort (s.testBit 0) k, El.port b.2 k] [El.ofCount s]

end Sys2Proof.Machine
end

