-- ==== Sys2Proof/Machine/Measure.lean ====
section
/-!
DEFINITION. The measurement chain (chapter 02) and the chord path (chapter 03, R94 to R102): receivers, CIC, half-bands, FIR, arc
resampler, DC blocker, coefficient banks, synchronisation, feedback supervision, window comparators, blanking and substitution.
-/
namespace Sys2Proof.Machine

/-! ### Restarts (R42, R62, R65) -/

/-- The ball of a channel (R40). -/
def chanBall (s : State) (c : Nat) : Nat := 9 * (c / 8) + (if s.bit (0x2100 + c) 1 0 then 8 else c % 8)

/-- The highest frequency, in UQ8.24, at which the lines of a domain can run (R78, R80): 0 where both its sources are BYPASS. -/
def highestFreq (s : State) (d : Nat) : Nat :=
  let of := fun (src : Nat) => if src < 2 then freqQ24 (s.num (0x2500 + d) 3) else if src = 2 then freqQ24 (s.num (0x2500 + d) 4) else 0
  max (of (s.fld (0x2500 + d) 1 31 30)) (of (s.fld (0x2500 + d) 1 29 28))

/-- SettleCount (R65): the fine samples that still depend on the state before a restart, at the phase that needs the most and with the
larger TapCount. In BYPASS they are FIR outputs; an arc adds its 16 taps, and turns FIR outputs into samples of N a cycle at the highest
frequency of the domain, at most two for each. A domain that can be on BYPASS takes the larger number: one with a source BYPASS, and one
with a source ROTOR or GRID, on BYPASS until its first triple (log entry 26). -/
def settleCount (s : State) (c : Nat) : Nat :=
  let d := decimD s c
  let h := decimH s c
  let l := max (tapCount s c 0) (tapCount s c 1)
  let span := decimK s c * (d - 1) + 10 * d * (2 ^ h - 1) + (l - 1) * (d * 2 ^ h)
  let p := max 1 (firPeriods s c)
  let fir := (span + p - 1) / p
  let f := highestFreq s (chanDomain s c)
  let per := 2 ^ 24 * 1000 * max 1 (modKHz s (chanGroup c))
  let arc := min (2 * (fir + 16)) (((fir + 16) * p * arcN s (chanDomain s c) * f + per - 1) / per)
  let fixed := s.fld (0x2500 + chanDomain s c) 1 31 28 == 10
  min 65535 (if f = 0 then fir else if fixed then arc else max fir arc)

/-- A chain cleared (R62, R93): everything but the DC estimate, the bank, the next index and the fault. -/
def clearedChain (n : Nat) (v : Chain) : Chain :=
  { v with integ := [], comb := [], hb0 := [], hb1 := [], fir := [], due := false, sat := false, run := 0, lastFir := none
           frozenRun := 0, settle := n, arc := [] }

/-- A channel restarts its chain on every side that computes (R65), with the SettleCount of the last commit. -/
def restartChain (c : Nat) (s : State) : State :=
  [Side.A, Side.B].foldl (fun s x =>
    if s.feeds x then s.setChain x c (clearedChain (s.num (0x2100 + c) 0xE) (s.chain x c)) else s) s

/-- A channel restarts by commit or recovery (R65): on the grid of its group's last alignment, or with its whole group on a new grid at
the group's next sampling edge. -/
def restartOnGrid (c : Nat) (s : State) : State :=
  let g := s.group (chanGroup c)
  let s := restartChain c s
  if g.aligned then s else s.setGroup (chanGroup c) { s.group (chanGroup c) with restart := true }

/-- A group takes a new grid, or the grid of an alignment, at this edge (R62, R65). -/
def newGrid (g : Nat) (aligned : Bool) (s : State) : State :=
  let s := (groupChannels s g).foldl (fun s c => restartChain c s) s
  s.setGroup g { s.group g with edges := 0, aligned := aligned, restart := false }

/-! ### Feedback supervision (R66 to R71) -/

/-- A condition is present on a channel of a side (R66, R67). -/
def condPresent (s : State) (x : Side) (c : Nat) : Bool :=
  let v := s.chain x c
  let n := s.fld (0x2100 + c) 7 15 0
  decide (64 ≤ v.run) || (s.group (chanGroup c)).missing || (n != 0 && decide (n ≤ v.frozenRun))

/-- Settling is present on a channel of a side. -/
def Chain.settling (v : Chain) : Bool := v.settle != 0 || v.arcSettle != 0

/-- Settling has cleared on a channel of a side: the Fault qualifier ends where its condition has ended (R71). -/
def settledChain (x : Side) (c : Nat) (s : State) : State :=
  let v := s.chain x c
  if v.settling || !v.faultQ || (s.feedback c).declared != 0 then s else s.setChain x c { v with faultQ := false }

/-- The first sample without Fault ends a model voltage (R206). -/
def endModel (x : Side) (c : Nat) (s : State) : State :=
  let f := s.feedback c
  if s.reports x && !(s.chain x c).faultQ && f.declared == 0 && f.modelUntil.isSome then s.setFeedback c { f with modelUntil := none } else s

/-! ### The chord path (R94 to R97) -/

/-- Coefficient j of the sliding sincK over K × M bits (R94). -/
def sinc2Coef (m j : Nat) : Nat := if j < m then j + 1 else 2 * m - 1 - j
def sinc3Coef (m j : Nat) : Nat := (List.range m).foldl (fun a i => if i ≤ j then a + sinc2Coef m (j - i) else a) 0
def sincCoef (k m j : Nat) : Nat := if k = 2 then sinc2Coef m j else sinc3Coef m j

/-- The history of a ball at a receiver: 0 sill A, 1 sill B, 2 the ridge (R95). -/
def State.history (s : State) (r b : Nat) : History := Store.get History.init (72 * r + b) s.meas.histories

/-- Filter order and oversampling ratio of a channel (Table 03.10). -/
def chordK (s : State) (c : Nat) : Nat := s.fld (0x2600 + c) 1 31 30 + 2
def chordM (s : State) (c : Nat) : Nat := 8 * 2 ^ s.fld (0x2600 + c) 1 29 28

/-- The filter sum over the bits held (R95): a bit counts ±1 as Invert maps it, an unfilled position 0. -/
def chordSum (k m : Nat) (inv : Bool) (h : History) : Int :=
  (List.range (min h.n (k * m))).foldl (fun a j =>
    let w : Int := sincCoef k m j
    if (h.bits.testBit j) != inv then a + w else a - w) 0

/-- The 12-bit chord value of a filter sum (R94). -/
def chordScale (k m : Nat) (sum : Int) : Int :=
  let e := k * Nat.log2 m
  satI 12 (if e ≤ 11 then sum * 2 ^ (11 - e) else convShift sum (e - 11))

/-- The chord value of a channel at a receiver. -/
def chordAt (s : State) (r c : Nat) : Int :=
  chordScale (chordK s c) (chordM s c) (chordSum (chordK s c) (chordM s c) (s.bit (0x2100 + c) 1 11) (s.history r (chanBall s c)))

/-- A comparator's configuration: 0 H1, 1 H2, 2 L1, 3 L2 (Table 03.11). -/
def compAction (s : State) (c k : Nat) : Nat := s.fld (0x2600 + c) (2 + k) 31 30
def compBlank (s : State) (c k : Nat) : Bool := s.bit (0x2600 + c) (2 + k) 29
def compPersist (s : State) (c k : Nat) : Nat := s.fld (0x2600 + c) (2 + k) 27 24
def compThreshold (s : State) (c k : Nat) : Int := sx 12 (s.fld (0x2600 + c) (2 + k) 11 0)

/-- A comparator is beyond its threshold at a value (R96). -/
def beyond (s : State) (c k : Nat) (v : Int) : Bool :=
  if k < 2 then decide (compThreshold s c k < v) else decide (v < compThreshold s c k)

def State.comp (s : State) (c k : Nat) : Comparator := Store.get Comparator.init (4 * c + k) s.meas.comps
def State.setComp (s : State) (c k : Nat) (v : Comparator) : State :=
  { s with meas := { s.meas with comps := Store.put Comparator.init (4 * c + k) v s.meas.comps } }
def State.blank (s : State) (c : Nat) : Blank := Store.get Blank.init c s.meas.blanks

/-- BlankTime of a channel. -/
def blankFs (s : State) (c : Nat) : Nat := nsFs (20 * s.fld (0x2600 + c) 6 7 0)

/-- One chord value at a comparator (R96): the persistence count advances or restarts, or is held in a blanking window (R99). -/
def stepComp (c k : Nat) (v : Int) (s : State) : State :=
  let q := s.comp c k
  if compBlank s c k && (s.blank c).isOpen then s
  else if !beyond s c k v then s.setComp c k { q with count := 0, fired := false }
  else
    let n := q.count + 1
    let hit := n == compPersist s c k && !q.fired && compAction s c k != 0
    s.setComp c k { q with count := min n 16, fired := q.fired || hit, due := q.due || hit }

/-- Any TRIP comparator is beyond its threshold (R231). -/
def tripBeyond (s : State) : Bool :=
  (List.range 64).any (fun c => chanEnabled s c &&
    (List.range 4).any (fun k => compAction s c k == 2 && beyond s c k (chordAt s 2 c)))

/-! ### The sampling edge (R42 to R47, R66, R94 to R96) -/

/-- A saturation in a chain (R51): the flag and EV_066, from the side that serves the shared objects. -/
def saturated (x : Side) (c : Nat) (s : State) : State :=
  if s.reports x then (s.setBitO (0x2100 + c) 0xB 7 true).raise 66 c else s

/-- A list of `n` zeros where it is empty. -/
def orZeros (n : Nat) (l : List Nat) : List Nat := if l.isEmpty then List.replicate n 0 else l

/-- The integrators take a bit of ±1 (R44): each adds the new value of the one before it, modulo 2^42. -/
def integrate : Nat → List Nat → List Nat
  | _, [] => []
  | a, i :: is => let v := (i + a) % 2 ^ 42; v :: integrate v is

/-- The combs (R44), modulo 2^42: the output and the new delays. -/
def combs : Nat → List Nat → Nat × List Nat
  | v, [] => (v, [])
  | v, c :: cs => let (o, r) := combs ((v + 2 ^ 42 - c) % 2 ^ 42) cs; (o, v :: r)

/-- CicShift (R45): the least B with 2^B ≥ D^K. -/
def cicShift (s : State) (c : Nat) : Nat :=
  let p := decimD s c ^ decimK s c
  if 2 ^ Nat.log2 p = p then Nat.log2 p else Nat.log2 p + 1

/-- The normalised value of a CIC output (R45). -/
def cicNormal (s : State) (c v : Nat) : Int :=
  let x := sx 42 v * (s.fld (0x2100 + c) 3 23 0 : Nat)
  if cicShift s c ≤ 7 then x * 2 ^ (7 - cicShift s c) else convShift x (cicShift s c - 7)

/-- A half-band output over its delay line, newest first (R46), before saturation. -/
def halfBand (l : List Int) : Int :=
  let a := fun i => nth 0 l i
  convShift (393 * (a 0 + a 10) - 3264 * (a 2 + a 8) + 19255 * (a 4 + a 6) + 32768 * a 5) 16

/-- A CIC output runs through the half-bands into the FIR delay line (R43, R46, R47). `m` counts CIC outputs on the group's grid. -/
def feedFir (s : State) (c m : Nat) (v0 : Int) (v : Chain) : Chain × Bool :=
  let h := decimH s c
  let x0 := satI 32 v0
  let sat0 := x0 != v0
  let push := fun (w : Chain) (x : Int) (i : Nat) =>
    { w with fir := (x :: w.fir).take 128, due := w.due || (decimF s c == 0 || i % 2 == 1) }
  if h = 0 then (push v x0 m, sat0)
  else
    let w := { v with hb0 := (x0 :: v.hb0).take 11 }
    if m % 2 = 0 then (w, sat0)
    else
      let y := halfBand w.hb0
      let x1 := satI 32 y
      let sat1 := sat0 || x1 != y
      if h = 1 then (push w x1 (m / 2), sat1)
      else
        let w := { w with hb1 := (x1 :: w.hb1).take 11 }
        if m / 2 % 2 = 0 then (w, sat1)
        else
          let y := halfBand w.hb1
          let x2 := satI 32 y
          (push w x2 (m / 4), sat1 || x2 != y)

/-- One bit enters the chain of a channel on a side; `e` is the number of this edge on the group's grid. -/
def chainBit (x : Side) (c e : Nat) (bit : Bool) (s : State) : State :=
  let v := s.chain x c
  let d := max 1 (decimD s c)
  let one := bit != s.bit (0x2100 + c) 1 11
  let integ := integrate (if one then 1 else 2 ^ 42 - 1) (orZeros (decimK s c) v.integ)
  let len := if v.run != 0 && v.lastBit == bit.toNat then min 64 (v.run + 1) else 1
  let v := { v with integ := integ, lastBit := bit.toNat, run := len }
  if e % d = 0 then
    let (o, comb) := combs (integ.getLast?.getD 0) (orZeros (decimK s c) v.comb)
    let (v, sat) := feedFir s c (e / d - 1) (cicNormal s c o) { v with comb := comb }
    let s := s.setChain x c { v with sat := v.sat || sat }
    if sat then saturated x c s else s
  else s.setChain x c v

/-- A receiver takes the bit of a ball (R95). -/
def takeBit (r b : Nat) (bit : Bool) (s : State) : State :=
  let h := s.history r b
  let h' : History := ⟨(2 * h.bits + bit.toNat) % 2 ^ 96, min 96 (h.n + 1)⟩
  { s with meas := { s.meas with histories := Store.put History.init (72 * r + b) h' s.meas.histories } }

/-- The receivers of a side's sill run (R95): while the side computes, and in a re-initialisation from the lock of its PLL_SILL (Table 09.3). -/
def receives (s : State) (x : Side) : Bool := s.feeds x || (s.sideState x == 5 && pllLocked s (3 + sideIx x))

/-- The receivers of a side take their bits, and on a side that computes the chain of every enabled channel of the group takes its own. -/
def sideEdge (x : Side) (g e bitsX : Nat) (s : State) : State :=
  let s := if receives s x then forN 9 (fun i s => takeBit (sideIx x) (9 * g + i) (bitsX.testBit i) s) s else s
  if !s.feeds x then s
  else
    (groupChannels s g).foldl (fun s c => chainBit x c e (bitsX.testBit (chanBall s c - 9 * g)) s) s

/-- SAMPLING_EDGE (R42, R94): the nine bits of the group's balls as sill A, sill B and the ridge receive them. -/
def execSamplingEdge (t g bitsA bitsB bitsR : Nat) (s : State) : Host.Outcome State Fault Refusal :=
  run (.samplingEdge t g bitsA bitsB bitsR) (fun s =>
    if !groupEnabled s g || !(s.group g).running then s
    else
      let s := if (s.group g).restart then newGrid g false s else s
      let e := (s.group g).edges + 1
      let s := s.setGroup g { s.group g with edges := e, last := s.now }
      let s := sideEdge .B g e bitsB (sideEdge .A g e bitsA s)
      let s := forN 9 (fun i s => takeBit 2 (9 * g + i) (bitsR.testBit i) s) s
      (groupChannels s g).foldl (fun s c =>
        let v := chordAt s 2 c
        forN 4 (fun k s => stepComp c k v s) s) s) s

/-! ### Coefficient banks (R55 to R59) -/

/-- The first FIR output of a channel at or after T_swap is computed with the new bank (R58). -/
def applySwap (x : Side) (c : Nat) (s : State) : State :=
  let g := s.fld (0x2100 + c) 4 15 13
  match Store.find g s.meas.swaps with
  | some w =>
    if w.tSwap ≤ s.ridgeFine then
      let w' := if sideIx x = 0 then { w with doneA := setBit w.doneA c true } else { w with doneB := setBit w.doneB c true }
      { s with meas := { s.meas with swaps := s.meas.swaps.map (fun e => if e.1 = g then (g, w') else e) } }
    else s
  | none => s

/-- A request for group g is rejected (R57). -/
def swapRefused (s : State) (g : Nat) : Bool :=
  (Store.find g s.meas.swaps).isSome || (swapChannels s g).any (fun c =>
    chanEnabled s c && s.num (bankIndex c (1 - s.fld (0x2100 + c) 4 0 0)) 0x83 != 1)

/-- A write of BankSwapRequest (R57, R58). -/
def bankSwap (mask : Nat) (s : State) : State :=
  forMask 8 mask (fun g s =>
    if swapRefused s g then (s.setBitO 0x2300 2 g true).raise 69 g
    else
      let s := s.setBitO 0x2300 2 (8 + g) true
      { s with meas := { s.meas with swaps := s.meas.swaps ++ [(g, ⟨s.appTime, 0, 0⟩)] } }) s

/-- BANK_SWAP_REQUEST (R57, R58). -/
def execBankSwapRequest (t mask : Nat) (s : State) : Host.Outcome State Fault Refusal :=
  run (.bankSwapRequest t mask) (fun s => if hostOk s then bankSwap (mask % 256) s else s) s

/-! ### Substitution and the DC blocker (R48, R49, R101, R102) -/

/-- The DC blocker is frozen (R48, R49). -/
def dcFrozen (s : State) (c : Nat) (settling : Bool) : Bool :=
  let i := 0x2100 + c
  s.fld i 5 15 14 == 2 || (s.bit i 5 3 && s.gfState == 5) || (s.bit i 5 2 && s.gfState == 4)
    || (s.bit i 5 1 && (s.feedback c).declared != 0) || (s.bit i 5 0 && settling)

/-- Whether this sample is delivered coarse, and the count of fine samples within the threshold (R101, R102). DESIGN CHOICE (log entry 26):
StepHold counts the fine samples after the one that starts the episode, those computed while Settling is present among them, and the sample
that completes the count with Settling clear is delivered fine. -/
def substitutes (s : State) (c : Nat) (v : Chain) (y coarse : Int) : Bool × Nat :=
  let mode := s.fld (0x2600 + c) 1 27 26
  let thr : Int := ((s.fld (0x2600 + c) 1 11 0) * 2 ^ 19 : Nat)
  let far := decide (thr < (y - coarse).natAbs)
  let hold := if far then 0 else v.hold + 1
  if v.faultQ || mode = 0 then (false, 0)
  else if mode = 1 then (v.settling, 0)
  else if v.substituting then (v.settling || decide (hold < s.fld (0x2600 + c) 1 15 12), hold)
  else (v.settling || far, 0)

/-- A fine sample leaves the arc (R48 to R51, R70, R85, R101): the DC blocker, substitution, the hold of a fault, the qualifiers. -/
def deliver (x : Side) (c : Nat) (x0 : Int) (sat : Bool) (idx : Nat) (cs part : Bool) (s : State) : State :=
  let v := s.chain x c
  let a := s.arc x (chanDomain s c)
  let mode := s.fld (0x2100 + c) 5 15 14
  let diff := x0 * 65536 - v.dc
  let y0 := if mode = 0 then x0 else convShift diff 16
  let y := satI 32 y0
  let satNow := sat || v.sat || y != y0
  let coarse := chordAt s (sideIx x) c * 524288
  let (sub, hold) := substitutes s c v y coarse
  let dc := if mode = 1 && !dcFrozen s c v.settling && !sub then v.dc + convShift diff (s.fld (0x2100 + c) 5 12 8) else v.dc
  let val := if v.faultQ then v.held else if sub then coarse else y
  let q := (if v.faultQ then 16 else 0) + (if sub then 8 else 0) + (if v.settling then 4 else 0) + (if satNow then 2 else 0)
    + (if a.clamped || a.stale then 1 else 0)
  let sm : Sample := ⟨val, q, idx, cs, part, s.ridge, false⟩
  let began := sub && !v.substituting
  let s := s.setChain x c { v with dc := dc, substituting := sub, hold := hold, sat := false, settle := v.settle - 1, outAt := s.now
                                   samples := (sm :: v.samples).take 128 }
  let s := endModel x c s
  let s := countEvent (sideIx x) 0x0E 1 0 (if (y != y0) then saturated x c s else s)
  if began && s.reports x then (s.setBitO (0x2600 + c) 7 6 true).raise 78 c else s

/-! ### The decimation boundary (R47, R58, R67, R81 to R83) -/

/-- One index of the arc, where it is due (R82, R83, R85, R91, R92). DESIGN CHOICE (log entry 26): the CycleStart at which a change of N takes
effect is the first of the two that end Settling. `l` is the delay line before this FIR output, `u` and `u1` the
positions at t_n and t_n − T_in, in 2^-64 samples. -/
def arcIndex (x : Side) (c : Nat) (line : Line) (l : List Int) (s : State) : State :=
  let v := s.chain x c
  let d := chanDomain s c
  let tn := arcInstant s c s.ridgeFine
  let tin : Int := ((firPeriods s c * 10 ^ 9 * 2 ^ 32 : Nat) : Int)
  let u := arcPos s x c v.n line tn
  let u1 := arcPos s x c v.n line (tn - tin)
  let full : Int := ((v.n * 2 ^ 64 : Nat) : Int)
  let e := ((v.k * 2 ^ 64 : Nat) - u) % full
  let e := if full < 2 * e then e - full else e
  if e < 0 && u1 < u then
    let mu := ((max 0 (e + (u - u1))) * 2 ^ 24 / (u - u1)).toNat
    let y := convShift (arcInterp l (min mu (2 ^ 24 - 1))) 39
    let y' := satI 32 y
    let s := if y != y' then saturated x c s else s
    let idx := v.k
    let change := decide (idx = 0) && v.n != arcN s d
    let n := if change then arcN s d else v.n
    let start := decide (idx = 0)
    let settle0 := if change then 2 else v.arcSettle
    let v' := { s.chain x c with
      n := n, k := (idx + 1) % n, part := v.part && !start, arcSettle := if start then settle0 - 1 else settle0 }
    let s := s.setChain x c v'
    let s := if start && s.reports x then s.incWrap (0x2500 + d) 7 else s
    deliver x c y' (y != y') idx start v'.part s
  else s

/-- The arc takes an FIR output (R82 to R86): in BYPASS it passes unchanged; else at most two indices are produced. -/
def arcTake (x : Side) (c : Nat) (y : Int) (s : State) : State :=
  let a := s.arc x (chanDomain s c)
  let old := (s.chain x c).arc
  let s := s.setChain x c { s.chain x c with arc := (y :: old).take 16 }
  if a.src = 3 then deliver x c y false 0 false false s
  else match a.line with
    | none => s
    | some l =>
      let s := if (s.chain x c).n = 0 then s.setChain x c (reindexChain s x l s.ridgeFine c (s.chain x c)) else s
      arcIndex x c l old (arcIndex x c l old s)

/-- The FIR output of a channel with the bank computing (R47), before saturation. -/
def firOut (s : State) (x : Side) (c : Nat) : Int :=
  let b := bankOf s x c
  convShift ((List.zipWith (· * ·) (tapList s c b) ((s.chain x c).fir)).foldl (· + ·) 0) 22

/-- An output boundary of a channel on a side. -/
def boundary (x : Side) (c : Nat) (s : State) : State :=
  let s := applySwap x c s
  let y0 := firOut s x c
  let y := satI 32 y0
  let s := if y != y0 then saturated x c s else s
  let v := s.chain x c
  let fr := if v.lastFir = some y then v.frozenRun + 1 else 1
  let v := { v with due := false, lastFir := some y, frozenRun := min fr 65535, sat := v.sat || y != y0 }
  let s := s.setChain x c v
  let n := s.fld (0x2100 + c) 7 15 0
  let s := if n != 0 && decide (n ≤ fr) then reportFeedback x c 3 s else s
  sweepSwaps s.ridge (arcTake x c y (settledChain x c s))

/-- DECIMATION_BOUNDARY (R43): an output boundary that a sampling edge has reached. -/
def execDecimationBoundary (t : Nat) (side : Side) (c : Nat) (s : State) : Host.Outcome State Fault Refusal :=
  run (.decimationBoundary t side c) (fun s =>
    if s.feeds side && chanEnabled s c && (s.chain side c).due then boundary side c s else s) s

/-! ### Supervision commands (R66 to R71, R206) -/

/-- STUCK_BITS (R66): 64 identical bits on the ball of a channel. -/
def execStuckBits (t : Nat) (side : Side) (c : Nat) (s : State) : Host.Outcome State Fault Refusal :=
  run (.stuckBits t side c) (fun s =>
    if s.feeds side && chanEnabled s c && decide (64 ≤ (s.chain side c).run) then
      reportFeedback side c 1 (s.setBitO (0x2100 + c) 0xB 3 true)
    else s) s

/-- A group that takes part in an alignment has yet to reset for it. -/
def Align.awaits (a : Align) (g : Nat) : Bool := a.taking.any (fun m => m.testBit g) && !a.groups.testBit g

/-- Every group that takes part has reset (R63). -/
def Align.complete (a : Align) : Bool := a.taking.isSome && (List.range 8).all (fun g => !a.awaits g)

/-- An alignment completes (R63); one for which no group has reset completes nothing. -/
def finishAlign (a : Align) (s : State) : State :=
  if a.groups = 0 then s
  else ((s.setFld 0x2310 3 15 0 (satInc 16 (s.fld 0x2310 3 15 0))).setNum 0x2310 4 (toT96 a.ta)).raise 70 a.command.toNat

/-- The alignments as `f` leaves them; those that it completes end, in the order of their acceptance (R63). -/
def onAligns (f : Align → Align) (s : State) : State :=
  let l := s.meas.aligns.map f
  (l.filter Align.complete).foldl (fun s a => finishAlign a s)
    { s with meas := { s.meas with aligns := l.filter (fun a => !a.complete) } }

/-- A group whose sampling clock is gone takes no further part in an alignment (R63). -/
def leaveAlign (g : Nat) (s : State) : State :=
  onAligns (fun a => if a.awaits g then { a with taking := a.taking.map (fun m => setBit m g false) } else a) s

/-- The histories of a group's balls are emptied (R95). -/
def emptyHistories (g : Nat) (s : State) : State :=
  { s with meas := { s.meas with histories := s.meas.histories.filter (fun e => e.1 % 72 / 9 != g) } }

/-- MOD_CLOCK_MISSING (R66, R95): 64 periods of ModClockKHz without an edge. -/
def execModClockMissing (t g : Nat) (s : State) : Host.Outcome State Fault Refusal :=
  run (.modClockMissing t g) (fun s =>
    let q := s.group g
    if groupEnabled s g && !q.missing && decide (q.last + 64 * 10 ^ 12 / max 1 (modKHz s g) ≤ s.now) then
      let s := leaveAlign g ((s.setGroup g { q with running := false, missing := true, aligned := false }).raise 67 g)
      sweepSwaps s.ridge ((groupChannels s g).foldl (fun s c =>
        reportFeedback .B c 2 (reportFeedback .A c 2 (s.setBitO (0x2100 + c) 0xB 4 true))) (emptyHistories g s))
    else s) s

/-- FEEDBACK_DISAGREEMENT (R69): one sill alone has reported for 2 µs, and the other has delivered a sample without Fault. -/
def execFeedbackDisagreement (t c : Nat) (s : State) : Host.Outcome State Fault Refusal :=
  run (.feedbackDisagreement t c) (fun s =>
    let f := s.feedback c
    let one := fun (x : Side) =>
      (f.rep x).1 != 0 && (f.rep (otherSide x)).1 == 0 && f.declared == 0 && s.inService x && s.inService (otherSide x)
        && decide ((f.rep x).2 + usFs 2 ≤ s.now) && decide ((f.rep x).2 < (s.chain (otherSide x) c).outAt)
        && !(s.chain (otherSide x) c).faultQ
    if one .A then sideFault .A 5 (s.setFeedback c (f.putRep .A 0 0))
    else if one .B then sideFault .B 5 (s.setFeedback c (f.putRep .B 0 0))
    else s) s

/-- MODEL_TIME_EXPIRY (R206): SAFE_DISABLE follows while the condition is present. -/
def execModelTimeExpiry (t c : Nat) (s : State) : Host.Outcome State Fault Refusal :=
  run (.modelTimeExpiry t c) (fun s =>
    match (s.feedback c).modelUntil with
    | some u => if u ≤ s.now && (s.feedback c).declared != 0 then safeDisable c s else s
    | none => s) s

/-- SAMPLING_CLOCK_START (R65, R95): the first edge after power-up or a gap; every channel restarts on a new grid. -/
def execSamplingClockStart (t g : Nat) (s : State) : Host.Outcome State Fault Refusal :=
  run (.samplingClockStart t g) (fun s =>
    if groupEnabled s g && !(s.group g).running then
      let s := s.setGroup g { s.group g with running := true, missing := false, last := s.now }
      newGrid g false (emptyHistories g s)
    else s) s

/-- FEEDBACK_RECOVERY (R71): no side in service shows a condition any more; a declared condition ends and its channel restarts. -/
def execFeedbackRecovery (t c : Nat) (s : State) : Host.Outcome State Fault Refusal :=
  run (.feedbackRecovery t c) (fun s =>
    let f := s.feedback c
    let there := fun (x : Side) => s.inService x && condPresent s x c
    if there .A || there .B || (f.repA == 0 && f.repB == 0 && f.declared == 0) then s
    else
      let s := if f.waits then declareFeedback c 3 s else s
      let g := s.feedback c
      let s := s.setFeedback c { Feedback.init with modelUntil := g.modelUntil }
      if g.declared = 0 then s else restartOnGrid c s) s

/-- SETTLING_CLEARED (R65, R71). -/
def execSettlingCleared (t : Nat) (side : Side) (c : Nat) (s : State) : Host.Outcome State Fault Refusal :=
  run (.settlingCleared t side c) (fun s => if s.feeds side then settledChain side c s else s) s

/-! ### Decimator synchronisation (R60 to R64) -/

/-- An alignment is accepted: LastSource. -/
def startAlign (ta : Nat) (command explicit : Bool) (s : State) : State :=
  { s with meas := { s.meas with aligns := s.meas.aligns ++ [(⟨ta, command, explicit, 0, false, none⟩ : Align)] } }.setBitO 0x2310 3 30 command

/-- SYNC_IN_EDGE (R60, R63): an edge that has held for 20 ns; ignored with EV_071 while an alignment is pending or PLL_RIDGE unlocked. -/
def execSyncInEdge (t : Nat) (rising : Bool) (s : State) : Host.Outcome State Fault Refusal :=
  run (.syncInEdge t rising) (fun s =>
    if !s.bit 0x2310 1 15 || rising == s.bit 0x2310 1 14 then s
    else if !pllLocked s 0 then s.raise 71 2
    else if alignPending s then s.raise 71 0
    else startAlign (s.ridge + rns 1000) false false s) s

/-- A write of SyncCommand (R61, R63). -/
def syncWrite (at96 : Nat) (s : State) : State :=
  let ta := if at96 = 0 then s.ridge + rns 1000 else ofT96 at96
  if alignPending s || ta < s.ridge + rns 1000 then s.raise 71 1 else startAlign ta true (at96 != 0) s

/-- SYNC_COMMAND (R61). -/
def execSyncCommand (t at96 : Nat) (s : State) : Host.Outcome State Fault Refusal :=
  run (.syncCommand t at96) (fun s => if hostOk s then syncWrite at96 s else s) s

/-- SYNC_OUT is to be driven for an alignment (R64). -/
def syncPulseDue (s : State) (a : Align) : Bool :=
  s.bit 0x2310 1 13 && (a.command || s.bit 0x2310 1 12) && !a.pulsed && decide (a.ta ≤ s.ridge + rns 960)

/-- SYNC_OUT_PULSE (R64): at t_a − 960 ns, once for an alignment, SYNC_OUT goes high for 200 ns. -/
def execSyncOutPulse (t : Nat) (s : State) : Host.Outcome State Fault Refusal :=
  run (.syncOutPulse t) (fun s =>
    if s.meas.aligns.any (syncPulseDue s) then
      { s with meas := { s.meas with
          aligns := s.meas.aligns.map (fun a => if syncPulseDue s a then { a with pulsed := true } else a)
          syncOutEnd := s.now + nsFs 200 } }.emit 14 0 (beBytes 2 200)
    else s) s

/-- DECIM_ALIGNMENT (R62, R63): the first sampling edge of a group at or after t_a resets it for every alignment that awaits it. -/
def execDecimAlignment (t g : Nat) (s : State) : Host.Outcome State Fault Refusal :=
  run (.decimAlignment t g) (fun s =>
    if (s.group g).running && s.meas.aligns.any (fun a => a.awaits g) then
      onAligns (fun a => if a.awaits g then { a with groups := setBit a.groups g true } else a) (newGrid g true s)
    else s) s

/-! ### Comparators and blanking (R96 to R99) -/

/-- COMPARATOR_FIRE (R96, R97): a completed count fires with the comparator's action. -/
def execComparatorFire (t c k : Nat) (s : State) : Host.Outcome State Fault Refusal :=
  run (.comparatorFire t c k) (fun s =>
    let q := s.comp c k
    if !q.due then s
    else
      let v := ofInt 32 (chordAt s 2 c)
      let s := (s.setComp c k { q with due := false }).setBitO (0x2600 + c) 7 (15 - k) true
      if compAction s c k = 2 then
        (holdGates { s with meas := { s.meas with chordTrip := true } }).raise 8 c k v
      else s.raise 77 c k v) s

/-- BLANK_WINDOW_OPEN (R99): an edge at a pair of carrier group g. -/
def execBlankWindowOpen (t c g : Nat) (s : State) : Host.Outcome State Fault Refusal :=
  run (.blankWindowOpen t c g) (fun s =>
    let free := match (s.blank c).openedAt with
      | some o => decide (o + 2 * blankFs s c ≤ s.now)
      | none => true
    if s.bit (0x2600 + c) 6 (8 + g) && blankFs s c != 0 && !(s.blank c).isOpen && free then
      { s with meas := { s.meas with blanks := Store.put Blank.init c ⟨some s.now, true⟩ s.meas.blanks } }
    else s) s

/-- BLANK_WINDOW_CLOSE (R99): BlankTime after the edge that opened it. -/
def execBlankWindowClose (t c : Nat) (s : State) : Host.Outcome State Fault Refusal :=
  run (.blankWindowClose t c) (fun s =>
    match (s.blank c).openedAt with
    | some o =>
      if (s.blank c).isOpen && decide (o + blankFs s c ≤ s.now) then
        { s with meas := { s.meas with blanks := Store.put Blank.init c ⟨some o, false⟩ s.meas.blanks } }
      else s
    | none => s) s

/-! ### Reference triples (R75, R76, R79) -/

/-- t_apply of a triple (R75), taken to the first sill clock at or after it. -/
def applyAt (s : State) (t : Triple) : Nat := s.toSillClock (t.t + rns 1000)

/-- ARC_REF_TRIPLE (R75 to R77): the next triple published for domain d that the side's sill is sent reaches it; it is held for t_apply, or
discarded as late. -/
def execArcRefTriple (t : Nat) (side : Side) (d : Nat) (s : State) : Host.Outcome State Fault Refusal :=
  run (.arcRefTriple t side d) (fun s =>
    let g := s.graph side
    match g.triples.find? (fun e => e.1 == d) with
    | none => s
    | some e =>
      let s := s.setGraph side { g with triples := g.triples.erase e }
      if !s.feeds side then s
      else if applyAt s e.2 < s.ridgeFine then (s.setBitO (0x2500 + d) 6 0 true).raise 76 d (sideIx side)
      else s.setArc side d { s.arc side d with held := (s.arc side d).held ++ [e.2] }) s

/-- A triple of the source in use, or of the source the domain belongs on, takes effect at ridge time `r` (R75, R80, R89, R90). -/
def applyTriple (x : Side) (d : Nat) (q : Triple) (r : Nat) (s : State) : State :=
  let (l, lim) := tripleLine s d q
  let a := s.arc x d
  let s := s.setArc x d (if q.grid then { a with grid := some l } else { a with rotor := some l })
  let code := q.grid.toNat
  let w := arcWanted s d
  if code ≠ w && code ≠ a.src then s
  else
    let s := if a.src = code then s else changeSource x d code s
    let was := (s.arc x d).clamped
    let s := s.setArc x d { s.arc x d with clamped := lim, stale := false, lastApply := s.now }
    let s := if lim && !was && s.reports x then (s.setBitO (0x2500 + d) 6 2 true).raise 73 d (q24F32 q.f) else s
    takeLine x d l r s

/-- ARC_REF_APPLY (R75): the oldest triple whose t_apply is reached. -/
def execArcRefApply (t : Nat) (side : Side) (d : Nat) (s : State) : Host.Outcome State Fault Refusal :=
  run (.arcRefApply t side d) (fun s =>
    let a := s.arc side d
    match a.held with
    | q :: rest =>
      if s.feeds side && decide (applyAt s q ≤ s.ridgeFine) then
        applyTriple side d q (applyAt s q) (s.setArc side d { a with held := rest })
      else s
    | [] => s) s

/-- ARC_REF_STALE (R79, R236): no triple for RefTimeout, counted from the end of a debug halt where that is later. -/
def execArcRefStale (t d : Nat) (s : State) : Host.Outcome State Fault Refusal :=
  run (.arcRefStale t d) (fun s =>
    if s.plate.halted then s
    else
      let old := fun (x : Side) => let a := s.arc x d
        s.feeds x && decide (a.src < 2) && a.line.isSome && !a.stale
          && decide (max a.lastApply s.plate.resumedAt + usFs (s.num (0x2500 + d) 5) ≤ s.now)
      let mark := fun (s : State) (x : Side) => if old x then s.setArc x d { s.arc x d with stale := true } else s
      let due := old s.reporter
      let s := [Side.A, Side.B].foldl mark s
      if due then (s.setBitO (0x2500 + d) 6 1 true).raise 74 d else s) s

end Sys2Proof.Machine
end

