-- ==== Sys2Proof/Machine/SpareOps.lean ====
section
/-!
DEFINITION. Wear groups, shares and spare legs (R250, R254 to R259): what the stack commands, the vertices and the ticks share.
-/
namespace Sys2Proof.Machine

/-! ### Wear groups -/

/-- Enable of a wear group (Table 08.10). -/
def wearEnabled (s : State) (w : Nat) : Bool := s.bit (0x9100 + w) 1 15

/-- The wear group a stack's spare is wired to (Table 08.8). -/
def spareGroup (s : State) (k : Nat) : Nat := s.fld (0x9010 + k) 1 19 16
def spareChannel (s : State) (k : Nat) : Nat := s.fld (0x9010 + k) 1 7 0

/-- The member that a leg of a stack is, in the stack's spare group. -/
def memberOf (s : State) (k r : Nat) : Option Member :=
  (wearMembers s (spareGroup s k)).find? (fun m => m.stack == k && m.leg == r)

/-- The leg in service at a member: the spare that replaces it where it is retired (R254). -/
def legInService (s : State) (m : Member) : Nat :=
  if legState s m.stack m.leg = 2 then
    match (List.range 8).find? (fun l => legState s m.stack l == 4 && nth 0xFF (s.stack m.stack).spareFor l == m.leg) with
    | some l => l
    | none => m.leg
  else m.leg

/-! ### Life and shares (R250, R254) -/

/-- ConsumedLife of a position, and of a leg (R250), in F64. -/
def posLife (s : State) (k p : Nat) : Nat := field (s.blob (0x9010 + k) 6) (8 * p) 8
def legLife (s : State) (k r : Nat) : Nat :=
  let h := posLife s k (2 * r)
  let l := posLife s k (2 * r + 1)
  if D64.lt h l then l else h

/-- λ of a leg (R250). -/
def legLambda (s : State) (k r : Nat) : Nat := D64.div (legLife s k r) (D64.of32 (field (s.blob (0x9010 + k) 2) 68 4))

/-- A sum in F64, in list order. -/
def sum64 (l : List Nat) : Nat := l.foldl D64.add 0

/-- The shares of a group in F32 (R254): λ of the leg in service at each member, a neutral leg at the mean of the others. -/
def wearShares (s : State) (w : Nat) : List Nat :=
  let ms := wearMembers s w
  let n := ms.length
  let one := D64.ofInt 1
  let even := ms.map (fun _ => L32.ofRat 1 n)
  let lam := ms.map (fun m => if stackValid s m.stack then some (legLambda s m.stack (legInService s m)) else none)
  let known := lam.filterMap id
  if n = 0 then []
  else if !s.bit (0x9100 + w) 1 14 || known.isEmpty then even
  else
    let mean := D64.div (sum64 known) (D64.ofInt known.length)
    let x := lam.map (fun o => D64.sub mean (o.getD mean))
    let top := x.foldl (fun m v => if D64.lt m (D64.abs v) then D64.abs v else m) 0
    if D64.le top 0 then even
    else
      let imb := D64.of32 (s.num (0x9100 + w) 3)
      x.map (fun v => D64.to32 (D64.div (D64.add one (D64.div (D64.mul imb v) top)) (D64.ofInt n)))

/-- The shares of an enabled group are formed and delivered with an application time of ridge time + 2000 ns (R254). -/
def recomputeShares (w : Nat) (s : State) : State :=
  if wearEnabled s w then
    { s with graphs := { s.graphs with shares := s.graphs.shares ++ [(w, s.appTime, wearShares s w)] } }
  else s

/-- Shares whose application time is reached are in effect. -/
def takeShares (s : State) : State :=
  let due := s.graphs.shares.filter (fun e => decide (e.2.1 ≤ s.ridge))
  let s := due.foldl (fun s e => s.setBlob (0x9100 + e.1 % 16) 4 (bytesOf32 e.2.2)) s
  { s with graphs := { s.graphs with shares := s.graphs.shares.filter (fun e => !decide (e.2.1 ≤ s.ridge)) } }

/-! ### Bring-in (R256 to R259) -/

/-- The LegState of a leg set. -/
def setLeg (k r v : Nat) (s : State) : State := s.setBlob (0x9010 + k) 7 (setNth (s.blob (0x9010 + k) 7) r v)

/-- The drivers of a physical pair are marked faulty (R225). -/
def driverFaulty (s : State) (n : Nat) : Bool := unitFaulty s 6 0xFF n 0

/-- The stack has a usable spare (R256): SPARE_IDLE, on a physical pair not marked faulty, with its channel not in Fault. DEDUCED (log
entry 15): a spare wired to no physical pair is none. -/
def spareUsable (s : State) (k : Nat) : Bool :=
  decide (spareLeg s k < 8) && legState s k (spareLeg s k) == 3 && decide (sparePair s k < 72) && !driverFaulty s (sparePair s k)
    && !(decide (spareChannel s k < 64) && (s.feedback (spareChannel s k)).declared != 0)

/-- A bring-in of the spare of stack k for leg r is refused (R256). -/
def bringRefused (s : State) (k r : Nat) : Bool :=
  !stackValid s k || !(legState s k r == 0 || legState s k r == 1) || (memberOf s k r).isNone || !spareUsable s k || s.commissioning

/-- A bring-in is armed (R256): SpareArmed, EV_183 and its application time. -/
def armSpare (k r : Nat) (s : State) : State :=
  ((s.setStack k { s.stack k with bring := some ⟨r, s.appTime, 0, none, none, false⟩ }).setBitO (0x9010 + k) 3 12 true).raise 183 k r

/-- An armed bring-in ends without effect. -/
def dropBring (k : Nat) (s : State) : State :=
  (s.setStack k { s.stack k with bring := none }).setBitO (0x9010 + k) 3 12 false

/-- The logical pair of a leg moves to the spare's physical pair (R258, R259): the leg's physical pair is held in high impedance. -/
def redirect (k r : Nat) (s : State) : State :=
  match memberOf s k r with
  | none => s
  | some m =>
    if Store.find m.pair s.plate.spareMap == some (sparePair s k) then s
    else
      let n := physOf s m.pair
      let s := if decide (n < 72) && (s.plateOf n).pair == m.pair then plateRelease n s else s
      { s with plate := { s.plate with spareMap := Store.put 0x80 m.pair (sparePair s k) s.plate.spareMap } }

/-- A bring-in takes effect (R258): the redirection, the leg states, EV_184 and new shares. -/
def bringEffect (k : Nat) (s : State) : State :=
  match (s.stack k).bring with
  | none => s
  | some b =>
    let sp := spareLeg s k
    let s := redirect k b.leg (dropBring k s)
    let s := setLeg k sp 4 (setLeg k b.leg 2 s)
    let s := s.setStack k { s.stack k with spareFor := setNth (s.stack k).spareFor sp b.leg }
    recomputeShares (spareGroup s k) (s.raise 184 k b.leg sp)

/-- A bring-in whose crossing is found takes effect at a vertex of the carrier group of its pair, in FORMING or PARALLEL (R257). -/
def bringAtVertex (g : Nat) (s : State) : State :=
  if s.gfState ≠ 2 ∧ s.gfState ≠ 3 then s else forN 16 (fun k s =>
    match (s.stack k).bring with
    | some b =>
      if b.crossed && (match memberOf s k b.leg with
        | some m => s.pairCarrier m.pair == g
        | none => false) then bringEffect k s else s
    | none => s) s

/-- The crossing check of S_c (R257): the sum of the ridge's chord values of the members' channels, those on an estimate left out. -/
def crossingSum (s : State) (k : Nat) : Int :=
  ((wearMembers s (spareGroup s k)).filter (fun m =>
      !(legState s m.stack m.leg == 2 && spareChannel s m.stack == 0xFF))).foldl (fun a m => a + chordAt s 2 m.chan) 0

/-- The time for which S_c has been evaluated up to now (R257). -/
def Bring.evaluated (b : Bring) (now : Nat) : Nat := b.evalFor + (now - b.evalAt.getD now)

/-- One evaluation of an armed bring-in (R257): in STANDBY or SAFE_STOP it takes effect at its application time; in FORMING or PARALLEL
the crossing is the first change of the sign of S_c. In any other state it waits, and a crossing found there is looked for again (log
entry 15). -/
def checkBring (k : Nat) (s : State) : State :=
  match (s.stack k).bring with
  | none => s
  | some b =>
    if s.ridge < b.appTime then s
    else if s.stopped then bringEffect k s
    else if s.gfState = 2 || s.gfState = 3 then
      if b.crossed then s
      else
        let neg := decide (crossingSum s k < 0)
        let found := match b.lastNeg with
          | some l => l != neg
          | none => false
        s.setStack k { s.stack k with bring := some { b with
          evalFor := b.evaluated s.now, evalAt := some s.now, lastNeg := some neg, crossed := found } }
    else s.setStack k { s.stack k with bring := some { b with evalAt := none, crossed := false } }

/-- EV_182 for a DUE leg that is not armed because the stack has no usable spare (R256). -/
def noSpare (k r : Nat) (s : State) : State :=
  if stackValid s k && legState s k r == 1 && !spareUsable s k then s.raise 182 k r else s

/-- Legs whose life has reached RetireFraction become DUE (R254): EV_181, and a bring-in where AutoSpare is set (R256). DEDUCED (log entry
15): a spare armed for another leg is no usable one. -/
def markDue (k : Nat) (s : State) : State :=
  if !stackValid s k then s
  else
    forN (legCount s k) (fun r s =>
      if legState s k r = 0 && D64.le (D64.of32 (s.num 0x9000 3)) (legLambda s k r) then
        let s := (setLeg k r 1 s).raise 181 k r
        if !s.bit (0x9010 + k) 1 31 then s
        else if (s.stack k).bring.isSome then s.raise 182 k r
        else if bringRefused s k r then noSpare k r (s.raise 186 k r)
        else armSpare k r s
      else s) s

end Sys2Proof.Machine
end

