-- ==== Sys2Proof/Machine/ModOps.lean ====
section
/-!
DEFINITION. Modulation in the sills (R210 to R224): counters, reload points, the on-times of a half, the command C with its dead times,
shadows and commits; and what the plate does at a vertex (R227, R229, R232, R234).
-/
namespace Sys2Proof.Machine

/-! ### Reload points (R218, R224) -/

/-- A set takes effect in update group u: the committed set, or with `older` the one before it. -/
def takeSet (x : Side) (u : Nat) (older : Bool) (s : State) : State :=
  let s := (pairsOf s u).foldl (fun s p => s.modPair x p (fun q => { q with ef := if older then q.pv else q.cm })) s
  let s := (mastersOf s u).foldl (fun s g => s.modCarrier x g (fun c => { c with perEf := if older then c.perPv else c.perCm })) s
  countEvent (sideIx x) 0x10 1 0 (if s.reports x then s.incWrap (0x5140 + u) 3 else s)

/-- One update group at a reload point in sill clock r (R224, Table 07.9): a partial group is reported once the clock has passed, since a
commit in clock r itself is reported in its place. -/
def reloadUpdate (x : Side) (r u : Nat) (s : State) : State :=
  let v := (s.sill x).update u
  let sameClock := v.commitAt == some r
  let s := match v.commitAt with
    | none => s
    | some a =>
      if a < r then takeSet x u false (s.setUpdate x u { v with commitAt := none, olderAt := none })
      else
        let s := if v.olderAt.isSome then takeSet x u true (s.setUpdate x u { v with olderAt := none }) else s
        if sameClock then windowClosed x u s else s
  match v.partialAt with
  | some q =>
    if q < r && !sameClock then s.setUpdate x u { (s.sill x).update u with tornAt := some (r, s.ridge) } else s
  | none => s

/-! ### A half (R215, R216, R219, R220) -/

/-- An on-time after R219 and R220, and whether it was clamped and whether R220 changed it. -/
def shapeOn (hss minHalf : Nat) (extend : Bool) (on : Nat) : Nat × Bool × Bool :=
  let t := min on hss
  let t' := if minHalf = 0 then t
    else if 0 < t && decide (t < minHalf) then (if extend then minHalf else 0)
    else if 0 < hss - t && decide (hss - t < minHalf) then (if extend then hss - minHalf else hss)
    else t
  (t', decide (hss < on), t' != t)

/-- A rise or a fall of C at an instant (R216): one output falls with it and the other rises after its dead time. -/
def edgeC (dh dl t : Nat) (c : Bool) (v : SillPair) : SillPair :=
  if c then { v with c := true, l := false, dtL := none, h := dh == 0, dtH := if dh = 0 then none else some (t + dh) }
  else { v with c := false, h := false, dtH := none, l := dl == 0, dtL := if dl = 0 then none else some (t + dl) }

/-- C at a level at an instant. -/
def setC (dh dl t : Nat) (c : Bool) (v : SillPair) : SillPair := if c == v.c then v else edgeC dh dl t c v

/-- The command of a half that begins at instant v with `on` steps of `hss` (R215), complemented where the pair is inverted (R234): its
first level and its change within the half. -/
def halfCommand (up inv : Bool) (v hss on : Nat) : Bool × List (Nat × Bool) :=
  let inside := decide (0 < on) && decide (on < hss)
  if up then ((decide (hss ≤ on) && decide (0 < on)) != inv, if inside then [(v + (hss - on) * stepFs, true != inv)] else [])
  else (decide (0 < on) != inv, if inside then [(v + on * stepFs, false != inv)] else [])

/-- The words that a half of a pair takes (R215): those of its set in effect, in COMMISSIONING those of its shadow set (R233). -/
def halfSet (s : State) (q : SillPair) : PairSet := if s.commissioning && s.gfState == 0 then q.sh else q.ef

/-- The half of one pair begins (R215, R216, R219, R220). -/
def halfPair (x : Side) (g v : Nat) (up : Bool) (hs p : Nat) (s : State) : State :=
  let q := (s.sill x).pair p
  let w := s.num (0x5120 + g) 4
  let hss := 32 * hs
  let set := halfSet s q
  let (on, cl, mp) := shapeOn hss (bits w 16 0) (w.testBit 31) (if up then set.up else set.dn)
  let (c, es) := halfCommand up (inverted s p) v hss on
  let dh := deadH s p
  let dl := deadL s p
  let q := if up then { q with onUp := on } else { q with onDn := on }
  let q := if set.off then { q with off := true, c := false, h := false, l := false, dtH := none, dtL := none, edges := [] }
    else if q.off then { edgeC dh dl v c q with off := false, edges := es }
    else { setC dh dl v c q with edges := es }
  let s := s.modPair x p (fun _ => q)
  if !s.reports x then s
  else
    let s := if cl then s.setBitO (0x5200 + p) 8 2 true else s
    if mp then s.setBitO (0x5200 + p) 8 1 true else s

/-- An on-time of update group u is clamped in the half that begins (R219). -/
def clampedIn (s : State) (x : Side) (up : Bool) (hs u : Nat) : Bool :=
  (pairsOf s u).any (fun p => let q := halfSet s ((s.sill x).pair p); decide (32 * hs < (if up then q.up else q.dn)))

/-- A half begins in carrier group g at instant v (R215, R219). -/
def beginHalf (x : Side) (g v : Nat) (up : Bool) (hs : Nat) (s : State) : State :=
  let s := s.modCarrier x g (fun c => { c with running := true, up := up, at_ := v, hs := hs,
                                               starts := c.startsAfter s.ridge })
  let s := if s.reports x then (s.incWrap (0x5120 + g) 6).setNum (0x5120 + g) 5 hs else s
  let s := (updatesOf s g).foldl (fun s u => if s.reports x && clampedIn s x up hs u then s.raise 146 u else s) s
  (groupPairs s g).foldl (fun s p => halfPair x g v up hs p s) s

/-! ### The plate at a vertex (R227, R229, R232, R234) -/

/-- A change of side at a vertex counted on the side taken over (R229). -/
def changeAtVertex (x : Side) (g : Nat) (s : State) : State :=
  match s.sides.takeover, s.control with
  | some (t0, m, hand), some y =>
    if y == x then s
    else
      let s := if m.testBit g then groupToSide y g s else s
      let m := (setBit m g false) &&& groupsOn s x
      let s := { s with sides := { s.sides with takeover := some (t0, m, hand) } }
      if m = 0 then finishChange s else s
  | _, _ => s

/-- One stamped change of a disable bit (R232): EV_150. -/
def disableAt (w : Stamped) (s : State) : State :=
  let p := w.key
  let on := w.value != 0
  if s.plate.disabled.testBit p == on then s
  else
    let s := { s with plate := { s.plate with disabled := setBit s.plate.disabled p on } }
    let s := if on && (s.plateOf (physOf s p)).pair == p then plateRelease (physOf s p) s else s
    s.raise 150 p on.toNat

/-- The disable bits of a group's pairs that are due (R232). -/
def disablesAtVertex (g : Nat) (s : State) : State :=
  let due := fun (w : Stamped) => w.kind == 2 && decide (w.due ≤ s.ridge) && s.pairCarrier w.key == g
  let l := s.plate.waiting.filter due
  let s := { s with plate := { s.plate with waiting := s.plate.waiting.filter (fun w => !due w) } }
  l.foldl (fun s w => disableAt w s) s

/-- A carrier group takes at a vertex the latest override map that is due (R234): balls no longer driven by their pair go to high impedance. A
map that every group has taken, or one later than it, waits no longer. -/
def mapAtVertex (g : Nat) (s : State) : State :=
  let due := fun (w : List Nat × Nat × Nat) => decide (w.2.1 ≤ s.ridgeFine) && !w.2.2.testBit g
  match (s.plate.pendingMaps.filter due).getLast? with
  | none => s
  | some w =>
    let ps := groupPairs s g
    let old := ps.map (fun p => (p, physOf s p))
    let base := if s.plate.mapNow.isEmpty then List.replicate 72 0x7F else s.plate.mapNow
    let now := ps.foldl (fun l p => setNth l p (nth 0x7F w.1 p)) base
    let l := s.plate.pendingMaps.map (fun w => if due w then (w.1, w.2.1, setBit w.2.2 g true) else w)
    let s := { s with plate := { s.plate with mapNow := now, pendingMaps := l.filter (fun w => w.2.2 != 0xFF) } }
    old.foldl (fun s e => if physOf s e.1 != e.2 && (s.plateOf e.2).pair == e.1 then plateRelease e.2 s else s) s

/-- What the plate takes at a vertex of the side IN_CONTROL before the half begins. -/
def plateTake (x : Side) (g : Nat) (s : State) : State :=
  if s.control == some x then bringAtVertex g (mapAtVertex g (disablesAtVertex g s)) else s

/-- A pair reported corrected may be reported again in the carrier period that begins. -/
def newPeriod (p : Nat) (s : State) : State :=
  let n := physOf s p
  if decide (n < 72) && (s.plateOf n).driving && (s.plateOf n).pair == p then s.setPlate n { s.plateOf n with corrected := false }
  else s

/-- The plate at a vertex after the half has begun: the change of side, the start of driving, the outputs. -/
def plateVertex (x : Side) (g : Nat) (bottom : Bool) (s : State) : State :=
  let s := if bottom && s.reports x then (groupPairs s g).foldl (fun s p => newPeriod p s) s else s
  let s := if s.control == some x then (groupPairs s g).foldl (fun s p => plateBegin x p s) s else s
  let s := (groupPairs s g).foldl (fun s p => pairFollow p s) s
  changeAtVertex x g s

/-! ### Counters (R210 to R214, R504) -/

/-- Lag of a follower in femtoseconds. -/
def lagFs (s : State) (f : Nat) : Nat := s.num (0x5120 + f) 2 * clockFs

/-- The followers of a master. -/
def followersOf (s : State) (g : Nat) : List Nat := (List.range 8).filter (fun f => s.follower f && s.masterOf f == g)

/-- Run of a group. -/
def runSet (s : State) (g : Nat) : Bool := s.bit (0x5120 + g) 1 31

/-- Every attached follower will have its master's vertex Lag later (R212); `hs` 0 is the halt. -/
def pushVertex (x : Side) (g v hs : Nat) (s : State) : State :=
  (followersOf s g).foldl (fun s f =>
    if ((s.sill x).carrier f).attached then
      s.modCarrier x f (fun c => { c with delay := c.delay ++ [(v + lagFs s f, hs)], attached := hs != 0 })
    else s) s

/-- The counter holds at 0 (R214). -/
def haltGroup (x : Side) (g : Nat) (s : State) : State :=
  let s := s.modCarrier x g (fun c => { c with running := false, stopping := false, attached := false, delay := [],
                                               starts := c.startsAfter s.ridge })
  (groupPairs s g).foldl (fun s p =>
    s.modPair x p (fun q => { q with c := false, h := false, l := false, dtH := none, dtL := none, edges := [] })) s

/-- The sets of a started group are formed from its shadow (R213). -/
def formSets (x : Side) (g : Nat) (s : State) : State :=
  (updatesOf s g).foldl (fun s u =>
    let s := (pairsOf s u).foldl (fun s p => s.modPair x p (fun q => { q with cm := q.sh, pv := q.sh, ef := q.sh })) s
    let s := (mastersOf s u).foldl (fun s m => s.modCarrier x m (fun c => { c with perCm := c.per, perPv := c.per, perEf := c.per })) s
    s.setUpdate x u Update.init) s

/-- The start of a group counts as a fall of C (R216). -/
def fallAtStart (x : Side) (g v : Nat) (s : State) : State :=
  (groupPairs s g).foldl (fun s p => s.modPair x p (fun q => { edgeC (deadH s p) (deadL s p) v false q with off := false })) s

/-- The results that the active slot exports have missed their executions (R133): no tick has come for more than a fast period. -/
def missTicks (x : Side) (s : State) : State :=
  let g := s.graph x
  if g.started && decide (g.tickAt + g.period * clockFs < s.now) then
    (ofKind 4 (activeGraph s)).foldl (fun s e => s.modResult x (gResult e) (fun r => { r with valid := false, stale := true })) s
  else s

/-- A group starts at its bottom vertex, counting up (R213); where it is the anchor, executions were missed while it stood (R133). -/
def startGroup (x : Side) (g v hs : Nat) (s : State) : State :=
  let s := if s.activeSlot.isSome && g == schAnchor (activeSched s) then missTicks x s else s
  plateVertex x g true (beginHalf x g v true hs (fallAtStart x g v (plateTake x g s)))

/-- Followers that start with a bottom vertex of their master (R504): at its start every stopped one with Run set, later those whose
start has fallen due. -/
def attachFollowers (x : Side) (g : Nat) (atStart : Bool) (s : State) : State :=
  (followersOf s g).foldl (fun s f =>
    let c := (s.sill x).carrier f
    let due := match c.startAt with
      | some r => decide (r ≤ s.ridgeFine)
      | none => false
    if runSet s f && !c.running && !c.attached && c.delay.isEmpty && (atStart || due) then
      s.modCarrier x f (fun c => { c with attached := true })
    else s) s

/-- The groups that a start due at ridge time r starts (R213, R504). -/
def startMask (s : State) (x : Side) (r : Nat) : Nat :=
  let c := fun g => (s.sill x).carrier g
  let idle := fun g => runSet s g && !(c g).running && (c g).startAt == some r
  forN 8 (fun g m =>
    let on := idle g && (!s.follower g || (c (s.masterOf g)).running || idle (s.masterOf g))
    if on then setBit m g true else m) 0

/-- EV_148, once for a start (R213). -/
def announceStart (x : Side) (r : Nat) (s : State) : State :=
  if !s.reports x || s.plate.announced == some r then s
  else
    let m := startMask s x r
    let s := { s with plate := { s.plate with announced := some r } }
    if m = 0 then s else s.raise 148 m

/-- A master starts (R213): its sets from their shadow, its followers with it. -/
def startMaster (x : Side) (g : Nat) (s : State) : State :=
  let v := s.now
  let s := formSets x g s
  let hs := ((s.sill x).carrier g).perEf
  pushVertex x g v hs (attachFollowers x g true (startGroup x g v hs s))

/-- The half of a running group ends: whether it does so at a bottom vertex, and the next half with its sets and its period. -/
def passVertex (x : Side) (g v : Nat) (hsF : Option Nat) (s : State) : State :=
  let bottom := !((s.sill x).carrier g).up
  let s := plateTake x g s
  let s := if reloadsAt s g bottom then (updatesOf s g).foldl (fun s u => reloadUpdate x (clockOf v) u s) s else s
  let c := (s.sill x).carrier g
  let hs := hsF.getD (if reloadsAt s g bottom then c.perEf else c.hs)
  plateVertex x g bottom (beginHalf x g v bottom hs s)

/-- A vertex of a master that is due (R212, R214). -/
def masterVertex (x : Side) (g : Nat) (s : State) : State :=
  let c := (s.sill x).carrier g
  let v := c.at_ + c.hs * clockFs
  if s.now < v then s
  else if !c.up && c.stopping then haltGroup x g (pushVertex x g v 0 s)
  else
    let bottom := !c.up
    let s := if bottom then attachFollowers x g false s else s
    let s := passVertex x g v none s
    pushVertex x g v ((s.sill x).carrier g).hs s

/-- A vertex of a follower that is due (R212, R214, R504). -/
def followerVertex (x : Side) (g : Nat) (s : State) : State :=
  let c := (s.sill x).carrier g
  match c.delay with
  | (v, hs) :: rest =>
    if s.now < v then s
    else if hs = 0 || (!c.up && c.stopping) then haltGroup x g s
    else passVertex x g v (some hs) (s.modCarrier x g (fun c => { c with delay := rest }))
  | [] => s

/-- A follower's first vertex (R504). -/
def followerStart (x : Side) (g : Nat) (s : State) : State :=
  match ((s.sill x).carrier g).delay with
  | (v, hs) :: rest =>
    if s.now < v then s
    else if hs = 0 then haltGroup x g s
    else startGroup x g v hs (formSets x g (s.modCarrier x g (fun c => { c with delay := rest })))
  | [] => s

end Sys2Proof.Machine
end

