-- ==== Sys2Proof/Machine/GraphOps.lean ====
section
/-!
DEFINITION. The graph engine of a side (R105 to R138, R146, R147, R151 to R158): inputs, one execution, results, ticks, the switch.
-/
namespace Sys2Proof.Machine

/-! ### Results -/

/-- An operation on result j of the side that produces, in SPLIT_EXTENDED on both copies (R138). -/
def onResults (x : Side) (j : Nat) (f : Result → Result) (s : State) : State :=
  if s.profile = 2 then (s.modResult .A j f).modResult .B j f else s.modResult x j f

/-- A production of result j (R132, R136). DESIGN CHOICE (log entry 27): one that a full FIFO discards still counts in Sequence and is the
value held. -/
def produced (now depth v q : Nat) (wide : Bool) (r : Result) : Result :=
  let c := (r.count + 1) % 2 ^ 32
  let fifo := if depth = 0 || depth ≤ r.fifo.length then r.fifo else r.fifo ++ [⟨v, q, c⟩]
  { v := v, q := q, count := c, valid := true, stale := false, wide := wide, fifo := fifo,
    past := ((now, v, q, 0) :: r.past).take 64 }

def produce (x : Side) (e : GEntry) (o : Port) (s : State) : State :=
  let j := gResult e
  let v := if gValueType e = 3 then D64.of32 o.v else o.v
  let full := gDepth e != 0 && decide (gDepth e ≤ ((s.graph x).result j).fifo.length)
  let s := onResults x j (produced s.ridge (gDepth e) v o.q (gValueType e == 3)) s
  if full && serves s x then s.raise 116 j else s

/-! ### Channel samples as a frame reads them (R108, R109, R143, R206, R258) -/

/-- The member whose channel c has been replaced by a spare in service, with its stack (R258). -/
def retiredMember (s : State) (c : Nat) : Option (Nat × Member) :=
  (List.range 16).findSome? (fun k =>
    if !stackValid s k then none
    else (List.range 8).findSome? (fun r =>
      match memberOf s k r with
      | some m => if m.chan == c && legState s k r == 2 && legInService s m != r then some (k, m) else none
      | none => none))

/-- The channel whose samples stand for those of channel c, none where an estimate does. -/
def sourceChannel (s : State) (c : Nat) : Option Nat :=
  match retiredMember s c with
  | none => some c
  | some (k, _) => if spareChannel s k < 64 then some (spareChannel s k) else none

/-- The share of a member as an integer in 2^-149. -/
def shareInt (s : State) (w j : Nat) : Int := Dy.floorScaled (L32.toDy (word32 (s.blob (0x9100 + w) 4) j)) 149

/-- The estimate that stands for a sample of a retired member (R258). -/
def estimate (s : State) (x : Side) (k : Nat) (m : Member) (a : Sample) : Sample :=
  let g := spareGroup s k
  let ms := wearMembers s g
  let terms := (List.range ms.length).filterMap (fun j =>
    let o := nth m ms j
    if o = m then none
    else match sourceChannel s o.chan with
      | some c => ((s.chain x c).samples.find? (fun b => b.stamp == a.stamp)).map (fun b => (shareInt s g j, b))
      | none => none)
  let own := shareInt s g (((List.range ms.length).find? (fun j => nth m ms j == m)).getD 0)
  let den : Int := terms.foldl (fun a t => a + t.1) 0
  let sum : Int := terms.foldl (fun a t => a + t.2.v) 0
  let q := terms.foldl (fun a t => a ||| t.2.q) 8
  { a with v := if den ≤ 0 then 0 else satI 32 (convDiv (own * sum) den.toNat), q := q }

/-- The samples of channel c as frames read them, newest first. -/
def frameSamples (s : State) (x : Side) (c : Nat) : List Sample :=
  match sourceChannel s c, retiredMember s c with
  | some c', _ => (s.chain x c').samples
  | none, some (k, m) => (s.chain x c).samples.map (estimate s x k m)
  | none, none => []

/-- The instantaneous phase voltage base in F32 (R182): RatedVoltage × √2/√3. -/
def phaseBase (s : State) : Nat :=
  D64.to32 (D64.mul (D64.of32 (s.num 0x4000 2)) (D64.sqrt (D64.div (D64.ofInt 2) (D64.ofInt 3))))

/-- The model voltage that replaces channel c on a side (R206): the output of a 0x25 that names it, by its exchanged value. -/
def modelOf (s : State) (x : Side) (c : Nat) : Option Nat :=
  if (s.feedback c).modelUntil.isNone then none
  else match s.activeSlot with
    | none => none
    | some k => (slotGraph s k).findSome? (fun e =>
        if gKind e == 1 && gB4 e == 0x25 then
          let v := (s.graph x).instOf (gKey e)
          let p := words32 (s.blob (instRecord k e) (1 + v.bank)) 3
          ((List.range 3).find? (fun j => nth 0xFFFFFFFF p j == c)).map (fun j =>
            L32.mul (nth Port.init v.cross j).v (phaseBase s))
        else none)

/-- ScaleFull and ScaleOffset of a channel (R54). -/
def scaleFull (s : State) (c : Nat) : Nat := s.num (0x2100 + c) 8
def scaleOffset (s : State) (c : Nat) : Nat := s.num (0x2100 + c) 9

/-- A physical value as the Q1.30 value that R54 maps to it. -/
def unscale (s : State) (c v : Nat) : Int :=
  El.toQ30 (L32.div (L32.sub v (scaleOffset s c)) (scaleFull s c))

/-- The sample a LATEST input freezes (R108): of the newest stamp at or before the cutoff, the higher arc index. -/
def latestOf (s : State) (x : Side) (c cut : Nat) : Sample :=
  let l := (frameSamples s x c).filter (fun a => decide (a.stamp ≤ cut))
  let b := match l with
    | [] => ⟨Config.noSample c, 4, 0, false, false, 0, false⟩
    | a :: _ => (l.filter (fun b => b.stamp == a.stamp)).foldl (fun m b => if m.idx < b.idx then b else m) a
  match modelOf s x c with
  | some v => { b with v := (v : Int), q := b.q ||| 16, model := true }
  | none => b

/-- The samples a RING input freezes (R109): after the previous cutoff, oldest first; the newest alone in the first execution. A model
output stands in place of each of them (R206), and alone where the channel has delivered none yet. -/
def ringOf (s : State) (x : Side) (c prev cut : Nat) : List Sample :=
  let all := (frameSamples s x c).filter (fun a => decide (a.stamp ≤ cut))
  let l := if prev = 0 then all.take 1 else (all.filter (fun a => decide (prev < a.stamp))).take 64
  match modelOf s x c with
  | some v => (if all.isEmpty then [latestOf s x c cut] else l.reverse).map (fun a =>
      { a with v := unscale s c v, q := a.q ||| 16, model := false })
  | none => l.reverse

/-- The physical value of a frozen sample (R143). -/
def physical (s : State) (c : Nat) (a : Sample) : Nat :=
  if a.model then a.v.toNat else L32.fma (scaleFull s c) (L32.ofScaled a.v (-30)) (scaleOffset s c)

/-! ### Inputs of an execution (R108 to R112) -/

/-- The entry that binds input port j of an instance. -/
def bindingOf (l : List GEntry) (key j : Nat) : Option GEntry :=
  l.find? (fun e => (gKind e == 2 || gKind e == 3) && gKey e == key && gB4 e == j)

/-- What an input port presents. DESIGN CHOICE (log entry 27): an execution that starts before lane clock 4, at which Table 04.2 makes the frame
readable, reads the frame of its tick as later ones do. -/
def inputPort (s : State) (x : Side) (l : List GEntry) (key rate j : Nat) : Port :=
  let g := s.graph x
  match bindingOf l key j with
  | none => Port.init
  | some e =>
    if gKind e = 2 then
      match Store.get [] (key * 256 + j) g.frame with
      | a :: _ => ⟨physical s (gB5 e) a, 0, a.q⟩
      | [] => Port.init
    else if rateOf l (gW6 e) = rate then
      let v := g.instOf (gW6 e)
      nth Port.init (if gDelay e = 1 && v.completed then v.prev else v.out) (gB5 e)
    else Store.get Port.init (key * 256 + j) g.links

/-- The ring inputs of an instance take the samples of the frame: windows and runs of clean samples (R148). -/
def absorb (s : State) (x : Side) (l : List GEntry) (key n : Nat) (v : Inst) : Inst :=
  let one := fun (j : Nat) =>
    let new := Store.get [] (key * 256 + j) (s.graph x).frame
    let win := new.foldl (fun w a => (a :: w).take n) ((nth [] v.window j).take n)
    let run := new.foldl (fun r a => if a.part || a.q.testBit 2 then 0 else r + 1) (nth 0 v.run j)
    (win, run)
  let rs := (List.range n).map one
  let count := (l.filter (fun e => gKind e == 2 && gKey e == key && gBinding e == 1)).length
  let rs := rs.take count
  if count = 0 then v else { v with window := rs.map (fun r => r.1), run := rs.map (fun r => r.2) }

/-! ### What an execution sees of the grid-forming machine -/

/-- The causes of Table 06.3 other than JUMP hold while the swing is to be frozen (R185). -/
def swingFrozen (s : State) : Bool := s.gfState == 4 && s.bit 0x4002 1 31 && (s.gf.holds &&& 0xB) != 0

/-- The ridge time elapsed since LastTransition: a duration, which no step changes (R343). -/
def sinceTransition (s : State) : Nat := ((s.ridge : Int) - ofT96 (s.num 0x4001 4) - s.gf.shift).toNat

/-- The values in effect now: state, frozen swing, time since LastTransition, σ, f_g. -/
def gfNow (s : State) : List Nat := [s.gfState, (swingFrozen s).toNat, sinceTransition s, s.gf.sigma, s.gf.fGrid]

/-- DWELL (R197): seconds from LastTransition to a rate tick, F32. -/
def dwellOf (elapsed : Nat) : Nat := L32.ofRat elapsed (1000000000 * nsR)

/-- The load of the rotor by the ridge that is due (R199, R201): θ in 2^-64 turn and ω. DESIGN CHOICE (log entry 14): a JOIN whose domain has no
GRID line waits for an execution that finds one. -/
def loadOf (s : State) (x : Side) (v : Inst) (rt : Nat) : Option (Nat × Nat) :=
  match v.loadAt with
  | none => none
  | some (kind, t) =>
    if rt < t then none
    else if kind = 1 then
      let f := L32.toDy (s.num 0x4000 3)
      let th := Dy.mul f ⟨(t : Int), 0⟩
      -- NominalFreq × t_s in turns, modulo one turn, truncated to UQ0.64
      let num : Int := if 0 ≤ th.e then th.m * 2 ^ th.e.toNat * 2 ^ 64 else th.m * 2 ^ 64
      let den : Int := (if 0 ≤ th.e then 1 else 2 ^ (-th.e).toNat) * ((1000000000 * nsR : Nat) : Int)
      some (((num / den) % ((2 ^ 64 : Nat) : Int)).toNat, L32.one)
    else match (s.arc x (s.fld 0x4002 1 15 14)).grid with
      | some l =>
        let th := (Line.at l 1 ((rt : Int) * lineUnit 1)) % ((2 ^ 64 : Nat) : Int)
        some (th.toNat, L32.div (q24F32 l.f) (s.num 0x4000 3))
      | none => none

/-! ### One execution (R156, Table 05.7) -/

/-- An execution prepared by steps 1 to 4: the type, its record, rate and rate tick, the bank and its words, whether a swap acts, the state
words, SwapBump, whether a preset acts, the forced mode, the inputs and the environment. -/
structure Prep where
  ty : Nat
  objIx : Nat
  rate : Nat
  rt : Nat
  bank : Nat
  p : List Nat
  swap : Bool
  st : List Nat
  bump : Bool
  preset : Bool
  mode : Nat
  ins : List Port
  env : Env
  deriving DecidableEq, Repr

/-- The parameter words of a bank of a record. -/
def bankWords (s : State) (ri b n : Nat) : List Nat := words32 (s.blob ri (1 + b)) n

/-- A swap is due for an instance (R154). -/
def swapDue (s : State) (ri rt : Nat) (v : Inst) : Bool :=
  let g := s.fld ri 4 15 12
  match Store.find g s.graphs.swaps with
  | some t => decide (t ≤ rt) && v.swapDone != some g
  | none => false

/-- State words re-expressed from an old bank to a new one (R157, R158), and SwapBump. -/
def reexpress (ty : Nat) (old new st : List Nat) (i : List Port) (ts : Nat) : List Nat × Bool :=
  if ty = 0x0B then
    let (x, b) := El.piSwap old new st i
    ([x], b)
  else (clampState ty new st ts, false)

/-- The words of Preset: all zero where it is empty (Table 05.2). -/
def presetWords (s : State) (ri n : Nat) : List Nat := words32 (s.blob ri 3) n

/-- Ts of a rate (R146) in F32: fast cycles per cycle, times the fast period, in counts of 2.5 ns. -/
def stepOf (cycles period : Nat) : Nat := L32.ofRat ((cycles * period * 25 : Nat) : Int) (10 ^ 10)

def prepare (s : State) (x : Side) (k : Nat) (e : GEntry) : Prep :=
  let l := slotGraph s k
  let g := s.graph x
  let key := gKey e
  let rate := gB5 e
  let ty := gB4 e
  let et := elemType ty
  let ri := instRecord k e
  let v := g.instOf key
  let rt := nth 0 g.rateTick rate
  let ts := stepOf (rateCycles (slotSched s k) rate) (nth 0 g.ratePer rate)
  let ins := (List.range et.ins.length).map (inputPort s x l key rate)
  let cmds := g.cmds.filter (fun c => c.1 == ri && decide (c.2.2 ≤ rt))
  let swap := et.params != 0 && swapDue s ri rt v
  let bank := if swap then 1 - v.bank else v.bank
  let p := bankWords s ri bank et.params
  let old := if swap then bankWords s ri v.bank et.params else v.oldBank
  let st0 := if v.st.isEmpty then List.replicate et.states 0 else v.st
  let (st1, bump) := if swap || !v.oldBank.isEmpty then reexpress ty old p st0 ins ts else (st0, false)
  let preset := cmds.any (fun c => c.2.1.testBit 0)
  let load := if ty = 0x1A then loadOf s x v rt else none
  let st2 := if preset then clampState ty p (presetWords s ri et.states) ts else st1
  let mode := cmds.foldl (fun m c => let y := c.2.1 / 2 % 4
    if ty != 8 || y = 0 then m else if y = 3 then 0 else y) v.mode
  let ch := ((bindingOf l key 0).map gB5).getD 0
  let n := arcNow s x (chanDomain s ch)
  let w := absorb s x l key n v
  let gf := nth [] g.gfAt rate
  let legs := nth 0 p 1 / 16 % 16
  { ty := ty, objIx := ri, rate := rate, rt := rt, bank := bank, p := p, swap := swap, st := st2, bump := bump, preset := preset
    mode := mode, ins := ins
    env := {
      ts := ts, tick := rt, gf := nth 0 gf 0, frozen := nth 0 gf 1 != 0, sigma := nth 0 gf 3, fGrid := nth 0 gf 4
      dwell := dwellOf (nth 0 gf 2), nominal := s.num 0x4000 3
      shares := if ty = 0x27 then (let b := s.blob (0x9100 + legs) 4; words32 b (b.length / 4)) else []
      ident := if ty = 0x2D && stackValid s (nth 0 p 0) then s.blob (0x9010 + nth 0 p 0) 2 else []
      load := load, fresh := v.fresh || preset, full := scaleFull s ch, off := scaleOffset s ch, n := n, win := w.window
      run := w.run } }

/-- The W1C flags of ElementStatus that an execution sets (Table 05.5, R158). -/
def flagsSet (old : Nat) (r : Res) (preset bump modeChanged : Bool) : Nat :=
  modeChanged.toNat ||| ((r.hi || r.lo) && bits old 15 14 == 0).toNat <<< 1 ||| preset.toNat <<< 2 ||| bump.toNat <<< 3

/-- ElementStatus after an execution (Table 05.5, R158). -/
def statusAfter (old : Nat) (r : Res) (preset bump modeChanged : Bool) : Nat :=
  setBit (setBit (setBit old 15 r.hi) 14 r.lo) 13 r.manual ||| flagsSet old r preset bump modeChanged

/-- The objects of an instance record, from the side whose execution stands for the device's. -/
def recordExec (x : Side) (key : Nat) (pr : Prep) (old : List Nat) (r : Res) (s : State) : State :=
  if !serves s x then s
  else
    let changed := pr.ty == 8 && El.w old 1 != El.w r.st 1
    let was := s.num pr.objIx 6
    let s := (s.setNum pr.objIx 6 (statusAfter was r pr.preset pr.bump changed)).noteFlags (pr.objIx * 256 + 6) (flagsSet was r pr.preset pr.bump changed)
    let s := if r.hi || r.lo then s.incSat pr.objIx 8 else s
    let s := (s.setFld pr.objIx 4 0 0 pr.bank).setBlob pr.objIx 7 (bytesOf32 r.st)
    if changed then s.raise 121 key (El.count (El.w r.st 1)) else s

/-- Every instance of swap group g in the active slot that takes part in a swap (R150, R153). -/
def swapMembers (s : State) (g : Nat) : List GEntry :=
  match s.activeSlot with
  | none => []
  | some k => (ofKind 1 (slotGraph s k)).filter (fun e => (elemType (gB4 e)).params != 0 && s.fld (instRecord k e) 4 15 12 == g)

/-- An instance of swap group g has swapped (R154): on some side, and on every side in service that runs it. -/
def hasSwapped (s : State) (g : Nat) (e : GEntry) : Bool :=
  let did := fun (x : Side) => ((s.graph x).instOf (gKey e)).swapDone == some g
  let left := fun (x : Side) => s.inService x && runsOn s x (gExtended e) && !did x
  (did .A || did .B) && !left .A && !left .B

/-- A swap group whose last instance has swapped is complete (R154): EV_118. -/
def swapCheck (g : Nat) (s : State) : State :=
  let l := swapMembers s g
  if (Store.find g s.graphs.swaps).isNone || !l.all (hasSwapped s g) then s
  else
    let s := { s with graphs := { s.graphs with swaps := s.graphs.swaps.filter (fun e => e.1 != g) } }
    let clear := fun (x : Side) (s : State) =>
      ((s.graph x).inst.map (fun e => e.1)).foldl (fun s k =>
        s.modInst x k (fun v => if v.swapDone = some g then { v with swapDone := none } else v)) s
    ((clear .B (clear .A s)).setBitO 0x3300 2 (16 + g) false).raise 118 g

/-- The reference triples and DOUT requests that an execution publishes (R124, R145); t_ref is a TIME96, with 16 bits of a nanosecond
(R75, R8). In SPLIT_EXTENDED both sills are sent what the one truss that runs the instance publishes (R77). -/
def publish (x : Side) (rt : Nat) (e : GEntry) (o : Port) (s : State) : State :=
  let g := s.graph x
  if gB5 e = 1 then s.setGraph x { g with doutReq := setBit g.doutReq (gW6 e) (L32.truth o.v) }
  else if gB5 e = 2 || gB5 e = 3 then
    let tr : Triple := ⟨gB5 e == 3, o.v, freqQ24 o.f, rt / 2 ^ 16 * 2 ^ 16⟩
    let give := fun (s : State) (y : Side) =>
      if y == x || (s.profile == 2 && s.feeds y) then s.setGraph y { s.graph y with triples := (s.graph y).triples ++ [(gW6 e, tr)] } else s
    [Side.A, Side.B].foldl give (s.setGraph x { g with pubs := g.pubs ++ [(gW6 e, tr)] })
  else s

/-- The commands of a record that an execution of the rate tick rt has carried out (R152): each side's own, in SPLIT_EXTENDED, where one
side alone executes the instance, both copies. -/
def dropCmds (x : Side) (ix rt : Nat) (s : State) : State :=
  let drop := fun (y : Side) (s : State) =>
    s.setGraph y { s.graph y with cmds := (s.graph y).cmds.filter (fun c => !(c.1 == ix && decide (c.2.2 ≤ rt))) }
  if s.profile = 2 then drop .B (drop .A s) else drop x s

/-- Step 7 of Table 05.7: outputs, state and status written; results produced; references published. DESIGN CHOICE (log entry 27): an execution
with a value that is not finite (R147) uses up a due preset without PresetDone, exchanges the bank of a due swap without re-expressing the
state, and takes a mode command; the spec states none of these. -/
def finish (x : Side) (k : Nat) (e : GEntry) (pr : Prep) (r : Res) (s : State) : State :=
  let key := gKey e
  let l := slotGraph s k
  let v := (s.graph x).instOf key
  let ok := finiteRes pr.ty r
  let w := absorb s x l key pr.env.n v
  let out := if ok then r.out else
    (List.range (elemType pr.ty).outs.length).map (fun j => let o := nth Port.init v.out j; { o with q := o.q ||| 16 })
  let st0 := if v.st.isEmpty then List.replicate (elemType pr.ty).states 0 else v.st
  let st := if ok then r.st else st0
  let g := s.graph x
  let s := s.setGraph x { g with mainDone := if g.mainDone.contains key then g.mainDone else g.mainDone ++ [key] }
  let s := dropCmds x pr.objIx pr.rt s
  let s := s.modInst x key (fun _ => { w with
    st := st, out := out, prev := v.out, mode := pr.mode, fresh := !ok, parts := if pr.ty = 0x2A then v.parts else []
    bank := pr.bank, swapDone := if pr.swap then some (s.fld pr.objIx 4 15 12) else v.swapDone, oldBank := [], completed := true
    loadAt := if pr.env.load.isSome then none else v.loadAt })
  let s := if ok then recordExec x key pr st0 r s
    else
      let s := s.setBitO pr.objIx 6 4 true
      let s := if serves s x then s.setFld pr.objIx 4 0 0 pr.bank else s
      s.raise 120 key (sideIx x)
  let s := if pr.swap then swapCheck (s.fld pr.objIx 4 15 12) s else s
  l.foldl (fun s d =>
    if gKey d != key then s
    else if gKind d = 4 then produce x d (nth Port.init out (gB4 d)) s
    else if gKind d = 5 then publish x pr.rt d (nth Port.init out (gB4 d)) s
    else s) s

/-- A posting of a 0x2D to the ridge, one for an instance and rate tick, from the side in control (R249, R137). -/
def post (x : Side) (pr : Prep) (cy : List (Nat × Nat × Bool)) (s : State) : State :=
  if !s.reports x || Store.get 0 pr.objIx s.graphs.posted == pr.rt + 1 then s
  else
    let q : Posting := ⟨pr.objIx, pr.rt, nth 0 pr.p 0, nth 0 pr.p 1, nth 0 pr.p 2, (nth Port.init pr.ins 0).v, cy⟩
    { s with graphs := { s.graphs with
        postings := s.graphs.postings ++ [q], posted := Store.put 0 pr.objIx (pr.rt + 1) s.graphs.posted } }

/-- The instance that a LINK joins to port 0 of an instance, and the instance that reads an instance (R170). -/
def feeder (l : List GEntry) (key : Nat) : Nat := ((bindingOf l key 0).map gW6).getD 0
def reader2B (l : List GEntry) (key : Nat) : Nat := ((l.find? (fun e => gKind e == 3 && gW6 e == key)).map gKey).getD 0

/-- A part of an enumerator (R169, R170): its best sequence, none where a part it reduces has not run. -/
def partBest (s : State) (x : Side) (l : List GEntry) (key part : Nat) (pr : Prep) : Option (Nat × Nat) :=
  let g := s.graph x
  let own := (g.instOf key).parts
  if evaluates pr.ty part then
    let applied := El.count (if pr.ty = 0x2A then El.w (g.instOf (reader2B l key)).st 0 else El.w pr.st 0)
    bestOf ((partSeqs pr.ty part).map (fun q => (q, seqCost pr.p pr.ins pr.env.ts applied (horizonOf pr.ty) q)))
  else
    let src := if pr.ty = 0x2B && part < 16 then (g.instOf (feeder l key)).parts else own
    let need := reduces pr.ty part
    let got := need.filterMap (fun n => (src.find? (fun r => r.1 == n)).map (fun r => (r.2.1, r.2.2)))
    if got.length = need.length then bestOf got else none

/-- A part runs: the last one writes the outputs (R111). -/
def runPart (x : Side) (k : Nat) (e : GEntry) (part : Nat) (s : State) : Option State :=
  let pr := prepare s x k e
  let et := elemType pr.ty
  let l := slotGraph s k
  let key := gKey e
  if et.parts ≤ 1 then
    if pr.ty = 0x2D then
      let (r, cy) := El.rainflow pr.st pr.ins pr.env
      some (post x pr cy (finish x k e pr r s))
    else some (finish x k e pr (runElement pr.ty pr.mode pr.p pr.st pr.ins pr.env) s)
  else match partBest s x l key part pr with
    | none => none
    | some b =>
      if pr.ty = 0x2A then
        let s := s.modInst x key (fun v => { v with parts := v.parts.filter (fun r => r.1 != part) ++ [(part, b.1, b.2)] })
        if ((s.graph x).instOf key).parts.length = 128 then
          some (finish x k e pr (El.plain [El.port 0 (El.qs pr.ins)] []) s)
        else some s
      else if part + 1 = et.parts then some (finish x k e pr (winner b (El.qs pr.ins)) s)
      else some (s.modInst x key (fun v => { v with parts := v.parts.filter (fun r => r.1 != part) ++ [(part, b.1, b.2)] }))

/-! ### The compare path (R115, R119) -/

/-- The instances of the compare path: those that drive compare words, and those that reach them through same-rate links without delay. -/
def pathGrow (l : List GEntry) : Nat → List Nat → List Nat
  | 0, ks => ks
  | fuel + 1, ks =>
    let new := l.filterMap (fun e =>
      if gKind e == 3 && gDelay e == 0 && ks.contains (gKey e) && rateOf l (gW6 e) == rateOf l (gKey e) && !ks.contains (gW6 e)
      then some (gW6 e) else none)
    if new.isEmpty then ks else pathGrow l fuel (ks ++ new)
def comparePath (l : List GEntry) : List Nat :=
  pathGrow l l.length ((l.filter (fun e => gKind e == 5 && gB5 e == 0)).map gKey)

/-! ### Ticks (R105, R106) -/

/-- The next vertex of the anchor group of a side that VertexMode selects (R105), the instant of its tick, and the vertex before it. A top
vertex is expected, while the down half runs, one half of the same length after the bottom vertex to come. DESIGN CHOICE (log entry 27): a
vertex less than ReadyLead after the counter's start has its tick at the start. -/
def nextTick (s : State) (x : Side) (sch : List Nat) : Option (Nat × Nat × Nat) :=
  let c := (s.sill x).carrier (schAnchor sch)
  if !c.running || s.plate.halted then none
  else
    let half := c.hs * clockFs
    let before := if schVertexMode sch = 1 && !c.up then c.at_ + half else c.at_
    let v := before + half
    some (v, max c.at_ (v - schLead sch * clockFs), before)

/-- The tick of a side that is due now: the vertex it leads. A vertex is led once: the last one led lies at or before the vertex before it. -/
def tickDue (s : State) (x : Side) (sch : List Nat) : Option Nat :=
  match nextTick s x sch with
  | some (v, t, before) => if t ≤ s.now && (s.graph x).vertex ≤ before then some v else none
  | none => none

/-- The fast period in counts (R106, R146). -/
def fastPeriod (s : State) (x : Side) (sch : List Nat) : Nat :=
  let c := (s.sill x).carrier (schAnchor sch)
  if schVertexMode sch = 1 then 2 * c.hs else c.hs

/-- The rates whose cycles begin at a fast cycle index. -/
def ratesAt (sch : List Nat) (idx : Nat) : List Nat := (List.range 4).filter (fun r => idx % rateCycles sch r == 0)

/-- Rate overruns of the cycle that ends (R119): EV_113. -/
def rateOverruns (x : Side) (k : Nat) (s : State) : State :=
  let g := s.graph x
  if !g.started then s
  else
    let path := if g.compared then comparePath (slotGraph s k) else []
    let l := (dueEntries s x k g.index).filter (fun p => !g.done.contains p.1 && !path.contains (seKey p.2))
    l.foldl (fun s p => (s.incSat 0x3000 5).raise 113 (sideIx x) (seKey p.2)) s

/-- A result takes Stale at ridge time `now`, and its last production keeps that time (R381). -/
def Result.goStale (now : Nat) (r : Result) : Result :=
  let past := match r.past with
    | (t, v, q, _) :: l => (t, v, q, now + 1) :: l
    | [] => []
  { r with valid := false, stale := true, past := if r.stale then r.past else past }

/-- A result at the tick at which an execution of its producer becomes due (R132, R133): Valid is cleared, and Stale set where the execution
due before has not produced. -/
def resultTick (now : Nat) (due : Bool) (r : Result) : Result :=
  if due && !r.valid then r.goStale now else { r with valid := false }

/-- One instance at a tick of its rate: its buffers are exchanged (R112), and the results it produces lose Valid, or take Stale, in the copy
of the side that ticks, whichever side runs the instance (R132, R133, R137). -/
def instTick (x : Side) (l : List GEntry) (e : GEntry) (s : State) : State :=
  let key := gKey e
  let due := ((s.graph x).instOf key).due
  let s := s.modInst x key (fun v => { v with cross := v.out, completed := false, due := true, parts := [] })
  l.foldl (fun s d => if gKind d == 4 && gKey d == key then s.modResult x (gResult d) (resultTick s.ridge due) else s) s

/-- The frames of the inputs of an instance at a tick of its rate (R108, R109, R112). DESIGN CHOICE (log entry 27): in SPLIT_EXTENDED a link
between a CONTROL and an EXTENDED instance passes what the reading side's own copy of the producer holds. -/
def freezeInst (x : Side) (l : List GEntry) (prev cut : Nat) (e : GEntry) (s : State) : State :=
  let key := gKey e
  l.foldl (fun s d =>
    if gKey d != key then s
    else
      let g := s.graph x
      let slot := key * 256 + gB4 d
      if gKind d = 2 then
        let f := if gBinding d = 1 then ringOf s x (gB5 d) prev cut else [latestOf s x (gB5 d) cut]
        s.setGraph x { g with frame := Store.put [] slot f g.frame }
      else if gKind d = 3 && rateOf l (gW6 d) != gB5 e then
        s.setGraph x { g with links := Store.put Port.init slot (nth Port.init (g.instOf (gW6 d)).cross (gB5 d)) g.links }
      else s) s

/-- The state signature of the main cycle just ended (R268). -/
def stateSignature (s : State) (x : Side) (l : List GEntry) : Nat :=
  let g := s.graph x
  let es := (ofKind 1 l).filter (fun e => g.mainDone.contains (gKey e))
  let byRec := (List.range 1024).flatMap (fun r => es.filter (fun e => gW6 e == r))
  crc32 (byRec.flatMap (fun e => bytesOf32 (g.instOf (gKey e)).st))

/-- A cross-rate link buffer of a consumer as mirrored. -/
def mirrorLink (x : Side) (key : Nat) (d : GEntry) (s : State) : State :=
  let slot := key * 256 + gB4 d
  match Store.find slot s.graphs.mirrorLinks with
  | some o => s.setGraph x { s.graph x with links := Store.put Port.init slot o (s.graph x).links }
  | none => s

/-- In SPLIT_EXTENDED a side that now controls loads the mirrored CONTROL instances and their cross-rate link buffers (R274). -/
def mirrorLoad (x : Side) (l : List GEntry) (s : State) : State :=
  let now := s.control == some x
  let g := s.graph x
  let s := if s.profile = 2 && now && !g.ctl && g.started then
      (ofKind 1 l).foldl (fun s e =>
        if gExtended e then s
        else
          let s := match Store.find (gKey e) s.graphs.mirror with
            | some v => s.modInst x (gKey e) (fun _ => v)
            | none => s
          (l.filter (fun d => gKind d == 3 && gKey d == gKey e)).foldl (fun s d => mirrorLink x (gKey e) d s) s) s
    else s
  s.setGraph x { s.graph x with ctl := now }

/-- Positions of a list replaced. -/
def setAll {α : Type} (ks : List Nat) (v : α) (l : List α) : List α := ks.foldl (fun l k => setNth l k v) l

/-- The lanes that stay awake; with the last of the others the gap of R373 begins. -/
def sleepLanes (x : Side) (stay : Nat → Bool) (s : State) : State :=
  let g := s.graph x
  let l := g.awake.filter stay
  s.setGraph x { g with awake := l, sleptAt := if l.isEmpty && !g.awake.isEmpty then s.now else g.sleptAt }

/-- A tick of a side (R105, R113): the fast cycle begins. -/
def tickSide (x : Side) (k v : Nat) (s : State) : State :=
  let sch := slotSched s k
  let l := slotGraph s k
  let s := takeShares (rateOverruns x k s)
  let s := mirrorLoad x l s
  let g := s.graph x
  let idx := if g.started then (g.index + 1) % hyper sch else 0
  let rs := ratesAt sch idx
  let cut := s.ridge - rns 80
  let per := fastPeriod s x sch
  let prev := g.cutoffs
  let sig := if rs.contains 1 && g.started then stateSignature s x l else g.stateSig
  let s := s.setGraph x { g with
    index := idx, started := true, tick := s.ridge, tickAt := s.now, vertex := v, period := per
    rateTick := setAll rs s.ridge g.rateTick, ratePer := setAll rs per g.ratePer, cutoffs := setAll rs cut g.cutoffs
    gfAt := setAll rs (gfNow s) g.gfAt, done := [], tagged := [], pubs := [], compared := false, overran := false, stateSig := sig
    mainDone := if rs.contains 1 then [] else g.mainDone }
  let es := (ofKind 1 l).filter (fun e => rs.contains (gB5 e))
  let s := es.foldl (fun s e => instTick x l e s) s
  let s := es.foldl (fun s e => freezeInst x l (nth 0 prev (gB5 e)) cut e s) s
  let due := dueEntries s x k idx
  let s := (s.graphs.swaps.map (fun e => e.1)).foldl (fun s g => swapCheck g s) s
  let s := countEvent (sideIx x) 0x02 1 0 s
  let s := sleepLanes x (fun a => due.any (fun p => seJoist p.2 * 8 + seLane p.2 == a)) s
  if s.reports x && s.plate.skipSig != 0 then { s with plate := { s.plate with skipSig := s.plate.skipSig - 1 } } else s

/-- No tick has come on a side for longer than a fast period and none is to come: its results are treated as under R133. -/
def ticksLost (s : State) (x : Side) : Bool :=
  let g := s.graph x
  !g.started || (!ticksOccur s && decide (g.tickAt + g.period * clockFs < s.now))

/-! ### The switch (R128 to R131, R151, R155) -/

/-- A fresh instance from the preset of its record (R130, R151). -/
def freshInst (s : State) (k : Nat) (e : GEntry) : Inst :=
  { Inst.init with st := presetWords s (instRecord k e) (elemType (gB4 e)).states }

/-- An instance carried from the old slot (R130, R151): its state, and the bank it ran where the new bank 0 differs. -/
def carriedInst (s : State) (old k : Nat) (o e : GEntry) (v : Inst) : Inst :=
  let n := (elemType (gB4 e)).params
  let was := bankWords s (instRecord old o) v.bank n
  let new := bankWords s (instRecord k e) 0 n
  { v with bank := 0, swapDone := none, oldBank := if was = new then [] else was, completed := false, parts := [] }

/-- The instance of the old slot that one of the new slot continues (R130). -/
def carriedFrom (s : State) (old : Option Nat) (e : GEntry) : Option GEntry :=
  match old with
  | none => none
  | some o => (instEntry (slotGraph s o) (gKey e)).filter (fun d => gB4 d == gB4 e && gB5 d == gB5 e)

/-- The instances of a side in the new slot. -/
def switchInsts (x : Side) (old : Option Nat) (k : Nat) (s : State) : State :=
  let g := s.graph x
  let ents := ofKind 1 (slotGraph s k)
  let new := ents.foldl (fun (l : Store Inst) e =>
    let v := match carriedFrom s old e with
      | some d => carriedInst s (old.getD 0) k d e (g.instOf (gKey e))
      | none => freshInst s k e
    Store.put Inst.init (gKey e) v l) []
  let carried := (ofKind 4 (slotGraph s k)).filterMap (fun d =>
    match instEntry (slotGraph s k) (gKey d) with
    | some e => if (carriedFrom s old e).isSome then some (gResult d) else none
    | none => none)
  let results := (List.range 512).filterMap (fun j =>
    let r := g.result j
    let r := if carried.contains j then r else r.goStale s.ridge
    if r = Result.init then none else some (j, r))
  s.setGraph x { g with
    inst := new, results := results, started := false
    stateSig := if g.started then stateSignature s x (slotGraph s (old.getD 0)) else g.stateSig
    done := [], compared := false, overran := false, frame := [], links := []
    cutoffs := [0, 0, 0, 0], mainDone := [] }

/-- A pending parameter swap is cancelled by a switch (R155): EV_119. -/
def cancelSwap (g : Nat) (s : State) : State :=
  let s := { s with graphs := { s.graphs with swaps := s.graphs.swaps.filter (fun e => e.1 != g) } }
  ((s.setBitO 0x3300 2 (16 + g) false).setBitO 0x3300 2 g true).raise 119 g 2

/-- SlotState of a slot, in its record and in GraphSlotStatus. -/
def setSlotState (k v : Nat) (s : State) : State :=
  (s.setNum (0x3100 + k) 4 v).setFld 0x3000 2 (25 + 2 * k) (24 + 2 * k) v

/-- SampleToCompare (R115): CompareStart × 2.5 ns + 30 ns, rounded up. -/
def sampleToCompare (sch : List Nat) : Nat := (schCompare sch * 5 + 60 + 1) / 2

/-- The switch takes effect (R129). -/
def doSwitch (k : Nat) (s : State) : State :=
  let old := s.activeSlot
  let s := match old with
    | some o => rateOverruns .B o (rateOverruns .A o s)
    | none => s
  let s := switchInsts .B old k (switchInsts .A old k s)
  let s := (s.graphs.swaps.map (fun e => e.1)).foldl (fun s g => cancelSwap g s) s
  let s := match old with
    | some o => (ofKind 1 (slotGraph s o)).foldl (fun s e => s.setFld (instRecord o e) 4 0 0 0) (setSlotState o 1 s)
    | none => s
  let s := setSlotState k 2 s
  let w := s.num 0x3000 2
  let w := setBits (setBits w 31 29 k) 15 0 (satInc 16 (w % 65536))
  let s := ((s.setNum 0x3000 2 w).setNum 0x3000 3 (toT96 s.ridge)).setNum 0x3000 6 (sampleToCompare (slotSched s k))
  { s with graphs := { s.graphs with switch := none } }.raise 114 k

/-- The slot that a pending switch makes active at a tick of ridge time `r`, if it is a tick at which it may take effect (R129). -/
def switchAt (s : State) (r : Nat) : Option Nat :=
  match s.graphs.switch with
  | none => none
  | some (k, t) =>
    let whole := match s.activeSlot with
      | none => true
      | some o => ((s.graph s.reporter).index + 1) % hyper (slotSched s o) == 0
    if t ≤ r && whole then some (k % 2) else none

/-- The slot whose anchor group gives the next tick: the active one, and while none is active the target of a switch. -/
def tickSlot (s : State) : Option Nat := match s.activeSlot with
  | none => s.graphs.switch.map (fun p => p.1)
  | some o => some o

/-- The chosen tick of a pending switch has come (R129). -/
def switchNow (s : State) : Option Nat :=
  match tickSlot s, switchAt s s.ridge with
  | some o, some k => (tickDue s s.reporter (slotSched s o)).map (fun _ => k)
  | _, _ => none

/-- The slot of a side's cycle to come, its index in it, the instant of its tick and the vertex before that which it leads. -/
def cycleToCome (s : State) (x : Side) : Option (Nat × Nat × Nat × Nat) :=
  match tickSlot s with
  | none => none
  | some o => match nextTick s x (slotSched s o) with
    | none => none
    | some (_, t, before) =>
      let g := s.graph x
      match switchAt s (s.ridge + (t / tickFs - s.now / tickFs) * s.num 0x7000 2), s.activeSlot with
      | some k, _ => some (k, 0, t, before)
      | none, some k => some (k, if g.started then (g.index + 1) % hyper (slotSched s k) else 0, t, before)
      | none, none => none

end Sys2Proof.Machine
end

