-- ==== Sys2Proof/Machine/CaptureOps.lean ====
section
/-!
DEFINITION. Capture plans, segments and headers (R376 to R392): what a plan's record says, the values of a row, allocation, the header.
-/
namespace Sys2Proof.Machine

/-! ### Plan records (Tables 14.5, 14.6) -/

def planIx (k : Nat) : Nat := 0x8010 + k
def planOn (s : State) (k : Nat) : Bool := s.bit (planIx k) 1 31
def planRing (s : State) (k : Nat) : Bool := s.bit (planIx k) 1 30
def planStreams (s : State) (k : Nat) : Bool := s.bit (planIx k) 1 29
def planStamps (s : State) (k : Nat) : Bool := s.bit (planIx k) 1 28
def planDecim (s : State) (k : Nat) : Nat := s.fld (planIx k) 1 27 25
def planRate (s : State) (k : Nat) : Bool := s.bit (planIx k) 1 24
def planRateSel (s : State) (k : Nat) : Nat := s.fld (planIx k) 1 23 22
def planChan (s : State) (k : Nat) : Nat := s.fld (planIx k) 1 21 16
def planLength (s : State) (k : Nat) : Nat := s.num (planIx k) 3
def planPre (s : State) (k : Nat) : Nat := s.num (planIx k) 4
def planKind (s : State) (k : Nat) : Nat := s.fld (planIx k) 6 31 29
def planEdge (s : State) (k : Nat) : Nat := s.fld (planIx k) 6 28 27
def planSignal (s : State) (k : Nat) : Nat := s.fld (planIx k) 6 13 8

/-- The signals of a plan (R378): kind (0 channel, 1 result) and channel or result. -/
def signalsOf (b : List Nat) : List (Nat × Nat) := (List.range (b.length / 4)).map (fun i => (nth 0 b (4 * i), field b (4 * i + 2) 2))
def planSignals (s : State) (k : Nat) : List (Nat × Nat) := signalsOf (s.blob (planIx k) 2)

/-- RowBytes of S signals (R381). -/
def rowBytes (stamps : Bool) (n : Nat) : Nat := 4 * stamps.toNat + 4 * n + 4 * ((n + 3) / 4)

/-- The size of a segment (R377). -/
def segSize (stamps : Bool) (n length : Nat) : Nat := (128 + 16 * n + length * rowBytes stamps n + 4095) / 4096 * 4096

/-! ### Segments -/

def segKey (x : Side) (id : Nat) : Nat := 4096 * sideIx x + id
def State.segment (s : State) (x : Side) (id : Nat) : Option Segment := Store.find (segKey x id) s.capture.segs
def State.setSegment (s : State) (x : Side) (id : Nat) (v : Segment) : State :=
  { s with capture := { s.capture with segs := Store.put Segment.init (segKey x id) v s.capture.segs } }
def State.dropSegment (s : State) (x : Side) (id : Nat) : State :=
  { s with capture := { s.capture with segs := Store.put Segment.init (segKey x id) Segment.init s.capture.segs } }

/-- The SegmentIds allocated to a plan. -/
def planIds (s : State) (k : Nat) : List Nat := Store.get [] k s.capture.ids

def State.stream (s : State) (k : Nat) : Stream := Store.get Stream.init k s.capture.streams
def State.setStream (s : State) (k : Nat) (v : Stream) : State :=
  { s with capture := { s.capture with streams := Store.put Stream.init k v s.capture.streams } }

/-- A plan's triggered segments go to an open session (R390). -/
def streamsTo (s : State) (k : Nat) : Bool :=
  planStreams s k && (Store.find (s.stream k).owner s.net.sessions).isSome

/-- A segment is held (R386): rows not yet streamed, or a read within the last 10 s. -/
def segHeld (s : State) (v : Segment) : Bool :=
  (streamsTo s v.plan && decide ((s.stream v.plan).seq ≤ v.seq)) || decide (s.now < v.heldUntil)

/-- The segment a plan arms next on a side (R382, R386): its first free one; with Ring set, else the oldest complete one not held. -/
def nextSegment (s : State) (x : Side) (k : Nat) : Option Nat :=
  let ids := planIds s k
  match ids.find? (fun i => (s.segment x i).isNone) with
  | some i => some i
  | none =>
    if planRing s k then
      ids.foldl (fun best i => match s.segment x i with
        | some v =>
          if v.complete && !segHeld s v then
            (match best.bind (s.segment x) with
            | some w => if v.seq < w.seq then some i else best
            | none => some i)
          else best
        | none => best) none
    else none

/-! ### Values of a row (R378, R379, R383) -/

/-- The ValueType of result j in the active slot. -/
def resultType (s : State) (j : Nat) : Nat := ((exportOf s j).map gValueType).getD 0

/-- Format of a signal (Table 14.2): 0 Q1.30, 1 F32, 2 I32, 3 U32. -/
def signalFormat (s : State) (g : Nat × Nat) : Nat := if g.1 = 0 then 0 else resultType s g.2 + 1

/-- The side runs the instance that result j exports (R123). -/
def resultRuns (s : State) (x : Side) (j : Nat) : Bool :=
  match (exportOf s j).bind (fun e => instEntry (activeGraph s) (gKey e)) with
  | some e => runsOn s x (gExtended e)
  | none => false

/-- What a channel signal takes at an event (R379): the newest raw sample stamped at or before it, by the tie rule of R108. -/
def channelSignal (s : State) (x : Side) (c e : Nat) : Nat × Nat :=
  let l := (s.chain x c).samples.filter (fun a => decide (a.stamp ≤ e))
  match l with
  | [] => (ofInt 32 (Config.noSample c), 4)
  | a :: _ =>
    let b := (l.filter (fun b => b.stamp == a.stamp)).foldl (fun m b => if m.idx < b.idx then b else m) a
    (ofInt 32 b.v, b.q % 32 + 64 * b.cycleStart.toNat)

/-- What a result signal takes: the last production completed at or before the event, of a FIFO result its oldest entry (R378, R379); Stale
where Meta showed it at the event, as it does while no tick occurs (R133, R381). Of 64 later productions the oldest stands for it. -/
def resultSignal (s : State) (x : Side) (j e : Nat) : Nat × Nat :=
  let r := (s.graph x).result j
  let last := match r.past.find? (fun p => decide (p.1 ≤ e)) with
    | some p => some p
    | none => if r.past.length = 64 then r.past.getLast? else none
  let fifo := if (exportOf s j).any (fun d => gDepth d != 0) then r.fifo else []
  let (v, q) := match fifo with
    | p :: _ => (p.v, p.q)
    | [] => last.elim (0, 0) (fun p => (p.2.1, p.2.2.1))
  let stale := last.elim r.stale (fun p => p.2.2.2 != 0 && decide (p.2.2.2 ≤ e + 1))
  (v % 2 ^ 32, q % 32 + 32 * (stale || !resultRuns s x j || ticksLost s x).toNat)

/-- A signal's value and qualifier byte at an event. -/
def signalAt (s : State) (x : Side) (e : Nat) (g : Nat × Nat) : Nat × Nat :=
  if g.1 = 0 then channelSignal s x g.2 e else resultSignal s x g.2 e

/-- TriggerLevel in a signal's format (R383). -/
def levelIn (fmt f : Nat) : Nat :=
  let d := L32.toDy f
  if fmt = 0 then ofInt 32 (El.toQ30 f)
  else if fmt = 1 then f
  else if fmt = 2 then ofInt 32 (satI 32 (Dy.roundScaled d 0))
  else (clampI 0 (2 ^ 32 - 1) (Dy.roundScaled d 0)).toNat

/-- One value lies below another, in a signal's format. -/
def levelLt (fmt a b : Nat) : Bool :=
  if fmt = 1 then L32.lt a b else if fmt = 3 then decide (a < b) else decide (sx 32 a < sx 32 b)
def levelLe (fmt a b : Nat) : Bool :=
  if fmt = 1 then L32.le a b else if fmt = 3 then decide (a ≤ b) else decide (sx 32 a ≤ sx 32 b)

/-- The trigger signal crosses TriggerLevel from the previous row to this one in the direction of Edge (R383). -/
def crosses (fmt level edge prev new : Nat) : Bool :=
  (edge.testBit 0 && levelLt fmt prev level && levelLe fmt level new)
    || (edge.testBit 1 && levelLe fmt level prev && levelLt fmt new level)

/-! ### The header (R392, Table 14.2) -/

/-- Descriptor of a signal. -/
def descriptor (s : State) (g : Nat × Nat) : List Nat :=
  let (full, off, unit) :=
    if g.1 = 0 then (scaleFull s g.2, scaleOffset s g.2, s.num (0x2100 + g.2) 0xA) else (0x3F800000, 0, 0)
  [g.1, signalFormat s g] ++ beBytes 2 g.2 ++ beBytes 4 full ++ beBytes 4 off ++ [unit, 0, 0, 0]

/-- An entry of Changes. -/
def changeWord (c : Nat × Nat × Nat) : Nat := c.2.1 <<< 29 ||| c.2.2 <<< 27 ||| c.1 % 2 ^ 20

/-- The header of a segment as it stands. -/
def headerNow (s : State) (x : Side) (id : Nat) (v : Segment) : List Nat :=
  let k := v.plan
  let sigs := planSignals s k
  let stampAt := fun (i : Nat) => ((v.rows[i]?).map (fun r => toT96 r.stamp)).getD 0
  let head := beBytes 4 0x43534731 ++ beBytes 2 id ++ [k, v.flags + sideIx x] ++ beBytes 4 v.seq ++ beBytes 12 (stampAt v.preCount)
    ++ beBytes 12 (stampAt 0) ++ beBytes 4 v.rows.length ++ beBytes 4 v.preCount
    ++ beBytes 2 (rowBytes (v.flags.testBit 4) sigs.length) ++ [sigs.length, v.factorStart]
    ++ ((List.range 6).flatMap (fun i => beBytes 4 ((v.changes[i]?).elim 0 changeWord)))
    ++ beBytes 4 ((planRate s k).toNat <<< 31 ||| planRateSel s k <<< 29 ||| planChan s k)
    ++ List.replicate 48 0
  let desc := sigs.flatMap (descriptor s)
  head ++ beBytes 4 (crc32 (head ++ desc)) ++ desc

/-- The header of a segment: fixed once it is complete. -/
def segHeader (s : State) (x : Side) (id : Nat) (v : Segment) : List Nat := if v.complete then v.head else headerNow s x id v

/-- The bytes of a row (R381). -/
def rowData (stamps : Bool) (first : Nat) (r : Row) : List Nat :=
  (if stamps then beBytes 4 (((((r.stamp : Int) - first) / (nsR : Int)) % 2 ^ 32).toNat) else []) ++ r.vals.flatMap (beBytes 4) ++ r.quals
    ++ List.replicate ((4 - r.quals.length % 4) % 4) 0

/-- The rows of a segment from row `i` on, at most `n`, as bytes. -/
def rowsData (v : Segment) (i n : Nat) : List Nat :=
  let first := ((v.rows[0]?).map (fun r => r.stamp)).getD 0
  ((v.rows.drop i).take n).flatMap (rowData (v.flags.testBit 4) first)

/-- The bytes of one row of a segment. -/
def segRowBytes (v : Segment) : Nat := ((v.rows[0]?).map (fun r => rowBytes (v.flags.testBit 4) r.vals.length)).getD 4

end Sys2Proof.Machine
end

