-- ==== Sys2Proof/Machine/Capture.lean ====
section
/-!
DEFINITION. Triggered capture (chapter 14): arming, rows and triggers, rate halving, reading and streaming.
-/
namespace Sys2Proof.Machine

/-! ### Commands (R382, R383, R386, Table 14.4) -/

/-- ARM (R382): the named, enabled plans arm at the first timebase event at or after the application time, but for one that an earlier ARM is to
arm; the session that arms a plan receives its streams (R390), so that an ARM of a plan already armed changes nothing. -/
def armPlans (mask sid : Nat) (s : State) : State :=
  forMask 8 mask (fun k s =>
    if planOn s k then
      let one := fun (x : Side) (s : State) =>
        s.setEngine x k { s.engine x k with armAt := some ((s.engine x k).armAt.getD s.appTime) }
      let v := s.engine s.reporter k
      let s := if v.armAt.isNone && (v.seg.isNone || v.stopping) then s.setStream k { s.stream k with owner := sid } else s
      one .B (one .A s)
    else s) s

/-- DISARM: the named plans stop at their next row. -/
def disarmPlans (mask : Nat) (s : State) : State :=
  forMask 8 mask (fun k s =>
    let one := fun (x : Side) (s : State) =>
      let v := s.engine x k
      s.setEngine x k { v with armAt := none, stopping := v.seg.isSome, full := false }
    one .B (one .A s)) s

/-- TRIGGER (R383): a command trigger at the application time. -/
def triggerPlans (mask : Nat) (s : State) : State :=
  forMask 8 mask (fun k s => if planOn s k then pushTrigger k s.appTime s else s) s

/-- The plan that a SegmentId is allocated to. -/
def planOfSegment (s : State) (id : Nat) : Option Nat := (List.range 8).find? (fun k => (planIds s k).contains id)

/-- A complete segment is freed on a side, and a plan that has stopped full arms again (R386); no read holds one that is named earlier. -/
def freeSegment (x : Side) (k id : Nat) (s : State) : State :=
  match s.segment x id with
  | some v =>
    if v.complete then
      let s := s.dropSegment x id
      let e := s.engine x k
      if e.full then s.setEngine x k { e with full := false, armAt := some s.appTime } else s
    else s.setSegment x id { v with heldUntil := 0 }
  | none => s

/-- RELEASE (R386). -/
def releaseSegment (id : Nat) (s : State) : State :=
  match planOfSegment s id with
  | some k => freeSegment .B k id (freeSegment .A k id s)
  | none => s

/-- A write of CaptureCommand by a session (Table 14.4). -/
def captureCommandWrite (sid word : Nat) (s : State) : State :=
  let mask := word % 256
  match bits word 31 28 with
  | 1 => armPlans mask sid s
  | 2 => disarmPlans mask s
  | 3 => triggerPlans mask s
  | 4 => releaseSegment (bits word 27 16) s
  | _ => s.setBitO 0x8000 2 2 true

/-- ARM (R382). -/
def execArm (t mask session : Nat) (s : State) : Host.Outcome State Fault Refusal :=
  run (.arm t mask session) (fun s => if hostOk s then armPlans mask ((s.sessionOf session).getD 0) s else s) s

/-- DISARM (R386). -/
def execDisarm (t mask : Nat) (s : State) : Host.Outcome State Fault Refusal :=
  run (.disarm t mask) (fun s => if hostOk s then disarmPlans mask s else s) s

/-- TRIGGER (R383). -/
def execTrigger (t mask : Nat) (s : State) : Host.Outcome State Fault Refusal :=
  run (.trigger t mask) (fun s => if hostOk s then triggerPlans mask s else s) s

/-- RELEASE (R386). -/
def execRelease (t seg : Nat) (s : State) : Host.Outcome State Fault Refusal :=
  run (.release t seg) (fun s => if hostOk s then releaseSegment seg s else s) s

/-! ### Rows (R379, R382 to R388) -/

/-- The event of a plan's timebase on a side with a TIME96 stamp, as ridge time, with its arc index, where it has not yet been taken
(R379). Of two samples with one stamp the earlier comes first. -/
def timebaseEvent (s : State) (x : Side) (k stamp : Nat) : Option (Nat × Nat) :=
  let last := (s.engine x k).lastEv
  let l :=
    if planRate s k then
      let g := s.graph x
      if g.started then [(nth 0 g.rateTick (planRateSel s k), 0)] else []
    else (s.chain x (planChan s k)).samples.reverse.map (fun a => (a.stamp, a.idx))
  let l := l.filter (fun e => toT96 e.1 == stamp)
  match l.findIdx? (fun e => some e == last) with
  | some i => l[i + 1]?
  | none => l[0]?

/-- The triggers that wait on a side with no segment armed are missed (R384). -/
def missWaiting (x : Side) (k : Nat) (s : State) : State :=
  let v := s.engine x k
  let s := if s.reports x then v.trigs.foldl (fun s _ => missTrigger k s) s else s
  s.setEngine x k { v with trigs := [] }

/-- The plan arms its next segment on a side, or stops full with EV_212 (R386); `since` events lie behind its next recorded row. A trigger
that has not fallen due waits for a row of the next segment, and is missed where there is none (R384). -/
def armNext (x : Side) (k since : Nat) (s : State) : State :=
  let v := s.engine x k
  match nextSegment s x k with
  | some id =>
    (s.dropSegment x id).setEngine x k { v with
      seg := some id, armAt := none, rows := [], total := 0, past := false, start := 0, factor := planDecim s k, since := since
      sinceHalve := 0, changes := [], prev := none, full := false, above := false }
  | none =>
    let s := missWaiting x k s
    let s := s.setEngine x k { v with seg := none, armAt := none, past := false, trigs := [], full := true }
    if s.reports x && !v.full then s.raise 212 k else s

/-- The segment of a plan is complete (R386): its header is fixed, EV_209, and the next segment is armed unless DISARM waits. -/
def completeSegment (x : Side) (k id : Nat) (truncated : Bool) (s : State) : State :=
  let v := s.engine x k
  let g := (s.segment x id).getD Segment.init
  let g := { g with flags := g.flags ||| 4 * truncated.toNat }
  let s := s.setSegment x id { g with complete := true, head := headerNow s x id g }
  let s := s.setEngine x k { v with seqNo := (v.seqNo + 1) % 2 ^ 32, seg := none, past := false, stopping := false }
  let s := if s.reports x then s.incWrap (planIx k) 0xC else s
  let s := s.raise 209 k id (sideIx x)
  if v.stopping then missWaiting x k s else armNext x k 0 s

/-- The factor of a plan doubles on a side (R387): cause 1 write, 2 stream; EV_210. -/
def doubleFactor (x : Side) (k cause : Nat) (s : State) : State :=
  let v := s.engine x k
  if 6 ≤ v.factor then s
  else
    let f := v.factor + 1
    let s := s.setEngine x k { v with factor := f, sinceHalve := 0, changes := v.changes ++ [(v.total, f, cause)] }
    let s := match v.seg.bind (s.segment x) with
      | some g =>
        if v.past then
          s.setSegment x (v.seg.getD 0) { g with flags := g.flags ||| 8, changes := g.changes ++ [(v.total - v.start, f, cause)] }
        else s
      | none => s
    (s.setBitO 0x8000 2 0 true).raise 210 k (sideIx x) f

/-- The row triggers (R383): a level crossing, a waiting trigger that has fallen due, or TriggerTime, once for each ARM. -/
def rowTriggers (s : State) (x : Side) (k : Nat) (r : Row) : Bool :=
  let v := s.engine x k
  let g := nth (0, 0) (planSignals s k) (planSignal s k)
  let fmt := signalFormat s g
  let level := match v.prev with
    | some p => planKind s k == 1
        && crosses fmt (levelIn fmt (s.num (planIx k) 7)) (planEdge s k) p (nth 0 r.vals (planSignal s k))
    | none => false
  level || v.trigs.any (fun t => decide (t ≤ r.stamp))

/-- TriggerTime is reached by a row of a plan of Kind TIME that has not yet triggered since ARM. -/
def timeTriggers (s : State) (x : Side) (k : Nat) (r : Row) : Bool :=
  planKind s k == 3 && !(s.engine x k).timeDone && decide (ofT96 (s.num (planIx k) 8) ≤ r.stamp)

/-- The trigger is accepted at this row (R385): the segment keeps the last PreRows rows before it; EV_208. -/
def acceptTrigger (x : Side) (k id : Nat) (r : Row) (s : State) : State :=
  let v := s.engine x k
  let pre := (v.rows.take (planPre s k)).reverse
  let first := v.total - pre.length
  let f0 := (v.changes.filter (fun c => decide (c.1 ≤ first))).foldl (fun _ c => c.2.1) (planDecim s k)
  let ch := (v.changes.filter (fun c => decide (first < c.1))).map (fun c => (c.1 - first, c.2.1, c.2.2))
  let flags := 16 * (planStamps s k).toNat + 8 * (!v.changes.isEmpty).toNat + 2 * (decide (pre.length < planPre s k)).toNat
  let s := s.setSegment x id
    { Segment.init with plan := k, seq := v.seqNo, rows := pre ++ [r], preCount := pre.length, flags := flags, factorStart := f0, changes := ch }
  let s := s.setEngine x k { v with past := true, start := first, rows := [] }
  if s.reports x then s.raise 208 k id else s

/-- The segment takes the row of an event, before or from its trigger row on; a trigger past it is missed (R384, R385). -/
def takeRow (x : Side) (k id : Nat) (r : Row) (s : State) : State :=
  let v := s.engine x k
  let due := rowTriggers s x k r
  let time := timeTriggers s x k r
  let late := v.trigs.any (fun t => decide (t ≤ r.stamp)) || time
  let s :=
    if v.past then
      let g := (s.segment x id).getD Segment.init
      let s := s.setSegment x id { g with rows := g.rows ++ [r] }
      if late && s.reports x then missTrigger k s else s
    else if due || time then acceptTrigger x k id r s
    else s.setEngine x k { v with rows := (r :: v.rows).take (planPre s k) }
  let v := s.engine x k
  s.setEngine x k { v with
    total := v.total + 1, since := 0, sinceHalve := v.sinceHalve + 1, prev := some (nth 0 r.vals (planSignal s k))
    trigs := v.trigs.filter (fun t => decide (r.stamp < t)), timeDone := v.timeDone || time }

/-- The write buffer of the plan after a row (R387, R388): above 48 KiB the factor doubles, full at ×64 the segment ends. A segment not
yet triggered has no trigger row to end with: it is discarded (log entry 17). -/
def writeBacklog (x : Side) (k id fill : Nat) (s : State) : State :=
  let v := s.engine x k
  if 65536 ≤ fill && v.factor == 6 then
    let s := s.setBitO 0x8000 2 1 true
    let s := if v.past then completeSegment x k id true s else armNext x k 0 s
    s.raise 211 k (sideIx x)
  else
    let s := s.setEngine x k { v with above := decide (49152 < fill) }
    if 49152 < fill && (!v.above || decide (64 ≤ v.sinceHalve)) then doubleFactor x k 1 s else s

/-- An event is recorded (R379, R381). -/
def recordRow (x : Side) (k id e fill : Nat) (s : State) : State :=
  let sig := (planSignals s k).map (signalAt s x e)
  let s := countEvent (sideIx x) 0x12 1 0 s
  let s := takeRow x k id ⟨e, sig.map (fun p => p.1), sig.map (fun p => p.2)⟩ s
  match s.segment x id with
  | some g =>
    if (s.engine x k).past && decide (planLength s k - planPre s k ≤ g.rows.length - g.preCount) then completeSegment x k id false s
    else writeBacklog x k id fill s
  | none => writeBacklog x k id fill s

/-- An ordered doubling acts from the first event at or after its application time (R387). -/
def orderedDoubling (x : Side) (k e : Nat) (s : State) : State :=
  let v := s.engine x k
  match v.halveAt with
  | some h =>
    if h ≤ e then
      let s := s.setEngine x k { v with halveAt := none }
      if v.seg.isSome then doubleFactor x k 2 s else s
    else s
  | none => s

/-- An event of the plan's timebase on a side: DISARM and ARM act, and every F-th event is recorded (R379, R382). -/
def captureEvent (x : Side) (k : Nat) (ev : Nat × Nat) (fill : Nat) (s : State) : State :=
  let e := ev.1
  let v := { s.engine x k with lastEv := some ev }
  let s :=
    if v.stopping && !v.past then missWaiting x k (s.setEngine x k { v with seg := none, stopping := false, rows := [] })
    else s.setEngine x k v
  let v := s.engine x k
  let arms := v.armAt.any (fun a => decide (a ≤ e))
  let s :=
    if !arms then s
    else if v.seg.isSome then s.setEngine x k { v with armAt := none }
    else armNext x k (2 ^ planDecim s k - 1) (s.setEngine x k { v with timeDone := false })
  let s := orderedDoubling x k e s
  let v := s.engine x k
  match v.seg with
  | none => s
  | some id => if v.since + 1 < 2 ^ v.factor then s.setEngine x k { v with since := v.since + 1 } else recordRow x k id e fill s

/-- CAPTURE_ROW (R379): an event of plan k's timebase in the sill of a side; `fill` is the bytes its write buffer then holds. -/
def execCaptureRow (t : Nat) (side : Side) (k stamp fill : Nat) (s : State) : Host.Outcome State Fault Refusal :=
  run (.captureRow t side k stamp fill) (fun s =>
    match timebaseEvent s side k stamp with
    | some e => if s.feeds side && planOn s k then captureEvent side k e fill s else s
    | none => s) s

/-! ### Streaming (R387, R390) -/

/-- The side that segments are read and streamed from (R389): ReadSide, while in service. -/
def readSide (s : State) : Side :=
  let v := s.num 0x8000 4
  if v = 1 && s.inService .A then .A else if v = 2 && s.inService .B then .B else s.reporter

/-- The triggered segments of a plan on a side from a Sequence on. -/
def triggeredFrom (s : State) (x : Side) (k seq : Nat) : List (Nat × Segment) :=
  (planIds s k).filterMap (fun i => match s.segment x i with
    | some v => if seq ≤ v.seq then some (i, v) else none
    | none => none)

/-- The bytes of a plan's triggered rows not yet streamed (R387). -/
def streamBacklog (s : State) (k : Nat) : Nat :=
  let st := s.stream k
  (triggeredFrom s (readSide s) k st.seq).foldl (fun a e =>
    let n := e.2.rows.length * segRowBytes e.2
    let h := 128 + 16 * (planSignals s k).length
    a + (n - (if e.2.seq = st.seq then st.off - h else 0))) 0

/-- STREAM_BACKLOG_HALVING (R387): the ridge orders both sills to double. -/
def execStreamBacklogHalving (t k : Nat) (s : State) : Host.Outcome State Fault Refusal :=
  run (.streamBacklogHalving t k) (fun s =>
    let overran := decide (s.num (planIx k) 0xA * 1024 < streamBacklog s k)
    let v := s.engine (readSide s) k
    let st := s.stream k
    let s := s.setStream k { st with above := overran }
    if overran && streamsTo s k && v.seg.isSome && decide (v.factor < 6) && v.halveAt.isNone
        && (v.changes.isEmpty || !st.above || decide (64 ≤ v.sinceHalve)) then
      let one := fun (x : Side) (s : State) =>
        if s.feeds x then s.setEngine x k { s.engine x k with halveAt := some s.appTime } else s
      one .B (one .A s)
    else s) s

/-- The bytes of a segment's stream from an offset on: the header, then the rows (R390, R449). -/
def streamData (s : State) (x : Side) (id off n : Nat) (v : Segment) : List Nat :=
  slice (segHeader s x id v ++ rowsData v 0 v.rows.length) off n

/-- The stream goes on with the segment on this side: the same Sequence, with the same factors overran the rows sent (R390). -/
def sameFactors (sent : Nat) (st : Stream) (v : Segment) : Bool :=
  let upTo := fun (l : List (Nat × Nat × Nat)) => l.filter (fun c => decide (c.1 < sent))
  v.seq == st.seq && v.factorStart == st.factorStart && upTo v.changes == upTo st.changes

/-- The next STREAM message of a plan (R390, R449). A stream that cannot go on marks its segment as cut. -/
def sendStream (k : Nat) (s : State) : State :=
  let st := s.stream k
  let x := readSide s
  let l := triggeredFrom s x k st.seq
  let least := l.foldl (fun b e => match b with
    | some (w : Nat × Segment) => if e.2.seq < w.2.seq then some e else b
    | none => some e) none
  let message := fun (flags seq off : Nat) (data : List Nat) (s : State) =>
    s.sendSession 9 0xA1 st.owner 0 ([k, flags] ++ beBytes 4 seq ++ beBytes 4 off ++ data)
  let cut := (message 0x40 st.seq st.off [] s).setStream k { st with seq := st.seq + 1, off := 0 }
  match least with
  | none => if st.off = 0 then s else cut
  | some (id, v) =>
    let h := 128 + 16 * (planSignals s k).length
    let sent := (st.off - h) / segRowBytes v
    if st.off ≠ 0 && (v.seq ≠ st.seq || (st.side ≠ sideIx x && !sameFactors sent st v)) then cut
    else
      let data := streamData s x id st.off 1352 v
      let off := st.off + data.length
      let done := v.complete && off == h + v.rows.length * segRowBytes v
      let next : Stream := { st with
        seq := if done then v.seq + 1 else v.seq, off := if done then 0 else off, side := sideIx x, factorStart := v.factorStart
        changes := v.changes, nextAt := s.now + data.length * 10 ^ 12 / max 1 (s.num (planIx k) 9) }
      if data.isEmpty then s.setStream k { next with nextAt := st.nextAt }
      else (message (if st.off = 0 then 0x80 else 0) v.seq st.off data s).setStream k next

/-- CAPTURE_STREAM_SEND (R390): within StreamRateMax. -/
def execCaptureStreamSend (t k : Nat) (s : State) : Host.Outcome State Fault Refusal :=
  run (.captureStreamSend t k) (fun s =>
    if hostOk s && streamsTo s k && decide ((s.stream k).nextAt ≤ s.now) then sendStream k s else s) s

/-! ### Reading (R386, R389, Table 14.7) -/

/-- A read holds a segment for 10 s (R386). -/
def holdSegment (id : Nat) (s : State) : State :=
  let one := fun (x : Side) (s : State) => match s.segment x id with
    | some v => s.setSegment x id { v with heldUntil := s.now + secFs 10 }
    | none => s
  one .B (one .A s)

/-- SEGMENT_HOLD_EXPIRY (R386). -/
def execSegmentHoldExpiry (t : Nat) (side : Side) (seg : Nat) (s : State) : Host.Outcome State Fault Refusal :=
  run (.segmentHoldExpiry t side seg) (fun s =>
    match s.segment side seg with
    | some v => if v.heldUntil ≤ s.now then s.setSegment side seg { v with heldUntil := 0 } else s
    | none => s) s

/-- A write of SegmentSelect (R389): bits [15:12] are reserved. -/
def selectSegment (r value : Nat) (s : State) : State :=
  s.setReader r (((s.reader r).setVal 0x8020 1 (value % 4096)).setVal 0x8020 3 0)

/-- SEGMENT_SELECT (R389). -/
def execSegmentSelect (t reader value : Nat) (s : State) : Host.Outcome State Fault Refusal :=
  run (.segmentSelect t reader value) (fun s => if hostOk s then selectSegment reader value s else s) s

/-- The segment a reader has selected, where it is complete on the side read. -/
def selected (s : State) (r : Nat) : Option (Nat × Segment) :=
  let id := (s.reader r).val 0x8020 1
  match s.segment (readSide s) id with
  | some v => if v.complete then some (id, v) else none
  | none => none

/-- A read of SegmentHeader (R389). -/
def readHeader (r : Nat) (s : State) : List Nat × State :=
  match selected s r with
  | some (id, v) => (v.head, holdSegment id s)
  | none => ([], s)

/-- A read of SegmentRows (R389): as many whole rows as fit in 1024 bytes from ReadOffset, which advances past them. -/
def readRows (r : Nat) (s : State) : List Nat × State :=
  match selected s r with
  | some (id, v) =>
    let rd := s.reader r
    let off := rd.val 0x8020 3
    let n := min (1024 / segRowBytes v) (v.rows.length - off)
    (rowsData v off n, (holdSegment id s).setReader r (rd.setVal 0x8020 3 (off + n)))
  | none => ([], s)

/-- SegmentDirectory (Table 14.7): the completed segments of the side read. -/
def segmentDirectory (s : State) : List Nat :=
  let x := readSide s
  (s.capture.segs.filter (fun e => e.1 / 4096 == sideIx x && e.2.complete)).flatMap (fun e =>
    beBytes 2 (e.1 % 4096) ++ [e.2.plan, e.2.flags + sideIx x] ++ beBytes 4 e.2.seq)

/-- SEGMENT_ROWS_READ (R389). -/
def execSegmentRowsRead (t reader : Nat) (s : State) : Host.Outcome State Fault Refusal :=
  run (.segmentRowsRead t reader) (fun s =>
    if hostOk s then
      let (b, s) := readRows reader s
      s.emit 17 reader b
    else s) s

end Sys2Proof.Machine
end

