-- ==== Sys2Proof/Machine/Clock.lean ====
section
/-!
DEFINITION. References, PLLs, clock outputs and the trusses' clock source (chapter 13).
-/
namespace Sys2Proof.Machine

/-! ### References (R358 to R361) -/

/-- A reference has edges, or none. -/
def setRefDead (alt dead : Bool) (s : State) : State :=
  { s with clock := { s.clock with refDead := setBit s.clock.refDead alt.toNat dead } }

/-- A reference becomes faulty (R359, R361): EV_202, and a switch or the loss of every usable reference. -/
def refBecomesFaulty (alt : Bool) (s : State) : State :=
  if refFaulty s alt then s
  else
    let s := (s.setBitO 0x7040 2 (if alt then 13 else 14) true).setBitO 0x7040 2 (if alt then 0 else 1) true
    let s := ((s.setNum 0x7040 3 0).setBitO 0x7040 2 12 false).raise 202 alt.toNat
    if altInUse s == alt then
      if s.bit 0x7040 1 15 && !refFaulty s (!alt) then switchRef (!alt) s else ridgeFault s
    else s

/-- REF_FAULT (R359): a reference becomes faulty, for want of edges or by its frequency with edges all the while, or its fault ends, with the
first edge that a switch to it may have waited for. -/
def execRefFault (t : Nat) (alt on edges : Bool) (s : State) : Host.Outcome State Fault Refusal :=
  run (.refFault t alt on edges) (fun s =>
    if on then refBecomesFaulty alt (setRefDead alt (!edges) s)
    else dueRefs s.ridge (setRefDead alt false (s.setBitO 0x7040 2 (if alt then 13 else 14) false))) s

/-- RefSwitchCommand (R359): refused, or stamped with its application time. -/
def refSwitch (value : Nat) (s : State) : State :=
  if value = 1 || value = 2 then
    let alt := value == 2
    if refFaulty s alt then s.setBitO 0x7040 2 3 true
    else { s with clock := { s.clock with refCmds := s.clock.refCmds ++ [(alt, s.appTime)] } }
  else s

/-- REF_SWITCH_COMMAND (R359). -/
def execRefSwitchCommand (t value : Nat) (s : State) : Host.Outcome State Fault Refusal :=
  run (.refSwitchCommand t value) (fun s => if hostOk s then refSwitch value s else s) s

/-- REF_DISAGREE (R361): the difference measured over 1 s, in ppb; more than 1000 ppm sets Disagree. -/
def execRefDisagree (t diff : Nat) (s : State) : Host.Outcome State Fault Refusal :=
  run (.refDisagree t diff) (fun s =>
    if refFaulty s false || refFaulty s true then s
    else
      let dis := decide (1000000 < (sx 32 diff).natAbs)
      let was := s.bit 0x7040 2 12
      let s := (s.setNum 0x7040 3 diff).setBitO 0x7040 2 12 dis
      if dis && !was then s.raise 202 2 else s) s

/-! ### PLLs (R362 to R367) -/

def State.pll (s : State) (p : Nat) : Pll := Store.get Pll.init p s.plls
def State.setPll (s : State) (p : Nat) (q : Pll) : State := { s with plls := Store.put Pll.init p q s.plls }

/-- The choice of a band table (R363): among the bands with margin the one whose middle lies nearest 4000 MHz, the lower on a tie. -/
def bandChoice (table : List Nat) (margin : Nat) : Option Nat :=
  let lo := fun b => field table (4 * b) 2
  let hi := fun b => field table (4 * b + 2) 2
  let dist := fun b => ((8000 : Int) - (lo b + hi b : Nat)).natAbs
  let ok := (List.range 32).filter (fun b => table.length == 128 && decide (lo b + margin ≤ 4000) && decide (4000 + margin ≤ hi b))
  ok.foldl (fun m b => match m with
    | none => some b
    | some a => if dist b < dist a then some b else some a) none

/-- A PLL starts (R364): the stored band first, or the table's choice where BandEdge was set during its last locked run. -/
def startPll (p : Nat) (s : State) : State :=
  let i := 0x7100 + p
  let stored := if s.num i 4 = 0xFF then none else some (s.num i 4)
  let table := s.blob i 1
  let choice := bandChoice table (s.num i 2)
  let order := if (s.pll p).lastEdge then [choice, stored] else [stored, choice]
  let bands := (order.filterMap id).eraseDups
  let s := ((s.setBitO i 3 14 true).incSat i 6).setPll p { s.pll p with startedAt := s.now, stepAt := s.now, phase := 1, bands := bands }
  if table.isEmpty then s else s.setBlob i 7 table

/-- Every output that was running waits for the lock of PLL_RIDGE (R367), but for one whose stop has fallen due. -/
def stopOutputs (s : State) : State :=
  forN 8 (fun k s =>
    if s.bit (0x7200 + k) 2 15 then
      let c := s.clock
      let s := { s with clock := { c with
        clkArmed := setBit c.clkArmed k (!c.clkStopping.testBit k), clkStopping := setBit c.clkStopping k false } }
      (s.setBitO (0x7200 + k) 2 15 false).raise 206 k 0
    else s) s

/-- Lock is declared in band b (R364), which is the band in use; that of PLL_RIDGE resets every output divider (R368). -/
def declareLock (p b : Nat) (s : State) : State :=
  let i := 0x7100 + p
  let q := s.pll p
  let s := ((s.setBitO i 3 15 true).setNum i 4 b).setNum i 5 ((s.now - q.startedAt) / nsFs 1)
  let s := if p = 0 then { s with clock := { s.clock with divAt := s.now } } else s
  (s.setFld i 3 12 8 b).setPll p { q with phase := 0, lastEdge := false }

/-- The side of a side PLL. -/
def pllSide (p : Nat) : Side := sideOf ((p + 1) % 2)

/-- The rails of a side were present (R452, R491). -/
def railsOf (s : State) : Side → Bool
  | .A => s.boot.railsA
  | .B => s.boot.railsB

/-- A PLL is to start: PLL_SILL from WAIT_IMAGE on and the others in bring-up (Tables 17.1, 17.7), on a side with its rails (R491); in READY
those of a side in re-initialisation (R367), and PLL_TRUSS where its truss leaves the bridge (R373). PLL_RIDGE restarts by itself. -/
def startAsked (s : State) (p : Nat) : Bool :=
  let x := pllSide p
  (p == 0 || railsOf s x) &&
    (if s.ready then decide (1 ≤ p) && (s.sideState x == 5 || (decide (p ≤ 2) && s.powered x && !wantBridge s))
    else if 3 ≤ p then decide (2 ≤ s.stage) else s.stage == 7)

/-- PLL_START (R364). -/
def execPllStart (t p : Nat) (s : State) : Host.Outcome State Fault Refusal :=
  run (.pllStart t p) (fun s =>
    if s.bit (0x7100 + p) 3 14 || !startAsked s p then s
    else
      -- within a re-initialisation the bays of the profile are powered as the PLLs restart (Table 09.3)
      let s := if decide (1 ≤ p) && s.sideState (pllSide p) == 5 then powerBays (pllSide p) s else s
      startPll p s) s

/-- The phase error has stayed within its bounds for 128 reference periods since the loop was closed (R364). -/
def lockTime (s : State) (p : Nat) : Bool := decide ((s.pll p).stepAt + 128 * tickFs ≤ s.now)

/-- A PLL that was started at most `us` microseconds ago (Table 13.2). -/
def withinStart (s : State) (p us : Nat) : Bool := decide (s.now ≤ (s.pll p).startedAt + usFs us)

/-- PLL_LOCK (R364): in the first band within 20 µs of the start, or in the other within 40 µs, which sets SlowRestartSeen and raises
EV_204. -/
def execPllLock (t p : Nat) (s : State) : Host.Outcome State Fault Refusal :=
  run (.pllLock t p) (fun s =>
    let q := s.pll p
    if !s.bit (0x7100 + p) 3 14 || pllLocked s p || !lockTime s p then s
    else if q.phase = 1 && withinStart s p 20 then
      match q.bands with
      | b :: _ => declareLock p b s
      | [] => s
    else if q.phase = 2 && withinStart s p 40 then
      match q.bands with
      | _ :: b :: _ => ((declareLock p b s).setBitO (0x7100 + p) 3 2 true).raise 204 p
      | _ => s
    else s) s

/-- PLL_RETRY_BAND (R364): 20 µs after the start, the other of stored band and table's choice. -/
def execPllRetryBand (t p : Nat) (s : State) : Host.Outcome State Fault Refusal :=
  run (.pllRetryBand t p) (fun s =>
    let q := s.pll p
    if q.phase = 1 && !pllLocked s p && decide (q.startedAt + usFs 20 ≤ s.now) then
      match q.bands with
      | _ :: _ :: _ => s.setPll p { q with phase := 2, stepAt := s.now }
      | _ => s
    else s) s

/-- A PLL is to sweep (Table 13.2): it is powered and not locked, and either no band is known or 40 µs have passed since its start. -/
def sweepAsked (s : State) (p : Nat) : Bool :=
  let q := s.pll p
  s.bit (0x7100 + p) 3 14 && !pllLocked s p && (q.phase == 1 || q.phase == 2)
    && (q.bands.isEmpty || decide (q.startedAt + usFs 40 ≤ s.now))

/-- PLL_SWEEP (R365): within a re-initialisation there is no sweep, and the attempt ends (R367). -/
def execPllSweep (t p : Nat) (s : State) : Host.Outcome State Fault Refusal :=
  run (.pllSweep t p) (fun s =>
    if !sweepAsked s p then s
    else if decide (1 ≤ p) && s.sideState (pllSide p) == 5 then failAttempt (pllSide p) false s
    else
      ((s.setPll p { s.pll p with phase := 3, stepAt := s.now }).setBitO (0x7100 + p) 3 3 true).raise 205 p) s

/-- A swept table without a choice (R365): EV_203; PLL_RIDGE ends in a ridge fault, in bring-up in HALTED with Cause 4 (R468); a side
PLL in a side fault, but for a PLL_TRUSS whose truss stays on its bridge (R373). -/
def sweepFailed (p : Nat) (s : State) : State :=
  let s := s.raise 203 p
  if p = 0 then (if s.ready then ridgeFault s else haltDevice 4 s)
  else if s.ready && decide (p ≤ 2) && s.bit 0x7050 1 (16 - p) then s
  else sideFault (pllSide p) 6 s

/-- PLL_SWEEP_DONE (R363, R365): each of the 32 bands has been counted for 25 µs at both extremes. -/
def execPllSweepDone (t p : Nat) (table : List Nat) (s : State) : Host.Outcome State Fault Refusal :=
  run (.pllSweepDone t p table) (fun s =>
    if (s.pll p).phase ≠ 3 || decide (s.now < (s.pll p).stepAt + usFs 1600) then s
    else
      let s := (s.setBlob (0x7100 + p) 7 table).setPll p { s.pll p with phase := 4 }
      match bandChoice table (s.num (0x7100 + p) 2) with
      | some b => declareLock p b s
      | none => sweepFailed p s) s

/-- PLL_LOCK_LOST (R367): a side fault of a side PLL, with every pair changed at once where the clock has stopped (R29, R270), be it before
the order or while groups still wait for their vertex; PLL_RIDGE stops its outputs and restarts at once. -/
def execPllLockLost (t p : Nat) (stopped : Bool) (s : State) : Host.Outcome State Fault Refusal :=
  run (.pllLockLost t p stopped) (fun s =>
    let found := fun (s : State) => if stopped && decide (3 ≤ p) then clockFound (pllSide p) s else s
    if !pllLocked s p then found s
    else
      let i := 0x7100 + p
      let s := (((s.setBitO i 3 15 false).setBitO i 3 13 false).setBitO i 3 1 true).raise 203 p
      if p = 0 then startPll 0 (stopOutputs s)
      else
        let x := pllSide p
        let s := s.setBitO (0x6030 + sideIx x) 1 20 true
        sideFault x 6 (found s)) s

/-! ### Clock outputs (R368 to R370) -/

/-- StartPending and StopPending of an output, live. -/
def clkStartPending (s : State) (k : Nat) : Bool :=
  s.clock.clkArmed.testBit k || (!clkRunning s k && s.clock.clkCmds.any (fun c => c.1 == k && c.2.1))
def clkStopPending (s : State) (k : Nat) : Bool :=
  s.clock.clkStopping.testBit k || (clkRunning s k && s.clock.clkCmds.any (fun c => c.1 == k && !c.2.1))

/-- A stop names an output that clocks an enabled group while the converter is not stopped (R370). -/
def clkStopRefused (s : State) (stops : Nat) : Bool :=
  !s.stopped && (List.range 8).any (fun g =>
    s.bit 0x2001 (g + 1) 31 && s.fld 0x2001 (g + 1) 30 29 == 0 && stops.testBit (s.fld 0x2001 (g + 1) 22 20))

/-- A write of ClkOutCommand (R370): refused whole, or its starts and stops wait for their application time. -/
def clkCommand (word : Nat) (s : State) : State :=
  let starts := bits word 15 8
  let stops := bits word 7 0
  if starts &&& stops ≠ 0 || clkStopRefused s stops then (s.setBitO 0x7060 2 0 true).raise 207 word
  else
    let add := (maskList 8 starts).map (fun k => (k, true, s.appTime)) ++ (maskList 8 stops).map (fun k => (k, false, s.appTime))
    { s with clock := { s.clock with clkCmds := s.clock.clkCmds ++ add } }

/-- CLKOUT_START (R370). -/
def execClkoutStart (t word : Nat) (s : State) : Host.Outcome State Fault Refusal :=
  run (.clkoutStart t word) (fun s => if hostOk s then clkCommand word s else s) s

/-- CLKOUT_STOP (R370). -/
def execClkoutStop (t word : Nat) (s : State) : Host.Outcome State Fault Refusal :=
  run (.clkoutStop t word) (fun s => if hostOk s then clkCommand word s else s) s

/-- The period of an output's divider, Div cycles of 4000 MHz, and where in it the divider stands: high in its first half, and rising at the
reset of all dividers (R368). -/
def divPeriod (s : State) (k : Nat) : Nat := 250000 * s.fld (0x7200 + k) 1 11 0
def divPhase (s : State) (k : Nat) : Nat := (s.now - s.clock.divAt) % max 1 (divPeriod s k)

/-- The divider falls at this instant, or is low (R369). -/
def divFalls (s : State) (k : Nat) : Bool := 2 * divPhase s k == divPeriod s k
def divLow (s : State) (k : Nat) : Bool := decide (divPeriod s k ≤ 2 * divPhase s k)

/-- The gate of an output opens as its divider falls (R369): its start has fallen due, PLL_RIDGE is locked and READY is reached (R454). -/
def openGate (k : Nat) (s : State) : State :=
  if s.clock.clkArmed.testBit k && pllLocked s 0 && s.ready && divFalls s k then
    let s := { s with clock := { s.clock with clkArmed := setBit s.clock.clkArmed k false } }
    (s.setBitO (0x7200 + k) 2 15 true).raise 206 k 1
  else s

/-- The gate of an output closes while its divider is low (R369). -/
def closeGate (k : Nat) (s : State) : State :=
  if s.clock.clkStopping.testBit k && divLow s k then
    let s := { s with clock := { s.clock with clkStopping := setBit s.clock.clkStopping k false } }
    if clkRunning s k then (s.setBitO (0x7200 + k) 2 15 false).raise 206 k 0 else s
  else s

/-- CLKOUT_GATE_OPEN (R369). -/
def execClkoutGateOpen (t k : Nat) (s : State) : Host.Outcome State Fault Refusal := run (.clkoutGateOpen t k) (openGate k) s

/-- CLKOUT_GATE_CLOSE (R369). -/
def execClkoutGateClose (t k : Nat) (s : State) : Host.Outcome State Fault Refusal := run (.clkoutGateClose t k) (closeGate k) s

/-! ### Truss clocks (R372, R373) -/

/-- The instant at which a lane of a truss is next woken (R118), none while no cycle is to come. -/
def nextWake (s : State) (x : Side) : Option Nat :=
  let g := s.graph x
  let rest := (s.activeSlot.toList.flatMap (fun k => if g.started then dueEntries s x k g.index else [])).filter (fun p => !g.done.contains p.1)
  let here := rest.map (fun p => g.tickAt + seStart p.2 * clockFs - 16 * clockFs)
  let next := match cycleToCome s x with
    | some (k, idx, t, _) => (dueEntries s x k idx).map (fun p =>
        if seStart p.2 < 68 && rateOf (slotGraph s k) (seKey p.2) == 0 then t - nsFs 40 else t + seStart p.2 * clockFs - 16 * clockFs)
    | none => []
  (here ++ next).min?

/-- A gap of at least 100 ns in which no lane of a truss is awake, from the sleep of the last one to the next wake, is open for the 20 ns of a
change of source (R373). -/
def inGap (s : State) (x : Side) : Bool :=
  (s.graph x).awake.isEmpty &&
    (nextWake s x).all (fun w => decide ((s.graph x).sleptAt + nsFs 100 ≤ w) && decide (s.now + nsFs 20 ≤ w))

/-- A truss changes its clock source in such a gap (R373): onto the bridge with PLL_TRUSS powered off, or off it once PLL_TRUSS is locked. -/
def switchTruss (x : Side) (s : State) : State :=
  if !changeWanted s x || !inGap s x then s
  else if wantBridge s then setDeferred x false (pllOff (1 + sideIx x) (setBridged x true s))
  else setDeferred x false (setBridged x false s)

/-- TRUSS_CLOCK_SWITCH (R373). -/
def execTrussClockSwitch (t : Nat) (side : Side) (s : State) : Host.Outcome State Fault Refusal :=
  run (.trussClockSwitch t side) (switchTruss side) s

/-- SWITCH_DEFERRED (R373): a change that R372 asks for has found no gap for 10 ms. -/
def execSwitchDeferred (t : Nat) (side : Side) (s : State) : Host.Outcome State Fault Refusal :=
  run (.switchDeferred t side) (fun s =>
    if changeWanted s side && (s.waitsSince side).any (fun a => decide (a + msFs 10 ≤ s.now)) then setDeferred side true s else s) s

end Sys2Proof.Machine
end

