-- ==== Sys2Proof/Machine/Plate.lean ====
section
/-!
DEFINITION. The modulation and plate commands (chapter 07).
-/
namespace Sys2Proof.Machine

/-! ### Counters and edges -/

/-- CARRIER_VERTEX (R210 to R220, R224, R227, R229). -/
def execCarrierVertex (t : Nat) (side : Side) (g : Nat) (s : State) : Host.Outcome State Fault Refusal :=
  run (.carrierVertex t side g) (fun s =>
    if !s.feeds side || s.plate.halted || !s.carrierRuns side g then s
    else if s.follower g then followerVertex side g s
    else masterVertex side g s) s

/-- GATE_COMMAND_EDGE (R215, R216). -/
def execGateCommandEdge (t : Nat) (side : Side) (p : Nat) (s : State) : Host.Outcome State Fault Refusal :=
  run (.gateCommandEdge t side p) (fun s =>
    if !s.feeds side || s.plate.halted then s
    else match ((s.sill side).pair p).edges with
      | (v, c) :: rest =>
        if s.now < v then s
        else pairFollow p (s.modPair side p (fun q => { setC (deadH s p) (deadL s p) v c q with edges := rest }))
      | [] => s) s

/-- A dead time of a pair that has ended (R216). -/
def endDead (now : Nat) (q : SillPair) : SillPair :=
  let due := fun (o : Option Nat) => match o with
    | some v => decide (v ≤ now)
    | none => false
  let q := if due q.dtH then { q with h := true, dtH := none } else q
  if due q.dtL then { q with l := true, dtL := none } else q

/-- DEAD_TIME_EXPIRY (R216, R228): in the sill, and at the plate where it delayed a rise. -/
def execDeadTimeExpiry (t : Nat) (side : Side) (p : Nat) (s : State) : Host.Outcome State Fault Refusal :=
  run (.deadTimeExpiry t side p) (fun s =>
    if !s.feeds side || s.plate.halted then s else pairFollow p (s.modPair side p (endDead s.now))) s

/-- PLATE_MIN_ON_EXPIRY (R228): a held output falls to follow its command. -/
def execPlateMinOnExpiry (t p : Nat) (s : State) : Host.Outcome State Fault Refusal :=
  run (.plateMinOnExpiry t p) (fun s => if s.plate.halted then s else pairFollow p s) s

/-! ### Starting and stopping (R213, R214, R504) -/

/-- EV_149 and CommandRejected. -/
def rejectCarrier (way : Nat) (s : State) : State := (s.setBitO 0x5100 4 0 true).raise 149 way

/-- A write of CarrierStart (R213): it is held for every group, and starts those that are stopped with Run set when it falls due (R504). -/
def carrierStartWrite (at96 : Nat) (s : State) : State :=
  let r := if at96 = 0 then s.appTime else ofT96 at96
  if at96 ≠ 0 && decide (r < s.appTime) then rejectCarrier 1 s
  else
    let pend := fun (c : Carrier) => { c with
      starts := c.starts.filter (fun p => decide (p.1 ≤ r)) ++ [(r, at96 != 0)] ++ c.startsAfter r }
    forN 8 (fun g s => (s.modCarrier .A g pend).modCarrier .B g pend) s

/-- CARRIER_START (R213). -/
def execCarrierStart (t at96 : Nat) (s : State) : Host.Outcome State Fault Refusal :=
  run (.carrierStart t at96) (fun s => if hostOk s then carrierStartWrite at96 s else s) s

/-- A start of a group has fallen due: the first sill clock at or after it has come (R213, R504). -/
def startDue (x : Side) (g : Nat) (s : State) : State :=
  let c := (s.sill x).carrier g
  match c.startAt with
  | some r =>
    if s.ridgeFine < r || c.running then s
    else if !runSet s g then s.modCarrier x g (fun c => { c with starts := c.startsAfter s.ridgeFine })
    else
      let m := (s.sill x).carrier (s.masterOf g)
      let joins := m.running || c.attached || !c.delay.isEmpty || (runSet s (s.masterOf g) && m.startAt == some r)
      let s := announceStart x r s
      if !s.follower g then startMaster x g s
      else if joins then s
      else s.modCarrier x g (fun c => { c with starts := c.startsAfter s.ridgeFine })
  | none => s

/-- CARRIER_GROUP_START (R213, R504): a master at its time, a follower at its first vertex Lag after its master's. -/
def execCarrierGroupStart (t : Nat) (side : Side) (g : Nat) (s : State) : Host.Outcome State Fault Refusal :=
  run (.carrierGroupStart t side g) (fun s =>
    if !s.feeds side || s.plate.halted || s.carrierRuns side g then s
    else if s.follower g then followerStart side g (startDue side g s)
    else startDue side g s) s

/-- A write of CarrierStop (R214): a follower named with its master follows it to its halt, Lag later. -/
def carrierStopWrite (mask : Nat) (s : State) : State :=
  if s.stopped && !s.commissioning then
    let mark := fun (c : Carrier) => if c.running then { c with stopping := true } else c
    forMask 8 mask (fun g s =>
      if s.follower g && mask.testBit (s.masterOf g) then s else (s.modCarrier .A g mark).modCarrier .B g mark) s
  else rejectCarrier 2 s

/-- CARRIER_STOP (R214). -/
def execCarrierStop (t mask : Nat) (s : State) : Host.Outcome State Fault Refusal :=
  run (.carrierStop t mask) (fun s => if hostOk s then carrierStopWrite mask s else s) s

/-! ### Host writes to shadows (R222, R223) -/

/-- A host write stamped for both sills. -/
def stampWrite (kind key value : Nat) (s : State) : State :=
  { s with plate := { s.plate with waiting := s.plate.waiting ++ [⟨kind, key, value, s.appTime⟩] } }

/-- A write of UpdateCommit. -/
def updateCommitWrite (mask : Nat) (s : State) : State := if mask = 0 then s else stampWrite 1 0 mask s

/-- UPDATE_COMMIT (R222, R223). -/
def execUpdateCommit (t mask : Nat) (s : State) : Host.Outcome State Fault Refusal :=
  run (.updateCommit t mask) (fun s => if hostOk s then updateCommitWrite mask s else s) s

/-- A DRIVE entry names a compare word that the shadow word of a subindex holds (Table 07.8). -/
def drivenWord (s : State) (p sub : Nat) : Bool :=
  if sub = 5 then graphDrives s p 3 else graphDrives s p 0 || graphDrives s p (sub - 2)

/-- A write of ShadowUp (3), ShadowDown (4) or ShadowOff (5) of a pair (R222). -/
def shadowWriteOp (p sub value : Nat) (s : State) : State :=
  if drivenWord s p sub then (s.setBitO (0x5140 + s.pairUpdate p) 2 0 true).raise 147 p sub
  else stampWrite 0 (p * 256 + sub) (value % 2 ^ 22) s

/-- SHADOW_WRITE (R222). -/
def execShadowWrite (t p sub value : Nat) (s : State) : Host.Outcome State Fault Refusal :=
  run (.shadowWrite t p sub value) (fun s =>
    if hostOk s && decide (3 ≤ sub) && decide (sub ≤ 5) && (sub != 5 || decide (value < 2)) then shadowWriteOp p sub value s
    else s) s

/-- A stamped write acts in both sills. -/
def applyStamped (w : Stamped) (s : State) : State :=
  if w.kind = 0 then writeShadow .B (w.key / 256) (w.key % 256) w.value (writeShadow .A (w.key / 256) (w.key % 256) w.value s)
  else if w.kind = 1 then forMask 32 w.value commitBoth s
  else if s.follower w.key then s
  else writePeriod .B w.key w.value (writePeriod .A w.key w.value s)

/-- The stamped writes of the kinds given that are due at this sill clock act, in the order of their receipt (R222). -/
def applyWaiting (kinds : List Nat) (s : State) : State :=
  let due := fun (w : Stamped) => kinds.contains w.kind && decide (w.due ≤ s.ridgeFine)
  let l := s.plate.waiting.filter due
  let s := { s with plate := { s.plate with waiting := s.plate.waiting.filter (fun w => !due w) } }
  l.foldl (fun s w => applyStamped w s) s

/-- SHADOW_APPLY (R222): shadow writes and commits at their application time, a period too while no tick occurs. -/
def execShadowApply (t : Nat) (s : State) : Host.Outcome State Fault Refusal :=
  run (.shadowApply t) (fun s => applyWaiting (if ticksOccur s then [0, 1] else [0, 1, 4]) s) s

/-! ### Trips (R230, R231) -/

/-- An enabled FAULT_IN at its active level latches its trip (R230). -/
def latchFaultIn (n : Nat) (s : State) : State :=
  if s.bit 0x5310 1 n && s.plate.faultLevel.testBit n && !s.bit 0x5310 3 n then
    let s := holdGates (s.setBitO 0x5310 3 n true)
    s.raise 9 (s.num 0x5310 3)
  else s

/-- FAULT_IN_TRIP (R230): the input reaches its active level, or returns to its inactive one. -/
def execFaultInTrip (t n : Nat) (active : Bool) (s : State) : Host.Outcome State Fault Refusal :=
  run (.faultInTrip t n active) (fun s =>
    latchFaultIn n { s with plate := { s.plate with faultLevel := setBit s.plate.faultLevel n active } }) s

/-- A write of TripRelease (R231): bit 0 the FAULT_IN trips, bit 1 the chord trip; both named are released or refused together. -/
def tripRelease (w : Nat) (s : State) : State :=
  if w % 4 = 0 then s
  else
    let inputs := !w.testBit 0 || s.plate.faultLevel &&& s.num 0x5310 1 == 0
    let chord := !w.testBit 1 || !tripBeyond s
    if s.gfState = 6 && inputs && chord then
      let s := if w.testBit 0 then s.setNum 0x5310 3 0 else s
      let s := if w.testBit 1 then { s with meas := { s.meas with chordTrip := false } } else s
      s.raise 10 (w % 4)
    else s.setBitO 0x5300 4 1 true

/-- RELEASE_FAULT_IN (R231). -/
def execReleaseFaultIn (t : Nat) (s : State) : Host.Outcome State Fault Refusal :=
  run (.releaseFaultIn t) (fun s => if hostOk s then tripRelease 1 s else s) s

/-- RELEASE_CHORD_TRIP (R231). -/
def execReleaseChordTrip (t : Nat) (s : State) : Host.Outcome State Fault Refusal :=
  run (.releaseChordTrip t) (fun s => if hostOk s then tripRelease 2 s else s) s

/-! ### Disable masks, commissioning, override (R232 to R234) -/

/-- A write of DisableMask i (R232): each bit that changes is stamped. -/
def disableWrite (i value : Nat) (s : State) : State :=
  let old := s.num 0x5300 (i + 1)
  let s := s.setNum 0x5300 (i + 1) value
  let new := s.num 0x5300 (i + 1)
  forN (if i = 2 then 8 else 32) (fun b s =>
    if old.testBit b == new.testBit b then s else stampWrite 2 (32 * i + b) (new.testBit b).toNat s) s

/-- DISABLE_MASK_WRITE (R232). -/
def execDisableMaskWrite (t i value : Nat) (s : State) : Host.Outcome State Fault Refusal :=
  run (.disableMaskWrite t i value) (fun s =>
    if hostOk s && (i != 2 || decide (value < 256)) then disableWrite i value s else s) s

/-- A CommissionRequest of 1 (R233). -/
def enterCommission (s : State) : State :=
  if s.permission 6 && s.gfState == 0 && !s.tripped && !s.commissioning then (s.setBitO 0x5300 4 13 true).raise 13 1 else s

/-- COMMISSION_ENTER (R233). -/
def execCommissionEnter (t : Nat) (s : State) : Host.Outcome State Fault Refusal :=
  run (.commissionEnter t) (fun s => if hostOk s then enterCommission s else s) s

/-- COMMISSION_LEAVE (R233). -/
def execCommissionLeave (t : Nat) (s : State) : Host.Outcome State Fault Refusal :=
  run (.commissionLeave t) (fun s => if hostOk s then leaveCommission 1 s else s) s

/-- A map is empty, or 72 bytes that name every physical pair once (R234). -/
def mapOk (m : List Nat) : Bool :=
  m.isEmpty || (m.length == 72 && (List.range 72).all (fun n => (m.filter (fun b => b % 128 == n)).length == 1))

/-- A write of OverrideMap (R234). -/
def overrideWrite (m : List Nat) (s : State) : State :=
  if s.commissioning && mapOk m then
    { s.setBlob 0x5320 2 m with plate := { s.plate with pendingMaps := s.plate.pendingMaps ++ [(m, s.appTime, 0)] } }
  else s.setBitO 0x5300 4 0 true

/-- OVERRIDE_MAP_WRITE (R234). -/
def execOverrideMapWrite (t : Nat) (map : List Nat) (s : State) : Host.Outcome State Fault Refusal :=
  run (.overrideMapWrite t map) (fun s => if hostOk s then overrideWrite map s else s) s

/-! ### Debug halt (R235, R236) -/

/-- DEBUG_HALT (R235): only while DBG_EN is high. -/
def execDebugHalt (t : Nat) (en : Bool) (s : State) : Host.Outcome State Fault Refusal :=
  run (.debugHalt t en) (fun s =>
    if !en || s.plate.halted then s
    else { s with plate := { s.plate with halted := true, haltAt := s.now } }.raise 12 (s.permission 5).toNat) s

/-- The instants of a frozen sill move by the length of the halt (R235). -/
def shiftSill (d : Nat) (l : Sill) : Sill :=
  { l with
    carriers := l.carriers.map (fun e => (e.1, if e.2.running then
      { e.2 with at_ := e.2.at_ + d, delay := e.2.delay.map (fun v => (v.1 + d, v.2)) }
      else { e.2 with delay := e.2.delay.map (fun v => (v.1 + d, v.2)) }))
    pairs := l.pairs.map (fun e => (e.1, { e.2 with dtH := e.2.dtH.map (· + d), dtL := e.2.dtL.map (· + d)
                                                    edges := e.2.edges.map (fun v => (v.1 + d, v.2)) })) }

/-- The vertex that the last tick of a side led stands as much later (R235). -/
def shiftGraph (d : Nat) (x : Side) (s : State) : State := s.setGraph x { s.graph x with vertex := (s.graph x).vertex + d }

/-- Missing-heartbeat counts start again at 0 (R236). -/
def freshBeats (x : Side) (s : State) : State :=
  let r := s.sideRt x
  s.setSideRt x { r with p1 := { r.p1 with missing := 0 }, p2 := { r.p2 with missing := 0 } }

/-- DEBUG_RESUME (R235, R236). -/
def execDebugResume (t : Nat) (s : State) : Host.Outcome State Fault Refusal :=
  run (.debugResume t) (fun s =>
    if !s.plate.halted then s
    else
      let d := s.now - s.plate.haltAt
      let s := shiftGraph d .B (shiftGraph d .A (missTicks .B (missTicks .A s)))
      let s := { s with plate := { s.plate with a := shiftSill d s.plate.a, b := shiftSill d s.plate.b, halted := false,
                                                resumedAt := s.now, skipSig := 2 } }
      freshBeats .B (freshBeats .A s)) s

end Sys2Proof.Machine
end

