-- ==== Sys2Proof/Machine/Sides.lean ====
section
/-!
DEFINITION. The two sides (chapter 09): heartbeats, signatures, handover, re-initialisation, side commands, DOUT and self-test. Takeover,
double fault and the start of an attempt stand in Fail.lean.
-/
namespace Sys2Proof.Machine

/-! ### Heartbeats (R264 to R266) -/

/-- The record of heartbeats of a side on a path, 0 or 1. -/
def beat (s : State) (x : Side) (path : Nat) : Beat := if path = 0 then (s.sideRt x).p1 else (s.sideRt x).p2
def setBeat (x : Side) (path : Nat) (b : Beat) (s : State) : State :=
  s.setSideRt x (if path = 0 then { s.sideRt x with p1 := b } else { s.sideRt x with p2 := b })

/-- The cause of a side fault on heartbeats (R265): 1 both paths, 2 one path and Bad, 0 none. -/
def beatCause (s : State) (x : Side) : Nat :=
  let m1 := (beat s x 0).missing
  let m2 := (beat s x 1).missing
  if 4 ≤ m1 && 4 ≤ m2 then 1 else if (4 ≤ m1 || 4 ≤ m2) && (s.sideRt x).lastBad then 2 else 0

/-- The ridge judges a side on its missing heartbeats (R265, R266). -/
def judgeBeats (x : Side) (path : Nat) (s : State) : State :=
  if beatCause s x ≠ 0 then sideFault x (beatCause s x) s
  else if (beat s x path).missing = 4 then
    let y := otherSide x
    let s := setBeat x path { beat s x path with bad := true } s
    refreshBad y ((s.setBitO (0x6030 + sideIx y) 1 (18 - path) true).raise 39 (sideIx x) (path + 1))
  else s

/-- A heartbeat is missing (R264): counted, and judged while the side is in service. -/
def missBeat (x : Side) (path : Nat) (s : State) : State :=
  let b := beat s x path
  let s := (setBeat x path { b with missing := b.missing + 1 } s).incSat (0x6030 + sideIx x) (6 + path)
  judgeBeats x path s

/-- Heartbeats of a side are judged: it is in service and no debug halt is in force (R236, R267). -/
def beatsJudged (s : State) (x : Side) : Bool := s.ready && s.inService x && !s.plate.halted

/-- The instants at which heartbeats of a path fall due (R264): multiples of 500 ns of ridge time, on path 2 250 ns later. How many have passed
by ridge time `r`, and how long the last one lies back. -/
def beatPhase (path r : Nat) : Nat := r + rns 500 - path * rns 250
def beatSlot (path r : Nat) : Nat := beatPhase path r / rns 500
def beatLate (path r : Nat) : Nat := beatPhase path r % rns 500

/-- The due instant numbered n of a path is judged. -/
def judgedBeat (x : Side) (path n : Nat) (s : State) : State := setBeat x path { beat s x path with slot := n } s

/-- What a heartbeat received carries: its sequence number, and Bad of the sending side's HealthWord (R264, R283). -/
def noteBeat (x : Side) (path seq : Nat) (s : State) : State :=
  let s := setBeat x path { beat s x path with last := some seq } s
  s.setSideRt x { s.sideRt x with lastBad := sideBad s x }

/-- A heartbeat is received (R264): one out of sequence or with a wrong CRC is missing; a good one ends a path fault (R266), and where it
carries Bad the rule of R265 is judged on the other path. -/
def takeBeat (x : Side) (path seq : Nat) (crcOk : Bool) (s : State) : State :=
  let inSeq := match (beat s x path).last with
    | some v => seq == (v + 1) % 65536
    | none => true
  if !crcOk then missBeat x path s
  else
    let s := noteBeat x path seq s
    if inSeq then
      let s := refreshBad (otherSide x) (setBeat x path { beat s x path with missing := 0, bad := false } s)
      if beatCause s x ≠ 0 then sideFault x (beatCause s x) s else s
    else missBeat x path s

/-- HEARTBEAT (R264, R266): path 0 is path 1, over the truss-to-truss link. One that comes more than 125 ns after its due instant is missing,
counted once for that instant. In a debug halt heartbeats continue to be sent and are not
judged (R236). -/
def execHeartbeat (t : Nat) (side : Side) (path seq : Nat) (crcOk : Bool) (s : State) : Host.Outcome State Fault Refusal :=
  run (.heartbeat t side path seq crcOk) (fun s =>
    let n := beatSlot path s.ridgeFine
    let late := decide (rns 125 < beatLate path s.ridgeFine)
    let judged := decide (n ≤ (beat s side path).slot)
    let s := if s.ready && s.inService side then judgedBeat side path n s else s
    if beatsJudged s side && !late then takeBeat side path seq crcOk s
    else
      let s := if s.ready && s.inService side && crcOk then noteBeat side path seq s else s
      if beatsJudged s side && !judged then missBeat side path s else s) s

/-- HEARTBEAT_MISSING (R264 to R266): 125 ns after an instant at which a heartbeat was due and none has come. -/
def execHeartbeatMissing (t : Nat) (side : Side) (path : Nat) (s : State) : Host.Outcome State Fault Refusal :=
  run (.heartbeatMissing t side path) (fun s =>
    let n := beatSlot path (s.ridgeFine - rns 125)
    if beatsJudged s side && decide ((beat s side path).slot < n) then missBeat side path (judgedBeat side path n s) else s) s

/-! ### Signatures (R268, R269) -/

/-- The two sides compute the same graphs (Table 01.6). -/
def lockstep (s : State) : Bool := s.profile == 0 || s.profile == 1

/-- SIGNATURE_COMPARE (R268): the ridge compares the two copies of the fast or the state signature, where both were received. -/
def execSignatureCompare (t : Nat) (state received : Bool) (s : State) : Host.Outcome State Fault Refusal :=
  run (.signatureCompare t state received) (fun s =>
    if !s.ready || !lockstep s || !s.inService .A || !s.inService .B || s.plate.halted || s.plate.skipSig != 0 then s
    else
      let a := s.graph .A
      let b := s.graph .B
      let same := if state then a.stateSig == b.stateSig else a.fastSig == b.fastSig
      if received && same then s
      else
        let idx := ((s.control).map (fun x => (s.graph x).index)).getD 0
        { s with sides := { s.sides with mismatch := true } }.raise 40 state.toNat idx) s

/-- An unresolved mismatch (R269): the RESERVE side is set FAILED; the third within 60 s is a cause of SAFE_STOP. -/
def unresolved (s : State) : State :=
  let l := (s.sides.unresolved.filter (fun r => decide (s.now < r + secFs 60))) ++ [s.now]
  let s := { s with sides := { s.sides with unresolved := l } }
  let s := (s.incSat 0x6021 5).raise 41 l.length
  let s := match s.control with
    | some x => if s.sideState (otherSide x) = 2 then setFailed (otherSide x) s else s
    | none => s
  if 3 ≤ l.length then noteCause 12 s else s

/-- A lane that fails its test is marked faulty (R283), and its joist's mapping formed again at the side's next join (R122). -/
def laneFails (x : Side) (joist lane : Nat) (s : State) : State :=
  let i := sideIx x
  let used := laneUsed s i joist lane
  let s := foundFault (unitBytes 1 i joist lane) (s.setBitO (0x6030 + i) 1 23 true)
  if used then s.setSideRt x { s.sideRt x with newLanes := (s.sideRt x).newLanes ++ [(joist, lane)] }
  else refreshBad x (s.setSideRt x { s.sideRt x with spareFail := true })

/-- MISMATCH_RESOLUTION (R269): the lanes of each side, as joist · 16 + lane, that failed the test ordered; one in service is fatal. -/
def execMismatchResolution (t : Nat) (failsA failsB : List Nat) (s : State) : Host.Outcome State Fault Refusal :=
  run (.mismatchResolution t failsA failsB) (fun s =>
    if !s.sides.mismatch then s
    else
      let fatalA := failsA.any (fun l => laneUsed s 0 (l / 16) (l % 16))
      let fatalB := failsB.any (fun l => laneUsed s 1 (l / 16) (l % 16))
      let s := { s with sides := { s.sides with mismatch := false } }
      let s := failsA.foldl (fun s l => laneFails .A (l / 16) (l % 16) s) s
      let s := failsB.foldl (fun s l => laneFails .B (l / 16) (l % 16) s) s
      if fatalA && fatalB then
        match s.control with
        | some x => noSideLeft x ((s.raise 32 0 3).raise 32 1 3)
        | none => s
      else if fatalA then sideFault .A 3 s
      else if fatalB then sideFault .B 3 s
      else unresolved s) s

/-! ### The truss-to-truss link (R20, R273) -/

/-- A link error counted against a side (R20): the sixteenth within 1 ms is a side fault. -/
def linkError (x : Side) (s : State) : State :=
  let i := 0x6030 + sideIx x
  let l := (s.now :: (s.sideRt x).linkErrs).take 16
  let s := ((s.incSat i 8).setBitO i 1 16 true).setSideRt x { s.sideRt x with linkErrs := l }
  let s := refreshBad x s
  if l.length = 16 && decide (s.now < nth 0 l 15 + msFs 1) then sideFault x 7 s else s

/-- A side takes part in the truss-to-truss link: it is neither OFF nor FAILED, whose signals are absent (R21); a side in
re-initialisation receives the mirror (Table 09.3). -/
def onLink (s : State) (x : Side) : Bool := s.feeds x || s.sideState x == 5

/-- TRUSS_LINK_FRAME (R20): kinds 0 heartbeat, 1 signature and 2 mirrored state go to the mirror region of the receiving side. -/
def execTrussLinkFrame (t : Nat) (side : Side) (kind : Nat) (data : List Nat) (s : State) : Host.Outcome State Fault Refusal :=
  run (.trussLinkFrame t side kind data) (fun s =>
    if !onLink s side || !onLink s (otherSide side) then s
    else if kind ≤ 2 then s.setSideRt side { s.sideRt side with region := Store.put [] kind data (s.sideRt side).region }
    else linkError side s) s

/-- The mirrored words, and the carrier periods among the members of their groups (R221), enter the shadow and the committed sets of the
receiving sill (R273). -/
def mirrorSill (src dst : Sill) : Sill :=
  { dst with
    pairs := src.pairs.foldl (fun l e =>
      Store.mod SillPair.init e.1 (fun p => { p with sh := e.2.sh, cm := e.2.cm, pv := e.2.pv }) l) dst.pairs
    carriers := src.carriers.foldl (fun l e =>
      Store.mod Carrier.init e.1 (fun c => { c with per := e.2.per, perCm := e.2.perCm, perPv := e.2.perPv }) l) dst.carriers
    updates := src.updates }

/-- MIRROR_FRAME (R273, R269): in SPLIT_EXTENDED, the words, the state of the side that ran the CONTROL instances at its last tick and its
cross-rate link buffers (R112) reach the other side; a failing CRC is a link error. -/
def execMirrorFrame (t : Nat) (crcOk : Bool) (s : State) : Host.Outcome State Fault Refusal :=
  run (.mirrorFrame t crcOk) (fun s =>
    match [Side.A, Side.B].find? (fun x => s.feeds x && (s.graph x).ctl) with
    | none => s
    | some x =>
      let y := otherSide x
      if s.profile ≠ 2 || !s.inService y then s
      else if crcOk then
        let s := s.setSill y (mirrorSill (s.sill x) (s.sill y))
        { s with graphs := { s.graphs with mirror := (s.graph x).inst, mirrorLinks := (s.graph x).links } }
      else linkError y s) s

/-! ### Handover (R281) -/

/-- A handover is blocked (R281): the grid-forming state, an armed bring-in, a swap or a graph switch. -/
def handoverBlocked (s : State) : Bool :=
  s.gfState == 1 || s.gfState == 4 || s.gfState == 5 || (List.range 16).any (fun k => s.bit (0x9010 + k) 3 12)
    || !s.graphs.swaps.isEmpty || s.graphs.switch.isSome

/-- The revertive case (R281): PreferredSide has been RESERVE for HealthyHold with Bad clear. -/
def revertive (s : State) (y : Side) : Bool :=
  s.bit 0x6010 1 14 && preferred s == y && !sideBad s y && (match (s.sideRt y).reserveSince with
    | some r => decide (r + secFs (s.num 0x6010 2) ≤ s.now)
    | none => false)

/-- Control moves from `x` to `y` (R281): the side that gives it up becomes RESERVE. -/
def moveControl (x y : Side) (cause : Nat) (s : State) : State :=
  let lv := doutLevels s
  let s := setControl y (setReserve x s)
  let s := (orderChange y cause s).raise 38 (sideIx y) cause
  deliverChange y true (kerfOpen y lv s)

/-- The side in control begins a main cycle at this instant (R106). -/
def mainTickNow (s : State) : Bool :=
  match s.control with
  | some x =>
    let g := s.graph x
    g.started && g.tickAt == s.now && g.index % schMain (activeSched s) == 0
  | none => false

/-- HandoverWaiting (Table 09.11): a commanded or a revertive handover that is due and has not taken place. -/
def handoverWaiting (s : State) : Bool :=
  match s.control with
  | some x => s.sideState (otherSide x) == 2 && (s.sides.handover != 0 || revertive s (otherSide x))
  | none => false

/-- HANDOVER_EXECUTE (R281): at a main tick at which nothing blocks it. -/
def execHandoverExecute (t : Nat) (s : State) : Host.Outcome State Fault Refusal :=
  run (.handoverExecute t) (fun s =>
    match s.control with
    | none => s
    | some x =>
      let y := otherSide x
      if s.sideState y ≠ 2 then { s with sides := { s.sides with handover := 0 } }
      else if handoverBlocked s || !mainTickNow s then s
      else if s.sides.handover = 1 then moveControl x y 8 s
      else if revertive s y then moveControl x y 9 s
      else s) s

/-! ### Re-initialisation (R279, R280) -/

/-- What the recovering side takes from the survivor at its join (R138, R279, R391, R505): it runs no CONTROL instance of its own, an armed
plan arms anew at its first event, and an ARM that waits keeps its application time. -/
def copySurvivor (y x : Side) (s : State) : State :=
  let i := sideIx x
  let j := sideIx y
  let s := (s.setSill x (s.sill y)).setGraph x { s.graph y with ctl := false }
  let s := { s with graphs := { s.graphs with mirror := (s.graph y).inst, mirrorLinks := (s.graph y).links } }
  let shift := fun {α : Type} [DecidableEq α] (d : α) (n : Nat) (l : Store α) =>
    l.foldl (fun acc e => if e.1 / n = j then Store.put d (e.1 % n + n * i) e.2 acc else acc) (l.dropRange (n * i) (n * i + n))
  let s := { s with
    meas := { s.meas with chains := shift Chain.init 64 s.meas.chains, arcs := shift Arc.init 4 s.meas.arcs } }
  { s with capture := { s.capture with engines := (shift Engine.init 8 s.capture.engines).map (fun e =>
      (e.1, if e.1 / 8 = i then { Engine.init with
                                              seqNo := e.2.seqNo, full := e.2.full, timeDone := e.2.timeDone
                                              armAt := if e.2.seg.isSome && !e.2.stopping then some 0 else e.2.armAt } else e.2)) } }

/-- The counters of a side restart at 0 with ReinitSeen set, started or stopped as the ridge last ordered for their bank (R416). -/
def restartCounters (x : Side) (s : State) : State :=
  let mine := fun (i : Nat) => i / 48 == sideIx x
  let run := (List.range 112).filter (fun i => if mine i then s.scribe.ordered.testBit (sideIx x) && s.bit (ctrIx i) 1 31
    else s.scribe.running.contains i)
  forN 48 (fun i s =>
    let o := 0x8300 + 48 * sideIx x + i
    (s.setNum o 5 0).setBitO o 8 1 true) { s with scribe := { s.scribe with running := run } }

/-- Spares that took over lanes found faulty are in service from the join (R122, R475). -/
def joinSpares (x : Side) (s : State) : State :=
  let l := (s.sideRt x).newLanes
  let s := s.setSideRt x { s.sideRt x with newLanes := [] }
  let s := l.foldl (fun s e => s.raise 246 (1 <<< 24 ||| sideIx x <<< 16 ||| e.1) e.2) s
  if l.isEmpty then s else s.setNum 0xB100 3 (spareUse s)

/-- A joist in which a side offers fewer logical lanes than the active schedule uses (R122). -/
def joistLacking (s : State) (x : Side) : Option Nat :=
  (schedEntries (activeSched s)).findSome? (fun e =>
    if lanesOffered s (sideIx x) (seJoist e) ≤ seLane e then some (seJoist e) else none)

/-- An attempt ends (R280), or with a logical lane missing ends the attempts, with EV_117 (R122). -/
def attemptEnds (x : Side) (s : State) : State :=
  match joistLacking s x with
  | some j => failAttempt x true (s.raise 117 (sideIx x) j)
  | none => failAttempt x false s

/-- A side joins (R279): RESERVE beside a side IN_CONTROL; alone, after a double fault, it takes control and the other side follows. -/
def joinSide (x : Side) (s : State) : State :=
  let y := otherSide x
  let s := joinSpares x (restartCounters x s)
  if s.sideState y = 1 then
    ((setDegraded false (setReserve x (copySurvivor y x s))).raise 36 (sideIx x))
  else
    let s := sourcesAtOnce ((setControl x s).raise 36 (sideIx x))
    if s.sideState y = 4 && s.profile != 3 then startReinit y (s.setSideRt y { s.sideRt y with attempts := 0 }) else s

/-- The instant suits a join (Table 09.3): a tick of the side IN_CONTROL, and any instant while it has none; the PLLs of the joining side are
locked, of its truss where it is not on its bridge. -/
def joinReady (s : State) (x : Side) : Bool :=
  let i := sideIx x
  pllLocked s (3 + i) && (pllLocked s (1 + i) || bridged s x)
    && (!ticksOccur s || (s.graph s.reporter).tickAt == s.now || s.control.isNone)

/-- SIDE_JOINED (R279, R122): a side that lacks a logical lane of the active schedule stays out of service. -/
def execSideJoined (t : Nat) (side : Side) (s : State) : Host.Outcome State Fault Refusal :=
  run (.sideJoined t side) (fun s =>
    if s.sideState side = 5 && joinReady s side then
      if (joistLacking s side).isSome then attemptEnds side s else joinSide side s
    else s) s

/-- REINIT_ATTEMPT_FAILED (R280, R122). -/
def execReinitAttemptFailed (t : Nat) (side : Side) (s : State) : Host.Outcome State Fault Refusal :=
  run (.reinitAttemptFailed t side) (fun s => if s.sideState side = 5 then attemptEnds side s else s) s

/-- REINIT_RETRY (R280): 1 s after a failed attempt. -/
def execReinitRetry (t : Nat) (side : Side) (s : State) : Host.Outcome State Fault Refusal :=
  run (.reinitRetry t side) (fun s =>
    match (s.sideRt side).retryAt with
    | some r => if s.sideState side = 4 && decide (r ≤ s.now) && !s.sides.doubleFault then startReinit side s else s
    | none => s) s

/-! ### Side commands (R281, R285) -/

/-- The reason of a SideCommand (Table 09.11): profile before side state. A side that still drives a pair is not powered down (R36). -/
def sideCommandReason (code : Nat) (x : Side) (s : State) : Nat :=
  let st := s.sideState x
  if code = 0 || decide (4 < code) then 1
  else if s.profile = 3 && code ≠ 2 then 3
  else if !s.ready then 2
  else if code = 1 then (match s.control with
    | some c => if s.sideState (otherSide c) = 2 then 0 else 2
    | none => 2)
  else if code = 2 then (if st = 4 && (s.sideRt x).spent then 0 else 2)
  else if code = 3 then (if st = 4 || (st = 2 && groupsOn s x == 0) then 0 else 2)
  else if st = 0 then 0 else 2

/-- An accepted SideCommand. -/
def doSideCommand (code : Nat) (x : Side) (s : State) : State :=
  if code = 1 then { s with sides := { s.sides with handover := 1 } }
  else if code = 2 then
    let s := s.setSideRt x { s.sideRt x with spent := false, attempts := 0 }
    if s.sides.doubleFault then s else startReinit x s
  else if code = 3 then
    let s := s.setSideRt x { s.sideRt x with retryAt := none, spareFail := false }
    checkHoldover 1 (setDegraded true (sideOff x s))
  else setFailed x s

/-- A write of SideCommand (Table 09.11): CommandStatus, and EV_044 for a rejection. -/
def sideCommand (code : Nat) (x : Side) (s : State) : State :=
  let r := sideCommandReason code x s
  let s := s.setNum 0x6020 2 (code <<< 12 ||| r)
  if r = 0 then doSideCommand code x s else s.raise 44 code r

/-- HANDOVER (R281). -/
def execHandover (t : Nat) (s : State) : Host.Outcome State Fault Refusal :=
  run (.handover t) (fun s => if hostOk s then sideCommand 1 .A s else s) s

/-- RESTORE (R280). -/
def execRestore (t : Nat) (side : Side) (s : State) : Host.Outcome State Fault Refusal :=
  run (.restore t side) (fun s => if hostOk s then sideCommand 2 side s else s) s

/-- POWER_DOWN (R285). -/
def execPowerDown (t : Nat) (side : Side) (s : State) : Host.Outcome State Fault Refusal :=
  run (.powerDown t side) (fun s => if hostOk s then sideCommand 3 side s else s) s

/-- POWER_UP (R285). -/
def execPowerUp (t : Nat) (side : Side) (s : State) : Host.Outcome State Fault Refusal :=
  run (.powerUp t side) (fun s => if hostOk s then sideCommand 4 side s else s) s

/-! ### DOUT and the kerf window (R276, R277) -/

/-- DOUT_REQUEST (R276, R277): the truss's request word reaches the ridge; the first word of the side IN_CONTROL at least 1 µs after the
opening closes the window. -/
def execDoutRequest (t : Nat) (side : Side) (s : State) : Host.Outcome State Fault Refusal :=
  run (.doutRequest t side) (fun s =>
    if !s.feeds side then s
    else
      let s := s.setSideRt side { s.sideRt side with dout := (s.graph side).doutReq }
      match s.sides.kerf with
      | some (t0, _) =>
        if s.sideState side = 1 && decide (t0 + usFs 1 ≤ s.now) then { s with sides := { s.sides with kerf := none } } else s
      | none => s) s

/-- KERF_WINDOW_CLOSE (R277): 3 µs after the opening at the latest. -/
def execKerfWindowClose (t : Nat) (s : State) : Host.Outcome State Fault Refusal :=
  run (.kerfWindowClose t) (fun s =>
    match s.sides.kerf with
    | some (t0, _) => if t0 + usFs 3 ≤ s.now then { s with sides := { s.sides with kerf := none } } else s
    | none => s) s

/-! ### Self-test (R283) -/

/-- A lane of a side is tested (R283, R122): a failure of a lane in service is fatal, and in a re-initialisation the lane is taken out of
the mapping formed there (Table 09.3). -/
def laneTested (x : Side) (joist lane : Nat) (pass : Bool) (s : State) : State :=
  let i := sideIx x
  if !onLink s x || !(s.baysOf x).testBit (joist / 4) || unitFaulty s 1 i joist lane then s
  else if pass then s.incWrap (0x6030 + i) 2
  else if laneUsed s i joist lane && s.feeds x then sideFault x 6 (laneFails x joist lane s)
  else refreshBad x (laneFails x joist lane s)

/-- LANE_TEST (R283, R122). -/
def execLaneTest (t : Nat) (side : Side) (joist lane : Nat) (pass : Bool) (s : State) : Host.Outcome State Fault Refusal :=
  run (.laneTest t side joist lane pass) (laneTested side joist lane pass) s

/-- A corrected error (R283, R471): counted in the health report, for the sensor of its second, and by the counters that its address passes. -/
def correctedError (side : Side) (loft : Bool) (addr : Nat) (s : State) : State :=
  let n := (if loft then 0 else 2) + sideIx side
  let s := s.incSat (0x6030 + sideIx side) (if loft then 3 else 5)
  let s := { s with boot := { s.boot with corrected := setNth s.boot.corrected n (nth 0 s.boot.corrected n + 1) } }
  countIf (sideIx side) 0x0D 1 (fun s i => addrPasses s i addr) s

/-- ECC_ERROR (R283): in the loft, or in joist scratch and bay store. -/
def execEccError (t : Nat) (side : Side) (loft uncorrectable : Bool) (addr : Nat) (s : State) : Host.Outcome State Fault Refusal :=
  run (.eccError t side loft uncorrectable addr) (fun s =>
    let i := 0x6030 + sideIx side
    if !s.feeds side then s
    else if uncorrectable then
      let s := if loft then (s.incSat i 4).setBitO i 1 22 true else s.setBitO i 1 21 true
      sideFault side 6 s
    else correctedError side loft addr s) s

/-- PLL_FREQ_CHECK (R283): of PLL_SILL, and of PLL_TRUSS while its truss runs on it (R372). -/
def execPllFreqCheck (t p : Nat) (ok : Bool) (s : State) : Host.Outcome State Fault Refusal :=
  run (.pllFreqCheck t p ok) (fun s =>
    if ok || p = 0 || !pllLocked s p || (decide (p ≤ 2) && bridged s (pllSide p)) then s
    else sideFault (pllSide p) 6 (s.setBitO (0x6030 + sideIx (pllSide p)) 1 20 true)) s

/-- BAD_HOLD_EXPIRY (R283). -/
def execBadHoldExpiry (t : Nat) (side : Side) (s : State) : Host.Outcome State Fault Refusal :=
  run (.badHoldExpiry t side) (expireBad side) s

end Sys2Proof.Machine
end

