-- ==== Sys2Proof/Machine/Graph.lean ====
section
/-!
DEFINITION. The control-graph commands (chapters 04, 05): ticks, entries, the compare writer, slot switches, commands of instance records,
parameter swaps, and reads of results.
-/
namespace Sys2Proof.Machine

/-! ### Ticks and switches (R105, R106, R128, R129) -/

/-- A tick of a side that is due in the active slot: period writes act (R222), then the cycle begins. -/
def takeTick (x : Side) (s : State) : State :=
  match s.activeSlot with
  | none => s
  | some k => match tickDue s x (slotSched s k) with
    | some v => tickSide x k v (applyWaiting [4] s)
    | none => s

/-- A switch whose chosen tick has come takes effect before that tick's cycle begins (R129). -/
def takeSwitch (s : State) : State :=
  match switchNow s with
  | some k => doSwitch k s
  | none => s

/-- FAST_TICK (R105, R106, R108, R112, R113, R119, R132, R133). -/
def execFastTick (t : Nat) (side : Side) (s : State) : Host.Outcome State Fault Refusal :=
  run (.fastTick t side) (fun s => if !s.feeds side || s.plate.halted then s else takeTick side (takeSwitch s)) s

/-- GRAPH_SWITCH (R129 to R131, R155). -/
def execGraphSwitch (t : Nat) (s : State) : Host.Outcome State Fault Refusal :=
  run (.graphSwitch t) takeSwitch s

/-- A switch to slot k is refused (R128). -/
def slotRefused (s : State) (k : Nat) : Bool :=
  s.num (0x3100 + k) 4 != 1 || s.graphs.switch.isSome || (match s.activeSlot with
    | none => false
    | some o =>
      let a := slotSched s o
      let b := slotSched s k
      schAnchor a != schAnchor b || schVertexMode a != schVertexMode b || schLead a != schLead b)

/-- A write of GraphSwitchRequest (R128, R129). -/
def switchRequest (word : Nat) (s : State) : State :=
  let k := word % 2
  if slotRefused s k then (s.setBitO 0x3000 2 28 true).raise 115 k
  else { s.setBitO 0x3000 2 31 true with graphs := { s.graphs with switch := some (k, s.appTime) } }

/-- GRAPH_SWITCH_REQUEST (R128). -/
def execGraphSwitchRequest (t word : Nat) (s : State) : Host.Outcome State Fault Refusal :=
  run (.graphSwitchRequest t word) (fun s => if hostOk s then switchRequest word s else s) s

/-! ### Lanes and entries (R118, R119, R156) -/

/-- The entries of a logical lane among those due in a cycle. -/
def onLane (joist lane : Nat) (l : List (Nat × SEntry)) : List (Nat × SEntry) :=
  l.filter (fun p => seJoist p.2 == joist && seLane p.2 == lane)

/-- A lane is to be woken now (R118): 16 lane clocks before its next entry of the present cycle starts; for the cycle to come, 40 ns before
the tick where it holds a fast entry that starts before lane clock 68, and else 16 lane clocks before its first entry starts. Where that
cycle is the first of a slot to which the graph switches, its entries are that slot's. -/
def wakeDue (s : State) (x : Side) (joist lane : Nat) : Bool :=
  let g := s.graph x
  let from_ := fun (tick : Nat) (p : Nat × SEntry) => decide (tick + seStart p.2 * clockFs ≤ s.now + 16 * clockFs)
  let fast := fun (k : Nat) (p : Nat × SEntry) => decide (seStart p.2 < 68) && rateOf (slotGraph s k) (seKey p.2) == 0
  let now := g.started && s.activeSlot.any (fun k =>
    ((onLane joist lane (dueEntries s x k g.index)).filter (fun p => !g.done.contains p.1)).any (from_ g.tickAt))
  now || (match cycleToCome s x with
    | some (k, idx, t, before) =>
      let next := onLane joist lane (dueEntries s x k idx)
      decide (g.vertex ≤ before) && (if next.any (fast k) then decide (t ≤ s.now + nsFs 40) else next.any (from_ t))
    | none => false)

/-- LANE_WAKE (R118, R17): a lane with power that is due to be woken is woken. -/
def execLaneWake (t : Nat) (side : Side) (joist lane : Nat) (s : State) : Host.Outcome State Fault Refusal :=
  run (.laneWake t side joist lane) (fun s =>
    let g := s.graph side
    let powered := ((List.range 9).filter (lanePowered s side joist))[lane]?
    if s.feeds side && powered.isSome && wakeDue s side joist lane && !g.awake.contains (joist * 8 + lane) then
      s.setGraph side { g with awake := g.awake ++ [joist * 8 + lane] }
    else s) s

/-- Lane clock n of the cycle of a side has come. -/
def laneClockDue (s : State) (x : Side) (n : Nat) : Bool := decide ((s.graph x).tickAt + n * clockFs ≤ s.now)

/-- An entry is complete: it is not run again in the cycle, and its lane sleeps where it holds no further one (R118). -/
def entryDone (x : Side) (k n lane : Nat) (s : State) : State :=
  let g := s.graph x
  let done := g.done ++ [n]
  let more := (dueEntries s x k g.index).any (fun p => seJoist p.2 * 8 + seLane p.2 == lane && !done.contains p.1)
  sleepLanes x (fun a => more || a != lane) (s.setGraph x { g with done := done })

/-- The counter events of an entry that completes (Table 15.8): completed, its lane clocks, and these as clocks awake of its element class
(log entry 18). -/
def countEntry (x : Side) (cost ty : Nat) (s : State) : State :=
  let s := countEvent (sideIx x) 0x05 cost ty (countEvent (sideIx x) 0x04 1 ty s)
  countIf (sideIx x) 0x03 cost (fun s i =>
    s.fld (ctrIx i) 1 22 16 != 0 && elemPasses (s.bit (ctrIx i) 1 23) (s.fld (ctrIx i) 1 22 16) ty) s

/-- An entry of the present cycle has executed for its Cost and completes (R119, R156). -/
def runEntry (x : Side) (k n : Nat) (s : State) : State :=
  let g := s.graph x
  match (dueEntries s x k g.index).find? (fun p => p.1 == n) with
  | none => s
  | some (_, e) =>
    let cut := g.compared && (comparePath (slotGraph s k)).contains (seKey e)
    if !g.started || !laneClockDue s x (seStart e + seCost e) || g.done.contains n || cut then s
    else match instEntry (slotGraph s k) (seKey e) with
      | none => s
      | some d => match runPart x k d (sePart e) s with
        | some s' =>
          entryDone x k n (seJoist e * 8 + seLane e) (countEntry x (seCost e) (gB4 d) s')
        | none => s

/-- ENTRY_EXECUTION (R110, R111, R119, R124, R132, R136, R145 to R148, R154, R156 to R158). -/
def execEntryExecution (t : Nat) (side : Side) (entry : Nat) (s : State) : Host.Outcome State Fault Refusal :=
  run (.entryExecution t side entry) (fun s =>
    if !s.feeds side || s.plate.halted then s
    else match s.activeSlot with
      | some k => runEntry side k entry s
      | none => s) s

/-! ### The compare writer (R115, R119, R120, R217, R223) -/

/-- A compare word: its pair, its word, its DRIVE entry and the joist that produces it. -/
structure Word where
  pair : Nat
  word : Nat
  entry : GEntry
  joist : Nat
  fresh : Bool
  deriving DecidableEq, Repr

/-- The compare words of a slot in ascending order of target, with the joist of the entry that writes their producer's outputs; `fresh`
where that entry has completed in the present cycle. -/
def compareWords (s : State) (x : Side) (k : Nat) : List Word :=
  let l := slotGraph s k
  let g := s.graph x
  let sch := numbered (slotSched s k)
  let due := dueEntries s x k g.index
  let one := fun (e : GEntry) =>
    let parts := ((instEntry l (gKey e)).map (fun d => (elemType (gB4 d)).parts)).getD 1
    let last := fun (p : Nat × SEntry) => seKey p.2 == gKey e && sePart p.2 + 1 == parts
    let j := ((sch.find? last).map (fun p => seJoist p.2)).getD 0
    ({ pair := gW6 e / 256, word := gW6 e % 4, entry := e, joist := j
       fresh := due.any (fun p => last p && g.done.contains p.1) } : Word)
  let ws := (l.filter (fun e => gKind e == 5 && gB5 e == 0)).map one
  (List.range 72).flatMap (fun p => (List.range 4).flatMap (fun w => ws.filter (fun c => c.pair == p && c.word == w)))

/-- A driven value as steps (R217). -/
def toSteps (v hss : Nat) : Nat :=
  (Dy.roundScaled (Dy.mul (L32.toDy (L32.clamp v L32.zero L32.one)) ⟨(hss : Int), 0⟩) 0).toNat

/-- The steps of a compare word: a conversion under R217, or PAIR_OFF. -/
def wordSteps (s : State) (x : Side) (c : Word) : Nat :=
  let v := (nth Port.init ((s.graph x).instOf (gKey c.entry)).out (gB4 c.entry)).v
  if c.word = 3 then (L32.truth v).toNat
  else toSteps v (32 * ((s.sill x).carrier (s.masterOf (s.pairCarrier c.pair))).per)

/-- A compare word written to the shadow of the truss's own sill. -/
def writeWord (x : Side) (c : Word) (n : Nat) (s : State) : State :=
  let s := countEvent (sideIx x) 0x0F 1 0 s
  if c.word = 0 then writeShadow x c.pair 4 n (writeShadow x c.pair 3 n s) else writeShadow x c.pair (c.word + 2) n s

/-- The fast signature (R268); its widths are the model's (log entry 9). -/
def fastSignature (s : State) (x : Side) (steps : List Nat) (mask : Nat) : Nat :=
  let g := s.graph x
  let tr := (List.range 4).flatMap (fun d => g.pubs.filter (fun p => p.1 == d))
  crc32 (steps.flatMap (beBytes 4) ++ beBytes 4 mask ++ beBytes 2 g.doutReq
    ++ tr.flatMap (fun p => beBytes 4 p.2.theta ++ beBytes 4 p.2.f ++ beBytes 12 (toT96 p.2.t)))

/-- The joists with a compare-path entry that has not completed (R119). -/
def overrunJoists (s : State) (x : Side) (k : Nat) : List Nat :=
  let g := s.graph x
  let path := comparePath (slotGraph s k)
  let late := (dueEntries s x k g.index).filter (fun p => path.contains (seKey p.2) && !g.done.contains p.1)
  (List.range 16).filter (fun j => late.any (fun p => seJoist p.2 == j))

/-- The instant at which the compare writer issues its commits: 6 lane clocks after CompareStart (Table 04.2, log entry 27). -/
def commitInstant (s : State) (x : Side) (k : Nat) : Nat :=
  max s.now ((s.graph x).tickAt + (schCompare (slotSched s k) + 6) * clockFs)

/-- The words written, the groups to be committed and the signature of a cycle. A group that an overrun joist drives takes no word and no
commit (R119, Table 07.9 case 7). -/
def writeWords (x : Side) (k : Nat) (bad : List Nat) (s : State) : State :=
  let ws := compareWords s x k
  let held := (ws.filter (fun c => bad.contains c.joist)).map (fun c => s.pairUpdate c.pair)
  let vals := (ws.filter (fun c => c.fresh && !held.contains (s.pairUpdate c.pair))).map (fun c => (c, wordSteps s x c))
  let mask := vals.foldl (fun m v => setBit m (s.pairUpdate v.1.pair) true) 0
  let s := vals.foldl (fun s v => writeWord x v.1 v.2 s) s
  s.setGraph x { s.graph x with
    commits := if mask = 0 then none else some (commitInstant s x k, mask)
    fastSig := fastSignature s x (vals.map (fun v => v.2)) mask }

/-- A fast overrun judged (R120): with both sides in service, in whatever profile, against the other side in the same cycle; twice running
with no other side in service. -/
def judgeOverrun (x : Side) (s : State) : State :=
  let g := s.graph x
  let h := s.graph (otherSide x)
  let both := s.inService x && s.inService (otherSide x)
  if both then
    if h.started && h.compared && h.index == g.index && h.overran != g.overran then
      sideFault (if g.overran then x else otherSide x) 4 s
    else s
  else if s.control == some x && !s.inService (otherSide x) && g.overran && decide (2 ≤ g.overruns) then
    noteCause 11 (holdGates s)
  else s

/-- The compare writer of a side runs. -/
def compareSide (x : Side) (k : Nat) (s : State) : State :=
  let bad := overrunJoists s x k
  let overran := !bad.isEmpty
  let s := bad.foldl (fun s j => (s.incSat 0x3000 4).raise 112 (sideIx x) j) s
  let s := if overran then countEvent (sideIx x) 0x11 1 0 s else s
  let s := writeWords x k bad s
  let g := s.graph x
  let s := s.setGraph x { g with compared := true, overran := overran, overruns := if overran then g.overruns + 1 else 0 }
  judgeOverrun x s

/-- COMPARE_WRITER (R115, R119, R120, R217, R223, R268). -/
def execCompareWriter (t : Nat) (side : Side) (s : State) : Host.Outcome State Fault Refusal :=
  run (.compareWriter t side) (fun s =>
    match s.activeSlot with
    | none => s
    | some k =>
      let g := s.graph side
      if !s.feeds side || s.plate.halted || !g.started || g.compared || !laneClockDue s side (schCompare (slotSched s k)) then s
      else compareSide side k s) s

/-! ### Commands of instance records (R152) and parameter swaps (R153) -/

/-- A write of Command of a record: stamped for both trusses. -/
def stampCommand (ix word : Nat) (s : State) : State :=
  let add := fun (g : Graph) => { g with cmds := g.cmds ++ [(ix, word % 8, s.appTime)] }
  (s.setGraph .A (add (s.graph .A))).setGraph .B (add (s.graph .B))

/-- The index of record rec of a slot. -/
def recordIndex (slot rec : Nat) : Nat := 0x3400 + 0x400 * slot + rec

/-- PRESET_NOW (R152). -/
def execPresetNow (t slot rec : Nat) (s : State) : Host.Outcome State Fault Refusal :=
  run (.presetNow t slot rec) (fun s => if hostOk s then stampCommand (recordIndex slot rec) 1 s else s) s

/-- MODE_FORCE_MANUAL (R152, R161). -/
def execModeForceManual (t slot rec : Nat) (s : State) : Host.Outcome State Fault Refusal :=
  run (.modeForceManual t slot rec) (fun s => if hostOk s then stampCommand (recordIndex slot rec) 2 s else s) s

/-- MODE_FORCE_AUTOMATIC (R152, R161). -/
def execModeForceAutomatic (t slot rec : Nat) (s : State) : Host.Outcome State Fault Refusal :=
  run (.modeForceAutomatic t slot rec) (fun s => if hostOk s then stampCommand (recordIndex slot rec) 4 s else s) s

/-- MODE_RELEASE (R152, R161). -/
def execModeRelease (t slot rec : Nat) (s : State) : Host.Outcome State Fault Refusal :=
  run (.modeRelease t slot rec) (fun s => if hostOk s then stampCommand (recordIndex slot rec) 6 s else s) s

/-- A swap of group g is refused (R153). -/
def paramRefused (s : State) (g : Nat) : Bool :=
  let l := swapMembers s g
  let empty := fun (k : Nat) (e : GEntry) =>
    let r := instRecord k e
    (s.blob r (2 - s.fld r 4 0 0)).isEmpty
  (Store.find g s.graphs.swaps).isSome || s.graphs.switch.isSome || l.isEmpty || (match s.activeSlot with
    | some k => l.any (empty k)
    | none => true)

/-- A write of ParamSwapRequest (R153, R154). -/
def swapRequest (mask : Nat) (s : State) : State :=
  forMask 16 mask (fun g s =>
    if paramRefused s g then (s.setBitO 0x3300 2 g true).raise 119 g 1
    else
      { s.setBitO 0x3300 2 (16 + g) true with graphs := { s.graphs with swaps := Store.put 0 g s.appTime s.graphs.swaps } }) s

/-- PARAM_SWAP_REQUEST (R153, R154). -/
def execParamSwapRequest (t mask : Nat) (s : State) : Host.Outcome State Fault Refusal :=
  run (.paramSwapRequest t mask) (fun s => if hostOk s then swapRequest mask s else s) s

/-! ### Reads of results (R132 to R138) -/

/-- Result j as readers see it: of the side that serves it, with Stale and without Valid while no tick occurs (R133). -/
def servedResult (s : State) (j : Nat) : Result :=
  let r := (s.graph s.reporter).result j
  if (exportOf s j).isSome && ticksLost s s.reporter then { r with valid := false, stale := true } else r

/-- Meta (Table 04.9). -/
def metaWord (seq : Nat) (valid stale again fifo empty : Bool) (q n : Nat) : Nat :=
  (seq % 65536) <<< 16 ||| valid.toNat <<< 15 ||| stale.toNat <<< 14 ||| again.toNat <<< 13 ||| fifo.toNat <<< 12
    ||| empty.toNat <<< 11 ||| (q % 32) <<< 6 ||| n % 64

/-- The bytes of Value, 4 or 8, and of Snapshot. -/
def valueBytes (wide : Bool) (v : Nat) : List Nat := if wide then beBytes 8 v else beBytes 4 v
def snapBytes (w v : Nat) : List Nat := beBytes 4 w ++ beBytes 8 v

/-- The FIFO depth of a result in the active slot, and whether its Value has 8 bytes. -/
def resultDepth (s : State) (j : Nat) : Nat := ((exportOf s j).map gDepth).getD 0
def resultWide (s : State) (j : Nat) : Bool :=
  match exportOf s j with
  | some e => decide (3 ≤ gValueType e)
  | none => (servedResult s j).wide

/-- The bytes of a subindex from Meta and Value. -/
def resultBytes (sub : Nat) (wide : Bool) (w v : Nat) : List Nat :=
  if sub = 1 then valueBytes wide v else if sub = 2 then beBytes 4 w else snapBytes w v

/-- A read of a plain result (R132, R134). -/
def readPlain (r j sub : Nat) (s : State) : List Nat × State :=
  let q := servedResult s j
  let rd := s.reader r
  let again := Store.get 0 j rd.lastProd == q.count + 1
  let w := metaWord q.count q.valid q.stale again false false q.q 0
  (resultBytes sub (resultWide s j) w q.v, s.setReader r { rd with lastProd := Store.put 0 j (q.count + 1) rd.lastProd })

/-- A read of a FIFO result (R136, R138): Value and Snapshot remove the oldest entry on every side in service. -/
def readFifo (j sub : Nat) (s : State) : List Nat × State :=
  let q := servedResult s j
  match q.fifo with
  | [] =>
    let w := metaWord q.count false q.stale false true true 0 0
    (resultBytes sub (resultWide s j) w 0, s)
  | p :: rest =>
    let n := if sub = 2 then q.fifo.length else rest.length
    let w := metaWord p.seq true q.stale false true false p.q n
    let pop := fun (r : Result) => { r with fifo := r.fifo.drop 1 }
    let s' := if sub = 2 then s else
      [Side.A, Side.B].foldl (fun s x => if s.feeds x then s.modResult x j pop else s) s
    (resultBytes sub (resultWide s j) w p.v, s')

/-- A read of a result object: Value, Meta or Snapshot. -/
def readResult (r j sub : Nat) (s : State) : List Nat × State :=
  if resultDepth s j = 0 then readPlain r j sub s else readFifo j sub s

/-- A read of a result by a reader answers its bytes. -/
def answerResult (r j sub : Nat) (s : State) : State :=
  let (b, s) := readResult r j sub s
  s.emit 17 r b

/-- RESULT_READ (R132 to R135, R137): a plain result. -/
def execResultRead (t reader j sub : Nat) (s : State) : Host.Outcome State Fault Refusal :=
  run (.resultRead t reader j sub) (fun s =>
    if hostOk s && resultDepth s j == 0 && decide (1 ≤ sub) then answerResult reader j sub s else s) s

/-- RESULT_FIFO_READ (R136, R138): a FIFO result. -/
def execResultFifoRead (t reader j sub : Nat) (s : State) : Host.Outcome State Fault Refusal :=
  run (.resultFifoRead t reader j sub) (fun s =>
    if hostOk s && resultDepth s j != 0 && decide (1 ≤ sub) then answerResult reader j sub s else s) s

end Sys2Proof.Machine
end

