-- ==== Sys2Proof/Machine/Safety.lean ====
section
/-!
DEFINITION. The safety logic (chapter 10): seal switches, safety inputs and outputs, test pulses and the safety reset. Balls are numbered
0 to 3 for SIN_A_n and SOUT_A_n, 4 to 7 for SIN_B_n and SOUT_B_n.
-/
namespace Sys2Proof.Machine

/-- SinEnabled, SealFault and TestFail (Table 10.7). -/
def sinEnabled (s : State) : Bool := s.bit 0x6800 2 23
def sealFault (s : State) : Bool := s.bit 0x6800 2 28
def testFail (s : State) : Bool := s.bit 0x6800 2 27

/-- SAFETY_CHANNEL_FAULT (R289): EV_014, and a ridge fault with Permit cleared. -/
def execSafetyChannelFault (t : Nat) (s : State) : Host.Outcome State Fault Refusal :=
  run (.safetyChannelFault t) (fun s => ridgeFault (setEnables false ((s.setBitO 0x6800 2 2 true).raise 14))) s

/-! ### Safety inputs (R294 to R296) -/

/-- The filter time of PstClass in ns, and its discrepancy time in ms (Table 10.2). -/
def sinFilterNs (cls : Nat) : Nat := nth 0 [500, 100000, 1000000, 4000000] cls
def sinDiscrepancyMs (cls : Nat) : Nat := nth 0 [10, 20, 100, 500] cls

/-- PstClass (Table 10.7). -/
def pstClass (s : State) : Nat := s.fld 0x6800 2 25 24

/-- The SIN balls at demand: either channel's word holds (R288). -/
def Safety.sin (v : Safety) : Nat := v.a.sin ||| v.b.sin

/-- The channels named by their bits (0 A, 1 B) take the state of a ball, each through its own receivers (R288). -/
def setSin (chans ball : Nat) (demand : Bool) (s : State) : State :=
  let v := s.safety
  { s with safety := { v with
      a := { v.a with sin := if chans.testBit 0 then setBit v.a.sin ball demand else v.a.sin }
      b := { v.b with sin := if chans.testBit 1 then setBit v.b.sin ball demand else v.b.sin } } }

/-- A ball is accepted healthy (SinLevel): by the channels that have heard it last. -/
def sinHealthy (s : State) (ball : Nat) : Bool := (s.num 0x6800 3).testBit ball

/-- A pair demands (R295): either of its balls is at demand. -/
def pairDemands (s : State) (n : Nat) : Bool := s.safety.sin.testBit n || s.safety.sin.testBit (4 + n)

/-- A discrepancy of a pair exists (R296): one ball at demand and the other healthy. -/
def discrepant (s : State) (n : Nat) : Bool :=
  (s.safety.sin.testBit n && sinHealthy s (4 + n)) || (s.safety.sin.testBit (4 + n) && sinHealthy s n)

/-- The mask of demanding pairs. -/
def demandMask (s : State) : Nat := forN 4 (fun n m => if pairDemands s n then m + 2 ^ n else m) 0

/-- The channels in which a pair demands. -/
def demandChans (s : State) : Nat := (if s.safety.a.sin % 256 != 0 then 1 else 0) ||| (if s.safety.b.sin % 256 != 0 then 2 else 0)

/-- A demand is recognised (R295). -/
def recogniseDemand (s : State) : State :=
  let s := (s.setBitO 0x6800 2 29 true).setBitO 0x6800 2 7 true
  let s := (s.incSat 0x6800 7).setNum 0x6800 0xB (toT96 s.ridge)
  (noteCause 8 s).raise 0 (demandMask s)

/-- The pairs are evaluated while SinEnable is closed (R295): a channel in which one demands withdraws its Permit and its enable, so that a
reset does not release the gates (R306); pairs that demand now and did not count before are recognised. -/
def evalPairs (before : Nat) (s : State) : State :=
  if !sinEnabled s then s.setBitO 0x6800 2 30 false
  else
    let now := demandMask s
    forN 4 (fun n s => if now.testBit n && !before.testBit n then recogniseDemand s else s)
      (withdraw (demandChans s) (s.setBitO 0x6800 2 30 (now != 0)))

/-- The demands that count as yet: none while SinEnable is open. -/
def demandsNow (s : State) : Nat := if sinEnabled s then demandMask s else 0

/-- A SIN ball becomes at demand or healthy (R295), which begins or ends a discrepancy; a latched one clears after both balls have been
at demand and are healthy again (R296). -/
def sinBall (chans ball : Nat) (high : Bool) (s : State) : State :=
  let before := demandsNow s
  let n := ball % 4
  let s := setSin chans ball (!high) s
  let s := s.setBitO 0x6800 3 ball (!s.safety.sin.testBit ball)
  let since := Store.get 0 n s.safety.discSince
  let s := { s with safety := { s.safety with
    discSince := Store.put 0 n (if !discrepant s n then 0 else if since = 0 then s.now + 1 else since) s.safety.discSince } }
  let both := s.safety.sin.testBit n && s.safety.sin.testBit (4 + n)
  let latched := s.bit 0x6800 2 (12 + n)
  let s := if latched && both then { s with safety := { s.safety with bothDemand := setBit s.safety.bothDemand n true } } else s
  let s := if latched && sinHealthy s n && sinHealthy s (4 + n) && s.safety.bothDemand.testBit n then
      { s.setBitO 0x6800 2 (12 + n) false with safety := { s.safety with bothDemand := setBit s.safety.bothDemand n false } }
    else s
  evalPairs before s

/-- SIN_FILTER_EXPIRY (R288, R294, R295): the ball has held its level for `held` ns at the channels named. -/
def execSinFilterExpiry (t ball : Nat) (high : Bool) (held chans : Nat) (s : State) : Host.Outcome State Fault Refusal :=
  run (.sinFilterExpiry t ball high held chans) (fun s => if sinFilterNs (pstClass s) ≤ held then sinBall chans ball high s else s) s

/-- SIN_DISCREPANCY (R294, R296): the discrepancy of the pair has lasted for the discrepancy time. -/
def execSinDiscrepancy (t n : Nat) (s : State) : Host.Outcome State Fault Refusal :=
  run (.sinDiscrepancy t n) (fun s =>
    let since := Store.get 0 n s.safety.discSince
    if sinEnabled s && since != 0 && decide (since + msFs (sinDiscrepancyMs (pstClass s)) ≤ s.now + 1) && !s.bit 0x6800 2 (12 + n) then
      let s := { s with safety := { s.safety with bothDemand := setBit s.safety.bothDemand n false } }
      ((s.setBitO 0x6800 2 (12 + n) true).setBitO 0x6800 2 6 true).raise 1 n
    else s) s

/-! ### Seal switches (R290 to R293) -/

/-- A safety demand that is not of a SIN pair (R292): the gates in high impedance, Permit clear, Cause 8. -/
def sealDemand (n way : Nat) (s : State) : State :=
  let s := setEnables false (clearPermit (s.setBitO 0x6800 2 28 true))
  (noteCause 8 s).raise 2 n way

/-- The reading of a pair of levels (R290): 0 open, 1 closed, 2 mismatch. -/
def sealReading (t c : Bool) : Nat := if t == c then 2 else c.toNat

/-- The levels of a switch's balls, and Mismatch of SealReading, which follows them (Table 10.6). -/
def putLevels (n : Nat) (t c : Bool) (s : State) : State :=
  { s with safety := { s.safety with sealT := setBit s.safety.sealT n t, sealC := setBit s.safety.sealC n c } }.setBitO 0x6800 1 (8 + n)
    (sealReading t c == 2)

/-- The accepted reading of a switch in SealReading (Table 10.6). -/
def putReading (n reading : Nat) (s : State) : State :=
  if reading = 2 then s
  else
    let s := { s with safety := { s.safety with accepted := setBit s.safety.accepted n (reading == 1) } }
    if s.ready && decide (n < 5) then s else s.setBitO 0x6800 1 n (reading == 1)

/-- The bits of SafetyStatus that follow switches 0 to 4 until READY (Table 10.7); a change of SinEnabled evaluates the pairs (R295). -/
def sealStatus (s : State) : State :=
  let before := demandsNow s
  let a := s.safety.accepted
  let s := (s.setBitO 0x6800 2 24 (a.testBit 2)).setBitO 0x6800 2 25 (a.testBit 3)
  evalPairs before (((s.setBitO 0x6800 2 23 (a.testBit 0)).setBitO 0x6800 2 22 (a.testBit 1)).setBitO 0x6800 2 21 (a.testBit 4))

/-- A reading of a configuration switch (R291, R292). -/
def sealConfig (n reading : Nat) (s : State) : State :=
  let s := putReading n reading s
  if s.ready then
    if reading = 2 then sealDemand n 1 s
    else if s.safety.held.testBit n != (reading == 1) then sealDemand n 2 s
    else s
  else if reading = 2 then (s.setBitO 0x6800 2 28 true).raise 2 n 1
  else sealStatus s

/-- A reading of a permission switch (R293): a mismatch is a seal fault; a change of the reading in use raises EV_003. -/
def sealPermission (n reading : Nat) (s : State) : State :=
  let was := s.permission n
  let s := putReading n reading s
  let s := { s with safety := { s.safety with permFault := setBit s.safety.permFault n (reading == 2) } }
  let s := if reading = 2 then s.raise 2 n 1 else s
  let s := if s.permission n != was then s.raise 3 n (s.permission n).toNat else s
  if n = 6 && !s.permission 6 then leaveCommission 2 s else s

/-- The time for which a reading or a mismatch must persist (R290), in ns. -/
def sealHoldNs : Nat := 10000000

/-- SEAL_READING_ACCEPTED (R290 to R293): the levels of SEAL_T_n and SEAL_C_n, which have held for `held` ns. Mismatch is live; the accepted
reading stays until a reading has persisted. -/
def execSealReadingAccepted (t n : Nat) (tHigh cHigh : Bool) (held : Nat) (s : State) : Host.Outcome State Fault Refusal :=
  run (.sealReadingAccepted t n tHigh cHigh held) (fun s =>
    let r := sealReading tHigh cHigh
    let s := putLevels n tHigh cHigh s
    if held < sealHoldNs then s else if n < 5 then sealConfig n r s else sealPermission n r s) s

/-! ### Safety outputs (R297 to R301) -/

/-- A ball kept low by a discarded test may close again. -/
def freeLow (m : Nat) (s : State) : State :=
  { s with safety := { s.safety with keptLow := s.safety.keptLow - (s.safety.keptLow &&& m) } }

/-- A write of SoutRequest (R297, R301): tests of pairs no longer requested are discarded. DESIGN CHOICE (log entry 20): a request written
after a discarded test has ended lets its balls close again. -/
def writeSout (value : Nat) (s : State) : State :=
  let v := value % 16
  let off := s.num 0x6800 4 - (s.num 0x6800 4 &&& v)
  freeLow (v ||| v <<< 4) (discardTests (off ||| off <<< 4) (s.setNum 0x6800 4 v))

/-- SOUT_REQUEST_WRITE (R297). -/
def execSoutRequestWrite (t value : Nat) (s : State) : Host.Outcome State Fault Refusal :=
  run (.soutRequestWrite t value) (fun s => if hostOk s then writeSout value s else s) s

/-- The start instant of a ball's pulse lies in this ridge clock (R300): 25 ms × n into a cycle of 200 ms, 100 ms later for SOUT_B_n. A step
restarts the cycle at the next multiple, and no pulse begins within 100 ms of the ball's previous one (R343). -/
def pulseDue (s : State) (ball : Nat) : Bool :=
  let off := s.ridge % rns 200000000
  let at0 := rns (25000000 * ball)
  let last := Store.get 0 ball s.safety.testAt
  decide (at0 ≤ off) && decide (off < at0 + s.num 0x7000 2) && !s.steppedAfter (s.ridge - off)
    && (last == 0 || decide (last + msFs 100 ≤ s.now))

/-- SOUT_TEST_PULSE (R300): a ball commanded high at its start instant is driven low. -/
def execSoutTestPulse (t ball : Nat) (s : State) : Host.Outcome State Fault Refusal :=
  run (.soutTestPulse t ball) (fun s =>
    if soutHigh s ball && !s.safety.testing.testBit ball && pulseDue s ball then
      { s with safety := { s.safety with testing := setBit s.safety.testing ball true
                                         testAt := Store.put 0 ball s.now s.safety.testAt
                                         discarded := setBit s.safety.discarded ball false } }.emit 16 ball []
    else s) s

/-- A SOUT test failure (R299, R300): 1 test, 2 stuck on. -/
def soutFail (ball way : Nat) (s : State) : State :=
  (noteCause 8 (setEnables false (clearPermit (s.setBitO 0x6800 2 27 true)))).raise 4 ball way

/-- A test ends: a discarded one from the end of its pulse, any other once the readback's time after it has passed. -/
def testOver (s : State) (ball : Nat) : Bool :=
  let t0 := Store.get 0 ball s.safety.testAt
  s.safety.testing.testBit ball && decide (t0 + pulseFs + (if s.safety.discarded.testBit ball then 0 else readbackFs) ≤ s.now)

/-- SOUT_TEST_END (R300, R301): pass, failure or discard; after a discard the ball stays low. -/
def execSoutTestEnd (t ball : Nat) (lowOk highOk : Bool) (s : State) : Host.Outcome State Fault Refusal :=
  run (.soutTestEnd t ball lowOk highOk) (fun s =>
    if testOver s ball then
      let dis := s.safety.discarded.testBit ball
      let s := { s with safety := { s.safety with testing := setBit s.safety.testing ball false
                                                  discarded := setBit s.safety.discarded ball false
                                                  padLow := if dis then s.safety.padLow else setBit s.safety.padLow ball (!highOk)
                                                  keptLow := if dis then setBit s.safety.keptLow ball true else s.safety.keptLow } }
      if dis then (s.incSat 0x6800 9).setBitO 0x6800 2 3 true
      else if lowOk && highOk then s.incWrap 0x6800 8
      else soutFail ball 1 s
    else s) s

/-- The readback of a pad (R299): it reads as commanded, or otherwise. -/
def readPad (ball : Nat) (high : Bool) (s : State) : State :=
  let c := soutHigh s ball
  { s with safety := { s.safety with padHigh := setBit s.safety.padHigh ball (high && !c)
                                     padLow := setBit s.safety.padLow ball (!high && c) } }

/-- A ball has been commanded low for 100 µs (R299). -/
def lowLong (s : State) (ball : Nat) : Bool :=
  let t0 := Store.get 0 ball s.safety.lowFrom
  !soutHigh s ball && t0 != 0 && decide (t0 + readbackFs ≤ s.now + 1)

/-- SOUT_STUCK_ON (R299): a pad has read `high` for `held` ns; high for 100 µs at a ball commanded low is stuck on. -/
def execSoutStuckOn (t ball : Nat) (high : Bool) (held : Nat) (s : State) : Host.Outcome State Fault Refusal :=
  run (.soutStuckOn t ball high held) (fun s =>
    let s := readPad ball high s
    if high && decide (readbackFs ≤ nsFs held) && lowLong s ball then soutFail ball 2 s else s) s

/-! ### Safety reset (R303 to R306) -/

/-- A safety demand, of a SIN pair or of a configuration switch (R292, R295), waits in the queue for this same ridge clock (R305). -/
def demandFollows (s : State) : Bool :=
  s.pending.any (fun c => c.wf && c.time / tickFs == s.now / tickFs && match c with
    | .sinFilterExpiry _ ball high held _ =>
      sinEnabled s && !high && decide (sinFilterNs (pstClass s) ≤ held) && !pairDemands s (ball % 4)
    | .sealReadingAccepted _ n tHigh cHigh held =>
      decide (n < 5) && decide (sealHoldNs ≤ held) && (tHigh == cHigh || s.safety.held.testBit n != (sealReading tHigh cHigh == 1))
    | _ => false)

/-- The reset acts at this return edge (R305): a demand recognised in the same ridge clock wins, also one whose command comes after. -/
def resetActs (s : State) : Bool :=
  s.ready && s.safety.blocks == 0 && !(sinEnabled s && demandMask s != 0) && s.fld 0x6800 2 15 12 == 0 && !sealFault s && !testFail s
    && !s.safety.ridgeFault && !demandFollows s

/-- The reset line is not inactive, or has just become so (R304). -/
def lineActive (s : State) : State := { s with safety := { s.safety with lineAt := s.now } }

/-- The effect of a reset that acts (R305): Permit already set and DemandLatched clear, it changes nothing and still raises EV_005. -/
def resetEffect (s : State) : State :=
  if s.permit && !s.demandLatched then s.raise 5 0
  else (freeLow 0xFF (setPermits true true (s.setBitO 0x6800 2 29 false))).raise 5 s.demandLatched.toNat

/-- SAFETY_RESET (R303 to R305): the return edge of a pulse of `dur` µs, which must have begun after the last block ended. -/
def execSafetyReset (t dur : Nat) (s : State) : Host.Outcome State Fault Refusal :=
  run (.safetyReset t dur) (fun s =>
    let s := lineActive s
    if dur < 100000 then s.incSat 0x6800 0xA
    else if decide (dur ≤ 2000000) && decide (s.safety.freshFrom + usFs dur ≤ s.now) && resetActs s then
      resetEffect s
    else s) s

/-- A condition blocks the reset (R304). -/
def blockReset (bit : Nat) (s : State) : State :=
  { s with safety := { s.safety with blocks := setBit s.safety.blocks bit true, lineAt := s.now } }.setBitO 0x6800 2 26 true

/-- RESET_STUCK (R304). -/
def execResetStuck (t : Nat) (s : State) : Host.Outcome State Fault Refusal :=
  run (.resetStuck t) (fun s => ((blockReset 0 s).setBitO 0x6800 2 5 true).raise 6) s

/-- RESET_DISCREPANCY (R304). -/
def execResetDiscrepancy (t : Nat) (s : State) : Host.Outcome State Fault Refusal :=
  run (.resetDiscrepancy t) (fun s => ((blockReset 1 s).setBitO 0x6800 2 4 true).raise 7) s

/-- RESET_BLOCK_END (R304): the line has been inactive for 1 s; a pulse that begins after this may act. -/
def execResetBlockEnd (t : Nat) (s : State) : Host.Outcome State Fault Refusal :=
  run (.resetBlockEnd t) (fun s =>
    if s.safety.blocks != 0 && decide (s.safety.lineAt + secFs 1 ≤ s.now) then
      { s with safety := { s.safety with blocks := 0, freshFrom := s.now } }.setBitO 0x6800 2 26 false
    else s) s

end Sys2Proof.Machine
end

