-- ==== Sys2Proof/Machine/GridForm.lean ====
section
/-!
DEFINITION. The grid-forming state machine (chapter 06): main ticks, condition bindings, causes, commands, coherent start, JOIN, the
phase-slip profile and the breaker close. The equations of the grid-forming elements stand in ElemOps.
-/
namespace Sys2Proof.Machine

/-! ### Breaker and lines -/

/-- The breaker input shows closed (Table 06.11). -/
def breakerClosed (s : State) : Bool := s.sides.dinLevel.testBit (s.fld 0x4002 1 23 20) != s.bit 0x4002 1 28

/-- BreakerDout (Table 06.11). -/
def breakerDout (s : State) : Nat := s.fld 0x4002 1 27 24

/-- The instance of 0x1A that drives the ROTOR reference of RotorDomain. -/
def rotorKey (s : State) : Option Nat :=
  let l := activeGraph s
  (l.find? (fun e => gKind e == 5 && gB5 e == 2 && gW6 e == s.fld 0x4002 1 19 18 &&
    ((instEntry l (gKey e)).map gB4) == some 0x1A)).map gKey

/-- A load of the rotor by the ridge, on both sides (R199, R201): kind 1 coherent, 2 join, with its tick. -/
def loadRotor (kind : Nat) (s : State) : State :=
  match rotorKey s with
  | some k =>
    let f := fun (v : Inst) => { v with loadAt := some (kind, s.ridge) }
    (s.modInst .A k f).modInst .B k f
  | none => s

/-- The lines of the ROTOR reference of RotorDomain and the GRID reference of GridDomain, as the ridge holds them (R202). -/
def refLines (s : State) : Option (Line × Line) :=
  let x := s.reporter
  match (s.arc x (s.fld 0x4002 1 19 18)).rotor, (s.arc x (s.fld 0x4002 1 17 16)).grid with
  | some r, some g => some (r, g)
  | _, _ => none

/-- Δθ in 2^-64 turn, within ±0.5 turn, and σ_m in 2^-24 Hz (R202, R203). -/
def angleGap (s : State) (r g : Line) : Int :=
  let at_ := fun (l : Line) => Line.at l 1 ((s.ridge : Int) * lineUnit 1)
  sx 64 (ofInt 64 (at_ g - at_ r))
def lineSlip (r g : Line) : Int := (r.f : Int) - g.f

/-! ### Main ticks (R106, R193) -/

/-- What executions of the rates that begin at this tick see of the machine (R193), on both sides. -/
def refreshGf (s : State) : State :=
  let one := fun (g : Graph) =>
    if g.started && g.tickAt == s.now then { g with gfAt := setAll (ratesAt (activeSched s) g.index) (gfNow s) g.gfAt } else g
  (s.setGraph .A (one (s.graph .A))).setGraph .B (one (s.graph .B))

/-! ### Condition bindings (R194) -/

/-- A condition binding as read: its value, none where unknown, and whether it is bound. -/
structure Reading where
  v : Option Nat
  bound : Bool
  deriving DecidableEq, Repr

/-- Binding `sub` of Table 06.12; without ticks every bound reading is unknown (R133). -/
def readBinding (s : State) (tick : Bool) (sub : Nat) : Reading :=
  let j := s.num 0x4010 sub
  if 512 ≤ j then ⟨none, false⟩
  else
    let r := (s.graph s.reporter).result j
    if !tick || r.stale || r.q.testBit 4 then ⟨none, true⟩ else ⟨some r.v, true⟩

/-- The readings of the bindings 1 to 8: BusVoltage, GridVoltage, DcLinkOk, RampDone, RideClass, PhaseJump, CurrentLimit, GridLock. -/
def readings (s : State) (tick : Bool) : List Reading := (List.range 8).map (fun i => readBinding s tick (i + 1))
def rd (l : List Reading) (sub : Nat) : Reading := nth ⟨none, false⟩ l (sub - 1)

/-- A reading that permits: true and known. -/
def Reading.isTrue (r : Reading) : Bool := match r.v with
  | some v => L32.truth v
  | none => false
/-- A known reading below, or at or above, a level. -/
def Reading.below (r : Reading) (lv : Nat) : Bool := match r.v with
  | some v => L32.lt v lv
  | none => false
def Reading.atLeast (r : Reading) (lv : Nat) : Bool := match r.v with
  | some v => L32.le lv v
  | none => false

/-- EV_131 once for each unknown episode of a binding. -/
def noteUnknown (l : List Reading) (s : State) : State :=
  forN 8 (fun i s =>
    let r := nth ⟨none, false⟩ l i
    let unk := r.bound && r.v.isNone
    let was := s.gf.unknown.testBit i
    let s := { s with gf := { s.gf with unknown := setBit s.gf.unknown i unk } }
    if unk && !was then s.raise 131 (i + 1) else s) s

/-! ### Causes of RIDE_THROUGH (R190, R194) -/

/-- A cause of Table 06.3 begins or ends to hold. -/
def setHold (i : Nat) (on : Bool) (s : State) : State :=
  if s.gf.holds.testBit i == on then s
  else { s with gf := { s.gf with holds := setBit s.gf.holds i on, heldSince := setNth s.gf.heldSince i (if on then s.now else 0) } }

/-- CurrentLimit has been true for LimitEntryTime. -/
def limitDue (s : State) : Bool :=
  match s.gf.limitSince with
  | some t0 => decide (t0 + usFs (s.num 0x4002 4) ≤ s.now)
  | none => false

/-- The causes as this tick's readings leave them: an unknown cause keeps its value, an unbound one never holds. DESIGN CHOICE (log entry 14): an
unknown reading starts the count of RideExitHold anew. -/
def takeCauses (l : List Reading) (s : State) : State :=
  let keep := fun (i sub : Nat) => ((rd l sub).v).getD (nth 0 s.gf.lastReads i)
  let cls := keep 0 5
  let jump := keep 1 6
  let lim := keep 2 7
  let b := fun (sub : Nat) => (rd l sub).bound
  let s := { s with gf := { s.gf with
    lastReads := [cls, jump, lim]
    limitSince := if b 7 && L32.truth lim then some (s.gf.limitSince.getD s.now) else none } }
  let s := setHold 0 (b 5 && cls == L32.one) s
  let s := setHold 1 (b 5 && cls == L32.two) s
  let s := setHold 2 (b 6 && L32.truth jump) s
  let s := setHold 3 (limitDue s) s
  let unk := [5, 6, 7].any (fun sub => b sub && (rd l sub).v.isNone)
  { s with gf := { s.gf with quietSince := if s.gf.holds != 0 || unk then none else some (s.gf.quietSince.getD s.now) } }

/-- The code of the cause that was the first to hold, the lowest code where several began together. -/
def firstHeld (s : State) : Nat :=
  let l := (List.range 4).filter (fun i => s.gf.holds.testBit i)
  l.foldl (fun b i => if b = 0 || nth 0 s.gf.heldSince i < nth 0 s.gf.heldSince (b - 1) then i + 1 else b) 0

/-! ### Causes of SAFE_STOP (R195) -/

/-- The code of a cause of priority 1 that is present, 0 for none: those latched elsewhere, and those detected since the last transition. -/
def stopCause (s : State) : Nat :=
  if s.gf.firstCause ≠ 0 then s.gf.firstCause
  else if s.demandLatched || sealFault s || testFail s then 8
  else if s.tripped then 9
  else if s.meas.feedback.any (fun e => e.2.acted && e.2.declared != 0) then 10
  else if s.safety.ridgeFault then 12
  else 0

/-- RideMaxTime or BlackStartMaxTime expired (R191, R195): its event and the cause, once. -/
def maxTime (st ev fs : Nat) (s : State) : State :=
  if s.gfState == st && decide (s.gf.enteredAt + fs ≤ s.now) && !s.gf.causes.testBit 13 then (noteCause 13 s).raise ev else s
def rideMax (s : State) : State := maxTime 4 124 (msFs (s.num 0x4002 3)) s
def blackStartMax (s : State) : State := maxTime 1 125 (secFs (s.num 0x4002 5)) s

/-- ResyncMaxTime expired: EV_126, once. -/
def resyncMax (s : State) : State :=
  if s.gfState == 5 && decide (s.gf.enteredAt + secFs (s.num 0x4002 6) ≤ s.now) && !s.gf.resyncOut then
    { s with gf := { s.gf with resyncOut := true } }.raise 126
  else s

/-! ### Commands (R196, R199 to R201) -/

/-- StartArmed. -/
def State.startArmed (s : State) : Bool := s.bit 0x4001 3 5

/-- ACKNOWLEDGE is barred (Table 06.6, R306). -/
def ackBarred (s : State) : Bool :=
  stopCause s != 0 || s.bit 0x6800 2 30 || !s.permit

/-- The first failing reason of a command, 0 for none (Table 06.6). -/
def gfReason (s : State) (tick : Bool) (l : List Reading) (code : Nat) (coherent : Bool) (app : Nat) : Nat :=
  let st := s.gfState
  let dead := s.num 0x4002 7
  let live := s.num 0x4002 8
  match code with
  | 1 =>
    if st ≠ 0 then 2
    else if !tick then 11
    else if !(rd l 1).bound || !(rd l 3).bound || !(rd l 4).bound then 10
    else if !(rd l 1).below dead then 3
    else if !(rd l 3).isTrue then 9
    else if coherent && decide (ofT96 (s.num 0x4001 2) < app + rns 2000000) then 6
    else if coherent && !s.synced then 7
    else 0
  | 2 =>
    if st ≠ 0 then 2
    else if !tick then 11
    else if !(rd l 1).bound || !(rd l 3).bound || !(rd l 8).bound then 10
    else if !(rd l 1).atLeast live then 4
    else if !(rd l 8).isTrue then 5
    else if !(rd l 3).isTrue then 9
    else 0
  | 3 =>
    if st ≠ 2 then 2
    else if !(rd l 2).bound || !(rd l 8).bound then 10
    else if !(rd l 2).atLeast live then 4
    else if !(rd l 8).isTrue then 5
    else 0
  | 4 => if st = 5 then 0 else 2
  | 5 => if st = 0 || st = 6 then 2 else 0
  | 6 => if st ≠ 6 then 2 else if ackBarred s then 8 else 0
  | 7 => if s.startArmed then 0 else 2
  | _ => 1

/-- The waiting command is evaluated (R196): the code accepted, 0 for none. Without ticks an ABORT_RESYNC, whose transition needs a
tick, waits on. -/
def evalCommand (tick : Bool) (l : List Reading) (s : State) : Nat × State :=
  match s.gf.cmd with
  | none => (0, s)
  | some (code, coherent, app) =>
    let why := gfReason s tick l code coherent app
    if s.ridge < app || (!tick && code == 4 && why == 0) then (0, s)
    else
      let s := { s with gf := { s.gf with cmd := none } }.setNum 0x4001 5 (code <<< 12 ||| why)
      if why ≠ 0 then (0, s.raise 123 code why)
      else if code = 1 && coherent then (0, s.setBitO 0x4001 3 5 true)
      else if code = 7 then (0, s.setBitO 0x4001 3 5 false)
      else (code, s)

/-- A write of GfCommand (R196): it replaces a command not yet evaluated; code 0 is ignored. -/
def gfCommandWrite (word : Nat) (s : State) : State :=
  if word % 16 = 0 then s else { s with gf := { s.gf with cmd := some (word % 16, word.testBit 15, s.appTime) } }

/-! ### Transitions (R193, R195) -/

/-- σ at entry to RESYNC: the rotor's frequency less the grid's (R202). -/
def entrySlip (s : State) : Nat :=
  match refLines s with
  | some (r, g) => L32.ofScaled (lineSlip r g) (-24)
  | none => 0

/-- The acknowledgement of a double fault (R282): re-initialisation of the side that was in control may start. -/
def ackDouble (s : State) : State :=
  if s.sides.doubleFault then
    let x := sideOf (s.fld 0x6000 2 4 4)
    let s := { s with sides := { s.sides with doubleFault := false } }
    startReinit x (s.setSideRt x { s.sideRt x with attempts := 0, spent := false })
  else s

/-- A decided transition takes effect (R195, R199, R201). -/
def takeTrans (c : Trans) (s : State) : State :=
  let dst := if c.prio = 11 then (if breakerClosed s && !s.bit 0x4002 1 29 then 3 else 2) else c.dest
  let s := if c.prio = 5 then s.raise 129 else s
  let s := enterGf dst c.cause s
  let s := if dst = 5 then { s with gf := { s.gf with sigma := entrySlip s } } else s
  let s := if c.prio = 11 then loadRotor 2 s else s
  if c.prio = 12 then ackDouble s else s

/-- No cause has held for RideExitHold (R191). -/
def quietLong (s : State) : Bool :=
  match s.gf.quietSince with
  | some q => decide (q + msFs (s.num 0x4002 2) ≤ s.now)
  | none => false

/-- The transition of the lowest priority number that is due (Table 06.5); without ticks only those to SAFE_STOP or STANDBY. -/
def dueTrans (s : State) (tick : Bool) (l : List Reading) (acc : Nat) : Option Trans :=
  let st := s.gfState
  let ride := s.gf.holds != 0
  let mk := fun (d c p : Nat) => some (⟨d, c, p, s.now⟩ : Trans)
  if st ≠ 6 && stopCause s != 0 then mk 6 (stopCause s) 1
  else if acc = 5 then mk 0 0 2
  else if acc = 6 then mk 0 0 12
  else if !tick then none
  else match st with
    | 0 => if acc = 1 then mk 1 0 10 else if acc = 2 then mk 2 0 11 else none
    | 1 => if (rd l 4).isTrue then mk 2 0 8 else none
    | 2 => if ride then mk 4 (firstHeld s) 3 else if acc = 3 then mk 5 0 9 else none
    | 3 => if ride then mk 4 (firstHeld s) 3 else if !breakerClosed s then mk 2 0 5 else none
    | 4 => if quietLong s then mk (if s.gf.rideFromParallel && breakerClosed s then 3 else 2) 0 4 else none
    | 5 =>
      if ride then mk 4 (firstHeld s) 3
      else if breakerClosed s then mk (if s.bit 0x4002 1 29 then 2 else 3) 0 6
      else if acc = 4 || s.gf.resyncOut then mk 2 0 7
      else none
    | _ => none

/-! ### Resynchronisation (R202 to R204) -/

/-- Tm, the main period, in F64 seconds (R106). -/
def mainPeriod (s : State) : Nat :=
  let g := s.graph s.reporter
  D64.ofRat ((schMain (activeSched s) * nth 0 g.ratePer 1 * 25 : Nat) : Int) (10 ^ 10)

/-- The slip after a main tick (R202), in F32; the ridge's arithmetic is F64, rounded once (log entry 9). -/
def nextSlip (s : State) (gap : Int) : Nat :=
  let a := D64.of32 (s.num 0x4002 0xA)
  let two := D64.ofInt 2
  let top := D64.sqrt (D64.mul (D64.mul two a) (D64.ofScaled (gap.natAbs : Int) (-64)))
  let f := D64.of32 (s.num 0x4002 9)
  let mag := if D64.lt top f then top else f
  let star := if gap < 0 then D64.neg mag else if gap = 0 then D64.ofInt 0 else mag
  let old := D64.of32 s.gf.sigma
  let step := D64.mul a (mainPeriod s)
  let d := D64.sub star old
  let d := if D64.lt step d then step else if D64.lt d (D64.neg step) then D64.neg step else d
  D64.to32 (D64.add old d)

/-- The profile at a main tick in RESYNC (R202): σ, f_g, SlipInUse and AngleGap. -/
def slipTick (s : State) : State :=
  match refLines s with
  | none => s
  | some (r, g) =>
    let gap := angleGap s r g
    let sg := nextSlip s gap
    let s := { s with gf := { s.gf with sigma := sg, fGrid := q24F32 g.f } }
    (s.setNum 0x4002 0x10 sg).setNum 0x4002 0x11 (D64.to32 (D64.mul (D64.ofScaled gap (-64)) (D64.ofInt 360)))

/-- |a| ≤ b in F64. -/
def within (a b : Nat) : Bool := D64.le (D64.abs a) b

/-- The close window holds at a main tick (R203). -/
def closeWindow (s : State) (l : List Reading) : Bool :=
  match refLines s, (rd l 1).v, (rd l 2).v with
  | some (r, g), some bus, some grid =>
    let slip := D64.ofScaled (lineSlip r g) (-24)
    let gap := D64.ofScaled (angleGap s r g) (-64)
    let trip := D64.div (D64.mul slip (D64.ofInt (s.num 0x4002 0xE))) (D64.ofInt 1000)
    s.bit 0x4002 1 30 && (rd l 8).isTrue && !s.closeActive && !s.gf.closeNext && decide (s.gf.inhibitUntil ≤ s.now)
      && within (D64.sub (D64.of32 bus) (D64.of32 grid)) (D64.of32 (s.num 0x4002 0xD))
      && within slip (D64.of32 (s.num 0x4002 0xC))
      && within (D64.sub gap trip) (D64.div (D64.of32 (s.num 0x4002 0xB)) (D64.ofInt 360))
  | _, _, _ => false

/-- The close output is activated (R203): EV_127. -/
def issueClose (s : State) : State :=
  if s.gf.closeNext then
    let s := { s with gf := { s.gf with closeNext := false } }
    if s.gfState = 5 then
      { s.setBitO 0x4001 3 7 true with gf := { s.gf with closeAt := some s.now } }.raise 127 (breakerDout s) (s.num 0x4002 0x11)
    else s
  else s

/-- The close output is released because the breaker shows closed (R204). -/
def releaseOnClosed (s : State) : State := if s.closeActive && breakerClosed s then releaseClose s else s

/-! ### Evaluation -/

/-- An armed coherent start at the first main tick at or after StartAt (R199, R200). -/
def coherentCheck (s : State) : State :=
  if !s.startArmed || decide (s.ridge < ofT96 (s.num 0x4001 2)) then s
  else
    let s := s.setBitO 0x4001 3 5 false
    if s.gfState ≠ 0 then s
    else if !s.synced then s.raise 132
    else if !(readBinding s true 1).below (s.num 0x4002 7) then s.raise 123 1 3
    else loadRotor 1 (enterGf 1 0 s)

/-- A transition decided at an earlier instant takes effect; one decided at this instant is decided anew. -/
def takePending (s : State) : State :=
  match s.gf.trans with
  | none => s
  | some c => if c.decided < s.now then takeTrans c { s with gf := { s.gf with trans := none } }
    else { s with gf := { s.gf with trans := none } }

/-- The work of a main tick (R193 to R196, R199, R202 to R204). -/
def mainTick (s : State) : State :=
  let s := { s with gf := { s.gf with lastMain := s.now } }
  let s := coherentCheck (takePending (issueClose s))
  let l := readings s true
  let s := takeCauses l (noteUnknown l s)
  let s := resyncMax (blackStartMax (rideMax s))
  let (acc, s) := evalCommand true l s
  let s := if s.gfState = 5 then slipTick (releaseOnClosed s) else s
  let s := match dueTrans s true l acc with
    | some c => { s with gf := { s.gf with trans := some c } }
    | none => if s.gfState == 5 && closeWindow s l then { s with gf := { s.gf with closeNext := true } } else s
  refreshGf s

/-- The evaluation every 100 µs while no tick occurs (R193): a transition to SAFE_STOP or STANDBY takes effect at once. -/
def idleEval (s : State) : State :=
  let s := match s.gf.trans with
    | some c => if c.dest = 0 || c.dest = 6 then takeTrans c s else s
    | none => s
  let l := readings s false
  let s := blackStartMax (rideMax s)
  let (acc, s) := evalCommand false l s
  match dueTrans s false l acc with
  | some c => takeTrans c s
  | none => s

/-- GF_MAIN_TICK (R193 to R206): once at each main tick of the side in control, after its tick. -/
def execGfMainTick (t : Nat) (s : State) : Host.Outcome State Fault Refusal :=
  run (.gfMainTick t) (fun s => if mainTickNow s && decide (s.gf.lastMain < s.now) then mainTick s else s) s

/-- GF_IDLE_EVALUATION (R193). -/
def execGfIdleEvaluation (t : Nat) (s : State) : Host.Outcome State Fault Refusal :=
  run (.gfIdleEvaluation t) (fun s => if s.ready && !ticksOccur s then idleEval s else s) s

/-- A GfCommand of the host. -/
def hostGf (word : Nat) (s : State) : State := if hostOk s then gfCommandWrite word s else s

/-- BLACK_START (R196, R199). -/
def execBlackStart (t : Nat) (coherent : Bool) (s : State) : Host.Outcome State Fault Refusal :=
  run (.blackStart t coherent) (hostGf (1 + coherent.toNat * 2 ^ 15)) s

/-- JOIN (R196, R201). -/
def execJoin (t : Nat) (s : State) : Host.Outcome State Fault Refusal := run (.join t) (hostGf 2) s

/-- RESYNC (R196). -/
def execResync (t : Nat) (s : State) : Host.Outcome State Fault Refusal := run (.resync t) (hostGf 3) s

/-- ABORT_RESYNC (R196). -/
def execAbortResync (t : Nat) (s : State) : Host.Outcome State Fault Refusal := run (.abortResync t) (hostGf 4) s

/-- STOP (R196). -/
def execStop (t : Nat) (s : State) : Host.Outcome State Fault Refusal := run (.stop t) (hostGf 5) s

/-- ACKNOWLEDGE (R196, R306). -/
def execAcknowledge (t : Nat) (s : State) : Host.Outcome State Fault Refusal := run (.acknowledge t) (hostGf 6) s

/-- CANCEL_START (R196, R199). -/
def execCancelStart (t : Nat) (s : State) : Host.Outcome State Fault Refusal := run (.cancelStart t) (hostGf 7) s

/-- COHERENT_START (R199): at a main tick. -/
def execCoherentStart (t : Nat) (s : State) : Host.Outcome State Fault Refusal :=
  run (.coherentStart t) (fun s => if mainTickNow s then refreshGf (coherentCheck s) else s) s

/-- RIDE_EXIT (R191): decided at a main tick, to take effect at the next. -/
def execRideExit (t : Nat) (s : State) : Host.Outcome State Fault Refusal :=
  run (.rideExit t) (fun s =>
    if mainTickNow s && s.gfState == 4 && quietLong s && s.gf.trans.isNone then
      { s with gf := { s.gf with trans := some ⟨if s.gf.rideFromParallel && breakerClosed s then 3 else 2, 0, 4, s.now⟩ } }
    else s) s

/-- LIMIT_ENTRY (R190): CurrentLimit has been true for LimitEntryTime, so the cause LIMIT holds. -/
def execLimitEntry (t : Nat) (s : State) : Host.Outcome State Fault Refusal :=
  run (.limitEntry t) (fun s =>
    if limitDue s then
      let s := setHold 3 true s
      { s with gf := { s.gf with quietSince := none } }
    else s) s

/-- RIDE_TIMEOUT (R191). -/
def execRideTimeout (t : Nat) (s : State) : Host.Outcome State Fault Refusal := run (.rideTimeout t) rideMax s

/-- BLACK_START_TIMEOUT (R195). -/
def execBlackStartTimeout (t : Nat) (s : State) : Host.Outcome State Fault Refusal := run (.blackStartTimeout t) blackStartMax s

/-- RESYNC_TIMEOUT (R195). -/
def execResyncTimeout (t : Nat) (s : State) : Host.Outcome State Fault Refusal := run (.resyncTimeout t) resyncMax s

/-- BREAKER_DIN_CHANGE (R204): the levels of DIN_15 to DIN_0; the close output is released where the breaker shows closed. -/
def execBreakerDinChange (t din : Nat) (s : State) : Host.Outcome State Fault Refusal :=
  run (.breakerDinChange t din) (fun s => releaseOnClosed { s with sides := { s.sides with dinLevel := din } }) s

/-- BREAKER_FAIL (R204): BreakerConfirmTime has passed since the activation. -/
def execBreakerFail (t : Nat) (s : State) : Host.Outcome State Fault Refusal :=
  run (.breakerFail t) (fun s =>
    match s.gf.closeAt with
    | some t0 =>
      if s.closeActive && decide (t0 + msFs (s.num 0x4002 0xF) ≤ s.now) then
        let s := (releaseClose s).raise 128 (breakerDout s)
        { s with gf := { s.gf with inhibitUntil := s.now + secFs 1 } }
      else s
    | none => s) s

end Sys2Proof.Machine
end

