-- ==== Sys2Proof/Machine/Scribe.lean ====
section
/-!
DEFINITION. The scribe, its histograms, the compatibility view, the performance counters and the tag rings (chapter 15). What falls due by
time alone is in Due.lean, and the counting of events in Events.lean.
-/
namespace Sys2Proof.Machine

/-! ### Operating hours and power cycles (R395, R396) -/

/-- A seed is refused (R395, R396): 1 hours, 2 power cycles. -/
def seedRefused (which : Nat) (s : State) : State := (s.setBitO 0x8100 3 2 true).raise 217 which

/-- A write of HoursSeed (R395). -/
def seedHours (v : Nat) (s : State) : State :=
  if s.bit 0x8100 3 15 then seedRefused 1 s else ((s.setNum 0x8100 9 v).setBitO 0x8100 3 15 true).fwNote 0x0101 v

/-- A write of PowerCycleSeed (R396). -/
def seedCycles (v : Nat) (s : State) : State :=
  if s.bit 0x8100 3 14 then seedRefused 2 s else ((s.setNum 0x8100 0xA v).setBitO 0x8100 3 14 true).fwNote 0x0102 v

/-- HOURS_SEED (R395). -/
def execHoursSeed (t value : Nat) (s : State) : Host.Outcome State Fault Refusal :=
  run (.hoursSeed t value) (fun s => if hostOk s then seedHours value s else s) s

/-- POWER_CYCLE_SEED (R396). -/
def execPowerCycleSeed (t value : Nat) (s : State) : Host.Outcome State Fault Refusal :=
  run (.powerCycleSeed t value) (fun s => if hostOk s then seedCycles value s else s) s

/-- The reference ticks of one unit of OperatingHours: 3.515625 s. -/
def hourTicks : Nat := 87890625

/-- OPERATING_HOURS_TICK (R395): 3.515625 s of elapsed ticks since power-up or the last unit. -/
def execOperatingHoursTick (t : Nat) (s : State) : Host.Outcome State Fault Refusal :=
  run (.operatingHoursTick t) (fun s =>
    let next := s.scribe.hourTicks + hourTicks
    if s.boot.powerAt / tickFs + next ≤ s.ticks then
      { s.incWrap 0x8100 9 with scribe := { s.scribe with hourTicks := next } }
    else s) s

/-! ### Histograms (R398 to R402) -/

def quantKind (s : State) (q : Nat) : Nat := s.fld (quantIx q) 1 31 30
def quantSource (s : State) (q : Nat) : Nat := s.fld (quantIx q) 1 24 16

/-- A result as an F32 sample (R398): none where it is skipped. -/
def resultSample (s : State) (j : Nat) : Option Nat :=
  let r := servedResult s j
  let ty := ((exportOf s j).map gValueType).getD 0
  let x := if ty = 1 then L32.ofInt (sx 32 r.v) else if ty = 2 then L32.ofInt r.v else r.v % 2 ^ 32
  if r.count = 0 || r.stale || r.q.testBit 4 || L32.isNan x then none else some x

/-- A sensor as it reads now (R471): a die of a side that is powered down is a NaN. -/
def sensorNow (s : State) (n : Nat) : List Nat :=
  if s.ready && decide (n < 6) && !s.powered (sideOf (n % 2)) then beBytes 4 0x7FC00000 else slice (s.blob 0xB010 1) (4 * n) 4

/-- A quantity's sample, none where it is skipped. -/
def quantSample (s : State) (q : Nat) : Option Nat :=
  if quantKind s q = 1 then resultSample s (quantSource s q)
  else
    let x := field (sensorNow s (quantSource s q)) 0 4
    if L32.isNan x then none else some x

/-- The bin of a sample (R399). -/
def binOf (low width x : Nat) : Nat :=
  let d := L32.div (L32.sub x low) width
  if L32.isFinite d then (clampI 0 63 (Dy.floorScaled (L32.toDy d) 0)).toNat else if d.testBit 31 then 0 else 63

/-- An extreme's 20 bytes. -/
def extremeBytes (s : State) (x : Nat) : List Nat := beBytes 4 x ++ beBytes 4 (s.num 0x8100 9) ++ beBytes 12 (toT96 s.ridge)

/-- A sample against the extremes (R400): the first sets both. -/
def takeExtremes (q x : Nat) (s : State) : State :=
  let e := s.blob (quantIx q) 5
  let first := s.num (quantIx q) 6 == 0
  let lo := first || L32.lt x (field e 0 4)
  let hi := first || L32.lt (field e 20 4) x
  if lo || hi then
    let e := (if lo then extremeBytes s x else e.take 20) ++ (if hi then extremeBytes s x else e.drop 20)
    ifS (!s.bit 0x8100 3 15) (fun s => s.setBitO (quantIx q) 1 29 true) (s.setBlob (quantIx q) 5 e)
  else s

/-- A sample enters its bin (R399): EV_216 at the first bin to saturate. -/
def takeBin (q x : Nat) (s : State) : State :=
  let b := s.blob (quantIx q) 4
  let i := binOf (s.num (quantIx q) 2) (s.num (quantIx q) 3) x
  let n := satInc 32 (word32 b i)
  let s := s.setBlob (quantIx q) 4 (patch b (4 * i) (beBytes 4 n))
  if n = 0xFFFFFFFF && !s.scribe.saturated.testBit q then
    { s with scribe := { s.scribe with saturated := setBit s.scribe.saturated q true } }.raise 216 q
  else s

/-- A quantity is sampled (R398). -/
def takeSample (q : Nat) (s : State) : State :=
  match quantSample s q with
  | none => s.incSat (quantIx q) 7
  | some x => (takeBin q x (takeExtremes q x s)).incSat (quantIx q) 6

/-- HISTOGRAM_SAMPLE (R398): PeriodMs after the commit that enabled the quantity, or after the sampling instant before. -/
def execHistogramSample (t q : Nat) (s : State) : Host.Outcome State Fault Refusal :=
  run (.histogramSample t q) (fun s =>
    let s := dueClears s.ridge s
    let due := Store.get 0 q s.scribe.histAt
    let kind := quantKind s q
    if (kind = 1 || kind = 2) && decide (due ≤ s.now) then
      (if s.boot.islandDown then fun s => s.incSat (quantIx q) 7 else takeSample q) { s with scribe := { s.scribe with
        histAt := Store.put 0 q (due + msFs (s.fld (quantIx q) 1 15 0)) s.scribe.histAt } }
    else s) s

/-- A write of HistogramClear (R401). -/
def histogramClear (mask : Nat) (s : State) : State :=
  { s with scribe := { s.scribe with clears := s.scribe.clears ++ [(mask, s.appTime)] } }

/-- HISTOGRAM_CLEAR (R401). -/
def execHistogramClear (t mask : Nat) (s : State) : Host.Outcome State Fault Refusal :=
  run (.histogramClear t mask) (fun s => if hostOk s then histogramClear mask s else s) s

/-! ### Records (R406 to R409) -/

/-- A write of ScribeNote of 14 bytes (R408). -/
def scribeNote (b : List Nat) (s : State) : State :=
  let code := field b 0 2
  if 0x8000 ≤ code && code ≤ 0xFFFE then s.record code 2 (field b 2 4) (field b 6 4) (field b 10 4)
  else s.setBitO 0x8100 3 1 true

/-- SCRIBE_NOTE (R408): of exactly 14 bytes (R424). -/
def execScribeNote (t : Nat) (note : List Nat) (s : State) : Host.Outcome State Fault Refusal :=
  run (.scribeNote t note) (fun s => if hostOk s && note.length == 14 then scribeNote note s else s) s

/-- The Capacity and RefillMs of a bucket: 0 to 255 the codes, 256 NoteBucket. -/
def refillOf (s : State) (b : Nat) : Nat := (bucketOf s (if b < 256 then b else 0x8000)).2.2

/-- SCRIBE_TOKEN_REFILL (R407). -/
def execScribeTokenRefill (t bucket : Nat) (s : State) : Host.Outcome State Fault Refusal :=
  run (.scribeTokenRefill t bucket) (fun s =>
    let b := Store.get Bucket.init bucket s.scribe.buckets
    let due := b.since + msFs (refillOf s bucket)
    if b.used ≠ 0 && refillOf s bucket != 0 && decide (due ≤ s.now) then
      let b' : Bucket := if b.used = 1 then Bucket.init else ⟨b.used - 1, due, 0⟩
      { s with scribe := { s.scribe with buckets := Store.put Bucket.init bucket b' s.scribe.buckets } }
    else s) s

/-- The first record of a read and how many it returns (R406): `size` is the ring's, `sel` the reader's index, `count` the records. -/
def readWindow (size sel count : Nat) : Nat × Nat :=
  let k := max sel (count - size)
  (k, min 32 (count - k))

/-- Record m of the scribe ring: always whole, for the one writer finishes each record within its step (R405). -/
def ringRecord (s : State) (m : Nat) : List Nat := Store.get [] (m % 16384) s.scribe.ring

/-- A read of Records (R406). -/
def readRecords (r : Nat) (s : State) : List Nat × State :=
  let rd := s.reader r
  let (k, n) := readWindow 16384 (rd.val 0x8100 5) (s.num 0x8100 4)
  (beBytes 4 k ++ (List.range n).flatMap (fun i => ringRecord s (k + i)), s.setReader r (rd.setVal 0x8100 5 (k + n)))

/-- SCRIBE_RECORDS_READ (R406). -/
def execScribeRecordsRead (t reader : Nat) (s : State) : Host.Outcome State Fault Refusal :=
  run (.scribeRecordsRead t reader) (fun s =>
    if hostOk s then
      let (b, s) := readRecords reader s
      s.emit 17 reader b
    else s) s

/-- A native record in the 24 bytes of the PX4410 (Table 15.5). -/
def compatRecord (s : State) (r : List Nat) : List Nat :=
  let known := !(nth 0 r 2).testBit 4 && s.bit 0x7000 5 28
  let c := calendarAt s (utcOffsetAt s (field r 12 4)) (field r 12 4)
  let cal := if known then beBytes 2 (nth 0 c 0) ++ c.drop 1 ++ [0] ++ beBytes 2 (field r 16 4 / 1000000) else List.replicate 10 0
  r.take 2 ++ cal ++ slice r 20 12

/-- A read of CompatRecords (R409). -/
def readCompat (r : Nat) (s : State) : List Nat × State :=
  let rd := s.reader r
  let (k, n) := readWindow 16384 (rd.val 0xF000 2) (s.num 0xF000 1)
  (beBytes 4 k ++ (List.range n).flatMap (fun i => compatRecord s (ringRecord s (k + i))), s.setReader r (rd.setVal 0xF000 2 (k + n)))

/-- COMPAT_RECORDS_READ (R409). -/
def execCompatRecordsRead (t reader : Nat) (s : State) : Host.Outcome State Fault Refusal :=
  run (.compatRecordsRead t reader) (fun s =>
    if hostOk s then
      let (b, s) := readCompat reader s
      s.emit 17 reader b
    else s) s

/-! ### Counters (R410 to R416) -/

/-- A counter command stamped with its application time (R413): 1 START, 2 STOP, 3 CLEAR of banks, 4 + i a write of counter i. -/
def stampCounter (code arg : Nat) (s : State) : State :=
  { s with scribe := { s.scribe with ctrCmds := s.scribe.ctrCmds ++ [(s.appTime, code, arg)] } }

/-- A write of CounterCommand (Table 15.14): a code the table does not give has no effect. -/
def counterCommandWrite (word : Nat) (s : State) : State :=
  let code := bits word 15 12
  if 1 ≤ code && code ≤ 3 then stampCounter code (word % 8) s else s

/-- START (R413). -/
def execStartCounters (t banks : Nat) (s : State) : Host.Outcome State Fault Refusal :=
  run (.startCounters t banks) (fun s => if hostOk s then stampCounter 1 banks s else s) s

/-- STOP (R413). -/
def execStopCounters (t banks : Nat) (s : State) : Host.Outcome State Fault Refusal :=
  run (.stopCounters t banks) (fun s => if hostOk s then stampCounter 2 banks s else s) s

/-- CLEAR (R413). -/
def execClearCounters (t banks : Nat) (s : State) : Host.Outcome State Fault Refusal :=
  run (.clearCounters t banks) (fun s => if hostOk s then stampCounter 3 banks s else s) s

/-- COUNTER_WRITE (R413). -/
def execCounterWrite (t i value : Nat) (s : State) : Host.Outcome State Fault Refusal :=
  run (.counterWrite t i value) (fun s => if hostOk s then stampCounter (4 + i) value s else s) s

/-- The value of a counter as it is read: 0 on a side that is OFF (R416). -/
def counterNow (s : State) (i : Nat) : Nat := if i < 96 && !s.powered (sideOf (i / 48)) then 0 else s.num (ctrIx i) 5

/-- A read of Counter (R415): of an even chained counter it latches its odd partner for this reader. -/
def readCounter (r i : Nat) (s : State) : List Nat × State :=
  let rd := s.reader r
  (beBytes 4 (counterNow s i),
    if i % 2 = 0 && ctrChained s (i + 1) then s.setReader r { rd with latched := Store.put 0 (i + 1) (counterNow s (i + 1)) rd.latched }
    else s)

/-- COUNTER_READ_LATCH (R415). -/
def execCounterReadLatch (t reader i : Nat) (s : State) : Host.Outcome State Fault Refusal :=
  run (.counterReadLatch t reader i) (fun s =>
    if hostOk s then
      let (b, s) := readCounter reader i s
      s.emit 17 reader b
    else s) s

/-- Counter64 (R415): of an even chained counter, both halves of one instant. -/
def counter64 (s : State) (i : Nat) : Nat :=
  if i % 2 = 0 && ctrChained s (i + 1) then counterNow s (i + 1) * 2 ^ 32 + counterNow s i else 0

/-- COUNTER_OVERFLOW (R410, R411): counter i gains `amount` occurrences that the model does not count by itself, and passes 0xFFFF_FFFF. -/
def execCounterOverflow (t i amount : Nat) (s : State) : Host.Outcome State Fault Refusal :=
  run (.counterOverflow t i amount) (fun s =>
    if s.bit (ctrIx i) 1 31 && s.scribe.running.contains i && !ctrChained s i && decide (2 ^ 32 ≤ s.num (ctrIx i) 5 + amount) then
      ctrBump i amount s
    else s) s

/-! ### The tag rings (R418) -/

/-- The tagged execution of a joist that waits to become Readable: at most one (R417). -/
def isTag (x : Side) (joist : Nat) (p : Nat × List Nat × Nat × Nat) : Bool := p.1 == sideIx x && nth 0 p.2.1 3 / 16 == joist
def nextTag (s : State) (x : Side) (joist : Nat) : Option (Nat × List Nat × Nat × Nat) := s.scribe.tagPend.find? (isTag x joist)
def dropTag (x : Side) (joist : Nat) (l : List (Nat × List Nat × Nat × Nat)) : List (Nat × List Nat × Nat × Nat) :=
  l.filter (fun p => !isTag x joist p)

/-- A tag record (Table 15.11): bytes 12 to 23 are the six timings. -/
def tagBytes (count : Nat) (b timing : List Nat) (ns : Nat) : List Nat :=
  b.take 5 ++ [0x80 + count / 256 % 128] ++ b.drop 5 ++ (List.range 6).flatMap (fun i => beBytes 2 (nth 0 timing i)) ++ beBytes 4 count
    ++ beBytes 4 ns

/-- A tagged execution reaches Readable (R418): its record is appended, or refused where the ring stops on full. -/
def appendTag (x : Side) (b timing : List Nat) (ns : Nat) (s : State) : State :=
  let o := 0x8210 + sideIx x
  let n := s.num o 3
  let stopped := s.scribe.tagStopped.testBit (sideIx x)
  if s.bit o 1 30 && decide (256 ≤ n - (s.reader 17).val o 4) then
    let s := { s with scribe := { s.scribe with tagStopped := setBit s.scribe.tagStopped (sideIx x) true } }
    if stopped then s else s.raise 219 (sideIx x)
  else
    let s := { s with scribe := { s.scribe with
      tagStopped := setBit s.scribe.tagStopped (sideIx x) false
      tagRing := Store.put [] (256 * sideIx x + n % 256) (tagBytes n b timing ns) s.scribe.tagRing } }
    let s := s.incWrap o 3
    if 256 ≤ n && n % 256 = 0 then s.raise 219 (sideIx x) else s

/-- TAG_RECORD (R418): the tagged execution of a joist becomes Readable, with FirstOperand, LastOperand, ExecEnd, Readable, ScratchWait and
CrossbarWait as `timing`: Readable lane clocks after its issue. -/
def execTagRecord (t : Nat) (side : Side) (joist : Nat) (timing : List Nat) (s : State) : Host.Outcome State Fault Refusal :=
  run (.tagRecord t side joist timing) (fun s =>
    match nextTag s side joist with
    | none => s
    | some (_, b, ns, at_) =>
      if s.now < at_ + nth 0 timing 3 * clockFs then s
      else appendTag side b timing ns { s with scribe := { s.scribe with tagPend := dropTag side joist s.scribe.tagPend } }) s

/-- A read of TagRecords of a side (R406, R418). -/
def readTags (r : Nat) (x : Side) (s : State) : List Nat × State :=
  let o := 0x8210 + sideIx x
  let rd := s.reader r
  let (k, n) := readWindow 256 (rd.val o 4) (s.num o 3)
  (beBytes 4 k ++ (List.range n).flatMap (fun i => Store.get [] (256 * sideIx x + (k + i) % 256) s.scribe.tagRing),
    s.setReader r (rd.setVal o 4 (k + n)))

/-- TAG_RECORDS_READ (R406, R418). -/
def execTagRecordsRead (t reader : Nat) (side : Side) (s : State) : Host.Outcome State Fault Refusal :=
  run (.tagRecordsRead t reader side) (fun s =>
    if hostOk s then
      let (b, s) := readTags reader side s
      s.emit 17 reader b
    else s) s

end Sys2Proof.Machine
end

