-- ==== Sys2Proof/Machine/Share.lean ====
section
/-!
DEFINITION. Arbitration (chapter 11): requests presented, the order of resources, and the ridge semaphores. What slots, semaphores and the
stack link do as time passes stands in ArbOps.
-/
namespace Sys2Proof.Machine

/-! ### The order of resources (R331, R332) -/

/-- What a requester may hold (R331): lanes, joists and bay units by index and side, the loft of a side and its die network, and the units
of the ridge. -/
inductive Place where
  | lane (joist lane : Nat) (x : Side)
  | joist (j : Nat) (x : Side)
  | crossbar (bay : Nat) (x : Side)
  | store (bay : Nat) (x : Side)
  | swapPort (bay : Nat) (x : Side)
  | loft (dest : Nat) (x : Side)
  | time
  | plate
  | mailbox
  | sem (n : Nat)
  | stackLink
  deriving DecidableEq, Repr

/-- The position of a unit in the order (R331): rank, then index, then side. DEDUCED (log entry 29): the units of one bay follow in the
order in which the rule names them. -/
def Place.position : Place → Nat
  | .lane j l x => 2 ^ 20 + 2 * (16 * j + l) + sideIx x
  | .joist j x => 2 * 2 ^ 20 + 2 * j + sideIx x
  | .crossbar b x => 3 * 2 ^ 20 + 4 * (2 * b + sideIx x)
  | .store b x => 3 * 2 ^ 20 + 4 * (2 * b + sideIx x) + 1
  | .swapPort b x => 3 * 2 ^ 20 + 4 * (2 * b + sideIx x) + 2
  | .loft d x => 4 * 2 ^ 20 + 2 * d + sideIx x
  | .time => 5 * 2 ^ 20
  | .plate => 5 * 2 ^ 20 + 1
  | .mailbox => 5 * 2 ^ 20 + 2
  | .sem n => 5 * 2 ^ 20 + 3 + n
  | .stackLink => 5 * 2 ^ 20 + 35

/-- The unit of a resource instance. Instances are 2 · index + side; a port of a bay crossbar is index 16 · bay + port. -/
def unitOf (r inst : Nat) : Place :=
  let x := sideOf (inst % 2)
  if r = 0 then .joist (inst / 2) x
  else if r = 1 then .crossbar (inst / 32) x
  else if r = 2 then .swapPort (inst / 2) x
  else if r = 3 then .loft (inst / 2) x
  else if r = 4 then .time else if r = 5 then .plate else if r = 6 then .mailbox else .stackLink

def resPosition (r inst : Nat) : Nat := (unitOf r inst).position
def semPosition (n : Nat) : Nat := (Place.sem n).position

/-- A requester holds the stack link (R330, R331). DESIGN CHOICE (log entry 29): the reads and writes of chapter 08 are those of requester 0
of C3. -/
def holdsLink (s : State) (cls who : Nat) : Bool :=
  (cls == 5 && s.sharing.c5Tries.isSome && s.sharing.c5Who == who) || (cls == 3 && who == 0 && s.sharing.linkBusy.isSome)

/-- The highest position a requester holds (R332): that which its request carries, the semaphores held by it and the stack link. -/
def holds (s : State) (cls who held : Nat) : Nat :=
  let m := forN 32 (fun n m => if (s.sem n).holder = some (cls, who) then max m (semPosition n) else m) held
  if holdsLink s cls who then max m Place.stackLink.position else m

/-- A request is refused for breaking the order (R332). `held` is the position of the highest resource held, 0 for none. -/
def orderBroken (held pos : Nat) : Bool := held != 0 && decide (pos ≤ held)

/-! ### Semaphores given back (R334) -/

/-- Semaphore n is released: it passes to the next request that waits from an earlier ridge clock, or is free. -/
def semFree (n : Nat) (s : State) : State :=
  let v := s.sem n
  let s := s.setSem n { v with holder := none, lease := 0 }
  match v.queue with
  | q :: _ => if q.2.2 < s.ticks then semGrant n s.now s else s
  | [] => s

/-- A refused requester gives up the stack link (R332): its C5 transaction ends, its read or write is queued again and starts anew. -/
def leaveLink (cls who : Nat) (s : State) : State :=
  if !holdsLink s cls who then s
  else if cls = 5 then c5Done s
  else
    let v := s.sharing
    linkKick { s with sharing := { v with linkBusy := none, link := v.link ++ v.linkBusy.toList } }

/-- EV_254 (R332); the refused requester releases what it holds. -/
def orderViolation (res cls who : Nat) (s : State) : State :=
  let s := leaveLink cls who s
  let s := forN 32 (fun n s => if (s.sem n).holder = some (cls, who) then semFree n s else s) s
  ((s.incSat 0xA000 2).setBitO 0xA000 1 1 true).raise 254 res cls

/-! ### Requests (R312, R313, R322) -/

/-- The class of a requesting unit (Table 11.1): 0 lane executions, 1 the capture engine, 2 mirroring and copies, 3 management firmware,
4 the SOT engine, 5 debug access. -/
def unitClass (u : Nat) : Nat := u

/-- A request joins its arbiter; slots before it were opportunities without one. -/
def present (r inst cls who addr : Nat) (write : Bool) (s : State) : State :=
  let a := s.arbiter r inst
  let top := s.now / resClock r
  let a := if a.reqs.isEmpty then { (if a.last < top then idleArbiter a else a) with last := max a.last top } else a
  s.setArbiter r inst { a with reqs := a.reqs ++ [⟨cls, who, addr, write, 0⟩] }

/-- A transaction for the stack link (R330): C5's waits for its admission; those of C3 come of the reads and writes of chapter 08. -/
def presentLink (cls who : Nat) (s : State) : State :=
  if cls = 5 then dueLink { s with sharing := { s.sharing with linkC5 := s.sharing.linkC5 ++ [(s.now, who)] } } else s

/-- ARBITER_REQUEST (R312 to R323, R330, R332, R341): requester `num` of a unit and a side presents a request at instance `inst` of resource
r, 7 the stack link, holding `held`, to read or write at a byte address of the resource. A class absent at the resource requests nothing, and
a unit of an absent side is not heard (R21). -/
def execArbiterRequest (t r inst unit num : Nat) (side : Side) (held addr : Nat) (write : Bool) (s : State) :
    Host.Outcome State Fault Refusal :=
  run (.arbiterRequest t r inst unit num side held addr write) (fun s =>
    let cls := unitClass unit
    let who := 2 * num + sideIx side
    if !s.heard cls who then s
    else if orderBroken (holds s cls who held) (resPosition r inst) then orderViolation r cls who s
    else if r = 7 then presentLink cls who s
    else if classPresent r cls then present r inst cls who addr write s
    else s) s

/-! ### Semaphores requested and released (R334) -/

/-- A waiting request takes its place: in order of arrival, within one ridge clock by ascending class, then side A before side B. -/
def semInsert (e : Nat × Nat × Nat) : List (Nat × Nat × Nat) → List (Nat × Nat × Nat)
  | [] => [e]
  | x :: xs =>
    if e.2.2 = x.2.2 && (decide (e.1 < x.1) || (e.1 == x.1 && decide (e.2.1 % 2 < x.2.1 % 2))) then e :: x :: xs
    else x :: semInsert e xs

/-- A request for semaphore n by a requester of C2, C3 or C4: it waits, at a free semaphore for the end of its ridge clock; where 8 wait
already it is refused as busy. -/
def semRequest (n cls who : Nat) (s : State) : State :=
  let v := s.sem n
  if v.queue.length < (if v.holder.isNone then 9 else 8) then
    (s.setSem n { v with queue := semInsert (cls, who, s.ticks) v.queue }).emit 19 n [cls, who, 1]
  else s.emit 19 n [cls, who, 2]

/-- SEMAPHORE_REQUEST (R21, R332, R334). -/
def execSemaphoreRequest (t n cls requester held : Nat) (s : State) : Host.Outcome State Fault Refusal :=
  run (.semaphoreRequest t n cls requester held) (fun s =>
    if !s.heard cls requester then s
    else if orderBroken (holds s cls requester held) (semPosition n) then orderViolation (8 + n) cls requester s
    else if 2 ≤ cls && cls ≤ 4 then semRequest n cls requester s
    else s) s

/-- SEMAPHORE_RELEASE (R334): by its holder, within the lease; any other, an access under an expired grant among them, is refused. -/
def execSemaphoreRelease (t n cls requester : Nat) (s : State) : Host.Outcome State Fault Refusal :=
  run (.semaphoreRelease t n cls requester) (fun s =>
    if (s.sem n).holder = some (cls, requester) ∧ s.now ≤ (s.sem n).lease then semFree n s else s) s

/-- SEMAPHORE_LEASE_EXPIRED (R334). -/
def execSemaphoreLeaseExpired (t n : Nat) (s : State) : Host.Outcome State Fault Refusal :=
  run (.semaphoreLeaseExpired t n) (fun s =>
    match (s.sem n).holder with
    | some (c, _) =>
      if (s.sem n).lease ≤ s.now then semFree n (((s.incSat 0xA000 3).setBitO 0xA000 1 0 true).raise 252 n c) else s
    | none => s) s

end Sys2Proof.Machine
end

