-- ==== Sys2Proof/Machine/Stack.lean ====
section
/-!
DEFINITION. The stack commands (chapter 08): the stack link, stack records, write-back, rainflow postings, wear-levelling and spares. The
elements 0x27, 0x2C and 0x2D stand in ElemOps; shares and the bring-in in SpareOps.
-/
namespace Sys2Proof.Machine

/-! ### Records (R242, R243) -/

/-- An F32 field of a block lies within two bounds. -/
def f32In (b : List Nat) (off lo hi : Nat) : Bool :=
  let v := field b off 4
  L32.isFinite v && L32.le lo v && L32.le v hi

/-- Bytes [lo, hi) of a block are zero. -/
def zeroBytes (b : List Nat) (lo hi : Nat) : Bool := (slice b lo (hi - lo)).all (fun x => x == 0)

/-- The identity block is valid (R242, Table 08.2). -/
def identValid (b : List Nat) : Bool :=
  b.length == 256 && field b 0 4 == 0x50534931 && field b 4 2 == 1 && zeroBytes b 6 8
    && (slice b 8 32).all (fun x => decide (x < 128))
    && decide (1 ≤ nth 0 b 40) && decide (nth 0 b 40 ≤ 8) && (decide (nth 0 b 41 < nth 0 b 40) || nth 0 b 41 == 0xFF)
    && zeroBytes b 42 44
    && L32.isFinite (field b 44 4) && L32.isFinite (field b 48 4) && L32.isFinite (field b 52 4)
    && L32.isFinite (field b 56 4) && L32.lt 0 (field b 56 4)
    && f32In b 60 0x3F000000 0x41200000 && f32In b 64 0 0x40000000 && f32In b 68 0x3DCCCCCD 0x3F800000
    && f32In b 72 0x3F000000 0x41200000 && f32In b 76 0xC2200000 0x42C80000 && f32In b 80 0x3F800000 0x41A00000
    && f32In b 84 0x3DCCCCCD (field b 72 4) && zeroBytes b 88 252 && field b 252 4 == crc32 (b.take 252)

/-- A life copy is valid (R243). -/
def copyValid (ident b : List Nat) : Bool :=
  let n := nth 0 ident 40
  b.length == 1280 + 4096 * n && field b 0 4 == 0x50534C31 && field b 252 4 == crc32 (b.take 252 ++ b.drop 256)
    && field b 32 4 == field ident 252 4 && (slice b 16 8).all (fun x => decide (x ≤ 4) || x == 0xFF)

/-- Generation a is later than b under serial arithmetic. -/
def laterGen (a b : Nat) : Bool := let d := (a + 2 ^ 32 - b) % 2 ^ 32; decide (0 < d) && decide (d < 2 ^ 31)

/-- The copy adopted (R244): the valid one of the later Generation, and whether it is copy B. -/
def adopted (ident a b : List Nat) : Option (List Nat × Bool) :=
  let va := copyValid ident a
  let vb := copyValid ident b
  if va && vb then (if laterGen (field b 4 4) (field a 4 4) then some (b, true) else some (a, false))
  else if va then some (a, false)
  else if vb then some (b, true)
  else none

/-! ### Reads (R244, R245, R259) -/

/-- The logical pairs of the members of a stack that its spare may serve. -/
def stackPairs (s : State) (k : Nat) : List Nat :=
  ((wearMembers s (spareGroup s k)).filter (fun m => m.stack == k)).map Member.pair

/-- The redirections of a stack are undone. -/
def dropRedirects (k : Nat) (s : State) : State :=
  (stackPairs s k).foldl (fun s p =>
    if (Store.find p s.plate.spareMap).isNone then s
    else
      let n := physOf s p
      let s := if decide (n < 72) && (s.plateOf n).pair == p then plateRelease n s else s
      { s with plate := { s.plate with spareMap := s.plate.spareMap.filter (fun e => e.1 != p) } }) s

/-- The redirections of the SPARE_ACTIVE legs of a stack are re-established (R259). -/
def redirectActive (k : Nat) (s : State) : State :=
  forN 8 (fun l s => if legState s k l = 4 then redirect k (nth 0xFF (s.stack k).spareFor l) s else s) s

/-- The RAM account of a stack taken from a copy; an arming for the account before is dropped. -/
def loadAccount (k : Nat) (b : List Nat) (s : State) : State :=
  let i := 0x9010 + k
  let s := s.setNum i 4 (field b 8 4)
  let s := s.setBlob i 6 ((List.range 16).flatMap (fun p => slice b (256 + 64 * p) 8))
  let s := (s.setBlob i 7 (slice b 16 8)).setBlob i 8 (b.drop 1280)
  let st := { s.stack k with
    spareFor := slice b 24 8, writeCount := field b 12 4
    tjPeak := (List.range 16).map (fun p => field b (264 + 64 * p) 4) }
  dropRedirects k (dropBring k (s.setStack k st))

/-- A read that yields no valid record: EV_177; the stack is offered no spare (R245). -/
def recordInvalid (k way : Nat) (s : State) : State :=
  (((dropBring k s).setBitO (0x9010 + k) 3 15 false).setBitO (0x9010 + k) 3 0 true).raise 177 k way

/-- The read of a stack completes (R244). A record already held under the same Serial keeps its RAM account; redirections are
re-established (R259). -/
def takeRecord (k : Nat) (ident a b : List Nat) (s : State) : State :=
  let i := 0x9010 + k
  let s := s.setBlob i 2 ident
  if !identValid ident then recordInvalid k 1 s
  else
    let serial := slice ident 24 16
    let changed := match (s.stack k).serial with
      | some o => o != serial
      | none => false
    let s := if changed then (s.setBitO i 3 1 true).raise 178 k else s
    let s := s.setStack k { s.stack k with serial := some serial }
    match adopted ident a b with
    | none => recordInvalid k 2 s
    | some (c, isB) =>
      let keep := stackValid s k && !changed
      let s := if keep then s else loadAccount k c s
      let s := (s.setNum i 5 (field c 4 4)).setBitO i 3 15 true
      let st := s.stack k
      redirectActive k (s.setStack k { st with copyB := isB, lastTimer := s.now, driven := if keep then st.driven else 0 })

/-- STACK_READ_DONE (R244, R259). -/
def execStackReadDone (t k : Nat) (ident copyA copyB : List Nat) (s : State) : Host.Outcome State Fault Refusal :=
  run (.stackReadDone t k ident copyA copyB) (fun s =>
    if s.sharing.c5Tries.isNone ∧ s.sharing.linkBusy = some (0, k) then linkDone (takeRecord k ident copyA copyB s) else s) s

/-! ### Transactions (R239, R241, R253) -/

/-- A boundary between two transactions of one read or write: a C5 transaction may be admitted (R330). -/
def nextTransaction (s : State) : State :=
  let s := admitC5 s
  { s with sharing := { s.sharing with linkSince := s.now, linkTx := s.sharing.linkTx + 1 } }

/-- The transaction in progress fails: the third failure ends one of C5, and abandons the read or the write of a C3 one. -/
def transactionFails (k : Nat) (s : State) : State :=
  match s.sharing.c5Tries, s.sharing.linkBusy with
  | some n, _ => if n < 2 then { s with sharing := { s.sharing with c5Tries := some (n + 1) } } else c5Done s
  | none, none => s
  | none, some (_, j) =>
    if j ≠ k then s
    else
      let n := (s.stack k).attempts + 1
      if n < 3 then s.setStack k { s.stack k with attempts := n }
      else linkDone (((s.setStack k { s.stack k with attempts := 0 }).setBitO (0x9010 + k) 3 3 true).raise 176 k)

/-- The transaction in progress completes; a write goes on only while the write seal switch is closed. -/
def transactionOk (k : Nat) (s : State) : State :=
  match s.sharing.c5Tries, s.sharing.linkBusy with
  | some _, _ => c5Done s
  | none, none => s
  | none, some (op, j) =>
    if j ≠ k then s
    else if op != 0 && !s.permission 7 then linkDone (writeFail k s)
    else nextTransaction (s.setStack k { s.stack k with attempts := 0 })

/-- STACK_TRANSACTION (R241). -/
def execStackTransaction (t k : Nat) (ok : Bool) (s : State) : Host.Outcome State Fault Refusal :=
  run (.stackTransaction t k ok) (if ok then transactionOk k else transactionFails k) s

/-- STRETCH_TIMEOUT (R239, R241). -/
def execStretchTimeout (t k : Nat) (s : State) : Host.Outcome State Fault Refusal :=
  run (.stretchTimeout t k) (transactionFails k) s

/-- POLL_TIMEOUT (R241): after a page write. -/
def execPollTimeout (t k : Nat) (s : State) : Host.Outcome State Fault Refusal :=
  run (.pollTimeout t k) (fun s =>
    if s.sharing.c5Tries.isSome || s.sharing.linkBusy.any (fun b => b.1 != 0) then transactionFails k s else s) s

/-! ### Write-back (R251 to R253) -/

/-- A write of a stack completes (R251): Generation, the other copy next, EV_179; INIT_RECORD's account is then the stack's (R245). -/
def lifeWritten (k : Nat) (s : State) : State :=
  match s.sharing.linkBusy with
  | none => s
  | some (op, j) =>
    if j ≠ k || op = 0 || s.sharing.c5Tries.isSome then s
    else if !s.permission 7 then linkDone (writeFail k s)
    else
      let i := 0x9010 + k
      let st := s.stack k
      let gen := field st.snapshot 4 4
      let toB := op != 3 && !st.copyB
      let s := if op = 3 then (initAccount k (dropRedirects k s)).setBitO i 3 15 true else s
      let s := s.emit 7 k (beBytes 3 (if toB then 0xA000 else 0x1000) ++ st.snapshot.drop 256 ++ st.snapshot.take 256)
      let s := (s.setNum i 5 gen).setNum i 9 (toT96 s.ridge)
      let s := s.setStack k { s.stack k with copyB := toB, writeCount := field st.snapshot 12 4, lastTimer := s.now, snapshot := [] }
      linkDone (s.raise 179 k gen)

/-- LIFE_WRITTEN (R251). -/
def execLifeWritten (t k : Nat) (s : State) : Host.Outcome State Fault Refusal := run (.lifeWritten t k) (lifeWritten k) s

/-- LIFE_WRITE_INTERVAL (R251): WriteInterval after the last write or read, and after a write that failed. -/
def execLifeWriteInterval (t k : Nat) (s : State) : Host.Outcome State Fault Refusal :=
  run (.lifeWriteInterval t k) (fun s =>
    let st := s.stack k
    if stackValid s k && decide (st.lastTimer + secFs (60 * s.num 0x9000 2) ≤ s.now) then
      queueWrite false k (s.setStack k { st with lastTimer := s.now })
    else s) s

/-! ### StackCommand (Table 08.6) -/

/-- The outcome of a StackCommand: reason 0 accepted, else EV_187. -/
def stackStatus (code why : Nat) (s : State) : State :=
  let s := s.setNum 0x9000 5 (code <<< 12 ||| why)
  if why = 0 then s else s.raise 187 code why

/-- A stack is on the link. -/
def stackPresent (s : State) (k : Nat) : Bool := s.bit 0x9000 1 k

/-- FLUSH of one stack or of all (R252). -/
def doFlush (k : Nat) (all : Bool) (s : State) : State :=
  if !s.stopped then stackStatus 1 2 s
  else if !all && (!stackPresent s k || !stackValid s k) then stackStatus 1 4 s
  else stackStatus 1 0 (forMask 16 (if all then s.num 0x9000 1 else 2 ^ k) (queueWrite false) s)

/-- RESCAN of one stack or of all (R244). -/
def doRescan (k : Nat) (all : Bool) (s : State) : State :=
  if !all && !stackPresent s k then stackStatus 2 4 s
  else stackStatus 2 0 (forMask 16 (if all then s.num 0x9000 1 else 2 ^ k) queueRead s)

/-- INIT_RECORD (R245). -/
def doInit (k : Nat) (s : State) : State :=
  if !s.stopped then stackStatus 3 2 s
  else if !s.permission 7 then stackStatus 3 3 s
  else if !stackPresent s k || !identValid (s.blob (0x9010 + k) 2) then stackStatus 3 4 s
  else
    let q := s.sharing.link
    let q := if q.contains (3, k) then q else q ++ [(3, k)]
    stackStatus 3 0 (linkKick { s with sharing := { s.sharing with link := q } })

/-- BRING_IN (R256). -/
def doBringIn (k r : Nat) (s : State) : State :=
  if !stackPresent s k then stackStatus 4 4 s
  else if bringRefused s k r then
    stackStatus 4 (if stackValid s k then 5 else 4) (noSpare k r (s.raise 186 k r))
  else stackStatus 4 0 (armSpare k r s)

/-- CANCEL_BRING_IN (R257). -/
def doCancelBring (k : Nat) (s : State) : State :=
  if !stackPresent s k then stackStatus 5 4 s
  else if (s.stack k).bring.isNone then stackStatus 5 2 s
  else stackStatus 5 0 (dropBring k s)

/-- A write of StackCommand. -/
def stackCommandWrite (w : Nat) (s : State) : State :=
  let k := bits w 11 8
  match bits w 15 12 with
  | 1 => doFlush k (w.testBit 7) s
  | 2 => doRescan k (w.testBit 7) s
  | 3 => doInit k s
  | 4 => doBringIn k (w % 8) s
  | 5 => doCancelBring k s
  | c => stackStatus c 1 s

/-- FLUSH (R252). -/
def execFlush (t k : Nat) (all : Bool) (s : State) : Host.Outcome State Fault Refusal :=
  run (.flush t k all) (fun s => if hostOk s then doFlush k all s else s) s

/-- RESCAN (R244). -/
def execRescan (t k : Nat) (all : Bool) (s : State) : Host.Outcome State Fault Refusal :=
  run (.rescan t k all) (fun s => if hostOk s then doRescan k all s else s) s

/-- INIT_RECORD (R245). -/
def execInitRecord (t k : Nat) (s : State) : Host.Outcome State Fault Refusal :=
  run (.initRecord t k) (fun s => if hostOk s then doInit k s else s) s

/-- BRING_IN (R256). -/
def execBringIn (t k leg : Nat) (s : State) : Host.Outcome State Fault Refusal :=
  run (.bringIn t k leg) (fun s => if hostOk s then doBringIn k leg s else s) s

/-- CANCEL_BRING_IN (R257). -/
def execCancelBringIn (t k : Nat) (s : State) : Host.Outcome State Fault Refusal :=
  run (.cancelBringIn t k) (fun s => if hostOk s then doCancelBring k s else s) s

/-! ### Postings (R248, R249) -/

/-- A posting comes before another: by rate tick, then by Record. -/
def postBefore (a b : Posting) : Bool := decide (a.tick < b.tick) || (a.tick == b.tick && decide (a.record < b.record))

/-- The posting to apply next. -/
def nextPosting : List Posting → Option Posting
  | [] => none
  | p :: ps => match nextPosting ps with
    | some q => if postBefore q p then some q else some p
    | none => some p

/-- One cycle counted at a position of a stack: the bin, and the life it consumes. -/
def countCycle (k p : Nat) (c : Nat × Nat × Bool) (s : State) : State :=
  let id := s.blob (0x9010 + k) 2
  let i := El.swingBin id c.1 c.2.1
  let j := El.meanBin id c.1 c.2.1
  let d := El.damage id i j
  let d := if c.2.2 then d else D64.div d (D64.ofInt 2)
  let h := s.blob (0x9010 + k) 8
  let off := 2048 * p + 4 * (32 * j + i)
  let n := min (field h off 4 + (if c.2.2 then 2 else 1)) 0xFFFFFFFF
  let l := s.blob (0x9010 + k) 6
  (s.setBlob (0x9010 + k) 8 (patch h off (beBytes 4 n))).setBlob (0x9010 + k) 6 (patch l (8 * p) (beBytes 8 (D64.add (field l (8 * p) 8) d)))

/-- A posting applied (R249): a RETIRED leg's goes to the spare that replaces it. An episode of EV_188 is that of one instance. -/
def applyPosting (q : Posting) (s : State) : State :=
  let k := q.stack
  let leg := q.leg
  let sw := q.sw
  if decide (16 ≤ k) || !stackValid s k || decide (legCount s k ≤ leg) || decide (2 ≤ sw) then
    if s.graphs.misMapped.contains q.record then s
    else { s with graphs := { s.graphs with misMapped := s.graphs.misMapped ++ [q.record] } }.raise 188 k leg
  else
    let leg' := if legState s k leg = 2 then
        ((List.range 8).find? (fun l => legState s k l == 4 && nth 0xFF (s.stack k).spareFor l == leg)).getD leg
      else leg
    let p := 2 * leg' + sw
    let s := { s with graphs := { s.graphs with misMapped := s.graphs.misMapped.filter (fun r => r != q.record) } }
    let s := q.cycles.foldl (fun s c => countCycle k p c s) s
    let st := s.stack k
    if L32.lt (nth 0 st.tjPeak p) q.tj then s.setStack k { st with tjPeak := setNth st.tjPeak p q.tj } else s

/-- RAINFLOW_POSTING (R249): the earliest posting not yet applied. -/
def execRainflowPosting (t : Nat) (s : State) : Host.Outcome State Fault Refusal :=
  run (.rainflowPosting t) (fun s =>
    match nextPosting s.graphs.postings with
    | some q => applyPosting q { s with graphs := { s.graphs with postings := s.graphs.postings.erase q } }
    | none => s) s

/-! ### Hours, wear and spares (R250, R254 to R258) -/

/-- STACK_HOURS (R250): one step of 1/1024 h, 3.515 625 s of ridge time for which the stack was driven. -/
def execStackHours (t k : Nat) (s : State) : Host.Outcome State Fault Refusal :=
  run (.stackHours t k) (fun s =>
    let st := s.stack k
    if rns 3515625000 ≤ st.driven then
      (s.incSat (0x9010 + k) 4).setStack k { st with driven := st.driven - rns 3515625000 }
    else s) s

/-- WEAR_EVALUATION (R254, R256): shares, then legs DUE. -/
def execWearEvaluation (t : Nat) (s : State) : Host.Outcome State Fault Refusal :=
  run (.wearEvaluation t) (fun s => forN 16 markDue (forN 16 recomputeShares s)) s

/-- SPARE_CROSSING_CHECK (R257). -/
def execSpareCrossingCheck (t k : Nat) (s : State) : Host.Outcome State Fault Refusal :=
  run (.spareCrossingCheck t k) (checkBring k) s

/-- SPARE_SWAP_TIMEOUT (R257). -/
def execSpareSwapTimeout (t k : Nat) (s : State) : Host.Outcome State Fault Refusal :=
  run (.spareSwapTimeout t k) (fun s =>
    match (s.stack k).bring with
    | some b =>
      if !b.crossed && (s.gfState == 2 || s.gfState == 3) && decide (msFs 100 ≤ b.evaluated s.now) then (dropBring k s).raise 185 k b.leg
      else s
    | none => s) s

end Sys2Proof.Machine
end

