-- ==== Sys2Proof/Machine/Access.lean ====
section
/-!
DEFINITION. What a read of an object returns (R421, R423, R427): the value in effect, with the fields the spec calls live formed at the
read.
-/
namespace Sys2Proof.Machine

/-- An index lies in a range. -/
def inR (lo hi i : Nat) : Bool := decide (lo ≤ i) && decide (i ≤ hi)

/-- ChannelStatus (Table 02.16). -/
def liveChannel (s : State) (c v : Nat) : Nat :=
  let x := s.reporter
  setBit (setBit v 1 (chanEnabled s c && (s.chain x c).settling)) 0 (chanEnabled s c && (s.feedback c).declared != 0)

/-- ArcStatus (Table 03.4). -/
def liveArc (s : State) (d v : Nat) : Nat :=
  let a := s.arc s.reporter d
  let resync := s.fld (0x2500 + d) 1 29 28
  setBit (setBit (setBit v 15 (a.clamped || a.stale)) 14 a.stale) 13
    (a.src == resync && (s.gfState == 5 || a.src != s.fld (0x2500 + d) 1 31 30))

/-- ChordStatus (Table 03.12). -/
def liveChord (s : State) (c v : Nat) : Nat :=
  let b := maskOf 4 (fun k => chanEnabled s c && beyond s c (3 - k) (chordAt s 2 c))
  setBit (setBits v 11 8 b) 7 (s.chain s.reporter c).substituting

/-- UpdateStatus (Table 07.11). -/
def liveUpdate (s : State) (u v : Nat) : Nat :=
  let q := (s.sill s.reporter).update u
  let driven := (pairsOf s u).any (fun p => (List.range 4).any (graphDrives s p))
  setBit (setBit (setBit v 15 q.partialAt.isSome) 14 (q.commitAt.isSome || q.olderAt.isSome)) 13 driven

/-- PairStatus (Table 07.7); a pair that is not driven is taken from the side in control (R229). -/
def livePair (s : State) (p v : Nat) : Nat :=
  let q := s.plateOf (physOf s p)
  let mine := q.driving && q.pair == p
  let v := setBit (setBit v 15 mine) 14 (if mine then q.sideB else s.control == some .B)
  setBit (setBit v 13 (s.plate.disabled.testBit p)) 12 ((s.sill s.reporter).pair p).ef.off

/-- PlateStatus (Table 07.13). -/
def livePlate (s : State) (v : Nat) : Nat :=
  setBit (setBit (setBit v 15 s.tripped) 14 s.plate.halted) 12 (!(s.driveState || (s.commissioning && s.gfState == 0)))

/-- SetStatus (Table 16.3). -/
def setStatus (s : State) : Nat :=
  match s.net.openSet with
  | none => 0
  | some o => 2 ^ 31 + (if o.checking then 2 ^ 30 else 0) + o.owner <<< 16

/-- CaptureStatus (Table 14.4): a plan is Armed while a segment of it waits for its trigger. -/
def liveCapture (s : State) (v : Nat) : Nat :=
  let e := fun (k : Nat) => s.engine s.reporter k
  let armed := maskOf 8 (fun k => (e k).seg.isSome && !(e k).past)
  let past := maskOf 8 (fun k => (e k).seg.isSome && (e k).past)
  setBits (setBits (setBits v 31 24 armed) 23 16 past) 15 8 (maskOf 8 (fun k => (e k).full))

/-- PlanStatus (Table 14.5). -/
def livePlan (s : State) (k : Nat) : Nat :=
  let e := s.engine s.reporter k
  match e.seg with
  | some id => id <<< 20 ||| e.factor <<< 17
  | none => 0

/-- What a counter object reads as (R415, R416, Table 15.12), for reader `r`. -/
def liveCounter (s : State) (r i j v : Nat) : Nat :=
  if j = 5 then counterNow s i
  else if j = 6 then (if i % 2 = 1 then Store.get 0 i (s.reader r).latched else 0)
  else if j = 7 then counter64 s i
  else if j = 8 then setBit v 15 (s.scribe.running.contains i)
  else v

/-- LastScrubPass (Table 09.5): no later than now, and otherwise free (log entry 5). -/
def lastScrub (s : State) (i : Nat) : Nat := toT96 (min s.ridge (Config.scrubPass i s.ridge))

/-- The number an object reads as, its live fields formed now; `v` is the number it holds. -/
def liveNum (s : State) (r i j v : Nat) : Nat :=
  if i = 0x1050 then (if j = 2 then setStatus s else if j = 7 then (s.net.openSet.map (fun o => o.bytes)).getD 0 else v)
  else if inR 0x2100 0x213F i then
    let c := i - 0x2100
    if j = 6 then ofInt 32 (satI 32 (convShift (s.chain s.reporter c).dc 16)) else if j = 0xB then liveChannel s c v
    else if j = 0xD then cicShift s c else v
  else if i = 0x2310 then (if j = 3 then setBit v 31 (alignPending s) else v)
  else if inR 0x2500 0x2503 i then (if j = 6 then liveArc s (i - 0x2500) v else v)
  else if inR 0x2600 0x263F i then
    let c := i - 0x2600
    if j = 7 then liveChord s c v else if j = 8 then ofInt 16 (chordAt s 2 c) else v
  else if inR 0x3400 0x3BFF i then
    let k := (i - 0x3400) / 0x400
    if j = 6 then setBit v 12 (s.activeSlot == some k && s.bit 0x3300 2 (16 + s.fld i 4 15 12)) else v
  else if i = 0x4001 then (if j = 3 then setBit v 6 (s.meas.feedback.any (fun e => e.2.modelUntil.isSome)) else v)
  else if i = 0x5100 then
    if j = 4 then
      let l := s.sill s.reporter
      setBits (setBits v 31 24 (maskOf 8 (fun g => (l.carrier g).running))) 23 16
        (maskOf 8 (fun g => s.startPending s.reporter g))
    else v
  else if inR 0x5120 0x5127 i then
    if j = 7 then
      let c := (s.sill s.reporter).carrier (i - 0x5120)
      setBit (setBit 0 15 c.running) 14 (s.startPending s.reporter (i - 0x5120))
    else v
  else if inR 0x5140 0x515F i then (if j = 2 then liveUpdate s (i - 0x5140) v else v)
  else if inR 0x5200 0x5247 i then
    let p := i - 0x5200
    let q := (s.sill s.reporter).pair p
    if j = 3 then q.sh.up else if j = 4 then q.sh.dn else if j = 5 then q.sh.off.toNat
    else if j = 6 then q.onUp else if j = 7 then q.onDn else if j = 8 then livePair s p v else v
  else if i = 0x5300 then (if j = 4 then livePlate s v else v)
  else if i = 0x5310 then (if j = 4 then s.plate.faultLevel else v)
  else if i = 0x6021 then (if j = 1 then setBit (setBit v 23 s.sides.mismatch) 22 (handoverWaiting s) else v)
  else if inR 0x6030 0x6031 i then (if j = 1 then setBits v 7 0 (failedLanes s (i - 0x6030)) else if j = 9 then lastScrub s i else v)
  else if i = 0x6800 then (if j = 5 then soutLevel s else v)
  else if i = 0x7000 then
    if j = 1 then toT96 s.ridge else if j = 5 then setBit v 29 (s.timeSource == 1 && servoPort s == 1) else v
  else if inR 0x7200 0x7207 i then
    let k := i - 0x7200
    if j = 2 then setBit (setBit v 14 (clkStartPending s k)) 13 (clkStopPending s k) else v
  else if i = 0x8000 then (if j = 2 then liveCapture s v else v)
  else if inR 0x8010 0x8017 i then (if j = 0xB then livePlan s (i - 0x8010) else v)
  else if inR 0x8300 0x836F i then liveCounter s r (i - 0x8300) j v
  else if i = 0xA000 then
    if j = 5 then min 255 (linkQueued s) <<< 8 ||| min 255 s.sharing.linkC5.length
    else if j = 6 then maskOf 32 (fun k => (s.sem k).holder.isSome) else v
  else v

/-- SessionTable (Table 16.9). -/
def sessionTable (s : State) : List Nat :=
  s.net.sessions.flatMap (fun e =>
    beBytes 2 e.1 ++ [e.2.role, if e.2.path = 1 then 0x80 else 0] ++ beBytes 4 e.2.ip ++ beBytes 2 e.2.udp ++ [0, 0])

/-- Sensors (R471). -/
def liveSensors (s : State) : List Nat :=
  (List.range 48).flatMap (sensorNow s)

/-- The whole value a read by reader `r` returns, and what the read does (R134, R136, R389, R406, R415). -/
def readBytes (r k : Nat) (s : State) : List Nat × State :=
  let i := k / 256
  let j := k % 256
  match rowOf k with
  | none => ([], s)
  | some o =>
    if j = 0 then (beBytes 1 (s.num i 0), s)
    else if inR 0x3C00 0x3DFF i then readResult r (i - 0x3C00) j s
    else if i = 0x8020 && j == 2 then readHeader r s
    else if i = 0x8020 && j == 4 then readRows r s
    else if i = 0x8020 && j == 5 then (segmentDirectory s, s)
    else if i = 0x8100 && j == 6 then readRecords r s
    else if i = 0xF000 && j == 3 then readCompat r s
    else if inR 0x8210 0x8211 i && j == 5 then readTags r (sideOf (i - 0x8210)) s
    else if inR 0x8300 0x836F i && j == 5 then readCounter r (i - 0x8300) s
    else if i = 0x1040 && j == 1 then (sessionTable s, s)
    else if i = 0x7030 && j == 8 then (calendarNow s, s)
    else
      match o.kind with
      | .per => (beBytes o.size ((s.reader r).val i j), s)
      | .cmd => (List.replicate o.size 0, s)
      | _ => if i = 0xB010 && j == 1 then (liveSensors s, s) else if o.size = 0 then (s.blob i j, s)
        else (beBytes o.size (liveNum s r i j (s.num i j)), s)

end Sys2Proof.Machine
end

