-- ==== Sys2Proof/Machine/Write.lean ====
section
/-!
DEFINITION. Writes of objects: the checks of R479 in their order, command and immediate objects by their chapters' operations, the open
configuration set (R428 to R432), and segmented writes (R426).
-/
namespace Sys2Proof.Machine

/-- Who sends a write: its reader (R134), the owner it would be of a set (its SessionId, 0xFF the boot port's access without a session,
R506), and its role, none for every role's rights (R442). -/
structure Sender where
  reader : Nat
  owner : Nat
  role : Option Nat
  deriving DecidableEq, Repr

/-- A role may write an object of a rights code (Table 18.2): 0 observe, 1 operate, 2 engineer, 3 safety. -/
def roleWrites (q : Right) (role : Nat) : Bool :=
  match q with
  | .r => false
  | .a => role != 0
  | .e => role == 2
  | .o => role == 1 || role == 2
  | .os => role == 1 || role == 3
  | .s => role == 3
  | .p => true
  | .ke => role == 2
  | .ks => role == 3

/-- A role may read an object of a rights code: no role reads a role key. -/
def roleReads (q : Right) : Bool :=
  match q with
  | .ke => false
  | .ks => false
  | _ => true

/-- A sender may write under a rights code. -/
def Sender.writes (w : Sender) (q : Right) : Bool :=
  match w.role with
  | none => q != .r
  | some r => roleWrites q r

/-! ### The configuration set (R428 to R432) -/

/-- BEGIN (R428): its status. -/
def beginSet (w : Sender) (id : Nat) (s : State) : Nat × State :=
  match s.net.openSet with
  | some _ => (0x15, s)
  | none => (0, { s with net := { s.net with openSet := some ⟨w.owner, id, [], 0, false, s.now, none⟩ } })

/-- What an owner's request on the open set is refused with, 0 for none: NO_SET, SET_OWNER, BUSY. -/
def setRefusal (w : Sender) (s : State) : Nat :=
  match s.net.openSet with
  | none => 0x14
  | some o => if o.owner ≠ w.owner then 0x15 else if o.checking then 0x18 else 0

/-- The open set changed. -/
def State.modSet (s : State) (f : OpenSet → OpenSet) : State :=
  { s with net := { s.net with openSet := s.net.openSet.map f } }

/-- COMMIT (R430): the checks begin; its item is answered when they complete. -/
def commitSet (w : Sender) (s : State) : Nat × State :=
  let r := setRefusal w s
  if r ≠ 0 then (r, s) else (0, s.modSet (fun o => { o with checking := true, last := s.now }))

/-- ABORT (R432). -/
def abortSet (w : Sender) (s : State) : Nat × State :=
  let r := setRefusal w s
  if r ≠ 0 then (r, s) else (0, abortOpenSet 1 s)

/-- The bytes of a staged value. -/
def valBytes (k : Nat) : Val → Nat
  | .num _ => (match rowOf k with | some o => o.size | none => 0)
  | .blob b => b.length

/-- A value that is not any object's: the default of a store that lists every staged value. -/
def noVal : Val := .blob [256]

/-- Staging holds up to 8 MiB (R429). -/
def stageMax : Nat := 8388608

/-- A value staged in the open set (R429): its status. -/
def stage (w : Sender) (k : Nat) (v : Val) (s : State) : Nat × State :=
  let r := setRefusal w s
  match s.net.openSet with
  | none => (r, s)
  | some o =>
    let old := match Store.find k o.staged with
      | some u => valBytes k u
      | none => 0
    let n := o.bytes - old + valBytes k v
    if r ≠ 0 then (r, s)
    else if stageMax < n then (0x19, s)
    else (0, s.modSet (fun o => { o with staged := Store.put noVal k v o.staged, bytes := n, last := s.now }))

/-! ### Command objects (R423) -/

/-- SetCommand (Table 16.2), its Op one of the three. -/
def setCommand (w : Sender) (v : Nat) (s : State) : Nat × State :=
  match bits v 63 60 with
  | 1 => beginSet w (v % 2 ^ 32) s
  | 2 => commitSet w s
  | _ => abortSet w s

/-- A write of ImageCommand (R473): a code the table does not give has no effect. -/
def imageCommand (v : Nat) (s : State) : State :=
  if v = 1 then verifySlot s else if v = 2 then switchSlot s else if v = 3 then discardSlot s else s

/-- The counts named by a write of CountClear (R446): an occurrence in this ridge clock leaves its count at 1. -/
def countClear (b : List Nat) (s : State) : State :=
  let now := s.freshOf 0x120001
  s.setBlob 0x1200 2 ((List.range 256).flatMap (fun e =>
    if blobBit b e then [0, (now.testBit e).toNat] else slice (s.blob 0x1200 2) (2 * e) 2))

/-- The Pending flags named by a W1C write (R446), but for those set in this ridge clock (R12). -/
def pendingClear (b : List Nat) (s : State) : State :=
  let f := s.freshOf 0x120001
  s.setBlob 0x1200 1 ((List.range 32).map (fun i =>
    clearMask (nth 0 (s.blob 0x1200 1) i) (clearMask (nth 0 b i % 256) (f >>> (8 * i) % 256))))

/-- A command object takes effect at receipt (R423). -/
def commandWrite (w : Sender) (i j v : Nat) (b : List Nat) (s : State) : State :=
  if i = 0x1200 then countClear b s
  else if i = 0x2300 then bankSwap (v % 256) s
  else if i = 0x2310 then syncWrite v s
  else if i = 0x3000 then switchRequest v s
  else if i = 0x3300 then swapRequest v s
  else if inR 0x3400 0x3BFF i then stampCommand i v s
  else if i = 0x4001 then gfCommandWrite v s
  else if i = 0x5100 then (if j = 1 then updateCommitWrite v s else if j = 2 then carrierStartWrite v s else carrierStopWrite v s)
  else if i = 0x5310 then tripRelease v s
  else if i = 0x5320 then (if v = 1 then enterCommission s else if v = 0 then leaveCommission 1 s else s)
  else if i = 0x6020 then sideCommand (bits v 15 12) (sideOf (v % 2)) s
  else if i = 0x7000 then (if j = 3 then requestStep true (ofT96 v) s else requestStep false (sx 64 v * 65536) s)
  else if inR 0x7028 0x7029 i then confirmPath (i - 0x7028) v s
  else if i = 0x7040 then refSwitch v s
  else if i = 0x7060 then clkCommand v s
  else if i = 0x8000 then captureCommandWrite (if w.owner = 0xFF then 0 else w.owner) v s
  else if i = 0x8100 then (if j = 1 then seedHours v s else if j = 2 then seedCycles v s else scribeNote b s)
  else if i = 0x8180 then histogramClear v s
  else if i = 0x8200 then counterCommandWrite v s
  else if i = 0x9000 then stackCommandWrite v s
  else if i = 0xB000 then bootCommandWrite v s
  else if i = 0xB200 then (if j = 8 then imageCommand v s else writePart (j - 1) b s)
  else s

/-! ### Immediate objects (R423, R424, R480) -/

/-- An immediate value lies outside the range its chapter states, or is refused there (R424). -/
def immOutside (s : State) (i j v : Nat) (b : List Nat) : Bool :=
  if i = 0x1050 then v < 10 || 3600 < v
  else if i = 0x7000 && j == 2 then !incInRange (v % 2 ^ 40)
  else if i = 0x8000 && j == 4 then 2 < v
  else if i = 0x5320 then !(s.commissioning && mapOk b)
  else false

/-- What a refused write of an immediate object still does: the refusal flag and event of its chapter (R424). -/
def immRefused (i j v : Nat) (b : List Nat) (s : State) : State :=
  if i = 0x7000 && j == 2 then writeIncrement (v % 2 ^ 40) s else if i = 0x5320 then overrideWrite b s else s

/-- The W1C flags that a write names are cleared, but for those set in this ridge clock (R12). -/
def clearFlags (i j v m : Nat) (s : State) : State :=
  s.setNum i j (clearMask (s.num i j) (clearMask (v &&& m) (s.freshOf (i * 256 + j))))

/-- An immediate object takes effect at receipt. -/
def immWrite (i j v : Nat) (b : List Nat) (o : ObjRow) (s : State) : State :=
  if i = 0x1200 then pendingClear b s
  else if inR 0x5200 0x5247 i && decide (3 ≤ j) && decide (j ≤ 5) then shadowWriteOp (i - 0x5200) j v s
  else if i = 0x5300 && decide (j ≤ 3) then disableWrite (j - 1) v s
  else if i = 0x5320 then overrideWrite b s
  else if i = 0x6800 && j == 4 then writeSout v s
  else if i = 0x7000 && j == 2 then writeIncrement (v % 2 ^ 40) s
  else if i = 0x7000 && j == 5 then writeTimeValid (v.testBit 7) (clearFlags i j v o.w1c s)
  else if i = 0x7030 then writeUtcOffset v s
  else if inR 0x8300 0x836F i && j == 5 then stampCounter (4 + (i - 0x8300)) v s
  else clearFlags i j v o.w1c (s.setNum i j (clearMask (s.num i j) o.rw ||| (v &&& o.rw)))

/-- A per-reader object takes the reader's value (R423). -/
def perWrite (r i j v : Nat) (o : ObjRow) (s : State) : State :=
  if i = 0x8020 && j == 1 then selectSegment r v s
  else
    let rd := (s.reader r).setVal i j (v &&& o.rw)
    s.setReader r (if i = 0x1040 && v == 0 then { rd with notes := [], holdoff := none } else rd)

/-! ### A write (R479) -/

/-- The two BOOL objects outside configuration. -/
def isBool (i j : Nat) : Bool := (i == 0x1040 && j == 2) || (inR 0x5200 0x5247 i && j == 5)

/-- The size of a write is refused (R424): a BOOL takes 0 and 1 only, SetCommand three codes. -/
def badSize (i j : Nat) (o : ObjRow) (data : List Nat) : Bool :=
  if o.size ≠ 0 then
    data.length != o.size || (isBool i j && decide (1 < beNat data))
      || (i == 0x1050 && j == 1 && !(1 ≤ bits (beNat data) 63 60 && bits (beNat data) 63 60 ≤ 3))
  else if o.exact then data.length != o.len else decide (o.len < data.length)

/-- A write whose access and size pass: its status (checks 5 and 6 of R479). -/
def writeChecked (w : Sender) (k : Nat) (o : ObjRow) (data : List Nat) (s : State) : Nat × State :=
  let i := k / 256
  let j := k % 256
  let v := beNat data
  match o.kind with
  | .ro => (0x12, s)
  | .cmd => if i = 0x1050 then setCommand w v s else (0, commandWrite w i j v data s)
  | .imm => if immOutside s i j v data then (0x1A, immRefused i j v data s) else (0, immWrite i j v data o s)
  | .per => (0, perWrite w.reader i j v o s)
  | .cfg => stage w k (if o.size = 0 then .blob data else .num v) s

/-- A write's access (checks 1 to 3 of R479): 0 where it passes. -/
def accessStatus (w : Sender) (k : Nat) : Nat :=
  match rowOf k with
  | none => 0x10
  | some o => if o.kind = .ro then 0x12 else if !w.writes o.right then 0x11 else 0

/-- A whole value written to an object (R479): its status. -/
def writeObj (w : Sender) (k : Nat) (data : List Nat) (s : State) : Nat × State :=
  let a := accessStatus w k
  match rowOf k with
  | none => (0x10, s)
  | some o => if a ≠ 0 then (a, s) else if badSize (k / 256) (k % 256) o data then (0x13, s) else writeChecked w k o data s

/-! ### Segmented writes (R426) -/

/-- The write in progress of a reader on an object: one without a segment for 10 s is discarded. -/
def segOf (s : State) (r k : Nat) : Option SegWrite :=
  (Store.find k (s.reader r).writes).bind (fun q => if q.at_ + secFs 10 ≤ s.now then none else some q)
/-- A write in progress kept, or dropped (none). -/
def putSeg (r k : Nat) (q : Option SegWrite) (s : State) : State :=
  let rd := s.reader r
  let l := rd.writes.filter (fun e => e.1 != k)
  match q with
  | none => s.setReader r { rd with writes := l }
  | some d => s.setReader r { rd with writes := Store.put (⟨[256], 0⟩ : SegWrite) k d l }

/-- One item of a BLOB (R426). -/
def writeSegment (w : Sender) (k first last off : Nat) (o : ObjRow) (data : List Nat) (s : State) : Nat × State :=
  let q := segOf s w.reader k
  let drop := putSeg w.reader k none s
  let refusal := if o.kind = .cfg then setRefusal w s else 0
  let start := if first = 1 then (if q.isNone && off == 0 then some [] else none)
    else match q with
      | some d => if d.data.length = off then some d.data else none
      | none => none
  match start with
  | none => (0x13, drop)
  | some d =>
    let all := d ++ data
    if decide (o.len < all.length) || (last == 1 && badSize (k / 256) (k % 256) o all) then (0x13, drop)
    else if refusal ≠ 0 then (refusal, drop)
    else if last = 1 then writeChecked w k o all drop
    else (0, (putSeg w.reader k (some ⟨all, s.now⟩) s).modSet (fun q =>
      if o.kind = .cfg && q.owner == w.owner then { q with last := s.now } else q))

/-- A WRITE item (R426, R435): `flags` as in the item header. Flags and Offset serve only STR and BLOB. -/
def writeItem (w : Sender) (k flags off : Nat) (data : List Nat) (s : State) : Nat × State :=
  match rowOf k with
  | none => (0x10, s)
  | some o =>
    let a := accessStatus w k
    if a ≠ 0 then (a, s)
    else if flags % 64 ≠ 0 then (0x13, s)
    else if o.size ≠ 0 then writeObj w k data s
    else writeSegment w k (bits flags 7 7) (bits flags 6 6) off o data s

end Sys2Proof.Machine
end

