-- ==== Sys2Proof/Machine/Network.lean ====
section
/-!
DEFINITION. Messages of the Salval Object Transport (R434 to R449): their checks, sessions, keys, reads and writes of items, notification;
the boot port (R441). COMMIT_COMPLETE stands in Commit.lean.
-/
namespace Sys2Proof.Machine

/-! ### Counters, ports and keys -/

/-- SecurityCounters (Table 16.9): 0 AuthFail, 1 Replay, 2 Malformed, 3 QueueDrop, 4 DuplicatesDiscarded, 5 Blocked; saturating. -/
def secInc (n : Nat) (s : State) : State :=
  let b := s.blob 0x1030 7
  s.setBlob 0x1030 7 (patch b (4 * n) (beBytes 4 (satInc 32 (field b (4 * n) 4))))

/-- KeyState is LOADED (R442). -/
def keysLoaded (s : State) : Bool := s.num 0x1000 6 == 1

/-- The role key of a role. -/
def roleKey (s : State) (r : Nat) : List Nat := s.blob 0x1030 (r + 1)

/-- Messages from the IPv4 address are discarded unprocessed (R443): the boot port is never blocked. -/
def blockedNow (s : State) (m : Msg) : Bool := m.path != 1 && s.net.blocked.any (fun b => b.1 == m.ip && decide (s.now < b.2))

/-! ### Header fields (Table 16.5) -/

def mType (m : Msg) : Nat := nth 0 m.data 3
def mSid (m : Msg) : Nat := field m.data 4 2
def mBodyLen (m : Msg) : Nat := field m.data 6 2
def mSeq (m : Msg) : Nat := field m.data 8 4
def mTime (m : Msg) : Nat := field m.data 12 12
def mBody (m : Msg) : List Nat := slice m.data 28 (mBodyLen m)
def mMac (m : Msg) : List Nat := slice m.data (28 + mBodyLen m) 32

/-- The most bytes of a message on a path (R434). -/
def sizeMax (path : Nat) : Nat := if path = 1 then 4096 else 1472

/-- Magic, Version, BodyLength and size are right (R434). -/
def headerOk (m : Msg) : Bool :=
  decide (60 ≤ m.data.length) && decide (m.data.length ≤ sizeMax m.path) && field m.data 0 2 == 0x5356 && nth 0 m.data 2 == 1
    && m.data.length == 60 + mBodyLen m

/-- The Mac verifies under a key. -/
def macOk (key : List Nat) (m : Msg) : Bool := mMac m == hmac key (m.data.take (28 + mBodyLen m))

/-! ### Items (R435) -/

/-- An item of a request: its object, Flags, Offset, Length and data. -/
structure Item where
  obj : Nat
  flags : Nat
  off : Nat
  len : Nat
  data : List Nat
  deriving DecidableEq, Repr

/-- `n` items of a body, all of it; in a WRITE each with its data. -/
def parseItems (write : Bool) : Nat → List Nat → Option (List Item)
  | 0, b => if b.isEmpty then some [] else none
  | n + 1, b =>
    let len := field b 8 2
    let used := 10 + (if write then len else 0)
    if b.length < used then none
    else (parseItems write n (b.drop used)).map (fun l =>
      ⟨field b 0 3, nth 0 b 3, field b 4 4, len, if write then slice b 10 len else []⟩ :: l)

/-- The items of a READ or WRITE. -/
def itemsOf (m : Msg) : Option (List Item) :=
  let b := mBody m
  if b.length < 2 then none else parseItems (mType m == 6) (field b 0 2) (b.drop 2)

/-- The body of a request is laid out as its Type says (Table 16.6). -/
def bodyOk (m : Msg) : Bool :=
  match mType m with
  | 1 => mBodyLen m == 0
  | 2 => mBodyLen m == 221
  | 3 => mBodyLen m == 20
  | 4 => mBodyLen m == 0
  | 5 => (itemsOf m).isSome
  | 6 => (itemsOf m).isSome
  | 7 => mBodyLen m == 0
  | _ => false

/-- An item of a response. -/
def itemBytes (obj status off : Nat) (data : List Nat) : List Nat :=
  beBytes 3 obj ++ [status] ++ beBytes 4 off ++ beBytes 2 data.length ++ data

/-- The Status of a response: that of the first item that did not succeed. -/
def firstFailure (l : List Nat) : Nat := (l.find? (fun c => decide (0x10 ≤ c))).getD 0

/-- The body of a response to a READ or WRITE (Table 16.6). -/
def itemsBody (items : List (List Nat)) : List Nat :=
  [firstFailure (items.map (fun b => nth 0 b 3))] ++ beBytes 2 items.length ++ items.flatten

/-! ### Reads (R427) -/

/-- A snapshot of a reader kept, or released (none). -/
def putSnap (r k : Nat) (q : Option Snap) (s : State) : State :=
  let rd := s.reader r
  let l := rd.snaps.filter (fun e => e.1 != k)
  match q with
  | none => s.setReader r { rd with snaps := l }
  | some d => s.setReader r { rd with snaps := Store.put (⟨[256], 0⟩ : Snap) k d l }

/-- What a snapshot returns from an offset, at most `n` bytes: read to its last byte, it is released. -/
def serveSnap (r k off n : Nat) (b : List Nat) (s : State) : Nat × List Nat × State :=
  let d := slice b off n
  if b.length ≤ off + n then (0, d, putSnap r k none s) else (1, d, putSnap r k (some ⟨b, s.now⟩) s)

/-- A READ item (R427, R435, R479), its data within `room` bytes: status, data. -/
def readItem (r room : Nat) (q : Item) (s : State) : Nat × List Nat × State :=
  match rowOf q.obj with
  | none => (0x10, [], s)
  | some o =>
    let n := min q.len room
    if !roleReads o.right then (0x11, [], s)
    else if o.size ≠ 0 then
      let (b, s) := readBytes r q.obj s
      (if b.length ≤ n then 0 else 1, b.take n, s)
    else if q.off = 0 then
      let (b, s) := readBytes r q.obj s
      serveSnap r q.obj 0 n b s
    else match Store.find q.obj (s.reader r).snaps with
      | some d =>
        if d.at_ + secFs 1 ≤ s.now then (0x16, [], putSnap r q.obj none s) else serveSnap r q.obj q.off n d.data s
      | none => (0x16, [], s)

/-- The items of a READ in order, within `room` bytes in all. -/
def readItems (r : Nat) : List Item → Nat → State → List (List Nat) × State
  | [], _, s => ([], s)
  | q :: l, room, s =>
    let (st, d, s) := readItem r (room - 10 * (l.length + 1)) q s
    let (rest, s) := readItems r l (room - 10 - d.length) s
    (itemBytes q.obj st q.off d :: rest, s)

/-! ### Writes (R435) -/

/-- An item carries COMMIT (Table 16.2). -/
def isCommit (q : Item) : Bool := q.obj == 0x105001 && bits (beNat q.data) 63 60 == 2 && q.data.length == 8

/-- The items of a WRITE in order: their responses, which of them is an accepted COMMIT with its Offset, the state. -/
def writeItems (w : Sender) : List Item → Nat → State → List (List Nat) × Option (Nat × Nat) × State
  | [], _, s => ([], none, s)
  | q :: l, n, s =>
    let (st, s) := writeItem w q.obj q.flags q.off q.data s
    let (rest, c, s) := writeItems w l (n + 1) s
    (itemBytes q.obj st q.off [] :: rest, if isCommit q && st == 0 then some (n, q.off) else c, s)

/-! ### Responses (Table 16.6) -/

/-- Where a message without a session goes. -/
def noSession (m : Msg) : Nat := 2 ^ 32 * m.path + m.ip

/-- A response without a session and without Mac: to IDENTIFY, KEY_LOAD, and on the boot port before keys are loaded. -/
def answerBare (m : Msg) (body : List Nat) (s : State) : State :=
  s.sendSot 8 (noSession m) (m.path == 1) (sotBytes [] (mType m + 0x80) 0 0 (toT96 s.ridge) (mSeq m) body)

/-- A response in session `sid`; 0 is the boot port's access without a session (R506). -/
def answer (m : Msg) (sid : Nat) (body : List Nat) (s : State) : State :=
  if sid = 0 then answerBare m body s else s.sendSession 8 (mType m + 0x80) sid (mSeq m) body

/-! ### Sessions (R443 to R445) -/

/-- A session closes (R445): 1 CLOSE, 2 idle, 3 key replaced, 4 blocking. -/
def closeSession (way sid : Nat) (s : State) : State :=
  match Store.find sid s.net.sessions with
  | none => s
  | some ses =>
    let s := { s with net := { s.net with sessions := s.net.sessions.filter (fun e => e.1 != sid) } }
    let s := s.setReader (readerOf sid ses) Reader.init
    let drop := fun (st : Stream) => if st.owner = sid then { st with owner := 0 } else st
    let s := forN 8 (fun k s => s.setStream k (drop (s.stream k))) s
    let s := if s.net.openSet.any (fun o => o.owner == sid) then abortOpenSet 2 s else s
    s.raise 227 sid way

/-- A failed check of R443 on the network: the sixteenth within 1 s blocks the address for 10 s and closes its sessions. -/
def countFailure (m : Msg) (s : State) : State :=
  if m.path = 1 then s
  else
    let recent := (s.net.fails ++ [(m.ip, s.now)]).filter (fun f => decide (s.now < f.2 + secFs 1))
    let s := { s with net := { s.net with fails := recent } }
    if (recent.filter (fun f => f.1 == m.ip)).length < 16 then s
    else
      let b := (s.net.blocked.filter (fun b => b.1 != m.ip)) ++ [(m.ip, s.now + secFs 10)]
      let s := { s with net := { s.net with fails := recent.filter (fun f => f.1 != m.ip), blocked := b } }
      let s := (secInc 5 s).raise 235 m.ip
      (s.net.sessions.filter (fun e => e.2.path != 1 && e.2.ip == m.ip)).foldl (fun s e => closeSession 4 e.1 s) s

/-- A message fails its Mac check (R443). -/
def authFail (m : Msg) (s : State) : State := countFailure m ((countEvent 2 0x47 1 0 (secInc 0 s)).raise 224 m.ip (mSid m))

/-- A message fails its sequence or time check (R443). -/
def replayFail (m : Msg) (s : State) : State := countFailure m ((secInc 1 s).raise 225 m.ip (mSid m))

/-- SendTime passes (R443): within ±TimeWindow of ridge time while Synchronised or TimeValid is set. -/
def timeOk (s : State) (m : Msg) : Bool :=
  let w := rns (s.num 0x1030 5 * 1000000)
  let t := ofT96 (mTime m)
  !(s.synced || s.bit 0x7000 5 7) || (decide (t ≤ s.ridge + w) && decide (s.ridge ≤ t + w))

/-- Sequence passes (R443): above H, or from H − 63 on and not accepted before. Bit i of the window: H − i was accepted. -/
def seqOk (ses : Session) (n : Nat) : Bool := decide (ses.high < n) || (decide (ses.high < n + 64) && !ses.window.testBit (ses.high - n))

/-- Sequence `n` is accepted. -/
def takeSeq (now n : Nat) (ses : Session) : Session :=
  let ses := { ses with lastMsg := now }
  if ses.high < n then { ses with high := n, window := (ses.window <<< (n - ses.high) + 1) % 2 ^ 64 }
  else { ses with window := setBit ses.window (ses.high - n) true }

/-- IDENTIFY (R437). -/
def identifyBody (s : State) : List Nat :=
  let item := fun (j : Nat) => itemBytes (0x100000 + j) 0 0 (readBytes 0 (0x100000 + j) s).1
  itemsBody ((List.range 7).map (fun j => item (j + 1)))

/-- The key-encryption key of a KEY_LOAD (R442). -/
def keyEncKey (s : State) (peer : List Nat) : Option (List Nat) :=
  (s.boot.deviceKey.bind (fun d => ecdh d peer)).map (fun z =>
    hkdf32 (beBytes 8 (s.num 0x1000 1)) z [0x53, 0x4F, 0x54, 0x31, 0x20, 0x6B, 0x65, 0x79, 0x20, 0x6C, 0x6F, 0x61, 0x64])

/-- The role keys a KEY_LOAD holds, where it decrypts and verifies. -/
def keysOf (s : State) (m : Msg) : Option (List Nat) :=
  let b := mBody m
  (keyEncKey s (b.take 65)).bind (fun k => gcmOpen k (slice b 65 12) (b.drop 77))

/-- The boot port's access without a session ends (R506). -/
def endBootAccess (s : State) : State :=
  let s := if s.net.openSet.any (fun o => o.owner == 0xFF) then abortOpenSet 2 s else s
  s.setReader 0 { s.reader 0 with snaps := [], writes := [] }

/-- KEY_LOAD (R442): while KeyState is EMPTY, a load that verifies sets the keys; every other is discarded. -/
def takeKeyLoad (m : Msg) (s : State) : State :=
  if keysLoaded s then s
  else match keysOf s m with
    | none => s
    | some b =>
      let s := forN 4 (fun r s => s.setBlob 0x1030 (r + 1) (slice b (32 * r) 32)) s
      let s := (s.setNum 0x1000 6 1).setNum 0x1000 7 (m.path <<< 56 ||| m.ip)
      let s := endBootAccess s
      answerBare m [0] (s.raise 228 m.path m.ip)

/-- The least SessionId that is free, of 1 to 16. -/
def freeSid (s : State) : Option Nat := ((List.range 16).map (· + 1)).find? (fun n => (Store.find n s.net.sessions).isNone)

/-- An accepted OPEN (R444): the session, its key, and the answer with a DeviceNonce that is a free value. -/
def openWith (m : Msg) (sid : Nat) (s : State) : State :=
  let b := mBody m
  let role := nth 0 b 0
  let host := slice b 4 16
  let dev := beBytes 16 (Config.freeWord s.freeCount % 2 ^ 128)
  let s := s.nextFree
  let key := hmac (roleKey s role) ([0x53, 0x4F, 0x54, 0x31] ++ host ++ dev ++ beBytes 2 sid)
  let ses : Session := ⟨role, m.path, m.ip, m.udp, key, 0, 1, s.now, 0⟩
  let s := { s with net := { s.net with
    sessions := Store.put Session.init sid ses s.net.sessions, nonces := (beNat host :: s.net.nonces).take 64 } }
  let s := s.sendSot 8 (noSession m) (m.path == 1)
    (sotBytes (roleKey s role) 0x83 sid 0 (toT96 s.ridge) (mSeq m) (0 :: dev))
  s.raise 226 sid role

/-- OPEN (R444): whether it failed a check of R443, and the state. -/
def takeOpen (m : Msg) (s : State) : Bool × State :=
  let role := nth 0 (mBody m) 0
  if !keysLoaded s then (false, s)
  else if 3 < role || !macOk (roleKey s role) m then (true, authFail m s)
  else if !timeOk s m then (true, replayFail m s)
  else if s.net.nonces.contains (beNat (slice (mBody m) 4 16)) || (m.path == 1 && (s.sessionOf 0).isSome) then (false, s)
  else match freeSid s with
    | none => (false, s)
    | some sid => (false, openWith m sid s)

/-- The effect of a request of a session, or of the boot port's access (`sid` 0), after its checks. -/
def serve (m : Msg) (w : Sender) (sid : Nat) (s : State) : State :=
  let items := (itemsOf m).getD []
  match mType m with
  | 4 => closeSession 1 sid (answer m sid [0] s)
  | 5 =>
    let (l, s) := readItems w.reader items (sizeMax m.path - 63) s
    answer m sid (itemsBody l) s
  | 6 =>
    let (l, c, s) := writeItems w items 0 s
    match c with
    | some (ix, off) => s.modSet (fun o => { o with reply := some ⟨w.owner, mSeq m, l, ix, off, none⟩ })
    | none => answer m sid (itemsBody l) s
  | 7 => answer m sid [0] s
  | _ => s

/-- A message of a session (R443): whether it failed a check, and the state. -/
def takeSession (m : Msg) (s : State) : Bool × State :=
  match Store.find (mSid m) s.net.sessions with
  | none => (true, authFail m s)
  | some ses =>
    if !macOk ses.key m then (true, authFail m s)
    else if !seqOk ses (mSeq m) || !timeOk s m then (true, replayFail m s)
    else
      let s := { s with net := { s.net with sessions := Store.put Session.init (mSid m) (takeSeq s.now (mSeq m) ses) s.net.sessions } }
      (false, serve m ⟨readerOf (mSid m) ses, mSid m, some ses.role⟩ (mSid m) s)

/-- The duplicate entry of a frame is released (R440). -/
def releaseSeen (d : Nat × Nat) (s : State) : State :=
  { s with net := { s.net with dups := s.net.dups.filter (fun e => !(e.1 == d.1 && e.2.1 == d.2)) } }

/-- A message is processed (R434, R436, R442): whether it failed authentication or the replay check, and the state. -/
def takeMessage (m : Msg) (s : State) : Bool × State :=
  if blockedNow s m then (false, s)
  else if !headerOk m || !bodyOk m then (false, secInc 2 s)
  else match mType m with
    | 1 => (false, answerBare m (identifyBody s) s)
    | 2 => (false, takeKeyLoad m s)
    | 3 => takeOpen m s
    | _ =>
      if keysLoaded s then takeSession m s
      else if m.path = 1 then (false, serve m ⟨0, 0xFF, none⟩ 0 s)
      else (false, s)

/-- A message is processed at a receipt of its own (R436): the present ridge time, or one ridge clock after the receipt before. -/
def receive (m : Msg) (s : State) : Bool × State :=
  let r := max s.ridge s.net.nextReceipt
  let p := takeMessage m { s with ridge := r, net := { s.net with nextReceipt := r + s.num 0x7000 2 } }
  (p.1, { p.2 with ridge := p.2.ridge - (r - s.ridge) })

/-- A message arrives (R436, R470), with the frame that brought it: on a port that is served; while the island restarts it waits, with at
most 32. -/
def messageIn (m : Msg) (frame : Option (Nat × Nat)) (s : State) : Bool × State :=
  if !s.boot.serving || (m.path != 1 && !portServed s (m.path - 2)) then (false, s)
  else if s.boot.islandDown then
    if s.net.queue.length < 32 then (false, { s with net := { s.net with queue := s.net.queue ++ [(m, frame)] } }) else (false, secInc 3 s)
  else receive m s

/-- A message that came in a frame: where it fails, the frame's duplicate entry is released (R440). -/
def messageOf (m : Msg) (frame : Option (Nat × Nat)) (s : State) : State :=
  let (failed, s) := messageIn m frame s
  match frame with
  | some d => if failed then releaseSeen d s else s
  | none => s

/-- A message whose row names its Type. -/
def typedIn (type : Nat) (m : Msg) (s : State) : State := if mType m = type then (messageIn m none s).2 else s

/-- IDENTIFY (R437). -/
def execIdentify (t : Nat) (msg : Msg) (s : State) : Host.Outcome State Fault Refusal :=
  run (.identify t msg) (typedIn 1 msg) s

/-- KEY_LOAD (R442). -/
def execKeyLoad (t : Nat) (msg : Msg) (s : State) : Host.Outcome State Fault Refusal :=
  run (.keyLoad t msg) (typedIn 2 msg) s

/-- OPEN (R444). -/
def execOpenSession (t : Nat) (msg : Msg) (s : State) : Host.Outcome State Fault Refusal :=
  run (.openSession t msg) (typedIn 3 msg) s

/-- CLOSE (R445). -/
def execCloseSession (t : Nat) (msg : Msg) (s : State) : Host.Outcome State Fault Refusal :=
  run (.closeSession t msg) (typedIn 4 msg) s

/-- READ (R427, R435, R436). -/
def execReadObjects (t : Nat) (msg : Msg) (s : State) : Host.Outcome State Fault Refusal :=
  run (.readObjects t msg) (typedIn 5 msg) s

/-- WRITE (R424, R426, R435, R436). -/
def execWriteObjects (t : Nat) (msg : Msg) (s : State) : Host.Outcome State Fault Refusal :=
  run (.writeObjects t msg) (typedIn 6 msg) s

/-- KEEPALIVE (R445). -/
def execKeepalive (t : Nat) (msg : Msg) (s : State) : Host.Outcome State Fault Refusal :=
  run (.keepalive t msg) (typedIn 7 msg) s

/-- ISLAND_RESTART_DONE (R470): the messages that waited are processed in their order. -/
def execIslandRestartDone (t : Nat) (s : State) : Host.Outcome State Fault Refusal :=
  run (.islandRestartDone t) (fun s =>
    if s.boot.islandDown then
      let l := s.net.queue
      l.foldl (fun s m => messageOf m.1 m.2 s) { s with boot := { s.boot with islandDown := false }, net := { s.net with queue := [] } }
    else s) s

/-- SESSION_IDLE_TIMEOUT (R445). -/
def execSessionIdleTimeout (t sid : Nat) (s : State) : Host.Outcome State Fault Refusal :=
  run (.sessionIdleTimeout t sid) (fun s =>
    match Store.find sid s.net.sessions with
    | some ses => if ses.lastMsg + secFs (s.num 0x1030 6) ≤ s.now then closeSession 2 sid s else s
    | none => s) s

/-- SOURCE_BLOCK_END (R443). -/
def execSourceBlockEnd (t ip : Nat) (s : State) : Host.Outcome State Fault Refusal :=
  run (.sourceBlockEnd t ip) (fun s =>
    { s with net := { s.net with blocked := s.net.blocked.filter (fun b => !(b.1 == ip && decide (b.2 ≤ s.now))) } }) s

/-! ### The boot port (R441) -/

/-- Busy: a SEND would be refused, with 32 messages waiting or before the firmware serves SOT; and while a block is absorbed (Table 17.3). -/
def bootBusy (s : State) : Bool := decide (32 ≤ s.net.queue.length) || !s.boot.serving || decide (s.now < s.boot.absorbTo)

/-- The status byte, with a response that waits for FETCH or for LOADER_STATUS. -/
def bootByte (s : State) : Nat :=
  (!s.net.bootQueue.isEmpty || s.boot.unread).toNat <<< 7 ||| (bootBusy s).toNat <<< 6 ||| (!keysLoaded s).toNat <<< 5

/-- SEND (R441): the status byte goes out in its first byte; it is discarded while Busy, or where it ends before its length. -/
def execBootSend (t len : Nat) (msg : Msg) (s : State) : Host.Outcome State Fault Refusal :=
  run (.bootSend t len msg) (fun s =>
    if s.stage < 2 then s
    else
      let s := s.emit 6 0 [bootByte s]
      if bootBusy s || decide (msg.data.length < len) then s
      else (messageIn { path := 1, ip := 0, udp := 0, data := msg.data.take len } none s).2) s

/-- FETCH (R441): the status byte, a length and the oldest waiting message; served from WAIT_IMAGE on (Table 17.1). -/
def execBootFetch (t : Nat) (s : State) : Host.Outcome State Fault Refusal :=
  run (.bootFetch t) (fun s =>
    if s.stage < 2 then s
    else match s.net.bootQueue with
      | [] => s.emit 6 0 (bootByte s :: beBytes 2 0)
      | b :: l => { s.emit 6 0 (bootByte s :: beBytes 2 b.length ++ b) with net := { s.net with bootQueue := l } }) s

/-- STATUS (R441). -/
def execBootStatus (t : Nat) (s : State) : Host.Outcome State Fault Refusal :=
  run (.bootStatus t) (fun s => if s.stage < 2 then s else s.emit 6 0 [bootByte s]) s

/-! ### Rows of single writes (R423, R428, R430, R432) -/

/-- The sender that a reader is: the boot port's access or session, a network session; firmware sends no writes of this kind. -/
def senderOf (s : State) (r : Nat) : Option Sender :=
  if r = 0 && !keysLoaded s then some ⟨0, 0xFF, none⟩
  else (s.sessionOf r).bind (fun sid => (Store.find sid s.net.sessions).map (fun ses => ⟨r, sid, some ses.role⟩))

/-- A write by a reader: it acts for the reader's session, and its status is answered. -/
def writeBy (r : Nat) (f : Sender → State → Nat × State) (s : State) : State :=
  if !hostOk s then s
  else match senderOf s r with
    | none => s
    | some w =>
      let (st, s) := f w s
      s.emit 20 r [st]

/-- A write of SetCommand by a sender: rights, then the command. -/
def setCommandBy (f : Sender → State → Nat × State) (w : Sender) (s : State) : Nat × State :=
  let a := accessStatus w 0x105001
  if a ≠ 0 then (a, s) else f w s

/-- BEGIN (R428). -/
def execBeginSet (t reader setId : Nat) (s : State) : Host.Outcome State Fault Refusal :=
  run (.beginSet t reader setId) (writeBy reader (setCommandBy (fun w s => beginSet w setId s))) s

/-- A COMMIT by a reader: refused it is answered at once, and else when the checks have completed (Table 16.2). -/
def commitBy (r : Nat) (s : State) : State :=
  if !hostOk s then s
  else match senderOf s r with
    | none => s
    | some w =>
      let (st, s) := setCommandBy commitSet w s
      if st = 0 then s.modSet (fun o => { o with reply := some ⟨w.owner, 0, [], 0, 0, some r⟩ }) else s.emit 20 r [st]

/-- COMMIT (R430). -/
def execCommitSet (t reader : Nat) (s : State) : Host.Outcome State Fault Refusal := run (.commitSet t reader) (commitBy reader) s

/-- ABORT (R432). -/
def execAbortSet (t reader : Nat) (s : State) : Host.Outcome State Fault Refusal :=
  run (.abortSet t reader) (writeBy reader (setCommandBy abortSet)) s

/-- SET_IDLE_TIMEOUT (R432). -/
def execSetIdleTimeout (t : Nat) (s : State) : Host.Outcome State Fault Refusal :=
  run (.setIdleTimeout t) (fun s =>
    match s.net.openSet with
    | some o => if !o.checking && decide (o.last + secFs (s.num 0x1050 8) ≤ s.now) then abortOpenSet 3 s else s
    | none => s) s

/-- The kind of an object, RO where there is none. -/
def kindOf (k : Nat) : Kind := match rowOf k with
  | some o => o.kind
  | none => .ro

/-- CONFIG_OBJECT_WRITE (R428, R429): a configuration object. -/
def execConfigObjectWrite (t reader obj : Nat) (data : List Nat) (s : State) : Host.Outcome State Fault Refusal :=
  run (.configObjectWrite t reader obj data) (fun s =>
    if kindOf obj = .cfg then writeBy reader (fun w s => writeObj w obj data s) s else s) s

/-- OBJECT_WRITE (R423, R424): every other object; COMMIT and the other SetCommands have rows of their own. -/
def execObjectWrite (t reader obj : Nat) (data : List Nat) (s : State) : Host.Outcome State Fault Refusal :=
  run (.objectWrite t reader obj data) (fun s =>
    if kindOf obj = .cfg || obj == 0x105001 then s else writeBy reader (fun w s => writeObj w obj data s) s) s

/-- SEGMENTED_WRITE_TIMEOUT (R426). -/
def execSegmentedWriteTimeout (t reader obj : Nat) (s : State) : Host.Outcome State Fault Refusal :=
  run (.segmentedWriteTimeout t reader obj) (fun s =>
    match Store.find obj (s.reader reader).writes with
    | some q => if q.at_ + secFs 10 ≤ s.now then putSeg reader obj none s else s
    | none => s) s

/-- SNAPSHOT_TIMEOUT (R427). -/
def execSnapshotTimeout (t reader obj : Nat) (s : State) : Host.Outcome State Fault Refusal :=
  run (.snapshotTimeout t reader obj) (fun s =>
    match Store.find obj (s.reader reader).snaps with
    | some q => if q.at_ + secFs 1 ≤ s.now then putSnap reader obj none s else s
    | none => s) s

/-- PENDING_CLEAR (R446): exactly 32 bytes. -/
def execPendingClear (t : Nat) (data : List Nat) (s : State) : Host.Outcome State Fault Refusal :=
  run (.pendingClear t data) (fun s => if hostOk s && data.length == 32 then pendingClear data s else s) s

/-- COUNT_CLEAR (R446): exactly 32 bytes. -/
def execCountClear (t : Nat) (data : List Nat) (s : State) : Host.Outcome State Fault Refusal :=
  run (.countClear t data) (fun s => if hostOk s && data.length == 32 then countClear data s else s) s

/-! ### Notification (R448) -/

/-- A NOTIFY entry as it is sent. -/
def noteBytes (s : State) (n : Note) : List Nat :=
  [n.ev, 0] ++ beBytes 2 n.since ++ slice (s.blob 0x1200 2) (2 * n.ev) 2 ++ [0, 0] ++ beBytes 12 (toT96 n.first)
    ++ slice (s.blob 0x1200 7) (24 * n.ev + 12) 12

/-- Lists of at most 40 entries, by fuel. -/
def chunks40 : Nat → List Note → List (List Note)
  | 0, _ => []
  | f + 1, l => if l.isEmpty then [] else l.take 40 :: chunks40 f (l.drop 40)

/-- NOTIFY_HOLDOFF_EXPIRY (R448). -/
def execNotifyHoldoffExpiry (t reader : Nat) (s : State) : Host.Outcome State Fault Refusal :=
  run (.notifyHoldoffExpiry t reader) (fun s =>
    let rd := s.reader reader
    match rd.holdoff, s.sessionOf reader with
    | some due, some sid =>
      if !hostOk s || decide (s.now < due) then s
      else
        let s := (chunks40 256 rd.notes).foldl (fun s l =>
          s.sendSession 8 0xA0 sid 0 (beBytes 2 l.length ++ l.flatMap (noteBytes s))) s
        s.setReader reader { s.reader reader with notes := [], holdoff := none }
    | _, _ => s) s

end Sys2Proof.Machine
end

