-- ==== Sys2Proof/Machine/Checks.lean ====
section
/-!
DEFINITION. The candidate of a commit (R430), and the checks of the profile, measurement, arc and chord (Tables 01.9, 02.18, 03.14).
A check answers the object concerned where its condition holds; every table is judged for every set that writes something (R430), and
what a condition looks at beside the set is in log entry 12.
-/
namespace Sys2Proof.Machine

/-- A commit under judgement: the configuration in effect, the configuration with the staged values in place, and the staged values as
they were written. -/
structure Cand where
  old : State
  new : State
  raw : Store Val

/-- A check: the object concerned where the set is rejected. -/
abbrev Check := Cand → Option Nat

/-- The key of an object. -/
def keyOf (i j : Nat) : Nat := i * 256 + j

/-- The set writes an object. -/
def Cand.has (c : Cand) (i j : Nat) : Bool := c.raw.any (fun e => e.1 == keyOf i j)
/-- The set writes a record of a range. -/
def Cand.wr (c : Cand) (lo hi : Nat) : Bool := c.raw.any (fun e => decide (lo ≤ e.1 / 256) && decide (e.1 / 256 ≤ hi))
/-- The first object written in a range of records for which a condition holds. -/
def Cand.first (c : Cand) (lo hi : Nat) (p : Nat → Nat → Bool) : Option Nat :=
  (c.raw.find? (fun e => decide (lo ≤ e.1 / 256) && decide (e.1 / 256 ≤ hi) && p (e.1 / 256) (e.1 % 256))).map (fun e => e.1)
/-- The first object written that the set changes, in a range of records. -/
def Cand.changed (c : Cand) (lo hi : Nat) (p : Nat → Nat → Bool) : Option Nat :=
  c.first lo hi (fun i j => p i j && c.new.val (keyOf i j) != c.old.val (keyOf i j))
/-- The number written, with the bits that the object does not hold. -/
def Cand.rawNum (c : Cand) (k : Nat) : Nat := match Store.find k c.raw with
  | some (.num n) => n
  | _ => 0
/-- The bits of a number written that are reserved. -/
def Cand.reserved (c : Cand) (i j : Nat) : Bool := match rowOf (keyOf i j) with
  | some o => o.size != 0 && (c.rawNum (keyOf i j)) &&& o.rw != c.rawNum (keyOf i j)
  | none => false

/-- An object concerned where a condition holds. -/
def failIf (k : Nat) (b : Bool) : Option Nat := if b then some k else none
/-- The first object concerned of a list of candidates. -/
def failAny {α : Type} (l : List α) (k : α → Nat) (p : α → Bool) : Option Nat := (l.find? p).map k

/-- The first of several conditions. -/
def orElse (l : List (Option Nat)) : Option Nat := l.findSome? id

/-! ### Profile (Table 01.9) -/

/-- The sides that run a graph under the candidate's profile (R123, R500): the profile's, without a FAILED one. -/
def Cand.sides (c : Cand) : List Side :=
  (if c.new.profile = 3 then [sideOf (c.new.fld 0x6000 1 4 4)] else [.A, .B]).filter (fun x => c.new.sideState x != 4)

/-- A schedule's fast period in lane clocks, from the committed period of its anchor's master (R107). -/
def schedPeriod (s : State) (sch : List Nat) : Nat :=
  (if schVertexMode sch = 1 then 2 else 1) * s.num (0x5120 + s.masterOf (schAnchor sch)) 3

def slotIx (k : Nat) : Nat := 0x3100 + k
/-- The slots of the candidate that hold both tables. -/
def heldSlots (s : State) : List Nat := [0, 1].filter (fun k => !(s.blob (0x3100 + k) 1).isEmpty && !(s.blob (0x3100 + k) 2).isEmpty)

/-- The set writes a slot's tables. -/
def Cand.tables (c : Cand) (k : Nat) : Bool := c.has (slotIx k) 1 || c.has (slotIx k) 2
/-- The set writes instance records of a slot. -/
def Cand.records (c : Cand) (k : Nat) : Bool := c.wr (0x3400 + 0x400 * k) (0x37FF + 0x400 * k)
/-- The slots that "the graph set" means: the active one, or those that hold tables while none is active (log entry 12). -/
def graphSet (s : State) : List Nat := match s.activeSlot with
  | some k => (heldSlots s).filter (· == k)
  | none => heldSlots s

/-! ### The format of tables (R124 to R126) -/

/-- Bytes [off, length) are zero. -/
def zeroFrom (off : Nat) (b : List Nat) : Bool := (b.drop off).all (· == 0)

/-- Kind, Flags and the reserved bytes of a graph entry. -/
def graphEntryBad (e : GEntry) : Bool :=
  let flags := nth 0 e 1
  match gKind e with
  | 1 => decide (1 < flags) || !zeroFrom 8 e
  | 2 => flags != 0 || !zeroFrom 7 e
  | 3 => flags != 0 || !zeroFrom 9 e
  | 4 => flags != 0 || !zeroFrom 9 e
  | 5 => flags != 0 || !zeroFrom 8 e
  | _ => true

/-- EntryCount lies from 1 to 8192 and gives the length of the table. -/
def countBad (n h size : Nat) (b : List Nat) : Bool := n == 0 || decide (8192 < n) || b.length != h + size * n

def graphFormatBad (b : List Nat) : Bool :=
  field b 0 4 != 0x47540001 || countBad (field b 8 2) 16 32 b || field b 10 2 != 0
    || field b 12 4 != crc32 (b.take 12 ++ b.drop 16) || (graphEntries b).any graphEntryBad

def schedFormatBad (b : List Nat) : Bool :=
  field b 0 4 != 0x53430001 || countBad (field b 4 2) 32 16 b || !(slice b 15 13).all (· == 0)
    || field b 28 4 != crc32 (b.take 28 ++ b.drop 32) || (schedEntries b).any (fun e => nth 0 e 15 != 0)
    || decide (7 < schAnchor b) || decide (1 < schVertexMode b) || decide (schCompare b < 68)
    || (slice b 12 3).any (· == 0)

/-- The schedules of the set (R34): those of slots whose tables it writes and of the graph set, where both tables are well formed. -/
def Cand.scheds (c : Cand) : List Nat :=
  [0, 1].filter (fun k => (c.tables k || (graphSet c.new).contains k)
    && !graphFormatBad (c.new.blob (slotIx k) 1) && !schedFormatBad (c.new.blob (slotIx k) 2))

/-- An entry names a joist or logical lane that is not offered on a side (R121). -/
def laneMissing (s : State) (x : Side) (e : SEntry) : Bool := decide (lanesOffered s (sideIx x) (seJoist e) ≤ seLane e)

def profileCode : Check := fun c =>
  failIf 0x600001 (decide (4 ≤ c.new.fld 0x6000 1 2 0) || c.new.fld 0x6000 1 9 8 == 0 || c.new.fld 0x6000 1 9 8 == 3)
def profileBays : Check := fun c =>
  let p := c.new.fld 0x6000 1 2 0
  let b := c.new.fld 0x6000 1 9 8
  failIf 0x600001 (((p == 0 || p == 2) && b == 1) || (p == 1 && b == 2))
def profileSide : Check := fun c =>
  failIf 0x600001 (c.new.fld 0x6000 1 2 0 == 3 && unitFaulty c.new 7 (c.new.fld 0x6000 1 4 4) 0 0)
def profileRate : Check := fun c =>
  failIf 0x600001 (c.new.fld 0x6000 2 9 8 == 1 && c.scheds.any (fun k => decide (schedPeriod c.new (slotSched c.new k) < 4000)))
/-- A set that writes ProfileSelect (R34); the places of the entries of a slot that a set writes are R123's. -/
def profileLanes : Check := fun c =>
  failIf 0x600001 (c.has 0x6000 1 && c.scheds.any (fun k => (schedEntries (slotSched c.new k)).any (fun e =>
    c.sides.any (fun x =>
      (x == .B || !((instEntry (slotGraph c.new k) (seKey e)).any gExtended)) && laneMissing c.new x e))))
def profileState : Check := fun c =>
  failIf 0x600001 (!c.old.stopped && (c.new.fld 0x6000 1 2 0 != c.old.fld 0x6000 2 2 0 || c.new.fld 0x6000 1 9 8 != c.old.fld 0x6000 2 9 8))

/-- Table 01.9 (R34). -/
def table019 : List (String × Check) :=
  [("PROFILE_CODE", profileCode), ("PROFILE_BAYS", profileBays), ("PROFILE_SIDE", profileSide), ("PROFILE_RATE", profileRate),
   ("PROFILE_LANES", profileLanes), ("PROFILE_STATE", profileState)]

/-! ### Measurement (Table 02.18) -/

/-- A value stated in chapter 02 as rejected. -/
def measBad (s : State) (i j : Nat) : Bool :=
  let f := fun (hi lo : Nat) => s.fld i j hi lo
  let v := s.num i j
  if i = 0x2001 then decide (2 ≤ f 30 29) || decide (f 14 0 < 2000) || decide (25000 < f 14 0)
  else if 0x2200 ≤ i && i ≤ 0x227F then
    if j ≤ 0x80 then decide (sx 32 v < -0x800000) || decide (0x7FFFFF < sx 32 v)
    else if j = 0x81 then v == 0 || decide (128 < v) else false
  else if 0x2100 ≤ i && i ≤ 0x213F then
    match j with
    | 2 => f 13 12 == 3 || f 11 9 == 0 || decide (5 < f 11 9) || decide (f 8 0 < 4) || decide (256 < f 8 0)
    | 3 => decide (f 23 0 < 0x800000)
    | 5 => f 15 14 == 3 || decide (f 12 8 < 6) || decide (24 < f 12 8)
    | 7 => f 31 30 == 3 || (decide (1 ≤ f 15 0) && decide (f 15 0 ≤ 15))
    | 0xA => decide (3 < v)
    | _ => false
  else false

/-- A ChannelMap's Enable. -/
def mapEnabled (s : State) (c : Nat) : Bool := s.bit (0x2100 + c) 1 15
def channels : List Nat := List.range 64

/-- Sills in service under the profile that the set puts in effect. -/
def sillDies (c : Cand) : List Nat := c.sides.map sideIx

/-- The FIR load of a channel is `larger TapCount × FIR rate`; summed as a fraction over 10^3/(FIR periods of the channel) (R52). -/
def firLoad (s : State) : Nat × Nat :=
  (channels.filter (mapEnabled s)).foldl (fun (a : Nat × Nat) c =>
    let n := max (tapCount s c 0) (tapCount s c 1) * modKHz s (chanGroup c)
    let d := firPeriods s c
    (a.1 * d + n * a.2, a.2 * d)) (0, 1)

def measCode : Check := fun c => c.first 0x2001 0x227F (measBad c.new)
def measSpare : Check := fun c =>
  failAny channels (fun n => keyOf (0x2100 + n) 1) (fun n => mapEnabled c.new n && c.new.bit (0x2100 + n) 1 0
    && (List.range n).any (fun m => m / 8 == n / 8 && mapEnabled c.new m && c.new.bit (0x2100 + m) 1 0))
def measInputBad : Check := fun c =>
  failAny channels (fun n => keyOf (0x2100 + n) 1) (fun n => mapEnabled c.new n
    && (sillDies c).any (fun d => unitFaulty c.new 5 d (chanBall c.new n) 0))
def measClock : Check := fun c =>
  failAny channels (fun n => keyOf (0x2100 + n) 1) (fun n => mapEnabled c.new n && !groupEnabled c.new (chanGroup n))
def measFirBudget : Check := fun c =>
  let l := firLoad c.new
  failIf (((c.first 0x2001 0x227F (fun _ _ => true))).getD (keyOf 0x2100 2)) (decide (12800000 * l.2 < l.1))
def measFallback : Check := fun c =>
  failAny channels (fun n => keyOf (0x2100 + n) 7) (fun n =>
    let kind := c.new.fld (0x2100 + n) 7 31 30
    let fb := c.new.fld (0x2100 + n) 7 29 28
    (fb == 3 && kind == 1) || (fb == 2 && kind != 2))
def measEstimate : Check := fun c => c.first 0x2100 0x213F (fun i j => j == 6 && c.old.fld i 5 15 14 == 1)
/-- Bank b of channel n is record 0x2200 + 2 n + b. -/
def coefBankActive : Check := fun c =>
  c.first 0x2200 0x227F (fun i _ => c.old.fld (0x2100 + (i - 0x2200) / 2) 4 0 0 == (i - 0x2200) % 2)
def coefSwapPending : Check := fun c =>
  c.first 0x2200 0x227F (fun i _ => (Store.find (c.old.fld (0x2100 + (i - 0x2200) / 2) 4 15 13) c.old.meas.swaps).isSome)

/-- Table 02.18 (R72). -/
def table0218 : List (String × Check) :=
  [("MEAS_CODE", measCode), ("MEAS_SPARE", measSpare), ("MEAS_INPUT_BAD", measInputBad), ("MEAS_CLOCK", measClock),
   ("MEAS_FIR_BUDGET", measFirBudget), ("MEAS_FALLBACK", measFallback), ("MEAS_ESTIMATE", measEstimate),
   ("COEF_BANK_ACTIVE", coefBankActive), ("COEF_SWAP_PENDING", coefSwapPending)]

/-! ### Arc and chord (Table 03.14) -/

/-- An F32 lies within bounds; a NaN does not. -/
def inF32 (lo hi x : Nat) : Bool := L32.le lo x && L32.le x hi

def arcDomains : List Nat := [0, 1, 2, 3]
def arcIx (d : Nat) : Nat := 0x2500 + d

/-- A domain record that breaks its ranges: 1.0 Hz and 200.0 Hz bound FreqMin and FreqMax. -/
def arcBad (s : State) (d : Nat) : Option Nat :=
  let lo := s.num (arcIx d) 2
  let hi := s.num (arcIx d) 3
  orElse [failIf (keyOf (arcIx d) 1) (decide (arcN s d < 32) || decide (2048 < arcN s d)),
    failIf (keyOf (arcIx d) 2) (!L32.le L32.one lo), failIf (keyOf (arcIx d) 3) (!L32.le hi 0x43480000),
    failIf (keyOf (arcIx d) 2) (!L32.lt lo hi), failIf (keyOf (arcIx d) 4) (!inF32 lo hi (s.num (arcIx d) 4)),
    failIf (keyOf (arcIx d) 5) (decide (s.num (arcIx d) 5 < 10))]

/-- Source or ResyncSource of a domain is one of Table 03.1. -/
def arcUses (s : State) (d src : Nat) : Bool := s.fld (arcIx d) 1 31 30 == src || s.fld (arcIx d) 1 29 28 == src
/-- Some source of a domain is not BYPASS. -/
def arcResamples (s : State) (d : Nat) : Bool := s.fld (arcIx d) 1 31 30 != 3 || s.fld (arcIx d) 1 29 28 != 3

/-- N × FreqMax lies above a rate of num / den samples per second. -/
def arcAbove (s : State) (d num den : Nat) : Bool :=
  Dy.lt (Dy.ofInt num) (Dy.mul (Dy.ofInt ((arcN s d * den : Nat) : Int)) (L32.toDy (s.num (arcIx d) 3)))

/-- A DRIVE entry binds a reference: TargetKind 2 ROTOR, 3 GRID. DESIGN CHOICE (log entry 12): for ARC_NO_REF "the graph set", which the spec
defines nowhere, is every slot that holds tables, the active one or not. -/
def refBound (s : State) (d kind : Nat) : Bool :=
  (heldSlots s).any (fun k => (slotGraph s k).any (fun e => gKind e == 5 && gB5 e == kind && gW6 e == d))

/-- A field of a chord object stated as rejected. -/
def chordBad (s : State) (i j : Nat) : Bool :=
  let f := fun (hi lo : Nat) => s.fld i j hi lo
  if j = 1 then
    decide (2 ≤ f 31 30) || f 29 28 == 3 || f 27 26 == 3 || f 15 12 == 0 || f 11 0 == 0
  else if 2 ≤ j && j ≤ 5 then f 31 30 == 3 || f 27 24 == 0
  else false

def arcCode : Check := fun c => arcDomains.findSome? (arcBad c.new)
def arcRate : Check := fun c =>
  failAny arcDomains (fun d => keyOf (arcIx d) 1) (fun d => arcResamples c.new d && (arcAbove c.new d 400000 1
    || channels.any (fun n => mapEnabled c.new n && chanDomain c.new n == d
      && arcAbove c.new d (1000 * modKHz c.new (chanGroup n)) (firPeriods c.new n))))
def arcNoRef : Check := fun c =>
  failAny arcDomains (fun d => keyOf (arcIx d) 1) (fun d =>
    (arcUses c.new d 0 && !refBound c.new d 2) || (arcUses c.new d 1 && !refBound c.new d 3))
def chordCode : Check := fun c => c.first 0x2600 0x263F (chordBad c.new)
def chordChannel : Check := fun c =>
  failAny channels (fun n => keyOf (0x2600 + n) 1) (fun n => !mapEnabled c.new n
    && (c.new.fld (0x2600 + n) 1 27 26 != 0 || (List.range 4).any (fun k => compAction c.new n k != 0)))
def chordReceiver : Check := fun c =>
  failAny channels (fun n => keyOf (0x2600 + n) 1) (fun n =>
    (List.range 4).any (fun k => compAction c.new n k == 2) && unitFaulty c.new 5 2 (chanBall c.new n) 0)

/-- Table 03.14 (R104). -/
def table0314 : List (String × Check) :=
  [("ARC_CODE", arcCode), ("ARC_RATE", arcRate), ("ARC_NO_REF", arcNoRef), ("CHORD_CODE", chordCode),
   ("CHORD_CHANNEL", chordChannel), ("CHORD_RECEIVER", chordReceiver)]

end Sys2Proof.Machine
end

