-- ==== Sys2Proof/Machine/GraphChecks.lean ====
section
/-!
DEFINITION. The commit checks of graph and schedule tables (R107, R109, R115, R117, R123, R126, R127, R140, Table 04.13).
-/
namespace Sys2Proof.Machine

/-! ### Slots judged -/

def graphKey (k : Nat) : Nat := keyOf (slotIx k) 1
def schedKey (k : Nat) : Nat := keyOf (slotIx k) 2
/-- The slots judged (R140, R430): those whose records or instance records the set writes, and those of the graph set. -/
def Cand.slots (c : Cand) : List Nat := [0, 1].filter (fun k => c.tables k || c.records k || (graphSet c.new).contains k)
/-- Those of them that hold tables: an element check needs both. -/
def Cand.held (c : Cand) : List Nat := c.slots.filter (fun k => (heldSlots c.new).contains k)

/-- A check of one slot, over the slots judged. -/
def perSlot (f : Cand → Nat → Option Nat) : Check := fun c => c.held.findSome? (f c)

/-! ### GRAPH_FORMAT (R126) -/

/-- A slot whose two tables are both empty holds nothing and is not judged (log entry 12). -/
def graphFormat : Check := fun c => c.slots.findSome? (fun k =>
  let g := c.new.blob (slotIx k) 1
  let h := c.new.blob (slotIx k) 2
  if g.isEmpty && h.isEmpty then none
  else orElse [failIf (graphKey k) (graphFormatBad g), failIf (schedKey k) (schedFormatBad h)])

/-! ### GRAPH_TYPE -/

/-- A port number beyond those of the instance of a key; a key without INSTANCE entry is GRAPH_LINK's. -/
def portBeyond (l : List GEntry) (key port : Nat) (outs : Bool) : Bool :=
  (instEntry l key).any (fun d =>
    let ty := elemType (gB4 d)
    decide ((if outs then ty.outs else ty.ins).length ≤ port))

def keyBad (k : Nat) : Bool := k == 0 || k == 0xFFFF

/-- The target of a DRIVE entry lies outside Table 04.4. -/
def targetBad (kind target : Nat) : Bool :=
  match kind with
  | 0 => decide (71 < target / 256) || (target % 256) / 4 != 0
  | 1 => decide (15 < target)
  | 2 => decide (3 < target)
  | 3 => decide (3 < target)
  | _ => true

def graphTypeBad (l : List GEntry) (e : GEntry) : Bool :=
  keyBad (gKey e) || (match gKind e with
    | 1 => gB4 e == 0 || decide (0x30 < gB4 e) || decide (3 < gB5 e) || decide (1023 < gW6 e)
    | 2 => decide (1 < gBinding e) || portBeyond l (gKey e) (gB4 e) false
    | 3 => decide (1 < gDelay e) || keyBad (gW6 e) || portBeyond l (gKey e) (gB4 e) false || portBeyond l (gW6 e) (gB5 e) true
    | 4 => decide (511 < gResult e) || decide (63 < gDepth e) || decide (4 < gValueType e) || portBeyond l (gKey e) (gB4 e) true
    | _ => targetBad (gB5 e) (gW6 e) || portBeyond l (gKey e) (gB4 e) true)

def graphType : Check := perSlot (fun c k => let l := slotGraph c.new k; failIf (graphKey k) (l.any (graphTypeBad l)))

/-! ### GRAPH_LINK -/

/-- The INSTANCE entries. -/
def insts (l : List GEntry) : List GEntry := ofKind 1 l

/-- How many CHANNEL and LINK entries bind an input. -/
def bindings (l : List GEntry) (key port : Nat) : Nat :=
  (l.filter (fun e => (gKind e == 2 || gKind e == 3) && gKey e == key && gB4 e == port)).length

/-- A list holds an element twice. -/
def repeated (l : List Nat) : Bool := l.eraseDups.length != l.length

/-- LINK entries with Delay 0 between instances of one rate, as edges (R111). -/
def sameRate (l : List GEntry) : List (Nat × Nat) :=
  ((ofKind 3 l).filter (fun e => gDelay e == 0 && rateOf l (gKey e) == rateOf l (gW6 e))).map (fun e => (gW6 e, gKey e))

/-- Edges left when those whose source no edge leads to are removed, `n` times over. -/
def pruneEdges : Nat → List (Nat × Nat) → List (Nat × Nat)
  | 0, es => es
  | n + 1, es => pruneEdges n (es.filter (fun e => es.any (fun f => f.2 == e.1)))

def graphLinkBad (l : List GEntry) : Bool :=
  let keys := (insts l).map gKey
  let es := sameRate l
  (insts l).any (fun d => (List.range (elemType (gB4 d)).ins.length).any (fun j => bindings l (gKey d) j != 1))
    || l.any (fun e => !keys.contains (gKey e) || (gKind e == 3 && !keys.contains (gW6 e)))
    || repeated keys || repeated ((insts l).map gW6)
    || !(pruneEdges es.length es).isEmpty
    || repeated ((ofKind 4 l).map gResult) || repeated ((ofKind 5 l).map (fun e => gB5 e * 65536 + gW6 e))

def graphLink : Check := perSlot (fun c k => failIf (graphKey k) (graphLinkBad (slotGraph c.new k)))

def graphChannel : Check := perSlot (fun c k =>
  failIf (graphKey k) ((ofKind 2 (slotGraph c.new k)).any (fun e => decide (63 < gB5 e) || !mapEnabled c.new (gB5 e))))

/-! ### GRAPH_RATE and GRAPH_RING (R107, R109) -/

def rateBad (p : Nat) (h : List Nat) : Bool :=
  decide (p < 1000) || decide (p * schMain h < 4000) || decide (p * schMain h * schSlow h < 40000)
    || decide (p * hyper h < 400000) || decide (65535 < hyper h) || decide (schLead h < 100) || decide (p ≤ schLead h)

def graphRate : Check := perSlot (fun c k =>
  let h := slotSched c.new k
  failIf (schedKey k) (rateBad (schedPeriod c.new h) h))

/-- The samples of one execution of a RING input exceed 64 at N × FreqMax: a lane clock is 2.5 ns. -/
def ringBad (s : State) (k : Nat) (e : GEntry) : Bool :=
  let h := slotSched s k
  let d := chanDomain s (gB5 e)
  let clocks := schedPeriod s h * rateCycles h (rateOf (slotGraph s k) (gKey e))
  Dy.lt (Dy.ofInt 25600000000) (Dy.mul (Dy.ofInt ((arcN s d * clocks : Nat) : Int)) (L32.toDy (s.num (arcIx d) 3)))

def graphRing : Check := perSlot (fun c k =>
  failIf (schedKey k) ((ofKind 2 (slotGraph c.new k)).any (fun e => gBinding e == 1 && ringBad c.new k e)))

/-! ### GRAPH_PLACE (R111, R114, R123) -/

/-- Hop time from one entry to another in lane clocks (R114). -/
def hop (a b : SEntry) : Nat :=
  if seJoist a = seJoist b then (if seLane a = seLane b then 0 else 2) else if seJoist a / 4 = seJoist b / 4 then 10 else 24

/-- The instants of an entry within its rate cycle (R111): its start and its end. -/
def seAt (p : Nat) (e : SEntry) : Nat := sePhase e * p + seStart e
def seEnd (p : Nat) (e : SEntry) : Nat := seAt p e + seCost e

/-- The entries of an instance, and the one that writes its outputs: its last part. -/
def entriesOf (sch : List SEntry) (key : Nat) : List SEntry := sch.filter (fun e => seKey e == key)
def lastPart (l : List GEntry) (sch : List SEntry) (key : Nat) : Option SEntry :=
  let n := ((instEntry l key).map (fun d => (elemType (gB4 d)).parts)).getD 1
  (entriesOf sch key).find? (fun e => sePart e + 1 == n)

/-- Two entries on one lane overlap in some fast cycle (R123); in SPLIT_EXTENDED one CONTROL and one EXTENDED may share a lane. -/
def overlap (split : Bool) (l : List GEntry) (a b : SEntry) : Bool :=
  let ext := fun (e : SEntry) => (instEntry l (seKey e)).any gExtended
  let m := Nat.gcd (sePeriod a) (sePeriod b)
  seJoist a == seJoist b && seLane a == seLane b && (!split || ext a == ext b) && sePhase a % m == sePhase b % m
    && decide (seStart a < seStart b + seCost b) && decide (seStart b < seStart a + seCost a)

/-- An entry overlaps one after it in the list. -/
def anyOverlap (split : Bool) (l : List GEntry) : List SEntry → Bool
  | [] => false
  | e :: es => es.any (overlap split l e) || anyOverlap split l es

/-- An entry alone: placement, ranges, its instance, cost, period and end. -/
def entryPlaceBad (c : Cand) (k p : Nat) (e : SEntry) : Bool :=
  let h := slotSched c.new k
  decide (15 < seJoist e) || decide (7 < seLane e) || decide (127 < sePart e)
    || (match instEntry (slotGraph c.new k) (seKey e) with
      | none => true
      | some d =>
        c.sides.any (fun x => (x == .B || !gExtended d) && laneMissing c.new x e)
          || decide ((elemType (gB4 d)).parts ≤ sePart e) || seCost e != elemCost (gB4 d) (sePart e)
          || field e 8 2 != rateCycles h (gB5 d) || decide (field e 8 2 ≤ sePhase e)
          || decide (p < seStart e + seCost e))

/-- The parts of an instance are those of its type, each once. -/
def partsBad (sch : List SEntry) (d : GEntry) : Bool :=
  (List.range (elemType (gB4 d)).parts).any (fun q =>
    ((entriesOf sch (gKey d)).filter (fun e => sePart e == q)).length != 1)

/-- A LINK with Delay 0 at one rate breaks R111: a part of the consumer starts before the producer's last part is readable. -/
def linkTimeBad (l : List GEntry) (sch : List SEntry) (p : Nat) (e : GEntry) : Bool :=
  gDelay e == 0 && rateOf l (gKey e) == rateOf l (gW6 e)
    && !((instEntry l (gW6 e)).any (fun d => gB4 d == 0x2A))
    && (match lastPart l sch (gW6 e) with
      | none => true
      | some q => (entriesOf sch (gKey e)).any (fun r => decide (seAt p r < seEnd p q + hop q r)))

def graphPlace : Check := perSlot (fun c k =>
  let l := slotGraph c.new k
  let sch := schedEntries (slotSched c.new k)
  let p := schedPeriod c.new (slotSched c.new k)
  failIf (schedKey k) (sch.any (entryPlaceBad c k p) || (insts l).any (partsBad sch) || anyOverlap (c.new.profile == 2) l sch
    || (ofKind 3 l).any (linkTimeBad l sch p)))

/-! ### GRAPH_BUDGET (R115, R117) -/

/-- DRIVE entries to compare words. -/
def wordDrives (l : List GEntry) : List GEntry := l.filter (fun e => gKind e == 5 && gB5 e == 0)

/-- The compare words that joist j produces in fast cycle n: those driven by instances whose last part lies in it (R115, R217). -/
def wordsIn (l : List GEntry) (sch : List SEntry) (j n : Nat) : Nat :=
  ((wordDrives l).filter (fun e => (lastPart l sch (gKey e)).any (fun q => seJoist q == j && n % sePeriod q == sePhase q))).length

/-- R115 is not met. -/
def writerBad (l : List GEntry) (h : List Nat) : Bool :=
  let sch := schedEntries h
  let start := schCompare h
  (wordDrives l).any (fun e => (lastPart l sch (gKey e)).any (fun q => decide (start < seStart q + seCost q + 2)))
    || (List.range 16).any (fun j =>
      let here := (sch.filter (fun e => seJoist e == j)).map seKey
      decide (48 < ((ofKind 2 l).filter (fun e => here.contains (gKey e))).length)
        || (decide (24 < (wordDrives l).length) && (List.range (hyper h)).any (fun n => decide (24 < wordsIn l sch j n))))

/-- DESIGN CHOICE (log entry 12): a reload point that coincides with the tick is not the next one; that lies a whole period later.
The least time in clocks from a tick to the next reload point of a carrier group under the anchor's master: ticks lead the anchor's
vertices by ReadyLead, the vertices of a follower come Lag after its master's (R117). -/
def reloadGap (s : State) (h : List Nat) (g : Nat) : Nat :=
  let a := schAnchor h
  let hs := s.num (0x5120 + s.masterOf a) 3
  let lag := fun (x : Nat) => if s.follower x then s.num (0x5120 + x) 2 else 0
  let ticks := (if schVertexMode h = 1 then [0] else [0, hs]).map (fun v => v + lag a + 4 * hs - schLead h)
  let reloads := ([0, 1].filter (fun b => s.bit (0x5120 + g) 1 (25 + b))).map (fun b => b * hs + lag g)
  let gap := fun (t r : Nat) => let d := (r + 2 * hs * (t / (2 * hs) + 2) - t) % (2 * hs); if d = 0 then 2 * hs else d
  (ticks.flatMap (fun t => reloads.map (gap t))).foldl min (2 ^ 32)

/-- R117 is not met by an update group that a DRIVE entry names; in SPLIT_EXTENDED 300 ns more (R273). -/
def reloadBad (s : State) (l : List GEntry) (h : List Nat) : Bool :=
  (wordDrives l).any (fun e =>
    let g := s.pairCarrier (gW6 e / 256)
    s.masterOf g == s.masterOf (schAnchor h)
      && decide (reloadGap s h g < schCompare h + 16 + (if s.profile = 2 then 120 else 0)))

def graphBudget : Check := perSlot (fun c k =>
  let l := slotGraph c.new k
  let h := slotSched c.new k
  failIf (schedKey k) (writerBad l h || reloadBad c.new l h))

/-! ### The last of Table 04.13 -/

def graphExtended : Check := perSlot (fun c k =>
  failIf (graphKey k) (c.new.profile != 2 && (insts (slotGraph c.new k)).any gExtended))
/-- The active slot's record (R127); its instance records may be written as R149 says (Table 05.14). -/
def graphSlotActive : Check := fun c =>
  match c.old.activeSlot with
  | some k => c.first (slotIx k) (slotIx k) (fun _ _ => true)
  | none => none
/-- The target of a pending switch (R127). -/
def graphSwitchPending : Check := fun c =>
  match c.old.graphs.switch with
  | some (k, _) => orElse [c.first (slotIx k) (slotIx k) (fun _ _ => true),
      c.first (0x3400 + 0x400 * k) (0x37FF + 0x400 * k) (fun _ _ => true)]
  | none => none

/-- Table 04.13 (R140). -/
def table0413 : List (String × Check) :=
  [("GRAPH_FORMAT", graphFormat), ("GRAPH_TYPE", graphType), ("GRAPH_LINK", graphLink), ("GRAPH_CHANNEL", graphChannel),
   ("GRAPH_RATE", graphRate), ("GRAPH_RING", graphRing), ("GRAPH_PLACE", graphPlace), ("GRAPH_BUDGET", graphBudget),
   ("GRAPH_EXTENDED", graphExtended), ("GRAPH_SLOT_ACTIVE", graphSlotActive), ("GRAPH_SWITCH_PENDING", graphSwitchPending)]

end Sys2Proof.Machine
end

