-- ==== Sys2Proof/Machine/ElemChecks.lean ====
section
/-!
DEFINITION. The commit checks of elements (R142, R149, R150, R154, R170, R184, R502, Table 05.14).
-/
namespace Sys2Proof.Machine

/-! ### Ranges of parameter words -/

/-- A bound given as a decimal fraction. -/
def fr (num den : Nat) : Nat := L32.ofRat num den

/-- A range of an F32 word: its index, and its bounds, both allowed. -/
abbrev WordRange := Nat × Nat × Nat

/-- The ranges of F32 words of a type (Table 06.2, Table 08.4, R167, R171 to R179, R255). -/
def rangesOf (ty : Nat) : List WordRange :=
  let z := L32.zero
  match ty with
  | 0x03 => [(0, z, fr 1000000 1)]
  | 0x0E => [(1, z, fr 1000 1), (2, z, fr 1000 1)]
  | 0x19 => [(0, z, fr 10 1)]
  | 0x1A => [(0, fr 1 10, fr 20 1), (1, fr 10 1, fr 200 1), (2, fr 10 1, fr 200 1)]
  | 0x1B => [(0, fr 5 1000, fr 1 10), (1, fr 10 1, fr 200 1), (2, z, fr 1 10)]
  | 0x1C => [(0, z, fr 2 10), (1, fr 5 10, fr 12 10), (2, z, fr 1 10), (3, z, fr 1 1)]
  | 0x1D => [(0, z, fr 5 10), (1, z, fr 5 10)]
  | 0x1E => [(0, fr 1 1, fr 25 10)]
  | 0x1F => [(0, z, fr 10 1), (1, z, fr 10000 1), (2, fr 10 1, fr 200 1), (5, fr 1 1000, fr 5 10)]
  | 0x20 => [(0, fr 1 10, fr 90 1)]
  | 0x21 => [(1, z, fr 100 1)]
  | 0x22 => [(0, fr 10 100, fr 95 100), (2, fr 105 100, fr 150 100)]
  | 0x23 => [(0, z, fr 1000000 1), (1, z, fr 1000000 1), (2, z, fr 1000000 1)]
  | 0x24 => [(0, z, fr 1 10)]
  | 0x26 => [(0, fr 5 10, fr 1 1), (1, z, fr 5 10)]
  | 0x27 => [(0, z, fr 10 1)]
  | 0x2C =>
    (List.range 16).map (fun i => if i / 4 % 2 = 0 then (i, z, fr 10 1) else (i, fr 1 100000, fr 1000 1))
      ++ [(16, z, fr 5 1), (17, z, fr 1 10), (18, z, fr 1 10), (19, fr 100 1, fr 10000 1), (20, z, fr 200000 1), (21, fr 5 10, fr 1 1)]
  | _ => []

/-- The ranges of U32 words of a type: index, least and greatest value. -/
def uRangesOf (ty : Nat) : List WordRange :=
  match ty with
  | 0x06 => [(0, 0, 2)]
  | 0x07 => [(0, 0, 31), (1, 1, 65535)]
  | 0x09 => [(2, 1, 65535)]
  | 0x0A => [(0, 0, 65535)]
  | 0x16 => [(0, 0, 1)]
  | 0x1E => [(1, 0, 1)]
  | 0x20 => [(1, 1, 65535)]
  | 0x21 => [(0, 1, 64)]
  | 0x22 => [(4, 1, 65535)]
  | 0x24 => [(2, 1, 10000)]
  | 0x26 => [(2, 0, 2)]
  | 0x2F => [(0, 1, 64)]
  | _ => []

/-- Words of a type that must not be below zero where no range is given: rate limits (R150). -/
def notNegative (ty : Nat) : List Nat := if ty = 0x04 then [2, 3] else if ty = 0x08 then [0] else []

/-- Pairs of words, the first not to lie below the second: maxima and minima (R150), and On and Off of 0x09. -/
def maxMin (ty : Nat) : List (Nat × Nat) :=
  match ty with
  | 0x04 => [(0, 1)]
  | 0x09 => [(0, 1)]
  | 0x0B => [(2, 3), (4, 5)]
  | 0x0C => [(4, 5)]
  | 0x0D => [(13, 14)]
  | 0x11 => [(1, 2)]
  | _ => []

/-- Fmin and Fmax of 0x1A and 0x1F (Table 06.2): 0.5 Fnom ≤ Fmin < Fnom < Fmax ≤ 1.5 Fnom, exactly. -/
def freqPairBad (nom lo hi : Nat) : Bool :=
  let two := fun (x : Nat) => Dy.mul (Dy.ofInt 2) (L32.toDy x)
  !(Dy.le (L32.toDy nom) (two lo) && Dy.lt (L32.toDy lo) (L32.toDy nom) && Dy.lt (L32.toDy nom) (L32.toDy hi)
    && Dy.le (two hi) (Dy.mul (Dy.ofInt 3) (L32.toDy nom)))

/-- The words of a list rise strictly. -/
def rising : List Nat → Bool
  | [] => true
  | [_] => true
  | a :: b :: l => L32.lt a b && rising (b :: l)

/-- The conditions of a type that no single range states; `clocks` is the period of its rate in lane clocks. -/
def typeBad (ty clocks : Nat) (w : List Nat) : Bool :=
  let x := fun (i : Nat) => nth 0 w i
  match ty with
  | 0x05 => !rising (w.take 16)
  | 0x1A => freqPairBad (x 2) (x 3) (x 4)
  | 0x1F => freqPairBad (x 2) (x 3) (x 4)
  | 0x22 => !(L32.lt (x 0) (x 1) && L32.le (x 1) L32.one && L32.le L32.one (x 3) && L32.lt (x 3) (x 2))
  | 0x23 => (List.range 3).any (fun i => !L32.lt L32.zero (x i))
  | 0x24 => !L32.lt L32.zero (x 0) || !L32.le L32.one (x 1)
      || Dy.lt (Dy.ofInt 180000000) (Dy.mul (Dy.ofInt (clocks : Int)) (L32.toDy (x 1)))
  | 0x25 => (List.range 3).any (fun i => decide (63 < x i) && x i != 0xFFFFFFFF)
  | _ => false

/-- The words of a bank break R150. -/
def wordsBad (ty clocks : Nat) (w : List Nat) : Bool :=
  let u := (elemType ty).uwords
  (List.range w.length).any (fun i => !u.contains i && !L32.isFinite (nth 0 w i))
    || (maxMin ty).any (fun p => L32.lt (nth 0 w p.1) (nth 0 w p.2))
    || (notNegative ty).any (fun i => L32.lt (nth 0 w i) L32.zero)
    || (rangesOf ty).any (fun r => !inF32 r.2.1 r.2.2 (nth 0 w r.1))
    || (uRangesOf ty).any (fun r => decide (nth 0 w r.1 < r.2.1) || decide (r.2.2 < nth 0 w r.1))
    || typeBad ty clocks w

/-- The lane clocks of one cycle of an instance's rate. -/
def instClocks (s : State) (k : Nat) (e : GEntry) : Nat :=
  schedPeriod s (slotSched s k) * rateCycles (slotSched s k) (gB5 e)

/-- A bank that is not empty breaks R150. -/
def bankBad (s : State) (k : Nat) (e : GEntry) (b : Nat) : Bool :=
  let d := s.blob (instRecord k e) (1 + b)
  let n := (elemType (gB4 e)).params
  !d.isEmpty && (d.length != 4 * n || wordsBad (gB4 e) (instClocks s k e) (words32 d n))

/-- The domain of the channel that a RING input reads. -/
def inputChannel (l : List GEntry) (key j : Nat) : Nat := ((bindingOf l key j).map gB5).getD 0

/-- An Order of a 0x18 outside 0 to ⌊N/2⌋ − 1 of its input's domain (R174). -/
def orderBad (s : State) (k : Nat) (e : GEntry) (b : Nat) : Bool :=
  let d := s.blob (instRecord k e) (1 + b)
  let n := arcN s (chanDomain s (inputChannel (slotGraph s k) (gKey e) 0))
  gB4 e == 0x18 && !d.isEmpty && (words32 d 4).any (fun o => decide (n / 2 ≤ o))

/-- Unequal ScaleFull of the inputs of a 0x17 (R174). -/
def scaleUnequal (s : State) (k : Nat) (e : GEntry) : Bool :=
  let f := fun (j : Nat) => scaleFull s (inputChannel (slotGraph s k) (gKey e) j)
  gB4 e == 0x17 && (f 0 != f 1 || f 0 != f 2)

/-- Bank 0 of an instance with parameter words is empty where the set writes the slot's tables (R150). -/
def bankMissing (c : Cand) (k : Nat) (e : GEntry) : Bool :=
  c.tables k && (elemType (gB4 e)).params != 0 && (c.new.blob (instRecord k e) 1).isEmpty

def elemParam : Check := perSlot (fun c k => (insts (slotGraph c.new k)).findSome? (fun e =>
  let r := instRecord k e
  orElse [failIf (keyOf r 1) (bankMissing c k e || bankBad c.new k e 0 || orderBad c.new k e 0),
    failIf (keyOf r 2) (bankBad c.new k e 1 || orderBad c.new k e 1), failIf (graphKey k) (scaleUnequal c.new k e)]))

/-! ### Presets (R502) -/

/-- An F32 that is an integer from 0 to `hi`. -/
def integral (hi : Nat) (x : Nat) : Bool :=
  L32.isFinite x && (let n := El.count x; Dy.le (L32.toDy x) (Dy.ofInt n) && Dy.le (Dy.ofInt n) (L32.toDy x) && decide (n ≤ hi))

/-- The words of a Preset that hold counts, flags, codes and indices: word and greatest value. -/
def integralWords (ty : Nat) : List (Nat × Nat) :=
  let any := 2 ^ 128
  match ty with
  | 0x07 => [(0, 1), (1, any)]
  | 0x08 => [(1, 1)]
  | 0x09 => [(0, 1), (1, any)]
  | 0x1F => [(3, any)]
  | 0x20 => [(1, any)]
  | 0x21 => [(64, any)]
  | 0x22 => [(0, 2), (1, any), (2, any)]
  | 0x24 => [(4, any)]
  | 0x28 => [(0, 7)]
  | 0x29 => [(0, 7)]
  | 0x2B => [(0, 7)]
  | 0x2D => [(0, any)]
  | _ => []

/-- A Preset that is not empty breaks R150 or R502; Dir of 0x2D is −1.0, 0.0 or 1.0. -/
def presetBad (ty : Nat) (b : List Nat) : Bool :=
  let n := (elemType ty).states
  let w := words32 b n
  !b.isEmpty && (b.length != 4 * n || (integralWords ty).any (fun p => !integral p.2 (nth 0 w p.1))
    || (ty == 0x2D && !integral 1 (L32.abs (nth 0 w 1))))

def elemPreset : Check := perSlot (fun c k => (insts (slotGraph c.new k)).findSome? (fun e =>
  failIf (keyOf (instRecord k e) 3) (presetBad (gB4 e) (c.new.blob (instRecord k e) 3))))

/-! ### Kinds of ports (R142) -/

def inKind (l : List GEntry) (key j : Nat) : PortKind :=
  nth .scalar (((instEntry l key).map (fun d => (elemType (gB4 d)).ins)).getD []) j
def outKind (l : List GEntry) (key j : Nat) : PortKind :=
  nth .scalar (((instEntry l key).map (fun d => (elemType (gB4 d)).outs)).getD []) j

/-- A LINK may join an output kind and an input kind. -/
def kindsJoin (a b : PortKind) (delay : Nat) : Bool :=
  if a = .cand || b = .cand then a == b && delay == 0 else a == b || (a == .scalar && b == .boolean)

def portKindBad (l : List GEntry) (e : GEntry) : Bool :=
  match gKind e with
  | 2 =>
    let k := inKind l (gKey e) (gB4 e)
    !((k == .scalar && gBinding e == 0) || (k == .ring && gBinding e == 1))
  | 3 => !kindsJoin (outKind l (gW6 e) (gB5 e)) (inKind l (gKey e) (gB4 e)) (gDelay e)
  | 4 =>
    let k := outKind l (gKey e) (gB4 e)
    !(((k == .scalar || k == .boolean) && (gValueType e == 0 || gValueType e == 3)) || (k == .angle && gValueType e == 2))
  | 5 =>
    let k := outKind l (gKey e) (gB4 e)
    !(if 2 ≤ gB5 e then k == .angle else k == .scalar || k == .boolean)
  | _ => false

def elemPortKind : Check := perSlot (fun c k => let l := slotGraph c.new k; failIf (graphKey k) (l.any (portKindBad l)))

/-! ### The predictive enumerator (R170, Table 05.9) -/

/-- The joist and the lane of a part, `j` the joist of part 0. -/
def partPlace (ty part j : Nat) : Nat × Nat :=
  match ty with
  | 0x28 => (j, if part < 8 then part else 0)
  | 0x29 => if part < 16 then (j + part / 8, part % 8) else (if part = 17 then j + 1 else j, 0)
  | 0x2A => (part / 8, part % 8)
  | _ => (if part < 16 then part else if part < 20 then 4 * (part - 16) else 0, 0)

def isEnumerator (e : GEntry) : Bool := decide (0x28 ≤ gB4 e) && decide (gB4 e ≤ 0x2B)

/-- The entries whose results a reduction part reads: those of its instance, or for the joist reductions of 0x2B of its 0x2A. -/
def reducedOf (l : List GEntry) (sch : List SEntry) (d : GEntry) (q : SEntry) : List SEntry :=
  let ty := gB4 d
  if evaluates ty (sePart q) then []
  else
    let src := if ty = 0x2B && sePart q < 16 then feeder l (gKey d) else gKey d
    (entriesOf sch src).filter (fun r => (reduces ty (sePart q)).contains (sePart r))

/-- A part of an enumerator departs from Table 05.9. -/
def partBad (l : List GEntry) (sch : List SEntry) (p : Nat) (d : GEntry) (q : SEntry) : Bool :=
  let j := (((entriesOf sch (gKey d)).find? (fun r => sePart r == 0)).map seJoist).getD 0
  (seJoist q, seLane q) != partPlace (gB4 d) (sePart q) j
    || (reducedOf l sch d q).any (fun r => decide (seAt p q < seEnd p r + hop r q))

def elemPlace : Check := perSlot (fun c k =>
  let l := slotGraph c.new k
  let sch := schedEntries (slotSched c.new k)
  let p := schedPeriod c.new (slotSched c.new k)
  failIf (schedKey k) ((insts l).any (fun d => isEnumerator d && (entriesOf sch (gKey d)).any (fun q =>
    partBad l sch p d q || (gB4 d == 0x29 && sePart q == 0 && seJoist q % 2 == 1)))))

/-! ### Banks in use (R149, R154) -/

/-- Records of the active slot. -/
def activeRecord (s : State) (i : Nat) : Bool := s.activeSlot == some ((i - 0x3400) / 0x400)

/-- A write of the bank in use. DESIGN CHOICE (log entry 12): it is ELEM_BANK_ACTIVE (R154), not GRAPH_SLOT_ACTIVE (R127, R149); and a record of
the active slot that no INSTANCE entry names is judged as the others are, here and by ELEM_SWAP_PENDING. -/
def elemBankActive : Check := fun c =>
  c.first 0x3400 0x3BFF (fun i j => activeRecord c.old i && (j == 1 || j == 2) && c.old.fld i 4 0 0 + 1 == j)
def elemSwapPending : Check := fun c =>
  c.first 0x3400 0x3BFF (fun i j => activeRecord c.old i && (j == 1 || j == 2) && c.old.bit 0x3300 2 (16 + c.old.fld i 4 15 12))

/-- Table 05.14 (R181). -/
def table0514 : List (String × Check) :=
  [("ELEM_PARAM", elemParam), ("ELEM_PRESET", elemPreset), ("ELEM_PORT_KIND", elemPortKind), ("ELEM_PLACE", elemPlace),
   ("ELEM_BANK_ACTIVE", elemBankActive), ("ELEM_SWAP_PENDING", elemSwapPending)]

end Sys2Proof.Machine
end

