-- ==== Sys2Proof/Machine/SetChecks.lean ====
section
/-!
DEFINITION. The commit checks of grid-forming, modulation, stacks, sides and safety (Tables 06.17, 07.16, 08.12, 09.13, 10.9).
-/
namespace Sys2Proof.Machine

/-! ### Grid-forming (Table 06.17) -/

/-- The set writes slot tables or instance records. -/
def Cand.graphs (c : Cand) : Bool := c.wr 0x3100 0x3101 || c.wr 0x3400 0x3BFF
/-- The set writes grid-forming objects. -/
def Cand.gfs (c : Cand) : Bool := c.wr 0x4000 0x4010

/-- The ranges of F32 objects (Tables 06.1, 06.10): record, subindex, bounds. -/
def gfRanges : List (Nat × Nat × Nat × Nat) :=
  [(0x4000, 1, fr 10000 1, fr 100000000 1), (0x4000, 2, fr 100 1, fr 40000 1), (0x4000, 3, fr 10 1, fr 200 1),
   (0x4002, 7, fr 1 100, fr 2 10), (0x4002, 8, fr 5 10, fr 1 1), (0x4002, 9, fr 1 100, fr 1 1), (0x4002, 0xA, fr 5 1000, fr 1 1),
   (0x4002, 0xB, fr 5 10, fr 20 1), (0x4002, 0xC, fr 1 100, fr 5 10), (0x4002, 0xD, fr 1 100, fr 2 10)]
/-- The ranges of U16 objects (Table 06.10). -/
def gfURanges : List (Nat × Nat × Nat) :=
  [(2, 1, 1000), (3, 100, 60000), (4, 100, 65535), (5, 1, 600), (6, 1, 600), (0xE, 0, 500), (0xF, 20, 2000)]

/-- A value outside its range. -/
def gfBad (s : State) (i j : Nat) : Bool :=
  let v := s.num i j
  (gfRanges.any (fun r => r.1 == i && r.2.1 == j && !inF32 r.2.2.1 r.2.2.2 v))
    || (i == 0x4002 && gfURanges.any (fun r => r.1 == j && (decide (v < r.2.1) || decide (r.2.2 < v))))
    || (i == 0x4002 && (j == 7 || j == 8) && !L32.lt (s.num 0x4002 7) (s.num 0x4002 8))
    || (i == 0x4010 && decide (511 < v) && v != 0xFFFF)

def gfCode : Check := fun c => c.first 0x4000 0x4010 (gfBad c.new)

/-- The word of a type that holds Fnom. -/
def fnomWord (ty : Nat) : Option Nat := if ty = 0x1A || ty = 0x1F then some 2 else if ty = 0x1B then some 1 else none

/-- A bank's Fnom differs from NominalFreq (R183). -/
def fnomBad (s : State) (k : Nat) (e : GEntry) (b : Nat) : Bool :=
  let d := s.blob (instRecord k e) (1 + b)
  !d.isEmpty && (fnomWord (gB4 e)).any (fun i =>
    let x := L32.toDy (word32 d i)
    let y := L32.toDy (s.num 0x4000 3)
    Dy.lt x y || Dy.lt y x)

/-- Every slot that holds tables: R183 binds every instance. -/
def gfBase : Check := fun c =>
  if c.gfs || c.graphs then
    (heldSlots c.new).findSome? (fun k => (insts (slotGraph c.new k)).findSome? (fun e =>
      orElse [failIf (keyOf (instRecord k e) 1) (fnomBad c.new k e 0), failIf (keyOf (instRecord k e) 2) (fnomBad c.new k e 1)]))
  else none

/-- A binding names a result that the graph set does not export as F32 (R194). -/
def bindingBad (s : State) (j : Nat) : Bool :=
  let r := s.num 0x4010 j
  let es := (graphSet s).flatMap (fun k => (ofKind 4 (slotGraph s k)).filter (fun e => gResult e == r))
  r != 0xFFFF && (es.isEmpty || es.any (fun e => gValueType e != 0))

/-- The instances of a type that drive a reference of a domain. -/
def drivers (l : List GEntry) (kind d ty : Nat) : List Nat :=
  (((ofKind 5 l).filter (fun e => gB5 e == kind && gW6 e == d && (instEntry l (gKey e)).any (fun q => gB4 q == ty))).map gKey).eraseDups

/-- RotorDomain, GridDomain or JoinDomain without its reference. -/
def domainBad (s : State) : Bool :=
  let f := fun (hi lo : Nat) => s.fld 0x4002 1 hi lo
  (graphSet s).any (fun k =>
    let l := slotGraph s k
    (drivers l 2 (f 19 18) 0x1A).length != 1 || (drivers l 3 (f 17 16) 0x1F).isEmpty || (drivers l 3 (f 15 14) 0x1F).isEmpty)

/-- A channel under MODEL_THEN_DISABLE that no 0x25 of the graph set names (R206). -/
def modelMissing (s : State) (n : Nat) : Bool :=
  mapEnabled s n && fallbackOf s n == 2 && (graphSet s).any (fun k =>
    !(insts (slotGraph s k)).any (fun e => gB4 e == 0x25 &&
      [1, 2].any (fun b => (words32 (s.blob (instRecord k e) b) 3).contains n && !(s.blob (instRecord k e) b).isEmpty)))

def gfBind : Check := fun c =>
  orElse [
    if c.gfs then failAny ((List.range 8).map (· + 1)) (keyOf 0x4010) (bindingBad c.new) else none,
    failIf (keyOf 0x4002 1) (c.gfs && domainBad c.new),
    if c.gfs || c.graphs || c.wr 0x2100 0x213F then failAny channels (fun n => keyOf (0x2100 + n) 7) (modelMissing c.new) else none]

/-- A DRIVE entry to a DOUT in a slot that holds tables. -/
def drivesDout (s : State) (k n : Nat) : Bool := (ofKind 5 (slotGraph s k)).any (fun e => gB5 e == 1 && gW6 e == n)

def gfDoutConflict : Check := fun c =>
  if (c.gfs || c.graphs) && c.new.bit 0x4002 1 30 then
    failAny (heldSlots c.new) graphKey (fun k => drivesDout c.new k (c.new.fld 0x4002 1 27 24))
  else none

def gfState : Check := fun c =>
  if c.old.stopped then none else c.changed 0x4000 0x4010 (fun i j => i == 0x4000 || i == 0x4010 || (i == 0x4002 && j == 1))

/-- Table 06.17 (R209): a set that writes grid-forming objects, and for R183, R203 and R206 one that writes what they speak of. -/
def table0617 : List (String × Check) :=
  [("GF_CODE", gfCode), ("GF_BASE", gfBase), ("GF_BIND", gfBind), ("GF_DOUT_CONFLICT", gfDoutConflict), ("GF_STATE", gfState)]

/-! ### Modulation (Table 07.16) -/

def carrierGroups : List Nat := List.range 8
def allPairs : List Nat := List.range 72

/-- A value outside its range. -/
def modBad (s : State) (i j : Nat) : Bool :=
  let v := s.num i j
  if 0x5120 ≤ i && i ≤ 0x5127 then
    match j with
    | 1 => s.fld i 1 26 25 == 0
    | 2 => decide (200000 < v)
    | 3 => decide (v < 1000) || decide (100000 < v)
    | 4 => decide (128000 < s.fld i 4 16 0)
    | _ => false
  else if 0x5200 ≤ i && i ≤ 0x5247 then
    match j with
    | 1 => decide (72 ≤ s.fld i 1 22 16) && s.fld i 1 22 16 != 0x7F
    | 2 => decide (51200 < s.fld i 2 31 16) || decide (51200 < s.fld i 2 15 0)
    | _ => false
  else false

/-- A pair's PhysicalPair as configured. -/
def pairMap (s : State) (p : Nat) : Nat := s.fld (0x5200 + p) 1 22 16
def mapped (s : State) (p : Nat) : Bool := pairMap s p != 0x7F

def modCode : Check := fun c => c.first 0x5100 0x5320 (modBad c.new)
/-- A pair's carrier group is its update group's (Table 07.6), so only a master's period can lie in a group bound elsewhere. -/
def modGroup : Check := fun c =>
  failAny carrierGroups (fun g => keyOf (0x5120 + g) 1) (fun g =>
    if c.new.follower g then c.new.masterOf g == g || c.new.follower (c.new.masterOf g)
    else c.new.updateCarrier (c.new.fld (0x5120 + g) 1 24 20) != g)
def modMinpulse : Check := fun c =>
  failAny carrierGroups (fun g => keyOf (0x5120 + g) 4) (fun g =>
    let m := c.new.fld (0x5120 + g) 4 16 0
    decide (32 * c.new.num (0x5120 + c.new.masterOf g) 3 < 2 * m)
      || (m != 0 && allPairs.any (fun p => c.new.pairCarrier p == g
        && (decide (m ≤ c.new.fld (0x5200 + p) 2 31 16) || decide (m ≤ c.new.fld (0x5200 + p) 2 15 0)))))
def modMap : Check := fun c =>
  failAny allPairs (fun p => keyOf (0x5200 + p) 1) (fun p => mapped c.new p
    && (unitFaulty c.new 6 0xFF (pairMap c.new p) 0 || (List.range p).any (fun o => pairMap c.new o == pairMap c.new p)))
def modWordConflict : Check := fun c =>
  (heldSlots c.new).findSome? (fun k =>
    let t := (wordDrives (slotGraph c.new k)).map gW6
    failIf (graphKey k) (t.any (fun w => !mapped c.new (w / 256)
      || (w % 256 == 0 && (t.contains (w + 1) || t.contains (w + 2))))))
def modRunning : Check := fun c =>
  c.changed 0x5120 0x5127 (fun i j => (j == 1 || j == 2)
    && [Side.A, Side.B].any (fun x => c.old.feeds x && c.old.carrierRuns x (i - 0x5120)))
def modState : Check := fun c =>
  if c.old.stopped && !c.old.commissioning then none
  else c.changed 0x5120 0x5310 (fun i j => (decide (0x5200 ≤ i) && decide (i ≤ 0x5247) && (j == 1 || j == 2))
    || (decide (i ≤ 0x5127) && j == 4) || (decide (0x5140 ≤ i) && decide (i ≤ 0x515F) && j == 1)
    || (i == 0x5310 && (j == 1 || j == 2)))

/-- Table 07.16 (R238). -/
def table0716 : List (String × Check) :=
  [("MOD_CODE", modCode), ("MOD_GROUP", modGroup), ("MOD_MINPULSE", modMinpulse), ("MOD_MAP", modMap),
   ("MOD_WORD_CONFLICT", modWordConflict), ("MOD_RUNNING", modRunning), ("MOD_STATE", modState)]

/-! ### Stacks (Table 08.12) -/

def wearIx (w : Nat) : Nat := 0x9100 + w
def sixteen : List Nat := List.range 16

/-- A value outside its range; members are 1 to 8 whole entries. -/
def stackBad (s : State) (i j : Nat) : Bool :=
  let v := s.num i j
  if i = 0x9000 then
    (j == 2 && (decide (v < 15) || decide (240 < v))) || (j == 3 && !inF32 (fr 5 10) (fr 1 1) v)
  else if i < 0x9100 then
    j == 1 && ((decide (71 < s.fld i 1 14 8) && s.fld i 1 14 8 != 0x7F) || (decide (63 < s.fld i 1 7 0) && s.fld i 1 7 0 != 0xFF))
  else
    let b := s.blob i 2
    (j == 3 && !inF32 L32.zero (fr 2 10) v)
      || (j == 2 && (b.isEmpty || b.length % 4 != 0 || decide (32 < b.length) || (wearMembers s (i - 0x9100)).any (fun m =>
        decide (15 < m.stack) || decide (7 < m.leg) || decide (71 < m.pair) || decide (63 < m.chan))))
      || (j == 1 && s.bit i 1 15 && b.isEmpty)

/-- Instances of a type in the slots that hold tables: slot and entry. -/
def instsOf (s : State) (ty : Nat) : List (Nat × GEntry) :=
  (heldSlots s).flatMap (fun k => ((insts (slotGraph s k)).filter (fun e => gB4 e == ty)).map (fun e => (k, e)))
/-- The words of the banks of an instance that are not empty. -/
def banksOf (s : State) (k : Nat) (e : GEntry) : List (List Nat) :=
  ([1, 2].filter (fun b => !(s.blob (instRecord k e) b).isEmpty)).map (fun b => words32 (s.blob (instRecord k e) b) (elemType (gB4 e)).params)

def stackCode : Check := fun c =>
  orElse [c.first 0x9000 0x910F (stackBad c.new),
    failAny (instsOf c.new 0x2C) (fun q => keyOf (instRecord q.1 q.2) 1) (fun q => [0, 1].any (bankBad c.new q.1 q.2))]

/-- The scale objects and the arc domain of a channel. -/
def chanScale (s : State) (n : Nat) : Nat × Nat × Nat := (scaleFull s n, scaleOffset s n, chanDomain s n)

/-- A member of a group breaks order 2, `n` the channel of the group's first member. -/
def memberBad (s : State) (n : Nat) (m : Member) : Bool :=
  !s.bit 0x9000 1 m.stack || !mapped s m.pair || !mapEnabled s m.chan || chanScale s m.chan != chanScale s n

/-- The members (stack and leg) of every group. -/
def allMembers (s : State) : List Nat :=
  sixteen.flatMap (fun w => (wearMembers s w).map (fun m => m.stack * 256 + m.leg))

/-- An instance of 0x27 breaks R255: its rate, its group, its count, its inputs or its outputs. -/
def balanceBad (s : State) (q : Nat × GEntry) : Bool :=
  let l := slotGraph s q.1
  let key := gKey q.2
  gB5 q.2 != 0 || (banksOf s q.1 q.2).any (fun w =>
    let g := bits (nth 0 w 1) 7 4
    let n := nth 0 w 1 % 16
    let ms := wearMembers s g
    !wearEnabled s g || n != ms.length || ms.zipIdx.any (fun m =>
      !((bindingOf l key (1 + m.2)).any (fun e => gKind e == 2 && gB5 e == m.1.chan))
        || (wordDrives l).any (fun e => gKey e == key && gB4 e == m.2 && gW6 e != m.1.pair * 256)
        || !((wordDrives l).any (fun e => gKey e == key && gB4 e == m.2))))

def stackGroup : Check := fun c =>
  let s := c.new
  orElse [
    failAny sixteen (fun w => keyOf (wearIx w) 2) (fun w =>
      let ms := wearMembers s w
      ms.any (memberBad s (((ms[0]?).map Member.chan).getD 0))),
    failIf (keyOf (wearIx ((sixteen.filter (fun w => !(wearMembers s w).isEmpty)).getLastD 0)) 2) (repeated (allMembers s)),
    failAny (instsOf s 0x27) (fun q => keyOf (instRecord q.1 q.2) 1) (balanceBad s)]

/-- Two instances of 0x2D of one slot name one position, or one names a stack outside StackMask. -/
def stackRainflow : Check := fun c =>
  let s := c.new
  let pos := fun (q : Nat × GEntry) => (banksOf s q.1 q.2).map (fun w => (q.1 * 2 ^ 40 + nth 0 w 0 * 65536 + nth 0 w 1 * 256 + nth 0 w 2))
  orElse [
    failAny (instsOf s 0x2D) (fun q => keyOf (instRecord q.1 q.2) 1) (fun q =>
      (banksOf s q.1 q.2).any (fun w => decide (15 < nth 0 w 0) || !s.bit 0x9000 1 (nth 0 w 0))),
    (heldSlots s).findSome? (fun k =>
      failIf (graphKey k) (repeated (((instsOf s 0x2D).filter (fun q => q.1 == k)).flatMap (fun q => (pos q).eraseDups))))]

/-- The spare that a stack names, in StackMask or not: SparePhysicalPair and SpareGroup where a pair is named, SpareChannel where one is. -/
def spareBad (s : State) (k : Nat) : Bool :=
  let f := fun (hi lo : Nat) => s.fld (0x9010 + k) 1 hi lo
  let n := f 14 8
  let ch := f 7 0
  let ms := wearMembers s (f 19 16)
  (n != 0x7F && (allPairs.any (fun p => pairMap s p == n) || !wearEnabled s (f 19 16)))
    || (ch != 0xFF && (!mapEnabled s ch || ms.any (fun m => chanScale s ch != chanScale s m.chan)))

def stackSpare : Check := fun c => failAny sixteen (fun k => keyOf (0x9010 + k) 1) (spareBad c.new)
def stackState : Check := fun c =>
  if c.old.stopped then none
  else c.changed 0x9000 0x910F (fun i j => (i == 0x9000 && j == 1) || decide (0x9010 ≤ i))

/-- Table 08.12 (R261). -/
def table0812 : List (String × Check) :=
  [("STACK_CODE", stackCode), ("STACK_GROUP", stackGroup), ("STACK_RAINFLOW", stackRainflow), ("STACK_SPARE", stackSpare),
   ("STACK_STATE", stackState)]

/-! ### Sides (Table 09.13) -/

/-- The bytes that a link of another rate holds: an angle carries θ and f. -/
def portBytes : PortKind → Nat
  | .angle => 8
  | _ => 4

/-- The mirror volume of fast cycle `n` of a slot (R275). -/
def mirrorVolume (s : State) (k n : Nat) : Nat :=
  let l := slotGraph s k
  let h := slotSched s k
  let sch := schedEntries h
  let done := (insts l).filter (fun d => (lastPart l sch (gKey d)).any (fun e => n % sePeriod e == sePhase e))
  let words := 4 * (wordDrives l).length
  let states := (done.map (fun d => 4 * (elemType (gB4 d)).states)).foldl (· + ·) 0
  let cross := (((ofKind 3 l).filter (fun e =>
    rateOf l (gKey e) != rateOf l (gW6 e) && n % rateCycles h (rateOf l (gW6 e)) == 0)).map
      (fun e => portBytes (outKind l (gW6 e) (gB5 e)))).foldl (· + ·) 0
  let fifo := 12 * ((ofKind 4 l).filter (fun e => gDepth e != 0
    && done.any (fun d => gKey d == gKey e && !gExtended d))).length
  words + states + cross + fifo

/-- More than 1.6 × 10^9 bytes per second in some fast cycle: 4 bytes per lane clock. -/
def mirrorBad (s : State) (k : Nat) : Bool :=
  (List.range (hyper (slotSched s k))).any (fun n => decide (4 * schedPeriod s (slotSched s k) < mirrorVolume s k n))

def sideCode : Check := fun c =>
  c.first 0x6010 0x6010 (fun _ j =>
    let v := c.new.num 0x6010 j
    (j == 1 && v % 4 == 0) || (j == 2 && (v == 0 || decide (600 < v))) || (j == 4 && v == 0))
def sideMirror : Check := fun c =>
  if c.new.profile = 3 then none
  else failAny (heldSlots c.new) graphKey (mirrorBad c.new)
def sidePreferred : Check := fun c =>
  if c.old.stopped then none
  else failIf (keyOf 0x6010 1) (c.new.bit 0x6010 1 15 != c.old.bit 0x6010 1 15)

/-- Table 09.13 (R287). -/
def table0913 : List (String × Check) := [("SIDE_CODE", sideCode), ("SIDE_MIRROR", sideMirror), ("SIDE_STATE", sidePreferred)]

/-! ### Safety (Table 10.9) -/

def safetyCode : Check := fun c => failIf (keyOf 0x6800 6) (c.reserved 0x6800 6)
def safetyDoutConflict : Check := fun c =>
  let n := c.new.fld 0x6800 6 3 0
  failIf (keyOf 0x6800 6) (c.new.bit 0x6800 6 15 && ((heldSlots c.new).any (fun k => drivesDout c.new k n)
    || (c.new.bit 0x4002 1 30 && c.new.fld 0x4002 1 27 24 == n)))

/-- Table 10.9 (R311). -/
def table109 : List (String × Check) := [("SAFETY_CODE", safetyCode), ("SAFETY_DOUT_CONFLICT", safetyDoutConflict)]

end Sys2Proof.Machine
end

