-- ==== Sys2Proof/Machine/RestChecks.lean ====
section
/-!
DEFINITION. The commit checks of sharing, time, clocks, capture, scribe and counters, communication and boot (Tables 11.12, 12.15, 13.14,
14.9, 15.16, 16.13, 17.15), and the values that commit computes for the sharing objects (R321, R325, R329).
-/
namespace Sys2Proof.Machine

/-! ### Sharing (Table 11.12) -/

def resources : List Nat := List.range 7
def resIx (r : Nat) : Nat := 0xA100 + r
def slotTable (s : State) (r : Nat) : List Nat := s.blob (resIx r) 1
def quantumOf (s : State) (r c : Nat) : Nat := quantum (s.num (resIx r) 2) c

/-- The slots of a table that hold a code, rising. -/
def slotsOf (t : List Nat) (code : Nat) : List Nat := (List.range t.length).filter (fun i => nth 0 t i == code)

/-- The largest cyclic distance between consecutive slots of a code, in a wheel of `t.length`. -/
def cyclicGap (t : List Nat) (code : Nat) : Nat :=
  match slotsOf t code with
  | [] => 0xFFFF
  | a :: l => ((a :: l).zip (l ++ [a + t.length])).foldl (fun m p => max m (p.2 - p.1)) 0

/-- The grant bound of a class at a resource (R321). -/
def boundOf (s : State) (r c : Nat) : Nat :=
  let t := slotTable s r
  let q := fun (l : List Nat) => (l.map (quantumOf s r)).foldl (· + ·) 0
  if !classPresent r c then 0xFFFF
  else if r = 0 || c ≤ 1 then cyclicGap t c
  else if c ≤ 4 then (q ((weighted r).filter (· != c)) + 1) * cyclicGap t 0xFF
  else (q ((weighted r).filter (· != 5)) + 1) * cyclicGap t 0xFF + wheelSlots r

/-- The slots owned by or marked for C0 and C1 (R325). -/
def reservedOf (t : List Nat) : Nat := (t.filter (fun b => decide (b ≤ 1))).length

/-- The configuration objects of the dictionary that are numbers: their bytes (R329). -/
def fixedVolume : Nat :=
  (objRecs1 ++ objRecs2 ++ objRecs3 ++ objRecs4 ++ objRecs5 ++ objRecs6 ++ objRecs7).foldl (fun a r =>
    r.rows.foldl (fun b o => if o.kind = .cfg then b + (r.hi + 1 - r.lo) * (o.hi + 1 - o.lo) * o.size else b) a) 0

/-- The configuration BLOBs that are not empty after power-up. -/
def blobKeys : List Nat := [0x120003, 0x120004, 0x810007, 0x810101] ++ resources.map (fun r => keyOf (resIx r) 1)

/-- ReinitCopyVolume (R329): the bytes of every configuration object, the repair map, the tables and the instance records among them. -/
def copyVolume (s : State) : Nat :=
  let own := s.od.foldl (fun a e => match e.2, rowOf e.1 with
    | .blob b, some o => if o.kind = .cfg then a + b.length else a
    | _, _ => a) 0
  let rest := (blobKeys.filter (fun k => (Store.find k s.od).isNone)).foldl (fun a k => a + (s.blob (k / 256) (k % 256)).length) 0
  fixedVolume + own + rest

/-- A table that breaks SHARE_CODE: its length, a code, an absent class, a quantum. -/
def shareBad (s : State) (r : Nat) : Bool :=
  let t := slotTable s r
  t.length != wheelSlots r
    || t.any (fun b => if r = 0 then decide (5 < b) else !(b == 0xFF || (decide (b ≤ 1) && classPresent r b)))
    || (r != 0 && [2, 3, 4, 5].any (fun c => (quantumOf s r c != 0) != classPresent r c))

/-- A class that would starve. -/
def shareStarves (s : State) (r : Nat) : Bool :=
  let none := fun (code : Nat) => (slotsOf (slotTable s r) code).isEmpty
  if r = 0 then (List.range 6).any none else none 0 || (classPresent r 1 && none 1) || none 0xFF

def shareCode : Check := fun c => failAny resources (fun r => keyOf (resIx r) 1) (shareBad c.new)
def shareReserved : Check := fun c =>
  failAny resources (fun r => keyOf (resIx r) 1) (fun r => decide (85 * wheelSlots r < 100 * reservedOf (slotTable c.new r)))
def shareStarve : Check := fun c => failAny resources (fun r => keyOf (resIx r) 1) (shareStarves c.new)
def shareC0Gap : Check := fun c =>
  failAny [0, 1, 3] (fun r => keyOf (resIx r) 1) (fun r => decide ((if r = 3 then 4 else 2) < boundOf c.new r 0))
def shareRidgeBound : Check := fun c =>
  failAny [4, 5, 6] (fun r => keyOf (resIx r) 1) (fun r => [3, 4].any (fun k => decide (37 < boundOf c.new r k)))
/-- The guaranteed C2 rate at the mailboxes is q2 · 16 B / (640 ns · ⌈Q / S⌉); 60 ms of it bound the copy (R327, R329). -/
def shareCopy : Check := fun c =>
  let q := ([2, 3, 4, 5].map (quantumOf c.new 6)).foldl (· + ·) 0
  let n := max 1 (slotsOf (slotTable c.new 6) 0xFF).length
  (c.raw.head?).bind (fun e => failIf e.1 (decide (quantumOf c.new 6 2 * 960000000 < copyVolume c.new * (640 * ((q + n - 1) / n)))))
def shareState : Check := fun c =>
  if c.old.stopped then none else c.changed 0xA000 0xA106 (fun _ _ => true)

/-- The conditions of Table 11.12 for a set that writes sharing objects; order 6 is judged of every set (R338). -/
def table1112 (share : Bool) : List (String × Check) :=
  if share then
    [("SHARE_CODE", shareCode), ("SHARE_RESERVED_LIMIT", shareReserved), ("SHARE_STARVE", shareStarve), ("SHARE_C0_GAP", shareC0Gap),
     ("SHARE_RIDGE_BOUND", shareRidgeBound), ("SHARE_REINIT_COPY", shareCopy), ("SHARE_STATE", shareState)]
  else [("SHARE_REINIT_COPY", shareCopy)]

/-! ### Time (Table 12.15) -/

/-- A two's-complement field lies outside bounds. -/
def sxOut (w : Nat) (v : Nat) (lo hi : Int) : Bool := decide (sx w v < lo) || decide (hi < sx w v)

/-- A value of chapter 12 outside its range. -/
def timeBad (s : State) (i j : Nat) : Bool :=
  let v := s.num i j
  let f := fun (hi lo : Nat) => s.fld i j hi lo
  let out := fun (lo hi : Nat) => decide (v < lo) || decide (hi < v)
  if i = 0x7010 then
    match j with
    | 1 => decide (4 < f 31 29) || f 27 26 == 3 || decide (127 < f 23 16) || sxOut 4 (f 15 12) (-4) 1 || decide (3 < f 11 8)
        || sxOut 4 (f 7 4) (-4) 5
    | 2 => !inF32 L32.zero (fr 100 1) v
    | 3 => !inF32 L32.zero (fr 100 1) v
    | 4 => out 100 1000000000
    | 5 => out 10 1000000
    | 6 => out 0 3600
    | _ => false
  else if i = 0x7028 || i = 0x7029 then (j == 8 && out 10 10000) || (j == 9 && out 1 1000)
  else if i = 0x7030 then
    (j == 1 && (f 9 0 == 0 || decide (500 < f 9 0))) || (j == 2 && sxOut 32 v (-65536000) 65536000) || (j == 6 && decide (2 < v))
  else false

def timeCode : Check := fun c => c.first 0x7000 0x7030 (timeBad c.new)
def timeRole : Check := fun c =>
  let role := c.new.fld 0x7010 1 31 29
  let ptp := c.new.fld 0x7010 1 27 26 == 1
  failIf (keyOf 0x7010 1) ((decide (3 ≤ role) && c.new.num 0x1020 1 == 0) || (role == 1 && ptp)
    || ((role == 2 || role == 3) && !ptp) || ((role == 4 || role == 0) && ptp))
/-- Role, Profile, Domain, TimeSource and ServoOwner: bits [31:25] and [23:16]. -/
def timeState : Check := fun c =>
  let m := 0xFEFF0000
  failIf (keyOf 0x7010 1) (!c.old.stopped && (c.new.num 0x7010 1 &&& m) != (c.old.num 0x7010 1 &&& m))

/-- Table 12.15 (R357, R348). -/
def table1215 : List (String × Check) := [("TIME_CODE", timeCode), ("TIME_ROLE", timeRole), ("TIME_STATE", timeState)]

/-! ### Clocks (Table 13.14) -/

def clkOuts : List Nat := List.range 8
def divOf (s : State) (k : Nat) : Nat := s.fld (0x7200 + k) 1 11 0

def clkCode : Check := fun c =>
  c.first 0x7040 0x7207 (fun i j => c.reserved i j || (0x7100 ≤ i && i ≤ 0x7104
    && ((j == 1 && !(c.new.blob i 1).isEmpty && (c.new.blob i 1).length != 128)
      || (j == 2 && (decide (c.new.num i 2 < 10) || decide (400 < c.new.num i 2))))))
def clkFormat : Check := fun c =>
  c.first 0x7200 0x7207 (fun i j => j == 1 && (let d := c.new.fld i 1 11 0
    d % 2 == 1 || decide (4000 < d) || decide (d < nth 16 [16, 16, 32, 80] (c.new.fld i 1 31 30))))
def clkInUse : Check := fun c =>
  c.changed 0x7200 0x7207 (fun i j => j == 1 && (c.old.bit i 2 15 || clkStartPending c.old (i - 0x7200)))
def clkGroup : Check := fun c =>
  failAny clkOuts (fun g => keyOf 0x2001 (g + 1)) (fun g =>
    let d := divOf c.new (c.new.fld 0x2001 (g + 1) 22 20)
    let m := modKHz c.new g * d
    groupEnabled c.new g && c.new.fld 0x2001 (g + 1) 30 29 == 0 && decide (d < max (4000000 - m) (m - 4000000)))

/-- Table 13.14 (R375). -/
def table1314 : List (String × Check) :=
  [("CLK_CODE", clkCode), ("CLK_FORMAT", clkFormat), ("CLK_RUNNING", clkInUse), ("CLK_GROUP", clkGroup)]

/-! ### Capture (Table 14.9) -/

def plans : List Nat := List.range 8
def planCount (s : State) (k : Nat) : Nat := s.num (planIx k) 5

/-- A value of chapter 14 outside its range. -/
def capBad (s : State) (i j : Nat) : Bool :=
  let v := s.num i j
  let k := i - 0x8010
  let out := fun (lo hi : Nat) => decide (v < lo) || decide (hi < v)
  let b := s.blob i 2
  if i = 0x8000 then j == 3 && decide (384 < v)
  else if 0x8010 ≤ i && i ≤ 0x8017 then
    match j with
    | 1 => planDecim s k == 7 || (planOn s k && b.isEmpty)
    | 2 => b.length % 4 != 0 || decide (256 < b.length) || (planOn s k && b.isEmpty) || (signalsOf b).any (fun g => decide (1 < g.1))
        || (List.range (b.length / 4)).any (fun n => nth 0 b (4 * n + 1) != 0
          || decide ((if nth 0 b (4 * n) = 0 then 63 else 511) < field b (4 * n + 2) 2))
    | 3 => out 64 1048576
    | 5 => out 1 4096
    | 6 => decide (3 < planKind s k) || (planKind s k == 1 && planEdge s k == 0)
    | 9 => out 1 125000
    | 0xA => out 64 65536
    | _ => false
  else false

/-- A plan whose PreRows reach Length, or whose trigger names a signal at or beyond S; a plan that names no signal has no S, and fails so with
Kind LEVEL alone. -/
def planBad (s : State) (k : Nat) : Option Nat :=
  orElse [failIf (keyOf (planIx k) 4) (decide (planLength s k ≤ planPre s k)),
    failIf (keyOf (planIx k) 6) ((planKind s k == 1 || !(planSignals s k).isEmpty) && decide ((planSignals s k).length ≤ planSignal s k))]

def capCode : Check := fun c =>
  orElse [c.first 0x8000 0x8020 (capBad c.new), (plans.filter (fun k => c.wr (planIx k) (planIx k))).findSome? (planBad c.new)]

/-- A result is not exported by the active slot, or as F64 or I64 (R378). -/
def resultBad (s : State) (j : Nat) : Bool := match exportOf s j with
  | some e => decide (3 ≤ gValueType e)
  | none => true

def capSource : Check := fun c =>
  let s := c.new
  (plans.filter (planOn s)).findSome? (fun k =>
    orElse [failIf (keyOf (planIx k) 1) (!planRate s k && !mapEnabled s (planChan s k)),
      failIf (keyOf (planIx k) 2) ((planSignals s k).any (fun g => if g.1 = 0 then !mapEnabled s g.2 else resultBad s g.2))])

/-- The rates of a CHANNEL timebase leave 16 to 2 000 000 events per second (R380). -/
def chanRateBad (s : State) (n : Nat) : Bool :=
  let d := chanDomain s n
  let at_ := fun (sub : Nat) => Dy.mul (Dy.ofInt (arcN s d)) (L32.toDy (s.num (arcIx d) sub))
  let fir := 1000 * modKHz s (chanGroup n)
  let p := firPeriods s n
  (arcResamples s d && (Dy.lt (at_ 2) (Dy.ofInt 16) || Dy.lt (Dy.ofInt 2000000) (at_ 3)))
    || (arcUses s d 3 && (decide (fir < 16 * p) || decide (2000000 * p < fir)))

/-- The period of a RATE timebase of the active slot in lane clocks lies outside 200 to 25 000 000. -/
def tickRateBad (s : State) (rate : Nat) : Bool := match s.activeSlot with
  | some k =>
    let p := schedPeriod s (slotSched s k) * rateCycles (slotSched s k) rate
    decide (p < 200) || decide (25000000 < p)
  | none => false

def capRate : Check := fun c =>
  let s := c.new
  failAny (plans.filter (planOn s)) (fun k => keyOf (planIx k) 1) (fun k =>
    if planRate s k then tickRateBad s (planRateSel s k) else chanRateBad s (planChan s k))

/-- The bytes that the segments of the enabled plans take (R377). -/
def planBytes (s : State) (k : Nat) : Nat := planCount s k * segSize (planStamps s k) (planSignals s k).length (planLength s k)

def capMemory : Check := fun c =>
  let s := c.new
  let on := plans.filter (planOn s)
  let sum := fun (f : Nat → Nat) => (on.map f).foldl (· + ·) 0
  failIf (keyOf 0x8000 3) (decide (4096 < sum (planCount s)) || decide (s.num 0x8000 3 * 1048576 < sum (planBytes s)))

/-- A plan is armed in either sill. -/
def planArmed (s : State) (k : Nat) : Bool := [Side.A, Side.B].any (fun x => (s.engine x k).seg.isSome || (s.engine x k).armAt.isSome)

def capState : Check := fun c =>
  c.changed 0x8000 0x8017 (fun i j => if i = 0x8000 then j == 3 && plans.any (planArmed c.old) else planArmed c.old (i - 0x8010))

/-- Table 14.9 (R394). -/
def table149 : List (String × Check) :=
  [("CAP_CODE", capCode), ("CAP_SOURCE", capSource), ("CAP_RATE", capRate), ("CAP_MEMORY", capMemory), ("CAP_STATE", capState)]

/-! ### Scribe, counters and tags (Table 15.16) -/

/-- An ElementSelect that names neither a class nor a type. -/
def selectBad (exact : Bool) (v : Nat) : Bool := decide ((if exact then 0x30 else 8) < v)

/-- A value of chapter 15 outside its range. -/
def scribeBad (s : State) (i j : Nat) : Bool :=
  let b := s.blob i j
  if i = 0x8100 then (j == 7 && b.length != 32) || (j == 0xC && s.fld i 0xC 31 24 == 0)
  else if i = 0x8101 then
    b.length != 1024 || (List.range 256).any (fun e => nth 0 b (4 * e) == 0 || nth 0 b (4 * e + 1) != 0)
  else if 0x8110 ≤ i && i ≤ 0x814F then
    (j == 1 && (s.fld i 1 31 30 == 3 || s.fld i 1 15 0 == 0))
      || (j == 3 && !(L32.isFinite (s.num i 3) && L32.lt L32.zero (s.num i 3)))
  else if 0x8210 ≤ i && i ≤ 0x8211 then j == 1 && selectBad (s.bit i 1 29) (s.fld i 1 28 22)
  else if 0x8300 ≤ i && i ≤ 0x836F then j == 1 && selectBad (s.bit i 1 23) (s.fld i 1 22 16)
  else false

def scribeCode : Check := fun c => c.first 0x8100 0x836F (scribeBad c.new)

/-- The sensors of Table 17.8. -/
def sensorDefined (n : Nat) : Bool :=
  decide (n ≤ 6) || (decide (8 ≤ n) && decide (n ≤ 19)) || n == 24 || (decide (26 ≤ n) && decide (n ≤ 30))
    || (decide (32 ≤ n) && decide (n ≤ 35))

def scribeSource : Check := fun c =>
  let bad := fun (i : Nat) => (c.new.fld i 1 31 30 == 1 && resultBad c.new (c.new.fld i 1 24 16))
    || (c.new.fld i 1 31 30 == 2 && !sensorDefined (c.new.fld i 1 24 16))
  if (c.first 0x8100 0x836F (fun _ _ => true)).isSome then ((List.range 64).find? (fun q => bad (quantIx q))).map (fun q => keyOf (quantIx q) 1)
  else none

/-- An event that the counter's die does not have (Table 15.8). -/
def eventBad (i e : Nat) : Bool :=
  e != 0 && !(if i < 0x8360 then decide (e ≤ 0x14) else decide (0x40 ≤ e) && decide (e ≤ 0x49))

def perfCode : Check := fun c =>
  c.first 0x8300 0x836F (fun i j =>
    (j == 1 && (eventBad i (c.new.fld i 1 7 0) || (i % 2 == 0 && c.new.bit i 1 30)))
      || ((j == 3 || j == 4) && decide (c.new.num i 4 < c.new.num i 3)))

/-- A truss is tagging: its TagEnable is set while it executes. -/
def tagging (s : State) (x : Side) : Bool :=
  s.bit (0x8210 + sideIx x) 1 31 && s.feeds x && (s.graph x).started && ticksOccur s

def perfRunning : Check := fun c =>
  orElse [c.changed 0x8300 0x836F (fun i j => decide (j ≤ 4) && c.old.scribe.running.contains (i - 0x8300)),
    c.changed 0x8210 0x8211 (fun i j => j == 1 && tagging c.old (sideOf (i - 0x8210)))]
def tagCode : Check := fun c =>
  c.first 0x8210 0x8211 (fun i j => (j == 2 && c.new.num i 2 == 0)
    || (j == 1 && (decide (c.new.fld i 1 20 16 < 8) || decide (16 < c.new.fld i 1 20 16))))

/-- Table 15.16 (R420). -/
def table1516 : List (String × Check) :=
  [("SCRIBE_CODE", scribeCode), ("SCRIBE_SOURCE", scribeSource), ("PERF_CODE", perfCode), ("PERF_RUNNING", perfRunning),
   ("TAG_CODE", tagCode)]

/-! ### Communication (Table 16.13) -/

/-- A value of chapter 16 outside its range. -/
def commBad (s : State) (i j : Nat) : Bool :=
  let v := s.num i j
  let out := fun (lo hi : Nat) => decide (v < lo) || decide (hi < v)
  match i * 256 + j with
  | 0x101005 => decide (4094 < s.fld i j 27 16)
  | 0x102001 => decide (1 < v)
  | 0x102002 => out 100 10000
  | 0x102003 => out 10 1000
  | 0x102004 => out 100 60000
  | 0x103005 => out 100 60000
  | 0x103006 => out 5 3600
  | 0x120003 => (s.blob i j).length != 32
  | 0x120004 => (s.blob i j).length != 32
  | 0x120005 => out 1 100
  | _ => false

def commCode : Check := fun c => c.first 0x1010 0x1200 (commBad c.new)

/-- A contiguous mask: its complement is one less than a power of two. -/
def maskOk (m : Nat) : Bool := let n := 2 ^ 32 - m; n &&& (n - 1) == 0

/-- An address of no host: 0, broadcast, multicast, loopback, or the network or broadcast address of its mask. -/
def addressBad (a m : Nat) : Bool :=
  let host := 2 ^ 32 - 1 - m
  a == 0 || a == 0xFFFFFFFF || bits a 31 28 == 14 || bits a 31 24 == 127 || a &&& host == 0 || a &&& host == host

def commAddress : Check := fun c =>
  let s := c.new
  let a := s.num 0x1010 2
  let m := s.num 0x1010 3
  let g := s.num 0x1010 4
  if c.wr 0x1010 0x1010 then
    orElse [failIf (keyOf 0x1010 1) (s.bit 0x1010 1 40), failIf (keyOf 0x1010 3) (!maskOk m),
      failIf (keyOf 0x1010 2) (addressBad a m), failIf (keyOf 0x1010 4) (g != 0 && g &&& m != a &&& m)]
  else none
def commKey : Check := fun c =>
  c.first 0x1030 0x1030 (fun i j => decide (j ≤ 4) && (let k := c.new.blob i j
    k.length != 32 || k.all (· == 0) || [1, 2, 3, 4].any (fun o => o != j && c.new.blob i o == k)))
def commState : Check := fun c =>
  if c.old.stopped then none
  else c.changed 0x1010 0x1020 (fun i j => (i == 0x1020 && j == 1) || (i == 0x1010 && j != 4))

/-- Table 16.13 (R451). -/
def table1613 : List (String × Check) :=
  [("COMM_CODE", commCode), ("COMM_ADDRESS", commAddress), ("COMM_KEY", commKey), ("COMM_STATE", commState)]

/-! ### Boot and management (Table 17.15) -/

def bootCode : Check := fun c => c.first 0xB010 0xB010 (fun _ j => j == 2 && !inF32 (fr 60 1) (fr 115 1) (c.new.num 0xB010 2))

/-- The objects that a set may write before READY (R462). -/
def bootSet (i j : Nat) : Bool :=
  (0x1000 ≤ i && i ≤ 0x1FFF) || (i == 0x6000 && j == 1) || i == 0x6010 || i == 0x7040 || (0x7100 ≤ i && i ≤ 0x7104) || i == 0xB010
    || i == 0xB100

def bootNotReady : Check := fun c => if c.old.ready then none else c.first 0 0xFFFF (fun i j => !bootSet i j)

/-- An entry of a repair map lies outside Table 17.6. -/
def mapEntryBad (e : List Nat) : Bool :=
  let side := nth 0 e 1
  let ix := field e 2 2
  let sub := field e 4 4
  let ok := fun (s i b : Nat) => decide (side ≤ s) && decide (ix ≤ i) && decide (sub ≤ b)
  !(match nth 0 e 0 with
    | 1 => ok 1 15 8
    | 2 => ok 1 17 0
    | 3 => ok 1 17 4095
    | 4 => ok 1 0 255
    | 5 => ok 2 71 0
    | 6 => side == 0xFF && decide (ix ≤ 71) && sub == 0
    | 7 => ok 1 0 0
    | 8 => side == 0xFF && ix == 0 && sub == 0
    | _ => false)

/-- A repair map breaks R463. -/
def repairBad (s : State) (b : List Nat) : Bool :=
  let n := field b 4 2
  field b 0 4 != 0x52504D31 || decide (1024 < n) || b.length != 20 + 8 * n || field b 6 2 != 0 || field b 8 8 != s.num 0x1000 1
    || (mapEntries b).any mapEntryBad || field b (16 + 8 * n) 4 != crc32 (b.take (16 + 8 * n))

def bootRepairFormat : Check := fun c => c.first 0xB100 0xB100 (fun i j => j == 1 && repairBad c.new (c.new.blob i 1))
def bootRepairLate : Check := fun c => if c.old.boot.bringUpBegun then c.first 0xB100 0xB100 (fun _ j => j == 1) else none

/-- Table 17.15 (R476). -/
def table1715 : List (String × Check) :=
  [("BOOT_CODE", bootCode), ("BOOT_NOT_READY", bootNotReady), ("BOOT_REPAIR_FORMAT", bootRepairFormat),
   ("BOOT_REPAIR_LATE", bootRepairLate)]

/-! ### All tables in their order (R430) -/

/-- The checks that a set is judged by: every table, in the order of R430. Conditions that name what a set writes or changes look at that
themselves; a set with no writes commits with no change (R431). -/
def tablesFor (c : Cand) : List (String × Check) :=
  if c.raw.isEmpty then []
  else
    table019 ++ table0218 ++ table0314 ++ table0413 ++ table0514 ++ table0617 ++ table0716 ++ table0812 ++ table0913 ++ table109
      ++ table1112 (c.wr 0xA000 0xA106) ++ table1215 ++ table1314 ++ table149 ++ table1516 ++ table1613 ++ table1715

/-- The first failing condition: its name and the object concerned. -/
def setFailure (c : Cand) : Option (String × Nat) :=
  (tablesFor c).findSome? (fun t => (t.2 c).map (fun k => (t.1, k)))

end Sys2Proof.Machine
end

