-- ==== Sys2Proof/Machine/Commit.lean ====
section
/-!
DEFINITION. The completion of a commit (R430 to R432): the candidate, the rejection, and at T_c the effects on both sides of the objects
that the set writes, chapter by chapter.
-/
namespace Sys2Proof.Machine

/-! ### The candidate -/

/-- A staged value in place: the bits that an object does not let be written keep their value. -/
def applyValue (k : Nat) (v : Val) (s : State) : State :=
  match v, rowOf k with
  | .num n, some o => s.setNum (k / 256) (k % 256) (clearMask (s.num (k / 256) (k % 256)) o.rw ||| (n &&& o.rw))
  | .blob b, some _ => s.putVal k (.blob b)
  | _, none => s

/-- Every staged value in place. -/
def applyStaged (l : Store Val) (s : State) : State := l.foldl (fun s e => applyValue e.1 e.2 s) s

/-- The candidate of a set: the checks judge the profile that the set puts in effect (R500). -/
def candOf (l : Store Val) (s : State) : Cand :=
  let n := applyStaged l s
  ⟨s, if l.any (fun e => e.1 == 0x600001) then adoptProfile n else n, l⟩

/-- The set changes an object. -/
def Cand.diff (c : Cand) (i j : Nat) : Bool := c.has i j && c.new.val (keyOf i j) != c.old.val (keyOf i j)
/-- The set changes bits of a number. -/
def Cand.diffBits (c : Cand) (i j m : Nat) : Bool := c.has i j && (c.new.num i j &&& m) != (c.old.num i j &&& m)

/-! ### Measurement, arc and chord -/

/-- The channel restarts its chain at the commit (R65). -/
def chainChanged (c : Cand) (n : Nat) : Bool :=
  [1, 2, 3].any (c.diff (0x2100 + n)) || c.diff 0x2001 (chanGroup n + 1)

/-- A group whose ClockGroupConfig changes loses the grid of its last alignment (R65), and one that is disabled its balls' histories (R95). The periods of R66 count from the enabling of a
group. -/
def commitGroups (c : Cand) (s : State) : State :=
  forN 8 (fun g s =>
    let q := { s.group g with aligned := false, restart := true }
    if c.diff 0x2001 (g + 1) then
      let s := s.setGroup g (if c.old.bit 0x2001 (g + 1) 31 then q else { q with last := s.now, missing := false })
      if groupEnabled s g then s else leaveAlign g (emptyHistories g s)
    else s) s

/-- A channel that the set moves to another domain takes its next index on that domain's line. -/
def joinDomain (n : Nat) (x : Side) (s : State) : State :=
  match (s.arc x (chanDomain s n)).line with
  | some l => s.setChain x n (reindexChain s x l s.ridge n (s.chain x n))
  | none => s.setChain x n { s.chain x n with n := 0 }

/-- What a set does to one channel: restart, DC estimate, supervision, domain, SettleCount and delays (R49, R65, R81, R501). -/
def commitChannel (c : Cand) (n : Nat) (s : State) : State :=
  let s := s.setNum (0x2100 + n) 0xE (settleCount s n)
  let s := if chainChanged c n && chanEnabled s n then restartOnGrid n s else s
  let s := if c.diff (0x2100 + n) 1 && !chanEnabled s n then s.setFeedback n Feedback.init else s
  let est := sx 32 (s.num (0x2100 + n) 6) * 65536
  let s := if c.has (0x2100 + n) 6 then
      [Side.A, Side.B].foldl (fun s x => if s.feeds x then s.setChain x n { s.chain x n with dc := est } else s) s
    else s
  let s := if c.diff (0x2100 + n) 0xF then
      [Side.A, Side.B].foldl (fun s x => if s.feeds x then joinDomain n x s else s) s
    else s
  refreshDelay n s

/-- The bytes that a bank's seal covers (R55). -/
def sealBytes (s : State) (i : Nat) : List Nat :=
  let n := s.num i 0x81
  (List.range n).flatMap (fun j => beBytes 4 (s.num i (j + 1))) ++ [n]

/-- A bank written by the set is sealed or unsealed (R55). -/
def commitBank (c : Cand) (k : Nat) (s : State) : State :=
  let i := 0x2200 + k
  if c.wr i i then s.setNum i 0x83 (if s.num i 0x82 = crc32 (sealBytes s i) then 1 else 0) else s

/-- A domain on FIXED follows a change of FixedFreq (R78, R89). -/
def commitDomain (c : Cand) (d : Nat) (s : State) : State :=
  if c.diff (0x2500 + d) 4 then
    [Side.A, Side.B].foldl (fun s x =>
      if s.feeds x && (s.arc x d).src == 2 then takeLine x d (fixedLine s d) s.ridge s else s) s
  else s

/-- A comparator restarts its count (R96): Filter or Osr of its channel, or its Threshold, Persistence, Action or Blank changes. -/
def commitComparator (c : Cand) (n k : Nat) (s : State) : State :=
  if c.diffBits (0x2600 + n) 1 0xF0000000 || c.diffBits (0x2600 + n) (2 + k) 0xEF000FFF then s.setComp n k Comparator.init else s

/-- Chapters 02 and 03. -/
def commitMeasurement (c : Cand) (s : State) : State :=
  let s := commitGroups c s
  let s := forN 128 (commitBank c) s
  let s := forN 64 (commitChannel c) s
  let s := forN 4 (commitDomain c) s
  let s := if c.wr 0x2500 0x2503 then sourcesAtOnce s else s
  let s := if c.wr 0x2600 0x263F then forN 64 (fun n s => forN 4 (commitComparator c n) s) s else s
  sweepSwaps s.ridge s

/-! ### Graph, grid-forming, modulation, stacks -/

/-- A slot whose tables are written is READY, or EMPTY where both are empty (R127). -/
def commitSlot (c : Cand) (k : Nat) (s : State) : State :=
  if c.has (0x3100 + k) 1 || c.has (0x3100 + k) 2 then
    if (s.blob (0x3100 + k) 1).isEmpty then setSlotState k 0 (s.setNum (0x3100 + k) 3 0)
    else setSlotState k 1 (s.setNum (0x3100 + k) 3 (field (s.blob (0x3100 + k) 1) 4 4))
  else s

/-- BaseCurrent and BaseImpedance (R182). -/
def commitBases (s : State) : State :=
  let p := D64.of32 (s.num 0x4000 1)
  let v := D64.of32 (s.num 0x4000 2)
  let s := s.setNum 0x4000 4 (D64.to32 (D64.div p (D64.mul (D64.sqrt (D64.ofInt 3)) v)))
  s.setNum 0x4000 5 (D64.to32 (D64.div (D64.mul v v) p))

/-- A group whose Run the set sets holds no start that fell due before (R504). A CarrierPeriod written goes to the shadow under R222,
stamped as a host write. -/
def commitPeriod (c : Cand) (g : Nat) (s : State) : State :=
  let keep := fun (v : Carrier) => { v with starts := v.startsAfter s.ridge }
  let s := if !c.old.bit (0x5120 + g) 1 31 && runSet s g then (s.modCarrier .A g keep).modCarrier .B g keep else s
  if c.has (0x5120 + g) 3 then stampWrite 4 g (s.num (0x5120 + g) 3) s else s

/-- FaultInEnable and FaultInActiveHigh (R230): an input that is enabled at its active level trips. -/
def commitFaultIn (c : Cand) (s : State) : State :=
  if c.wr 0x5310 0x5310 then
    let turned := c.new.num 0x5310 2 ^^^ c.old.num 0x5310 2
    forN 16 latchFaultIn { s with plate := { s.plate with faultLevel := s.plate.faultLevel ^^^ turned } }
  else s

/-- Stacks whose bit of StackMask the set sets are read (R244); the shares of groups whose members it writes are formed anew (R254). -/
def commitStacks (c : Cand) (s : State) : State :=
  let s := if c.has 0x9000 1 then
      forN 16 (fun k s => if !c.old.bit 0x9000 1 k && s.bit 0x9000 1 k then queueRead k s else s) s
    else s
  forN 16 (fun w s => if [1, 2, 3].any (c.diff (0x9100 + w)) then recomputeShares w s else s) s

/-! ### Sides -/

/-- A side that the new profile uses but that is OFF is brought back as by POWER_UP (R285). -/
def wakeSide (x : Side) (s : State) : State := if s.powered x then s else setFailed x s

/-- Control passes to a side at a change of profile that uses both sides: a driven pair changes at its vertex (R29). -/
def takeControl (x : Side) (s : State) : State :=
  if s.sideState x = 1 then setReserve (otherSide x) s
  else deliverChange x true (setReserve (otherSide x) (setControl x s))

/-- The side that SINGLE_SIDE leaves out is powered off (R36): the pairs that it drives are released, and no change of side waits. -/
def leaveOut (y : Side) (s : State) : State :=
  let s := forN 72 (fun n s => if (s.plateOf n).sideB == (sideIx y == 1) then plateRelease n s else s) s
  sideOff y { s with sides := { s.sides with takeover := none, handover := 0 } }

/-- A committed change of profile (R35, R263): the side states by the rule of READY, a side in service being one that is usable. -/
def commitProfile (s : State) : State :=
  let x := if s.num 0x6000 1 % 8 = 3 then sideOf (s.fld 0x6000 1 4 4) else preferred s
  let y := otherSide x
  let s := adoptProfile s
  let s := if s.profile = 3 then
      if s.inService x then setDegraded false (checkHoldover 1 (leaveOut y (setControl x s))) else setDegraded false (wakeSide x s)
    else if s.inService x && s.inService y then setDegraded false (takeControl x s)
    else setDegraded true (wakeSide y (wakeSide x s))
  setBays s

/-- Before READY the profile waits for READY (R467). -/
def commitSides (c : Cand) (s : State) : State :=
  if s.ready && c.has 0x6000 1 && (c.new.num 0x6000 1 &&& 0x307) != (c.old.num 0x6000 2 &&& 0x307) then commitProfile s else s

/-! ### Sharing, time, clocks -/

/-- Bounds and reserved slots at every resource, and ReinitCopyVolume (R321, R325, R329). -/
def commitSharing (c : Cand) (s : State) : State :=
  let old := resources.map (fun r => tablesIn c.old r (slotAt c.old r (c.old.now / resClock r)).2)
  let s := if c.wr 0xA100 0xA106 then
      let s := resources.foldl (fun s r =>
        (s.setBlob (resIx r) 3 ((List.range 6).flatMap (fun k => beBytes 2 (boundOf s r k)))).setNum (resIx r) 5
          (reservedOf (slotTable s r))) s
      { s with sharing := { s.sharing with oldTables := some (s.ridge + rns 2000, old) } }
    else s
  s.setNum 0xA000 4 (copyVolume s)

/-- TimeConfig (R347, R348): a change of Role, Profile or Domain starts the ports afresh; one of TimeSource starts the servo afresh, and one of
ServoOwner its integral (log entry 8). -/
def commitTime (c : Cand) (s : State) : State :=
  let s := if c.diffBits 0x7010 1 0xF0FF0000 then timeRoleCommitted s else if c.wr 0x7010 0x7010 then portsByRole s else s
  if c.diffBits 0x7010 1 0x0C000000 then timeSourceCommitted s
  else if c.diffBits 0x7010 1 0x02000000 then { s with clock := { s.clock with servoI := 0 } }
  else s

/-- ClkOutFreq (Table 13.10): 4 000 000 / Div kHz. -/
def commitClocks (c : Cand) (s : State) : State :=
  clkOuts.foldl (fun s k => if c.has (0x7200 + k) 1 then s.setNum (0x7200 + k) 3 (4000000 / max 1 (divOf s k)) else s) s

/-! ### Capture, scribe, counters -/

/-- The layout of a plan's segments changes. -/
def planChanged (c : Cand) (k : Nat) : Bool := c.diffBits (planIx k) 1 0x90000000 || [2, 3, 5].any (c.diff (planIx k))

/-- The first `n` SegmentIds that no plan holds. -/
def freeIds (s : State) (n : Nat) : List Nat :=
  let used := (List.range 8).flatMap (planIds s)
  ((List.range 4096).filter (fun i => !used.contains i)).take n

/-- A plan loses its segments on both sides; its Sequence goes on. -/
def dropPlan (k : Nat) (s : State) : State :=
  let s := (planIds s k).foldl (fun s i => (s.dropSegment .A i).dropSegment .B i) s
  let s := [Side.A, Side.B].foldl (fun s x => s.setEngine x k { Engine.init with seqNo := (s.engine x k).seqNo }) s
  let s := s.setStream k Stream.init
  { s with capture := { s.capture with ids := Store.put [] k [] s.capture.ids } }

/-- The segments of the plans are allocated (R377). -/
def commitCapture (c : Cand) (s : State) : State :=
  if c.wr 0x8010 0x8017 then
    let s := forN 8 (fun k s => if planChanged c k then dropPlan k s else s) s
    let s := forN 8 (fun k s =>
      if planChanged c k && planOn s k then
        { s with capture := { s.capture with ids := Store.put [] k (freeIds s (planCount s k)) s.capture.ids } }
      else s) s
    s.setNum 0x8000 5 (((List.range 8).map (fun k => (planIds s k).length)).foldl (· + ·) 0)
  else s

/-- A quantity whose Source, BinLow or BinWidth changes is cleared (R401); one that is enabled counts PeriodMs from T_c (R398). -/
def commitQuantity (c : Cand) (q : Nat) (s : State) : State :=
  let i := 0x8110 + q
  let s := if c.diffBits i 1 0x01FF0000 || c.diff i 2 || c.diff i 3 then clearQuantity q s else s
  let due := if c.old.fld i 1 31 30 = 0 then s.now + msFs (s.fld i 1 15 0) else Store.get 0 q s.scribe.histAt
  if c.has i 1 then
    { s with scribe := { s.scribe with histAt := Store.put 0 q (if s.fld i 1 31 30 = 0 then 0 else due) s.scribe.histAt } }
  else s

/-- A bucket whose Capacity changes is full (R407). -/
def commitBuckets (c : Cand) (s : State) : State :=
  let fill := fun (s : State) (b : Nat) =>
    if (bucketOf c.old (if b < 256 then b else 0x8000)).2.1 = (bucketOf s (if b < 256 then b else 0x8000)).2.1 then s
    else { s with scribe := { s.scribe with
      buckets := Store.put Bucket.init b { Store.get Bucket.init b s.scribe.buckets with used := 0 } s.scribe.buckets } }
  if c.wr 0x8100 0x8101 then (List.range 257).foldl fill s else s

/-- A truss loads TagSeed when its TagEnable becomes set, and tags the executions that start from then on (R417). -/
def commitTags (c : Cand) (s : State) : State :=
  forN 2 (fun n s =>
    if !c.old.bit (0x8210 + n) 1 31 && s.bit (0x8210 + n) 1 31 then
      let x := sideOf n
      let started := match s.activeSlot with
        | some k => (startedEntries s x k).map (fun p => p.1)
        | none => []
      { s with scribe := { s.scribe with lfsr := setNth s.scribe.lfsr n (s.num (0x8210 + n) 2) } }.setGraph x { s.graph x with tagged := started }
    else s) s

/-- Chapter 15; a counter that is no longer enabled stops. -/
def commitScribe (c : Cand) (s : State) : State :=
  let s := if c.wr 0x8110 0x814F then forN 64 (commitQuantity c) s else s
  let s := commitTags c (commitBuckets c s)
  if c.wr 0x8300 0x836F then
    { s with scribe := { s.scribe with running := s.scribe.running.filter (fun i => s.bit (0x8300 + i) 1 31) } }
  else s

/-! ### Communication -/

/-- NOTIFY entries are kept for the events that NotifyRoute selects (R448). -/
def commitRoutes (c : Cand) (s : State) : State :=
  if c.has 0x1200 3 then
    (List.range 17).foldl (fun s r =>
      let rd := s.reader r
      s.setReader r { rd with notes := rd.notes.filter (fun n => blobBit (s.blob 0x1200 3) n.ev) }) s
  else s

/-- The sessions of a role whose key the set replaces close (R445). -/
def closeRoles (c : Cand) (s : State) : State :=
  (s.net.sessions.filter (fun e => c.has 0x1030 (e.2.role + 1))).foldl (fun s e => closeSession 3 e.1 s) s

/-- The response to the WRITE or the row that carried the COMMIT, where one waits: its item takes the status. -/
def replyCommit (status : Nat) (o : OpenSet) (s : State) : State :=
  match o.reply with
  | none => s
  | some r =>
    let items := setNth r.items r.ix (itemBytes 0x105001 status r.off [])
    match r.row with
    | some rd => s.emit 20 rd [status]
    | none =>
    if r.sid = 0xFF then s.sendSot 8 (2 ^ 32) true (sotBytes [] 0x86 0 0 (toT96 s.ridge) r.ref (itemsBody items))
    else s.sendSession 8 0x86 r.sid r.ref (itemsBody items)

/-! ### Completion (R430 to R432) -/

/-- Every effect of a set at T_c, in the order of the chapters. -/
def effects (c : Cand) (s : State) : State :=
  let s := commitMeasurement c s
  let s := commitSlot c 1 (commitSlot c 0 s)
  let s := if c.wr 0x4000 0x4000 then commitBases s else s
  let s := commitFaultIn c (forN 8 (commitPeriod c) s)
  let s := commitSides c (commitStacks c s)
  let s := commitClocks c (commitTime c (commitSharing c s))
  commitRoutes c (commitScribe c (commitCapture c s))

/-- The set takes effect (R431). -/
def takeSetEffect (o : OpenSet) (c : Cand) (s : State) : State :=
  let s := effects c (applyStaged o.staged s)
  let s := { s with net := { s.net with openSet := none } }
  let s := ((s.setNum 0x1050 3 o.id).setNum 0x1050 4 (toT96 s.ridge)).setBlob 0x1050 5 ("OK".toList.map Char.toNat)
  let s := ((s.setNum 0x1050 6 0).raise 229 o.id).fwNote 0x0103 o.id
  closeRoles c (replyCommit 0 o s)

/-- The set is rejected (R432): it stays open with its staged values. -/
def rejectSet (o : OpenSet) (name : String) (k : Nat) (s : State) : State :=
  let s := s.modSet (fun q => { q with checking := false, reply := none })
  let s := (s.setBlob 0x1050 5 (name.toList.map Char.toNat)).setNum 0x1050 6 (k * 256)
  replyCommit 0x17 o (s.raise 230 o.id (k * 256))

/-- The checks of the open set complete. -/
def completeCommit (s : State) : State :=
  match s.net.openSet with
  | none => s
  | some o =>
    if !o.checking then s
    else
      let c := candOf o.staged s
      match setFailure c with
      | some (name, k) => rejectSet o name k s
      | none => takeSetEffect o c s

/-- COMMIT_COMPLETE (R430 to R432). -/
def execCommitComplete (t : Nat) (s : State) : Host.Outcome State Fault Refusal := run (.commitComplete t) completeCommit s

end Sys2Proof.Machine
end

