-- ==== Sys2Proof/Machine/Frames.lean ====
section
/-!
DEFINITION. Frames on ports X and Y (R433) and their redundancy (R438 to R440), with the forwarding of PTP event messages (R351).
-/
namespace Sys2Proof.Machine

/-- The device's MAC and IPv4 addresses (Table 16.4). -/
def ownMac (s : State) : Nat := s.num 0x1010 1
def ownIp (s : State) : Nat := s.num 0x1010 2

/-- RedMode HSR (Table 16.8). -/
def redHsr (s : State) : Bool := s.num 0x1020 1 == 1

/-- The EtherTypes handled (R433). -/
def etherOk (e : Nat) : Bool := e == 0x0800 || e == 0x0806 || e == 0x88F7 || e == 0x88FB || e == 0x892F

/-- The VLAN tag is accepted (R433): none, or VlanId. -/
def vlanOk (s : State) (v : Nat) : Bool := v == 0 || v == s.fld 0x1010 5 27 16

/-- A group address: bit 0 of the first byte of a MAC address. -/
def isMulticast (mac : Nat) : Bool := mac.testBit 40

/-- The frame's source and sequence number were seen within EntryForgetTime (R438, R439). -/
def seenBefore (s : State) (f : Frame) : Bool :=
  s.net.dups.any (fun d => d.1 == f.src && d.2.1 == f.rseq && decide (s.now < d.2.2 + msFs (s.num 0x1020 3)))

/-- The frame is entered; entries forgotten are dropped. -/
def noteSeen (f : Frame) (s : State) : State :=
  let keep := s.net.dups.filter (fun d => decide (s.now < d.2.2 + msFs (s.num 0x1020 3)) && !(d.1 == f.src && d.2.1 == f.rseq))
  { s with net := { s.net with dups := keep ++ [(f.src, f.rseq, s.now)] } }

/-- The node of a source, newest heard last; the table holds 128, and the least recently heard goes first (R438). A port's silence counts from
when the source was first heard on the other. -/
def noteNode (port src : Nat) (s : State) : State :=
  let old := (s.net.nodes.find? (fun n => n.1 == src)).getD (src, s.now, s.now)
  let new := if port = 0 then (src, s.now, old.2.2) else (src, old.2.1, s.now)
  let l := s.net.nodes.filter (fun n => n.1 != src) ++ [new]
  { s with net := { s.net with nodes := l.drop (l.length - 128) } }

/-- LanFaultX and LanFaultY (Table 16.8). -/
def lanBit (port : Nat) : Nat := 13 - port

/-- A frame is delivered (R433): its SOT message is taken. `seen` names the duplicate entry that is released where it fails (R440). -/
def deliverFrame (port : Nat) (f : Frame) (seen : Option (Nat × Nat)) (s : State) : State :=
  if f.fragment then s
  else match f.sot with
    | some m => messageOf { m with path := 2 + port } seen s
    | none => s

/-- A frame for the device is delivered with its duplicate entry. -/
def deliverOnce (port : Nat) (f : Frame) (s : State) : State := deliverFrame port f (some (f.src, f.rseq)) s

/-- A frame is addressed to the device (R438, R439). -/
def forUs (s : State) (f : Frame) : Bool := f.dst == ownMac s || isMulticast f.dst

/-- The correctionField of a forwarded frame (R351): an event message gains its residence time, and with POWER_UTILITY a Sync the
path delay of the ingress port. -/
def forwardCorrection (s : State) (port : Nat) (f : Frame) : Nat :=
  if f.isPtp && f.ptpType < 4 then
    let link := if s.bit 0x7010 1 28 && f.ptpType == 0 then sx 64 (s.num (0x7028 + port) 3) else 0
    ofInt 64 (sx 64 f.correction + f.residence + link)
  else f.correction

/-- A frame leaves the other port (R439), with a bad check sequence where it had one: at once where the port is idle, and else behind the
frames before it, 64 of which may wait; the time it waits, in ns, is told with it. A BOUNDARY clock terminates PTP frames (R348). -/
def forwardFrame (port : Nat) (f : Frame) (s : State) : State :=
  let y := 1 - port
  let l := lineOf s y
  if f.isPtp && s.timeRole = 3 then s
  else if portServed s y && decide (l.length ≤ 64) then
    countEvent y 0x13 1 0 ((takeLineTime y f.len s).emit 10 y (beBytes 6 f.dst ++ beBytes 6 f.src ++ beBytes 2 f.etherType ++ beBytes 2 f.vlan
      ++ beBytes 2 f.rseq ++ [f.fcsOk.toNat] ++ beBytes 8 (forwardCorrection s port f) ++ beBytes 4 ((l.foldl max s.now - s.now) / 1000000)))
  else s

/-- A frame under PRP (R438). -/
def takePrp (port : Nat) (f : Frame) (s : State) : State :=
  if !f.fcsOk then s
  else if !f.tagged then (if forUs s f then deliverFrame port f none s else s)
  else
    let s := (noteNode port f.src s).setBitO 0x1020 5 (lanBit port) false
    if seenBefore s f then secInc 4 s
    else if forUs s f then deliverOnce port f (noteSeen f s)
    else noteSeen f s

/-- The device's own supervision frame has come back on a port (R439): the ring is closed there. -/
def ringBack (port : Nat) (s : State) : State :=
  let m := setBit s.net.ringPorts port false
  { s with net := { s.net with lifeBack := setNth s.net.lifeBack port s.now, ringPorts := m } }.setBitO 0x1020 5 11 (m != 0)

/-- A frame under HSR (R439). -/
def takeHsr (port : Nat) (f : Frame) (s : State) : State :=
  if f.src = ownMac s then (if f.fcsOk && f.etherType == 0x88FB then ringBack port s else s)
  else if f.tagged && seenBefore s f then s
  else
    let s := if f.tagged && f.fcsOk then noteSeen f s else s
    if f.dst = ownMac s then (if f.fcsOk then deliverOnce port f s else s)
    else if isMulticast f.dst then
      let s := forwardFrame port f s
      if f.fcsOk then deliverOnce port f s else s
    else forwardFrame port f s

/-- FRAME_RECEIVED (R433, R438 to R440): a frame of up to 1518 bytes, or 1522 with a tag. -/
def execFrameReceived (t port : Nat) (frame : Frame) (s : State) : Host.Outcome State Fault Refusal :=
  run (.frameReceived t port frame) (fun s =>
    if !portServed s port || decide ((if frame.vlan = 0 then 1518 else 1522) < frame.len) then s
    else
      let s := countEvent port 0x14 1 0 s
      if !etherOk frame.etherType || !vlanOk s frame.vlan then s
      else
        let s := answerPtp port frame s
        if redHsr s then takeHsr port frame s else takePrp port frame s) s

/-- ARP is answered (R433, R459): by the firmware, and by the ROM loader for the default address. -/
def answersArp (s : State) (port target : Nat) : Bool :=
  portServed s port && target == ownIp s && (s.boot.serving || (decide (2 ≤ s.stage) && decide (s.stage ≤ 4)))

/-- A reply to ARP or to an ICMP echo: at most 100 of them per second (R433). -/
def replyFrame (kind port : Nat) (body : List Nat) (s : State) : State :=
  let l := s.net.icmp.filter (fun x => decide (s.now < x + secFs 1))
  if l.length < 100 then ({ s with net := { s.net with icmp := l ++ [s.now] } }.emit kind port body).frameOut 64 else s

/-- ARP_REQUEST (R433). -/
def execArpRequest (t port target : Nat) (s : State) : Host.Outcome State Fault Refusal :=
  run (.arpRequest t port target) (fun s =>
    if answersArp s port target then replyFrame 12 port (beBytes 6 (ownMac s) ++ beBytes 4 (ownIp s)) s else s) s

/-- ICMP_ECHO (R433). -/
def execIcmpEcho (t port target : Nat) (s : State) : Host.Outcome State Fault Refusal :=
  run (.icmpEcho t port target) (fun s =>
    if portServed s port && s.boot.serving && target == ownIp s then replyFrame 13 port (beBytes 4 (ownIp s)) s else s) s

/-- SUPERVISION_FRAME_SEND (R438, R439): every LifeCheckInterval, on both ports. -/
def execSupervisionFrameSend (t : Nat) (s : State) : Host.Outcome State Fault Refusal :=
  run (.supervisionFrameSend t) (fun s =>
    if s.boot.serving && anyPort s && decide (s.net.lifeAt + msFs (s.num 0x1020 2) ≤ s.now) then
      (({ s with net := { s.net with lifeAt := s.now } }).emit 11 2 (beBytes 6 (ownMac s) ++ [s.num 0x1020 1])).frameOut 64
    else s) s

/-- Trailered frames have come on the other port only, from every source in the table, for LanCheckTime (R438). -/
def lanSilent (s : State) (port : Nat) : Bool :=
  let w := msFs (s.num 0x1020 4)
  !s.net.nodes.isEmpty && s.net.nodes.all (fun n =>
    let here := if port = 0 then n.2.1 else n.2.2
    let there := if port = 0 then n.2.2 else n.2.1
    decide (here + w ≤ s.now) && decide (s.now < there + w))

/-- LAN_FAULT (R438): of the silent port. -/
def execLanFault (t port : Nat) (s : State) : Host.Outcome State Fault Refusal :=
  run (.lanFault t port) (fun s =>
    if !redHsr s && !s.bit 0x1020 5 (lanBit port) && lanSilent s port then
      ((s.setBitO 0x1020 5 (lanBit port) true).setBitO 0x1020 5 2 true).raise 233 port
    else s) s

/-- RING_FAULT (R439): the device's own supervision frames have not returned on a port for three LifeCheckIntervals. -/
def execRingFault (t port : Nat) (s : State) : Host.Outcome State Fault Refusal :=
  run (.ringFault t port) (fun s =>
    if redHsr s && s.boot.serving && !s.net.ringPorts.testBit port
        && decide (nth 0 s.net.lifeBack port + 3 * msFs (s.num 0x1020 2) ≤ s.now) then
      let s := { s with net := { s.net with ringPorts := setBit s.net.ringPorts port true } }
      ((s.setBitO 0x1020 5 11 true).setBitO 0x1020 5 1 true).raise 234 port
    else s) s

/-- PORT_LINK_CHANGE (R450, Table 16.8). -/
def execPortLinkChange (t port : Nat) (up : Bool) (s : State) : Host.Outcome State Fault Refusal :=
  run (.portLinkChange t port up) (fun s =>
    if s.bit 0x1020 5 (15 - port) == up then s
    else ((s.setBitO 0x1020 5 (15 - port) up).setBitO 0x1020 5 0 true).raise 232 port up.toNat) s

end Sys2Proof.Machine
end

