-- ==== Sys2Proof/Machine/Dispatch.lean ====
section
/-!
DEFINITION. exec: one arm per constructor of Instr, each a direct call of that command's meaning.
-/
namespace Sys2Proof.Machine

def exec (i : Instr) (s : State) : Host.Outcome State Fault Refusal :=
  match i with
  | .powerGood t sideRails => Sys2Proof.Machine.execPowerGood t sideRails s
  | .romChecksComplete t straps sideRails => Sys2Proof.Machine.execRomChecksComplete t straps sideRails s
  | .pufDerivation t k1 k2 => Sys2Proof.Machine.execPufDerivation t k1 k2 s
  | .loaderBlock t port ip off len data => Sys2Proof.Machine.execLoaderBlock t port ip off len data s
  | .loaderStatusOp t port ip => Sys2Proof.Machine.execLoaderStatusOp t port ip s
  | .loaderAbort t port ip => Sys2Proof.Machine.execLoaderAbort t port ip s
  | .bootLoad t off len data => Sys2Proof.Machine.execBootLoad t off len data s
  | .loaderStatus t => Sys2Proof.Machine.execLoaderStatus t s
  | .loaderIdleTimeout t => Sys2Proof.Machine.execLoaderIdleTimeout t s
  | .imageVerify t => Sys2Proof.Machine.execImageVerify t s
  | .fwStart t => Sys2Proof.Machine.execFwStart t s
  | .bringUp t sideRails => Sys2Proof.Machine.execBringUp t sideRails s
  | .bringUpComplete t found linkOk => Sys2Proof.Machine.execBringUpComplete t found linkOk s
  | .restart t confirm => Sys2Proof.Machine.execRestart t confirm s
  | .islandWatchdog t internal => Sys2Proof.Machine.execIslandWatchdog t internal s
  | .islandRestartDone t => Sys2Proof.Machine.execIslandRestartDone t s
  | .imagePartWrite t part data => Sys2Proof.Machine.execImagePartWrite t part data s
  | .imageVerifyCommand t => Sys2Proof.Machine.execImageVerifyCommand t s
  | .imageSwitch t => Sys2Proof.Machine.execImageSwitch t s
  | .imageDiscard t => Sys2Proof.Machine.execImageDiscard t s
  | .tempHigh t sensor value held => Sys2Proof.Machine.execTempHigh t sensor value held s
  | .tempCritical t sensor value held => Sys2Proof.Machine.execTempCritical t sensor value held s
  | .railWarning t sensor value held => Sys2Proof.Machine.execRailWarning t sensor value held s
  | .railFault t sensor value held => Sys2Proof.Machine.execRailFault t sensor value held s
  | .vddRidgeLoss t => Sys2Proof.Machine.execVddRidgeLoss t s
  | .ridgeFault t => Sys2Proof.Machine.execRidgeFault t s
  | .trussLinkFrame t side kind data => Sys2Proof.Machine.execTrussLinkFrame t side kind data s
  | .syncInEdge t rising => Sys2Proof.Machine.execSyncInEdge t rising s
  | .syncCommand t at96 => Sys2Proof.Machine.execSyncCommand t at96 s
  | .syncOutPulse t => Sys2Proof.Machine.execSyncOutPulse t s
  | .decimAlignment t g => Sys2Proof.Machine.execDecimAlignment t g s
  | .decimationBoundary t side c => Sys2Proof.Machine.execDecimationBoundary t side c s
  | .stuckBits t side c => Sys2Proof.Machine.execStuckBits t side c s
  | .modClockMissing t g => Sys2Proof.Machine.execModClockMissing t g s
  | .feedbackDisagreement t c => Sys2Proof.Machine.execFeedbackDisagreement t c s
  | .modelTimeExpiry t c => Sys2Proof.Machine.execModelTimeExpiry t c s
  | .samplingClockStart t g => Sys2Proof.Machine.execSamplingClockStart t g s
  | .feedbackRecovery t c => Sys2Proof.Machine.execFeedbackRecovery t c s
  | .settlingCleared t side c => Sys2Proof.Machine.execSettlingCleared t side c s
  | .bankSwapRequest t mask => Sys2Proof.Machine.execBankSwapRequest t mask s
  | .arcRefTriple t side d => Sys2Proof.Machine.execArcRefTriple t side d s
  | .arcRefApply t side d => Sys2Proof.Machine.execArcRefApply t side d s
  | .arcRefStale t d => Sys2Proof.Machine.execArcRefStale t d s
  | .comparatorFire t c k => Sys2Proof.Machine.execComparatorFire t c k s
  | .blankWindowOpen t c g => Sys2Proof.Machine.execBlankWindowOpen t c g s
  | .blankWindowClose t c => Sys2Proof.Machine.execBlankWindowClose t c s
  | .fastTick t side => Sys2Proof.Machine.execFastTick t side s
  | .laneWake t side joist lane => Sys2Proof.Machine.execLaneWake t side joist lane s
  | .entryExecution t side entry => Sys2Proof.Machine.execEntryExecution t side entry s
  | .compareWriter t side => Sys2Proof.Machine.execCompareWriter t side s
  | .graphSwitchRequest t word => Sys2Proof.Machine.execGraphSwitchRequest t word s
  | .graphSwitch t => Sys2Proof.Machine.execGraphSwitch t s
  | .resultRead t reader j sub => Sys2Proof.Machine.execResultRead t reader j sub s
  | .resultFifoRead t reader j sub => Sys2Proof.Machine.execResultFifoRead t reader j sub s
  | .presetNow t slot rec => Sys2Proof.Machine.execPresetNow t slot rec s
  | .modeForceManual t slot rec => Sys2Proof.Machine.execModeForceManual t slot rec s
  | .modeForceAutomatic t slot rec => Sys2Proof.Machine.execModeForceAutomatic t slot rec s
  | .modeRelease t slot rec => Sys2Proof.Machine.execModeRelease t slot rec s
  | .paramSwapRequest t mask => Sys2Proof.Machine.execParamSwapRequest t mask s
  | .gfMainTick t => Sys2Proof.Machine.execGfMainTick t s
  | .gfIdleEvaluation t => Sys2Proof.Machine.execGfIdleEvaluation t s
  | .blackStart t coherent => Sys2Proof.Machine.execBlackStart t coherent s
  | .join t => Sys2Proof.Machine.execJoin t s
  | .resync t => Sys2Proof.Machine.execResync t s
  | .abortResync t => Sys2Proof.Machine.execAbortResync t s
  | .stop t => Sys2Proof.Machine.execStop t s
  | .acknowledge t => Sys2Proof.Machine.execAcknowledge t s
  | .cancelStart t => Sys2Proof.Machine.execCancelStart t s
  | .coherentStart t => Sys2Proof.Machine.execCoherentStart t s
  | .rideExit t => Sys2Proof.Machine.execRideExit t s
  | .limitEntry t => Sys2Proof.Machine.execLimitEntry t s
  | .rideTimeout t => Sys2Proof.Machine.execRideTimeout t s
  | .blackStartTimeout t => Sys2Proof.Machine.execBlackStartTimeout t s
  | .resyncTimeout t => Sys2Proof.Machine.execResyncTimeout t s
  | .breakerDinChange t din => Sys2Proof.Machine.execBreakerDinChange t din s
  | .breakerFail t => Sys2Proof.Machine.execBreakerFail t s
  | .carrierVertex t side g => Sys2Proof.Machine.execCarrierVertex t side g s
  | .gateCommandEdge t side p => Sys2Proof.Machine.execGateCommandEdge t side p s
  | .deadTimeExpiry t side p => Sys2Proof.Machine.execDeadTimeExpiry t side p s
  | .carrierStart t at96 => Sys2Proof.Machine.execCarrierStart t at96 s
  | .carrierGroupStart t side g => Sys2Proof.Machine.execCarrierGroupStart t side g s
  | .carrierStop t mask => Sys2Proof.Machine.execCarrierStop t mask s
  | .updateCommit t mask => Sys2Proof.Machine.execUpdateCommit t mask s
  | .shadowWrite t p sub value => Sys2Proof.Machine.execShadowWrite t p sub value s
  | .shadowApply t => Sys2Proof.Machine.execShadowApply t s
  | .faultInTrip t n active => Sys2Proof.Machine.execFaultInTrip t n active s
  | .releaseFaultIn t => Sys2Proof.Machine.execReleaseFaultIn t s
  | .releaseChordTrip t => Sys2Proof.Machine.execReleaseChordTrip t s
  | .disableMaskWrite t ix value => Sys2Proof.Machine.execDisableMaskWrite t ix value s
  | .commissionEnter t => Sys2Proof.Machine.execCommissionEnter t s
  | .commissionLeave t => Sys2Proof.Machine.execCommissionLeave t s
  | .overrideMapWrite t map => Sys2Proof.Machine.execOverrideMapWrite t map s
  | .debugHalt t en => Sys2Proof.Machine.execDebugHalt t en s
  | .debugResume t => Sys2Proof.Machine.execDebugResume t s
  | .stackTransaction t k ok => Sys2Proof.Machine.execStackTransaction t k ok s
  | .stretchTimeout t k => Sys2Proof.Machine.execStretchTimeout t k s
  | .pollTimeout t k => Sys2Proof.Machine.execPollTimeout t k s
  | .stackReadDone t k ident copyA copyB => Sys2Proof.Machine.execStackReadDone t k ident copyA copyB s
  | .flush t k all => Sys2Proof.Machine.execFlush t k all s
  | .rescan t k all => Sys2Proof.Machine.execRescan t k all s
  | .initRecord t k => Sys2Proof.Machine.execInitRecord t k s
  | .bringIn t k leg => Sys2Proof.Machine.execBringIn t k leg s
  | .cancelBringIn t k => Sys2Proof.Machine.execCancelBringIn t k s
  | .lifeWriteInterval t k => Sys2Proof.Machine.execLifeWriteInterval t k s
  | .lifeWritten t k => Sys2Proof.Machine.execLifeWritten t k s
  | .rainflowPosting t => Sys2Proof.Machine.execRainflowPosting t s
  | .stackHours t k => Sys2Proof.Machine.execStackHours t k s
  | .wearEvaluation t => Sys2Proof.Machine.execWearEvaluation t s
  | .spareCrossingCheck t k => Sys2Proof.Machine.execSpareCrossingCheck t k s
  | .spareSwapTimeout t k => Sys2Proof.Machine.execSpareSwapTimeout t k s
  | .heartbeat t side path seq crcOk => Sys2Proof.Machine.execHeartbeat t side path seq crcOk s
  | .heartbeatMissing t side path => Sys2Proof.Machine.execHeartbeatMissing t side path s
  | .signatureCompare t state received => Sys2Proof.Machine.execSignatureCompare t state received s
  | .mismatchResolution t failsA failsB => Sys2Proof.Machine.execMismatchResolution t failsA failsB s
  | .mirrorFrame t crcOk => Sys2Proof.Machine.execMirrorFrame t crcOk s
  | .sideJoined t side => Sys2Proof.Machine.execSideJoined t side s
  | .reinitAttemptFailed t side => Sys2Proof.Machine.execReinitAttemptFailed t side s
  | .reinitRetry t side => Sys2Proof.Machine.execReinitRetry t side s
  | .handover t => Sys2Proof.Machine.execHandover t s
  | .handoverExecute t => Sys2Proof.Machine.execHandoverExecute t s
  | .restore t side => Sys2Proof.Machine.execRestore t side s
  | .powerDown t side => Sys2Proof.Machine.execPowerDown t side s
  | .powerUp t side => Sys2Proof.Machine.execPowerUp t side s
  | .doutRequest t side => Sys2Proof.Machine.execDoutRequest t side s
  | .kerfWindowClose t => Sys2Proof.Machine.execKerfWindowClose t s
  | .laneTest t side joist lane pass => Sys2Proof.Machine.execLaneTest t side joist lane pass s
  | .eccError t side loft uncorrectable addr => Sys2Proof.Machine.execEccError t side loft uncorrectable addr s
  | .pllFreqCheck t p ok => Sys2Proof.Machine.execPllFreqCheck t p ok s
  | .badHoldExpiry t side => Sys2Proof.Machine.execBadHoldExpiry t side s
  | .safetyChannelFault t => Sys2Proof.Machine.execSafetyChannelFault t s
  | .sealReadingAccepted t n tHigh cHigh held => Sys2Proof.Machine.execSealReadingAccepted t n tHigh cHigh held s
  | .sinFilterExpiry t ball high held chans => Sys2Proof.Machine.execSinFilterExpiry t ball high held chans s
  | .sinDiscrepancy t n => Sys2Proof.Machine.execSinDiscrepancy t n s
  | .soutRequestWrite t value => Sys2Proof.Machine.execSoutRequestWrite t value s
  | .soutTestPulse t ball => Sys2Proof.Machine.execSoutTestPulse t ball s
  | .soutTestEnd t ball lowOk highOk => Sys2Proof.Machine.execSoutTestEnd t ball lowOk highOk s
  | .soutStuckOn t ball high held => Sys2Proof.Machine.execSoutStuckOn t ball high held s
  | .safetyReset t dur => Sys2Proof.Machine.execSafetyReset t dur s
  | .resetStuck t => Sys2Proof.Machine.execResetStuck t s
  | .resetDiscrepancy t => Sys2Proof.Machine.execResetDiscrepancy t s
  | .resetBlockEnd t => Sys2Proof.Machine.execResetBlockEnd t s
  | .arbiterRequest t r inst unit num side held addr write => Sys2Proof.Machine.execArbiterRequest t r inst unit num side held addr write s
  | .semaphoreRequest t n cls requester held => Sys2Proof.Machine.execSemaphoreRequest t n cls requester held s
  | .semaphoreRelease t n cls requester => Sys2Proof.Machine.execSemaphoreRelease t n cls requester s
  | .semaphoreLeaseExpired t n => Sys2Proof.Machine.execSemaphoreLeaseExpired t n s
  | .incrementWrite t value => Sys2Proof.Machine.execIncrementWrite t value s
  | .timeSet t at96 => Sys2Proof.Machine.execTimeSet t at96 s
  | .timeAdjust t off => Sys2Proof.Machine.execTimeAdjust t off s
  | .timeStep t => Sys2Proof.Machine.execTimeStep t s
  | .ptpSyncReceived t port ether domain t1 t2 corr gm => Sys2Proof.Machine.execPtpSyncReceived t port ether domain t1 t2 corr gm s
  | .pathDelayMeasurement t port d => Sys2Proof.Machine.execPathDelayMeasurement t port d s
  | .pathConfirm t port value => Sys2Proof.Machine.execPathConfirm t port value s
  | .ptpAnnounceReceived t port ether domain gm p1 cls acc var p2 steps sender => Sys2Proof.Machine.execPtpAnnounceReceived t port ether domain gm p1 cls acc var p2 steps sender s
  | .announceTimeout t port => Sys2Proof.Machine.execAnnounceTimeout t port s
  | .holdoverValidExpiry t => Sys2Proof.Machine.execHoldoverValidExpiry t s
  | .ppsInEdge t stamp => Sys2Proof.Machine.execPpsInEdge t stamp s
  | .ppsInTimeout t => Sys2Proof.Machine.execPpsInTimeout t s
  | .ptpSyncSend t port => Sys2Proof.Machine.execPtpSyncSend t port s
  | .ppsOutPulse t => Sys2Proof.Machine.execPpsOutPulse t s
  | .leapSecond t => Sys2Proof.Machine.execLeapSecond t s
  | .refFault t alt on edges => Sys2Proof.Machine.execRefFault t alt on edges s
  | .refSwitchCommand t value => Sys2Proof.Machine.execRefSwitchCommand t value s
  | .refDisagree t diff => Sys2Proof.Machine.execRefDisagree t diff s
  | .pllStart t p => Sys2Proof.Machine.execPllStart t p s
  | .pllLock t p => Sys2Proof.Machine.execPllLock t p s
  | .pllRetryBand t p => Sys2Proof.Machine.execPllRetryBand t p s
  | .pllSweep t p => Sys2Proof.Machine.execPllSweep t p s
  | .pllSweepDone t p table => Sys2Proof.Machine.execPllSweepDone t p table s
  | .pllLockLost t p stopped => Sys2Proof.Machine.execPllLockLost t p stopped s
  | .clkoutStart t word => Sys2Proof.Machine.execClkoutStart t word s
  | .clkoutStop t word => Sys2Proof.Machine.execClkoutStop t word s
  | .clkoutGateOpen t k => Sys2Proof.Machine.execClkoutGateOpen t k s
  | .clkoutGateClose t k => Sys2Proof.Machine.execClkoutGateClose t k s
  | .trussClockSwitch t side => Sys2Proof.Machine.execTrussClockSwitch t side s
  | .switchDeferred t side => Sys2Proof.Machine.execSwitchDeferred t side s
  | .arm t mask session => Sys2Proof.Machine.execArm t mask session s
  | .disarm t mask => Sys2Proof.Machine.execDisarm t mask s
  | .trigger t mask => Sys2Proof.Machine.execTrigger t mask s
  | .release t seg => Sys2Proof.Machine.execRelease t seg s
  | .captureRow t side k stamp fill => Sys2Proof.Machine.execCaptureRow t side k stamp fill s
  | .streamBacklogHalving t k => Sys2Proof.Machine.execStreamBacklogHalving t k s
  | .captureStreamSend t k => Sys2Proof.Machine.execCaptureStreamSend t k s
  | .segmentHoldExpiry t side seg => Sys2Proof.Machine.execSegmentHoldExpiry t side seg s
  | .segmentSelect t reader value => Sys2Proof.Machine.execSegmentSelect t reader value s
  | .segmentRowsRead t reader => Sys2Proof.Machine.execSegmentRowsRead t reader s
  | .hoursSeed t value => Sys2Proof.Machine.execHoursSeed t value s
  | .powerCycleSeed t value => Sys2Proof.Machine.execPowerCycleSeed t value s
  | .operatingHoursTick t => Sys2Proof.Machine.execOperatingHoursTick t s
  | .histogramSample t q => Sys2Proof.Machine.execHistogramSample t q s
  | .histogramClear t mask => Sys2Proof.Machine.execHistogramClear t mask s
  | .scribeNote t note => Sys2Proof.Machine.execScribeNote t note s
  | .scribeTokenRefill t bucket => Sys2Proof.Machine.execScribeTokenRefill t bucket s
  | .scribeRecordsRead t reader => Sys2Proof.Machine.execScribeRecordsRead t reader s
  | .compatRecordsRead t reader => Sys2Proof.Machine.execCompatRecordsRead t reader s
  | .startCounters t banks => Sys2Proof.Machine.execStartCounters t banks s
  | .stopCounters t banks => Sys2Proof.Machine.execStopCounters t banks s
  | .clearCounters t banks => Sys2Proof.Machine.execClearCounters t banks s
  | .counterWrite t ix value => Sys2Proof.Machine.execCounterWrite t ix value s
  | .counterReadLatch t reader ix => Sys2Proof.Machine.execCounterReadLatch t reader ix s
  | .counterOverflow t ix amount => Sys2Proof.Machine.execCounterOverflow t ix amount s
  | .tagRecord t side joist timing => Sys2Proof.Machine.execTagRecord t side joist timing s
  | .tagRecordsRead t reader side => Sys2Proof.Machine.execTagRecordsRead t reader side s
  | .frameReceived t port frame => Sys2Proof.Machine.execFrameReceived t port frame s
  | .arpRequest t port target => Sys2Proof.Machine.execArpRequest t port target s
  | .icmpEcho t port target => Sys2Proof.Machine.execIcmpEcho t port target s
  | .supervisionFrameSend t => Sys2Proof.Machine.execSupervisionFrameSend t s
  | .lanFault t port => Sys2Proof.Machine.execLanFault t port s
  | .ringFault t port => Sys2Proof.Machine.execRingFault t port s
  | .portLinkChange t port up => Sys2Proof.Machine.execPortLinkChange t port up s
  | .identify t msg => Sys2Proof.Machine.execIdentify t msg s
  | .keyLoad t msg => Sys2Proof.Machine.execKeyLoad t msg s
  | .openSession t msg => Sys2Proof.Machine.execOpenSession t msg s
  | .closeSession t msg => Sys2Proof.Machine.execCloseSession t msg s
  | .readObjects t msg => Sys2Proof.Machine.execReadObjects t msg s
  | .writeObjects t msg => Sys2Proof.Machine.execWriteObjects t msg s
  | .keepalive t msg => Sys2Proof.Machine.execKeepalive t msg s
  | .sourceBlockEnd t ip => Sys2Proof.Machine.execSourceBlockEnd t ip s
  | .sessionIdleTimeout t sid => Sys2Proof.Machine.execSessionIdleTimeout t sid s
  | .bootSend t len msg => Sys2Proof.Machine.execBootSend t len msg s
  | .bootFetch t => Sys2Proof.Machine.execBootFetch t s
  | .bootStatus t => Sys2Proof.Machine.execBootStatus t s
  | .beginSet t reader setId => Sys2Proof.Machine.execBeginSet t reader setId s
  | .commitSet t reader => Sys2Proof.Machine.execCommitSet t reader s
  | .abortSet t reader => Sys2Proof.Machine.execAbortSet t reader s
  | .commitComplete t => Sys2Proof.Machine.execCommitComplete t s
  | .setIdleTimeout t => Sys2Proof.Machine.execSetIdleTimeout t s
  | .configObjectWrite t reader obj data => Sys2Proof.Machine.execConfigObjectWrite t reader obj data s
  | .objectWrite t reader obj data => Sys2Proof.Machine.execObjectWrite t reader obj data s
  | .segmentedWriteTimeout t reader obj => Sys2Proof.Machine.execSegmentedWriteTimeout t reader obj s
  | .snapshotTimeout t reader obj => Sys2Proof.Machine.execSnapshotTimeout t reader obj s
  | .pendingClear t data => Sys2Proof.Machine.execPendingClear t data s
  | .countClear t data => Sys2Proof.Machine.execCountClear t data s
  | .notifyHoldoffExpiry t reader => Sys2Proof.Machine.execNotifyHoldoffExpiry t reader s
  | .samplingEdge t g bitsA bitsB bitsR => Sys2Proof.Machine.execSamplingEdge t g bitsA bitsB bitsR s
  | .plateMinOnExpiry t p => Sys2Proof.Machine.execPlateMinOnExpiry t p s
  | .sensorUpdate t sensor value => Sys2Proof.Machine.execSensorUpdate t sensor value s
  | .ptpDelayRequestSend t port => Sys2Proof.Machine.execPtpDelayRequestSend t port s
  | .ptpAnnounceSend t port => Sys2Proof.Machine.execPtpAnnounceSend t port s

end Sys2Proof.Machine
end

