-- ==== Sys2Proof/Safety.lean ====
section
/-!
DEFINITION. The terms that claims use: what counts as safe (every pair the output plate drives is one that R226 lets it drive), and what
it means that a command completes.
-/
namespace Sys2Proof

/-- Every driven physical pair meets the conditions of R226. -/
def PlateSafe (s : Machine.State) : Prop :=
  ∀ e ∈ s.plate.pairs, e.2.driving = true → s.mayDrive (if e.2.sideB then .B else .A) e.2.pair = true

/-- A pair's gates at the plate (R226, R228): in high impedance neither is driven high, and they are never driven high together. -/
def GatesSound (q : Machine.PlatePair) : Prop := (q.driving = false → q.h = false ∧ q.l = false) ∧ ¬ (q.h = true ∧ q.l = true)

/-- Every physical pair's gates are sound. -/
def PlateSound (s : Machine.State) : Prop := ∀ e ∈ s.plate.pairs, GatesSound e.2

/-- A command answers a next state, of which `P` holds against the state at the command's instant: time has run to it, and what fell due
in between has acted. -/
def Gives (c : Instr) (s : Machine.State) (P : Machine.State → Machine.State → Prop) : Prop :=
  ∃ s', Machine.exec c s = .next s' ∧ P (s.arrive c.time) s'

/-- No accepted RESTART falls due up to an instant (R474). -/
def Standing (s : Machine.State) (t : Nat) : Prop := ∀ r, s.boot.restartAt = some r → t < r

/-- A fault for which the ridge stops the machine (R23): Permit is clear. While main ticks occur the gates are held and cause 12 stands for
the first of them to decide (R195); while none does SAFE_STOP is entered at once (R193), with the state left as its previous one. -/
def RidgeStop (b s' : Machine.State) : Prop :=
  s'.permit = false ∧
    if Machine.ticksOccur b then s'.gfState = b.gfState ∧ s'.plate.gateHold = true ∧ s'.gf.causes.testBit 12 = true
    else s'.gfState = 6 ∧ s'.fld 0x4001 3 15 12 = 12 ∧ s'.fld 0x4001 3 11 8 = b.gfState

/-- The parts of the machine beside its queue, its clock and its objects; `pairs` is the part of the plate that holds its physical pairs. -/
inductive Part where
  | time | meas | graphs | gf | plate | pairs | stacks | sides | safety | sharing | ptp | clock | plls | capture | scribe | net | boot
  | out | free
  deriving DecidableEq, Repr

/-- The objects that events, records and counted occurrences write (R410, R418, Table 15.3): Pending, OccurrenceCounts and
LastOccurrence; ScribeStatus, RecordCount and DroppedTotal; the compatibility RecordCount; TriggersMissed; Counter and its status. -/
def Machine.evKey (k : Nat) : Bool :=
  let i := k / 256
  let j := k % 256
  (i == 0x1200 && (j == 1 || j == 2 || j == 7)) || (i == 0x8100 && (j == 3 || j == 4 || j == 8)) || (i == 0xF000 && j == 1)
    || (decide (0x8010 ≤ i) && decide (i ≤ 0x8017) && j == 0xD) || (decide (0x8300 ≤ i) && decide (i ≤ 0x836F) && (j == 5 || j == 8))

/-- The objects of indices `lo` to `hi`, at subindices `sub` to `last`. -/
structure Objs where
  lo : Nat
  hi : Nat
  sub : Nat
  last : Nat
  deriving DecidableEq, Repr

/-- An object is one of them; the object of index i and subindex j has key 256·i + j. -/
def Objs.has (g : Objs) (k : Nat) : Bool :=
  decide (g.lo ≤ k / 256) && decide (k / 256 ≤ g.hi) && decide (g.sub ≤ k % 256) && decide (k % 256 ≤ g.last)

/-- Nothing has moved from `s` to `s'` but the parts of `P`, the objects of `G`, and what an event moves: its objects, the NOTIFY entries
of readers, the scribe's ring and its buckets, counters that overflowed, and capture triggers that wait or were missed. -/
structure Only (P : List Part) (G : List Objs) (s s' : Machine.State) : Prop where
  pending : s'.pending = s.pending
  now : Part.time ∉ P → s'.now = s.now
  time : Part.time ∉ P → s'.ridge = s.ridge
  meas : Part.meas ∉ P → s'.meas = s.meas
  graphs : Part.graphs ∉ P → s'.graphs = s.graphs
  gf : Part.gf ∉ P → s'.gf = s.gf
  plate : Part.plate ∉ P → { s'.plate with pairs := [] } = { s.plate with pairs := [] }
  pairs : Part.pairs ∉ P → s'.plate.pairs = s.plate.pairs
  stk : Part.stacks ∉ P → s'.stk = s.stk
  sides : Part.sides ∉ P → s'.sides = s.sides
  safety : Part.safety ∉ P → s'.safety = s.safety
  sharing : Part.sharing ∉ P → s'.sharing = s.sharing
  ptp : Part.ptp ∉ P → s'.ptp = s.ptp
  clock : Part.clock ∉ P → s'.clock = s.clock
  plls : Part.plls ∉ P → s'.plls = s.plls
  capture : Part.capture ∉ P → { s'.capture with engines := [], missed := [] } = { s.capture with engines := [], missed := [] }
  engine : Part.capture ∉ P → ∀ x k, { s'.engine x k with trigs := [] } = { s.engine x k with trigs := [] }
  scribe : Part.scribe ∉ P → { s'.scribe with ring := [], buckets := [], ovf := [] } = { s.scribe with ring := [], buckets := [], ovf := [] }
  net : Part.net ∉ P → { s'.net with readers := [] } = { s.net with readers := [] }
  reader : Part.net ∉ P → ∀ r, { s'.reader r with notes := [], holdoff := none } = { s.reader r with notes := [], holdoff := none }
  boot : Part.boot ∉ P → s'.boot = s.boot
  out : Part.out ∉ P → s'.out = s.out
  free : Part.free ∉ P → s'.freeCount = s.freeCount
  val : ∀ k, Machine.evKey k = false → G.any (·.has k) = false → s'.val k = s.val k

/-- A command's frame: whatever it does, it moves only the parts of `P` and the objects of `G`, beside what an event moves; the pairs of
the plate settle after every command. -/
def Moves (P : List Part) (G : List Objs) (s : Machine.State) (c : Instr) : Prop :=
  ∀ s', Machine.exec c s = .next s' → Only (.pairs :: P) G (s.arrive c.time) s'

/-- A message is processed at once: its path is served, the island runs, its address is not blocked, and it is whole (R434, R436, R443). -/
abbrev Taken (b : Machine.State) (m : Msg) : Prop :=
  b.boot.serving = true ∧ b.boot.islandDown = false ∧ (m.path = 1 ∨ Machine.portServed b (m.path - 2) = true) ∧
    Machine.blockedNow b m = false ∧ Machine.headerOk m = true ∧ Machine.bodyOk m = true

/-- A message passes the checks of its session `ses` (R443). -/
abbrev SessionTaken (b : Machine.State) (m : Msg) (ses : Machine.Session) : Prop :=
  Machine.keysLoaded b = true ∧ Machine.Store.find (Machine.mSid m) b.net.sessions = some ses ∧ Machine.macOk ses.key m = true ∧
    Machine.seqOk ses (Machine.mSeq m) = true ∧ Machine.timeOk b m = true

/-- The state that a message is processed in: its receipt is the present ridge time, or one ridge clock after the receipt before it (R436). -/
def Received (b : Machine.State) : Machine.State :=
  let r := max b.ridge b.net.nextReceipt
  { b with ridge := r, net := { b.net with nextReceipt := r + b.num 0x7000 2 } }

/-- The effect `f` of a message at its receipt; ridge time runs on as it was. -/
def AtReceipt (f : Machine.State → Machine.State) (b : Machine.State) : Machine.State :=
  let u := f (Received b)
  { u with ridge := u.ridge - ((Received b).ridge - b.ridge) }

/-- What frames the next frame of SOT, ARP, ICMP or supervision on each port served, under the next redundancy number (R278, R433). -/
def Framed (b : Machine.State) : List Machine.Out :=
  Machine.portFrames { b with net := { b.net with redSeq := (b.net.redSeq + 1) % 65536 } }

/-- The bytes of a message go out: to their destination on the network while a port is served (R278), framed on each port that is, or to
the boot port's queue (R436, R441). -/
def Sent (dest : Nat) (boot : Bool) (bytes : List Nat) (b s' : Machine.State) : Prop :=
  if boot then s'.net.bootQueue = b.net.bootQueue ++ [bytes] ∧ s'.out = b.out
  else s'.out = (if Machine.anyPort b then b.out ++ ⟨8, dest, bytes⟩ :: Framed b else b.out) ∧ s'.net.bootQueue = b.net.bootQueue

end Sys2Proof
end

