-- ==== Sys2Proof/Certificates/Slice0/Obligations.lean ====
section
/-!
DEFINITION. The obligations: what the provers show of the model. A command's statement is taken against `b`, the state at the command's
instant (time has run, what fell due in between has acted); `Gives` says that exec answers a next state that holds what follows; `Moves`
says which parts and objects a command can move.
-/
open Sys2Proof Sys2Proof.Machine

/-- A step takes the command at the front of the queue and runs it with the rest of the queue (log entry 2). -/
def Obligations.StepRunsFrontCommand : Prop :=
  ∀ (c : Instr) (l : List Instr) (s : State), step { s with pending := c :: l } = exec c { s with pending := l }

/-- With no command waiting a step changes nothing (the model's choice, log entry 2). -/
def Obligations.EmptyQueueIdles : Prop := ∀ s : State, s.pending = [] → step s = .next s

/-- No command stops the machine: every step answers a next state, with the command at the front taken from the queue and the rest of the
queue in its order; so no ordinary data, and no command the spec turns away, ends a run. -/
def Obligations.EveryStepCompletes : Prop :=
  ∀ s : State, ∃ s', step s = .next s' ∧ s'.pending = s.pending.tail

/-- A command whose operands are not well formed only lets time run to its instant (the model's choice, log entry 3): what fell due acts,
occurrences of the command's own late events are reported, and the plate settles. -/
def Obligations.IllFormedCommandsOnlyPassTime : Prop :=
  ∀ (c : Instr) (s : State), c.wf = false →
    exec c s = .next { (s.arrive c.time).reportLate.settle with pending := s.pending }

/-- R226, R227: whatever a step does, every pair that the plate then drives meets the conditions of R226; a step on an empty queue keeps
what held. In states no run reaches the condition holds after one command. -/
def Obligations.EveryStepLeavesThePlateSafe : Prop :=
  ∀ s s' : State, step s = .next s' → (s.pending ≠ [] → PlateSafe s') ∧ (PlateSafe s → PlateSafe s')

/-- R226 item by item: after any command, a pair that the plate drives is driven in a state whose gate balls are driven (BLACK_START to
RESYNC) or in COMMISSIONING in STANDBY; no chord or FAULT_IN trip and no safety demand is latched; both safety channels give their enable
(R288); no cause that holds every gate until SAFE_STOP stands (R23, R70, R282); the pair is not disabled; the side
selected for it feeds the plate and runs its carrier group; and no debug halt with the halt guard is in force. That a SUSPECT side still
feeds is R271's, read so by the model (log entry 6). -/
def Obligations.PlateDrivesOnlyWhileItsConditionsHold : Prop :=
  ∀ (c : Instr) (s s' : State), exec c s = .next s' → ∀ e ∈ s'.plate.pairs, e.2.driving = true →
    ((1 ≤ s'.gfState ∧ s'.gfState ≤ 5) ∨ (s'.commissioning = true ∧ s'.gfState = 0)) ∧
    s'.tripped = false ∧ s'.demandLatched = false ∧ s'.plate.disabled.testBit e.2.pair = false ∧
    s'.feeds (if e.2.sideB then .B else .A) = true ∧
    ((s'.sill (if e.2.sideB then .B else .A)).carrier (s'.pairCarrier e.2.pair)).running = true ∧
    ¬ (s'.plate.halted = true ∧ s'.permission 5 = true) ∧ s'.ready = true ∧
    s'.safety.a.enable = true ∧ s'.safety.b.enable = true ∧ s'.plate.gateHold = false

/-- At reset (R452, R339): the block stands at power good with ridge time 0, no command waiting, no session and no set open, and no pair
driven: the invariants of the plate hold. -/
def Obligations.ResetLeavesThePlateSafe : Prop :=
  PlateSafe State.reset ∧ PlateSound State.reset ∧ State.reset.plate.pairs = [] ∧ State.reset.pending = [] ∧ State.reset.ridge = 0
    ∧ State.reset.stage = 0 ∧ State.reset.gfState = 0 ∧ State.reset.net.sessions = [] ∧ State.reset.net.openSet = none
    ∧ State.reset.num 0x8100 0xA = 0

/-- R228, mutual exclusion: whatever a step does, no pair's GATE_H and GATE_L are ever driven high together, and a pair in high impedance
has neither driven. An invariant: it is kept by every step from every state that has it. -/
def Obligations.GatesAreNeverDrivenTogether : Prop := ∀ s s' : State, step s = .next s' → PlateSound s → PlateSound s'

/-- R228, dead time and minimum on-time: where the plate follows the outputs `rh` and `rl` that a side asks for, GATE_H rises only where
GATE_L is low and has been for DeadH, and GATE_L likewise for DeadL; an output that rose falls only PlateMinOn or more after it rose; and an
output that may follow at once follows. -/
def Obligations.PlateKeepsDeadTimeAndMinimumOn : Prop :=
  ∀ (now dh dl minOn : Nat) (q : PlatePair) (rh rl : Bool), let q' := (interlock now dh dl minOn q rh rl).1
    (q.h = false → q'.h = true → rh = true ∧ q'.l = false ∧ q'.fallL + dh ≤ now ∧ q'.riseH = now) ∧
    (q.l = false → q'.l = true → rl = true ∧ q'.h = false ∧ q'.fallH + dl ≤ now ∧ q'.riseL = now) ∧
    (q.h = true → q'.h = false → rh = false ∧ q.riseH + minOn ≤ now ∧ q'.fallH = now) ∧
    (q.l = true → q'.l = false → rl = false ∧ q.riseL + minOn ≤ now ∧ q'.fallL = now) ∧
    (q.h = true → rh = true → q'.h = true) ∧ (q.l = true → rl = true → q'.l = true) ∧
    (q.h = false → q.l = false → rh = true → q.fallL + dh ≤ now → q'.h = true) ∧
    (q.h = false → q.l = false → rh = false → rl = true → q.fallH + dl ≤ now → q'.l = true) ∧
    (rh = false → rl = false → q.riseH + minOn ≤ now → q.riseL + minOn ≤ now → q'.h = false ∧ q'.l = false)

/-- R339 with the model's instants (log entry 1): every command brings the device's clock to its instant, or leaves it where the instant
has passed, and adds Increment to ridge time at each reference tick of 40 ns in between, whatever it writes. Set aside: TIME_STEP, which
steps ridge time itself; POWER_GOOD, and an accepted RESTART that falls due by then, which start it afresh. -/
def Obligations.RidgeTimeAdvancesByIncrement : Prop :=
  ∀ (c : Instr) (s s' : State), exec c s = .next s' → Standing s c.time →
    (match c with
      | .timeStep .. | .powerGood .. => True
      | _ => s'.now = max s.now c.time ∧
          s'.ridge = s.ridge + (max s.now c.time / 40000000 - s.now / 40000000) * s.num 0x7000 2)

/-- R396: PowerCycles is 0 after power-up, and no command but its seed writes it: the device never increments it; a seed after the first
leaves it. Set aside: POWER_GOOD, and an accepted RESTART that falls due by then, which start the device afresh; the commands that carry
a host's writes (a write of PowerCycleSeed among them), and COMMIT_COMPLETE, which puts staged values in place. -/
def Obligations.OnlyASeedWritesPowerCycles : Prop :=
  State.reset.num 0x8100 0xA = 0 ∧ ∀ (c : Instr) (s s' : State), exec c s = .next s' → Standing s c.time →
    (match c with
      | .powerGood .. | .objectWrite .. | .writeObjects .. | .bootSend .. | .frameReceived .. | .islandRestartDone ..
      | .commitComplete .. => True
      | .powerCycleSeed .. => (s.arrive c.time).bit 0x8100 3 14 = true → s'.num 0x8100 0xA = s.num 0x8100 0xA
      | _ => s'.num 0x8100 0xA = s.num 0x8100 0xA)

/-- R446: an occurrence of an event sets its Pending flag and its flag only, adds one to its count, which saturates at 65 535, and to no
other, and makes its last occurrence the ridge time and the three parameters. -/
def Obligations.AnOccurrenceIsPendingCountedAndStamped : Prop :=
  ∀ (s : State) (e p0 p1 p2 : Nat), e < 256 → (s.blob 0x1200 1).length = 32 → (s.blob 0x1200 2).length = 512 →
    (s.blob 0x1200 7).length = 6144 → let s' := s.occur e p0 p1 p2
    (∀ n, blobBit (s'.blob 0x1200 1) n = (blobBit (s.blob 0x1200 1) n || n == e)) ∧
    field (s'.blob 0x1200 2) (2 * e) 2 = min 65535 (field (s.blob 0x1200 2) (2 * e) 2 + 1) ∧
    (∀ n, n < 256 → n ≠ e → field (s'.blob 0x1200 2) (2 * n) 2 = field (s.blob 0x1200 2) (2 * n) 2) ∧
    slice (s'.blob 0x1200 7) (24 * e) 24 = beBytes 12 (toT96 s.ridge) ++ beBytes 4 p0 ++ beBytes 4 p1 ++ beBytes 4 p2 ∧
    (∀ n, n < 256 → n ≠ e → slice (s'.blob 0x1200 7) (24 * n) 24 = slice (s.blob 0x1200 7) (24 * n) 24) ∧
    (s'.blob 0x1200 1).length = 32 ∧ (s'.blob 0x1200 2).length = 512 ∧ (s'.blob 0x1200 7).length = 6144

/-- R447, R454: EVT_N is low exactly while FW_START has been reached and some event has both its Pending and its EvtRoute bit set. -/
def Obligations.EvtNIsLowWhileARoutedEventIsPending : Prop :=
  ∀ s : State,
    (s.evtLow = true ↔ s.boot.fwStarted = true ∧ ∃ e, e < 256 ∧ blobBit (s.blob 0x1200 1) e = true ∧ blobBit (s.blob 0x1200 4) e = true)

/-- R326: the slot tables and quanta of every resource after power-up are those of Table 11.3 (0xFF a shared slot). -/
def Obligations.PowerUpSlotTablesAreThoseOfTheManual : Prop :=
  let pat := fun (n : Nat) (l : List Nat) => (List.range n).map (fun s => nth 0xFF l (s % l.length))
  let sh := 0xFF
  let now := fun (r : Nat) => tablesIn State.reset r 0
  (now 0).1 = pat 64 [0, 0, 2, 0, 1, 0, 0, 3, 0, 0, 4, 0, 1, 0, 0, 3, 0, 0, 2, 0, 1, 0, 0, 3, 0, 0, 4, 0, 1, 0, 0, 5] ∧
  now 1 = (pat 64 [0, sh, 0, 1, 0, sh, 0, sh, 0, 1, 0, sh, 0, sh, 0, 1], 0x08060501) ∧
  now 2 = (pat 64 [0, sh, sh, sh], 0x101C0004) ∧
  now 3 = (pat 64 [0, sh, 1, sh], 0x0C0A0802) ∧
  now 4 = (pat 16 [0, 1, 0, sh], 0x01010101) ∧
  now 5 = (pat 16 [0, sh, sh, sh], 0x00060501) ∧
  now 6 = (pat 16 [0, sh, 1, sh, 0, sh, sh, sh], 0x04030201)

/-- R315: in a slot `pos` of the joist scratch (resource 0) that its table gives to class c, in any clock k, the arbiter grants c where it
has a request presented; otherwise the lowest-numbered class of C0 to C4 that has one; and C5 only in its own slots. -/
def Obligations.AScratchSlotGoesToItsOwnerThenTheLowestClass : Prop :=
  ∀ (k pos : Nat) (tables : List Nat × Nat) (a : Arbiter) (c : Nat), nth 0xFF tables.1 pos = c → c < 6 →
    (∀ q ∈ a.reqs, q.cls < 6) → let g := (decideSlot 0 k pos tables a).1
    ((∃ q ∈ a.reqs, q.cls = c) → g = some c) ∧
    ((∀ q ∈ a.reqs, q.cls ≠ c) → ∀ n, g = some n ↔ n < 5 ∧ (∃ q ∈ a.reqs, q.cls = n) ∧ ∀ j, j < n → ∀ q ∈ a.reqs, q.cls ≠ j) ∧
    (g = some 5 → c = 5) ∧ (g = none → ∀ q ∈ a.reqs, q.cls = 5) ∧ (decideSlot 0 k pos tables a).2 = a

/-- R479: the checks of a write in their order: the object exists (NO_OBJECT), it has a field that is not RO (ACCESS_ERROR), the role holds
the write right (NO_ACCESS), the size (LENGTH), the range of an immediate object (RANGE), the ownership of the set for a configuration
object; where one fails its status is answered, and the state stays but for the refusal an immediate object's chapter names (R424). -/
def Obligations.AWriteIsCheckedInTheOrderOfTheManual : Prop :=
  ∀ (w : Sender) (k : Nat) (l : List Nat) (s : State),
    (rowOf k = none → writeObj w k l s = (0x10, s)) ∧
    ∀ o, rowOf k = some o →
      (o.kind = .ro → writeObj w k l s = (0x12, s)) ∧
      (o.kind ≠ .ro → w.writes o.right = false → writeObj w k l s = (0x11, s)) ∧
      (o.kind ≠ .ro → w.writes o.right = true → badSize (k / 256) (k % 256) o l = true → writeObj w k l s = (0x13, s)) ∧
      (o.kind = .imm → w.writes o.right = true → badSize (k / 256) (k % 256) o l = false →
        immOutside s (k / 256) (k % 256) (beNat l) l = true →
        writeObj w k l s = (0x1A, immRefused (k / 256) (k % 256) (beNat l) l s)) ∧
      (o.kind = .cfg → w.writes o.right = true → badSize (k / 256) (k % 256) o l = false → setRefusal w s ≠ 0 →
        writeObj w k l s = (setRefusal w s, s))

/-- R63: a SYNC_IN edge of the selected polarity or a SyncCommand that arrives while an alignment is pending is ignored: the alignment
stands and EV_071 is raised; at t_a it is pending no more, and a SyncCommand starts another beside it. -/
def Obligations.SynchronisationIsIgnoredWhileAnAlignmentIsPending : Prop :=
  ∀ (s : State) (t : Nat), let b := s.arrive t
    (b.blob 0x1200 1).length = 32 →
    (∀ a r, a ∈ b.meas.aligns → b.ridgeFine < a.ta → b.bit 0x2310 1 15 = true → r = !b.bit 0x2310 1 14 → Gives (.syncInEdge t r) s
      fun b s' => s'.meas.aligns = b.meas.aligns ∧ blobBit (s'.blob 0x1200 1) 71 = true) ∧
    (∀ a at96, at96 < 2 ^ 96 → a ∈ b.meas.aligns → b.ridgeFine < a.ta → hostOk b = true → Gives (.syncCommand t at96) s fun b s' =>
      s'.meas.aligns = b.meas.aligns ∧ blobBit (s'.blob 0x1200 1) 71 = true) ∧
    ((∀ a ∈ b.meas.aligns, a.ta ≤ b.ridgeFine) → hostOk b = true → Gives (.syncCommand t 0) s fun b s' =>
      s'.meas.aligns = b.meas.aligns ++ [⟨b.ridge + rns 1000, true, false, 0, false, none⟩])

/-- R428, R430, R431, R474 seen from the commands: a configuration object changes only where COMMIT_COMPLETE puts a staged set in place,
where the device starts or forms its identity (POWER_GOOD, an accepted RESTART that falls due, PUF_DERIVATION), or where KEY_LOAD loads the
role keys; every other command, whatever its operands, leaves every configuration object as it was. Set aside with those are the commands that carry messages or
writes, which can be any of them (OBJECT_WRITE, WRITE, SEND, FRAME_RECEIVED, ISLAND_RESTART_DONE), and the five records whose word also
holds status that the device itself writes: FirBanks of a channel, BankControl of an element instance, Asymmetry of a port, LeapPending and
QuantityConfig. -/
def Obligations.ConfigurationChangesOnlyAtACommit : Prop :=
  ∀ (c : Instr) (s s' : State) (k : Nat) (o : ObjRow), exec c s = .next s' → Standing s c.time → rowOf k = some o → o.kind = .cfg →
    [(⟨0x2100, 0x213F, 4, 4⟩ : Objs), ⟨0x3400, 0x3BFF, 4, 4⟩, ⟨0x7028, 0x7029, 4, 4⟩, ⟨0x7030, 0x7030, 6, 6⟩,
      ⟨0x8110, 0x814F, 1, 1⟩].any (·.has k) = false →
    (match c with
      | .commitComplete .. | .powerGood .. | .pufDerivation .. | .keyLoad .. | .objectWrite .. | .writeObjects ..
      | .bootSend .. | .frameReceived .. | .islandRestartDone .. => True
      | _ => s'.val k = s.val k)

/-- R452, R453, R455, R456, R459, R460: the commands from power good to a running image. -/
def Obligations.PowerUpCompletes : Prop :=
  ∀ (s : State) (t : Nat), let b := s.arrive t
    (∀ m, m < 4 → Gives (.powerGood t m) s fun b s' =>
      s'.ridge = 0 ∧ s'.now = b.now ∧ s'.stage = 0 ∧ s'.fld 0xB000 1 23 20 = 1 ∧ s'.gfState = 0 ∧ s'.net.sessions = []
        ∧ s'.net.openSet = none ∧ s'.boot.railsA = m.testBit 0 ∧ s'.boot.railsB = m.testBit 1) ∧
    (∀ straps m, straps < 64 → m < 4 → b.stage = 0 → Gives (.romChecksComplete t straps m) s fun b s' =>
      s'.stage = 1 ∧ s'.num 0x1000 5 = straps ∧ s'.boot.railsA = (b.boot.railsA && m.testBit 0)
        ∧ s'.boot.railsB = (b.boot.railsB && m.testBit 1)) ∧
    (∀ k, 1 ≤ k → k < p256N → b.stage = 1 → Gives (.pufDerivation t k k) s fun b s' =>
      s'.stage = 2 ∧ s'.boot.deviceKey = some k ∧ s'.blob 0x1000 3 = publicKey k
        ∧ s'.num 0x1000 1 = field (sha256 (publicKey k)) 0 8 % 2 ^ 64 ∧ s'.num 0x1010 2 = (0xA9FE4E64 + b.boot.straps) % 2 ^ 32) ∧
    (∀ k1 k2, k1 ≠ k2 → b.stage = 1 → b.boot.pufTries = 3 → Gives (.pufDerivation t k1 k2) s fun _ s' =>
      s'.stage = 15 ∧ s'.fld 0xB000 1 27 24 = 1) ∧
    (b.stage = 4 → Gives (.imageVerify t) s fun b s' =>
      if checkImage b.boot.image = 1 then s'.stage = 5 ∧ s'.boot.slotA = b.boot.image ∧ s'.boot.active = 0 ∧ s'.num 0xB000 5 = 1
      else s'.stage = 2 ∧ s'.boot.image = [] ∧ s'.boot.claim = none ∧ s'.num 0xB000 5 = checkImage b.boot.image % 2 ^ 8) ∧
    (b.stage = 5 → Gives (.fwStart t) s fun b s' =>
      s'.stage = 6 ∧ s'.boot.serving = true ∧ s'.num 0x1000 2 = field b.boot.slotA 4 4 % 2 ^ 32)

/-- R459: the requests of the loader, over a port of a sill that serves and over the boot port. While the loader absorbs a block it answers
BUSY; when it does is the model's choice (log entry 28). -/
def Obligations.LoaderCompletes : Prop :=
  ∀ (s : State) (t : Nat), let b := s.arrive t
    (∀ port ip data, port < 2 → ip < 2 ^ 32 → bytesOk data = true → data.length = 1024 → b.stage = 3 → bootPortServed b port = true →
      b.boot.claim = some (2 + port) → b.boot.absorbTo ≤ b.now → b.boot.nextOffset = b.boot.image.length → 256 ≤ b.boot.image.length →
      b.boot.image.length + 1024 < 256 + field b.boot.image 8 4 → b.boot.image.length < 2 ^ 32 →
      Gives (.loaderBlock t port ip b.boot.nextOffset 1024 data) s fun b s' =>
        s'.stage = 3 ∧ s'.boot.image = b.boot.image ++ data ∧ s'.boot.nextOffset = b.boot.nextOffset + 1024
          ∧ s'.boot.lastBlock = b.now
          ∧ s'.out = [⟨5, port, beBytes 2 0x4C44 ++ [0x81, 0] ++ beBytes 4 (b.boot.nextOffset + 1024) ++ [3, b.num 0xB000 5]⟩]) ∧
    (∀ port ip, port < 2 → ip < 2 ^ 32 → 2 ≤ b.stage → b.stage ≤ 4 → bootPortServed b port = true →
      Gives (.loaderStatusOp t port ip) s fun b s' =>
        s'.boot = b.boot ∧ s'.stage = b.stage
          ∧ s'.out = [⟨5, port, beBytes 2 0x4C44 ++ [0x82, 0] ++ beBytes 4 b.boot.nextOffset ++ [b.stage, b.num 0xB000 5]⟩]) ∧
    (∀ port ip, port < 2 → ip < 2 ^ 32 → b.stage = 3 → bootPortServed b port = true → b.boot.claim = some (2 + port) →
      Gives (.loaderAbort t port ip) s fun _ s' =>
        s'.stage = 2 ∧ s'.boot.image = [] ∧ s'.boot.claim = none ∧ s'.num 0xB000 5 = 6
          ∧ s'.out = [⟨5, port, beBytes 2 0x4C44 ++ [0x83, 0] ++ beBytes 4 0 ++ [2, 6]⟩]) ∧
    (∀ off len data, off < 2 ^ 32 → len < 2 ^ 16 → bytesOk data = true → b.stage = 3 → b.boot.claim = some 1 → b.boot.absorbTo ≤ b.now →
      off ≠ b.boot.nextOffset →
      Gives (.bootLoad t off len data) s fun b s' =>
        s'.stage = 3 ∧ s'.boot.image = b.boot.image ∧ s'.boot.unread = true
          ∧ s'.boot.response = beBytes 2 0x4C44 ++ [0x81, 1] ++ beBytes 4 b.boot.nextOffset ++ [3, b.num 0xB000 5] ++ [0, 0]) ∧
    (∀ off len data, off < 2 ^ 32 → len < 2 ^ 16 → bytesOk data = true → b.stage = 3 → b.boot.claim = some 1 → b.now < b.boot.absorbTo →
      Gives (.bootLoad t off len data) s fun b s' =>
        s'.stage = 3 ∧ s'.boot.image = b.boot.image ∧ s'.boot.unread = true
          ∧ s'.boot.response = beBytes 2 0x4C44 ++ [0x81, 5] ++ beBytes 4 b.boot.nextOffset ++ [3, b.num 0xB000 5] ++ [0, 0]) ∧
    (∀ data, bytesOk data = true → data.length = 4096 → b.stage = 2 → b.boot.claim = none → b.boot.absorbTo ≤ b.now → b.boot.nextOffset = 0 → b.boot.image = [] →
      field data 0 4 = 0x494D4731 → 4096 ≤ field data 8 4 → field data 8 4 ≤ 6291456 →
      Gives (.bootLoad t 0 4096 data) s fun b s' =>
        s'.stage = 3 ∧ s'.fld 0xB000 1 19 16 = 1 ∧ s'.boot.claim = some 1 ∧ s'.boot.image = data
          ∧ s'.boot.nextOffset = 4096 ∧ s'.boot.lastBlock = b.now) ∧
    (2 ≤ b.stage → Gives (.loaderStatus t) s fun b s' => s'.out = [⟨6, 0, b.boot.response⟩] ∧ s'.boot.unread = false) ∧
    (b.stage = 3 → b.boot.lastBlock + secFs 10 ≤ b.now → Gives (.loaderIdleTimeout t) s fun _ s' =>
      s'.stage = 2 ∧ s'.boot.image = [] ∧ s'.boot.claim = none ∧ s'.num 0xB000 5 = 6)

/-- R465, R470, R473, R474: boot commands, restarts of the island and the firmware slots. An accepted RESTART acts 10 ms after its receipt,
an accepted SWITCH 2000 ns after: the last clauses say what any command then finds. -/
def Obligations.ManagementCompletes : Prop :=
  ∀ (s : State) (t : Nat), let b := s.arrive t
    (∀ m, m < 4 → hostOk b = true → b.stage = 6 → b.net.openSet = none → Gives (.bringUp t m) s fun b s' =>
      s'.stage = 7 ∧ s'.num 0xB000 3 = 0x1000 ∧ s'.boot.bringUpBegun = true ∧ s'.boot.railsA = (b.boot.railsA && m.testBit 0)
        ∧ s'.boot.railsB = (b.boot.railsB && m.testBit 1)) ∧
    (hostOk b = true → (b.stage = 8 ∧ b.stopped = true) ∨ b.stage = 15 → b.boot.restartAt = none → Gives (.restart t 0x782) s fun b s' =>
      s'.boot = { b.boot with restartAt := some (b.now + msFs 10) } ∧ s'.num 0xB000 3 = 0x2000 ∧ s'.stage = b.stage) ∧
    (∀ c, c < 2 ^ 12 → c ≠ 0x782 → hostOk b = true → (b.stage = 8 ∧ b.stopped = true) ∨ b.stage = 15 →
      Gives (.restart t c) s fun b s' => s'.stage = b.stage ∧ s'.num 0xB000 3 = 0x2005 ∧ s'.boot = b.boot) ∧
    (∀ c, c < 2 ^ 12 → hostOk b = true → b.stage = 8 → b.stopped = false → Gives (.restart t c) s fun b s' =>
      s'.stage = 8 ∧ s'.num 0xB000 3 = 0x2004 ∧ s'.boot = b.boot) ∧
    (∀ r, s.boot.restartAt = some r → r ≤ t →
      b.stage = 0 ∧ b.fld 0xB000 1 23 20 = 2 ∧ b.gfState = 0 ∧ b.net.sessions = [] ∧ b.net.openSet = none ∧ b.boot.serving = false) ∧
    (∀ internal, hostOk b = true → b.net.openSet = none → Gives (.islandWatchdog t internal) s fun b s' =>
      s'.boot.islandDown = true ∧ s'.num 0xB000 6 = satInc 16 (b.num 0xB000 6) % 2 ^ 16 ∧ s'.num 0xB000 7 = if internal then 3 else 1) ∧
    (b.boot.islandDown = true → b.net.queue = [] → Gives (.islandRestartDone t) s fun b s' =>
      s'.boot = { b.boot with islandDown := false } ∧ s'.net.queue = []) ∧
    (∀ part data, part < 7 → bytesOk data = true → data.length ≤ blobMax → hostOk b = true →
      Gives (.imagePartWrite t part data) s fun _ s' => s'.fld 0xB200 9 27 24 = 1 ∧ Store.get [] part s'.boot.parts = data) ∧
    (hostOk b = true → b.boot.active = 0 → Gives (.imageVerifyCommand t) s fun b s' =>
      let img := (List.range 7).flatMap (fun i => Store.get [] i b.boot.parts)
      s'.num 0xB000 5 = checkImage img % 2 ^ 8 ∧
        (if checkImage img = 1 then s'.fld 0xB200 9 27 24 = 2 ∧ s'.num 0xB200 0xA = field img 4 4 % 2 ^ 32 ∧ s'.boot.slotB = img
        else s'.fld 0xB200 9 27 24 = 3 ∧ s'.boot = b.boot)) ∧
    (hostOk b = true → switchRefused b = false → b.boot.switchAt = none → Gives (.imageSwitch t) s fun b s' =>
      s'.boot = { b.boot with switchAt := some b.appTime } ∧ s'.ridge = b.ridge) ∧
    (hostOk b = true → switchRefused b = true → (b.blob 0x1200 1).length = 32 → Gives (.imageSwitch t) s fun b s' =>
      s'.boot = b.boot ∧ blobBit (s'.blob 0x1200 1) 250 = true) ∧
    (∀ q, s.boot.restartAt = none → s.boot.switchAt = some q → q ≤ b.ridge →
      b.boot.switchAt = none ∧ b.boot.active = 1 - s.boot.active ∧ b.boot.islandDown = true ∧ b.net.openSet = none
        ∧ b.num 0x1000 2 = s.num 0xB200 0xA % 2 ^ 32 ∧ b.num 0xB200 0xA = s.num 0x1000 2 % 2 ^ 32
        ∧ b.fld 0xB200 9 27 24 = 2 ∧ b.num 0xB000 6 = satInc 16 (s.num 0xB000 6) % 2 ^ 16) ∧
    (hostOk b = true → b.boot.active = 0 → Gives (.imageDiscard t) s fun _ s' =>
      s'.fld 0xB200 9 27 24 = 0 ∧ s'.num 0xB200 0xA = 0 ∧ s'.boot.parts = [] ∧ s'.boot.slotB = [])

/-- R23, R24, R467, R471, R472: the end of bring-up, sensors, temperatures and rails. -/
def Obligations.SupplyCompletes : Prop :=
  ∀ (s : State) (t : Nat), let b := s.arrive t
    (b.stage = 7 → pllLocked b 0 = true → sideUsable b .A true = true → sideUsable b .B true = true → b.fld 0x6000 1 2 0 = 0 →
      b.bit 0x6010 1 15 = false → Gives (.bringUpComplete t [] true) s fun _ s' =>
        s'.stage = 8 ∧ s'.sideState .A = 1 ∧ s'.sideState .B = 2) ∧
    (∀ n v h, n < 7 → v < 2 ^ 32 → 100000000 ≤ h → b.boot.tempEpisodes.testBit n = false → L32.le (b.num 0xB010 2) v = true →
      Gives (.tempHigh t n v h) s fun b s' =>
        s'.bit 0xB010 3 0 = true ∧ s'.boot.tempEpisodes.testBit n = true
          ∧ s'.blob 0xB010 1 = patch (b.blob 0xB010 1) (4 * n) (beBytes 4 v)) ∧
    (∀ n v h, n < 6 → v < 2 ^ 32 → 10000000 ≤ h → L32.le 0x42FA0000 v = true → b.boot.critEpisodes.testBit n = false → b.ready = false →
      Gives (.tempCritical t n v h) s fun b s' =>
        s'.bit 0xB010 3 1 = true ∧ (s'.sideRt (sideOf (n % 2))).usable = false
          ∧ s'.boot.critEpisodes = setBit b.boot.critEpisodes n true) ∧
    (∀ v h, v < 2 ^ 32 → 10000000 ≤ h → L32.le 0x42FA0000 v = true → b.boot.critEpisodes.testBit 6 = false → b.ready = true → b.gfState ≠ 6 →
      Gives (.tempCritical t 6 v h) s fun b s' =>
        s'.bit 0xB010 3 1 = true ∧ RidgeStop b s') ∧
    (∀ n v h, n < 7 → v < 2 ^ 32 → h < 10000000 ∨ b.boot.critEpisodes.testBit n = true → Gives (.tempCritical t n v h) s fun b s' =>
      s'.boot = b.boot ∧ s'.gfState = b.gfState ∧ s'.permit = b.permit) ∧
    (∀ n v h, 8 ≤ n → n < 20 → v < 2 ^ 32 → 1000000 ≤ h → railGood 3 n v = false → b.boot.railEpisodes.testBit n = false →
      Gives (.railWarning t n v h) s fun b s' =>
      s'.bit 0xB010 3 2 = true ∧ s'.boot.railEpisodes.testBit n = true
        ∧ s'.blob 0xB010 1 = patch (b.blob 0xB010 1) (4 * n) (beBytes 4 v)) ∧
    (∀ n v h, 8 ≤ n → n < 16 → v < 2 ^ 32 → 100000 ≤ h → railGood 6 n v = false → b.boot.critEpisodes.testBit n = false → b.ready = false →
      Gives (.railFault t n v h) s fun _ s' => s'.bit 0xB010 3 3 = true ∧ (s'.sideRt (sideOf (n % 2))).usable = false) ∧
    (∀ n v h, 16 ≤ n → n < 20 → v < 2 ^ 32 → 100000 ≤ h → railGood 6 n v = false → b.boot.critEpisodes.testBit n = false → b.ready = true →
      b.gfState ≠ 6 → Gives (.railFault t n v h) s fun b s' => s'.bit 0xB010 3 3 = true ∧ RidgeStop b s') ∧
    (b.ready = true → b.gfState ≠ 6 → Gives (.vddRidgeLoss t) s fun b s' =>
      RidgeStop b s' ∧ ∀ n, n < 72 → (s'.plateOf n).driving = false) ∧
    (b.ready = true → b.gfState ≠ 6 → Gives (.ridgeFault t) s fun b s' => RidgeStop b s' ∧ s'.safety.ridgeFault = true) ∧
    (b.ready = false → b.stage ≠ 15 → Gives (.ridgeFault t) s fun _ s' => s'.stage = 15 ∧ s'.fld 0xB000 1 27 24 = 3) ∧
    (∀ n v, n < 32 → v < 2 ^ 32 → hostOk b = true → sensorListed n = true →
      (b.ready = false ∨ 6 ≤ n ∨ b.powered (sideOf (n % 2)) = true) → Gives (.sensorUpdate t n v) s fun b s' =>
        s'.blob 0xB010 1 = patch (b.blob 0xB010 1) (4 * n) (beBytes 4 v)) ∧
    (∀ n v, n < 6 → v < 2 ^ 32 → hostOk b = true → b.ready = true → b.powered (sideOf (n % 2)) = false → Gives (.sensorUpdate t n v) s
      fun b s' => s'.blob 0xB010 1 = patch (b.blob 0xB010 1) (4 * n) (beBytes 4 0x7FC00000)) ∧
    (∀ n v, 32 ≤ n → n < 36 → v < 2 ^ 32 → hostOk b = true → Gives (.sensorUpdate t n v) s fun b s' =>
      s'.blob 0xB010 1 = patch (b.blob 0xB010 1) (4 * n) (beBytes 4 (L32.ofInt (nth 0 b.boot.corrected (n - 32) : Nat))) ∧
        s'.boot.corrected = setNth b.boot.corrected (n - 32) 0)

/-- R42, R43, R60 to R66, R71, R95: sampling clocks, alignments, output boundaries and the end of settling. -/
def Obligations.SamplingCompletes : Prop :=
  ∀ (s : State) (t : Nat), let b := s.arrive t
    (∀ g, g < 8 → groupEnabled b g = true → (b.group g).running = false → Gives (.samplingClockStart t g) s fun b s' =>
      s'.group g = { running := true, edges := 0, aligned := false, missing := false, restart := false, last := b.now }) ∧
    (∀ g x y r, g < 8 → x < 2 ^ 9 → y < 2 ^ 9 → r < 2 ^ 9 → groupEnabled b g = true → (b.group g).running = true →
      (b.group g).restart = false → Gives (.samplingEdge t g x y r) s fun b s' =>
        (s'.group g).edges = (b.group g).edges + 1 ∧ (s'.group g).last = b.now ∧
          ∀ i, i < 9 → s'.history 2 (9 * g + i) =
            ⟨(2 * (b.history 2 (9 * g + i)).bits + (r.testBit i).toNat) % 2 ^ 96, min 96 ((b.history 2 (9 * g + i)).n + 1)⟩) ∧
    (b.bit 0x2310 1 15 = true → b.bit 0x2310 1 14 = false → pllLocked b 0 = true → alignPending b = false →
      Gives (.syncInEdge t true) s fun b s' =>
        s'.meas.aligns = b.meas.aligns ++ [⟨b.ridge + rns 1000, false, false, 0, false, none⟩] ∧ s'.bit 0x2310 3 30 = false) ∧
    (hostOk b = true → alignPending b = false → Gives (.syncCommand t 0) s fun b s' =>
      s'.meas.aligns = b.meas.aligns ++ [⟨b.ridge + rns 1000, true, false, 0, false, none⟩] ∧ s'.bit 0x2310 3 30 = true) ∧
    (∀ a ∈ b.meas.aligns, a.command = true → a.pulsed = false → a.ta ≤ b.ridge + rns 960 → b.bit 0x2310 1 13 = true →
      Gives (.syncOutPulse t) s fun b s' => s'.out = b.out ++ [⟨14, 0, [0, 200]⟩] ∧ { a with pulsed := true } ∈ s'.meas.aligns ∧
        s'.syncOutHigh = true ∧ s'.meas.syncOutEnd = b.now + nsFs 200) ∧
    (∀ a g, g < 8 → a ∈ b.meas.aligns → a.awaits g = true → (b.group g).running = true → Gives (.decimAlignment t g) s fun _ s' =>
      (s'.group g).edges = 0 ∧ (s'.group g).aligned = true ∧ (s'.group g).restart = false ∧ ∀ q ∈ s'.meas.aligns, q.awaits g = false) ∧
    (∀ a m g, g < 8 → b.meas.aligns = [a] → a.taking = some m → m.testBit g = true → (b.group g).running = true →
      a.groups.testBit g = false → Gives (.decimAlignment t g) s fun b s' =>
        if (List.range 8).all (fun k => !m.testBit k || a.groups.testBit k || k == g) = true then
          s'.meas.aligns = [] ∧ s'.num 0x2310 4 = toT96 a.ta % 2 ^ 96 ∧ s'.fld 0x2310 3 15 0 = satInc 16 (b.fld 0x2310 3 15 0)
        else s'.meas.aligns = [{ a with groups := setBit a.groups g true }]) ∧
    (∀ x c, c < 64 → b.feeds x = true → chanEnabled b c = true → (b.chain x c).due = true → b.fld (0x2100 + c) 7 15 0 = 0 →
      Gives (.decimationBoundary t x c) s fun b s' =>
        (s'.chain x c).due = false ∧ (s'.chain x c).lastFir = some (satI 32 (firOut (applySwap x c b) x c))) ∧
    (∀ g, g < 8 → groupEnabled b g = true → (b.group g).missing = false →
      (b.group g).last + 64 * 10 ^ 12 / max 1 (modKHz b g) ≤ b.now → Gives (.modClockMissing t g) s fun b s' =>
        s'.group g = { b.group g with running := false, missing := true, aligned := false }) ∧
    (∀ x c, c < 64 → b.feeds x = true → (b.chain x c).settling = false → (b.chain x c).faultQ = true →
      (b.feedback c).declared = 0 → Gives (.settlingCleared t x c) s fun b s' => s'.chain x c = { b.chain x c with faultQ := false })

/-- R57, R58, R66 to R71, R206: feedback supervision, and a swap of coefficient banks requested. -/
def Obligations.FeedbackCompletes : Prop :=
  ∀ (s : State) (t : Nat), let b := s.arrive t
    (∀ x c, c < 64 → b.feeds x = true → b.inService x = true → b.inService (otherSide x) = false → chanEnabled b c = true →
      64 ≤ (b.chain x c).run → ((b.feedback c).rep x).1 = 0 → (b.feedback c).declared = 0 → Gives (.stuckBits t x c) s fun _ s' =>
        (s'.feedback c).declared = 1 ∧ s'.bit (0x2100 + c) 0xB 3 = true ∧ s'.bit (0x2100 + c) 0xB 6 = true) ∧
    (∀ c, c < 64 → b.ready = true → b.sideState .A = 1 → b.sideState .B = 2 → (b.feedback c).repA ≠ 0 → (b.feedback c).repB = 0 →
      (b.feedback c).declared = 0 → (b.feedback c).atA + usFs 2 ≤ b.now → (b.feedback c).atA < (b.chain .B c).outAt →
      (b.chain .B c).faultQ = false → Gives (.feedbackDisagreement t c) s fun _ s' => s'.sideState .B = 1) ∧
    (∀ c u, c < 64 → (b.feedback c).modelUntil = some u → u ≤ b.now → (b.feedback c).declared ≠ 0 → b.gfState ≠ 6 →
      Gives (.modelTimeExpiry t c) s fun _ s' =>
        (s'.feedback c).acted = true ∧ (s'.feedback c).modelUntil = none ∧ s'.plate.gateHold = true ∧ s'.gf.causes.testBit 10 = true) ∧
    (∀ c, c < 64 → (∀ x, b.inService x = true → condPresent b x c = false) →
      ((b.feedback c).repA ≠ 0 ∨ (b.feedback c).repB ≠ 0 ∨ (b.feedback c).declared ≠ 0) →
      Gives (.feedbackRecovery t c) s fun b s' =>
        ∃ m, s'.feedback c = { Feedback.init with modelUntil := m } ∧ ((b.feedback c).waits = false → m = (b.feedback c).modelUntil)) ∧
    (∀ g, g < 8 → hostOk b = true → swapRefused b g = false →
      Gives (.bankSwapRequest t (2 ^ g)) s fun b s' =>
        s'.meas.swaps = b.meas.swaps ++ [(g, ⟨b.appTime, 0, 0⟩)] ∧ s'.bit 0x2300 2 (8 + g) = true)

/-- R75, R76, R79, R96, R97, R99: reference triples, comparators and blanking windows. -/
def Obligations.ArcChordCompletes : Prop :=
  ∀ (s : State) (t : Nat), let b := s.arrive t
    (∀ x d q, d < 4 → b.feeds x = true → (b.graph x).triples = [(d, q)] → b.ridgeFine ≤ applyAt b q → Gives (.arcRefTriple t x d) s fun b s' =>
      (s'.arc x d).held = (b.arc x d).held ++ [q] ∧ (s'.graph x).triples = []) ∧
    (∀ x d q, d < 4 → b.feeds x = true → (b.graph x).triples = [(d, q)] → applyAt b q < b.ridgeFine → Gives (.arcRefTriple t x d) s fun b s' =>
      s'.arc x d = b.arc x d ∧ (s'.graph x).triples = [] ∧ s'.bit (0x2500 + d) 6 0 = true) ∧
    (∀ x d q l, d < 4 → b.feeds x = true → (b.arc x d).held = q :: l → applyAt b q ≤ b.ridgeFine → q.grid.toNat = arcWanted b d →
      Gives (.arcRefApply t x d) s fun b s' =>
        (s'.arc x d).held = l ∧ (s'.arc x d).line = some (tripleLine b d q).1 ∧ (s'.arc x d).clamped = (tripleLine b d q).2
          ∧ (s'.arc x d).src = q.grid.toNat ∧ (s'.arc x d).stale = false ∧ (s'.arc x d).lastApply = b.now) ∧
    (∀ d, d < 4 → b.plate.halted = false → b.feeds b.reporter = true → (b.arc b.reporter d).src < 2 →
      (b.arc b.reporter d).line.isSome = true → (b.arc b.reporter d).stale = false →
      max (b.arc b.reporter d).lastApply b.plate.resumedAt + usFs (b.num (0x2500 + d) 5) ≤ b.now →
      Gives (.arcRefStale t d) s fun b s' => (s'.arc b.reporter d).stale = true ∧ s'.bit (0x2500 + d) 6 1 = true) ∧
    (∀ c k, c < 64 → k < 4 → (b.comp c k).due = true → compAction b c k = 2 → b.gfState ≠ 6 → Gives (.comparatorFire t c k) s fun b s' =>
      s'.meas.chordTrip = true ∧ s'.plate.gateHold = true ∧ s'.comp c k = { b.comp c k with due := false }
        ∧ s'.bit (0x2600 + c) 7 (15 - k) = true) ∧
    (∀ c k, c < 64 → k < 4 → (b.comp c k).due = true → compAction b c k ≠ 2 → Gives (.comparatorFire t c k) s fun b s' =>
      s'.meas.chordTrip = b.meas.chordTrip ∧ s'.plate.gateHold = b.plate.gateHold ∧ s'.comp c k = { b.comp c k with due := false }
        ∧ s'.bit (0x2600 + c) 7 (15 - k) = true) ∧
    (∀ c g, c < 64 → g < 8 → b.bit (0x2600 + c) 6 (8 + g) = true → blankFs b c ≠ 0 → (b.blank c).isOpen = false →
      (∀ o, (b.blank c).openedAt = some o → o + 2 * blankFs b c ≤ b.now) → Gives (.blankWindowOpen t c g) s fun b s' =>
        s'.blank c = ⟨some b.now, true⟩) ∧
    (∀ c o, c < 64 → (b.blank c).openedAt = some o → (b.blank c).isOpen = true → o + blankFs b c ≤ b.now →
      Gives (.blankWindowClose t c) s fun _ s' => s'.blank c = ⟨some o, false⟩)

/-- R105, R106, R112, R118 to R120, R128 to R131, R153, R154: ticks of a side, its lanes, its entries and its compare writer, the switch of
slots and the swap of parameters. An entry completes Start and Cost lane clocks after its tick; the compare writer's commits come 6 lane
clocks after CompareStart (log entry 27), the fifth clause saying what a later command then finds. -/
def Obligations.GraphCompletes : Prop :=
  ∀ (s : State) (t : Nat), let b := s.arrive t
    (∀ x k v, b.feeds x = true → b.plate.halted = false → switchNow b = none → b.activeSlot = some k →
      tickDue b x (slotSched b k) = some v → Gives (.fastTick t x) s fun b s' =>
        (s'.graph x).started = true ∧ (s'.graph x).tick = b.ridge ∧ (s'.graph x).tickAt = b.now ∧ (s'.graph x).vertex = v ∧
        (s'.graph x).index = (if (b.graph x).started then ((b.graph x).index + 1) % hyper (slotSched b k) else 0) ∧
        (s'.graph x).done = [] ∧ (s'.graph x).compared = false) ∧
    (∀ x j l, j < 16 → l < 8 → b.feeds x = true → (((List.range 9).filter (lanePowered b x j))[l]?).isSome = true →
      wakeDue b x j l = true → (b.graph x).awake.contains (j * 8 + l) = false → Gives (.laneWake t x j l) s fun b s' =>
        s'.graph x = { b.graph x with awake := (b.graph x).awake ++ [j * 8 + l] }) ∧
    (∀ x n k e d u, n < 8192 → b.feeds x = true → b.plate.halted = false → b.activeSlot = some k → (b.graph x).started = true →
      (dueEntries b x k (b.graph x).index).find? (fun p => p.1 == n) = some (n, e) → laneClockDue b x (seStart e + seCost e) = true →
      (b.graph x).done.contains n = false → ((b.graph x).compared && (comparePath (slotGraph b k)).contains (seKey e)) = false →
      instEntry (slotGraph b k) (seKey e) = some d → runPart x k d (sePart e) b = some u → Gives (.entryExecution t x n) s fun _ s' =>
        (s'.graph x).done = (u.graph x).done ++ [n] ∧ (s'.graph x).inst = (u.graph x).inst) ∧
    (∀ x k, b.feeds x = true → b.plate.halted = false → b.activeSlot = some k → (b.graph x).started = true →
      (b.graph x).compared = false → laneClockDue b x (schCompare (slotSched b k)) = true → overrunJoists b x k = [] →
      (b.graph (otherSide x)).overran = false → Gives (.compareWriter t x) s fun b s' =>
        (s'.graph x).compared = true ∧ (s'.graph x).overran = false ∧ (s'.graph x).overruns = 0 ∧
        ∀ i m, (s'.graph x).commits = some (i, m) → i = max b.now ((b.graph x).tickAt + (schCompare (slotSched b k) + 6) * clockFs)) ∧
    (∀ x i m, s.boot.restartAt = none → (s.graph x).commits = some (i, m) → i ≤ b.now →
      (b.graph x).commits = none ∧ ∀ u, u < 32 → m.testBit u = true → ((b.sill x).update u).partialAt = none) ∧
    (∀ x k, b.feeds x = true → b.plate.halted = false → b.activeSlot = some k → (b.graph x).started = true →
      (b.graph x).compared = false → laneClockDue b x (schCompare (slotSched b k)) = true → overrunJoists b x k ≠ [] →
      b.control = some x → b.inService (otherSide x) = false → 1 ≤ (b.graph x).overruns → b.gfState ≠ 6 →
      Gives (.compareWriter t x) s fun _ s' =>
        (s'.graph x).overran = true ∧ s'.plate.gateHold = true ∧ s'.gf.causes.testBit 11 = true) ∧
    (∀ w, w < 2 ^ 16 → hostOk b = true → slotRefused b (w % 2) = false → Gives (.graphSwitchRequest t w) s fun b s' =>
      s'.graphs.switch = some (w % 2, b.appTime) ∧ s'.bit 0x3000 2 31 = true) ∧
    (∀ k, switchNow b = some k → k < 2 → Gives (.graphSwitch t) s fun b s' =>
      s'.activeSlot = some k ∧ s'.graphs.switch = none ∧ s'.num (0x3100 + k) 4 = 2 ∧ s'.num 0x3000 3 = toT96 b.ridge % 2 ^ 96) ∧
    (∀ g, g < 16 → hostOk b = true → paramRefused b g = false → Gives (.paramSwapRequest t (2 ^ g)) s fun b s' =>
      s'.graphs.swaps = Store.put 0 g b.appTime b.graphs.swaps ∧ s'.bit 0x3300 2 (16 + g) = true)

/-- R132 to R138, R152: reads of results, and commands of instance records. -/
def Obligations.ResultCompletes : Prop :=
  ∀ (s : State) (t : Nat), let b := s.arrive t
    (∀ r j sub, r < 18 → j < 512 → 1 ≤ sub → sub < 4 → hostOk b = true → resultDepth b j = 0 → Gives (.resultRead t r j sub) s fun b s' =>
      let q := servedResult b j
      let again := Store.get 0 j (b.reader r).lastProd == q.count + 1
      s'.out = [⟨17, r, resultBytes sub (resultWide b j) (metaWord q.count q.valid q.stale again false false q.q 0) q.v⟩] ∧
        (s'.reader r).lastProd = Store.put 0 j (q.count + 1) (b.reader r).lastProd ∧ s'.graphs = b.graphs) ∧
    (∀ r j sub, r < 18 → j < 512 → 1 ≤ sub → sub < 4 → hostOk b = true → resultDepth b j ≠ 0 → (servedResult b j).fifo = [] →
      Gives (.resultFifoRead t r j sub) s fun b s' =>
        let q := servedResult b j
        s'.out = [⟨17, r, resultBytes sub (resultWide b j) (metaWord q.count false q.stale false true true 0 0) 0⟩] ∧ s'.graphs = b.graphs) ∧
    (∀ r j sub p l, r < 18 → j < 512 → sub = 1 ∨ sub = 3 → hostOk b = true → resultDepth b j ≠ 0 → (servedResult b j).fifo = p :: l →
      Gives (.resultFifoRead t r j sub) s fun b s' =>
        let q := servedResult b j
        s'.out = [⟨17, r, resultBytes sub (resultWide b j) (metaWord p.seq true q.stale false true false p.q l.length) p.v⟩] ∧
        ∀ x, ((s'.graph x).result j).fifo = if b.feeds x then ((b.graph x).result j).fifo.drop 1 else ((b.graph x).result j).fifo) ∧
    (∀ r j p l, r < 18 → j < 512 → hostOk b = true → resultDepth b j ≠ 0 → (servedResult b j).fifo = p :: l →
      Gives (.resultFifoRead t r j 2) s fun b s' =>
        let q := servedResult b j
        s'.out = [⟨17, r, beBytes 4 (metaWord p.seq true q.stale false true false p.q (l.length + 1))⟩] ∧ s'.graphs = b.graphs) ∧
    (∀ slot rec, slot < 2 → rec < 1024 → hostOk b = true → Gives (.presetNow t slot rec) s fun b s' =>
      ∀ x, (s'.graph x).cmds = (b.graph x).cmds ++ [(0x3400 + 0x400 * slot + rec, 1, b.appTime)]) ∧
    (∀ slot rec, slot < 2 → rec < 1024 → hostOk b = true → Gives (.modeForceManual t slot rec) s fun b s' =>
      ∀ x, (s'.graph x).cmds = (b.graph x).cmds ++ [(0x3400 + 0x400 * slot + rec, 2, b.appTime)]) ∧
    (∀ slot rec, slot < 2 → rec < 1024 → hostOk b = true → Gives (.modeForceAutomatic t slot rec) s fun b s' =>
      ∀ x, (s'.graph x).cmds = (b.graph x).cmds ++ [(0x3400 + 0x400 * slot + rec, 4, b.appTime)]) ∧
    (∀ slot rec, slot < 2 → rec < 1024 → hostOk b = true → Gives (.modeRelease t slot rec) s fun b s' =>
      ∀ x, (s'.graph x).cmds = (b.graph x).cmds ++ [(0x3400 + 0x400 * slot + rec, 6, b.appTime)])

/-- R196, R199: the commands of the grid-forming machine: each waits, in the place of one not yet evaluated; the next main tick at or after
its application time evaluates it and shows its code and the reason of Table 06.6; an accepted one decides its transition of Table 06.5
where none of a lower number is due. -/
def Obligations.GridFormCommandsComplete : Prop :=
  ∀ (s : State) (t : Nat), let b := s.arrive t
    let tick := mainTickNow b = true ∧ b.gf.lastMain < b.now ∧ b.gf.trans = none ∧ b.gf.closeNext = false ∧ b.startArmed = false
    let why := fun (code : Nat) (coh : Bool) (app : Nat) => gfReason b true (readings b true) code coh app
    let rides := b.gf.holds < 16 ∧ 512 ≤ b.num 0x4010 5 ∧ 512 ≤ b.num 0x4010 6 ∧ 512 ≤ b.num 0x4010 7
    let decides := fun (code dest prio : Nat) => ∀ app, app ≤ b.ridge → b.gf.cmd = some (code, false, app) → why code false app = 0 →
      Gives (.gfMainTick t) s fun b s' => s'.gf.cmd = none ∧ s'.gf.trans = some ⟨dest, 0, prio, b.now⟩
    (∀ c : Bool, hostOk b = true → Gives (.blackStart t c) s fun b s' => s'.gf.cmd = some (1, c, b.appTime)) ∧
    (hostOk b = true → Gives (.join t) s fun b s' => s'.gf.cmd = some (2, false, b.appTime)) ∧
    (hostOk b = true → Gives (.resync t) s fun b s' => s'.gf.cmd = some (3, false, b.appTime)) ∧
    (hostOk b = true → Gives (.abortResync t) s fun b s' => s'.gf.cmd = some (4, false, b.appTime)) ∧
    (hostOk b = true → Gives (.stop t) s fun b s' => s'.gf.cmd = some (5, false, b.appTime)) ∧
    (hostOk b = true → Gives (.acknowledge t) s fun b s' => s'.gf.cmd = some (6, false, b.appTime)) ∧
    (hostOk b = true → Gives (.cancelStart t) s fun b s' => s'.gf.cmd = some (7, false, b.appTime)) ∧
    (∀ code coh app, tick → code < 16 → app ≤ b.ridge → b.gf.cmd = some (code, coh, app) → Gives (.gfMainTick t) s fun _ s' =>
      s'.gf.cmd = none ∧ s'.num 0x4001 5 = code <<< 12 ||| why code coh app ∧
        (code = 1 → coh = true → why code coh app = 0 → s'.startArmed = true)) ∧
    (tick → stopCause b = 0 → b.gfState = 0 → decides 1 1 10 ∧ decides 2 2 11) ∧
    (tick → stopCause b = 0 → b.gfState = 2 ∨ b.gfState = 3 → decides 5 0 2) ∧
    (tick → b.gfState = 6 → decides 6 0 12) ∧
    (tick → stopCause b = 0 → b.gfState = 2 → rides → decides 3 5 9) ∧
    (tick → stopCause b = 0 → b.gfState = 5 → rides → breakerClosed b = false → decides 4 2 7)

/-- R193, R195, R199, R191: a coherent start, a main tick at which a transition decided at an earlier one takes effect (Table 06.5; JOIN's
destination by the breaker), the evaluation while no tick occurs, and the end of RIDE_THROUGH. -/
def Obligations.GridFormCompletes : Prop :=
  ∀ (s : State) (t : Nat), let b := s.arrive t
    (mainTickNow b = true → b.startArmed = true → ofT96 (b.num 0x4001 2) ≤ b.ridge → b.gfState = 0 → b.synced = true →
      (readBinding b true 1).below (b.num 0x4002 7) = true → Gives (.coherentStart t) s fun _ s' =>
        s'.gfState = 1 ∧ s'.startArmed = false) ∧
    (∀ dest c prio d, mainTickNow b = true → b.gf.lastMain < b.now → b.gf.closeNext = false → b.startArmed = false → d < b.now →
      b.gf.trans = some ⟨dest, c, prio, d⟩ → dest < 7 → c < 16 → Gives (.gfMainTick t) s fun b s' =>
        s'.gfState = (if prio = 11 then (if breakerClosed b && !b.bit 0x4002 1 29 then 3 else 2) else dest) ∧
          s'.fld 0x4001 3 15 12 = c ∧ s'.fld 0x4001 3 11 8 = b.gfState) ∧
    (∀ c, b.ready = true → ticksOccur b = false → b.gf.trans = none → b.gf.firstCause = c → 0 < c → c < 16 → b.gfState ≠ 6 →
      Gives (.gfIdleEvaluation t) s fun _ s' => s'.gfState = 6 ∧ s'.fld 0x4001 3 15 12 = c) ∧
    (∀ q, mainTickNow b = true → b.gfState = 4 → b.gf.quietSince = some q → q + msFs (b.num 0x4002 2) ≤ b.now → b.gf.trans = none →
      Gives (.rideExit t) s fun b s' =>
        s'.gf.trans = some ⟨if b.gf.rideFromParallel && breakerClosed b then 3 else 2, 0, 4, b.now⟩)

/-- R190, R191, R195, R204: the times of the grid-forming machine: LimitEntryTime, RideMaxTime, BlackStartMaxTime and ResyncMaxTime, each
reported once, the breaker's input and BreakerConfirmTime. -/
def Obligations.GridFormTimesComplete : Prop :=
  ∀ (s : State) (t : Nat), let b := s.arrive t
    let told := fun (s' : State) (e : Nat) => (b.blob 0x1200 1).length = 32 → blobBit (s'.blob 0x1200 1) e = true
    (∀ q, b.gf.limitSince = some q → q + usFs (b.num 0x4002 4) ≤ b.now → Gives (.limitEntry t) s fun _ s' =>
      s'.gf.holds.testBit 3 = true ∧ s'.gf.quietSince = none) ∧
    (b.gfState = 4 → b.gf.enteredAt + msFs (b.num 0x4002 3) ≤ b.now → Gives (.rideTimeout t) s fun b s' =>
      s'.gf.causes.testBit 13 = true ∧ (b.gf.causes.testBit 13 = false → told s' 124)) ∧
    (b.gfState = 1 → b.gf.enteredAt + secFs (b.num 0x4002 5) ≤ b.now → Gives (.blackStartTimeout t) s fun b s' =>
      s'.gf.causes.testBit 13 = true ∧ (b.gf.causes.testBit 13 = false → told s' 125)) ∧
    (b.gfState = 5 → b.gf.enteredAt + secFs (b.num 0x4002 6) ≤ b.now → Gives (.resyncTimeout t) s fun b s' =>
      s'.gf.resyncOut = true ∧ (b.gf.resyncOut = false → told s' 126)) ∧
    (∀ d, d < 2 ^ 16 → Gives (.breakerDinChange t d) s fun b s' =>
      s'.sides = { b.sides with dinLevel := d } ∧ (b.closeActive = true → d.testBit (b.fld 0x4002 1 23 20) ≠ b.bit 0x4002 1 28 →
        s'.closeActive = false)) ∧
    (∀ q, b.gf.closeAt = some q → b.closeActive = true → q + msFs (b.num 0x4002 0xF) ≤ b.now → Gives (.breakerFail t) s fun b s' =>
      s'.closeActive = false ∧ s'.gf.closeAt = none ∧ s'.gf.inhibitUntil = b.now + secFs 1)

/-- R210 to R216, R222 to R224, R228, R504: carriers, edges of gate commands, starts and stops, and writes of shadows. -/
def Obligations.ModulationCompletes : Prop :=
  ∀ (s : State) (t : Nat), let b := s.arrive t
    (∀ x g c, g < 8 → c = (b.sill x).carrier g → b.feeds x = true → b.plate.halted = false → c.running = true → b.follower g = false →
      c.at_ + c.hs * clockFs ≤ b.now → b.sides.takeover = none → (c.up = true ∨ c.stopping = false) → Gives (.carrierVertex t x g) s fun _ s' =>
        ((s'.sill x).carrier g).running = true ∧ ((s'.sill x).carrier g).up = !c.up ∧ ((s'.sill x).carrier g).at_ = c.at_ + c.hs * clockFs) ∧
    (∀ x p v c l, p < 72 → b.feeds x = true → b.plate.halted = false → ((b.sill x).pair p).edges = (v, c) :: l → v ≤ b.now →
      Gives (.gateCommandEdge t x p) s fun b s' =>
        (s'.sill x).pair p = { setC (deadH b p) (deadL b p) v c ((b.sill x).pair p) with edges := l }) ∧
    (∀ x p v, p < 72 → b.feeds x = true → b.plate.halted = false → v ≤ b.now → Gives (.deadTimeExpiry t x p) s fun b s' =>
      (((b.sill x).pair p).dtH = some v → ((s'.sill x).pair p).h = true ∧ ((s'.sill x).pair p).dtH = none) ∧
      (((b.sill x).pair p).dtL = some v → ((s'.sill x).pair p).l = true ∧ ((s'.sill x).pair p).dtL = none)) ∧
    (∀ p n q, p < 72 → b.plate.halted = false → physOf b p = n → n < 72 → b.plateOf n = q → q.pair = p → q.driving = true →
      ((b.sill (if q.sideB then .B else .A)).pair p).h = false → q.riseH + plateMinOn b p ≤ b.now → Gives (.plateMinOnExpiry t p) s fun _ s' =>
        (s'.plateOf n).h = false) ∧
    (∀ a r, a < 2 ^ 96 → hostOk b = true → r = (if a = 0 then b.appTime else ofT96 a) → b.appTime ≤ r → Gives (.carrierStart t a) s fun b s' =>
      ∀ x g, g < 8 → ((s'.sill x).carrier g).starts =
        ((b.sill x).carrier g).starts.filter (fun p => decide (p.1 ≤ r)) ++ [(r, a != 0)]
          ++ ((b.sill x).carrier g).starts.filter (fun p => decide (r < p.1))) ∧
    (∀ a, a < 2 ^ 96 → a ≠ 0 → hostOk b = true → ofT96 a < b.appTime → Gives (.carrierStart t a) s fun b s' =>
      s'.bit 0x5100 4 0 = true ∧ s'.plate.a = b.plate.a ∧ s'.plate.b = b.plate.b) ∧
    (∀ x g r, g < 8 → b.feeds x = true → b.plate.halted = false → ((b.sill x).carrier g).running = false → b.follower g = false →
      runSet b g = true → ((b.sill x).carrier g).startAt = some r → r ≤ b.ridgeFine → b.sides.takeover = none →
      Gives (.carrierGroupStart t x g) s fun b s' =>
        ((s'.sill x).carrier g).running = true ∧ ((s'.sill x).carrier g).up = true ∧ ((s'.sill x).carrier g).at_ = b.now) ∧
    (∀ m, m < 2 ^ 8 → hostOk b = true → b.stopped = true → b.commissioning = false → Gives (.carrierStop t m) s fun b s' =>
      ∀ x g, g < 8 → m.testBit g = true → (b.follower g = false ∨ m.testBit (b.masterOf g) = false) →
        ((b.sill x).carrier g).running = true → ((s'.sill x).carrier g).stopping = true) ∧
    (∀ m, m < 2 ^ 32 → m ≠ 0 → hostOk b = true → Gives (.updateCommit t m) s fun b s' =>
      s'.plate.waiting = b.plate.waiting ++ [⟨1, 0, m, b.appTime⟩]) ∧
    (∀ p j v, p < 72 → 3 ≤ j → j ≤ 5 → v < 2 ^ 32 → (j = 5 → v < 2) → hostOk b = true → drivenWord b p j = false →
      Gives (.shadowWrite t p j v) s fun b s' =>
        s'.plate.waiting = b.plate.waiting ++ [⟨0, p * 256 + j, v % 2 ^ 22, b.appTime⟩]) ∧
    (∀ p v d, p < 72 → d ≤ b.ridgeFine → b.plate.waiting = [⟨0, p * 256 + 3, v, d⟩] → Gives (.shadowApply t) s fun _ s' =>
      s'.plate.waiting = [] ∧ ∀ x, ((s'.sill x).pair p).sh.up = v)

/-- R230 to R236: trips and their release, disable masks, COMMISSIONING, the override map and the debug halt. -/
def Obligations.PlateCompletes : Prop :=
  ∀ (s : State) (t : Nat), let b := s.arrive t
    (∀ n, n < 16 → b.bit 0x5310 1 n = true → b.bit 0x5310 3 n = false → Gives (.faultInTrip t n true) s fun b s' =>
      s'.bit 0x5310 3 n = true ∧ s'.plate.faultLevel = setBit b.plate.faultLevel n true ∧ (b.gfState ≠ 6 → s'.plate.gateHold = true)) ∧
    (∀ n, n < 16 → Gives (.faultInTrip t n false) s fun b s' =>
      s'.plate.faultLevel = setBit b.plate.faultLevel n false ∧ s'.num 0x5310 3 = b.num 0x5310 3) ∧
    (hostOk b = true → b.gfState = 6 → b.plate.faultLevel &&& b.num 0x5310 1 = 0 → Gives (.releaseFaultIn t) s fun _ s' =>
      s'.num 0x5310 3 = 0) ∧
    (hostOk b = true → (b.gfState ≠ 6 ∨ b.plate.faultLevel &&& b.num 0x5310 1 ≠ 0) → Gives (.releaseFaultIn t) s fun b s' =>
      s'.bit 0x5300 4 1 = true ∧ s'.num 0x5310 3 = b.num 0x5310 3) ∧
    (hostOk b = true → b.gfState = 6 → tripBeyond b = false → Gives (.releaseChordTrip t) s fun _ s' => s'.meas.chordTrip = false) ∧
    (hostOk b = true → (b.gfState ≠ 6 ∨ tripBeyond b = true) → Gives (.releaseChordTrip t) s fun b s' =>
      s'.bit 0x5300 4 1 = true ∧ s'.meas.chordTrip = b.meas.chordTrip) ∧
    (∀ i v, i < 3 → v < (if i = 2 then 256 else 2 ^ 32) → hostOk b = true → Gives (.disableMaskWrite t i v) s fun b s' =>
      s'.num 0x5300 (i + 1) = v ∧
      s'.plate.waiting = b.plate.waiting ++ ((List.range (if i = 2 then 8 else 32)).filter
        (fun k => (b.num 0x5300 (i + 1)).testBit k != v.testBit k)).map (fun k => ⟨2, 32 * i + k, (v.testBit k).toNat, b.appTime⟩)) ∧
    (hostOk b = true → b.permission 6 = true → b.gfState = 0 → b.tripped = false → Gives (.commissionEnter t) s fun _ s' =>
      s'.commissioning = true) ∧
    (hostOk b = true → b.commissioning = true → Gives (.commissionLeave t) s fun _ s' =>
      s'.commissioning = false ∧ s'.plate.mapNow = [] ∧ s'.plate.pendingMaps = [] ∧ s'.blob 0x5320 2 = [] ∧
        ∀ n, n < 72 → (s'.plateOf n).driving = false) ∧
    (∀ m, bytesOk m = true → hostOk b = true → b.commissioning = true → mapOk m = true → Gives (.overrideMapWrite t m) s fun b s' =>
      s'.blob 0x5320 2 = m ∧ s'.plate.pendingMaps = b.plate.pendingMaps ++ [(m, b.appTime, 0)]) ∧
    (∀ m, bytesOk m = true → hostOk b = true → (b.commissioning = false ∨ mapOk m = false) → Gives (.overrideMapWrite t m) s fun b s' =>
      s'.bit 0x5300 4 0 = true ∧ s'.blob 0x5320 2 = b.blob 0x5320 2 ∧ s'.plate.pendingMaps = b.plate.pendingMaps) ∧
    (b.plate.halted = false → Gives (.debugHalt t true) s fun b s' => s'.plate.halted = true ∧ s'.plate.haltAt = b.now) ∧
    (b.plate.halted = true → Gives (.debugResume t) s fun b s' =>
      s'.plate.halted = false ∧ s'.plate.resumedAt = b.now ∧ s'.plate.skipSig = 2 ∧
        ∀ x, (s'.sideRt x).p1.missing = 0 ∧ (s'.sideRt x).p2.missing = 0)

/-- R239 to R245, R251 to R253, R330, Table 08.6: transactions and reads of the stack link, and commands that queue them; the transaction
of C5 in progress, if any, is the one that a transaction's end or failure belongs to. -/
def Obligations.StackLinkCompletes : Prop :=
  ∀ (s : State) (t : Nat), let b := s.arrive t
    let c3 := b.sharing.c5Tries = none
    let alone := b.sharing.c5Tries = none ∧ b.sharing.linkC5 = [] ∧ b.sharing.link = []
    (∀ k op, k < 16 → c3 → b.sharing.linkC5 = [] → b.sharing.linkBusy = some (op, k) → (op = 0 ∨ b.permission 7 = true) →
      Gives (.stackTransaction t k true) s fun b s' =>
        (s'.stack k).attempts = 0 ∧ s'.sharing = { b.sharing with linkSince := b.now, linkTx := b.sharing.linkTx + 1 }) ∧
    (∀ k op, k < 16 → c3 → b.sharing.linkBusy = some (op, k) → (b.stack k).attempts < 2 → Gives (.stackTransaction t k false) s fun b s' =>
      (s'.stack k).attempts = (b.stack k).attempts + 1 ∧ s'.sharing = b.sharing) ∧
    (∀ k n, k < 16 → b.sharing.c5Tries = some n → n < 2 → Gives (.stackTransaction t k false) s fun b s' =>
      s'.sharing = { b.sharing with c5Tries := some (n + 1) } ∧ s'.stk = b.stk) ∧
    (∀ k n ok, k < 16 → b.sharing.c5Tries = some n → ok = true ∨ 2 ≤ n → b.sharing.link = [] → b.sharing.linkC5 = [] →
      Gives (.stackTransaction t k ok) s fun b s' => s'.sharing = { b.sharing with c5Tries := none, linkSince := b.now }) ∧
    (∀ k op, k < 16 → alone → b.sharing.linkBusy = some (op, k) → 2 ≤ (b.stack k).attempts →
      Gives (.stackTransaction t k false) s fun _ s' =>
        (s'.stack k).attempts = 0 ∧ s'.bit (0x9010 + k) 3 3 = true ∧ s'.sharing.linkBusy = none) ∧
    (∀ k op, k < 16 → c3 → b.sharing.linkBusy = some (op, k) → (b.stack k).attempts < 2 → Gives (.stretchTimeout t k) s fun b s' =>
      (s'.stack k).attempts = (b.stack k).attempts + 1) ∧
    (∀ k op, k < 16 → c3 → b.sharing.linkBusy = some (op, k) → op ≠ 0 → (b.stack k).attempts < 2 → Gives (.pollTimeout t k) s fun b s' =>
      (s'.stack k).attempts = (b.stack k).attempts + 1) ∧
    (∀ k d x y c z, k < 16 → bytesOk d = true → bytesOk x = true → bytesOk y = true → alone → b.sharing.linkBusy = some (0, k) →
      identValid d = true → adopted d x y = some (c, z) → Gives (.stackReadDone t k d x y) s fun _ s' =>
        s'.bit (0x9010 + k) 3 15 = true ∧ s'.num (0x9010 + k) 5 = field c 4 4 % 2 ^ 32 ∧ s'.blob (0x9010 + k) 2 = d ∧
        (s'.stack k).serial = some (slice d 24 16) ∧ (s'.stack k).copyB = z ∧ s'.sharing.linkBusy = none) ∧
    (∀ k d x y, k < 16 → bytesOk d = true → bytesOk x = true → bytesOk y = true → alone → b.sharing.linkBusy = some (0, k) →
      (identValid d = false ∨ adopted d x y = none) → Gives (.stackReadDone t k d x y) s fun _ s' =>
        s'.bit (0x9010 + k) 3 15 = false ∧ s'.bit (0x9010 + k) 3 0 = true ∧ s'.sharing.linkBusy = none) ∧
    (∀ k, k < 16 → hostOk b = true → b.stopped = true → stackPresent b k = true → stackValid b k = true → b.permission 7 = true →
      alone → b.sharing.linkBusy = none → Gives (.flush t k false) s fun _ s' =>
        s'.sharing.linkBusy = some (2, k) ∧ s'.bit (0x9010 + k) 3 13 = true ∧ s'.num 0x9000 5 = 0x1000) ∧
    (∀ k a, k < 16 → hostOk b = true → Gives (.flush t k a) s fun b s' =>
      s'.num 0x9000 5 = if b.stopped = false then 0x1002 else if a = false ∧ (stackPresent b k = false ∨ stackValid b k = false) then 0x1004
        else 0x1000) ∧
    (∀ k, k < 16 → hostOk b = true → stackPresent b k = true → alone → b.sharing.linkBusy = none →
      Gives (.rescan t k false) s fun _ s' =>
        s'.sharing.linkBusy = some (0, k) ∧ s'.bit (0x9010 + k) 3 14 = true ∧ s'.num 0x9000 5 = 0x2000) ∧
    (∀ k a, k < 16 → hostOk b = true → Gives (.rescan t k a) s fun b s' =>
      s'.num 0x9000 5 = if a = false ∧ stackPresent b k = false then 0x2004 else 0x2000) ∧
    (∀ k, k < 16 → hostOk b = true → b.stopped = true → b.permission 7 = true → stackPresent b k = true →
      identValid (b.blob (0x9010 + k) 2) = true → alone → b.sharing.linkBusy = none → Gives (.initRecord t k) s fun _ s' =>
        s'.sharing.linkBusy = some (3, k) ∧ s'.bit (0x9010 + k) 3 13 = true ∧ s'.num 0x9000 5 = 0x3000)

/-- R249 to R258: life records, postings, hours, wear and the spares of stacks. -/
def Obligations.StackLifeCompletes : Prop :=
  ∀ (s : State) (t : Nat), let b := s.arrive t
    let alone := b.sharing.c5Tries = none ∧ b.sharing.linkC5 = [] ∧ b.sharing.link = []
    (∀ k r, k < 16 → r < 8 → hostOk b = true → stackPresent b k = true → bringRefused b k r = false → Gives (.bringIn t k r) s fun b s' =>
      (s'.stack k).bring = some ⟨r, b.appTime, 0, none, none, false⟩ ∧ s'.bit (0x9010 + k) 3 12 = true ∧ s'.num 0x9000 5 = 0x4000) ∧
    (∀ k r, k < 16 → r < 8 → hostOk b = true → (stackPresent b k = false ∨ bringRefused b k r = true) → Gives (.bringIn t k r) s fun b s' =>
      s'.stk = b.stk ∧ s'.num 0x9000 5 = if stackPresent b k = false ∨ stackValid b k = false then 0x4004 else 0x4005) ∧
    (∀ k br, k < 16 → hostOk b = true → stackPresent b k = true → (b.stack k).bring = some br → Gives (.cancelBringIn t k) s fun _ s' =>
      (s'.stack k).bring = none ∧ s'.bit (0x9010 + k) 3 12 = false ∧ s'.num 0x9000 5 = 0x5000) ∧
    (∀ k, k < 16 → hostOk b = true → (stackPresent b k = false ∨ (b.stack k).bring = none) → Gives (.cancelBringIn t k) s fun b s' =>
      s'.num 0x9000 5 = (if stackPresent b k = false then 0x5004 else 0x5002)) ∧
    (∀ k, k < 16 → stackValid b k = true → (b.stack k).lastTimer + secFs (60 * b.num 0x9000 2) ≤ b.now → b.permission 7 = true →
      alone → b.sharing.linkBusy = none → Gives (.lifeWriteInterval t k) s fun b s' =>
        s'.sharing.linkBusy = some (2, k) ∧ (s'.stack k).lastTimer = b.now) ∧
    (∀ k, k < 16 → stackValid b k = true → (b.stack k).lastTimer + secFs (60 * b.num 0x9000 2) ≤ b.now → b.permission 7 = false →
      Gives (.lifeWriteInterval t k) s fun b s' =>
        s'.bit (0x9010 + k) 3 2 = true ∧ (s'.stack k).lastTimer = b.now ∧ s'.sharing = b.sharing) ∧
    (∀ k op, k < 16 → b.sharing.linkBusy = some (op, k) → op = 1 ∨ op = 2 → b.permission 7 = true → alone →
      Gives (.lifeWritten t k) s fun b s' =>
        s'.num (0x9010 + k) 5 = field (b.stack k).snapshot 4 4 % 2 ^ 32 ∧ s'.num (0x9010 + k) 9 = toT96 b.ridge % 2 ^ 96 ∧
        (s'.stack k).copyB = !(b.stack k).copyB ∧ s'.sharing.linkBusy = none) ∧
    (∀ k, k < 16 → b.sharing.linkBusy = some (3, k) → b.permission 7 = true → alone → Gives (.lifeWritten t k) s fun b s' =>
      s'.bit (0x9010 + k) 3 15 = true ∧ s'.num (0x9010 + k) 5 = field (b.stack k).snapshot 4 4 % 2 ^ 32 ∧
      s'.blob (0x9010 + k) 6 = List.replicate 128 0 ∧ (s'.stack k).copyB = false ∧ s'.sharing.linkBusy = none) ∧
    (∀ q, nextPosting b.graphs.postings = some q → Gives (.rainflowPosting t) s fun b s' =>
      s'.graphs.postings = b.graphs.postings.erase q ∧
        (16 ≤ q.stack → s'.graphs.misMapped.contains q.record = true)) ∧
    (∀ k, k < 16 → rns 3515625000 ≤ (b.stack k).driven →
      Gives (.stackHours t k) s fun b s' =>
        s'.num (0x9010 + k) 4 = satInc 32 (b.num (0x9010 + k) 4) ∧ (s'.stack k).driven = (b.stack k).driven - rns 3515625000) ∧
    (Gives (.wearEvaluation t) s fun b s' =>
      s'.graphs.shares = b.graphs.shares ++ ((List.range 16).filter (wearEnabled b)).map (fun w => (w, b.appTime, wearShares b w))) ∧
    (∀ k br, k < 16 → (b.stack k).bring = some br → br.appTime ≤ b.ridge → br.crossed = false → b.gfState = 2 ∨ b.gfState = 3 →
      Gives (.spareCrossingCheck t k) s fun b s' =>
        let neg := decide (crossingSum b k < 0)
        (s'.stack k).bring = some { br with
          evalFor := br.evaluated b.now, evalAt := some b.now, lastNeg := some neg, crossed := br.lastNeg == some (!neg) }) ∧
    (∀ k br, k < 16 → (b.stack k).bring = some br → br.appTime ≤ b.ridge → 1 ≤ b.gfState → b.gfState ≠ 2 → b.gfState ≠ 3 → b.gfState ≠ 6 →
      Gives (.spareCrossingCheck t k) s fun _ s' => (s'.stack k).bring = some { br with evalAt := none, crossed := false }) ∧
    (∀ k br, k < 16 → (b.stack k).bring = some br → br.appTime ≤ b.ridge → b.stopped = true →
      Gives (.spareCrossingCheck t k) s fun _ s' => (s'.stack k).bring = none ∧ s'.bit (0x9010 + k) 3 12 = false) ∧
    (∀ k br, k < 16 → (b.stack k).bring = some br → br.crossed = false → b.gfState = 2 ∨ b.gfState = 3 → msFs 100 ≤ br.evaluated b.now →
      Gives (.spareSwapTimeout t k) s fun _ s' => (s'.stack k).bring = none ∧ s'.bit (0x9010 + k) 3 12 = false)

/-- R20, R122, R264 to R269, R273, R283: what the ridge monitors of the two sides. -/
def Obligations.SideMonitorsComplete : Prop :=
  ∀ (s : State) (t : Nat), let b := s.arrive t
    let slot := fun (p : Nat) => beatSlot p b.ridgeFine
    let inTime := fun (p : Nat) => beatLate p b.ridgeFine ≤ rns 125
    (∀ x p q, p < 2 → q < 65536 → beatsJudged b x = true → inTime p →
      (beat b x p).last = none ∨ (∃ v, (beat b x p).last = some v ∧ q = (v + 1) % 65536) →
      (beat b x (1 - p)).missing < 4 ∨ sideBad b x = false → Gives (.heartbeat t x p q true) s fun b s' =>
        beat s' x p = ⟨some q, 0, false, slot p⟩ ∧ (s'.sideRt x).lastBad = sideBad b x) ∧
    (∀ x p q, p < 2 → q < 65536 → beatsJudged b x = true → inTime p →
      (beat b x p).last = none ∨ (∃ v, (beat b x p).last = some v ∧ q = (v + 1) % 65536) → 4 ≤ (beat b x (1 - p)).missing →
      sideBad b x = true → b.sideState x = 1 → b.sideState (otherSide x) = 2 →
      Gives (.heartbeat t x p q true) s fun _ s' => s'.sideState (otherSide x) = 1) ∧
    (∀ x p q, p < 2 → q < 65536 → beatsJudged b x = true → ¬ inTime p → (beat b x p).slot < slot p → (beat b x p).missing < 3 →
      (beat b x (1 - p)).missing < 4 → Gives (.heartbeat t x p q true) s fun b s' =>
        beat s' x p = { beat b x p with last := some q, missing := (beat b x p).missing + 1, slot := slot p } ∧
        s'.num (0x6030 + sideIx x) (6 + p) = satInc 32 (b.num (0x6030 + sideIx x) (6 + p))) ∧
    (∀ x p q, p < 2 → q < 65536 → b.ready = true → b.inService x = true → b.plate.halted = true → Gives (.heartbeat t x p q true) s fun b s' =>
      beat s' x p = { beat b x p with last := some q, slot := slot p } ∧ s'.sideState x = b.sideState x) ∧
    (∀ x p q, p < 2 → q < 65536 → beatsJudged b x = true → inTime p → (beat b x p).missing < 3 → (beat b x (1 - p)).missing < 4 →
      Gives (.heartbeat t x p q false) s fun b s' =>
        beat s' x p = { beat b x p with missing := (beat b x p).missing + 1, slot := slot p } ∧
        s'.num (0x6030 + sideIx x) (6 + p) = satInc 32 (b.num (0x6030 + sideIx x) (6 + p))) ∧
    (∀ x p n, p < 2 → n = beatSlot p (b.ridgeFine - rns 125) → (beat b x p).slot < n → beatsJudged b x = true → (beat b x p).missing < 3 →
      (beat b x (1 - p)).missing < 4 → Gives (.heartbeatMissing t x p) s fun b s' =>
        beat s' x p = { beat b x p with missing := (beat b x p).missing + 1, slot := n } ∧
        s'.num (0x6030 + sideIx x) (6 + p) = satInc 32 (b.num (0x6030 + sideIx x) (6 + p))) ∧
    (∀ x p, p < 2 → (beat b x p).slot < beatSlot p (b.ridgeFine - rns 125) → beatsJudged b x = true → 3 ≤ (beat b x p).missing → 4 ≤ (beat b x (1 - p)).missing → b.sideState x = 1 →
      b.sideState (otherSide x) = 2 → Gives (.heartbeatMissing t x p) s fun _ s' => s'.sideState (otherSide x) = 1) ∧
    (∀ k r, b.ready = true → lockstep b = true → b.inService .A = true → b.inService .B = true → b.plate.halted = false →
      b.plate.skipSig = 0 →
      (r = false ∨ (if k then (b.graph .A).stateSig ≠ (b.graph .B).stateSig else (b.graph .A).fastSig ≠ (b.graph .B).fastSig)) →
      Gives (.signatureCompare t k r) s fun _ s' => s'.sides.mismatch = true) ∧
    (∀ x fx fy, lanesOk fx = true → lanesOk fy = true → b.ready = true → b.sides.mismatch = true → b.sideState x = 1 →
      b.sideState (otherSide x) = 2 → fx.any (fun l => laneUsed b (sideIx x) (l / 16) (l % 16)) = true →
      fy.any (fun l => laneUsed b (sideIx (otherSide x)) (l / 16) (l % 16)) = false →
      Gives (.mismatchResolution t (if x = .A then fx else fy) (if x = .A then fy else fx)) s fun _ s' =>
        s'.sideState (otherSide x) = 1 ∧ s'.sides.mismatch = false) ∧
    (b.sides.mismatch = true → Gives (.mismatchResolution t [] []) s fun b s' =>
      s'.num 0x6021 5 = satInc 16 (b.num 0x6021 5) ∧ s'.sides.mismatch = false) ∧
    (∀ x, [Side.A, Side.B].find? (fun y => b.feeds y && (b.graph y).ctl) = some x → b.profile = 2 → b.inService (otherSide x) = true →
      Gives (.mirrorFrame t true) s fun b s' =>
      (s'.sill (otherSide x)).updates = (b.sill x).updates ∧ s'.graphs.mirror = (b.graph x).inst ∧
        s'.graphs.mirrorLinks = (b.graph x).links) ∧
    (∀ x k l, bytesOk l = true → onLink b x = true → onLink b (otherSide x) = true → k ≤ 2 → Gives (.trussLinkFrame t x k l) s fun b s' =>
      (s'.sideRt x).region = Store.put [] k l (b.sideRt x).region) ∧
    (∀ x k l, bytesOk l = true → onLink b x = false ∨ onLink b (otherSide x) = false → Gives (.trussLinkFrame t x k l) s fun b s' =>
      s'.sides = b.sides ∧ s'.num (0x6030 + sideIx x) 8 = b.num (0x6030 + sideIx x) 8) ∧
    (∀ x j l, j < 16 → l < 9 → onLink b x = true → (b.baysOf x).testBit (j / 4) = true → unitFaulty b 1 (sideIx x) j l = false →
      Gives (.laneTest t x j l true) s fun b s' =>
        s'.num (0x6030 + sideIx x) 2 = (b.num (0x6030 + sideIx x) 2 + 1) % 2 ^ 32) ∧
    (∀ x f addr, addr < 2 ^ 32 → b.feeds x = true → Gives (.eccError t x f false addr) s fun b s' =>
      s'.num (0x6030 + sideIx x) (if f then 3 else 5) = satInc 32 (b.num (0x6030 + sideIx x) (if f then 3 else 5))) ∧
    (∀ x f addr, addr < 2 ^ 32 → b.ready = true → b.sideState x = 1 → b.sideState (otherSide x) = 2 →
      Gives (.eccError t x f true addr) s fun _ s' => s'.sideState (otherSide x) = 1) ∧
    (∀ p, 3 ≤ p → p < 5 → b.ready = true → pllLocked b p = true → b.sideState (pllSide p) = 1 → b.sideState (otherSide (pllSide p)) = 2 →
      Gives (.pllFreqCheck t p false) s fun _ s' => s'.sideState (otherSide (pllSide p)) = 1) ∧
    (∀ x d, badCond b x = false → sideBad b x = true → (b.sideRt x).badSince = some d → d + secFs 1 ≤ b.now →
      Gives (.badHoldExpiry t x) s fun _ s' =>
      sideBad s' x = false ∧ (s'.sideRt x).badSince = none)

/-- R276, R277, R279 to R281, R285: re-initialisation, the side commands, the handover and DOUT. -/
def Obligations.SideControlCompletes : Prop :=
  ∀ (s : State) (t : Nat), let b := s.arrive t
    (∀ x, b.sideState x = 5 → joinReady b x = true → joistLacking b x = none → b.sideState (otherSide x) = 1 →
      Gives (.sideJoined t x) s fun b s' =>
      s'.sideState x = 2 ∧ s'.sideState (otherSide x) = 1 ∧ (s'.sideRt x).reserveSince = some b.now ∧ s'.bit 0x6000 2 15 = false) ∧
    (∀ x, b.sideState x = 5 → joinReady b x = true → joistLacking b x = none → b.sideState (otherSide x) ≠ 1 →
      Gives (.sideJoined t x) s fun _ s' => s'.sideState x = 1) ∧
    (∀ x j, b.sideState x = 5 → joinReady b x = true → joistLacking b x = some j → Gives (.sideJoined t x) s fun _ s' =>
      s'.sideState x = 4 ∧ (s'.sideRt x).spent = true) ∧
    (∀ x, b.sideState x = 5 → Gives (.reinitAttemptFailed t x) s fun b s' =>
      s'.sideState x = 4 ∧
      (if (joistLacking b x).isSome = true ∨ b.fld 0x6010 1 1 0 ≤ (b.sideRt x).attempts then (s'.sideRt x).spent = true
       else (s'.sideRt x).retryAt = some (b.now + secFs 1))) ∧
    (∀ x r, b.sideState x = 4 → (b.sideRt x).retryAt = some r → r ≤ b.now → b.sides.doubleFault = false → Gives (.reinitRetry t x) s fun b s' =>
      s'.sideState x = 5 ∧ (s'.sideRt x).attempts = (b.sideRt x).attempts + 1) ∧
    (∀ c, hostOk b = true → b.ready = true → b.profile ≠ 3 → b.control = some c → b.sideState (otherSide c) = 2 →
      Gives (.handover t) s fun _ s' => s'.sides.handover = 1 ∧ s'.num 0x6020 2 = 0x1000) ∧
    (hostOk b = true → b.profile = 3 → Gives (.handover t) s fun b s' => s'.sides = b.sides ∧ s'.num 0x6020 2 = 0x1003) ∧
    (∀ x, b.control = some x → b.sideState (otherSide x) = 2 → handoverBlocked b = false → mainTickNow b = true →
      b.sides.handover = 1 →
      Gives (.handoverExecute t) s fun _ s' => s'.sideState (otherSide x) = 1 ∧ s'.sideState x = 2) ∧
    (∀ x, hostOk b = true → b.ready = true → b.sideState x = 4 → (b.sideRt x).spent = true → b.sides.doubleFault = false →
      Gives (.restore t x) s fun _ s' => s'.sideState x = 5 ∧ (s'.sideRt x).attempts = 1 ∧ s'.num 0x6020 2 = 0x2000) ∧
    (∀ x, hostOk b = true → b.ready = true → b.profile ≠ 3 → (b.sideState x = 2 ∧ groupsOn b x = 0) ∨ b.sideState x = 4 →
      b.sides.takeover = none → Gives (.powerDown t x) s fun _ s' =>
        s'.sideState x = 0 ∧ s'.bit 0x6000 2 15 = true ∧ s'.num 0x6020 2 = 0x3000) ∧
    (∀ x, hostOk b = true → b.ready = true → b.profile ≠ 3 → b.sideState x = 2 → groupsOn b x ≠ 0 →
      Gives (.powerDown t x) s fun _ s' => s'.sideState x = 2 ∧ s'.num 0x6020 2 = 0x3002) ∧
    (∀ x, hostOk b = true → b.ready = true → b.profile ≠ 3 → b.sideState x = 0 → b.sides.doubleFault = false →
      Gives (.powerUp t x) s fun _ s' => s'.sideState x = 5 ∧ (s'.sideRt x).attempts = 1 ∧ s'.num 0x6020 2 = 0x4000) ∧
    (∀ x, b.feeds x = true → Gives (.doutRequest t x) s fun b s' =>
      (s'.sideRt x).dout = (b.graph x).doutReq ∧
      (∀ t0 h, b.sides.kerf = some (t0, h) →
        s'.sides.kerf = if b.sideState x = 1 ∧ t0 + usFs 1 ≤ b.now then none else some (t0, h))) ∧
    (∀ t0 h, b.sides.kerf = some (t0, h) → t0 + usFs 3 ≤ b.now → Gives (.kerfWindowClose t) s fun _ s' => s'.sides.kerf = none)

/-- R288 to R306: the seal switches, the safety inputs and outputs and the safety reset. -/
def Obligations.SafetyCompletes : Prop :=
  ∀ (s : State) (t : Nat), let b := s.arrive t
    let noEnable := fun (s' : State) => s'.safety.a.enable = false ∧ s'.safety.b.enable = false
    let filter := sinFilterNs (pstClass b)
    let takes := fun (heard : Bool) (n : Nat) (old new : Channel) =>
      if heard then new.sin = setBit old.sin n true ∧ new.permit = false ∧ new.enable = false
      else new.sin = old.sin ∧ (old.sin % 256 = 0 → new.permit = old.permit ∧ new.enable = old.enable)
    (b.ready = true → b.gfState ≠ 6 → Gives (.safetyChannelFault t) s fun b s' =>
      RidgeStop b s' ∧ s'.bit 0x6800 2 2 = true ∧ noEnable s') ∧
    (∀ n hT hC h, n < 8 → Gives (.sealReadingAccepted t n hT hC h) s fun _ s' => s'.bit 0x6800 1 (8 + n) = (hT == hC)) ∧
    (∀ n hT hC h, n < 8 → h < 10000000 → Gives (.sealReadingAccepted t n hT hC h) s fun b s' =>
      s'.safety.accepted = b.safety.accepted ∧ s'.permit = b.permit ∧ s'.demandLatched = b.demandLatched ∧ s'.gf.causes = b.gf.causes) ∧
    (∀ n hT hC h, n < 5 → 10000000 ≤ h → b.ready = true → hT = hC ∨ b.safety.held.testBit n ≠ (sealReading hT hC == 1) →
      Gives (.sealReadingAccepted t n hT hC h) s fun b s' => s'.permit = false ∧ s'.bit 0x6800 2 28 = true ∧ noEnable s' ∧
        (b.gfState ≠ 6 → s'.gf.causes = setBit b.gf.causes 8 true)) ∧
    (∀ n hT hC h, n < 5 → 10000000 ≤ h → hT ≠ hC → b.ready = false → Gives (.sealReadingAccepted t n hT hC h) s fun b s' =>
      s'.safety.accepted = setBit b.safety.accepted n (sealReading hT hC == 1) ∧ s'.bit 0x6800 1 n = (sealReading hT hC == 1)) ∧
    (∀ hT hC h, 10000000 ≤ h → sealReading hT hC = 1 → b.ready = false → sinEnabled b = false → demandMask b ≠ 0 →
      Gives (.sealReadingAccepted t 0 hT hC h) s fun b s' => s'.demandLatched = true ∧ s'.permit = false ∧
        (b.safety.a.sin % 256 ≠ 0 → s'.safety.a.enable = false) ∧ (b.safety.b.sin % 256 ≠ 0 → s'.safety.b.enable = false)) ∧
    (∀ n hT hC h, 5 ≤ n → n < 8 → 10000000 ≤ h → Gives (.sealReadingAccepted t n hT hC h) s fun _ s' =>
      s'.permission n = if hT = hC then n == 5 else sealReading hT hC == 1) ∧
    (∀ n h c, n < 8 → 1 ≤ c → c < 4 → filter ≤ h → sinEnabled b = true → pairDemands b (n % 4) = false →
      Gives (.sinFilterExpiry t n false h c) s fun b s' =>
      takes (c.testBit 0) n b.safety.a s'.safety.a ∧ takes (c.testBit 1) n b.safety.b s'.safety.b ∧ s'.demandLatched = true ∧
      s'.permit = false ∧ s'.bit 0x6800 2 30 = true ∧
      s'.num 0x6800 7 = satInc 16 (b.num 0x6800 7) ∧ (b.gfState ≠ 6 → s'.gf.causes = setBit b.gf.causes 8 true)) ∧
    (∀ n h c, n < 8 → 1 ≤ c → c < 4 → filter ≤ h → sinEnabled b = true → Gives (.sinFilterExpiry t n true h c) s fun b s' =>
      s'.safety.a.sin = (if c.testBit 0 then setBit b.safety.a.sin n false else b.safety.a.sin) ∧
      s'.safety.b.sin = (if c.testBit 1 then setBit b.safety.b.sin n false else b.safety.b.sin) ∧ s'.demandLatched = b.demandLatched ∧
      (s'.safety.a.permit = true → b.safety.a.permit = true) ∧ (s'.safety.b.permit = true → b.safety.b.permit = true) ∧
      (s'.safety.a.enable = true → b.safety.a.enable = true) ∧ (s'.safety.b.enable = true → b.safety.b.enable = true)) ∧
    (∀ n l h c, n < 8 → 1 ≤ c → c < 4 → h < filter → Gives (.sinFilterExpiry t n l h c) s fun b s' =>
      s'.safety = b.safety ∧ s'.permit = b.permit) ∧
    (∀ n d, n < 4 → sinEnabled b = true → Store.get 0 n b.safety.discSince = d + 1 → d + msFs (sinDiscrepancyMs (pstClass b)) ≤ b.now →
      b.bit 0x6800 2 (12 + n) = false → Gives (.sinDiscrepancy t n) s fun _ s' =>
        s'.bit 0x6800 2 (12 + n) = true ∧ s'.bit 0x6800 2 6 = true) ∧
    (∀ v, v < 256 → hostOk b = true → Gives (.soutRequestWrite t v) s fun _ s' => s'.num 0x6800 4 = v % 16) ∧
    (∀ n, n < 8 → soutHigh b n = true → b.safety.testing.testBit n = false → pulseDue b n = true → Gives (.soutTestPulse t n) s fun b s' =>
      s'.safety.testing = setBit b.safety.testing n true ∧ soutHigh s' n = false ∧ s'.out = b.out ++ [⟨16, n, []⟩]) ∧
    (∀ n, n < 8 → testOver b n = true → b.safety.discarded.testBit n = false → Gives (.soutTestEnd t n true true) s fun b s' =>
      s'.safety.testing = setBit b.safety.testing n false ∧ s'.num 0x6800 8 = (b.num 0x6800 8 + 1) % 2 ^ 32) ∧
    (∀ n lo hi, n < 8 → testOver b n = true → b.safety.discarded.testBit n = true → Gives (.soutTestEnd t n lo hi) s fun b s' =>
      s'.safety.testing = setBit b.safety.testing n false ∧ s'.num 0x6800 9 = satInc 16 (b.num 0x6800 9) ∧ s'.permit = b.permit ∧
        soutHigh s' n = false) ∧
    (∀ n lo hi, n < 8 → testOver b n = true → b.safety.discarded.testBit n = false → lo = false ∨ hi = false →
      Gives (.soutTestEnd t n lo hi) s fun b s' =>
        s'.bit 0x6800 2 27 = true ∧ s'.permit = false ∧ noEnable s' ∧ (b.gfState ≠ 6 → s'.gf.causes = setBit b.gf.causes 8 true)) ∧
    (∀ n v h, n < 8 → Gives (.soutStuckOn t n v h) s fun _ s' => (soutLevel s').testBit n = v) ∧
    (∀ n h, n < 8 → 100000 ≤ h → lowLong b n = true → Gives (.soutStuckOn t n true h) s fun b s' =>
      s'.bit 0x6800 2 27 = true ∧ s'.permit = false ∧ noEnable s' ∧ (b.gfState ≠ 6 → s'.gf.causes = setBit b.gf.causes 8 true)) ∧
    (∀ d, 100000 ≤ d → d ≤ 2000000 → b.safety.freshFrom + usFs d ≤ b.now → resetActs b = true → Gives (.safetyReset t d) s fun _ s' =>
      s'.permit = true ∧ s'.demandLatched = false) ∧
    (∀ d, d < 100000 → Gives (.safetyReset t d) s fun b s' => s'.permit = b.permit ∧ s'.num 0x6800 0xA = satInc 16 (b.num 0x6800 0xA)) ∧
    (∀ d, 2000000 < d ∨ (100000 ≤ d ∧ (resetActs b = false ∨ b.now < b.safety.freshFrom + usFs d)) →
      Gives (.safetyReset t d) s fun b s' => s'.permit = b.permit ∧ s'.demandLatched = b.demandLatched) ∧
    (Gives (.resetStuck t) s fun b s' =>
      resetActs s' = false ∧ s'.bit 0x6800 2 26 = true ∧ s'.bit 0x6800 2 5 = true ∧ s'.safety.lineAt = b.now) ∧
    (Gives (.resetDiscrepancy t) s fun b s' =>
      resetActs s' = false ∧ s'.bit 0x6800 2 26 = true ∧ s'.bit 0x6800 2 4 = true ∧ s'.safety.lineAt = b.now) ∧
    (b.safety.blocks ≠ 0 → b.safety.lineAt + secFs 1 ≤ b.now → Gives (.resetBlockEnd t) s fun b s' =>
      s'.safety.blocks = 0 ∧ s'.bit 0x6800 2 26 = false ∧ s'.safety.freshFrom = b.now) ∧
    (b.now < b.safety.lineAt + secFs 1 → Gives (.resetBlockEnd t) s fun b s' => s'.safety = b.safety)

/-- R312 to R323, R330 to R334: the arbiters, the order of resources, the C5 transactions of the stack link and the semaphores. A request is
presented by its command; what slots then decide, and the grants of semaphores at the end of a ridge clock, come with time (log entry 29): the
last two clauses say how. -/
def Obligations.SharingCompletes : Prop :=
  ∀ (s : State) (t : Nat), let b := s.arrive t
    let passes := fun (n : Nat) (b s' : State) => match (b.sem n).queue with
      | [] => (s'.sem n).holder = none ∧ (s'.sem n).queue = []
      | q :: rest =>
        if q.2.2 < b.ticks then s'.sem n = ⟨some (q.1, q.2.1), b.now + leaseFs, rest⟩ ∧ s'.out = b.out ++ [⟨19, n, [q.1, q.2.1, 0]⟩]
        else (s'.sem n).holder = none ∧ (s'.sem n).queue = q :: rest
    (∀ r inst unit num x held addr w, r < 8 → inst < resInstances r → unit < 6 → addr < 2 ^ 32 → (unit < 2 → held = 0) →
      let who := 2 * num + sideIx x
      let heard := b.heard unit who
      let broken := orderBroken (holds b unit who held) (resPosition r inst)
      (heard = false → Gives (.arbiterRequest t r inst unit num x held addr w) s fun b s' => s'.sharing = b.sharing ∧ s'.out = b.out) ∧
      (heard = true → broken = true → Gives (.arbiterRequest t r inst unit num x held addr w) s fun b s' =>
        s'.sharing.arbs = b.sharing.arbs ∧ s'.num 0xA000 2 = satInc 32 (b.num 0xA000 2) ∧ s'.bit 0xA000 1 1 = true ∧
          (holdsLink b unit who = false → s'.sharing.linkC5 = b.sharing.linkC5) ∧
          (holdsLink b unit who = true → unit = 5 → b.sharing.linkC5 = [] → b.sharing.link = [] → s'.sharing.c5Tries = none) ∧
          ∀ n, n < 32 → (b.sem n).holder = some (unit, who) → (b.sem n).queue = [] → (s'.sem n).holder = none) ∧
      (heard = true → broken = false → r < 7 → classPresent r unit = true → Gives (.arbiterRequest t r inst unit num x held addr w) s fun b s' =>
        (s'.arbiter r inst).reqs = (b.arbiter r inst).reqs ++ [⟨unit, who, addr, w, 0⟩] ∧ s'.out = b.out) ∧
      (heard = true → broken = false → r < 7 → classPresent r unit = false → Gives (.arbiterRequest t r inst unit num x held addr w) s fun b s' =>
        s'.sharing = b.sharing) ∧
      (broken = false → r = 7 → unit = 5 → b.sharing.linkBusy.isSome = true →
        Gives (.arbiterRequest t r inst unit num x held addr w) s fun b s' =>
          s'.sharing = { b.sharing with linkC5 := b.sharing.linkC5 ++ [(b.now, who)] }) ∧
      (broken = false → r = 7 → unit = 5 → b.sharing.linkBusy = none → b.sharing.link = [] → b.sharing.linkC5 = [] →
        b.sharing.c5Tries = none → b.sharing.c5Last = 0 ∨ b.sharing.c5Last + secFs 1 ≤ b.now →
        Gives (.arbiterRequest t r inst unit num x held addr w) s fun b s' =>
          s'.sharing = { b.sharing with c5Tries := some 0, c5Who := who, c5Last := b.now + 1 })) ∧
    (∀ n cls who held, n < 32 → cls < 6 → b.heard cls who = false → Gives (.semaphoreRequest t n cls who held) s fun b s' =>
      s'.sharing = b.sharing ∧ s'.out = b.out) ∧
    (∀ n cls who held, n < 32 → cls < 6 → b.heard cls who = true → orderBroken (holds b cls who held) (semPosition n) = true →
      Gives (.semaphoreRequest t n cls who held) s fun b s' =>
        s'.sharing.arbs = b.sharing.arbs ∧ s'.num 0xA000 2 = satInc 32 (b.num 0xA000 2) ∧ s'.bit 0xA000 1 1 = true ∧
          ∀ m, m < 32 → (b.sem m).holder = some (cls, who) → (b.sem m).queue = [] → (s'.sem m).holder = none) ∧
    (∀ n cls who held, n < 32 → 2 ≤ cls → cls ≤ 4 → b.heard cls who = true → orderBroken (holds b cls who held) (semPosition n) = false →
      Gives (.semaphoreRequest t n cls who held) s fun b s' =>
        if (b.sem n).queue.length < (if (b.sem n).holder = none then 9 else 8) then
          s'.sem n = { b.sem n with queue := semInsert (cls, who, b.ticks) (b.sem n).queue } ∧ s'.out = b.out ++ [⟨19, n, [cls, who, 1]⟩]
        else s'.sharing = b.sharing ∧ s'.out = b.out ++ [⟨19, n, [cls, who, 2]⟩]) ∧
    (∀ n cls who, n < 32 → cls < 6 → (b.sem n).holder = some (cls, who) → b.now ≤ (b.sem n).lease →
      Gives (.semaphoreRelease t n cls who) s fun b s' => passes n b s') ∧
    (∀ n cls who, n < 32 → cls < 6 → (b.sem n).holder ≠ some (cls, who) ∨ (b.sem n).lease < b.now →
      Gives (.semaphoreRelease t n cls who) s fun b s' => s'.sharing = b.sharing) ∧
    (∀ n p, n < 32 → (b.sem n).holder = some p → (b.sem n).lease ≤ b.now → Gives (.semaphoreLeaseExpired t n) s fun b s' =>
      s'.num 0xA000 3 = satInc 32 (b.num 0xA000 3) ∧ s'.bit 0xA000 1 0 = true ∧ passes n b s') ∧
    (∀ n q rest, s.boot.restartAt = none → (s.sem n).holder = none → (s.sem n).queue = q :: rest → q.2.2 < b.ticks →
      (∀ p ∈ q :: rest, b.heard p.1 p.2.1 = true) → b.sem n = ⟨some (q.1, q.2.1), (q.2.2 + 1) * tickFs + leaseFs, rest⟩) ∧
    (∀ r inst k pos start c q, r < 7 → pos < wheelSlots r →
      (decideSlot r k pos (tablesIn s r start) (s.arbiter r inst)).1 = some c → headOf (s.arbiter r inst) (s.arbiter r inst).reqs c = some q →
      (runSlot r inst k (pos, start) s).out = s.out ++ [⟨18, r, [c, q.who] ++ (if r = 4 then beBytes 12 (toT96 s.ridge) else [])⟩])

/-- R339 to R347, R354, R355: Increment, steps, pulses, leap seconds and holdover. -/
def Obligations.RidgeTimeCompletes : Prop :=
  ∀ (s : State) (t : Nat), let b := s.arrive t
    (∀ v, v < 2 ^ 64 → hostOk b = true → incRefused b (v % 2 ^ 40) = false →
      Gives (.incrementWrite t v) s fun _ s' => s'.num 0x7000 2 = v % 2 ^ 40) ∧
    (∀ v, v < 2 ^ 64 → hostOk b = true → incRefused b (v % 2 ^ 40) = true → Gives (.incrementWrite t v) s fun b s' =>
      s'.num 0x7000 2 = b.num 0x7000 2 ∧ s'.bit 0x7000 5 2 = true) ∧
    (∀ v, v < 2 ^ 96 → hostOk b = true → stepAllowed b = true → Gives (.timeSet t v) s fun b s' =>
      s'.clock = { b.clock with steps := b.clock.steps ++ [(true, (ofT96 v : Int), b.ridge)] } ∧ s'.ridge = b.ridge) ∧
    (∀ v, v < 2 ^ 64 → hostOk b = true → stepAllowed b = true → Gives (.timeAdjust t v) s fun b s' =>
      s'.clock = { b.clock with steps := b.clock.steps ++ [(false, sx 64 v * 65536, b.ridge)] } ∧ s'.ridge = b.ridge) ∧
    (∀ v, v < 2 ^ 96 → hostOk b = true → stepAllowed b = false → Gives (.timeSet t v) s fun b s' =>
      s'.clock = b.clock ∧ s'.ridge = b.ridge ∧ s'.bit 0x7000 5 1 = true ∧ s'.bit 0x7000 5 2 = true) ∧
    (∀ v, v < 2 ^ 64 → hostOk b = true → stepAllowed b = false → Gives (.timeAdjust t v) s fun b s' =>
      s'.clock = b.clock ∧ s'.ridge = b.ridge ∧ s'.bit 0x7000 5 1 = true ∧ s'.bit 0x7000 5 2 = true) ∧
    (∀ set v r cs, b.clock.steps = (set, v, r) :: cs → r + rns 2000 ≤ b.ridge → Gives (.timeStep t) s fun b s' =>
      let new := ((if set then v + ((b.ridge : Int) - r) else (b.ridge : Int) + v) % (ridgeMod : Int)).toNat
      s'.ridge = new ∧ s'.clock.steps = cs.map (fun c => (c.1, c.2.1, mv ((new : Int) - b.ridge) c.2.2)) ∧
      s'.num 0x7000 6 = satInc 16 (b.num 0x7000 6) ∧ s'.num 0x7000 7 = toT96 new % 2 ^ 96 ∧
      s'.graphs.a = mvGraph ((new : Int) - b.ridge) b.graphs.a) ∧
    (b.num 0x7030 6 ≠ 0 → ofT96 (b.num 0x7030 7) ≤ b.ridge → Gives (.leapSecond t) s fun b s' =>
      s'.num 0x7030 6 = 0 ∧ s'.num 0x7030 5 = ofInt 16 (sx 16 (b.num 0x7030 5) + if b.num 0x7030 6 = 1 then 1 else -1) % 2 ^ 16) ∧
    (b.clock.lastWhole < rSecs b.ridge → Gives (.ppsOutPulse t) s fun b s' =>
      s'.clock.lastWhole = rSecs b.ridge ∧
      s'.out = if b.ready && b.bit 0x7030 1 15 && (b.timeSource != 1 || b.synced || b.bit 0x7030 1 14)
        then b.out ++ [⟨1, 0, beBytes 2 (b.fld 0x7030 1 9 0) ++ beBytes 4 (b.num 0x7030 2)⟩] else b.out) ∧
    (∀ v, v < 2 ^ 96 → b.timeSource ≠ 2 → Gives (.ppsInEdge t v) s fun b s' => s'.num 0x7030 4 = v ∧
      s'.clock = { b.clock with ppsLast := some b.now }) ∧
    (∀ v, v < 2 ^ 96 → b.timeSource = 2 → Gives (.ppsInEdge t v) s fun b s' =>
      let r : Int := ((ofT96 v / 65536 : Nat) : Int) - sx 32 (b.num 0x7030 3)
      s'.num 0x7030 4 = v ∧ s'.num 0x7010 7 = ofInt 64 (r - nearestSec r) % 2 ^ 64 ∧ s'.num 0x7010 8 = (b.num 0x7010 8 + 1) % 2 ^ 32 ∧
        s'.holdover = false) ∧
    (b.timeSource = 2 → b.clock.ppsLast.getD 0 + msFs 1100 ≤ b.now → b.holdover = false → Gives (.ppsInTimeout t) s fun b s' =>
      s'.holdover = true ∧ s'.clock.holdAt = b.now ∧ s'.num 0x7000 8 = toT96 b.ridge % 2 ^ 96) ∧
    (b.timeSource ≠ 0 → b.holdover = true → b.clock.holdAt + secFs (b.num 0x7010 6) ≤ b.now → Gives (.holdoverValidExpiry t) s fun _ s' =>
      s'.synced = false ∧ s'.holdover = true)

/-- R344, R346, R348 to R353, R278: the PTP ports. A GRANDMASTER sends on every served port under one sequence number; in the other roles a
message leaves on its own port (log entry 8); each carries its transport, its port's own time of leaving and the frame's trailer number. -/
def Obligations.PtpCompletes : Prop :=
  ∀ (s : State) (t : Nat), let b := s.arrive t
    let tagged := { b with net := { b.net with redSeq := (b.net.redSeq + 1) % 65536 } }
    let frame := fun (kind : Nat) (body : List Nat) (seq p : Nat) => ptpTransport b (kind != 4 && kind != 22) ++ [0] ++
      beBytes 1 (b.fld 0x7010 1 23 16) ++ beBytes 2 seq ++ beBytes 8 (b.num 0x7020 1) ++
      beBytes 12 (toT96 (portStamp b (b.num (0x7028 + p) 6))) ++ frameTag tagged (b.fld 0x1010 5 6 4) p ++ body
    let shortEnough := fun (f : Frame) => f.len ≤ if f.vlan = 0 then 1518 else 1522
    let sends := fun (kind x : Nat) (body : List Nat) (s' : State) =>
      let seq := (b.ptpPort x).seqId
      let ports := if b.timeRole = 1 then (List.range 2).filter (portUp b) else [x]
      s'.out = b.out ++ ports.map (fun p => ⟨kind, p, frame kind body seq p⟩) ∧ ∀ p ∈ ports, (s'.ptpPort p).seqId = (seq + 1) % 65536
    (∀ x ether dom t1 t2 corr gm, x < 2 → dom < 256 → t1 < 2 ^ 96 → t2 < 2 ^ 96 → corr < 2 ^ 64 → gm < 2 ^ 64 → ptpOurs b ether dom = true →
      portUp b x = true → portState b x = 9 → portGm b x = some gm → Gives (.ptpSyncReceived t x ether dom t1 t2 corr gm) s fun b s' =>
        (s'.ptpPort x).lastOff = some (syncOffset b x t1 t2 corr) ∧ (s'.ptpPort x).missed = 0 ∧
        (x = servoPort b → b.timeSource = 1 →
          s'.num 0x7010 7 = ofInt 64 (syncOffset b x t1 t2 corr) % 2 ^ 64 ∧ s'.num 0x7010 8 = (b.num 0x7010 8 + 1) % 2 ^ 32)) ∧
    (∀ x ether dom t1 t2 corr gm, x < 2 → dom < 256 → t1 < 2 ^ 96 → t2 < 2 ^ 96 → corr < 2 ^ 64 → gm < 2 ^ 64 → ptpOurs b ether dom = false →
      Gives (.ptpSyncReceived t x ether dom t1 t2 corr gm) s fun b s' => s'.ptp = b.ptp ∧ s'.clock = b.clock) ∧
    (∀ x d, x < 2 → d < 2 ^ 64 → portUp b x = true → portState b x ≠ 9 → b.bit 0x7010 1 28 = true → b.timeRole ≠ 0 →
      Gives (.pathDelayMeasurement t x d) s fun b s' =>
        let ms := lastN 16 ((b.ptpPort x).meas ++ [sx 64 d])
        (s'.ptpPort x).meas = ms ∧ s'.num (0x7028 + x) 3 = ofInt 64 (meanOf ms) % 2 ^ 64) ∧
    (∀ x d, x < 2 → d < 2 ^ 64 → portUp b x = true → portState b x = 9 → portHold b x = false → portSuspect b x = false →
      (b.ptpPort x).meas = [] ∨ (sx 64 d - sx 64 (b.num (0x7028 + x) 3)).natAbs ≤ stepThreshold b x →
      Gives (.pathDelayMeasurement t x d) s fun b s' =>
        let ms := lastN 16 ((b.ptpPort x).meas ++ [sx 64 d])
        (s'.ptpPort x).meas = ms ∧ (s'.ptpPort x).beyond = 0 ∧ s'.num (0x7028 + x) 3 = ofInt 64 (meanOf ms) % 2 ^ 64) ∧
    (∀ x d, x < 2 → d < 2 ^ 64 → portUp b x = true → portState b x = 9 → portHold b x = false →
      (b.ptpPort x).meas ≠ [] → stepThreshold b x < (sx 64 d - sx 64 (b.num (0x7028 + x) 3)).natAbs →
      Gives (.pathDelayMeasurement t x d) s fun b s' =>
        portSuspect s' x = true ∧ (s'.ptpPort x).beyond = (b.ptpPort x).beyond + 1 ∧ ((b.ptpPort x).beyond = 2 → portHold s' x = true)) ∧
    (∀ x v, x < 2 → v < 2 ^ 32 → hostOk b = true → portHold b x = true → (b.ptpPort x).sinceSuspect ≠ [] → Gives (.pathConfirm t x v) s fun b s' =>
      portHold s' x = false ∧ portSuspect s' x = false ∧ (s'.ptpPort x).lastOff = none ∧ s'.num (0x7028 + x) 4 = v ∧
      s'.num (0x7028 + x) 3 = ofInt 64 (meanOf (b.ptpPort x).sinceSuspect) % 2 ^ 64) ∧
    (∀ x v, x < 2 → v < 2 ^ 32 → hostOk b = true → portHold b x = false ∨ (b.ptpPort x).sinceSuspect = [] →
      Gives (.pathConfirm t x v) s fun b s' => s'.ptp = b.ptp ∧ s'.bit (0x7028 + x) 2 2 = true ∧ s'.num (0x7028 + x) 4 = b.num (0x7028 + x) 4) ∧
    (∀ x ether dom gm p1 cls acc var p2 steps sender, x < 2 → dom < 256 → gm < 2 ^ 64 → p1 < 256 → cls < 256 → acc < 256 → var < 65536 → p2 < 256 → steps < 65536 →
      sender < 2 ^ 64 →
      ptpOurs b ether dom = true → portUp b x = true → b.timeRole = 2 ∨ b.timeRole = 3 →
      Gives (.ptpAnnounceReceived t x ether dom gm p1 cls acc var p2 steps sender) s fun b s' =>
        let ds := [gm, p1, cls, acc, var, p2, steps, sender]
        (s'.ptpPort x).master = some (match (b.ptpPort x).master with
          | none => ds
          | some old => if nth 0 old 7 = sender ∨ dsBetter ds old = true then ds else old) ∧
        (s'.ptpPort x).lastAnnounce = b.now ∧ s'.bit (0x7028 + x) 2 13 = true ∧ (b.timeRole = 2 → portState s' x = 9)) ∧
    (∀ x, x < 2 → b.bit (0x7028 + x) 2 13 = true → Gives (.announceTimeout t x) s fun b s' =>
      (s'.ptpPort x).master = none ∧ s'.bit (0x7028 + x) 2 13 = false ∧ (b.timeRole = 2 → portState s' x = 4)) ∧
    (∀ x, x < 2 → b.bit (0x7028 + x) 2 13 = false → b.timeSource = 1 → portUsable b (servoPort b) = false → otherCanServe b = false →
      Gives (.announceTimeout t x) s fun _ s' => s'.holdover = true) ∧
    (∀ x, x < 2 → portUp b x = true → portState b x = 6 → Gives (.ptpSyncSend t x) s fun _ s' => sends 2 x [] s') ∧
    (∀ x, x < 2 → portUp b x = true → portState b x = 9 ∨ (b.bit 0x7010 1 28 = true ∧ b.timeRole ≠ 0) →
      Gives (.ptpDelayRequestSend t x) s fun _ s' => sends 3 x [] s') ∧
    (∀ x, x < 2 → portUp b x = true → portState b x = 6 → Gives (.ptpAnnounceSend t x) s fun b s' =>
      let d := announceDs b
      sends 4 x (beBytes 8 (nth 0 d 0) ++ [nth 0 d 1, nth 0 d 2, nth 0 d 3] ++ beBytes 2 (nth 0 d 4) ++ [nth 0 d 5] ++
        beBytes 2 (nth 0 d 6)) s') ∧
    (∀ x f, x < 2 → f.wf = true → shortEnough f → f.isPtp = true → f.fcsOk = true → f.src ≠ ownMac b → portServed b x = true → portUp b x = true →
      etherOk f.etherType = true → vlanOk b f.vlan = true → ptpOurs b (f.etherType == 0x88F7) f.domain = true →
      let answer := fun (kind : Nat) (corr : Int) => Gives (.frameReceived t x f) s fun b s' =>
        ∃ l, s'.out = b.out ++ ⟨kind, x, frame kind (beBytes 6 f.src ++ beBytes 12 (toT96 (portStamp b (b.num (0x7028 + x) 5))) ++
          beBytes 8 (ofInt 64 (sx 64 f.correction + corr))) f.ptpSeq x⟩ :: l
      (f.ptpType = 1 → b.bit 0x7010 1 28 = false → portState b x = 6 → answer 22 0) ∧
      (f.ptpType = 2 → b.bit 0x7010 1 28 = true → b.timeRole ≠ 0 →
        answer 23 (sx 32 (b.num (0x7028 + x) 6) - sx 32 (b.num (0x7028 + x) 5))))

/-- R358 to R367: the references and the PLLs. -/
def Obligations.ReferencesComplete : Prop :=
  ∀ (s : State) (t : Nat), let b := s.arrive t
    (∀ alt e, refFaulty b alt = false → altInUse b ≠ alt → Gives (.refFault t alt true e) s fun b s' =>
      refFaulty s' alt = true ∧ altInUse s' = altInUse b ∧ s'.num 0x7040 3 = 0) ∧
    (∀ alt e, refFaulty b alt = false → altInUse b = alt → b.bit 0x7040 1 15 = true → refFaulty b (!alt) = false →
      Gives (.refFault t alt true e) s fun _ s' => refFaulty s' alt = true ∧ altInUse s' = !alt) ∧
    (∀ alt e, refFaulty b alt = false → altInUse b = alt → b.bit 0x7040 1 15 = false ∨ refFaulty b (!alt) = true → b.ready = true → b.gfState ≠ 6 →
      Gives (.refFault t alt true e) s fun b s' => refFaulty s' alt = true ∧ RidgeStop b s') ∧
    (∀ alt e, Gives (.refFault t alt false e) s fun _ s' => refFaulty s' alt = false ∧ s'.clock.refDead.testBit alt.toNat = false) ∧
    (∀ v, v = 1 ∨ v = 2 → hostOk b = true → refFaulty b (v == 2) = false → Gives (.refSwitchCommand t v) s fun b s' =>
      s'.clock = { b.clock with refCmds := b.clock.refCmds ++ [(v == 2, b.appTime)] } ∧ altInUse s' = altInUse b) ∧
    (∀ v, v = 1 ∨ v = 2 → hostOk b = true → refFaulty b (v == 2) = true → Gives (.refSwitchCommand t v) s fun b s' =>
      s'.clock = b.clock ∧ altInUse s' = altInUse b ∧ s'.bit 0x7040 2 3 = true) ∧
    (∀ alt app, s.boot.restartAt = none → s.clock.refCmds = [(alt, app)] → app ≤ b.ridge → s.clock.refDead.testBit alt.toNat = false →
      b.clock.refCmds = [] ∧ altInUse b = alt ∧ (altInUse s ≠ alt → b.bit 0x7040 2 2 = true)) ∧
    (∀ d, d < 2 ^ 32 → refFaulty b false = false → refFaulty b true = false → Gives (.refDisagree t d) s fun _ s' =>
      s'.num 0x7040 3 = d ∧ s'.bit 0x7040 2 12 = decide (1000000 < (sx 32 d).natAbs)) ∧
    (∀ p, p < 5 → b.bit (0x7100 + p) 3 14 = false → startAsked b p = true → Gives (.pllStart t p) s fun b s' =>
      s'.bit (0x7100 + p) 3 14 = true ∧ (s'.pll p).phase = 1 ∧ (s'.pll p).startedAt = b.now ∧
        s'.num (0x7100 + p) 6 = satInc 16 (b.num (0x7100 + p) 6)) ∧
    (∀ p x l, p < 5 → b.bit (0x7100 + p) 3 14 = true → pllLocked b p = false → (b.pll p).phase = 1 → (b.pll p).bands = x :: l →
      lockTime b p = true → withinStart b p 20 = true → Gives (.pllLock t p) s fun b s' =>
        pllLocked s' p = true ∧ s'.num (0x7100 + p) 4 = x % 256 ∧ (s'.pll p).phase = 0 ∧
        s'.num (0x7100 + p) 5 = (b.now - (b.pll p).startedAt) / nsFs 1 % 2 ^ 32) ∧
    (∀ p w x l, p < 5 → b.bit (0x7100 + p) 3 14 = true → pllLocked b p = false → (b.pll p).phase = 2 → (b.pll p).bands = w :: x :: l →
      lockTime b p = true → withinStart b p 40 = true → Gives (.pllLock t p) s fun _ s' =>
        pllLocked s' p = true ∧ s'.num (0x7100 + p) 4 = x % 256 ∧ (s'.pll p).phase = 0 ∧ s'.bit (0x7100 + p) 3 2 = true) ∧
    (∀ p w x l, p < 5 → pllLocked b p = false → (b.pll p).phase = 1 → (b.pll p).bands = w :: x :: l →
      (b.pll p).startedAt + usFs 20 ≤ b.now → Gives (.pllRetryBand t p) s fun _ s' => (s'.pll p).phase = 2 ∧
        (s'.pll p).bands = (b.pll p).bands ∧ s'.num (0x7100 + p) 3 = b.num (0x7100 + p) 3) ∧
    (∀ p, p < 5 → sweepAsked b p = true → p = 0 ∨ b.sideState (pllSide p) ≠ 5 → Gives (.pllSweep t p) s fun _ s' =>
      (s'.pll p).phase = 3 ∧ s'.bit (0x7100 + p) 3 14 = true ∧ s'.bit (0x7100 + p) 3 3 = true) ∧
    (∀ p, 1 ≤ p → p < 5 → sweepAsked b p = true → b.sideState (pllSide p) = 5 → Gives (.pllSweep t p) s fun _ s' => s'.sideState (pllSide p) = 4) ∧
    (∀ p l x, p < 5 → bytesOk l = true → (b.pll p).phase = 3 → (b.pll p).stepAt + usFs 1600 ≤ b.now →
      bandChoice l (b.num (0x7100 + p) 2) = some x →
      Gives (.pllSweepDone t p l) s fun _ s' =>
      pllLocked s' p = true ∧ s'.num (0x7100 + p) 4 = x % 256 ∧ s'.blob (0x7100 + p) 7 = l) ∧
    (∀ l, bytesOk l = true → (b.pll 0).phase = 3 → (b.pll 0).stepAt + usFs 1600 ≤ b.now → bandChoice l (b.num 0x7100 2) = none →
      b.ready = true → b.gfState ≠ 6 → Gives (.pllSweepDone t 0 l) s fun b s' => RidgeStop b s' ∧ s'.blob 0x7100 7 = l) ∧
    (∀ x, pllLocked b 0 = true → Gives (.pllLockLost t 0 x) s fun _ s' => pllLocked s' 0 = false ∧ (s'.pll 0).phase = 1 ∧
      s'.bit 0x7100 3 1 = true) ∧
    (∀ p x, 1 ≤ p → p < 5 → pllLocked b p = true → b.ready = true → b.sideState (pllSide p) = 1 → b.sideState (otherSide (pllSide p)) = 2 →
      Gives (.pllLockLost t p x) s fun _ s' => s'.sideState (otherSide (pllSide p)) = 1)

/-- R368 to R373: the clock outputs and the clock source of the trusses. -/
def Obligations.ClocksComplete : Prop :=
  ∀ (s : State) (t : Nat), let b := s.arrive t
    (∀ w, w < 65536 → hostOk b = true → bits w 15 8 &&& bits w 7 0 = 0 → clkStopRefused b (bits w 7 0) = false →
      Gives (.clkoutStart t w) s fun b s' => s'.clock = { b.clock with clkCmds := b.clock.clkCmds ++
        ((maskList 8 (bits w 15 8)).map (fun k => (k, true, b.appTime)) ++ (maskList 8 (bits w 7 0)).map (fun k => (k, false, b.appTime))) }) ∧
    (∀ w, w < 65536 → hostOk b = true → bits w 15 8 &&& bits w 7 0 = 0 → clkStopRefused b (bits w 7 0) = false →
      Gives (.clkoutStop t w) s fun b s' => s'.clock = { b.clock with clkCmds := b.clock.clkCmds ++
        ((maskList 8 (bits w 15 8)).map (fun k => (k, true, b.appTime)) ++ (maskList 8 (bits w 7 0)).map (fun k => (k, false, b.appTime))) }) ∧
    (∀ w, w < 65536 → hostOk b = true → bits w 15 8 &&& bits w 7 0 ≠ 0 ∨ clkStopRefused b (bits w 7 0) = true →
      Gives (.clkoutStart t w) s (fun b s' => s'.clock = b.clock ∧ s'.bit 0x7060 2 0 = true) ∧
      Gives (.clkoutStop t w) s (fun b s' => s'.clock = b.clock ∧ s'.bit 0x7060 2 0 = true)) ∧
    (∀ k, k < 8 → b.clock.clkArmed.testBit k = true → pllLocked b 0 = true → b.ready = true → divFalls b k = true →
      Gives (.clkoutGateOpen t k) s fun _ s' =>
      clkRunning s' k = true ∧ s'.clock.clkArmed.testBit k = false) ∧
    (∀ k, k < 8 → b.clock.clkStopping.testBit k = true → divLow b k = true → Gives (.clkoutGateClose t k) s fun _ s' =>
      clkRunning s' k = false ∧ s'.clock.clkStopping.testBit k = false) ∧
    (∀ k, k < 8 → divFalls b k = false → Gives (.clkoutGateOpen t k) s fun b s' => clkRunning s' k = clkRunning b k) ∧
    (∀ k, k < 8 → divLow b k = false → Gives (.clkoutGateClose t k) s fun b s' => clkRunning s' k = clkRunning b k) ∧
    (∀ x, changeWanted b x = true → wantBridge b = true → inGap b x = true → Gives (.trussClockSwitch t x) s fun _ s' =>
      bridged s' x = true ∧ s'.bit (0x7101 + sideIx x) 3 14 = false ∧ s'.clock.deferred.testBit (sideIx x) = false) ∧
    (∀ x, changeWanted b x = true → wantBridge b = false → inGap b x = true →
      Gives (.trussClockSwitch t x) s fun _ s' => bridged s' x = false ∧ s'.clock.deferred.testBit (sideIx x) = false) ∧
    (∀ x l, changeWanted b x = true → l ∈ (b.graph x).awake → Gives (.trussClockSwitch t x) s fun b s' =>
      bridged s' x = bridged b x) ∧
    (∀ x, inGap b x = false → Gives (.trussClockSwitch t x) s fun b s' => bridged s' x = bridged b x) ∧
    (∀ x, s.boot.restartAt = none → (∀ c, c < 64 → (s.feedback c).waits = false) → changeWanted s x = true → s.waitsSince x = none → b.waitsSince x = some s.now) ∧
    (∀ x a, changeWanted b x = true → b.waitsSince x = some a → a + msFs 10 ≤ b.now → Gives (.switchDeferred t x) s fun _ s' =>
      s'.clock.deferred.testBit (sideIx x) = true ∧ s'.bit 0x7050 1 13 = true)

/-- R382, R383, R386, R389: the capture commands and the reading of segments. -/
def Obligations.CaptureCommandsComplete : Prop :=
  ∀ (s : State) (t : Nat), let b := s.arrive t
    (∀ m r k, m < 256 → r < 18 → hostOk b = true → k < 8 → m.testBit k = true → planOn b k = true → Gives (.arm t m r) s fun b s' =>
      let v := b.engine b.reporter k
      (∀ x, (s'.engine x k).armAt = some ((b.engine x k).armAt.getD b.appTime)) ∧
        (s'.stream k).owner = if v.armAt = none ∧ (v.seg = none ∨ v.stopping = true) then (b.sessionOf r).getD 0 else (b.stream k).owner) ∧
    (∀ m k, m < 256 → hostOk b = true → k < 8 → m.testBit k = true → Gives (.disarm t m) s fun b s' =>
      ∀ x, (s'.engine x k).armAt = none ∧ (s'.engine x k).full = false ∧ (s'.engine x k).stopping = (b.engine x k).seg.isSome) ∧
    (∀ m k x, m < 256 → hostOk b = true → k < 8 → m.testBit k = true → planOn b k = true → (b.engine x k).seg.isSome = true →
      (b.engine x k).past = false →
      Gives (.trigger t m) s fun b s' => b.appTime ∈ (s'.engine x k).trigs) ∧
    (∀ i k x v, i < 4096 → hostOk b = true → planOfSegment b i = some k → b.segment x i = some v → v.complete = true →
      Gives (.release t i) s fun b s' =>
      s'.segment x i = none ∧ ((b.engine x k).full = true → (s'.engine x k).full = false ∧ (s'.engine x k).armAt = some b.appTime)) ∧
    (∀ i x v, i < 4096 → hostOk b = true → b.segment x i = some v → v.complete = false →
      Gives (.release t i) s fun b s' =>
      (s'.segment x i).getD Segment.init = if (planOfSegment b i).isSome then { v with heldUntil := 0 } else v) ∧
    (∀ x i v, i < 4096 → b.segment x i = some v → v.heldUntil ≤ b.now → Gives (.segmentHoldExpiry t x i) s fun _ s' =>
      (s'.segment x i).getD Segment.init = { v with heldUntil := 0 }) ∧
    (∀ r v, r < 18 → v < 65536 → hostOk b = true → Gives (.segmentSelect t r v) s fun _ s' =>
      (s'.reader r).val 0x8020 1 = v % 4096 ∧ (s'.reader r).val 0x8020 3 = 0) ∧
    (∀ r i v, r < 18 → i < 4096 → hostOk b = true → selected b r = some (i, v) → Gives (.segmentRowsRead t r) s fun b s' =>
      let off := (b.reader r).val 0x8020 3
      let n := min (1024 / segRowBytes v) (v.rows.length - off)
      s'.out = b.out ++ [⟨17, r, rowsData v off n⟩] ∧ (s'.reader r).val 0x8020 3 = off + n ∧
      (∀ x w, b.segment x i = some w → (s'.segment x i).getD Segment.init = { w with heldUntil := b.now + secFs 10 })) ∧
    (∀ r, r < 18 → hostOk b = true → selected b r = none → Gives (.segmentRowsRead t r) s fun b s' => s'.out = b.out ++ [⟨17, r, []⟩])

/-- R379 to R390: rows of capture plans, the overrun of streams and the sending of streams. -/
def Obligations.CaptureRowsComplete : Prop :=
  ∀ (s : State) (t : Nat), let b := s.arrive t
    (∀ x k st fill e, k < 8 → st < 2 ^ 96 → fill < 2 ^ 17 → timebaseEvent b x k st = some e → b.feeds x = true → planOn b k = true →
      Gives (.captureRow t x k st fill) s fun _ s' => (s'.engine x k).lastEv = some e) ∧
    (∀ x k st fill e i, k < 8 → st < 2 ^ 96 → fill < 2 ^ 17 → timebaseEvent b x k st = some e → b.feeds x = true → planOn b k = true →
      (b.engine x k).seg = some i → (b.engine x k).stopping = false → (b.engine x k).armAt = none → (b.engine x k).halveAt = none →
      (b.engine x k).since + 1 < 2 ^ (b.engine x k).factor →
      Gives (.captureRow t x k st fill) s fun b s' =>
        (s'.engine x k).since = (b.engine x k).since + 1 ∧ (s'.engine x k).rows = (b.engine x k).rows ∧ s'.capture.segs = b.capture.segs) ∧
    (∀ x k st fill e i, k < 8 → st < 2 ^ 96 → fill ≤ 49152 → timebaseEvent b x k st = some e → b.feeds x = true → planOn b k = true →
      (b.engine x k).seg = some i → b.segment x i = none → (b.engine x k).past = false → (b.engine x k).stopping = false →
      (b.engine x k).armAt = none → (b.engine x k).halveAt = none → 2 ^ (b.engine x k).factor ≤ (b.engine x k).since + 1 →
      planKind b k ≠ 1 → planKind b k ≠ 3 →
      let sig := (planSignals b k).map (signalAt b x e.1)
      let r : Row := ⟨e.1, sig.map (fun p => p.1), sig.map (fun p => p.2)⟩
      ((b.engine x k).trigs = [] → Gives (.captureRow t x k st fill) s fun b s' =>
        (s'.engine x k).rows = (r :: (b.engine x k).rows).take (planPre b k) ∧ (s'.engine x k).total = (b.engine x k).total + 1 ∧
        (s'.engine x k).since = 0 ∧ (s'.engine x k).past = false ∧ s'.capture.segs = b.capture.segs) ∧
      (∀ d, d ∈ (b.engine x k).trigs → d ≤ e.1 → 1 < planLength b k - planPre b k → Gives (.captureRow t x k st fill) s fun b s' =>
        (s'.engine x k).past = true ∧ (s'.engine x k).total = (b.engine x k).total + 1 ∧
        ((s'.segment x i).getD Segment.init).rows = ((b.engine x k).rows.take (planPre b k)).reverse ++ [r])) ∧
    (∀ k, k < 8 → Gives (.streamBacklogHalving t k) s fun b s' =>
      (s'.stream k).above = decide (b.num (planIx k) 0xA * 1024 < streamBacklog b k)) ∧
    (∀ k x, k < 8 → b.num (planIx k) 0xA * 1024 < streamBacklog b k → streamsTo b k = true → (b.engine (readSide b) k).seg.isSome = true →
      (b.engine (readSide b) k).factor < 6 → (b.engine (readSide b) k).halveAt = none → (b.stream k).above = false → b.feeds x = true →
      Gives (.streamBacklogHalving t k) s fun b s' => (s'.engine x k).halveAt = some b.appTime) ∧
    (∀ k, k < 8 → hostOk b = true → streamsTo b k = true → (b.stream k).nextAt ≤ b.now → triggeredFrom b (readSide b) k (b.stream k).seq = [] →
      Gives (.captureStreamSend t k) s fun b s' =>
        if (b.stream k).off = 0 then s'.stream k = b.stream k else s'.stream k = { b.stream k with seq := (b.stream k).seq + 1, off := 0 }) ∧
    (∀ k i v, k < 8 → hostOk b = true → streamsTo b k = true → (b.stream k).nextAt ≤ b.now →
      triggeredFrom b (readSide b) k (b.stream k).seq = [(i, v)] → (b.stream k).off = 0 → streamData b (readSide b) i 0 1352 v ≠ [] →
      Gives (.captureStreamSend t k) s fun b s' =>
        let n := (streamData b (readSide b) i 0 1352 v).length
        let done := v.complete && n == 128 + 16 * (planSignals b k).length + v.rows.length * segRowBytes v
        (s'.stream k).seq = (if done then v.seq + 1 else v.seq) ∧ (s'.stream k).off = (if done then 0 else n) ∧
        (s'.stream k).side = sideIx (readSide b) ∧ (s'.stream k).nextAt = b.now + n * 10 ^ 12 / max 1 (b.num (planIx k) 9))

/-- R395 to R409: the scribe's seeds, hours, histograms, notes, tokens and reads. -/
def Obligations.ScribeCompletes : Prop :=
  ∀ (s : State) (t : Nat), let b := s.arrive t
    (∀ v, v < 2 ^ 32 → hostOk b = true → Gives (.hoursSeed t v) s fun b s' =>
      if b.bit 0x8100 3 15 then s'.num 0x8100 9 = b.num 0x8100 9 ∧ s'.bit 0x8100 3 2 = true
      else s'.num 0x8100 9 = v ∧ s'.bit 0x8100 3 15 = true) ∧
    (∀ v, v < 2 ^ 32 → hostOk b = true → Gives (.powerCycleSeed t v) s fun b s' =>
      if b.bit 0x8100 3 14 then s'.num 0x8100 0xA = b.num 0x8100 0xA ∧ s'.bit 0x8100 3 2 = true
      else s'.num 0x8100 0xA = v ∧ s'.bit 0x8100 3 14 = true) ∧
    (b.boot.powerAt / tickFs + (b.scribe.hourTicks + hourTicks) ≤ b.ticks → Gives (.operatingHoursTick t) s fun b s' =>
      s'.num 0x8100 9 = (b.num 0x8100 9 + 1) % 2 ^ 32 ∧ s'.scribe.hourTicks = b.scribe.hourTicks + hourTicks) ∧
    (∀ q, q < 64 → quantKind b q = 1 ∨ quantKind b q = 2 → Store.get 0 q b.scribe.histAt ≤ b.now → Gives (.histogramSample t q) s fun b s' =>
      let u := dueClears b.ridge b
      Store.get 0 q s'.scribe.histAt = Store.get 0 q b.scribe.histAt + msFs (b.fld (quantIx q) 1 15 0) ∧
      if b.boot.islandDown = true ∨ quantSample b q = none then s'.num (quantIx q) 7 = satInc 32 (u.num (quantIx q) 7)
      else s'.num (quantIx q) 6 = satInc 32 (u.num (quantIx q) 6)) ∧
    (∀ q x, q < 64 → quantKind b q = 1 ∨ quantKind b q = 2 → Store.get 0 q b.scribe.histAt ≤ b.now → b.boot.islandDown = false →
      quantSample b q = some x → Gives (.histogramSample t q) s fun b s' =>
        let i := binOf (b.num (quantIx q) 2) (b.num (quantIx q) 3) x
        let u := dueClears b.ridge b
        s'.blob (quantIx q) 4 = patch (u.blob (quantIx q) 4) (4 * i) (beBytes 4 (satInc 32 (word32 (u.blob (quantIx q) 4) i)))) ∧
    (∀ m, m < 2 ^ 64 → hostOk b = true → Gives (.histogramClear t m) s fun b s' => s'.scribe.clears = b.scribe.clears ++ [(m, b.appTime)]) ∧
    (∀ l, bytesOk l = true → l.length = 14 → hostOk b = true → field l 0 2 < 0x8000 ∨ field l 0 2 = 0xFFFF → Gives (.scribeNote t l) s fun _ s' =>
      s'.bit 0x8100 3 1 = true) ∧
    (∀ l, bytesOk l = true → l.length = 14 → hostOk b = true → 0x8000 ≤ field l 0 2 → field l 0 2 ≤ 0xFFFE →
      b.scribe.running = [] → b.scribe.ovf = [] → b.capture.missed = [] → b.num 0x8100 4 % 16384 ≠ 0 →
      (Store.get Bucket.init 256 b.scribe.buckets).used < b.fld 0x8100 0xC 31 24 → b.fld 0x8100 0xC 15 0 ≠ 0 →
      (let q := Store.get [] ((b.num 0x8100 4 - 1) % 16384) b.scribe.ring
       slice q 12 8 ≠ beBytes 4 (rSecs b.ridge % 2 ^ 32) ++ beBytes 4 (rNs b.ridge) ∨ field q 0 2 ≤ field l 0 2) →
      Gives (.scribeNote t l) s fun b s' =>
        s'.num 0x8100 4 = (b.num 0x8100 4 + 1) % 2 ^ 32 ∧
        Store.get [] (b.num 0x8100 4 % 16384) s'.scribe.ring = beBytes 2 (field l 0 2) ++
          [recFlags b 2 (Store.get Bucket.init (0x10000 + field l 0 2) b.scribe.buckets).drops, recMark (b.num 0x8100 4)] ++
          beBytes 4 (b.num 0x8100 9) ++ beBytes 4 (b.num 0x8100 0xA) ++ beBytes 4 (rSecs b.ridge % 2 ^ 32) ++ beBytes 4 (rNs b.ridge) ++
          beBytes 4 (field l 2 4) ++ beBytes 4 (field l 6 4) ++ beBytes 4 (field l 10 4) ∧
        (Store.get Bucket.init 256 s'.scribe.buckets).used = (Store.get Bucket.init 256 b.scribe.buckets).used + 1) ∧
    (∀ k, k < 257 → b.scribe.ovf = [] → b.capture.missed = [] → (Store.get Bucket.init k b.scribe.buckets).used ≠ 0 → refillOf b k ≠ 0 →
      (Store.get Bucket.init k b.scribe.buckets).since + msFs (refillOf b k) ≤ b.now → Gives (.scribeTokenRefill t k) s fun b s' =>
        (Store.get Bucket.init k s'.scribe.buckets).used = (Store.get Bucket.init k b.scribe.buckets).used - 1) ∧
    (∀ r, r < 18 → hostOk b = true → Gives (.scribeRecordsRead t r) s fun b s' =>
      let w := readWindow 16384 ((b.reader r).val 0x8100 5) (b.num 0x8100 4)
      s'.out = b.out ++ [⟨17, r, beBytes 4 w.1 ++ (List.range w.2).flatMap (fun i => ringRecord b (w.1 + i))⟩] ∧
      (s'.reader r).val 0x8100 5 = w.1 + w.2) ∧
    (∀ r, r < 18 → hostOk b = true → Gives (.compatRecordsRead t r) s fun b s' =>
      let w := readWindow 16384 ((b.reader r).val 0xF000 2) (b.num 0xF000 1)
      s'.out = b.out ++ [⟨17, r, beBytes 4 w.1 ++ (List.range w.2).flatMap (fun i => compatRecord b (ringRecord b (w.1 + i)))⟩] ∧
      (s'.reader r).val 0xF000 2 = w.1 + w.2)

/-- R410 to R418: the counter commands, counter reads and carries, and the tag rings. -/
def Obligations.CountersComplete : Prop :=
  ∀ (s : State) (t : Nat), let b := s.arrive t
    (∀ n, n < 8 → hostOk b = true → Gives (.startCounters t n) s fun b s' => s'.scribe.ctrCmds = b.scribe.ctrCmds ++ [(b.appTime, 1, n)]) ∧
    (∀ n, n < 8 → hostOk b = true → Gives (.stopCounters t n) s fun b s' => s'.scribe.ctrCmds = b.scribe.ctrCmds ++ [(b.appTime, 2, n)]) ∧
    (∀ n, n < 8 → hostOk b = true → Gives (.clearCounters t n) s fun b s' => s'.scribe.ctrCmds = b.scribe.ctrCmds ++ [(b.appTime, 3, n)]) ∧
    (∀ c v, c < 112 → v < 2 ^ 32 → hostOk b = true → Gives (.counterWrite t c v) s fun b s' =>
      s'.scribe.ctrCmds = b.scribe.ctrCmds ++ [(b.appTime, 4 + c, v)]) ∧
    (∀ r c, r < 18 → c < 112 → hostOk b = true → Gives (.counterReadLatch t r c) s fun b s' =>
      s'.out = b.out ++ [⟨17, r, beBytes 4 (counterNow b c)⟩] ∧
      (c % 2 = 0 → ctrChained b (c + 1) = true → Store.get 0 (c + 1) (s'.reader r).latched = counterNow b (c + 1))) ∧
    (∀ c n, c < 112 → b.scribe.ovf = [] → b.capture.missed = [] → b.bit (ctrIx c) 1 31 = true → b.bit (ctrIx c) 1 29 = false →
      b.scribe.running.contains c = true → ctrChained b c = false → 2 ^ 32 ≤ b.num (ctrIx c) 5 + n →
      (c % 2 = 0 → ctrChained b (c + 1) = false) → Gives (.counterOverflow t c n) s fun b s' =>
        s'.num (ctrIx c) 5 = (b.num (ctrIx c) 5 + n) % 2 ^ 32 ∧ s'.bit (ctrIx c) 8 0 = true) ∧
    (∀ c n, c < 112 → c % 2 = 0 → b.scribe.ovf = [] → b.capture.missed = [] → b.bit (ctrIx c) 1 31 = true → b.bit (ctrIx c) 1 29 = false →
      b.scribe.running.contains c = true → ctrChained b (c + 1) = true → b.scribe.running.contains (c + 1) = true →
      2 ^ 32 ≤ b.num (ctrIx c) 5 + n → b.num (ctrIx (c + 1)) 5 + (b.num (ctrIx c) 5 + n) / 2 ^ 32 < 2 ^ 32 →
      Gives (.counterOverflow t c n) s fun b s' =>
        s'.num (ctrIx c) 5 = (b.num (ctrIx c) 5 + n) % 2 ^ 32 ∧
        s'.num (ctrIx (c + 1)) 5 = b.num (ctrIx (c + 1)) 5 + (b.num (ctrIx c) 5 + n) / 2 ^ 32) ∧
    (∀ x j l m e ns i, j < 16 → nextTag b x j = some (m, e, ns, i) → b.now < i + nth 0 l 3 * clockFs → Gives (.tagRecord t x j l) s
      fun b s' => s'.scribe.tagPend = b.scribe.tagPend ∧ s'.scribe.tagRing = b.scribe.tagRing ∧ s'.num (0x8210 + sideIx x) 3 = b.num (0x8210 + sideIx x) 3) ∧
    (∀ x j l m e ns i, j < 16 → nextTag b x j = some (m, e, ns, i) → i + nth 0 l 3 * clockFs ≤ b.now →
      Gives (.tagRecord t x j l) s fun b s' =>
        let o := 0x8210 + sideIx x
        s'.scribe.tagPend = dropTag x j b.scribe.tagPend ∧
        if b.bit o 1 30 = true ∧ 256 ≤ b.num o 3 - (b.reader 17).val o 4 then
          s'.num o 3 = b.num o 3 ∧ s'.scribe.tagStopped = setBit b.scribe.tagStopped (sideIx x) true ∧ s'.scribe.tagRing = b.scribe.tagRing
        else s'.num o 3 = (b.num o 3 + 1) % 2 ^ 32 ∧ s'.scribe.tagStopped = setBit b.scribe.tagStopped (sideIx x) false ∧
          Store.get [] (256 * sideIx x + b.num o 3 % 256) s'.scribe.tagRing = tagBytes (b.num o 3) e l ns) ∧
    (∀ r x, r < 18 → hostOk b = true → Gives (.tagRecordsRead t r x) s fun b s' =>
      let o := 0x8210 + sideIx x
      let w := readWindow 256 ((b.reader r).val o 4) (b.num o 3)
      s'.out = b.out ++ [⟨17, r, beBytes 4 w.1 ++
        (List.range w.2).flatMap (fun i => Store.get [] (256 * sideIx x + (w.1 + i) % 256) b.scribe.tagRing)⟩] ∧
      (s'.reader r).val o 4 = w.1 + w.2)

/-- R433 to R440, R450: frames on ports X and Y, the address services, supervision frames and the faults of the network. -/
def Obligations.NetworkCompletes : Prop :=
  ∀ (s : State) (t : Nat), let b := s.arrive t
    let limit := fun (f : Frame) => if f.vlan = 0 then 1518 else 1522
    let taken := fun (n : Nat) (f : Frame) =>
      n < 2 ∧ f.wf = true ∧ portServed b n = true ∧ f.len ≤ limit f ∧ etherOk f.etherType = true ∧ vlanOk b f.vlan = true
    let mayReply := (b.net.icmp.filter (fun x => decide (b.now < x + secFs 1))).length < 100
    (∀ n f, n < 2 → f.wf = true → portServed b n = false ∨ limit f < f.len ∨ etherOk f.etherType = false ∨ vlanOk b f.vlan = false →
      Gives (.frameReceived t n f) s fun b s' =>
      s'.out = b.out ∧ s'.net.dups = b.net.dups ∧ s'.net.sessions = b.net.sessions) ∧
    (∀ n f, taken n f → redHsr b = true → f.src ≠ ownMac b → f.dst ≠ ownMac b → isMulticast f.dst = false →
      (f.tagged && seenBefore b f) = false → portServed b (1 - n) = true → f.isPtp = false ∨ b.timeRole ≠ 3 → (lineOf b (1 - n)).length ≤ 64 →
      Gives (.frameReceived t n f) s fun b s' => ∃ l, (f.isPtp = false → l = []) ∧ (∀ o ∈ l, o.kind = 22 ∨ o.kind = 23) ∧
        s'.out = b.out ++ l ++ [⟨10, 1 - n, beBytes 6 f.dst ++ beBytes 6 f.src ++ beBytes 2 f.etherType ++ beBytes 2 f.vlan ++ beBytes 2 f.rseq
          ++ [f.fcsOk.toNat] ++ beBytes 8 (forwardCorrection b n f)
          ++ beBytes 4 (((lineOf b (1 - n)).foldl max b.now - b.now) / 1000000)⟩] ∧
        lineOf s' (1 - n) = lineOf b (1 - n) ++ [(lineOf b (1 - n)).foldl max b.now + nsFs (8 * (f.len + 20))]) ∧
    (∀ n f, taken n f → redHsr b = true → f.src ≠ ownMac b → f.dst ≠ ownMac b → isMulticast f.dst = false →
      (f.isPtp = true ∧ b.timeRole = 3) ∨ 64 < (lineOf b (1 - n)).length → Gives (.frameReceived t n f) s fun b s' =>
        ∃ l, s'.out = b.out ++ l ∧ ∀ o ∈ l, o.kind = 22 ∨ o.kind = 23) ∧
    (∀ n f, taken n f → redHsr b = true → f.src = ownMac b → f.fcsOk = true → f.etherType = 0x88FB → Gives (.frameReceived t n f) s fun b s' =>
        s'.net.lifeBack = setNth b.net.lifeBack n b.now ∧ s'.net.ringPorts = setBit b.net.ringPorts n false ∧
        s'.bit 0x1020 5 11 = (setBit b.net.ringPorts n false != 0) ∧ s'.out = b.out) ∧
    (∀ n f, taken n f → redHsr b = false → f.fcsOk = true → f.tagged = true → seenBefore b f = true → Gives (.frameReceived t n f) s fun b s' =>
        s'.blob 0x1030 7 = patch (b.blob 0x1030 7) 16 (beBytes 4 (satInc 32 (field (b.blob 0x1030 7) 16 4))) ∧
        s'.bit 0x1020 5 (lanBit n) = false ∧ (f.isPtp = false → s'.out = b.out)) ∧
    (∀ n f, taken n f → redHsr b = false → f.fcsOk = true → f.tagged = true → seenBefore b f = false → f.dst ≠ ownMac b →
      isMulticast f.dst = false → Gives (.frameReceived t n f) s fun b s' =>
        (f.src, f.rseq, b.now) ∈ s'.net.dups ∧ s'.bit 0x1020 5 (lanBit n) = false ∧ (f.isPtp = false → s'.out = b.out)) ∧
    (∀ n f m, taken n f → redHsr b = false → f.fcsOk = true → f.tagged = false → f.isPtp = false → forUs b f = true → f.fragment = false →
      f.sot = some m → Gives (.frameReceived t n f) s fun b s' =>
        s' = { (messageIn { m with path := 2 + n } none (countEvent n 0x14 1 0 b)).2.reportLate.settle with pending := s.pending }) ∧
    (∀ n f, taken n f → redHsr b = false → f.tagged = false → f.isPtp = false → forUs b f = false → Gives (.frameReceived t n f) s fun b s' =>
      s'.out = b.out ∧ s'.net.dups = b.net.dups ∧ s'.net.sessions = b.net.sessions ∧ s'.net.queue = b.net.queue) ∧
    (∀ n a, n < 2 → a < 2 ^ 32 → Gives (.arpRequest t n a) s fun b s' =>
      if answersArp b n a = true ∧ mayReply then
        s'.out = b.out ++ ⟨12, n, beBytes 6 (ownMac b) ++ beBytes 4 (ownIp b)⟩ :: Framed b ∧ b.now ∈ s'.net.icmp
      else s'.out = b.out ∧ s'.net.icmp = b.net.icmp) ∧
    (∀ n a, n < 2 → a < 2 ^ 32 → Gives (.icmpEcho t n a) s fun b s' =>
      if portServed b n = true ∧ b.boot.serving = true ∧ a = ownIp b ∧ mayReply then
        s'.out = b.out ++ ⟨13, n, beBytes 4 (ownIp b)⟩ :: Framed b ∧
          s'.net.icmp = b.net.icmp.filter (fun x => decide (b.now < x + secFs 1)) ++ [b.now]
      else s'.out = b.out ∧ s'.net.icmp = b.net.icmp) ∧
    (b.boot.serving = true → anyPort b = true → b.net.lifeAt + msFs (b.num 0x1020 2) ≤ b.now → Gives (.supervisionFrameSend t) s fun b s' =>
      s'.out = b.out ++ ⟨11, 2, beBytes 6 (ownMac b) ++ [b.num 0x1020 1]⟩ :: Framed b ∧ s'.net.lifeAt = b.now ∧
      s'.net.redSeq = (b.net.redSeq + 1) % 65536) ∧
    (anyPort b = false → Gives (.supervisionFrameSend t) s fun b s' => s'.out = b.out ∧ s'.net.redSeq = b.net.redSeq) ∧
    (∀ n, n < 2 → redHsr b = false → lanSilent b n = true → Gives (.lanFault t n) s fun b s' =>
      s'.bit 0x1020 5 (lanBit n) = true ∧ (b.bit 0x1020 5 (lanBit n) = false → s'.bit 0x1020 5 2 = true)) ∧
    (∀ n, n < 2 → redHsr b = true → b.boot.serving = true → b.net.ringPorts.testBit n = false →
      nth 0 b.net.lifeBack n + 3 * msFs (b.num 0x1020 2) ≤ b.now → Gives (.ringFault t n) s fun b s' =>
      s'.net.ringPorts = setBit b.net.ringPorts n true ∧ s'.bit 0x1020 5 11 = true ∧ s'.bit 0x1020 5 1 = true) ∧
    (∀ n v, n < 2 → Gives (.portLinkChange t n v) s fun b s' =>
      s'.bit 0x1020 5 (15 - n) = v ∧ (b.bit 0x1020 5 (15 - n) ≠ v → s'.bit 0x1020 5 0 = true))

/-- R436, R437, R441 to R445: the messages of sessions and of the boot port, the ends of sessions and of blocks, and the boot port's
opcodes. -/
def Obligations.SessionsComplete : Prop :=
  ∀ (s : State) (t : Nat), let b := s.arrive t
    let c := Received b
    let then_ := fun (f : State → State) => { (AtReceipt f b).reportLate.settle with pending := s.pending }
    (∀ m, m.wf = true → mType m = 1 → Taken b m → Gives (.identify t m) s fun b s' =>
      Sent (noSession m) (m.path == 1) (sotBytes [] 0x81 0 0 (toT96 c.ridge) (mSeq m) (identifyBody c)) b s') ∧
    (∀ m, m.wf = true → mType m = 2 → Taken b m → keysLoaded b = false → Gives (.keyLoad t m) s fun b s' =>
      match keysOf b m with
      | some k => keysLoaded s' = true ∧ (∀ r, r < 4 → roleKey s' r = slice k (32 * r) 32) ∧
          s'.num 0x1000 7 = (m.path <<< 56 ||| m.ip) % 2 ^ 64 ∧
          Sent (noSession m) (m.path == 1) (sotBytes [] 0x82 0 0 (toT96 c.ridge) (mSeq m) [0]) b s'
      | none => keysLoaded s' = false ∧ s'.out = b.out ∧ s'.net.bootQueue = b.net.bootQueue ∧ s'.net.sessions = b.net.sessions) ∧
    (∀ m n, m.wf = true → mType m = 3 → Taken b m → keysLoaded b = true → nth 0 (mBody m) 0 < 4 →
      macOk (roleKey b (nth 0 (mBody m) 0)) m = true → timeOk c m = true → b.net.nonces.contains (beNat (slice (mBody m) 4 16)) = false →
      (m.path = 1 → b.sessionOf 0 = none) → freeSid b = some n → Gives (.openSession t m) s fun b s' =>
        let role := nth 0 (mBody m) 0
        let dev := beBytes 16 (Config.freeWord b.freeCount % 2 ^ 128)
        let key := hmac (roleKey b role) ([0x53, 0x4F, 0x54, 0x31] ++ slice (mBody m) 4 16 ++ dev ++ beBytes 2 n)
        Store.find n s'.net.sessions = some ⟨role, m.path, m.ip, m.udp, key, 0, 1, b.now, 0⟩ ∧
        s'.net.nonces = (beNat (slice (mBody m) 4 16) :: b.net.nonces).take 64 ∧
        Sent (noSession m) (m.path == 1) (sotBytes (roleKey b role) 0x83 n 0 (toT96 c.ridge) (mSeq m) (0 :: dev)) b s') ∧
    (∀ m e, m.wf = true → mType m = 4 → Taken b m → SessionTaken c m e → mSid m ≠ 0 → e.path ≠ 0 → Gives (.closeSession t m) s fun b s' =>
      Store.find (mSid m) s'.net.sessions = none ∧
      Sent (mSid m) (e.path == 1) (sotBytes e.key 0x84 (mSid m) (e.outSeq + 1) (toT96 c.ridge) (mSeq m) [0]) b s') ∧
    (∀ m e, m.wf = true → mType m = 5 → Taken b m → SessionTaken c m e → Gives (.readObjects t m) s fun b s' =>
      s' = then_ (fun c =>
        let u := { c with net := { c.net with sessions := Store.put Session.init (mSid m) (takeSeq b.now (mSeq m) e) b.net.sessions } }
        let r := readItems (readerOf (mSid m) e) ((itemsOf m).getD []) (sizeMax m.path - 63) u
        answer m (mSid m) (itemsBody r.1) r.2)) ∧
    (∀ m, m.wf = true → mType m = 5 → Taken b m → keysLoaded b = false → m.path = 1 → Gives (.readObjects t m) s fun b s' =>
      s' = then_ (fun c =>
        let r := readItems 0 ((itemsOf m).getD []) (sizeMax m.path - 63) c
        answerBare m (itemsBody r.1) r.2)) ∧
    (∀ m e, m.wf = true → mType m = 6 → Taken b m → SessionTaken c m e → Gives (.writeObjects t m) s fun b s' =>
      s' = then_ (fun c =>
        let u := { c with net := { c.net with sessions := Store.put Session.init (mSid m) (takeSeq b.now (mSeq m) e) b.net.sessions } }
        let r := writeItems ⟨readerOf (mSid m) e, mSid m, some e.role⟩ ((itemsOf m).getD []) 0 u
        match r.2.1 with
        | some (ix, off) => r.2.2.modSet (fun o => { o with reply := some ⟨mSid m, mSeq m, r.1, ix, off, none⟩ })
        | none => answer m (mSid m) (itemsBody r.1) r.2.2)) ∧
    (∀ m e, m.wf = true → mType m = 7 → Taken b m → SessionTaken c m e → mSid m ≠ 0 → e.path ≠ 0 → Gives (.keepalive t m) s fun b s' =>
      Store.find (mSid m) s'.net.sessions = some { takeSeq b.now (mSeq m) e with outSeq := e.outSeq + 1 } ∧
      Sent (mSid m) (e.path == 1) (sotBytes e.key 0x87 (mSid m) (e.outSeq + 1) (toT96 c.ridge) (mSeq m) [0]) b s') ∧
    (∀ a, a < 2 ^ 32 → Gives (.sourceBlockEnd t a) s fun b s' =>
      s'.net.blocked = b.net.blocked.filter (fun e => !(e.1 == a && decide (e.2 ≤ b.now)))) ∧
    (∀ n e, n < 17 → Store.find n b.net.sessions = some e → e.lastMsg + secFs (b.num 0x1030 6) ≤ b.now →
      Gives (.sessionIdleTimeout t n) s fun b s' =>
      Store.find n s'.net.sessions = none ∧ ∀ k, k ≠ n → Store.find k s'.net.sessions = Store.find k b.net.sessions) ∧
    (∀ n m, n < 2 ^ 16 → m.wf = true → 2 ≤ b.stage → bootBusy b = false → n ≤ m.data.length → Gives (.bootSend t n m) s fun b s' =>
      s' = { (messageIn ⟨1, 0, 0, m.data.take n⟩ none (b.emit 6 0 [bootByte b])).2.reportLate.settle with pending := s.pending }) ∧
    (∀ n m, n < 2 ^ 16 → m.wf = true → 2 ≤ b.stage → bootBusy b = true ∨ m.data.length < n → Gives (.bootSend t n m) s fun b s' =>
      s'.out = b.out ++ [⟨6, 0, [bootByte b]⟩] ∧
        s'.net.sessions = b.net.sessions ∧ s'.net.queue = b.net.queue ∧ s'.net.bootQueue = b.net.bootQueue) ∧
    (∀ n m, n < 2 ^ 16 → m.wf = true → b.stage < 2 → Gives (.bootSend t n m) s fun b s' =>
      s'.out = b.out ∧ s'.net.sessions = b.net.sessions ∧ s'.net.queue = b.net.queue ∧ s'.net.bootQueue = b.net.bootQueue) ∧
    (2 ≤ b.stage → Gives (.bootFetch t) s fun b s' =>
      match b.net.bootQueue with
      | [] => s'.out = b.out ++ [⟨6, 0, bootByte b :: beBytes 2 0⟩] ∧ s'.net.bootQueue = []
      | d :: l => s'.out = b.out ++ [⟨6, 0, bootByte b :: beBytes 2 d.length ++ d⟩] ∧ s'.net.bootQueue = l) ∧
    (2 ≤ b.stage → Gives (.bootStatus t) s fun b s' => s'.out = b.out ++ [⟨6, 0, [bootByte b]⟩])

/-- R428 to R432: the configuration set. -/
def Obligations.SetsComplete : Prop :=
  ∀ (s : State) (t : Nat), let b := s.arrive t
    (∀ r n w, r < 18 → n < 2 ^ 32 → hostOk b = true → senderOf b r = some w → Gives (.beginSet t r n) s fun b s' =>
      if accessStatus w 0x105001 ≠ 0 then s'.out = b.out ++ [⟨20, r, [accessStatus w 0x105001]⟩] ∧ s'.net.openSet = b.net.openSet
      else if b.net.openSet = none then
        s'.out = b.out ++ [⟨20, r, [0]⟩] ∧ s'.net.openSet = some ⟨w.owner, n, [], 0, false, b.now, none⟩
      else s'.out = b.out ++ [⟨20, r, [0x15]⟩] ∧ s'.net.openSet = b.net.openSet) ∧
    (∀ r w, r < 18 → hostOk b = true → senderOf b r = some w → Gives (.commitSet t r) s fun b s' =>
      if accessStatus w 0x105001 ≠ 0 then s'.out = b.out ++ [⟨20, r, [accessStatus w 0x105001]⟩] ∧ s'.net.openSet = b.net.openSet
      else if setRefusal w b ≠ 0 then s'.out = b.out ++ [⟨20, r, [setRefusal w b]⟩] ∧ s'.net.openSet = b.net.openSet
      else s'.out = b.out ∧ s'.net.openSet =
        b.net.openSet.map (fun o => { o with checking := true, last := b.now, reply := some ⟨w.owner, 0, [], 0, 0, some r⟩ })) ∧
    (∀ r w, r < 18 → hostOk b = true → senderOf b r = some w → Gives (.abortSet t r) s fun b s' =>
      if accessStatus w 0x105001 ≠ 0 then s'.out = b.out ++ [⟨20, r, [accessStatus w 0x105001]⟩] ∧ s'.net.openSet = b.net.openSet
      else if setRefusal w b ≠ 0 then s'.out = b.out ++ [⟨20, r, [setRefusal w b]⟩] ∧ s'.net.openSet = b.net.openSet
      else s'.out = b.out ++ [⟨20, r, [0]⟩] ∧ s'.net.openSet = none) ∧
    (∀ q, b.net.openSet = some q → q.checking = true → setFailure (candOf q.staged b) = none → Gives (.commitComplete t) s fun _ s' =>
      s'.net.openSet = none ∧ s'.num 0x1050 3 = q.id % 2 ^ 32 ∧ s'.num 0x1050 4 = toT96 s'.ridge % 2 ^ 96 ∧
      s'.blob 0x1050 5 = ("OK".toList.map Char.toNat) ∧ s'.num 0x1050 6 = 0) ∧
    (∀ q n k, b.net.openSet = some q → q.checking = true → setFailure (candOf q.staged b) = some (n, k) → Gives (.commitComplete t) s fun _ s' =>
      s'.net.openSet = some { q with checking := false, reply := none } ∧ s'.blob 0x1050 5 = (n.toList.map Char.toNat) ∧
      s'.num 0x1050 6 = k * 256 % 2 ^ 32) ∧
    (∀ q y r, b.net.openSet = some q → q.checking = true → q.reply = some y → y.row = some r → Gives (.commitComplete t) s fun b s' =>
      ⟨20, r, [if setFailure (candOf q.staged b) = none then 0 else 0x17]⟩ ∈ s'.out) ∧
    (∀ q, b.net.openSet = some q → q.checking = false → Gives (.setIdleTimeout t) s fun b s' =>
      s'.net.openSet = if q.last + secFs (b.num 0x1050 8) ≤ b.now then none else b.net.openSet) ∧
    (∀ r k l w o q, r < 18 → k < 2 ^ 24 → bytesOk l = true → kindOf k = .cfg → hostOk b = true → senderOf b r = some w → rowOf k = some o →
      accessStatus w k = 0 → badSize (k / 256) (k % 256) o l = false → setRefusal w b = 0 → b.net.openSet = some q →
      let v : Val := if o.size = 0 then .blob l else .num (beNat l)
      let n := q.bytes - (match Store.find k q.staged with | some u => valBytes k u | none => 0) + valBytes k v
      Gives (.configObjectWrite t r k l) s fun b s' =>
        if stageMax < n then s'.out = b.out ++ [⟨20, r, [0x19]⟩] ∧ s'.net.openSet = b.net.openSet
        else s'.out = b.out ++ [⟨20, r, [0]⟩] ∧
          s'.net.openSet = some { q with staged := Store.put noVal k v q.staged, bytes := n, last := b.now }) ∧
    (∀ r k l w o, r < 18 → k < 2 ^ 24 → bytesOk l = true → kindOf k = .cfg → hostOk b = true → senderOf b r = some w → rowOf k = some o →
      Gives (.configObjectWrite t r k l) s fun b s' =>
        (∀ i j, evKey (i * 256 + j) = false → s'.num i j = b.num i j ∧ s'.blob i j = b.blob i j) ∧
        (accessStatus w k ≠ 0 → s'.out = b.out ++ [⟨20, r, [accessStatus w k]⟩] ∧ s'.net.openSet = b.net.openSet) ∧
        (accessStatus w k = 0 → badSize (k / 256) (k % 256) o l = true →
          s'.out = b.out ++ [⟨20, r, [0x13]⟩] ∧ s'.net.openSet = b.net.openSet) ∧
        (accessStatus w k = 0 → badSize (k / 256) (k % 256) o l = false → setRefusal w b ≠ 0 →
          s'.out = b.out ++ [⟨20, r, [setRefusal w b]⟩] ∧ s'.net.openSet = b.net.openSet))

/-- R423 to R427, R446, R448, R479: writes of objects outside configuration, the ends of segmented writes and of snapshots, the clearing of
events and the notification of readers. -/
def Obligations.ObjectsComplete : Prop :=
  ∀ (s : State) (t : Nat), let b := s.arrive t
    (∀ r k l w, r < 18 → k < 2 ^ 24 → bytesOk l = true → kindOf k ≠ .cfg → k ≠ 0x105001 → hostOk b = true → senderOf b r = some w →
      Gives (.objectWrite t r k l) s fun b s' =>
        s' = { ((writeObj w k l b).2.emit 20 r [(writeObj w k l b).1]).reportLate.settle with pending := s.pending }) ∧
    (∀ r k l w, r < 18 → k < 2 ^ 24 → bytesOk l = true → kindOf k ≠ .cfg → k ≠ 0x105001 → hostOk b = true → senderOf b r = some w →
      accessStatus w k ≠ 0 → Gives (.objectWrite t r k l) s fun b s' =>
        s'.out = b.out ++ [⟨20, r, [accessStatus w k]⟩] ∧ ∀ i j, evKey (i * 256 + j) = false → s'.num i j = b.num i j ∧ s'.blob i j = b.blob i j) ∧
    (∀ r k l w o, r < 18 → k < 2 ^ 24 → bytesOk l = true → k ≠ 0x105001 → hostOk b = true → senderOf b r = some w →
      accessStatus w k = 0 → rowOf k = some o → o.kind ≠ .cfg → badSize (k / 256) (k % 256) o l = true →
      Gives (.objectWrite t r k l) s fun b s' =>
        s'.out = b.out ++ [⟨20, r, [0x13]⟩] ∧ ∀ i j, evKey (i * 256 + j) = false → s'.num i j = b.num i j ∧ s'.blob i j = b.blob i j) ∧
    (∀ r k l w o, r < 18 → k < 2 ^ 24 → bytesOk l = true → k ≠ 0x802001 → hostOk b = true → senderOf b r = some w →
      accessStatus w k = 0 → rowOf k = some o → o.kind = .per → badSize (k / 256) (k % 256) o l = false →
      Gives (.objectWrite t r k l) s fun b s' =>
        s'.out = b.out ++ [⟨20, r, [0]⟩] ∧ (s'.reader w.reader).val (k / 256) (k % 256) = beNat l &&& o.rw) ∧
    (∀ r l w, r < 18 → bytesOk l = true → l.length = 2 → hostOk b = true → senderOf b r = some w →
      accessStatus w 0x105008 = 0 → Gives (.objectWrite t r 0x105008 l) s fun b s' =>
        if beNat l < 10 ∨ 3600 < beNat l then s'.out = b.out ++ [⟨20, r, [0x1A]⟩] ∧ s'.num 0x1050 8 = b.num 0x1050 8
        else s'.out = b.out ++ [⟨20, r, [0]⟩] ∧ s'.num 0x1050 8 = beNat l) ∧
    (∀ r k q, r < 18 → k < 2 ^ 24 → Store.find k (b.reader r).writes = some q → q.at_ + secFs 10 ≤ b.now →
      Gives (.segmentedWriteTimeout t r k) s fun b s' =>
      segOf s' r k = none ∧ Store.find k (s'.reader r).writes = none ∧ ∀ k', k' ≠ k → segOf s' r k' = segOf b r k') ∧
    (∀ r k q, r < 18 → k < 2 ^ 24 → Store.find k (b.reader r).snaps = some q → q.at_ + secFs 1 ≤ b.now →
      Gives (.snapshotTimeout t r k) s fun b s' =>
      Store.find k (s'.reader r).snaps = none ∧ ∀ k', k' ≠ k → Store.find k' (s'.reader r).snaps = Store.find k' (b.reader r).snaps) ∧
    (∀ l, bytesOk l = true → l.length = 32 → hostOk b = true → b.scribe.ovf = [] → b.capture.missed = [] → Gives (.pendingClear t l) s fun b s' =>
      ∀ k, k < 32 → nth 0 (s'.blob 0x1200 1) k =
        clearMask (nth 0 (b.blob 0x1200 1) k) (clearMask (nth 0 l k % 256) ((b.freshOf 0x120001 >>> (8 * k)) % 256))) ∧
    (∀ l, bytesOk l = true → l.length = 32 → hostOk b = true → b.scribe.ovf = [] → b.capture.missed = [] → Gives (.countClear t l) s fun b s' =>
      s'.blob 0x1200 2 = (List.range 256).flatMap (fun e =>
        if blobBit l e then [0, ((b.freshOf 0x120001).testBit e).toNat] else slice (b.blob 0x1200 2) (2 * e) 2)) ∧
    (∀ r n d e, r < 18 → hostOk b = true → (b.reader r).holdoff = some d → d ≤ b.now → b.sessionOf r = some n →
      Store.find n b.net.sessions = some e → e.path ≠ 0 → (b.reader r).notes ≠ [] → (b.reader r).notes.length ≤ 40 →
      b.scribe.running = [] → b.scribe.ovf = [] → b.capture.missed = [] → Gives (.notifyHoldoffExpiry t r) s fun b s' =>
        (s'.reader r).notes = [] ∧ (s'.reader r).holdoff = none ∧
        Sent n (e.path == 1) (sotBytes e.key 0xA0 n (e.outSeq + 1) (toT96 b.ridge) 0
          (beBytes 2 (b.reader r).notes.length ++ (b.reader r).notes.flatMap (noteBytes b))) b s')

/-- The frame of the commands of power-up, bring-up, images and the management island: each moves only the parts and the objects named for
it (indices from and to, subindices from and to), beside what an event moves. -/
def Obligations.StartupFrames : Prop :=
  ∀ (s : State) (t : Nat),
    (∀ x1 x2, Moves [.boot] [⟨0x1000, 0x1000, 5, 5⟩, ⟨0xB000, 0xB000, 1, 1⟩, ⟨0xB000, 0xB000, 4, 4⟩] s (.romChecksComplete t x1 x2)) ∧
    (∀ x1 x2, Moves [.boot] [⟨0x1000, 0x1000, 1, 1⟩, ⟨0x1000, 0x1000, 3, 3⟩, ⟨0x1010, 0x1010, 1, 2⟩, ⟨0x7020, 0x7020, 1, 1⟩, ⟨0xB000, 0xB000, 1,
      1⟩, ⟨0xB000, 0xB000, 4, 4⟩, ⟨0xB100, 0xB100, 2, 2⟩] s (.pufDerivation t x1 x2)) ∧
    (∀ x1 x2 x3 x4 x5, Moves [.boot, .out] [⟨0xB000, 0xB000, 1, 1⟩, ⟨0xB000, 0xB000, 4, 5⟩] s (.loaderBlock t x1 x2 x3 x4 x5)) ∧
    (∀ x1 x2, Moves [.out] [] s (.loaderStatusOp t x1 x2)) ∧
    (∀ x1 x2, Moves [.boot, .out] [⟨0xB000, 0xB000, 1, 1⟩, ⟨0xB000, 0xB000, 4, 5⟩] s (.loaderAbort t x1 x2)) ∧
    (∀ x1 x2 x3, Moves [.boot] [⟨0xB000, 0xB000, 1, 1⟩, ⟨0xB000, 0xB000, 4, 5⟩] s (.bootLoad t x1 x2 x3)) ∧
    (Moves [.boot, .out] [] s (.loaderStatus t)) ∧
    (Moves [.boot] [⟨0xB000, 0xB000, 1, 1⟩, ⟨0xB000, 0xB000, 4, 5⟩] s (.loaderIdleTimeout t)) ∧
    (Moves [.boot] [⟨0xB000, 0xB000, 1, 1⟩, ⟨0xB000, 0xB000, 4, 5⟩] s (.imageVerify t)) ∧
    (Moves [.boot] [⟨0x1000, 0x1000, 2, 2⟩, ⟨0xB000, 0xB000, 1, 1⟩, ⟨0xB000, 0xB000, 4, 4⟩] s (.fwStart t)) ∧
    (∀ x1, Moves [.boot] [⟨0x7050, 0x7050, 1, 1⟩, ⟨0xB000, 0xB000, 1, 1⟩, ⟨0xB000, 0xB000, 3, 4⟩] s (.bringUp t x1)) ∧
    (∀ x1 x2, Moves [.meas, .graphs, .gf, .plate, .sides, .safety, .clock, .capture] [⟨0x2100, 0x213F, 11, 11⟩, ⟨0x6000, 0x6000, 2, 2⟩, ⟨0x6021,
      0x6021, 1, 1⟩, ⟨0x6800, 0x6800, 2, 2⟩, ⟨0x7000, 0x7000, 5, 5⟩, ⟨0x7000, 0x7000, 8, 8⟩, ⟨0x7050, 0x7050, 1, 1⟩, ⟨0x7100, 0x7104, 3, 3⟩,
      ⟨0xB000, 0xB000, 1, 1⟩, ⟨0xB000, 0xB000, 4, 4⟩, ⟨0xB100, 0xB100, 2, 3⟩] s (.bringUpComplete t x1 x2)) ∧
    (∀ x1, Moves [.net, .boot] [⟨0xB000, 0xB000, 6, 7⟩] s (.islandWatchdog t x1)) ∧
    (∀ x1 x2, Moves [.boot] [⟨0xB200, 0xB200, 9, 10⟩] s (.imagePartWrite t x1 x2)) ∧
    (Moves [.boot] [⟨0xB000, 0xB000, 5, 5⟩, ⟨0xB200, 0xB200, 9, 10⟩] s (.imageVerifyCommand t)) ∧
    (Moves [.boot] [] s (.imageSwitch t)) ∧
    (Moves [.boot] [⟨0xB200, 0xB200, 9, 10⟩] s (.imageDiscard t)) ∧
    (∀ x1 x2 x3, Moves [.boot] [⟨0xB010, 0xB010, 1, 1⟩, ⟨0xB010, 0xB010, 3, 3⟩] s (.tempHigh t x1 x2 x3)) ∧
    (∀ x1 x2 x3, Moves [.meas, .graphs, .gf, .plate, .stacks, .sides, .safety, .sharing, .clock, .capture, .boot] [⟨0x2100, 0x213F, 11, 11⟩,
      ⟨0x2500, 0x2503, 6, 6⟩, ⟨0x2500, 0x2503, 8, 9⟩, ⟨0x4001, 0x4001, 3, 4⟩, ⟨0x5200, 0x5247, 8, 8⟩, ⟨0x5300, 0x5300, 4, 4⟩, ⟨0x5320, 0x5320,
      2, 2⟩, ⟨0x6000, 0x6000, 2, 2⟩, ⟨0x6021, 0x6021, 1, 4⟩, ⟨0x6800, 0x6800, 2, 2⟩, ⟨0x7000, 0x7000, 5, 5⟩, ⟨0x7000, 0x7000, 8, 8⟩, ⟨0x7050,
      0x7050, 1, 1⟩, ⟨0x7100, 0x7104, 3, 3⟩, ⟨0x9010, 0x901F, 3, 3⟩, ⟨0xA000, 0xA000, 1, 1⟩, ⟨0xB000, 0xB000, 1, 1⟩, ⟨0xB000, 0xB000, 4, 4⟩,
      ⟨0xB010, 0xB010, 1, 1⟩, ⟨0xB010, 0xB010, 3, 3⟩] s (.tempCritical t x1 x2 x3)) ∧
    (∀ x1 x2 x3, Moves [.boot] [⟨0xB010, 0xB010, 1, 1⟩, ⟨0xB010, 0xB010, 3, 3⟩] s (.railWarning t x1 x2 x3)) ∧
    (∀ x1 x2 x3, Moves [.meas, .graphs, .gf, .plate, .stacks, .sides, .safety, .sharing, .clock, .capture, .boot] [⟨0x2100, 0x213F, 11, 11⟩,
      ⟨0x2500, 0x2503, 6, 6⟩, ⟨0x2500, 0x2503, 8, 9⟩, ⟨0x4001, 0x4001, 3, 4⟩, ⟨0x5200, 0x5247, 8, 8⟩, ⟨0x5300, 0x5300, 4, 4⟩, ⟨0x5320, 0x5320,
      2, 2⟩, ⟨0x6000, 0x6000, 2, 2⟩, ⟨0x6021, 0x6021, 1, 4⟩, ⟨0x6800, 0x6800, 2, 2⟩, ⟨0x7000, 0x7000, 5, 5⟩, ⟨0x7000, 0x7000, 8, 8⟩, ⟨0x7050,
      0x7050, 1, 1⟩, ⟨0x7100, 0x7104, 3, 3⟩, ⟨0x9010, 0x901F, 3, 3⟩, ⟨0xA000, 0xA000, 1, 1⟩, ⟨0xB000, 0xB000, 1, 1⟩, ⟨0xB000, 0xB000, 4, 4⟩,
      ⟨0xB010, 0xB010, 1, 1⟩, ⟨0xB010, 0xB010, 3, 3⟩] s (.railFault t x1 x2 x3)) ∧
    (Moves [.meas, .gf, .plate, .stacks, .safety, .sharing] [⟨0x2500, 0x2503, 6, 6⟩, ⟨0x2500, 0x2503, 8, 9⟩, ⟨0x4001, 0x4001, 3, 4⟩, ⟨0x5300,
      0x5300, 4, 4⟩, ⟨0x5320, 0x5320, 2, 2⟩, ⟨0x6800, 0x6800, 2, 2⟩, ⟨0x9010, 0x901F, 3, 3⟩, ⟨0xA000, 0xA000, 1, 1⟩, ⟨0xB000, 0xB000, 1, 1⟩,
      ⟨0xB000, 0xB000, 4, 4⟩] s (.vddRidgeLoss t)) ∧
    (Moves [.meas, .gf, .plate, .stacks, .safety, .sharing] [⟨0x2500, 0x2503, 6, 6⟩, ⟨0x2500, 0x2503, 8, 9⟩, ⟨0x4001, 0x4001, 3, 4⟩, ⟨0x5300,
      0x5300, 4, 4⟩, ⟨0x5320, 0x5320, 2, 2⟩, ⟨0x6800, 0x6800, 2, 2⟩, ⟨0x9010, 0x901F, 3, 3⟩, ⟨0xA000, 0xA000, 1, 1⟩, ⟨0xB000, 0xB000, 1, 1⟩,
      ⟨0xB000, 0xB000, 4, 4⟩] s (.ridgeFault t)) ∧
    (∀ x1 x2, Moves [.sides, .plls, .boot] [⟨0x6030, 0x6031, 1, 1⟩, ⟨0x7100, 0x7104, 3, 3⟩, ⟨0xB010, 0xB010, 1, 1⟩] s (.sensorUpdate t x1 x2))

/-- The frame of the commands of sides, takeover and health: each moves only the parts and the objects named for it (indices from and to,
subindices from and to), beside what an event moves. -/
def Obligations.SidesFrames : Prop :=
  ∀ (s : State) (t : Nat),
    (∀ x1 x2 x3, Moves [.meas, .graphs, .gf, .plate, .stacks, .sides, .safety, .sharing, .clock, .capture] [⟨0x2100, 0x213F, 11, 11⟩, ⟨0x2500,
      0x2503, 6, 6⟩, ⟨0x2500, 0x2503, 8, 9⟩, ⟨0x4001, 0x4001, 3, 4⟩, ⟨0x5200, 0x5247, 8, 8⟩, ⟨0x5300, 0x5300, 4, 4⟩, ⟨0x5320, 0x5320, 2, 2⟩,
      ⟨0x6000, 0x6000, 2, 2⟩, ⟨0x6021, 0x6021, 1, 4⟩, ⟨0x6030, 0x6031, 1, 1⟩, ⟨0x6030, 0x6031, 8, 8⟩, ⟨0x6800, 0x6800, 2, 2⟩, ⟨0x7000, 0x7000,
      5, 5⟩, ⟨0x7000, 0x7000, 8, 8⟩, ⟨0x7050, 0x7050, 1, 1⟩, ⟨0x7100, 0x7104, 3, 3⟩, ⟨0x9010, 0x901F, 3, 3⟩, ⟨0xA000, 0xA000, 1, 1⟩] s
      (.trussLinkFrame t x1 x2 x3)) ∧
    (∀ x1 x2 x3 x4, Moves [.meas, .graphs, .gf, .plate, .stacks, .sides, .safety, .sharing, .clock, .capture] [⟨0x2100, 0x213F, 11, 11⟩, ⟨0x2500,
      0x2503, 6, 6⟩, ⟨0x2500, 0x2503, 8, 9⟩, ⟨0x4001, 0x4001, 3, 4⟩, ⟨0x5200, 0x5247, 8, 8⟩, ⟨0x5300, 0x5300, 4, 4⟩, ⟨0x5320, 0x5320, 2, 2⟩,
      ⟨0x6000, 0x6000, 2, 2⟩, ⟨0x6021, 0x6021, 1, 4⟩, ⟨0x6030, 0x6031, 1, 1⟩, ⟨0x6030, 0x6031, 6, 7⟩, ⟨0x6800, 0x6800, 2, 2⟩, ⟨0x7000, 0x7000,
      5, 5⟩, ⟨0x7000, 0x7000, 8, 8⟩, ⟨0x7050, 0x7050, 1, 1⟩, ⟨0x7100, 0x7104, 3, 3⟩, ⟨0x9010, 0x901F, 3, 3⟩, ⟨0xA000, 0xA000, 1, 1⟩] s
      (.heartbeat t x1 x2 x3 x4)) ∧
    (∀ x1 x2, Moves [.meas, .graphs, .gf, .plate, .stacks, .sides, .safety, .sharing, .clock, .capture] [⟨0x2100, 0x213F, 11, 11⟩, ⟨0x2500,
      0x2503, 6, 6⟩, ⟨0x2500, 0x2503, 8, 9⟩, ⟨0x4001, 0x4001, 3, 4⟩, ⟨0x5200, 0x5247, 8, 8⟩, ⟨0x5300, 0x5300, 4, 4⟩, ⟨0x5320, 0x5320, 2, 2⟩,
      ⟨0x6000, 0x6000, 2, 2⟩, ⟨0x6021, 0x6021, 1, 4⟩, ⟨0x6030, 0x6031, 1, 1⟩, ⟨0x6030, 0x6031, 6, 7⟩, ⟨0x6800, 0x6800, 2, 2⟩, ⟨0x7000, 0x7000,
      5, 5⟩, ⟨0x7000, 0x7000, 8, 8⟩, ⟨0x7050, 0x7050, 1, 1⟩, ⟨0x7100, 0x7104, 3, 3⟩, ⟨0x9010, 0x901F, 3, 3⟩, ⟨0xA000, 0xA000, 1, 1⟩] s
      (.heartbeatMissing t x1 x2)) ∧
    (∀ x1 x2, Moves [.sides] [] s (.signatureCompare t x1 x2)) ∧
    (∀ x1 x2, Moves [.meas, .graphs, .gf, .plate, .stacks, .sides, .safety, .sharing, .clock, .capture] [⟨0x2100, 0x213F, 11, 11⟩, ⟨0x2500,
      0x2503, 6, 6⟩, ⟨0x2500, 0x2503, 8, 9⟩, ⟨0x4001, 0x4001, 3, 4⟩, ⟨0x5200, 0x5247, 8, 8⟩, ⟨0x5300, 0x5300, 4, 4⟩, ⟨0x5320, 0x5320, 2, 2⟩,
      ⟨0x6000, 0x6000, 2, 2⟩, ⟨0x6021, 0x6021, 1, 5⟩, ⟨0x6030, 0x6031, 1, 1⟩, ⟨0x6800, 0x6800, 2, 2⟩, ⟨0x7000, 0x7000, 5, 5⟩, ⟨0x7000, 0x7000,
      8, 8⟩, ⟨0x7050, 0x7050, 1, 1⟩, ⟨0x7100, 0x7104, 3, 3⟩, ⟨0x9010, 0x901F, 3, 3⟩, ⟨0xA000, 0xA000, 1, 1⟩, ⟨0xB100, 0xB100, 2, 2⟩] s
      (.mismatchResolution t x1 x2)) ∧
    (∀ x1, Moves [.meas, .graphs, .gf, .plate, .stacks, .sides, .safety, .sharing, .clock, .capture] [⟨0x2100, 0x213F, 11, 11⟩, ⟨0x2500, 0x2503,
      6, 6⟩, ⟨0x2500, 0x2503, 8, 9⟩, ⟨0x4001, 0x4001, 3, 4⟩, ⟨0x5200, 0x5247, 8, 8⟩, ⟨0x5300, 0x5300, 4, 4⟩, ⟨0x5320, 0x5320, 2, 2⟩, ⟨0x6000,
      0x6000, 2, 2⟩, ⟨0x6021, 0x6021, 1, 4⟩, ⟨0x6030, 0x6031, 1, 1⟩, ⟨0x6030, 0x6031, 8, 8⟩, ⟨0x6800, 0x6800, 2, 2⟩, ⟨0x7000, 0x7000, 5, 5⟩,
      ⟨0x7000, 0x7000, 8, 8⟩, ⟨0x7050, 0x7050, 1, 1⟩, ⟨0x7100, 0x7104, 3, 3⟩, ⟨0x9010, 0x901F, 3, 3⟩, ⟨0xA000, 0xA000, 1, 1⟩] s (.mirrorFrame
      t x1)) ∧
    (∀ x1, Moves [.meas, .graphs, .plate, .sides, .capture, .scribe] [⟨0x2500, 0x2503, 6, 6⟩, ⟨0x2500, 0x2503, 8, 9⟩, ⟨0x6000, 0x6000, 2, 2⟩,
      ⟨0x6021, 0x6021, 1, 1⟩, ⟨0x7050, 0x7050, 1, 1⟩, ⟨0x7100, 0x7104, 3, 3⟩, ⟨0x8300, 0x836F, 5, 5⟩, ⟨0x8300, 0x836F, 8, 8⟩, ⟨0xB100, 0xB100, 3, 3⟩] s (.sideJoined t x1)) ∧
    (∀ x1, Moves [.sides] [⟨0x6021, 0x6021, 1, 1⟩] s (.reinitAttemptFailed t x1)) ∧
    (∀ x1, Moves [.meas, .graphs, .plate, .sides, .capture] [⟨0x6021, 0x6021, 1, 1⟩, ⟨0x7050, 0x7050, 1, 1⟩, ⟨0x7100, 0x7104, 3, 3⟩] s
      (.reinitRetry t x1)) ∧
    (Moves [.meas, .graphs, .gf, .plate, .sides, .clock, .capture] [⟨0x2100, 0x213F, 11, 11⟩, ⟨0x6000, 0x6000, 2, 2⟩, ⟨0x6020, 0x6020, 2, 2⟩,
      ⟨0x6021, 0x6021, 1, 1⟩, ⟨0x7000, 0x7000, 5, 5⟩, ⟨0x7000, 0x7000, 8, 8⟩, ⟨0x7050, 0x7050, 1, 1⟩, ⟨0x7100, 0x7104, 3, 3⟩] s (.handover t)) ∧
    (Moves [.meas, .graphs, .gf, .plate, .sides, .clock, .capture] [⟨0x2100, 0x213F, 11, 11⟩, ⟨0x5200, 0x5247, 8, 8⟩, ⟨0x6000, 0x6000, 2, 2⟩,
      ⟨0x6021, 0x6021, 1, 4⟩, ⟨0x7000, 0x7000, 5, 5⟩, ⟨0x7000, 0x7000, 8, 8⟩, ⟨0x7050, 0x7050, 1, 1⟩, ⟨0x7100, 0x7104, 3, 3⟩] s
      (.handoverExecute t)) ∧
    (∀ x1, Moves [.meas, .graphs, .gf, .plate, .sides, .clock, .capture] [⟨0x2100, 0x213F, 11, 11⟩, ⟨0x6000, 0x6000, 2, 2⟩, ⟨0x6020, 0x6020, 2,
      2⟩, ⟨0x6021, 0x6021, 1, 1⟩, ⟨0x7000, 0x7000, 5, 5⟩, ⟨0x7000, 0x7000, 8, 8⟩, ⟨0x7050, 0x7050, 1, 1⟩, ⟨0x7100, 0x7104, 3, 3⟩] s (.restore
      t x1)) ∧
    (∀ x1, Moves [.meas, .graphs, .gf, .plate, .sides, .clock, .capture] [⟨0x2100, 0x213F, 11, 11⟩, ⟨0x6000, 0x6000, 2, 2⟩, ⟨0x6020, 0x6020, 2,
      2⟩, ⟨0x6021, 0x6021, 1, 1⟩, ⟨0x7000, 0x7000, 5, 5⟩, ⟨0x7000, 0x7000, 8, 8⟩, ⟨0x7050, 0x7050, 1, 1⟩, ⟨0x7100, 0x7104, 3, 3⟩] s
      (.powerDown t x1)) ∧
    (∀ x1, Moves [.meas, .graphs, .gf, .plate, .sides, .clock, .capture] [⟨0x2100, 0x213F, 11, 11⟩, ⟨0x6000, 0x6000, 2, 2⟩, ⟨0x6020, 0x6020, 2,
      2⟩, ⟨0x6021, 0x6021, 1, 1⟩, ⟨0x7000, 0x7000, 5, 5⟩, ⟨0x7000, 0x7000, 8, 8⟩, ⟨0x7050, 0x7050, 1, 1⟩, ⟨0x7100, 0x7104, 3, 3⟩] s (.powerUp
      t x1)) ∧
    (∀ x1, Moves [.sides] [] s (.doutRequest t x1)) ∧
    (Moves [.sides] [] s (.kerfWindowClose t)) ∧
    (∀ x1 x2 x3 x4, Moves [.meas, .graphs, .gf, .plate, .stacks, .sides, .safety, .sharing, .clock, .capture] [⟨0x2100, 0x213F, 11, 11⟩, ⟨0x2500,
      0x2503, 6, 6⟩, ⟨0x2500, 0x2503, 8, 9⟩, ⟨0x4001, 0x4001, 3, 4⟩, ⟨0x5200, 0x5247, 8, 8⟩, ⟨0x5300, 0x5300, 4, 4⟩, ⟨0x5320, 0x5320, 2, 2⟩,
      ⟨0x6000, 0x6000, 2, 2⟩, ⟨0x6021, 0x6021, 1, 4⟩, ⟨0x6030, 0x6031, 1, 2⟩, ⟨0x6800, 0x6800, 2, 2⟩, ⟨0x7000, 0x7000, 5, 5⟩, ⟨0x7000, 0x7000,
      8, 8⟩, ⟨0x7050, 0x7050, 1, 1⟩, ⟨0x7100, 0x7104, 3, 3⟩, ⟨0x9010, 0x901F, 3, 3⟩, ⟨0xA000, 0xA000, 1, 1⟩, ⟨0xB100, 0xB100, 2, 2⟩] s
      (.laneTest t x1 x2 x3 x4)) ∧
    (∀ x1 x2 x3 x4, Moves [.meas, .graphs, .gf, .plate, .stacks, .sides, .safety, .sharing, .clock, .capture, .boot] [⟨0x2100, 0x213F, 11, 11⟩,
      ⟨0x2500, 0x2503, 6, 6⟩, ⟨0x2500, 0x2503, 8, 9⟩, ⟨0x4001, 0x4001, 3, 4⟩, ⟨0x5200, 0x5247, 8, 8⟩, ⟨0x5300, 0x5300, 4, 4⟩, ⟨0x5320, 0x5320,
      2, 2⟩, ⟨0x6000, 0x6000, 2, 2⟩, ⟨0x6021, 0x6021, 1, 4⟩, ⟨0x6030, 0x6031, 1, 1⟩, ⟨0x6030, 0x6031, 3, 5⟩, ⟨0x6800, 0x6800, 2, 2⟩, ⟨0x7000,
      0x7000, 5, 5⟩, ⟨0x7000, 0x7000, 8, 8⟩, ⟨0x7050, 0x7050, 1, 1⟩, ⟨0x7100, 0x7104, 3, 3⟩, ⟨0x9010, 0x901F, 3, 3⟩, ⟨0xA000, 0xA000, 1, 1⟩] s
      (.eccError t x1 x2 x3 x4)) ∧
    (∀ x1 x2, Moves [.meas, .graphs, .gf, .plate, .stacks, .sides, .safety, .sharing, .clock, .capture] [⟨0x2100, 0x213F, 11, 11⟩, ⟨0x2500,
      0x2503, 6, 6⟩, ⟨0x2500, 0x2503, 8, 9⟩, ⟨0x4001, 0x4001, 3, 4⟩, ⟨0x5200, 0x5247, 8, 8⟩, ⟨0x5300, 0x5300, 4, 4⟩, ⟨0x5320, 0x5320, 2, 2⟩,
      ⟨0x6000, 0x6000, 2, 2⟩, ⟨0x6021, 0x6021, 1, 4⟩, ⟨0x6030, 0x6031, 1, 1⟩, ⟨0x6800, 0x6800, 2, 2⟩, ⟨0x7000, 0x7000, 5, 5⟩, ⟨0x7000, 0x7000,
      8, 8⟩, ⟨0x7050, 0x7050, 1, 1⟩, ⟨0x7100, 0x7104, 3, 3⟩, ⟨0x9010, 0x901F, 3, 3⟩, ⟨0xA000, 0xA000, 1, 1⟩] s (.pllFreqCheck t x1 x2)) ∧
    (∀ x1, Moves [.sides] [⟨0x6030, 0x6031, 1, 1⟩] s (.badHoldExpiry t x1))

/-- The frame of the commands of measurement, arcs and chords: each moves only the parts and the objects named for it (indices from and to,
subindices from and to), beside what an event moves. -/
def Obligations.MeasurementFrames : Prop :=
  ∀ (s : State) (t : Nat),
    (∀ x1, Moves [.meas] [⟨0x2310, 0x2310, 3, 3⟩] s (.syncInEdge t x1)) ∧
    (∀ x1, Moves [.meas] [⟨0x2310, 0x2310, 3, 3⟩] s (.syncCommand t x1)) ∧
    (Moves [.meas, .out] [] s (.syncOutPulse t)) ∧
    (∀ x1, Moves [.meas] [⟨0x2310, 0x2310, 3, 4⟩] s (.decimAlignment t x1)) ∧
    (∀ x1 x2, Moves [.meas, .gf, .plate] [⟨0x2100, 0x213F, 4, 4⟩, ⟨0x2100, 0x213F, 11, 12⟩, ⟨0x2100, 0x213F, 16, 16⟩, ⟨0x2200, 0x227F, 131, 131⟩,
      ⟨0x2300, 0x2300, 2, 2⟩, ⟨0x2500, 0x2503, 7, 7⟩, ⟨0x2600, 0x263F, 7, 7⟩] s (.decimationBoundary t x1 x2)) ∧
    (∀ x1 x2, Moves [.meas, .gf, .plate] [⟨0x2100, 0x213F, 11, 11⟩] s (.stuckBits t x1 x2)) ∧
    (∀ x1, Moves [.meas, .gf, .plate] [⟨0x2100, 0x213F, 4, 4⟩, ⟨0x2100, 0x213F, 11, 12⟩, ⟨0x2100, 0x213F, 16, 16⟩, ⟨0x2200, 0x227F, 131, 131⟩,
      ⟨0x2300, 0x2300, 2, 2⟩, ⟨0x2310, 0x2310, 3, 4⟩] s (.modClockMissing t x1)) ∧
    (∀ x1, Moves [.meas, .graphs, .gf, .plate, .stacks, .sides, .safety, .sharing, .clock, .capture] [⟨0x2100, 0x213F, 11, 11⟩, ⟨0x2500, 0x2503,
      6, 6⟩, ⟨0x2500, 0x2503, 8, 9⟩, ⟨0x4001, 0x4001, 3, 4⟩, ⟨0x5200, 0x5247, 8, 8⟩, ⟨0x5300, 0x5300, 4, 4⟩, ⟨0x5320, 0x5320, 2, 2⟩, ⟨0x6000,
      0x6000, 2, 2⟩, ⟨0x6021, 0x6021, 1, 4⟩, ⟨0x6800, 0x6800, 2, 2⟩, ⟨0x7000, 0x7000, 5, 5⟩, ⟨0x7000, 0x7000, 8, 8⟩, ⟨0x7050, 0x7050, 1, 1⟩,
      ⟨0x7100, 0x7104, 3, 3⟩, ⟨0x9010, 0x901F, 3, 3⟩, ⟨0xA000, 0xA000, 1, 1⟩] s (.feedbackDisagreement t x1)) ∧
    (∀ x1, Moves [.meas, .gf, .plate] [] s (.modelTimeExpiry t x1)) ∧
    (∀ x1, Moves [.meas] [] s (.samplingClockStart t x1)) ∧
    (∀ x1, Moves [.meas, .gf, .plate] [⟨0x2100, 0x213F, 11, 11⟩] s (.feedbackRecovery t x1)) ∧
    (∀ x1 x2, Moves [.meas] [] s (.settlingCleared t x1 x2)) ∧
    (∀ x1, Moves [.meas] [⟨0x2300, 0x2300, 2, 2⟩] s (.bankSwapRequest t x1)) ∧
    (∀ x1 x2, Moves [.meas, .graphs] [⟨0x2500, 0x2503, 6, 6⟩] s (.arcRefTriple t x1 x2)) ∧
    (∀ x1 x2, Moves [.meas] [⟨0x2500, 0x2503, 6, 6⟩, ⟨0x2500, 0x2503, 8, 9⟩] s (.arcRefApply t x1 x2)) ∧
    (∀ x1, Moves [.meas] [⟨0x2500, 0x2503, 6, 6⟩] s (.arcRefStale t x1)) ∧
    (∀ x1 x2, Moves [.meas, .plate] [⟨0x2600, 0x263F, 7, 7⟩] s (.comparatorFire t x1 x2)) ∧
    (∀ x1 x2, Moves [.meas] [] s (.blankWindowOpen t x1 x2)) ∧
    (∀ x1, Moves [.meas] [] s (.blankWindowClose t x1)) ∧
    (∀ x1 x2 x3 x4, Moves [.meas] [⟨0x2100, 0x213F, 11, 11⟩] s (.samplingEdge t x1 x2 x3 x4))

/-- The frame of the commands of graphs, results and grid forming: each moves only the parts and the objects named for it (indices from and
to, subindices from and to), beside what an event moves. -/
def Obligations.GraphAndGridFormingFrames : Prop :=
  ∀ (s : State) (t : Nat),
    (∀ x1, Moves [.graphs, .plate] [⟨0x3000, 0x3000, 2, 3⟩, ⟨0x3000, 0x3000, 5, 6⟩, ⟨0x3100, 0x3101, 4, 4⟩, ⟨0x3300, 0x3300, 2, 2⟩, ⟨0x3400,
      0x3BFF, 4, 4⟩, ⟨0x5140, 0x515F, 2, 2⟩, ⟨0x9100, 0x910F, 4, 4⟩] s (.fastTick t x1)) ∧
    (∀ x1 x2 x3, Moves [.graphs] [] s (.laneWake t x1 x2 x3)) ∧
    (∀ x1 x2, Moves [.graphs, .scribe] [⟨0x3300, 0x3300, 2, 2⟩, ⟨0x3400, 0x3BFF, 4, 4⟩, ⟨0x3400, 0x3BFF, 6, 8⟩, ⟨0x8210, 0x8211, 6, 6⟩] s
      (.entryExecution t x1 x2)) ∧
    (∀ x1, Moves [.meas, .graphs, .gf, .plate, .stacks, .sides, .safety, .sharing, .clock, .capture] [⟨0x2100, 0x213F, 11, 11⟩, ⟨0x2500, 0x2503,
      6, 6⟩, ⟨0x2500, 0x2503, 8, 9⟩, ⟨0x3000, 0x3000, 4, 4⟩, ⟨0x4001, 0x4001, 3, 4⟩, ⟨0x5200, 0x5247, 8, 8⟩, ⟨0x5300, 0x5300, 4, 4⟩, ⟨0x5320,
      0x5320, 2, 2⟩, ⟨0x6000, 0x6000, 2, 2⟩, ⟨0x6021, 0x6021, 1, 4⟩, ⟨0x6800, 0x6800, 2, 2⟩, ⟨0x7000, 0x7000, 5, 5⟩, ⟨0x7000, 0x7000, 8, 8⟩,
      ⟨0x7050, 0x7050, 1, 1⟩, ⟨0x7100, 0x7104, 3, 3⟩, ⟨0x9010, 0x901F, 3, 3⟩, ⟨0xA000, 0xA000, 1, 1⟩] s (.compareWriter t x1)) ∧
    (∀ x1, Moves [.graphs] [⟨0x3000, 0x3000, 2, 2⟩] s (.graphSwitchRequest t x1)) ∧
    (Moves [.graphs] [⟨0x3000, 0x3000, 2, 3⟩, ⟨0x3000, 0x3000, 5, 6⟩, ⟨0x3100, 0x3101, 4, 4⟩, ⟨0x3300, 0x3300, 2, 2⟩, ⟨0x3400, 0x3BFF, 4, 4⟩] s
      (.graphSwitch t)) ∧
    (∀ x1 x2 x3, Moves [.graphs, .net, .out] [] s (.resultRead t x1 x2 x3)) ∧
    (∀ x1 x2 x3, Moves [.graphs, .net, .out] [] s (.resultFifoRead t x1 x2 x3)) ∧
    (∀ x1 x2, Moves [.graphs] [] s (.presetNow t x1 x2)) ∧
    (∀ x1 x2, Moves [.graphs] [] s (.modeForceManual t x1 x2)) ∧
    (∀ x1 x2, Moves [.graphs] [] s (.modeForceAutomatic t x1 x2)) ∧
    (∀ x1 x2, Moves [.graphs] [] s (.modeRelease t x1 x2)) ∧
    (∀ x1, Moves [.graphs] [⟨0x3300, 0x3300, 2, 2⟩] s (.paramSwapRequest t x1)) ∧
    (Moves [.meas, .graphs, .gf, .plate, .stacks, .sides, .safety, .sharing, .capture] [⟨0x2500, 0x2503, 6, 6⟩, ⟨0x2500, 0x2503, 8, 9⟩, ⟨0x4001,
      0x4001, 3, 5⟩, ⟨0x4002, 0x4002, 16, 17⟩, ⟨0x5300, 0x5300, 4, 4⟩, ⟨0x5320, 0x5320, 2, 2⟩, ⟨0x6021, 0x6021, 1, 1⟩, ⟨0x6800, 0x6800, 2, 2⟩,
      ⟨0x7050, 0x7050, 1, 1⟩, ⟨0x7100, 0x7104, 3, 3⟩, ⟨0x9010, 0x901F, 3, 3⟩, ⟨0xA000, 0xA000, 1, 1⟩] s (.gfMainTick t)) ∧
    (Moves [.meas, .graphs, .gf, .plate, .stacks, .sides, .safety, .sharing, .capture] [⟨0x2500, 0x2503, 6, 6⟩, ⟨0x2500, 0x2503, 8, 9⟩, ⟨0x4001,
      0x4001, 3, 5⟩, ⟨0x5300, 0x5300, 4, 4⟩, ⟨0x5320, 0x5320, 2, 2⟩, ⟨0x6021, 0x6021, 1, 1⟩, ⟨0x6800, 0x6800, 2, 2⟩, ⟨0x7050, 0x7050, 1, 1⟩,
      ⟨0x7100, 0x7104, 3, 3⟩, ⟨0x9010, 0x901F, 3, 3⟩, ⟨0xA000, 0xA000, 1, 1⟩] s (.gfIdleEvaluation t)) ∧
    (∀ x1, Moves [.gf] [] s (.blackStart t x1)) ∧
    (Moves [.gf] [] s (.join t)) ∧
    (Moves [.gf] [] s (.resync t)) ∧
    (Moves [.gf] [] s (.abortResync t)) ∧
    (Moves [.gf] [] s (.stop t)) ∧
    (Moves [.gf] [] s (.acknowledge t)) ∧
    (Moves [.gf] [] s (.cancelStart t)) ∧
    (Moves [.meas, .graphs, .gf, .plate, .stacks, .safety, .sharing] [⟨0x2500, 0x2503, 6, 6⟩, ⟨0x2500, 0x2503, 8, 9⟩, ⟨0x4001, 0x4001, 3, 4⟩,
      ⟨0x5300, 0x5300, 4, 4⟩, ⟨0x5320, 0x5320, 2, 2⟩, ⟨0x6800, 0x6800, 2, 2⟩, ⟨0x9010, 0x901F, 3, 3⟩, ⟨0xA000, 0xA000, 1, 1⟩] s
      (.coherentStart t)) ∧
    (Moves [.gf] [] s (.rideExit t)) ∧
    (Moves [.gf] [] s (.limitEntry t)) ∧
    (Moves [.gf] [] s (.rideTimeout t)) ∧
    (Moves [.gf] [] s (.blackStartTimeout t)) ∧
    (Moves [.gf] [] s (.resyncTimeout t)) ∧
    (∀ x1, Moves [.gf, .sides] [⟨0x4001, 0x4001, 3, 3⟩] s (.breakerDinChange t x1)) ∧
    (Moves [.gf] [⟨0x4001, 0x4001, 3, 3⟩] s (.breakerFail t))

/-- The frame of the commands of the sills and the plate: each moves only the parts and the objects named for it (indices from and to,
subindices from and to), beside what an event moves. -/
def Obligations.PlateFrames : Prop :=
  ∀ (s : State) (t : Nat),
    (∀ x1 x2, Moves [.meas, .graphs, .gf, .plate, .stacks, .sides, .clock, .capture] [⟨0x2100, 0x213F, 11, 11⟩, ⟨0x5120, 0x5127, 5, 6⟩, ⟨0x5140,
      0x515F, 2, 3⟩, ⟨0x5200, 0x5247, 8, 8⟩, ⟨0x6000, 0x6000, 2, 2⟩, ⟨0x6021, 0x6021, 1, 1⟩, ⟨0x6021, 0x6021, 4, 4⟩, ⟨0x7000, 0x7000, 5, 5⟩,
      ⟨0x7000, 0x7000, 8, 8⟩, ⟨0x7050, 0x7050, 1, 1⟩, ⟨0x7100, 0x7104, 3, 3⟩, ⟨0x9010, 0x901F, 3, 3⟩, ⟨0x9010, 0x901F, 7, 7⟩] s
      (.carrierVertex t x1 x2)) ∧
    (∀ x1 x2, Moves [.plate] [⟨0x5200, 0x5247, 8, 8⟩] s (.gateCommandEdge t x1 x2)) ∧
    (∀ x1 x2, Moves [.plate] [⟨0x5200, 0x5247, 8, 8⟩] s (.deadTimeExpiry t x1 x2)) ∧
    (∀ x1, Moves [.plate] [⟨0x5100, 0x5100, 4, 4⟩] s (.carrierStart t x1)) ∧
    (∀ x1 x2, Moves [.meas, .graphs, .gf, .plate, .stacks, .sides, .clock, .capture] [⟨0x2100, 0x213F, 11, 11⟩, ⟨0x5120, 0x5127, 5, 6⟩, ⟨0x5200,
      0x5247, 8, 8⟩, ⟨0x6000, 0x6000, 2, 2⟩, ⟨0x6021, 0x6021, 1, 1⟩, ⟨0x6021, 0x6021, 4, 4⟩, ⟨0x7000, 0x7000, 5, 5⟩, ⟨0x7000, 0x7000, 8, 8⟩,
      ⟨0x7050, 0x7050, 1, 1⟩, ⟨0x7100, 0x7104, 3, 3⟩, ⟨0x9010, 0x901F, 3, 3⟩, ⟨0x9010, 0x901F, 7, 7⟩] s (.carrierGroupStart t x1 x2)) ∧
    (∀ x1, Moves [.plate] [⟨0x5100, 0x5100, 4, 4⟩] s (.carrierStop t x1)) ∧
    (∀ x1, Moves [.plate] [] s (.updateCommit t x1)) ∧
    (∀ x1 x2 x3, Moves [.plate] [⟨0x5140, 0x515F, 2, 2⟩] s (.shadowWrite t x1 x2 x3)) ∧
    (Moves [.plate] [⟨0x5140, 0x515F, 2, 2⟩] s (.shadowApply t)) ∧
    (∀ x1 x2, Moves [.plate] [⟨0x5310, 0x5310, 3, 3⟩] s (.faultInTrip t x1 x2)) ∧
    (Moves [.meas] [⟨0x5300, 0x5300, 4, 4⟩, ⟨0x5310, 0x5310, 3, 3⟩] s (.releaseFaultIn t)) ∧
    (Moves [.meas] [⟨0x5300, 0x5300, 4, 4⟩, ⟨0x5310, 0x5310, 3, 3⟩] s (.releaseChordTrip t)) ∧
    (∀ x1 x2, Moves [.plate] [⟨0x5300, 0x5300, 1, 3⟩] s (.disableMaskWrite t x1 x2)) ∧
    (Moves [] [⟨0x5300, 0x5300, 4, 4⟩] s (.commissionEnter t)) ∧
    (Moves [.plate] [⟨0x5300, 0x5300, 4, 4⟩, ⟨0x5320, 0x5320, 2, 2⟩] s (.commissionLeave t)) ∧
    (∀ x1, Moves [.plate] [⟨0x5300, 0x5300, 4, 4⟩, ⟨0x5320, 0x5320, 2, 2⟩] s (.overrideMapWrite t x1)) ∧
    (∀ x1, Moves [.plate] [] s (.debugHalt t x1)) ∧
    (Moves [.graphs, .plate, .sides] [] s (.debugResume t)) ∧
    (∀ x1, Moves [] [⟨0x5200, 0x5247, 8, 8⟩] s (.plateMinOnExpiry t x1))

/-- The frame of the commands of stacks: each moves only the parts and the objects named for it (indices from and to, subindices from and
to), beside what an event moves. -/
def Obligations.StacksFrames : Prop :=
  ∀ (s : State) (t : Nat),
    (∀ x1 x2, Moves [.stacks, .sharing] [⟨0x9010, 0x901F, 3, 3⟩, ⟨0xA000, 0xA000, 1, 1⟩] s (.stackTransaction t x1 x2)) ∧
    (∀ x1, Moves [.stacks, .sharing] [⟨0x9010, 0x901F, 3, 3⟩, ⟨0xA000, 0xA000, 1, 1⟩] s (.stretchTimeout t x1)) ∧
    (∀ x1, Moves [.stacks, .sharing] [⟨0x9010, 0x901F, 3, 3⟩, ⟨0xA000, 0xA000, 1, 1⟩] s (.pollTimeout t x1)) ∧
    (∀ x1 x2 x3 x4, Moves [.plate, .stacks, .sharing] [⟨0x9010, 0x901F, 2, 8⟩, ⟨0xA000, 0xA000, 1, 1⟩] s (.stackReadDone t x1 x2 x3 x4)) ∧
    (∀ x1 x2, Moves [.stacks, .sharing] [⟨0x9000, 0x9000, 5, 5⟩, ⟨0x9010, 0x901F, 3, 3⟩, ⟨0xA000, 0xA000, 1, 1⟩] s (.flush t x1 x2)) ∧
    (∀ x1 x2, Moves [.stacks, .sharing] [⟨0x9000, 0x9000, 5, 5⟩, ⟨0x9010, 0x901F, 3, 3⟩, ⟨0xA000, 0xA000, 1, 1⟩] s (.rescan t x1 x2)) ∧
    (∀ x1, Moves [.stacks, .sharing] [⟨0x9000, 0x9000, 5, 5⟩, ⟨0x9010, 0x901F, 3, 3⟩, ⟨0xA000, 0xA000, 1, 1⟩] s (.initRecord t x1)) ∧
    (∀ x1 x2, Moves [.stacks] [⟨0x9000, 0x9000, 5, 5⟩, ⟨0x9010, 0x901F, 3, 3⟩] s (.bringIn t x1 x2)) ∧
    (∀ x1, Moves [.stacks] [⟨0x9000, 0x9000, 5, 5⟩, ⟨0x9010, 0x901F, 3, 3⟩] s (.cancelBringIn t x1)) ∧
    (∀ x1, Moves [.stacks, .sharing] [⟨0x9010, 0x901F, 3, 3⟩, ⟨0xA000, 0xA000, 1, 1⟩] s (.lifeWriteInterval t x1)) ∧
    (∀ x1, Moves [.plate, .stacks, .sharing, .out] [⟨0x9010, 0x901F, 3, 3⟩, ⟨0x9010, 0x901F, 5, 9⟩, ⟨0xA000, 0xA000, 1, 1⟩] s (.lifeWritten t x1)) ∧
    (Moves [.graphs, .stacks] [⟨0x9010, 0x901F, 6, 6⟩, ⟨0x9010, 0x901F, 8, 8⟩] s (.rainflowPosting t)) ∧
    (∀ x1, Moves [.stacks] [⟨0x9010, 0x901F, 4, 4⟩] s (.stackHours t x1)) ∧
    (Moves [.graphs, .stacks] [⟨0x9010, 0x901F, 3, 3⟩, ⟨0x9010, 0x901F, 7, 7⟩] s (.wearEvaluation t)) ∧
    (∀ x1, Moves [.graphs, .plate, .stacks] [⟨0x9010, 0x901F, 3, 3⟩, ⟨0x9010, 0x901F, 7, 7⟩] s (.spareCrossingCheck t x1)) ∧
    (∀ x1, Moves [.stacks] [⟨0x9010, 0x901F, 3, 3⟩] s (.spareSwapTimeout t x1))

/-- The frame of the commands of safety and sharing: each moves only the parts and the objects named for it (indices from and to, subindices
from and to), beside what an event moves. -/
def Obligations.SafetyAndSharingFrames : Prop :=
  ∀ (s : State) (t : Nat),
    (Moves [.meas, .gf, .plate, .stacks, .safety, .sharing] [⟨0x2500, 0x2503, 6, 6⟩, ⟨0x2500, 0x2503, 8, 9⟩, ⟨0x4001, 0x4001, 3, 4⟩, ⟨0x5300,
      0x5300, 4, 4⟩, ⟨0x5320, 0x5320, 2, 2⟩, ⟨0x6800, 0x6800, 2, 2⟩, ⟨0x9010, 0x901F, 3, 3⟩, ⟨0xA000, 0xA000, 1, 1⟩, ⟨0xB000, 0xB000, 1, 1⟩,
      ⟨0xB000, 0xB000, 4, 4⟩] s (.safetyChannelFault t)) ∧
    (∀ x1 x2 x3 x4, Moves [.gf, .plate, .safety] [⟨0x5300, 0x5300, 4, 4⟩, ⟨0x5320, 0x5320, 2, 2⟩, ⟨0x6800, 0x6800, 1, 2⟩, ⟨0x6800, 0x6800, 7,
      7⟩, ⟨0x6800, 0x6800, 11, 11⟩] s (.sealReadingAccepted t x1 x2 x3 x4)) ∧
    (∀ x1 x2 x3 x4, Moves [.gf, .safety] [⟨0x6800, 0x6800, 2, 3⟩, ⟨0x6800, 0x6800, 7, 7⟩, ⟨0x6800, 0x6800, 11, 11⟩] s (.sinFilterExpiry t x1 x2
      x3 x4)) ∧
    (∀ x1, Moves [.safety] [⟨0x6800, 0x6800, 2, 2⟩] s (.sinDiscrepancy t x1)) ∧
    (∀ x1, Moves [.safety] [⟨0x6800, 0x6800, 4, 4⟩] s (.soutRequestWrite t x1)) ∧
    (∀ x1, Moves [.safety, .out] [] s (.soutTestPulse t x1)) ∧
    (∀ x1 x2 x3, Moves [.gf, .safety] [⟨0x6800, 0x6800, 2, 2⟩, ⟨0x6800, 0x6800, 8, 9⟩] s (.soutTestEnd t x1 x2 x3)) ∧
    (∀ x1 x2 x3, Moves [.gf, .safety] [⟨0x6800, 0x6800, 2, 2⟩] s (.soutStuckOn t x1 x2 x3)) ∧
    (∀ x1, Moves [.safety] [⟨0x6800, 0x6800, 2, 2⟩, ⟨0x6800, 0x6800, 10, 10⟩] s (.safetyReset t x1)) ∧
    (Moves [.safety] [⟨0x6800, 0x6800, 2, 2⟩] s (.resetStuck t)) ∧
    (Moves [.safety] [⟨0x6800, 0x6800, 2, 2⟩] s (.resetDiscrepancy t)) ∧
    (Moves [.safety] [⟨0x6800, 0x6800, 2, 2⟩] s (.resetBlockEnd t)) ∧
    (∀ x1 x2 x3 x4 x5 x6 x7 x8, Moves [.stacks, .sharing, .out] [⟨0x9010, 0x901F, 3, 3⟩, ⟨0xA000, 0xA000, 1, 2⟩] s
      (.arbiterRequest t x1 x2 x3 x4 x5 x6 x7 x8)) ∧
    (∀ x1 x2 x3 x4, Moves [.stacks, .sharing, .out] [⟨0x9010, 0x901F, 3, 3⟩, ⟨0xA000, 0xA000, 1, 2⟩] s (.semaphoreRequest t x1 x2 x3 x4)) ∧
    (∀ x1 x2 x3, Moves [.sharing, .out] [] s (.semaphoreRelease t x1 x2 x3)) ∧
    (∀ x1, Moves [.sharing, .out] [⟨0xA000, 0xA000, 1, 1⟩, ⟨0xA000, 0xA000, 3, 3⟩] s (.semaphoreLeaseExpired t x1))

/-- The frame of the commands of time, PTP and clocks: each moves only the parts and the objects named for it (indices from and to,
subindices from and to), beside what an event moves. -/
def Obligations.TimeAndClocksFrames : Prop :=
  ∀ (s : State) (t : Nat),
    (∀ x1, Moves [] [⟨0x7000, 0x7000, 2, 2⟩, ⟨0x7000, 0x7000, 5, 5⟩] s (.incrementWrite t x1)) ∧
    (∀ x1, Moves [.clock] [⟨0x7000, 0x7000, 5, 5⟩] s (.timeSet t x1)) ∧
    (∀ x1, Moves [.clock] [⟨0x7000, 0x7000, 5, 5⟩] s (.timeAdjust t x1)) ∧
    (Moves [.time, .meas, .graphs, .gf, .plate, .stacks, .sides, .sharing, .clock, .capture, .scribe, .net, .boot] [⟨0x7000, 0x7000, 6, 7⟩] s (.timeStep
      t)) ∧
    (∀ x1 x2 x3 x4 x5 x6 x7, Moves [.ptp, .clock] [⟨0x7000, 0x7000, 2, 2⟩, ⟨0x7000, 0x7000, 5, 5⟩, ⟨0x7000, 0x7000, 8, 8⟩, ⟨0x7010, 0x7010, 7, 8⟩,
      ⟨0x7020, 0x7020, 7, 7⟩, ⟨0x7028, 0x7029, 2, 2⟩] s (.ptpSyncReceived t x1 x2 x3 x4 x5 x6 x7)) ∧
    (∀ x1 x2, Moves [.ptp, .clock] [⟨0x7000, 0x7000, 5, 5⟩, ⟨0x7000, 0x7000, 8, 8⟩, ⟨0x7028, 0x7029, 2, 3⟩] s (.pathDelayMeasurement t x1 x2)) ∧
    (∀ x1 x2, Moves [.ptp] [⟨0x7028, 0x7029, 2, 4⟩] s (.pathConfirm t x1 x2)) ∧
    (∀ x1 x2 x3 x4 x5 x6 x7 x8 x9 x10 x11, Moves [.ptp] [⟨0x7028, 0x7029, 1, 2⟩] s
      (.ptpAnnounceReceived t x1 x2 x3 x4 x5 x6 x7 x8 x9 x10 x11)) ∧
    (∀ x1, Moves [.ptp, .clock] [⟨0x7000, 0x7000, 5, 5⟩, ⟨0x7000, 0x7000, 8, 8⟩, ⟨0x7028, 0x7029, 1, 2⟩] s (.announceTimeout t x1)) ∧
    (Moves [.clock] [⟨0x7000, 0x7000, 5, 5⟩] s (.holdoverValidExpiry t)) ∧
    (∀ x1, Moves [.clock] [⟨0x7000, 0x7000, 2, 2⟩, ⟨0x7000, 0x7000, 5, 5⟩, ⟨0x7010, 0x7010, 7, 8⟩, ⟨0x7030, 0x7030, 4, 4⟩] s (.ppsInEdge t x1)) ∧
    (Moves [.clock] [⟨0x7000, 0x7000, 5, 5⟩, ⟨0x7000, 0x7000, 8, 8⟩] s (.ppsInTimeout t)) ∧
    (∀ x1, Moves [.ptp, .net, .out] [] s (.ptpSyncSend t x1)) ∧
    (Moves [.clock, .out] [] s (.ppsOutPulse t)) ∧
    (Moves [.clock] [⟨0x7030, 0x7030, 5, 6⟩] s (.leapSecond t)) ∧
    (∀ x1 x2 x3, Moves [.meas, .gf, .plate, .stacks, .safety, .sharing, .clock] [⟨0x2500, 0x2503, 6, 6⟩, ⟨0x2500, 0x2503, 8, 9⟩, ⟨0x4001, 0x4001,
      3, 4⟩, ⟨0x5300, 0x5300, 4, 4⟩, ⟨0x5320, 0x5320, 2, 2⟩, ⟨0x6800, 0x6800, 2, 2⟩, ⟨0x7040, 0x7040, 2, 3⟩, ⟨0x9010, 0x901F, 3, 3⟩, ⟨0xA000, 0xA000,
      1, 1⟩, ⟨0xB000, 0xB000, 1, 1⟩, ⟨0xB000, 0xB000, 4, 4⟩] s (.refFault t x1 x2 x3)) ∧
    (∀ x1, Moves [.clock] [⟨0x7040, 0x7040, 2, 2⟩] s (.refSwitchCommand t x1)) ∧
    (∀ x1, Moves [] [⟨0x7040, 0x7040, 2, 3⟩] s (.refDisagree t x1)) ∧
    (∀ x1, Moves [.plls] [⟨0x7050, 0x7050, 1, 1⟩, ⟨0x7100, 0x7104, 3, 3⟩, ⟨0x7100, 0x7104, 6, 7⟩] s (.pllStart t x1)) ∧
    (∀ x1, Moves [.clock, .plls] [⟨0x7100, 0x7104, 3, 5⟩] s (.pllLock t x1)) ∧
    (∀ x1, Moves [.plls] [⟨0x7100, 0x7104, 3, 3⟩] s (.pllRetryBand t x1)) ∧
    (∀ x1, Moves [.sides, .plls] [⟨0x6021, 0x6021, 1, 1⟩, ⟨0x7100, 0x7104, 3, 3⟩] s (.pllSweep t x1)) ∧
    (∀ x1 x2, Moves [.meas, .graphs, .gf, .plate, .stacks, .sides, .safety, .sharing, .clock, .plls, .capture] [⟨0x2100, 0x213F, 11, 11⟩, ⟨0x2500,
      0x2503, 6, 6⟩, ⟨0x2500, 0x2503, 8, 9⟩, ⟨0x4001, 0x4001, 3, 4⟩, ⟨0x5200, 0x5247, 8, 8⟩, ⟨0x5300, 0x5300, 4, 4⟩, ⟨0x5320, 0x5320, 2, 2⟩,
      ⟨0x6000, 0x6000, 2, 2⟩, ⟨0x6021, 0x6021, 1, 4⟩, ⟨0x6800, 0x6800, 2, 2⟩, ⟨0x7000, 0x7000, 5, 5⟩, ⟨0x7000, 0x7000, 8, 8⟩, ⟨0x7050, 0x7050,
      1, 1⟩, ⟨0x7100, 0x7104, 3, 5⟩, ⟨0x7100, 0x7104, 7, 7⟩, ⟨0x9010, 0x901F, 3, 3⟩, ⟨0xA000, 0xA000, 1, 1⟩, ⟨0xB000, 0xB000, 1, 1⟩, ⟨0xB000,
      0xB000, 4, 4⟩] s (.pllSweepDone t x1 x2)) ∧
    (∀ x1 x2, Moves [.meas, .graphs, .gf, .plate, .stacks, .sides, .safety, .sharing, .clock, .plls, .capture] [⟨0x2100, 0x213F, 11, 11⟩, ⟨0x2500,
      0x2503, 6, 6⟩, ⟨0x2500, 0x2503, 8, 9⟩, ⟨0x4001, 0x4001, 3, 4⟩, ⟨0x5200, 0x5247, 8, 8⟩, ⟨0x5300, 0x5300, 4, 4⟩, ⟨0x5320, 0x5320, 2, 2⟩,
      ⟨0x6000, 0x6000, 2, 2⟩, ⟨0x6021, 0x6021, 1, 4⟩, ⟨0x6030, 0x6031, 1, 1⟩, ⟨0x6800, 0x6800, 2, 2⟩, ⟨0x7000, 0x7000, 5, 5⟩, ⟨0x7000, 0x7000,
      8, 8⟩, ⟨0x7050, 0x7050, 1, 1⟩, ⟨0x7100, 0x7104, 3, 3⟩, ⟨0x7100, 0x7104, 6, 7⟩, ⟨0x7200, 0x7207, 2, 2⟩, ⟨0x9010, 0x901F, 3, 3⟩, ⟨0xA000,
      0xA000, 1, 1⟩] s (.pllLockLost t x1 x2)) ∧
    (∀ x1, Moves [.clock] [⟨0x7060, 0x7060, 2, 2⟩] s (.clkoutStart t x1)) ∧
    (∀ x1, Moves [.clock] [⟨0x7060, 0x7060, 2, 2⟩] s (.clkoutStop t x1)) ∧
    (∀ x1, Moves [.clock] [⟨0x7200, 0x7207, 2, 2⟩] s (.clkoutGateOpen t x1)) ∧
    (∀ x1, Moves [.clock] [⟨0x7200, 0x7207, 2, 2⟩] s (.clkoutGateClose t x1)) ∧
    (∀ x1, Moves [.clock] [⟨0x7050, 0x7050, 1, 1⟩, ⟨0x7100, 0x7104, 3, 3⟩] s (.trussClockSwitch t x1)) ∧
    (∀ x1, Moves [.clock] [⟨0x7050, 0x7050, 1, 1⟩] s (.switchDeferred t x1)) ∧
    (∀ x1, Moves [.ptp, .net, .out] [] s (.ptpDelayRequestSend t x1)) ∧
    (∀ x1, Moves [.ptp, .net, .out] [] s (.ptpAnnounceSend t x1))

/-- The frame of the commands of capture, scribe and counters: each moves only the parts and the objects named for it (indices from and to,
subindices from and to), beside what an event moves. -/
def Obligations.CaptureAndScribeFrames : Prop :=
  ∀ (s : State) (t : Nat),
    (∀ x1 x2, Moves [.capture] [] s (.arm t x1 x2)) ∧
    (∀ x1, Moves [.capture] [] s (.disarm t x1)) ∧
    (∀ x1, Moves [] [] s (.trigger t x1)) ∧
    (∀ x1, Moves [.capture] [] s (.release t x1)) ∧
    (∀ x1 x2 x3 x4, Moves [.capture] [⟨0x8000, 0x8000, 2, 2⟩, ⟨0x8010, 0x8017, 12, 13⟩] s (.captureRow t x1 x2 x3 x4)) ∧
    (∀ x1, Moves [.capture] [] s (.streamBacklogHalving t x1)) ∧
    (∀ x1, Moves [.capture, .net, .out] [] s (.captureStreamSend t x1)) ∧
    (∀ x1 x2, Moves [.capture] [] s (.segmentHoldExpiry t x1 x2)) ∧
    (∀ x1 x2, Moves [.net] [] s (.segmentSelect t x1 x2)) ∧
    (∀ x1, Moves [.capture, .net, .out] [] s (.segmentRowsRead t x1)) ∧
    (∀ x1, Moves [] [⟨0x8100, 0x8100, 3, 3⟩, ⟨0x8100, 0x8100, 9, 9⟩] s (.hoursSeed t x1)) ∧
    (∀ x1, Moves [] [⟨0x8100, 0x8100, 3, 3⟩, ⟨0x8100, 0x8100, 10, 10⟩] s (.powerCycleSeed t x1)) ∧
    (Moves [.scribe] [⟨0x8100, 0x8100, 9, 9⟩] s (.operatingHoursTick t)) ∧
    (∀ x1, Moves [.scribe] [⟨0x8110, 0x814F, 1, 1⟩, ⟨0x8110, 0x814F, 4, 7⟩] s (.histogramSample t x1)) ∧
    (∀ x1, Moves [.scribe] [] s (.histogramClear t x1)) ∧
    (∀ x1, Moves [] [⟨0x8100, 0x8100, 3, 3⟩] s (.scribeNote t x1)) ∧
    (∀ x1, Moves [.scribe] [] s (.scribeTokenRefill t x1)) ∧
    (∀ x1, Moves [.net, .out] [] s (.scribeRecordsRead t x1)) ∧
    (∀ x1, Moves [.net, .out] [] s (.compatRecordsRead t x1)) ∧
    (∀ x1, Moves [.scribe] [] s (.startCounters t x1)) ∧
    (∀ x1, Moves [.scribe] [] s (.stopCounters t x1)) ∧
    (∀ x1, Moves [.scribe] [] s (.clearCounters t x1)) ∧
    (∀ x1 x2, Moves [.scribe] [] s (.counterWrite t x1 x2)) ∧
    (∀ x1 x2, Moves [.net, .out] [] s (.counterReadLatch t x1 x2)) ∧
    (∀ x1 x2, Moves [] [] s (.counterOverflow t x1 x2)) ∧
    (∀ x1 x2 x3, Moves [.scribe] [⟨0x8210, 0x8211, 3, 3⟩] s (.tagRecord t x1 x2 x3)) ∧
    (∀ x1 x2, Moves [.net, .out] [] s (.tagRecordsRead t x1 x2))

/-- The frame of the commands of messages, sets, objects and frames: each moves only the parts and the objects named for it (indices from
and to, subindices from and to), beside what an event moves. -/
def Obligations.CommunicationFrames : Prop :=
  ∀ (s : State) (t : Nat),
    (∀ x1 x2, Moves [.net, .out] [] s (.arpRequest t x1 x2)) ∧
    (∀ x1 x2, Moves [.net, .out] [] s (.icmpEcho t x1 x2)) ∧
    (Moves [.net, .out] [] s (.supervisionFrameSend t)) ∧
    (∀ x1, Moves [] [⟨0x1020, 0x1020, 5, 5⟩] s (.lanFault t x1)) ∧
    (∀ x1, Moves [.net] [⟨0x1020, 0x1020, 5, 5⟩] s (.ringFault t x1)) ∧
    (∀ x1 x2, Moves [] [⟨0x1020, 0x1020, 5, 5⟩] s (.portLinkChange t x1 x2)) ∧
    (∀ x1, Moves [.net, .out] [⟨0x1030, 0x1030, 7, 7⟩] s (.identify t x1)) ∧
    (∀ x1, Moves [.net, .out] [⟨0x1000, 0x1000, 6, 7⟩, ⟨0x1030, 0x1030, 1, 4⟩, ⟨0x1030, 0x1030, 7, 7⟩] s (.keyLoad t x1)) ∧
    (∀ x1, Moves [.capture, .net, .out, .free] [⟨0x1030, 0x1030, 7, 7⟩] s (.openSession t x1)) ∧
    (∀ x1, Moves [.capture, .net, .out] [⟨0x1030, 0x1030, 7, 7⟩] s (.closeSession t x1)) ∧
    (∀ x1, Moves [.graphs, .capture, .net, .out] [⟨0x1030, 0x1030, 7, 7⟩] s (.readObjects t x1)) ∧
    (∀ x1, Moves [.capture, .net, .out] [⟨0x1030, 0x1030, 7, 7⟩] s (.keepalive t x1)) ∧
    (∀ x1, Moves [.net] [] s (.sourceBlockEnd t x1)) ∧
    (∀ x1, Moves [.capture, .net] [] s (.sessionIdleTimeout t x1)) ∧
    (Moves [.net, .out] [] s (.bootFetch t)) ∧
    (Moves [.out] [] s (.bootStatus t)) ∧
    (∀ x1 x2, Moves [.net, .out] [] s (.beginSet t x1 x2)) ∧
    (∀ x1, Moves [.net, .out] [] s (.commitSet t x1)) ∧
    (∀ x1, Moves [.net, .out] [] s (.abortSet t x1)) ∧
    (Moves [.net] [] s (.setIdleTimeout t)) ∧
    (∀ x1 x2 x3, Moves [.net, .out] [] s (.configObjectWrite t x1 x2 x3)) ∧
    (∀ x1 x2, Moves [.net] [] s (.segmentedWriteTimeout t x1 x2)) ∧
    (∀ x1 x2, Moves [.net] [] s (.snapshotTimeout t x1 x2)) ∧
    (∀ x1, Moves [] [⟨0x1200, 0x1200, 1, 1⟩] s (.pendingClear t x1)) ∧
    (∀ x1, Moves [] [⟨0x1200, 0x1200, 2, 2⟩] s (.countClear t x1)) ∧
    (∀ x1, Moves [.net, .out] [] s (.notifyHoldoffExpiry t x1))
end

