-- ==== Sys2Proof/Laws/Store.lean ====
section
/-!
SUPPORT. Laws of sparse stores: what is read after a write, and the canonical form.
-/

set_option Elab.async false
namespace Sys2Proof.Machine

variable {α : Type}

@[simp] theorem find_nil (k : Nat) : Store.find k ([] : Store α) = none := rfl

theorem find_filter_same (k : Nat) (l : Store α) : Store.find k (l.filter (fun e => e.1 != k)) = none := by
  induction l with
  | nil => rfl
  | cons e l ih =>
    obtain ⟨k', v'⟩ := e
    by_cases h : k' = k <;> simp [Store.find, h, ih]

theorem find_filter_other {k k' : Nat} (h : k' ≠ k) (l : Store α) :
    Store.find k' (l.filter (fun e => e.1 != k)) = Store.find k' l := by
  induction l with
  | nil => rfl
  | cons e l ih =>
    obtain ⟨a, v⟩ := e
    by_cases ha : a = k
    · subst ha; simp [Store.find, ih, Ne.symm h]
    · simp [Store.find, ha, ih]

theorem find_ins_same (k : Nat) (v : α) (l : Store α) (h : Store.find k l = none) : Store.find k (Store.ins k v l) = some v := by
  induction l with
  | nil => simp [Store.ins, Store.find]
  | cons e l ih =>
    obtain ⟨a, w⟩ := e
    by_cases ha : a = k
    · simp [Store.find, ha] at h
    · simp only [Store.find, ha, if_false] at h
      by_cases hl : k < a <;> simp [Store.ins, Store.find, hl, ha, ih h]

theorem find_ins_other {k k' : Nat} (hk : k' ≠ k) (v : α) (l : Store α) : Store.find k' (Store.ins k v l) = Store.find k' l := by
  induction l with
  | nil => simp [Store.ins, Store.find, Ne.symm hk]
  | cons e l ih =>
    obtain ⟨a, w⟩ := e
    by_cases hl : k < a
    · simp [Store.ins, Store.find, hl, Ne.symm hk]
    · simp [Store.ins, Store.find, hl, ih]

variable [DecidableEq α]

theorem find_put_same (d : α) (k : Nat) (v : α) (l : Store α) :
    Store.find k (Store.put d k v l) = if v = d then none else some v := by
  by_cases h : v = d <;> simp [Store.put, h, find_filter_same, find_ins_same]

theorem find_put_other (d : α) {k k' : Nat} (h : k' ≠ k) (v : α) (l : Store α) :
    Store.find k' (Store.put d k v l) = Store.find k' l := by
  by_cases hv : v = d <;> simp [Store.put, hv, find_ins_other h, find_filter_other h]

/-- What a write puts is read back. -/
@[simp] theorem get_put_same (d : α) (k : Nat) (v : α) (l : Store α) : Store.get d k (Store.put d k v l) = v := by
  by_cases h : v = d <;> simp [Store.get, find_put_same, h]

/-- A write leaves every other key alone. -/
theorem get_put_other (d d' : α) {k k' : Nat} (h : k' ≠ k) (v : α) (l : Store α) :
    Store.get d' k' (Store.put d k v l) = Store.get d' k' l := by simp [Store.get, find_put_other d h]

/-- A read after a write, the keys compared. -/
theorem get_put (d : α) (k k' : Nat) (v : α) (l : Store α) :
    Store.get d k' (Store.put d k v l) = if k' = k then v else Store.get d k' l := by
  by_cases h : k' = k
  · subst h; simp
  · simp [h, get_put_other d d h]

/-- A read after a change of one entry. -/
theorem get_mod (d : α) (k k' : Nat) (f : α → α) (l : Store α) :
    Store.get d k' (Store.mod d k f l) = if k' = k then f (Store.get d k l) else Store.get d k' l := by
  simp [Store.mod, get_put]

/-! ### The canonical form -/

/-- Every key of a store is greater than one. -/
def Above (k : Nat) (l : Store α) : Prop := ∀ e ∈ l, k < e.1

omit [DecidableEq α] in
theorem above_ins {a k : Nat} (v : α) {l : Store α} (h : Above a l) (hk : a < k) : Above a (Store.ins k v l) := by
  induction l with
  | nil => simpa [Store.ins, Above] using hk
  | cons e l ih =>
    obtain ⟨b, w⟩ := e
    have hb : a < b := h (b, w) (by simp)
    have hl : Above a l := fun e he => h e (by simp [he])
    unfold Store.ins
    split
    · intro e he
      simp only [List.mem_cons] at he
      rcases he with rfl | rfl | he
      · exact hk
      · exact hb
      · exact hl e he
    · intro e he
      simp only [List.mem_cons] at he
      rcases he with rfl | he
      · exact hb
      · exact ih hl e he

/-- The canonical form, said by its head. -/
theorem wf_cons (d : Nat → α) (k : Nat) (v : α) (l : Store α) :
    Store.wf d ((k, v) :: l) = true ↔ v ≠ d k ∧ Above k l ∧ Store.wf d l = true := by
  induction l generalizing k v with
  | nil => simp [Store.wf, Above]
  | cons e l ih =>
    obtain ⟨a, w⟩ := e
    rw [Store.wf, Bool.and_eq_true, Bool.and_eq_true, decide_eq_true_iff, decide_eq_true_iff]
    constructor
    · rintro ⟨⟨hv, hk⟩, hw⟩
      refine ⟨hv, ?_, hw⟩
      intro e he
      simp only [List.mem_cons] at he
      rcases he with rfl | he
      · exact hk
      · exact Nat.lt_trans hk (((ih a w).mp hw).2.1 e he)
    · rintro ⟨hv, ha, hw⟩
      exact ⟨⟨hv, ha (a, w) (by simp)⟩, hw⟩

theorem wf_filter (d : Nat → α) (p : Nat × α → Bool) (l : Store α) (h : Store.wf d l = true) : Store.wf d (l.filter p) = true := by
  induction l with
  | nil => rfl
  | cons e l ih =>
    obtain ⟨k, v⟩ := e
    obtain ⟨hv, ha, hl⟩ := (wf_cons d k v l).mp h
    by_cases hp : p (k, v) = true
    · rw [List.filter_cons, if_pos hp, wf_cons]
      exact ⟨hv, fun e he => ha e (List.mem_filter.mp he).1, ih hl⟩
    · rw [List.filter_cons, if_neg hp]
      exact ih hl

theorem wf_ins (d : Nat → α) (k : Nat) (v : α) (l : Store α) (hv : v ≠ d k) (hn : ∀ e ∈ l, e.1 ≠ k) (h : Store.wf d l = true) :
    Store.wf d (Store.ins k v l) = true := by
  induction l with
  | nil => simpa [Store.ins, Store.wf] using hv
  | cons e l ih =>
    obtain ⟨a, w⟩ := e
    obtain ⟨hw, ha, hl⟩ := (wf_cons d a w l).mp h
    unfold Store.ins
    split
    · rename_i hk
      refine (wf_cons d k v _).mpr ⟨hv, ?_, h⟩
      intro e he
      simp only [List.mem_cons] at he
      rcases he with rfl | he
      · exact hk
      · exact Nat.lt_trans hk (ha e he)
    · rename_i hk
      have hne : a ≠ k := hn (a, w) (by simp)
      exact (wf_cons d a w _).mpr ⟨hw, above_ins v ha (by omega), ih (fun e he => hn e (by simp [he])) hl⟩

/-- A write keeps the canonical form. -/
theorem put_wf (d : Nat → α) (k : Nat) (v : α) (l : Store α) (h : Store.wf d l = true) : Store.wf d (Store.put (d k) k v l) = true := by
  unfold Store.put
  split
  · exact wf_filter d _ l h
  · rename_i hv
    refine wf_ins d k v _ hv ?_ (wf_filter d _ l h)
    intro e he
    simpa using (List.mem_filter.mp he).2

end Sys2Proof.Machine
end

