-- ==== Sys2Proof/Laws/State.lean ====
section
/-!
SUPPORT. What each update of the state leaves alone, field by field, and what is read after it.
-/

set_option Elab.async false
namespace Sys2Proof.Machine

variable (s : State)

/-! ### Fields -/

@[simp] theorem State.putVal_frame (k : Nat) (v : Val) :
    (s.putVal k v).pending = s.pending ∧ (s.putVal k v).now = s.now ∧ (s.putVal k v).ridge = s.ridge ∧ (s.putVal k v).meas = s.meas ∧
    (s.putVal k v).graphs = s.graphs ∧ (s.putVal k v).gf = s.gf ∧ (s.putVal k v).plate = s.plate ∧ (s.putVal k v).stk = s.stk ∧
    (s.putVal k v).sides = s.sides ∧ (s.putVal k v).safety = s.safety ∧ (s.putVal k v).sharing = s.sharing ∧ (s.putVal k v).ptp = s.ptp ∧
    (s.putVal k v).clock = s.clock ∧ (s.putVal k v).plls = s.plls ∧ (s.putVal k v).capture = s.capture ∧
    (s.putVal k v).scribe = s.scribe ∧ (s.putVal k v).net = s.net ∧ (s.putVal k v).boot = s.boot ∧ (s.putVal k v).out = s.out ∧
    (s.putVal k v).freeCount = s.freeCount :=
  ⟨rfl, rfl, rfl, rfl, rfl, rfl, rfl, rfl, rfl, rfl, rfl, rfl, rfl, rfl, rfl, rfl, rfl, rfl, rfl, rfl⟩

@[simp] theorem State.setNum_frame (i j v : Nat) :
    (s.setNum i j v).pending = s.pending ∧ (s.setNum i j v).now = s.now ∧ (s.setNum i j v).ridge = s.ridge ∧
    (s.setNum i j v).meas = s.meas ∧ (s.setNum i j v).graphs = s.graphs ∧ (s.setNum i j v).gf = s.gf ∧ (s.setNum i j v).plate = s.plate ∧
    (s.setNum i j v).stk = s.stk ∧ (s.setNum i j v).sides = s.sides ∧ (s.setNum i j v).safety = s.safety ∧
    (s.setNum i j v).sharing = s.sharing ∧ (s.setNum i j v).ptp = s.ptp ∧ (s.setNum i j v).clock = s.clock ∧
    (s.setNum i j v).plls = s.plls ∧ (s.setNum i j v).capture = s.capture ∧ (s.setNum i j v).scribe = s.scribe ∧
    (s.setNum i j v).net = s.net ∧ (s.setNum i j v).boot = s.boot ∧ (s.setNum i j v).out = s.out ∧
    (s.setNum i j v).freeCount = s.freeCount :=
  ⟨rfl, rfl, rfl, rfl, rfl, rfl, rfl, rfl, rfl, rfl, rfl, rfl, rfl, rfl, rfl, rfl, rfl, rfl, rfl, rfl⟩

@[simp] theorem State.setBlob_frame (i j : Nat) (b : List Nat) :
    (s.setBlob i j b).pending = s.pending ∧ (s.setBlob i j b).now = s.now ∧ (s.setBlob i j b).ridge = s.ridge ∧
    (s.setBlob i j b).meas = s.meas ∧ (s.setBlob i j b).graphs = s.graphs ∧ (s.setBlob i j b).gf = s.gf ∧
    (s.setBlob i j b).plate = s.plate ∧ (s.setBlob i j b).stk = s.stk ∧ (s.setBlob i j b).sides = s.sides ∧
    (s.setBlob i j b).safety = s.safety ∧ (s.setBlob i j b).sharing = s.sharing ∧ (s.setBlob i j b).ptp = s.ptp ∧
    (s.setBlob i j b).clock = s.clock ∧ (s.setBlob i j b).plls = s.plls ∧ (s.setBlob i j b).capture = s.capture ∧
    (s.setBlob i j b).scribe = s.scribe ∧ (s.setBlob i j b).net = s.net ∧ (s.setBlob i j b).boot = s.boot ∧
    (s.setBlob i j b).out = s.out ∧ (s.setBlob i j b).freeCount = s.freeCount :=
  ⟨rfl, rfl, rfl, rfl, rfl, rfl, rfl, rfl, rfl, rfl, rfl, rfl, rfl, rfl, rfl, rfl, rfl, rfl, rfl, rfl⟩

@[simp] theorem State.setFld_frame (i j hi lo v : Nat) :
    (s.setFld i j hi lo v).pending = s.pending ∧ (s.setFld i j hi lo v).now = s.now ∧ (s.setFld i j hi lo v).ridge = s.ridge ∧
    (s.setFld i j hi lo v).meas = s.meas ∧ (s.setFld i j hi lo v).graphs = s.graphs ∧ (s.setFld i j hi lo v).gf = s.gf ∧
    (s.setFld i j hi lo v).plate = s.plate ∧ (s.setFld i j hi lo v).stk = s.stk ∧ (s.setFld i j hi lo v).sides = s.sides ∧
    (s.setFld i j hi lo v).safety = s.safety ∧ (s.setFld i j hi lo v).sharing = s.sharing ∧ (s.setFld i j hi lo v).ptp = s.ptp ∧
    (s.setFld i j hi lo v).clock = s.clock ∧ (s.setFld i j hi lo v).plls = s.plls ∧ (s.setFld i j hi lo v).capture = s.capture ∧
    (s.setFld i j hi lo v).scribe = s.scribe ∧ (s.setFld i j hi lo v).net = s.net ∧ (s.setFld i j hi lo v).boot = s.boot ∧
    (s.setFld i j hi lo v).out = s.out ∧ (s.setFld i j hi lo v).freeCount = s.freeCount :=
  ⟨rfl, rfl, rfl, rfl, rfl, rfl, rfl, rfl, rfl, rfl, rfl, rfl, rfl, rfl, rfl, rfl, rfl, rfl, rfl, rfl⟩

@[simp] theorem State.setBitO_frame (i j n : Nat) (b : Bool) :
    (s.setBitO i j n b).pending = s.pending ∧ (s.setBitO i j n b).now = s.now ∧ (s.setBitO i j n b).ridge = s.ridge ∧
    (s.setBitO i j n b).meas = s.meas ∧ (s.setBitO i j n b).graphs = s.graphs ∧ (s.setBitO i j n b).gf = s.gf ∧
    (s.setBitO i j n b).plate = s.plate ∧ (s.setBitO i j n b).stk = s.stk ∧ (s.setBitO i j n b).sides = s.sides ∧
    (s.setBitO i j n b).safety = s.safety ∧ (s.setBitO i j n b).sharing = s.sharing ∧ (s.setBitO i j n b).ptp = s.ptp ∧
    (s.setBitO i j n b).clock = s.clock ∧ (s.setBitO i j n b).plls = s.plls ∧ (s.setBitO i j n b).capture = s.capture ∧
    (s.setBitO i j n b).scribe = s.scribe ∧ (s.setBitO i j n b).net = s.net ∧ (s.setBitO i j n b).boot = s.boot ∧
    (s.setBitO i j n b).out = s.out ∧ (s.setBitO i j n b).freeCount = s.freeCount :=
  ⟨rfl, rfl, rfl, rfl, rfl, rfl, rfl, rfl, rfl, rfl, rfl, rfl, rfl, rfl, rfl, rfl, rfl, rfl, rfl, rfl⟩

@[simp] theorem State.incSat_frame (i j : Nat) :
    (s.incSat i j).pending = s.pending ∧ (s.incSat i j).now = s.now ∧ (s.incSat i j).ridge = s.ridge ∧ (s.incSat i j).meas = s.meas ∧
    (s.incSat i j).graphs = s.graphs ∧ (s.incSat i j).gf = s.gf ∧ (s.incSat i j).plate = s.plate ∧ (s.incSat i j).stk = s.stk ∧
    (s.incSat i j).sides = s.sides ∧ (s.incSat i j).safety = s.safety ∧ (s.incSat i j).sharing = s.sharing ∧ (s.incSat i j).ptp = s.ptp ∧
    (s.incSat i j).clock = s.clock ∧ (s.incSat i j).plls = s.plls ∧ (s.incSat i j).capture = s.capture ∧
    (s.incSat i j).scribe = s.scribe ∧ (s.incSat i j).net = s.net ∧ (s.incSat i j).boot = s.boot ∧ (s.incSat i j).out = s.out ∧
    (s.incSat i j).freeCount = s.freeCount :=
  ⟨rfl, rfl, rfl, rfl, rfl, rfl, rfl, rfl, rfl, rfl, rfl, rfl, rfl, rfl, rfl, rfl, rfl, rfl, rfl, rfl⟩

@[simp] theorem State.incWrap_frame (i j : Nat) :
    (s.incWrap i j).pending = s.pending ∧ (s.incWrap i j).now = s.now ∧ (s.incWrap i j).ridge = s.ridge ∧ (s.incWrap i j).meas = s.meas ∧
    (s.incWrap i j).graphs = s.graphs ∧ (s.incWrap i j).gf = s.gf ∧ (s.incWrap i j).plate = s.plate ∧ (s.incWrap i j).stk = s.stk ∧
    (s.incWrap i j).sides = s.sides ∧ (s.incWrap i j).safety = s.safety ∧ (s.incWrap i j).sharing = s.sharing ∧
    (s.incWrap i j).ptp = s.ptp ∧ (s.incWrap i j).clock = s.clock ∧ (s.incWrap i j).plls = s.plls ∧ (s.incWrap i j).capture = s.capture ∧
    (s.incWrap i j).scribe = s.scribe ∧ (s.incWrap i j).net = s.net ∧ (s.incWrap i j).boot = s.boot ∧ (s.incWrap i j).out = s.out ∧
    (s.incWrap i j).freeCount = s.freeCount :=
  ⟨rfl, rfl, rfl, rfl, rfl, rfl, rfl, rfl, rfl, rfl, rfl, rfl, rfl, rfl, rfl, rfl, rfl, rfl, rfl, rfl⟩

@[simp] theorem State.setSideState_frame (x : Side) (v : Nat) :
    (s.setSideState x v).pending = s.pending ∧ (s.setSideState x v).now = s.now ∧ (s.setSideState x v).ridge = s.ridge ∧
    (s.setSideState x v).meas = s.meas ∧ (s.setSideState x v).graphs = s.graphs ∧ (s.setSideState x v).gf = s.gf ∧
    (s.setSideState x v).plate = s.plate ∧ (s.setSideState x v).stk = s.stk ∧ (s.setSideState x v).sides = s.sides ∧
    (s.setSideState x v).safety = s.safety ∧ (s.setSideState x v).sharing = s.sharing ∧ (s.setSideState x v).ptp = s.ptp ∧
    (s.setSideState x v).clock = s.clock ∧ (s.setSideState x v).plls = s.plls ∧ (s.setSideState x v).capture = s.capture ∧
    (s.setSideState x v).scribe = s.scribe ∧ (s.setSideState x v).net = s.net ∧ (s.setSideState x v).boot = s.boot ∧
    (s.setSideState x v).out = s.out ∧ (s.setSideState x v).freeCount = s.freeCount := by
  cases x <;> exact ⟨rfl, rfl, rfl, rfl, rfl, rfl, rfl, rfl, rfl, rfl, rfl, rfl, rfl, rfl, rfl, rfl, rfl, rfl, rfl, rfl⟩

@[simp] theorem State.emit_frame (kind dest : Nat) (data : List Nat) :
    (s.emit kind dest data).pending = s.pending ∧ (s.emit kind dest data).now = s.now ∧ (s.emit kind dest data).ridge = s.ridge ∧
    (s.emit kind dest data).od = s.od ∧ (s.emit kind dest data).meas = s.meas ∧ (s.emit kind dest data).graphs = s.graphs ∧
    (s.emit kind dest data).gf = s.gf ∧ (s.emit kind dest data).plate = s.plate ∧ (s.emit kind dest data).stk = s.stk ∧
    (s.emit kind dest data).sides = s.sides ∧ (s.emit kind dest data).safety = s.safety ∧ (s.emit kind dest data).sharing = s.sharing ∧
    (s.emit kind dest data).ptp = s.ptp ∧ (s.emit kind dest data).clock = s.clock ∧ (s.emit kind dest data).plls = s.plls ∧
    (s.emit kind dest data).capture = s.capture ∧ (s.emit kind dest data).scribe = s.scribe ∧ (s.emit kind dest data).net = s.net ∧
    (s.emit kind dest data).boot = s.boot ∧ (s.emit kind dest data).freeCount = s.freeCount :=
  ⟨rfl, rfl, rfl, rfl, rfl, rfl, rfl, rfl, rfl, rfl, rfl, rfl, rfl, rfl, rfl, rfl, rfl, rfl, rfl, rfl⟩

@[simp] theorem State.nextFree_frame :
    (s.nextFree).pending = s.pending ∧ (s.nextFree).now = s.now ∧ (s.nextFree).ridge = s.ridge ∧ (s.nextFree).od = s.od ∧
    (s.nextFree).meas = s.meas ∧ (s.nextFree).graphs = s.graphs ∧ (s.nextFree).gf = s.gf ∧ (s.nextFree).plate = s.plate ∧
    (s.nextFree).stk = s.stk ∧ (s.nextFree).sides = s.sides ∧ (s.nextFree).safety = s.safety ∧ (s.nextFree).sharing = s.sharing ∧
    (s.nextFree).ptp = s.ptp ∧ (s.nextFree).clock = s.clock ∧ (s.nextFree).plls = s.plls ∧ (s.nextFree).capture = s.capture ∧
    (s.nextFree).scribe = s.scribe ∧ (s.nextFree).net = s.net ∧ (s.nextFree).boot = s.boot ∧ (s.nextFree).out = s.out :=
  ⟨rfl, rfl, rfl, rfl, rfl, rfl, rfl, rfl, rfl, rfl, rfl, rfl, rfl, rfl, rfl, rfl, rfl, rfl, rfl, rfl⟩

@[simp] theorem State.setReader_frame (r : Nat) (v : Reader) :
    (s.setReader r v).pending = s.pending ∧ (s.setReader r v).now = s.now ∧ (s.setReader r v).ridge = s.ridge ∧
    (s.setReader r v).od = s.od ∧ (s.setReader r v).meas = s.meas ∧ (s.setReader r v).graphs = s.graphs ∧ (s.setReader r v).gf = s.gf ∧
    (s.setReader r v).plate = s.plate ∧ (s.setReader r v).stk = s.stk ∧ (s.setReader r v).sides = s.sides ∧
    (s.setReader r v).safety = s.safety ∧ (s.setReader r v).sharing = s.sharing ∧ (s.setReader r v).ptp = s.ptp ∧
    (s.setReader r v).clock = s.clock ∧ (s.setReader r v).plls = s.plls ∧ (s.setReader r v).capture = s.capture ∧
    (s.setReader r v).scribe = s.scribe ∧ (s.setReader r v).boot = s.boot ∧ (s.setReader r v).out = s.out ∧
    (s.setReader r v).freeCount = s.freeCount :=
  ⟨rfl, rfl, rfl, rfl, rfl, rfl, rfl, rfl, rfl, rfl, rfl, rfl, rfl, rfl, rfl, rfl, rfl, rfl, rfl, rfl⟩

@[simp] theorem State.setEngine_frame (x : Side) (k : Nat) (v : Engine) :
    (s.setEngine x k v).pending = s.pending ∧ (s.setEngine x k v).now = s.now ∧ (s.setEngine x k v).ridge = s.ridge ∧
    (s.setEngine x k v).od = s.od ∧ (s.setEngine x k v).meas = s.meas ∧ (s.setEngine x k v).graphs = s.graphs ∧
    (s.setEngine x k v).gf = s.gf ∧ (s.setEngine x k v).plate = s.plate ∧ (s.setEngine x k v).stk = s.stk ∧
    (s.setEngine x k v).sides = s.sides ∧ (s.setEngine x k v).safety = s.safety ∧ (s.setEngine x k v).sharing = s.sharing ∧
    (s.setEngine x k v).ptp = s.ptp ∧ (s.setEngine x k v).clock = s.clock ∧ (s.setEngine x k v).plls = s.plls ∧
    (s.setEngine x k v).scribe = s.scribe ∧ (s.setEngine x k v).net = s.net ∧ (s.setEngine x k v).boot = s.boot ∧
    (s.setEngine x k v).out = s.out ∧ (s.setEngine x k v).freeCount = s.freeCount :=
  ⟨rfl, rfl, rfl, rfl, rfl, rfl, rfl, rfl, rfl, rfl, rfl, rfl, rfl, rfl, rfl, rfl, rfl, rfl, rfl, rfl⟩

@[simp] theorem State.setSideRt_frame (x : Side) (v : SideRt) :
    (s.setSideRt x v).pending = s.pending ∧ (s.setSideRt x v).now = s.now ∧ (s.setSideRt x v).ridge = s.ridge ∧
    (s.setSideRt x v).od = s.od ∧ (s.setSideRt x v).meas = s.meas ∧ (s.setSideRt x v).graphs = s.graphs ∧ (s.setSideRt x v).gf = s.gf ∧
    (s.setSideRt x v).plate = s.plate ∧ (s.setSideRt x v).stk = s.stk ∧ (s.setSideRt x v).safety = s.safety ∧
    (s.setSideRt x v).sharing = s.sharing ∧ (s.setSideRt x v).ptp = s.ptp ∧ (s.setSideRt x v).clock = s.clock ∧
    (s.setSideRt x v).plls = s.plls ∧ (s.setSideRt x v).capture = s.capture ∧ (s.setSideRt x v).scribe = s.scribe ∧
    (s.setSideRt x v).net = s.net ∧ (s.setSideRt x v).boot = s.boot ∧ (s.setSideRt x v).out = s.out ∧
    (s.setSideRt x v).freeCount = s.freeCount := by
  cases x <;> exact ⟨rfl, rfl, rfl, rfl, rfl, rfl, rfl, rfl, rfl, rfl, rfl, rfl, rfl, rfl, rfl, rfl, rfl, rfl, rfl, rfl⟩

@[simp] theorem State.setGraph_frame (x : Side) (v : Graph) :
    (s.setGraph x v).pending = s.pending ∧ (s.setGraph x v).now = s.now ∧ (s.setGraph x v).ridge = s.ridge ∧ (s.setGraph x v).od = s.od ∧
    (s.setGraph x v).meas = s.meas ∧ (s.setGraph x v).gf = s.gf ∧ (s.setGraph x v).plate = s.plate ∧ (s.setGraph x v).stk = s.stk ∧
    (s.setGraph x v).sides = s.sides ∧ (s.setGraph x v).safety = s.safety ∧ (s.setGraph x v).sharing = s.sharing ∧
    (s.setGraph x v).ptp = s.ptp ∧ (s.setGraph x v).clock = s.clock ∧ (s.setGraph x v).plls = s.plls ∧
    (s.setGraph x v).capture = s.capture ∧ (s.setGraph x v).scribe = s.scribe ∧ (s.setGraph x v).net = s.net ∧
    (s.setGraph x v).boot = s.boot ∧ (s.setGraph x v).out = s.out ∧ (s.setGraph x v).freeCount = s.freeCount := by
  cases x <;> exact ⟨rfl, rfl, rfl, rfl, rfl, rfl, rfl, rfl, rfl, rfl, rfl, rfl, rfl, rfl, rfl, rfl, rfl, rfl, rfl, rfl⟩

@[simp] theorem State.setSill_frame (x : Side) (v : Sill) :
    (s.setSill x v).pending = s.pending ∧ (s.setSill x v).now = s.now ∧ (s.setSill x v).ridge = s.ridge ∧ (s.setSill x v).od = s.od ∧
    (s.setSill x v).meas = s.meas ∧ (s.setSill x v).graphs = s.graphs ∧ (s.setSill x v).gf = s.gf ∧ (s.setSill x v).stk = s.stk ∧
    (s.setSill x v).sides = s.sides ∧ (s.setSill x v).safety = s.safety ∧ (s.setSill x v).sharing = s.sharing ∧
    (s.setSill x v).ptp = s.ptp ∧ (s.setSill x v).clock = s.clock ∧ (s.setSill x v).plls = s.plls ∧ (s.setSill x v).capture = s.capture ∧
    (s.setSill x v).scribe = s.scribe ∧ (s.setSill x v).net = s.net ∧ (s.setSill x v).boot = s.boot ∧ (s.setSill x v).out = s.out ∧
    (s.setSill x v).freeCount = s.freeCount := by
  cases x <;> exact ⟨rfl, rfl, rfl, rfl, rfl, rfl, rfl, rfl, rfl, rfl, rfl, rfl, rfl, rfl, rfl, rfl, rfl, rfl, rfl, rfl⟩

@[simp] theorem State.setArc_frame (x : Side) (d : Nat) (a : Arc) :
    (s.setArc x d a).pending = s.pending ∧ (s.setArc x d a).now = s.now ∧ (s.setArc x d a).ridge = s.ridge ∧ (s.setArc x d a).od = s.od ∧
    (s.setArc x d a).graphs = s.graphs ∧ (s.setArc x d a).gf = s.gf ∧ (s.setArc x d a).plate = s.plate ∧ (s.setArc x d a).stk = s.stk ∧
    (s.setArc x d a).sides = s.sides ∧ (s.setArc x d a).safety = s.safety ∧ (s.setArc x d a).sharing = s.sharing ∧
    (s.setArc x d a).ptp = s.ptp ∧ (s.setArc x d a).clock = s.clock ∧ (s.setArc x d a).plls = s.plls ∧
    (s.setArc x d a).capture = s.capture ∧ (s.setArc x d a).scribe = s.scribe ∧ (s.setArc x d a).net = s.net ∧
    (s.setArc x d a).boot = s.boot ∧ (s.setArc x d a).out = s.out ∧ (s.setArc x d a).freeCount = s.freeCount :=
  ⟨rfl, rfl, rfl, rfl, rfl, rfl, rfl, rfl, rfl, rfl, rfl, rfl, rfl, rfl, rfl, rfl, rfl, rfl, rfl, rfl⟩

@[simp] theorem State.setChain_frame (x : Side) (c : Nat) (v : Chain) :
    (s.setChain x c v).pending = s.pending ∧ (s.setChain x c v).now = s.now ∧ (s.setChain x c v).ridge = s.ridge ∧
    (s.setChain x c v).od = s.od ∧ (s.setChain x c v).graphs = s.graphs ∧ (s.setChain x c v).gf = s.gf ∧
    (s.setChain x c v).plate = s.plate ∧ (s.setChain x c v).stk = s.stk ∧ (s.setChain x c v).sides = s.sides ∧
    (s.setChain x c v).safety = s.safety ∧ (s.setChain x c v).sharing = s.sharing ∧ (s.setChain x c v).ptp = s.ptp ∧
    (s.setChain x c v).clock = s.clock ∧ (s.setChain x c v).plls = s.plls ∧ (s.setChain x c v).capture = s.capture ∧
    (s.setChain x c v).scribe = s.scribe ∧ (s.setChain x c v).net = s.net ∧ (s.setChain x c v).boot = s.boot ∧
    (s.setChain x c v).out = s.out ∧ (s.setChain x c v).freeCount = s.freeCount :=
  ⟨rfl, rfl, rfl, rfl, rfl, rfl, rfl, rfl, rfl, rfl, rfl, rfl, rfl, rfl, rfl, rfl, rfl, rfl, rfl, rfl⟩

@[simp] theorem State.setGroup_frame (g : Nat) (v : ClockGroup) :
    (s.setGroup g v).pending = s.pending ∧ (s.setGroup g v).now = s.now ∧ (s.setGroup g v).ridge = s.ridge ∧ (s.setGroup g v).od = s.od ∧
    (s.setGroup g v).graphs = s.graphs ∧ (s.setGroup g v).gf = s.gf ∧ (s.setGroup g v).plate = s.plate ∧ (s.setGroup g v).stk = s.stk ∧
    (s.setGroup g v).sides = s.sides ∧ (s.setGroup g v).safety = s.safety ∧ (s.setGroup g v).sharing = s.sharing ∧
    (s.setGroup g v).ptp = s.ptp ∧ (s.setGroup g v).clock = s.clock ∧ (s.setGroup g v).plls = s.plls ∧
    (s.setGroup g v).capture = s.capture ∧ (s.setGroup g v).scribe = s.scribe ∧ (s.setGroup g v).net = s.net ∧
    (s.setGroup g v).boot = s.boot ∧ (s.setGroup g v).out = s.out ∧ (s.setGroup g v).freeCount = s.freeCount :=
  ⟨rfl, rfl, rfl, rfl, rfl, rfl, rfl, rfl, rfl, rfl, rfl, rfl, rfl, rfl, rfl, rfl, rfl, rfl, rfl, rfl⟩

@[simp] theorem State.setFeedback_frame (c : Nat) (f : Feedback) :
    (s.setFeedback c f).pending = s.pending ∧ (s.setFeedback c f).now = s.now ∧ (s.setFeedback c f).ridge = s.ridge ∧
    (s.setFeedback c f).od = s.od ∧ (s.setFeedback c f).graphs = s.graphs ∧ (s.setFeedback c f).gf = s.gf ∧
    (s.setFeedback c f).plate = s.plate ∧ (s.setFeedback c f).stk = s.stk ∧ (s.setFeedback c f).sides = s.sides ∧
    (s.setFeedback c f).safety = s.safety ∧ (s.setFeedback c f).sharing = s.sharing ∧ (s.setFeedback c f).ptp = s.ptp ∧
    (s.setFeedback c f).clock = s.clock ∧ (s.setFeedback c f).plls = s.plls ∧ (s.setFeedback c f).capture = s.capture ∧
    (s.setFeedback c f).scribe = s.scribe ∧ (s.setFeedback c f).net = s.net ∧ (s.setFeedback c f).boot = s.boot ∧
    (s.setFeedback c f).out = s.out ∧ (s.setFeedback c f).freeCount = s.freeCount :=
  ⟨rfl, rfl, rfl, rfl, rfl, rfl, rfl, rfl, rfl, rfl, rfl, rfl, rfl, rfl, rfl, rfl, rfl, rfl, rfl, rfl⟩

@[simp] theorem State.setComp_frame (c k : Nat) (v : Comparator) :
    (s.setComp c k v).pending = s.pending ∧ (s.setComp c k v).now = s.now ∧ (s.setComp c k v).ridge = s.ridge ∧
    (s.setComp c k v).od = s.od ∧ (s.setComp c k v).graphs = s.graphs ∧ (s.setComp c k v).gf = s.gf ∧ (s.setComp c k v).plate = s.plate ∧
    (s.setComp c k v).stk = s.stk ∧ (s.setComp c k v).sides = s.sides ∧ (s.setComp c k v).safety = s.safety ∧
    (s.setComp c k v).sharing = s.sharing ∧ (s.setComp c k v).ptp = s.ptp ∧ (s.setComp c k v).clock = s.clock ∧
    (s.setComp c k v).plls = s.plls ∧ (s.setComp c k v).capture = s.capture ∧ (s.setComp c k v).scribe = s.scribe ∧
    (s.setComp c k v).net = s.net ∧ (s.setComp c k v).boot = s.boot ∧ (s.setComp c k v).out = s.out ∧
    (s.setComp c k v).freeCount = s.freeCount :=
  ⟨rfl, rfl, rfl, rfl, rfl, rfl, rfl, rfl, rfl, rfl, rfl, rfl, rfl, rfl, rfl, rfl, rfl, rfl, rfl, rfl⟩

@[simp] theorem State.setStack_frame (k : Nat) (v : Stack) :
    (s.setStack k v).pending = s.pending ∧ (s.setStack k v).now = s.now ∧ (s.setStack k v).ridge = s.ridge ∧ (s.setStack k v).od = s.od ∧
    (s.setStack k v).meas = s.meas ∧ (s.setStack k v).graphs = s.graphs ∧ (s.setStack k v).gf = s.gf ∧ (s.setStack k v).plate = s.plate ∧
    (s.setStack k v).sides = s.sides ∧ (s.setStack k v).safety = s.safety ∧ (s.setStack k v).sharing = s.sharing ∧
    (s.setStack k v).ptp = s.ptp ∧ (s.setStack k v).clock = s.clock ∧ (s.setStack k v).plls = s.plls ∧
    (s.setStack k v).capture = s.capture ∧ (s.setStack k v).scribe = s.scribe ∧ (s.setStack k v).net = s.net ∧
    (s.setStack k v).boot = s.boot ∧ (s.setStack k v).out = s.out ∧ (s.setStack k v).freeCount = s.freeCount :=
  ⟨rfl, rfl, rfl, rfl, rfl, rfl, rfl, rfl, rfl, rfl, rfl, rfl, rfl, rfl, rfl, rfl, rfl, rfl, rfl, rfl⟩

@[simp] theorem State.setArbiter_frame (r inst : Nat) (a : Arbiter) :
    (s.setArbiter r inst a).pending = s.pending ∧ (s.setArbiter r inst a).now = s.now ∧ (s.setArbiter r inst a).ridge = s.ridge ∧
    (s.setArbiter r inst a).od = s.od ∧ (s.setArbiter r inst a).meas = s.meas ∧ (s.setArbiter r inst a).graphs = s.graphs ∧
    (s.setArbiter r inst a).gf = s.gf ∧ (s.setArbiter r inst a).plate = s.plate ∧ (s.setArbiter r inst a).stk = s.stk ∧
    (s.setArbiter r inst a).sides = s.sides ∧ (s.setArbiter r inst a).safety = s.safety ∧ (s.setArbiter r inst a).ptp = s.ptp ∧
    (s.setArbiter r inst a).clock = s.clock ∧ (s.setArbiter r inst a).plls = s.plls ∧ (s.setArbiter r inst a).capture = s.capture ∧
    (s.setArbiter r inst a).scribe = s.scribe ∧ (s.setArbiter r inst a).net = s.net ∧ (s.setArbiter r inst a).boot = s.boot ∧
    (s.setArbiter r inst a).out = s.out ∧ (s.setArbiter r inst a).freeCount = s.freeCount :=
  ⟨rfl, rfl, rfl, rfl, rfl, rfl, rfl, rfl, rfl, rfl, rfl, rfl, rfl, rfl, rfl, rfl, rfl, rfl, rfl, rfl⟩

@[simp] theorem State.setSem_frame (n : Nat) (v : Sem) :
    (s.setSem n v).pending = s.pending ∧ (s.setSem n v).now = s.now ∧ (s.setSem n v).ridge = s.ridge ∧ (s.setSem n v).od = s.od ∧
    (s.setSem n v).meas = s.meas ∧ (s.setSem n v).graphs = s.graphs ∧ (s.setSem n v).gf = s.gf ∧ (s.setSem n v).plate = s.plate ∧
    (s.setSem n v).stk = s.stk ∧ (s.setSem n v).sides = s.sides ∧ (s.setSem n v).safety = s.safety ∧ (s.setSem n v).ptp = s.ptp ∧
    (s.setSem n v).clock = s.clock ∧ (s.setSem n v).plls = s.plls ∧ (s.setSem n v).capture = s.capture ∧
    (s.setSem n v).scribe = s.scribe ∧ (s.setSem n v).net = s.net ∧ (s.setSem n v).boot = s.boot ∧ (s.setSem n v).out = s.out ∧
    (s.setSem n v).freeCount = s.freeCount :=
  ⟨rfl, rfl, rfl, rfl, rfl, rfl, rfl, rfl, rfl, rfl, rfl, rfl, rfl, rfl, rfl, rfl, rfl, rfl, rfl, rfl⟩

@[simp] theorem State.setPtpPort_frame (x : Nat) (p : PtpPort) :
    (s.setPtpPort x p).pending = s.pending ∧ (s.setPtpPort x p).now = s.now ∧ (s.setPtpPort x p).ridge = s.ridge ∧
    (s.setPtpPort x p).od = s.od ∧ (s.setPtpPort x p).meas = s.meas ∧ (s.setPtpPort x p).graphs = s.graphs ∧
    (s.setPtpPort x p).gf = s.gf ∧ (s.setPtpPort x p).plate = s.plate ∧ (s.setPtpPort x p).stk = s.stk ∧
    (s.setPtpPort x p).sides = s.sides ∧ (s.setPtpPort x p).safety = s.safety ∧ (s.setPtpPort x p).sharing = s.sharing ∧
    (s.setPtpPort x p).clock = s.clock ∧ (s.setPtpPort x p).plls = s.plls ∧ (s.setPtpPort x p).capture = s.capture ∧
    (s.setPtpPort x p).scribe = s.scribe ∧ (s.setPtpPort x p).net = s.net ∧ (s.setPtpPort x p).boot = s.boot ∧
    (s.setPtpPort x p).out = s.out ∧ (s.setPtpPort x p).freeCount = s.freeCount :=
  ⟨rfl, rfl, rfl, rfl, rfl, rfl, rfl, rfl, rfl, rfl, rfl, rfl, rfl, rfl, rfl, rfl, rfl, rfl, rfl, rfl⟩

@[simp] theorem State.setPll_frame (p : Nat) (q : Pll) :
    (s.setPll p q).pending = s.pending ∧ (s.setPll p q).now = s.now ∧ (s.setPll p q).ridge = s.ridge ∧ (s.setPll p q).od = s.od ∧
    (s.setPll p q).meas = s.meas ∧ (s.setPll p q).graphs = s.graphs ∧ (s.setPll p q).gf = s.gf ∧ (s.setPll p q).plate = s.plate ∧
    (s.setPll p q).stk = s.stk ∧ (s.setPll p q).sides = s.sides ∧ (s.setPll p q).safety = s.safety ∧ (s.setPll p q).sharing = s.sharing ∧
    (s.setPll p q).ptp = s.ptp ∧ (s.setPll p q).clock = s.clock ∧ (s.setPll p q).capture = s.capture ∧ (s.setPll p q).scribe = s.scribe ∧
    (s.setPll p q).net = s.net ∧ (s.setPll p q).boot = s.boot ∧ (s.setPll p q).out = s.out ∧ (s.setPll p q).freeCount = s.freeCount :=
  ⟨rfl, rfl, rfl, rfl, rfl, rfl, rfl, rfl, rfl, rfl, rfl, rfl, rfl, rfl, rfl, rfl, rfl, rfl, rfl, rfl⟩

@[simp] theorem State.setPlate_frame (n : Nat) (q : PlatePair) :
    (s.setPlate n q).pending = s.pending ∧ (s.setPlate n q).now = s.now ∧ (s.setPlate n q).ridge = s.ridge ∧ (s.setPlate n q).od = s.od ∧
    (s.setPlate n q).meas = s.meas ∧ (s.setPlate n q).graphs = s.graphs ∧ (s.setPlate n q).gf = s.gf ∧ (s.setPlate n q).stk = s.stk ∧
    (s.setPlate n q).sides = s.sides ∧ (s.setPlate n q).safety = s.safety ∧ (s.setPlate n q).sharing = s.sharing ∧
    (s.setPlate n q).ptp = s.ptp ∧ (s.setPlate n q).clock = s.clock ∧ (s.setPlate n q).plls = s.plls ∧
    (s.setPlate n q).capture = s.capture ∧ (s.setPlate n q).scribe = s.scribe ∧ (s.setPlate n q).net = s.net ∧
    (s.setPlate n q).boot = s.boot ∧ (s.setPlate n q).out = s.out ∧ (s.setPlate n q).freeCount = s.freeCount :=
  ⟨rfl, rfl, rfl, rfl, rfl, rfl, rfl, rfl, rfl, rfl, rfl, rfl, rfl, rfl, rfl, rfl, rfl, rfl, rfl, rfl⟩

@[simp] theorem State.modSet_frame (f : OpenSet → OpenSet) :
    (s.modSet f).pending = s.pending ∧ (s.modSet f).now = s.now ∧ (s.modSet f).ridge = s.ridge ∧ (s.modSet f).od = s.od ∧
    (s.modSet f).meas = s.meas ∧ (s.modSet f).graphs = s.graphs ∧ (s.modSet f).gf = s.gf ∧ (s.modSet f).plate = s.plate ∧
    (s.modSet f).stk = s.stk ∧ (s.modSet f).sides = s.sides ∧ (s.modSet f).safety = s.safety ∧ (s.modSet f).sharing = s.sharing ∧
    (s.modSet f).ptp = s.ptp ∧ (s.modSet f).clock = s.clock ∧ (s.modSet f).plls = s.plls ∧ (s.modSet f).capture = s.capture ∧
    (s.modSet f).scribe = s.scribe ∧ (s.modSet f).boot = s.boot ∧ (s.modSet f).out = s.out ∧ (s.modSet f).freeCount = s.freeCount :=
  ⟨rfl, rfl, rfl, rfl, rfl, rfl, rfl, rfl, rfl, rfl, rfl, rfl, rfl, rfl, rfl, rfl, rfl, rfl, rfl, rfl⟩

/-! ### The flags noted in the present ridge clock (R12) -/

@[simp] theorem State.noteFresh_frame (k n : Nat) (b : Bool) :
    (s.noteFresh k n b).pending = s.pending ∧ (s.noteFresh k n b).now = s.now ∧ (s.noteFresh k n b).ridge = s.ridge ∧
    (s.noteFresh k n b).od = s.od ∧ (s.noteFresh k n b).meas = s.meas ∧ (s.noteFresh k n b).graphs = s.graphs ∧
    (s.noteFresh k n b).gf = s.gf ∧ (s.noteFresh k n b).plate = s.plate ∧ (s.noteFresh k n b).stk = s.stk ∧
    (s.noteFresh k n b).sides = s.sides ∧ (s.noteFresh k n b).safety = s.safety ∧ (s.noteFresh k n b).sharing = s.sharing ∧
    (s.noteFresh k n b).ptp = s.ptp ∧ (s.noteFresh k n b).clock = s.clock ∧ (s.noteFresh k n b).plls = s.plls ∧
    (s.noteFresh k n b).capture = s.capture ∧ (s.noteFresh k n b).scribe = s.scribe ∧ (s.noteFresh k n b).net = s.net ∧
    (s.noteFresh k n b).boot = s.boot ∧ (s.noteFresh k n b).out = s.out ∧ (s.noteFresh k n b).freeCount = s.freeCount :=
  ⟨rfl, rfl, rfl, rfl, rfl, rfl, rfl, rfl, rfl, rfl, rfl, rfl, rfl, rfl, rfl, rfl, rfl, rfl, rfl, rfl, rfl⟩

@[simp] theorem State.noteFlags_frame (k m : Nat) :
    (s.noteFlags k m).pending = s.pending ∧ (s.noteFlags k m).now = s.now ∧ (s.noteFlags k m).ridge = s.ridge ∧
    (s.noteFlags k m).od = s.od ∧ (s.noteFlags k m).meas = s.meas ∧ (s.noteFlags k m).graphs = s.graphs ∧
    (s.noteFlags k m).gf = s.gf ∧ (s.noteFlags k m).plate = s.plate ∧ (s.noteFlags k m).stk = s.stk ∧
    (s.noteFlags k m).sides = s.sides ∧ (s.noteFlags k m).safety = s.safety ∧ (s.noteFlags k m).sharing = s.sharing ∧
    (s.noteFlags k m).ptp = s.ptp ∧ (s.noteFlags k m).clock = s.clock ∧ (s.noteFlags k m).plls = s.plls ∧
    (s.noteFlags k m).capture = s.capture ∧ (s.noteFlags k m).scribe = s.scribe ∧ (s.noteFlags k m).net = s.net ∧
    (s.noteFlags k m).boot = s.boot ∧ (s.noteFlags k m).out = s.out ∧ (s.noteFlags k m).freeCount = s.freeCount :=
  ⟨rfl, rfl, rfl, rfl, rfl, rfl, rfl, rfl, rfl, rfl, rfl, rfl, rfl, rfl, rfl, rfl, rfl, rfl, rfl, rfl, rfl⟩

@[simp] theorem State.val_noteFresh (k n k' : Nat) (b : Bool) : (s.noteFresh k n b).val k' = s.val k' := rfl
@[simp] theorem State.num_noteFresh (k n i j : Nat) (b : Bool) : (s.noteFresh k n b).num i j = s.num i j := rfl
@[simp] theorem State.blob_noteFresh (k n i j : Nat) (b : Bool) : (s.noteFresh k n b).blob i j = s.blob i j := rfl
@[simp] theorem State.val_noteFlags (k m k' : Nat) : (s.noteFlags k m).val k' = s.val k' := rfl
@[simp] theorem State.num_noteFlags (k m i j : Nat) : (s.noteFlags k m).num i j = s.num i j := rfl
@[simp] theorem State.blob_noteFlags (k m i j : Nat) : (s.noteFlags k m).blob i j = s.blob i j := rfl

@[simp] theorem State.putVal_fresh (k : Nat) (v : Val) : (s.putVal k v).fresh = s.fresh := rfl
@[simp] theorem State.setNum_fresh (i j v : Nat) : (s.setNum i j v).fresh = s.fresh := rfl
@[simp] theorem State.setBlob_fresh (i j : Nat) (b : List Nat) : (s.setBlob i j b).fresh = s.fresh := rfl
@[simp] theorem State.setFld_fresh (i j hi lo v : Nat) : (s.setFld i j hi lo v).fresh = s.fresh := rfl
@[simp] theorem State.incSat_fresh (i j : Nat) : (s.incSat i j).fresh = s.fresh := rfl
@[simp] theorem State.incWrap_fresh (i j : Nat) : (s.incWrap i j).fresh = s.fresh := rfl
@[simp] theorem State.setSideState_fresh (x : Side) (v : Nat) : (s.setSideState x v).fresh = s.fresh := by cases x <;> rfl
@[simp] theorem State.emit_fresh (kind dest : Nat) (data : List Nat) : (s.emit kind dest data).fresh = s.fresh := rfl
@[simp] theorem State.nextFree_fresh : (s.nextFree).fresh = s.fresh := rfl
@[simp] theorem State.setReader_fresh (r : Nat) (v : Reader) : (s.setReader r v).fresh = s.fresh := rfl
@[simp] theorem State.setEngine_fresh (x : Side) (k : Nat) (v : Engine) : (s.setEngine x k v).fresh = s.fresh := rfl
@[simp] theorem State.setSideRt_fresh (x : Side) (v : SideRt) : (s.setSideRt x v).fresh = s.fresh := by cases x <;> rfl
@[simp] theorem State.setGraph_fresh (x : Side) (v : Graph) : (s.setGraph x v).fresh = s.fresh := by cases x <;> rfl
@[simp] theorem State.setSill_fresh (x : Side) (v : Sill) : (s.setSill x v).fresh = s.fresh := by cases x <;> rfl
@[simp] theorem State.setArc_fresh (x : Side) (d : Nat) (a : Arc) : (s.setArc x d a).fresh = s.fresh := rfl
@[simp] theorem State.setChain_fresh (x : Side) (c : Nat) (v : Chain) : (s.setChain x c v).fresh = s.fresh := rfl
@[simp] theorem State.setGroup_fresh (g : Nat) (v : ClockGroup) : (s.setGroup g v).fresh = s.fresh := rfl
@[simp] theorem State.setFeedback_fresh (c : Nat) (f : Feedback) : (s.setFeedback c f).fresh = s.fresh := rfl
@[simp] theorem State.setComp_fresh (c k : Nat) (v : Comparator) : (s.setComp c k v).fresh = s.fresh := rfl
@[simp] theorem State.setStack_fresh (k : Nat) (v : Stack) : (s.setStack k v).fresh = s.fresh := rfl
@[simp] theorem State.setArbiter_fresh (r inst : Nat) (a : Arbiter) : (s.setArbiter r inst a).fresh = s.fresh := rfl
@[simp] theorem State.setSem_fresh (n : Nat) (v : Sem) : (s.setSem n v).fresh = s.fresh := rfl
@[simp] theorem State.setPtpPort_fresh (x : Nat) (p : PtpPort) : (s.setPtpPort x p).fresh = s.fresh := rfl
@[simp] theorem State.setPll_fresh (p : Nat) (q : Pll) : (s.setPll p q).fresh = s.fresh := rfl
@[simp] theorem State.setPlate_fresh (n : Nat) (q : PlatePair) : (s.setPlate n q).fresh = s.fresh := rfl
@[simp] theorem State.modSet_fresh (f : OpenSet → OpenSet) : (s.modSet f).fresh = s.fresh := rfl
@[simp] theorem State.setBitO_fresh (i j n : Nat) (b : Bool) :
    (s.setBitO i j n b).fresh = (s.noteFresh (i * 256 + j) n b).fresh := rfl

/-! ### Objects -/

@[simp] theorem asNum_num (n : Nat) : (Val.num n).asNum = n := rfl
@[simp] theorem asNum_blob (b : List Nat) : (Val.blob b).asNum = 0 := rfl
@[simp] theorem asBlob_num (n : Nat) : (Val.num n).asBlob = [] := rfl
@[simp] theorem asBlob_blob (b : List Nat) : (Val.blob b).asBlob = b := rfl

/-- An object read after a write. -/
theorem State.val_putVal (k k' : Nat) (v : Val) : (s.putVal k v).val k' = if k' = k then v else s.val k' := by
  by_cases h : k' = k
  · subst h
    by_cases hv : v = objDefault k' <;> simp [State.val, State.putVal, find_put_same, hv]
  · simp [State.val, State.putVal, find_put_other (objDefault k) h, h]

@[simp] theorem State.num_putVal (k i j : Nat) (v : Val) :
    (s.putVal k v).num i j = if i * 256 + j = k then v.asNum else s.num i j := by
  by_cases h : i * 256 + j = k <;> simp [State.num, State.val_putVal, h]

@[simp] theorem State.blob_putVal (k i j : Nat) (v : Val) :
    (s.putVal k v).blob i j = if i * 256 + j = k then v.asBlob else s.blob i j := by
  by_cases h : i * 256 + j = k <;> simp [State.blob, State.val_putVal, h]

@[simp] theorem State.val_setNum (k i j v : Nat) :
    (s.setNum i j v).val k = if k = i * 256 + j then .num (v % 2 ^ (8 * sizeOf i j)) else s.val k := by
  simp [State.setNum, State.val_putVal]

@[simp] theorem State.val_setBlob (k i j : Nat) (b : List Nat) :
    (s.setBlob i j b).val k = if k = i * 256 + j then .blob b else s.val k := by simp [State.setBlob, State.val_putVal]

@[simp] theorem State.num_setNum (i j v i' j' : Nat) :
    (s.setNum i j v).num i' j' = if i' * 256 + j' = i * 256 + j then v % 2 ^ (8 * sizeOf i j) else s.num i' j' := by
  simp [State.setNum]

@[simp] theorem State.blob_setNum (i j v i' j' : Nat) :
    (s.setNum i j v).blob i' j' = if i' * 256 + j' = i * 256 + j then [] else s.blob i' j' := by simp [State.setNum]

@[simp] theorem State.num_setBlob (i j i' j' : Nat) (b : List Nat) :
    (s.setBlob i j b).num i' j' = if i' * 256 + j' = i * 256 + j then 0 else s.num i' j' := by simp [State.setBlob]

@[simp] theorem State.blob_setBlob (i j i' j' : Nat) (b : List Nat) :
    (s.setBlob i j b).blob i' j' = if i' * 256 + j' = i * 256 + j then b else s.blob i' j' := by simp [State.setBlob]

/-- Objects are read from the dictionary alone. -/
theorem State.val_congr {s s' : State} (h : s'.od = s.od) (k : Nat) : s'.val k = s.val k := by simp [State.val, h]
theorem State.num_congr {s s' : State} (h : s'.od = s.od) (i j : Nat) : s'.num i j = s.num i j := by simp [State.num, State.val, h]
theorem State.blob_congr {s s' : State} (h : s'.od = s.od) (i j : Nat) : s'.blob i j = s.blob i j := by
  simp [State.blob, State.val, h]

/-- What is read of a dictionary. -/
def odVal (od : Store Val) (k : Nat) : Val := (Store.find k od).getD (objDefault k)
def odNum (od : Store Val) (i j : Nat) : Nat := (odVal od (i * 256 + j)).asNum
def odBlob (od : Store Val) (i j : Nat) : List Nat := (odVal od (i * 256 + j)).asBlob
@[simp] theorem odVal_od (k : Nat) : odVal s.od k = s.val k := rfl
@[simp] theorem odNum_od (i j : Nat) : odNum s.od i j = s.num i j := rfl
@[simp] theorem odBlob_od (i j : Nat) : odBlob s.od i j = s.blob i j := rfl

section
variable (f1 : List Instr) (f2 f3 : Nat) (f4 : Store Val) (f5 : Store Nat) (f6 : Meas) (f7 : Graphs) (f8 : GridForm) (f9 : Plate)
  (f10 : Store Stack) (f11 : Sides) (f12 : Safety) (f13 : Sharing) (f14 : Store PtpPort) (f15 : Clock) (f16 : Store Pll) (f17 : Capture)
  (f18 : Scribe) (f19 : Net) (f20 : Boot) (f21 : List Out) (f22 : Nat)

/-- A state given by its fields reads from those fields. -/
@[simp] theorem val_mk (k : Nat) :
    State.val ⟨f1, f2, f3, f4, f5, f6, f7, f8, f9, f10, f11, f12, f13, f14, f15, f16, f17, f18, f19, f20, f21, f22⟩ k = odVal f4 k := rfl
@[simp] theorem num_mk (i j : Nat) :
    State.num ⟨f1, f2, f3, f4, f5, f6, f7, f8, f9, f10, f11, f12, f13, f14, f15, f16, f17, f18, f19, f20, f21, f22⟩ i j = odNum f4 i j := rfl
@[simp] theorem blob_mk (i j : Nat) :
    State.blob ⟨f1, f2, f3, f4, f5, f6, f7, f8, f9, f10, f11, f12, f13, f14, f15, f16, f17, f18, f19, f20, f21, f22⟩ i j = odBlob f4 i j := rfl
@[simp] theorem reader_mk (r : Nat) :
    State.reader ⟨f1, f2, f3, f4, f5, f6, f7, f8, f9, f10, f11, f12, f13, f14, f15, f16, f17, f18, f19, f20, f21, f22⟩ r
      = Store.get Reader.init r f19.readers := rfl
@[simp] theorem stack_mk (k : Nat) :
    State.stack ⟨f1, f2, f3, f4, f5, f6, f7, f8, f9, f10, f11, f12, f13, f14, f15, f16, f17, f18, f19, f20, f21, f22⟩ k
      = Store.get Stack.init k f10 := rfl
end

/-! ### Bits -/

theorem testBit_bits (n hi lo i : Nat) : (bits n hi lo).testBit i = (decide (i < hi + 1 - lo) && n.testBit (lo + i)) := by
  simp [bits, Nat.testBit_mod_two_pow, Nat.testBit_shiftRight]

theorem testBit_setBits {n hi lo v i : Nat} (h : lo ≤ hi) :
    (setBits n hi lo v).testBit i =
      if i < lo then n.testBit i else if i ≤ hi then v.testBit (i - lo) else n.testBit i := by
  simp only [setBits, Nat.testBit_or, Nat.testBit_shiftLeft, Nat.testBit_shiftRight, Nat.testBit_mod_two_pow, ge_iff_le]
  by_cases h1 : i < lo
  · simp [h1, Nat.not_le.mpr h1, Nat.not_le.mpr (show i < hi + 1 by omega)]
  · by_cases h2 : i ≤ hi
    · simp [h1, h2, Nat.not_le.mpr (show i < hi + 1 by omega), show lo ≤ i by omega, show i - lo < hi + 1 - lo by omega]
    · simp [h1, h2, show hi + 1 ≤ i by omega, show ¬ (i - lo < hi + 1 - lo) by omega, show hi + 1 + (i - (hi + 1)) = i by omega]

/-- A field read after it is set. -/
theorem bits_setBits_same {n hi lo v : Nat} (h : lo ≤ hi) : bits (setBits n hi lo v) hi lo = v % 2 ^ (hi + 1 - lo) := by
  apply Nat.eq_of_testBit_eq
  intro i
  rw [testBit_bits, testBit_setBits h, Nat.testBit_mod_two_pow]
  by_cases hi' : i < hi + 1 - lo
  · simp [hi', show ¬ (lo + i < lo) by omega, show lo + i ≤ hi by omega]
  · simp [hi']

/-- Another field read after one is set. -/
theorem bits_setBits_other {n hi lo v hi' lo' : Nat} (h : lo ≤ hi) (hd : hi' < lo ∨ hi < lo') :
    bits (setBits n hi lo v) hi' lo' = bits n hi' lo' := by
  apply Nat.eq_of_testBit_eq
  intro i
  rw [testBit_bits, testBit_bits, testBit_setBits h]
  by_cases hi1 : i < hi' + 1 - lo'
  · rcases hd with hd | hd
    · simp [hi1, show lo' + i < lo by omega]
    · simp [hi1, show ¬ (lo' + i < lo) by omega, show ¬ (lo' + i ≤ hi) by omega]
  · simp [hi1]

theorem testBit_setBit (n i j : Nat) (b : Bool) : (setBit n i b).testBit j = if j = i then b else n.testBit j := by
  rw [setBit, testBit_setBits (Nat.le_refl i)]
  by_cases h : j = i
  · subst h; cases b <;> simp
  · by_cases h1 : j < i
    · simp [h, h1]
    · simp [h, h1, show ¬ (j ≤ i) by omega]

/-- A bit read after a bit is set. -/
theorem State.bit_setBitO {i j n : Nat} (b : Bool) (i' j' m : Nat) (h : m < 8 * sizeOf i j) :
    (s.setBitO i j n b).bit i' j' m = if i' * 256 + j' = i * 256 + j ∧ m = n then b else s.bit i' j' m := by
  simp only [State.bit, State.setBitO, State.num_noteFresh, State.num_setNum]
  by_cases hk : i' * 256 + j' = i * 256 + j
  · simp only [hk, if_true, Nat.testBit_mod_two_pow, testBit_setBit, true_and, h, decide_true, Bool.true_and]
    split
    · rfl
    · simp [State.num, hk]
  · simp [hk]

theorem bits_mod {n w hi lo : Nat} (h : hi < w) : bits (n % 2 ^ w) hi lo = bits n hi lo := by
  apply Nat.eq_of_testBit_eq
  intro i
  rw [testBit_bits, testBit_bits, Nat.testBit_mod_two_pow]
  by_cases hi1 : i < hi + 1 - lo
  · simp [show lo + i < w by omega]
  · simp [hi1]

/-- A field read after a write of its object. -/
theorem State.fld_setNum {i j hi lo : Nat} (v : Nat) (h : hi < 8 * sizeOf i j) : (s.setNum i j v).fld i j hi lo = bits v hi lo := by
  simp [State.fld, bits_mod h]

/-- A field read after it is set. -/
theorem State.fld_setFld {i j hi lo : Nat} (v : Nat) (hl : lo ≤ hi) (h : hi < 8 * sizeOf i j) :
    (s.setFld i j hi lo v).fld i j hi lo = v % 2 ^ (hi + 1 - lo) := by
  rw [State.setFld, State.fld_setNum s _ h, bits_setBits_same hl]

/-- Another field of the same object. -/
theorem State.fld_setFld_field {i j hi lo hi' lo' : Nat} (v : Nat) (hl : lo ≤ hi) (h : hi' < 8 * sizeOf i j) (hd : hi' < lo ∨ hi < lo') :
    (s.setFld i j hi lo v).fld i j hi' lo' = s.fld i j hi' lo' := by
  rw [State.setFld, State.fld_setNum s _ h, bits_setBits_other hl hd, State.fld]

/-- Another object. -/
theorem State.fld_other {s s' : State} {i j : Nat} (h : s'.num i j = s.num i j) (hi lo : Nat) : s'.fld i j hi lo = s.fld i j hi lo := by
  simp [State.fld, h]

@[simp] theorem State.num_setFld (i j hi lo v i' j' : Nat) (h : i' * 256 + j' ≠ i * 256 + j) :
    (s.setFld i j hi lo v).num i' j' = s.num i' j' := by simp [State.setFld, h]
@[simp] theorem State.num_setBitO (i j n i' j' : Nat) (b : Bool) (h : i' * 256 + j' ≠ i * 256 + j) :
    (s.setBitO i j n b).num i' j' = s.num i' j' := by simp [State.setBitO, h]
@[simp] theorem State.num_incSat (i j i' j' : Nat) (h : i' * 256 + j' ≠ i * 256 + j) : (s.incSat i j).num i' j' = s.num i' j' := by
  simp [State.incSat, h]

/-- A bit read after it is set. -/
theorem State.bit_set {i j n : Nat} (b : Bool) (h : n < 8 * sizeOf i j) : (s.setBitO i j n b).bit i j n = b := by
  simp [State.bit_setBitO s b i j n h]

end Sys2Proof.Machine
end

