-- ==== Sys2Proof/Laws/Events.lean ====
section
/-!
SUPPORT. What an event, a scribe record or a counted occurrence can change, said once: the event objects, NOTIFY entries, waiting
triggers, the scribe's ring and buckets, counters; nothing else.
-/

set_option Elab.async false
namespace Sys2Proof.Machine

/-- A reader without its NOTIFY entries, an engine without its waiting triggers. -/
def bareReader (r : Reader) : Reader := { r with notes := [], holdoff := none }
def bareEngine (v : Engine) : Engine := { v with trigs := [] }

/-- Two states differ at most in what events write. -/
structure EvSame (s s' : State) : Prop where
  pending : s'.pending = s.pending
  now : s'.now = s.now
  ridge : s'.ridge = s.ridge
  meas : s'.meas = s.meas
  graphs : s'.graphs = s.graphs
  gf : s'.gf = s.gf
  plate : s'.plate = s.plate
  stk : s'.stk = s.stk
  sides : s'.sides = s.sides
  safety : s'.safety = s.safety
  sharing : s'.sharing = s.sharing
  ptp : s'.ptp = s.ptp
  clock : s'.clock = s.clock
  plls : s'.plls = s.plls
  boot : s'.boot = s.boot
  out : s'.out = s.out
  freeCount : s'.freeCount = s.freeCount
  net : { s'.net with readers := [] } = { s.net with readers := [] }
  scribe : { s'.scribe with ring := [], buckets := [], ovf := [] } = { s.scribe with ring := [], buckets := [], ovf := [] }
  capture : { s'.capture with engines := [], missed := [] } = { s.capture with engines := [], missed := [] }
  reader : ∀ r, bareReader (s'.reader r) = bareReader (s.reader r)
  engine : ∀ x k, bareEngine (s'.engine x k) = bareEngine (s.engine x k)
  val : ∀ k, evKey k = false → s'.val k = s.val k

namespace EvSame

theorem refl (s : State) : EvSame s s := by constructor <;> intros <;> rfl

theorem trans {a b c : State} (h : EvSame a b) (g : EvSame b c) : EvSame a c where
  pending := g.pending.trans h.pending
  now := g.now.trans h.now
  ridge := g.ridge.trans h.ridge
  meas := g.meas.trans h.meas
  graphs := g.graphs.trans h.graphs
  gf := g.gf.trans h.gf
  plate := g.plate.trans h.plate
  stk := g.stk.trans h.stk
  sides := g.sides.trans h.sides
  safety := g.safety.trans h.safety
  sharing := g.sharing.trans h.sharing
  ptp := g.ptp.trans h.ptp
  clock := g.clock.trans h.clock
  plls := g.plls.trans h.plls
  boot := g.boot.trans h.boot
  out := g.out.trans h.out
  freeCount := g.freeCount.trans h.freeCount
  net := g.net.trans h.net
  scribe := g.scribe.trans h.scribe
  capture := g.capture.trans h.capture
  reader := fun r => (g.reader r).trans (h.reader r)
  engine := fun x k => (g.engine x k).trans (h.engine x k)
  val := fun k hk => (g.val k hk).trans (h.val k hk)

/-- An event object written. -/
theorem putVal (s : State) (k : Nat) (v : Val) (h : evKey k = true) : EvSame s (s.putVal k v) := by
  constructor <;> intros <;> try rfl
  rename_i k' hk
  have : k' ≠ k := by rintro rfl; simp [h] at hk
  simp [State.val_putVal, this]

theorem setNum (s : State) (i j v : Nat) (h : evKey (i * 256 + j) = true) : EvSame s (s.setNum i j v) := putVal s _ _ h
theorem setBlob (s : State) (i j : Nat) (b : List Nat) (h : evKey (i * 256 + j) = true) : EvSame s (s.setBlob i j b) := putVal s _ _ h

/-- A flag noted as set in the present ridge clock. -/
theorem noteFresh (s : State) (k n : Nat) (b : Bool) : EvSame s (s.noteFresh k n b) := by constructor <;> intros <;> rfl
theorem noteFlags (s : State) (k m : Nat) : EvSame s (s.noteFlags k m) := by constructor <;> intros <;> rfl
theorem setBitO (s : State) (i j n : Nat) (b : Bool) (h : evKey (i * 256 + j) = true) : EvSame s (s.setBitO i j n b) :=
  (setNum s i j _ h).trans (noteFresh ..)

theorem ite {s a b : State} {c : Prop} [Decidable c] (ha : EvSame s a) (hb : EvSame s b) : EvSame s (if c then a else b) := by
  split <;> assumption

/-- A fold of steps that each write only what events write. -/
theorem foldl {α : Type} (l : List α) (f : State → α → State) (h : ∀ s a, a ∈ l → EvSame s (f s a)) (s : State) :
    EvSame s (l.foldl f s) := by
  induction l generalizing s with
  | nil => exact refl s
  | cons a l ih => exact (h s a (by simp)).trans (ih (fun s b hb => h s b (by simp [hb])) (f s a))

/-- The ring, the buckets, the counters that overflowed. -/
theorem scribe_of (s : State) (q : Scribe)
    (h : { q with ring := [], buckets := [], ovf := [] } = { s.scribe with ring := [], buckets := [], ovf := [] }) :
    EvSame s { s with scribe := q } := by
  constructor <;> intros <;> first | exact h | rfl

theorem capture_of (s : State) (q : List Nat) : EvSame s { s with capture := { s.capture with missed := q } } := by
  constructor <;> intros <;> rfl

theorem setReader (s : State) (r : Nat) (v : Reader) (h : bareReader v = bareReader (s.reader r)) : EvSame s (s.setReader r v) := by
  constructor <;> intros <;> try rfl
  rename_i r'
  simp only [State.reader, State.setReader, get_put]
  split
  · rename_i hr; subst hr; exact h
  · rfl

theorem setEngine (s : State) (x : Side) (k : Nat) (v : Engine) (h : bareEngine v = bareEngine (s.engine x k)) :
    EvSame s (s.setEngine x k v) := by
  constructor <;> intros <;> try rfl
  rename_i x' k'
  simp only [State.engine, State.setEngine, get_put] at h ⊢
  split
  · rename_i hr; rw [hr]; exact h
  · rfl

end EvSame

/-! ### The parts of an event -/

theorem evKey_ctr {i j : Nat} (hi : i < 112) (hj : j = 5 ∨ j = 8) : evKey (ctrIx i * 256 + j) = true := by
  have h1 : (ctrIx i * 256 + j) / 256 = ctrIx i := by rcases hj with rfl | rfl <;> unfold ctrIx <;> omega
  have h2 : (ctrIx i * 256 + j) % 256 = j := by rcases hj with rfl | rfl <;> omega
  have h3 : 0x8300 ≤ ctrIx i ∧ ctrIx i ≤ 0x836F := by unfold ctrIx; omega
  rcases hj with rfl | rfl <;> simp [evKey, h1, h2, h3]

theorem ctrAdd_same {i : Nat} (n : Nat) (hi : i < 112) (s : State) : EvSame s (ctrAdd i n s) := by
  unfold ctrAdd
  refine EvSame.ite (EvSame.setNum _ _ _ _ (evKey_ctr hi (.inl rfl))) ?_
  have h := (EvSame.setNum s (ctrIx i) 5 (s.num (ctrIx i) 5 + n) (evKey_ctr hi (.inl rfl))).trans
    (EvSame.setBitO _ (ctrIx i) 8 0 true (evKey_ctr hi (.inr rfl)))
  exact EvSame.ite (h.trans (EvSame.scribe_of _ _ rfl)) h

theorem ctrBump_same {i : Nat} (n : Nat) (hi : i < 112) (s : State) : EvSame s (ctrBump i n s) := by
  unfold ctrBump
  have h := ctrAdd_same n hi s
  simp only []
  split
  · rename_i hc
    have : i % 2 = 0 := by simp at hc; omega
    exact h.trans (ctrAdd_same _ (by omega) _)
  · exact h

theorem countIf_same (bank ev n : Nat) (p : State → Nat → Bool) (s : State) : EvSame s (countIf bank ev n p s) := by
  unfold countIf
  apply EvSame.foldl
  intro s i _
  split
  · rename_i hc
    have : i < 112 := by simp at hc; omega
    exact ctrBump_same n this s
  · exact EvSame.refl s

theorem countEvent_same (bank ev n e : Nat) (s : State) : EvSame s (countEvent bank ev n e s) := countIf_same ..
theorem countReq_same (bank ev n cls who : Nat) (addr : Option Nat) (s : State) : EvSame s (countReq bank ev n cls who addr s) :=
  countIf_same ..
theorem countLink_same (cls : Nat) (s : State) : EvSame s (countLink cls s) := countIf_same ..

theorem notifyAll_same (e : Nat) (s : State) : EvSame s (s.notifyAll e) := by
  unfold State.notifyAll
  refine EvSame.ite ?_ (EvSame.refl s)
  apply EvSame.foldl
  intro s p _
  exact EvSame.ite (EvSame.setReader s _ _ rfl) (EvSame.refl s)

theorem pushTrigger_same {k : Nat} (t : Nat) (hk : k < 8) (s : State) : EvSame s (pushTrigger k t s) := by
  unfold pushTrigger
  apply EvSame.foldl
  intro s x _
  refine EvSame.ite (EvSame.setEngine s x k _ rfl) (EvSame.ite ?_ (EvSame.refl s))
  have h1 : ((0x8010 + k) * 256 + 0xD) / 256 = 0x8010 + k := by omega
  have h2 : ((0x8010 + k) * 256 + 0xD) % 256 = 0xD := by omega
  have h3 : 0x8010 + k ≤ 0x8017 := by omega
  exact (EvSame.setNum s (0x8010 + k) 0xD _ (by simp [evKey, h1, h2, h3])).trans (EvSame.capture_of _ _)

theorem captureEvents_same (e : Nat) (s : State) : EvSame s (captureEvents e s) := by
  unfold captureEvents forN
  apply EvSame.foldl
  intro s k hk
  exact EvSame.ite (pushTrigger_same _ (List.mem_range.mp hk) s) (EvSame.refl s)

/-- An occurrence. -/
theorem occur_same (e p0 p1 p2 : Nat) (s : State) : EvSame s (s.occur e p0 p1 p2) := by
  unfold State.occur
  have h1 : evKey (0x1200 * 256 + 1) = true := by decide
  have h2 : evKey (0x1200 * 256 + 2) = true := by decide
  have h7 : evKey (0x1200 * 256 + 7) = true := by decide
  have h : ∀ b1 b2 b3, EvSame s ((((s.setBlob 0x1200 1 b1).noteFresh 0x120001 e true).setBlob 0x1200 2 b2).setBlob 0x1200 7 b3) :=
    fun _ _ _ => (((EvSame.setBlob s _ _ _ h1).trans (EvSame.noteFresh ..)).trans (EvSame.setBlob _ _ _ _ h2)).trans
      (EvSame.setBlob _ _ _ _ h7)
  exact ((((h _ _ _).trans (notifyAll_same e _)).trans (captureEvents_same e _)).trans (countEvent_same 2 0x46 1 0 _))

theorem writeRecord_same (code origin dropped p0 p1 p2 : Nat) (s : State) : EvSame s (s.writeRecord code origin dropped p0 p1 p2) := by
  unfold State.writeRecord
  have h4 : evKey (0x8100 * 256 + 4) = true := by decide
  have h1 : evKey (0xF000 * 256 + 1) = true := by decide
  have h : ∀ r v w, EvSame s (countEvent 2 0x48 1 0
      (({ s with scribe := { s.scribe with ring := r } }.setNum 0x8100 4 v).setNum 0xF000 1 w)) := fun r v w =>
    (((EvSame.scribe_of s { s.scribe with ring := r } rfl).trans (EvSame.setNum _ _ _ v h4)).trans (EvSame.setNum _ _ _ w h1)).trans (countEvent_same 2 0x48 1 0 _)
  simp only [State.incWrap]
  exact EvSame.ite ((h _ _ _).trans (occur_same 215 _ 0 0 _)) (h _ _ _)

/-- A record that falls due. -/
theorem record_same (code origin p0 p1 p2 : Nat) (s : State) : EvSame s (s.record code origin p0 p1 p2) := by
  unfold State.record
  have w : ∀ b d, EvSame s ({ s with scribe := { s.scribe with buckets := b } }.writeRecord code origin d p0 p1 p2) := fun b d =>
    (EvSame.scribe_of s { s.scribe with buckets := b } rfl).trans (writeRecord_same code origin d p0 p1 p2 _)
  have h8 : evKey (0x8100 * 256 + 8) = true := by decide
  have h3 : evKey (0x8100 * 256 + 3) = true := by decide
  have c : EvSame s (countEvent 2 0x49 1 0 ((s.incSat 0x8100 8).setBitO 0x8100 3 0 true)) :=
    ((EvSame.setNum s _ _ _ h8).trans (EvSame.setBitO _ _ _ _ _ h3)).trans (countEvent_same 2 0x49 1 0 _)
  generalize countEvent 2 0x49 1 0 ((s.incSat 0x8100 8).setBitO 0x8100 3 0 true) = u at c ⊢
  have h : ∀ b, EvSame s { u with scribe := { u.scribe with buckets := b } } := fun b =>
    c.trans (EvSame.scribe_of u { u.scribe with buckets := b } rfl)
  exact EvSame.ite (w _ _) (EvSame.ite (w _ _) (EvSame.ite ((h _).trans (occur_same 214 code 0 0 _)) (h _)))

/-- An event raised. -/
theorem raise_same (e p0 p1 p2 : Nat) (s : State) : EvSame s (s.raise e p0 p1 p2) := by
  unfold State.raise
  exact EvSame.ite ((occur_same ..).trans (record_same ..)) (occur_same ..)

theorem fwNote_same (code p0 p1 p2 : Nat) (s : State) : EvSame s (s.fwNote code p0 p1 p2) := record_same ..

/-- The events reported at the end of a command. -/
theorem reportLate_same (s : State) : EvSame s s.reportLate := by
  unfold State.reportLate
  refine EvSame.trans ?_ (EvSame.trans (EvSame.capture_of _ []) (EvSame.scribe_of _ _ rfl))
  exact (EvSame.foldl _ _ (fun s k _ => raise_same ..) s).trans (EvSame.foldl _ _ (fun s i _ => raise_same ..) _)

end Sys2Proof.Machine
end

