-- ==== Sys2Proof/Laws/Run.lean ====
section
/-!
SUPPORT. What a command's end does: the late reports and the settling of the plate; and the laws of events as simp rules.
-/

set_option Elab.async false
namespace Sys2Proof.Machine

/-- The fields that two states agree on which differ by events only, as rules. -/
theorem EvSame.fields {s s' : State} (h : EvSame s s') :
    s'.pending = s.pending ∧ s'.now = s.now ∧ s'.ridge = s.ridge ∧ s'.meas = s.meas ∧ s'.graphs = s.graphs ∧ s'.gf = s.gf ∧
    s'.plate = s.plate ∧ s'.stk = s.stk ∧ s'.sides = s.sides ∧ s'.safety = s.safety ∧ s'.sharing = s.sharing ∧ s'.ptp = s.ptp ∧
    s'.clock = s.clock ∧ s'.plls = s.plls ∧ s'.boot = s.boot ∧ s'.out = s.out ∧ s'.freeCount = s.freeCount :=
  ⟨h.pending, h.now, h.ridge, h.meas, h.graphs, h.gf, h.plate, h.stk, h.sides, h.safety, h.sharing, h.ptp, h.clock, h.plls, h.boot, h.out, h.freeCount⟩

theorem EvSame.netFields {s s' : State} (h : EvSame s s') :
    s'.net.sessions = s.net.sessions ∧ s'.net.openSet = s.net.openSet ∧ s'.net.nonces = s.net.nonces ∧ s'.net.fails = s.net.fails ∧
    s'.net.blocked = s.net.blocked ∧ s'.net.bootQueue = s.net.bootQueue ∧ s'.net.dups = s.net.dups ∧ s'.net.nodes = s.net.nodes ∧
    s'.net.redSeq = s.net.redSeq ∧ s'.net.icmp = s.net.icmp ∧ s'.net.lifeBack = s.net.lifeBack ∧ s'.net.ringPorts = s.net.ringPorts ∧
    s'.net.lifeAt = s.net.lifeAt ∧ s'.net.queue = s.net.queue ∧
    s'.net.nextReceipt = s.net.nextReceipt ∧ s'.net.lines = s.net.lines :=
  ⟨(congrArg Net.sessions h.net :),
    (congrArg Net.openSet h.net :),
    (congrArg Net.nonces h.net :),
    (congrArg Net.fails h.net :),
    (congrArg Net.blocked h.net :),
    (congrArg Net.bootQueue h.net :),
    (congrArg Net.dups h.net :),
    (congrArg Net.nodes h.net :),
    (congrArg Net.redSeq h.net :),
    (congrArg Net.icmp h.net :),
    (congrArg Net.lifeBack h.net :),
    (congrArg Net.ringPorts h.net :),
    (congrArg Net.lifeAt h.net :),
    (congrArg Net.queue h.net :),
    (congrArg Net.nextReceipt h.net :),
    (congrArg Net.lines h.net :)⟩

theorem EvSame.scribeFields {s s' : State} (h : EvSame s s') :
    s'.scribe.saturated = s.scribe.saturated ∧ s'.scribe.histAt = s.scribe.histAt ∧ s'.scribe.clears = s.scribe.clears ∧
    s'.scribe.running = s.scribe.running ∧ s'.scribe.ctrCmds = s.scribe.ctrCmds ∧ s'.scribe.lfsr = s.scribe.lfsr ∧
    s'.scribe.tagRing = s.scribe.tagRing ∧ s'.scribe.tagPend = s.scribe.tagPend ∧ s'.scribe.tagStopped = s.scribe.tagStopped ∧
    s'.scribe.hourTicks = s.scribe.hourTicks ∧
    s'.scribe.ordered = s.scribe.ordered :=
  ⟨(congrArg Scribe.saturated h.scribe :),
    (congrArg Scribe.histAt h.scribe :),
    (congrArg Scribe.clears h.scribe :),
    (congrArg Scribe.running h.scribe :),
    (congrArg Scribe.ctrCmds h.scribe :),
    (congrArg Scribe.lfsr h.scribe :),
    (congrArg Scribe.tagRing h.scribe :),
    (congrArg Scribe.tagPend h.scribe :),
    (congrArg Scribe.tagStopped h.scribe :),
    (congrArg Scribe.hourTicks h.scribe :),
    (congrArg Scribe.ordered h.scribe :)⟩

theorem EvSame.captureFields {s s' : State} (h : EvSame s s') :
    s'.capture.segs = s.capture.segs ∧ s'.capture.streams = s.capture.streams ∧ s'.capture.ids = s.capture.ids :=
  ⟨(congrArg Capture.segs h.capture :), (congrArg Capture.streams h.capture :), (congrArg Capture.ids h.capture :)⟩

theorem EvSame.num {s s' : State} (h : EvSame s s') (i j : Nat) (hk : evKey (i * 256 + j) = false) : s'.num i j = s.num i j := by
  simp only [State.num, h.val _ hk]

theorem EvSame.blob {s s' : State} (h : EvSame s s') (i j : Nat) (hk : evKey (i * 256 + j) = false) : s'.blob i j = s.blob i j := by
  simp only [State.blob, h.val _ hk]

theorem bareReader_eq {a b : Reader} (h : bareReader a = bareReader b) :
    a.vals = b.vals ∧ a.lastProd = b.lastProd ∧ a.latched = b.latched ∧ a.snaps = b.snaps ∧ a.writes = b.writes :=
  ⟨(congrArg Reader.vals h :), (congrArg Reader.lastProd h :), (congrArg Reader.latched h :), (congrArg Reader.snaps h :),
    (congrArg Reader.writes h :)⟩

theorem EvSame.readerFields {s s' : State} (h : EvSame s s') (r : Nat) :
    (s'.reader r).vals = (s.reader r).vals ∧ (s'.reader r).lastProd = (s.reader r).lastProd ∧
    (s'.reader r).latched = (s.reader r).latched ∧ (s'.reader r).snaps = (s.reader r).snaps ∧
    (s'.reader r).writes = (s.reader r).writes := bareReader_eq (h.reader r)

variable (s : State)

/-! ### raise -/

@[simp] theorem raise_fields (e p0 p1 p2 : Nat) :
    (s.raise e p0 p1 p2).pending = s.pending ∧ (s.raise e p0 p1 p2).now = s.now ∧ (s.raise e p0 p1 p2).ridge = s.ridge ∧
    (s.raise e p0 p1 p2).meas = s.meas ∧ (s.raise e p0 p1 p2).graphs = s.graphs ∧ (s.raise e p0 p1 p2).gf = s.gf ∧
    (s.raise e p0 p1 p2).plate = s.plate ∧ (s.raise e p0 p1 p2).stk = s.stk ∧ (s.raise e p0 p1 p2).sides = s.sides ∧
    (s.raise e p0 p1 p2).safety = s.safety ∧ (s.raise e p0 p1 p2).sharing = s.sharing ∧ (s.raise e p0 p1 p2).ptp = s.ptp ∧
    (s.raise e p0 p1 p2).clock = s.clock ∧ (s.raise e p0 p1 p2).plls = s.plls ∧ (s.raise e p0 p1 p2).boot = s.boot ∧
    (s.raise e p0 p1 p2).out = s.out ∧ (s.raise e p0 p1 p2).freeCount = s.freeCount :=
  (raise_same e p0 p1 p2 s).fields
@[simp] theorem raise_netFields (e p0 p1 p2 : Nat) :
    (s.raise e p0 p1 p2).net.sessions = s.net.sessions ∧ (s.raise e p0 p1 p2).net.openSet = s.net.openSet ∧
    (s.raise e p0 p1 p2).net.nonces = s.net.nonces ∧ (s.raise e p0 p1 p2).net.fails = s.net.fails ∧
    (s.raise e p0 p1 p2).net.blocked = s.net.blocked ∧ (s.raise e p0 p1 p2).net.bootQueue = s.net.bootQueue ∧
    (s.raise e p0 p1 p2).net.dups = s.net.dups ∧ (s.raise e p0 p1 p2).net.nodes = s.net.nodes ∧
    (s.raise e p0 p1 p2).net.redSeq = s.net.redSeq ∧ (s.raise e p0 p1 p2).net.icmp = s.net.icmp ∧
    (s.raise e p0 p1 p2).net.lifeBack = s.net.lifeBack ∧ (s.raise e p0 p1 p2).net.ringPorts = s.net.ringPorts ∧
    (s.raise e p0 p1 p2).net.lifeAt = s.net.lifeAt ∧ (s.raise e p0 p1 p2).net.queue = s.net.queue ∧
    (s.raise e p0 p1 p2).net.nextReceipt = s.net.nextReceipt ∧ (s.raise e p0 p1 p2).net.lines = s.net.lines :=
  (raise_same e p0 p1 p2 s).netFields
@[simp] theorem raise_scribeFields (e p0 p1 p2 : Nat) :
    (s.raise e p0 p1 p2).scribe.saturated = s.scribe.saturated ∧ (s.raise e p0 p1 p2).scribe.histAt = s.scribe.histAt ∧
    (s.raise e p0 p1 p2).scribe.clears = s.scribe.clears ∧ (s.raise e p0 p1 p2).scribe.running = s.scribe.running ∧
    (s.raise e p0 p1 p2).scribe.ctrCmds = s.scribe.ctrCmds ∧ (s.raise e p0 p1 p2).scribe.lfsr = s.scribe.lfsr ∧
    (s.raise e p0 p1 p2).scribe.tagRing = s.scribe.tagRing ∧ (s.raise e p0 p1 p2).scribe.tagPend = s.scribe.tagPend ∧
    (s.raise e p0 p1 p2).scribe.tagStopped = s.scribe.tagStopped ∧ (s.raise e p0 p1 p2).scribe.hourTicks = s.scribe.hourTicks ∧
    (s.raise e p0 p1 p2).scribe.ordered = s.scribe.ordered :=
  (raise_same e p0 p1 p2 s).scribeFields
@[simp] theorem raise_captureFields (e p0 p1 p2 : Nat) :
    (s.raise e p0 p1 p2).capture.segs = s.capture.segs ∧ (s.raise e p0 p1 p2).capture.streams = s.capture.streams ∧
    (s.raise e p0 p1 p2).capture.ids = s.capture.ids :=
  (raise_same e p0 p1 p2 s).captureFields
@[simp] theorem raise_readerFields (r : Nat) (e p0 p1 p2 : Nat) :
    ((s.raise e p0 p1 p2).reader r).vals = (s.reader r).vals ∧ ((s.raise e p0 p1 p2).reader r).lastProd = (s.reader r).lastProd ∧
    ((s.raise e p0 p1 p2).reader r).latched = (s.reader r).latched ∧ ((s.raise e p0 p1 p2).reader r).snaps = (s.reader r).snaps ∧
    ((s.raise e p0 p1 p2).reader r).writes = (s.reader r).writes := (raise_same e p0 p1 p2 s).readerFields r
@[simp] theorem num_raise (e p0 p1 p2 : Nat) (i j : Nat) (h : evKey (i * 256 + j) = false) : (s.raise e p0 p1 p2).num i j = s.num i j := (raise_same e p0 p1 p2 s).num i j h
@[simp] theorem blob_raise (e p0 p1 p2 : Nat) (i j : Nat) (h : evKey (i * 256 + j) = false) : (s.raise e p0 p1 p2).blob i j = s.blob i j := (raise_same e p0 p1 p2 s).blob i j h

/-! ### fwNote -/

@[simp] theorem fwNote_fields (e p0 p1 p2 : Nat) :
    (s.fwNote e p0 p1 p2).pending = s.pending ∧ (s.fwNote e p0 p1 p2).now = s.now ∧ (s.fwNote e p0 p1 p2).ridge = s.ridge ∧
    (s.fwNote e p0 p1 p2).meas = s.meas ∧ (s.fwNote e p0 p1 p2).graphs = s.graphs ∧ (s.fwNote e p0 p1 p2).gf = s.gf ∧
    (s.fwNote e p0 p1 p2).plate = s.plate ∧ (s.fwNote e p0 p1 p2).stk = s.stk ∧ (s.fwNote e p0 p1 p2).sides = s.sides ∧
    (s.fwNote e p0 p1 p2).safety = s.safety ∧ (s.fwNote e p0 p1 p2).sharing = s.sharing ∧ (s.fwNote e p0 p1 p2).ptp = s.ptp ∧
    (s.fwNote e p0 p1 p2).clock = s.clock ∧ (s.fwNote e p0 p1 p2).plls = s.plls ∧ (s.fwNote e p0 p1 p2).boot = s.boot ∧
    (s.fwNote e p0 p1 p2).out = s.out ∧ (s.fwNote e p0 p1 p2).freeCount = s.freeCount :=
  (fwNote_same e p0 p1 p2 s).fields
@[simp] theorem fwNote_netFields (e p0 p1 p2 : Nat) :
    (s.fwNote e p0 p1 p2).net.sessions = s.net.sessions ∧ (s.fwNote e p0 p1 p2).net.openSet = s.net.openSet ∧
    (s.fwNote e p0 p1 p2).net.nonces = s.net.nonces ∧ (s.fwNote e p0 p1 p2).net.fails = s.net.fails ∧
    (s.fwNote e p0 p1 p2).net.blocked = s.net.blocked ∧ (s.fwNote e p0 p1 p2).net.bootQueue = s.net.bootQueue ∧
    (s.fwNote e p0 p1 p2).net.dups = s.net.dups ∧ (s.fwNote e p0 p1 p2).net.nodes = s.net.nodes ∧
    (s.fwNote e p0 p1 p2).net.redSeq = s.net.redSeq ∧ (s.fwNote e p0 p1 p2).net.icmp = s.net.icmp ∧
    (s.fwNote e p0 p1 p2).net.lifeBack = s.net.lifeBack ∧ (s.fwNote e p0 p1 p2).net.ringPorts = s.net.ringPorts ∧
    (s.fwNote e p0 p1 p2).net.lifeAt = s.net.lifeAt ∧ (s.fwNote e p0 p1 p2).net.queue = s.net.queue ∧
    (s.fwNote e p0 p1 p2).net.nextReceipt = s.net.nextReceipt ∧ (s.fwNote e p0 p1 p2).net.lines = s.net.lines :=
  (fwNote_same e p0 p1 p2 s).netFields
@[simp] theorem fwNote_scribeFields (e p0 p1 p2 : Nat) :
    (s.fwNote e p0 p1 p2).scribe.saturated = s.scribe.saturated ∧ (s.fwNote e p0 p1 p2).scribe.histAt = s.scribe.histAt ∧
    (s.fwNote e p0 p1 p2).scribe.clears = s.scribe.clears ∧ (s.fwNote e p0 p1 p2).scribe.running = s.scribe.running ∧
    (s.fwNote e p0 p1 p2).scribe.ctrCmds = s.scribe.ctrCmds ∧ (s.fwNote e p0 p1 p2).scribe.lfsr = s.scribe.lfsr ∧
    (s.fwNote e p0 p1 p2).scribe.tagRing = s.scribe.tagRing ∧ (s.fwNote e p0 p1 p2).scribe.tagPend = s.scribe.tagPend ∧
    (s.fwNote e p0 p1 p2).scribe.tagStopped = s.scribe.tagStopped ∧ (s.fwNote e p0 p1 p2).scribe.hourTicks = s.scribe.hourTicks ∧
    (s.fwNote e p0 p1 p2).scribe.ordered = s.scribe.ordered :=
  (fwNote_same e p0 p1 p2 s).scribeFields
@[simp] theorem fwNote_captureFields (e p0 p1 p2 : Nat) :
    (s.fwNote e p0 p1 p2).capture.segs = s.capture.segs ∧ (s.fwNote e p0 p1 p2).capture.streams = s.capture.streams ∧
    (s.fwNote e p0 p1 p2).capture.ids = s.capture.ids :=
  (fwNote_same e p0 p1 p2 s).captureFields
@[simp] theorem fwNote_readerFields (r : Nat) (e p0 p1 p2 : Nat) :
    ((s.fwNote e p0 p1 p2).reader r).vals = (s.reader r).vals ∧ ((s.fwNote e p0 p1 p2).reader r).lastProd = (s.reader r).lastProd ∧
    ((s.fwNote e p0 p1 p2).reader r).latched = (s.reader r).latched ∧ ((s.fwNote e p0 p1 p2).reader r).snaps = (s.reader r).snaps ∧
    ((s.fwNote e p0 p1 p2).reader r).writes = (s.reader r).writes := (fwNote_same e p0 p1 p2 s).readerFields r
@[simp] theorem num_fwNote (e p0 p1 p2 : Nat) (i j : Nat) (h : evKey (i * 256 + j) = false) : (s.fwNote e p0 p1 p2).num i j = s.num i j := (fwNote_same e p0 p1 p2 s).num i j h
@[simp] theorem blob_fwNote (e p0 p1 p2 : Nat) (i j : Nat) (h : evKey (i * 256 + j) = false) : (s.fwNote e p0 p1 p2).blob i j = s.blob i j := (fwNote_same e p0 p1 p2 s).blob i j h

/-! ### countEvent -/

@[simp] theorem countEvent_fields (b e n k : Nat) :
    (countEvent b e n k s).pending = s.pending ∧ (countEvent b e n k s).now = s.now ∧ (countEvent b e n k s).ridge = s.ridge ∧
    (countEvent b e n k s).meas = s.meas ∧ (countEvent b e n k s).graphs = s.graphs ∧ (countEvent b e n k s).gf = s.gf ∧
    (countEvent b e n k s).plate = s.plate ∧ (countEvent b e n k s).stk = s.stk ∧ (countEvent b e n k s).sides = s.sides ∧
    (countEvent b e n k s).safety = s.safety ∧ (countEvent b e n k s).sharing = s.sharing ∧ (countEvent b e n k s).ptp = s.ptp ∧
    (countEvent b e n k s).clock = s.clock ∧ (countEvent b e n k s).plls = s.plls ∧ (countEvent b e n k s).boot = s.boot ∧
    (countEvent b e n k s).out = s.out ∧ (countEvent b e n k s).freeCount = s.freeCount :=
  (countEvent_same b e n k s).fields
@[simp] theorem countEvent_netFields (b e n k : Nat) :
    (countEvent b e n k s).net.sessions = s.net.sessions ∧ (countEvent b e n k s).net.openSet = s.net.openSet ∧
    (countEvent b e n k s).net.nonces = s.net.nonces ∧ (countEvent b e n k s).net.fails = s.net.fails ∧
    (countEvent b e n k s).net.blocked = s.net.blocked ∧ (countEvent b e n k s).net.bootQueue = s.net.bootQueue ∧
    (countEvent b e n k s).net.dups = s.net.dups ∧ (countEvent b e n k s).net.nodes = s.net.nodes ∧
    (countEvent b e n k s).net.redSeq = s.net.redSeq ∧ (countEvent b e n k s).net.icmp = s.net.icmp ∧
    (countEvent b e n k s).net.lifeBack = s.net.lifeBack ∧ (countEvent b e n k s).net.ringPorts = s.net.ringPorts ∧
    (countEvent b e n k s).net.lifeAt = s.net.lifeAt ∧ (countEvent b e n k s).net.queue = s.net.queue ∧
    (countEvent b e n k s).net.nextReceipt = s.net.nextReceipt ∧ (countEvent b e n k s).net.lines = s.net.lines :=
  (countEvent_same b e n k s).netFields
@[simp] theorem countEvent_scribeFields (b e n k : Nat) :
    (countEvent b e n k s).scribe.saturated = s.scribe.saturated ∧ (countEvent b e n k s).scribe.histAt = s.scribe.histAt ∧
    (countEvent b e n k s).scribe.clears = s.scribe.clears ∧ (countEvent b e n k s).scribe.running = s.scribe.running ∧
    (countEvent b e n k s).scribe.ctrCmds = s.scribe.ctrCmds ∧ (countEvent b e n k s).scribe.lfsr = s.scribe.lfsr ∧
    (countEvent b e n k s).scribe.tagRing = s.scribe.tagRing ∧ (countEvent b e n k s).scribe.tagPend = s.scribe.tagPend ∧
    (countEvent b e n k s).scribe.tagStopped = s.scribe.tagStopped ∧ (countEvent b e n k s).scribe.hourTicks = s.scribe.hourTicks ∧
    (countEvent b e n k s).scribe.ordered = s.scribe.ordered :=
  (countEvent_same b e n k s).scribeFields
@[simp] theorem countEvent_captureFields (b e n k : Nat) :
    (countEvent b e n k s).capture.segs = s.capture.segs ∧ (countEvent b e n k s).capture.streams = s.capture.streams ∧
    (countEvent b e n k s).capture.ids = s.capture.ids :=
  (countEvent_same b e n k s).captureFields
@[simp] theorem countEvent_readerFields (r : Nat) (b e n k : Nat) :
    ((countEvent b e n k s).reader r).vals = (s.reader r).vals ∧ ((countEvent b e n k s).reader r).lastProd = (s.reader r).lastProd ∧
    ((countEvent b e n k s).reader r).latched = (s.reader r).latched ∧ ((countEvent b e n k s).reader r).snaps = (s.reader r).snaps ∧
    ((countEvent b e n k s).reader r).writes = (s.reader r).writes := (countEvent_same b e n k s).readerFields r
@[simp] theorem num_countEvent (b e n k : Nat) (i j : Nat) (h : evKey (i * 256 + j) = false) : (countEvent b e n k s).num i j = s.num i j := (countEvent_same b e n k s).num i j h
@[simp] theorem blob_countEvent (b e n k : Nat) (i j : Nat) (h : evKey (i * 256 + j) = false) : (countEvent b e n k s).blob i j = s.blob i j := (countEvent_same b e n k s).blob i j h

/-! ### reportLate -/

@[simp] theorem reportLate_fields :
    (s.reportLate).pending = s.pending ∧ (s.reportLate).now = s.now ∧ (s.reportLate).ridge = s.ridge ∧ (s.reportLate).meas = s.meas ∧
    (s.reportLate).graphs = s.graphs ∧ (s.reportLate).gf = s.gf ∧ (s.reportLate).plate = s.plate ∧ (s.reportLate).stk = s.stk ∧
    (s.reportLate).sides = s.sides ∧ (s.reportLate).safety = s.safety ∧ (s.reportLate).sharing = s.sharing ∧ (s.reportLate).ptp = s.ptp ∧
    (s.reportLate).clock = s.clock ∧ (s.reportLate).plls = s.plls ∧ (s.reportLate).boot = s.boot ∧ (s.reportLate).out = s.out ∧
    (s.reportLate).freeCount = s.freeCount :=
  (reportLate_same s).fields
@[simp] theorem reportLate_netFields :
    (s.reportLate).net.sessions = s.net.sessions ∧ (s.reportLate).net.openSet = s.net.openSet ∧
    (s.reportLate).net.nonces = s.net.nonces ∧ (s.reportLate).net.fails = s.net.fails ∧ (s.reportLate).net.blocked = s.net.blocked ∧
    (s.reportLate).net.bootQueue = s.net.bootQueue ∧ (s.reportLate).net.dups = s.net.dups ∧ (s.reportLate).net.nodes = s.net.nodes ∧
    (s.reportLate).net.redSeq = s.net.redSeq ∧ (s.reportLate).net.icmp = s.net.icmp ∧ (s.reportLate).net.lifeBack = s.net.lifeBack ∧
    (s.reportLate).net.ringPorts = s.net.ringPorts ∧ (s.reportLate).net.lifeAt = s.net.lifeAt ∧ (s.reportLate).net.queue = s.net.queue ∧
    (s.reportLate).net.nextReceipt = s.net.nextReceipt ∧ (s.reportLate).net.lines = s.net.lines :=
  (reportLate_same s).netFields
@[simp] theorem reportLate_scribeFields :
    (s.reportLate).scribe.saturated = s.scribe.saturated ∧ (s.reportLate).scribe.histAt = s.scribe.histAt ∧
    (s.reportLate).scribe.clears = s.scribe.clears ∧ (s.reportLate).scribe.running = s.scribe.running ∧
    (s.reportLate).scribe.ctrCmds = s.scribe.ctrCmds ∧ (s.reportLate).scribe.lfsr = s.scribe.lfsr ∧
    (s.reportLate).scribe.tagRing = s.scribe.tagRing ∧ (s.reportLate).scribe.tagPend = s.scribe.tagPend ∧
    (s.reportLate).scribe.tagStopped = s.scribe.tagStopped ∧ (s.reportLate).scribe.hourTicks = s.scribe.hourTicks ∧
    (s.reportLate).scribe.ordered = s.scribe.ordered :=
  (reportLate_same s).scribeFields
@[simp] theorem reportLate_captureFields :
    (s.reportLate).capture.segs = s.capture.segs ∧ (s.reportLate).capture.streams = s.capture.streams ∧
    (s.reportLate).capture.ids = s.capture.ids :=
  (reportLate_same s).captureFields
@[simp] theorem reportLate_readerFields (r : Nat) :
    ((s.reportLate).reader r).vals = (s.reader r).vals ∧ ((s.reportLate).reader r).lastProd = (s.reader r).lastProd ∧
    ((s.reportLate).reader r).latched = (s.reader r).latched ∧ ((s.reportLate).reader r).snaps = (s.reader r).snaps ∧
    ((s.reportLate).reader r).writes = (s.reader r).writes := (reportLate_same s).readerFields r
@[simp] theorem num_reportLate (i j : Nat) (h : evKey (i * 256 + j) = false) : (s.reportLate).num i j = s.num i j := (reportLate_same s).num i j h
@[simp] theorem blob_reportLate (i j : Nat) (h : evKey (i * 256 + j) = false) : (s.reportLate).blob i j = s.blob i j := (reportLate_same s).blob i j h

/-! ### The end of a command -/

@[simp] theorem settle_fields :
    s.settle.pending = s.pending ∧ s.settle.now = s.now ∧ s.settle.ridge = s.ridge ∧ s.settle.od = s.od ∧ s.settle.meas = s.meas ∧
    s.settle.graphs = s.graphs ∧ s.settle.gf = s.gf ∧ s.settle.stk = s.stk ∧ s.settle.sides = s.sides ∧ s.settle.safety = s.safety ∧
    s.settle.sharing = s.sharing ∧ s.settle.ptp = s.ptp ∧ s.settle.clock = s.clock ∧ s.settle.plls = s.plls ∧
    s.settle.capture = s.capture ∧ s.settle.scribe = s.scribe ∧ s.settle.net = s.net ∧ s.settle.boot = s.boot ∧ s.settle.out = s.out ∧
    s.settle.freeCount = s.freeCount :=
  ⟨rfl, rfl, rfl, rfl, rfl, rfl, rfl, rfl, rfl, rfl, rfl, rfl, rfl, rfl, rfl, rfl, rfl, rfl, rfl, rfl⟩
@[simp] theorem settle_plateFields :
    s.settle.plate.a = s.plate.a ∧ s.settle.plate.b = s.plate.b ∧ s.settle.plate.waiting = s.plate.waiting ∧
    s.settle.plate.disabled = s.plate.disabled ∧ s.settle.plate.pendingMaps = s.plate.pendingMaps ∧
    s.settle.plate.mapNow = s.plate.mapNow ∧ s.settle.plate.spareMap = s.plate.spareMap ∧
    s.settle.plate.faultLevel = s.plate.faultLevel ∧ s.settle.plate.gateHold = s.plate.gateHold ∧
    s.settle.plate.halted = s.plate.halted ∧ s.settle.plate.haltAt = s.plate.haltAt ∧ s.settle.plate.resumedAt = s.plate.resumedAt ∧
    s.settle.plate.skipSig = s.plate.skipSig ∧ s.settle.plate.announced = s.plate.announced :=
  ⟨rfl, rfl, rfl, rfl, rfl, rfl, rfl, rfl, rfl, rfl, rfl, rfl, rfl, rfl⟩
@[simp] theorem settle_num (i j : Nat) : s.settle.num i j = s.num i j := rfl
@[simp] theorem settle_blob (i j : Nat) : s.settle.blob i j = s.blob i j := rfl
@[simp] theorem settle_val (k : Nat) : s.settle.val k = s.val k := rfl
@[simp] theorem settle_reader (r : Nat) : s.settle.reader r = s.reader r := rfl
@[simp] theorem settle_sill (x : Side) : s.settle.sill x = s.sill x := by cases x <;> rfl

/-- The state a command leaves, from the state its effect leaves. -/
def State.ended (u : State) (q : List Instr) : State := { u.reportLate.settle with pending := q }

/-- Every command with well-formed operands: time runs, its effect acts, the command ends. -/
theorem run_wf {c : Instr} (f : State → State) (h : c.wf = true) : run c f s = .next ((f (s.arrive c.time)).ended s.pending) := by
  simp [run, h, State.ended]

/-- A command whose operands are not well formed only lets time pass. -/
theorem run_not_wf {c : Instr} (f : State → State) (h : c.wf = false) : run c f s = .next ((s.arrive c.time).ended s.pending) := by
  simp [run, h, State.ended]

/-- The end of a command writes what events write, and settles the plate. -/
@[simp] theorem ended_fields (q : List Instr) :
    (s.ended q).now = s.now ∧ (s.ended q).ridge = s.ridge ∧ (s.ended q).meas = s.meas ∧ (s.ended q).graphs = s.graphs ∧
    (s.ended q).gf = s.gf ∧ (s.ended q).stk = s.stk ∧ (s.ended q).sides = s.sides ∧ (s.ended q).safety = s.safety ∧
    (s.ended q).sharing = s.sharing ∧ (s.ended q).ptp = s.ptp ∧ (s.ended q).clock = s.clock ∧ (s.ended q).plls = s.plls ∧
    (s.ended q).boot = s.boot ∧ (s.ended q).out = s.out ∧ (s.ended q).freeCount = s.freeCount := by
  simp [State.ended]
@[simp] theorem ended_pending (q : List Instr) : (s.ended q).pending = q := rfl
@[simp] theorem ended_netFields (q : List Instr) :
    (s.ended q).net.sessions = s.net.sessions ∧ (s.ended q).net.openSet = s.net.openSet ∧ (s.ended q).net.nonces = s.net.nonces ∧
    (s.ended q).net.fails = s.net.fails ∧ (s.ended q).net.blocked = s.net.blocked ∧ (s.ended q).net.bootQueue = s.net.bootQueue ∧
    (s.ended q).net.dups = s.net.dups ∧ (s.ended q).net.nodes = s.net.nodes ∧ (s.ended q).net.redSeq = s.net.redSeq ∧
    (s.ended q).net.icmp = s.net.icmp ∧ (s.ended q).net.lifeBack = s.net.lifeBack ∧ (s.ended q).net.ringPorts = s.net.ringPorts ∧
    (s.ended q).net.lifeAt = s.net.lifeAt ∧ (s.ended q).net.queue = s.net.queue ∧
    (s.ended q).net.nextReceipt = s.net.nextReceipt ∧ (s.ended q).net.lines = s.net.lines :=
  (reportLate_same s).netFields
@[simp] theorem ended_scribeFields (q : List Instr) :
    (s.ended q).scribe.saturated = s.scribe.saturated ∧ (s.ended q).scribe.histAt = s.scribe.histAt ∧
    (s.ended q).scribe.clears = s.scribe.clears ∧ (s.ended q).scribe.running = s.scribe.running ∧
    (s.ended q).scribe.ctrCmds = s.scribe.ctrCmds ∧ (s.ended q).scribe.lfsr = s.scribe.lfsr ∧
    (s.ended q).scribe.tagRing = s.scribe.tagRing ∧ (s.ended q).scribe.tagPend = s.scribe.tagPend ∧
    (s.ended q).scribe.tagStopped = s.scribe.tagStopped ∧ (s.ended q).scribe.hourTicks = s.scribe.hourTicks ∧
    (s.ended q).scribe.ordered = s.scribe.ordered :=
  (reportLate_same s).scribeFields
@[simp] theorem ended_captureFields (q : List Instr) :
    (s.ended q).capture.segs = s.capture.segs ∧ (s.ended q).capture.streams = s.capture.streams ∧ (s.ended q).capture.ids = s.capture.ids :=
  (reportLate_same s).captureFields
@[simp] theorem ended_readerFields (q : List Instr) (r : Nat) :
    ((s.ended q).reader r).vals = (s.reader r).vals ∧ ((s.ended q).reader r).lastProd = (s.reader r).lastProd ∧
    ((s.ended q).reader r).latched = (s.reader r).latched ∧ ((s.ended q).reader r).snaps = (s.reader r).snaps ∧
    ((s.ended q).reader r).writes = (s.reader r).writes := (reportLate_same s).readerFields r
@[simp] theorem ended_plateFields (q : List Instr) :
    (s.ended q).plate.a = s.plate.a ∧ (s.ended q).plate.b = s.plate.b ∧ (s.ended q).plate.waiting = s.plate.waiting ∧
    (s.ended q).plate.disabled = s.plate.disabled ∧ (s.ended q).plate.pendingMaps = s.plate.pendingMaps ∧
    (s.ended q).plate.mapNow = s.plate.mapNow ∧
    (s.ended q).plate.spareMap = s.plate.spareMap ∧ (s.ended q).plate.faultLevel = s.plate.faultLevel ∧
    (s.ended q).plate.gateHold = s.plate.gateHold ∧ (s.ended q).plate.halted = s.plate.halted ∧
    (s.ended q).plate.haltAt = s.plate.haltAt ∧ (s.ended q).plate.resumedAt = s.plate.resumedAt ∧
    (s.ended q).plate.skipSig = s.plate.skipSig ∧ (s.ended q).plate.announced = s.plate.announced := by
  simp [State.ended]
@[simp] theorem num_ended (q : List Instr) (i j : Nat) (h : evKey (i * 256 + j) = false) : (s.ended q).num i j = s.num i j :=
  (reportLate_same s).num i j h
@[simp] theorem blob_ended (q : List Instr) (i j : Nat) (h : evKey (i * 256 + j) = false) : (s.ended q).blob i j = s.blob i j :=
  (reportLate_same s).blob i j h

/-- A command completes by its effect: the form that Gives has once exec and the meaning are unfolded. -/
theorem gives_run {c : Instr} {P : State → State → Prop} {f : State → State} {b : State} (hb : s.arrive c.time = b)
    (h : c.wf = true) (hP : P b ((f b).ended s.pending)) : ∃ s', run c f s = .next s' ∧ P (s.arrive c.time) s' := by
  subst hb; exact ⟨_, run_wf s f h, hP⟩

end Sys2Proof.Machine
end

