-- ==== Sys2Proof/Laws/Words.lean ====
section
/-!
SUPPORT. The status words that many rules read, under events, under the end of a command, and under the updates that set them.
-/

set_option Elab.async false
namespace Sys2Proof.Machine
open Sys2Proof
theorem fld_of_num {s s' : State} {i j : Nat} (h : s'.num i j = s.num i j) (hi lo : Nat) : s'.fld i j hi lo = s.fld i j hi lo := by
  simp [State.fld, h]
@[simp] theorem fld_ended (u : State) (q) (i j hi lo : Nat) (h : evKey (i * 256 + j) = false) : (u.ended q).fld i j hi lo = u.fld i j hi lo := by
  simp [State.fld, h]
@[simp] theorem bit_ended (u : State) (q) (i j n : Nat) (h : evKey (i * 256 + j) = false) : (u.ended q).bit i j n = u.bit i j n := by
  simp [State.bit, h]
@[simp] theorem fld_raise (u : State) (e a b c i j hi lo : Nat) (h : evKey (i * 256 + j) = false) : (u.raise e a b c).fld i j hi lo = u.fld i j hi lo := by
  simp [State.fld, h]
@[simp] theorem bit_raise (u : State) (e a b c i j n : Nat) (h : evKey (i * 256 + j) = false) : (u.raise e a b c).bit i j n = u.bit i j n := by
  simp [State.bit, h]
theorem stage_setStage (n : Nat) (s : State) : (setStage n s).stage = n % 16 := by
  have h : 31 < 8 * sizeOf 0xB000 1 := by decide
  have e : (setStage n s).stage = (s.setFld 0xB000 1 31 28 n).fld 0xB000 1 31 28 := by simp [setStage, State.stage, State.fld]
  exact e.trans (State.fld_setFld s n (by decide) h)
@[simp] theorem stage_ended (u : State) (q) : (u.ended q).stage = u.stage := by simp [State.stage, evKey]
@[simp] theorem gfState_ended (u : State) (q) : (u.ended q).gfState = u.gfState := by simp [State.gfState, evKey]
@[simp] theorem sideState_ended (u : State) (q) (x) : (u.ended q).sideState x = u.sideState x := by cases x <;> simp [State.sideState, evKey]
@[simp] theorem num_setStage (n : Nat) (s : State) (i j : Nat) (h : i * 256 + j ≠ 0xB00001) (h' : i * 256 + j ≠ 0xB00004) : (setStage n s).num i j = s.num i j := by
  simp [setStage, h, h']
@[simp] theorem blob_setStage (n : Nat) (s : State) (i j : Nat) (h : i * 256 + j ≠ 0xB00001) (h' : i * 256 + j ≠ 0xB00004) : (setStage n s).blob i j = s.blob i j := by
  simp [setStage, h, h', State.setFld]
@[simp] theorem setStage_boot (n : Nat) (s : State) : (setStage n s).boot = s.boot := by simp [setStage]
@[simp] theorem setStage_out (n : Nat) (s : State) : (setStage n s).out = s.out := by simp [setStage]
@[simp] theorem setStage_now (n : Nat) (s : State) : (setStage n s).now = s.now := by simp [setStage]
/-! ### A state given by its fields -/

/-- The state after power good with the objects of another: what a word of the dictionary reads depends on nothing else. -/
def odS (od : Store Val) : State := { State.reset with od := od }

section
variable (f1 : List Instr) (f2 f3 : Nat) (f4 : Store Val) (f5 : Store Nat) (f6 : Meas) (f7 : Graphs) (f8 : GridForm) (f9 : Plate)
  (f10 : Store Stack) (f11 : Sides) (f12 : Safety) (f13 : Sharing) (f14 : Store PtpPort) (f15 : Clock) (f16 : Store Pll) (f17 : Capture)
  (f18 : Scribe) (f19 : Net) (f20 : Boot) (f21 : List Out) (f22 : Nat)

@[simp] theorem stage_mk :
    State.stage ⟨f1, f2, f3, f4, f5, f6, f7, f8, f9, f10, f11, f12, f13, f14, f15, f16, f17, f18, f19, f20, f21, f22⟩ = (odS f4).stage := rfl
@[simp] theorem stage_odS (s : State) : (odS s.od).stage = s.stage := rfl
@[simp] theorem ready_mk :
    State.ready ⟨f1, f2, f3, f4, f5, f6, f7, f8, f9, f10, f11, f12, f13, f14, f15, f16, f17, f18, f19, f20, f21, f22⟩ = (odS f4).ready := rfl
@[simp] theorem ready_odS (s : State) : (odS s.od).ready = s.ready := rfl
@[simp] theorem gfState_mk :
    State.gfState ⟨f1, f2, f3, f4, f5, f6, f7, f8, f9, f10, f11, f12, f13, f14, f15, f16, f17, f18, f19, f20, f21, f22⟩ = (odS f4).gfState := rfl
@[simp] theorem gfState_odS (s : State) : (odS s.od).gfState = s.gfState := rfl
@[simp] theorem stopped_mk :
    State.stopped ⟨f1, f2, f3, f4, f5, f6, f7, f8, f9, f10, f11, f12, f13, f14, f15, f16, f17, f18, f19, f20, f21, f22⟩ = (odS f4).stopped := rfl
@[simp] theorem stopped_odS (s : State) : (odS s.od).stopped = s.stopped := rfl
@[simp] theorem sideState_mk (x : Side) :
    State.sideState ⟨f1, f2, f3, f4, f5, f6, f7, f8, f9, f10, f11, f12, f13, f14, f15, f16, f17, f18, f19, f20, f21, f22⟩ x = (odS f4).sideState x := by cases x <;> rfl
@[simp] theorem sideState_odS (s : State) (x : Side) : (odS s.od).sideState x = s.sideState x := by cases x <;> rfl
@[simp] theorem inService_mk (x : Side) :
    State.inService ⟨f1, f2, f3, f4, f5, f6, f7, f8, f9, f10, f11, f12, f13, f14, f15, f16, f17, f18, f19, f20, f21, f22⟩ x = (odS f4).inService x := by cases x <;> rfl
@[simp] theorem inService_odS (s : State) (x : Side) : (odS s.od).inService x = s.inService x := by cases x <;> rfl
@[simp] theorem powered_mk (x : Side) :
    State.powered ⟨f1, f2, f3, f4, f5, f6, f7, f8, f9, f10, f11, f12, f13, f14, f15, f16, f17, f18, f19, f20, f21, f22⟩ x = (odS f4).powered x := by cases x <;> rfl
@[simp] theorem powered_odS (s : State) (x : Side) : (odS s.od).powered x = s.powered x := by cases x <;> rfl
@[simp] theorem control_mk :
    State.control ⟨f1, f2, f3, f4, f5, f6, f7, f8, f9, f10, f11, f12, f13, f14, f15, f16, f17, f18, f19, f20, f21, f22⟩ = (odS f4).control := rfl
@[simp] theorem control_odS (s : State) : (odS s.od).control = s.control := rfl
@[simp] theorem reporter_mk :
    State.reporter ⟨f1, f2, f3, f4, f5, f6, f7, f8, f9, f10, f11, f12, f13, f14, f15, f16, f17, f18, f19, f20, f21, f22⟩ = (odS f4).reporter := rfl
@[simp] theorem reporter_odS (s : State) : (odS s.od).reporter = s.reporter := rfl
@[simp] theorem feeds_mk (x : Side) :
    State.feeds ⟨f1, f2, f3, f4, f5, f6, f7, f8, f9, f10, f11, f12, f13, f14, f15, f16, f17, f18, f19, f20, f21, f22⟩ x = (odS f4).feeds x := by cases x <;> rfl
@[simp] theorem feeds_odS (s : State) (x : Side) : (odS s.od).feeds x = s.feeds x := by cases x <;> rfl
@[simp] theorem profile_mk :
    State.profile ⟨f1, f2, f3, f4, f5, f6, f7, f8, f9, f10, f11, f12, f13, f14, f15, f16, f17, f18, f19, f20, f21, f22⟩ = (odS f4).profile := rfl
@[simp] theorem profile_odS (s : State) : (odS s.od).profile = s.profile := rfl
@[simp] theorem demandLatched_mk :
    State.demandLatched ⟨f1, f2, f3, f4, f5, f6, f7, f8, f9, f10, f11, f12, f13, f14, f15, f16, f17, f18, f19, f20, f21, f22⟩ = (odS f4).demandLatched := rfl
@[simp] theorem demandLatched_odS (s : State) : (odS s.od).demandLatched = s.demandLatched := rfl
@[simp] theorem commissioning_mk :
    State.commissioning ⟨f1, f2, f3, f4, f5, f6, f7, f8, f9, f10, f11, f12, f13, f14, f15, f16, f17, f18, f19, f20, f21, f22⟩ = (odS f4).commissioning := rfl
@[simp] theorem commissioning_odS (s : State) : (odS s.od).commissioning = s.commissioning := rfl
@[simp] theorem fld_mk (i j hi lo : Nat) :
    State.fld ⟨f1, f2, f3, f4, f5, f6, f7, f8, f9, f10, f11, f12, f13, f14, f15, f16, f17, f18, f19, f20, f21, f22⟩ i j hi lo = (odS f4).fld i j hi lo := rfl
@[simp] theorem fld_odS (s : State) (i j hi lo : Nat) : (odS s.od).fld i j hi lo = s.fld i j hi lo := rfl
@[simp] theorem bit_mk (i j n : Nat) :
    State.bit ⟨f1, f2, f3, f4, f5, f6, f7, f8, f9, f10, f11, f12, f13, f14, f15, f16, f17, f18, f19, f20, f21, f22⟩ i j n = (odS f4).bit i j n := rfl
@[simp] theorem bit_odS (s : State) (i j n : Nat) : (odS s.od).bit i j n = s.bit i j n := rfl
@[simp] theorem driveState_mk :
    State.driveState ⟨f1, f2, f3, f4, f5, f6, f7, f8, f9, f10, f11, f12, f13, f14, f15, f16, f17, f18, f19, f20, f21, f22⟩ = (odS f4).driveState := rfl
@[simp] theorem driveState_odS (s : State) : (odS s.od).driveState = s.driveState := rfl
@[simp] theorem reports_mk (x : Side) :
    State.reports ⟨f1, f2, f3, f4, f5, f6, f7, f8, f9, f10, f11, f12, f13, f14, f15, f16, f17, f18, f19, f20, f21, f22⟩ x = (odS f4).reports x := by cases x <;> rfl
@[simp] theorem reports_odS (s : State) (x : Side) : (odS s.od).reports x = s.reports x := by cases x <;> rfl
@[simp] theorem permit_mk :
    State.permit ⟨f1, f2, f3, f4, f5, f6, f7, f8, f9, f10, f11, f12, f13, f14, f15, f16, f17, f18, f19, f20, f21, f22⟩ = (odS f4).permit := rfl
@[simp] theorem permit_odS (s : State) : (odS s.od).permit = s.permit := rfl
@[simp] theorem closeActive_mk :
    State.closeActive ⟨f1, f2, f3, f4, f5, f6, f7, f8, f9, f10, f11, f12, f13, f14, f15, f16, f17, f18, f19, f20, f21, f22⟩ = (odS f4).closeActive := rfl
@[simp] theorem closeActive_odS (s : State) : (odS s.od).closeActive = s.closeActive := rfl
@[simp] theorem armed_mk :
    State.armed ⟨f1, f2, f3, f4, f5, f6, f7, f8, f9, f10, f11, f12, f13, f14, f15, f16, f17, f18, f19, f20, f21, f22⟩ = (odS f4).armed := rfl
@[simp] theorem armed_odS (s : State) : (odS s.od).armed = s.armed := rfl
end

/-! ### Fields and bits after an update -/

section
variable (s : State)

@[simp] theorem fld_setFld_same (i j hi lo v : Nat) (hl : lo ≤ hi) (h : hi < 8 * sizeOf i j) :
    (s.setFld i j hi lo v).fld i j hi lo = v % 2 ^ (hi + 1 - lo) := s.fld_setFld v hl h
@[simp] theorem fld_setFld_apart (i j hi lo hi' lo' v : Nat) (hl : lo ≤ hi) (h : hi' < 8 * sizeOf i j) (hd : hi' < lo ∨ hi < lo') :
    (s.setFld i j hi lo v).fld i j hi' lo' = s.fld i j hi' lo' := s.fld_setFld_field v hl h hd
@[simp] theorem fld_setFld_far (i j hi lo v i' j' hi' lo' : Nat) (h : i' * 256 + j' ≠ i * 256 + j) :
    (s.setFld i j hi lo v).fld i' j' hi' lo' = s.fld i' j' hi' lo' := by simp [State.fld, h]
@[simp] theorem fld_setNum_same (i j hi lo v : Nat) (h : hi < 8 * sizeOf i j) : (s.setNum i j v).fld i j hi lo = bits v hi lo :=
  s.fld_setNum v h
@[simp] theorem fld_setNum_far (i j v i' j' hi' lo' : Nat) (h : i' * 256 + j' ≠ i * 256 + j) :
    (s.setNum i j v).fld i' j' hi' lo' = s.fld i' j' hi' lo' := by simp [State.fld, h]
@[simp] theorem fld_setBlob_far (i j : Nat) (b : List Nat) (i' j' hi' lo' : Nat) (h : i' * 256 + j' ≠ i * 256 + j) :
    (s.setBlob i j b).fld i' j' hi' lo' = s.fld i' j' hi' lo' := by simp [State.fld, h]
@[simp] theorem fld_setBitO_far (i j n : Nat) (b : Bool) (i' j' hi' lo' : Nat) (h : i' * 256 + j' ≠ i * 256 + j) :
    (s.setBitO i j n b).fld i' j' hi' lo' = s.fld i' j' hi' lo' := by simp [State.fld, h]
@[simp] theorem fld_setBitO_apart (i j n : Nat) (b : Bool) (hi lo : Nat) (h : hi < 8 * sizeOf i j) (hd : hi < n ∨ n < lo) :
    (s.setBitO i j n b).fld i j hi lo = s.fld i j hi lo := by
  rw [show (s.setBitO i j n b).fld i j hi lo = (s.setNum i j (setBit (s.num i j) n b)).fld i j hi lo from rfl, State.fld_setNum s _ h, setBit, bits_setBits_other (Nat.le_refl n) hd, State.fld]
@[simp] theorem bit_setBitO_same (i j n : Nat) (b : Bool) (h : n < 8 * sizeOf i j) : (s.setBitO i j n b).bit i j n = b := s.bit_set b h
@[simp] theorem bit_setBitO_apart (i j n m : Nat) (b : Bool) (h : m < 8 * sizeOf i j) (hm : m ≠ n) :
    (s.setBitO i j n b).bit i j m = s.bit i j m := by simp [State.bit_setBitO s b i j m h, hm]
@[simp] theorem bit_setBitO_far (i j n : Nat) (b : Bool) (i' j' m : Nat) (h : i' * 256 + j' ≠ i * 256 + j) :
    (s.setBitO i j n b).bit i' j' m = s.bit i' j' m := by simp [State.bit, h]
@[simp] theorem bit_setNum_same (i j v n : Nat) (h : n < 8 * sizeOf i j) : (s.setNum i j v).bit i j n = v.testBit n := by
  simp [State.bit, Nat.testBit_mod_two_pow, h]
@[simp] theorem bit_setNum_far (i j v i' j' m : Nat) (h : i' * 256 + j' ≠ i * 256 + j) :
    (s.setNum i j v).bit i' j' m = s.bit i' j' m := by simp [State.bit, h]
@[simp] theorem bit_setBlob_far (i j : Nat) (b : List Nat) (i' j' m : Nat) (h : i' * 256 + j' ≠ i * 256 + j) :
    (s.setBlob i j b).bit i' j' m = s.bit i' j' m := by simp [State.bit, h]
@[simp] theorem bit_setFld_far (i j hi lo v i' j' m : Nat) (h : i' * 256 + j' ≠ i * 256 + j) :
    (s.setFld i j hi lo v).bit i' j' m = s.bit i' j' m := by simp [State.bit, h]
@[simp] theorem bit_setFld_apart (i j hi lo v m : Nat) (hl : lo ≤ hi) (h : m < 8 * sizeOf i j) (hd : m < lo ∨ hi < m) :
    (s.setFld i j hi lo v).bit i j m = s.bit i j m := by
  simp only [State.bit, State.setFld, State.num_setNum, if_true, Nat.testBit_mod_two_pow, h, decide_true, Bool.true_and]
  rw [testBit_setBits hl]
  rcases hd with hd | hd
  · simp [hd]
  · simp [show ¬ m < lo by omega, show ¬ m ≤ hi by omega]
@[simp] theorem blob_setFld (i j hi lo v i' j' : Nat) (h : i' * 256 + j' ≠ i * 256 + j) :
    (s.setFld i j hi lo v).blob i' j' = s.blob i' j' := by simp [State.setFld, h]
@[simp] theorem blob_setBitO (i j n : Nat) (b : Bool) (i' j' : Nat) (h : i' * 256 + j' ≠ i * 256 + j) :
    (s.setBitO i j n b).blob i' j' = s.blob i' j' := by simp [State.setBitO, h]
@[simp] theorem fld_countEvent (b e n k i j hi lo : Nat) (h : evKey (i * 256 + j) = false) :
    (countEvent b e n k s).fld i j hi lo = s.fld i j hi lo := by simp [State.fld, h]
@[simp] theorem bit_countEvent (b e n k i j m : Nat) (h : evKey (i * 256 + j) = false) :
    (countEvent b e n k s).bit i j m = s.bit i j m := by simp [State.bit, h]
@[simp] theorem fld_fwNote (e p0 p1 p2 i j hi lo : Nat) (h : evKey (i * 256 + j) = false) :
    (s.fwNote e p0 p1 p2).fld i j hi lo = s.fld i j hi lo := by simp [State.fld, h]
@[simp] theorem bit_fwNote (e p0 p1 p2 i j m : Nat) (h : evKey (i * 256 + j) = false) :
    (s.fwNote e p0 p1 p2).bit i j m = s.bit i j m := by simp [State.bit, h]
@[simp] theorem fld_setStage_far (n i j hi lo : Nat) (h : i * 256 + j ≠ 0xB00001) (h' : i * 256 + j ≠ 0xB00004) :
    (setStage n s).fld i j hi lo = s.fld i j hi lo := by simp [State.fld, h, h']
@[simp] theorem bit_setStage_far (n i j m : Nat) (h : i * 256 + j ≠ 0xB00001) (h' : i * 256 + j ≠ 0xB00004) :
    (setStage n s).bit i j m = s.bit i j m := by simp [State.bit, h, h']
end

end Sys2Proof.Machine
end

