-- ==== Sys2Proof/Laws/Reads.lean ====
section
/-!
SUPPORT. What is read of the state's records, objects and status words after each update that leaves them alone, and of a record after it
is set.
-/

set_option Elab.async false
namespace Sys2Proof.Machine

/-- What every step of a fold leaves alone, the fold leaves alone. -/
theorem foldl_keep {α β : Type} (p : State → β) (l : List α) (f : State → α → State) (h : ∀ s a, a ∈ l → p (f s a) = p s) (s : State) :
    p (l.foldl f s) = p s := by
  induction l generalizing s with
  | nil => rfl
  | cons a l ih => exact (ih (fun s b hb => h s b (by simp [hb])) (f s a)).trans (h s a (by simp))

theorem forN_keep {β : Type} (p : State → β) (n : Nat) (f : Nat → State → State) (h : ∀ i s, i < n → p (f i s) = p s) (s : State) :
    p (forN n f s) = p s := foldl_keep p _ _ (fun s i hi => h i s (List.mem_range.mp hi)) s

theorem forMask_keep {β : Type} (p : State → β) (n m : Nat) (f : Nat → State → State) (h : ∀ i s, i < n → p (f i s) = p s) (s : State) :
    p (forMask n m f s) = p s := foldl_keep p _ _ (fun s i hi => h i s (by simp [maskList] at hi; exact hi.1)) s

section
variable (s : State)

/-! ### Records after an object is written -/

@[simp] theorem putVal_records (k : Nat) (v : Val) :
    (∀ (r' : Nat), (s.putVal k v).reader r' = s.reader r') ∧
    (∀ (x' : Side) (k' : Nat), (s.putVal k v).engine x' k' = s.engine x' k') ∧
    (∀ (k' : Nat), (s.putVal k v).stack k' = s.stack k') ∧
    (∀ (x' : Side), (s.putVal k v).sideRt x' = s.sideRt x') ∧
    (∀ (x' : Side), (s.putVal k v).graph x' = s.graph x') ∧
    (∀ (x' : Side), (s.putVal k v).sill x' = s.sill x') ∧
    (∀ (n' : Nat), (s.putVal k v).plateOf n' = s.plateOf n') ∧
    (∀ (x' : Side) (d' : Nat), (s.putVal k v).arc x' d' = s.arc x' d') ∧
    (∀ (x' : Side) (c' : Nat), (s.putVal k v).chain x' c' = s.chain x' c') ∧
    (∀ (g' : Nat), (s.putVal k v).group g' = s.group g') ∧
    (∀ (c' : Nat), (s.putVal k v).feedback c' = s.feedback c') ∧
    (∀ (c' : Nat) (k' : Nat), (s.putVal k v).comp c' k' = s.comp c' k') ∧
    (∀ (c' : Nat), (s.putVal k v).blank c' = s.blank c') ∧
    (∀ (r' : Nat) (b' : Nat), (s.putVal k v).history r' b' = s.history r' b') ∧
    (∀ (r' : Nat) (n' : Nat), (s.putVal k v).arbiter r' n' = s.arbiter r' n') ∧
    (∀ (n' : Nat), (s.putVal k v).sem n' = s.sem n') ∧
    (∀ (x' : Nat), (s.putVal k v).ptpPort x' = s.ptpPort x') ∧
    (∀ (p' : Nat), (s.putVal k v).pll p' = s.pll p') ∧
    (∀ (x' : Side) (n' : Nat), (s.putVal k v).segment x' n' = s.segment x' n') ∧
    (∀ (k' : Nat), (s.putVal k v).stream k' = s.stream k') := by
  refine ⟨?_, ?_, ?_, ?_, ?_, ?_, ?_, ?_, ?_, ?_, ?_, ?_, ?_, ?_, ?_, ?_, ?_, ?_, ?_, ?_⟩ <;> intros <;> rfl

@[simp] theorem setNum_records (i : Nat) (j : Nat) (v : Nat) :
    (∀ (r' : Nat), (s.setNum i j v).reader r' = s.reader r') ∧
    (∀ (x' : Side) (k' : Nat), (s.setNum i j v).engine x' k' = s.engine x' k') ∧
    (∀ (k' : Nat), (s.setNum i j v).stack k' = s.stack k') ∧
    (∀ (x' : Side), (s.setNum i j v).sideRt x' = s.sideRt x') ∧
    (∀ (x' : Side), (s.setNum i j v).graph x' = s.graph x') ∧
    (∀ (x' : Side), (s.setNum i j v).sill x' = s.sill x') ∧
    (∀ (n' : Nat), (s.setNum i j v).plateOf n' = s.plateOf n') ∧
    (∀ (x' : Side) (d' : Nat), (s.setNum i j v).arc x' d' = s.arc x' d') ∧
    (∀ (x' : Side) (c' : Nat), (s.setNum i j v).chain x' c' = s.chain x' c') ∧
    (∀ (g' : Nat), (s.setNum i j v).group g' = s.group g') ∧
    (∀ (c' : Nat), (s.setNum i j v).feedback c' = s.feedback c') ∧
    (∀ (c' : Nat) (k' : Nat), (s.setNum i j v).comp c' k' = s.comp c' k') ∧
    (∀ (c' : Nat), (s.setNum i j v).blank c' = s.blank c') ∧
    (∀ (r' : Nat) (b' : Nat), (s.setNum i j v).history r' b' = s.history r' b') ∧
    (∀ (r' : Nat) (n' : Nat), (s.setNum i j v).arbiter r' n' = s.arbiter r' n') ∧
    (∀ (n' : Nat), (s.setNum i j v).sem n' = s.sem n') ∧
    (∀ (x' : Nat), (s.setNum i j v).ptpPort x' = s.ptpPort x') ∧
    (∀ (p' : Nat), (s.setNum i j v).pll p' = s.pll p') ∧
    (∀ (x' : Side) (n' : Nat), (s.setNum i j v).segment x' n' = s.segment x' n') ∧
    (∀ (k' : Nat), (s.setNum i j v).stream k' = s.stream k') := by
  refine ⟨?_, ?_, ?_, ?_, ?_, ?_, ?_, ?_, ?_, ?_, ?_, ?_, ?_, ?_, ?_, ?_, ?_, ?_, ?_, ?_⟩ <;> intros <;> rfl

@[simp] theorem setBlob_records (i : Nat) (j : Nat) (b : List Nat) :
    (∀ (r' : Nat), (s.setBlob i j b).reader r' = s.reader r') ∧
    (∀ (x' : Side) (k' : Nat), (s.setBlob i j b).engine x' k' = s.engine x' k') ∧
    (∀ (k' : Nat), (s.setBlob i j b).stack k' = s.stack k') ∧
    (∀ (x' : Side), (s.setBlob i j b).sideRt x' = s.sideRt x') ∧
    (∀ (x' : Side), (s.setBlob i j b).graph x' = s.graph x') ∧
    (∀ (x' : Side), (s.setBlob i j b).sill x' = s.sill x') ∧
    (∀ (n' : Nat), (s.setBlob i j b).plateOf n' = s.plateOf n') ∧
    (∀ (x' : Side) (d' : Nat), (s.setBlob i j b).arc x' d' = s.arc x' d') ∧
    (∀ (x' : Side) (c' : Nat), (s.setBlob i j b).chain x' c' = s.chain x' c') ∧
    (∀ (g' : Nat), (s.setBlob i j b).group g' = s.group g') ∧
    (∀ (c' : Nat), (s.setBlob i j b).feedback c' = s.feedback c') ∧
    (∀ (c' : Nat) (k' : Nat), (s.setBlob i j b).comp c' k' = s.comp c' k') ∧
    (∀ (c' : Nat), (s.setBlob i j b).blank c' = s.blank c') ∧
    (∀ (r' : Nat) (b' : Nat), (s.setBlob i j b).history r' b' = s.history r' b') ∧
    (∀ (r' : Nat) (n' : Nat), (s.setBlob i j b).arbiter r' n' = s.arbiter r' n') ∧
    (∀ (n' : Nat), (s.setBlob i j b).sem n' = s.sem n') ∧
    (∀ (x' : Nat), (s.setBlob i j b).ptpPort x' = s.ptpPort x') ∧
    (∀ (p' : Nat), (s.setBlob i j b).pll p' = s.pll p') ∧
    (∀ (x' : Side) (n' : Nat), (s.setBlob i j b).segment x' n' = s.segment x' n') ∧
    (∀ (k' : Nat), (s.setBlob i j b).stream k' = s.stream k') := by
  refine ⟨?_, ?_, ?_, ?_, ?_, ?_, ?_, ?_, ?_, ?_, ?_, ?_, ?_, ?_, ?_, ?_, ?_, ?_, ?_, ?_⟩ <;> intros <;> rfl

@[simp] theorem setFld_records (i : Nat) (j : Nat) (hi : Nat) (lo : Nat) (v : Nat) :
    (∀ (r' : Nat), (s.setFld i j hi lo v).reader r' = s.reader r') ∧
    (∀ (x' : Side) (k' : Nat), (s.setFld i j hi lo v).engine x' k' = s.engine x' k') ∧
    (∀ (k' : Nat), (s.setFld i j hi lo v).stack k' = s.stack k') ∧
    (∀ (x' : Side), (s.setFld i j hi lo v).sideRt x' = s.sideRt x') ∧
    (∀ (x' : Side), (s.setFld i j hi lo v).graph x' = s.graph x') ∧
    (∀ (x' : Side), (s.setFld i j hi lo v).sill x' = s.sill x') ∧
    (∀ (n' : Nat), (s.setFld i j hi lo v).plateOf n' = s.plateOf n') ∧
    (∀ (x' : Side) (d' : Nat), (s.setFld i j hi lo v).arc x' d' = s.arc x' d') ∧
    (∀ (x' : Side) (c' : Nat), (s.setFld i j hi lo v).chain x' c' = s.chain x' c') ∧
    (∀ (g' : Nat), (s.setFld i j hi lo v).group g' = s.group g') ∧
    (∀ (c' : Nat), (s.setFld i j hi lo v).feedback c' = s.feedback c') ∧
    (∀ (c' : Nat) (k' : Nat), (s.setFld i j hi lo v).comp c' k' = s.comp c' k') ∧
    (∀ (c' : Nat), (s.setFld i j hi lo v).blank c' = s.blank c') ∧
    (∀ (r' : Nat) (b' : Nat), (s.setFld i j hi lo v).history r' b' = s.history r' b') ∧
    (∀ (r' : Nat) (n' : Nat), (s.setFld i j hi lo v).arbiter r' n' = s.arbiter r' n') ∧
    (∀ (n' : Nat), (s.setFld i j hi lo v).sem n' = s.sem n') ∧
    (∀ (x' : Nat), (s.setFld i j hi lo v).ptpPort x' = s.ptpPort x') ∧
    (∀ (p' : Nat), (s.setFld i j hi lo v).pll p' = s.pll p') ∧
    (∀ (x' : Side) (n' : Nat), (s.setFld i j hi lo v).segment x' n' = s.segment x' n') ∧
    (∀ (k' : Nat), (s.setFld i j hi lo v).stream k' = s.stream k') := by
  refine ⟨?_, ?_, ?_, ?_, ?_, ?_, ?_, ?_, ?_, ?_, ?_, ?_, ?_, ?_, ?_, ?_, ?_, ?_, ?_, ?_⟩ <;> intros <;> rfl

@[simp] theorem setBitO_records (i : Nat) (j : Nat) (n : Nat) (b : Bool) :
    (∀ (r' : Nat), (s.setBitO i j n b).reader r' = s.reader r') ∧
    (∀ (x' : Side) (k' : Nat), (s.setBitO i j n b).engine x' k' = s.engine x' k') ∧
    (∀ (k' : Nat), (s.setBitO i j n b).stack k' = s.stack k') ∧
    (∀ (x' : Side), (s.setBitO i j n b).sideRt x' = s.sideRt x') ∧
    (∀ (x' : Side), (s.setBitO i j n b).graph x' = s.graph x') ∧
    (∀ (x' : Side), (s.setBitO i j n b).sill x' = s.sill x') ∧
    (∀ (n' : Nat), (s.setBitO i j n b).plateOf n' = s.plateOf n') ∧
    (∀ (x' : Side) (d' : Nat), (s.setBitO i j n b).arc x' d' = s.arc x' d') ∧
    (∀ (x' : Side) (c' : Nat), (s.setBitO i j n b).chain x' c' = s.chain x' c') ∧
    (∀ (g' : Nat), (s.setBitO i j n b).group g' = s.group g') ∧
    (∀ (c' : Nat), (s.setBitO i j n b).feedback c' = s.feedback c') ∧
    (∀ (c' : Nat) (k' : Nat), (s.setBitO i j n b).comp c' k' = s.comp c' k') ∧
    (∀ (c' : Nat), (s.setBitO i j n b).blank c' = s.blank c') ∧
    (∀ (r' : Nat) (b' : Nat), (s.setBitO i j n b).history r' b' = s.history r' b') ∧
    (∀ (r' : Nat) (n' : Nat), (s.setBitO i j n b).arbiter r' n' = s.arbiter r' n') ∧
    (∀ (n' : Nat), (s.setBitO i j n b).sem n' = s.sem n') ∧
    (∀ (x' : Nat), (s.setBitO i j n b).ptpPort x' = s.ptpPort x') ∧
    (∀ (p' : Nat), (s.setBitO i j n b).pll p' = s.pll p') ∧
    (∀ (x' : Side) (n' : Nat), (s.setBitO i j n b).segment x' n' = s.segment x' n') ∧
    (∀ (k' : Nat), (s.setBitO i j n b).stream k' = s.stream k') := by
  refine ⟨?_, ?_, ?_, ?_, ?_, ?_, ?_, ?_, ?_, ?_, ?_, ?_, ?_, ?_, ?_, ?_, ?_, ?_, ?_, ?_⟩ <;> intros <;> rfl

@[simp] theorem incSat_records (i : Nat) (j : Nat) :
    (∀ (r' : Nat), (s.incSat i j).reader r' = s.reader r') ∧
    (∀ (x' : Side) (k' : Nat), (s.incSat i j).engine x' k' = s.engine x' k') ∧
    (∀ (k' : Nat), (s.incSat i j).stack k' = s.stack k') ∧
    (∀ (x' : Side), (s.incSat i j).sideRt x' = s.sideRt x') ∧
    (∀ (x' : Side), (s.incSat i j).graph x' = s.graph x') ∧
    (∀ (x' : Side), (s.incSat i j).sill x' = s.sill x') ∧
    (∀ (n' : Nat), (s.incSat i j).plateOf n' = s.plateOf n') ∧
    (∀ (x' : Side) (d' : Nat), (s.incSat i j).arc x' d' = s.arc x' d') ∧
    (∀ (x' : Side) (c' : Nat), (s.incSat i j).chain x' c' = s.chain x' c') ∧
    (∀ (g' : Nat), (s.incSat i j).group g' = s.group g') ∧
    (∀ (c' : Nat), (s.incSat i j).feedback c' = s.feedback c') ∧
    (∀ (c' : Nat) (k' : Nat), (s.incSat i j).comp c' k' = s.comp c' k') ∧
    (∀ (c' : Nat), (s.incSat i j).blank c' = s.blank c') ∧
    (∀ (r' : Nat) (b' : Nat), (s.incSat i j).history r' b' = s.history r' b') ∧
    (∀ (r' : Nat) (n' : Nat), (s.incSat i j).arbiter r' n' = s.arbiter r' n') ∧
    (∀ (n' : Nat), (s.incSat i j).sem n' = s.sem n') ∧
    (∀ (x' : Nat), (s.incSat i j).ptpPort x' = s.ptpPort x') ∧
    (∀ (p' : Nat), (s.incSat i j).pll p' = s.pll p') ∧
    (∀ (x' : Side) (n' : Nat), (s.incSat i j).segment x' n' = s.segment x' n') ∧
    (∀ (k' : Nat), (s.incSat i j).stream k' = s.stream k') := by
  refine ⟨?_, ?_, ?_, ?_, ?_, ?_, ?_, ?_, ?_, ?_, ?_, ?_, ?_, ?_, ?_, ?_, ?_, ?_, ?_, ?_⟩ <;> intros <;> rfl

@[simp] theorem incWrap_records (i : Nat) (j : Nat) :
    (∀ (r' : Nat), (s.incWrap i j).reader r' = s.reader r') ∧
    (∀ (x' : Side) (k' : Nat), (s.incWrap i j).engine x' k' = s.engine x' k') ∧
    (∀ (k' : Nat), (s.incWrap i j).stack k' = s.stack k') ∧
    (∀ (x' : Side), (s.incWrap i j).sideRt x' = s.sideRt x') ∧
    (∀ (x' : Side), (s.incWrap i j).graph x' = s.graph x') ∧
    (∀ (x' : Side), (s.incWrap i j).sill x' = s.sill x') ∧
    (∀ (n' : Nat), (s.incWrap i j).plateOf n' = s.plateOf n') ∧
    (∀ (x' : Side) (d' : Nat), (s.incWrap i j).arc x' d' = s.arc x' d') ∧
    (∀ (x' : Side) (c' : Nat), (s.incWrap i j).chain x' c' = s.chain x' c') ∧
    (∀ (g' : Nat), (s.incWrap i j).group g' = s.group g') ∧
    (∀ (c' : Nat), (s.incWrap i j).feedback c' = s.feedback c') ∧
    (∀ (c' : Nat) (k' : Nat), (s.incWrap i j).comp c' k' = s.comp c' k') ∧
    (∀ (c' : Nat), (s.incWrap i j).blank c' = s.blank c') ∧
    (∀ (r' : Nat) (b' : Nat), (s.incWrap i j).history r' b' = s.history r' b') ∧
    (∀ (r' : Nat) (n' : Nat), (s.incWrap i j).arbiter r' n' = s.arbiter r' n') ∧
    (∀ (n' : Nat), (s.incWrap i j).sem n' = s.sem n') ∧
    (∀ (x' : Nat), (s.incWrap i j).ptpPort x' = s.ptpPort x') ∧
    (∀ (p' : Nat), (s.incWrap i j).pll p' = s.pll p') ∧
    (∀ (x' : Side) (n' : Nat), (s.incWrap i j).segment x' n' = s.segment x' n') ∧
    (∀ (k' : Nat), (s.incWrap i j).stream k' = s.stream k') := by
  refine ⟨?_, ?_, ?_, ?_, ?_, ?_, ?_, ?_, ?_, ?_, ?_, ?_, ?_, ?_, ?_, ?_, ?_, ?_, ?_, ?_⟩ <;> intros <;> rfl

@[simp] theorem setSideState_records (x : Side) (v : Nat) :
    (∀ (r' : Nat), (s.setSideState x v).reader r' = s.reader r') ∧
    (∀ (x' : Side) (k' : Nat), (s.setSideState x v).engine x' k' = s.engine x' k') ∧
    (∀ (k' : Nat), (s.setSideState x v).stack k' = s.stack k') ∧
    (∀ (x' : Side), (s.setSideState x v).sideRt x' = s.sideRt x') ∧
    (∀ (x' : Side), (s.setSideState x v).graph x' = s.graph x') ∧
    (∀ (x' : Side), (s.setSideState x v).sill x' = s.sill x') ∧
    (∀ (n' : Nat), (s.setSideState x v).plateOf n' = s.plateOf n') ∧
    (∀ (x' : Side) (d' : Nat), (s.setSideState x v).arc x' d' = s.arc x' d') ∧
    (∀ (x' : Side) (c' : Nat), (s.setSideState x v).chain x' c' = s.chain x' c') ∧
    (∀ (g' : Nat), (s.setSideState x v).group g' = s.group g') ∧
    (∀ (c' : Nat), (s.setSideState x v).feedback c' = s.feedback c') ∧
    (∀ (c' : Nat) (k' : Nat), (s.setSideState x v).comp c' k' = s.comp c' k') ∧
    (∀ (c' : Nat), (s.setSideState x v).blank c' = s.blank c') ∧
    (∀ (r' : Nat) (b' : Nat), (s.setSideState x v).history r' b' = s.history r' b') ∧
    (∀ (r' : Nat) (n' : Nat), (s.setSideState x v).arbiter r' n' = s.arbiter r' n') ∧
    (∀ (n' : Nat), (s.setSideState x v).sem n' = s.sem n') ∧
    (∀ (x' : Nat), (s.setSideState x v).ptpPort x' = s.ptpPort x') ∧
    (∀ (p' : Nat), (s.setSideState x v).pll p' = s.pll p') ∧
    (∀ (x' : Side) (n' : Nat), (s.setSideState x v).segment x' n' = s.segment x' n') ∧
    (∀ (k' : Nat), (s.setSideState x v).stream k' = s.stream k') := by
  cases x <;> refine ⟨?_, ?_, ?_, ?_, ?_, ?_, ?_, ?_, ?_, ?_, ?_, ?_, ?_, ?_, ?_, ?_, ?_, ?_, ?_, ?_⟩ <;> intros <;> rfl

/-! ### Records and objects after a record is set -/

@[simp] theorem emit_records (a : Nat) (d : Nat) (l : List Nat) :
    (∀ (r' : Nat), (s.emit a d l).reader r' = s.reader r') ∧
    (∀ (x' : Side) (k' : Nat), (s.emit a d l).engine x' k' = s.engine x' k') ∧
    (∀ (k' : Nat), (s.emit a d l).stack k' = s.stack k') ∧
    (∀ (x' : Side), (s.emit a d l).sideRt x' = s.sideRt x') ∧
    (∀ (x' : Side), (s.emit a d l).graph x' = s.graph x') ∧
    (∀ (x' : Side), (s.emit a d l).sill x' = s.sill x') ∧
    (∀ (n' : Nat), (s.emit a d l).plateOf n' = s.plateOf n') ∧
    (∀ (x' : Side) (d' : Nat), (s.emit a d l).arc x' d' = s.arc x' d') ∧
    (∀ (x' : Side) (c' : Nat), (s.emit a d l).chain x' c' = s.chain x' c') ∧
    (∀ (g' : Nat), (s.emit a d l).group g' = s.group g') ∧
    (∀ (c' : Nat), (s.emit a d l).feedback c' = s.feedback c') ∧
    (∀ (c' : Nat) (k' : Nat), (s.emit a d l).comp c' k' = s.comp c' k') ∧
    (∀ (c' : Nat), (s.emit a d l).blank c' = s.blank c') ∧
    (∀ (r' : Nat) (b' : Nat), (s.emit a d l).history r' b' = s.history r' b') ∧
    (∀ (r' : Nat) (n' : Nat), (s.emit a d l).arbiter r' n' = s.arbiter r' n') ∧
    (∀ (n' : Nat), (s.emit a d l).sem n' = s.sem n') ∧
    (∀ (x' : Nat), (s.emit a d l).ptpPort x' = s.ptpPort x') ∧
    (∀ (p' : Nat), (s.emit a d l).pll p' = s.pll p') ∧
    (∀ (x' : Side) (n' : Nat), (s.emit a d l).segment x' n' = s.segment x' n') ∧
    (∀ (k' : Nat), (s.emit a d l).stream k' = s.stream k') := by
  refine ⟨?_, ?_, ?_, ?_, ?_, ?_, ?_, ?_, ?_, ?_, ?_, ?_, ?_, ?_, ?_, ?_, ?_, ?_, ?_, ?_⟩ <;> intros <;> rfl

@[simp] theorem emit_objects (a : Nat) (d : Nat) (l : List Nat) :
    (∀ (i' : Nat) (j' : Nat), (s.emit a d l).num i' j' = s.num i' j') ∧
    (∀ (i' : Nat) (j' : Nat), (s.emit a d l).blob i' j' = s.blob i' j') ∧
    (∀ (k' : Nat), (s.emit a d l).val k' = s.val k') ∧
    (∀ (i' : Nat) (j' : Nat) (hi' : Nat) (lo' : Nat), (s.emit a d l).fld i' j' hi' lo' = s.fld i' j' hi' lo') ∧
    (∀ (i' : Nat) (j' : Nat) (n' : Nat), (s.emit a d l).bit i' j' n' = s.bit i' j' n') ∧
    (s.emit a d l).stage = s.stage ∧
    (s.emit a d l).ready = s.ready ∧
    (s.emit a d l).gfState = s.gfState ∧
    (s.emit a d l).stopped = s.stopped ∧
    (s.emit a d l).driveState = s.driveState ∧
    (s.emit a d l).closeActive = s.closeActive ∧
    (s.emit a d l).armed = s.armed ∧
    (∀ (x' : Side), (s.emit a d l).sideState x' = s.sideState x') ∧
    (∀ (x' : Side), (s.emit a d l).inService x' = s.inService x') ∧
    (∀ (x' : Side), (s.emit a d l).powered x' = s.powered x') ∧
    (s.emit a d l).control = s.control ∧
    (s.emit a d l).reporter = s.reporter ∧
    (∀ (x' : Side), (s.emit a d l).reports x' = s.reports x') ∧
    (∀ (x' : Side), (s.emit a d l).feeds x' = s.feeds x') ∧
    (s.emit a d l).profile = s.profile ∧
    (s.emit a d l).demandLatched = s.demandLatched ∧
    (s.emit a d l).permit = s.permit ∧
    (s.emit a d l).commissioning = s.commissioning ∧
    (s.emit a d l).activeSlot = s.activeSlot := by
  refine ⟨?_, ?_, ?_, ?_, ?_, ?_, ?_, ?_, ?_, ?_, ?_, ?_, ?_, ?_, ?_, ?_, ?_, ?_, ?_, ?_, ?_, ?_, ?_, ?_⟩ <;> intros <;> rfl

@[simp] theorem nextFree_records :
    (∀ (r' : Nat), (s.nextFree).reader r' = s.reader r') ∧
    (∀ (x' : Side) (k' : Nat), (s.nextFree).engine x' k' = s.engine x' k') ∧
    (∀ (k' : Nat), (s.nextFree).stack k' = s.stack k') ∧
    (∀ (x' : Side), (s.nextFree).sideRt x' = s.sideRt x') ∧
    (∀ (x' : Side), (s.nextFree).graph x' = s.graph x') ∧
    (∀ (x' : Side), (s.nextFree).sill x' = s.sill x') ∧
    (∀ (n' : Nat), (s.nextFree).plateOf n' = s.plateOf n') ∧
    (∀ (x' : Side) (d' : Nat), (s.nextFree).arc x' d' = s.arc x' d') ∧
    (∀ (x' : Side) (c' : Nat), (s.nextFree).chain x' c' = s.chain x' c') ∧
    (∀ (g' : Nat), (s.nextFree).group g' = s.group g') ∧
    (∀ (c' : Nat), (s.nextFree).feedback c' = s.feedback c') ∧
    (∀ (c' : Nat) (k' : Nat), (s.nextFree).comp c' k' = s.comp c' k') ∧
    (∀ (c' : Nat), (s.nextFree).blank c' = s.blank c') ∧
    (∀ (r' : Nat) (b' : Nat), (s.nextFree).history r' b' = s.history r' b') ∧
    (∀ (r' : Nat) (n' : Nat), (s.nextFree).arbiter r' n' = s.arbiter r' n') ∧
    (∀ (n' : Nat), (s.nextFree).sem n' = s.sem n') ∧
    (∀ (x' : Nat), (s.nextFree).ptpPort x' = s.ptpPort x') ∧
    (∀ (p' : Nat), (s.nextFree).pll p' = s.pll p') ∧
    (∀ (x' : Side) (n' : Nat), (s.nextFree).segment x' n' = s.segment x' n') ∧
    (∀ (k' : Nat), (s.nextFree).stream k' = s.stream k') := by
  refine ⟨?_, ?_, ?_, ?_, ?_, ?_, ?_, ?_, ?_, ?_, ?_, ?_, ?_, ?_, ?_, ?_, ?_, ?_, ?_, ?_⟩ <;> intros <;> rfl

@[simp] theorem nextFree_objects :
    (∀ (i' : Nat) (j' : Nat), (s.nextFree).num i' j' = s.num i' j') ∧
    (∀ (i' : Nat) (j' : Nat), (s.nextFree).blob i' j' = s.blob i' j') ∧
    (∀ (k' : Nat), (s.nextFree).val k' = s.val k') ∧
    (∀ (i' : Nat) (j' : Nat) (hi' : Nat) (lo' : Nat), (s.nextFree).fld i' j' hi' lo' = s.fld i' j' hi' lo') ∧
    (∀ (i' : Nat) (j' : Nat) (n' : Nat), (s.nextFree).bit i' j' n' = s.bit i' j' n') ∧
    (s.nextFree).stage = s.stage ∧
    (s.nextFree).ready = s.ready ∧
    (s.nextFree).gfState = s.gfState ∧
    (s.nextFree).stopped = s.stopped ∧
    (s.nextFree).driveState = s.driveState ∧
    (s.nextFree).closeActive = s.closeActive ∧
    (s.nextFree).armed = s.armed ∧
    (∀ (x' : Side), (s.nextFree).sideState x' = s.sideState x') ∧
    (∀ (x' : Side), (s.nextFree).inService x' = s.inService x') ∧
    (∀ (x' : Side), (s.nextFree).powered x' = s.powered x') ∧
    (s.nextFree).control = s.control ∧
    (s.nextFree).reporter = s.reporter ∧
    (∀ (x' : Side), (s.nextFree).reports x' = s.reports x') ∧
    (∀ (x' : Side), (s.nextFree).feeds x' = s.feeds x') ∧
    (s.nextFree).profile = s.profile ∧
    (s.nextFree).demandLatched = s.demandLatched ∧
    (s.nextFree).permit = s.permit ∧
    (s.nextFree).commissioning = s.commissioning ∧
    (s.nextFree).activeSlot = s.activeSlot := by
  refine ⟨?_, ?_, ?_, ?_, ?_, ?_, ?_, ?_, ?_, ?_, ?_, ?_, ?_, ?_, ?_, ?_, ?_, ?_, ?_, ?_, ?_, ?_, ?_, ?_⟩ <;> intros <;> rfl

@[simp] theorem setReader_records (r : Nat) (v : Reader) :
    (∀ (x' : Side) (k' : Nat), (s.setReader r v).engine x' k' = s.engine x' k') ∧
    (∀ (k' : Nat), (s.setReader r v).stack k' = s.stack k') ∧
    (∀ (x' : Side), (s.setReader r v).sideRt x' = s.sideRt x') ∧
    (∀ (x' : Side), (s.setReader r v).graph x' = s.graph x') ∧
    (∀ (x' : Side), (s.setReader r v).sill x' = s.sill x') ∧
    (∀ (n' : Nat), (s.setReader r v).plateOf n' = s.plateOf n') ∧
    (∀ (x' : Side) (d' : Nat), (s.setReader r v).arc x' d' = s.arc x' d') ∧
    (∀ (x' : Side) (c' : Nat), (s.setReader r v).chain x' c' = s.chain x' c') ∧
    (∀ (g' : Nat), (s.setReader r v).group g' = s.group g') ∧
    (∀ (c' : Nat), (s.setReader r v).feedback c' = s.feedback c') ∧
    (∀ (c' : Nat) (k' : Nat), (s.setReader r v).comp c' k' = s.comp c' k') ∧
    (∀ (c' : Nat), (s.setReader r v).blank c' = s.blank c') ∧
    (∀ (r' : Nat) (b' : Nat), (s.setReader r v).history r' b' = s.history r' b') ∧
    (∀ (r' : Nat) (n' : Nat), (s.setReader r v).arbiter r' n' = s.arbiter r' n') ∧
    (∀ (n' : Nat), (s.setReader r v).sem n' = s.sem n') ∧
    (∀ (x' : Nat), (s.setReader r v).ptpPort x' = s.ptpPort x') ∧
    (∀ (p' : Nat), (s.setReader r v).pll p' = s.pll p') ∧
    (∀ (x' : Side) (n' : Nat), (s.setReader r v).segment x' n' = s.segment x' n') ∧
    (∀ (k' : Nat), (s.setReader r v).stream k' = s.stream k') := by
  refine ⟨?_, ?_, ?_, ?_, ?_, ?_, ?_, ?_, ?_, ?_, ?_, ?_, ?_, ?_, ?_, ?_, ?_, ?_, ?_⟩ <;> intros <;> rfl

@[simp] theorem setReader_objects (r : Nat) (v : Reader) :
    (∀ (i' : Nat) (j' : Nat), (s.setReader r v).num i' j' = s.num i' j') ∧
    (∀ (i' : Nat) (j' : Nat), (s.setReader r v).blob i' j' = s.blob i' j') ∧
    (∀ (k' : Nat), (s.setReader r v).val k' = s.val k') ∧
    (∀ (i' : Nat) (j' : Nat) (hi' : Nat) (lo' : Nat), (s.setReader r v).fld i' j' hi' lo' = s.fld i' j' hi' lo') ∧
    (∀ (i' : Nat) (j' : Nat) (n' : Nat), (s.setReader r v).bit i' j' n' = s.bit i' j' n') ∧
    (s.setReader r v).stage = s.stage ∧
    (s.setReader r v).ready = s.ready ∧
    (s.setReader r v).gfState = s.gfState ∧
    (s.setReader r v).stopped = s.stopped ∧
    (s.setReader r v).driveState = s.driveState ∧
    (s.setReader r v).closeActive = s.closeActive ∧
    (s.setReader r v).armed = s.armed ∧
    (∀ (x' : Side), (s.setReader r v).sideState x' = s.sideState x') ∧
    (∀ (x' : Side), (s.setReader r v).inService x' = s.inService x') ∧
    (∀ (x' : Side), (s.setReader r v).powered x' = s.powered x') ∧
    (s.setReader r v).control = s.control ∧
    (s.setReader r v).reporter = s.reporter ∧
    (∀ (x' : Side), (s.setReader r v).reports x' = s.reports x') ∧
    (∀ (x' : Side), (s.setReader r v).feeds x' = s.feeds x') ∧
    (s.setReader r v).profile = s.profile ∧
    (s.setReader r v).demandLatched = s.demandLatched ∧
    (s.setReader r v).permit = s.permit ∧
    (s.setReader r v).commissioning = s.commissioning ∧
    (s.setReader r v).activeSlot = s.activeSlot := by
  refine ⟨?_, ?_, ?_, ?_, ?_, ?_, ?_, ?_, ?_, ?_, ?_, ?_, ?_, ?_, ?_, ?_, ?_, ?_, ?_, ?_, ?_, ?_, ?_, ?_⟩ <;> intros <;> rfl

@[simp] theorem setEngine_records (x : Side) (k : Nat) (v : Engine) :
    (∀ (r' : Nat), (s.setEngine x k v).reader r' = s.reader r') ∧
    (∀ (k' : Nat), (s.setEngine x k v).stack k' = s.stack k') ∧
    (∀ (x' : Side), (s.setEngine x k v).sideRt x' = s.sideRt x') ∧
    (∀ (x' : Side), (s.setEngine x k v).graph x' = s.graph x') ∧
    (∀ (x' : Side), (s.setEngine x k v).sill x' = s.sill x') ∧
    (∀ (n' : Nat), (s.setEngine x k v).plateOf n' = s.plateOf n') ∧
    (∀ (x' : Side) (d' : Nat), (s.setEngine x k v).arc x' d' = s.arc x' d') ∧
    (∀ (x' : Side) (c' : Nat), (s.setEngine x k v).chain x' c' = s.chain x' c') ∧
    (∀ (g' : Nat), (s.setEngine x k v).group g' = s.group g') ∧
    (∀ (c' : Nat), (s.setEngine x k v).feedback c' = s.feedback c') ∧
    (∀ (c' : Nat) (k' : Nat), (s.setEngine x k v).comp c' k' = s.comp c' k') ∧
    (∀ (c' : Nat), (s.setEngine x k v).blank c' = s.blank c') ∧
    (∀ (r' : Nat) (b' : Nat), (s.setEngine x k v).history r' b' = s.history r' b') ∧
    (∀ (r' : Nat) (n' : Nat), (s.setEngine x k v).arbiter r' n' = s.arbiter r' n') ∧
    (∀ (n' : Nat), (s.setEngine x k v).sem n' = s.sem n') ∧
    (∀ (x' : Nat), (s.setEngine x k v).ptpPort x' = s.ptpPort x') ∧
    (∀ (p' : Nat), (s.setEngine x k v).pll p' = s.pll p') ∧
    (∀ (x' : Side) (n' : Nat), (s.setEngine x k v).segment x' n' = s.segment x' n') ∧
    (∀ (k' : Nat), (s.setEngine x k v).stream k' = s.stream k') := by
  refine ⟨?_, ?_, ?_, ?_, ?_, ?_, ?_, ?_, ?_, ?_, ?_, ?_, ?_, ?_, ?_, ?_, ?_, ?_, ?_⟩ <;> intros <;> rfl

@[simp] theorem setEngine_objects (x : Side) (k : Nat) (v : Engine) :
    (∀ (i' : Nat) (j' : Nat), (s.setEngine x k v).num i' j' = s.num i' j') ∧
    (∀ (i' : Nat) (j' : Nat), (s.setEngine x k v).blob i' j' = s.blob i' j') ∧
    (∀ (k' : Nat), (s.setEngine x k v).val k' = s.val k') ∧
    (∀ (i' : Nat) (j' : Nat) (hi' : Nat) (lo' : Nat), (s.setEngine x k v).fld i' j' hi' lo' = s.fld i' j' hi' lo') ∧
    (∀ (i' : Nat) (j' : Nat) (n' : Nat), (s.setEngine x k v).bit i' j' n' = s.bit i' j' n') ∧
    (s.setEngine x k v).stage = s.stage ∧
    (s.setEngine x k v).ready = s.ready ∧
    (s.setEngine x k v).gfState = s.gfState ∧
    (s.setEngine x k v).stopped = s.stopped ∧
    (s.setEngine x k v).driveState = s.driveState ∧
    (s.setEngine x k v).closeActive = s.closeActive ∧
    (s.setEngine x k v).armed = s.armed ∧
    (∀ (x' : Side), (s.setEngine x k v).sideState x' = s.sideState x') ∧
    (∀ (x' : Side), (s.setEngine x k v).inService x' = s.inService x') ∧
    (∀ (x' : Side), (s.setEngine x k v).powered x' = s.powered x') ∧
    (s.setEngine x k v).control = s.control ∧
    (s.setEngine x k v).reporter = s.reporter ∧
    (∀ (x' : Side), (s.setEngine x k v).reports x' = s.reports x') ∧
    (∀ (x' : Side), (s.setEngine x k v).feeds x' = s.feeds x') ∧
    (s.setEngine x k v).profile = s.profile ∧
    (s.setEngine x k v).demandLatched = s.demandLatched ∧
    (s.setEngine x k v).permit = s.permit ∧
    (s.setEngine x k v).commissioning = s.commissioning ∧
    (s.setEngine x k v).activeSlot = s.activeSlot := by
  refine ⟨?_, ?_, ?_, ?_, ?_, ?_, ?_, ?_, ?_, ?_, ?_, ?_, ?_, ?_, ?_, ?_, ?_, ?_, ?_, ?_, ?_, ?_, ?_, ?_⟩ <;> intros <;> rfl

@[simp] theorem setStack_records (k : Nat) (v : Stack) :
    (∀ (r' : Nat), (s.setStack k v).reader r' = s.reader r') ∧
    (∀ (x' : Side) (k' : Nat), (s.setStack k v).engine x' k' = s.engine x' k') ∧
    (∀ (x' : Side), (s.setStack k v).sideRt x' = s.sideRt x') ∧
    (∀ (x' : Side), (s.setStack k v).graph x' = s.graph x') ∧
    (∀ (x' : Side), (s.setStack k v).sill x' = s.sill x') ∧
    (∀ (n' : Nat), (s.setStack k v).plateOf n' = s.plateOf n') ∧
    (∀ (x' : Side) (d' : Nat), (s.setStack k v).arc x' d' = s.arc x' d') ∧
    (∀ (x' : Side) (c' : Nat), (s.setStack k v).chain x' c' = s.chain x' c') ∧
    (∀ (g' : Nat), (s.setStack k v).group g' = s.group g') ∧
    (∀ (c' : Nat), (s.setStack k v).feedback c' = s.feedback c') ∧
    (∀ (c' : Nat) (k' : Nat), (s.setStack k v).comp c' k' = s.comp c' k') ∧
    (∀ (c' : Nat), (s.setStack k v).blank c' = s.blank c') ∧
    (∀ (r' : Nat) (b' : Nat), (s.setStack k v).history r' b' = s.history r' b') ∧
    (∀ (r' : Nat) (n' : Nat), (s.setStack k v).arbiter r' n' = s.arbiter r' n') ∧
    (∀ (n' : Nat), (s.setStack k v).sem n' = s.sem n') ∧
    (∀ (x' : Nat), (s.setStack k v).ptpPort x' = s.ptpPort x') ∧
    (∀ (p' : Nat), (s.setStack k v).pll p' = s.pll p') ∧
    (∀ (x' : Side) (n' : Nat), (s.setStack k v).segment x' n' = s.segment x' n') ∧
    (∀ (k' : Nat), (s.setStack k v).stream k' = s.stream k') := by
  refine ⟨?_, ?_, ?_, ?_, ?_, ?_, ?_, ?_, ?_, ?_, ?_, ?_, ?_, ?_, ?_, ?_, ?_, ?_, ?_⟩ <;> intros <;> rfl

@[simp] theorem setStack_objects (k : Nat) (v : Stack) :
    (∀ (i' : Nat) (j' : Nat), (s.setStack k v).num i' j' = s.num i' j') ∧
    (∀ (i' : Nat) (j' : Nat), (s.setStack k v).blob i' j' = s.blob i' j') ∧
    (∀ (k' : Nat), (s.setStack k v).val k' = s.val k') ∧
    (∀ (i' : Nat) (j' : Nat) (hi' : Nat) (lo' : Nat), (s.setStack k v).fld i' j' hi' lo' = s.fld i' j' hi' lo') ∧
    (∀ (i' : Nat) (j' : Nat) (n' : Nat), (s.setStack k v).bit i' j' n' = s.bit i' j' n') ∧
    (s.setStack k v).stage = s.stage ∧
    (s.setStack k v).ready = s.ready ∧
    (s.setStack k v).gfState = s.gfState ∧
    (s.setStack k v).stopped = s.stopped ∧
    (s.setStack k v).driveState = s.driveState ∧
    (s.setStack k v).closeActive = s.closeActive ∧
    (s.setStack k v).armed = s.armed ∧
    (∀ (x' : Side), (s.setStack k v).sideState x' = s.sideState x') ∧
    (∀ (x' : Side), (s.setStack k v).inService x' = s.inService x') ∧
    (∀ (x' : Side), (s.setStack k v).powered x' = s.powered x') ∧
    (s.setStack k v).control = s.control ∧
    (s.setStack k v).reporter = s.reporter ∧
    (∀ (x' : Side), (s.setStack k v).reports x' = s.reports x') ∧
    (∀ (x' : Side), (s.setStack k v).feeds x' = s.feeds x') ∧
    (s.setStack k v).profile = s.profile ∧
    (s.setStack k v).demandLatched = s.demandLatched ∧
    (s.setStack k v).permit = s.permit ∧
    (s.setStack k v).commissioning = s.commissioning ∧
    (s.setStack k v).activeSlot = s.activeSlot := by
  refine ⟨?_, ?_, ?_, ?_, ?_, ?_, ?_, ?_, ?_, ?_, ?_, ?_, ?_, ?_, ?_, ?_, ?_, ?_, ?_, ?_, ?_, ?_, ?_, ?_⟩ <;> intros <;> rfl

@[simp] theorem setSideRt_records (x : Side) (v : SideRt) :
    (∀ (r' : Nat), (s.setSideRt x v).reader r' = s.reader r') ∧
    (∀ (x' : Side) (k' : Nat), (s.setSideRt x v).engine x' k' = s.engine x' k') ∧
    (∀ (k' : Nat), (s.setSideRt x v).stack k' = s.stack k') ∧
    (∀ (x' : Side), (s.setSideRt x v).graph x' = s.graph x') ∧
    (∀ (x' : Side), (s.setSideRt x v).sill x' = s.sill x') ∧
    (∀ (n' : Nat), (s.setSideRt x v).plateOf n' = s.plateOf n') ∧
    (∀ (x' : Side) (d' : Nat), (s.setSideRt x v).arc x' d' = s.arc x' d') ∧
    (∀ (x' : Side) (c' : Nat), (s.setSideRt x v).chain x' c' = s.chain x' c') ∧
    (∀ (g' : Nat), (s.setSideRt x v).group g' = s.group g') ∧
    (∀ (c' : Nat), (s.setSideRt x v).feedback c' = s.feedback c') ∧
    (∀ (c' : Nat) (k' : Nat), (s.setSideRt x v).comp c' k' = s.comp c' k') ∧
    (∀ (c' : Nat), (s.setSideRt x v).blank c' = s.blank c') ∧
    (∀ (r' : Nat) (b' : Nat), (s.setSideRt x v).history r' b' = s.history r' b') ∧
    (∀ (r' : Nat) (n' : Nat), (s.setSideRt x v).arbiter r' n' = s.arbiter r' n') ∧
    (∀ (n' : Nat), (s.setSideRt x v).sem n' = s.sem n') ∧
    (∀ (x' : Nat), (s.setSideRt x v).ptpPort x' = s.ptpPort x') ∧
    (∀ (p' : Nat), (s.setSideRt x v).pll p' = s.pll p') ∧
    (∀ (x' : Side) (n' : Nat), (s.setSideRt x v).segment x' n' = s.segment x' n') ∧
    (∀ (k' : Nat), (s.setSideRt x v).stream k' = s.stream k') := by
  cases x <;> refine ⟨?_, ?_, ?_, ?_, ?_, ?_, ?_, ?_, ?_, ?_, ?_, ?_, ?_, ?_, ?_, ?_, ?_, ?_, ?_⟩ <;> intros <;> rfl

@[simp] theorem setSideRt_objects (x : Side) (v : SideRt) :
    (∀ (i' : Nat) (j' : Nat), (s.setSideRt x v).num i' j' = s.num i' j') ∧
    (∀ (i' : Nat) (j' : Nat), (s.setSideRt x v).blob i' j' = s.blob i' j') ∧
    (∀ (k' : Nat), (s.setSideRt x v).val k' = s.val k') ∧
    (∀ (i' : Nat) (j' : Nat) (hi' : Nat) (lo' : Nat), (s.setSideRt x v).fld i' j' hi' lo' = s.fld i' j' hi' lo') ∧
    (∀ (i' : Nat) (j' : Nat) (n' : Nat), (s.setSideRt x v).bit i' j' n' = s.bit i' j' n') ∧
    (s.setSideRt x v).stage = s.stage ∧
    (s.setSideRt x v).ready = s.ready ∧
    (s.setSideRt x v).gfState = s.gfState ∧
    (s.setSideRt x v).stopped = s.stopped ∧
    (s.setSideRt x v).driveState = s.driveState ∧
    (s.setSideRt x v).closeActive = s.closeActive ∧
    (s.setSideRt x v).armed = s.armed ∧
    (∀ (x' : Side), (s.setSideRt x v).sideState x' = s.sideState x') ∧
    (∀ (x' : Side), (s.setSideRt x v).inService x' = s.inService x') ∧
    (∀ (x' : Side), (s.setSideRt x v).powered x' = s.powered x') ∧
    (s.setSideRt x v).control = s.control ∧
    (s.setSideRt x v).reporter = s.reporter ∧
    (∀ (x' : Side), (s.setSideRt x v).reports x' = s.reports x') ∧
    (∀ (x' : Side), (s.setSideRt x v).feeds x' = s.feeds x') ∧
    (s.setSideRt x v).profile = s.profile ∧
    (s.setSideRt x v).demandLatched = s.demandLatched ∧
    (s.setSideRt x v).permit = s.permit ∧
    (s.setSideRt x v).commissioning = s.commissioning ∧
    (s.setSideRt x v).activeSlot = s.activeSlot := by
  cases x <;> refine ⟨?_, ?_, ?_, ?_, ?_, ?_, ?_, ?_, ?_, ?_, ?_, ?_, ?_, ?_, ?_, ?_, ?_, ?_, ?_, ?_, ?_, ?_, ?_, ?_⟩ <;> intros <;> rfl

@[simp] theorem setGraph_records (x : Side) (v : Graph) :
    (∀ (r' : Nat), (s.setGraph x v).reader r' = s.reader r') ∧
    (∀ (x' : Side) (k' : Nat), (s.setGraph x v).engine x' k' = s.engine x' k') ∧
    (∀ (k' : Nat), (s.setGraph x v).stack k' = s.stack k') ∧
    (∀ (x' : Side), (s.setGraph x v).sideRt x' = s.sideRt x') ∧
    (∀ (x' : Side), (s.setGraph x v).sill x' = s.sill x') ∧
    (∀ (n' : Nat), (s.setGraph x v).plateOf n' = s.plateOf n') ∧
    (∀ (x' : Side) (d' : Nat), (s.setGraph x v).arc x' d' = s.arc x' d') ∧
    (∀ (x' : Side) (c' : Nat), (s.setGraph x v).chain x' c' = s.chain x' c') ∧
    (∀ (g' : Nat), (s.setGraph x v).group g' = s.group g') ∧
    (∀ (c' : Nat), (s.setGraph x v).feedback c' = s.feedback c') ∧
    (∀ (c' : Nat) (k' : Nat), (s.setGraph x v).comp c' k' = s.comp c' k') ∧
    (∀ (c' : Nat), (s.setGraph x v).blank c' = s.blank c') ∧
    (∀ (r' : Nat) (b' : Nat), (s.setGraph x v).history r' b' = s.history r' b') ∧
    (∀ (r' : Nat) (n' : Nat), (s.setGraph x v).arbiter r' n' = s.arbiter r' n') ∧
    (∀ (n' : Nat), (s.setGraph x v).sem n' = s.sem n') ∧
    (∀ (x' : Nat), (s.setGraph x v).ptpPort x' = s.ptpPort x') ∧
    (∀ (p' : Nat), (s.setGraph x v).pll p' = s.pll p') ∧
    (∀ (x' : Side) (n' : Nat), (s.setGraph x v).segment x' n' = s.segment x' n') ∧
    (∀ (k' : Nat), (s.setGraph x v).stream k' = s.stream k') := by
  cases x <;> refine ⟨?_, ?_, ?_, ?_, ?_, ?_, ?_, ?_, ?_, ?_, ?_, ?_, ?_, ?_, ?_, ?_, ?_, ?_, ?_⟩ <;> intros <;> rfl

@[simp] theorem setGraph_objects (x : Side) (v : Graph) :
    (∀ (i' : Nat) (j' : Nat), (s.setGraph x v).num i' j' = s.num i' j') ∧
    (∀ (i' : Nat) (j' : Nat), (s.setGraph x v).blob i' j' = s.blob i' j') ∧
    (∀ (k' : Nat), (s.setGraph x v).val k' = s.val k') ∧
    (∀ (i' : Nat) (j' : Nat) (hi' : Nat) (lo' : Nat), (s.setGraph x v).fld i' j' hi' lo' = s.fld i' j' hi' lo') ∧
    (∀ (i' : Nat) (j' : Nat) (n' : Nat), (s.setGraph x v).bit i' j' n' = s.bit i' j' n') ∧
    (s.setGraph x v).stage = s.stage ∧
    (s.setGraph x v).ready = s.ready ∧
    (s.setGraph x v).gfState = s.gfState ∧
    (s.setGraph x v).stopped = s.stopped ∧
    (s.setGraph x v).driveState = s.driveState ∧
    (s.setGraph x v).closeActive = s.closeActive ∧
    (s.setGraph x v).armed = s.armed ∧
    (∀ (x' : Side), (s.setGraph x v).sideState x' = s.sideState x') ∧
    (∀ (x' : Side), (s.setGraph x v).inService x' = s.inService x') ∧
    (∀ (x' : Side), (s.setGraph x v).powered x' = s.powered x') ∧
    (s.setGraph x v).control = s.control ∧
    (s.setGraph x v).reporter = s.reporter ∧
    (∀ (x' : Side), (s.setGraph x v).reports x' = s.reports x') ∧
    (∀ (x' : Side), (s.setGraph x v).feeds x' = s.feeds x') ∧
    (s.setGraph x v).profile = s.profile ∧
    (s.setGraph x v).demandLatched = s.demandLatched ∧
    (s.setGraph x v).permit = s.permit ∧
    (s.setGraph x v).commissioning = s.commissioning ∧
    (s.setGraph x v).activeSlot = s.activeSlot := by
  cases x <;> refine ⟨?_, ?_, ?_, ?_, ?_, ?_, ?_, ?_, ?_, ?_, ?_, ?_, ?_, ?_, ?_, ?_, ?_, ?_, ?_, ?_, ?_, ?_, ?_, ?_⟩ <;> intros <;> rfl

@[simp] theorem setSill_records (x : Side) (v : Sill) :
    (∀ (r' : Nat), (s.setSill x v).reader r' = s.reader r') ∧
    (∀ (x' : Side) (k' : Nat), (s.setSill x v).engine x' k' = s.engine x' k') ∧
    (∀ (k' : Nat), (s.setSill x v).stack k' = s.stack k') ∧
    (∀ (x' : Side), (s.setSill x v).sideRt x' = s.sideRt x') ∧
    (∀ (x' : Side), (s.setSill x v).graph x' = s.graph x') ∧
    (∀ (n' : Nat), (s.setSill x v).plateOf n' = s.plateOf n') ∧
    (∀ (x' : Side) (d' : Nat), (s.setSill x v).arc x' d' = s.arc x' d') ∧
    (∀ (x' : Side) (c' : Nat), (s.setSill x v).chain x' c' = s.chain x' c') ∧
    (∀ (g' : Nat), (s.setSill x v).group g' = s.group g') ∧
    (∀ (c' : Nat), (s.setSill x v).feedback c' = s.feedback c') ∧
    (∀ (c' : Nat) (k' : Nat), (s.setSill x v).comp c' k' = s.comp c' k') ∧
    (∀ (c' : Nat), (s.setSill x v).blank c' = s.blank c') ∧
    (∀ (r' : Nat) (b' : Nat), (s.setSill x v).history r' b' = s.history r' b') ∧
    (∀ (r' : Nat) (n' : Nat), (s.setSill x v).arbiter r' n' = s.arbiter r' n') ∧
    (∀ (n' : Nat), (s.setSill x v).sem n' = s.sem n') ∧
    (∀ (x' : Nat), (s.setSill x v).ptpPort x' = s.ptpPort x') ∧
    (∀ (p' : Nat), (s.setSill x v).pll p' = s.pll p') ∧
    (∀ (x' : Side) (n' : Nat), (s.setSill x v).segment x' n' = s.segment x' n') ∧
    (∀ (k' : Nat), (s.setSill x v).stream k' = s.stream k') := by
  cases x <;> refine ⟨?_, ?_, ?_, ?_, ?_, ?_, ?_, ?_, ?_, ?_, ?_, ?_, ?_, ?_, ?_, ?_, ?_, ?_, ?_⟩ <;> intros <;> rfl

@[simp] theorem setSill_objects (x : Side) (v : Sill) :
    (∀ (i' : Nat) (j' : Nat), (s.setSill x v).num i' j' = s.num i' j') ∧
    (∀ (i' : Nat) (j' : Nat), (s.setSill x v).blob i' j' = s.blob i' j') ∧
    (∀ (k' : Nat), (s.setSill x v).val k' = s.val k') ∧
    (∀ (i' : Nat) (j' : Nat) (hi' : Nat) (lo' : Nat), (s.setSill x v).fld i' j' hi' lo' = s.fld i' j' hi' lo') ∧
    (∀ (i' : Nat) (j' : Nat) (n' : Nat), (s.setSill x v).bit i' j' n' = s.bit i' j' n') ∧
    (s.setSill x v).stage = s.stage ∧
    (s.setSill x v).ready = s.ready ∧
    (s.setSill x v).gfState = s.gfState ∧
    (s.setSill x v).stopped = s.stopped ∧
    (s.setSill x v).driveState = s.driveState ∧
    (s.setSill x v).closeActive = s.closeActive ∧
    (s.setSill x v).armed = s.armed ∧
    (∀ (x' : Side), (s.setSill x v).sideState x' = s.sideState x') ∧
    (∀ (x' : Side), (s.setSill x v).inService x' = s.inService x') ∧
    (∀ (x' : Side), (s.setSill x v).powered x' = s.powered x') ∧
    (s.setSill x v).control = s.control ∧
    (s.setSill x v).reporter = s.reporter ∧
    (∀ (x' : Side), (s.setSill x v).reports x' = s.reports x') ∧
    (∀ (x' : Side), (s.setSill x v).feeds x' = s.feeds x') ∧
    (s.setSill x v).profile = s.profile ∧
    (s.setSill x v).demandLatched = s.demandLatched ∧
    (s.setSill x v).permit = s.permit ∧
    (s.setSill x v).commissioning = s.commissioning ∧
    (s.setSill x v).activeSlot = s.activeSlot := by
  cases x <;> refine ⟨?_, ?_, ?_, ?_, ?_, ?_, ?_, ?_, ?_, ?_, ?_, ?_, ?_, ?_, ?_, ?_, ?_, ?_, ?_, ?_, ?_, ?_, ?_, ?_⟩ <;> intros <;> rfl

@[simp] theorem setPlate_records (n : Nat) (v : PlatePair) :
    (∀ (r' : Nat), (s.setPlate n v).reader r' = s.reader r') ∧
    (∀ (x' : Side) (k' : Nat), (s.setPlate n v).engine x' k' = s.engine x' k') ∧
    (∀ (k' : Nat), (s.setPlate n v).stack k' = s.stack k') ∧
    (∀ (x' : Side), (s.setPlate n v).sideRt x' = s.sideRt x') ∧
    (∀ (x' : Side), (s.setPlate n v).graph x' = s.graph x') ∧
    (∀ (x' : Side), (s.setPlate n v).sill x' = s.sill x') ∧
    (∀ (x' : Side) (d' : Nat), (s.setPlate n v).arc x' d' = s.arc x' d') ∧
    (∀ (x' : Side) (c' : Nat), (s.setPlate n v).chain x' c' = s.chain x' c') ∧
    (∀ (g' : Nat), (s.setPlate n v).group g' = s.group g') ∧
    (∀ (c' : Nat), (s.setPlate n v).feedback c' = s.feedback c') ∧
    (∀ (c' : Nat) (k' : Nat), (s.setPlate n v).comp c' k' = s.comp c' k') ∧
    (∀ (c' : Nat), (s.setPlate n v).blank c' = s.blank c') ∧
    (∀ (r' : Nat) (b' : Nat), (s.setPlate n v).history r' b' = s.history r' b') ∧
    (∀ (r' : Nat) (n' : Nat), (s.setPlate n v).arbiter r' n' = s.arbiter r' n') ∧
    (∀ (n' : Nat), (s.setPlate n v).sem n' = s.sem n') ∧
    (∀ (x' : Nat), (s.setPlate n v).ptpPort x' = s.ptpPort x') ∧
    (∀ (p' : Nat), (s.setPlate n v).pll p' = s.pll p') ∧
    (∀ (x' : Side) (n' : Nat), (s.setPlate n v).segment x' n' = s.segment x' n') ∧
    (∀ (k' : Nat), (s.setPlate n v).stream k' = s.stream k') := by
  refine ⟨?_, ?_, ?_, ?_, ?_, ?_, ?_, ?_, ?_, ?_, ?_, ?_, ?_, ?_, ?_, ?_, ?_, ?_, ?_⟩ <;> intros <;> rfl

@[simp] theorem setPlate_objects (n : Nat) (v : PlatePair) :
    (∀ (i' : Nat) (j' : Nat), (s.setPlate n v).num i' j' = s.num i' j') ∧
    (∀ (i' : Nat) (j' : Nat), (s.setPlate n v).blob i' j' = s.blob i' j') ∧
    (∀ (k' : Nat), (s.setPlate n v).val k' = s.val k') ∧
    (∀ (i' : Nat) (j' : Nat) (hi' : Nat) (lo' : Nat), (s.setPlate n v).fld i' j' hi' lo' = s.fld i' j' hi' lo') ∧
    (∀ (i' : Nat) (j' : Nat) (n' : Nat), (s.setPlate n v).bit i' j' n' = s.bit i' j' n') ∧
    (s.setPlate n v).stage = s.stage ∧
    (s.setPlate n v).ready = s.ready ∧
    (s.setPlate n v).gfState = s.gfState ∧
    (s.setPlate n v).stopped = s.stopped ∧
    (s.setPlate n v).driveState = s.driveState ∧
    (s.setPlate n v).closeActive = s.closeActive ∧
    (s.setPlate n v).armed = s.armed ∧
    (∀ (x' : Side), (s.setPlate n v).sideState x' = s.sideState x') ∧
    (∀ (x' : Side), (s.setPlate n v).inService x' = s.inService x') ∧
    (∀ (x' : Side), (s.setPlate n v).powered x' = s.powered x') ∧
    (s.setPlate n v).control = s.control ∧
    (s.setPlate n v).reporter = s.reporter ∧
    (∀ (x' : Side), (s.setPlate n v).reports x' = s.reports x') ∧
    (∀ (x' : Side), (s.setPlate n v).feeds x' = s.feeds x') ∧
    (s.setPlate n v).profile = s.profile ∧
    (s.setPlate n v).demandLatched = s.demandLatched ∧
    (s.setPlate n v).permit = s.permit ∧
    (s.setPlate n v).commissioning = s.commissioning ∧
    (s.setPlate n v).activeSlot = s.activeSlot := by
  refine ⟨?_, ?_, ?_, ?_, ?_, ?_, ?_, ?_, ?_, ?_, ?_, ?_, ?_, ?_, ?_, ?_, ?_, ?_, ?_, ?_, ?_, ?_, ?_, ?_⟩ <;> intros <;> rfl

@[simp] theorem setArc_records (x : Side) (d : Nat) (v : Arc) :
    (∀ (r' : Nat), (s.setArc x d v).reader r' = s.reader r') ∧
    (∀ (x' : Side) (k' : Nat), (s.setArc x d v).engine x' k' = s.engine x' k') ∧
    (∀ (k' : Nat), (s.setArc x d v).stack k' = s.stack k') ∧
    (∀ (x' : Side), (s.setArc x d v).sideRt x' = s.sideRt x') ∧
    (∀ (x' : Side), (s.setArc x d v).graph x' = s.graph x') ∧
    (∀ (x' : Side), (s.setArc x d v).sill x' = s.sill x') ∧
    (∀ (n' : Nat), (s.setArc x d v).plateOf n' = s.plateOf n') ∧
    (∀ (x' : Side) (c' : Nat), (s.setArc x d v).chain x' c' = s.chain x' c') ∧
    (∀ (g' : Nat), (s.setArc x d v).group g' = s.group g') ∧
    (∀ (c' : Nat), (s.setArc x d v).feedback c' = s.feedback c') ∧
    (∀ (c' : Nat) (k' : Nat), (s.setArc x d v).comp c' k' = s.comp c' k') ∧
    (∀ (c' : Nat), (s.setArc x d v).blank c' = s.blank c') ∧
    (∀ (r' : Nat) (b' : Nat), (s.setArc x d v).history r' b' = s.history r' b') ∧
    (∀ (r' : Nat) (n' : Nat), (s.setArc x d v).arbiter r' n' = s.arbiter r' n') ∧
    (∀ (n' : Nat), (s.setArc x d v).sem n' = s.sem n') ∧
    (∀ (x' : Nat), (s.setArc x d v).ptpPort x' = s.ptpPort x') ∧
    (∀ (p' : Nat), (s.setArc x d v).pll p' = s.pll p') ∧
    (∀ (x' : Side) (n' : Nat), (s.setArc x d v).segment x' n' = s.segment x' n') ∧
    (∀ (k' : Nat), (s.setArc x d v).stream k' = s.stream k') := by
  refine ⟨?_, ?_, ?_, ?_, ?_, ?_, ?_, ?_, ?_, ?_, ?_, ?_, ?_, ?_, ?_, ?_, ?_, ?_, ?_⟩ <;> intros <;> rfl

@[simp] theorem setArc_objects (x : Side) (d : Nat) (v : Arc) :
    (∀ (i' : Nat) (j' : Nat), (s.setArc x d v).num i' j' = s.num i' j') ∧
    (∀ (i' : Nat) (j' : Nat), (s.setArc x d v).blob i' j' = s.blob i' j') ∧
    (∀ (k' : Nat), (s.setArc x d v).val k' = s.val k') ∧
    (∀ (i' : Nat) (j' : Nat) (hi' : Nat) (lo' : Nat), (s.setArc x d v).fld i' j' hi' lo' = s.fld i' j' hi' lo') ∧
    (∀ (i' : Nat) (j' : Nat) (n' : Nat), (s.setArc x d v).bit i' j' n' = s.bit i' j' n') ∧
    (s.setArc x d v).stage = s.stage ∧
    (s.setArc x d v).ready = s.ready ∧
    (s.setArc x d v).gfState = s.gfState ∧
    (s.setArc x d v).stopped = s.stopped ∧
    (s.setArc x d v).driveState = s.driveState ∧
    (s.setArc x d v).closeActive = s.closeActive ∧
    (s.setArc x d v).armed = s.armed ∧
    (∀ (x' : Side), (s.setArc x d v).sideState x' = s.sideState x') ∧
    (∀ (x' : Side), (s.setArc x d v).inService x' = s.inService x') ∧
    (∀ (x' : Side), (s.setArc x d v).powered x' = s.powered x') ∧
    (s.setArc x d v).control = s.control ∧
    (s.setArc x d v).reporter = s.reporter ∧
    (∀ (x' : Side), (s.setArc x d v).reports x' = s.reports x') ∧
    (∀ (x' : Side), (s.setArc x d v).feeds x' = s.feeds x') ∧
    (s.setArc x d v).profile = s.profile ∧
    (s.setArc x d v).demandLatched = s.demandLatched ∧
    (s.setArc x d v).permit = s.permit ∧
    (s.setArc x d v).commissioning = s.commissioning ∧
    (s.setArc x d v).activeSlot = s.activeSlot := by
  refine ⟨?_, ?_, ?_, ?_, ?_, ?_, ?_, ?_, ?_, ?_, ?_, ?_, ?_, ?_, ?_, ?_, ?_, ?_, ?_, ?_, ?_, ?_, ?_, ?_⟩ <;> intros <;> rfl

@[simp] theorem setChain_records (x : Side) (c : Nat) (v : Chain) :
    (∀ (r' : Nat), (s.setChain x c v).reader r' = s.reader r') ∧
    (∀ (x' : Side) (k' : Nat), (s.setChain x c v).engine x' k' = s.engine x' k') ∧
    (∀ (k' : Nat), (s.setChain x c v).stack k' = s.stack k') ∧
    (∀ (x' : Side), (s.setChain x c v).sideRt x' = s.sideRt x') ∧
    (∀ (x' : Side), (s.setChain x c v).graph x' = s.graph x') ∧
    (∀ (x' : Side), (s.setChain x c v).sill x' = s.sill x') ∧
    (∀ (n' : Nat), (s.setChain x c v).plateOf n' = s.plateOf n') ∧
    (∀ (x' : Side) (d' : Nat), (s.setChain x c v).arc x' d' = s.arc x' d') ∧
    (∀ (g' : Nat), (s.setChain x c v).group g' = s.group g') ∧
    (∀ (c' : Nat), (s.setChain x c v).feedback c' = s.feedback c') ∧
    (∀ (c' : Nat) (k' : Nat), (s.setChain x c v).comp c' k' = s.comp c' k') ∧
    (∀ (c' : Nat), (s.setChain x c v).blank c' = s.blank c') ∧
    (∀ (r' : Nat) (b' : Nat), (s.setChain x c v).history r' b' = s.history r' b') ∧
    (∀ (r' : Nat) (n' : Nat), (s.setChain x c v).arbiter r' n' = s.arbiter r' n') ∧
    (∀ (n' : Nat), (s.setChain x c v).sem n' = s.sem n') ∧
    (∀ (x' : Nat), (s.setChain x c v).ptpPort x' = s.ptpPort x') ∧
    (∀ (p' : Nat), (s.setChain x c v).pll p' = s.pll p') ∧
    (∀ (x' : Side) (n' : Nat), (s.setChain x c v).segment x' n' = s.segment x' n') ∧
    (∀ (k' : Nat), (s.setChain x c v).stream k' = s.stream k') := by
  refine ⟨?_, ?_, ?_, ?_, ?_, ?_, ?_, ?_, ?_, ?_, ?_, ?_, ?_, ?_, ?_, ?_, ?_, ?_, ?_⟩ <;> intros <;> rfl

@[simp] theorem setChain_objects (x : Side) (c : Nat) (v : Chain) :
    (∀ (i' : Nat) (j' : Nat), (s.setChain x c v).num i' j' = s.num i' j') ∧
    (∀ (i' : Nat) (j' : Nat), (s.setChain x c v).blob i' j' = s.blob i' j') ∧
    (∀ (k' : Nat), (s.setChain x c v).val k' = s.val k') ∧
    (∀ (i' : Nat) (j' : Nat) (hi' : Nat) (lo' : Nat), (s.setChain x c v).fld i' j' hi' lo' = s.fld i' j' hi' lo') ∧
    (∀ (i' : Nat) (j' : Nat) (n' : Nat), (s.setChain x c v).bit i' j' n' = s.bit i' j' n') ∧
    (s.setChain x c v).stage = s.stage ∧
    (s.setChain x c v).ready = s.ready ∧
    (s.setChain x c v).gfState = s.gfState ∧
    (s.setChain x c v).stopped = s.stopped ∧
    (s.setChain x c v).driveState = s.driveState ∧
    (s.setChain x c v).closeActive = s.closeActive ∧
    (s.setChain x c v).armed = s.armed ∧
    (∀ (x' : Side), (s.setChain x c v).sideState x' = s.sideState x') ∧
    (∀ (x' : Side), (s.setChain x c v).inService x' = s.inService x') ∧
    (∀ (x' : Side), (s.setChain x c v).powered x' = s.powered x') ∧
    (s.setChain x c v).control = s.control ∧
    (s.setChain x c v).reporter = s.reporter ∧
    (∀ (x' : Side), (s.setChain x c v).reports x' = s.reports x') ∧
    (∀ (x' : Side), (s.setChain x c v).feeds x' = s.feeds x') ∧
    (s.setChain x c v).profile = s.profile ∧
    (s.setChain x c v).demandLatched = s.demandLatched ∧
    (s.setChain x c v).permit = s.permit ∧
    (s.setChain x c v).commissioning = s.commissioning ∧
    (s.setChain x c v).activeSlot = s.activeSlot := by
  refine ⟨?_, ?_, ?_, ?_, ?_, ?_, ?_, ?_, ?_, ?_, ?_, ?_, ?_, ?_, ?_, ?_, ?_, ?_, ?_, ?_, ?_, ?_, ?_, ?_⟩ <;> intros <;> rfl

@[simp] theorem setGroup_records (g : Nat) (v : ClockGroup) :
    (∀ (r' : Nat), (s.setGroup g v).reader r' = s.reader r') ∧
    (∀ (x' : Side) (k' : Nat), (s.setGroup g v).engine x' k' = s.engine x' k') ∧
    (∀ (k' : Nat), (s.setGroup g v).stack k' = s.stack k') ∧
    (∀ (x' : Side), (s.setGroup g v).sideRt x' = s.sideRt x') ∧
    (∀ (x' : Side), (s.setGroup g v).graph x' = s.graph x') ∧
    (∀ (x' : Side), (s.setGroup g v).sill x' = s.sill x') ∧
    (∀ (n' : Nat), (s.setGroup g v).plateOf n' = s.plateOf n') ∧
    (∀ (x' : Side) (d' : Nat), (s.setGroup g v).arc x' d' = s.arc x' d') ∧
    (∀ (x' : Side) (c' : Nat), (s.setGroup g v).chain x' c' = s.chain x' c') ∧
    (∀ (c' : Nat), (s.setGroup g v).feedback c' = s.feedback c') ∧
    (∀ (c' : Nat) (k' : Nat), (s.setGroup g v).comp c' k' = s.comp c' k') ∧
    (∀ (c' : Nat), (s.setGroup g v).blank c' = s.blank c') ∧
    (∀ (r' : Nat) (b' : Nat), (s.setGroup g v).history r' b' = s.history r' b') ∧
    (∀ (r' : Nat) (n' : Nat), (s.setGroup g v).arbiter r' n' = s.arbiter r' n') ∧
    (∀ (n' : Nat), (s.setGroup g v).sem n' = s.sem n') ∧
    (∀ (x' : Nat), (s.setGroup g v).ptpPort x' = s.ptpPort x') ∧
    (∀ (p' : Nat), (s.setGroup g v).pll p' = s.pll p') ∧
    (∀ (x' : Side) (n' : Nat), (s.setGroup g v).segment x' n' = s.segment x' n') ∧
    (∀ (k' : Nat), (s.setGroup g v).stream k' = s.stream k') := by
  refine ⟨?_, ?_, ?_, ?_, ?_, ?_, ?_, ?_, ?_, ?_, ?_, ?_, ?_, ?_, ?_, ?_, ?_, ?_, ?_⟩ <;> intros <;> rfl

@[simp] theorem setGroup_objects (g : Nat) (v : ClockGroup) :
    (∀ (i' : Nat) (j' : Nat), (s.setGroup g v).num i' j' = s.num i' j') ∧
    (∀ (i' : Nat) (j' : Nat), (s.setGroup g v).blob i' j' = s.blob i' j') ∧
    (∀ (k' : Nat), (s.setGroup g v).val k' = s.val k') ∧
    (∀ (i' : Nat) (j' : Nat) (hi' : Nat) (lo' : Nat), (s.setGroup g v).fld i' j' hi' lo' = s.fld i' j' hi' lo') ∧
    (∀ (i' : Nat) (j' : Nat) (n' : Nat), (s.setGroup g v).bit i' j' n' = s.bit i' j' n') ∧
    (s.setGroup g v).stage = s.stage ∧
    (s.setGroup g v).ready = s.ready ∧
    (s.setGroup g v).gfState = s.gfState ∧
    (s.setGroup g v).stopped = s.stopped ∧
    (s.setGroup g v).driveState = s.driveState ∧
    (s.setGroup g v).closeActive = s.closeActive ∧
    (s.setGroup g v).armed = s.armed ∧
    (∀ (x' : Side), (s.setGroup g v).sideState x' = s.sideState x') ∧
    (∀ (x' : Side), (s.setGroup g v).inService x' = s.inService x') ∧
    (∀ (x' : Side), (s.setGroup g v).powered x' = s.powered x') ∧
    (s.setGroup g v).control = s.control ∧
    (s.setGroup g v).reporter = s.reporter ∧
    (∀ (x' : Side), (s.setGroup g v).reports x' = s.reports x') ∧
    (∀ (x' : Side), (s.setGroup g v).feeds x' = s.feeds x') ∧
    (s.setGroup g v).profile = s.profile ∧
    (s.setGroup g v).demandLatched = s.demandLatched ∧
    (s.setGroup g v).permit = s.permit ∧
    (s.setGroup g v).commissioning = s.commissioning ∧
    (s.setGroup g v).activeSlot = s.activeSlot := by
  refine ⟨?_, ?_, ?_, ?_, ?_, ?_, ?_, ?_, ?_, ?_, ?_, ?_, ?_, ?_, ?_, ?_, ?_, ?_, ?_, ?_, ?_, ?_, ?_, ?_⟩ <;> intros <;> rfl

@[simp] theorem setFeedback_records (c : Nat) (v : Feedback) :
    (∀ (r' : Nat), (s.setFeedback c v).reader r' = s.reader r') ∧
    (∀ (x' : Side) (k' : Nat), (s.setFeedback c v).engine x' k' = s.engine x' k') ∧
    (∀ (k' : Nat), (s.setFeedback c v).stack k' = s.stack k') ∧
    (∀ (x' : Side), (s.setFeedback c v).sideRt x' = s.sideRt x') ∧
    (∀ (x' : Side), (s.setFeedback c v).graph x' = s.graph x') ∧
    (∀ (x' : Side), (s.setFeedback c v).sill x' = s.sill x') ∧
    (∀ (n' : Nat), (s.setFeedback c v).plateOf n' = s.plateOf n') ∧
    (∀ (x' : Side) (d' : Nat), (s.setFeedback c v).arc x' d' = s.arc x' d') ∧
    (∀ (x' : Side) (c' : Nat), (s.setFeedback c v).chain x' c' = s.chain x' c') ∧
    (∀ (g' : Nat), (s.setFeedback c v).group g' = s.group g') ∧
    (∀ (c' : Nat) (k' : Nat), (s.setFeedback c v).comp c' k' = s.comp c' k') ∧
    (∀ (c' : Nat), (s.setFeedback c v).blank c' = s.blank c') ∧
    (∀ (r' : Nat) (b' : Nat), (s.setFeedback c v).history r' b' = s.history r' b') ∧
    (∀ (r' : Nat) (n' : Nat), (s.setFeedback c v).arbiter r' n' = s.arbiter r' n') ∧
    (∀ (n' : Nat), (s.setFeedback c v).sem n' = s.sem n') ∧
    (∀ (x' : Nat), (s.setFeedback c v).ptpPort x' = s.ptpPort x') ∧
    (∀ (p' : Nat), (s.setFeedback c v).pll p' = s.pll p') ∧
    (∀ (x' : Side) (n' : Nat), (s.setFeedback c v).segment x' n' = s.segment x' n') ∧
    (∀ (k' : Nat), (s.setFeedback c v).stream k' = s.stream k') := by
  refine ⟨?_, ?_, ?_, ?_, ?_, ?_, ?_, ?_, ?_, ?_, ?_, ?_, ?_, ?_, ?_, ?_, ?_, ?_, ?_⟩ <;> intros <;> rfl

@[simp] theorem setFeedback_objects (c : Nat) (v : Feedback) :
    (∀ (i' : Nat) (j' : Nat), (s.setFeedback c v).num i' j' = s.num i' j') ∧
    (∀ (i' : Nat) (j' : Nat), (s.setFeedback c v).blob i' j' = s.blob i' j') ∧
    (∀ (k' : Nat), (s.setFeedback c v).val k' = s.val k') ∧
    (∀ (i' : Nat) (j' : Nat) (hi' : Nat) (lo' : Nat), (s.setFeedback c v).fld i' j' hi' lo' = s.fld i' j' hi' lo') ∧
    (∀ (i' : Nat) (j' : Nat) (n' : Nat), (s.setFeedback c v).bit i' j' n' = s.bit i' j' n') ∧
    (s.setFeedback c v).stage = s.stage ∧
    (s.setFeedback c v).ready = s.ready ∧
    (s.setFeedback c v).gfState = s.gfState ∧
    (s.setFeedback c v).stopped = s.stopped ∧
    (s.setFeedback c v).driveState = s.driveState ∧
    (s.setFeedback c v).closeActive = s.closeActive ∧
    (s.setFeedback c v).armed = s.armed ∧
    (∀ (x' : Side), (s.setFeedback c v).sideState x' = s.sideState x') ∧
    (∀ (x' : Side), (s.setFeedback c v).inService x' = s.inService x') ∧
    (∀ (x' : Side), (s.setFeedback c v).powered x' = s.powered x') ∧
    (s.setFeedback c v).control = s.control ∧
    (s.setFeedback c v).reporter = s.reporter ∧
    (∀ (x' : Side), (s.setFeedback c v).reports x' = s.reports x') ∧
    (∀ (x' : Side), (s.setFeedback c v).feeds x' = s.feeds x') ∧
    (s.setFeedback c v).profile = s.profile ∧
    (s.setFeedback c v).demandLatched = s.demandLatched ∧
    (s.setFeedback c v).permit = s.permit ∧
    (s.setFeedback c v).commissioning = s.commissioning ∧
    (s.setFeedback c v).activeSlot = s.activeSlot := by
  refine ⟨?_, ?_, ?_, ?_, ?_, ?_, ?_, ?_, ?_, ?_, ?_, ?_, ?_, ?_, ?_, ?_, ?_, ?_, ?_, ?_, ?_, ?_, ?_, ?_⟩ <;> intros <;> rfl

@[simp] theorem setComp_records (c : Nat) (k : Nat) (v : Comparator) :
    (∀ (r' : Nat), (s.setComp c k v).reader r' = s.reader r') ∧
    (∀ (x' : Side) (k' : Nat), (s.setComp c k v).engine x' k' = s.engine x' k') ∧
    (∀ (k' : Nat), (s.setComp c k v).stack k' = s.stack k') ∧
    (∀ (x' : Side), (s.setComp c k v).sideRt x' = s.sideRt x') ∧
    (∀ (x' : Side), (s.setComp c k v).graph x' = s.graph x') ∧
    (∀ (x' : Side), (s.setComp c k v).sill x' = s.sill x') ∧
    (∀ (n' : Nat), (s.setComp c k v).plateOf n' = s.plateOf n') ∧
    (∀ (x' : Side) (d' : Nat), (s.setComp c k v).arc x' d' = s.arc x' d') ∧
    (∀ (x' : Side) (c' : Nat), (s.setComp c k v).chain x' c' = s.chain x' c') ∧
    (∀ (g' : Nat), (s.setComp c k v).group g' = s.group g') ∧
    (∀ (c' : Nat), (s.setComp c k v).feedback c' = s.feedback c') ∧
    (∀ (c' : Nat), (s.setComp c k v).blank c' = s.blank c') ∧
    (∀ (r' : Nat) (b' : Nat), (s.setComp c k v).history r' b' = s.history r' b') ∧
    (∀ (r' : Nat) (n' : Nat), (s.setComp c k v).arbiter r' n' = s.arbiter r' n') ∧
    (∀ (n' : Nat), (s.setComp c k v).sem n' = s.sem n') ∧
    (∀ (x' : Nat), (s.setComp c k v).ptpPort x' = s.ptpPort x') ∧
    (∀ (p' : Nat), (s.setComp c k v).pll p' = s.pll p') ∧
    (∀ (x' : Side) (n' : Nat), (s.setComp c k v).segment x' n' = s.segment x' n') ∧
    (∀ (k' : Nat), (s.setComp c k v).stream k' = s.stream k') := by
  refine ⟨?_, ?_, ?_, ?_, ?_, ?_, ?_, ?_, ?_, ?_, ?_, ?_, ?_, ?_, ?_, ?_, ?_, ?_, ?_⟩ <;> intros <;> rfl

@[simp] theorem setComp_objects (c : Nat) (k : Nat) (v : Comparator) :
    (∀ (i' : Nat) (j' : Nat), (s.setComp c k v).num i' j' = s.num i' j') ∧
    (∀ (i' : Nat) (j' : Nat), (s.setComp c k v).blob i' j' = s.blob i' j') ∧
    (∀ (k' : Nat), (s.setComp c k v).val k' = s.val k') ∧
    (∀ (i' : Nat) (j' : Nat) (hi' : Nat) (lo' : Nat), (s.setComp c k v).fld i' j' hi' lo' = s.fld i' j' hi' lo') ∧
    (∀ (i' : Nat) (j' : Nat) (n' : Nat), (s.setComp c k v).bit i' j' n' = s.bit i' j' n') ∧
    (s.setComp c k v).stage = s.stage ∧
    (s.setComp c k v).ready = s.ready ∧
    (s.setComp c k v).gfState = s.gfState ∧
    (s.setComp c k v).stopped = s.stopped ∧
    (s.setComp c k v).driveState = s.driveState ∧
    (s.setComp c k v).closeActive = s.closeActive ∧
    (s.setComp c k v).armed = s.armed ∧
    (∀ (x' : Side), (s.setComp c k v).sideState x' = s.sideState x') ∧
    (∀ (x' : Side), (s.setComp c k v).inService x' = s.inService x') ∧
    (∀ (x' : Side), (s.setComp c k v).powered x' = s.powered x') ∧
    (s.setComp c k v).control = s.control ∧
    (s.setComp c k v).reporter = s.reporter ∧
    (∀ (x' : Side), (s.setComp c k v).reports x' = s.reports x') ∧
    (∀ (x' : Side), (s.setComp c k v).feeds x' = s.feeds x') ∧
    (s.setComp c k v).profile = s.profile ∧
    (s.setComp c k v).demandLatched = s.demandLatched ∧
    (s.setComp c k v).permit = s.permit ∧
    (s.setComp c k v).commissioning = s.commissioning ∧
    (s.setComp c k v).activeSlot = s.activeSlot := by
  refine ⟨?_, ?_, ?_, ?_, ?_, ?_, ?_, ?_, ?_, ?_, ?_, ?_, ?_, ?_, ?_, ?_, ?_, ?_, ?_, ?_, ?_, ?_, ?_, ?_⟩ <;> intros <;> rfl

@[simp] theorem setArbiter_records (r : Nat) (n : Nat) (v : Arbiter) :
    (∀ (r' : Nat), (s.setArbiter r n v).reader r' = s.reader r') ∧
    (∀ (x' : Side) (k' : Nat), (s.setArbiter r n v).engine x' k' = s.engine x' k') ∧
    (∀ (k' : Nat), (s.setArbiter r n v).stack k' = s.stack k') ∧
    (∀ (x' : Side), (s.setArbiter r n v).sideRt x' = s.sideRt x') ∧
    (∀ (x' : Side), (s.setArbiter r n v).graph x' = s.graph x') ∧
    (∀ (x' : Side), (s.setArbiter r n v).sill x' = s.sill x') ∧
    (∀ (n' : Nat), (s.setArbiter r n v).plateOf n' = s.plateOf n') ∧
    (∀ (x' : Side) (d' : Nat), (s.setArbiter r n v).arc x' d' = s.arc x' d') ∧
    (∀ (x' : Side) (c' : Nat), (s.setArbiter r n v).chain x' c' = s.chain x' c') ∧
    (∀ (g' : Nat), (s.setArbiter r n v).group g' = s.group g') ∧
    (∀ (c' : Nat), (s.setArbiter r n v).feedback c' = s.feedback c') ∧
    (∀ (c' : Nat) (k' : Nat), (s.setArbiter r n v).comp c' k' = s.comp c' k') ∧
    (∀ (c' : Nat), (s.setArbiter r n v).blank c' = s.blank c') ∧
    (∀ (r' : Nat) (b' : Nat), (s.setArbiter r n v).history r' b' = s.history r' b') ∧
    (∀ (n' : Nat), (s.setArbiter r n v).sem n' = s.sem n') ∧
    (∀ (x' : Nat), (s.setArbiter r n v).ptpPort x' = s.ptpPort x') ∧
    (∀ (p' : Nat), (s.setArbiter r n v).pll p' = s.pll p') ∧
    (∀ (x' : Side) (n' : Nat), (s.setArbiter r n v).segment x' n' = s.segment x' n') ∧
    (∀ (k' : Nat), (s.setArbiter r n v).stream k' = s.stream k') := by
  refine ⟨?_, ?_, ?_, ?_, ?_, ?_, ?_, ?_, ?_, ?_, ?_, ?_, ?_, ?_, ?_, ?_, ?_, ?_, ?_⟩ <;> intros <;> rfl

@[simp] theorem setArbiter_objects (r : Nat) (n : Nat) (v : Arbiter) :
    (∀ (i' : Nat) (j' : Nat), (s.setArbiter r n v).num i' j' = s.num i' j') ∧
    (∀ (i' : Nat) (j' : Nat), (s.setArbiter r n v).blob i' j' = s.blob i' j') ∧
    (∀ (k' : Nat), (s.setArbiter r n v).val k' = s.val k') ∧
    (∀ (i' : Nat) (j' : Nat) (hi' : Nat) (lo' : Nat), (s.setArbiter r n v).fld i' j' hi' lo' = s.fld i' j' hi' lo') ∧
    (∀ (i' : Nat) (j' : Nat) (n' : Nat), (s.setArbiter r n v).bit i' j' n' = s.bit i' j' n') ∧
    (s.setArbiter r n v).stage = s.stage ∧
    (s.setArbiter r n v).ready = s.ready ∧
    (s.setArbiter r n v).gfState = s.gfState ∧
    (s.setArbiter r n v).stopped = s.stopped ∧
    (s.setArbiter r n v).driveState = s.driveState ∧
    (s.setArbiter r n v).closeActive = s.closeActive ∧
    (s.setArbiter r n v).armed = s.armed ∧
    (∀ (x' : Side), (s.setArbiter r n v).sideState x' = s.sideState x') ∧
    (∀ (x' : Side), (s.setArbiter r n v).inService x' = s.inService x') ∧
    (∀ (x' : Side), (s.setArbiter r n v).powered x' = s.powered x') ∧
    (s.setArbiter r n v).control = s.control ∧
    (s.setArbiter r n v).reporter = s.reporter ∧
    (∀ (x' : Side), (s.setArbiter r n v).reports x' = s.reports x') ∧
    (∀ (x' : Side), (s.setArbiter r n v).feeds x' = s.feeds x') ∧
    (s.setArbiter r n v).profile = s.profile ∧
    (s.setArbiter r n v).demandLatched = s.demandLatched ∧
    (s.setArbiter r n v).permit = s.permit ∧
    (s.setArbiter r n v).commissioning = s.commissioning ∧
    (s.setArbiter r n v).activeSlot = s.activeSlot := by
  refine ⟨?_, ?_, ?_, ?_, ?_, ?_, ?_, ?_, ?_, ?_, ?_, ?_, ?_, ?_, ?_, ?_, ?_, ?_, ?_, ?_, ?_, ?_, ?_, ?_⟩ <;> intros <;> rfl

@[simp] theorem setSem_records (n : Nat) (v : Sem) :
    (∀ (r' : Nat), (s.setSem n v).reader r' = s.reader r') ∧
    (∀ (x' : Side) (k' : Nat), (s.setSem n v).engine x' k' = s.engine x' k') ∧
    (∀ (k' : Nat), (s.setSem n v).stack k' = s.stack k') ∧
    (∀ (x' : Side), (s.setSem n v).sideRt x' = s.sideRt x') ∧
    (∀ (x' : Side), (s.setSem n v).graph x' = s.graph x') ∧
    (∀ (x' : Side), (s.setSem n v).sill x' = s.sill x') ∧
    (∀ (n' : Nat), (s.setSem n v).plateOf n' = s.plateOf n') ∧
    (∀ (x' : Side) (d' : Nat), (s.setSem n v).arc x' d' = s.arc x' d') ∧
    (∀ (x' : Side) (c' : Nat), (s.setSem n v).chain x' c' = s.chain x' c') ∧
    (∀ (g' : Nat), (s.setSem n v).group g' = s.group g') ∧
    (∀ (c' : Nat), (s.setSem n v).feedback c' = s.feedback c') ∧
    (∀ (c' : Nat) (k' : Nat), (s.setSem n v).comp c' k' = s.comp c' k') ∧
    (∀ (c' : Nat), (s.setSem n v).blank c' = s.blank c') ∧
    (∀ (r' : Nat) (b' : Nat), (s.setSem n v).history r' b' = s.history r' b') ∧
    (∀ (r' : Nat) (n' : Nat), (s.setSem n v).arbiter r' n' = s.arbiter r' n') ∧
    (∀ (x' : Nat), (s.setSem n v).ptpPort x' = s.ptpPort x') ∧
    (∀ (p' : Nat), (s.setSem n v).pll p' = s.pll p') ∧
    (∀ (x' : Side) (n' : Nat), (s.setSem n v).segment x' n' = s.segment x' n') ∧
    (∀ (k' : Nat), (s.setSem n v).stream k' = s.stream k') := by
  refine ⟨?_, ?_, ?_, ?_, ?_, ?_, ?_, ?_, ?_, ?_, ?_, ?_, ?_, ?_, ?_, ?_, ?_, ?_, ?_⟩ <;> intros <;> rfl

@[simp] theorem setSem_objects (n : Nat) (v : Sem) :
    (∀ (i' : Nat) (j' : Nat), (s.setSem n v).num i' j' = s.num i' j') ∧
    (∀ (i' : Nat) (j' : Nat), (s.setSem n v).blob i' j' = s.blob i' j') ∧
    (∀ (k' : Nat), (s.setSem n v).val k' = s.val k') ∧
    (∀ (i' : Nat) (j' : Nat) (hi' : Nat) (lo' : Nat), (s.setSem n v).fld i' j' hi' lo' = s.fld i' j' hi' lo') ∧
    (∀ (i' : Nat) (j' : Nat) (n' : Nat), (s.setSem n v).bit i' j' n' = s.bit i' j' n') ∧
    (s.setSem n v).stage = s.stage ∧
    (s.setSem n v).ready = s.ready ∧
    (s.setSem n v).gfState = s.gfState ∧
    (s.setSem n v).stopped = s.stopped ∧
    (s.setSem n v).driveState = s.driveState ∧
    (s.setSem n v).closeActive = s.closeActive ∧
    (s.setSem n v).armed = s.armed ∧
    (∀ (x' : Side), (s.setSem n v).sideState x' = s.sideState x') ∧
    (∀ (x' : Side), (s.setSem n v).inService x' = s.inService x') ∧
    (∀ (x' : Side), (s.setSem n v).powered x' = s.powered x') ∧
    (s.setSem n v).control = s.control ∧
    (s.setSem n v).reporter = s.reporter ∧
    (∀ (x' : Side), (s.setSem n v).reports x' = s.reports x') ∧
    (∀ (x' : Side), (s.setSem n v).feeds x' = s.feeds x') ∧
    (s.setSem n v).profile = s.profile ∧
    (s.setSem n v).demandLatched = s.demandLatched ∧
    (s.setSem n v).permit = s.permit ∧
    (s.setSem n v).commissioning = s.commissioning ∧
    (s.setSem n v).activeSlot = s.activeSlot := by
  refine ⟨?_, ?_, ?_, ?_, ?_, ?_, ?_, ?_, ?_, ?_, ?_, ?_, ?_, ?_, ?_, ?_, ?_, ?_, ?_, ?_, ?_, ?_, ?_, ?_⟩ <;> intros <;> rfl

@[simp] theorem setPtpPort_records (x : Nat) (v : PtpPort) :
    (∀ (r' : Nat), (s.setPtpPort x v).reader r' = s.reader r') ∧
    (∀ (x' : Side) (k' : Nat), (s.setPtpPort x v).engine x' k' = s.engine x' k') ∧
    (∀ (k' : Nat), (s.setPtpPort x v).stack k' = s.stack k') ∧
    (∀ (x' : Side), (s.setPtpPort x v).sideRt x' = s.sideRt x') ∧
    (∀ (x' : Side), (s.setPtpPort x v).graph x' = s.graph x') ∧
    (∀ (x' : Side), (s.setPtpPort x v).sill x' = s.sill x') ∧
    (∀ (n' : Nat), (s.setPtpPort x v).plateOf n' = s.plateOf n') ∧
    (∀ (x' : Side) (d' : Nat), (s.setPtpPort x v).arc x' d' = s.arc x' d') ∧
    (∀ (x' : Side) (c' : Nat), (s.setPtpPort x v).chain x' c' = s.chain x' c') ∧
    (∀ (g' : Nat), (s.setPtpPort x v).group g' = s.group g') ∧
    (∀ (c' : Nat), (s.setPtpPort x v).feedback c' = s.feedback c') ∧
    (∀ (c' : Nat) (k' : Nat), (s.setPtpPort x v).comp c' k' = s.comp c' k') ∧
    (∀ (c' : Nat), (s.setPtpPort x v).blank c' = s.blank c') ∧
    (∀ (r' : Nat) (b' : Nat), (s.setPtpPort x v).history r' b' = s.history r' b') ∧
    (∀ (r' : Nat) (n' : Nat), (s.setPtpPort x v).arbiter r' n' = s.arbiter r' n') ∧
    (∀ (n' : Nat), (s.setPtpPort x v).sem n' = s.sem n') ∧
    (∀ (p' : Nat), (s.setPtpPort x v).pll p' = s.pll p') ∧
    (∀ (x' : Side) (n' : Nat), (s.setPtpPort x v).segment x' n' = s.segment x' n') ∧
    (∀ (k' : Nat), (s.setPtpPort x v).stream k' = s.stream k') := by
  refine ⟨?_, ?_, ?_, ?_, ?_, ?_, ?_, ?_, ?_, ?_, ?_, ?_, ?_, ?_, ?_, ?_, ?_, ?_, ?_⟩ <;> intros <;> rfl

@[simp] theorem setPtpPort_objects (x : Nat) (v : PtpPort) :
    (∀ (i' : Nat) (j' : Nat), (s.setPtpPort x v).num i' j' = s.num i' j') ∧
    (∀ (i' : Nat) (j' : Nat), (s.setPtpPort x v).blob i' j' = s.blob i' j') ∧
    (∀ (k' : Nat), (s.setPtpPort x v).val k' = s.val k') ∧
    (∀ (i' : Nat) (j' : Nat) (hi' : Nat) (lo' : Nat), (s.setPtpPort x v).fld i' j' hi' lo' = s.fld i' j' hi' lo') ∧
    (∀ (i' : Nat) (j' : Nat) (n' : Nat), (s.setPtpPort x v).bit i' j' n' = s.bit i' j' n') ∧
    (s.setPtpPort x v).stage = s.stage ∧
    (s.setPtpPort x v).ready = s.ready ∧
    (s.setPtpPort x v).gfState = s.gfState ∧
    (s.setPtpPort x v).stopped = s.stopped ∧
    (s.setPtpPort x v).driveState = s.driveState ∧
    (s.setPtpPort x v).closeActive = s.closeActive ∧
    (s.setPtpPort x v).armed = s.armed ∧
    (∀ (x' : Side), (s.setPtpPort x v).sideState x' = s.sideState x') ∧
    (∀ (x' : Side), (s.setPtpPort x v).inService x' = s.inService x') ∧
    (∀ (x' : Side), (s.setPtpPort x v).powered x' = s.powered x') ∧
    (s.setPtpPort x v).control = s.control ∧
    (s.setPtpPort x v).reporter = s.reporter ∧
    (∀ (x' : Side), (s.setPtpPort x v).reports x' = s.reports x') ∧
    (∀ (x' : Side), (s.setPtpPort x v).feeds x' = s.feeds x') ∧
    (s.setPtpPort x v).profile = s.profile ∧
    (s.setPtpPort x v).demandLatched = s.demandLatched ∧
    (s.setPtpPort x v).permit = s.permit ∧
    (s.setPtpPort x v).commissioning = s.commissioning ∧
    (s.setPtpPort x v).activeSlot = s.activeSlot := by
  refine ⟨?_, ?_, ?_, ?_, ?_, ?_, ?_, ?_, ?_, ?_, ?_, ?_, ?_, ?_, ?_, ?_, ?_, ?_, ?_, ?_, ?_, ?_, ?_, ?_⟩ <;> intros <;> rfl

@[simp] theorem setPll_records (p : Nat) (v : Pll) :
    (∀ (r' : Nat), (s.setPll p v).reader r' = s.reader r') ∧
    (∀ (x' : Side) (k' : Nat), (s.setPll p v).engine x' k' = s.engine x' k') ∧
    (∀ (k' : Nat), (s.setPll p v).stack k' = s.stack k') ∧
    (∀ (x' : Side), (s.setPll p v).sideRt x' = s.sideRt x') ∧
    (∀ (x' : Side), (s.setPll p v).graph x' = s.graph x') ∧
    (∀ (x' : Side), (s.setPll p v).sill x' = s.sill x') ∧
    (∀ (n' : Nat), (s.setPll p v).plateOf n' = s.plateOf n') ∧
    (∀ (x' : Side) (d' : Nat), (s.setPll p v).arc x' d' = s.arc x' d') ∧
    (∀ (x' : Side) (c' : Nat), (s.setPll p v).chain x' c' = s.chain x' c') ∧
    (∀ (g' : Nat), (s.setPll p v).group g' = s.group g') ∧
    (∀ (c' : Nat), (s.setPll p v).feedback c' = s.feedback c') ∧
    (∀ (c' : Nat) (k' : Nat), (s.setPll p v).comp c' k' = s.comp c' k') ∧
    (∀ (c' : Nat), (s.setPll p v).blank c' = s.blank c') ∧
    (∀ (r' : Nat) (b' : Nat), (s.setPll p v).history r' b' = s.history r' b') ∧
    (∀ (r' : Nat) (n' : Nat), (s.setPll p v).arbiter r' n' = s.arbiter r' n') ∧
    (∀ (n' : Nat), (s.setPll p v).sem n' = s.sem n') ∧
    (∀ (x' : Nat), (s.setPll p v).ptpPort x' = s.ptpPort x') ∧
    (∀ (x' : Side) (n' : Nat), (s.setPll p v).segment x' n' = s.segment x' n') ∧
    (∀ (k' : Nat), (s.setPll p v).stream k' = s.stream k') := by
  refine ⟨?_, ?_, ?_, ?_, ?_, ?_, ?_, ?_, ?_, ?_, ?_, ?_, ?_, ?_, ?_, ?_, ?_, ?_, ?_⟩ <;> intros <;> rfl

@[simp] theorem setPll_objects (p : Nat) (v : Pll) :
    (∀ (i' : Nat) (j' : Nat), (s.setPll p v).num i' j' = s.num i' j') ∧
    (∀ (i' : Nat) (j' : Nat), (s.setPll p v).blob i' j' = s.blob i' j') ∧
    (∀ (k' : Nat), (s.setPll p v).val k' = s.val k') ∧
    (∀ (i' : Nat) (j' : Nat) (hi' : Nat) (lo' : Nat), (s.setPll p v).fld i' j' hi' lo' = s.fld i' j' hi' lo') ∧
    (∀ (i' : Nat) (j' : Nat) (n' : Nat), (s.setPll p v).bit i' j' n' = s.bit i' j' n') ∧
    (s.setPll p v).stage = s.stage ∧
    (s.setPll p v).ready = s.ready ∧
    (s.setPll p v).gfState = s.gfState ∧
    (s.setPll p v).stopped = s.stopped ∧
    (s.setPll p v).driveState = s.driveState ∧
    (s.setPll p v).closeActive = s.closeActive ∧
    (s.setPll p v).armed = s.armed ∧
    (∀ (x' : Side), (s.setPll p v).sideState x' = s.sideState x') ∧
    (∀ (x' : Side), (s.setPll p v).inService x' = s.inService x') ∧
    (∀ (x' : Side), (s.setPll p v).powered x' = s.powered x') ∧
    (s.setPll p v).control = s.control ∧
    (s.setPll p v).reporter = s.reporter ∧
    (∀ (x' : Side), (s.setPll p v).reports x' = s.reports x') ∧
    (∀ (x' : Side), (s.setPll p v).feeds x' = s.feeds x') ∧
    (s.setPll p v).profile = s.profile ∧
    (s.setPll p v).demandLatched = s.demandLatched ∧
    (s.setPll p v).permit = s.permit ∧
    (s.setPll p v).commissioning = s.commissioning ∧
    (s.setPll p v).activeSlot = s.activeSlot := by
  refine ⟨?_, ?_, ?_, ?_, ?_, ?_, ?_, ?_, ?_, ?_, ?_, ?_, ?_, ?_, ?_, ?_, ?_, ?_, ?_, ?_, ?_, ?_, ?_, ?_⟩ <;> intros <;> rfl

@[simp] theorem setSegment_records (x : Side) (n : Nat) (v : Segment) :
    (∀ (r' : Nat), (s.setSegment x n v).reader r' = s.reader r') ∧
    (∀ (x' : Side) (k' : Nat), (s.setSegment x n v).engine x' k' = s.engine x' k') ∧
    (∀ (k' : Nat), (s.setSegment x n v).stack k' = s.stack k') ∧
    (∀ (x' : Side), (s.setSegment x n v).sideRt x' = s.sideRt x') ∧
    (∀ (x' : Side), (s.setSegment x n v).graph x' = s.graph x') ∧
    (∀ (x' : Side), (s.setSegment x n v).sill x' = s.sill x') ∧
    (∀ (n' : Nat), (s.setSegment x n v).plateOf n' = s.plateOf n') ∧
    (∀ (x' : Side) (d' : Nat), (s.setSegment x n v).arc x' d' = s.arc x' d') ∧
    (∀ (x' : Side) (c' : Nat), (s.setSegment x n v).chain x' c' = s.chain x' c') ∧
    (∀ (g' : Nat), (s.setSegment x n v).group g' = s.group g') ∧
    (∀ (c' : Nat), (s.setSegment x n v).feedback c' = s.feedback c') ∧
    (∀ (c' : Nat) (k' : Nat), (s.setSegment x n v).comp c' k' = s.comp c' k') ∧
    (∀ (c' : Nat), (s.setSegment x n v).blank c' = s.blank c') ∧
    (∀ (r' : Nat) (b' : Nat), (s.setSegment x n v).history r' b' = s.history r' b') ∧
    (∀ (r' : Nat) (n' : Nat), (s.setSegment x n v).arbiter r' n' = s.arbiter r' n') ∧
    (∀ (n' : Nat), (s.setSegment x n v).sem n' = s.sem n') ∧
    (∀ (x' : Nat), (s.setSegment x n v).ptpPort x' = s.ptpPort x') ∧
    (∀ (p' : Nat), (s.setSegment x n v).pll p' = s.pll p') ∧
    (∀ (k' : Nat), (s.setSegment x n v).stream k' = s.stream k') := by
  refine ⟨?_, ?_, ?_, ?_, ?_, ?_, ?_, ?_, ?_, ?_, ?_, ?_, ?_, ?_, ?_, ?_, ?_, ?_, ?_⟩ <;> intros <;> rfl

@[simp] theorem setSegment_objects (x : Side) (n : Nat) (v : Segment) :
    (∀ (i' : Nat) (j' : Nat), (s.setSegment x n v).num i' j' = s.num i' j') ∧
    (∀ (i' : Nat) (j' : Nat), (s.setSegment x n v).blob i' j' = s.blob i' j') ∧
    (∀ (k' : Nat), (s.setSegment x n v).val k' = s.val k') ∧
    (∀ (i' : Nat) (j' : Nat) (hi' : Nat) (lo' : Nat), (s.setSegment x n v).fld i' j' hi' lo' = s.fld i' j' hi' lo') ∧
    (∀ (i' : Nat) (j' : Nat) (n' : Nat), (s.setSegment x n v).bit i' j' n' = s.bit i' j' n') ∧
    (s.setSegment x n v).stage = s.stage ∧
    (s.setSegment x n v).ready = s.ready ∧
    (s.setSegment x n v).gfState = s.gfState ∧
    (s.setSegment x n v).stopped = s.stopped ∧
    (s.setSegment x n v).driveState = s.driveState ∧
    (s.setSegment x n v).closeActive = s.closeActive ∧
    (s.setSegment x n v).armed = s.armed ∧
    (∀ (x' : Side), (s.setSegment x n v).sideState x' = s.sideState x') ∧
    (∀ (x' : Side), (s.setSegment x n v).inService x' = s.inService x') ∧
    (∀ (x' : Side), (s.setSegment x n v).powered x' = s.powered x') ∧
    (s.setSegment x n v).control = s.control ∧
    (s.setSegment x n v).reporter = s.reporter ∧
    (∀ (x' : Side), (s.setSegment x n v).reports x' = s.reports x') ∧
    (∀ (x' : Side), (s.setSegment x n v).feeds x' = s.feeds x') ∧
    (s.setSegment x n v).profile = s.profile ∧
    (s.setSegment x n v).demandLatched = s.demandLatched ∧
    (s.setSegment x n v).permit = s.permit ∧
    (s.setSegment x n v).commissioning = s.commissioning ∧
    (s.setSegment x n v).activeSlot = s.activeSlot := by
  refine ⟨?_, ?_, ?_, ?_, ?_, ?_, ?_, ?_, ?_, ?_, ?_, ?_, ?_, ?_, ?_, ?_, ?_, ?_, ?_, ?_, ?_, ?_, ?_, ?_⟩ <;> intros <;> rfl

@[simp] theorem setStream_records (k : Nat) (v : Stream) :
    (∀ (r' : Nat), (s.setStream k v).reader r' = s.reader r') ∧
    (∀ (x' : Side) (k' : Nat), (s.setStream k v).engine x' k' = s.engine x' k') ∧
    (∀ (k' : Nat), (s.setStream k v).stack k' = s.stack k') ∧
    (∀ (x' : Side), (s.setStream k v).sideRt x' = s.sideRt x') ∧
    (∀ (x' : Side), (s.setStream k v).graph x' = s.graph x') ∧
    (∀ (x' : Side), (s.setStream k v).sill x' = s.sill x') ∧
    (∀ (n' : Nat), (s.setStream k v).plateOf n' = s.plateOf n') ∧
    (∀ (x' : Side) (d' : Nat), (s.setStream k v).arc x' d' = s.arc x' d') ∧
    (∀ (x' : Side) (c' : Nat), (s.setStream k v).chain x' c' = s.chain x' c') ∧
    (∀ (g' : Nat), (s.setStream k v).group g' = s.group g') ∧
    (∀ (c' : Nat), (s.setStream k v).feedback c' = s.feedback c') ∧
    (∀ (c' : Nat) (k' : Nat), (s.setStream k v).comp c' k' = s.comp c' k') ∧
    (∀ (c' : Nat), (s.setStream k v).blank c' = s.blank c') ∧
    (∀ (r' : Nat) (b' : Nat), (s.setStream k v).history r' b' = s.history r' b') ∧
    (∀ (r' : Nat) (n' : Nat), (s.setStream k v).arbiter r' n' = s.arbiter r' n') ∧
    (∀ (n' : Nat), (s.setStream k v).sem n' = s.sem n') ∧
    (∀ (x' : Nat), (s.setStream k v).ptpPort x' = s.ptpPort x') ∧
    (∀ (p' : Nat), (s.setStream k v).pll p' = s.pll p') ∧
    (∀ (x' : Side) (n' : Nat), (s.setStream k v).segment x' n' = s.segment x' n') := by
  refine ⟨?_, ?_, ?_, ?_, ?_, ?_, ?_, ?_, ?_, ?_, ?_, ?_, ?_, ?_, ?_, ?_, ?_, ?_, ?_⟩ <;> intros <;> rfl

@[simp] theorem setStream_objects (k : Nat) (v : Stream) :
    (∀ (i' : Nat) (j' : Nat), (s.setStream k v).num i' j' = s.num i' j') ∧
    (∀ (i' : Nat) (j' : Nat), (s.setStream k v).blob i' j' = s.blob i' j') ∧
    (∀ (k' : Nat), (s.setStream k v).val k' = s.val k') ∧
    (∀ (i' : Nat) (j' : Nat) (hi' : Nat) (lo' : Nat), (s.setStream k v).fld i' j' hi' lo' = s.fld i' j' hi' lo') ∧
    (∀ (i' : Nat) (j' : Nat) (n' : Nat), (s.setStream k v).bit i' j' n' = s.bit i' j' n') ∧
    (s.setStream k v).stage = s.stage ∧
    (s.setStream k v).ready = s.ready ∧
    (s.setStream k v).gfState = s.gfState ∧
    (s.setStream k v).stopped = s.stopped ∧
    (s.setStream k v).driveState = s.driveState ∧
    (s.setStream k v).closeActive = s.closeActive ∧
    (s.setStream k v).armed = s.armed ∧
    (∀ (x' : Side), (s.setStream k v).sideState x' = s.sideState x') ∧
    (∀ (x' : Side), (s.setStream k v).inService x' = s.inService x') ∧
    (∀ (x' : Side), (s.setStream k v).powered x' = s.powered x') ∧
    (s.setStream k v).control = s.control ∧
    (s.setStream k v).reporter = s.reporter ∧
    (∀ (x' : Side), (s.setStream k v).reports x' = s.reports x') ∧
    (∀ (x' : Side), (s.setStream k v).feeds x' = s.feeds x') ∧
    (s.setStream k v).profile = s.profile ∧
    (s.setStream k v).demandLatched = s.demandLatched ∧
    (s.setStream k v).permit = s.permit ∧
    (s.setStream k v).commissioning = s.commissioning ∧
    (s.setStream k v).activeSlot = s.activeSlot := by
  refine ⟨?_, ?_, ?_, ?_, ?_, ?_, ?_, ?_, ?_, ?_, ?_, ?_, ?_, ?_, ?_, ?_, ?_, ?_, ?_, ?_, ?_, ?_, ?_, ?_⟩ <;> intros <;> rfl

@[simp] theorem modSet_records (f : OpenSet → OpenSet) :
    (∀ (r' : Nat), (s.modSet f).reader r' = s.reader r') ∧
    (∀ (x' : Side) (k' : Nat), (s.modSet f).engine x' k' = s.engine x' k') ∧
    (∀ (k' : Nat), (s.modSet f).stack k' = s.stack k') ∧
    (∀ (x' : Side), (s.modSet f).sideRt x' = s.sideRt x') ∧
    (∀ (x' : Side), (s.modSet f).graph x' = s.graph x') ∧
    (∀ (x' : Side), (s.modSet f).sill x' = s.sill x') ∧
    (∀ (n' : Nat), (s.modSet f).plateOf n' = s.plateOf n') ∧
    (∀ (x' : Side) (d' : Nat), (s.modSet f).arc x' d' = s.arc x' d') ∧
    (∀ (x' : Side) (c' : Nat), (s.modSet f).chain x' c' = s.chain x' c') ∧
    (∀ (g' : Nat), (s.modSet f).group g' = s.group g') ∧
    (∀ (c' : Nat), (s.modSet f).feedback c' = s.feedback c') ∧
    (∀ (c' : Nat) (k' : Nat), (s.modSet f).comp c' k' = s.comp c' k') ∧
    (∀ (c' : Nat), (s.modSet f).blank c' = s.blank c') ∧
    (∀ (r' : Nat) (b' : Nat), (s.modSet f).history r' b' = s.history r' b') ∧
    (∀ (r' : Nat) (n' : Nat), (s.modSet f).arbiter r' n' = s.arbiter r' n') ∧
    (∀ (n' : Nat), (s.modSet f).sem n' = s.sem n') ∧
    (∀ (x' : Nat), (s.modSet f).ptpPort x' = s.ptpPort x') ∧
    (∀ (p' : Nat), (s.modSet f).pll p' = s.pll p') ∧
    (∀ (x' : Side) (n' : Nat), (s.modSet f).segment x' n' = s.segment x' n') ∧
    (∀ (k' : Nat), (s.modSet f).stream k' = s.stream k') := by
  refine ⟨?_, ?_, ?_, ?_, ?_, ?_, ?_, ?_, ?_, ?_, ?_, ?_, ?_, ?_, ?_, ?_, ?_, ?_, ?_, ?_⟩ <;> intros <;> rfl

@[simp] theorem modSet_objects (f : OpenSet → OpenSet) :
    (∀ (i' : Nat) (j' : Nat), (s.modSet f).num i' j' = s.num i' j') ∧
    (∀ (i' : Nat) (j' : Nat), (s.modSet f).blob i' j' = s.blob i' j') ∧
    (∀ (k' : Nat), (s.modSet f).val k' = s.val k') ∧
    (∀ (i' : Nat) (j' : Nat) (hi' : Nat) (lo' : Nat), (s.modSet f).fld i' j' hi' lo' = s.fld i' j' hi' lo') ∧
    (∀ (i' : Nat) (j' : Nat) (n' : Nat), (s.modSet f).bit i' j' n' = s.bit i' j' n') ∧
    (s.modSet f).stage = s.stage ∧
    (s.modSet f).ready = s.ready ∧
    (s.modSet f).gfState = s.gfState ∧
    (s.modSet f).stopped = s.stopped ∧
    (s.modSet f).driveState = s.driveState ∧
    (s.modSet f).closeActive = s.closeActive ∧
    (s.modSet f).armed = s.armed ∧
    (∀ (x' : Side), (s.modSet f).sideState x' = s.sideState x') ∧
    (∀ (x' : Side), (s.modSet f).inService x' = s.inService x') ∧
    (∀ (x' : Side), (s.modSet f).powered x' = s.powered x') ∧
    (s.modSet f).control = s.control ∧
    (s.modSet f).reporter = s.reporter ∧
    (∀ (x' : Side), (s.modSet f).reports x' = s.reports x') ∧
    (∀ (x' : Side), (s.modSet f).feeds x' = s.feeds x') ∧
    (s.modSet f).profile = s.profile ∧
    (s.modSet f).demandLatched = s.demandLatched ∧
    (s.modSet f).permit = s.permit ∧
    (s.modSet f).commissioning = s.commissioning ∧
    (s.modSet f).activeSlot = s.activeSlot := by
  refine ⟨?_, ?_, ?_, ?_, ?_, ?_, ?_, ?_, ?_, ?_, ?_, ?_, ?_, ?_, ?_, ?_, ?_, ?_, ?_, ?_, ?_, ?_, ?_, ?_⟩ <;> intros <;> rfl

/-! ### A record after it is set -/

@[simp] theorem reader_same (r : Nat) (v : Reader) : (s.setReader r v).reader r = v := by simp [State.reader, State.setReader]
theorem reader_set (r : Nat) (v : Reader) (r' : Nat) : (s.setReader r v).reader r' = if r' = r then v else s.reader r' := by
  simp [State.reader, State.setReader, get_put]
@[simp] theorem engine_same (x : Side) (k : Nat) (v : Engine) : (s.setEngine x k v).engine x k = v := by simp [State.engine, State.setEngine]
@[simp] theorem stack_same (k : Nat) (v : Stack) : (s.setStack k v).stack k = v := by simp [State.stack, State.setStack]
theorem stack_set (k : Nat) (v : Stack) (k' : Nat) : (s.setStack k v).stack k' = if k' = k then v else s.stack k' := by
  simp [State.stack, State.setStack, get_put]
@[simp] theorem sideRt_same (x : Side) (v : SideRt) : (s.setSideRt x v).sideRt x = v := by cases x <;> rfl
@[simp] theorem sideRt_other (x : Side) (v : SideRt) : (s.setSideRt x v).sideRt (otherSide x) = s.sideRt (otherSide x) := by cases x <;> rfl
@[simp] theorem graph_same (x : Side) (v : Graph) : (s.setGraph x v).graph x = v := by cases x <;> rfl
@[simp] theorem graph_other (x : Side) (v : Graph) : (s.setGraph x v).graph (otherSide x) = s.graph (otherSide x) := by cases x <;> rfl
@[simp] theorem sill_same (x : Side) (v : Sill) : (s.setSill x v).sill x = v := by cases x <;> rfl
@[simp] theorem sill_other (x : Side) (v : Sill) : (s.setSill x v).sill (otherSide x) = s.sill (otherSide x) := by cases x <;> rfl
@[simp] theorem plateOf_same (n : Nat) (v : PlatePair) : (s.setPlate n v).plateOf n = v := by simp [State.plateOf, State.setPlate]
theorem plateOf_set (n : Nat) (v : PlatePair) (n' : Nat) : (s.setPlate n v).plateOf n' = if n' = n then v else s.plateOf n' := by
  simp [State.plateOf, State.setPlate, get_put]
@[simp] theorem arc_same (x : Side) (d : Nat) (v : Arc) : (s.setArc x d v).arc x d = v := by simp [State.arc, State.setArc]
@[simp] theorem chain_same (x : Side) (c : Nat) (v : Chain) : (s.setChain x c v).chain x c = v := by simp [State.chain, State.setChain]
@[simp] theorem group_same (g : Nat) (v : ClockGroup) : (s.setGroup g v).group g = v := by simp [State.group, State.setGroup]
theorem group_set (g : Nat) (v : ClockGroup) (g' : Nat) : (s.setGroup g v).group g' = if g' = g then v else s.group g' := by
  simp [State.group, State.setGroup, get_put]
@[simp] theorem feedback_same (c : Nat) (v : Feedback) : (s.setFeedback c v).feedback c = v := by simp [State.feedback, State.setFeedback]
theorem feedback_set (c : Nat) (v : Feedback) (c' : Nat) : (s.setFeedback c v).feedback c' = if c' = c then v else s.feedback c' := by
  simp [State.feedback, State.setFeedback, get_put]
@[simp] theorem comp_same (c : Nat) (k : Nat) (v : Comparator) : (s.setComp c k v).comp c k = v := by simp [State.comp, State.setComp]
@[simp] theorem arbiter_same (r : Nat) (n : Nat) (v : Arbiter) : (s.setArbiter r n v).arbiter r n = v := by simp [State.arbiter, State.setArbiter]
@[simp] theorem sem_same (n : Nat) (v : Sem) : (s.setSem n v).sem n = v := by simp [State.sem, State.setSem]
theorem sem_set (n : Nat) (v : Sem) (n' : Nat) : (s.setSem n v).sem n' = if n' = n then v else s.sem n' := by
  simp [State.sem, State.setSem, get_put]
@[simp] theorem ptpPort_same (x : Nat) (v : PtpPort) : (s.setPtpPort x v).ptpPort x = v := by simp [State.ptpPort, State.setPtpPort]
theorem ptpPort_set (x : Nat) (v : PtpPort) (x' : Nat) : (s.setPtpPort x v).ptpPort x' = if x' = x then v else s.ptpPort x' := by
  simp [State.ptpPort, State.setPtpPort, get_put]
@[simp] theorem pll_same (p : Nat) (v : Pll) : (s.setPll p v).pll p = v := by simp [State.pll, State.setPll]
theorem pll_set (p : Nat) (v : Pll) (p' : Nat) : (s.setPll p v).pll p' = if p' = p then v else s.pll p' := by
  simp [State.pll, State.setPll, get_put]
@[simp] theorem segment_same (x : Side) (n : Nat) (v : Segment) (h : v ≠ Segment.init) : (s.setSegment x n v).segment x n = some v := by simp [State.segment, State.setSegment, find_put_same, h]
@[simp] theorem stream_same (k : Nat) (v : Stream) : (s.setStream k v).stream k = v := by simp [State.stream, State.setStream]
theorem stream_set (k : Nat) (v : Stream) (k' : Nat) : (s.setStream k v).stream k' = if k' = k then v else s.stream k' := by
  simp [State.stream, State.setStream, get_put]

/-! ### Status words after another object is written -/

theorem stageWords_of {s s' : State} (h : s'.num 0xB000 0x01 = s.num 0xB000 0x01) :
    s'.stage = s.stage ∧
    s'.ready = s.ready := by
  have f := fun a b => fld_of_num h a b
  have g : ∀ n, s'.bit 0xB000 0x01 n = s.bit 0xB000 0x01 n := fun n => by simp only [State.bit, h]
  refine ⟨?_, ?_⟩ <;> intros <;> simp [State.stage, State.ready, f]

@[simp] theorem setNum_stageWords (i : Nat) (j : Nat) (v : Nat) (h : i * 256 + j ≠ 0xB00001) :
    (s.setNum i j v).stage = s.stage ∧
    (s.setNum i j v).ready = s.ready :=
  stageWords_of (by simp [Ne.symm h])
@[simp] theorem setBlob_stageWords (i : Nat) (j : Nat) (b : List Nat) (h : i * 256 + j ≠ 0xB00001) :
    (s.setBlob i j b).stage = s.stage ∧
    (s.setBlob i j b).ready = s.ready :=
  stageWords_of (by simp [Ne.symm h])
@[simp] theorem setFld_stageWords (i : Nat) (j : Nat) (hi : Nat) (lo : Nat) (v : Nat) (h : i * 256 + j ≠ 0xB00001) :
    (s.setFld i j hi lo v).stage = s.stage ∧
    (s.setFld i j hi lo v).ready = s.ready :=
  stageWords_of (by simp [Ne.symm h])
@[simp] theorem setBitO_stageWords (i : Nat) (j : Nat) (n : Nat) (b : Bool) (h : i * 256 + j ≠ 0xB00001) :
    (s.setBitO i j n b).stage = s.stage ∧
    (s.setBitO i j n b).ready = s.ready :=
  stageWords_of (by simp [Ne.symm h])
@[simp] theorem incSat_stageWords (i : Nat) (j : Nat) (h : i * 256 + j ≠ 0xB00001) :
    (s.incSat i j).stage = s.stage ∧
    (s.incSat i j).ready = s.ready :=
  stageWords_of (by simp [Ne.symm h])
@[simp] theorem incWrap_stageWords (i : Nat) (j : Nat) (h : i * 256 + j ≠ 0xB00001) :
    (s.incWrap i j).stage = s.stage ∧
    (s.incWrap i j).ready = s.ready :=
  stageWords_of (by simp [State.incWrap, Ne.symm h])
@[simp] theorem setSideState_stageWords (x : Side) (v : Nat) :
    (s.setSideState x v).stage = s.stage ∧
    (s.setSideState x v).ready = s.ready := by
  cases x <;> exact stageWords_of (by simp [State.setSideState])
@[simp] theorem raise_stageWords (e : Nat) (p0 : Nat) (p1 : Nat) (p2 : Nat) :
    (s.raise e p0 p1 p2).stage = s.stage ∧
    (s.raise e p0 p1 p2).ready = s.ready :=
  stageWords_of (by simp [evKey])
@[simp] theorem fwNote_stageWords (e : Nat) (p0 : Nat) (p1 : Nat) (p2 : Nat) :
    (s.fwNote e p0 p1 p2).stage = s.stage ∧
    (s.fwNote e p0 p1 p2).ready = s.ready :=
  stageWords_of (by simp [evKey])
@[simp] theorem countEvent_stageWords (b : Nat) (e : Nat) (n : Nat) (k : Nat) :
    (countEvent b e n k s).stage = s.stage ∧
    (countEvent b e n k s).ready = s.ready :=
  stageWords_of (by simp [evKey])
@[simp] theorem ended_stageWords (q : List Instr) :
    (s.ended q).stage = s.stage ∧
    (s.ended q).ready = s.ready :=
  stageWords_of (by simp [evKey])
theorem gfWords_of {s s' : State} (h : s'.num 0x4001 0x03 = s.num 0x4001 0x03) :
    s'.gfState = s.gfState ∧
    s'.stopped = s.stopped ∧
    s'.driveState = s.driveState ∧
    s'.closeActive = s.closeActive ∧
    s'.armed = s.armed := by
  have f := fun a b => fld_of_num h a b
  have g : ∀ n, s'.bit 0x4001 0x03 n = s.bit 0x4001 0x03 n := fun n => by simp only [State.bit, h]
  refine ⟨?_, ?_, ?_, ?_, ?_⟩ <;> intros <;> (simp only [State.gfState, State.stopped, State.driveState, State.closeActive, State.armed, f, g]) <;> rfl

@[simp] theorem setNum_gfWords (i : Nat) (j : Nat) (v : Nat) (h : i * 256 + j ≠ 0x400103) :
    (s.setNum i j v).gfState = s.gfState ∧
    (s.setNum i j v).stopped = s.stopped ∧
    (s.setNum i j v).driveState = s.driveState ∧
    (s.setNum i j v).closeActive = s.closeActive ∧
    (s.setNum i j v).armed = s.armed :=
  gfWords_of (by simp [Ne.symm h])
@[simp] theorem setBlob_gfWords (i : Nat) (j : Nat) (b : List Nat) (h : i * 256 + j ≠ 0x400103) :
    (s.setBlob i j b).gfState = s.gfState ∧
    (s.setBlob i j b).stopped = s.stopped ∧
    (s.setBlob i j b).driveState = s.driveState ∧
    (s.setBlob i j b).closeActive = s.closeActive ∧
    (s.setBlob i j b).armed = s.armed :=
  gfWords_of (by simp [Ne.symm h])
@[simp] theorem setFld_gfWords (i : Nat) (j : Nat) (hi : Nat) (lo : Nat) (v : Nat) (h : i * 256 + j ≠ 0x400103) :
    (s.setFld i j hi lo v).gfState = s.gfState ∧
    (s.setFld i j hi lo v).stopped = s.stopped ∧
    (s.setFld i j hi lo v).driveState = s.driveState ∧
    (s.setFld i j hi lo v).closeActive = s.closeActive ∧
    (s.setFld i j hi lo v).armed = s.armed :=
  gfWords_of (by simp [Ne.symm h])
@[simp] theorem setBitO_gfWords (i : Nat) (j : Nat) (n : Nat) (b : Bool) (h : i * 256 + j ≠ 0x400103) :
    (s.setBitO i j n b).gfState = s.gfState ∧
    (s.setBitO i j n b).stopped = s.stopped ∧
    (s.setBitO i j n b).driveState = s.driveState ∧
    (s.setBitO i j n b).closeActive = s.closeActive ∧
    (s.setBitO i j n b).armed = s.armed :=
  gfWords_of (by simp [Ne.symm h])
@[simp] theorem incSat_gfWords (i : Nat) (j : Nat) (h : i * 256 + j ≠ 0x400103) :
    (s.incSat i j).gfState = s.gfState ∧
    (s.incSat i j).stopped = s.stopped ∧
    (s.incSat i j).driveState = s.driveState ∧
    (s.incSat i j).closeActive = s.closeActive ∧
    (s.incSat i j).armed = s.armed :=
  gfWords_of (by simp [Ne.symm h])
@[simp] theorem incWrap_gfWords (i : Nat) (j : Nat) (h : i * 256 + j ≠ 0x400103) :
    (s.incWrap i j).gfState = s.gfState ∧
    (s.incWrap i j).stopped = s.stopped ∧
    (s.incWrap i j).driveState = s.driveState ∧
    (s.incWrap i j).closeActive = s.closeActive ∧
    (s.incWrap i j).armed = s.armed :=
  gfWords_of (by simp [State.incWrap, Ne.symm h])
@[simp] theorem setSideState_gfWords (x : Side) (v : Nat) :
    (s.setSideState x v).gfState = s.gfState ∧
    (s.setSideState x v).stopped = s.stopped ∧
    (s.setSideState x v).driveState = s.driveState ∧
    (s.setSideState x v).closeActive = s.closeActive ∧
    (s.setSideState x v).armed = s.armed := by
  cases x <;> exact gfWords_of (by simp [State.setSideState])
@[simp] theorem raise_gfWords (e : Nat) (p0 : Nat) (p1 : Nat) (p2 : Nat) :
    (s.raise e p0 p1 p2).gfState = s.gfState ∧
    (s.raise e p0 p1 p2).stopped = s.stopped ∧
    (s.raise e p0 p1 p2).driveState = s.driveState ∧
    (s.raise e p0 p1 p2).closeActive = s.closeActive ∧
    (s.raise e p0 p1 p2).armed = s.armed :=
  gfWords_of (by simp [evKey])
@[simp] theorem fwNote_gfWords (e : Nat) (p0 : Nat) (p1 : Nat) (p2 : Nat) :
    (s.fwNote e p0 p1 p2).gfState = s.gfState ∧
    (s.fwNote e p0 p1 p2).stopped = s.stopped ∧
    (s.fwNote e p0 p1 p2).driveState = s.driveState ∧
    (s.fwNote e p0 p1 p2).closeActive = s.closeActive ∧
    (s.fwNote e p0 p1 p2).armed = s.armed :=
  gfWords_of (by simp [evKey])
@[simp] theorem countEvent_gfWords (b : Nat) (e : Nat) (n : Nat) (k : Nat) :
    (countEvent b e n k s).gfState = s.gfState ∧
    (countEvent b e n k s).stopped = s.stopped ∧
    (countEvent b e n k s).driveState = s.driveState ∧
    (countEvent b e n k s).closeActive = s.closeActive ∧
    (countEvent b e n k s).armed = s.armed :=
  gfWords_of (by simp [evKey])
@[simp] theorem ended_gfWords (q : List Instr) :
    (s.ended q).gfState = s.gfState ∧
    (s.ended q).stopped = s.stopped ∧
    (s.ended q).driveState = s.driveState ∧
    (s.ended q).closeActive = s.closeActive ∧
    (s.ended q).armed = s.armed :=
  gfWords_of (by simp [evKey])
theorem sideWords_of {s s' : State} (h : s'.num 0x6021 0x01 = s.num 0x6021 0x01) :
    (∀ (x : Side), s'.sideState x = s.sideState x) ∧
    (∀ (x : Side), s'.inService x = s.inService x) ∧
    (∀ (x : Side), s'.powered x = s.powered x) ∧
    s'.control = s.control ∧
    s'.reporter = s.reporter ∧
    (∀ (x : Side), s'.reports x = s.reports x) ∧
    (∀ (x : Side), s'.feeds x = s.feeds x) := by
  have f := fun a b => fld_of_num h a b
  have g : ∀ n, s'.bit 0x6021 0x01 n = s.bit 0x6021 0x01 n := fun n => by simp only [State.bit, h]
  refine ⟨?_, ?_, ?_, ?_, ?_, ?_, ?_⟩ <;> intros <;> first | (rename_i x; cases x <;> simp [State.sideState, State.inService, State.powered, State.control, State.reporter, State.reports, State.feeds, f]) | simp [State.sideState, State.control, State.reporter, f]

@[simp] theorem setNum_sideWords (i : Nat) (j : Nat) (v : Nat) (h : i * 256 + j ≠ 0x602101) :
    (∀ (x' : Side), (s.setNum i j v).sideState x' = s.sideState x') ∧
    (∀ (x' : Side), (s.setNum i j v).inService x' = s.inService x') ∧
    (∀ (x' : Side), (s.setNum i j v).powered x' = s.powered x') ∧
    (s.setNum i j v).control = s.control ∧
    (s.setNum i j v).reporter = s.reporter ∧
    (∀ (x' : Side), (s.setNum i j v).reports x' = s.reports x') ∧
    (∀ (x' : Side), (s.setNum i j v).feeds x' = s.feeds x') :=
  sideWords_of (by simp [Ne.symm h])
@[simp] theorem setBlob_sideWords (i : Nat) (j : Nat) (b : List Nat) (h : i * 256 + j ≠ 0x602101) :
    (∀ (x' : Side), (s.setBlob i j b).sideState x' = s.sideState x') ∧
    (∀ (x' : Side), (s.setBlob i j b).inService x' = s.inService x') ∧
    (∀ (x' : Side), (s.setBlob i j b).powered x' = s.powered x') ∧
    (s.setBlob i j b).control = s.control ∧
    (s.setBlob i j b).reporter = s.reporter ∧
    (∀ (x' : Side), (s.setBlob i j b).reports x' = s.reports x') ∧
    (∀ (x' : Side), (s.setBlob i j b).feeds x' = s.feeds x') :=
  sideWords_of (by simp [Ne.symm h])
@[simp] theorem setFld_sideWords (i : Nat) (j : Nat) (hi : Nat) (lo : Nat) (v : Nat) (h : i * 256 + j ≠ 0x602101) :
    (∀ (x' : Side), (s.setFld i j hi lo v).sideState x' = s.sideState x') ∧
    (∀ (x' : Side), (s.setFld i j hi lo v).inService x' = s.inService x') ∧
    (∀ (x' : Side), (s.setFld i j hi lo v).powered x' = s.powered x') ∧
    (s.setFld i j hi lo v).control = s.control ∧
    (s.setFld i j hi lo v).reporter = s.reporter ∧
    (∀ (x' : Side), (s.setFld i j hi lo v).reports x' = s.reports x') ∧
    (∀ (x' : Side), (s.setFld i j hi lo v).feeds x' = s.feeds x') :=
  sideWords_of (by simp [Ne.symm h])
@[simp] theorem setBitO_sideWords (i : Nat) (j : Nat) (n : Nat) (b : Bool) (h : i * 256 + j ≠ 0x602101) :
    (∀ (x' : Side), (s.setBitO i j n b).sideState x' = s.sideState x') ∧
    (∀ (x' : Side), (s.setBitO i j n b).inService x' = s.inService x') ∧
    (∀ (x' : Side), (s.setBitO i j n b).powered x' = s.powered x') ∧
    (s.setBitO i j n b).control = s.control ∧
    (s.setBitO i j n b).reporter = s.reporter ∧
    (∀ (x' : Side), (s.setBitO i j n b).reports x' = s.reports x') ∧
    (∀ (x' : Side), (s.setBitO i j n b).feeds x' = s.feeds x') :=
  sideWords_of (by simp [Ne.symm h])
@[simp] theorem incSat_sideWords (i : Nat) (j : Nat) (h : i * 256 + j ≠ 0x602101) :
    (∀ (x' : Side), (s.incSat i j).sideState x' = s.sideState x') ∧
    (∀ (x' : Side), (s.incSat i j).inService x' = s.inService x') ∧
    (∀ (x' : Side), (s.incSat i j).powered x' = s.powered x') ∧
    (s.incSat i j).control = s.control ∧
    (s.incSat i j).reporter = s.reporter ∧
    (∀ (x' : Side), (s.incSat i j).reports x' = s.reports x') ∧
    (∀ (x' : Side), (s.incSat i j).feeds x' = s.feeds x') :=
  sideWords_of (by simp [Ne.symm h])
@[simp] theorem incWrap_sideWords (i : Nat) (j : Nat) (h : i * 256 + j ≠ 0x602101) :
    (∀ (x' : Side), (s.incWrap i j).sideState x' = s.sideState x') ∧
    (∀ (x' : Side), (s.incWrap i j).inService x' = s.inService x') ∧
    (∀ (x' : Side), (s.incWrap i j).powered x' = s.powered x') ∧
    (s.incWrap i j).control = s.control ∧
    (s.incWrap i j).reporter = s.reporter ∧
    (∀ (x' : Side), (s.incWrap i j).reports x' = s.reports x') ∧
    (∀ (x' : Side), (s.incWrap i j).feeds x' = s.feeds x') :=
  sideWords_of (by simp [State.incWrap, Ne.symm h])
@[simp] theorem raise_sideWords (e : Nat) (p0 : Nat) (p1 : Nat) (p2 : Nat) :
    (∀ (x' : Side), (s.raise e p0 p1 p2).sideState x' = s.sideState x') ∧
    (∀ (x' : Side), (s.raise e p0 p1 p2).inService x' = s.inService x') ∧
    (∀ (x' : Side), (s.raise e p0 p1 p2).powered x' = s.powered x') ∧
    (s.raise e p0 p1 p2).control = s.control ∧
    (s.raise e p0 p1 p2).reporter = s.reporter ∧
    (∀ (x' : Side), (s.raise e p0 p1 p2).reports x' = s.reports x') ∧
    (∀ (x' : Side), (s.raise e p0 p1 p2).feeds x' = s.feeds x') :=
  sideWords_of (by simp [evKey])
@[simp] theorem fwNote_sideWords (e : Nat) (p0 : Nat) (p1 : Nat) (p2 : Nat) :
    (∀ (x' : Side), (s.fwNote e p0 p1 p2).sideState x' = s.sideState x') ∧
    (∀ (x' : Side), (s.fwNote e p0 p1 p2).inService x' = s.inService x') ∧
    (∀ (x' : Side), (s.fwNote e p0 p1 p2).powered x' = s.powered x') ∧
    (s.fwNote e p0 p1 p2).control = s.control ∧
    (s.fwNote e p0 p1 p2).reporter = s.reporter ∧
    (∀ (x' : Side), (s.fwNote e p0 p1 p2).reports x' = s.reports x') ∧
    (∀ (x' : Side), (s.fwNote e p0 p1 p2).feeds x' = s.feeds x') :=
  sideWords_of (by simp [evKey])
@[simp] theorem countEvent_sideWords (b : Nat) (e : Nat) (n : Nat) (k : Nat) :
    (∀ (x' : Side), (countEvent b e n k s).sideState x' = s.sideState x') ∧
    (∀ (x' : Side), (countEvent b e n k s).inService x' = s.inService x') ∧
    (∀ (x' : Side), (countEvent b e n k s).powered x' = s.powered x') ∧
    (countEvent b e n k s).control = s.control ∧
    (countEvent b e n k s).reporter = s.reporter ∧
    (∀ (x' : Side), (countEvent b e n k s).reports x' = s.reports x') ∧
    (∀ (x' : Side), (countEvent b e n k s).feeds x' = s.feeds x') :=
  sideWords_of (by simp [evKey])
@[simp] theorem ended_sideWords (q : List Instr) :
    (∀ (x' : Side), (s.ended q).sideState x' = s.sideState x') ∧
    (∀ (x' : Side), (s.ended q).inService x' = s.inService x') ∧
    (∀ (x' : Side), (s.ended q).powered x' = s.powered x') ∧
    (s.ended q).control = s.control ∧
    (s.ended q).reporter = s.reporter ∧
    (∀ (x' : Side), (s.ended q).reports x' = s.reports x') ∧
    (∀ (x' : Side), (s.ended q).feeds x' = s.feeds x') :=
  sideWords_of (by simp [evKey])
theorem profileWords_of {s s' : State} (h : s'.num 0x6000 0x02 = s.num 0x6000 0x02) : s'.profile = s.profile := by
  unfold State.profile State.fld
  simp only [h]

@[simp] theorem setNum_profileWords (i : Nat) (j : Nat) (v : Nat) (h : i * 256 + j ≠ 0x600002) :
    (s.setNum i j v).profile = s.profile :=
  profileWords_of (by simp [Ne.symm h])
@[simp] theorem setBlob_profileWords (i : Nat) (j : Nat) (b : List Nat) (h : i * 256 + j ≠ 0x600002) :
    (s.setBlob i j b).profile = s.profile :=
  profileWords_of (by simp [Ne.symm h])
@[simp] theorem setFld_profileWords (i : Nat) (j : Nat) (hi : Nat) (lo : Nat) (v : Nat) (h : i * 256 + j ≠ 0x600002) :
    (s.setFld i j hi lo v).profile = s.profile :=
  profileWords_of (by simp [Ne.symm h])
@[simp] theorem setBitO_profileWords (i : Nat) (j : Nat) (n : Nat) (b : Bool) (h : i * 256 + j ≠ 0x600002) :
    (s.setBitO i j n b).profile = s.profile :=
  profileWords_of (by simp [Ne.symm h])
@[simp] theorem incSat_profileWords (i : Nat) (j : Nat) (h : i * 256 + j ≠ 0x600002) :
    (s.incSat i j).profile = s.profile :=
  profileWords_of (by simp [Ne.symm h])
@[simp] theorem incWrap_profileWords (i : Nat) (j : Nat) (h : i * 256 + j ≠ 0x600002) :
    (s.incWrap i j).profile = s.profile :=
  profileWords_of (by simp [State.incWrap, Ne.symm h])
@[simp] theorem setSideState_profileWords (x : Side) (v : Nat) :
    (s.setSideState x v).profile = s.profile := by
  cases x <;> exact profileWords_of (by simp [State.setSideState])
@[simp] theorem raise_profileWords (e : Nat) (p0 : Nat) (p1 : Nat) (p2 : Nat) :
    (s.raise e p0 p1 p2).profile = s.profile :=
  profileWords_of (by simp [evKey])
@[simp] theorem fwNote_profileWords (e : Nat) (p0 : Nat) (p1 : Nat) (p2 : Nat) :
    (s.fwNote e p0 p1 p2).profile = s.profile :=
  profileWords_of (by simp [evKey])
@[simp] theorem countEvent_profileWords (b : Nat) (e : Nat) (n : Nat) (k : Nat) :
    (countEvent b e n k s).profile = s.profile :=
  profileWords_of (by simp [evKey])
@[simp] theorem ended_profileWords (q : List Instr) :
    (s.ended q).profile = s.profile :=
  profileWords_of (by simp [evKey])
theorem safetyWords_of {s s' : State} (h : s'.num 0x6800 0x02 = s.num 0x6800 0x02) :
    s'.demandLatched = s.demandLatched ∧
    s'.permit = s.permit := by
  have f := fun a b => fld_of_num h a b
  have g : ∀ n, s'.bit 0x6800 0x02 n = s.bit 0x6800 0x02 n := fun n => by simp only [State.bit, h]
  refine ⟨?_, ?_⟩ <;> intros <;> simp [State.demandLatched, State.permit, g]

@[simp] theorem setNum_safetyWords (i : Nat) (j : Nat) (v : Nat) (h : i * 256 + j ≠ 0x680002) :
    (s.setNum i j v).demandLatched = s.demandLatched ∧
    (s.setNum i j v).permit = s.permit :=
  safetyWords_of (by simp [Ne.symm h])
@[simp] theorem setBlob_safetyWords (i : Nat) (j : Nat) (b : List Nat) (h : i * 256 + j ≠ 0x680002) :
    (s.setBlob i j b).demandLatched = s.demandLatched ∧
    (s.setBlob i j b).permit = s.permit :=
  safetyWords_of (by simp [Ne.symm h])
@[simp] theorem setFld_safetyWords (i : Nat) (j : Nat) (hi : Nat) (lo : Nat) (v : Nat) (h : i * 256 + j ≠ 0x680002) :
    (s.setFld i j hi lo v).demandLatched = s.demandLatched ∧
    (s.setFld i j hi lo v).permit = s.permit :=
  safetyWords_of (by simp [Ne.symm h])
@[simp] theorem setBitO_safetyWords (i : Nat) (j : Nat) (n : Nat) (b : Bool) (h : i * 256 + j ≠ 0x680002) :
    (s.setBitO i j n b).demandLatched = s.demandLatched ∧
    (s.setBitO i j n b).permit = s.permit :=
  safetyWords_of (by simp [Ne.symm h])
@[simp] theorem incSat_safetyWords (i : Nat) (j : Nat) (h : i * 256 + j ≠ 0x680002) :
    (s.incSat i j).demandLatched = s.demandLatched ∧
    (s.incSat i j).permit = s.permit :=
  safetyWords_of (by simp [Ne.symm h])
@[simp] theorem incWrap_safetyWords (i : Nat) (j : Nat) (h : i * 256 + j ≠ 0x680002) :
    (s.incWrap i j).demandLatched = s.demandLatched ∧
    (s.incWrap i j).permit = s.permit :=
  safetyWords_of (by simp [State.incWrap, Ne.symm h])
@[simp] theorem setSideState_safetyWords (x : Side) (v : Nat) :
    (s.setSideState x v).demandLatched = s.demandLatched ∧
    (s.setSideState x v).permit = s.permit := by
  cases x <;> exact safetyWords_of (by simp [State.setSideState])
@[simp] theorem raise_safetyWords (e : Nat) (p0 : Nat) (p1 : Nat) (p2 : Nat) :
    (s.raise e p0 p1 p2).demandLatched = s.demandLatched ∧
    (s.raise e p0 p1 p2).permit = s.permit :=
  safetyWords_of (by simp [evKey])
@[simp] theorem fwNote_safetyWords (e : Nat) (p0 : Nat) (p1 : Nat) (p2 : Nat) :
    (s.fwNote e p0 p1 p2).demandLatched = s.demandLatched ∧
    (s.fwNote e p0 p1 p2).permit = s.permit :=
  safetyWords_of (by simp [evKey])
@[simp] theorem countEvent_safetyWords (b : Nat) (e : Nat) (n : Nat) (k : Nat) :
    (countEvent b e n k s).demandLatched = s.demandLatched ∧
    (countEvent b e n k s).permit = s.permit :=
  safetyWords_of (by simp [evKey])
@[simp] theorem ended_safetyWords (q : List Instr) :
    (s.ended q).demandLatched = s.demandLatched ∧
    (s.ended q).permit = s.permit :=
  safetyWords_of (by simp [evKey])
theorem plateWords_of {s s' : State} (h : s'.num 0x5300 0x04 = s.num 0x5300 0x04) : s'.commissioning = s.commissioning := by
  unfold State.commissioning State.bit
  simp only [h]

@[simp] theorem setNum_plateWords (i : Nat) (j : Nat) (v : Nat) (h : i * 256 + j ≠ 0x530004) :
    (s.setNum i j v).commissioning = s.commissioning :=
  plateWords_of (by simp [Ne.symm h])
@[simp] theorem setBlob_plateWords (i : Nat) (j : Nat) (b : List Nat) (h : i * 256 + j ≠ 0x530004) :
    (s.setBlob i j b).commissioning = s.commissioning :=
  plateWords_of (by simp [Ne.symm h])
@[simp] theorem setFld_plateWords (i : Nat) (j : Nat) (hi : Nat) (lo : Nat) (v : Nat) (h : i * 256 + j ≠ 0x530004) :
    (s.setFld i j hi lo v).commissioning = s.commissioning :=
  plateWords_of (by simp [Ne.symm h])
@[simp] theorem setBitO_plateWords (i : Nat) (j : Nat) (n : Nat) (b : Bool) (h : i * 256 + j ≠ 0x530004) :
    (s.setBitO i j n b).commissioning = s.commissioning :=
  plateWords_of (by simp [Ne.symm h])
@[simp] theorem incSat_plateWords (i : Nat) (j : Nat) (h : i * 256 + j ≠ 0x530004) :
    (s.incSat i j).commissioning = s.commissioning :=
  plateWords_of (by simp [Ne.symm h])
@[simp] theorem incWrap_plateWords (i : Nat) (j : Nat) (h : i * 256 + j ≠ 0x530004) :
    (s.incWrap i j).commissioning = s.commissioning :=
  plateWords_of (by simp [State.incWrap, Ne.symm h])
@[simp] theorem setSideState_plateWords (x : Side) (v : Nat) :
    (s.setSideState x v).commissioning = s.commissioning := by
  cases x <;> exact plateWords_of (by simp [State.setSideState])
@[simp] theorem raise_plateWords (e : Nat) (p0 : Nat) (p1 : Nat) (p2 : Nat) :
    (s.raise e p0 p1 p2).commissioning = s.commissioning :=
  plateWords_of (by simp [evKey])
@[simp] theorem fwNote_plateWords (e : Nat) (p0 : Nat) (p1 : Nat) (p2 : Nat) :
    (s.fwNote e p0 p1 p2).commissioning = s.commissioning :=
  plateWords_of (by simp [evKey])
@[simp] theorem countEvent_plateWords (b : Nat) (e : Nat) (n : Nat) (k : Nat) :
    (countEvent b e n k s).commissioning = s.commissioning :=
  plateWords_of (by simp [evKey])
@[simp] theorem ended_plateWords (q : List Instr) :
    (s.ended q).commissioning = s.commissioning :=
  plateWords_of (by simp [evKey])
theorem graphWords_of {s s' : State} (h : s'.num 0x3000 0x02 = s.num 0x3000 0x02) : s'.activeSlot = s.activeSlot := by
  unfold State.activeSlot State.bit State.fld
  simp only [h]

@[simp] theorem setNum_graphWords (i : Nat) (j : Nat) (v : Nat) (h : i * 256 + j ≠ 0x300002) :
    (s.setNum i j v).activeSlot = s.activeSlot :=
  graphWords_of (by simp [Ne.symm h])
@[simp] theorem setBlob_graphWords (i : Nat) (j : Nat) (b : List Nat) (h : i * 256 + j ≠ 0x300002) :
    (s.setBlob i j b).activeSlot = s.activeSlot :=
  graphWords_of (by simp [Ne.symm h])
@[simp] theorem setFld_graphWords (i : Nat) (j : Nat) (hi : Nat) (lo : Nat) (v : Nat) (h : i * 256 + j ≠ 0x300002) :
    (s.setFld i j hi lo v).activeSlot = s.activeSlot :=
  graphWords_of (by simp [Ne.symm h])
@[simp] theorem setBitO_graphWords (i : Nat) (j : Nat) (n : Nat) (b : Bool) (h : i * 256 + j ≠ 0x300002) :
    (s.setBitO i j n b).activeSlot = s.activeSlot :=
  graphWords_of (by simp [Ne.symm h])
@[simp] theorem incSat_graphWords (i : Nat) (j : Nat) (h : i * 256 + j ≠ 0x300002) :
    (s.incSat i j).activeSlot = s.activeSlot :=
  graphWords_of (by simp [Ne.symm h])
@[simp] theorem incWrap_graphWords (i : Nat) (j : Nat) (h : i * 256 + j ≠ 0x300002) :
    (s.incWrap i j).activeSlot = s.activeSlot :=
  graphWords_of (by simp [State.incWrap, Ne.symm h])
@[simp] theorem setSideState_graphWords (x : Side) (v : Nat) :
    (s.setSideState x v).activeSlot = s.activeSlot := by
  cases x <;> exact graphWords_of (by simp [State.setSideState])
@[simp] theorem raise_graphWords (e : Nat) (p0 : Nat) (p1 : Nat) (p2 : Nat) :
    (s.raise e p0 p1 p2).activeSlot = s.activeSlot :=
  graphWords_of (by simp [evKey])
@[simp] theorem fwNote_graphWords (e : Nat) (p0 : Nat) (p1 : Nat) (p2 : Nat) :
    (s.fwNote e p0 p1 p2).activeSlot = s.activeSlot :=
  graphWords_of (by simp [evKey])
@[simp] theorem countEvent_graphWords (b : Nat) (e : Nat) (n : Nat) (k : Nat) :
    (countEvent b e n k s).activeSlot = s.activeSlot :=
  graphWords_of (by simp [evKey])
@[simp] theorem ended_graphWords (q : List Instr) :
    (s.ended q).activeSlot = s.activeSlot :=
  graphWords_of (by simp [evKey])

/-! ### Records after an event, and at the end of a command -/

@[simp] theorem raise_records (e : Nat) (p0 : Nat) (p1 : Nat) (p2 : Nat) :
    (∀ (k' : Nat), (s.raise e p0 p1 p2).stack k' = s.stack k') ∧
    (∀ (x' : Side), (s.raise e p0 p1 p2).sideRt x' = s.sideRt x') ∧
    (∀ (x' : Side), (s.raise e p0 p1 p2).graph x' = s.graph x') ∧
    (∀ (x' : Side), (s.raise e p0 p1 p2).sill x' = s.sill x') ∧
    (∀ (n' : Nat), (s.raise e p0 p1 p2).plateOf n' = s.plateOf n') ∧
    (∀ (x' : Side) (d' : Nat), (s.raise e p0 p1 p2).arc x' d' = s.arc x' d') ∧
    (∀ (x' : Side) (c' : Nat), (s.raise e p0 p1 p2).chain x' c' = s.chain x' c') ∧
    (∀ (g' : Nat), (s.raise e p0 p1 p2).group g' = s.group g') ∧
    (∀ (c' : Nat), (s.raise e p0 p1 p2).feedback c' = s.feedback c') ∧
    (∀ (c' : Nat) (k' : Nat), (s.raise e p0 p1 p2).comp c' k' = s.comp c' k') ∧
    (∀ (c' : Nat), (s.raise e p0 p1 p2).blank c' = s.blank c') ∧
    (∀ (r' : Nat) (b' : Nat), (s.raise e p0 p1 p2).history r' b' = s.history r' b') ∧
    (∀ (r' : Nat) (n' : Nat), (s.raise e p0 p1 p2).arbiter r' n' = s.arbiter r' n') ∧
    (∀ (n' : Nat), (s.raise e p0 p1 p2).sem n' = s.sem n') ∧
    (∀ (x' : Nat), (s.raise e p0 p1 p2).ptpPort x' = s.ptpPort x') ∧
    (∀ (p' : Nat), (s.raise e p0 p1 p2).pll p' = s.pll p') ∧
    (∀ (x' : Side) (n' : Nat), (s.raise e p0 p1 p2).segment x' n' = s.segment x' n') ∧
    (∀ (k' : Nat), (s.raise e p0 p1 p2).stream k' = s.stream k') := by
  refine ⟨?_, ?_, ?_, ?_, ?_, ?_, ?_, ?_, ?_, ?_, ?_, ?_, ?_, ?_, ?_, ?_, ?_, ?_⟩ <;> intros <;> simp [State.stack, State.sideRt, State.graph, State.sill, State.plateOf, State.arc, State.chain, State.group, State.feedback, State.comp, State.blank, State.history, State.arbiter, State.sem, State.ptpPort, State.pll, State.segment, State.stream]

@[simp] theorem fwNote_records (e : Nat) (p0 : Nat) (p1 : Nat) (p2 : Nat) :
    (∀ (k' : Nat), (s.fwNote e p0 p1 p2).stack k' = s.stack k') ∧
    (∀ (x' : Side), (s.fwNote e p0 p1 p2).sideRt x' = s.sideRt x') ∧
    (∀ (x' : Side), (s.fwNote e p0 p1 p2).graph x' = s.graph x') ∧
    (∀ (x' : Side), (s.fwNote e p0 p1 p2).sill x' = s.sill x') ∧
    (∀ (n' : Nat), (s.fwNote e p0 p1 p2).plateOf n' = s.plateOf n') ∧
    (∀ (x' : Side) (d' : Nat), (s.fwNote e p0 p1 p2).arc x' d' = s.arc x' d') ∧
    (∀ (x' : Side) (c' : Nat), (s.fwNote e p0 p1 p2).chain x' c' = s.chain x' c') ∧
    (∀ (g' : Nat), (s.fwNote e p0 p1 p2).group g' = s.group g') ∧
    (∀ (c' : Nat), (s.fwNote e p0 p1 p2).feedback c' = s.feedback c') ∧
    (∀ (c' : Nat) (k' : Nat), (s.fwNote e p0 p1 p2).comp c' k' = s.comp c' k') ∧
    (∀ (c' : Nat), (s.fwNote e p0 p1 p2).blank c' = s.blank c') ∧
    (∀ (r' : Nat) (b' : Nat), (s.fwNote e p0 p1 p2).history r' b' = s.history r' b') ∧
    (∀ (r' : Nat) (n' : Nat), (s.fwNote e p0 p1 p2).arbiter r' n' = s.arbiter r' n') ∧
    (∀ (n' : Nat), (s.fwNote e p0 p1 p2).sem n' = s.sem n') ∧
    (∀ (x' : Nat), (s.fwNote e p0 p1 p2).ptpPort x' = s.ptpPort x') ∧
    (∀ (p' : Nat), (s.fwNote e p0 p1 p2).pll p' = s.pll p') ∧
    (∀ (x' : Side) (n' : Nat), (s.fwNote e p0 p1 p2).segment x' n' = s.segment x' n') ∧
    (∀ (k' : Nat), (s.fwNote e p0 p1 p2).stream k' = s.stream k') := by
  refine ⟨?_, ?_, ?_, ?_, ?_, ?_, ?_, ?_, ?_, ?_, ?_, ?_, ?_, ?_, ?_, ?_, ?_, ?_⟩ <;> intros <;> simp [State.stack, State.sideRt, State.graph, State.sill, State.plateOf, State.arc, State.chain, State.group, State.feedback, State.comp, State.blank, State.history, State.arbiter, State.sem, State.ptpPort, State.pll, State.segment, State.stream]

@[simp] theorem countEvent_records (b : Nat) (e : Nat) (n : Nat) (k : Nat) :
    (∀ (k' : Nat), (countEvent b e n k s).stack k' = s.stack k') ∧
    (∀ (x' : Side), (countEvent b e n k s).sideRt x' = s.sideRt x') ∧
    (∀ (x' : Side), (countEvent b e n k s).graph x' = s.graph x') ∧
    (∀ (x' : Side), (countEvent b e n k s).sill x' = s.sill x') ∧
    (∀ (n' : Nat), (countEvent b e n k s).plateOf n' = s.plateOf n') ∧
    (∀ (x' : Side) (d' : Nat), (countEvent b e n k s).arc x' d' = s.arc x' d') ∧
    (∀ (x' : Side) (c' : Nat), (countEvent b e n k s).chain x' c' = s.chain x' c') ∧
    (∀ (g' : Nat), (countEvent b e n k s).group g' = s.group g') ∧
    (∀ (c' : Nat), (countEvent b e n k s).feedback c' = s.feedback c') ∧
    (∀ (c' : Nat) (k' : Nat), (countEvent b e n k s).comp c' k' = s.comp c' k') ∧
    (∀ (c' : Nat), (countEvent b e n k s).blank c' = s.blank c') ∧
    (∀ (r' : Nat) (b' : Nat), (countEvent b e n k s).history r' b' = s.history r' b') ∧
    (∀ (r' : Nat) (n' : Nat), (countEvent b e n k s).arbiter r' n' = s.arbiter r' n') ∧
    (∀ (n' : Nat), (countEvent b e n k s).sem n' = s.sem n') ∧
    (∀ (x' : Nat), (countEvent b e n k s).ptpPort x' = s.ptpPort x') ∧
    (∀ (p' : Nat), (countEvent b e n k s).pll p' = s.pll p') ∧
    (∀ (x' : Side) (n' : Nat), (countEvent b e n k s).segment x' n' = s.segment x' n') ∧
    (∀ (k' : Nat), (countEvent b e n k s).stream k' = s.stream k') := by
  refine ⟨?_, ?_, ?_, ?_, ?_, ?_, ?_, ?_, ?_, ?_, ?_, ?_, ?_, ?_, ?_, ?_, ?_, ?_⟩ <;> intros <;> simp [State.stack, State.sideRt, State.graph, State.sill, State.plateOf, State.arc, State.chain, State.group, State.feedback, State.comp, State.blank, State.history, State.arbiter, State.sem, State.ptpPort, State.pll, State.segment, State.stream]

@[simp] theorem ended_records (q : List Instr) :
    (∀ (k' : Nat), (s.ended q).stack k' = s.stack k') ∧
    (∀ (x' : Side), (s.ended q).sideRt x' = s.sideRt x') ∧
    (∀ (x' : Side), (s.ended q).graph x' = s.graph x') ∧
    (∀ (x' : Side), (s.ended q).sill x' = s.sill x') ∧
    (∀ (x' : Side) (d' : Nat), (s.ended q).arc x' d' = s.arc x' d') ∧
    (∀ (x' : Side) (c' : Nat), (s.ended q).chain x' c' = s.chain x' c') ∧
    (∀ (g' : Nat), (s.ended q).group g' = s.group g') ∧
    (∀ (c' : Nat), (s.ended q).feedback c' = s.feedback c') ∧
    (∀ (c' : Nat) (k' : Nat), (s.ended q).comp c' k' = s.comp c' k') ∧
    (∀ (c' : Nat), (s.ended q).blank c' = s.blank c') ∧
    (∀ (r' : Nat) (b' : Nat), (s.ended q).history r' b' = s.history r' b') ∧
    (∀ (r' : Nat) (n' : Nat), (s.ended q).arbiter r' n' = s.arbiter r' n') ∧
    (∀ (n' : Nat), (s.ended q).sem n' = s.sem n') ∧
    (∀ (x' : Nat), (s.ended q).ptpPort x' = s.ptpPort x') ∧
    (∀ (p' : Nat), (s.ended q).pll p' = s.pll p') ∧
    (∀ (x' : Side) (n' : Nat), (s.ended q).segment x' n' = s.segment x' n') ∧
    (∀ (k' : Nat), (s.ended q).stream k' = s.stream k') := by
  refine ⟨?_, ?_, ?_, ?_, ?_, ?_, ?_, ?_, ?_, ?_, ?_, ?_, ?_, ?_, ?_, ?_, ?_⟩ <;> intros <;> simp [State.stack, State.sideRt, State.graph, State.sill, State.arc, State.chain, State.group, State.feedback, State.comp, State.blank, State.history, State.arbiter, State.sem, State.ptpPort, State.pll, State.segment, State.stream]

@[simp] theorem emit_out (a d : Nat) (l : List Nat) : (s.emit a d l).out = s.out ++ [⟨a, d, l⟩] := rfl
end

end Sys2Proof.Machine
end

