-- ==== Sys2Proof/Laws/Only.lean ====
section
/-!
SUPPORT. What operations move and keep: each update moves its own part and leaves the gates at the plate sound, and chains, branches and
folds of such steps move what they move.
-/

set_option Elab.async false
namespace Sys2Proof
open Sys2Proof.Machine

variable {P : List Part} {G : List Objs}

/-- An entry of a store after a write is the one written or was there. -/
theorem mem_put {α : Type} [DecidableEq α] {d : α} {k : Nat} {v : α} {l : Store α} {e : Nat × α} (h : e ∈ Store.put d k v l) :
    e = (k, v) ∨ e ∈ l := by
  have ins : ∀ l : Store α, e ∈ Store.ins k v l → e = (k, v) ∨ e ∈ l := by
    intro l
    induction l with
    | nil => intro h; simpa [Store.ins] using h
    | cons a l ih =>
      intro h
      unfold Store.ins at h
      split at h
      · simpa using h
      · rcases List.mem_cons.mp h with h | h
        · exact .inr (h ▸ List.mem_cons_self)
        · rcases ih h with h | h
          · exact .inl h
          · exact .inr (List.mem_cons_of_mem _ h)
  unfold Store.put at h
  split at h
  · exact .inr (List.mem_filter.mp h).1
  · rcases ins _ h with h | h
    · exact .inl h
    · exact .inr (List.mem_filter.mp h).1

/-- The record of a physical pair of a sound plate is sound. -/
theorem plateOf_sound {s : State} (h : PlateSound s) (n : Nat) : GatesSound (s.plateOf n) := by
  have find : ∀ (l : Store PlatePair) (q : PlatePair), Store.find n l = some q → (n, q) ∈ l := by
    intro l q
    induction l with
    | nil => intro h; cases h
    | cons e l ih =>
      obtain ⟨a, v⟩ := e
      intro h
      unfold Store.find at h
      split at h
      · rename_i ha; cases h; subst ha; exact List.mem_cons_self
      · exact List.mem_cons_of_mem _ (ih h)
  unfold State.plateOf Store.get
  cases hf : Store.find n s.plate.pairs with
  | none => exact ⟨fun _ => ⟨rfl, rfl⟩, by simp [PlatePair.init]⟩
  | some q => exact h _ (find _ _ hf)

/-- The interlock of R228 drives no pair's gates high together. -/
theorem interlock_sound {now dh dl minOn : Nat} {q : PlatePair} {rh rl : Bool} (h : GatesSound q) (hd : q.driving = true) :
    GatesSound (interlock now dh dl minOn q rh rl).1 := by
  refine ⟨fun e => absurd (hd.symm.trans e) (by simp), ?_⟩
  have h2 := h.2
  unfold interlock
  simp only
  cases hq : q.h <;> cases hl : q.l <;> cases rh <;> cases rl <;> simp_all <;> omega

/-- An object is among those of `G`. -/
abbrev Hit (G : List Objs) (i j : Nat) : Prop := G.any (·.has (i * 256 + j)) = true

/-- Every object of one list is among those of another, entry by entry. -/
def Objs.within (g h : Objs) : Bool := h.lo.ble g.lo && g.hi.ble h.hi && h.sub.ble g.sub && g.last.ble h.last

/-- Every object of `L` is among those of `G`. -/
abbrev Cov (G L : List Objs) : Prop := L.all (fun g => G.any g.within) = true

theorem Objs.within_has {g h : Objs} {k : Nat} (w : g.within h = true) (x : g.has k = true) : h.has k = true := by
  simp only [Objs.within, Objs.has, Bool.and_eq_true, Nat.ble_eq, decide_eq_true_eq] at *
  omega

namespace Cov
variable {G L M : List Objs}

theorem key (h : Cov G L) {k : Nat} (x : L.any (·.has k) = true) : G.any (·.has k) = true := by
  obtain ⟨g, hg, hk⟩ := List.any_eq_true.mp x
  obtain ⟨f, hf, w⟩ := List.any_eq_true.mp (List.all_eq_true.mp h g hg)
  exact List.any_eq_true.mpr ⟨f, hf, Objs.within_has w hk⟩

/-- An object among those of `L`. -/
theorem item {i j : Nat} (h : Cov G L) (x : L.any (·.has (i * 256 + j)) = true) : Hit G i j := h.key x

/-- An object of a record that `L` lists, from bounds on its index and subindex. -/
theorem hit {i j : Nat} (h : Cov G L) (lo hi sub last : Nat) (m : L.any (Objs.within ⟨lo, hi, sub, last⟩) = true) (h1 : lo ≤ i)
    (h2 : i ≤ hi) (h3 : sub ≤ j) (h4 : j ≤ last) (h5 : j < 256) : Hit G i j := by
  obtain ⟨f, hf, w⟩ := List.any_eq_true.mp m
  have e1 : (i * 256 + j) / 256 = i := by omega
  have e2 : (i * 256 + j) % 256 = j := by omega
  refine h.key (List.any_eq_true.mpr ⟨f, hf, Objs.within_has w ?_⟩)
  simp only [Objs.has, e1, e2, Bool.and_eq_true, decide_eq_true_eq]
  omega

theorem sub (h : Cov G L) (m : M.all (fun g => L.any g.within) = true) : Cov G M := by
  refine List.all_eq_true.mpr (fun g hg => ?_)
  obtain ⟨f, hf, w⟩ := List.any_eq_true.mp (List.all_eq_true.mp m g hg)
  obtain ⟨e, he, v⟩ := List.any_eq_true.mp (List.all_eq_true.mp h f hf)
  refine List.any_eq_true.mpr ⟨e, he, ?_⟩
  simp only [Objs.within, Bool.and_eq_true, Nat.ble_eq] at *
  omega

end Cov

/-- What an operation moves, and that it leaves the gates at the plate sound. -/
structure Own (P : List Part) (G : List Objs) (s s' : State) : Prop extends Only P G s s' where
  sound : PlateSound s → PlateSound s'

namespace Own

theorem same (s : State) : Own P G s s := by
  refine ⟨?_, fun h => h⟩
  constructor <;> intros <;> rfl

theorem of_pairs {s s' : State} (h : Only P G s s') (e : s'.plate.pairs = s.plate.pairs) : Own P G s s' :=
  ⟨h, fun k => by unfold PlateSound; rw [e]; exact k⟩

theorem step {a b c : State} (h : Own P G a b) (g : Own P G b c) : Own P G a c where
  sound := fun k => g.sound (h.sound k)
  pending := g.pending.trans h.pending
  now := fun k => (g.now k).trans (h.now k)
  time := fun k => (g.time k).trans (h.time k)
  meas := fun k => (g.meas k).trans (h.meas k)
  graphs := fun k => (g.graphs k).trans (h.graphs k)
  gf := fun k => (g.gf k).trans (h.gf k)
  plate := fun k => (g.plate k).trans (h.plate k)
  pairs := fun k => (g.pairs k).trans (h.pairs k)
  stk := fun k => (g.stk k).trans (h.stk k)
  sides := fun k => (g.sides k).trans (h.sides k)
  safety := fun k => (g.safety k).trans (h.safety k)
  sharing := fun k => (g.sharing k).trans (h.sharing k)
  ptp := fun k => (g.ptp k).trans (h.ptp k)
  clock := fun k => (g.clock k).trans (h.clock k)
  plls := fun k => (g.plls k).trans (h.plls k)
  capture := fun k => (g.capture k).trans (h.capture k)
  scribe := fun k => (g.scribe k).trans (h.scribe k)
  net := fun k => (g.net k).trans (h.net k)
  boot := fun k => (g.boot k).trans (h.boot k)
  out := fun k => (g.out k).trans (h.out k)
  free := fun k => (g.free k).trans (h.free k)
  engine := fun k x n => (g.engine k x n).trans (h.engine k x n)
  reader := fun k r => (g.reader k r).trans (h.reader k r)
  val := fun k hk hg => (g.val k hk hg).trans (h.val k hk hg)

theorem ofEv {s s' : State} (h : EvSame s s') : Own P G s s' where
  sound := fun k => by unfold PlateSound; rw [h.plate]; exact k
  pending := h.pending
  now := fun _ => h.now
  time := fun _ => h.ridge
  meas := fun _ => h.meas
  graphs := fun _ => h.graphs
  gf := fun _ => h.gf
  plate := fun _ => by rw [h.plate]
  pairs := fun _ => by rw [h.plate]
  stk := fun _ => h.stk
  sides := fun _ => h.sides
  safety := fun _ => h.safety
  sharing := fun _ => h.sharing
  ptp := fun _ => h.ptp
  clock := fun _ => h.clock
  plls := fun _ => h.plls
  capture := fun _ => h.capture
  engine := fun _ => h.engine
  scribe := fun _ => h.scribe
  net := fun _ => h.net
  reader := fun _ => h.reader
  boot := fun _ => h.boot
  out := fun _ => h.out
  free := fun _ => h.freeCount
  val := fun k hk _ => h.val k hk

theorem ev {s u u' : State} (h : EvSame u u') (g : Own P G s u) : Own P G s u' := g.step (ofEv h)

theorem ite {s a b : State} {c : Prop} [Decidable c] (ha : Own P G s a) (hb : Own P G s b) : Own P G s (if c then a else b) := by
  split <;> assumption

/-- A branch, with its condition. -/
theorem branch {s a b : State} {c : Prop} [Decidable c] (ha : c → Own P G s a) (hb : ¬ c → Own P G s b) :
    Own P G s (if c then a else b) := by
  split
  · rename_i h; exact ha h
  · rename_i h; exact hb h

theorem branch2 {α : Type} {s : State} {a b : α × State} {c : Prop} [Decidable c] (ha : c → Own P G s a.2) (hb : ¬ c → Own P G s b.2) :
    Own P G s (if c then a else b).2 := by
  split
  · rename_i h; exact ha h
  · rename_i h; exact hb h
theorem branch3 {α β : Type} {s : State} {a b : α × β × State} {c : Prop} [Decidable c] (ha : c → Own P G s a.2.2)
    (hb : ¬ c → Own P G s b.2.2) : Own P G s (if c then a else b).2.2 := by
  split
  · rename_i h; exact ha h
  · rename_i h; exact hb h

theorem foldl {α : Type} {s u : State} {l : List α} {f : State → α → State} (h : Own P G s u)
    (hf : ∀ v a, a ∈ l → Own P G v (f v a)) : Own P G s (l.foldl f u) := by
  induction l generalizing u with
  | nil => exact h
  | cons a l ih => exact ih (h.step (hf u a (by simp))) (fun v b hb => hf v b (by simp [hb]))

theorem forN {s u : State} {n : Nat} {f : Nat → State → State} (h : Own P G s u) (hf : ∀ i v, i < n → Own P G v (f i v)) :
    Own P G s (forN n f u) := foldl h (fun v i hi => hf i v (List.mem_range.mp hi))

theorem forMask {s u : State} {n m : Nat} {f : Nat → State → State} (h : Own P G s u) (hf : ∀ i v, i < n → Own P G v (f i v)) :
    Own P G s (forMask n m f u) := foldl h (fun v i hi => hf i v (by simp [maskList] at hi; exact hi.1))

theorem ifS {s u : State} {b : Bool} {f : State → State} (h : Own P G s u) (hf : ∀ v, Own P G v (f v)) : Own P G s (ifS b f u) := by
  unfold Machine.ifS; split
  · exact h.step (hf u)
  · exact h

theorem atRidge {s u : State} {r : Nat} {f : State → State} (h : Own P G s u) (hf : ∀ v, Own P G v (f v)) :
    Own P G s (atRidge r f u) := by
  refine h.step ?_
  have k := hf { u with ridge := r }
  exact ⟨⟨k.pending, k.now, fun _ => rfl, k.meas, k.graphs, k.gf, k.plate, k.pairs, k.stk, k.sides, k.safety, k.sharing, k.ptp, k.clock,
    k.plls, k.capture, k.engine, k.scribe, k.net, k.reader, k.boot, k.out, k.free, k.val⟩, k.sound⟩

theorem atInstant {s u : State} {t r : Nat} {f : State → State} (h : Own P G s u) (hf : ∀ v, Own P G v (f v)) :
    Own P G s (atInstant t r f u) := by
  refine h.step ?_
  have k := hf { u with now := t, ridge := r }
  exact ⟨⟨k.pending, fun _ => rfl, fun _ => rfl, k.meas, k.graphs, k.gf, k.plate, k.pairs, k.stk, k.sides, k.safety, k.sharing, k.ptp,
    k.clock, k.plls, k.capture, k.engine, k.scribe, k.net, k.reader, k.boot, k.out, k.free, k.val⟩, k.sound⟩

theorem putVal {s u : State} {k : Nat} {v : Val} (hk : G.any (·.has k) = true) (h : Own P G s u) : Own P G s (u.putVal k v) := by
  refine h.step (of_pairs ?_ rfl)
  constructor <;> intros <;> try rfl
  rename_i k' _ hg
  have : k' ≠ k := by rintro rfl; rw [hk] at hg; cases hg
  simp [State.val_putVal, this]
theorem setNum {s u : State} {i j v : Nat} (hk : Hit G i j) (h : Own P G s u) : Own P G s (u.setNum i j v) := putVal hk h
theorem setBlob {s u : State} {i j : Nat} {b : List Nat} (hk : Hit G i j) (h : Own P G s u) :
    Own P G s (u.setBlob i j b) := putVal hk h
theorem setFld {s u : State} {i j hi lo v : Nat} (hk : Hit G i j) (h : Own P G s u) :
    Own P G s (u.setFld i j hi lo v) := putVal hk h
theorem setBitO {s u : State} {i j n : Nat} {b : Bool} (hk : Hit G i j) (h : Own P G s u) :
    Own P G s (u.setBitO i j n b) := ev (EvSame.noteFresh ..) (setNum hk h)
theorem noteFlags {s u : State} {k m : Nat} (h : Own P G s u) : Own P G s (u.noteFlags k m) := ev (EvSame.noteFlags ..) h
theorem incSat {s u : State} {i j : Nat} (hk : Hit G i j) (h : Own P G s u) : Own P G s (u.incSat i j) := putVal hk h
theorem incWrap {s u : State} {i j : Nat} (hk : Hit G i j) (h : Own P G s u) : Own P G s (u.incWrap i j) := putVal hk h
theorem setSideState {s u : State} {x : Side} {v : Nat} (hk : Hit G 0x6021 1) (h : Own P G s u) : Own P G s (u.setSideState x v) := by
  cases x <;> exact putVal hk h

/-! Events, records and counted occurrences. -/

theorem raise {s u : State} {e a b c : Nat} (h : Own P G s u) : Own P G s (u.raise e a b c) := ev (raise_same ..) h
theorem occur {s u : State} {e a b c : Nat} (h : Own P G s u) : Own P G s (u.occur e a b c) := ev (occur_same ..) h
theorem record {s u : State} {e o a b c : Nat} (h : Own P G s u) : Own P G s (u.record e o a b c) := ev (record_same ..) h
theorem writeRecord {s u : State} {e o d a b c : Nat} (h : Own P G s u) : Own P G s (u.writeRecord e o d a b c) :=
  ev (writeRecord_same ..) h
theorem fwNote {s u : State} {e a b c : Nat} (h : Own P G s u) : Own P G s (u.fwNote e a b c) := ev (fwNote_same ..) h
theorem countIf {s u : State} {e a n : Nat} {f : State → Nat → Bool} (h : Own P G s u) : Own P G s (countIf e a n f u) :=
  ev (countIf_same ..) h
theorem countEvent {s u : State} {e a b c : Nat} (h : Own P G s u) : Own P G s (countEvent e a b c u) := ev (countEvent_same ..) h
theorem countReq {s u : State} {e a b c d : Nat} {o : Option Nat} (h : Own P G s u) : Own P G s (countReq e a b c d o u) :=
  ev (countReq_same ..) h
theorem countLink {s u : State} {c : Nat} (h : Own P G s u) : Own P G s (countLink c u) := ev (countLink_same ..) h
theorem pushTrigger {s u : State} {k t : Nat} (hk : k < 8) (h : Own P G s u) : Own P G s (pushTrigger k t u) :=
  ev (pushTrigger_same t hk u) h
theorem notifyAll {s u : State} {e : Nat} (h : Own P G s u) : Own P G s (u.notifyAll e) := ev (notifyAll_same ..) h
theorem captureEvents {s u : State} {e : Nat} (h : Own P G s u) : Own P G s (captureEvents e u) := ev (captureEvents_same ..) h
theorem reportLate {s u : State} (h : Own P G s u) : Own P G s u.reportLate := ev (reportLate_same u) h

/-! Records. -/

theorem setReader {s u : State} {r : Nat} {v : Reader} (hp : Part.net ∈ P) (h : Own P G s u) : Own P G s (u.setReader r v) := by
  refine h.step (of_pairs ?_ rfl)
  all_goals (constructor <;> intros <;> first | rfl | contradiction)
theorem setEngine {s u : State} {x : Side} {k : Nat} {v : Engine} (hp : Part.capture ∈ P) (h : Own P G s u) : Own P G s (u.setEngine x k v) := by
  refine h.step (of_pairs ?_ rfl)
  all_goals (constructor <;> intros <;> first | rfl | contradiction)
theorem setStack {s u : State} {k : Nat} {v : Stack} (hp : Part.stacks ∈ P) (h : Own P G s u) : Own P G s (u.setStack k v) := by
  refine h.step (of_pairs ?_ rfl)
  all_goals (constructor <;> intros <;> first | rfl | contradiction)
theorem setSideRt {s u : State} {x : Side} {v : SideRt} (hp : Part.sides ∈ P) (h : Own P G s u) : Own P G s (u.setSideRt x v) := by
  cases x
  all_goals refine h.step (of_pairs ?_ rfl)
  all_goals (constructor <;> intros <;> first | rfl | contradiction)
theorem setGraph {s u : State} {x : Side} {v : Graph} (hp : Part.graphs ∈ P) (h : Own P G s u) : Own P G s (u.setGraph x v) := by
  cases x
  all_goals refine h.step (of_pairs ?_ rfl)
  all_goals (constructor <;> intros <;> first | rfl | contradiction)
theorem setSill {s u : State} {x : Side} {v : Sill} (hp : Part.plate ∈ P) (h : Own P G s u) : Own P G s (u.setSill x v) := by
  cases x
  all_goals refine h.step (of_pairs ?_ rfl)
  all_goals (constructor <;> intros <;> first | rfl | contradiction)
theorem setPlate {s u : State} {n : Nat} {v : PlatePair} (hp : Part.pairs ∈ P) (hv : PlateSound u → GatesSound v) (h : Own P G s u) :
    Own P G s (u.setPlate n v) := by
  refine h.step ⟨?_, fun k e he => ?_⟩
  · constructor <;> intros <;> first | rfl | contradiction
  · rcases mem_put (show e ∈ Store.put PlatePair.init n v u.plate.pairs from he) with rfl | he
    · exact hv k
    · exact k e he
theorem setArc {s u : State} {x : Side} {d : Nat} {v : Arc} (hp : Part.meas ∈ P) (h : Own P G s u) : Own P G s (u.setArc x d v) := by
  refine h.step (of_pairs ?_ rfl)
  all_goals (constructor <;> intros <;> first | rfl | contradiction)
theorem setChain {s u : State} {x : Side} {c : Nat} {v : Chain} (hp : Part.meas ∈ P) (h : Own P G s u) : Own P G s (u.setChain x c v) := by
  refine h.step (of_pairs ?_ rfl)
  all_goals (constructor <;> intros <;> first | rfl | contradiction)
theorem setGroup {s u : State} {g : Nat} {v : ClockGroup} (hp : Part.meas ∈ P) (h : Own P G s u) : Own P G s (u.setGroup g v) := by
  refine h.step (of_pairs ?_ rfl)
  all_goals (constructor <;> intros <;> first | rfl | contradiction)
theorem setFeedback {s u : State} {c : Nat} {v : Feedback} (hp : Part.meas ∈ P) (h : Own P G s u) : Own P G s (u.setFeedback c v) := by
  refine h.step (of_pairs ?_ rfl)
  all_goals (constructor <;> intros <;> first | rfl | contradiction)
theorem setComp {s u : State} {c k : Nat} {v : Comparator} (hp : Part.meas ∈ P) (h : Own P G s u) : Own P G s (u.setComp c k v) := by
  refine h.step (of_pairs ?_ rfl)
  all_goals (constructor <;> intros <;> first | rfl | contradiction)
theorem setArbiter {s u : State} {r n : Nat} {v : Arbiter} (hp : Part.sharing ∈ P) (h : Own P G s u) : Own P G s (u.setArbiter r n v) := by
  refine h.step (of_pairs ?_ rfl)
  all_goals (constructor <;> intros <;> first | rfl | contradiction)
theorem setSem {s u : State} {n : Nat} {v : Sem} (hp : Part.sharing ∈ P) (h : Own P G s u) : Own P G s (u.setSem n v) := by
  refine h.step (of_pairs ?_ rfl)
  all_goals (constructor <;> intros <;> first | rfl | contradiction)
theorem setPtpPort {s u : State} {x : Nat} {v : PtpPort} (hp : Part.ptp ∈ P) (h : Own P G s u) : Own P G s (u.setPtpPort x v) := by
  refine h.step (of_pairs ?_ rfl)
  all_goals (constructor <;> intros <;> first | rfl | contradiction)
theorem setPll {s u : State} {p : Nat} {v : Pll} (hp : Part.plls ∈ P) (h : Own P G s u) : Own P G s (u.setPll p v) := by
  refine h.step (of_pairs ?_ rfl)
  all_goals (constructor <;> intros <;> first | rfl | contradiction)
theorem setSegment {s u : State} {x : Side} {n : Nat} {v : Segment} (hp : Part.capture ∈ P) (h : Own P G s u) : Own P G s (u.setSegment x n v) := by
  cases x
  all_goals refine h.step (of_pairs ?_ rfl)
  all_goals (constructor <;> intros <;> first | rfl | contradiction)
theorem setStream {s u : State} {k : Nat} {v : Stream} (hp : Part.capture ∈ P) (h : Own P G s u) : Own P G s (u.setStream k v) := by
  refine h.step (of_pairs ?_ rfl)
  all_goals (constructor <;> intros <;> first | rfl | contradiction)
theorem emit {s u : State} {a d : Nat} {l : List Nat} (hp : Part.out ∈ P) (h : Own P G s u) : Own P G s (u.emit a d l) := by
  refine h.step (of_pairs ?_ rfl)
  all_goals (constructor <;> intros <;> first | rfl | contradiction)
theorem nextFree {s u : State}  (hp : Part.free ∈ P) (h : Own P G s u) : Own P G s (u.nextFree ) := by
  refine h.step (of_pairs ?_ rfl)
  all_goals (constructor <;> intros <;> first | rfl | contradiction)
theorem modSet {s u : State} {f : OpenSet → OpenSet} (hp : Part.net ∈ P) (h : Own P G s u) : Own P G s (u.modSet f) := by
  refine h.step (of_pairs ?_ rfl)
  all_goals (constructor <;> intros <;> first | rfl | contradiction)

/-! Fields. -/

theorem ridge_set {s u : State} {v : Nat} (hp : Part.time ∈ P) (h : Own P G s u) : Own P G s { u with ridge := v } := by
  refine h.step (of_pairs ?_ rfl)
  constructor <;> intros <;> first | rfl | contradiction
theorem meas_set {s u : State} {v : Meas} (hp : Part.meas ∈ P) (h : Own P G s u) : Own P G s { u with meas := v } := by
  refine h.step (of_pairs ?_ rfl)
  constructor <;> intros <;> first | rfl | contradiction
theorem graphs_set {s u : State} {v : Graphs} (hp : Part.graphs ∈ P) (h : Own P G s u) : Own P G s { u with graphs := v } := by
  refine h.step (of_pairs ?_ rfl)
  constructor <;> intros <;> first | rfl | contradiction
theorem gf_set {s u : State} {v : GridForm} (hp : Part.gf ∈ P) (h : Own P G s u) : Own P G s { u with gf := v } := by
  refine h.step (of_pairs ?_ rfl)
  constructor <;> intros <;> first | rfl | contradiction
theorem stk_set {s u : State} {v : Store Stack} (hp : Part.stacks ∈ P) (h : Own P G s u) : Own P G s { u with stk := v } := by
  refine h.step (of_pairs ?_ rfl)
  constructor <;> intros <;> first | rfl | contradiction
theorem sides_set {s u : State} {v : Sides} (hp : Part.sides ∈ P) (h : Own P G s u) : Own P G s { u with sides := v } := by
  refine h.step (of_pairs ?_ rfl)
  constructor <;> intros <;> first | rfl | contradiction
theorem safety_set {s u : State} {v : Safety} (hp : Part.safety ∈ P) (h : Own P G s u) : Own P G s { u with safety := v } := by
  refine h.step (of_pairs ?_ rfl)
  constructor <;> intros <;> first | rfl | contradiction
theorem sharing_set {s u : State} {v : Sharing} (hp : Part.sharing ∈ P) (h : Own P G s u) : Own P G s { u with sharing := v } := by
  refine h.step (of_pairs ?_ rfl)
  constructor <;> intros <;> first | rfl | contradiction
theorem ptp_set {s u : State} {v : Store PtpPort} (hp : Part.ptp ∈ P) (h : Own P G s u) : Own P G s { u with ptp := v } := by
  refine h.step (of_pairs ?_ rfl)
  constructor <;> intros <;> first | rfl | contradiction
theorem clock_set {s u : State} {v : Clock} (hp : Part.clock ∈ P) (h : Own P G s u) : Own P G s { u with clock := v } := by
  refine h.step (of_pairs ?_ rfl)
  constructor <;> intros <;> first | rfl | contradiction
theorem plls_set {s u : State} {v : Store Pll} (hp : Part.plls ∈ P) (h : Own P G s u) : Own P G s { u with plls := v } := by
  refine h.step (of_pairs ?_ rfl)
  constructor <;> intros <;> first | rfl | contradiction
theorem capture_set {s u : State} {v : Capture} (hp : Part.capture ∈ P) (h : Own P G s u) : Own P G s { u with capture := v } := by
  refine h.step (of_pairs ?_ rfl)
  constructor <;> intros <;> first | rfl | contradiction
theorem scribe_set {s u : State} {v : Scribe} (hp : Part.scribe ∈ P) (h : Own P G s u) : Own P G s { u with scribe := v } := by
  refine h.step (of_pairs ?_ rfl)
  constructor <;> intros <;> first | rfl | contradiction
theorem net_set {s u : State} {v : Net} (hp : Part.net ∈ P) (h : Own P G s u) : Own P G s { u with net := v } := by
  refine h.step (of_pairs ?_ rfl)
  constructor <;> intros <;> first | rfl | contradiction
theorem boot_set {s u : State} {v : Boot} (hp : Part.boot ∈ P) (h : Own P G s u) : Own P G s { u with boot := v } := by
  refine h.step (of_pairs ?_ rfl)
  constructor <;> intros <;> first | rfl | contradiction
theorem out_set {s u : State} {v : List Out} (hp : Part.out ∈ P) (h : Own P G s u) : Own P G s { u with out := v } := by
  refine h.step (of_pairs ?_ rfl)
  constructor <;> intros <;> first | rfl | contradiction
theorem freeCount_set {s u : State} {v : Nat} (hp : Part.free ∈ P) (h : Own P G s u) : Own P G s { u with freeCount := v } := by
  refine h.step (of_pairs ?_ rfl)
  constructor <;> intros <;> first | rfl | contradiction
theorem plate_set {s u : State} {v : Plate} (hp : Part.plate ∈ P) (hq : v.pairs = u.plate.pairs) (h : Own P G s u) :
    Own P G s { u with plate := v } := by
  refine h.step (of_pairs ?_ hq)
  constructor <;> intros <;> first | rfl | contradiction | exact hq
theorem now_set {s u : State} {v : Nat} (hp : Part.time ∈ P) (h : Own P G s u) : Own P G s { u with now := v } := by
  refine h.step (of_pairs ?_ rfl)
  constructor <;> intros <;> first | rfl | contradiction

theorem advance {s u : State} {t : Nat} (hp : Part.time ∈ P) (h : Own P G s u) : Own P G s (u.advance t) := by
  refine h.step (of_pairs ?_ rfl)
  constructor <;> intros <;> first | rfl | contradiction

/-! Commands. -/

theorem settle {s u : State} (hp : Part.pairs ∈ P) (h : Own P G s u) : Own P G s u.settle := by
  refine h.step ⟨?_, fun k e he => ?_⟩
  · constructor <;> intros <;> first | rfl | contradiction
  · obtain ⟨f, hf, rfl⟩ := List.mem_map.mp (show e ∈ u.plate.pairs.map (fun e => (e.1, settlePair u e.2)) from he)
    have q := k f hf
    show GatesSound (settlePair u f.2)
    unfold settlePair
    generalize (f.2.driving && !u.mayDrive (if f.2.sideB then .B else .A) f.2.pair) = b
    cases b
    · exact q
    · exact ⟨fun _ => ⟨rfl, rfl⟩, by simp⟩

end Own

/-! ### Bounds of numbers that operations take from the state -/

theorem lt_of_mem_map8 {g : Nat} (h : g < 8) {a : Nat} (ha : a ∈ (List.range 8).map (fun i => 8 * g + i)) : a < 64 := by
  simp at ha; omega
theorem bits_lt (v hi lo n : Nat) (h : 2 ^ (hi + 1 - lo) ≤ n) : bits v hi lo < n := Nat.lt_of_lt_of_le (Nat.mod_lt _ (Nat.two_pow_pos _)) h
theorem fld_lt (s : State) (i j hi lo n : Nat) (h : 2 ^ (hi + 1 - lo) ≤ n) : s.fld i j hi lo < n := bits_lt _ _ _ _ h
theorem pairUpdate_lt (s : State) (p : Nat) : s.pairUpdate p < 32 := fld_lt _ _ _ _ _ _ (by decide)
theorem updateCarrier_lt (s : State) (p : Nat) : s.updateCarrier p < 8 := fld_lt _ _ _ _ _ _ (by decide)
theorem masterOf_lt (s : State) (g : Nat) (h : g < 8) : s.masterOf g < 8 := by
  unfold State.masterOf; split
  · exact fld_lt _ _ _ _ _ _ (by decide)
  · exact h
theorem chanDomain_lt (s : State) (c : Nat) : chanDomain s c < 4 := fld_lt _ _ _ _ _ _ (by decide)
theorem groupPairs_lt {s : State} {g a : Nat} (h : a ∈ groupPairs s g) : a < 72 := by
  simp [groupPairs] at h; exact h.1
theorem pairsOf_lt {s : State} {g a : Nat} (h : a ∈ pairsOf s g) : a < 72 := by
  simp [pairsOf] at h; exact h.1
theorem updatesOf_lt {s : State} {g a : Nat} (h : a ∈ updatesOf s g) : a < 32 := by
  simp [updatesOf] at h; exact h.1
theorem mastersOf_lt {s : State} {g a : Nat} (h : a ∈ mastersOf s g) : a < 8 := by
  simp [mastersOf] at h; exact h.1
theorem followersOf_lt {s : State} {g a : Nat} (h : a ∈ followersOf s g) : a < 8 := by
  simp [followersOf] at h; exact h.1
theorem swapChannels_lt {s : State} {g a : Nat} (h : a ∈ swapChannels s g) : a < 64 := by
  simp [swapChannels] at h; exact h.1
theorem maskList_lt {n m a : Nat} (h : a ∈ maskList n m) : a < n := by
  simp [maskList] at h; exact h.1
theorem filter_range_lt {n a : Nat} {p : Nat → Bool} (h : a ∈ (List.range n).filter p) : a < n := by
  simp at h; exact h.1
theorem groupChannels_lt {s : State} {g a : Nat} (hg : g < 8) (h : a ∈ groupChannels s g) : a < 64 := by
  simp [groupChannels] at h; obtain ⟨⟨i, hi, rfl⟩, _⟩ := h; omega
theorem activeSlot_lt {s : State} {k : Nat} (h : s.activeSlot = some k) : k < 2 := by
  unfold State.activeSlot at h
  split at h
  · contradiction
  · cases h; exact fld_lt _ _ _ _ _ _ (by decide)

theorem switchNow_lt {s : State} {k : Nat} (h : switchNow s = some k) : k < 2 := by
  unfold switchNow at h
  split at h
  · rename_i e
    simp at h
    obtain ⟨_, rfl⟩ := h
    unfold switchAt at e
    repeat' split at e
    all_goals (simp at e; try omega)
  · cases h

/-- An object of an instance's record. -/
theorem Cov.rec {G L : List Objs} {k j sub last : Nat} {e : GEntry} (h : Cov G L) (m : L.any (Objs.within ⟨0x3400, 0x3BFF, sub, last⟩) = true) (h1 : sub ≤ j)
    (h2 : j ≤ last) (h3 : j < 256) : Hit G (instRecord k e) j := by
  refine h.hit 0x3400 0x3BFF sub last m ?_ ?_ h1 h2 h3 <;> unfold instRecord <;> omega

theorem sideIx_lt (x : Side) : sideIx x < 2 := by cases x <;> decide

/-- A segment belongs to one of the 8 plans. -/
theorem planOfSegment_lt {s : State} {id k : Nat} (h : planOfSegment s id = some k) : k < 8 :=
  List.mem_range.mp (List.mem_of_find?_eq_some h)

/-- The link takes a record of one of the 16 stacks. -/
theorem linkPick_lt {q : List (Nat × Nat)} {op n : Nat} (hq : linkPick (q.filter (fun e => decide (e.2 < 16))) = some (op, n)) :
    n < 16 := by
  unfold linkPick at hq
  split at hq
  · rename_i k' hk
    simp at hq
    rw [← hq.2]
    simpa using List.mem_of_find?_eq_some hk
  · have := List.mem_of_mem_head? (Option.mem_def.mpr hq)
    simpa using (List.mem_filter.mp this).2

end Sys2Proof
end

