-- ==== Sys2Proof/Laws/OnlyOps.lean ====
section
/-!
SUPPORT. What each operation can move, one lemma each: the shared operations of capture, messages, arcs, the plate, the stack link and ridge time.
-/

set_option Elab.async false
set_option maxRecDepth 2000
set_option linter.unusedVariables false
set_option linter.unusedSimpArgs false
namespace Sys2Proof
open Sys2Proof.Machine
variable {P : List Part} {G : List Objs}
namespace Own

theorem dropSegment {z0 z1 : State} {x : Side} {id : Nat} (hp_capture : Part.capture ∈ P) (h : Own P G z0 z1) : Own P G z0
    (Machine.State.dropSegment z1 x id) := by
  refine h.step ?_
  clear h
  unfold Machine.State.dropSegment
  try dsimp only
  repeat' first
    | with_reducible exact same _ | with_reducible refine capture_set (by assumption) ?_

theorem takeLineTime {z0 z1 : State} {port : Nat} {len : Nat} (hp_net : Part.net ∈ P) (h : Own P G z0 z1) : Own P G z0 (Machine.takeLineTime port
    len z1) := by
  refine h.step ?_
  clear h
  unfold Machine.takeLineTime
  try dsimp only
  repeat' first
    | with_reducible exact same _ | with_reducible refine net_set (by assumption) ?_

theorem frameOut {z0 z1 : State} {len : Nat} (hp_net : Part.net ∈ P) (hp_out : Part.out ∈ P) (h : Own P G z0 z1) : Own P G z0 (Machine.State.frameOut z1 len) := by
  refine h.step ?_
  clear h
  unfold Machine.State.frameOut
  try dsimp only
  repeat' first
    | with_reducible exact same _ | with_reducible assumption | with_reducible refine branch (fun hc => ?_) (fun hc => ?_)
    | with_reducible apply takeLineTime | with_reducible apply countEvent | with_reducible refine forN ?_ (fun i v hi => ?_)
    | with_reducible refine foldl ?_ (fun v a ha => ?_) | omega
    | (refine of_pairs ?_ rfl; constructor <;> intros <;> first | rfl | contradiction) | split | with_reducible refine net_set (by assumption) ?_
    | with_reducible refine out_set (by assumption) ?_

theorem sendSot {z0 z1 : State} {kind : Nat} {dest : Nat} {boot : Bool} {m : List Nat} (hp_net : Part.net ∈ P) (hp_out : Part.out ∈ P) (h : Own P G
    z0 z1) : Own P G z0 (Machine.State.sendSot z1 kind dest boot m) := by
  refine h.step ?_
  clear h
  unfold Machine.State.sendSot
  try dsimp only
  repeat' first
    | with_reducible exact same _ | with_reducible assumption | with_reducible refine branch (fun hc => ?_) (fun hc => ?_)
    | with_reducible apply emit | with_reducible apply takeLineTime | with_reducible apply frameOut | omega | split
    | with_reducible refine net_set (by assumption) ?_

theorem sendSession {z0 z1 : State} {kind type sid ref : Nat} {body : List Nat} (hp_net : Part.net ∈ P) (hp_out : Part.out ∈ P) (h : Own P G z0 z1)
    : Own P G z0 (Machine.State.sendSession z1 kind type sid ref body) := by
  refine h.step ?_
  clear h
  unfold Machine.State.sendSession
  try dsimp only
  repeat' first
    | with_reducible exact same _ | with_reducible assumption | with_reducible apply sendSot | split
    | with_reducible refine net_set (by assumption) ?_

theorem changeSource {z0 z1 : State} {x : Side} {d src : Nat} (hp_meas : Part.meas ∈ P) (h : Own P G z0 z1) : Own P G z0 (Machine.changeSource x d
    src z1) := by
  refine h.step ?_
  clear h
  unfold Machine.changeSource
  try dsimp only
  repeat' first
    | with_reducible exact same _ | with_reducible assumption | with_reducible refine branch (fun hc => ?_) (fun hc => ?_)
    | with_reducible apply setArc | with_reducible apply raise

theorem reindexDomain {z0 z1 : State} {x : Side} {d : Nat} {l : Line} {r delta : Nat} (hp_meas : Part.meas ∈ P) (hG : Cov G [⟨0x2500, 0x2503, 6, 6⟩,
    ⟨0x2500, 0x2503, 9, 9⟩]) (hb_d : d < 4) (h : Own P G z0 z1) : Own P G z0 (Machine.reindexDomain x d l r delta z1) := by
  refine h.step ?_
  clear h
  have := sideIx_lt x
  unfold Machine.reindexDomain
  try dsimp only
  repeat' first
    | (exact hG.sub rfl) | (exact hG.item rfl)
    | with_reducible exact same _ | with_reducible assumption | with_reducible refine branch (fun hc => ?_) (fun hc => ?_)
    | with_reducible apply setChain | with_reducible apply raise | with_reducible apply setBitO | with_reducible apply incSat
    | with_reducible refine foldl ?_ (fun v a ha => ?_) | (refine hG.hit 0x2500 0x2503 6 6 rfl ?_ ?_ ?_ ?_ ?_ <;> omega) | (refine hG.hit 0x2500 0x2503 9 9 rfl ?_ ?_ ?_ ?_ ?_ <;> omega)

theorem takeLine {z0 z1 : State} {x : Side} {d : Nat} {l : Line} {r : Nat} (hp_meas : Part.meas ∈ P) (hG : Cov G [⟨0x2500, 0x2503, 6, 6⟩, ⟨0x2500,
    0x2503, 8, 8⟩, ⟨0x2500, 0x2503, 9, 9⟩]) (hb_d : d < 4) (h : Own P G z0 z1) : Own P G z0 (Machine.takeLine x d l r z1) := by
  refine h.step ?_
  clear h
  have := sideIx_lt x
  unfold Machine.takeLine
  try dsimp only
  repeat' first
    | (exact hG.sub rfl) | (exact hG.item rfl) | with_reducible exact same _ | with_reducible assumption
    | with_reducible refine branch (fun hc => ?_) (fun hc => ?_) | with_reducible apply reindexDomain | with_reducible apply setArc
    | with_reducible apply setNum
    | (refine hG.hit 0x2500 0x2503 8 8 rfl ?_ ?_ ?_ ?_ ?_ <;> (first | omega | ((try simp only [quantIx, ctrIx, planIx, bankIndex, resIx, pllSide, instRecord, recordIndex]); omega) | (simp only [Bool.and_eq_true, decide_eq_true_eq] at *; omega)))
    | omega | split | (refine hG.hit 0x2500 0x2503 8 8 rfl ?_ ?_ ?_ ?_ ?_ <;> omega)

theorem sourceAtOnce {z0 z1 : State} {x : Side} {d : Nat} (hp_meas : Part.meas ∈ P) (hG : Cov G [⟨0x2500, 0x2503, 6, 6⟩, ⟨0x2500, 0x2503, 8, 8⟩,
    ⟨0x2500, 0x2503, 9, 9⟩]) (hb_d : d < 4) (h : Own P G z0 z1) : Own P G z0 (Machine.sourceAtOnce x d z1) := by
  refine h.step ?_
  clear h
  unfold Machine.sourceAtOnce
  try dsimp only
  repeat' first
    | (exact hG.sub rfl) | (exact hG.item rfl)
    | with_reducible exact same _ | with_reducible assumption | with_reducible refine branch (fun hc => ?_) (fun hc => ?_)
    | with_reducible apply changeSource | with_reducible apply takeLine | with_reducible apply setArc

theorem sourcesAtOnce {z0 z1 : State} (hp_meas : Part.meas ∈ P) (hG : Cov G [⟨0x2500, 0x2503, 6, 6⟩, ⟨0x2500, 0x2503, 8, 8⟩, ⟨0x2500, 0x2503, 9,
    9⟩]) (h : Own P G z0 z1) : Own P G z0 (Machine.sourcesAtOnce z1) := by
  refine h.step ?_
  clear h
  unfold Machine.sourcesAtOnce
  try dsimp only
  repeat' first
    | (exact hG.sub rfl) | (exact hG.item rfl)
    | with_reducible exact same _ | with_reducible assumption | with_reducible refine branch (fun hc => ?_) (fun hc => ?_)
    | with_reducible apply sourceAtOnce | with_reducible refine foldl ?_ (fun v a ha => ?_)
    | with_reducible refine forN ?_ (fun i v hi => ?_) | omega

theorem plateFollow {z0 z1 : State} {n : Nat} (hp_pairs : Part.pairs ∈ P) (hG : Cov G [⟨0x5200, 0x5247, 8, 8⟩]) (h : Own P G z0 z1) : Own P G z0
    (Machine.plateFollow n z1) := by
  refine h.step ?_
  clear h
  unfold Machine.plateFollow
  try dsimp only
  repeat' first
    | (exact hG.sub rfl) | (exact hG.item rfl)
    | with_reducible exact same _ | with_reducible assumption | with_reducible refine branch (fun hc => ?_) (fun hc => ?_)
    | with_reducible refine setPlate (by assumption) ?_ ?_ | with_reducible apply raise | with_reducible apply setBitO
    | (refine hG.hit 0x5200 0x5247 8 8 rfl ?_ ?_ ?_ ?_ ?_ <;> (first | omega | ((simp only [quantIx, ctrIx, planIx, bankIndex, resIx, pllSide, instRecord, recordIndex, pairsOf, updatesOf, groupPairs, mastersOf, followersOf, maskList, List.mem_filter, List.mem_range, Bool.or_eq_true, Bool.and_eq_true, not_or, decide_eq_true_eq] at *); omega)))
    | exact fun k => interlock_sound (plateOf_sound k _) (by simp_all)
    | exact fun k => (interlock_sound (q := z1.plateOf n) (plateOf_sound k _) (by simp_all) : GatesSound _)

theorem groupToSide {z0 z1 : State} {x : Side} {g : Nat} (hp_pairs : Part.pairs ∈ P) (hG : Cov G [⟨0x5200, 0x5247, 8, 8⟩]) (h : Own P G z0 z1) : Own
    P G z0 (Machine.groupToSide x g z1) := by
  refine h.step ?_
  clear h
  unfold Machine.groupToSide
  try dsimp only
  repeat' first
    | (exact hG.sub rfl) | (exact hG.item rfl)
    | with_reducible exact same _ | with_reducible assumption | with_reducible apply plateFollow | with_reducible refine setPlate (by assumption) ?_ ?_
    | with_reducible refine foldl ?_ (fun v a ha => ?_)
    | exact fun k => plateOf_sound k _

theorem holdGates {z0 z1 : State} (hp_plate : Part.plate ∈ P) (h : Own P G z0 z1) : Own P G z0 (Machine.holdGates z1) := by
  refine h.step ?_
  clear h
  unfold Machine.holdGates
  try dsimp only
  repeat' first
    | with_reducible exact same _ | with_reducible refine branch (fun hc => ?_) (fun hc => ?_) | exact Eq.refl _
    | with_reducible refine plate_set ‹_› ?_ ?_

theorem plateRelease {z0 z1 : State} {n : Nat} (hp_pairs : Part.pairs ∈ P) (h : Own P G z0 z1) : Own P G z0 (Machine.plateRelease n z1) := by
  refine h.step ?_
  clear h
  unfold Machine.plateRelease
  try dsimp only
  repeat' first
    | with_reducible exact same _ | with_reducible assumption | with_reducible refine branch (fun hc => ?_) (fun hc => ?_)
    | with_reducible refine setPlate (by assumption) ?_ ?_
    | exact fun _ => ⟨fun _ => ⟨rfl, rfl⟩, by simp⟩

theorem plateReleaseAll {z0 z1 : State} (hp_pairs : Part.pairs ∈ P) (h : Own P G z0 z1) : Own P G z0 (Machine.plateReleaseAll z1) := by
  refine h.step ?_
  clear h
  unfold Machine.plateReleaseAll
  try dsimp only
  repeat' first
    | with_reducible exact same _ | with_reducible assumption | with_reducible apply plateRelease
    | with_reducible refine forN ?_ (fun i v hi => ?_)

theorem plateBegin {z0 z1 : State} {x : Side} {p : Nat} (hp_pairs : Part.pairs ∈ P) (h : Own P G z0 z1) : Own P G z0 (Machine.plateBegin x p z1) := by
  refine h.step ?_
  clear h
  unfold Machine.plateBegin
  try dsimp only
  repeat' first
    | with_reducible exact same _ | with_reducible assumption | with_reducible refine branch (fun hc => ?_) (fun hc => ?_)
    | with_reducible refine setPlate (by assumption) ?_ ?_
    | exact fun _ => ⟨fun _ => ⟨rfl, rfl⟩, by simp⟩

theorem pairFollow {z0 z1 : State} {p : Nat} (hp_pairs : Part.pairs ∈ P) (hG : Cov G [⟨0x5200, 0x5247, 8, 8⟩]) (h : Own P G z0 z1) : Own P G z0
    (Machine.pairFollow p z1) := by
  refine h.step ?_
  clear h
  unfold Machine.pairFollow
  try dsimp only
  repeat' first
    | (exact hG.sub rfl) | (exact hG.item rfl)
    | with_reducible exact same _ | with_reducible assumption | with_reducible refine branch (fun hc => ?_) (fun hc => ?_)
    | with_reducible apply plateFollow

theorem writeFail {z0 z1 : State} {k : Nat} (hG : Cov G [⟨0x9010, 0x901F, 3, 3⟩]) (hb_k : k < 16) (h : Own P G z0 z1) : Own P G z0
    (Machine.writeFail k z1) := by
  refine h.step ?_
  clear h
  unfold Machine.writeFail
  try dsimp only
  repeat' first
    | (exact hG.sub rfl) | (exact hG.item rfl)
    | with_reducible exact same _ | with_reducible apply raise | with_reducible apply setBitO
    | (refine hG.hit 0x9010 0x901F 3 3 rfl ?_ ?_ ?_ ?_ ?_ <;> omega)

theorem linkKickGo {z0 z1 : State} {n : Nat} (hp_stacks : Part.stacks ∈ P) (hp_sharing : Part.sharing ∈ P) (hG : Cov G [⟨0x9010, 0x901F, 3, 3⟩]) (h
    : Own P G z0 z1) : Own P G z0 (Machine.linkKickGo n z1) := by
  refine h.step ?_
  clear h
  induction n generalizing z1 with
  | zero => exact same _
  | succ n ih =>
    unfold Machine.linkKickGo
    refine ite (same _) ?_
    split
    · rename_i op m h1 h2
      have hm := linkPick_lt h2
      have w : ∀ u, Own P G z1 u → Own P G z1 (Machine.linkKickGo n u) := fun u k => k.step ih
      clear ih
      dsimp only
      repeat' first
        | (exact hG.sub rfl) | (exact hG.item rfl)
        | with_reducible exact same _
        | with_reducible assumption
        | with_reducible refine ite ?_ ?_
        | with_reducible apply setStack
        | with_reducible apply setBitO
        | with_reducible apply countLink
        | with_reducible apply w
        | with_reducible apply writeFail
        | (refine hG.hit 0x9010 0x901F 3 3 rfl ?_ ?_ ?_ ?_ ?_ <;> omega)
        | omega
        | with_reducible refine sharing_set (by assumption) ?_
    · exact same _

theorem initAccount {z0 z1 : State} {k : Nat} (hp_stacks : Part.stacks ∈ P) (hG : Cov G [⟨0x9010, 0x901F, 6, 6⟩, ⟨0x9010, 0x901F, 7, 7⟩, ⟨0x9010,
    0x901F, 8, 8⟩]) (hb_k : k < 16) (h : Own P G z0 z1) : Own P G z0 (Machine.initAccount k z1) := by
  refine h.step ?_
  clear h
  unfold Machine.initAccount
  try dsimp only
  repeat' first
    | (exact hG.sub rfl) | (exact hG.item rfl)
    | with_reducible exact same _ | with_reducible assumption | with_reducible apply setBlob | with_reducible apply setStack
    | (refine hG.hit 0x9010 0x901F 6 6 rfl ?_ ?_ ?_ ?_ ?_ <;> omega) | (refine hG.hit 0x9010 0x901F 7 7 rfl ?_ ?_ ?_ ?_ ?_ <;> omega) | (refine hG.hit 0x9010 0x901F 8 8 rfl ?_ ?_ ?_ ?_ ?_ <;> omega)

theorem applyLeap {z0 z1 : State} (hp_clock : Part.clock ∈ P) (hG : Cov G [⟨0x7030, 0x7030, 5, 5⟩, ⟨0x7030, 0x7030, 6, 6⟩]) (h : Own P G z0 z1) :
    Own P G z0 (Machine.applyLeap z1) := by
  refine h.step ?_
  clear h
  unfold Machine.applyLeap
  try dsimp only
  repeat' first
    | (exact hG.sub rfl) | (exact hG.item rfl)
    | with_reducible exact same _ | with_reducible assumption | with_reducible apply setNum | split
    | with_reducible refine clock_set (by assumption) ?_

theorem beginHoldover {z0 z1 : State} {cause : Nat} (hp_clock : Part.clock ∈ P) (hG : Cov G [⟨0x7000, 0x7000, 5, 5⟩, ⟨0x7000, 0x7000, 8, 8⟩]) (h :
    Own P G z0 z1) : Own P G z0 (Machine.beginHoldover cause z1) := by
  refine h.step ?_
  clear h
  unfold Machine.beginHoldover
  try dsimp only
  repeat' first
    | (exact hG.sub rfl) | (exact hG.item rfl)
    | with_reducible exact same _ | with_reducible assumption | with_reducible refine branch (fun hc => ?_) (fun hc => ?_)
    | with_reducible apply setNum | with_reducible apply setBitO | with_reducible apply raise
    | with_reducible refine clock_set (by assumption) ?_

theorem checkHoldover {z0 z1 : State} {cause : Nat} (hp_clock : Part.clock ∈ P) (hG : Cov G [⟨0x7000, 0x7000, 5, 5⟩, ⟨0x7000, 0x7000, 8, 8⟩]) (h :
    Own P G z0 z1) : Own P G z0 (Machine.checkHoldover cause z1) := by
  refine h.step ?_
  clear h
  unfold Machine.checkHoldover
  try dsimp only
  repeat' first
    | (exact hG.sub rfl) | (exact hG.item rfl)
    | with_reducible exact same _ | with_reducible assumption | with_reducible refine branch (fun hc => ?_) (fun hc => ?_)
    | with_reducible apply beginHoldover

theorem requestStep {z0 z1 : State} {set : Bool} {v : Int} (hp_clock : Part.clock ∈ P) (hG : Cov G [⟨0x7000, 0x7000, 5, 5⟩]) (h : Own P G z0 z1) :
    Own P G z0 (Machine.requestStep set v z1) := by
  refine h.step ?_
  clear h
  unfold Machine.requestStep
  try dsimp only
  repeat' first
    | (exact hG.sub rfl) | (exact hG.item rfl)
    | with_reducible exact same _ | with_reducible assumption | with_reducible refine branch (fun hc => ?_) (fun hc => ?_)
    | with_reducible apply raise | with_reducible apply setBitO | with_reducible refine clock_set (by assumption) ?_

theorem endPathHold {z0 z1 : State} {x way : Nat} {held : Int} (hp_ptp : Part.ptp ∈ P) (hG : Cov G [⟨0x7028, 0x7029, 2, 2⟩, ⟨0x7028, 0x7029, 3, 3⟩])
    (hb_x : x < 2) (h : Own P G z0 z1) : Own P G z0 (Machine.endPathHold x way held z1) := by
  refine h.step ?_
  clear h
  unfold Machine.endPathHold
  try dsimp only
  repeat' first
    | (exact hG.sub rfl) | (exact hG.item rfl)
    | with_reducible exact same _ | with_reducible assumption | with_reducible apply setNum | with_reducible apply setBitO
    | with_reducible apply raise | with_reducible apply setPtpPort | (refine hG.hit 0x7028 0x7029 2 2 rfl ?_ ?_ ?_ ?_ ?_ <;> omega) | (refine hG.hit 0x7028 0x7029 3 3 rfl ?_ ?_ ?_ ?_ ?_ <;> omega)

theorem confirmPath {z0 z1 : State} {port value : Nat} (hp_ptp : Part.ptp ∈ P) (hG : Cov G [⟨0x7028, 0x7029, 2, 2⟩, ⟨0x7028, 0x7029, 3, 3⟩, ⟨0x7028,
    0x7029, 4, 4⟩]) (hb_port : port < 2) (h : Own P G z0 z1) : Own P G z0 (Machine.confirmPath port value z1) := by
  refine h.step ?_
  clear h
  unfold Machine.confirmPath
  try dsimp only
  repeat' first
    | (exact hG.sub rfl) | (exact hG.item rfl)
    | with_reducible exact same _ | with_reducible assumption | with_reducible refine branch (fun hc => ?_) (fun hc => ?_)
    | with_reducible apply endPathHold | with_reducible apply setNum | with_reducible apply setBitO
    | (refine hG.hit 0x7028 0x7029 2 2 rfl ?_ ?_ ?_ ?_ ?_ <;> omega) | (refine hG.hit 0x7028 0x7029 4 4 rfl ?_ ?_ ?_ ?_ ?_ <;> omega)

theorem setPortState {z0 z1 : State} {x v : Nat} (hG : Cov G [⟨0x7028, 0x7029, 1, 1⟩]) (hb_x : x < 2) (h : Own P G z0 z1) : Own P G z0
    (Machine.setPortState z1 x v) := by
  refine h.step ?_
  clear h
  unfold Machine.setPortState
  try dsimp only
  repeat' first
    | (exact hG.sub rfl) | (exact hG.item rfl)
    | with_reducible exact same _ | with_reducible refine branch (fun hc => ?_) (fun hc => ?_) | with_reducible apply raise
    | with_reducible apply setNum | (refine hG.hit 0x7028 0x7029 1 1 rfl ?_ ?_ ?_ ?_ ?_ <;> omega)

theorem portsByRole {z0 z1 : State} (hG : Cov G [⟨0x7028, 0x7029, 1, 1⟩]) (h : Own P G z0 z1) : Own P G z0 (Machine.portsByRole z1) := by
  refine h.step ?_
  clear h
  unfold Machine.portsByRole
  try dsimp only
  repeat' first
    | (exact hG.sub rfl) | (exact hG.item rfl)
    | with_reducible exact same _ | with_reducible assumption | with_reducible apply setPortState | omega

theorem setSynced {z0 z1 : State} {b : Bool} (hp_clock : Part.clock ∈ P) (hG : Cov G [⟨0x7000, 0x7000, 5, 5⟩]) (h : Own P G z0 z1) : Own P G z0
    (Machine.setSynced z1 b) := by
  refine h.step ?_
  clear h
  unfold Machine.setSynced
  try dsimp only
  repeat' first
    | (exact hG.sub rfl) | (exact hG.item rfl)
    | with_reducible exact same _ | with_reducible assumption | with_reducible refine branch (fun hc => ?_) (fun hc => ?_)
    | with_reducible apply raise | with_reducible apply setBitO | with_reducible refine clock_set (by assumption) ?_

theorem timeRoleCommitted {z0 z1 : State} (hp_ptp : Part.ptp ∈ P) (hp_clock : Part.clock ∈ P) (hG : Cov G [⟨0x7000, 0x7000, 5, 5⟩, ⟨0x7028, 0x7028,
    2, 2⟩, ⟨0x7028, 0x7029, 1, 1⟩, ⟨0x7029, 0x7029, 2, 2⟩]) (h : Own P G z0 z1) : Own P G z0 (Machine.timeRoleCommitted z1) := by
  refine h.step ?_
  clear h
  unfold Machine.timeRoleCommitted
  try dsimp only
  repeat' first
    | (exact hG.sub rfl) | (exact hG.item rfl)
    | with_reducible assumption | with_reducible refine branch (fun hc => ?_) (fun hc => ?_) | with_reducible apply setBitO
    | with_reducible apply portsByRole | with_reducible apply setSynced | (refine of_pairs ?_ rfl; constructor <;> intros <;> first | rfl | contradiction)

theorem enterSuspect {z0 z1 : State} {x : Nat} {d : List Int} (hp_ptp : Part.ptp ∈ P) (hG : Cov G [⟨0x7028, 0x7029, 2, 2⟩]) (hb_x : x < 2) (h : Own
    P G z0 z1) : Own P G z0 (Machine.enterSuspect x d z1) := by
  refine h.step ?_
  clear h
  unfold Machine.enterSuspect
  try dsimp only
  repeat' first
    | (exact hG.sub rfl) | (exact hG.item rfl)
    | with_reducible exact same _ | with_reducible assumption | with_reducible refine branch (fun hc => ?_) (fun hc => ?_)
    | with_reducible apply setBitO | with_reducible apply setPtpPort | (refine hG.hit 0x7028 0x7029 2 2 rfl ?_ ?_ ?_ ?_ ?_ <;> omega)

theorem writeIncrement {z0 z1 : State} {v : Nat} (hG : Cov G [⟨0x7000, 0x7000, 2, 2⟩, ⟨0x7000, 0x7000, 5, 5⟩]) (h : Own P G z0 z1) : Own P G z0
    (Machine.writeIncrement v z1) := by
  refine h.step ?_
  clear h
  unfold Machine.writeIncrement
  try dsimp only
  repeat' first
    | (exact hG.sub rfl) | (exact hG.item rfl)
    | with_reducible exact same _ | with_reducible assumption | with_reducible refine branch (fun hc => ?_) (fun hc => ?_)
    | with_reducible apply raise | with_reducible apply setBitO | with_reducible apply setNum

theorem mvStamped {z0 z1 : State} {d : Int} (hp_meas : Part.meas ∈ P) (hp_graphs : Part.graphs ∈ P) (hp_gf : Part.gf ∈ P) (hp_plate : Part.plate ∈
    P) (hp_stacks : Part.stacks ∈ P) (hp_sides : Part.sides ∈ P) (hp_sharing : Part.sharing ∈ P) (hp_clock : Part.clock ∈ P) (hp_capture :
    Part.capture ∈ P) (hp_scribe : Part.scribe ∈ P) (hp_boot : Part.boot ∈ P) (hp_net : Part.net ∈ P) (h : Own P G z0 z1) : Own P G z0 (Machine.mvStamped d z1) := by
  refine h.step ?_
  clear h
  unfold Machine.mvStamped
  try dsimp only
  repeat' first
    | with_reducible exact same _ | with_reducible assumption | with_reducible refine branch (fun hc => ?_) (fun hc => ?_) | omega
    | (refine of_pairs ?_ rfl; constructor <;> intros <;> first | rfl | contradiction) | split
    | with_reducible refine graphs_set (by assumption) ?_ | with_reducible refine plate_set ‹_› ?_ ?_
    | with_reducible refine meas_set (by assumption) ?_ | with_reducible refine gf_set (by assumption) ?_
    | with_reducible refine scribe_set (by assumption) ?_ | with_reducible refine capture_set (by assumption) ?_
    | with_reducible refine clock_set (by assumption) ?_ | with_reducible refine sharing_set (by assumption) ?_
    | with_reducible refine stk_set (by assumption) ?_ | with_reducible refine boot_set (by assumption) ?_
    | with_reducible refine sides_set (by assumption) ?_ | with_reducible refine net_set (by assumption) ?_ | exact Eq.refl _

theorem stepOne {z0 z1 : State} {c : Bool × Int × Nat} (hp_time : Part.time ∈ P) (hp_meas : Part.meas ∈ P) (hp_graphs : Part.graphs ∈ P) (hp_gf :
    Part.gf ∈ P) (hp_plate : Part.plate ∈ P) (hp_stacks : Part.stacks ∈ P) (hp_sides : Part.sides ∈ P) (hp_sharing : Part.sharing ∈ P) (hp_clock :
    Part.clock ∈ P) (hp_capture : Part.capture ∈ P) (hp_scribe : Part.scribe ∈ P) (hp_boot : Part.boot ∈ P) (hp_net : Part.net ∈ P) (hG : Cov G
    [⟨0x7000, 0x7000, 6, 6⟩, ⟨0x7000, 0x7000, 7, 7⟩]) (h : Own P G z0 z1) : Own P G z0 (Machine.stepOne c z1) := by
  refine h.step ?_
  clear h
  unfold Machine.stepOne
  try dsimp only
  repeat' first
    | (exact hG.sub rfl) | (exact hG.item rfl) | with_reducible exact same _ | with_reducible assumption
    | with_reducible refine branch (fun hc => ?_) (fun hc => ?_) | with_reducible apply incSat | with_reducible apply mvStamped
    | with_reducible apply raise | with_reducible apply setNum | omega
    | (refine of_pairs ?_ rfl; constructor <;> intros <;> first | rfl | contradiction) | split
    | with_reducible refine ridge_set (by assumption) ?_ | with_reducible refine clock_set (by assumption) ?_

theorem leaveSuspect {z0 z1 : State} {x : Nat} (hG : Cov G [⟨0x7028, 0x7029, 2, 2⟩]) (hb_x : x < 2) (h : Own P G z0 z1) : Own P G z0
    (Machine.leaveSuspect x z1) := by
  refine h.step ?_
  clear h
  unfold Machine.leaveSuspect
  try dsimp only
  repeat' first
    | (exact hG.sub rfl) | (exact hG.item rfl)
    | with_reducible exact same _ | with_reducible refine branch (fun hc => ?_) (fun hc => ?_) | with_reducible apply setBitO
    | (refine hG.hit 0x7028 0x7029 2 2 rfl ?_ ?_ ?_ ?_ ?_ <;> omega)

theorem servoStep {z0 z1 : State} {o : Int} (hp_clock : Part.clock ∈ P) (hG : Cov G [⟨0x7000, 0x7000, 2, 2⟩]) (h : Own P G z0 z1) : Own P G z0
    (Machine.servoStep o z1) := by
  refine h.step ?_
  clear h
  unfold Machine.servoStep
  try dsimp only
  repeat' first
    | (exact hG.sub rfl) | (exact hG.item rfl)
    | with_reducible exact same _ | with_reducible assumption | with_reducible refine branch (fun hc => ?_) (fun hc => ?_)
    | with_reducible apply setNum | with_reducible refine clock_set (by assumption) ?_

theorem judgeSync {z0 z1 : State} {o : Int} (hp_clock : Part.clock ∈ P) (hG : Cov G [⟨0x7000, 0x7000, 5, 5⟩]) (h : Own P G z0 z1) : Own P G z0
    (Machine.judgeSync o z1) := by
  refine h.step ?_
  clear h
  unfold Machine.judgeSync
  try dsimp only
  repeat' first
    | (exact hG.sub rfl) | (exact hG.item rfl)
    | with_reducible exact same _ | with_reducible assumption | with_reducible refine branch (fun hc => ?_) (fun hc => ?_)
    | with_reducible apply setSynced | with_reducible refine clock_set (by assumption) ?_

theorem useOffset {z0 z1 : State} {o : Int} (hp_clock : Part.clock ∈ P) (hG : Cov G [⟨0x7000, 0x7000, 2, 2⟩, ⟨0x7000, 0x7000, 5, 5⟩]) (h : Own P G
    z0 z1) : Own P G z0 (Machine.useOffset o z1) := by
  refine h.step ?_
  clear h
  unfold Machine.useOffset
  try dsimp only
  repeat' first
    | (exact hG.sub rfl) | (exact hG.item rfl)
    | with_reducible exact same _ | with_reducible assumption | with_reducible refine branch (fun hc => ?_) (fun hc => ?_)
    | with_reducible apply raise | with_reducible apply setBitO | with_reducible apply servoStep | with_reducible apply judgeSync

theorem takeSync {z0 z1 : State} {x : Nat} {o : Int} (hp_ptp : Part.ptp ∈ P) (hp_clock : Part.clock ∈ P) (hG : Cov G [⟨0x7000, 0x7000, 2, 2⟩,
    ⟨0x7000, 0x7000, 5, 5⟩, ⟨0x7000, 0x7000, 8, 8⟩, ⟨0x7010, 0x7010, 7, 7⟩, ⟨0x7010, 0x7010, 8, 8⟩, ⟨0x7020, 0x7020, 7, 7⟩, ⟨0x7028, 0x7029, 2, 2⟩])
    (hb_x : x < 2) (h : Own P G z0 z1) : Own P G z0 (Machine.takeSync x o z1) := by
  refine h.step ?_
  clear h
  unfold Machine.takeSync
  try dsimp only
  repeat' first
    | (exact hG.sub rfl) | (exact hG.item rfl)
    | with_reducible exact same _ | with_reducible assumption | with_reducible refine branch (fun hc => ?_) (fun hc => ?_)
    | with_reducible apply setPtpPort | with_reducible apply enterSuspect | with_reducible apply leaveSuspect | with_reducible apply raise
    | with_reducible apply incWrap | with_reducible apply setNum | with_reducible apply useOffset | with_reducible apply checkHoldover
    | split | with_reducible refine clock_set (by assumption) ?_

theorem pathMeasure {z0 z1 : State} {x : Nat} {d : Int} (hp_ptp : Part.ptp ∈ P) (hp_clock : Part.clock ∈ P) (hG : Cov G [⟨0x7000, 0x7000, 5, 5⟩,
    ⟨0x7000, 0x7000, 8, 8⟩, ⟨0x7028, 0x7029, 2, 2⟩, ⟨0x7028, 0x7029, 3, 3⟩]) (hb_x : x < 2) (h : Own P G z0 z1) : Own P G z0 (Machine.pathMeasure x
    d z1) := by
  refine h.step ?_
  clear h
  unfold Machine.pathMeasure
  try dsimp only
  repeat' first
    | (exact hG.sub rfl) | (exact hG.item rfl)
    | with_reducible exact same _ | with_reducible assumption | with_reducible refine branch (fun hc => ?_) (fun hc => ?_)
    | with_reducible apply setPtpPort | with_reducible apply endPathHold | with_reducible apply enterSuspect | with_reducible apply raise
    | with_reducible apply setBitO | with_reducible apply checkHoldover | with_reducible apply leaveSuspect | with_reducible apply setNum
    | (refine hG.hit 0x7028 0x7029 2 2 rfl ?_ ?_ ?_ ?_ ?_ <;> omega) | (refine hG.hit 0x7028 0x7029 3 3 rfl ?_ ?_ ?_ ?_ ?_ <;> omega)

theorem takeAnnounce {z0 z1 : State} {x : Nat} {ds : List Nat} (hp_ptp : Part.ptp ∈ P) (hG : Cov G [⟨0x7028, 0x7029, 1, 1⟩, ⟨0x7028, 0x7029, 2, 2⟩])
    (hb_x : x < 2) (h : Own P G z0 z1) : Own P G z0 (Machine.takeAnnounce x ds z1) := by
  refine h.step ?_
  clear h
  unfold Machine.takeAnnounce
  try dsimp only
  repeat' first
    | (exact hG.sub rfl) | (exact hG.item rfl)
    | with_reducible exact same _ | with_reducible assumption | with_reducible apply setPtpPort | with_reducible apply portsByRole
    | with_reducible apply setBitO | (refine hG.hit 0x7028 0x7029 2 2 rfl ?_ ?_ ?_ ?_ ?_ <;> omega)

theorem loseMaster {z0 z1 : State} {x : Nat} (hp_ptp : Part.ptp ∈ P) (hp_clock : Part.clock ∈ P) (hG : Cov G [⟨0x7000, 0x7000, 5, 5⟩, ⟨0x7000,
    0x7000, 8, 8⟩, ⟨0x7028, 0x7029, 1, 1⟩, ⟨0x7028, 0x7029, 2, 2⟩]) (hb_x : x < 2) (h : Own P G z0 z1) : Own P G z0 (Machine.loseMaster x z1) := by
  refine h.step ?_
  clear h
  unfold Machine.loseMaster
  try dsimp only
  repeat' first
    | (exact hG.sub rfl) | (exact hG.item rfl)
    | with_reducible exact same _ | with_reducible assumption | with_reducible refine branch (fun hc => ?_) (fun hc => ?_)
    | with_reducible apply setPtpPort | with_reducible apply portsByRole | with_reducible apply setBitO
    | with_reducible apply checkHoldover | (refine hG.hit 0x7028 0x7029 2 2 rfl ?_ ?_ ?_ ?_ ?_ <;> omega)

theorem takePps {z0 z1 : State} {stamp : Nat} (hp_clock : Part.clock ∈ P) (hG : Cov G [⟨0x7000, 0x7000, 2, 2⟩, ⟨0x7000, 0x7000, 5, 5⟩, ⟨0x7010,
    0x7010, 7, 7⟩, ⟨0x7010, 0x7010, 8, 8⟩, ⟨0x7030, 0x7030, 4, 4⟩]) (h : Own P G z0 z1) : Own P G z0 (Machine.takePps stamp z1) := by
  refine h.step ?_
  clear h
  unfold Machine.takePps
  try dsimp only
  repeat' first
    | (exact hG.sub rfl) | (exact hG.item rfl)
    | with_reducible exact same _ | with_reducible assumption | with_reducible refine branch (fun hc => ?_) (fun hc => ?_)
    | with_reducible apply setNum | with_reducible apply useOffset | with_reducible apply incWrap
    | with_reducible refine clock_set (by assumption) ?_

theorem writeTimeValid {z0 z1 : State} {b : Bool} (hp_clock : Part.clock ∈ P) (hG : Cov G [⟨0x7000, 0x7000, 5, 5⟩]) (h : Own P G z0 z1) : Own P G z0
    (Machine.writeTimeValid b z1) := by
  refine h.step ?_
  clear h
  unfold Machine.writeTimeValid
  try dsimp only
  repeat' first
    | (exact hG.sub rfl) | (exact hG.item rfl)
    | with_reducible exact same _ | with_reducible assumption | with_reducible refine branch (fun hc => ?_) (fun hc => ?_)
    | with_reducible apply setBitO | with_reducible apply setSynced

theorem writeUtcOffset {z0 z1 : State} {v : Nat} (hp_clock : Part.clock ∈ P) (hG : Cov G [⟨0x7000, 0x7000, 5, 5⟩, ⟨0x7030, 0x7030, 5, 5⟩]) (h :
    Own P G z0 z1) : Own P G z0 (Machine.writeUtcOffset v z1) := by
  refine h.step ?_
  clear h
  unfold Machine.writeUtcOffset
  try dsimp only
  repeat' first
    | (exact hG.sub rfl) | (exact hG.item rfl) | with_reducible exact same _ | with_reducible assumption | with_reducible apply setBitO
    | with_reducible apply setNum | with_reducible refine clock_set (by assumption) ?_

theorem judgeAlign {z0 z1 : State} (hp_meas : Part.meas ∈ P) (h : Own P G z0 z1) : Own P G z0 (Machine.judgeAlign z1) := by
  refine h.step ?_
  clear h
  unfold Machine.judgeAlign
  try dsimp only
  repeat' first
    | with_reducible exact same _ | with_reducible assumption | with_reducible refine branch (fun hc => ?_) (fun hc => ?_) | omega | split
    | with_reducible refine meas_set (by assumption) ?_

end Own
end Sys2Proof
end

