-- ==== Sys2Proof/Laws/OnlyFail.lean ====
section
/-!
SUPPORT. What each operation can move, one lemma each: faults and grid-forming entries, spares and modulation.
-/

set_option Elab.async false
set_option maxRecDepth 2000
set_option linter.unusedVariables false
set_option linter.unusedSimpArgs false
namespace Sys2Proof
open Sys2Proof.Machine
variable {P : List Part} {G : List Objs}
namespace Own

theorem noteCause {z0 z1 : State} {code : Nat} (hp_gf : Part.gf ∈ P) (h : Own P G z0 z1) : Own P G z0 (Machine.noteCause code z1) := by
  refine h.step ?_
  clear h
  unfold Machine.noteCause
  try dsimp only
  repeat' first
    | with_reducible exact same _ | with_reducible refine branch (fun hc => ?_) (fun hc => ?_) | split
    | with_reducible refine gf_set (by assumption) ?_

theorem modCarrier {z0 z1 : State} {x : Side} {g : Nat} {f : Carrier → Carrier} (hp_plate : Part.plate ∈ P) (h : Own P G z0 z1) : Own P G z0
    (Machine.State.modCarrier z1 x g f) := by
  refine h.step ?_
  clear h
  unfold Machine.State.modCarrier
  try dsimp only
  repeat' first
    | with_reducible exact same _ | with_reducible assumption | with_reducible apply setSill

theorem modPair {z0 z1 : State} {x : Side} {p : Nat} {f : SillPair → SillPair} (hp_plate : Part.plate ∈ P) (h : Own P G z0 z1) : Own P G z0
    (Machine.State.modPair z1 x p f) := by
  refine h.step ?_
  clear h
  unfold Machine.State.modPair
  try dsimp only
  repeat' first
    | with_reducible exact same _ | with_reducible assumption | with_reducible apply setSill

theorem setUpdate {z0 z1 : State} {x : Side} {u : Nat} {v : Update} (hp_plate : Part.plate ∈ P) (h : Own P G z0 z1) : Own P G z0
    (Machine.State.setUpdate z1 x u v) := by
  refine h.step ?_
  clear h
  unfold Machine.State.setUpdate
  try dsimp only
  repeat' first
    | with_reducible exact same _ | with_reducible assumption | with_reducible apply setSill

theorem windowClosed {z0 z1 : State} {x : Side} {u : Nat} (hG : Cov G [⟨0x5140, 0x515F, 2, 2⟩]) (hb_u : u < 32) (h : Own P G z0 z1) : Own P G z0
    (Machine.windowClosed x u z1) := by
  refine h.step ?_
  clear h
  have := sideIx_lt x
  unfold Machine.windowClosed
  try dsimp only
  repeat' first
    | (exact hG.sub rfl) | (exact hG.item rfl)
    | with_reducible exact same _ | with_reducible refine branch (fun hc => ?_) (fun hc => ?_) | with_reducible apply raise
    | with_reducible apply setBitO | (refine hG.hit 0x5140 0x515F 2 2 rfl ?_ ?_ ?_ ?_ ?_ <;> omega)

theorem commitUpdate {z0 z1 : State} {x : Side} {u : Nat} (hp_plate : Part.plate ∈ P) (hG : Cov G [⟨0x5140, 0x515F, 2, 2⟩]) (hb_u : u < 32) (h : Own
    P G z0 z1) : Own P G z0 (Machine.commitUpdate x u z1) := by
  refine h.step ?_
  clear h
  have := sideIx_lt x
  unfold Machine.commitUpdate
  try dsimp only
  repeat' first
    | (exact hG.sub rfl) | (exact hG.item rfl) | with_reducible exact same _ | with_reducible assumption
    | with_reducible refine branch (fun hc => ?_) (fun hc => ?_) | with_reducible apply modCarrier | with_reducible apply modPair
    | with_reducible apply setUpdate | with_reducible apply windowClosed | with_reducible refine foldl ?_ (fun v a ha => ?_) | omega | split

theorem dueCommits {z0 z1 : State} {x : Side} (hp_graphs : Part.graphs ∈ P) (hp_plate : Part.plate ∈ P) (hG : Cov G [⟨0x5140, 0x515F, 2, 2⟩]) (h :
    Own P G z0 z1) : Own P G z0 (Machine.dueCommits x z1) := by
  refine h.step ?_
  clear h
  have := sideIx_lt x
  unfold Machine.dueCommits
  try dsimp only
  repeat' first
    | (exact hG.sub rfl) | (exact hG.item rfl) | with_reducible exact same _ | with_reducible assumption
    | with_reducible refine branch (fun hc => ?_) (fun hc => ?_) | with_reducible apply commitUpdate | with_reducible apply setGraph
    | with_reducible refine forMask ?_ (fun i v hi => ?_) | with_reducible refine atInstant ?_ (fun v => ?_) | omega | split

theorem dueTorn {z0 z1 : State} {x : Side} (hp_plate : Part.plate ∈ P) (hG : Cov G [⟨0x5140, 0x515F, 2, 2⟩]) (h : Own P G z0 z1) : Own P G z0
    (Machine.dueTorn x z1) := by
  refine h.step ?_
  clear h
  have := sideIx_lt x
  unfold Machine.dueTorn
  try dsimp only
  repeat' first
    | (exact hG.sub rfl) | (exact hG.item rfl) | with_reducible exact same _ | with_reducible assumption
    | with_reducible refine branch (fun hc => ?_) (fun hc => ?_) | with_reducible apply raise | with_reducible apply setBitO
    | with_reducible apply setUpdate | with_reducible refine forN ?_ (fun i v hi => ?_) | with_reducible refine atRidge ?_ (fun v => ?_)
    | (refine hG.hit 0x5140 0x515F 2 2 rfl ?_ ?_ ?_ ?_ ?_ <;> (first | omega | ((try simp only [quantIx, ctrIx, planIx, bankIndex, resIx, pllSide, instRecord, recordIndex]); omega) | (simp only [Bool.and_eq_true, decide_eq_true_eq] at *; omega)))
    | omega | split

theorem clearSide {z0 z1 : State} {x : Side} (hp_meas : Part.meas ∈ P) (hp_graphs : Part.graphs ∈ P) (hp_plate : Part.plate ∈ P) (hp_sides :
    Part.sides ∈ P) (hp_capture : Part.capture ∈ P) (h : Own P G z0 z1) : Own P G z0 (Machine.clearSide x z1) := by
  refine h.step ?_
  clear h
  unfold Machine.clearSide
  dsimp only
  refine step (b := (z1.setSill x Sill.init).setGraph x Graph.init) ?_ ?_
  · exact setGraph hp_graphs (setSill hp_plate (same _))
  · generalize (z1.setSill x Sill.init).setGraph x Graph.init = u
    repeat' first
      | with_reducible exact same _
      | with_reducible apply setSideRt
      | with_reducible assumption
      | (refine of_pairs ?_ rfl; constructor <;> intros <;> first | rfl | contradiction)

theorem pllOff {z0 z1 : State} {p : Nat} (hG : Cov G [⟨0x7100, 0x7104, 3, 3⟩]) (hb_p : p < 5) (h : Own P G z0 z1) : Own P G z0 (Machine.pllOff p z1)
    := by
  refine h.step ?_
  clear h
  unfold Machine.pllOff
  try dsimp only
  repeat' first
    | (exact hG.sub rfl) | (exact hG.item rfl)
    | with_reducible exact same _ | with_reducible apply setBitO | (refine hG.hit 0x7100 0x7104 3 3 rfl ?_ ?_ ?_ ?_ ?_ <;> omega)

theorem setSideBays {z0 z1 : State} {x : Side} {m : Nat} (hG : Cov G [⟨0x7050, 0x7050, 1, 1⟩]) (h : Own P G z0 z1) : Own P G z0 (Machine.setSideBays
    x m z1) := by
  refine h.step ?_
  clear h
  have := sideIx_lt x
  unfold Machine.setSideBays
  try dsimp only
  repeat' first
    | (exact hG.sub rfl) | (exact hG.item rfl) | with_reducible exact same _ | with_reducible assumption | with_reducible apply setFld | omega
    | split

theorem startReinit {z0 z1 : State} {x : Side} (hp_meas : Part.meas ∈ P) (hp_graphs : Part.graphs ∈ P) (hp_plate : Part.plate ∈ P) (hp_sides :
    Part.sides ∈ P) (hp_capture : Part.capture ∈ P) (hG : Cov G [⟨0x6021, 0x6021, 1, 1⟩, ⟨0x7050, 0x7050, 1, 1⟩, ⟨0x7100, 0x7104, 3, 3⟩]) (h : Own P
    G z0 z1) : Own P G z0 (Machine.startReinit x z1) := by
  refine h.step ?_
  clear h
  have := sideIx_lt x
  unfold Machine.startReinit
  try dsimp only
  repeat' first
    | (exact hG.sub rfl) | (exact hG.item rfl) | with_reducible exact same _ | with_reducible assumption | with_reducible apply clearSide
    | with_reducible apply pllOff | with_reducible apply raise | with_reducible apply setSideBays | with_reducible apply setSideRt
    | with_reducible apply setSideState | omega

theorem allToSide {z0 z1 : State} {x : Side} (hp_pairs : Part.pairs ∈ P) (hG : Cov G [⟨0x5200, 0x5247, 8, 8⟩]) (h : Own P G z0 z1) : Own P G z0
    (Machine.allToSide x z1) := by
  refine h.step ?_
  clear h
  unfold Machine.allToSide
  try dsimp only
  repeat' first
    | (exact hG.sub rfl) | (exact hG.item rfl)
    | with_reducible exact same _ | with_reducible assumption | with_reducible apply groupToSide
    | with_reducible refine forN ?_ (fun i v hi => ?_)

theorem setStage {z0 z1 : State} {n : Nat} (hG : Cov G [⟨0xB000, 0xB000, 1, 1⟩, ⟨0xB000, 0xB000, 4, 4⟩]) (h : Own P G z0 z1) : Own P G z0
    (Machine.setStage n z1) := by
  refine h.step ?_
  clear h
  unfold Machine.setStage
  try dsimp only
  repeat' first
    | (exact hG.sub rfl) | (exact hG.item rfl)
    | with_reducible exact same _ | with_reducible assumption | with_reducible apply setBlob | with_reducible apply setFld

theorem setDegraded {z0 z1 : State} {b : Bool} (hG : Cov G [⟨0x6000, 0x6000, 2, 2⟩]) (h : Own P G z0 z1) : Own P G z0 (Machine.setDegraded b z1) := by
  refine h.step ?_
  clear h
  unfold Machine.setDegraded
  try dsimp only
  repeat' first
    | (exact hG.sub rfl) | (exact hG.item rfl)
    | with_reducible exact same _ | with_reducible assumption | with_reducible apply setBitO

theorem discardTests {z0 z1 : State} {m : Nat} (hp_safety : Part.safety ∈ P) (h : Own P G z0 z1) : Own P G z0 (Machine.discardTests m z1) := by
  refine h.step ?_
  clear h
  unfold Machine.discardTests
  try dsimp only
  repeat' first
    | with_reducible exact same _ | with_reducible refine safety_set (by assumption) ?_

theorem setPermits {z0 z1 : State} {a : Bool} {b : Bool} (hp_safety : Part.safety ∈ P) (hG : Cov G [⟨0x6800, 0x6800, 2, 2⟩]) (h : Own P G z0 z1) :
    Own P G z0 (Machine.setPermits a b z1) := by
  refine h.step ?_
  clear h
  unfold Machine.setPermits
  try dsimp only
  repeat' first
    | (exact hG.sub rfl) | (exact hG.item rfl) | with_reducible exact same _ | with_reducible assumption | with_reducible apply setBitO
    | with_reducible refine safety_set (by assumption) ?_

theorem clearPermit {z0 z1 : State} (hp_safety : Part.safety ∈ P) (hG : Cov G [⟨0x6800, 0x6800, 2, 2⟩]) (h : Own P G z0 z1) : Own P G z0
    (Machine.clearPermit z1) := by
  refine h.step ?_
  clear h
  unfold Machine.clearPermit
  try dsimp only
  repeat' first
    | (exact hG.sub rfl) | (exact hG.item rfl) | with_reducible exact same _ | with_reducible assumption | with_reducible apply setPermits
    | with_reducible apply discardTests | with_reducible apply setBitO

theorem releaseClose {z0 z1 : State} (hp_gf : Part.gf ∈ P) (hG : Cov G [⟨0x4001, 0x4001, 3, 3⟩]) (h : Own P G z0 z1) : Own P G z0
    (Machine.releaseClose z1) := by
  refine h.step ?_
  clear h
  unfold Machine.releaseClose
  try dsimp only
  repeat' first
    | (exact hG.sub rfl) | (exact hG.item rfl)
    | with_reducible exact same _ | with_reducible assumption | with_reducible apply setBitO
    | with_reducible refine gf_set (by assumption) ?_

theorem leaveCommission {z0 z1 : State} {way : Nat} (hp_plate : Part.plate ∈ P) (hp_pairs : Part.pairs ∈ P) (hG : Cov G [⟨0x5300, 0x5300, 4, 4⟩,
    ⟨0x5320, 0x5320, 2, 2⟩]) (h : Own P G z0 z1) : Own P G z0 (Machine.leaveCommission way z1) := by
  refine h.step ?_
  clear h
  unfold Machine.leaveCommission
  try dsimp only
  repeat' first
    | (exact hG.sub rfl) | (exact hG.item rfl)
    | with_reducible exact same _ | with_reducible assumption | with_reducible refine branch (fun hc => ?_) (fun hc => ?_)
    | with_reducible apply plateRelease | with_reducible apply plateReleaseAll | with_reducible apply raise | with_reducible apply setBitO
    | with_reducible apply setBlob | with_reducible refine forN ?_ (fun i v hi => ?_) | split
    | with_reducible refine plate_set (by assumption) (by exact Eq.refl _) ?_

theorem setEnables {z0 z1 : State} {on : Bool} (hp_safety : Part.safety ∈ P) (h : Own P G z0 z1) : Own P G z0 (Machine.setEnables on z1) := by
  refine h.step ?_
  clear h
  unfold Machine.setEnables
  try dsimp only
  repeat' first
    | with_reducible exact same _ | with_reducible assumption | omega | with_reducible refine safety_set (by assumption) ?_

theorem orderChange {z0 z1 : State} {y : Side} {cause : Nat} (hG : Cov G [⟨0x6000, 0x6000, 2, 2⟩, ⟨0x6021, 0x6021, 1, 1⟩, ⟨0x6021, 0x6021, 2, 2⟩,
    ⟨0x6021, 0x6021, 3, 3⟩]) (h : Own P G z0 z1) : Own P G z0 (Machine.orderChange y cause z1) := by
  refine h.step ?_
  clear h
  unfold Machine.orderChange
  try dsimp only
  repeat' first
    | (exact hG.sub rfl) | (exact hG.item rfl)
    | with_reducible exact same _ | with_reducible assumption | with_reducible apply setBitO | with_reducible apply setFld
    | with_reducible apply setNum

theorem kerfOpen {z0 z1 : State} {new : Side} {lv : Nat} (hp_sides : Part.sides ∈ P) (h : Own P G z0 z1) : Own P G z0 (Machine.kerfOpen new lv z1)
    := by
  refine h.step ?_
  clear h
  have := sideIx_lt new
  unfold Machine.kerfOpen
  try dsimp only
  repeat' first
    | with_reducible exact same _ | with_reducible assumption | with_reducible apply raise | omega
    | with_reducible refine sides_set (by assumption) ?_

theorem haltDevice {z0 z1 : State} {cause : Nat} (hG : Cov G [⟨0xB000, 0xB000, 1, 1⟩, ⟨0xB000, 0xB000, 4, 4⟩]) (h : Own P G z0 z1) : Own P G z0
    (Machine.haltDevice cause z1) := by
  refine h.step ?_
  clear h
  unfold Machine.haltDevice
  try dsimp only
  repeat' first
    | (exact hG.sub rfl) | (exact hG.item rfl)
    | with_reducible exact same _ | with_reducible assumption | with_reducible refine branch (fun hc => ?_) (fun hc => ?_)
    | with_reducible apply setFld | with_reducible apply setStage

theorem failAttempt {z0 z1 : State} {x : Side} {noRetry : Bool} (hp_sides : Part.sides ∈ P) (hG : Cov G [⟨0x6021, 0x6021, 1, 1⟩]) (h : Own P G z0
    z1) : Own P G z0 (Machine.failAttempt x noRetry z1) := by
  refine h.step ?_
  clear h
  unfold Machine.failAttempt
  try dsimp only
  repeat' first
    | (exact hG.sub rfl) | (exact hG.item rfl)
    | with_reducible exact same _ | with_reducible assumption | with_reducible refine branch (fun hc => ?_) (fun hc => ?_)
    | with_reducible apply setSideState | with_reducible apply setSideRt | with_reducible apply raise

theorem armSpare {z0 z1 : State} {k : Nat} {r : Nat} (hp_stacks : Part.stacks ∈ P) (hG : Cov G [⟨0x9010, 0x901F, 3, 3⟩]) (hb_k : k < 16) (h : Own P
    G z0 z1) : Own P G z0 (Machine.armSpare k r z1) := by
  refine h.step ?_
  clear h
  unfold Machine.armSpare
  try dsimp only
  repeat' first
    | (exact hG.sub rfl) | (exact hG.item rfl) | with_reducible exact same _ | with_reducible assumption | with_reducible apply raise
    | with_reducible apply setBitO | with_reducible apply setStack
    | (refine hG.hit 0x9010 0x901F 3 3 rfl ?_ ?_ ?_ ?_ ?_ <;> (first | omega | ((try simp only [quantIx, ctrIx, planIx, bankIndex, resIx, pllSide, instRecord, recordIndex]); omega) | (simp only [Bool.and_eq_true, decide_eq_true_eq] at *; omega)))
    | omega | (refine hG.hit 0x9010 0x901F 3 3 rfl ?_ ?_ ?_ ?_ ?_ <;> omega)

theorem redirect {z0 z1 : State} {k : Nat} {r : Nat} (hp_plate : Part.plate ∈ P) (hp_pairs : Part.pairs ∈ P) (h : Own P G z0 z1) : Own P G z0
    (Machine.redirect k r z1) := by
  refine h.step ?_
  clear h
  unfold Machine.redirect
  try dsimp only
  repeat' first
    | with_reducible exact same _ | with_reducible assumption | with_reducible refine branch (fun hc => ?_) (fun hc => ?_)
    | with_reducible apply plateRelease | omega | split | with_reducible refine plate_set ‹_› ?_ ?_ | exact Eq.refl _

theorem dropBring {z0 z1 : State} {k : Nat} (hp_stacks : Part.stacks ∈ P) (hG : Cov G [⟨0x9010, 0x901F, 3, 3⟩]) (hb_k : k < 16) (h : Own P G z0 z1)
    : Own P G z0 (Machine.dropBring k z1) := by
  refine h.step ?_
  clear h
  unfold Machine.dropBring
  try dsimp only
  repeat' first
    | (exact hG.sub rfl) | (exact hG.item rfl)
    | with_reducible exact same _ | with_reducible assumption | with_reducible apply setBitO | with_reducible apply setStack
    | (refine hG.hit 0x9010 0x901F 3 3 rfl ?_ ?_ ?_ ?_ ?_ <;> omega)

theorem setLeg {z0 z1 : State} {k r v : Nat} (hG : Cov G [⟨0x9010, 0x901F, 7, 7⟩]) (hb_k : k < 16) (h : Own P G z0 z1) : Own P G z0 (Machine.setLeg
    k r v z1) := by
  refine h.step ?_
  clear h
  unfold Machine.setLeg
  try dsimp only
  repeat' first
    | (exact hG.sub rfl) | (exact hG.item rfl)
    | with_reducible exact same _ | with_reducible apply setBlob | (refine hG.hit 0x9010 0x901F 7 7 rfl ?_ ?_ ?_ ?_ ?_ <;> omega)

theorem recomputeShares {z0 z1 : State} {w : Nat} (hp_graphs : Part.graphs ∈ P) (h : Own P G z0 z1) : Own P G z0 (Machine.recomputeShares w z1) := by
  refine h.step ?_
  clear h
  unfold Machine.recomputeShares
  try dsimp only
  repeat' first
    | with_reducible exact same _ | with_reducible refine branch (fun hc => ?_) (fun hc => ?_)
    | with_reducible refine graphs_set (by assumption) ?_

theorem bringEffect {z0 z1 : State} {k : Nat} (hp_graphs : Part.graphs ∈ P) (hp_plate : Part.plate ∈ P) (hp_pairs : Part.pairs ∈ P) (hp_stacks :
    Part.stacks ∈ P) (hG : Cov G [⟨0x9010, 0x901F, 3, 3⟩, ⟨0x9010, 0x901F, 7, 7⟩]) (hb_k : k < 16) (h : Own P G z0 z1) : Own P G z0
    (Machine.bringEffect k z1) := by
  refine h.step ?_
  clear h
  unfold Machine.bringEffect
  try dsimp only
  repeat' first
    | (exact hG.sub rfl) | (exact hG.item rfl)
    | with_reducible exact same _ | with_reducible assumption | with_reducible apply redirect | with_reducible apply dropBring
    | with_reducible apply setLeg | with_reducible apply setStack | with_reducible apply recomputeShares | with_reducible apply raise
    | split

theorem bringAtVertex {z0 z1 : State} {g : Nat} (hp_graphs : Part.graphs ∈ P) (hp_plate : Part.plate ∈ P) (hp_pairs : Part.pairs ∈ P) (hp_stacks :
    Part.stacks ∈ P) (hG : Cov G [⟨0x9010, 0x901F, 3, 3⟩, ⟨0x9010, 0x901F, 7, 7⟩]) (h : Own P G z0 z1) : Own P G z0 (Machine.bringAtVertex g z1) := by
  refine h.step ?_
  clear h
  unfold Machine.bringAtVertex
  try dsimp only
  repeat' first
    | (exact hG.sub rfl) | (exact hG.item rfl) | with_reducible exact same _ | with_reducible assumption
    | with_reducible refine branch (fun hc => ?_) (fun hc => ?_) | with_reducible apply bringEffect
    | with_reducible refine forN ?_ (fun i v hi => ?_) | omega | split

theorem checkBring {z0 z1 : State} {k : Nat} (hp_graphs : Part.graphs ∈ P) (hp_plate : Part.plate ∈ P) (hp_pairs : Part.pairs ∈ P) (hp_stacks :
    Part.stacks ∈ P) (hG : Cov G [⟨0x9010, 0x901F, 3, 3⟩, ⟨0x9010, 0x901F, 7, 7⟩]) (hb_k : k < 16) (h : Own P G z0 z1) : Own P G z0
    (Machine.checkBring k z1) := by
  refine h.step ?_
  clear h
  unfold Machine.checkBring
  try dsimp only
  repeat' first
    | (exact hG.sub rfl) | (exact hG.item rfl) | with_reducible exact same _ | with_reducible assumption
    | with_reducible refine branch (fun hc => ?_) (fun hc => ?_) | with_reducible apply bringEffect | with_reducible apply setStack | omega
    | split

theorem takeShares {z0 z1 : State} (hp_graphs : Part.graphs ∈ P) (hG : Cov G [⟨0x9100, 0x910F, 4, 4⟩]) (h : Own P G z0 z1) : Own P G z0
    (Machine.takeShares z1) := by
  refine h.step ?_
  clear h
  unfold Machine.takeShares
  try dsimp only
  repeat' first
    | (exact hG.sub rfl) | (exact hG.item rfl)
    | with_reducible exact same _ | with_reducible apply setBlob | with_reducible refine foldl ?_ (fun v a ha => ?_)
    | (refine hG.hit 0x9100 0x910F 4 4 rfl ?_ ?_ ?_ ?_ ?_ <;> omega) | with_reducible refine graphs_set (by assumption) ?_

theorem announceStart {z0 z1 : State} {x : Side} {r : Nat} (hp_plate : Part.plate ∈ P) (h : Own P G z0 z1) : Own P G z0 (Machine.announceStart x r
    z1) := by
  refine h.step ?_
  clear h
  unfold Machine.announceStart
  try dsimp only
  repeat' first
    | with_reducible exact same _ | with_reducible refine branch (fun hc => ?_) (fun hc => ?_) | with_reducible apply raise
    | exact Eq.refl _ | with_reducible refine plate_set ‹_› ?_ ?_

theorem markPartial {z0 z1 : State} {x : Side} {u : Nat} (hp_plate : Part.plate ∈ P) (h : Own P G z0 z1) : Own P G z0 (Machine.markPartial x u z1)
    := by
  refine h.step ?_
  clear h
  unfold Machine.markPartial
  try dsimp only
  repeat' first
    | with_reducible exact same _ | with_reducible assumption | with_reducible refine branch (fun hc => ?_) (fun hc => ?_)
    | with_reducible apply setUpdate

theorem writeShadow {z0 z1 : State} {x : Side} {p sub value : Nat} (hp_plate : Part.plate ∈ P) (h : Own P G z0 z1) : Own P G z0 (Machine.writeShadow
    x p sub value z1) := by
  refine h.step ?_
  clear h
  unfold Machine.writeShadow
  try dsimp only
  repeat' first
    | with_reducible exact same _ | with_reducible assumption | with_reducible apply markPartial | with_reducible apply modPair

theorem commitBoth {z0 z1 : State} {u : Nat} (hp_plate : Part.plate ∈ P) (hG : Cov G [⟨0x5140, 0x515F, 2, 2⟩]) (hb_u : u < 32) (h : Own P G z0 z1) :
    Own P G z0 (Machine.commitBoth u z1) := by
  refine h.step ?_
  clear h
  unfold Machine.commitBoth
  try dsimp only
  repeat' first
    | (exact hG.sub rfl) | (exact hG.item rfl)
    | with_reducible exact same _ | with_reducible assumption | with_reducible apply commitUpdate

theorem writePeriod {z0 z1 : State} {x : Side} {g hs : Nat} (hp_plate : Part.plate ∈ P) (h : Own P G z0 z1) : Own P G z0 (Machine.writePeriod x g hs
    z1) := by
  refine h.step ?_
  clear h
  unfold Machine.writePeriod
  try dsimp only
  repeat' first
    | with_reducible exact same _ | with_reducible assumption | with_reducible apply markPartial | with_reducible apply modCarrier

theorem attachFollowers {z0 z1 : State} {x : Side} {g : Nat} {atStart : Bool} (hp_plate : Part.plate ∈ P) (h : Own P G z0 z1) : Own P G z0
    (Machine.attachFollowers x g atStart z1) := by
  refine h.step ?_
  clear h
  unfold Machine.attachFollowers
  try dsimp only
  repeat' first
    | with_reducible exact same _ | with_reducible assumption | with_reducible refine branch (fun hc => ?_) (fun hc => ?_)
    | with_reducible apply modCarrier | with_reducible refine foldl ?_ (fun v a ha => ?_)

theorem halfPair {z0 z1 : State} {x : Side} {g : Nat} {v : Nat} {up : Bool} {hs : Nat} {p : Nat} (hp_plate : Part.plate ∈ P) (hG : Cov G [⟨0x5200,
    0x5247, 8, 8⟩]) (hb_p : p < 72) (h : Own P G z0 z1) : Own P G z0 (Machine.halfPair x g v up hs p z1) := by
  refine h.step ?_
  clear h
  have := sideIx_lt x
  unfold Machine.halfPair
  try dsimp only
  repeat' first
    | (exact hG.sub rfl) | (exact hG.item rfl) | with_reducible exact same _ | with_reducible assumption
    | with_reducible refine branch (fun hc => ?_) (fun hc => ?_) | with_reducible apply modPair | with_reducible apply setBitO
    | (refine hG.hit 0x5200 0x5247 8 8 rfl ?_ ?_ ?_ ?_ ?_ <;> (first | omega | ((try simp only [quantIx, ctrIx, planIx, bankIndex, resIx, pllSide, instRecord, recordIndex]); omega) | (simp only [Bool.and_eq_true, decide_eq_true_eq] at *; omega)))
    | omega | split | (refine hG.hit 0x5200 0x5247 8 8 rfl ?_ ?_ ?_ ?_ ?_ <;> omega)

theorem beginHalf {z0 z1 : State} {x : Side} {g : Nat} {v : Nat} {up : Bool} {hs : Nat} (hp_plate : Part.plate ∈ P) (hG : Cov G [⟨0x5120, 0x5127, 5,
    5⟩, ⟨0x5120, 0x5127, 6, 6⟩, ⟨0x5200, 0x5247, 8, 8⟩]) (hb_g : g < 8) (h : Own P G z0 z1) : Own P G z0 (Machine.beginHalf x g v up hs z1) := by
  refine h.step ?_
  clear h
  have := sideIx_lt x
  unfold Machine.beginHalf
  try dsimp only
  repeat' first
    | (exact hG.sub rfl) | (exact hG.item rfl) | with_reducible exact same _ | with_reducible assumption
    | with_reducible refine branch (fun hc => ?_) (fun hc => ?_) | with_reducible apply halfPair | with_reducible apply incWrap
    | with_reducible apply modCarrier | with_reducible apply raise | with_reducible apply setNum
    | with_reducible refine foldl ?_ (fun v a ha => ?_)
    | (refine hG.hit 0x5120 0x5127 5 5 rfl ?_ ?_ ?_ ?_ ?_ <;> (first | omega | ((try simp only [quantIx, ctrIx, planIx, bankIndex, resIx, pllSide, instRecord, recordIndex]); omega) | (simp only [Bool.and_eq_true, decide_eq_true_eq] at *; omega)))
    | (refine hG.hit 0x5120 0x5127 6 6 rfl ?_ ?_ ?_ ?_ ?_ <;> (first | omega | ((try simp only [quantIx, ctrIx, planIx, bankIndex, resIx, pllSide, instRecord, recordIndex]); omega) | (simp only [Bool.and_eq_true, decide_eq_true_eq] at *; omega)))
    | omega | split | (refine hG.hit 0x5120 0x5127 5 5 rfl ?_ ?_ ?_ ?_ ?_ <;> omega)
    | (refine hG.hit 0x5120 0x5127 6 6 rfl ?_ ?_ ?_ ?_ ?_ <;> omega) | with_reducible exact Nat.lt_of_lt_of_le (groupPairs_lt ‹_›) (by omega)

theorem disableAt {z0 z1 : State} {w : Stamped} (hp_plate : Part.plate ∈ P) (hp_pairs : Part.pairs ∈ P) (h : Own P G z0 z1) : Own P G z0
    (Machine.disableAt w z1) := by
  refine h.step ?_
  clear h
  unfold Machine.disableAt
  try dsimp only
  repeat' first
    | with_reducible exact same _ | with_reducible assumption | with_reducible refine branch (fun hc => ?_) (fun hc => ?_)
    | with_reducible apply plateRelease | with_reducible apply raise
    | with_reducible refine plate_set (by assumption) (by exact Eq.refl _) ?_

theorem disablesAtVertex {z0 z1 : State} {g : Nat} (hp_plate : Part.plate ∈ P) (hp_pairs : Part.pairs ∈ P) (h : Own P G z0 z1) : Own P G z0
    (Machine.disablesAtVertex g z1) := by
  refine h.step ?_
  clear h
  unfold Machine.disablesAtVertex
  try dsimp only
  repeat' first
    | with_reducible exact same _ | with_reducible assumption | with_reducible apply disableAt
    | with_reducible refine foldl ?_ (fun v a ha => ?_) | with_reducible refine plate_set (by assumption) (by exact Eq.refl _) ?_

theorem haltGroup {z0 z1 : State} {x : Side} {g : Nat} (hp_plate : Part.plate ∈ P) (h : Own P G z0 z1) : Own P G z0 (Machine.haltGroup x g z1) := by
  refine h.step ?_
  clear h
  have := sideIx_lt x
  unfold Machine.haltGroup
  try dsimp only
  repeat' first
    | with_reducible exact same _ | with_reducible assumption | with_reducible apply modCarrier | with_reducible apply modPair
    | with_reducible refine foldl ?_ (fun v a ha => ?_) | omega

theorem mapAtVertex {z0 z1 : State} {g : Nat} (hp_plate : Part.plate ∈ P) (hp_pairs : Part.pairs ∈ P) (h : Own P G z0 z1) : Own P G z0
    (Machine.mapAtVertex g z1) := by
  refine h.step ?_
  clear h
  unfold Machine.mapAtVertex
  try dsimp only
  repeat' first
    | with_reducible exact same _ | with_reducible assumption | with_reducible refine branch (fun hc => ?_) (fun hc => ?_)
    | with_reducible apply plateRelease | with_reducible refine foldl ?_ (fun v a ha => ?_) | split
    | with_reducible refine plate_set (by assumption) (by exact Eq.refl _) ?_

theorem plateTake {z0 z1 : State} {x : Side} {g : Nat} (hp_graphs : Part.graphs ∈ P) (hp_plate : Part.plate ∈ P) (hp_pairs : Part.pairs ∈ P)
    (hp_stacks : Part.stacks ∈ P) (hG : Cov G [⟨0x9010, 0x901F, 3, 3⟩, ⟨0x9010, 0x901F, 7, 7⟩]) (h : Own P G z0 z1) : Own P G z0 (Machine.plateTake
    x g z1) := by
  refine h.step ?_
  clear h
  unfold Machine.plateTake
  try dsimp only
  repeat' first
    | (exact hG.sub rfl) | (exact hG.item rfl)
    | with_reducible exact same _ | with_reducible assumption | with_reducible refine branch (fun hc => ?_) (fun hc => ?_)
    | with_reducible apply bringAtVertex | with_reducible apply mapAtVertex | with_reducible apply disablesAtVertex

theorem takeSet {z0 z1 : State} {x : Side} {u : Nat} {older : Bool} (hp_plate : Part.plate ∈ P) (hG : Cov G [⟨0x5140, 0x515F, 3, 3⟩]) (hb_u : u <
    32) (h : Own P G z0 z1) : Own P G z0 (Machine.takeSet x u older z1) := by
  refine h.step ?_
  clear h
  have := sideIx_lt x
  unfold Machine.takeSet
  try dsimp only
  repeat' first
    | (exact hG.sub rfl) | (exact hG.item rfl)
    | with_reducible exact same _ | with_reducible assumption | with_reducible refine branch (fun hc => ?_) (fun hc => ?_)
    | with_reducible apply modPair | with_reducible apply modCarrier | with_reducible apply countEvent | with_reducible apply incWrap
    | with_reducible refine foldl ?_ (fun v a ha => ?_) | (refine hG.hit 0x5140 0x515F 3 3 rfl ?_ ?_ ?_ ?_ ?_ <;> omega)

theorem reloadUpdate {z0 z1 : State} {x : Side} {r : Nat} {u : Nat} (hp_plate : Part.plate ∈ P) (hG : Cov G [⟨0x5140, 0x515F, 2, 2⟩, ⟨0x5140,
    0x515F, 3, 3⟩]) (hb_u : u < 32) (h : Own P G z0 z1) : Own P G z0 (Machine.reloadUpdate x r u z1) := by
  refine h.step ?_
  clear h
  have := sideIx_lt x
  unfold Machine.reloadUpdate
  try dsimp only
  repeat' first
    | (exact hG.sub rfl) | (exact hG.item rfl) | with_reducible exact same _ | with_reducible assumption
    | with_reducible refine branch (fun hc => ?_) (fun hc => ?_) | with_reducible apply setUpdate | with_reducible apply takeSet
    | with_reducible apply windowClosed | omega | split | (refine hG.hit 0x5140 0x515F 2 2 rfl ?_ ?_ ?_ ?_ ?_ <;> omega)

theorem newPeriod {z0 z1 : State} {p : Nat} (hp_pairs : Part.pairs ∈ P) (h : Own P G z0 z1) : Own P G z0 (Machine.newPeriod p z1) := by
  refine h.step ?_
  clear h
  unfold Machine.newPeriod
  try dsimp only
  repeat' first
    | with_reducible exact same _ | with_reducible assumption | with_reducible refine branch (fun hc => ?_) (fun hc => ?_)
    | with_reducible refine setPlate (by assumption) ?_ ?_
    | exact fun k => plateOf_sound k _

theorem pushVertex {z0 z1 : State} {x : Side} {g v hs : Nat} (hp_plate : Part.plate ∈ P) (h : Own P G z0 z1) : Own P G z0 (Machine.pushVertex x g v
    hs z1) := by
  refine h.step ?_
  clear h
  unfold Machine.pushVertex
  try dsimp only
  repeat' first
    | with_reducible exact same _ | with_reducible assumption | with_reducible refine branch (fun hc => ?_) (fun hc => ?_)
    | with_reducible apply modCarrier | with_reducible refine foldl ?_ (fun v a ha => ?_)

theorem formSets {z0 z1 : State} {x : Side} {g : Nat} (hp_plate : Part.plate ∈ P) (h : Own P G z0 z1) : Own P G z0 (Machine.formSets x g z1) := by
  refine h.step ?_
  clear h
  unfold Machine.formSets
  try dsimp only
  repeat' first
    | with_reducible exact same _ | with_reducible assumption | with_reducible apply modPair | with_reducible apply modCarrier
    | with_reducible apply setUpdate | with_reducible refine foldl ?_ (fun v a ha => ?_)

theorem fallAtStart {z0 z1 : State} {x : Side} {g v : Nat} (hp_plate : Part.plate ∈ P) (h : Own P G z0 z1) : Own P G z0 (Machine.fallAtStart x g v
    z1) := by
  refine h.step ?_
  clear h
  unfold Machine.fallAtStart
  try dsimp only
  repeat' first
    | with_reducible exact same _ | with_reducible assumption | with_reducible apply modPair
    | with_reducible refine foldl ?_ (fun v a ha => ?_)

end Own
end Sys2Proof
end

