-- ==== Sys2Proof/Laws/OnlyBoot.lean ====
section
/-!
SUPPORT. What each operation can move, one lemma each: the graph engine, repair, the boot stages, events and capture.
-/

set_option Elab.async false
set_option maxRecDepth 2000
set_option linter.unusedVariables false
set_option linter.unusedSimpArgs false
namespace Sys2Proof
open Sys2Proof.Machine
variable {P : List Part} {G : List Objs}
namespace Own

theorem modResult {z0 z1 : State} {x : Side} {j : Nat} {f : Result → Result} (hp_graphs : Part.graphs ∈ P) (h : Own P G z0 z1) : Own P G z0
    (Machine.State.modResult z1 x j f) := by
  refine h.step ?_
  clear h
  unfold Machine.State.modResult
  try dsimp only
  repeat' first
    | with_reducible exact same _ | with_reducible assumption | with_reducible apply setGraph

theorem modInst {z0 z1 : State} {x : Side} {key : Nat} {f : Inst → Inst} (hp_graphs : Part.graphs ∈ P) (h : Own P G z0 z1) : Own P G z0
    (Machine.State.modInst z1 x key f) := by
  refine h.step ?_
  clear h
  unfold Machine.State.modInst
  try dsimp only
  repeat' first
    | with_reducible exact same _ | with_reducible assumption | with_reducible apply setGraph

theorem cancelSwap {z0 z1 : State} {g : Nat} (hp_graphs : Part.graphs ∈ P) (hG : Cov G [⟨0x3300, 0x3300, 2, 2⟩]) (h : Own P G z0 z1) : Own P G z0
    (Machine.cancelSwap g z1) := by
  refine h.step ?_
  clear h
  unfold Machine.cancelSwap
  try dsimp only
  repeat' first
    | (exact hG.sub rfl) | (exact hG.item rfl)
    | with_reducible exact same _ | with_reducible assumption | with_reducible apply raise | with_reducible apply setBitO
    | with_reducible refine graphs_set (by assumption) ?_

theorem setSlotState {z0 z1 : State} {k v : Nat} (hG : Cov G [⟨0x3000, 0x3000, 2, 2⟩, ⟨0x3100, 0x3101, 4, 4⟩]) (hb_k : k < 2) (h : Own P G z0 z1) :
    Own P G z0 (Machine.setSlotState k v z1) := by
  refine h.step ?_
  clear h
  unfold Machine.setSlotState
  try dsimp only
  repeat' first
    | (exact hG.sub rfl) | (exact hG.item rfl)
    | with_reducible exact same _ | with_reducible assumption | with_reducible apply setFld | with_reducible apply setNum
    | (exact hG.item rfl) | (refine hG.hit 0x3100 0x3101 4 4 rfl ?_ ?_ ?_ ?_ ?_ <;> omega)

theorem rateOverruns {z0 z1 : State} {x : Side} {k : Nat} (hG : Cov G [⟨0x3000, 0x3000, 5, 5⟩]) (h : Own P G z0 z1) : Own P G z0
    (Machine.rateOverruns x k z1) := by
  refine h.step ?_
  clear h
  unfold Machine.rateOverruns
  try dsimp only
  repeat' first
    | (exact hG.sub rfl) | (exact hG.item rfl)
    | with_reducible exact same _ | with_reducible assumption | with_reducible refine branch (fun hc => ?_) (fun hc => ?_)
    | with_reducible apply raise | with_reducible apply incSat | with_reducible refine foldl ?_ (fun v a ha => ?_)

theorem switchInsts {z0 z1 : State} {x : Side} {old : Option Nat} {k : Nat} (hp_graphs : Part.graphs ∈ P) (h : Own P G z0 z1) : Own P G z0
    (Machine.switchInsts x old k z1) := by
  refine h.step ?_
  clear h
  unfold Machine.switchInsts
  try dsimp only
  repeat' first
    | with_reducible exact same _ | with_reducible assumption | with_reducible apply setGraph

theorem doSwitch {z0 z1 : State} {k : Nat} (hp_graphs : Part.graphs ∈ P) (hG : Cov G [⟨0x3000, 0x3000, 2, 2⟩, ⟨0x3000, 0x3000, 3, 3⟩, ⟨0x3000,
    0x3000, 5, 5⟩, ⟨0x3000, 0x3000, 6, 6⟩, ⟨0x3100, 0x3101, 4, 4⟩, ⟨0x3300, 0x3300, 2, 2⟩, ⟨0x3400, 0x3BFF, 4, 4⟩]) (hb_k : k < 2) (h : Own P G z0
    z1) : Own P G z0 (Machine.doSwitch k z1) := by
  refine h.step ?_
  clear h
  unfold Machine.doSwitch
  try dsimp only
  repeat' first
    | (exact hG.sub rfl) | (exact hG.item rfl)
    | with_reducible exact same _ | with_reducible assumption | with_reducible apply rateOverruns | with_reducible apply switchInsts
    | with_reducible apply cancelSwap | with_reducible apply setFld | with_reducible apply setSlotState | with_reducible apply setNum
    | with_reducible apply raise | with_reducible refine foldl ?_ (fun v a ha => ?_) | (exact hG.rec (sub := 4) (last := 4) rfl (by decide) (by decide) (by decide))
    | with_reducible exact Nat.lt_of_lt_of_le (activeSlot_lt ‹_›) (by omega) | split | with_reducible refine graphs_set (by assumption) ?_

theorem onResults {z0 z1 : State} {x : Side} {j : Nat} {f : Result → Result} (hp_graphs : Part.graphs ∈ P) (h : Own P G z0 z1) : Own P G z0
    (Machine.onResults x j f z1) := by
  refine h.step ?_
  clear h
  unfold Machine.onResults
  try dsimp only
  repeat' first
    | with_reducible exact same _ | with_reducible assumption | with_reducible refine branch (fun hc => ?_) (fun hc => ?_)
    | with_reducible apply modResult

theorem instTick {z0 z1 : State} {x : Side} {l : List GEntry} {e : GEntry} (hp_graphs : Part.graphs ∈ P) (h : Own P G z0 z1) : Own P G z0
    (Machine.instTick x l e z1) := by
  refine h.step ?_
  clear h
  have := sideIx_lt x
  have := sideIx_lt (otherSide x)
  unfold Machine.instTick
  try dsimp only
  repeat' first
    | with_reducible exact same _ | with_reducible assumption | with_reducible refine branch (fun hc => ?_) (fun hc => ?_)
    | with_reducible apply modInst | with_reducible apply modResult | with_reducible apply onResults
    | with_reducible refine foldl ?_ (fun v a ha => ?_) | omega | split

theorem freezeInst {z0 z1 : State} {x : Side} {l : List GEntry} {prev cut : Nat} {e : GEntry} (hp_graphs : Part.graphs ∈ P) (h : Own P G z0 z1) :
    Own P G z0 (Machine.freezeInst x l prev cut e z1) := by
  refine h.step ?_
  clear h
  unfold Machine.freezeInst
  try dsimp only
  repeat' first
    | with_reducible exact same _ | with_reducible assumption | with_reducible refine branch (fun hc => ?_) (fun hc => ?_)
    | with_reducible apply setGraph | with_reducible refine foldl ?_ (fun v a ha => ?_)

theorem swapCheck {z0 z1 : State} {g : Nat} (hp_graphs : Part.graphs ∈ P) (hG : Cov G [⟨0x3300, 0x3300, 2, 2⟩]) (h : Own P G z0 z1) : Own P G z0
    (Machine.swapCheck g z1) := by
  refine h.step ?_
  clear h
  unfold Machine.swapCheck
  try dsimp only
  repeat' first
    | (exact hG.sub rfl) | (exact hG.item rfl) | with_reducible exact same _ | with_reducible assumption
    | with_reducible refine branch (fun hc => ?_) (fun hc => ?_) | with_reducible apply modInst | with_reducible apply raise
    | with_reducible apply setBitO | with_reducible refine foldl ?_ (fun v a ha => ?_) | omega | split
    | with_reducible refine graphs_set (by assumption) ?_

theorem post {z0 z1 : State} {x : Side} {pr : Prep} {cy : List (Nat × Nat × Bool)} (hp_graphs : Part.graphs ∈ P) (h : Own P G z0 z1) : Own P G z0
    (Machine.post x pr cy z1) := by
  refine h.step ?_
  clear h
  have := sideIx_lt x
  unfold Machine.post
  try dsimp only
  repeat' first
    | with_reducible exact same _ | with_reducible assumption | with_reducible refine branch (fun hc => ?_) (fun hc => ?_) | omega | split
    | with_reducible refine graphs_set (by assumption) ?_

theorem recordExec {z0 z1 : State} {x : Side} {key : Nat} {pr : Prep} {old : List Nat} {r : Res} (hG : Cov G [⟨0x3400, 0x3BFF, 4, 4⟩, ⟨0x3400,
    0x3BFF, 6, 6⟩, ⟨0x3400, 0x3BFF, 7, 7⟩, ⟨0x3400, 0x3BFF, 8, 8⟩]) (hr : ∀ j, j = 4 ∨ j = 6 ∨ j = 7 ∨ j = 8 → Hit G pr.objIx j) (h : Own P G z0 z1)
    : Own P G z0 (Machine.recordExec x key pr old r z1) := by
  refine h.step ?_
  clear h
  have := sideIx_lt x
  unfold Machine.recordExec
  try dsimp only
  repeat' first
    | (exact hG.sub rfl) | (exact hG.item rfl) | with_reducible exact same _ | with_reducible assumption
    | with_reducible refine branch (fun hc => ?_) (fun hc => ?_) | with_reducible apply incSat | with_reducible apply raise
    | with_reducible apply setBlob | with_reducible apply setFld | with_reducible apply noteFlags | with_reducible apply setNum | omega
    | (exact hr _ (by decide)) | split

theorem produce {z0 z1 : State} {x : Side} {e : GEntry} {o : Port} (hp_graphs : Part.graphs ∈ P) (h : Own P G z0 z1) : Own P G z0 (Machine.produce x
    e o z1) := by
  refine h.step ?_
  clear h
  have := sideIx_lt x
  unfold Machine.produce
  try dsimp only
  repeat' first
    | with_reducible exact same _ | with_reducible assumption | with_reducible refine branch (fun hc => ?_) (fun hc => ?_)
    | with_reducible apply onResults | with_reducible apply raise | omega | split

theorem publish {z0 z1 : State} {x : Side} {rt : Nat} {e : GEntry} {o : Port} (hp_graphs : Part.graphs ∈ P) (h : Own P G z0 z1) : Own P G z0
    (Machine.publish x rt e o z1) := by
  refine h.step ?_
  clear h
  unfold Machine.publish
  try dsimp only
  repeat' first
    | with_reducible exact same _ | with_reducible assumption | with_reducible refine branch (fun hc => ?_) (fun hc => ?_)
    | with_reducible apply setGraph | with_reducible refine foldl ?_ (fun v a ha => ?_)

theorem adoptProfile {z0 z1 : State} (hG : Cov G [⟨0x6000, 0x6000, 2, 2⟩]) (h : Own P G z0 z1) : Own P G z0 (Machine.adoptProfile z1) := by
  refine h.step ?_
  clear h
  unfold Machine.adoptProfile
  try dsimp only
  repeat' first
    | (exact hG.sub rfl) | (exact hG.item rfl)
    | with_reducible exact same _ | with_reducible assumption | with_reducible apply setFld

theorem bringSpares {z0 z1 : State} {x : Nat} (h : Own P G z0 z1) : Own P G z0 (Machine.bringSpares x z1) := by
  refine h.step ?_
  clear h
  unfold Machine.bringSpares
  try dsimp only
  repeat' first
    | with_reducible exact same _ | with_reducible refine branch (fun hc => ?_) (fun hc => ?_) | with_reducible apply raise
    | with_reducible refine foldl ?_ (fun v a ha => ?_)

theorem setControl {z0 z1 : State} {x : Side} (hG : Cov G [⟨0x6000, 0x6000, 2, 2⟩, ⟨0x6021, 0x6021, 1, 1⟩]) (h : Own P G z0 z1) : Own P G z0
    (Machine.setControl x z1) := by
  refine h.step ?_
  clear h
  unfold Machine.setControl
  try dsimp only
  repeat' first
    | (exact hG.sub rfl) | (exact hG.item rfl)
    | with_reducible exact same _ | with_reducible assumption | with_reducible apply setBitO | with_reducible apply setSideState

theorem setReserve {z0 z1 : State} {x : Side} (hp_sides : Part.sides ∈ P) (hG : Cov G [⟨0x6021, 0x6021, 1, 1⟩]) (h : Own P G z0 z1) : Own P G z0
    (Machine.setReserve x z1) := by
  refine h.step ?_
  clear h
  unfold Machine.setReserve
  try dsimp only
  repeat' first
    | (exact hG.sub rfl) | (exact hG.item rfl)
    | with_reducible exact same _ | with_reducible assumption | with_reducible apply setSideRt | with_reducible apply setSideState

theorem refreshBadAt {z0 z1 : State} {since : Nat} {x : Side} (hp_sides : Part.sides ∈ P) (hG : Cov G [⟨0x6030, 0x6031, 1, 1⟩]) (h : Own P G z0 z1) : Own P G z0 (Machine.refreshBadAt
    since x z1) := by
  refine h.step ?_
  clear h
  have := sideIx_lt x
  unfold Machine.refreshBadAt
  try dsimp only
  repeat' first
    | (exact hG.sub rfl) | with_reducible exact same _ | with_reducible assumption | with_reducible refine branch (fun hc => ?_) (fun hc => ?_)
    | with_reducible apply setBitO | with_reducible apply setSideRt | (refine hG.hit 0x6030 0x6031 1 1 rfl ?_ ?_ ?_ ?_ ?_ <;> omega)

theorem refreshBad {z0 z1 : State} {x : Side} (hp_sides : Part.sides ∈ P) (hG : Cov G [⟨0x6030, 0x6031, 1, 1⟩]) (h : Own P G z0 z1) : Own P G z0
    (Machine.refreshBad x z1) := by
  refine h.step ?_
  clear h
  have := sideIx_lt x
  unfold Machine.refreshBad
  try dsimp only
  repeat' first
    | (exact hG.sub rfl) | (exact hG.item rfl) | with_reducible exact same _ | with_reducible assumption
    | with_reducible refine branch (fun hc => ?_) (fun hc => ?_) | with_reducible apply refreshBadAt | with_reducible apply setSideRt
    | with_reducible apply setBitO | (refine hG.hit 0x6030 0x6031 1 1 rfl ?_ ?_ ?_ ?_ ?_ <;> omega)

theorem foundFault {z0 z1 : State} {e : List Nat} (hG : Cov G [⟨0xB100, 0xB100, 2, 2⟩]) (h : Own P G z0 z1) : Own P G z0 (Machine.foundFault e z1)
    := by
  refine h.step ?_
  clear h
  unfold Machine.foundFault
  try dsimp only
  repeat' first
    | (exact hG.sub rfl) | (exact hG.item rfl)
    | with_reducible exact same _ | with_reducible assumption | with_reducible refine branch (fun hc => ?_) (fun hc => ?_)
    | with_reducible apply raise | with_reducible apply setBlob

theorem setBridged {z0 z1 : State} {x : Side} {b : Bool} (hG : Cov G [⟨0x7050, 0x7050, 1, 1⟩]) (h : Own P G z0 z1) : Own P G z0 (Machine.setBridged
    x b z1) := by
  refine h.step ?_
  clear h
  unfold Machine.setBridged
  try dsimp only
  repeat' first
    | (exact hG.sub rfl) | (exact hG.item rfl)
    | with_reducible exact same _ | with_reducible assumption | with_reducible apply setBitO

theorem expireBad {z0 z1 : State} {x : Side} (hp_sides : Part.sides ∈ P) (hG : Cov G [⟨0x6030, 0x6031, 1, 1⟩]) (h : Own P G z0 z1) : Own P G z0
    (Machine.expireBad x z1) := by
  refine h.step ?_
  clear h
  have := sideIx_lt x
  unfold Machine.expireBad
  try dsimp only
  repeat' first
    | (exact hG.sub rfl) | (exact hG.item rfl)
    | with_reducible exact same _ | with_reducible assumption | with_reducible refine branch (fun hc => ?_) (fun hc => ?_)
    | with_reducible apply refreshBad | with_reducible apply setSideRt | with_reducible apply setBitO
    | (refine hG.hit 0x6030 0x6031 1 1 rfl ?_ ?_ ?_ ?_ ?_ <;> omega) | split

theorem abortOpenSet {z0 z1 : State} {way : Nat} (hp_net : Part.net ∈ P) (h : Own P G z0 z1) : Own P G z0 (Machine.abortOpenSet way z1) := by
  refine h.step ?_
  clear h
  unfold Machine.abortOpenSet
  try dsimp only
  repeat' first
    | with_reducible exact same _ | with_reducible apply raise | split | with_reducible refine net_set (by assumption) ?_

theorem bootStatus {z0 z1 : State} {code reason : Nat} (hG : Cov G [⟨0xB000, 0xB000, 3, 3⟩]) (h : Own P G z0 z1) : Own P G z0 (Machine.bootStatus
    code reason z1) := by
  refine h.step ?_
  clear h
  unfold Machine.bootStatus
  try dsimp only
  repeat' first
    | (exact hG.sub rfl) | (exact hG.item rfl)
    | with_reducible exact same _ | with_reducible assumption | with_reducible refine branch (fun hc => ?_) (fun hc => ?_)
    | with_reducible apply setNum | with_reducible apply raise

theorem readRails {z0 z1 : State} {m : Nat} (hp_boot : Part.boot ∈ P) (h : Own P G z0 z1) : Own P G z0 (Machine.readRails m z1) := by
  refine h.step ?_
  clear h
  unfold Machine.readRails
  try dsimp only
  repeat' first
    | with_reducible exact same _ | with_reducible refine boot_set (by assumption) ?_

theorem doBringUp {z0 z1 : State} {rails : Nat} (hp_boot : Part.boot ∈ P) (hG : Cov G [⟨0x7050, 0x7050, 1, 1⟩, ⟨0xB000, 0xB000, 1, 1⟩, ⟨0xB000,
    0xB000, 3, 3⟩, ⟨0xB000, 0xB000, 4, 4⟩]) (h : Own P G z0 z1) : Own P G z0 (Machine.doBringUp rails z1) := by
  refine h.step ?_
  clear h
  unfold Machine.doBringUp
  try dsimp only
  repeat' first
    | (exact hG.sub rfl) | (exact hG.item rfl) | with_reducible exact same _ | with_reducible assumption
    | with_reducible refine branch (fun hc => ?_) (fun hc => ?_) | with_reducible apply bootStatus | with_reducible apply readRails
    | with_reducible apply setSideBays | with_reducible apply setStage | omega | split | with_reducible refine boot_set (by assumption) ?_

theorem doRestart {z0 z1 : State} {confirm : Nat} (hp_boot : Part.boot ∈ P) (hG : Cov G [⟨0xB000, 0xB000, 3, 3⟩]) (h : Own P G z0 z1) : Own P G z0
    (Machine.doRestart confirm z1) := by
  refine h.step ?_
  clear h
  unfold Machine.doRestart
  try dsimp only
  repeat' first
    | (exact hG.sub rfl) | (exact hG.item rfl) | with_reducible exact same _ | with_reducible assumption
    | with_reducible refine branch (fun hc => ?_) (fun hc => ?_) | with_reducible apply bootStatus | omega | split
    | with_reducible refine boot_set (by assumption) ?_

theorem bootCommandWrite {z0 z1 : State} {w : Nat} (hp_boot : Part.boot ∈ P) (hG : Cov G [⟨0x7050, 0x7050, 1, 1⟩, ⟨0xB000, 0xB000, 1, 1⟩, ⟨0xB000,
    0xB000, 3, 3⟩, ⟨0xB000, 0xB000, 4, 4⟩]) (h : Own P G z0 z1) : Own P G z0 (Machine.bootCommandWrite w z1) := by
  refine h.step ?_
  clear h
  unfold Machine.bootCommandWrite
  try dsimp only
  repeat' first
    | (exact hG.sub rfl) | (exact hG.item rfl)
    | with_reducible exact same _ | with_reducible assumption | with_reducible refine branch (fun hc => ?_) (fun hc => ?_)
    | with_reducible apply doBringUp | with_reducible apply doRestart | with_reducible apply bootStatus

theorem verifySlot {z0 z1 : State} (hp_boot : Part.boot ∈ P) (hG : Cov G [⟨0xB000, 0xB000, 5, 5⟩, ⟨0xB200, 0xB200, 9, 9⟩, ⟨0xB200, 0xB200, 10, 10⟩])
    (h : Own P G z0 z1) : Own P G z0 (Machine.verifySlot z1) := by
  refine h.step ?_
  clear h
  unfold Machine.verifySlot
  try dsimp only
  repeat' first
    | (exact hG.sub rfl) | (exact hG.item rfl) | with_reducible exact same _ | with_reducible assumption
    | with_reducible refine branch (fun hc => ?_) (fun hc => ?_) | with_reducible apply raise | with_reducible apply setFld
    | with_reducible apply setNum | omega | split | with_reducible refine boot_set (by assumption) ?_

theorem islandRestart {z0 z1 : State} {cause : Nat} (hp_net : Part.net ∈ P) (hp_boot : Part.boot ∈ P) (hG : Cov G [⟨0xB000, 0xB000, 6, 6⟩, ⟨0xB000,
    0xB000, 7, 7⟩]) (h : Own P G z0 z1) : Own P G z0 (Machine.islandRestart cause z1) := by
  refine h.step ?_
  clear h
  unfold Machine.islandRestart
  try dsimp only
  repeat' first
    | (exact hG.sub rfl) | (exact hG.item rfl)
    | with_reducible exact same _ | with_reducible assumption | with_reducible apply abortOpenSet | with_reducible apply raise
    | with_reducible apply setNum | with_reducible apply incSat | with_reducible refine boot_set (by assumption) ?_

theorem discardSlot {z0 z1 : State} (hp_boot : Part.boot ∈ P) (hG : Cov G [⟨0xB200, 0xB200, 9, 9⟩, ⟨0xB200, 0xB200, 10, 10⟩]) (h : Own P G z0 z1) :
    Own P G z0 (Machine.discardSlot z1) := by
  refine h.step ?_
  clear h
  unfold Machine.discardSlot
  try dsimp only
  repeat' first
    | (exact hG.sub rfl) | (exact hG.item rfl)
    | with_reducible exact same _ | with_reducible assumption | with_reducible apply setNum | with_reducible apply setFld | split
    | with_reducible refine boot_set (by assumption) ?_

theorem writePart {z0 z1 : State} {part : Nat} {data : List Nat} (hp_boot : Part.boot ∈ P) (hG : Cov G [⟨0xB200, 0xB200, 9, 9⟩, ⟨0xB200, 0xB200, 10,
    10⟩]) (h : Own P G z0 z1) : Own P G z0 (Machine.writePart part data z1) := by
  refine h.step ?_
  clear h
  unfold Machine.writePart
  try dsimp only
  repeat' first
    | (exact hG.sub rfl) | (exact hG.item rfl) | with_reducible exact same _ | with_reducible assumption | with_reducible apply setFld
    | with_reducible apply setNum | omega | with_reducible refine boot_set (by assumption) ?_

theorem correctedRate {z0 z1 : State} {x : Side} (hp_sides : Part.sides ∈ P) (hG : Cov G [⟨0x6030, 0x6031, 1, 1⟩]) (h : Own P G z0 z1) : Own P G z0
    (Machine.correctedRate x z1) := by
  refine h.step ?_
  clear h
  have := sideIx_lt x
  unfold Machine.correctedRate
  try dsimp only
  repeat' first
    | (exact hG.sub rfl) | (exact hG.item rfl)
    | with_reducible exact same _ | with_reducible assumption | with_reducible refine branch (fun hc => ?_) (fun hc => ?_)
    | with_reducible apply refreshBad | with_reducible apply setBitO | (refine hG.hit 0x6030 0x6031 1 1 rfl ?_ ?_ ?_ ?_ ?_ <;> omega)

theorem permitAtReady {z0 z1 : State} (hp_safety : Part.safety ∈ P) (hG : Cov G [⟨0x6800, 0x6800, 2, 2⟩]) (h : Own P G z0 z1) : Own P G z0
    (Machine.permitAtReady z1) := by
  refine h.step ?_
  clear h
  unfold Machine.permitAtReady
  try dsimp only
  repeat' first
    | (exact hG.sub rfl) | (exact hG.item rfl) | with_reducible exact same _ | with_reducible assumption | with_reducible apply setPermits
    | with_reducible apply setBitO | with_reducible apply setEnables | omega

theorem endLoad {z0 z1 : State} {result : Nat} (hp_boot : Part.boot ∈ P) (hG : Cov G [⟨0xB000, 0xB000, 1, 1⟩, ⟨0xB000, 0xB000, 4, 4⟩, ⟨0xB000,
    0xB000, 5, 5⟩]) (h : Own P G z0 z1) : Own P G z0 (Machine.endLoad result z1) := by
  refine h.step ?_
  clear h
  unfold Machine.endLoad
  try dsimp only
  repeat' first
    | (exact hG.sub rfl) | (exact hG.item rfl)
    | with_reducible exact same _ | with_reducible assumption | with_reducible apply setFld | with_reducible apply setNum
    | with_reducible apply setStage | with_reducible refine boot_set (by assumption) ?_

theorem formIdentity {z0 z1 : State} {k : Nat} (hp_boot : Part.boot ∈ P) (hG : Cov G [⟨0x1000, 0x1000, 1, 1⟩, ⟨0x1000, 0x1000, 3, 3⟩, ⟨0x1010,
    0x1010, 1, 1⟩, ⟨0x1010, 0x1010, 2, 2⟩, ⟨0x7020, 0x7020, 1, 1⟩, ⟨0xB100, 0xB100, 2, 2⟩]) (h : Own P G z0 z1) : Own P G z0 (Machine.formIdentity k
    z1) := by
  refine h.step ?_
  clear h
  unfold Machine.formIdentity
  try dsimp only
  repeat' first
    | (exact hG.sub rfl) | (exact hG.item rfl)
    | with_reducible exact same _ | with_reducible assumption | with_reducible apply setNum | with_reducible apply setBlob
    | with_reducible refine boot_set (by assumption) ?_

theorem takeBlock {z0 z1 : State} {src size off len : Nat} {data : List Nat} (hp_boot : Part.boot ∈ P) (hG : Cov G [⟨0xB000, 0xB000,
    1, 1⟩, ⟨0xB000, 0xB000, 4, 4⟩, ⟨0xB000, 0xB000, 5, 5⟩]) (h : Own P G z0 z1) : Own P G z0 (Machine.takeBlock src size off len data z1).2 := by
  refine h.step ?_
  clear h
  unfold Machine.takeBlock
  try dsimp only
  repeat' first
    | (exact hG.sub rfl) | (exact hG.item rfl) | with_reducible exact same _ | with_reducible assumption
    | with_reducible refine branch (fun hc => ?_) (fun hc => ?_) | with_reducible refine branch2 (fun hc => ?_) (fun hc => ?_)
    | with_reducible apply setFld | with_reducible apply setStage | with_reducible apply endLoad
    | with_reducible refine boot_set (by assumption) ?_

theorem putSensor {z0 z1 : State} {n v : Nat} (hG : Cov G [⟨0xB010, 0xB010, 1, 1⟩]) (h : Own P G z0 z1) : Own P G z0 (Machine.putSensor n v z1) := by
  refine h.step ?_
  clear h
  unfold Machine.putSensor
  try dsimp only
  repeat' first
    | (exact hG.sub rfl) | (exact hG.item rfl)
    | with_reducible exact same _ | with_reducible assumption | with_reducible apply setBlob

theorem missTrigger {z0 z1 : State} {k : Nat} (hp_capture : Part.capture ∈ P) (hG : Cov G [⟨0x8010, 0x8017, 13, 13⟩]) (hb_k : k < 8) (h : Own P G z0
    z1) : Own P G z0 (Machine.missTrigger k z1) := by
  refine h.step ?_
  clear h
  unfold Machine.missTrigger
  try dsimp only
  repeat' first
    | (exact hG.sub rfl) | (exact hG.item rfl)
    | with_reducible exact same _ | with_reducible apply incSat | (refine hG.hit 0x8010 0x8017 13 13 rfl ?_ ?_ ?_ ?_ ?_ <;> omega)
    | with_reducible refine capture_set (by assumption) ?_

theorem acceptTrigger {z0 z1 : State} {x : Side} {k id : Nat} {r : Row} (hp_capture : Part.capture ∈ P) (h : Own P G z0 z1) : Own P G z0
    (Machine.acceptTrigger x k id r z1) := by
  refine h.step ?_
  clear h
  unfold Machine.acceptTrigger
  try dsimp only
  repeat' first
    | with_reducible exact same _ | with_reducible assumption | with_reducible refine branch (fun hc => ?_) (fun hc => ?_)
    | with_reducible apply setSegment | with_reducible apply setEngine | with_reducible apply raise

theorem missWaiting {z0 z1 : State} {x : Side} {k : Nat} (hp_capture : Part.capture ∈ P) (hG : Cov G [⟨0x8010, 0x8017, 13, 13⟩]) (hb_k : k < 8) (h : Own P G z0
    z1) : Own P G z0 (Machine.missWaiting x k z1) := by
  refine h.step ?_
  clear h
  unfold Machine.missWaiting
  try dsimp only
  repeat' first
    | (exact hG.sub rfl) | (exact hG.item rfl) | with_reducible exact same _ | with_reducible assumption
    | with_reducible refine branch (fun hc => ?_) (fun hc => ?_) | with_reducible apply missTrigger | with_reducible apply setEngine
    | with_reducible refine foldl ?_ (fun v a ha => ?_)

theorem armNext {z0 z1 : State} {x : Side} {k : Nat} {since : Nat} (hp_capture : Part.capture ∈ P) (hG : Cov G [⟨0x8010, 0x8017, 13, 13⟩]) (hb_k :
    k < 8) (h : Own P G z0 z1) : Own P G z0 (Machine.armNext x k since z1) := by
  refine h.step ?_
  clear h
  have := sideIx_lt x
  unfold Machine.armNext
  try dsimp only
  repeat' first
    | (exact hG.sub rfl) | (exact hG.item rfl) | with_reducible exact same _ | with_reducible assumption
    | with_reducible refine branch (fun hc => ?_) (fun hc => ?_) | with_reducible apply missWaiting | with_reducible apply dropSegment
    | with_reducible apply missTrigger | with_reducible apply raise | with_reducible apply setEngine
    | with_reducible refine foldl ?_ (fun v a ha => ?_) | omega | split

theorem armPlans {z0 z1 : State} {mask sid : Nat} (hp_capture : Part.capture ∈ P) (h : Own P G z0 z1) : Own P G z0 (Machine.armPlans mask sid z1) := by
  refine h.step ?_
  clear h
  unfold Machine.armPlans
  try dsimp only
  repeat' first
    | with_reducible exact same _ | with_reducible assumption | with_reducible refine branch (fun hc => ?_) (fun hc => ?_)
    | with_reducible apply setEngine | with_reducible apply setStream | with_reducible refine forMask ?_ (fun i v hi => ?_)

theorem disarmPlans {z0 z1 : State} {mask : Nat} (hp_capture : Part.capture ∈ P) (h : Own P G z0 z1) : Own P G z0 (Machine.disarmPlans mask z1) := by
  refine h.step ?_
  clear h
  unfold Machine.disarmPlans
  try dsimp only
  repeat' first
    | with_reducible exact same _ | with_reducible assumption | with_reducible apply setEngine
    | with_reducible refine forMask ?_ (fun i v hi => ?_)

theorem triggerPlans {z0 z1 : State} {mask : Nat} (h : Own P G z0 z1) : Own P G z0 (Machine.triggerPlans mask z1) := by
  refine h.step ?_
  clear h
  unfold Machine.triggerPlans
  try dsimp only
  repeat' first
    | with_reducible exact same _ | with_reducible assumption | with_reducible refine branch (fun hc => ?_) (fun hc => ?_)
    | with_reducible apply pushTrigger | with_reducible refine forMask ?_ (fun i v hi => ?_)

theorem freeSegment {z0 z1 : State} {x : Side} {k : Nat} {id : Nat} (hp_capture : Part.capture ∈ P) (hb_k : k < 8) (h : Own P G z0 z1) : Own P G z0
    (Machine.freeSegment x k id z1) := by
  refine h.step ?_
  clear h
  have := sideIx_lt x
  unfold Machine.freeSegment
  try dsimp only
  repeat' first
    | with_reducible exact same _ | with_reducible assumption | with_reducible refine branch (fun hc => ?_) (fun hc => ?_)
    | with_reducible apply dropSegment | with_reducible apply setEngine | with_reducible apply setSegment | omega | split

theorem releaseSegment {z0 z1 : State} {id : Nat} (hp_capture : Part.capture ∈ P) (h : Own P G z0 z1) : Own P G z0 (Machine.releaseSegment id z1) := by
  refine h.step ?_
  clear h
  unfold Machine.releaseSegment
  try dsimp only
  repeat' first
    | with_reducible exact same _ | with_reducible assumption | with_reducible apply freeSegment | split
    | with_reducible exact planOfSegment_lt ‹_›

theorem captureCommandWrite {z0 z1 : State} {sid word : Nat} (hp_capture : Part.capture ∈ P) (hG : Cov G [⟨0x8000, 0x8000, 2, 2⟩]) (h : Own P G z0
    z1) : Own P G z0 (Machine.captureCommandWrite sid word z1) := by
  refine h.step ?_
  clear h
  unfold Machine.captureCommandWrite
  try dsimp only
  repeat' first
    | (exact hG.sub rfl) | (exact hG.item rfl)
    | with_reducible exact same _ | with_reducible assumption | with_reducible apply armPlans | with_reducible apply disarmPlans
    | with_reducible apply triggerPlans | with_reducible apply releaseSegment | with_reducible apply setBitO | split

theorem doubleFactor {z0 z1 : State} {x : Side} {k cause : Nat} (hp_capture : Part.capture ∈ P) (hG : Cov G [⟨0x8000, 0x8000, 2, 2⟩]) (h : Own P G
    z0 z1) : Own P G z0 (Machine.doubleFactor x k cause z1) := by
  refine h.step ?_
  clear h
  unfold Machine.doubleFactor
  try dsimp only
  repeat' first
    | (exact hG.sub rfl) | (exact hG.item rfl)
    | with_reducible exact same _ | with_reducible assumption | with_reducible refine branch (fun hc => ?_) (fun hc => ?_)
    | with_reducible apply setEngine | with_reducible apply setSegment | with_reducible apply raise | with_reducible apply setBitO | split

theorem orderedDoubling {z0 z1 : State} {x : Side} {k e : Nat} (hp_capture : Part.capture ∈ P) (hG : Cov G [⟨0x8000, 0x8000, 2, 2⟩]) (h : Own P G z0
    z1) : Own P G z0 (Machine.orderedDoubling x k e z1) := by
  refine h.step ?_
  clear h
  unfold Machine.orderedDoubling
  try dsimp only
  repeat' first
    | (exact hG.sub rfl) | (exact hG.item rfl)
    | with_reducible exact same _ | with_reducible assumption | with_reducible refine branch (fun hc => ?_) (fun hc => ?_)
    | with_reducible apply setEngine | with_reducible apply doubleFactor | split

theorem takeRow {z0 z1 : State} {x : Side} {k id : Nat} {r : Row} (hp_capture : Part.capture ∈ P) (hG : Cov G [⟨0x8010, 0x8017, 13, 13⟩]) (hb_k : k
    < 8) (h : Own P G z0 z1) : Own P G z0 (Machine.takeRow x k id r z1) := by
  refine h.step ?_
  clear h
  unfold Machine.takeRow
  try dsimp only
  repeat' first
    | (exact hG.sub rfl) | (exact hG.item rfl)
    | with_reducible exact same _ | with_reducible assumption | with_reducible refine branch (fun hc => ?_) (fun hc => ?_)
    | with_reducible apply setSegment | with_reducible apply missTrigger | with_reducible apply acceptTrigger
    | with_reducible apply setEngine

theorem completeSegment {z0 z1 : State} {x : Side} {k id : Nat} {truncated : Bool} (hp_capture : Part.capture ∈ P) (hG : Cov G [⟨0x8010, 0x8017,
    12, 12⟩, ⟨0x8010, 0x8017, 13, 13⟩]) (hb_k : k < 8) (h : Own P G z0 z1) : Own P G z0 (Machine.completeSegment x k id truncated z1) := by
  refine h.step ?_
  clear h
  have := sideIx_lt x
  unfold Machine.completeSegment
  try dsimp only
  repeat' first
    | (exact hG.sub rfl) | (exact hG.item rfl) | with_reducible exact same _ | with_reducible assumption
    | with_reducible refine branch (fun hc => ?_) (fun hc => ?_) | with_reducible apply missWaiting | with_reducible apply setSegment
    | with_reducible apply setEngine | with_reducible apply incWrap | with_reducible apply raise | with_reducible apply armNext
    | (refine hG.hit 0x8010 0x8017 12 12 rfl ?_ ?_ ?_ ?_ ?_ <;> (first | omega | ((try simp only [planIx]); omega)))

theorem writeBacklog {z0 z1 : State} {x : Side} {k id fill : Nat} (hp_capture : Part.capture ∈ P) (hG : Cov G [⟨0x8000, 0x8000, 2, 2⟩, ⟨0x8010,
    0x8017, 12, 12⟩, ⟨0x8010, 0x8017, 13, 13⟩]) (hb_k : k < 8) (h : Own P G z0 z1) : Own P G z0 (Machine.writeBacklog x k id fill z1) := by
  refine h.step ?_
  clear h
  unfold Machine.writeBacklog
  try dsimp only
  repeat' first
    | (exact hG.sub rfl) | (exact hG.item rfl)
    | with_reducible exact same _ | with_reducible assumption | with_reducible refine branch (fun hc => ?_) (fun hc => ?_)
    | with_reducible apply setBitO | with_reducible apply completeSegment | with_reducible apply armNext | with_reducible apply raise
    | with_reducible apply setEngine | with_reducible apply doubleFactor

theorem recordRow {z0 z1 : State} {x : Side} {k id e fill : Nat} (hp_capture : Part.capture ∈ P) (hG : Cov G [⟨0x8000, 0x8000, 2, 2⟩, ⟨0x8010,
    0x8017, 12, 12⟩, ⟨0x8010, 0x8017, 13, 13⟩]) (hb_k : k < 8) (h : Own P G z0 z1) : Own P G z0 (Machine.recordRow x k id e fill z1) := by
  refine h.step ?_
  clear h
  unfold Machine.recordRow
  try dsimp only
  repeat' first
    | (exact hG.sub rfl) | (exact hG.item rfl)
    | with_reducible exact same _ | with_reducible assumption | with_reducible refine branch (fun hc => ?_) (fun hc => ?_)
    | with_reducible apply countEvent | with_reducible apply takeRow | with_reducible apply completeSegment
    | with_reducible apply writeBacklog | split

theorem captureEvent {z0 z1 : State} {x : Side} {k : Nat} {ev : Nat × Nat} {fill : Nat} (hp_capture : Part.capture ∈ P) (hG : Cov G [⟨0x8000,
    0x8000, 2, 2⟩, ⟨0x8010, 0x8017, 12, 12⟩, ⟨0x8010, 0x8017, 13, 13⟩]) (hb_k : k < 8) (h : Own P G z0 z1) : Own P G z0 (Machine.captureEvent x k
    ev fill z1) := by
  refine h.step ?_
  clear h
  unfold Machine.captureEvent
  try dsimp only
  repeat' first
    | (exact hG.sub rfl) | (exact hG.item rfl) | with_reducible exact same _ | with_reducible assumption
    | with_reducible refine branch (fun hc => ?_) (fun hc => ?_) | with_reducible apply missWaiting | with_reducible apply setEngine
    | with_reducible apply armNext | with_reducible apply orderedDoubling | with_reducible apply recordRow | split

theorem holdSegment {z0 z1 : State} {id : Nat} (hp_capture : Part.capture ∈ P) (h : Own P G z0 z1) : Own P G z0 (Machine.holdSegment id z1) := by
  refine h.step ?_
  clear h
  unfold Machine.holdSegment
  try dsimp only
  repeat' first
    | with_reducible exact same _ | with_reducible assumption | with_reducible apply setSegment | split

theorem readHeader {z0 z1 : State} {r : Nat} (hp_capture : Part.capture ∈ P) (h : Own P G z0 z1) : Own P G z0 (Machine.readHeader r z1).2 := by
  refine h.step ?_
  clear h
  unfold Machine.readHeader
  try dsimp only
  repeat' first
    | with_reducible exact same _ | with_reducible assumption | with_reducible apply holdSegment | split

theorem readRows {z0 z1 : State} {r : Nat} (hp_capture : Part.capture ∈ P) (hp_net : Part.net ∈ P) (h : Own P G z0 z1) : Own P G z0
    (Machine.readRows r z1).2 := by
  refine h.step ?_
  clear h
  unfold Machine.readRows
  try dsimp only
  repeat' first
    | with_reducible exact same _ | with_reducible assumption | with_reducible apply setReader | with_reducible apply holdSegment | split

theorem sendStream {z0 z1 : State} {k : Nat} (hp_capture : Part.capture ∈ P) (hp_net : Part.net ∈ P) (hp_out : Part.out ∈ P) (h : Own P G z0 z1) :
    Own P G z0 (Machine.sendStream k z1) := by
  refine h.step ?_
  clear h
  unfold Machine.sendStream
  try dsimp only
  repeat' first
    | with_reducible exact same _ | with_reducible assumption | with_reducible refine branch (fun hc => ?_) (fun hc => ?_)
    | with_reducible apply sendSession | with_reducible apply setStream | split

theorem selectSegment {z0 z1 : State} {r value : Nat} (hp_net : Part.net ∈ P) (h : Own P G z0 z1) : Own P G z0 (Machine.selectSegment r value z1) := by
  refine h.step ?_
  clear h
  unfold Machine.selectSegment
  try dsimp only
  repeat' first
    | with_reducible exact same _ | with_reducible assumption | with_reducible apply setReader

end Own
end Sys2Proof
end

