-- ==== Sys2Proof/Laws/OnlyHost.lean ====
section
/-!
SUPPORT. What each operation can move, one lemma each: the plate's commands, writes, the grid-forming machine, the graph, the scribe, reads and the network.
-/

set_option Elab.async false
set_option maxRecDepth 2000
set_option linter.unusedVariables false
set_option linter.unusedSimpArgs false
namespace Sys2Proof
open Sys2Proof.Machine
variable {P : List Part} {G : List Objs}
namespace Own

theorem applyStamped {z0 z1 : State} {w : Stamped} (hp_plate : Part.plate ∈ P) (hG : Cov G [⟨0x5140, 0x515F, 2, 2⟩]) (h : Own P G z0 z1) : Own P G
    z0 (Machine.applyStamped w z1) := by
  refine h.step ?_
  clear h
  unfold Machine.applyStamped
  try dsimp only
  repeat' first
    | (exact hG.sub rfl) | (exact hG.item rfl)
    | with_reducible exact same _ | with_reducible assumption | with_reducible refine branch (fun hc => ?_) (fun hc => ?_)
    | with_reducible apply writeShadow | with_reducible apply commitBoth | with_reducible apply writePeriod
    | with_reducible refine forMask ?_ (fun i v hi => ?_) | omega

theorem applyWaiting {z0 z1 : State} {kinds : List Nat} (hp_plate : Part.plate ∈ P) (hG : Cov G [⟨0x5140, 0x515F, 2, 2⟩]) (h : Own P G z0 z1) : Own
    P G z0 (Machine.applyWaiting kinds z1) := by
  refine h.step ?_
  clear h
  unfold Machine.applyWaiting
  try dsimp only
  repeat' first
    | (exact hG.sub rfl) | (exact hG.item rfl)
    | with_reducible exact same _ | with_reducible assumption | with_reducible apply applyStamped
    | with_reducible refine foldl ?_ (fun v a ha => ?_) | exact Eq.refl _ | with_reducible refine plate_set ‹_› ?_ ?_

theorem rejectCarrier {z0 z1 : State} {way : Nat} (hG : Cov G [⟨0x5100, 0x5100, 4, 4⟩]) (h : Own P G z0 z1) : Own P G z0 (Machine.rejectCarrier way
    z1) := by
  refine h.step ?_
  clear h
  unfold Machine.rejectCarrier
  try dsimp only
  repeat' first
    | (exact hG.sub rfl) | (exact hG.item rfl)
    | with_reducible exact same _ | with_reducible assumption | with_reducible apply raise | with_reducible apply setBitO

theorem carrierStartWrite {z0 z1 : State} {at96 : Nat} (hp_plate : Part.plate ∈ P) (hG : Cov G [⟨0x5100, 0x5100, 4, 4⟩]) (h : Own P G z0 z1) : Own P
    G z0 (Machine.carrierStartWrite at96 z1) := by
  refine h.step ?_
  clear h
  unfold Machine.carrierStartWrite
  try dsimp only
  repeat' first
    | (exact hG.sub rfl) | (exact hG.item rfl) | with_reducible exact same _ | with_reducible assumption
    | with_reducible refine branch (fun hc => ?_) (fun hc => ?_) | with_reducible apply modCarrier | with_reducible apply rejectCarrier
    | with_reducible refine forN ?_ (fun i v hi => ?_) | omega | split

theorem carrierStopWrite {z0 z1 : State} {mask : Nat} (hp_plate : Part.plate ∈ P) (hG : Cov G [⟨0x5100, 0x5100, 4, 4⟩]) (h : Own P G z0 z1) : Own P
    G z0 (Machine.carrierStopWrite mask z1) := by
  refine h.step ?_
  clear h
  unfold Machine.carrierStopWrite
  try dsimp only
  repeat' first
    | (exact hG.sub rfl) | (exact hG.item rfl) | with_reducible exact same _ | with_reducible assumption
    | with_reducible refine branch (fun hc => ?_) (fun hc => ?_) | with_reducible apply modCarrier | with_reducible apply rejectCarrier
    | with_reducible refine forMask ?_ (fun i v hi => ?_) | omega | split

theorem stampWrite {z0 z1 : State} {kind key value : Nat} (hp_plate : Part.plate ∈ P) (h : Own P G z0 z1) : Own P G z0 (Machine.stampWrite kind key
    value z1) := by
  refine h.step ?_
  clear h
  unfold Machine.stampWrite
  try dsimp only
  repeat' first
    | with_reducible exact same _ | exact Eq.refl _ | with_reducible refine plate_set ‹_› ?_ ?_

theorem updateCommitWrite {z0 z1 : State} {mask : Nat} (hp_plate : Part.plate ∈ P) (h : Own P G z0 z1) : Own P G z0 (Machine.updateCommitWrite mask
    z1) := by
  refine h.step ?_
  clear h
  unfold Machine.updateCommitWrite
  try dsimp only
  repeat' first
    | with_reducible exact same _ | with_reducible assumption | with_reducible refine branch (fun hc => ?_) (fun hc => ?_)
    | with_reducible apply stampWrite

theorem tripRelease {z0 z1 : State} {w : Nat} (hp_meas : Part.meas ∈ P) (hG : Cov G [⟨0x5300, 0x5300, 4, 4⟩, ⟨0x5310, 0x5310, 3, 3⟩]) (h : Own P G
    z0 z1) : Own P G z0 (Machine.tripRelease w z1) := by
  refine h.step ?_
  clear h
  unfold Machine.tripRelease
  try dsimp only
  repeat' first
    | (exact hG.sub rfl) | (exact hG.item rfl)
    | with_reducible exact same _ | with_reducible assumption | with_reducible refine branch (fun hc => ?_) (fun hc => ?_)
    | with_reducible apply setNum | with_reducible apply raise | with_reducible apply setBitO | split
    | with_reducible refine meas_set (by assumption) ?_

theorem enterCommission {z0 z1 : State} (hG : Cov G [⟨0x5300, 0x5300, 4, 4⟩]) (h : Own P G z0 z1) : Own P G z0 (Machine.enterCommission z1) := by
  refine h.step ?_
  clear h
  unfold Machine.enterCommission
  try dsimp only
  repeat' first
    | (exact hG.sub rfl) | (exact hG.item rfl)
    | with_reducible exact same _ | with_reducible assumption | with_reducible refine branch (fun hc => ?_) (fun hc => ?_)
    | with_reducible apply raise | with_reducible apply setBitO

theorem latchFaultIn {z0 z1 : State} {n : Nat} (hp_plate : Part.plate ∈ P) (hG : Cov G [⟨0x5310, 0x5310, 3, 3⟩]) (h : Own P G z0 z1) : Own P G z0
    (Machine.latchFaultIn n z1) := by
  refine h.step ?_
  clear h
  unfold Machine.latchFaultIn
  try dsimp only
  repeat' first
    | (exact hG.sub rfl) | (exact hG.item rfl)
    | with_reducible exact same _ | with_reducible assumption | with_reducible refine branch (fun hc => ?_) (fun hc => ?_)
    | with_reducible apply holdGates | with_reducible apply setBitO | with_reducible apply raise

theorem disableWrite {z0 z1 : State} {i value : Nat} (hp_plate : Part.plate ∈ P) (hG : Cov G [⟨0x5300, 0x5300, 1, 3⟩]) (hb_i : i < 3) (h : Own P G
    z0 z1) : Own P G z0 (Machine.disableWrite i value z1) := by
  refine h.step ?_
  clear h
  unfold Machine.disableWrite
  try dsimp only
  repeat' first
    | (exact hG.sub rfl) | (exact hG.item rfl)
    | with_reducible exact same _ | with_reducible assumption | with_reducible refine branch (fun hc => ?_) (fun hc => ?_)
    | with_reducible apply setNum | with_reducible apply stampWrite | with_reducible refine forN ?_ (fun i v hi => ?_)
    | (exact hG.item rfl) | (refine hG.hit 0x5300 0x5300 1 3 rfl ?_ ?_ ?_ ?_ ?_ <;> omega)

theorem shadowWriteOp {z0 z1 : State} {p sub value : Nat} (hp_plate : Part.plate ∈ P) (hG : Cov G [⟨0x5140, 0x515F, 2, 2⟩]) (h : Own P G z0 z1) :
    Own P G z0 (Machine.shadowWriteOp p sub value z1) := by
  refine h.step ?_
  clear h
  unfold Machine.shadowWriteOp
  try dsimp only
  repeat' first
    | (exact hG.sub rfl) | (exact hG.item rfl)
    | with_reducible exact same _ | with_reducible assumption | with_reducible refine branch (fun hc => ?_) (fun hc => ?_)
    | with_reducible apply raise | with_reducible apply setBitO | with_reducible apply stampWrite
    | (refine hG.hit 0x5140 0x515F 2 2 rfl ?_ ?_ ?_ ?_ ?_ <;> (first | omega | ((have := pairUpdate_lt z1 p; omega))))

theorem overrideWrite {z0 z1 : State} {m : List Nat} (hp_plate : Part.plate ∈ P) (hG : Cov G [⟨0x5300, 0x5300, 4, 4⟩, ⟨0x5320, 0x5320, 2, 2⟩]) (h :
    Own P G z0 z1) : Own P G z0 (Machine.overrideWrite m z1) := by
  refine h.step ?_
  clear h
  unfold Machine.overrideWrite
  try dsimp only
  repeat' first
    | (exact hG.sub rfl) | (exact hG.item rfl)
    | with_reducible exact same _ | with_reducible assumption | with_reducible refine branch (fun hc => ?_) (fun hc => ?_)
    | with_reducible apply setBlob | with_reducible apply setBitO | exact Eq.refl _ | with_reducible refine plate_set ‹_› ?_ ?_

theorem freshBeats {z0 z1 : State} {x : Side} (hp_sides : Part.sides ∈ P) (h : Own P G z0 z1) : Own P G z0 (Machine.freshBeats x z1) := by
  refine h.step ?_
  clear h
  unfold Machine.freshBeats
  try dsimp only
  repeat' first
    | with_reducible exact same _ | with_reducible assumption | with_reducible apply setSideRt

theorem abortSet {z0 z1 : State} {w : Sender} (hp_net : Part.net ∈ P) (h : Own P G z0 z1) : Own P G z0 (Machine.abortSet w z1).2 := by
  refine h.step ?_
  clear h
  unfold Machine.abortSet
  try dsimp only
  repeat' first
    | with_reducible exact same _ | with_reducible assumption | with_reducible refine branch2 (fun hc => ?_) (fun hc => ?_)
    | with_reducible apply abortOpenSet

theorem beginSet {z0 z1 : State} {w : Sender} {id : Nat} (hp_net : Part.net ∈ P) (h : Own P G z0 z1) : Own P G z0 (Machine.beginSet w id z1).2 := by
  refine h.step ?_
  clear h
  unfold Machine.beginSet
  try dsimp only
  repeat' first
    | with_reducible exact same _ | split | dsimp only | with_reducible refine net_set (by assumption) ?_

theorem countClear {z0 z1 : State} {b : List Nat} (hG : Cov G [⟨0x1200, 0x1200, 2, 2⟩]) (h : Own P G z0 z1) : Own P G z0 (Machine.countClear b z1)
    := by
  refine h.step ?_
  clear h
  unfold Machine.countClear
  try dsimp only
  repeat' first
    | (exact hG.sub rfl) | (exact hG.item rfl) | with_reducible exact same _ | with_reducible assumption
    | with_reducible refine branch (fun hc => ?_) (fun hc => ?_) | with_reducible apply setBlob | omega | split

theorem commitSet {z0 z1 : State} {w : Sender} (hp_net : Part.net ∈ P) (h : Own P G z0 z1) : Own P G z0 (Machine.commitSet w z1).2 := by
  refine h.step ?_
  clear h
  unfold Machine.commitSet
  try dsimp only
  repeat' first
    | with_reducible exact same _ | with_reducible assumption | with_reducible refine branch2 (fun hc => ?_) (fun hc => ?_)
    | with_reducible apply modSet

theorem immRefused {z0 z1 : State} {i j v : Nat} {b : List Nat} (hp_plate : Part.plate ∈ P) (hG : Cov G [⟨0x5300, 0x5300, 4, 4⟩, ⟨0x5320, 0x5320, 2,
    2⟩, ⟨0x7000, 0x7000, 2, 2⟩, ⟨0x7000, 0x7000, 5, 5⟩]) (h : Own P G z0 z1) : Own P G z0 (Machine.immRefused i j v b z1) := by
  refine h.step ?_
  clear h
  unfold Machine.immRefused
  try dsimp only
  repeat' first
    | (exact hG.sub rfl) | (exact hG.item rfl)
    | with_reducible exact same _ | with_reducible assumption | with_reducible refine branch (fun hc => ?_) (fun hc => ?_)
    | with_reducible apply writeIncrement | with_reducible apply overrideWrite

theorem pendingClear {z0 z1 : State} {b : List Nat} (hG : Cov G [⟨0x1200, 0x1200, 1, 1⟩]) (h : Own P G z0 z1) : Own P G z0 (Machine.pendingClear b
    z1) := by
  refine h.step ?_
  clear h
  unfold Machine.pendingClear
  try dsimp only
  repeat' first
    | (exact hG.sub rfl) | (exact hG.item rfl) | with_reducible exact same _ | with_reducible assumption | with_reducible apply setBlob | omega

theorem perWrite {z0 z1 : State} {r i j v : Nat} {o : ObjRow} (hp_net : Part.net ∈ P) (h : Own P G z0 z1) : Own P G z0 (Machine.perWrite r i j v o
    z1) := by
  refine h.step ?_
  clear h
  unfold Machine.perWrite
  try dsimp only
  repeat' first
    | with_reducible exact same _ | with_reducible assumption | with_reducible refine branch (fun hc => ?_) (fun hc => ?_)
    | with_reducible apply selectSegment | with_reducible apply setReader

theorem stage {z0 z1 : State} {w : Sender} {k : Nat} {v : Val} (hp_net : Part.net ∈ P) (h : Own P G z0 z1) : Own P G z0 (Machine.stage w k v z1).2
    := by
  refine h.step ?_
  clear h
  unfold Machine.stage
  try dsimp only
  repeat' first
    | with_reducible exact same _ | with_reducible assumption | with_reducible refine branch2 (fun hc => ?_) (fun hc => ?_)
    | with_reducible apply modSet | split

theorem putSeg {z0 z1 : State} {r k : Nat} {q : Option SegWrite} (hp_net : Part.net ∈ P) (h : Own P G z0 z1) : Own P G z0 (Machine.putSeg r k q z1)
    := by
  refine h.step ?_
  clear h
  unfold Machine.putSeg
  try dsimp only
  repeat' first
    | with_reducible exact same _ | with_reducible assumption | with_reducible apply setReader | split

theorem ackDouble {z0 z1 : State} (hp_meas : Part.meas ∈ P) (hp_graphs : Part.graphs ∈ P) (hp_plate : Part.plate ∈ P) (hp_sides : Part.sides ∈ P)
    (hp_capture : Part.capture ∈ P) (hG : Cov G [⟨0x6021, 0x6021, 1, 1⟩, ⟨0x7050, 0x7050, 1, 1⟩, ⟨0x7100, 0x7104, 3, 3⟩]) (h : Own P G z0 z1) : Own
    P G z0 (Machine.ackDouble z1) := by
  refine h.step ?_
  clear h
  unfold Machine.ackDouble
  try dsimp only
  repeat' first
    | (exact hG.sub rfl) | (exact hG.item rfl)
    | with_reducible exact same _ | with_reducible assumption | with_reducible refine branch (fun hc => ?_) (fun hc => ?_)
    | with_reducible apply startReinit | with_reducible apply setSideRt | with_reducible refine sides_set (by assumption) ?_

theorem maxTime {z0 z1 : State} {st ev fs : Nat} (hp_gf : Part.gf ∈ P) (h : Own P G z0 z1) : Own P G z0 (Machine.maxTime st ev fs z1) := by
  refine h.step ?_
  clear h
  unfold Machine.maxTime
  try dsimp only
  repeat' first
    | with_reducible exact same _ | with_reducible assumption | with_reducible refine branch (fun hc => ?_) (fun hc => ?_)
    | with_reducible apply raise | with_reducible apply noteCause

theorem blackStartMax {z0 z1 : State} (hp_gf : Part.gf ∈ P) (h : Own P G z0 z1) : Own P G z0 (Machine.blackStartMax z1) := by
  refine h.step ?_
  clear h
  unfold Machine.blackStartMax
  try dsimp only
  repeat' first
    | with_reducible exact same _ | with_reducible assumption | with_reducible apply maxTime

theorem loadRotor {z0 z1 : State} {kind : Nat} (hp_graphs : Part.graphs ∈ P) (h : Own P G z0 z1) : Own P G z0 (Machine.loadRotor kind z1) := by
  refine h.step ?_
  clear h
  unfold Machine.loadRotor
  try dsimp only
  repeat' first
    | with_reducible exact same _ | with_reducible assumption | with_reducible apply modInst | split

theorem gfCommandWrite {z0 z1 : State} {word : Nat} (hp_gf : Part.gf ∈ P) (h : Own P G z0 z1) : Own P G z0 (Machine.gfCommandWrite word z1) := by
  refine h.step ?_
  clear h
  unfold Machine.gfCommandWrite
  try dsimp only
  repeat' first
    | with_reducible exact same _ | with_reducible refine branch (fun hc => ?_) (fun hc => ?_)
    | with_reducible refine gf_set (by assumption) ?_

theorem evalCommand {z0 z1 : State} {tick : Bool} {l : List Reading} (hp_gf : Part.gf ∈ P) (hG : Cov G [⟨0x4001, 0x4001, 3, 3⟩, ⟨0x4001, 0x4001, 5,
    5⟩]) (h : Own P G z0 z1) : Own P G z0 (Machine.evalCommand tick l z1).2 := by
  refine h.step ?_
  clear h
  unfold Machine.evalCommand
  try dsimp only
  repeat' first
    | (exact hG.sub rfl) | (exact hG.item rfl)
    | with_reducible exact same _ | with_reducible assumption | with_reducible refine branch2 (fun hc => ?_) (fun hc => ?_)
    | with_reducible apply setNum | with_reducible apply raise | with_reducible apply setBitO | split
    | with_reducible refine gf_set (by assumption) ?_

theorem issueClose {z0 z1 : State} (hp_gf : Part.gf ∈ P) (hG : Cov G [⟨0x4001, 0x4001, 3, 3⟩]) (h : Own P G z0 z1) : Own P G z0 (Machine.issueClose
    z1) := by
  refine h.step ?_
  clear h
  unfold Machine.issueClose
  try dsimp only
  repeat' first
    | (exact hG.sub rfl) | (exact hG.item rfl)
    | with_reducible exact same _ | with_reducible assumption | with_reducible refine branch (fun hc => ?_) (fun hc => ?_)
    | with_reducible apply raise | with_reducible apply setBitO | with_reducible refine gf_set (by assumption) ?_

theorem setHold {z0 z1 : State} {i : Nat} {on : Bool} (hp_gf : Part.gf ∈ P) (h : Own P G z0 z1) : Own P G z0 (Machine.setHold i on z1) := by
  refine h.step ?_
  clear h
  unfold Machine.setHold
  try dsimp only
  repeat' first
    | with_reducible exact same _ | with_reducible refine branch (fun hc => ?_) (fun hc => ?_) | split
    | with_reducible refine gf_set (by assumption) ?_

theorem takeCauses {z0 z1 : State} {l : List Reading} (hp_gf : Part.gf ∈ P) (h : Own P G z0 z1) : Own P G z0 (Machine.takeCauses l z1) := by
  refine h.step ?_
  clear h
  unfold Machine.takeCauses
  try dsimp only
  repeat' first
    | with_reducible exact same _ | with_reducible assumption | with_reducible apply setHold | split
    | with_reducible refine gf_set (by assumption) ?_

theorem noteUnknown {z0 z1 : State} {l : List Reading} (hp_gf : Part.gf ∈ P) (h : Own P G z0 z1) : Own P G z0 (Machine.noteUnknown l z1) := by
  refine h.step ?_
  clear h
  unfold Machine.noteUnknown
  try dsimp only
  repeat' first
    | with_reducible exact same _ | with_reducible refine branch (fun hc => ?_) (fun hc => ?_) | with_reducible apply raise
    | with_reducible refine forN ?_ (fun i v hi => ?_) | with_reducible refine gf_set (by assumption) ?_

theorem resyncMax {z0 z1 : State} (hp_gf : Part.gf ∈ P) (h : Own P G z0 z1) : Own P G z0 (Machine.resyncMax z1) := by
  refine h.step ?_
  clear h
  unfold Machine.resyncMax
  try dsimp only
  repeat' first
    | with_reducible exact same _ | with_reducible refine branch (fun hc => ?_) (fun hc => ?_) | with_reducible apply raise
    | with_reducible refine gf_set (by assumption) ?_

theorem rideMax {z0 z1 : State} (hp_gf : Part.gf ∈ P) (h : Own P G z0 z1) : Own P G z0 (Machine.rideMax z1) := by
  refine h.step ?_
  clear h
  unfold Machine.rideMax
  try dsimp only
  repeat' first
    | with_reducible exact same _ | with_reducible assumption | with_reducible apply maxTime

theorem slipTick {z0 z1 : State} (hp_gf : Part.gf ∈ P) (hG : Cov G [⟨0x4002, 0x4002, 16, 16⟩, ⟨0x4002, 0x4002, 17, 17⟩]) (h : Own P G z0 z1) : Own P
    G z0 (Machine.slipTick z1) := by
  refine h.step ?_
  clear h
  unfold Machine.slipTick
  try dsimp only
  repeat' first
    | (exact hG.sub rfl) | (exact hG.item rfl)
    | with_reducible exact same _ | with_reducible assumption | with_reducible apply setNum | split
    | with_reducible refine gf_set (by assumption) ?_

theorem releaseOnClosed {z0 z1 : State} (hp_gf : Part.gf ∈ P) (hG : Cov G [⟨0x4001, 0x4001, 3, 3⟩]) (h : Own P G z0 z1) : Own P G z0
    (Machine.releaseOnClosed z1) := by
  refine h.step ?_
  clear h
  unfold Machine.releaseOnClosed
  try dsimp only
  repeat' first
    | (exact hG.sub rfl) | (exact hG.item rfl)
    | with_reducible exact same _ | with_reducible assumption | with_reducible refine branch (fun hc => ?_) (fun hc => ?_)
    | with_reducible apply releaseClose

theorem refreshGf {z0 z1 : State} (hp_graphs : Part.graphs ∈ P) (h : Own P G z0 z1) : Own P G z0 (Machine.refreshGf z1) := by
  refine h.step ?_
  clear h
  unfold Machine.refreshGf
  try dsimp only
  repeat' first
    | with_reducible exact same _ | with_reducible assumption | with_reducible apply setGraph

theorem hostGf {z0 z1 : State} {word : Nat} (hp_gf : Part.gf ∈ P) (h : Own P G z0 z1) : Own P G z0 (Machine.hostGf word z1) := by
  refine h.step ?_
  clear h
  unfold Machine.hostGf
  try dsimp only
  repeat' first
    | with_reducible exact same _ | with_reducible assumption | with_reducible refine branch (fun hc => ?_) (fun hc => ?_)
    | with_reducible apply gfCommandWrite

theorem readPlain {z0 z1 : State} {r j sub : Nat} (hp_net : Part.net ∈ P) (h : Own P G z0 z1) : Own P G z0 (Machine.readPlain r j sub z1).2 := by
  refine h.step ?_
  clear h
  unfold Machine.readPlain
  try dsimp only
  repeat' first
    | with_reducible exact same _ | with_reducible assumption | with_reducible apply setReader

theorem readFifo {z0 z1 : State} {j sub : Nat} (hp_graphs : Part.graphs ∈ P) (h : Own P G z0 z1) : Own P G z0 (Machine.readFifo j sub z1).2 := by
  refine h.step ?_
  clear h
  unfold Machine.readFifo
  try dsimp only
  repeat' first
    | with_reducible exact same _ | with_reducible assumption | with_reducible refine branch (fun hc => ?_) (fun hc => ?_)
    | with_reducible apply modResult | with_reducible refine foldl ?_ (fun v a ha => ?_) | split

theorem readResult {z0 z1 : State} {r j sub : Nat} (hp_graphs : Part.graphs ∈ P) (hp_net : Part.net ∈ P) (h : Own P G z0 z1) : Own P G z0
    (Machine.readResult r j sub z1).2 := by
  refine h.step ?_
  clear h
  unfold Machine.readResult
  try dsimp only
  repeat' first
    | with_reducible exact same _ | with_reducible assumption | with_reducible refine branch2 (fun hc => ?_) (fun hc => ?_)
    | with_reducible apply readPlain | with_reducible apply readFifo

theorem answerResult {z0 z1 : State} {r j sub : Nat} (hp_graphs : Part.graphs ∈ P) (hp_net : Part.net ∈ P) (hp_out : Part.out ∈ P) (h : Own P G z0
    z1) : Own P G z0 (Machine.answerResult r j sub z1) := by
  refine h.step ?_
  clear h
  unfold Machine.answerResult
  try dsimp only
  repeat' first
    | with_reducible exact same _ | with_reducible assumption | with_reducible apply readResult | with_reducible apply emit

theorem switchRequest {z0 z1 : State} {word : Nat} (hp_graphs : Part.graphs ∈ P) (hG : Cov G [⟨0x3000, 0x3000, 2, 2⟩]) (h : Own P G z0 z1) : Own P G
    z0 (Machine.switchRequest word z1) := by
  refine h.step ?_
  clear h
  unfold Machine.switchRequest
  try dsimp only
  repeat' first
    | (exact hG.sub rfl) | (exact hG.item rfl)
    | with_reducible exact same _ | with_reducible assumption | with_reducible refine branch (fun hc => ?_) (fun hc => ?_)
    | with_reducible apply raise | with_reducible apply setBitO | with_reducible refine graphs_set (by assumption) ?_

theorem swapRequest {z0 z1 : State} {mask : Nat} (hp_graphs : Part.graphs ∈ P) (hG : Cov G [⟨0x3300, 0x3300, 2, 2⟩]) (h : Own P G z0 z1) : Own P G
    z0 (Machine.swapRequest mask z1) := by
  refine h.step ?_
  clear h
  unfold Machine.swapRequest
  try dsimp only
  repeat' first
    | (exact hG.sub rfl) | (exact hG.item rfl)
    | with_reducible exact same _ | with_reducible assumption | with_reducible refine branch (fun hc => ?_) (fun hc => ?_)
    | with_reducible apply raise | with_reducible apply setBitO | with_reducible refine forMask ?_ (fun i v hi => ?_)
    | with_reducible refine graphs_set (by assumption) ?_

theorem stampCommand {z0 z1 : State} {ix word : Nat} (hp_graphs : Part.graphs ∈ P) (h : Own P G z0 z1) : Own P G z0 (Machine.stampCommand ix word
    z1) := by
  refine h.step ?_
  clear h
  unfold Machine.stampCommand
  try dsimp only
  repeat' first
    | with_reducible exact same _ | with_reducible assumption | with_reducible apply setGraph

theorem writeWord {z0 z1 : State} {x : Side} {c : Word} {n : Nat} (hp_plate : Part.plate ∈ P) (h : Own P G z0 z1) : Own P G z0 (Machine.writeWord x
    c n z1) := by
  refine h.step ?_
  clear h
  unfold Machine.writeWord
  try dsimp only
  repeat' first
    | with_reducible exact same _ | with_reducible assumption | with_reducible refine branch (fun hc => ?_) (fun hc => ?_)
    | with_reducible apply countEvent | with_reducible apply writeShadow

theorem writeWords {z0 z1 : State} {x : Side} {k : Nat} {bad : List Nat} (hp_graphs : Part.graphs ∈ P) (hp_plate : Part.plate ∈ P) (h : Own P G z0
    z1) : Own P G z0 (Machine.writeWords x k bad z1) := by
  refine h.step ?_
  clear h
  have := sideIx_lt x
  unfold Machine.writeWords
  try dsimp only
  repeat' first
    | with_reducible exact same _ | with_reducible assumption | with_reducible refine branch (fun hc => ?_) (fun hc => ?_)
    | with_reducible apply setGraph | with_reducible apply writeWord | with_reducible refine foldl ?_ (fun v a ha => ?_) | omega | split
    | with_reducible refine forMask ?_ (fun i v hi => ?_)

theorem sleepLanes {z0 z1 : State} {x : Side} {stay : Nat → Bool} (hp_graphs : Part.graphs ∈ P) (h : Own P G z0 z1) : Own P G z0
    (Machine.sleepLanes x stay z1) := by
  refine h.step ?_
  clear h
  unfold Machine.sleepLanes
  try dsimp only
  repeat' first
    | with_reducible exact same _ | with_reducible assumption | with_reducible refine branch (fun hc => ?_) (fun hc => ?_)
    | with_reducible apply setGraph

theorem entryDone {z0 z1 : State} {x : Side} {k n lane : Nat} (hp_graphs : Part.graphs ∈ P) (h : Own P G z0 z1) : Own P G z0 (Machine.entryDone x
    k n lane z1) := by
  refine h.step ?_
  clear h
  unfold Machine.entryDone
  try dsimp only
  repeat' first
    | with_reducible exact same _ | with_reducible assumption | with_reducible apply sleepLanes | with_reducible apply setGraph

theorem takeSwitch {z0 z1 : State} (hp_graphs : Part.graphs ∈ P) (hG : Cov G [⟨0x3000, 0x3000, 2, 2⟩, ⟨0x3000, 0x3000, 3, 3⟩, ⟨0x3000, 0x3000, 5,
    5⟩, ⟨0x3000, 0x3000, 6, 6⟩, ⟨0x3100, 0x3101, 4, 4⟩, ⟨0x3300, 0x3300, 2, 2⟩, ⟨0x3400, 0x3BFF, 4, 4⟩]) (h : Own P G z0 z1) : Own P G z0
    (Machine.takeSwitch z1) := by
  refine h.step ?_
  clear h
  unfold Machine.takeSwitch
  try dsimp only
  repeat' first
    | (exact hG.sub rfl) | (exact hG.item rfl)
    | with_reducible exact same _ | with_reducible assumption | with_reducible apply doSwitch
    | with_reducible exact Nat.lt_of_lt_of_le (switchNow_lt ‹_›) (by omega) | split

theorem tagExecution {z0 z1 : State} {x : Side} {e : SEntry} {ty : Nat} (hp_scribe : Part.scribe ∈ P) (hG : Cov G [⟨0x8210, 0x8211, 6, 6⟩]) (h : Own
    P G z0 z1) : Own P G z0 (Machine.tagExecution x e ty z1) := by
  refine h.step ?_
  clear h
  have := sideIx_lt x
  unfold Machine.tagExecution
  try dsimp only
  repeat' first
    | (exact hG.sub rfl) | (exact hG.item rfl)
    | with_reducible exact same _ | with_reducible refine branch (fun hc => ?_) (fun hc => ?_) | with_reducible apply incSat
    | (refine hG.hit 0x8210 0x8211 6 6 rfl ?_ ?_ ?_ ?_ ?_ <;> omega) | with_reducible refine scribe_set (by assumption) ?_

theorem appendTag {z0 z1 : State} {x : Side} {b timing : List Nat} {ns : Nat} (hp_scribe : Part.scribe ∈ P) (hG : Cov G [⟨0x8210, 0x8211, 3, 3⟩]) (h
    : Own P G z0 z1) : Own P G z0 (Machine.appendTag x b timing ns z1) := by
  refine h.step ?_
  clear h
  have := sideIx_lt x
  unfold Machine.appendTag
  try dsimp only
  repeat' first
    | (exact hG.sub rfl) | (exact hG.item rfl)
    | with_reducible exact same _ | with_reducible refine branch (fun hc => ?_) (fun hc => ?_) | with_reducible apply raise
    | with_reducible apply incWrap | (refine hG.hit 0x8210 0x8211 3 3 rfl ?_ ?_ ?_ ?_ ?_ <;> omega) | with_reducible refine scribe_set (by assumption) ?_

theorem seedRefused {z0 z1 : State} {which : Nat} (hG : Cov G [⟨0x8100, 0x8100, 3, 3⟩]) (h : Own P G z0 z1) : Own P G z0 (Machine.seedRefused which
    z1) := by
  refine h.step ?_
  clear h
  unfold Machine.seedRefused
  try dsimp only
  repeat' first
    | (exact hG.sub rfl) | (exact hG.item rfl)
    | with_reducible exact same _ | with_reducible assumption | with_reducible apply raise | with_reducible apply setBitO

theorem seedHours {z0 z1 : State} {v : Nat} (hG : Cov G [⟨0x8100, 0x8100, 3, 3⟩, ⟨0x8100, 0x8100, 9, 9⟩]) (h : Own P G z0 z1) : Own P G z0
    (Machine.seedHours v z1) := by
  refine h.step ?_
  clear h
  unfold Machine.seedHours
  try dsimp only
  repeat' first
    | (exact hG.sub rfl) | (exact hG.item rfl)
    | with_reducible exact same _ | with_reducible assumption | with_reducible refine branch (fun hc => ?_) (fun hc => ?_)
    | with_reducible apply seedRefused | with_reducible apply fwNote | with_reducible apply setBitO | with_reducible apply setNum

theorem seedCycles {z0 z1 : State} {v : Nat} (hG : Cov G [⟨0x8100, 0x8100, 3, 3⟩, ⟨0x8100, 0x8100, 10, 10⟩]) (h : Own P G z0 z1) : Own P G z0
    (Machine.seedCycles v z1) := by
  refine h.step ?_
  clear h
  unfold Machine.seedCycles
  try dsimp only
  repeat' first
    | (exact hG.sub rfl) | (exact hG.item rfl)
    | with_reducible exact same _ | with_reducible assumption | with_reducible refine branch (fun hc => ?_) (fun hc => ?_)
    | with_reducible apply seedRefused | with_reducible apply fwNote | with_reducible apply setBitO | with_reducible apply setNum

theorem scribeNote {z0 z1 : State} {b : List Nat} (hG : Cov G [⟨0x8100, 0x8100, 3, 3⟩]) (h : Own P G z0 z1) : Own P G z0 (Machine.scribeNote b z1)
    := by
  refine h.step ?_
  clear h
  unfold Machine.scribeNote
  try dsimp only
  repeat' first
    | (exact hG.sub rfl) | (exact hG.item rfl)
    | with_reducible exact same _ | with_reducible assumption | with_reducible refine branch (fun hc => ?_) (fun hc => ?_)
    | with_reducible apply record | with_reducible apply setBitO

theorem histogramClear {z0 z1 : State} {mask : Nat} (hp_scribe : Part.scribe ∈ P) (h : Own P G z0 z1) : Own P G z0 (Machine.histogramClear mask z1)
    := by
  refine h.step ?_
  clear h
  unfold Machine.histogramClear
  try dsimp only
  repeat' first
    | with_reducible exact same _ | with_reducible refine scribe_set (by assumption) ?_

theorem stampCounter {z0 z1 : State} {code arg : Nat} (hp_scribe : Part.scribe ∈ P) (h : Own P G z0 z1) : Own P G z0 (Machine.stampCounter code arg
    z1) := by
  refine h.step ?_
  clear h
  unfold Machine.stampCounter
  try dsimp only
  repeat' first
    | with_reducible exact same _ | with_reducible refine scribe_set (by assumption) ?_

theorem counterCommandWrite {z0 z1 : State} {word : Nat} (hp_scribe : Part.scribe ∈ P) (h : Own P G z0 z1) : Own P G z0 (Machine.counterCommandWrite
    word z1) := by
  refine h.step ?_
  clear h
  unfold Machine.counterCommandWrite
  try dsimp only
  repeat' first
    | with_reducible exact same _ | with_reducible assumption | with_reducible refine branch (fun hc => ?_) (fun hc => ?_)
    | with_reducible apply stampCounter

theorem readRecords {z0 z1 : State} {r : Nat} (hp_net : Part.net ∈ P) (h : Own P G z0 z1) : Own P G z0 (Machine.readRecords r z1).2 := by
  refine h.step ?_
  clear h
  unfold Machine.readRecords
  try dsimp only
  repeat' first
    | with_reducible exact same _ | with_reducible assumption | with_reducible apply setReader

theorem readCompat {z0 z1 : State} {r : Nat} (hp_net : Part.net ∈ P) (h : Own P G z0 z1) : Own P G z0 (Machine.readCompat r z1).2 := by
  refine h.step ?_
  clear h
  unfold Machine.readCompat
  try dsimp only
  repeat' first
    | with_reducible exact same _ | with_reducible assumption | with_reducible apply setReader

theorem readTags {z0 z1 : State} {r : Nat} {x : Side} (hp_net : Part.net ∈ P) (h : Own P G z0 z1) : Own P G z0 (Machine.readTags r x z1).2 := by
  refine h.step ?_
  clear h
  unfold Machine.readTags
  try dsimp only
  repeat' first
    | with_reducible exact same _ | with_reducible assumption | with_reducible apply setReader

theorem readCounter {z0 z1 : State} {r i : Nat} (hp_net : Part.net ∈ P) (h : Own P G z0 z1) : Own P G z0 (Machine.readCounter r i z1).2 := by
  refine h.step ?_
  clear h
  unfold Machine.readCounter
  try dsimp only
  repeat' first
    | with_reducible exact same _ | with_reducible assumption | with_reducible refine branch (fun hc => ?_) (fun hc => ?_)
    | with_reducible apply setReader

theorem takeBin {z0 z1 : State} {q x : Nat} (hp_scribe : Part.scribe ∈ P) (hG : Cov G [⟨0x8110, 0x814F, 4, 4⟩]) (hb_q : q < 64) (h : Own P G z0 z1)
    : Own P G z0 (Machine.takeBin q x z1) := by
  refine h.step ?_
  clear h
  unfold Machine.takeBin
  try dsimp only
  repeat' first
    | (exact hG.sub rfl) | (exact hG.item rfl)
    | with_reducible exact same _ | with_reducible refine branch (fun hc => ?_) (fun hc => ?_) | with_reducible apply setBlob
    | with_reducible apply raise | (refine hG.hit 0x8110 0x814F 4 4 rfl ?_ ?_ ?_ ?_ ?_ <;> (first | omega | ((try simp only [quantIx]); omega)))
    | with_reducible refine scribe_set (by assumption) ?_

theorem takeExtremes {z0 z1 : State} {q x : Nat} (hG : Cov G [⟨0x8110, 0x814F, 1, 1⟩, ⟨0x8110, 0x814F, 5, 5⟩]) (hb_q : q < 64) (h : Own P G z0 z1) :
    Own P G z0 (Machine.takeExtremes q x z1) := by
  refine h.step ?_
  clear h
  unfold Machine.takeExtremes
  try dsimp only
  repeat' first
    | (exact hG.sub rfl) | (exact hG.item rfl)
    | with_reducible exact same _ | with_reducible refine branch (fun hc => ?_) (fun hc => ?_) | with_reducible apply setBitO
    | with_reducible apply setBlob | with_reducible refine ifS ?_ (fun v => ?_)
    | (refine hG.hit 0x8110 0x814F 1 1 rfl ?_ ?_ ?_ ?_ ?_ <;> (first | omega | ((try simp only [quantIx]); omega))) | (refine hG.hit 0x8110 0x814F 5 5 rfl ?_ ?_ ?_ ?_ ?_ <;> (first | omega | ((try simp only [quantIx]); omega)))

theorem takeSample {z0 z1 : State} {q : Nat} (hp_scribe : Part.scribe ∈ P) (hG : Cov G [⟨0x8110, 0x814F, 1, 1⟩, ⟨0x8110, 0x814F, 4, 4⟩, ⟨0x8110,
    0x814F, 5, 5⟩, ⟨0x8110, 0x814F, 6, 6⟩, ⟨0x8110, 0x814F, 7, 7⟩]) (hb_q : q < 64) (h : Own P G z0 z1) : Own P G z0 (Machine.takeSample q z1) := by
  refine h.step ?_
  clear h
  unfold Machine.takeSample
  try dsimp only
  repeat' first
    | (exact hG.sub rfl) | (exact hG.item rfl)
    | with_reducible exact same _ | with_reducible assumption | with_reducible apply incSat | with_reducible apply takeBin
    | with_reducible apply takeExtremes | (refine hG.hit 0x8110 0x814F 6 6 rfl ?_ ?_ ?_ ?_ ?_ <;> (first | omega | ((try simp only [quantIx]); omega))) | (refine hG.hit 0x8110 0x814F 7 7 rfl ?_ ?_ ?_ ?_ ?_ <;> (first | omega | ((try simp only [quantIx]); omega))) | split

theorem readBytes {z0 z1 : State} {r : Nat} {k : Nat} (hp_graphs : Part.graphs ∈ P) (hp_capture : Part.capture ∈ P) (hp_net : Part.net ∈ P) (h : Own
    P G z0 z1) : Own P G z0 (Machine.readBytes r k z1).2 := by
  refine h.step ?_
  clear h
  unfold Machine.readBytes
  try dsimp only
  repeat' first
    | with_reducible exact same _ | with_reducible assumption | with_reducible refine branch2 (fun hc => ?_) (fun hc => ?_)
    | with_reducible apply readCompat | with_reducible apply readCounter | with_reducible apply readHeader | with_reducible apply readRecords
    | with_reducible apply readResult | with_reducible apply readRows | with_reducible apply readTags | omega | split

theorem answerBare {z0 z1 : State} {m : Msg} {body : List Nat} (hp_net : Part.net ∈ P) (hp_out : Part.out ∈ P) (h : Own P G z0 z1) : Own P G z0
    (Machine.answerBare m body z1) := by
  refine h.step ?_
  clear h
  unfold Machine.answerBare
  try dsimp only
  repeat' first
    | with_reducible exact same _ | with_reducible assumption | with_reducible apply sendSot

theorem answer {z0 z1 : State} {m : Msg} {sid : Nat} {body : List Nat} (hp_net : Part.net ∈ P) (hp_out : Part.out ∈ P) (h : Own P G z0 z1) : Own P G
    z0 (Machine.answer m sid body z1) := by
  refine h.step ?_
  clear h
  unfold Machine.answer
  try dsimp only
  repeat' first
    | with_reducible exact same _ | with_reducible assumption | with_reducible refine branch (fun hc => ?_) (fun hc => ?_)
    | with_reducible apply answerBare | with_reducible apply sendSession

theorem secInc {z0 z1 : State} {n : Nat} (hG : Cov G [⟨0x1030, 0x1030, 7, 7⟩]) (h : Own P G z0 z1) : Own P G z0 (Machine.secInc n z1) := by
  refine h.step ?_
  clear h
  unfold Machine.secInc
  try dsimp only
  repeat' first
    | (exact hG.sub rfl) | (exact hG.item rfl)
    | with_reducible exact same _ | with_reducible assumption | with_reducible apply setBlob

theorem closeSession {z0 z1 : State} {way sid : Nat} (hp_capture : Part.capture ∈ P) (hp_net : Part.net ∈ P) (h : Own P G z0 z1) : Own P G z0
    (Machine.closeSession way sid z1) := by
  refine h.step ?_
  clear h
  unfold Machine.closeSession
  try dsimp only
  repeat' first
    | with_reducible exact same _ | with_reducible assumption | with_reducible refine branch (fun hc => ?_) (fun hc => ?_)
    | with_reducible apply setReader | with_reducible apply setStream | with_reducible apply abortOpenSet | with_reducible apply raise
    | with_reducible refine forN ?_ (fun i v hi => ?_) | split | with_reducible refine net_set (by assumption) ?_

theorem countFailure {z0 z1 : State} {m : Msg} (hp_capture : Part.capture ∈ P) (hp_net : Part.net ∈ P) (hG : Cov G [⟨0x1030, 0x1030, 7, 7⟩]) (h :
    Own P G z0 z1) : Own P G z0 (Machine.countFailure m z1) := by
  refine h.step ?_
  clear h
  unfold Machine.countFailure
  try dsimp only
  repeat' first
    | (exact hG.sub rfl) | (exact hG.item rfl)
    | with_reducible exact same _ | with_reducible assumption | with_reducible refine branch (fun hc => ?_) (fun hc => ?_)
    | with_reducible apply raise | with_reducible apply secInc | with_reducible apply closeSession
    | with_reducible refine foldl ?_ (fun v a ha => ?_) | with_reducible refine net_set (by assumption) ?_

theorem authFail {z0 z1 : State} {m : Msg} (hp_capture : Part.capture ∈ P) (hp_net : Part.net ∈ P) (hG : Cov G [⟨0x1030, 0x1030, 7, 7⟩]) (h : Own P
    G z0 z1) : Own P G z0 (Machine.authFail m z1) := by
  refine h.step ?_
  clear h
  unfold Machine.authFail
  try dsimp only
  repeat' first
    | (exact hG.sub rfl) | (exact hG.item rfl)
    | with_reducible exact same _ | with_reducible assumption | with_reducible apply countFailure | with_reducible apply raise
    | with_reducible apply countEvent | with_reducible apply secInc

theorem endBootAccess {z0 z1 : State} (hp_net : Part.net ∈ P) (h : Own P G z0 z1) : Own P G z0 (Machine.endBootAccess z1) := by
  refine h.step ?_
  clear h
  unfold Machine.endBootAccess
  try dsimp only
  repeat' first
    | with_reducible exact same _ | with_reducible assumption | with_reducible refine branch (fun hc => ?_) (fun hc => ?_)
    | with_reducible apply abortOpenSet | with_reducible apply setReader

theorem takeKeyLoad {z0 z1 : State} {m : Msg} (hp_net : Part.net ∈ P) (hp_out : Part.out ∈ P) (hG : Cov G [⟨0x1000, 0x1000, 6, 6⟩, ⟨0x1000, 0x1000,
    7, 7⟩, ⟨0x1030, 0x1030, 1, 4⟩]) (h : Own P G z0 z1) : Own P G z0 (Machine.takeKeyLoad m z1) := by
  refine h.step ?_
  clear h
  unfold Machine.takeKeyLoad
  try dsimp only
  repeat' first
    | (exact hG.sub rfl) | (exact hG.item rfl)
    | with_reducible exact same _ | with_reducible assumption | with_reducible refine branch (fun hc => ?_) (fun hc => ?_)
    | with_reducible apply setBlob | with_reducible apply setNum | with_reducible apply endBootAccess | with_reducible apply answerBare
    | with_reducible apply raise | with_reducible refine forN ?_ (fun i v hi => ?_) | (exact hG.item rfl) | (refine hG.hit 0x1030 0x1030 1 4 rfl ?_ ?_ ?_ ?_ ?_ <;> omega)
    | split

theorem replayFail {z0 z1 : State} {m : Msg} (hp_capture : Part.capture ∈ P) (hp_net : Part.net ∈ P) (hG : Cov G [⟨0x1030, 0x1030, 7, 7⟩]) (h : Own
    P G z0 z1) : Own P G z0 (Machine.replayFail m z1) := by
  refine h.step ?_
  clear h
  unfold Machine.replayFail
  try dsimp only
  repeat' first
    | (exact hG.sub rfl) | (exact hG.item rfl)
    | with_reducible exact same _ | with_reducible assumption | with_reducible apply countFailure | with_reducible apply raise
    | with_reducible apply secInc

theorem openWith {z0 z1 : State} {m : Msg} {sid : Nat} (hp_net : Part.net ∈ P) (hp_out : Part.out ∈ P) (hp_free : Part.free ∈ P) (h : Own P G z0 z1)
    : Own P G z0 (Machine.openWith m sid z1) := by
  refine h.step ?_
  clear h
  unfold Machine.openWith
  try dsimp only
  repeat' first
    | with_reducible exact same _ | with_reducible assumption | with_reducible apply nextFree | with_reducible apply sendSot
    | with_reducible apply raise | with_reducible refine net_set (by assumption) ?_

theorem takeOpen {z0 z1 : State} {m : Msg} (hp_capture : Part.capture ∈ P) (hp_net : Part.net ∈ P) (hp_out : Part.out ∈ P) (hp_free : Part.free ∈ P)
    (hG : Cov G [⟨0x1030, 0x1030, 7, 7⟩]) (h : Own P G z0 z1) : Own P G z0 (Machine.takeOpen m z1).2 := by
  refine h.step ?_
  clear h
  unfold Machine.takeOpen
  try dsimp only
  repeat' first
    | (exact hG.sub rfl) | (exact hG.item rfl)
    | with_reducible exact same _ | with_reducible assumption | with_reducible refine branch2 (fun hc => ?_) (fun hc => ?_)
    | with_reducible apply authFail | with_reducible apply replayFail | with_reducible apply openWith | split

theorem putSnap {z0 z1 : State} {r k : Nat} {q : Option Snap} (hp_net : Part.net ∈ P) (h : Own P G z0 z1) : Own P G z0 (Machine.putSnap r k q z1) := by
  refine h.step ?_
  clear h
  unfold Machine.putSnap
  try dsimp only
  repeat' first
    | with_reducible exact same _ | with_reducible assumption | with_reducible apply setReader | split

theorem serveSnap {z0 z1 : State} {r k off n : Nat} {b : List Nat} (hp_net : Part.net ∈ P) (h : Own P G z0 z1) : Own P G z0 (Machine.serveSnap r k
    off n b z1).2.2 := by
  refine h.step ?_
  clear h
  unfold Machine.serveSnap
  try dsimp only
  repeat' first
    | with_reducible exact same _ | with_reducible assumption | with_reducible refine branch3 (fun hc => ?_) (fun hc => ?_)
    | with_reducible apply putSnap

theorem readItem {z0 z1 : State} {r : Nat} {room : Nat} {q : Item} (hp_graphs : Part.graphs ∈ P) (hp_capture : Part.capture ∈ P) (hp_net : Part.net
    ∈ P) (h : Own P G z0 z1) : Own P G z0 (Machine.readItem r room q z1).2.2 := by
  refine h.step ?_
  clear h
  unfold Machine.readItem
  try dsimp only
  repeat' first
    | with_reducible exact same _ | with_reducible assumption | with_reducible refine branch3 (fun hc => ?_) (fun hc => ?_)
    | with_reducible apply putSnap | with_reducible apply readBytes | with_reducible apply serveSnap | omega | split

theorem readItems {z0 z1 : State} {r : Nat} {l : List Item} {room : Nat} (hp_graphs : Part.graphs ∈ P) (hp_capture : Part.capture ∈ P) (hp_net :
    Part.net ∈ P) (h : Own P G z0 z1) : Own P G z0 (Machine.readItems r l room z1).2 := by
  induction l generalizing z0 z1 room with
  | nil => exact h
  | cons q l ih =>
    unfold Machine.readItems
    dsimp only
    exact ih (readItem hp_graphs hp_capture hp_net h)

end Own
end Sys2Proof
end

