-- ==== Sys2Proof/Laws/OnlyChains.lean ====
section
/-!
SUPPORT. What each operation can move, one lemma each: the stacks, measurement, the safety logic and clocks.
-/

set_option Elab.async false
set_option maxRecDepth 2000
set_option linter.unusedVariables false
set_option linter.unusedSimpArgs false
namespace Sys2Proof
open Sys2Proof.Machine
variable {P : List Part} {G : List Objs}
namespace Own

theorem admitC5 {z0 z1 : State} (hp_sharing : Part.sharing ∈ P) (hG : Cov G [⟨0xA000, 0xA000, 1, 1⟩]) (h : Own P G z0 z1) : Own P G z0
    (Machine.admitC5 z1) := by
  refine h.step ?_
  clear h
  unfold Machine.admitC5
  try dsimp only
  repeat' first
    | (exact hG.sub rfl) | (exact hG.item rfl) | with_reducible exact same _ | with_reducible assumption
    | with_reducible refine branch (fun hc => ?_) (fun hc => ?_) | with_reducible apply countLink | with_reducible apply raise
    | with_reducible apply setBitO | omega | split | with_reducible refine sharing_set (by assumption) ?_

theorem dueLink {z0 z1 : State} (hp_sharing : Part.sharing ∈ P) (hG : Cov G [⟨0xA000, 0xA000, 1, 1⟩]) (h : Own P G z0 z1) : Own P G z0
    (Machine.dueLink z1) := by
  refine h.step ?_
  clear h
  unfold Machine.dueLink
  try dsimp only
  repeat' first
    | (exact hG.sub rfl) | (exact hG.item rfl) | with_reducible exact same _ | with_reducible assumption
    | with_reducible refine branch (fun hc => ?_) (fun hc => ?_) | with_reducible apply admitC5 | omega | split

theorem linkKick {z0 z1 : State} (hp_stacks : Part.stacks ∈ P) (hp_sharing : Part.sharing ∈ P) (hG : Cov G [⟨0x9010, 0x901F, 3, 3⟩, ⟨0xA000, 0xA000,
    1, 1⟩]) (h : Own P G z0 z1) : Own P G z0 (Machine.linkKick z1) := by
  refine h.step ?_
  clear h
  unfold Machine.linkKick
  try dsimp only
  repeat' first
    | (exact hG.sub rfl) | (exact hG.item rfl) | with_reducible exact same _ | with_reducible assumption | with_reducible apply dueLink
    | with_reducible apply linkKickGo | omega

theorem queueWrite {z0 z1 : State} {safe : Bool} {k : Nat} (hp_stacks : Part.stacks ∈ P) (hp_sharing : Part.sharing ∈ P) (hG : Cov G [⟨0x9010,
    0x901F, 3, 3⟩, ⟨0xA000, 0xA000, 1, 1⟩]) (hb_k : k < 16) (h : Own P G z0 z1) : Own P G z0 (Machine.queueWrite safe k z1) := by
  refine h.step ?_
  clear h
  unfold Machine.queueWrite
  try dsimp only
  repeat' first
    | (exact hG.sub rfl) | (exact hG.item rfl)
    | with_reducible exact same _ | with_reducible assumption | with_reducible refine branch (fun hc => ?_) (fun hc => ?_)
    | with_reducible apply writeFail | with_reducible apply linkKick | split | with_reducible refine sharing_set (by assumption) ?_

theorem queueAllLife {z0 z1 : State} (hp_stacks : Part.stacks ∈ P) (hp_sharing : Part.sharing ∈ P) (hG : Cov G [⟨0x9010, 0x901F, 3, 3⟩, ⟨0xA000,
    0xA000, 1, 1⟩]) (h : Own P G z0 z1) : Own P G z0 (Machine.queueAllLife z1) := by
  refine h.step ?_
  clear h
  unfold Machine.queueAllLife
  try dsimp only
  repeat' first
    | (exact hG.sub rfl) | (exact hG.item rfl)
    | with_reducible exact same _ | with_reducible assumption | with_reducible apply queueWrite
    | with_reducible refine forMask ?_ (fun i v hi => ?_) | omega

theorem queueRead {z0 z1 : State} {k : Nat} (hp_stacks : Part.stacks ∈ P) (hp_sharing : Part.sharing ∈ P) (hG : Cov G [⟨0x9010, 0x901F, 3, 3⟩,
    ⟨0xA000, 0xA000, 1, 1⟩]) (h : Own P G z0 z1) : Own P G z0 (Machine.queueRead k z1) := by
  refine h.step ?_
  clear h
  unfold Machine.queueRead
  try dsimp only
  repeat' first
    | (exact hG.sub rfl) | (exact hG.item rfl)
    | with_reducible exact same _ | with_reducible assumption | with_reducible refine branch (fun hc => ?_) (fun hc => ?_)
    | with_reducible apply linkKick | with_reducible refine sharing_set (by assumption) ?_

theorem linkDone {z0 z1 : State} (hp_stacks : Part.stacks ∈ P) (hp_sharing : Part.sharing ∈ P) (hG : Cov G [⟨0x9010, 0x901F, 3, 3⟩, ⟨0xA000, 0xA000,
    1, 1⟩]) (h : Own P G z0 z1) : Own P G z0 (Machine.linkDone z1) := by
  refine h.step ?_
  clear h
  unfold Machine.linkDone
  try dsimp only
  repeat' first
    | (exact hG.sub rfl) | (exact hG.item rfl)
    | with_reducible exact same _ | with_reducible assumption | with_reducible refine branch (fun hc => ?_) (fun hc => ?_)
    | with_reducible apply linkKick | with_reducible apply setBitO | (refine hG.hit 0x9010 0x901F 3 3 rfl ?_ ?_ ?_ ?_ ?_ <;> omega) | split
    | with_reducible refine sharing_set (by assumption) ?_

theorem sendPtpPort {z0 z1 : State} {kind : Nat} {port : Nat} {seq : Nat} {body : List Nat} (hp_ptp : Part.ptp ∈ P) (hp_out : Part.out ∈ P)
    (hp_net : Part.net ∈ P) (h : Own P G z0 z1) : Own P G z0 (Machine.sendPtpPort kind port seq body z1) := by
  refine h.step ?_
  clear h
  unfold Machine.sendPtpPort
  try dsimp only
  repeat' first
    | with_reducible exact same _ | with_reducible assumption | with_reducible refine branch (fun hc => ?_) (fun hc => ?_)
    | with_reducible apply takeLineTime | with_reducible apply countEvent | with_reducible apply emit | with_reducible apply setPtpPort | omega

theorem sendPtp {z0 z1 : State} {kind : Nat} {port : Nat} {body : List Nat} (hp_ptp : Part.ptp ∈ P) (hp_net : Part.net ∈ P) (hp_out : Part.out ∈
    P) (h : Own P G z0 z1) : Own P G z0 (Machine.sendPtp kind port body z1) := by
  refine h.step ?_
  clear h
  unfold Machine.sendPtp
  try dsimp only
  repeat' first
    | with_reducible exact same _ | with_reducible assumption | with_reducible refine branch (fun hc => ?_) (fun hc => ?_)
    | with_reducible apply setPtpPort | with_reducible apply sendPtpPort | with_reducible refine forN ?_ (fun i v hi => ?_) | omega | split
    | with_reducible refine net_set (by assumption) ?_

theorem markFault {z0 z1 : State} {c : Nat} (hp_meas : Part.meas ∈ P) (h : Own P G z0 z1) : Own P G z0 (Machine.markFault c z1) := by
  refine h.step ?_
  clear h
  unfold Machine.markFault
  try dsimp only
  repeat' first
    | with_reducible exact same _ | with_reducible assumption | with_reducible refine branch (fun hc => ?_) (fun hc => ?_)
    | with_reducible apply setChain | with_reducible refine foldl ?_ (fun v a ha => ?_)

theorem safeDisable {z0 z1 : State} {c : Nat} (hp_meas : Part.meas ∈ P) (hp_gf : Part.gf ∈ P) (hp_plate : Part.plate ∈ P) (h : Own P G z0 z1) : Own
    P G z0 (Machine.safeDisable c z1) := by
  refine h.step ?_
  clear h
  unfold Machine.safeDisable
  try dsimp only
  repeat' first
    | with_reducible exact same _ | with_reducible assumption | with_reducible apply noteCause | with_reducible apply holdGates
    | with_reducible apply setFeedback

theorem startFallback {z0 z1 : State} {c : Nat} (hp_meas : Part.meas ∈ P) (hp_gf : Part.gf ∈ P) (hp_plate : Part.plate ∈ P) (h : Own P G z0 z1) :
    Own P G z0 (Machine.startFallback c z1) := by
  refine h.step ?_
  clear h
  unfold Machine.startFallback
  try dsimp only
  repeat' first
    | with_reducible exact same _ | with_reducible assumption | with_reducible refine branch (fun hc => ?_) (fun hc => ?_)
    | with_reducible apply safeDisable | with_reducible apply raise | with_reducible apply setFeedback

theorem declareFeedback {z0 z1 : State} {c kind : Nat} (hp_meas : Part.meas ∈ P) (hp_gf : Part.gf ∈ P) (hp_plate : Part.plate ∈ P) (hG : Cov G
    [⟨0x2100, 0x213F, 11, 11⟩]) (hb_c : c < 64) (h : Own P G z0 z1) : Own P G z0 (Machine.declareFeedback c kind z1) := by
  refine h.step ?_
  clear h
  unfold Machine.declareFeedback
  try dsimp only
  repeat' first
    | (exact hG.sub rfl) | (exact hG.item rfl)
    | with_reducible exact same _ | with_reducible assumption | with_reducible refine branch (fun hc => ?_) (fun hc => ?_)
    | with_reducible apply markFault | with_reducible apply setFeedback | with_reducible apply setBitO
    | with_reducible apply startFallback | with_reducible apply raise | (refine hG.hit 0x2100 0x213F 11 11 rfl ?_ ?_ ?_ ?_ ?_ <;> omega)

theorem judgeFeedback {z0 z1 : State} {c kind first : Nat} (hp_meas : Part.meas ∈ P) (hp_gf : Part.gf ∈ P) (hp_plate : Part.plate ∈ P) (hG : Cov G
    [⟨0x2100, 0x213F, 11, 11⟩]) (hb_c : c < 64) (h : Own P G z0 z1) : Own P G z0 (Machine.judgeFeedback c kind first z1) := by
  refine h.step ?_
  clear h
  unfold Machine.judgeFeedback
  try dsimp only
  repeat' first
    | (exact hG.sub rfl) | with_reducible exact same _ | with_reducible assumption | with_reducible refine branch (fun hc => ?_) (fun hc => ?_)
    | with_reducible apply declareFeedback | with_reducible apply setFeedback

theorem reportsAlone {z0 z1 : State} (hp_meas : Part.meas ∈ P) (hp_gf : Part.gf ∈ P) (hp_plate : Part.plate ∈ P) (hG : Cov G [⟨0x2100, 0x213F, 11,
    11⟩]) (h : Own P G z0 z1) : Own P G z0 (Machine.reportsAlone z1) := by
  refine h.step ?_
  clear h
  unfold Machine.reportsAlone
  try dsimp only
  repeat' first
    | (exact hG.sub rfl) | (exact hG.item rfl) | with_reducible exact same _ | with_reducible assumption
    | with_reducible refine branch (fun hc => ?_) (fun hc => ?_) | with_reducible apply judgeFeedback | with_reducible apply declareFeedback
    | with_reducible refine forN ?_ (fun i v hi => ?_) | omega | split

theorem leaveService {z0 z1 : State} {x : Side} {v : Nat} (hp_meas : Part.meas ∈ P) (hp_gf : Part.gf ∈ P) (hp_plate : Part.plate ∈ P) (hG : Cov G
    [⟨0x2100, 0x213F, 11, 11⟩, ⟨0x6021, 0x6021, 1, 1⟩]) (h : Own P G z0 z1) : Own P G z0 (Machine.leaveService x v z1) := by
  refine h.step ?_
  clear h
  have := sideIx_lt x
  unfold Machine.leaveService
  try dsimp only
  repeat' first
    | (exact hG.sub rfl) | (exact hG.item rfl) | with_reducible exact same _ | with_reducible assumption | with_reducible apply reportsAlone
    | with_reducible apply setSideState | omega

theorem setFailed {z0 z1 : State} {x : Side} (hp_meas : Part.meas ∈ P) (hp_graphs : Part.graphs ∈ P) (hp_gf : Part.gf ∈ P) (hp_plate : Part.plate ∈
    P) (hp_sides : Part.sides ∈ P) (hp_clock : Part.clock ∈ P) (hp_capture : Part.capture ∈ P) (hG : Cov G [⟨0x2100, 0x213F, 11, 11⟩, ⟨0x6000,
    0x6000, 2, 2⟩, ⟨0x6021, 0x6021, 1, 1⟩, ⟨0x7000, 0x7000, 5, 5⟩, ⟨0x7000, 0x7000, 8, 8⟩, ⟨0x7050, 0x7050, 1, 1⟩, ⟨0x7100, 0x7104, 3, 3⟩]) (h : Own
    P G z0 z1) : Own P G z0 (Machine.setFailed x z1) := by
  refine h.step ?_
  clear h
  have := sideIx_lt x
  unfold Machine.setFailed
  try dsimp only
  repeat' first
    | (exact hG.sub rfl) | (exact hG.item rfl) | with_reducible exact same _ | with_reducible assumption
    | with_reducible refine branch (fun hc => ?_) (fun hc => ?_) | with_reducible apply checkHoldover | with_reducible apply leaveService
    | with_reducible apply setDegraded | with_reducible apply setSideRt | with_reducible apply startReinit | omega | split

theorem finishChange {z0 z1 : State} (hp_meas : Part.meas ∈ P) (hp_graphs : Part.graphs ∈ P) (hp_gf : Part.gf ∈ P) (hp_plate : Part.plate ∈ P)
    (hp_sides : Part.sides ∈ P) (hp_clock : Part.clock ∈ P) (hp_capture : Part.capture ∈ P) (hG : Cov G [⟨0x2100, 0x213F, 11, 11⟩, ⟨0x6000, 0x6000,
    2, 2⟩, ⟨0x6021, 0x6021, 1, 1⟩, ⟨0x6021, 0x6021, 4, 4⟩, ⟨0x7000, 0x7000, 5, 5⟩, ⟨0x7000, 0x7000, 8, 8⟩, ⟨0x7050, 0x7050, 1, 1⟩, ⟨0x7100, 0x7104,
    3, 3⟩]) (h : Own P G z0 z1) : Own P G z0 (Machine.finishChange z1) := by
  refine h.step ?_
  clear h
  unfold Machine.finishChange
  try dsimp only
  repeat' first
    | (exact hG.sub rfl) | (exact hG.item rfl) | with_reducible exact same _ | with_reducible assumption
    | with_reducible refine branch (fun hc => ?_) (fun hc => ?_) | with_reducible apply raise | with_reducible apply setFailed
    | with_reducible apply setNum | omega | split | with_reducible refine sides_set (by assumption) ?_

theorem onSafeStop {z0 z1 : State} (hp_gf : Part.gf ∈ P) (hp_plate : Part.plate ∈ P) (hp_stacks : Part.stacks ∈ P) (hp_safety : Part.safety ∈ P)
    (hp_sharing : Part.sharing ∈ P) (hG : Cov G [⟨0x6800, 0x6800, 2, 2⟩, ⟨0x9010, 0x901F, 3, 3⟩, ⟨0xA000, 0xA000, 1, 1⟩]) (h : Own P G z0 z1) : Own
    P G z0 (Machine.onSafeStop z1) := by
  refine h.step ?_
  clear h
  unfold Machine.onSafeStop
  try dsimp only
  repeat' first
    | (exact hG.sub rfl) | (exact hG.item rfl)
    | with_reducible assumption | with_reducible refine branch (fun hc => ?_) (fun hc => ?_) | with_reducible apply clearPermit
    | with_reducible apply discardTests | with_reducible apply queueAllLife | (refine of_pairs ?_ rfl; constructor <;> intros <;> first | rfl | contradiction)

theorem enterGf {z0 z1 : State} {dst : Nat} {cause : Nat} (hp_meas : Part.meas ∈ P) (hp_gf : Part.gf ∈ P) (hp_plate : Part.plate ∈ P) (hp_pairs :
    Part.pairs ∈ P) (hp_stacks : Part.stacks ∈ P) (hp_safety : Part.safety ∈ P) (hp_sharing : Part.sharing ∈ P) (hG : Cov G [⟨0x2500, 0x2503, 6, 6⟩,
    ⟨0x2500, 0x2503, 8, 8⟩, ⟨0x2500, 0x2503, 9, 9⟩, ⟨0x4001, 0x4001, 3, 3⟩, ⟨0x4001, 0x4001, 4, 4⟩, ⟨0x5300, 0x5300, 4, 4⟩, ⟨0x5320, 0x5320, 2, 2⟩,
    ⟨0x6800, 0x6800, 2, 2⟩, ⟨0x9010, 0x901F, 3, 3⟩, ⟨0xA000, 0xA000, 1, 1⟩]) (h : Own P G z0 z1) : Own P G z0 (Machine.enterGf dst cause z1) := by
  refine h.step ?_
  clear h
  unfold Machine.enterGf
  try dsimp only
  repeat' first
    | (exact hG.sub rfl) | (exact hG.item rfl) | with_reducible exact same _ | with_reducible assumption
    | with_reducible refine branch (fun hc => ?_) (fun hc => ?_) | with_reducible apply leaveCommission | with_reducible apply onSafeStop
    | with_reducible apply raise | with_reducible apply releaseClose | with_reducible apply setEnables | with_reducible apply setNum
    | with_reducible apply sourcesAtOnce | omega | split | with_reducible refine gf_set (by assumption) ?_

theorem deliverChange {z0 z1 : State} {y : Side} {hand : Bool} (hp_meas : Part.meas ∈ P) (hp_graphs : Part.graphs ∈ P) (hp_gf : Part.gf ∈ P)
    (hp_plate : Part.plate ∈ P) (hp_pairs : Part.pairs ∈ P) (hp_sides : Part.sides ∈ P) (hp_clock : Part.clock ∈ P) (hp_capture : Part.capture ∈ P)
    (hG : Cov G [⟨0x2100, 0x213F, 11, 11⟩, ⟨0x5200, 0x5247, 8, 8⟩, ⟨0x6000, 0x6000, 2, 2⟩, ⟨0x6021, 0x6021, 1, 1⟩, ⟨0x6021, 0x6021, 4, 4⟩, ⟨0x7000,
    0x7000, 5, 5⟩, ⟨0x7000, 0x7000, 8, 8⟩, ⟨0x7050, 0x7050, 1, 1⟩, ⟨0x7100, 0x7104, 3, 3⟩]) (h : Own P G z0 z1) : Own P G z0 (Machine.deliverChange
    y hand z1) := by
  refine h.step ?_
  clear h
  unfold Machine.deliverChange
  try dsimp only
  repeat' first
    | (exact hG.sub rfl) | (exact hG.item rfl)
    | with_reducible exact same _ | with_reducible assumption | with_reducible refine branch (fun hc => ?_) (fun hc => ?_)
    | with_reducible apply allToSide | with_reducible apply finishChange | split | with_reducible refine sides_set (by assumption) ?_

theorem takeover {z0 z1 : State} {x : Side} {cause : Nat} (hp_meas : Part.meas ∈ P) (hp_graphs : Part.graphs ∈ P) (hp_gf : Part.gf ∈ P) (hp_plate :
    Part.plate ∈ P) (hp_pairs : Part.pairs ∈ P) (hp_sides : Part.sides ∈ P) (hp_clock : Part.clock ∈ P) (hp_capture : Part.capture ∈ P) (hG : Cov G
    [⟨0x2100, 0x213F, 11, 11⟩, ⟨0x5200, 0x5247, 8, 8⟩, ⟨0x6000, 0x6000, 2, 2⟩, ⟨0x6021, 0x6021, 1, 1⟩, ⟨0x6021, 0x6021, 2, 2⟩, ⟨0x6021, 0x6021, 3,
    3⟩, ⟨0x6021, 0x6021, 4, 4⟩, ⟨0x7000, 0x7000, 5, 5⟩, ⟨0x7000, 0x7000, 8, 8⟩, ⟨0x7050, 0x7050, 1, 1⟩, ⟨0x7100, 0x7104, 3, 3⟩]) (h : Own P G z0 z1)
    : Own P G z0 (Machine.takeover x cause z1) := by
  refine h.step ?_
  clear h
  have := sideIx_lt x
  have := sideIx_lt (otherSide x)
  unfold Machine.takeover
  try dsimp only
  repeat' first
    | (exact hG.sub rfl) | (exact hG.item rfl) | with_reducible exact same _ | with_reducible assumption | with_reducible apply deliverChange
    | with_reducible apply kerfOpen | with_reducible apply leaveService | with_reducible apply orderChange | with_reducible apply raise
    | with_reducible apply setSideState | omega

theorem stopNow {z0 z1 : State} {cause : Nat} (hp_meas : Part.meas ∈ P) (hp_gf : Part.gf ∈ P) (hp_plate : Part.plate ∈ P) (hp_pairs : Part.pairs ∈
    P) (hp_stacks : Part.stacks ∈ P) (hp_safety : Part.safety ∈ P) (hp_sharing : Part.sharing ∈ P) (hG : Cov G [⟨0x2500, 0x2503, 6, 6⟩, ⟨0x2500,
    0x2503, 8, 8⟩, ⟨0x2500, 0x2503, 9, 9⟩, ⟨0x4001, 0x4001, 3, 3⟩, ⟨0x4001, 0x4001, 4, 4⟩, ⟨0x5300, 0x5300, 4, 4⟩, ⟨0x5320, 0x5320, 2, 2⟩, ⟨0x6800,
    0x6800, 2, 2⟩, ⟨0x9010, 0x901F, 3, 3⟩, ⟨0xA000, 0xA000, 1, 1⟩]) (h : Own P G z0 z1) : Own P G z0 (Machine.stopNow cause z1) := by
  refine h.step ?_
  clear h
  unfold Machine.stopNow
  try dsimp only
  repeat' first
    | (exact hG.sub rfl) | (exact hG.item rfl) | with_reducible exact same _ | with_reducible assumption
    | with_reducible refine branch (fun hc => ?_) (fun hc => ?_) | with_reducible apply enterGf | with_reducible apply holdGates
    | with_reducible apply noteCause | omega | split

theorem noSideLeft {z0 z1 : State} {x : Side} (hp_meas : Part.meas ∈ P) (hp_gf : Part.gf ∈ P) (hp_plate : Part.plate ∈ P) (hp_pairs : Part.pairs ∈
    P) (hp_stacks : Part.stacks ∈ P) (hp_sides : Part.sides ∈ P) (hp_safety : Part.safety ∈ P) (hp_sharing : Part.sharing ∈ P) (hp_clock :
    Part.clock ∈ P) (hG : Cov G [⟨0x2500, 0x2503, 6, 6⟩, ⟨0x2500, 0x2503, 8, 8⟩, ⟨0x2500, 0x2503, 9, 9⟩, ⟨0x4001, 0x4001, 3, 3⟩, ⟨0x4001, 0x4001, 4,
    4⟩, ⟨0x5300, 0x5300, 4, 4⟩, ⟨0x5320, 0x5320, 2, 2⟩, ⟨0x6000, 0x6000, 2, 2⟩, ⟨0x6021, 0x6021, 1, 1⟩, ⟨0x6800, 0x6800, 2, 2⟩, ⟨0x7000, 0x7000, 5,
    5⟩, ⟨0x7000, 0x7000, 8, 8⟩, ⟨0x9010, 0x901F, 3, 3⟩, ⟨0xA000, 0xA000, 1, 1⟩]) (h : Own P G z0 z1) : Own P G z0 (Machine.noSideLeft x z1) := by
  refine h.step ?_
  clear h
  unfold Machine.noSideLeft
  try dsimp only
  repeat' first
    | (exact hG.sub rfl) | (exact hG.item rfl)
    | with_reducible exact same _ | with_reducible assumption | with_reducible refine branch (fun hc => ?_) (fun hc => ?_)
    | with_reducible apply setSideRt | with_reducible apply setSideState | with_reducible apply setDegraded
    | with_reducible apply checkHoldover | with_reducible apply clearPermit | with_reducible apply raise | with_reducible apply stopNow
    | with_reducible apply plateReleaseAll | with_reducible refine sides_set (by assumption) ?_

theorem sideFault {z0 z1 : State} {x : Side} {cause : Nat} (hp_meas : Part.meas ∈ P) (hp_graphs : Part.graphs ∈ P) (hp_gf : Part.gf ∈ P) (hp_plate :
    Part.plate ∈ P) (hp_pairs : Part.pairs ∈ P) (hp_stacks : Part.stacks ∈ P) (hp_sides : Part.sides ∈ P) (hp_safety : Part.safety ∈ P) (hp_sharing
    : Part.sharing ∈ P) (hp_clock : Part.clock ∈ P) (hp_capture : Part.capture ∈ P) (hG : Cov G [⟨0x2100, 0x213F, 11, 11⟩, ⟨0x2500, 0x2503, 6, 6⟩,
    ⟨0x2500, 0x2503, 8, 8⟩, ⟨0x2500, 0x2503, 9, 9⟩, ⟨0x4001, 0x4001, 3, 3⟩, ⟨0x4001, 0x4001, 4, 4⟩, ⟨0x5200, 0x5247, 8, 8⟩, ⟨0x5300, 0x5300, 4, 4⟩,
    ⟨0x5320, 0x5320, 2, 2⟩, ⟨0x6000, 0x6000, 2, 2⟩, ⟨0x6021, 0x6021, 1, 1⟩, ⟨0x6021, 0x6021, 2, 2⟩, ⟨0x6021, 0x6021, 3, 3⟩, ⟨0x6021, 0x6021, 4, 4⟩,
    ⟨0x6800, 0x6800, 2, 2⟩, ⟨0x7000, 0x7000, 5, 5⟩, ⟨0x7000, 0x7000, 8, 8⟩, ⟨0x7050, 0x7050, 1, 1⟩, ⟨0x7100, 0x7104, 3, 3⟩, ⟨0x9010, 0x901F, 3, 3⟩,
    ⟨0xA000, 0xA000, 1, 1⟩]) (h : Own P G z0 z1) : Own P G z0 (Machine.sideFault x cause z1) := by
  refine h.step ?_
  clear h
  have := sideIx_lt x
  have := sideIx_lt (otherSide x)
  unfold Machine.sideFault
  try dsimp only
  repeat' first
    | (exact hG.sub rfl) | (exact hG.item rfl) | with_reducible exact same _ | with_reducible assumption
    | with_reducible refine branch (fun hc => ?_) (fun hc => ?_) | with_reducible apply leaveService | with_reducible apply noSideLeft
    | with_reducible apply raise | with_reducible apply setFailed | with_reducible apply setSideRt | with_reducible apply takeover | omega
    | split

theorem ridgeFault {z0 z1 : State} (hp_meas : Part.meas ∈ P) (hp_gf : Part.gf ∈ P) (hp_plate : Part.plate ∈ P) (hp_pairs : Part.pairs ∈ P)
    (hp_stacks : Part.stacks ∈ P) (hp_safety : Part.safety ∈ P) (hp_sharing : Part.sharing ∈ P) (hG : Cov G [⟨0x2500, 0x2503, 6, 6⟩, ⟨0x2500,
    0x2503, 8, 8⟩, ⟨0x2500, 0x2503, 9, 9⟩, ⟨0x4001, 0x4001, 3, 3⟩, ⟨0x4001, 0x4001, 4, 4⟩, ⟨0x5300, 0x5300, 4, 4⟩, ⟨0x5320, 0x5320, 2, 2⟩, ⟨0x6800,
    0x6800, 2, 2⟩, ⟨0x9010, 0x901F, 3, 3⟩, ⟨0xA000, 0xA000, 1, 1⟩, ⟨0xB000, 0xB000, 1, 1⟩, ⟨0xB000, 0xB000, 4, 4⟩]) (h : Own P G z0 z1) : Own P G z0
    (Machine.ridgeFault z1) := by
  refine h.step ?_
  clear h
  unfold Machine.ridgeFault
  try dsimp only
  repeat' first
    | (exact hG.sub rfl) | (exact hG.item rfl)
    | with_reducible exact same _ | with_reducible assumption | with_reducible refine branch (fun hc => ?_) (fun hc => ?_)
    | with_reducible apply stopNow | with_reducible apply clearPermit | with_reducible apply haltDevice
    | with_reducible refine safety_set (by assumption) ?_

theorem noSpare {z0 z1 : State} {k : Nat} {r : Nat} (h : Own P G z0 z1) : Own P G z0 (Machine.noSpare k r z1) := by
  refine h.step ?_
  clear h
  unfold Machine.noSpare
  try dsimp only
  repeat' first
    | with_reducible exact same _ | with_reducible assumption | with_reducible refine branch (fun hc => ?_) (fun hc => ?_)
    | with_reducible apply raise | omega | split

theorem markDue {z0 z1 : State} {k : Nat} (hp_stacks : Part.stacks ∈ P) (hG : Cov G [⟨0x9010, 0x901F, 3, 3⟩, ⟨0x9010, 0x901F, 7, 7⟩]) (hb_k : k <
    16) (h : Own P G z0 z1) : Own P G z0 (Machine.markDue k z1) := by
  refine h.step ?_
  clear h
  unfold Machine.markDue
  try dsimp only
  repeat' first
    | (exact hG.sub rfl) | (exact hG.item rfl) | with_reducible exact same _ | with_reducible assumption
    | with_reducible refine branch (fun hc => ?_) (fun hc => ?_) | with_reducible apply armSpare | with_reducible apply noSpare
    | with_reducible apply raise | with_reducible apply setLeg | with_reducible refine forN ?_ (fun i v hi => ?_) | omega | split

theorem changeAtVertex {z0 z1 : State} {x : Side} {g : Nat} (hp_meas : Part.meas ∈ P) (hp_graphs : Part.graphs ∈ P) (hp_gf : Part.gf ∈ P)
    (hp_plate : Part.plate ∈ P) (hp_pairs : Part.pairs ∈ P) (hp_sides : Part.sides ∈ P) (hp_clock : Part.clock ∈ P) (hp_capture : Part.capture ∈
    P) (hG : Cov G [⟨0x2100, 0x213F, 11, 11⟩, ⟨0x5200, 0x5247, 8, 8⟩, ⟨0x6000, 0x6000, 2, 2⟩, ⟨0x6021, 0x6021, 1, 1⟩, ⟨0x6021, 0x6021, 4, 4⟩,
    ⟨0x7000, 0x7000, 5, 5⟩, ⟨0x7000, 0x7000, 8, 8⟩, ⟨0x7050, 0x7050, 1, 1⟩, ⟨0x7100, 0x7104, 3, 3⟩]) (h : Own P G z0 z1) : Own P G z0 (Machine.changeAtVertex x g z1) := by
  refine h.step ?_
  clear h
  unfold Machine.changeAtVertex
  try dsimp only
  repeat' first
    | (exact hG.sub rfl) | (exact hG.item rfl) | with_reducible exact same _ | with_reducible assumption
    | with_reducible refine branch (fun hc => ?_) (fun hc => ?_) | with_reducible apply groupToSide | with_reducible apply finishChange | split
    | with_reducible refine sides_set (by assumption) ?_

theorem plateVertex {z0 z1 : State} {x : Side} {g : Nat} {bottom : Bool} (hp_meas : Part.meas ∈ P) (hp_graphs : Part.graphs ∈ P) (hp_gf : Part.gf ∈
    P) (hp_plate : Part.plate ∈ P) (hp_pairs : Part.pairs ∈ P) (hp_sides : Part.sides ∈ P) (hp_clock : Part.clock ∈ P) (hp_capture : Part.capture ∈
    P) (hG : Cov G [⟨0x2100, 0x213F, 11, 11⟩, ⟨0x5200, 0x5247, 8, 8⟩, ⟨0x6000, 0x6000, 2, 2⟩, ⟨0x6021, 0x6021, 1, 1⟩, ⟨0x6021, 0x6021, 4, 4⟩,
    ⟨0x7000, 0x7000, 5, 5⟩, ⟨0x7000, 0x7000, 8, 8⟩, ⟨0x7050, 0x7050, 1, 1⟩, ⟨0x7100, 0x7104, 3, 3⟩]) (h : Own P G z0 z1) : Own P G z0
    (Machine.plateVertex x g bottom z1) := by
  refine h.step ?_
  clear h
  unfold Machine.plateVertex
  try dsimp only
  repeat' first
    | (exact hG.sub rfl) | (exact hG.item rfl)
    | with_reducible exact same _ | with_reducible assumption | with_reducible refine branch (fun hc => ?_) (fun hc => ?_)
    | with_reducible apply newPeriod | with_reducible apply plateBegin | with_reducible apply pairFollow
    | with_reducible apply changeAtVertex | with_reducible refine foldl ?_ (fun v a ha => ?_)

theorem passVertex {z0 z1 : State} {x : Side} {g v : Nat} {hsF : Option Nat} (hp_meas : Part.meas ∈ P) (hp_graphs : Part.graphs ∈ P) (hp_gf :
    Part.gf ∈ P) (hp_plate : Part.plate ∈ P) (hp_pairs : Part.pairs ∈ P) (hp_stacks : Part.stacks ∈ P) (hp_sides : Part.sides ∈ P) (hp_clock :
    Part.clock ∈ P) (hp_capture : Part.capture ∈ P) (hG : Cov G [⟨0x2100, 0x213F, 11, 11⟩, ⟨0x5120, 0x5127, 5, 5⟩, ⟨0x5120, 0x5127, 6, 6⟩, ⟨0x5140,
    0x515F, 2, 2⟩, ⟨0x5140, 0x515F, 3, 3⟩, ⟨0x5200, 0x5247, 8, 8⟩, ⟨0x6000, 0x6000, 2, 2⟩, ⟨0x6021, 0x6021, 1, 1⟩, ⟨0x6021, 0x6021, 4, 4⟩, ⟨0x7000,
    0x7000, 5, 5⟩, ⟨0x7000, 0x7000, 8, 8⟩, ⟨0x7050, 0x7050, 1, 1⟩, ⟨0x7100, 0x7104, 3, 3⟩, ⟨0x9010, 0x901F, 3, 3⟩, ⟨0x9010, 0x901F, 7, 7⟩]) (hb_g :
    g < 8) (h : Own P G z0 z1) : Own P G z0 (Machine.passVertex x g v hsF z1) := by
  refine h.step ?_
  clear h
  have := sideIx_lt x
  unfold Machine.passVertex
  try dsimp only
  repeat' first
    | (exact hG.sub rfl) | (exact hG.item rfl)
    | with_reducible exact same _ | with_reducible assumption | with_reducible refine branch (fun hc => ?_) (fun hc => ?_)
    | with_reducible apply plateTake | with_reducible apply reloadUpdate | with_reducible apply plateVertex
    | with_reducible apply beginHalf | with_reducible refine foldl ?_ (fun v a ha => ?_)
    | with_reducible exact Nat.lt_of_lt_of_le (updatesOf_lt ‹_›) (by omega)

theorem followerVertex {z0 z1 : State} {x : Side} {g : Nat} (hp_meas : Part.meas ∈ P) (hp_graphs : Part.graphs ∈ P) (hp_gf : Part.gf ∈ P) (hp_plate
    : Part.plate ∈ P) (hp_pairs : Part.pairs ∈ P) (hp_stacks : Part.stacks ∈ P) (hp_sides : Part.sides ∈ P) (hp_clock : Part.clock ∈ P) (hp_capture
    : Part.capture ∈ P) (hG : Cov G [⟨0x2100, 0x213F, 11, 11⟩, ⟨0x5120, 0x5127, 5, 5⟩, ⟨0x5120, 0x5127, 6, 6⟩, ⟨0x5140, 0x515F, 2, 2⟩, ⟨0x5140,
    0x515F, 3, 3⟩, ⟨0x5200, 0x5247, 8, 8⟩, ⟨0x6000, 0x6000, 2, 2⟩, ⟨0x6021, 0x6021, 1, 1⟩, ⟨0x6021, 0x6021, 4, 4⟩, ⟨0x7000, 0x7000, 5, 5⟩, ⟨0x7000,
    0x7000, 8, 8⟩, ⟨0x7050, 0x7050, 1, 1⟩, ⟨0x7100, 0x7104, 3, 3⟩, ⟨0x9010, 0x901F, 3, 3⟩, ⟨0x9010, 0x901F, 7, 7⟩]) (hb_g : g < 8) (h : Own P G z0
    z1) : Own P G z0 (Machine.followerVertex x g z1) := by
  refine h.step ?_
  clear h
  unfold Machine.followerVertex
  try dsimp only
  repeat' first
    | (exact hG.sub rfl) | (exact hG.item rfl)
    | with_reducible exact same _ | with_reducible assumption | with_reducible refine branch (fun hc => ?_) (fun hc => ?_)
    | with_reducible apply haltGroup | with_reducible apply passVertex | with_reducible apply modCarrier | split

theorem masterVertex {z0 z1 : State} {x : Side} {g : Nat} (hp_meas : Part.meas ∈ P) (hp_graphs : Part.graphs ∈ P) (hp_gf : Part.gf ∈ P) (hp_plate :
    Part.plate ∈ P) (hp_pairs : Part.pairs ∈ P) (hp_stacks : Part.stacks ∈ P) (hp_sides : Part.sides ∈ P) (hp_clock : Part.clock ∈ P) (hp_capture :
    Part.capture ∈ P) (hG : Cov G [⟨0x2100, 0x213F, 11, 11⟩, ⟨0x5120, 0x5127, 5, 5⟩, ⟨0x5120, 0x5127, 6, 6⟩, ⟨0x5140, 0x515F, 2, 2⟩, ⟨0x5140,
    0x515F, 3, 3⟩, ⟨0x5200, 0x5247, 8, 8⟩, ⟨0x6000, 0x6000, 2, 2⟩, ⟨0x6021, 0x6021, 1, 1⟩, ⟨0x6021, 0x6021, 4, 4⟩, ⟨0x7000, 0x7000, 5, 5⟩, ⟨0x7000,
    0x7000, 8, 8⟩, ⟨0x7050, 0x7050, 1, 1⟩, ⟨0x7100, 0x7104, 3, 3⟩, ⟨0x9010, 0x901F, 3, 3⟩, ⟨0x9010, 0x901F, 7, 7⟩]) (hb_g : g < 8) (h : Own P G z0
    z1) : Own P G z0 (Machine.masterVertex x g z1) := by
  refine h.step ?_
  clear h
  unfold Machine.masterVertex
  try dsimp only
  repeat' first
    | (exact hG.sub rfl) | (exact hG.item rfl)
    | with_reducible exact same _ | with_reducible assumption | with_reducible refine branch (fun hc => ?_) (fun hc => ?_)
    | with_reducible apply haltGroup | with_reducible apply pushVertex | with_reducible apply attachFollowers
    | with_reducible apply passVertex

theorem missTicks {z0 z1 : State} {x : Side} (hp_graphs : Part.graphs ∈ P) (h : Own P G z0 z1) : Own P G z0 (Machine.missTicks x z1) := by
  refine h.step ?_
  clear h
  have := sideIx_lt x
  unfold Machine.missTicks
  try dsimp only
  repeat' first
    | with_reducible exact same _ | with_reducible assumption | with_reducible refine branch (fun hc => ?_) (fun hc => ?_)
    | with_reducible apply modResult | with_reducible refine foldl ?_ (fun v a ha => ?_) | omega | split

theorem startGroup {z0 z1 : State} {x : Side} {g : Nat} {v : Nat} {hs : Nat} (hp_meas : Part.meas ∈ P) (hp_graphs : Part.graphs ∈ P) (hp_gf :
    Part.gf ∈ P) (hp_plate : Part.plate ∈ P) (hp_pairs : Part.pairs ∈ P) (hp_stacks : Part.stacks ∈ P) (hp_sides : Part.sides ∈ P) (hp_clock :
    Part.clock ∈ P) (hp_capture : Part.capture ∈ P) (hG : Cov G [⟨0x2100, 0x213F, 11, 11⟩, ⟨0x5120, 0x5127, 5, 5⟩, ⟨0x5120, 0x5127, 6, 6⟩, ⟨0x5200,
    0x5247, 8, 8⟩, ⟨0x6000, 0x6000, 2, 2⟩, ⟨0x6021, 0x6021, 1, 1⟩, ⟨0x6021, 0x6021, 4, 4⟩, ⟨0x7000, 0x7000, 5, 5⟩, ⟨0x7000, 0x7000, 8, 8⟩, ⟨0x7050,
    0x7050, 1, 1⟩, ⟨0x7100, 0x7104, 3, 3⟩, ⟨0x9010, 0x901F, 3, 3⟩, ⟨0x9010, 0x901F, 7, 7⟩]) (hb_g : g < 8) (h : Own P G z0 z1) : Own P G z0
    (Machine.startGroup x g v hs z1) := by
  refine h.step ?_
  clear h
  have := sideIx_lt x
  unfold Machine.startGroup
  try dsimp only
  repeat' first
    | (exact hG.sub rfl) | (exact hG.item rfl) | with_reducible exact same _ | with_reducible assumption
    | with_reducible refine branch (fun hc => ?_) (fun hc => ?_) | with_reducible apply beginHalf | with_reducible apply fallAtStart
    | with_reducible apply missTicks | with_reducible apply plateTake | with_reducible apply plateVertex | omega | split

theorem startMaster {z0 z1 : State} {x : Side} {g : Nat} (hp_meas : Part.meas ∈ P) (hp_graphs : Part.graphs ∈ P) (hp_gf : Part.gf ∈ P) (hp_plate :
    Part.plate ∈ P) (hp_pairs : Part.pairs ∈ P) (hp_stacks : Part.stacks ∈ P) (hp_sides : Part.sides ∈ P) (hp_clock : Part.clock ∈ P) (hp_capture :
    Part.capture ∈ P) (hG : Cov G [⟨0x2100, 0x213F, 11, 11⟩, ⟨0x5120, 0x5127, 5, 5⟩, ⟨0x5120, 0x5127, 6, 6⟩, ⟨0x5200, 0x5247, 8, 8⟩, ⟨0x6000,
    0x6000, 2, 2⟩, ⟨0x6021, 0x6021, 1, 1⟩, ⟨0x6021, 0x6021, 4, 4⟩, ⟨0x7000, 0x7000, 5, 5⟩, ⟨0x7000, 0x7000, 8, 8⟩, ⟨0x7050, 0x7050, 1, 1⟩, ⟨0x7100,
    0x7104, 3, 3⟩, ⟨0x9010, 0x901F, 3, 3⟩, ⟨0x9010, 0x901F, 7, 7⟩]) (hb_g : g < 8) (h : Own P G z0 z1) : Own P G z0 (Machine.startMaster x g z1) := by
  refine h.step ?_
  clear h
  unfold Machine.startMaster
  try dsimp only
  repeat' first
    | (exact hG.sub rfl) | (exact hG.item rfl)
    | with_reducible exact same _ | with_reducible assumption | with_reducible apply formSets | with_reducible apply pushVertex
    | with_reducible apply attachFollowers | with_reducible apply startGroup

theorem followerStart {z0 z1 : State} {x : Side} {g : Nat} (hp_meas : Part.meas ∈ P) (hp_graphs : Part.graphs ∈ P) (hp_gf : Part.gf ∈ P) (hp_plate :
    Part.plate ∈ P) (hp_pairs : Part.pairs ∈ P) (hp_stacks : Part.stacks ∈ P) (hp_sides : Part.sides ∈ P) (hp_clock : Part.clock ∈ P) (hp_capture :
    Part.capture ∈ P) (hG : Cov G [⟨0x2100, 0x213F, 11, 11⟩, ⟨0x5120, 0x5127, 5, 5⟩, ⟨0x5120, 0x5127, 6, 6⟩, ⟨0x5200, 0x5247, 8, 8⟩, ⟨0x6000,
    0x6000, 2, 2⟩, ⟨0x6021, 0x6021, 1, 1⟩, ⟨0x6021, 0x6021, 4, 4⟩, ⟨0x7000, 0x7000, 5, 5⟩, ⟨0x7000, 0x7000, 8, 8⟩, ⟨0x7050, 0x7050, 1, 1⟩, ⟨0x7100,
    0x7104, 3, 3⟩, ⟨0x9010, 0x901F, 3, 3⟩, ⟨0x9010, 0x901F, 7, 7⟩]) (hb_g : g < 8) (h : Own P G z0 z1) : Own P G z0 (Machine.followerStart x g z1)
    := by
  refine h.step ?_
  clear h
  unfold Machine.followerStart
  try dsimp only
  repeat' first
    | (exact hG.sub rfl) | (exact hG.item rfl)
    | with_reducible exact same _ | with_reducible assumption | with_reducible refine branch (fun hc => ?_) (fun hc => ?_)
    | with_reducible apply haltGroup | with_reducible apply startGroup | with_reducible apply formSets | with_reducible apply modCarrier
    | split

theorem clockFound {z0 z1 : State} {x : Side} (hp_meas : Part.meas ∈ P) (hp_graphs : Part.graphs ∈ P) (hp_gf : Part.gf ∈ P) (hp_plate : Part.plate ∈
    P) (hp_pairs : Part.pairs ∈ P) (hp_sides : Part.sides ∈ P) (hp_clock : Part.clock ∈ P) (hp_capture : Part.capture ∈ P) (hG : Cov G [⟨0x2100,
    0x213F, 11, 11⟩, ⟨0x5200, 0x5247, 8, 8⟩, ⟨0x6000, 0x6000, 2, 2⟩, ⟨0x6021, 0x6021, 1, 1⟩, ⟨0x6021, 0x6021, 4, 4⟩, ⟨0x7000, 0x7000, 5, 5⟩,
    ⟨0x7000, 0x7000, 8, 8⟩, ⟨0x7050, 0x7050, 1, 1⟩, ⟨0x7100, 0x7104, 3, 3⟩]) (h : Own P G z0 z1) : Own P G z0 (Machine.clockFound x z1) := by
  refine h.step ?_
  clear h
  have := sideIx_lt x
  unfold Machine.clockFound
  try dsimp only
  repeat' first
    | (exact hG.sub rfl) | (exact hG.item rfl) | with_reducible exact same _ | with_reducible assumption
    | with_reducible refine branch (fun hc => ?_) (fun hc => ?_) | with_reducible apply allToSide | with_reducible apply finishChange
    | with_reducible apply setSideRt | omega | split

theorem mirrorLink {z0 z1 : State} {x : Side} {key : Nat} {d : GEntry} (hp_graphs : Part.graphs ∈ P) (h : Own P G z0 z1) : Own P G z0
    (Machine.mirrorLink x key d z1) := by
  refine h.step ?_
  clear h
  have := sideIx_lt x
  unfold Machine.mirrorLink
  try dsimp only
  repeat' first
    | with_reducible exact same _ | with_reducible assumption | with_reducible apply setGraph | omega | split

theorem mirrorLoad {z0 z1 : State} {x : Side} {l : List GEntry} (hp_graphs : Part.graphs ∈ P) (h : Own P G z0 z1) : Own P G z0 (Machine.mirrorLoad x
    l z1) := by
  refine h.step ?_
  clear h
  have := sideIx_lt x
  unfold Machine.mirrorLoad
  try dsimp only
  repeat' first
    | with_reducible exact same _ | with_reducible assumption | with_reducible refine branch (fun hc => ?_) (fun hc => ?_)
    | with_reducible apply mirrorLink | with_reducible apply modInst | with_reducible apply setGraph
    | with_reducible refine foldl ?_ (fun v a ha => ?_) | omega | split

theorem tickSide {z0 z1 : State} {x : Side} {k : Nat} {v : Nat} (hp_graphs : Part.graphs ∈ P) (hp_plate : Part.plate ∈ P) (hG : Cov G [⟨0x3000,
    0x3000, 5, 5⟩, ⟨0x3300, 0x3300, 2, 2⟩, ⟨0x9100, 0x910F, 4, 4⟩]) (h : Own P G z0 z1) : Own P G z0 (Machine.tickSide x k v z1) := by
  refine h.step ?_
  clear h
  have := sideIx_lt x
  unfold Machine.tickSide
  try dsimp only
  repeat' first
    | (exact hG.sub rfl) | (exact hG.item rfl) | with_reducible exact same _ | with_reducible assumption
    | with_reducible refine branch (fun hc => ?_) (fun hc => ?_) | with_reducible apply sleepLanes | with_reducible apply countEvent
    | with_reducible apply freezeInst | with_reducible apply instTick | with_reducible apply mirrorLoad | with_reducible apply rateOverruns
    | with_reducible apply setGraph | with_reducible apply swapCheck | with_reducible apply takeShares
    | with_reducible refine foldl ?_ (fun v a ha => ?_) | omega | split | with_reducible refine plate_set ‹_› ?_ ?_ | exact Eq.refl _

theorem dropCmds {z0 z1 : State} {x : Side} {ix : Nat} {rt : Nat} (hp_graphs : Part.graphs ∈ P) (h : Own P G z0 z1) : Own P G z0 (Machine.dropCmds x
    ix rt z1) := by
  refine h.step ?_
  clear h
  have := sideIx_lt x
  unfold Machine.dropCmds
  try dsimp only
  repeat' first
    | with_reducible exact same _ | with_reducible assumption | with_reducible refine branch (fun hc => ?_) (fun hc => ?_)
    | with_reducible apply setGraph | omega | split

theorem finish {z0 z1 : State} {x : Side} {k : Nat} {e : GEntry} {pr : Prep} {r : Res} (hp_graphs : Part.graphs ∈ P) (hG : Cov G [⟨0x3300, 0x3300,
    2, 2⟩, ⟨0x3400, 0x3BFF, 4, 4⟩, ⟨0x3400, 0x3BFF, 6, 6⟩, ⟨0x3400, 0x3BFF, 7, 7⟩, ⟨0x3400, 0x3BFF, 8, 8⟩]) (hr : ∀ j, j = 4 ∨ j = 6 ∨ j = 7 ∨ j = 8
    → Hit G pr.objIx j) (h : Own P G z0 z1) : Own P G z0 (Machine.finish x k e pr r z1) := by
  refine h.step ?_
  clear h
  have := sideIx_lt x
  unfold Machine.finish
  try dsimp only
  repeat' first
    | (exact hG.sub rfl) | (exact hG.item rfl) | with_reducible exact same _ | with_reducible assumption
    | with_reducible refine branch (fun hc => ?_) (fun hc => ?_) | with_reducible apply dropCmds | with_reducible apply modInst
    | with_reducible apply produce | with_reducible apply publish | with_reducible apply raise | with_reducible apply recordExec
    | with_reducible apply setBitO | with_reducible apply setFld | with_reducible apply setGraph | with_reducible apply swapCheck
    | with_reducible refine foldl ?_ (fun v a ha => ?_) | omega | split | (exact hr _ (by decide))

theorem runPart {z0 z1 u : State} {x : Side} {k : Nat} {e : GEntry} {part : Nat} (hp_graphs : Part.graphs ∈ P) (hG : Cov G [⟨0x3300, 0x3300, 2, 2⟩,
    ⟨0x3400, 0x3BFF, 4, 4⟩, ⟨0x3400, 0x3BFF, 6, 6⟩, ⟨0x3400, 0x3BFF, 7, 7⟩, ⟨0x3400, 0x3BFF, 8, 8⟩]) (hu : Machine.runPart x k e part z1 = some u)
    (h : Own P G z0 z1) : Own P G z0 u := by
  refine h.step ?_
  clear h
  have hr : ∀ v : State, ∀ j, j = 4 ∨ j = 6 ∨ j = 7 ∨ j = 8 → Hit G (prepare v x k e).objIx j := by
    rintro v j (rfl | rfl | rfl | rfl)
    · exact hG.rec (sub := 4) (last := 4) rfl (by decide) (by decide) (by decide)
    · exact hG.rec (sub := 6) (last := 6) rfl (by decide) (by decide) (by decide)
    · exact hG.rec (sub := 7) (last := 7) rfl (by decide) (by decide) (by decide)
    · exact hG.rec (sub := 8) (last := 8) rfl (by decide) (by decide) (by decide)
  unfold Machine.runPart at hu
  dsimp only at hu
  repeat' split at hu
  all_goals first
    | contradiction
    | (cases hu
       repeat' first
         | (exact hG.sub rfl) | (exact hG.item rfl)
         | with_reducible exact same _
         | with_reducible assumption
         | exact hr _
         | with_reducible apply post
         | with_reducible apply finish
         | with_reducible apply modInst)

theorem sideOff {z0 z1 : State} {x : Side} (hp_meas : Part.meas ∈ P) (hp_graphs : Part.graphs ∈ P) (hp_gf : Part.gf ∈ P) (hp_plate : Part.plate ∈ P)
    (hp_sides : Part.sides ∈ P) (hp_capture : Part.capture ∈ P) (hG : Cov G [⟨0x2100, 0x213F, 11, 11⟩, ⟨0x6021, 0x6021, 1, 1⟩, ⟨0x7050, 0x7050, 1,
    1⟩, ⟨0x7100, 0x7104, 3, 3⟩]) (h : Own P G z0 z1) : Own P G z0 (Machine.sideOff x z1) := by
  refine h.step ?_
  clear h
  have := sideIx_lt x
  unfold Machine.sideOff
  try dsimp only
  repeat' first
    | (exact hG.sub rfl) | (exact hG.item rfl) | with_reducible exact same _ | with_reducible assumption | with_reducible apply clearSide
    | with_reducible apply leaveService | with_reducible apply pllOff | with_reducible apply setSideBays | omega

theorem powerBays {z0 z1 : State} {x : Side} (hG : Cov G [⟨0x7050, 0x7050, 1, 1⟩]) (h : Own P G z0 z1) : Own P G z0 (Machine.powerBays x z1) := by
  refine h.step ?_
  clear h
  have := sideIx_lt x
  unfold Machine.powerBays
  try dsimp only
  repeat' first
    | (exact hG.sub rfl) | (exact hG.item rfl) | with_reducible exact same _ | with_reducible assumption
    | with_reducible refine branch (fun hc => ?_) (fun hc => ?_) | with_reducible apply setSideBays | omega | split

theorem setBays {z0 z1 : State} (hG : Cov G [⟨0x7050, 0x7050, 1, 1⟩]) (h : Own P G z0 z1) : Own P G z0 (Machine.setBays z1) := by
  refine h.step ?_
  clear h
  unfold Machine.setBays
  try dsimp only
  repeat' first
    | (exact hG.sub rfl) | (exact hG.item rfl) | with_reducible exact same _ | with_reducible assumption
    | with_reducible refine branch (fun hc => ?_) (fun hc => ?_) | with_reducible apply powerBays | with_reducible apply setSideBays | omega
    | split

theorem failAtReady {z0 z1 : State} {x : Side} (hp_meas : Part.meas ∈ P) (hp_graphs : Part.graphs ∈ P) (hp_gf : Part.gf ∈ P) (hp_plate : Part.plate
    ∈ P) (hp_sides : Part.sides ∈ P) (hp_clock : Part.clock ∈ P) (hp_capture : Part.capture ∈ P) (hG : Cov G [⟨0x2100, 0x213F, 11, 11⟩, ⟨0x6000,
    0x6000, 2, 2⟩, ⟨0x6021, 0x6021, 1, 1⟩, ⟨0x7000, 0x7000, 5, 5⟩, ⟨0x7000, 0x7000, 8, 8⟩, ⟨0x7050, 0x7050, 1, 1⟩, ⟨0x7100, 0x7104, 3, 3⟩]) (h : Own
    P G z0 z1) : Own P G z0 (Machine.failAtReady x z1) := by
  refine h.step ?_
  clear h
  have := sideIx_lt x
  unfold Machine.failAtReady
  try dsimp only
  repeat' first
    | (exact hG.sub rfl) | (exact hG.item rfl) | with_reducible exact same _ | with_reducible assumption | with_reducible apply setFailed
    | omega

theorem sidesAtReady {z0 z1 : State} {okA : Bool} {okB : Bool} (hp_meas : Part.meas ∈ P) (hp_graphs : Part.graphs ∈ P) (hp_gf : Part.gf ∈ P)
    (hp_plate : Part.plate ∈ P) (hp_sides : Part.sides ∈ P) (hp_clock : Part.clock ∈ P) (hp_capture : Part.capture ∈ P) (hG : Cov G [⟨0x2100,
    0x213F, 11, 11⟩, ⟨0x6000, 0x6000, 2, 2⟩, ⟨0x6021, 0x6021, 1, 1⟩, ⟨0x7000, 0x7000, 5, 5⟩, ⟨0x7000, 0x7000, 8, 8⟩, ⟨0x7050, 0x7050, 1, 1⟩,
    ⟨0x7100, 0x7104, 3, 3⟩]) (h : Own P G z0 z1) : Own P G z0 (Machine.sidesAtReady okA okB z1) := by
  refine h.step ?_
  clear h
  unfold Machine.sidesAtReady
  try dsimp only
  repeat' first
    | (exact hG.sub rfl) | (exact hG.item rfl) | with_reducible exact same _ | with_reducible assumption
    | with_reducible refine branch (fun hc => ?_) (fun hc => ?_) | with_reducible apply failAtReady | with_reducible apply setControl
    | with_reducible apply setDegraded | with_reducible apply setReserve | with_reducible apply sideOff | omega | split

theorem enterReady {z0 z1 : State} {okA okB : Bool} (hp_meas : Part.meas ∈ P) (hp_graphs : Part.graphs ∈ P) (hp_gf : Part.gf ∈ P) (hp_plate :
    Part.plate ∈ P) (hp_sides : Part.sides ∈ P) (hp_safety : Part.safety ∈ P) (hp_clock : Part.clock ∈ P) (hp_capture : Part.capture ∈ P) (hG :
    Cov G [⟨0x2100, 0x213F, 11, 11⟩, ⟨0x6000, 0x6000, 2, 2⟩, ⟨0x6021, 0x6021, 1, 1⟩, ⟨0x6800, 0x6800, 2, 2⟩, ⟨0x7000, 0x7000, 5, 5⟩, ⟨0x7000,
    0x7000, 8, 8⟩, ⟨0x7050, 0x7050, 1, 1⟩, ⟨0x7100, 0x7104, 3, 3⟩, ⟨0xB000, 0xB000, 1, 1⟩, ⟨0xB000, 0xB000, 4, 4⟩]) (h : Own P G z0 z1) : Own P G z0 (Machine.enterReady
    okA okB z1) := by
  refine h.step ?_
  clear h
  unfold Machine.enterReady
  try dsimp only
  repeat' first
    | (exact hG.sub rfl) | (exact hG.item rfl) | with_reducible exact same _ | with_reducible assumption
    | with_reducible refine branch (fun hc => ?_) (fun hc => ?_) | with_reducible apply adoptProfile | with_reducible apply setStage
    | with_reducible apply sidesAtReady | with_reducible apply setBridged | with_reducible apply pllOff | with_reducible apply setBays
    | with_reducible apply permitAtReady | with_reducible apply fwNote | with_reducible apply raise
    | (have := sideIx_lt .A; have := sideIx_lt .B; omega) | with_reducible refine safety_set (by assumption) ?_

theorem endBringUp {z0 z1 : State} {found : List (List Nat)} {linkOk : Bool} (hp_meas : Part.meas ∈ P) (hp_graphs : Part.graphs ∈ P) (hp_gf :
    Part.gf ∈ P) (hp_plate : Part.plate ∈ P) (hp_sides : Part.sides ∈ P) (hp_safety : Part.safety ∈ P) (hp_clock : Part.clock ∈ P) (hp_capture :
    Part.capture ∈ P) (hG : Cov G [⟨0x2100, 0x213F, 11, 11⟩, ⟨0x6000, 0x6000, 2, 2⟩, ⟨0x6021, 0x6021, 1, 1⟩, ⟨0x6800, 0x6800, 2, 2⟩, ⟨0x7000,
    0x7000, 5, 5⟩, ⟨0x7000, 0x7000, 8, 8⟩, ⟨0x7050, 0x7050, 1, 1⟩, ⟨0x7100, 0x7104, 3, 3⟩, ⟨0xB000, 0xB000, 1, 1⟩, ⟨0xB000, 0xB000, 4, 4⟩, ⟨0xB100,
    0xB100, 2, 2⟩, ⟨0xB100, 0xB100, 3, 3⟩]) (h : Own P G z0 z1) : Own P G z0 (Machine.endBringUp found linkOk z1) := by
  refine h.step ?_
  clear h
  unfold Machine.endBringUp
  try dsimp only
  repeat' first
    | (exact hG.sub rfl) | (exact hG.item rfl)
    | with_reducible exact same _ | with_reducible assumption | with_reducible refine branch (fun hc => ?_) (fun hc => ?_)
    | with_reducible apply foundFault | with_reducible apply bringSpares | with_reducible apply setNum | with_reducible apply haltDevice
    | with_reducible apply enterReady | with_reducible refine foldl ?_ (fun v a ha => ?_)

theorem calmSensor {z0 z1 : State} {n : Nat} (hp_boot : Part.boot ∈ P) (h : Own P G z0 z1) : Own P G z0 (Machine.calmSensor n z1) := by
  refine h.step ?_
  clear h
  unfold Machine.calmSensor
  try dsimp only
  repeat' first
    | with_reducible exact same _ | with_reducible assumption | omega | with_reducible refine boot_set (by assumption) ?_

theorem takeSensor {z0 z1 : State} {n : Nat} {v : Nat} (hp_sides : Part.sides ∈ P) (hp_plls : Part.plls ∈ P) (hp_boot : Part.boot ∈ P) (hG : Cov G
    [⟨0x6030, 0x6031, 1, 1⟩, ⟨0x7100, 0x7104, 3, 3⟩, ⟨0xB010, 0xB010, 1, 1⟩]) (h : Own P G z0 z1) : Own P G z0 (Machine.takeSensor n v z1) := by
  refine h.step ?_
  clear h
  unfold Machine.takeSensor
  try dsimp only
  repeat' first
    | (exact hG.sub rfl) | (exact hG.item rfl) | with_reducible exact same _ | with_reducible assumption
    | with_reducible refine branch (fun hc => ?_) (fun hc => ?_) | with_reducible apply calmSensor | with_reducible apply correctedRate
    | with_reducible apply putSensor | with_reducible apply setBitO
    | (refine hG.hit 0x7100 0x7104 3 3 rfl ?_ ?_ ?_ ?_ ?_ <;> (first | omega | ((try simp only [quantIx, ctrIx, planIx, bankIndex, resIx, pllSide, instRecord, recordIndex]); omega) | (simp only [Bool.and_eq_true, decide_eq_true_eq] at *; omega)))
    | omega | split
    | (refine hG.hit 0x7100 0x7104 3 3 rfl ?_ ?_ ?_ ?_ ?_ <;> (first | omega | ((simp only [quantIx, ctrIx, planIx, bankIndex, resIx, pllSide, instRecord, recordIndex, pairsOf, updatesOf, groupPairs, mastersOf, followersOf, maskList, List.mem_filter, List.mem_range, Bool.or_eq_true, Bool.and_eq_true, not_or, decide_eq_true_eq] at *); omega)))
    | with_reducible refine boot_set (by assumption) ?_ | with_reducible refine plls_set (by assumption) ?_
    | (refine of_pairs ?_ rfl; constructor <;> intros <;> first | rfl | contradiction)

theorem startDue {z0 z1 : State} {x : Side} {g : Nat} (hp_meas : Part.meas ∈ P) (hp_graphs : Part.graphs ∈ P) (hp_gf : Part.gf ∈ P) (hp_plate :
    Part.plate ∈ P) (hp_pairs : Part.pairs ∈ P) (hp_stacks : Part.stacks ∈ P) (hp_sides : Part.sides ∈ P) (hp_clock : Part.clock ∈ P) (hp_capture :
    Part.capture ∈ P) (hG : Cov G [⟨0x2100, 0x213F, 11, 11⟩, ⟨0x5120, 0x5127, 5, 5⟩, ⟨0x5120, 0x5127, 6, 6⟩, ⟨0x5200, 0x5247, 8, 8⟩, ⟨0x6000,
    0x6000, 2, 2⟩, ⟨0x6021, 0x6021, 1, 1⟩, ⟨0x6021, 0x6021, 4, 4⟩, ⟨0x7000, 0x7000, 5, 5⟩, ⟨0x7000, 0x7000, 8, 8⟩, ⟨0x7050, 0x7050, 1, 1⟩, ⟨0x7100,
    0x7104, 3, 3⟩, ⟨0x9010, 0x901F, 3, 3⟩, ⟨0x9010, 0x901F, 7, 7⟩]) (hb_g : g < 8) (h : Own P G z0 z1) : Own P G z0 (Machine.startDue x g z1) := by
  refine h.step ?_
  clear h
  have := sideIx_lt x
  unfold Machine.startDue
  try dsimp only
  repeat' first
    | (exact hG.sub rfl) | (exact hG.item rfl) | with_reducible exact same _ | with_reducible assumption
    | with_reducible refine branch (fun hc => ?_) (fun hc => ?_) | with_reducible apply announceStart | with_reducible apply modCarrier
    | with_reducible apply startMaster | omega | split

theorem coherentCheck {z0 z1 : State} (hp_meas : Part.meas ∈ P) (hp_graphs : Part.graphs ∈ P) (hp_gf : Part.gf ∈ P) (hp_plate : Part.plate ∈ P)
    (hp_pairs : Part.pairs ∈ P) (hp_stacks : Part.stacks ∈ P) (hp_safety : Part.safety ∈ P) (hp_sharing : Part.sharing ∈ P) (hG : Cov G [⟨0x2500,
    0x2503, 6, 6⟩, ⟨0x2500, 0x2503, 8, 8⟩, ⟨0x2500, 0x2503, 9, 9⟩, ⟨0x4001, 0x4001, 3, 3⟩, ⟨0x4001, 0x4001, 4, 4⟩, ⟨0x5300, 0x5300, 4, 4⟩, ⟨0x5320,
    0x5320, 2, 2⟩, ⟨0x6800, 0x6800, 2, 2⟩, ⟨0x9010, 0x901F, 3, 3⟩, ⟨0xA000, 0xA000, 1, 1⟩]) (h : Own P G z0 z1) : Own P G z0 (Machine.coherentCheck
    z1) := by
  refine h.step ?_
  clear h
  unfold Machine.coherentCheck
  try dsimp only
  repeat' first
    | (exact hG.sub rfl) | (exact hG.item rfl)
    | with_reducible exact same _ | with_reducible assumption | with_reducible refine branch (fun hc => ?_) (fun hc => ?_)
    | with_reducible apply setBitO | with_reducible apply raise | with_reducible apply loadRotor | with_reducible apply enterGf

theorem takeTrans {z0 z1 : State} {c : Trans} (hp_meas : Part.meas ∈ P) (hp_graphs : Part.graphs ∈ P) (hp_gf : Part.gf ∈ P) (hp_plate : Part.plate ∈
    P) (hp_pairs : Part.pairs ∈ P) (hp_stacks : Part.stacks ∈ P) (hp_sides : Part.sides ∈ P) (hp_safety : Part.safety ∈ P) (hp_sharing :
    Part.sharing ∈ P) (hp_capture : Part.capture ∈ P) (hG : Cov G [⟨0x2500, 0x2503, 6, 6⟩, ⟨0x2500, 0x2503, 8, 8⟩, ⟨0x2500, 0x2503, 9, 9⟩, ⟨0x4001,
    0x4001, 3, 3⟩, ⟨0x4001, 0x4001, 4, 4⟩, ⟨0x5300, 0x5300, 4, 4⟩, ⟨0x5320, 0x5320, 2, 2⟩, ⟨0x6021, 0x6021, 1, 1⟩, ⟨0x6800, 0x6800, 2, 2⟩, ⟨0x7050,
    0x7050, 1, 1⟩, ⟨0x7100, 0x7104, 3, 3⟩, ⟨0x9010, 0x901F, 3, 3⟩, ⟨0xA000, 0xA000, 1, 1⟩]) (h : Own P G z0 z1) : Own P G z0 (Machine.takeTrans c
    z1) := by
  refine h.step ?_
  clear h
  unfold Machine.takeTrans
  try dsimp only
  repeat' first
    | (exact hG.sub rfl) | (exact hG.item rfl)
    | with_reducible exact same _ | with_reducible assumption | with_reducible refine branch (fun hc => ?_) (fun hc => ?_)
    | with_reducible apply raise | with_reducible apply enterGf | with_reducible apply loadRotor | with_reducible apply ackDouble | omega
    | split | with_reducible refine gf_set (by assumption) ?_

theorem takePending {z0 z1 : State} (hp_meas : Part.meas ∈ P) (hp_graphs : Part.graphs ∈ P) (hp_gf : Part.gf ∈ P) (hp_plate : Part.plate ∈ P)
    (hp_pairs : Part.pairs ∈ P) (hp_stacks : Part.stacks ∈ P) (hp_sides : Part.sides ∈ P) (hp_safety : Part.safety ∈ P) (hp_sharing : Part.sharing ∈
    P) (hp_capture : Part.capture ∈ P) (hG : Cov G [⟨0x2500, 0x2503, 6, 6⟩, ⟨0x2500, 0x2503, 8, 8⟩, ⟨0x2500, 0x2503, 9, 9⟩, ⟨0x4001, 0x4001, 3, 3⟩,
    ⟨0x4001, 0x4001, 4, 4⟩, ⟨0x5300, 0x5300, 4, 4⟩, ⟨0x5320, 0x5320, 2, 2⟩, ⟨0x6021, 0x6021, 1, 1⟩, ⟨0x6800, 0x6800, 2, 2⟩, ⟨0x7050, 0x7050, 1, 1⟩,
    ⟨0x7100, 0x7104, 3, 3⟩, ⟨0x9010, 0x901F, 3, 3⟩, ⟨0xA000, 0xA000, 1, 1⟩]) (h : Own P G z0 z1) : Own P G z0 (Machine.takePending z1) := by
  refine h.step ?_
  clear h
  unfold Machine.takePending
  try dsimp only
  repeat' first
    | (exact hG.sub rfl) | (exact hG.item rfl)
    | with_reducible exact same _ | with_reducible assumption | with_reducible refine branch (fun hc => ?_) (fun hc => ?_)
    | with_reducible apply takeTrans | split | with_reducible refine gf_set (by assumption) ?_

theorem mainTick {z0 z1 : State} (hp_meas : Part.meas ∈ P) (hp_graphs : Part.graphs ∈ P) (hp_gf : Part.gf ∈ P) (hp_plate : Part.plate ∈ P) (hp_pairs
    : Part.pairs ∈ P) (hp_stacks : Part.stacks ∈ P) (hp_sides : Part.sides ∈ P) (hp_safety : Part.safety ∈ P) (hp_sharing : Part.sharing ∈ P)
    (hp_capture : Part.capture ∈ P) (hG : Cov G [⟨0x2500, 0x2503, 6, 6⟩, ⟨0x2500, 0x2503, 8, 8⟩, ⟨0x2500, 0x2503, 9, 9⟩, ⟨0x4001, 0x4001, 3, 3⟩,
    ⟨0x4001, 0x4001, 4, 4⟩, ⟨0x4001, 0x4001, 5, 5⟩, ⟨0x4002, 0x4002, 16, 16⟩, ⟨0x4002, 0x4002, 17, 17⟩, ⟨0x5300, 0x5300, 4, 4⟩, ⟨0x5320, 0x5320, 2,
    2⟩, ⟨0x6021, 0x6021, 1, 1⟩, ⟨0x6800, 0x6800, 2, 2⟩, ⟨0x7050, 0x7050, 1, 1⟩, ⟨0x7100, 0x7104, 3, 3⟩, ⟨0x9010, 0x901F, 3, 3⟩, ⟨0xA000, 0xA000, 1,
    1⟩]) (h : Own P G z0 z1) : Own P G z0 (Machine.mainTick z1) := by
  refine h.step ?_
  clear h
  unfold Machine.mainTick
  try dsimp only
  repeat' first
    | (exact hG.sub rfl) | (exact hG.item rfl)
    | with_reducible exact same _ | with_reducible assumption | with_reducible refine branch (fun hc => ?_) (fun hc => ?_)
    | with_reducible apply coherentCheck | with_reducible apply takePending | with_reducible apply issueClose
    | with_reducible apply takeCauses | with_reducible apply noteUnknown | with_reducible apply resyncMax
    | with_reducible apply blackStartMax | with_reducible apply rideMax | with_reducible apply evalCommand | with_reducible apply slipTick
    | with_reducible apply releaseOnClosed | with_reducible apply refreshGf | split | with_reducible refine gf_set (by assumption) ?_

theorem idleEval {z0 z1 : State} (hp_meas : Part.meas ∈ P) (hp_graphs : Part.graphs ∈ P) (hp_gf : Part.gf ∈ P) (hp_plate : Part.plate ∈ P) (hp_pairs
    : Part.pairs ∈ P) (hp_stacks : Part.stacks ∈ P) (hp_sides : Part.sides ∈ P) (hp_safety : Part.safety ∈ P) (hp_sharing : Part.sharing ∈ P)
    (hp_capture : Part.capture ∈ P) (hG : Cov G [⟨0x2500, 0x2503, 6, 6⟩, ⟨0x2500, 0x2503, 8, 8⟩, ⟨0x2500, 0x2503, 9, 9⟩, ⟨0x4001, 0x4001, 3, 3⟩,
    ⟨0x4001, 0x4001, 4, 4⟩, ⟨0x4001, 0x4001, 5, 5⟩, ⟨0x5300, 0x5300, 4, 4⟩, ⟨0x5320, 0x5320, 2, 2⟩, ⟨0x6021, 0x6021, 1, 1⟩, ⟨0x6800, 0x6800, 2, 2⟩,
    ⟨0x7050, 0x7050, 1, 1⟩, ⟨0x7100, 0x7104, 3, 3⟩, ⟨0x9010, 0x901F, 3, 3⟩, ⟨0xA000, 0xA000, 1, 1⟩]) (h : Own P G z0 z1) : Own P G z0
    (Machine.idleEval z1) := by
  refine h.step ?_
  clear h
  unfold Machine.idleEval
  try dsimp only
  repeat' first
    | (exact hG.sub rfl) | (exact hG.item rfl)
    | with_reducible exact same _ | with_reducible assumption | with_reducible refine branch (fun hc => ?_) (fun hc => ?_)
    | with_reducible apply takeTrans | with_reducible apply blackStartMax | with_reducible apply rideMax
    | with_reducible apply evalCommand | split

theorem judgeOverrun {z0 z1 : State} {x : Side} (hp_meas : Part.meas ∈ P) (hp_graphs : Part.graphs ∈ P) (hp_gf : Part.gf ∈ P) (hp_plate : Part.plate
    ∈ P) (hp_pairs : Part.pairs ∈ P) (hp_stacks : Part.stacks ∈ P) (hp_sides : Part.sides ∈ P) (hp_safety : Part.safety ∈ P) (hp_sharing :
    Part.sharing ∈ P) (hp_clock : Part.clock ∈ P) (hp_capture : Part.capture ∈ P) (hG : Cov G [⟨0x2100, 0x213F, 11, 11⟩, ⟨0x2500, 0x2503, 6, 6⟩,
    ⟨0x2500, 0x2503, 8, 8⟩, ⟨0x2500, 0x2503, 9, 9⟩, ⟨0x4001, 0x4001, 3, 3⟩, ⟨0x4001, 0x4001, 4, 4⟩, ⟨0x5200, 0x5247, 8, 8⟩, ⟨0x5300, 0x5300, 4, 4⟩,
    ⟨0x5320, 0x5320, 2, 2⟩, ⟨0x6000, 0x6000, 2, 2⟩, ⟨0x6021, 0x6021, 1, 1⟩, ⟨0x6021, 0x6021, 2, 2⟩, ⟨0x6021, 0x6021, 3, 3⟩, ⟨0x6021, 0x6021, 4, 4⟩,
    ⟨0x6800, 0x6800, 2, 2⟩, ⟨0x7000, 0x7000, 5, 5⟩, ⟨0x7000, 0x7000, 8, 8⟩, ⟨0x7050, 0x7050, 1, 1⟩, ⟨0x7100, 0x7104, 3, 3⟩, ⟨0x9010, 0x901F, 3, 3⟩,
    ⟨0xA000, 0xA000, 1, 1⟩]) (h : Own P G z0 z1) : Own P G z0 (Machine.judgeOverrun x z1) := by
  refine h.step ?_
  clear h
  have := sideIx_lt x
  have := sideIx_lt (otherSide x)
  unfold Machine.judgeOverrun
  try dsimp only
  repeat' first
    | (exact hG.sub rfl) | (exact hG.item rfl) | with_reducible exact same _ | with_reducible assumption
    | with_reducible refine branch (fun hc => ?_) (fun hc => ?_) | with_reducible apply holdGates | with_reducible apply noteCause
    | with_reducible apply sideFault | omega | split

theorem compareSide {z0 z1 : State} {x : Side} {k : Nat} (hp_meas : Part.meas ∈ P) (hp_graphs : Part.graphs ∈ P) (hp_gf : Part.gf ∈ P) (hp_plate :
    Part.plate ∈ P) (hp_pairs : Part.pairs ∈ P) (hp_stacks : Part.stacks ∈ P) (hp_sides : Part.sides ∈ P) (hp_safety : Part.safety ∈ P) (hp_sharing
    : Part.sharing ∈ P) (hp_clock : Part.clock ∈ P) (hp_capture : Part.capture ∈ P) (hG : Cov G [⟨0x2100, 0x213F, 11, 11⟩, ⟨0x2500, 0x2503, 6, 6⟩,
    ⟨0x2500, 0x2503, 8, 8⟩, ⟨0x2500, 0x2503, 9, 9⟩, ⟨0x3000, 0x3000, 4, 4⟩, ⟨0x4001, 0x4001, 3, 3⟩, ⟨0x4001, 0x4001, 4, 4⟩, ⟨0x5200, 0x5247, 8, 8⟩,
    ⟨0x5300, 0x5300, 4, 4⟩, ⟨0x5320, 0x5320, 2, 2⟩, ⟨0x6000, 0x6000, 2, 2⟩, ⟨0x6021, 0x6021, 1, 1⟩, ⟨0x6021, 0x6021, 2, 2⟩, ⟨0x6021, 0x6021, 3, 3⟩,
    ⟨0x6021, 0x6021, 4, 4⟩, ⟨0x6800, 0x6800, 2, 2⟩, ⟨0x7000, 0x7000, 5, 5⟩, ⟨0x7000, 0x7000, 8, 8⟩, ⟨0x7050, 0x7050, 1, 1⟩, ⟨0x7100, 0x7104, 3, 3⟩,
    ⟨0x9010, 0x901F, 3, 3⟩, ⟨0xA000, 0xA000, 1, 1⟩]) (h : Own P G z0 z1) : Own P G z0 (Machine.compareSide x k z1) := by
  refine h.step ?_
  clear h
  unfold Machine.compareSide
  try dsimp only
  repeat' first
    | (exact hG.sub rfl) | (exact hG.item rfl)
    | with_reducible exact same _ | with_reducible assumption | with_reducible refine branch (fun hc => ?_) (fun hc => ?_)
    | with_reducible apply raise | with_reducible apply incSat | with_reducible apply countEvent | with_reducible apply writeWords
    | with_reducible apply setGraph | with_reducible apply judgeOverrun | with_reducible refine foldl ?_ (fun v a ha => ?_)

theorem takeTick {z0 z1 : State} {x : Side} (hp_graphs : Part.graphs ∈ P) (hp_plate : Part.plate ∈ P) (hG : Cov G [⟨0x3000, 0x3000, 5, 5⟩, ⟨0x3300,
    0x3300, 2, 2⟩, ⟨0x5140, 0x515F, 2, 2⟩, ⟨0x9100, 0x910F, 4, 4⟩]) (h : Own P G z0 z1) : Own P G z0 (Machine.takeTick x z1) := by
  refine h.step ?_
  clear h
  unfold Machine.takeTick
  try dsimp only
  repeat' first
    | (exact hG.sub rfl) | (exact hG.item rfl)
    | with_reducible exact same _ | with_reducible assumption | with_reducible apply tickSide | with_reducible apply applyWaiting | split

theorem countEntry {z0 z1 : State} {x : Side} {cost : Nat} {ty : Nat} (h : Own P G z0 z1) : Own P G z0 (Machine.countEntry x cost ty z1) := by
  refine h.step ?_
  clear h
  unfold Machine.countEntry
  try dsimp only
  repeat' first
    | with_reducible exact same _ | with_reducible apply countEvent | with_reducible apply countIf

theorem runEntry {z0 z1 : State} {x : Side} {k : Nat} {n : Nat} (hp_graphs : Part.graphs ∈ P) (hp_scribe : Part.scribe ∈ P) (hG : Cov G [⟨0x3300,
    0x3300, 2, 2⟩, ⟨0x3400, 0x3BFF, 4, 4⟩, ⟨0x3400, 0x3BFF, 6, 6⟩, ⟨0x3400, 0x3BFF, 7, 7⟩, ⟨0x3400, 0x3BFF, 8, 8⟩, ⟨0x8210, 0x8211, 6, 6⟩]) (h :
    Own P G z0 z1) : Own P G z0 (Machine.runEntry x k n z1) := by
  refine h.step ?_
  clear h
  have := sideIx_lt x
  unfold Machine.runEntry
  try dsimp only
  repeat' first
    | (exact hG.sub rfl) | (exact hG.item rfl) | with_reducible exact same _ | with_reducible assumption
    | with_reducible refine branch (fun hc => ?_) (fun hc => ?_) | with_reducible apply countEntry | with_reducible apply countEvent
    | with_reducible apply entryDone | with_reducible apply tagExecution | omega
    | with_reducible refine runPart (by assumption) (hG.sub rfl) ‹_› ?_ | split

theorem countCycle {z0 z1 : State} {k : Nat} {p : Nat} {c : Nat × Nat × Bool} (hG : Cov G [⟨0x9010, 0x901F, 6, 6⟩, ⟨0x9010, 0x901F, 8, 8⟩]) (hb_k :
    k < 16) (h : Own P G z0 z1) : Own P G z0 (Machine.countCycle k p c z1) := by
  refine h.step ?_
  clear h
  unfold Machine.countCycle
  try dsimp only
  repeat' first
    | (exact hG.sub rfl) | (exact hG.item rfl) | with_reducible exact same _ | with_reducible assumption
    | with_reducible refine branch (fun hc => ?_) (fun hc => ?_) | with_reducible apply setBlob
    | (refine hG.hit 0x9010 0x901F 6 6 rfl ?_ ?_ ?_ ?_ ?_ <;> (first | omega | ((try simp only [quantIx, ctrIx, planIx, bankIndex, resIx, pllSide, instRecord, recordIndex]); omega) | (simp only [Bool.and_eq_true, decide_eq_true_eq] at *; omega)))
    | (refine hG.hit 0x9010 0x901F 8 8 rfl ?_ ?_ ?_ ?_ ?_ <;> (first | omega | ((try simp only [quantIx, ctrIx, planIx, bankIndex, resIx, pllSide, instRecord, recordIndex]); omega) | (simp only [Bool.and_eq_true, decide_eq_true_eq] at *; omega)))
    | omega | split | (refine hG.hit 0x9010 0x901F 6 6 rfl ?_ ?_ ?_ ?_ ?_ <;> omega)
    | (refine hG.hit 0x9010 0x901F 8 8 rfl ?_ ?_ ?_ ?_ ?_ <;> omega)

theorem applyPosting {z0 z1 : State} {q : Posting} (hp_stacks : Part.stacks ∈ P) (hp_graphs : Part.graphs ∈ P) (hG : Cov G [⟨0x9010, 0x901F, 6,
    6⟩, ⟨0x9010, 0x901F, 8, 8⟩]) (h : Own P G z0 z1) : Own P G z0 (Machine.applyPosting q z1) := by
  refine h.step ?_
  clear h
  unfold Machine.applyPosting
  try dsimp only
  repeat' first
    | (exact hG.sub rfl) | (exact hG.item rfl) | with_reducible exact same _ | with_reducible assumption
    | with_reducible refine branch (fun hc => ?_) (fun hc => ?_) | with_reducible apply record | with_reducible apply countCycle
    | with_reducible apply raise | with_reducible apply setStack | with_reducible refine foldl ?_ (fun v a ha => ?_) | omega
    | (simp only [Bool.or_eq_true, Bool.and_eq_true, not_or, decide_eq_true_eq] at *; omega) | split
    | with_reducible refine graphs_set (by assumption) ?_

theorem stackStatus {z0 z1 : State} {code why : Nat} (hG : Cov G [⟨0x9000, 0x9000, 5, 5⟩]) (h : Own P G z0 z1) : Own P G z0 (Machine.stackStatus
    code why z1) := by
  refine h.step ?_
  clear h
  unfold Machine.stackStatus
  try dsimp only
  repeat' first
    | (exact hG.sub rfl) | (exact hG.item rfl)
    | with_reducible exact same _ | with_reducible assumption | with_reducible refine branch (fun hc => ?_) (fun hc => ?_)
    | with_reducible apply setNum | with_reducible apply raise

theorem doFlush {z0 z1 : State} {k : Nat} {all : Bool} (hp_stacks : Part.stacks ∈ P) (hp_sharing : Part.sharing ∈ P) (hG : Cov G [⟨0x9000, 0x9000,
    5, 5⟩, ⟨0x9010, 0x901F, 3, 3⟩, ⟨0xA000, 0xA000, 1, 1⟩]) (h : Own P G z0 z1) : Own P G z0 (Machine.doFlush k all z1) := by
  refine h.step ?_
  clear h
  unfold Machine.doFlush
  try dsimp only
  repeat' first
    | (exact hG.sub rfl) | (exact hG.item rfl)
    | with_reducible exact same _ | with_reducible assumption | with_reducible refine branch (fun hc => ?_) (fun hc => ?_)
    | with_reducible apply stackStatus | with_reducible apply queueWrite | with_reducible refine forMask ?_ (fun i v hi => ?_) | omega

theorem doRescan {z0 z1 : State} {k : Nat} {all : Bool} (hp_stacks : Part.stacks ∈ P) (hp_sharing : Part.sharing ∈ P) (hG : Cov G [⟨0x9000, 0x9000,
    5, 5⟩, ⟨0x9010, 0x901F, 3, 3⟩, ⟨0xA000, 0xA000, 1, 1⟩]) (h : Own P G z0 z1) : Own P G z0 (Machine.doRescan k all z1) := by
  refine h.step ?_
  clear h
  unfold Machine.doRescan
  try dsimp only
  repeat' first
    | (exact hG.sub rfl) | (exact hG.item rfl)
    | with_reducible exact same _ | with_reducible assumption | with_reducible refine branch (fun hc => ?_) (fun hc => ?_)
    | with_reducible apply stackStatus | with_reducible apply queueRead | with_reducible refine forMask ?_ (fun i v hi => ?_)

theorem doInit {z0 z1 : State} {k : Nat} (hp_stacks : Part.stacks ∈ P) (hp_sharing : Part.sharing ∈ P) (hG : Cov G [⟨0x9000, 0x9000, 5, 5⟩, ⟨0x9010,
    0x901F, 3, 3⟩, ⟨0xA000, 0xA000, 1, 1⟩]) (h : Own P G z0 z1) : Own P G z0 (Machine.doInit k z1) := by
  refine h.step ?_
  clear h
  unfold Machine.doInit
  try dsimp only
  repeat' first
    | (exact hG.sub rfl) | (exact hG.item rfl)
    | with_reducible exact same _ | with_reducible assumption | with_reducible refine branch (fun hc => ?_) (fun hc => ?_)
    | with_reducible apply stackStatus | with_reducible apply linkKick | split | with_reducible refine sharing_set (by assumption) ?_

theorem doBringIn {z0 z1 : State} {k : Nat} {r : Nat} (hp_stacks : Part.stacks ∈ P) (hG : Cov G [⟨0x9000, 0x9000, 5, 5⟩, ⟨0x9010, 0x901F, 3, 3⟩])
    (hb_k : k < 16) (h : Own P G z0 z1) : Own P G z0 (Machine.doBringIn k r z1) := by
  refine h.step ?_
  clear h
  unfold Machine.doBringIn
  try dsimp only
  repeat' first
    | (exact hG.sub rfl) | (exact hG.item rfl) | with_reducible exact same _ | with_reducible assumption
    | with_reducible refine branch (fun hc => ?_) (fun hc => ?_) | with_reducible apply armSpare | with_reducible apply noSpare
    | with_reducible apply raise | with_reducible apply stackStatus | omega | split

theorem doCancelBring {z0 z1 : State} {k : Nat} (hp_stacks : Part.stacks ∈ P) (hG : Cov G [⟨0x9000, 0x9000, 5, 5⟩, ⟨0x9010, 0x901F, 3, 3⟩]) (hb_k :
    k < 16) (h : Own P G z0 z1) : Own P G z0 (Machine.doCancelBring k z1) := by
  refine h.step ?_
  clear h
  unfold Machine.doCancelBring
  try dsimp only
  repeat' first
    | (exact hG.sub rfl) | (exact hG.item rfl)
    | with_reducible exact same _ | with_reducible assumption | with_reducible refine branch (fun hc => ?_) (fun hc => ?_)
    | with_reducible apply stackStatus | with_reducible apply dropBring

theorem stackCommandWrite {z0 z1 : State} {w : Nat} (hp_stacks : Part.stacks ∈ P) (hp_sharing : Part.sharing ∈ P) (hG : Cov G [⟨0x9000, 0x9000, 5,
    5⟩, ⟨0x9010, 0x901F, 3, 3⟩, ⟨0xA000, 0xA000, 1, 1⟩]) (h : Own P G z0 z1) : Own P G z0 (Machine.stackCommandWrite w z1) := by
  refine h.step ?_
  clear h
  have hk : bits w 11 8 < 16 := bits_lt _ _ _ _ (by decide)
  unfold Machine.stackCommandWrite
  dsimp only
  split
  · apply doFlush <;> first | assumption | exact hG.sub rfl | exact same _
  · apply doRescan <;> first | assumption | exact hG.sub rfl | exact same _
  · apply doInit <;> first | assumption | exact hG.sub rfl | exact same _
  · apply doBringIn <;> first | assumption | exact hG.sub rfl | exact same _
  · apply doCancelBring <;> first | assumption | exact hG.sub rfl | exact same _
  · apply stackStatus <;> first | assumption | exact hG.sub rfl | exact same _

theorem dropRedirects {z0 z1 : State} {k : Nat} (hp_plate : Part.plate ∈ P) (hp_pairs : Part.pairs ∈ P) (h : Own P G z0 z1) : Own P G z0
    (Machine.dropRedirects k z1) := by
  refine h.step ?_
  clear h
  unfold Machine.dropRedirects
  try dsimp only
  repeat' first
    | with_reducible exact same _ | with_reducible assumption | with_reducible refine branch (fun hc => ?_) (fun hc => ?_)
    | with_reducible apply plateRelease | with_reducible refine foldl ?_ (fun v a ha => ?_) | split
    | with_reducible refine plate_set (by assumption) (by exact Eq.refl _) ?_

theorem c5Done {z0 z1 : State} (hp_stacks : Part.stacks ∈ P) (hp_sharing : Part.sharing ∈ P) (hG : Cov G [⟨0x9010, 0x901F, 3, 3⟩, ⟨0xA000, 0xA000,
    1, 1⟩]) (h : Own P G z0 z1) : Own P G z0 (Machine.c5Done z1) := by
  refine h.step ?_
  clear h
  unfold Machine.c5Done
  try dsimp only
  repeat' first
    | (exact hG.sub rfl) | (exact hG.item rfl) | with_reducible exact same _ | with_reducible assumption | with_reducible apply linkKick | omega
    | with_reducible refine sharing_set (by assumption) ?_

theorem nextTransaction {z0 z1 : State} (hp_sharing : Part.sharing ∈ P) (hG : Cov G [⟨0xA000, 0xA000, 1, 1⟩]) (h : Own P G z0 z1) : Own P G z0
    (Machine.nextTransaction z1) := by
  refine h.step ?_
  clear h
  unfold Machine.nextTransaction
  try dsimp only
  repeat' first
    | (exact hG.sub rfl) | (exact hG.item rfl) | with_reducible exact same _ | with_reducible assumption | with_reducible apply admitC5 | omega
    | with_reducible refine sharing_set (by assumption) ?_

theorem transactionOk {z0 z1 : State} {k : Nat} (hp_stacks : Part.stacks ∈ P) (hp_sharing : Part.sharing ∈ P) (hG : Cov G [⟨0x9010, 0x901F, 3, 3⟩,
    ⟨0xA000, 0xA000, 1, 1⟩]) (hb_k : k < 16) (h : Own P G z0 z1) : Own P G z0 (Machine.transactionOk k z1) := by
  refine h.step ?_
  clear h
  unfold Machine.transactionOk
  try dsimp only
  repeat' first
    | (exact hG.sub rfl) | (exact hG.item rfl) | with_reducible exact same _ | with_reducible assumption
    | with_reducible refine branch (fun hc => ?_) (fun hc => ?_) | with_reducible apply c5Done | with_reducible apply linkDone
    | with_reducible apply nextTransaction | with_reducible apply setStack | with_reducible apply writeFail | omega | split

theorem transactionFails {z0 z1 : State} {k : Nat} (hp_stacks : Part.stacks ∈ P) (hp_sharing : Part.sharing ∈ P) (hG : Cov G [⟨0x9010, 0x901F, 3,
    3⟩, ⟨0xA000, 0xA000, 1, 1⟩]) (hb_k : k < 16) (h : Own P G z0 z1) : Own P G z0 (Machine.transactionFails k z1) := by
  refine h.step ?_
  clear h
  unfold Machine.transactionFails
  try dsimp only
  repeat' first
    | (exact hG.sub rfl) | (exact hG.item rfl) | with_reducible exact same _ | with_reducible assumption
    | with_reducible refine branch (fun hc => ?_) (fun hc => ?_) | with_reducible apply c5Done | with_reducible apply linkDone
    | with_reducible apply raise | with_reducible apply setBitO | with_reducible apply setStack
    | (refine hG.hit 0x9010 0x901F 3 3 rfl ?_ ?_ ?_ ?_ ?_ <;> (first | omega | ((try simp only [quantIx, ctrIx, planIx, bankIndex, resIx, pllSide, instRecord, recordIndex]); omega) | (simp only [Bool.and_eq_true, decide_eq_true_eq] at *; omega)))
    | omega | split | (refine hG.hit 0x9010 0x901F 3 3 rfl ?_ ?_ ?_ ?_ ?_ <;> omega) | with_reducible refine sharing_set (by assumption) ?_

theorem recordInvalid {z0 z1 : State} {k : Nat} {way : Nat} (hp_stacks : Part.stacks ∈ P) (hG : Cov G [⟨0x9010, 0x901F, 3, 3⟩]) (hb_k : k < 16) (h :
    Own P G z0 z1) : Own P G z0 (Machine.recordInvalid k way z1) := by
  refine h.step ?_
  clear h
  unfold Machine.recordInvalid
  try dsimp only
  repeat' first
    | (exact hG.sub rfl) | (exact hG.item rfl) | with_reducible exact same _ | with_reducible assumption | with_reducible apply dropBring
    | with_reducible apply raise | with_reducible apply setBitO
    | (refine hG.hit 0x9010 0x901F 3 3 rfl ?_ ?_ ?_ ?_ ?_ <;> (first | omega | ((try simp only [quantIx, ctrIx, planIx, bankIndex, resIx, pllSide, instRecord, recordIndex]); omega) | (simp only [Bool.and_eq_true, decide_eq_true_eq] at *; omega)))
    | omega | (refine hG.hit 0x9010 0x901F 3 3 rfl ?_ ?_ ?_ ?_ ?_ <;> omega)

theorem redirectActive {z0 z1 : State} {k : Nat} (hp_plate : Part.plate ∈ P) (hp_pairs : Part.pairs ∈ P) (h : Own P G z0 z1) : Own P G z0
    (Machine.redirectActive k z1) := by
  refine h.step ?_
  clear h
  unfold Machine.redirectActive
  try dsimp only
  repeat' first
    | with_reducible exact same _ | with_reducible assumption | with_reducible refine branch (fun hc => ?_) (fun hc => ?_)
    | with_reducible apply redirect | with_reducible refine forN ?_ (fun i v hi => ?_)

theorem loadAccount {z0 z1 : State} {k : Nat} {b : List Nat} (hp_plate : Part.plate ∈ P) (hp_pairs : Part.pairs ∈ P) (hp_stacks : Part.stacks ∈ P)
    (hG : Cov G [⟨0x9010, 0x901F, 3, 3⟩, ⟨0x9010, 0x901F, 4, 4⟩, ⟨0x9010, 0x901F, 6, 6⟩, ⟨0x9010, 0x901F, 7, 7⟩, ⟨0x9010, 0x901F, 8, 8⟩]) (hb_k : k
    < 16) (h : Own P G z0 z1) : Own P G z0 (Machine.loadAccount k b z1) := by
  refine h.step ?_
  clear h
  unfold Machine.loadAccount
  try dsimp only
  repeat' first
    | (exact hG.sub rfl) | (exact hG.item rfl) | with_reducible exact same _ | with_reducible assumption | with_reducible apply dropBring
    | with_reducible apply dropRedirects | with_reducible apply setBlob | with_reducible apply setNum | with_reducible apply setStack | omega
    | (refine hG.hit 0x9010 0x901F 4 4 rfl ?_ ?_ ?_ ?_ ?_ <;> omega) | (refine hG.hit 0x9010 0x901F 6 6 rfl ?_ ?_ ?_ ?_ ?_ <;> omega)
    | (refine hG.hit 0x9010 0x901F 7 7 rfl ?_ ?_ ?_ ?_ ?_ <;> omega) | (refine hG.hit 0x9010 0x901F 8 8 rfl ?_ ?_ ?_ ?_ ?_ <;> omega)

theorem takeRecord {z0 z1 : State} {k : Nat} {ident : List Nat} {a : List Nat} {b : List Nat} (hp_plate : Part.plate ∈ P) (hp_pairs : Part.pairs ∈
    P) (hp_stacks : Part.stacks ∈ P) (hG : Cov G [⟨0x9010, 0x901F, 2, 2⟩, ⟨0x9010, 0x901F, 3, 3⟩, ⟨0x9010, 0x901F, 4, 4⟩, ⟨0x9010, 0x901F, 5, 5⟩,
    ⟨0x9010, 0x901F, 6, 6⟩, ⟨0x9010, 0x901F, 7, 7⟩, ⟨0x9010, 0x901F, 8, 8⟩]) (hb_k : k < 16) (h : Own P G z0 z1) : Own P G z0 (Machine.takeRecord k
    ident a b z1) := by
  refine h.step ?_
  clear h
  unfold Machine.takeRecord
  try dsimp only
  repeat' first
    | (exact hG.sub rfl) | (exact hG.item rfl) | with_reducible exact same _ | with_reducible assumption
    | with_reducible refine branch (fun hc => ?_) (fun hc => ?_) | with_reducible apply loadAccount | with_reducible apply raise
    | with_reducible apply recordInvalid | with_reducible apply redirectActive | with_reducible apply setBitO | with_reducible apply setBlob
    | with_reducible apply setNum | with_reducible apply setStack | omega | split
    | (refine hG.hit 0x9010 0x901F 2 2 rfl ?_ ?_ ?_ ?_ ?_ <;> omega) | (refine hG.hit 0x9010 0x901F 3 3 rfl ?_ ?_ ?_ ?_ ?_ <;> omega)
    | (refine hG.hit 0x9010 0x901F 5 5 rfl ?_ ?_ ?_ ?_ ?_ <;> omega)

theorem lifeWritten {z0 z1 : State} {k : Nat} (hp_plate : Part.plate ∈ P) (hp_pairs : Part.pairs ∈ P) (hp_stacks : Part.stacks ∈ P) (hp_sharing :
    Part.sharing ∈ P) (hp_out : Part.out ∈ P) (hG : Cov G [⟨0x9010, 0x901F, 3, 3⟩, ⟨0x9010, 0x901F, 5, 5⟩, ⟨0x9010, 0x901F, 6, 6⟩, ⟨0x9010, 0x901F,
    7, 7⟩, ⟨0x9010, 0x901F, 8, 8⟩, ⟨0x9010, 0x901F, 9, 9⟩, ⟨0xA000, 0xA000, 1, 1⟩]) (hb_k : k < 16) (h : Own P G z0 z1) : Own P G z0
    (Machine.lifeWritten k z1) := by
  refine h.step ?_
  clear h
  unfold Machine.lifeWritten
  try dsimp only
  repeat' first
    | (exact hG.sub rfl) | (exact hG.item rfl) | with_reducible exact same _ | with_reducible assumption
    | with_reducible refine branch (fun hc => ?_) (fun hc => ?_) | with_reducible apply dropRedirects | with_reducible apply emit
    | with_reducible apply initAccount | with_reducible apply linkDone | with_reducible apply raise | with_reducible apply setBitO
    | with_reducible apply setNum | with_reducible apply setStack | with_reducible apply writeFail | omega | split
    | (refine hG.hit 0x9010 0x901F 3 3 rfl ?_ ?_ ?_ ?_ ?_ <;> omega) | (refine hG.hit 0x9010 0x901F 5 5 rfl ?_ ?_ ?_ ?_ ?_ <;> omega)
    | (refine hG.hit 0x9010 0x901F 9 9 rfl ?_ ?_ ?_ ?_ ?_ <;> omega)

theorem applySwap {z0 z1 : State} {x : Side} {c : Nat} (hp_meas : Part.meas ∈ P) (h : Own P G z0 z1) : Own P G z0 (Machine.applySwap x c z1) := by
  refine h.step ?_
  clear h
  unfold Machine.applySwap
  try dsimp only
  repeat' first
    | with_reducible exact same _ | with_reducible refine branch (fun hc => ?_) (fun hc => ?_) | split
    | with_reducible refine meas_set (by assumption) ?_

theorem applyTriple {z0 z1 : State} {x : Side} {d : Nat} {q : Triple} {r : Nat} (hp_meas : Part.meas ∈ P) (hG : Cov G [⟨0x2500, 0x2503, 6, 6⟩,
    ⟨0x2500, 0x2503, 8, 8⟩, ⟨0x2500, 0x2503, 9, 9⟩]) (hb_d : d < 4) (h : Own P G z0 z1) : Own P G z0 (Machine.applyTriple x d q r z1) := by
  refine h.step ?_
  clear h
  have := sideIx_lt x
  unfold Machine.applyTriple
  try dsimp only
  repeat' first
    | (exact hG.sub rfl) | (exact hG.item rfl) | with_reducible exact same _ | with_reducible assumption
    | with_reducible refine branch (fun hc => ?_) (fun hc => ?_) | with_reducible apply changeSource | with_reducible apply raise
    | with_reducible apply setArc | with_reducible apply setBitO | with_reducible apply takeLine
    | (refine hG.hit 0x2500 0x2503 6 6 rfl ?_ ?_ ?_ ?_ ?_ <;> (first | omega | ((try simp only [quantIx, ctrIx, planIx, bankIndex, resIx, pllSide, instRecord, recordIndex]); omega) | (simp only [Bool.and_eq_true, decide_eq_true_eq] at *; omega)))
    | omega | split | (refine hG.hit 0x2500 0x2503 6 6 rfl ?_ ?_ ?_ ?_ ?_ <;> omega)

theorem saturated {z0 z1 : State} {x : Side} {c : Nat} (hG : Cov G [⟨0x2100, 0x213F, 11, 11⟩]) (hb_c : c < 64) (h : Own P G z0 z1) : Own P G z0
    (Machine.saturated x c z1) := by
  refine h.step ?_
  clear h
  have := sideIx_lt x
  unfold Machine.saturated
  try dsimp only
  repeat' first
    | (exact hG.sub rfl) | (exact hG.item rfl)
    | with_reducible exact same _ | with_reducible refine branch (fun hc => ?_) (fun hc => ?_) | with_reducible apply raise
    | with_reducible apply setBitO | (refine hG.hit 0x2100 0x213F 11 11 rfl ?_ ?_ ?_ ?_ ?_ <;> omega)

theorem endModel {z0 z1 : State} {x : Side} {c : Nat} (hp_meas : Part.meas ∈ P) (h : Own P G z0 z1) : Own P G z0 (Machine.endModel x c z1) := by
  refine h.step ?_
  clear h
  unfold Machine.endModel
  try dsimp only
  repeat' first
    | with_reducible exact same _ | with_reducible assumption | with_reducible refine branch (fun hc => ?_) (fun hc => ?_)
    | with_reducible apply setFeedback

theorem deliver {z0 z1 : State} {x : Side} {c : Nat} {x0 : Int} {sat : Bool} {idx : Nat} {cs : Bool} {part : Bool} (hp_meas : Part.meas ∈ P)
    (hp_pairs : Part.pairs ∈ P) (hG : Cov G [⟨0x2100, 0x213F, 11, 11⟩, ⟨0x2600, 0x263F, 7, 7⟩]) (hb_c : c < 64) (h : Own P G z0 z1) : Own P G z0
    (Machine.deliver x c x0 sat idx cs part z1) := by
  refine h.step ?_
  clear h
  have := sideIx_lt x
  unfold Machine.deliver
  try dsimp only
  repeat' first
    | (exact hG.sub rfl) | (exact hG.item rfl) | with_reducible exact same _ | with_reducible assumption
    | with_reducible refine branch (fun hc => ?_) (fun hc => ?_) | with_reducible apply endModel | with_reducible apply countEvent
    | with_reducible apply raise | with_reducible apply saturated | with_reducible apply setBitO | with_reducible apply setChain
    | with_reducible apply settle
    | (refine hG.hit 0x2600 0x263F 7 7 rfl ?_ ?_ ?_ ?_ ?_ <;> (first | omega | ((try simp only [quantIx, ctrIx, planIx, bankIndex, resIx, pllSide, instRecord, recordIndex]); omega) | (simp only [Bool.and_eq_true, decide_eq_true_eq] at *; omega)))
    | omega | (refine hG.hit 0x2600 0x263F 7 7 rfl ?_ ?_ ?_ ?_ ?_ <;> omega) | split

theorem arcIndex {z0 z1 : State} {x : Side} {c : Nat} {line : Line} {l : List Int} (hp_meas : Part.meas ∈ P) (hp_pairs : Part.pairs ∈ P) (hG : Cov G
    [⟨0x2100, 0x213F, 11, 11⟩, ⟨0x2500, 0x2503, 7, 7⟩, ⟨0x2600, 0x263F, 7, 7⟩]) (hb_c : c < 64) (h : Own P G z0 z1) : Own P G z0 (Machine.arcIndex x
    c line l z1) := by
  refine h.step ?_
  clear h
  have := sideIx_lt x
  unfold Machine.arcIndex
  try dsimp only
  repeat' first
    | (exact hG.sub rfl) | (exact hG.item rfl) | with_reducible exact same _ | with_reducible assumption
    | with_reducible refine branch (fun hc => ?_) (fun hc => ?_) | with_reducible apply deliver | with_reducible apply incWrap
    | with_reducible apply saturated | with_reducible apply setChain
    | (refine hG.hit 0x2500 0x2503 7 7 rfl ?_ ?_ ?_ ?_ ?_ <;> (first | omega | ((try simp only [quantIx, ctrIx, planIx, bankIndex, resIx, pllSide, instRecord, recordIndex]); omega) | (simp only [Bool.and_eq_true, decide_eq_true_eq] at *; omega)))
    | omega | split | (refine hG.hit 0x2500 0x2503 7 7 rfl ?_ ?_ ?_ ?_ ?_ <;> (first | omega | ((have := chanDomain_lt z1 c; omega))))

theorem arcTake {z0 z1 : State} {x : Side} {c : Nat} {y : Int} (hp_meas : Part.meas ∈ P) (hp_pairs : Part.pairs ∈ P) (hG : Cov G [⟨0x2100, 0x213F,
    11, 11⟩, ⟨0x2500, 0x2503, 7, 7⟩, ⟨0x2600, 0x263F, 7, 7⟩]) (hb_c : c < 64) (h : Own P G z0 z1) : Own P G z0 (Machine.arcTake x c y z1) := by
  refine h.step ?_
  clear h
  have := sideIx_lt x
  unfold Machine.arcTake
  try dsimp only
  repeat' first
    | (exact hG.sub rfl) | (exact hG.item rfl) | with_reducible exact same _ | with_reducible assumption
    | with_reducible refine branch (fun hc => ?_) (fun hc => ?_) | with_reducible apply arcIndex | with_reducible apply deliver
    | with_reducible apply setChain | omega | split

theorem refreshDelay {z0 z1 : State} {c : Nat} (hG : Cov G [⟨0x2100, 0x213F, 12, 12⟩, ⟨0x2100, 0x213F, 16, 16⟩]) (hb_c : c < 64) (h : Own P G z0 z1)
    : Own P G z0 (Machine.refreshDelay c z1) := by
  refine h.step ?_
  clear h
  unfold Machine.refreshDelay
  try dsimp only
  repeat' first
    | (exact hG.sub rfl) | (exact hG.item rfl)
    | with_reducible exact same _ | with_reducible refine branch (fun hc => ?_) (fun hc => ?_) | with_reducible apply setNum
    | (refine hG.hit 0x2100 0x213F 12 12 rfl ?_ ?_ ?_ ?_ ?_ <;> omega) | (refine hG.hit 0x2100 0x213F 16 16 rfl ?_ ?_ ?_ ?_ ?_ <;> omega)

theorem finishSwap {z0 z1 : State} {g : Nat} (hp_meas : Part.meas ∈ P) (hG : Cov G [⟨0x2100, 0x213F, 4, 4⟩, ⟨0x2100, 0x213F, 12, 12⟩, ⟨0x2100,
    0x213F, 16, 16⟩, ⟨0x2200, 0x227F, 131, 131⟩, ⟨0x2300, 0x2300, 2, 2⟩]) (h : Own P G z0 z1) : Own P G z0 (Machine.finishSwap g z1) := by
  refine h.step ?_
  clear h
  unfold Machine.finishSwap
  try dsimp only
  repeat' first
    | (exact hG.sub rfl) | (exact hG.item rfl)
    | with_reducible exact same _ | with_reducible assumption | with_reducible apply setFld | with_reducible apply refreshDelay
    | with_reducible apply setNum | with_reducible apply raise | with_reducible apply setBitO
    | with_reducible refine foldl ?_ (fun v a ha => ?_)
    | (exact hG.item rfl) | (refine hG.hit 0x2200 0x227F 131 131 rfl ?_ ?_ ?_ ?_ ?_ <;> (first | omega | ((have := swapChannels_lt ‹a ∈ _›; have := fld_lt v (8448 + a) 4 0 0 2 (by decide); simp only [bankIndex]; omega))))
    | (exact hG.item rfl) | (refine hG.hit 0x2100 0x213F 4 4 rfl ?_ ?_ ?_ ?_ ?_ <;> (first | omega | ((have := swapChannels_lt ‹a ∈ _›; omega))))
    | with_reducible exact Nat.lt_of_lt_of_le (swapChannels_lt ‹_›) (by omega) | with_reducible refine meas_set (by assumption) ?_

theorem bankSwap {z0 z1 : State} {mask : Nat} (hp_meas : Part.meas ∈ P) (hG : Cov G [⟨0x2300, 0x2300, 2, 2⟩]) (h : Own P G z0 z1) : Own P G z0
    (Machine.bankSwap mask z1) := by
  refine h.step ?_
  clear h
  unfold Machine.bankSwap
  try dsimp only
  repeat' first
    | (exact hG.sub rfl) | (exact hG.item rfl) | with_reducible exact same _ | with_reducible assumption
    | with_reducible refine branch (fun hc => ?_) (fun hc => ?_) | with_reducible apply raise | with_reducible apply setBitO
    | with_reducible refine forMask ?_ (fun i v hi => ?_) | omega | split | with_reducible refine meas_set (by assumption) ?_

theorem holdValue {z0 z1 : State} {c : Nat} (hp_meas : Part.meas ∈ P) (h : Own P G z0 z1) : Own P G z0 (Machine.holdValue c z1) := by
  refine h.step ?_
  clear h
  unfold Machine.holdValue
  try dsimp only
  repeat' first
    | with_reducible exact same _ | with_reducible assumption | with_reducible apply setChain
    | with_reducible refine foldl ?_ (fun v a ha => ?_)

theorem reportFeedback {z0 z1 : State} {x : Side} {c : Nat} {kind : Nat} (hp_meas : Part.meas ∈ P) (hp_gf : Part.gf ∈ P) (hp_plate : Part.plate ∈
    P) (hG : Cov G [⟨0x2100, 0x213F, 11, 11⟩]) (hb_c : c < 64) (h : Own P G z0 z1) : Own P G z0 (Machine.reportFeedback x c kind z1) := by
  refine h.step ?_
  clear h
  have := sideIx_lt x
  have := sideIx_lt (otherSide x)
  unfold Machine.reportFeedback
  try dsimp only
  repeat' first
    | (exact hG.sub rfl) | (exact hG.item rfl) | with_reducible exact same _ | with_reducible assumption
    | with_reducible refine branch (fun hc => ?_) (fun hc => ?_) | with_reducible apply judgeFeedback | with_reducible apply declareFeedback
    | with_reducible apply holdValue | with_reducible apply setFeedback | omega | split

theorem settledChain {z0 z1 : State} {x : Side} {c : Nat} (hp_meas : Part.meas ∈ P) (h : Own P G z0 z1) : Own P G z0 (Machine.settledChain x c z1)
    := by
  refine h.step ?_
  clear h
  unfold Machine.settledChain
  try dsimp only
  repeat' first
    | with_reducible exact same _ | with_reducible assumption | with_reducible refine branch (fun hc => ?_) (fun hc => ?_)
    | with_reducible apply setChain | with_reducible apply setFeedback

theorem sweepSwaps {z0 z1 : State} {r : Nat} (hp_meas : Part.meas ∈ P) (hG : Cov G [⟨0x2100, 0x213F, 4, 4⟩, ⟨0x2100, 0x213F, 12, 12⟩, ⟨0x2100,
    0x213F, 16, 16⟩, ⟨0x2200, 0x227F, 131, 131⟩, ⟨0x2300, 0x2300, 2, 2⟩]) (h : Own P G z0 z1) : Own P G z0 (Machine.sweepSwaps r z1) := by
  refine h.step ?_
  clear h
  unfold Machine.sweepSwaps
  try dsimp only
  repeat' first
    | (exact hG.sub rfl) | (exact hG.item rfl) | with_reducible exact same _ | with_reducible assumption
    | with_reducible refine branch (fun hc => ?_) (fun hc => ?_) | with_reducible apply finishSwap
    | with_reducible refine foldl ?_ (fun v a ha => ?_) | with_reducible refine atRidge ?_ (fun v => ?_) | omega | split

theorem boundary {z0 z1 : State} {x : Side} {c : Nat} (hp_meas : Part.meas ∈ P) (hp_gf : Part.gf ∈ P) (hp_plate : Part.plate ∈ P) (hp_pairs :
    Part.pairs ∈ P) (hG : Cov G [⟨0x2100, 0x213F, 4, 4⟩, ⟨0x2100, 0x213F, 11, 11⟩, ⟨0x2100, 0x213F, 12, 12⟩, ⟨0x2100, 0x213F, 16, 16⟩, ⟨0x2200,
    0x227F, 131, 131⟩, ⟨0x2300, 0x2300, 2, 2⟩, ⟨0x2500, 0x2503, 7, 7⟩, ⟨0x2600, 0x263F, 7, 7⟩]) (hb_c : c < 64) (h : Own P G z0 z1) : Own P G z0
    (Machine.boundary x c z1) := by
  refine h.step ?_
  clear h
  have := sideIx_lt x
  unfold Machine.boundary
  try dsimp only
  repeat' first
    | (exact hG.sub rfl) | (exact hG.item rfl) | with_reducible exact same _ | with_reducible assumption
    | with_reducible refine branch (fun hc => ?_) (fun hc => ?_) | with_reducible apply applySwap | with_reducible apply arcTake
    | with_reducible apply reportFeedback | with_reducible apply saturated | with_reducible apply setChain | with_reducible apply settledChain
    | with_reducible apply sweepSwaps | omega | split

theorem chainBit {z0 z1 : State} {x : Side} {c e : Nat} {bit : Bool} (hp_meas : Part.meas ∈ P) (hG : Cov G [⟨0x2100, 0x213F, 11, 11⟩]) (hb_c : c <
    64) (h : Own P G z0 z1) : Own P G z0 (Machine.chainBit x c e bit z1) := by
  refine h.step ?_
  clear h
  unfold Machine.chainBit
  try dsimp only
  repeat' first
    | (exact hG.sub rfl) | (exact hG.item rfl)
    | with_reducible exact same _ | with_reducible assumption | with_reducible refine branch (fun hc => ?_) (fun hc => ?_)
    | with_reducible apply setChain | with_reducible apply saturated

theorem startAlign {z0 z1 : State} {ta : Nat} {command : Bool} {explicit : Bool} (hp_meas : Part.meas ∈ P) (hG : Cov G [⟨0x2310, 0x2310, 3, 3⟩]) (h
    : Own P G z0 z1) : Own P G z0 (Machine.startAlign ta command explicit z1) := by
  refine h.step ?_
  clear h
  unfold Machine.startAlign
  try dsimp only
  repeat' first
    | (exact hG.sub rfl) | (exact hG.item rfl) | with_reducible exact same _ | with_reducible assumption | with_reducible apply setBitO | omega
    | with_reducible refine meas_set (by assumption) ?_

theorem syncWrite {z0 z1 : State} {at96 : Nat} (hp_meas : Part.meas ∈ P) (hG : Cov G [⟨0x2310, 0x2310, 3, 3⟩]) (h : Own P G z0 z1) : Own P G z0
    (Machine.syncWrite at96 z1) := by
  refine h.step ?_
  clear h
  unfold Machine.syncWrite
  try dsimp only
  repeat' first
    | (exact hG.sub rfl) | (exact hG.item rfl)
    | with_reducible exact same _ | with_reducible assumption | with_reducible refine branch (fun hc => ?_) (fun hc => ?_)
    | with_reducible apply raise | with_reducible apply startAlign

theorem restartChain {z0 z1 : State} {c : Nat} (hp_meas : Part.meas ∈ P) (h : Own P G z0 z1) : Own P G z0 (Machine.restartChain c z1) := by
  refine h.step ?_
  clear h
  unfold Machine.restartChain
  try dsimp only
  repeat' first
    | with_reducible exact same _ | with_reducible assumption | with_reducible refine branch (fun hc => ?_) (fun hc => ?_)
    | with_reducible apply setChain | with_reducible refine foldl ?_ (fun v a ha => ?_) | omega | split

theorem restartOnGrid {z0 z1 : State} {c : Nat} (hp_meas : Part.meas ∈ P) (h : Own P G z0 z1) : Own P G z0 (Machine.restartOnGrid c z1) := by
  refine h.step ?_
  clear h
  unfold Machine.restartOnGrid
  try dsimp only
  repeat' first
    | with_reducible exact same _ | with_reducible assumption | with_reducible refine branch (fun hc => ?_) (fun hc => ?_)
    | with_reducible apply restartChain | with_reducible apply setGroup

theorem emptyHistories {z0 z1 : State} {g : Nat} (hp_meas : Part.meas ∈ P) (h : Own P G z0 z1) : Own P G z0 (Machine.emptyHistories g z1) := by
  refine h.step ?_
  clear h
  unfold Machine.emptyHistories
  try dsimp only
  repeat' first
    | with_reducible exact same _ | with_reducible refine meas_set (by assumption) ?_

theorem finishAlign {z0 z1 : State} {a : Align} (hp_meas : Part.meas ∈ P) (hG : Cov G [⟨0x2310, 0x2310, 3, 3⟩, ⟨0x2310, 0x2310, 4, 4⟩]) (h : Own P G
    z0 z1) : Own P G z0 (Machine.finishAlign a z1) := by
  refine h.step ?_
  clear h
  unfold Machine.finishAlign
  try dsimp only
  repeat' first
    | (exact hG.sub rfl) | (exact hG.item rfl) | with_reducible exact same _ | with_reducible assumption
    | with_reducible refine branch (fun hc => ?_) (fun hc => ?_) | with_reducible apply raise | with_reducible apply setFld
    | with_reducible apply setNum | omega | split | with_reducible refine meas_set (by assumption) ?_

theorem newGrid {z0 z1 : State} {g : Nat} {aligned : Bool} (hp_meas : Part.meas ∈ P) (h : Own P G z0 z1) : Own P G z0 (Machine.newGrid g aligned z1)
    := by
  refine h.step ?_
  clear h
  unfold Machine.newGrid
  try dsimp only
  repeat' first
    | with_reducible exact same _ | with_reducible assumption | with_reducible apply restartChain | with_reducible apply setGroup
    | with_reducible refine foldl ?_ (fun v a ha => ?_)

theorem takeBit {z0 z1 : State} {r b : Nat} {bit : Bool} (hp_meas : Part.meas ∈ P) (h : Own P G z0 z1) : Own P G z0 (Machine.takeBit r b bit z1) := by
  refine h.step ?_
  clear h
  unfold Machine.takeBit
  try dsimp only
  repeat' first
    | with_reducible exact same _ | with_reducible refine meas_set (by assumption) ?_

theorem sideEdge {z0 z1 : State} {x : Side} {g e bitsX : Nat} (hp_meas : Part.meas ∈ P) (hG : Cov G [⟨0x2100, 0x213F, 11, 11⟩]) (hb_g : g < 8) (h :
    Own P G z0 z1) : Own P G z0 (Machine.sideEdge x g e bitsX z1) := by
  refine h.step ?_
  clear h
  have := sideIx_lt x
  unfold Machine.sideEdge
  try dsimp only
  repeat' first
    | (exact hG.sub rfl) | (exact hG.item rfl)
    | with_reducible exact same _ | with_reducible assumption | with_reducible refine branch (fun hc => ?_) (fun hc => ?_)
    | with_reducible apply takeBit | with_reducible apply chainBit | with_reducible refine foldl ?_ (fun v a ha => ?_)
    | with_reducible refine forN ?_ (fun i v hi => ?_) | (have := groupChannels_lt (by assumption) ‹a ∈ _›; omega)

theorem stepComp {z0 z1 : State} {c k : Nat} {v : Int} (hp_meas : Part.meas ∈ P) (h : Own P G z0 z1) : Own P G z0 (Machine.stepComp c k v z1) := by
  refine h.step ?_
  clear h
  unfold Machine.stepComp
  try dsimp only
  repeat' first
    | with_reducible exact same _ | with_reducible assumption | with_reducible refine branch (fun hc => ?_) (fun hc => ?_)
    | with_reducible apply setComp

theorem blockReset {z0 z1 : State} {bit : Nat} (hp_safety : Part.safety ∈ P) (hG : Cov G [⟨0x6800, 0x6800, 2, 2⟩]) (h : Own P G z0 z1) : Own P G z0
    (Machine.blockReset bit z1) := by
  refine h.step ?_
  clear h
  unfold Machine.blockReset
  try dsimp only
  repeat' first
    | (exact hG.sub rfl) | (exact hG.item rfl) | with_reducible exact same _ | with_reducible assumption | with_reducible apply setBitO | omega
    | with_reducible refine safety_set (by assumption) ?_

theorem putReading {z0 z1 : State} {n : Nat} {reading : Nat} (hp_safety : Part.safety ∈ P) (hG : Cov G [⟨0x6800, 0x6800, 1, 1⟩]) (h : Own P G z0 z1)
    : Own P G z0 (Machine.putReading n reading z1) := by
  refine h.step ?_
  clear h
  unfold Machine.putReading
  try dsimp only
  repeat' first
    | (exact hG.sub rfl) | (exact hG.item rfl) | with_reducible exact same _ | with_reducible assumption
    | with_reducible refine branch (fun hc => ?_) (fun hc => ?_) | with_reducible apply setBitO | omega | split
    | with_reducible refine safety_set (by assumption) ?_

theorem sealDemand {z0 z1 : State} {n : Nat} {way : Nat} (hp_gf : Part.gf ∈ P) (hp_safety : Part.safety ∈ P) (hG : Cov G [⟨0x6800, 0x6800, 2, 2⟩])
    (h : Own P G z0 z1) : Own P G z0 (Machine.sealDemand n way z1) := by
  refine h.step ?_
  clear h
  unfold Machine.sealDemand
  try dsimp only
  repeat' first
    | (exact hG.sub rfl) | (exact hG.item rfl) | with_reducible exact same _ | with_reducible assumption | with_reducible apply clearPermit
    | with_reducible apply noteCause | with_reducible apply raise | with_reducible apply setBitO | with_reducible apply setEnables | omega

theorem recogniseDemand {z0 z1 : State} (hp_gf : Part.gf ∈ P) (hp_safety : Part.safety ∈ P) (hG : Cov G [⟨0x6800, 0x6800, 2, 2⟩, ⟨0x6800, 0x6800, 7,
    7⟩, ⟨0x6800, 0x6800, 11, 11⟩]) (h : Own P G z0 z1) : Own P G z0 (Machine.recogniseDemand z1) := by
  refine h.step ?_
  clear h
  unfold Machine.recogniseDemand
  try dsimp only
  repeat' first
    | (exact hG.sub rfl) | (exact hG.item rfl) | with_reducible exact same _ | with_reducible assumption | with_reducible apply clearPermit
    | with_reducible apply incSat | with_reducible apply noteCause | with_reducible apply raise | with_reducible apply setBitO
    | with_reducible apply setEnables | with_reducible apply setNum | omega

theorem withdraw {z0 z1 : State} {m : Nat} (hp_safety : Part.safety ∈ P) (hG : Cov G [⟨0x6800, 0x6800, 2, 2⟩]) (h : Own P G z0 z1) : Own P G z0
    (Machine.withdraw m z1) := by
  refine h.step ?_
  clear h
  unfold Machine.withdraw
  try dsimp only
  repeat' first
    | (exact hG.sub rfl) | (exact hG.item rfl) | with_reducible exact same _ | with_reducible assumption
    | with_reducible refine branch (fun hc => ?_) (fun hc => ?_) | with_reducible apply discardTests | with_reducible apply setPermits
    | with_reducible refine safety_set (by assumption) ?_

theorem evalPairs {z0 z1 : State} {before : Nat} (hp_gf : Part.gf ∈ P) (hp_safety : Part.safety ∈ P) (hG : Cov G [⟨0x6800, 0x6800, 2, 2⟩, ⟨0x6800,
    0x6800, 7, 7⟩, ⟨0x6800, 0x6800, 11, 11⟩]) (h : Own P G z0 z1) : Own P G z0 (Machine.evalPairs before z1) := by
  refine h.step ?_
  clear h
  unfold Machine.evalPairs
  try dsimp only
  repeat' first
    | (exact hG.sub rfl) | (exact hG.item rfl) | with_reducible exact same _ | with_reducible assumption
    | with_reducible refine branch (fun hc => ?_) (fun hc => ?_) | with_reducible apply withdraw | with_reducible apply recogniseDemand
    | with_reducible apply setBitO | with_reducible refine forN ?_ (fun i v hi => ?_) | omega | split

theorem sealStatus {z0 z1 : State} (hp_gf : Part.gf ∈ P) (hp_safety : Part.safety ∈ P) (hG : Cov G [⟨0x6800, 0x6800, 2, 2⟩, ⟨0x6800, 0x6800, 7, 7⟩,
    ⟨0x6800, 0x6800, 11, 11⟩]) (h : Own P G z0 z1) : Own P G z0 (Machine.sealStatus z1) := by
  refine h.step ?_
  clear h
  unfold Machine.sealStatus
  try dsimp only
  repeat' first
    | (exact hG.sub rfl) | (exact hG.item rfl) | with_reducible exact same _ | with_reducible assumption | with_reducible apply evalPairs
    | with_reducible apply setBitO | omega

theorem sealConfig {z0 z1 : State} {n reading : Nat} (hp_gf : Part.gf ∈ P) (hp_safety : Part.safety ∈ P) (hG : Cov G [⟨0x6800, 0x6800, 1, 1⟩,
    ⟨0x6800, 0x6800, 2, 2⟩, ⟨0x6800, 0x6800, 7, 7⟩, ⟨0x6800, 0x6800, 11, 11⟩]) (h : Own P G z0 z1) : Own P G z0 (Machine.sealConfig n reading z1) := by
  refine h.step ?_
  clear h
  unfold Machine.sealConfig
  try dsimp only
  repeat' first
    | (exact hG.sub rfl) | (exact hG.item rfl)
    | with_reducible exact same _ | with_reducible assumption | with_reducible refine branch (fun hc => ?_) (fun hc => ?_)
    | with_reducible apply putReading | with_reducible apply sealDemand | with_reducible apply raise | with_reducible apply setBitO
    | with_reducible apply sealStatus

theorem sealPermission {z0 z1 : State} {n reading : Nat} (hp_plate : Part.plate ∈ P) (hp_pairs : Part.pairs ∈ P) (hp_safety : Part.safety ∈ P) (hG
    : Cov G [⟨0x5300, 0x5300, 4, 4⟩, ⟨0x5320, 0x5320, 2, 2⟩, ⟨0x6800, 0x6800, 1, 1⟩]) (h : Own P G z0 z1) : Own P G z0 (Machine.sealPermission n reading z1) := by
  refine h.step ?_
  clear h
  unfold Machine.sealPermission
  try dsimp only
  repeat' first
    | (exact hG.sub rfl) | (exact hG.item rfl) | with_reducible exact same _ | with_reducible assumption
    | with_reducible refine branch (fun hc => ?_) (fun hc => ?_) | with_reducible apply putReading | with_reducible apply raise
    | with_reducible apply leaveCommission | with_reducible refine safety_set (by assumption) ?_

theorem setSin {z0 z1 : State} {chans ball : Nat} {demand : Bool} (hp_safety : Part.safety ∈ P) (h : Own P G z0 z1) : Own P G z0 (Machine.setSin chans ball
    demand z1) := by
  refine h.step ?_
  clear h
  unfold Machine.setSin
  try dsimp only
  repeat' first
    | with_reducible exact same _ | with_reducible assumption | with_reducible refine branch (fun hc => ?_) (fun hc => ?_) | omega
    | with_reducible refine safety_set (by assumption) ?_

theorem sinBall {z0 z1 : State} {chans ball : Nat} {high : Bool} (hp_gf : Part.gf ∈ P) (hp_safety : Part.safety ∈ P) (hG : Cov G [⟨0x6800, 0x6800, 2, 2⟩,
    ⟨0x6800, 0x6800, 3, 3⟩, ⟨0x6800, 0x6800, 7, 7⟩, ⟨0x6800, 0x6800, 11, 11⟩]) (h : Own P G z0 z1) : Own P G z0 (Machine.sinBall chans ball high z1) := by
  refine h.step ?_
  clear h
  unfold Machine.sinBall
  try dsimp only
  repeat' first
    | (exact hG.sub rfl) | (exact hG.item rfl) | with_reducible exact same _ | with_reducible assumption
    | with_reducible refine branch (fun hc => ?_) (fun hc => ?_) | with_reducible apply evalPairs | with_reducible apply setBitO
    | with_reducible apply setSin | omega | dsimp only | split | with_reducible refine safety_set (by assumption) ?_

theorem freeLow {z0 z1 : State} {m : Nat} (hp_safety : Part.safety ∈ P) (h : Own P G z0 z1) : Own P G z0 (Machine.freeLow m z1) := by
  refine h.step ?_
  clear h
  unfold Machine.freeLow
  try dsimp only
  repeat' first
    | with_reducible exact same _ | with_reducible assumption | omega | with_reducible refine safety_set (by assumption) ?_

theorem writeSout {z0 z1 : State} {value : Nat} (hp_safety : Part.safety ∈ P) (hG : Cov G [⟨0x6800, 0x6800, 4, 4⟩]) (h : Own P G z0 z1) : Own P G z0
    (Machine.writeSout value z1) := by
  refine h.step ?_
  clear h
  unfold Machine.writeSout
  try dsimp only
  repeat' first
    | (exact hG.sub rfl) | (exact hG.item rfl) | with_reducible exact same _ | with_reducible assumption | with_reducible apply discardTests
    | with_reducible apply freeLow | with_reducible apply setNum | omega

theorem soutFail {z0 z1 : State} {ball : Nat} {way : Nat} (hp_gf : Part.gf ∈ P) (hp_safety : Part.safety ∈ P) (hG : Cov G [⟨0x6800, 0x6800, 2, 2⟩])
    (h : Own P G z0 z1) : Own P G z0 (Machine.soutFail ball way z1) := by
  refine h.step ?_
  clear h
  unfold Machine.soutFail
  try dsimp only
  repeat' first
    | (exact hG.sub rfl) | (exact hG.item rfl) | with_reducible exact same _ | with_reducible assumption | with_reducible apply clearPermit
    | with_reducible apply noteCause | with_reducible apply raise | with_reducible apply setBitO | with_reducible apply setEnables | omega

theorem clkCommand {z0 z1 : State} {word : Nat} (hp_clock : Part.clock ∈ P) (hG : Cov G [⟨0x7060, 0x7060, 2, 2⟩]) (h : Own P G z0 z1) : Own P G z0
    (Machine.clkCommand word z1) := by
  refine h.step ?_
  clear h
  unfold Machine.clkCommand
  try dsimp only
  repeat' first
    | (exact hG.sub rfl) | (exact hG.item rfl)
    | with_reducible exact same _ | with_reducible assumption | with_reducible refine branch (fun hc => ?_) (fun hc => ?_)
    | with_reducible apply raise | with_reducible apply setBitO | with_reducible refine clock_set (by assumption) ?_

theorem clkOne {z0 z1 : State} {k : Nat} {start : Bool} (hp_clock : Part.clock ∈ P) (h : Own P G z0 z1) : Own P G z0 (Machine.clkOne k start z1) := by
  refine h.step ?_
  clear h
  unfold Machine.clkOne
  try dsimp only
  repeat' first
    | with_reducible exact same _ | with_reducible refine branch (fun hc => ?_) (fun hc => ?_)
    | with_reducible refine clock_set (by assumption) ?_

theorem clkDue {z0 z1 : State} (hp_clock : Part.clock ∈ P) (h : Own P G z0 z1) : Own P G z0 (Machine.clkDue z1) := by
  refine h.step ?_
  clear h
  unfold Machine.clkDue
  try dsimp only
  repeat' first
    | with_reducible exact same _ | with_reducible assumption | with_reducible apply clkOne | with_reducible refine foldl ?_ (fun v a ha => ?_)
    | with_reducible refine clock_set (by assumption) ?_

theorem closeGate {z0 z1 : State} {k : Nat} (hp_clock : Part.clock ∈ P) (hG : Cov G [⟨0x7200, 0x7207, 2, 2⟩]) (hb_k : k < 8) (h : Own P G z0 z1) :
    Own P G z0 (Machine.closeGate k z1) := by
  refine h.step ?_
  clear h
  unfold Machine.closeGate
  try dsimp only
  repeat' first
    | (exact hG.sub rfl) | (exact hG.item rfl)
    | with_reducible exact same _ | with_reducible assumption | with_reducible refine branch (fun hc => ?_) (fun hc => ?_)
    | with_reducible apply clkDue | with_reducible apply raise | with_reducible apply setBitO
    | (refine hG.hit 0x7200 0x7207 2 2 rfl ?_ ?_ ?_ ?_ ?_ <;> omega) | with_reducible refine clock_set (by assumption) ?_

theorem switchRef {z0 z1 : State} {alt : Bool} (hG : Cov G [⟨0x7040, 0x7040, 2, 2⟩]) (h : Own P G z0 z1) : Own P G z0 (Machine.switchRef alt z1) := by
  refine h.step ?_
  clear h
  unfold Machine.switchRef
  try dsimp only
  repeat' first
    | (exact hG.sub rfl) | (exact hG.item rfl)
    | with_reducible exact same _ | with_reducible assumption | with_reducible apply raise | with_reducible apply setBitO

theorem declareLock {z0 z1 : State} {p b : Nat} (hp_plls : Part.plls ∈ P) (hp_clock : Part.clock ∈ P) (hG : Cov G [⟨0x7100, 0x7104, 3, 3⟩,
    ⟨0x7100, 0x7104, 4, 4⟩, ⟨0x7100, 0x7104, 5, 5⟩]) (hb_p : p < 5) (h : Own P G z0 z1) : Own P G z0 (Machine.declareLock p b z1) := by
  refine h.step ?_
  clear h
  unfold Machine.declareLock
  try dsimp only
  repeat' first
    | (exact hG.sub rfl) | (exact hG.item rfl) | with_reducible exact same _ | with_reducible assumption
    | with_reducible refine branch (fun hc => ?_) (fun hc => ?_) | with_reducible apply setFld | with_reducible apply setNum
    | with_reducible apply setBitO | with_reducible apply setPll | with_reducible apply tryBand
    | (refine hG.hit 0x7100 0x7104 3 3 rfl ?_ ?_ ?_ ?_ ?_ <;> omega) | (refine hG.hit 0x7100 0x7104 4 4 rfl ?_ ?_ ?_ ?_ ?_ <;> omega)
    | (refine hG.hit 0x7100 0x7104 5 5 rfl ?_ ?_ ?_ ?_ ?_ <;> omega) | with_reducible refine clock_set (by assumption) ?_

theorem refBecomesFaulty {z0 z1 : State} {alt : Bool} (hp_meas : Part.meas ∈ P) (hp_gf : Part.gf ∈ P) (hp_plate : Part.plate ∈ P) (hp_pairs :
    Part.pairs ∈ P) (hp_stacks : Part.stacks ∈ P) (hp_safety : Part.safety ∈ P) (hp_sharing : Part.sharing ∈ P) (hG : Cov G [⟨0x2500, 0x2503, 6, 6⟩,
    ⟨0x2500, 0x2503, 8, 8⟩, ⟨0x2500, 0x2503, 9, 9⟩, ⟨0x4001, 0x4001, 3, 3⟩, ⟨0x4001, 0x4001, 4, 4⟩, ⟨0x5300, 0x5300, 4, 4⟩, ⟨0x5320, 0x5320, 2, 2⟩,
    ⟨0x6800, 0x6800, 2, 2⟩, ⟨0x7040, 0x7040, 2, 2⟩, ⟨0x7040, 0x7040, 3, 3⟩, ⟨0x9010, 0x901F, 3, 3⟩, ⟨0xA000, 0xA000, 1, 1⟩, ⟨0xB000, 0xB000, 1, 1⟩,
    ⟨0xB000, 0xB000, 4, 4⟩]) (h : Own P G z0 z1) : Own P G z0 (Machine.refBecomesFaulty alt z1) := by
  refine h.step ?_
  clear h
  unfold Machine.refBecomesFaulty
  try dsimp only
  repeat' first
    | (exact hG.sub rfl) | (exact hG.item rfl) | with_reducible exact same _ | with_reducible assumption
    | with_reducible refine branch (fun hc => ?_) (fun hc => ?_) | with_reducible apply raise | with_reducible apply ridgeFault
    | with_reducible apply setBitO | with_reducible apply setNum | with_reducible apply switchRef | omega | split

theorem startPll {z0 z1 : State} {p : Nat} (hp_plls : Part.plls ∈ P) (hG : Cov G [⟨0x7100, 0x7104, 3, 3⟩, ⟨0x7100, 0x7104, 6, 6⟩, ⟨0x7100, 0x7104,
    7, 7⟩]) (hb_p : p < 5) (h : Own P G z0 z1) : Own P G z0 (Machine.startPll p z1) := by
  refine h.step ?_
  clear h
  unfold Machine.startPll
  try dsimp only
  repeat' first
    | (exact hG.sub rfl) | (exact hG.item rfl) | with_reducible exact same _ | with_reducible assumption
    | with_reducible refine branch (fun hc => ?_) (fun hc => ?_) | with_reducible apply incSat | with_reducible apply setBitO
    | with_reducible apply setBlob | with_reducible apply setPll | with_reducible apply tryBand | omega | split
    | (refine hG.hit 0x7100 0x7104 3 3 rfl ?_ ?_ ?_ ?_ ?_ <;> omega) | (refine hG.hit 0x7100 0x7104 6 6 rfl ?_ ?_ ?_ ?_ ?_ <;> omega)
    | (refine hG.hit 0x7100 0x7104 7 7 rfl ?_ ?_ ?_ ?_ ?_ <;> omega)

theorem sweepFailed {z0 z1 : State} {p : Nat} (hp_meas : Part.meas ∈ P) (hp_graphs : Part.graphs ∈ P) (hp_gf : Part.gf ∈ P) (hp_plate : Part.plate ∈
    P) (hp_pairs : Part.pairs ∈ P) (hp_stacks : Part.stacks ∈ P) (hp_sides : Part.sides ∈ P) (hp_safety : Part.safety ∈ P) (hp_sharing :
    Part.sharing ∈ P) (hp_clock : Part.clock ∈ P) (hp_capture : Part.capture ∈ P) (hG : Cov G [⟨0x2100, 0x213F, 11, 11⟩, ⟨0x2500, 0x2503, 6, 6⟩,
    ⟨0x2500, 0x2503, 8, 8⟩, ⟨0x2500, 0x2503, 9, 9⟩, ⟨0x4001, 0x4001, 3, 3⟩, ⟨0x4001, 0x4001, 4, 4⟩, ⟨0x5200, 0x5247, 8, 8⟩, ⟨0x5300, 0x5300, 4, 4⟩,
    ⟨0x5320, 0x5320, 2, 2⟩, ⟨0x6000, 0x6000, 2, 2⟩, ⟨0x6021, 0x6021, 1, 1⟩, ⟨0x6021, 0x6021, 2, 2⟩, ⟨0x6021, 0x6021, 3, 3⟩, ⟨0x6021, 0x6021, 4, 4⟩,
    ⟨0x6800, 0x6800, 2, 2⟩, ⟨0x7000, 0x7000, 5, 5⟩, ⟨0x7000, 0x7000, 8, 8⟩, ⟨0x7050, 0x7050, 1, 1⟩, ⟨0x7100, 0x7104, 3, 3⟩, ⟨0x9010, 0x901F, 3, 3⟩,
    ⟨0xA000, 0xA000, 1, 1⟩, ⟨0xB000, 0xB000, 1, 1⟩, ⟨0xB000, 0xB000, 4, 4⟩]) (h : Own P G z0 z1) : Own P G z0 (Machine.sweepFailed p z1) := by
  refine h.step ?_
  clear h
  unfold Machine.sweepFailed
  try dsimp only
  repeat' first
    | (exact hG.sub rfl) | (exact hG.item rfl)
    | with_reducible exact same _ | with_reducible assumption | with_reducible refine branch (fun hc => ?_) (fun hc => ?_)
    | with_reducible apply raise | with_reducible apply ridgeFault | with_reducible apply haltDevice | with_reducible apply sideFault

theorem stopOutputs {z0 z1 : State} (hp_clock : Part.clock ∈ P) (hG : Cov G [⟨0x7200, 0x7207, 2, 2⟩]) (h : Own P G z0 z1) : Own P G z0
    (Machine.stopOutputs z1) := by
  refine h.step ?_
  clear h
  unfold Machine.stopOutputs
  try dsimp only
  repeat' first
    | (exact hG.sub rfl) | (exact hG.item rfl) | with_reducible exact same _ | with_reducible assumption
    | with_reducible refine branch (fun hc => ?_) (fun hc => ?_) | with_reducible apply raise | with_reducible apply setBitO
    | with_reducible refine forN ?_ (fun i v hi => ?_)
    | (refine hG.hit 0x7200 0x7207 2 2 rfl ?_ ?_ ?_ ?_ ?_ <;> (first | omega | ((try simp only [quantIx, ctrIx, planIx, bankIndex, resIx, pllSide, instRecord, recordIndex]); omega) | (simp only [Bool.and_eq_true, decide_eq_true_eq] at *; omega)))
    | omega | split | (refine hG.hit 0x7200 0x7207 2 2 rfl ?_ ?_ ?_ ?_ ?_ <;> omega) | with_reducible refine clock_set (by assumption) ?_

theorem openGate {z0 z1 : State} {k : Nat} (hp_clock : Part.clock ∈ P) (hG : Cov G [⟨0x7200, 0x7207, 2, 2⟩]) (hb_k : k < 8) (h : Own P G z0 z1) :
    Own P G z0 (Machine.openGate k z1) := by
  refine h.step ?_
  clear h
  unfold Machine.openGate
  try dsimp only
  repeat' first
    | (exact hG.sub rfl) | (exact hG.item rfl)
    | with_reducible exact same _ | with_reducible assumption | with_reducible refine branch (fun hc => ?_) (fun hc => ?_)
    | with_reducible apply clkDue | with_reducible apply raise | with_reducible apply setBitO
    | (refine hG.hit 0x7200 0x7207 2 2 rfl ?_ ?_ ?_ ?_ ?_ <;> omega) | with_reducible refine clock_set (by assumption) ?_

theorem setDeferred {z0 z1 : State} {x : Side} {b : Bool} (hp_clock : Part.clock ∈ P) (hG : Cov G [⟨0x7050, 0x7050, 1, 1⟩]) (h : Own P G z0 z1) :
    Own P G z0 (Machine.setDeferred x b z1) := by
  refine h.step ?_
  clear h
  unfold Machine.setDeferred
  try dsimp only
  repeat' first
    | (exact hG.sub rfl) | (exact hG.item rfl)
    | with_reducible exact same _ | with_reducible assumption | with_reducible apply setBitO
    | with_reducible refine clock_set (by assumption) ?_

theorem switchTruss {z0 z1 : State} {x : Side} (hp_clock : Part.clock ∈ P) (hG : Cov G [⟨0x7050, 0x7050, 1, 1⟩, ⟨0x7100, 0x7104, 3, 3⟩]) (h : Own P
    G z0 z1) : Own P G z0 (Machine.switchTruss x z1) := by
  refine h.step ?_
  clear h
  have := sideIx_lt x
  unfold Machine.switchTruss
  try dsimp only
  repeat' first
    | (exact hG.sub rfl) | (exact hG.item rfl) | with_reducible exact same _ | with_reducible assumption
    | with_reducible refine branch (fun hc => ?_) (fun hc => ?_) | with_reducible apply pllOff | with_reducible apply setBridged
    | with_reducible apply setDeferred | omega | split

theorem grantReq {z0 z1 : State} {r : Nat} {inst : Nat} {c : Nat} (hp_sharing : Part.sharing ∈ P) (hp_out : Part.out ∈ P) (h : Own P G z0 z1) : Own
    P G z0 (Machine.grantReq r inst c z1) := by
  refine h.step ?_
  clear h
  unfold Machine.grantReq
  try dsimp only
  repeat' first
    | with_reducible exact same _ | with_reducible assumption | with_reducible refine branch (fun hc => ?_) (fun hc => ?_)
    | with_reducible apply countReq | with_reducible apply emit | with_reducible apply setArbiter | omega | split

theorem semGrant {z0 z1 : State} {n : Nat} {i : Nat} (hp_sharing : Part.sharing ∈ P) (hp_out : Part.out ∈ P) (h : Own P G z0 z1) : Own P G z0
    (Machine.semGrant n i z1) := by
  refine h.step ?_
  clear h
  unfold Machine.semGrant
  try dsimp only
  repeat' first
    | with_reducible exact same _ | with_reducible assumption | with_reducible apply countReq | with_reducible apply emit
    | with_reducible apply setSem | omega | split

theorem dueSems {z0 z1 : State} (hp_sharing : Part.sharing ∈ P) (hp_out : Part.out ∈ P) (h : Own P G z0 z1) : Own P G z0 (Machine.dueSems z1) := by
  refine h.step ?_
  clear h
  unfold Machine.dueSems
  try dsimp only
  repeat' first
    | with_reducible exact same _ | with_reducible assumption | with_reducible refine branch (fun hc => ?_) (fun hc => ?_)
    | with_reducible apply setSem | with_reducible apply semGrant | with_reducible refine foldl ?_ (fun v a ha => ?_) | omega | split

theorem switchSlot {z0 z1 : State} (hp_boot : Part.boot ∈ P) (h : Own P G z0 z1) : Own P G z0 (Machine.switchSlot z1) := by
  refine h.step ?_
  clear h
  unfold Machine.switchSlot
  try dsimp only
  repeat' first
    | with_reducible exact same _ | with_reducible assumption | with_reducible refine branch (fun hc => ?_) (fun hc => ?_)
    | with_reducible apply raise | omega | split | with_reducible refine boot_set (by assumption) ?_

theorem noteCritical {z0 z1 : State} {n : Nat} (hp_boot : Part.boot ∈ P) (h : Own P G z0 z1) : Own P G z0 (Machine.noteCritical n z1) := by
  refine h.step ?_
  clear h
  unfold Machine.noteCritical
  try dsimp only
  repeat' first
    | with_reducible exact same _ | with_reducible assumption | omega | with_reducible refine boot_set (by assumption) ?_

theorem startSecond {z0 z1 : State} {n : Nat} (hp_boot : Part.boot ∈ P) (h : Own P G z0 z1) : Own P G z0 (Machine.startSecond n z1) := by
  refine h.step ?_
  clear h
  unfold Machine.startSecond
  try dsimp only
  repeat' first
    | with_reducible exact same _ | with_reducible assumption | omega | with_reducible refine boot_set (by assumption) ?_

theorem refSwitch {z0 z1 : State} {value : Nat} (hp_clock : Part.clock ∈ P) (hG : Cov G [⟨0x7040, 0x7040, 2, 2⟩]) (h : Own P G z0 z1) : Own P G z0
    (Machine.refSwitch value z1) := by
  refine h.step ?_
  clear h
  unfold Machine.refSwitch
  try dsimp only
  repeat' first
    | (exact hG.sub rfl) | (exact hG.item rfl) | with_reducible exact same _ | with_reducible assumption
    | with_reducible refine branch (fun hc => ?_) (fun hc => ?_) | with_reducible apply setBitO | omega | split
    | with_reducible refine clock_set (by assumption) ?_

theorem leaveOut {z0 z1 : State} {y : Side} (hp_meas : Part.meas ∈ P) (hp_graphs : Part.graphs ∈ P) (hp_gf : Part.gf ∈ P) (hp_plate : Part.plate ∈
    P) (hp_pairs : Part.pairs ∈ P) (hp_sides : Part.sides ∈ P) (hp_capture : Part.capture ∈ P) (hG : Cov G [⟨0x2100, 0x213F, 11, 11⟩, ⟨0x6021,
    0x6021, 1, 1⟩, ⟨0x7050, 0x7050, 1, 1⟩, ⟨0x7100, 0x7104, 3, 3⟩]) (h : Own P G z0 z1) : Own P G z0 (Machine.leaveOut y z1) := by
  refine h.step ?_
  clear h
  have := sideIx_lt y
  unfold Machine.leaveOut
  try dsimp only
  repeat' first
    | (exact hG.sub rfl) | (exact hG.item rfl) | with_reducible exact same _ | with_reducible assumption
    | with_reducible refine branch (fun hc => ?_) (fun hc => ?_) | with_reducible apply plateRelease | with_reducible apply sideOff
    | with_reducible refine forN ?_ (fun i v hi => ?_) | omega | split | with_reducible refine sides_set (by assumption) ?_

theorem onAligns {z0 z1 : State} {f : Align → Align} (hp_meas : Part.meas ∈ P) (hG : Cov G [⟨0x2310, 0x2310, 3, 3⟩, ⟨0x2310, 0x2310, 4, 4⟩]) (h :
    Own P G z0 z1) : Own P G z0 (Machine.onAligns f z1) := by
  refine h.step ?_
  clear h
  unfold Machine.onAligns
  try dsimp only
  repeat' first
    | (exact hG.sub rfl) | (exact hG.item rfl) | with_reducible exact same _ | with_reducible assumption | with_reducible apply finishAlign
    | with_reducible refine foldl ?_ (fun v a ha => ?_) | with_reducible refine meas_set (by assumption) ?_

theorem leaveAlign {z0 z1 : State} {g : Nat} (hp_meas : Part.meas ∈ P) (hG : Cov G [⟨0x2310, 0x2310, 3, 3⟩, ⟨0x2310, 0x2310, 4, 4⟩]) (h : Own P G
    z0 z1) : Own P G z0 (Machine.leaveAlign g z1) := by
  refine h.step ?_
  clear h
  unfold Machine.leaveAlign
  try dsimp only
  repeat' first
    | (exact hG.sub rfl) | (exact hG.item rfl) | with_reducible exact same _ | with_reducible assumption
    | with_reducible refine branch (fun hc => ?_) (fun hc => ?_) | with_reducible apply onAligns | with_reducible apply finishAlign | omega
    | split

theorem shiftGraph {z0 z1 : State} {d : Nat} {x : Side} (hp_graphs : Part.graphs ∈ P) (h : Own P G z0 z1) : Own P G z0 (Machine.shiftGraph d x z1)
    := by
  refine h.step ?_
  clear h
  have := sideIx_lt x
  unfold Machine.shiftGraph
  try dsimp only
  repeat' first
    | with_reducible exact same _ | with_reducible assumption | with_reducible apply setGraph | omega

theorem putLevels {z0 z1 : State} {n : Nat} {t : Bool} {c : Bool} (hp_safety : Part.safety ∈ P) (hG : Cov G [⟨0x6800, 0x6800, 1, 1⟩]) (h : Own P G
    z0 z1) : Own P G z0 (Machine.putLevels n t c z1) := by
  refine h.step ?_
  clear h
  unfold Machine.putLevels
  try dsimp only
  repeat' first
    | (exact hG.sub rfl) | (exact hG.item rfl) | with_reducible exact same _ | with_reducible assumption | with_reducible apply setBitO | omega
    | with_reducible refine safety_set (by assumption) ?_

theorem lineActive {z0 z1 : State} (hp_safety : Part.safety ∈ P) (h : Own P G z0 z1) : Own P G z0 (Machine.lineActive z1) := by
  refine h.step ?_
  clear h
  unfold Machine.lineActive
  try dsimp only
  repeat' first
    | with_reducible exact same _ | with_reducible assumption | omega | with_reducible refine safety_set (by assumption) ?_

theorem semFree {z0 z1 : State} {n : Nat} (hp_sharing : Part.sharing ∈ P) (hp_out : Part.out ∈ P) (h : Own P G z0 z1) : Own P G z0 (Machine.semFree
    n z1) := by
  refine h.step ?_
  clear h
  unfold Machine.semFree
  try dsimp only
  repeat' first
    | with_reducible exact same _ | with_reducible assumption | with_reducible refine branch (fun hc => ?_) (fun hc => ?_)
    | with_reducible apply semGrant | with_reducible apply setSem | omega | split

theorem present {z0 z1 : State} {r : Nat} {inst : Nat} {cls : Nat} {who : Nat} {addr : Nat} {write : Bool} (hp_sharing : Part.sharing ∈ P) (h : Own
    P G z0 z1) : Own P G z0 (Machine.present r inst cls who addr write z1) := by
  refine h.step ?_
  clear h
  unfold Machine.present
  try dsimp only
  repeat' first
    | with_reducible exact same _ | with_reducible assumption | with_reducible refine branch (fun hc => ?_) (fun hc => ?_)
    | with_reducible apply setArbiter | omega | split

theorem presentLink {z0 z1 : State} {cls who : Nat} (hp_sharing : Part.sharing ∈ P) (hG : Cov G [⟨0xA000, 0xA000, 1, 1⟩]) (h : Own P G z0 z1) : Own P G
    z0 (Machine.presentLink cls who z1) := by
  refine h.step ?_
  clear h
  unfold Machine.presentLink
  try dsimp only
  repeat' first
    | (exact hG.sub rfl) | (exact hG.item rfl) | with_reducible exact same _ | with_reducible assumption
    | with_reducible refine branch (fun hc => ?_) (fun hc => ?_) | with_reducible apply dueLink | omega | split
    | with_reducible refine sharing_set (by assumption) ?_

theorem driveStacks {z0 z1 : State} {d : Nat} (hp_stacks : Part.stacks ∈ P) (h : Own P G z0 z1) : Own P G z0 (Machine.driveStacks d z1) := by
  refine h.step ?_
  clear h
  unfold Machine.driveStacks
  try dsimp only
  repeat' first
    | with_reducible exact same _ | with_reducible assumption | with_reducible refine branch (fun hc => ?_) (fun hc => ?_)
    | with_reducible apply setStack | with_reducible refine forN ?_ (fun i v hi => ?_) | omega | split

end Own
end Sys2Proof
end

