-- ==== Sys2Proof/Laws/OnlySides.lean ====
section
/-!
SUPPORT. What each operation can move, one lemma each: commits, the sides, sharing and frames.
-/

set_option Elab.async false
set_option maxRecDepth 2000
set_option linter.unusedVariables false
set_option linter.unusedSimpArgs false
namespace Sys2Proof
open Sys2Proof.Machine
variable {P : List Part} {G : List Objs}
namespace Own

theorem measureWait {z0 z1 : State} {r : Nat} {q : Req} (hG : Cov G [⟨0xA000, 0xA000, 1, 1⟩, ⟨0xA100, 0xA106, 4, 4⟩]) (hb_r : r < 7) (h : Own P G z0
    z1) : Own P G z0 (Machine.measureWait r q z1) := by
  refine h.step ?_
  clear h
  unfold Machine.measureWait
  try dsimp only
  repeat' first
    | (exact hG.sub rfl) | (exact hG.item rfl) | with_reducible exact same _ | with_reducible assumption
    | with_reducible refine branch (fun hc => ?_) (fun hc => ?_) | with_reducible apply raise | with_reducible apply setBitO
    | with_reducible apply setBlob
    | (refine hG.hit 0xA100 0xA106 4 4 rfl ?_ ?_ ?_ ?_ ?_ <;> (first | omega | ((try simp only [quantIx, ctrIx, planIx, bankIndex, resIx, pllSide, instRecord, recordIndex]); omega) | (simp only [Bool.and_eq_true, decide_eq_true_eq] at *; omega)))
    | omega | split | (refine hG.hit 0xA100 0xA106 4 4 rfl ?_ ?_ ?_ ?_ ?_ <;> omega)

theorem headsWait {z0 z1 : State} {r : Nat} {inst : Nat} {granted : Option Nat} (hp_sharing : Part.sharing ∈ P) (hG : Cov G [⟨0xA000, 0xA000, 1, 1⟩,
    ⟨0xA100, 0xA106, 4, 4⟩]) (hb_r : r < 7) (h : Own P G z0 z1) : Own P G z0 (Machine.headsWait r inst granted z1) := by
  refine h.step ?_
  clear h
  unfold Machine.headsWait
  try dsimp only
  repeat' first
    | (exact hG.sub rfl) | (exact hG.item rfl) | with_reducible exact same _ | with_reducible assumption
    | with_reducible refine branch (fun hc => ?_) (fun hc => ?_) | with_reducible apply countReq | with_reducible apply measureWait
    | with_reducible apply setArbiter | with_reducible refine forN ?_ (fun i v hi => ?_) | omega | split

theorem runSlot {z0 z1 : State} {r : Nat} {inst : Nat} {k : Nat} {p : Nat × Nat} (hp_sharing : Part.sharing ∈ P) (hp_out : Part.out ∈ P) (hG : Cov G
    [⟨0xA000, 0xA000, 1, 1⟩, ⟨0xA100, 0xA106, 4, 4⟩]) (hb_r : r < 7) (h : Own P G z0 z1) : Own P G z0 (Machine.runSlot r inst k p z1) := by
  refine h.step ?_
  clear h
  unfold Machine.runSlot
  try dsimp only
  repeat' first
    | (exact hG.sub rfl) | (exact hG.item rfl) | with_reducible exact same _ | with_reducible assumption
    | with_reducible refine branch (fun hc => ?_) (fun hc => ?_) | with_reducible apply grantReq | with_reducible apply headsWait
    | with_reducible apply setArbiter | omega | split

theorem runSlots {z0 z1 : State} {r inst n : Nat} (hp_sharing : Part.sharing ∈ P) (hp_out : Part.out ∈ P) (hG : Cov G [⟨0xA000, 0xA000, 1, 1⟩,
    ⟨0xA100, 0xA106, 4, 4⟩]) (hb_r : r < 7) (h : Own P G z0 z1) : Own P G z0 (Machine.runSlots r inst n z1) := by
  refine h.step ?_
  clear h
  induction n generalizing z1 with
  | zero => exact same _
  | succ n ih =>
    unfold Machine.runSlots
    dsimp only
    refine ite (same _) (ite (setArbiter hp_sharing (same _)) (step (atRidge (same _) (fun v => ?_)) ih))
    apply runSlot <;> first | assumption | exact hG.sub rfl | exact same _

theorem dropAbsent {z0 z1 : State} {r : Nat} {inst : Nat} (hp_sharing : Part.sharing ∈ P) (h : Own P G z0 z1) : Own P G z0 (Machine.dropAbsent r
    inst z1) := by
  refine h.step ?_
  clear h
  unfold Machine.dropAbsent
  try dsimp only
  repeat' first
    | with_reducible exact same _ | with_reducible assumption | with_reducible apply setArbiter

theorem dueSlots {z0 z1 : State} (hp_sharing : Part.sharing ∈ P) (hp_out : Part.out ∈ P) (hG : Cov G [⟨0xA000, 0xA000, 1, 1⟩, ⟨0xA100, 0xA106, 4,
    4⟩]) (h : Own P G z0 z1) : Own P G z0 (Machine.dueSlots z1) := by
  refine h.step ?_
  clear h
  unfold Machine.dueSlots
  try dsimp only
  repeat' first
    | (exact hG.sub rfl) | (exact hG.item rfl) | with_reducible exact same _ | with_reducible assumption
    | with_reducible refine branch (fun hc => ?_) (fun hc => ?_) | with_reducible apply dropAbsent | with_reducible apply runSlots
    | with_reducible refine foldl ?_ (fun v a ha => ?_) | omega | ((have hr : ¬ 7 * 65536 ≤ a.1 := (by simp_all)); omega) | split

theorem closeRoles {z0 z1 : State} {c : Cand} (hp_capture : Part.capture ∈ P) (hp_net : Part.net ∈ P) (h : Own P G z0 z1) : Own P G z0
    (Machine.closeRoles c z1) := by
  refine h.step ?_
  clear h
  unfold Machine.closeRoles
  try dsimp only
  repeat' first
    | with_reducible exact same _ | with_reducible assumption | with_reducible apply closeSession
    | with_reducible refine foldl ?_ (fun v a ha => ?_)

theorem commitBank {z0 z1 : State} {c : Cand} {k : Nat} (hG : Cov G [⟨0x2200, 0x227F, 131, 131⟩]) (hb_k : k < 128) (h : Own P G z0 z1) : Own P G z0
    (Machine.commitBank c k z1) := by
  refine h.step ?_
  clear h
  unfold Machine.commitBank
  try dsimp only
  repeat' first
    | (exact hG.sub rfl) | (exact hG.item rfl)
    | with_reducible exact same _ | with_reducible refine branch (fun hc => ?_) (fun hc => ?_) | with_reducible apply setNum
    | (refine hG.hit 0x2200 0x227F 131 131 rfl ?_ ?_ ?_ ?_ ?_ <;> omega)

theorem commitBases {z0 z1 : State} (hG : Cov G [⟨0x4000, 0x4000, 4, 4⟩, ⟨0x4000, 0x4000, 5, 5⟩]) (h : Own P G z0 z1) : Own P G z0
    (Machine.commitBases z1) := by
  refine h.step ?_
  clear h
  unfold Machine.commitBases
  try dsimp only
  repeat' first
    | (exact hG.sub rfl) | (exact hG.item rfl)
    | with_reducible exact same _ | with_reducible assumption | with_reducible apply setNum

theorem commitBuckets {z0 z1 : State} {c : Cand} (hp_scribe : Part.scribe ∈ P) (h : Own P G z0 z1) : Own P G z0 (Machine.commitBuckets c z1) := by
  refine h.step ?_
  clear h
  unfold Machine.commitBuckets
  try dsimp only
  repeat' first
    | with_reducible exact same _ | with_reducible refine branch (fun hc => ?_) (fun hc => ?_)
    | with_reducible refine foldl ?_ (fun v a ha => ?_) | with_reducible refine scribe_set (by assumption) ?_

theorem dropPlan {z0 z1 : State} {k : Nat} (hp_capture : Part.capture ∈ P) (h : Own P G z0 z1) : Own P G z0 (Machine.dropPlan k z1) := by
  refine h.step ?_
  clear h
  unfold Machine.dropPlan
  try dsimp only
  repeat' first
    | with_reducible exact same _ | with_reducible assumption | with_reducible apply dropSegment | with_reducible apply setEngine
    | with_reducible apply setStream | with_reducible refine foldl ?_ (fun v a ha => ?_)
    | with_reducible refine capture_set (by assumption) ?_

theorem commitCapture {z0 z1 : State} {c : Cand} (hp_capture : Part.capture ∈ P) (hG : Cov G [⟨0x8000, 0x8000, 5, 5⟩]) (h : Own P G z0 z1) : Own P G
    z0 (Machine.commitCapture c z1) := by
  refine h.step ?_
  clear h
  unfold Machine.commitCapture
  try dsimp only
  repeat' first
    | (exact hG.sub rfl) | (exact hG.item rfl)
    | with_reducible exact same _ | with_reducible assumption | with_reducible refine branch (fun hc => ?_) (fun hc => ?_)
    | with_reducible apply dropPlan | with_reducible apply setNum | with_reducible refine forN ?_ (fun i v hi => ?_)
    | with_reducible refine capture_set (by assumption) ?_

theorem joinDomain {z0 z1 : State} {n : Nat} {x : Side} (hp_meas : Part.meas ∈ P) (h : Own P G z0 z1) : Own P G z0 (Machine.joinDomain n x z1) := by
  refine h.step ?_
  clear h
  unfold Machine.joinDomain
  try dsimp only
  repeat' first
    | with_reducible exact same _ | with_reducible assumption | with_reducible apply setChain | split

theorem commitChannel {z0 z1 : State} {c : Cand} {n : Nat} (hp_meas : Part.meas ∈ P) (hG : Cov G [⟨0x2100, 0x213F, 12, 12⟩, ⟨0x2100, 0x213F, 14,
    14⟩, ⟨0x2100, 0x213F, 16, 16⟩]) (hb_n : n < 64) (h : Own P G z0 z1) : Own P G z0 (Machine.commitChannel c n z1) := by
  refine h.step ?_
  clear h
  unfold Machine.commitChannel
  try dsimp only
  repeat' first
    | (exact hG.sub rfl) | (exact hG.item rfl) | with_reducible exact same _ | with_reducible assumption
    | with_reducible refine branch (fun hc => ?_) (fun hc => ?_) | with_reducible apply joinDomain | with_reducible apply refreshDelay
    | with_reducible apply restartOnGrid | with_reducible apply setChain | with_reducible apply setFeedback | with_reducible apply setNum
    | with_reducible refine foldl ?_ (fun v a ha => ?_)
    | (refine hG.hit 0x2100 0x213F 14 14 rfl ?_ ?_ ?_ ?_ ?_ <;> (first | omega | ((try simp only [quantIx, ctrIx, planIx, bankIndex, resIx, pllSide, instRecord, recordIndex]); omega) | (simp only [Bool.and_eq_true, decide_eq_true_eq] at *; omega)))
    | omega | split | (refine hG.hit 0x2100 0x213F 14 14 rfl ?_ ?_ ?_ ?_ ?_ <;> omega)

theorem commitClocks {z0 z1 : State} {c : Cand} (hG : Cov G [⟨0x7200, 0x7207, 3, 3⟩]) (h : Own P G z0 z1) : Own P G z0 (Machine.commitClocks c z1)
    := by
  refine h.step ?_
  clear h
  unfold Machine.commitClocks
  try dsimp only
  repeat' first
    | (exact hG.sub rfl) | (exact hG.item rfl)
    | with_reducible exact same _ | with_reducible refine branch (fun hc => ?_) (fun hc => ?_) | with_reducible apply setNum
    | with_reducible refine foldl ?_ (fun v a ha => ?_)
    | (refine hG.hit 0x7200 0x7207 3 3 rfl ?_ ?_ ?_ ?_ ?_ <;> (first | omega | ((simp only [clkOuts, List.mem_range] at *; omega))))

theorem commitComparator {z0 z1 : State} {c : Cand} {n k : Nat} (hp_meas : Part.meas ∈ P) (h : Own P G z0 z1) : Own P G z0 (Machine.commitComparator
    c n k z1) := by
  refine h.step ?_
  clear h
  unfold Machine.commitComparator
  try dsimp only
  repeat' first
    | with_reducible exact same _ | with_reducible assumption | with_reducible refine branch (fun hc => ?_) (fun hc => ?_)
    | with_reducible apply setComp

theorem commitDomain {z0 z1 : State} {c : Cand} {d : Nat} (hp_meas : Part.meas ∈ P) (hG : Cov G [⟨0x2500, 0x2503, 6, 6⟩, ⟨0x2500, 0x2503, 8, 8⟩,
    ⟨0x2500, 0x2503, 9, 9⟩]) (hb_d : d < 4) (h : Own P G z0 z1) : Own P G z0 (Machine.commitDomain c d z1) := by
  refine h.step ?_
  clear h
  unfold Machine.commitDomain
  try dsimp only
  repeat' first
    | (exact hG.sub rfl) | (exact hG.item rfl)
    | with_reducible exact same _ | with_reducible assumption | with_reducible refine branch (fun hc => ?_) (fun hc => ?_)
    | with_reducible apply takeLine | with_reducible refine foldl ?_ (fun v a ha => ?_)

theorem commitFaultIn {z0 z1 : State} {c : Cand} (hp_plate : Part.plate ∈ P) (hG : Cov G [⟨0x5310, 0x5310, 3, 3⟩]) (h : Own P G z0 z1) : Own P G z0
    (Machine.commitFaultIn c z1) := by
  refine h.step ?_
  clear h
  unfold Machine.commitFaultIn
  try dsimp only
  repeat' first
    | (exact hG.sub rfl) | (exact hG.item rfl)
    | with_reducible exact same _ | with_reducible assumption | with_reducible refine branch (fun hc => ?_) (fun hc => ?_)
    | with_reducible apply latchFaultIn | with_reducible refine forN ?_ (fun i v hi => ?_) | exact Eq.refl _
    | with_reducible refine plate_set ‹_› ?_ ?_

theorem commitGroups {z0 z1 : State} {c : Cand} (hp_meas : Part.meas ∈ P) (hG : Cov G [⟨0x2310, 0x2310, 3, 3⟩, ⟨0x2310, 0x2310, 4, 4⟩]) (h : Own P
    G z0 z1) : Own P G z0 (Machine.commitGroups c z1) := by
  refine h.step ?_
  clear h
  unfold Machine.commitGroups
  try dsimp only
  repeat' first
    | (exact hG.sub rfl) | (exact hG.item rfl) | with_reducible exact same _ | with_reducible assumption
    | with_reducible refine branch (fun hc => ?_) (fun hc => ?_) | with_reducible apply emptyHistories | with_reducible apply leaveAlign
    | with_reducible apply setGroup | with_reducible refine forN ?_ (fun i v hi => ?_) | omega | split

theorem commitMeasurement {z0 z1 : State} {c : Cand} (hp_meas : Part.meas ∈ P) (hG : Cov G [⟨0x2100, 0x213F, 4, 4⟩, ⟨0x2100, 0x213F, 12, 12⟩,
    ⟨0x2100, 0x213F, 14, 14⟩, ⟨0x2100, 0x213F, 16, 16⟩, ⟨0x2200, 0x227F, 131, 131⟩, ⟨0x2300, 0x2300, 2, 2⟩, ⟨0x2310, 0x2310, 3, 3⟩, ⟨0x2310, 0x2310,
    4, 4⟩, ⟨0x2500, 0x2503, 6, 6⟩, ⟨0x2500, 0x2503, 8, 8⟩, ⟨0x2500, 0x2503, 9, 9⟩]) (h : Own P G z0 z1) : Own P G z0 (Machine.commitMeasurement c
    z1) := by
  refine h.step ?_
  clear h
  unfold Machine.commitMeasurement
  try dsimp only
  repeat' first
    | (exact hG.sub rfl) | (exact hG.item rfl) | with_reducible exact same _ | with_reducible assumption
    | with_reducible refine branch (fun hc => ?_) (fun hc => ?_) | with_reducible apply commitBank | with_reducible apply commitChannel
    | with_reducible apply commitComparator | with_reducible apply commitDomain | with_reducible apply commitGroups
    | with_reducible apply sourcesAtOnce | with_reducible apply sweepSwaps | with_reducible refine forN ?_ (fun i v hi => ?_) | omega | split

theorem commitPeriod {z0 z1 : State} {c : Cand} {g : Nat} (hp_plate : Part.plate ∈ P) (h : Own P G z0 z1) : Own P G z0 (Machine.commitPeriod c g z1)
    := by
  refine h.step ?_
  clear h
  unfold Machine.commitPeriod
  try dsimp only
  repeat' first
    | with_reducible exact same _ | with_reducible assumption | with_reducible refine branch (fun hc => ?_) (fun hc => ?_)
    | with_reducible apply modCarrier | with_reducible apply stampWrite | omega | split

theorem takeControl {z0 z1 : State} {x : Side} (hp_meas : Part.meas ∈ P) (hp_graphs : Part.graphs ∈ P) (hp_gf : Part.gf ∈ P) (hp_plate : Part.plate
    ∈ P) (hp_pairs : Part.pairs ∈ P) (hp_sides : Part.sides ∈ P) (hp_clock : Part.clock ∈ P) (hp_capture : Part.capture ∈ P) (hG : Cov G [⟨0x2100,
    0x213F, 11, 11⟩, ⟨0x5200, 0x5247, 8, 8⟩, ⟨0x6000, 0x6000, 2, 2⟩, ⟨0x6021, 0x6021, 1, 1⟩, ⟨0x6021, 0x6021, 4, 4⟩, ⟨0x7000, 0x7000, 5, 5⟩,
    ⟨0x7000, 0x7000, 8, 8⟩, ⟨0x7050, 0x7050, 1, 1⟩, ⟨0x7100, 0x7104, 3, 3⟩]) (h : Own P G z0 z1) : Own P G z0 (Machine.takeControl x z1) := by
  refine h.step ?_
  clear h
  have := sideIx_lt x
  have := sideIx_lt (otherSide x)
  unfold Machine.takeControl
  try dsimp only
  repeat' first
    | (exact hG.sub rfl) | (exact hG.item rfl) | with_reducible exact same _ | with_reducible assumption
    | with_reducible refine branch (fun hc => ?_) (fun hc => ?_) | with_reducible apply deliverChange | with_reducible apply setControl
    | with_reducible apply setReserve | omega | split

theorem wakeSide {z0 z1 : State} {x : Side} (hp_meas : Part.meas ∈ P) (hp_graphs : Part.graphs ∈ P) (hp_gf : Part.gf ∈ P) (hp_plate : Part.plate ∈
    P) (hp_sides : Part.sides ∈ P) (hp_clock : Part.clock ∈ P) (hp_capture : Part.capture ∈ P) (hG : Cov G [⟨0x2100, 0x213F, 11, 11⟩, ⟨0x6000,
    0x6000, 2, 2⟩, ⟨0x6021, 0x6021, 1, 1⟩, ⟨0x7000, 0x7000, 5, 5⟩, ⟨0x7000, 0x7000, 8, 8⟩, ⟨0x7050, 0x7050, 1, 1⟩, ⟨0x7100, 0x7104, 3, 3⟩]) (h : Own
    P G z0 z1) : Own P G z0 (Machine.wakeSide x z1) := by
  refine h.step ?_
  clear h
  unfold Machine.wakeSide
  try dsimp only
  repeat' first
    | (exact hG.sub rfl) | (exact hG.item rfl)
    | with_reducible exact same _ | with_reducible assumption | with_reducible refine branch (fun hc => ?_) (fun hc => ?_)
    | with_reducible apply setFailed

theorem commitProfile {z0 z1 : State} (hp_meas : Part.meas ∈ P) (hp_graphs : Part.graphs ∈ P) (hp_gf : Part.gf ∈ P) (hp_plate : Part.plate ∈ P)
    (hp_pairs : Part.pairs ∈ P) (hp_sides : Part.sides ∈ P) (hp_clock : Part.clock ∈ P) (hp_capture : Part.capture ∈ P) (hG : Cov G [⟨0x2100,
    0x213F, 11, 11⟩, ⟨0x5200, 0x5247, 8, 8⟩, ⟨0x6000, 0x6000, 2, 2⟩, ⟨0x6021, 0x6021, 1, 1⟩, ⟨0x6021, 0x6021, 4, 4⟩, ⟨0x7000, 0x7000, 5, 5⟩,
    ⟨0x7000, 0x7000, 8, 8⟩, ⟨0x7050, 0x7050, 1, 1⟩, ⟨0x7100, 0x7104, 3, 3⟩]) (h : Own P G z0 z1) : Own P G z0 (Machine.commitProfile z1) := by
  refine h.step ?_
  clear h
  unfold Machine.commitProfile
  try dsimp only
  repeat' first
    | (exact hG.sub rfl) | (exact hG.item rfl) | with_reducible exact same _ | with_reducible assumption
    | with_reducible refine branch (fun hc => ?_) (fun hc => ?_) | with_reducible apply adoptProfile | with_reducible apply checkHoldover
    | with_reducible apply leaveOut | with_reducible apply setBays | with_reducible apply setControl | with_reducible apply setDegraded
    | with_reducible apply takeControl | with_reducible apply wakeSide | omega | split

theorem commitRoutes {z0 z1 : State} {c : Cand} (hp_net : Part.net ∈ P) (h : Own P G z0 z1) : Own P G z0 (Machine.commitRoutes c z1) := by
  refine h.step ?_
  clear h
  unfold Machine.commitRoutes
  try dsimp only
  repeat' first
    | with_reducible exact same _ | with_reducible assumption | with_reducible refine branch (fun hc => ?_) (fun hc => ?_)
    | with_reducible apply setReader | with_reducible refine foldl ?_ (fun v a ha => ?_)

theorem commitTags {z0 z1 : State} {c : Cand} (hp_scribe : Part.scribe ∈ P) (hp_graphs : Part.graphs ∈ P) (h : Own P G z0 z1) : Own P G z0
    (Machine.commitTags c z1) := by
  refine h.step ?_
  clear h
  unfold Machine.commitTags
  try dsimp only
  repeat' first
    | with_reducible exact same _ | with_reducible assumption | with_reducible refine branch (fun hc => ?_) (fun hc => ?_)
    | with_reducible apply setGraph | with_reducible refine forN ?_ (fun i v hi => ?_) | split
    | with_reducible refine scribe_set (by assumption) ?_

theorem commitSides {z0 z1 : State} {c : Cand} (hp_meas : Part.meas ∈ P) (hp_graphs : Part.graphs ∈ P) (hp_gf : Part.gf ∈ P) (hp_plate : Part.plate
    ∈ P) (hp_pairs : Part.pairs ∈ P) (hp_sides : Part.sides ∈ P) (hp_clock : Part.clock ∈ P) (hp_capture : Part.capture ∈ P) (hG : Cov G [⟨0x2100,
    0x213F, 11, 11⟩, ⟨0x5200, 0x5247, 8, 8⟩, ⟨0x6000, 0x6000, 2, 2⟩, ⟨0x6021, 0x6021, 1, 1⟩, ⟨0x6021, 0x6021, 4, 4⟩, ⟨0x7000, 0x7000, 5, 5⟩,
    ⟨0x7000, 0x7000, 8, 8⟩, ⟨0x7050, 0x7050, 1, 1⟩, ⟨0x7100, 0x7104, 3, 3⟩]) (h : Own P G z0 z1) : Own P G z0 (Machine.commitSides c z1) := by
  refine h.step ?_
  clear h
  unfold Machine.commitSides
  try dsimp only
  repeat' first
    | (exact hG.sub rfl) | (exact hG.item rfl)
    | with_reducible exact same _ | with_reducible assumption | with_reducible refine branch (fun hc => ?_) (fun hc => ?_)
    | with_reducible apply commitProfile

theorem commitSlot {z0 z1 : State} {c : Cand} {k : Nat} (hG : Cov G [⟨0x3000, 0x3000, 2, 2⟩, ⟨0x3100, 0x3101, 3, 3⟩, ⟨0x3100, 0x3101, 4, 4⟩]) (hb_k
    : k < 2) (h : Own P G z0 z1) : Own P G z0 (Machine.commitSlot c k z1) := by
  refine h.step ?_
  clear h
  unfold Machine.commitSlot
  try dsimp only
  repeat' first
    | (exact hG.sub rfl) | (exact hG.item rfl)
    | with_reducible exact same _ | with_reducible assumption | with_reducible refine branch (fun hc => ?_) (fun hc => ?_)
    | with_reducible apply setSlotState | with_reducible apply setNum | (refine hG.hit 0x3100 0x3101 3 3 rfl ?_ ?_ ?_ ?_ ?_ <;> omega)

theorem commitStacks {z0 z1 : State} {c : Cand} (hp_graphs : Part.graphs ∈ P) (hp_stacks : Part.stacks ∈ P) (hp_sharing : Part.sharing ∈ P) (hG :
    Cov G [⟨0x9010, 0x901F, 3, 3⟩, ⟨0xA000, 0xA000, 1, 1⟩]) (h : Own P G z0 z1) :
    Own P G z0 (Machine.commitStacks c z1) := by
  refine h.step ?_
  clear h
  unfold Machine.commitStacks
  try dsimp only
  repeat' first
    | (exact hG.sub rfl) | (exact hG.item rfl) | with_reducible exact same _ | with_reducible assumption
    | with_reducible refine branch (fun hc => ?_) (fun hc => ?_) | with_reducible apply queueRead | with_reducible apply recomputeShares
    | with_reducible refine forN ?_ (fun i v hi => ?_)

theorem timeSourceCommitted {z0 z1 : State} (hp_clock : Part.clock ∈ P) (hG : Cov G [⟨0x7000, 0x7000, 5, 5⟩]) (h : Own P G z0 z1) : Own P G z0
    (Machine.timeSourceCommitted z1) := by
  refine h.step ?_
  clear h
  unfold Machine.timeSourceCommitted
  try dsimp only
  repeat' first
    | (exact hG.sub rfl) | (exact hG.item rfl) | with_reducible exact same _ | with_reducible assumption | with_reducible apply setSynced
    | with_reducible refine clock_set (by assumption) ?_

theorem commitTime {z0 z1 : State} {c : Cand} (hp_ptp : Part.ptp ∈ P) (hp_clock : Part.clock ∈ P) (hG : Cov G [⟨0x7000, 0x7000, 5, 5⟩, ⟨0x7028,
    0x7028, 2, 2⟩, ⟨0x7028, 0x7029, 1, 1⟩, ⟨0x7029, 0x7029, 2, 2⟩]) (h : Own P G z0 z1) : Own P G z0 (Machine.commitTime c z1) := by
  refine h.step ?_
  clear h
  unfold Machine.commitTime
  try dsimp only
  repeat' first
    | (exact hG.sub rfl) | (exact hG.item rfl) | with_reducible exact same _ | with_reducible assumption
    | with_reducible refine branch (fun hc => ?_) (fun hc => ?_) | with_reducible apply timeSourceCommitted
    | with_reducible apply timeRoleCommitted | with_reducible apply portsByRole | with_reducible refine clock_set (by assumption) ?_

theorem replyCommit {z0 z1 : State} {status : Nat} {o : OpenSet} (hp_net : Part.net ∈ P) (hp_out : Part.out ∈ P) (h : Own P G z0 z1) : Own P G z0
    (Machine.replyCommit status o z1) := by
  refine h.step ?_
  clear h
  unfold Machine.replyCommit
  try dsimp only
  repeat' first
    | with_reducible exact same _ | with_reducible assumption | with_reducible refine branch (fun hc => ?_) (fun hc => ?_)
    | with_reducible apply emit | with_reducible apply sendSot | with_reducible apply sendSession | split

theorem rejectSet {z0 z1 : State} {o : OpenSet} {name : String} {k : Nat} (hp_net : Part.net ∈ P) (hp_out : Part.out ∈ P) (hG : Cov G [⟨0x1050,
    0x1050, 5, 5⟩, ⟨0x1050, 0x1050, 6, 6⟩]) (h : Own P G z0 z1) : Own P G z0 (Machine.rejectSet o name k z1) := by
  refine h.step ?_
  clear h
  unfold Machine.rejectSet
  try dsimp only
  repeat' first
    | (exact hG.sub rfl) | (exact hG.item rfl)
    | with_reducible exact same _ | with_reducible assumption | with_reducible apply modSet | with_reducible apply setNum
    | with_reducible apply setBlob | with_reducible apply replyCommit | with_reducible apply raise

theorem doSideCommand {z0 z1 : State} {code : Nat} {x : Side} (hp_meas : Part.meas ∈ P) (hp_graphs : Part.graphs ∈ P) (hp_gf : Part.gf ∈ P)
    (hp_plate : Part.plate ∈ P) (hp_sides : Part.sides ∈ P) (hp_clock : Part.clock ∈ P) (hp_capture : Part.capture ∈ P) (hG : Cov G [⟨0x2100,
    0x213F, 11, 11⟩, ⟨0x6000, 0x6000, 2, 2⟩, ⟨0x6021, 0x6021, 1, 1⟩, ⟨0x7000, 0x7000, 5, 5⟩, ⟨0x7000, 0x7000, 8, 8⟩, ⟨0x7050, 0x7050, 1, 1⟩,
    ⟨0x7100, 0x7104, 3, 3⟩]) (h : Own P G z0 z1) : Own P G z0 (Machine.doSideCommand code x z1) := by
  refine h.step ?_
  clear h
  have := sideIx_lt x
  unfold Machine.doSideCommand
  try dsimp only
  repeat' first
    | (exact hG.sub rfl) | (exact hG.item rfl) | with_reducible exact same _ | with_reducible assumption
    | with_reducible refine branch (fun hc => ?_) (fun hc => ?_) | with_reducible apply checkHoldover | with_reducible apply setDegraded
    | with_reducible apply setFailed | with_reducible apply setSideRt | with_reducible apply sideOff | with_reducible apply startReinit | omega
    | split | with_reducible refine sides_set (by assumption) ?_

theorem sideCommand {z0 z1 : State} {code : Nat} {x : Side} (hp_meas : Part.meas ∈ P) (hp_graphs : Part.graphs ∈ P) (hp_gf : Part.gf ∈ P) (hp_plate
    : Part.plate ∈ P) (hp_sides : Part.sides ∈ P) (hp_clock : Part.clock ∈ P) (hp_capture : Part.capture ∈ P) (hG : Cov G [⟨0x2100, 0x213F, 11, 11⟩,
    ⟨0x6000, 0x6000, 2, 2⟩, ⟨0x6020, 0x6020, 2, 2⟩, ⟨0x6021, 0x6021, 1, 1⟩, ⟨0x7000, 0x7000, 5, 5⟩, ⟨0x7000, 0x7000, 8, 8⟩, ⟨0x7050, 0x7050, 1, 1⟩,
    ⟨0x7100, 0x7104, 3, 3⟩]) (h : Own P G z0 z1) : Own P G z0 (Machine.sideCommand code x z1) := by
  refine h.step ?_
  clear h
  unfold Machine.sideCommand
  try dsimp only
  repeat' first
    | (exact hG.sub rfl) | (exact hG.item rfl)
    | with_reducible exact same _ | with_reducible assumption | with_reducible refine branch (fun hc => ?_) (fun hc => ?_)
    | with_reducible apply setNum | with_reducible apply doSideCommand | with_reducible apply raise

theorem copySurvivor {z0 z1 : State} {y x : Side} (hp_meas : Part.meas ∈ P) (hp_graphs : Part.graphs ∈ P) (hp_plate : Part.plate ∈ P) (hp_capture :
    Part.capture ∈ P) (h : Own P G z0 z1) : Own P G z0 (Machine.copySurvivor y x z1) := by
  refine h.step ?_
  clear h
  unfold Machine.copySurvivor
  dsimp only
  refine step (b := (z1.setSill x (z1.sill y)).setGraph x { z1.graph y with ctl := false }) ?_ ?_
  · exact setGraph hp_graphs (setSill hp_plate (same _))
  · generalize (z1.setSill x (z1.sill y)).setGraph x { z1.graph y with ctl := false } = u
    refine of_pairs ?_ rfl
    constructor <;> intros <;> first | rfl | contradiction

theorem linkError {z0 z1 : State} {x : Side} (hp_meas : Part.meas ∈ P) (hp_graphs : Part.graphs ∈ P) (hp_gf : Part.gf ∈ P) (hp_plate : Part.plate ∈
    P) (hp_pairs : Part.pairs ∈ P) (hp_stacks : Part.stacks ∈ P) (hp_sides : Part.sides ∈ P) (hp_safety : Part.safety ∈ P) (hp_sharing :
    Part.sharing ∈ P) (hp_clock : Part.clock ∈ P) (hp_capture : Part.capture ∈ P) (hG : Cov G [⟨0x2100, 0x213F, 11, 11⟩, ⟨0x2500, 0x2503, 6, 6⟩,
    ⟨0x2500, 0x2503, 8, 8⟩, ⟨0x2500, 0x2503, 9, 9⟩, ⟨0x4001, 0x4001, 3, 3⟩, ⟨0x4001, 0x4001, 4, 4⟩, ⟨0x5200, 0x5247, 8, 8⟩, ⟨0x5300, 0x5300, 4, 4⟩,
    ⟨0x5320, 0x5320, 2, 2⟩, ⟨0x6000, 0x6000, 2, 2⟩, ⟨0x6021, 0x6021, 1, 1⟩, ⟨0x6021, 0x6021, 2, 2⟩, ⟨0x6021, 0x6021, 3, 3⟩, ⟨0x6021, 0x6021, 4, 4⟩,
    ⟨0x6030, 0x6031, 1, 1⟩, ⟨0x6030, 0x6031, 8, 8⟩, ⟨0x6800, 0x6800, 2, 2⟩, ⟨0x7000, 0x7000, 5, 5⟩, ⟨0x7000, 0x7000, 8, 8⟩, ⟨0x7050, 0x7050, 1, 1⟩,
    ⟨0x7100, 0x7104, 3, 3⟩, ⟨0x9010, 0x901F, 3, 3⟩, ⟨0xA000, 0xA000, 1, 1⟩]) (h : Own P G z0 z1) : Own P G z0 (Machine.linkError x z1) := by
  refine h.step ?_
  clear h
  have := sideIx_lt x
  unfold Machine.linkError
  try dsimp only
  repeat' first
    | (exact hG.sub rfl) | (exact hG.item rfl)
    | with_reducible exact same _ | with_reducible assumption | with_reducible refine branch (fun hc => ?_) (fun hc => ?_)
    | with_reducible apply setSideRt | with_reducible apply setBitO | with_reducible apply incSat | with_reducible apply refreshBad
    | with_reducible apply sideFault | (refine hG.hit 0x6030 0x6031 1 1 rfl ?_ ?_ ?_ ?_ ?_ <;> omega) | (refine hG.hit 0x6030 0x6031 8 8 rfl ?_ ?_ ?_ ?_ ?_ <;> omega)

theorem setBeat {z0 z1 : State} {x : Side} {path : Nat} {b : Beat} (hp_sides : Part.sides ∈ P) (h : Own P G z0 z1) : Own P G z0 (Machine.setBeat x
    path b z1) := by
  refine h.step ?_
  clear h
  unfold Machine.setBeat
  try dsimp only
  repeat' first
    | with_reducible exact same _ | with_reducible assumption | with_reducible apply setSideRt

theorem judgeBeats {z0 z1 : State} {x : Side} {path : Nat} (hp_meas : Part.meas ∈ P) (hp_graphs : Part.graphs ∈ P) (hp_gf : Part.gf ∈ P) (hp_plate :
    Part.plate ∈ P) (hp_pairs : Part.pairs ∈ P) (hp_stacks : Part.stacks ∈ P) (hp_sides : Part.sides ∈ P) (hp_safety : Part.safety ∈ P) (hp_sharing
    : Part.sharing ∈ P) (hp_clock : Part.clock ∈ P) (hp_capture : Part.capture ∈ P) (hG : Cov G [⟨0x2100, 0x213F, 11, 11⟩, ⟨0x2500, 0x2503, 6, 6⟩,
    ⟨0x2500, 0x2503, 8, 8⟩, ⟨0x2500, 0x2503, 9, 9⟩, ⟨0x4001, 0x4001, 3, 3⟩, ⟨0x4001, 0x4001, 4, 4⟩, ⟨0x5200, 0x5247, 8, 8⟩, ⟨0x5300, 0x5300, 4, 4⟩,
    ⟨0x5320, 0x5320, 2, 2⟩, ⟨0x6000, 0x6000, 2, 2⟩, ⟨0x6021, 0x6021, 1, 1⟩, ⟨0x6021, 0x6021, 2, 2⟩, ⟨0x6021, 0x6021, 3, 3⟩, ⟨0x6021, 0x6021, 4, 4⟩,
    ⟨0x6030, 0x6031, 1, 1⟩, ⟨0x6800, 0x6800, 2, 2⟩, ⟨0x7000, 0x7000, 5, 5⟩, ⟨0x7000, 0x7000, 8, 8⟩, ⟨0x7050, 0x7050, 1, 1⟩, ⟨0x7100, 0x7104, 3, 3⟩,
    ⟨0x9010, 0x901F, 3, 3⟩, ⟨0xA000, 0xA000, 1, 1⟩]) (h : Own P G z0 z1) : Own P G z0 (Machine.judgeBeats x path z1) := by
  refine h.step ?_
  clear h
  have := sideIx_lt x
  have := sideIx_lt (otherSide x)
  unfold Machine.judgeBeats
  try dsimp only
  repeat' first
    | (exact hG.sub rfl) | (exact hG.item rfl) | with_reducible exact same _ | with_reducible assumption
    | with_reducible refine branch (fun hc => ?_) (fun hc => ?_) | with_reducible apply raise | with_reducible apply refreshBad
    | with_reducible apply setBeat | with_reducible apply setBitO | with_reducible apply sideFault
    | (refine hG.hit 0x6030 0x6031 1 1 rfl ?_ ?_ ?_ ?_ ?_ <;> (first | omega | ((try simp only [quantIx, ctrIx, planIx, bankIndex, resIx, pllSide, instRecord, recordIndex]); omega) | (simp only [Bool.and_eq_true, decide_eq_true_eq] at *; omega)))
    | omega | split | (refine hG.hit 0x6030 0x6031 1 1 rfl ?_ ?_ ?_ ?_ ?_ <;> omega)

theorem missBeat {z0 z1 : State} {x : Side} {path : Nat} (hp_meas : Part.meas ∈ P) (hp_graphs : Part.graphs ∈ P) (hp_gf : Part.gf ∈ P) (hp_plate :
    Part.plate ∈ P) (hp_pairs : Part.pairs ∈ P) (hp_stacks : Part.stacks ∈ P) (hp_sides : Part.sides ∈ P) (hp_safety : Part.safety ∈ P) (hp_sharing
    : Part.sharing ∈ P) (hp_clock : Part.clock ∈ P) (hp_capture : Part.capture ∈ P) (hG : Cov G [⟨0x2100, 0x213F, 11, 11⟩, ⟨0x2500, 0x2503, 6, 6⟩,
    ⟨0x2500, 0x2503, 8, 8⟩, ⟨0x2500, 0x2503, 9, 9⟩, ⟨0x4001, 0x4001, 3, 3⟩, ⟨0x4001, 0x4001, 4, 4⟩, ⟨0x5200, 0x5247, 8, 8⟩, ⟨0x5300, 0x5300, 4, 4⟩,
    ⟨0x5320, 0x5320, 2, 2⟩, ⟨0x6000, 0x6000, 2, 2⟩, ⟨0x6021, 0x6021, 1, 1⟩, ⟨0x6021, 0x6021, 2, 2⟩, ⟨0x6021, 0x6021, 3, 3⟩, ⟨0x6021, 0x6021, 4, 4⟩,
    ⟨0x6030, 0x6031, 1, 1⟩, ⟨0x6030, 0x6031, 6, 7⟩, ⟨0x6800, 0x6800, 2, 2⟩, ⟨0x7000, 0x7000, 5, 5⟩, ⟨0x7000, 0x7000, 8, 8⟩, ⟨0x7050, 0x7050, 1, 1⟩,
    ⟨0x7100, 0x7104, 3, 3⟩, ⟨0x9010, 0x901F, 3, 3⟩, ⟨0xA000, 0xA000, 1, 1⟩]) (hb_path : path < 2) (h : Own P G z0 z1) : Own P G z0 (Machine.missBeat
    x path z1) := by
  refine h.step ?_
  clear h
  have := sideIx_lt x
  unfold Machine.missBeat
  try dsimp only
  repeat' first
    | (exact hG.sub rfl) | (exact hG.item rfl)
    | with_reducible exact same _ | with_reducible assumption | with_reducible apply incSat | with_reducible apply setBeat
    | with_reducible apply judgeBeats | (refine hG.hit 0x6030 0x6031 6 7 rfl ?_ ?_ ?_ ?_ ?_ <;> omega)

theorem noteBeat {z0 z1 : State} {x : Side} {path : Nat} {seq : Nat} (hp_sides : Part.sides ∈ P) (h : Own P G z0 z1) : Own P G z0 (Machine.noteBeat
    x path seq z1) := by
  refine h.step ?_
  clear h
  have := sideIx_lt x
  unfold Machine.noteBeat
  try dsimp only
  repeat' first
    | with_reducible exact same _ | with_reducible assumption | with_reducible apply setBeat | with_reducible apply setSideRt | omega

theorem takeBeat {z0 z1 : State} {x : Side} {path : Nat} {seq : Nat} {crcOk : Bool} (hp_meas : Part.meas ∈ P) (hp_graphs : Part.graphs ∈ P) (hp_gf :
    Part.gf ∈ P) (hp_plate : Part.plate ∈ P) (hp_pairs : Part.pairs ∈ P) (hp_stacks : Part.stacks ∈ P) (hp_sides : Part.sides ∈ P) (hp_safety :
    Part.safety ∈ P) (hp_sharing : Part.sharing ∈ P) (hp_clock : Part.clock ∈ P) (hp_capture : Part.capture ∈ P) (hG : Cov G [⟨0x2100, 0x213F, 11,
    11⟩, ⟨0x2500, 0x2503, 6, 6⟩, ⟨0x2500, 0x2503, 8, 8⟩, ⟨0x2500, 0x2503, 9, 9⟩, ⟨0x4001, 0x4001, 3, 3⟩, ⟨0x4001, 0x4001, 4, 4⟩, ⟨0x5200, 0x5247, 8,
    8⟩, ⟨0x5300, 0x5300, 4, 4⟩, ⟨0x5320, 0x5320, 2, 2⟩, ⟨0x6000, 0x6000, 2, 2⟩, ⟨0x6021, 0x6021, 1, 1⟩, ⟨0x6021, 0x6021, 2, 2⟩, ⟨0x6021, 0x6021, 3,
    3⟩, ⟨0x6021, 0x6021, 4, 4⟩, ⟨0x6030, 0x6031, 1, 1⟩, ⟨0x6030, 0x6031, 6, 7⟩, ⟨0x6800, 0x6800, 2, 2⟩, ⟨0x7000, 0x7000, 5, 5⟩, ⟨0x7000, 0x7000, 8,
    8⟩, ⟨0x7050, 0x7050, 1, 1⟩, ⟨0x7100, 0x7104, 3, 3⟩, ⟨0x9010, 0x901F, 3, 3⟩, ⟨0xA000, 0xA000, 1, 1⟩]) (hb_path : path < 2) (h : Own P G z0 z1) :
    Own P G z0 (Machine.takeBeat x path seq crcOk z1) := by
  refine h.step ?_
  clear h
  have := sideIx_lt x
  have := sideIx_lt (otherSide x)
  unfold Machine.takeBeat
  try dsimp only
  repeat' first
    | (exact hG.sub rfl) | (exact hG.item rfl) | with_reducible exact same _ | with_reducible assumption
    | with_reducible refine branch (fun hc => ?_) (fun hc => ?_) | with_reducible apply missBeat | with_reducible apply noteBeat
    | with_reducible apply refreshBad | with_reducible apply setBeat | with_reducible apply sideFault | omega | split

theorem unresolved {z0 z1 : State} (hp_meas : Part.meas ∈ P) (hp_graphs : Part.graphs ∈ P) (hp_gf : Part.gf ∈ P) (hp_plate : Part.plate ∈ P)
    (hp_sides : Part.sides ∈ P) (hp_clock : Part.clock ∈ P) (hp_capture : Part.capture ∈ P) (hG : Cov G [⟨0x2100, 0x213F, 11, 11⟩, ⟨0x6000, 0x6000,
    2, 2⟩, ⟨0x6021, 0x6021, 1, 1⟩, ⟨0x6021, 0x6021, 5, 5⟩, ⟨0x7000, 0x7000, 5, 5⟩, ⟨0x7000, 0x7000, 8, 8⟩, ⟨0x7050, 0x7050, 1, 1⟩, ⟨0x7100, 0x7104,
    3, 3⟩]) (h : Own P G z0 z1) : Own P G z0 (Machine.unresolved z1) := by
  refine h.step ?_
  clear h
  unfold Machine.unresolved
  try dsimp only
  repeat' first
    | (exact hG.sub rfl) | (exact hG.item rfl) | with_reducible exact same _ | with_reducible assumption
    | with_reducible refine branch (fun hc => ?_) (fun hc => ?_) | with_reducible apply incSat | with_reducible apply noteCause
    | with_reducible apply raise | with_reducible apply setFailed | omega | split | with_reducible refine sides_set (by assumption) ?_

theorem joinSpares {z0 z1 : State} {x : Side} (hp_sides : Part.sides ∈ P) (hG : Cov G [⟨0xB100, 0xB100, 3, 3⟩]) (h : Own P G z0 z1) : Own P G z0
    (Machine.joinSpares x z1) := by
  refine h.step ?_
  clear h
  unfold Machine.joinSpares
  try dsimp only
  repeat' first
    | (exact hG.sub rfl) | (exact hG.item rfl)
    | with_reducible exact same _ | with_reducible assumption | with_reducible refine branch (fun hc => ?_) (fun hc => ?_)
    | with_reducible apply setSideRt | with_reducible apply raise | with_reducible apply setNum
    | with_reducible refine foldl ?_ (fun v a ha => ?_)

theorem restartCounters {z0 z1 : State} {x : Side} (hp_scribe : Part.scribe ∈ P) (hG : Cov G [⟨0x8300, 0x836F, 5, 5⟩, ⟨0x8300, 0x836F, 8, 8⟩]) (h
    : Own P G z0 z1) : Own P G z0 (Machine.restartCounters x z1) := by
  refine h.step ?_
  clear h
  have := sideIx_lt x
  unfold Machine.restartCounters
  try dsimp only
  repeat' first
    | (exact hG.sub rfl) | (exact hG.item rfl) | with_reducible exact same _ | with_reducible assumption
    | with_reducible refine branch (fun hc => ?_) (fun hc => ?_) | with_reducible apply setBitO | with_reducible apply setNum
    | with_reducible refine forN ?_ (fun i v hi => ?_) | (refine hG.hit 0x8300 0x836F 5 5 rfl ?_ ?_ ?_ ?_ ?_ <;> omega)
    | (refine hG.hit 0x8300 0x836F 8 8 rfl ?_ ?_ ?_ ?_ ?_ <;> omega) | with_reducible refine scribe_set (by assumption) ?_

theorem joinSide {z0 z1 : State} {x : Side} (hp_meas : Part.meas ∈ P) (hp_graphs : Part.graphs ∈ P) (hp_plate : Part.plate ∈ P) (hp_sides :
    Part.sides ∈ P) (hp_capture : Part.capture ∈ P) (hp_scribe : Part.scribe ∈ P) (hG : Cov G [⟨0x2500, 0x2503, 6, 6⟩, ⟨0x2500, 0x2503, 8, 8⟩,
    ⟨0x2500, 0x2503, 9, 9⟩, ⟨0x6000, 0x6000, 2, 2⟩, ⟨0x6021, 0x6021, 1, 1⟩, ⟨0x7050, 0x7050, 1, 1⟩, ⟨0x7100, 0x7104, 3, 3⟩, ⟨0x8300, 0x836F, 5,
    5⟩, ⟨0x8300, 0x836F, 8, 8⟩, ⟨0xB100, 0xB100, 3, 3⟩]) (h : Own P G z0 z1) : Own P G z0 (Machine.joinSide x z1) := by
  refine h.step ?_
  clear h
  unfold Machine.joinSide
  try dsimp only
  repeat' first
    | (exact hG.sub rfl) | (exact hG.item rfl) | with_reducible exact same _ | with_reducible assumption
    | with_reducible refine branch (fun hc => ?_) (fun hc => ?_) | with_reducible apply sourcesAtOnce | with_reducible apply joinSpares
    | with_reducible apply restartCounters | with_reducible apply raise | with_reducible apply setDegraded | with_reducible apply setReserve
    | with_reducible apply copySurvivor | with_reducible apply setControl | with_reducible apply startReinit | with_reducible apply setSideRt

theorem moveControl {z0 z1 : State} {x : Side} {y : Side} {cause : Nat} (hp_meas : Part.meas ∈ P) (hp_graphs : Part.graphs ∈ P) (hp_gf : Part.gf ∈
    P) (hp_plate : Part.plate ∈ P) (hp_pairs : Part.pairs ∈ P) (hp_sides : Part.sides ∈ P) (hp_clock : Part.clock ∈ P) (hp_capture : Part.capture ∈
    P) (hG : Cov G [⟨0x2100, 0x213F, 11, 11⟩, ⟨0x5200, 0x5247, 8, 8⟩, ⟨0x6000, 0x6000, 2, 2⟩, ⟨0x6021, 0x6021, 1, 1⟩, ⟨0x6021, 0x6021, 2, 2⟩,
    ⟨0x6021, 0x6021, 3, 3⟩, ⟨0x6021, 0x6021, 4, 4⟩, ⟨0x7000, 0x7000, 5, 5⟩, ⟨0x7000, 0x7000, 8, 8⟩, ⟨0x7050, 0x7050, 1, 1⟩, ⟨0x7100, 0x7104, 3, 3⟩])
    (h : Own P G z0 z1) : Own P G z0 (Machine.moveControl x y cause z1) := by
  refine h.step ?_
  clear h
  have := sideIx_lt x
  have := sideIx_lt y
  unfold Machine.moveControl
  try dsimp only
  repeat' first
    | (exact hG.sub rfl) | (exact hG.item rfl) | with_reducible exact same _ | with_reducible assumption | with_reducible apply deliverChange
    | with_reducible apply kerfOpen | with_reducible apply orderChange | with_reducible apply raise | with_reducible apply setControl
    | with_reducible apply setReserve | omega

theorem laneFails {z0 z1 : State} {x : Side} {joist : Nat} {lane : Nat} (hp_sides : Part.sides ∈ P) (hG : Cov G [⟨0x6030, 0x6031, 1, 1⟩, ⟨0xB100,
    0xB100, 2, 2⟩]) (h : Own P G z0 z1) : Own P G z0 (Machine.laneFails x joist lane z1) := by
  refine h.step ?_
  clear h
  have := sideIx_lt x
  unfold Machine.laneFails
  try dsimp only
  repeat' first
    | (exact hG.sub rfl) | (exact hG.item rfl) | with_reducible exact same _ | with_reducible assumption
    | with_reducible refine branch (fun hc => ?_) (fun hc => ?_) | with_reducible apply refreshBad | with_reducible apply foundFault
    | with_reducible apply setBitO | with_reducible apply setSideRt
    | (refine hG.hit 0x6030 0x6031 1 1 rfl ?_ ?_ ?_ ?_ ?_ <;> (first | omega | ((try simp only [quantIx, ctrIx, planIx, bankIndex, resIx, pllSide, instRecord, recordIndex]); omega) | (simp only [Bool.and_eq_true, decide_eq_true_eq] at *; omega)))
    | omega | split

theorem laneTested {z0 z1 : State} {x : Side} {joist : Nat} {lane : Nat} {pass : Bool} (hp_meas : Part.meas ∈ P) (hp_graphs : Part.graphs ∈ P)
    (hp_gf : Part.gf ∈ P) (hp_plate : Part.plate ∈ P) (hp_pairs : Part.pairs ∈ P) (hp_stacks : Part.stacks ∈ P) (hp_sides : Part.sides ∈ P)
    (hp_safety : Part.safety ∈ P) (hp_sharing : Part.sharing ∈ P) (hp_clock : Part.clock ∈ P) (hp_capture : Part.capture ∈ P) (hG : Cov G [⟨0x2100,
    0x213F, 11, 11⟩, ⟨0x2500, 0x2503, 6, 6⟩, ⟨0x2500, 0x2503, 8, 8⟩, ⟨0x2500, 0x2503, 9, 9⟩, ⟨0x4001, 0x4001, 3, 3⟩, ⟨0x4001, 0x4001, 4, 4⟩,
    ⟨0x5200, 0x5247, 8, 8⟩, ⟨0x5300, 0x5300, 4, 4⟩, ⟨0x5320, 0x5320, 2, 2⟩, ⟨0x6000, 0x6000, 2, 2⟩, ⟨0x6021, 0x6021, 1, 1⟩, ⟨0x6021, 0x6021, 2, 2⟩,
    ⟨0x6021, 0x6021, 3, 3⟩, ⟨0x6021, 0x6021, 4, 4⟩, ⟨0x6030, 0x6031, 1, 1⟩, ⟨0x6030, 0x6031, 2, 2⟩, ⟨0x6800, 0x6800, 2, 2⟩, ⟨0x7000, 0x7000, 5, 5⟩,
    ⟨0x7000, 0x7000, 8, 8⟩, ⟨0x7050, 0x7050, 1, 1⟩, ⟨0x7100, 0x7104, 3, 3⟩, ⟨0x9010, 0x901F, 3, 3⟩, ⟨0xA000, 0xA000, 1, 1⟩, ⟨0xB100, 0xB100, 2, 2⟩])
    (h : Own P G z0 z1) : Own P G z0 (Machine.laneTested x joist lane pass z1) := by
  refine h.step ?_
  clear h
  have := sideIx_lt x
  unfold Machine.laneTested
  try dsimp only
  repeat' first
    | (exact hG.sub rfl) | (exact hG.item rfl) | with_reducible exact same _ | with_reducible assumption
    | with_reducible refine branch (fun hc => ?_) (fun hc => ?_) | with_reducible apply incWrap | with_reducible apply laneFails
    | with_reducible apply refreshBad | with_reducible apply sideFault
    | (refine hG.hit 0x6030 0x6031 2 2 rfl ?_ ?_ ?_ ?_ ?_ <;> (first | omega | ((try simp only [quantIx, ctrIx, planIx, bankIndex, resIx, pllSide, instRecord, recordIndex]); omega) | (simp only [Bool.and_eq_true, decide_eq_true_eq] at *; omega)))
    | omega | split | (refine hG.hit 0x6030 0x6031 1 1 rfl ?_ ?_ ?_ ?_ ?_ <;> omega)
    | (refine hG.hit 0x6030 0x6031 2 2 rfl ?_ ?_ ?_ ?_ ?_ <;> omega)

theorem leaveLink {z0 z1 : State} {cls : Nat} {who : Nat} (hp_stacks : Part.stacks ∈ P) (hp_sharing : Part.sharing ∈ P) (hG : Cov G [⟨0x9010,
    0x901F, 3, 3⟩, ⟨0xA000, 0xA000, 1, 1⟩]) (h : Own P G z0 z1) : Own P G z0 (Machine.leaveLink cls who z1) := by
  refine h.step ?_
  clear h
  unfold Machine.leaveLink
  try dsimp only
  repeat' first
    | (exact hG.sub rfl) | (exact hG.item rfl) | with_reducible exact same _ | with_reducible assumption
    | with_reducible refine branch (fun hc => ?_) (fun hc => ?_) | with_reducible apply c5Done | with_reducible apply linkKick
    | with_reducible refine sharing_set (by assumption) ?_

theorem orderViolation {z0 z1 : State} {res : Nat} {cls : Nat} {who : Nat} (hp_sharing : Part.sharing ∈ P) (hp_out : Part.out ∈ P) (hp_stacks :
    Part.stacks ∈ P) (hG : Cov G [⟨0x9010, 0x901F, 3, 3⟩, ⟨0xA000, 0xA000, 1, 1⟩, ⟨0xA000, 0xA000, 2, 2⟩]) (h : Own P G z0 z1) : Own P G z0
    (Machine.orderViolation res cls who z1) := by
  refine h.step ?_
  clear h
  unfold Machine.orderViolation
  try dsimp only
  repeat' first
    | (exact hG.sub rfl) | (exact hG.item rfl) | with_reducible exact same _ | with_reducible assumption
    | with_reducible refine branch (fun hc => ?_) (fun hc => ?_) | with_reducible apply leaveLink | with_reducible apply incSat
    | with_reducible apply raise | with_reducible apply semFree | with_reducible apply setBitO | with_reducible refine forN ?_ (fun i v hi => ?_)
    | omega | split

theorem semRequest {z0 z1 : State} {n : Nat} {cls : Nat} {who : Nat} (hp_sharing : Part.sharing ∈ P) (hp_out : Part.out ∈ P) (h : Own P G z0 z1) :
    Own P G z0 (Machine.semRequest n cls who z1) := by
  refine h.step ?_
  clear h
  unfold Machine.semRequest
  try dsimp only
  repeat' first
    | with_reducible exact same _ | with_reducible assumption | with_reducible refine branch (fun hc => ?_) (fun hc => ?_)
    | with_reducible apply emit | with_reducible apply setSem | omega | split

theorem releaseSeen {z0 z1 : State} {d : Nat × Nat} (hp_net : Part.net ∈ P) (h : Own P G z0 z1) : Own P G z0 (Machine.releaseSeen d z1) := by
  refine h.step ?_
  clear h
  unfold Machine.releaseSeen
  try dsimp only
  repeat' first
    | with_reducible exact same _ | with_reducible refine net_set (by assumption) ?_

theorem ringBack {z0 z1 : State} {port : Nat} (hp_net : Part.net ∈ P) (hG : Cov G [⟨0x1020, 0x1020, 5, 5⟩]) (h : Own P G z0 z1) : Own P G z0
    (Machine.ringBack port z1) := by
  refine h.step ?_
  clear h
  unfold Machine.ringBack
  try dsimp only
  repeat' first
    | (exact hG.sub rfl) | (exact hG.item rfl)
    | with_reducible exact same _ | with_reducible assumption | with_reducible apply setBitO
    | with_reducible refine net_set (by assumption) ?_

theorem noteSeen {z0 z1 : State} {f : Frame} (hp_net : Part.net ∈ P) (h : Own P G z0 z1) : Own P G z0 (Machine.noteSeen f z1) := by
  refine h.step ?_
  clear h
  unfold Machine.noteSeen
  try dsimp only
  repeat' first
    | with_reducible exact same _ | with_reducible refine net_set (by assumption) ?_

theorem forwardFrame {z0 z1 : State} {port : Nat} {f : Frame} (hp_out : Part.out ∈ P) (hp_net : Part.net ∈ P) (h : Own P G z0 z1) : Own P G z0
    (Machine.forwardFrame port f z1) := by
  refine h.step ?_
  clear h
  unfold Machine.forwardFrame
  try dsimp only
  repeat' first
    | with_reducible exact same _ | with_reducible assumption | with_reducible refine branch (fun hc => ?_) (fun hc => ?_)
    | with_reducible apply takeLineTime | with_reducible apply countEvent | with_reducible apply emit
    | with_reducible refine foldl ?_ (fun v a ha => ?_)

theorem noteNode {z0 z1 : State} {port : Nat} {src : Nat} (hp_net : Part.net ∈ P) (h : Own P G z0 z1) : Own P G z0 (Machine.noteNode port src z1) := by
  refine h.step ?_
  clear h
  unfold Machine.noteNode
  try dsimp only
  repeat' first
    | with_reducible exact same _ | with_reducible assumption | with_reducible refine branch (fun hc => ?_) (fun hc => ?_) | omega | split
    | with_reducible refine net_set (by assumption) ?_

theorem countClocks {z0 z1 : State} {a : Nat} {b : Nat} (h : Own P G z0 z1) : Own P G z0 (Machine.countClocks a b z1) := by
  refine h.step ?_
  clear h
  unfold Machine.countClocks
  try dsimp only
  repeat' first
    | with_reducible exact same _ | with_reducible assumption | with_reducible refine branch (fun hc => ?_) (fun hc => ?_)
    | with_reducible apply countEvent | with_reducible apply countIf | omega | split

theorem dueTags {z0 z1 : State} {x : Side} (hp_graphs : Part.graphs ∈ P) (hp_scribe : Part.scribe ∈ P) (hG : Cov G [⟨0x8210, 0x8211, 6, 6⟩]) (h :
    Own P G z0 z1) : Own P G z0 (Machine.dueTags x z1) := by
  refine h.step ?_
  clear h
  unfold Machine.dueTags
  try dsimp only
  repeat' first
    | (exact hG.sub rfl) | (exact hG.item rfl) | with_reducible exact same _ | with_reducible assumption
    | with_reducible refine branch (fun hc => ?_) (fun hc => ?_) | with_reducible apply setGraph | with_reducible apply tagExecution
    | with_reducible refine foldl ?_ (fun v a ha => ?_) | split

theorem dueSills {z0 z1 : State} (hp_graphs : Part.graphs ∈ P) (hp_plate : Part.plate ∈ P) (hp_scribe : Part.scribe ∈ P) (hG : Cov G [⟨0x5140,
    0x515F, 2, 2⟩, ⟨0x8210, 0x8211, 6, 6⟩]) (h : Own P G z0 z1) : Own P G z0 (Machine.dueSills z1) := by
  refine h.step ?_
  clear h
  unfold Machine.dueSills
  try dsimp only
  repeat' first
    | (exact hG.sub rfl) | (exact hG.item rfl) | with_reducible exact same _ | with_reducible assumption | with_reducible apply dueTags
    | with_reducible apply dueCommits | with_reducible apply dueTorn | omega

theorem takeRef {z0 z1 : State} {c : Bool × Nat} (hG : Cov G [⟨0x7040, 0x7040, 2, 2⟩]) (h : Own P G z0 z1) : Own P G z0 (Machine.takeRef c z1) := by
  refine h.step ?_
  clear h
  unfold Machine.takeRef
  try dsimp only
  repeat' first
    | (exact hG.sub rfl) | (exact hG.item rfl) | with_reducible exact same _ | with_reducible assumption
    | with_reducible refine branch (fun hc => ?_) (fun hc => ?_) | with_reducible apply switchRef
    | with_reducible refine atRidge ?_ (fun v => ?_) | omega | split

theorem dueRefs {z0 z1 : State} {r : Nat} (hp_clock : Part.clock ∈ P) (hG : Cov G [⟨0x7040, 0x7040, 2, 2⟩]) (h : Own P G z0 z1) : Own P G z0 (Machine.dueRefs r
    z1) := by
  refine h.step ?_
  clear h
  unfold Machine.dueRefs
  try dsimp only
  repeat' first
    | (exact hG.sub rfl) | (exact hG.item rfl) | with_reducible exact same _ | with_reducible assumption | with_reducible apply takeRef
    | with_reducible refine foldl ?_ (fun v a ha => ?_) | omega | with_reducible refine clock_set (by assumption) ?_

theorem setWaits {z0 z1 : State} {x : Side} {v : Option Nat} (hp_clock : Part.clock ∈ P) (h : Own P G z0 z1) : Own P G z0 (Machine.State.setWaits z1
    x v) := by
  refine h.step ?_
  clear h
  have := sideIx_lt x
  unfold Machine.State.setWaits
  try dsimp only
  repeat' first
    | with_reducible exact same _ | with_reducible assumption | omega | split | with_reducible refine clock_set (by assumption) ?_

theorem dueTruss {z0 z1 : State} {x : Side} (hp_clock : Part.clock ∈ P) (hG : Cov G [⟨0x7050, 0x7050, 1, 1⟩, ⟨0x7100, 0x7104, 3, 3⟩]) (h : Own P G
    z0 z1) : Own P G z0 (Machine.dueTruss x z1) := by
  refine h.step ?_
  clear h
  have := sideIx_lt x
  unfold Machine.dueTruss
  try dsimp only
  repeat' first
    | (exact hG.sub rfl) | (exact hG.item rfl) | with_reducible exact same _ | with_reducible assumption
    | with_reducible refine branch (fun hc => ?_) (fun hc => ?_) | with_reducible apply pllOff | with_reducible apply setDeferred
    | with_reducible apply setWaits | omega | split

theorem takeSlot {z0 z1 : State} (hp_net : Part.net ∈ P) (hp_boot : Part.boot ∈ P) (hG : Cov G [⟨0x1000, 0x1000, 2, 2⟩, ⟨0xB000, 0xB000, 6, 6⟩,
    ⟨0xB000, 0xB000, 7, 7⟩, ⟨0xB200, 0xB200, 9, 9⟩, ⟨0xB200, 0xB200, 10, 10⟩]) (h : Own P G z0 z1) : Own P G z0 (Machine.takeSlot z1) := by
  refine h.step ?_
  clear h
  unfold Machine.takeSlot
  try dsimp only
  repeat' first
    | (exact hG.sub rfl) | (exact hG.item rfl) | with_reducible exact same _ | with_reducible assumption
    | with_reducible refine branch (fun hc => ?_) (fun hc => ?_) | with_reducible apply islandRestart | with_reducible apply raise
    | with_reducible apply setBitO | with_reducible apply setFld | with_reducible apply setNum | omega | split
    | with_reducible refine boot_set (by assumption) ?_

theorem dueSlot {z0 z1 : State} (hp_net : Part.net ∈ P) (hp_boot : Part.boot ∈ P) (hG : Cov G [⟨0x1000, 0x1000, 2, 2⟩, ⟨0xB000, 0xB000, 6, 6⟩,
    ⟨0xB000, 0xB000, 7, 7⟩, ⟨0xB200, 0xB200, 9, 9⟩, ⟨0xB200, 0xB200, 10, 10⟩]) (h : Own P G z0 z1) : Own P G z0 (Machine.dueSlot z1) := by
  refine h.step ?_
  clear h
  unfold Machine.dueSlot
  try dsimp only
  repeat' first
    | (exact hG.sub rfl) | (exact hG.item rfl) | with_reducible exact same _ | with_reducible assumption
    | with_reducible refine branch (fun hc => ?_) (fun hc => ?_) | with_reducible apply takeSlot
    | with_reducible refine atRidge ?_ (fun v => ?_) | omega | split | with_reducible refine boot_set (by assumption) ?_

theorem attemptEnds {z0 z1 : State} {x : Side} (hp_sides : Part.sides ∈ P) (hG : Cov G [⟨0x6021, 0x6021, 1, 1⟩]) (h : Own P G z0 z1) : Own P G z0
    (Machine.attemptEnds x z1) := by
  refine h.step ?_
  clear h
  have := sideIx_lt x
  unfold Machine.attemptEnds
  try dsimp only
  repeat' first
    | (exact hG.sub rfl) | (exact hG.item rfl) | with_reducible exact same _ | with_reducible assumption | with_reducible apply failAttempt
    | with_reducible apply raise | omega | split

theorem correctedError {z0 z1 : State} {side : Side} {loft : Bool} {addr : Nat} (hp_boot : Part.boot ∈ P) (hG : Cov G [⟨0x6030, 0x6031, 3, 3⟩,
    ⟨0x6030, 0x6031, 5, 5⟩]) (h : Own P G z0 z1) : Own P G z0 (Machine.correctedError side loft addr z1) := by
  refine h.step ?_
  clear h
  have := sideIx_lt side
  unfold Machine.correctedError
  cases loft
  all_goals dsimp only
  all_goals
    refine countIf (boot_set hp_boot (incSat ?_ (same _)))
    first
      | (refine hG.hit 0x6030 0x6031 3 3 rfl ?_ ?_ ?_ ?_ ?_ <;> first | omega | decide)
      | (refine hG.hit 0x6030 0x6031 5 5 rfl ?_ ?_ ?_ ?_ ?_ <;> first | omega | decide)

end Own
end Sys2Proof
end

