-- ==== Sys2Proof/Laws/Arrive.lean ====
section
/-!
SUPPORT. What the passing of time up to a command's instant moves, and a command's whole frame over it.
-/

set_option Elab.async false
set_option maxRecDepth 4000
set_option linter.unusedVariables false
namespace Sys2Proof
open Sys2Proof.Machine
variable {P : List Part} {G : List Objs}

/-- The parts that time alone moves. -/
def arriveParts : List Part := [.time, .meas, .graphs, .gf, .plate, .stacks, .sides, .safety, .sharing, .clock, .plls, .scribe, .net, .boot, .out]

/-- The objects that time alone writes. -/
def arriveObjs : List Objs :=
  [⟨0x1000, 0x1000, 2, 2⟩, ⟨0x2100, 0x213F, 4, 4⟩, ⟨0x2100, 0x213F, 11, 12⟩, ⟨0x2100, 0x213F, 16, 16⟩, ⟨0x2200, 0x227F, 131, 131⟩,
   ⟨0x2300, 0x2300, 2, 2⟩, ⟨0x5140, 0x515F, 2, 2⟩, ⟨0x6030, 0x6031, 1, 1⟩, ⟨0x7040, 0x7040, 2, 2⟩, ⟨0x7050, 0x7050, 1, 1⟩,
   ⟨0x7100, 0x7104, 3, 3⟩, ⟨0x8110, 0x814F, 1, 1⟩, ⟨0x8110, 0x814F, 4, 7⟩, ⟨0x8210, 0x8211, 6, 6⟩, ⟨0xA000, 0xA000, 1, 1⟩,
   ⟨0xA100, 0xA106, 4, 4⟩, ⟨0xB000, 0xB000, 6, 7⟩, ⟨0xB200, 0xB200, 9, 10⟩]

namespace Own

theorem clearQuantity {z0 z1 : State} {q : Nat} (hp : Part.scribe ∈ P) (hG : Cov G [⟨0x8110, 0x814F, 1, 1⟩, ⟨0x8110, 0x814F, 4, 7⟩]) (hq : q < 64)
    (h : Own P G z0 z1) : Own P G z0 (Machine.clearQuantity q z1) := by
  have k : ∀ j, 4 ≤ j → j ≤ 7 → Hit G (quantIx q) j := fun j _ _ =>
    hG.hit 0x8110 0x814F 4 7 rfl (by unfold quantIx; omega) (by unfold quantIx; omega) ‹_› ‹_› (by omega)
  have k1 : Hit G (quantIx q) 1 :=
    hG.hit 0x8110 0x814F 1 1 rfl (by unfold quantIx; omega) (by unfold quantIx; omega) (by decide) (by decide) (by decide)
  unfold Machine.clearQuantity
  exact scribe_set hp (setBitO k1 (setNum (k 7 (by decide) (by decide)) (setNum (k 6 (by decide) (by decide))
    (setBlob (k 5 (by decide) (by decide)) (setBlob (k 4 (by decide) (by decide)) h)))))

theorem dueClears {z0 z1 : State} {r : Nat} (hp : Part.scribe ∈ P) (hG : Cov G [⟨0x8110, 0x814F, 1, 1⟩, ⟨0x8110, 0x814F, 4, 7⟩])
    (h : Own P G z0 z1) : Own P G z0 (Machine.dueClears r z1) := by
  unfold Machine.dueClears applyClear
  exact foldl (scribe_set hp h) (fun v c _ => atRidge (same v) (fun v => fwNote (forMask (same v) (fun i v hi => clearQuantity hp hG hi (same v)))))

theorem applyCtr {z0 z1 : State} {c : Nat × Nat × Nat} (hp : Part.scribe ∈ P) (h : Own P G z0 z1) : Own P G z0 (Machine.applyCtr c z1) := by
  unfold Machine.applyCtr
  dsimp only
  refine atRidge h (fun v => ?_)
  split
  · exact fwNote (same v)
  · exact scribe_set hp (same v)
  · exact scribe_set hp (same v)
  · refine foldl (same v) (fun u i hi => ofEv (EvSame.setNum u _ _ _ (evKey_ctr ?_ (.inl rfl))))
    simp [ctrsOf] at hi; exact hi.1
  · refine branch (fun hc => ?_) (fun _ => same v)
    exact ofEv (EvSame.setNum v _ _ _ (evKey_ctr hc (.inl rfl)))

theorem passClocks {z0 z1 : State} {a b : Nat} (h : Own P G z0 z1) : Own P G z0 (Machine.passClocks a b z1) := by
  unfold Machine.passClocks
  refine branch (fun _ => countClocks h) (fun _ => countClocks ?_)
  have k : Own P G z0 (Machine.countClocks a (min b (z1.now / tickFs * tickFs - 1)) z1) := countClocks h
  exact ⟨⟨k.pending, k.now, k.time, k.meas, k.graphs, k.gf, k.plate, k.pairs, k.stk, k.sides, k.safety, k.sharing, k.ptp, k.clock,
    k.plls, k.capture, k.engine, k.scribe, k.net, k.reader, k.boot, k.out, k.free, k.val⟩, k.sound⟩

theorem dueCounters {z0 z1 : State} {t : Nat} (hp : Part.scribe ∈ P) (h : Own P G z0 z1) : Own P G z0 (Machine.dueCounters t z1) := by
  have k : ∀ (inst : Nat × Nat × Nat → Nat) (l : List (Nat × Nat × Nat)) (p : Nat × State), Own P G z0 p.2 →
      Own P G z0 (l.foldl (fun (p : Nat × State) c =>
        (max p.1 (inst c - 1), Machine.applyCtr c (Machine.passClocks p.1 (max p.1 (inst c - 1)) p.2))) p).2 := by
    intro inst l
    induction l with
    | nil => exact fun _ h => h
    | cons c l ih => exact fun p g => ih _ (applyCtr hp (passClocks g))
  unfold Machine.dueCounters
  exact passClocks (k _ _ (t, _) (scribe_set hp h))

theorem sendBeats {z0 z1 : State} {r : Nat} {x : Side} (hp : Part.sides ∈ P) (h : Own P G z0 z1) : Own P G z0 (Machine.sendBeats r x z1) := by
  unfold Machine.sendBeats
  exact branch (fun _ => setSideRt hp h) (fun _ => h)

theorem dueBad {z0 z1 : State} {old : Nat} {x : Side} (hp : Part.sides ∈ P) (hG : Cov G [⟨0x6030, 0x6031, 1, 1⟩]) (h : Own P G z0 z1) :
    Own P G z0 (Machine.dueBad old x z1) := refreshBadAt hp hG h

theorem passTime {z0 z1 : State} {t : Nat} (ht : Part.time ∈ P) (hs : Part.stacks ∈ P) (hp : Part.sides ∈ P)
    (hG : Cov G [⟨0x6030, 0x6031, 1, 1⟩]) (h : Own P G z0 z1) : Own P G z0 (z1.passTime t) :=
  dueBad hp hG (dueBad hp hG (sendBeats hp (sendBeats hp (driveStacks hs (advance ht h)))))

theorem dueFrozen {z0 z1 : State} (hp_meas : Part.meas ∈ P) (hp_gf : Part.gf ∈ P) (hp_plate : Part.plate ∈ P) (hG : Cov G [⟨0x2100, 0x213F, 11,
    11⟩]) (h : Own P G z0 z1) : Own P G z0 (Machine.dueFrozen z1) := by
  unfold Machine.dueFrozen
  exact forN h (fun i v hi => branch (fun _ => declareFeedback hp_meas hp_gf hp_plate hG hi (same v)) (fun _ => same v))

theorem noteSout {z0 z1 : State} (hp_safety : Part.safety ∈ P) (h : Own P G z0 z1) : Own P G z0 (Machine.noteSout z1) := safety_set hp_safety h

end Own

/-- Time up to an instant moves its own parts and objects alone. -/
theorem passed_own (s : State) (t : Nat) : Own arriveParts arriveObjs s (s.passed t) := by
  have c : Cov arriveObjs arriveObjs := by decide
  unfold State.passed dueSills
  dsimp only
  repeat' first
    | with_reducible apply Own.noteSout | with_reducible apply Own.dueFrozen | with_reducible apply Own.clkDue
    | with_reducible apply Own.dueTruss | with_reducible apply Own.dueSlot | with_reducible apply Own.dueTags | with_reducible apply Own.dueRefs
    | with_reducible apply Own.dueLink | with_reducible apply Own.dueSems | with_reducible apply Own.dueSlots
    | with_reducible apply Own.judgeAlign | with_reducible apply Own.sweepSwaps | with_reducible apply Own.dueTorn
    | with_reducible apply Own.dueCommits | with_reducible apply Own.dueClears | with_reducible apply Own.dueCounters
    | with_reducible apply Own.passTime | decide | exact c.sub rfl | with_reducible exact Own.same _
    | with_reducible refine Own.branch (fun _ => ?_) (fun _ => ?_)

theorem arrive_standing {s : State} {t : Nat} (h : Standing s t) : s.arrive t = ({ s with out := [] } : State).passed t := by
  unfold State.arrive
  dsimp only
  split
  · rename_i r e
    exact if_neg (Nat.not_le.mpr (h r e))
  · rfl

/-- Up to a command's instant, while no accepted RESTART falls due, what time moves is all that moves. -/
theorem arrive_own {s : State} {t : Nat} (h : Standing s t) : Own arriveParts arriveObjs s (s.arrive t) := by
  rw [arrive_standing h]
  exact (Own.out_set (by decide) (Own.same s)).step (passed_own _ t)

/-- Commands wait their turn whatever time brings. -/
theorem arrive_pending (s : State) (t : Nat) : (s.arrive t).pending = s.pending := by
  have k : ∀ (u : State) r, (u.passed r).pending = u.pending := fun u r => (passed_own u r).pending
  have e : (match ({ s with out := [] } : State).boot.restartAt with
      | some r => if r ≤ t then (powerState 2 true true (({ s with out := [] } : State).passed r)).passed t else ({ s with out := [] } : State).passed t
      | none => ({ s with out := [] } : State).passed t).pending = ({ s with out := [] } : State).pending := by
    generalize ({ s with out := [] } : State) = u
    split
    · split
      · rw [k]
        simp [powerState, k]
      · exact k u t
    · exact k u t
  exact e

/-- A command's frame, from its effect's. -/
theorem own_run {c : Instr} {s : State} {f : State → State} (h : c.wf = true → ∀ b, Own (.pairs :: P) G b (f b)) :
    ∀ s', run c f s = .next s' → Own (.pairs :: P) G (s.arrive c.time) s' := by
  intro s' hs
  simp only [run, Host.Outcome.next.injEq] at hs
  subst hs
  have k : Own (.pairs :: P) G (s.arrive c.time) ((if c.wf then f (s.arrive c.time) else s.arrive c.time).reportLate).settle := by
    refine Own.settle (by simp) (Own.reportLate ?_)
    split
    · rename_i hw; exact h hw _
    · exact Own.same _
  have hp : (s.arrive c.time).pending = s.pending := arrive_pending s c.time
  exact ⟨⟨hp.symm, k.now, k.time, k.meas, k.graphs, k.gf, k.plate, k.pairs, k.stk, k.sides, k.safety, k.sharing, k.ptp, k.clock,
    k.plls, k.capture, k.engine, k.scribe, k.net, k.reader, k.boot, k.out, k.free, k.val⟩, k.sound⟩

/-- A command's frame, and that it leaves the gates at the plate sound. -/
def OwnMoves (P : List Part) (G : List Objs) (s : State) (c : Instr) : Prop :=
  ∀ s', exec c s = .next s' → Own (.pairs :: P) G (s.arrive c.time) s'

theorem OwnMoves.moves {c : Instr} {s : State} (h : OwnMoves P G s c) : Moves P G s c := fun s' e => (h s' e).toOnly

theorem moves_run {c : Instr} {s : State} {f : State → State} (h : c.wf = true → ∀ b, Own (.pairs :: P) G b (f b)) :
    ∀ s', run c f s = .next s' → Only (.pairs :: P) G (s.arrive c.time) s' := fun s' hs => (own_run h s' hs).toOnly

end Sys2Proof
end

