-- ==== Sys2Proof/Laws/OnlyMessages.lean ====
section
/-!
SUPPORT. What messages move (R434 to R449): a message taken by its Type, a request of a session, a write by a reader.
-/

set_option Elab.async false
namespace Sys2Proof
open Sys2Proof.Machine
variable {P : List Part} {G : List Objs}
namespace Own

/-- A message processed at its own receipt moves what its processing moves; ridge time is then as it was. -/
theorem receive {z0 z1 : State} {m : Msg} (hp_net : Part.net ∈ P) (h : Own P G z0 z1) (ht : ∀ u, Own P G u (Machine.takeMessage m u).2) :
    Own P G z0 (Machine.receive m z1).2 := by
  refine h.step ?_
  have k := ht { z1 with ridge := max z1.ridge z1.net.nextReceipt,
                         net := { z1.net with nextReceipt := max z1.ridge z1.net.nextReceipt + z1.num 0x7000 2 } }
  refine ⟨⟨k.pending, k.now, fun e => ?_, k.meas, k.graphs, k.gf, k.plate, k.pairs, k.stk, k.sides, k.safety, k.sharing, k.ptp, k.clock, k.plls,
    k.capture, k.engine, k.scribe, fun e => absurd hp_net e, fun e => absurd hp_net e, k.boot, k.out, k.free, k.val⟩, k.sound⟩
  have q := k.time e
  unfold Machine.receive
  simp only at q ⊢
  rw [q]
  omega

/-- A message that waits, is discarded or is malformed moves only what messages move. -/
theorem messageIn {z0 z1 : State} {m : Msg} {frame : Option (Nat × Nat)} (hp_net : Part.net ∈ P) (hG : Cov G [⟨0x1030, 0x1030, 7, 7⟩])
    (h : Own P G z0 z1) (ht : ∀ u, Own P G u (Machine.takeMessage m u).2) : Own P G z0 (Machine.messageIn m frame z1).2 := by
  refine h.step ?_
  unfold Machine.messageIn
  refine branch2 (fun _ => same _) (fun _ => branch2 (fun _ => branch2 (fun _ => net_set hp_net (same _)) (fun _ => secInc hG (same _)))
    (fun _ => receive hp_net (same _) ht))

theorem typedIn {z0 z1 : State} {k : Nat} {m : Msg} (hp_net : Part.net ∈ P) (hG : Cov G [⟨0x1030, 0x1030, 7, 7⟩]) (h : Own P G z0 z1)
    (ht : mType m = k → ∀ u, Own P G u (match k with
      | 1 => (false, Machine.answerBare m (identifyBody u) u)
      | 2 => (false, Machine.takeKeyLoad m u)
      | 3 => Machine.takeOpen m u
      | _ => if keysLoaded u then takeSession m u else if m.path = 1 then (false, serve m ⟨0, 0xFF, none⟩ 0 u) else (false, u)).2) :
    Own P G z0 (Machine.typedIn k m z1) := by
  unfold Machine.typedIn
  refine branch (fun hk => messageIn hp_net hG h (fun u => ?_)) (fun _ => h)
  unfold takeMessage
  refine branch2 (fun _ => same _) (fun _ => branch2 (fun _ => secInc hG (same _)) (fun _ => ?_))
  have q := ht hk u
  rw [hk]; exact q

theorem takeSession {z : State} {m : Msg} (hp_capture : Part.capture ∈ P) (hp_net : Part.net ∈ P) (hG : Cov G [⟨0x1030, 0x1030, 7, 7⟩])
    (hs : ∀ w n u, Own P G u (serve m w n u)) : Own P G z (Machine.takeSession m z).2 := by
  unfold Machine.takeSession
  split
  · exact authFail hp_capture hp_net hG (same _)
  · exact branch2 (fun _ => authFail hp_capture hp_net hG (same _)) (fun _ => branch2 (fun _ => replayFail hp_capture hp_net hG (same _))
      (fun _ => (net_set hp_net (same _)).step (hs _ _ _)))

/-- What a request of a session moves, its effect known. -/
theorem typedServe {z0 z1 : State} {k : Nat} {m : Msg} (hk : 4 ≤ k) (hp_capture : Part.capture ∈ P) (hp_net : Part.net ∈ P) (hG : Cov G [⟨0x1030, 0x1030, 7, 7⟩]) (h : Own P G z0 z1)
    (hs : mType m = k → ∀ w n u, Own P G u (serve m w n u)) : Own P G z0 (Machine.typedIn k m z1) := by
  refine typedIn hp_net hG h (fun e _ => ?_)
  obtain ⟨k, rfl⟩ : ∃ j, k = j + 4 := ⟨k - 4, by omega⟩
  exact branch2 (fun _ => takeSession hp_capture hp_net hG (hs e)) (fun _ => branch2 (fun _ => hs e _ _ _) (fun _ => same _))

theorem serveClose {z : State} {m : Msg} {w : Sender} {n : Nat} (e : mType m = 4) (hp_capture : Part.capture ∈ P) (hp_net : Part.net ∈ P) (hp_out : Part.out ∈ P) :
    Own P G z (serve m w n z) := by
  unfold serve; rw [e]
  exact closeSession hp_capture hp_net (answer hp_net hp_out (same _))
theorem serveRead {z : State} {m : Msg} {w : Sender} {n : Nat} (e : mType m = 5) (hp_graphs : Part.graphs ∈ P) (hp_capture : Part.capture ∈ P) (hp_net : Part.net ∈ P) (hp_out : Part.out ∈ P) :
    Own P G z (serve m w n z) := by
  unfold serve; rw [e]
  exact answer hp_net hp_out (readItems hp_graphs hp_capture hp_net (same _))
theorem serveKeep {z : State} {m : Msg} {w : Sender} {n : Nat} (e : mType m = 7) (hp_net : Part.net ∈ P) (hp_out : Part.out ∈ P) :
    Own P G z (serve m w n z) := by
  unfold serve; rw [e]
  exact answer hp_net hp_out (same _)

/-- A write by a reader moves what the write moves, and answers. -/
theorem writeBy {z0 z1 : State} {r : Nat} {f : Sender → State → Nat × State} (hp_out : Part.out ∈ P) (h : Own P G z0 z1)
    (hf : ∀ w u, Own P G u (f w u).2) : Own P G z0 (Machine.writeBy r f z1) := by
  unfold Machine.writeBy
  refine branch (fun _ => h) (fun _ => ?_)
  split
  · exact h
  · exact emit hp_out (h.step (hf _ _))
theorem setCommandBy {f : Sender → State → Nat × State} {w : Sender} {u : State} (hf : ∀ w u, Own P G u (f w u).2) : Own P G u (Machine.setCommandBy f w u).2 := by
  unfold Machine.setCommandBy
  exact branch2 (fun _ => same _) (fun _ => hf _ _)

/-- A COMMIT by a reader moves what the commit moves, notes who waits, or answers. -/
theorem commitBy {z0 z1 : State} {r : Nat} (hp_net : Part.net ∈ P) (hp_out : Part.out ∈ P) (h : Own P G z0 z1)
    (hf : ∀ w u, Own P G u (Machine.commitSet w u).2) : Own P G z0 (Machine.commitBy r z1) := by
  unfold Machine.commitBy
  refine branch (fun _ => h) (fun _ => ?_)
  split
  · exact h
  · exact branch (fun _ => modSet hp_net (h.step (setCommandBy hf))) (fun _ => emit hp_out (h.step (setCommandBy hf)))

theorem writeCfg {z : State} {w : Sender} {k : Nat} {l : List Nat} (hk : kindOf k = .cfg) (hp_net : Part.net ∈ P) : Own P G z (writeObj w k l z).2 := by
  unfold writeObj
  dsimp only
  unfold kindOf at hk
  split
  · exact same _
  · rename_i o ho
    rw [ho] at hk
    refine branch2 (fun _ => same _) (fun _ => branch2 (fun _ => same _) (fun _ => ?_))
    unfold writeChecked
    dsimp only at hk ⊢
    rw [hk]
    exact stage hp_net (same _)
end Own
end Sys2Proof
end

