-- ==== Sys2Proof/Laws/Sound.lean ====
section
/-!
SUPPORT. Host writes, messages, frames and a commit, the operations that can reach any object: they leave the gates at the plate sound
(R228), and time and the queue as they are.
-/

set_option Elab.async false
namespace Sys2Proof
open Sys2Proof.Machine

/-- Every part but time, and every object. -/
abbrev allParts : List Part := [.meas, .graphs, .gf, .plate, .pairs, .stacks, .sides, .safety, .sharing, .ptp, .clock, .plls, .capture,
  .scribe, .net, .boot, .out, .free]
abbrev allObjs : List Objs := [⟨0, 65535, 0, 255⟩]

/-- An operation that may move anything but time leaves the gates sound. -/
abbrev Any (s s' : State) : Prop := Own allParts allObjs s s'

namespace Own
theorem hit_any {i j : Nat} (h : i * 256 + j < 2 ^ 24) : Hit allObjs i j := by
  simp only [Hit, Objs.has, List.any_cons, List.any_nil, Bool.or_false, Bool.and_eq_true, decide_eq_true_eq]; omega
theorem any_clearFlags {i j v m : Nat} {s : State} (h : i * 256 + j < 2 ^ 24) : Any s (clearFlags i j v m s) := setNum (hit_any h) (same _)
theorem any_refSwitch {v : Nat} {s : State} : Any s (Machine.refSwitch v s) := by apply refSwitch <;> first | decide | exact same _
theorem any_switchSlot {s : State} : Any s (Machine.switchSlot s) := by apply switchSlot <;> first | decide | exact same _
theorem any_imageCommand {v : Nat} {s : State} : Any s (imageCommand v s) := by
  unfold imageCommand
  refine branch (fun _ => ?_) (fun _ => branch (fun _ => any_switchSlot) (fun _ => branch (fun _ => ?_) (fun _ => same _)))
  · apply verifySlot <;> first | decide | exact same _
  · apply discardSlot <;> first | decide | exact same _
theorem any_commandWrite {w : Sender} {i j v : Nat} {b : List Nat} {s : State} (hj : j < 256) : Any s (commandWrite w i j v b s) := by
  unfold commandWrite
  repeat' first
    | with_reducible exact same _ | with_reducible exact any_refSwitch | with_reducible exact any_imageCommand
    | with_reducible refine branch (fun hc => ?_) (fun hc => ?_)
    | with_reducible apply countClear | with_reducible apply bankSwap | with_reducible apply sweepSwaps | with_reducible apply syncWrite
    | with_reducible apply switchRequest | with_reducible apply swapRequest | with_reducible apply stampCommand | with_reducible apply gfCommandWrite
    | with_reducible apply updateCommitWrite | with_reducible apply carrierStartWrite | with_reducible apply carrierStopWrite | with_reducible apply tripRelease
    | with_reducible apply enterCommission | with_reducible apply leaveCommission | with_reducible apply sideCommand | with_reducible apply requestStep
    | with_reducible apply confirmPath | with_reducible apply clkCommand | with_reducible apply captureCommandWrite | with_reducible apply seedHours
    | with_reducible apply seedCycles | with_reducible apply scribeNote | with_reducible apply histogramClear | with_reducible apply counterCommandWrite
    | with_reducible apply stackCommandWrite | with_reducible apply bootCommandWrite | with_reducible apply writePart
    | decide | omega | (simp only [inR, Bool.and_eq_true, decide_eq_true_eq] at *; omega)
end Own

/-- An operation leaves the gates at the plate sound, and time and the queue as they are. -/
structure Snd (s s' : State) : Prop where
  sound : PlateSound s → PlateSound s'
  now : s'.now = s.now
  ridge : s'.ridge = s.ridge
  pending : s'.pending = s.pending

theorem Own.snd {s s' : State} (h : Any s s') : Snd s s' := ⟨h.sound, h.now (by decide), h.time (by decide), h.pending⟩

namespace Snd
theorem same (s : State) : Snd s s := ⟨fun h => h, rfl, rfl, rfl⟩
theorem num {s u : State} {i j v : Nat} (h : Snd s u) : Snd s (u.setNum i j v) := ⟨h.sound, h.now, h.ridge, h.pending⟩
theorem blob {s u : State} {i j : Nat} {v : List Nat} (h : Snd s u) : Snd s (u.setBlob i j v) := ⟨h.sound, h.now, h.ridge, h.pending⟩
theorem trans {a b c : State} (h : Snd a b) (g : Snd b c) : Snd a c :=
  ⟨fun k => g.sound (h.sound k), g.now.trans h.now, g.ridge.trans h.ridge, g.pending.trans h.pending⟩
theorem br {s a b : State} {c : Prop} [Decidable c] (ha : c → Snd s a) (hb : ¬ c → Snd s b) : Snd s (if c then a else b) := by
  split <;> first | exact ha ‹_› | exact hb ‹_›
theorem br2 {α : Type} {s : State} {a b : α × State} {c : Prop} [Decidable c] (ha : c → Snd s a.2) (hb : ¬ c → Snd s b.2) :
    Snd s (if c then a else b).2 := by
  split <;> first | exact ha ‹_› | exact hb ‹_›
theorem foldl {α : Type} {l : List α} {f : State → α → State} (hf : ∀ v a, Snd v (f v a)) : ∀ {s}, Snd s (l.foldl f s) := by
  induction l with
  | nil => exact same _
  | cons a l ih => exact (hf _ _).trans ih
theorem cmd {w : Sender} {i j v : Nat} {b : List Nat} {s : State} (hj : j < 256) : Snd s (commandWrite w i j v b s) := (Own.any_commandWrite hj).snd
theorem immW {i j v : Nat} {b : List Nat} {o : ObjRow} {s : State} : Snd s (immWrite i j v b o s) := by
  unfold immWrite
  repeat' first
    | with_reducible refine br (fun hc => ?_) (fun hc => ?_)
    | exact num (num (same _))
    | with_reducible apply Own.snd
    | with_reducible exact by apply Own.pendingClear <;> first | decide | assumption | exact Own.same _
    | with_reducible exact by apply Own.shadowWriteOp <;> first | decide | assumption | exact Own.same _
    | with_reducible exact by apply Own.overrideWrite <;> first | decide | assumption | exact Own.same _
    | with_reducible exact by apply Own.writeSout <;> first | decide | assumption | exact Own.same _
    | with_reducible exact by apply Own.writeIncrement <;> first | decide | assumption | exact Own.same _
    | with_reducible exact by apply Own.writeUtcOffset <;> first | decide | assumption | exact Own.same _
    | with_reducible exact by apply Own.stampCounter <;> first | decide | assumption | exact Own.same _
    | (refine Own.disableWrite (by decide) (by decide) ?_ (Own.same _); simp only [Bool.and_eq_true, decide_eq_true_eq] at hc; omega)
    | (refine Own.writeTimeValid (by decide) (by decide) (Own.any_clearFlags ?_); simp only [Bool.and_eq_true, decide_eq_true_eq, beq_iff_eq] at hc; omega)
theorem writeChecked {w : Sender} {k : Nat} {o : ObjRow} {l : List Nat} {s : State} : Snd s (writeChecked w k o l s).2 := by
  unfold Machine.writeChecked
  dsimp only
  split
  · exact same _
  · refine br2 (fun _ => ?_) (fun _ => cmd (by omega))
    unfold Machine.setCommand
    split
    · exact Own.snd (by apply Own.beginSet <;> first | decide | assumption | exact Own.same _)
    · exact Own.snd (by apply Own.commitSet <;> first | decide | assumption | exact Own.same _)
    · exact Own.snd (by apply Own.abortSet <;> first | decide | assumption | exact Own.same _)
  · exact br2 (fun _ => Own.snd (by apply Own.immRefused <;> first | decide | assumption | exact Own.same _)) (fun _ => immW)
  · exact Own.snd (by apply Own.perWrite <;> first | decide | assumption | exact Own.same _)
  · exact Own.snd (by apply Own.stage <;> first | decide | assumption | exact Own.same _)
theorem writeObj {w : Sender} {k : Nat} {l : List Nat} {s : State} : Snd s (writeObj w k l s).2 := by
  unfold Machine.writeObj
  dsimp only
  split
  · exact same _
  · exact br2 (fun _ => same _) (fun _ => br2 (fun _ => same _) (fun _ => writeChecked))
theorem putSeg {r k : Nat} {q : Option SegWrite} {s : State} : Snd s (putSeg r k q s) := Own.snd (by apply Own.putSeg <;> first | decide | assumption | exact Own.same _)
theorem writeSegment {w : Sender} {k a b n : Nat} {o : ObjRow} {l : List Nat} {s : State} : Snd s (writeSegment w k a b n o l s).2 := by
  unfold Machine.writeSegment
  have drop : ∀ {q} {n : Nat}, Snd s (n, Machine.putSeg w.reader k q s).2 := fun {_ _} => putSeg (s := s)
  dsimp only
  split
  · exact drop
  · refine br2 (fun _ => drop) (fun _ => br2 (fun _ => drop) (fun _ => br2 (fun _ => putSeg.trans writeChecked) (fun _ => ?_)))
    exact Own.snd (Own.modSet (by decide) (by apply Own.putSeg <;> first | decide | assumption | exact Own.same _))
theorem writeItem {w : Sender} {k a n : Nat} {l : List Nat} {s : State} : Snd s (writeItem w k a n l s).2 := by
  unfold Machine.writeItem
  dsimp only
  split
  · exact same _
  · exact br2 (fun _ => same _) (fun _ => br2 (fun _ => same _) (fun _ => br2 (fun _ => writeObj) (fun _ => writeSegment)))
theorem writeItems {w : Sender} {l : List Item} : ∀ {n : Nat} {s : State}, Snd s (writeItems w l n s).2.2 := by
  induction l with
  | nil => exact same _
  | cons q l ih => intro n s; exact writeItem.trans ih
theorem serve {m : Msg} {w : Sender} {n : Nat} {s : State} : Snd s (serve m w n s) := by
  unfold Machine.serve
  dsimp only
  split
  · exact Own.snd (Own.closeSession (by decide) (by decide) (by apply Own.answer <;> first | decide | assumption | exact Own.same _))
  · exact Own.snd (Own.answer (by decide) (by decide) (by apply Own.readItems <;> first | decide | assumption | exact Own.same _))
  · split
    · exact writeItems.trans (Own.snd (by apply Own.modSet <;> first | decide | assumption | exact Own.same _))
    · exact writeItems.trans (Own.snd (by apply Own.answer <;> first | decide | assumption | exact Own.same _))
  · exact Own.snd (by apply Own.answer <;> first | decide | assumption | exact Own.same _)
  · exact same _
theorem takeSession {m : Msg} {s : State} : Snd s (takeSession m s).2 := by
  unfold Machine.takeSession
  split
  · exact Own.snd (by apply Own.authFail <;> first | decide | assumption | exact Own.same _)
  · refine br2 (fun _ => Own.snd (by apply Own.authFail <;> first | decide | assumption | exact Own.same _)) (fun _ => br2 (fun _ => Own.snd (by apply Own.replayFail <;> first | decide | assumption | exact Own.same _)) (fun _ => ?_))
    rename_i ses _ _ _
    have h0 : Snd s { s with net := { s.net with sessions := Store.put Session.init (mSid m) (takeSeq s.now (mSeq m) ses) s.net.sessions } } := ⟨fun k => k, rfl, rfl, rfl⟩
    exact h0.trans serve
theorem takeMessage {m : Msg} {s : State} : Snd s (takeMessage m s).2 := by
  unfold Machine.takeMessage
  refine br2 (fun _ => same _) (fun _ => br2 (fun _ => Own.snd (by apply Own.secInc <;> first | decide | assumption | exact Own.same _)) (fun _ => ?_))
  split
  · exact Own.snd (by apply Own.answerBare <;> first | decide | assumption | exact Own.same _)
  · exact Own.snd (by apply Own.takeKeyLoad <;> first | decide | assumption | exact Own.same _)
  · exact Own.snd (by apply Own.takeOpen <;> first | decide | assumption | exact Own.same _)
  · exact br2 (fun _ => takeSession) (fun _ => br2 (fun _ => serve) (fun _ => same _))
theorem receive {m : Msg} {s : State} : Snd s (receive m s).2 := by
  have k : ∀ u, Snd u (Machine.takeMessage m u).2 := fun _ => takeMessage
  have q := k { s with ridge := max s.ridge s.net.nextReceipt, net := { s.net with nextReceipt := max s.ridge s.net.nextReceipt + s.num 0x7000 2 } }
  refine ⟨q.sound, q.now, ?_, q.pending⟩
  have e := q.ridge
  unfold Machine.receive
  simp only at e ⊢
  rw [e]
  omega
theorem messageIn {m : Msg} {d : Option (Nat × Nat)} {s : State} : Snd s (messageIn m d s).2 := by
  unfold Machine.messageIn
  refine br2 (fun _ => same _) (fun _ => br2 (fun _ => br2 (fun _ => ⟨fun k => k, rfl, rfl, rfl⟩) (fun _ => Own.snd (by apply Own.secInc <;> first | decide | assumption | exact Own.same _)))
    (fun _ => receive))
theorem messageOf {m : Msg} {d : Option (Nat × Nat)} {s : State} : Snd s (messageOf m d s) := by
  unfold Machine.messageOf
  dsimp only
  split
  · exact br (fun _ => messageIn.trans (Own.snd (by apply Own.releaseSeen <;> first | decide | assumption | exact Own.same _))) (fun _ => messageIn)
  · exact messageIn
theorem deliverFrame {n : Nat} {f : Frame} {d : Option (Nat × Nat)} {s : State} : Snd s (deliverFrame n f d s) := by
  unfold Machine.deliverFrame
  refine br (fun _ => same _) (fun _ => ?_)
  split
  · exact messageOf
  · exact same _
theorem deliverOnce {n : Nat} {f : Frame} {s : State} : Snd s (deliverOnce n f s) := deliverFrame
theorem takePrp {n : Nat} {f : Frame} {s : State} : Snd s (takePrp n f s) := by
  unfold Machine.takePrp
  dsimp only
  have h0 : Snd s ((noteNode n f.src s).setBitO 0x1020 5 (lanBit n) false) := Own.snd (Own.setBitO (by decide) (by apply Own.noteNode <;> first | decide | assumption | exact Own.same _))
  refine br (fun _ => same _) (fun _ => br (fun _ => br (fun _ => deliverFrame) (fun _ => same _)) (fun _ => br (fun _ => ?_) (fun _ => br (fun _ => ?_) (fun _ => ?_))))
  · exact h0.trans (Own.snd (by apply Own.secInc <;> first | decide | assumption | exact Own.same _))
  · exact h0.trans (trans (Own.snd (by apply Own.noteSeen <;> first | decide | assumption | exact Own.same _)) deliverOnce)
  · exact h0.trans (Own.snd (by apply Own.noteSeen <;> first | decide | assumption | exact Own.same _))
theorem takeHsr {n : Nat} {f : Frame} {s : State} : Snd s (takeHsr n f s) := by
  unfold Machine.takeHsr
  dsimp only
  have h0 : Snd s (if (f.tagged && f.fcsOk) = true then noteSeen f s else s) := br (fun _ => Own.snd (by apply Own.noteSeen <;> first | decide | assumption | exact Own.same _)) (fun _ => same _)
  have hf : ∀ u, Snd u (forwardFrame n f u) := fun u => Own.snd (by apply Own.forwardFrame <;> first | decide | assumption | exact Own.same _)
  refine br (fun _ => br (fun _ => Own.snd (by apply Own.ringBack <;> first | decide | assumption | exact Own.same _)) (fun _ => same _)) (fun _ => br (fun _ => same _) (fun _ => br (fun _ => ?_) (fun _ => br (fun _ => ?_) (fun _ => h0.trans (hf _)))))
  · exact br (fun _ => h0.trans deliverOnce) (fun _ => h0)
  · exact br (fun _ => (h0.trans (hf _)).trans deliverOnce) (fun _ => h0.trans (hf _))
theorem applyValue {k : Nat} {v : Val} {s : State} : Snd s (applyValue k v s) := by
  unfold Machine.applyValue
  split <;> exact ⟨fun h => h, rfl, rfl, rfl⟩
theorem applyStaged {l : Store Val} {s : State} : Snd s (applyStaged l s) := foldl (fun _ _ => applyValue)
theorem shr {s u : State} {v : Sharing} (h : Snd s u) : Snd s { u with sharing := v } := ⟨h.sound, h.now, h.ridge, h.pending⟩
theorem commitSharing {c : Cand} {s : State} : Snd s (commitSharing c s) := by
  unfold Machine.commitSharing
  extract_lets old u
  refine num ?_
  clear_value old
  exact br (fun _ => shr (foldl (fun _ _ => num (blob (same _))))) (fun _ => same _)
theorem commitScribe {c : Cand} {s : State} : Snd s (commitScribe c s) := by
  unfold Machine.commitScribe
  have h0 : ∀ u a, a < 64 → Any u (commitQuantity c a u) := by
    intro u a ha
    unfold commitQuantity
    extract_lets i v due
    have hv : Any u v := Own.branch (fun _ => by apply Own.clearQuantity <;> first | decide | assumption | exact Own.same _) (fun _ => Own.same _)
    exact Own.branch (fun _ => Own.scribe_set (by decide) hv) (fun _ => hv)
  have h1 : Snd s (if c.wr 0x8110 0x814F then forN 64 (commitQuantity c) s else s) :=
    br (fun _ => Own.snd (Own.forN (Own.same _) (fun a v ha => h0 v a ha))) (fun _ => same _)
  dsimp only
  generalize (if c.wr 0x8110 0x814F then forN 64 (commitQuantity c) s else s) = w at h1
  have h2 : Snd s (commitTags c (commitBuckets c w)) := h1.trans (Own.snd (Own.commitTags (by decide) (by decide) (by apply Own.commitBuckets <;> first | decide | assumption | exact Own.same _)))
  generalize commitTags c (commitBuckets c w) = z at h2
  exact br (fun _ => ⟨h2.sound, h2.now, h2.ridge, h2.pending⟩) (fun _ => h2)
theorem effects {c : Cand} {s : State} : Snd s (effects c s) := by
  unfold Machine.effects
  have h1 : ∀ u, Snd u (commitMeasurement c u) := fun u => Own.snd (by apply Own.commitMeasurement <;> first | decide | assumption | exact Own.same _)
  have h2 : ∀ u k, k < 2 → Snd u (commitSlot c k u) := fun u k hk => Own.snd (by apply Own.commitSlot <;> first | decide | assumption | exact Own.same _)
  have h3 : ∀ u, Snd u (if c.wr 0x4000 0x4000 then commitBases u else u) := fun u => br (fun _ => Own.snd (by apply Own.commitBases <;> first | decide | assumption | exact Own.same _)) (fun _ => same _)
  have h4 : ∀ u, Snd u (forN 8 (commitPeriod c) u) := fun u => foldl (fun v a => Own.snd (by apply Own.commitPeriod <;> first | decide | assumption | exact Own.same _))
  have h5 : ∀ u, Snd u (commitFaultIn c u) := fun u => Own.snd (by apply Own.commitFaultIn <;> first | decide | assumption | exact Own.same _)
  have h6 : ∀ u, Snd u (commitStacks c u) := fun u => Own.snd (by apply Own.commitStacks <;> first | decide | assumption | exact Own.same _)
  have h7 : ∀ u, Snd u (commitSides c u) := fun u => Own.snd (by apply Own.commitSides <;> first | decide | exact Own.same _)
  have h8 : ∀ u, Snd u (commitTime c u) := fun u => Own.snd (by apply Own.commitTime <;> first | decide | assumption | exact Own.same _)
  have h9 : ∀ u, Snd u (commitClocks c u) := fun u => Own.snd (by apply Own.commitClocks <;> first | decide | assumption | exact Own.same _)
  have h10 : ∀ u, Snd u (commitCapture c u) := fun u => Own.snd (by apply Own.commitCapture <;> first | decide | assumption | exact Own.same _)
  have h11 : ∀ u, Snd u (commitRoutes c u) := fun u => Own.snd (by apply Own.commitRoutes <;> first | decide | assumption | exact Own.same _)
  refine trans (h1 s) (trans (h2 _ 0 (by decide)) (trans (h2 _ 1 (by decide)) (trans (h3 _) (trans (h4 _) (trans (h5 _) (trans (h6 _)
    (trans (h7 _) (trans commitSharing (trans (h8 _) (trans (h9 _) (trans (h10 _) (trans commitScribe (h11 _)))))))))))))
theorem takeSetEffect {o : OpenSet} {c : Cand} {s : State} : Snd s (takeSetEffect o c s) := by
  unfold Machine.takeSetEffect
  dsimp only
  refine trans (b := Machine.effects c (Machine.applyStaged o.staged s)) (trans applyStaged effects) ?_
  generalize Machine.effects c (Machine.applyStaged o.staged s) = u
  refine Own.snd (Own.closeRoles (by decide) (by decide) (Own.replyCommit (by decide) (by decide) (Own.fwNote (Own.raise (Own.setNum (by decide) (Own.setBlob (by decide) (Own.setNum (by decide) (Own.setNum (by decide) (by apply Own.net_set <;> first | decide | assumption | exact Own.same _)))))))))
theorem completeCommit {s : State} : Snd s (completeCommit s) := by
  unfold Machine.completeCommit
  dsimp only
  split
  · exact same _
  · refine br (fun _ => same _) (fun _ => ?_)
    split
    · exact Own.snd (by apply Own.rejectSet <;> first | decide | assumption | exact Own.same _)
    · exact takeSetEffect
end Snd

/-- No pair is driven at power good. -/
theorem sound_powerState {c : Nat} {a b : Bool} {s : State} : PlateSound (Machine.powerState c a b s) := by
  unfold Machine.powerState
  intro e he
  have h : e ∈ ([] : Store PlatePair) := he
  cases h

/-- Time up to a command's instant leaves the gates sound, an accepted RESTART among what it brings. -/
theorem sound_arrive (s : State) (t : Nat) (h : PlateSound s) : PlateSound (s.arrive t) := by
  have k : ∀ u r, PlateSound u → PlateSound (u.passed r) := fun u r => (passed_own u r).sound
  have g : ∀ u : State, PlateSound u → PlateSound (match u.boot.restartAt with
      | some r => if r ≤ t then (Machine.powerState 2 true true (u.passed r)).passed t else u.passed t
      | none => u.passed t) := by
    intro u hu
    split
    · split
      · exact k _ t sound_powerState
      · exact k u t hu
    · exact k u t hu
  exact g { s with out := [] } h
end Sys2Proof
end

