-- ==== Sys2Proof/Laws/Boot.lean ====
section
/-!
SUPPORT. What an operation keeps of one object, from what it may write; what an entry into a grid-forming state leaves; what bringing spares
into service writes, what the usability of a side rests on, and the sides at READY.
-/

set_option Elab.async false
namespace Sys2Proof
open Sys2Proof.Machine

/-- An operation keeps every object outside those it may write. -/
theorem Own.numKept {P : List Part} {G : List Objs} {s s' : State} (h : Own P G s s') (i j : Nat) (e : evKey (i * 256 + j) = false)
    (g : G.any (·.has (i * 256 + j)) = false) : s'.num i j = s.num i j := by
  simp only [State.num, h.val _ e g]
theorem Own.blobKept {P : List Part} {G : List Objs} {s s' : State} (h : Own P G s s') (i j : Nat) (e : evKey (i * 256 + j) = false)
    (g : G.any (·.has (i * 256 + j)) = false) : s'.blob i j = s.blob i j := by
  simp only [State.blob, h.val _ e g]

/-- Every object but those at one index. -/
abbrev outside (i : Nat) : List Objs := [⟨0, i - 1, 0, 255⟩, ⟨i + 1, 65535, 0, 255⟩]

/-- An operation that writes no object at one index keeps the objects there. -/
theorem Own.kept {P : List Part} {s s' : State} {i : Nat} (h : Own P (outside i) s s') (j : Nat) (e : evKey (i * 256 + j) = false)
    (g : (outside i).any (·.has (i * 256 + j)) = false) : s'.num i j = s.num i j := h.numKept i j e g
end Sys2Proof

namespace Sys2Proof.Machine

section
variable (s : State)

/-- The word of the grid-forming state after an entry: the cause, the state left and the state entered. -/
theorem num_enterGf (dst cause : Nat) :
    ∃ w, (enterGf dst cause s).num 0x4001 3 = (cause <<< 12 ||| s.gfState <<< 8 ||| (w % 256 / 16 * 16) ||| dst) % 2 ^ 16 := by
  have v : ∀ u : State, (sourcesAtOnce u).num 0x4001 3 = u.num 0x4001 3 := fun u => Own.kept (P := allParts) (i := 0x4001) (by apply Own.sourcesAtOnce <;> first | decide | assumption | exact Own.same _) 3 rfl rfl
  have q : ∀ u : State, (queueAllLife u).num 0x4001 3 = u.num 0x4001 3 := fun u => Own.kept (P := allParts) (i := 0x4001) (by apply Own.queueAllLife <;> first | decide | assumption | exact Own.same _) 3 rfl rfl
  have o : ∀ u : State, (onSafeStop u).num 0x4001 3 = u.num 0x4001 3 := by
    intro u
    simp only [onSafeStop, q]
    split <;> simp [clearPermit, setPermits, discardTests]
  have z : sizeOf 0x4001 3 = 2 := by decide
  simp only [enterGf]
  rw [num_raise _ _ _ _ _ _ _ (by decide), v]
  split
  · rw [o]; simp only [num_mk, odNum_od, State.num_setNum, z]; exact ⟨_, rfl⟩
  · simp only [num_mk, odNum_od, State.num_setNum, z]; exact ⟨_, rfl⟩

theorem gfWord_bits (c o w d : Nat) (hd : d < 16) (ho : o < 16) (hc : c < 16) :
    bits ((c <<< 12 ||| o <<< 8 ||| (w % 256 / 16 * 16) ||| d) % 2 ^ 16) 3 0 = d ∧
    bits ((c <<< 12 ||| o <<< 8 ||| (w % 256 / 16 * 16) ||| d) % 2 ^ 16) 11 8 = o ∧
    bits ((c <<< 12 ||| o <<< 8 ||| (w % 256 / 16 * 16) ||| d) % 2 ^ 16) 15 12 = c := by
  have hm : w % 256 / 16 * 16 = (w % 256 / 16) <<< 4 := by simp [Nat.shiftLeft_eq]
  have hw : w % 256 / 16 < 2 ^ 4 := by omega
  have t : ∀ (n m j : Nat), n < 2 ^ m → m ≤ j → n.testBit j = false := fun n m j h1 h2 =>
    Nat.testBit_lt_two_pow (Nat.lt_of_lt_of_le h1 (Nat.pow_le_pow_right (by decide) h2))
  rw [hm]
  refine ⟨?_, ?_, ?_⟩ <;> apply Nat.eq_of_testBit_eq <;> intro j <;>
    simp only [testBit_bits, Nat.testBit_mod_two_pow, Nat.testBit_or, Nat.testBit_shiftLeft]
  · by_cases hj : j < 4
    · simp [hj, show ¬ (12 ≤ j) by omega, show ¬ (8 ≤ j) by omega, show ¬ (4 ≤ j) by omega, show j < 16 by omega]
    · simp [hj, t d 4 j hd (by omega)]
  · by_cases hj : j < 4
    · simp [hj, show ¬ (12 ≤ 8 + j) by omega, show 8 + j < 16 by omega, t d 4 (8 + j) hd (by omega),
        t _ 4 (8 + j - 4) hw (by omega)]
    · simp [hj, t o 4 j ho (by omega)]
  · by_cases hj : j < 4
    · simp [hj, show 12 + j < 16 by omega, t d 4 (12 + j) hd (by omega), t _ 4 (12 + j - 4) hw (by omega),
        t o 4 (12 + j - 8) ho (by omega)]
    · simp [hj, t c 4 j hc (by omega)]

theorem gfState_lt : s.gfState < 16 := Nat.mod_lt _ (by decide)

/-- The fields of that word. -/
theorem gfState_enterGf (dst cause : Nat) (hd : dst < 16) (hc : cause < 16) :
    (enterGf dst cause s).gfState = dst ∧ (enterGf dst cause s).fld 0x4001 3 11 8 = s.gfState ∧
    (enterGf dst cause s).fld 0x4001 3 15 12 = cause := by
  obtain ⟨w, hw⟩ := num_enterGf s dst cause
  simp only [State.gfState, State.fld, hw]
  exact gfWord_bits cause _ w dst hd (gfState_lt s) hc

theorem permit_clearPermit : (clearPermit s).permit = false := by
  simp [clearPermit, setPermits, discardTests, State.permit, State.bit_set _ false (show 31 < 8 * sizeOf 0x6800 2 by decide)]

/-- No entry sets the permit. -/
theorem permit_enterGf (dst cause : Nat) (h : s.permit = false) : (enterGf dst cause s).permit = false := by
  have v : ∀ u : State, (sourcesAtOnce u).permit = u.permit := fun u =>
    (safetyWords_of (Own.kept (P := allParts) (i := 0x6800) (by apply Own.sourcesAtOnce <;> first | decide | assumption | exact Own.same _) 2 rfl rfl)).2
  have q : ∀ u : State, (queueAllLife u).permit = u.permit := fun u =>
    (safetyWords_of (Own.kept (P := allParts) (i := 0x6800) (by apply Own.queueAllLife <;> first | decide | assumption | exact Own.same _) 2 rfl rfl)).2
  have o : ∀ u : State, u.permit = false → (onSafeStop u).permit = false := by
    intro u hu
    simp only [onSafeStop, q]
    split
    · exact permit_clearPermit _
    · simpa [discardTests] using hu
  have l : ∀ u w, (leaveCommission w u).permit = u.permit := fun u w =>
    (safetyWords_of (Own.kept (P := allParts) (i := 0x6800) (by apply Own.leaveCommission <;> first | decide | assumption | exact Own.same _) 2 rfl rfl)).2
  simp only [enterGf, raise_safetyWords, v]
  have k : ∀ u : State, u.permit = false → (if dst = 6 then onSafeStop u else u).permit = false := by
    intro u hu; split
    · exact o u hu
    · exact hu
  apply k
  by_cases h0 : dst = 0 <;> by_cases h5 : s.gfState = 5 <;> by_cases h6 : s.gfState = 6 <;> simp [h0, h5, h6, l, releaseClose, setEnables, h]

/-- A ridge fault at READY while no tick occurs: the fault is pending, the permit is clear, the grid-forming state is SAFE_STOP. -/
theorem ridgeFault_ready (h : s.ready = true) (h6 : s.gfState ≠ 6)
    (ht : ticksOccur (clearPermit { s with safety := { s.safety with ridgeFault := true } }) = false) :
    (ridgeFault s).gfState = 6 ∧ (ridgeFault s).fld 0x4001 3 11 8 = s.gfState ∧ (ridgeFault s).fld 0x4001 3 15 12 = 12 ∧
    (ridgeFault s).permit = false := by
  have g : (clearPermit { s with safety := { s.safety with ridgeFault := true } }).gfState = s.gfState := by simp [clearPermit, setPermits, discardTests]
  have p := permit_clearPermit { s with safety := { s.safety with ridgeFault := true } }
  simp only [ridgeFault, h, if_true]
  generalize clearPermit { s with safety := { s.safety with ridgeFault := true } } = u at *
  have hg : (holdGates u).gfState = u.gfState ∧ (holdGates u).permit = u.permit := by
    unfold holdGates; split <;> exact ⟨rfl, rfl⟩
  have e := gfState_enterGf (holdGates u) 6 12 (by decide) (by decide)
  have hs : stopNow 12 u = enterGf 6 12 (holdGates u) := by
    unfold stopNow; rw [if_neg (by rw [g]; exact h6), if_neg (by simp [ht])]
  rw [hs]
  exact ⟨e.1, e.2.1.trans (hg.1.trans g), e.2.2, permit_enterGf _ 6 12 (hg.2.trans p)⟩

end

/-- Spares brought into service are events alone. -/
theorem bringSpares_same (x : Nat) (s : State) : EvSame s (bringSpares x s) := by
  have f : ∀ {α : Type} (l : List α) (e : Nat) (p0 p1 : State → α → Nat) (s : State),
      EvSame s (l.foldl (fun s a => s.raise e (p0 s a) (p1 s a)) s) := fun l e p0 p1 s =>
    EvSame.foldl l _ (fun s a _ => raise_same e (p0 s a) (p1 s a) 0 s) s
  unfold bringSpares
  have i : ∀ (u : State) (c : Bool) (a b d : Nat), EvSame s u → EvSame s (if c then u.raise a b d else u) := by
    intro u c a b d h
    split
    · exact h.trans (raise_same a b d 0 u)
    · exact h
  have j : ∀ (u : State) (c : Bool) (a b d : Nat), EvSame s u → EvSame s (if c then u else u.raise a b d) := by
    intro u c a b d h
    split
    · exact h
    · exact h.trans (raise_same a b d 0 u)
  simp only []
  refine j _ _ _ _ _ (j _ _ _ _ _ (i _ _ _ _ _ ?_))
  exact ((f _ 246 (fun _ j => 1 <<< 24 ||| x <<< 16 ||| j) (fun s j => nth 0 (lanesOut s x j) 0) s).trans
    (f _ 246 (fun _ b => 2 <<< 24 ||| x <<< 16 ||| b) (fun _ _ => 0) _)).trans
    (f _ 246 (fun _ e => field e 0 4) (fun _ e => field e 4 4) _)

/-- The units marked faulty rest on the two maps. -/
theorem faultyUnits_of {s s' : State} (h1 : s'.blob 0xB100 1 = s.blob 0xB100 1) (h2 : s'.blob 0xB100 2 = s.blob 0xB100 2) :
    faultyUnits s' = faultyUnits s := by simp [faultyUnits, h1, h2]

/-- A side's usability rests on the maps, the lock of its PLLs, the records of the sides and PreferredSide. -/
theorem sideUsable_of {s s' : State} (x : Side) (l : Bool) (h1 : s'.blob 0xB100 1 = s.blob 0xB100 1)
    (h2 : s'.blob 0xB100 2 = s.blob 0xB100 2) (h3 : ∀ p, p < 5 → s'.num (0x7100 + p) 3 = s.num (0x7100 + p) 3)
    (h4 : s'.sides = s.sides) (h5 : s'.boot = s.boot) (h6 : s'.num 0x6010 1 = s.num 0x6010 1) :
    sideUsable s' x l = sideUsable s x l := by
  have hf := faultyUnits_of h1 h2
  have hu : ∀ a b c d, unitFaulty s' a b c d = unitFaulty s a b c d := fun a b c d => by simp only [unitFaulty, hf]
  have hr : ∀ a, rowsOf s' a = rowsOf s a := fun a => funext (fun b => by simp only [rowsOf, hf])
  have hk : ∀ a, bankOut s' a = bankOut s a := fun a => funext (fun b => by simp only [bankOut, hu, hr])
  have hs : ∀ a, spareBanks s' a = spareBanks s a := fun a => by simp only [spareBanks, hu, hk]
  have ho : ∀ a, banksOut s' a = banksOut s a := fun a => by simp only [banksOut, hk]
  have hw : ∀ a, rowsOut s' a = rowsOut s a := fun a => by simp only [rowsOut, ho, hs, hk, hr]
  have hb : ∀ a, banksSuffice s' a = banksSuffice s a := fun a => by simp only [banksSuffice, ho, hs]
  have hg : ∀ a, spareRows s' a = spareRows s a := fun a => by simp only [spareRows, hu]
  have hn : ∀ a, rowsSuffice s' a = rowsSuffice s a := fun a => by unfold rowsSuffice; rw [hw, hg]
  have hp : ∀ p, p < 5 → pllLocked s' p = pllLocked s p := fun p h => by simp only [pllLocked, State.bit, h3 p h]
  have hq : preferred s' = preferred s := by unfold preferred State.bit; rw [h6]
  cases x <;>
    simp only [sideUsable, hu, hn, hb, hp _ (show 1 + sideIx .A < 5 by decide), hp _ (show 3 + sideIx .A < 5 by decide),
      hp _ (show 1 + sideIx .B < 5 by decide), hp _ (show 3 + sideIx .B < 5 by decide), hq, h5, State.sideRt, h4]

/-- READY with both sides usable, in a profile other than SINGLE_SIDE: the preferred side takes control, the other RESERVE. -/
theorem sidesAtReady_both {s : State} (h : s.profile ≠ 3) :
    (sidesAtReady true true s).sideState (preferred s) = 1 ∧ (sidesAtReady true true s).sideState (otherSide (preferred s)) = 2 := by
  simp only [sidesAtReady, h, if_false]
  cases preferred s <;> simp (disch := first | decide | omega) [okOf, setReserve, setControl, otherSide, State.sideState, State.setSideState]

/-- The stage after READY is entered. -/
theorem stage_enterReady (okA okB : Bool) (s : State) : (enterReady okA okB s).stage = 8 := by
  have sa : ∀ u : State, (sidesAtReady okA okB u).stage = u.stage := fun u =>
    (stageWords_of (Own.kept (P := allParts) (i := 0xB000) (by apply Own.sidesAtReady <;> first | decide | assumption | exact Own.same _) 1 rfl rfl)).1
  have br : ∀ (u : State) x, (if u.inService x then setBridged x true (pllOff (1 + sideIx x) u) else u).stage = u.stage := by
    intro u x; split
    · cases x <;> simp (disch := decide) [setBridged, pllOff, sideIx]
    · rfl
  have pm : ∀ u : State, (permitAtReady u).stage = u.stage := fun u => by simp [permitAtReady, setPermits, setEnables]
  have by_ : ∀ u : State, (setBays u).stage = u.stage := fun u =>
    (stageWords_of (Own.kept (P := allParts) (i := 0xB000) (by apply Own.setBays <;> first | decide | assumption | exact Own.same _) 1 rfl rfl)).1
  have mk : ∀ (u : State) q, ({ u with safety := q } : State).stage = u.stage := fun u q => rfl
  have ap : ∀ u : State, (adoptProfile u).stage = u.stage := fun u => by simp [adoptProfile]
  simp only [enterReady, fwNote_stageWords, raise_stageWords, pm, by_, br, mk, sa, ap, stage_setStage]

/-- The side states after READY is entered are those of `sidesAtReady`. -/
theorem sideState_enterReady (okA okB : Bool) (s : State) (x : Side) :
    (enterReady okA okB s).sideState x = (sidesAtReady okA okB (adoptProfile (setStage 8 s))).sideState x := by
  have br : ∀ (u : State) y, (if u.inService y then setBridged y true (pllOff (1 + sideIx y) u) else u).sideState x = u.sideState x := by
    intro u y; split
    · cases y <;> simp [setBridged, pllOff, sideIx]
    · rfl
  have pm : ∀ u : State, (permitAtReady u).sideState x = u.sideState x := fun u => by simp [permitAtReady, setPermits, setEnables]
  have by_ : ∀ u : State, (setBays u).sideState x = u.sideState x := fun u =>
    (sideWords_of (Own.kept (P := allParts) (i := 0x6021) (by apply Own.setBays <;> first | decide | assumption | exact Own.same _) 1 rfl rfl)).1 x
  have mk : ∀ (u : State) q, ({ u with safety := q } : State).sideState x = u.sideState x := fun u q => rfl
  simp only [enterReady, fwNote_sideWords, raise_sideWords, pm, by_, br, mk]

end Sys2Proof.Machine
end

