-- ==== Sys2Proof/Laws/Commands.lean ====
section
/-!
SUPPORT. Every command runs in the common frame (Machine/Run.lean): what holds of every effect in that frame holds of every command.
-/

set_option Elab.async false
namespace Sys2Proof.Machine

/-- A command runs some effect of its own in the common frame. -/
theorem exec_run (c : Instr) : ∃ f, ∀ s, exec c s = run c f s := by
  cases c with
  | powerGood => exact ⟨_, fun s => by show execPowerGood .. = _; unfold execPowerGood; with_reducible rfl⟩
  | romChecksComplete => exact ⟨_, fun s => by show execRomChecksComplete .. = _; unfold execRomChecksComplete; with_reducible rfl⟩
  | pufDerivation => exact ⟨_, fun s => by show execPufDerivation .. = _; unfold execPufDerivation; with_reducible rfl⟩
  | loaderBlock => exact ⟨_, fun s => by show execLoaderBlock .. = _; unfold execLoaderBlock; with_reducible rfl⟩
  | loaderStatusOp => exact ⟨_, fun s => by show execLoaderStatusOp .. = _; unfold execLoaderStatusOp; with_reducible rfl⟩
  | loaderAbort => exact ⟨_, fun s => by show execLoaderAbort .. = _; unfold execLoaderAbort; with_reducible rfl⟩
  | bootLoad => exact ⟨_, fun s => by show execBootLoad .. = _; unfold execBootLoad; with_reducible rfl⟩
  | loaderStatus => exact ⟨_, fun s => by show execLoaderStatus .. = _; unfold execLoaderStatus; with_reducible rfl⟩
  | loaderIdleTimeout => exact ⟨_, fun s => by show execLoaderIdleTimeout .. = _; unfold execLoaderIdleTimeout; with_reducible rfl⟩
  | imageVerify => exact ⟨_, fun s => by show execImageVerify .. = _; unfold execImageVerify; with_reducible rfl⟩
  | fwStart => exact ⟨_, fun s => by show execFwStart .. = _; unfold execFwStart; with_reducible rfl⟩
  | bringUp => exact ⟨_, fun s => by show execBringUp .. = _; unfold execBringUp; with_reducible rfl⟩
  | bringUpComplete => exact ⟨_, fun s => by show execBringUpComplete .. = _; unfold execBringUpComplete; with_reducible rfl⟩
  | restart => exact ⟨_, fun s => by show execRestart .. = _; unfold execRestart; with_reducible rfl⟩
  | islandWatchdog => exact ⟨_, fun s => by show execIslandWatchdog .. = _; unfold execIslandWatchdog; with_reducible rfl⟩
  | islandRestartDone => exact ⟨_, fun s => by show execIslandRestartDone .. = _; unfold execIslandRestartDone; with_reducible rfl⟩
  | imagePartWrite => exact ⟨_, fun s => by show execImagePartWrite .. = _; unfold execImagePartWrite; with_reducible rfl⟩
  | imageVerifyCommand => exact ⟨_, fun s => by show execImageVerifyCommand .. = _; unfold execImageVerifyCommand; with_reducible rfl⟩
  | imageSwitch => exact ⟨_, fun s => by show execImageSwitch .. = _; unfold execImageSwitch; with_reducible rfl⟩
  | imageDiscard => exact ⟨_, fun s => by show execImageDiscard .. = _; unfold execImageDiscard; with_reducible rfl⟩
  | tempHigh => exact ⟨_, fun s => by show execTempHigh .. = _; unfold execTempHigh; with_reducible rfl⟩
  | tempCritical => exact ⟨_, fun s => by show execTempCritical .. = _; unfold execTempCritical; with_reducible rfl⟩
  | railWarning => exact ⟨_, fun s => by show execRailWarning .. = _; unfold execRailWarning; with_reducible rfl⟩
  | railFault => exact ⟨_, fun s => by show execRailFault .. = _; unfold execRailFault; with_reducible rfl⟩
  | vddRidgeLoss => exact ⟨_, fun s => by show execVddRidgeLoss .. = _; unfold execVddRidgeLoss; with_reducible rfl⟩
  | ridgeFault => exact ⟨_, fun s => by show execRidgeFault .. = _; unfold execRidgeFault; with_reducible rfl⟩
  | trussLinkFrame => exact ⟨_, fun s => by show execTrussLinkFrame .. = _; unfold execTrussLinkFrame; with_reducible rfl⟩
  | syncInEdge => exact ⟨_, fun s => by show execSyncInEdge .. = _; unfold execSyncInEdge; with_reducible rfl⟩
  | syncCommand => exact ⟨_, fun s => by show execSyncCommand .. = _; unfold execSyncCommand; with_reducible rfl⟩
  | syncOutPulse => exact ⟨_, fun s => by show execSyncOutPulse .. = _; unfold execSyncOutPulse; with_reducible rfl⟩
  | decimAlignment => exact ⟨_, fun s => by show execDecimAlignment .. = _; unfold execDecimAlignment; with_reducible rfl⟩
  | decimationBoundary => exact ⟨_, fun s => by show execDecimationBoundary .. = _; unfold execDecimationBoundary; with_reducible rfl⟩
  | stuckBits => exact ⟨_, fun s => by show execStuckBits .. = _; unfold execStuckBits; with_reducible rfl⟩
  | modClockMissing => exact ⟨_, fun s => by show execModClockMissing .. = _; unfold execModClockMissing; with_reducible rfl⟩
  | feedbackDisagreement => exact ⟨_, fun s => by show execFeedbackDisagreement .. = _; unfold execFeedbackDisagreement; with_reducible rfl⟩
  | modelTimeExpiry => exact ⟨_, fun s => by show execModelTimeExpiry .. = _; unfold execModelTimeExpiry; with_reducible rfl⟩
  | samplingClockStart => exact ⟨_, fun s => by show execSamplingClockStart .. = _; unfold execSamplingClockStart; with_reducible rfl⟩
  | feedbackRecovery => exact ⟨_, fun s => by show execFeedbackRecovery .. = _; unfold execFeedbackRecovery; with_reducible rfl⟩
  | settlingCleared => exact ⟨_, fun s => by show execSettlingCleared .. = _; unfold execSettlingCleared; with_reducible rfl⟩
  | bankSwapRequest => exact ⟨_, fun s => by show execBankSwapRequest .. = _; unfold execBankSwapRequest; with_reducible rfl⟩
  | arcRefTriple => exact ⟨_, fun s => by show execArcRefTriple .. = _; unfold execArcRefTriple; with_reducible rfl⟩
  | arcRefApply => exact ⟨_, fun s => by show execArcRefApply .. = _; unfold execArcRefApply; with_reducible rfl⟩
  | arcRefStale => exact ⟨_, fun s => by show execArcRefStale .. = _; unfold execArcRefStale; with_reducible rfl⟩
  | comparatorFire => exact ⟨_, fun s => by show execComparatorFire .. = _; unfold execComparatorFire; with_reducible rfl⟩
  | blankWindowOpen => exact ⟨_, fun s => by show execBlankWindowOpen .. = _; unfold execBlankWindowOpen; with_reducible rfl⟩
  | blankWindowClose => exact ⟨_, fun s => by show execBlankWindowClose .. = _; unfold execBlankWindowClose; with_reducible rfl⟩
  | fastTick => exact ⟨_, fun s => by show execFastTick .. = _; unfold execFastTick; with_reducible rfl⟩
  | laneWake => exact ⟨_, fun s => by show execLaneWake .. = _; unfold execLaneWake; with_reducible rfl⟩
  | entryExecution => exact ⟨_, fun s => by show execEntryExecution .. = _; unfold execEntryExecution; with_reducible rfl⟩
  | compareWriter => exact ⟨_, fun s => by show execCompareWriter .. = _; unfold execCompareWriter; with_reducible rfl⟩
  | graphSwitchRequest => exact ⟨_, fun s => by show execGraphSwitchRequest .. = _; unfold execGraphSwitchRequest; with_reducible rfl⟩
  | graphSwitch => exact ⟨_, fun s => by show execGraphSwitch .. = _; unfold execGraphSwitch; with_reducible rfl⟩
  | resultRead => exact ⟨_, fun s => by show execResultRead .. = _; unfold execResultRead; with_reducible rfl⟩
  | resultFifoRead => exact ⟨_, fun s => by show execResultFifoRead .. = _; unfold execResultFifoRead; with_reducible rfl⟩
  | presetNow => exact ⟨_, fun s => by show execPresetNow .. = _; unfold execPresetNow; with_reducible rfl⟩
  | modeForceManual => exact ⟨_, fun s => by show execModeForceManual .. = _; unfold execModeForceManual; with_reducible rfl⟩
  | modeForceAutomatic => exact ⟨_, fun s => by show execModeForceAutomatic .. = _; unfold execModeForceAutomatic; with_reducible rfl⟩
  | modeRelease => exact ⟨_, fun s => by show execModeRelease .. = _; unfold execModeRelease; with_reducible rfl⟩
  | paramSwapRequest => exact ⟨_, fun s => by show execParamSwapRequest .. = _; unfold execParamSwapRequest; with_reducible rfl⟩
  | gfMainTick => exact ⟨_, fun s => by show execGfMainTick .. = _; unfold execGfMainTick; with_reducible rfl⟩
  | gfIdleEvaluation => exact ⟨_, fun s => by show execGfIdleEvaluation .. = _; unfold execGfIdleEvaluation; with_reducible rfl⟩
  | blackStart => exact ⟨_, fun s => by show execBlackStart .. = _; unfold execBlackStart; with_reducible rfl⟩
  | join => exact ⟨_, fun s => by show execJoin .. = _; unfold execJoin; with_reducible rfl⟩
  | resync => exact ⟨_, fun s => by show execResync .. = _; unfold execResync; with_reducible rfl⟩
  | abortResync => exact ⟨_, fun s => by show execAbortResync .. = _; unfold execAbortResync; with_reducible rfl⟩
  | stop => exact ⟨_, fun s => by show execStop .. = _; unfold execStop; with_reducible rfl⟩
  | acknowledge => exact ⟨_, fun s => by show execAcknowledge .. = _; unfold execAcknowledge; with_reducible rfl⟩
  | cancelStart => exact ⟨_, fun s => by show execCancelStart .. = _; unfold execCancelStart; with_reducible rfl⟩
  | coherentStart => exact ⟨_, fun s => by show execCoherentStart .. = _; unfold execCoherentStart; with_reducible rfl⟩
  | rideExit => exact ⟨_, fun s => by show execRideExit .. = _; unfold execRideExit; with_reducible rfl⟩
  | limitEntry => exact ⟨_, fun s => by show execLimitEntry .. = _; unfold execLimitEntry; with_reducible rfl⟩
  | rideTimeout => exact ⟨_, fun s => by show execRideTimeout .. = _; unfold execRideTimeout; with_reducible rfl⟩
  | blackStartTimeout => exact ⟨_, fun s => by show execBlackStartTimeout .. = _; unfold execBlackStartTimeout; with_reducible rfl⟩
  | resyncTimeout => exact ⟨_, fun s => by show execResyncTimeout .. = _; unfold execResyncTimeout; with_reducible rfl⟩
  | breakerDinChange => exact ⟨_, fun s => by show execBreakerDinChange .. = _; unfold execBreakerDinChange; with_reducible rfl⟩
  | breakerFail => exact ⟨_, fun s => by show execBreakerFail .. = _; unfold execBreakerFail; with_reducible rfl⟩
  | carrierVertex => exact ⟨_, fun s => by show execCarrierVertex .. = _; unfold execCarrierVertex; with_reducible rfl⟩
  | gateCommandEdge => exact ⟨_, fun s => by show execGateCommandEdge .. = _; unfold execGateCommandEdge; with_reducible rfl⟩
  | deadTimeExpiry => exact ⟨_, fun s => by show execDeadTimeExpiry .. = _; unfold execDeadTimeExpiry; with_reducible rfl⟩
  | carrierStart => exact ⟨_, fun s => by show execCarrierStart .. = _; unfold execCarrierStart; with_reducible rfl⟩
  | carrierGroupStart => exact ⟨_, fun s => by show execCarrierGroupStart .. = _; unfold execCarrierGroupStart; with_reducible rfl⟩
  | carrierStop => exact ⟨_, fun s => by show execCarrierStop .. = _; unfold execCarrierStop; with_reducible rfl⟩
  | updateCommit => exact ⟨_, fun s => by show execUpdateCommit .. = _; unfold execUpdateCommit; with_reducible rfl⟩
  | shadowWrite => exact ⟨_, fun s => by show execShadowWrite .. = _; unfold execShadowWrite; with_reducible rfl⟩
  | shadowApply => exact ⟨_, fun s => by show execShadowApply .. = _; unfold execShadowApply; with_reducible rfl⟩
  | faultInTrip => exact ⟨_, fun s => by show execFaultInTrip .. = _; unfold execFaultInTrip; with_reducible rfl⟩
  | releaseFaultIn => exact ⟨_, fun s => by show execReleaseFaultIn .. = _; unfold execReleaseFaultIn; with_reducible rfl⟩
  | releaseChordTrip => exact ⟨_, fun s => by show execReleaseChordTrip .. = _; unfold execReleaseChordTrip; with_reducible rfl⟩
  | disableMaskWrite => exact ⟨_, fun s => by show execDisableMaskWrite .. = _; unfold execDisableMaskWrite; with_reducible rfl⟩
  | commissionEnter => exact ⟨_, fun s => by show execCommissionEnter .. = _; unfold execCommissionEnter; with_reducible rfl⟩
  | commissionLeave => exact ⟨_, fun s => by show execCommissionLeave .. = _; unfold execCommissionLeave; with_reducible rfl⟩
  | overrideMapWrite => exact ⟨_, fun s => by show execOverrideMapWrite .. = _; unfold execOverrideMapWrite; with_reducible rfl⟩
  | debugHalt => exact ⟨_, fun s => by show execDebugHalt .. = _; unfold execDebugHalt; with_reducible rfl⟩
  | debugResume => exact ⟨_, fun s => by show execDebugResume .. = _; unfold execDebugResume; with_reducible rfl⟩
  | stackTransaction => exact ⟨_, fun s => by show execStackTransaction .. = _; unfold execStackTransaction; with_reducible rfl⟩
  | stretchTimeout => exact ⟨_, fun s => by show execStretchTimeout .. = _; unfold execStretchTimeout; with_reducible rfl⟩
  | pollTimeout => exact ⟨_, fun s => by show execPollTimeout .. = _; unfold execPollTimeout; with_reducible rfl⟩
  | stackReadDone => exact ⟨_, fun s => by show execStackReadDone .. = _; unfold execStackReadDone; with_reducible rfl⟩
  | flush => exact ⟨_, fun s => by show execFlush .. = _; unfold execFlush; with_reducible rfl⟩
  | rescan => exact ⟨_, fun s => by show execRescan .. = _; unfold execRescan; with_reducible rfl⟩
  | initRecord => exact ⟨_, fun s => by show execInitRecord .. = _; unfold execInitRecord; with_reducible rfl⟩
  | bringIn => exact ⟨_, fun s => by show execBringIn .. = _; unfold execBringIn; with_reducible rfl⟩
  | cancelBringIn => exact ⟨_, fun s => by show execCancelBringIn .. = _; unfold execCancelBringIn; with_reducible rfl⟩
  | lifeWriteInterval => exact ⟨_, fun s => by show execLifeWriteInterval .. = _; unfold execLifeWriteInterval; with_reducible rfl⟩
  | lifeWritten => exact ⟨_, fun s => by show execLifeWritten .. = _; unfold execLifeWritten; with_reducible rfl⟩
  | rainflowPosting => exact ⟨_, fun s => by show execRainflowPosting .. = _; unfold execRainflowPosting; with_reducible rfl⟩
  | stackHours => exact ⟨_, fun s => by show execStackHours .. = _; unfold execStackHours; with_reducible rfl⟩
  | wearEvaluation => exact ⟨_, fun s => by show execWearEvaluation .. = _; unfold execWearEvaluation; with_reducible rfl⟩
  | spareCrossingCheck => exact ⟨_, fun s => by show execSpareCrossingCheck .. = _; unfold execSpareCrossingCheck; with_reducible rfl⟩
  | spareSwapTimeout => exact ⟨_, fun s => by show execSpareSwapTimeout .. = _; unfold execSpareSwapTimeout; with_reducible rfl⟩
  | heartbeat => exact ⟨_, fun s => by show execHeartbeat .. = _; unfold execHeartbeat; with_reducible rfl⟩
  | heartbeatMissing => exact ⟨_, fun s => by show execHeartbeatMissing .. = _; unfold execHeartbeatMissing; with_reducible rfl⟩
  | signatureCompare => exact ⟨_, fun s => by show execSignatureCompare .. = _; unfold execSignatureCompare; with_reducible rfl⟩
  | mismatchResolution => exact ⟨_, fun s => by show execMismatchResolution .. = _; unfold execMismatchResolution; with_reducible rfl⟩
  | mirrorFrame => exact ⟨_, fun s => by show execMirrorFrame .. = _; unfold execMirrorFrame; with_reducible rfl⟩
  | sideJoined => exact ⟨_, fun s => by show execSideJoined .. = _; unfold execSideJoined; with_reducible rfl⟩
  | reinitAttemptFailed => exact ⟨_, fun s => by show execReinitAttemptFailed .. = _; unfold execReinitAttemptFailed; with_reducible rfl⟩
  | reinitRetry => exact ⟨_, fun s => by show execReinitRetry .. = _; unfold execReinitRetry; with_reducible rfl⟩
  | handover => exact ⟨_, fun s => by show execHandover .. = _; unfold execHandover; with_reducible rfl⟩
  | handoverExecute => exact ⟨_, fun s => by show execHandoverExecute .. = _; unfold execHandoverExecute; with_reducible rfl⟩
  | restore => exact ⟨_, fun s => by show execRestore .. = _; unfold execRestore; with_reducible rfl⟩
  | powerDown => exact ⟨_, fun s => by show execPowerDown .. = _; unfold execPowerDown; with_reducible rfl⟩
  | powerUp => exact ⟨_, fun s => by show execPowerUp .. = _; unfold execPowerUp; with_reducible rfl⟩
  | doutRequest => exact ⟨_, fun s => by show execDoutRequest .. = _; unfold execDoutRequest; with_reducible rfl⟩
  | kerfWindowClose => exact ⟨_, fun s => by show execKerfWindowClose .. = _; unfold execKerfWindowClose; with_reducible rfl⟩
  | laneTest => exact ⟨_, fun s => by show execLaneTest .. = _; unfold execLaneTest; with_reducible rfl⟩
  | eccError => exact ⟨_, fun s => by show execEccError .. = _; unfold execEccError; with_reducible rfl⟩
  | pllFreqCheck => exact ⟨_, fun s => by show execPllFreqCheck .. = _; unfold execPllFreqCheck; with_reducible rfl⟩
  | badHoldExpiry => exact ⟨_, fun s => by show execBadHoldExpiry .. = _; unfold execBadHoldExpiry; with_reducible rfl⟩
  | safetyChannelFault => exact ⟨_, fun s => by show execSafetyChannelFault .. = _; unfold execSafetyChannelFault; with_reducible rfl⟩
  | sealReadingAccepted => exact ⟨_, fun s => by show execSealReadingAccepted .. = _; unfold execSealReadingAccepted; with_reducible rfl⟩
  | sinFilterExpiry => exact ⟨_, fun s => by show execSinFilterExpiry .. = _; unfold execSinFilterExpiry; with_reducible rfl⟩
  | sinDiscrepancy => exact ⟨_, fun s => by show execSinDiscrepancy .. = _; unfold execSinDiscrepancy; with_reducible rfl⟩
  | soutRequestWrite => exact ⟨_, fun s => by show execSoutRequestWrite .. = _; unfold execSoutRequestWrite; with_reducible rfl⟩
  | soutTestPulse => exact ⟨_, fun s => by show execSoutTestPulse .. = _; unfold execSoutTestPulse; with_reducible rfl⟩
  | soutTestEnd => exact ⟨_, fun s => by show execSoutTestEnd .. = _; unfold execSoutTestEnd; with_reducible rfl⟩
  | soutStuckOn => exact ⟨_, fun s => by show execSoutStuckOn .. = _; unfold execSoutStuckOn; with_reducible rfl⟩
  | safetyReset => exact ⟨_, fun s => by show execSafetyReset .. = _; unfold execSafetyReset; with_reducible rfl⟩
  | resetStuck => exact ⟨_, fun s => by show execResetStuck .. = _; unfold execResetStuck; with_reducible rfl⟩
  | resetDiscrepancy => exact ⟨_, fun s => by show execResetDiscrepancy .. = _; unfold execResetDiscrepancy; with_reducible rfl⟩
  | resetBlockEnd => exact ⟨_, fun s => by show execResetBlockEnd .. = _; unfold execResetBlockEnd; with_reducible rfl⟩
  | arbiterRequest => exact ⟨_, fun s => by show execArbiterRequest .. = _; unfold execArbiterRequest; with_reducible rfl⟩
  | semaphoreRequest => exact ⟨_, fun s => by show execSemaphoreRequest .. = _; unfold execSemaphoreRequest; with_reducible rfl⟩
  | semaphoreRelease => exact ⟨_, fun s => by show execSemaphoreRelease .. = _; unfold execSemaphoreRelease; with_reducible rfl⟩
  | semaphoreLeaseExpired => exact ⟨_, fun s => by show execSemaphoreLeaseExpired .. = _; unfold execSemaphoreLeaseExpired; with_reducible rfl⟩
  | incrementWrite => exact ⟨_, fun s => by show execIncrementWrite .. = _; unfold execIncrementWrite; with_reducible rfl⟩
  | timeSet => exact ⟨_, fun s => by show execTimeSet .. = _; unfold execTimeSet; with_reducible rfl⟩
  | timeAdjust => exact ⟨_, fun s => by show execTimeAdjust .. = _; unfold execTimeAdjust; with_reducible rfl⟩
  | timeStep => exact ⟨_, fun s => by show execTimeStep .. = _; unfold execTimeStep; with_reducible rfl⟩
  | ptpSyncReceived => exact ⟨_, fun s => by show execPtpSyncReceived .. = _; unfold execPtpSyncReceived; with_reducible rfl⟩
  | pathDelayMeasurement => exact ⟨_, fun s => by show execPathDelayMeasurement .. = _; unfold execPathDelayMeasurement; with_reducible rfl⟩
  | pathConfirm => exact ⟨_, fun s => by show execPathConfirm .. = _; unfold execPathConfirm; with_reducible rfl⟩
  | ptpAnnounceReceived => exact ⟨_, fun s => by show execPtpAnnounceReceived .. = _; unfold execPtpAnnounceReceived; with_reducible rfl⟩
  | announceTimeout => exact ⟨_, fun s => by show execAnnounceTimeout .. = _; unfold execAnnounceTimeout; with_reducible rfl⟩
  | holdoverValidExpiry => exact ⟨_, fun s => by show execHoldoverValidExpiry .. = _; unfold execHoldoverValidExpiry; with_reducible rfl⟩
  | ppsInEdge => exact ⟨_, fun s => by show execPpsInEdge .. = _; unfold execPpsInEdge; with_reducible rfl⟩
  | ppsInTimeout => exact ⟨_, fun s => by show execPpsInTimeout .. = _; unfold execPpsInTimeout; with_reducible rfl⟩
  | ptpSyncSend => exact ⟨_, fun s => by show execPtpSyncSend .. = _; unfold execPtpSyncSend; with_reducible rfl⟩
  | ppsOutPulse => exact ⟨_, fun s => by show execPpsOutPulse .. = _; unfold execPpsOutPulse; with_reducible rfl⟩
  | leapSecond => exact ⟨_, fun s => by show execLeapSecond .. = _; unfold execLeapSecond; with_reducible rfl⟩
  | refFault => exact ⟨_, fun s => by show execRefFault .. = _; unfold execRefFault; with_reducible rfl⟩
  | refSwitchCommand => exact ⟨_, fun s => by show execRefSwitchCommand .. = _; unfold execRefSwitchCommand; with_reducible rfl⟩
  | refDisagree => exact ⟨_, fun s => by show execRefDisagree .. = _; unfold execRefDisagree; with_reducible rfl⟩
  | pllStart => exact ⟨_, fun s => by show execPllStart .. = _; unfold execPllStart; with_reducible rfl⟩
  | pllLock => exact ⟨_, fun s => by show execPllLock .. = _; unfold execPllLock; with_reducible rfl⟩
  | pllRetryBand => exact ⟨_, fun s => by show execPllRetryBand .. = _; unfold execPllRetryBand; with_reducible rfl⟩
  | pllSweep => exact ⟨_, fun s => by show execPllSweep .. = _; unfold execPllSweep; with_reducible rfl⟩
  | pllSweepDone => exact ⟨_, fun s => by show execPllSweepDone .. = _; unfold execPllSweepDone; with_reducible rfl⟩
  | pllLockLost => exact ⟨_, fun s => by show execPllLockLost .. = _; unfold execPllLockLost; with_reducible rfl⟩
  | clkoutStart => exact ⟨_, fun s => by show execClkoutStart .. = _; unfold execClkoutStart; with_reducible rfl⟩
  | clkoutStop => exact ⟨_, fun s => by show execClkoutStop .. = _; unfold execClkoutStop; with_reducible rfl⟩
  | clkoutGateOpen => exact ⟨_, fun s => by show execClkoutGateOpen .. = _; unfold execClkoutGateOpen; with_reducible rfl⟩
  | clkoutGateClose => exact ⟨_, fun s => by show execClkoutGateClose .. = _; unfold execClkoutGateClose; with_reducible rfl⟩
  | trussClockSwitch => exact ⟨_, fun s => by show execTrussClockSwitch .. = _; unfold execTrussClockSwitch; with_reducible rfl⟩
  | switchDeferred => exact ⟨_, fun s => by show execSwitchDeferred .. = _; unfold execSwitchDeferred; with_reducible rfl⟩
  | arm => exact ⟨_, fun s => by show execArm .. = _; unfold execArm; with_reducible rfl⟩
  | disarm => exact ⟨_, fun s => by show execDisarm .. = _; unfold execDisarm; with_reducible rfl⟩
  | trigger => exact ⟨_, fun s => by show execTrigger .. = _; unfold execTrigger; with_reducible rfl⟩
  | release => exact ⟨_, fun s => by show execRelease .. = _; unfold execRelease; with_reducible rfl⟩
  | captureRow => exact ⟨_, fun s => by show execCaptureRow .. = _; unfold execCaptureRow; with_reducible rfl⟩
  | streamBacklogHalving => exact ⟨_, fun s => by show execStreamBacklogHalving .. = _; unfold execStreamBacklogHalving; with_reducible rfl⟩
  | captureStreamSend => exact ⟨_, fun s => by show execCaptureStreamSend .. = _; unfold execCaptureStreamSend; with_reducible rfl⟩
  | segmentHoldExpiry => exact ⟨_, fun s => by show execSegmentHoldExpiry .. = _; unfold execSegmentHoldExpiry; with_reducible rfl⟩
  | segmentSelect => exact ⟨_, fun s => by show execSegmentSelect .. = _; unfold execSegmentSelect; with_reducible rfl⟩
  | segmentRowsRead => exact ⟨_, fun s => by show execSegmentRowsRead .. = _; unfold execSegmentRowsRead; with_reducible rfl⟩
  | hoursSeed => exact ⟨_, fun s => by show execHoursSeed .. = _; unfold execHoursSeed; with_reducible rfl⟩
  | powerCycleSeed => exact ⟨_, fun s => by show execPowerCycleSeed .. = _; unfold execPowerCycleSeed; with_reducible rfl⟩
  | operatingHoursTick => exact ⟨_, fun s => by show execOperatingHoursTick .. = _; unfold execOperatingHoursTick; with_reducible rfl⟩
  | histogramSample => exact ⟨_, fun s => by show execHistogramSample .. = _; unfold execHistogramSample; with_reducible rfl⟩
  | histogramClear => exact ⟨_, fun s => by show execHistogramClear .. = _; unfold execHistogramClear; with_reducible rfl⟩
  | scribeNote => exact ⟨_, fun s => by show execScribeNote .. = _; unfold execScribeNote; with_reducible rfl⟩
  | scribeTokenRefill => exact ⟨_, fun s => by show execScribeTokenRefill .. = _; unfold execScribeTokenRefill; with_reducible rfl⟩
  | scribeRecordsRead => exact ⟨_, fun s => by show execScribeRecordsRead .. = _; unfold execScribeRecordsRead; with_reducible rfl⟩
  | compatRecordsRead => exact ⟨_, fun s => by show execCompatRecordsRead .. = _; unfold execCompatRecordsRead; with_reducible rfl⟩
  | startCounters => exact ⟨_, fun s => by show execStartCounters .. = _; unfold execStartCounters; with_reducible rfl⟩
  | stopCounters => exact ⟨_, fun s => by show execStopCounters .. = _; unfold execStopCounters; with_reducible rfl⟩
  | clearCounters => exact ⟨_, fun s => by show execClearCounters .. = _; unfold execClearCounters; with_reducible rfl⟩
  | counterWrite => exact ⟨_, fun s => by show execCounterWrite .. = _; unfold execCounterWrite; with_reducible rfl⟩
  | counterReadLatch => exact ⟨_, fun s => by show execCounterReadLatch .. = _; unfold execCounterReadLatch; with_reducible rfl⟩
  | counterOverflow => exact ⟨_, fun s => by show execCounterOverflow .. = _; unfold execCounterOverflow; with_reducible rfl⟩
  | tagRecord => exact ⟨_, fun s => by show execTagRecord .. = _; unfold execTagRecord; with_reducible rfl⟩
  | tagRecordsRead => exact ⟨_, fun s => by show execTagRecordsRead .. = _; unfold execTagRecordsRead; with_reducible rfl⟩
  | frameReceived => exact ⟨_, fun s => by show execFrameReceived .. = _; unfold execFrameReceived; with_reducible rfl⟩
  | arpRequest => exact ⟨_, fun s => by show execArpRequest .. = _; unfold execArpRequest; with_reducible rfl⟩
  | icmpEcho => exact ⟨_, fun s => by show execIcmpEcho .. = _; unfold execIcmpEcho; with_reducible rfl⟩
  | supervisionFrameSend => exact ⟨_, fun s => by show execSupervisionFrameSend .. = _; unfold execSupervisionFrameSend; with_reducible rfl⟩
  | lanFault => exact ⟨_, fun s => by show execLanFault .. = _; unfold execLanFault; with_reducible rfl⟩
  | ringFault => exact ⟨_, fun s => by show execRingFault .. = _; unfold execRingFault; with_reducible rfl⟩
  | portLinkChange => exact ⟨_, fun s => by show execPortLinkChange .. = _; unfold execPortLinkChange; with_reducible rfl⟩
  | identify => exact ⟨_, fun s => by show execIdentify .. = _; unfold execIdentify; with_reducible rfl⟩
  | keyLoad => exact ⟨_, fun s => by show execKeyLoad .. = _; unfold execKeyLoad; with_reducible rfl⟩
  | openSession => exact ⟨_, fun s => by show execOpenSession .. = _; unfold execOpenSession; with_reducible rfl⟩
  | closeSession => exact ⟨_, fun s => by show execCloseSession .. = _; unfold execCloseSession; with_reducible rfl⟩
  | readObjects => exact ⟨_, fun s => by show execReadObjects .. = _; unfold execReadObjects; with_reducible rfl⟩
  | writeObjects => exact ⟨_, fun s => by show execWriteObjects .. = _; unfold execWriteObjects; with_reducible rfl⟩
  | keepalive => exact ⟨_, fun s => by show execKeepalive .. = _; unfold execKeepalive; with_reducible rfl⟩
  | sourceBlockEnd => exact ⟨_, fun s => by show execSourceBlockEnd .. = _; unfold execSourceBlockEnd; with_reducible rfl⟩
  | sessionIdleTimeout => exact ⟨_, fun s => by show execSessionIdleTimeout .. = _; unfold execSessionIdleTimeout; with_reducible rfl⟩
  | bootSend => exact ⟨_, fun s => by show execBootSend .. = _; unfold execBootSend; with_reducible rfl⟩
  | bootFetch => exact ⟨_, fun s => by show execBootFetch .. = _; unfold execBootFetch; with_reducible rfl⟩
  | bootStatus => exact ⟨_, fun s => by show execBootStatus .. = _; unfold execBootStatus; with_reducible rfl⟩
  | beginSet => exact ⟨_, fun s => by show execBeginSet .. = _; unfold execBeginSet; with_reducible rfl⟩
  | commitSet => exact ⟨_, fun s => by show execCommitSet .. = _; unfold execCommitSet; with_reducible rfl⟩
  | abortSet => exact ⟨_, fun s => by show execAbortSet .. = _; unfold execAbortSet; with_reducible rfl⟩
  | commitComplete => exact ⟨_, fun s => by show execCommitComplete .. = _; unfold execCommitComplete; with_reducible rfl⟩
  | setIdleTimeout => exact ⟨_, fun s => by show execSetIdleTimeout .. = _; unfold execSetIdleTimeout; with_reducible rfl⟩
  | configObjectWrite => exact ⟨_, fun s => by show execConfigObjectWrite .. = _; unfold execConfigObjectWrite; with_reducible rfl⟩
  | objectWrite => exact ⟨_, fun s => by show execObjectWrite .. = _; unfold execObjectWrite; with_reducible rfl⟩
  | segmentedWriteTimeout => exact ⟨_, fun s => by show execSegmentedWriteTimeout .. = _; unfold execSegmentedWriteTimeout; with_reducible rfl⟩
  | snapshotTimeout => exact ⟨_, fun s => by show execSnapshotTimeout .. = _; unfold execSnapshotTimeout; with_reducible rfl⟩
  | pendingClear => exact ⟨_, fun s => by show execPendingClear .. = _; unfold execPendingClear; with_reducible rfl⟩
  | countClear => exact ⟨_, fun s => by show execCountClear .. = _; unfold execCountClear; with_reducible rfl⟩
  | notifyHoldoffExpiry => exact ⟨_, fun s => by show execNotifyHoldoffExpiry .. = _; unfold execNotifyHoldoffExpiry; with_reducible rfl⟩
  | samplingEdge => exact ⟨_, fun s => by show execSamplingEdge .. = _; unfold execSamplingEdge; with_reducible rfl⟩
  | plateMinOnExpiry => exact ⟨_, fun s => by show execPlateMinOnExpiry .. = _; unfold execPlateMinOnExpiry; with_reducible rfl⟩
  | sensorUpdate => exact ⟨_, fun s => by show execSensorUpdate .. = _; unfold execSensorUpdate; with_reducible rfl⟩
  | ptpDelayRequestSend => exact ⟨_, fun s => by show execPtpDelayRequestSend .. = _; unfold execPtpDelayRequestSend; with_reducible rfl⟩
  | ptpAnnounceSend => exact ⟨_, fun s => by show execPtpAnnounceSend .. = _; unfold execPtpAnnounceSend; with_reducible rfl⟩

/-- The state after a well-formed command is that of an effect after which the plate has settled; an ill-formed one has none. -/
theorem exec_ended (c : Instr) (s : State) : ∃ u, exec c s = .next (u.ended s.pending) ∧ (c.wf = false → u = s.arrive c.time) := by
  obtain ⟨f, h⟩ := exec_run c
  rw [h]
  cases hw : c.wf
  · exact ⟨_, run_not_wf s f hw, fun _ => rfl⟩
  · exact ⟨_, run_wf s f hw, fun k => by cases k⟩

end Sys2Proof.Machine
end

