-- ==== Sys2Proof/Laws/Faults.lean ====
section
/-!
SUPPORT. What a side fault leaves of the sides' states: a takeover, or the re-initialisation of a RESERVE side.
-/

set_option Elab.async false
namespace Sys2Proof.Machine

variable (s : State)

/-! ### The side states under what a fault does besides -/

theorem sideState_of {s s' : State} (h : s'.num 0x6021 1 = s.num 0x6021 1) (x : Side) : s'.sideState x = s.sideState x := (sideWords_of h).1 x

@[simp] theorem sideState_set (x : Side) (v : Nat) : (s.setSideState x v).sideState x = v % 16 := by
  cases x <;> simp (disch := decide) [State.sideState, State.setSideState]
@[simp] theorem sideState_set_other (x : Side) (v : Nat) : (s.setSideState x v).sideState (otherSide x) = s.sideState (otherSide x) := by
  cases x <;> simp (disch := decide) [State.sideState, State.setSideState, otherSide]
@[simp] theorem sideState_set_other' (x : Side) (v : Nat) : (s.setSideState (otherSide x) v).sideState x = s.sideState x := by
  cases x <;> simp (disch := decide) [State.sideState, State.setSideState, otherSide]
@[simp] theorem otherSide_other (x : Side) : otherSide (otherSide x) = x := by cases x <;> rfl

theorem sideState_ite (c : Prop) [Decidable c] (a b : State) (y : Side) :
    (if c then a else b).sideState y = if c then a.sideState y else b.sideState y := by split <;> rfl

theorem sideState_setDegraded (b : Bool) (y : Side) : (setDegraded b s).sideState y = s.sideState y := by simp [setDegraded]

theorem sideState_checkHoldover (c : Nat) (y : Side) : (checkHoldover c s).sideState y = s.sideState y := by
  unfold checkHoldover beginHoldover
  repeat' split
  all_goals simp

theorem sideState_allToSide (x y : Side) : (allToSide x s).sideState y = s.sideState y :=
  sideState_of (Own.kept (P := allParts) (i := 0x6021) (by apply Own.allToSide <;> first | decide | assumption | exact Own.same _) 1 rfl rfl) y
theorem sideState_setSideBays (x y : Side) (m : Nat) : (setSideBays x m s).sideState y = s.sideState y :=
  sideState_of (Own.kept (P := allParts) (i := 0x6021) (by apply Own.setSideBays <;> first | decide | assumption | exact Own.same _) 1 rfl rfl) y
theorem sideState_reportsAlone (y : Side) : (reportsAlone s).sideState y = s.sideState y :=
  sideState_of (Own.kept (P := allParts) (i := 0x6021) (by apply Own.reportsAlone <;> first | decide | assumption | exact Own.same _) 1 rfl rfl) y

theorem sideState_clearSide (x y : Side) : (clearSide x s).sideState y = s.sideState y := by simp [clearSide]

theorem sideState_pllOff (x y : Side) : (pllOff (3 + sideIx x) (pllOff (1 + sideIx x) s)).sideState y = s.sideState y := by
  cases x <;> simp [pllOff, sideIx]

/-- A re-initialisation starts: the side is in REINIT with one attempt more, and the other side is as it was. -/
theorem startReinit_side (x : Side) :
    (startReinit x s).sideState x = 5 ∧ (startReinit x s).sideState (otherSide x) = s.sideState (otherSide x) ∧
    ((startReinit x s).sideRt x).attempts = (s.sideRt x).attempts + 1 := by
  refine ⟨?_, ?_, ?_⟩
  · simp [startReinit, sideState_pllOff]
  · simp [startReinit, sideState_pllOff, sideState_clearSide, sideState_setSideBays]
  · cases x <;> simp [startReinit, pllOff]

theorem setFailed_other (x : Side) : (setFailed x s).sideState (otherSide x) = s.sideState (otherSide x) := by
  have r := fun u => (startReinit_side u x).2.1
  simp [setFailed, leaveService, sideState_ite, r, sideState_checkHoldover, sideState_setDegraded, sideState_reportsAlone]

theorem sides_checkHoldover (c : Nat) : (checkHoldover c s).sides = s.sides := by
  unfold checkHoldover beginHoldover
  repeat' split
  all_goals simp

theorem sides_reportsAlone : (reportsAlone s).sides = s.sides :=
  (show Own [.meas, .gf, .plate] [⟨0x2100, 0x213F, 11, 11⟩] s (reportsAlone s) by apply Own.reportsAlone <;> first | decide | exact Own.same _).sides
    (by decide)

/-- A side becomes FAILED, and with no double fault its first attempt at re-initialisation starts. -/
theorem setFailed_reinit (x : Side) (h : s.sides.doubleFault = false) :
    (setFailed x s).sideState x = 5 ∧ ((setFailed x s).sideRt x).attempts = 1 := by
  have sd : ∀ u : State, (if u.profile = 3 then u else setDegraded true u).sides = u.sides := by
    intro u; split <;> simp [setDegraded]
  have ls : (leaveService x 4 s).sides = s.sides := by
    unfold leaveService; rw [sides_reportsAlone]; cases x <;> rfl
  have k : ∀ (u : State) v, u.sides.doubleFault = false → v.attempts = 0 →
      (if (checkHoldover 1 (if (u.setSideRt x v).profile = 3 then u.setSideRt x v else setDegraded true (u.setSideRt x v))).sides.doubleFault = true then
        checkHoldover 1 (if (u.setSideRt x v).profile = 3 then u.setSideRt x v else setDegraded true (u.setSideRt x v))
      else startReinit x (checkHoldover 1 (if (u.setSideRt x v).profile = 3 then u.setSideRt x v else setDegraded true (u.setSideRt x v)))).sideState x = 5 ∧
      ((if (checkHoldover 1 (if (u.setSideRt x v).profile = 3 then u.setSideRt x v else setDegraded true (u.setSideRt x v))).sides.doubleFault = true then
        checkHoldover 1 (if (u.setSideRt x v).profile = 3 then u.setSideRt x v else setDegraded true (u.setSideRt x v))
      else startReinit x (checkHoldover 1 (if (u.setSideRt x v).profile = 3 then u.setSideRt x v else setDegraded true (u.setSideRt x v)))).sideRt x).attempts = 1 := by
    intro u v hu hv
    generalize hw : checkHoldover 1 (if (u.setSideRt x v).profile = 3 then u.setSideRt x v else setDegraded true (u.setSideRt x v)) = w
    have hs : w.sides = (u.setSideRt x v).sides := by rw [← hw, sides_checkHoldover, sd]
    have hd : w.sides.doubleFault = false := by rw [hs]; cases x <;> exact hu
    have ha : (w.sideRt x).attempts = 0 := by
      have : w.sideRt x = (u.setSideRt x v).sideRt x := by cases x <;> simp only [State.sideRt, hs]
      rw [this]; simpa using hv
    rw [if_neg (by simp [hd])]
    exact ⟨(startReinit_side _ x).1, by rw [(startReinit_side _ x).2.2, ha]⟩
  exact k (leaveService x 4 s) _ (by rw [ls]; exact h) rfl

theorem control_iff (x : Side) (hx : s.sideState x = 1) (hy : s.sideState (otherSide x) ≠ 1) : s.control = some x := by
  cases x
  · simp [State.control, hx]
  · have : s.sideState .A ≠ 1 := hy
    simp [State.control, hx, this]

/-- Control passes from a side to the other: the other is in control, whatever still has to change at the plate. -/
theorem takeover_control (x : Side) (c : Nat) : (takeover x c s).sideState (otherSide x) = 1 := by
  have oc : ∀ (u : State) y z, (orderChange y c u).sideState z = u.sideState z := by
    intro u y z
    cases z <;> simp (disch := decide) [orderChange, State.sideState]
  have ko : ∀ (u : State) y l z, (kerfOpen y l u).sideState z = u.sideState z := fun u y l z => by simp [kerfOpen]
  have fc : ∀ (u : State), u.sideState (otherSide x) = 1 → u.sideState x ≠ 1 → (finishChange u).sideState (otherSide x) = 1 := by
    intro u hu hx
    have hc : u.control = some (otherSide x) := control_iff u _ hu (by simpa using hx)
    have k := fun (w : State) => setFailed_other w x
    unfold finishChange
    split
    · exact hu
    · simp [sideState_ite, hc, hu, k]
  have dc : ∀ (u : State), u.sideState (otherSide x) = 1 → u.sideState x ≠ 1 →
      (deliverChange (otherSide x) false u).sideState (otherSide x) = 1 := by
    have q : ∀ (u : State) (v : Sides), ({ u with sides := v } : State).sideState = u.sideState := fun _ _ => rfl
    have d : ∀ (u : State) (c : Prop) [Decidable c] (v : Sides), u.sideState (otherSide x) = 1 → u.sideState x ≠ 1 →
        (if c then finishChange { u with sides := v } else { u with sides := v }).sideState (otherSide x) = 1 := by
      intro u c _ v hu hx
      split
      · exact fc _ hu hx
      · exact hu
    intro u hu hx
    unfold deliverChange
    dsimp only
    refine d _ _ _ ?_ ?_
    · simp only [otherSide_other]; split
      · rw [sideState_allToSide]; exact hu
      · exact hu
    · simp only [otherSide_other]; split
      · rw [sideState_allToSide]; exact hx
      · exact hx
  unfold takeover
  refine dc _ ?_ ?_
  · simp [ko, oc, leaveService, sideState_reportsAlone]
  · simp [ko, oc, leaveService, sideState_reportsAlone]

/-- A fault of the side IN_CONTROL beside a RESERVE side (R267, R270). -/
theorem sideFault_takeover (x : Side) (c : Nat) (hr : s.ready = true) (hx : s.sideState x = 1) (hy : s.sideState (otherSide x) = 2) :
    (sideFault x c s).sideState (otherSide x) = 1 := by
  simp only [sideFault, hr, Bool.not_true, Bool.false_eq_true, if_false, raise_sideWords, hx, hy, if_true]
  exact takeover_control _ x c

/-- A fault of a RESERVE side while no takeover is in progress (R267, R279). -/
theorem sideFault_reserve (x : Side) (c : Nat) (hr : s.ready = true) (hx : s.sideState x = 2) (ht : s.sides.takeover = none)
    (hd : s.sides.doubleFault = false) :
    (sideFault x c s).sideState x = 5 ∧ ((sideFault x c s).sideRt x).attempts = 1 := by
  have h := setFailed_reinit (s.raise 32 (sideIx x) c) x (by simpa using hd)
  simpa [sideFault, hr, hx, ht] using h

end Sys2Proof.Machine
end

