-- ==== Sys2Proof/Laws/MovesBoot.lean ====
section
/-!
SUPPORT. What each command moves, one lemma each: power-up, images, supplies and restarts.
-/

set_option Elab.async false
set_option maxRecDepth 2000
set_option linter.unusedVariables false
set_option linter.unusedSimpArgs false
namespace Sys2Proof
open Sys2Proof.Machine
variable {P : List Part} {G : List Objs}
namespace Own

theorem moves_romChecksComplete {z0 : State} {t straps sideRails : Nat} (hp_boot : Part.boot ∈ P) (hG : Cov G [⟨0x1000, 0x1000, 5, 5⟩, ⟨0xB000,
    0xB000, 1, 1⟩, ⟨0xB000, 0xB000, 4, 4⟩]) : OwnMoves P G z0 (.romChecksComplete t straps sideRails) := by
  change ∀ s', Machine.execRomChecksComplete t straps sideRails z0 = .next s' → Own (.pairs :: P) G (z0.arrive (Instr.romChecksComplete t straps sideRails).time) s'
  unfold Machine.execRomChecksComplete
  with_reducible refine own_run (fun hw b => ?_)
  replace hp_boot := List.mem_cons_of_mem Part.pairs hp_boot
  have hp_pairs : Part.pairs ∈ Part.pairs :: P := List.mem_cons_self
  simp only [Instr.wf, Bool.and_eq_true, decide_eq_true_eq] at hw
  try dsimp only
  repeat' first
    | (exact hG.sub rfl) | (exact hG.item rfl) | with_reducible exact same _ | with_reducible assumption
    | with_reducible refine branch (fun hc => ?_) (fun hc => ?_) | with_reducible apply setStage | with_reducible apply setNum
    | with_reducible apply readRails | with_reducible refine boot_set (by assumption) ?_

theorem moves_pufDerivation {z0 : State} {t k1 k2 : Nat} (hp_boot : Part.boot ∈ P) (hG : Cov G [⟨0x1000, 0x1000, 1, 1⟩, ⟨0x1000, 0x1000, 3, 3⟩,
    ⟨0x1010, 0x1010, 1, 1⟩, ⟨0x1010, 0x1010, 2, 2⟩, ⟨0x7020, 0x7020, 1, 1⟩, ⟨0xB000, 0xB000, 1, 1⟩, ⟨0xB000, 0xB000, 4, 4⟩, ⟨0xB100, 0xB100, 2, 2⟩])
    : OwnMoves P G z0 (.pufDerivation t k1 k2) := by
  change ∀ s', Machine.execPufDerivation t k1 k2 z0 = .next s' → Own (.pairs :: P) G (z0.arrive (Instr.pufDerivation t k1 k2).time) s'
  unfold Machine.execPufDerivation
  with_reducible refine own_run (fun hw b => ?_)
  replace hp_boot := List.mem_cons_of_mem Part.pairs hp_boot
  have hp_pairs : Part.pairs ∈ Part.pairs :: P := List.mem_cons_self
  simp only [Instr.wf, Bool.and_eq_true, decide_eq_true_eq] at hw
  try dsimp only
  repeat' first
    | (exact hG.sub rfl) | with_reducible exact same _ | with_reducible assumption | with_reducible refine branch (fun hc => ?_) (fun hc => ?_)
    | with_reducible apply setStage | with_reducible apply formIdentity | with_reducible apply haltDevice
    | with_reducible refine boot_set (by assumption) ?_

theorem moves_loaderBlock {z0 : State} {t port ip off len : Nat} {data : List Nat} (hp_boot : Part.boot ∈ P) (hp_out : Part.out ∈ P) (hG : Cov G
    [⟨0xB000, 0xB000, 1, 1⟩, ⟨0xB000, 0xB000, 4, 4⟩, ⟨0xB000, 0xB000, 5, 5⟩]) : OwnMoves P G z0 (.loaderBlock t port ip off len data) := by
  change ∀ s', Machine.execLoaderBlock t port ip off len data z0 = .next s' → Own (.pairs :: P) G (z0.arrive (Instr.loaderBlock t port ip off len data).time) s'
  unfold Machine.execLoaderBlock
  with_reducible refine own_run (fun hw b => ?_)
  replace hp_boot := List.mem_cons_of_mem Part.pairs hp_boot
  replace hp_out := List.mem_cons_of_mem Part.pairs hp_out
  have hp_pairs : Part.pairs ∈ Part.pairs :: P := List.mem_cons_self
  simp only [Instr.wf, Bool.and_eq_true, decide_eq_true_eq] at hw
  try dsimp only
  repeat' first
    | (exact hG.sub rfl) | with_reducible exact same _ | with_reducible assumption | with_reducible refine branch (fun hc => ?_) (fun hc => ?_)
    | with_reducible apply takeBlock | with_reducible apply emit

theorem moves_loaderStatusOp {z0 : State} {t port ip : Nat} (hp_out : Part.out ∈ P) : OwnMoves P G z0 (.loaderStatusOp t port ip) := by
  change ∀ s', Machine.execLoaderStatusOp t port ip z0 = .next s' → Own (.pairs :: P) G (z0.arrive (Instr.loaderStatusOp t port ip).time) s'
  unfold Machine.execLoaderStatusOp
  with_reducible refine own_run (fun hw b => ?_)
  replace hp_out := List.mem_cons_of_mem Part.pairs hp_out
  have hp_pairs : Part.pairs ∈ Part.pairs :: P := List.mem_cons_self
  simp only [Instr.wf, Bool.and_eq_true, decide_eq_true_eq] at hw
  try dsimp only
  repeat' first
    | with_reducible exact same _ | with_reducible assumption | with_reducible refine branch (fun hc => ?_) (fun hc => ?_) | with_reducible apply emit

theorem moves_loaderAbort {z0 : State} {t port ip : Nat} (hp_boot : Part.boot ∈ P) (hp_out : Part.out ∈ P) (hG : Cov G [⟨0xB000, 0xB000, 1, 1⟩,
    ⟨0xB000, 0xB000, 4, 4⟩, ⟨0xB000, 0xB000, 5, 5⟩]) : OwnMoves P G z0 (.loaderAbort t port ip) := by
  change ∀ s', Machine.execLoaderAbort t port ip z0 = .next s' → Own (.pairs :: P) G (z0.arrive (Instr.loaderAbort t port ip).time) s'
  unfold Machine.execLoaderAbort
  with_reducible refine own_run (fun hw b => ?_)
  replace hp_boot := List.mem_cons_of_mem Part.pairs hp_boot
  replace hp_out := List.mem_cons_of_mem Part.pairs hp_out
  have hp_pairs : Part.pairs ∈ Part.pairs :: P := List.mem_cons_self
  simp only [Instr.wf, Bool.and_eq_true, decide_eq_true_eq] at hw
  try dsimp only
  repeat' first
    | (exact hG.sub rfl) | with_reducible exact same _ | with_reducible assumption | with_reducible refine branch (fun hc => ?_) (fun hc => ?_)
    | with_reducible apply endLoad | with_reducible apply emit

theorem moves_bootLoad {z0 : State} {t off len : Nat} {data : List Nat} (hp_boot : Part.boot ∈ P) (hG : Cov G [⟨0xB000, 0xB000, 1, 1⟩, ⟨0xB000,
    0xB000, 4, 4⟩, ⟨0xB000, 0xB000, 5, 5⟩]) : OwnMoves P G z0 (.bootLoad t off len data) := by
  change ∀ s', Machine.execBootLoad t off len data z0 = .next s' → Own (.pairs :: P) G (z0.arrive (Instr.bootLoad t off len data).time) s'
  unfold Machine.execBootLoad
  with_reducible refine own_run (fun hw b => ?_)
  replace hp_boot := List.mem_cons_of_mem Part.pairs hp_boot
  have hp_pairs : Part.pairs ∈ Part.pairs :: P := List.mem_cons_self
  simp only [Instr.wf, Bool.and_eq_true, decide_eq_true_eq] at hw
  try dsimp only
  repeat' first
    | (exact hG.sub rfl) | with_reducible exact same _ | with_reducible assumption | with_reducible refine branch (fun hc => ?_) (fun hc => ?_)
    | with_reducible apply takeBlock | with_reducible refine boot_set (by assumption) ?_

theorem moves_loaderStatus {z0 : State} {t : Nat} (hp_boot : Part.boot ∈ P) (hp_out : Part.out ∈ P) : OwnMoves P G z0 (.loaderStatus t) := by
  change ∀ s', Machine.execLoaderStatus t z0 = .next s' → Own (.pairs :: P) G (z0.arrive (Instr.loaderStatus t).time) s'
  unfold Machine.execLoaderStatus
  with_reducible refine own_run (fun hw b => ?_)
  replace hp_boot := List.mem_cons_of_mem Part.pairs hp_boot
  replace hp_out := List.mem_cons_of_mem Part.pairs hp_out
  have hp_pairs : Part.pairs ∈ Part.pairs :: P := List.mem_cons_self
  simp only [Instr.wf, Bool.and_eq_true, decide_eq_true_eq] at hw
  try dsimp only
  repeat' first
    | with_reducible exact same _ | with_reducible assumption | with_reducible refine branch (fun hc => ?_) (fun hc => ?_) | with_reducible apply emit
    | with_reducible refine boot_set (by assumption) ?_

theorem moves_loaderIdleTimeout {z0 : State} {t : Nat} (hp_boot : Part.boot ∈ P) (hG : Cov G [⟨0xB000, 0xB000, 1, 1⟩, ⟨0xB000, 0xB000, 4, 4⟩,
    ⟨0xB000, 0xB000, 5, 5⟩]) : OwnMoves P G z0 (.loaderIdleTimeout t) := by
  change ∀ s', Machine.execLoaderIdleTimeout t z0 = .next s' → Own (.pairs :: P) G (z0.arrive (Instr.loaderIdleTimeout t).time) s'
  unfold Machine.execLoaderIdleTimeout
  with_reducible refine own_run (fun hw b => ?_)
  replace hp_boot := List.mem_cons_of_mem Part.pairs hp_boot
  have hp_pairs : Part.pairs ∈ Part.pairs :: P := List.mem_cons_self
  simp only [Instr.wf, Bool.and_eq_true, decide_eq_true_eq] at hw
  try dsimp only
  repeat' first
    | (exact hG.sub rfl) | with_reducible exact same _ | with_reducible assumption | with_reducible refine branch (fun hc => ?_) (fun hc => ?_)
    | with_reducible apply endLoad

theorem moves_imageVerify {z0 : State} {t : Nat} (hp_boot : Part.boot ∈ P) (hG : Cov G [⟨0xB000, 0xB000, 1, 1⟩, ⟨0xB000, 0xB000, 4, 4⟩, ⟨0xB000,
    0xB000, 5, 5⟩]) : OwnMoves P G z0 (.imageVerify t) := by
  change ∀ s', Machine.execImageVerify t z0 = .next s' → Own (.pairs :: P) G (z0.arrive (Instr.imageVerify t).time) s'
  unfold Machine.execImageVerify
  with_reducible refine own_run (fun hw b => ?_)
  replace hp_boot := List.mem_cons_of_mem Part.pairs hp_boot
  have hp_pairs : Part.pairs ∈ Part.pairs :: P := List.mem_cons_self
  simp only [Instr.wf, Bool.and_eq_true, decide_eq_true_eq] at hw
  try dsimp only
  repeat' first
    | (exact hG.sub rfl) | (exact hG.item rfl) | with_reducible exact same _ | with_reducible assumption
    | with_reducible refine branch (fun hc => ?_) (fun hc => ?_) | with_reducible apply setStage | with_reducible apply setNum
    | with_reducible apply endLoad | with_reducible refine boot_set (by assumption) ?_

theorem moves_fwStart {z0 : State} {t : Nat} (hp_boot : Part.boot ∈ P) (hG : Cov G [⟨0x1000, 0x1000, 2, 2⟩, ⟨0xB000, 0xB000, 1, 1⟩, ⟨0xB000, 0xB000,
    4, 4⟩]) : OwnMoves P G z0 (.fwStart t) := by
  change ∀ s', Machine.execFwStart t z0 = .next s' → Own (.pairs :: P) G (z0.arrive (Instr.fwStart t).time) s'
  unfold Machine.execFwStart
  with_reducible refine own_run (fun hw b => ?_)
  replace hp_boot := List.mem_cons_of_mem Part.pairs hp_boot
  have hp_pairs : Part.pairs ∈ Part.pairs :: P := List.mem_cons_self
  simp only [Instr.wf, Bool.and_eq_true, decide_eq_true_eq] at hw
  try dsimp only
  repeat' first
    | (exact hG.sub rfl) | (exact hG.item rfl) | with_reducible exact same _ | with_reducible refine branch (fun hc => ?_) (fun hc => ?_)
    | with_reducible apply setStage | with_reducible apply setNum | with_reducible refine boot_set (by assumption) ?_

theorem moves_bringUp {z0 : State} {t sideRails : Nat} (hp_boot : Part.boot ∈ P) (hG : Cov G [⟨0x7050, 0x7050, 1, 1⟩, ⟨0xB000, 0xB000, 1, 1⟩,
    ⟨0xB000, 0xB000, 3, 3⟩, ⟨0xB000, 0xB000, 4, 4⟩]) : OwnMoves P G z0 (.bringUp t sideRails) := by
  change ∀ s', Machine.execBringUp t sideRails z0 = .next s' → Own (.pairs :: P) G (z0.arrive (Instr.bringUp t sideRails).time) s'
  unfold Machine.execBringUp
  with_reducible refine own_run (fun hw b => ?_)
  replace hp_boot := List.mem_cons_of_mem Part.pairs hp_boot
  have hp_pairs : Part.pairs ∈ Part.pairs :: P := List.mem_cons_self
  simp only [Instr.wf, Bool.and_eq_true, decide_eq_true_eq] at hw
  try dsimp only
  repeat' first
    | (exact hG.sub rfl) | with_reducible exact same _ | with_reducible assumption | with_reducible refine branch (fun hc => ?_) (fun hc => ?_)
    | with_reducible apply doBringUp

theorem moves_bringUpComplete {z0 : State} {t : Nat} {found : List (List Nat)} {linkOk : Bool} (hp_meas : Part.meas ∈ P) (hp_graphs : Part.graphs ∈
    P) (hp_gf : Part.gf ∈ P) (hp_plate : Part.plate ∈ P) (hp_sides : Part.sides ∈ P) (hp_safety : Part.safety ∈ P) (hp_clock : Part.clock ∈ P)
    (hp_capture : Part.capture ∈ P) (hG : Cov G [⟨0x2100, 0x213F, 11, 11⟩, ⟨0x6000, 0x6000, 2, 2⟩, ⟨0x6021, 0x6021, 1, 1⟩, ⟨0x6800, 0x6800, 2, 2⟩,
    ⟨0x7000, 0x7000, 5, 5⟩, ⟨0x7000, 0x7000, 8, 8⟩, ⟨0x7050, 0x7050, 1, 1⟩, ⟨0x7100, 0x7104, 3, 3⟩, ⟨0xB000, 0xB000, 1, 1⟩, ⟨0xB000, 0xB000, 4, 4⟩,
    ⟨0xB100, 0xB100, 2, 2⟩, ⟨0xB100, 0xB100, 3, 3⟩]) : OwnMoves P G z0 (.bringUpComplete t found linkOk) := by
  change ∀ s', Machine.execBringUpComplete t found linkOk z0 = .next s' → Own (.pairs :: P) G (z0.arrive (Instr.bringUpComplete t found linkOk).time) s'
  unfold Machine.execBringUpComplete
  with_reducible refine own_run (fun hw b => ?_)
  replace hp_meas := List.mem_cons_of_mem Part.pairs hp_meas
  replace hp_graphs := List.mem_cons_of_mem Part.pairs hp_graphs
  replace hp_gf := List.mem_cons_of_mem Part.pairs hp_gf
  replace hp_plate := List.mem_cons_of_mem Part.pairs hp_plate
  replace hp_sides := List.mem_cons_of_mem Part.pairs hp_sides
  replace hp_safety := List.mem_cons_of_mem Part.pairs hp_safety
  replace hp_clock := List.mem_cons_of_mem Part.pairs hp_clock
  replace hp_capture := List.mem_cons_of_mem Part.pairs hp_capture
  have hp_pairs : Part.pairs ∈ Part.pairs :: P := List.mem_cons_self
  simp only [Instr.wf, Bool.and_eq_true, decide_eq_true_eq] at hw
  try dsimp only
  repeat' first
    | (exact hG.sub rfl) | with_reducible exact same _ | with_reducible assumption | with_reducible refine branch (fun hc => ?_) (fun hc => ?_)
    | with_reducible apply endBringUp

theorem moves_islandWatchdog {z0 : State} {t : Nat} {internal : Bool} (hp_net : Part.net ∈ P) (hp_boot : Part.boot ∈ P) (hG : Cov G [⟨0xB000,
    0xB000, 6, 6⟩, ⟨0xB000, 0xB000, 7, 7⟩]) : OwnMoves P G z0 (.islandWatchdog t internal) := by
  change ∀ s', Machine.execIslandWatchdog t internal z0 = .next s' → Own (.pairs :: P) G (z0.arrive (Instr.islandWatchdog t internal).time) s'
  unfold Machine.execIslandWatchdog
  with_reducible refine own_run (fun hw b => ?_)
  replace hp_net := List.mem_cons_of_mem Part.pairs hp_net
  replace hp_boot := List.mem_cons_of_mem Part.pairs hp_boot
  have hp_pairs : Part.pairs ∈ Part.pairs :: P := List.mem_cons_self
  simp only [Instr.wf, Bool.and_eq_true, decide_eq_true_eq] at hw
  try dsimp only
  repeat' first
    | (exact hG.sub rfl) | with_reducible exact same _ | with_reducible assumption | with_reducible refine branch (fun hc => ?_) (fun hc => ?_)
    | with_reducible apply islandRestart

theorem moves_imagePartWrite {z0 : State} {t part : Nat} {data : List Nat} (hp_boot : Part.boot ∈ P) (hG : Cov G [⟨0xB200, 0xB200, 9, 9⟩, ⟨0xB200,
    0xB200, 10, 10⟩]) : OwnMoves P G z0 (.imagePartWrite t part data) := by
  change ∀ s', Machine.execImagePartWrite t part data z0 = .next s' → Own (.pairs :: P) G (z0.arrive (Instr.imagePartWrite t part data).time) s'
  unfold Machine.execImagePartWrite
  with_reducible refine own_run (fun hw b => ?_)
  replace hp_boot := List.mem_cons_of_mem Part.pairs hp_boot
  have hp_pairs : Part.pairs ∈ Part.pairs :: P := List.mem_cons_self
  simp only [Instr.wf, Bool.and_eq_true, decide_eq_true_eq] at hw
  try dsimp only
  repeat' first
    | (exact hG.sub rfl) | with_reducible exact same _ | with_reducible assumption | with_reducible refine branch (fun hc => ?_) (fun hc => ?_)
    | with_reducible apply writePart

theorem moves_imageVerifyCommand {z0 : State} {t : Nat} (hp_boot : Part.boot ∈ P) (hG : Cov G [⟨0xB000, 0xB000, 5, 5⟩, ⟨0xB200, 0xB200, 9, 9⟩,
    ⟨0xB200, 0xB200, 10, 10⟩]) : OwnMoves P G z0 (.imageVerifyCommand t) := by
  change ∀ s', Machine.execImageVerifyCommand t z0 = .next s' → Own (.pairs :: P) G (z0.arrive (Instr.imageVerifyCommand t).time) s'
  unfold Machine.execImageVerifyCommand
  with_reducible refine own_run (fun hw b => ?_)
  replace hp_boot := List.mem_cons_of_mem Part.pairs hp_boot
  have hp_pairs : Part.pairs ∈ Part.pairs :: P := List.mem_cons_self
  simp only [Instr.wf, Bool.and_eq_true, decide_eq_true_eq] at hw
  try dsimp only
  repeat' first
    | (exact hG.sub rfl) | with_reducible exact same _ | with_reducible assumption | with_reducible refine branch (fun hc => ?_) (fun hc => ?_)
    | with_reducible apply verifySlot

theorem moves_imageDiscard {z0 : State} {t : Nat} (hp_boot : Part.boot ∈ P) (hG : Cov G [⟨0xB200, 0xB200, 9, 9⟩, ⟨0xB200, 0xB200, 10, 10⟩]) :
    OwnMoves P G z0 (.imageDiscard t) := by
  change ∀ s', Machine.execImageDiscard t z0 = .next s' → Own (.pairs :: P) G (z0.arrive (Instr.imageDiscard t).time) s'
  unfold Machine.execImageDiscard
  with_reducible refine own_run (fun hw b => ?_)
  replace hp_boot := List.mem_cons_of_mem Part.pairs hp_boot
  have hp_pairs : Part.pairs ∈ Part.pairs :: P := List.mem_cons_self
  simp only [Instr.wf, Bool.and_eq_true, decide_eq_true_eq] at hw
  try dsimp only
  repeat' first
    | (exact hG.sub rfl) | with_reducible exact same _ | with_reducible assumption | with_reducible refine branch (fun hc => ?_) (fun hc => ?_)
    | with_reducible apply discardSlot

theorem moves_tempHigh {z0 : State} {t : Nat} {sensor : Nat} {value : Nat} {held : Nat} (hp_boot : Part.boot ∈ P) (hG : Cov G [⟨0xB010, 0xB010, 1,
    1⟩, ⟨0xB010, 0xB010, 3, 3⟩]) : OwnMoves P G z0 (.tempHigh t sensor value held) := by
  change ∀ s', Machine.execTempHigh t sensor value held z0 = .next s' → Own (.pairs :: P) G (z0.arrive (Instr.tempHigh t sensor value held).time) s'
  unfold Machine.execTempHigh
  with_reducible refine own_run (fun hw b => ?_)
  replace hp_boot := List.mem_cons_of_mem Part.pairs hp_boot
  have hp_pairs : Part.pairs ∈ Part.pairs :: P := List.mem_cons_self
  simp only [Instr.wf, Bool.and_eq_true, decide_eq_true_eq] at hw
  try dsimp only
  repeat' first
    | (exact hG.sub rfl) | (exact hG.item rfl) | with_reducible exact same _ | with_reducible assumption
    | with_reducible refine branch (fun hc => ?_) (fun hc => ?_) | with_reducible apply putSensor | with_reducible apply raise
    | with_reducible apply setBitO | omega | split | with_reducible refine boot_set (by assumption) ?_

theorem moves_tempCritical {z0 : State} {t : Nat} {sensor : Nat} {value : Nat} {held : Nat} (hp_meas : Part.meas ∈ P) (hp_graphs : Part.graphs ∈ P)
    (hp_gf : Part.gf ∈ P) (hp_plate : Part.plate ∈ P) (hp_stacks : Part.stacks ∈ P) (hp_sides : Part.sides ∈ P) (hp_safety : Part.safety ∈ P)
    (hp_sharing : Part.sharing ∈ P) (hp_clock : Part.clock ∈ P) (hp_capture : Part.capture ∈ P) (hp_boot : Part.boot ∈ P) (hG : Cov G [⟨0x2100,
    0x213F, 11, 11⟩, ⟨0x2500, 0x2503, 6, 6⟩, ⟨0x2500, 0x2503, 8, 8⟩, ⟨0x2500, 0x2503, 9, 9⟩, ⟨0x4001, 0x4001, 3, 3⟩, ⟨0x4001, 0x4001, 4, 4⟩,
    ⟨0x5200, 0x5247, 8, 8⟩, ⟨0x5300, 0x5300, 4, 4⟩, ⟨0x5320, 0x5320, 2, 2⟩, ⟨0x6000, 0x6000, 2, 2⟩, ⟨0x6021, 0x6021, 1, 1⟩, ⟨0x6021, 0x6021, 2, 2⟩,
    ⟨0x6021, 0x6021, 3, 3⟩, ⟨0x6021, 0x6021, 4, 4⟩, ⟨0x6800, 0x6800, 2, 2⟩, ⟨0x7000, 0x7000, 5, 5⟩, ⟨0x7000, 0x7000, 8, 8⟩, ⟨0x7050, 0x7050, 1, 1⟩,
    ⟨0x7100, 0x7104, 3, 3⟩, ⟨0x9010, 0x901F, 3, 3⟩, ⟨0xA000, 0xA000, 1, 1⟩, ⟨0xB000, 0xB000, 1, 1⟩, ⟨0xB000, 0xB000, 4, 4⟩, ⟨0xB010, 0xB010, 1, 1⟩,
    ⟨0xB010, 0xB010, 3, 3⟩]) : OwnMoves P G z0 (.tempCritical t sensor value held) := by
  change ∀ s', Machine.execTempCritical t sensor value held z0 = .next s' → Own (.pairs :: P) G (z0.arrive (Instr.tempCritical t sensor value held).time) s'
  unfold Machine.execTempCritical
  with_reducible refine own_run (fun hw b => ?_)
  replace hp_meas := List.mem_cons_of_mem Part.pairs hp_meas
  replace hp_graphs := List.mem_cons_of_mem Part.pairs hp_graphs
  replace hp_gf := List.mem_cons_of_mem Part.pairs hp_gf
  replace hp_plate := List.mem_cons_of_mem Part.pairs hp_plate
  replace hp_stacks := List.mem_cons_of_mem Part.pairs hp_stacks
  replace hp_sides := List.mem_cons_of_mem Part.pairs hp_sides
  replace hp_safety := List.mem_cons_of_mem Part.pairs hp_safety
  replace hp_sharing := List.mem_cons_of_mem Part.pairs hp_sharing
  replace hp_clock := List.mem_cons_of_mem Part.pairs hp_clock
  replace hp_capture := List.mem_cons_of_mem Part.pairs hp_capture
  replace hp_boot := List.mem_cons_of_mem Part.pairs hp_boot
  have hp_pairs : Part.pairs ∈ Part.pairs :: P := List.mem_cons_self
  simp only [Instr.wf, Bool.and_eq_true, decide_eq_true_eq] at hw
  try dsimp only
  repeat' first
    | (exact hG.sub rfl) | (exact hG.item rfl) | with_reducible exact same _ | with_reducible assumption
    | with_reducible refine branch (fun hc => ?_) (fun hc => ?_) | with_reducible apply noteCritical | with_reducible apply putSensor
    | with_reducible apply raise | with_reducible apply ridgeFault | with_reducible apply setBitO | with_reducible apply sideFault | omega
    | split

theorem moves_railWarning {z0 : State} {t : Nat} {sensor : Nat} {value : Nat} {held : Nat} (hp_boot : Part.boot ∈ P) (hG : Cov G [⟨0xB010, 0xB010,
    1, 1⟩, ⟨0xB010, 0xB010, 3, 3⟩]) : OwnMoves P G z0 (.railWarning t sensor value held) := by
  change ∀ s', Machine.execRailWarning t sensor value held z0 = .next s' → Own (.pairs :: P) G (z0.arrive (Instr.railWarning t sensor value held).time) s'
  unfold Machine.execRailWarning
  with_reducible refine own_run (fun hw b => ?_)
  replace hp_boot := List.mem_cons_of_mem Part.pairs hp_boot
  have hp_pairs : Part.pairs ∈ Part.pairs :: P := List.mem_cons_self
  simp only [Instr.wf, Bool.and_eq_true, decide_eq_true_eq] at hw
  try dsimp only
  repeat' first
    | (exact hG.sub rfl) | (exact hG.item rfl) | with_reducible exact same _ | with_reducible assumption
    | with_reducible refine branch (fun hc => ?_) (fun hc => ?_) | with_reducible apply putSensor | with_reducible apply raise
    | with_reducible apply setBitO | omega | split | with_reducible refine boot_set (by assumption) ?_

theorem moves_railFault {z0 : State} {t : Nat} {sensor : Nat} {value : Nat} {held : Nat} (hp_meas : Part.meas ∈ P) (hp_graphs : Part.graphs ∈ P)
    (hp_gf : Part.gf ∈ P) (hp_plate : Part.plate ∈ P) (hp_stacks : Part.stacks ∈ P) (hp_sides : Part.sides ∈ P) (hp_safety : Part.safety ∈ P)
    (hp_sharing : Part.sharing ∈ P) (hp_clock : Part.clock ∈ P) (hp_capture : Part.capture ∈ P) (hp_boot : Part.boot ∈ P) (hG : Cov G [⟨0x2100,
    0x213F, 11, 11⟩, ⟨0x2500, 0x2503, 6, 6⟩, ⟨0x2500, 0x2503, 8, 8⟩, ⟨0x2500, 0x2503, 9, 9⟩, ⟨0x4001, 0x4001, 3, 3⟩, ⟨0x4001, 0x4001, 4, 4⟩,
    ⟨0x5200, 0x5247, 8, 8⟩, ⟨0x5300, 0x5300, 4, 4⟩, ⟨0x5320, 0x5320, 2, 2⟩, ⟨0x6000, 0x6000, 2, 2⟩, ⟨0x6021, 0x6021, 1, 1⟩, ⟨0x6021, 0x6021, 2, 2⟩,
    ⟨0x6021, 0x6021, 3, 3⟩, ⟨0x6021, 0x6021, 4, 4⟩, ⟨0x6800, 0x6800, 2, 2⟩, ⟨0x7000, 0x7000, 5, 5⟩, ⟨0x7000, 0x7000, 8, 8⟩, ⟨0x7050, 0x7050, 1, 1⟩,
    ⟨0x7100, 0x7104, 3, 3⟩, ⟨0x9010, 0x901F, 3, 3⟩, ⟨0xA000, 0xA000, 1, 1⟩, ⟨0xB000, 0xB000, 1, 1⟩, ⟨0xB000, 0xB000, 4, 4⟩, ⟨0xB010, 0xB010, 1, 1⟩,
    ⟨0xB010, 0xB010, 3, 3⟩]) : OwnMoves P G z0 (.railFault t sensor value held) := by
  change ∀ s', Machine.execRailFault t sensor value held z0 = .next s' → Own (.pairs :: P) G (z0.arrive (Instr.railFault t sensor value held).time) s'
  unfold Machine.execRailFault
  with_reducible refine own_run (fun hw b => ?_)
  replace hp_meas := List.mem_cons_of_mem Part.pairs hp_meas
  replace hp_graphs := List.mem_cons_of_mem Part.pairs hp_graphs
  replace hp_gf := List.mem_cons_of_mem Part.pairs hp_gf
  replace hp_plate := List.mem_cons_of_mem Part.pairs hp_plate
  replace hp_stacks := List.mem_cons_of_mem Part.pairs hp_stacks
  replace hp_sides := List.mem_cons_of_mem Part.pairs hp_sides
  replace hp_safety := List.mem_cons_of_mem Part.pairs hp_safety
  replace hp_sharing := List.mem_cons_of_mem Part.pairs hp_sharing
  replace hp_clock := List.mem_cons_of_mem Part.pairs hp_clock
  replace hp_capture := List.mem_cons_of_mem Part.pairs hp_capture
  replace hp_boot := List.mem_cons_of_mem Part.pairs hp_boot
  have hp_pairs : Part.pairs ∈ Part.pairs :: P := List.mem_cons_self
  simp only [Instr.wf, Bool.and_eq_true, decide_eq_true_eq] at hw
  try dsimp only
  repeat' first
    | (exact hG.sub rfl) | (exact hG.item rfl) | with_reducible exact same _ | with_reducible assumption
    | with_reducible refine branch (fun hc => ?_) (fun hc => ?_) | with_reducible apply noteCritical | with_reducible apply putSensor
    | with_reducible apply raise | with_reducible apply ridgeFault | with_reducible apply setBitO | with_reducible apply sideFault | omega
    | split

theorem moves_vddRidgeLoss {z0 : State} {t : Nat} (hp_meas : Part.meas ∈ P) (hp_gf : Part.gf ∈ P) (hp_plate : Part.plate ∈ P) (hp_stacks :
    Part.stacks ∈ P) (hp_safety : Part.safety ∈ P) (hp_sharing : Part.sharing ∈ P) (hG : Cov G [⟨0x2500, 0x2503, 6, 6⟩, ⟨0x2500, 0x2503, 8, 8⟩,
    ⟨0x2500, 0x2503, 9, 9⟩, ⟨0x4001, 0x4001, 3, 3⟩, ⟨0x4001, 0x4001, 4, 4⟩, ⟨0x5300, 0x5300, 4, 4⟩, ⟨0x5320, 0x5320, 2, 2⟩, ⟨0x6800, 0x6800, 2, 2⟩,
    ⟨0x9010, 0x901F, 3, 3⟩, ⟨0xA000, 0xA000, 1, 1⟩, ⟨0xB000, 0xB000, 1, 1⟩, ⟨0xB000, 0xB000, 4, 4⟩]) : OwnMoves P G z0 (.vddRidgeLoss t) := by
  change ∀ s', Machine.execVddRidgeLoss t z0 = .next s' → Own (.pairs :: P) G (z0.arrive (Instr.vddRidgeLoss t).time) s'
  unfold Machine.execVddRidgeLoss
  with_reducible refine own_run (fun hw b => ?_)
  replace hp_meas := List.mem_cons_of_mem Part.pairs hp_meas
  replace hp_gf := List.mem_cons_of_mem Part.pairs hp_gf
  replace hp_plate := List.mem_cons_of_mem Part.pairs hp_plate
  replace hp_stacks := List.mem_cons_of_mem Part.pairs hp_stacks
  replace hp_safety := List.mem_cons_of_mem Part.pairs hp_safety
  replace hp_sharing := List.mem_cons_of_mem Part.pairs hp_sharing
  have hp_pairs : Part.pairs ∈ Part.pairs :: P := List.mem_cons_self
  simp only [Instr.wf, Bool.and_eq_true, decide_eq_true_eq] at hw
  try dsimp only
  repeat' first
    | (exact hG.sub rfl) | with_reducible exact same _ | with_reducible assumption | with_reducible apply ridgeFault
    | with_reducible apply plateReleaseAll | with_reducible apply holdGates

theorem moves_ridgeFault {z0 : State} {t : Nat} (hp_meas : Part.meas ∈ P) (hp_gf : Part.gf ∈ P) (hp_plate : Part.plate ∈ P) (hp_stacks : Part.stacks
    ∈ P) (hp_safety : Part.safety ∈ P) (hp_sharing : Part.sharing ∈ P) (hG : Cov G [⟨0x2500, 0x2503, 6, 6⟩, ⟨0x2500, 0x2503, 8, 8⟩, ⟨0x2500, 0x2503,
    9, 9⟩, ⟨0x4001, 0x4001, 3, 3⟩, ⟨0x4001, 0x4001, 4, 4⟩, ⟨0x5300, 0x5300, 4, 4⟩, ⟨0x5320, 0x5320, 2, 2⟩, ⟨0x6800, 0x6800, 2, 2⟩, ⟨0x9010, 0x901F,
    3, 3⟩, ⟨0xA000, 0xA000, 1, 1⟩, ⟨0xB000, 0xB000, 1, 1⟩, ⟨0xB000, 0xB000, 4, 4⟩]) : OwnMoves P G z0 (.ridgeFault t) := by
  change ∀ s', Machine.execRidgeFault t z0 = .next s' → Own (.pairs :: P) G (z0.arrive (Instr.ridgeFault t).time) s'
  unfold Machine.execRidgeFault
  with_reducible refine own_run (fun hw b => ?_)
  replace hp_meas := List.mem_cons_of_mem Part.pairs hp_meas
  replace hp_gf := List.mem_cons_of_mem Part.pairs hp_gf
  replace hp_plate := List.mem_cons_of_mem Part.pairs hp_plate
  replace hp_stacks := List.mem_cons_of_mem Part.pairs hp_stacks
  replace hp_safety := List.mem_cons_of_mem Part.pairs hp_safety
  replace hp_sharing := List.mem_cons_of_mem Part.pairs hp_sharing
  have hp_pairs : Part.pairs ∈ Part.pairs :: P := List.mem_cons_self
  simp only [Instr.wf, Bool.and_eq_true, decide_eq_true_eq] at hw
  try dsimp only
  repeat' first
    | (exact hG.sub rfl) | with_reducible exact same _ | with_reducible assumption | with_reducible apply ridgeFault

theorem moves_sensorUpdate {z0 : State} {t : Nat} {sensor : Nat} {value : Nat} (hp_sides : Part.sides ∈ P) (hp_plls : Part.plls ∈ P) (hp_boot :
    Part.boot ∈ P) (hG : Cov G [⟨0x6030, 0x6031, 1, 1⟩, ⟨0x7100, 0x7104, 3, 3⟩, ⟨0xB010, 0xB010, 1, 1⟩]) : OwnMoves P G z0 (.sensorUpdate t sensor
    value) := by
  change ∀ s', Machine.execSensorUpdate t sensor value z0 = .next s' → Own (.pairs :: P) G (z0.arrive (Instr.sensorUpdate t sensor value).time) s'
  unfold Machine.execSensorUpdate
  with_reducible refine own_run (fun hw b => ?_)
  replace hp_sides := List.mem_cons_of_mem Part.pairs hp_sides
  replace hp_plls := List.mem_cons_of_mem Part.pairs hp_plls
  replace hp_boot := List.mem_cons_of_mem Part.pairs hp_boot
  have hp_pairs : Part.pairs ∈ Part.pairs :: P := List.mem_cons_self
  simp only [Instr.wf, Bool.and_eq_true, decide_eq_true_eq] at hw
  try dsimp only
  repeat' first
    | (exact hG.sub rfl) | (exact hG.item rfl) | with_reducible exact same _ | with_reducible assumption
    | with_reducible refine branch (fun hc => ?_) (fun hc => ?_) | with_reducible apply putSensor | with_reducible apply startSecond
    | with_reducible apply takeSensor | omega | split

end Own
end Sys2Proof
end

