-- ==== Sys2Proof/Laws/MovesCapture.lean ====
section
/-!
SUPPORT. What each command moves, one lemma each: capture plans and segments.
-/

set_option Elab.async false
set_option maxRecDepth 2000
set_option linter.unusedVariables false
set_option linter.unusedSimpArgs false
namespace Sys2Proof
open Sys2Proof.Machine
variable {P : List Part} {G : List Objs}
namespace Own

theorem moves_arm {z0 : State} {t mask session : Nat} (hp_capture : Part.capture ∈ P) : OwnMoves P G z0 (.arm t mask session) := by
  change ∀ s', Machine.execArm t mask session z0 = .next s' → Own (.pairs :: P) G (z0.arrive (Instr.arm t mask session).time) s'
  unfold Machine.execArm
  with_reducible refine own_run (fun hw b => ?_)
  replace hp_capture := List.mem_cons_of_mem Part.pairs hp_capture
  have hp_pairs : Part.pairs ∈ Part.pairs :: P := List.mem_cons_self
  simp only [Instr.wf, Bool.and_eq_true, decide_eq_true_eq] at hw
  try dsimp only
  repeat' first
    | with_reducible exact same _ | with_reducible assumption | with_reducible refine branch (fun hc => ?_) (fun hc => ?_)
    | with_reducible apply armPlans

theorem moves_disarm {z0 : State} {t mask : Nat} (hp_capture : Part.capture ∈ P) : OwnMoves P G z0 (.disarm t mask) := by
  change ∀ s', Machine.execDisarm t mask z0 = .next s' → Own (.pairs :: P) G (z0.arrive (Instr.disarm t mask).time) s'
  unfold Machine.execDisarm
  with_reducible refine own_run (fun hw b => ?_)
  replace hp_capture := List.mem_cons_of_mem Part.pairs hp_capture
  have hp_pairs : Part.pairs ∈ Part.pairs :: P := List.mem_cons_self
  simp only [Instr.wf, Bool.and_eq_true, decide_eq_true_eq] at hw
  try dsimp only
  repeat' first
    | with_reducible exact same _ | with_reducible assumption | with_reducible refine branch (fun hc => ?_) (fun hc => ?_)
    | with_reducible apply disarmPlans

theorem moves_trigger {z0 : State} {t mask : Nat} : OwnMoves P G z0 (.trigger t mask) := by
  change ∀ s', Machine.execTrigger t mask z0 = .next s' → Own (.pairs :: P) G (z0.arrive (Instr.trigger t mask).time) s'
  unfold Machine.execTrigger
  with_reducible refine own_run (fun hw b => ?_)
  have hp_pairs : Part.pairs ∈ Part.pairs :: P := List.mem_cons_self
  simp only [Instr.wf, Bool.and_eq_true, decide_eq_true_eq] at hw
  try dsimp only
  repeat' first
    | with_reducible exact same _ | with_reducible refine branch (fun hc => ?_) (fun hc => ?_) | with_reducible apply triggerPlans

theorem moves_release {z0 : State} {t seg : Nat} (hp_capture : Part.capture ∈ P) : OwnMoves P G z0 (.release t seg) := by
  change ∀ s', Machine.execRelease t seg z0 = .next s' → Own (.pairs :: P) G (z0.arrive (Instr.release t seg).time) s'
  unfold Machine.execRelease
  with_reducible refine own_run (fun hw b => ?_)
  replace hp_capture := List.mem_cons_of_mem Part.pairs hp_capture
  have hp_pairs : Part.pairs ∈ Part.pairs :: P := List.mem_cons_self
  simp only [Instr.wf, Bool.and_eq_true, decide_eq_true_eq] at hw
  try dsimp only
  repeat' first
    | with_reducible exact same _ | with_reducible assumption | with_reducible refine branch (fun hc => ?_) (fun hc => ?_)
    | with_reducible apply releaseSegment

theorem moves_captureRow {z0 : State} {t : Nat} {side : Side} {k stamp fill : Nat} (hp_capture : Part.capture ∈ P) (hG : Cov G [⟨0x8000, 0x8000, 2,
    2⟩, ⟨0x8010, 0x8017, 12, 12⟩, ⟨0x8010, 0x8017, 13, 13⟩]) : OwnMoves P G z0 (.captureRow t side k stamp fill) := by
  change ∀ s', Machine.execCaptureRow t side k stamp fill z0 = .next s' → Own (.pairs :: P) G (z0.arrive (Instr.captureRow t side k stamp fill).time) s'
  unfold Machine.execCaptureRow
  with_reducible refine own_run (fun hw b => ?_)
  replace hp_capture := List.mem_cons_of_mem Part.pairs hp_capture
  have hp_pairs : Part.pairs ∈ Part.pairs :: P := List.mem_cons_self
  simp only [Instr.wf, Bool.and_eq_true, decide_eq_true_eq] at hw
  have := sideIx_lt side
  have := sideIx_lt (otherSide side)
  try dsimp only
  repeat' first
    | (exact hG.sub rfl) | with_reducible exact same _ | with_reducible assumption | with_reducible refine branch (fun hc => ?_) (fun hc => ?_)
    | with_reducible apply captureEvent | omega | split

theorem moves_streamBacklogHalving {z0 : State} {t k : Nat} (hp_capture : Part.capture ∈ P) : OwnMoves P G z0 (.streamBacklogHalving t k) := by
  change ∀ s', Machine.execStreamBacklogHalving t k z0 = .next s' → Own (.pairs :: P) G (z0.arrive (Instr.streamBacklogHalving t k).time) s'
  unfold Machine.execStreamBacklogHalving
  with_reducible refine own_run (fun hw b => ?_)
  replace hp_capture := List.mem_cons_of_mem Part.pairs hp_capture
  have hp_pairs : Part.pairs ∈ Part.pairs :: P := List.mem_cons_self
  simp only [Instr.wf, Bool.and_eq_true, decide_eq_true_eq] at hw
  try dsimp only
  repeat' first
    | with_reducible exact same _ | with_reducible assumption | with_reducible refine branch (fun hc => ?_) (fun hc => ?_)
    | with_reducible apply setStream | with_reducible apply setEngine

theorem moves_captureStreamSend {z0 : State} {t k : Nat} (hp_capture : Part.capture ∈ P) (hp_net : Part.net ∈ P) (hp_out : Part.out ∈ P) : OwnMoves
    P G z0 (.captureStreamSend t k) := by
  change ∀ s', Machine.execCaptureStreamSend t k z0 = .next s' → Own (.pairs :: P) G (z0.arrive (Instr.captureStreamSend t k).time) s'
  unfold Machine.execCaptureStreamSend
  with_reducible refine own_run (fun hw b => ?_)
  replace hp_capture := List.mem_cons_of_mem Part.pairs hp_capture
  replace hp_net := List.mem_cons_of_mem Part.pairs hp_net
  replace hp_out := List.mem_cons_of_mem Part.pairs hp_out
  have hp_pairs : Part.pairs ∈ Part.pairs :: P := List.mem_cons_self
  simp only [Instr.wf, Bool.and_eq_true, decide_eq_true_eq] at hw
  try dsimp only
  repeat' first
    | with_reducible exact same _ | with_reducible assumption | with_reducible refine branch (fun hc => ?_) (fun hc => ?_)
    | with_reducible apply sendStream

theorem moves_segmentHoldExpiry {z0 : State} {t : Nat} {side : Side} {seg : Nat} (hp_capture : Part.capture ∈ P) : OwnMoves P G z0
    (.segmentHoldExpiry t side seg) := by
  change ∀ s', Machine.execSegmentHoldExpiry t side seg z0 = .next s' → Own (.pairs :: P) G (z0.arrive (Instr.segmentHoldExpiry t side seg).time) s'
  unfold Machine.execSegmentHoldExpiry
  with_reducible refine own_run (fun hw b => ?_)
  replace hp_capture := List.mem_cons_of_mem Part.pairs hp_capture
  have hp_pairs : Part.pairs ∈ Part.pairs :: P := List.mem_cons_self
  simp only [Instr.wf, Bool.and_eq_true, decide_eq_true_eq] at hw
  have := sideIx_lt side
  have := sideIx_lt (otherSide side)
  try dsimp only
  repeat' first
    | with_reducible exact same _ | with_reducible assumption | with_reducible refine branch (fun hc => ?_) (fun hc => ?_)
    | with_reducible apply setSegment | split

theorem moves_segmentSelect {z0 : State} {t reader value : Nat} (hp_net : Part.net ∈ P) : OwnMoves P G z0 (.segmentSelect t reader value) := by
  change ∀ s', Machine.execSegmentSelect t reader value z0 = .next s' → Own (.pairs :: P) G (z0.arrive (Instr.segmentSelect t reader value).time) s'
  unfold Machine.execSegmentSelect
  with_reducible refine own_run (fun hw b => ?_)
  replace hp_net := List.mem_cons_of_mem Part.pairs hp_net
  have hp_pairs : Part.pairs ∈ Part.pairs :: P := List.mem_cons_self
  simp only [Instr.wf, Bool.and_eq_true, decide_eq_true_eq] at hw
  try dsimp only
  repeat' first
    | with_reducible exact same _ | with_reducible assumption | with_reducible refine branch (fun hc => ?_) (fun hc => ?_)
    | with_reducible apply selectSegment

theorem moves_segmentRowsRead {z0 : State} {t reader : Nat} (hp_capture : Part.capture ∈ P) (hp_net : Part.net ∈ P) (hp_out : Part.out ∈ P) :
    OwnMoves P G z0 (.segmentRowsRead t reader) := by
  change ∀ s', Machine.execSegmentRowsRead t reader z0 = .next s' → Own (.pairs :: P) G (z0.arrive (Instr.segmentRowsRead t reader).time) s'
  unfold Machine.execSegmentRowsRead
  with_reducible refine own_run (fun hw b => ?_)
  replace hp_capture := List.mem_cons_of_mem Part.pairs hp_capture
  replace hp_net := List.mem_cons_of_mem Part.pairs hp_net
  replace hp_out := List.mem_cons_of_mem Part.pairs hp_out
  have hp_pairs : Part.pairs ∈ Part.pairs :: P := List.mem_cons_self
  simp only [Instr.wf, Bool.and_eq_true, decide_eq_true_eq] at hw
  try dsimp only
  repeat' first
    | with_reducible exact same _ | with_reducible assumption | with_reducible refine branch (fun hc => ?_) (fun hc => ?_)
    | with_reducible apply readRows | with_reducible apply emit

end Own
end Sys2Proof
end

