-- ==== Sys2Proof/Laws/MovesClock.lean ====
section
/-!
SUPPORT. What each command moves, one lemma each: clocks and PLLs.
-/

set_option Elab.async false
set_option maxRecDepth 2000
set_option linter.unusedVariables false
set_option linter.unusedSimpArgs false
namespace Sys2Proof
open Sys2Proof.Machine
variable {P : List Part} {G : List Objs}
namespace Own

theorem setRefDead {z0 z1 : State} {alt : Bool} {dead : Bool} (hp_clock : Part.clock ∈ P) (h : Own P G z0 z1) : Own P G z0 (Machine.setRefDead alt
    dead z1) := by
  refine h.step ?_
  clear h
  unfold Machine.setRefDead
  try dsimp only
  repeat' first
    | with_reducible exact same _ | with_reducible assumption | with_reducible refine clock_set (by assumption) ?_

theorem moves_refFault {z0 : State} {t : Nat} {alt on edges : Bool} (hp_meas : Part.meas ∈ P) (hp_gf : Part.gf ∈ P) (hp_plate : Part.plate ∈ P)
    (hp_stacks : Part.stacks ∈ P) (hp_safety : Part.safety ∈ P) (hp_sharing : Part.sharing ∈ P) (hp_clock : Part.clock ∈ P) (hG : Cov G [⟨0x2500,
    0x2503, 6, 6⟩, ⟨0x2500, 0x2503, 8, 8⟩, ⟨0x2500, 0x2503, 9, 9⟩, ⟨0x4001, 0x4001, 3, 3⟩, ⟨0x4001, 0x4001, 4, 4⟩, ⟨0x5300, 0x5300, 4, 4⟩,
    ⟨0x5320, 0x5320, 2, 2⟩, ⟨0x6800, 0x6800, 2, 2⟩, ⟨0x7040, 0x7040, 2, 2⟩, ⟨0x7040, 0x7040, 3, 3⟩, ⟨0x9010, 0x901F, 3, 3⟩, ⟨0xA000, 0xA000, 1,
    1⟩, ⟨0xB000, 0xB000, 1, 1⟩, ⟨0xB000, 0xB000, 4, 4⟩]) : OwnMoves P G z0 (.refFault t alt on edges) := by
  change ∀ s', Machine.execRefFault t alt on edges z0 = .next s' → Own (.pairs :: P) G (z0.arrive (Instr.refFault t alt on edges).time) s'
  unfold Machine.execRefFault
  with_reducible refine own_run (fun hw b => ?_)
  replace hp_clock := List.mem_cons_of_mem Part.pairs hp_clock
  replace hp_meas := List.mem_cons_of_mem Part.pairs hp_meas
  replace hp_gf := List.mem_cons_of_mem Part.pairs hp_gf
  replace hp_plate := List.mem_cons_of_mem Part.pairs hp_plate
  replace hp_stacks := List.mem_cons_of_mem Part.pairs hp_stacks
  replace hp_safety := List.mem_cons_of_mem Part.pairs hp_safety
  replace hp_sharing := List.mem_cons_of_mem Part.pairs hp_sharing
  have hp_pairs : Part.pairs ∈ Part.pairs :: P := List.mem_cons_self
  simp only [Instr.wf, Bool.and_eq_true, decide_eq_true_eq] at hw
  try dsimp only
  repeat' first
    | (exact hG.sub rfl) | (exact hG.item rfl) | with_reducible exact same _ | with_reducible assumption
    | with_reducible refine branch (fun hc => ?_) (fun hc => ?_) | with_reducible apply setRefDead | with_reducible apply dueRefs
    | with_reducible apply refBecomesFaulty | with_reducible apply setBitO

theorem moves_refDisagree {z0 : State} {t diff : Nat} (hG : Cov G [⟨0x7040, 0x7040, 2, 2⟩, ⟨0x7040, 0x7040, 3, 3⟩]) : OwnMoves P G z0 (.refDisagree
    t diff) := by
  change ∀ s', Machine.execRefDisagree t diff z0 = .next s' → Own (.pairs :: P) G (z0.arrive (Instr.refDisagree t diff).time) s'
  unfold Machine.execRefDisagree
  with_reducible refine own_run (fun hw b => ?_)
  have hp_pairs : Part.pairs ∈ Part.pairs :: P := List.mem_cons_self
  simp only [Instr.wf, Bool.and_eq_true, decide_eq_true_eq] at hw
  try dsimp only
  repeat' first
    | (exact hG.sub rfl) | (exact hG.item rfl)
    | (exact hG.item rfl) | with_reducible exact same _ | with_reducible refine branch (fun hc => ?_) (fun hc => ?_) | with_reducible apply setBitO
    | with_reducible apply setNum | with_reducible apply raise

theorem moves_pllStart {z0 : State} {t : Nat} {p : Nat} (hp_plls : Part.plls ∈ P) (hG : Cov G [⟨0x7050, 0x7050, 1, 1⟩, ⟨0x7100, 0x7104, 3, 3⟩,
    ⟨0x7100, 0x7104, 6, 6⟩, ⟨0x7100, 0x7104, 7, 7⟩]) : OwnMoves P G z0 (.pllStart t p) := by
  change ∀ s', Machine.execPllStart t p z0 = .next s' → Own (.pairs :: P) G (z0.arrive (Instr.pllStart t p).time) s'
  unfold Machine.execPllStart
  with_reducible refine own_run (fun hw b => ?_)
  replace hp_plls := List.mem_cons_of_mem Part.pairs hp_plls
  have hp_pairs : Part.pairs ∈ Part.pairs :: P := List.mem_cons_self
  simp only [Instr.wf, Bool.and_eq_true, decide_eq_true_eq] at hw
  try dsimp only
  repeat' first
    | (exact hG.sub rfl) | (exact hG.item rfl) | with_reducible exact same _ | with_reducible assumption
    | with_reducible refine branch (fun hc => ?_) (fun hc => ?_) | with_reducible apply powerBays | with_reducible apply startPll | omega
    | split

theorem moves_pllLock {z0 : State} {t : Nat} {p : Nat} (hp_plls : Part.plls ∈ P) (hp_clock : Part.clock ∈ P) (hG : Cov G [⟨0x7100, 0x7104, 3, 3⟩,
    ⟨0x7100, 0x7104, 4, 4⟩, ⟨0x7100, 0x7104, 5, 5⟩]) : OwnMoves P G z0 (.pllLock t p) := by
  change ∀ s', Machine.execPllLock t p z0 = .next s' → Own (.pairs :: P) G (z0.arrive (Instr.pllLock t p).time) s'
  unfold Machine.execPllLock
  with_reducible refine own_run (fun hw b => ?_)
  replace hp_clock := List.mem_cons_of_mem Part.pairs hp_clock
  replace hp_plls := List.mem_cons_of_mem Part.pairs hp_plls
  have hp_pairs : Part.pairs ∈ Part.pairs :: P := List.mem_cons_self
  simp only [Instr.wf, Bool.and_eq_true, decide_eq_true_eq] at hw
  try dsimp only
  repeat' first
    | (exact hG.sub rfl) | (exact hG.item rfl) | with_reducible exact same _ | with_reducible assumption
    | with_reducible refine branch (fun hc => ?_) (fun hc => ?_) | with_reducible apply declareLock | with_reducible apply raise
    | with_reducible apply setBitO
    | (refine hG.hit 0x7100 0x7104 3 3 rfl ?_ ?_ ?_ ?_ ?_ <;> (first | omega | ((try simp only [quantIx, ctrIx, planIx, bankIndex, resIx, pllSide, instRecord, recordIndex]); omega) | (simp only [Bool.and_eq_true, decide_eq_true_eq] at *; omega)))
    | omega
    | (refine hG.hit 0x7100 0x7104 3 3 rfl ?_ ?_ ?_ ?_ ?_ <;> (first | omega | ((try simp only [quantIx, ctrIx, planIx, bankIndex, resIx, pllSide, instRecord, recordIndex]); omega)))
    | split

theorem moves_pllRetryBand {z0 : State} {t : Nat} {p : Nat} (hp_plls : Part.plls ∈ P) (hG : Cov G [⟨0x7100, 0x7104, 3, 3⟩]) : OwnMoves P G z0
    (.pllRetryBand t p) := by
  change ∀ s', Machine.execPllRetryBand t p z0 = .next s' → Own (.pairs :: P) G (z0.arrive (Instr.pllRetryBand t p).time) s'
  unfold Machine.execPllRetryBand
  with_reducible refine own_run (fun hw b => ?_)
  replace hp_plls := List.mem_cons_of_mem Part.pairs hp_plls
  have hp_pairs : Part.pairs ∈ Part.pairs :: P := List.mem_cons_self
  simp only [Instr.wf, Bool.and_eq_true, decide_eq_true_eq] at hw
  try dsimp only
  repeat' first
    | (exact hG.sub rfl) | (exact hG.item rfl) | with_reducible exact same _ | with_reducible assumption
    | with_reducible refine branch (fun hc => ?_) (fun hc => ?_) | with_reducible apply setPll | with_reducible apply tryBand | omega | split

theorem moves_pllSweep {z0 : State} {t : Nat} {p : Nat} (hp_sides : Part.sides ∈ P) (hp_plls : Part.plls ∈ P) (hG : Cov G [⟨0x6021, 0x6021, 1, 1⟩,
    ⟨0x7100, 0x7104, 3, 3⟩]) : OwnMoves P G z0 (.pllSweep t p) := by
  change ∀ s', Machine.execPllSweep t p z0 = .next s' → Own (.pairs :: P) G (z0.arrive (Instr.pllSweep t p).time) s'
  unfold Machine.execPllSweep
  with_reducible refine own_run (fun hw b => ?_)
  replace hp_sides := List.mem_cons_of_mem Part.pairs hp_sides
  replace hp_plls := List.mem_cons_of_mem Part.pairs hp_plls
  have hp_pairs : Part.pairs ∈ Part.pairs :: P := List.mem_cons_self
  simp only [Instr.wf, Bool.and_eq_true, decide_eq_true_eq] at hw
  try dsimp only
  repeat' first
    | (exact hG.sub rfl) | (exact hG.item rfl) | with_reducible exact same _ | with_reducible assumption
    | with_reducible refine branch (fun hc => ?_) (fun hc => ?_) | with_reducible apply failAttempt | with_reducible apply raise
    | with_reducible apply setBitO | with_reducible apply setPll
    | (refine hG.hit 0x7100 0x7104 3 3 rfl ?_ ?_ ?_ ?_ ?_ <;> (first | omega | ((try simp only [quantIx, ctrIx, planIx, bankIndex, resIx, pllSide, instRecord, recordIndex]); omega) | (simp only [Bool.and_eq_true, decide_eq_true_eq] at *; omega)))
    | omega | split
    | (refine hG.hit 0x7100 0x7104 3 3 rfl ?_ ?_ ?_ ?_ ?_ <;> (first | omega | ((try simp only [quantIx, ctrIx, planIx, bankIndex, resIx, pllSide, instRecord, recordIndex]); omega)))

theorem moves_pllSweepDone {z0 : State} {t : Nat} {p : Nat} {table : List Nat} (hp_meas : Part.meas ∈ P) (hp_graphs : Part.graphs ∈ P) (hp_gf :
    Part.gf ∈ P) (hp_plate : Part.plate ∈ P) (hp_stacks : Part.stacks ∈ P) (hp_sides : Part.sides ∈ P) (hp_safety : Part.safety ∈ P) (hp_sharing :
    Part.sharing ∈ P) (hp_clock : Part.clock ∈ P) (hp_plls : Part.plls ∈ P) (hp_capture : Part.capture ∈ P) (hG : Cov G [⟨0x2100, 0x213F, 11, 11⟩,
    ⟨0x2500, 0x2503, 6, 6⟩, ⟨0x2500, 0x2503, 8, 8⟩, ⟨0x2500, 0x2503, 9, 9⟩, ⟨0x4001, 0x4001, 3, 3⟩, ⟨0x4001, 0x4001, 4, 4⟩, ⟨0x5200, 0x5247, 8, 8⟩,
    ⟨0x5300, 0x5300, 4, 4⟩, ⟨0x5320, 0x5320, 2, 2⟩, ⟨0x6000, 0x6000, 2, 2⟩, ⟨0x6021, 0x6021, 1, 1⟩, ⟨0x6021, 0x6021, 2, 2⟩, ⟨0x6021, 0x6021, 3, 3⟩,
    ⟨0x6021, 0x6021, 4, 4⟩, ⟨0x6800, 0x6800, 2, 2⟩, ⟨0x7000, 0x7000, 5, 5⟩, ⟨0x7000, 0x7000, 8, 8⟩, ⟨0x7050, 0x7050, 1, 1⟩, ⟨0x7100, 0x7104, 3, 3⟩,
    ⟨0x7100, 0x7104, 4, 4⟩, ⟨0x7100, 0x7104, 5, 5⟩, ⟨0x7100, 0x7104, 7, 7⟩, ⟨0x9010, 0x901F, 3, 3⟩, ⟨0xA000, 0xA000, 1, 1⟩, ⟨0xB000, 0xB000, 1, 1⟩,
    ⟨0xB000, 0xB000, 4, 4⟩]) : OwnMoves P G z0 (.pllSweepDone t p table) := by
  change ∀ s', Machine.execPllSweepDone t p table z0 = .next s' → Own (.pairs :: P) G (z0.arrive (Instr.pllSweepDone t p table).time) s'
  unfold Machine.execPllSweepDone
  with_reducible refine own_run (fun hw b => ?_)
  replace hp_meas := List.mem_cons_of_mem Part.pairs hp_meas
  replace hp_graphs := List.mem_cons_of_mem Part.pairs hp_graphs
  replace hp_gf := List.mem_cons_of_mem Part.pairs hp_gf
  replace hp_plate := List.mem_cons_of_mem Part.pairs hp_plate
  replace hp_stacks := List.mem_cons_of_mem Part.pairs hp_stacks
  replace hp_sides := List.mem_cons_of_mem Part.pairs hp_sides
  replace hp_safety := List.mem_cons_of_mem Part.pairs hp_safety
  replace hp_sharing := List.mem_cons_of_mem Part.pairs hp_sharing
  replace hp_clock := List.mem_cons_of_mem Part.pairs hp_clock
  replace hp_plls := List.mem_cons_of_mem Part.pairs hp_plls
  replace hp_capture := List.mem_cons_of_mem Part.pairs hp_capture
  have hp_pairs : Part.pairs ∈ Part.pairs :: P := List.mem_cons_self
  simp only [Instr.wf, Bool.and_eq_true, decide_eq_true_eq] at hw
  try dsimp only
  repeat' first
    | (exact hG.sub rfl) | (exact hG.item rfl) | with_reducible exact same _ | with_reducible assumption
    | with_reducible refine branch (fun hc => ?_) (fun hc => ?_) | with_reducible apply declareLock | with_reducible apply setBlob
    | with_reducible apply setPll | with_reducible apply sweepFailed
    | (refine hG.hit 0x7100 0x7104 7 7 rfl ?_ ?_ ?_ ?_ ?_ <;> (first | omega | ((try simp only [quantIx, ctrIx, planIx, bankIndex, resIx, pllSide, instRecord, recordIndex]); omega) | (simp only [Bool.and_eq_true, decide_eq_true_eq] at *; omega)))
    | omega | split
    | (refine hG.hit 0x7100 0x7104 7 7 rfl ?_ ?_ ?_ ?_ ?_ <;> (first | omega | ((try simp only [quantIx, ctrIx, planIx, bankIndex, resIx, pllSide, instRecord, recordIndex]); omega)))

theorem moves_pllLockLost {z0 : State} {t : Nat} {p : Nat} {stopped : Bool} (hp_meas : Part.meas ∈ P) (hp_graphs : Part.graphs ∈ P) (hp_gf : Part.gf
    ∈ P) (hp_plate : Part.plate ∈ P) (hp_stacks : Part.stacks ∈ P) (hp_sides : Part.sides ∈ P) (hp_safety : Part.safety ∈ P) (hp_sharing :
    Part.sharing ∈ P) (hp_clock : Part.clock ∈ P) (hp_plls : Part.plls ∈ P) (hp_capture : Part.capture ∈ P) (hG : Cov G [⟨0x2100, 0x213F, 11, 11⟩,
    ⟨0x2500, 0x2503, 6, 6⟩, ⟨0x2500, 0x2503, 8, 8⟩, ⟨0x2500, 0x2503, 9, 9⟩, ⟨0x4001, 0x4001, 3, 3⟩, ⟨0x4001, 0x4001, 4, 4⟩, ⟨0x5200, 0x5247, 8, 8⟩,
    ⟨0x5300, 0x5300, 4, 4⟩, ⟨0x5320, 0x5320, 2, 2⟩, ⟨0x6000, 0x6000, 2, 2⟩, ⟨0x6021, 0x6021, 1, 1⟩, ⟨0x6021, 0x6021, 2, 2⟩, ⟨0x6021, 0x6021, 3, 3⟩,
    ⟨0x6021, 0x6021, 4, 4⟩, ⟨0x6030, 0x6031, 1, 1⟩, ⟨0x6800, 0x6800, 2, 2⟩, ⟨0x7000, 0x7000, 5, 5⟩, ⟨0x7000, 0x7000, 8, 8⟩, ⟨0x7050, 0x7050, 1, 1⟩,
    ⟨0x7100, 0x7104, 3, 3⟩, ⟨0x7100, 0x7104, 6, 6⟩, ⟨0x7100, 0x7104, 7, 7⟩, ⟨0x7200, 0x7207, 2, 2⟩, ⟨0x9010, 0x901F, 3, 3⟩, ⟨0xA000, 0xA000, 1, 1⟩])
    : OwnMoves P G z0 (.pllLockLost t p stopped) := by
  change ∀ s', Machine.execPllLockLost t p stopped z0 = .next s' → Own (.pairs :: P) G (z0.arrive (Instr.pllLockLost t p stopped).time) s'
  unfold Machine.execPllLockLost
  with_reducible refine own_run (fun hw b => ?_)
  replace hp_meas := List.mem_cons_of_mem Part.pairs hp_meas
  replace hp_graphs := List.mem_cons_of_mem Part.pairs hp_graphs
  replace hp_gf := List.mem_cons_of_mem Part.pairs hp_gf
  replace hp_plate := List.mem_cons_of_mem Part.pairs hp_plate
  replace hp_stacks := List.mem_cons_of_mem Part.pairs hp_stacks
  replace hp_sides := List.mem_cons_of_mem Part.pairs hp_sides
  replace hp_safety := List.mem_cons_of_mem Part.pairs hp_safety
  replace hp_sharing := List.mem_cons_of_mem Part.pairs hp_sharing
  replace hp_clock := List.mem_cons_of_mem Part.pairs hp_clock
  replace hp_plls := List.mem_cons_of_mem Part.pairs hp_plls
  replace hp_capture := List.mem_cons_of_mem Part.pairs hp_capture
  have hp_pairs : Part.pairs ∈ Part.pairs :: P := List.mem_cons_self
  simp only [Instr.wf, Bool.and_eq_true, decide_eq_true_eq] at hw
  try dsimp only
  repeat' first
    | (exact hG.sub rfl) | (exact hG.item rfl) | with_reducible exact same _ | with_reducible assumption
    | with_reducible refine branch (fun hc => ?_) (fun hc => ?_) | with_reducible apply clockFound | with_reducible apply raise
    | with_reducible apply setBitO | with_reducible apply sideFault | with_reducible apply startPll | with_reducible apply stopOutputs
    | (refine hG.hit 0x6030 0x6031 1 1 rfl ?_ ?_ ?_ ?_ ?_ <;> (first | omega | ((try simp only [quantIx, ctrIx, planIx, bankIndex, resIx, pllSide, instRecord, recordIndex]); omega) | (simp only [Bool.and_eq_true, decide_eq_true_eq] at *; omega)))
    | omega | split | (refine hG.hit 0x6030 0x6031 1 1 rfl ?_ ?_ ?_ ?_ ?_ <;> (first | omega | ((have := sideIx_lt (pllSide p); omega))))
    | (refine hG.hit 0x7100 0x7104 3 3 rfl ?_ ?_ ?_ ?_ ?_ <;> (first | omega | ((try simp only [quantIx, ctrIx, planIx, bankIndex, resIx, pllSide, instRecord, recordIndex]); omega)))

theorem moves_clkoutStart {z0 : State} {t word : Nat} (hp_clock : Part.clock ∈ P) (hG : Cov G [⟨0x7060, 0x7060, 2, 2⟩]) : OwnMoves P G z0
    (.clkoutStart t word) := by
  change ∀ s', Machine.execClkoutStart t word z0 = .next s' → Own (.pairs :: P) G (z0.arrive (Instr.clkoutStart t word).time) s'
  unfold Machine.execClkoutStart
  with_reducible refine own_run (fun hw b => ?_)
  replace hp_clock := List.mem_cons_of_mem Part.pairs hp_clock
  have hp_pairs : Part.pairs ∈ Part.pairs :: P := List.mem_cons_self
  simp only [Instr.wf, Bool.and_eq_true, decide_eq_true_eq] at hw
  try dsimp only
  repeat' first
    | (exact hG.sub rfl) | with_reducible exact same _ | with_reducible assumption | with_reducible refine branch (fun hc => ?_) (fun hc => ?_)
    | with_reducible apply clkCommand

theorem moves_clkoutStop {z0 : State} {t word : Nat} (hp_clock : Part.clock ∈ P) (hG : Cov G [⟨0x7060, 0x7060, 2, 2⟩]) : OwnMoves P G z0
    (.clkoutStop t word) := by
  change ∀ s', Machine.execClkoutStop t word z0 = .next s' → Own (.pairs :: P) G (z0.arrive (Instr.clkoutStop t word).time) s'
  unfold Machine.execClkoutStop
  with_reducible refine own_run (fun hw b => ?_)
  replace hp_clock := List.mem_cons_of_mem Part.pairs hp_clock
  have hp_pairs : Part.pairs ∈ Part.pairs :: P := List.mem_cons_self
  simp only [Instr.wf, Bool.and_eq_true, decide_eq_true_eq] at hw
  try dsimp only
  repeat' first
    | (exact hG.sub rfl) | with_reducible exact same _ | with_reducible assumption | with_reducible refine branch (fun hc => ?_) (fun hc => ?_)
    | with_reducible apply clkCommand

theorem moves_clkoutGateOpen {z0 : State} {t k : Nat} (hp_clock : Part.clock ∈ P) (hG : Cov G [⟨0x7200, 0x7207, 2, 2⟩]) : OwnMoves P G z0
    (.clkoutGateOpen t k) := by
  change ∀ s', Machine.execClkoutGateOpen t k z0 = .next s' → Own (.pairs :: P) G (z0.arrive (Instr.clkoutGateOpen t k).time) s'
  unfold Machine.execClkoutGateOpen
  with_reducible refine own_run (fun hw b => ?_)
  replace hp_clock := List.mem_cons_of_mem Part.pairs hp_clock
  have hp_pairs : Part.pairs ∈ Part.pairs :: P := List.mem_cons_self
  simp only [Instr.wf, Bool.and_eq_true, decide_eq_true_eq] at hw
  try dsimp only
  repeat' first
    | (exact hG.sub rfl) | with_reducible exact same _ | with_reducible assumption | with_reducible apply openGate

theorem moves_clkoutGateClose {z0 : State} {t k : Nat} (hp_clock : Part.clock ∈ P) (hG : Cov G [⟨0x7200, 0x7207, 2, 2⟩]) : OwnMoves P G z0
    (.clkoutGateClose t k) := by
  change ∀ s', Machine.execClkoutGateClose t k z0 = .next s' → Own (.pairs :: P) G (z0.arrive (Instr.clkoutGateClose t k).time) s'
  unfold Machine.execClkoutGateClose
  with_reducible refine own_run (fun hw b => ?_)
  replace hp_clock := List.mem_cons_of_mem Part.pairs hp_clock
  have hp_pairs : Part.pairs ∈ Part.pairs :: P := List.mem_cons_self
  simp only [Instr.wf, Bool.and_eq_true, decide_eq_true_eq] at hw
  try dsimp only
  repeat' first
    | (exact hG.sub rfl) | with_reducible exact same _ | with_reducible assumption | with_reducible apply closeGate

theorem moves_trussClockSwitch {z0 : State} {t : Nat} {side : Side} (hp_clock : Part.clock ∈ P) (hG : Cov G [⟨0x7050, 0x7050, 1, 1⟩, ⟨0x7100,
    0x7104, 3, 3⟩]) : OwnMoves P G z0 (.trussClockSwitch t side) := by
  change ∀ s', Machine.execTrussClockSwitch t side z0 = .next s' → Own (.pairs :: P) G (z0.arrive (Instr.trussClockSwitch t side).time) s'
  unfold Machine.execTrussClockSwitch
  with_reducible refine own_run (fun hw b => ?_)
  replace hp_clock := List.mem_cons_of_mem Part.pairs hp_clock
  have hp_pairs : Part.pairs ∈ Part.pairs :: P := List.mem_cons_self
  simp only [Instr.wf, Bool.and_eq_true, decide_eq_true_eq] at hw
  have := sideIx_lt side
  have := sideIx_lt (otherSide side)
  try dsimp only
  repeat' first
    | (exact hG.sub rfl) | with_reducible exact same _ | with_reducible assumption | with_reducible apply switchTruss

theorem moves_switchDeferred {z0 : State} {t : Nat} {side : Side} (hp_clock : Part.clock ∈ P) (hG : Cov G [⟨0x7050, 0x7050, 1, 1⟩]) : OwnMoves P G
    z0 (.switchDeferred t side) := by
  change ∀ s', Machine.execSwitchDeferred t side z0 = .next s' → Own (.pairs :: P) G (z0.arrive (Instr.switchDeferred t side).time) s'
  unfold Machine.execSwitchDeferred
  with_reducible refine own_run (fun hw b => ?_)
  replace hp_clock := List.mem_cons_of_mem Part.pairs hp_clock
  have hp_pairs : Part.pairs ∈ Part.pairs :: P := List.mem_cons_self
  simp only [Instr.wf, Bool.and_eq_true, decide_eq_true_eq] at hw
  have := sideIx_lt side
  try dsimp only
  repeat' first
    | (exact hG.sub rfl) | (exact hG.item rfl) | with_reducible exact same _ | with_reducible assumption
    | with_reducible refine branch (fun hc => ?_) (fun hc => ?_) | with_reducible apply setDeferred | omega | split

end Own
end Sys2Proof
end

