-- ==== Sys2Proof/Laws/MovesFrames.lean ====
section
/-!
SUPPORT. What each command moves, one lemma each: network frames.
-/

set_option Elab.async false
set_option maxRecDepth 2000
set_option linter.unusedVariables false
set_option linter.unusedSimpArgs false
namespace Sys2Proof
open Sys2Proof.Machine
variable {P : List Part} {G : List Objs}
namespace Own

theorem replyFrame {z0 z1 : State} {kind : Nat} {port : Nat} {body : List Nat} (hp_out : Part.out ∈ P) (hp_net : Part.net ∈ P) (h : Own P G z0 z1)
    : Own P G z0 (Machine.replyFrame kind port body z1) := by
  refine h.step ?_
  clear h
  unfold Machine.replyFrame
  try dsimp only
  repeat' first
    | with_reducible exact same _ | with_reducible assumption | with_reducible refine branch (fun hc => ?_) (fun hc => ?_)
    | with_reducible apply emit | with_reducible apply frameOut | with_reducible refine net_set (by assumption) ?_

theorem moves_arpRequest {z0 : State} {t port target : Nat} (hp_net : Part.net ∈ P) (hp_out : Part.out ∈ P) : OwnMoves P G z0 (.arpRequest t port
    target) := by
  change ∀ s', Machine.execArpRequest t port target z0 = .next s' → Own (.pairs :: P) G (z0.arrive (Instr.arpRequest t port target).time) s'
  unfold Machine.execArpRequest
  with_reducible refine own_run (fun hw b => ?_)
  replace hp_net := List.mem_cons_of_mem Part.pairs hp_net
  replace hp_out := List.mem_cons_of_mem Part.pairs hp_out
  have hp_pairs : Part.pairs ∈ Part.pairs :: P := List.mem_cons_self
  simp only [Instr.wf, Bool.and_eq_true, decide_eq_true_eq] at hw
  try dsimp only
  repeat' first
    | with_reducible exact same _ | with_reducible assumption | with_reducible refine branch (fun hc => ?_) (fun hc => ?_)
    | with_reducible apply replyFrame | with_reducible apply frameOut | with_reducible apply emit

theorem moves_icmpEcho {z0 : State} {t port target : Nat} (hp_net : Part.net ∈ P) (hp_out : Part.out ∈ P) : OwnMoves P G z0 (.icmpEcho t port
    target) := by
  change ∀ s', Machine.execIcmpEcho t port target z0 = .next s' → Own (.pairs :: P) G (z0.arrive (Instr.icmpEcho t port target).time) s'
  unfold Machine.execIcmpEcho
  with_reducible refine own_run (fun hw b => ?_)
  replace hp_net := List.mem_cons_of_mem Part.pairs hp_net
  replace hp_out := List.mem_cons_of_mem Part.pairs hp_out
  have hp_pairs : Part.pairs ∈ Part.pairs :: P := List.mem_cons_self
  simp only [Instr.wf, Bool.and_eq_true, decide_eq_true_eq] at hw
  try dsimp only
  repeat' first
    | with_reducible exact same _ | with_reducible assumption | with_reducible refine branch (fun hc => ?_) (fun hc => ?_)
    | with_reducible apply replyFrame | with_reducible apply frameOut | with_reducible apply emit
    | with_reducible refine net_set (by assumption) ?_

theorem moves_supervisionFrameSend {z0 : State} {t : Nat} (hp_net : Part.net ∈ P) (hp_out : Part.out ∈ P) : OwnMoves P G z0 (.supervisionFrameSend
    t) := by
  change ∀ s', Machine.execSupervisionFrameSend t z0 = .next s' → Own (.pairs :: P) G (z0.arrive (Instr.supervisionFrameSend t).time) s'
  unfold Machine.execSupervisionFrameSend
  with_reducible refine own_run (fun hw b => ?_)
  replace hp_net := List.mem_cons_of_mem Part.pairs hp_net
  replace hp_out := List.mem_cons_of_mem Part.pairs hp_out
  have hp_pairs : Part.pairs ∈ Part.pairs :: P := List.mem_cons_self
  simp only [Instr.wf, Bool.and_eq_true, decide_eq_true_eq] at hw
  try dsimp only
  repeat' first
    | with_reducible exact same _ | with_reducible assumption | with_reducible refine branch (fun hc => ?_) (fun hc => ?_)
    | with_reducible apply emit | with_reducible apply frameOut | omega | split | with_reducible refine net_set (by assumption) ?_

theorem moves_lanFault {z0 : State} {t port : Nat} (hG : Cov G [⟨0x1020, 0x1020, 5, 5⟩]) : OwnMoves P G z0 (.lanFault t port) := by
  change ∀ s', Machine.execLanFault t port z0 = .next s' → Own (.pairs :: P) G (z0.arrive (Instr.lanFault t port).time) s'
  unfold Machine.execLanFault
  with_reducible refine own_run (fun hw b => ?_)
  have hp_pairs : Part.pairs ∈ Part.pairs :: P := List.mem_cons_self
  simp only [Instr.wf, Bool.and_eq_true, decide_eq_true_eq] at hw
  try dsimp only
  repeat' first
    | (exact hG.sub rfl) | (exact hG.item rfl)
    | (exact hG.item rfl) | with_reducible exact same _ | with_reducible refine branch (fun hc => ?_) (fun hc => ?_) | with_reducible apply raise
    | with_reducible apply setBitO

theorem moves_ringFault {z0 : State} {t port : Nat} (hp_net : Part.net ∈ P) (hG : Cov G [⟨0x1020, 0x1020, 5, 5⟩]) : OwnMoves P G z0 (.ringFault t
    port) := by
  change ∀ s', Machine.execRingFault t port z0 = .next s' → Own (.pairs :: P) G (z0.arrive (Instr.ringFault t port).time) s'
  unfold Machine.execRingFault
  with_reducible refine own_run (fun hw b => ?_)
  replace hp_net := List.mem_cons_of_mem Part.pairs hp_net
  have hp_pairs : Part.pairs ∈ Part.pairs :: P := List.mem_cons_self
  simp only [Instr.wf, Bool.and_eq_true, decide_eq_true_eq] at hw
  try dsimp only
  repeat' first
    | (exact hG.sub rfl) | (exact hG.item rfl)
    | (exact hG.item rfl) | with_reducible exact same _ | with_reducible refine branch (fun hc => ?_) (fun hc => ?_) | with_reducible apply raise
    | with_reducible apply setBitO | with_reducible refine net_set (by assumption) ?_

theorem moves_portLinkChange {z0 : State} {t port : Nat} {up : Bool} (hG : Cov G [⟨0x1020, 0x1020, 5, 5⟩]) : OwnMoves P G z0 (.portLinkChange t port
    up) := by
  change ∀ s', Machine.execPortLinkChange t port up z0 = .next s' → Own (.pairs :: P) G (z0.arrive (Instr.portLinkChange t port up).time) s'
  unfold Machine.execPortLinkChange
  with_reducible refine own_run (fun hw b => ?_)
  have hp_pairs : Part.pairs ∈ Part.pairs :: P := List.mem_cons_self
  simp only [Instr.wf, Bool.and_eq_true, decide_eq_true_eq] at hw
  try dsimp only
  repeat' first
    | (exact hG.sub rfl) | (exact hG.item rfl)
    | (exact hG.item rfl) | with_reducible exact same _ | with_reducible refine branch (fun hc => ?_) (fun hc => ?_) | with_reducible apply raise
    | with_reducible apply setBitO

end Own
end Sys2Proof
end

