-- ==== Sys2Proof/Laws/MovesGraph.lean ====
section
/-!
SUPPORT. What each command moves, one lemma each: graphs and results.
-/

set_option Elab.async false
set_option maxRecDepth 2000
set_option linter.unusedVariables false
set_option linter.unusedSimpArgs false
namespace Sys2Proof
open Sys2Proof.Machine
variable {P : List Part} {G : List Objs}
namespace Own

theorem moves_fastTick {z0 : State} {t : Nat} {side : Side} (hp_graphs : Part.graphs ∈ P) (hp_plate : Part.plate ∈ P) (hG : Cov G [⟨0x3000, 0x3000,
    2, 2⟩, ⟨0x3000, 0x3000, 3, 3⟩, ⟨0x3000, 0x3000, 5, 5⟩, ⟨0x3000, 0x3000, 6, 6⟩, ⟨0x3100, 0x3101, 4, 4⟩, ⟨0x3300, 0x3300, 2, 2⟩, ⟨0x3400, 0x3BFF,
    4, 4⟩, ⟨0x5140, 0x515F, 2, 2⟩, ⟨0x9100, 0x910F, 4, 4⟩]) : OwnMoves P G z0 (.fastTick t side) := by
  change ∀ s', Machine.execFastTick t side z0 = .next s' → Own (.pairs :: P) G (z0.arrive (Instr.fastTick t side).time) s'
  unfold Machine.execFastTick
  with_reducible refine own_run (fun hw b => ?_)
  replace hp_graphs := List.mem_cons_of_mem Part.pairs hp_graphs
  replace hp_plate := List.mem_cons_of_mem Part.pairs hp_plate
  have hp_pairs : Part.pairs ∈ Part.pairs :: P := List.mem_cons_self
  simp only [Instr.wf, Bool.and_eq_true, decide_eq_true_eq] at hw
  have := sideIx_lt side
  have := sideIx_lt (otherSide side)
  try dsimp only
  repeat' first
    | (exact hG.sub rfl) | with_reducible exact same _ | with_reducible assumption | with_reducible refine branch (fun hc => ?_) (fun hc => ?_)
    | with_reducible apply takeTick | with_reducible apply takeSwitch

theorem moves_laneWake {z0 : State} {t : Nat} {side : Side} {joist : Nat} {lane : Nat} (hp_graphs : Part.graphs ∈ P) : OwnMoves P G z0 (.laneWake t
    side joist lane) := by
  change ∀ s', Machine.execLaneWake t side joist lane z0 = .next s' → Own (.pairs :: P) G (z0.arrive (Instr.laneWake t side joist lane).time) s'
  unfold Machine.execLaneWake
  with_reducible refine own_run (fun hw b => ?_)
  replace hp_graphs := List.mem_cons_of_mem Part.pairs hp_graphs
  have hp_pairs : Part.pairs ∈ Part.pairs :: P := List.mem_cons_self
  simp only [Instr.wf, Bool.and_eq_true, decide_eq_true_eq] at hw
  have := sideIx_lt side
  try dsimp only
  repeat' first
    | with_reducible exact same _ | with_reducible assumption | with_reducible refine branch (fun hc => ?_) (fun hc => ?_)
    | with_reducible apply setGraph | omega | split

theorem moves_entryExecution {z0 : State} {t : Nat} {side : Side} {entry : Nat} (hp_graphs : Part.graphs ∈ P) (hp_scribe : Part.scribe ∈ P) (hG :
    Cov G [⟨0x3300, 0x3300, 2, 2⟩, ⟨0x3400, 0x3BFF, 4, 4⟩, ⟨0x3400, 0x3BFF, 6, 6⟩, ⟨0x3400, 0x3BFF, 7, 7⟩, ⟨0x3400, 0x3BFF, 8, 8⟩, ⟨0x8210,
    0x8211, 6, 6⟩]) : OwnMoves P G z0 (.entryExecution t side entry) := by
  change ∀ s', Machine.execEntryExecution t side entry z0 = .next s' → Own (.pairs :: P) G (z0.arrive (Instr.entryExecution t side entry).time) s'
  unfold Machine.execEntryExecution
  with_reducible refine own_run (fun hw b => ?_)
  replace hp_graphs := List.mem_cons_of_mem Part.pairs hp_graphs
  replace hp_scribe := List.mem_cons_of_mem Part.pairs hp_scribe
  have hp_pairs : Part.pairs ∈ Part.pairs :: P := List.mem_cons_self
  simp only [Instr.wf, Bool.and_eq_true, decide_eq_true_eq] at hw
  have := sideIx_lt side
  have := sideIx_lt (otherSide side)
  try dsimp only
  repeat' first
    | (exact hG.sub rfl) | (exact hG.item rfl) | with_reducible exact same _ | with_reducible assumption
    | with_reducible refine branch (fun hc => ?_) (fun hc => ?_) | with_reducible apply runEntry | split

theorem moves_compareWriter {z0 : State} {t : Nat} {side : Side} (hp_meas : Part.meas ∈ P) (hp_graphs : Part.graphs ∈ P) (hp_gf : Part.gf ∈ P)
    (hp_plate : Part.plate ∈ P) (hp_stacks : Part.stacks ∈ P) (hp_sides : Part.sides ∈ P) (hp_safety : Part.safety ∈ P) (hp_sharing : Part.sharing ∈
    P) (hp_clock : Part.clock ∈ P) (hp_capture : Part.capture ∈ P) (hG : Cov G [⟨0x2100, 0x213F, 11, 11⟩, ⟨0x2500, 0x2503, 6, 6⟩, ⟨0x2500, 0x2503,
    8, 8⟩, ⟨0x2500, 0x2503, 9, 9⟩, ⟨0x3000, 0x3000, 4, 4⟩, ⟨0x4001, 0x4001, 3, 3⟩, ⟨0x4001, 0x4001, 4, 4⟩, ⟨0x5200, 0x5247, 8, 8⟩, ⟨0x5300, 0x5300,
    4, 4⟩, ⟨0x5320, 0x5320, 2, 2⟩, ⟨0x6000, 0x6000, 2, 2⟩, ⟨0x6021, 0x6021, 1, 1⟩, ⟨0x6021, 0x6021, 2, 2⟩, ⟨0x6021, 0x6021, 3, 3⟩, ⟨0x6021, 0x6021,
    4, 4⟩, ⟨0x6800, 0x6800, 2, 2⟩, ⟨0x7000, 0x7000, 5, 5⟩, ⟨0x7000, 0x7000, 8, 8⟩, ⟨0x7050, 0x7050, 1, 1⟩, ⟨0x7100, 0x7104, 3, 3⟩, ⟨0x9010, 0x901F,
    3, 3⟩, ⟨0xA000, 0xA000, 1, 1⟩]) : OwnMoves P G z0 (.compareWriter t side) := by
  change ∀ s', Machine.execCompareWriter t side z0 = .next s' → Own (.pairs :: P) G (z0.arrive (Instr.compareWriter t side).time) s'
  unfold Machine.execCompareWriter
  with_reducible refine own_run (fun hw b => ?_)
  replace hp_meas := List.mem_cons_of_mem Part.pairs hp_meas
  replace hp_graphs := List.mem_cons_of_mem Part.pairs hp_graphs
  replace hp_gf := List.mem_cons_of_mem Part.pairs hp_gf
  replace hp_plate := List.mem_cons_of_mem Part.pairs hp_plate
  replace hp_stacks := List.mem_cons_of_mem Part.pairs hp_stacks
  replace hp_sides := List.mem_cons_of_mem Part.pairs hp_sides
  replace hp_safety := List.mem_cons_of_mem Part.pairs hp_safety
  replace hp_sharing := List.mem_cons_of_mem Part.pairs hp_sharing
  replace hp_clock := List.mem_cons_of_mem Part.pairs hp_clock
  replace hp_capture := List.mem_cons_of_mem Part.pairs hp_capture
  have hp_pairs : Part.pairs ∈ Part.pairs :: P := List.mem_cons_self
  simp only [Instr.wf, Bool.and_eq_true, decide_eq_true_eq] at hw
  have := sideIx_lt side
  have := sideIx_lt (otherSide side)
  try dsimp only
  repeat' first
    | (exact hG.sub rfl) | with_reducible exact same _ | with_reducible assumption | with_reducible refine branch (fun hc => ?_) (fun hc => ?_)
    | with_reducible apply compareSide | split

theorem moves_graphSwitchRequest {z0 : State} {t word : Nat} (hp_graphs : Part.graphs ∈ P) (hG : Cov G [⟨0x3000, 0x3000, 2, 2⟩]) : OwnMoves P G z0
    (.graphSwitchRequest t word) := by
  change ∀ s', Machine.execGraphSwitchRequest t word z0 = .next s' → Own (.pairs :: P) G (z0.arrive (Instr.graphSwitchRequest t word).time) s'
  unfold Machine.execGraphSwitchRequest
  with_reducible refine own_run (fun hw b => ?_)
  replace hp_graphs := List.mem_cons_of_mem Part.pairs hp_graphs
  have hp_pairs : Part.pairs ∈ Part.pairs :: P := List.mem_cons_self
  simp only [Instr.wf, Bool.and_eq_true, decide_eq_true_eq] at hw
  try dsimp only
  repeat' first
    | (exact hG.sub rfl) | with_reducible exact same _ | with_reducible assumption | with_reducible refine branch (fun hc => ?_) (fun hc => ?_)
    | with_reducible apply switchRequest

theorem moves_graphSwitch {z0 : State} {t : Nat} (hp_graphs : Part.graphs ∈ P) (hG : Cov G [⟨0x3000, 0x3000, 2, 2⟩, ⟨0x3000, 0x3000, 3, 3⟩, ⟨0x3000,
    0x3000, 5, 5⟩, ⟨0x3000, 0x3000, 6, 6⟩, ⟨0x3100, 0x3101, 4, 4⟩, ⟨0x3300, 0x3300, 2, 2⟩, ⟨0x3400, 0x3BFF, 4, 4⟩]) : OwnMoves P G z0 (.graphSwitch
    t) := by
  change ∀ s', Machine.execGraphSwitch t z0 = .next s' → Own (.pairs :: P) G (z0.arrive (Instr.graphSwitch t).time) s'
  unfold Machine.execGraphSwitch
  with_reducible refine own_run (fun hw b => ?_)
  replace hp_graphs := List.mem_cons_of_mem Part.pairs hp_graphs
  have hp_pairs : Part.pairs ∈ Part.pairs :: P := List.mem_cons_self
  simp only [Instr.wf, Bool.and_eq_true, decide_eq_true_eq] at hw
  try dsimp only
  repeat' first
    | (exact hG.sub rfl) | with_reducible exact same _ | with_reducible assumption | with_reducible apply takeSwitch

theorem moves_resultRead {z0 : State} {t reader j sub : Nat} (hp_graphs : Part.graphs ∈ P) (hp_net : Part.net ∈ P) (hp_out : Part.out ∈ P) :
    OwnMoves P G z0 (.resultRead t reader j sub) := by
  change ∀ s', Machine.execResultRead t reader j sub z0 = .next s' → Own (.pairs :: P) G (z0.arrive (Instr.resultRead t reader j sub).time) s'
  unfold Machine.execResultRead
  with_reducible refine own_run (fun hw b => ?_)
  replace hp_graphs := List.mem_cons_of_mem Part.pairs hp_graphs
  replace hp_net := List.mem_cons_of_mem Part.pairs hp_net
  replace hp_out := List.mem_cons_of_mem Part.pairs hp_out
  have hp_pairs : Part.pairs ∈ Part.pairs :: P := List.mem_cons_self
  simp only [Instr.wf, Bool.and_eq_true, decide_eq_true_eq] at hw
  try dsimp only
  repeat' first
    | with_reducible exact same _ | with_reducible assumption | with_reducible refine branch (fun hc => ?_) (fun hc => ?_)
    | with_reducible apply answerResult

theorem moves_resultFifoRead {z0 : State} {t reader j sub : Nat} (hp_graphs : Part.graphs ∈ P) (hp_net : Part.net ∈ P) (hp_out : Part.out ∈ P) :
    OwnMoves P G z0 (.resultFifoRead t reader j sub) := by
  change ∀ s', Machine.execResultFifoRead t reader j sub z0 = .next s' → Own (.pairs :: P) G (z0.arrive (Instr.resultFifoRead t reader j sub).time) s'
  unfold Machine.execResultFifoRead
  with_reducible refine own_run (fun hw b => ?_)
  replace hp_graphs := List.mem_cons_of_mem Part.pairs hp_graphs
  replace hp_net := List.mem_cons_of_mem Part.pairs hp_net
  replace hp_out := List.mem_cons_of_mem Part.pairs hp_out
  have hp_pairs : Part.pairs ∈ Part.pairs :: P := List.mem_cons_self
  simp only [Instr.wf, Bool.and_eq_true, decide_eq_true_eq] at hw
  try dsimp only
  repeat' first
    | with_reducible exact same _ | with_reducible assumption | with_reducible refine branch (fun hc => ?_) (fun hc => ?_)
    | with_reducible apply answerResult

theorem moves_presetNow {z0 : State} {t slot rec : Nat} (hp_graphs : Part.graphs ∈ P) : OwnMoves P G z0 (.presetNow t slot rec) := by
  change ∀ s', Machine.execPresetNow t slot rec z0 = .next s' → Own (.pairs :: P) G (z0.arrive (Instr.presetNow t slot rec).time) s'
  unfold Machine.execPresetNow
  with_reducible refine own_run (fun hw b => ?_)
  replace hp_graphs := List.mem_cons_of_mem Part.pairs hp_graphs
  have hp_pairs : Part.pairs ∈ Part.pairs :: P := List.mem_cons_self
  simp only [Instr.wf, Bool.and_eq_true, decide_eq_true_eq] at hw
  try dsimp only
  repeat' first
    | with_reducible exact same _ | with_reducible assumption | with_reducible refine branch (fun hc => ?_) (fun hc => ?_)
    | with_reducible apply stampCommand

theorem moves_modeForceManual {z0 : State} {t slot rec : Nat} (hp_graphs : Part.graphs ∈ P) : OwnMoves P G z0 (.modeForceManual t slot rec) := by
  change ∀ s', Machine.execModeForceManual t slot rec z0 = .next s' → Own (.pairs :: P) G (z0.arrive (Instr.modeForceManual t slot rec).time) s'
  unfold Machine.execModeForceManual
  with_reducible refine own_run (fun hw b => ?_)
  replace hp_graphs := List.mem_cons_of_mem Part.pairs hp_graphs
  have hp_pairs : Part.pairs ∈ Part.pairs :: P := List.mem_cons_self
  simp only [Instr.wf, Bool.and_eq_true, decide_eq_true_eq] at hw
  try dsimp only
  repeat' first
    | with_reducible exact same _ | with_reducible assumption | with_reducible refine branch (fun hc => ?_) (fun hc => ?_)
    | with_reducible apply stampCommand

theorem moves_modeForceAutomatic {z0 : State} {t slot rec : Nat} (hp_graphs : Part.graphs ∈ P) : OwnMoves P G z0 (.modeForceAutomatic t slot rec) := by
  change ∀ s', Machine.execModeForceAutomatic t slot rec z0 = .next s' → Own (.pairs :: P) G (z0.arrive (Instr.modeForceAutomatic t slot rec).time) s'
  unfold Machine.execModeForceAutomatic
  with_reducible refine own_run (fun hw b => ?_)
  replace hp_graphs := List.mem_cons_of_mem Part.pairs hp_graphs
  have hp_pairs : Part.pairs ∈ Part.pairs :: P := List.mem_cons_self
  simp only [Instr.wf, Bool.and_eq_true, decide_eq_true_eq] at hw
  try dsimp only
  repeat' first
    | with_reducible exact same _ | with_reducible assumption | with_reducible refine branch (fun hc => ?_) (fun hc => ?_)
    | with_reducible apply stampCommand

theorem moves_modeRelease {z0 : State} {t slot rec : Nat} (hp_graphs : Part.graphs ∈ P) : OwnMoves P G z0 (.modeRelease t slot rec) := by
  change ∀ s', Machine.execModeRelease t slot rec z0 = .next s' → Own (.pairs :: P) G (z0.arrive (Instr.modeRelease t slot rec).time) s'
  unfold Machine.execModeRelease
  with_reducible refine own_run (fun hw b => ?_)
  replace hp_graphs := List.mem_cons_of_mem Part.pairs hp_graphs
  have hp_pairs : Part.pairs ∈ Part.pairs :: P := List.mem_cons_self
  simp only [Instr.wf, Bool.and_eq_true, decide_eq_true_eq] at hw
  try dsimp only
  repeat' first
    | with_reducible exact same _ | with_reducible assumption | with_reducible refine branch (fun hc => ?_) (fun hc => ?_)
    | with_reducible apply stampCommand

theorem moves_paramSwapRequest {z0 : State} {t mask : Nat} (hp_graphs : Part.graphs ∈ P) (hG : Cov G [⟨0x3300, 0x3300, 2, 2⟩]) : OwnMoves P G z0
    (.paramSwapRequest t mask) := by
  change ∀ s', Machine.execParamSwapRequest t mask z0 = .next s' → Own (.pairs :: P) G (z0.arrive (Instr.paramSwapRequest t mask).time) s'
  unfold Machine.execParamSwapRequest
  with_reducible refine own_run (fun hw b => ?_)
  replace hp_graphs := List.mem_cons_of_mem Part.pairs hp_graphs
  have hp_pairs : Part.pairs ∈ Part.pairs :: P := List.mem_cons_self
  simp only [Instr.wf, Bool.and_eq_true, decide_eq_true_eq] at hw
  try dsimp only
  repeat' first
    | (exact hG.sub rfl) | with_reducible exact same _ | with_reducible assumption | with_reducible refine branch (fun hc => ?_) (fun hc => ?_)
    | with_reducible apply swapRequest

end Own
end Sys2Proof
end

