-- ==== Sys2Proof/Laws/MovesGridForm.lean ====
section
/-!
SUPPORT. What each command moves, one lemma each: grid forming.
-/

set_option Elab.async false
set_option maxRecDepth 2000
set_option linter.unusedVariables false
set_option linter.unusedSimpArgs false
namespace Sys2Proof
open Sys2Proof.Machine
variable {P : List Part} {G : List Objs}
namespace Own

theorem moves_gfMainTick {z0 : State} {t : Nat} (hp_meas : Part.meas ∈ P) (hp_graphs : Part.graphs ∈ P) (hp_gf : Part.gf ∈ P) (hp_plate : Part.plate
    ∈ P) (hp_stacks : Part.stacks ∈ P) (hp_sides : Part.sides ∈ P) (hp_safety : Part.safety ∈ P) (hp_sharing : Part.sharing ∈ P) (hp_capture :
    Part.capture ∈ P) (hG : Cov G [⟨0x2500, 0x2503, 6, 6⟩, ⟨0x2500, 0x2503, 8, 8⟩, ⟨0x2500, 0x2503, 9, 9⟩, ⟨0x4001, 0x4001, 3, 3⟩, ⟨0x4001, 0x4001,
    4, 4⟩, ⟨0x4001, 0x4001, 5, 5⟩, ⟨0x4002, 0x4002, 16, 16⟩, ⟨0x4002, 0x4002, 17, 17⟩, ⟨0x5300, 0x5300, 4, 4⟩, ⟨0x5320, 0x5320, 2, 2⟩, ⟨0x6021,
    0x6021, 1, 1⟩, ⟨0x6800, 0x6800, 2, 2⟩, ⟨0x7050, 0x7050, 1, 1⟩, ⟨0x7100, 0x7104, 3, 3⟩, ⟨0x9010, 0x901F, 3, 3⟩, ⟨0xA000, 0xA000, 1, 1⟩]) :
    OwnMoves P G z0 (.gfMainTick t) := by
  change ∀ s', Machine.execGfMainTick t z0 = .next s' → Own (.pairs :: P) G (z0.arrive (Instr.gfMainTick t).time) s'
  unfold Machine.execGfMainTick
  with_reducible refine own_run (fun hw b => ?_)
  replace hp_meas := List.mem_cons_of_mem Part.pairs hp_meas
  replace hp_graphs := List.mem_cons_of_mem Part.pairs hp_graphs
  replace hp_gf := List.mem_cons_of_mem Part.pairs hp_gf
  replace hp_plate := List.mem_cons_of_mem Part.pairs hp_plate
  replace hp_stacks := List.mem_cons_of_mem Part.pairs hp_stacks
  replace hp_sides := List.mem_cons_of_mem Part.pairs hp_sides
  replace hp_safety := List.mem_cons_of_mem Part.pairs hp_safety
  replace hp_sharing := List.mem_cons_of_mem Part.pairs hp_sharing
  replace hp_capture := List.mem_cons_of_mem Part.pairs hp_capture
  have hp_pairs : Part.pairs ∈ Part.pairs :: P := List.mem_cons_self
  simp only [Instr.wf, Bool.and_eq_true, decide_eq_true_eq] at hw
  try dsimp only
  repeat' first
    | (exact hG.sub rfl) | with_reducible exact same _ | with_reducible assumption | with_reducible refine branch (fun hc => ?_) (fun hc => ?_)
    | with_reducible apply mainTick

theorem moves_gfIdleEvaluation {z0 : State} {t : Nat} (hp_meas : Part.meas ∈ P) (hp_graphs : Part.graphs ∈ P) (hp_gf : Part.gf ∈ P) (hp_plate :
    Part.plate ∈ P) (hp_stacks : Part.stacks ∈ P) (hp_sides : Part.sides ∈ P) (hp_safety : Part.safety ∈ P) (hp_sharing : Part.sharing ∈ P)
    (hp_capture : Part.capture ∈ P) (hG : Cov G [⟨0x2500, 0x2503, 6, 6⟩, ⟨0x2500, 0x2503, 8, 8⟩, ⟨0x2500, 0x2503, 9, 9⟩, ⟨0x4001, 0x4001, 3, 3⟩,
    ⟨0x4001, 0x4001, 4, 4⟩, ⟨0x4001, 0x4001, 5, 5⟩, ⟨0x5300, 0x5300, 4, 4⟩, ⟨0x5320, 0x5320, 2, 2⟩, ⟨0x6021, 0x6021, 1, 1⟩, ⟨0x6800, 0x6800, 2, 2⟩,
    ⟨0x7050, 0x7050, 1, 1⟩, ⟨0x7100, 0x7104, 3, 3⟩, ⟨0x9010, 0x901F, 3, 3⟩, ⟨0xA000, 0xA000, 1, 1⟩]) : OwnMoves P G z0 (.gfIdleEvaluation t) := by
  change ∀ s', Machine.execGfIdleEvaluation t z0 = .next s' → Own (.pairs :: P) G (z0.arrive (Instr.gfIdleEvaluation t).time) s'
  unfold Machine.execGfIdleEvaluation
  with_reducible refine own_run (fun hw b => ?_)
  replace hp_meas := List.mem_cons_of_mem Part.pairs hp_meas
  replace hp_graphs := List.mem_cons_of_mem Part.pairs hp_graphs
  replace hp_gf := List.mem_cons_of_mem Part.pairs hp_gf
  replace hp_plate := List.mem_cons_of_mem Part.pairs hp_plate
  replace hp_stacks := List.mem_cons_of_mem Part.pairs hp_stacks
  replace hp_sides := List.mem_cons_of_mem Part.pairs hp_sides
  replace hp_safety := List.mem_cons_of_mem Part.pairs hp_safety
  replace hp_sharing := List.mem_cons_of_mem Part.pairs hp_sharing
  replace hp_capture := List.mem_cons_of_mem Part.pairs hp_capture
  have hp_pairs : Part.pairs ∈ Part.pairs :: P := List.mem_cons_self
  simp only [Instr.wf, Bool.and_eq_true, decide_eq_true_eq] at hw
  try dsimp only
  repeat' first
    | (exact hG.sub rfl) | with_reducible exact same _ | with_reducible assumption | with_reducible refine branch (fun hc => ?_) (fun hc => ?_)
    | with_reducible apply idleEval

theorem moves_blackStart {z0 : State} {t : Nat} {coherent : Bool} (hp_gf : Part.gf ∈ P) : OwnMoves P G z0 (.blackStart t coherent) := by
  change ∀ s', Machine.execBlackStart t coherent z0 = .next s' → Own (.pairs :: P) G (z0.arrive (Instr.blackStart t coherent).time) s'
  unfold Machine.execBlackStart
  with_reducible refine own_run (fun hw b => ?_)
  replace hp_gf := List.mem_cons_of_mem Part.pairs hp_gf
  have hp_pairs : Part.pairs ∈ Part.pairs :: P := List.mem_cons_self
  simp only [Instr.wf, Bool.and_eq_true, decide_eq_true_eq] at hw
  try dsimp only
  repeat' first
    | with_reducible exact same _ | with_reducible assumption | with_reducible apply hostGf

theorem moves_join {z0 : State} {t : Nat} (hp_gf : Part.gf ∈ P) : OwnMoves P G z0 (.join t) := by
  change ∀ s', Machine.execJoin t z0 = .next s' → Own (.pairs :: P) G (z0.arrive (Instr.join t).time) s'
  unfold Machine.execJoin
  with_reducible refine own_run (fun hw b => ?_)
  replace hp_gf := List.mem_cons_of_mem Part.pairs hp_gf
  have hp_pairs : Part.pairs ∈ Part.pairs :: P := List.mem_cons_self
  simp only [Instr.wf, Bool.and_eq_true, decide_eq_true_eq] at hw
  try dsimp only
  repeat' first
    | with_reducible exact same _ | with_reducible assumption | with_reducible apply hostGf

theorem moves_resync {z0 : State} {t : Nat} (hp_gf : Part.gf ∈ P) : OwnMoves P G z0 (.resync t) := by
  change ∀ s', Machine.execResync t z0 = .next s' → Own (.pairs :: P) G (z0.arrive (Instr.resync t).time) s'
  unfold Machine.execResync
  with_reducible refine own_run (fun hw b => ?_)
  replace hp_gf := List.mem_cons_of_mem Part.pairs hp_gf
  have hp_pairs : Part.pairs ∈ Part.pairs :: P := List.mem_cons_self
  simp only [Instr.wf, Bool.and_eq_true, decide_eq_true_eq] at hw
  try dsimp only
  repeat' first
    | with_reducible exact same _ | with_reducible assumption | with_reducible apply hostGf

theorem moves_abortResync {z0 : State} {t : Nat} (hp_gf : Part.gf ∈ P) : OwnMoves P G z0 (.abortResync t) := by
  change ∀ s', Machine.execAbortResync t z0 = .next s' → Own (.pairs :: P) G (z0.arrive (Instr.abortResync t).time) s'
  unfold Machine.execAbortResync
  with_reducible refine own_run (fun hw b => ?_)
  replace hp_gf := List.mem_cons_of_mem Part.pairs hp_gf
  have hp_pairs : Part.pairs ∈ Part.pairs :: P := List.mem_cons_self
  simp only [Instr.wf, Bool.and_eq_true, decide_eq_true_eq] at hw
  try dsimp only
  repeat' first
    | with_reducible exact same _ | with_reducible assumption | with_reducible apply hostGf

theorem moves_stop {z0 : State} {t : Nat} (hp_gf : Part.gf ∈ P) : OwnMoves P G z0 (.stop t) := by
  change ∀ s', Machine.execStop t z0 = .next s' → Own (.pairs :: P) G (z0.arrive (Instr.stop t).time) s'
  unfold Machine.execStop
  with_reducible refine own_run (fun hw b => ?_)
  replace hp_gf := List.mem_cons_of_mem Part.pairs hp_gf
  have hp_pairs : Part.pairs ∈ Part.pairs :: P := List.mem_cons_self
  simp only [Instr.wf, Bool.and_eq_true, decide_eq_true_eq] at hw
  try dsimp only
  repeat' first
    | with_reducible exact same _ | with_reducible assumption | with_reducible apply hostGf

theorem moves_acknowledge {z0 : State} {t : Nat} (hp_gf : Part.gf ∈ P) : OwnMoves P G z0 (.acknowledge t) := by
  change ∀ s', Machine.execAcknowledge t z0 = .next s' → Own (.pairs :: P) G (z0.arrive (Instr.acknowledge t).time) s'
  unfold Machine.execAcknowledge
  with_reducible refine own_run (fun hw b => ?_)
  replace hp_gf := List.mem_cons_of_mem Part.pairs hp_gf
  have hp_pairs : Part.pairs ∈ Part.pairs :: P := List.mem_cons_self
  simp only [Instr.wf, Bool.and_eq_true, decide_eq_true_eq] at hw
  try dsimp only
  repeat' first
    | with_reducible exact same _ | with_reducible assumption | with_reducible apply hostGf

theorem moves_cancelStart {z0 : State} {t : Nat} (hp_gf : Part.gf ∈ P) : OwnMoves P G z0 (.cancelStart t) := by
  change ∀ s', Machine.execCancelStart t z0 = .next s' → Own (.pairs :: P) G (z0.arrive (Instr.cancelStart t).time) s'
  unfold Machine.execCancelStart
  with_reducible refine own_run (fun hw b => ?_)
  replace hp_gf := List.mem_cons_of_mem Part.pairs hp_gf
  have hp_pairs : Part.pairs ∈ Part.pairs :: P := List.mem_cons_self
  simp only [Instr.wf, Bool.and_eq_true, decide_eq_true_eq] at hw
  try dsimp only
  repeat' first
    | with_reducible exact same _ | with_reducible assumption | with_reducible apply hostGf

theorem moves_coherentStart {z0 : State} {t : Nat} (hp_meas : Part.meas ∈ P) (hp_graphs : Part.graphs ∈ P) (hp_gf : Part.gf ∈ P) (hp_plate :
    Part.plate ∈ P) (hp_stacks : Part.stacks ∈ P) (hp_safety : Part.safety ∈ P) (hp_sharing : Part.sharing ∈ P) (hG : Cov G [⟨0x2500, 0x2503, 6, 6⟩,
    ⟨0x2500, 0x2503, 8, 8⟩, ⟨0x2500, 0x2503, 9, 9⟩, ⟨0x4001, 0x4001, 3, 3⟩, ⟨0x4001, 0x4001, 4, 4⟩, ⟨0x5300, 0x5300, 4, 4⟩, ⟨0x5320, 0x5320, 2, 2⟩,
    ⟨0x6800, 0x6800, 2, 2⟩, ⟨0x9010, 0x901F, 3, 3⟩, ⟨0xA000, 0xA000, 1, 1⟩]) : OwnMoves P G z0 (.coherentStart t) := by
  change ∀ s', Machine.execCoherentStart t z0 = .next s' → Own (.pairs :: P) G (z0.arrive (Instr.coherentStart t).time) s'
  unfold Machine.execCoherentStart
  with_reducible refine own_run (fun hw b => ?_)
  replace hp_meas := List.mem_cons_of_mem Part.pairs hp_meas
  replace hp_graphs := List.mem_cons_of_mem Part.pairs hp_graphs
  replace hp_gf := List.mem_cons_of_mem Part.pairs hp_gf
  replace hp_plate := List.mem_cons_of_mem Part.pairs hp_plate
  replace hp_stacks := List.mem_cons_of_mem Part.pairs hp_stacks
  replace hp_safety := List.mem_cons_of_mem Part.pairs hp_safety
  replace hp_sharing := List.mem_cons_of_mem Part.pairs hp_sharing
  have hp_pairs : Part.pairs ∈ Part.pairs :: P := List.mem_cons_self
  simp only [Instr.wf, Bool.and_eq_true, decide_eq_true_eq] at hw
  try dsimp only
  repeat' first
    | (exact hG.sub rfl) | with_reducible exact same _ | with_reducible assumption | with_reducible refine branch (fun hc => ?_) (fun hc => ?_)
    | with_reducible apply refreshGf | with_reducible apply coherentCheck

theorem moves_rideExit {z0 : State} {t : Nat} (hp_gf : Part.gf ∈ P) : OwnMoves P G z0 (.rideExit t) := by
  change ∀ s', Machine.execRideExit t z0 = .next s' → Own (.pairs :: P) G (z0.arrive (Instr.rideExit t).time) s'
  unfold Machine.execRideExit
  with_reducible refine own_run (fun hw b => ?_)
  replace hp_gf := List.mem_cons_of_mem Part.pairs hp_gf
  have hp_pairs : Part.pairs ∈ Part.pairs :: P := List.mem_cons_self
  simp only [Instr.wf, Bool.and_eq_true, decide_eq_true_eq] at hw
  try dsimp only
  repeat' first
    | with_reducible exact same _ | with_reducible refine branch (fun hc => ?_) (fun hc => ?_) | split
    | with_reducible refine gf_set (by assumption) ?_

theorem moves_limitEntry {z0 : State} {t : Nat} (hp_gf : Part.gf ∈ P) : OwnMoves P G z0 (.limitEntry t) := by
  change ∀ s', Machine.execLimitEntry t z0 = .next s' → Own (.pairs :: P) G (z0.arrive (Instr.limitEntry t).time) s'
  unfold Machine.execLimitEntry
  with_reducible refine own_run (fun hw b => ?_)
  replace hp_gf := List.mem_cons_of_mem Part.pairs hp_gf
  have hp_pairs : Part.pairs ∈ Part.pairs :: P := List.mem_cons_self
  simp only [Instr.wf, Bool.and_eq_true, decide_eq_true_eq] at hw
  try dsimp only
  repeat' first
    | with_reducible exact same _ | with_reducible assumption | with_reducible refine branch (fun hc => ?_) (fun hc => ?_)
    | with_reducible apply setHold | with_reducible refine gf_set (by assumption) ?_

theorem moves_rideTimeout {z0 : State} {t : Nat} (hp_gf : Part.gf ∈ P) : OwnMoves P G z0 (.rideTimeout t) := by
  change ∀ s', Machine.execRideTimeout t z0 = .next s' → Own (.pairs :: P) G (z0.arrive (Instr.rideTimeout t).time) s'
  unfold Machine.execRideTimeout
  with_reducible refine own_run (fun hw b => ?_)
  replace hp_gf := List.mem_cons_of_mem Part.pairs hp_gf
  have hp_pairs : Part.pairs ∈ Part.pairs :: P := List.mem_cons_self
  simp only [Instr.wf, Bool.and_eq_true, decide_eq_true_eq] at hw
  try dsimp only
  repeat' first
    | with_reducible exact same _ | with_reducible assumption | with_reducible apply rideMax

theorem moves_blackStartTimeout {z0 : State} {t : Nat} (hp_gf : Part.gf ∈ P) : OwnMoves P G z0 (.blackStartTimeout t) := by
  change ∀ s', Machine.execBlackStartTimeout t z0 = .next s' → Own (.pairs :: P) G (z0.arrive (Instr.blackStartTimeout t).time) s'
  unfold Machine.execBlackStartTimeout
  with_reducible refine own_run (fun hw b => ?_)
  replace hp_gf := List.mem_cons_of_mem Part.pairs hp_gf
  have hp_pairs : Part.pairs ∈ Part.pairs :: P := List.mem_cons_self
  simp only [Instr.wf, Bool.and_eq_true, decide_eq_true_eq] at hw
  try dsimp only
  repeat' first
    | with_reducible exact same _ | with_reducible assumption | with_reducible apply blackStartMax

theorem moves_resyncTimeout {z0 : State} {t : Nat} (hp_gf : Part.gf ∈ P) : OwnMoves P G z0 (.resyncTimeout t) := by
  change ∀ s', Machine.execResyncTimeout t z0 = .next s' → Own (.pairs :: P) G (z0.arrive (Instr.resyncTimeout t).time) s'
  unfold Machine.execResyncTimeout
  with_reducible refine own_run (fun hw b => ?_)
  replace hp_gf := List.mem_cons_of_mem Part.pairs hp_gf
  have hp_pairs : Part.pairs ∈ Part.pairs :: P := List.mem_cons_self
  simp only [Instr.wf, Bool.and_eq_true, decide_eq_true_eq] at hw
  try dsimp only
  repeat' first
    | with_reducible exact same _ | with_reducible assumption | with_reducible apply resyncMax

theorem moves_breakerDinChange {z0 : State} {t din : Nat} (hp_gf : Part.gf ∈ P) (hp_sides : Part.sides ∈ P) (hG : Cov G [⟨0x4001, 0x4001, 3, 3⟩]) :
    OwnMoves P G z0 (.breakerDinChange t din) := by
  change ∀ s', Machine.execBreakerDinChange t din z0 = .next s' → Own (.pairs :: P) G (z0.arrive (Instr.breakerDinChange t din).time) s'
  unfold Machine.execBreakerDinChange
  with_reducible refine own_run (fun hw b => ?_)
  replace hp_gf := List.mem_cons_of_mem Part.pairs hp_gf
  replace hp_sides := List.mem_cons_of_mem Part.pairs hp_sides
  have hp_pairs : Part.pairs ∈ Part.pairs :: P := List.mem_cons_self
  simp only [Instr.wf, Bool.and_eq_true, decide_eq_true_eq] at hw
  try dsimp only
  repeat' first
    | (exact hG.sub rfl) | with_reducible exact same _ | with_reducible assumption | with_reducible apply releaseOnClosed
    | with_reducible refine sides_set (by assumption) ?_

theorem moves_breakerFail {z0 : State} {t : Nat} (hp_gf : Part.gf ∈ P) (hG : Cov G [⟨0x4001, 0x4001, 3, 3⟩]) : OwnMoves P G z0 (.breakerFail t) := by
  change ∀ s', Machine.execBreakerFail t z0 = .next s' → Own (.pairs :: P) G (z0.arrive (Instr.breakerFail t).time) s'
  unfold Machine.execBreakerFail
  with_reducible refine own_run (fun hw b => ?_)
  replace hp_gf := List.mem_cons_of_mem Part.pairs hp_gf
  have hp_pairs : Part.pairs ∈ Part.pairs :: P := List.mem_cons_self
  simp only [Instr.wf, Bool.and_eq_true, decide_eq_true_eq] at hw
  try dsimp only
  repeat' first
    | (exact hG.sub rfl) | with_reducible exact same _ | with_reducible assumption | with_reducible refine branch (fun hc => ?_) (fun hc => ?_)
    | with_reducible apply raise | with_reducible apply releaseClose | split | with_reducible refine gf_set (by assumption) ?_

end Own
end Sys2Proof
end

