-- ==== Sys2Proof/Laws/MovesMeasure.lean ====
section
/-!
SUPPORT. What each command moves, one lemma each: measurement.
-/

set_option Elab.async false
set_option maxRecDepth 2000
set_option linter.unusedVariables false
set_option linter.unusedSimpArgs false
namespace Sys2Proof
open Sys2Proof.Machine
variable {P : List Part} {G : List Objs}
namespace Own

theorem moves_syncInEdge {z0 : State} {t : Nat} {rising : Bool} (hp_meas : Part.meas ∈ P) (hG : Cov G [⟨0x2310, 0x2310, 3, 3⟩]) : OwnMoves P G z0
    (.syncInEdge t rising) := by
  change ∀ s', Machine.execSyncInEdge t rising z0 = .next s' → Own (.pairs :: P) G (z0.arrive (Instr.syncInEdge t rising).time) s'
  unfold Machine.execSyncInEdge
  with_reducible refine own_run (fun hw b => ?_)
  replace hp_meas := List.mem_cons_of_mem Part.pairs hp_meas
  have hp_pairs : Part.pairs ∈ Part.pairs :: P := List.mem_cons_self
  simp only [Instr.wf, Bool.and_eq_true, decide_eq_true_eq] at hw
  try dsimp only
  repeat' first
    | (exact hG.sub rfl) | with_reducible exact same _ | with_reducible assumption | with_reducible refine branch (fun hc => ?_) (fun hc => ?_)
    | with_reducible apply raise | with_reducible apply startAlign

theorem moves_syncCommand {z0 : State} {t at96 : Nat} (hp_meas : Part.meas ∈ P) (hG : Cov G [⟨0x2310, 0x2310, 3, 3⟩]) : OwnMoves P G z0
    (.syncCommand t at96) := by
  change ∀ s', Machine.execSyncCommand t at96 z0 = .next s' → Own (.pairs :: P) G (z0.arrive (Instr.syncCommand t at96).time) s'
  unfold Machine.execSyncCommand
  with_reducible refine own_run (fun hw b => ?_)
  replace hp_meas := List.mem_cons_of_mem Part.pairs hp_meas
  have hp_pairs : Part.pairs ∈ Part.pairs :: P := List.mem_cons_self
  simp only [Instr.wf, Bool.and_eq_true, decide_eq_true_eq] at hw
  try dsimp only
  repeat' first
    | (exact hG.sub rfl) | with_reducible exact same _ | with_reducible assumption | with_reducible refine branch (fun hc => ?_) (fun hc => ?_)
    | with_reducible apply syncWrite

theorem moves_syncOutPulse {z0 : State} {t : Nat} (hp_meas : Part.meas ∈ P) (hp_out : Part.out ∈ P) : OwnMoves P G z0 (.syncOutPulse t) := by
  change ∀ s', Machine.execSyncOutPulse t z0 = .next s' → Own (.pairs :: P) G (z0.arrive (Instr.syncOutPulse t).time) s'
  unfold Machine.execSyncOutPulse
  with_reducible refine own_run (fun hw b => ?_)
  replace hp_meas := List.mem_cons_of_mem Part.pairs hp_meas
  replace hp_out := List.mem_cons_of_mem Part.pairs hp_out
  have hp_pairs : Part.pairs ∈ Part.pairs :: P := List.mem_cons_self
  simp only [Instr.wf, Bool.and_eq_true, decide_eq_true_eq] at hw
  try dsimp only
  repeat' first
    | with_reducible exact same _ | with_reducible assumption | with_reducible refine branch (fun hc => ?_) (fun hc => ?_)
    | with_reducible apply emit | omega | split | with_reducible refine meas_set (by assumption) ?_

theorem moves_decimAlignment {z0 : State} {t : Nat} {g : Nat} (hp_meas : Part.meas ∈ P) (hG : Cov G [⟨0x2310, 0x2310, 3, 3⟩, ⟨0x2310, 0x2310, 4,
    4⟩]) : OwnMoves P G z0 (.decimAlignment t g) := by
  change ∀ s', Machine.execDecimAlignment t g z0 = .next s' → Own (.pairs :: P) G (z0.arrive (Instr.decimAlignment t g).time) s'
  unfold Machine.execDecimAlignment
  with_reducible refine own_run (fun hw b => ?_)
  replace hp_meas := List.mem_cons_of_mem Part.pairs hp_meas
  have hp_pairs : Part.pairs ∈ Part.pairs :: P := List.mem_cons_self
  simp only [Instr.wf, Bool.and_eq_true, decide_eq_true_eq] at hw
  try dsimp only
  repeat' first
    | (exact hG.sub rfl) | (exact hG.item rfl) | with_reducible exact same _ | with_reducible assumption
    | with_reducible refine branch (fun hc => ?_) (fun hc => ?_) | with_reducible apply onAligns | with_reducible apply finishAlign
    | with_reducible apply newGrid | omega | split

theorem moves_decimationBoundary {z0 : State} {t : Nat} {side : Side} {c : Nat} (hp_meas : Part.meas ∈ P) (hp_gf : Part.gf ∈ P) (hp_plate :
    Part.plate ∈ P) (hG : Cov G [⟨0x2100, 0x213F, 4, 4⟩, ⟨0x2100, 0x213F, 11, 11⟩, ⟨0x2100, 0x213F, 12, 12⟩, ⟨0x2100, 0x213F, 16, 16⟩, ⟨0x2200,
    0x227F, 131, 131⟩, ⟨0x2300, 0x2300, 2, 2⟩, ⟨0x2500, 0x2503, 7, 7⟩, ⟨0x2600, 0x263F, 7, 7⟩]) : OwnMoves P G z0 (.decimationBoundary t side c) := by
  change ∀ s', Machine.execDecimationBoundary t side c z0 = .next s' → Own (.pairs :: P) G (z0.arrive (Instr.decimationBoundary t side c).time) s'
  unfold Machine.execDecimationBoundary
  with_reducible refine own_run (fun hw b => ?_)
  replace hp_meas := List.mem_cons_of_mem Part.pairs hp_meas
  replace hp_gf := List.mem_cons_of_mem Part.pairs hp_gf
  replace hp_plate := List.mem_cons_of_mem Part.pairs hp_plate
  have hp_pairs : Part.pairs ∈ Part.pairs :: P := List.mem_cons_self
  simp only [Instr.wf, Bool.and_eq_true, decide_eq_true_eq] at hw
  have := sideIx_lt side
  have := sideIx_lt (otherSide side)
  try dsimp only
  repeat' first
    | (exact hG.sub rfl) | with_reducible exact same _ | with_reducible assumption | with_reducible refine branch (fun hc => ?_) (fun hc => ?_)
    | with_reducible apply boundary

theorem moves_stuckBits {z0 : State} {t : Nat} {side : Side} {c : Nat} (hp_meas : Part.meas ∈ P) (hp_gf : Part.gf ∈ P) (hp_plate : Part.plate ∈ P)
    (hG : Cov G [⟨0x2100, 0x213F, 11, 11⟩]) : OwnMoves P G z0 (.stuckBits t side c) := by
  change ∀ s', Machine.execStuckBits t side c z0 = .next s' → Own (.pairs :: P) G (z0.arrive (Instr.stuckBits t side c).time) s'
  unfold Machine.execStuckBits
  with_reducible refine own_run (fun hw b => ?_)
  replace hp_meas := List.mem_cons_of_mem Part.pairs hp_meas
  replace hp_gf := List.mem_cons_of_mem Part.pairs hp_gf
  replace hp_plate := List.mem_cons_of_mem Part.pairs hp_plate
  have hp_pairs : Part.pairs ∈ Part.pairs :: P := List.mem_cons_self
  simp only [Instr.wf, Bool.and_eq_true, decide_eq_true_eq] at hw
  have := sideIx_lt side
  have := sideIx_lt (otherSide side)
  try dsimp only
  repeat' first
    | (exact hG.sub rfl) | with_reducible exact same _ | with_reducible assumption | with_reducible refine branch (fun hc => ?_) (fun hc => ?_)
    | with_reducible apply reportFeedback | with_reducible apply setBitO
    | (refine hG.hit 0x2100 0x213F 11 11 rfl ?_ ?_ ?_ ?_ ?_ <;> (first | omega | ((try simp only [quantIx, ctrIx, planIx, bankIndex, resIx, pllSide, instRecord, recordIndex]); omega)))

theorem moves_modClockMissing {z0 : State} {t : Nat} {g : Nat} (hp_meas : Part.meas ∈ P) (hp_gf : Part.gf ∈ P) (hp_plate : Part.plate ∈ P) (hG :
    Cov G [⟨0x2100, 0x213F, 4, 4⟩, ⟨0x2100, 0x213F, 11, 11⟩, ⟨0x2100, 0x213F, 12, 12⟩, ⟨0x2100, 0x213F, 16, 16⟩, ⟨0x2200, 0x227F, 131, 131⟩,
    ⟨0x2300, 0x2300, 2, 2⟩, ⟨0x2310, 0x2310, 3, 3⟩, ⟨0x2310, 0x2310, 4, 4⟩]) : OwnMoves P G z0 (.modClockMissing t g) := by
  change ∀ s', Machine.execModClockMissing t g z0 = .next s' → Own (.pairs :: P) G (z0.arrive (Instr.modClockMissing t g).time) s'
  unfold Machine.execModClockMissing
  with_reducible refine own_run (fun hw b => ?_)
  replace hp_meas := List.mem_cons_of_mem Part.pairs hp_meas
  replace hp_gf := List.mem_cons_of_mem Part.pairs hp_gf
  replace hp_plate := List.mem_cons_of_mem Part.pairs hp_plate
  have hp_pairs : Part.pairs ∈ Part.pairs :: P := List.mem_cons_self
  simp only [Instr.wf, Bool.and_eq_true, decide_eq_true_eq] at hw
  try dsimp only
  repeat' first
    | (exact hG.sub rfl) | (exact hG.item rfl) | with_reducible exact same _ | with_reducible assumption
    | with_reducible refine branch (fun hc => ?_) (fun hc => ?_) | with_reducible apply emptyHistories | with_reducible apply leaveAlign
    | with_reducible apply raise | with_reducible apply reportFeedback | with_reducible apply setBitO | with_reducible apply setGroup
    | with_reducible apply sweepSwaps | with_reducible refine foldl ?_ (fun v a ha => ?_)
    | (refine hG.hit 0x2100 0x213F 11 11 rfl ?_ ?_ ?_ ?_ ?_ <;> (first | omega | ((try simp only [quantIx, ctrIx, planIx, bankIndex, resIx, pllSide, instRecord, recordIndex]); omega) | (simp only [Bool.and_eq_true, decide_eq_true_eq] at *; omega)))
    | omega
    | (refine hG.hit 0x2100 0x213F 11 11 rfl ?_ ?_ ?_ ?_ ?_ <;> (first | omega | ((have := groupChannels_lt hw ‹_ ∈ groupChannels _ _›; omega))))
    | (have := groupChannels_lt hw ‹_ ∈ groupChannels _ _›; omega) | split

theorem moves_feedbackDisagreement {z0 : State} {t c : Nat} (hp_meas : Part.meas ∈ P) (hp_graphs : Part.graphs ∈ P) (hp_gf : Part.gf ∈ P) (hp_plate
    : Part.plate ∈ P) (hp_stacks : Part.stacks ∈ P) (hp_sides : Part.sides ∈ P) (hp_safety : Part.safety ∈ P) (hp_sharing : Part.sharing ∈ P)
    (hp_clock : Part.clock ∈ P) (hp_capture : Part.capture ∈ P) (hG : Cov G [⟨0x2100, 0x213F, 11, 11⟩, ⟨0x2500, 0x2503, 6, 6⟩, ⟨0x2500, 0x2503, 8,
    8⟩, ⟨0x2500, 0x2503, 9, 9⟩, ⟨0x4001, 0x4001, 3, 3⟩, ⟨0x4001, 0x4001, 4, 4⟩, ⟨0x5200, 0x5247, 8, 8⟩, ⟨0x5300, 0x5300, 4, 4⟩, ⟨0x5320, 0x5320, 2,
    2⟩, ⟨0x6000, 0x6000, 2, 2⟩, ⟨0x6021, 0x6021, 1, 1⟩, ⟨0x6021, 0x6021, 2, 2⟩, ⟨0x6021, 0x6021, 3, 3⟩, ⟨0x6021, 0x6021, 4, 4⟩, ⟨0x6800, 0x6800, 2,
    2⟩, ⟨0x7000, 0x7000, 5, 5⟩, ⟨0x7000, 0x7000, 8, 8⟩, ⟨0x7050, 0x7050, 1, 1⟩, ⟨0x7100, 0x7104, 3, 3⟩, ⟨0x9010, 0x901F, 3, 3⟩, ⟨0xA000, 0xA000, 1,
    1⟩]) : OwnMoves P G z0 (.feedbackDisagreement t c) := by
  change ∀ s', Machine.execFeedbackDisagreement t c z0 = .next s' → Own (.pairs :: P) G (z0.arrive (Instr.feedbackDisagreement t c).time) s'
  unfold Machine.execFeedbackDisagreement
  with_reducible refine own_run (fun hw b => ?_)
  replace hp_meas := List.mem_cons_of_mem Part.pairs hp_meas
  replace hp_graphs := List.mem_cons_of_mem Part.pairs hp_graphs
  replace hp_gf := List.mem_cons_of_mem Part.pairs hp_gf
  replace hp_plate := List.mem_cons_of_mem Part.pairs hp_plate
  replace hp_stacks := List.mem_cons_of_mem Part.pairs hp_stacks
  replace hp_sides := List.mem_cons_of_mem Part.pairs hp_sides
  replace hp_safety := List.mem_cons_of_mem Part.pairs hp_safety
  replace hp_sharing := List.mem_cons_of_mem Part.pairs hp_sharing
  replace hp_clock := List.mem_cons_of_mem Part.pairs hp_clock
  replace hp_capture := List.mem_cons_of_mem Part.pairs hp_capture
  have hp_pairs : Part.pairs ∈ Part.pairs :: P := List.mem_cons_self
  simp only [Instr.wf, Bool.and_eq_true, decide_eq_true_eq] at hw
  try dsimp only
  repeat' first
    | (exact hG.sub rfl) | with_reducible exact same _ | with_reducible assumption | with_reducible refine branch (fun hc => ?_) (fun hc => ?_)
    | with_reducible apply sideFault | with_reducible apply setFeedback

theorem moves_modelTimeExpiry {z0 : State} {t c : Nat} (hp_meas : Part.meas ∈ P) (hp_gf : Part.gf ∈ P) (hp_plate : Part.plate ∈ P) : OwnMoves P G z0
    (.modelTimeExpiry t c) := by
  change ∀ s', Machine.execModelTimeExpiry t c z0 = .next s' → Own (.pairs :: P) G (z0.arrive (Instr.modelTimeExpiry t c).time) s'
  unfold Machine.execModelTimeExpiry
  with_reducible refine own_run (fun hw b => ?_)
  replace hp_meas := List.mem_cons_of_mem Part.pairs hp_meas
  replace hp_gf := List.mem_cons_of_mem Part.pairs hp_gf
  replace hp_plate := List.mem_cons_of_mem Part.pairs hp_plate
  have hp_pairs : Part.pairs ∈ Part.pairs :: P := List.mem_cons_self
  simp only [Instr.wf, Bool.and_eq_true, decide_eq_true_eq] at hw
  try dsimp only
  repeat' first
    | with_reducible exact same _ | with_reducible assumption | with_reducible refine branch (fun hc => ?_) (fun hc => ?_)
    | with_reducible apply safeDisable | split

theorem moves_samplingClockStart {z0 : State} {t g : Nat} (hp_meas : Part.meas ∈ P) : OwnMoves P G z0 (.samplingClockStart t g) := by
  change ∀ s', Machine.execSamplingClockStart t g z0 = .next s' → Own (.pairs :: P) G (z0.arrive (Instr.samplingClockStart t g).time) s'
  unfold Machine.execSamplingClockStart
  with_reducible refine own_run (fun hw b => ?_)
  replace hp_meas := List.mem_cons_of_mem Part.pairs hp_meas
  have hp_pairs : Part.pairs ∈ Part.pairs :: P := List.mem_cons_self
  simp only [Instr.wf, Bool.and_eq_true, decide_eq_true_eq] at hw
  try dsimp only
  repeat' first
    | with_reducible exact same _ | with_reducible assumption | with_reducible refine branch (fun hc => ?_) (fun hc => ?_)
    | with_reducible apply setGroup | with_reducible apply newGrid | with_reducible apply emptyHistories

theorem moves_feedbackRecovery {z0 : State} {t c : Nat} (hp_meas : Part.meas ∈ P) (hp_gf : Part.gf ∈ P) (hp_plate : Part.plate ∈ P) (hG : Cov G
    [⟨0x2100, 0x213F, 11, 11⟩]) : OwnMoves P G z0 (.feedbackRecovery t c) := by
  change ∀ s', Machine.execFeedbackRecovery t c z0 = .next s' → Own (.pairs :: P) G (z0.arrive (Instr.feedbackRecovery t c).time) s'
  unfold Machine.execFeedbackRecovery
  with_reducible refine own_run (fun hw b => ?_)
  replace hp_gf := List.mem_cons_of_mem Part.pairs hp_gf
  replace hp_plate := List.mem_cons_of_mem Part.pairs hp_plate
  replace hp_meas := List.mem_cons_of_mem Part.pairs hp_meas
  have hp_pairs : Part.pairs ∈ Part.pairs :: P := List.mem_cons_self
  simp only [Instr.wf, Bool.and_eq_true, decide_eq_true_eq] at hw
  try dsimp only
  repeat' first
    | (exact hG.sub rfl) | (exact hG.item rfl) | with_reducible exact same _ | with_reducible assumption
    | with_reducible refine branch (fun hc => ?_) (fun hc => ?_) | with_reducible apply declareFeedback | with_reducible apply setFeedback
    | with_reducible apply restartOnGrid

theorem moves_settlingCleared {z0 : State} {t : Nat} {side : Side} {c : Nat} (hp_meas : Part.meas ∈ P) : OwnMoves P G z0 (.settlingCleared t side c)
    := by
  change ∀ s', Machine.execSettlingCleared t side c z0 = .next s' → Own (.pairs :: P) G (z0.arrive (Instr.settlingCleared t side c).time) s'
  unfold Machine.execSettlingCleared
  with_reducible refine own_run (fun hw b => ?_)
  replace hp_meas := List.mem_cons_of_mem Part.pairs hp_meas
  have hp_pairs : Part.pairs ∈ Part.pairs :: P := List.mem_cons_self
  simp only [Instr.wf, Bool.and_eq_true, decide_eq_true_eq] at hw
  have := sideIx_lt side
  have := sideIx_lt (otherSide side)
  try dsimp only
  repeat' first
    | with_reducible exact same _ | with_reducible assumption | with_reducible refine branch (fun hc => ?_) (fun hc => ?_)
    | with_reducible apply settledChain

theorem moves_bankSwapRequest {z0 : State} {t : Nat} {mask : Nat} (hp_meas : Part.meas ∈ P) (hG : Cov G [⟨0x2300, 0x2300, 2, 2⟩]) : OwnMoves P G z0
    (.bankSwapRequest t mask) := by
  change ∀ s', Machine.execBankSwapRequest t mask z0 = .next s' → Own (.pairs :: P) G (z0.arrive (Instr.bankSwapRequest t mask).time) s'
  unfold Machine.execBankSwapRequest
  with_reducible refine own_run (fun hw b => ?_)
  replace hp_meas := List.mem_cons_of_mem Part.pairs hp_meas
  have hp_pairs : Part.pairs ∈ Part.pairs :: P := List.mem_cons_self
  simp only [Instr.wf, Bool.and_eq_true, decide_eq_true_eq] at hw
  try dsimp only
  repeat' first
    | (exact hG.sub rfl) | (exact hG.item rfl) | with_reducible exact same _ | with_reducible assumption
    | with_reducible refine branch (fun hc => ?_) (fun hc => ?_) | with_reducible apply bankSwap | omega | split

theorem moves_arcRefTriple {z0 : State} {t : Nat} {side : Side} {d : Nat} (hp_meas : Part.meas ∈ P) (hp_graphs : Part.graphs ∈ P) (hG : Cov G
    [⟨0x2500, 0x2503, 6, 6⟩]) : OwnMoves P G z0 (.arcRefTriple t side d) := by
  change ∀ s', Machine.execArcRefTriple t side d z0 = .next s' → Own (.pairs :: P) G (z0.arrive (Instr.arcRefTriple t side d).time) s'
  unfold Machine.execArcRefTriple
  with_reducible refine own_run (fun hw b => ?_)
  replace hp_meas := List.mem_cons_of_mem Part.pairs hp_meas
  replace hp_graphs := List.mem_cons_of_mem Part.pairs hp_graphs
  have hp_pairs : Part.pairs ∈ Part.pairs :: P := List.mem_cons_self
  simp only [Instr.wf, Bool.and_eq_true, decide_eq_true_eq] at hw
  have := sideIx_lt side
  try dsimp only
  repeat' first
    | (exact hG.sub rfl) | (exact hG.item rfl) | with_reducible exact same _ | with_reducible assumption
    | with_reducible refine branch (fun hc => ?_) (fun hc => ?_) | with_reducible apply raise | with_reducible apply setArc
    | with_reducible apply setBitO | with_reducible apply setGraph
    | (refine hG.hit 0x2500 0x2503 6 6 rfl ?_ ?_ ?_ ?_ ?_ <;> (first | omega | ((try simp only [quantIx, ctrIx, planIx, bankIndex, resIx, pllSide, instRecord, recordIndex]); omega) | (simp only [Bool.and_eq_true, decide_eq_true_eq] at *; omega)))
    | omega | split
    | (refine hG.hit 0x2500 0x2503 6 6 rfl ?_ ?_ ?_ ?_ ?_ <;> (first | omega | ((try simp only [quantIx, ctrIx, planIx, bankIndex, resIx, pllSide, instRecord, recordIndex]); omega)))

theorem moves_arcRefApply {z0 : State} {t : Nat} {side : Side} {d : Nat} (hp_meas : Part.meas ∈ P) (hG : Cov G [⟨0x2500, 0x2503, 6, 6⟩, ⟨0x2500,
    0x2503, 8, 8⟩, ⟨0x2500, 0x2503, 9, 9⟩]) : OwnMoves P G z0 (.arcRefApply t side d) := by
  change ∀ s', Machine.execArcRefApply t side d z0 = .next s' → Own (.pairs :: P) G (z0.arrive (Instr.arcRefApply t side d).time) s'
  unfold Machine.execArcRefApply
  with_reducible refine own_run (fun hw b => ?_)
  replace hp_meas := List.mem_cons_of_mem Part.pairs hp_meas
  have hp_pairs : Part.pairs ∈ Part.pairs :: P := List.mem_cons_self
  simp only [Instr.wf, Bool.and_eq_true, decide_eq_true_eq] at hw
  have := sideIx_lt side
  try dsimp only
  repeat' first
    | (exact hG.sub rfl) | (exact hG.item rfl) | with_reducible exact same _ | with_reducible assumption
    | with_reducible refine branch (fun hc => ?_) (fun hc => ?_) | with_reducible apply applyTriple | with_reducible apply setArc | omega
    | split

theorem moves_arcRefStale {z0 : State} {t d : Nat} (hp_meas : Part.meas ∈ P) (hG : Cov G [⟨0x2500, 0x2503, 6, 6⟩]) : OwnMoves P G z0 (.arcRefStale t
    d) := by
  change ∀ s', Machine.execArcRefStale t d z0 = .next s' → Own (.pairs :: P) G (z0.arrive (Instr.arcRefStale t d).time) s'
  unfold Machine.execArcRefStale
  with_reducible refine own_run (fun hw b => ?_)
  replace hp_meas := List.mem_cons_of_mem Part.pairs hp_meas
  have hp_pairs : Part.pairs ∈ Part.pairs :: P := List.mem_cons_self
  simp only [Instr.wf, Bool.and_eq_true, decide_eq_true_eq] at hw
  try dsimp only
  repeat' first
    | (exact hG.sub rfl) | (exact hG.item rfl)
    | with_reducible exact same _ | with_reducible assumption | with_reducible refine branch (fun hc => ?_) (fun hc => ?_)
    | with_reducible apply setArc | with_reducible apply raise | with_reducible apply setBitO | with_reducible refine foldl ?_ (fun v a ha => ?_)
    | (refine hG.hit 0x2500 0x2503 6 6 rfl ?_ ?_ ?_ ?_ ?_ <;> (first | omega | ((try simp only [quantIx, ctrIx, planIx, bankIndex, resIx, pllSide, instRecord, recordIndex]); omega)))

theorem moves_comparatorFire {z0 : State} {t c k : Nat} (hp_meas : Part.meas ∈ P) (hp_plate : Part.plate ∈ P) (hG : Cov G [⟨0x2600, 0x263F, 7, 7⟩])
    : OwnMoves P G z0 (.comparatorFire t c k) := by
  change ∀ s', Machine.execComparatorFire t c k z0 = .next s' → Own (.pairs :: P) G (z0.arrive (Instr.comparatorFire t c k).time) s'
  unfold Machine.execComparatorFire
  with_reducible refine own_run (fun hw b => ?_)
  replace hp_meas := List.mem_cons_of_mem Part.pairs hp_meas
  replace hp_plate := List.mem_cons_of_mem Part.pairs hp_plate
  have hp_pairs : Part.pairs ∈ Part.pairs :: P := List.mem_cons_self
  simp only [Instr.wf, Bool.and_eq_true, decide_eq_true_eq] at hw
  try dsimp only
  repeat' first
    | (exact hG.sub rfl) | (exact hG.item rfl)
    | with_reducible exact same _ | with_reducible assumption | with_reducible refine branch (fun hc => ?_) (fun hc => ?_)
    | with_reducible apply setBitO | with_reducible apply setComp | with_reducible apply raise | with_reducible apply holdGates
    | (refine hG.hit 0x2600 0x263F 7 7 rfl ?_ ?_ ?_ ?_ ?_ <;> (first | omega | ((try simp only [quantIx, ctrIx, planIx, bankIndex, resIx, pllSide, instRecord, recordIndex]); omega)))
    | with_reducible refine meas_set (by assumption) ?_

theorem moves_blankWindowOpen {z0 : State} {t c g : Nat} (hp_meas : Part.meas ∈ P) : OwnMoves P G z0 (.blankWindowOpen t c g) := by
  change ∀ s', Machine.execBlankWindowOpen t c g z0 = .next s' → Own (.pairs :: P) G (z0.arrive (Instr.blankWindowOpen t c g).time) s'
  unfold Machine.execBlankWindowOpen
  with_reducible refine own_run (fun hw b => ?_)
  replace hp_meas := List.mem_cons_of_mem Part.pairs hp_meas
  have hp_pairs : Part.pairs ∈ Part.pairs :: P := List.mem_cons_self
  simp only [Instr.wf, Bool.and_eq_true, decide_eq_true_eq] at hw
  try dsimp only
  repeat' first
    | with_reducible exact same _ | with_reducible refine branch (fun hc => ?_) (fun hc => ?_) | with_reducible refine meas_set (by assumption) ?_

theorem moves_blankWindowClose {z0 : State} {t c : Nat} (hp_meas : Part.meas ∈ P) : OwnMoves P G z0 (.blankWindowClose t c) := by
  change ∀ s', Machine.execBlankWindowClose t c z0 = .next s' → Own (.pairs :: P) G (z0.arrive (Instr.blankWindowClose t c).time) s'
  unfold Machine.execBlankWindowClose
  with_reducible refine own_run (fun hw b => ?_)
  replace hp_meas := List.mem_cons_of_mem Part.pairs hp_meas
  have hp_pairs : Part.pairs ∈ Part.pairs :: P := List.mem_cons_self
  simp only [Instr.wf, Bool.and_eq_true, decide_eq_true_eq] at hw
  try dsimp only
  repeat' first
    | with_reducible exact same _ | with_reducible refine branch (fun hc => ?_) (fun hc => ?_) | split
    | with_reducible refine meas_set (by assumption) ?_

theorem moves_samplingEdge {z0 : State} {t g bitsA bitsB bitsR : Nat} (hp_meas : Part.meas ∈ P) (hG : Cov G [⟨0x2100, 0x213F, 11, 11⟩]) : OwnMoves P
    G z0 (.samplingEdge t g bitsA bitsB bitsR) := by
  change ∀ s', Machine.execSamplingEdge t g bitsA bitsB bitsR z0 = .next s' → Own (.pairs :: P) G (z0.arrive (Instr.samplingEdge t g bitsA bitsB bitsR).time) s'
  unfold Machine.execSamplingEdge
  with_reducible refine own_run (fun hw b => ?_)
  replace hp_meas := List.mem_cons_of_mem Part.pairs hp_meas
  have hp_pairs : Part.pairs ∈ Part.pairs :: P := List.mem_cons_self
  simp only [Instr.wf, Bool.and_eq_true, decide_eq_true_eq] at hw
  try dsimp only
  repeat' first
    | (exact hG.sub rfl) | with_reducible exact same _ | with_reducible assumption | with_reducible refine branch (fun hc => ?_) (fun hc => ?_)
    | with_reducible apply newGrid | with_reducible apply setGroup | with_reducible apply sideEdge | with_reducible apply takeBit
    | with_reducible apply stepComp | with_reducible refine foldl ?_ (fun v a ha => ?_) | with_reducible refine forN ?_ (fun i v hi => ?_) | omega

end Own
end Sys2Proof
end

