-- ==== Sys2Proof/Laws/MovesMessages.lean ====
section
/-!
SUPPORT. What each command moves, one lemma each: messages of one type, sets, an image switch and a reference switch.
-/

set_option Elab.async false
namespace Sys2Proof
open Sys2Proof.Machine
variable {P : List Part} {G : List Objs}
namespace Own

theorem moves_identify {z0 : State} {t m} (hp_net : Part.net ∈ P) (hp_out : Part.out ∈ P) (hG : Cov G [⟨0x1030, 0x1030, 7, 7⟩]) : OwnMoves P G z0
    (.identify t m) := by
  change ∀ s', Machine.execIdentify t m z0 = .next s' → Own (.pairs :: P) G (z0.arrive (Instr.identify t m).time) s'
  unfold Machine.execIdentify
  with_reducible refine own_run (fun hw b => ?_)
  exact typedIn (List.mem_cons_of_mem _ hp_net) (hG.sub rfl) (same _) (fun _ _ => answerBare (List.mem_cons_of_mem _ hp_net) (List.mem_cons_of_mem _ hp_out) (same _))

theorem moves_keyLoad {z0 : State} {t m} (hp_net : Part.net ∈ P) (hp_out : Part.out ∈ P) (hG : Cov G [⟨0x1000, 0x1000, 6, 6⟩, ⟨0x1000, 0x1000, 7,
    7⟩, ⟨0x1030, 0x1030, 1, 4⟩, ⟨0x1030, 0x1030, 7, 7⟩]) : OwnMoves P G z0 (.keyLoad t m) := by
  change ∀ s', Machine.execKeyLoad t m z0 = .next s' → Own (.pairs :: P) G (z0.arrive (Instr.keyLoad t m).time) s'
  unfold Machine.execKeyLoad
  with_reducible refine own_run (fun hw b => ?_)
  exact typedIn (List.mem_cons_of_mem _ hp_net) (hG.sub rfl) (same _) (fun _ _ => takeKeyLoad (List.mem_cons_of_mem _ hp_net) (List.mem_cons_of_mem _ hp_out) (hG.sub rfl) (same _))

theorem moves_openSession {z0 : State} {t m} (hp_capture : Part.capture ∈ P) (hp_net : Part.net ∈ P) (hp_out : Part.out ∈ P) (hp_free : Part.free ∈
    P) (hG : Cov G [⟨0x1030, 0x1030, 7, 7⟩]) : OwnMoves P G z0 (.openSession t m) := by
  change ∀ s', Machine.execOpenSession t m z0 = .next s' → Own (.pairs :: P) G (z0.arrive (Instr.openSession t m).time) s'
  unfold Machine.execOpenSession
  with_reducible refine own_run (fun hw b => ?_)
  replace hp_capture := List.mem_cons_of_mem Part.pairs hp_capture
  replace hp_net := List.mem_cons_of_mem Part.pairs hp_net
  replace hp_out := List.mem_cons_of_mem Part.pairs hp_out
  replace hp_free := List.mem_cons_of_mem Part.pairs hp_free
  exact typedIn hp_net (hG.sub rfl) (same _) (fun _ _ => by apply takeOpen <;> first | assumption | exact hG.sub rfl | exact same _)

theorem moves_closeSession {z0 : State} {t m} (hp_capture : Part.capture ∈ P) (hp_net : Part.net ∈ P) (hp_out : Part.out ∈ P) (hG : Cov G [⟨0x1030,
    0x1030, 7, 7⟩]) : OwnMoves P G z0 (.closeSession t m) := by
  change ∀ s', Machine.execCloseSession t m z0 = .next s' → Own (.pairs :: P) G (z0.arrive (Instr.closeSession t m).time) s'
  unfold Machine.execCloseSession
  with_reducible refine own_run (fun hw b => ?_)
  replace hp_capture := List.mem_cons_of_mem Part.pairs hp_capture
  replace hp_net := List.mem_cons_of_mem Part.pairs hp_net
  replace hp_out := List.mem_cons_of_mem Part.pairs hp_out
  exact typedServe (by decide) hp_capture hp_net (hG.sub rfl) (same _) (fun e w n u => serveClose e hp_capture hp_net hp_out)

theorem moves_readObjects {z0 : State} {t m} (hp_graphs : Part.graphs ∈ P) (hp_capture : Part.capture ∈ P) (hp_net : Part.net ∈ P) (hp_out :
    Part.out ∈ P) (hG : Cov G [⟨0x1030, 0x1030, 7, 7⟩]) : OwnMoves P G z0 (.readObjects t m) := by
  change ∀ s', Machine.execReadObjects t m z0 = .next s' → Own (.pairs :: P) G (z0.arrive (Instr.readObjects t m).time) s'
  unfold Machine.execReadObjects
  with_reducible refine own_run (fun hw b => ?_)
  replace hp_graphs := List.mem_cons_of_mem Part.pairs hp_graphs
  replace hp_capture := List.mem_cons_of_mem Part.pairs hp_capture
  replace hp_net := List.mem_cons_of_mem Part.pairs hp_net
  replace hp_out := List.mem_cons_of_mem Part.pairs hp_out
  exact typedServe (by decide) hp_capture hp_net (hG.sub rfl) (same _) (fun e w n u => serveRead e hp_graphs hp_capture hp_net hp_out)

theorem moves_keepalive {z0 : State} {t m} (hp_capture : Part.capture ∈ P) (hp_net : Part.net ∈ P) (hp_out : Part.out ∈ P) (hG : Cov G [⟨0x1030,
    0x1030, 7, 7⟩]) : OwnMoves P G z0 (.keepalive t m) := by
  change ∀ s', Machine.execKeepalive t m z0 = .next s' → Own (.pairs :: P) G (z0.arrive (Instr.keepalive t m).time) s'
  unfold Machine.execKeepalive
  with_reducible refine own_run (fun hw b => ?_)
  replace hp_capture := List.mem_cons_of_mem Part.pairs hp_capture
  replace hp_net := List.mem_cons_of_mem Part.pairs hp_net
  replace hp_out := List.mem_cons_of_mem Part.pairs hp_out
  exact typedServe (by decide) hp_capture hp_net (hG.sub rfl) (same _) (fun e w n u => serveKeep e hp_net hp_out)

theorem moves_beginSet {z0 : State} {t r n} (hp_net : Part.net ∈ P) (hp_out : Part.out ∈ P) : OwnMoves P G z0 (.beginSet t r n) := by
  change ∀ s', Machine.execBeginSet t r n z0 = .next s' → Own (.pairs :: P) G (z0.arrive (Instr.beginSet t r n).time) s'
  unfold Machine.execBeginSet
  with_reducible refine own_run (fun hw b => ?_)
  exact writeBy (List.mem_cons_of_mem _ hp_out) (same _) (fun w u => setCommandBy (fun w u => beginSet (List.mem_cons_of_mem _ hp_net) (same _)))

theorem moves_commitSet {z0 : State} {t r} (hp_net : Part.net ∈ P) (hp_out : Part.out ∈ P) : OwnMoves P G z0 (.commitSet t r) := by
  change ∀ s', Machine.execCommitSet t r z0 = .next s' → Own (.pairs :: P) G (z0.arrive (Instr.commitSet t r).time) s'
  unfold Machine.execCommitSet
  with_reducible refine own_run (fun hw b => ?_)
  exact commitBy (List.mem_cons_of_mem _ hp_net) (List.mem_cons_of_mem _ hp_out) (same _) (fun w u => commitSet (List.mem_cons_of_mem _ hp_net) (same _))

theorem moves_abortSet {z0 : State} {t r} (hp_net : Part.net ∈ P) (hp_out : Part.out ∈ P) : OwnMoves P G z0 (.abortSet t r) := by
  change ∀ s', Machine.execAbortSet t r z0 = .next s' → Own (.pairs :: P) G (z0.arrive (Instr.abortSet t r).time) s'
  unfold Machine.execAbortSet
  with_reducible refine own_run (fun hw b => ?_)
  exact writeBy (List.mem_cons_of_mem _ hp_out) (same _) (fun w u => setCommandBy (fun w u => abortSet (List.mem_cons_of_mem _ hp_net) (same _)))

theorem moves_configObjectWrite {z0 : State} {t r k l} (hp_net : Part.net ∈ P) (hp_out : Part.out ∈ P) : OwnMoves P G z0 (.configObjectWrite t r k
    l) := by
  change ∀ s', Machine.execConfigObjectWrite t r k l z0 = .next s' → Own (.pairs :: P) G (z0.arrive (Instr.configObjectWrite t r k l).time) s'
  unfold Machine.execConfigObjectWrite
  with_reducible refine own_run (fun hw b => ?_)
  exact branch (fun hk => writeBy (List.mem_cons_of_mem _ hp_out) (same _) (fun w u => writeCfg hk (List.mem_cons_of_mem _ hp_net))) (fun _ => same _)

theorem moves_imageSwitch {z0 : State} {t} (hp_boot : Part.boot ∈ P) : OwnMoves P G z0 (.imageSwitch t) := by
  change ∀ s', Machine.execImageSwitch t z0 = .next s' → Own (.pairs :: P) G (z0.arrive (Instr.imageSwitch t).time) s'
  unfold Machine.execImageSwitch
  with_reducible refine own_run (fun hw b => ?_)
  exact branch (fun _ => switchSlot (List.mem_cons_of_mem _ hp_boot) (same _)) (fun _ => same _)

theorem moves_refSwitchCommand {z0 : State} {t v} (hp_clock : Part.clock ∈ P) (hG : Cov G [⟨0x7040, 0x7040, 2, 2⟩]) : OwnMoves P G z0
    (.refSwitchCommand t v) := by
  change ∀ s', Machine.execRefSwitchCommand t v z0 = .next s' → Own (.pairs :: P) G (z0.arrive (Instr.refSwitchCommand t v).time) s'
  unfold Machine.execRefSwitchCommand
  with_reducible refine own_run (fun hw b => ?_)
  exact branch (fun _ => refSwitch (List.mem_cons_of_mem _ hp_clock) (hG.sub rfl) (same _)) (fun _ => same _)

end Own
end Sys2Proof
end

