-- ==== Sys2Proof/Laws/MovesNetwork.lean ====
section
/-!
SUPPORT. What each command moves, one lemma each: sets, objects and timeouts.
-/

set_option Elab.async false
set_option maxRecDepth 2000
set_option linter.unusedVariables false
set_option linter.unusedSimpArgs false
namespace Sys2Proof
open Sys2Proof.Machine
variable {P : List Part} {G : List Objs}
namespace Own

theorem moves_sourceBlockEnd {z0 : State} {t ip : Nat} (hp_net : Part.net ∈ P) : OwnMoves P G z0 (.sourceBlockEnd t ip) := by
  change ∀ s', Machine.execSourceBlockEnd t ip z0 = .next s' → Own (.pairs :: P) G (z0.arrive (Instr.sourceBlockEnd t ip).time) s'
  unfold Machine.execSourceBlockEnd
  with_reducible refine own_run (fun hw b => ?_)
  replace hp_net := List.mem_cons_of_mem Part.pairs hp_net
  have hp_pairs : Part.pairs ∈ Part.pairs :: P := List.mem_cons_self
  simp only [Instr.wf, Bool.and_eq_true, decide_eq_true_eq] at hw
  try dsimp only
  repeat' first
    | with_reducible exact same _ | with_reducible refine net_set (by assumption) ?_

theorem moves_sessionIdleTimeout {z0 : State} {t sid : Nat} (hp_capture : Part.capture ∈ P) (hp_net : Part.net ∈ P) : OwnMoves P G z0
    (.sessionIdleTimeout t sid) := by
  change ∀ s', Machine.execSessionIdleTimeout t sid z0 = .next s' → Own (.pairs :: P) G (z0.arrive (Instr.sessionIdleTimeout t sid).time) s'
  unfold Machine.execSessionIdleTimeout
  with_reducible refine own_run (fun hw b => ?_)
  replace hp_capture := List.mem_cons_of_mem Part.pairs hp_capture
  replace hp_net := List.mem_cons_of_mem Part.pairs hp_net
  have hp_pairs : Part.pairs ∈ Part.pairs :: P := List.mem_cons_self
  simp only [Instr.wf, Bool.and_eq_true, decide_eq_true_eq] at hw
  try dsimp only
  repeat' first
    | with_reducible exact same _ | with_reducible assumption | with_reducible refine branch (fun hc => ?_) (fun hc => ?_)
    | with_reducible apply closeSession | split

theorem moves_bootFetch {z0 : State} {t : Nat} (hp_net : Part.net ∈ P) (hp_out : Part.out ∈ P) : OwnMoves P G z0 (.bootFetch t) := by
  change ∀ s', Machine.execBootFetch t z0 = .next s' → Own (.pairs :: P) G (z0.arrive (Instr.bootFetch t).time) s'
  unfold Machine.execBootFetch
  with_reducible refine own_run (fun hw b => ?_)
  replace hp_net := List.mem_cons_of_mem Part.pairs hp_net
  replace hp_out := List.mem_cons_of_mem Part.pairs hp_out
  have hp_pairs : Part.pairs ∈ Part.pairs :: P := List.mem_cons_self
  simp only [Instr.wf, Bool.and_eq_true, decide_eq_true_eq] at hw
  try dsimp only
  repeat' first
    | with_reducible exact same _ | with_reducible assumption | with_reducible refine branch (fun hc => ?_) (fun hc => ?_) | with_reducible apply emit
    | split | with_reducible refine net_set (by assumption) ?_

theorem moves_bootStatus {z0 : State} {t : Nat} (hp_out : Part.out ∈ P) : OwnMoves P G z0 (.bootStatus t) := by
  change ∀ s', Machine.execBootStatus t z0 = .next s' → Own (.pairs :: P) G (z0.arrive (Instr.bootStatus t).time) s'
  unfold Machine.execBootStatus
  with_reducible refine own_run (fun hw b => ?_)
  replace hp_out := List.mem_cons_of_mem Part.pairs hp_out
  have hp_pairs : Part.pairs ∈ Part.pairs :: P := List.mem_cons_self
  simp only [Instr.wf, Bool.and_eq_true, decide_eq_true_eq] at hw
  try dsimp only
  repeat' first
    | with_reducible exact same _ | with_reducible assumption | with_reducible refine branch (fun hc => ?_) (fun hc => ?_) | with_reducible apply emit

theorem moves_setIdleTimeout {z0 : State} {t : Nat} (hp_net : Part.net ∈ P) : OwnMoves P G z0 (.setIdleTimeout t) := by
  change ∀ s', Machine.execSetIdleTimeout t z0 = .next s' → Own (.pairs :: P) G (z0.arrive (Instr.setIdleTimeout t).time) s'
  unfold Machine.execSetIdleTimeout
  with_reducible refine own_run (fun hw b => ?_)
  replace hp_net := List.mem_cons_of_mem Part.pairs hp_net
  have hp_pairs : Part.pairs ∈ Part.pairs :: P := List.mem_cons_self
  simp only [Instr.wf, Bool.and_eq_true, decide_eq_true_eq] at hw
  try dsimp only
  repeat' first
    | with_reducible exact same _ | with_reducible assumption | with_reducible refine branch (fun hc => ?_) (fun hc => ?_)
    | with_reducible apply abortOpenSet | split

theorem moves_segmentedWriteTimeout {z0 : State} {t : Nat} {reader : Nat} {obj : Nat} (hp_net : Part.net ∈ P) : OwnMoves P G z0
    (.segmentedWriteTimeout t reader obj) := by
  change ∀ s', Machine.execSegmentedWriteTimeout t reader obj z0 = .next s' → Own (.pairs :: P) G (z0.arrive (Instr.segmentedWriteTimeout t reader obj).time) s'
  unfold Machine.execSegmentedWriteTimeout
  with_reducible refine own_run (fun hw b => ?_)
  replace hp_net := List.mem_cons_of_mem Part.pairs hp_net
  have hp_pairs : Part.pairs ∈ Part.pairs :: P := List.mem_cons_self
  simp only [Instr.wf, Bool.and_eq_true, decide_eq_true_eq] at hw
  try dsimp only
  repeat' first
    | with_reducible exact same _ | with_reducible assumption | with_reducible refine branch (fun hc => ?_) (fun hc => ?_)
    | with_reducible apply putSeg | omega | split

theorem moves_snapshotTimeout {z0 : State} {t reader obj : Nat} (hp_net : Part.net ∈ P) : OwnMoves P G z0 (.snapshotTimeout t reader obj) := by
  change ∀ s', Machine.execSnapshotTimeout t reader obj z0 = .next s' → Own (.pairs :: P) G (z0.arrive (Instr.snapshotTimeout t reader obj).time) s'
  unfold Machine.execSnapshotTimeout
  with_reducible refine own_run (fun hw b => ?_)
  replace hp_net := List.mem_cons_of_mem Part.pairs hp_net
  have hp_pairs : Part.pairs ∈ Part.pairs :: P := List.mem_cons_self
  simp only [Instr.wf, Bool.and_eq_true, decide_eq_true_eq] at hw
  try dsimp only
  repeat' first
    | with_reducible exact same _ | with_reducible assumption | with_reducible refine branch (fun hc => ?_) (fun hc => ?_)
    | with_reducible apply putSnap | split

theorem moves_pendingClear {z0 : State} {t : Nat} {data : List Nat} (hG : Cov G [⟨0x1200, 0x1200, 1, 1⟩]) : OwnMoves P G z0 (.pendingClear t data)
    := by
  change ∀ s', Machine.execPendingClear t data z0 = .next s' → Own (.pairs :: P) G (z0.arrive (Instr.pendingClear t data).time) s'
  unfold Machine.execPendingClear
  with_reducible refine own_run (fun hw b => ?_)
  have hp_pairs : Part.pairs ∈ Part.pairs :: P := List.mem_cons_self
  simp only [Instr.wf, Bool.and_eq_true, decide_eq_true_eq] at hw
  try dsimp only
  repeat' first
    | (exact hG.sub rfl) | with_reducible exact same _ | with_reducible refine branch (fun hc => ?_) (fun hc => ?_)
    | with_reducible apply pendingClear

theorem moves_countClear {z0 : State} {t : Nat} {data : List Nat} (hG : Cov G [⟨0x1200, 0x1200, 2, 2⟩]) : OwnMoves P G z0 (.countClear t data) := by
  change ∀ s', Machine.execCountClear t data z0 = .next s' → Own (.pairs :: P) G (z0.arrive (Instr.countClear t data).time) s'
  unfold Machine.execCountClear
  with_reducible refine own_run (fun hw b => ?_)
  have hp_pairs : Part.pairs ∈ Part.pairs :: P := List.mem_cons_self
  simp only [Instr.wf, Bool.and_eq_true, decide_eq_true_eq] at hw
  try dsimp only
  repeat' first
    | (exact hG.sub rfl) | with_reducible exact same _ | with_reducible refine branch (fun hc => ?_) (fun hc => ?_) | with_reducible apply countClear

theorem moves_notifyHoldoffExpiry {z0 : State} {t reader : Nat} (hp_net : Part.net ∈ P) (hp_out : Part.out ∈ P) : OwnMoves P G z0
    (.notifyHoldoffExpiry t reader) := by
  change ∀ s', Machine.execNotifyHoldoffExpiry t reader z0 = .next s' → Own (.pairs :: P) G (z0.arrive (Instr.notifyHoldoffExpiry t reader).time) s'
  unfold Machine.execNotifyHoldoffExpiry
  with_reducible refine own_run (fun hw b => ?_)
  replace hp_net := List.mem_cons_of_mem Part.pairs hp_net
  replace hp_out := List.mem_cons_of_mem Part.pairs hp_out
  have hp_pairs : Part.pairs ∈ Part.pairs :: P := List.mem_cons_self
  simp only [Instr.wf, Bool.and_eq_true, decide_eq_true_eq] at hw
  try dsimp only
  repeat' first
    | with_reducible exact same _ | with_reducible assumption | with_reducible refine branch (fun hc => ?_) (fun hc => ?_)
    | with_reducible apply sendSession | with_reducible apply setReader | with_reducible refine foldl ?_ (fun v a ha => ?_) | split

end Own
end Sys2Proof
end

