-- ==== Sys2Proof/Laws/MovesPlate.lean ====
section
/-!
SUPPORT. What each command moves, one lemma each: the sills and the plate.
-/

set_option Elab.async false
set_option maxRecDepth 2000
set_option linter.unusedVariables false
set_option linter.unusedSimpArgs false
namespace Sys2Proof
open Sys2Proof.Machine
variable {P : List Part} {G : List Objs}
namespace Own

theorem moves_carrierVertex {z0 : State} {t : Nat} {side : Side} {g : Nat} (hp_meas : Part.meas ∈ P) (hp_graphs : Part.graphs ∈ P) (hp_gf : Part.gf
    ∈ P) (hp_plate : Part.plate ∈ P) (hp_stacks : Part.stacks ∈ P) (hp_sides : Part.sides ∈ P) (hp_clock : Part.clock ∈ P) (hp_capture :
    Part.capture ∈ P) (hG : Cov G [⟨0x2100, 0x213F, 11, 11⟩, ⟨0x5120, 0x5127, 5, 5⟩, ⟨0x5120, 0x5127, 6, 6⟩, ⟨0x5140, 0x515F, 2, 2⟩, ⟨0x5140,
    0x515F, 3, 3⟩, ⟨0x5200, 0x5247, 8, 8⟩, ⟨0x6000, 0x6000, 2, 2⟩, ⟨0x6021, 0x6021, 1, 1⟩, ⟨0x6021, 0x6021, 4, 4⟩, ⟨0x7000, 0x7000, 5, 5⟩, ⟨0x7000,
    0x7000, 8, 8⟩, ⟨0x7050, 0x7050, 1, 1⟩, ⟨0x7100, 0x7104, 3, 3⟩, ⟨0x9010, 0x901F, 3, 3⟩, ⟨0x9010, 0x901F, 7, 7⟩]) : OwnMoves P G z0
    (.carrierVertex t side g) := by
  change ∀ s', Machine.execCarrierVertex t side g z0 = .next s' → Own (.pairs :: P) G (z0.arrive (Instr.carrierVertex t side g).time) s'
  unfold Machine.execCarrierVertex
  with_reducible refine own_run (fun hw b => ?_)
  replace hp_meas := List.mem_cons_of_mem Part.pairs hp_meas
  replace hp_graphs := List.mem_cons_of_mem Part.pairs hp_graphs
  replace hp_gf := List.mem_cons_of_mem Part.pairs hp_gf
  replace hp_plate := List.mem_cons_of_mem Part.pairs hp_plate
  replace hp_stacks := List.mem_cons_of_mem Part.pairs hp_stacks
  replace hp_sides := List.mem_cons_of_mem Part.pairs hp_sides
  replace hp_clock := List.mem_cons_of_mem Part.pairs hp_clock
  replace hp_capture := List.mem_cons_of_mem Part.pairs hp_capture
  have hp_pairs : Part.pairs ∈ Part.pairs :: P := List.mem_cons_self
  simp only [Instr.wf, Bool.and_eq_true, decide_eq_true_eq] at hw
  have := sideIx_lt side
  have := sideIx_lt (otherSide side)
  try dsimp only
  repeat' first
    | (exact hG.sub rfl) | with_reducible exact same _ | with_reducible assumption | with_reducible refine branch (fun hc => ?_) (fun hc => ?_)
    | with_reducible apply followerVertex | with_reducible apply masterVertex

theorem moves_gateCommandEdge {z0 : State} {t : Nat} {side : Side} {p : Nat} (hp_plate : Part.plate ∈ P) (hG : Cov G [⟨0x5200, 0x5247, 8, 8⟩]) :
    OwnMoves P G z0 (.gateCommandEdge t side p) := by
  change ∀ s', Machine.execGateCommandEdge t side p z0 = .next s' → Own (.pairs :: P) G (z0.arrive (Instr.gateCommandEdge t side p).time) s'
  unfold Machine.execGateCommandEdge
  with_reducible refine own_run (fun hw b => ?_)
  replace hp_plate := List.mem_cons_of_mem Part.pairs hp_plate
  have hp_pairs : Part.pairs ∈ Part.pairs :: P := List.mem_cons_self
  simp only [Instr.wf, Bool.and_eq_true, decide_eq_true_eq] at hw
  have := sideIx_lt side
  have := sideIx_lt (otherSide side)
  try dsimp only
  repeat' first
    | (exact hG.sub rfl) | with_reducible exact same _ | with_reducible assumption | with_reducible refine branch (fun hc => ?_) (fun hc => ?_)
    | with_reducible apply pairFollow | with_reducible apply modPair | split

theorem moves_deadTimeExpiry {z0 : State} {t : Nat} {side : Side} {p : Nat} (hp_plate : Part.plate ∈ P) (hG : Cov G [⟨0x5200, 0x5247, 8, 8⟩]) :
    OwnMoves P G z0 (.deadTimeExpiry t side p) := by
  change ∀ s', Machine.execDeadTimeExpiry t side p z0 = .next s' → Own (.pairs :: P) G (z0.arrive (Instr.deadTimeExpiry t side p).time) s'
  unfold Machine.execDeadTimeExpiry
  with_reducible refine own_run (fun hw b => ?_)
  replace hp_plate := List.mem_cons_of_mem Part.pairs hp_plate
  have hp_pairs : Part.pairs ∈ Part.pairs :: P := List.mem_cons_self
  simp only [Instr.wf, Bool.and_eq_true, decide_eq_true_eq] at hw
  have := sideIx_lt side
  have := sideIx_lt (otherSide side)
  try dsimp only
  repeat' first
    | (exact hG.sub rfl) | with_reducible exact same _ | with_reducible assumption | with_reducible refine branch (fun hc => ?_) (fun hc => ?_)
    | with_reducible apply pairFollow | with_reducible apply modPair

theorem moves_carrierStart {z0 : State} {t at96 : Nat} (hp_plate : Part.plate ∈ P) (hG : Cov G [⟨0x5100, 0x5100, 4, 4⟩]) : OwnMoves P G z0
    (.carrierStart t at96) := by
  change ∀ s', Machine.execCarrierStart t at96 z0 = .next s' → Own (.pairs :: P) G (z0.arrive (Instr.carrierStart t at96).time) s'
  unfold Machine.execCarrierStart
  with_reducible refine own_run (fun hw b => ?_)
  replace hp_plate := List.mem_cons_of_mem Part.pairs hp_plate
  have hp_pairs : Part.pairs ∈ Part.pairs :: P := List.mem_cons_self
  simp only [Instr.wf, Bool.and_eq_true, decide_eq_true_eq] at hw
  try dsimp only
  repeat' first
    | (exact hG.sub rfl) | with_reducible exact same _ | with_reducible assumption | with_reducible refine branch (fun hc => ?_) (fun hc => ?_)
    | with_reducible apply carrierStartWrite

theorem moves_carrierGroupStart {z0 : State} {t : Nat} {side : Side} {g : Nat} (hp_meas : Part.meas ∈ P) (hp_graphs : Part.graphs ∈ P) (hp_gf :
    Part.gf ∈ P) (hp_plate : Part.plate ∈ P) (hp_stacks : Part.stacks ∈ P) (hp_sides : Part.sides ∈ P) (hp_clock : Part.clock ∈ P) (hp_capture :
    Part.capture ∈ P) (hG : Cov G [⟨0x2100, 0x213F, 11, 11⟩, ⟨0x5120, 0x5127, 5, 5⟩, ⟨0x5120, 0x5127, 6, 6⟩, ⟨0x5200, 0x5247, 8, 8⟩, ⟨0x6000,
    0x6000, 2, 2⟩, ⟨0x6021, 0x6021, 1, 1⟩, ⟨0x6021, 0x6021, 4, 4⟩, ⟨0x7000, 0x7000, 5, 5⟩, ⟨0x7000, 0x7000, 8, 8⟩, ⟨0x7050, 0x7050, 1, 1⟩, ⟨0x7100,
    0x7104, 3, 3⟩, ⟨0x9010, 0x901F, 3, 3⟩, ⟨0x9010, 0x901F, 7, 7⟩]) : OwnMoves P G z0 (.carrierGroupStart t side g) := by
  change ∀ s', Machine.execCarrierGroupStart t side g z0 = .next s' → Own (.pairs :: P) G (z0.arrive (Instr.carrierGroupStart t side g).time) s'
  unfold Machine.execCarrierGroupStart
  with_reducible refine own_run (fun hw b => ?_)
  replace hp_meas := List.mem_cons_of_mem Part.pairs hp_meas
  replace hp_graphs := List.mem_cons_of_mem Part.pairs hp_graphs
  replace hp_gf := List.mem_cons_of_mem Part.pairs hp_gf
  replace hp_plate := List.mem_cons_of_mem Part.pairs hp_plate
  replace hp_stacks := List.mem_cons_of_mem Part.pairs hp_stacks
  replace hp_sides := List.mem_cons_of_mem Part.pairs hp_sides
  replace hp_clock := List.mem_cons_of_mem Part.pairs hp_clock
  replace hp_capture := List.mem_cons_of_mem Part.pairs hp_capture
  have hp_pairs : Part.pairs ∈ Part.pairs :: P := List.mem_cons_self
  simp only [Instr.wf, Bool.and_eq_true, decide_eq_true_eq] at hw
  have := sideIx_lt side
  have := sideIx_lt (otherSide side)
  try dsimp only
  repeat' first
    | (exact hG.sub rfl) | with_reducible exact same _ | with_reducible assumption | with_reducible refine branch (fun hc => ?_) (fun hc => ?_)
    | with_reducible apply startDue | with_reducible apply followerStart

theorem moves_carrierStop {z0 : State} {t mask : Nat} (hp_plate : Part.plate ∈ P) (hG : Cov G [⟨0x5100, 0x5100, 4, 4⟩]) : OwnMoves P G z0
    (.carrierStop t mask) := by
  change ∀ s', Machine.execCarrierStop t mask z0 = .next s' → Own (.pairs :: P) G (z0.arrive (Instr.carrierStop t mask).time) s'
  unfold Machine.execCarrierStop
  with_reducible refine own_run (fun hw b => ?_)
  replace hp_plate := List.mem_cons_of_mem Part.pairs hp_plate
  have hp_pairs : Part.pairs ∈ Part.pairs :: P := List.mem_cons_self
  simp only [Instr.wf, Bool.and_eq_true, decide_eq_true_eq] at hw
  try dsimp only
  repeat' first
    | (exact hG.sub rfl) | with_reducible exact same _ | with_reducible assumption | with_reducible refine branch (fun hc => ?_) (fun hc => ?_)
    | with_reducible apply carrierStopWrite

theorem moves_updateCommit {z0 : State} {t mask : Nat} (hp_plate : Part.plate ∈ P) : OwnMoves P G z0 (.updateCommit t mask) := by
  change ∀ s', Machine.execUpdateCommit t mask z0 = .next s' → Own (.pairs :: P) G (z0.arrive (Instr.updateCommit t mask).time) s'
  unfold Machine.execUpdateCommit
  with_reducible refine own_run (fun hw b => ?_)
  replace hp_plate := List.mem_cons_of_mem Part.pairs hp_plate
  have hp_pairs : Part.pairs ∈ Part.pairs :: P := List.mem_cons_self
  simp only [Instr.wf, Bool.and_eq_true, decide_eq_true_eq] at hw
  try dsimp only
  repeat' first
    | with_reducible exact same _ | with_reducible assumption | with_reducible refine branch (fun hc => ?_) (fun hc => ?_)
    | with_reducible apply updateCommitWrite

theorem moves_shadowWrite {z0 : State} {t p sub value : Nat} (hp_plate : Part.plate ∈ P) (hG : Cov G [⟨0x5140, 0x515F, 2, 2⟩]) : OwnMoves P G z0
    (.shadowWrite t p sub value) := by
  change ∀ s', Machine.execShadowWrite t p sub value z0 = .next s' → Own (.pairs :: P) G (z0.arrive (Instr.shadowWrite t p sub value).time) s'
  unfold Machine.execShadowWrite
  with_reducible refine own_run (fun hw b => ?_)
  replace hp_plate := List.mem_cons_of_mem Part.pairs hp_plate
  have hp_pairs : Part.pairs ∈ Part.pairs :: P := List.mem_cons_self
  simp only [Instr.wf, Bool.and_eq_true, decide_eq_true_eq] at hw
  try dsimp only
  repeat' first
    | (exact hG.sub rfl) | with_reducible exact same _ | with_reducible assumption | with_reducible refine branch (fun hc => ?_) (fun hc => ?_)
    | with_reducible apply shadowWriteOp

theorem moves_shadowApply {z0 : State} {t : Nat} (hp_plate : Part.plate ∈ P) (hG : Cov G [⟨0x5140, 0x515F, 2, 2⟩]) : OwnMoves P G z0 (.shadowApply
    t) := by
  change ∀ s', Machine.execShadowApply t z0 = .next s' → Own (.pairs :: P) G (z0.arrive (Instr.shadowApply t).time) s'
  unfold Machine.execShadowApply
  with_reducible refine own_run (fun hw b => ?_)
  replace hp_plate := List.mem_cons_of_mem Part.pairs hp_plate
  have hp_pairs : Part.pairs ∈ Part.pairs :: P := List.mem_cons_self
  simp only [Instr.wf, Bool.and_eq_true, decide_eq_true_eq] at hw
  try dsimp only
  repeat' first
    | (exact hG.sub rfl) | with_reducible exact same _ | with_reducible assumption | with_reducible apply applyWaiting

theorem moves_faultInTrip {z0 : State} {t n : Nat} {active : Bool} (hp_plate : Part.plate ∈ P) (hG : Cov G [⟨0x5310, 0x5310, 3, 3⟩]) : OwnMoves P G
    z0 (.faultInTrip t n active) := by
  change ∀ s', Machine.execFaultInTrip t n active z0 = .next s' → Own (.pairs :: P) G (z0.arrive (Instr.faultInTrip t n active).time) s'
  unfold Machine.execFaultInTrip
  with_reducible refine own_run (fun hw b => ?_)
  replace hp_plate := List.mem_cons_of_mem Part.pairs hp_plate
  have hp_pairs : Part.pairs ∈ Part.pairs :: P := List.mem_cons_self
  simp only [Instr.wf, Bool.and_eq_true, decide_eq_true_eq] at hw
  try dsimp only
  repeat' first
    | (exact hG.sub rfl) | with_reducible exact same _ | with_reducible assumption | with_reducible apply latchFaultIn
    | with_reducible refine plate_set (by assumption) rfl ?_

theorem moves_releaseFaultIn {z0 : State} {t : Nat} (hp_meas : Part.meas ∈ P) (hG : Cov G [⟨0x5300, 0x5300, 4, 4⟩, ⟨0x5310, 0x5310, 3, 3⟩]) :
    OwnMoves P G z0 (.releaseFaultIn t) := by
  change ∀ s', Machine.execReleaseFaultIn t z0 = .next s' → Own (.pairs :: P) G (z0.arrive (Instr.releaseFaultIn t).time) s'
  unfold Machine.execReleaseFaultIn
  with_reducible refine own_run (fun hw b => ?_)
  replace hp_meas := List.mem_cons_of_mem Part.pairs hp_meas
  have hp_pairs : Part.pairs ∈ Part.pairs :: P := List.mem_cons_self
  simp only [Instr.wf, Bool.and_eq_true, decide_eq_true_eq] at hw
  try dsimp only
  repeat' first
    | (exact hG.sub rfl) | with_reducible exact same _ | with_reducible assumption | with_reducible refine branch (fun hc => ?_) (fun hc => ?_)
    | with_reducible apply tripRelease

theorem moves_releaseChordTrip {z0 : State} {t : Nat} (hp_meas : Part.meas ∈ P) (hG : Cov G [⟨0x5300, 0x5300, 4, 4⟩, ⟨0x5310, 0x5310, 3, 3⟩]) :
    OwnMoves P G z0 (.releaseChordTrip t) := by
  change ∀ s', Machine.execReleaseChordTrip t z0 = .next s' → Own (.pairs :: P) G (z0.arrive (Instr.releaseChordTrip t).time) s'
  unfold Machine.execReleaseChordTrip
  with_reducible refine own_run (fun hw b => ?_)
  replace hp_meas := List.mem_cons_of_mem Part.pairs hp_meas
  have hp_pairs : Part.pairs ∈ Part.pairs :: P := List.mem_cons_self
  simp only [Instr.wf, Bool.and_eq_true, decide_eq_true_eq] at hw
  try dsimp only
  repeat' first
    | (exact hG.sub rfl) | with_reducible exact same _ | with_reducible assumption | with_reducible refine branch (fun hc => ?_) (fun hc => ?_)
    | with_reducible apply tripRelease

theorem moves_disableMaskWrite {z0 : State} {t i value : Nat} (hp_plate : Part.plate ∈ P) (hG : Cov G [⟨0x5300, 0x5300, 1, 3⟩]) : OwnMoves P G z0
    (.disableMaskWrite t i value) := by
  change ∀ s', Machine.execDisableMaskWrite t i value z0 = .next s' → Own (.pairs :: P) G (z0.arrive (Instr.disableMaskWrite t i value).time) s'
  unfold Machine.execDisableMaskWrite
  with_reducible refine own_run (fun hw b => ?_)
  replace hp_plate := List.mem_cons_of_mem Part.pairs hp_plate
  have hp_pairs : Part.pairs ∈ Part.pairs :: P := List.mem_cons_self
  simp only [Instr.wf, Bool.and_eq_true, decide_eq_true_eq] at hw
  try dsimp only
  repeat' first
    | (exact hG.sub rfl) | with_reducible exact same _ | with_reducible assumption | with_reducible refine branch (fun hc => ?_) (fun hc => ?_)
    | with_reducible apply disableWrite | omega

theorem moves_commissionEnter {z0 : State} {t : Nat} (hG : Cov G [⟨0x5300, 0x5300, 4, 4⟩]) : OwnMoves P G z0 (.commissionEnter t) := by
  change ∀ s', Machine.execCommissionEnter t z0 = .next s' → Own (.pairs :: P) G (z0.arrive (Instr.commissionEnter t).time) s'
  unfold Machine.execCommissionEnter
  with_reducible refine own_run (fun hw b => ?_)
  have hp_pairs : Part.pairs ∈ Part.pairs :: P := List.mem_cons_self
  simp only [Instr.wf, Bool.and_eq_true, decide_eq_true_eq] at hw
  try dsimp only
  repeat' first
    | (exact hG.sub rfl) | with_reducible exact same _ | with_reducible refine branch (fun hc => ?_) (fun hc => ?_)
    | with_reducible apply enterCommission

theorem moves_commissionLeave {z0 : State} {t : Nat} (hp_plate : Part.plate ∈ P) (hG : Cov G [⟨0x5300, 0x5300, 4, 4⟩, ⟨0x5320, 0x5320, 2, 2⟩]) :
    OwnMoves P G z0 (.commissionLeave t) := by
  change ∀ s', Machine.execCommissionLeave t z0 = .next s' → Own (.pairs :: P) G (z0.arrive (Instr.commissionLeave t).time) s'
  unfold Machine.execCommissionLeave
  with_reducible refine own_run (fun hw b => ?_)
  replace hp_plate := List.mem_cons_of_mem Part.pairs hp_plate
  have hp_pairs : Part.pairs ∈ Part.pairs :: P := List.mem_cons_self
  simp only [Instr.wf, Bool.and_eq_true, decide_eq_true_eq] at hw
  try dsimp only
  repeat' first
    | (exact hG.sub rfl) | with_reducible exact same _ | with_reducible assumption | with_reducible refine branch (fun hc => ?_) (fun hc => ?_)
    | with_reducible apply leaveCommission

theorem moves_overrideMapWrite {z0 : State} {t : Nat} {map : List Nat} (hp_plate : Part.plate ∈ P) (hG : Cov G [⟨0x5300, 0x5300, 4, 4⟩, ⟨0x5320,
    0x5320, 2, 2⟩]) : OwnMoves P G z0 (.overrideMapWrite t map) := by
  change ∀ s', Machine.execOverrideMapWrite t map z0 = .next s' → Own (.pairs :: P) G (z0.arrive (Instr.overrideMapWrite t map).time) s'
  unfold Machine.execOverrideMapWrite
  with_reducible refine own_run (fun hw b => ?_)
  replace hp_plate := List.mem_cons_of_mem Part.pairs hp_plate
  have hp_pairs : Part.pairs ∈ Part.pairs :: P := List.mem_cons_self
  simp only [Instr.wf, Bool.and_eq_true, decide_eq_true_eq] at hw
  try dsimp only
  repeat' first
    | (exact hG.sub rfl) | with_reducible exact same _ | with_reducible assumption | with_reducible refine branch (fun hc => ?_) (fun hc => ?_)
    | with_reducible apply overrideWrite

theorem moves_debugHalt {z0 : State} {t : Nat} {en : Bool} (hp_plate : Part.plate ∈ P) : OwnMoves P G z0 (.debugHalt t en) := by
  change ∀ s', Machine.execDebugHalt t en z0 = .next s' → Own (.pairs :: P) G (z0.arrive (Instr.debugHalt t en).time) s'
  unfold Machine.execDebugHalt
  with_reducible refine own_run (fun hw b => ?_)
  replace hp_plate := List.mem_cons_of_mem Part.pairs hp_plate
  have hp_pairs : Part.pairs ∈ Part.pairs :: P := List.mem_cons_self
  simp only [Instr.wf, Bool.and_eq_true, decide_eq_true_eq] at hw
  try dsimp only
  repeat' first
    | with_reducible exact same _ | with_reducible refine branch (fun hc => ?_) (fun hc => ?_) | with_reducible apply raise
    | with_reducible refine plate_set (by assumption) rfl ?_

theorem moves_debugResume {z0 : State} {t : Nat} (hp_graphs : Part.graphs ∈ P) (hp_plate : Part.plate ∈ P) (hp_sides : Part.sides ∈ P) : OwnMoves P
    G z0 (.debugResume t) := by
  change ∀ s', Machine.execDebugResume t z0 = .next s' → Own (.pairs :: P) G (z0.arrive (Instr.debugResume t).time) s'
  unfold Machine.execDebugResume
  with_reducible refine own_run (fun hw b => ?_)
  replace hp_graphs := List.mem_cons_of_mem Part.pairs hp_graphs
  replace hp_plate := List.mem_cons_of_mem Part.pairs hp_plate
  replace hp_sides := List.mem_cons_of_mem Part.pairs hp_sides
  have hp_pairs : Part.pairs ∈ Part.pairs :: P := List.mem_cons_self
  simp only [Instr.wf, Bool.and_eq_true, decide_eq_true_eq] at hw
  try dsimp only
  repeat' first
    | with_reducible exact same _ | with_reducible assumption | with_reducible refine branch (fun hc => ?_) (fun hc => ?_)
    | with_reducible apply freshBeats | with_reducible apply missTicks | with_reducible apply shiftGraph | omega | split
    | with_reducible refine plate_set ‹_› ?_ ?_ | exact Eq.refl _

theorem moves_plateMinOnExpiry {z0 : State} {t p : Nat} (hG : Cov G [⟨0x5200, 0x5247, 8, 8⟩]) : OwnMoves P G z0 (.plateMinOnExpiry t p) := by
  change ∀ s', Machine.execPlateMinOnExpiry t p z0 = .next s' → Own (.pairs :: P) G (z0.arrive (Instr.plateMinOnExpiry t p).time) s'
  unfold Machine.execPlateMinOnExpiry
  with_reducible refine own_run (fun hw b => ?_)
  have hp_pairs : Part.pairs ∈ Part.pairs :: P := List.mem_cons_self
  simp only [Instr.wf, Bool.and_eq_true, decide_eq_true_eq] at hw
  try dsimp only
  repeat' first
    | (exact hG.sub rfl) | with_reducible exact same _ | with_reducible assumption | with_reducible refine branch (fun hc => ?_) (fun hc => ?_)
    | with_reducible apply pairFollow

end Own
end Sys2Proof
end

