-- ==== Sys2Proof/Laws/MovesSafety.lean ====
section
/-!
SUPPORT. What each command moves, one lemma each: the safety logic.
-/

set_option Elab.async false
set_option maxRecDepth 2000
set_option linter.unusedVariables false
set_option linter.unusedSimpArgs false
namespace Sys2Proof
open Sys2Proof.Machine
variable {P : List Part} {G : List Objs}
namespace Own

theorem moves_safetyChannelFault {z0 : State} {t : Nat} (hp_meas : Part.meas ∈ P) (hp_gf : Part.gf ∈ P) (hp_plate : Part.plate ∈ P) (hp_stacks :
    Part.stacks ∈ P) (hp_safety : Part.safety ∈ P) (hp_sharing : Part.sharing ∈ P) (hG : Cov G [⟨0x2500, 0x2503, 6, 6⟩, ⟨0x2500, 0x2503, 8, 8⟩,
    ⟨0x2500, 0x2503, 9, 9⟩, ⟨0x4001, 0x4001, 3, 3⟩, ⟨0x4001, 0x4001, 4, 4⟩, ⟨0x5300, 0x5300, 4, 4⟩, ⟨0x5320, 0x5320, 2, 2⟩, ⟨0x6800, 0x6800, 2, 2⟩,
    ⟨0x9010, 0x901F, 3, 3⟩, ⟨0xA000, 0xA000, 1, 1⟩, ⟨0xB000, 0xB000, 1, 1⟩, ⟨0xB000, 0xB000, 4, 4⟩]) : OwnMoves P G z0 (.safetyChannelFault t) := by
  change ∀ s', Machine.execSafetyChannelFault t z0 = .next s' → Own (.pairs :: P) G (z0.arrive (Instr.safetyChannelFault t).time) s'
  unfold Machine.execSafetyChannelFault
  with_reducible refine own_run (fun hw b => ?_)
  replace hp_meas := List.mem_cons_of_mem Part.pairs hp_meas
  replace hp_gf := List.mem_cons_of_mem Part.pairs hp_gf
  replace hp_plate := List.mem_cons_of_mem Part.pairs hp_plate
  replace hp_stacks := List.mem_cons_of_mem Part.pairs hp_stacks
  replace hp_safety := List.mem_cons_of_mem Part.pairs hp_safety
  replace hp_sharing := List.mem_cons_of_mem Part.pairs hp_sharing
  have hp_pairs : Part.pairs ∈ Part.pairs :: P := List.mem_cons_self
  simp only [Instr.wf, Bool.and_eq_true, decide_eq_true_eq] at hw
  try dsimp only
  repeat' first
    | (exact hG.sub rfl) | (exact hG.item rfl) | with_reducible exact same _ | with_reducible assumption | with_reducible apply raise
    | with_reducible apply ridgeFault | with_reducible apply setBitO | with_reducible apply setEnables | omega

theorem moves_sealReadingAccepted {z0 : State} {t : Nat} {n : Nat} {tHigh : Bool} {cHigh : Bool} {held : Nat} (hp_gf : Part.gf ∈ P) (hp_plate : Part.plate ∈ P)
    (hp_safety : Part.safety ∈ P) (hG : Cov G [⟨0x5300, 0x5300, 4, 4⟩, ⟨0x5320, 0x5320, 2, 2⟩, ⟨0x6800, 0x6800, 1, 1⟩, ⟨0x6800, 0x6800, 2, 2⟩,
    ⟨0x6800, 0x6800, 7, 7⟩, ⟨0x6800, 0x6800, 11, 11⟩]) : OwnMoves P G z0 (.sealReadingAccepted t n tHigh cHigh held) := by
  change ∀ s', Machine.execSealReadingAccepted t n tHigh cHigh held z0 = .next s' → Own (.pairs :: P) G (z0.arrive (Instr.sealReadingAccepted t n tHigh cHigh held).time) s'
  unfold Machine.execSealReadingAccepted
  with_reducible refine own_run (fun hw b => ?_)
  replace hp_gf := List.mem_cons_of_mem Part.pairs hp_gf
  replace hp_plate := List.mem_cons_of_mem Part.pairs hp_plate
  replace hp_safety := List.mem_cons_of_mem Part.pairs hp_safety
  have hp_pairs : Part.pairs ∈ Part.pairs :: P := List.mem_cons_self
  simp only [Instr.wf, Bool.and_eq_true, decide_eq_true_eq] at hw
  try dsimp only
  repeat' first
    | (exact hG.sub rfl) | (exact hG.item rfl) | with_reducible exact same _ | with_reducible assumption
    | with_reducible refine branch (fun hc => ?_) (fun hc => ?_) | with_reducible apply putLevels | with_reducible apply sealConfig
    | with_reducible apply sealPermission | omega | split

theorem moves_sinFilterExpiry {z0 : State} {t : Nat} {ball : Nat} {high : Bool} {held chans : Nat} (hp_gf : Part.gf ∈ P) (hp_safety : Part.safety ∈ P)
    (hG : Cov G [⟨0x6800, 0x6800, 2, 2⟩, ⟨0x6800, 0x6800, 3, 3⟩, ⟨0x6800, 0x6800, 7, 7⟩, ⟨0x6800, 0x6800, 11, 11⟩]) : OwnMoves P G z0 (.sinFilterExpiry t ball high held chans) := by
  change ∀ s', Machine.execSinFilterExpiry t ball high held chans z0 = .next s' → Own (.pairs :: P) G (z0.arrive (Instr.sinFilterExpiry t ball high held chans).time) s'
  unfold Machine.execSinFilterExpiry
  with_reducible refine own_run (fun hw b => ?_)
  replace hp_gf := List.mem_cons_of_mem Part.pairs hp_gf
  replace hp_safety := List.mem_cons_of_mem Part.pairs hp_safety
  have hp_pairs : Part.pairs ∈ Part.pairs :: P := List.mem_cons_self
  simp only [Instr.wf, Bool.and_eq_true, decide_eq_true_eq] at hw
  try dsimp only
  repeat' first
    | (exact hG.sub rfl) | (exact hG.item rfl) | with_reducible exact same _ | with_reducible assumption
    | with_reducible refine branch (fun hc => ?_) (fun hc => ?_) | with_reducible apply sinBall | omega | split

theorem moves_sinDiscrepancy {z0 : State} {t : Nat} {n : Nat} (hp_safety : Part.safety ∈ P) (hG : Cov G [⟨0x6800, 0x6800, 2, 2⟩]) : OwnMoves P G z0
    (.sinDiscrepancy t n) := by
  change ∀ s', Machine.execSinDiscrepancy t n z0 = .next s' → Own (.pairs :: P) G (z0.arrive (Instr.sinDiscrepancy t n).time) s'
  unfold Machine.execSinDiscrepancy
  with_reducible refine own_run (fun hw b => ?_)
  replace hp_safety := List.mem_cons_of_mem Part.pairs hp_safety
  have hp_pairs : Part.pairs ∈ Part.pairs :: P := List.mem_cons_self
  simp only [Instr.wf, Bool.and_eq_true, decide_eq_true_eq] at hw
  try dsimp only
  repeat' first
    | (exact hG.sub rfl) | (exact hG.item rfl) | with_reducible exact same _ | with_reducible assumption
    | with_reducible refine branch (fun hc => ?_) (fun hc => ?_) | with_reducible apply raise | with_reducible apply setBitO | omega | split
    | with_reducible refine safety_set (by assumption) ?_

theorem moves_soutRequestWrite {z0 : State} {t value : Nat} (hp_safety : Part.safety ∈ P) (hG : Cov G [⟨0x6800, 0x6800, 4, 4⟩]) : OwnMoves P G z0
    (.soutRequestWrite t value) := by
  change ∀ s', Machine.execSoutRequestWrite t value z0 = .next s' → Own (.pairs :: P) G (z0.arrive (Instr.soutRequestWrite t value).time) s'
  unfold Machine.execSoutRequestWrite
  with_reducible refine own_run (fun hw b => ?_)
  replace hp_safety := List.mem_cons_of_mem Part.pairs hp_safety
  have hp_pairs : Part.pairs ∈ Part.pairs :: P := List.mem_cons_self
  simp only [Instr.wf, Bool.and_eq_true, decide_eq_true_eq] at hw
  try dsimp only
  repeat' first
    | (exact hG.sub rfl) | with_reducible exact same _ | with_reducible assumption | with_reducible refine branch (fun hc => ?_) (fun hc => ?_)
    | with_reducible apply writeSout

theorem moves_soutTestPulse {z0 : State} {t : Nat} {ball : Nat} (hp_safety : Part.safety ∈ P) (hp_out : Part.out ∈ P) : OwnMoves P G z0
    (.soutTestPulse t ball) := by
  change ∀ s', Machine.execSoutTestPulse t ball z0 = .next s' → Own (.pairs :: P) G (z0.arrive (Instr.soutTestPulse t ball).time) s'
  unfold Machine.execSoutTestPulse
  with_reducible refine own_run (fun hw b => ?_)
  replace hp_safety := List.mem_cons_of_mem Part.pairs hp_safety
  replace hp_out := List.mem_cons_of_mem Part.pairs hp_out
  have hp_pairs : Part.pairs ∈ Part.pairs :: P := List.mem_cons_self
  simp only [Instr.wf, Bool.and_eq_true, decide_eq_true_eq] at hw
  try dsimp only
  repeat' first
    | with_reducible exact same _ | with_reducible assumption | with_reducible refine branch (fun hc => ?_) (fun hc => ?_)
    | with_reducible apply emit | omega | split | with_reducible refine safety_set (by assumption) ?_

theorem moves_soutTestEnd {z0 : State} {t : Nat} {ball : Nat} {lowOk : Bool} {highOk : Bool} (hp_gf : Part.gf ∈ P) (hp_safety : Part.safety ∈ P)
    (hG : Cov G [⟨0x6800, 0x6800, 2, 2⟩, ⟨0x6800, 0x6800, 8, 8⟩, ⟨0x6800, 0x6800, 9, 9⟩]) : OwnMoves P G z0
    (.soutTestEnd t ball lowOk highOk) := by
  change ∀ s', Machine.execSoutTestEnd t ball lowOk highOk z0 = .next s' → Own (.pairs :: P) G (z0.arrive (Instr.soutTestEnd t ball lowOk highOk).time) s'
  unfold Machine.execSoutTestEnd
  with_reducible refine own_run (fun hw b => ?_)
  replace hp_gf := List.mem_cons_of_mem Part.pairs hp_gf
  replace hp_safety := List.mem_cons_of_mem Part.pairs hp_safety
  have hp_pairs : Part.pairs ∈ Part.pairs :: P := List.mem_cons_self
  simp only [Instr.wf, Bool.and_eq_true, decide_eq_true_eq] at hw
  try dsimp only
  repeat' first
    | (exact hG.sub rfl) | (exact hG.item rfl) | with_reducible exact same _ | with_reducible assumption
    | with_reducible refine branch (fun hc => ?_) (fun hc => ?_) | with_reducible apply incSat | with_reducible apply incWrap
    | with_reducible apply setBitO | with_reducible apply soutFail | omega | split | with_reducible refine safety_set (by assumption) ?_

theorem readPad {z0 z1 : State} {ball : Nat} {high : Bool} (hp_safety : Part.safety ∈ P) (h : Own P G z0 z1) : Own P G z0 (Machine.readPad ball
    high z1) := by
  refine h.step ?_
  clear h
  unfold Machine.readPad
  try dsimp only
  repeat' first
    | with_reducible exact same _ | with_reducible assumption | with_reducible refine safety_set (by assumption) ?_

theorem moves_soutStuckOn {z0 : State} {t : Nat} {ball : Nat} {high : Bool} {held : Nat} (hp_gf : Part.gf ∈ P) (hp_safety : Part.safety ∈ P) (hG : Cov G [⟨0x6800, 0x6800, 2,
    2⟩]) : OwnMoves P G z0 (.soutStuckOn t ball high held) := by
  change ∀ s', Machine.execSoutStuckOn t ball high held z0 = .next s' → Own (.pairs :: P) G (z0.arrive (Instr.soutStuckOn t ball high held).time) s'
  unfold Machine.execSoutStuckOn
  with_reducible refine own_run (fun hw b => ?_)
  replace hp_gf := List.mem_cons_of_mem Part.pairs hp_gf
  replace hp_safety := List.mem_cons_of_mem Part.pairs hp_safety
  have hp_pairs : Part.pairs ∈ Part.pairs :: P := List.mem_cons_self
  simp only [Instr.wf, Bool.and_eq_true, decide_eq_true_eq] at hw
  try dsimp only
  repeat' first
    | (exact hG.sub rfl) | (exact hG.item rfl) | with_reducible exact same _ | with_reducible assumption
    | with_reducible refine branch (fun hc => ?_) (fun hc => ?_) | with_reducible apply readPad | with_reducible apply soutFail | omega | split
    | with_reducible refine safety_set (by assumption) ?_

theorem resetEffect {z0 z1 : State} (hp_safety : Part.safety ∈ P) (hG : Cov G [⟨0x6800, 0x6800, 2, 2⟩]) (h : Own P G z0 z1) : Own P G z0
    (Machine.resetEffect z1) := by
  refine h.step ?_
  clear h
  unfold Machine.resetEffect
  try dsimp only
  repeat' first
    | (exact hG.sub rfl) | (exact hG.item rfl) | with_reducible exact same _ | with_reducible assumption
    | with_reducible refine branch (fun hc => ?_) (fun hc => ?_) | with_reducible apply freeLow | with_reducible apply raise
    | with_reducible apply setBitO | with_reducible apply setPermits

theorem moves_safetyReset {z0 : State} {t : Nat} {dur : Nat} (hp_safety : Part.safety ∈ P) (hG : Cov G [⟨0x6800, 0x6800, 2, 2⟩, ⟨0x6800, 0x6800,
    10, 10⟩]) : OwnMoves P G z0 (.safetyReset t dur) := by
  change ∀ s', Machine.execSafetyReset t dur z0 = .next s' → Own (.pairs :: P) G (z0.arrive (Instr.safetyReset t dur).time) s'
  unfold Machine.execSafetyReset
  with_reducible refine own_run (fun hw b => ?_)
  replace hp_safety := List.mem_cons_of_mem Part.pairs hp_safety
  have hp_pairs : Part.pairs ∈ Part.pairs :: P := List.mem_cons_self
  simp only [Instr.wf, Bool.and_eq_true, decide_eq_true_eq] at hw
  try dsimp only
  repeat' first
    | (exact hG.sub rfl) | (exact hG.item rfl) | with_reducible exact same _ | with_reducible assumption
    | with_reducible refine branch (fun hc => ?_) (fun hc => ?_) | with_reducible apply resetEffect | with_reducible apply freeLow
    | with_reducible apply incSat | with_reducible apply lineActive | with_reducible apply raise | with_reducible apply setBitO | omega | split

theorem moves_resetStuck {z0 : State} {t : Nat} (hp_safety : Part.safety ∈ P) (hG : Cov G [⟨0x6800, 0x6800, 2, 2⟩]) : OwnMoves P G z0 (.resetStuck
    t) := by
  change ∀ s', Machine.execResetStuck t z0 = .next s' → Own (.pairs :: P) G (z0.arrive (Instr.resetStuck t).time) s'
  unfold Machine.execResetStuck
  with_reducible refine own_run (fun hw b => ?_)
  replace hp_safety := List.mem_cons_of_mem Part.pairs hp_safety
  have hp_pairs : Part.pairs ∈ Part.pairs :: P := List.mem_cons_self
  simp only [Instr.wf, Bool.and_eq_true, decide_eq_true_eq] at hw
  try dsimp only
  repeat' first
    | (exact hG.sub rfl) | (exact hG.item rfl) | with_reducible exact same _ | with_reducible assumption | with_reducible apply raise
    | with_reducible apply setBitO | with_reducible apply blockReset

theorem moves_resetDiscrepancy {z0 : State} {t : Nat} (hp_safety : Part.safety ∈ P) (hG : Cov G [⟨0x6800, 0x6800, 2, 2⟩]) : OwnMoves P G z0
    (.resetDiscrepancy t) := by
  change ∀ s', Machine.execResetDiscrepancy t z0 = .next s' → Own (.pairs :: P) G (z0.arrive (Instr.resetDiscrepancy t).time) s'
  unfold Machine.execResetDiscrepancy
  with_reducible refine own_run (fun hw b => ?_)
  replace hp_safety := List.mem_cons_of_mem Part.pairs hp_safety
  have hp_pairs : Part.pairs ∈ Part.pairs :: P := List.mem_cons_self
  simp only [Instr.wf, Bool.and_eq_true, decide_eq_true_eq] at hw
  try dsimp only
  repeat' first
    | (exact hG.sub rfl) | (exact hG.item rfl) | with_reducible exact same _ | with_reducible assumption | with_reducible apply raise
    | with_reducible apply setBitO | with_reducible apply blockReset

theorem moves_resetBlockEnd {z0 : State} {t : Nat} (hp_safety : Part.safety ∈ P) (hG : Cov G [⟨0x6800, 0x6800, 2, 2⟩]) : OwnMoves P G z0
    (.resetBlockEnd t) := by
  change ∀ s', Machine.execResetBlockEnd t z0 = .next s' → Own (.pairs :: P) G (z0.arrive (Instr.resetBlockEnd t).time) s'
  unfold Machine.execResetBlockEnd
  with_reducible refine own_run (fun hw b => ?_)
  replace hp_safety := List.mem_cons_of_mem Part.pairs hp_safety
  have hp_pairs : Part.pairs ∈ Part.pairs :: P := List.mem_cons_self
  simp only [Instr.wf, Bool.and_eq_true, decide_eq_true_eq] at hw
  try dsimp only
  repeat' first
    | (exact hG.sub rfl) | (exact hG.item rfl) | with_reducible exact same _ | with_reducible assumption
    | with_reducible refine branch (fun hc => ?_) (fun hc => ?_) | with_reducible apply setBitO | omega | split
    | with_reducible refine safety_set (by assumption) ?_

end Own
end Sys2Proof
end

