-- ==== Sys2Proof/Laws/MovesScribe.lean ====
section
/-!
SUPPORT. What each command moves, one lemma each: the scribe and counters.
-/

set_option Elab.async false
set_option maxRecDepth 2000
set_option linter.unusedVariables false
set_option linter.unusedSimpArgs false
namespace Sys2Proof
open Sys2Proof.Machine
variable {P : List Part} {G : List Objs}
namespace Own

theorem moves_hoursSeed {z0 : State} {t value : Nat} (hG : Cov G [⟨0x8100, 0x8100, 3, 3⟩, ⟨0x8100, 0x8100, 9, 9⟩]) : OwnMoves P G z0 (.hoursSeed t
    value) := by
  change ∀ s', Machine.execHoursSeed t value z0 = .next s' → Own (.pairs :: P) G (z0.arrive (Instr.hoursSeed t value).time) s'
  unfold Machine.execHoursSeed
  with_reducible refine own_run (fun hw b => ?_)
  have hp_pairs : Part.pairs ∈ Part.pairs :: P := List.mem_cons_self
  simp only [Instr.wf, Bool.and_eq_true, decide_eq_true_eq] at hw
  try dsimp only
  repeat' first
    | (exact hG.sub rfl) | with_reducible exact same _ | with_reducible refine branch (fun hc => ?_) (fun hc => ?_) | with_reducible apply seedHours

theorem moves_powerCycleSeed {z0 : State} {t value : Nat} (hG : Cov G [⟨0x8100, 0x8100, 3, 3⟩, ⟨0x8100, 0x8100, 10, 10⟩]) : OwnMoves P G z0
    (.powerCycleSeed t value) := by
  change ∀ s', Machine.execPowerCycleSeed t value z0 = .next s' → Own (.pairs :: P) G (z0.arrive (Instr.powerCycleSeed t value).time) s'
  unfold Machine.execPowerCycleSeed
  with_reducible refine own_run (fun hw b => ?_)
  have hp_pairs : Part.pairs ∈ Part.pairs :: P := List.mem_cons_self
  simp only [Instr.wf, Bool.and_eq_true, decide_eq_true_eq] at hw
  try dsimp only
  repeat' first
    | (exact hG.sub rfl) | with_reducible exact same _ | with_reducible refine branch (fun hc => ?_) (fun hc => ?_) | with_reducible apply seedCycles

theorem moves_operatingHoursTick {z0 : State} {t : Nat} (hp_scribe : Part.scribe ∈ P) (hG : Cov G [⟨0x8100, 0x8100, 9, 9⟩]) : OwnMoves P G z0
    (.operatingHoursTick t) := by
  change ∀ s', Machine.execOperatingHoursTick t z0 = .next s' → Own (.pairs :: P) G (z0.arrive (Instr.operatingHoursTick t).time) s'
  unfold Machine.execOperatingHoursTick
  with_reducible refine own_run (fun hw b => ?_)
  replace hp_scribe := List.mem_cons_of_mem Part.pairs hp_scribe
  have hp_pairs : Part.pairs ∈ Part.pairs :: P := List.mem_cons_self
  simp only [Instr.wf, Bool.and_eq_true, decide_eq_true_eq] at hw
  try dsimp only
  repeat' first
    | (exact hG.sub rfl) | (exact hG.item rfl)
    | (exact hG.item rfl) | with_reducible exact same _ | with_reducible refine branch (fun hc => ?_) (fun hc => ?_) | with_reducible apply incWrap
    | with_reducible refine scribe_set (by assumption) ?_

theorem moves_histogramSample {z0 : State} {t q : Nat} (hp_scribe : Part.scribe ∈ P) (hG : Cov G [⟨0x8110, 0x814F, 1, 1⟩, ⟨0x8110, 0x814F, 4, 7⟩])
    : OwnMoves P G z0 (.histogramSample t q) := by
  change ∀ s', Machine.execHistogramSample t q z0 = .next s' → Own (.pairs :: P) G (z0.arrive (Instr.histogramSample t q).time) s'
  unfold Machine.execHistogramSample
  with_reducible refine own_run (fun hw b => ?_)
  replace hp_scribe := List.mem_cons_of_mem Part.pairs hp_scribe
  have hp_pairs : Part.pairs ∈ Part.pairs :: P := List.mem_cons_self
  simp only [Instr.wf, Bool.and_eq_true, decide_eq_true_eq] at hw
  try dsimp only
  repeat' first
    | (exact hG.item rfl) | (exact hG.sub rfl) | with_reducible exact same _ | with_reducible assumption
    | with_reducible refine branch (fun hc => ?_) (fun hc => ?_) | with_reducible apply dueClears | with_reducible apply incSat
    | with_reducible apply takeSample
    | (refine hG.hit 0x8110 0x814F 7 7 rfl ?_ ?_ ?_ ?_ ?_ <;> (first | omega | ((try simp only [quantIx, ctrIx, planIx, bankIndex, resIx, pllSide, instRecord, recordIndex]); omega)))
    | split | with_reducible refine scribe_set (by assumption) ?_

theorem moves_histogramClear {z0 : State} {t mask : Nat} (hp_scribe : Part.scribe ∈ P) : OwnMoves P G z0 (.histogramClear t mask) := by
  change ∀ s', Machine.execHistogramClear t mask z0 = .next s' → Own (.pairs :: P) G (z0.arrive (Instr.histogramClear t mask).time) s'
  unfold Machine.execHistogramClear
  with_reducible refine own_run (fun hw b => ?_)
  replace hp_scribe := List.mem_cons_of_mem Part.pairs hp_scribe
  have hp_pairs : Part.pairs ∈ Part.pairs :: P := List.mem_cons_self
  simp only [Instr.wf, Bool.and_eq_true, decide_eq_true_eq] at hw
  try dsimp only
  repeat' first
    | with_reducible exact same _ | with_reducible assumption | with_reducible refine branch (fun hc => ?_) (fun hc => ?_)
    | with_reducible apply histogramClear

theorem moves_scribeNote {z0 : State} {t : Nat} {note : List Nat} (hG : Cov G [⟨0x8100, 0x8100, 3, 3⟩]) : OwnMoves P G z0 (.scribeNote t note) := by
  change ∀ s', Machine.execScribeNote t note z0 = .next s' → Own (.pairs :: P) G (z0.arrive (Instr.scribeNote t note).time) s'
  unfold Machine.execScribeNote
  with_reducible refine own_run (fun hw b => ?_)
  have hp_pairs : Part.pairs ∈ Part.pairs :: P := List.mem_cons_self
  simp only [Instr.wf, Bool.and_eq_true, decide_eq_true_eq] at hw
  try dsimp only
  repeat' first
    | (exact hG.sub rfl) | with_reducible exact same _ | with_reducible refine branch (fun hc => ?_) (fun hc => ?_) | with_reducible apply scribeNote

theorem moves_scribeTokenRefill {z0 : State} {t bucket : Nat} (hp_scribe : Part.scribe ∈ P) : OwnMoves P G z0 (.scribeTokenRefill t bucket) := by
  change ∀ s', Machine.execScribeTokenRefill t bucket z0 = .next s' → Own (.pairs :: P) G (z0.arrive (Instr.scribeTokenRefill t bucket).time) s'
  unfold Machine.execScribeTokenRefill
  with_reducible refine own_run (fun hw b => ?_)
  replace hp_scribe := List.mem_cons_of_mem Part.pairs hp_scribe
  have hp_pairs : Part.pairs ∈ Part.pairs :: P := List.mem_cons_self
  simp only [Instr.wf, Bool.and_eq_true, decide_eq_true_eq] at hw
  try dsimp only
  repeat' first
    | with_reducible exact same _ | with_reducible refine branch (fun hc => ?_) (fun hc => ?_) | split
    | with_reducible refine scribe_set (by assumption) ?_

theorem moves_scribeRecordsRead {z0 : State} {t reader : Nat} (hp_net : Part.net ∈ P) (hp_out : Part.out ∈ P) : OwnMoves P G z0 (.scribeRecordsRead
    t reader) := by
  change ∀ s', Machine.execScribeRecordsRead t reader z0 = .next s' → Own (.pairs :: P) G (z0.arrive (Instr.scribeRecordsRead t reader).time) s'
  unfold Machine.execScribeRecordsRead
  with_reducible refine own_run (fun hw b => ?_)
  replace hp_net := List.mem_cons_of_mem Part.pairs hp_net
  replace hp_out := List.mem_cons_of_mem Part.pairs hp_out
  have hp_pairs : Part.pairs ∈ Part.pairs :: P := List.mem_cons_self
  simp only [Instr.wf, Bool.and_eq_true, decide_eq_true_eq] at hw
  try dsimp only
  repeat' first
    | with_reducible exact same _ | with_reducible assumption | with_reducible refine branch (fun hc => ?_) (fun hc => ?_)
    | with_reducible apply readRecords | with_reducible apply emit

theorem moves_compatRecordsRead {z0 : State} {t reader : Nat} (hp_net : Part.net ∈ P) (hp_out : Part.out ∈ P) : OwnMoves P G z0 (.compatRecordsRead
    t reader) := by
  change ∀ s', Machine.execCompatRecordsRead t reader z0 = .next s' → Own (.pairs :: P) G (z0.arrive (Instr.compatRecordsRead t reader).time) s'
  unfold Machine.execCompatRecordsRead
  with_reducible refine own_run (fun hw b => ?_)
  replace hp_net := List.mem_cons_of_mem Part.pairs hp_net
  replace hp_out := List.mem_cons_of_mem Part.pairs hp_out
  have hp_pairs : Part.pairs ∈ Part.pairs :: P := List.mem_cons_self
  simp only [Instr.wf, Bool.and_eq_true, decide_eq_true_eq] at hw
  try dsimp only
  repeat' first
    | with_reducible exact same _ | with_reducible assumption | with_reducible refine branch (fun hc => ?_) (fun hc => ?_)
    | with_reducible apply readCompat | with_reducible apply emit

theorem moves_startCounters {z0 : State} {t banks : Nat} (hp_scribe : Part.scribe ∈ P) : OwnMoves P G z0 (.startCounters t banks) := by
  change ∀ s', Machine.execStartCounters t banks z0 = .next s' → Own (.pairs :: P) G (z0.arrive (Instr.startCounters t banks).time) s'
  unfold Machine.execStartCounters
  with_reducible refine own_run (fun hw b => ?_)
  replace hp_scribe := List.mem_cons_of_mem Part.pairs hp_scribe
  have hp_pairs : Part.pairs ∈ Part.pairs :: P := List.mem_cons_self
  simp only [Instr.wf, Bool.and_eq_true, decide_eq_true_eq] at hw
  try dsimp only
  repeat' first
    | with_reducible exact same _ | with_reducible assumption | with_reducible refine branch (fun hc => ?_) (fun hc => ?_)
    | with_reducible apply stampCounter

theorem moves_stopCounters {z0 : State} {t banks : Nat} (hp_scribe : Part.scribe ∈ P) : OwnMoves P G z0 (.stopCounters t banks) := by
  change ∀ s', Machine.execStopCounters t banks z0 = .next s' → Own (.pairs :: P) G (z0.arrive (Instr.stopCounters t banks).time) s'
  unfold Machine.execStopCounters
  with_reducible refine own_run (fun hw b => ?_)
  replace hp_scribe := List.mem_cons_of_mem Part.pairs hp_scribe
  have hp_pairs : Part.pairs ∈ Part.pairs :: P := List.mem_cons_self
  simp only [Instr.wf, Bool.and_eq_true, decide_eq_true_eq] at hw
  try dsimp only
  repeat' first
    | with_reducible exact same _ | with_reducible assumption | with_reducible refine branch (fun hc => ?_) (fun hc => ?_)
    | with_reducible apply stampCounter

theorem moves_clearCounters {z0 : State} {t banks : Nat} (hp_scribe : Part.scribe ∈ P) : OwnMoves P G z0 (.clearCounters t banks) := by
  change ∀ s', Machine.execClearCounters t banks z0 = .next s' → Own (.pairs :: P) G (z0.arrive (Instr.clearCounters t banks).time) s'
  unfold Machine.execClearCounters
  with_reducible refine own_run (fun hw b => ?_)
  replace hp_scribe := List.mem_cons_of_mem Part.pairs hp_scribe
  have hp_pairs : Part.pairs ∈ Part.pairs :: P := List.mem_cons_self
  simp only [Instr.wf, Bool.and_eq_true, decide_eq_true_eq] at hw
  try dsimp only
  repeat' first
    | with_reducible exact same _ | with_reducible assumption | with_reducible refine branch (fun hc => ?_) (fun hc => ?_)
    | with_reducible apply stampCounter

theorem moves_counterWrite {z0 : State} {t i value : Nat} (hp_scribe : Part.scribe ∈ P) : OwnMoves P G z0 (.counterWrite t i value) := by
  change ∀ s', Machine.execCounterWrite t i value z0 = .next s' → Own (.pairs :: P) G (z0.arrive (Instr.counterWrite t i value).time) s'
  unfold Machine.execCounterWrite
  with_reducible refine own_run (fun hw b => ?_)
  replace hp_scribe := List.mem_cons_of_mem Part.pairs hp_scribe
  have hp_pairs : Part.pairs ∈ Part.pairs :: P := List.mem_cons_self
  simp only [Instr.wf, Bool.and_eq_true, decide_eq_true_eq] at hw
  try dsimp only
  repeat' first
    | with_reducible exact same _ | with_reducible assumption | with_reducible refine branch (fun hc => ?_) (fun hc => ?_)
    | with_reducible apply stampCounter

theorem moves_counterReadLatch {z0 : State} {t reader i : Nat} (hp_net : Part.net ∈ P) (hp_out : Part.out ∈ P) : OwnMoves P G z0 (.counterReadLatch
    t reader i) := by
  change ∀ s', Machine.execCounterReadLatch t reader i z0 = .next s' → Own (.pairs :: P) G (z0.arrive (Instr.counterReadLatch t reader i).time) s'
  unfold Machine.execCounterReadLatch
  with_reducible refine own_run (fun hw b => ?_)
  replace hp_net := List.mem_cons_of_mem Part.pairs hp_net
  replace hp_out := List.mem_cons_of_mem Part.pairs hp_out
  have hp_pairs : Part.pairs ∈ Part.pairs :: P := List.mem_cons_self
  simp only [Instr.wf, Bool.and_eq_true, decide_eq_true_eq] at hw
  try dsimp only
  repeat' first
    | with_reducible exact same _ | with_reducible assumption | with_reducible refine branch (fun hc => ?_) (fun hc => ?_)
    | with_reducible apply readCounter | with_reducible apply emit

theorem moves_counterOverflow {z0 : State} {t i amount : Nat} : OwnMoves P G z0 (.counterOverflow t i amount) := by
  change ∀ s', Machine.execCounterOverflow t i amount z0 = .next s' → Own (.pairs :: P) G (z0.arrive (Instr.counterOverflow t i amount).time) s'
  unfold Machine.execCounterOverflow
  with_reducible refine own_run (fun hw b => ?_)
  have hp_pairs : Part.pairs ∈ Part.pairs :: P := List.mem_cons_self
  simp only [Instr.wf, Bool.and_eq_true, decide_eq_true_eq] at hw
  try dsimp only
  repeat' first
    | with_reducible refine ev (ctrBump_same _ (by omega) _) ?_ | with_reducible exact same _
    | with_reducible refine branch (fun hc => ?_) (fun hc => ?_)

theorem moves_tagRecord {z0 : State} {t : Nat} {side : Side} {joist : Nat} {timing : List Nat} (hp_scribe : Part.scribe ∈ P) (hG : Cov G [⟨0x8210, 0x8211, 3,
    3⟩]) : OwnMoves P G z0 (.tagRecord t side joist timing) := by
  change ∀ s', Machine.execTagRecord t side joist timing z0 = .next s' → Own (.pairs :: P) G (z0.arrive (Instr.tagRecord t side joist timing).time) s'
  unfold Machine.execTagRecord
  with_reducible refine own_run (fun hw b => ?_)
  replace hp_scribe := List.mem_cons_of_mem Part.pairs hp_scribe
  have hp_pairs : Part.pairs ∈ Part.pairs :: P := List.mem_cons_self
  simp only [Instr.wf, Bool.and_eq_true, decide_eq_true_eq] at hw
  have := sideIx_lt side
  have := sideIx_lt (otherSide side)
  try dsimp only
  repeat' first
    | (exact hG.sub rfl) | with_reducible exact same _ | with_reducible assumption | with_reducible refine branch (fun hc => ?_) (fun hc => ?_)
    | with_reducible apply appendTag | split | with_reducible refine scribe_set (by assumption) ?_

theorem moves_tagRecordsRead {z0 : State} {t reader : Nat} {side : Side} (hp_net : Part.net ∈ P) (hp_out : Part.out ∈ P) : OwnMoves P G z0
    (.tagRecordsRead t reader side) := by
  change ∀ s', Machine.execTagRecordsRead t reader side z0 = .next s' → Own (.pairs :: P) G (z0.arrive (Instr.tagRecordsRead t reader side).time) s'
  unfold Machine.execTagRecordsRead
  with_reducible refine own_run (fun hw b => ?_)
  replace hp_net := List.mem_cons_of_mem Part.pairs hp_net
  replace hp_out := List.mem_cons_of_mem Part.pairs hp_out
  have hp_pairs : Part.pairs ∈ Part.pairs :: P := List.mem_cons_self
  simp only [Instr.wf, Bool.and_eq_true, decide_eq_true_eq] at hw
  have := sideIx_lt side
  have := sideIx_lt (otherSide side)
  try dsimp only
  repeat' first
    | with_reducible exact same _ | with_reducible assumption | with_reducible refine branch (fun hc => ?_) (fun hc => ?_)
    | with_reducible apply readTags | with_reducible apply emit

end Own
end Sys2Proof
end

