-- ==== Sys2Proof/Laws/MovesShare.lean ====
section
/-!
SUPPORT. What each command moves, one lemma each: sharing.
-/

set_option Elab.async false
set_option maxRecDepth 2000
set_option linter.unusedVariables false
set_option linter.unusedSimpArgs false
namespace Sys2Proof
open Sys2Proof.Machine
variable {P : List Part} {G : List Objs}
namespace Own

theorem moves_arbiterRequest {z0 : State} {t : Nat} {r : Nat} {inst : Nat} {unit : Nat} {num : Nat} {side : Side} {held : Nat} {addr : Nat} {write
    : Bool} (hp_sharing : Part.sharing ∈ P) (hp_out : Part.out ∈ P) (hp_stacks : Part.stacks ∈ P) (hG : Cov G [⟨0x9010, 0x901F, 3, 3⟩, ⟨0xA000,
    0xA000, 1, 1⟩, ⟨0xA000, 0xA000, 2, 2⟩]) : OwnMoves P G z0 (.arbiterRequest t r inst unit num side held addr write) := by
  change ∀ s', Machine.execArbiterRequest t r inst unit num side held addr write z0 = .next s' → Own (.pairs :: P) G (z0.arrive (Instr.arbiterRequest t r inst unit num side held addr write).time) s'
  unfold Machine.execArbiterRequest
  with_reducible refine own_run (fun hw b => ?_)
  replace hp_stacks := List.mem_cons_of_mem Part.pairs hp_stacks
  replace hp_sharing := List.mem_cons_of_mem Part.pairs hp_sharing
  replace hp_out := List.mem_cons_of_mem Part.pairs hp_out
  have hp_pairs : Part.pairs ∈ Part.pairs :: P := List.mem_cons_self
  simp only [Instr.wf, Bool.and_eq_true, decide_eq_true_eq] at hw
  have := sideIx_lt side
  try dsimp only
  repeat' first
    | (exact hG.sub rfl) | (exact hG.item rfl) | with_reducible exact same _ | with_reducible assumption
    | with_reducible refine branch (fun hc => ?_) (fun hc => ?_) | with_reducible apply orderViolation | with_reducible apply present
    | with_reducible apply presentLink | omega | split

theorem moves_semaphoreRequest {z0 : State} {t : Nat} {n : Nat} {cls : Nat} {requester : Nat} {held : Nat} (hp_sharing : Part.sharing ∈ P) (hp_out
    : Part.out ∈ P) (hp_stacks : Part.stacks ∈ P) (hG : Cov G [⟨0x9010, 0x901F, 3, 3⟩, ⟨0xA000, 0xA000, 1, 1⟩, ⟨0xA000, 0xA000, 2, 2⟩]) : OwnMoves
    P G z0 (.semaphoreRequest t n cls requester held) := by
  change ∀ s', Machine.execSemaphoreRequest t n cls requester held z0 = .next s' → Own (.pairs :: P) G (z0.arrive (Instr.semaphoreRequest t n cls requester held).time) s'
  unfold Machine.execSemaphoreRequest
  with_reducible refine own_run (fun hw b => ?_)
  replace hp_stacks := List.mem_cons_of_mem Part.pairs hp_stacks
  replace hp_sharing := List.mem_cons_of_mem Part.pairs hp_sharing
  replace hp_out := List.mem_cons_of_mem Part.pairs hp_out
  have hp_pairs : Part.pairs ∈ Part.pairs :: P := List.mem_cons_self
  simp only [Instr.wf, Bool.and_eq_true, decide_eq_true_eq] at hw
  try dsimp only
  repeat' first
    | (exact hG.sub rfl) | (exact hG.item rfl) | with_reducible exact same _ | with_reducible assumption
    | with_reducible refine branch (fun hc => ?_) (fun hc => ?_) | with_reducible apply orderViolation | with_reducible apply semRequest | omega
    | split

theorem moves_semaphoreRelease {z0 : State} {t : Nat} {n : Nat} {cls : Nat} {requester : Nat} (hp_sharing : Part.sharing ∈ P) (hp_out : Part.out ∈
    P) : OwnMoves P G z0 (.semaphoreRelease t n cls requester) := by
  change ∀ s', Machine.execSemaphoreRelease t n cls requester z0 = .next s' → Own (.pairs :: P) G (z0.arrive (Instr.semaphoreRelease t n cls requester).time) s'
  unfold Machine.execSemaphoreRelease
  with_reducible refine own_run (fun hw b => ?_)
  replace hp_sharing := List.mem_cons_of_mem Part.pairs hp_sharing
  replace hp_out := List.mem_cons_of_mem Part.pairs hp_out
  have hp_pairs : Part.pairs ∈ Part.pairs :: P := List.mem_cons_self
  simp only [Instr.wf, Bool.and_eq_true, decide_eq_true_eq] at hw
  try dsimp only
  repeat' first
    | with_reducible exact same _ | with_reducible assumption | with_reducible refine branch (fun hc => ?_) (fun hc => ?_)
    | with_reducible apply semFree | omega | split

theorem moves_semaphoreLeaseExpired {z0 : State} {t : Nat} {n : Nat} (hp_sharing : Part.sharing ∈ P) (hp_out : Part.out ∈ P) (hG : Cov G [⟨0xA000,
    0xA000, 1, 1⟩, ⟨0xA000, 0xA000, 3, 3⟩]) : OwnMoves P G z0 (.semaphoreLeaseExpired t n) := by
  change ∀ s', Machine.execSemaphoreLeaseExpired t n z0 = .next s' → Own (.pairs :: P) G (z0.arrive (Instr.semaphoreLeaseExpired t n).time) s'
  unfold Machine.execSemaphoreLeaseExpired
  with_reducible refine own_run (fun hw b => ?_)
  replace hp_sharing := List.mem_cons_of_mem Part.pairs hp_sharing
  replace hp_out := List.mem_cons_of_mem Part.pairs hp_out
  have hp_pairs : Part.pairs ∈ Part.pairs :: P := List.mem_cons_self
  simp only [Instr.wf, Bool.and_eq_true, decide_eq_true_eq] at hw
  try dsimp only
  repeat' first
    | (exact hG.sub rfl) | (exact hG.item rfl) | with_reducible exact same _ | with_reducible assumption
    | with_reducible refine branch (fun hc => ?_) (fun hc => ?_) | with_reducible apply incSat | with_reducible apply raise
    | with_reducible apply semFree | with_reducible apply setBitO | omega | split

end Own
end Sys2Proof
end

