-- ==== Sys2Proof/Laws/MovesSides.lean ====
section
/-!
SUPPORT. What each command moves, one lemma each: the sides.
-/

set_option Elab.async false
set_option maxRecDepth 2000
set_option linter.unusedVariables false
set_option linter.unusedSimpArgs false
namespace Sys2Proof
open Sys2Proof.Machine
variable {P : List Part} {G : List Objs}
namespace Own

theorem moves_trussLinkFrame {z0 : State} {t : Nat} {side : Side} {kind : Nat} {data : List Nat} (hp_meas : Part.meas ∈ P) (hp_graphs : Part.graphs
    ∈ P) (hp_gf : Part.gf ∈ P) (hp_plate : Part.plate ∈ P) (hp_stacks : Part.stacks ∈ P) (hp_sides : Part.sides ∈ P) (hp_safety : Part.safety ∈ P)
    (hp_sharing : Part.sharing ∈ P) (hp_clock : Part.clock ∈ P) (hp_capture : Part.capture ∈ P) (hG : Cov G [⟨0x2100, 0x213F, 11, 11⟩, ⟨0x2500,
    0x2503, 6, 6⟩, ⟨0x2500, 0x2503, 8, 8⟩, ⟨0x2500, 0x2503, 9, 9⟩, ⟨0x4001, 0x4001, 3, 3⟩, ⟨0x4001, 0x4001, 4, 4⟩, ⟨0x5200, 0x5247, 8, 8⟩, ⟨0x5300,
    0x5300, 4, 4⟩, ⟨0x5320, 0x5320, 2, 2⟩, ⟨0x6000, 0x6000, 2, 2⟩, ⟨0x6021, 0x6021, 1, 1⟩, ⟨0x6021, 0x6021, 2, 2⟩, ⟨0x6021, 0x6021, 3, 3⟩, ⟨0x6021,
    0x6021, 4, 4⟩, ⟨0x6030, 0x6031, 1, 1⟩, ⟨0x6030, 0x6031, 8, 8⟩, ⟨0x6800, 0x6800, 2, 2⟩, ⟨0x7000, 0x7000, 5, 5⟩, ⟨0x7000, 0x7000, 8, 8⟩, ⟨0x7050,
    0x7050, 1, 1⟩, ⟨0x7100, 0x7104, 3, 3⟩, ⟨0x9010, 0x901F, 3, 3⟩, ⟨0xA000, 0xA000, 1, 1⟩]) : OwnMoves P G z0 (.trussLinkFrame t side kind data) := by
  change ∀ s', Machine.execTrussLinkFrame t side kind data z0 = .next s' → Own (.pairs :: P) G (z0.arrive (Instr.trussLinkFrame t side kind data).time) s'
  unfold Machine.execTrussLinkFrame
  with_reducible refine own_run (fun hw b => ?_)
  replace hp_meas := List.mem_cons_of_mem Part.pairs hp_meas
  replace hp_graphs := List.mem_cons_of_mem Part.pairs hp_graphs
  replace hp_gf := List.mem_cons_of_mem Part.pairs hp_gf
  replace hp_plate := List.mem_cons_of_mem Part.pairs hp_plate
  replace hp_stacks := List.mem_cons_of_mem Part.pairs hp_stacks
  replace hp_sides := List.mem_cons_of_mem Part.pairs hp_sides
  replace hp_safety := List.mem_cons_of_mem Part.pairs hp_safety
  replace hp_sharing := List.mem_cons_of_mem Part.pairs hp_sharing
  replace hp_clock := List.mem_cons_of_mem Part.pairs hp_clock
  replace hp_capture := List.mem_cons_of_mem Part.pairs hp_capture
  have hp_pairs : Part.pairs ∈ Part.pairs :: P := List.mem_cons_self
  simp only [Instr.wf, Bool.and_eq_true, decide_eq_true_eq] at hw
  have := sideIx_lt side
  have := sideIx_lt (otherSide side)
  try dsimp only
  repeat' first
    | (exact hG.sub rfl) | (exact hG.item rfl) | with_reducible exact same _ | with_reducible assumption
    | with_reducible refine branch (fun hc => ?_) (fun hc => ?_) | with_reducible apply linkError | with_reducible apply setSideRt | omega
    | split

theorem judgedBeat {z0 z1 : State} {x : Side} {path : Nat} {n : Nat} (hp_sides : Part.sides ∈ P) (h : Own P G z0 z1) : Own P G z0
    (Machine.judgedBeat x path n z1) := by
  refine h.step ?_
  clear h
  unfold Machine.judgedBeat
  try dsimp only
  repeat' first
    | with_reducible exact same _ | with_reducible assumption | with_reducible apply setBeat

theorem moves_heartbeat {z0 : State} {t : Nat} {side : Side} {path : Nat} {seq : Nat} {crcOk : Bool} (hp_meas : Part.meas ∈ P) (hp_graphs :
    Part.graphs ∈ P) (hp_gf : Part.gf ∈ P) (hp_plate : Part.plate ∈ P) (hp_stacks : Part.stacks ∈ P) (hp_sides : Part.sides ∈ P) (hp_safety :
    Part.safety ∈ P) (hp_sharing : Part.sharing ∈ P) (hp_clock : Part.clock ∈ P) (hp_capture : Part.capture ∈ P) (hG : Cov G [⟨0x2100, 0x213F, 11,
    11⟩, ⟨0x2500, 0x2503, 6, 6⟩, ⟨0x2500, 0x2503, 8, 8⟩, ⟨0x2500, 0x2503, 9, 9⟩, ⟨0x4001, 0x4001, 3, 3⟩, ⟨0x4001, 0x4001, 4, 4⟩, ⟨0x5200, 0x5247,
    8, 8⟩, ⟨0x5300, 0x5300, 4, 4⟩, ⟨0x5320, 0x5320, 2, 2⟩, ⟨0x6000, 0x6000, 2, 2⟩, ⟨0x6021, 0x6021, 1, 1⟩, ⟨0x6021, 0x6021, 2, 2⟩, ⟨0x6021,
    0x6021, 3, 3⟩, ⟨0x6021, 0x6021, 4, 4⟩, ⟨0x6030, 0x6031, 1, 1⟩, ⟨0x6030, 0x6031, 6, 7⟩, ⟨0x6800, 0x6800, 2, 2⟩, ⟨0x7000, 0x7000, 5, 5⟩,
    ⟨0x7000, 0x7000, 8, 8⟩, ⟨0x7050, 0x7050, 1, 1⟩, ⟨0x7100, 0x7104, 3, 3⟩, ⟨0x9010, 0x901F, 3, 3⟩, ⟨0xA000, 0xA000, 1, 1⟩]) : OwnMoves P G z0
    (.heartbeat t side path seq crcOk) := by
  change ∀ s', Machine.execHeartbeat t side path seq crcOk z0 = .next s' → Own (.pairs :: P) G (z0.arrive (Instr.heartbeat t side path seq crcOk).time) s'
  unfold Machine.execHeartbeat
  with_reducible refine own_run (fun hw b => ?_)
  replace hp_meas := List.mem_cons_of_mem Part.pairs hp_meas
  replace hp_graphs := List.mem_cons_of_mem Part.pairs hp_graphs
  replace hp_gf := List.mem_cons_of_mem Part.pairs hp_gf
  replace hp_plate := List.mem_cons_of_mem Part.pairs hp_plate
  replace hp_stacks := List.mem_cons_of_mem Part.pairs hp_stacks
  replace hp_sides := List.mem_cons_of_mem Part.pairs hp_sides
  replace hp_safety := List.mem_cons_of_mem Part.pairs hp_safety
  replace hp_sharing := List.mem_cons_of_mem Part.pairs hp_sharing
  replace hp_clock := List.mem_cons_of_mem Part.pairs hp_clock
  replace hp_capture := List.mem_cons_of_mem Part.pairs hp_capture
  have hp_pairs : Part.pairs ∈ Part.pairs :: P := List.mem_cons_self
  simp only [Instr.wf, Bool.and_eq_true, decide_eq_true_eq] at hw
  have := sideIx_lt side
  try dsimp only
  repeat' first
    | (exact hG.sub rfl) | (exact hG.item rfl) | with_reducible exact same _ | with_reducible assumption
    | with_reducible refine branch (fun hc => ?_) (fun hc => ?_) | with_reducible apply judgedBeat | with_reducible apply missBeat
    | with_reducible apply noteBeat | with_reducible apply takeBeat | omega | split

theorem moves_heartbeatMissing {z0 : State} {t : Nat} {side : Side} {path : Nat} (hp_meas : Part.meas ∈ P) (hp_graphs : Part.graphs ∈ P) (hp_gf :
    Part.gf ∈ P) (hp_plate : Part.plate ∈ P) (hp_stacks : Part.stacks ∈ P) (hp_sides : Part.sides ∈ P) (hp_safety : Part.safety ∈ P) (hp_sharing :
    Part.sharing ∈ P) (hp_clock : Part.clock ∈ P) (hp_capture : Part.capture ∈ P) (hG : Cov G [⟨0x2100, 0x213F, 11, 11⟩, ⟨0x2500, 0x2503, 6, 6⟩,
    ⟨0x2500, 0x2503, 8, 8⟩, ⟨0x2500, 0x2503, 9, 9⟩, ⟨0x4001, 0x4001, 3, 3⟩, ⟨0x4001, 0x4001, 4, 4⟩, ⟨0x5200, 0x5247, 8, 8⟩, ⟨0x5300, 0x5300, 4,
    4⟩, ⟨0x5320, 0x5320, 2, 2⟩, ⟨0x6000, 0x6000, 2, 2⟩, ⟨0x6021, 0x6021, 1, 1⟩, ⟨0x6021, 0x6021, 2, 2⟩, ⟨0x6021, 0x6021, 3, 3⟩, ⟨0x6021, 0x6021,
    4, 4⟩, ⟨0x6030, 0x6031, 1, 1⟩, ⟨0x6030, 0x6031, 6, 7⟩, ⟨0x6800, 0x6800, 2, 2⟩, ⟨0x7000, 0x7000, 5, 5⟩, ⟨0x7000, 0x7000, 8, 8⟩, ⟨0x7050,
    0x7050, 1, 1⟩, ⟨0x7100, 0x7104, 3, 3⟩, ⟨0x9010, 0x901F, 3, 3⟩, ⟨0xA000, 0xA000, 1, 1⟩]) : OwnMoves P G z0 (.heartbeatMissing t side path) := by
  change ∀ s', Machine.execHeartbeatMissing t side path z0 = .next s' → Own (.pairs :: P) G (z0.arrive (Instr.heartbeatMissing t side path).time) s'
  unfold Machine.execHeartbeatMissing
  with_reducible refine own_run (fun hw b => ?_)
  replace hp_meas := List.mem_cons_of_mem Part.pairs hp_meas
  replace hp_graphs := List.mem_cons_of_mem Part.pairs hp_graphs
  replace hp_gf := List.mem_cons_of_mem Part.pairs hp_gf
  replace hp_plate := List.mem_cons_of_mem Part.pairs hp_plate
  replace hp_stacks := List.mem_cons_of_mem Part.pairs hp_stacks
  replace hp_sides := List.mem_cons_of_mem Part.pairs hp_sides
  replace hp_safety := List.mem_cons_of_mem Part.pairs hp_safety
  replace hp_sharing := List.mem_cons_of_mem Part.pairs hp_sharing
  replace hp_clock := List.mem_cons_of_mem Part.pairs hp_clock
  replace hp_capture := List.mem_cons_of_mem Part.pairs hp_capture
  have hp_pairs : Part.pairs ∈ Part.pairs :: P := List.mem_cons_self
  simp only [Instr.wf, Bool.and_eq_true, decide_eq_true_eq] at hw
  have := sideIx_lt side
  have := sideIx_lt (otherSide side)
  try dsimp only
  repeat' first
    | (exact hG.sub rfl) | with_reducible exact same _ | with_reducible assumption | with_reducible refine branch (fun hc => ?_) (fun hc => ?_)
    | with_reducible apply judgedBeat | with_reducible apply missBeat

theorem moves_signatureCompare {z0 : State} {t : Nat} {state : Bool} {received : Bool} (hp_sides : Part.sides ∈ P) : OwnMoves P G z0
    (.signatureCompare t state received) := by
  change ∀ s', Machine.execSignatureCompare t state received z0 = .next s' → Own (.pairs :: P) G (z0.arrive (Instr.signatureCompare t state received).time) s'
  unfold Machine.execSignatureCompare
  with_reducible refine own_run (fun hw b => ?_)
  replace hp_sides := List.mem_cons_of_mem Part.pairs hp_sides
  have hp_pairs : Part.pairs ∈ Part.pairs :: P := List.mem_cons_self
  simp only [Instr.wf, Bool.and_eq_true, decide_eq_true_eq] at hw
  try dsimp only
  repeat' first
    | with_reducible exact same _ | with_reducible refine branch (fun hc => ?_) (fun hc => ?_) | with_reducible apply raise
    | with_reducible refine sides_set (by assumption) ?_

theorem moves_mismatchResolution {z0 : State} {t : Nat} {failsA : List Nat} {failsB : List Nat} (hp_meas : Part.meas ∈ P) (hp_graphs : Part.graphs ∈
    P) (hp_gf : Part.gf ∈ P) (hp_plate : Part.plate ∈ P) (hp_stacks : Part.stacks ∈ P) (hp_sides : Part.sides ∈ P) (hp_safety : Part.safety ∈ P)
    (hp_sharing : Part.sharing ∈ P) (hp_clock : Part.clock ∈ P) (hp_capture : Part.capture ∈ P) (hG : Cov G [⟨0x2100, 0x213F, 11, 11⟩, ⟨0x2500,
    0x2503, 6, 6⟩, ⟨0x2500, 0x2503, 8, 8⟩, ⟨0x2500, 0x2503, 9, 9⟩, ⟨0x4001, 0x4001, 3, 3⟩, ⟨0x4001, 0x4001, 4, 4⟩, ⟨0x5200, 0x5247, 8, 8⟩, ⟨0x5300,
    0x5300, 4, 4⟩, ⟨0x5320, 0x5320, 2, 2⟩, ⟨0x6000, 0x6000, 2, 2⟩, ⟨0x6021, 0x6021, 1, 1⟩, ⟨0x6021, 0x6021, 2, 2⟩, ⟨0x6021, 0x6021, 3, 3⟩, ⟨0x6021,
    0x6021, 4, 4⟩, ⟨0x6021, 0x6021, 5, 5⟩, ⟨0x6030, 0x6031, 1, 1⟩, ⟨0x6800, 0x6800, 2, 2⟩, ⟨0x7000, 0x7000, 5, 5⟩, ⟨0x7000, 0x7000, 8, 8⟩, ⟨0x7050,
    0x7050, 1, 1⟩, ⟨0x7100, 0x7104, 3, 3⟩, ⟨0x9010, 0x901F, 3, 3⟩, ⟨0xA000, 0xA000, 1, 1⟩, ⟨0xB100, 0xB100, 2, 2⟩]) : OwnMoves P G z0
    (.mismatchResolution t failsA failsB) := by
  change ∀ s', Machine.execMismatchResolution t failsA failsB z0 = .next s' → Own (.pairs :: P) G (z0.arrive (Instr.mismatchResolution t failsA failsB).time) s'
  unfold Machine.execMismatchResolution
  with_reducible refine own_run (fun hw b => ?_)
  replace hp_meas := List.mem_cons_of_mem Part.pairs hp_meas
  replace hp_graphs := List.mem_cons_of_mem Part.pairs hp_graphs
  replace hp_gf := List.mem_cons_of_mem Part.pairs hp_gf
  replace hp_plate := List.mem_cons_of_mem Part.pairs hp_plate
  replace hp_stacks := List.mem_cons_of_mem Part.pairs hp_stacks
  replace hp_sides := List.mem_cons_of_mem Part.pairs hp_sides
  replace hp_safety := List.mem_cons_of_mem Part.pairs hp_safety
  replace hp_sharing := List.mem_cons_of_mem Part.pairs hp_sharing
  replace hp_clock := List.mem_cons_of_mem Part.pairs hp_clock
  replace hp_capture := List.mem_cons_of_mem Part.pairs hp_capture
  have hp_pairs : Part.pairs ∈ Part.pairs :: P := List.mem_cons_self
  simp only [Instr.wf, Bool.and_eq_true, decide_eq_true_eq] at hw
  try dsimp only
  repeat' first
    | (exact hG.sub rfl) | (exact hG.item rfl) | with_reducible exact same _ | with_reducible assumption
    | with_reducible refine branch (fun hc => ?_) (fun hc => ?_) | with_reducible apply laneFails | with_reducible apply noSideLeft
    | with_reducible apply raise | with_reducible apply sideFault | with_reducible apply unresolved
    | with_reducible refine foldl ?_ (fun v a ha => ?_) | omega | split | with_reducible refine sides_set (by assumption) ?_

theorem moves_mirrorFrame {z0 : State} {t : Nat} {crcOk : Bool} (hp_meas : Part.meas ∈ P) (hp_graphs : Part.graphs ∈ P) (hp_gf : Part.gf ∈ P)
    (hp_plate : Part.plate ∈ P) (hp_stacks : Part.stacks ∈ P) (hp_sides : Part.sides ∈ P) (hp_safety : Part.safety ∈ P) (hp_sharing : Part.sharing ∈
    P) (hp_clock : Part.clock ∈ P) (hp_capture : Part.capture ∈ P) (hG : Cov G [⟨0x2100, 0x213F, 11, 11⟩, ⟨0x2500, 0x2503, 6, 6⟩, ⟨0x2500, 0x2503,
    8, 8⟩, ⟨0x2500, 0x2503, 9, 9⟩, ⟨0x4001, 0x4001, 3, 3⟩, ⟨0x4001, 0x4001, 4, 4⟩, ⟨0x5200, 0x5247, 8, 8⟩, ⟨0x5300, 0x5300, 4, 4⟩, ⟨0x5320, 0x5320,
    2, 2⟩, ⟨0x6000, 0x6000, 2, 2⟩, ⟨0x6021, 0x6021, 1, 1⟩, ⟨0x6021, 0x6021, 2, 2⟩, ⟨0x6021, 0x6021, 3, 3⟩, ⟨0x6021, 0x6021, 4, 4⟩, ⟨0x6030, 0x6031,
    1, 1⟩, ⟨0x6030, 0x6031, 8, 8⟩, ⟨0x6800, 0x6800, 2, 2⟩, ⟨0x7000, 0x7000, 5, 5⟩, ⟨0x7000, 0x7000, 8, 8⟩, ⟨0x7050, 0x7050, 1, 1⟩, ⟨0x7100, 0x7104,
    3, 3⟩, ⟨0x9010, 0x901F, 3, 3⟩, ⟨0xA000, 0xA000, 1, 1⟩]) : OwnMoves P G z0 (.mirrorFrame t crcOk) := by
  change ∀ s', Machine.execMirrorFrame t crcOk z0 = .next s' → Own (.pairs :: P) G (z0.arrive (Instr.mirrorFrame t crcOk).time) s'
  unfold Machine.execMirrorFrame
  with_reducible refine own_run (fun hw b => ?_)
  replace hp_meas := List.mem_cons_of_mem Part.pairs hp_meas
  replace hp_graphs := List.mem_cons_of_mem Part.pairs hp_graphs
  replace hp_gf := List.mem_cons_of_mem Part.pairs hp_gf
  replace hp_plate := List.mem_cons_of_mem Part.pairs hp_plate
  replace hp_stacks := List.mem_cons_of_mem Part.pairs hp_stacks
  replace hp_sides := List.mem_cons_of_mem Part.pairs hp_sides
  replace hp_safety := List.mem_cons_of_mem Part.pairs hp_safety
  replace hp_sharing := List.mem_cons_of_mem Part.pairs hp_sharing
  replace hp_clock := List.mem_cons_of_mem Part.pairs hp_clock
  replace hp_capture := List.mem_cons_of_mem Part.pairs hp_capture
  have hp_pairs : Part.pairs ∈ Part.pairs :: P := List.mem_cons_self
  simp only [Instr.wf, Bool.and_eq_true, decide_eq_true_eq] at hw
  try dsimp only
  repeat' first
    | (exact hG.sub rfl) | (exact hG.item rfl) | with_reducible exact same _ | with_reducible assumption
    | with_reducible refine branch (fun hc => ?_) (fun hc => ?_) | with_reducible apply linkError | with_reducible apply setSill | omega | split
    | with_reducible refine graphs_set (by assumption) ?_

theorem moves_sideJoined {z0 : State} {t : Nat} {side : Side} (hp_meas : Part.meas ∈ P) (hp_graphs : Part.graphs ∈ P) (hp_plate : Part.plate ∈ P)
    (hp_sides : Part.sides ∈ P) (hp_capture : Part.capture ∈ P) (hp_scribe : Part.scribe ∈ P) (hG : Cov G [⟨0x2500, 0x2503, 6, 6⟩, ⟨0x2500,
    0x2503, 8, 8⟩, ⟨0x2500, 0x2503, 9, 9⟩, ⟨0x6000, 0x6000, 2, 2⟩, ⟨0x6021, 0x6021, 1, 1⟩, ⟨0x7050, 0x7050, 1, 1⟩, ⟨0x7100, 0x7104, 3, 3⟩,
    ⟨0x8300, 0x836F, 5, 5⟩, ⟨0x8300, 0x836F, 8, 8⟩, ⟨0xB100, 0xB100, 3, 3⟩]) : OwnMoves P G z0 (.sideJoined t side) := by
  change ∀ s', Machine.execSideJoined t side z0 = .next s' → Own (.pairs :: P) G (z0.arrive (Instr.sideJoined t side).time) s'
  unfold Machine.execSideJoined
  with_reducible refine own_run (fun hw b => ?_)
  replace hp_scribe := List.mem_cons_of_mem Part.pairs hp_scribe
  replace hp_meas := List.mem_cons_of_mem Part.pairs hp_meas
  replace hp_graphs := List.mem_cons_of_mem Part.pairs hp_graphs
  replace hp_plate := List.mem_cons_of_mem Part.pairs hp_plate
  replace hp_sides := List.mem_cons_of_mem Part.pairs hp_sides
  replace hp_capture := List.mem_cons_of_mem Part.pairs hp_capture
  have hp_pairs : Part.pairs ∈ Part.pairs :: P := List.mem_cons_self
  simp only [Instr.wf, Bool.and_eq_true, decide_eq_true_eq] at hw
  have := sideIx_lt side
  try dsimp only
  repeat' first
    | (exact hG.sub rfl) | (exact hG.item rfl) | with_reducible exact same _ | with_reducible assumption
    | with_reducible refine branch (fun hc => ?_) (fun hc => ?_) | with_reducible apply attemptEnds | with_reducible apply joinSide | omega
    | split

theorem moves_reinitAttemptFailed {z0 : State} {t : Nat} {side : Side} (hp_sides : Part.sides ∈ P) (hG : Cov G [⟨0x6021, 0x6021, 1, 1⟩]) : OwnMoves
    P G z0 (.reinitAttemptFailed t side) := by
  change ∀ s', Machine.execReinitAttemptFailed t side z0 = .next s' → Own (.pairs :: P) G (z0.arrive (Instr.reinitAttemptFailed t side).time) s'
  unfold Machine.execReinitAttemptFailed
  with_reducible refine own_run (fun hw b => ?_)
  replace hp_sides := List.mem_cons_of_mem Part.pairs hp_sides
  have hp_pairs : Part.pairs ∈ Part.pairs :: P := List.mem_cons_self
  simp only [Instr.wf, Bool.and_eq_true, decide_eq_true_eq] at hw
  have := sideIx_lt side
  try dsimp only
  repeat' first
    | (exact hG.sub rfl) | (exact hG.item rfl) | with_reducible exact same _ | with_reducible assumption
    | with_reducible refine branch (fun hc => ?_) (fun hc => ?_) | with_reducible apply attemptEnds | omega | split

theorem moves_reinitRetry {z0 : State} {t : Nat} {side : Side} (hp_meas : Part.meas ∈ P) (hp_graphs : Part.graphs ∈ P) (hp_plate : Part.plate ∈ P)
    (hp_sides : Part.sides ∈ P) (hp_capture : Part.capture ∈ P) (hG : Cov G [⟨0x6021, 0x6021, 1, 1⟩, ⟨0x7050, 0x7050, 1, 1⟩, ⟨0x7100, 0x7104, 3,
    3⟩]) : OwnMoves P G z0 (.reinitRetry t side) := by
  change ∀ s', Machine.execReinitRetry t side z0 = .next s' → Own (.pairs :: P) G (z0.arrive (Instr.reinitRetry t side).time) s'
  unfold Machine.execReinitRetry
  with_reducible refine own_run (fun hw b => ?_)
  replace hp_meas := List.mem_cons_of_mem Part.pairs hp_meas
  replace hp_graphs := List.mem_cons_of_mem Part.pairs hp_graphs
  replace hp_plate := List.mem_cons_of_mem Part.pairs hp_plate
  replace hp_sides := List.mem_cons_of_mem Part.pairs hp_sides
  replace hp_capture := List.mem_cons_of_mem Part.pairs hp_capture
  have hp_pairs : Part.pairs ∈ Part.pairs :: P := List.mem_cons_self
  simp only [Instr.wf, Bool.and_eq_true, decide_eq_true_eq] at hw
  have := sideIx_lt side
  have := sideIx_lt (otherSide side)
  try dsimp only
  repeat' first
    | (exact hG.sub rfl) | with_reducible exact same _ | with_reducible assumption | with_reducible refine branch (fun hc => ?_) (fun hc => ?_)
    | with_reducible apply startReinit | split

theorem moves_handover {z0 : State} {t : Nat} (hp_meas : Part.meas ∈ P) (hp_graphs : Part.graphs ∈ P) (hp_gf : Part.gf ∈ P) (hp_plate : Part.plate ∈
    P) (hp_sides : Part.sides ∈ P) (hp_clock : Part.clock ∈ P) (hp_capture : Part.capture ∈ P) (hG : Cov G [⟨0x2100, 0x213F, 11, 11⟩, ⟨0x6000,
    0x6000, 2, 2⟩, ⟨0x6020, 0x6020, 2, 2⟩, ⟨0x6021, 0x6021, 1, 1⟩, ⟨0x7000, 0x7000, 5, 5⟩, ⟨0x7000, 0x7000, 8, 8⟩, ⟨0x7050, 0x7050, 1, 1⟩, ⟨0x7100,
    0x7104, 3, 3⟩]) : OwnMoves P G z0 (.handover t) := by
  change ∀ s', Machine.execHandover t z0 = .next s' → Own (.pairs :: P) G (z0.arrive (Instr.handover t).time) s'
  unfold Machine.execHandover
  with_reducible refine own_run (fun hw b => ?_)
  replace hp_meas := List.mem_cons_of_mem Part.pairs hp_meas
  replace hp_graphs := List.mem_cons_of_mem Part.pairs hp_graphs
  replace hp_gf := List.mem_cons_of_mem Part.pairs hp_gf
  replace hp_plate := List.mem_cons_of_mem Part.pairs hp_plate
  replace hp_sides := List.mem_cons_of_mem Part.pairs hp_sides
  replace hp_clock := List.mem_cons_of_mem Part.pairs hp_clock
  replace hp_capture := List.mem_cons_of_mem Part.pairs hp_capture
  have hp_pairs : Part.pairs ∈ Part.pairs :: P := List.mem_cons_self
  simp only [Instr.wf, Bool.and_eq_true, decide_eq_true_eq] at hw
  try dsimp only
  repeat' first
    | (exact hG.sub rfl) | with_reducible exact same _ | with_reducible assumption | with_reducible refine branch (fun hc => ?_) (fun hc => ?_)
    | with_reducible apply sideCommand

theorem moves_handoverExecute {z0 : State} {t : Nat} (hp_meas : Part.meas ∈ P) (hp_graphs : Part.graphs ∈ P) (hp_gf : Part.gf ∈ P) (hp_plate :
    Part.plate ∈ P) (hp_sides : Part.sides ∈ P) (hp_clock : Part.clock ∈ P) (hp_capture : Part.capture ∈ P) (hG : Cov G [⟨0x2100, 0x213F, 11, 11⟩,
    ⟨0x5200, 0x5247, 8, 8⟩, ⟨0x6000, 0x6000, 2, 2⟩, ⟨0x6021, 0x6021, 1, 1⟩, ⟨0x6021, 0x6021, 2, 2⟩, ⟨0x6021, 0x6021, 3, 3⟩, ⟨0x6021, 0x6021, 4, 4⟩,
    ⟨0x7000, 0x7000, 5, 5⟩, ⟨0x7000, 0x7000, 8, 8⟩, ⟨0x7050, 0x7050, 1, 1⟩, ⟨0x7100, 0x7104, 3, 3⟩]) : OwnMoves P G z0 (.handoverExecute t) := by
  change ∀ s', Machine.execHandoverExecute t z0 = .next s' → Own (.pairs :: P) G (z0.arrive (Instr.handoverExecute t).time) s'
  unfold Machine.execHandoverExecute
  with_reducible refine own_run (fun hw b => ?_)
  replace hp_meas := List.mem_cons_of_mem Part.pairs hp_meas
  replace hp_graphs := List.mem_cons_of_mem Part.pairs hp_graphs
  replace hp_gf := List.mem_cons_of_mem Part.pairs hp_gf
  replace hp_plate := List.mem_cons_of_mem Part.pairs hp_plate
  replace hp_sides := List.mem_cons_of_mem Part.pairs hp_sides
  replace hp_clock := List.mem_cons_of_mem Part.pairs hp_clock
  replace hp_capture := List.mem_cons_of_mem Part.pairs hp_capture
  have hp_pairs : Part.pairs ∈ Part.pairs :: P := List.mem_cons_self
  simp only [Instr.wf, Bool.and_eq_true, decide_eq_true_eq] at hw
  try dsimp only
  repeat' first
    | (exact hG.sub rfl) | (exact hG.item rfl) | with_reducible exact same _ | with_reducible assumption
    | with_reducible refine branch (fun hc => ?_) (fun hc => ?_) | with_reducible apply moveControl | omega | split
    | with_reducible refine sides_set (by assumption) ?_

theorem moves_restore {z0 : State} {t : Nat} {side : Side} (hp_meas : Part.meas ∈ P) (hp_graphs : Part.graphs ∈ P) (hp_gf : Part.gf ∈ P) (hp_plate :
    Part.plate ∈ P) (hp_sides : Part.sides ∈ P) (hp_clock : Part.clock ∈ P) (hp_capture : Part.capture ∈ P) (hG : Cov G [⟨0x2100, 0x213F, 11, 11⟩,
    ⟨0x6000, 0x6000, 2, 2⟩, ⟨0x6020, 0x6020, 2, 2⟩, ⟨0x6021, 0x6021, 1, 1⟩, ⟨0x7000, 0x7000, 5, 5⟩, ⟨0x7000, 0x7000, 8, 8⟩, ⟨0x7050, 0x7050, 1, 1⟩,
    ⟨0x7100, 0x7104, 3, 3⟩]) : OwnMoves P G z0 (.restore t side) := by
  change ∀ s', Machine.execRestore t side z0 = .next s' → Own (.pairs :: P) G (z0.arrive (Instr.restore t side).time) s'
  unfold Machine.execRestore
  with_reducible refine own_run (fun hw b => ?_)
  replace hp_meas := List.mem_cons_of_mem Part.pairs hp_meas
  replace hp_graphs := List.mem_cons_of_mem Part.pairs hp_graphs
  replace hp_gf := List.mem_cons_of_mem Part.pairs hp_gf
  replace hp_plate := List.mem_cons_of_mem Part.pairs hp_plate
  replace hp_sides := List.mem_cons_of_mem Part.pairs hp_sides
  replace hp_clock := List.mem_cons_of_mem Part.pairs hp_clock
  replace hp_capture := List.mem_cons_of_mem Part.pairs hp_capture
  have hp_pairs : Part.pairs ∈ Part.pairs :: P := List.mem_cons_self
  simp only [Instr.wf, Bool.and_eq_true, decide_eq_true_eq] at hw
  have := sideIx_lt side
  have := sideIx_lt (otherSide side)
  try dsimp only
  repeat' first
    | (exact hG.sub rfl) | with_reducible exact same _ | with_reducible assumption | with_reducible refine branch (fun hc => ?_) (fun hc => ?_)
    | with_reducible apply sideCommand

theorem moves_powerDown {z0 : State} {t : Nat} {side : Side} (hp_meas : Part.meas ∈ P) (hp_graphs : Part.graphs ∈ P) (hp_gf : Part.gf ∈ P) (hp_plate
    : Part.plate ∈ P) (hp_sides : Part.sides ∈ P) (hp_clock : Part.clock ∈ P) (hp_capture : Part.capture ∈ P) (hG : Cov G [⟨0x2100, 0x213F, 11, 11⟩,
    ⟨0x6000, 0x6000, 2, 2⟩, ⟨0x6020, 0x6020, 2, 2⟩, ⟨0x6021, 0x6021, 1, 1⟩, ⟨0x7000, 0x7000, 5, 5⟩, ⟨0x7000, 0x7000, 8, 8⟩, ⟨0x7050, 0x7050, 1, 1⟩,
    ⟨0x7100, 0x7104, 3, 3⟩]) : OwnMoves P G z0 (.powerDown t side) := by
  change ∀ s', Machine.execPowerDown t side z0 = .next s' → Own (.pairs :: P) G (z0.arrive (Instr.powerDown t side).time) s'
  unfold Machine.execPowerDown
  with_reducible refine own_run (fun hw b => ?_)
  replace hp_meas := List.mem_cons_of_mem Part.pairs hp_meas
  replace hp_graphs := List.mem_cons_of_mem Part.pairs hp_graphs
  replace hp_gf := List.mem_cons_of_mem Part.pairs hp_gf
  replace hp_plate := List.mem_cons_of_mem Part.pairs hp_plate
  replace hp_sides := List.mem_cons_of_mem Part.pairs hp_sides
  replace hp_clock := List.mem_cons_of_mem Part.pairs hp_clock
  replace hp_capture := List.mem_cons_of_mem Part.pairs hp_capture
  have hp_pairs : Part.pairs ∈ Part.pairs :: P := List.mem_cons_self
  simp only [Instr.wf, Bool.and_eq_true, decide_eq_true_eq] at hw
  have := sideIx_lt side
  have := sideIx_lt (otherSide side)
  try dsimp only
  repeat' first
    | (exact hG.sub rfl) | with_reducible exact same _ | with_reducible assumption | with_reducible refine branch (fun hc => ?_) (fun hc => ?_)
    | with_reducible apply sideCommand

theorem moves_powerUp {z0 : State} {t : Nat} {side : Side} (hp_meas : Part.meas ∈ P) (hp_graphs : Part.graphs ∈ P) (hp_gf : Part.gf ∈ P) (hp_plate :
    Part.plate ∈ P) (hp_sides : Part.sides ∈ P) (hp_clock : Part.clock ∈ P) (hp_capture : Part.capture ∈ P) (hG : Cov G [⟨0x2100, 0x213F, 11, 11⟩,
    ⟨0x6000, 0x6000, 2, 2⟩, ⟨0x6020, 0x6020, 2, 2⟩, ⟨0x6021, 0x6021, 1, 1⟩, ⟨0x7000, 0x7000, 5, 5⟩, ⟨0x7000, 0x7000, 8, 8⟩, ⟨0x7050, 0x7050, 1, 1⟩,
    ⟨0x7100, 0x7104, 3, 3⟩]) : OwnMoves P G z0 (.powerUp t side) := by
  change ∀ s', Machine.execPowerUp t side z0 = .next s' → Own (.pairs :: P) G (z0.arrive (Instr.powerUp t side).time) s'
  unfold Machine.execPowerUp
  with_reducible refine own_run (fun hw b => ?_)
  replace hp_meas := List.mem_cons_of_mem Part.pairs hp_meas
  replace hp_graphs := List.mem_cons_of_mem Part.pairs hp_graphs
  replace hp_gf := List.mem_cons_of_mem Part.pairs hp_gf
  replace hp_plate := List.mem_cons_of_mem Part.pairs hp_plate
  replace hp_sides := List.mem_cons_of_mem Part.pairs hp_sides
  replace hp_clock := List.mem_cons_of_mem Part.pairs hp_clock
  replace hp_capture := List.mem_cons_of_mem Part.pairs hp_capture
  have hp_pairs : Part.pairs ∈ Part.pairs :: P := List.mem_cons_self
  simp only [Instr.wf, Bool.and_eq_true, decide_eq_true_eq] at hw
  have := sideIx_lt side
  have := sideIx_lt (otherSide side)
  try dsimp only
  repeat' first
    | (exact hG.sub rfl) | with_reducible exact same _ | with_reducible assumption | with_reducible refine branch (fun hc => ?_) (fun hc => ?_)
    | with_reducible apply sideCommand

theorem moves_doutRequest {z0 : State} {t : Nat} {side : Side} (hp_sides : Part.sides ∈ P) : OwnMoves P G z0 (.doutRequest t side) := by
  change ∀ s', Machine.execDoutRequest t side z0 = .next s' → Own (.pairs :: P) G (z0.arrive (Instr.doutRequest t side).time) s'
  unfold Machine.execDoutRequest
  with_reducible refine own_run (fun hw b => ?_)
  replace hp_sides := List.mem_cons_of_mem Part.pairs hp_sides
  have hp_pairs : Part.pairs ∈ Part.pairs :: P := List.mem_cons_self
  simp only [Instr.wf, Bool.and_eq_true, decide_eq_true_eq] at hw
  have := sideIx_lt side
  have := sideIx_lt (otherSide side)
  try dsimp only
  repeat' first
    | with_reducible exact same _ | with_reducible assumption | with_reducible refine branch (fun hc => ?_) (fun hc => ?_)
    | with_reducible apply setSideRt | split | with_reducible refine sides_set (by assumption) ?_

theorem moves_kerfWindowClose {z0 : State} {t : Nat} (hp_sides : Part.sides ∈ P) : OwnMoves P G z0 (.kerfWindowClose t) := by
  change ∀ s', Machine.execKerfWindowClose t z0 = .next s' → Own (.pairs :: P) G (z0.arrive (Instr.kerfWindowClose t).time) s'
  unfold Machine.execKerfWindowClose
  with_reducible refine own_run (fun hw b => ?_)
  replace hp_sides := List.mem_cons_of_mem Part.pairs hp_sides
  have hp_pairs : Part.pairs ∈ Part.pairs :: P := List.mem_cons_self
  simp only [Instr.wf, Bool.and_eq_true, decide_eq_true_eq] at hw
  try dsimp only
  repeat' first
    | with_reducible exact same _ | with_reducible refine branch (fun hc => ?_) (fun hc => ?_) | split
    | with_reducible refine sides_set (by assumption) ?_

theorem moves_laneTest {z0 : State} {t : Nat} {side : Side} {joist lane : Nat} {pass : Bool} (hp_meas : Part.meas ∈ P) (hp_graphs : Part.graphs ∈ P)
    (hp_gf : Part.gf ∈ P) (hp_plate : Part.plate ∈ P) (hp_stacks : Part.stacks ∈ P) (hp_sides : Part.sides ∈ P) (hp_safety : Part.safety ∈ P)
    (hp_sharing : Part.sharing ∈ P) (hp_clock : Part.clock ∈ P) (hp_capture : Part.capture ∈ P) (hG : Cov G [⟨0x2100, 0x213F, 11, 11⟩, ⟨0x2500,
    0x2503, 6, 6⟩, ⟨0x2500, 0x2503, 8, 8⟩, ⟨0x2500, 0x2503, 9, 9⟩, ⟨0x4001, 0x4001, 3, 3⟩, ⟨0x4001, 0x4001, 4, 4⟩, ⟨0x5200, 0x5247, 8, 8⟩, ⟨0x5300,
    0x5300, 4, 4⟩, ⟨0x5320, 0x5320, 2, 2⟩, ⟨0x6000, 0x6000, 2, 2⟩, ⟨0x6021, 0x6021, 1, 1⟩, ⟨0x6021, 0x6021, 2, 2⟩, ⟨0x6021, 0x6021, 3, 3⟩, ⟨0x6021,
    0x6021, 4, 4⟩, ⟨0x6030, 0x6031, 1, 1⟩, ⟨0x6030, 0x6031, 2, 2⟩, ⟨0x6800, 0x6800, 2, 2⟩, ⟨0x7000, 0x7000, 5, 5⟩, ⟨0x7000, 0x7000, 8, 8⟩, ⟨0x7050,
    0x7050, 1, 1⟩, ⟨0x7100, 0x7104, 3, 3⟩, ⟨0x9010, 0x901F, 3, 3⟩, ⟨0xA000, 0xA000, 1, 1⟩, ⟨0xB100, 0xB100, 2, 2⟩]) : OwnMoves P G z0 (.laneTest t
    side joist lane pass) := by
  change ∀ s', Machine.execLaneTest t side joist lane pass z0 = .next s' → Own (.pairs :: P) G (z0.arrive (Instr.laneTest t side joist lane pass).time) s'
  unfold Machine.execLaneTest
  with_reducible refine own_run (fun hw b => ?_)
  replace hp_meas := List.mem_cons_of_mem Part.pairs hp_meas
  replace hp_graphs := List.mem_cons_of_mem Part.pairs hp_graphs
  replace hp_gf := List.mem_cons_of_mem Part.pairs hp_gf
  replace hp_plate := List.mem_cons_of_mem Part.pairs hp_plate
  replace hp_stacks := List.mem_cons_of_mem Part.pairs hp_stacks
  replace hp_sides := List.mem_cons_of_mem Part.pairs hp_sides
  replace hp_safety := List.mem_cons_of_mem Part.pairs hp_safety
  replace hp_sharing := List.mem_cons_of_mem Part.pairs hp_sharing
  replace hp_clock := List.mem_cons_of_mem Part.pairs hp_clock
  replace hp_capture := List.mem_cons_of_mem Part.pairs hp_capture
  have hp_pairs : Part.pairs ∈ Part.pairs :: P := List.mem_cons_self
  simp only [Instr.wf, Bool.and_eq_true, decide_eq_true_eq] at hw
  have := sideIx_lt side
  have := sideIx_lt (otherSide side)
  try dsimp only
  repeat' first
    | (exact hG.sub rfl) | with_reducible exact same _ | with_reducible assumption | with_reducible apply laneTested

theorem moves_eccError {z0 : State} {t : Nat} {side : Side} {loft : Bool} {uncorrectable : Bool} {addr : Nat} (hp_meas : Part.meas ∈ P) (hp_graphs
    : Part.graphs ∈ P) (hp_gf : Part.gf ∈ P) (hp_plate : Part.plate ∈ P) (hp_stacks : Part.stacks ∈ P) (hp_sides : Part.sides ∈ P) (hp_safety :
    Part.safety ∈ P) (hp_sharing : Part.sharing ∈ P) (hp_clock : Part.clock ∈ P) (hp_capture : Part.capture ∈ P) (hp_boot : Part.boot ∈ P) (hG :
    Cov G [⟨0x2100, 0x213F, 11, 11⟩, ⟨0x2500, 0x2503, 6, 6⟩, ⟨0x2500, 0x2503, 8, 8⟩, ⟨0x2500, 0x2503, 9, 9⟩, ⟨0x4001, 0x4001, 3, 3⟩, ⟨0x4001,
    0x4001, 4, 4⟩, ⟨0x5200, 0x5247, 8, 8⟩, ⟨0x5300, 0x5300, 4, 4⟩, ⟨0x5320, 0x5320, 2, 2⟩, ⟨0x6000, 0x6000, 2, 2⟩, ⟨0x6021, 0x6021, 1, 1⟩,
    ⟨0x6021, 0x6021, 2, 2⟩, ⟨0x6021, 0x6021, 3, 3⟩, ⟨0x6021, 0x6021, 4, 4⟩, ⟨0x6030, 0x6031, 1, 1⟩, ⟨0x6030, 0x6031, 3, 3⟩, ⟨0x6030, 0x6031, 4,
    4⟩, ⟨0x6030, 0x6031, 5, 5⟩, ⟨0x6800, 0x6800, 2, 2⟩, ⟨0x7000, 0x7000, 5, 5⟩, ⟨0x7000, 0x7000, 8, 8⟩, ⟨0x7050, 0x7050, 1, 1⟩, ⟨0x7100, 0x7104,
    3, 3⟩, ⟨0x9010, 0x901F, 3, 3⟩, ⟨0xA000, 0xA000, 1, 1⟩]) : OwnMoves P G z0 (.eccError t side loft uncorrectable addr) := by
  change ∀ s', Machine.execEccError t side loft uncorrectable addr z0 = .next s' → Own (.pairs :: P) G (z0.arrive (Instr.eccError t side loft uncorrectable addr).time) s'
  unfold Machine.execEccError
  with_reducible refine own_run (fun hw b => ?_)
  replace hp_meas := List.mem_cons_of_mem Part.pairs hp_meas
  replace hp_graphs := List.mem_cons_of_mem Part.pairs hp_graphs
  replace hp_gf := List.mem_cons_of_mem Part.pairs hp_gf
  replace hp_plate := List.mem_cons_of_mem Part.pairs hp_plate
  replace hp_stacks := List.mem_cons_of_mem Part.pairs hp_stacks
  replace hp_sides := List.mem_cons_of_mem Part.pairs hp_sides
  replace hp_safety := List.mem_cons_of_mem Part.pairs hp_safety
  replace hp_sharing := List.mem_cons_of_mem Part.pairs hp_sharing
  replace hp_clock := List.mem_cons_of_mem Part.pairs hp_clock
  replace hp_capture := List.mem_cons_of_mem Part.pairs hp_capture
  replace hp_boot := List.mem_cons_of_mem Part.pairs hp_boot
  have hp_pairs : Part.pairs ∈ Part.pairs :: P := List.mem_cons_self
  simp only [Instr.wf, Bool.and_eq_true, decide_eq_true_eq] at hw
  have := sideIx_lt side
  try dsimp only
  repeat' first
    | (exact hG.sub rfl) | (exact hG.item rfl) | with_reducible exact same _ | with_reducible assumption
    | with_reducible refine branch (fun hc => ?_) (fun hc => ?_) | with_reducible apply correctedError | with_reducible apply incSat
    | with_reducible apply setBitO | with_reducible apply sideFault | omega
    | (refine hG.hit 0x6030 0x6031 1 1 rfl ?_ ?_ ?_ ?_ ?_ <;> (first | omega | ((try simp only [quantIx, ctrIx, planIx, bankIndex, resIx, pllSide, instRecord, recordIndex]); omega)))
    | (refine hG.hit 0x6030 0x6031 3 3 rfl ?_ ?_ ?_ ?_ ?_ <;> (first | omega | ((try simp only [quantIx, ctrIx, planIx, bankIndex, resIx, pllSide, instRecord, recordIndex]); omega)))
    | (refine hG.hit 0x6030 0x6031 4 4 rfl ?_ ?_ ?_ ?_ ?_ <;> (first | omega | ((try simp only [quantIx, ctrIx, planIx, bankIndex, resIx, pllSide, instRecord, recordIndex]); omega)))
    | (refine hG.hit 0x6030 0x6031 5 5 rfl ?_ ?_ ?_ ?_ ?_ <;> (first | omega | ((try simp only [quantIx, ctrIx, planIx, bankIndex, resIx, pllSide, instRecord, recordIndex]); omega)))
    | split

theorem moves_pllFreqCheck {z0 : State} {t p : Nat} {ok : Bool} (hp_meas : Part.meas ∈ P) (hp_graphs : Part.graphs ∈ P) (hp_gf : Part.gf ∈ P)
    (hp_plate : Part.plate ∈ P) (hp_stacks : Part.stacks ∈ P) (hp_sides : Part.sides ∈ P) (hp_safety : Part.safety ∈ P) (hp_sharing : Part.sharing ∈
    P) (hp_clock : Part.clock ∈ P) (hp_capture : Part.capture ∈ P) (hG : Cov G [⟨0x2100, 0x213F, 11, 11⟩, ⟨0x2500, 0x2503, 6, 6⟩, ⟨0x2500, 0x2503,
    8, 8⟩, ⟨0x2500, 0x2503, 9, 9⟩, ⟨0x4001, 0x4001, 3, 3⟩, ⟨0x4001, 0x4001, 4, 4⟩, ⟨0x5200, 0x5247, 8, 8⟩, ⟨0x5300, 0x5300, 4, 4⟩, ⟨0x5320, 0x5320,
    2, 2⟩, ⟨0x6000, 0x6000, 2, 2⟩, ⟨0x6021, 0x6021, 1, 1⟩, ⟨0x6021, 0x6021, 2, 2⟩, ⟨0x6021, 0x6021, 3, 3⟩, ⟨0x6021, 0x6021, 4, 4⟩, ⟨0x6030, 0x6031,
    1, 1⟩, ⟨0x6800, 0x6800, 2, 2⟩, ⟨0x7000, 0x7000, 5, 5⟩, ⟨0x7000, 0x7000, 8, 8⟩, ⟨0x7050, 0x7050, 1, 1⟩, ⟨0x7100, 0x7104, 3, 3⟩, ⟨0x9010, 0x901F,
    3, 3⟩, ⟨0xA000, 0xA000, 1, 1⟩]) : OwnMoves P G z0 (.pllFreqCheck t p ok) := by
  change ∀ s', Machine.execPllFreqCheck t p ok z0 = .next s' → Own (.pairs :: P) G (z0.arrive (Instr.pllFreqCheck t p ok).time) s'
  unfold Machine.execPllFreqCheck
  with_reducible refine own_run (fun hw b => ?_)
  replace hp_meas := List.mem_cons_of_mem Part.pairs hp_meas
  replace hp_graphs := List.mem_cons_of_mem Part.pairs hp_graphs
  replace hp_gf := List.mem_cons_of_mem Part.pairs hp_gf
  replace hp_plate := List.mem_cons_of_mem Part.pairs hp_plate
  replace hp_stacks := List.mem_cons_of_mem Part.pairs hp_stacks
  replace hp_sides := List.mem_cons_of_mem Part.pairs hp_sides
  replace hp_safety := List.mem_cons_of_mem Part.pairs hp_safety
  replace hp_sharing := List.mem_cons_of_mem Part.pairs hp_sharing
  replace hp_clock := List.mem_cons_of_mem Part.pairs hp_clock
  replace hp_capture := List.mem_cons_of_mem Part.pairs hp_capture
  have hp_pairs : Part.pairs ∈ Part.pairs :: P := List.mem_cons_self
  simp only [Instr.wf, Bool.and_eq_true, decide_eq_true_eq] at hw
  try dsimp only
  repeat' first
    | (exact hG.sub rfl) | (refine hG.hit 0x6030 0x6031 1 1 rfl ?_ ?_ ?_ ?_ ?_ <;> (first | omega | ((have := sideIx_lt (pllSide p); omega))))
    | with_reducible exact same _ | with_reducible assumption | with_reducible refine branch (fun hc => ?_) (fun hc => ?_)
    | with_reducible apply sideFault | with_reducible apply setBitO

theorem moves_badHoldExpiry {z0 : State} {t : Nat} {side : Side} (hp_sides : Part.sides ∈ P) (hG : Cov G [⟨0x6030, 0x6031, 1, 1⟩]) : OwnMoves P G z0
    (.badHoldExpiry t side) := by
  change ∀ s', Machine.execBadHoldExpiry t side z0 = .next s' → Own (.pairs :: P) G (z0.arrive (Instr.badHoldExpiry t side).time) s'
  unfold Machine.execBadHoldExpiry
  with_reducible refine own_run (fun hw b => ?_)
  replace hp_sides := List.mem_cons_of_mem Part.pairs hp_sides
  have hp_pairs : Part.pairs ∈ Part.pairs :: P := List.mem_cons_self
  simp only [Instr.wf, Bool.and_eq_true, decide_eq_true_eq] at hw
  have := sideIx_lt side
  have := sideIx_lt (otherSide side)
  try dsimp only
  repeat' first
    | (exact hG.sub rfl) | with_reducible exact same _ | with_reducible assumption | with_reducible apply expireBad

end Own
end Sys2Proof
end

