-- ==== Sys2Proof/Laws/MovesStack.lean ====
section
/-!
SUPPORT. What each command moves, one lemma each: stacks.
-/

set_option Elab.async false
set_option maxRecDepth 2000
set_option linter.unusedVariables false
set_option linter.unusedSimpArgs false
namespace Sys2Proof
open Sys2Proof.Machine
variable {P : List Part} {G : List Objs}
namespace Own

theorem moves_stackTransaction {z0 : State} {t k : Nat} {ok : Bool} (hp_stacks : Part.stacks ∈ P) (hp_sharing : Part.sharing ∈ P) (hG : Cov G
    [⟨0x9010, 0x901F, 3, 3⟩, ⟨0xA000, 0xA000, 1, 1⟩]) : OwnMoves P G z0 (.stackTransaction t k ok) := by
  change ∀ s', Machine.execStackTransaction t k ok z0 = .next s' → Own (.pairs :: P) G (z0.arrive (Instr.stackTransaction t k ok).time) s'
  unfold Machine.execStackTransaction
  with_reducible refine own_run (fun hw b => ?_)
  replace hp_stacks := List.mem_cons_of_mem Part.pairs hp_stacks
  replace hp_sharing := List.mem_cons_of_mem Part.pairs hp_sharing
  have hp_pairs : Part.pairs ∈ Part.pairs :: P := List.mem_cons_self
  simp only [Instr.wf, Bool.and_eq_true, decide_eq_true_eq] at hw
  try dsimp only
  repeat' first
    | (exact hG.sub rfl) | with_reducible exact same _ | with_reducible assumption | with_reducible apply transactionOk
    | with_reducible apply transactionFails | split

theorem moves_stretchTimeout {z0 : State} {t k : Nat} (hp_stacks : Part.stacks ∈ P) (hp_sharing : Part.sharing ∈ P) (hG : Cov G [⟨0x9010, 0x901F, 3,
    3⟩, ⟨0xA000, 0xA000, 1, 1⟩]) : OwnMoves P G z0 (.stretchTimeout t k) := by
  change ∀ s', Machine.execStretchTimeout t k z0 = .next s' → Own (.pairs :: P) G (z0.arrive (Instr.stretchTimeout t k).time) s'
  unfold Machine.execStretchTimeout
  with_reducible refine own_run (fun hw b => ?_)
  replace hp_stacks := List.mem_cons_of_mem Part.pairs hp_stacks
  replace hp_sharing := List.mem_cons_of_mem Part.pairs hp_sharing
  have hp_pairs : Part.pairs ∈ Part.pairs :: P := List.mem_cons_self
  simp only [Instr.wf, Bool.and_eq_true, decide_eq_true_eq] at hw
  try dsimp only
  repeat' first
    | (exact hG.sub rfl) | with_reducible exact same _ | with_reducible assumption | with_reducible apply transactionFails

theorem moves_pollTimeout {z0 : State} {t : Nat} {k : Nat} (hp_stacks : Part.stacks ∈ P) (hp_sharing : Part.sharing ∈ P) (hG : Cov G [⟨0x9010,
    0x901F, 3, 3⟩, ⟨0xA000, 0xA000, 1, 1⟩]) : OwnMoves P G z0 (.pollTimeout t k) := by
  change ∀ s', Machine.execPollTimeout t k z0 = .next s' → Own (.pairs :: P) G (z0.arrive (Instr.pollTimeout t k).time) s'
  unfold Machine.execPollTimeout
  with_reducible refine own_run (fun hw b => ?_)
  replace hp_stacks := List.mem_cons_of_mem Part.pairs hp_stacks
  replace hp_sharing := List.mem_cons_of_mem Part.pairs hp_sharing
  have hp_pairs : Part.pairs ∈ Part.pairs :: P := List.mem_cons_self
  simp only [Instr.wf, Bool.and_eq_true, decide_eq_true_eq] at hw
  try dsimp only
  repeat' first
    | (exact hG.sub rfl) | (exact hG.item rfl) | with_reducible exact same _ | with_reducible assumption
    | with_reducible refine branch (fun hc => ?_) (fun hc => ?_) | with_reducible apply transactionFails | omega | split

theorem moves_stackReadDone {z0 : State} {t : Nat} {k : Nat} {ident : List Nat} {copyA : List Nat} {copyB : List Nat} (hp_plate : Part.plate ∈ P)
    (hp_stacks : Part.stacks ∈ P) (hp_sharing : Part.sharing ∈ P) (hG : Cov G [⟨0x9010, 0x901F, 2, 2⟩, ⟨0x9010, 0x901F, 3, 3⟩, ⟨0x9010, 0x901F, 4,
    4⟩, ⟨0x9010, 0x901F, 5, 5⟩, ⟨0x9010, 0x901F, 6, 6⟩, ⟨0x9010, 0x901F, 7, 7⟩, ⟨0x9010, 0x901F, 8, 8⟩, ⟨0xA000, 0xA000, 1, 1⟩]) : OwnMoves P G z0
    (.stackReadDone t k ident copyA copyB) := by
  change ∀ s', Machine.execStackReadDone t k ident copyA copyB z0 = .next s' → Own (.pairs :: P) G (z0.arrive (Instr.stackReadDone t k ident copyA copyB).time) s'
  unfold Machine.execStackReadDone
  with_reducible refine own_run (fun hw b => ?_)
  replace hp_plate := List.mem_cons_of_mem Part.pairs hp_plate
  replace hp_stacks := List.mem_cons_of_mem Part.pairs hp_stacks
  replace hp_sharing := List.mem_cons_of_mem Part.pairs hp_sharing
  have hp_pairs : Part.pairs ∈ Part.pairs :: P := List.mem_cons_self
  simp only [Instr.wf, Bool.and_eq_true, decide_eq_true_eq] at hw
  try dsimp only
  repeat' first
    | (exact hG.sub rfl) | (exact hG.item rfl) | with_reducible exact same _ | with_reducible assumption
    | with_reducible refine branch (fun hc => ?_) (fun hc => ?_) | with_reducible apply linkDone | with_reducible apply takeRecord | omega
    | split

theorem moves_flush {z0 : State} {t k : Nat} {all : Bool} (hp_stacks : Part.stacks ∈ P) (hp_sharing : Part.sharing ∈ P) (hG : Cov G [⟨0x9000,
    0x9000, 5, 5⟩, ⟨0x9010, 0x901F, 3, 3⟩, ⟨0xA000, 0xA000, 1, 1⟩]) : OwnMoves P G z0 (.flush t k all) := by
  change ∀ s', Machine.execFlush t k all z0 = .next s' → Own (.pairs :: P) G (z0.arrive (Instr.flush t k all).time) s'
  unfold Machine.execFlush
  with_reducible refine own_run (fun hw b => ?_)
  replace hp_stacks := List.mem_cons_of_mem Part.pairs hp_stacks
  replace hp_sharing := List.mem_cons_of_mem Part.pairs hp_sharing
  have hp_pairs : Part.pairs ∈ Part.pairs :: P := List.mem_cons_self
  simp only [Instr.wf, Bool.and_eq_true, decide_eq_true_eq] at hw
  try dsimp only
  repeat' first
    | (exact hG.sub rfl) | with_reducible exact same _ | with_reducible assumption | with_reducible refine branch (fun hc => ?_) (fun hc => ?_)
    | with_reducible apply doFlush

theorem moves_rescan {z0 : State} {t k : Nat} {all : Bool} (hp_stacks : Part.stacks ∈ P) (hp_sharing : Part.sharing ∈ P) (hG : Cov G [⟨0x9000,
    0x9000, 5, 5⟩, ⟨0x9010, 0x901F, 3, 3⟩, ⟨0xA000, 0xA000, 1, 1⟩]) : OwnMoves P G z0 (.rescan t k all) := by
  change ∀ s', Machine.execRescan t k all z0 = .next s' → Own (.pairs :: P) G (z0.arrive (Instr.rescan t k all).time) s'
  unfold Machine.execRescan
  with_reducible refine own_run (fun hw b => ?_)
  replace hp_stacks := List.mem_cons_of_mem Part.pairs hp_stacks
  replace hp_sharing := List.mem_cons_of_mem Part.pairs hp_sharing
  have hp_pairs : Part.pairs ∈ Part.pairs :: P := List.mem_cons_self
  simp only [Instr.wf, Bool.and_eq_true, decide_eq_true_eq] at hw
  try dsimp only
  repeat' first
    | (exact hG.sub rfl) | with_reducible exact same _ | with_reducible assumption | with_reducible refine branch (fun hc => ?_) (fun hc => ?_)
    | with_reducible apply doRescan

theorem moves_initRecord {z0 : State} {t k : Nat} (hp_stacks : Part.stacks ∈ P) (hp_sharing : Part.sharing ∈ P) (hG : Cov G [⟨0x9000, 0x9000, 5, 5⟩,
    ⟨0x9010, 0x901F, 3, 3⟩, ⟨0xA000, 0xA000, 1, 1⟩]) : OwnMoves P G z0 (.initRecord t k) := by
  change ∀ s', Machine.execInitRecord t k z0 = .next s' → Own (.pairs :: P) G (z0.arrive (Instr.initRecord t k).time) s'
  unfold Machine.execInitRecord
  with_reducible refine own_run (fun hw b => ?_)
  replace hp_stacks := List.mem_cons_of_mem Part.pairs hp_stacks
  replace hp_sharing := List.mem_cons_of_mem Part.pairs hp_sharing
  have hp_pairs : Part.pairs ∈ Part.pairs :: P := List.mem_cons_self
  simp only [Instr.wf, Bool.and_eq_true, decide_eq_true_eq] at hw
  try dsimp only
  repeat' first
    | (exact hG.sub rfl) | with_reducible exact same _ | with_reducible assumption | with_reducible refine branch (fun hc => ?_) (fun hc => ?_)
    | with_reducible apply doInit

theorem moves_bringIn {z0 : State} {t k leg : Nat} (hp_stacks : Part.stacks ∈ P) (hG : Cov G [⟨0x9000, 0x9000, 5, 5⟩, ⟨0x9010, 0x901F, 3, 3⟩]) :
    OwnMoves P G z0 (.bringIn t k leg) := by
  change ∀ s', Machine.execBringIn t k leg z0 = .next s' → Own (.pairs :: P) G (z0.arrive (Instr.bringIn t k leg).time) s'
  unfold Machine.execBringIn
  with_reducible refine own_run (fun hw b => ?_)
  replace hp_stacks := List.mem_cons_of_mem Part.pairs hp_stacks
  have hp_pairs : Part.pairs ∈ Part.pairs :: P := List.mem_cons_self
  simp only [Instr.wf, Bool.and_eq_true, decide_eq_true_eq] at hw
  try dsimp only
  repeat' first
    | (exact hG.sub rfl) | with_reducible exact same _ | with_reducible assumption | with_reducible refine branch (fun hc => ?_) (fun hc => ?_)
    | with_reducible apply doBringIn | omega

theorem moves_cancelBringIn {z0 : State} {t k : Nat} (hp_stacks : Part.stacks ∈ P) (hG : Cov G [⟨0x9000, 0x9000, 5, 5⟩, ⟨0x9010, 0x901F, 3, 3⟩]) :
    OwnMoves P G z0 (.cancelBringIn t k) := by
  change ∀ s', Machine.execCancelBringIn t k z0 = .next s' → Own (.pairs :: P) G (z0.arrive (Instr.cancelBringIn t k).time) s'
  unfold Machine.execCancelBringIn
  with_reducible refine own_run (fun hw b => ?_)
  replace hp_stacks := List.mem_cons_of_mem Part.pairs hp_stacks
  have hp_pairs : Part.pairs ∈ Part.pairs :: P := List.mem_cons_self
  simp only [Instr.wf, Bool.and_eq_true, decide_eq_true_eq] at hw
  try dsimp only
  repeat' first
    | (exact hG.sub rfl) | with_reducible exact same _ | with_reducible assumption | with_reducible refine branch (fun hc => ?_) (fun hc => ?_)
    | with_reducible apply doCancelBring

theorem moves_lifeWriteInterval {z0 : State} {t k : Nat} (hp_stacks : Part.stacks ∈ P) (hp_sharing : Part.sharing ∈ P) (hG : Cov G [⟨0x9010, 0x901F,
    3, 3⟩, ⟨0xA000, 0xA000, 1, 1⟩]) : OwnMoves P G z0 (.lifeWriteInterval t k) := by
  change ∀ s', Machine.execLifeWriteInterval t k z0 = .next s' → Own (.pairs :: P) G (z0.arrive (Instr.lifeWriteInterval t k).time) s'
  unfold Machine.execLifeWriteInterval
  with_reducible refine own_run (fun hw b => ?_)
  replace hp_stacks := List.mem_cons_of_mem Part.pairs hp_stacks
  replace hp_sharing := List.mem_cons_of_mem Part.pairs hp_sharing
  have hp_pairs : Part.pairs ∈ Part.pairs :: P := List.mem_cons_self
  simp only [Instr.wf, Bool.and_eq_true, decide_eq_true_eq] at hw
  try dsimp only
  repeat' first
    | (exact hG.sub rfl) | with_reducible exact same _ | with_reducible assumption | with_reducible refine branch (fun hc => ?_) (fun hc => ?_)
    | with_reducible apply queueWrite | with_reducible apply setStack

theorem moves_lifeWritten {z0 : State} {t k : Nat} (hp_plate : Part.plate ∈ P) (hp_stacks : Part.stacks ∈ P) (hp_sharing : Part.sharing ∈ P) (hp_out
    : Part.out ∈ P) (hG : Cov G [⟨0x9010, 0x901F, 3, 3⟩, ⟨0x9010, 0x901F, 5, 5⟩, ⟨0x9010, 0x901F, 6, 6⟩, ⟨0x9010, 0x901F, 7, 7⟩, ⟨0x9010, 0x901F, 8,
    8⟩, ⟨0x9010, 0x901F, 9, 9⟩, ⟨0xA000, 0xA000, 1, 1⟩]) : OwnMoves P G z0 (.lifeWritten t k) := by
  change ∀ s', Machine.execLifeWritten t k z0 = .next s' → Own (.pairs :: P) G (z0.arrive (Instr.lifeWritten t k).time) s'
  unfold Machine.execLifeWritten
  with_reducible refine own_run (fun hw b => ?_)
  replace hp_plate := List.mem_cons_of_mem Part.pairs hp_plate
  replace hp_stacks := List.mem_cons_of_mem Part.pairs hp_stacks
  replace hp_sharing := List.mem_cons_of_mem Part.pairs hp_sharing
  replace hp_out := List.mem_cons_of_mem Part.pairs hp_out
  have hp_pairs : Part.pairs ∈ Part.pairs :: P := List.mem_cons_self
  simp only [Instr.wf, Bool.and_eq_true, decide_eq_true_eq] at hw
  try dsimp only
  repeat' first
    | (exact hG.sub rfl) | with_reducible exact same _ | with_reducible assumption | with_reducible apply lifeWritten

theorem moves_rainflowPosting {z0 : State} {t : Nat} (hp_graphs : Part.graphs ∈ P) (hp_stacks : Part.stacks ∈ P) (hG : Cov G [⟨0x9010, 0x901F, 6,
    6⟩, ⟨0x9010, 0x901F, 8, 8⟩]) : OwnMoves P G z0 (.rainflowPosting t) := by
  change ∀ s', Machine.execRainflowPosting t z0 = .next s' → Own (.pairs :: P) G (z0.arrive (Instr.rainflowPosting t).time) s'
  unfold Machine.execRainflowPosting
  with_reducible refine own_run (fun hw b => ?_)
  replace hp_graphs := List.mem_cons_of_mem Part.pairs hp_graphs
  replace hp_stacks := List.mem_cons_of_mem Part.pairs hp_stacks
  have hp_pairs : Part.pairs ∈ Part.pairs :: P := List.mem_cons_self
  simp only [Instr.wf, Bool.and_eq_true, decide_eq_true_eq] at hw
  try dsimp only
  repeat' first
    | (exact hG.sub rfl) | with_reducible exact same _ | with_reducible assumption | with_reducible apply applyPosting | split
    | with_reducible refine graphs_set (by assumption) ?_

theorem moves_stackHours {z0 : State} {t : Nat} {k : Nat} (hp_stacks : Part.stacks ∈ P) (hG : Cov G [⟨0x9010, 0x901F, 4, 4⟩]) : OwnMoves P G z0
    (.stackHours t k) := by
  change ∀ s', Machine.execStackHours t k z0 = .next s' → Own (.pairs :: P) G (z0.arrive (Instr.stackHours t k).time) s'
  unfold Machine.execStackHours
  with_reducible refine own_run (fun hw b => ?_)
  replace hp_stacks := List.mem_cons_of_mem Part.pairs hp_stacks
  have hp_pairs : Part.pairs ∈ Part.pairs :: P := List.mem_cons_self
  simp only [Instr.wf, Bool.and_eq_true, decide_eq_true_eq] at hw
  try dsimp only
  repeat' first
    | (exact hG.sub rfl) | (exact hG.item rfl) | with_reducible exact same _ | with_reducible assumption
    | with_reducible refine branch (fun hc => ?_) (fun hc => ?_) | with_reducible apply incSat | with_reducible apply setStack
    | (refine hG.hit 0x9010 0x901F 4 4 rfl ?_ ?_ ?_ ?_ ?_ <;> (first | omega | ((try simp only [quantIx, ctrIx, planIx, bankIndex, resIx, pllSide, instRecord, recordIndex]); omega) | (simp only [Bool.and_eq_true, decide_eq_true_eq] at *; omega)))
    | omega | split
    | (refine hG.hit 0x9010 0x901F 4 4 rfl ?_ ?_ ?_ ?_ ?_ <;> (first | omega | ((try simp only [quantIx, ctrIx, planIx, bankIndex, resIx, pllSide, instRecord, recordIndex]); omega)))

theorem moves_wearEvaluation {z0 : State} {t : Nat} (hp_graphs : Part.graphs ∈ P) (hp_stacks : Part.stacks ∈ P) (hG : Cov G [⟨0x9010, 0x901F, 3, 3⟩,
    ⟨0x9010, 0x901F, 7, 7⟩]) : OwnMoves P G z0 (.wearEvaluation t) := by
  change ∀ s', Machine.execWearEvaluation t z0 = .next s' → Own (.pairs :: P) G (z0.arrive (Instr.wearEvaluation t).time) s'
  unfold Machine.execWearEvaluation
  with_reducible refine own_run (fun hw b => ?_)
  replace hp_graphs := List.mem_cons_of_mem Part.pairs hp_graphs
  replace hp_stacks := List.mem_cons_of_mem Part.pairs hp_stacks
  have hp_pairs : Part.pairs ∈ Part.pairs :: P := List.mem_cons_self
  simp only [Instr.wf, Bool.and_eq_true, decide_eq_true_eq] at hw
  try dsimp only
  repeat' first
    | (exact hG.sub rfl) | with_reducible exact same _ | with_reducible assumption | with_reducible apply markDue
    | with_reducible apply recomputeShares | with_reducible refine forN ?_ (fun i v hi => ?_)

theorem moves_spareCrossingCheck {z0 : State} {t k : Nat} (hp_graphs : Part.graphs ∈ P) (hp_plate : Part.plate ∈ P) (hp_stacks : Part.stacks ∈ P)
    (hG : Cov G [⟨0x9010, 0x901F, 3, 3⟩, ⟨0x9010, 0x901F, 7, 7⟩]) : OwnMoves P G z0 (.spareCrossingCheck t k) := by
  change ∀ s', Machine.execSpareCrossingCheck t k z0 = .next s' → Own (.pairs :: P) G (z0.arrive (Instr.spareCrossingCheck t k).time) s'
  unfold Machine.execSpareCrossingCheck
  with_reducible refine own_run (fun hw b => ?_)
  replace hp_graphs := List.mem_cons_of_mem Part.pairs hp_graphs
  replace hp_plate := List.mem_cons_of_mem Part.pairs hp_plate
  replace hp_stacks := List.mem_cons_of_mem Part.pairs hp_stacks
  have hp_pairs : Part.pairs ∈ Part.pairs :: P := List.mem_cons_self
  simp only [Instr.wf, Bool.and_eq_true, decide_eq_true_eq] at hw
  try dsimp only
  repeat' first
    | (exact hG.sub rfl) | with_reducible exact same _ | with_reducible assumption | with_reducible apply checkBring

theorem moves_spareSwapTimeout {z0 : State} {t : Nat} {k : Nat} (hp_stacks : Part.stacks ∈ P) (hG : Cov G [⟨0x9010, 0x901F, 3, 3⟩]) : OwnMoves P G
    z0 (.spareSwapTimeout t k) := by
  change ∀ s', Machine.execSpareSwapTimeout t k z0 = .next s' → Own (.pairs :: P) G (z0.arrive (Instr.spareSwapTimeout t k).time) s'
  unfold Machine.execSpareSwapTimeout
  with_reducible refine own_run (fun hw b => ?_)
  replace hp_stacks := List.mem_cons_of_mem Part.pairs hp_stacks
  have hp_pairs : Part.pairs ∈ Part.pairs :: P := List.mem_cons_self
  simp only [Instr.wf, Bool.and_eq_true, decide_eq_true_eq] at hw
  try dsimp only
  repeat' first
    | (exact hG.sub rfl) | (exact hG.item rfl) | with_reducible exact same _ | with_reducible assumption
    | with_reducible refine branch (fun hc => ?_) (fun hc => ?_) | with_reducible apply dropBring | with_reducible apply raise | omega | split

end Own
end Sys2Proof
end

