-- ==== Sys2Proof/Laws/MovesTime.lean ====
section
/-!
SUPPORT. What each command moves, one lemma each: ridge time and PTP.
-/

set_option Elab.async false
set_option maxRecDepth 2000
set_option linter.unusedVariables false
set_option linter.unusedSimpArgs false
namespace Sys2Proof
open Sys2Proof.Machine
variable {P : List Part} {G : List Objs}
namespace Own

theorem moves_incrementWrite {z0 : State} {t value : Nat} (hG : Cov G [⟨0x7000, 0x7000, 2, 2⟩, ⟨0x7000, 0x7000, 5, 5⟩]) : OwnMoves P G z0
    (.incrementWrite t value) := by
  change ∀ s', Machine.execIncrementWrite t value z0 = .next s' → Own (.pairs :: P) G (z0.arrive (Instr.incrementWrite t value).time) s'
  unfold Machine.execIncrementWrite
  with_reducible refine own_run (fun hw b => ?_)
  have hp_pairs : Part.pairs ∈ Part.pairs :: P := List.mem_cons_self
  simp only [Instr.wf, Bool.and_eq_true, decide_eq_true_eq] at hw
  try dsimp only
  repeat' first
    | (exact hG.sub rfl) | with_reducible exact same _ | with_reducible refine branch (fun hc => ?_) (fun hc => ?_)
    | with_reducible apply writeIncrement

theorem moves_timeSet {z0 : State} {t at96 : Nat} (hp_clock : Part.clock ∈ P) (hG : Cov G [⟨0x7000, 0x7000, 5, 5⟩]) : OwnMoves P G z0 (.timeSet t
    at96) := by
  change ∀ s', Machine.execTimeSet t at96 z0 = .next s' → Own (.pairs :: P) G (z0.arrive (Instr.timeSet t at96).time) s'
  unfold Machine.execTimeSet
  with_reducible refine own_run (fun hw b => ?_)
  replace hp_clock := List.mem_cons_of_mem Part.pairs hp_clock
  have hp_pairs : Part.pairs ∈ Part.pairs :: P := List.mem_cons_self
  simp only [Instr.wf, Bool.and_eq_true, decide_eq_true_eq] at hw
  try dsimp only
  repeat' first
    | (exact hG.sub rfl) | with_reducible exact same _ | with_reducible assumption | with_reducible refine branch (fun hc => ?_) (fun hc => ?_)
    | with_reducible apply requestStep

theorem moves_timeAdjust {z0 : State} {t off : Nat} (hp_clock : Part.clock ∈ P) (hG : Cov G [⟨0x7000, 0x7000, 5, 5⟩]) : OwnMoves P G z0 (.timeAdjust
    t off) := by
  change ∀ s', Machine.execTimeAdjust t off z0 = .next s' → Own (.pairs :: P) G (z0.arrive (Instr.timeAdjust t off).time) s'
  unfold Machine.execTimeAdjust
  with_reducible refine own_run (fun hw b => ?_)
  replace hp_clock := List.mem_cons_of_mem Part.pairs hp_clock
  have hp_pairs : Part.pairs ∈ Part.pairs :: P := List.mem_cons_self
  simp only [Instr.wf, Bool.and_eq_true, decide_eq_true_eq] at hw
  try dsimp only
  repeat' first
    | (exact hG.sub rfl) | with_reducible exact same _ | with_reducible assumption | with_reducible refine branch (fun hc => ?_) (fun hc => ?_)
    | with_reducible apply requestStep

theorem moves_timeStep {z0 : State} {t : Nat} (hp_time : Part.time ∈ P) (hp_meas : Part.meas ∈ P) (hp_graphs : Part.graphs ∈ P) (hp_gf : Part.gf ∈
    P) (hp_plate : Part.plate ∈ P) (hp_stacks : Part.stacks ∈ P) (hp_sides : Part.sides ∈ P) (hp_sharing : Part.sharing ∈ P) (hp_clock :
    Part.clock ∈ P) (hp_capture : Part.capture ∈ P) (hp_scribe : Part.scribe ∈ P) (hp_boot : Part.boot ∈ P) (hp_net : Part.net ∈ P) (hG : Cov G
    [⟨0x7000, 0x7000, 6, 6⟩, ⟨0x7000, 0x7000, 7, 7⟩]) : OwnMoves P G z0 (.timeStep t) := by
  change ∀ s', Machine.execTimeStep t z0 = .next s' → Own (.pairs :: P) G (z0.arrive (Instr.timeStep t).time) s'
  unfold Machine.execTimeStep
  with_reducible refine own_run (fun hw b => ?_)
  replace hp_net := List.mem_cons_of_mem Part.pairs hp_net
  replace hp_time := List.mem_cons_of_mem Part.pairs hp_time
  replace hp_meas := List.mem_cons_of_mem Part.pairs hp_meas
  replace hp_graphs := List.mem_cons_of_mem Part.pairs hp_graphs
  replace hp_gf := List.mem_cons_of_mem Part.pairs hp_gf
  replace hp_plate := List.mem_cons_of_mem Part.pairs hp_plate
  replace hp_stacks := List.mem_cons_of_mem Part.pairs hp_stacks
  replace hp_sides := List.mem_cons_of_mem Part.pairs hp_sides
  replace hp_sharing := List.mem_cons_of_mem Part.pairs hp_sharing
  replace hp_clock := List.mem_cons_of_mem Part.pairs hp_clock
  replace hp_capture := List.mem_cons_of_mem Part.pairs hp_capture
  replace hp_scribe := List.mem_cons_of_mem Part.pairs hp_scribe
  replace hp_boot := List.mem_cons_of_mem Part.pairs hp_boot
  have hp_pairs : Part.pairs ∈ Part.pairs :: P := List.mem_cons_self
  simp only [Instr.wf, Bool.and_eq_true, decide_eq_true_eq] at hw
  try dsimp only
  repeat' first
    | (exact hG.sub rfl) | with_reducible exact same _ | with_reducible assumption | with_reducible refine branch (fun hc => ?_) (fun hc => ?_)
    | with_reducible apply stepOne | split | with_reducible refine clock_set (by assumption) ?_

theorem moves_ptpSyncReceived {z0 : State} {t port domain t1 t2 corr gm : Nat} {ether : Bool} (hp_ptp : Part.ptp ∈ P) (hp_clock : Part.clock ∈ P) (hG : Cov G [⟨0x7000,
    0x7000, 2, 2⟩, ⟨0x7000, 0x7000, 5, 5⟩, ⟨0x7000, 0x7000, 8, 8⟩, ⟨0x7010, 0x7010, 7, 7⟩, ⟨0x7010, 0x7010, 8, 8⟩, ⟨0x7020, 0x7020, 7, 7⟩, ⟨0x7028,
    0x7029, 2, 2⟩]) : OwnMoves P G z0 (.ptpSyncReceived t port ether domain t1 t2 corr gm) := by
  change ∀ s', Machine.execPtpSyncReceived t port ether domain t1 t2 corr gm z0 = .next s' → Own (.pairs :: P) G (z0.arrive (Instr.ptpSyncReceived t port ether domain t1 t2 corr gm).time) s'
  unfold Machine.execPtpSyncReceived
  with_reducible refine own_run (fun hw b => ?_)
  replace hp_ptp := List.mem_cons_of_mem Part.pairs hp_ptp
  replace hp_clock := List.mem_cons_of_mem Part.pairs hp_clock
  have hp_pairs : Part.pairs ∈ Part.pairs :: P := List.mem_cons_self
  simp only [Instr.wf, Bool.and_eq_true, decide_eq_true_eq] at hw
  try dsimp only
  repeat' first
    | (exact hG.sub rfl) | with_reducible exact same _ | with_reducible assumption | with_reducible refine branch (fun hc => ?_) (fun hc => ?_)
    | with_reducible apply takeSync | omega

theorem linkMeasure {z0 z1 : State} {x : Nat} {d : Int} (hp_ptp : Part.ptp ∈ P) (hG : Cov G [⟨0x7028, 0x7029, 3, 3⟩]) (hb_x : x < 2)
    (h : Own P G z0 z1) : Own P G z0 (Machine.linkMeasure x d z1) := by
  unfold Machine.linkMeasure
  exact setNum (by refine hG.hit 0x7028 0x7029 3 3 rfl ?_ ?_ ?_ ?_ ?_ <;> omega) (setPtpPort hp_ptp h)

theorem moves_pathDelayMeasurement {z0 : State} {t port d : Nat} (hp_ptp : Part.ptp ∈ P) (hp_clock : Part.clock ∈ P) (hG : Cov G [⟨0x7000, 0x7000,
    5, 5⟩, ⟨0x7000, 0x7000, 8, 8⟩, ⟨0x7028, 0x7029, 2, 2⟩, ⟨0x7028, 0x7029, 3, 3⟩]) : OwnMoves P G z0 (.pathDelayMeasurement t port d) := by
  change ∀ s', Machine.execPathDelayMeasurement t port d z0 = .next s' → Own (.pairs :: P) G (z0.arrive (Instr.pathDelayMeasurement t port d).time) s'
  unfold Machine.execPathDelayMeasurement
  with_reducible refine own_run (fun hw b => ?_)
  replace hp_ptp := List.mem_cons_of_mem Part.pairs hp_ptp
  replace hp_clock := List.mem_cons_of_mem Part.pairs hp_clock
  have hp_pairs : Part.pairs ∈ Part.pairs :: P := List.mem_cons_self
  simp only [Instr.wf, Bool.and_eq_true, decide_eq_true_eq] at hw
  try dsimp only
  repeat' first
    | (exact hG.sub rfl) | with_reducible exact same _ | with_reducible assumption | with_reducible refine branch (fun hc => ?_) (fun hc => ?_)
    | with_reducible apply linkMeasure | with_reducible apply pathMeasure | omega

theorem moves_pathConfirm {z0 : State} {t port value : Nat} (hp_ptp : Part.ptp ∈ P) (hG : Cov G [⟨0x7028, 0x7029, 2, 2⟩, ⟨0x7028, 0x7029, 3, 3⟩,
    ⟨0x7028, 0x7029, 4, 4⟩]) : OwnMoves P G z0 (.pathConfirm t port value) := by
  change ∀ s', Machine.execPathConfirm t port value z0 = .next s' → Own (.pairs :: P) G (z0.arrive (Instr.pathConfirm t port value).time) s'
  unfold Machine.execPathConfirm
  with_reducible refine own_run (fun hw b => ?_)
  replace hp_ptp := List.mem_cons_of_mem Part.pairs hp_ptp
  have hp_pairs : Part.pairs ∈ Part.pairs :: P := List.mem_cons_self
  simp only [Instr.wf, Bool.and_eq_true, decide_eq_true_eq] at hw
  try dsimp only
  repeat' first
    | (exact hG.sub rfl) | with_reducible exact same _ | with_reducible assumption | with_reducible refine branch (fun hc => ?_) (fun hc => ?_)
    | with_reducible apply confirmPath | omega

theorem moves_ptpAnnounceReceived {z0 : State} {t port domain gm p1 cls acc var p2 steps : Nat} {ether : Bool} {sender : Nat} (hp_ptp : Part.ptp ∈ P) (hG : Cov G
    [⟨0x7028, 0x7029, 1, 1⟩, ⟨0x7028, 0x7029, 2, 2⟩]) : OwnMoves P G z0 (.ptpAnnounceReceived t port ether domain gm p1 cls acc var p2 steps sender) := by
  change ∀ s', Machine.execPtpAnnounceReceived t port ether domain gm p1 cls acc var p2 steps sender z0 = .next s' → Own (.pairs :: P) G (z0.arrive (Instr.ptpAnnounceReceived t port ether domain gm p1 cls acc var p2 steps sender).time) s'
  unfold Machine.execPtpAnnounceReceived
  with_reducible refine own_run (fun hw b => ?_)
  replace hp_ptp := List.mem_cons_of_mem Part.pairs hp_ptp
  have hp_pairs : Part.pairs ∈ Part.pairs :: P := List.mem_cons_self
  simp only [Instr.wf, Bool.and_eq_true, decide_eq_true_eq] at hw
  try dsimp only
  repeat' first
    | (exact hG.sub rfl) | with_reducible exact same _ | with_reducible assumption | with_reducible refine branch (fun hc => ?_) (fun hc => ?_)
    | with_reducible apply takeAnnounce | omega

theorem moves_announceTimeout {z0 : State} {t port : Nat} (hp_ptp : Part.ptp ∈ P) (hp_clock : Part.clock ∈ P) (hG : Cov G [⟨0x7000, 0x7000, 5, 5⟩,
    ⟨0x7000, 0x7000, 8, 8⟩, ⟨0x7028, 0x7029, 1, 1⟩, ⟨0x7028, 0x7029, 2, 2⟩]) : OwnMoves P G z0 (.announceTimeout t port) := by
  change ∀ s', Machine.execAnnounceTimeout t port z0 = .next s' → Own (.pairs :: P) G (z0.arrive (Instr.announceTimeout t port).time) s'
  unfold Machine.execAnnounceTimeout
  with_reducible refine own_run (fun hw b => ?_)
  replace hp_ptp := List.mem_cons_of_mem Part.pairs hp_ptp
  replace hp_clock := List.mem_cons_of_mem Part.pairs hp_clock
  have hp_pairs : Part.pairs ∈ Part.pairs :: P := List.mem_cons_self
  simp only [Instr.wf, Bool.and_eq_true, decide_eq_true_eq] at hw
  try dsimp only
  repeat' first
    | (exact hG.sub rfl) | with_reducible exact same _ | with_reducible assumption | with_reducible refine branch (fun hc => ?_) (fun hc => ?_)
    | with_reducible apply checkHoldover | with_reducible apply loseMaster

theorem moves_holdoverValidExpiry {z0 : State} {t : Nat} (hp_clock : Part.clock ∈ P) (hG : Cov G [⟨0x7000, 0x7000, 5, 5⟩]) : OwnMoves P G z0
    (.holdoverValidExpiry t) := by
  change ∀ s', Machine.execHoldoverValidExpiry t z0 = .next s' → Own (.pairs :: P) G (z0.arrive (Instr.holdoverValidExpiry t).time) s'
  unfold Machine.execHoldoverValidExpiry
  with_reducible refine own_run (fun hw b => ?_)
  replace hp_clock := List.mem_cons_of_mem Part.pairs hp_clock
  have hp_pairs : Part.pairs ∈ Part.pairs :: P := List.mem_cons_self
  simp only [Instr.wf, Bool.and_eq_true, decide_eq_true_eq] at hw
  try dsimp only
  repeat' first
    | (exact hG.sub rfl) | with_reducible exact same _ | with_reducible assumption | with_reducible refine branch (fun hc => ?_) (fun hc => ?_)
    | with_reducible apply setSynced

theorem moves_ppsInEdge {z0 : State} {t stamp : Nat} (hp_clock : Part.clock ∈ P) (hG : Cov G [⟨0x7000, 0x7000, 2, 2⟩, ⟨0x7000, 0x7000, 5, 5⟩,
    ⟨0x7010, 0x7010, 7, 7⟩, ⟨0x7010, 0x7010, 8, 8⟩, ⟨0x7030, 0x7030, 4, 4⟩]) : OwnMoves P G z0 (.ppsInEdge t stamp) := by
  change ∀ s', Machine.execPpsInEdge t stamp z0 = .next s' → Own (.pairs :: P) G (z0.arrive (Instr.ppsInEdge t stamp).time) s'
  unfold Machine.execPpsInEdge
  with_reducible refine own_run (fun hw b => ?_)
  replace hp_clock := List.mem_cons_of_mem Part.pairs hp_clock
  have hp_pairs : Part.pairs ∈ Part.pairs :: P := List.mem_cons_self
  simp only [Instr.wf, Bool.and_eq_true, decide_eq_true_eq] at hw
  try dsimp only
  repeat' first
    | (exact hG.sub rfl) | with_reducible exact same _ | with_reducible assumption | with_reducible apply takePps

theorem moves_ppsInTimeout {z0 : State} {t : Nat} (hp_clock : Part.clock ∈ P) (hG : Cov G [⟨0x7000, 0x7000, 5, 5⟩, ⟨0x7000, 0x7000, 8, 8⟩]) :
    OwnMoves P G z0 (.ppsInTimeout t) := by
  change ∀ s', Machine.execPpsInTimeout t z0 = .next s' → Own (.pairs :: P) G (z0.arrive (Instr.ppsInTimeout t).time) s'
  unfold Machine.execPpsInTimeout
  with_reducible refine own_run (fun hw b => ?_)
  replace hp_clock := List.mem_cons_of_mem Part.pairs hp_clock
  have hp_pairs : Part.pairs ∈ Part.pairs :: P := List.mem_cons_self
  simp only [Instr.wf, Bool.and_eq_true, decide_eq_true_eq] at hw
  try dsimp only
  repeat' first
    | (exact hG.sub rfl) | with_reducible exact same _ | with_reducible assumption | with_reducible refine branch (fun hc => ?_) (fun hc => ?_)
    | with_reducible apply beginHoldover

theorem moves_ptpSyncSend {z0 : State} {t port : Nat} (hp_ptp : Part.ptp ∈ P) (hp_net : Part.net ∈ P) (hp_out : Part.out ∈ P) : OwnMoves P G z0
    (.ptpSyncSend t port) := by
  change ∀ s', Machine.execPtpSyncSend t port z0 = .next s' → Own (.pairs :: P) G (z0.arrive (Instr.ptpSyncSend t port).time) s'
  unfold Machine.execPtpSyncSend
  with_reducible refine own_run (fun hw b => ?_)
  replace hp_ptp := List.mem_cons_of_mem Part.pairs hp_ptp
  replace hp_net := List.mem_cons_of_mem Part.pairs hp_net
  replace hp_out := List.mem_cons_of_mem Part.pairs hp_out
  have hp_pairs : Part.pairs ∈ Part.pairs :: P := List.mem_cons_self
  simp only [Instr.wf, Bool.and_eq_true, decide_eq_true_eq] at hw
  try dsimp only
  repeat' first
    | with_reducible exact same _ | with_reducible assumption | with_reducible refine branch (fun hc => ?_) (fun hc => ?_)
    | with_reducible apply sendPtp

theorem moves_ppsOutPulse {z0 : State} {t : Nat} (hp_clock : Part.clock ∈ P) (hp_out : Part.out ∈ P) : OwnMoves P G z0 (.ppsOutPulse t) := by
  change ∀ s', Machine.execPpsOutPulse t z0 = .next s' → Own (.pairs :: P) G (z0.arrive (Instr.ppsOutPulse t).time) s'
  unfold Machine.execPpsOutPulse
  with_reducible refine own_run (fun hw b => ?_)
  replace hp_clock := List.mem_cons_of_mem Part.pairs hp_clock
  replace hp_out := List.mem_cons_of_mem Part.pairs hp_out
  have hp_pairs : Part.pairs ∈ Part.pairs :: P := List.mem_cons_self
  simp only [Instr.wf, Bool.and_eq_true, decide_eq_true_eq] at hw
  try dsimp only
  repeat' first
    | with_reducible exact same _ | with_reducible assumption | with_reducible refine branch (fun hc => ?_) (fun hc => ?_)
    | with_reducible apply emit | omega | split | with_reducible refine clock_set (by assumption) ?_

theorem moves_leapSecond {z0 : State} {t : Nat} (hp_clock : Part.clock ∈ P) (hG : Cov G [⟨0x7030, 0x7030, 5, 5⟩, ⟨0x7030, 0x7030, 6, 6⟩]) : OwnMoves
    P G z0 (.leapSecond t) := by
  change ∀ s', Machine.execLeapSecond t z0 = .next s' → Own (.pairs :: P) G (z0.arrive (Instr.leapSecond t).time) s'
  unfold Machine.execLeapSecond
  with_reducible refine own_run (fun hw b => ?_)
  replace hp_clock := List.mem_cons_of_mem Part.pairs hp_clock
  have hp_pairs : Part.pairs ∈ Part.pairs :: P := List.mem_cons_self
  simp only [Instr.wf, Bool.and_eq_true, decide_eq_true_eq] at hw
  try dsimp only
  repeat' first
    | (exact hG.sub rfl) | with_reducible exact same _ | with_reducible assumption | with_reducible refine branch (fun hc => ?_) (fun hc => ?_)
    | with_reducible apply applyLeap

theorem moves_ptpDelayRequestSend {z0 : State} {t port : Nat} (hp_ptp : Part.ptp ∈ P) (hp_net : Part.net ∈ P) (hp_out : Part.out ∈ P) : OwnMoves P G
    z0 (.ptpDelayRequestSend t port) := by
  change ∀ s', Machine.execPtpDelayRequestSend t port z0 = .next s' → Own (.pairs :: P) G (z0.arrive (Instr.ptpDelayRequestSend t port).time) s'
  unfold Machine.execPtpDelayRequestSend
  with_reducible refine own_run (fun hw b => ?_)
  replace hp_ptp := List.mem_cons_of_mem Part.pairs hp_ptp
  replace hp_net := List.mem_cons_of_mem Part.pairs hp_net
  replace hp_out := List.mem_cons_of_mem Part.pairs hp_out
  have hp_pairs : Part.pairs ∈ Part.pairs :: P := List.mem_cons_self
  simp only [Instr.wf, Bool.and_eq_true, decide_eq_true_eq] at hw
  try dsimp only
  repeat' first
    | with_reducible exact same _ | with_reducible assumption | with_reducible refine branch (fun hc => ?_) (fun hc => ?_)
    | with_reducible apply sendPtp

theorem moves_ptpAnnounceSend {z0 : State} {t port : Nat} (hp_ptp : Part.ptp ∈ P) (hp_net : Part.net ∈ P) (hp_out : Part.out ∈ P) : OwnMoves P G z0
    (.ptpAnnounceSend t port) := by
  change ∀ s', Machine.execPtpAnnounceSend t port z0 = .next s' → Own (.pairs :: P) G (z0.arrive (Instr.ptpAnnounceSend t port).time) s'
  unfold Machine.execPtpAnnounceSend
  with_reducible refine own_run (fun hw b => ?_)
  replace hp_ptp := List.mem_cons_of_mem Part.pairs hp_ptp
  replace hp_net := List.mem_cons_of_mem Part.pairs hp_net
  replace hp_out := List.mem_cons_of_mem Part.pairs hp_out
  have hp_pairs : Part.pairs ∈ Part.pairs :: P := List.mem_cons_self
  simp only [Instr.wf, Bool.and_eq_true, decide_eq_true_eq] at hw
  try dsimp only
  repeat' first
    | with_reducible exact same _ | with_reducible assumption | with_reducible refine branch (fun hc => ?_) (fun hc => ?_)
    | with_reducible apply sendPtp

end Own
end Sys2Proof
end

