-- ==== Sys2Proof/Laws/Values.lean ====
section
/-!
SUPPORT. Reading an object after another is written, or after a part of the state has moved; the saturating counters; bytes after a
patch; and what an occurrence writes in the event objects.
-/

set_option Elab.async false
namespace Sys2Proof.Machine

theorem num_ofval {s s' : State} {i j : Nat} (h : s'.val (i * 256 + j) = s.val (i * 256 + j)) : s'.num i j = s.num i j := by
    simp only [State.num, h]
theorem blob_ofval {s s' : State} {i j : Nat} (h : s'.val (i * 256 + j) = s.val (i * 256 + j)) : s'.blob i j = s.blob i j := by
    simp only [State.blob, h]
theorem bit_ofval {s s' : State} {i j n : Nat} (h : s'.val (i * 256 + j) = s.val (i * 256 + j)) : s'.bit i j n = s.bit i j n := by
    simp only [State.bit, num_ofval h]
theorem fld_ofval {s s' : State} {i j n m : Nat} (h : s'.val (i * 256 + j) = s.val (i * 256 + j)) : s'.fld i j n m = s.fld i j n m := by
    simp only [State.fld, num_ofval h]
/-- reads through an update of one record field, not by definitional unfolding -/
theorem bit_od {s s' : State} (h : s'.od = s.od) (i j n : Nat) : s'.bit i j n = s.bit i j n := by simp only [State.bit, State.num, State.val, h]
theorem num_setNum_far (s : State) (i j v i' j' : Nat) (h : i' * 256 + j' ≠ i * 256 + j) : (s.setNum i j v).num i' j' = s.num i' j' := by
  rw [State.num_setNum]; simp [h]
theorem num_setNum_same (s : State) (i j v : Nat) : (s.setNum i j v).num i j = v % 2 ^ (8 * sizeOf i j) := by
  rw [State.num_setNum]; simp
section
variable (u : State) (i j n : Nat)
theorem bit_graphs (G) : State.bit { u with graphs := G } i j n = u.bit i j n := by simp only [State.bit, State.num, State.val]
theorem num_graphs (G) : State.num { u with graphs := G } i j = u.num i j := by simp only [State.bit, State.num, State.val]
end
theorem evK {i j : Nat} (h0 : j < 256) (h :
    ((i == 0x1200 && (j == 1 || j == 2 || j == 7)) || (i == 0x8100 && (j == 3 || j == 4 || j == 8)) || (i == 0xF000 && j == 1) || (decide
    (0x8010 ≤ i) && decide (i ≤ 0x8017) && j == 0xD) || (decide (0x8300 ≤ i) && decide (i ≤ 0x836F) && (j == 5 || j == 8))) = false) :
    evKey (i * 256 + j) = false := by
  have e1 : (i * 256 + j) / 256 = i := by omega
  have e2 : (i * 256 + j) % 256 = j := by omega
  simp only [evKey, e1, e2]; exact h
theorem num_setBitO_far (s : State) (i j n : Nat) (b : Bool) (i' j' : Nat) (h : i' * 256 + j' ≠ i * 256 + j) :
    (s.setBitO i j n b).num i' j' = s.num i' j' := num_setNum_far _ _ _ _ _ _ h
theorem blob_setNum_far (s : State) (i j v i' j' : Nat) (h : i' * 256 + j' ≠ i * 256 + j) : (s.setNum i j v).blob i' j' = s.blob i' j' := by
  rw [State.blob_setNum]; simp [h]
theorem blob_setBitO_far (s : State) (i j n : Nat) (b : Bool) (i' j' : Nat) (h : i' * 256 + j' ≠ i * 256 + j) :
    (s.setBitO i j n b).blob i' j' = s.blob i' j' := blob_setNum_far _ _ _ _ _ _ h
theorem num_setBlob_far (s : State) (i j) (v : List Nat) (i' j' : Nat) (h : i' * 256 + j' ≠ i * 256 + j) :
    (s.setBlob i j v).num i' j' = s.num i' j' := by
  rw [State.num_setBlob]; simp [h]
theorem num_setFld_far (s : State) (i j a c v : Nat) (i' j' : Nat) (h : i' * 256 + j' ≠ i * 256 + j) :
    (s.setFld i j a c v).num i' j' = s.num i' j' := num_setNum_far _ _ _ _ _ _ h
section
variable (u : State) (i j n m : Nat)
theorem bit_sharing (G) : State.bit { u with sharing := G } i j n = u.bit i j n := by simp only [State.bit, State.num, State.val]
theorem num_sharing (G) : State.num { u with sharing := G } i j = u.num i j := by simp only [State.bit, State.num, State.val]
theorem blob_sharing (G) : State.blob { u with sharing := G } i j = u.blob i j := by simp only [State.blob, State.val]
theorem num_setStack (k) (v) : (u.setStack k v).num i j = u.num i j := by simp only [State.setStack, State.num, State.val]
theorem blob_setStack (k) (v) : (u.setStack k v).blob i j = u.blob i j := by simp only [State.setStack, State.blob, State.val]
theorem bit_setStack (k) (v) : (u.setStack k v).bit i j n = u.bit i j n := by simp only [State.setStack, State.bit, State.num, State.val]
end
theorem satInc_mod (w n : Nat) : satInc w n % 2 ^ w = satInc w n := by
  apply Nat.mod_eq_of_lt
  unfold satInc
  have := Nat.two_pow_pos w
  split <;> omega
theorem num_incSat_same (s : State) (i j : Nat) : (s.incSat i j).num i j = satInc (8 * sizeOf i j) (s.num i j) := by
  unfold State.incSat; rw [num_setNum_same, satInc_mod]
theorem num_incSat_far (s : State) (i j i' j' : Nat) (h : i' * 256 + j' ≠ i * 256 + j) : (s.incSat i j).num i' j' = s.num i' j' :=
    num_setNum_far _ _ _ _ _ _ h

theorem length_beBytes (n v : Nat) : (beBytes n v).length = n := by
  induction n with
  | zero => rfl
  | succ n ih => simp [beBytes, ih]
theorem length_patch (b : List Nat) (off : Nat) (d : List Nat) (h : off + d.length ≤ b.length) : (patch b off d).length = b.length := by
  simp [patch]; omega
theorem slice_patch_same (b d : List Nat) (off n : Nat) (hn : d.length = n) (h : off + n ≤ b.length) : slice (patch b off d) off n = d := by
  subst hn
  have l : (b.take off).length = off := by simp; omega
  unfold slice patch
  rw [List.append_assoc, List.drop_append_of_le_length (by omega), List.drop_eq_nil_of_le (by omega), List.nil_append,
      List.take_append_of_le_length (by simp), List.take_length]
theorem slice_patch_other (b d : List Nat) (off i n : Nat) (h : off + d.length ≤ b.length) (hi : i + n ≤ off ∨ off + d.length ≤ i) :
    slice (patch b off d) i n = slice b i n := by
  apply List.ext_getElem?
  intro k
  simp only [slice, patch, List.getElem?_take, List.getElem?_drop]
  split
  · rcases hi with hi | hi
    · rw [List.append_assoc, List.getElem?_append_left (by simp; omega), List.getElem?_take, if_pos (by omega)]
    · rw [List.getElem?_append_right (by simp; omega), List.getElem?_drop]
      congr 1; simp only [List.length_append, List.length_take]; omega
  · rfl
theorem blobBit_set (b : List Nat) (e : Nat) (he : e / 8 < b.length) (n : Nat) : blobBit (blobSetBit b e true) n = (blobBit b n || n == e) := by
  unfold blobBit blobSetBit setNth nth
  rw [List.getElem?_set]
  by_cases h : e / 8 = n / 8
  · rw [if_pos h, if_pos (by omega)]
    simp only [Option.getD_some]
    rw [testBit_setBit, h]
    by_cases k : n = e
    · subst k; simp
    · have : n % 8 ≠ e % 8 := by omega
      simp [this, k]
  · rw [if_neg h]
    have : (n == e) = false := by simp; rintro rfl; exact h rfl
    simp [this]
theorem blob_far (s : State) (i j v j' : Nat) (h : 0x8000 ≤ i) (hj : j' < 256) : (s.setNum i j v).blob 0x1200 j' = s.blob 0x1200 j' :=
  blob_setNum_far _ _ _ _ _ _ (by omega)
theorem blob_od {u v : State} (h : v.od = u.od) (i j : Nat) : v.blob i j = u.blob i j := by simp only [State.blob, State.val, h]
theorem ctr_blob (b e n k : Nat) (u : State) (j : Nat) (hj : j < 256) : (countEvent b e n k u).blob 0x1200 j = u.blob 0x1200 j := by
  unfold countEvent countIf
  refine foldl_keep (fun s => s.blob 0x1200 j) _ _ (fun s a ha => ?_) u
  dsimp only
  have add : ∀ i n (u : State), (ctrAdd i n u).blob 0x1200 j = u.blob 0x1200 j := by
    intro i n u
    have h0 : 0x8000 ≤ ctrIx i := by unfold ctrIx; omega
    have h1 := blob_far u (ctrIx i) 5 (u.num (ctrIx i) 5 + n) j h0 hj
    have h2 : ((u.setNum (ctrIx i) 5 (u.num (ctrIx i) 5 + n)).setBitO (ctrIx i) 8 0 true).blob 0x1200 j = u.blob 0x1200 j :=
      (blob_setBitO_far _ _ _ _ _ _ _ (by omega)).trans h1
    unfold ctrAdd; dsimp only
    generalize (u.setNum (ctrIx i) 5 (u.num (ctrIx i) 5 + n)).setBitO (ctrIx i) 8 0 true = w at h2
    split
    · exact h1
    · split
      · exact (blob_od (u := w) rfl _ _).trans h2
      · exact h2
  split
  · unfold ctrBump; dsimp only
    split <;> simp only [add]
  · rfl
theorem ntf_blob (e : Nat) (u : State) (j : Nat) : (u.notifyAll e).blob 0x1200 j = u.blob 0x1200 j := by
  unfold State.notifyAll
  split
  · refine foldl_keep (fun s => s.blob 0x1200 j) _ _ (fun s a ha => ?_) u
    dsimp only
    split <;> rfl
  · rfl
theorem cap_blob (e : Nat) (u : State) (j : Nat) (hj : j < 256) : (captureEvents e u).blob 0x1200 j = u.blob 0x1200 j := by
  unfold captureEvents
  refine forN_keep (fun s => s.blob 0x1200 j) _ _ (fun i s hi => ?_) u
  dsimp only
  split
  · unfold pushTrigger
    refine foldl_keep (fun s => s.blob 0x1200 j) _ _ (fun s a ha => ?_) s
    dsimp only
    split
    · rfl
    · split
      · unfold missTrigger; dsimp only
        refine (blob_od (u := s.incSat (0x8010 + i) 0xD) rfl _ _).trans ?_
        exact blob_far _ _ _ _ _ (by omega) hj
      · rfl
  · rfl
theorem bs_same (s : State) (i j : Nat) (b : List Nat) : (s.setBlob i j b).blob i j = b := by simp
theorem bs_far (s : State) (i j i' j' : Nat) (b : List Nat) (h : i' * 256 + j' ≠ i * 256 + j) : (s.setBlob i j b).blob i' j' = s.blob i' j' := by
    rw [State.blob_setBlob, if_neg h]
theorem occ (s : State) (e p0 p1 p2 j : Nat) (hj : j < 256) : (s.occur e p0 p1 p2).blob 0x1200 j =
   (let u := (s.setBlob 0x1200 1 (blobSetBit (s.blob 0x1200 1) e true)).noteFresh 0x120001 e true
    let v := u.setBlob 0x1200 2 (patch (u.blob 0x1200 2) (2 * e) (beBytes 2 (satInc 16 (field (u.blob 0x1200 2) (2 * e) 2))))
    v.setBlob 0x1200 7 (patch (v.blob 0x1200 7) (24 * e) (lastOccBytes v p0 p1 p2))).blob 0x1200 j := by
  unfold State.occur; dsimp only
  rw [ctr_blob _ _ _ _ _ _ hj, cap_blob _ _ _ hj, ntf_blob]

end Sys2Proof.Machine
end

