-- ==== Sys2Proof/Tests/Slice0.lean ====
section
/-!
SUPPORT. Tests: ill-formed commands refused, single facts against the manual's own figures and the standards' own vectors, and for every
statement with hypotheses a state and operands that meet them.
-/
set_option Elab.async false
namespace Sys2Proof.Tests
open Sys2Proof Sys2Proof.Machine

/-- Objects given numbers. -/
def put (l : List (Nat × Nat × Nat)) (s : State) : State := l.foldl (fun s e => s.setNum e.1 e.2.1 e.2.2) s
/-- A boot stage (Table 17.1) before READY. -/
def atStage (k : Nat) : State := put [(0xB000, 1, k <<< 28)] State.reset
/-- READY in STANDBY, side A in control and side B in reserve, both fully powered, both safety channels giving their enable, the host
served. -/
def up : State := put [(0x6021, 1, 0x12000000), (0x7050, 1, 0x0FF0)]
  { atStage 8 with boot.serving := true, boot.fwStarted := true, safety.a.enable := true, safety.b.enable := true }
/-- A session of role 2 with SessionId 16. -/
def ses : State := { up with net.sessions := [(16, ⟨2, 2, 5, 9, [7], 0, 0, 0, 0⟩)] }
/-- A graph table of one instance (key 5, element 0x02, record 5), and a schedule that runs it each cycle in joist 15, lane 7. -/
def tables (s : State) (k : Nat) : State :=
  (s.setBlob (0x3100 + k) 1 (List.replicate 8 0 ++ [0, 1] ++ List.replicate 6 0 ++ [1, 0, 0, 5, 2, 0, 0, 5] ++ List.replicate 24 0)).setBlob (0x3100 + k) 2
    ([0, 0, 0, 0, 0, 1, 0, 0, 0, 0, 0, 0, 1, 1, 1] ++ List.replicate 17 0 ++ [15, 7, 0, 5, 0, 0, 0, 0, 0, 1, 0, 0, 0, 2, 0, 0])
/-- Slot 0 active with those tables, its anchor group running on side A. -/
def running (s : State) : State := { put [(0x3000, 2, 0)] (tables s 0) with plate.a.carriers := [(0, { Carrier.init with running := true })] }
/-- A cycle of it 1 µs old. -/
def late : State := { running up with now := 10 ^ 9, graphs.a.started := true }
/-- The same with a DRIVE of a compare word from the instance: its cycle has overrun. -/
def overrun : State :=
  late.setBlob 0x3100 1 (List.replicate 8 0 ++ [0, 2] ++ List.replicate 6 0 ++ [1, 0, 0, 5, 2, 0, 0, 5] ++ List.replicate 24 0 ++
    [5, 0, 0, 5] ++ List.replicate 28 0)
/-- Slot 0 active with an EXPORT entry: result 511, FIFO depth 4. -/
def withExport (s : State) : State :=
  put [(0x3000, 2, 0)] (s.setBlob 0x3100 1 (List.replicate 8 0 ++ [0, 1] ++ List.replicate 6 0 ++ [4, 0, 0, 0, 0, 1, 255, 4] ++ List.replicate 24 0))
/-- At a main tick of the side in control. -/
def ticking (s : State) : State := { s with now := 1, graphs.a.started := true, graphs.a.tickAt := 1 }
/-- At a main tick in a grid-forming state, a command waiting: the bus dead, the grid live, every permissive true. -/
def commanded (st code : Nat) : State :=
  { put [(0x4001, 3, st), (0x4010, 1, 511), (0x4010, 2, 510), (0x4010, 3, 510), (0x4010, 4, 510), (0x4010, 8, 510)] (ticking up) with
      graphs.a.results := [(510, { Result.init with v := 0x3F800000 }), (511, { Result.init with v := if code = 2 then 0x3F800000 else 0 })]
      gf.cmd := some (code, false, 0) }
/-- An identity block (Table 08.2) of one leg, its CRC computed outside the model. -/
def ident : List Nat :=
  [80, 83, 73, 49, 0, 1] ++ List.replicate 34 0 ++ [1, 255, 0, 0, 66, 200, 0, 0, 68, 72, 0, 0, 67, 22, 0, 0, 63, 128, 0, 0, 64, 160, 0, 0, 61, 204, 204, 205, 63, 128, 0, 0, 64, 0, 0, 0, 0, 0, 0, 0, 64, 160, 0, 0, 63, 128, 0, 0] ++
    List.replicate 164 0 ++ [60, 229, 235, 102]
/-- A life copy (Table 08.3) of that stack, its CRC computed outside the model. -/
def copyA : List Nat :=
  [80, 83, 76, 49] ++ List.replicate 12 0 ++ [0, 255, 255, 255, 255, 255, 255, 255, 255, 255, 255, 255, 255, 255, 255, 255, 60, 229, 235, 102] ++ List.replicate 216 0 ++
    [10, 161, 67, 169] ++ List.replicate 5120 0
/-- Stack 15 with leg 7 in wear group 15 as pair 71, its spare leg 6 idle. -/
def wearing (s : State) : State :=
  (((put [(0x9000, 1, 0x8000), (0x901F, 3, 0x8000), (0x901F, 1, 0x0F46FF), (0x5247, 1, 71 <<< 16)] s).setBlob 0x901F 2
    (List.replicate 41 0 ++ [6])).setBlob 0x901F 7 [255, 255, 255, 255, 255, 255, 3, 0]).setBlob 0x910F 2 [15, 7, 71, 255]
/-- Bands of a PLL of which band 0 alone covers 4 GHz. -/
def bands : List Nat := [0, 1, 255, 255] ++ List.replicate 124 0
/-- CONNECTED, physical pair 71 driven by logical pair 71 from side A, its GATE_H high. -/
def driven : State :=
  { put [(0x4001, 3, 2)] up with
      plate.pairs := [(71, { PlatePair.init with pair := 71, driving := true, h := true })]
      plate.a.carriers := [(7, { Carrier.init with running := true })] }


/-! ### WellFormed -/

/-- A message at the tops of its fields. -/
def goodMsg : Msg := ⟨3, 2 ^ 32 - 1, 2 ^ 16 - 1, [255]⟩
def badMsg : Msg := { goodMsg with data := [256] }
/-- A frame at the tops of its fields. -/
def goodFrame : Frame :=
  ⟨2 ^ 16 - 1, 2 ^ 12 - 1, 2 ^ 16 - 1, true, 2 ^ 48 - 1, 2 ^ 48 - 1, false, true, 2 ^ 16 - 1, true, 15, 255, 2 ^ 16 - 1, 2 ^ 64 - 1, 2 ^ 64 - 1,
   some goodMsg⟩
def badFrame : Frame := { goodFrame with sot := some badMsg }

/-- WellFormed, part 1: each command with one operand just out of its range is refused. -/
theorem test_ill_formed_1 : ([
    .powerGood 0 4, .romChecksComplete 0 64 3, .romChecksComplete 0 63 4, .loaderBlock 0 2 (2 ^ 32 - 1) (2 ^ 32 - 1) (2 ^ 16 - 1) [255],
    .loaderBlock 0 1 (2 ^ 32) (2 ^ 32 - 1) (2 ^ 16 - 1) [255], .loaderBlock 0 1 (2 ^ 32 - 1) (2 ^ 32) (2 ^ 16 - 1) [255],
    .loaderBlock 0 1 (2 ^ 32 - 1) (2 ^ 32 - 1) (2 ^ 16) [255], .loaderBlock 0 1 (2 ^ 32 - 1) (2 ^ 32 - 1) (2 ^ 16 - 1) [256],
    .loaderStatusOp 0 2 (2 ^ 32 - 1), .loaderStatusOp 0 1 (2 ^ 32), .loaderAbort 0 2 (2 ^ 32 - 1), .loaderAbort 0 1 (2 ^ 32),
    .bootLoad 0 (2 ^ 32) (2 ^ 16 - 1) [255], .bootLoad 0 (2 ^ 32 - 1) (2 ^ 16) [255], .bootLoad 0 (2 ^ 32 - 1) (2 ^ 16 - 1) [256], .bringUp 0 4,
    .bringUpComplete 0 [[255]] true, .bringUpComplete 0 [[255, 255, 255, 255, 255, 255, 255, 256]] true, .restart 0 (2 ^ 12),
    .imagePartWrite 0 7 [255], .imagePartWrite 0 6 [256], .tempHigh 0 7 (2 ^ 32 - 1) 9, .tempHigh 0 6 (2 ^ 32) 9,
    .tempCritical 0 7 (2 ^ 32 - 1) 9, .tempCritical 0 6 (2 ^ 32) 9, .railWarning 0 20 (2 ^ 32 - 1) 9, .railWarning 0 19 (2 ^ 32) 9,
    .railFault 0 20 (2 ^ 32 - 1) 9, .railFault 0 19 (2 ^ 32) 9,
    .trussLinkFrame 0 .B 0 [256], .syncCommand 0 (2 ^ 96), .decimAlignment 0 8, .decimationBoundary 0 .B 64, .stuckBits 0 .B 64,
    .modClockMissing 0 8, .feedbackDisagreement 0 64, .modelTimeExpiry 0 64, .samplingClockStart 0 8, .feedbackRecovery 0 64,
    .settlingCleared 0 .B 64] : List Instr).all (fun c => !c.wf) = true := by decide +kernel

/-- WellFormed, part 2: each command with one operand just out of its range is refused. -/
theorem test_ill_formed_2 : ([
    .bankSwapRequest 0 (2 ^ 16), .arcRefTriple 0 .B 4, .arcRefApply 0 .B 4, .arcRefStale 0 4, .comparatorFire 0 64 3, .comparatorFire 0 63 4,
    .blankWindowOpen 0 64 7, .blankWindowOpen 0 63 8, .blankWindowClose 0 64, .laneWake 0 .B 16 7, .laneWake 0 .B 15 8, .entryExecution 0 .B 8192,
    .graphSwitchRequest 0 (2 ^ 16), .resultRead 0 18 511 3, .resultRead 0 17 512 3, .resultRead 0 17 511 4, .resultFifoRead 0 18 511 3,
    .resultFifoRead 0 17 512 3, .resultFifoRead 0 17 511 4, .presetNow 0 2 1023, .presetNow 0 1 1024, .modeForceManual 0 2 1023,
    .modeForceManual 0 1 1024, .modeForceAutomatic 0 2 1023, .modeForceAutomatic 0 1 1024, .modeRelease 0 2 1023, .modeRelease 0 1 1024,
    .paramSwapRequest 0 (2 ^ 16), .breakerDinChange 0 (2 ^ 16), .carrierVertex 0 .B 8, .gateCommandEdge 0 .B 72, .deadTimeExpiry 0 .B 72,
    .carrierStart 0 (2 ^ 96), .carrierGroupStart 0 .B 8, .carrierStop 0 (2 ^ 8), .updateCommit 0 (2 ^ 32), .shadowWrite 0 72 5 (2 ^ 32 - 1),
    .shadowWrite 0 71 6 (2 ^ 32 - 1), .shadowWrite 0 71 5 (2 ^ 32), .faultInTrip 0 16 true] : List Instr).all (fun c => !c.wf) = true := by decide +kernel

/-- WellFormed, part 3: each command with one operand just out of its range is refused. -/
theorem test_ill_formed_3 : ([
    .disableMaskWrite 0 3 (2 ^ 32 - 1), .disableMaskWrite 0 2 (2 ^ 32), .overrideMapWrite 0 [256], .stackTransaction 0 16 true,
    .stretchTimeout 0 16, .pollTimeout 0 16, .stackReadDone 0 16 [255] [255] [255], .stackReadDone 0 15 [256] [255] [255],
    .stackReadDone 0 15 [255] [256] [255], .stackReadDone 0 15 [255] [255] [256], .flush 0 16 true, .rescan 0 16 true, .initRecord 0 16,
    .bringIn 0 16 7, .bringIn 0 15 8, .cancelBringIn 0 16, .lifeWriteInterval 0 16, .lifeWritten 0 16, .stackHours 0 16, .spareCrossingCheck 0 16,
    .spareSwapTimeout 0 16, .heartbeat 0 .B 2 (2 ^ 16 - 1) true, .heartbeat 0 .B 1 (2 ^ 16) true, .heartbeatMissing 0 .B 2,
    .mismatchResolution 0 [256] [248], .mismatchResolution 0 [248] [9], .laneTest 0 .B 16 8 true, .laneTest 0 .B 15 9 true,
    .eccError 0 .B true true (2 ^ 32), .pllFreqCheck 0 5 true, .sealReadingAccepted 0 8 true true 9, .sinFilterExpiry 0 8 true 9 3, .sinFilterExpiry 0 7 true 9 0, .sinFilterExpiry 0 7 true 9 4, .sinDiscrepancy 0 4,
    .soutRequestWrite 0 (2 ^ 8), .soutTestPulse 0 8, .soutTestEnd 0 8 true true, .soutStuckOn 0 8 true 9, .arbiterRequest 0 8 0 5 9 .B 9 9 true,
    .arbiterRequest 0 0 32 5 9 .B 9 9 true, .arbiterRequest 0 1 128 5 9 .B 9 9 true, .arbiterRequest 0 2 8 5 9 .B 9 9 true,
    .arbiterRequest 0 3 10 5 9 .B 9 9 true, .arbiterRequest 0 4 1 5 9 .B 9 9 true, .arbiterRequest 0 7 1 5 9 .B 9 9 true,
    .arbiterRequest 0 7 0 6 9 .B 9 9 true, .arbiterRequest 0 7 0 5 9 .B 9 (2 ^ 32) true, .arbiterRequest 0 7 0 1 9 .B 1 9 true] : List Instr).all (fun c => !c.wf) = true := by decide +kernel

/-- WellFormed, part 4: each command with one operand just out of its range is refused. -/
theorem test_ill_formed_4 : ([
    .semaphoreRequest 0 32 5 0 0, .semaphoreRequest 0 31 6 0 0, .semaphoreRelease 0 32 5 0, .semaphoreRelease 0 31 6 0, .semaphoreLeaseExpired 0 32, .incrementWrite 0 (2 ^ 64), .timeSet 0 (2 ^ 96), .timeAdjust 0 (2 ^ 64),
    .ptpSyncReceived 0 1 true 256 (2 ^ 96 - 1) (2 ^ 96 - 1) (2 ^ 64 - 1) (2 ^ 64 - 1), .ptpSyncReceived 0 2 true 255 (2 ^ 96 - 1) (2 ^ 96 - 1) (2 ^ 64 - 1) (2 ^ 64 - 1), .ptpSyncReceived 0 1 true 255 (2 ^ 96) (2 ^ 96 - 1) (2 ^ 64 - 1) (2 ^ 64 - 1),
    .ptpSyncReceived 0 1 true 255 (2 ^ 96 - 1) (2 ^ 96) (2 ^ 64 - 1) (2 ^ 64 - 1), .ptpSyncReceived 0 1 true 255 (2 ^ 96 - 1) (2 ^ 96 - 1) (2 ^ 64) (2 ^ 64 - 1),
    .ptpSyncReceived 0 1 true 255 (2 ^ 96 - 1) (2 ^ 96 - 1) (2 ^ 64 - 1) (2 ^ 64), .pathDelayMeasurement 0 2 (2 ^ 64 - 1),
    .pathDelayMeasurement 0 1 (2 ^ 64), .pathConfirm 0 2 (2 ^ 32 - 1), .pathConfirm 0 1 (2 ^ 32),
    .ptpAnnounceReceived 0 1 true 256 (2 ^ 64 - 1) (2 ^ 8 - 1) (2 ^ 8 - 1) (2 ^ 8 - 1) (2 ^ 16 - 1) (2 ^ 8 - 1) (2 ^ 16 - 1) (2 ^ 64 - 1),
    .ptpAnnounceReceived 0 2 true 255 (2 ^ 64 - 1) (2 ^ 8 - 1) (2 ^ 8 - 1) (2 ^ 8 - 1) (2 ^ 16 - 1) (2 ^ 8 - 1) (2 ^ 16 - 1) (2 ^ 64 - 1),
    .ptpAnnounceReceived 0 1 true 255 (2 ^ 64) (2 ^ 8 - 1) (2 ^ 8 - 1) (2 ^ 8 - 1) (2 ^ 16 - 1) (2 ^ 8 - 1) (2 ^ 16 - 1) (2 ^ 64 - 1),
    .ptpAnnounceReceived 0 1 true 255 (2 ^ 64 - 1) (2 ^ 8) (2 ^ 8 - 1) (2 ^ 8 - 1) (2 ^ 16 - 1) (2 ^ 8 - 1) (2 ^ 16 - 1) (2 ^ 64 - 1),
    .ptpAnnounceReceived 0 1 true 255 (2 ^ 64 - 1) (2 ^ 8 - 1) (2 ^ 8) (2 ^ 8 - 1) (2 ^ 16 - 1) (2 ^ 8 - 1) (2 ^ 16 - 1) (2 ^ 64 - 1),
    .ptpAnnounceReceived 0 1 true 255 (2 ^ 64 - 1) (2 ^ 8 - 1) (2 ^ 8 - 1) (2 ^ 8) (2 ^ 16 - 1) (2 ^ 8 - 1) (2 ^ 16 - 1) (2 ^ 64 - 1),
    .ptpAnnounceReceived 0 1 true 255 (2 ^ 64 - 1) (2 ^ 8 - 1) (2 ^ 8 - 1) (2 ^ 8 - 1) (2 ^ 16) (2 ^ 8 - 1) (2 ^ 16 - 1) (2 ^ 64 - 1),
    .ptpAnnounceReceived 0 1 true 255 (2 ^ 64 - 1) (2 ^ 8 - 1) (2 ^ 8 - 1) (2 ^ 8 - 1) (2 ^ 16 - 1) (2 ^ 8) (2 ^ 16 - 1) (2 ^ 64 - 1),
    .ptpAnnounceReceived 0 1 true 255 (2 ^ 64 - 1) (2 ^ 8 - 1) (2 ^ 8 - 1) (2 ^ 8 - 1) (2 ^ 16 - 1) (2 ^ 8 - 1) (2 ^ 16) (2 ^ 64 - 1),
    .ptpAnnounceReceived 0 1 true 255 (2 ^ 64 - 1) (2 ^ 8 - 1) (2 ^ 8 - 1) (2 ^ 8 - 1) (2 ^ 16 - 1) (2 ^ 8 - 1) (2 ^ 16 - 1) (2 ^ 64), .announceTimeout 0 2,
    .ppsInEdge 0 (2 ^ 96), .ptpSyncSend 0 2, .refSwitchCommand 0 (2 ^ 8), .refDisagree 0 (2 ^ 32), .pllStart 0 5, .pllLock 0 5, .pllRetryBand 0 5,
    .pllSweep 0 5, .pllSweepDone 0 5 [255], .pllSweepDone 0 4 [256], .pllLockLost 0 5 true, .clkoutStart 0 (2 ^ 16), .clkoutStop 0 (2 ^ 16)] : List Instr).all (fun c => !c.wf) = true := by decide +kernel

/-- WellFormed, part 5: each command with one operand just out of its range is refused. -/
theorem test_ill_formed_5 : ([
    .clkoutGateOpen 0 8, .clkoutGateClose 0 8, .arm 0 (2 ^ 8) 17, .arm 0 (2 ^ 8 - 1) 18, .disarm 0 (2 ^ 8), .trigger 0 (2 ^ 8), .release 0 4096,
    .captureRow 0 .B 8 (2 ^ 96 - 1) (2 ^ 17 - 1), .captureRow 0 .B 7 (2 ^ 96) (2 ^ 17 - 1), .captureRow 0 .B 7 (2 ^ 96 - 1) (2 ^ 17),
    .streamBacklogHalving 0 8, .captureStreamSend 0 8, .segmentHoldExpiry 0 .B 4096, .segmentSelect 0 18 (2 ^ 16 - 1),
    .segmentSelect 0 17 (2 ^ 16), .segmentRowsRead 0 18, .hoursSeed 0 (2 ^ 32), .powerCycleSeed 0 (2 ^ 32), .histogramSample 0 64,
    .histogramClear 0 (2 ^ 64), .scribeNote 0 [256], .scribeTokenRefill 0 257, .scribeRecordsRead 0 18, .compatRecordsRead 0 18,
    .startCounters 0 8, .stopCounters 0 8, .clearCounters 0 8, .counterWrite 0 112 (2 ^ 32 - 1), .counterWrite 0 111 (2 ^ 32),
    .counterReadLatch 0 18 111, .counterReadLatch 0 17 112, .counterOverflow 0 112 0, .tagRecord 0 .B 16 [], .tagRecordsRead 0 18 .B, .frameReceived 0 2 goodFrame,
    .frameReceived 0 1 badFrame, .arpRequest 0 2 (2 ^ 32 - 1), .arpRequest 0 1 (2 ^ 32), .icmpEcho 0 2 (2 ^ 32 - 1), .icmpEcho 0 1 (2 ^ 32),
    .lanFault 0 2] : List Instr).all (fun c => !c.wf) = true := by decide +kernel

/-- WellFormed, part 6: each command with one operand just out of its range is refused. -/
theorem test_ill_formed_6 : ([
    .ringFault 0 2, .portLinkChange 0 2 true, .identify 0 badMsg, .keyLoad 0 badMsg, .openSession 0 badMsg, .closeSession 0 badMsg,
    .readObjects 0 badMsg, .writeObjects 0 badMsg, .keepalive 0 badMsg, .sourceBlockEnd 0 (2 ^ 32), .sessionIdleTimeout 0 17,
    .bootSend 0 (2 ^ 16) goodMsg, .bootSend 0 (2 ^ 16 - 1) badMsg, .beginSet 0 18 (2 ^ 32 - 1), .beginSet 0 17 (2 ^ 32), .commitSet 0 18,
    .abortSet 0 18, .configObjectWrite 0 18 (2 ^ 24 - 1) [255], .configObjectWrite 0 17 (2 ^ 24) [255], .configObjectWrite 0 17 (2 ^ 24 - 1) [256],
    .objectWrite 0 18 (2 ^ 24 - 1) [255], .objectWrite 0 17 (2 ^ 24) [255], .objectWrite 0 17 (2 ^ 24 - 1) [256],
    .segmentedWriteTimeout 0 18 (2 ^ 24 - 1), .segmentedWriteTimeout 0 17 (2 ^ 24), .snapshotTimeout 0 18 (2 ^ 24 - 1),
    .snapshotTimeout 0 17 (2 ^ 24), .pendingClear 0 [256], .countClear 0 [256], .notifyHoldoffExpiry 0 18,
    .samplingEdge 0 8 (2 ^ 9 - 1) (2 ^ 9 - 1) (2 ^ 9 - 1), .samplingEdge 0 7 (2 ^ 9) (2 ^ 9 - 1) (2 ^ 9 - 1),
    .samplingEdge 0 7 (2 ^ 9 - 1) (2 ^ 9) (2 ^ 9 - 1), .samplingEdge 0 7 (2 ^ 9 - 1) (2 ^ 9 - 1) (2 ^ 9), .plateMinOnExpiry 0 72,
    .sensorUpdate 0 48 (2 ^ 32 - 1), .sensorUpdate 0 47 (2 ^ 32), .ptpDelayRequestSend 0 2, .ptpAnnounceSend 0 2] : List Instr).all (fun c => !c.wf) = true := by decide +kernel

/-- WellFormed, part 1: each command with every checked operand at the top of its range is well formed. -/
theorem test_well_formed_1 : ([
    .powerGood 0 3, .romChecksComplete 0 63 3, .loaderBlock 0 1 (2 ^ 32 - 1) (2 ^ 32 - 1) (2 ^ 16 - 1) [255], .loaderStatusOp 0 1 (2 ^ 32 - 1),
    .loaderAbort 0 1 (2 ^ 32 - 1), .bootLoad 0 (2 ^ 32 - 1) (2 ^ 16 - 1) [255], .bringUp 0 3,
    .bringUpComplete 0 [[255, 255, 255, 255, 255, 255, 255, 255]] true, .restart 0 (2 ^ 12 - 1), .imagePartWrite 0 6 [255],
    .tempHigh 0 6 (2 ^ 32 - 1) 9, .tempCritical 0 6 (2 ^ 32 - 1) 9, .railWarning 0 19 (2 ^ 32 - 1) 9, .railFault 0 19 (2 ^ 32 - 1) 9,
    .trussLinkFrame 0 .B 0 [255], .syncCommand 0 (2 ^ 96 - 1), .decimAlignment 0 7, .decimationBoundary 0 .B 63, .stuckBits 0 .B 63,
    .modClockMissing 0 7, .feedbackDisagreement 0 63, .modelTimeExpiry 0 63, .samplingClockStart 0 7, .feedbackRecovery 0 63,
    .settlingCleared 0 .B 63, .bankSwapRequest 0 (2 ^ 16 - 1), .arcRefTriple 0 .B 3, .arcRefApply 0 .B 3, .arcRefStale 0 3, .comparatorFire 0 63 3,
    .blankWindowOpen 0 63 7, .blankWindowClose 0 63, .laneWake 0 .B 15 7, .entryExecution 0 .B 8191, .graphSwitchRequest 0 (2 ^ 16 - 1),
    .resultRead 0 17 511 3, .resultFifoRead 0 17 511 3, .presetNow 0 1 1023, .modeForceManual 0 1 1023, .modeForceAutomatic 0 1 1023] : List Instr).all (fun c => c.wf) = true := by decide +kernel

/-- WellFormed, part 2: each command with every checked operand at the top of its range is well formed. -/
theorem test_well_formed_2 : ([
    .modeRelease 0 1 1023, .paramSwapRequest 0 (2 ^ 16 - 1), .breakerDinChange 0 (2 ^ 16 - 1), .carrierVertex 0 .B 7, .gateCommandEdge 0 .B 71,
    .deadTimeExpiry 0 .B 71, .carrierStart 0 (2 ^ 96 - 1), .carrierGroupStart 0 .B 7, .carrierStop 0 (2 ^ 8 - 1), .updateCommit 0 (2 ^ 32 - 1),
    .shadowWrite 0 71 5 (2 ^ 32 - 1), .faultInTrip 0 15 true, .disableMaskWrite 0 2 (2 ^ 32 - 1), .overrideMapWrite 0 [255],
    .stackTransaction 0 15 true, .stretchTimeout 0 15, .pollTimeout 0 15, .stackReadDone 0 15 [255] [255] [255], .flush 0 15 true,
    .rescan 0 15 true, .initRecord 0 15, .bringIn 0 15 7, .cancelBringIn 0 15, .lifeWriteInterval 0 15, .lifeWritten 0 15, .stackHours 0 15,
    .spareCrossingCheck 0 15, .spareSwapTimeout 0 15, .heartbeat 0 .B 1 (2 ^ 16 - 1) true, .heartbeatMissing 0 .B 1,
    .mismatchResolution 0 [248] [248], .laneTest 0 .B 15 8 true, .eccError 0 .B true true (2 ^ 32 - 1), .pllFreqCheck 0 4 true,
    .sealReadingAccepted 0 7 true true 9, .sinFilterExpiry 0 7 true 9 3, .sinDiscrepancy 0 3, .soutRequestWrite 0 (2 ^ 8 - 1), .soutTestPulse 0 7, .soutTestEnd 0 7 true true, .soutStuckOn 0 7 true 9] : List Instr).all (fun c => c.wf) = true := by decide +kernel

/-- WellFormed, part 3: each command with every checked operand at the top of its range is well formed. -/
theorem test_well_formed_3 : ([
    .arbiterRequest 0 7 0 5 9 .B 9 (2 ^ 32 - 1) true, .arbiterRequest 0 0 31 1 9 .B 0 9 true, .arbiterRequest 0 1 127 5 9 .B 9 9 true,
    .arbiterRequest 0 2 7 5 9 .B 9 9 true, .arbiterRequest 0 3 9 5 9 .B 9 9 true, .semaphoreRequest 0 31 5 0 0, .semaphoreRelease 0 31 5 0,
    .semaphoreLeaseExpired 0 31, .incrementWrite 0 (2 ^ 64 - 1), .timeSet 0 (2 ^ 96 - 1), .timeAdjust 0 (2 ^ 64 - 1),
    .ptpSyncReceived 0 1 true 255 (2 ^ 96 - 1) (2 ^ 96 - 1) (2 ^ 64 - 1) (2 ^ 64 - 1), .pathDelayMeasurement 0 1 (2 ^ 64 - 1),
    .pathConfirm 0 1 (2 ^ 32 - 1),
    .ptpAnnounceReceived 0 1 true 255 (2 ^ 64 - 1) (2 ^ 8 - 1) (2 ^ 8 - 1) (2 ^ 8 - 1) (2 ^ 16 - 1) (2 ^ 8 - 1) (2 ^ 16 - 1) (2 ^ 64 - 1),
    .announceTimeout 0 1, .ppsInEdge 0 (2 ^ 96 - 1), .ptpSyncSend 0 1, .refSwitchCommand 0 (2 ^ 8 - 1), .refDisagree 0 (2 ^ 32 - 1), .pllStart 0 4,
    .pllLock 0 4, .pllRetryBand 0 4, .pllSweep 0 4, .pllSweepDone 0 4 [255], .pllLockLost 0 4 true, .clkoutStart 0 (2 ^ 16 - 1),
    .clkoutStop 0 (2 ^ 16 - 1), .clkoutGateOpen 0 7, .clkoutGateClose 0 7, .arm 0 (2 ^ 8 - 1) 17, .disarm 0 (2 ^ 8 - 1), .trigger 0 (2 ^ 8 - 1),
    .release 0 4095, .captureRow 0 .B 7 (2 ^ 96 - 1) (2 ^ 17 - 1), .streamBacklogHalving 0 7, .captureStreamSend 0 7, .segmentHoldExpiry 0 .B 4095,
    .segmentSelect 0 17 (2 ^ 16 - 1), .segmentRowsRead 0 17, .hoursSeed 0 (2 ^ 32 - 1), .powerCycleSeed 0 (2 ^ 32 - 1), .histogramSample 0 63,
    .histogramClear 0 (2 ^ 64 - 1)] : List Instr).all (fun c => c.wf) = true := by decide +kernel

/-- WellFormed, part 4: each command with every checked operand at the top of its range is well formed. -/
theorem test_well_formed_4 : ([
    .scribeNote 0 [255], .scribeTokenRefill 0 256, .scribeRecordsRead 0 17, .compatRecordsRead 0 17, .startCounters 0 7, .stopCounters 0 7,
    .clearCounters 0 7, .counterWrite 0 111 (2 ^ 32 - 1), .counterReadLatch 0 17 111, .counterOverflow 0 111 0, .tagRecord 0 .B 15 [], .tagRecordsRead 0 17 .B,
    .frameReceived 0 1 goodFrame, .arpRequest 0 1 (2 ^ 32 - 1), .icmpEcho 0 1 (2 ^ 32 - 1), .lanFault 0 1, .ringFault 0 1,
    .portLinkChange 0 1 true, .identify 0 goodMsg, .keyLoad 0 goodMsg, .openSession 0 goodMsg, .closeSession 0 goodMsg, .readObjects 0 goodMsg,
    .writeObjects 0 goodMsg, .keepalive 0 goodMsg, .sourceBlockEnd 0 (2 ^ 32 - 1), .sessionIdleTimeout 0 16, .bootSend 0 (2 ^ 16 - 1) goodMsg,
    .beginSet 0 17 (2 ^ 32 - 1), .commitSet 0 17, .abortSet 0 17, .configObjectWrite 0 17 (2 ^ 24 - 1) [255], .objectWrite 0 17 (2 ^ 24 - 1) [255],
    .segmentedWriteTimeout 0 17 (2 ^ 24 - 1), .snapshotTimeout 0 17 (2 ^ 24 - 1), .pendingClear 0 [255], .countClear 0 [255],
    .notifyHoldoffExpiry 0 17, .samplingEdge 0 7 (2 ^ 9 - 1) (2 ^ 9 - 1) (2 ^ 9 - 1), .plateMinOnExpiry 0 71, .sensorUpdate 0 47 (2 ^ 32 - 1)] : List Instr).all (fun c => c.wf) = true := by decide +kernel

/-- WellFormed, part 5: each command with every checked operand at the top of its range is well formed. -/
theorem test_well_formed_5 : ([
    .ptpDelayRequestSend 0 1, .ptpAnnounceSend 0 1] : List Instr).all (fun c => c.wf) = true := by decide +kernel
/-- WellFormed: each field of a message out of its width. -/
theorem test_ill_formed_messages : [{ goodMsg with path := 0 }, { goodMsg with path := 4 }, { goodMsg with ip := 2 ^ 32 }, { goodMsg with udp := 2 ^ 16 },
    { goodMsg with path := 1, ip := 0 }, { goodMsg with path := 1, udp := 0 }, badMsg].all (fun m => !m.wf) = true ∧ goodMsg.wf = true := by decide
/-- WellFormed: each field of a frame out of its width, and a message of the boot port in a frame. -/
theorem test_ill_formed_frames : [{ goodFrame with etherType := 2 ^ 16 }, { goodFrame with vlan := 2 ^ 12 }, { goodFrame with src := 2 ^ 48 },
    { goodFrame with dst := 2 ^ 48 }, { goodFrame with rseq := 2 ^ 16 }, { goodFrame with ptpType := 16 }, { goodFrame with correction := 2 ^ 64 },
    { goodFrame with residence := 2 ^ 64 }, badFrame, { goodFrame with sot := some ⟨1, 0, 0, [255]⟩ }].all (fun f => !f.wf) = true ∧
    goodFrame.wf = true := by decide

/-! ### Single facts, each against the manual's own figures or the named standard's own vector -/

/-- The outcome is a next state of which `p` holds. -/
def nextIs (o : Host.Outcome State Fault Refusal) (p : State → Bool) : Bool := match o with | .next s' => p s' | _ => false
/-- A pending event. -/
def pend (s : State) (e : Nat) : Bool := blobBit (s.blob 0x1200 1) e
/-- The bytes of a number. -/
def hex (n v : Nat) : List Nat := (List.range n).map (fun i => v / 256 ^ (n - 1 - i) % 256)

/-- Chapter 02's example: channel 0 at 20 MHz, order 3, D = 20, one 15-tap linear-phase bank (its centre tap alone), CicNorm 8 589 935. -/
def example02 : State :=
  put [(0x2001, 1, 0x80000000 + 20000), (0x2100, 1, 0x8000), (0x2100, 2, 3 * 512 + 20), (0x2100, 3, 8589935), (0x2200, 0x81, 15),
    (0x2200, 1, 0), (0x2200, 8, 0x40000000)] State.reset
/-- Its CicShift 13 (20³ = 8000 ≤ 8192), its GroupDelay 8 607 500 ps, and full scale 8000 normalised to 0x4000_0033. -/
theorem test_channel_of_the_example :
    cicShift example02 0 = 13 ∧ groupDelay example02 0 0 = 8607500 ∧ cicNormal example02 0 8000 = 0x40000033 := by decide +kernel
/-- Convergent rounding of two bits (the table of chapter 02). -/
theorem test_convergent_rounding :
    convDiv 6 4 = 2 ∧ convDiv 10 4 = 2 ∧ convDiv 11 4 = 3 ∧ convDiv (-6) 4 = -2 ∧ convDiv (-10) 4 = -2 := by decide
/-- Chapter 06's example: 3.2 MVA at 690 V gives 2677.6 A and 0.1488 Ω (the nearest F32 of 3.2e6 / (√3 · 690) and of 690² / 3.2e6). -/
theorem test_bases_of_the_example :
    let s := commitBases (put [(0x4000, 1, 0x4A435000), (0x4000, 2, 0x442C8000)] State.reset)
    s.num 0x4000 4 = 0x45275910 ∧ s.num 0x4000 5 = 0x3E185A1D := by decide +kernel
/-- Chapter 07's example: DeadH and DeadL 25 600 steps, MinHalf 38 400: PlateMinOn is 12 800 steps, 1.0 µs. -/
theorem test_plate_minimum_on :
    plateMinOn (put [(0x5200, 2, 25600 * 65536 + 25600), (0x5120, 4, 38400)] State.reset) 0 = usFs 1 := by decide +kernel
/-- Table 09.8, the fourth missing heartbeat on the second path: side A is SUSPECT, side B IN_CONTROL, EV_033 (a carrier group has yet to change). -/
theorem test_takeover :
    nextIs (exec (.heartbeatMissing 0 .A 1) { driven with ridge := rns 375, sides.a.p1.missing := 4, sides.a.p2.missing := 3 })
      (fun s => s.sideState .A == 3 && s.sideState .B == 1 && pend s 33) = true := by decide +kernel
set_option maxRecDepth 100000 in
/-- Table 12.13, the row of 12.0 s: PathConfirm 130 ns gives Asymmetry 130 ns, the held value 2410 ns, EV_196, and ends the hold. -/
theorem test_path_confirm :
    nextIs (exec (.pathConfirm 0 0 (130 * 65536))
        { put [(0x7028, 2, 0x4000)] up with ptp := [(0, { PtpPort.init with sinceSuspect := List.replicate 12 (2410 * 65536) })] })
      (fun s => s.num 0x7028 4 == 130 * 65536 && s.num 0x7028 3 == 2410 * 65536 && pend s 196 && !s.bit 0x7028 2 14) = true := by
  decide +kernel
set_option maxRecDepth 100000 in
/-- Chapter 18's example: EvtRoute byte 15 is 0x70 after power-up and 0xF0 then; EV_127 drives EVT_N low in the second case only. -/
theorem test_evt_n_of_the_example :
    nth 0 (up.blob 0x1200 4) 15 = 0x70 ∧ (up.occur 127 0 0 0).evtLow = false ∧
      ((up.setBlob 0x1200 4 ((up.blob 0x1200 4).set 15 0xF0)).occur 127 0 0 0).evtLow = true := by decide +kernel
/-- R226, R227: a FAULT_IN trip takes a driven pair to high impedance in the same step. -/
theorem test_trip_releases_gates :
    nextIs (exec (.faultInTrip 0 15 true) (put [(0x5310, 1, 0x8000)] driven)) (fun s => s.plate.pairs.all (fun e => !e.2.driving && !e.2.h && !e.2.l)) = true
    := by decide +kernel
/-- R339: at power-up's Increment, 40 ns of device time add 40 ns of ridge time. -/
theorem test_ridge_time : nextIs (exec (.gfIdleEvaluation 40000000) State.reset) (fun s => s.ridge == 40 * 2 ^ 32) = true := by decide +kernel
/-- A T96 of 1 s, 999 999 999 ns and a half is that time, and its number is its T96 again (Table 16.2). -/
theorem test_t96 :
    ofT96 (1 * 2 ^ 48 + 999999999 * 2 ^ 16 + 2 ^ 15) = 1999999999 * 2 ^ 32 + 2 ^ 31 ∧
      toT96 (1999999999 * 2 ^ 32 + 2 ^ 31) = 1 * 2 ^ 48 + 999999999 * 2 ^ 16 + 2 ^ 15 := by decide +kernel
/-- The check value of CRC-32 (IEEE 802.3) of "123456789". -/
theorem test_crc32 : crc32 [49, 50, 51, 52, 53, 54, 55, 56, 57] = 0xCBF43926 := by decide +kernel
/-- FIPS 180-4: SHA-256 of "abc". -/
theorem test_sha256 :
    sha256 [97, 98, 99] = hex 32 0xba7816bf8f01cfea414140de5dae2223b00361a396177a9cb410ff61f20015ad := by decide +kernel
/-- RFC 4231, test case 1: HMAC-SHA-256 of "Hi There" under twenty bytes 0x0b. -/
theorem test_hmac :
    hmac (List.replicate 20 0x0b) [72, 105, 32, 84, 104, 101, 114, 101] =
      hex 32 0xb0344c61d8db38535ca8afceaf0bf12b881dc200c9833da726e9376c2e32cff7 := by decide +kernel
/-- FIPS 186-4, curve P-256: the public key of 1 is the base point, uncompressed. -/
theorem test_public_key : publicKey 1 = 4 :: (hex 32 p256Gx ++ hex 32 p256Gy) := by decide +kernel
/-- A command at the front of the queue runs and leaves it; the one behind it waits. -/
theorem test_step_takes_the_front :
    nextIs (step { State.reset with pending := [.romChecksComplete 0 5 3, .fwStart 0] })
      (fun s => s.stage == 1 && s.num 0x1000 5 == 5 && s.pending == [.fwStart 0]) = true := by decide +kernel
/-- The opcode table gives no row any bits: no word spells a command, and a state keeps its queue. -/
theorem test_no_word_spells_a_command : decodeTableWord 32 0xFFFFFFFF = none ∧ State.reset.withFetchWord 32 0xFFFFFFFF = State.reset :=
  ⟨rfl, rfl⟩

/-! ### Witnesses of the other statements -/

/-- Every command answers a next state in every state, so the hypothesis of a frame and of an invariant is met wherever its others are. -/
theorem witness_a_next_state (c : Instr) (s : State) : ∃ s', exec c s = .next s' := by cases c <;> exact ⟨_, rfl⟩
theorem witness_EmptyQueueIdles : ∃ s : State, s.pending = [] := ⟨State.reset, rfl⟩
theorem witness_IllFormedCommandsOnlyPassTime : ∃ c : Instr, c.wf = false := ⟨.powerGood 0 4, rfl⟩
/-- A driven pair stays driven through a step, so both invariants of the plate are about more than pairs in high impedance. -/
theorem witness_EveryStepLeavesThePlateSafe : ∃ s s' : State, step s = .next s' ∧ s.pending ≠ [] ∧
    (s'.plate.pairs.any (fun e => e.2.driving && e.2.h && s'.mayDrive .A e.2.pair)) = true := by
  obtain ⟨s', e⟩ := witness_a_next_state (.loaderStatus 0) driven
  have k : nextIs (exec (.loaderStatus 0) driven) (fun s' => s'.plate.pairs.any (fun e => e.2.driving && e.2.h && s'.mayDrive .A e.2.pair)) = true := by
    decide +kernel
  rw [e] at k
  exact ⟨{ driven with pending := [.loaderStatus 0] }, s', e, by decide, k⟩
theorem witness_PlateSafe : ∃ s : State, PlateSafe s ∧ s.plate.pairs ≠ [] :=
  ⟨driven, by unfold PlateSafe; decide +kernel, by decide⟩
theorem witness_GatesAreNeverDrivenTogether : ∃ s s' : State, step s = .next s' ∧ PlateSound s ∧ s.plate.pairs ≠ [] := by
  obtain ⟨s', e⟩ := witness_a_next_state (.loaderStatus 0) driven
  exact ⟨{ driven with pending := [.loaderStatus 0] }, s', e, by unfold PlateSound GatesSound; decide +kernel, by decide⟩
theorem witness_PlateDrivesOnlyWhileItsConditionsHold : ∃ (c : Instr) (s s' : State), exec c s = .next s' ∧
    ∃ e ∈ s'.plate.pairs, e.2.driving = true := by
  obtain ⟨s', e⟩ := witness_a_next_state (.loaderStatus 0) driven
  have k : nextIs (exec (.loaderStatus 0) driven) (fun s' => s'.plate.pairs.any (fun e => e.2.driving)) = true := by decide +kernel
  rw [e] at k
  exact ⟨_, _, s', e, List.any_eq_true.mp k⟩
/-- Each clause of the interlock, a rise and a fall at the last instant that allows it. -/
theorem witness_PlateKeepsDeadTimeAndMinimumOn :
    (let q := (interlock 100 40 50 0 { PlatePair.init with fallL := 60 } true false).1; q.h = true ∧ q.riseH = 100) ∧
    (interlock 99 40 50 0 { PlatePair.init with fallL := 60 } true false).1.h = false ∧
    (let q := (interlock 100 40 50 0 { PlatePair.init with fallH := 50 } false true).1; q.l = true ∧ q.riseL = 100) ∧
    (interlock 99 40 50 0 { PlatePair.init with fallH := 50 } false true).1.l = false ∧
    (let q := (interlock 100 0 0 30 { PlatePair.init with h := true, riseH := 70 } false false).1; q.h = false ∧ q.fallH = 100) ∧
    (interlock 99 0 0 30 { PlatePair.init with h := true, riseH := 70 } false false).1.h = true ∧
    (let q := (interlock 100 0 0 30 { PlatePair.init with l := true, riseL := 70 } false false).1; q.l = false ∧ q.fallL = 100) ∧
    (interlock 99 0 0 30 { PlatePair.init with l := true, riseL := 70 } false false).1.l = true := by decide
/-- Up to an instant just before an accepted RESTART. -/
theorem witness_Standing : ∃ (c : Instr) (s s' : State), exec c s = .next s' ∧ Standing s c.time ∧ s.boot.restartAt = some 10 := by
  obtain ⟨s', e⟩ := witness_a_next_state (.loaderStatus 9) { up with boot.restartAt := some 10 }
  exact ⟨_, _, s', e, fun r h => by cases h; decide, rfl⟩
theorem witness_RidgeTimeAdvancesByIncrement : ∃ s', exec (.fwStart 0) (atStage 5) = .next s' ∧ Standing (atStage 5) 0 := by
  obtain ⟨s', e⟩ := witness_a_next_state (.fwStart 0) (atStage 5)
  exact ⟨s', e, fun r h => by cases h⟩
theorem witness_OnlyASeedWritesPowerCycles : ∃ s s' : State, exec (.powerCycleSeed 0 7) s = .next s' ∧ Standing s 0 ∧
    (s.arrive 0).bit 0x8100 3 14 = true := by
  obtain ⟨s', e⟩ := witness_a_next_state (.powerCycleSeed 0 7) (put [(0x8100, 3, 0x4000)] up)
  exact ⟨_, s', e, (fun r h => nomatch (show none = some r from h)), by decide +kernel⟩
theorem witness_AnOccurrenceIsPendingCountedAndStamped : ∃ (s : State) (e : Nat), e < 256 ∧ (s.blob 0x1200 1).length = 32 ∧
    (s.blob 0x1200 2).length = 512 ∧ (s.blob 0x1200 7).length = 6144 := ⟨up, 255, by decide +kernel⟩
/-- The owner's slot, another's, a slot in which only C5 asks, and C5's own. -/
theorem witness_AScratchSlotGoesToItsOwnerThenTheLowestClass : ∃ (k pos : Nat) (tables : List Nat × Nat) (c : Nat),
    nth 0xFF tables.1 pos = c ∧ c < 6 ∧
    (∃ a : Arbiter, (∀ q ∈ a.reqs, q.cls < 6) ∧ ∃ q ∈ a.reqs, q.cls = c) ∧
    (∃ a : Arbiter, (∀ q ∈ a.reqs, q.cls < 6) ∧ (∀ q ∈ a.reqs, q.cls ≠ c) ∧ (decideSlot 0 k pos tables a).1 = some 4) ∧
    (∃ a : Arbiter, a.reqs ≠ [] ∧ (∀ q ∈ a.reqs, q.cls < 6) ∧ (decideSlot 0 k pos tables a).1 = none) ∧
    (∃ a : Arbiter, (∀ q ∈ a.reqs, q.cls < 6) ∧ (decideSlot 0 k 63 tables a).1 = some 5) :=
  ⟨0, 0, tablesIn State.reset 0 0, 0, by decide +kernel, by decide,
   ⟨{ Arbiter.init with reqs := [⟨5, 1, 0, true, 0⟩, ⟨0, 1, 0, false, 0⟩] }, by decide, by decide⟩,
   ⟨{ Arbiter.init with reqs := [⟨5, 1, 0, true, 0⟩, ⟨4, 1, 0, true, 0⟩] }, by decide, by decide, by decide +kernel⟩,
   ⟨{ Arbiter.init with reqs := [⟨5, 1, 0, true, 0⟩] }, by decide, by decide, by decide +kernel⟩,
   ⟨{ Arbiter.init with reqs := [⟨5, 1, 0, true, 0⟩, ⟨0, 1, 0, true, 0⟩] }, by decide, by decide +kernel⟩⟩
/-- Each check of a write at an object that fails it and passes those before it. -/
theorem witness_AWriteIsCheckedInTheOrderOfTheManual :
    rowOf 0x123401 = none ∧
    (∃ o, rowOf 0x100002 = some o ∧ o.kind = .ro) ∧
    (∃ (w : Sender) (o : ObjRow), rowOf 0x800004 = some o ∧ o.kind ≠ .ro ∧ w.writes o.right = false) ∧
    (∃ (w : Sender) (o : ObjRow), rowOf 0x800004 = some o ∧ o.kind ≠ .ro ∧ w.writes o.right = true ∧ badSize 0x8000 4 o [] = true) ∧
    (∃ (w : Sender) (o : ObjRow), rowOf 0x800004 = some o ∧ o.kind = .imm ∧ w.writes o.right = true ∧ badSize 0x8000 4 o [3] = false ∧
      immOutside up 0x8000 4 (beNat [3]) [3] = true) ∧
    (∃ (w : Sender) (o : ObjRow), rowOf 0x220081 = some o ∧ o.kind = .cfg ∧ w.writes o.right = true ∧ badSize 0x2200 0x81 o [255] = false ∧
      setRefusal w up ≠ 0) :=
  ⟨by decide +kernel, ⟨(rowOf 0x100002).get (by decide +kernel), by decide +kernel⟩,
   ⟨⟨16, 16, some 0⟩, (rowOf 0x800004).get (by decide +kernel), by decide +kernel⟩,
   ⟨⟨16, 16, some 1⟩, (rowOf 0x800004).get (by decide +kernel), by decide +kernel⟩,
   ⟨⟨16, 16, some 1⟩, (rowOf 0x800004).get (by decide +kernel), by decide +kernel⟩,
   ⟨⟨16, 16, some 2⟩, (rowOf 0x220081).get (by decide +kernel), by decide +kernel⟩⟩
/-- An alignment pending (1 below t_a), for both commands that are ignored, and one at its end. -/
theorem witness_SynchronisationIsIgnoredWhileAnAlignmentIsPending :
    (∃ (s : State) (t : Nat) (a : Align) (r : Bool), let b := s.arrive t; (b.blob 0x1200 1).length = 32 ∧ a ∈ b.meas.aligns ∧ b.ridgeFine < a.ta ∧
      b.bit 0x2310 1 15 = true ∧ r = (!b.bit 0x2310 1 14) ∧ Instr.wf (.syncInEdge t r) = true) ∧
    (∃ (s : State) (t at96 : Nat) (a : Align), let b := s.arrive t; (b.blob 0x1200 1).length = 32 ∧ at96 < 2 ^ 96 ∧ a ∈ b.meas.aligns ∧
      b.ridgeFine < a.ta ∧ hostOk b = true ∧ Instr.wf (.syncCommand t at96) = true) ∧
    (∃ (s : State) (t : Nat), let b := s.arrive t; (b.blob 0x1200 1).length = 32 ∧ b.meas.aligns ≠ [] ∧ (∀ a ∈ b.meas.aligns, a.ta ≤ b.ridgeFine) ∧
      hostOk b = true ∧ Instr.wf (.syncCommand t 0) = true) :=
  ⟨⟨{ put [(0x2310, 1, 0x8000)] up with meas.aligns := [⟨1, true, false, 0, false, none⟩] }, 0, ⟨1, true, false, 0, false, none⟩, true, by decide +kernel⟩,
   ⟨{ up with meas.aligns := [⟨1, true, false, 0, false, none⟩] }, 0, 2 ^ 96 - 1, ⟨1, true, false, 0, false, none⟩, by decide +kernel⟩,
   ⟨{ up with meas.aligns := [⟨0, true, false, 0, false, some 0⟩] }, 0, by decide +kernel⟩⟩
theorem witness_ConfigurationChangesOnlyAtACommit : ∃ (s s' : State) (k : Nat) (o : ObjRow), exec (.arm 0 255 17) s = .next s' ∧ Standing s 0 ∧
    rowOf k = some o ∧ o.kind = .cfg ∧ [(⟨0x2100, 0x213F, 4, 4⟩ : Objs), ⟨0x3400, 0x3BFF, 4, 4⟩, ⟨0x7028, 0x7029, 4, 4⟩, ⟨0x7030, 0x7030, 6, 6⟩,
      ⟨0x8110, 0x814F, 1, 1⟩].any (·.has k) = false := by
  obtain ⟨s', e⟩ := witness_a_next_state (.arm 0 255 17) (put [(0x8017, 1, 0x80000000)] up)
  exact ⟨_, s', 0x801701, (rowOf 0x801701).get (by decide +kernel), e, (fun r h => nomatch (show none = some r from h)), by decide +kernel⟩
/-- The hypothesis of the frames at a command of each: it answers a next state. -/
theorem witness_frames : (∃ s', exec (.fwStart 0) (atStage 5) = .next s') ∧ (∃ s', exec (.handover 0) up = .next s') ∧
    (∃ s', exec (.syncCommand 0 0) up = .next s') ∧ (∃ s', exec (.fastTick 0 .A) (running up) = .next s') ∧
    (∃ s', exec (.faultInTrip 0 15 true) driven = .next s') ∧ (∃ s', exec (.rescan 0 15 true) up = .next s') ∧
    (∃ s', exec (.safetyReset 0 100000) up = .next s') ∧ (∃ s', exec (.leapSecond 0) up = .next s') ∧
    (∃ s', exec (.arm 0 255 17) up = .next s') ∧ (∃ s', exec (.keepalive 0 ⟨3, 1, 1, []⟩) ses = .next s') := by
  refine ⟨?_, ?_, ?_, ?_, ?_, ?_, ?_, ?_, ?_, ?_⟩ <;> exact witness_a_next_state _ _

/-! ### Witnesses of the completion statements, one for every clause, at boundary values -/

/-- Witnesses of `Obligations.PowerUpCompletes`: a state and operands for every clause. -/
theorem witness_PowerUpCompletes :
    (∃ (_ : State) (t : Nat) (m : _), m < 4 ∧ Instr.wf (.powerGood t m) = true) ∧
    (∃ (s : State) (t : Nat) (straps : _) (m : _), let b := s.arrive t; straps < 64 ∧ m < 4 ∧ b.stage = 0 ∧ Instr.wf (.romChecksComplete t straps m) =
      true) ∧
    (∃ (s : State) (t : Nat) (k : _), let b := s.arrive t; 1 ≤ k ∧ k < p256N ∧ b.stage = 1 ∧ Instr.wf (.pufDerivation t k k) = true) ∧
    (∃ (s : State) (t : Nat) (k1 : _) (k2 : _), let b := s.arrive t; k1 ≠ k2 ∧ b.stage = 1 ∧ b.boot.pufTries = 3 ∧ Instr.wf (.pufDerivation t k1 k2) =
      true) ∧
    (∃ (s : State) (t : Nat), let b := s.arrive t; b.stage = 4 ∧ Instr.wf (.imageVerify t) = true) ∧
    (∃ (s : State) (t : Nat), let b := s.arrive t; b.stage = 5 ∧ Instr.wf (.fwStart t) = true) :=
  ⟨⟨State.reset, 0, 3, by decide +kernel⟩,
   ⟨State.reset, 0, 63, 3, by decide +kernel⟩,
   ⟨atStage 1, 0, p256N - 1, by decide +kernel⟩,
   ⟨{ atStage 1 with boot.pufTries := 3 }, 0, 1, 2, by decide +kernel⟩,
   ⟨atStage 4, 0, by decide +kernel⟩,
   ⟨atStage 5, 0, by decide +kernel⟩⟩

/-- Witnesses of `Obligations.LoaderCompletes`: a state and operands for every clause. -/
theorem witness_LoaderCompletes :
    (∃ (s : State) (t : Nat) (port : _) (ip : _) (data : _), let b := s.arrive t; port < 2 ∧ ip < 2 ^ 32 ∧ bytesOk data = true ∧ data.length = 1024 ∧
      b.stage = 3 ∧ bootPortServed b port = true ∧ b.boot.claim = some (2 + port) ∧ b.boot.absorbTo ≤ b.now ∧ b.boot.nextOffset = b.boot.image.length
      ∧ 256 ≤ b.boot.image.length ∧ b.boot.image.length + 1024 < 256 + field b.boot.image 8 4 ∧ b.boot.image.length < 2 ^ 32 ∧ Instr.wf (.loaderBlock
      t port ip b.boot.nextOffset 1024 data) = true) ∧
    (∃ (s : State) (t : Nat) (port : _) (ip : _), let b := s.arrive t; port < 2 ∧ ip < 2 ^ 32 ∧ 2 ≤ b.stage ∧ b.stage ≤ 4 ∧ bootPortServed b port =
      true ∧ Instr.wf (.loaderStatusOp t port ip) = true) ∧
    (∃ (s : State) (t : Nat) (port : _) (ip : _), let b := s.arrive t; port < 2 ∧ ip < 2 ^ 32 ∧ b.stage = 3 ∧ bootPortServed b port = true ∧
      b.boot.claim = some (2 + port) ∧ Instr.wf (.loaderAbort t port ip) = true) ∧
    (∃ (s : State) (t : Nat) (off : _) (len : _) (data : _), let b := s.arrive t; off < 2 ^ 32 ∧ len < 2 ^ 16 ∧ bytesOk data = true ∧ b.stage = 3 ∧
      b.boot.claim = some 1 ∧ b.boot.absorbTo ≤ b.now ∧ off ≠ b.boot.nextOffset ∧ Instr.wf (.bootLoad t off len data) = true) ∧
    (∃ (s : State) (t : Nat) (off : _) (len : _) (data : _), let b := s.arrive t; off < 2 ^ 32 ∧ len < 2 ^ 16 ∧ bytesOk data = true ∧ b.stage = 3 ∧
      b.boot.claim = some 1 ∧ b.now < b.boot.absorbTo ∧ Instr.wf (.bootLoad t off len data) = true) ∧
    (∃ (s : State) (t : Nat) (data : _), let b := s.arrive t; bytesOk data = true ∧ data.length = 4096 ∧ b.stage = 2 ∧ b.boot.claim = none ∧
      b.boot.absorbTo ≤ b.now ∧ b.boot.nextOffset = 0 ∧ b.boot.image = [] ∧ field data 0 4 = 0x494D4731 ∧ 4096 ≤ field data 8 4 ∧ field data 8 4 ≤
      6291456 ∧ Instr.wf (.bootLoad t 0 4096 data) = true) ∧
    (∃ (s : State) (t : Nat), let b := s.arrive t; 2 ≤ b.stage ∧ Instr.wf (.loaderStatus t) = true) ∧
    (∃ (s : State) (t : Nat), let b := s.arrive t; b.stage = 3 ∧ b.boot.lastBlock + secFs 10 ≤ b.now ∧ Instr.wf (.loaderIdleTimeout t) = true) :=
  ⟨⟨{ put [(0x7103, 3, 0x8000), (0x7104, 3, 0x8000)] (atStage 3) with boot.claim := some 3, boot.image := List.replicate 8 0 ++ [0, 0, 8, 0] ++ List.replicate 244 0, boot.nextOffset := 256 },
     0, 1, 0xFFFFFFFF, List.replicate 1024 255, by decide +kernel⟩,
   ⟨put [(0x7103, 3, 0x8000), (0x7104, 3, 0x8000)] (atStage 4), 0, 1, 0xFFFFFFFF, by decide +kernel⟩,
   ⟨{ put [(0x7103, 3, 0x8000), (0x7104, 3, 0x8000)] (atStage 3) with boot.claim := some 3 }, 0, 1, 0xFFFFFFFF, by decide +kernel⟩,
   ⟨{ atStage 3 with boot.claim := some 1, boot.nextOffset := 1024 }, 0, 0xFFFFFFFF, 65535, [255], by decide +kernel⟩,
   ⟨{ atStage 3 with boot.claim := some 1, boot.absorbTo := 1 }, 0, 0xFFFFFFFF, 65535, [255], by decide +kernel⟩,
   ⟨atStage 2, 0, [0x49, 0x4D, 0x47, 0x31, 0, 0, 0, 0, 0, 0, 16, 0] ++ List.replicate 4084 0, by decide +kernel⟩,
   ⟨atStage 2, 0, by decide +kernel⟩,
   ⟨{ atStage 3 with now := 10 ^ 16 }, 0, by decide +kernel⟩⟩

/-- Witnesses of `Obligations.ManagementCompletes`: a state and operands for every clause. -/
theorem witness_ManagementCompletes :
    (∃ (s : State) (t : Nat) (m : _), let b := s.arrive t; m < 4 ∧ hostOk b = true ∧ b.stage = 6 ∧ b.net.openSet = none ∧ Instr.wf (.bringUp t m) =
      true) ∧
    (∃ (s : State) (t : Nat), let b := s.arrive t; hostOk b = true ∧ ((b.stage = 8 ∧ b.stopped = true) ∨ b.stage = 15) ∧ b.boot.restartAt = none ∧
      Instr.wf (.restart t 0x782) = true) ∧
    (∃ (s : State) (t : Nat) (c : _), let b := s.arrive t; c < 2 ^ 12 ∧ c ≠ 0x782 ∧ hostOk b = true ∧ ((b.stage = 8 ∧ b.stopped = true) ∨ b.stage =
      15) ∧ Instr.wf (.restart t c) = true) ∧
    (∃ (s : State) (t : Nat) (c : _), let b := s.arrive t; c < 2 ^ 12 ∧ hostOk b = true ∧ b.stage = 8 ∧ b.stopped = false ∧ Instr.wf (.restart t c) =
      true) ∧
    (∃ (s : State) (t : Nat) (r : _), s.boot.restartAt = some r ∧ r ≤ t) ∧
    (∃ (s : State) (t : Nat) (internal : _), let b := s.arrive t; hostOk b = true ∧ b.net.openSet = none ∧ Instr.wf (.islandWatchdog t internal) =
      true) ∧
    (∃ (s : State) (t : Nat), let b := s.arrive t; b.boot.islandDown = true ∧ b.net.queue = [] ∧ Instr.wf (.islandRestartDone t) = true) ∧
    (∃ (s : State) (t : Nat) (part : _) (data : _), let b := s.arrive t; part < 7 ∧ bytesOk data = true ∧ data.length ≤ blobMax ∧ hostOk b = true ∧
      Instr.wf (.imagePartWrite t part data) = true) ∧
    (∃ (s : State) (t : Nat), let b := s.arrive t; hostOk b = true ∧ b.boot.active = 0 ∧ Instr.wf (.imageVerifyCommand t) = true) ∧
    (∃ (s : State) (t : Nat), let b := s.arrive t; hostOk b = true ∧ switchRefused b = false ∧ b.boot.switchAt = none ∧ Instr.wf (.imageSwitch t) =
      true) ∧
    (∃ (s : State) (t : Nat), let b := s.arrive t; hostOk b = true ∧ switchRefused b = true ∧ (b.blob 0x1200 1).length = 32 ∧ Instr.wf (.imageSwitch
      t) = true) ∧
    (∃ (s : State) (t : Nat) (q : _), let b := s.arrive t; s.boot.restartAt = none ∧ s.boot.switchAt = some q ∧ q ≤ b.ridge) ∧
    (∃ (s : State) (t : Nat), let b := s.arrive t; hostOk b = true ∧ b.boot.active = 0 ∧ Instr.wf (.imageDiscard t) = true) :=
  ⟨⟨{ atStage 6 with boot.serving := true }, 0, 3, by decide +kernel⟩,
   ⟨up, 0, by decide +kernel⟩,
   ⟨up, 0, 4095, by decide +kernel⟩,
   ⟨driven, 0, 4095, by decide +kernel⟩,
   ⟨{ up with boot.restartAt := some 0 }, 0, 0, by decide +kernel⟩,
   ⟨up, 0, true, by decide +kernel⟩,
   ⟨{ up with boot.islandDown := true }, 0, by decide +kernel⟩,
   ⟨up, 0, 6, [255], by decide +kernel⟩,
   ⟨up, 0, by decide +kernel⟩,
   ⟨put [(0xB200, 9, 2 <<< 24)] up, 0, by decide +kernel⟩,
   ⟨up, 0, by decide +kernel⟩,
   ⟨{ up with boot.switchAt := some 0 }, 0, 0, by decide +kernel⟩,
   ⟨up, 0, by decide +kernel⟩⟩

/-- Witnesses of `Obligations.SupplyCompletes`: a state and operands for every clause. -/
theorem witness_SupplyCompletes :
    (∃ (s : State) (t : Nat), let b := s.arrive t; b.stage = 7 ∧ pllLocked b 0 = true ∧ sideUsable b .A true = true ∧ sideUsable b .B true = true ∧
      b.fld 0x6000 1 2 0 = 0 ∧ b.bit 0x6010 1 15 = false ∧ Instr.wf (.bringUpComplete t [] true) = true) ∧
    (∃ (s : State) (t : Nat) (n : _) (v : _) (h : _), let b := s.arrive t; n < 7 ∧ v < 2 ^ 32 ∧ 100000000 ≤ h ∧ b.boot.tempEpisodes.testBit n = false
      ∧ L32.le (b.num 0xB010 2) v = true ∧ Instr.wf (.tempHigh t n v h) = true) ∧
    (∃ (s : State) (t : Nat) (n : _) (v : _) (h : _), let b := s.arrive t; n < 6 ∧ v < 2 ^ 32 ∧ 10000000 ≤ h ∧ L32.le 0x42FA0000 v = true ∧
      b.boot.critEpisodes.testBit n = false ∧ b.ready = false ∧ Instr.wf (.tempCritical t n v h) = true) ∧
    (∃ (s : State) (t : Nat) (v : _) (h : _), let b := s.arrive t; v < 2 ^ 32 ∧ 10000000 ≤ h ∧ L32.le 0x42FA0000 v = true ∧
      b.boot.critEpisodes.testBit 6 = false ∧ b.ready = true ∧ b.gfState ≠ 6 ∧ Instr.wf (.tempCritical t 6 v h) = true) ∧
    (∃ (s : State) (t : Nat) (n : _) (v : _) (h : _), let b := s.arrive t; n < 7 ∧ v < 2 ^ 32 ∧ (h < 10000000 ∨ b.boot.critEpisodes.testBit n = true)
      ∧ Instr.wf (.tempCritical t n v h) = true) ∧
    (∃ (s : State) (t : Nat) (n : _) (v : _) (h : _), let b := s.arrive t; 8 ≤ n ∧ n < 20 ∧ v < 2 ^ 32 ∧ 1000000 ≤ h ∧ railGood 3 n v = false ∧
      b.boot.railEpisodes.testBit n = false ∧ Instr.wf (.railWarning t n v h) = true) ∧
    (∃ (s : State) (t : Nat) (n : _) (v : _) (h : _), let b := s.arrive t; 8 ≤ n ∧ n < 16 ∧ v < 2 ^ 32 ∧ 100000 ≤ h ∧ railGood 6 n v = false ∧
      b.boot.critEpisodes.testBit n = false ∧ b.ready = false ∧ Instr.wf (.railFault t n v h) = true) ∧
    (∃ (s : State) (t : Nat) (n : _) (v : _) (h : _), let b := s.arrive t; 16 ≤ n ∧ n < 20 ∧ v < 2 ^ 32 ∧ 100000 ≤ h ∧ railGood 6 n v = false ∧
      b.boot.critEpisodes.testBit n = false ∧ b.ready = true ∧ b.gfState ≠ 6 ∧ Instr.wf (.railFault t n v h) = true) ∧
    (∃ (s : State) (t : Nat), let b := s.arrive t; b.ready = true ∧ b.gfState ≠ 6 ∧ Instr.wf (.vddRidgeLoss t) = true) ∧
    (∃ (s : State) (t : Nat), let b := s.arrive t; b.ready = true ∧ b.gfState ≠ 6 ∧ Instr.wf (.ridgeFault t) = true) ∧
    (∃ (s : State) (t : Nat), let b := s.arrive t; b.ready = false ∧ b.stage ≠ 15 ∧ Instr.wf (.ridgeFault t) = true) ∧
    (∃ (s : State) (t : Nat) (n : _) (v : _), let b := s.arrive t; n < 32 ∧ v < 2 ^ 32 ∧ hostOk b = true ∧ sensorListed n = true ∧ (b.ready = false ∨
      6 ≤ n ∨ b.powered (sideOf (n % 2)) = true) ∧ Instr.wf (.sensorUpdate t n v) = true) ∧
    (∃ (s : State) (t : Nat) (n : _) (v : _), let b := s.arrive t; n < 6 ∧ v < 2 ^ 32 ∧ hostOk b = true ∧ b.ready = true ∧ b.powered (sideOf (n % 2))
      = false ∧ Instr.wf (.sensorUpdate t n v) = true) ∧
    (∃ (s : State) (t : Nat) (n : _) (v : _), let b := s.arrive t; 32 ≤ n ∧ n < 36 ∧ v < 2 ^ 32 ∧ hostOk b = true ∧ Instr.wf (.sensorUpdate t n v) =
      true) :=
  ⟨⟨{ put [(0xB000, 1, 7 <<< 28), (0x7100, 3, 0x8000), (0x7101, 3, 0x8000), (0x7102, 3, 0x8000), (0x7103, 3, 0x8000), (0x7104, 3, 0x8000), (0x6010, 1, 0)] State.reset with sides.a.usable := true, sides.b.usable := true },
     0, by decide +kernel⟩,
   ⟨up, 0, 6, 0x42FA0000, 100000000, by decide +kernel⟩,
   ⟨atStage 6, 0, 5, 0x42FA0000, 10000000, by decide +kernel⟩,
   ⟨up, 0, 0x42FA0000, 10000000, by decide +kernel⟩,
   ⟨up, 0, 6, 0xFFFFFFFF, 9999999, by decide +kernel⟩,
   ⟨up, 0, 19, 0, 1000000, by decide +kernel⟩,
   ⟨atStage 6, 0, 15, 0, 100000, by decide +kernel⟩,
   ⟨up, 0, 19, 0, 100000, by decide +kernel⟩,
   ⟨up, 0, by decide +kernel⟩,
   ⟨up, 0, by decide +kernel⟩,
   ⟨atStage 6, 0, by decide +kernel⟩,
   ⟨up, 0, 19, 0xFFFFFFFF, by decide +kernel⟩,
   ⟨put [(0x6021, 1, 0x10000000)] up, 0, 5, 0xFFFFFFFF, by decide +kernel⟩,
   ⟨up, 0, 35, 0xFFFFFFFF, by decide +kernel⟩⟩

/-- Witnesses of `Obligations.SamplingCompletes`: a state and operands for every clause. -/
theorem witness_SamplingCompletes :
    (∃ (s : State) (t : Nat) (g : _), let b := s.arrive t; g < 8 ∧ groupEnabled b g = true ∧ (b.group g).running = false ∧ Instr.wf
      (.samplingClockStart t g) = true) ∧
    (∃ (s : State) (t : Nat) (g : _) (x : _) (y : _) (r : _), let b := s.arrive t; g < 8 ∧ x < 2 ^ 9 ∧ y < 2 ^ 9 ∧ r < 2 ^ 9 ∧ groupEnabled b g =
      true ∧ (b.group g).running = true ∧ (b.group g).restart = false ∧ Instr.wf (.samplingEdge t g x y r) = true) ∧
    (∃ (s : State) (t : Nat), let b := s.arrive t; b.bit 0x2310 1 15 = true ∧ b.bit 0x2310 1 14 = false ∧ pllLocked b 0 = true ∧ alignPending b =
      false ∧ Instr.wf (.syncInEdge t true) = true) ∧
    (∃ (s : State) (t : Nat), let b := s.arrive t; hostOk b = true ∧ alignPending b = false ∧ Instr.wf (.syncCommand t 0) = true) ∧
    (∃ (s : State) (t : Nat) (a : _), let b := s.arrive t; a ∈ b.meas.aligns ∧ a.command = true ∧ a.pulsed = false ∧ a.ta ≤ b.ridge + rns 960 ∧ b.bit
      0x2310 1 13 = true ∧ Instr.wf (.syncOutPulse t) = true) ∧
    (∃ (s : State) (t : Nat) (a : _) (g : _), let b := s.arrive t; g < 8 ∧ a ∈ b.meas.aligns ∧ a.awaits g = true ∧ (b.group g).running = true ∧
      Instr.wf (.decimAlignment t g) = true) ∧
    (∃ (s : State) (t : Nat) (a : _) (m : _) (g : _), let b := s.arrive t; g < 8 ∧ b.meas.aligns = [a] ∧ a.taking = some m ∧ m.testBit g = true ∧
      (b.group g).running = true ∧ a.groups.testBit g = false ∧ Instr.wf (.decimAlignment t g) = true) ∧
    (∃ (s : State) (t : Nat) (x : _) (c : _), let b := s.arrive t; c < 64 ∧ b.feeds x = true ∧ chanEnabled b c = true ∧ (b.chain x c).due = true ∧
      b.fld (0x2100 + c) 7 15 0 = 0 ∧ Instr.wf (.decimationBoundary t x c) = true) ∧
    (∃ (s : State) (t : Nat) (g : _), let b := s.arrive t; g < 8 ∧ groupEnabled b g = true ∧ (b.group g).missing = false ∧ (b.group g).last + 64 * 10
      ^ 12 / max 1 (modKHz b g) ≤ b.now ∧ Instr.wf (.modClockMissing t g) = true) ∧
    (∃ (s : State) (t : Nat) (x : _) (c : _), let b := s.arrive t; c < 64 ∧ b.feeds x = true ∧ (b.chain x c).settling = false ∧ (b.chain x c).faultQ
      = true ∧ (b.feedback c).declared = 0 ∧ Instr.wf (.settlingCleared t x c) = true) :=
  ⟨⟨put [(0x2001, 8, 0x80000000)] up, 0, 7, by decide +kernel⟩,
   ⟨{ put [(0x2001, 8, 0x80000000)] up with meas.groups := [(7, { ClockGroup.init with running := true })] }, 0, 7, 511, 511, 511,
     by decide +kernel⟩,
   ⟨put [(0x2310, 1, 0x8000), (0x7100, 3, 0x8000)] up, 0, by decide +kernel⟩,
   ⟨up, 0, by decide +kernel⟩,
   ⟨{ put [(0x2310, 1, 0x2000)] up with meas.aligns := [⟨rns 960, true, false, 0, false, none⟩] }, 0, ⟨rns 960, true, false, 0, false, none⟩, by decide +kernel⟩,
   ⟨{ put [(0x2001, 8, 0x80000000)] up with
        meas.aligns := [⟨0, true, false, 0, false, some 128⟩, ⟨rns 960, true, false, 0, false, none⟩],
        meas.groups := [(7, { ClockGroup.init with running := true })] },
     0, ⟨0, true, false, 0, false, some 128⟩, 7, by decide +kernel⟩,
   ⟨{ put [(0x2001, 8, 0x80000000)] up with
        meas.aligns := [⟨0, true, false, 0, false, some 128⟩], meas.groups := [(7, { ClockGroup.init with running := true })] },
     0, ⟨0, true, false, 0, false, some 128⟩, 128, 7, by decide +kernel⟩,
   ⟨{ put [(0x2001, 8, 0x80000000), (0x213F, 1, 0xBF3F), (0x213F, 7, 0)] up with meas.chains := [(127, { Chain.init with due := true })] }, 0, .B,
     63, by decide +kernel⟩,
   ⟨{ put [(0x2001, 8, 0x80000000)] up with now := 10 ^ 16 }, 0, 7, by decide +kernel⟩,
   ⟨{ up with meas.chains := [(127, { Chain.init with faultQ := true })] }, 0, .B, 63, by decide +kernel⟩⟩

/-- Witnesses of `Obligations.FeedbackCompletes`: a state and operands for every clause. -/
theorem witness_FeedbackCompletes :
    (∃ (s : State) (t : Nat) (x : _) (c : _), let b := s.arrive t; c < 64 ∧ b.feeds x = true ∧ b.inService x = true ∧ b.inService (otherSide x) =
      false ∧ chanEnabled b c = true ∧ 64 ≤ (b.chain x c).run ∧ ((b.feedback c).rep x).1 = 0 ∧ (b.feedback c).declared = 0 ∧ Instr.wf (.stuckBits
      t x c) = true) ∧
    (∃ (s : State) (t : Nat) (c : _), let b := s.arrive t; c < 64 ∧ b.ready = true ∧ b.sideState .A = 1 ∧ b.sideState .B = 2 ∧ (b.feedback c).repA ≠ 0
      ∧ (b.feedback c).repB = 0 ∧ (b.feedback c).declared = 0 ∧ (b.feedback c).atA + usFs 2 ≤ b.now ∧ (b.feedback c).atA < (b.chain .B c).outAt ∧
      (b.chain .B c).faultQ = false ∧ Instr.wf (.feedbackDisagreement t c) = true) ∧
    (∃ (s : State) (t : Nat) (c : _) (u : _), let b := s.arrive t; c < 64 ∧ (b.feedback c).modelUntil = some u ∧ u ≤ b.now ∧ (b.feedback c).declared ≠
      0 ∧ b.gfState ≠ 6 ∧ Instr.wf (.modelTimeExpiry t c) = true) ∧
    (∃ (s : State) (t : Nat) (c : _), let b := s.arrive t; c < 64 ∧ (∀ x, b.inService x = true → condPresent b x c = false) ∧ ((b.feedback c).repA ≠ 0
      ∨ (b.feedback c).repB ≠ 0 ∨ (b.feedback c).declared ≠ 0) ∧ Instr.wf (.feedbackRecovery t c) = true) ∧
    (∃ (s : State) (t : Nat) (g : _), let b := s.arrive t; g < 8 ∧ hostOk b = true ∧ swapRefused b g = false ∧ Instr.wf (.bankSwapRequest t (2 ^ g)) =
      true) :=
  ⟨⟨{ put [(0x2001, 8, 0x80000000), (0x213F, 1, 0xBF3F), (0x6021, 1, 0x04000000 + 0x10000000)] up with meas.chains := [(63, { Chain.init with run := 64 })] },
     0, .A, 63, by decide +kernel⟩,
   ⟨{ up with now := usFs 2 + 1, meas.feedback := [(63, { Feedback.init with repA := 1, atA := 1 })], meas.chains := [(127, { Chain.init with outAt := 2 })] },
     0, 63, by decide +kernel⟩,
   ⟨{ up with meas.feedback := [(63, { Feedback.init with declared := 1, modelUntil := some 0 })] }, 0, 63, 0, by decide +kernel⟩,
   ⟨{ up with meas.feedback := [(63, { Feedback.init with declared := 1 })] }, 0, 63,
     ⟨by decide +kernel, fun x => by cases x <;> decide +kernel, by decide +kernel, by decide +kernel⟩⟩,
   ⟨put [(0x2001, 8, 0x80000000), (0x213F, 1, 0xBF3F), (0x213F, 4, 0xE000), (0x227F, 0x83, 1)] up, 0, 7, by decide +kernel⟩⟩

/-- Witnesses of `Obligations.ArcChordCompletes`: a state and operands for every clause. -/
theorem witness_ArcChordCompletes :
    (∃ (s : State) (t : Nat) (x : _) (d : _) (q : _), let b := s.arrive t; d < 4 ∧ b.feeds x = true ∧ (b.graph x).triples = [(d, q)] ∧ b.ridgeFine ≤
      applyAt b q ∧ Instr.wf (.arcRefTriple t x d) = true) ∧
    (∃ (s : State) (t : Nat) (x : _) (d : _) (q : _), let b := s.arrive t; d < 4 ∧ b.feeds x = true ∧ (b.graph x).triples = [(d, q)] ∧ applyAt b q <
      b.ridgeFine ∧ Instr.wf (.arcRefTriple t x d) = true) ∧
    (∃ (s : State) (t : Nat) (x : _) (d : _) (q : _) (l : _), let b := s.arrive t; d < 4 ∧ b.feeds x = true ∧ (b.arc x d).held = q :: l ∧ applyAt b q
      ≤ b.ridgeFine ∧ q.grid.toNat = arcWanted b d ∧ Instr.wf (.arcRefApply t x d) = true) ∧
    (∃ (s : State) (t : Nat) (d : _), let b := s.arrive t; d < 4 ∧ b.plate.halted = false ∧ b.feeds b.reporter = true ∧ (b.arc b.reporter d).src < 2 ∧
      (b.arc b.reporter d).line.isSome = true ∧ (b.arc b.reporter d).stale = false ∧ max (b.arc b.reporter d).lastApply b.plate.resumedAt + usFs
      (b.num (0x2500 + d) 5) ≤ b.now ∧ Instr.wf (.arcRefStale t d) = true) ∧
    (∃ (s : State) (t : Nat) (c : _) (k : _), let b := s.arrive t; c < 64 ∧ k < 4 ∧ (b.comp c k).due = true ∧ compAction b c k = 2 ∧ b.gfState ≠ 6 ∧
      Instr.wf (.comparatorFire t c k) = true) ∧
    (∃ (s : State) (t : Nat) (c : _) (k : _), let b := s.arrive t; c < 64 ∧ k < 4 ∧ (b.comp c k).due = true ∧ compAction b c k ≠ 2 ∧ Instr.wf
      (.comparatorFire t c k) = true) ∧
    (∃ (s : State) (t : Nat) (c : _) (g : _), let b := s.arrive t; c < 64 ∧ g < 8 ∧ b.bit (0x2600 + c) 6 (8 + g) = true ∧ blankFs b c ≠ 0 ∧ (b.blank
      c).isOpen = false ∧ (∀ o, (b.blank c).openedAt = some o → o + 2 * blankFs b c ≤ b.now) ∧ Instr.wf (.blankWindowOpen t c g) = true) ∧
    (∃ (s : State) (t : Nat) (c : _) (o : _), let b := s.arrive t; c < 64 ∧ (b.blank c).openedAt = some o ∧ (b.blank c).isOpen = true ∧ o + blankFs b
      c ≤ b.now ∧ Instr.wf (.blankWindowClose t c) = true) :=
  ⟨⟨{ up with graphs.b.triples := [(3, ⟨false, 0, 0, 5⟩)] }, 0, .B, 3, ⟨false, 0, 0, 5⟩, by decide +kernel⟩,
   ⟨{ up with ridge := 10 ^ 30, graphs.b.triples := [(3, ⟨false, 0, 0, 5⟩)] }, 0, .B, 3, ⟨false, 0, 0, 5⟩, by decide +kernel⟩,
   ⟨{ put [(0x2503, 1, 0)] up with ridge := 10 ^ 30, meas.arcs := [(7, { Arc.init with held := [⟨false, 0, 0, 5⟩] })] }, 0, .B, 3,
     ⟨false, 0, 0, 5⟩, [], by decide +kernel⟩,
   ⟨{ up with now := 10 ^ 18, meas.arcs := [(3, { Arc.init with src := 1, line := some ⟨0, 0, 0⟩ })] }, 0, 3, by decide +kernel⟩,
   ⟨{ put [(0x263F, 5, 2 <<< 30)] up with meas.comps := [(255, { Comparator.init with due := true })] }, 0, 63, 3, by decide +kernel⟩,
   ⟨{ up with meas.comps := [(255, { Comparator.init with due := true })] }, 0, 63, 3, by decide +kernel⟩,
   ⟨put [(0x263F, 6, 0x80FF)] up, 0, 63, 7, by
    refine ⟨by decide, by decide, by decide +kernel, by decide +kernel, by decide +kernel, ?_, by decide⟩
    have e : ((put [(0x263F, 6, 0x80FF)] up).arrive 0).blank 63 = Blank.init := by decide +kernel
    intro o h
    rw [e] at h
    cases h⟩,
   ⟨{ put [(0x263F, 6, 0x80FF)] up with now := nsFs 5100, meas.blanks := [(63, ⟨some 0, true⟩)] }, 0, 63, 0, by decide +kernel⟩⟩

/-- Witnesses of `Obligations.GraphCompletes`: a state and operands for every clause. -/
theorem witness_GraphCompletes :
    (∃ (s : State) (t : Nat) (x : _) (k : _) (v : _), let b := s.arrive t; b.feeds x = true ∧ b.plate.halted = false ∧ switchNow b = none ∧
      b.activeSlot = some k ∧ tickDue b x (slotSched b k) = some v ∧ Instr.wf (.fastTick t x) = true) ∧
    (∃ (s : State) (t : Nat) (x : _) (j : _) (l : _), let b := s.arrive t; j < 16 ∧ l < 8 ∧ b.feeds x = true ∧ (((List.range 9).filter (lanePowered b
      x j))[l]?).isSome = true ∧ wakeDue b x j l = true ∧ (b.graph x).awake.contains (j * 8 + l) = false ∧ Instr.wf (.laneWake t x j l) = true) ∧
    (∃ (s : State) (t : Nat) (x : _) (n : _) (k : _) (e : _) (d : _) (u : _), let b := s.arrive t; n < 8192 ∧ b.feeds x = true ∧ b.plate.halted =
      false ∧ b.activeSlot = some k ∧ (b.graph x).started = true ∧ (dueEntries b x k (b.graph x).index).find? (fun p => p.1 == n) = some (n, e) ∧
      laneClockDue b x (seStart e + seCost e) = true ∧ (b.graph x).done.contains n = false ∧ ((b.graph x).compared && (comparePath (slotGraph b
      k)).contains (seKey e)) = false ∧ instEntry (slotGraph b k) (seKey e) = some d ∧ runPart x k d (sePart e) b = some u ∧ Instr.wf
      (.entryExecution t x n) = true) ∧
    (∃ (s : State) (t : Nat) (x : _) (k : _), let b := s.arrive t; b.feeds x = true ∧ b.plate.halted = false ∧ b.activeSlot = some k ∧ (b.graph
      x).started = true ∧ (b.graph x).compared = false ∧ laneClockDue b x (schCompare (slotSched b k)) = true ∧ overrunJoists b x k = [] ∧ (b.graph
      (otherSide x)).overran = false ∧ Instr.wf (.compareWriter t x) = true) ∧
    (∃ (s : State) (t : Nat) (x : _) (i : _) (m : _), let b := s.arrive t; s.boot.restartAt = none ∧ (s.graph x).commits = some (i, m) ∧ i ≤ b.now) ∧
    (∃ (s : State) (t : Nat) (x : _) (k : _), let b := s.arrive t; b.feeds x = true ∧ b.plate.halted = false ∧ b.activeSlot = some k ∧ (b.graph
      x).started = true ∧ (b.graph x).compared = false ∧ laneClockDue b x (schCompare (slotSched b k)) = true ∧ overrunJoists b x k ≠ [] ∧ b.control
      = some x ∧ b.inService (otherSide x) = false ∧ 1 ≤ (b.graph x).overruns ∧ b.gfState ≠ 6 ∧ Instr.wf (.compareWriter t x) = true) ∧
    (∃ (s : State) (t : Nat) (w : _), let b := s.arrive t; w < 2 ^ 16 ∧ hostOk b = true ∧ slotRefused b (w % 2) = false ∧ Instr.wf
      (.graphSwitchRequest t w) = true) ∧
    (∃ (s : State) (t : Nat) (k : _), let b := s.arrive t; switchNow b = some k ∧ k < 2 ∧ Instr.wf (.graphSwitch t) = true) ∧
    (∃ (s : State) (t : Nat) (g : _), let b := s.arrive t; g < 16 ∧ hostOk b = true ∧ paramRefused b g = false ∧ Instr.wf (.paramSwapRequest t (2 ^
      g)) = true) :=
  ⟨⟨{ running up with now := 10 ^ 14 }, 0, .A, 0,
     (tickDue (State.arrive ({ running up with now := 10 ^ 14 }) 0) .A (slotSched (State.arrive ({ running up with now := 10 ^ 14 }) 0) 0)).get (by decide +kernel),
     by decide +kernel⟩,
   ⟨{ running up with graphs.a.started := true }, 0, .A, 15, 7, by decide +kernel⟩,
   ⟨late, 0, .A, 0, 0,
     (((dueEntries (State.arrive (late) 0) .A 0 0).find? (fun p => p.1 == 0)).map (fun p => p.2)).get (by decide +kernel),
     (instEntry (slotGraph (State.arrive (late) 0) 0) 5).get (by decide +kernel),
     (runPart .A 0 ((instEntry (slotGraph (State.arrive (late) 0) 0) 5).getD []) 0 (State.arrive (late) 0)).get (by decide +kernel), by decide +kernel⟩,
   ⟨late, 0, .A, 0, by decide +kernel⟩,
   ⟨{ up with graphs.b.commits := some (0, 2 ^ 31) }, 0, .B, 0, 2 ^ 31, by decide +kernel⟩,
   ⟨{ put [(0x6021, 1, 0x10000000)] overrun with graphs.a.overruns := 1 }, 0, .A, 0, by decide +kernel⟩,
   ⟨put [(0x3101, 4, 1)] up, 0, 65535, by decide +kernel⟩,
   ⟨{ running up with now := 10 ^ 14, graphs.switch := some (1, 0), graphs.a.started := true }, 0, 1, by decide +kernel⟩,
   ⟨(put [(0x3405, 4, 0xF000)] (running up)).setBlob 0x3405 2 [0, 0, 0, 0], 0, 15, by decide +kernel⟩⟩

/-- Witnesses of `Obligations.ResultCompletes`: a state and operands for every clause. -/
theorem witness_ResultCompletes :
    (∃ (s : State) (t : Nat) (r : _) (j : _) (sub : _), let b := s.arrive t; r < 18 ∧ j < 512 ∧ 1 ≤ sub ∧ sub < 4 ∧ hostOk b = true ∧ resultDepth b j
      = 0 ∧ Instr.wf (.resultRead t r j sub) = true) ∧
    (∃ (s : State) (t : Nat) (r : _) (j : _) (sub : _), let b := s.arrive t; r < 18 ∧ j < 512 ∧ 1 ≤ sub ∧ sub < 4 ∧ hostOk b = true ∧ resultDepth b j
      ≠ 0 ∧ (servedResult b j).fifo = [] ∧ Instr.wf (.resultFifoRead t r j sub) = true) ∧
    (∃ (s : State) (t : Nat) (r : _) (j : _) (sub : _) (p : _) (l : _), let b := s.arrive t; r < 18 ∧ j < 512 ∧ (sub = 1 ∨ sub = 3) ∧ hostOk b = true
      ∧ resultDepth b j ≠ 0 ∧ (servedResult b j).fifo = p :: l ∧ Instr.wf (.resultFifoRead t r j sub) = true) ∧
    (∃ (s : State) (t : Nat) (r : _) (j : _) (p : _) (l : _), let b := s.arrive t; r < 18 ∧ j < 512 ∧ hostOk b = true ∧ resultDepth b j ≠ 0 ∧
      (servedResult b j).fifo = p :: l ∧ Instr.wf (.resultFifoRead t r j 2) = true) ∧
    (∃ (s : State) (t : Nat) (slot : _) (rec : _), let b := s.arrive t; slot < 2 ∧ rec < 1024 ∧ hostOk b = true ∧ Instr.wf (.presetNow t slot rec) =
      true) ∧
    (∃ (s : State) (t : Nat) (slot : _) (rec : _), let b := s.arrive t; slot < 2 ∧ rec < 1024 ∧ hostOk b = true ∧ Instr.wf (.modeForceManual t slot
      rec) = true) ∧
    (∃ (s : State) (t : Nat) (slot : _) (rec : _), let b := s.arrive t; slot < 2 ∧ rec < 1024 ∧ hostOk b = true ∧ Instr.wf (.modeForceAutomatic t slot
      rec) = true) ∧
    (∃ (s : State) (t : Nat) (slot : _) (rec : _), let b := s.arrive t; slot < 2 ∧ rec < 1024 ∧ hostOk b = true ∧ Instr.wf (.modeRelease t slot rec) =
      true) :=
  ⟨⟨up, 0, 17, 511, 3, by decide +kernel⟩,
   ⟨withExport up, 0, 17, 511, 3, by decide +kernel⟩,
   ⟨{ withExport up with graphs.a.results := [(511, { Result.init with fifo := [⟨1, 0, 0⟩] })] }, 0, 17, 511, 3, ⟨1, 0, 0⟩, [], by decide +kernel⟩,
   ⟨{ withExport up with graphs.a.results := [(511, { Result.init with fifo := [⟨1, 0, 0⟩] })] }, 0, 17, 511, ⟨1, 0, 0⟩, [], by decide +kernel⟩,
   ⟨up, 0, 1, 1023, by decide +kernel⟩,
   ⟨up, 0, 1, 1023, by decide +kernel⟩,
   ⟨up, 0, 1, 1023, by decide +kernel⟩,
   ⟨up, 0, 1, 1023, by decide +kernel⟩⟩

/-- Witnesses of `Obligations.GridFormCommandsComplete`: a state and operands for every clause. -/
theorem witness_GridFormCommandsComplete :
    (∃ (s : State) (t : Nat) (c : Bool), let b := s.arrive t; hostOk b = true ∧ Instr.wf (.blackStart t c) = true) ∧
    (∃ (s : State) (t : Nat), let b := s.arrive t; hostOk b = true ∧ Instr.wf (.join t) = true) ∧
    (∃ (s : State) (t : Nat), let b := s.arrive t; hostOk b = true ∧ Instr.wf (.resync t) = true) ∧
    (∃ (s : State) (t : Nat), let b := s.arrive t; hostOk b = true ∧ Instr.wf (.abortResync t) = true) ∧
    (∃ (s : State) (t : Nat), let b := s.arrive t; hostOk b = true ∧ Instr.wf (.stop t) = true) ∧
    (∃ (s : State) (t : Nat), let b := s.arrive t; hostOk b = true ∧ Instr.wf (.acknowledge t) = true) ∧
    (∃ (s : State) (t : Nat), let b := s.arrive t; hostOk b = true ∧ Instr.wf (.cancelStart t) = true) ∧
    (∃ (s : State) (t : Nat) (code : _) (coh : _) (app : _), let b := s.arrive t; let tick := mainTickNow b = true ∧ b.gf.lastMain < b.now ∧
      b.gf.trans = none ∧ b.gf.closeNext = false ∧ b.startArmed = false; tick ∧ code < 16 ∧ app ≤ b.ridge ∧ b.gf.cmd = some (code, coh, app) ∧
      Instr.wf (.gfMainTick t) = true) ∧
    (∃ (s : State) (t app : Nat), let b := s.arrive t; mainTickNow b = true ∧ b.gf.lastMain < b.now ∧ b.gf.trans = none ∧ b.gf.closeNext = false ∧
      b.startArmed = false ∧ stopCause b = 0 ∧ b.gfState = 0 ∧ app ≤ b.ridge ∧ b.gf.cmd = some (1, false, app) ∧ gfReason b true (readings b true)
      1 false app = 0 ∧ Instr.wf (.gfMainTick t) = true) ∧
    (∃ (s : State) (t app : Nat), let b := s.arrive t; mainTickNow b = true ∧ b.gf.lastMain < b.now ∧ b.gf.trans = none ∧ b.gf.closeNext = false ∧
      b.startArmed = false ∧ stopCause b = 0 ∧ b.gfState = 0 ∧ app ≤ b.ridge ∧ b.gf.cmd = some (2, false, app) ∧ gfReason b true (readings b true)
      2 false app = 0 ∧ Instr.wf (.gfMainTick t) = true) ∧
    (∃ (s : State) (t app : Nat), let b := s.arrive t; mainTickNow b = true ∧ b.gf.lastMain < b.now ∧ b.gf.trans = none ∧ b.gf.closeNext = false ∧
      b.startArmed = false ∧ stopCause b = 0 ∧ b.gfState = 3 ∧ app ≤ b.ridge ∧ b.gf.cmd = some (5, false, app) ∧ gfReason b true (readings b true)
      5 false app = 0 ∧ Instr.wf (.gfMainTick t) = true) ∧
    (∃ (s : State) (t app : Nat), let b := s.arrive t; mainTickNow b = true ∧ b.gf.lastMain < b.now ∧ b.gf.trans = none ∧ b.gf.closeNext = false ∧
      b.startArmed = false ∧ b.gfState = 6 ∧ app ≤ b.ridge ∧ b.gf.cmd = some (6, false, app) ∧ gfReason b true (readings b true) 6 false app = 0 ∧
      Instr.wf (.gfMainTick t) = true) ∧
    (∃ (s : State) (t app : Nat), let b := s.arrive t; mainTickNow b = true ∧ b.gf.lastMain < b.now ∧ b.gf.trans = none ∧ b.gf.closeNext = false ∧
      b.startArmed = false ∧ stopCause b = 0 ∧ b.gfState = 2 ∧ b.gf.holds < 16 ∧ 512 ≤ b.num 0x4010 5 ∧ 512 ≤ b.num 0x4010 6 ∧ 512 ≤ b.num 0x4010
      7 ∧ app ≤ b.ridge ∧ b.gf.cmd = some (3, false, app) ∧ gfReason b true (readings b true) 3 false app = 0 ∧ Instr.wf (.gfMainTick t) = true) ∧
    (∃ (s : State) (t app : Nat), let b := s.arrive t; mainTickNow b = true ∧ b.gf.lastMain < b.now ∧ b.gf.trans = none ∧ b.gf.closeNext = false ∧
      b.startArmed = false ∧ stopCause b = 0 ∧ b.gfState = 5 ∧ b.gf.holds < 16 ∧ 512 ≤ b.num 0x4010 5 ∧ 512 ≤ b.num 0x4010 6 ∧ 512 ≤ b.num 0x4010
      7 ∧ breakerClosed b = false ∧ app ≤ b.ridge ∧ b.gf.cmd = some (4, false, app) ∧ gfReason b true (readings b true) 4 false app = 0 ∧ Instr.wf
      (.gfMainTick t) = true) :=
  ⟨⟨up, 0, true, by decide +kernel⟩,
   ⟨up, 0, by decide +kernel⟩,
   ⟨up, 0, by decide +kernel⟩,
   ⟨up, 0, by decide +kernel⟩,
   ⟨up, 0, by decide +kernel⟩,
   ⟨up, 0, by decide +kernel⟩,
   ⟨up, 0, by decide +kernel⟩,
   ⟨{ ticking up with gf.cmd := some (15, true, 0) }, 0, 15, true, 0, by decide +kernel⟩,
   ⟨commanded 0 1, 0, 0, by decide +kernel⟩,
   ⟨commanded 0 2, 0, 0, by decide +kernel⟩,
   ⟨commanded 3 5, 0, 0, by decide +kernel⟩,
   ⟨put [(0x6800, 2, 0x80000000)] (commanded 6 6), 0, 0, by decide +kernel⟩,
   ⟨commanded 2 3, 0, 0, by decide +kernel⟩,
   ⟨commanded 5 4, 0, 0, by decide +kernel⟩⟩

/-- Witnesses of `Obligations.GridFormCompletes`: a state and operands for every clause. -/
theorem witness_GridFormCompletes :
    (∃ (s : State) (t : Nat), let b := s.arrive t; mainTickNow b = true ∧ b.startArmed = true ∧ ofT96 (b.num 0x4001 2) ≤ b.ridge ∧ b.gfState = 0 ∧
      b.synced = true ∧ (readBinding b true 1).below (b.num 0x4002 7) = true ∧ Instr.wf (.coherentStart t) = true) ∧
    (∃ (s : State) (t : Nat) (dest : _) (c : _) (prio : _) (d : _), let b := s.arrive t; mainTickNow b = true ∧ b.gf.lastMain < b.now ∧ b.gf.closeNext
      = false ∧ b.startArmed = false ∧ d < b.now ∧ b.gf.trans = some ⟨dest, c, prio, d⟩ ∧ dest < 7 ∧ c < 16 ∧ Instr.wf (.gfMainTick t) = true) ∧
    (∃ (s : State) (t : Nat) (c : _), let b := s.arrive t; b.ready = true ∧ ticksOccur b = false ∧ b.gf.trans = none ∧ b.gf.firstCause = c ∧ 0 < c ∧ c
      < 16 ∧ b.gfState ≠ 6 ∧ Instr.wf (.gfIdleEvaluation t) = true) ∧
    (∃ (s : State) (t : Nat) (q : _), let b := s.arrive t; mainTickNow b = true ∧ b.gfState = 4 ∧ b.gf.quietSince = some q ∧ q + msFs (b.num 0x4002 2)
      ≤ b.now ∧ b.gf.trans = none ∧ Instr.wf (.rideExit t) = true) :=
  ⟨⟨{ put [(0x4001, 3, 0x20), (0x7000, 5, 0x80000000), (0x4010, 1, 511)] (ticking up) with graphs.a.results := [(511, { Result.init with v := 0 })] },
     0, by decide +kernel⟩,
   ⟨{ ticking up with gf.trans := some ⟨6, 15, 11, 0⟩ }, 0, 6, 15, 11, 0, by decide +kernel⟩,
   ⟨{ up with gf.firstCause := 15 }, 0, 15, by decide +kernel⟩,
   ⟨{ put [(0x4001, 3, 4)] (ticking up) with now := 10 ^ 18, graphs.a.tickAt := 10 ^ 18, gf.quietSince := some 0 }, 0, 0, by decide +kernel⟩⟩

/-- Witnesses of `Obligations.GridFormTimesComplete`: a state and operands for every clause. -/
theorem witness_GridFormTimesComplete :
    (∃ (s : State) (t : Nat) (q : _), let b := s.arrive t; b.gf.limitSince = some q ∧ q + usFs (b.num 0x4002 4) ≤ b.now ∧ Instr.wf (.limitEntry t) =
      true) ∧
    (∃ (s : State) (t : Nat), let b := s.arrive t; b.gfState = 4 ∧ b.gf.enteredAt + msFs (b.num 0x4002 3) ≤ b.now ∧ Instr.wf (.rideTimeout t) = true) ∧
    (∃ (s : State) (t : Nat), let b := s.arrive t; b.gfState = 1 ∧ b.gf.enteredAt + secFs (b.num 0x4002 5) ≤ b.now ∧ Instr.wf (.blackStartTimeout t) =
      true) ∧
    (∃ (s : State) (t : Nat), let b := s.arrive t; b.gfState = 5 ∧ b.gf.enteredAt + secFs (b.num 0x4002 6) ≤ b.now ∧ Instr.wf (.resyncTimeout t) =
      true) ∧
    (∃ (_ : State) (t : Nat) (d : _), d < 2 ^ 16 ∧ Instr.wf (.breakerDinChange t d) = true) ∧
    (∃ (s : State) (t : Nat) (q : _), let b := s.arrive t; b.gf.closeAt = some q ∧ b.closeActive = true ∧ q + msFs (b.num 0x4002 0xF) ≤ b.now ∧
      Instr.wf (.breakerFail t) = true) :=
  ⟨⟨{ up with now := 10 ^ 18, gf.limitSince := some 0 }, 0, 0, by decide +kernel⟩,
   ⟨{ put [(0x4001, 3, 4)] up with now := 10 ^ 20 }, 0, by decide +kernel⟩,
   ⟨{ put [(0x4001, 3, 1)] up with now := 10 ^ 20 }, 0, by decide +kernel⟩,
   ⟨{ put [(0x4001, 3, 5)] up with now := 10 ^ 20 }, 0, by decide +kernel⟩,
   ⟨up, 0, 65535, by decide +kernel⟩,
   ⟨{ put [(0x4001, 3, 0x80)] up with now := 10 ^ 20, gf.closeAt := some 0 }, 0, 0, by decide +kernel⟩⟩

/-- Witnesses of `Obligations.ModulationCompletes`: a state and operands for every clause. -/
theorem witness_ModulationCompletes :
    (∃ (s : State) (t : Nat) (x : _) (g : _) (c : _), let b := s.arrive t; g < 8 ∧ c = (b.sill x).carrier g ∧ b.feeds x = true ∧ b.plate.halted =
      false ∧ c.running = true ∧ b.follower g = false ∧ c.at_ + c.hs * clockFs ≤ b.now ∧ b.sides.takeover = none ∧ (c.up = true ∨ c.stopping = false)
      ∧ Instr.wf (.carrierVertex t x g) = true) ∧
    (∃ (s : State) (t : Nat) (x : _) (p : _) (v : _) (c : _) (l : _), let b := s.arrive t; p < 72 ∧ b.feeds x = true ∧ b.plate.halted = false ∧
      ((b.sill x).pair p).edges = (v, c) :: l ∧ v ≤ b.now ∧ Instr.wf (.gateCommandEdge t x p) = true) ∧
    (∃ (s : State) (t : Nat) (x : _) (p : _) (v : _), let b := s.arrive t; p < 72 ∧ b.feeds x = true ∧ b.plate.halted = false ∧ v ≤ b.now ∧ Instr.wf
      (.deadTimeExpiry t x p) = true) ∧
    (∃ (s : State) (t : Nat) (p : _) (n : _) (q : _), let b := s.arrive t; p < 72 ∧ b.plate.halted = false ∧ physOf b p = n ∧ n < 72 ∧ b.plateOf n =
      q ∧ q.pair = p ∧ q.driving = true ∧ ((b.sill (if q.sideB then .B else .A)).pair p).h = false ∧ q.riseH + plateMinOn b p ≤ b.now ∧ Instr.wf
      (.plateMinOnExpiry t p) = true) ∧
    (∃ (s : State) (t : Nat) (a : _) (r : _), let b := s.arrive t; a < 2 ^ 96 ∧ hostOk b = true ∧ r = (if a = 0 then b.appTime else ofT96 a) ∧
      b.appTime ≤ r ∧ Instr.wf (.carrierStart t a) = true) ∧
    (∃ (s : State) (t : Nat) (a : _), let b := s.arrive t; a < 2 ^ 96 ∧ a ≠ 0 ∧ hostOk b = true ∧ ofT96 a < b.appTime ∧ Instr.wf (.carrierStart t a)
      = true) ∧
    (∃ (s : State) (t : Nat) (x : _) (g : _) (r : _), let b := s.arrive t; g < 8 ∧ b.feeds x = true ∧ b.plate.halted = false ∧ ((b.sill x).carrier
      g).running = false ∧ b.follower g = false ∧ runSet b g = true ∧ ((b.sill x).carrier g).startAt = some r ∧ r ≤ b.ridgeFine ∧ b.sides.takeover =
      none ∧ Instr.wf (.carrierGroupStart t x g) = true) ∧
    (∃ (s : State) (t : Nat) (m : _), let b := s.arrive t; m < 2 ^ 8 ∧ hostOk b = true ∧ b.stopped = true ∧ b.commissioning = false ∧ Instr.wf
      (.carrierStop t m) = true) ∧
    (∃ (s : State) (t : Nat) (m : _), let b := s.arrive t; m < 2 ^ 32 ∧ m ≠ 0 ∧ hostOk b = true ∧ Instr.wf (.updateCommit t m) = true) ∧
    (∃ (s : State) (t : Nat) (p : _) (j : _) (v : _), let b := s.arrive t; p < 72 ∧ 3 ≤ j ∧ j ≤ 5 ∧ v < 2 ^ 32 ∧ (j = 5 → v < 2) ∧ hostOk b = true ∧
      drivenWord b p j = false ∧ Instr.wf (.shadowWrite t p j v) = true) ∧
    (∃ (s : State) (t : Nat) (p : _) (v : _) (d : _), let b := s.arrive t; p < 72 ∧ d ≤ b.ridgeFine ∧ b.plate.waiting = [⟨0, p * 256 + 3, v, d⟩] ∧
      Instr.wf (.shadowApply t) = true) :=
  ⟨⟨{ up with now := 10 ^ 14, plate.b.carriers := [(7, { Carrier.init with running := true })] }, 0, .B, 7, { Carrier.init with running := true },
     by decide +kernel⟩,
   ⟨{ up with plate.b.pairs := [(71, { SillPair.init with edges := [(0, true)] })] }, 0, .B, 71, 0, true, [], by decide +kernel⟩,
   ⟨up, 0, .B, 71, 0, by decide +kernel⟩,
   ⟨{ put [(0x5247, 1, 71 <<< 16)] up with now := 10 ^ 18, plate.pairs := [(71, { PlatePair.init with pair := 71, driving := true, h := true })] },
     0, 71, 71, { PlatePair.init with pair := 71, driving := true, h := true }, by decide +kernel⟩,
   ⟨up, 0, 0, rns 2000, by decide +kernel⟩,
   ⟨{ up with ridge := 10 ^ 30 }, 0, 1, by decide +kernel⟩,
   ⟨{ put [(0x5127, 1, 0x80000000)] up with plate.b.carriers := [(7, { Carrier.init with starts := [(0, true)] })] }, 0, .B, 7, 0, by decide +kernel⟩,
   ⟨up, 0, 255, by decide +kernel⟩,
   ⟨up, 0, 0xFFFFFFFF, by decide +kernel⟩,
   ⟨up, 0, 71, 5, 1, by decide +kernel⟩,
   ⟨{ up with plate.waiting := [⟨0, 71 * 256 + 3, 7, 0⟩] }, 0, 71, 7, 0, by decide +kernel⟩⟩

/-- Witnesses of `Obligations.PlateCompletes`: a state and operands for every clause. -/
theorem witness_PlateCompletes :
    (∃ (s : State) (t : Nat) (n : _), let b := s.arrive t; n < 16 ∧ b.bit 0x5310 1 n = true ∧ b.bit 0x5310 3 n = false ∧ Instr.wf (.faultInTrip t n
      true) = true) ∧
    (∃ (s : State) (t : Nat) (n : _), n < 16 ∧ Instr.wf (.faultInTrip t n false) = true) ∧
    (∃ (s : State) (t : Nat), let b := s.arrive t; hostOk b = true ∧ b.gfState = 6 ∧ b.plate.faultLevel &&& b.num 0x5310 1 = 0 ∧ Instr.wf
      (.releaseFaultIn t) = true) ∧
    (∃ (s : State) (t : Nat), let b := s.arrive t; hostOk b = true ∧ (b.gfState ≠ 6 ∨ b.plate.faultLevel &&& b.num 0x5310 1 ≠ 0) ∧ Instr.wf
      (.releaseFaultIn t) = true) ∧
    (∃ (s : State) (t : Nat), let b := s.arrive t; hostOk b = true ∧ b.gfState = 6 ∧ tripBeyond b = false ∧ Instr.wf (.releaseChordTrip t) = true) ∧
    (∃ (s : State) (t : Nat), let b := s.arrive t; hostOk b = true ∧ (b.gfState ≠ 6 ∨ tripBeyond b = true) ∧ Instr.wf (.releaseChordTrip t) = true) ∧
    (∃ (s : State) (t : Nat) (i : _) (v : _), let b := s.arrive t; i < 3 ∧ v < (if i = 2 then 256 else 2 ^ 32) ∧ hostOk b = true ∧ Instr.wf
      (.disableMaskWrite t i v) = true) ∧
    (∃ (s : State) (t : Nat), let b := s.arrive t; hostOk b = true ∧ b.permission 6 = true ∧ b.gfState = 0 ∧ b.tripped = false ∧ Instr.wf
      (.commissionEnter t) = true) ∧
    (∃ (s : State) (t : Nat), let b := s.arrive t; hostOk b = true ∧ b.commissioning = true ∧ Instr.wf (.commissionLeave t) = true) ∧
    (∃ (s : State) (t : Nat) (m : _), let b := s.arrive t; bytesOk m = true ∧ hostOk b = true ∧ b.commissioning = true ∧ mapOk m = true ∧ Instr.wf
      (.overrideMapWrite t m) = true) ∧
    (∃ (s : State) (t : Nat) (m : _), let b := s.arrive t; bytesOk m = true ∧ hostOk b = true ∧ (b.commissioning = false ∨ mapOk m = false) ∧ Instr.wf
      (.overrideMapWrite t m) = true) ∧
    (∃ (s : State) (t : Nat), let b := s.arrive t; b.plate.halted = false ∧ Instr.wf (.debugHalt t true) = true) ∧
    (∃ (s : State) (t : Nat), let b := s.arrive t; b.plate.halted = true ∧ Instr.wf (.debugResume t) = true) :=
  ⟨⟨put [(0x5310, 1, 0x8000)] up, 0, 15, by decide +kernel⟩,
   ⟨up, 0, 15, by decide +kernel⟩,
   ⟨put [(0x4001, 3, 6)] up, 0, by decide +kernel⟩,
   ⟨up, 0, by decide +kernel⟩,
   ⟨put [(0x4001, 3, 6)] up, 0, by decide +kernel⟩,
   ⟨up, 0, by decide +kernel⟩,
   ⟨up, 0, 2, 255, by decide +kernel⟩,
   ⟨{ up with safety.accepted := 64 }, 0, by decide +kernel⟩,
   ⟨put [(0x5300, 4, 0x2000)] up, 0, by decide +kernel⟩,
   ⟨put [(0x5300, 4, 0x2000)] up, 0, (List.range 72).map (fun n => 71 - n), by decide +kernel⟩,
   ⟨up, 0, [255], by decide +kernel⟩,
   ⟨up, 0, by decide +kernel⟩,
   ⟨{ up with plate.halted := true }, 0, by decide +kernel⟩⟩

set_option maxRecDepth 100000 in
/-- Witnesses of `Obligations.StackLinkCompletes`: a state and operands for every clause. -/
theorem witness_StackLinkCompletes :
    (∃ (s : State) (t : Nat) (k : _) (op : _), let b := s.arrive t; let c3 := b.sharing.c5Tries = none; k < 16 ∧ c3 ∧ b.sharing.linkC5 = [] ∧
      b.sharing.linkBusy = some (op, k) ∧ (op = 0 ∨ b.permission 7 = true) ∧ Instr.wf (.stackTransaction t k true) = true) ∧
    (∃ (s : State) (t : Nat) (k : _) (op : _), let b := s.arrive t; let c3 := b.sharing.c5Tries = none; k < 16 ∧ c3 ∧ b.sharing.linkBusy = some (op,
      k) ∧ (b.stack k).attempts < 2 ∧ Instr.wf (.stackTransaction t k false) = true) ∧
    (∃ (s : State) (t : Nat) (k : _) (n : _), let b := s.arrive t; k < 16 ∧ b.sharing.c5Tries = some n ∧ n < 2 ∧ Instr.wf (.stackTransaction t k
      false) = true) ∧
    (∃ (s : State) (t : Nat) (k : _) (n : _) (ok : _), let b := s.arrive t; k < 16 ∧ b.sharing.c5Tries = some n ∧ (ok = true ∨ 2 ≤ n) ∧ b.sharing.link
      = [] ∧ b.sharing.linkC5 = [] ∧ Instr.wf (.stackTransaction t k ok) = true) ∧
    (∃ (s : State) (t : Nat) (k : _) (op : _), let b := s.arrive t; let alone := b.sharing.c5Tries = none ∧ b.sharing.linkC5 = [] ∧ b.sharing.link =
      []; k < 16 ∧ alone ∧ b.sharing.linkBusy = some (op, k) ∧ 2 ≤ (b.stack k).attempts ∧ Instr.wf (.stackTransaction t k false) = true) ∧
    (∃ (s : State) (t : Nat) (k : _) (op : _), let b := s.arrive t; let c3 := b.sharing.c5Tries = none; k < 16 ∧ c3 ∧ b.sharing.linkBusy = some (op,
      k) ∧ (b.stack k).attempts < 2 ∧ Instr.wf (.stretchTimeout t k) = true) ∧
    (∃ (s : State) (t : Nat) (k : _) (op : _), let b := s.arrive t; let c3 := b.sharing.c5Tries = none; k < 16 ∧ c3 ∧ b.sharing.linkBusy = some (op,
      k) ∧ op ≠ 0 ∧ (b.stack k).attempts < 2 ∧ Instr.wf (.pollTimeout t k) = true) ∧
    (∃ (s : State) (t : Nat) (k : _) (d : _) (x : _) (y : _) (c : _) (z : _), let b := s.arrive t; let alone := b.sharing.c5Tries = none ∧
      b.sharing.linkC5 = [] ∧ b.sharing.link = []; k < 16 ∧ bytesOk d = true ∧ bytesOk x = true ∧ bytesOk y = true ∧ alone ∧ b.sharing.linkBusy =
      some (0, k) ∧ identValid d = true ∧ adopted d x y = some (c, z) ∧ Instr.wf (.stackReadDone t k d x y) = true) ∧
    (∃ (s : State) (t : Nat) (k : _) (d : _) (x : _) (y : _), let b := s.arrive t; let alone := b.sharing.c5Tries = none ∧ b.sharing.linkC5 = [] ∧
      b.sharing.link = []; k < 16 ∧ bytesOk d = true ∧ bytesOk x = true ∧ bytesOk y = true ∧ alone ∧ b.sharing.linkBusy = some (0, k) ∧
      (identValid d = false ∨ adopted d x y = none) ∧ Instr.wf (.stackReadDone t k d x y) = true) ∧
    (∃ (s : State) (t : Nat) (k : _), let b := s.arrive t; let alone := b.sharing.c5Tries = none ∧ b.sharing.linkC5 = [] ∧ b.sharing.link = []; k < 16
      ∧ hostOk b = true ∧ b.stopped = true ∧ stackPresent b k = true ∧ stackValid b k = true ∧ b.permission 7 = true ∧ alone ∧ b.sharing.linkBusy
      = none ∧ Instr.wf (.flush t k false) = true) ∧
    (∃ (s : State) (t : Nat) (k : _) (a : _), let b := s.arrive t; k < 16 ∧ hostOk b = true ∧ Instr.wf (.flush t k a) = true) ∧
    (∃ (s : State) (t : Nat) (k : _), let b := s.arrive t; let alone := b.sharing.c5Tries = none ∧ b.sharing.linkC5 = [] ∧ b.sharing.link = []; k < 16
      ∧ hostOk b = true ∧ stackPresent b k = true ∧ alone ∧ b.sharing.linkBusy = none ∧ Instr.wf (.rescan t k false) = true) ∧
    (∃ (s : State) (t : Nat) (k : _) (a : _), let b := s.arrive t; k < 16 ∧ hostOk b = true ∧ Instr.wf (.rescan t k a) = true) ∧
    (∃ (s : State) (t : Nat) (k : _), let b := s.arrive t; let alone := b.sharing.c5Tries = none ∧ b.sharing.linkC5 = [] ∧ b.sharing.link = []; k < 16
      ∧ hostOk b = true ∧ b.stopped = true ∧ b.permission 7 = true ∧ stackPresent b k = true ∧ identValid (b.blob (0x9010 + k) 2) = true ∧ alone ∧
      b.sharing.linkBusy = none ∧ Instr.wf (.initRecord t k) = true) :=
  ⟨⟨{ up with sharing.linkBusy := some (3, 15), safety.accepted := 128 }, 0, 15, 3, by decide +kernel⟩,
   ⟨{ up with sharing.linkBusy := some (3, 15) }, 0, 15, 3, by decide +kernel⟩,
   ⟨{ up with sharing.c5Tries := some 1 }, 0, 15, 1, by decide +kernel⟩,
   ⟨{ up with sharing.c5Tries := some 2 }, 0, 15, 2, false, by decide +kernel⟩,
   ⟨{ up with sharing.linkBusy := some (3, 15), stk := [(15, { Stack.init with attempts := 2 })] }, 0, 15, 3, by decide +kernel⟩,
   ⟨{ up with sharing.linkBusy := some (3, 15) }, 0, 15, 3, by decide +kernel⟩,
   ⟨{ up with sharing.linkBusy := some (3, 15) }, 0, 15, 3, by decide +kernel⟩,
   ⟨{ up with sharing.linkBusy := some (0, 15) }, 0, 15, ident, copyA, [], copyA, false, by decide +kernel⟩,
   ⟨{ up with sharing.linkBusy := some (0, 15) }, 0, 15, [], [], [], by decide +kernel⟩,
   ⟨{ put [(0x9000, 1, 0x8000), (0x901F, 3, 0x8000)] up with safety.accepted := 128 }, 0, 15, by decide +kernel⟩,
   ⟨up, 0, 15, true, by decide +kernel⟩,
   ⟨put [(0x9000, 1, 0x8000)] up, 0, 15, by decide +kernel⟩,
   ⟨up, 0, 15, true, by decide +kernel⟩,
   ⟨{ (put [(0x9000, 1, 0x8000)] up).setBlob 0x901F 2 ident with safety.accepted := 128 }, 0, 15, by decide +kernel⟩⟩

/-- Witnesses of `Obligations.StackLifeCompletes`: a state and operands for every clause. -/
theorem witness_StackLifeCompletes :
    (∃ (s : State) (t : Nat) (k : _) (r : _),
      let b := s.arrive t;
      k < 16 ∧ r < 8 ∧ hostOk b = true ∧ stackPresent b k = true ∧ bringRefused b k r = false ∧ Instr.wf (.bringIn t k r) = true) ∧
    (∃ (s : State) (t : Nat) (k : _) (r : _),
      let b := s.arrive t;
      k < 16 ∧ r < 8 ∧ hostOk b = true ∧ (stackPresent b k = false ∨ bringRefused b k r = true) ∧ Instr.wf (.bringIn t k r) = true) ∧
    (∃ (s : State) (t : Nat) (k : _) (br : _),
      let b := s.arrive t;
      k < 16 ∧ hostOk b = true ∧ stackPresent b k = true ∧ (b.stack k).bring = some br ∧ Instr.wf (.cancelBringIn t k) = true) ∧
    (∃ (s : State) (t : Nat) (k : _),
      let b := s.arrive t;
      k < 16 ∧ hostOk b = true ∧ (stackPresent b k = false ∨ (b.stack k).bring = none) ∧ Instr.wf (.cancelBringIn t k) = true) ∧
    (∃ (s : State) (t : Nat) (k : _),
      let b := s.arrive t;
      let alone := b.sharing.c5Tries = none ∧ b.sharing.linkC5 = [] ∧ b.sharing.link = [];
      k < 16 ∧ stackValid b k = true ∧ (b.stack k).lastTimer + secFs (60 * b.num 0x9000 2) ≤ b.now ∧ b.permission 7 = true ∧ alone ∧ b.sharing.linkBusy
      = none ∧ Instr.wf (.lifeWriteInterval t k) = true) ∧
    (∃ (s : State) (t : Nat) (k : _),
      let b := s.arrive t;
      k < 16 ∧ stackValid b k = true ∧ (b.stack k).lastTimer + secFs (60 * b.num 0x9000 2) ≤ b.now ∧ b.permission 7 = false ∧ Instr.wf
      (.lifeWriteInterval t k) = true) ∧
    (∃ (s : State) (t : Nat) (k : _) (op : _),
      let b := s.arrive t;
      let alone := b.sharing.c5Tries = none ∧ b.sharing.linkC5 = [] ∧ b.sharing.link = [];
      k < 16 ∧ b.sharing.linkBusy = some (op, k) ∧ (op = 1 ∨ op = 2) ∧ b.permission 7 = true ∧ alone ∧ Instr.wf (.lifeWritten t k) = true) ∧
    (∃ (s : State) (t : Nat) (k : _),
      let b := s.arrive t;
      let alone := b.sharing.c5Tries = none ∧ b.sharing.linkC5 = [] ∧ b.sharing.link = [];
      k < 16 ∧ b.sharing.linkBusy = some (3, k) ∧ b.permission 7 = true ∧ alone ∧ Instr.wf (.lifeWritten t k) = true) ∧
    (∃ (s : State) (t : Nat) (q : _),
      let b := s.arrive t;
      nextPosting b.graphs.postings = some q ∧ Instr.wf (.rainflowPosting t) = true) ∧
    (∃ (s : State) (t : Nat) (k : _),
      let b := s.arrive t;
      k < 16 ∧ rns 3515625000 ≤ (b.stack k).driven ∧ Instr.wf (.stackHours t k) = true) ∧
    (∃ (s : State) (t : Nat), Instr.wf (.wearEvaluation t) = true) ∧
    (∃ (s : State) (t : Nat) (k : _) (br : _),
      let b := s.arrive t;
      k < 16 ∧ (b.stack k).bring = some br ∧ br.appTime ≤ b.ridge ∧ br.crossed = false ∧ (b.gfState = 2 ∨ b.gfState = 3) ∧ Instr.wf
      (.spareCrossingCheck t k) = true) ∧
    (∃ (s : State) (t : Nat) (k : _) (br : _),
      let b := s.arrive t;
      k < 16 ∧ (b.stack k).bring = some br ∧ br.appTime ≤ b.ridge ∧ 1 ≤ b.gfState ∧ b.gfState ≠ 2 ∧ b.gfState ≠ 3 ∧ b.gfState ≠ 6 ∧ Instr.wf
      (.spareCrossingCheck t k) = true) ∧
    (∃ (s : State) (t : Nat) (k : _) (br : _),
      let b := s.arrive t;
      k < 16 ∧ (b.stack k).bring = some br ∧ br.appTime ≤ b.ridge ∧ b.stopped = true ∧ Instr.wf (.spareCrossingCheck t k) = true) ∧
    (∃ (s : State) (t : Nat) (k : _) (br : _),
      let b := s.arrive t;
      k < 16 ∧ (b.stack k).bring = some br ∧ br.crossed = false ∧ (b.gfState = 2 ∨ b.gfState = 3) ∧ msFs 100 ≤ br.evaluated b.now ∧ Instr.wf
      (.spareSwapTimeout t k) = true) :=
  ⟨⟨wearing up, 0, 15, 7, by decide +kernel⟩,
   ⟨up, 0, 15, 7, by decide +kernel⟩,
   ⟨{ put [(0x9000, 1, 0x8000)] up with stk := [(15, { Stack.init with bring := some ⟨7, 0, 0, none, none, false⟩ })] }, 0, 15,
     ⟨7, 0, 0, none, none, false⟩, by decide +kernel⟩,
   ⟨up, 0, 15, by decide +kernel⟩,
   ⟨{ put [(0x901F, 3, 0x8000)] up with now := 10 ^ 24, safety.accepted := 128 }, 0, 15, by decide +kernel⟩,
   ⟨{ put [(0x901F, 3, 0x8000)] up with now := 10 ^ 24 }, 0, 15, by decide +kernel⟩,
   ⟨{ up with sharing.linkBusy := some (2, 15), safety.accepted := 128 }, 0, 15, 2, by decide +kernel⟩,
   ⟨{ up with sharing.linkBusy := some (3, 15), safety.accepted := 128 }, 0, 15, by decide +kernel⟩,
   ⟨{ up with graphs.postings := [⟨0, 0, 16, 0, 0, 0, []⟩] }, 0, ⟨0, 0, 16, 0, 0, 0, []⟩, by decide +kernel⟩,
   ⟨{ up with stk := [(15, { Stack.init with driven := rns 3515625000 })] }, 0, 15, by decide +kernel⟩,
   ⟨up, 0, by decide +kernel⟩,
   ⟨{ put [(0x4001, 3, 3)] up with stk := [(15, { Stack.init with bring := some ⟨7, 0, 0, none, none, false⟩ })] }, 0, 15, ⟨7, 0, 0, none, none, false⟩,
     by decide +kernel⟩,
   ⟨{ put [(0x901F, 3, 0x8000), (0x4001, 3, 5)] up with stk := [(15, { Stack.init with bring := some ⟨7, 0, 0, none, none, false⟩ })] }, 0, 15, ⟨7, 0, 0, none, none, false⟩, by decide +kernel⟩,
   ⟨{ put [(0x901F, 3, 0x8000)] up with stk := [(15, { Stack.init with bring := some ⟨7, 0, 0, none, none, false⟩ })] }, 0, 15, ⟨7, 0, 0, none, none, false⟩, by decide +kernel⟩,
   ⟨{ put [(0x901F, 3, 0x8000), (0x4001, 3, 3)] up with stk := [(15, { Stack.init with bring := some ⟨7, 0, msFs 100, none, none, false⟩ })] },
     0, 15, ⟨7, 0, msFs 100, none, none, false⟩, by decide +kernel⟩⟩

/-- Witnesses of `Obligations.SideMonitorsComplete`: a state and operands for every clause. -/
theorem witness_SideMonitorsComplete :
    (∃ (s : State) (t : Nat) (x : _) (p : _) (q : _),
      let b := s.arrive t;
      let inTime := fun (p : Nat) => beatLate p b.ridgeFine ≤ rns 125;
      p < 2 ∧ q < 65536 ∧ beatsJudged b x = true ∧ inTime p ∧ ((beat b x p).last = none ∨ (∃ v, (beat b x p).last = some v ∧ q = (v + 1) % 65536)) ∧
      ((beat b x (1 - p)).missing < 4 ∨ sideBad b x = false) ∧ Instr.wf (.heartbeat t x p q true) = true) ∧
    (∃ (s : State) (t : Nat) (x : _) (p : _) (q : _),
      let b := s.arrive t;
      let inTime := fun (p : Nat) => beatLate p b.ridgeFine ≤ rns 125;
      p < 2 ∧ q < 65536 ∧ beatsJudged b x = true ∧ inTime p ∧ ((beat b x p).last = none ∨ (∃ v, (beat b x p).last = some v ∧ q = (v + 1) % 65536)) ∧ 4
      ≤ (beat b x (1 - p)).missing ∧ sideBad b x = true ∧ b.sideState x = 1 ∧ b.sideState (otherSide x) = 2 ∧ Instr.wf (.heartbeat t x p q true) =
      true) ∧
    (∃ (s : State) (t : Nat) (x : _) (p : _) (q : _),
      let b := s.arrive t;
      let slot := fun (p : Nat) => beatSlot p b.ridgeFine;
      let inTime := fun (p : Nat) => beatLate p b.ridgeFine ≤ rns 125;
      p < 2 ∧ q < 65536 ∧ beatsJudged b x = true ∧ ¬ inTime p ∧ (beat b x p).slot < slot p ∧ (beat b x p).missing < 3 ∧ (beat b x (1 - p)).missing < 4
      ∧ Instr.wf (.heartbeat t x p q true) = true) ∧
    (∃ (s : State) (t : Nat) (x : _) (p : _) (q : _),
      let b := s.arrive t;
      p < 2 ∧ q < 65536 ∧ b.ready = true ∧ b.inService x = true ∧ b.plate.halted = true ∧ Instr.wf (.heartbeat t x p q true) = true) ∧
    (∃ (s : State) (t : Nat) (x : _) (p : _) (q : _),
      let b := s.arrive t;
      let inTime := fun (p : Nat) => beatLate p b.ridgeFine ≤ rns 125;
      p < 2 ∧ q < 65536 ∧ beatsJudged b x = true ∧ inTime p ∧ (beat b x p).missing < 3 ∧ (beat b x (1 - p)).missing < 4 ∧ Instr.wf (.heartbeat t x p q
      false) = true) ∧
    (∃ (s : State) (t : Nat) (x : _) (p : _) (n : _),
      let b := s.arrive t;
      p < 2 ∧ n = beatSlot p (b.ridgeFine - rns 125) ∧ (beat b x p).slot < n ∧ beatsJudged b x = true ∧ (beat b x p).missing < 3 ∧ (beat b x (1 -
      p)).missing < 4 ∧ Instr.wf (.heartbeatMissing t x p) = true) ∧
    (∃ (s : State) (t : Nat) (x : _) (p : _),
      let b := s.arrive t;
      p < 2 ∧ (beat b x p).slot < beatSlot p (b.ridgeFine - rns 125) ∧ beatsJudged b x = true ∧ 3 ≤ (beat b x p).missing ∧ 4 ≤ (beat b x (1 -
      p)).missing ∧ b.sideState x = 1 ∧ b.sideState (otherSide x) = 2 ∧ Instr.wf (.heartbeatMissing t x p) = true) ∧
    (∃ (s : State) (t : Nat) (k : _) (r : _),
      let b := s.arrive t;
      b.ready = true ∧ lockstep b = true ∧ b.inService .A = true ∧ b.inService .B = true ∧ b.plate.halted = false ∧ b.plate.skipSig = 0 ∧ (r = false ∨
      (if k then (b.graph .A).stateSig ≠ (b.graph .B).stateSig else (b.graph .A).fastSig ≠ (b.graph .B).fastSig)) ∧ Instr.wf (.signatureCompare t k r)
      = true) ∧
    (∃ (s : State) (t : Nat) (x : _) (fx : _) (fy : _),
      let b := s.arrive t;
      lanesOk fx = true ∧ lanesOk fy = true ∧ b.ready = true ∧ b.sides.mismatch = true ∧ b.sideState x = 1 ∧ b.sideState (otherSide x) = 2 ∧ fx.any
      (fun l => laneUsed b (sideIx x) (l / 16) (l % 16)) = true ∧ fy.any (fun l => laneUsed b (sideIx (otherSide x)) (l / 16) (l % 16)) = false ∧
      Instr.wf (.mismatchResolution t (if x = .A then fx else fy) (if x = .A then fy else fx)) = true) ∧
    (∃ (s : State) (t : Nat),
      let b := s.arrive t;
      b.sides.mismatch = true ∧ Instr.wf (.mismatchResolution t [] []) = true) ∧
    (∃ (s : State) (t : Nat) (x : _),
      let b := s.arrive t;
      [Side.A, Side.B].find? (fun y => b.feeds y && (b.graph y).ctl) = some x ∧ b.profile = 2 ∧ b.inService (otherSide x) = true ∧ Instr.wf
      (.mirrorFrame t true) = true) ∧
    (∃ (s : State) (t : Nat) (x : _) (k : _) (l : _),
      let b := s.arrive t;
      bytesOk l = true ∧ onLink b x = true ∧ onLink b (otherSide x) = true ∧ k ≤ 2 ∧ Instr.wf (.trussLinkFrame t x k l) = true) ∧
    (∃ (s : State) (t : Nat) (x : _) (k : _) (l : _),
      let b := s.arrive t;
      bytesOk l = true ∧ (onLink b x = false ∨ onLink b (otherSide x) = false) ∧ Instr.wf (.trussLinkFrame t x k l) = true) ∧
    (∃ (s : State) (t : Nat) (x : _) (j : _) (l : _),
      let b := s.arrive t;
      j < 16 ∧ l < 9 ∧ onLink b x = true ∧ (b.baysOf x).testBit (j / 4) = true ∧ unitFaulty b 1 (sideIx x) j l = false ∧ Instr.wf (.laneTest t x j l
      true) = true) ∧
    (∃ (s : State) (t : Nat) (x : _) (f : _) (addr : _),
      let b := s.arrive t;
      addr < 2 ^ 32 ∧ b.feeds x = true ∧ Instr.wf (.eccError t x f false addr) = true) ∧
    (∃ (s : State) (t : Nat) (x : _) (f : _) (addr : _),
      let b := s.arrive t;
      addr < 2 ^ 32 ∧ b.ready = true ∧ b.sideState x = 1 ∧ b.sideState (otherSide x) = 2 ∧ Instr.wf (.eccError t x f true addr) = true) ∧
    (∃ (s : State) (t : Nat) (p : _),
      let b := s.arrive t;
      3 ≤ p ∧ p < 5 ∧ b.ready = true ∧ pllLocked b p = true ∧ b.sideState (pllSide p) = 1 ∧ b.sideState (otherSide (pllSide p)) = 2 ∧ Instr.wf
      (.pllFreqCheck t p false) = true) ∧
    (∃ (s : State) (t : Nat) (x : _) (d : _),
      let b := s.arrive t;
      badCond b x = false ∧ sideBad b x = true ∧ (b.sideRt x).badSince = some d ∧ d + secFs 1 ≤ b.now ∧ Instr.wf (.badHoldExpiry t x) = true) :=
  ⟨⟨{ up with ridge := rns 375, sides.b.p2.last := some 65535 }, 0, .B, 1, 0,
     ⟨by decide +kernel, by decide +kernel, by decide +kernel, by decide +kernel, Or.inr ⟨65535, by decide +kernel, by decide⟩, Or.inl (by decide +kernel), by decide +kernel⟩⟩,
   ⟨{ put [(0x6030, 1, 0x80000000)] up with ridge := rns 250, sides.a.p1.missing := 4 }, 0, .A, 1, 65535,
     ⟨by decide +kernel, by decide +kernel, by decide +kernel, by decide +kernel, Or.inl (by decide +kernel), by decide +kernel⟩⟩,
   ⟨{ up with ridge := rns 376 }, 0, .B, 1, 65535, by decide +kernel⟩,
   ⟨{ up with plate.halted := true }, 0, .B, 1, 65535, by decide +kernel⟩,
   ⟨{ up with ridge := rns 375 }, 0, .B, 1, 65535, by decide +kernel⟩,
   ⟨{ up with ridge := rns 375 }, 0, .B, 1, 1, by decide +kernel⟩,
   ⟨{ up with ridge := rns 375, sides.a.p1.missing := 4, sides.a.p2.missing := 3 }, 0, .A, 1, by decide +kernel⟩,
   ⟨up, 0, true, false, by decide +kernel⟩,
   ⟨{ running up with sides.mismatch := true }, 0, .A, [15 * 16 + 7], [], by decide +kernel⟩,
   ⟨{ up with sides.mismatch := true }, 0, by decide +kernel⟩,
   ⟨put [(0x6000, 2, 2)] { up with graphs.a.ctl := true }, 0, .A, by decide +kernel⟩,
   ⟨put [(0x6021, 1, 0x15000000)] up, 0, .B, 2, [255], by decide +kernel⟩,
   ⟨put [(0x6021, 1, 0x10000000)] up, 0, .A, 7, [255], by decide +kernel⟩,
   ⟨up, 0, .B, 15, 8, by decide +kernel⟩,
   ⟨up, 0, .B, true, 2 ^ 32 - 1, by decide +kernel⟩,
   ⟨up, 0, .A, true, 2 ^ 32 - 1, by decide +kernel⟩,
   ⟨put [(0x7103, 3, 0x8000)] up, 0, 3, by decide +kernel⟩,
   ⟨{ put [(0x6031, 1, 0x80000000)] up with now := secFs 1, sides.b.badSince := some 0 }, 0, .B, 0, by decide +kernel⟩⟩

/-- Witnesses of `Obligations.SideControlCompletes`: a state and operands for every clause. -/
theorem witness_SideControlCompletes :
    (∃ (s : State) (t : Nat) (x : _), let b := s.arrive t; b.sideState x = 5 ∧ joinReady b x = true ∧ joistLacking b x = none ∧ b.sideState (otherSide
      x) = 1 ∧ Instr.wf (.sideJoined t x) = true) ∧
    (∃ (s : State) (t : Nat) (x : _), let b := s.arrive t; b.sideState x = 5 ∧ joinReady b x = true ∧ joistLacking b x = none ∧ b.sideState (otherSide
      x) ≠ 1 ∧ Instr.wf (.sideJoined t x) = true) ∧
    (∃ (s : State) (t : Nat) (x : _) (j : _), let b := s.arrive t; b.sideState x = 5 ∧ joinReady b x = true ∧ joistLacking b x = some j ∧ Instr.wf
      (.sideJoined t x) = true) ∧
    (∃ (s : State) (t : Nat) (x : _), let b := s.arrive t; b.sideState x = 5 ∧ Instr.wf (.reinitAttemptFailed t x) = true) ∧
    (∃ (s : State) (t : Nat) (x : _) (r : _), let b := s.arrive t; b.sideState x = 4 ∧ (b.sideRt x).retryAt = some r ∧ r ≤ b.now ∧ b.sides.doubleFault
      = false ∧ Instr.wf (.reinitRetry t x) = true) ∧
    (∃ (s : State) (t : Nat) (c : _), let b := s.arrive t; hostOk b = true ∧ b.ready = true ∧ b.profile ≠ 3 ∧ b.control = some c ∧ b.sideState
      (otherSide c) = 2 ∧ Instr.wf (.handover t) = true) ∧
    (∃ (s : State) (t : Nat), let b := s.arrive t; hostOk b = true ∧ b.profile = 3 ∧ Instr.wf (.handover t) = true) ∧
    (∃ (s : State) (t : Nat) (x : _), let b := s.arrive t; b.control = some x ∧ b.sideState (otherSide x) = 2 ∧ handoverBlocked b = false ∧
      mainTickNow b = true ∧ b.sides.handover = 1 ∧ Instr.wf (.handoverExecute t) = true) ∧
    (∃ (s : State) (t : Nat) (x : _), let b := s.arrive t; hostOk b = true ∧ b.ready = true ∧ b.sideState x = 4 ∧ (b.sideRt x).spent = true ∧
      b.sides.doubleFault = false ∧ Instr.wf (.restore t x) = true) ∧
    (∃ (s : State) (t : Nat) (x : _), let b := s.arrive t; hostOk b = true ∧ b.ready = true ∧ b.profile ≠ 3 ∧ ((b.sideState x = 2 ∧ groupsOn b x = 0)
      ∨ b.sideState x = 4) ∧ b.sides.takeover = none ∧ Instr.wf (.powerDown t x) = true) ∧
    (∃ (s : State) (t : Nat) (x : _), let b := s.arrive t; hostOk b = true ∧ b.ready = true ∧ b.profile ≠ 3 ∧ b.sideState x = 2 ∧ groupsOn b x ≠ 0 ∧
      Instr.wf (.powerDown t x) = true) ∧
    (∃ (s : State) (t : Nat) (x : _), let b := s.arrive t; hostOk b = true ∧ b.ready = true ∧ b.profile ≠ 3 ∧ b.sideState x = 0 ∧ b.sides.doubleFault
      = false ∧ Instr.wf (.powerUp t x) = true) ∧
    (∃ (s : State) (t : Nat) (x : _), let b := s.arrive t; b.feeds x = true ∧ Instr.wf (.doutRequest t x) = true) ∧
    (∃ (s : State) (t : Nat) (t0 : _) (h : _), let b := s.arrive t; b.sides.kerf = some (t0, h) ∧ t0 + usFs 3 ≤ b.now ∧ Instr.wf (.kerfWindowClose t)
      = true) :=
  ⟨⟨put [(0x6021, 1, 0x15000000), (0x7104, 3, 0x8000), (0x7102, 3, 0x8000)] up, 0, .B, by decide +kernel⟩,
   ⟨put [(0x6021, 1, 0x05000000), (0x7104, 3, 0x8000), (0x7102, 3, 0x8000)] up, 0, .B, by decide +kernel⟩,
   ⟨put [(0x6021, 1, 0x05000000), (0x7104, 3, 0x8000), (0x7102, 3, 0x8000), (0x6000, 2, 0x100)] (running up), 0, .B, 15, by decide +kernel⟩,
   ⟨put [(0x6021, 1, 0x15000000)] up, 0, .B, by decide +kernel⟩,
   ⟨{ put [(0x6021, 1, 0x14000000)] up with sides.b.retryAt := some 0 }, 0, .B, 0, by decide +kernel⟩,
   ⟨up, 0, .A, by decide +kernel⟩,
   ⟨put [(0x6000, 2, 3)] up, 0, by decide +kernel⟩,
   ⟨{ up with sides.handover := 1, graphs.a.started := true }, 0, .A, by decide +kernel⟩,
   ⟨{ put [(0x6021, 1, 0x14000000)] up with sides.b.spent := true }, 0, .B, by decide +kernel⟩,
   ⟨up, 0, .B, by decide +kernel⟩,
   ⟨{ driven with plate.pairs := [(71, { PlatePair.init with pair := 71, driving := true, sideB := true })]
                  plate.b.carriers := [(7, { Carrier.init with running := true })] }, 0, .B, by decide +kernel⟩,
   ⟨put [(0x6021, 1, 0x10000000)] up, 0, .B, by decide +kernel⟩,
   ⟨up, 0, .B, by decide +kernel⟩,
   ⟨{ up with now := usFs 3, sides.kerf := some (0, 0) }, 0, 0, 0, by decide +kernel⟩⟩

/-- Witnesses of `Obligations.SafetyCompletes`: a state and operands for every clause. -/
theorem witness_SafetyCompletes :
    (∃ (s : State) (t : Nat),
      let b := s.arrive t;
      b.ready = true ∧ b.gfState ≠ 6 ∧ Instr.wf (.safetyChannelFault t) = true) ∧
    (∃ (_ : State) (t : Nat) (n : _) (hT : _) (hC : _) (h : _), n < 8 ∧ Instr.wf (.sealReadingAccepted t n hT hC h) = true) ∧
    (∃ (_ : State) (t : Nat) (n : _) (hT : _) (hC : _) (h : _), n < 8 ∧ h < 10000000 ∧ Instr.wf (.sealReadingAccepted t n hT hC h) = true) ∧
    (∃ (s : State) (t : Nat) (n : _) (hT : _) (hC : _) (h : _),
      let b := s.arrive t;
      n < 5 ∧ 10000000 ≤ h ∧ b.ready = true ∧ (hT = hC ∨ b.safety.held.testBit n ≠ (sealReading hT hC == 1)) ∧ Instr.wf (.sealReadingAccepted t n hT hC
      h) = true) ∧
    (∃ (s : State) (t : Nat) (n : _) (hT : _) (hC : _) (h : _),
      let b := s.arrive t;
      n < 5 ∧ 10000000 ≤ h ∧ hT ≠ hC ∧ b.ready = false ∧ Instr.wf (.sealReadingAccepted t n hT hC h) = true) ∧
    (∃ (s : State) (t : Nat) (hT : _) (hC : _) (h : _),
      let b := s.arrive t;
      10000000 ≤ h ∧ sealReading hT hC = 1 ∧ b.ready = false ∧ sinEnabled b = false ∧ demandMask b ≠ 0 ∧ Instr.wf (.sealReadingAccepted t 0 hT hC h) =
      true) ∧
    (∃ (_ : State) (t : Nat) (n : _) (hT : _) (hC : _) (h : _), 5 ≤ n ∧ n < 8 ∧ 10000000 ≤ h ∧ Instr.wf (.sealReadingAccepted t n hT hC h) = true) ∧
    (∃ (s : State) (t : Nat) (n : _) (h : _) (c : _),
      let b := s.arrive t;
      let filter := sinFilterNs (pstClass b);
      n < 8 ∧ 1 ≤ c ∧ c < 4 ∧ filter ≤ h ∧ sinEnabled b = true ∧ pairDemands b (n % 4) = false ∧ Instr.wf (.sinFilterExpiry t n false h c) = true) ∧
    (∃ (s : State) (t : Nat) (n : _) (h : _) (c : _),
      let b := s.arrive t;
      let filter := sinFilterNs (pstClass b);
      n < 8 ∧ 1 ≤ c ∧ c < 4 ∧ filter ≤ h ∧ sinEnabled b = true ∧ Instr.wf (.sinFilterExpiry t n true h c) = true) ∧
    (∃ (s : State) (t : Nat) (n : _) (l : _) (h : _) (c : _),
      let b := s.arrive t;
      let filter := sinFilterNs (pstClass b);
      n < 8 ∧ 1 ≤ c ∧ c < 4 ∧ h < filter ∧ Instr.wf (.sinFilterExpiry t n l h c) = true) ∧
    (∃ (s : State) (t : Nat) (n : _) (d : _),
      let b := s.arrive t;
      n < 4 ∧ sinEnabled b = true ∧ Store.get 0 n b.safety.discSince = d + 1 ∧ d + msFs (sinDiscrepancyMs (pstClass b)) ≤ b.now ∧ b.bit 0x6800 2 (12 +
      n) = false ∧ Instr.wf (.sinDiscrepancy t n) = true) ∧
    (∃ (s : State) (t : Nat) (v : _),
      let b := s.arrive t;
      v < 256 ∧ hostOk b = true ∧ Instr.wf (.soutRequestWrite t v) = true) ∧
    (∃ (s : State) (t : Nat) (n : _),
      let b := s.arrive t;
      n < 8 ∧ soutHigh b n = true ∧ b.safety.testing.testBit n = false ∧ pulseDue b n = true ∧ Instr.wf (.soutTestPulse t n) = true) ∧
    (∃ (s : State) (t : Nat) (n : _),
      let b := s.arrive t;
      n < 8 ∧ testOver b n = true ∧ b.safety.discarded.testBit n = false ∧ Instr.wf (.soutTestEnd t n true true) = true) ∧
    (∃ (s : State) (t : Nat) (n : _) (lo : _) (hi : _),
      let b := s.arrive t;
      n < 8 ∧ testOver b n = true ∧ b.safety.discarded.testBit n = true ∧ Instr.wf (.soutTestEnd t n lo hi) = true) ∧
    (∃ (s : State) (t : Nat) (n : _) (lo : _) (hi : _),
      let b := s.arrive t;
      n < 8 ∧ testOver b n = true ∧ b.safety.discarded.testBit n = false ∧ (lo = false ∨ hi = false) ∧ Instr.wf (.soutTestEnd t n lo hi) = true) ∧
    (∃ (_ : State) (t : Nat) (n : _) (v : _) (h : _), n < 8 ∧ Instr.wf (.soutStuckOn t n v h) = true) ∧
    (∃ (s : State) (t : Nat) (n : _) (h : _),
      let b := s.arrive t;
      n < 8 ∧ 100000 ≤ h ∧ lowLong b n = true ∧ Instr.wf (.soutStuckOn t n true h) = true) ∧
    (∃ (s : State) (t : Nat) (d : _),
      let b := s.arrive t;
      100000 ≤ d ∧ d ≤ 2000000 ∧ b.safety.freshFrom + usFs d ≤ b.now ∧ resetActs b = true ∧ Instr.wf (.safetyReset t d) = true) ∧
    (∃ (s : State) (t : Nat) (d : _), d < 100000 ∧ Instr.wf (.safetyReset t d) = true) ∧
    (∃ (s : State) (t : Nat) (d : _),
      let b := s.arrive t;
      (2000000 < d ∨ (100000 ≤ d ∧ (resetActs b = false ∨ b.now < b.safety.freshFrom + usFs d))) ∧ Instr.wf (.safetyReset t d) = true) ∧
    (∃ (s : State) (t : Nat), Instr.wf (.resetStuck t) = true) ∧
    (∃ (s : State) (t : Nat), Instr.wf (.resetDiscrepancy t) = true) ∧
    (∃ (s : State) (t : Nat),
      let b := s.arrive t;
      b.safety.blocks ≠ 0 ∧ b.safety.lineAt + secFs 1 ≤ b.now ∧ Instr.wf (.resetBlockEnd t) = true) ∧
    (∃ (s : State) (t : Nat),
      let b := s.arrive t;
      b.now < b.safety.lineAt + secFs 1 ∧ Instr.wf (.resetBlockEnd t) = true) :=
  ⟨⟨up, 0, by decide +kernel⟩,
   ⟨up, 0, 7, true, true, 0, by decide +kernel⟩,
   ⟨up, 0, 7, true, true, 9999999, by decide +kernel⟩,
   ⟨up, 0, 4, true, true, 10000000, by decide +kernel⟩,
   ⟨atStage 6, 0, 4, true, false, 10000000, by decide +kernel⟩,
   ⟨{ atStage 6 with safety.a.sin := 8 }, 0, false, true, 10000000, by decide +kernel⟩,
   ⟨up, 0, 7, true, false, 10000000, by decide +kernel⟩,
   ⟨put [(0x6800, 2, 0x800000)] up, 0, 7, 500, 2, by decide +kernel⟩,
   ⟨put [(0x6800, 2, 0x800000)] up, 0, 7, 500, 3, by decide +kernel⟩,
   ⟨put [(0x6800, 2, 0x800000)] up, 0, 7, true, 499, 1, by decide +kernel⟩,
   ⟨{ put [(0x6800, 2, 0x800000)] up with now := msFs 10, safety.discSince := [(3, 1)] }, 0, 3, 0, by decide +kernel⟩,
   ⟨up, 0, 255, by decide +kernel⟩,
   ⟨{ put [(0x6800, 4, 8)] up with ridge := rns 175000000, safety.b.permit := true }, 0, 7, by decide +kernel⟩,
   ⟨{ up with now := 10 ^ 18, safety.testing := 0x80 }, 0, 7, by decide +kernel⟩,
   ⟨{ up with now := 10 ^ 18, safety.testing := 0x80, safety.discarded := 0x80 }, 0, 7, true, true, by decide +kernel⟩,
   ⟨{ up with now := 10 ^ 18, safety.testing := 0x80 }, 0, 7, true, false, by decide +kernel⟩,
   ⟨up, 0, 7, true, 0, by decide +kernel⟩,
   ⟨{ up with now := 10 ^ 18, safety.lowFrom := [(7, 1)] }, 0, 7, 100000, by decide +kernel⟩,
   ⟨{ up with now := usFs 2000000, safety.blocks := 0 }, 0, 2000000, by decide +kernel⟩,
   ⟨up, 0, 99999, by decide +kernel⟩,
   ⟨up, 0, 2000001, by decide +kernel⟩,
   ⟨up, 0, by decide +kernel⟩,
   ⟨up, 0, by decide +kernel⟩,
   ⟨{ up with now := secFs 1, safety.blocks := 1, safety.lineAt := 0 }, 0, by decide +kernel⟩,
   ⟨{ up with now := secFs 1 - 1, safety.lineAt := 0 }, 0, by decide +kernel⟩⟩

/-- Witnesses of `Obligations.SharingCompletes`: a state and operands for every clause. -/
theorem witness_SharingCompletes :
    (∃ (s : State) (t r inst unit num : Nat) (x : Side) (held addr : Nat) (w : Bool),
      let b := s.arrive t;
      let who := 2 * num + sideIx x;
      r < 8 ∧ inst < resInstances r ∧ unit < 6 ∧ addr < 2 ^ 32 ∧ (unit < 2 → held = 0) ∧ b.heard unit who = false ∧ Instr.wf (.arbiterRequest t r inst
      unit num x held addr w) = true) ∧
    (∃ (s : State) (t r inst unit num : Nat) (x : Side) (held addr : Nat) (w : Bool),
      let b := s.arrive t;
      let who := 2 * num + sideIx x;
      r < 8 ∧ inst < resInstances r ∧ unit < 6 ∧ addr < 2 ^ 32 ∧ (unit < 2 → held = 0) ∧ b.heard unit who = true ∧ orderBroken (holds b unit who held)
      (resPosition r inst) = true ∧ holdsLink b unit who = false ∧ Instr.wf (.arbiterRequest t r inst unit num x held addr w) = true) ∧
    (∃ (s : State) (t r inst unit num : Nat) (x : Side) (held addr : Nat) (w : Bool),
      let b := s.arrive t;
      let who := 2 * num + sideIx x;
      r < 8 ∧ inst < resInstances r ∧ unit < 6 ∧ addr < 2 ^ 32 ∧ (unit < 2 → held = 0) ∧ b.heard unit who = true ∧ orderBroken (holds b unit who held)
      (resPosition r inst) = true ∧ holdsLink b unit who = true ∧ unit = 5 ∧ b.sharing.linkC5 = [] ∧ b.sharing.link = [] ∧ Instr.wf (.arbiterRequest t
      r inst unit num x held addr w) = true) ∧
    (∃ (s : State) (t r inst unit num : Nat) (x : Side) (held addr : Nat) (w : Bool),
      let b := s.arrive t;
      let who := 2 * num + sideIx x;
      r < 8 ∧ inst < resInstances r ∧ unit < 6 ∧ addr < 2 ^ 32 ∧ (unit < 2 → held = 0) ∧ b.heard unit who = true ∧ orderBroken (holds b unit who held)
      (resPosition r inst) = false ∧ r < 7 ∧ classPresent r unit = true ∧ Instr.wf (.arbiterRequest t r inst unit num x held addr w) = true) ∧
    (∃ (s : State) (t r inst unit num : Nat) (x : Side) (held addr : Nat) (w : Bool),
      let b := s.arrive t;
      let who := 2 * num + sideIx x;
      r < 8 ∧ inst < resInstances r ∧ unit < 6 ∧ addr < 2 ^ 32 ∧ (unit < 2 → held = 0) ∧ b.heard unit who = true ∧ orderBroken (holds b unit who held)
      (resPosition r inst) = false ∧ r < 7 ∧ classPresent r unit = false ∧ Instr.wf (.arbiterRequest t r inst unit num x held addr w) = true) ∧
    (∃ (s : State) (t r inst unit num : Nat) (x : Side) (held addr : Nat) (w : Bool),
      let b := s.arrive t;
      let who := 2 * num + sideIx x;
      r < 8 ∧ inst < resInstances r ∧ unit < 6 ∧ addr < 2 ^ 32 ∧ (unit < 2 → held = 0) ∧ orderBroken (holds b unit who held) (resPosition r inst) =
      false ∧ r = 7 ∧ unit = 5 ∧ b.sharing.linkBusy.isSome = true ∧ Instr.wf (.arbiterRequest t r inst unit num x held addr w) = true) ∧
    (∃ (s : State) (t r inst unit num : Nat) (x : Side) (held addr : Nat) (w : Bool),
      let b := s.arrive t;
      let who := 2 * num + sideIx x;
      r < 8 ∧ inst < resInstances r ∧ unit < 6 ∧ addr < 2 ^ 32 ∧ (unit < 2 → held = 0) ∧ orderBroken (holds b unit who held) (resPosition r inst) =
      false ∧ r = 7 ∧ unit = 5 ∧ b.sharing.linkBusy = none ∧ b.sharing.link = [] ∧ b.sharing.linkC5 = [] ∧ b.sharing.c5Tries = none ∧ (b.sharing.c5Last
      = 0 ∨ b.sharing.c5Last + secFs 1 ≤ b.now) ∧ Instr.wf (.arbiterRequest t r inst unit num x held addr w) = true) ∧
    (∃ (s : State) (t : Nat) (n : _) (cls : _) (who : _) (held : _),
      let b := s.arrive t;
      n < 32 ∧ cls < 6 ∧ b.heard cls who = false ∧ Instr.wf (.semaphoreRequest t n cls who held) = true) ∧
    (∃ (s : State) (t : Nat) (n : _) (cls : _) (who : _) (held : _),
      let b := s.arrive t;
      n < 32 ∧ cls < 6 ∧ b.heard cls who = true ∧ orderBroken (holds b cls who held) (semPosition n) = true ∧ Instr.wf (.semaphoreRequest t n cls who
      held) = true) ∧
    (∃ (s : State) (t : Nat) (n : _) (cls : _) (who : _) (held : _),
      let b := s.arrive t;
      n < 32 ∧ 2 ≤ cls ∧ cls ≤ 4 ∧ b.heard cls who = true ∧ orderBroken (holds b cls who held) (semPosition n) = false ∧ Instr.wf (.semaphoreRequest t
      n cls who held) = true) ∧
    (∃ (s : State) (t : Nat) (n : _) (cls : _) (who : _),
      let b := s.arrive t;
      n < 32 ∧ cls < 6 ∧ (b.sem n).holder = some (cls, who) ∧ b.now ≤ (b.sem n).lease ∧ Instr.wf (.semaphoreRelease t n cls who) = true) ∧
    (∃ (s : State) (t : Nat) (n : _) (cls : _) (who : _),
      let b := s.arrive t;
      n < 32 ∧ cls < 6 ∧ ((b.sem n).holder ≠ some (cls, who) ∨ (b.sem n).lease < b.now) ∧ Instr.wf (.semaphoreRelease t n cls who) = true) ∧
    (∃ (s : State) (t : Nat) (n : _) (p : _),
      let b := s.arrive t;
      n < 32 ∧ (b.sem n).holder = some p ∧ (b.sem n).lease ≤ b.now ∧ Instr.wf (.semaphoreLeaseExpired t n) = true) ∧
    (∃ (s : State) (t : Nat) (n : _) (q : _) (rest : _),
      let b := s.arrive t;
      s.boot.restartAt = none ∧ (s.sem n).holder = none ∧ (s.sem n).queue = q :: rest ∧ q.2.2 < b.ticks ∧ (∀ p ∈ q :: rest, b.heard p.1 p.2.1 = true)) ∧
    (∃ (s : State) (t : Nat) (r : _) (inst : _) (k : _) (pos : _) (start : _) (c : _) (q : _), r < 7 ∧ pos < wheelSlots r ∧ (decideSlot r k pos
      (tablesIn s r start) (s.arbiter r inst)).1 = some c ∧ headOf (s.arbiter r inst) (s.arbiter r inst).reqs c = some q) :=
  ⟨⟨put [(0x6021, 1, 0x10000000)] up, 0, 6, 0, 2, 0, .B, 0, 2 ^ 32 - 1, true, by decide +kernel⟩,
   ⟨up, 0, 6, 0, 5, 0, .B, 5 * 2 ^ 20 + 34, 2 ^ 32 - 1, true, by decide +kernel⟩,
   ⟨{ up with sharing.c5Tries := some 0, sharing.c5Who := 1 }, 0, 6, 0, 5, 0, .B, 0, 2 ^ 32 - 1, true, by decide +kernel⟩,
   ⟨up, 0, 6, 0, 5, 0, .B, 0, 2 ^ 32 - 1, true, by decide +kernel⟩,
   ⟨up, 0, 2, 0, 1, 0, .B, 0, 2 ^ 32 - 1, true, by decide +kernel⟩,
   ⟨{ up with sharing.linkBusy := some (3, 15) }, 0, 7, 0, 5, 0, .B, 0, 2 ^ 32 - 1, true, by decide +kernel⟩,
   ⟨up, 0, 7, 0, 5, 0, .B, 0, 2 ^ 32 - 1, true, by decide +kernel⟩,
   ⟨put [(0x6021, 1, 0x10000000)] up, 0, 31, 2, 1, 0, by decide +kernel⟩,
   ⟨up, 0, 31, 5, 0, 5 * 2 ^ 20 + 34, by decide +kernel⟩,
   ⟨up, 0, 31, 4, 0, 5 * 2 ^ 20 + 33, by decide +kernel⟩,
   ⟨{ up with sharing.sems := [(31, ⟨some (4, 9), 0, []⟩)] }, 0, 31, 4, 9, by decide +kernel⟩,
   ⟨{ up with sharing.sems := [(31, ⟨some (4, 9), 0, []⟩)] }, 0, 31, 3, 9, by decide +kernel⟩,
   ⟨{ up with sharing.sems := [(31, ⟨some (4, 9), 0, []⟩)] }, 0, 31, (4, 9), by decide +kernel⟩,
   ⟨{ up with sharing.sems := [(31, ⟨none, 0, [(4, 9, 0)]⟩)] }, tickFs, 31, (4, 9, 0), [], by decide +kernel⟩,
   ⟨{ up with sharing.arbs := [(6 * 65536, { Arbiter.init with reqs := [⟨0, 9, 0, false, 0⟩] })] }, 0, 6, 0, 0, 0, 0, 0, ⟨0, 9, 0, false, 0⟩, by decide +kernel⟩⟩

/-- Witnesses of `Obligations.RidgeTimeCompletes`: a state and operands for every clause. -/
theorem witness_RidgeTimeCompletes :
    (∃ (s : State) (t : Nat) (v : _), let b := s.arrive t; v < 2 ^ 64 ∧ hostOk b = true ∧ incRefused b (v % 2 ^ 40) = false ∧ Instr.wf
      (.incrementWrite t v) = true) ∧
    (∃ (s : State) (t : Nat) (v : _), let b := s.arrive t; v < 2 ^ 64 ∧ hostOk b = true ∧ incRefused b (v % 2 ^ 40) = true ∧ Instr.wf
      (.incrementWrite t v) = true) ∧
    (∃ (s : State) (t : Nat) (v : _), let b := s.arrive t; v < 2 ^ 96 ∧ hostOk b = true ∧ stepAllowed b = true ∧ Instr.wf (.timeSet t v) = true) ∧
    (∃ (s : State) (t : Nat) (v : _), let b := s.arrive t; v < 2 ^ 64 ∧ hostOk b = true ∧ stepAllowed b = true ∧ Instr.wf (.timeAdjust t v) = true) ∧
    (∃ (s : State) (t : Nat) (v : _), let b := s.arrive t; v < 2 ^ 96 ∧ hostOk b = true ∧ stepAllowed b = false ∧ Instr.wf (.timeSet t v) = true) ∧
    (∃ (s : State) (t : Nat) (v : _), let b := s.arrive t; v < 2 ^ 64 ∧ hostOk b = true ∧ stepAllowed b = false ∧ Instr.wf (.timeAdjust t v) = true) ∧
    (∃ (s : State) (t : Nat) (set : _) (v : _) (r : _) (cs : _), let b := s.arrive t; b.clock.steps = (set, v, r) :: cs ∧ r + rns 2000 ≤ b.ridge ∧
      Instr.wf (.timeStep t) = true) ∧
    (∃ (s : State) (t : Nat), let b := s.arrive t; b.num 0x7030 6 ≠ 0 ∧ ofT96 (b.num 0x7030 7) ≤ b.ridge ∧ Instr.wf (.leapSecond t) = true) ∧
    (∃ (s : State) (t : Nat), let b := s.arrive t; b.clock.lastWhole < rSecs b.ridge ∧ Instr.wf (.ppsOutPulse t) = true) ∧
    (∃ (s : State) (t : Nat) (v : _), let b := s.arrive t; v < 2 ^ 96 ∧ b.timeSource ≠ 2 ∧ Instr.wf (.ppsInEdge t v) = true) ∧
    (∃ (s : State) (t : Nat) (v : _), let b := s.arrive t; v < 2 ^ 96 ∧ b.timeSource = 2 ∧ Instr.wf (.ppsInEdge t v) = true) ∧
    (∃ (s : State) (t : Nat), let b := s.arrive t; b.timeSource = 2 ∧ b.clock.ppsLast.getD 0 + msFs 1100 ≤ b.now ∧ b.holdover = false ∧ Instr.wf
      (.ppsInTimeout t) = true) ∧
    (∃ (s : State) (t : Nat), let b := s.arrive t; b.timeSource ≠ 0 ∧ b.holdover = true ∧ b.clock.holdAt + secFs (b.num 0x7010 6) ≤ b.now ∧ Instr.wf
      (.holdoverValidExpiry t) = true) :=
  ⟨⟨put [(0x7010, 1, 0x02000000)] up, 0, 40 * 2 ^ 32, by decide +kernel⟩,
   ⟨up, 0, 2 ^ 64 - 1, by decide +kernel⟩,
   ⟨up, 0, 2 ^ 96 - 1, by decide +kernel⟩,
   ⟨up, 0, 2 ^ 64 - 1, by decide +kernel⟩,
   ⟨put [(0x4001, 3, 2)] up, 0, 2 ^ 96 - 1, by decide +kernel⟩,
   ⟨put [(0x4001, 3, 2)] up, 0, 2 ^ 64 - 1, by decide +kernel⟩,
   ⟨{ up with ridge := rns 2000, clock.steps := [(true, 5, 0)] }, 0, true, 5, 0, [], by decide +kernel⟩,
   ⟨put [(0x7030, 6, 2)] up, 0, by decide +kernel⟩,
   ⟨{ up with ridge := rns 1000000000 }, 0, by decide +kernel⟩,
   ⟨up, 0, 2 ^ 96 - 1, by decide +kernel⟩,
   ⟨put [(0x7010, 1, 0x08000000)] up, 0, 2 ^ 96 - 1, by decide +kernel⟩,
   ⟨{ put [(0x7010, 1, 0x08000000)] up with now := msFs 1100 }, 0, by decide +kernel⟩,
   ⟨{ put [(0x7010, 1, 0x04000000), (0x7000, 5, 0x40000000)] up with now := 10 ^ 24 }, 0, by decide +kernel⟩⟩

/-- Witnesses of `Obligations.PtpCompletes`: a state and operands for every clause. -/
theorem witness_PtpCompletes :
    (∃ (s : State) (t : Nat) (x : _) (ether : _) (dom : _) (t1 : _) (t2 : _) (corr : _) (gm : _),
      let b := s.arrive t;
      x < 2 ∧ dom < 256 ∧ t1 < 2 ^ 96 ∧ t2 < 2 ^ 96 ∧ corr < 2 ^ 64 ∧ gm < 2 ^ 64 ∧ ptpOurs b ether dom = true ∧ portUp b x = true ∧ portState b x = 9
      ∧ portGm b x = some gm ∧ Instr.wf (.ptpSyncReceived t x ether dom t1 t2 corr gm) = true) ∧
    (∃ (s : State) (t : Nat) (x : _) (ether : _) (dom : _) (t1 : _) (t2 : _) (corr : _) (gm : _),
      let b := s.arrive t;
      x < 2 ∧ dom < 256 ∧ t1 < 2 ^ 96 ∧ t2 < 2 ^ 96 ∧ corr < 2 ^ 64 ∧ gm < 2 ^ 64 ∧ ptpOurs b ether dom = false ∧ Instr.wf (.ptpSyncReceived t x ether
      dom t1 t2 corr gm) = true) ∧
    (∃ (s : State) (t : Nat) (x : _) (d : _),
      let b := s.arrive t;
      x < 2 ∧ d < 2 ^ 64 ∧ portUp b x = true ∧ portState b x ≠ 9 ∧ b.bit 0x7010 1 28 = true ∧ b.timeRole ≠ 0 ∧ Instr.wf (.pathDelayMeasurement t x d) =
      true) ∧
    (∃ (s : State) (t : Nat) (x : _) (d : _),
      let b := s.arrive t;
      x < 2 ∧ d < 2 ^ 64 ∧ portUp b x = true ∧ portState b x = 9 ∧ portHold b x = false ∧ portSuspect b x = false ∧ ((b.ptpPort x).meas = [] ∨ (sx 64 d
      - sx 64 (b.num (0x7028 + x) 3)).natAbs ≤ stepThreshold b x) ∧ Instr.wf (.pathDelayMeasurement t x d) = true) ∧
    (∃ (s : State) (t : Nat) (x : _) (d : _),
      let b := s.arrive t;
      x < 2 ∧ d < 2 ^ 64 ∧ portUp b x = true ∧ portState b x = 9 ∧ portHold b x = false ∧ (b.ptpPort x).meas ≠ [] ∧ stepThreshold b x < (sx 64 d - sx
      64 (b.num (0x7028 + x) 3)).natAbs ∧ Instr.wf (.pathDelayMeasurement t x d) = true) ∧
    (∃ (s : State) (t : Nat) (x : _) (v : _),
      let b := s.arrive t;
      x < 2 ∧ v < 2 ^ 32 ∧ hostOk b = true ∧ portHold b x = true ∧ (b.ptpPort x).sinceSuspect ≠ [] ∧ Instr.wf (.pathConfirm t x v) = true) ∧
    (∃ (s : State) (t : Nat) (x : _) (v : _),
      let b := s.arrive t;
      x < 2 ∧ v < 2 ^ 32 ∧ hostOk b = true ∧ (portHold b x = false ∨ (b.ptpPort x).sinceSuspect = []) ∧ Instr.wf (.pathConfirm t x v) = true) ∧
    (∃ (s : State) (t : Nat) (x : _) (ether : _) (dom : _) (gm : _) (p1 : _) (cls : _) (acc : _) (var : _) (p2 : _) (steps : _) (sender : _),
      let b := s.arrive t;
      x < 2 ∧ dom < 256 ∧ gm < 2 ^ 64 ∧ p1 < 256 ∧ cls < 256 ∧ acc < 256 ∧ var < 65536 ∧ p2 < 256 ∧ steps < 65536 ∧ sender < 2 ^ 64 ∧ ptpOurs b ether
      dom = true ∧ portUp b x = true ∧ (b.timeRole = 2 ∨ b.timeRole = 3) ∧ Instr.wf (.ptpAnnounceReceived t x ether dom gm p1 cls acc var p2 steps
      sender) = true) ∧
    (∃ (s : State) (t : Nat) (x : _),
      let b := s.arrive t;
      x < 2 ∧ b.bit (0x7028 + x) 2 13 = true ∧ Instr.wf (.announceTimeout t x) = true) ∧
    (∃ (s : State) (t : Nat) (x : _),
      let b := s.arrive t;
      x < 2 ∧ b.bit (0x7028 + x) 2 13 = false ∧ b.timeSource = 1 ∧ portUsable b (servoPort b) = false ∧ otherCanServe b = false ∧ Instr.wf
      (.announceTimeout t x) = true) ∧
    (∃ (s : State) (t : Nat) (x : _),
      let b := s.arrive t;
      x < 2 ∧ portUp b x = true ∧ portState b x = 6 ∧ Instr.wf (.ptpSyncSend t x) = true) ∧
    (∃ (s : State) (t : Nat) (x : _),
      let b := s.arrive t;
      x < 2 ∧ portUp b x = true ∧ (portState b x = 9 ∨ (b.bit 0x7010 1 28 = true ∧ b.timeRole ≠ 0)) ∧ Instr.wf (.ptpDelayRequestSend t x) = true) ∧
    (∃ (s : State) (t : Nat) (x : _),
      let b := s.arrive t;
      x < 2 ∧ portUp b x = true ∧ portState b x = 6 ∧ Instr.wf (.ptpAnnounceSend t x) = true) ∧
    (∃ (s : State) (t : Nat) (x : _) (f : _),
      let b := s.arrive t;
      let shortEnough := fun (f : Frame) => f.len ≤ if f.vlan = 0 then 1518 else 1522;
      x < 2 ∧ f.wf = true ∧ shortEnough f ∧ f.isPtp = true ∧ f.fcsOk = true ∧ f.src ≠ ownMac b ∧ portServed b x = true ∧ portUp b x = true ∧ etherOk
      f.etherType = true ∧ vlanOk b f.vlan = true ∧ ptpOurs b (f.etherType == 0x88F7) f.domain = true) :=
  ⟨⟨{ put [(0x7029, 1, 9), (0x7028, 1, 9), (0x7010, 1, 0x00FF0000)] up with ptp := [(1, { PtpPort.init with master := some [7] })] }, 0, 1, false, 255,
     2 ^ 96 - 1, 2 ^ 96 - 1, 2 ^ 64 - 1, 7, by decide +kernel⟩,
   ⟨put [(0x7010, 1, 0x00FF0000)] up, 0, 1, false, 254, 2 ^ 96 - 1, 2 ^ 96 - 1, 2 ^ 64 - 1, 7, by decide +kernel⟩,
   ⟨put [(0x7010, 1, 0x70000000)] up, 0, 1, 2 ^ 64 - 1, by decide +kernel⟩,
   ⟨put [(0x7029, 1, 9), (0x7028, 1, 9)] up, 0, 1, 2 ^ 64 - 1, by decide +kernel⟩,
   ⟨{ put [(0x7029, 1, 9), (0x7028, 1, 9)] up with ptp := [(1, { PtpPort.init with meas := [0] })] }, 0, 1, 2 ^ 63 - 1, by decide +kernel⟩,
   ⟨{ put [(0x7029, 2, 0x4000)] up with ptp := [(1, { PtpPort.init with sinceSuspect := [0] })] }, 0, 1, 2 ^ 32 - 1, by decide +kernel⟩,
   ⟨up, 0, 1, 2 ^ 32 - 1, by decide +kernel⟩,
   ⟨put [(0x7010, 1, 0x60FF0000)] up, 0, 1, false, 255, 2 ^ 64 - 1, 255, 255, 255, 65535, 255, 65535, 2 ^ 64 - 1, by decide +kernel⟩,
   ⟨put [(0x7029, 2, 0x2000)] up, 0, 1, by decide +kernel⟩,
   ⟨put [(0x7010, 1, 0x04000000)] up, 0, 1, by decide +kernel⟩,
   ⟨put [(0x7029, 1, 6)] up, 0, 1, by decide +kernel⟩,
   ⟨put [(0x7029, 1, 9)] up, 0, 1, by decide +kernel⟩,
   ⟨put [(0x7029, 1, 6)] up, 0, 1, by decide +kernel⟩,
   ⟨put [(0x7010, 1, 0x10FF0000), (0x1010, 1, 6)] up, 0, 1, ⟨0x88F7, 0, 1518, true, 1, 2, false, false, 0, true, 0, 255, 65535, 2 ^ 64 - 1, 2 ^ 64 - 1, none⟩, by decide +kernel⟩⟩

set_option maxRecDepth 100000 in
/-- Witnesses of `Obligations.ReferencesComplete`: a state and operands for every clause. -/
theorem witness_ReferencesComplete :
    (∃ (s : State) (t : Nat) (alt : _) (e : _), let b := s.arrive t; refFaulty b alt = false ∧ altInUse b ≠ alt ∧ Instr.wf (.refFault t alt true e) =
      true) ∧
    (∃ (s : State) (t : Nat) (alt : _) (e : _), let b := s.arrive t; refFaulty b alt = false ∧ altInUse b = alt ∧ b.bit 0x7040 1 15 = true ∧
      refFaulty b (!alt) = false ∧ Instr.wf (.refFault t alt true e) = true) ∧
    (∃ (s : State) (t : Nat) (alt : _) (e : _), let b := s.arrive t; refFaulty b alt = false ∧ altInUse b = alt ∧ (b.bit 0x7040 1 15 = false ∨
      refFaulty b (!alt) = true) ∧ b.ready = true ∧ b.gfState ≠ 6 ∧ Instr.wf (.refFault t alt true e) = true) ∧
    (∃ (_ : State) (t : Nat) (alt : _) (e : _), Instr.wf (.refFault t alt false e) = true) ∧
    (∃ (s : State) (t : Nat) (v : _), let b := s.arrive t; (v = 1 ∨ v = 2) ∧ hostOk b = true ∧ refFaulty b (v == 2) = false ∧ Instr.wf
      (.refSwitchCommand t v) = true) ∧
    (∃ (s : State) (t : Nat) (v : _), let b := s.arrive t; (v = 1 ∨ v = 2) ∧ hostOk b = true ∧ refFaulty b (v == 2) = true ∧ Instr.wf
      (.refSwitchCommand t v) = true) ∧
    (∃ (s : State) (t : Nat) (alt : _) (app : _), let b := s.arrive t; s.boot.restartAt = none ∧ s.clock.refCmds = [(alt, app)] ∧ app ≤ b.ridge ∧
      s.clock.refDead.testBit alt.toNat = false) ∧
    (∃ (s : State) (t : Nat) (d : _), let b := s.arrive t; d < 2 ^ 32 ∧ refFaulty b false = false ∧ refFaulty b true = false ∧ Instr.wf (.refDisagree
      t d) = true) ∧
    (∃ (s : State) (t : Nat) (p : _), let b := s.arrive t; p < 5 ∧ b.bit (0x7100 + p) 3 14 = false ∧ startAsked b p = true ∧ Instr.wf (.pllStart t p)
      = true) ∧
    (∃ (s : State) (t : Nat) (p : _) (x : _) (l : _), let b := s.arrive t; p < 5 ∧ b.bit (0x7100 + p) 3 14 = true ∧ pllLocked b p = false ∧ (b.pll
      p).phase = 1 ∧ (b.pll p).bands = x :: l ∧ lockTime b p = true ∧ withinStart b p 20 = true ∧ Instr.wf (.pllLock t p) = true) ∧
    (∃ (s : State) (t : Nat) (p : _) (w : _) (x : _) (l : _), let b := s.arrive t; p < 5 ∧ b.bit (0x7100 + p) 3 14 = true ∧ pllLocked b p = false ∧
      (b.pll p).phase = 2 ∧ (b.pll p).bands = w :: x :: l ∧ lockTime b p = true ∧ withinStart b p 40 = true ∧ Instr.wf (.pllLock t p) = true) ∧
    (∃ (s : State) (t : Nat) (p : _) (w : _) (x : _) (l : _), let b := s.arrive t; p < 5 ∧ pllLocked b p = false ∧ (b.pll p).phase = 1 ∧ (b.pll
      p).bands = w :: x :: l ∧ (b.pll p).startedAt + usFs 20 ≤ b.now ∧ Instr.wf (.pllRetryBand t p) = true) ∧
    (∃ (s : State) (t : Nat) (p : _), let b := s.arrive t; p < 5 ∧ sweepAsked b p = true ∧ (p = 0 ∨ b.sideState (pllSide p) ≠ 5) ∧ Instr.wf
      (.pllSweep t p) = true) ∧
    (∃ (s : State) (t : Nat) (p : _), let b := s.arrive t; 1 ≤ p ∧ p < 5 ∧ sweepAsked b p = true ∧ b.sideState (pllSide p) = 5 ∧ Instr.wf (.pllSweep
      t p) = true) ∧
    (∃ (s : State) (t : Nat) (p : _) (l : _) (x : _), let b := s.arrive t; p < 5 ∧ bytesOk l = true ∧ (b.pll p).phase = 3 ∧ (b.pll p).stepAt + usFs
      1600 ≤ b.now ∧ bandChoice l (b.num (0x7100 + p) 2) = some x ∧ Instr.wf (.pllSweepDone t p l) = true) ∧
    (∃ (s : State) (t : Nat) (l : _), let b := s.arrive t; bytesOk l = true ∧ (b.pll 0).phase = 3 ∧ (b.pll 0).stepAt + usFs 1600 ≤ b.now ∧ bandChoice
      l (b.num 0x7100 2) = none ∧ b.ready = true ∧ b.gfState ≠ 6 ∧ Instr.wf (.pllSweepDone t 0 l) = true) ∧
    (∃ (s : State) (t : Nat) (x : _), let b := s.arrive t; pllLocked b 0 = true ∧ Instr.wf (.pllLockLost t 0 x) = true) ∧
    (∃ (s : State) (t : Nat) (p : _) (x : _), let b := s.arrive t; 1 ≤ p ∧ p < 5 ∧ pllLocked b p = true ∧ b.ready = true ∧ b.sideState (pllSide p) =
      1 ∧ b.sideState (otherSide (pllSide p)) = 2 ∧ Instr.wf (.pllLockLost t p x) = true) :=
  ⟨⟨up, 0, true, true, by decide +kernel⟩,
   ⟨put [(0x7040, 1, 0x8000)] up, 0, false, false, by decide +kernel⟩,
   ⟨put [(0x7040, 1, 0)] up, 0, false, false, by decide +kernel⟩,
   ⟨up, 0, true, true, by decide +kernel⟩,
   ⟨up, 0, 2, by decide +kernel⟩,
   ⟨put [(0x7040, 2, 0x2000)] up, 0, 2, by decide +kernel⟩,
   ⟨{ up with clock.refCmds := [(true, 0)] }, 0, true, 0, by decide +kernel⟩,
   ⟨up, 0, 2 ^ 32 - 1, by decide +kernel⟩,
   ⟨put [(0x6021, 1, 0x15000000), (0x7104, 3, 0)] { up with boot.railsB := true }, 0, 4, by decide +kernel⟩,
   ⟨{ put [(0x7104, 3, 0x4000)] up with now := usFs 20, plls := [(4, ⟨0, 0, 1, [3], false⟩)] }, 0, 4, 3, [], by decide +kernel⟩,
   ⟨{ put [(0x7104, 3, 0x4000)] up with now := usFs 40, plls := [(4, ⟨0, 0, 2, [3, 4], false⟩)] }, 0, 4, 3, 4, [], by decide +kernel⟩,
   ⟨{ put [(0x7104, 3, 0)] up with now := usFs 20, plls := [(4, ⟨0, 0, 1, [3, 4], false⟩)] }, 0, 4, 3, 4, [], by decide +kernel⟩,
   ⟨{ put [(0x7104, 3, 0x4000)] up with plls := [(4, ⟨0, 0, 1, [], false⟩)] }, 0, 4, by decide +kernel⟩,
   ⟨{ put [(0x7104, 3, 0x4000), (0x6021, 1, 0x15000000)] up with plls := [(4, ⟨0, 0, 1, [], false⟩)] }, 0, 4, by decide +kernel⟩,
   ⟨{ up with now := usFs 1600, plls := [(4, ⟨0, 0, 3, [], false⟩)] }, 0, 4, bands, 0, by decide +kernel⟩,
   ⟨{ up with now := usFs 1600, plls := [(0, ⟨0, 0, 3, [], false⟩)] }, 0, [], by decide +kernel⟩,
   ⟨put [(0x7100, 3, 0x8000)] up, 0, true, by decide +kernel⟩,
   ⟨put [(0x7103, 3, 0x8000)] up, 0, 3, true, by decide +kernel⟩⟩

/-- Witnesses of `Obligations.ClocksComplete`: a state and operands for every clause. -/
theorem witness_ClocksComplete :
    (∃ (s : State) (t : Nat) (w : _), let b := s.arrive t; w < 65536 ∧ hostOk b = true ∧ bits w 15 8 &&& bits w 7 0 = 0 ∧ clkStopRefused b (bits w 7
      0) = false ∧ Instr.wf (.clkoutStart t w) = true) ∧
    (∃ (s : State) (t : Nat) (w : _), let b := s.arrive t; w < 65536 ∧ hostOk b = true ∧ bits w 15 8 &&& bits w 7 0 = 0 ∧ clkStopRefused b (bits w 7
      0) = false ∧ Instr.wf (.clkoutStop t w) = true) ∧
    (∃ (s : State) (t : Nat) (w : _), let b := s.arrive t; w < 65536 ∧ hostOk b = true ∧ (bits w 15 8 &&& bits w 7 0 ≠ 0 ∨ clkStopRefused b (bits w 7
      0) = true) ∧ Instr.wf (.clkoutStart t w) = true) ∧
    (∃ (s : State) (t : Nat) (k : _), let b := s.arrive t; k < 8 ∧ b.clock.clkArmed.testBit k = true ∧ pllLocked b 0 = true ∧ b.ready = true ∧
      divFalls b k = true ∧ Instr.wf (.clkoutGateOpen t k) = true) ∧
    (∃ (s : State) (t : Nat) (k : _), let b := s.arrive t; k < 8 ∧ b.clock.clkStopping.testBit k = true ∧ divLow b k = true ∧ Instr.wf
      (.clkoutGateClose t k) = true) ∧
    (∃ (s : State) (t : Nat) (k : _), let b := s.arrive t; k < 8 ∧ divFalls b k = false ∧ Instr.wf (.clkoutGateOpen t k) = true) ∧
    (∃ (s : State) (t : Nat) (k : _), let b := s.arrive t; k < 8 ∧ divLow b k = false ∧ Instr.wf (.clkoutGateClose t k) = true) ∧
    (∃ (s : State) (t : Nat) (x : _), let b := s.arrive t; changeWanted b x = true ∧ wantBridge b = true ∧ inGap b x = true ∧ Instr.wf
      (.trussClockSwitch t x) = true) ∧
    (∃ (s : State) (t : Nat) (x : _), let b := s.arrive t; changeWanted b x = true ∧ wantBridge b = false ∧ inGap b x = true ∧ Instr.wf
      (.trussClockSwitch t x) = true) ∧
    (∃ (s : State) (t : Nat) (x : _) (l : _), let b := s.arrive t; changeWanted b x = true ∧ l ∈ (b.graph x).awake ∧ Instr.wf (.trussClockSwitch t x)
      = true) ∧
    (∃ (s : State) (t : Nat) (x : _), let b := s.arrive t; inGap b x = false ∧ Instr.wf (.trussClockSwitch t x) = true) ∧
    (∃ (s : State) (t : Nat) (x : _), s.boot.restartAt = none ∧ (∀ c, c < 64 → (s.feedback c).waits = false) ∧ changeWanted s x = true ∧ s.waitsSince
      x = none) ∧
    (∃ (s : State) (t : Nat) (x : _) (a : _), let b := s.arrive t; changeWanted b x = true ∧ b.waitsSince x = some a ∧ a + msFs 10 ≤ b.now ∧ Instr.wf
      (.switchDeferred t x) = true) :=
  ⟨⟨up, 0, 0xFF00, by decide +kernel⟩,
   ⟨up, 0, 0x00FF, by decide +kernel⟩,
   ⟨up, 0, 0xFFFF, by decide +kernel⟩,
   ⟨{ put [(0x7100, 3, 0x8000), (0x7207, 1, 2)] up with now := 250000, clock.clkArmed := 128 }, 0, 7, by decide +kernel⟩,
   ⟨{ put [(0x7207, 1, 2)] up with now := 250000, clock.clkStopping := 128 }, 0, 7, by decide +kernel⟩,
   ⟨put [(0x7207, 1, 2)] up, 0, 7, by decide +kernel⟩,
   ⟨{ put [(0x7207, 1, 2)] up with now := 249999 }, 0, 7, by decide +kernel⟩,
   ⟨{ up with now := nsFs 100 }, 0, .B, by decide +kernel⟩,
   ⟨{ put [(0x6000, 2, 0), (0x4001, 3, 2), (0x7050, 1, 0x4000), (0x7102, 3, 0x8000)] up with now := nsFs 100 }, 0, .B, by decide +kernel⟩,
   ⟨{ up with graphs.b.awake := [127] }, 0, .B, 127, by decide +kernel⟩,
   ⟨{ up with graphs.b.awake := [127] }, 0, .B, by decide +kernel⟩,
   ⟨up, 0, .B, by decide +kernel⟩,
   ⟨{ up with now := msFs 10, clock.waitB := some 0 }, 0, .B, 0, by decide +kernel⟩⟩

/-- Witnesses of `Obligations.CaptureCommandsComplete`: a state and operands for every clause. -/
theorem witness_CaptureCommandsComplete :
    (∃ (s : State) (t : Nat) (m : _) (r : _) (k : _), let b := s.arrive t; m < 256 ∧ r < 18 ∧ hostOk b = true ∧ k < 8 ∧ m.testBit k = true ∧ planOn b
      k = true ∧ Instr.wf (.arm t m r) = true) ∧
    (∃ (s : State) (t : Nat) (m : _) (k : _), let b := s.arrive t; m < 256 ∧ hostOk b = true ∧ k < 8 ∧ m.testBit k = true ∧ Instr.wf (.disarm t m) =
      true) ∧
    (∃ (s : State) (t : Nat) (m : _) (k : _) (x : _), let b := s.arrive t; m < 256 ∧ hostOk b = true ∧ k < 8 ∧ m.testBit k = true ∧ planOn b k = true
      ∧ (b.engine x k).seg.isSome = true ∧ (b.engine x k).past = false ∧ Instr.wf (.trigger t m) = true) ∧
    (∃ (s : State) (t : Nat) (i : _) (k : _) (x : _) (v : _), let b := s.arrive t; i < 4096 ∧ hostOk b = true ∧ planOfSegment b i = some k ∧ b.segment
      x i = some v ∧ v.complete = true ∧ Instr.wf (.release t i) = true) ∧
    (∃ (s : State) (t : Nat) (i : _) (x : _) (v : _), let b := s.arrive t; i < 4096 ∧ hostOk b = true ∧ b.segment x i = some v ∧ v.complete = false ∧
      Instr.wf (.release t i) = true) ∧
    (∃ (s : State) (t : Nat) (x : _) (i : _) (v : _), let b := s.arrive t; i < 4096 ∧ b.segment x i = some v ∧ v.heldUntil ≤ b.now ∧ Instr.wf
      (.segmentHoldExpiry t x i) = true) ∧
    (∃ (s : State) (t : Nat) (r : _) (v : _), let b := s.arrive t; r < 18 ∧ v < 65536 ∧ hostOk b = true ∧ Instr.wf (.segmentSelect t r v) = true) ∧
    (∃ (s : State) (t : Nat) (r : _) (i : _) (v : _), let b := s.arrive t; r < 18 ∧ i < 4096 ∧ hostOk b = true ∧ selected b r = some (i, v) ∧ Instr.wf
      (.segmentRowsRead t r) = true) ∧
    (∃ (s : State) (t : Nat) (r : _), let b := s.arrive t; r < 18 ∧ hostOk b = true ∧ selected b r = none ∧ Instr.wf (.segmentRowsRead t r) = true) :=
  ⟨⟨put [(0x8017, 1, 0x80000000)] up, 0, 255, 17, 7, by decide +kernel⟩,
   ⟨up, 0, 255, 7, by decide +kernel⟩,
   ⟨{ put [(0x8017, 1, 0x80000000)] up with capture.engines := [(15, { Engine.init with seg := some 5 })] }, 0, 255, 7, .B, by decide +kernel⟩,
   ⟨{ up with capture.ids := [(7, [4095])], capture.segs := [(segKey .B 4095, { Segment.init with plan := 7, complete := true })] }, 0, 4095, 7,
     .B, { Segment.init with plan := 7, complete := true }, by decide +kernel⟩,
   ⟨{ up with capture.segs := [(segKey .B 4095, Segment.init)] }, 0, 4095, .B, Segment.init, by decide +kernel⟩,
   ⟨{ up with capture.segs := [(segKey .B 4095, Segment.init)] }, 0, .B, 4095, Segment.init, by decide +kernel⟩,
   ⟨up, 0, 17, 65535, by decide +kernel⟩,
   ⟨{ up with net.readers := [(17, { Reader.init with vals := [(0x802001, 4095)] })], capture.segs := [(segKey .A 4095, { Segment.init with complete := true })] },
     0, 17, 4095, { Segment.init with complete := true }, by decide +kernel⟩,
   ⟨up, 0, 17, by decide +kernel⟩⟩

/-- Witnesses of `Obligations.CaptureRowsComplete`: a state and operands for every clause. -/
theorem witness_CaptureRowsComplete :
    (∃ (s : State) (t : Nat) (x : _) (k : _) (st : _) (fill : _) (e : _), let b := s.arrive t; k < 8 ∧ st < 2 ^ 96 ∧ fill < 2 ^ 17 ∧ timebaseEvent b
      x k st = some e ∧ b.feeds x = true ∧ planOn b k = true ∧ Instr.wf (.captureRow t x k st fill) = true) ∧
    (∃ (s : State) (t : Nat) (x : _) (k : _) (st : _) (fill : _) (e : _) (i : _), let b := s.arrive t; k < 8 ∧ st < 2 ^ 96 ∧ fill < 2 ^ 17 ∧
      timebaseEvent b x k st = some e ∧ b.feeds x = true ∧ planOn b k = true ∧ (b.engine x k).seg = some i ∧ (b.engine x k).stopping = false ∧
      (b.engine x k).armAt = none ∧ (b.engine x k).halveAt = none ∧ (b.engine x k).since + 1 < 2 ^ (b.engine x k).factor ∧ Instr.wf (.captureRow t x
      k st fill) = true) ∧
    (∃ (s : State) (t : Nat) (x : _) (k : _) (st : _) (fill : Nat) (e : _) (i : _), let b := s.arrive t; k < 8 ∧ st < 2 ^ 96 ∧ fill ≤ 49152 ∧
      timebaseEvent b x k st = some e ∧ b.feeds x = true ∧ planOn b k = true ∧ (b.engine x k).seg = some i ∧ b.segment x i = none ∧ (b.engine x
      k).past = false ∧ (b.engine x k).stopping = false ∧ (b.engine x k).armAt = none ∧ (b.engine x k).halveAt = none ∧ 2 ^ (b.engine x k).factor ≤
      (b.engine x k).since + 1 ∧ planKind b k ≠ 1 ∧ planKind b k ≠ 3 ∧ (b.engine x k).trigs = [] ∧ Instr.wf (.captureRow t x k st fill) = true) ∧
    (∃ (s : State) (t : Nat) (x : _) (k : _) (st : _) (fill : Nat) (e : _) (i : _) (d : _), let b := s.arrive t; k < 8 ∧ st < 2 ^ 96 ∧ fill ≤ 49152 ∧
      timebaseEvent b x k st = some e ∧ b.feeds x = true ∧ planOn b k = true ∧ (b.engine x k).seg = some i ∧ b.segment x i = none ∧ (b.engine x
      k).past = false ∧ (b.engine x k).stopping = false ∧ (b.engine x k).armAt = none ∧ (b.engine x k).halveAt = none ∧ 2 ^ (b.engine x k).factor ≤
      (b.engine x k).since + 1 ∧ planKind b k ≠ 1 ∧ planKind b k ≠ 3 ∧ d ∈ (b.engine x k).trigs ∧ d ≤ e.1 ∧ 1 < planLength b k - planPre b k ∧
      Instr.wf (.captureRow t x k st fill) = true) ∧
    (∃ (s : State) (t : Nat) (k : _), k < 8 ∧ Instr.wf (.streamBacklogHalving t k) = true) ∧
    (∃ (s : State) (t : Nat) (k : _) (x : _), let b := s.arrive t; k < 8 ∧ b.num (planIx k) 0xA * 1024 < streamBacklog b k ∧ streamsTo b k = true ∧
      (b.engine (readSide b) k).seg.isSome = true ∧ (b.engine (readSide b) k).factor < 6 ∧ (b.engine (readSide b) k).halveAt = none ∧ (b.stream
      k).above = false ∧ b.feeds x = true ∧ Instr.wf (.streamBacklogHalving t k) = true) ∧
    (∃ (s : State) (t : Nat) (k : _), let b := s.arrive t; k < 8 ∧ hostOk b = true ∧ streamsTo b k = true ∧ (b.stream k).nextAt ≤ b.now ∧
      triggeredFrom b (readSide b) k (b.stream k).seq = [] ∧ Instr.wf (.captureStreamSend t k) = true) ∧
    (∃ (s : State) (t : Nat) (k : _) (i : _) (v : _), let b := s.arrive t; k < 8 ∧ hostOk b = true ∧ streamsTo b k = true ∧ (b.stream k).nextAt ≤
      b.now ∧ triggeredFrom b (readSide b) k (b.stream k).seq = [(i, v)] ∧ (b.stream k).off = 0 ∧ streamData b (readSide b) i 0 1352 v ≠ [] ∧
      Instr.wf (.captureStreamSend t k) = true) :=
  ⟨⟨{ put [(0x8017, 1, 0x81000000)] up with graphs.b.started := true }, 0, .B, 7, 0, 2 ^ 17 - 1, (0, 0), by decide +kernel⟩,
   ⟨{ put [(0x8017, 1, 0x81000000)] up with graphs.b.started := true, capture.engines := [(15, { Engine.init with seg := some 4095, factor := 1 })] },
     0, .B, 7, 0, 2 ^ 17 - 1, (0, 0), 4095, by decide +kernel⟩,
   ⟨{ put [(0x8017, 1, 0x81000000), (0x8017, 6, 0)] up with graphs.b.started := true, capture.engines := [(15, { Engine.init with seg := some 4095 })] },
     0, .B, 7, 0, 49152, (0, 0), 4095, by decide +kernel⟩,
   ⟨{ put [(0x8017, 1, 0x81000000), (0x8017, 6, 0), (0x8017, 3, 2), (0x8017, 4, 0)] up with graphs.b.started := true, capture.engines := [(15, { Engine.init with seg := some 4095, trigs := [0] })] },
     0, .B, 7, 0, 49152, (0, 0), 4095, 0, by decide +kernel⟩,
   ⟨up, 0, 7, by decide +kernel⟩,
   ⟨({ put [(0x8017, 1, 0xA0000000), (0x8017, 0xA, 0)] ses with capture.ids := [(7, [1])], capture.segs := [(segKey .A 1, { Segment.init with plan := 7, rows := [⟨0, [0], [0]⟩] })], capture.engines := [(7, { Engine.init with seg := some 1 })], capture.streams := [(7, { Stream.init with owner := 16 })] } : State).setBlob 0x8017 2 [0, 0, 0, 0],
     0, 7, .B, by decide +kernel⟩,
   ⟨{ put [(0x8017, 1, 0xA0000000)] ses with capture.streams := [(7, { Stream.init with owner := 16 })] }, 0, 7, by decide +kernel⟩,
   ⟨({ put [(0x8017, 1, 0xA0000000), (0x8017, 0xA, 0)] ses with capture.ids := [(7, [1])], capture.segs := [(segKey .A 1, { Segment.init with plan := 7, rows := [⟨0, [0], [0]⟩] })], capture.engines := [(7, { Engine.init with seg := some 1 })], capture.streams := [(7, { Stream.init with owner := 16 })] } : State).setBlob 0x8017 2 [0, 0, 0, 0],
     0, 7, 1, { Segment.init with plan := 7, rows := [⟨0, [0], [0]⟩] }, by decide +kernel⟩⟩

/-- Witnesses of `Obligations.ScribeCompletes`: a state and operands for every clause. -/
theorem witness_ScribeCompletes :
    (∃ (s : State) (t : Nat) (v : _), let b := s.arrive t; v < 2 ^ 32 ∧ hostOk b = true ∧ Instr.wf (.hoursSeed t v) = true) ∧
    (∃ (s : State) (t : Nat) (v : _), let b := s.arrive t; v < 2 ^ 32 ∧ hostOk b = true ∧ Instr.wf (.powerCycleSeed t v) = true) ∧
    (∃ (s : State) (t : Nat), let b := s.arrive t; b.boot.powerAt / tickFs + (b.scribe.hourTicks + hourTicks) ≤ b.ticks ∧ Instr.wf
      (.operatingHoursTick t) = true) ∧
    (∃ (s : State) (t : Nat) (q : _), let b := s.arrive t; q < 64 ∧ (quantKind b q = 1 ∨ quantKind b q = 2) ∧ Store.get 0 q b.scribe.histAt ≤ b.now ∧
      Instr.wf (.histogramSample t q) = true) ∧
    (∃ (s : State) (t : Nat) (q : _) (x : _), let b := s.arrive t; q < 64 ∧ (quantKind b q = 1 ∨ quantKind b q = 2) ∧ Store.get 0 q b.scribe.histAt ≤
      b.now ∧ b.boot.islandDown = false ∧ quantSample b q = some x ∧ Instr.wf (.histogramSample t q) = true) ∧
    (∃ (s : State) (t : Nat) (m : _), let b := s.arrive t; m < 2 ^ 64 ∧ hostOk b = true ∧ Instr.wf (.histogramClear t m) = true) ∧
    (∃ (s : State) (t : Nat) (l : _), let b := s.arrive t; bytesOk l = true ∧ l.length = 14 ∧ hostOk b = true ∧ (field l 0 2 < 0x8000 ∨ field l 0 2 =
      0xFFFF) ∧ Instr.wf (.scribeNote t l) = true) ∧
    (∃ (s : State) (t : Nat) (l q : List Nat), let b := s.arrive t; bytesOk l = true ∧ l.length = 14 ∧ hostOk b = true ∧ 0x8000 ≤ field l 0 2 ∧ field
      l 0 2 ≤ 0xFFFE ∧ b.scribe.running = [] ∧ b.scribe.ovf = [] ∧ b.capture.missed = [] ∧ b.num 0x8100 4 % 16384 ≠ 0 ∧ (Store.get Bucket.init 256
      b.scribe.buckets).used < b.fld 0x8100 0xC 31 24 ∧ b.fld 0x8100 0xC 15 0 ≠ 0 ∧ q = Store.get [] ((b.num 0x8100 4 - 1) % 16384) b.scribe.ring ∧
      (slice q 12 8 ≠ beBytes 4 (rSecs b.ridge % 2 ^ 32) ++ beBytes 4 (rNs b.ridge) ∨ field q 0 2 ≤ field l 0 2) ∧ Instr.wf (.scribeNote t l) = true) ∧
    (∃ (s : State) (t : Nat) (k : _), let b := s.arrive t; k < 257 ∧ b.scribe.ovf = [] ∧ b.capture.missed = [] ∧ (Store.get Bucket.init k
      b.scribe.buckets).used ≠ 0 ∧ refillOf b k ≠ 0 ∧ (Store.get Bucket.init k b.scribe.buckets).since + msFs (refillOf b k) ≤ b.now ∧ Instr.wf
      (.scribeTokenRefill t k) = true) ∧
    (∃ (s : State) (t : Nat) (r : _), let b := s.arrive t; r < 18 ∧ hostOk b = true ∧ Instr.wf (.scribeRecordsRead t r) = true) ∧
    (∃ (s : State) (t : Nat) (r : _), let b := s.arrive t; r < 18 ∧ hostOk b = true ∧ Instr.wf (.compatRecordsRead t r) = true) :=
  ⟨⟨up, 0, 2 ^ 32 - 1, by decide +kernel⟩,
   ⟨up, 0, 2 ^ 32 - 1, by decide +kernel⟩,
   ⟨{ up with now := 10 ^ 22 }, 0, by decide +kernel⟩,
   ⟨put [(0x814F, 1, 0x80000000)] up, 0, 63, by decide +kernel⟩,
   ⟨(put [(0x814F, 1, 0x80000000)] up).setBlob 0xB010 1 (List.replicate 256 0), 0, 63, 0, by decide +kernel⟩,
   ⟨up, 0, 2 ^ 64 - 1, by decide +kernel⟩,
   ⟨up, 0, [255, 255, 0, 0, 0, 0, 0, 0, 0, 0, 0, 0, 0, 0], by decide +kernel⟩,
   ⟨put [(0x8100, 4, 1), (0x8100, 0xC, 0x01000001)] up, 0, [255, 254, 0, 0, 0, 0, 0, 0, 0, 0, 0, 0, 0, 0], [], by decide +kernel⟩,
   ⟨{ put [(0x8100, 0xC, 0x01000001)] up with now := 10 ^ 20, scribe.buckets := [(256, ⟨1, 0, 0⟩)] }, 0, 256, by decide +kernel⟩,
   ⟨up, 0, 17, by decide +kernel⟩,
   ⟨up, 0, 17, by decide +kernel⟩⟩

/-- Witnesses of `Obligations.CountersComplete`: a state and operands for every clause. -/
theorem witness_CountersComplete :
    (∃ (s : State) (t : Nat) (n : _), let b := s.arrive t; n < 8 ∧ hostOk b = true ∧ Instr.wf (.startCounters t n) = true) ∧
    (∃ (s : State) (t : Nat) (n : _), let b := s.arrive t; n < 8 ∧ hostOk b = true ∧ Instr.wf (.stopCounters t n) = true) ∧
    (∃ (s : State) (t : Nat) (n : _), let b := s.arrive t; n < 8 ∧ hostOk b = true ∧ Instr.wf (.clearCounters t n) = true) ∧
    (∃ (s : State) (t : Nat) (c : _) (v : _), let b := s.arrive t; c < 112 ∧ v < 2 ^ 32 ∧ hostOk b = true ∧ Instr.wf (.counterWrite t c v) = true) ∧
    (∃ (s : State) (t : Nat) (r : _) (c : _), let b := s.arrive t; r < 18 ∧ c < 112 ∧ hostOk b = true ∧ Instr.wf (.counterReadLatch t r c) = true) ∧
    (∃ (s : State) (t : Nat) (c : _) (n : _), let b := s.arrive t; c < 112 ∧ b.scribe.ovf = [] ∧ b.capture.missed = [] ∧ b.bit (ctrIx c) 1 31 = true
      ∧ b.bit (ctrIx c) 1 29 = false ∧ b.scribe.running.contains c = true ∧ ctrChained b c = false ∧ 2 ^ 32 ≤ b.num (ctrIx c) 5 + n ∧ (c % 2 = 0 →
      ctrChained b (c + 1) = false) ∧ Instr.wf (.counterOverflow t c n) = true) ∧
    (∃ (s : State) (t : Nat) (c : _) (n : _), let b := s.arrive t; c < 112 ∧ c % 2 = 0 ∧ b.scribe.ovf = [] ∧ b.capture.missed = [] ∧ b.bit (ctrIx c)
      1 31 = true ∧ b.bit (ctrIx c) 1 29 = false ∧ b.scribe.running.contains c = true ∧ ctrChained b (c + 1) = true ∧ b.scribe.running.contains (c +
      1) = true ∧ 2 ^ 32 ≤ b.num (ctrIx c) 5 + n ∧ b.num (ctrIx (c + 1)) 5 + (b.num (ctrIx c) 5 + n) / 2 ^ 32 < 2 ^ 32 ∧ Instr.wf (.counterOverflow t
      c n) = true) ∧
    (∃ (s : State) (t : Nat) (x : _) (j : _) (l : _) (m : _) (e : _) (ns : _) (i : _), let b := s.arrive t; j < 16 ∧ nextTag b x j = some (m, e, ns,
      i) ∧ b.now < i + nth 0 l 3 * clockFs ∧ Instr.wf (.tagRecord t x j l) = true) ∧
    (∃ (s : State) (t : Nat) (x : _) (j : _) (l : _) (m : _) (e : _) (ns : _) (i : _), let b := s.arrive t; j < 16 ∧ nextTag b x j = some (m, e, ns,
      i) ∧ i + nth 0 l 3 * clockFs ≤ b.now ∧ Instr.wf (.tagRecord t x j l) = true) ∧
    (∃ (s : State) (t : Nat) (r : _) (x : _), let b := s.arrive t; r < 18 ∧ hostOk b = true ∧ Instr.wf (.tagRecordsRead t r x) = true) :=
  ⟨⟨up, 0, 7, by decide +kernel⟩,
   ⟨up, 0, 7, by decide +kernel⟩,
   ⟨up, 0, 7, by decide +kernel⟩,
   ⟨up, 0, 111, 2 ^ 32 - 1, by decide +kernel⟩,
   ⟨up, 0, 17, 111, by decide +kernel⟩,
   ⟨{ put [(0x836F, 1, 0x80000000)] up with scribe.running := [111] }, 0, 111, 2 ^ 32, by decide +kernel⟩,
   ⟨{ put [(0x836E, 1, 0x80000000), (0x836F, 1, 0xC0000000)] up with scribe.running := [110, 111] }, 0, 110, 2 ^ 32, by decide +kernel⟩,
   ⟨{ up with scribe.tagPend := [(1, [0, 0, 0, 255], 0, 0)] }, 0, .B, 15, [0, 0, 0, 1], 1, [0, 0, 0, 255], 0, 0, by decide +kernel⟩,
   ⟨{ up with scribe.tagPend := [(1, [0, 0, 0, 255], 0, 0)] }, 0, .B, 15, [], 1, [0, 0, 0, 255], 0, 0, by decide +kernel⟩,
   ⟨up, 0, 17, .B, by decide +kernel⟩⟩

/-- Witnesses of `Obligations.NetworkCompletes`: a state and operands for every clause. -/
theorem witness_NetworkCompletes :
    (∃ (s : State) (t : Nat) (n : _) (f : _),
      let b := s.arrive t;
      let limit := fun (f : Frame) => if f.vlan = 0 then 1518 else 1522;
      n < 2 ∧ f.wf = true ∧ (portServed b n = false ∨ limit f < f.len ∨ etherOk f.etherType = false ∨ vlanOk b f.vlan = false) ∧ Instr.wf
      (.frameReceived t n f) = true) ∧
    (∃ (s : State) (t : Nat) (n : _) (f : _),
      let b := s.arrive t;
      let limit := fun (f : Frame) => if f.vlan = 0 then 1518 else 1522;
      let taken := fun (n : Nat) (f : Frame) => n < 2 ∧ f.wf = true ∧ portServed b n = true ∧ f.len ≤ limit f ∧ etherOk f.etherType = true ∧ vlanOk b
        f.vlan = true;
      taken n f ∧ redHsr b = true ∧ f.src ≠ ownMac b ∧ f.dst ≠ ownMac b ∧ isMulticast f.dst = false ∧ (f.tagged && seenBefore b f) = false ∧ portServed
      b (1 - n) = true ∧ (f.isPtp = false ∨ b.timeRole ≠ 3) ∧ (lineOf b (1 - n)).length ≤ 64 ∧ Instr.wf (.frameReceived t n f) = true) ∧
    (∃ (s : State) (t : Nat) (n : _) (f : _),
      let b := s.arrive t;
      let limit := fun (f : Frame) => if f.vlan = 0 then 1518 else 1522;
      let taken := fun (n : Nat) (f : Frame) => n < 2 ∧ f.wf = true ∧ portServed b n = true ∧ f.len ≤ limit f ∧ etherOk f.etherType = true ∧ vlanOk b
        f.vlan = true;
      taken n f ∧ redHsr b = true ∧ f.src ≠ ownMac b ∧ f.dst ≠ ownMac b ∧ isMulticast f.dst = false ∧ ((f.isPtp = true ∧ b.timeRole = 3) ∨ 64 < (lineOf
      b (1 - n)).length) ∧ Instr.wf (.frameReceived t n f) = true) ∧
    (∃ (s : State) (t : Nat) (n : _) (f : _),
      let b := s.arrive t;
      let limit := fun (f : Frame) => if f.vlan = 0 then 1518 else 1522;
      let taken := fun (n : Nat) (f : Frame) => n < 2 ∧ f.wf = true ∧ portServed b n = true ∧ f.len ≤ limit f ∧ etherOk f.etherType = true ∧ vlanOk b
        f.vlan = true;
      taken n f ∧ redHsr b = true ∧ f.src = ownMac b ∧ f.fcsOk = true ∧ f.etherType = 0x88FB ∧ Instr.wf (.frameReceived t n f) = true) ∧
    (∃ (s : State) (t : Nat) (n : _) (f : _),
      let b := s.arrive t;
      let limit := fun (f : Frame) => if f.vlan = 0 then 1518 else 1522;
      let taken := fun (n : Nat) (f : Frame) => n < 2 ∧ f.wf = true ∧ portServed b n = true ∧ f.len ≤ limit f ∧ etherOk f.etherType = true ∧ vlanOk b
        f.vlan = true;
      taken n f ∧ redHsr b = false ∧ f.fcsOk = true ∧ f.tagged = true ∧ seenBefore b f = true ∧ Instr.wf (.frameReceived t n f) = true) ∧
    (∃ (s : State) (t : Nat) (n : _) (f : _),
      let b := s.arrive t;
      let limit := fun (f : Frame) => if f.vlan = 0 then 1518 else 1522;
      let taken := fun (n : Nat) (f : Frame) => n < 2 ∧ f.wf = true ∧ portServed b n = true ∧ f.len ≤ limit f ∧ etherOk f.etherType = true ∧ vlanOk b
        f.vlan = true;
      taken n f ∧ redHsr b = false ∧ f.fcsOk = true ∧ f.tagged = true ∧ seenBefore b f = false ∧ f.dst ≠ ownMac b ∧ isMulticast f.dst = false ∧
      Instr.wf (.frameReceived t n f) = true) ∧
    (∃ (s : State) (t : Nat) (n : _) (f : _) (m : _),
      let b := s.arrive t;
      let limit := fun (f : Frame) => if f.vlan = 0 then 1518 else 1522;
      let taken := fun (n : Nat) (f : Frame) => n < 2 ∧ f.wf = true ∧ portServed b n = true ∧ f.len ≤ limit f ∧ etherOk f.etherType = true ∧ vlanOk b
        f.vlan = true;
      taken n f ∧ redHsr b = false ∧ f.fcsOk = true ∧ f.tagged = false ∧ f.isPtp = false ∧ forUs b f = true ∧ f.fragment = false ∧ f.sot = some m ∧
      Instr.wf (.frameReceived t n f) = true) ∧
    (∃ (s : State) (t : Nat) (n : _) (f : _),
      let b := s.arrive t;
      let limit := fun (f : Frame) => if f.vlan = 0 then 1518 else 1522;
      let taken := fun (n : Nat) (f : Frame) => n < 2 ∧ f.wf = true ∧ portServed b n = true ∧ f.len ≤ limit f ∧ etherOk f.etherType = true ∧ vlanOk b
        f.vlan = true;
      taken n f ∧ redHsr b = false ∧ f.tagged = false ∧ f.isPtp = false ∧ forUs b f = false ∧ Instr.wf (.frameReceived t n f) = true) ∧
    (∃ (s : State) (t : Nat) (n : _) (a : _), n < 2 ∧ a < 2 ^ 32 ∧ Instr.wf (.arpRequest t n a) = true) ∧
    (∃ (s : State) (t : Nat) (n : _) (a : _), n < 2 ∧ a < 2 ^ 32 ∧ Instr.wf (.icmpEcho t n a) = true) ∧
    (∃ (s : State) (t : Nat),
      let b := s.arrive t;
      b.boot.serving = true ∧ anyPort b = true ∧ b.net.lifeAt + msFs (b.num 0x1020 2) ≤ b.now ∧ Instr.wf (.supervisionFrameSend t) = true) ∧
    (∃ (s : State) (t : Nat),
      let b := s.arrive t;
      anyPort b = false ∧ Instr.wf (.supervisionFrameSend t) = true) ∧
    (∃ (s : State) (t : Nat) (n : _),
      let b := s.arrive t;
      n < 2 ∧ redHsr b = false ∧ lanSilent b n = true ∧ Instr.wf (.lanFault t n) = true) ∧
    (∃ (s : State) (t : Nat) (n : _),
      let b := s.arrive t;
      n < 2 ∧ redHsr b = true ∧ b.boot.serving = true ∧ b.net.ringPorts.testBit n = false ∧ nth 0 b.net.lifeBack n + 3 * msFs (b.num 0x1020 2) ≤ b.now
      ∧ Instr.wf (.ringFault t n) = true) ∧
    (∃ (s : State) (t : Nat) (n : _) (v : _), n < 2 ∧ Instr.wf (.portLinkChange t n v) = true) :=
  ⟨⟨up, 0, 1, ⟨0x0800, 0, 1519, true, 1, 2, false, false, 0, false, 0, 0, 0, 0, 0, none⟩, by decide +kernel⟩,
   ⟨put [(0x1020, 1, 1), (0x1010, 1, 6)] up, 0, 1, ⟨0x0800, 0, 1518, true, 1, 2, false, false, 0, false, 0, 0, 0, 0, 0, none⟩, by decide +kernel⟩,
   ⟨put [(0x1020, 1, 1), (0x1010, 1, 6), (0x7010, 1, 0x60000000)] up, 0, 1, ⟨0x88F7, 0, 1518, true, 1, 2, false, false, 0, true, 0, 0, 0, 0, 0, none⟩, by decide +kernel⟩,
   ⟨put [(0x1020, 1, 1), (0x1010, 1, 6)] up, 0, 1, ⟨0x88FB, 0, 1518, true, 6, 2, false, false, 0, false, 0, 0, 0, 0, 0, none⟩, by decide +kernel⟩,
   ⟨{ put [(0x1010, 1, 6)] up with net.dups := [(1, 65535, 0)] }, 0, 1, ⟨0x0800, 0, 1518, true, 1, 2, false, true, 65535, false, 0, 0, 0, 0, 0, none⟩, by decide +kernel⟩,
   ⟨put [(0x1010, 1, 6)] up, 0, 1, ⟨0x0800, 0, 1518, true, 1, 2, false, true, 65535, false, 0, 0, 0, 0, 0, none⟩, by decide +kernel⟩,
   ⟨put [(0x1010, 1, 6)] up, 0, 1, ⟨0x0800, 0, 1518, true, 1, 6, false, false, 0, false, 0, 0, 0, 0, 0, some ⟨3, 1, 1, [255]⟩⟩, ⟨3, 1, 1, [255]⟩, by decide +kernel⟩,
   ⟨put [(0x1010, 1, 6)] up, 0, 1, ⟨0x0800, 0, 1518, true, 1, 2, false, false, 0, false, 0, 0, 0, 0, 0, none⟩, by decide +kernel⟩,
   ⟨up, 0, 1, 2 ^ 32 - 1, by decide +kernel⟩,
   ⟨up, 0, 1, 2 ^ 32 - 1, by decide +kernel⟩,
   ⟨{ up with now := 10 ^ 20 }, 0, by decide +kernel⟩,
   ⟨atStage 6, 0, by decide +kernel⟩,
   ⟨{ up with now := 10 ^ 18, net.nodes := [(5, 10 ^ 18, 0)] }, 0, 1, by decide +kernel⟩,
   ⟨{ put [(0x1020, 1, 1)] up with now := 10 ^ 20 }, 0, 1, by decide +kernel⟩,
   ⟨up, 0, 1, true, by decide +kernel⟩⟩

/-- Witnesses of `Obligations.SessionsComplete`: a state and operands for every clause. -/
theorem witness_SessionsComplete :
    (∃ (s : State) (t : Nat) (m : _),
      let b := s.arrive t;
      m.wf = true ∧ mType m = 1 ∧ Taken b m ∧ Instr.wf (.identify t m) = true) ∧
    (∃ (s : State) (t : Nat) (m : _),
      let b := s.arrive t;
      m.wf = true ∧ mType m = 2 ∧ Taken b m ∧ keysLoaded b = false ∧ Instr.wf (.keyLoad t m) = true) ∧
    (∃ (s : State) (t : Nat) (m : _) (n : _),
      let b := s.arrive t;
      let c := Received b;
      m.wf = true ∧ mType m = 3 ∧ Taken b m ∧ keysLoaded b = true ∧ nth 0 (mBody m) 0 < 4 ∧ macOk (roleKey b (nth 0 (mBody m) 0)) m = true ∧ timeOk c m
      = true ∧ b.net.nonces.contains (beNat (slice (mBody m) 4 16)) = false ∧ (m.path = 1 → b.sessionOf 0 = none) ∧ freeSid b = some n ∧ Instr.wf
      (.openSession t m) = true) ∧
    (∃ (s : State) (t : Nat) (m : _) (e : _),
      let b := s.arrive t;
      let c := Received b;
      m.wf = true ∧ mType m = 4 ∧ Taken b m ∧ SessionTaken c m e ∧ mSid m ≠ 0 ∧ e.path ≠ 0 ∧ Instr.wf (.closeSession t m) = true) ∧
    (∃ (s : State) (t : Nat) (m : _) (e : _),
      let b := s.arrive t;
      let c := Received b;
      m.wf = true ∧ mType m = 5 ∧ Taken b m ∧ SessionTaken c m e ∧ Instr.wf (.readObjects t m) = true) ∧
    (∃ (s : State) (t : Nat) (m : _),
      let b := s.arrive t;
      m.wf = true ∧ mType m = 5 ∧ Taken b m ∧ keysLoaded b = false ∧ m.path = 1 ∧ Instr.wf (.readObjects t m) = true) ∧
    (∃ (s : State) (t : Nat) (m : _) (e : _),
      let b := s.arrive t;
      let c := Received b;
      m.wf = true ∧ mType m = 6 ∧ Taken b m ∧ SessionTaken c m e ∧ Instr.wf (.writeObjects t m) = true) ∧
    (∃ (s : State) (t : Nat) (m : _) (e : _),
      let b := s.arrive t;
      let c := Received b;
      m.wf = true ∧ mType m = 7 ∧ Taken b m ∧ SessionTaken c m e ∧ mSid m ≠ 0 ∧ e.path ≠ 0 ∧ Instr.wf (.keepalive t m) = true) ∧
    (∃ (s : State) (t : Nat) (a : _), a < 2 ^ 32 ∧ Instr.wf (.sourceBlockEnd t a) = true) ∧
    (∃ (s : State) (t : Nat) (n : _) (e : _),
      let b := s.arrive t;
      n < 17 ∧ Store.find n b.net.sessions = some e ∧ e.lastMsg + secFs (b.num 0x1030 6) ≤ b.now ∧ Instr.wf (.sessionIdleTimeout t n) = true) ∧
    (∃ (s : State) (t : Nat) (n : _) (m : _),
      let b := s.arrive t;
      n < 2 ^ 16 ∧ m.wf = true ∧ 2 ≤ b.stage ∧ bootBusy b = false ∧ n ≤ m.data.length ∧ Instr.wf (.bootSend t n m) = true) ∧
    (∃ (s : State) (t : Nat) (n : _) (m : _),
      let b := s.arrive t;
      n < 2 ^ 16 ∧ m.wf = true ∧ 2 ≤ b.stage ∧ (bootBusy b = true ∨ m.data.length < n) ∧ Instr.wf (.bootSend t n m) = true) ∧
    (∃ (s : State) (t : Nat) (n : _) (m : _),
      let b := s.arrive t;
      n < 2 ^ 16 ∧ m.wf = true ∧ b.stage < 2 ∧ Instr.wf (.bootSend t n m) = true) ∧
    (∃ (s : State) (t : Nat),
      let b := s.arrive t;
      2 ≤ b.stage ∧ Instr.wf (.bootFetch t) = true) ∧
    (∃ (s : State) (t : Nat),
      let b := s.arrive t;
      2 ≤ b.stage ∧ Instr.wf (.bootStatus t) = true) :=
  ⟨⟨up, 0, ⟨3, 1, 1, sotBytes [] 1 0 1 0 0 []⟩, by decide +kernel⟩,
   ⟨up, 0, ⟨3, 1, 1, sotBytes [] 2 0 1 0 0 (List.replicate 221 255)⟩, by decide +kernel⟩,
   ⟨(put [(0x1000, 6, 1)] up).setBlob 0x1030 4 (List.replicate 32 9), 0,
     ⟨3, 1, 1, sotBytes (List.replicate 32 9) 3 0 1 0 0 ([3, 0, 0, 0] ++ List.replicate 16 255)⟩, 1, by decide +kernel⟩,
   ⟨put [(0x1000, 6, 1)] ses, 0, ⟨3, 1, 1, sotBytes [7] 4 16 1 0 0 []⟩, ⟨2, 2, 5, 9, [7], 0, 0, 0, 0⟩, by decide +kernel⟩,
   ⟨put [(0x1000, 6, 1)] ses, 0, ⟨3, 1, 1, sotBytes [7] 5 16 1 0 0 [0, 1, 0xFF, 0xFF, 0xFF, 0, 0, 0, 0, 0, 0, 0]⟩, ⟨2, 2, 5, 9, [7], 0, 0, 0, 0⟩, by decide +kernel⟩,
   ⟨up, 0, ⟨1, 0, 0, sotBytes [] 5 0 1 0 0 [0, 0]⟩, by decide +kernel⟩,
   ⟨put [(0x1000, 6, 1)] ses, 0, ⟨3, 1, 1, sotBytes [7] 6 16 1 0 0 [0, 0]⟩, ⟨2, 2, 5, 9, [7], 0, 0, 0, 0⟩, by decide +kernel⟩,
   ⟨put [(0x1000, 6, 1)] ses, 0, ⟨3, 1, 1, sotBytes [7] 7 16 1 0 0 []⟩, ⟨2, 2, 5, 9, [7], 0, 0, 0, 0⟩, by decide +kernel⟩,
   ⟨up, 0, 2 ^ 32 - 1, by decide +kernel⟩,
   ⟨{ ses with now := 10 ^ 22 }, 0, 16, ⟨2, 2, 5, 9, [7], 0, 0, 0, 0⟩, by decide +kernel⟩,
   ⟨up, 0, 1, ⟨1, 0, 0, [255]⟩, by decide +kernel⟩,
   ⟨up, 0, 65535, ⟨1, 0, 0, [255]⟩, by decide +kernel⟩,
   ⟨atStage 1, 0, 65535, ⟨1, 0, 0, [255]⟩, by decide +kernel⟩,
   ⟨atStage 2, 0, by decide +kernel⟩,
   ⟨atStage 2, 0, by decide +kernel⟩⟩

/-- Witnesses of `Obligations.SetsComplete`: a state and operands for every clause. -/
theorem witness_SetsComplete :
    (∃ (s : State) (t : Nat) (r : _) (n : _) (w : _),
      let b := s.arrive t;
      r < 18 ∧ n < 2 ^ 32 ∧ hostOk b = true ∧ senderOf b r = some w ∧ Instr.wf (.beginSet t r n) = true) ∧
    (∃ (s : State) (t : Nat) (r : _) (w : _),
      let b := s.arrive t;
      r < 18 ∧ hostOk b = true ∧ senderOf b r = some w ∧ Instr.wf (.commitSet t r) = true) ∧
    (∃ (s : State) (t : Nat) (r : _) (w : _),
      let b := s.arrive t;
      r < 18 ∧ hostOk b = true ∧ senderOf b r = some w ∧ Instr.wf (.abortSet t r) = true) ∧
    (∃ (s : State) (t : Nat) (q : _),
      let b := s.arrive t;
      b.net.openSet = some q ∧ q.checking = true ∧ setFailure (candOf q.staged b) = none ∧ Instr.wf (.commitComplete t) = true) ∧
    (∃ (s : State) (t : Nat) (q : _) (n : _) (k : _),
      let b := s.arrive t;
      b.net.openSet = some q ∧ q.checking = true ∧ setFailure (candOf q.staged b) = some (n, k) ∧ Instr.wf (.commitComplete t) = true) ∧
    (∃ (s : State) (t : Nat) (q : _) (y : _) (r : _),
      let b := s.arrive t;
      b.net.openSet = some q ∧ q.checking = true ∧ q.reply = some y ∧ y.row = some r ∧ Instr.wf (.commitComplete t) = true) ∧
    (∃ (s : State) (t : Nat) (q : _),
      let b := s.arrive t;
      b.net.openSet = some q ∧ q.checking = false ∧ Instr.wf (.setIdleTimeout t) = true) ∧
    (∃ (s : State) (t r k : Nat) (l : List Nat) (w : Sender) (o : ObjRow) (q : OpenSet),
      let b := s.arrive t;
      r < 18 ∧ k < 2 ^ 24 ∧ bytesOk l = true ∧ kindOf k = .cfg ∧ hostOk b = true ∧ senderOf b r = some w ∧ rowOf k = some o ∧ accessStatus w k = 0 ∧
      badSize (k / 256) (k % 256) o l = false ∧ setRefusal w b = 0 ∧ b.net.openSet = some q ∧ Instr.wf (.configObjectWrite t r k l) = true) ∧
    (∃ (s : State) (t : Nat) (r : _) (k : _) (l : _) (w : _) (o : _),
      let b := s.arrive t;
      r < 18 ∧ k < 2 ^ 24 ∧ bytesOk l = true ∧ kindOf k = .cfg ∧ hostOk b = true ∧ senderOf b r = some w ∧ rowOf k = some o ∧ Instr.wf
      (.configObjectWrite t r k l) = true) :=
  ⟨⟨ses, 0, 16, 2 ^ 32 - 1, ⟨16, 16, some 2⟩, by decide +kernel⟩,
   ⟨ses, 0, 16, ⟨16, 16, some 2⟩, by decide +kernel⟩,
   ⟨ses, 0, 16, ⟨16, 16, some 2⟩, by decide +kernel⟩,
   ⟨{ ses with net.openSet := some ⟨16, 1, [], 0, true, 0, none⟩ }, 0, ⟨16, 1, [], 0, true, 0, none⟩, by decide +kernel⟩,
   ⟨{ ses with net.openSet := some ⟨16, 1, [(0x220081, .num 0)], 0, true, 0, none⟩ }, 0, ⟨16, 1, [(0x220081, .num 0)], 0, true, 0, none⟩,
     "MEAS_CODE", 0x220081, by decide +kernel⟩,
   ⟨{ ses with net.openSet := some ⟨16, 1, [], 0, true, 0, some ⟨16, 0, [], 0, 0, some 17⟩⟩ }, 0, ⟨16, 1, [], 0, true, 0, some ⟨16, 0, [], 0, 0, some 17⟩⟩,
     ⟨16, 0, [], 0, 0, some 17⟩, 17, by decide +kernel⟩,
   ⟨{ ses with net.openSet := some ⟨16, 1, [], 0, false, 0, none⟩ }, 0, ⟨16, 1, [], 0, false, 0, none⟩, by decide +kernel⟩,
   ⟨{ ses with net.openSet := some ⟨16, 1, [], 0, false, 0, none⟩ }, 0, 16, 0x220081, [255], ⟨16, 16, some 2⟩,
     (rowOf 0x220081).get (by decide +kernel), ⟨16, 1, [], 0, false, 0, none⟩, by decide +kernel⟩,
   ⟨ses, 0, 16, 0x220081, [0], ⟨16, 16, some 2⟩, (rowOf 0x220081).get (by decide +kernel), by decide +kernel⟩⟩

/-- Witnesses of `Obligations.ObjectsComplete`: a state and operands for every clause. -/
theorem witness_ObjectsComplete :
    (∃ (s : State) (t : Nat) (r : _) (k : _) (l : _) (w : _), let b := s.arrive t; r < 18 ∧ k < 2 ^ 24 ∧ bytesOk l = true ∧ kindOf k ≠ .cfg ∧ k ≠
      0x105001 ∧ hostOk b = true ∧ senderOf b r = some w ∧ Instr.wf (.objectWrite t r k l) = true) ∧
    (∃ (s : State) (t : Nat) (r : _) (k : _) (l : _) (w : _), let b := s.arrive t; r < 18 ∧ k < 2 ^ 24 ∧ bytesOk l = true ∧ kindOf k ≠ .cfg ∧ k ≠
      0x105001 ∧ hostOk b = true ∧ senderOf b r = some w ∧ accessStatus w k ≠ 0 ∧ Instr.wf (.objectWrite t r k l) = true) ∧
    (∃ (s : State) (t : Nat) (r : _) (k : _) (l : _) (w : _) (o : _), let b := s.arrive t; r < 18 ∧ k < 2 ^ 24 ∧ bytesOk l = true ∧ k ≠ 0x105001 ∧
      hostOk b = true ∧ senderOf b r = some w ∧ accessStatus w k = 0 ∧ rowOf k = some o ∧ o.kind ≠ .cfg ∧ badSize (k / 256) (k % 256) o l = true ∧
      Instr.wf (.objectWrite t r k l) = true) ∧
    (∃ (s : State) (t : Nat) (r : _) (k : _) (l : _) (w : _) (o : _), let b := s.arrive t; r < 18 ∧ k < 2 ^ 24 ∧ bytesOk l = true ∧ k ≠ 0x802001 ∧
      hostOk b = true ∧ senderOf b r = some w ∧ accessStatus w k = 0 ∧ rowOf k = some o ∧ o.kind = .per ∧ badSize (k / 256) (k % 256) o l = false
      ∧ Instr.wf (.objectWrite t r k l) = true) ∧
    (∃ (s : State) (t : Nat) (r : _) (l : _) (w : _), let b := s.arrive t; r < 18 ∧ bytesOk l = true ∧ l.length = 2 ∧ hostOk b = true ∧ senderOf b r =
      some w ∧ accessStatus w 0x105008 = 0 ∧ Instr.wf (.objectWrite t r 0x105008 l) = true) ∧
    (∃ (s : State) (t : Nat) (r : _) (k : _) (q : _), let b := s.arrive t; r < 18 ∧ k < 2 ^ 24 ∧ Store.find k (b.reader r).writes = some q ∧ q.at_ +
      secFs 10 ≤ b.now ∧ Instr.wf (.segmentedWriteTimeout t r k) = true) ∧
    (∃ (s : State) (t : Nat) (r : _) (k : _) (q : _), let b := s.arrive t; r < 18 ∧ k < 2 ^ 24 ∧ Store.find k (b.reader r).snaps = some q ∧ q.at_ +
      secFs 1 ≤ b.now ∧ Instr.wf (.snapshotTimeout t r k) = true) ∧
    (∃ (s : State) (t : Nat) (l : _), let b := s.arrive t; bytesOk l = true ∧ l.length = 32 ∧ hostOk b = true ∧ b.scribe.ovf = [] ∧ b.capture.missed =
      [] ∧ Instr.wf (.pendingClear t l) = true) ∧
    (∃ (s : State) (t : Nat) (l : _), let b := s.arrive t; bytesOk l = true ∧ l.length = 32 ∧ hostOk b = true ∧ b.scribe.ovf = [] ∧ b.capture.missed =
      [] ∧ Instr.wf (.countClear t l) = true) ∧
    (∃ (s : State) (t : Nat) (r : _) (n : _) (d : _) (e : _), let b := s.arrive t; r < 18 ∧ hostOk b = true ∧ (b.reader r).holdoff = some d ∧ d ≤
      b.now ∧ b.sessionOf r = some n ∧ Store.find n b.net.sessions = some e ∧ e.path ≠ 0 ∧ (b.reader r).notes ≠ [] ∧ (b.reader r).notes.length ≤
      40 ∧ b.scribe.running = [] ∧ b.scribe.ovf = [] ∧ b.capture.missed = [] ∧ Instr.wf (.notifyHoldoffExpiry t r) = true) :=
  ⟨⟨ses, 0, 16, 0xFFFFFF, [255], ⟨16, 16, some 2⟩, by decide +kernel⟩,
   ⟨ses, 0, 16, 0xFFFFFF, [255], ⟨16, 16, some 2⟩, by decide +kernel⟩,
   ⟨ses, 0, 16, 0x810001, [255], ⟨16, 16, some 2⟩, (rowOf 0x810001).get (by decide +kernel), by decide +kernel⟩,
   ⟨ses, 0, 16, 0x802003, [0, 0, 0, 1], ⟨16, 16, some 2⟩, (rowOf 0x802003).get (by decide +kernel), by decide +kernel⟩,
   ⟨ses, 0, 16, [0, 30], ⟨16, 16, some 2⟩, by decide +kernel⟩,
   ⟨{ ses with now := 10 ^ 17, net.readers := [(16, { Reader.init with writes := [(0xFFFFFF, ⟨[], 0⟩)] })] }, 0, 16, 0xFFFFFF, ⟨[], 0⟩, by decide +kernel⟩,
   ⟨{ ses with now := 10 ^ 17, net.readers := [(16, { Reader.init with snaps := [(0xFFFFFF, ⟨[], 0⟩)] })] }, 0, 16, 0xFFFFFF, ⟨[], 0⟩,
     by decide +kernel⟩,
   ⟨up, 0, List.replicate 32 255, by decide +kernel⟩,
   ⟨up, 0, List.replicate 32 255, by decide +kernel⟩,
   ⟨{ ses with net.readers := [(16, { Reader.init with notes := [⟨0, 0, 0⟩], holdoff := some 0 })] }, 0, 16, 16, 0, ⟨2, 2, 5, 9, [7], 0, 0, 0, 0⟩,
     by decide +kernel⟩⟩

end Sys2Proof.Tests
end

section
/-!
SUPPORT. The Pending flags (R446) under all that events write: no occurrence, record or late report takes back a flag, so an event raised by
a command's effect is still pending in the state the command leaves.
-/
namespace Sys2Proof.Machine

/-- Every Pending flag of the first state stands in the second, in as many bytes. -/
structure PendingKept (s s' : State) : Prop where
  length : (s'.blob 0x1200 1).length = (s.blob 0x1200 1).length
  bit : ∀ n, blobBit (s.blob 0x1200 1) n = true → blobBit (s'.blob 0x1200 1) n = true

namespace PendingKept

theorem of_blob_eq {s s' : State} (h : s'.blob 0x1200 1 = s.blob 0x1200 1) : PendingKept s s' :=
  ⟨by rw [h], fun n hn => by rw [h]; exact hn⟩

theorem refl (s : State) : PendingKept s s := of_blob_eq rfl

/-- The scribe's own part holds no object. -/
theorem scribe (s : State) (q : Scribe) : PendingKept s { s with scribe := q } := of_blob_eq rfl

theorem trans {a b c : State} (h : PendingKept a b) (g : PendingKept b c) : PendingKept a c :=
  ⟨g.length.trans h.length, fun n hn => g.bit n (h.bit n hn)⟩

theorem ite {s a b : State} {c : Prop} [Decidable c] (ha : PendingKept s a) (hb : PendingKept s b) :
    PendingKept s (if c then a else b) := by
  split <;> assumption

theorem foldl {α : Type} (l : List α) (f : State → α → State) (h : ∀ s a, PendingKept s (f s a)) (s : State) :
    PendingKept s (l.foldl f s) := by
  induction l generalizing s with
  | nil => exact refl s
  | cons a l ih => exact (h s a).trans (ih (f s a))

end PendingKept

theorem length_blobSetBit (b : List Nat) (e : Nat) (v : Bool) : (blobSetBit b e v).length = b.length :=
  List.length_set ..

/-- Setting a bit of a byte string takes back no other, also where the position is beyond the string. -/
theorem blobBit_blobSetBit_of_blobBit {b : List Nat} {n : Nat} (e : Nat) (h : blobBit b n = true) :
    blobBit (blobSetBit b e true) n = true := by
  by_cases he : e / 8 < b.length
  · rw [blobBit_set b e he, h, Bool.true_or]
  · have hset : blobSetBit b e true = b := List.set_eq_of_length_le (Nat.le_of_not_lt he)
    rwa [hset]

/-- What an occurrence writes in the Pending flags (R446). -/
theorem pending_occur (s : State) (e p0 p1 p2 : Nat) :
    (s.occur e p0 p1 p2).blob 0x1200 1 = blobSetBit (s.blob 0x1200 1) e true := by
  rw [occ s e p0 p1 p2 1 (by decide)]
  simp

theorem occur_pendingKept (e p0 p1 p2 : Nat) (s : State) : PendingKept s (s.occur e p0 p1 p2) where
  length := by rw [pending_occur, length_blobSetBit]
  bit n hn := by rw [pending_occur]; exact blobBit_blobSetBit_of_blobBit e hn

theorem writeRecord_pendingKept (code origin dropped p0 p1 p2 : Nat) (s : State) :
    PendingKept s (s.writeRecord code origin dropped p0 p1 p2) := by
  unfold State.writeRecord
  have written : ∀ ring v w, PendingKept s (countEvent 2 0x48 1 0
      (({ s with scribe := { s.scribe with ring := ring } }.setNum 0x8100 4 v).setNum 0xF000 1 w)) := fun ring v w =>
    .of_blob_eq (by rw [ctr_blob _ _ _ _ _ _ (by decide), blob_far _ _ _ _ _ (by decide) (by decide),
      blob_far _ _ _ _ _ (by decide) (by decide)]; rfl)
  exact .ite ((written _ _ _).trans (occur_pendingKept ..)) (written _ _ _)

theorem record_pendingKept (code origin p0 p1 p2 : Nat) (s : State) : PendingKept s (s.record code origin p0 p1 p2) := by
  unfold State.record
  have written : ∀ bs d, PendingKept s ({ s with scribe := { s.scribe with buckets := bs } }.writeRecord code origin d p0 p1 p2) :=
    fun bs d => (PendingKept.scribe s { s.scribe with buckets := bs }).trans (writeRecord_pendingKept code origin d p0 p1 p2 _)
  have hcount : (countEvent 2 0x49 1 0 ((s.incSat 0x8100 8).setBitO 0x8100 3 0 true)).blob 0x1200 1 = s.blob 0x1200 1 := by
    rw [ctr_blob _ _ _ _ _ _ (by decide), blob_setBitO_far _ _ _ _ _ _ _ (by decide)]
    exact blob_far _ _ _ _ _ (by decide) (by decide)
  generalize countEvent 2 0x49 1 0 ((s.incSat 0x8100 8).setBitO 0x8100 3 0 true) = u at hcount ⊢
  have dropped : ∀ bs, PendingKept s { u with scribe := { u.scribe with buckets := bs } } := fun _ => .of_blob_eq hcount
  exact .ite (written _ _) (.ite (written _ _) (.ite ((dropped _).trans (occur_pendingKept ..)) (dropped _)))

/-- Raising an event adds to its occurrence at most a record. -/
theorem raise_pendingKept_occur (e p0 p1 p2 : Nat) (s : State) : PendingKept (s.occur e p0 p1 p2) (s.raise e p0 p1 p2) := by
  unfold State.raise
  exact .ite (record_pendingKept ..) (.refl _)

theorem raise_pendingKept (e p0 p1 p2 : Nat) (s : State) : PendingKept s (s.raise e p0 p1 p2) :=
  (occur_pendingKept ..).trans (raise_pendingKept_occur ..)

theorem reportLate_pendingKept (s : State) : PendingKept s s.reportLate := by
  unfold State.reportLate
  exact ((PendingKept.foldl _ _ (fun _ _ => raise_pendingKept ..) s).trans
    (.foldl _ _ (fun _ _ => raise_pendingKept ..) _)).trans (.of_blob_eq rfl)

/-- The end of a command: the late reports, and the settling of the plate, which writes no object. -/
theorem ended_pendingKept (s : State) (q : List Instr) : PendingKept s (s.ended q) :=
  (reportLate_pendingKept s).trans (.of_blob_eq rfl)

/-- R446: an event that a command's effect raises is pending in the state the command leaves. -/
theorem pending_raise_ended {s : State} {e : Nat} (he : e / 8 < (s.blob 0x1200 1).length) (p0 p1 p2 : Nat) (q : List Instr) :
    blobBit (((s.raise e p0 p1 p2).ended q).blob 0x1200 1) e = true := by
  refine ((raise_pendingKept_occur e p0 p1 p2 s).trans (ended_pendingKept _ q)).bit e ?_
  rw [pending_occur, blobBit_set _ e he, beq_self_eq_true, Bool.or_true]

end Sys2Proof.Machine
end

section
/-!
SUPPORT. Decimator synchronisation (R60 to R63): when an alignment is pending, and what SYNC_IN_EDGE and SYNC_COMMAND do then and otherwise.
-/
namespace Sys2Proof.Machine

theorem alignPending_iff (s : State) : alignPending s = true ↔ ∃ a ∈ s.meas.aligns, s.ridgeFine < a.ta := by
  simp [alignPending]

theorem alignPending_eq_false_iff (s : State) : alignPending s = false ↔ ∀ a ∈ s.meas.aligns, a.ta ≤ s.ridgeFine := by
  simp [alignPending]

@[simp] theorem startAlign_aligns (ta : Nat) (command explicit : Bool) (s : State) :
    (startAlign ta command explicit s).meas.aligns = s.meas.aligns ++ [⟨ta, command, explicit, 0, false, none⟩] := rfl

/-- What an edge of SYNC_IN that has held does (R60, R63). -/
def syncInEffect (rising : Bool) (s : State) : State :=
  if !s.bit 0x2310 1 15 || rising == s.bit 0x2310 1 14 then s
  else if !pllLocked s 0 then s.raise 71 2
  else if alignPending s then s.raise 71 0
  else startAlign (s.ridge + rns 1000) false false s

/-- What SYNC_COMMAND does: a write that the firmware takes (R61). -/
def syncCommandEffect (at96 : Nat) (s : State) : State := if hostOk s then syncWrite at96 s else s

theorem exec_syncInEdge (t : Nat) (rising : Bool) (s : State) :
    exec (.syncInEdge t rising) s = run (.syncInEdge t rising) (syncInEffect rising) s := rfl

theorem exec_syncCommand (t at96 : Nat) (s : State) :
    exec (.syncCommand t at96) s = run (.syncCommand t at96) (syncCommandEffect at96) s := rfl

/-- R63: an edge of the selected polarity while an alignment is pending only raises EV_071; its parameter says why. -/
theorem syncInEffect_of_alignPending {s : State} {rising : Bool} (hin : s.bit 0x2310 1 15 = true)
    (hr : rising = !s.bit 0x2310 1 14) (hp : alignPending s = true) : ∃ p, syncInEffect rising s = s.raise 71 p := by
  have hedge : (!s.bit 0x2310 1 15 || rising == s.bit 0x2310 1 14) = false := by simp [hin, hr]
  cases hl : pllLocked s 0 with
  | false => exact ⟨2, by simp [syncInEffect, hedge, hl]⟩
  | true => exact ⟨0, by simp [syncInEffect, hedge, hl, hp]⟩

/-- R63: a write of SyncCommand while an alignment is pending only raises EV_071. -/
theorem syncCommandEffect_of_alignPending {s : State} (at96 : Nat) (hh : hostOk s = true) (hp : alignPending s = true) :
    syncCommandEffect at96 s = s.raise 71 1 := by
  simp [syncCommandEffect, syncWrite, hh, hp]

/-- R61: a zero written to SyncCommand with no alignment pending starts one 1000 ns later, never too early for itself. -/
theorem syncCommandEffect_zero_of_not_alignPending {s : State} (hh : hostOk s = true) (hp : alignPending s = false) :
    syncCommandEffect 0 s = startAlign (s.ridge + rns 1000) true false s := by
  simp [syncCommandEffect, syncWrite, hh, hp]

/-- A command whose effect is only to raise EV_071 leaves the alignments as they were, and the event pending. -/
theorem gives_ignored {c : Instr} {f : State → State} {s : State} {p : Nat} (hexec : exec c s = run c f s) (hwf : c.wf = true)
    (hlen : ((s.arrive c.time).blob 0x1200 1).length = 32) (hf : f (s.arrive c.time) = (s.arrive c.time).raise 71 p) :
    Gives c s fun b s' => s'.meas.aligns = b.meas.aligns ∧ blobBit (s'.blob 0x1200 1) 71 = true := by
  refine ⟨_, hexec.trans (run_wf s f hwf), ?_, ?_⟩
  · rw [hf]; simp
  · rw [hf]; exact pending_raise_ended (by omega) ..

/-- Settles O17: while an alignment is pending both commands come down to raising EV_071 (R63), which no late report takes back; from t_a on
none is pending, and SYNC_COMMAND starts an alignment. -/
theorem synchronisationIsIgnoredWhileAnAlignmentIsPending :
    Obligations.SynchronisationIsIgnoredWhileAnAlignmentIsPending := by
  intro s t b hlen
  refine ⟨fun a r ha hta hin hr => ?_, fun a at96 hat ha hta hh => ?_, fun hpast hh => ?_⟩
  · have hp : alignPending b = true := (alignPending_iff b).mpr ⟨a, ha, hta⟩
    obtain ⟨p, heffect⟩ := syncInEffect_of_alignPending hin hr hp
    exact gives_ignored (exec_syncInEdge t r s) rfl hlen heffect
  · have hp : alignPending b = true := (alignPending_iff b).mpr ⟨a, ha, hta⟩
    exact gives_ignored (exec_syncCommand t at96 s) (decide_eq_true hat) hlen (syncCommandEffect_of_alignPending at96 hh hp)
  · have hp : alignPending b = false := (alignPending_eq_false_iff b).mpr hpast
    have heffect : syncCommandEffect 0 b = startAlign (b.ridge + rns 1000) true false b :=
      syncCommandEffect_zero_of_not_alignPending hh hp
    refine ⟨_, (exec_syncCommand t 0 s).trans (run_wf s _ (decide_eq_true (Nat.two_pow_pos 96))), ?_⟩
    simp only [ended_fields]
    exact (congrArg (·.meas.aligns) heffect).trans (startAlign_aligns ..)

end Sys2Proof.Machine
end

section
/-!
SUPPORT. Sharing (chapter 11): how a slot of the joist scratch goes (R315), and the slot tables and quanta that the sharing records hold after
power-up (R326, Table 11.3).
-/
namespace Sys2Proof.Machine

/-! ### The joist scratch (R315) -/

/-- A class present at the joist scratch has a request presented at its arbiter. -/
def Arbiter.asksJoist (a : Arbiter) (c : Nat) : Bool := classPresent 0 c && a.reqs.any (fun q => q.cls == c)

/-- Every class is present at the joist scratch (Table 11.2). -/
theorem classPresent_joist : ∀ c < 6, classPresent 0 c = true := by decide

theorem asksJoist_iff (a : Arbiter) {c : Nat} (hc : c < 6) : a.asksJoist c = true ↔ ∃ q ∈ a.reqs, q.cls = c := by
  simp [Arbiter.asksJoist, classPresent_joist c hc]

theorem asksJoist_eq_false_iff (a : Arbiter) {c : Nat} (hc : c < 6) : a.asksJoist c = false ↔ ∀ q ∈ a.reqs, q.cls ≠ c := by
  simp [← Bool.not_eq_true, asksJoist_iff a hc]

/-- R315: a slot of the joist scratch goes to its class where that one asks, else to the first of C0 to C4 that asks; no round robin turns. -/
theorem decideSlot_joist (k pos : Nat) (tables : List Nat × Nat) (a : Arbiter) :
    decideSlot 0 k pos tables a =
      (if a.asksJoist (nth 0xFF tables.1 pos) then some (nth 0xFF tables.1 pos) else (List.range 5).find? a.asksJoist, a) := by
  unfold decideSlot
  rw [if_pos rfl]
  exact (apply_ite (·, a) ..).symm

/-- The class found for a slot that its owner leaves is the lowest of C0 to C4 with a request presented. -/
theorem find_asksJoist_eq_some_iff (a : Arbiter) (n : Nat) : (List.range 5).find? a.asksJoist = some n ↔
    n < 5 ∧ (∃ q ∈ a.reqs, q.cls = n) ∧ ∀ j, j < n → ∀ q ∈ a.reqs, q.cls ≠ j := by
  rw [List.find?_range_eq_some, List.mem_range, and_left_comm]
  refine and_congr_right fun hn => and_congr (asksJoist_iff a (by omega)) (forall₂_congr fun j hj => ?_)
  rw [Bool.not_eq_true', asksJoist_eq_false_iff a (by omega)]

/-- None is found only where no class of C0 to C4 has a request presented. -/
theorem find_asksJoist_eq_none_iff (a : Arbiter) :
    (List.range 5).find? a.asksJoist = none ↔ ∀ n, n < 5 → ∀ q ∈ a.reqs, q.cls ≠ n := by
  rw [List.find?_range_eq_none]
  refine forall₂_congr fun n hn => ?_
  rw [Bool.not_eq_true', asksJoist_eq_false_iff a (by omega)]

/-- Settles O15, by whether the owner of the slot has a request presented: if so the slot is its own, and if not, what goes is the search
over C0 to C4, which never finds C5. -/
theorem aScratchSlotGoesToItsOwnerThenTheLowestClass : Obligations.AScratchSlotGoesToItsOwnerThenTheLowestClass := by
  intro k pos tables a c hmark hc hcls
  simp only [decideSlot_joist, hmark, and_true]
  cases hask : a.asksJoist c with
  | true =>
    obtain ⟨q, hq, hqc⟩ := (asksJoist_iff a hc).mp hask
    refine ⟨fun _ => rfl, fun hno => absurd hqc (hno q hq), fun h5 => Option.some.inj h5, fun h => nomatch h⟩
  | false =>
    have hno := (asksJoist_eq_false_iff a hc).mp hask
    simp only [Bool.false_eq_true, if_false]
    refine ⟨fun ⟨q, hq, hqc⟩ => absurd hqc (hno q hq), fun _ n => find_asksJoist_eq_some_iff a n, fun h5 => ?_, fun hnone q hq => ?_⟩
    · obtain ⟨hlt, -⟩ := (find_asksJoist_eq_some_iff a 5).mp h5
      omega
    · have hlow : ¬ q.cls < 5 := fun hlt => (find_asksJoist_eq_none_iff a).mp hnone _ hlt q hq rfl
      have hlt6 := hcls q hq
      omega

/-! ### The sharing records after power-up (R326) -/

/-- The quanta after power-up (Table 11.9). -/
def quantaInit (r : Nat) : Nat := nth 0 [0, 0x08060501, 0x101C0004, 0x0C0A0802, 0x01010101, 0x00060501, 0x04030201] r

theorem objDefault_of_rowOf {i j : Nat} {o : ObjRow} (hj : j < 256) (hrow : rowOf (i * 256 + j) = some o) :
    objDefault (i * 256 + j) = if o.size = 0 then .blob (blobDefault i j) else .num (indexDefault i j o.dflt) := by
  have hdiv : (i * 256 + j) / 256 = i := by omega
  have hmod : (i * 256 + j) % 256 = j := by omega
  simp only [objDefault, hrow, hdiv, hmod]

/-- The dictionary lists nothing at reset: an object holds its default (R11). -/
theorem val_reset (k : Nat) : State.reset.val k = objDefault k := rfl

theorem blob_reset_of_rowOf {i j : Nat} {o : ObjRow} (hj : j < 256) (hrow : rowOf (i * 256 + j) = some o) (hsize : o.size = 0) :
    State.reset.blob i j = blobDefault i j := by
  rw [State.blob, val_reset, objDefault_of_rowOf hj hrow, if_pos hsize, Val.asBlob]

theorem num_reset_of_rowOf {i j : Nat} {o : ObjRow} (hj : j < 256) (hrow : rowOf (i * 256 + j) = some o) (hsize : o.size ≠ 0) :
    State.reset.num i j = indexDefault i j o.dflt := by
  rw [State.num, val_reset, objDefault_of_rowOf hj hrow, if_neg hsize, Val.asNum]

theorem rowOf_slotTable : ∀ r < 7, rowOf ((0xA100 + r) * 256 + 1) = some (rCB .e 1) := by decide

theorem rowOf_quanta : ∀ r < 7, rowOf ((0xA100 + r) * 256 + 2) = some (rCE 2 4 0) := by decide

theorem blobDefault_slotTable : ∀ r < 7, blobDefault (0xA100 + r) 1 = slotTableInit r := by decide

theorem indexDefault_quanta : ∀ r < 7, indexDefault (0xA100 + r) 2 (rCE 2 4 0).dflt = quantaInit r := by decide

/-- No set is committed at power-up, so the tables in use are those that the sharing records hold, at their defaults. -/
theorem tablesIn_reset {r : Nat} (hr : r < 7) (start : Nat) : tablesIn State.reset r start = (slotTableInit r, quantaInit r) := by
  have htable : State.reset.blob (0xA100 + r) 1 = slotTableInit r :=
    (blob_reset_of_rowOf (by decide) (rowOf_slotTable r hr) rfl).trans (blobDefault_slotTable r hr)
  have hquanta : State.reset.num (0xA100 + r) 2 = quantaInit r :=
    (num_reset_of_rowOf (by decide) (rowOf_quanta r hr) (by decide)).trans (indexDefault_quanta r hr)
  exact Prod.ext htable hquanta

/-- Settles O14: the records hold the model's default tables and quanta, which are Table 11.3's slot by slot. -/
theorem powerUpSlotTablesAreThoseOfTheManual : Obligations.PowerUpSlotTablesAreThoseOfTheManual := by
  unfold Obligations.PowerUpSlotTablesAreThoseOfTheManual
  simp only [tablesIn_reset, Nat.reduceLT]
  decide

end Sys2Proof.Machine
end

section
/-!
SUPPORT. EVT_N (R447, R454): the condition that pulls it low, in the bits of the event objects.
-/
namespace Sys2Proof.Machine

/-- R447: the condition of EVT_N is an event with both its Pending flag and its EvtRoute bit set. -/
theorem evtCond_iff (s : State) :
    evtCond s = true ↔ ∃ e, e < 256 ∧ blobBit (s.blob 0x1200 1) e = true ∧ blobBit (s.blob 0x1200 4) e = true := by
  simp only [evtCond, List.any_eq_true, List.mem_range, Bool.and_eq_true]

/-- EVT_N follows its condition from FW_START on (R454), and is released before. -/
theorem evtLow_iff (s : State) : s.evtLow = true ↔ s.boot.fwStarted = true ∧ evtCond s = true := Bool.and_eq_true_iff

/-- Settles O13: EVT_N is low from FW_START on under its condition, which scans the two bits of every event. -/
theorem evtNIsLowWhileARoutedEventIsPending : Obligations.EvtNIsLowWhileARoutedEventIsPending :=
  fun s => (evtLow_iff s).trans (and_congr_right fun _ => evtCond_iff s)

end Sys2Proof.Machine
end

section
/-!
SUPPORT. What any command can move: every command but POWER_GOOD and those that carry a host's writes or staged values moves the device's own
parts and the objects that the device itself writes, and those others leave time, the queue and the interlock of the gates alone. The
invariants that speak of all commands rest on this one case split.
-/
namespace Sys2Proof
open Sys2Proof.Machine

namespace Own

/-- RESTART writes its status and, where it is accepted, the instant at which it acts (R474). -/
theorem moves_restart {P : List Part} {G : List Objs} {z0 : State} {t confirm : Nat} (hp_boot : Part.boot ∈ P)
    (hG : Cov G [⟨0xB000, 0xB000, 3, 3⟩]) : OwnMoves P G z0 (.restart t confirm) := by
  change ∀ s', Machine.execRestart t confirm z0 = .next s' → Own (.pairs :: P) G (z0.arrive (Instr.restart t confirm).time) s'
  unfold Machine.execRestart
  refine own_run fun _ b => branch (fun _ => doRestart (List.mem_cons_of_mem _ hp_boot) hG (same b)) fun _ => same b

end Own

/-- The commands whose effect can reach any object: those that carry a host's writes or staged values, and POWER_GOOD. -/
def reachesAnyObject : Instr → Bool
  | .powerGood .. | .islandRestartDone .. | .frameReceived .. | .writeObjects .. | .bootSend .. | .commitComplete .. | .objectWrite .. => true
  | _ => false

/-- The objects that the device itself writes in the course of its commands. -/
def deviceObjs : List Objs :=
  [⟨0x1000, 0x1000, 2, 2⟩, ⟨0x1000, 0x1000, 5, 5⟩, ⟨0x1020, 0x1020, 5, 5⟩, ⟨0x1030, 0x1030, 7, 7⟩, ⟨0x1200, 0x1200, 1, 2⟩,
   ⟨0x2100, 0x213F, 4, 4⟩, ⟨0x2100, 0x213F, 11, 12⟩, ⟨0x2100, 0x213F, 16, 16⟩, ⟨0x2200, 0x227F, 131, 131⟩, ⟨0x2300, 0x2300, 2, 2⟩,
   ⟨0x2310, 0x2310, 3, 4⟩, ⟨0x2500, 0x2503, 6, 9⟩, ⟨0x2600, 0x263F, 7, 7⟩, ⟨0x3000, 0x3000, 2, 6⟩, ⟨0x3100, 0x3101, 4, 4⟩,
   ⟨0x3300, 0x3300, 2, 2⟩, ⟨0x3400, 0x3BFF, 4, 4⟩, ⟨0x3400, 0x3BFF, 6, 8⟩, ⟨0x4001, 0x4001, 3, 5⟩, ⟨0x4002, 0x4002, 16, 17⟩,
   ⟨0x5100, 0x5100, 4, 4⟩, ⟨0x5120, 0x5127, 5, 6⟩, ⟨0x5140, 0x515F, 2, 3⟩, ⟨0x5200, 0x5247, 8, 8⟩, ⟨0x5300, 0x5300, 1, 4⟩,
   ⟨0x5310, 0x5310, 3, 3⟩, ⟨0x5320, 0x5320, 2, 2⟩, ⟨0x6000, 0x6000, 2, 2⟩, ⟨0x6020, 0x6020, 2, 2⟩, ⟨0x6021, 0x6021, 1, 5⟩,
   ⟨0x6030, 0x6031, 1, 8⟩, ⟨0x6800, 0x6800, 1, 4⟩, ⟨0x6800, 0x6800, 7, 11⟩, ⟨0x7000, 0x7000, 2, 2⟩, ⟨0x7000, 0x7000, 5, 8⟩,
   ⟨0x7010, 0x7010, 7, 8⟩, ⟨0x7020, 0x7020, 7, 7⟩, ⟨0x7028, 0x7029, 1, 4⟩, ⟨0x7030, 0x7030, 4, 6⟩, ⟨0x7040, 0x7040, 2, 3⟩,
   ⟨0x7050, 0x7050, 1, 1⟩, ⟨0x7060, 0x7060, 2, 2⟩, ⟨0x7100, 0x7104, 3, 7⟩, ⟨0x7200, 0x7207, 2, 2⟩, ⟨0x8000, 0x8000, 2, 2⟩,
   ⟨0x8010, 0x8017, 12, 13⟩, ⟨0x8100, 0x8100, 3, 3⟩, ⟨0x8100, 0x8100, 9, 9⟩, ⟨0x8110, 0x814F, 1, 1⟩, ⟨0x8110, 0x814F, 4, 7⟩,
   ⟨0x8210, 0x8211, 3, 3⟩, ⟨0x8210, 0x8211, 6, 6⟩, ⟨0x8300, 0x836F, 5, 5⟩, ⟨0x8300, 0x836F, 8, 8⟩, ⟨0x9000, 0x9000, 5, 5⟩,
   ⟨0x9010, 0x901F, 2, 9⟩, ⟨0x9100, 0x910F, 4, 4⟩, ⟨0xA000, 0xA000, 1, 3⟩, ⟨0xB000, 0xB000, 1, 1⟩, ⟨0xB000, 0xB000, 3, 7⟩,
   ⟨0xB010, 0xB010, 1, 1⟩, ⟨0xB010, 0xB010, 3, 3⟩, ⟨0xB100, 0xB100, 2, 3⟩, ⟨0xB200, 0xB200, 9, 10⟩]

/-- The objects a command writes: the identity forms with PUF_DERIVATION, KEY_LOAD loads the role keys, a seed is PowerCycles'. -/
def writtenObjs : Instr → List Objs
  | .pufDerivation .. => [⟨0x1000, 0x1000, 1, 3⟩, ⟨0x1010, 0x1010, 1, 2⟩, ⟨0x7020, 0x7020, 1, 1⟩] ++ deviceObjs
  | .keyLoad .. => [⟨0x1000, 0x1000, 6, 7⟩, ⟨0x1030, 0x1030, 1, 4⟩] ++ deviceObjs
  | .powerCycleSeed .. => ⟨0x8100, 0x8100, 10, 10⟩ :: deviceObjs
  | _ => deviceObjs

/-- The parts a command moves: TIME_STEP alone steps ridge time (R342). -/
def movedParts : Instr → List Part
  | .timeStep .. => .time :: allParts
  | _ => allParts

/-- A command that cannot reach every object moves its own parts and objects alone: the frames of Laws/, all at once. -/
theorem ownMoves_device (c : Instr) (s : State) (h : reachesAnyObject c = false) : OwnMoves (movedParts c) (writtenObjs c) s c := by
  cases c
  all_goals dsimp only [movedParts, writtenObjs]
  case powerGood => exact absurd h (by simp [reachesAnyObject])
  case romChecksComplete => apply Own.moves_romChecksComplete <;> decide
  case pufDerivation => apply Own.moves_pufDerivation <;> decide
  case loaderBlock => apply Own.moves_loaderBlock <;> decide
  case loaderStatusOp => exact Own.moves_loaderStatusOp (by decide)
  case loaderAbort => apply Own.moves_loaderAbort <;> decide
  case bootLoad => apply Own.moves_bootLoad <;> decide
  case loaderStatus => apply Own.moves_loaderStatus <;> decide
  case loaderIdleTimeout => apply Own.moves_loaderIdleTimeout <;> decide
  case imageVerify => apply Own.moves_imageVerify <;> decide
  case fwStart => apply Own.moves_fwStart <;> decide
  case bringUp => apply Own.moves_bringUp <;> decide
  case bringUpComplete => apply Own.moves_bringUpComplete <;> decide
  case restart => apply Own.moves_restart <;> decide
  case islandWatchdog => apply Own.moves_islandWatchdog <;> decide
  case islandRestartDone => exact absurd h (by simp [reachesAnyObject])
  case imagePartWrite => apply Own.moves_imagePartWrite <;> decide
  case imageVerifyCommand => apply Own.moves_imageVerifyCommand <;> decide
  case imageSwitch => exact Own.moves_imageSwitch (by decide)
  case imageDiscard => apply Own.moves_imageDiscard <;> decide
  case tempHigh => apply Own.moves_tempHigh <;> decide
  case tempCritical => apply Own.moves_tempCritical <;> decide
  case railWarning => apply Own.moves_railWarning <;> decide
  case railFault => apply Own.moves_railFault <;> decide
  case vddRidgeLoss => apply Own.moves_vddRidgeLoss <;> decide
  case ridgeFault => apply Own.moves_ridgeFault <;> decide
  case trussLinkFrame => apply Own.moves_trussLinkFrame <;> decide
  case syncInEdge => apply Own.moves_syncInEdge <;> decide
  case syncCommand => apply Own.moves_syncCommand <;> decide
  case syncOutPulse => apply Own.moves_syncOutPulse <;> decide
  case decimAlignment => apply Own.moves_decimAlignment <;> decide
  case decimationBoundary => apply Own.moves_decimationBoundary <;> decide
  case stuckBits => apply Own.moves_stuckBits <;> decide
  case modClockMissing => apply Own.moves_modClockMissing <;> decide
  case feedbackDisagreement => apply Own.moves_feedbackDisagreement <;> decide
  case modelTimeExpiry => apply Own.moves_modelTimeExpiry <;> decide
  case samplingClockStart => exact Own.moves_samplingClockStart (by decide)
  case feedbackRecovery => apply Own.moves_feedbackRecovery <;> decide
  case settlingCleared => exact Own.moves_settlingCleared (by decide)
  case bankSwapRequest => apply Own.moves_bankSwapRequest <;> decide
  case arcRefTriple => apply Own.moves_arcRefTriple <;> decide
  case arcRefApply => apply Own.moves_arcRefApply <;> decide
  case arcRefStale => apply Own.moves_arcRefStale <;> decide
  case comparatorFire => apply Own.moves_comparatorFire <;> decide
  case blankWindowOpen => exact Own.moves_blankWindowOpen (by decide)
  case blankWindowClose => exact Own.moves_blankWindowClose (by decide)
  case fastTick => apply Own.moves_fastTick <;> decide
  case laneWake => exact Own.moves_laneWake (by decide)
  case entryExecution => apply Own.moves_entryExecution <;> decide
  case compareWriter => apply Own.moves_compareWriter <;> decide
  case graphSwitchRequest => apply Own.moves_graphSwitchRequest <;> decide
  case graphSwitch => apply Own.moves_graphSwitch <;> decide
  case resultRead => apply Own.moves_resultRead <;> decide
  case resultFifoRead => apply Own.moves_resultFifoRead <;> decide
  case presetNow => exact Own.moves_presetNow (by decide)
  case modeForceManual => exact Own.moves_modeForceManual (by decide)
  case modeForceAutomatic => exact Own.moves_modeForceAutomatic (by decide)
  case modeRelease => exact Own.moves_modeRelease (by decide)
  case paramSwapRequest => apply Own.moves_paramSwapRequest <;> decide
  case gfMainTick => apply Own.moves_gfMainTick <;> decide
  case gfIdleEvaluation => apply Own.moves_gfIdleEvaluation <;> decide
  case blackStart => exact Own.moves_blackStart (by decide)
  case join => exact Own.moves_join (by decide)
  case resync => exact Own.moves_resync (by decide)
  case abortResync => exact Own.moves_abortResync (by decide)
  case stop => exact Own.moves_stop (by decide)
  case acknowledge => exact Own.moves_acknowledge (by decide)
  case cancelStart => exact Own.moves_cancelStart (by decide)
  case coherentStart => apply Own.moves_coherentStart <;> decide
  case rideExit => exact Own.moves_rideExit (by decide)
  case limitEntry => exact Own.moves_limitEntry (by decide)
  case rideTimeout => exact Own.moves_rideTimeout (by decide)
  case blackStartTimeout => exact Own.moves_blackStartTimeout (by decide)
  case resyncTimeout => exact Own.moves_resyncTimeout (by decide)
  case breakerDinChange => apply Own.moves_breakerDinChange <;> decide
  case breakerFail => apply Own.moves_breakerFail <;> decide
  case carrierVertex => apply Own.moves_carrierVertex <;> decide
  case gateCommandEdge => apply Own.moves_gateCommandEdge <;> decide
  case deadTimeExpiry => apply Own.moves_deadTimeExpiry <;> decide
  case carrierStart => apply Own.moves_carrierStart <;> decide
  case carrierGroupStart => apply Own.moves_carrierGroupStart <;> decide
  case carrierStop => apply Own.moves_carrierStop <;> decide
  case updateCommit => exact Own.moves_updateCommit (by decide)
  case shadowWrite => apply Own.moves_shadowWrite <;> decide
  case shadowApply => apply Own.moves_shadowApply <;> decide
  case faultInTrip => apply Own.moves_faultInTrip <;> decide
  case releaseFaultIn => apply Own.moves_releaseFaultIn <;> decide
  case releaseChordTrip => apply Own.moves_releaseChordTrip <;> decide
  case disableMaskWrite => apply Own.moves_disableMaskWrite <;> decide
  case commissionEnter => exact Own.moves_commissionEnter (by decide)
  case commissionLeave => apply Own.moves_commissionLeave <;> decide
  case overrideMapWrite => apply Own.moves_overrideMapWrite <;> decide
  case debugHalt => exact Own.moves_debugHalt (by decide)
  case debugResume => apply Own.moves_debugResume <;> decide
  case stackTransaction => apply Own.moves_stackTransaction <;> decide
  case stretchTimeout => apply Own.moves_stretchTimeout <;> decide
  case pollTimeout => apply Own.moves_pollTimeout <;> decide
  case stackReadDone => apply Own.moves_stackReadDone <;> decide
  case flush => apply Own.moves_flush <;> decide
  case rescan => apply Own.moves_rescan <;> decide
  case initRecord => apply Own.moves_initRecord <;> decide
  case bringIn => apply Own.moves_bringIn <;> decide
  case cancelBringIn => apply Own.moves_cancelBringIn <;> decide
  case lifeWriteInterval => apply Own.moves_lifeWriteInterval <;> decide
  case lifeWritten => apply Own.moves_lifeWritten <;> decide
  case rainflowPosting => apply Own.moves_rainflowPosting <;> decide
  case stackHours => apply Own.moves_stackHours <;> decide
  case wearEvaluation => apply Own.moves_wearEvaluation <;> decide
  case spareCrossingCheck => apply Own.moves_spareCrossingCheck <;> decide
  case spareSwapTimeout => apply Own.moves_spareSwapTimeout <;> decide
  case heartbeat => apply Own.moves_heartbeat <;> decide
  case heartbeatMissing => apply Own.moves_heartbeatMissing <;> decide
  case signatureCompare => exact Own.moves_signatureCompare (by decide)
  case mismatchResolution => apply Own.moves_mismatchResolution <;> decide
  case mirrorFrame => apply Own.moves_mirrorFrame <;> decide
  case sideJoined => apply Own.moves_sideJoined <;> decide
  case reinitAttemptFailed => apply Own.moves_reinitAttemptFailed <;> decide
  case reinitRetry => apply Own.moves_reinitRetry <;> decide
  case handover => apply Own.moves_handover <;> decide
  case handoverExecute => apply Own.moves_handoverExecute <;> decide
  case restore => apply Own.moves_restore <;> decide
  case powerDown => apply Own.moves_powerDown <;> decide
  case powerUp => apply Own.moves_powerUp <;> decide
  case doutRequest => exact Own.moves_doutRequest (by decide)
  case kerfWindowClose => exact Own.moves_kerfWindowClose (by decide)
  case laneTest => apply Own.moves_laneTest <;> decide
  case eccError => apply Own.moves_eccError <;> decide
  case pllFreqCheck => apply Own.moves_pllFreqCheck <;> decide
  case badHoldExpiry => apply Own.moves_badHoldExpiry <;> decide
  case safetyChannelFault => apply Own.moves_safetyChannelFault <;> decide
  case sealReadingAccepted => apply Own.moves_sealReadingAccepted <;> decide
  case sinFilterExpiry => apply Own.moves_sinFilterExpiry <;> decide
  case sinDiscrepancy => apply Own.moves_sinDiscrepancy <;> decide
  case soutRequestWrite => apply Own.moves_soutRequestWrite <;> decide
  case soutTestPulse => apply Own.moves_soutTestPulse <;> decide
  case soutTestEnd => apply Own.moves_soutTestEnd <;> decide
  case soutStuckOn => apply Own.moves_soutStuckOn <;> decide
  case safetyReset => apply Own.moves_safetyReset <;> decide
  case resetStuck => apply Own.moves_resetStuck <;> decide
  case resetDiscrepancy => apply Own.moves_resetDiscrepancy <;> decide
  case resetBlockEnd => apply Own.moves_resetBlockEnd <;> decide
  case arbiterRequest => apply Own.moves_arbiterRequest <;> decide
  case semaphoreRequest => apply Own.moves_semaphoreRequest <;> decide
  case semaphoreRelease => apply Own.moves_semaphoreRelease <;> decide
  case semaphoreLeaseExpired => apply Own.moves_semaphoreLeaseExpired <;> decide
  case incrementWrite => exact Own.moves_incrementWrite (by decide)
  case timeSet => apply Own.moves_timeSet <;> decide
  case timeAdjust => apply Own.moves_timeAdjust <;> decide
  case timeStep => apply Own.moves_timeStep <;> decide
  case ptpSyncReceived => apply Own.moves_ptpSyncReceived <;> decide
  case pathDelayMeasurement => apply Own.moves_pathDelayMeasurement <;> decide
  case pathConfirm => apply Own.moves_pathConfirm <;> decide
  case ptpAnnounceReceived => apply Own.moves_ptpAnnounceReceived <;> decide
  case announceTimeout => apply Own.moves_announceTimeout <;> decide
  case holdoverValidExpiry => apply Own.moves_holdoverValidExpiry <;> decide
  case ppsInEdge => apply Own.moves_ppsInEdge <;> decide
  case ppsInTimeout => apply Own.moves_ppsInTimeout <;> decide
  case ptpSyncSend => apply Own.moves_ptpSyncSend <;> decide
  case ppsOutPulse => apply Own.moves_ppsOutPulse <;> decide
  case leapSecond => apply Own.moves_leapSecond <;> decide
  case refFault => apply Own.moves_refFault <;> decide
  case refSwitchCommand => apply Own.moves_refSwitchCommand <;> decide
  case refDisagree => exact Own.moves_refDisagree (by decide)
  case pllStart => apply Own.moves_pllStart <;> decide
  case pllLock => apply Own.moves_pllLock <;> decide
  case pllRetryBand => apply Own.moves_pllRetryBand <;> decide
  case pllSweep => apply Own.moves_pllSweep <;> decide
  case pllSweepDone => apply Own.moves_pllSweepDone <;> decide
  case pllLockLost => apply Own.moves_pllLockLost <;> decide
  case clkoutStart => apply Own.moves_clkoutStart <;> decide
  case clkoutStop => apply Own.moves_clkoutStop <;> decide
  case clkoutGateOpen => apply Own.moves_clkoutGateOpen <;> decide
  case clkoutGateClose => apply Own.moves_clkoutGateClose <;> decide
  case trussClockSwitch => apply Own.moves_trussClockSwitch <;> decide
  case switchDeferred => apply Own.moves_switchDeferred <;> decide
  case arm => exact Own.moves_arm (by decide)
  case disarm => exact Own.moves_disarm (by decide)
  case trigger => exact Own.moves_trigger
  case release => exact Own.moves_release (by decide)
  case captureRow => apply Own.moves_captureRow <;> decide
  case streamBacklogHalving => exact Own.moves_streamBacklogHalving (by decide)
  case captureStreamSend => apply Own.moves_captureStreamSend <;> decide
  case segmentHoldExpiry => exact Own.moves_segmentHoldExpiry (by decide)
  case segmentSelect => exact Own.moves_segmentSelect (by decide)
  case segmentRowsRead => apply Own.moves_segmentRowsRead <;> decide
  case hoursSeed => exact Own.moves_hoursSeed (by decide)
  case powerCycleSeed => exact Own.moves_powerCycleSeed (by decide)
  case operatingHoursTick => apply Own.moves_operatingHoursTick <;> decide
  case histogramSample => apply Own.moves_histogramSample <;> decide
  case histogramClear => exact Own.moves_histogramClear (by decide)
  case scribeNote => exact Own.moves_scribeNote (by decide)
  case scribeTokenRefill => exact Own.moves_scribeTokenRefill (by decide)
  case scribeRecordsRead => apply Own.moves_scribeRecordsRead <;> decide
  case compatRecordsRead => apply Own.moves_compatRecordsRead <;> decide
  case startCounters => exact Own.moves_startCounters (by decide)
  case stopCounters => exact Own.moves_stopCounters (by decide)
  case clearCounters => exact Own.moves_clearCounters (by decide)
  case counterWrite => exact Own.moves_counterWrite (by decide)
  case counterReadLatch => apply Own.moves_counterReadLatch <;> decide
  case counterOverflow => exact Own.moves_counterOverflow
  case tagRecord => apply Own.moves_tagRecord <;> decide
  case tagRecordsRead => apply Own.moves_tagRecordsRead <;> decide
  case frameReceived => exact absurd h (by simp [reachesAnyObject])
  case arpRequest => apply Own.moves_arpRequest <;> decide
  case icmpEcho => apply Own.moves_icmpEcho <;> decide
  case supervisionFrameSend => apply Own.moves_supervisionFrameSend <;> decide
  case lanFault => exact Own.moves_lanFault (by decide)
  case ringFault => apply Own.moves_ringFault <;> decide
  case portLinkChange => exact Own.moves_portLinkChange (by decide)
  case identify => apply Own.moves_identify <;> decide
  case keyLoad => apply Own.moves_keyLoad <;> decide
  case openSession => apply Own.moves_openSession <;> decide
  case closeSession => apply Own.moves_closeSession <;> decide
  case readObjects => apply Own.moves_readObjects <;> decide
  case writeObjects => exact absurd h (by simp [reachesAnyObject])
  case keepalive => apply Own.moves_keepalive <;> decide
  case sourceBlockEnd => exact Own.moves_sourceBlockEnd (by decide)
  case sessionIdleTimeout => apply Own.moves_sessionIdleTimeout <;> decide
  case bootSend => exact absurd h (by simp [reachesAnyObject])
  case bootFetch => apply Own.moves_bootFetch <;> decide
  case bootStatus => exact Own.moves_bootStatus (by decide)
  case beginSet => apply Own.moves_beginSet <;> decide
  case commitSet => apply Own.moves_commitSet <;> decide
  case abortSet => apply Own.moves_abortSet <;> decide
  case commitComplete => exact absurd h (by simp [reachesAnyObject])
  case setIdleTimeout => exact Own.moves_setIdleTimeout (by decide)
  case configObjectWrite => apply Own.moves_configObjectWrite <;> decide
  case objectWrite => exact absurd h (by simp [reachesAnyObject])
  case segmentedWriteTimeout => exact Own.moves_segmentedWriteTimeout (by decide)
  case snapshotTimeout => exact Own.moves_snapshotTimeout (by decide)
  case pendingClear => exact Own.moves_pendingClear (by decide)
  case countClear => exact Own.moves_countClear (by decide)
  case notifyHoldoffExpiry => apply Own.moves_notifyHoldoffExpiry <;> decide
  case samplingEdge => apply Own.moves_samplingEdge <;> decide
  case plateMinOnExpiry => exact Own.moves_plateMinOnExpiry (by decide)
  case sensorUpdate => apply Own.moves_sensorUpdate <;> decide
  case ptpDelayRequestSend => apply Own.moves_ptpDelayRequestSend <;> decide
  case ptpAnnounceSend => apply Own.moves_ptpAnnounceSend <;> decide

end Sys2Proof
end

section
/-!
SUPPORT. What the commands that can reach any object leave alone, and how time runs to a command's instant (R339).
-/
namespace Sys2Proof
open Sys2Proof.Machine

namespace Snd

theorem emit {s u : State} {k d : Nat} {l : List Nat} (h : Snd s u) : Snd s (u.emit k d l) := ⟨h.sound, h.now, h.ridge, h.pending⟩

theorem answerPtp {port : Nat} {f : Frame} {s : State} : Snd s (Machine.answerPtp port f s) := by
  unfold Machine.answerPtp
  have sent : ∀ kind corr, Snd s (sendPtpPort kind port f.ptpSeq
      (beBytes 6 f.src ++ beBytes 12 (toT96 (portStamp s (s.num (0x7028 + port) 5))) ++ beBytes 8 (ofInt 64 (sx 64 f.correction + corr)))
      { s with net := { s.net with redSeq := (s.net.redSeq + 1) % 65536 } }) := fun _ _ =>
    Own.snd (Own.sendPtpPort (by decide) (by decide) (by decide) (Own.net_set (by decide) (Own.same s)))
  exact br (fun _ => same s) fun _ => br (fun _ => sent _ _) fun _ => br (fun _ => sent _ _) fun _ => same s

theorem writeBy {r : Nat} {f : Sender → State → Nat × State} {s : State} (hf : ∀ w, Snd s (f w s).2) : Snd s (Machine.writeBy r f s) := by
  unfold Machine.writeBy
  refine br (fun _ => same s) fun _ => ?_
  split
  · exact same s
  · exact (hf _).emit

end Snd

/-- The end of a command leaves time and the interlock alone. -/
theorem snd_reportLate_settle (u : State) : Snd u u.reportLate.settle := Own.snd (Own.settle (by decide) (Own.reportLate (Own.same u)))

/-- From a command's instant on the gates at the plate stay sound and time stands. -/
def SoundInTime (b s' : State) : Prop := (PlateSound b → PlateSound s') ∧ s'.now = b.now ∧ s'.ridge = b.ridge

theorem soundInTime_run {c : Instr} {f : State → State} {s s' : State} (hf : ∀ b, Snd b (f b)) (h : run c f s = .next s') :
    SoundInTime (s.arrive c.time) s' := by
  have effect : Snd (s.arrive c.time) (if c.wf then f (s.arrive c.time) else s.arrive c.time) := Snd.br (fun _ => hf _) fun _ => Snd.same _
  have all := effect.trans (snd_reportLate_settle _)
  cases h
  exact ⟨all.sound, all.now, all.ridge⟩

theorem soundInTime_islandRestartDone {t : Nat} {s s' : State} (h : execIslandRestartDone t s = .next s') : SoundInTime (s.arrive t) s' := by
  unfold execIslandRestartDone at h
  refine soundInTime_run (fun b => Snd.br (fun _ => ?_) fun _ => Snd.same b) h
  have cleared : Snd b { b with boot := { b.boot with islandDown := false }, net := { b.net with queue := [] } } := ⟨id, rfl, rfl, rfl⟩
  exact cleared.trans (Snd.foldl fun _ _ => Snd.messageOf)

theorem soundInTime_frameReceived {t port : Nat} {frame : Frame} {s s' : State} (h : execFrameReceived t port frame s = .next s') :
    SoundInTime (s.arrive t) s' := by
  unfold execFrameReceived at h
  refine soundInTime_run (fun b => ?_) h
  have counted : Snd b (countEvent port 0x14 1 0 b) := Own.snd (Own.countEvent (Own.same b))
  exact Snd.br (fun _ => Snd.same b) fun _ => Snd.br (fun _ => counted) fun _ => Snd.br
    (fun _ => (counted.trans Snd.answerPtp).trans Snd.takeHsr) fun _ => (counted.trans Snd.answerPtp).trans Snd.takePrp

theorem soundInTime_writeObjects {t : Nat} {msg : Msg} {s s' : State} (h : execWriteObjects t msg s = .next s') :
    SoundInTime (s.arrive t) s' := by
  unfold execWriteObjects typedIn at h
  exact soundInTime_run (fun b => Snd.br (fun _ => Snd.messageIn) fun _ => Snd.same b) h

theorem soundInTime_bootSend {t len : Nat} {msg : Msg} {s s' : State} (h : execBootSend t len msg s = .next s') :
    SoundInTime (s.arrive t) s' := by
  unfold execBootSend at h
  exact soundInTime_run (fun b => Snd.br (fun _ => Snd.same b) fun _ => Snd.br (fun _ => (Snd.same b).emit) fun _ =>
    (Snd.same b).emit.trans Snd.messageIn) h

theorem soundInTime_objectWrite {t reader obj : Nat} {data : List Nat} {s s' : State} (h : execObjectWrite t reader obj data s = .next s') :
    SoundInTime (s.arrive t) s' := by
  unfold execObjectWrite at h
  exact soundInTime_run (fun b => Snd.br (fun _ => Snd.same b) fun _ => Snd.writeBy fun _ => Snd.writeObj) h

theorem soundInTime_commitComplete {t : Nat} {s s' : State} (h : execCommitComplete t s = .next s') : SoundInTime (s.arrive t) s' := by
  unfold execCommitComplete at h
  exact soundInTime_run (fun _ => Snd.completeCommit) h

/-- Any command but TIME_STEP and POWER_GOOD leaves the gates sound, and time as it stood at its instant. -/
theorem exec_soundInTime {c : Instr} {s s' : State} (h : exec c s = .next s') (hp : ∀ t m, c ≠ .powerGood t m) (ht : ∀ t, c ≠ .timeStep t) :
    SoundInTime (s.arrive c.time) s' := by
  cases hr : reachesAnyObject c with
  | false =>
    have hparts : movedParts c = allParts := by
      cases c
      case timeStep t => exact absurd rfl (ht t)
      all_goals rfl
    have own := ownMoves_device c s hr s' h
    rw [hparts] at own
    exact ⟨own.sound, own.now (by decide), own.time (by decide)⟩
  | true =>
    cases c
    case powerGood t m => exact absurd rfl (hp t m)
    case islandRestartDone => exact soundInTime_islandRestartDone h
    case frameReceived => exact soundInTime_frameReceived h
    case writeObjects => exact soundInTime_writeObjects h
    case bootSend => exact soundInTime_bootSend h
    case objectWrite => exact soundInTime_objectWrite h
    case commitComplete => exact soundInTime_commitComplete h
    all_goals exact absurd hr (by simp [reachesAnyObject])

/-- Every command leaves the gates sound (R228): POWER_GOOD drives none, TIME_STEP moves no pair. -/
theorem exec_sound {c : Instr} {s s' : State} (h : exec c s = .next s') (hs : PlateSound s) : PlateSound s' := by
  have hb := sound_arrive s c.time hs
  by_cases hp : ∃ t m, c = .powerGood t m
  · obtain ⟨t, m, rfl⟩ := hp
    change run _ _ _ = _ at h
    cases h
    refine (snd_reportLate_settle _).sound ?_
    split
    · exact sound_powerState
    · exact hb
  · by_cases ht : ∃ t, c = .timeStep t
    · obtain ⟨t, rfl⟩ := ht
      exact (ownMoves_device _ s rfl s' h).sound hb
    · exact (exec_soundInTime h (fun t m e => hp ⟨t, m, e⟩) (fun t e => ht ⟨t, e⟩)).1 hb

/-! ### Time up to a command's instant -/

/-- The parts that what falls due moves, time itself apart. -/
abbrev dueParts : List Part := [.meas, .graphs, .gf, .plate, .stacks, .sides, .safety, .sharing, .clock, .plls, .scribe, .net, .boot, .out]

/-- R339: time up to an instant adds Increment at each reference tick passed; what falls due steps no time. -/
theorem time_passed (s : State) (t : Nat) : (s.passed t).now = max s.now t ∧
    (s.passed t).ridge = s.ridge + (max s.now t / 40000000 - s.now / 40000000) * s.num 0x7000 2 := by
  have c : Cov arriveObjs arriveObjs := by decide
  have before : ∀ u : State, u = noteSout (dueTruss .B (dueTruss .A (if sameClock s.now t then s else dueFrozen s))) →
      Own dueParts arriveObjs s u := by
    rintro u rfl
    exact Own.noteSout (by decide) (Own.dueTruss (by decide) (c.sub rfl) (Own.dueTruss (by decide) (c.sub rfl)
      (Own.branch (fun _ => Own.same s) fun _ => Own.dueFrozen (by decide) (by decide) (by decide) (c.sub rfl) (Own.same s))))
  have during : ∀ u : State, Own dueParts arriveObjs (u.advance t) (u.passTime t) := fun u =>
    Own.dueBad (by decide) (c.sub rfl) (Own.dueBad (by decide) (c.sub rfl) (Own.sendBeats (by decide) (Own.sendBeats (by decide)
      (Own.driveStacks (by decide) (Own.same _)))))
  have after : ∀ (v : State) (n r r' : Nat), Own dueParts arriveObjs v (noteSout (dueSlot (clkDue (dueRefs 0 (dueLink (dueSems (dueSlots
      (judgeAlign (sweepSwaps r (dueSills (dueClears r' (dueCounters n v)))))))))))) := by
    intro v n r r'
    unfold dueSills
    repeat' first
      | with_reducible apply Own.noteSout | with_reducible apply Own.clkDue
      | with_reducible apply Own.dueSlot | with_reducible apply Own.dueTags | with_reducible apply Own.dueRefs
      | with_reducible apply Own.dueLink | with_reducible apply Own.dueSems | with_reducible apply Own.dueSlots
      | with_reducible apply Own.judgeAlign | with_reducible apply Own.sweepSwaps | with_reducible apply Own.dueTorn
      | with_reducible apply Own.dueCommits | with_reducible apply Own.dueClears | with_reducible apply Own.dueCounters
      | decide | exact c.sub rfl | with_reducible exact Own.same _
  unfold State.passed
  dsimp only
  generalize hu : noteSout (dueTruss .B (dueTruss .A (if sameClock s.now t then s else dueFrozen s))) = u
  have hb := before u hu.symm
  have hnow : u.now = s.now := hb.now (by decide)
  have hridge : u.ridge = s.ridge := hb.time (by decide)
  have hinc : u.num 0x7000 2 = s.num 0x7000 2 := hb.numKept 0x7000 2 (by decide) (by decide)
  have all : ∀ n r r', _ := fun n r r' => (during u).step (after (u.passTime t) n r r')
  have h := all (dueTruss .B (dueTruss .A (if sameClock s.now t then s else dueFrozen s))).now
    (dueTruss .B (dueTruss .A (if sameClock s.now t then s else dueFrozen s))).ridge
    (effectiveTime (dueCounters (dueTruss .B (dueTruss .A (if sameClock s.now t then s else dueFrozen s))).now (u.passTime t)))
  refine ⟨(h.now (by decide)).trans ?_, (h.time (by decide)).trans ?_⟩
  · simp only [State.advance, hnow]
  · simp only [State.advance, hnow, hridge, hinc, tickFs]

/-- R339 up to a command's instant, while no accepted RESTART falls due. -/
theorem time_arrive {s : State} {t : Nat} (h : Standing s t) : (s.arrive t).now = max s.now t ∧
    (s.arrive t).ridge = s.ridge + (max s.now t / 40000000 - s.now / 40000000) * s.num 0x7000 2 := by
  rw [arrive_standing h]
  exact time_passed { s with out := [] } t

end Sys2Proof
end

section
/-!
SUPPORT. The statements of all commands: the queue (log entries 2 and 3), the plate (R226 to R228), ridge time (R339), PowerCycles
(R396) and the configuration objects (R428 to R432).
-/
namespace Sys2Proof
open Sys2Proof.Machine

/-! ### The queue and the common frame -/

/-- Settles O1: a step with a command waiting is that command's exec, by definition. -/
theorem stepRunsFrontCommand : Obligations.StepRunsFrontCommand := fun _ _ _ => rfl

theorem step_of_pending_eq_nil {s : State} (h : s.pending = []) : step s = .next s := by
  unfold step
  rw [h]

theorem step_of_pending_eq_cons {s : State} {c : Instr} {l : List Instr} (h : s.pending = c :: l) : step s = exec c { s with pending := l } := by
  unfold step
  rw [h]

/-- Settles O2. -/
theorem emptyQueueIdles : Obligations.EmptyQueueIdles := fun _ h => step_of_pending_eq_nil h

/-- Settles O3: an empty queue idles, and every command ends in the common frame, which keeps the rest of the queue. -/
theorem everyStepCompletes : Obligations.EveryStepCompletes := by
  intro s
  cases hq : s.pending with
  | nil => exact ⟨s, step_of_pending_eq_nil hq, hq⟩
  | cons c l =>
    obtain ⟨u, hu, -⟩ := exec_ended c { s with pending := l }
    exact ⟨u.ended l, (step_of_pending_eq_cons hq).trans hu, rfl⟩

/-- Settles O4: the effect of an ill-formed command is none (Machine/Run.lean). -/
theorem illFormedCommandsOnlyPassTime : Obligations.IllFormedCommandsOnlyPassTime := by
  intro c s hwf
  obtain ⟨u, hu, hill⟩ := exec_ended c s
  rw [hu, hill hwf]
  rfl

/-! ### The conditions of R226 -/

/-- Whether the plate may drive a pair does not rest on the pairs' own records. -/
theorem mayDrive_settle (s : State) (x : Side) (p : Nat) : s.settle.mayDrive x p = s.mayDrive x p := by
  cases x <;> rfl

theorem mayDrive_ended (s : State) (q : List Instr) (x : Side) (p : Nat) : (s.ended q).mayDrive x p = s.reportLate.settle.mayDrive x p := by
  cases x <;> rfl

/-- A pair that is driven after the plate has settled is one that it may drive. -/
theorem driving_settlePair {s : State} {q : PlatePair} (h : (settlePair s q).driving = true) :
    s.mayDrive (if (settlePair s q).sideB then .B else .A) (settlePair s q).pair = true := by
  unfold settlePair at h ⊢
  by_cases hc : (q.driving && !s.mayDrive (if q.sideB then .B else .A) q.pair) = true
  · rw [if_pos hc] at h
    exact absurd h (by simp)
  · rw [if_neg hc] at h ⊢
    simpa only [h, Bool.true_and, Bool.not_eq_true', Bool.not_eq_false] using hc

theorem plateSafe_settle (s : State) : PlateSafe s.settle := by
  intro e he hd
  obtain ⟨f, -, rfl⟩ := List.mem_map.mp (show e ∈ s.plate.pairs.map (fun e => (e.1, settlePair s e.2)) from he)
  rw [mayDrive_settle]
  exact driving_settlePair hd

/-- R226: whatever a command does, the plate settles after it. -/
theorem plateSafe_exec {c : Instr} {s s' : State} (h : exec c s = .next s') : PlateSafe s' := by
  obtain ⟨u, hu, -⟩ := exec_ended c s
  obtain rfl : u.ended s.pending = s' := by simpa [hu] using h
  intro e he hd
  rw [mayDrive_ended]
  exact plateSafe_settle u.reportLate e he hd

/-- Settles O5: a command leaves the plate safe by the settling that ends it; an empty queue leaves the state. -/
theorem everyStepLeavesThePlateSafe : Obligations.EveryStepLeavesThePlateSafe := by
  intro s s' h
  cases hq : s.pending with
  | nil =>
    obtain rfl : s = s' := by simpa [step_of_pending_eq_nil hq] using h
    exact ⟨fun hne => absurd rfl hne, id⟩
  | cons c l =>
    have safe : PlateSafe s' := plateSafe_exec ((step_of_pending_eq_cons hq).symm.trans h)
    exact ⟨fun _ => safe, fun _ => safe⟩

/-- R226 item by item: what the plate needs to drive a pair from a side. -/
theorem mayDrive_iff (s : State) (x : Side) (p : Nat) : s.mayDrive x p = true ↔
    ((s.ready = true ∧ (s.driveState = true ∨ s.commissioning = true ∧ s.gfState = 0) ∧ s.tripped = false ∧ s.demandLatched = false ∧
      s.plate.gateHold = false ∧ ¬ (s.plate.halted = true ∧ s.permission 5 = true) ∧ s.safety.a.enable = true ∧ s.safety.b.enable = true) ∧
      s.plate.disabled.testBit p = false ∧ s.feeds x = true ∧ s.carrierRuns x (s.pairCarrier p) = true) := by
  cases hhalt : s.plate.halted <;> simp [State.mayDrive, State.plateHeld, and_assoc, hhalt]

/-- Settles O6: a driven pair is one that the plate may drive, and R226 says when that is. -/
theorem plateDrivesOnlyWhileItsConditionsHold : Obligations.PlateDrivesOnlyWhileItsConditionsHold := by
  intro c s s' h e he hd
  have may := plateSafe_exec h e he hd
  obtain ⟨⟨hready, hstate, htrip, hdemand, hhold, hhalt, ha, hb⟩, hdis, hfeeds, hruns⟩ := (mayDrive_iff ..).mp may
  have hstate' : (1 ≤ s'.gfState ∧ s'.gfState ≤ 5) ∨ (s'.commissioning = true ∧ s'.gfState = 0) := by
    simpa [State.driveState] using hstate
  exact ⟨hstate', htrip, hdemand, hdis, hfeeds, hruns, hhalt, hready, ha, hb, hhold⟩

/-- Settles O7: no pair stands in the records at reset, and every object holds its after-power-up value. -/
theorem resetLeavesThePlateSafe : Obligations.ResetLeavesThePlateSafe := by
  refine ⟨fun e he => absurd he List.not_mem_nil, fun e he => absurd he List.not_mem_nil, rfl, rfl, rfl, ?_, ?_, rfl, rfl, ?_⟩
  · decide
  · decide
  · decide

/-! ### The interlock (R228) -/

/-- Settles O8: every command leaves the gates sound, an empty queue leaves the state. -/
theorem gatesAreNeverDrivenTogether : Obligations.GatesAreNeverDrivenTogether := by
  intro s s' h hs
  cases hq : s.pending with
  | nil =>
    obtain rfl : s = s' := by simpa [step_of_pending_eq_nil hq] using h
    exact hs
  | cons c l => exact exec_sound ((step_of_pending_eq_cons hq).symm.trans h) hs

/-- Settles O9, by the levels that the outputs have and that are asked for. -/
theorem plateKeepsDeadTimeAndMinimumOn : Obligations.PlateKeepsDeadTimeAndMinimumOn := by
  intro now dh dl minOn q rh rl
  obtain ⟨pair, driving, sideB, h, l, fallH, fallL, riseH, riseL, corrected⟩ := q
  cases h <;> cases l <;> cases rh <;> cases rl <;> simp [interlock] <;> grind

/-! ### Ridge time (R339) -/

/-- Settles O10: time runs to the command's instant before its effect, and only TIME_STEP and POWER_GOOD move it themselves. -/
theorem ridgeTimeAdvancesByIncrement : Obligations.RidgeTimeAdvancesByIncrement := by
  intro c s s' h hst
  obtain ⟨hnow, hridge⟩ := time_arrive hst
  have kept : (∀ t m, c ≠ .powerGood t m) → (∀ t, c ≠ .timeStep t) → s'.now = max s.now c.time ∧
      s'.ridge = s.ridge + (max s.now c.time / 40000000 - s.now / 40000000) * s.num 0x7000 2 := fun hp ht =>
    have hs := exec_soundInTime h hp ht
    ⟨hs.2.1.trans hnow, hs.2.2.trans hridge⟩
  cases c
  case timeStep => trivial
  case powerGood => trivial
  all_goals exact kept (fun _ _ => nofun) (fun _ => nofun)

end Sys2Proof
end

section
/-!
SUPPORT. What no command writes: the configuration objects (R428 to R432) and PowerCycles (R396). The dictionary is checked record by record:
none of the objects that the device writes is a configuration object but in the records whose word also holds status.
-/
namespace Sys2Proof
open Sys2Proof.Machine

/-- All records of the dictionary (Table 18.3). -/
def allRecs : List ObjRec := objRecs1 ++ objRecs2 ++ objRecs3 ++ objRecs4 ++ objRecs5 ++ objRecs6 ++ objRecs7

/-- The records whose word holds both configuration and status that the device writes. -/
abbrev mixedObjs : List Objs :=
  [⟨0x2100, 0x213F, 4, 4⟩, ⟨0x3400, 0x3BFF, 4, 4⟩, ⟨0x7028, 0x7029, 4, 4⟩, ⟨0x7030, 0x7030, 6, 6⟩, ⟨0x8110, 0x814F, 1, 1⟩]

/-- The objects that events, records and counted occurrences write. -/
def eventObjs : List Objs :=
  [⟨0x1200, 0x1200, 1, 2⟩, ⟨0x1200, 0x1200, 7, 7⟩, ⟨0x8100, 0x8100, 3, 4⟩, ⟨0x8100, 0x8100, 8, 8⟩, ⟨0xF000, 0xF000, 1, 1⟩,
   ⟨0x8010, 0x8017, 0xD, 0xD⟩, ⟨0x8300, 0x836F, 5, 5⟩, ⟨0x8300, 0x836F, 8, 8⟩]

/-- No object of `g` belongs to row `o` of record `r`. -/
def Objs.misses (g : Objs) (r : ObjRec) (o : ObjRow) : Bool :=
  decide (g.hi < r.lo) || decide (r.hi < g.lo) || decide (g.last < o.lo) || decide (o.hi < g.sub)

/-- The configuration row `o` of record `r` is written by none of `L`, unless it lies in a mixed record. -/
def rowUnwritten (L : List Objs) (r : ObjRec) (o : ObjRow) : Bool :=
  o.kind != .cfg || mixedObjs.any (fun g => g.within ⟨r.lo, r.hi, o.lo, o.hi⟩ && Objs.within ⟨r.lo, r.hi, o.lo, o.hi⟩ g)
    || L.all (fun g => g.misses r o)

/-- The configuration objects outside the mixed records are none of `L`. -/
def configUnwritten (L : List Objs) : Bool := allRecs.all fun r => r.rows.all (rowUnwritten L r)

theorem findRec_mem {i : Nat} {l : List ObjRec} {r : ObjRec} (h : findRec i l = some r) : r ∈ l ∧ r.lo ≤ i ∧ i ≤ r.hi := by
  induction l with
  | nil => cases h
  | cons a l ih =>
    unfold findRec at h
    split at h
    · rename_i ha
      obtain rfl := Option.some.inj h
      simp only [Bool.and_eq_true, decide_eq_true_eq] at ha
      exact ⟨List.mem_cons_self, ha⟩
    · obtain ⟨hm, hr⟩ := ih h
      exact ⟨List.mem_cons_of_mem _ hm, hr⟩

theorem recOf_mem {i : Nat} {r : ObjRec} (h : recOf i = some r) : r ∈ allRecs ∧ r.lo ≤ i ∧ i ≤ r.hi := by
  unfold recOf at h
  have found : ∀ l, (∀ a ∈ l, a ∈ allRecs) → findRec i l = some r → r ∈ allRecs ∧ r.lo ≤ i ∧ i ≤ r.hi := fun l hl hf =>
    ⟨hl _ (findRec_mem hf).1, (findRec_mem hf).2⟩
  have mem : ∀ l ∈ [objRecs1, objRecs2, objRecs3, objRecs4, objRecs5, objRecs6, objRecs7], ∀ a ∈ l, a ∈ allRecs := fun l hl a ha => by
    have hall : allRecs = [objRecs1, objRecs2, objRecs3, objRecs4, objRecs5, objRecs6, objRecs7].flatten := by simp [allRecs]
    rw [hall]
    exact List.mem_flatten.mpr ⟨l, hl, ha⟩
  repeat' split at h
  all_goals exact found _ (mem _ (by simp)) h

/-- A configuration object is one of a configuration row of its record. -/
theorem rowOf_cfg {k : Nat} {o : ObjRow} (h : rowOf k = some o) (hcfg : o.kind = .cfg) :
    ∃ r ∈ allRecs, o ∈ r.rows ∧ (r.lo ≤ k / 256 ∧ k / 256 ≤ r.hi) ∧ o.lo ≤ k % 256 ∧ k % 256 ≤ o.hi := by
  unfold rowOf at h
  split at h
  · cases h
  · rename_i r hr
    obtain ⟨hm, hi⟩ := recOf_mem hr
    split at h
    · obtain rfl := Option.some.inj h
      exact absurd hcfg (by simp [rRO])
    · have hsub := List.find?_some h
      simp only [Bool.and_eq_true, decide_eq_true_eq] at hsub
      exact ⟨r, hm, List.mem_of_find?_eq_some h, hi, hsub⟩

/-- What the record-by-record check says of each object. -/
theorem not_any_has_of_configUnwritten {L : List Objs} (hL : configUnwritten L = true) {k : Nat} {o : ObjRow} (h : rowOf k = some o)
    (hcfg : o.kind = .cfg) (hmixed : mixedObjs.any (·.has k) = false) : L.any (·.has k) = false := by
  obtain ⟨r, hr, ho, ⟨hlo, hhi⟩, hsub, hlast⟩ := rowOf_cfg h hcfg
  have hrow : rowUnwritten L r o = true := List.all_eq_true.mp (List.all_eq_true.mp hL r hr) o ho
  have hk : (⟨r.lo, r.hi, o.lo, o.hi⟩ : Objs).has k = true := by
    simp only [Objs.has, Bool.and_eq_true, decide_eq_true_eq]
    exact ⟨⟨⟨hlo, hhi⟩, hsub⟩, hlast⟩
  simp only [rowUnwritten, hcfg, bne_self_eq_false, Bool.false_or, Bool.or_eq_true] at hrow
  rcases hrow with hin | hmiss
  · obtain ⟨g, hg, hgr⟩ := List.any_eq_true.mp hin
    have hgk : g.has k = true := Objs.within_has (Bool.and_eq_true_iff.mp hgr).2 hk
    exact absurd (List.any_eq_true.mpr ⟨g, hg, hgk⟩) (by rw [hmixed]; decide)
  · refine List.any_eq_false.mpr fun g hg hgk => ?_
    have hm := List.all_eq_true.mp hmiss g hg
    simp only [Objs.misses, Bool.or_eq_true, decide_eq_true_eq] at hm
    simp only [Objs.has, Bool.and_eq_true, decide_eq_true_eq] at hgk
    omega

/-- What events write is among the objects listed for them. -/
theorem eventObjs_of_evKey {k : Nat} (h : evKey k = true) : eventObjs.any (·.has k) = true := by
  unfold Objs.has
  simp only [evKey, Bool.or_eq_true, Bool.and_eq_true, beq_iff_eq, decide_eq_true_eq] at h
  generalize k / 256 = i, k % 256 = j at h ⊢
  rcases h with (((⟨hi, (hj | hj) | hj⟩ | ⟨hi, (hj | hj) | hj⟩) | ⟨hi, hj⟩) | ⟨⟨hlo, hhi⟩, hj⟩) | ⟨⟨hlo, hhi⟩, hj | hj⟩ <;>
    subst hj <;> simp_all [eventObjs]

/-- The whole dictionary: nothing that time, events or the device's commands write is configuration outside the mixed records. -/
theorem configUnwritten_all : configUnwritten (eventObjs ++ arriveObjs ++ deviceObjs) = true := by decide +kernel

theorem config_unwritten {k : Nat} {o : ObjRow} (h : rowOf k = some o) (hcfg : o.kind = .cfg) (hmixed : mixedObjs.any (·.has k) = false) :
    evKey k = false ∧ arriveObjs.any (·.has k) = false ∧ deviceObjs.any (·.has k) = false := by
  have hall := not_any_has_of_configUnwritten configUnwritten_all h hcfg hmixed
  simp only [List.any_append, Bool.or_eq_false_iff] at hall
  obtain ⟨⟨hev, harr⟩, hdev⟩ := hall
  refine ⟨?_, harr, hdev⟩
  cases hk : evKey k
  · rfl
  · rw [eventObjs_of_evKey hk] at hev
    cases hev

/-- An object that neither events, nor time, nor the command write is as it was before the command. -/
theorem val_exec {c : Instr} {s s' : State} {k : Nat} (h : exec c s = .next s') (hst : Standing s c.time) (hc : reachesAnyObject c = false)
    (hev : evKey k = false) (harr : arriveObjs.any (·.has k) = false) (hcmd : (writtenObjs c).any (·.has k) = false) :
    s'.val k = s.val k :=
  ((ownMoves_device c s hc s' h).val k hev hcmd).trans ((arrive_own hst).val k hev harr)

/-- Settles O18: of the commands named, PUF_DERIVATION, KEY_LOAD and those that reach any object are set aside; of the others the seed of
PowerCycles alone writes beside the device's own objects, and PowerCycles is RO. -/
theorem configurationChangesOnlyAtACommit : Obligations.ConfigurationChangesOnlyAtACommit := by
  intro c s s' k o h hst hrow hcfg hmixed
  obtain ⟨hev, harr, hdev⟩ := config_unwritten hrow hcfg hmixed
  have kept : reachesAnyObject c = false → (writtenObjs c).any (·.has k) = false → s'.val k = s.val k := fun hc =>
    val_exec h hst hc hev harr
  cases c
  case commitComplete => trivial
  case powerGood => trivial
  case pufDerivation => trivial
  case keyLoad => trivial
  case objectWrite => trivial
  case writeObjects => trivial
  case bootSend => trivial
  case frameReceived => trivial
  case islandRestartDone => trivial
  case powerCycleSeed =>
    refine kept rfl ?_
    have hcycles : ([⟨0x8100, 0x8100, 10, 10⟩] : List Objs).any (·.has k) = false :=
      not_any_has_of_configUnwritten (by decide +kernel) hrow hcfg hmixed
    rw [List.any_cons, List.any_nil, Bool.or_false] at hcycles
    exact (List.any_cons ..).trans (by rw [hcycles, hdev]; rfl)
  all_goals exact kept rfl hdev

/-! ### PowerCycles (R396) -/

theorem num_powerCycles_exec {c : Instr} {s s' : State} (h : exec c s = .next s') (hst : Standing s c.time) (hc : reachesAnyObject c = false)
    (hcmd : (writtenObjs c).any (·.has 0x81000A) = false) : s'.num 0x8100 0xA = s.num 0x8100 0xA := by
  simp only [State.num, val_exec (k := 0x81000A) h hst hc (by decide) (by decide) hcmd]

/-- A seed after the first is refused: EV_217 (R396). -/
theorem seedCycles_of_seeded {s : State} (v : Nat) (h : s.bit 0x8100 3 14 = true) : seedCycles v s = seedRefused 2 s := if_pos h

theorem num_powerCycles_seedRefused (s : State) (n : Nat) : (seedRefused n s).num 0x8100 0xA = s.num 0x8100 0xA := by
  unfold seedRefused
  rw [num_raise _ _ _ _ _ _ _ (by decide), State.num_setBitO _ _ _ _ _ _ _ (by decide)]

/-- Settles O11: the seed is the only command of its own that writes PowerCycles, and a second seed is refused. -/
theorem onlyASeedWritesPowerCycles : Obligations.OnlyASeedWritesPowerCycles := by
  refine ⟨by decide, fun c s s' h hst => ?_⟩
  have kept := num_powerCycles_exec h hst
  cases c
  case powerGood => trivial
  case objectWrite => trivial
  case writeObjects => trivial
  case bootSend => trivial
  case frameReceived => trivial
  case islandRestartDone => trivial
  case commitComplete => trivial
  case powerCycleSeed t v =>
    intro hseeded
    have hb : (s.arrive t).num 0x8100 0xA = s.num 0x8100 0xA := (arrive_own hst).numKept 0x8100 0xA (by decide) (by decide)
    have hrefused : seedCycles v (s.arrive t) = seedRefused 2 (s.arrive t) := seedCycles_of_seeded v hseeded
    have effect : ∀ u : State, u = (if Instr.wf (.powerCycleSeed t v) then if hostOk (s.arrive t) then seedCycles v (s.arrive t) else s.arrive t
        else s.arrive t) → u.num 0x8100 0xA = (s.arrive t).num 0x8100 0xA := by
      rintro u rfl
      rw [hrefused]
      repeat' split
      · exact num_powerCycles_seedRefused _ 2
      · rfl
      · rfl
    change run _ _ s = _ at h
    cases h
    exact (num_reportLate _ _ _ (by decide)).trans ((effect _ rfl).trans hb)
  all_goals exact kept rfl rfl

end Sys2Proof

namespace Sys2Proof.Machine

/-- A number that fits its object is found as it was written. -/
theorem num_setNum_fits {i j v : Nat} (s : State) (h : v < 2 ^ (8 * sizeOf i j)) : (s.setNum i j v).num i j = v :=
  (num_setNum_same s i j v).trans (Nat.mod_eq_of_lt h)

/-! ### Occurrences (R446) -/

theorem satInc_eq_min (w n : Nat) : satInc w n = min (2 ^ w - 1) (n + 1) := by
  unfold satInc
  have := Nat.two_pow_pos w
  split <;> omega

theorem beNat_foldl (l : List Nat) : ∀ a, l.foldl (fun a b => a * 256 + b % 256) a = a * 256 ^ l.length + beNat l := by
  unfold beNat
  induction l with
  | nil => simp
  | cons b l ih =>
    intro a
    rw [List.foldl_cons, ih, List.foldl_cons, ih (0 * 256 + b % 256), List.length_cons, Nat.pow_succ,
      Nat.mul_comm (256 ^ l.length) 256]
    simp only [Nat.zero_mul, Nat.zero_add, Nat.add_mul, Nat.mul_assoc, Nat.add_assoc]

/-- The value of the bytes of a number is the number, as far as they hold it. -/
theorem beNat_beBytes (n v : Nat) : beNat (beBytes n v) = v % 256 ^ n := by
  induction n with
  | zero => simp [beBytes, beNat, Nat.mod_one]
  | succ n ih =>
    have hpow : 256 ^ n = 2 ^ (8 * n) := Nat.pow_mul 2 8 n ▸ rfl
    rw [beBytes, beNat, List.foldl_cons, beNat_foldl, ih, length_beBytes, Nat.shiftRight_eq_div_pow, hpow, Nat.pow_succ, hpow, Nat.mod_mul,
      Nat.zero_mul, Nat.zero_add, Nat.mod_mod, Nat.mul_comm, Nat.add_comm]

theorem field_patch_same (b : List Nat) (off n v : Nat) (h : off + n ≤ b.length) :
    field (patch b off (beBytes n v)) off n = v % 256 ^ n := by
  rw [field, slice_patch_same _ _ _ _ (length_beBytes n v) h, beNat_beBytes]

theorem field_patch_other (b : List Nat) (off n v i m : Nat) (h : off + n ≤ b.length) (hi : i + m ≤ off ∨ off + n ≤ i) :
    field (patch b off (beBytes n v)) i m = field b i m := by
  have hlen : off + (beBytes n v).length ≤ b.length := by rw [length_beBytes]; exact h
  rw [field, field, slice_patch_other _ _ _ _ _ hlen (by rwa [length_beBytes])]

/-- What an occurrence writes in the counts (R446). -/
theorem counts_occur (s : State) (e p0 p1 p2 : Nat) : (s.occur e p0 p1 p2).blob 0x1200 2 =
    patch (s.blob 0x1200 2) (2 * e) (beBytes 2 (satInc 16 (field (s.blob 0x1200 2) (2 * e) 2))) := by
  rw [occ s e p0 p1 p2 2 (by decide)]
  simp

/-- What an occurrence writes in the last occurrences (R446). -/
theorem lastOcc_occur (s : State) (e p0 p1 p2 : Nat) : (s.occur e p0 p1 p2).blob 0x1200 7 =
    patch (s.blob 0x1200 7) (24 * e) (lastOccBytes s p0 p1 p2) := by
  rw [occ s e p0 p1 p2 7 (by decide)]
  simp [lastOccBytes]

theorem length_lastOccBytes (s : State) (p0 p1 p2 : Nat) : (lastOccBytes s p0 p1 p2).length = 24 := by simp [lastOccBytes, length_beBytes]

/-- Settles O12: an occurrence writes one bit, one count and one entry of the three event objects. -/
theorem anOccurrenceIsPendingCountedAndStamped : Obligations.AnOccurrenceIsPendingCountedAndStamped := by
  intro s e p0 p1 p2 he h1 h2 h7
  have hcount : (beBytes 2 (satInc 16 (field (s.blob 0x1200 2) (2 * e) 2))).length = 2 := length_beBytes ..
  have hlast := length_lastOccBytes s p0 p1 p2
  have hsat : satInc 16 (field (s.blob 0x1200 2) (2 * e) 2) = min 65535 (field (s.blob 0x1200 2) (2 * e) 2 + 1) := satInc_eq_min 16 _
  simp only [pending_occur, counts_occur, lastOcc_occur]
  refine ⟨blobBit_set _ _ (by omega), ?_, fun n hn hne => ?_, ?_, fun n hn hne => ?_, ?_, ?_, ?_⟩
  · rw [field_patch_same _ _ _ _ (by omega), hsat]
    omega
  · exact field_patch_other _ _ _ _ _ _ (by omega) (by omega)
  · exact slice_patch_same _ _ _ _ hlast (by omega)
  · exact slice_patch_other _ _ _ _ _ (by omega) (by omega)
  · rw [length_blobSetBit, h1]
  · rw [length_patch _ _ _ (by omega), h2]
  · rw [length_patch _ _ _ (by omega), h7]

/-! ### The checks of a write (R479) -/

theorem writeObj_of_rowOf_eq_none {k : Nat} (h : rowOf k = none) (w : Sender) (l : List Nat) (s : State) : writeObj w k l s = (0x10, s) := by
  simp [writeObj, h]

/-- A write of an object, by its access, its size and its kind. -/
theorem writeObj_of_rowOf_eq_some {k : Nat} {o : ObjRow} (h : rowOf k = some o) (w : Sender) (l : List Nat) (s : State) :
    writeObj w k l s = if o.kind = .ro then (0x12, s) else if w.writes o.right = false then (0x11, s)
      else if badSize (k / 256) (k % 256) o l = true then (0x13, s) else writeChecked w k o l s := by
  simp only [writeObj, accessStatus, h]
  by_cases hro : o.kind = .ro
  · simp [hro]
  · cases hw : w.writes o.right <;> simp [hro]

theorem stage_of_setRefusal_ne_zero {w : Sender} {s : State} (h : setRefusal w s ≠ 0) (k : Nat) (v : Val) :
    stage w k v s = (setRefusal w s, s) := by
  unfold stage
  split
  · rfl
  · exact if_pos h

/-- Settles O16: the checks of R479 in their order, the last of them by the kind of the object. -/
theorem aWriteIsCheckedInTheOrderOfTheManual : Obligations.AWriteIsCheckedInTheOrderOfTheManual := by
  intro w k l s
  refine ⟨fun h => writeObj_of_rowOf_eq_none h w l s, fun o ho => ?_⟩
  rw [writeObj_of_rowOf_eq_some ho]
  refine ⟨fun hro => by simp [hro], fun hro hw => by simp [hro, hw], fun hro hw hb => by simp [hro, hw, hb], fun hk hw hb hout => ?_,
    fun hk hw hb hset => ?_⟩
  · simp [hk, hw, hb, writeChecked, hout]
  · simp [hk, hw, hb, writeChecked, stage_of_setRefusal_ne_zero hset]

end Sys2Proof.Machine
end

section
/-!
SUPPORT. The frames: what each command moves (Laws/Moves*), in the parts and objects that its statement names.
-/
namespace Sys2Proof
open Sys2Proof.Machine Own

/-- Settles O51: the frame of each command of power-up, supplies, images and the island. -/
theorem startupFrames : Obligations.StartupFrames := by
  intro s t
  exact ⟨fun _ _ => (moves_romChecksComplete (by decide) (by decide)).moves,
    fun _ _ => (moves_pufDerivation (by decide) (by decide)).moves,
    fun _ _ _ _ _ => (moves_loaderBlock (by decide) (by decide) (by decide)).moves,
    fun _ _ => (moves_loaderStatusOp (by decide)).moves,
    fun _ _ => (moves_loaderAbort (by decide) (by decide) (by decide)).moves,
    fun _ _ _ => (moves_bootLoad (by decide) (by decide)).moves,
    (moves_loaderStatus (by decide) (by decide)).moves,
    (moves_loaderIdleTimeout (by decide) (by decide)).moves,
    (moves_imageVerify (by decide) (by decide)).moves,
    (moves_fwStart (by decide) (by decide)).moves,
    fun _ => (moves_bringUp (by decide) (by decide)).moves,
    fun _ _ => (moves_bringUpComplete (by decide) (by decide) (by decide) (by decide) (by decide) (by decide) (by decide) (by decide)
      (by decide)).moves,
    fun _ => (moves_islandWatchdog (by decide) (by decide) (by decide)).moves,
    fun _ _ => (moves_imagePartWrite (by decide) (by decide)).moves,
    (moves_imageVerifyCommand (by decide) (by decide)).moves,
    (moves_imageSwitch (by decide)).moves,
    (moves_imageDiscard (by decide) (by decide)).moves,
    fun _ _ _ => (moves_tempHigh (by decide) (by decide)).moves,
    fun _ _ _ => (moves_tempCritical (by decide) (by decide) (by decide) (by decide) (by decide) (by decide) (by decide) (by decide)
      (by decide) (by decide) (by decide) (by decide)).moves,
    fun _ _ _ => (moves_railWarning (by decide) (by decide)).moves,
    fun _ _ _ => (moves_railFault (by decide) (by decide) (by decide) (by decide) (by decide) (by decide) (by decide) (by decide)
      (by decide) (by decide) (by decide) (by decide)).moves,
    (moves_vddRidgeLoss (by decide) (by decide) (by decide) (by decide) (by decide) (by decide) (by decide)).moves,
    (moves_ridgeFault (by decide) (by decide) (by decide) (by decide) (by decide) (by decide) (by decide)).moves,
    fun _ _ => (moves_sensorUpdate (by decide) (by decide) (by decide) (by decide)).moves⟩

/-- Settles O52: the frame of each command of sides, takeover and health. -/
theorem sidesFrames : Obligations.SidesFrames := by
  intro s t
  exact ⟨fun _ _ _ => (moves_trussLinkFrame (by decide) (by decide) (by decide) (by decide) (by decide) (by decide) (by decide) (by decide)
      (by decide) (by decide) (by decide)).moves,
    fun _ _ _ _ => (moves_heartbeat (by decide) (by decide) (by decide) (by decide) (by decide) (by decide) (by decide) (by decide)
      (by decide) (by decide) (by decide)).moves,
    fun _ _ => (moves_heartbeatMissing (by decide) (by decide) (by decide) (by decide) (by decide) (by decide) (by decide) (by decide)
      (by decide) (by decide) (by decide)).moves,
    fun _ _ => (moves_signatureCompare (by decide)).moves,
    fun _ _ => (moves_mismatchResolution (by decide) (by decide) (by decide) (by decide) (by decide) (by decide) (by decide) (by decide)
      (by decide) (by decide) (by decide)).moves,
    fun _ => (moves_mirrorFrame (by decide) (by decide) (by decide) (by decide) (by decide) (by decide) (by decide) (by decide) (by decide)
      (by decide) (by decide)).moves,
    fun _ => (moves_sideJoined (by decide) (by decide) (by decide) (by decide) (by decide) (by decide) (by decide)).moves,
    fun _ => (moves_reinitAttemptFailed (by decide) (by decide)).moves,
    fun _ => (moves_reinitRetry (by decide) (by decide) (by decide) (by decide) (by decide) (by decide)).moves,
    (moves_handover (by decide) (by decide) (by decide) (by decide) (by decide) (by decide) (by decide) (by decide)).moves,
    (moves_handoverExecute (by decide) (by decide) (by decide) (by decide) (by decide) (by decide) (by decide) (by decide)).moves,
    fun _ => (moves_restore (by decide) (by decide) (by decide) (by decide) (by decide) (by decide) (by decide) (by decide)).moves,
    fun _ => (moves_powerDown (by decide) (by decide) (by decide) (by decide) (by decide) (by decide) (by decide) (by decide)).moves,
    fun _ => (moves_powerUp (by decide) (by decide) (by decide) (by decide) (by decide) (by decide) (by decide) (by decide)).moves,
    fun _ => (moves_doutRequest (by decide)).moves,
    (moves_kerfWindowClose (by decide)).moves,
    fun _ _ _ _ => (moves_laneTest (by decide) (by decide) (by decide) (by decide) (by decide) (by decide) (by decide) (by decide)
      (by decide) (by decide) (by decide)).moves,
    fun _ _ _ _ => (moves_eccError (by decide) (by decide) (by decide) (by decide) (by decide) (by decide) (by decide) (by decide)
      (by decide) (by decide) (by decide) (by decide)).moves,
    fun _ _ => (moves_pllFreqCheck (by decide) (by decide) (by decide) (by decide) (by decide) (by decide) (by decide) (by decide)
      (by decide) (by decide) (by decide)).moves,
    fun _ => (moves_badHoldExpiry (by decide) (by decide)).moves⟩

/-- Settles O53: the frame of each command of measurement, arcs and chords. -/
theorem measurementFrames : Obligations.MeasurementFrames := by
  intro s t
  exact ⟨fun _ => (moves_syncInEdge (by decide) (by decide)).moves,
    fun _ => (moves_syncCommand (by decide) (by decide)).moves,
    (moves_syncOutPulse (by decide) (by decide)).moves,
    fun _ => (moves_decimAlignment (by decide) (by decide)).moves,
    fun _ _ => (moves_decimationBoundary (by decide) (by decide) (by decide) (by decide)).moves,
    fun _ _ => (moves_stuckBits (by decide) (by decide) (by decide) (by decide)).moves,
    fun _ => (moves_modClockMissing (by decide) (by decide) (by decide) (by decide)).moves,
    fun _ => (moves_feedbackDisagreement (by decide) (by decide) (by decide) (by decide) (by decide) (by decide) (by decide) (by decide)
      (by decide) (by decide) (by decide)).moves,
    fun _ => (moves_modelTimeExpiry (by decide) (by decide) (by decide)).moves,
    fun _ => (moves_samplingClockStart (by decide)).moves,
    fun _ => (moves_feedbackRecovery (by decide) (by decide) (by decide) (by decide)).moves,
    fun _ _ => (moves_settlingCleared (by decide)).moves,
    fun _ => (moves_bankSwapRequest (by decide) (by decide)).moves,
    fun _ _ => (moves_arcRefTriple (by decide) (by decide) (by decide)).moves,
    fun _ _ => (moves_arcRefApply (by decide) (by decide)).moves,
    fun _ => (moves_arcRefStale (by decide) (by decide)).moves,
    fun _ _ => (moves_comparatorFire (by decide) (by decide) (by decide)).moves,
    fun _ _ => (moves_blankWindowOpen (by decide)).moves,
    fun _ => (moves_blankWindowClose (by decide)).moves,
    fun _ _ _ _ => (moves_samplingEdge (by decide) (by decide)).moves⟩

/-- Settles O54: the frame of each command of graphs, results and grid forming. -/
theorem graphAndGridFormingFrames : Obligations.GraphAndGridFormingFrames := by
  intro s t
  exact ⟨fun _ => (moves_fastTick (by decide) (by decide) (by decide)).moves,
    fun _ _ _ => (moves_laneWake (by decide)).moves,
    fun _ _ => (moves_entryExecution (by decide) (by decide) (by decide)).moves,
    fun _ => (moves_compareWriter (by decide) (by decide) (by decide) (by decide) (by decide) (by decide) (by decide) (by decide)
      (by decide) (by decide) (by decide)).moves,
    fun _ => (moves_graphSwitchRequest (by decide) (by decide)).moves,
    (moves_graphSwitch (by decide) (by decide)).moves,
    fun _ _ _ => (moves_resultRead (by decide) (by decide) (by decide)).moves,
    fun _ _ _ => (moves_resultFifoRead (by decide) (by decide) (by decide)).moves,
    fun _ _ => (moves_presetNow (by decide)).moves,
    fun _ _ => (moves_modeForceManual (by decide)).moves,
    fun _ _ => (moves_modeForceAutomatic (by decide)).moves,
    fun _ _ => (moves_modeRelease (by decide)).moves,
    fun _ => (moves_paramSwapRequest (by decide) (by decide)).moves,
    (moves_gfMainTick (by decide) (by decide) (by decide) (by decide) (by decide) (by decide) (by decide) (by decide) (by decide)
      (by decide)).moves,
    (moves_gfIdleEvaluation (by decide) (by decide) (by decide) (by decide) (by decide) (by decide) (by decide) (by decide) (by decide)
      (by decide)).moves,
    fun _ => (moves_blackStart (by decide)).moves,
    (moves_join (by decide)).moves,
    (moves_resync (by decide)).moves,
    (moves_abortResync (by decide)).moves,
    (moves_stop (by decide)).moves,
    (moves_acknowledge (by decide)).moves,
    (moves_cancelStart (by decide)).moves,
    (moves_coherentStart (by decide) (by decide) (by decide) (by decide) (by decide) (by decide) (by decide) (by decide)).moves,
    (moves_rideExit (by decide)).moves,
    (moves_limitEntry (by decide)).moves,
    (moves_rideTimeout (by decide)).moves,
    (moves_blackStartTimeout (by decide)).moves,
    (moves_resyncTimeout (by decide)).moves,
    fun _ => (moves_breakerDinChange (by decide) (by decide) (by decide)).moves,
    (moves_breakerFail (by decide) (by decide)).moves⟩

/-- Settles O55: the frame of each command of the sills and the plate. -/
theorem plateFrames : Obligations.PlateFrames := by
  intro s t
  exact ⟨fun _ _ => (moves_carrierVertex (by decide) (by decide) (by decide) (by decide) (by decide) (by decide) (by decide) (by decide)
      (by decide)).moves,
    fun _ _ => (moves_gateCommandEdge (by decide) (by decide)).moves,
    fun _ _ => (moves_deadTimeExpiry (by decide) (by decide)).moves,
    fun _ => (moves_carrierStart (by decide) (by decide)).moves,
    fun _ _ => (moves_carrierGroupStart (by decide) (by decide) (by decide) (by decide) (by decide) (by decide) (by decide) (by decide)
      (by decide)).moves,
    fun _ => (moves_carrierStop (by decide) (by decide)).moves,
    fun _ => (moves_updateCommit (by decide)).moves,
    fun _ _ _ => (moves_shadowWrite (by decide) (by decide)).moves,
    (moves_shadowApply (by decide) (by decide)).moves,
    fun _ _ => (moves_faultInTrip (by decide) (by decide)).moves,
    (moves_releaseFaultIn (by decide) (by decide)).moves,
    (moves_releaseChordTrip (by decide) (by decide)).moves,
    fun _ _ => (moves_disableMaskWrite (by decide) (by decide)).moves,
    (moves_commissionEnter (by decide)).moves,
    (moves_commissionLeave (by decide) (by decide)).moves,
    fun _ => (moves_overrideMapWrite (by decide) (by decide)).moves,
    fun _ => (moves_debugHalt (by decide)).moves,
    (moves_debugResume (by decide) (by decide) (by decide)).moves,
    fun _ => (moves_plateMinOnExpiry (by decide)).moves⟩

/-- Settles O56: the frame of each command of stacks. -/
theorem stacksFrames : Obligations.StacksFrames := by
  intro s t
  exact ⟨fun _ _ => (moves_stackTransaction (by decide) (by decide) (by decide)).moves,
    fun _ => (moves_stretchTimeout (by decide) (by decide) (by decide)).moves,
    fun _ => (moves_pollTimeout (by decide) (by decide) (by decide)).moves,
    fun _ _ _ _ => (moves_stackReadDone (by decide) (by decide) (by decide) (by decide)).moves,
    fun _ _ => (moves_flush (by decide) (by decide) (by decide)).moves,
    fun _ _ => (moves_rescan (by decide) (by decide) (by decide)).moves,
    fun _ => (moves_initRecord (by decide) (by decide) (by decide)).moves,
    fun _ _ => (moves_bringIn (by decide) (by decide)).moves,
    fun _ => (moves_cancelBringIn (by decide) (by decide)).moves,
    fun _ => (moves_lifeWriteInterval (by decide) (by decide) (by decide)).moves,
    fun _ => (moves_lifeWritten (by decide) (by decide) (by decide) (by decide) (by decide)).moves,
    (moves_rainflowPosting (by decide) (by decide) (by decide)).moves,
    fun _ => (moves_stackHours (by decide) (by decide)).moves,
    (moves_wearEvaluation (by decide) (by decide) (by decide)).moves,
    fun _ => (moves_spareCrossingCheck (by decide) (by decide) (by decide) (by decide)).moves,
    fun _ => (moves_spareSwapTimeout (by decide) (by decide)).moves⟩

/-- Settles O57: the frame of each command of safety and sharing. -/
theorem safetyAndSharingFrames : Obligations.SafetyAndSharingFrames := by
  intro s t
  exact ⟨(moves_safetyChannelFault (by decide) (by decide) (by decide) (by decide) (by decide) (by decide) (by decide)).moves,
    fun _ _ _ _ => (moves_sealReadingAccepted (by decide) (by decide) (by decide) (by decide)).moves,
    fun _ _ _ _ => (moves_sinFilterExpiry (by decide) (by decide) (by decide)).moves,
    fun _ => (moves_sinDiscrepancy (by decide) (by decide)).moves,
    fun _ => (moves_soutRequestWrite (by decide) (by decide)).moves,
    fun _ => (moves_soutTestPulse (by decide) (by decide)).moves,
    fun _ _ _ => (moves_soutTestEnd (by decide) (by decide) (by decide)).moves,
    fun _ _ _ => (moves_soutStuckOn (by decide) (by decide) (by decide)).moves,
    fun _ => (moves_safetyReset (by decide) (by decide)).moves,
    (moves_resetStuck (by decide) (by decide)).moves,
    (moves_resetDiscrepancy (by decide) (by decide)).moves,
    (moves_resetBlockEnd (by decide) (by decide)).moves,
    fun _ _ _ _ _ _ _ _ => (moves_arbiterRequest (by decide) (by decide) (by decide) (by decide)).moves,
    fun _ _ _ _ => (moves_semaphoreRequest (by decide) (by decide) (by decide) (by decide)).moves,
    fun _ _ _ => (moves_semaphoreRelease (by decide) (by decide)).moves,
    fun _ => (moves_semaphoreLeaseExpired (by decide) (by decide) (by decide)).moves⟩

/-- Settles O58: the frame of each command of time, PTP and clocks. -/
theorem timeAndClocksFrames : Obligations.TimeAndClocksFrames := by
  intro s t
  exact ⟨fun _ => (moves_incrementWrite (by decide)).moves,
    fun _ => (moves_timeSet (by decide) (by decide)).moves,
    fun _ => (moves_timeAdjust (by decide) (by decide)).moves,
    (moves_timeStep (by decide) (by decide) (by decide) (by decide) (by decide) (by decide) (by decide) (by decide) (by decide) (by decide)
      (by decide) (by decide) (by decide) (by decide)).moves,
    fun _ _ _ _ _ _ _ => (moves_ptpSyncReceived (by decide) (by decide) (by decide)).moves,
    fun _ _ => (moves_pathDelayMeasurement (by decide) (by decide) (by decide)).moves,
    fun _ _ => (moves_pathConfirm (by decide) (by decide)).moves,
    fun _ _ _ _ _ _ _ _ _ _ _ => (moves_ptpAnnounceReceived (by decide) (by decide)).moves,
    fun _ => (moves_announceTimeout (by decide) (by decide) (by decide)).moves,
    (moves_holdoverValidExpiry (by decide) (by decide)).moves,
    fun _ => (moves_ppsInEdge (by decide) (by decide)).moves,
    (moves_ppsInTimeout (by decide) (by decide)).moves,
    fun _ => (moves_ptpSyncSend (by decide) (by decide) (by decide)).moves,
    (moves_ppsOutPulse (by decide) (by decide)).moves,
    (moves_leapSecond (by decide) (by decide)).moves,
    fun _ _ _ => (moves_refFault (by decide) (by decide) (by decide) (by decide) (by decide) (by decide) (by decide) (by decide)).moves,
    fun _ => (moves_refSwitchCommand (by decide) (by decide)).moves,
    fun _ => (moves_refDisagree (by decide)).moves,
    fun _ => (moves_pllStart (by decide) (by decide)).moves,
    fun _ => (moves_pllLock (by decide) (by decide) (by decide)).moves,
    fun _ => (moves_pllRetryBand (by decide) (by decide)).moves,
    fun _ => (moves_pllSweep (by decide) (by decide) (by decide)).moves,
    fun _ _ => (moves_pllSweepDone (by decide) (by decide) (by decide) (by decide) (by decide) (by decide) (by decide) (by decide)
      (by decide) (by decide) (by decide) (by decide)).moves,
    fun _ _ => (moves_pllLockLost (by decide) (by decide) (by decide) (by decide) (by decide) (by decide) (by decide) (by decide)
      (by decide) (by decide) (by decide) (by decide)).moves,
    fun _ => (moves_clkoutStart (by decide) (by decide)).moves,
    fun _ => (moves_clkoutStop (by decide) (by decide)).moves,
    fun _ => (moves_clkoutGateOpen (by decide) (by decide)).moves,
    fun _ => (moves_clkoutGateClose (by decide) (by decide)).moves,
    fun _ => (moves_trussClockSwitch (by decide) (by decide)).moves,
    fun _ => (moves_switchDeferred (by decide) (by decide)).moves,
    fun _ => (moves_ptpDelayRequestSend (by decide) (by decide) (by decide)).moves,
    fun _ => (moves_ptpAnnounceSend (by decide) (by decide) (by decide)).moves⟩

/-- Settles O59: the frame of each command of capture, scribe and counters. -/
theorem captureAndScribeFrames : Obligations.CaptureAndScribeFrames := by
  intro s t
  exact ⟨fun _ _ => (moves_arm (by decide)).moves,
    fun _ => (moves_disarm (by decide)).moves,
    fun _ => moves_trigger.moves,
    fun _ => (moves_release (by decide)).moves,
    fun _ _ _ _ => (moves_captureRow (by decide) (by decide)).moves,
    fun _ => (moves_streamBacklogHalving (by decide)).moves,
    fun _ => (moves_captureStreamSend (by decide) (by decide) (by decide)).moves,
    fun _ _ => (moves_segmentHoldExpiry (by decide)).moves,
    fun _ _ => (moves_segmentSelect (by decide)).moves,
    fun _ => (moves_segmentRowsRead (by decide) (by decide) (by decide)).moves,
    fun _ => (moves_hoursSeed (by decide)).moves,
    fun _ => (moves_powerCycleSeed (by decide)).moves,
    (moves_operatingHoursTick (by decide) (by decide)).moves,
    fun _ => (moves_histogramSample (by decide) (by decide)).moves,
    fun _ => (moves_histogramClear (by decide)).moves,
    fun _ => (moves_scribeNote (by decide)).moves,
    fun _ => (moves_scribeTokenRefill (by decide)).moves,
    fun _ => (moves_scribeRecordsRead (by decide) (by decide)).moves,
    fun _ => (moves_compatRecordsRead (by decide) (by decide)).moves,
    fun _ => (moves_startCounters (by decide)).moves,
    fun _ => (moves_stopCounters (by decide)).moves,
    fun _ => (moves_clearCounters (by decide)).moves,
    fun _ _ => (moves_counterWrite (by decide)).moves,
    fun _ _ => (moves_counterReadLatch (by decide) (by decide)).moves,
    fun _ _ => moves_counterOverflow.moves,
    fun _ _ _ => (moves_tagRecord (by decide) (by decide)).moves,
    fun _ _ => (moves_tagRecordsRead (by decide) (by decide)).moves⟩

/-- Settles O60: the frame of each command of messages, sets, objects and frames. -/
theorem communicationFrames : Obligations.CommunicationFrames := by
  intro s t
  exact ⟨fun _ _ => (moves_arpRequest (by decide) (by decide)).moves,
    fun _ _ => (moves_icmpEcho (by decide) (by decide)).moves,
    (moves_supervisionFrameSend (by decide) (by decide)).moves,
    fun _ => (moves_lanFault (by decide)).moves,
    fun _ => (moves_ringFault (by decide) (by decide)).moves,
    fun _ _ => (moves_portLinkChange (by decide)).moves,
    fun _ => (moves_identify (by decide) (by decide) (by decide)).moves,
    fun _ => (moves_keyLoad (by decide) (by decide) (by decide)).moves,
    fun _ => (moves_openSession (by decide) (by decide) (by decide) (by decide) (by decide)).moves,
    fun _ => (moves_closeSession (by decide) (by decide) (by decide) (by decide)).moves,
    fun _ => (moves_readObjects (by decide) (by decide) (by decide) (by decide) (by decide)).moves,
    fun _ => (moves_keepalive (by decide) (by decide) (by decide) (by decide)).moves,
    fun _ => (moves_sourceBlockEnd (by decide)).moves,
    fun _ => (moves_sessionIdleTimeout (by decide) (by decide)).moves,
    (moves_bootFetch (by decide) (by decide)).moves,
    (moves_bootStatus (by decide)).moves,
    fun _ _ => (moves_beginSet (by decide) (by decide)).moves,
    fun _ => (moves_commitSet (by decide) (by decide)).moves,
    fun _ => (moves_abortSet (by decide) (by decide)).moves,
    (moves_setIdleTimeout (by decide)).moves,
    fun _ _ _ => (moves_configObjectWrite (by decide) (by decide)).moves,
    fun _ _ => (moves_segmentedWriteTimeout (by decide)).moves,
    fun _ _ => (moves_snapshotTimeout (by decide)).moves,
    fun _ => (moves_pendingClear (by decide)).moves,
    fun _ => (moves_countClear (by decide)).moves,
    fun _ => (moves_notifyHoldoffExpiry (by decide) (by decide)).moves⟩

end Sys2Proof
end

section
/-!
SUPPORT. Start-up and management (chapter 17): what the commands from power good to a running image leave, what an accepted RESTART and an
accepted SWITCH find when time has run to them, and the counterexamples to three statements: a grant of a semaphore that falls due with the
command is sent before its answer (O20, O27), and sensor 24 takes no value from its command (O22).
-/
namespace Sys2Proof
open Sys2Proof.Machine

/-- A command whose meaning is `run` gives what its effect leaves, once the command has ended. -/
theorem gives_of_run {c : Instr} {f : State → State} {s b : State} {P : State → State → Prop} (hb : s.arrive c.time = b)
    (hexec : exec c s = run c f s) (hwf : c.wf = true) (hP : P b ((f b).ended s.pending)) : Gives c s P :=
  ⟨_, hexec.trans (run_wf s f hwf), hb ▸ hP⟩

/-- The stage is read from its own field of DeviceStatus. -/
theorem stage_setFld (s : State) {hi lo : Nat} (v : Nat) (hl : lo ≤ hi) (hd : hi < 28) : (s.setFld 0xB000 1 hi lo v).stage = s.stage :=
  fld_setFld_apart s 0xB000 1 hi lo 31 28 v hl (by decide) (.inr hd)

/-- The widths of the records of the identity and of start-up. -/
theorem sizeOf_startup :
    sizeOf 0x1000 1 = 8 ∧ sizeOf 0x1000 2 = 4 ∧ sizeOf 0x1000 5 = 1 ∧ sizeOf 0x1010 2 = 4 ∧ sizeOf 0xB000 1 = 4 ∧ sizeOf 0xB000 3 = 2 ∧
      sizeOf 0xB000 5 = 1 ∧ sizeOf 0xB000 6 = 2 ∧ sizeOf 0xB000 7 = 1 ∧ sizeOf 0xB010 3 = 2 ∧ sizeOf 0xB200 9 = 4 ∧ sizeOf 0xB200 0xA = 4 := by
  decide

/-- Settles O19: each command's effect is read word by word; IMAGE_VERIFY splits on the result of the check (R460). -/
theorem powerUpCompletes : Obligations.PowerUpCompletes := by
  intro s t b
  have hb : s.arrive t = b := rfl
  clear_value b
  refine ⟨fun m hm => ?_, fun straps m hstraps hm hstage => ?_, fun k hk1 hk hstage => ?_, fun k1 k2 hne hstage htries => ?_,
    fun hstage => ?_, fun hstage => ?_⟩
  · refine gives_of_run hb (execPowerGood.eq_def ..) (decide_eq_true hm) ?_
    have hreset : State.reset.stage = 0 ∧ State.reset.gfState = 0 := by decide
    simp [powerState, evKey, sizeOf_startup, stage_setFld, hreset]
    simp [State.reset, Net.init]
  · refine gives_of_run hb (execRomChecksComplete.eq_def ..) (by simp [Instr.wf, hstraps, hm]) ?_
    simp [hstage, evKey, sizeOf_startup, stage_setStage, readRails]
    omega
  · refine gives_of_run hb (execPufDerivation.eq_def ..) rfl ?_
    simp [hstage, hk1, hk, evKey, sizeOf_startup, stage_setStage, formIdentity]
  · refine gives_of_run hb (execPufDerivation.eq_def ..) rfl ?_
    simp [hstage, hne, htries, evKey, sizeOf_startup, stage_setStage, stage_setFld, haltDevice]
  · refine gives_of_run hb (execImageVerify.eq_def ..) rfl ?_
    by_cases hr : checkImage b.boot.image = 1
    · simp [hstage, hr, evKey, sizeOf_startup, stage_setStage]
    · simp [hstage, hr, evKey, sizeOf_startup, stage_setStage, stage_setFld, endLoad]
  · refine gives_of_run hb (execFwStart.eq_def ..) rfl ?_
    simp [hstage, evKey, sizeOf_startup, stage_setStage]

/-! ### A grant that falls due with a command (O20, O27) -/

/-- A request of C3 for semaphore 0, of ridge clock 0, waits: the semaphore is granted once that clock has passed (R334). -/
def withSemRequest (s : State) : State := { s with sharing := { s.sharing with sems := [(0, ⟨none, 0, [(3, 0, 0)]⟩)] } }

/-- The firmware serves its host (R453). -/
def served : State := { setStage 6 State.reset with boot := { Boot.init with serving := true } }

/-- The outputs of a step that answers a next state. -/
def outputs : Host.Outcome State Fault Refusal → List Out
  | .next s => s.out
  | _ => []

/-- Refutes O20: LOADER_STATUS sends the response, but the grant of a semaphore that falls due by its instant is sent before it (R334). -/
theorem not_loaderCompletes : ¬ Obligations.LoaderCompletes := by
  intro h
  obtain ⟨-, -, -, -, -, -, hstatus, -⟩ := h (withSemRequest (setStage 2 State.reset)) 80000000
  obtain ⟨s', hexec, hout, -⟩ := hstatus (by decide +kernel)
  have hsent : outputs (exec (.loaderStatus 80000000) (withSemRequest (setStage 2 State.reset))) = [⟨19, 0, [3, 0, 0]⟩, ⟨6, 0, []⟩] := by
    decide +kernel
  rw [hexec, outputs, hout] at hsent
  simp at hsent

/-- Refutes O27: RESULT_READ answers its reader, but the grant of a semaphore that falls due by its instant is sent before it (R334). -/
theorem not_resultCompletes : ¬ Obligations.ResultCompletes := by
  intro h
  obtain ⟨hread, -⟩ := h (withSemRequest served) 80000000
  obtain ⟨s', hexec, hout, -⟩ := hread 17 511 3 (by decide) (by decide) (by decide) (by decide) (by decide +kernel) (by decide +kernel)
  have hsent : (outputs (exec (.resultRead 80000000 17 511 3) (withSemRequest served))).length = 2 := by decide +kernel
  rw [hexec, outputs, hout] at hsent
  simp at hsent

/-- Sensors as a step leaves them. -/
def sensors : Host.Outcome State Fault Refusal → List Nat
  | .next s => s.blob 0xB010 1
  | _ => []

/-- Refutes O22: sensor 24 is listed, but SENSOR_UPDATE writes it as RefDiff in ppm, whatever the value (R471). -/
theorem not_supplyCompletes : ¬ Obligations.SupplyCompletes := by
  intro h
  obtain ⟨-, -, -, -, -, -, -, -, -, -, -, hsensor, -⟩ := h served 0
  obtain ⟨s', hexec, hblob⟩ := hsensor 24 1 (by decide) (by omega) (by decide +kernel) (by decide) (.inr (.inl (by decide)))
  have hwritten : sensors (exec (.sensorUpdate 0 24 1) served) ≠ patch ((served.arrive 0).blob 0xB010 1) (4 * 24) (beBytes 4 1) := by
    decide +kernel
  rw [hexec] at hwritten
  exact hwritten hblob

/-! ### Restarts and the firmware slots (O21) -/

/-- The parts that time moves before a SWITCH acts. -/
def earlyParts : List Part := [.time, .meas, .graphs, .gf, .plate, .stacks, .sides, .safety, .sharing, .clock, .plls, .scribe, .out]

/-- The objects that time writes before a SWITCH acts. -/
def earlyObjs : List Objs := arriveObjs.filter fun o => !(o.lo == 0x1000 || o.lo == 0xB000 || o.lo == 0xB200)

/-- Time up to an instant: what leaves the boot and network parts alone, and last a SWITCH that falls due (R473). -/
theorem passed_before_slot (s : State) (t : Nat) : ∃ u, s.passed t = noteSout (dueSlot u) ∧ Own earlyParts earlyObjs s u := by
  refine ⟨_, rfl, ?_⟩
  have c : Cov earlyObjs earlyObjs := by decide
  unfold dueSills
  repeat' first
    | with_reducible apply Own.noteSout | with_reducible apply Own.dueFrozen | with_reducible apply Own.clkDue
    | with_reducible apply Own.dueTruss | with_reducible apply Own.dueTags | with_reducible apply Own.dueRefs
    | with_reducible apply Own.dueLink | with_reducible apply Own.dueSems | with_reducible apply Own.dueSlots
    | with_reducible apply Own.judgeAlign | with_reducible apply Own.sweepSwaps | with_reducible apply Own.dueTorn
    | with_reducible apply Own.dueCommits | with_reducible apply Own.dueClears | with_reducible apply Own.dueCounters
    | with_reducible apply Own.passTime | decide | with_reducible exact Own.same _
    | with_reducible refine Own.branch (fun _ => ?_) (fun _ => ?_)

/-- BRING_UP with its bays: what powers the bays of a side leaves everything but their register. -/
theorem setSideBays_other (x : Side) (m : Nat) (s : State) :
    (setSideBays x m s).boot = s.boot ∧ (setSideBays x m s).num 0xB000 3 = s.num 0xB000 3 := by
  cases x <;> simp [setSideBays]

theorem restartReason_of_stopped {c : Nat} {b : State} (h : (b.stage = 8 ∧ b.stopped = true) ∨ b.stage = 15) :
    restartReason c b = if c = 0x782 then 0 else 5 := by
  rcases h with ⟨h8, hs⟩ | h15
  · simp [restartReason, h8, hs]
  · simp [restartReason, h15]

theorem boot_powerState (cause : Nat) (railsA railsB : Bool) (s : State) :
    (powerState cause railsA railsB s).boot = { Boot.init with powerAt := s.now, railsA := railsA, railsB := railsB } := by
  simp [powerState]

theorem net_powerState (cause : Nat) (railsA railsB : Bool) (s : State) : (powerState cause railsA railsB s).net = Net.init := by
  simp [powerState, State.reset]

theorem words_powerState {cause : Nat} (railsA railsB : Bool) (s : State) (h : cause < 16) :
    (powerState cause railsA railsB s).stage = 0 ∧ (powerState cause railsA railsB s).fld 0xB000 1 23 20 = cause ∧
      (powerState cause railsA railsB s).gfState = 0 := by
  have hreset : State.reset.stage = 0 ∧ State.reset.gfState = 0 := by decide
  simp [powerState, sizeOf_startup, stage_setFld, hreset, Nat.mod_eq_of_lt h]

/-- R474: at the instant of an accepted RESTART the device is as at power good, and time runs on from there. -/
theorem arrive_restarted {s : State} {t r : Nat} (hr : s.boot.restartAt = some r) (hdue : r ≤ t) :
    s.arrive t = (powerState 2 true true (({ s with out := [] } : State).passed r)).passed t := by
  simp [State.arrive, hr, hdue]

/-- Without a SWITCH accepted, time leaves the boot and network parts and their words alone. -/
theorem passed_no_switch {s : State} (h : s.boot.switchAt = none) (t : Nat) : Own earlyParts earlyObjs s (s.passed t) := by
  obtain ⟨u, hu, hown⟩ := passed_before_slot s t
  have hboot : u.boot = s.boot := hown.boot (by decide)
  have hslot : dueSlot u = u := by simp [dueSlot, hboot, h]
  rw [hu, hslot]
  exact Own.noteSout (by decide) hown

/-- R473: the island restarts on the other slot, and the versions change places. -/
theorem takeSlot_leaves (v : State) :
    (takeSlot v).boot.switchAt = v.boot.switchAt ∧ (takeSlot v).boot.active = 1 - v.boot.active ∧ (takeSlot v).boot.islandDown = true ∧
      (takeSlot v).net.openSet = none ∧ (takeSlot v).num 0x1000 2 = v.num 0xB200 0xA % 2 ^ 32 ∧
      (takeSlot v).num 0xB200 0xA = v.num 0x1000 2 % 2 ^ 32 ∧ (takeSlot v).fld 0xB200 9 27 24 = 2 ∧
      (takeSlot v).num 0xB000 6 = satInc 16 (v.num 0xB000 6) % 2 ^ 16 := by
  cases hset : v.net.openSet <;> simp [takeSlot, islandRestart, abortOpenSet, hset, evKey, sizeOf_startup, State.incSat]

/-- What the levels of SOUT are noted in is not read here. -/
theorem noteSout_reads (s : State) :
    (noteSout s).boot = s.boot ∧ (noteSout s).net = s.net ∧ (noteSout s).ridge = s.ridge ∧
      (∀ i j, (noteSout s).num i j = s.num i j) ∧ ∀ i j hi lo, (noteSout s).fld i j hi lo = s.fld i j hi lo :=
  ⟨rfl, rfl, rfl, fun _ _ => rfl, fun _ _ _ _ => rfl⟩

theorem atRidge_reads (r : Nat) (f : State → State) (s : State) :
    (atRidge r f s).boot = (f { s with ridge := r }).boot ∧ (atRidge r f s).net = (f { s with ridge := r }).net ∧
      (atRidge r f s).ridge = s.ridge ∧ (∀ i j, (atRidge r f s).num i j = (f { s with ridge := r }).num i j) ∧
      ∀ i j hi lo, (atRidge r f s).fld i j hi lo = (f { s with ridge := r }).fld i j hi lo :=
  ⟨rfl, rfl, rfl, fun _ _ => rfl, fun _ _ _ _ => rfl⟩

/-- A SWITCH that is due has acted (R473), at the ridge time of its instant. -/
theorem dueSlot_of_due {u : State} {q : Nat} (hq : u.boot.switchAt = some q) (hdue : q ≤ u.ridge) :
    dueSlot u = atRidge q takeSlot { u with boot := { u.boot with switchAt := none } } := by
  simp [dueSlot, hq, hdue]

theorem dueSlot_ridge (u : State) : (dueSlot u).ridge = u.ridge := by
  unfold dueSlot
  split
  · split <;> rfl
  · rfl

/-- What power good leaves stands until a command moves it. -/
theorem atPower_words {u v : State} (hown : Own earlyParts earlyObjs (powerState 2 true true u) v) :
    v.stage = 0 ∧ v.fld 0xB000 1 23 20 = 2 ∧ v.gfState = 0 ∧ v.net.sessions = [] ∧ v.net.openSet = none ∧ v.boot.serving = false := by
  have hstage := hown.numKept 0xB000 1 rfl rfl
  have hgf := hown.numKept 0x4001 3 rfl rfl
  have hnet := hown.net (by decide)
  have hboot := hown.boot (by decide)
  rw [net_powerState] at hnet
  rw [boot_powerState] at hboot
  obtain ⟨hstage0, hcause, hgf0⟩ := words_powerState true true u (cause := 2) (by decide)
  exact ⟨(stageWords_of hstage).1.trans hstage0, (fld_of_num hstage ..).trans hcause, (gfWords_of hgf).1.trans hgf0,
    (congrArg Net.sessions hnet :), (congrArg Net.openSet hnet :), congrArg Boot.serving hboot⟩

/-- Settles O21: BRING_UP, RESTART, the island and the slots word by word; what an accepted RESTART and an accepted SWITCH leave is read where
time has run to them. -/
theorem managementCompletes : Obligations.ManagementCompletes := by
  intro s t b
  have hb : s.arrive t = b := rfl
  clear_value b
  refine ⟨fun m hm hhost hstage hset => ?_,
    fun hhost hwhere hno => ?_,
    fun c hc hne hhost hwhere => ?_,
    fun c hc hhost hstage hrun => ?_,
    fun r hr hdue => ?_,
    fun internal hhost hset => ?_,
    fun hdown hqueue => ?_,
    fun part data hpart hdata hlen hhost => ?_,
    fun hhost hactive => ?_,
    fun hhost hok hno => ?_,
    fun hhost hrefused hlen => ?_,
    fun q hstand hq hdue => ?_,
    fun hhost hactive => ?_⟩
  · refine gives_of_run hb (execBringUp.eq_def ..) (decide_eq_true hm) ?_
    simp only [hhost, doBringUp, bringUpReason, hstage, hset, bootStatus]
    simp [evKey, sizeOf_startup, stage_setStage, readRails]
    repeat' split
    all_goals simp [setSideBays_other, sizeOf_startup]
  · refine gives_of_run hb (execRestart.eq_def ..) rfl ?_
    simp [hhost, hno, evKey, sizeOf_startup, doRestart, restartReason_of_stopped hwhere, bootStatus]
  · refine gives_of_run hb (execRestart.eq_def ..) (decide_eq_true hc) ?_
    simp [hhost, hne, evKey, sizeOf_startup, doRestart, restartReason_of_stopped hwhere, bootStatus]
  · refine gives_of_run hb (execRestart.eq_def ..) (decide_eq_true hc) ?_
    simp [hhost, hstage, hrun, evKey, sizeOf_startup, doRestart, restartReason, bootStatus]
  · rw [← hb, arrive_restarted hr hdue]
    exact atPower_words (passed_no_switch (by simp [boot_powerState, Boot.init]) t)
  · refine gives_of_run hb (execIslandWatchdog.eq_def ..) rfl ?_
    cases internal <;> simp [hhost, hset, evKey, sizeOf_startup, State.incSat, islandRestart, abortOpenSet]
  · refine gives_of_run hb (execIslandRestartDone.eq_def ..) rfl ?_
    simp [hdown, hqueue, evKey, sizeOf_startup]
  · refine gives_of_run hb (execImagePartWrite.eq_def ..) (by simp [Instr.wf, hpart, hdata]) ?_
    simp [hhost, hlen, evKey, sizeOf_startup, writePart]
  · refine gives_of_run hb (execImageVerifyCommand.eq_def ..) rfl ?_
    by_cases hr : checkImage ((List.range 7).flatMap (fun i => Store.get [] i b.boot.parts)) = 1
    · simp [hhost, hr, hactive, evKey, sizeOf_startup, verifySlot]
    · simp [hhost, hr, evKey, sizeOf_startup, verifySlot]
  · refine gives_of_run hb (execImageSwitch.eq_def ..) rfl ?_
    simp [hhost, hok, hno, switchSlot]
  · refine gives_of_run hb (execImageSwitch.eq_def ..) rfl ?_
    simp [hhost, hrefused, switchSlot, pending_raise_ended, hlen]
  · obtain ⟨u, hu, hown⟩ := passed_before_slot { s with out := [] } t
    have hbu : b = noteSout (dueSlot u) := by rw [← hb, ← hu, arrive_standing (by simp [Standing, hstand])]
    have hboot : u.boot = s.boot := hown.boot (by decide)
    have hridge : b.ridge = u.ridge := by rw [hbu, (noteSout_reads _).2.2.1, dueSlot_ridge]
    rw [dueSlot_of_due (hboot ▸ hq) (hridge ▸ hdue)] at hbu
    have hnew : u.num 0xB200 0xA = s.num 0xB200 0xA := hown.numKept 0xB200 0xA rfl rfl
    have hold : u.num 0x1000 2 = s.num 0x1000 2 := hown.numKept 0x1000 2 rfl rfl
    have hcount : u.num 0xB000 6 = s.num 0xB000 6 := hown.numKept 0xB000 6 rfl rfl
    rw [hbu]
    simp only [noteSout_reads, atRidge_reads, takeSlot_leaves, ← hnew, ← hold, ← hcount, ← hboot, num_mk, odNum_od, and_self]
  · refine gives_of_run hb (execImageDiscard.eq_def ..) rfl ?_
    simp [hhost, hactive, discardSlot, evKey, sizeOf_startup]

end Sys2Proof
end

section
/-!
SUPPORT. Sampling (chapter 2): the clock groups, the alignments, the receivers' bits and the chains, under what sets them and what does not.
-/
namespace Sys2Proof
open Sys2Proof.Machine

/-! ### The clock groups under what does not set them -/

theorem groups_ite (c : Prop) [Decidable c] (a b : State) :
    (if c then a else b).meas.groups = if c then a.meas.groups else b.meas.groups := by split <;> rfl

theorem groups_set (s : State) :
    (∀ c f, (s.setFeedback c f).meas.groups = s.meas.groups) ∧ ∀ x c v, (s.setChain x c v).meas.groups = s.meas.groups :=
  ⟨fun _ _ => rfl, fun _ _ _ => rfl⟩

theorem groups_markFault (c : Nat) (s : State) : (markFault c s).meas.groups = s.meas.groups := by
  unfold markFault
  exact foldl_keep (fun s => s.meas.groups) _ _ (fun u x _ => by split <;> rfl) s

theorem groups_holdValue (c : Nat) (s : State) : (holdValue c s).meas.groups = s.meas.groups :=
  foldl_keep (fun s => s.meas.groups) [Side.A, Side.B] _ (fun u x _ => (groups_set u).2 x c _) s

theorem meas_holdGates (s : State) : (holdGates s).meas = s.meas := by unfold holdGates; split <;> rfl

theorem meas_noteCause (c : Nat) (s : State) : (noteCause c s).meas = s.meas := by unfold noteCause; split <;> rfl

theorem groups_safeDisable (c : Nat) (s : State) : (safeDisable c s).meas.groups = s.meas.groups := by
  simp [safeDisable, meas_noteCause, meas_holdGates, groups_set]

theorem groups_declareFeedback (c kind : Nat) (s : State) : (declareFeedback c kind s).meas.groups = s.meas.groups := by
  simp [declareFeedback, startFallback, groups_ite, groups_safeDisable, groups_markFault, groups_set]

theorem groups_reportFeedback (x : Side) (c kind : Nat) (s : State) : (reportFeedback x c kind s).meas.groups = s.meas.groups := by
  simp [reportFeedback, judgeFeedback, groups_ite, groups_declareFeedback, groups_holdValue, groups_set]

theorem groups_finishSwap (g : Nat) (s : State) : (finishSwap g s).meas.groups = s.meas.groups := by
  simp only [finishSwap, raise_fields, State.setBitO_frame]
  refine foldl_keep (fun s => s.meas.groups) _ _ (fun u c _ => ?_) _
  simp [refreshDelay, groups_ite]

theorem groups_sweepSwaps (r : Nat) (s : State) : (sweepSwaps r s).meas.groups = s.meas.groups :=
  foldl_keep (fun s => s.meas.groups) _ _ (fun u e _ => by
    simp only [groups_ite]
    split
    · exact groups_finishSwap e.1 _
    · rfl) s

theorem groups_restartChain (c : Nat) (s : State) : (restartChain c s).meas.groups = s.meas.groups :=
  foldl_keep (fun s => s.meas.groups) [Side.A, Side.B] _ (fun u x _ => by split <;> rfl) s

theorem groups_finishAlign (a : Align) (s : State) : (finishAlign a s).meas.groups = s.meas.groups := by
  simp [finishAlign, groups_ite]

theorem groups_onAligns (f : Align → Align) (s : State) : (onAligns f s).meas.groups = s.meas.groups :=
  foldl_keep (fun s => s.meas.groups) _ _ (fun u a _ => groups_finishAlign a u) _

theorem group_of_groups {s u : State} (h : u.meas.groups = s.meas.groups) (g : Nat) : u.group g = s.group g := by
  simp only [State.group, h]

/-- A new grid starts its group's edges afresh, and keeps the clock as it runs (R62, R65). -/
theorem group_newGrid (g : Nat) (aligned : Bool) (s : State) :
    (newGrid g aligned s).group g = { s.group g with edges := 0, aligned := aligned, restart := false } := by
  have hkeep := foldl_keep (fun s => s.meas.groups) (groupChannels s g) _ (fun u c _ => groups_restartChain c u) s
  simp only [newGrid, group_set, group_of_groups hkeep, if_true]

/-! ### The alignments (R60 to R63) -/

theorem aligns_restartChain (c : Nat) (s : State) : (restartChain c s).meas.aligns = s.meas.aligns :=
  foldl_keep (fun s => s.meas.aligns) [Side.A, Side.B] _ (fun u x _ => by split <;> rfl) s

theorem aligns_newGrid (g : Nat) (aligned : Bool) (s : State) : (newGrid g aligned s).meas.aligns = s.meas.aligns :=
  foldl_keep (fun s => s.meas.aligns) (groupChannels s g) _ (fun u c _ => aligns_restartChain c u) s

theorem aligns_finishAlign (a : Align) (s : State) : (finishAlign a s).meas.aligns = s.meas.aligns := by
  unfold finishAlign; split <;> simp

/-- What an operation makes of the alignments, less those it completes. -/
theorem aligns_onAligns (f : Align → Align) (s : State) :
    (onAligns f s).meas.aligns = (s.meas.aligns.map f).filter (fun a => !a.complete) :=
  foldl_keep (fun s => s.meas.aligns) _ _ (fun u a _ => aligns_finishAlign a u) _

theorem num_restartChain (c : Nat) (s : State) (i j : Nat) : (restartChain c s).num i j = s.num i j :=
  foldl_keep (fun s => s.num i j) [Side.A, Side.B] _ (fun u x _ => by split <;> rfl) s

theorem num_newGrid (g : Nat) (aligned : Bool) (s : State) (i j : Nat) : (newGrid g aligned s).num i j = s.num i j :=
  foldl_keep (fun s => s.num i j) (groupChannels s g) _ (fun u c _ => num_restartChain c u i j) s

theorem group_ended (s : State) (q : List Instr) (g : Nat) : (s.ended q).group g = s.group g := group_of_groups (by simp) g

theorem group_emptyHistories (g' : Nat) (s : State) (g : Nat) : (emptyHistories g' s).group g = s.group g := rfl

/-- The widths of the records of synchronisation. -/
theorem sizeOf_sync : sizeOf 0x2310 3 = 4 ∧ sizeOf 0x2310 4 = 12 := by decide

/-- One alignment alone: it stays, or it ends where the operation completes it. -/
theorem onAligns_single {f : Align → Align} {s : State} {a : Align} (h : s.meas.aligns = [a]) :
    onAligns f s = if (f a).complete then finishAlign (f a) { s with meas := { s.meas with aligns := [] } }
      else { s with meas := { s.meas with aligns := [f a] } } := by
  cases hc : (f a).complete <;> simp [onAligns, h, hc]

/-- An alignment whose group resets is complete where every other group that takes part has reset. -/
theorem complete_reset {a : Align} {m g : Nat} (h : a.taking = some m) :
    ({ a with groups := setBit a.groups g true } : Align).complete
      = (List.range 8).all (fun k => !m.testBit k || a.groups.testBit k || k == g) := by
  simp only [Align.complete, Align.awaits, h, Option.isSome_some, Bool.true_and, Option.any_some, testBit_setBit]
  refine congrArg _ (funext fun k => ?_)
  by_cases hk : k = g <;> simp [hk]

theorem setBit_ne_zero (n i : Nat) : setBit n i true ≠ 0 := by
  intro h
  have htest := testBit_setBit n i i true
  simp [h] at htest

/-! ### The bits that the receivers take (R95) -/

/-- The history of a ball with one more bit. -/
def pushBit (h : History) (bit : Bool) : History := ⟨(2 * h.bits + bit.toNat) % 2 ^ 96, min 96 (h.n + 1)⟩

theorem history_takeBit (r b : Nat) (bit : Bool) (s : State) (r' b' : Nat) :
    (takeBit r b bit s).history r' b' = if 72 * r' + b' = 72 * r + b then pushBit (s.history r b) bit else s.history r' b' := by
  simp [takeBit, State.history, get_put, pushBit]

/-- A receiver takes a bit of each ball of a group. -/
theorem history_takeBits (r o n : Nat) (bits : Nat) (s : State) (k : Nat) :
    (forN n (fun i s => takeBit r (o + i) (bits.testBit i) s) s).history r (o + k)
      = if k < n then pushBit (s.history r (o + k)) (bits.testBit k) else s.history r (o + k) := by
  induction n generalizing s with
  | zero => rfl
  | succ n ih =>
    rw [show forN (n + 1) (fun i s => takeBit r (o + i) (bits.testBit i) s) s
      = takeBit r (o + n) (bits.testBit n) (forN n (fun i s => takeBit r (o + i) (bits.testBit i) s) s) by simp [forN, List.range_succ]]
    rw [history_takeBit, ih]
    by_cases hk : k = n
    · subst hk; simp [ih]
    · simp [hk, show ¬ 72 * r + (o + k) = 72 * r + (o + n) by omega, show k < n + 1 ↔ k < n by omega]

theorem meas_saturated (x : Side) (c : Nat) (s : State) :
    (saturated x c s).meas = s.meas := by
  unfold saturated; split <;> simp

/-- What a receiver's bits and a sampling edge of a side leave: the clock groups and what another receiver holds. -/
def edgeView (s : State) : Store ClockGroup × (Nat → History) := (s.meas.groups, fun b => if b < 72 then s.history 2 b else History.init)

theorem edgeView_of {s u : State} (hg : u.meas.groups = s.meas.groups) (hh : u.meas.histories = s.meas.histories) : edgeView u = edgeView s := by
  simp only [edgeView, State.history, hg, hh]

theorem edgeView_takeBit {r b : Nat} (hr : r < 2) (hb : b < 72) (bit : Bool) (s : State) : edgeView (takeBit r b bit s) = edgeView s := by
  simp only [edgeView, history_takeBit]
  refine Prod.ext rfl (funext fun b' => ?_)
  by_cases hb' : b' < 72
  · simp [hb', show ¬ 72 * 2 + b' = 72 * r + b by omega]
  · simp [hb']

theorem edgeView_chainBit (x : Side) (c e : Nat) (bit : Bool) (s : State) : edgeView (chainBit x c e bit s) = edgeView s := by
  unfold chainBit
  dsimp only
  repeat' split
  all_goals exact edgeView_of (by simp [meas_saturated, groups_set]) (by simp [meas_saturated, State.setChain])

theorem edgeView_sideEdge {g : Nat} (hg : g < 8) (x : Side) (e bits : Nat) (s : State) : edgeView (sideEdge x g e bits s) = edgeView s := by
  have hbits : edgeView (if receives s x then forN 9 (fun i s => takeBit (sideIx x) (9 * g + i) (bits.testBit i) s) s else s) = edgeView s := by
    split
    · refine forN_keep edgeView _ _ (fun i u hi => edgeView_takeBit ?_ (by omega) _ u) s
      cases x <;> decide
    · rfl
  unfold sideEdge
  dsimp only
  generalize (if receives s x then forN 9 (fun i s => takeBit (sideIx x) (9 * g + i) (bits.testBit i) s) s else s) = u at hbits ⊢
  split
  · exact hbits
  · exact (foldl_keep edgeView _ _ (fun v c _ => edgeView_chainBit ..) u).trans hbits

theorem groups_stepComp (c k : Nat) (v : Int) (s : State) :
    (stepComp c k v s).meas.groups = s.meas.groups ∧ (stepComp c k v s).meas.histories = s.meas.histories := by
  unfold stepComp
  dsimp only
  repeat' split
  all_goals exact ⟨rfl, rfl⟩

/-! ### An output boundary (R43, R47) -/

/-- Whether a channel's output boundary is due, and its last FIR output. -/
def firMark (x : Side) (c : Nat) (s : State) : Bool × Option Int := ((s.chain x c).due, (s.chain x c).lastFir)

theorem firMark_of {x : Side} {c : Nat} {s u : State} (h : u.meas.chains = s.meas.chains) : firMark x c u = firMark x c s := by
  simp only [firMark, State.chain, h]

theorem firMark_ite (x : Side) (c : Nat) (p : Prop) [Decidable p] (a b : State) :
    firMark x c (if p then a else b) = if p then firMark x c a else firMark x c b := by split <;> rfl

theorem firMark_setChain (x : Side) (c : Nat) (v : Chain) (s : State) : firMark x c (s.setChain x c v) = (v.due, v.lastFir) := by
  simp [firMark]

theorem firMark_settledChain (x : Side) (c : Nat) (s : State) : firMark x c (settledChain x c s) = firMark x c s := by
  simp only [settledChain, firMark_ite, firMark_setChain]
  split <;> rfl

theorem firMark_saturated (x : Side) (c : Nat) (s : State) : firMark x c (saturated x c s) = firMark x c s :=
  firMark_of (by rw [meas_saturated])

theorem firMark_endModel (x : Side) (c : Nat) (s : State) : firMark x c (endModel x c s) = firMark x c s := by
  unfold endModel
  dsimp only
  split <;> rfl

theorem firMark_countEvent (x : Side) (c b e n k : Nat) (s : State) : firMark x c (countEvent b e n k s) = firMark x c s := firMark_of (by simp)

theorem firMark_deliver (x : Side) (c : Nat) (x0 : Int) (sat : Bool) (idx : Nat) (cs part : Bool) (s : State) :
    firMark x c (deliver x c x0 sat idx cs part s) = firMark x c s := by
  have hnote : ∀ u : State, firMark x c ((u.setBitO (0x2600 + c) 7 6 true).raise 78 c) = firMark x c u := fun u => firMark_of (by simp)
  simp only [deliver, firMark_ite, hnote, firMark_countEvent, firMark_saturated, firMark_endModel, firMark_setChain, ite_self]
  rfl

theorem firMark_fold (x : Side) (c : Nat) (s : State) : ((s.chain x c).due, (s.chain x c).lastFir) = firMark x c s := rfl

theorem firMark_arcIndex (x : Side) (c : Nat) (line : Line) (l : List Int) (s : State) :
    firMark x c (arcIndex x c line l s) = firMark x c s := by
  have hinc : ∀ (u : State) i j, firMark x c (u.incWrap i j) = firMark x c u := fun u i j => firMark_of (by simp)
  simp only [arcIndex, firMark_ite, firMark_deliver, hinc, firMark_setChain, firMark_fold, firMark_saturated, ite_self]

theorem firMark_arcTake (x : Side) (c : Nat) (y : Int) (s : State) : firMark x c (arcTake x c y s) = firMark x c s := by
  have hpush : firMark x c (s.setChain x c { s.chain x c with arc := (y :: (s.chain x c).arc).take 16 }) = firMark x c s :=
    firMark_setChain ..
  unfold arcTake
  dsimp only
  generalize s.setChain x c { s.chain x c with arc := (y :: (s.chain x c).arc).take 16 } = u at hpush ⊢
  split
  · rw [firMark_deliver, hpush]
  · split
    · exact hpush
    · rw [firMark_arcIndex, firMark_arcIndex, firMark_ite, firMark_setChain, ← hpush]
      split <;> rfl

theorem chains_finishSwap (g : Nat) (s : State) : (finishSwap g s).meas.chains = s.meas.chains := by
  simp only [finishSwap, raise_fields, State.setBitO_frame]
  refine foldl_keep (fun s => s.meas.chains) _ _ (fun u c _ => ?_) _
  dsimp only [refreshDelay]
  split <;> simp

theorem firMark_sweepSwaps (x : Side) (c r : Nat) (s : State) : firMark x c (sweepSwaps r s) = firMark x c s :=
  foldl_keep (firMark x c) _ _ (fun u e _ => by
    simp only [firMark_ite]
    split
    · exact firMark_of (chains_finishSwap e.1 _)
    · rfl) s

/-- Objects that no event writes. -/
theorem evKey_eq_false {i j : Nat} (hj : j < 256) (h : i ≠ 0x1200 ∧ i ≠ 0x8100 ∧ i ≠ 0xF000 ∧ (i < 0x8010 ∨ 0x8017 < i) ∧ (i < 0x8300 ∨ 0x836F < i)) :
    evKey (i * 256 + j) = false := by
  have hdiv : (i * 256 + j) / 256 = i := by omega
  have hmod : (i * 256 + j) % 256 = j := by omega
  obtain ⟨h1, h2, h3, h4, h5⟩ := h
  simp only [evKey, hdiv, hmod]
  rw [Bool.eq_false_iff]
  simp [h1, h2, h3]
  omega

/-- An output boundary without a frozen limit: it is no longer due, and the FIR output is the bank's, saturated (R47). -/
theorem firMark_boundary {x : Side} {c : Nat} {s : State} (hc : c < 64) (h : s.fld (0x2100 + c) 7 15 0 = 0) :
    firMark x c (boundary x c s) = (false, some (satI 32 (firOut (applySwap x c s) x c))) := by
  have hswap : (applySwap x c s).fld (0x2100 + c) 7 15 0 = 0 := by
    unfold applySwap
    dsimp only
    split
    · split <;> exact h
    · exact h
  have hsat : ∀ u : State, (saturated x c u).fld (0x2100 + c) 7 15 0 = u.fld (0x2100 + c) 7 15 0 := by
    intro u
    unfold saturated
    split
    · rw [fld_raise _ _ _ _ _ _ _ _ _ (evKey_eq_false (by omega) (by omega)), fld_setBitO_far _ _ _ _ _ _ _ _ _ (by omega)]
    · rfl
  unfold boundary
  dsimp only
  have hfrozen : ∀ (p : Prop) [Decidable p] v, ((if p then saturated x c (applySwap x c s) else applySwap x c s).setChain x c v).fld (0x2100 + c) 7 15 0 = 0 := by
    intro p _ v
    change (if p then saturated x c (applySwap x c s) else applySwap x c s).fld (0x2100 + c) 7 15 0 = 0
    split
    · rw [hsat, hswap]
    · exact hswap
  simp only [hfrozen, bne_self_eq_false, Bool.false_and, Bool.false_eq_true, if_false, firMark_sweepSwaps, firMark_arcTake,
    firMark_settledChain, firMark_setChain]

/-- The ridge's receiver and its comparators at a sampling edge: they leave the clock groups, and each ball of the group has one bit more. -/
theorem edgeTail_reads (g r : Nat) (u : State) (q : List Instr) :
    let v := forN 9 (fun i s => takeBit 2 (9 * g + i) (r.testBit i) s) u
    let e := ((groupChannels v g).foldl (fun s c => let w := chordAt s 2 c; forN 4 (fun k s => stepComp c k w s) s) v).ended q
    e.meas.groups = u.meas.groups ∧ ∀ i, i < 9 → e.history 2 (9 * g + i) = pushBit (u.history 2 (9 * g + i)) (r.testBit i) := by
  intro v e
  have hv : v.meas.groups = u.meas.groups := forN_keep (fun s => s.meas.groups) 9 (fun i s => takeBit 2 (9 * g + i) (r.testBit i) s) (fun i s _ => rfl) u
  have hkeep := foldl_keep (fun s : State => (s.meas.groups, s.meas.histories)) (groupChannels v g)
    (fun s c => let w := chordAt s 2 c; forN 4 (fun k s => stepComp c k w s) s)
    (fun s c _ => forN_keep (fun s : State => (s.meas.groups, s.meas.histories)) 4 _
      (fun k s _ => Prod.ext (groups_stepComp ..).1 (groups_stepComp ..).2) s) v
  obtain ⟨hgroups, hhist⟩ := Prod.mk.inj hkeep
  have hcomps : e.meas.groups = v.meas.groups ∧ e.meas.histories = v.meas.histories := by
    simp only [e, ended_fields]
    exact ⟨hgroups, hhist⟩
  refine ⟨hcomps.1.trans hv, fun i hi => ?_⟩
  have hhist : e.history 2 (9 * g + i) = v.history 2 (9 * g + i) := by simp only [State.history, hcomps.2]
  rw [hhist, show v.history 2 (9 * g + i) = _ from history_takeBits 2 (9 * g) 9 r u i, if_pos hi]

/-- Settles O23: what the clock groups, the alignments, the receivers' bits and the chains are after each command, by the lemmas above. -/
theorem samplingCompletes : Obligations.SamplingCompletes := by
  intro s t b
  have hb : s.arrive t = b := rfl
  clear_value b
  refine ⟨fun g hg hen hrun => ?_,
    fun g x y r hg hx hy hr hen hrun hgrid => ?_,
    fun hon hedge hlock hnone => ?_,
    fun hhost hnone => ?_,
    fun a ha hcmd hpulse hta hout => ?_,
    fun a g hg ha haw hrun => ?_,
    fun a m g hg hal htake hm hrun hgr => ?_,
    fun x c hc hfeeds hen hdue hfr => ?_,
    fun g hg hen hmiss hold => ?_,
    fun x c hc hfeeds hset hfq hdecl => ?_⟩
  · refine gives_of_run hb (execSamplingClockStart.eq_def ..) (decide_eq_true hg) ?_
    simp only [hen, hrun, Bool.not_false, Bool.and_self, if_true]
    rw [group_ended, group_newGrid, group_emptyHistories, group_set, if_pos rfl]
  · refine gives_of_run hb (execSamplingEdge.eq_def ..) (by simp_all [Instr.wf]) ?_
    dsimp only
    rw [if_neg (by simp [hen, hrun]), if_neg (by simp [hgrid])]
    generalize hv : b.setGroup g { b.group g with edges := (b.group g).edges + 1, last := b.now } = v
    have hview := (edgeView_sideEdge hg .B ((b.group g).edges + 1) y _).trans (edgeView_sideEdge hg .A ((b.group g).edges + 1) x v)
    generalize sideEdge .B g ((b.group g).edges + 1) y (sideEdge .A g ((b.group g).edges + 1) x v) = u at hview ⊢
    have htail := edgeTail_reads g r u s.pending
    have hgroups : u.meas.groups = v.meas.groups := congrArg Prod.fst hview
    rw [group_of_groups htail.1, group_of_groups hgroups, ← hv, group_set, if_pos rfl]
    refine ⟨rfl, rfl, fun i hi => ?_⟩
    have hhist : u.history 2 (9 * g + i) = v.history 2 (9 * g + i) := by
      have := congrFun (congrArg Prod.snd hview) (9 * g + i)
      simpa [edgeView, show 9 * g + i < 72 by omega] using this
    have hpush := htail.2 i hi
    rw [hhist, ← hv] at hpush
    exact hpush
  · refine gives_of_run hb (execSyncInEdge.eq_def ..) rfl ?_
    simp [hon, hedge, hlock, hnone, evKey, startAlign, sizeOf_sync]
  · refine gives_of_run hb (execSyncCommand.eq_def ..) rfl ?_
    simp [hhost, hnone, evKey, syncWrite, startAlign, sizeOf_sync]
  · refine gives_of_run hb (execSyncOutPulse.eq_def ..) rfl ?_
    have hdue : syncPulseDue b a = true := by simp [syncPulseDue, hcmd, hpulse, hta, hout]
    have hany : b.meas.aligns.any (syncPulseDue b) = true := List.any_eq_true.mpr ⟨a, ha, hdue⟩
    simp only [hany, if_true]
    refine ⟨by simp [show beBytes 2 200 = [0, 200] by decide], ?_, by simp [State.syncOutHigh, nsFs], by simp⟩
    simp only [ended_fields, State.emit_frame]
    exact List.mem_map.mpr ⟨a, ha, if_pos hdue⟩
  · refine gives_of_run hb (execDecimAlignment.eq_def ..) (decide_eq_true hg) ?_
    have hany : b.meas.aligns.any (fun a => a.awaits g) = true := List.any_eq_true.mpr ⟨a, ha, haw⟩
    simp only [hany, hrun, Bool.and_self, if_true, ended_fields]
    rw [group_ended, group_of_groups (groups_onAligns _ _), group_newGrid]
    refine ⟨rfl, rfl, rfl, fun q hq => ?_⟩
    rw [aligns_onAligns, aligns_newGrid] at hq
    obtain ⟨p, -, rfl⟩ := List.mem_map.mp (List.mem_filter.mp hq).1
    split
    · simp [Align.awaits, testBit_setBit]
    next hno => simpa using hno
  · refine gives_of_run hb (execDecimAlignment.eq_def ..) (decide_eq_true hg) ?_
    have haw : a.awaits g = true := by simp [Align.awaits, htake, hm, hgr]
    have hgrid : (newGrid g true b).meas.aligns = [a] := (aligns_newGrid ..).trans hal
    simp only [hal, hrun, haw, List.any_cons, List.any_nil, Bool.or_false, Bool.and_self, if_true, onAligns_single hgrid,
      complete_reset htake]
    split
    · have hne := setBit_ne_zero a.groups g
      have hfld : (newGrid g true b).fld 0x2310 3 15 0 = b.fld 0x2310 3 15 0 := fld_of_num (num_newGrid ..) 15 0
      have hwide : satInc 16 (b.fld 0x2310 3 15 0) % 65536 = satInc 16 (b.fld 0x2310 3 15 0) := satInc_mod 16 _
      simp [finishAlign, hne, evKey, sizeOf_sync, hfld, hwide]
    · simp
  · refine gives_of_run hb (execDecimationBoundary.eq_def ..) (decide_eq_true hc) ?_
    have hmark := firMark_boundary (x := x) hc hfr
    have hend : firMark x c ((boundary x c b).ended s.pending) = firMark x c (boundary x c b) := firMark_of (by simp)
    simp only [hfeeds, hen, hdue, Bool.and_self, if_true]
    exact Prod.mk.inj (hend.trans hmark)
  · refine gives_of_run hb (execModClockMissing.eq_def ..) (decide_eq_true hg) ?_
    simp only [hen, hmiss, hold, Bool.not_false, Bool.and_self, decide_true, if_true]
    rw [group_ended, group_of_groups (groups_sweepSwaps _ _),
      group_of_groups (foldl_keep (fun s => s.meas.groups) _ _ (fun u c _ => by simp [groups_reportFeedback]) _), group_emptyHistories, leaveAlign,
      group_of_groups (groups_onAligns _ _), group_of_groups (s := b.setGroup g { b.group g with running := false, missing := true, aligned := false }) (by simp), group_set, if_pos rfl]
  · refine gives_of_run hb (execSettlingCleared.eq_def ..) (decide_eq_true hc) ?_
    simp [hfeeds, hset, hfq, hdecl, settledChain]

end Sys2Proof
end

section
/-!
SUPPORT. Feedback supervision (R66 to R71), arcs, chords, comparators and blanking (chapter 3).
-/
namespace Sys2Proof
open Sys2Proof.Machine

/-! ### Feedback supervision (R66 to R71, R206) -/

theorem feedback_ite (p : Prop) [Decidable p] (a b : State) (c : Nat) :
    (if p then a else b).feedback c = if p then a.feedback c else b.feedback c := by split <;> rfl

theorem feedback_of {s u : State} (h : u.meas.feedback = s.meas.feedback) (c : Nat) : u.feedback c = s.feedback c := by
  simp only [State.feedback, h]

theorem feedback_raise (e p0 p1 p2 : Nat) (s : State) (c : Nat) : (s.raise e p0 p1 p2).feedback c = s.feedback c := feedback_of (by simp) c

theorem feedback_ended (s : State) (q : List Instr) (c : Nat) : (s.ended q).feedback c = s.feedback c := feedback_of (by simp) c

theorem feedback_markFault (c : Nat) (s : State) (c' : Nat) : (markFault c s).feedback c' = s.feedback c' :=
  foldl_keep (fun s => s.feedback c') [Side.A, Side.B] _ (fun u x _ => by split <;> rfl) s

theorem feedback_holdValue (c : Nat) (s : State) (c' : Nat) : (holdValue c s).feedback c' = s.feedback c' :=
  foldl_keep (fun s => s.feedback c') [Side.A, Side.B] _ (fun u x _ => rfl) s

/-- SAFE_DISABLE holds the gates and stands as cause 10 for the next main tick (R70, R206). -/
theorem safeDisable_leaves (c : Nat) (s : State) :
    (safeDisable c s).feedback c = { s.feedback c with acted := true, modelUntil := none } ∧
      (s.gfState ≠ 6 → (safeDisable c s).plate.gateHold = true ∧ (safeDisable c s).gf.causes.testBit 10 = true) := by
  have hgf : (s.setFeedback c { s.feedback c with acted := true, modelUntil := none }).gfState = s.gfState := rfl
  refine ⟨?_, fun h6 => ?_⟩
  · rw [safeDisable, feedback_of (congrArg Meas.feedback ((meas_noteCause ..).trans (meas_holdGates _)))]
    simp
  · simp [safeDisable, noteCause, holdGates, h6, testBit_setBit]

/-- A declared condition is recorded with its kind, whatever fallback it starts (R70). -/
theorem declared_declareFeedback (c kind : Nat) (s : State) : ((declareFeedback c kind s).feedback c).declared = kind := by
  simp only [declareFeedback, startFallback, feedback_ite]
  repeat' split
  all_goals simp [feedback_raise, feedback_markFault, safeDisable_leaves]

/-- The width of the status of a channel. -/
theorem sizeOf_chanStatus : ∀ c < 64, sizeOf (0x2100 + c) 0xB = 2 := by decide +kernel

theorem bit_ite (p : Prop) [Decidable p] (a b : State) (i j n : Nat) :
    (if p then a else b).bit i j n = if p then a.bit i j n else b.bit i j n := by split <;> rfl

theorem bit_markFault (c : Nat) (s : State) (i j n : Nat) : (markFault c s).bit i j n = s.bit i j n :=
  foldl_keep (fun s => s.bit i j n) [Side.A, Side.B] _ (fun u x _ => by split <;> rfl) s

theorem bit_holdValue (c : Nat) (s : State) (i j n : Nat) : (holdValue c s).bit i j n = s.bit i j n :=
  foldl_keep (fun s => s.bit i j n) [Side.A, Side.B] _ (fun u x _ => rfl) s

theorem bit_safeDisable (c : Nat) (s : State) (i j n : Nat) : (safeDisable c s).bit i j n = s.bit i j n := by
  unfold safeDisable noteCause holdGates
  repeat' split
  all_goals rfl

theorem bit_setFeedback (s : State) (c : Nat) (f : Feedback) (i j n : Nat) : (s.setFeedback c f).bit i j n = s.bit i j n := rfl

/-- FEEDBACK_LOST is shown in the status of its channel (R68). -/
theorem bit_declareFeedback {c kind : Nat} (hc : c < 64) (hk : kind ≠ 3) (s : State) (n : Nat) (hn : n < 16) :
    (declareFeedback c kind s).bit (0x2100 + c) 0xB n = if n = 6 then true else s.bit (0x2100 + c) 0xB n := by
  have hev : evKey ((0x2100 + c) * 256 + 0xB) = false := evKey_eq_false (by omega) (by omega)
  have hraise : ∀ (u : State) e p q r, (u.raise e p q r).bit (0x2100 + c) 0xB n = u.bit (0x2100 + c) 0xB n := fun u e p q r =>
    bit_raise u e p q r _ _ _ hev
  simp only [declareFeedback, startFallback, bit_ite, bit_safeDisable, hraise, bit_setFeedback, hk, if_false, ite_self]
  rw [State.bit_setBitO _ _ _ _ _ (by rw [sizeOf_chanStatus c hc]; omega)]
  simp [bit_markFault, bit_setFeedback]

theorem num_holdValue (c : Nat) (s : State) (i j : Nat) : (holdValue c s).num i j = s.num i j :=
  foldl_keep (fun s => s.num i j) [Side.A, Side.B] _ (fun u x _ => rfl) s

/-- With the other sill out of service a report of lost feedback declares at once (R68). -/
theorem reportFeedback_alone {x : Side} {c kind : Nat} {s : State} (hx : s.inService x = true) (hy : s.inService (otherSide x) = false)
    (hrep : ((s.feedback c).rep x).1 = 0) (hdecl : (s.feedback c).declared = 0) (hk : kind < 3) :
    ∃ u, reportFeedback x c kind s = declareFeedback c kind u ∧ ∀ i j, u.num i j = s.num i j := by
  unfold reportFeedback
  dsimp only
  rw [if_neg (by simp [hx, hdecl])]
  split
  · exact ⟨_, rfl, fun i j => rfl⟩
  · rw [if_neg (by simp [hrep])]
    have hkeep : ∀ i j, (if ((s.feedback c).rep (otherSide x)).1 = 0 then holdValue c s else s).num i j = s.num i j := by
      intro i j
      split
      · exact num_holdValue c s i j
      · rfl
    generalize (if ((s.feedback c).rep (otherSide x)).1 = 0 then holdValue c s else s) = v at hkeep ⊢
    have hserve : (v.setFeedback c ((s.feedback c).putRep x kind v.now)).inService (otherSide x) = false :=
      ((sideWords_of (hkeep 0x6021 1)).2.1 (otherSide x)).trans hy
    rw [if_pos (by simp [hserve]), judgeFeedback, if_neg (by simp; omega)]
    exact ⟨_, rfl, hkeep⟩

/-- A channel restarts on its grid with its report as it was (R65, R71). -/
theorem feedback_restartOnGrid (c : Nat) (s : State) (c' : Nat) : (restartOnGrid c s).feedback c' = s.feedback c' := by
  have hchain : (restartChain c s).feedback c' = s.feedback c' :=
    foldl_keep (fun s => s.feedback c') [Side.A, Side.B] _ (fun u x _ => by split <;> rfl) s
  unfold restartOnGrid
  dsimp only
  split
  · exact hchain
  · exact hchain

theorem sizeOf_bankSwap : sizeOf 0x2300 2 = 2 := by decide

theorem maskList_single : ∀ g < 8, maskList 8 (2 ^ g % 256) = [g] := by decide

/-- Settles O24: a report declares, a disagreement takes the side over, an expiry disables, a recovery forgets the reports, a request waits. -/
theorem feedbackCompletes : Obligations.FeedbackCompletes := by
  intro s t b
  have hb : s.arrive t = b := rfl
  clear_value b
  refine ⟨fun x c hc hfeeds hin hout hen hrun hrep hdecl => ?_,
    fun c hc hready hA hB hrepA hrepB hdecl hold hfirst hfq => ?_,
    fun c u hc hu hdue hdecl h6 => ?_,
    fun c hc hnone hthere => ?_,
    fun g hg hhost hok => ?_⟩
  · refine gives_of_run hb (execStuckBits.eq_def ..) (decide_eq_true hc) ?_
    have hev : evKey ((0x2100 + c) * 256 + 0xB) = false := evKey_eq_false (by omega) (by omega)
    have hsize : 6 < 8 * sizeOf (0x2100 + c) 0xB := by rw [sizeOf_chanStatus c hc]; decide
    obtain ⟨u, hu, hnum⟩ := reportFeedback_alone (s := b.setBitO (0x2100 + c) 0xB 3 true) (c := c) (kind := 1)
      (by simp (disch := omega) [hin]) (by simp (disch := omega) [hout]) hrep hdecl (by decide)
    simp only [hfeeds, hen, hrun, decide_true, Bool.and_self, if_true, feedback_ended, bit_ended _ _ _ _ _ hev, hu]
    refine ⟨declared_declareFeedback .., ?_, ?_⟩
    · rw [bit_declareFeedback hc (by decide) _ _ (by decide), if_neg (by decide), State.bit, hnum]
      exact State.bit_set b true (by omega)
    · rw [bit_declareFeedback hc (by decide) _ _ (by decide), if_pos rfl]
  · refine gives_of_run hb (execFeedbackDisagreement.eq_def ..) (decide_eq_true hc) ?_
    have hserve : b.inService .A = true ∧ b.inService .B = true := by simp [State.inService, hA, hB]
    have hone : (((b.feedback c).rep .A).1 != 0 && ((b.feedback c).rep (otherSide .A)).1 == 0 && (b.feedback c).declared == 0 && b.inService .A
        && b.inService (otherSide .A) && decide (((b.feedback c).rep .A).2 + usFs 2 ≤ b.now)
        && decide (((b.feedback c).rep .A).2 < (b.chain (otherSide .A) c).outAt) && !(b.chain (otherSide .A) c).faultQ) = true := by
      simp [Feedback.rep, otherSide, hrepA, hrepB, hdecl, hserve, hold, hfirst, hfq]
    simp only [hone, if_true, sideState_ended]
    exact sideFault_takeover _ .A 5 hready hA hB
  · refine gives_of_run hb (execModelTimeExpiry.eq_def ..) (decide_eq_true hc) ?_
    simp [hu, hdue, hdecl, feedback_ended, safeDisable_leaves, h6]
  · refine gives_of_run hb (execFeedbackRecovery.eq_def ..) (decide_eq_true hc) ?_
    have hclear : ∀ x, (b.inService x && condPresent b x c) = false := by
      intro x
      cases h : b.inService x
      · rfl
      · simpa using hnone x h
    have hnot : ((b.feedback c).repA == 0 && (b.feedback c).repB == 0 && (b.feedback c).declared == 0) = false := by
      simp; omega
    simp only [hclear, hnot, Bool.or_self, Bool.false_eq_true, if_false, feedback_ended, feedback_ite, feedback_restartOnGrid, ite_self,
      feedback_set, if_true]
    refine ⟨_, rfl, fun hw => ?_⟩
    rw [hw]
    rfl
  · have hlt : 2 ^ g < 2 ^ 16 := Nat.pow_lt_pow_right (by decide) (by omega)
    refine gives_of_run hb (execBankSwapRequest.eq_def ..) (by simp_all [Instr.wf]) ?_
    simp [hhost, bankSwap, forMask, maskList_single g hg, hok, evKey, State.appTime]
    exact State.bit_set b true (by rw [sizeOf_bankSwap]; omega)

/-! ### Reference triples, comparators and blanking (R75, R76, R79, R96 to R99) -/

/-- The widths of the status of an arc domain and of a comparator's record. -/
theorem sizeOf_arcStatus : ∀ d < 4, sizeOf (0x2500 + d) 6 = 2 := by decide +kernel

theorem sizeOf_compStatus : ∀ c < 64, sizeOf (0x2600 + c) 7 = 2 := by decide +kernel

theorem graphReads (x : Side) (v : Graph) (s : State) :
    (∀ q, applyAt (s.setGraph x v) q = applyAt s q) ∧ (s.setGraph x v).ridgeFine = s.ridgeFine := by
  cases x <;> exact ⟨fun _ => rfl, rfl⟩

theorem arc_of {s u : State} (h : u.meas.arcs = s.meas.arcs) (x : Side) (d : Nat) : u.arc x d = s.arc x d := by
  simp only [State.arc, h]

theorem arc_ite (p : Prop) [Decidable p] (a b : State) (x : Side) (d : Nat) :
    (if p then a else b).arc x d = if p then a.arc x d else b.arc x d := by split <;> rfl

theorem arc_raise (e p0 p1 p2 : Nat) (s : State) (x : Side) (d : Nat) : (s.raise e p0 p1 p2).arc x d = s.arc x d := arc_of (by simp) x d

theorem arc_ended (s : State) (q : List Instr) (x : Side) (d : Nat) : (s.ended q).arc x d = s.arc x d := arc_of (by simp) x d

theorem comp_of {s u : State} (h : u.meas.comps = s.meas.comps) (c k : Nat) : u.comp c k = s.comp c k := by
  simp only [State.comp, h]

theorem comp_raise (e p0 p1 p2 : Nat) (s : State) (c k : Nat) : (s.raise e p0 p1 p2).comp c k = s.comp c k := comp_of (by simp) c k

theorem comp_ended (s : State) (q : List Instr) (c k : Nat) : (s.ended q).comp c k = s.comp c k := comp_of (by simp) c k

/-- A comparator that fires: its count no longer waits, and its status bit is set (R97). -/
theorem fired_reads {c k : Nat} (hc : c < 64) (hk : k < 4) (s : State) :
    let u := (s.setComp c k { s.comp c k with due := false }).setBitO (0x2600 + c) 7 (15 - k) true
    compAction u c k = compAction s c k ∧ u.gfState = s.gfState ∧ u.comp c k = { s.comp c k with due := false } ∧
      u.meas.chordTrip = s.meas.chordTrip ∧ u.plate.gateHold = s.plate.gateHold ∧ u.bit (0x2600 + c) 7 (15 - k) = true := by
  refine ⟨?_, ?_, ?_, rfl, rfl, State.bit_set _ true (by rw [sizeOf_compStatus c hc]; omega)⟩
  · rw [compAction, fld_setBitO_far _ _ _ _ _ _ _ _ _ (by omega)]
    rfl
  · rw [(setBitO_gfWords _ _ _ _ _ (by omega)).1]
    rfl
  · simp only [setBitO_records, comp_same]

/-- What is found old on a side is marked stale there (R79). -/
theorem stale_marked {old : Side → Bool} {x : Side} {d : Nat} (hd : d < 4) (s : State) (h : old x = true) :
    (([Side.A, Side.B].foldl (fun s x => if old x then s.setArc x d { s.arc x d with stale := true } else s) s).arc x d).stale = true := by
  have hother : ∀ (u : State) v, (u.setArc .B d v).arc .A d = u.arc .A d := fun u v => by
    simp [State.arc, State.setArc, get_put, sideIx]
  cases x
  · simp only [List.foldl_cons, List.foldl_nil, h, if_true, arc_ite, hother, arc_same, ite_self]
  · simp only [List.foldl_cons, List.foldl_nil, h, if_true, arc_same]

/-- A line that takes over is in effect, whether or not the domain re-indexes (R89). -/
theorem arc_takeLine (x : Side) (d : Nat) (l : Line) (r : Nat) (s : State) :
    (takeLine x d l r s).arc x d = { s.arc x d with line := some l } := by
  have hindex : ∀ (u : State) l r k, (reindexDomain x d l r k u).arc x d = u.arc x d := by
    intro u l r k
    have hfold := foldl_keep (fun s => s.arc x d) (domainChannels u d) (fun s c => s.setChain x c (reindexChain s x l r c (s.chain x c)))
      (fun s c _ => rfl) u
    simp only [reindexDomain, arc_ite, arc_raise, setBitO_records, incSat_records, ite_self]
    exact hfold
  unfold takeLine
  dsimp only
  split
  · simp only [arc_ite, hindex]
    simp
  · simp only [arc_ite, hindex]
    simp

/-- R75: a triple of the source that its domain belongs on takes effect, with its line limited to the domain's band (R77). -/
theorem arc_applyTriple {x : Side} {d : Nat} {q : Triple} {s : State} (r : Nat) (h : q.grid.toNat = arcWanted s d) :
    let a := (applyTriple x d q r s).arc x d
    a.held = (s.arc x d).held ∧ a.line = some (tripleLine s d q).1 ∧ a.clamped = (tripleLine s d q).2 ∧ a.src = q.grid.toNat ∧
      a.stale = false ∧ a.lastApply = s.now := by
  intro a
  have hwant : ∀ v, arcWanted (s.setArc x d v) d = arcWanted s d := fun _ => rfl
  simp only [a, applyTriple, hwant, h, ne_eq, not_true_eq_false, decide_false, Bool.false_and, Bool.false_eq_true, if_false, arc_takeLine, arc_ite,
    arc_raise, setBitO_records, arc_same, ite_self, changeSource]
  repeat' split
  all_goals simp_all

/-- Settles O25: triples are held, refused as late, applied or found old; comparators fire; blanking windows open and close. -/
theorem arcChordCompletes : Obligations.ArcChordCompletes := by
  intro s t b
  have hb : s.arrive t = b := rfl
  clear_value b
  refine ⟨fun x d q hd hfeeds htriple htime => ?_,
    fun x d q hd hfeeds htriple hlate => ?_,
    fun x d q l hd hfeeds hheld hdue hwant => ?_,
    fun d hd hhalt hfeeds hsrc hline hstale hold => ?_,
    fun c k hc hk hdue hact h6 => ?_,
    fun c k hc hk hdue hact => ?_,
    fun c g hc hg hedge hblank hclosed hold => ?_,
    fun c o hc hopen hisopen hold => ?_⟩
  · refine gives_of_run hb (execArcRefTriple.eq_def ..) (decide_eq_true hd) ?_
    simp [hfeeds, htriple, graphReads, Nat.not_lt.mpr htime, arc_ended]

  · refine gives_of_run hb (execArcRefTriple.eq_def ..) (decide_eq_true hd) ?_
    have hev : evKey ((0x2500 + d) * 256 + 6) = false := evKey_eq_false (by omega) (by omega)
    simp [hfeeds, htriple, graphReads, hlate, arc_ended, arc_raise, bit_ended _ _ _ _ _ hev, bit_raise _ _ _ _ _ _ _ _ hev, sizeOf_arcStatus d hd]

  · refine gives_of_run hb (execArcRefApply.eq_def ..) (decide_eq_true hd) ?_
    simp only [hheld, hfeeds, hdue, decide_true, Bool.and_self, if_true, arc_ended]
    have happly := arc_applyTriple (x := x) (s := b.setArc x d { b.arc x d with held := l }) (applyAt b q) hwant
    rw [arc_same] at happly
    exact happly

  · refine gives_of_run hb (execArcRefStale.eq_def ..) (decide_eq_true hd) ?_
    have hold' : (b.feeds b.reporter && decide ((b.arc b.reporter d).src < 2) && (b.arc b.reporter d).line.isSome && !(b.arc b.reporter d).stale
        && decide (max (b.arc b.reporter d).lastApply b.plate.resumedAt + usFs (b.num (0x2500 + d) 5) ≤ b.now)) = true := by
      simp [hfeeds, hsrc, hline, hstale, hold]
    have hev : evKey ((0x2500 + d) * 256 + 6) = false := evKey_eq_false (by omega) (by omega)
    dsimp only
    rw [if_neg (by simp [hhalt]), if_pos hold', arc_ended, arc_raise, bit_ended _ _ _ _ _ hev, bit_raise _ _ _ _ _ _ _ _ hev]
    refine ⟨?_, State.bit_set _ true (by rw [sizeOf_arcStatus d hd]; decide)⟩
    simp only [setBitO_records]
    exact stale_marked (old := fun x => b.feeds x && decide ((b.arc x d).src < 2) && (b.arc x d).line.isSome && !(b.arc x d).stale
      && decide (max (b.arc x d).lastApply b.plate.resumedAt + usFs (b.num (0x2500 + d) 5) ≤ b.now)) hd b hold'
  · refine gives_of_run hb (execComparatorFire.eq_def ..) (by simp_all [Instr.wf]) ?_
    have hev : evKey ((0x2600 + c) * 256 + 7) = false := evKey_eq_false (by omega) (by omega)
    obtain ⟨hcomp, hgf, hq, htrip, hhold, hbit⟩ := fired_reads hc hk b
    simp only [hdue, Bool.not_true, Bool.false_eq_true, if_false]
    generalize (b.setComp c k { b.comp c k with due := false }).setBitO (0x2600 + c) 7 (15 - k) true = u at hcomp hgf hq htrip hhold hbit ⊢
    have hheld : holdGates { u with meas := { u.meas with chordTrip := true } } =
        { u with meas := { u.meas with chordTrip := true }, plate := { u.plate with gateHold := true } } := if_neg (fun h => h6 (hgf.symm.trans h))
    rw [if_pos (hcomp.trans hact), hheld, bit_ended _ _ _ _ _ hev, bit_raise _ _ _ _ _ _ _ _ hev]
    refine ⟨by simp, by simp, ?_, hbit⟩
    rw [comp_ended, comp_raise]
    exact hq
  · refine gives_of_run hb (execComparatorFire.eq_def ..) (by simp_all [Instr.wf]) ?_
    have hev : evKey ((0x2600 + c) * 256 + 7) = false := evKey_eq_false (by omega) (by omega)
    obtain ⟨hcomp, hgf, hq, htrip, hhold, hbit⟩ := fired_reads hc hk b
    simp only [hdue, Bool.not_true, Bool.false_eq_true, if_false]
    generalize (b.setComp c k { b.comp c k with due := false }).setBitO (0x2600 + c) 7 (15 - k) true = u at hcomp hgf hq htrip hhold hbit ⊢
    rw [if_neg (fun h => hact (hcomp.symm.trans h)), bit_ended _ _ _ _ _ hev, bit_raise _ _ _ _ _ _ _ _ hev, comp_ended, comp_raise]
    exact ⟨by simp [htrip], by simp [hhold], hq, hbit⟩
  · refine gives_of_run hb (execBlankWindowOpen.eq_def ..) (by simp_all [Instr.wf]) ?_
    cases ho : (b.blank c).openedAt with
    | none => simp [hedge, hblank, hclosed, ho]; simp [State.blank]
    | some o => simp [hedge, hblank, hclosed, ho, hold o ho]; simp [State.blank]
  · refine gives_of_run hb (execBlankWindowClose.eq_def ..) (decide_eq_true hc) ?_
    simp [hopen, hisopen, hold]
    simp [State.blank]

end Sys2Proof
end

section
/-!
SUPPORT. Graphs: ticks of a side, lanes, entries, the compare writer, slot switches and parameter swaps (chapters 4 and 5).
-/
namespace Sys2Proof
open Sys2Proof.Machine

/-! ### Graphs: ticks of a side (R105, R113) -/

/-- What a cycle's begin sets in a side's graph. -/
def cycleMark (x : Side) (s : State) : Bool × Nat × Nat × Nat × Nat × List Nat × Bool :=
  let g := s.graph x
  (g.started, g.tick, g.tickAt, g.vertex, g.index, g.done, g.compared)

theorem cycleMark_of {x : Side} {s u : State} (h : u.graphs = s.graphs) : cycleMark x u = cycleMark x s := by
  simp only [cycleMark, State.graph, h]

theorem cycleMark_raise (x : Side) (e p0 p1 p2 : Nat) (s : State) : cycleMark x (s.raise e p0 p1 p2) = cycleMark x s := cycleMark_of (by simp)

theorem cycleMark_setBitO (x : Side) (i j n : Nat) (v : Bool) (s : State) : cycleMark x (s.setBitO i j n v) = cycleMark x s := rfl

theorem cycleMark_countEvent (x : Side) (b e n k : Nat) (s : State) : cycleMark x (countEvent b e n k s) = cycleMark x s := cycleMark_of (by simp)

theorem cycleMark_modInst (x y : Side) (k : Nat) (f : Inst → Inst) (s : State) : cycleMark x (s.modInst y k f) = cycleMark x s := by
  cases x <;> cases y <;> rfl

theorem cycleMark_modResult (x y : Side) (j : Nat) (f : Result → Result) (s : State) : cycleMark x (s.modResult y j f) = cycleMark x s := by
  cases x <;> cases y <;> rfl

theorem cycleMark_ite (x : Side) (p : Prop) [Decidable p] (a b : State) :
    cycleMark x (if p then a else b) = if p then cycleMark x a else cycleMark x b := by split <;> rfl

theorem cycleMark_instTick (x : Side) (l : List GEntry) (e : GEntry) (s : State) : cycleMark x (instTick x l e s) = cycleMark x s := by
  refine (foldl_keep (cycleMark x) l _ (fun u d _ => ?_) _).trans (cycleMark_modInst ..)
  simp only [cycleMark_ite, cycleMark_modResult, ite_self]

theorem cycleMark_freezeInst (x : Side) (l : List GEntry) (prev cut : Nat) (e : GEntry) (s : State) :
    cycleMark x (freezeInst x l prev cut e s) = cycleMark x s := by
  refine foldl_keep (cycleMark x) l _ (fun u d _ => ?_) s
  cases x <;> simp only [cycleMark_ite] <;> repeat' split
  all_goals rfl

theorem cycleMark_swapCheck (x : Side) (g : Nat) (s : State) : cycleMark x (swapCheck g s) = cycleMark x s := by
  have hclear : ∀ (y : Side) (u : State), cycleMark x (((u.graph y).inst.map (fun e => e.1)).foldl (fun s k =>
      s.modInst y k (fun v => if v.swapDone = some g then { v with swapDone := none } else v)) u) = cycleMark x u :=
    fun y u => foldl_keep (cycleMark x) _ _ (fun u k _ => cycleMark_modInst ..) u
  unfold swapCheck
  dsimp only
  rw [cycleMark_ite]
  split
  · rfl
  · rw [cycleMark_raise, cycleMark_setBitO]
    exact (hclear .B _).trans (hclear .A _)

theorem cycleMark_sleepLanes (x : Side) (f : Nat → Bool) (s : State) : cycleMark x (sleepLanes x f s) = cycleMark x s := by
  cases x <;> rfl

theorem cycleMark_mirrorLink (x : Side) (k : Nat) (d : GEntry) (s : State) : cycleMark x (mirrorLink x k d s) = cycleMark x s := by
  unfold mirrorLink
  dsimp only
  split
  · cases x <;> rfl
  · rfl

theorem cycleMark_mirrorLoad (x : Side) (l : List GEntry) (s : State) : cycleMark x (mirrorLoad x l s) = cycleMark x s := by
  have hset : ∀ (u : State) (v : Bool), cycleMark x (u.setGraph x { u.graph x with ctl := v }) = cycleMark x u := by
    intro u v; cases x <;> rfl
  unfold mirrorLoad
  dsimp only
  rw [hset, cycleMark_ite]
  split
  · refine foldl_keep (cycleMark x) _ _ (fun u e _ => ?_) s
    rw [cycleMark_ite]
    split
    · rfl
    · refine (foldl_keep (cycleMark x) _ _ (fun u d _ => cycleMark_mirrorLink ..) _).trans ?_
      split
      · exact cycleMark_modInst ..
      · rfl
  · rfl

/-- The state in which a tick finds the side, after the overruns of the cycle that ends and what a takeover brings. -/
theorem beforeTick_reads (x : Side) (k : Nat) (l : List GEntry) (s : State) :
    let u := mirrorLoad x l (takeShares (rateOverruns x k s))
    cycleMark x u = cycleMark x s ∧ u.ridge = s.ridge ∧ u.now = s.now := by
  have hrate : Own [] [⟨0x3000, 0x3000, 5, 5⟩] s (rateOverruns x k s) := Own.rateOverruns (by decide) (Own.same s)
  have hshares : Own [.graphs] [⟨0x9100, 0x910F, 4, 4⟩] (rateOverruns x k s) (takeShares (rateOverruns x k s)) :=
    Own.takeShares (by decide) (by decide) (Own.same _)
  have hload : Own [.graphs] [] _ (mirrorLoad x l (takeShares (rateOverruns x k s))) := Own.mirrorLoad (by decide) (Own.same _)
  refine ⟨(cycleMark_mirrorLoad ..).trans (Eq.trans ?_ (cycleMark_of (hrate.graphs (by decide)))), ?_, ?_⟩
  · have hfold := foldl_keep State.graphs ((rateOverruns x k s).graphs.shares.filter (fun e => decide (e.2.1 ≤ (rateOverruns x k s).ridge)))
      (fun s e => s.setBlob (0x9100 + e.1 % 16) 4 (bytesOf32 e.2.2)) (fun s e _ => rfl) (rateOverruns x k s)
    unfold takeShares cycleMark
    cases x <;> simp [State.graph, hfold]
  · exact (hload.time (by decide)).trans ((hshares.time (by decide)).trans (hrate.time (by decide)))
  · exact (hload.now (by decide)).trans ((hshares.now (by decide)).trans (hrate.now (by decide)))

theorem cycleMark_tickSide (x : Side) (k v : Nat) (s : State) : cycleMark x (tickSide x k v s) =
    (true, s.ridge, s.now, v, (if (s.graph x).started then ((s.graph x).index + 1) % hyper (slotSched s k) else 0), [], false) := by
  obtain ⟨hmark, hridge, hnow⟩ := beforeTick_reads x k (slotGraph s k) s
  unfold tickSide
  dsimp only
  generalize mirrorLoad x (slotGraph s k) (takeShares (rateOverruns x k s)) = u at hmark hridge hnow ⊢
  have hplate : ∀ (u : State) p, cycleMark x { u with plate := p } = cycleMark x u := fun _ _ => rfl
  rw [cycleMark_ite, hplate, ite_self, cycleMark_sleepLanes, cycleMark_countEvent,
    foldl_keep (cycleMark x) _ _ (fun u g _ => cycleMark_swapCheck ..), foldl_keep (cycleMark x) _ _ (fun u e _ => cycleMark_freezeInst ..),
    foldl_keep (cycleMark x) _ _ (fun u e _ => cycleMark_instTick ..)]
  have hfields : (u.graph x).started = (s.graph x).started ∧ (u.graph x).index = (s.graph x).index := by
    simp only [cycleMark, Prod.mk.injEq] at hmark
    exact ⟨hmark.1, hmark.2.2.2.2.1⟩
  simp [cycleMark, hridge, hnow, hfields]

/-- Period writes that act at a tick leave the graphs, time and the slot as they were. -/
theorem applyPeriods_reads {k : Nat} (hk : k < 2) (s : State) :
    let u := applyWaiting [4] s
    u.graphs = s.graphs ∧ u.ridge = s.ridge ∧ u.now = s.now ∧ slotSched u k = slotSched s k := by
  have hown : Own [.plate] [⟨0x5140, 0x515F, 2, 2⟩] s (applyWaiting [4] s) := Own.applyWaiting (by decide) (by decide) (Own.same s)
  refine ⟨hown.graphs (by decide), hown.time (by decide), hown.now (by decide), hown.blobKept _ _ ?_ ?_⟩
  · exact evKey_eq_false (by omega) (by omega)
  · simp [Objs.has]; omega

/-! ### The commits of a compare writer, found by a later command (R223) -/

/-- A side's commits given but not yet issued, and its update groups found partial. -/
def sillView (x : Side) (s : State) : Option (Nat × Nat) × (Nat → Option Nat) :=
  ((s.graph x).commits, fun u => ((s.sill x).update u).partialAt)

theorem sillView_of {x : Side} {s u : State} (hg : u.graph x = s.graph x) (hs : u.sill x = s.sill x) : sillView x u = sillView x s := by
  simp only [sillView, hg, hs]

/-- An operation that does not move the graphs, or the plate, keeps each side's. -/
theorem graph_of_own {P : List Part} {G : List Objs} {s u : State} (h : Own P G s u) (hp : Part.graphs ∉ P) (x : Side) : u.graph x = s.graph x := by
  simp only [State.graph, h.graphs hp]

theorem sill_of_own {P : List Part} {G : List Objs} {s u : State} (h : Own P G s u) (hp : Part.plate ∉ P) (x : Side) : u.sill x = s.sill x := by
  have ha := congrArg Plate.a (h.plate hp)
  have hb := congrArg Plate.b (h.plate hp)
  cases x
  · exact ha
  · exact hb

theorem sillView_ite (x : Side) (p : Prop) [Decidable p] (a b : State) :
    sillView x (if p then a else b) = if p then sillView x a else sillView x b := by split <;> rfl

theorem sillView_modPair (x y : Side) (p : Nat) (f : SillPair → SillPair) (s : State) : sillView x (s.modPair y p f) = sillView x s := by
  cases x <;> cases y <;> rfl

theorem sillView_modCarrier (x y : Side) (g : Nat) (f : Carrier → Carrier) (s : State) : sillView x (s.modCarrier y g f) = sillView x s := by
  cases x <;> cases y <;> rfl

theorem sillView_setUpdate (x : Side) (u : Nat) (v : Update) (s : State) :
    sillView x (s.setUpdate x u v) = ((sillView x s).1, fun w => if w = u then v.partialAt else (sillView x s).2 w) := by
  cases x <;> simp [sillView, State.setUpdate, State.setSill, State.graph, State.sill, Sill.update, get_put] <;>
    exact funext fun w => apply_ite Update.partialAt _ _ _

theorem sillView_setUpdate_other {x y : Side} (h : x ≠ y) (u : Nat) (v : Update) (s : State) : sillView x (s.setUpdate y u v) = sillView x s := by
  cases x <;> cases y <;> first | exact absurd rfl h | rfl

theorem sillView_windowClosed (x y : Side) (u : Nat) (s : State) : sillView x (windowClosed y u s) = sillView x s := by
  unfold windowClosed
  rw [sillView_ite]
  split
  · exact sillView_of (by simp) (by simp)
  · rfl

theorem sillView_atRidge (x : Side) (r : Nat) {f : State → State} (h : ∀ s, sillView x (f s) = sillView x s) (s : State) :
    sillView x (atRidge r f s) = sillView x s := h { s with ridge := r }

/-- A commit leaves its update group whole, and the others as they were. -/
theorem sillView_commitUpdate (x : Side) (u : Nat) (s : State) :
    sillView x (commitUpdate x u s) = ((sillView x s).1, fun w => if w = u then none else (sillView x s).2 w) := by
  unfold commitUpdate
  dsimp only
  rw [sillView_ite, sillView_windowClosed, ite_self, sillView_setUpdate, foldl_keep (sillView x) _ _ (fun s g _ => sillView_modCarrier ..),
    foldl_keep (sillView x) _ _ (fun s p _ => sillView_modPair ..)]

theorem sillView_commitUpdate_other {x y : Side} (h : x ≠ y) (u : Nat) (s : State) : sillView x (commitUpdate y u s) = sillView x s := by
  unfold commitUpdate
  dsimp only
  rw [sillView_ite, sillView_windowClosed, ite_self, sillView_setUpdate_other h, foldl_keep (sillView x) _ _ (fun s g _ => sillView_modCarrier ..),
    foldl_keep (sillView x) _ _ (fun s p _ => sillView_modPair ..)]

theorem sillView_atInstant (x : Side) (t r : Nat) (f : State → State) (s : State) :
    sillView x (atInstant t r f s) = sillView x (f { s with now := t, ridge := r }) := rfl

/-- The commits of a list of update groups leave each of them whole, and whole ones stay so. -/
theorem partial_commits (x : Side) {u : Nat} (l : List Nat) (s : State) (hu : u ∈ l ∨ (sillView x s).2 u = none) :
    (sillView x (l.foldl (fun s v => commitUpdate x v s) s)).2 u = none := by
  induction l generalizing s with
  | nil => exact hu.resolve_left List.not_mem_nil
  | cons v l ih =>
    rw [List.foldl_cons]
    refine ih _ ?_
    rw [sillView_commitUpdate]
    by_cases huv : u = v
    · exact .inr (if_pos huv)
    · refine hu.imp (fun hmem => ?_) (fun hwhole => (if_neg huv).trans hwhole)
      exact (List.mem_cons.mp hmem).resolve_left huv

theorem dueCommits_whole {x : Side} {i m : Nat} {s : State} (h : (s.graph x).commits = some (i, m)) (hi : i ≤ s.now) :
    (sillView x (dueCommits x s)).1 = none ∧ ∀ u < 32, m.testBit u = true → (sillView x (dueCommits x s)).2 u = none := by
  have hset : ∀ t r, (sillView x { s.setGraph x { s.graph x with commits := none } with now := t, ridge := r }).1 = none := by
    intro t r; cases x <;> rfl
  simp only [dueCommits, h, hi, if_true, sillView_atInstant, forMask]
  refine ⟨(foldl_keep (fun s => (sillView x s).1) _ _ (fun s w _ => by rw [sillView_commitUpdate]) _).trans (hset _ _), fun u hu hm => ?_⟩
  exact partial_commits x _ _ (.inl (by simp [maskList, hu, hm]))

theorem sillView_dueCommits_other {x y : Side} (hxy : x ≠ y) (s : State) : sillView x (dueCommits y s) = sillView x s := by
  unfold dueCommits
  split
  · split
    · rw [sillView_atInstant]
      refine (foldl_keep (sillView x) _ _ (fun s u _ => sillView_commitUpdate_other hxy u s) _).trans ?_
      cases x <;> cases y <;> first | exact absurd rfl hxy | rfl
    · rfl
  · rfl

theorem sillView_dueTorn (x y : Side) (s : State) : sillView x (dueTorn y s) = sillView x s := by
  have hmark : ∀ (u : Nat) (s : State), sillView x (s.setUpdate y u { (s.sill y).update u with tornAt := none }) = sillView x s := by
    intro u s
    by_cases hxy : x = y
    · subst hxy
      rw [sillView_setUpdate]
      exact Prod.ext rfl (funext fun w => by dsimp only [sillView]; split <;> simp [*])
    · exact sillView_setUpdate_other hxy ..
  refine forN_keep (sillView x) _ _ (fun u s _ => ?_) s
  dsimp only
  split
  · rw [sillView_ite, sillView_ite, hmark]
    split
    · split
      · exact (sillView_atRidge x _ (fun s => sillView_of (by simp) (by simp)) _).trans (hmark u s)
      · rfl
    · rfl
  · rfl

theorem sillView_dueTags (x y : Side) (s : State) : sillView x (dueTags y s) = sillView x s := by
  have htag : ∀ (e : SEntry) (ty : Nat) (s : State), sillView x (tagExecution y e ty s) = sillView x s := by
    intro e ty s
    have hown : Own [.scribe] [⟨0x8210, 0x8211, 6, 6⟩] s (tagExecution y e ty s) := Own.tagExecution (by decide) (by decide) (Own.same s)
    exact sillView_of (graph_of_own hown (by decide) x) (sill_of_own hown (by decide) x)
  unfold dueTags
  dsimp only
  split
  · rw [sillView_ite]
    split
    · rfl
    · refine (foldl_keep (sillView x) _ _ (fun s p _ => ?_) _).trans (by cases x <;> cases y <;> rfl)
      split
      · exact htag ..
      · rfl
  · rfl

theorem dueSills_whole {x : Side} {i m : Nat} {s : State} (h : (s.graph x).commits = some (i, m)) (hi : i ≤ s.now) :
    (sillView x (dueSills s)).1 = none ∧ ∀ u < 32, m.testBit u = true → (sillView x (dueSills s)).2 u = none := by
  simp only [dueSills, sillView_dueTags, sillView_dueTorn]
  cases x
  · rw [sillView_dueCommits_other (by decide)]
    exact dueCommits_whole h hi
  · have hother := sillView_dueCommits_other (x := .B) (y := .A) (by decide) s
    have htime : Own [.graphs, .plate] [⟨0x5140, 0x515F, 2, 2⟩] s (dueCommits .A s) := Own.dueCommits (by decide) (by decide) (by decide) (Own.same s)
    refine dueCommits_whole ((congrArg Prod.fst hother).trans h) ?_
    rw [htime.now (by decide)]
    exact hi

/-- The parts that time moves before the sills' clock acts, and those that it moves after. -/
def partsBefore : List Part := [.time, .meas, .gf, .plate, .stacks, .sides, .safety, .clock, .plls, .scribe]

def partsAfter : List Part := [.meas, .clock, .plls, .sharing, .safety, .boot, .net, .out, .scribe, .gf, .stacks]

theorem passed_around_sills (s : State) (t : Nat) : ∃ v u, s.passed t = u ∧ Own partsBefore arriveObjs s v ∧ Own partsAfter arriveObjs (dueSills v) u := by
  have c : Cov arriveObjs arriveObjs := by decide
  let v := dueTruss .B (dueTruss .A (if sameClock s.now t then s else dueFrozen s))
  let w := dueCounters v.now ((noteSout v).passTime t)
  refine ⟨dueClears (effectiveTime w) w, s.passed t, rfl, ?_, ?_⟩
  rotate_left
  · change Own _ _ _ (noteSout (dueSlot _))
    repeat' first
    | with_reducible exact Own.same _
    | with_reducible apply Own.noteSout | with_reducible apply Own.clkDue | with_reducible apply Own.dueRefs
    | with_reducible apply Own.dueLink | with_reducible apply Own.dueSems | with_reducible apply Own.dueSlots
    | with_reducible apply Own.dueSlot
    | with_reducible apply Own.judgeAlign | with_reducible apply Own.sweepSwaps | decide
  · repeat' first
    | with_reducible apply Own.noteSout | with_reducible apply Own.dueFrozen
    | with_reducible apply Own.dueTruss  | with_reducible apply Own.dueClears | with_reducible apply Own.dueCounters
    | with_reducible apply Own.passTime | decide | with_reducible exact Own.same _
    | with_reducible refine Own.branch (fun _ => ?_) (fun _ => ?_)

/-- What falls due by time alone issues the commits whose instant has come, each group of their mask then whole. -/
theorem passed_whole {x : Side} {i m t : Nat} {s : State} (h : (s.graph x).commits = some (i, m)) (hi : i ≤ (s.passed t).now) :
    ((s.passed t).graph x).commits = none ∧ ∀ u < 32, m.testBit u = true → (((s.passed t).sill x).update u).partialAt = none := by
  obtain ⟨v, u, hu, hbefore, hafter⟩ := passed_around_sills s t
  have hsills : Own [.graphs, .plate, .scribe] [⟨0x5140, 0x515F, 2, 2⟩, ⟨0x8210, 0x8211, 6, 6⟩] v (dueSills v) := by
    unfold dueSills
    repeat' first
    | with_reducible exact Own.same _
    | with_reducible apply Own.dueTags | with_reducible apply Own.dueTorn | with_reducible apply Own.dueCommits | decide
  have hview : sillView x u = sillView x (dueSills v) :=
    sillView_of (graph_of_own hafter (by decide) x) (sill_of_own hafter (by decide) x)
  have hnow : u.now = v.now := (hafter.now (by decide)).trans (hsills.now (by decide))
  rw [hu] at hi ⊢
  have hcommits : (v.graph x).commits = some (i, m) := by rw [graph_of_own hbefore (by decide) x, h]
  have hwhole := dueSills_whole hcommits (hnow ▸ hi)
  rw [← hview] at hwhole
  exact hwhole

theorem arrive_without_restart {s : State} (h : s.boot.restartAt = none) (t : Nat) : s.arrive t = ({ s with out := [] } : State).passed t := by
  unfold State.arrive
  dsimp only
  rw [h]

theorem arrive_whole {x : Side} {i m t : Nat} {s : State} (hrestart : s.boot.restartAt = none) (h : (s.graph x).commits = some (i, m))
    (hi : i ≤ (s.arrive t).now) :
    ((s.arrive t).graph x).commits = none ∧ ∀ u < 32, m.testBit u = true → (((s.arrive t).sill x).update u).partialAt = none := by
  have hgraph : (({ s with out := [] } : State).graph x).commits = some (i, m) := by
    rw [← h]
    cases x <;> rfl
  rw [arrive_without_restart hrestart] at hi ⊢
  exact passed_whole hgraph hi

/-! ### The compare writer (R115, R119, R120) -/

theorem graph_setGraph_same (x : Side) (v : Graph) (s : State) : (s.setGraph x v).graph x = v := by cases x <;> rfl

theorem graph_setGraph_other (x : Side) (v : Graph) (s : State) : (s.setGraph x v).graph (otherSide x) = s.graph (otherSide x) := by
  cases x <;> rfl

/-- The compare writer's words go to the sill; in the graph it leaves its commits, 6 lane clocks after CompareStart, and a signature. -/
theorem graph_writeWords {k : Nat} (hk : k < 2) (x : Side) (bad : List Nat) (s : State) : ∃ m f, (writeWords x k bad s).graph x =
      { s.graph x with commits := if m = 0 then none else some (commitInstant s x k, m), fastSig := f } ∧
    (writeWords x k bad s).graph (otherSide x) = s.graph (otherSide x) := by
  unfold writeWords
  dsimp only
  generalize hvals : List.map _ (List.filter _ (compareWords s x k)) = vals
  have hown : Own [.plate] [] s (vals.foldl (fun s v => writeWord x v.1 v.2 s) s) :=
    Own.foldl (Own.same s) (fun u v _ => Own.writeWord (by decide) (Own.same u))
  have hcommit : commitInstant (vals.foldl (fun s v => writeWord x v.1 v.2 s) s) x k = commitInstant s x k := by
    have hsched : slotSched (vals.foldl (fun s v => writeWord x v.1 v.2 s) s) k = slotSched s k :=
      hown.blobKept _ _ (evKey_eq_false (by omega) (by omega)) (by simp)
    rw [commitInstant, hown.now (by decide), graph_of_own hown (by decide), hsched]
    rfl
  rw [hcommit, graph_setGraph_same, graph_setGraph_other, graph_of_own hown (by decide), graph_of_own hown (by decide)]
  exact ⟨_, _, rfl, rfl⟩

/-- A cycle without an overrun, the other side's without one too, is judged no fault (R120). -/
theorem judgeOverrun_without {x : Side} {s : State} (h : (s.graph x).overran = false) (hother : (s.graph (otherSide x)).overran = false) :
    judgeOverrun x s = s := by
  simp [judgeOverrun, h, hother]

/-- A second overrun running of a side in control alone holds the gates for cause 11 (R120). -/
theorem judgeOverrun_alone {x : Side} {s : State} (h : (s.graph x).overran = true) (hruns : 2 ≤ (s.graph x).overruns)
    (hcontrol : s.control = some x) (hother : s.inService (otherSide x) = false) : judgeOverrun x s = noteCause 11 (holdGates s) := by
  simp [judgeOverrun, h, hruns, hcontrol, hother]

/-- A cause noted with the gates held, in no SAFE_STOP. -/
theorem noteCause_holdGates_reads {code : Nat} {s : State} (h6 : s.gfState ≠ 6) :
    let u := noteCause code (holdGates s)
    u.plate.gateHold = true ∧ u.gf.causes = setBit s.gf.causes code true ∧ ∀ x, u.graph x = s.graph x := by
  have hheld : (holdGates s).gfState = s.gfState := by unfold holdGates; split <;> rfl
  simp only [noteCause, hheld, if_neg h6]
  simp only [holdGates, if_neg h6]
  exact ⟨trivial, trivial, fun x => by cases x <;> rfl⟩

/-- The reports of an overrun move no part of the machine. -/
theorem overrunReports_own {P : List Part} (x : Side) (l : List Nat) (s : State) :
    Own P [⟨0x3000, 0x3000, 4, 4⟩] s (countEvent (sideIx x) 0x11 1 0 (l.foldl (fun s j => (s.incSat 0x3000 4).raise 112 (sideIx x) j) s)) :=
  Own.countEvent (Own.foldl (Own.same s) (fun u j _ => Own.raise (Own.incSat (by decide) (Own.same u))))

/-- The compare writer of a cycle without an overrun. -/
theorem compareSide_clean {x : Side} {k : Nat} {s : State} (hk : k < 2) (hbad : overrunJoists s x k = [])
    (hother : (s.graph (otherSide x)).overran = false) :
    let g := (compareSide x k s).graph x
    g.compared = true ∧ g.overran = false ∧ g.overruns = 0 ∧ ∀ i m, g.commits = some (i, m) → i = commitInstant s x k := by
  obtain ⟨m, f, hg, ho⟩ := graph_writeWords hk x [] s
  have hjudge : ∀ v : Graph, v.overran = false → judgeOverrun x ((writeWords x k [] s).setGraph x v) = (writeWords x k [] s).setGraph x v :=
    fun v hv => judgeOverrun_without (by rw [graph_setGraph_same, hv]) (by rw [graph_setGraph_other, ho, hother])
  simp only [compareSide, hbad, List.isEmpty_nil, Bool.not_true, Bool.false_eq_true, if_false, List.foldl_nil]
  rw [hjudge _ rfl, graph_setGraph_same, hg]
  refine ⟨rfl, rfl, rfl, fun i m' h => ?_⟩
  dsimp only at h
  split at h
  · exact absurd h nofun
  · exact (congrArg Prod.fst (Option.some.inj h)).symm

/-- The compare writer of the only side, at its second overrun running. -/
theorem compareSide_overrun {x : Side} {k : Nat} {s : State} (hk : k < 2) (hbad : overrunJoists s x k ≠ []) (hcontrol : s.control = some x)
    (hother : s.inService (otherSide x) = false) (hruns : 1 ≤ (s.graph x).overruns) (h6 : s.gfState ≠ 6) :
    let u := compareSide x k s
    (u.graph x).overran = true ∧ u.plate.gateHold = true ∧ u.gf.causes.testBit 11 = true := by
  have hempty : (overrunJoists s x k).isEmpty = false := by simpa using hbad
  have hreports := fun P => overrunReports_own (P := P) x (overrunJoists s x k) s
  simp only [compareSide, hempty, Bool.not_false, if_true]
  generalize countEvent (sideIx x) 0x11 1 0 _ = u at hreports ⊢
  obtain ⟨m, f, hg, -⟩ := graph_writeWords hk x (overrunJoists s x k) u
  rw [graph_of_own (hreports []) (by decide)] at hg
  have hwords : Own [.graphs, .plate] [⟨0x3000, 0x3000, 4, 4⟩] s (writeWords x k (overrunJoists s x k) u) :=
    Own.writeWords (by decide) (by decide) (hreports _)
  generalize writeWords x k (overrunJoists s x k) u = w at hg hwords ⊢
  have hset : Own [.graphs, .plate] [⟨0x3000, 0x3000, 4, 4⟩] s (w.setGraph x
      { w.graph x with compared := true, overran := true, overruns := (w.graph x).overruns + 1 }) := Own.setGraph (by decide) hwords
  have hside := sideWords_of (hset.numKept 0x6021 1 rfl rfl)
  have hgf := (gfWords_of (hset.numKept 0x4001 3 rfl rfl)).1
  have hruns' : (w.graph x).overruns = (s.graph x).overruns := by rw [hg]
  rw [judgeOverrun_alone (by rw [graph_setGraph_same]) (by rw [graph_setGraph_same]; exact Nat.succ_le_succ (hruns' ▸ hruns)) (hside.2.2.2.1.trans hcontrol)
    ((hside.2.1 _).trans hother)]
  obtain ⟨hhold, hcauses, hgraphs⟩ := noteCause_holdGates_reads (code := 11) (fun h => h6 (hgf.symm.trans h))
  refine ⟨?_, hhold, by rw [hcauses, testBit_setBit, if_pos rfl]⟩
  rw [hgraphs, graph_setGraph_same]

/-! ### The switch of slots and the swap of parameters (R128 to R131, R153) -/

/-- A switch up to the new slot's own words: rate overruns, instances, parameter swaps cancelled, and the old slot's words. -/
def switchPrepared (k : Nat) (s : State) : State :=
  let old := s.activeSlot
  let s := match old with
    | some o => rateOverruns .B o (rateOverruns .A o s)
    | none => s
  let s := switchInsts .B old k (switchInsts .A old k s)
  let s := (s.graphs.swaps.map (fun e => e.1)).foldl (fun s g => cancelSwap g s) s
  match old with
    | some o => (ofKind 1 (slotGraph s o)).foldl (fun s e => s.setFld (instRecord o e) 4 0 0 0) (setSlotState o 1 s)
    | none => s

/-- The new slot's words (R129, R131). -/
def switchWords (k : Nat) (u : State) : State :=
  let s := setSlotState k 2 u
  let w := s.num 0x3000 2
  let w := setBits (setBits w 31 29 k) 15 0 (satInc 16 (w % 65536))
  let s := ((s.setNum 0x3000 2 w).setNum 0x3000 3 (toT96 s.ridge)).setNum 0x3000 6 (sampleToCompare (slotSched s k))
  { s with graphs := { s.graphs with switch := none } }.raise 114 k

theorem doSwitch_eq (k : Nat) (s : State) : doSwitch k s = switchWords k (switchPrepared k s) := rfl

/-- What a switch moves before the new slot's words. -/
def switchObjs : List Objs :=
  [⟨0x3000, 0x3000, 2, 2⟩, ⟨0x3000, 0x3000, 5, 5⟩, ⟨0x3100, 0x3101, 4, 4⟩, ⟨0x3300, 0x3300, 2, 2⟩, ⟨0x3400, 0x3BFF, 4, 4⟩]

theorem switchPrepared_own (k : Nat) (s : State) : Own [.graphs] switchObjs s (switchPrepared k s) := by
  have hcancel : ∀ (l : List Nat) (u : State), Own [.graphs] switchObjs s u →
      Own [.graphs] switchObjs s (l.foldl (fun s g => cancelSwap g s) u) :=
    fun l u hu => Own.foldl hu fun v g _ => Own.cancelSwap (by decide) (by decide) (Own.same v)
  have hcov : Cov switchObjs [⟨0x3400, 0x3BFF, 4, 4⟩] := by decide
  unfold switchPrepared
  dsimp only
  cases hold : s.activeSlot with
  | none => exact hcancel _ _ (Own.switchInsts (by decide) (Own.switchInsts (by decide) (Own.same s)))
  | some o =>
    refine Own.foldl (Own.setSlotState (by decide) (activeSlot_lt hold) (hcancel _ _ (Own.switchInsts (by decide)
      (Own.switchInsts (by decide) (Own.rateOverruns (by decide) (Own.rateOverruns (by decide) (Own.same s)))))))
      (fun u e _ => Own.setFld (hcov.rec (sub := 4) (last := 4) rfl (by decide) (by decide) (by decide)) (Own.same u))

theorem sizeOf_slots : sizeOf 0x3000 2 = 4 ∧ sizeOf 0x3000 3 = 12 ∧ ∀ k < 2, sizeOf (0x3100 + k) 4 = 1 := by decide

theorem activeSlot_of_bits {k : Nat} {s : State} (hk : k < 2)
    (h : ∀ i, 29 ≤ i → i < 32 → (s.num 0x3000 2).testBit i = k.testBit (i - 29)) : s.activeSlot = some k := by
  have hnone : s.bit 0x3000 2 30 = false := by
    rw [State.bit, h 30 (by decide) (by decide)]
    exact Nat.testBit_lt_two_pow hk
  have hslot : s.fld 0x3000 2 29 29 = k := by
    refine Nat.eq_of_testBit_eq fun i => ?_
    rw [State.fld, testBit_bits]
    by_cases hi : i = 0
    · subst hi
      simpa using h 29 (by decide) (by decide)
    · have hle : 2 ^ 1 ≤ 2 ^ i := Nat.pow_le_pow_right (by decide) (Nat.pos_of_ne_zero hi)
      rw [Nat.testBit_lt_two_pow (Nat.lt_of_lt_of_le hk hle)]
      simp [hi]
  simp [State.activeSlot, hnone, hslot]

theorem switchWords_reads {k : Nat} (hk : k < 2) (u : State) :
    let v := switchWords k u
    v.activeSlot = some k ∧ v.graphs.switch = none ∧ v.num (0x3100 + k) 4 = 2 ∧ v.num 0x3000 3 = toT96 u.ridge % 2 ^ 96 := by
  unfold switchWords
  dsimp only
  generalize hs : setSlotState k 2 u = s
  have hstate : s.num (0x3100 + k) 4 = 2 := by
    rw [← hs, setSlotState, num_setFld_far _ _ _ _ _ _ _ _ (by omega)]
    exact num_setNum_fits _ (by rw [sizeOf_slots.2.2 k hk]; decide)
  have hridge : s.ridge = u.ridge := by rw [← hs]; rfl
  generalize hw : setBits _ 15 0 _ = w
  have hbits : ∀ i, 29 ≤ i → i < 32 → (w % 2 ^ (8 * 4)).testBit i = k.testBit (i - 29) := by
    intro i hi hi'
    rw [← hw, Nat.testBit_mod_two_pow, testBit_setBits (by decide), testBit_setBits (by decide)]
    simp [show ¬ i < 29 by omega, show ¬ i ≤ 15 by omega, show i ≤ 31 by omega, hi']
  have hword : ∀ u, ((((s.setNum 0x3000 2 w).setNum 0x3000 3 (toT96 s.ridge)).setNum 0x3000 6 u).raise 114 k).num 0x3000 2 = w % 2 ^ (8 * 4) := by
    intro u
    rw [num_raise _ _ _ _ _ _ _ (by decide), num_setNum_far _ _ _ _ _ _ (by decide), num_setNum_far _ _ _ _ _ _ (by decide), num_setNum_same,
      sizeOf_slots.1]
  refine ⟨?_, by simp, ?_, ?_⟩
  · refine activeSlot_of_bits hk fun i hi hi' => ?_
    rw [← hbits i hi hi', ← hword (sampleToCompare (slotSched s k)), num_raise _ _ _ _ _ _ _ (by decide),
      num_raise _ _ _ _ _ _ _ (by decide)]
    rfl
  · rw [num_raise _ _ _ _ _ _ _ (evKey_eq_false (by omega) (by omega))]
    change State.num (((s.setNum 0x3000 2 w).setNum 0x3000 3 (toT96 s.ridge)).setNum 0x3000 6 _) _ _ = _
    rw [num_setNum_far _ _ _ _ _ _ (by omega), num_setNum_far _ _ _ _ _ _ (by omega), num_setNum_far _ _ _ _ _ _ (by omega), hstate]
  · rw [num_raise _ _ _ _ _ _ _ (by decide)]
    change State.num (((s.setNum 0x3000 2 w).setNum 0x3000 3 (toT96 s.ridge)).setNum 0x3000 6 _) _ _ = _
    rw [num_setNum_far _ _ _ _ _ _ (by decide), num_setNum_same, sizeOf_slots.2.1, hridge]

/-- An entry done, and counted, in its side's graph (R118, R119). -/
theorem entryDone_reads (x : Side) (k n lane cost ty : Nat) (s : State) :
    let g := (entryDone x k n lane (countEntry x cost ty s)).graph x
    g.done = (s.graph x).done ++ [n] ∧ g.inst = (s.graph x).inst := by
  have hcount : (countEntry x cost ty s).graph x = s.graph x :=
    graph_of_own (Own.countEntry (P := []) (G := []) (Own.same s)) (by decide) x
  simp only [entryDone, sleepLanes, graph_setGraph_same, hcount]
  exact ⟨trivial, trivial⟩

theorem graph_ended (s : State) (q : List Instr) (x : Side) : (s.ended q).graph x = s.graph x := by simp

theorem maskList_single_16 : ∀ g < 16, maskList 16 (2 ^ g) = [g] := by decide

theorem bit_graphs_set (s : State) (v : Graphs) (i j n : Nat) : ({ s with graphs := v } : State).bit i j n = s.bit i j n := rfl

theorem sizeOf_swapStatus : sizeOf 0x3300 2 = 4 := by decide

/-- Settles O26: the begin of a cycle, lanes woken, entries done, the compare writer and its commits, slot switches and parameter swaps. -/
theorem graphCompletes : Obligations.GraphCompletes := by
  intro s t b
  have hb : s.arrive t = b := rfl
  clear_value b
  refine ⟨fun x k v hfeeds hhalt hswitch hactive htick => ?_,
    fun x j l hj hl hfeeds hpow hwake hawake => ?_,
    fun x n k e d u hn hfeeds hhalt hactive hstarted hfind hclock hdone hcut hinst hrun => ?_,
    fun x k hfeeds hhalt hactive hstarted hcompared hclock hover hother => ?_,
    fun x i m hrestart hcommits hdue => ?_,
    fun x k hfeeds hhalt hactive hstarted hcompared hclock hover hcontrol hservice hruns h6 => ?_,
    fun w hw hhost hok => ?_,
    fun k hswitch hk => ?_,
    fun g hg hhost hok => ?_⟩
  · refine gives_of_run hb (execFastTick.eq_def ..) rfl ?_
    obtain ⟨hgraphs, hridge, hnow, hsched⟩ := applyPeriods_reads (activeSlot_lt hactive) b
    have hmark := cycleMark_tickSide x k v (applyWaiting [4] b)
    have hgraph : (applyWaiting [4] b).graph x = b.graph x := by simp only [State.graph, hgraphs]
    rw [hridge, hnow, hsched, hgraph] at hmark
    simp only [cycleMark, Prod.mk.injEq] at hmark
    simp [hfeeds, hhalt, takeSwitch, hswitch, takeTick, hactive, htick, hmark]
  · refine gives_of_run hb (execLaneWake.eq_def ..) (by simp_all [Instr.wf]) ?_
    simp only [hfeeds, hpow, hwake, hawake, Bool.and_self, Bool.not_false, if_true, graph_ended, graph_setGraph_same]
  · refine gives_of_run hb (execEntryExecution.eq_def ..) (decide_eq_true hn) ?_
    simp only [hfeeds, hhalt, hactive, runEntry, hfind, hstarted, hclock, hdone, hcut, hinst, hrun, Bool.not_true, Bool.or_self, Bool.false_eq_true,
      if_false, graph_ended]
    exact entryDone_reads ..
  · refine gives_of_run hb (execCompareWriter.eq_def ..) rfl ?_
    have hclean := compareSide_clean (activeSlot_lt hactive) hover hother
    simpa [hfeeds, hhalt, hactive, hstarted, hcompared, hclock, commitInstant] using hclean
  · rw [← hb] at hdue ⊢
    exact arrive_whole hrestart hcommits hdue
  · refine gives_of_run hb (execCompareWriter.eq_def ..) rfl ?_
    have hoverrun := compareSide_overrun (activeSlot_lt hactive) hover hcontrol hservice hruns h6
    simpa [hfeeds, hhalt, hactive, hstarted, hcompared, hclock] using hoverrun
  · refine gives_of_run hb (execGraphSwitchRequest.eq_def ..) (decide_eq_true hw) ?_
    simp [hhost, switchRequest, hok, evKey]
    exact State.bit_set b true (by rw [sizeOf_slots.1]; decide)
  · refine gives_of_run hb (execGraphSwitch.eq_def ..) rfl ?_
    have hwords := switchWords_reads hk (switchPrepared k b)
    rw [(switchPrepared_own k b).time (by decide)] at hwords
    simp only [takeSwitch, hswitch, doSwitch_eq]
    rw [num_ended _ _ _ _ (evKey_eq_false (by omega) (by omega)), num_ended _ _ _ _ (by decide)]
    simpa using hwords
  · have hlt : 2 ^ g < 2 ^ 16 := Nat.pow_lt_pow_right (by decide) hg
    refine gives_of_run hb (execParamSwapRequest.eq_def ..) (by simp [Instr.wf]; omega) ?_
    have hbit : (b.setBitO 0x3300 2 (16 + g) true).bit 0x3300 2 (16 + g) = true := State.bit_set b true (by rw [sizeOf_swapStatus]; omega)
    simp only [hhost, swapRequest, forMask, maskList_single_16 g hg, List.foldl_cons, List.foldl_nil, hok, if_true, Bool.false_eq_true, if_false]
    rw [bit_ended _ _ _ _ _ (by decide)]
    rw [bit_graphs_set]
    exact ⟨by simp [State.appTime], hbit⟩

end Sys2Proof
end

section
/-!
SUPPORT. The grid-forming machine: its times, its main tick in steps, its commands and transitions (chapter 6).
-/
namespace Sys2Proof
open Sys2Proof.Machine

/-! ### Times of the grid-forming machine (R190, R191, R195, R204) -/

theorem testBit_setHold (i : Nat) (s : State) : (setHold i true s).gf.holds.testBit i = true := by
  unfold setHold
  split
  · simp_all
  · simp [testBit_setBit]

theorem sizeOf_gfWords : sizeOf 0x4001 3 = 2 ∧ sizeOf 0x4001 5 = 2 := by decide

theorem releaseClose_reads (s : State) :
    (releaseClose s).closeActive = false ∧ (releaseClose s).gf.closeAt = none ∧ (releaseClose s).now = s.now ∧ (releaseClose s).sides = s.sides := by
  refine ⟨?_, rfl, rfl, rfl⟩
  have hbit : (s.setBitO 0x4001 3 7 false).bit 0x4001 3 7 = false := State.bit_set s false (by rw [sizeOf_gfWords.1]; decide)
  exact hbit

/-- A maximum time that has run out is a cause, and the first time it is, an event. -/
theorem maxTime_reads {st ev fs : Nat} {s : State} (h : s.gfState = st) (h6 : st ≠ 6) (hdue : s.gf.enteredAt + fs ≤ s.now) (he : ev < 256)
    (q : List Instr) : let u := (maxTime st ev fs s).ended q
    u.gf.causes.testBit 13 = true ∧ (s.gf.causes.testBit 13 = false → (s.blob 0x1200 1).length = 32 → blobBit (u.blob 0x1200 1) ev = true) := by
  have h6' : s.gfState ≠ 6 := h ▸ h6
  cases hcause : s.gf.causes.testBit 13 with
  | true => simp [maxTime, hcause]
  | false =>
    have hnoted : (noteCause 13 s).gf.causes.testBit 13 = true := by simp [noteCause, h6', testBit_setBit]
    have hblob : (noteCause 13 s).blob 0x1200 1 = s.blob 0x1200 1 := by rw [noteCause, if_neg h6']; rfl
    have hraised : maxTime st ev fs s = (noteCause 13 s).raise ev := by simp [maxTime, h, hdue, hcause]
    rw [hraised]
    exact ⟨by simp [hnoted], fun _ hlen => pending_raise_ended (by rw [hblob, hlen]; omega) ..⟩

/-- Settles O30: the causes and events of LimitEntryTime, RideMaxTime, BlackStartMaxTime and ResyncMaxTime, and the breaker's close output. -/
theorem gridFormTimesComplete : Obligations.GridFormTimesComplete := by
  intro s t b told
  have hb : s.arrive t = b := rfl
  clear_value b
  refine ⟨fun q hlimit hdue => ?_,
    fun h4 hdue => ?_,
    fun h1 hdue => ?_,
    fun h5 hdue => ?_,
    fun d hd => ?_,
    fun q hclose hactive hdue => ?_⟩
  · refine gives_of_run hb (execLimitEntry.eq_def ..) rfl ?_
    simp [limitDue, hlimit, hdue, testBit_setHold]
  · exact gives_of_run hb (execRideTimeout.eq_def ..) rfl (maxTime_reads h4 (by decide) hdue (by decide) _)
  · exact gives_of_run hb (execBlackStartTimeout.eq_def ..) rfl (maxTime_reads h1 (by decide) hdue (by decide) _)
  · refine gives_of_run hb (execResyncTimeout.eq_def ..) rfl ?_
    cases hout : b.gf.resyncOut with
    | true => simp [resyncMax, hout]
    | false =>
      have hraised : resyncMax b = ({ b with gf := { b.gf with resyncOut := true } } : State).raise 126 := by simp [resyncMax, h5, hdue, hout]
      rw [hraised]
      exact ⟨by simp, fun _ hlen => pending_raise_ended (s := { b with gf := { b.gf with resyncOut := true } })
        (show 126 / 8 < (b.blob 0x1200 1).length by rw [hlen]; decide) ..⟩
  · refine gives_of_run hb (execBreakerDinChange.eq_def ..) (decide_eq_true hd) ?_
    have hclosed : d.testBit (b.fld 0x4002 1 23 20) ≠ b.bit 0x4002 1 28 → breakerClosed { b with sides := { b.sides with dinLevel := d } } = true :=
      fun h => by simpa [breakerClosed] using h
    refine ⟨?_, fun hactive hdin => ?_⟩
    · simp only [releaseOnClosed]
      split <;> simp [releaseClose_reads]
    · simp [releaseOnClosed, hactive, hclosed hdin, releaseClose_reads]
  · refine gives_of_run hb (execBreakerFail.eq_def ..) rfl ?_
    simp [hclose, hactive, hdue, releaseClose_reads]

/-! ### The word of the grid-forming state (Table 06.4) -/

/-- The state of the grid-forming machine, the state it left and the cause, in their word. -/
def gfWord (s : State) : Nat × Nat × Nat := (s.gfState, s.fld 0x4001 3 11 8, s.fld 0x4001 3 15 12)

theorem gfWord_of {s u : State} (h : u.num 0x4001 3 = s.num 0x4001 3) : gfWord u = gfWord s := by
  simp only [gfWord, State.gfState, State.fld, h]

theorem gfWord_ite (p : Prop) [Decidable p] (a b : State) : gfWord (if p then a else b) = if p then gfWord a else gfWord b := by split <;> rfl

theorem gfWord_raise (e p0 p1 p2 : Nat) (s : State) : gfWord (s.raise e p0 p1 p2) = gfWord s := gfWord_of (by simp [evKey])

theorem gfWord_ended (s : State) (q : List Instr) : gfWord (s.ended q) = gfWord s := gfWord_of (by simp [evKey])

/-- The bits of StartArmed and CloseActive lie beside those fields. -/
theorem gfWord_setBitO {n : Nat} (h : n = 5 ∨ n = 7) (v : Bool) (s : State) : gfWord (s.setBitO 0x4001 3 n v) = gfWord s := by
  have hfld : ∀ hi lo, hi < 16 → hi < n ∨ n < lo → (s.setBitO 0x4001 3 n v).fld 0x4001 3 hi lo = s.fld 0x4001 3 hi lo := fun hi lo hw ho =>
    fld_setBitO_apart s _ _ _ _ _ _ (by rw [sizeOf_gfWords.1]; exact hw) ho
  simp only [gfWord, State.gfState]
  rw [hfld 3 0 (by decide) (by omega), hfld 11 8 (by decide) (by omega), hfld 15 12 (by decide) (by omega)]

theorem gfWord_enterGf {dst cause : Nat} (hd : dst < 16) (hc : cause < 16) (s : State) : gfWord (enterGf dst cause s) = (dst, s.gfState, cause) := by
  obtain ⟨hstate, hleft, hcause⟩ := gfState_enterGf s dst cause hd hc
  rw [gfWord, hstate, hleft, hcause]

theorem gfWord_loadRotor (k : Nat) (s : State) : gfWord (loadRotor k s) = gfWord s :=
  gfWord_of ((Own.loadRotor (P := [.graphs]) (G := []) (by decide) (Own.same s)).numKept _ _ rfl rfl)

theorem gfWord_ackDouble (s : State) : gfWord (ackDouble s) = gfWord s :=
  gfWord_of ((Own.ackDouble (P := allParts) (G := outside 0x4001) (by decide) (by decide) (by decide) (by decide) (by decide) (by decide)
    (Own.same s)).numKept _ _ rfl rfl)

theorem gfWord_gf_set (s : State) (v : GridForm) : gfWord { s with gf := v } = gfWord s := rfl

/-- The state that a transition leads to: JOIN's by the breaker (R201). -/
def transDest (c : Trans) (s : State) : Nat := if c.prio = 11 then (if breakerClosed s && !s.bit 0x4002 1 29 then 3 else 2) else c.dest

theorem transDest_lt {c : Trans} (hd : c.dest < 7) (s : State) : transDest c s < 16 := by
  unfold transDest
  split
  · split <;> decide
  · omega

/-- A transition that takes effect enters its state, with its cause. -/
theorem gfWord_takeTrans {c : Trans} (hd : c.dest < 7) (hc : c.cause < 16) (s : State) :
    gfWord (takeTrans c s) = (transDest c s, s.gfState, c.cause) := by
  have hdest : transDest c s < 16 := transDest_lt hd s
  unfold takeTrans
  dsimp only
  rw [gfWord_ite, gfWord_ackDouble, ite_self, gfWord_ite, gfWord_loadRotor, ite_self, gfWord_ite, gfWord_gf_set, ite_self]
  refine (gfWord_enterGf hdest hc _).trans ?_
  have hraise : (if c.prio = 5 then s.raise 129 else s).gfState = s.gfState := by split <;> simp
  rw [hraise]

/-! ### A main tick, in steps (R193 to R196, R199, R202 to R204) -/

/-- The causes and times that a main tick finds, from its readings. -/
def tickCauses (l : List Reading) (s : State) : State := resyncMax (blackStartMax (rideMax (takeCauses l (noteUnknown l s))))

/-- The phase-slip profile of a main tick in RESYNC, and the close output released where the breaker shows closed (R202, R204). -/
def tickSlip (s : State) : State := if s.gfState = 5 then slipTick (releaseOnClosed s) else s

/-- What a main tick decides once its command has been evaluated. -/
def tickDecided (l : List Reading) (acc : Nat) (s : State) : State :=
  match dueTrans s true l acc with
    | some c => { s with gf := { s.gf with trans := some c } }
    | none => if s.gfState == 5 && closeWindow s l then { s with gf := { s.gf with closeNext := true } } else s

theorem mainTick_eq (s : State) : mainTick s =
    let u := coherentCheck (takePending (issueClose { s with gf := { s.gf with lastMain := s.now } }))
    let l := readings u true
    let r := evalCommand true l (tickCauses l u)
    refreshGf (tickDecided l r.1 (tickSlip r.2)) := by
  unfold mainTick tickDecided tickSlip tickCauses
  dsimp only <;> (generalize evalCommand true _ _ = r; rfl)

theorem tickCauses_own {G : List Objs} (l : List Reading) (s : State) : Own [.gf] G s (tickCauses l s) :=
  Own.resyncMax (by decide) (Own.blackStartMax (by decide) (Own.rideMax (by decide) (Own.takeCauses (by decide) (Own.noteUnknown (by decide) (Own.same s)))))

theorem gfWord_evalCommand (tick : Bool) (l : List Reading) (s : State) : gfWord (evalCommand tick l s).2 = gfWord s := by
  have hnum : ∀ (v : State) w, gfWord (v.setNum 0x4001 5 w) = gfWord v := fun v w => gfWord_of (num_setNum_far _ _ _ _ _ _ (by decide))
  unfold evalCommand
  split
  · rfl
  · dsimp only
    split
    · rfl
    · split
      · rw [gfWord_raise, hnum]; rfl
      · split
        · rw [gfWord_setBitO (.inl rfl), hnum]; rfl
        · split
          · rw [gfWord_setBitO (.inl rfl), hnum]; rfl
          · exact hnum ..

theorem gfWord_slipTick (s : State) : gfWord (slipTick s) = gfWord s :=
  gfWord_of ((Own.slipTick (P := [.gf]) (by decide) (by decide : Cov [⟨0x4002, 0x4002, 16, 16⟩, ⟨0x4002, 0x4002, 17, 17⟩] _) (Own.same s)).numKept _ _
    rfl rfl)

theorem gfWord_releaseOnClosed (s : State) : gfWord (releaseOnClosed s) = gfWord s := by
  unfold releaseOnClosed
  rw [gfWord_ite]
  split
  · exact gfWord_setBitO (.inr rfl) ..
  · rfl

theorem gfWord_tickSlip (s : State) : gfWord (tickSlip s) = gfWord s := by
  unfold tickSlip
  rw [gfWord_ite, gfWord_slipTick, gfWord_releaseOnClosed, ite_self]

theorem gfWord_tickDecided (l : List Reading) (acc : Nat) (s : State) : gfWord (tickDecided l acc s) = gfWord s := by
  unfold tickDecided
  split
  · rfl
  · rw [gfWord_ite, gfWord_gf_set, ite_self]

theorem gfWord_refreshGf (s : State) : gfWord (refreshGf s) = gfWord s :=
  gfWord_of ((Own.refreshGf (P := [.graphs]) (G := []) (by decide) (Own.same s)).numKept _ _ rfl rfl)

/-- After its pending transition a main tick enters no state. -/
theorem gfWord_mainTick (s : State) :
    gfWord (mainTick s) = gfWord (coherentCheck (takePending (issueClose { s with gf := { s.gf with lastMain := s.now } }))) := by
  rw [mainTick_eq]
  dsimp only
  rw [gfWord_refreshGf, gfWord_tickDecided, gfWord_tickSlip, gfWord_evalCommand]
  exact gfWord_of ((tickCauses_own (G := []) ..).numKept _ _ rfl rfl)

/-! ### Coherent starts, transitions, the idle evaluation and the end of RIDE_THROUGH (R191, R193, R195, R199) -/

/-- An entry keeps StartArmed. -/
theorem startArmed_enterGf {dst : Nat} (hd : dst < 16) (cause : Nat) (s : State) : (enterGf dst cause s).startArmed = s.startArmed := by
  have hleave : ∀ way (u : State), (leaveCommission way u).num 0x4001 3 = u.num 0x4001 3 := fun way u =>
    (Own.leaveCommission (P := allParts) (G := outside 0x4001) (by decide) (by decide) (by decide) (Own.same u)).numKept _ _ rfl rfl
  have hstop : ∀ u : State, (onSafeStop u).num 0x4001 3 = u.num 0x4001 3 := fun u =>
    (Own.onSafeStop (P := allParts) (G := outside 0x4001) (by decide) (by decide) (by decide) (by decide) (by decide) (by decide)
      (Own.same u)).numKept _ _ rfl rfl
  have hsources : ∀ u : State, (sourcesAtOnce u).num 0x4001 3 = u.num 0x4001 3 := fun u =>
    (Own.sourcesAtOnce (P := allParts) (G := outside 0x4001) (by decide) (by decide) (Own.same u)).numKept _ _ rfl rfl
  have hleave' : ∀ way (u : State), (if dst = 0 then u else leaveCommission way u).num 0x4001 3 = u.num 0x4001 3 := fun way u => by
    split
    · rfl
    · exact hleave way u
  have hstop' : ∀ u : State, (if dst = 6 then onSafeStop u else u).num 0x4001 3 = u.num 0x4001 3 := fun u => by
    split
    · exact hstop u
    · rfl
  have hfirst : ∃ u : State, u.bit 0x4001 3 5 = s.startArmed ∧ (enterGf dst cause s).num 0x4001 3 =
      (cause <<< 12 ||| s.gfState <<< 8 ||| (u.num 0x4001 3 % 256 / 16 * 16) ||| dst) % 2 ^ 16 := by
    refine ⟨if s.gfState = 5 then releaseClose s else if s.gfState = 6 then setEnables true s else s, ?_, ?_⟩
    · split
      · exact bit_setBitO_apart s _ _ _ _ _ (by rw [sizeOf_gfWords.1]; decide) (by decide)
      · split
        · simp [setEnables, State.startArmed]
        · rfl
    · simp only [enterGf]
      rw [num_raise _ _ _ _ _ _ _ (by decide), hsources, hstop']
      simp [hleave', sizeOf_gfWords]
  obtain ⟨u, hu, hnum⟩ := hfirst
  have hdst : dst.testBit 5 = false := Nat.testBit_lt_two_pow (Nat.lt_of_lt_of_le hd (by decide))
  have hword : (u.num 0x4001 3 % 256 / 16 * 16).testBit 5 = (u.num 0x4001 3).testBit 5 := by
    generalize u.num 0x4001 3 = w
    rw [Nat.testBit_eq_decide_div_mod_eq, Nat.testBit_eq_decide_div_mod_eq]
    congr 2
    omega
  rw [← hu]
  simp only [State.startArmed, State.bit, hnum, Nat.testBit_mod_two_pow, Nat.testBit_or, Nat.testBit_shiftLeft, hdst, hword]
  simp

theorem startArmed_of {s u : State} (h : u.num 0x4001 3 = s.num 0x4001 3) : u.startArmed = s.startArmed := by
  simp only [State.startArmed, State.bit, h]

/-- An armed coherent start at its instant, on a dead bus and a synchronised clock, enters BLACK_START (R199, R200). -/
theorem coherentCheck_starts {s : State} (harmed : s.startArmed = true) (hat : ofT96 (s.num 0x4001 2) ≤ s.ridge) (h0 : s.gfState = 0)
    (hsync : s.synced = true) (hdead : (readBinding s true 1).below (s.num 0x4002 7) = true) :
    (coherentCheck s).gfState = 1 ∧ (coherentCheck s).startArmed = false := by
  have hset := gfWord_setBitO (n := 5) (.inl rfl) false s
  have hoff : (s.setBitO 0x4001 3 5 false).startArmed = false := State.bit_set s false (by rw [sizeOf_gfWords.1]; decide)
  have hown : Own [] [⟨0x4001, 0x4001, 3, 3⟩] s (s.setBitO 0x4001 3 5 false) := Own.setBitO (by decide) (Own.same s)
  have hsync' : (s.setBitO 0x4001 3 5 false).synced = true := by
    rw [← hsync]
    exact bit_setBitO_far s _ _ _ _ _ _ _ (by decide)
  have hread : readBinding (s.setBitO 0x4001 3 5 false) true 1 = readBinding s true 1 := by simp [readBinding]
  have hlevel : (s.setBitO 0x4001 3 5 false).num 0x4002 7 = s.num 0x4002 7 := hown.numKept _ _ rfl rfl
  have hstate : (s.setBitO 0x4001 3 5 false).gfState = 0 := (congrArg Prod.fst hset).trans h0
  simp only [coherentCheck, harmed, Bool.not_true, Bool.false_or, decide_eq_true_eq, if_neg (Nat.not_lt.mpr hat)]
  generalize s.setBitO 0x4001 3 5 false = u at hoff hsync' hread hlevel hstate ⊢
  simp only [hstate, ne_eq, not_true_eq_false, if_false, hsync', hread, hlevel, hdead, Bool.not_true, Bool.false_eq_true]
  have hload : (loadRotor 1 (enterGf 1 0 u)).startArmed = (enterGf 1 0 u).startArmed :=
    startArmed_of ((Own.loadRotor (P := [.graphs]) (G := []) (by decide) (Own.same _)).numKept _ _ rfl rfl)
  refine ⟨?_, ?_⟩
  · have hword := (gfWord_loadRotor 1 (enterGf 1 0 u)).trans (gfWord_enterGf (by decide) (by decide) u)
    exact congrArg Prod.fst hword
  · rw [hload, startArmed_enterGf (by decide), hoff]

theorem startArmed_takeTrans {c : Trans} (hd : c.dest < 7) (s : State) : (takeTrans c s).startArmed = s.startArmed := by
  have hdest : transDest c s < 16 := transDest_lt hd s
  have hite : ∀ (p : Prop) [Decidable p] (a b : State), (if p then a else b).startArmed = if p then a.startArmed else b.startArmed :=
    fun p _ a b => by split <;> rfl
  have hload : ∀ k (u : State), (loadRotor k u).startArmed = u.startArmed := fun k u =>
    startArmed_of ((Own.loadRotor (P := [.graphs]) (G := []) (by decide) (Own.same u)).numKept _ _ rfl rfl)
  have hack : ∀ u : State, (ackDouble u).startArmed = u.startArmed := fun u =>
    startArmed_of ((Own.ackDouble (P := allParts) (G := outside 0x4001) (by decide) (by decide) (by decide) (by decide) (by decide) (by decide)
      (Own.same u)).numKept _ _ rfl rfl)
  have hgf : ∀ (u : State) (v : GridForm), ({ u with gf := v } : State).startArmed = u.startArmed := fun _ _ => rfl
  unfold takeTrans
  dsimp only
  rw [hite, hack, ite_self, hite, hload, ite_self, hite, hgf, ite_self]
  refine (startArmed_enterGf hdest ..).trans ?_
  rw [hite, startArmed_of (num_raise _ _ _ _ _ _ _ (by decide)), ite_self]

/-- A transition decided earlier takes effect at a main tick, before the rest (R193). -/
theorem gfWord_mainTick_trans {c : Trans} {s : State} (hclose : s.gf.closeNext = false) (harmed : s.startArmed = false)
    (htrans : s.gf.trans = some c) (hdec : c.decided < s.now) (hd : c.dest < 7) (hc : c.cause < 16) :
    gfWord (mainTick s) = (transDest c s, s.gfState, c.cause) := by
  have hpend : takePending (issueClose { s with gf := { s.gf with lastMain := s.now } }) =
      takeTrans c { s with gf := { s.gf with lastMain := s.now, trans := none } } := by
    simp [issueClose, hclose, takePending, htrans, hdec]
  have hunarmed : ∀ u : State, u.startArmed = false → coherentCheck u = u := fun u hu => by simp [coherentCheck, hu]
  have hkept : (takeTrans c { s with gf := { s.gf with lastMain := s.now, trans := none } }).startArmed = false :=
    (startArmed_takeTrans hd _).trans harmed
  rw [gfWord_mainTick, hpend, hunarmed _ hkept, gfWord_takeTrans hd hc]
  rfl

/-- A cause of SAFE_STOP, while no tick occurs, is entered at once (R193). -/
theorem gfWord_idleEval {s : State} (htrans : s.gf.trans = none) (h0 : s.gf.firstCause ≠ 0) (hc : s.gf.firstCause < 16) (h6 : s.gfState ≠ 6) :
    gfWord (idleEval s) = (6, s.gfState, s.gf.firstCause) := by
  have hmax : ∀ (st ev fs : Nat) (u : State), u.gf.firstCause ≠ 0 → (maxTime st ev fs u).gf.firstCause = u.gf.firstCause ∧
      gfWord (maxTime st ev fs u) = gfWord u := by
    intro st ev fs u hu
    unfold maxTime
    split
    · refine ⟨by simp [noteCause, hu]; split <;> rfl, (gfWord_raise ..).trans ?_⟩
      unfold noteCause
      split <;> rfl
    · exact ⟨rfl, rfl⟩
  have heval : ∀ (l : List Reading) (u : State), (evalCommand false l u).2.gf.firstCause = u.gf.firstCause := by
    intro l u
    unfold evalCommand
    split
    · rfl
    · dsimp only
      repeat' split
      all_goals simp
  unfold idleEval
  simp only [htrans]
  obtain ⟨hride, hrideWord⟩ := hmax 4 124 (msFs (s.num 0x4002 3)) s h0
  obtain ⟨hblack, hblackWord⟩ := hmax 1 125 (secFs ((rideMax s).num 0x4002 5)) (rideMax s) (by rw [rideMax, hride]; exact h0)
  have hword : gfWord (blackStartMax (rideMax s)) = gfWord s := hblackWord.trans hrideWord
  have hfirst : (blackStartMax (rideMax s)).gf.firstCause = s.gf.firstCause := hblack.trans hride
  generalize blackStartMax (rideMax s) = u at hword hfirst ⊢
  have hevalWord := gfWord_evalCommand false (readings s false) u
  have hevalFirst := heval (readings s false) u
  generalize evalCommand false (readings s false) u = r at hevalWord hevalFirst ⊢
  obtain ⟨acc, v⟩ := r
  rw [hword] at hevalWord
  rw [hfirst] at hevalFirst
  dsimp only at hevalWord hevalFirst ⊢
  have hstate : v.gfState = s.gfState := congrArg Prod.fst hevalWord
  have hcause : stopCause v = s.gf.firstCause := by simp [stopCause, hevalFirst, h0]
  have hdue : dueTrans v false (readings s false) acc = some ⟨6, s.gf.firstCause, 1, v.now⟩ := by
    simp [dueTrans, hstate, h6, hcause, h0]
  simp only [hdue]
  rw [gfWord_takeTrans (Nat.lt_succ_self 6) hc, hstate]
  rfl

/-- Settles O29: a coherent start, a transition that takes effect at a main tick or at the idle evaluation, and the end of RIDE_THROUGH. -/
theorem gridFormCompletes : Obligations.GridFormCompletes := by
  intro s t b
  have hb : s.arrive t = b := rfl
  clear_value b
  refine ⟨fun htick harmed hat h0 hsync hdead => ?_,
    fun dest c prio d htick hlast hclose harmed hdec htrans hdest hc => ?_,
    fun c hready hticks htrans hfirst h0 hc h6 => ?_,
    fun q htick h4 hquiet hdue htrans => ?_⟩
  · refine gives_of_run hb (execCoherentStart.eq_def ..) rfl ?_
    obtain ⟨hstate, hoff⟩ := coherentCheck_starts harmed hat h0 hsync hdead
    have hnum := (Own.refreshGf (P := [.graphs]) (G := []) (by decide) (Own.same (coherentCheck b))).numKept 0x4001 3 rfl rfl
    rw [if_pos htick]
    have hend : ((refreshGf (coherentCheck b)).ended s.pending).num 0x4001 3 = (coherentCheck b).num 0x4001 3 :=
      (num_ended _ _ _ _ (by decide)).trans hnum
    exact ⟨(gfWords_of hend).1.trans hstate, (startArmed_of hend).trans hoff⟩
  · refine gives_of_run hb (execGfMainTick.eq_def ..) rfl ?_
    have hword := (gfWord_ended _ s.pending).trans (gfWord_mainTick_trans hclose harmed htrans hdec hdest hc)
    simp only [gfWord, transDest, Prod.mk.injEq] at hword
    obtain ⟨hstate, hleft, hcause⟩ := hword
    rw [if_pos (by simp [htick, hlast])]
    exact ⟨hstate, hcause, hleft⟩
  · refine gives_of_run hb (execGfIdleEvaluation.eq_def ..) rfl ?_
    have hword := (gfWord_ended _ s.pending).trans (gfWord_idleEval htrans (by rw [hfirst]; omega) (by rw [hfirst]; exact hc) h6)
    simp only [gfWord, Prod.mk.injEq, hfirst] at hword
    obtain ⟨hstate, -, hcause⟩ := hword
    rw [if_pos (by simp [hready, hticks])]
    exact ⟨hstate, hcause⟩
  · refine gives_of_run hb (execRideExit.eq_def ..) rfl ?_
    simp [htick, h4, quietLong, hquiet, hdue, htrans]

/-! ### Commands of the grid-forming machine (R196, R199) -/

/-- An operation that moves the grid-forming part at most keeps every cause of SAFE_STOP but the one noted there. -/
theorem stopCause_of {G : List Objs} {u s : State} (h : Own [.gf] G s u) (hfirst : u.gf.firstCause = s.gf.firstCause)
    (hword : u.num 0x6800 2 = s.num 0x6800 2) (htrip : u.num 0x5310 3 = s.num 0x5310 3) : stopCause u = stopCause s := by
  have hmeas : u.meas = s.meas := h.meas (by decide)
  have hsafety : u.safety = s.safety := h.safety (by decide)
  unfold stopCause State.demandLatched sealFault testFail State.tripped State.bit
  rw [hfirst, hword, htrip, hmeas, hsafety]

/-- What commands rest on is left by an operation that moves the grid-forming part at most. -/
theorem gfReason_of {u s : State} (h : Own [.gf] [] s u) (hfirst : s.gfState = 6 → u.gf.firstCause = s.gf.firstCause) (tick : Bool) (l : List Reading)
    (code : Nat) (coherent : Bool) (app : Nat) : gfReason u tick l code coherent app = gfReason s tick l code coherent app := by
  have hnum : ∀ i j, evKey (i * 256 + j) = false → u.num i j = s.num i j := fun i j hev => h.numKept i j hev rfl
  have hbit : ∀ i j n, evKey (i * 256 + j) = false → u.bit i j n = s.bit i j n := fun i j n hev => by simp only [State.bit, hnum i j hev]
  have hstate : u.gfState = s.gfState := (gfWords_of (hnum 0x4001 3 rfl)).1
  have hbarred : s.gfState = 6 → ackBarred u = ackBarred s := fun h6 => by
    rw [ackBarred, ackBarred, stopCause_of h (hfirst h6) (hnum _ _ rfl) (hnum _ _ rfl), hbit 0x6800 2 30 rfl, State.permit, hbit 0x6800 2 31 rfl,
      State.permit]
  unfold gfReason
  simp only [hstate, hnum 0x4002 7 rfl, hnum 0x4002 8 rfl, hnum 0x4001 2 rfl, State.synced, State.startArmed, hbit 0x7000 5 31 rfl, hbit 0x4001 3 5 rfl]
  split <;> try rfl
  split
  · rfl
  · rename_i h6
    rw [hbarred (by simpa using h6)]

theorem gfReason_lt (s : State) (tick : Bool) (l : List Reading) (code : Nat) (coherent : Bool) (app : Nat) :
    gfReason s tick l code coherent app < 16 := by
  unfold gfReason
  dsimp only
  split
  all_goals repeat' split
  all_goals decide

/-- The waiting command, the first cause and the causes of RIDE_THROUGH. -/
def commandView (s : State) : Option (Nat × Bool × Nat) × Nat × Nat := (s.gf.cmd, s.gf.firstCause, s.gf.holds)

theorem commandView_noteUnknown (l : List Reading) (s : State) : commandView (noteUnknown l s) = commandView s := by
  refine forN_keep commandView _ _ (fun i s _ => ?_) s
  dsimp only
  split
  · simp [commandView]
  · rfl

theorem gf_setHold (i : Nat) (on : Bool) (s : State) : (setHold i on s).gf.cmd = s.gf.cmd ∧ (setHold i on s).gf.firstCause = s.gf.firstCause ∧
    (setHold i on s).gf.limitSince = s.gf.limitSince ∧
    ∀ j, (setHold i on s).gf.holds.testBit j = if j = i then on else s.gf.holds.testBit j := by
  unfold setHold
  split
  · rename_i h
    refine ⟨rfl, rfl, rfl, fun j => ?_⟩
    split
    · simp_all
    · rfl
  · exact ⟨rfl, rfl, rfl, fun j => testBit_setBit ..⟩

theorem takeCauses_reads (l : List Reading) (s : State) :
    (takeCauses l s).gf.cmd = s.gf.cmd ∧ (takeCauses l s).gf.firstCause = s.gf.firstCause := by
  unfold takeCauses
  simp only [gf_setHold]
  exact ⟨trivial, trivial⟩

/-- Where no binding of a cause is bound, none of the four holds after the readings. -/
theorem holds_takeCauses {l : List Reading} {s : State} (h5 : (rd l 5).bound = false) (h6 : (rd l 6).bound = false) (h7 : (rd l 7).bound = false)
    (hs : s.gf.holds < 16) : (takeCauses l s).gf.holds = 0 := by
  refine Nat.eq_of_testBit_eq fun j => ?_
  rw [Nat.zero_testBit]
  have hhigh : 4 ≤ j → s.gf.holds.testBit j = false := fun hj =>
    Nat.testBit_lt_two_pow (Nat.lt_of_lt_of_le hs (Nat.pow_le_pow_right (n := 2) (i := 4) (by decide) hj))
  unfold takeCauses limitDue
  simp only [gf_setHold, h5, h6, h7, Bool.false_and, Bool.false_eq_true, if_false]
  repeat' split
  all_goals first | rfl | exact hhigh (by omega)

theorem maxTime_keeps (st ev fs : Nat) (s : State) : (maxTime st ev fs s).gf.cmd = s.gf.cmd ∧ (maxTime st ev fs s).gf.holds = s.gf.holds ∧
    (maxTime st ev fs s).gfState = s.gfState ∧ (s.gfState ≠ st → maxTime st ev fs s = s) := by
  have hnote : ∀ c (u : State), (noteCause c u).gf.cmd = u.gf.cmd ∧ (noteCause c u).gf.holds = u.gf.holds ∧ (noteCause c u).gfState = u.gfState :=
    fun c u => by unfold noteCause; split <;> exact ⟨rfl, rfl, rfl⟩
  unfold maxTime
  refine ⟨?_, ?_, ?_, fun h => if_neg (by simp [h])⟩ <;> split <;> simp [hnote]

theorem resyncMax_keeps (s : State) : commandView (resyncMax s) = commandView s := by
  unfold resyncMax
  split
  · simp [commandView]
  · rfl

/-- The causes of a main tick leave the waiting command, in a state with no maximum time the first cause too, and the causes of RIDE_THROUGH as
the readings leave them. -/
theorem tickCauses_reads (l : List Reading) (s : State) : (tickCauses l s).gf.cmd = s.gf.cmd ∧
    (tickCauses l s).gf.holds = (takeCauses l (noteUnknown l s)).gf.holds ∧
    (s.gfState ≠ 1 → s.gfState ≠ 4 → (tickCauses l s).gf.firstCause = s.gf.firstCause) := by
  have hown : Own [.gf] [] s (takeCauses l (noteUnknown l s)) := Own.takeCauses (by decide) (Own.noteUnknown (by decide) (Own.same s))
  have hstate : (takeCauses l (noteUnknown l s)).gfState = s.gfState := (gfWords_of (hown.numKept 0x4001 3 rfl rfl)).1
  obtain ⟨hcmd, hfirst⟩ := takeCauses_reads l (noteUnknown l s)
  have hnote := commandView_noteUnknown l s
  simp only [commandView, Prod.mk.injEq] at hnote
  unfold tickCauses
  have hresync := resyncMax_keeps (blackStartMax (rideMax (takeCauses l (noteUnknown l s))))
  simp only [commandView, Prod.mk.injEq] at hresync
  generalize takeCauses l (noteUnknown l s) = u at *
  rw [hresync.1, hresync.2.1, hresync.2.2]
  unfold blackStartMax rideMax
  refine ⟨?_, ?_, fun h1 h4 => ?_⟩
  · rw [(maxTime_keeps ..).1, (maxTime_keeps ..).1, hcmd, hnote.1]
  · rw [(maxTime_keeps ..).2.1, (maxTime_keeps ..).2.1]
  · rw [(maxTime_keeps 4 _ _ u).2.2.2 (by rw [hstate]; exact h4), (maxTime_keeps 1 _ _ u).2.2.2 (by rw [hstate]; exact h1), hfirst, hnote.2.1]

theorem mainTick_quiet {s : State} (hclose : s.gf.closeNext = false) (htrans : s.gf.trans = none) (harmed : s.startArmed = false) : mainTick s =
    let r := evalCommand true (readings s true) (tickCauses (readings s true) { s with gf := { s.gf with lastMain := s.now } })
    refreshGf (tickDecided (readings s true) r.1 (tickSlip r.2)) := by
  have hclose' : issueClose { s with gf := { s.gf with lastMain := s.now } } = { s with gf := { s.gf with lastMain := s.now } } := by
    simp [issueClose, hclose]
  have htrans' : takePending { s with gf := { s.gf with lastMain := s.now } } = { s with gf := { s.gf with lastMain := s.now } } := by
    simp [takePending, htrans]
  have harmed' : coherentCheck { s with gf := { s.gf with lastMain := s.now } } = { s with gf := { s.gf with lastMain := s.now } } := by
    have h : ({ s with gf := { s.gf with lastMain := s.now } } : State).startArmed = false := harmed
    simp [coherentCheck, h]
  rw [mainTick_eq, hclose', htrans', harmed']
  rfl

/-- The waiting command with its answer in its word (R196). -/
def answered (code why : Nat) (s : State) : State := { s with gf := { s.gf with cmd := none } }.setNum 0x4001 5 (code <<< 12 ||| why)

theorem evalCommand_due {l : List Reading} {s : State} {code : Nat} {coherent : Bool} {app : Nat} (hcmd : s.gf.cmd = some (code, coherent, app))
    (happ : app ≤ s.ridge) : evalCommand true l s =
      let why := gfReason s true l code coherent app
      if why ≠ 0 then (0, (answered code why s).raise 123 code why)
      else if code = 1 && coherent then (0, (answered code why s).setBitO 0x4001 3 5 true)
      else if code = 7 then (0, (answered code why s).setBitO 0x4001 3 5 false)
      else (code, answered code why s) := by
  simp only [evalCommand, hcmd, answered, Bool.not_true, Bool.false_and, Bool.or_false, decide_eq_true_eq, if_neg (Nat.not_lt.mpr happ)]

/-- What the end of a main tick moves of the objects. -/
def tickObjs : List Objs := [⟨0x4001, 0x4001, 3, 3⟩, ⟨0x4002, 0x4002, 16, 16⟩, ⟨0x4002, 0x4002, 17, 17⟩]

theorem tickSlip_own {G : List Objs} (hG : Cov G tickObjs) (s : State) : Own [.gf] G s (tickSlip s) := by
  unfold tickSlip
  exact Own.ite (Own.slipTick (by decide) (hG.sub rfl) (Own.releaseOnClosed (by decide) (hG.sub rfl) (Own.same s))) (Own.same s)

theorem commandView_tickSlip (s : State) : commandView (tickSlip s) = commandView s := by
  have hrelease : ∀ u : State, commandView (releaseOnClosed u) = commandView u := fun u => by unfold releaseOnClosed; split <;> rfl
  unfold tickSlip slipTick
  split
  · split
    · exact hrelease s
    · exact hrelease s
  · rfl

theorem tickDecided_reads (l : List Reading) (acc : Nat) (s : State) :
    (tickDecided l acc s).gf.cmd = s.gf.cmd ∧ (∀ i j, (tickDecided l acc s).num i j = s.num i j) ∧
      ∀ c, dueTrans s true l acc = some c → (tickDecided l acc s).gf.trans = some c := by
  unfold tickDecided
  split
  · rename_i c hc
    exact ⟨rfl, fun _ _ => rfl, fun c' hc' => hc.symm.trans hc'⟩
  · rename_i hc
    refine ⟨?_, fun i j => ?_, fun c' hc' => absurd (hc.symm.trans hc') nofun⟩ <;> split <;> rfl

theorem refreshGf_own (s : State) : Own [.graphs] [] s (refreshGf s) := Own.refreshGf (by decide) (Own.same s)

/-- A command that is due is evaluated at a quiet main tick, and its answer shown (R196). -/
theorem mainTick_answers {s : State} {code : Nat} {coherent : Bool} {app : Nat} (hclose : s.gf.closeNext = false) (htrans : s.gf.trans = none)
    (harmed : s.startArmed = false) (hcode : code < 16) (hcmd : s.gf.cmd = some (code, coherent, app)) (happ : app ≤ s.ridge) :
    let why := gfReason s true (readings s true) code coherent app
    (mainTick s).gf.cmd = none ∧ (mainTick s).num 0x4001 5 = code <<< 12 ||| why ∧
      (code = 1 → coherent = true → why = 0 → (mainTick s).startArmed = true) := by
  intro why
  have hown : Own [.gf] [] s (tickCauses (readings s true) { s with gf := { s.gf with lastMain := s.now } }) :=
    (Own.gf_set (by decide) (Own.same s)).step (tickCauses_own ..)
  obtain ⟨hcmd', -, hfirst⟩ := tickCauses_reads (readings s true) { s with gf := { s.gf with lastMain := s.now } }
  have hwhy : gfReason (tickCauses (readings s true) { s with gf := { s.gf with lastMain := s.now } }) true (readings s true) code coherent app = why :=
    gfReason_of hown (fun h6 => hfirst (h6.symm ▸ by decide : s.gfState ≠ 1) (h6.symm ▸ by decide : s.gfState ≠ 4)) ..
  have hword : code <<< 12 ||| why < 2 ^ 16 :=
    Nat.or_lt_two_pow (by rw [Nat.shiftLeft_eq]; omega) (Nat.lt_of_lt_of_le (gfReason_lt ..) (by decide))
  rw [mainTick_quiet hclose htrans harmed]
  generalize tickCauses (readings s true) { s with gf := { s.gf with lastMain := s.now } } = u at hown hcmd' hwhy ⊢
  have heval := evalCommand_due (l := readings s true) (hcmd'.trans hcmd) (Nat.le_trans happ (Nat.le_of_eq (hown.time (by decide)).symm))
  simp only [hwhy] at heval
  have hanswer : (answered code why u).gf.cmd = none ∧ (answered code why u).num 0x4001 5 = code <<< 12 ||| why :=
    ⟨rfl, by rw [answered, num_setNum_same, sizeOf_gfWords.2, Nat.mod_eq_of_lt hword]⟩
  have hr : (evalCommand true (readings s true) u).2.gf.cmd = none ∧
      (evalCommand true (readings s true) u).2.num 0x4001 5 = code <<< 12 ||| why := by
    rw [heval]
    repeat' split
    all_goals simp [hanswer, evKey]
  dsimp only
  have hslip := tickSlip_own (G := tickObjs) (by decide) (evalCommand true (readings s true) u).2
  have hview := congrArg Prod.fst (commandView_tickSlip (evalCommand true (readings s true) u).2)
  obtain ⟨hdcmd, hdnum, -⟩ := tickDecided_reads (readings s true) (evalCommand true (readings s true) u).1
    (tickSlip (evalCommand true (readings s true) u).2)
  have hrefresh := refreshGf_own (tickDecided (readings s true) (evalCommand true (readings s true) u).1
    (tickSlip (evalCommand true (readings s true) u).2))
  refine ⟨?_, ?_, fun h1 hcoh h0 => ?_⟩
  · rw [hrefresh.gf (by decide), hdcmd]
    exact hview.trans hr.1
  · rw [hrefresh.numKept _ _ rfl rfl, hdnum, hslip.numKept _ _ rfl rfl, hr.2]
  · have hstate : u.gfState = 0 := by
      rw [(gfWords_of (hown.numKept 0x4001 3 rfl rfl)).1]
      refine Classical.byContradiction fun hne => ?_
      simp [why, gfReason, h1, hne] at h0
    have hv : (evalCommand true (readings s true) u).2 = (answered code why u).setBitO 0x4001 3 5 true := by simp [heval, h0, h1, hcoh]
    have hvstate : ((answered code why u).setBitO 0x4001 3 5 true).gfState = 0 := by
      have hset := congrArg Prod.fst (gfWord_setBitO (n := 5) (.inl rfl) true (answered code why u))
      have hnum := gfWord_of (s := u) (u := answered code why u) (num_setNum_far _ _ _ _ _ _ (by decide))
      exact hset.trans ((congrArg Prod.fst hnum).trans hstate)
    rw [startArmed_of (hrefresh.numKept 0x4001 3 rfl rfl), startArmed_of (hdnum 0x4001 3), hv, tickSlip, if_neg (by rw [hvstate]; decide)]
    exact State.bit_set _ true (by rw [sizeOf_gfWords.1]; decide)

/-- A command accepted at a quiet main tick decides the transition that is due with it (R193, R199). -/
theorem mainTick_decides {s : State} {code app : Nat} {c : Machine.Trans} (hclose : s.gf.closeNext = false) (htrans : s.gf.trans = none)
    (harmed : s.startArmed = false) (hcmd : s.gf.cmd = some (code, false, app)) (happ : app ≤ s.ridge) (h7 : code ≠ 7)
    (hwhy : gfReason s true (readings s true) code false app = 0) (h1 : s.gfState ≠ 1) (h4 : s.gfState ≠ 4)
    (hdue : ∀ v : State, Own [.gf] (⟨0x4001, 0x4001, 5, 5⟩ :: tickObjs) s v → v.gfState = s.gfState → v.gf.firstCause = s.gf.firstCause →
      (s.gf.holds < 16 → 512 ≤ s.num 0x4010 5 → 512 ≤ s.num 0x4010 6 → 512 ≤ s.num 0x4010 7 → v.gf.holds = 0) →
      dueTrans v true (readings s true) code = some c) :
    (mainTick s).gf.cmd = none ∧ (mainTick s).gf.trans = some c := by
  have hown : Own [.gf] [] s (tickCauses (readings s true) { s with gf := { s.gf with lastMain := s.now } }) :=
    (Own.gf_set (by decide) (Own.same s)).step (tickCauses_own ..)
  have howned : Own [.gf] (⟨0x4001, 0x4001, 5, 5⟩ :: tickObjs) s (tickCauses (readings s true) { s with gf := { s.gf with lastMain := s.now } }) :=
    (Own.gf_set (by decide) (Own.same s)).step (tickCauses_own ..)
  obtain ⟨hcmd', hholds, hfirst⟩ := tickCauses_reads (readings s true) { s with gf := { s.gf with lastMain := s.now } }
  have hfirst' := hfirst h1 h4
  have hreason := (gfReason_of hown (fun _ => hfirst') true (readings s true) code false app).trans hwhy
  have hquiet : s.gf.holds < 16 → 512 ≤ s.num 0x4010 5 → 512 ≤ s.num 0x4010 6 → 512 ≤ s.num 0x4010 7 →
      (tickCauses (readings s true) { s with gf := { s.gf with lastMain := s.now } }).gf.holds = 0 := by
    intro h h5 h6 h7
    rw [hholds]
    have hnote := congrArg (fun p => p.2.2) (commandView_noteUnknown (readings s true) { s with gf := { s.gf with lastMain := s.now } })
    have hread : ∀ sub, 512 ≤ s.num 0x4010 sub → readBinding s true sub = ⟨none, false⟩ := fun sub hsub => if_pos hsub
    exact holds_takeCauses (congrArg Reading.bound (hread 5 h5)) (congrArg Reading.bound (hread 6 h6)) (congrArg Reading.bound (hread 7 h7))
      (Nat.lt_of_le_of_lt (Nat.le_of_eq hnote) h)
  rw [mainTick_quiet hclose htrans harmed]
  generalize tickCauses (readings s true) { s with gf := { s.gf with lastMain := s.now } } = u at hown howned hcmd' hfirst' hreason hquiet ⊢
  have heval := evalCommand_due (l := readings s true) (hcmd'.trans hcmd) (Nat.le_trans happ (Nat.le_of_eq (hown.time (by decide)).symm))
  have heval' : evalCommand true (readings s true) u = (code, answered code 0 u) := by simpa [hreason, h7] using heval
  dsimp only
  rw [heval']
  have hview := commandView_tickSlip (answered code 0 u)
  have hstate : (answered code 0 u).gfState = s.gfState := by
    have hnum := gfWord_of (s := u) (u := answered code 0 u) (num_setNum_far _ _ _ _ _ _ (by decide))
    exact (congrArg Prod.fst hnum).trans (gfWords_of (hown.numKept 0x4001 3 rfl rfl)).1
  simp only [commandView, Prod.mk.injEq] at hview
  obtain ⟨hvcmd, hvfirst, hvholds⟩ := hview
  have hall : Own [.gf] (⟨0x4001, 0x4001, 5, 5⟩ :: tickObjs) s (tickSlip (answered code 0 u)) :=
    (howned.step (Own.setNum (by decide) (Own.gf_set (by decide) (Own.same u)))).step (tickSlip_own (by decide) _)
  obtain ⟨hdcmd, -, hdtrans⟩ := tickDecided_reads (readings s true) code (tickSlip (answered code 0 u))
  have hrefresh := refreshGf_own (tickDecided (readings s true) code (tickSlip (answered code 0 u)))
  rw [hrefresh.gf (by decide), hdcmd]
  refine ⟨hvcmd, hdtrans c (hdue _ hall ?_ (hvfirst.trans hfirst') fun h h5 h6 h7 => hvholds.trans (hquiet h h5 h6 h7))⟩
  exact (congrArg Prod.fst (gfWord_tickSlip (answered code 0 u))).trans hstate

/-- Settles O28: each command waits, is answered at the next main tick, and decides its transition. -/
theorem gridFormCommandsComplete : Obligations.GridFormCommandsComplete := by
  intro s t b tick why rides decides
  have hb : s.arrive t = b := rfl
  clear_value b
  have hdecides : ∀ code dest prio, tick → code ≠ 7 → b.gfState ≠ 1 → b.gfState ≠ 4 →
      (∀ v : State, Own [.gf] (⟨0x4001, 0x4001, 5, 5⟩ :: tickObjs) b v → v.gfState = b.gfState → v.gf.firstCause = b.gf.firstCause →
        (b.gf.holds < 16 → 512 ≤ b.num 0x4010 5 → 512 ≤ b.num 0x4010 6 → 512 ≤ b.num 0x4010 7 → v.gf.holds = 0) →
        stopCause v = stopCause b → dueTrans v true (readings b true) code = some ⟨dest, 0, prio, b.now⟩) → decides code dest prio := by
    intro code dest prio htick h7 h1 h4 hdue app happ hcmd hwhy
    obtain ⟨hmain, hlast, htrans, hclose, harmed⟩ := htick
    refine gives_of_run hb (execGfMainTick.eq_def ..) rfl ?_
    have hmaint := mainTick_decides hclose htrans harmed hcmd happ h7 hwhy h1 h4
      fun v hown hstate hfirst hholds => hdue v hown hstate hfirst hholds
        (stopCause_of hown hfirst (hown.numKept _ _ rfl rfl) (hown.numKept _ _ rfl rfl))
    rw [if_pos (by simp [hmain, hlast])]
    simpa using hmaint
  refine ⟨fun c hhost => ?_, fun hhost => ?_, fun hhost => ?_, fun hhost => ?_, fun hhost => ?_, fun hhost => ?_, fun hhost => ?_,
    fun code coh app htick hcode happ hcmd => ?_,
    fun htick hstop h0 => ⟨?_, ?_⟩,
    fun htick hstop h23 => ?_,
    fun htick h6 => ?_,
    fun htick hstop h2 hrides => ?_,
    fun htick hstop h5 hrides hopen => ?_⟩
  · refine gives_of_run hb (execBlackStart.eq_def ..) rfl ?_
    cases c <;> simp [hostGf, hhost, gfCommandWrite, State.appTime] <;> decide
  · exact gives_of_run hb (execJoin.eq_def ..) rfl (by simp [hostGf, hhost, gfCommandWrite, State.appTime]; decide)
  · exact gives_of_run hb (execResync.eq_def ..) rfl (by simp [hostGf, hhost, gfCommandWrite, State.appTime]; decide)
  · exact gives_of_run hb (execAbortResync.eq_def ..) rfl (by simp [hostGf, hhost, gfCommandWrite, State.appTime]; decide)
  · exact gives_of_run hb (execStop.eq_def ..) rfl (by simp [hostGf, hhost, gfCommandWrite, State.appTime]; decide)
  · exact gives_of_run hb (execAcknowledge.eq_def ..) rfl (by simp [hostGf, hhost, gfCommandWrite, State.appTime]; decide)
  · exact gives_of_run hb (execCancelStart.eq_def ..) rfl (by simp [hostGf, hhost, gfCommandWrite, State.appTime]; decide)
  · obtain ⟨hmain, hlast, htrans, hclose, harmed⟩ := htick
    refine gives_of_run hb (execGfMainTick.eq_def ..) rfl ?_
    have hanswers := mainTick_answers hclose htrans harmed hcode hcmd happ
    obtain ⟨hnone, hnum, hstart⟩ := hanswers
    rw [if_pos (by simp [hmain, hlast]), num_ended _ _ _ _ (by decide)]
    exact ⟨by simpa using hnone, hnum, fun h1 hcoh h0 => (startArmed_of (num_ended _ _ _ _ (by decide))).trans (hstart h1 hcoh h0)⟩
  · refine hdecides 1 1 10 htick (by decide) (by omega) (by omega) fun v hown hstate _ _ hcause => ?_
    simp [dueTrans, hstate, h0, hcause, hstop, hown.now (by decide)]
  · refine hdecides 2 2 11 htick (by decide) (by omega) (by omega) fun v hown hstate _ _ hcause => ?_
    simp [dueTrans, hstate, h0, hcause, hstop, hown.now (by decide)]
  · refine hdecides 5 0 2 htick (by decide) (by omega) (by omega) fun v hown hstate _ _ hcause => ?_
    simp [dueTrans, hcause, hstop, hown.now (by decide)]
  · refine hdecides 6 0 12 htick (by decide) (by omega) (by omega) fun v hown hstate _ _ hcause => ?_
    simp [dueTrans, hstate, h6, hown.now (by decide)]
  · refine hdecides 3 5 9 htick (by decide) (by omega) (by omega) fun v hown hstate _ hholds hcause => ?_
    obtain ⟨h, hb5, hb6, hb7⟩ := hrides
    simp [dueTrans, hstate, h2, hcause, hstop, hholds h hb5 hb6 hb7, hown.now (by decide)]
  · refine hdecides 4 2 7 htick (by decide) (by omega) (by omega) fun v hown hstate _ hholds hcause => ?_
    obtain ⟨h, hb5, hb6, hb7⟩ := hrides
    have hopen' : breakerClosed v = false := by
      have hnum : v.num 0x4002 1 = b.num 0x4002 1 := hown.numKept _ _ rfl rfl
      simpa only [breakerClosed, State.fld, State.bit, hown.sides (by decide), hnum] using hopen
    simp [dueTrans, hstate, h5, hcause, hstop, hholds h hb5 hb6 hb7, hopen', hown.now (by decide)]

end Sys2Proof
end

section
/-!
SUPPORT. Carriers, gate commands, carrier starts and stops, and writes of shadows (R210 to R224): one rule for the members of a sill and the plate's pairs, the clauses of O31 and the theorem that settles it.
-/
namespace Sys2Proof
open Sys2Proof.Machine

/-! ### Members of a sill, after a write to one (Table 07.2) -/

theorem carrier_modCarrier (x y : Side) (g h : Nat) (f : Carrier → Carrier) (s : State) :
    ((s.modCarrier y h f).sill x).carrier g = if x = y ∧ g = h then f ((s.sill x).carrier g) else (s.sill x).carrier g := by
  by_cases hg : g = h
  · subst hg
    cases x <;> cases y <;> simp [State.modCarrier, State.setSill, State.sill, Sill.carrier, get_mod]
  · cases x <;> cases y <;> simp [State.modCarrier, State.setSill, State.sill, Sill.carrier, get_mod, hg]

theorem pair_modPair (x y : Side) (p q : Nat) (f : SillPair → SillPair) (s : State) :
    ((s.modPair y q f).sill x).pair p = if x = y ∧ p = q then f ((s.sill x).pair p) else (s.sill x).pair p := by
  by_cases hp : p = q
  · subst hp
    cases x <;> cases y <;> simp [State.modPair, State.setSill, State.sill, Sill.pair, get_mod]
  · cases x <;> cases y <;> simp [State.modPair, State.setSill, State.sill, Sill.pair, get_mod, hp]

theorem sill_pairFollow (p : Nat) (s : State) (x : Side) : (pairFollow p s).sill x = s.sill x :=
  sill_of_own (Own.pairFollow (P := [.pairs]) (G := [⟨0x5200, 0x5247, 8, 8⟩]) (by decide) (by decide) (Own.same s)) (by decide) x

/-- Each pair's record as the plate settles (R226). -/
theorem plateOf_settle (s : State) (n : Nat) : s.settle.plateOf n = settlePair s (s.plateOf n) := by
  have hfind : ∀ l : Store PlatePair, Store.find n (l.map (fun e => (e.1, settlePair s e.2))) = (Store.find n l).map (settlePair s) := by
    intro l
    induction l with
    | nil => rfl
    | cons e l ih =>
      rw [List.map_cons]
      simp only [Store.find, ih]
      split <;> rfl
  unfold State.plateOf Store.get
  rw [State.settle, hfind]
  cases Store.find n s.plate.pairs with
  | none => rfl
  | some q => rfl

theorem plateOf_ended (s : State) (q : List Instr) (n : Nat) : (s.ended q).plateOf n = settlePair s.reportLate (s.plateOf n) := by
  have hlate : s.reportLate.plateOf n = s.plateOf n := by
    simp only [State.plateOf, (Own.reportLate (P := []) (G := []) (Own.same s)).pairs (by decide)]
  rw [← hlate]
  exact plateOf_settle s.reportLate n

theorem sill_ended (s : State) (q : List Instr) (x : Side) : (s.ended q).sill x = s.sill x := by
  cases x <;> simp [State.sill]

theorem plateOf_raise (s : State) (e p0 p1 p2 n : Nat) : (s.raise e p0 p1 p2).plateOf n = s.plateOf n := by
  simp only [State.plateOf, (Own.raise (P := []) (G := []) (e := e) (a := p0) (b := p1) (c := p2) (Own.same s)).pairs (by decide)]

/-- None is driven high by it, and none driven. -/
theorem settlePair_low (s : State) (q : PlatePair) :
    (q.h = false → (settlePair s q).h = false) ∧ (q.driving = false → (settlePair s q).driving = false) := by
  rw [settlePair, apply_ite PlatePair.h, apply_ite PlatePair.driving]
  exact ⟨fun h => by simp [h], fun h => by simp [h]⟩

/-- An operation on every carrier group of a list, on both sills, but for those left out. -/
theorem carrier_foldl {f : Carrier → Carrier} {skip : Nat → Bool} {step : Nat → State → State} {Inv : State → Prop}
    (hinv : ∀ i s, Inv s → Inv (step i s))
    (hstep : ∀ i s x g, Inv s → ((step i s).sill x).carrier g = if g = i ∧ skip i = false then f ((s.sill x).carrier g) else (s.sill x).carrier g)
    (x : Side) (g : Nat) (l : List Nat) (hl : l.Nodup) (s : State) (hs : Inv s) :
    ((l.foldl (fun s i => step i s) s).sill x).carrier g = if g ∈ l ∧ skip g = false then f ((s.sill x).carrier g) else (s.sill x).carrier g := by
  induction l generalizing s with
  | nil => simp
  | cons i l ih =>
    obtain ⟨hi, hl⟩ := List.nodup_cons.mp hl
    rw [List.foldl_cons, ih hl _ (hinv i s hs), hstep i s x g hs]
    by_cases hg : g = i
    · subst hg
      simp [hi]
    · simp [hg]

/-! ### Counters of the sills (R210 to R214, R504) -/

/-- A carrier group's counter: whether it runs, its direction and the vertex of its half. -/
def carrierMark (x : Side) (g : Nat) (s : State) : Bool × Bool × Nat :=
  let c := (s.sill x).carrier g
  (c.running, c.up, c.at_)

theorem carrierMark_of {x : Side} {s u : State} (h : u.sill x = s.sill x) (g : Nat) : carrierMark x g u = carrierMark x g s := by
  simp only [carrierMark, h]

theorem carrierMark_ite (x : Side) (g : Nat) (p : Prop) [Decidable p] (a b : State) :
    carrierMark x g (if p then a else b) = if p then carrierMark x g a else carrierMark x g b := by split <;> rfl

theorem carrierMark_branch {x : Side} {g : Nat} {p : Prop} [Decidable p] {a b s : State} (ha : carrierMark x g a = carrierMark x g s)
    (hb : carrierMark x g b = carrierMark x g s) : carrierMark x g (if p then a else b) = carrierMark x g s := by
  rw [carrierMark_ite, ha, hb, ite_self]

theorem carrierMark_modCarrier (x y : Side) (g h : Nat) {f : Carrier → Carrier} (s : State)
    (hf : ∀ c, (f c).running = c.running ∧ (f c).up = c.up ∧ (f c).at_ = c.at_) : carrierMark x g (s.modCarrier y h f) = carrierMark x g s := by
  have hget : ∀ l : Store Carrier, ((Store.get Carrier.init g (Store.mod Carrier.init h f l)).running,
      (Store.get Carrier.init g (Store.mod Carrier.init h f l)).up, (Store.get Carrier.init g (Store.mod Carrier.init h f l)).at_) =
      ((Store.get Carrier.init g l).running, (Store.get Carrier.init g l).up, (Store.get Carrier.init g l).at_) := by
    intro l
    rw [Store.mod, get_put]
    split
    · rename_i heq; rw [heq]; simp only [hf]
    · rfl
  cases x <;> cases y <;> first | rfl | exact hget _

theorem carrierMark_modPair (x y : Side) (g p : Nat) (f : SillPair → SillPair) (s : State) : carrierMark x g (s.modPair y p f) = carrierMark x g s := by
  cases x <;> cases y <;> rfl

theorem carrierMark_setUpdate (x y : Side) (g u : Nat) (v : Update) (s : State) : carrierMark x g (s.setUpdate y u v) = carrierMark x g s := by
  cases x <;> cases y <;> rfl

theorem carrierMark_setPlate (x : Side) (g n : Nat) (q : PlatePair) (s : State) : carrierMark x g (s.setPlate n q) = carrierMark x g s := by
  cases x <;> rfl

theorem carrierMark_raise (x : Side) (g e p0 p1 p2 : Nat) (s : State) : carrierMark x g (s.raise e p0 p1 p2) = carrierMark x g s :=
  carrierMark_of (by simp) g

theorem carrierMark_incWrap (x : Side) (g i j : Nat) (s : State) : carrierMark x g (s.incWrap i j) = carrierMark x g s := rfl

theorem carrierMark_pairs_own {P : List Part} {G : List Objs} {s u : State} (h : Own P G s u) (hp : Part.plate ∉ P) (x : Side) (g : Nat) :
    carrierMark x g u = carrierMark x g s := carrierMark_of (sill_of_own h hp x) g

theorem carrierMark_attachFollowers (x y : Side) (g h : Nat) (start : Bool) (s : State) :
    carrierMark x g (attachFollowers y h start s) = carrierMark x g s := by
  refine foldl_keep (carrierMark x g) _ _ (fun u f _ => ?_) s
  exact carrierMark_branch (carrierMark_modCarrier _ _ _ _ _ fun c => ⟨rfl, rfl, rfl⟩) rfl

theorem carrierMark_pushVertex (x y : Side) (g h v hs : Nat) (s : State) : carrierMark x g (pushVertex y h v hs s) = carrierMark x g s := by
  refine foldl_keep (carrierMark x g) _ _ (fun u f _ => ?_) s
  exact carrierMark_branch (carrierMark_modCarrier _ _ _ _ _ fun c => ⟨rfl, rfl, rfl⟩) rfl

theorem carrierMark_plateRelease (x : Side) (g n : Nat) (s : State) : carrierMark x g (plateRelease n s) = carrierMark x g s :=
  carrierMark_pairs_own (Own.plateRelease (P := [.pairs]) (G := []) (by decide) (Own.same s)) (by decide) x g

theorem carrierMark_bringEffect (x : Side) (g k : Nat) (hk : k < 16) (s : State) : carrierMark x g (bringEffect k s) = carrierMark x g s := by
  unfold bringEffect
  split
  · rfl
  · have hspare : ∀ (u : State) v, carrierMark x g { u with plate := { u.plate with spareMap := v } } = carrierMark x g u := by
      intro u v
      cases x <;> rfl
    have hredirect : ∀ r (u : State), carrierMark x g (redirect k r u) = carrierMark x g u := by
      intro r u
      have hrelease : ∀ (c : Bool) n, carrierMark x g (if c = true then plateRelease n u else u) = carrierMark x g u :=
        fun c n => carrierMark_branch (carrierMark_plateRelease ..) rfl
      unfold redirect
      split
      · rfl
      · dsimp only
        exact carrierMark_branch rfl ((hspare _ _).trans (hrelease _ _))
    have hdrop : Own [.stacks] [⟨0x9010, 0x901F, 3, 3⟩] s (dropBring k s) := Own.dropBring (by decide) (by decide) hk (Own.same s)
    rename_i b _
    refine (carrierMark_pairs_own (P := [.stacks, .graphs]) (G := [⟨0x9010, 0x901F, 7, 7⟩]) (s := redirect k b.leg (dropBring k s)) ?_ (by decide)
      x g).trans ((hredirect _ _).trans (carrierMark_pairs_own hdrop (by decide) x g))
    exact Own.recomputeShares (by decide) (Own.raise (Own.setStack (by decide) (Own.setLeg (by decide) hk (Own.setLeg (by decide) hk (Own.same _)))))

theorem carrierMark_plateTake (x y : Side) (g h : Nat) (s : State) : carrierMark x g (plateTake y h s) = carrierMark x g s := by
  have hdisable : ∀ (w : Stamped) (u : State), carrierMark x g (disableAt w u) = carrierMark x g u := by
    intro w u
    unfold disableAt
    dsimp only
    refine carrierMark_branch rfl ((carrierMark_raise ..).trans ((carrierMark_branch (carrierMark_plateRelease ..) rfl).trans ?_))
    cases x <;> rfl
  have hdisables : ∀ u : State, carrierMark x g (disablesAtVertex h u) = carrierMark x g u := by
    intro u
    refine (foldl_keep (carrierMark x g) _ _ (fun v w _ => hdisable w v) _).trans ?_
    cases x <;> rfl
  have hmap : ∀ u : State, carrierMark x g (mapAtVertex h u) = carrierMark x g u := by
    intro u
    unfold mapAtVertex
    dsimp only
    split
    · rfl
    · refine (foldl_keep (carrierMark x g) _ _ (fun v e _ => ?_) _).trans (by cases x <;> rfl)
      exact carrierMark_branch (carrierMark_plateRelease ..) rfl
  have hbring : ∀ u : State, carrierMark x g (bringAtVertex h u) = carrierMark x g u := by
    intro u
    unfold bringAtVertex
    refine carrierMark_branch rfl (forN_keep (carrierMark x g) _ _ (fun k v hk => ?_) u)
    split
    · exact carrierMark_branch (carrierMark_bringEffect _ _ _ hk _) rfl
    · rfl
  exact carrierMark_branch ((hbring _).trans ((hmap _).trans (hdisables s))) rfl

theorem carrierMark_reloadUpdate (x y : Side) (g r u : Nat) (s : State) : carrierMark x g (reloadUpdate y r u s) = carrierMark x g s := by
  have htake : ∀ older (v : State), carrierMark x g (takeSet y u older v) = carrierMark x g v := by
    intro older v
    unfold takeSet
    dsimp only
    have hcount : ∀ (w : State) a b c d, carrierMark x g (countEvent a b c d w) = carrierMark x g w := fun w a b c d => carrierMark_of (by simp) g
    have hinc : ∀ w : State, carrierMark x g (if w.reports y then w.incWrap (0x5140 + u) 3 else w) = carrierMark x g w :=
      fun w => carrierMark_branch (carrierMark_incWrap ..) rfl
    rw [hcount, hinc]
    refine (foldl_keep (carrierMark x g) _ _ (fun w m _ => ?_) _).trans (foldl_keep (carrierMark x g) _ _ (fun w p _ => ?_) _)
    · exact carrierMark_modCarrier x y g m w fun c => ⟨rfl, rfl, rfl⟩
    · exact carrierMark_modPair x y g p _ w
  have hclosed : ∀ v : State, carrierMark x g (windowClosed y u v) = carrierMark x g v := by
    intro v
    unfold windowClosed
    exact carrierMark_branch (carrierMark_of (by simp) g) rfl
  have hfirst : ∀ v : State, carrierMark x g (match ((s.sill y).update u).partialAt with
      | some q => if q < r && !(((s.sill y).update u).commitAt == some r) then
          v.setUpdate y u { (v.sill y).update u with tornAt := some (r, v.ridge) } else v
      | none => v) = carrierMark x g v := by
    intro v
    split
    · exact carrierMark_branch (carrierMark_setUpdate ..) rfl
    · rfl
  refine (hfirst _).trans ?_
  split
  · rfl
  · refine carrierMark_branch ((htake ..).trans (carrierMark_setUpdate ..)) ?_
    have holder := carrierMark_branch (p := ((s.sill y).update u).olderAt.isSome = true) (s := s)
      ((htake true _).trans (carrierMark_setUpdate x y g u { (s.sill y).update u with olderAt := none } s)) rfl
    exact carrierMark_branch ((hclosed _).trans holder) holder

/-- The half that begins sets the counter. -/
theorem carrierMark_beginHalf (x : Side) (g v : Nat) (up : Bool) (hs : Nat) (s : State) : carrierMark x g (beginHalf x g v up hs s) = (true, up, v) := by
  have hhalf : ∀ p (u : State), carrierMark x g (halfPair x g v up hs p u) = carrierMark x g u := by
    intro p u
    unfold halfPair
    dsimp only
    refine carrierMark_branch (carrierMark_modPair ..) ?_
    have hcl : ∀ w : State, ∀ n, carrierMark x g (w.setBitO (0x5200 + p) 8 n true) = carrierMark x g w := fun w n => by cases x <;> rfl
    have hfirst := fun (c : Bool) (w : State) => carrierMark_branch (p := c = true) (hcl w 2) (s := w) rfl
    exact carrierMark_branch ((hcl ..).trans ((hfirst ..).trans (carrierMark_modPair ..))) ((hfirst ..).trans (carrierMark_modPair ..))
  have hset : carrierMark x g (s.modCarrier x g (fun c => { c with running := true, up := up, at_ := v, hs := hs, starts := c.startsAfter s.ridge })) =
      (true, up, v) := by
    cases x <;> simp [carrierMark, State.modCarrier, State.setSill, State.sill, Sill.carrier, get_mod]
  unfold beginHalf
  dsimp only
  rw [foldl_keep (carrierMark x g) _ _ (fun u p _ => hhalf p u),
    foldl_keep (carrierMark x g) _ _ (fun u k _ => carrierMark_branch (carrierMark_raise ..) rfl)]
  refine (carrierMark_branch ?_ rfl).trans hset
  cases x <;> rfl

/-- Where no change of side is under way, the plate at a vertex moves its pairs alone. -/
theorem carrierMark_plateVertex {x : Side} {g : Nat} {bottom : Bool} {s : State} (h : s.sides.takeover = none) :
    carrierMark x g (plateVertex x g bottom s) = carrierMark x g s := by
  have hpairs : ∃ u, plateVertex x g bottom s = changeAtVertex x g u ∧ Own [.pairs] [⟨0x5200, 0x5247, 8, 8⟩] s u := by
    refine ⟨_, rfl, ?_⟩
    refine Own.foldl (Own.ite (Own.foldl ?_ fun u p _ => Own.plateBegin (by decide) (Own.same u)) ?_)
      fun u p _ => Own.pairFollow (by decide) (by decide) (Own.same u)
    all_goals exact Own.ite (Own.foldl (Own.same s) fun u p _ => Own.newPeriod (by decide) (Own.same u)) (Own.same s)
  obtain ⟨u, hu, hown⟩ := hpairs
  have hchange : changeAtVertex x g u = u := by
    unfold changeAtVertex
    rw [hown.sides (by decide), h]
  rw [hu, hchange]
  exact carrierMark_pairs_own hown (by decide) x g

/-- The parts that a half and what the plate takes before it move. -/
def halfParts : List Part := [.graphs, .plate, .pairs, .stacks]

/-- The objects that they move. -/
def halfObjs : List Objs :=
  [⟨0x5120, 0x5127, 5, 6⟩, ⟨0x5140, 0x515F, 2, 3⟩, ⟨0x5200, 0x5247, 8, 8⟩, ⟨0x9010, 0x901F, 3, 3⟩, ⟨0x9010, 0x901F, 7, 7⟩]

/-- A vertex of a running group begins its next half at the vertex's instant, the other way. -/
theorem carrierMark_passVertex {x : Side} {g v : Nat} {s : State} (hg : g < 8) (h : s.sides.takeover = none) :
    carrierMark x g (passVertex x g v none s) = (true, !((s.sill x).carrier g).up, v) := by
  unfold passVertex
  dsimp only
  have htake : Own halfParts halfObjs s (plateTake x g s) := Own.plateTake (by decide) (by decide) (by decide) (by decide) (by decide) (Own.same s)
  have hreload : Own halfParts halfObjs s (if reloadsAt (plateTake x g s) g (!((s.sill x).carrier g).up) then
      (updatesOf (plateTake x g s) g).foldl (fun s u => reloadUpdate x (clockOf v) u s) (plateTake x g s) else plateTake x g s) :=
    Own.ite (Own.foldl htake fun w u hu => Own.reloadUpdate (by decide) (by decide) (updatesOf_lt hu) (Own.same w)) htake
  generalize (if reloadsAt (plateTake x g s) g (!((s.sill x).carrier g).up) = true then
      (updatesOf (plateTake x g s) g).foldl (fun s u => reloadUpdate x (clockOf v) u s) (plateTake x g s) else plateTake x g s) = w at hreload ⊢
  rw [carrierMark_plateVertex, carrierMark_beginHalf]
  have hhalf := Own.beginHalf (P := halfParts) (G := halfObjs) (x := x) (v := v) (up := !((s.sill x).carrier g).up)
    (hs := (none : Option Nat).getD (if reloadsAt w g (!((s.sill x).carrier g).up) then ((w.sill x).carrier g).perEf else ((w.sill x).carrier g).hs))
    (by decide) (by decide) hg hreload
  rw [hhalf.sides (by decide), h]

theorem carrierMark_masterVertex {x : Side} {g : Nat} {s : State} (hg : g < 8) (h : s.sides.takeover = none)
    (hdue : ((s.sill x).carrier g).at_ + ((s.sill x).carrier g).hs * clockFs ≤ s.now)
    (hrun : ((s.sill x).carrier g).up = true ∨ ((s.sill x).carrier g).stopping = false) :
    carrierMark x g (masterVertex x g s) =
      (true, !((s.sill x).carrier g).up, ((s.sill x).carrier g).at_ + ((s.sill x).carrier g).hs * clockFs) := by
  have hgoes : (!((s.sill x).carrier g).up && ((s.sill x).carrier g).stopping) = false := by
    rcases hrun with hup | hstop
    · simp [hup]
    · simp [hstop]
  unfold masterVertex
  dsimp only
  rw [if_neg (Nat.not_lt.mpr hdue), hgoes, if_neg Bool.false_ne_true, carrierMark_pushVertex]
  have hattach : Own [.plate] [] s (if !((s.sill x).carrier g).up then attachFollowers x g false s else s) :=
    Own.ite (Own.attachFollowers (by decide) (Own.same s)) (Own.same s)
  have hmark : carrierMark x g (if !((s.sill x).carrier g).up then attachFollowers x g false s else s) = carrierMark x g s :=
    carrierMark_branch (carrierMark_attachFollowers ..) rfl
  generalize (if (!((s.sill x).carrier g).up) = true then attachFollowers x g false s else s) = u at hattach hmark ⊢
  have hup : ((u.sill x).carrier g).up = ((s.sill x).carrier g).up := congrArg (fun m => m.2.1) hmark
  rw [carrierMark_passVertex hg (by rw [hattach.sides (by decide), h]), hup]

/-- A master's start begins its counter at the bottom vertex, counting up, now (R213). -/
theorem carrierMark_startMaster {x : Side} {g : Nat} {s : State} (hg : g < 8) (h : s.sides.takeover = none) :
    carrierMark x g (startMaster x g s) = (true, true, s.now) := by
  unfold startMaster startGroup
  dsimp only
  rw [carrierMark_pushVertex, carrierMark_attachFollowers]
  have hforms : Own halfParts halfObjs s (formSets x g s) := Own.formSets (by decide) (Own.same s)
  generalize formSets x g s = u at hforms ⊢
  have hmiss : Own halfParts halfObjs s (if u.activeSlot.isSome && g == schAnchor (activeSched u) then missTicks x u else u) :=
    Own.ite (Own.missTicks (by decide) hforms) hforms
  generalize (if (u.activeSlot.isSome && g == schAnchor (activeSched u)) = true then missTicks x u else u) = w at hmiss ⊢
  have hfall : Own halfParts halfObjs s (fallAtStart x g s.now (plateTake x g w)) :=
    Own.fallAtStart (by decide) (Own.plateTake (by decide) (by decide) (by decide) (by decide) (by decide) hmiss)
  rw [carrierMark_plateVertex, carrierMark_beginHalf]
  rw [(Own.beginHalf (P := halfParts) (G := halfObjs) (by decide) (by decide) hg hfall).sides (by decide), h]

/-- Dead times that have ended have their output high (R216). -/
theorem endDead_reads {now v : Nat} (h : v ≤ now) (q : SillPair) :
    (q.dtH = some v → (endDead now q).h = true ∧ (endDead now q).dtH = none) ∧
      (q.dtL = some v → (endDead now q).l = true ∧ (endDead now q).dtL = none) := by
  refine ⟨fun hq => ?_, fun hq => ?_⟩
  · simp only [endDead, hq, h, decide_true, if_true]
    exact ⟨by rw [apply_ite SillPair.h, ite_self], by rw [apply_ite SillPair.dtH, ite_self]⟩
  · unfold endDead
    cases hH : q.dtH with
    | none => simp [hq, h, hH]
    | some w => by_cases hw : w ≤ now <;> simp [hq, h, hH, hw]

/-- Past the minimum on-time a high output that is no longer asked for falls (R228). -/
theorem interlock_falls {now dh dl minOn : Nat} {q : PlatePair} {rl : Bool} (h : q.riseH + minOn ≤ now) :
    (interlock now dh dl minOn q false rl).1.h = false := by
  simp [interlock, Nat.not_lt.mpr h]

/-- A start held for a group, in the order of their times (R504). -/
def pendStart (a r : Nat) (c : Carrier) : Carrier :=
  { c with starts := c.starts.filter (fun p => decide (p.1 ≤ r)) ++ [(r, a != 0)] ++ c.startsAfter r }

/-- A running group is to halt (R214). -/
def markStop (c : Carrier) : Carrier := if c.running then { c with stopping := true } else c

/-- A group named follows that mark, but for a follower named with its master. -/
def markStopStep (m g : Nat) (s : State) : State :=
  if s.follower g && m.testBit (s.masterOf g) then s else (s.modCarrier .A g markStop).modCarrier .B g markStop

theorem follower_of_od {s u : State} (h : u.od = s.od) (g : Nat) : u.follower g = s.follower g := by
  simp only [State.follower, State.bit, State.num, State.val, h]

theorem masterOf_of_od {s u : State} (h : u.od = s.od) (g : Nat) : u.masterOf g = s.masterOf g := by
  simp only [State.masterOf, State.follower, State.bit, State.fld, State.num, State.val, h]
  congr

theorem pair_markPartial (x y : Side) (u p : Nat) (s : State) : ((markPartial x u s).sill y).pair p = (s.sill y).pair p := by
  have hset : ∀ v, (((s.setUpdate x u v).sill y).pair p) = (s.sill y).pair p := fun v => by cases x <;> cases y <;> rfl
  unfold markPartial
  dsimp only
  split
  · rfl
  · exact hset _

theorem waiting_markPartial (x : Side) (u : Nat) (s : State) : (markPartial x u s).plate.waiting = s.plate.waiting := by
  unfold markPartial
  dsimp only
  split
  · rfl
  · cases x <;> rfl

/-- The first word of a pair's shadow takes the value (R222). -/
theorem writeShadow_up (x y : Side) (p value : Nat) (s : State) :
    ((writeShadow x p 3 value s).sill y).pair p =
      if x = y then { (s.sill y).pair p with sh := { ((s.sill y).pair p).sh with up := value } } else (s.sill y).pair p := by
  unfold writeShadow
  rw [pair_markPartial, pair_modPair]
  simp [eq_comm]

theorem waiting_writeShadow (x : Side) (p sub value : Nat) (s : State) : (writeShadow x p sub value s).plate.waiting = s.plate.waiting := by
  unfold writeShadow
  dsimp only
  rw [waiting_markPartial]
  cases x <;> rfl

theorem ended_waiting (s : State) (q : List Instr) : (s.ended q).plate.waiting = s.plate.waiting := by simp

/-- A write to the first word of a shadow that waits alone acts in both sills once due. -/
theorem applyWaiting_up {s : State} {p v d : Nat} (ks : List Nat) (hd : d ≤ s.ridgeFine) (hw : s.plate.waiting = [⟨0, p * 256 + 3, v, d⟩]) :
    applyWaiting (0 :: ks) s =
      writeShadow .B p 3 v (writeShadow .A p 3 v { s with plate := { s.plate with waiting := [] } }) := by
  simp [applyWaiting, hw, hd, applyStamped, Nat.add_mod, Nat.add_div]

/-- Settles O31: counters, edges of gate commands, starts and stops, and writes of shadows. -/
theorem modulationCompletes : Obligations.ModulationCompletes := by
  intro s t b
  have hb : s.arrive t = b := rfl
  clear_value b
  refine ⟨fun x g c hg hc hfeeds hhalt hrun hfollow hdue htake hway => ?_,
    fun x p v c l hp hfeeds hhalt hedges hdue => ?_,
    fun x p v hp hfeeds hhalt hdue => ?_,
    fun p n q hp hhalt hphys hn hq hpair hdrive hlow hmin => ?_,
    fun a r ha hhost hr hle => ?_,
    fun a ha h0 hhost hlate => ?_,
    fun x g r hg hfeeds hhalt hrun hfollow hset hstart hdue htake => ?_,
    fun m hm hhost hstop hcomm => ?_,
    fun m hm h0 hhost => ?_,
    fun p j v hp hj hj' hv hoff hhost hdriven => ?_,
    fun p v d hp hdue hwait => ?_⟩
  · subst hc
    refine gives_of_run hb (execCarrierVertex.eq_def ..) (decide_eq_true hg) ?_
    have hmark := carrierMark_masterVertex hg htake hdue hway
    simp only [carrierMark, Prod.mk.injEq] at hmark
    simpa [hfeeds, hhalt, State.carrierRuns, hrun, hfollow] using hmark
  · refine gives_of_run hb (execGateCommandEdge.eq_def ..) (decide_eq_true hp) ?_
    simp [hfeeds, hhalt, hedges, Nat.not_lt.mpr hdue, sill_pairFollow, pair_modPair]
  · refine gives_of_run hb (execDeadTimeExpiry.eq_def ..) (decide_eq_true hp) ?_
    simp only [hfeeds, hhalt, Bool.not_true, Bool.or_self, Bool.false_eq_true, if_false, sill_ended, sill_pairFollow, pair_modPair, and_self, if_true]
    exact endDead_reads hdue _
  · refine gives_of_run hb (execPlateMinOnExpiry.eq_def ..) (decide_eq_true hp) ?_
    rw [plateOf_ended]
    refine (settlePair_low _ _).1 ?_
    have hfall := interlock_falls (dh := deadH b p) (dl := deadL b p) hmin
      (rl := ((b.sill (if q.sideB then .B else .A)).pair p).l)
    simp only [hhalt, Bool.false_eq_true, if_false, pairFollow, hphys, hn, hq, hpair, plateFollow, hdrive, hlow, decide_true, beq_self_eq_true,
      Bool.and_self, if_true, Bool.not_true, apply_ite (fun u : State => u.plateOf n), plateOf_raise]
    have hset : ∀ u : State, ∀ r, ((u.setPlate n r).setBitO (0x5200 + p) 8 0 true).plateOf n = r := fun u r => plateOf_same (s := u) n r
    rw [hset, plateOf_same, apply_ite PlatePair.h]
    simpa using hfall
  · refine gives_of_run hb (execCarrierStart.eq_def ..) (decide_eq_true ha) ?_
    intro x g hg
    have hnow : ¬(a ≠ 0 ∧ r < b.appTime) := fun h => absurd h.2 (Nat.not_lt.mpr hle)
    have hway : (if hostOk b = true then carrierStartWrite a b else b) = forN 8 (fun g s => (s.modCarrier .A g (pendStart a r)).modCarrier .B g
        (pendStart a r)) b := by
      simp only [hhost, if_true, carrierStartWrite, ← hr]
      rw [if_neg (by simpa using hnow)]
      rfl
    rw [sill_ended, hway, forN, carrier_foldl (f := pendStart a r) (skip := fun _ => false) (Inv := fun _ => True) (step := fun g s =>
      (s.modCarrier .A g (pendStart a r)).modCarrier .B g (pendStart a r)) (fun _ _ _ => trivial) ?_ x g _ List.nodup_range b trivial]
    · simp [hg, pendStart, Carrier.startsAfter]
    · intro i u y h _
      cases y <;> simp [carrier_modCarrier]
  · refine gives_of_run hb (execCarrierStart.eq_def ..) (decide_eq_true ha) ?_
    simp [hhost, carrierStartWrite, h0, hlate, rejectCarrier, evKey]
    exact State.bit_set b true (by decide)
  · refine gives_of_run hb (execCarrierGroupStart.eq_def ..) (decide_eq_true hg) ?_
    have hannounce : Own [.plate] [] b (announceStart x r b) := Own.announceStart (by decide) (Own.same b)
    have hsame : (announceStart x r b).follower g = false := by
      rw [← hfollow]
      unfold State.follower State.bit
      rw [hannounce.numKept (0x5120 + g) 1 (evKey_eq_false (by omega) (by omega)) (by simp)]
    have hmark := carrierMark_startMaster (x := x) hg (s := announceStart x r b) (by rw [hannounce.sides (by decide), htake])
    rw [hannounce.now (by decide)] at hmark
    simp only [carrierMark, Prod.mk.injEq] at hmark
    simpa [hfeeds, hhalt, State.carrierRuns, hrun, hfollow, startDue, hstart, Nat.not_lt.mpr hdue, hset, hsame] using hmark
  · refine gives_of_run hb (execCarrierStop.eq_def ..) (decide_eq_true hm) ?_
    intro x g hg hmg hnot hrun
    have hway : (if hostOk b = true then carrierStopWrite m b else b) = forMask 8 m (markStopStep m) b := by
      simp only [hhost, if_true, carrierStopWrite, hstop, hcomm]
      rfl
    rw [sill_ended, hway, forMask, carrier_foldl (f := markStop) (skip := fun i => b.follower i && m.testBit (b.masterOf i))
      (Inv := fun u => u.od = b.od) (step := markStopStep m) (fun i u hu => ?_) (fun i u y h hu => ?_) x g (maskList 8 m) (List.nodup_range.filter _) b rfl]
    · have hskip : (b.follower g && m.testBit (b.masterOf g)) = false := by
        rcases hnot with h | h <;> simp [h]
      simp [maskList, hg, hmg, hskip, markStop, hrun]
    · unfold markStopStep
      split
      · exact hu
      · exact hu
    · unfold markStopStep
      rw [follower_of_od hu, masterOf_of_od hu]
      cases hs : b.follower i && m.testBit (b.masterOf i) <;> cases y <;> simp [carrier_modCarrier]
  · refine gives_of_run hb (execUpdateCommit.eq_def ..) (decide_eq_true hm) ?_
    simp [hhost, updateCommitWrite, h0, stampWrite, State.appTime]
  · refine gives_of_run hb (execShadowWrite.eq_def ..) (by simp_all [Instr.wf]; omega) ?_
    have hok : (j != 5 || decide (v < 2)) = true := by
      by_cases h5 : j = 5
      · simp [h5, hoff h5]
      · simp [h5]
    simp only [hhost, hj, hj', hok, decide_true, Bool.and_self, if_true, shadowWriteOp, hdriven, Bool.false_eq_true, if_false]
    simp [stampWrite, State.appTime]
  · refine gives_of_run hb (execShadowApply.eq_def ..) rfl ?_
    have hway : (applyWaiting (if ticksOccur b then [0, 1] else [0, 1, 4]) b) =
        writeShadow .B p 3 v (writeShadow .A p 3 v { b with plate := { b.plate with waiting := [] } }) := by
      split
      · exact applyWaiting_up _ hdue hwait
      · exact applyWaiting_up _ hdue hwait
    rw [hway]
    refine ⟨by rw [ended_waiting, waiting_writeShadow, waiting_writeShadow], fun x => ?_⟩
    rw [sill_ended, writeShadow_up, writeShadow_up]
    cases x <;> simp

end Sys2Proof
end

section
/-!
SUPPORT. Trips and their release, disable masks, COMMISSIONING, the override map and the debug halt (R230 to R236): the clauses of O32 and the theorem that settles it.
-/
namespace Sys2Proof
open Sys2Proof.Machine

theorem sizeOf_plateWords : sizeOf 0x5300 1 = 4 ∧ sizeOf 0x5300 2 = 4 ∧ sizeOf 0x5300 3 = 1 ∧ sizeOf 0x5300 4 = 2 ∧ sizeOf 0x5310 3 = 2 := by decide

/-- An enabled input at its active level that has not latched latches its trip and holds the gates (R230). -/
theorem latchFaultIn_reads {n : Nat} {s : State} (hn : n < 16) (hon : s.bit 0x5310 1 n = true) (hlevel : s.plate.faultLevel.testBit n = true)
    (hoff : s.bit 0x5310 3 n = false) :
    (latchFaultIn n s).bit 0x5310 3 n = true ∧ (latchFaultIn n s).plate.faultLevel = s.plate.faultLevel ∧
      (s.gfState ≠ 6 → (latchFaultIn n s).plate.gateHold = true) := by
  have hset : (s.setBitO 0x5310 3 n true).bit 0x5310 3 n = true := State.bit_set s true (by rw [sizeOf_plateWords.2.2.2.2]; omega)
  have hhold : (holdGates (s.setBitO 0x5310 3 n true)).bit 0x5310 3 n = true := by
    unfold holdGates
    split
    · exact hset
    · exact hset
  have hgf : (s.setBitO 0x5310 3 n true).gfState = s.gfState := fld_setBitO_far _ _ _ _ _ _ _ _ _ (by decide)
  simp only [latchFaultIn, hon, hlevel, hoff, Bool.not_false, Bool.and_self, if_true]
  refine ⟨by simpa [evKey] using hhold, ?_, fun h6 => ?_⟩
  · simp only [holdGates]
    split <;> simp
  · simp [holdGates, hgf, h6]

/-- COMMISSIONING left: the map is gone and every pair stands in high impedance (R233, R234). -/
theorem leaveCommission_reads {way : Nat} {s : State} (hway : way ≠ 4) (h : s.commissioning = true) :
    (leaveCommission way s).commissioning = false ∧ (leaveCommission way s).plate.mapNow = [] ∧ (leaveCommission way s).plate.pendingMaps = [] ∧
      (leaveCommission way s).blob 0x5320 2 = [] ∧ ∀ n < 72, ((leaveCommission way s).plateOf n).driving = false := by
  have hrelease : ∀ k (u : State) n, ((plateRelease k u).plateOf n).driving = (if n = k then false else (u.plateOf n).driving) := by
    intro k u n
    unfold plateRelease
    split
    · rw [plateOf_set]
      split <;> rfl
    · rename_i hoff
      split
      · rename_i heq
        rw [heq]
        simpa using hoff
      · rfl
  have hall : ∀ (l : List Nat) (u : State) n, ((l.foldl (fun s i => plateRelease i s) u).plateOf n).driving =
      (if n ∈ l then false else (u.plateOf n).driving) := by
    intro l
    induction l with
    | nil => simp
    | cons k l ih =>
      intro u n
      rw [List.foldl_cons, ih, hrelease]
      by_cases hk : n = k <;> simp [hk]
  have hoff : ∀ n < 72, ((plateReleaseAll s).plateOf n).driving = false := fun n hn => by
    rw [plateReleaseAll, forN, hall, if_pos (List.mem_range.mpr hn)]
  simp only [leaveCommission, h, Bool.not_true, Bool.false_eq_true, if_false, if_neg hway]
  generalize plateReleaseAll s = u at hoff
  refine ⟨?_, by simp, by simp, by simp [evKey], fun n hn => ?_⟩
  · simp [State.commissioning, evKey]
    exact State.bit_set _ false (by decide)
  · rw [plateOf_raise]
    exact hoff n hn

/-- A mask's bits that change wait, each with its stamp, in their order. -/
theorem waiting_disableWrite (l : List Nat) (i : Nat) (c : Nat → Bool) (v : Nat → Nat) (s : State) :
    (l.foldl (fun s b => if c b then s else stampWrite 2 (32 * i + b) (v b) s) s).plate.waiting =
      s.plate.waiting ++ (l.filter (fun b => !c b)).map (fun b => ⟨2, 32 * i + b, v b, s.appTime⟩) := by
  induction l generalizing s with
  | nil => simp
  | cons b l ih =>
    rw [List.foldl_cons, ih]
    cases h : c b with
    | false => simp [h, stampWrite, State.appTime]
    | true => simp [h]

theorem ended_sideRt (s : State) (q : List Instr) (x : Side) : (s.ended q).sideRt x = s.sideRt x := by
  cases x <;> simp [State.sideRt]

/-- Both sides' counts of missing heartbeats start again (R236). -/
theorem missing_freshBeats (s : State) (x : Side) :
    ((freshBeats .B (freshBeats .A s)).sideRt x).p1.missing = 0 ∧ ((freshBeats .B (freshBeats .A s)).sideRt x).p2.missing = 0 := by
  cases x <;> exact ⟨rfl, rfl⟩

/-- Settles O32: trips and their release, disable masks, COMMISSIONING, the override map and the debug halt. -/
theorem plateCompletes : Obligations.PlateCompletes := by
  intro s t b
  have hb : s.arrive t = b := rfl
  clear_value b
  obtain ⟨hs1, hs2, hs3, hs4, hs5⟩ := sizeOf_plateWords
  have htwo : Nat.testBit 2 0 = false ∧ Nat.testBit 2 1 = true ∧ Nat.testBit 1 1 = false := by decide
  refine ⟨fun n hn hon hoff => ?_, fun n hn => ?_, fun hhost hgf hlevel => ?_, fun hhost hor => ?_, fun hhost hgf hbeyond => ?_,
    fun hhost hor => ?_, fun i v hi hv hhost => ?_, fun hhost hperm hgf htrip => ?_, fun hhost hcomm => ?_,
    fun m hm hhost hcomm hok => ?_, fun m hm hhost hor => ?_, fun hhalt => ?_, fun hhalt => ?_⟩
  · refine gives_of_run hb (execFaultInTrip.eq_def ..) (decide_eq_true hn) ?_
    generalize hu : ({ b with plate := { b.plate with faultLevel := setBit b.plate.faultLevel n true } } : State) = u
    have hlevel : u.plate.faultLevel = setBit b.plate.faultLevel n true := by rw [← hu]
    have hnum : ∀ i j, u.num i j = b.num i j := fun i j => by rw [← hu]; rfl
    obtain ⟨h1, h2, h3⟩ := latchFaultIn_reads (s := u) hn (by rw [State.bit, hnum]; exact hon) (by rw [hlevel, testBit_setBit, if_pos rfl])
      (by rw [State.bit, hnum]; exact hoff)
    refine ⟨?_, ?_, fun h6 => ?_⟩
    · simpa [evKey] using h1
    · simpa using h2.trans hlevel
    · simpa using h3 (by rw [State.gfState, State.fld, hnum]; exact h6)
  · refine gives_of_run hb (execFaultInTrip.eq_def ..) (decide_eq_true hn) ?_
    simp [latchFaultIn, testBit_setBit, evKey]
  · refine gives_of_run hb (execReleaseFaultIn.eq_def ..) rfl ?_
    simp [hhost, tripRelease, hgf, hlevel, evKey, htwo]
  · refine gives_of_run hb (execReleaseFaultIn.eq_def ..) rfl ?_
    have hno : (decide (b.gfState = 6) && (b.plate.faultLevel &&& b.num 0x5310 1 == 0)) = false := by
      rcases hor with h | h <;> simp [h]
    simp [hhost, tripRelease, hno, evKey, htwo]
    exact State.bit_set b true (by decide)
  · refine gives_of_run hb (execReleaseChordTrip.eq_def ..) rfl ?_
    simp [hhost, tripRelease, hgf, hbeyond, evKey, htwo]
  · refine gives_of_run hb (execReleaseChordTrip.eq_def ..) rfl ?_
    have hno : (decide (b.gfState = 6) && !tripBeyond b) = false := by
      rcases hor with h | h <;> simp [h]
    simp [hhost, tripRelease, hno, evKey, htwo]
    exact State.bit_set b true (by decide)
  · have hlt : v < 2 ^ 32 := by split at hv <;> omega
    refine gives_of_run hb (execDisableMaskWrite.eq_def ..) (Bool.and_eq_true_iff.mpr ⟨decide_eq_true hi, decide_eq_true hlt⟩) ?_
    have hok : (hostOk b && (i != 2 || decide (v < 256))) = true := by
      by_cases h2 : i = 2 <;> simp_all
    have hfull : (b.setNum 0x5300 (i + 1) v).num 0x5300 (i + 1) = v := by
      rw [num_setNum_same]
      refine Nat.mod_eq_of_lt ?_
      rcases (by omega : i = 0 ∨ i = 1 ∨ i = 2) with rfl | rfl | rfl <;> simp_all
    rw [hok, if_pos rfl, disableWrite, hfull]
    refine ⟨?_, ?_⟩
    · rw [num_ended _ _ _ _ (by simp [evKey]; omega), forN_keep (fun u => u.num 0x5300 (i + 1)) _ _ (fun k u _ => by split <;> rfl), hfull]
    · rw [ended_waiting, forN, waiting_disableWrite (c := fun k => (b.num 0x5300 (i + 1)).testBit k == v.testBit k) (v := fun k => (v.testBit k).toNat)]
      rfl
  · refine gives_of_run hb (execCommissionEnter.eq_def ..) rfl ?_
    simp [hhost, enterCommission, hperm, hgf, htrip]
    split
    · simpa [State.commissioning, evKey] using State.bit_set b true (by decide)
    · simp_all
  · refine gives_of_run hb (execCommissionLeave.eq_def ..) rfl ?_
    rw [if_pos hhost]
    obtain ⟨hoff, hmap, hmaps, hblob, hpairs⟩ := leaveCommission_reads (way := 1) (by decide) hcomm
    refine ⟨?_, ?_, ?_, ?_, fun n hn => ?_⟩
    · simpa [State.commissioning, evKey] using hoff
    · simpa using hmap
    · simpa using hmaps
    · simpa [evKey] using hblob
    · rw [plateOf_ended]
      exact (settlePair_low _ _).2 (hpairs n hn)
  · refine gives_of_run hb (execOverrideMapWrite.eq_def ..) hm ?_
    simp [hhost, overrideWrite, hcomm, hok, evKey]
  · refine gives_of_run hb (execOverrideMapWrite.eq_def ..) hm ?_
    have hno : (b.commissioning && mapOk m) = false := by
      rcases hor with h | h <;> simp [h]
    simp [hhost, overrideWrite, hno, evKey]
    exact State.bit_set b true (by decide)
  · refine gives_of_run hb (execDebugHalt.eq_def ..) rfl ?_
    simp [hhalt]
  · refine gives_of_run hb (execDebugResume.eq_def ..) rfl ?_
    simp only [hhalt, Bool.not_true, Bool.false_eq_true, if_false]
    have hmiss : Own [.graphs] [] b (shiftGraph (b.now - b.plate.haltAt) .B (shiftGraph (b.now - b.plate.haltAt) .A (missTicks .B (missTicks .A b)))) :=
      Own.setGraph (by decide) (Own.setGraph (by decide) (Own.missTicks (by decide) (Own.missTicks (by decide) (Own.same b))))
    generalize shiftGraph (b.now - b.plate.haltAt) .B (shiftGraph (b.now - b.plate.haltAt) .A (missTicks .B (missTicks .A b))) = u at hmiss ⊢
    have hnow := hmiss.now (by decide)
    refine ⟨by simp [freshBeats], by simp [freshBeats, hnow], by simp [freshBeats], fun x => ?_⟩
    rw [ended_sideRt]
    exact missing_freshBeats _ x
end Sys2Proof
end

section
/-!
SUPPORT. Stacks and their link (R239 to R245, R330): one rule for the words of a stack, what starts on an idle link and what ends there, the clauses of O33 and the theorem that settles it.
-/
namespace Sys2Proof
open Sys2Proof.Machine

/-! ### Words of the stacks (Tables 08.8, 08.9) -/

theorem sizeOf_stack : ∀ k < 16, sizeOf (0x9010 + k) 3 = 2 ∧ sizeOf (0x9010 + k) 4 = 4 ∧ sizeOf (0x9010 + k) 5 = 4 ∧ sizeOf (0x9010 + k) 9 = 12 := by
  decide

theorem sizeOf_stackStatus : sizeOf 0x9000 5 = 2 := by decide

theorem evKey_stack {k j : Nat} (hk : k < 16) (hj : j < 256) : evKey ((0x9010 + k) * 256 + j) = false := evKey_eq_false hj (by omega)

/-- A flag of a stack after a write to one. -/
theorem bit_stack_set {k m n : Nat} (hk : k < 16) (hm : m < 16) (v : Bool) (s : State) :
    (s.setBitO (0x9010 + k) 3 n v).bit (0x9010 + k) 3 m = if m = n then v else s.bit (0x9010 + k) 3 m := by
  rw [State.bit_setBitO s v _ _ _ (by rw [(sizeOf_stack k hk).1]; exact hm)]
  simp

theorem bit_setStack (k : Nat) (v : Stack) (s : State) (i j n : Nat) : (s.setStack k v).bit i j n = s.bit i j n := rfl

theorem num_setStack (k : Nat) (v : Stack) (s : State) (i j : Nat) : (s.setStack k v).num i j = s.num i j := rfl

theorem stack_ended (s : State) (q : List Instr) (k : Nat) : (s.ended q).stack k = s.stack k := by simp [State.stack]

theorem stack_raise (s : State) (e p0 p1 p2 k : Nat) : (s.raise e p0 p1 p2).stack k = s.stack k := by simp [State.stack]

theorem bit_stack_raise {k j : Nat} (hk : k < 16) (hj : j < 256) (s : State) (e p0 p1 p2 n : Nat) :
    (s.raise e p0 p1 p2).bit (0x9010 + k) j n = s.bit (0x9010 + k) j n := by simp [State.bit, evKey_stack hk hj]

theorem bit_stack_ended {k j : Nat} (hk : k < 16) (hj : j < 256) (s : State) (q : List Instr) (n : Nat) :
    (s.ended q).bit (0x9010 + k) j n = s.bit (0x9010 + k) j n := by simp [State.bit, evKey_stack hk hj]

/-! ### The stack link (R239 to R245, R330) -/

/-- Nothing waits on the link. -/
def LinkAlone (s : State) : Prop := s.sharing.c5Tries = none ∧ s.sharing.linkC5 = [] ∧ s.sharing.link = []

theorem admitC5_none {s : State} (h : s.sharing.linkC5 = []) : admitC5 s = s := by simp [admitC5, h]

theorem dueLink_none {s : State} (h : s.sharing.linkC5 = []) : dueLink s = s := by
  unfold dueLink
  split
  · exact admitC5_none h
  · rfl

theorem linkPick_nil : linkPick [] = none := by decide

theorem linkKick_none {s : State} (h5 : s.sharing.linkC5 = []) (h : s.sharing.link = []) : linkKick s = s := by
  rw [linkKick, dueLink_none h5, linkKickGo, h, List.filter_nil, linkPick_nil]
  split
  · rfl
  · split <;> simp_all

theorem c5Done_none {s : State} (h5 : s.sharing.linkC5 = []) (h : s.sharing.link = []) :
    c5Done s = { s with sharing := { s.sharing with c5Tries := none, linkSince := s.now } } := linkKick_none h5 h

/-- The read or write in progress ends where nothing else waits. -/
theorem linkDone_none {s : State} {op k : Nat} (hk : k < 16) (h5 : s.sharing.linkC5 = []) (h : s.sharing.link = [])
    (hbusy : s.sharing.linkBusy = some (op, k)) : linkDone s =
      (({ s with sharing := { s.sharing with linkBusy := none } } : State).setBitO (0x9010 + k) 3 14 false).setBitO (0x9010 + k) 3 13 false := by
  simp only [linkDone, hbusy, if_pos hk]
  exact linkKick_none h5 h

/-- What stands after it. -/
theorem linkDone_reads {s : State} {op k : Nat} (hk : k < 16) (h5 : s.sharing.linkC5 = []) (h : s.sharing.link = [])
    (hbusy : s.sharing.linkBusy = some (op, k)) :
    (linkDone s).sharing.linkBusy = none ∧ (∀ j, (linkDone s).stack j = s.stack j) ∧
      (∀ n, n < 13 ∨ n = 15 → (linkDone s).bit (0x9010 + k) 3 n = s.bit (0x9010 + k) 3 n) ∧
      (∀ j, j ≠ 3 → j < 256 → (linkDone s).num (0x9010 + k) j = s.num (0x9010 + k) j ∧ (linkDone s).blob (0x9010 + k) j = s.blob (0x9010 + k) j) := by
  rw [linkDone_none hk h5 h hbusy]
  refine ⟨rfl, fun j => rfl, fun n hn => ?_, fun j hj hlt => ⟨?_, ?_⟩⟩
  · rw [bit_stack_set hk (by omega), bit_stack_set hk (by omega), if_neg (by omega), if_neg (by omega)]
    rfl
  · rw [num_setBitO_far _ _ _ _ _ _ _ (by omega), num_setBitO_far _ _ _ _ _ _ _ (by omega)]
    rfl
  · rw [blob_setBitO_far _ _ _ _ _ _ _ (by omega), blob_setBitO_far _ _ _ _ _ _ _ (by omega)]
    rfl

theorem linkPick_single : ∀ op < 4, ∀ k < 16, linkPick [(op, k)] = some (op, k) := by decide

/-- A read or a write that waits alone starts at once. -/
theorem linkKick_starts {s : State} {op k : Nat} (hk : k < 16) (hop : op < 4) (h5 : s.sharing.c5Tries = none) (hC5 : s.sharing.linkC5 = [])
    (hbusy : s.sharing.linkBusy = none) (hlink : s.sharing.link = [(op, k)])
    (hway : op = 0 ∨ (op = 3 ∨ stackValid s k = true) ∧ s.permission 7 = true) :
    (linkKick s).sharing.linkBusy = some (op, k) ∧ (linkKick s).bit (0x9010 + k) 3 (if op = 0 then 14 else 13) = true ∧
      ((linkKick s).stack k).lastTimer = (s.stack k).lastTimer := by
  have hpick : linkPick ([(op, k)].filter (fun e => decide (e.2 < 16))) = some (op, k) := by
    rw [List.filter_cons_of_pos (by simpa using hk)]
    exact linkPick_single op hop k hk
  rw [linkKick, dueLink_none hC5, linkKickGo, if_neg (by simp [h5])]
  split
  next op' k' _ hnext =>
    rw [hlink, hpick, Option.some.injEq, Prod.mk.injEq] at hnext
    obtain ⟨rfl, rfl⟩ := hnext
    dsimp only
    generalize hu : ({ s with sharing := { s.sharing with link := s.sharing.link.erase (op, k), linkBusy := some (op, k),
                                                                 linkSince := s.now, linkTx := 0 } } : State) = v
    generalize hs' : ({ s with sharing := { s.sharing with link := s.sharing.link.erase (op, k) } } : State) = s'
    have hstack : s'.stack k = s.stack k := by rw [← hs']; rfl
    have hbase : stackValid s' k = stackValid s k := by rw [← hs']; rfl
    have hperm : s'.permission 7 = s.permission 7 := by rw [← hs']; rfl
    have hcount : (countLink 3 v).sharing = v.sharing := (Own.countLink (P := []) (G := []) (Own.same v)).sharing (by decide)
    have hbusy' : (countLink 3 v).sharing.linkBusy = some (op, k) := by rw [hcount, ← hu]
    generalize countLink 3 v = u at hbusy'
    have hset : ∀ n < 16, ∀ v, ((u.setBitO (0x9010 + k) 3 n true).setStack k v).bit (0x9010 + k) 3 n = true := fun n hn v => by
      rw [bit_setStack, bit_stack_set hk hn, if_pos rfl]
    have hlast : ∀ n v, ((u.setBitO (0x9010 + k) 3 n true).setStack k v).sharing.linkBusy = some (op, k) := fun n v => hbusy'
    by_cases h0 : op = 0
    · rw [if_pos h0, if_pos h0]
      exact ⟨hlast _ _, hset 14 (by decide) _, by rw [stack_same, ← hstack]⟩
    · obtain ⟨hvalid, hp⟩ := hway.resolve_left h0
      have hno : (op != 3 && !stackValid s k) = false := by
        rcases hvalid with h | h <;> simp [h]
      rw [if_neg h0, if_neg h0, hbase, hperm, hno, hp, if_neg Bool.false_ne_true, Bool.not_true, if_neg Bool.false_ne_true]
      exact ⟨hlast _ _, hset 13 (by decide) _, by rw [stack_same, ← hstack]⟩
  next hnone => exact absurd (by rw [hlink]; exact hpick) (hnone op k hbusy)
/-! ### Reads of a record (R244, R245, R259) -/

theorem recordInvalid_reads {k way : Nat} (hk : k < 16) (s : State) :
    (recordInvalid k way s).sharing = s.sharing ∧ (recordInvalid k way s).bit (0x9010 + k) 3 15 = false ∧
      (recordInvalid k way s).bit (0x9010 + k) 3 0 = true := by
  have hown : Own [.stacks] [⟨0x9010, 0x901F, 3, 3⟩] s (recordInvalid k way s) := Own.recordInvalid (by decide) (by decide) hk (Own.same s)
  refine ⟨hown.sharing (by decide), ?_, ?_⟩
  · rw [recordInvalid, bit_stack_raise hk (by decide), bit_stack_set hk (by decide), bit_stack_set hk (by decide)]
    simp
  · rw [recordInvalid, bit_stack_raise hk (by decide), bit_stack_set hk (by decide), if_pos rfl]

theorem serial_loadAccount (k : Nat) (b : List Nat) (s : State) (hk : k < 16) : ((loadAccount k b s).stack k).serial = (s.stack k).serial := by
  have hdrop : ∀ u : State, ((dropRedirects k u).stack k) = u.stack k := fun u => by
    rw [State.stack, (Own.dropRedirects (P := [.plate, .pairs]) (G := []) (k := k) (by decide) (by decide) (Own.same u)).stk (by decide)]
    rfl
  rw [loadAccount, hdrop]
  simp [dropBring, State.stack, State.setStack]

/-- The Serial read is not the one held (R244). -/
def serialChanged (k : Nat) (d : List Nat) (s : State) : Bool :=
  match (s.stack k).serial with
  | some o => o != slice d 24 16
  | none => false

theorem stack_has {k i j : Nat} (hk : k < 16) (hj : j < 256) (h : j ≠ i) : (⟨0x9010, 0x901F, i, i⟩ : Objs).has ((0x9010 + k) * 256 + j) = false := by
  have h1 : ((0x9010 + k) * 256 + j) / 256 = 0x9010 + k := by omega
  have h2 : ((0x9010 + k) * 256 + j) % 256 = j := by omega
  simp only [Objs.has, h1, h2]
  simp; omega

/-- The objects of a stack's account. -/
def accountObjs : List Objs :=
  [⟨0x9010, 0x901F, 3, 3⟩, ⟨0x9010, 0x901F, 4, 4⟩, ⟨0x9010, 0x901F, 6, 6⟩, ⟨0x9010, 0x901F, 7, 7⟩, ⟨0x9010, 0x901F, 8, 8⟩]

/-- A record up to its Serial. -/
def serialTaken (k : Nat) (d : List Nat) (s : State) : State :=
  let u := s.setBlob (0x9010 + k) 2 d
  let u := if serialChanged k d u then (u.setBitO (0x9010 + k) 3 1 true).raise 178 k else u
  u.setStack k { u.stack k with serial := some (slice d 24 16) }

/-- Its account, from a copy. -/
def accountTaken (k : Nat) (c : List Nat) (z keep : Bool) (s : State) : State :=
  let u := if keep then s else loadAccount k c s
  let u := (u.setNum (0x9010 + k) 5 (field c 4 4)).setBitO (0x9010 + k) 3 15 true
  redirectActive k (u.setStack k { u.stack k with copyB := z, lastTimer := u.now, driven := if keep then (u.stack k).driven else 0 })

theorem takeRecord_eq {k : Nat} {d x y : List Nat} {s : State} (hd : identValid d = true) : takeRecord k d x y s =
    match adopted d x y with
    | none => recordInvalid k 2 (serialTaken k d s)
    | some (c, z) => accountTaken k c z (stackValid (serialTaken k d s) k && !serialChanged k d (s.setBlob (0x9010 + k) 2 d)) (serialTaken k d s) := by
  simp only [takeRecord, hd, Bool.not_true, Bool.false_eq_true, if_false]
  rfl

theorem serialTaken_reads {k : Nat} (d : List Nat) (hk : k < 16) (s : State) :
    (serialTaken k d s).sharing = s.sharing ∧ (serialTaken k d s).blob (0x9010 + k) 2 = d ∧
      ((serialTaken k d s).stack k).serial = some (slice d 24 16) := by
  have hG : Cov [⟨0x9010, 0x901F, 3, 3⟩] [⟨0x9010, 0x901F, 3, 3⟩] := by decide
  have hraise : Own [] [⟨0x9010, 0x901F, 3, 3⟩] (s.setBlob (0x9010 + k) 2 d) (if serialChanged k d (s.setBlob (0x9010 + k) 2 d) then
      ((s.setBlob (0x9010 + k) 2 d).setBitO (0x9010 + k) 3 1 true).raise 178 k else s.setBlob (0x9010 + k) 2 d) :=
    Own.ite (Own.raise (Own.setBitO (hG.hit 0x9010 0x901F 3 3 rfl (by omega) (by omega) (by decide) (by decide) (by decide)) (Own.same _))) (Own.same _)
  rw [serialTaken]
  dsimp only
  generalize (if serialChanged k d (s.setBlob (0x9010 + k) 2 d) = true then
      ((s.setBlob (0x9010 + k) 2 d).setBitO (0x9010 + k) 3 1 true).raise 178 k else s.setBlob (0x9010 + k) 2 d) = u at hraise ⊢
  refine ⟨hraise.sharing (by decide), ?_, by rw [stack_same]⟩
  have hblob := hraise.blobKept (0x9010 + k) 2 (evKey_stack hk (by decide)) (by simp [stack_has hk])
  exact hblob.trans (by simp)

theorem accountTaken_reads {k : Nat} (c : List Nat) (z keep : Bool) (hk : k < 16) (s : State) :
    let u := accountTaken k c z keep s
    u.sharing = s.sharing ∧ u.bit (0x9010 + k) 3 15 = true ∧ u.num (0x9010 + k) 5 = field c 4 4 % 2 ^ 32 ∧
      u.blob (0x9010 + k) 2 = s.blob (0x9010 + k) 2 ∧ (u.stack k).serial = (s.stack k).serial ∧ (u.stack k).copyB = z := by
  have hload : Own [.plate, .pairs, .stacks] accountObjs s (if keep then s else loadAccount k c s) :=
    Own.ite (Own.same s) (Own.loadAccount (by decide) (by decide) (by decide) (by decide) hk (Own.same s))
  have hserial : ((if keep then s else loadAccount k c s).stack k).serial = (s.stack k).serial := by
    split
    · rfl
    · exact serial_loadAccount k c s hk
  have hred : ∀ u : State, Own [.plate, .pairs] [] u (redirectActive k u) := fun u => Own.redirectActive (by decide) (by decide) (Own.same u)
  intro u
  have hu : u = accountTaken k c z keep s := rfl
  clear_value u
  rw [accountTaken] at hu
  dsimp only at hu
  generalize (if keep = true then s else loadAccount k c s) = v at hu hload hserial
  generalize hw : ((v.setNum (0x9010 + k) 5 (field c 4 4)).setBitO (0x9010 + k) 3 15 true) = w at hu
  have hown := hred (w.setStack k { w.stack k with copyB := z, lastTimer := w.now, driven := if keep = true then (w.stack k).driven else 0 })
  rw [← hu] at hown
  have hstack : u.stack k = { w.stack k with copyB := z, lastTimer := w.now, driven := if keep = true then (w.stack k).driven else 0 } := by
    rw [State.stack, hown.stk (by decide)]
    exact stack_same ..
  refine ⟨?_, ?_, ?_, ?_, ?_, ?_⟩
  · rw [hown.sharing (by decide), ← hload.sharing (by decide), ← hw]
    rfl
  · rw [State.bit, hown.numKept (0x9010 + k) 3 (evKey_stack hk (by decide)) (by simp), num_setStack, ← hw]
    exact State.bit_set _ true (by rw [(sizeOf_stack k hk).1]; decide)
  · rw [hown.numKept (0x9010 + k) 5 (evKey_stack hk (by decide)) (by simp), num_setStack, ← hw, num_setBitO_far _ _ _ _ _ _ _ (by omega),
      num_setNum_same, (sizeOf_stack k hk).2.2.1]
  · rw [hown.blobKept (0x9010 + k) 2 (evKey_stack hk (by decide)) (by simp), ← hload.blobKept (0x9010 + k) 2 (evKey_stack hk (by decide))
      (by simp [accountObjs, stack_has hk]), ← hw]
    have hflag := blob_setBitO (v.setNum (0x9010 + k) 5 (field c 4 4)) (0x9010 + k) 3 15 true (0x9010 + k) 2 (by omega)
    exact hflag.trans (blob_setNum_far v (0x9010 + k) 5 _ (0x9010 + k) 2 (by omega))
  · rw [hstack, ← hserial, ← hw]
    rfl
  · rw [hstack]

/-- A valid record found is the stack's (R244). -/
theorem takeRecord_reads {k : Nat} {d x y c : List Nat} {z : Bool} {s : State} (hk : k < 16) (hd : identValid d = true) (hc : adopted d x y = some (c, z)) :
    let u := takeRecord k d x y s
    u.sharing = s.sharing ∧ u.bit (0x9010 + k) 3 15 = true ∧ u.num (0x9010 + k) 5 = field c 4 4 % 2 ^ 32 ∧ u.blob (0x9010 + k) 2 = d ∧
      (u.stack k).serial = some (slice d 24 16) ∧ (u.stack k).copyB = z := by
  obtain ⟨hsharing, hblob, hserial⟩ := serialTaken_reads d hk s
  rw [takeRecord_eq hd, hc, ← hsharing, ← hserial]
  have haccount := accountTaken_reads c z (stackValid (serialTaken k d s) k && !serialChanged k d (s.setBlob (0x9010 + k) 2 d)) hk (serialTaken k d s)
  rw [hblob] at haccount
  exact haccount

theorem takeRecord_invalid {k : Nat} {d x y : List Nat} {s : State} (hk : k < 16) (h : identValid d = false ∨ adopted d x y = none) :
    (takeRecord k d x y s).sharing = s.sharing ∧ (takeRecord k d x y s).bit (0x9010 + k) 3 15 = false ∧
      (takeRecord k d x y s).bit (0x9010 + k) 3 0 = true := by
  cases hd : identValid d with
  | false =>
    have hinvalid : takeRecord k d x y s = recordInvalid k 1 (s.setBlob (0x9010 + k) 2 d) := by simp [takeRecord, hd]
    rw [hinvalid]
    exact recordInvalid_reads hk _
  | true =>
    rw [takeRecord_eq hd, h.resolve_left (by simp [hd]), ← (serialTaken_reads d hk s).1]
    exact recordInvalid_reads hk _

/-- The status of a stack command. -/
theorem num_stackStatus (code why : Nat) (s : State) : (stackStatus code why s).num 0x9000 5 = (code <<< 12 ||| why) % 2 ^ 16 := by
  rw [stackStatus]
  split
  · rw [num_setNum_same, sizeOf_stackStatus]
  · rw [num_raise _ _ _ _ _ _ _ (by decide), num_setNum_same, sizeOf_stackStatus]

theorem maskList_single_stack : ∀ k < 16, maskList 16 (2 ^ k) = [k] := by decide

/-- A first or second failure of a transaction is one more attempt (R241). -/
theorem transactionFails_reads {k op : Nat} {s : State} (h5 : s.sharing.c5Tries = none) (hbusy : s.sharing.linkBusy = some (op, k))
    (hn : (s.stack k).attempts < 2) :
    ((transactionFails k s).stack k).attempts = (s.stack k).attempts + 1 ∧ (transactionFails k s).sharing = s.sharing := by
  have hmore : (s.stack k).attempts + 1 < 3 := by omega
  simp only [transactionFails, h5, hbusy, ne_eq, not_true, if_false, hmore, if_true, stack_same]
  exact ⟨trivial, rfl⟩

/-- An accepted command of a stack whose transaction started. -/
theorem started_reads {k op n code : Nat} {s : State} {q : List Instr} (hk : k < 16)
    (h : s.sharing.linkBusy = some (op, k) ∧ s.bit (0x9010 + k) 3 n = true ∧ (s.stack k).lastTimer = m) :
    ((stackStatus code 0 s).ended q).sharing.linkBusy = some (op, k) ∧ ((stackStatus code 0 s).ended q).bit (0x9010 + k) 3 n = true ∧
      ((stackStatus code 0 s).ended q).num 0x9000 5 = (code <<< 12 ||| 0) % 2 ^ 16 := by
  obtain ⟨hbusy, hbit, -⟩ := h
  refine ⟨?_, ?_, ?_⟩
  · simpa [stackStatus] using hbusy
  · rw [bit_stack_ended hk (by decide), State.bit, stackStatus, if_pos rfl, num_setNum_far _ _ _ _ _ _ (by omega)]
    exact hbit
  · rw [num_ended _ _ _ _ (by decide), num_stackStatus]

/-- Settles O33: the stack link and what queues on it. -/
theorem stackLinkCompletes : Obligations.StackLinkCompletes := by
  intro s t b c3 alone
  have hb : s.arrive t = b := rfl
  clear_value b
  refine ⟨fun k op hk h5 hC5 hbusy hway => ?_, fun k op hk h5 hbusy hn => ?_, fun k n hk h5 hn => ?_, fun k n ok hk h5 hway hlink hC5 => ?_,
    fun k op hk ⟨h5, hC5, hlink⟩ hbusy hn => ?_, fun k op hk h5 hbusy hn => ?_, fun k op hk h5 hbusy hop hn => ?_,
    fun k d x y c z hk hd hx hy ⟨h5, hC5, hlink⟩ hbusy hv ha => ?_, fun k d x y hk hd hx hy ⟨h5, hC5, hlink⟩ hbusy hbad => ?_,
    fun k hk hhost hstop hpres hv hp ⟨h5, hC5, hlink⟩ hbusy => ?_, fun k a hk hhost => ?_,
    fun k hk hhost hpres ⟨h5, hC5, hlink⟩ hbusy => ?_, fun k a hk hhost => ?_,
    fun k hk hhost hstop hp hpres hv ⟨h5, hC5, hlink⟩ hbusy => ?_⟩
  · refine gives_of_run hb (execStackTransaction.eq_def ..) (decide_eq_true hk) ?_
    have h5 : b.sharing.c5Tries = none := h5
    have hgo : (op != 0 && !b.permission 7) = false := by rcases hway with h | h <;> simp [h]
    simp only [if_true, transactionOk, h5, hbusy, ne_eq, not_true, if_false, hgo, Bool.false_eq_true, nextTransaction]
    rw [admitC5_none (by exact hC5), stack_ended]
    exact ⟨by rw [State.stack]; simp [State.setStack], by simp [State.setStack, h5, hbusy]⟩
  · refine gives_of_run hb (execStackTransaction.eq_def ..) (decide_eq_true hk) ?_
    simpa [stack_ended] using transactionFails_reads h5 hbusy hn
  · refine gives_of_run hb (execStackTransaction.eq_def ..) (decide_eq_true hk) ?_
    simp [transactionFails, h5, hn]
  · refine gives_of_run hb (execStackTransaction.eq_def ..) (decide_eq_true hk) ?_
    have hdone : (if ok = true then transactionOk k else transactionFails k) b = c5Done b := by
      rcases hway with rfl | hn
      · simp [transactionOk, h5]
      · cases ok with
        | false => simp [transactionFails, h5, Nat.not_lt.mpr hn]
        | true => simp [transactionOk, h5]
    rw [hdone, c5Done_none hC5 hlink]
    simp
  · refine gives_of_run hb (execStackTransaction.eq_def ..) (decide_eq_true hk) ?_
    have h5 : b.sharing.c5Tries = none := h5
    have hlast : ¬ (b.stack k).attempts + 1 < 3 := by omega
    simp only [Bool.false_eq_true, if_false, transactionFails, h5, hbusy, ne_eq, not_true, hlast]
    generalize hw : ((b.setStack k { b.stack k with attempts := 0 }).setBitO (0x9010 + k) 3 3 true).raise 176 k = w
    have hsharing : w.sharing = b.sharing := by rw [← hw]; simp [State.setStack]
    obtain ⟨h1, h2, h3, h4⟩ := linkDone_reads hk (hsharing ▸ hC5) (hsharing ▸ hlink) (hsharing ▸ hbusy)
    refine ⟨?_, ?_, by simpa using h1⟩
    · rw [stack_ended, h2, ← hw, stack_raise]
      exact congrArg Stack.attempts (stack_same ..)
    · rw [bit_stack_ended hk (by decide), h3 _ (by decide), ← hw, bit_stack_raise hk (by decide), bit_stack_set hk (by decide), if_pos rfl]
  · refine gives_of_run hb (execStretchTimeout.eq_def ..) (decide_eq_true hk) ?_
    simpa [stack_ended] using (transactionFails_reads h5 hbusy hn).1
  · refine gives_of_run hb (execPollTimeout.eq_def ..) (decide_eq_true hk) ?_
    have hon : (b.sharing.c5Tries.isSome || b.sharing.linkBusy.any (fun e => e.1 != 0)) = true := by simp [hbusy, hop]
    rw [hon, if_pos rfl]
    simpa [stack_ended] using (transactionFails_reads h5 hbusy hn).1
  · refine gives_of_run hb (execStackReadDone.eq_def ..) (by simp_all [Instr.wf]) ?_
    rw [if_pos ⟨by simp [h5], hbusy⟩]
    obtain ⟨hsharing, hvalid, hgen, hident, hserial, hcopy⟩ := takeRecord_reads (s := b) hk hv ha
    generalize takeRecord k d x y b = w at *
    obtain ⟨h1, h2, h3, h4⟩ := linkDone_reads hk (hsharing ▸ hC5) (hsharing ▸ hlink) (hsharing ▸ hbusy)
    refine ⟨?_, ?_, ?_, ?_, ?_, by simpa using h1⟩
    · rw [bit_stack_ended hk (by decide), h3 _ (by decide), hvalid]
    · rw [num_ended _ _ _ _ (evKey_stack hk (by decide)), (h4 5 (by decide) (by decide)).1, hgen]
    · rw [blob_ended _ _ _ _ (evKey_stack hk (by decide)), (h4 2 (by decide) (by decide)).2, hident]
    · rw [stack_ended, h2, hserial]
    · rw [stack_ended, h2, hcopy]
  · refine gives_of_run hb (execStackReadDone.eq_def ..) (by simp_all [Instr.wf]) ?_
    rw [if_pos ⟨by simp [h5], hbusy⟩]
    obtain ⟨hsharing, hvalid, hflag⟩ := takeRecord_invalid (s := b) hk hbad
    generalize takeRecord k d x y b = w at *
    obtain ⟨h1, h2, h3, h4⟩ := linkDone_reads hk (hsharing ▸ hC5) (hsharing ▸ hlink) (hsharing ▸ hbusy)
    refine ⟨?_, ?_, by simpa using h1⟩
    · rw [bit_stack_ended hk (by decide), h3 _ (by decide), hvalid]
    · rw [bit_stack_ended hk (by decide), h3 _ (by decide), hflag]
  · refine gives_of_run hb (execFlush.eq_def ..) (decide_eq_true hk) ?_
    have hstart := linkKick_starts (s := { b with sharing := { b.sharing with link := [(2, k)] } }) hk (by decide) h5 hC5 hbusy rfl (.inr ⟨.inr hv, hp⟩)
    have hway : (if hostOk b = true then doFlush k false b else b) = stackStatus 1 0 (linkKick { b with sharing := { b.sharing with link := [(2, k)] } }) := by
      simp [hhost, doFlush, hstop, hpres, hv, forMask, maskList_single_stack k hk, queueWrite, hp, hlink]
    rw [hway]
    exact started_reads hk hstart
  · refine gives_of_run hb (execFlush.eq_def ..) (decide_eq_true hk) ?_
    rw [if_pos hhost, num_ended _ _ _ _ (by decide), doFlush]
    cases hs : b.stopped with
    | false => simp [num_stackStatus]
    | true =>
      have hiff : (!a && (!stackPresent b k || !stackValid b k)) = decide (a = false ∧ (stackPresent b k = false ∨ stackValid b k = false)) := by
        cases a <;> cases stackPresent b k <;> cases stackValid b k <;> rfl
      rw [hiff]
      simp [apply_ite (fun u : State => u.num 0x9000 5), num_stackStatus]
  · refine gives_of_run hb (execRescan.eq_def ..) (decide_eq_true hk) ?_
    have hstart := linkKick_starts (s := { b with sharing := { b.sharing with link := [(0, k)] } }) hk (by decide) h5 hC5 hbusy rfl (.inl rfl)
    have hway : (if hostOk b = true then doRescan k false b else b) = stackStatus 2 0 (linkKick { b with sharing := { b.sharing with link := [(0, k)] } }) := by
      simp [hhost, doRescan, hpres, forMask, maskList_single_stack k hk, queueRead, hlink]
    rw [hway]
    exact started_reads hk hstart
  · refine gives_of_run hb (execRescan.eq_def ..) (decide_eq_true hk) ?_
    rw [if_pos hhost, num_ended _ _ _ _ (by decide), doRescan]
    have hiff : (!a && !stackPresent b k) = decide (a = false ∧ stackPresent b k = false) := by
      cases a <;> cases stackPresent b k <;> rfl
    rw [hiff]
    simp [apply_ite (fun u : State => u.num 0x9000 5), num_stackStatus]
  · refine gives_of_run hb (execInitRecord.eq_def ..) (decide_eq_true hk) ?_
    have hstart := linkKick_starts (s := { b with sharing := { b.sharing with link := [(3, k)] } }) hk (by decide) h5 hC5 hbusy rfl (.inr ⟨.inl rfl, hp⟩)
    have hway : (if hostOk b = true then doInit k b else b) = stackStatus 3 0 (linkKick { b with sharing := { b.sharing with link := [(3, k)] } }) := by
      simp [hhost, doInit, hstop, hp, hpres, hv, hlink]
    rw [hway]
    exact started_reads hk hstart
end Sys2Proof
end

section
/-!
SUPPORT. Life records, postings, hours, wear and the spares of stacks (R249 to R258): one rule for each change of a stack, the clauses of O34 and the theorem that settles it.
-/
namespace Sys2Proof
open Sys2Proof.Machine

/-! ### Life records and spares (R249 to R258) -/

theorem ended_graphs (s : State) (q : List Instr) : (s.ended q).graphs = s.graphs := by simp

theorem bit_setLeg {k j : Nat} (hk : k < 16) (hj : j < 256) (h : j ≠ 7) (l r v n : Nat) (s : State) (hl : l < 16) :
    (setLeg l r v s).bit (0x9010 + k) j n = s.bit (0x9010 + k) j n := by
  rw [State.bit, setLeg, num_setBlob_far _ _ _ _ _ _ (by omega)]
  rfl

theorem dropBring_reads {k : Nat} (hk : k < 16) (s : State) :
    ((dropBring k s).stack k).bring = none ∧ (dropBring k s).bit (0x9010 + k) 3 12 = false := by
  refine ⟨?_, ?_⟩
  · exact congrArg Stack.bring (stack_same (s := s) k _)
  · rw [dropBring, bit_stack_set hk (by decide), if_pos rfl]

/-- A bring-in that took effect is no longer armed (R258). -/
theorem bringEffect_reads {k : Nat} (hk : k < 16) {s : State} (h : (s.stack k).bring.isSome = true) :
    ((bringEffect k s).stack k).bring = none ∧ (bringEffect k s).bit (0x9010 + k) 3 12 = false := by
  have hred : ∀ r (u : State), Own [.plate, .pairs] [] u (redirect k r u) := fun r u => Own.redirect (by decide) (by decide) (Own.same u)
  have hshares : ∀ w (u : State), Own [.graphs] [] u (recomputeShares w u) := fun w u => Own.recomputeShares (by decide) (Own.same u)
  obtain ⟨hnone, hflag⟩ := dropBring_reads hk s
  unfold bringEffect
  split
  next hno => simp [hno] at h
  next br _ =>
    dsimp only
    have hu := hred br.leg (dropBring k s)
    generalize redirect k br.leg (dropBring k s) = u at hu ⊢
    have hstack : u.stack k = (dropBring k s).stack k := by rw [State.stack, hu.stk (by decide)]; rfl
    have hbit : u.bit (0x9010 + k) 3 12 = false := by
      rw [State.bit, hu.numKept (0x9010 + k) 3 (evKey_stack hk (by decide)) rfl]
      exact hflag
    refine ⟨?_, ?_⟩
    · rw [State.stack, (hshares _ _).stk (by decide)]
      refine (congrArg Stack.bring (stack_raise ..)).trans ?_
      rw [stack_same]
      exact (congrArg Stack.bring hstack).trans hnone
    · rw [State.bit, (hshares _ _).numKept (0x9010 + k) 3 (evKey_stack hk (by decide)) rfl, ← State.bit, bit_stack_raise hk (by decide), bit_setStack,
        bit_setLeg hk (by decide) (by decide) _ _ _ _ _ hk, bit_setLeg hk (by decide) (by decide) _ _ _ _ _ hk, hbit]

theorem blob_setStack (k : Nat) (v : Stack) (s : State) (i j : Nat) : (s.setStack k v).blob i j = s.blob i j := rfl

/-- A write of a stack once its last page is written (R251). -/
def recordWritten (k : Nat) (toB : Bool) (st : Stack) (s : State) : State :=
  let u := s.emit 7 k (beBytes 3 (if toB then 0xA000 else 0x1000) ++ st.snapshot.drop 256 ++ st.snapshot.take 256)
  let u := (u.setNum (0x9010 + k) 5 (field st.snapshot 4 4)).setNum (0x9010 + k) 9 (toT96 u.ridge)
  (u.setStack k { u.stack k with copyB := toB, writeCount := field st.snapshot 12 4, lastTimer := u.now, snapshot := [] }).raise 179 k
    (field st.snapshot 4 4)

theorem recordWritten_reads {k : Nat} (hk : k < 16) (toB : Bool) (st : Stack) (s : State) :
    let u := recordWritten k toB st s
    u.sharing = s.sharing ∧ u.num (0x9010 + k) 5 = field st.snapshot 4 4 % 2 ^ 32 ∧ u.num (0x9010 + k) 9 = toT96 s.ridge % 2 ^ 96 ∧
      (u.stack k).copyB = toB ∧ u.bit (0x9010 + k) 3 15 = s.bit (0x9010 + k) 3 15 ∧ u.blob (0x9010 + k) 6 = s.blob (0x9010 + k) 6 := by
  obtain ⟨-, -, h5, h9⟩ := sizeOf_stack k hk
  dsimp only
  refine ⟨?_, ?_, ?_, ?_, ?_, ?_⟩
  · simp [recordWritten, State.setStack]
  · rw [recordWritten, num_raise _ _ _ _ _ _ _ (evKey_stack hk (by decide)), num_setStack, num_setNum_far _ _ _ _ _ _ (by omega), num_setNum_same, h5]
  · rw [recordWritten, num_raise _ _ _ _ _ _ _ (evKey_stack hk (by decide)), num_setStack, num_setNum_same, h9]
    rfl
  · rw [recordWritten, stack_raise, stack_same]
  · rw [recordWritten, bit_stack_raise hk (by decide), bit_setStack, State.bit, num_setNum_far _ _ _ _ _ _ (by omega),
      num_setNum_far _ _ _ _ _ _ (by omega)]
    rfl
  · rw [recordWritten, blob_raise _ _ _ _ _ _ _ (evKey_stack hk (by decide)), blob_setStack, blob_setNum_far _ _ _ _ _ _ (by omega),
      blob_setNum_far _ _ _ _ _ _ (by omega)]
    rfl

theorem lifeWritten_eq {k op : Nat} {s : State} (h5 : s.sharing.c5Tries = none) (hbusy : s.sharing.linkBusy = some (op, k)) (hop : op ≠ 0)
    (hp : s.permission 7 = true) : lifeWritten k s = linkDone (recordWritten k (op != 3 && !(s.stack k).copyB) (s.stack k)
      (if op = 3 then (initAccount k (dropRedirects k s)).setBitO (0x9010 + k) 3 15 true else s)) := by
  have hno : ¬ (k ≠ k ∨ op = 0 ∨ s.sharing.c5Tries.isSome = true) := by simp [hop, h5]
  unfold lifeWritten
  rw [hbusy]
  dsimp only
  rw [if_neg (by simpa using hno), hp]
  rfl

/-- The shares formed of a list of groups (R254). -/
theorem shares_recompute (l : List Nat) (s : State) : (l.foldl (fun s w => recomputeShares w s) s).graphs.shares =
    s.graphs.shares ++ (l.filter (wearEnabled s)).map (fun w => (w, s.appTime, wearShares s w)) := by
  have hkeep : ∀ (u : State) g, wearEnabled { u with graphs := g } = wearEnabled u ∧ ({ u with graphs := g } : State).appTime = u.appTime ∧
      wearShares { u with graphs := g } = wearShares u := fun u g => ⟨rfl, rfl, rfl⟩
  induction l generalizing s with
  | nil => simp
  | cons w l ih =>
    rw [List.foldl_cons, ih]
    cases hw : wearEnabled s w with
    | false => simp [recomputeShares, hw]
    | true =>
      obtain ⟨h1, h2, h3⟩ := hkeep s { s.graphs with shares := s.graphs.shares ++ [(w, s.appTime, wearShares s w)] }
      simp [recomputeShares, hw, h1, h2, h3]

/-- A record queued for its write where nothing else waits (R251). -/
theorem queueWrite_alone {k : Nat} {s : State} (hlink : s.sharing.link = []) (hv : stackValid s k = true) (hp : s.permission 7 = true) :
    queueWrite false k s = linkKick { s with sharing := { s.sharing with link := [(2, k)] } } := by
  simp [queueWrite, hv, hp, hlink]

/-- A posting of no stack joins the instances that are mapped to none (R249). -/
theorem applyPosting_unmapped {q : Posting} (s : State) (h : 16 ≤ q.stack) : (applyPosting q s).graphs.misMapped.contains q.record = true := by
  have hbad : (decide (16 ≤ q.stack) || !stackValid s q.stack || decide (legCount s q.stack ≤ q.leg) || decide (2 ≤ q.sw)) = true := by simp [h]
  unfold applyPosting
  dsimp only
  rw [if_pos hbad]
  split
  · assumption
  · simp

theorem postings_applyPosting (q : Posting) (s : State) : (applyPosting q s).graphs.postings = s.graphs.postings := by
  have hcount : ∀ k p c (u : State), (countCycle k p c u).graphs = u.graphs := fun k p c u => rfl
  unfold applyPosting
  dsimp only
  split
  · split
    · rfl
    · simp
  · have hfold : ∀ p (u : State), (q.cycles.foldl (fun s c => countCycle q.stack p c s) u).graphs = u.graphs :=
      fun p u => foldl_keep (fun u => u.graphs) q.cycles _ (fun u c _ => hcount q.stack p c u) u
    have hpeak : ∀ (c : Bool) v (u : State), (if c = true then u.setStack q.stack v else u).graphs = u.graphs := fun c v u => by cases c <;> rfl
    rw [hpeak, hfold]

/-- Settles O34: life records, postings, hours, wear and the spares of stacks. -/
theorem stackLifeCompletes : Obligations.StackLifeCompletes := by
  intro s t b alone
  have hb : s.arrive t = b := rfl
  clear_value b
  refine ⟨fun k r hk hr hhost hpres hok => ?_, fun k r hk hr hhost hbad => ?_, fun k br hk hhost hpres hbr => ?_, fun k hk hhost hbad => ?_,
    fun k hk hv hdue hp ⟨h5, hC5, hlink⟩ hbusy => ?_, fun k hk hv hdue hp => ?_, fun k op hk hbusy hop hp ⟨h5, hC5, hlink⟩ => ?_,
    fun k hk hbusy hp ⟨h5, hC5, hlink⟩ => ?_, fun q hq => ?_, fun k hk hdrive => ?_, ?_, fun k br hk hbr happ hcross hgf => ?_,
    fun k br hk hbr happ h1 h2 h3 h6 => ?_, fun k br hk hbr happ hstop => ?_, fun k br hk hbr hcross hgf hmax => ?_⟩
  · refine gives_of_run hb (execBringIn.eq_def ..) (by simp_all [Instr.wf]) ?_
    have hway : (if hostOk b = true then doBringIn k r b else b) = stackStatus 4 0 (armSpare k r b) := by
      simp [hhost, doBringIn, hpres, hok]
    rw [hway]
    refine ⟨?_, ?_, (num_ended _ _ _ _ (by decide)).trans (num_stackStatus ..)⟩
    · rw [stack_ended, stackStatus, if_pos rfl]
      simp [armSpare, State.stack, State.setStack]
    · rw [bit_stack_ended hk (by decide), State.bit, stackStatus, if_pos rfl, num_setNum_far _ _ _ _ _ _ (by omega)]
      rw [← State.bit, armSpare, bit_stack_raise hk (by decide), bit_stack_set hk (by decide), if_pos rfl]
  · refine gives_of_run hb (execBringIn.eq_def ..) (by simp_all [Instr.wf]) ?_
    have hno : Own [] [] b (noSpare k r (b.raise 186 k r)) := Own.noSpare (Own.raise (Own.same b))
    have hstat : ∀ w (u : State), (stackStatus 4 w u).stk = u.stk := fun w u => by
      rw [(Own.stackStatus (P := []) (G := [⟨0x9000, 0x9000, 5, 5⟩]) (by decide) (Own.same u)).stk (by decide)]
    rw [if_pos hhost]
    refine ⟨?_, ?_⟩
    · have hstk : (doBringIn k r b).stk = b.stk := by
        unfold doBringIn
        split
        · exact hstat _ _
        · rw [if_pos (hbad.resolve_left (by simp_all)), hstat, hno.stk (by decide)]
      simpa using hstk
    · rw [num_ended _ _ _ _ (by decide), doBringIn]
      cases hp : stackPresent b k with
      | false => simp [num_stackStatus]
      | true => cases hv : stackValid b k <;> simp [num_stackStatus, hbad.resolve_left (by simp [hp])]
  · refine gives_of_run hb (execCancelBringIn.eq_def ..) (by simp_all [Instr.wf]) ?_
    have hway : (if hostOk b = true then doCancelBring k b else b) = stackStatus 5 0 (dropBring k b) := by
      simp [hhost, doCancelBring, hpres, hbr]
    rw [hway]
    obtain ⟨hnone, hflag⟩ := dropBring_reads hk b
    refine ⟨?_, ?_, (num_ended _ _ _ _ (by decide)).trans (num_stackStatus ..)⟩
    · rw [stack_ended, stackStatus, if_pos rfl]
      exact hnone
    · rw [bit_stack_ended hk (by decide), State.bit, stackStatus, if_pos rfl, num_setNum_far _ _ _ _ _ _ (by omega)]
      exact hflag
  · refine gives_of_run hb (execCancelBringIn.eq_def ..) (by simp_all [Instr.wf]) ?_
    rw [if_pos hhost, num_ended _ _ _ _ (by decide), doCancelBring]
    cases hp : stackPresent b k with
    | false => simp [num_stackStatus]
    | true => simp [num_stackStatus, hbad.resolve_left (by simp [hp])]
  · refine gives_of_run hb (execLifeWriteInterval.eq_def ..) (by simp_all [Instr.wf]) ?_
    simp only [hv, hdue, decide_true, Bool.and_self, if_true]
    have hstart := linkKick_starts (s := { b.setStack k { b.stack k with lastTimer := b.now } with sharing := { b.sharing with link := [(2, k)] } })
      hk (by decide) h5 hC5 hbusy rfl (.inr ⟨.inr hv, hp⟩)
    have hway := queueWrite_alone (s := b.setStack k { b.stack k with lastTimer := b.now }) hlink hv hp
    obtain ⟨hbusy', -, hlast⟩ := hstart
    rw [hway]
    refine ⟨by simpa [State.setStack] using hbusy', ?_⟩
    rw [stack_ended]
    refine hlast.trans ?_
    exact congrArg Stack.lastTimer (stack_same ..)
  · refine gives_of_run hb (execLifeWriteInterval.eq_def ..) (by simp_all [Instr.wf]) ?_
    have hv' : stackValid (b.setStack k { b.stack k with lastTimer := b.now }) k = true := hv
    have hp' : (b.setStack k { b.stack k with lastTimer := b.now }).permission 7 = false := hp
    simp only [hv, hdue, decide_true, Bool.and_self, if_true, queueWrite, hv', hp', Bool.not_true, Bool.not_false, Bool.false_eq_true, if_false]
    refine ⟨?_, ?_, by simp [writeFail, State.setStack]⟩
    · rw [bit_stack_ended hk (by decide), writeFail, bit_stack_raise hk (by decide), bit_stack_set hk (by decide), if_pos rfl]
    · rw [stack_ended, writeFail, stack_raise]
      exact congrArg Stack.lastTimer (stack_same ..)
  · refine gives_of_run hb (execLifeWritten.eq_def ..) (by simp_all [Instr.wf]) ?_
    have h3 : op ≠ 3 := by omega
    rw [lifeWritten_eq h5 hbusy (by omega) hp, if_neg h3]
    obtain ⟨hsharing, hgen, htime, hcopy, -, -⟩ := recordWritten_reads hk (op != 3 && !(b.stack k).copyB) (b.stack k) b
    generalize recordWritten k (op != 3 && !(b.stack k).copyB) (b.stack k) b = w at *
    obtain ⟨h1, h2, -, h4⟩ := linkDone_reads hk (hsharing ▸ hC5) (hsharing ▸ hlink) (hsharing ▸ hbusy)
    refine ⟨?_, ?_, ?_, by simpa using h1⟩
    · rw [num_ended _ _ _ _ (evKey_stack hk (by decide)), (h4 5 (by decide) (by decide)).1, hgen]
    · rw [num_ended _ _ _ _ (evKey_stack hk (by decide)), (h4 9 (by decide) (by decide)).1, htime]
    · rw [stack_ended, h2, hcopy]
      simp [h3]
  · refine gives_of_run hb (execLifeWritten.eq_def ..) (by simp_all [Instr.wf]) ?_
    rw [lifeWritten_eq h5 hbusy (by decide) hp, if_pos rfl]
    have hdrop : Own [.plate, .pairs] [] b (dropRedirects k b) := Own.dropRedirects (by decide) (by decide) (Own.same b)
    have hinit : Own [.plate, .pairs, .stacks] [⟨0x9010, 0x901F, 6, 6⟩, ⟨0x9010, 0x901F, 7, 7⟩, ⟨0x9010, 0x901F, 8, 8⟩] b (initAccount k (dropRedirects k b)) :=
      Own.initAccount (by decide) (by decide) hk (Own.dropRedirects (by decide) (by decide) (Own.same b))
    have hlife : (initAccount k (dropRedirects k b)).blob (0x9010 + k) 6 = List.replicate 128 0 := by
      simp [initAccount, blob_setStack]
    generalize initAccount k (dropRedirects k b) = v at hinit hlife ⊢
    obtain ⟨hsharing, hgen, -, hcopy, hvalid, hblob⟩ := recordWritten_reads hk (3 != 3 && !(b.stack k).copyB) (b.stack k) (v.setBitO (0x9010 + k) 3 15 true)
    have hsharing := hsharing.trans (hinit.sharing (by decide))
    generalize recordWritten k (3 != 3 && !(b.stack k).copyB) (b.stack k) (v.setBitO (0x9010 + k) 3 15 true) = w at *
    obtain ⟨h1, h2, h3, h4⟩ := linkDone_reads hk (hsharing ▸ hC5) (hsharing ▸ hlink) (hsharing ▸ hbusy)
    refine ⟨?_, ?_, ?_, ?_, by simpa using h1⟩
    · rw [bit_stack_ended hk (by decide), h3 _ (by decide), hvalid, bit_stack_set hk (by decide), if_pos rfl]
    · rw [num_ended _ _ _ _ (evKey_stack hk (by decide)), (h4 5 (by decide) (by decide)).1, hgen]
    · rw [blob_ended _ _ _ _ (evKey_stack hk (by decide)), (h4 6 (by decide) (by decide)).2, hblob, blob_setBitO _ _ _ _ _ _ _ (by omega), hlife]
    · rw [stack_ended, h2, hcopy]
      rfl
  · refine gives_of_run hb (execRainflowPosting.eq_def ..) rfl ?_
    rw [hq]
    dsimp only
    refine ⟨by rw [ended_graphs, postings_applyPosting], fun h16 => by rw [ended_graphs]; exact applyPosting_unmapped _ h16⟩
  · refine gives_of_run hb (execStackHours.eq_def ..) (by simp_all [Instr.wf]) ?_
    simp only [hdrive, if_true]
    refine ⟨?_, by rw [stack_ended, stack_same]⟩
    rw [num_ended _ _ _ _ (evKey_stack hk (by decide)), num_setStack, State.incSat, num_setNum_same, (sizeOf_stack k hk).2.1]
    refine Nat.mod_eq_of_lt ?_
    rw [satInc_eq_min]
    omega
  · refine gives_of_run hb (execWearEvaluation.eq_def ..) rfl ?_
    have hmark : Own [.stacks] [⟨0x9010, 0x901F, 3, 3⟩, ⟨0x9010, 0x901F, 7, 7⟩] (forN 16 recomputeShares b) (forN 16 markDue (forN 16 recomputeShares b)) :=
      Own.forN (Own.same _) fun k u hk => Own.markDue (by decide) (by decide) hk (Own.same u)
    refine Eq.trans ?_ (shares_recompute (List.range 16) b)
    rw [ended_graphs, hmark.graphs (by decide)]
    rfl
  · refine gives_of_run hb (execSpareCrossingCheck.eq_def ..) (by simp_all [Instr.wf]) ?_
    have hgo : b.stopped = false := by rcases hgf with h | h <;> simp [State.stopped, h]
    have hin : (decide (b.gfState = 2) || decide (b.gfState = 3)) = true := by rcases hgf with h | h <;> simp [h]
    rw [stack_ended]
    simp only [checkBring, hbr, Nat.not_lt.mpr happ, if_false, hgo, Bool.false_eq_true, hin, if_true, hcross]
    rw [stack_same]
    cases br.lastNeg with
    | none => rfl
    | some v => cases v <;> cases decide (crossingSum b k < 0) <;> rfl
  · refine gives_of_run hb (execSpareCrossingCheck.eq_def ..) (by simp_all [Instr.wf]) ?_
    have hgo : b.stopped = false := by simp [State.stopped, h6]; omega
    rw [stack_ended]
    simp only [checkBring, hbr, Nat.not_lt.mpr happ, if_false, hgo, Bool.false_eq_true, h2, h3, decide_false, Bool.or_self]
    rw [stack_same]
  · refine gives_of_run hb (execSpareCrossingCheck.eq_def ..) (by simp_all [Instr.wf]) ?_
    obtain ⟨hnone, hflag⟩ := bringEffect_reads hk (s := b) (by simp [hbr])
    simp only [checkBring, hbr, Nat.not_lt.mpr happ, if_false, hstop, if_true]
    exact ⟨by rw [stack_ended, hnone], by rw [bit_stack_ended hk (by decide), hflag]⟩
  · refine gives_of_run hb (execSpareSwapTimeout.eq_def ..) (by simp_all [Instr.wf]) ?_
    have hin : (b.gfState == 2 || b.gfState == 3) = true := by rcases hgf with h | h <;> simp [h]
    obtain ⟨hnone, hflag⟩ := dropBring_reads hk b
    simp only [hbr, hcross, hin, hmax, Bool.not_false, decide_true, Bool.and_self, if_true]
    exact ⟨by rw [stack_ended, stack_raise, hnone], by rw [bit_stack_ended hk (by decide), bit_stack_raise hk (by decide), hflag]⟩
end Sys2Proof
end

section
/-!
SUPPORT. What the ridge monitors of the two sides (R20, R122, R264 to R273, R283): one rule for the heartbeats of a path, what a fault leaves of a mismatch, the clauses of O35 and the theorem that settles it.
-/
namespace Sys2Proof
open Sys2Proof.Machine

/-! ### Heartbeats (R264 to R266) -/

theorem beat_setBeat {x : Side} {p : Nat} (hp : p < 2) (v : Beat) (s : State) : beat (setBeat x p v s) x p = v ∧
    beat (setBeat x p v s) x (1 - p) = beat s x (1 - p) := by
  rcases (by omega : p = 0 ∨ p = 1) with rfl | rfl <;> simp [beat, setBeat]

theorem lastBad_setBeat (x : Side) (p : Nat) (v : Beat) (s : State) : ((setBeat x p v s).sideRt x).lastBad = (s.sideRt x).lastBad := by
  unfold setBeat
  split <;> simp

theorem beat_of_sides {s u : State} (h : u.sides = s.sides) (x : Side) (p : Nat) : beat u x p = beat s x p := by
  cases x <;> simp [beat, State.sideRt, h]

theorem sideRt_of_sides {s u : State} (h : u.sides = s.sides) (x : Side) : u.sideRt x = s.sideRt x := by
  cases x <;> simp [State.sideRt, h]

/-- Bad of a side moves no heartbeat. -/
theorem refreshBad_keeps (x y : Side) (s : State) : ((refreshBad y s).sideRt x).p1 = (s.sideRt x).p1 ∧
    ((refreshBad y s).sideRt x).p2 = (s.sideRt x).p2 ∧ ((refreshBad y s).sideRt x).lastBad = (s.sideRt x).lastBad := by
  have hset : ∀ (u : State) v, u.sides = s.sides → v.p1 = (s.sideRt y).p1 → v.p2 = (s.sideRt y).p2 → v.lastBad = (s.sideRt y).lastBad →
      ((u.setSideRt y v).sideRt x).p1 = (s.sideRt x).p1 ∧ ((u.setSideRt y v).sideRt x).p2 = (s.sideRt x).p2 ∧
        ((u.setSideRt y v).sideRt x).lastBad = (s.sideRt x).lastBad := by
    intro u v hu h1 h2 h3
    by_cases hxy : x = y
    · subst hxy
      simp [h1, h2, h3]
    · have hother : x = otherSide y := by cases x <;> cases y <;> simp_all [otherSide]
      subst hother
      rw [sideRt_other, sideRt_of_sides hu]
      exact ⟨rfl, rfl, rfl⟩
  unfold refreshBad refreshBadAt
  dsimp only
  split
  · exact hset _ _ (by simp) rfl rfl rfl
  · split
    · exact hset _ _ rfl rfl rfl rfl
    · exact ⟨rfl, rfl, rfl⟩

theorem beat_refreshBad (x y : Side) (p : Nat) (s : State) : beat (refreshBad y s) x p = beat s x p := by
  obtain ⟨h1, h2, -⟩ := refreshBad_keeps x y s
  simp only [beat, h1, h2]

theorem beatCause_quiet {s : State} {x : Side} {p : Nat} (hp : p < 2) (h : (beat s x p).missing < 4)
    (ho : (beat s x (1 - p)).missing < 4 ∨ (s.sideRt x).lastBad = false) : beatCause s x = 0 := by
  have hcases : ∀ m n : Nat, ∀ bad : Bool, m < 4 → n < 4 ∨ bad = false →
      (if 4 ≤ m && 4 ≤ n then 1 else if (4 ≤ m || 4 ≤ n) && bad then 2 else 0) = 0 ∧
        (if 4 ≤ n && 4 ≤ m then 1 else if (4 ≤ n || 4 ≤ m) && bad then 2 else 0) = 0 := by
    intro m n bad hm hn
    rcases hn with hn | rfl
    · simp [Nat.not_le.mpr hm, Nat.not_le.mpr hn]
    · simp [Nat.not_le.mpr hm]
  rcases (by omega : p = 0 ∨ p = 1) with rfl | rfl
  · exact (hcases _ _ _ h ho).1
  · exact (hcases _ _ _ h ho).2

theorem sizeOf_beats (x : Side) : ∀ p < 2, sizeOf (0x6030 + sideIx x) (6 + p) = 4 := by cases x <;> decide

/-- A heartbeat missing, the fourth of no path (R264). -/
theorem missBeat_reads {x : Side} {p : Nat} {s : State} (hp : p < 2) (h3 : (beat s x p).missing < 3) (h4 : (beat s x (1 - p)).missing < 4) :
    beat (missBeat x p s) x p = { beat s x p with missing := (beat s x p).missing + 1 } ∧
      (missBeat x p s).num (0x6030 + sideIx x) (6 + p) = satInc 32 (s.num (0x6030 + sideIx x) (6 + p)) := by
  obtain ⟨hset, hother⟩ := beat_setBeat (x := x) hp { beat s x p with missing := (beat s x p).missing + 1 } s
  have hnum : ∀ i j, (setBeat x p { beat s x p with missing := (beat s x p).missing + 1 } s).num i j = s.num i j := by
    intro i j
    unfold setBeat
    cases x <;> rfl
  unfold missBeat
  dsimp only
  generalize setBeat x p { beat s x p with missing := (beat s x p).missing + 1 } s = v at hset hother hnum ⊢
  have hsides : (v.incSat (0x6030 + sideIx x) (6 + p)).sides = v.sides := rfl
  have hbeat := beat_of_sides hsides x
  have hlow : (beat (v.incSat (0x6030 + sideIx x) (6 + p)) x p).missing < 4 := by rw [hbeat, hset]; exact Nat.succ_lt_succ h3
  have hcause := beatCause_quiet hp hlow (.inl (by rw [hbeat, hother]; exact h4))
  unfold judgeBeats
  rw [hcause, if_neg (by simp), if_neg (by omega)]
  refine ⟨by rw [hbeat, hset], ?_⟩
  rw [State.incSat, num_setNum_same, sizeOf_beats x p hp, hnum]
  refine Nat.mod_eq_of_lt ?_
  rw [satInc_eq_min]
  omega

/-- The fourth of one path beside four of the other, or beside Bad, is a side fault (R265). -/
theorem judgeBeats_fault {x : Side} {p : Nat} {s : State} (h : beatCause s x ≠ 0) (hr : s.ready = true) (hx : s.sideState x = 1)
    (hy : s.sideState (otherSide x) = 2) : (judgeBeats x p s).sideState (otherSide x) = 1 := by
  rw [judgeBeats, if_pos h]
  exact sideFault_takeover s x _ hr hx hy

theorem od_setBeat (x : Side) (p : Nat) (v : Beat) (s : State) : (setBeat x p v s).od = s.od := by
  unfold setBeat
  cases x <;> rfl

theorem sideBad_of_od {s u : State} (h : u.od = s.od) (x : Side) : sideBad u x = sideBad s x := by
  simp only [sideBad, State.bit, State.num, State.val, h]

/-- A heartbeat in sequence, as it is noted. -/
def goodBeat (x : Side) (p q : Nat) (s : State) : State :=
  let u := noteBeat x p q s
  refreshBad (otherSide x) (setBeat x p { beat u x p with missing := 0, bad := false } u)

theorem takeBeat_inSeq {x : Side} {p q : Nat} {s : State}
    (hseq : (beat s x p).last = none ∨ (∃ v, (beat s x p).last = some v ∧ q = (v + 1) % 65536)) : takeBeat x p q true s =
      if beatCause (goodBeat x p q s) x ≠ 0 then sideFault x (beatCause (goodBeat x p q s) x) (goodBeat x p q s) else goodBeat x p q s := by
  rcases hseq with h | ⟨v, h, rfl⟩
  · simp only [takeBeat, h, Bool.not_true, Bool.false_eq_true, if_false, if_true]
    rfl
  · simp only [takeBeat, h, Bool.not_true, Bool.false_eq_true, if_false, beq_self_eq_true, if_true]
    rfl

theorem noteBeat_reads {x : Side} {p : Nat} (hp : p < 2) (q : Nat) (s : State) :
    beat (noteBeat x p q s) x p = { beat s x p with last := some q } ∧ beat (noteBeat x p q s) x (1 - p) = beat s x (1 - p) ∧
      ((noteBeat x p q s).sideRt x).lastBad = sideBad s x ∧ (noteBeat x p q s).od = s.od := by
  obtain ⟨hset, hother⟩ := beat_setBeat (x := x) hp { beat s x p with last := some q } s
  have hod := od_setBeat x p { beat s x p with last := some q } s
  unfold noteBeat
  dsimp only
  generalize setBeat x p { beat s x p with last := some q } s = u at hset hother hod ⊢
  have hbad : ∀ v r, beat (u.setSideRt x { u.sideRt x with lastBad := v }) x r = beat u x r := fun v r => by simp [beat]
  refine ⟨by rw [hbad, hset], by rw [hbad, hother], ?_, ?_⟩
  · rw [sideRt_same, sideBad_of_od hod]
  · rw [← hod]
    cases x <;> rfl

theorem goodBeat_reads {x : Side} {p : Nat} (hp : p < 2) (q : Nat) (s : State) :
    beat (goodBeat x p q s) x p = ⟨some q, 0, false, (beat s x p).slot⟩ ∧ beat (goodBeat x p q s) x (1 - p) = beat s x (1 - p) ∧
      ((goodBeat x p q s).sideRt x).lastBad = sideBad s x := by
  obtain ⟨hnote, hother, hbad, -⟩ := noteBeat_reads (x := x) hp q s
  unfold goodBeat
  dsimp only
  generalize noteBeat x p q s = u at hnote hother hbad ⊢
  obtain ⟨hset, hkeep⟩ := beat_setBeat (x := x) hp { beat u x p with missing := 0, bad := false } u
  refine ⟨?_, ?_, ?_⟩
  · rw [beat_refreshBad, hset, hnote]
  · rw [beat_refreshBad, hkeep, hother]
  · rw [(refreshBad_keeps x (otherSide x) _).2.2, lastBad_setBeat, hbad]

/-- Settled heartbeats move no side. -/
theorem goodBeat_own (x : Side) (p q : Nat) (s : State) : Own [.sides] [⟨0x6030, 0x6031, 1, 1⟩] s (goodBeat x p q s) :=
  Own.refreshBad (by decide) (by decide) (Own.setBeat (by decide) (Own.setSideRt (by decide) (Own.setBeat (by decide) (Own.same s))))

theorem judgedBeat_reads {x : Side} {p : Nat} (hp : p < 2) (n : Nat) (s : State) :
    beat (judgedBeat x p n s) x p = { beat s x p with slot := n } ∧ beat (judgedBeat x p n s) x (1 - p) = beat s x (1 - p) ∧
      (judgedBeat x p n s).od = s.od ∧ (judgedBeat x p n s).plate = s.plate := by
  obtain ⟨hset, hother⟩ := beat_setBeat (x := x) hp { beat s x p with slot := n } s
  refine ⟨hset, hother, od_setBeat .., ?_⟩
  unfold judgedBeat setBeat
  cases x <;> rfl

theorem sides_of_od {s u : State} (h : u.od = s.od) (hp : u.plate = s.plate) (x : Side) :
    beatsJudged u x = beatsJudged s x ∧ u.ready = s.ready ∧ u.inService x = s.inService x ∧ ∀ y, u.sideState y = s.sideState y := by
  have hnum : ∀ i j, u.num i j = s.num i j := fun i j => by simp only [State.num, State.val, h]
  have hside := fun y => sideState_of (hnum 0x6021 1) y
  have hready : u.ready = s.ready := by simp only [State.ready, State.stage, State.fld, hnum]
  have hin : u.inService x = s.inService x := by simp only [State.inService, hside]
  exact ⟨by simp only [beatsJudged, hready, hin, hp], hready, hin, hside⟩

theorem sizeOf_sideWords (x : Side) : sizeOf (0x6030 + sideIx x) 2 = 4 ∧ sizeOf (0x6030 + sideIx x) 3 = 4 ∧ sizeOf (0x6030 + sideIx x) 5 = 4 ∧
    sizeOf 0x6021 5 = 2 := by cases x <;> decide

theorem beat_ended (s : State) (q : List Instr) (x : Side) (p : Nat) : beat (s.ended q) x p = beat s x p := beat_of_sides (by simp) x p

theorem evKey_side (x : Side) {j : Nat} (hj : j < 256) : evKey ((0x6030 + sideIx x) * 256 + j) = false :=
  evKey_eq_false hj (by cases x <;> decide)

/-- Judging moves nothing that decides whether heartbeats are judged. -/
theorem judged_of_beatsJudged {x : Side} {p n : Nat} {s : State} (hp : p < 2) (h : beatsJudged s x = true) :
    (s.ready && s.inService x) = true ∧ beatsJudged (judgedBeat x p n s) x = true ∧ (judgedBeat x p n s).ready = true ∧
      ((judgedBeat x p n s).ready && (judgedBeat x p n s).inService x) = true := by
  obtain ⟨-, -, hod, hplate⟩ := judgedBeat_reads (x := x) hp n s
  obtain ⟨h1, h2, h3, -⟩ := sides_of_od hod hplate x
  have hon : (s.ready && s.inService x) = true := by
    simp only [beatsJudged, Bool.and_eq_true] at h
    simp [h]
  exact ⟨hon, h1.trans h, h2.trans (Bool.and_eq_true_iff.mp hon).1, by rw [h2, h3, hon]⟩

/-- A heartbeat in time that is judged is taken. -/
theorem takeBeat_quiet {x : Side} {p q n : Nat} {s : State} (hp : p < 2)
    (hseq : (beat s x p).last = none ∨ (∃ v, (beat s x p).last = some v ∧ q = (v + 1) % 65536))
    (hquiet : (beat s x (1 - p)).missing < 4 ∨ sideBad s x = false) :
    beat (takeBeat x p q true (judgedBeat x p n s)) x p = ⟨some q, 0, false, n⟩ ∧
      ((takeBeat x p q true (judgedBeat x p n s)).sideRt x).lastBad = sideBad s x := by
  obtain ⟨hset, hother, hod, -⟩ := judgedBeat_reads (x := x) hp n s
  obtain ⟨hgood, hkeep, hbad⟩ := goodBeat_reads (x := x) hp q (judgedBeat x p n s)
  rw [sideBad_of_od hod] at hbad
  rw [takeBeat_inSeq (by rw [hset]; exact hseq), beatCause_quiet hp (by rw [hgood]; exact Nat.zero_lt_succ 3) (by rw [hkeep, hother, hbad]; exact hquiet), if_neg (by simp)]
  exact ⟨by rw [hgood, hset], hbad⟩

/-- One that carries Bad beside four missing of the other path is a side fault (R265). -/
theorem takeBeat_fault {x : Side} {p q n : Nat} {s : State} (hp : p < 2) (hj : beatsJudged s x = true)
    (hseq : (beat s x p).last = none ∨ (∃ v, (beat s x p).last = some v ∧ q = (v + 1) % 65536)) (hmiss : 4 ≤ (beat s x (1 - p)).missing)
    (hbad : sideBad s x = true) (hx : s.sideState x = 1) (hy : s.sideState (otherSide x) = 2) :
    (takeBeat x p q true (judgedBeat x p n s)).sideState (otherSide x) = 1 := by
  obtain ⟨hset, hother, hod, hplate⟩ := judgedBeat_reads (x := x) hp n s
  obtain ⟨-, hready, -, hside⟩ := sides_of_od hod hplate x
  obtain ⟨hgood, hkeep, hlast⟩ := goodBeat_reads (x := x) hp q (judgedBeat x p n s)
  have hown := goodBeat_own x p q (judgedBeat x p n s)
  have hstate := fun y => sideState_of (hown.numKept 0x6021 1 rfl rfl) y
  have hr : (goodBeat x p q (judgedBeat x p n s)).ready = true := by
    rw [← (judged_of_beatsJudged (n := n) hp hj).2.2.1]
    simp only [State.ready, State.stage, State.fld, hown.numKept 0xB000 1 rfl rfl]
  have hcause : beatCause (goodBeat x p q (judgedBeat x p n s)) x ≠ 0 := by
    have hlow : (beat (goodBeat x p q (judgedBeat x p n s)) x p).missing = 0 := by rw [hgood]
    have hhigh : 4 ≤ (beat (goodBeat x p q (judgedBeat x p n s)) x (1 - p)).missing := by rw [hkeep, hother]; exact hmiss
    have hb : ((goodBeat x p q (judgedBeat x p n s)).sideRt x).lastBad = true := by rw [hlast, sideBad_of_od hod, hbad]
    generalize goodBeat x p q (judgedBeat x p n s) = u at hlow hhigh hb
    rcases (by omega : p = 0 ∨ p = 1) with rfl | rfl <;> simp_all [beatCause]
  rw [takeBeat_inSeq (by rw [hset]; exact hseq), if_pos hcause]
  exact sideFault_takeover _ x _ hr (by rw [hstate, hside, hx]) (by rw [hstate, hside, hy])

/-- The fourth missing of both paths is a side fault (R265). -/
theorem missBeat_fault {x : Side} {p : Nat} {s : State} (hp : p < 2) (h3 : 3 ≤ (beat s x p).missing) (h4 : 4 ≤ (beat s x (1 - p)).missing)
    (hr : s.ready = true) (hx : s.sideState x = 1) (hy : s.sideState (otherSide x) = 2) : (missBeat x p s).sideState (otherSide x) = 1 := by
  obtain ⟨hset, hother⟩ := beat_setBeat (x := x) hp { beat s x p with missing := (beat s x p).missing + 1 } s
  have hod := od_setBeat x p { beat s x p with missing := (beat s x p).missing + 1 } s
  have hplate : (setBeat x p { beat s x p with missing := (beat s x p).missing + 1 } s).plate = s.plate := by cases x <;> simp [setBeat]
  obtain ⟨-, hready, -, hside⟩ := sides_of_od hod hplate x
  unfold missBeat
  dsimp only
  generalize setBeat x p { beat s x p with missing := (beat s x p).missing + 1 } s = v at hset hother hready hside ⊢
  have hsides : (v.incSat (0x6030 + sideIx x) (6 + p)).sides = v.sides := rfl
  have hbeat := beat_of_sides hsides x
  have hkey : (0x6030 + sideIx x) * 256 + (6 + p) ≠ 0x602101 ∧ (0x6030 + sideIx x) * 256 + (6 + p) ≠ 0xB00001 := by
    cases x <;> simp only [sideIx] <;> omega
  refine judgeBeats_fault ?_ ?_ ?_ ?_
  · have hm : 4 ≤ (beat (v.incSat (0x6030 + sideIx x) (6 + p)) x p).missing := by rw [hbeat, hset]; exact Nat.succ_le_succ h3
    have ho : 4 ≤ (beat (v.incSat (0x6030 + sideIx x) (6 + p)) x (1 - p)).missing := by rw [hbeat, hother]; exact h4
    rcases (by omega : p = 0 ∨ p = 1) with rfl | rfl <;> simp_all [beatCause]
  · simp [hready, hr, hkey]
  · simp [hside, hx, hkey]
  · simp [hside, hy, hkey]

/-- A fault after changes that move neither the stage nor a side. -/
theorem sideFault_after {P : List Part} {G : List Objs} {s u : State} (h : Own P G s u) (hstage : G.any (·.has (0xB000 * 256 + 1)) = false)
    (hsides : G.any (·.has (0x6021 * 256 + 1)) = false) (x : Side) (c : Nat) (hr : s.ready = true) (hx : s.sideState x = 1)
    (hy : s.sideState (otherSide x) = 2) : (sideFault x c u).sideState (otherSide x) = 1 := by
  have hside := fun y => sideState_of (h.numKept 0x6021 1 rfl hsides) y
  refine sideFault_takeover u x c ?_ (by rw [hside, hx]) (by rw [hside, hy])
  rw [← hr]
  simp only [State.ready, State.stage, State.fld, h.numKept 0xB000 1 rfl hstage]

theorem sideIx_le (x : Side) : sideIx x ≤ 1 := by cases x <;> decide

theorem hit_side (x : Side) {G : List Objs} {j : Nat} (hG : Cov G [⟨0x6030, 0x6031, j, j⟩]) (hj : j < 256) : Hit G (0x6030 + sideIx x) j :=
  hG.hit 0x6030 0x6031 j j (by simp [Objs.within]) (by omega) (by have := sideIx_le x; omega) (Nat.le_refl _) (Nat.le_refl _) hj

/-! ### What a fault leaves of a mismatch (R269) -/

theorem mismatch_setSideRt (x : Side) (v : SideRt) (s : State) : (s.setSideRt x v).sides.mismatch = s.sides.mismatch := by cases x <;> rfl

theorem mismatch_raise (e p0 p1 p2 : Nat) (s : State) : (s.raise e p0 p1 p2).sides.mismatch = s.sides.mismatch := by simp

theorem mismatch_ended (s : State) (q : List Instr) : (s.ended q).sides.mismatch = s.sides.mismatch := by simp

theorem mismatch_of {s u : State} (h : u.sides = s.sides) : u.sides.mismatch = s.sides.mismatch := by rw [h]

theorem mismatch_ite (c : Prop) [Decidable c] (a b : State) (v : Bool) (ha : a.sides.mismatch = v) (hb : b.sides.mismatch = v) :
    (if c then a else b).sides.mismatch = v := by split <;> assumption

theorem mismatch_startReinit (x : Side) (s : State) : (startReinit x s).sides.mismatch = s.sides.mismatch := by
  have hpll : ∀ p (u : State), (pllOff p u).sides = u.sides := fun p u => rfl
  have hstate : ∀ v (u : State), (u.setSideState x v).sides = u.sides := fun v u => by cases x <;> rfl
  have hbays : ∀ m (u : State), (setSideBays x m u).sides = u.sides := fun m u => by cases x <;> rfl
  have hclear : ∀ u : State, (clearSide x u).sides.mismatch = u.sides.mismatch := fun u => by
    rw [clearSide]
    cases x <;> rfl
  unfold startReinit
  dsimp only
  rw [mismatch_raise, mismatch_of (hpll ..), mismatch_of (hpll ..), mismatch_of (hstate ..), mismatch_setSideRt, mismatch_of (hbays ..), hclear]

theorem mismatch_setFailed (x : Side) (s : State) : (setFailed x s).sides.mismatch = s.sides.mismatch := by
  have hstate : ∀ v (u : State), (u.setSideState x v).sides = u.sides := fun v u => by cases x <;> rfl
  have hlow : ∀ u : State, (if u.profile = 3 then u else setDegraded true u).sides.mismatch = u.sides.mismatch :=
    fun u => mismatch_ite _ _ _ _ rfl rfl
  have hhold : ∀ u : State, (checkHoldover 1 u).sides.mismatch = u.sides.mismatch := fun u => mismatch_of (sides_checkHoldover u 1)
  have hleave : (leaveService x 4 s).sides.mismatch = s.sides.mismatch := by
    rw [leaveService, mismatch_of (sides_reportsAlone _), mismatch_of (hstate ..)]
  unfold setFailed
  dsimp only
  refine mismatch_ite _ _ _ _ ?_ ?_
  · rw [hhold, hlow, mismatch_setSideRt, hleave]
  · rw [mismatch_startReinit, hhold, hlow, mismatch_setSideRt, hleave]

theorem mismatch_finishChange (s : State) : (finishChange s).sides.mismatch = s.sides.mismatch := by
  unfold finishChange
  split
  · rfl
  · dsimp only
    refine mismatch_ite _ _ _ _ ?_ (mismatch_ite _ _ _ _ ?_ rfl)
    · rw [mismatch_setFailed, mismatch_raise]
      rfl
    · rw [mismatch_setFailed]
      rfl

theorem mismatch_deliverChange (y : Side) (hand : Bool) (s : State) : (deliverChange y hand s).sides.mismatch = s.sides.mismatch := by
  have hall : ∀ (z : Side) (u : State), (allToSide z u).sides = u.sides := fun z u =>
    (Own.allToSide (P := [.pairs]) (G := [⟨0x5200, 0x5247, 8, 8⟩]) (by decide) (by decide) (Own.same u)).sides (by decide)
  have hclock : ∀ c : Bool, (if c = true then allToSide y s else s).sides.mismatch = s.sides.mismatch :=
    fun c => mismatch_ite _ _ _ _ (mismatch_of (hall ..)) rfl
  unfold deliverChange
  dsimp only
  refine mismatch_ite _ _ _ _ ?_ ?_
  · rw [mismatch_finishChange]
    exact hclock _
  · exact hclock _

theorem mismatch_takeover (x : Side) (c : Nat) (s : State) : (takeover x c s).sides.mismatch = s.sides.mismatch := by
  have hstate : ∀ (z : Side) v (u : State), (u.setSideState z v).sides = u.sides := fun z v u => by cases z <;> rfl
  have hkerf : ∀ y l (u : State), (kerfOpen y l u).sides.mismatch = u.sides.mismatch := fun y l u => by simp [kerfOpen]
  have horder : ∀ y (u : State), (orderChange y c u).sides = u.sides := fun y u => rfl
  unfold takeover
  dsimp only
  rw [mismatch_deliverChange, hkerf, mismatch_raise, mismatch_of (horder ..), leaveService, mismatch_of (sides_reportsAlone _),
    mismatch_of (hstate ..), mismatch_of (hstate ..)]

theorem mismatch_laneFails (x : Side) (j l : Nat) (s : State) : (laneFails x j l s).sides.mismatch = s.sides.mismatch := by
  have hfound : ∀ e (u : State), (foundFault e u).sides = u.sides := fun e u => by
    rw [(Own.foundFault (P := []) (G := [⟨0xB100, 0xB100, 2, 2⟩]) (by decide) (Own.same u)).sides (by decide)]
  have hbad : ∀ u : State, (refreshBad x u).sides.mismatch = u.sides.mismatch := fun u => by
    unfold refreshBad refreshBadAt
    dsimp only
    exact mismatch_ite _ _ _ _ (mismatch_setSideRt ..) (mismatch_ite _ _ _ _ (mismatch_setSideRt ..) rfl)
  unfold laneFails
  dsimp only
  refine mismatch_ite _ _ _ _ ?_ ?_
  · rw [mismatch_setSideRt, mismatch_of (hfound ..)]
    rfl
  · rw [hbad, mismatch_setSideRt, mismatch_of (hfound ..)]
    rfl

/-- A mismatch that is not resolved is counted (R269). -/
theorem unresolved_reads (s : State) : (unresolved s).num 0x6021 5 = satInc 16 (s.num 0x6021 5) ∧
    (unresolved s).sides.mismatch = s.sides.mismatch := by
  have hown : ∀ (y : Side) (u : State), Own [.meas, .graphs, .gf, .plate, .sides, .clock, .capture]
      [⟨0x2100, 0x213F, 11, 11⟩, ⟨0x6000, 0x6000, 2, 2⟩, ⟨0x6021, 0x6021, 1, 1⟩, ⟨0x7000, 0x7000, 5, 5⟩, ⟨0x7000, 0x7000, 8, 8⟩,
        ⟨0x7050, 0x7050, 1, 1⟩, ⟨0x7100, 0x7104, 3, 3⟩] u (setFailed y u) := fun y u =>
    Own.setFailed (by decide) (by decide) (by decide) (by decide) (by decide) (by decide) (by decide) (by decide) (Own.same u)
  have hnum : ∀ (y : Side) (u : State), (setFailed y u).num 0x6021 5 = u.num 0x6021 5 := fun y u => (hown y u).numKept _ _ rfl rfl
  have hcause : ∀ (c : Prop) [Decidable c] (u : State), (if c then noteCause 12 u else u).num 0x6021 5 = u.num 0x6021 5 ∧
      (if c then noteCause 12 u else u).sides = u.sides := by
    intro c _ u
    have hnote : Own [.gf] [] u (noteCause 12 u) := Own.noteCause (by decide) (Own.same u)
    split
    · exact ⟨hnote.numKept _ _ rfl rfl, hnote.sides (by decide)⟩
    · exact ⟨rfl, rfl⟩
  have hside : ∀ (o : Option Side) (u : State), (match o with
      | some x => if u.sideState (otherSide x) = 2 then setFailed (otherSide x) u else u
      | none => u).num 0x6021 5 = u.num 0x6021 5 ∧ (match o with
      | some x => if u.sideState (otherSide x) = 2 then setFailed (otherSide x) u else u
      | none => u).sides.mismatch = u.sides.mismatch := by
    intro o u
    cases o with
    | none => exact ⟨rfl, rfl⟩
    | some x =>
      dsimp only
      split
      · exact ⟨hnum .., mismatch_setFailed ..⟩
      · exact ⟨rfl, rfl⟩
  have hraise : ∀ (u : State) n, ((u.incSat 0x6021 5).raise 41 n).num 0x6021 5 = satInc 16 (u.num 0x6021 5) ∧
      ((u.incSat 0x6021 5).raise 41 n).sides = u.sides := by
    intro u n
    refine ⟨?_, by simp⟩
    rw [num_raise _ _ _ _ _ _ _ (by decide), State.incSat, num_setNum_same, (sizeOf_sideWords .A).2.2.2]
    refine Nat.mod_eq_of_lt ?_
    rw [satInc_eq_min]
    omega
  unfold unresolved
  dsimp only
  refine ⟨(hcause _ _).1.trans ((hside _ _).1.trans (hraise _ _).1), ?_⟩
  refine (mismatch_of (hcause _ _).2).trans ((hside _ _).2.trans ((mismatch_of (hraise _ _).2).trans rfl))

/-- Settles O35: what the ridge monitors of the two sides. -/
theorem sideMonitorsComplete : Obligations.SideMonitorsComplete := by
  intro s t b slot inTime
  have hb : s.arrive t = b := rfl
  clear_value b
  refine ⟨fun x p q hp hq hj hin hseq hquiet => ?_, fun x p q hp hq hj hin hseq hmiss hbad hx hy => ?_,
    fun x p q hp hq hj hin hslot h3 h4 => ?_, fun x p q hp hq hr hserv hhalt => ?_, fun x p q hp hq hj hin h3 h4 => ?_,
    fun x p n hp hn hslot hj h3 h4 => ?_, fun x p hp hslot hj h3 h4 hx hy => ?_, fun k r hr hlock hA hB hhalt hskip hdiff => ?_,
    fun x fx fy hfx hfy hr hmis hx hy hfatal hfine => ?_, fun hmis => ?_, fun x hfind hprof hserv => ?_,
    fun x k l hl hx hy hk => ?_, fun x k l hl hoff => ?_, fun x j l hj hl hon hbay hok => ?_, fun x f addr haddr hf => ?_,
    fun x f addr haddr hr hx hy => ?_, fun p hp hlt hr hlock hx hy => ?_, fun x d hcond hbad hsince hd => ?_⟩
  · refine gives_of_run hb (execHeartbeat.eq_def ..) (by simp_all [Instr.wf]) ?_
    have hlate : decide (rns 125 < beatLate p b.ridgeFine) = false := decide_eq_false (Nat.not_lt.mpr hin)
    obtain ⟨hon, hjudged, -, -⟩ := judged_of_beatsJudged (n := beatSlot p b.ridgeFine) hp hj
    obtain ⟨hbeat, hlast⟩ := takeBeat_quiet (n := beatSlot p b.ridgeFine) hp hseq hquiet
    simp only [hon, if_true, hjudged, hlate, Bool.not_false, Bool.and_self]
    exact ⟨(beat_ended ..).trans hbeat, by rw [ended_sideRt, hlast]⟩
  · refine gives_of_run hb (execHeartbeat.eq_def ..) (by simp_all [Instr.wf]) ?_
    have hlate : decide (rns 125 < beatLate p b.ridgeFine) = false := decide_eq_false (Nat.not_lt.mpr hin)
    obtain ⟨hon, hjudged, -, -⟩ := judged_of_beatsJudged (n := beatSlot p b.ridgeFine) hp hj
    simp only [hon, if_true, hjudged, hlate, Bool.not_false, Bool.and_self]
    rw [sideState_ended]
    exact takeBeat_fault hp hj hseq hmiss hbad hx hy
  · refine gives_of_run hb (execHeartbeat.eq_def ..) (by simp_all [Instr.wf]) ?_
    have hlate : decide (rns 125 < beatLate p b.ridgeFine) = true := decide_eq_true (Nat.not_le.mp hin)
    have hnew : decide (beatSlot p b.ridgeFine ≤ (beat b x p).slot) = false := decide_eq_false (Nat.not_le.mpr hslot)
    obtain ⟨hon, hjudged, -, hon'⟩ := judged_of_beatsJudged (n := beatSlot p b.ridgeFine) hp hj
    obtain ⟨hset, hother, hod, hplate⟩ := judgedBeat_reads (x := x) hp (beatSlot p b.ridgeFine) b
    simp only [hon, if_true, hjudged, hlate, Bool.not_true, Bool.and_false, Bool.false_eq_true, if_false, hon', hnew, Bool.and_true, Bool.not_false]
    generalize judgedBeat x p (beatSlot p b.ridgeFine) b = u at *
    obtain ⟨hnote, hkeep, -, hod'⟩ := noteBeat_reads (x := x) hp q u
    have hplate' : (noteBeat x p q u).plate = u.plate := by cases x <;> simp [noteBeat, setBeat]
    rw [(sides_of_od hod' hplate' x).1, hjudged, if_pos rfl]
    obtain ⟨hmiss, hcount⟩ := missBeat_reads (x := x) (s := noteBeat x p q u) hp (by rw [hnote, hset]; exact h3) (by rw [hkeep, hother]; exact h4)
    refine ⟨(beat_ended ..).trans (by rw [hmiss, hnote, hset]), ?_⟩
    rw [num_ended _ _ _ _ (evKey_side x (by omega)), hcount]
    simp only [State.num, State.val, hod', hod]
  · refine gives_of_run hb (execHeartbeat.eq_def ..) (by simp_all [Instr.wf]) ?_
    have hoff : beatsJudged b x = false := by simp [beatsJudged, hhalt]
    obtain ⟨hset, hother, hod, hplate⟩ := judgedBeat_reads (x := x) hp (beatSlot p b.ridgeFine) b
    obtain ⟨hj, hready, hin, hside⟩ := sides_of_od hod hplate x
    simp only [hr, hserv, Bool.and_self, if_true]
    generalize judgedBeat x p (beatSlot p b.ridgeFine) b = u at *
    obtain ⟨hnote, hkeep, -, hod'⟩ := noteBeat_reads (x := x) hp q u
    have hplate' : (noteBeat x p q u).plate = u.plate := by cases x <;> simp [noteBeat, setBeat]
    obtain ⟨hj', -, -, hside'⟩ := sides_of_od hod' hplate' x
    simp only [hj, hoff, hready, hr, hin, hserv, Bool.and_self, if_true, Bool.false_and, Bool.false_eq_true, if_false, hj']
    exact ⟨(beat_ended ..).trans (by rw [hnote, hset]), by rw [sideState_ended, hside', hside]⟩
  · refine gives_of_run hb (execHeartbeat.eq_def ..) (by simp_all [Instr.wf]) ?_
    have hlate : decide (rns 125 < beatLate p b.ridgeFine) = false := decide_eq_false (Nat.not_lt.mpr hin)
    obtain ⟨hon, hjudged, -, -⟩ := judged_of_beatsJudged (n := beatSlot p b.ridgeFine) hp hj
    obtain ⟨hset, hother, hod, hplate⟩ := judgedBeat_reads (x := x) hp (beatSlot p b.ridgeFine) b
    simp only [hon, if_true, hjudged, hlate, Bool.not_false, Bool.and_self, takeBeat]
    obtain ⟨hmiss, hcount⟩ := missBeat_reads (x := x) (s := judgedBeat x p (beatSlot p b.ridgeFine) b) hp (by rw [hset]; exact h3)
      (by rw [hother]; exact h4)
    refine ⟨(beat_ended ..).trans (by rw [hmiss, hset]), ?_⟩
    rw [num_ended _ _ _ _ (evKey_side x (by omega)), hcount]
    simp only [State.num, State.val, hod]
  · refine gives_of_run hb (execHeartbeatMissing.eq_def ..) (by simp_all [Instr.wf]) ?_
    obtain ⟨hset, hother, hod, hplate⟩ := judgedBeat_reads (x := x) hp n b
    simp only [hj, ← hn, hslot, decide_true, Bool.and_self, if_true]
    obtain ⟨hmiss, hcount⟩ := missBeat_reads (x := x) (s := judgedBeat x p n b) hp (by rw [hset]; exact h3) (by rw [hother]; exact h4)
    refine ⟨(beat_ended ..).trans (by rw [hmiss, hset]), ?_⟩
    rw [num_ended _ _ _ _ (evKey_side x (by omega)), hcount]
    simp only [State.num, State.val, hod]
  · refine gives_of_run hb (execHeartbeatMissing.eq_def ..) (by simp_all [Instr.wf]) ?_
    simp only [hj, hslot, decide_true, Bool.and_self, if_true, sideState_ended]
    obtain ⟨hset, hother, hod, hplate⟩ := judgedBeat_reads (x := x) hp (beatSlot p (b.ridgeFine - rns 125)) b
    obtain ⟨-, -, hready, -⟩ := judged_of_beatsJudged (n := beatSlot p (b.ridgeFine - rns 125)) hp hj
    have hside := (sides_of_od hod hplate x).2.2.2
    generalize judgedBeat x p (beatSlot p (b.ridgeFine - rns 125)) b = u at *
    exact missBeat_fault hp (by rw [hset]; exact h3) (by rw [hother]; exact h4) hready (by rw [hside, hx]) (by rw [hside, hy])
  · refine gives_of_run hb (execSignatureCompare.eq_def ..) rfl ?_
    have hno : (r && if k then (b.graph .A).stateSig == (b.graph .B).stateSig else (b.graph .A).fastSig == (b.graph .B).fastSig) = false := by
      rcases hdiff with h | h
      · simp [h]
      · cases k <;> simp_all
    simp [hr, hlock, hA, hB, hhalt, hskip, hno]
  · refine gives_of_run hb (execMismatchResolution.eq_def ..) (by cases x <;> simp_all [Instr.wf]) ?_
    have hfail : ∀ (y : Side) (l : List Nat) (u : State), Own [.sides] [⟨0x6030, 0x6031, 1, 1⟩, ⟨0xB100, 0xB100, 2, 2⟩] u (l.foldl (fun s l => laneFails y (l / 16) (l % 16) s) u) :=
      fun y l u => Own.foldl (Own.same u) fun v _ _ => Own.laneFails (by decide) (by decide) (Own.same v)
    have hmism : ∀ (y : Side) (l : List Nat) (u : State), (l.foldl (fun s l => laneFails y (l / 16) (l % 16) s) u).sides.mismatch = u.sides.mismatch :=
      fun y l u => foldl_keep (fun u => u.sides.mismatch) l _ (fun v _ _ => mismatch_laneFails ..) u
    have hgo : ∀ u : State, u.sides.mismatch = false → Own [.sides] [⟨0x6030, 0x6031, 1, 1⟩, ⟨0xB100, 0xB100, 2, 2⟩] b u →
        (sideFault x 3 u).sideState (otherSide x) = 1 ∧ (sideFault x 3 u).sides.mismatch = false := by
      intro u hu hown
      refine ⟨sideFault_after hown rfl rfl x 3 hr hx hy, ?_⟩
      have hside := fun y => sideState_of (hown.numKept 0x6021 1 rfl rfl) y
      have hready : u.ready = true := by
        rw [← hr]
        simp only [State.ready, State.stage, State.fld, hown.numKept 0xB000 1 rfl rfl]
      simp only [sideFault, hready, Bool.not_true, Bool.false_eq_true, if_false, raise_sideWords, hside, hx, hy, if_true]
      rw [mismatch_takeover, mismatch_raise, hu]
    rw [hmis]
    have hclear : Own [.sides] [⟨0x6030, 0x6031, 1, 1⟩, ⟨0xB100, 0xB100, 2, 2⟩] b { b with sides := { b.sides with mismatch := false } } :=
      Own.of_pairs (by constructor <;> intros <;> first | rfl | contradiction) rfl
    cases x with
    | A =>
      have hown := Own.foldl (f := fun s l => laneFails .B (l / 16) (l % 16) s) (l := fy) (Own.foldl (f := fun s l => laneFails .A (l / 16) (l % 16) s)
        (l := fx) hclear fun v _ _ => Own.laneFails (by decide) (by decide) (Own.same v)) fun v _ _ => Own.laneFails (by decide) (by decide) (Own.same v)
      have hm := (hmism .B fy _).trans (hmism .A fx { b with sides := { b.sides with mismatch := false } })
      obtain ⟨h1, h2⟩ := hgo _ hm hown
      simp only [if_true, otherSide, sideIx] at hfatal hfine h1 ⊢
      simp only [hfatal, hfine, Bool.not_true, Bool.and_false, Bool.false_eq_true, if_false, if_true]
      exact ⟨by rw [sideState_ended]; exact h1, by rw [mismatch_ended]; exact h2⟩
    | B =>
      have hown := Own.foldl (f := fun s l => laneFails .B (l / 16) (l % 16) s) (l := fx) (Own.foldl (f := fun s l => laneFails .A (l / 16) (l % 16) s)
        (l := fy) hclear fun v _ _ => Own.laneFails (by decide) (by decide) (Own.same v)) fun v _ _ => Own.laneFails (by decide) (by decide) (Own.same v)
      have hm := (hmism .B fx _).trans (hmism .A fy { b with sides := { b.sides with mismatch := false } })
      obtain ⟨h1, h2⟩ := hgo _ hm hown
      simp only [reduceCtorEq, if_false, otherSide, sideIx] at hfatal hfine h1 ⊢
      simp only [hfatal, hfine, Bool.not_true, Bool.false_and, Bool.false_eq_true, if_false, if_true]
      exact ⟨by rw [sideState_ended]; exact h1, by rw [mismatch_ended]; exact h2⟩
  · refine gives_of_run hb (execMismatchResolution.eq_def ..) rfl ?_
    rw [hmis]
    refine ⟨?_, ?_⟩
    · rw [num_ended _ _ _ _ (by decide)]
      exact (unresolved_reads { b with sides := { b.sides with mismatch := false } }).1
    · rw [mismatch_ended]
      exact (unresolved_reads { b with sides := { b.sides with mismatch := false } }).2
  · refine gives_of_run hb (execMirrorFrame.eq_def ..) rfl ?_
    rw [hfind]
    have hgo : ¬ (b.profile ≠ 2 ∨ (!b.inService (otherSide x)) = true) := by simp [hprof, hserv]
    simp only [hprof, hserv, ne_eq, not_true, Bool.not_true, Bool.false_eq_true, or_self, if_false, if_true]
    cases x <;> simp [State.setSill, State.sill, otherSide, mirrorSill, State.graph]
  · refine gives_of_run hb (execTrussLinkFrame.eq_def ..) hl ?_
    simp [hx, hy, hk]
  · refine gives_of_run hb (execTrussLinkFrame.eq_def ..) hl ?_
    have hno : (!onLink b x || !onLink b (otherSide x)) = true := by rcases hoff with h | h <;> simp [h]
    rw [hno, if_pos rfl]
    exact ⟨by simp, num_ended _ _ _ _ (evKey_side x (by decide))⟩
  · refine gives_of_run hb (execLaneTest.eq_def ..) (by simp_all [Instr.wf]) ?_
    simp only [laneTested, hon, hbay, hok, Bool.not_true, Bool.or_self, Bool.false_eq_true, if_false, if_true]
    rw [num_ended _ _ _ _ (evKey_side x (by decide)), State.incWrap, num_setNum_same, (sizeOf_sideWords x).1]
  · refine gives_of_run hb (execEccError.eq_def ..) (by simp_all [Instr.wf]) ?_
    have hcount : ∀ (u : State) p j, j < 256 → (countIf (sideIx x) 0x0D 1 p u).num (0x6030 + sideIx x) j = u.num (0x6030 + sideIx x) j :=
      fun u p j hj => (countIf_same ..).num _ _ (evKey_side x hj)
    obtain ⟨-, h3, h5, -⟩ := sizeOf_sideWords x
    have hsat : ∀ n, satInc (8 * 4) n % 2 ^ (8 * 4) = satInc 32 n := fun n => Nat.mod_eq_of_lt (by rw [satInc_eq_min]; omega)
    simp only [hf, Bool.not_true, Bool.false_eq_true, if_false]
    rw [num_ended _ _ _ _ (evKey_side x (by split <;> decide)), correctedError]
    dsimp only
    rw [hcount _ _ _ (by split <;> decide)]
    refine (num_setNum_same b (0x6030 + sideIx x) _ _).trans ?_
    cases f <;> simp only [Bool.false_eq_true, if_false, if_true, h3, h5, hsat]
  · refine gives_of_run hb (execEccError.eq_def ..) (by simp_all [Instr.wf]) ?_
    have hf : b.feeds x = true := by simp [State.feeds, hx]
    have hown : Own [] [⟨0x6030, 0x6031, 1, 1⟩, ⟨0x6030, 0x6031, 4, 4⟩] b (if f = true then
        (b.incSat (0x6030 + sideIx x) 4).setBitO (0x6030 + sideIx x) 1 22 true else b.setBitO (0x6030 + sideIx x) 1 21 true) :=
      Own.ite (Own.setBitO (hit_side x (by decide) (by decide)) (Own.incSat (hit_side x (by decide) (by decide)) (Own.same b)))
        (Own.setBitO (hit_side x (by decide) (by decide)) (Own.same b))
    simp only [hf, Bool.not_true, Bool.false_eq_true, if_false, if_true, sideState_ended]
    exact sideFault_after hown rfl rfl x 6 hr hx hy
  · refine gives_of_run hb (execPllFreqCheck.eq_def ..) (by simp_all [Instr.wf]) ?_
    have hno : (false || decide (p = 0) || !pllLocked b p || decide (p ≤ 2) && bridged b (pllSide p)) = false := by
      have h0 : p ≠ 0 := by omega
      have h2 : ¬ p ≤ 2 := by omega
      simp [h0, h2, hlock]
    have hown : Own [] [⟨0x6030, 0x6031, 1, 1⟩] b (b.setBitO (0x6030 + sideIx (pllSide p)) 1 20 true) :=
      Own.setBitO (hit_side _ (by decide) (by decide)) (Own.same b)
    rw [hno, if_neg Bool.false_ne_true, sideState_ended]
    exact sideFault_after hown rfl rfl _ 6 hr hx hy
  · refine gives_of_run hb (execBadHoldExpiry.eq_def ..) rfl ?_
    have hstay : refreshBad x b = b := by simp [refreshBad, refreshBadAt, hcond, hbad, hsince]
    simp only [expireBad, hstay, hsince, hbad, hd, decide_true, Bool.and_self, if_true]
    refine ⟨?_, by rw [ended_sideRt, sideRt_same]⟩
    have hset : ∀ v, ((b.setBitO (0x6030 + sideIx x) 1 31 false).setSideRt x v).bit (0x6030 + sideIx x) 1 31 = false := by
      intro v
      cases x <;> exact State.bit_set b false (by decide)
    rw [sideBad, bit_ended _ _ _ _ _ (evKey_side x (by decide))]
    exact hset _
end Sys2Proof
end

section
/-!
SUPPORT. Re-initialisation, the side commands, the handover and DOUT (R276 to R285): what a join, a handover and a power-down leave of the sides, the clauses of O36 and the theorem that settles it.
-/
namespace Sys2Proof
open Sys2Proof.Machine

/-! ### Re-initialisation and side commands (R279 to R281, R285) -/

theorem sideState_raise (e p0 p1 p2 : Nat) (s : State) (x : Side) : (s.raise e p0 p1 p2).sideState x = s.sideState x := by simp

theorem num_sideStatus {v : Nat} (h : v < 2 ^ 16) (s : State) : (s.setNum 0x6020 2 v).num 0x6020 2 = v := by
  rw [num_setNum_same]
  exact Nat.mod_eq_of_lt h

theorem doubleFault_setSideRt (x : Side) (v : SideRt) (s : State) : (s.setSideRt x v).sides.doubleFault = s.sides.doubleFault := by cases x <;> rfl

theorem sideState_setSideRt (x y : Side) (v : SideRt) (s : State) : (s.setSideRt x v).sideState y = s.sideState y := by cases x <;> rfl

/-- An attempt that ends without a retry, or with one, leaves the side FAILED (R280). -/
theorem failAttempt_reads (x : Side) (noRetry : Bool) (s : State) :
    (failAttempt x noRetry s).sideState x = 4 ∧
      (if noRetry = true ∨ s.fld 0x6010 1 1 0 ≤ (s.sideRt x).attempts then ((failAttempt x noRetry s).sideRt x).spent = true
       else ((failAttempt x noRetry s).sideRt x).retryAt = some (s.now + secFs 1)) := by
  have hnow : ∀ u : State, (u.setSideState x 4).now = u.now := fun u => by cases x <;> rfl
  unfold failAttempt
  dsimp only
  cases noRetry with
  | true => simp
  | false =>
    by_cases hlast : s.fld 0x6010 1 1 0 ≤ (s.sideRt x).attempts
    · simp [hlast]
    · simp [hlast, hnow]

theorem sizeOf_sideStatus : sizeOf 0x6020 2 = 2 ∧ sizeOf 0x6000 2 = 2 := by decide

/-- The words of a re-initialisation that starts leave CommandStatus (Table 09.11). -/
theorem num_startReinit (x : Side) (s : State) : (startReinit x s).num 0x6020 2 = s.num 0x6020 2 := by
  have h : Own [.meas, .graphs, .plate, .sides, .capture] [⟨0x6021, 0x6021, 1, 1⟩, ⟨0x7050, 0x7050, 1, 1⟩, ⟨0x7100, 0x7104, 3, 3⟩] s (startReinit x s) :=
    Own.startReinit (by decide) (by decide) (by decide) (by decide) (by decide) (by decide) (Own.same s)
  exact h.numKept _ _ rfl rfl

theorem num_setFailed (x : Side) (s : State) : (setFailed x s).num 0x6020 2 = s.num 0x6020 2 := by
  have h : Own [.meas, .graphs, .gf, .plate, .sides, .clock, .capture]
      [⟨0x2100, 0x213F, 11, 11⟩, ⟨0x6000, 0x6000, 2, 2⟩, ⟨0x6021, 0x6021, 1, 1⟩, ⟨0x7000, 0x7000, 5, 5⟩, ⟨0x7000, 0x7000, 8, 8⟩,
        ⟨0x7050, 0x7050, 1, 1⟩, ⟨0x7100, 0x7104, 3, 3⟩] s (setFailed x s) :=
    Own.setFailed (by decide) (by decide) (by decide) (by decide) (by decide) (by decide) (by decide) (by decide) (Own.same s)
  exact h.numKept _ _ rfl rfl

/-- A side powered off (R285). -/
theorem powerDown_reads (x : Side) (s : State) : let u := checkHoldover 1 (setDegraded true (sideOff x s))
    u.sideState x = 0 ∧ u.bit 0x6000 2 15 = true ∧ u.num 0x6020 2 = s.num 0x6020 2 := by
  have hhold : ∀ u : State, Own [.clock] [⟨0x7000, 0x7000, 5, 5⟩, ⟨0x7000, 0x7000, 8, 8⟩] u (checkHoldover 1 u) := fun u =>
    Own.checkHoldover (by decide) (by decide) (Own.same u)
  have hoff : Own [.meas, .graphs, .gf, .plate, .sides, .capture]
      [⟨0x2100, 0x213F, 11, 11⟩, ⟨0x6021, 0x6021, 1, 1⟩, ⟨0x7050, 0x7050, 1, 1⟩, ⟨0x7100, 0x7104, 3, 3⟩] s (sideOff x s) :=
    Own.sideOff (by decide) (by decide) (by decide) (by decide) (by decide) (by decide) (by decide) (Own.same s)
  refine ⟨?_, ?_, ?_⟩
  · rw [sideState_checkHoldover, sideState_setDegraded, sideOff, sideState_setSideBays, sideState_pllOff, leaveService, sideState_reportsAlone,
      sideState_set]
  · rw [State.bit, (hhold _).numKept 0x6000 2 rfl rfl]
    exact State.bit_set _ true (by decide)
  · rw [(hhold _).numKept 0x6020 2 rfl rfl, ← hoff.numKept 0x6020 2 rfl rfl]
    exact num_setNum_far _ _ _ _ _ _ (by decide)

/-- A side that joins beside one IN_CONTROL is RESERVE; alone it takes control (R279). -/
theorem joinSide_reads (x : Side) (s : State) :
    (s.sideState (otherSide x) = 1 → (joinSide x s).sideState x = 2 ∧ (joinSide x s).sideState (otherSide x) = 1 ∧
      ((joinSide x s).sideRt x).reserveSince = some s.now ∧ (joinSide x s).bit 0x6000 2 15 = false) ∧
    (s.sideState (otherSide x) ≠ 1 → (joinSide x s).sideState x = 1) := by
  have hjoin : Own [.sides, .scribe] [⟨0xB100, 0xB100, 3, 3⟩, ⟨0x8300, 0x836F, 5, 5⟩, ⟨0x8300, 0x836F, 8, 8⟩] s (joinSpares x (restartCounters x s)) :=
    Own.joinSpares (by decide) (by decide) (Own.restartCounters (by decide) (by decide) (Own.same s))
  have hside := fun y => sideState_of (hjoin.numKept 0x6021 1 rfl rfl) y
  have hnow := hjoin.now (by decide)
  unfold joinSide
  dsimp only
  generalize joinSpares x (restartCounters x s) = w at hside hnow ⊢
  refine ⟨fun hy => ?_, fun hy => ?_⟩
  · have hcopy : Own [.meas, .graphs, .plate, .capture] [] w (copySurvivor (otherSide x) x w) :=
      Own.copySurvivor (by decide) (by decide) (by decide) (by decide) (Own.same w)
    have hcside := fun y => sideState_of (hcopy.numKept 0x6021 1 rfl rfl) y
    have hcnow := hcopy.now (by decide)
    rw [if_pos (by rw [hside, hy])]
    generalize copySurvivor (otherSide x) x w = u at hcside hcnow ⊢
    refine ⟨?_, ?_, ?_, ?_⟩
    · simp only [raise_sideWords, sideState_setDegraded, setReserve, sideState_setSideRt, sideState_set]
    · simp only [raise_sideWords, sideState_setDegraded, setReserve, sideState_setSideRt, sideState_set_other, hcside, hside, hy]
    · have hraise : ∀ v : State, (v.raise 36 (sideIx x)).sideRt x = v.sideRt x := fun v => sideRt_of_sides (by simp) x
      have hlow : ∀ v : State, (setDegraded false v).sideRt x = v.sideRt x := fun v => by cases x <;> rfl
      rw [hraise, hlow, setReserve, sideRt_same]
      exact congrArg some (hcnow.trans hnow)
    · rw [bit_raise _ _ _ _ _ _ _ _ (by decide)]
      exact State.bit_set _ false (by decide)
  · have hsrc : ∀ u : State, Own [.meas] [⟨0x2500, 0x2503, 6, 6⟩, ⟨0x2500, 0x2503, 8, 8⟩, ⟨0x2500, 0x2503, 9, 9⟩] u (sourcesAtOnce u) := fun u =>
      Own.sourcesAtOnce (by decide) (by decide) (Own.same u)
    have hctl : (sourcesAtOnce ((setControl x w).raise 36 (sideIx x))).sideState x = 1 := by
      rw [sideState_of ((hsrc _).numKept 0x6021 1 rfl rfl) x, sideState_raise]
      simp [setControl]
    rw [if_neg (by rw [hside]; exact hy), sideState_ite]
    split
    · have hother := (startReinit_side ((sourcesAtOnce ((setControl x w).raise 36 (sideIx x))).setSideRt (otherSide x)
        { (sourcesAtOnce ((setControl x w).raise 36 (sideIx x))).sideRt (otherSide x) with attempts := 0 }) (otherSide x)).2.1
      rw [otherSide_other, sideState_setSideRt, hctl] at hother
      exact hother
    · exact hctl

/-- A handover gives control to the other side, and the first becomes RESERVE (R281). -/
theorem moveControl_reads (x : Side) (c : Nat) (s : State) :
    (moveControl x (otherSide x) c s).sideState (otherSide x) = 1 ∧ (moveControl x (otherSide x) c s).sideState x = 2 := by
  have horder : ∀ (u : State) y z, (orderChange y c u).sideState z = u.sideState z := by
    intro u y z
    cases z <;> simp (disch := decide) [orderChange, State.sideState]
  have hkerf : ∀ (u : State) y l z, (kerfOpen y l u).sideState z = u.sideState z := fun u y l z => by simp [kerfOpen]
  have hfinish : ∀ u : State, u.sideState (otherSide x) = 1 → u.sideState x = 2 → (∃ t0 m, u.sides.takeover = some (t0, m, true)) →
      (finishChange u).sideState (otherSide x) = 1 ∧ (finishChange u).sideState x = 2 := by
    intro u hy hx ⟨t0, m, htake⟩
    have hctl : u.control = some (otherSide x) := control_iff u _ hy (by rw [otherSide_other, hx]; decide)
    unfold finishChange
    rw [htake]
    dsimp only
    generalize hw : ({ u with sides := { u.sides with takeover := none } } : State).setNum 0x6021 4 _ = w
    have hside : ∀ z, w.sideState z = u.sideState z := fun z => by
      rw [← hw]
      exact sideState_of (num_setNum_far _ _ _ _ _ _ (by decide)) z
    have hctl' : w.control = some (otherSide x) := by
      rw [← hctl]
      simp only [State.control, hside]
    have hstay : ¬ w.sideState (otherSide (w.control.getD .A)) = 3 := by
      rw [hctl', Option.getD_some, otherSide_other, hside, hx]
      decide
    rw [if_neg (by simp), if_neg hstay]
    exact ⟨(hside _).trans hy, (hside _).trans hx⟩
  have hdeliver : ∀ u : State, u.sideState (otherSide x) = 1 → u.sideState x = 2 →
      (deliverChange (otherSide x) true u).sideState (otherSide x) = 1 ∧ (deliverChange (otherSide x) true u).sideState x = 2 := by
    intro u hy hx
    unfold deliverChange
    dsimp only
    rw [otherSide_other]
    generalize hv : (if (u.sideRt x).clockStopped = true then allToSide (otherSide x) u else u) = v
    have hside : ∀ z, v.sideState z = u.sideState z := fun z => by
      rw [← hv]
      split
      · exact sideState_allToSide ..
      · rfl
    rw [← hside] at hx hy
    split
    · exact hfinish _ hy hx ⟨_, _, rfl⟩
    · exact ⟨hy, hx⟩
  unfold moveControl
  refine hdeliver _ ?_ ?_
  · simp only [hkerf, raise_sideWords, horder, setControl, setReserve]
    simp
  · simp only [hkerf, raise_sideWords, horder, setControl, setReserve]
    simp

theorem ended_sides (s : State) (q : List Instr) : (s.ended q).sides = s.sides := by simp

/-- Settles O36: re-initialisation, the side commands, the handover and DOUT. -/
theorem sideControlCompletes : Obligations.SideControlCompletes := by
  intro s t b
  have hb : s.arrive t = b := rfl
  clear_value b
  refine ⟨fun x h5 hjoin hlack hy => ?_, fun x h5 hjoin hlack hy => ?_, fun x j h5 hjoin hlack => ?_, fun x h5 => ?_,
    fun x r h4 hret hr hdbl => ?_, fun c hhost hr hprof hctl hy => ?_, fun hhost hprof => ?_, fun x hctl hy hblk hmain hhand => ?_,
    fun x hhost hr h4 hspent hdbl => ?_, fun x hhost hr hprof hway htake => ?_, fun x hhost hr hprof h2 hon => ?_,
    fun x hhost hr hprof h0 hdbl => ?_, fun x hf => ?_, fun t0 h hk hdue => ?_⟩
  · refine gives_of_run hb (execSideJoined.eq_def ..) rfl ?_
    obtain ⟨h1, h2, h3, h4⟩ := (joinSide_reads x b).1 hy
    simp only [h5, hjoin, hlack, decide_true, Bool.and_self, if_true, Option.isSome_none, Bool.false_eq_true, if_false]
    exact ⟨by rw [sideState_ended, h1], by rw [sideState_ended, h2], by rw [ended_sideRt, h3], by rw [bit_ended _ _ _ _ _ (by decide), h4]⟩
  · refine gives_of_run hb (execSideJoined.eq_def ..) rfl ?_
    simp only [h5, hjoin, hlack, decide_true, Bool.and_self, if_true, Option.isSome_none, Bool.false_eq_true, if_false]
    rw [sideState_ended]
    exact (joinSide_reads x b).2 hy
  · refine gives_of_run hb (execSideJoined.eq_def ..) rfl ?_
    obtain ⟨h1, h2⟩ := failAttempt_reads x true (b.raise 117 (sideIx x) j)
    simp only [true_or, if_true] at h2
    simp only [h5, hjoin, hlack, decide_true, Bool.and_self, if_true, Option.isSome_some, attemptEnds]
    exact ⟨by rw [sideState_ended, h1], by rw [ended_sideRt, h2]⟩
  · refine gives_of_run hb (execReinitAttemptFailed.eq_def ..) rfl ?_
    simp only [h5, if_true, attemptEnds]
    cases hlack : joistLacking b x with
    | none =>
      obtain ⟨h1, h2⟩ := failAttempt_reads x false b
      refine ⟨by rw [sideState_ended, h1], ?_⟩
      simpa [ended_sideRt] using h2
    | some j =>
      obtain ⟨h1, h2⟩ := failAttempt_reads x true (b.raise 117 (sideIx x) j)
      refine ⟨by rw [sideState_ended, h1], ?_⟩
      simpa [ended_sideRt] using h2
  · refine gives_of_run hb (execReinitRetry.eq_def ..) rfl ?_
    obtain ⟨h1, -, h3⟩ := startReinit_side b x
    simp only [hret, h4, hr, hdbl, decide_true, Bool.not_false, Bool.and_self, if_true]
    exact ⟨by rw [sideState_ended, h1], by rw [ended_sideRt, h3]⟩
  · refine gives_of_run hb (execHandover.eq_def ..) rfl ?_
    have hreason : sideCommandReason 1 .A b = 0 := by simp [sideCommandReason, hr, hprof, hctl, hy]
    simp only [hhost, if_true, sideCommand, hreason]
    have hdo : ∀ u : State, doSideCommand 1 .A u = { u with sides := { u.sides with handover := 1 } } := fun u => by simp [doSideCommand]
    rw [hdo]
    exact ⟨by simp, (num_ended _ _ _ _ (by decide)).trans (num_sideStatus (v := 0x1000) (by decide) b)⟩
  · refine gives_of_run hb (execHandover.eq_def ..) rfl ?_
    have hreason : sideCommandReason 1 .A b = 3 := by simp [sideCommandReason, hprof]
    simp only [hhost, if_true, sideCommand, hreason]
    rw [if_neg (by decide)]
    exact ⟨by simp, (num_ended _ _ _ _ (by decide)).trans ((num_raise _ _ _ _ _ _ _ (by decide)).trans (num_sideStatus (v := 0x1003) (by decide) b))⟩
  · refine gives_of_run hb (execHandoverExecute.eq_def ..) rfl ?_
    obtain ⟨h1, h2⟩ := moveControl_reads x 8 b
    simp only [hctl, hy, hblk, hmain, hhand, ne_eq, not_true, Bool.not_true, Bool.or_self, Bool.false_eq_true, if_false, if_true]
    exact ⟨by rw [sideState_ended, h1], by rw [sideState_ended, h2]⟩
  · refine gives_of_run hb (execRestore.eq_def ..) rfl ?_
    have hreason : sideCommandReason 2 x b = 0 := by simp [sideCommandReason, hr, h4, hspent]
    have hdo : ∀ u : State, u.sides.doubleFault = false → doSideCommand 2 x u = startReinit x (u.setSideRt x { u.sideRt x with spent := false, attempts := 0 }) := by
      intro u hu
      simp [doSideCommand, doubleFault_setSideRt, hu]
    simp only [hhost, if_true, sideCommand, hreason]
    rw [hdo _ (by exact hdbl)]
    obtain ⟨h1, -, h3⟩ := startReinit_side ((b.setNum 0x6020 2 (2 <<< 12 ||| 0)).setSideRt x
      { (b.setNum 0x6020 2 (2 <<< 12 ||| 0)).sideRt x with spent := false, attempts := 0 }) x
    refine ⟨by rw [sideState_ended, h1], by rw [ended_sideRt, h3, sideRt_same], ?_⟩
    rw [num_ended _ _ _ _ (by decide), num_startReinit]
    cases x <;> exact num_sideStatus (v := 0x2000) (by decide) b
  · refine gives_of_run hb (execPowerDown.eq_def ..) rfl ?_
    have hreason : sideCommandReason 3 x b = 0 := by
      rcases hway with ⟨h2, hoff⟩ | h4
      · simp [sideCommandReason, hr, hprof, h2, hoff]
      · simp [sideCommandReason, hr, hprof, h4]
    have hdo : ∀ u : State, doSideCommand 3 x u = checkHoldover 1 (setDegraded true (sideOff x (u.setSideRt x
        { u.sideRt x with retryAt := none, spareFail := false }))) := fun u => by simp [doSideCommand]
    simp only [hhost, if_true, sideCommand, hreason]
    rw [hdo]
    obtain ⟨h1, h2, h3⟩ := powerDown_reads x ((b.setNum 0x6020 2 (3 <<< 12 ||| 0)).setSideRt x
      { (b.setNum 0x6020 2 (3 <<< 12 ||| 0)).sideRt x with retryAt := none, spareFail := false })
    refine ⟨by rw [sideState_ended, h1], by rw [bit_ended _ _ _ _ _ (by decide), h2], ?_⟩
    rw [num_ended _ _ _ _ (by decide), h3]
    cases x <;> exact num_sideStatus (v := 0x3000) (by decide) b
  · refine gives_of_run hb (execPowerDown.eq_def ..) rfl ?_
    have hreason : sideCommandReason 3 x b = 2 := by simp [sideCommandReason, hr, hprof, h2, hon]
    simp only [hhost, if_true, sideCommand, hreason]
    refine ⟨?_, ?_⟩
    · rw [sideState_ended, if_neg (by decide), sideState_raise]
      exact (sideState_of (num_setNum_far _ _ _ _ _ _ (by decide)) x).trans h2
    · rw [num_ended _ _ _ _ (by decide), if_neg (by decide), num_raise _ _ _ _ _ _ _ (by decide)]
      exact num_sideStatus (v := 0x3002) (by decide) b
  · refine gives_of_run hb (execPowerUp.eq_def ..) rfl ?_
    have hreason : sideCommandReason 4 x b = 0 := by simp [sideCommandReason, hr, hprof, h0]
    simp only [hhost, if_true, sideCommand, hreason]
    have hdo : ∀ u : State, doSideCommand 4 x u = setFailed x u := fun u => by simp [doSideCommand]
    rw [hdo]
    obtain ⟨h1, h2⟩ := setFailed_reinit (b.setNum 0x6020 2 (4 <<< 12 ||| 0)) x hdbl
    refine ⟨by rw [sideState_ended, h1], by rw [ended_sideRt, h2], ?_⟩
    rw [num_ended _ _ _ _ (by decide), num_setFailed]
    exact num_sideStatus (v := 0x4000) (by decide) b
  · refine gives_of_run hb (execDoutRequest.eq_def ..) rfl ?_
    simp only [hf, Bool.not_true, Bool.false_eq_true, if_false]
    generalize hu : b.setSideRt x { b.sideRt x with dout := (b.graph x).doutReq } = u
    have hkerf : u.sides.kerf = b.sides.kerf := by rw [← hu]; cases x <;> rfl
    have hdout : (u.sideRt x).dout = (b.graph x).doutReq := by rw [← hu, sideRt_same]
    have hside : u.sideState x = b.sideState x := by rw [← hu, sideState_setSideRt]
    have hnow : u.now = b.now := by rw [← hu]; cases x <;> rfl
    have hclose : ∀ v, (({ u with sides := { u.sides with kerf := v } } : State).sideRt x).dout = (b.graph x).doutReq := fun v => by
      rw [← hdout]
      cases x <;> rfl
    rw [ended_sideRt, hkerf]
    cases hk : b.sides.kerf with
    | none => exact ⟨hdout, fun t0 h hsome => by cases hsome⟩
    | some e =>
      obtain ⟨t0, h⟩ := e
      dsimp only
      rw [hside, hnow]
      by_cases hc : b.sideState x = 1 ∧ t0 + usFs 1 ≤ b.now
      · rw [if_pos (by simpa using hc)]
        refine ⟨hclose _, fun t0' h' hsome => ?_⟩
        cases hsome
        rw [if_pos hc]
        simp
      · rw [if_neg (by simpa using hc)]
        refine ⟨hdout, fun t0' h' hsome => ?_⟩
        cases hsome
        rw [if_neg hc, ended_sides, hkerf, hk]
  · refine gives_of_run hb (execKerfWindowClose.eq_def ..) rfl ?_
    simp [hk, hdue]
end Sys2Proof
end

section
/-!
SUPPORT. Safety: ridge faults, seal switches, safety inputs and outputs, the safety reset (chapter 10).
-/
namespace Sys2Proof
open Sys2Proof.Machine

/-! ### Ridge faults (R23) -/

/-- Whether ticks occur rests on the side in control, the active slot and its schedules, the carriers and the debug halt. -/
theorem ticksOccur_of {s s' : State} (hside : s'.num 0x6021 1 = s.num 0x6021 1) (hslot : s'.num 0x3000 2 = s.num 0x3000 2)
    (hsched : ∀ k, k < 2 → s'.blob (0x3100 + k) 2 = s.blob (0x3100 + k) 2) (ha : s'.plate.a = s.plate.a) (hb : s'.plate.b = s.plate.b)
    (hhalt : s'.plate.halted = s.plate.halted) : ticksOccur s' = ticksOccur s := by
  have hactive : s'.activeSlot = s.activeSlot := graphWords_of hslot
  have hsill : ∀ x, s'.sill x = s.sill x := by intro x; cases x <;> simp [State.sill, ha, hb]
  have hword : activeSched s' = activeSched s := by
    unfold activeSched
    rw [hactive]
    cases h : s.activeSlot with
    | none => rfl
    | some k => exact hsched k (activeSlot_lt h)
  have hcontrol : s'.control = s.control ∧ s'.reporter = s.reporter := by
    have h := sideWords_of hside
    exact ⟨by simp [h], by simp [h]⟩
  simp only [ticksOccur, hactive, hword, hcontrol, State.carrierRuns, hsill, hhalt]

/-- Two states that ticks, the machine's state and the boot stage do not tell apart. -/
structure SameMachine (b u : State) : Prop where
  gf : u.num 0x4001 3 = b.num 0x4001 3
  stage : u.num 0xB000 1 = b.num 0xB000 1
  side : u.num 0x6021 1 = b.num 0x6021 1
  slot : u.num 0x3000 2 = b.num 0x3000 2
  sched : ∀ k, k < 2 → u.blob (0x3100 + k) 2 = b.blob (0x3100 + k) 2
  sillA : u.plate.a = b.plate.a
  sillB : u.plate.b = b.plate.b
  halted : u.plate.halted = b.plate.halted

theorem SameMachine.ticksOccur {b u : State} (h : SameMachine b u) : ticksOccur u = ticksOccur b :=
  ticksOccur_of h.side h.slot h.sched h.sillA h.sillB h.halted

theorem SameMachine.gfState {b u : State} (h : SameMachine b u) : u.gfState = b.gfState := (gfWords_of h.gf).1

theorem SameMachine.ready {b u : State} (h : SameMachine b u) : u.ready = b.ready := (stageWords_of h.stage).2

theorem SameMachine.trans {a b c : State} (h : SameMachine a b) (g : SameMachine b c) : SameMachine a c :=
  ⟨g.gf.trans h.gf, g.stage.trans h.stage, g.side.trans h.side, g.slot.trans h.slot, fun k hk => (g.sched k hk).trans (h.sched k hk),
    g.sillA.trans h.sillA, g.sillB.trans h.sillB, g.halted.trans h.halted⟩

/-- An operation that moves neither the plate nor the objects they rest on. -/
theorem SameMachine.of_own {P : List Part} {G : List Objs} {b u : State} (h : Own P G b u) (hp : Part.plate ∉ P)
    (h1 : G.any (·.has (0x4001 * 256 + 3)) = false) (h2 : G.any (·.has (0xB000 * 256 + 1)) = false) (h3 : G.any (·.has (0x6021 * 256 + 1)) = false)
    (h4 : G.any (·.has (0x3000 * 256 + 2)) = false) (h5 : ∀ k, k < 2 → G.any (·.has ((0x3100 + k) * 256 + 2)) = false) : SameMachine b u :=
  have hsill := fun x => sill_of_own h hp x
  ⟨h.numKept _ _ rfl h1, h.numKept _ _ rfl h2, h.numKept _ _ rfl h3, h.numKept _ _ rfl h4,
    fun k hk => h.blobKept _ _ (evKey_eq_false (by decide) (by omega)) (h5 k hk), hsill .A, hsill .B, congrArg (fun p => p.halted) (h.plate hp)⟩

theorem sameMachine_clearPermit (s : State) : SameMachine s (clearPermit s) := by
  constructor <;> intros <;> simp (disch := omega) [clearPermit, setPermits, discardTests]

theorem holdGates_keeps (s : State) : (holdGates s).gfState = s.gfState ∧ (holdGates s).permit = s.permit := by
  unfold holdGates; split <;> exact ⟨rfl, rfl⟩

/-- A ridge fault at READY stops the machine (R23): at once, or with the next main tick while ticks occur. -/
theorem ridgeStop_ridgeFault {b u : State} (h : SameMachine b u) (hready : b.ready = true) (h6 : b.gfState ≠ 6) (q : List Instr) :
    RidgeStop b ((ridgeFault u).ended q) := by
  have hfault : ridgeFault u = stopNow 12 (clearPermit { u with safety := { u.safety with ridgeFault := true } }) := by
    unfold ridgeFault; rw [if_pos (h.ready.trans hready)]
  have hpermit := permit_clearPermit { u with safety := { u.safety with ridgeFault := true } }
  have hsame : SameMachine b (clearPermit { u with safety := { u.safety with ridgeFault := true } }) :=
    SameMachine.trans (b := { u with safety := { u.safety with ridgeFault := true } })
      ⟨h.gf, h.stage, h.side, h.slot, h.sched, h.sillA, h.sillB, h.halted⟩ (sameMachine_clearPermit _)
  rw [hfault]
  generalize clearPermit { u with safety := { u.safety with ridgeFault := true } } = v at hpermit hsame
  have hv6 : v.gfState ≠ 6 := hsame.gfState ▸ h6
  unfold RidgeStop
  cases ht : ticksOccur b with
  | true =>
    have hstop : stopNow 12 v = noteCause 12 (holdGates v) := by simp [stopNow, hv6, hsame.ticksOccur, ht]
    have hgates : holdGates v = { v with plate := { v.plate with gateHold := true } } := if_neg hv6
    rw [hstop, hgates]
    simp [noteCause, hpermit, hv6, hsame.gfState, h6, testBit_setBit]
  | false =>
    have hstop : stopNow 12 v = enterGf 6 12 (holdGates v) := by simp [stopNow, hv6, hsame.ticksOccur, ht]
    obtain ⟨hstate, hprev, hcause⟩ := gfState_enterGf (holdGates v) 6 12 (by decide) (by decide)
    have hp := permit_enterGf (holdGates v) 6 12 ((holdGates_keeps v).2.trans hpermit)
    rw [hstop]
    simp [evKey, hstate, hprev, hcause, hp, (holdGates_keeps v).1, hsame.gfState]

/-! ### Words of the safety logic (Table 10.7) -/

theorem sizeOf_safety : sizeOf 0x6800 1 = 2 ∧ sizeOf 0x6800 2 = 4 ∧ sizeOf 0x6800 3 = 1 ∧ sizeOf 0x6800 4 = 1 ∧ sizeOf 0x6800 7 = 2 ∧
    sizeOf 0x6800 8 = 4 ∧ sizeOf 0x6800 9 = 2 ∧ sizeOf 0x6800 0xA = 2 := by decide

/-- A flag of SafetyStatus after a write to one. -/
theorem bit_safety_set {m n : Nat} (hm : m < 32) (v : Bool) (s : State) :
    (s.setBitO 0x6800 2 n v).bit 0x6800 2 m = if m = n then v else s.bit 0x6800 2 m := by
  rw [State.bit_setBitO s v _ _ _ (by rw [sizeOf_safety.2.1]; exact hm)]
  simp

theorem bit_safety_of {s u : State} (h : u.od = s.od) (m : Nat) : u.bit 0x6800 2 m = s.bit 0x6800 2 m := by
  simp only [State.bit, State.num, State.val, h]

theorem bit_safety_raise (e p0 p1 p2 : Nat) (s : State) (i j n : Nat) (h : evKey (i * 256 + j) = false) :
    (s.raise e p0 p1 p2).bit i j n = s.bit i j n := bit_raise _ _ _ _ _ _ _ _ h

/-- The enables of both channels and a flag of SafetyStatus but Permit. -/
def channelMark (n : Nat) (s : State) : Bool × Bool × Bool := (s.safety.a.enable, s.safety.b.enable, s.bit 0x6800 2 n)

theorem channelMark_of {s u : State} (hs : u.safety = s.safety) (hn : u.num 0x6800 2 = s.num 0x6800 2) (n : Nat) :
    channelMark n u = channelMark n s := by
  simp only [channelMark, State.bit, hs, hn]

theorem channelMark_own {P : List Part} {G : List Objs} {s u : State} (h : Own P G s u) (hp : Part.safety ∉ P)
    (hg : G.any (·.has (0x6800 * 256 + 2)) = false) (n : Nat) : channelMark n u = channelMark n s :=
  channelMark_of (h.safety hp) (h.numKept _ _ rfl hg) n

theorem channelMark_ite (n : Nat) (c : Prop) [Decidable c] (a b : State) :
    channelMark n (if c then a else b) = if c then channelMark n a else channelMark n b := by split <;> rfl

theorem channelMark_clearPermit {n : Nat} (hn : n < 31) (s : State) : channelMark n (clearPermit s) = channelMark n s := by
  have hbit := bit_safety_set (m := n) (n := 31) (by omega) (false && false) { s with safety := { s.safety with
    a := { s.safety.a with permit := false }, b := { s.safety.b with permit := false } } }
  rw [if_neg (by omega)] at hbit
  simp only [channelMark, clearPermit, setPermits, discardTests]
  rw [Prod.mk.injEq, Prod.mk.injEq]
  exact ⟨rfl, rfl, hbit⟩

/-- An entry to SAFE_STOP from another state moves no enable (R195, R298). -/
theorem channelMark_enterGf {n cause : Nat} (hn : n < 31) {s : State} (h6 : s.gfState ≠ 6) : channelMark n (enterGf 6 cause s) = channelMark n s := by
  have hclose : channelMark n (if s.gfState = 5 then releaseClose s else if s.gfState = 6 then setEnables true s else s) = channelMark n s := by
    rw [if_neg h6]
    split
    · exact channelMark_of (s := s) (u := releaseClose s) rfl (num_setBitO_far s 0x4001 3 7 false 0x6800 2 (by decide)) n
    · rfl
  have hleave : ∀ u : State, channelMark n (leaveCommission 3 u) = channelMark n u := fun u =>
    channelMark_own (P := [.plate, .pairs]) (G := [⟨0x5300, 0x5300, 4, 4⟩, ⟨0x5320, 0x5320, 2, 2⟩])
      (Own.leaveCommission (by decide) (by decide) (by decide) (Own.same u)) (by decide) rfl n
  have hqueue : ∀ u : State, channelMark n (queueAllLife u) = channelMark n u := fun u =>
    channelMark_own (P := [.stacks, .sharing]) (G := [⟨0x9010, 0x901F, 3, 3⟩, ⟨0xA000, 0xA000, 1, 1⟩])
      (Own.queueAllLife (by decide) (by decide) (by decide) (Own.same u)) (by decide) rfl n
  have hstop : ∀ u : State, channelMark n (onSafeStop u) = channelMark n u := by
    intro u
    have hpermit : ∀ v : State, channelMark n (if v.bit 0x6800 2 22 then clearPermit v else discardTests 0xFF v) = channelMark n v := by
      intro v
      split
      · exact channelMark_clearPermit hn v
      · rfl
    unfold onSafeStop
    dsimp only
    rw [hqueue, hpermit]
    rfl
  have hsrc : ∀ u : State, channelMark n (sourcesAtOnce u) = channelMark n u := fun u =>
    channelMark_own (P := [.meas]) (G := [⟨0x2500, 0x2503, 6, 6⟩, ⟨0x2500, 0x2503, 8, 8⟩, ⟨0x2500, 0x2503, 9, 9⟩])
      (Own.sourcesAtOnce (by decide) (by decide) (Own.same u)) (by decide) rfl n
  have hraise : ∀ (u : State) p, channelMark n (u.raise 122 6 p cause) = channelMark n u := fun u p => channelMark_of (by simp) (by simp [evKey]) n
  have hword : ∀ (u : State) v w, channelMark n ((u.setNum 0x4001 3 v).setNum 0x4001 4 w) = channelMark n u := fun u v w =>
    channelMark_of (s := u) (u := (u.setNum 0x4001 3 v).setNum 0x4001 4 w) rfl ((num_setNum_far _ 0x4001 4 w 0x6800 2 (by decide)).trans (num_setNum_far u 0x4001 3 v 0x6800 2 (by decide))) n
  have hgf : ∀ (u : State) v, channelMark n { u with gf := v } = channelMark n u := fun u v => rfl
  unfold enterGf
  dsimp only
  rw [hraise, hsrc, if_pos rfl, hstop, hgf, hword, if_neg (by decide), if_pos rfl, hleave, hclose]

/-- Nor does a ridge fault (R23). -/
theorem channelMark_ridgeFault {n : Nat} (hn : n < 31) {s : State} (hready : s.ready = true) (h6 : s.gfState ≠ 6) :
    channelMark n (ridgeFault s) = channelMark n s := by
  have hmark := channelMark_clearPermit hn { s with safety := { s.safety with ridgeFault := true } }
  have hgf := (sameMachine_clearPermit { s with safety := { s.safety with ridgeFault := true } }).gfState
  have hset : channelMark n { s with safety := { s.safety with ridgeFault := true } } = channelMark n s := rfl
  have hheld : ∀ u : State, channelMark n (holdGates u) = channelMark n u := fun u => by
    unfold holdGates
    split <;> rfl
  have hnote : ∀ u : State, channelMark n (noteCause 12 u) = channelMark n u := fun u => by
    unfold noteCause
    split <;> rfl
  rw [ridgeFault, if_pos hready]
  generalize clearPermit { s with safety := { s.safety with ridgeFault := true } } = u at hmark hgf ⊢
  have hu6 : u.gfState ≠ 6 := hgf ▸ h6
  rw [stopNow, if_neg hu6]
  split
  · rw [hnote, hheld, hmark, hset]
  · rw [channelMark_enterGf hn (by rw [(holdGates_keeps u).1]; exact hu6), hheld, hmark, hset]

/-! ### Demands and seals (R290 to R296) -/

theorem causes_noteCause {code : Nat} {s : State} (h6 : s.gfState ≠ 6) : (noteCause code s).gf.causes = setBit s.gf.causes code true := by
  rw [noteCause, if_neg h6]

theorem noteCause_keeps (code : Nat) (s : State) : (noteCause code s).safety = s.safety ∧ (noteCause code s).od = s.od ∧
    (noteCause code s).now = s.now := by
  unfold noteCause
  split <;> exact ⟨rfl, rfl, rfl⟩

/-- A safety stop: Permit and both enables are clear, its flag is set, and cause 8 stands (R292, R299, R300). -/
theorem safetyStop_reads {k : Nat} (hk : k < 31) (e p0 p1 : Nat) (s : State) (q : List Instr) :
    let u := ((noteCause 8 (setEnables false (clearPermit (s.setBitO 0x6800 2 k true)))).raise e p0 p1).ended q
    u.permit = false ∧ u.bit 0x6800 2 k = true ∧ (u.safety.a.enable = false ∧ u.safety.b.enable = false) ∧
      (s.gfState ≠ 6 → u.gf.causes = setBit s.gf.causes 8 true) := by
  have hpermit := permit_clearPermit (s.setBitO 0x6800 2 k true)
  have hmark := channelMark_clearPermit hk (s.setBitO 0x6800 2 k true)
  have hgf := (sameMachine_clearPermit (s.setBitO 0x6800 2 k true)).gfState
  have hstate : (s.setBitO 0x6800 2 k true).gfState = s.gfState := fld_setBitO_far _ _ _ _ _ _ _ _ _ (by decide)
  have hcauses : (clearPermit (s.setBitO 0x6800 2 k true)).gf = s.gf := rfl
  generalize clearPermit (s.setBitO 0x6800 2 k true) = v at hpermit hmark hgf hcauses ⊢
  obtain ⟨hsafety, hod, -⟩ := noteCause_keeps 8 (setEnables false v)
  dsimp only
  refine ⟨?_, ?_, ?_, fun h6 => ?_⟩
  · simp only [ended_safetyWords, raise_safetyWords]
    rw [State.permit, bit_safety_of hod]
    exact hpermit
  · rw [bit_ended _ _ _ _ _ (by decide), bit_raise _ _ _ _ _ _ _ _ (by decide), bit_safety_of hod]
    have hbit : v.bit 0x6800 2 k = (s.setBitO 0x6800 2 k true).bit 0x6800 2 k := congrArg (fun m => m.2.2) hmark
    exact hbit.trans (by rw [bit_safety_set (by omega), if_pos rfl])
  · have henable : (setEnables false v).safety.a.enable = false ∧ (setEnables false v).safety.b.enable = false := ⟨rfl, rfl⟩
    generalize setEnables false v = w at hsafety henable ⊢
    simp [hsafety, henable]
  · have hv6 : (setEnables false v).gfState ≠ 6 := by
      have h : (setEnables false v).gfState = v.gfState := rfl
      rw [h, hgf, hstate]
      exact h6
    have hcauses' : (setEnables false v).gf = s.gf := hcauses
    have hnote := causes_noteCause (code := 8) hv6
    generalize noteCause 8 (setEnables false v) = w at hnote ⊢
    simp [hnote, hcauses']
/-! ### Pairs of safety inputs (R294 to R296) -/

/-- One of the first four numbers alone meets a condition. -/
theorem forN_four_single {c : Nat → Bool} {n : Nat} (hn : n < 4) (hc : c n = true) (ho : ∀ m < 4, m ≠ n → c m = false) (f : State → State) (s : State) :
    forN 4 (fun n s => if c n then f s else s) s = f s := by
  have h : ∀ m < 4, c m = decide (m = n) := fun m hm => by
    by_cases hmn : m = n
    · rw [hmn, hc, decide_eq_true rfl]
    · rw [ho m hm hmn, decide_eq_false hmn]
  simp only [forN, List.range, List.range.loop, List.foldl, h 0 (by decide), h 1 (by decide), h 2 (by decide), h 3 (by decide)]
  rcases (by omega : n = 0 ∨ n = 1 ∨ n = 2 ∨ n = 3) with rfl | rfl | rfl | rfl <;> rfl

theorem forN_four_none {c : Nat → Bool} (ho : ∀ m < 4, c m = false) (f : State → State) (s : State) :
    forN 4 (fun n s => if c n then f s else s) s = s := by
  simp [forN, List.range, List.range.loop, ho]

/-- A mask built up bit by bit. -/
theorem testBit_forN_pow (c : Nat → Bool) {n j : Nat} (hj : j < n) : (forN n (fun i m => if c i then m + 2 ^ i else m) 0).testBit j = c j := by
  have h : ∀ k, forN k (fun i m => if c i then m + 2 ^ i else m) 0 < 2 ^ k ∧
      ∀ j < k, (forN k (fun i m => if c i then m + 2 ^ i else m) 0).testBit j = c j := by
    intro k
    induction k with
    | zero => exact ⟨Nat.zero_lt_one, fun j hj => absurd hj (by omega)⟩
    | succ k ih =>
      obtain ⟨hlt, hbits⟩ := ih
      have hstep : forN (k + 1) (fun i m => if c i then m + 2 ^ i else m) 0 =
          if c k then forN k (fun i m => if c i then m + 2 ^ i else m) 0 + 2 ^ k else forN k (fun i m => if c i then m + 2 ^ i else m) 0 := by
        simp [forN, List.range_succ]
      rw [hstep]
      generalize forN k (fun i m => if c i then m + 2 ^ i else m) 0 = x at hlt hbits
      have hpow : (2 : Nat) ^ (k + 1) = 2 ^ k + 2 ^ k := by rw [Nat.pow_succ]; omega
      refine ⟨by split <;> omega, fun j hj => ?_⟩
      have hfree : x.testBit k = false := Nat.testBit_lt_two_pow hlt
      by_cases hjk : j = k
      · subst hjk
        cases hc : c j
        · simpa using hfree
        · rw [if_pos rfl, Nat.add_comm, Nat.testBit_two_pow_add_eq, hfree]; rfl
      · split
        · rw [Nat.add_comm, Nat.testBit_two_pow_add_gt (by omega), hbits j (by omega)]
        · exact hbits j (by omega)
  exact (h n).2 j hj

theorem testBit_demandMask (s : State) (n : Nat) (hn : n < 4) : (demandMask s).testBit n = pairDemands s n :=
  testBit_forN_pow (pairDemands s) hn

theorem demandMask_of {s u : State} (ha : u.safety.a.sin = s.safety.a.sin) (hb : u.safety.b.sin = s.safety.b.sin) : demandMask u = demandMask s := by
  have hp : ∀ n, pairDemands u n = pairDemands s n := fun n => by simp only [pairDemands, Safety.sin, ha, hb]
  simp only [demandMask, hp]

/-- A channel whose balls demand is among those that withdraw. -/
theorem testBit_demandChans (s : State) : (demandChans s).testBit 0 = (s.safety.a.sin % 256 != 0) ∧
    (demandChans s).testBit 1 = (s.safety.b.sin % 256 != 0) := by
  have h : ∀ a b : Bool, (((if a then 1 else 0) ||| (if b then 2 else 0) : Nat).testBit 0 = a) ∧ (((if a then 1 else 0) ||| (if b then 2 else 0) : Nat).testBit 1 = b) := by
    decide
  exact h _ _

/-- What the withdrawal of channels leaves (R295). -/
theorem withdraw_reads (m : Nat) (s : State) : let u := withdraw m s
    u.safety.a.sin = s.safety.a.sin ∧ u.safety.b.sin = s.safety.b.sin ∧
      u.safety.a.permit = (s.safety.a.permit && !m.testBit 0) ∧ u.safety.b.permit = (s.safety.b.permit && !m.testBit 1) ∧
      u.safety.a.enable = (s.safety.a.enable && !m.testBit 0) ∧ u.safety.b.enable = (s.safety.b.enable && !m.testBit 1) ∧
      u.bit 0x6800 2 31 = ((s.safety.a.permit && !m.testBit 0) && (s.safety.b.permit && !m.testBit 1)) ∧
      (∀ n < 31, u.bit 0x6800 2 n = s.bit 0x6800 2 n) ∧ u.num 0x6800 7 = s.num 0x6800 7 ∧ u.gfState = s.gfState ∧ u.gf = s.gf := by
  have hod : (withdraw m s).od = (s.setBitO 0x6800 2 31 ((s.safety.a.permit && !m.testBit 0) && (s.safety.b.permit && !m.testBit 1))).od := rfl
  have hnum : ∀ i j, i * 256 + j ≠ 0x680002 → (withdraw m s).num i j = s.num i j := fun i j h => by
    rw [← num_setBitO_far s 0x6800 2 31 ((s.safety.a.permit && !m.testBit 0) && (s.safety.b.permit && !m.testBit 1)) i j h]
    simp only [State.num, State.val, hod]
  refine ⟨rfl, rfl, rfl, rfl, rfl, rfl, ?_, fun n hn => ?_, ?_, ?_, rfl⟩
  · rw [bit_safety_of hod, bit_safety_set (by decide), if_pos rfl]
  · rw [bit_safety_of hod, bit_safety_set (by omega), if_neg (by omega)]
  · exact hnum _ _ (by decide)
  · exact (gfWords_of (hnum 0x4001 3 (by decide))).1

theorem recogniseDemand_reads (s : State) : let u := recogniseDemand s
    u.safety = s.safety ∧ u.demandLatched = true ∧ (∀ n < 32, n ≠ 29 → n ≠ 7 → u.bit 0x6800 2 n = s.bit 0x6800 2 n) ∧
      u.num 0x6800 7 = satInc 16 (s.num 0x6800 7) ∧ (s.gfState ≠ 6 → u.gf.causes = setBit s.gf.causes 8 true) := by
  generalize hv : (((s.setBitO 0x6800 2 29 true).setBitO 0x6800 2 7 true).incSat 0x6800 7).setNum 0x6800 0xB (toT96 s.ridge) = v
  have hsafety : v.safety = s.safety := by rw [← hv]; rfl
  have hgf : v.gf = s.gf := by rw [← hv]; rfl
  have hnum : ∀ i j, i * 256 + j ≠ 0x680002 → i * 256 + j ≠ 0x680007 → i * 256 + j ≠ 0x68000B → v.num i j = s.num i j := by
    intro i j h1 h2 h3
    rw [← hv]
    exact (num_setNum_far _ _ _ _ _ _ h3).trans ((num_setNum_far _ _ _ _ _ _ h2).trans ((num_setBitO_far _ _ _ _ _ _ _ h1).trans
      (num_setBitO_far _ _ _ _ _ _ _ h1)))
  have hflag : ∀ n < 32, v.bit 0x6800 2 n = if n = 7 then true else if n = 29 then true else s.bit 0x6800 2 n := by
    intro n hn
    have hsame : v.bit 0x6800 2 n = ((s.setBitO 0x6800 2 29 true).setBitO 0x6800 2 7 true).bit 0x6800 2 n := by
      rw [← hv]
      simp only [State.bit]
      rw [num_setNum_far _ _ _ _ _ _ (by decide), State.incSat, num_setNum_far _ _ _ _ _ _ (by decide)]
    rw [hsame, bit_safety_set hn, bit_safety_set hn]
  have hcount : v.num 0x6800 7 = satInc 16 (s.num 0x6800 7) := by
    rw [← hv, num_setNum_far _ _ _ _ _ _ (by decide), State.incSat, num_setNum_same, num_setBitO_far _ _ _ _ _ _ _ (by decide),
      num_setBitO_far _ _ _ _ _ _ _ (by decide), sizeOf_safety.2.2.2.2.1]
    refine Nat.mod_eq_of_lt ?_
    rw [satInc_eq_min]
    omega
  obtain ⟨hnote, hod, -⟩ := noteCause_keeps 8 v
  have hcause := fun h6 => causes_noteCause (code := 8) (s := v) h6
  have hrec : recogniseDemand s = (noteCause 8 v).raise 0 (demandMask v) := by
    rw [← hv]
    rfl
  have hv6 : v.gfState = s.gfState := (gfWords_of (hnum 0x4001 3 (by decide) (by decide) (by decide))).1
  have hnums : ∀ i j, (noteCause 8 v).num i j = v.num i j := fun i j => by simp only [State.num, State.val, hod]
  rw [hrec]
  generalize noteCause 8 v = w at hnote hod hcause hnums ⊢
  refine ⟨by simp [hnote, hsafety], ?_, fun n hn h29 h7 => ?_, ?_, fun h6 => ?_⟩
  · simp only [raise_safetyWords]
    rw [State.demandLatched, bit_safety_of hod, hflag 29 (by decide)]
    rfl
  · rw [bit_raise _ _ _ _ _ _ _ _ (by decide), bit_safety_of hod, hflag n hn, if_neg h7, if_neg h29]
  · rw [num_raise _ _ _ _ _ _ _ (by decide), hnums, hcount]
  · have hraise : ∀ p, (w.raise 0 p).gf = w.gf := fun p => by simp
    rw [hraise, hcause (by rw [hv6]; exact h6), hgf]


/-- A number with one of its low eight bits set has a low byte. -/
theorem mod_ne_zero_of_testBit {x j : Nat} (hj : j < 8) (h : x.testBit j = true) : x % 256 ≠ 0 := by
  intro h0
  have hlow := Nat.testBit_mod_two_pow x 8 j
  rw [show (2 : Nat) ^ 8 = 256 from rfl, h0, Nat.zero_testBit, h] at hlow
  simp [hj] at hlow

/-- Demands recognised one after the other: the latch is set by the first, and no channel moves. -/
theorem recogniseAll_reads (c : Nat → Bool) (l : List Nat) (s : State) :
    let u := l.foldl (fun s n => if c n then recogniseDemand s else s) s
    u.safety = s.safety ∧ (∀ n < 32, n ≠ 29 → n ≠ 7 → u.bit 0x6800 2 n = s.bit 0x6800 2 n) ∧
      (s.demandLatched = true ∨ (∃ m ∈ l, c m = true) → u.demandLatched = true) := by
  induction l generalizing s with
  | nil => exact ⟨rfl, fun _ _ _ _ => rfl, fun h => h.resolve_right (by simp)⟩
  | cons m l ih =>
    obtain ⟨hsafety, hbits, hlatch⟩ := ih (if c m then recogniseDemand s else s)
    cases hm : c m with
    | false =>
      simp only [List.foldl, hm, Bool.false_eq_true, if_false] at hsafety hbits hlatch ⊢
      refine ⟨hsafety, hbits, fun h => hlatch (h.imp id ?_)⟩
      rintro ⟨k, hk, hck⟩
      rcases List.mem_cons.1 hk with rfl | hk
      · rw [hm] at hck; cases hck
      · exact ⟨k, hk, hck⟩
    | true =>
      obtain ⟨hsame, hset, hkeep, -, -⟩ := recogniseDemand_reads s
      simp only [List.foldl, hm, if_true] at hsafety hbits hlatch ⊢
      exact ⟨hsafety.trans hsame, fun n hn h29 h7 => (hbits n hn h29 h7).trans (hkeep n hn h29 h7), fun _ => hlatch (.inl hset)⟩

/-- The pairs where each demand that counts is known already. -/
theorem evalPairs_known {before : Nat} {v : State} (hen : sinEnabled v = true) (h : ∀ m < 4, pairDemands v m = true → before.testBit m = true) :
    evalPairs before v = withdraw (demandChans v) (v.setBitO 0x6800 2 30 (demandMask v != 0)) := by
  simp only [evalPairs, hen, Bool.not_true, Bool.false_eq_true, if_false]
  refine forN_four_none (fun m hm => ?_) _ _
  rw [testBit_demandMask v m hm]
  cases hp : pairDemands v m
  · rfl
  · rw [h m hm hp]; rfl

/-- The pairs where one demand is new. -/
theorem evalPairs_new {before n : Nat} {v : State} (hn : n < 4) (hen : sinEnabled v = true) (hd : pairDemands v n = true)
    (hb : before.testBit n = false) (h : ∀ m < 4, m ≠ n → pairDemands v m = true → before.testBit m = true) :
    evalPairs before v = recogniseDemand (withdraw (demandChans v) (v.setBitO 0x6800 2 30 true)) := by
  have hmask : (demandMask v != 0) = true := by
    rw [bne_iff_ne]
    intro h0
    have hbit := testBit_demandMask v n hn
    rw [h0, Nat.zero_testBit, hd] at hbit
    cases hbit
  simp only [evalPairs, hen, Bool.not_true, Bool.false_eq_true, if_false, hmask]
  refine forN_four_single hn ?_ (fun m hm hne => ?_) _ _
  · rw [testBit_demandMask v n hn, hd, hb]; rfl
  · rw [testBit_demandMask v m hm]
    cases hp : pairDemands v m
    · rfl
    · rw [h m hm hne hp]; rfl

/-- Some pair demands where the mask of demands is not empty. -/
theorem exists_pairDemands {v : State} (h : demandMask v ≠ 0) : ∃ m < 4, pairDemands v m = true := by
  refine Classical.byContradiction fun hno => ?_
  have hp : ∀ m < 4, pairDemands v m = false := fun m hm => by
    cases hd : pairDemands v m
    · rfl
    · exact absurd ⟨m, hm, hd⟩ hno
  refine h ?_
  simp [demandMask, forN, List.range, List.range.loop, hp]

/-- A demanding pair demands in a channel. -/
theorem channel_of_pairDemands {v : State} {m : Nat} (hm : m < 4) (h : pairDemands v m = true) :
    v.safety.a.sin % 256 ≠ 0 ∨ v.safety.b.sin % 256 ≠ 0 := by
  have hball : ∀ j, j < 8 → v.safety.sin.testBit j = true → v.safety.a.sin % 256 ≠ 0 ∨ v.safety.b.sin % 256 ≠ 0 := by
    intro j hj hbit
    rw [Safety.sin, Nat.testBit_or, Bool.or_eq_true] at hbit
    exact hbit.imp (mod_ne_zero_of_testBit hj) (mod_ne_zero_of_testBit hj)
  rw [pairDemands, Bool.or_eq_true] at h
  exact h.elim (hball m (by omega)) (hball (4 + m) (by omega))

/-- The pairs at the closing of SinEnable, while one demands (R295). -/
theorem evalPairs_first {v : State} (hen : sinEnabled v = true) (hd : demandMask v ≠ 0) : let u := evalPairs 0 v
    u.demandLatched = true ∧ u.permit = false ∧ (v.safety.a.sin % 256 ≠ 0 → u.safety.a.enable = false) ∧
      (v.safety.b.sin % 256 ≠ 0 → u.safety.b.enable = false) := by
  obtain ⟨hwa, hwb⟩ := testBit_demandChans v
  obtain ⟨m, hm, hp⟩ := exists_pairDemands hd
  have hchan := channel_of_pairDemands hm hp
  have hmask : (demandMask v != 0) = true := by simpa using hd
  simp only [evalPairs, hen, Bool.not_true, Bool.false_eq_true, if_false, hmask, Nat.zero_testBit, Bool.not_false, Bool.and_true]
  obtain ⟨-, -, -, -, hea, heb, hperm, -, -, -, -⟩ := withdraw_reads (demandChans v) (v.setBitO 0x6800 2 30 true)
  have hsame : (v.setBitO 0x6800 2 30 true).safety = v.safety := rfl
  rw [hsame] at hea heb hperm
  generalize withdraw (demandChans v) (v.setBitO 0x6800 2 30 true) = w at hea heb hperm ⊢
  obtain ⟨hsafety, hbits, hlatch⟩ := recogniseAll_reads (demandMask v).testBit (List.range 4) w
  rw [forN]
  generalize (List.range 4).foldl (fun s n => if (demandMask v).testBit n then recogniseDemand s else s) w = u at hsafety hbits hlatch ⊢
  refine ⟨hlatch (.inr ⟨m, List.mem_range.2 hm, by rw [testBit_demandMask v m hm, hp]⟩), ?_, fun ha => ?_, fun hb => ?_⟩
  · rw [State.permit, hbits 31 (by decide) (by decide) (by decide), hperm, hwa, hwb]
    rcases hchan with h | h <;> simp [h]
  · rw [hsafety, hea, hwa]; simp [ha]
  · rw [hsafety, heb, hwb]; simp [hb]

/-- What the pairs are judged by beside their balls. -/
def sinMark (s : State) : Channel × Channel × Bool × Bool × Bool × Nat × Nat × GridForm :=
  (s.safety.a, s.safety.b, sinEnabled s, s.demandLatched, s.permit, s.num 0x6800 7, s.gfState, s.gf)

theorem sinMark_flag {n : Nat} (hn : n < 23) (v : Bool) (s : State) : sinMark (s.setBitO 0x6800 2 n v) = sinMark s := by
  have hbit : ∀ m < 32, m ≠ n → (s.setBitO 0x6800 2 n v).bit 0x6800 2 m = s.bit 0x6800 2 m := fun m hm hne => by
    rw [bit_safety_set hm, if_neg hne]
  have hnum := num_setBitO_far s 0x6800 2 n v 0x6800 7 (by decide)
  have hgf : (s.setBitO 0x6800 2 n v).gfState = s.gfState := fld_setBitO_far s _ _ _ _ _ _ _ _ (by decide)
  have h23 := hbit 23 (by decide) (by omega)
  have h29 := hbit 29 (by decide) (by omega)
  have h31 := hbit 31 (by decide) (by omega)
  simp only [sinMark, sinEnabled, State.demandLatched, State.permit, h23, h29, h31, hnum, hgf]
  rfl

/-- A ball takes its state and the pairs are evaluated (R288, R295, R296). -/
theorem sinBall_eval {chans ball : Nat} (hball : ball < 8) (high : Bool) (s : State) : ∃ v, sinBall chans ball high s = evalPairs (demandsNow s) v ∧
    sinMark v = sinMark (setSin chans ball (!high) s) := by
  have hpair : 12 + ball % 4 < 23 := by omega
  have hlevel : ∀ (u : State) (x : Bool), sinMark (u.setBitO 0x6800 3 ball x) = sinMark u := fun u x => by
    have hnum : ∀ i j, i * 256 + j ≠ 0x680003 → (u.setBitO 0x6800 3 ball x).num i j = u.num i j := fun i j h => num_setBitO_far _ _ _ _ _ _ _ h
    simp only [sinMark, sinEnabled, State.demandLatched, State.permit, State.bit, State.gfState, State.fld, hnum 0x6800 2 (by decide),
      hnum 0x6800 7 (by decide), hnum 0x4001 3 (by decide)]
    rfl
  have hboth : ∀ (c : Bool) (u : State) (x : Nat), sinMark (if c = true then { u with safety := { u.safety with bothDemand := x } } else u) =
      sinMark u := fun c u x => by cases c <;> rfl
  have hclear : ∀ (c : Bool) (u : State) (x : Nat), sinMark (if c = true then
      { u.setBitO 0x6800 2 (12 + ball % 4) false with safety := { u.safety with bothDemand := x } } else u) = sinMark u := by
    intro c u x
    cases c
    · rfl
    · exact sinMark_flag hpair false u
  have hdisc : ∀ (u : State) (d : Store Nat), sinMark { u with safety := { u.safety with discSince := d } } = sinMark u := fun _ _ => rfl
  exact ⟨_, rfl, (hclear _ _ _).trans ((hboth _ _ _).trans ((hdisc _ _).trans (hlevel _ _)))⟩

/-- One of the channels named hears a ball. -/
theorem heard_of {c : Nat} (h1 : 1 ≤ c) (h4 : c < 4) : c.testBit 0 = true ∨ c.testBit 1 = true := by
  rcases (by omega : c = 1 ∨ c = 2 ∨ c = 3) with rfl | rfl | rfl <;> decide

theorem setSin_sin (c n : Nat) (d : Bool) (s : State) : (setSin c n d s).safety.a.sin = (if c.testBit 0 then setBit s.safety.a.sin n d else s.safety.a.sin) ∧
    (setSin c n d s).safety.b.sin = (if c.testBit 1 then setBit s.safety.b.sin n d else s.safety.b.sin) := ⟨rfl, rfl⟩

/-- The balls at demand once one has taken its state. -/
theorem testBit_setSin {c n : Nat} (d : Bool) (s : State) (j : Nat) : (setSin c n d s).safety.sin.testBit j =
    ((if c.testBit 0 = true ∧ j = n then d else s.safety.a.sin.testBit j) || (if c.testBit 1 = true ∧ j = n then d else s.safety.b.sin.testBit j)) := by
  obtain ⟨ha, hb⟩ := setSin_sin c n d s
  rw [Safety.sin, Nat.testBit_or, ha, hb]
  cases c.testBit 0 <;> cases c.testBit 1 <;> simp [testBit_setBit]

theorem pairDemands_setSin_demand {c n : Nat} (h1 : 1 ≤ c) (h4 : c < 4) (hn : n < 8) (s : State) {m : Nat} (hm : m < 4) :
    pairDemands (setSin c n true s) m = if m = n % 4 then true else pairDemands s m := by
  have hsame : ∀ j, j ≠ n → (setSin c n true s).safety.sin.testBit j = s.safety.sin.testBit j := fun j hj => by
    rw [testBit_setSin, Safety.sin, Nat.testBit_or]; simp [hj]
  have hset : (setSin c n true s).safety.sin.testBit n = true := by
    rw [testBit_setSin]
    rcases heard_of h1 h4 with h | h <;> simp [h]
  by_cases hmn : m = n % 4
  · rw [if_pos hmn, pairDemands]
    rcases (show m = n ∨ 4 + m = n by omega) with h | h
    · rw [h, hset, Bool.true_or]
    · rw [h, hset, Bool.or_true]
  · rw [if_neg hmn, pairDemands, pairDemands, hsame m (by omega), hsame (4 + m) (by omega)]

theorem pairDemands_setSin_healthy {c n : Nat} (s : State) {m : Nat} (h : pairDemands (setSin c n false s) m = true) : pairDemands s m = true := by
  have hsub : ∀ j, (setSin c n false s).safety.sin.testBit j = true → s.safety.sin.testBit j = true := fun j hj => by
    rw [testBit_setSin] at hj
    rw [Safety.sin, Nat.testBit_or]
    rw [Bool.or_eq_true] at hj ⊢
    refine hj.imp (fun h => ?_) (fun h => ?_)
    · split at h
      · cases h
      · exact h
    · split at h
      · cases h
      · exact h
  rw [pairDemands, Bool.or_eq_true] at h ⊢
  exact h.imp (hsub _) (hsub _)

theorem pairDemands_of {s u : State} (ha : u.safety.a = s.safety.a) (hb : u.safety.b = s.safety.b) (m : Nat) : pairDemands u m = pairDemands s m := by
  simp only [pairDemands, Safety.sin, ha, hb]

theorem testBit_demandsNow {s : State} (hen : sinEnabled s = true) {m : Nat} (hm : m < 4) : (demandsNow s).testBit m = pairDemands s m := by
  rw [demandsNow, if_pos hen, testBit_demandMask s m hm]

/-- What a channel makes of a ball at demand: having heard it, it withdraws. -/
def Takes (heard : Bool) (n : Nat) (old new : Channel) : Prop :=
  if heard then new.sin = setBit old.sin n true ∧ new.permit = false ∧ new.enable = false
  else new.sin = old.sin ∧ (old.sin % 256 = 0 → new.permit = old.permit ∧ new.enable = old.enable)

/-- A channel with a ball heard or not, once the channels that demand have withdrawn. -/
theorem takes_of {heard : Bool} {n : Nat} (hn : n < 8) {old new : Channel} (hsin : new.sin = if heard then setBit old.sin n true else old.sin)
    (hp : new.permit = (old.permit && !(new.sin % 256 != 0))) (he : new.enable = (old.enable && !(new.sin % 256 != 0))) : Takes heard n old new := by
  cases heard with
  | true =>
    rw [if_pos rfl] at hsin
    have hne : new.sin % 256 ≠ 0 := mod_ne_zero_of_testBit hn (by rw [hsin, testBit_setBit, if_pos rfl])
    have hb : (new.sin % 256 != 0) = true := bne_iff_ne.2 hne
    rw [Takes, if_pos rfl, hp, he, hb]
    exact ⟨hsin, Bool.and_false _, Bool.and_false _⟩
  | false =>
    rw [if_neg (by decide)] at hsin
    refine (if_neg (by decide)).mpr ⟨hsin, fun h0 => ?_⟩
    rw [hp, he, hsin, h0]
    exact ⟨Bool.and_true _, Bool.and_true _⟩

/-- A ball comes to demand in a pair where neither demanded (R288, R295). -/
theorem sinBall_demand {c n : Nat} {b : State} (hn : n < 8) (h1 : 1 ≤ c) (h4 : c < 4) (hen : sinEnabled b = true)
    (hp : pairDemands b (n % 4) = false) : let u := sinBall c n false b
    Takes (c.testBit 0) n b.safety.a u.safety.a ∧ Takes (c.testBit 1) n b.safety.b u.safety.b ∧ u.demandLatched = true ∧ u.permit = false ∧
      u.bit 0x6800 2 30 = true ∧ u.num 0x6800 7 = satInc 16 (b.num 0x6800 7) ∧ (b.gfState ≠ 6 → u.gf.causes = setBit b.gf.causes 8 true) := by
  obtain ⟨v, hv, hmark⟩ := sinBall_eval (chans := c) hn false b
  simp only [sinMark, Prod.mk.injEq, Bool.not_false] at hmark
  obtain ⟨ha, hb, hven, -, -, hcount, hgs, hgf⟩ := hmark
  have hpair : ∀ m < 4, pairDemands v m = if m = n % 4 then true else pairDemands b m := fun m hm => by
    rw [pairDemands_of ha hb, pairDemands_setSin_demand h1 h4 hn b hm]
  have heval := evalPairs_new (before := demandsNow b) (v := v) (n := n % 4) (by omega) (hven.trans hen) (by rw [hpair _ (by omega), if_pos rfl])
    (by rw [testBit_demandsNow hen (by omega), hp]) (fun m hm hne hd => by rw [testBit_demandsNow hen hm]; rwa [hpair m hm, if_neg hne] at hd)
  obtain ⟨hwa, hwb⟩ := testBit_demandChans v
  obtain ⟨hsa, hsb, hpa, hpb, hea, heb, hperm, hbits, hnum, hwgs, hwgf⟩ := withdraw_reads (demandChans v) (v.setBitO 0x6800 2 30 true)
  have h30 := hbits 30 (by decide)
  rw [bit_safety_set (by decide), if_pos rfl] at h30
  have hn7 := num_setBitO_far v 0x6800 2 30 true 0x6800 7 (by decide)
  have hg30 : (v.setBitO 0x6800 2 30 true).gfState = v.gfState := fld_setBitO_far v _ _ _ _ _ _ _ _ (by decide)
  have hsame : (v.setBitO 0x6800 2 30 true).safety = v.safety := rfl
  have hsameGf : (v.setBitO 0x6800 2 30 true).gf = v.gf := rfl
  rw [hsame] at hsa hsb hpa hpb hea heb hperm
  rw [hv, heval]
  generalize withdraw (demandChans v) (v.setBitO 0x6800 2 30 true) = w at hsa hsb hpa hpb hea heb hperm hbits hnum hwgs hwgf h30 ⊢
  obtain ⟨hsafety, hlatch, hkeep, hinc, hcause⟩ := recogniseDemand_reads w
  generalize recogniseDemand w = u at hsafety hlatch hkeep hinc hcause ⊢
  rw [← hsafety] at hsa hsb hpa hpb hea heb
  rw [hwa, ← hsa] at hpa hea
  rw [hwb, ← hsb] at hpb heb
  have hTa : Takes (c.testBit 0) n b.safety.a u.safety.a := takes_of hn (by rw [hsa, ha]; rfl) (by rw [hpa, ha]; rfl) (by rw [hea, ha]; rfl)
  have hTb : Takes (c.testBit 1) n b.safety.b u.safety.b := takes_of hn (by rw [hsb, hb]; rfl) (by rw [hpb, hb]; rfl) (by rw [heb, hb]; rfl)
  refine ⟨hTa, hTb, hlatch, ?_, ?_, ?_, fun h6 => ?_⟩
  · rw [State.permit, hkeep 31 (by decide) (by decide) (by decide), hperm, hwa, ← hsa, hwb, ← hsb, ← hpa, ← hpb]
    rcases heard_of h1 h4 with h | h
    · rw [h] at hTa; rw [hTa.2.1, Bool.false_and]
    · rw [h] at hTb; rw [hTb.2.1, Bool.and_false]
  · rw [hkeep 30 (by decide) (by decide) (by decide), h30]
  · rw [hinc, hnum, hn7, hcount]; rfl
  · rw [hcause, hwgf, hsameGf, hgf]
    · rfl
    · rw [hwgs, hg30, hgs]; exact h6

/-- A ball becomes healthy again (R295): no demand is new, and no channel gains. -/
theorem sinBall_healthy {c n : Nat} {b : State} (hn : n < 8) (hen : sinEnabled b = true) : let u := sinBall c n true b
    u.safety.a.sin = (if c.testBit 0 then setBit b.safety.a.sin n false else b.safety.a.sin) ∧
      u.safety.b.sin = (if c.testBit 1 then setBit b.safety.b.sin n false else b.safety.b.sin) ∧ u.demandLatched = b.demandLatched ∧
      (u.safety.a.permit = true → b.safety.a.permit = true) ∧ (u.safety.b.permit = true → b.safety.b.permit = true) ∧
      (u.safety.a.enable = true → b.safety.a.enable = true) ∧ (u.safety.b.enable = true → b.safety.b.enable = true) := by
  obtain ⟨v, hv, hmark⟩ := sinBall_eval (chans := c) hn true b
  simp only [sinMark, Prod.mk.injEq, Bool.not_true] at hmark
  obtain ⟨ha, hb, hven, hlatched, -, -, -, -⟩ := hmark
  have heval := evalPairs_known (before := demandsNow b) (v := v) (hven.trans hen) (fun m hm hd => by
    rw [testBit_demandsNow hen hm]
    rw [pairDemands_of ha hb] at hd
    exact pairDemands_setSin_healthy b hd)
  obtain ⟨hsa, hsb, hpa, hpb, hea, heb, -, hbits, -, -, -⟩ := withdraw_reads (demandChans v) (v.setBitO 0x6800 2 30 (demandMask v != 0))
  have hsame : (v.setBitO 0x6800 2 30 (demandMask v != 0)).safety = v.safety := rfl
  have h29 := hbits 29 (by decide)
  rw [bit_safety_set (by decide), if_neg (by decide)] at h29
  rw [hsame, ha] at hsa hpa hea
  rw [hsame, hb] at hsb hpb heb
  rw [hv, heval]
  refine ⟨hsa, hsb, ?_, ?_, ?_, ?_, ?_⟩
  · exact h29.trans hlatched
  · rw [hpa, Bool.and_eq_true]; exact fun h => h.1
  · rw [hpb, Bool.and_eq_true]; exact fun h => h.1
  · rw [hea, Bool.and_eq_true]; exact fun h => h.1
  · rw [heb, Bool.and_eq_true]; exact fun h => h.1

/-! ### Seal switches (R290 to R293) -/

theorem sealReading_beq (hT hC : Bool) : (sealReading hT hC == 2) = (hT == hC) := by cases hT <;> cases hC <;> rfl

theorem sealReading_ne {hT hC : Bool} (h : hT ≠ hC) : sealReading hT hC ≠ 2 := by
  cases hT <;> cases hC <;> simp_all [sealReading]

theorem putReading_one {n reading m : Nat} (hn : n < 8) (hm : m < 16) (s : State) : (putReading n reading s).bit 0x6800 1 m =
    if m = n ∧ reading ≠ 2 ∧ ¬(s.ready = true ∧ n < 5) then reading == 1 else s.bit 0x6800 1 m := by
  unfold putReading
  by_cases h2 : reading = 2
  · simp [h2]
  · rw [if_neg h2]
    by_cases hr : (s.ready && decide (n < 5)) = true
    · have hr' : ({ s with safety := { s.safety with accepted := setBit s.safety.accepted n (reading == 1) } } : State).ready = s.ready := rfl
      dsimp only
      rw [hr', if_pos hr, if_neg (by simp_all)]
      rfl
    · have hr' : ({ s with safety := { s.safety with accepted := setBit s.safety.accepted n (reading == 1) } } : State).ready = s.ready := rfl
      dsimp only
      rw [hr', if_neg hr, State.bit_setBitO _ _ _ _ _ (by rw [sizeOf_safety.1]; omega)]
      by_cases hmn : m = n
      · simp_all
      · simp only [hmn, and_false, false_and, if_false]
        rfl

theorem putReading_accepted {n reading : Nat} (h2 : reading ≠ 2) (s : State) :
    (putReading n reading s).safety.accepted = setBit s.safety.accepted n (reading == 1) ∧ (putReading n reading s).safety.permFault = s.safety.permFault := by
  unfold putReading
  rw [if_neg h2]
  dsimp only
  split <;> exact ⟨rfl, rfl⟩

/-- Mismatch of SealReading follows the levels, whatever the reading leads to (R290). -/
theorem mismatch_seal {n : Nat} (hn : n < 8) (hT hC : Bool) (s : State) : (putLevels n hT hC s).bit 0x6800 1 (8 + n) = (hT == hC) := by
  unfold putLevels
  rw [State.bit_set _ _ (by rw [sizeOf_safety.1]; omega), sealReading_beq]

theorem sealConfig_one {n reading m : Nat} (hn : n < 8) (hm : m < 16) (s : State) :
    (sealConfig n reading s).bit 0x6800 1 m = (putReading n reading s).bit 0x6800 1 m := by
  have hdemand : ∀ w (u : State), (sealDemand n w u).bit 0x6800 1 m = u.bit 0x6800 1 m := fun w u => by
    have h := (Own.sealDemand (P := [.gf, .safety]) (G := [⟨0x6800, 0x6800, 2, 2⟩]) (n := n) (way := w) (by decide) (by decide) (by decide)
      (Own.same u)).numKept 0x6800 1 rfl rfl
    simp only [State.bit, h]
  have hstatus : ∀ u : State, (sealStatus u).bit 0x6800 1 m = u.bit 0x6800 1 m := fun u => by
    have h := (Own.sealStatus (P := [.gf, .safety]) (G := [⟨0x6800, 0x6800, 2, 2⟩, ⟨0x6800, 0x6800, 7, 7⟩, ⟨0x6800, 0x6800, 11, 11⟩])
      (by decide) (by decide) (by decide) (Own.same u)).numKept 0x6800 1 rfl rfl
    simp only [State.bit, h]
  unfold sealConfig
  generalize putReading n reading s = u
  dsimp only
  split
  · split
    · exact hdemand _ _
    · split
      · exact hdemand _ _
      · rfl
  · split
    · rw [bit_raise _ _ _ _ _ _ _ _ rfl, bit_setBitO_far _ _ _ _ _ _ _ _ (by decide)]
    · exact hstatus _

theorem sealPermission_own (n reading : Nat) (s : State) : ∃ w : State,
    Own [.plate, .pairs] [⟨0x5300, 0x5300, 4, 4⟩, ⟨0x5320, 0x5320, 2, 2⟩] w (sealPermission n reading s) ∧
      w.bit 0x6800 1 = (putReading n reading s).bit 0x6800 1 ∧ w.safety.accepted = (putReading n reading s).safety.accepted ∧
      w.safety.permFault = setBit (putReading n reading s).safety.permFault n (reading == 2) := by
  unfold sealPermission
  dsimp only
  generalize putReading n reading s = u
  refine ⟨{ u with safety := { u.safety with permFault := setBit u.safety.permFault n (reading == 2) } }, ?_, rfl, rfl, rfl⟩
  have hwritten := Own.same (P := [.plate, .pairs]) (G := [⟨0x5300, 0x5300, 4, 4⟩, ⟨0x5320, 0x5320, 2, 2⟩])
    { u with safety := { u.safety with permFault := setBit u.safety.permFault n (reading == 2) } }
  refine Own.branch (fun _ => Own.leaveCommission (by decide) (by decide) (by decide) ?_) (fun _ => ?_) <;>
    exact Own.branch (fun _ => Own.raise (Own.branch (fun _ => Own.raise hwritten) (fun _ => hwritten)))
      (fun _ => Own.branch (fun _ => Own.raise hwritten) (fun _ => hwritten))

theorem permission_sealPermission {n : Nat} (hT hC : Bool) (s : State) :
    (sealPermission n (sealReading hT hC) s).permission n = if hT = hC then n == 5 else sealReading hT hC == 1 := by
  obtain ⟨w, hown, -, hacc, hfault⟩ := sealPermission_own n (sealReading hT hC) s
  have hsafety := hown.safety (by decide)
  rw [State.permission, hsafety, hfault, testBit_setBit, if_pos rfl, hacc, sealReading_beq]
  by_cases h : hT = hC
  · rw [if_pos h, if_pos (by simpa using h)]
  · rw [if_neg h, if_neg (by simpa using h), (putReading_accepted (sealReading_ne h) s).1, testBit_setBit, if_pos rfl]

/-! ### Safety outputs (R297 to R301) -/

theorem soutHigh_of {s u : State} (hs : u.safety = s.safety) (hr : u.ready = s.ready) (h4 : u.num 0x6800 4 = s.num 0x6800 4) (hnow : u.now = s.now)
    (n : Nat) : soutHigh u n = soutHigh s n := by
  have hbit : ∀ m, u.bit 0x6800 4 m = s.bit 0x6800 4 m := fun m => by simp only [State.bit, h4]
  simp only [soutHigh, ballChannel, pulsed, hs, hr, hbit, hnow]

theorem soutHigh_ended (s : State) (q : List Instr) (n : Nat) : soutHigh (s.ended q) n = soutHigh s n :=
  soutHigh_of (by simp) (by simp) (by simp [evKey]) (by simp) n

theorem testBit_soutLevel (s : State) {n : Nat} (hn : n < 8) :
    (soutLevel s).testBit n = if soutHigh s n then !s.safety.padLow.testBit n else s.safety.padHigh.testBit n := by
  rw [soutLevel]
  exact testBit_forN_pow (fun b => if soutHigh s b then !s.safety.padLow.testBit b else s.safety.padHigh.testBit b) hn

/-- The reading of a pad is its level (R299). -/
theorem readPad_reads (n : Nat) (high : Bool) (s : State) : let u := readPad n high s
    soutHigh u = soutHigh s ∧ u.safety.padHigh.testBit n = (high && !soutHigh s n) ∧ u.safety.padLow.testBit n = (!high && soutHigh s n) := by
  refine ⟨rfl, ?_, ?_⟩ <;> simp [readPad, testBit_setBit]

/-- A mismatch, or a reading that differs from the one held, is a safety demand at READY (R292). -/
theorem sealConfig_demands {n r : Nat} {u : State} (hn : n < 5) (hready : u.ready = true) (h : r = 2 ∨ u.safety.held.testBit n ≠ (r == 1)) (q : List Instr) :
    let v := (sealConfig n r u).ended q
    v.permit = false ∧ v.bit 0x6800 2 28 = true ∧ (v.safety.a.enable = false ∧ v.safety.b.enable = false) ∧
      (u.gfState ≠ 6 → v.gf.causes = setBit u.gf.causes 8 true) := by
  by_cases h2 : r = 2
  · have hconfig : sealConfig n r u = sealDemand n 1 u := by
      unfold sealConfig
      rw [putReading, if_pos h2]
      simp only [hready, if_true, h2]
    rw [hconfig]
    exact safetyStop_reads (by decide) 2 n 1 u q
  · have hput : putReading n r u = { u with safety := { u.safety with accepted := setBit u.safety.accepted n (r == 1) } } := by
      unfold putReading
      rw [if_neg h2]
      have hr' : ({ u with safety := { u.safety with accepted := setBit u.safety.accepted n (r == 1) } } : State).ready = u.ready := rfl
      dsimp only
      rw [hr', hready, decide_eq_true hn]
      rfl
    have hheld : (u.safety.held.testBit n != (r == 1)) = true := bne_iff_ne.2 (h.resolve_left h2)
    have hconfig : sealConfig n r u = sealDemand n 2 { u with safety := { u.safety with accepted := setBit u.safety.accepted n (r == 1) } } := by
      unfold sealConfig
      rw [hput]
      have hr' : ({ u with safety := { u.safety with accepted := setBit u.safety.accepted n (r == 1) } } : State).ready = u.ready := rfl
      dsimp only
      rw [hr', if_pos hready, if_neg h2, if_pos hheld]
    rw [hconfig]
    exact safetyStop_reads (by decide) 2 n 2 { u with safety := { u.safety with accepted := setBit u.safety.accepted n (r == 1) } } q

theorem evalPairs_accepted (before : Nat) (v : State) : (evalPairs before v).safety.accepted = v.safety.accepted := by
  unfold evalPairs
  split
  · rfl
  · have hall := (recogniseAll_reads (fun m => (demandMask v).testBit m && !before.testBit m) (List.range 4)
      (withdraw (demandChans v) (v.setBitO 0x6800 2 30 (demandMask v != 0)))).1
    exact (congrArg Safety.accepted hall).trans rfl

theorem sealStatus_accepted (s : State) : (sealStatus s).safety.accepted = s.safety.accepted := evalPairs_accepted _ _

/-- Before READY the switches set SafetyStatus (R291). -/
theorem sealConfig_before {n r : Nat} {u : State} (hready : u.ready = false) (h2 : r ≠ 2) : sealConfig n r u = sealStatus (putReading n r u) := by
  have hr : (putReading n r u).ready = false := by
    have h := (Own.putReading (P := [.safety]) (G := [⟨0x6800, 0x6800, 1, 1⟩]) (n := n) (reading := r) (by decide) (by decide) (Own.same u)).numKept
      0xB000 1 rfl rfl
    rw [(stageWords_of h).2, hready]
  unfold sealConfig
  generalize putReading n r u = w at hr
  dsimp only
  rw [hr, if_neg (by decide), if_neg h2]

/-- SinEnable closes while a pair demands (R295). -/
theorem sealStatus_closes {u : State} (hacc : u.safety.accepted.testBit 0 = true) (hopen : sinEnabled u = false) (hd : demandMask u ≠ 0) :
    let v := sealStatus u
    v.demandLatched = true ∧ v.permit = false ∧ (u.safety.a.sin % 256 ≠ 0 → v.safety.a.enable = false) ∧
      (u.safety.b.sin % 256 ≠ 0 → v.safety.b.enable = false) := by
  have hnow : demandsNow u = 0 := by rw [demandsNow, hopen]; rfl
  unfold sealStatus
  dsimp only
  rw [hnow, hacc]
  have hset : ∀ x y z w : Bool, let v := ((((u.setBitO 0x6800 2 24 x).setBitO 0x6800 2 25 y).setBitO 0x6800 2 23 true).setBitO 0x6800 2 22 z).setBitO 0x6800 2 21 w
      v.safety = u.safety ∧ sinEnabled v = true ∧ demandMask v = demandMask u := fun x y z w => by
    have hone : ∀ (w : State) n x, (w.setBitO 0x6800 2 n x).safety = w.safety := fun _ _ _ => rfl
    have hall : (((((u.setBitO 0x6800 2 24 x).setBitO 0x6800 2 25 y).setBitO 0x6800 2 23 true).setBitO 0x6800 2 22 z).setBitO 0x6800 2 21 w).safety =
        u.safety := by rw [hone, hone, hone, hone, hone]
    refine ⟨hall, ?_, demandMask_of (by rw [hall]) (by rw [hall])⟩
    rw [sinEnabled, bit_safety_set (by decide), if_neg (by decide), bit_safety_set (by decide), if_neg (by decide), bit_safety_set (by decide), if_pos rfl]
  obtain ⟨hsafety, hen, hmask⟩ := hset (u.safety.accepted.testBit 2) (u.safety.accepted.testBit 3) (u.safety.accepted.testBit 1)
    (u.safety.accepted.testBit 4)
  generalize ((((u.setBitO 0x6800 2 24 _).setBitO 0x6800 2 25 _).setBitO 0x6800 2 23 true).setBitO 0x6800 2 22 _).setBitO 0x6800 2 21 _ = v
    at hsafety hen hmask ⊢
  rw [← hsafety]
  exact evalPairs_first hen (fun h0 => hd (hmask.symm.trans h0))

theorem putLevels_keeps (n : Nat) (hT hC : Bool) (s : State) : let u := putLevels n hT hC s
    u.gfState = s.gfState ∧ u.ready = s.ready ∧ u.gf = s.gf ∧ u.safety.held = s.safety.held ∧ u.safety.accepted = s.safety.accepted ∧
      u.safety.a = s.safety.a ∧ u.safety.b = s.safety.b ∧ ∀ m, u.bit 0x6800 2 m = s.bit 0x6800 2 m := by
  have hnum : ∀ i j, i * 256 + j ≠ 0x680001 → (putLevels n hT hC s).num i j = s.num i j := fun i j h => num_setBitO_far _ _ _ _ _ _ _ h
  refine ⟨(gfWords_of (hnum 0x4001 3 (by decide))).1, (stageWords_of (hnum 0xB000 1 (by decide))).2, rfl, rfl, rfl, rfl, rfl, fun m => ?_⟩
  rw [State.bit, hnum 0x6800 2 (by decide)]
  rfl

theorem putReading_keeps (n r : Nat) (s : State) : let u := putReading n r s
    u.safety.a = s.safety.a ∧ u.safety.b = s.safety.b ∧ ∀ m, u.bit 0x6800 2 m = s.bit 0x6800 2 m := by
  unfold putReading
  split
  · exact ⟨rfl, rfl, fun _ => rfl⟩
  · dsimp only
    split
    · exact ⟨rfl, rfl, fun _ => rfl⟩
    · exact ⟨rfl, rfl, fun m => bit_setBitO_far _ _ _ _ _ _ _ _ (by decide)⟩

/-- A failed output stops the machine's permission (R299, R300). -/
theorem soutFail_reads (n way : Nat) (b : State) (v : Safety) (q : List Instr) : let u := (soutFail n way { b with safety := v }).ended q
    u.bit 0x6800 2 27 = true ∧ u.permit = false ∧ (u.safety.a.enable = false ∧ u.safety.b.enable = false) ∧
      (b.gfState ≠ 6 → u.gf.causes = setBit b.gf.causes 8 true) := by
  obtain ⟨hp, hbit, hen, hcause⟩ := safetyStop_reads (k := 27) (by decide) 4 n way { b with safety := v } q
  exact ⟨hbit, hp, hen, hcause⟩

/-- Its ball is then commanded low by its channel, and its pad stays as last read. -/
theorem soutFail_low (n way : Nat) (s : State) : soutHigh (soutFail n way s) n = false ∧
    (soutFail n way s).safety.padHigh = s.safety.padHigh := by
  have hsafety := (noteCause_keeps 8 (setEnables false (clearPermit (s.setBitO 0x6800 2 27 true)))).1
  have hlow : (setEnables false (clearPermit (s.setBitO 0x6800 2 27 true))).safety.a.permit = false ∧
      (setEnables false (clearPermit (s.setBitO 0x6800 2 27 true))).safety.b.permit = false ∧
      (setEnables false (clearPermit (s.setBitO 0x6800 2 27 true))).safety.padHigh = s.safety.padHigh := ⟨rfl, rfl, rfl⟩
  unfold soutFail
  generalize setEnables false (clearPermit (s.setBitO 0x6800 2 27 true)) = u at hsafety hlow ⊢
  obtain ⟨ha, hb, hpad⟩ := hlow
  have hraise : ((noteCause 8 u).raise 4 n way).safety = u.safety := (by simp : ((noteCause 8 u).raise 4 n way).safety = (noteCause 8 u).safety).trans hsafety
  generalize (noteCause 8 u).raise 4 n way = w at hraise ⊢
  refine ⟨?_, by rw [hraise, hpad]⟩
  have hchannel : (ballChannel w n).permit = false := by
    unfold ballChannel
    rw [hraise]
    split
    · exact ha
    · exact hb
  simp [soutHigh, hchannel]

/-! ### The safety reset (R303 to R306) -/

theorem resetEffect_reads (s : State) : (resetEffect s).permit = true ∧ (resetEffect s).demandLatched = false := by
  unfold resetEffect
  split
  · rename_i h
    simpa using h
  · have hword : ∀ m, (freeLow 0xFF (setPermits true true (s.setBitO 0x6800 2 29 false))).bit 0x6800 2 m =
        ((s.setBitO 0x6800 2 29 false).setBitO 0x6800 2 31 true).bit 0x6800 2 m := fun m => rfl
    have h31 := bit_safety_set (m := 31) (n := 31) (by decide) true (s.setBitO 0x6800 2 29 false)
    have h29 := bit_safety_set (m := 29) (n := 31) (by decide) true (s.setBitO 0x6800 2 29 false)
    have hclear := bit_safety_set (m := 29) (n := 29) (by decide) false s
    simp only [raise_safetyWords]
    exact ⟨(hword 31).trans (h31.trans (if_pos rfl)), (hword 29).trans (h29.trans ((if_neg (by decide)).trans (hclear.trans (if_pos rfl))))⟩

/-- A condition that blocks the reset, and the record it leaves (R304). -/
theorem blockReset_reads {k e : Nat} (hk : k < 32) (hne : k ≠ 26) (bit : Nat) (s : State) (q : List Instr) :
    let u := (((blockReset bit s).setBitO 0x6800 2 k true).raise e).ended q
    resetActs u = false ∧ u.bit 0x6800 2 26 = true ∧ u.bit 0x6800 2 k = true ∧ u.safety.lineAt = s.now := by
  have hsafety : ((blockReset bit s).setBitO 0x6800 2 k true).safety = { s.safety with blocks := setBit s.safety.blocks bit true, lineAt := s.now } := rfl
  have hbit : ∀ m < 32, ((blockReset bit s).setBitO 0x6800 2 k true).bit 0x6800 2 m = if m = k then true else (blockReset bit s).bit 0x6800 2 m :=
    fun m hm => bit_safety_set hm _ _
  have h26 : (blockReset bit s).bit 0x6800 2 26 = true := (bit_safety_set (m := 26) (n := 26) (by decide) true _).trans (if_pos rfl)
  generalize (blockReset bit s).setBitO 0x6800 2 k true = u at hsafety hbit ⊢
  have hblocks : setBit s.safety.blocks bit true ≠ 0 := fun h => by
    have hset := testBit_setBit s.safety.blocks bit bit true
    rw [h, Nat.zero_testBit, if_pos rfl] at hset
    cases hset
  dsimp only
  rw [bit_ended _ _ _ _ _ rfl, bit_ended _ _ _ _ _ rfl, bit_safety_raise _ _ _ _ _ _ _ _ rfl, bit_safety_raise _ _ _ _ _ _ _ _ rfl,
    hbit 26 (by decide), hbit k hk, if_neg (Ne.symm hne), if_pos rfl, h26]
  refine ⟨?_, rfl, rfl, by simp [hsafety]⟩
  simp [resetActs, hsafety, hblocks]

theorem safety_ended (s : State) (q : List Instr) : (s.ended q).safety = s.safety := by simp
theorem causes_ended (s : State) (q : List Instr) : (s.ended q).gf = s.gf := by simp

/-- Settles O37, command by command. -/
theorem safetyCompletes : Obligations.SafetyCompletes := by
  intro s t b noEnable filter takes
  have hb : s.arrive t = b := rfl
  clear_value b
  refine ⟨fun hready h6 => ?_, fun n hT hC h hn => ?_, fun n hT hC h hn hh => ?_, fun n hT hC h hn hh hready hbad => ?_,
    fun n hT hC h hn hh hne hready => ?_, fun hT hC h hh h1 hready hopen hd => ?_, fun n hT hC h h5 h8 hh => ?_,
    fun n h c hn h1 h4 hf hen hp => ?_, fun n h c hn h1 h4 hf hen => ?_, fun n l h c hn h1 h4 hf => ?_, fun n d hn hen hsince ht hclear => ?_,
    fun v hv hok => ?_, fun n hn hhigh htest hdue => ?_, fun n hn hover hdis => ?_, fun n lo hi hn hover hdis => ?_,
    fun n lo hi hn hover hdis hbad => ?_, fun n v h hn => ?_, fun n h hn hh hlow => ?_, fun d h1 h2 h3 hacts => ?_, fun d hd => ?_,
    fun d hd => ?_, ?_, ?_, fun hblocks ht => ?_, fun ht => ?_⟩
  · refine gives_of_run hb (execSafetyChannelFault.eq_def ..) rfl ?_
    have hmark : channelMark 2 (setEnables false ((b.setBitO 0x6800 2 2 true).raise 14)) = (false, false, true) := by
      have hbit := (bit_safety_raise 14 0 0 0 (b.setBitO 0x6800 2 2 true) 0x6800 2 2 rfl).trans
        ((bit_safety_set (m := 2) (n := 2) (by decide) true b).trans (if_pos rfl))
      exact Prod.ext rfl (Prod.ext rfl hbit)
    have hsame : SameMachine b (setEnables false ((b.setBitO 0x6800 2 2 true).raise 14)) := by
      generalize hw : b.setBitO 0x6800 2 2 true = w
      have h1 : SameMachine b w := SameMachine.of_own (P := []) (G := [⟨0x6800, 0x6800, 2, 2⟩])
        (hw ▸ Own.setBitO (by decide) (Own.same b)) (by decide) rfl rfl rfl rfl (by decide)
      have h2 : SameMachine w (w.raise 14) := SameMachine.of_own (P := []) (G := []) (Own.raise (Own.same w)) (by decide) rfl rfl rfl rfl (by decide)
      have h3 : SameMachine (w.raise 14) (setEnables false (w.raise 14)) := ⟨rfl, rfl, rfl, rfl, fun _ _ => rfl, rfl, rfl, rfl⟩
      exact (h1.trans h2).trans h3
    have hfault := channelMark_ridgeFault (n := 2) (by decide) (hsame.ready.trans hready) (fun h => h6 (hsame.gfState.symm.trans h))
    have hstop := ridgeStop_ridgeFault hsame hready h6 s.pending
    generalize ridgeFault (setEnables false ((b.setBitO 0x6800 2 2 true).raise 14)) = u at hfault hstop ⊢
    rw [hmark] at hfault
    simp only [channelMark, Prod.mk.injEq] at hfault
    obtain ⟨ha, hb', hbit⟩ := hfault
    refine ⟨hstop, ?_, ?_⟩
    · rw [bit_ended _ _ _ _ _ rfl]; exact hbit
    · simp only [noEnable, safety_ended]; exact ⟨ha, hb'⟩
  · refine gives_of_run hb (execSealReadingAccepted.eq_def ..) (decide_eq_true hn) ?_
    dsimp only
    rw [bit_ended _ _ _ _ _ rfl]
    have hset := mismatch_seal hn hT hC b
    generalize putLevels n hT hC b = u at hset ⊢
    split
    · exact hset
    · split
      · rw [sealConfig_one hn (by omega), putReading_one hn (by omega), if_neg (by omega), hset]
      · obtain ⟨w, hown, hw, -, -⟩ := sealPermission_own n (sealReading hT hC) u
        have h := hown.numKept 0x6800 1 rfl rfl
        simp only [State.bit] at hw h hset ⊢
        rw [h]
        refine (congrFun hw _).trans ?_
        have hput := putReading_one (reading := sealReading hT hC) hn (m := 8 + n) (by omega) u
        rw [if_neg (by omega)] at hput
        exact hput.trans hset
  · refine gives_of_run hb (execSealReadingAccepted.eq_def ..) (decide_eq_true hn) ?_
    dsimp only
    rw [if_pos (show h < sealHoldNs from hh)]
    simp only [safety_ended, causes_ended, ended_safetyWords]
    exact ⟨rfl, bit_setBitO_far _ _ _ _ _ _ _ _ (by decide), bit_setBitO_far _ _ _ _ _ _ _ _ (by decide), rfl⟩
  · refine gives_of_run hb (execSealReadingAccepted.eq_def ..) (decide_eq_true (by omega)) ?_
    dsimp only
    rw [if_neg (show ¬ h < sealHoldNs from Nat.not_lt.2 hh), if_pos hn]
    obtain ⟨hstate, hstage, hgf, hheld, -, -, -, -⟩ := putLevels_keeps n hT hC b
    generalize putLevels n hT hC b = u at hstate hstage hgf hheld ⊢
    rw [← hstate, ← hgf]
    refine sealConfig_demands hn (hstage.trans hready) (hbad.imp (fun h => ?_) (fun h => ?_)) s.pending
    · rw [sealReading, h, beq_self_eq_true, if_pos rfl]
    · rw [hheld]; exact h
  · refine gives_of_run hb (execSealReadingAccepted.eq_def ..) (decide_eq_true (by omega)) ?_
    dsimp only
    rw [if_neg (show ¬ h < sealHoldNs from Nat.not_lt.2 hh), if_pos hn]
    obtain ⟨-, hstage, -, -, hacc, -, -, -⟩ := putLevels_keeps n hT hC b
    rw [hready] at hstage
    generalize putLevels n hT hC b = u at hstage hacc ⊢
    rw [safety_ended, bit_ended _ _ _ _ _ rfl, sealConfig_one (by omega) (by omega), putReading_one (by omega) (by omega),
      if_pos ⟨rfl, sealReading_ne hne, by simp [hstage]⟩, sealConfig_before hstage (sealReading_ne hne), sealStatus_accepted,
      (putReading_accepted (sealReading_ne hne) u).1, hacc]
    exact ⟨rfl, rfl⟩
  · refine gives_of_run hb (execSealReadingAccepted.eq_def ..) rfl ?_
    dsimp only
    rw [if_neg (show ¬ h < sealHoldNs from Nat.not_lt.2 hh), if_pos (by decide), h1]
    obtain ⟨-, hstage, -, -, -, hua, hub, hubit⟩ := putLevels_keeps 0 hT hC b
    rw [hready] at hstage
    generalize putLevels 0 hT hC b = u at hstage hua hub hubit ⊢
    rw [sealConfig_before hstage (by decide)]
    obtain ⟨hva, hvb, hvbit⟩ := putReading_keeps 0 1 u
    have hacc := (putReading_accepted (n := 0) (reading := 1) (by decide) u).1
    generalize putReading 0 1 u = v at hva hvb hvbit hacc ⊢
    have ha : v.safety.a = b.safety.a := hva.trans hua
    have hb' : v.safety.b = b.safety.b := hvb.trans hub
    have hen : sinEnabled v = false := ((hvbit 23).trans (hubit 23)).trans hopen
    have h := sealStatus_closes (by rw [hacc, testBit_setBit, if_pos rfl]; rfl) hen (fun h0 => hd ((demandMask_of (by rw [ha]) (by rw [hb'])).symm.trans h0))
    rw [ha, hb'] at h
    simpa only [safety_ended, ended_safetyWords] using h
  · refine gives_of_run hb (execSealReadingAccepted.eq_def ..) (decide_eq_true h8) ?_
    dsimp only
    rw [if_neg (show ¬ h < sealHoldNs from Nat.not_lt.2 hh), if_neg (by omega), State.permission, safety_ended]
    exact permission_sealPermission hT hC _
  · refine gives_of_run hb (execSinFilterExpiry.eq_def ..) (by simp [Instr.wf]; omega) ?_
    rw [if_pos hf]
    have h := sinBall_demand hn h1 h4 hen hp
    generalize sinBall c n false b = u at h ⊢
    rw [safety_ended, bit_ended _ _ _ _ _ rfl, num_ended _ _ _ _ rfl, causes_ended, (ended_safetyWords u s.pending).1,
      (ended_safetyWords u s.pending).2]
    exact h
  · refine gives_of_run hb (execSinFilterExpiry.eq_def ..) (by simp [Instr.wf]; omega) ?_
    rw [if_pos hf]
    have h := sinBall_healthy (c := c) hn hen
    generalize sinBall c n true b = u at h ⊢
    rw [safety_ended, (ended_safetyWords u s.pending).1]
    exact h
  · refine gives_of_run hb (execSinFilterExpiry.eq_def ..) (by simp [Instr.wf]; omega) ?_
    rw [if_neg (Nat.not_le.2 hf), safety_ended, (ended_safetyWords b s.pending).2]
    exact ⟨rfl, rfl⟩
  · refine gives_of_run hb (execSinDiscrepancy.eq_def ..) (decide_eq_true hn) ?_
    dsimp only
    rw [hsince, hen, hclear, if_pos (by simp; omega), bit_ended _ _ _ _ _ rfl, bit_ended _ _ _ _ _ rfl, bit_raise _ _ _ _ _ _ _ _ rfl,
      bit_raise _ _ _ _ _ _ _ _ rfl, bit_safety_set (by omega), bit_safety_set (by omega), bit_safety_set (by omega)]
    exact ⟨by simp, by simp⟩
  · refine gives_of_run hb (execSoutRequestWrite.eq_def ..) (decide_eq_true hv) ?_
    rw [if_pos hok, num_ended _ _ _ _ rfl]
    refine (num_setNum_same b 0x6800 4 (v % 16)).trans ?_
    rw [sizeOf_safety.2.2.2.1]
    omega
  · refine gives_of_run hb (execSoutTestPulse.eq_def ..) (decide_eq_true hn) ?_
    dsimp only
    rw [hhigh, htest, hdue, if_pos (by decide), safety_ended, soutHigh_ended]
    refine ⟨rfl, ?_, by simp [State.emit]⟩
    simp [soutHigh, pulsed, testBit_setBit, State.emit, pulseFs, usFs]
  · refine gives_of_run hb (execSoutTestEnd.eq_def ..) (decide_eq_true hn) ?_
    dsimp only
    rw [if_pos hover, hdis, if_neg (by decide), if_pos (by decide), safety_ended, num_ended _ _ _ _ rfl]
    refine ⟨rfl, (num_setNum_same _ 0x6800 8 _).trans ?_⟩
    rw [sizeOf_safety.2.2.2.2.2.1]
    rfl
  · refine gives_of_run hb (execSoutTestEnd.eq_def ..) (decide_eq_true hn) ?_
    dsimp only
    rw [if_pos hover, hdis, if_pos rfl, safety_ended, num_ended _ _ _ _ rfl, soutHigh_ended, (ended_safetyWords _ _).2,
      num_setBitO_far _ _ _ _ _ _ _ (by decide)]
    refine ⟨rfl, (num_setNum_same _ 0x6800 9 _).trans ?_, ?_, ?_⟩
    · rw [sizeOf_safety.2.2.2.2.2.2.1]
      refine Nat.mod_eq_of_lt ?_
      rw [satInc_eq_min]
      omega
    · exact (bit_safety_set (by decide) _ _).trans (bit_setNum_far _ _ _ _ _ _ _ (by decide))
    · simp [soutHigh, testBit_setBit, State.incSat]
  · refine gives_of_run hb (execSoutTestEnd.eq_def ..) (decide_eq_true hn) ?_
    dsimp only
    rw [if_pos hover, hdis, if_neg (by decide), if_neg (by rcases hbad with h | h <;> simp [h])]
    exact soutFail_reads n 1 b _ s.pending
  · refine gives_of_run hb (execSoutStuckOn.eq_def ..) (decide_eq_true hn) ?_
    dsimp only
    obtain ⟨hsout, hhigh, hlow⟩ := readPad_reads n v b
    rw [testBit_soutLevel _ hn, soutHigh_ended, safety_ended]
    generalize readPad n v b = u at hsout hhigh hlow ⊢
    split
    · rename_i hstuck
      simp only [Bool.and_eq_true] at hstuck
      obtain ⟨hcmd, hpad⟩ := soutFail_low n 2 u
      obtain ⟨⟨hv, -⟩, hlong⟩ := hstuck
      simp only [lowLong, hsout, Bool.and_eq_true, Bool.not_eq_true'] at hlong
      obtain ⟨⟨hoff, -⟩, -⟩ := hlong
      rw [hcmd, hpad, hhigh, hoff, hv]
      rfl
    · rw [hhigh, hlow, hsout]
      cases soutHigh b n <;> simp
  · refine gives_of_run hb (execSoutStuckOn.eq_def ..) (decide_eq_true hn) ?_
    dsimp only
    have hstuck : (true && decide (readbackFs ≤ nsFs h) && lowLong (readPad n true b) n) = true := by
      rw [show lowLong (readPad n true b) n = lowLong b n from rfl, hlow]
      have hlong : readbackFs ≤ nsFs h := by
        rw [readbackFs, usFs, nsFs]
        omega
      simp [hlong]
    rw [if_pos hstuck]
    exact soutFail_reads n 2 b _ s.pending
  · refine gives_of_run hb (execSafetyReset.eq_def ..) rfl ?_
    dsimp only
    rw [if_neg (by omega), if_pos (by rw [show resetActs (lineActive b) = resetActs b from rfl, hacts]; simp [show (lineActive b).safety.freshFrom = b.safety.freshFrom from rfl, show (lineActive b).now = b.now from rfl, h2, h3]), (ended_safetyWords _ _).1,
      (ended_safetyWords _ _).2]
    exact resetEffect_reads _
  · refine gives_of_run hb (execSafetyReset.eq_def ..) rfl ?_
    dsimp only
    rw [if_pos hd, (ended_safetyWords _ _).2, num_ended _ _ _ _ rfl]
    refine ⟨bit_setNum_far _ _ _ _ _ _ _ (by decide), (num_setNum_same _ 0x6800 0xA _).trans ?_⟩
    rw [sizeOf_safety.2.2.2.2.2.2.2]
    refine Nat.mod_eq_of_lt ?_
    rw [satInc_eq_min]
    omega
  · refine gives_of_run hb (execSafetyReset.eq_def ..) rfl ?_
    dsimp only
    rw [if_neg (by omega), if_neg, (ended_safetyWords _ _).1, (ended_safetyWords _ _).2]
    · exact ⟨rfl, rfl⟩
    · rw [show resetActs (lineActive b) = resetActs b from rfl]
      rcases hd with h | ⟨-, h | h⟩
      · simp; omega
      · simp [h]
      · simp [show (lineActive b).safety.freshFrom = b.safety.freshFrom from rfl, show (lineActive b).now = b.now from rfl]; omega
  · refine gives_of_run hb (execResetStuck.eq_def ..) rfl ?_
    exact blockReset_reads (by decide) (by decide) 0 b s.pending
  · refine gives_of_run hb (execResetDiscrepancy.eq_def ..) rfl ?_
    exact blockReset_reads (by decide) (by decide) 1 b s.pending
  · refine gives_of_run hb (execResetBlockEnd.eq_def ..) rfl ?_
    dsimp only
    rw [if_pos (by simp [hblocks, ht]), safety_ended, bit_ended _ _ _ _ _ rfl]
    exact ⟨rfl, (bit_safety_set (m := 26) (n := 26) (by decide) false _).trans (if_pos rfl), rfl⟩
  · refine gives_of_run hb (execResetBlockEnd.eq_def ..) rfl ?_
    dsimp only
    rw [if_neg (by simp; omega), safety_ended]
end Sys2Proof
end

section
/-!
SUPPORT. Sharing: the stack link, semaphores and the order of resources, grants of slots (chapter 11).
-/
namespace Sys2Proof
open Sys2Proof.Machine

/-! ### What arbiters and semaphores hold -/

/-- The arbiters and the semaphores. -/
def arbsSems (s : State) : Store Arbiter × Store Sem := (s.sharing.arbs, s.sharing.sems)

theorem arbsSems_of {s u : State} (h : u.sharing = s.sharing) : arbsSems u = arbsSems s := by rw [arbsSems, h]; rfl

theorem arbsSems_ite (c : Prop) [Decidable c] (a b : State) : arbsSems (if c then a else b) = if c then arbsSems a else arbsSems b := by split <;> rfl

theorem sharing_countLink (c : Nat) (s : State) : (countLink c s).sharing = s.sharing :=
  (Own.countLink (P := []) (G := []) (Own.same s)).sharing (by decide)

theorem sharing_writeFail {k : Nat} (hk : k < 16) (s : State) : (writeFail k s).sharing = s.sharing :=
  (Own.writeFail (P := []) (G := [⟨0x9010, 0x901F, 3, 3⟩]) (by decide) hk (Own.same s)).sharing (by decide)

/-- The stack link has no part in them. -/
theorem arbsSems_admitC5 (s : State) : arbsSems (admitC5 s) = arbsSems s := by
  unfold admitC5
  dsimp only
  split
  · rfl
  · split
    · rfl
    · rename_i a who rest _ _
      have hcount := arbsSems_of (sharing_countLink 5 { s with sharing := { s.sharing with
        linkC5 := rest.map (fun b => (max b.1 s.now, b.2)), c5Tries := some 0, c5Who := who, c5Last := s.now + 1 } })
      generalize countLink 5 _ = u at hcount ⊢
      have hraise : ∀ p, arbsSems ((u.setBitO 0xA000 1 31 true).raise 253 7 5 p) = arbsSems u := fun p => arbsSems_of (by simp)
      rw [arbsSems_ite, hraise, ite_self, hcount]
      rfl

theorem arbsSems_dueLink (s : State) : arbsSems (dueLink s) = arbsSems s := by
  unfold dueLink
  split
  · exact arbsSems_admitC5 s
  · rfl

theorem linkPick_mem {l : List (Nat × Nat)} {e : Nat × Nat} (h : linkPick l = some e) : e ∈ l := by
  unfold linkPick at h
  split at h
  · rename_i k hk
    have hin := List.find?_some hk
    cases h
    simpa using hin
  · exact List.mem_of_head? h

theorem arbsSems_linkKickGo (fuel : Nat) (s : State) : arbsSems (linkKickGo fuel s) = arbsSems s := by
  induction fuel generalizing s with
  | zero => rfl
  | succ fuel ih =>
    unfold linkKickGo
    split
    · rfl
    · split
      · rename_i op k _ hpick
        have hk : k < 16 := by
          have := linkPick_mem hpick
          simp at this
          exact this.2
        dsimp only
        have hcount := arbsSems_of (sharing_countLink 3 { s with sharing := { s.sharing with link := s.sharing.link.erase (op, k), linkBusy := some (op, k), linkSince := s.now, linkTx := 0 } })
        generalize countLink 3 _ = u at hcount ⊢
        have hset : ∀ n v, arbsSems ((u.setBitO (0x9010 + k) 3 n true).setStack k v) = arbsSems s := fun n v => hcount.trans rfl
        split
        · exact hset _ _
        · split
          · exact ih _
          · split
            · exact (ih _).trans ((arbsSems_of (sharing_writeFail hk _)).trans rfl)
            · exact hset _ _
      · rfl

theorem arbsSems_linkKick (s : State) : arbsSems (linkKick s) = arbsSems s := (arbsSems_linkKickGo _ _).trans (arbsSems_dueLink s)

theorem arbsSems_leaveLink (cls who : Nat) (s : State) : arbsSems (leaveLink cls who s) = arbsSems s := by
  unfold leaveLink
  split
  · rfl
  · split
    · exact (arbsSems_linkKick _).trans rfl
    · exact (arbsSems_linkKick _).trans rfl

/-! ### Semaphores (R334) -/

theorem sem_of {s u : State} (h : u.sharing.sems = s.sharing.sems) (n : Nat) : u.sem n = s.sem n := by rw [State.sem, h]; rfl

theorem sem_setSem_same (s : State) (n : Nat) (v : Sem) : (s.setSem n v).sem n = v := get_put_same ..

theorem sem_setSem_other (s : State) {n m : Nat} (h : m ≠ n) (v : Sem) : (s.setSem n v).sem m = s.sem m := get_put_other _ _ h _ _

theorem countReq_keeps (bank ev n cls who : Nat) (addr : Option Nat) (s : State) :
    (countReq bank ev n cls who addr s).sharing = s.sharing ∧ (countReq bank ev n cls who addr s).out = s.out :=
  have h : Own [] [] s (countReq bank ev n cls who addr s) := Own.countReq (Own.same s)
  ⟨h.sharing (by decide), h.out (by decide)⟩

/-- A free semaphore passes to the first request that waits. -/
theorem semGrant_reads {n : Nat} {s : State} {c w a : Nat} {rest : List (Nat × Nat × Nat)} (i : Nat) (hfree : (s.sem n).holder = none)
    (hq : (s.sem n).queue = (c, w, a) :: rest) :
    (semGrant n i s).sharing = (s.setSem n ⟨some (c, w), i + leaseFs, rest⟩).sharing ∧ (semGrant n i s).out = s.out ++ [⟨19, n, [c, w, 0]⟩] := by
  obtain ⟨hs, ho⟩ := countReq_keeps 2 0x44 1 c w none (s.setSem n ⟨some (c, w), i + leaseFs, rest⟩)
  unfold semGrant
  simp only [hfree, hq]
  exact ⟨hs, congrArg (· ++ _) ho⟩

theorem semGrant_keeps (n i : Nat) (s : State) : (semGrant n i s).sharing = { s.sharing with sems := (semGrant n i s).sharing.sems } ∧
    (∀ m, m ≠ n → (semGrant n i s).sem m = s.sem m) ∧ (semGrant n i s).now = s.now := by
  cases hh : (s.sem n).holder with
  | some p =>
    have h : semGrant n i s = s := by unfold semGrant; simp [hh]
    rw [h]; exact ⟨rfl, fun _ _ => rfl, rfl⟩
  | none =>
    cases hq : (s.sem n).queue with
    | nil =>
      have h : semGrant n i s = s := by unfold semGrant; simp [hh, hq]
      rw [h]; exact ⟨rfl, fun _ _ => rfl, rfl⟩
    | cons q rest =>
      obtain ⟨hs, -⟩ := semGrant_reads (c := q.1) (w := q.2.1) (a := q.2.2) i hh hq
      refine ⟨by rw [hs]; rfl, fun m hm => ?_, (Own.semGrant (P := [.sharing, .out]) (G := []) (by decide) (by decide) (Own.same s)).now (by decide)⟩
      rw [sem_of (congrArg Sharing.sems hs), sem_setSem_other _ hm]

/-- A semaphore given back passes to the next request from an earlier ridge clock, or is free (R334). -/
theorem semFree_reads (n : Nat) (s : State) : match (s.sem n).queue with
    | [] => ((semFree n s).sem n).holder = none ∧ ((semFree n s).sem n).queue = []
    | q :: rest =>
      if q.2.2 < s.ticks then (semFree n s).sem n = ⟨some (q.1, q.2.1), s.now + leaseFs, rest⟩ ∧ (semFree n s).out = s.out ++ [⟨19, n, [q.1, q.2.1, 0]⟩]
      else ((semFree n s).sem n).holder = none ∧ ((semFree n s).sem n).queue = q :: rest := by
  have hset := sem_setSem_same s n { s.sem n with holder := none, lease := 0 }
  cases hq : (s.sem n).queue with
  | nil =>
    have h : semFree n s = s.setSem n { s.sem n with holder := none, lease := 0 } := by unfold semFree; simp [hq]
    rw [h, hset]
    exact ⟨rfl, hq⟩
  | cons q rest =>
    dsimp only
    split
    · rename_i ht
      have h : semFree n s = semGrant n s.now (s.setSem n { s.sem n with holder := none, lease := 0 }) := by
        unfold semFree
        simp only [hq]
        exact if_pos ht
      obtain ⟨hs, ho⟩ := semGrant_reads (c := q.1) (w := q.2.1) (a := q.2.2) (rest := rest) s.now (by rw [hset]) (by rw [hset]; exact hq)
      rw [h, sem_of (congrArg Sharing.sems hs), sem_setSem_same]
      exact ⟨rfl, ho⟩
    · rename_i ht
      have h : semFree n s = s.setSem n { s.sem n with holder := none, lease := 0 } := by
        unfold semFree
        simp only [hq]
        exact if_neg ht
      rw [h, hset]
      exact ⟨rfl, hq⟩

theorem semFree_keeps (n : Nat) (s : State) : (semFree n s).sharing = { s.sharing with sems := (semFree n s).sharing.sems } ∧ ∀ m, m ≠ n → (semFree n s).sem m = s.sem m := by
  obtain ⟨ha, hs, -⟩ := semGrant_keeps n s.now (s.setSem n { s.sem n with holder := none, lease := 0 })
  unfold semFree
  dsimp only
  split
  · split
    · exact ⟨ha.trans rfl, fun m hm => (hs m hm).trans (sem_setSem_other _ hm _)⟩
    · exact ⟨rfl, fun m hm => sem_setSem_other _ hm _⟩
  · exact ⟨rfl, fun m hm => sem_setSem_other _ hm _⟩

/-! ### A request that breaks the order (R332) -/

/-- What a refused requester held of the first semaphores is given back. -/
def freeHeld (cls who k : Nat) (s : State) : State := forN k (fun n s => if (s.sem n).holder = some (cls, who) then semFree n s else s) s

theorem freeHeld_succ (cls who k : Nat) (s : State) : freeHeld cls who (k + 1) s =
    if ((freeHeld cls who k s).sem k).holder = some (cls, who) then semFree k (freeHeld cls who k s) else freeHeld cls who k s := by
  rw [freeHeld, forN, List.range_succ, List.foldl_append]
  rfl

theorem freeHeld_reads (cls who k : Nat) (s : State) : let u := freeHeld cls who k s
    u.sharing = { s.sharing with sems := u.sharing.sems } ∧ (∀ m, k ≤ m → u.sem m = s.sem m) ∧
      ∀ m < k, (s.sem m).holder = some (cls, who) → (s.sem m).queue = [] → (u.sem m).holder = none := by
  induction k with
  | zero => exact ⟨rfl, fun _ _ => rfl, fun m hm => absurd hm (by omega)⟩
  | succ k ih =>
    obtain ⟨hsharing, habove, hbelow⟩ := ih
    rw [freeHeld_succ]
    generalize freeHeld cls who k s = u at hsharing habove hbelow ⊢
    by_cases hheld : (u.sem k).holder = some (cls, who)
    · rw [if_pos hheld]
      obtain ⟨hfree, hother⟩ := semFree_keeps k u
      have hread := semFree_reads k u
      refine ⟨by rw [hfree, hsharing], fun m hm => (hother m (by omega)).trans (habove m (by omega)), fun m hm h hq => ?_⟩
      by_cases hmk : m = k
      · subst hmk
        have hmq : (u.sem m).queue = [] := by rw [habove m (by omega)]; exact hq
        rw [hmq] at hread
        exact hread.1
      · rw [hother m hmk]
        exact hbelow m (by omega) h hq
    · rw [if_neg hheld]
      refine ⟨hsharing, fun m hm => habove m (by omega), fun m hm h hq => ?_⟩
      by_cases hmk : m = k
      · subst hmk
        exact absurd (by rw [habove m (by omega)]; exact h) hheld
      · exact hbelow m (by omega) h hq

theorem freeHeld_own (cls who k : Nat) (s : State) : Own [.sharing, .out] [] s (freeHeld cls who k s) :=
  Own.forN (Own.same s) (fun i v _ => Own.branch (fun _ => Own.semFree (by decide) (by decide) (Own.same v)) (fun _ => Own.same v))

/-- The words of a violation (R332). -/
theorem orderViolation_words (res cls who : Nat) (s : State) :
    (orderViolation res cls who s).num 0xA000 2 = satInc 32 (s.num 0xA000 2) ∧ (orderViolation res cls who s).bit 0xA000 1 1 = true ∧
      (orderViolation res cls who s).sharing = (freeHeld cls who 32 (leaveLink cls who s)).sharing := by
  have hlink : Own [.stacks, .sharing] [⟨0x9010, 0x901F, 3, 3⟩, ⟨0xA000, 0xA000, 1, 1⟩] s (leaveLink cls who s) :=
    Own.leaveLink (by decide) (by decide) (by decide) (Own.same s)
  have hfree := freeHeld_own cls who 32 (leaveLink cls who s)
  have hnum : (freeHeld cls who 32 (leaveLink cls who s)).num 0xA000 2 = s.num 0xA000 2 :=
    (hfree.numKept 0xA000 2 rfl rfl).trans (hlink.numKept 0xA000 2 rfl rfl)
  have hsize : sizeOf 0xA000 1 = 4 ∧ sizeOf 0xA000 2 = 4 := by decide
  unfold orderViolation
  change let u := (((freeHeld cls who 32 (leaveLink cls who s)).incSat 0xA000 2).setBitO 0xA000 1 1 true).raise 254 res cls
    u.num 0xA000 2 = _ ∧ u.bit 0xA000 1 1 = true ∧ u.sharing = _
  generalize freeHeld cls who 32 (leaveLink cls who s) = u at hnum ⊢
  dsimp only
  refine ⟨?_, ?_, by simp⟩
  · rw [num_raise _ _ _ _ _ _ _ rfl, num_setBitO_far _ _ _ _ _ _ _ (by decide), State.incSat, num_setNum_same, hnum, hsize.2]
    refine Nat.mod_eq_of_lt ?_
    rw [satInc_eq_min]
    omega
  · rw [bit_raise _ _ _ _ _ _ _ _ rfl, State.bit_set _ _ (by rw [hsize.1]; decide)]

theorem orderViolation_reads (res cls who : Nat) (s : State) : let u := orderViolation res cls who s
    u.sharing.arbs = s.sharing.arbs ∧ u.num 0xA000 2 = satInc 32 (s.num 0xA000 2) ∧ u.bit 0xA000 1 1 = true ∧
      ∀ n, n < 32 → (s.sem n).holder = some (cls, who) → (s.sem n).queue = [] → (u.sem n).holder = none := by
  obtain ⟨hcount, hbit, hsharing⟩ := orderViolation_words res cls who s
  obtain ⟨hfree, -, hsems⟩ := freeHeld_reads cls who 32 (leaveLink cls who s)
  have hkept := Prod.mk.injEq .. ▸ arbsSems_leaveLink cls who s
  obtain ⟨harbs, hsemsKept⟩ := hkept
  refine ⟨?_, hcount, hbit, fun n hn h hq => ?_⟩
  · rw [hsharing, hfree]; exact harbs
  · rw [sem_of (congrArg Sharing.sems hsharing)]
    have hsem := sem_of hsemsKept n
    exact hsems n hn (by rw [hsem]; exact h) (by rw [hsem]; exact hq)

/-- The stack link is another's. -/
theorem orderViolation_linkC5 {res cls who : Nat} {s : State} (h : holdsLink s cls who = false) :
    (orderViolation res cls who s).sharing.linkC5 = s.sharing.linkC5 := by
  have hlink : leaveLink cls who s = s := by unfold leaveLink; rw [h]; rfl
  rw [(orderViolation_words res cls who s).2.2, (freeHeld_reads cls who 32 (leaveLink cls who s)).1, hlink]

/-- Its C5 transaction ends, and nothing waits. -/
theorem orderViolation_c5Tries {res who : Nat} {s : State} (h : holdsLink s 5 who = true) (h5 : s.sharing.linkC5 = []) (hlink : s.sharing.link = []) :
    (orderViolation res 5 who s).sharing.c5Tries = none := by
  have hleave : leaveLink 5 who s = c5Done s := by unfold leaveLink; rw [h]; rfl
  rw [(orderViolation_words res 5 who s).2.2, (freeHeld_reads 5 who 32 (leaveLink 5 who s)).1, hleave, c5Done_none h5 hlink]

/-! ### Requests presented (R312, R330) -/

theorem present_reads (r inst cls who addr : Nat) (write : Bool) (s : State) :
    ((present r inst cls who addr write s).arbiter r inst).reqs = (s.arbiter r inst).reqs ++ [⟨cls, who, addr, write, 0⟩] ∧
      (present r inst cls who addr write s).out = s.out := by
  refine ⟨?_, rfl⟩
  rw [present, State.arbiter, State.setArbiter, get_put_same]
  dsimp only
  split
  · split <;> rfl
  · rfl

/-- A C5 transaction is admitted at once at an idle link (R330). -/
theorem presentLink_idle {who : Nat} {s : State} (hbusy : s.sharing.linkBusy = none) (hlink : s.sharing.link = []) (h5 : s.sharing.linkC5 = [])
    (htries : s.sharing.c5Tries = none) (hlast : s.sharing.c5Last = 0 ∨ s.sharing.c5Last + secFs 1 ≤ s.now) :
    (presentLink 5 who s).sharing = { s.sharing with c5Tries := some 0, c5Who := who, c5Last := s.now + 1 } := by
  have hnow : (s.sharing.c5Last != 0 && decide (s.now < s.sharing.c5Last + secFs 1)) = false := by
    rcases hlast with h | h
    · simp [h]
    · simp; omega
  unfold presentLink
  rw [if_pos rfl]
  simp [dueLink, admitC5, hbusy, hlink, h5, htries, hnow, sharing_countLink]

theorem presentLink_busy {who : Nat} {s : State} (h : s.sharing.linkBusy.isSome = true) :
    (presentLink 5 who s).sharing = { s.sharing with linkC5 := s.sharing.linkC5 ++ [(s.now, who)] } := by
  unfold presentLink
  rw [if_pos rfl]
  unfold dueLink
  rw [if_neg (by simp [Option.isNone, Option.isSome] at h ⊢; split <;> simp_all)]

/-! ### Grants (R316 to R319) -/

/-- The choice of a class leaves the requests and the turns. -/
theorem robin_keeps (present : List Nat) (q : Nat) (has can : Nat → Bool) (fuel pass : Nat) (a : Arbiter) :
    (robin present q has can fuel pass a).2.reqs = a.reqs ∧ (robin present q has can fuel pass a).2.turn = a.turn := by
  induction fuel generalizing pass a with
  | zero => exact ⟨rfl, rfl⟩
  | succ fuel ih =>
    unfold robin
    dsimp only
    split
    · exact ⟨rfl, rfl⟩
    · have hclear : ∀ (c : Prop) [Decidable c] (x : Arbiter) k, (if c then setDeficit x k 0 else x).reqs = x.reqs ∧
          (if c then setDeficit x k 0 else x).turn = x.turn := fun c _ x k => by split <;> exact ⟨rfl, rfl⟩
      obtain ⟨hreqs, hturn⟩ := hclear ((decide (2 ≤ a.ptr) && !has a.ptr) = true) { a with visit := false } a.ptr
      generalize (if (decide (2 ≤ a.ptr) && !has a.ptr) = true then setDeficit { a with visit := false } a.ptr 0 else { a with visit := false }) = x
        at hreqs hturn ⊢
      split
      · obtain ⟨h1, h2⟩ := ih 0 (setDeficit { x with ptr := nextClass present a.ptr, visit := true } (nextClass present a.ptr)
          (min (quantum q (nextClass present a.ptr)) (deficitOf { x with ptr := nextClass present a.ptr } (nextClass present a.ptr) +
            quantum q (nextClass present a.ptr))))
        exact ⟨h1.trans hreqs, h2.trans hturn⟩
      · split
        · exact ⟨hreqs, hturn⟩
        · obtain ⟨h1, h2⟩ := ih (pass + 1) { x with ptr := nextClass present a.ptr }
          exact ⟨h1.trans hreqs, h2.trans hturn⟩

/-- The requests presented and the turns of an arbiter. -/
def asked (a : Arbiter) : List Req × List Nat := (a.reqs, a.turn)

theorem decideSlot_asked (r k pos : Nat) (tables : List Nat × Nat) (a : Arbiter) : asked (decideSlot r k pos tables a).2 = asked a := by
  unfold decideSlot
  extract_lets w mark has
  split
  · split <;> rfl
  · split
    · rfl
    · rename_i can _ _
      obtain ⟨hreqs, hturn⟩ := robin_keeps (weighted r) tables.2 has can 16 0 a
      have h : asked (robin (weighted r) tables.2 has can 16 0 a).2 = asked a := Prod.ext hreqs hturn
      generalize robin (weighted r) tables.2 has can 16 0 a = p at h ⊢
      obtain ⟨g, a'⟩ := p
      cases g with
      | some c => dsimp only; split <;> exact h
      | none =>
        dsimp only
        split
        · exact h
        · split <;> exact h

/-- The head of a class rests on the requests of that class. -/
theorem headOf_of_class {a a' : Arbiter} {l l' : List Req} {c : Nat} (hturn : a'.turn = a.turn)
    (h : l'.filter (fun q => q.cls == c) = l.filter (fun q => q.cls == c)) : headOf a' l' c = headOf a l c := by
  simp only [headOf, hturn, h]

theorem leastReq_mem {l : List Req} {q : Req} (h : leastReq l = some q) : q ∈ l := by
  induction l generalizing q with
  | nil => cases h
  | cons p l ih =>
    unfold leastReq at h
    split at h
    · rename_i p' hp
      split at h
      · cases h; exact List.mem_cons_of_mem _ (ih hp)
      · cases h; exact List.mem_cons_self
    · cases h; exact List.mem_cons_self

theorem headOf_class {a : Arbiter} {l : List Req} {c : Nat} {q : Req} (h : headOf a l c = some q) : q.cls = c := by
  have hmem : ∀ m : List Req, (∀ p ∈ m, p.cls = c) → ∀ p, leastReq m = some p → p.cls = c := fun m hm p hp => hm p (leastReq_mem hp)
  unfold headOf at h
  dsimp only at h
  split at h
  · rename_i p hp
    cases h
    refine hmem _ (fun p hp => ?_) _ hp
    exact eq_of_beq (List.mem_filter.1 (List.mem_filter.1 hp).1).2
  · refine hmem _ (fun p hp => ?_) _ h
    exact eq_of_beq (List.mem_filter.1 hp).2

theorem arbiter_setArbiter (s : State) (r inst : Nat) (a : Arbiter) : (s.setArbiter r inst a).arbiter r inst = a := get_put_same ..

theorem measureWait_own {r : Nat} (hr : r < 7) (q : Req) (s : State) : Own [] [⟨0xA000, 0xA000, 1, 1⟩, ⟨0xA100, 0xA106, 4, 4⟩] s (measureWait r q s) :=
  Own.measureWait (by decide) hr (Own.same s)

/-- The heads that wait are of other classes than the one granted: its requests and the turns stay. -/
theorem headsWait_keeps {r inst c : Nat} (hr : r < 7) (s : State) : let u := headsWait r inst (some c) s
    (u.arbiter r inst).turn = (s.arbiter r inst).turn ∧
      (u.arbiter r inst).reqs.filter (fun q => q.cls == c) = (s.arbiter r inst).reqs.filter (fun q => q.cls == c) := by
  have hstep : ∀ i (v : State), let w := (if some c = some i then v else
      match headOf (v.arbiter r inst) (v.arbiter r inst).reqs i with
      | none => v
      | some q => countReq (ctrBankOf r inst) (waitEvent r) 1 q.cls q.who none (measureWait r { q with waited := q.waited + 1 }
          (v.setArbiter r inst { v.arbiter r inst with reqs := (v.arbiter r inst).reqs.map (fun p => if p = q then { q with waited := q.waited + 1 } else p) })))
      (w.arbiter r inst).turn = (v.arbiter r inst).turn ∧
        (w.arbiter r inst).reqs.filter (fun q => q.cls == c) = (v.arbiter r inst).reqs.filter (fun q => q.cls == c) := by
    intro i v
    dsimp only
    split
    · exact ⟨rfl, rfl⟩
    · rename_i hci
      split
      · exact ⟨rfl, rfl⟩
      · rename_i q hq
        have hcls : q.cls ≠ c := fun h => hci (congrArg some (h.symm.trans (headOf_class hq)))
        have harb : ∀ x : State, (countReq (ctrBankOf r inst) (waitEvent r) 1 q.cls q.who none (measureWait r { q with waited := q.waited + 1 } x)).arbiter r inst =
            x.arbiter r inst := fun x => by
          rw [State.arbiter, (countReq_keeps _ _ _ _ _ _ _).1, (measureWait_own hr _ x).sharing (by decide)]
          rfl
        rw [harb, arbiter_setArbiter]
        refine ⟨rfl, ?_⟩
        generalize (v.arbiter r inst).reqs = l
        induction l with
        | nil => rfl
        | cons p l ih =>
          by_cases hp : p = q
          · simp [hp, hcls, ih]
          · simp [hp, List.filter_cons, ih]
  have h := forN_keep (fun v : State => ((v.arbiter r inst).turn, (v.arbiter r inst).reqs.filter (fun q => q.cls == c))) 6 _
    (fun i v _ => Prod.ext (hstep i v).1 (hstep i v).2) s
  exact ⟨congrArg Prod.fst h, congrArg Prod.snd h⟩

/-- A request granted is answered with its class, its requester and, at ridge time, the time of its tick (R341). -/
theorem grantReq_out {r inst c : Nat} {q : Req} {s : State} (h : headOf (s.arbiter r inst) (s.arbiter r inst).reqs c = some q) :
    (grantReq r inst c s).out = s.out ++ [⟨18, r, [c, q.who] ++ (if r = 4 then beBytes 12 (toT96 s.ridge) else [])⟩] := by
  unfold grantReq
  simp only [h]
  have hcount : ∀ bank ev addr (u : State), (countReq bank ev 1 q.cls q.who addr u).out = u.out ∧ (countReq bank ev 1 q.cls q.who addr u).ridge = u.ridge :=
    fun bank ev addr u => ⟨(countReq_keeps ..).2, (Own.countReq (P := []) (G := []) (Own.same u)).time (by decide)⟩
  obtain ⟨ho1, hr1⟩ := hcount (ctrBankOf r inst) (grantEvent r inst q.write) (if (r = 4 || r = 5) = true then none else some q.addr)
    (s.setArbiter r inst { s.arbiter r inst with reqs := (s.arbiter r inst).reqs.erase q, turn := setNth (s.arbiter r inst).turn c (q.who + 1) })
  generalize countReq (ctrBankOf r inst) (grantEvent r inst q.write) 1 q.cls q.who _ _ = u at ho1 hr1 ⊢
  obtain ⟨ho2, hr2⟩ := hcount (ctrBankOf r inst) 0x0C none u
  have hout : u.out = s.out := ho1
  have hridge : u.ridge = s.ridge := hr1
  split
  · rw [State.emit, ho2, hr2, hout, hridge]
  · rw [State.emit, hout, hridge]

/-- A slot decided for a class grants its head (R315 to R319). -/
theorem runSlot_out {r inst k pos start c : Nat} {q : Req} {s : State} (hr : r < 7) (hpos : pos < wheelSlots r)
    (hdecide : (decideSlot r k pos (tablesIn s r start) (s.arbiter r inst)).1 = some c)
    (hhead : headOf (s.arbiter r inst) (s.arbiter r inst).reqs c = some q) :
    (runSlot r inst k (pos, start) s).out = s.out ++ [⟨18, r, [c, q.who] ++ (if r = 4 then beBytes 12 (toT96 s.ridge) else [])⟩] := by
  obtain ⟨hreqs, hturn⟩ := Prod.mk.inj (decideSlot_asked r k pos (tablesIn s r start) (s.arbiter r inst))
  unfold runSlot
  dsimp only
  rw [if_neg (Nat.not_le.2 hpos), hdecide]
  generalize (decideSlot r k pos (tablesIn s r start) (s.arbiter r inst)).2 = a at hreqs hturn ⊢
  obtain ⟨hwturn, hwreqs⟩ := headsWait_keeps (inst := inst) (c := c) hr (s.setArbiter r inst { a with last := k + 1 })
  have hown : Own [.sharing] [⟨0xA000, 0xA000, 1, 1⟩, ⟨0xA100, 0xA106, 4, 4⟩] (s.setArbiter r inst { a with last := k + 1 })
      (headsWait r inst (some c) (s.setArbiter r inst { a with last := k + 1 })) := Own.headsWait (by decide) (by decide) hr (Own.same _)
  have hout := hown.out (by decide)
  have hridge := hown.time (by decide)
  rw [arbiter_setArbiter] at hwturn hwreqs
  generalize headsWait r inst (some c) (s.setArbiter r inst { a with last := k + 1 }) = w at hwturn hwreqs hout hridge ⊢
  have hw : headOf (w.arbiter r inst) (w.arbiter r inst).reqs c = some q := by
    rw [headOf_of_class (hwturn.trans hturn) (hwreqs.trans (by rw [show ({ a with last := k + 1 } : Arbiter).reqs = a.reqs from rfl, hreqs])), hhead]
  rw [grantReq_out hw, hout, hridge]
  rfl

/-! ### What waits at semaphores as time passes (R334) -/

theorem sems_grantReq (r inst c : Nat) (s : State) : (grantReq r inst c s).sharing.sems = s.sharing.sems := by
  unfold grantReq
  dsimp only
  split
  · rfl
  · rename_i q _
    obtain ⟨h1, -⟩ := countReq_keeps (ctrBankOf r inst) (grantEvent r inst q.write) 1 q.cls q.who
      (if (r = 4 || r = 5) = true then none else some q.addr)
      (s.setArbiter r inst { s.arbiter r inst with reqs := (s.arbiter r inst).reqs.erase q, turn := setNth (s.arbiter r inst).turn c (q.who + 1) })
    generalize countReq (ctrBankOf r inst) (grantEvent r inst q.write) 1 q.cls q.who _ _ = u at h1 ⊢
    obtain ⟨h2, -⟩ := countReq_keeps (ctrBankOf r inst) 0x0C 1 q.cls q.who none u
    have hu : u.sharing.sems = s.sharing.sems := (congrArg Sharing.sems h1).trans rfl
    split
    · exact (congrArg Sharing.sems h2).trans hu
    · exact hu

theorem sems_headsWait {r : Nat} (hr : r < 7) (inst : Nat) (g : Option Nat) (s : State) : (headsWait r inst g s).sharing.sems = s.sharing.sems := by
  refine forN_keep (fun v : State => v.sharing.sems) 6 _ (fun i v _ => ?_) s
  dsimp only
  split
  · rfl
  · split
    · rfl
    · rw [(countReq_keeps _ _ _ _ _ _ _).1, (measureWait_own hr _ _).sharing (by decide)]
      rfl

theorem sems_runSlot {r : Nat} (hr : r < 7) (inst k : Nat) (p : Nat × Nat) (s : State) : (runSlot r inst k p s).sharing.sems = s.sharing.sems := by
  unfold runSlot
  extract_lets a
  split
  · rfl
  · generalize decideSlot r k p.1 (tablesIn s r p.2) a = d
    obtain ⟨g, a'⟩ := d
    cases g with
    | some c =>
      dsimp only
      rw [sems_grantReq, sems_headsWait hr]
      rfl
    | none =>
      dsimp only
      rw [sems_headsWait hr]
      rfl

theorem sems_runSlots {r : Nat} (hr : r < 7) (inst fuel : Nat) (s : State) : (runSlots r inst fuel s).sharing.sems = s.sharing.sems := by
  induction fuel generalizing s with
  | zero => rfl
  | succ fuel ih =>
    unfold runSlots
    dsimp only
    split
    · rfl
    · split
      · rfl
      · exact (ih _).trans (sems_runSlot hr inst _ _ _)

theorem sems_dueSlots (s : State) : (dueSlots s).sharing.sems = s.sharing.sems := by
  refine foldl_keep (fun v : State => v.sharing.sems) _ _ (fun v e _ => ?_) s
  dsimp only
  split
  · rfl
  · rename_i hno
    exact sems_runSlots (by simp at hno; omega) _ _ _

/-- One semaphore at the end of a ridge clock. -/
def semDue (s : State) (e : Nat × Sem) : State :=
  let v := s.sem e.1
  let v := { v with queue := v.queue.filter (fun q => s.heard q.1 q.2.1) }
  let s := s.setSem e.1 v
  match v.holder, v.queue with
  | none, q :: _ => if q.2.2 < s.ticks then semGrant e.1 ((q.2.2 + 1) * tickFs) s else s
  | _, _ => s

theorem dueSems_eq (s : State) : dueSems s = s.sharing.sems.foldl semDue s := rfl

theorem semDue_own (s : State) (e : Nat × Sem) : Own [.sharing, .out] [] s (semDue s e) := by
  have hset : ∀ v, Own [.sharing, .out] [] s (s.setSem e.1 v) := fun v => Own.sharing_set (by decide) (Own.same s)
  unfold semDue
  dsimp only
  split
  · exact Own.branch (fun _ => Own.semGrant (by decide) (by decide) (hset _)) (fun _ => hset _)
  · exact hset _

/-- Who is heard, and the ridge clock, rest on parts that sharing does not move. -/
theorem heard_of_own {P : List Part} {G : List Objs} {s u : State} (h : Own P G s u) (hg : G.any (·.has (0x6021 * 256 + 1)) = false) (c w : Nat) :
    u.heard c w = s.heard c w := by
  simp only [State.heard, sideState_of (h.numKept 0x6021 1 rfl hg)]

theorem semDue_other {s : State} {e : Nat × Sem} {n : Nat} (h : n ≠ e.1) : (semDue s e).sem n = s.sem n := by
  unfold semDue
  dsimp only
  split
  · split
    · exact ((semGrant_keeps _ _ _).2.1 n h).trans (sem_setSem_other _ h _)
    · exact sem_setSem_other _ h _
  · exact sem_setSem_other _ h _

/-- A free semaphore whose first request came in an earlier clock is granted. -/
theorem semDue_grants {s : State} {e : Nat × Sem} {q : Nat × Nat × Nat} {rest : List (Nat × Nat × Nat)} (hfree : (s.sem e.1).holder = none)
    (hq : (s.sem e.1).queue = q :: rest) (ht : q.2.2 < s.ticks) (hheard : ∀ p ∈ q :: rest, s.heard p.1 p.2.1 = true) :
    (semDue s e).sem e.1 = ⟨some (q.1, q.2.1), (q.2.2 + 1) * tickFs + leaseFs, rest⟩ := by
  have hkeep : (s.sem e.1).queue.filter (fun q => s.heard q.1 q.2.1) = q :: rest := by
    rw [hq]
    exact List.filter_eq_self.2 hheard
  have hset := sem_setSem_same s e.1 { s.sem e.1 with queue := q :: rest }
  obtain ⟨hs, -⟩ := semGrant_reads (c := q.1) (w := q.2.1) (a := q.2.2) (rest := rest) ((q.2.2 + 1) * tickFs) (by rw [hset]; exact hfree) (by rw [hset])
  have hdue : semDue s e = semGrant e.1 ((q.2.2 + 1) * tickFs) (s.setSem e.1 { s.sem e.1 with queue := q :: rest }) := by
    unfold semDue
    simp only [hkeep, hfree]
    exact if_pos ht
  rw [hdue, sem_of (congrArg Sharing.sems hs), sem_setSem_same]

/-- A semaphore held stays so while all that wait are heard. -/
theorem semDue_held {s : State} {e : Nat × Sem} (hheld : (s.sem e.1).holder.isSome = true)
    (hheard : ∀ p ∈ (s.sem e.1).queue, s.heard p.1 p.2.1 = true) : (semDue s e).sem e.1 = s.sem e.1 := by
  have hkeep : (s.sem e.1).queue.filter (fun q => s.heard q.1 q.2.1) = (s.sem e.1).queue := List.filter_eq_self.2 hheard
  obtain ⟨p, hp⟩ := Option.isSome_iff_exists.1 hheld
  unfold semDue
  simp only [hkeep, hp]
  rw [sem_setSem_same, ← hp]

theorem key_of_get {α : Type} {d : α} {k : Nat} {l : Store α} (h : Store.get d k l ≠ d) : ∃ e ∈ l, e.1 = k := by
  induction l with
  | nil => exact absurd rfl h
  | cons e l ih =>
    by_cases hk : e.1 = k
    · exact ⟨e, List.mem_cons_self, hk⟩
    · have hnext : Store.get d k (e :: l) = Store.get d k l := by simp [Store.get, Store.find, hk]
      obtain ⟨e', he', hk'⟩ := ih (by rw [← hnext]; exact h)
      exact ⟨e', List.mem_cons_of_mem _ he', hk'⟩

theorem dueSems_grants {s : State} {n : Nat} {q : Nat × Nat × Nat} {rest : List (Nat × Nat × Nat)} (hfree : (s.sem n).holder = none)
    (hq : (s.sem n).queue = q :: rest) (ht : q.2.2 < s.ticks) (hheard : ∀ p ∈ q :: rest, s.heard p.1 p.2.1 = true) :
    (dueSems s).sem n = ⟨some (q.1, q.2.1), (q.2.2 + 1) * tickFs + leaseFs, rest⟩ := by
  have hlater : ∀ (l : Store Sem) (v : State), Own [.sharing, .out] [] s v →
      v.sem n = ⟨some (q.1, q.2.1), (q.2.2 + 1) * tickFs + leaseFs, rest⟩ →
      (l.foldl semDue v).sem n = ⟨some (q.1, q.2.1), (q.2.2 + 1) * tickFs + leaseFs, rest⟩ := by
    intro l
    induction l with
    | nil => exact fun v _ h => h
    | cons e l ih =>
      intro v hv h
      refine ih (semDue v e) (hv.step (semDue_own v e)) ?_
      by_cases he : n = e.1
      · subst he
        rw [semDue_held (by rw [h]; rfl) (fun p hp => ?_), h]
        rw [heard_of_own hv rfl]
        rw [h] at hp
        exact hheard p (List.mem_cons_of_mem _ hp)
      · rw [semDue_other he, h]
  have hfirst : ∀ (l : Store Sem) (v : State), Own [.sharing, .out] [] s v → v.sem n = s.sem n → (∃ e ∈ l, e.1 = n) →
      (l.foldl semDue v).sem n = ⟨some (q.1, q.2.1), (q.2.2 + 1) * tickFs + leaseFs, rest⟩ := by
    intro l
    induction l with
    | nil => exact fun v _ _ ⟨_, he, _⟩ => nomatch he
    | cons e l ih =>
      intro v hv h hin
      by_cases he : n = e.1
      · subst he
        refine hlater l _ (hv.step (semDue_own v e)) (semDue_grants (by rw [h, hfree]) (by rw [h, hq]) ?_ (fun p hp => ?_))
        · rw [State.ticks, hv.now (by decide)]; exact ht
        · rw [heard_of_own hv rfl]; exact hheard p hp
      · refine ih (semDue v e) (hv.step (semDue_own v e)) ((semDue_other he).trans h) ?_
        obtain ⟨e', he', hk⟩ := hin
        rcases List.mem_cons.1 he' with rfl | hmem
        · exact absurd hk.symm he
        · exact ⟨e', hmem, hk⟩
  rw [dueSems_eq]
  refine hfirst _ s (Own.same s) rfl (key_of_get (d := Sem.init) ?_)
  intro h
  have hinit : (s.sem n).queue = [] := congrArg Sem.queue h
  rw [hq] at hinit
  cases hinit

/-- What time brings before the semaphores are judged, and after (R334). -/
theorem passed_sems {s : State} {t n : Nat} {q : Nat × Nat × Nat} {rest : List (Nat × Nat × Nat)} (hfree : (s.sem n).holder = none)
    (hq : (s.sem n).queue = q :: rest) (ht : q.2.2 < (s.passed t).ticks) (hheard : ∀ p ∈ q :: rest, (s.passed t).heard p.1 p.2.1 = true) :
    (s.passed t).sem n = ⟨some (q.1, q.2.1), (q.2.2 + 1) * tickFs + leaseFs, rest⟩ := by
  have hexists : ∃ u, Own [.time, .meas, .graphs, .gf, .plate, .stacks, .sides, .safety, .clock, .plls, .scribe] arriveObjs s u ∧
      s.passed t = noteSout (dueSlot (clkDue (dueRefs 0 (dueLink (dueSems (dueSlots u)))))) := by
    refine ⟨_, ?_, rfl⟩
    have c : Cov arriveObjs arriveObjs := by decide
    unfold dueSills
    repeat' first
      | with_reducible apply Own.noteSout | with_reducible apply Own.dueFrozen | with_reducible apply Own.dueTruss
      | with_reducible apply Own.dueTags | with_reducible apply Own.judgeAlign | with_reducible apply Own.sweepSwaps
      | with_reducible apply Own.dueTorn | with_reducible apply Own.dueCommits | with_reducible apply Own.dueClears
      | with_reducible apply Own.dueCounters | with_reducible apply Own.passTime | decide | exact c.sub rfl | with_reducible exact Own.same _
      | with_reducible refine Own.branch (fun _ => ?_) (fun _ => ?_)
  obtain ⟨u, hu, hpassed⟩ := hexists
  have hslots : Own [.sharing, .out] [⟨0xA000, 0xA000, 1, 1⟩, ⟨0xA100, 0xA106, 4, 4⟩] u (dueSlots u) :=
    Own.dueSlots (by decide) (by decide) (by decide) (Own.same u)
  have hsem : ∀ m, (dueSlots u).sem m = s.sem m := fun m => sem_of ((sems_dueSlots u).trans (congrArg Sharing.sems (hu.sharing (by decide)))) m
  generalize dueSlots u = v at hslots hsem hpassed
  have hsems : Own [.sharing, .out] [] v (dueSems v) := Own.dueSems (by decide) (by decide) (Own.same v)
  have hgrant := @dueSems_grants v n q rest
  generalize dueSems v = w at hsems hgrant hpassed
  have hlink : Own [.sharing] [⟨0xA000, 0xA000, 1, 1⟩] w (dueLink w) := Own.dueLink (by decide) (by decide) (Own.same w)
  have hlinkSem : ∀ m, (dueLink w).sem m = w.sem m := fun m => sem_of (congrArg Prod.snd (arbsSems_dueLink w)) m
  generalize dueLink w = x at hlink hlinkSem hpassed
  have hafter : Own [.safety, .clock, .net, .boot] [⟨0x1000, 0x1000, 2, 2⟩, ⟨0x7040, 0x7040, 2, 2⟩, ⟨0xB000, 0xB000, 6, 7⟩, ⟨0xB200, 0xB200, 9, 10⟩]
      x (s.passed t) := by
    rw [hpassed]
    exact Own.noteSout (by decide) (Own.dueSlot (by decide) (by decide) (by decide) (Own.clkDue (by decide) (Own.dueRefs (by decide) (by decide) (Own.same x))))
  have hnow : (s.passed t).now = v.now := (hafter.now (by decide)).trans ((hlink.now (by decide)).trans (hsems.now (by decide)))
  have hhear : ∀ c w', (s.passed t).heard c w' = v.heard c w' := fun c w' =>
    (heard_of_own hafter rfl c w').trans ((heard_of_own hlink rfl c w').trans (heard_of_own hsems rfl c w'))
  rw [sem_of (congrArg Sharing.sems (hafter.sharing (by decide))), hlinkSem]
  refine hgrant (by rw [hsem, hfree]) (by rw [hsem, hq]) ?_ (fun p hp => ?_)
  · rw [State.ticks, ← hnow]; exact ht
  · rw [← hhear]; exact hheard p hp

theorem sharing_ended (s : State) (q : List Instr) : (s.ended q).sharing = s.sharing ∧ (s.ended q).out = s.out := by simp

theorem sem_ended (s : State) (q : List Instr) (n : Nat) : (s.ended q).sem n = s.sem n := sem_of (by rw [(sharing_ended s q).1]) n

/-- What a semaphore given back leaves, once the command has ended. -/
theorem semFree_ended (n : Nat) (s : State) (q : List Instr) {b : State} (hsem : s.sem n = b.sem n) (hnow : s.now = b.now) (hout : s.out = b.out) :
    match (b.sem n).queue with
    | [] => (((semFree n s).ended q).sem n).holder = none ∧ (((semFree n s).ended q).sem n).queue = []
    | p :: rest =>
      if p.2.2 < b.ticks then ((semFree n s).ended q).sem n = ⟨some (p.1, p.2.1), b.now + leaseFs, rest⟩ ∧
        ((semFree n s).ended q).out = b.out ++ [⟨19, n, [p.1, p.2.1, 0]⟩]
      else (((semFree n s).ended q).sem n).holder = none ∧ (((semFree n s).ended q).sem n).queue = p :: rest := by
  have h := semFree_reads n s
  rw [State.ticks, hsem, hnow, hout] at h
  rw [sem_ended, (sharing_ended _ _).2]
  exact h

theorem semRequest_reads (n cls who : Nat) (s : State) : let u := semRequest n cls who s
    if (s.sem n).queue.length < (if (s.sem n).holder = none then 9 else 8) then
      u.sem n = { s.sem n with queue := semInsert (cls, who, s.ticks) (s.sem n).queue } ∧ u.out = s.out ++ [⟨19, n, [cls, who, 1]⟩]
    else u.sharing = s.sharing ∧ u.out = s.out ++ [⟨19, n, [cls, who, 2]⟩] := by
  have hroom : (if (s.sem n).holder.isNone = true then 9 else 8) = (if (s.sem n).holder = none then 9 else 8) := by
    cases (s.sem n).holder <;> rfl
  unfold semRequest
  dsimp only
  rw [hroom]
  by_cases h : (s.sem n).queue.length < (if (s.sem n).holder = none then 9 else 8)
  · simp only [if_pos h]
    exact ⟨sem_setSem_same s n _, rfl⟩
  · simp only [if_neg h]
    exact ⟨rfl, rfl⟩

/-- Settles O38, command by command. -/
theorem sharingCompletes : Obligations.SharingCompletes := by
  intro s t b passes
  have hb : s.arrive t = b := rfl
  have harrive : s.boot.restartAt = none → b = ({ s with out := [] } : State).passed t := fun h =>
    arrive_standing (fun r hr => by rw [h] at hr; cases hr)
  clear_value b
  refine ⟨fun r inst unit num x held addr w hr hi hu ha hheld => ?_, fun n cls who held hn hc hdeaf => ?_,
    fun n cls who held hn hc hheard hbroken => ?_, fun n cls who held hn h2 h4 hheard hbroken => ?_,
    fun n cls who hn hc hholds hlease => ?_, fun n cls who hn hc hno => ?_, fun n p hn hholds hlease => ?_,
    fun n q rest hstand hfree hq ht hheard => ?_, fun r inst k pos start c q hr hpos hdecide hhead => runSlot_out hr hpos hdecide hhead⟩
  · intro who heard broken
    have hwf : (Instr.arbiterRequest t r inst unit num x held addr w).wf = true := by
      simp only [Instr.wf, Bool.and_eq_true, decide_eq_true_eq]
      exact ⟨⟨⟨⟨hr, hi⟩, hu⟩, ha⟩, by
        by_cases h2 : 2 ≤ unit
        · simp [h2]
        · simp [hheld (by omega)]⟩
    have hclass : ∀ u, unitClass u = u := fun _ => rfl
    refine ⟨fun hdeaf => ?_, fun hheard hbroken => ?_, fun hheard hbroken h7 hpresent => ?_, fun hheard hbroken h7 habsent => ?_,
      fun hbroken h7 h5 hbusy => ?_, fun hbroken h7 h5 hbusy hlink hq htries hlast => ?_⟩
    · refine gives_of_run hb (execArbiterRequest.eq_def ..) hwf ?_
      dsimp only
      rw [hclass, show b.heard unit (2 * num + sideIx x) = false from hdeaf]
      exact sharing_ended b _
    · refine gives_of_run hb (execArbiterRequest.eq_def ..) hwf ?_
      dsimp only
      rw [hclass, show b.heard unit (2 * num + sideIx x) = true from hheard, if_neg (by decide), if_pos hbroken]
      obtain ⟨harbs, hcount, hbit, hfree⟩ := orderViolation_reads r unit (2 * num + sideIx x) b
      rw [(sharing_ended _ _).1, num_ended _ _ _ _ rfl, bit_ended _ _ _ _ _ rfl]
      refine ⟨harbs, hcount, hbit, fun hfalse => orderViolation_linkC5 hfalse, fun htrue h5 hq hlink => ?_, fun n hn hholds hq => ?_⟩
      · subst h5
        exact orderViolation_c5Tries htrue hq hlink
      · rw [sem_ended]
        exact hfree n hn hholds hq
    · refine gives_of_run hb (execArbiterRequest.eq_def ..) hwf ?_
      dsimp only
      rw [hclass, show b.heard unit (2 * num + sideIx x) = true from hheard, if_neg (by decide), if_neg (by rw [show orderBroken _ _ = false from hbroken]; decide),
        if_neg (by omega), if_pos hpresent]
      obtain ⟨hreqs, hout⟩ := present_reads r inst unit (2 * num + sideIx x) addr w b
      rw [State.arbiter, (sharing_ended _ _).1, (sharing_ended _ _).2]
      exact ⟨hreqs, hout⟩
    · refine gives_of_run hb (execArbiterRequest.eq_def ..) hwf ?_
      dsimp only
      rw [hclass, show b.heard unit (2 * num + sideIx x) = true from hheard, if_neg (by decide), if_neg (by rw [show orderBroken _ _ = false from hbroken]; decide),
        if_neg (by omega), habsent, if_neg (by decide), (sharing_ended _ _).1]
    · subst h5 h7
      refine gives_of_run hb (execArbiterRequest.eq_def ..) hwf ?_
      dsimp only
      rw [hclass, show b.heard 5 (2 * num + sideIx x) = true from rfl, if_neg (by decide), if_neg (by rw [show orderBroken _ _ = false from hbroken]; decide),
        if_pos rfl, (sharing_ended _ _).1]
      exact presentLink_busy hbusy
    · subst h5 h7
      refine gives_of_run hb (execArbiterRequest.eq_def ..) hwf ?_
      dsimp only
      rw [hclass, show b.heard 5 (2 * num + sideIx x) = true from rfl, if_neg (by decide), if_neg (by rw [show orderBroken _ _ = false from hbroken]; decide),
        if_pos rfl, (sharing_ended _ _).1]
      exact presentLink_idle hbusy hlink hq htries hlast
  · refine gives_of_run hb (execSemaphoreRequest.eq_def ..) (by simp [Instr.wf, hn, hc]) ?_
    rw [hdeaf]
    exact sharing_ended b _
  · refine gives_of_run hb (execSemaphoreRequest.eq_def ..) (by simp [Instr.wf, hn, hc]) ?_
    rw [hheard, if_neg (by decide), if_pos hbroken, (sharing_ended _ _).1, num_ended _ _ _ _ rfl, bit_ended _ _ _ _ _ rfl]
    obtain ⟨harbs, hcount, hbit, hfree⟩ := orderViolation_reads (8 + n) cls who b
    refine ⟨harbs, hcount, hbit, fun m hm hholds hq => ?_⟩
    rw [sem_ended]
    exact hfree m hm hholds hq
  · refine gives_of_run hb (execSemaphoreRequest.eq_def ..) (by simp [Instr.wf, hn]; omega) ?_
    have hserved : (decide (2 ≤ cls) && decide (cls ≤ 4)) = true := by simp [h2, h4]
    simp only [hheard, hbroken, hserved, Bool.not_true, Bool.false_eq_true, if_false, if_true]
    rw [(sharing_ended _ _).1, (sharing_ended _ _).2, sem_ended]
    exact semRequest_reads n cls who b
  · refine gives_of_run hb (execSemaphoreRelease.eq_def ..) (by simp [Instr.wf, hn, hc]) ?_
    rw [if_pos ⟨hholds, hlease⟩]
    exact semFree_ended n b s.pending rfl rfl rfl
  · refine gives_of_run hb (execSemaphoreRelease.eq_def ..) (by simp [Instr.wf, hn, hc]) ?_
    rw [if_neg (fun h => hno.elim (fun g => g h.1) (fun g => absurd h.2 (Nat.not_le.2 g))), (sharing_ended _ _).1]
  · refine gives_of_run hb (execSemaphoreLeaseExpired.eq_def ..) (decide_eq_true hn) ?_
    obtain ⟨c, w⟩ := p
    simp only [hholds, if_pos hlease]
    have hsize : sizeOf 0xA000 1 = 4 ∧ sizeOf 0xA000 3 = 4 := by decide
    have hown : Own [] [⟨0xA000, 0xA000, 1, 1⟩, ⟨0xA000, 0xA000, 3, 3⟩] b (((b.incSat 0xA000 3).setBitO 0xA000 1 0 true).raise 252 n c) :=
      Own.raise (Own.setBitO (by decide) (Own.incSat (by decide) (Own.same b)))
    have hcount : (((b.incSat 0xA000 3).setBitO 0xA000 1 0 true).raise 252 n c).num 0xA000 3 = satInc 32 (b.num 0xA000 3) := by
      rw [num_raise _ _ _ _ _ _ _ rfl, num_setBitO_far _ _ _ _ _ _ _ (by decide), State.incSat, num_setNum_same, hsize.2]
      refine Nat.mod_eq_of_lt ?_
      rw [satInc_eq_min]
      omega
    have hflag : (((b.incSat 0xA000 3).setBitO 0xA000 1 0 true).raise 252 n c).bit 0xA000 1 0 = true := by
      rw [bit_raise _ _ _ _ _ _ _ _ rfl, State.bit_set _ _ (by rw [hsize.1]; decide)]
    have hsharing := hown.sharing (by decide)
    have hnow := hown.now (by decide)
    have hout := hown.out (by decide)
    generalize ((b.incSat 0xA000 3).setBitO 0xA000 1 0 true).raise 252 n c = u at hcount hflag hsharing hnow hout ⊢
    have hfree : Own [.sharing, .out] [] u (semFree n u) := Own.semFree (by decide) (by decide) (Own.same u)
    have hword := hfree.numKept 0xA000 1 rfl rfl
    rw [num_ended _ _ _ _ rfl, bit_ended _ _ _ _ _ rfl, hfree.numKept 0xA000 3 rfl rfl, State.bit, hword]
    exact ⟨hcount, hflag, semFree_ended n u s.pending (sem_of (by rw [hsharing]) n) hnow hout⟩
  · have hpassed := harrive hstand
    rw [hpassed] at ht hheard ⊢
    exact passed_sems (s := { s with out := [] }) hfree hq ht hheard
end Sys2Proof
end

section
/-!
SUPPORT. Ridge time: steps, the servo and holdover (chapter 12).
-/
namespace Sys2Proof
open Sys2Proof.Machine

theorem sizeOf_time : sizeOf 0x7000 2 = 8 ∧ sizeOf 0x7000 5 = 4 ∧ sizeOf 0x7000 6 = 2 ∧ sizeOf 0x7000 7 = 12 ∧ sizeOf 0x7000 8 = 12 ∧
    sizeOf 0x7030 4 = 12 ∧ sizeOf 0x7030 5 = 2 ∧ sizeOf 0x7030 6 = 1 ∧ sizeOf 0x7010 7 = 8 ∧ sizeOf 0x7010 8 = 4 := by decide

/-- A flag of TimeStatus after a write to one. -/
theorem bit_time_set {m n : Nat} (hm : m < 32) (v : Bool) (s : State) :
    (s.setBitO 0x7000 5 n v).bit 0x7000 5 m = if m = n then v else s.bit 0x7000 5 m := by
  rw [State.bit_setBitO s v _ _ _ (by rw [sizeOf_time.2.1]; exact hm)]
  simp

theorem clock_ended (s : State) (q : List Instr) : (s.ended q).clock = s.clock ∧ (s.ended q).ridge = s.ridge ∧ (s.ended q).graphs = s.graphs ∧
    (s.ended q).out = s.out := by simp

/-- A step refused (R340, R342). -/
theorem requestStep_refused {set : Bool} {v : Int} {s : State} (h : stepAllowed s = false) (q : List Instr) :
    let u := (requestStep set v s).ended q
    u.clock = s.clock ∧ u.ridge = s.ridge ∧ u.bit 0x7000 5 1 = true ∧ u.bit 0x7000 5 2 = true := by
  have hrefused : requestStep set v s = ((s.setBitO 0x7000 5 1 true).setBitO 0x7000 5 2 true).raise 200 2 := by
    unfold requestStep
    rw [h]
    rfl
  obtain ⟨hclock, hridge, -, -⟩ := clock_ended (requestStep set v s) q
  dsimp only
  rw [hclock, hridge, bit_ended _ _ _ _ _ rfl, bit_ended _ _ _ _ _ rfl, hrefused, bit_raise _ _ _ _ _ _ _ _ rfl, bit_raise _ _ _ _ _ _ _ _ rfl,
    bit_time_set (by decide), bit_time_set (by decide), bit_time_set (by decide)]
  simp

theorem requestStep_allowed {set : Bool} {v : Int} {s : State} (h : stepAllowed s = true) (q : List Instr) :
    let u := (requestStep set v s).ended q
    u.clock = { s.clock with steps := s.clock.steps ++ [(set, v, s.ridge)] } ∧ u.ridge = s.ridge := by
  obtain ⟨hclock, hridge, -, -⟩ := clock_ended (requestStep set v s) q
  dsimp only
  rw [hclock, hridge]
  unfold requestStep
  rw [if_pos h]
  exact ⟨rfl, rfl⟩

/-- The record of a step (R342). -/
theorem stepRecord_reads (new a b : Nat) (v : State) : let u := ((v.incSat 0x7000 6).setNum 0x7000 7 (toT96 new)).raise 192 a b
    u.ridge = v.ridge ∧ u.clock = v.clock ∧ u.graphs = v.graphs ∧ u.num 0x7000 6 = satInc 16 (v.num 0x7000 6) ∧ u.num 0x7000 7 = toT96 new % 2 ^ 96 := by
  refine ⟨by simp, by simp, by simp, ?_, ?_⟩
  · rw [num_raise _ _ _ _ _ _ _ rfl, num_setNum_far _ _ _ _ _ _ (by decide), State.incSat, num_setNum_same, sizeOf_time.2.2.1]
    refine Nat.mod_eq_of_lt ?_
    rw [satInc_eq_min]
    omega
  · rw [num_raise _ _ _ _ _ _ _ rfl, num_setNum_same, sizeOf_time.2.2.2.1]

/-- The ridge time that a step leads to (R342). -/
def steppedTo (c : Bool × Int × Nat) (s : State) : Nat :=
  ((if c.1 then c.2.1 + ((s.ridge : Int) - c.2.2) else (s.ridge : Int) + c.2.1) % (ridgeMod : Int)).toNat

/-- An accepted step acts (R342, R343): ridge time, the steps behind it, and its record. -/
theorem stepOne_reads (c : Bool × Int × Nat) (s : State) : let u := stepOne c s
    u.ridge = steppedTo c s ∧ u.clock.steps = s.clock.steps.map (fun p => (p.1, p.2.1, mv ((steppedTo c s : Int) - s.ridge) p.2.2)) ∧
      u.num 0x7000 6 = satInc 16 (s.num 0x7000 6) ∧ u.num 0x7000 7 = toT96 (steppedTo c s) % 2 ^ 96 ∧
      u.graphs.a = mvGraph ((steppedTo c s : Int) - s.ridge) s.graphs.a := by
  have hstep : stepOne c s = (((mvStamped ((steppedTo c s : Int) - s.ridge) { s with ridge := steppedTo c s, clock := { s.clock with
      lastWhole := rSecs (steppedTo c s) } }).incSat 0x7000 6).setNum 0x7000 7 (toT96 (steppedTo c s))).raise 192
        (ofInt 64 (((steppedTo c s : Int) - s.ridge) / 65536) >>> 32) (ofInt 64 (((steppedTo c s : Int) - s.ridge) / 65536) % 2 ^ 32) := rfl
  obtain ⟨hridge, hclock, hgraphs, h6, h7⟩ := stepRecord_reads (steppedTo c s) (ofInt 64 (((steppedTo c s : Int) - s.ridge) / 65536) >>> 32)
    (ofInt 64 (((steppedTo c s : Int) - s.ridge) / 65536) % 2 ^ 32)
    (mvStamped ((steppedTo c s : Int) - s.ridge) { s with ridge := steppedTo c s, clock := { s.clock with lastWhole := rSecs (steppedTo c s) } })
  rw [← hstep] at hridge hclock hgraphs h6 h7
  exact ⟨hridge, congrArg Clock.steps hclock, h6, h7, congrArg Graphs.a hgraphs⟩

/-- Synchronised set or cleared leaves holdover (R347). -/
theorem setSynced_reads (v : Bool) (s : State) : (setSynced s v).holdover = s.holdover ∧ (setSynced s v).synced = v := by
  unfold setSynced
  split
  · rename_i h
    exact ⟨rfl, h⟩
  · have hflag : ∀ m < 32, ((s.setBitO 0x7000 5 31 v).raise 198 v.toNat).bit 0x7000 5 m = if m = 31 then v else s.bit 0x7000 5 m := fun m hm => by
      rw [bit_raise _ _ _ _ _ _ _ _ rfl, bit_time_set hm]
    generalize (s.setBitO 0x7000 5 31 v).raise 198 v.toNat = u at hflag ⊢
    have h30 := hflag 30 (by decide)
    have h31 := hflag 31 (by decide)
    dsimp only
    split <;> exact ⟨h30, h31⟩

theorem holdover_of_flag {s u : State} (h : u.num 0x7000 5 = s.num 0x7000 5) : u.holdover = s.holdover := by
  simp only [State.holdover, State.bit, h]

/-- An offset used ends holdover (R346). -/
theorem useOffset_holdover (o : Int) (s : State) : (useOffset o s).holdover = false := by
  have hend : (if s.holdover then (s.setBitO 0x7000 5 30 false).raise 194 else s).holdover = false := by
    split
    · rw [State.holdover, bit_raise _ _ _ _ _ _ _ _ rfl, bit_time_set (by decide), if_pos rfl]
    · simpa using ‹¬ s.holdover = true›
  unfold useOffset
  dsimp only
  generalize (if s.holdover then (s.setBitO 0x7000 5 30 false).raise 194 else s : State) = u at hend ⊢
  have hservo : Own [.clock] [⟨0x7000, 0x7000, 2, 2⟩] u (if (!u.bit 0x7010 1 25 && !u.boot.islandDown) = true then servoStep o u else u) :=
    Own.branch (fun _ => Own.servoStep (by decide) (by decide) (Own.same u)) (fun _ => Own.same u)
  generalize (if (!u.bit 0x7010 1 25 && !u.boot.islandDown) = true then servoStep o u else u : State) = v at hservo ⊢
  have hv : v.holdover = false := (holdover_of_flag (hservo.numKept 0x7000 5 rfl rfl)).trans hend
  unfold judgeSync
  dsimp only
  split
  · split
    · exact (setSynced_reads _ _).1.trans hv
    · exact hv
  · exact (setSynced_reads _ _).1.trans hv

theorem useOffset_own (o : Int) (s : State) : Own [.clock] [⟨0x7000, 0x7000, 2, 2⟩, ⟨0x7000, 0x7000, 5, 5⟩] s (useOffset o s) :=
  Own.useOffset (by decide) (by decide) (Own.same s)

/-- Holdover begins (R346). -/
theorem beginHoldover_reads (cause : Nat) {s : State} (h : s.holdover = false) : let u := beginHoldover cause s
    u.holdover = true ∧ u.clock.holdAt = s.now ∧ u.num 0x7000 8 = toT96 s.ridge % 2 ^ 96 := by
  unfold beginHoldover
  rw [if_neg (by rw [h]; decide)]
  have hword : ∀ (w : State) (c : Clock), let u := ({ w with clock := c } : State).raise 193 cause
      u.bit 0x7000 5 30 = w.bit 0x7000 5 30 ∧ u.clock = c ∧ u.num 0x7000 8 = w.num 0x7000 8 := fun w c =>
    ⟨bit_raise _ _ _ _ _ _ _ _ rfl, by simp, num_raise _ _ _ _ _ _ _ rfl⟩
  obtain ⟨hflag, hclock, hnum⟩ := hword (((s.setBitO 0x7000 5 30 true).setBitO 0x7000 5 0 true).setNum 0x7000 8 (toT96 s.ridge)) { s.clock with holdAt := s.now }
  refine ⟨hflag.trans ?_, congrArg Clock.holdAt hclock, hnum.trans ?_⟩
  · rw [bit_setNum_far _ _ _ _ _ _ _ (by decide), bit_time_set (by decide), bit_time_set (by decide)]
    rfl
  · rw [num_setNum_same, sizeOf_time.2.2.2.2.1]

theorem timeSource_setNum_far (s : State) (v : Nat) {i j : Nat} (h : 0x7010 * 256 + 1 ≠ i * 256 + j) : (s.setNum i j v).timeSource = s.timeSource :=
  fld_setNum_far _ _ _ _ _ _ _ _ h

/-- Settles O39, command by command. -/
theorem ridgeTimeCompletes : Obligations.RidgeTimeCompletes := by
  intro s t b
  have hb : s.arrive t = b := rfl
  clear_value b
  refine ⟨fun v hv hok href => ?_, fun v hv hok href => ?_, fun v hv hok hallow => ?_, fun v hv hok hallow => ?_, fun v hv hok hallow => ?_,
    fun v hv hok hallow => ?_, fun set v r cs hsteps hdue => ?_, fun hleap hat => ?_, fun hwhole => ?_, fun v hv hsrc => ?_, fun v hv hsrc => ?_,
    fun hsrc hlate hhold => ?_, fun hsrc hhold hlong => ?_⟩
  · refine gives_of_run hb (execIncrementWrite.eq_def ..) (decide_eq_true hv) ?_
    rw [if_pos hok, num_ended _ _ _ _ rfl, writeIncrement, href, if_neg (by decide), num_setNum_same, sizeOf_time.1]
    exact Nat.mod_eq_of_lt (by omega)
  · refine gives_of_run hb (execIncrementWrite.eq_def ..) (decide_eq_true hv) ?_
    rw [if_pos hok, num_ended _ _ _ _ rfl, bit_ended _ _ _ _ _ rfl, writeIncrement, href, if_pos rfl, num_raise _ _ _ _ _ _ _ rfl,
      bit_raise _ _ _ _ _ _ _ _ rfl, bit_time_set (by decide), if_pos rfl]
    exact ⟨num_setBitO_far _ _ _ _ _ _ _ (by decide), rfl⟩
  · refine gives_of_run hb (execTimeSet.eq_def ..) (decide_eq_true hv) ?_
    rw [if_pos hok]
    exact requestStep_allowed hallow s.pending
  · refine gives_of_run hb (execTimeAdjust.eq_def ..) (decide_eq_true hv) ?_
    rw [if_pos hok]
    exact requestStep_allowed hallow s.pending
  · refine gives_of_run hb (execTimeSet.eq_def ..) (decide_eq_true hv) ?_
    rw [if_pos hok]
    exact requestStep_refused hallow s.pending
  · refine gives_of_run hb (execTimeAdjust.eq_def ..) (decide_eq_true hv) ?_
    rw [if_pos hok]
    exact requestStep_refused hallow s.pending
  · refine gives_of_run hb (execTimeStep.eq_def ..) rfl ?_
    rw [hsteps]
    dsimp only
    rw [if_pos hdue]
    obtain ⟨hridge, hclock, h6, h7, hgraph⟩ := stepOne_reads (set, v, r) { b with clock := { b.clock with steps := cs } }
    generalize stepOne (set, v, r) { b with clock := { b.clock with steps := cs } } = u at hridge hclock h6 h7 hgraph ⊢
    obtain ⟨heclock, heridge, hegraphs, -⟩ := clock_ended u s.pending
    rw [heclock, heridge, hegraphs, num_ended _ _ _ _ rfl, num_ended _ _ _ _ rfl]
    exact ⟨hridge, hclock, h6, h7, hgraph⟩
  · refine gives_of_run hb (execLeapSecond.eq_def ..) rfl ?_
    rw [if_pos (by simp [hleap, hat]), num_ended _ _ _ _ rfl, num_ended _ _ _ _ rfl, applyLeap, num_setNum_same, num_setNum_far _ _ _ _ _ _ (by decide),
      num_setNum_same, sizeOf_time.2.2.2.2.2.2.1]
    exact ⟨Nat.zero_mod _, rfl⟩
  · refine gives_of_run hb (execPpsOutPulse.eq_def ..) rfl ?_
    dsimp only
    rw [if_pos hwhole]
    obtain ⟨heclock, -, -, heout⟩ := clock_ended (if (b.ready && b.bit 0x7030 1 15 && (b.timeSource != 1 || b.synced || b.bit 0x7030 1 14)) = true then
      ({ b with clock := { b.clock with lastWhole := rSecs b.ridge } } : State).emit 1 0 (beBytes 2 (b.fld 0x7030 1 9 0) ++ beBytes 4 (b.num 0x7030 2))
      else { b with clock := { b.clock with lastWhole := rSecs b.ridge } }) s.pending
    refine ⟨(congrArg Clock.lastWhole heclock).trans ?_, heout.trans ?_⟩
    · split <;> rfl
    · split <;> rfl
  · refine gives_of_run hb (execPpsInEdge.eq_def ..) (decide_eq_true hv) ?_
    have htake : takePps v b = { b.setNum 0x7030 4 v with clock := { b.clock with ppsLast := some b.now } } := by
      unfold takePps
      exact if_neg (fun h0 => hsrc ((timeSource_setNum_far b v (by decide)).symm.trans h0))
    rw [htake, num_ended _ _ _ _ rfl, (clock_ended _ _).1]
    exact ⟨(num_setNum_same b 0x7030 4 v).trans (Nat.mod_eq_of_lt hv), rfl⟩
  · refine gives_of_run hb (execPpsInEdge.eq_def ..) (decide_eq_true hv) ?_
    intro r
    have htake : takePps v b = useOffset (r - nearestSec r) (({ b.setNum 0x7030 4 v with clock := { b.clock with ppsLast := some b.now } } : State).setNum 0x7010 7
        (ofInt 64 (r - nearestSec r)) |>.incWrap 0x7010 8) := by
      have h3 := num_setNum_far b 0x7030 4 v 0x7030 3 (by decide)
      have hr : ((ofT96 v / 65536 : Nat) : Int) - sx 32 ((b.setNum 0x7030 4 v).num 0x7030 3) = r := by rw [h3]
      unfold takePps
      rw [← hr]
      exact if_pos ((timeSource_setNum_far b v (by decide)).trans hsrc)
    have hpublished : ∀ u : State, u.num 0x7030 4 = v → u.num 0x7010 8 = b.num 0x7010 8 → ∀ o,
        let w := (u.setNum 0x7010 7 o).incWrap 0x7010 8
        w.num 0x7030 4 = v ∧ w.num 0x7010 7 = o % 2 ^ 64 ∧ w.num 0x7010 8 = (b.num 0x7010 8 + 1) % 2 ^ 32 := fun u h4 h8 o => by
      refine ⟨?_, ?_, ?_⟩
      · rw [State.incWrap, num_setNum_far _ _ _ _ _ _ (by decide), num_setNum_far _ _ _ _ _ _ (by decide), h4]
      · rw [State.incWrap, num_setNum_far _ _ _ _ _ _ (by decide), num_setNum_same, sizeOf_time.2.2.2.2.2.2.2.2.1]
      · rw [State.incWrap, num_setNum_same, num_setNum_far _ _ _ _ _ _ (by decide), h8, sizeOf_time.2.2.2.2.2.2.2.2.2]
    obtain ⟨h4, h7, h8⟩ := hpublished { b.setNum 0x7030 4 v with clock := { b.clock with ppsLast := some b.now } }
      ((num_setNum_same b 0x7030 4 v).trans (Nat.mod_eq_of_lt hv)) (num_setNum_far b 0x7030 4 v 0x7010 8 (by decide)) (ofInt 64 (r - nearestSec r))
    rw [htake]
    generalize (({ b.setNum 0x7030 4 v with clock := { b.clock with ppsLast := some b.now } } : State).setNum 0x7010 7
        (ofInt 64 (r - nearestSec r)) |>.incWrap 0x7010 8) = w at h4 h7 h8
    have hown := useOffset_own (r - nearestSec r) w
    have hend := useOffset_holdover (r - nearestSec r) w
    generalize useOffset (r - nearestSec r) w = u at hown hend ⊢
    rw [num_ended _ _ _ _ rfl, num_ended _ _ _ _ rfl, num_ended _ _ _ _ rfl, hown.numKept 0x7030 4 rfl rfl, hown.numKept 0x7010 7 rfl rfl,
      hown.numKept 0x7010 8 rfl rfl, h4, h7, h8, holdover_of_flag (num_ended _ _ _ _ rfl), hend]
    exact ⟨rfl, rfl, rfl, rfl⟩
  · refine gives_of_run hb (execPpsInTimeout.eq_def ..) rfl ?_
    rw [if_pos (by simp [hsrc, hlate])]
    obtain ⟨hh, hat, hnum⟩ := beginHoldover_reads 2 hhold
    generalize beginHoldover 2 b = u at hh hat hnum ⊢
    rw [holdover_of_flag (num_ended _ _ _ _ rfl), (clock_ended _ _).1, num_ended _ _ _ _ rfl]
    exact ⟨hh, hat, hnum⟩
  · refine gives_of_run hb (execHoldoverValidExpiry.eq_def ..) rfl ?_
    rw [if_pos (by simp [hsrc, hhold, hlong])]
    obtain ⟨hh, hs⟩ := setSynced_reads false b
    generalize setSynced b false = u at hh hs ⊢
    rw [holdover_of_flag (num_ended _ _ _ _ rfl), State.synced, bit_ended _ _ _ _ _ rfl]
    exact ⟨hs, hh.trans hhold⟩
end Sys2Proof
end

section
/-!
SUPPORT. The PTP ports, what the device sends, and the messages it answers (chapter 12).
-/
namespace Sys2Proof
open Sys2Proof.Machine

/-! ### The ports' words -/

theorem sizeOf_port : ∀ x < 2, sizeOf (0x7028 + x) 1 = 1 ∧ sizeOf (0x7028 + x) 2 = 2 ∧ sizeOf (0x7028 + x) 3 = 8 ∧ sizeOf (0x7028 + x) 4 = 4 := by decide

theorem evKey_port {x j : Nat} (hx : x < 2) (hj : j < 256) : evKey ((0x7028 + x) * 256 + j) = false := evKey_eq_false hj (by omega)

/-- A flag of PortStatus after a write to one. -/
theorem bit_port_set {x m n : Nat} (hx : x < 2) (hm : m < 16) (v : Bool) (s : State) :
    (s.setBitO (0x7028 + x) 2 n v).bit (0x7028 + x) 2 m = if m = n then v else s.bit (0x7028 + x) 2 m := by
  rw [State.bit_setBitO s v _ _ _ (by rw [(sizeOf_port x hx).2.1]; exact hm)]
  simp

theorem ptpPort_of {s u : State} (h : u.ptp = s.ptp) (x : Nat) : u.ptpPort x = s.ptpPort x := by rw [State.ptpPort, h]; rfl

theorem ptpPort_set_same (s : State) (x : Nat) (p : PtpPort) : (s.setPtpPort x p).ptpPort x = p := get_put_same ..

theorem ptpPort_set_other (s : State) {x y : Nat} (h : y ≠ x) (p : PtpPort) : (s.setPtpPort x p).ptpPort y = s.ptpPort y := get_put_other _ _ h _ _

theorem ptp_ended (s : State) (q : List Instr) : (s.ended q).ptp = s.ptp := by simp

theorem timeWords_of {s u : State} (h : u.num 0x7010 1 = s.num 0x7010 1) : u.timeRole = s.timeRole ∧ u.timeSource = s.timeSource ∧
    ∀ n, u.bit 0x7010 1 n = s.bit 0x7010 1 n := by
  refine ⟨?_, ?_, fun n => ?_⟩ <;> simp only [State.timeRole, State.timeSource, State.fld, State.bit, h]

theorem servoPort_of {s u : State} (hc : u.clock = s.clock) (h : u.num 0x6021 1 = s.num 0x6021 1) : servoPort u = servoPort s := by
  have hcontrol : u.control = s.control := by
    have h := sideWords_of h
    simp [h]
  rw [servoPort, servoPort, hc, hcontrol]

/-! ### Syncs and measurements (R344, R350 to R353) -/

/-- What a Sync leaves at its port, and, at the servo port, published (R344). -/
theorem takeSync_reads {x : Nat} (hx : x < 2) (o : Int) (s : State) : let u := takeSync x o s
    (u.ptpPort x).lastOff = some o ∧ (u.ptpPort x).missed = 0 ∧ (x = servoPort s → s.timeSource = 1 →
      u.num 0x7010 7 = ofInt 64 o % 2 ^ 64 ∧ u.num 0x7010 8 = (s.num 0x7010 8 + 1) % 2 ^ 32) := by
  unfold takeSync
  extract_lets p jump was s1 s2 x0 c s3 s4 s5 u
  have h1 : s1.ptpPort x = { p with lastOff := some o, missed := 0, inOff := p.inOff || (was && !jump) } := ptpPort_set_same _ _ _
  have hown1 : Own [.ptp] [] s s1 := Own.ptp_set (by decide) (Own.same s)
  have hown2 : Own [.ptp] [⟨0x7028, 0x7029, 2, 2⟩] s1 s2 :=
    Own.branch (fun _ => Own.enterSuspect (by decide) (by decide) hx (Own.same s1)) (fun _ => Own.leaveSuspect (by decide) hx (Own.same s1))
  have h2 : (s2.ptpPort x).lastOff = some o ∧ (s2.ptpPort x).missed = 0 := by
    have hleave : (leaveSuspect x s1).ptp = s1.ptp :=
      (Own.leaveSuspect (P := []) (G := [⟨0x7028, 0x7029, 2, 2⟩]) (by decide) hx (Own.same s1)).ptp (by decide)
    have henter : ((enterSuspect x [] s1).ptpPort x).lastOff = some o ∧ ((enterSuspect x [] s1).ptpPort x).missed = 0 := by
      unfold enterSuspect
      split
      · rw [h1]; exact ⟨rfl, rfl⟩
      · dsimp only
        rw [ptpPort_set_same, ptpPort_of (u := (s1.setBitO (0x7028 + x) 2 15 true).setBitO (0x7028 + x) 2 0 true) (s := s1) rfl, h1]
        exact ⟨rfl, rfl⟩
    show ((if jump = true then _ else _ : State).ptpPort x).lastOff = _ ∧ ((if jump = true then _ else _ : State).ptpPort x).missed = _
    split
    · exact henter
    · rw [ptpPort_of hleave, h1]; exact ⟨rfl, rfl⟩
  have hown3 : Own [.clock] [] s2 s3 := Own.branch (fun _ => Own.raise (Own.clock_set (by decide) (Own.same s2))) (fun _ => Own.same s2)
  have h3 : (s3.ptpPort x).lastOff = some o ∧ (s3.ptpPort x).missed = 0 := by rw [ptpPort_of (hown3.ptp (by decide))]; exact h2
  have hsource : s3.timeSource = s.timeSource := ((timeWords_of (hown3.numKept 0x7010 1 rfl rfl)).2.1).trans
    (((timeWords_of (hown2.numKept 0x7010 1 rfl rfl)).2.1).trans (timeWords_of (hown1.numKept 0x7010 1 rfl rfl)).2.1)
  have hservo : x = servoPort s → s3 = s2 := fun h => by
    have hsame : servoPort s2 = servoPort s := (servoPort_of (hown2.clock (by decide)) (hown2.numKept 0x6021 1 rfl rfl)).trans
      (servoPort_of (hown1.clock (by decide)) (hown1.numKept 0x6021 1 rfl rfl))
    refine if_neg ?_
    simp [x0, hsame, h]
  have hnum8 : s2.num 0x7010 8 = s.num 0x7010 8 := (hown2.numKept 0x7010 8 rfl rfl).trans (hown1.numKept 0x7010 8 rfl rfl)
  have hservo2 : x = servoPort s → servoPort s2 = servoPort s := fun _ => (servoPort_of (hown2.clock (by decide)) (hown2.numKept 0x6021 1 rfl rfl)).trans
      (servoPort_of (hown1.clock (by decide)) (hown1.numKept 0x6021 1 rfl rfl))
  have hu : u = if (decide (x = servoPort s3) && s3.timeSource == 1) = true then if portUsable s5 x = true then useOffset o s5 else checkHoldover 1 s5
      else if jump = true then checkHoldover 1 s3 else s3 := rfl
  clear_value u
  rw [hu]
  split
  · clear hu
    have h7 : s4.num 0x7010 7 = ofInt 64 o % 2 ^ 64 ∧ s4.num 0x7010 8 = (s3.num 0x7010 8 + 1) % 2 ^ 32 := by
      refine ⟨?_, ?_⟩
      · show ((s3.setNum 0x7010 7 (ofInt 64 o)).setNum 0x7010 8 _).num 0x7010 7 = _
        rw [num_setNum_far _ _ _ _ _ _ (by decide), num_setNum_same, sizeOf_time.2.2.2.2.2.2.2.2.1]
      · show ((s3.setNum 0x7010 7 (ofInt 64 o)).setNum 0x7010 8 ((s3.setNum 0x7010 7 (ofInt 64 o)).num 0x7010 8 + 1)).num 0x7010 8 = _
        rw [num_setNum_same, num_setNum_far _ _ _ _ _ _ (by decide), sizeOf_time.2.2.2.2.2.2.2.2.2]
    have hport4 : ∀ y, s4.ptpPort y = s3.ptpPort y := fun y => ptpPort_of rfl y
    have hown5 : Own [] [⟨0x7020, 0x7020, 7, 7⟩] s4 s5 := by
      show Own [] _ s4 (match portGm s4 x with | some g => s4.setNum 0x7020 7 g | none => s4)
      split
      · exact Own.setNum (by decide) (Own.same s4)
      · exact Own.same s4
    clear_value s5 s4 s3
    have hown6 : Own [.clock] [⟨0x7000, 0x7000, 2, 2⟩, ⟨0x7000, 0x7000, 5, 5⟩, ⟨0x7000, 0x7000, 8, 8⟩] s5
        (if portUsable s5 x = true then useOffset o s5 else checkHoldover 1 s5) :=
      Own.branch (fun _ => Own.useOffset (by decide) (by decide) (Own.same s5)) (fun _ => Own.checkHoldover (by decide) (by decide) (Own.same s5))
    generalize (if portUsable s5 x = true then useOffset o s5 else checkHoldover 1 s5 : State) = u at hown6 ⊢
    have hport : u.ptpPort x = s3.ptpPort x := (ptpPort_of (hown6.ptp (by decide)) x).trans ((ptpPort_of (hown5.ptp (by decide)) x).trans (hport4 x))
    rw [hport, hown6.numKept 0x7010 7 rfl rfl, hown6.numKept 0x7010 8 rfl rfl, hown5.numKept 0x7010 7 rfl rfl, hown5.numKept 0x7010 8 rfl rfl, h7.1, h7.2]
    refine ⟨h3.1, h3.2, fun hx _ => ⟨rfl, ?_⟩⟩
    rw [hservo hx, hnum8]
  · rename_i hno
    clear hu
    clear_value s5 s4 s3
    have hnot : x = servoPort s → s.timeSource = 1 → False := fun hx hsrc => by
      refine hno ?_
      have h32 := hservo hx
      rw [hsource, hsrc, h32, hservo2 hx, ← hx]
      simp
    have hown4 : Own [.clock] [⟨0x7000, 0x7000, 5, 5⟩, ⟨0x7000, 0x7000, 8, 8⟩] s3 (if jump = true then checkHoldover 1 s3 else s3) :=
      Own.branch (fun _ => Own.checkHoldover (by decide) (by decide) (Own.same s3)) (fun _ => Own.same s3)
    rw [ptpPort_of (hown4.ptp (by decide))]
    exact ⟨h3.1, h3.2, fun hx hsrc => (hnot hx hsrc).elim⟩

/-- A measurement within the threshold (R352). -/
theorem pathMeasure_within {x : Nat} (hx : x < 2) {d : Int} {s : State} (hhold : portHold s x = false) (hsus : portSuspect s x = false)
    (h : (s.ptpPort x).meas = [] ∨ (d - sx 64 (s.num (0x7028 + x) 3)).natAbs ≤ stepThreshold s x) : let u := pathMeasure x d s
    let ms := lastN 16 ((s.ptpPort x).meas ++ [d])
    (u.ptpPort x).meas = ms ∧ (u.ptpPort x).beyond = 0 ∧ u.num (0x7028 + x) 3 = ofInt 64 (meanOf ms) % 2 ^ 64 := by
  have hin : (!(s.ptpPort x).meas.isEmpty && decide (stepThreshold s x < (d - sx 64 (s.num (0x7028 + x) 3)).natAbs)) = false := by
    rcases h with h | h
    · simp [h]
    · simp only [Bool.and_eq_false_iff, decide_eq_false_iff_not]
      exact .inr (by omega)
  have hread : ∀ (p : PtpPort) (v : Nat), let u := (s.setPtpPort x p).setNum (0x7028 + x) 3 v
      u.ptpPort x = p ∧ u.num (0x7028 + x) 3 = v % 2 ^ 64 := fun p v =>
    ⟨ptpPort_set_same s x p, (num_setNum_same _ _ _ _).trans (by rw [(sizeOf_port x hx).2.2.1])⟩
  unfold pathMeasure
  simp only [hhold, hsus, hin, Bool.false_eq_true, if_false]
  obtain ⟨hp, hn⟩ := hread { s.ptpPort x with beyond := 0, meas := lastN 16 ((s.ptpPort x).meas ++ [d]) } (ofInt 64 (meanOf (lastN 16 ((s.ptpPort x).meas ++ [d]))))
  rw [hp]
  exact ⟨rfl, rfl, hn⟩

/-- A measurement beyond it (R352, R353). -/
theorem pathMeasure_beyond {x : Nat} (hx : x < 2) {d : Int} {s : State} (hhold : portHold s x = false) (hne : (s.ptpPort x).meas ≠ [])
    (h : stepThreshold s x < (d - sx 64 (s.num (0x7028 + x) 3)).natAbs) : let u := pathMeasure x d s
    portSuspect u x = true ∧ (u.ptpPort x).beyond = (s.ptpPort x).beyond + 1 ∧ ((s.ptpPort x).beyond = 2 → portHold u x = true) := by
  have hout : (!(s.ptpPort x).meas.isEmpty && decide (stepThreshold s x < (d - sx 64 (s.num (0x7028 + x) 3)).natAbs)) = true := by
    rw [Bool.and_eq_true]
    exact ⟨by simpa using hne, decide_eq_true h⟩
  unfold pathMeasure
  simp only [hhold, hout, Bool.false_eq_true, if_false, if_true]
  have hsus : portSuspect (if portSuspect s x = true then s.setPtpPort x { s.ptpPort x with sinceSuspect := (s.ptpPort x).sinceSuspect ++ [d] }
      else enterSuspect x [d] s) x = true := by
    by_cases hs : portSuspect s x = true
    · rw [if_pos hs]; exact hs
    · rw [if_neg hs, enterSuspect, if_neg hs]
      show ((s.setBitO (0x7028 + x) 2 15 true).setBitO (0x7028 + x) 2 0 true).bit (0x7028 + x) 2 15 = true
      rw [bit_port_set hx (by decide), bit_port_set hx (by decide)]
      rfl
  generalize (if portSuspect s x = true then s.setPtpPort x { s.ptpPort x with sinceSuspect := (s.ptpPort x).sinceSuspect ++ [d] }
      else enterSuspect x [d] s : State) = u at hsus ⊢
  have hcheck : ∀ (v : State) c, (checkHoldover c v).ptp = v.ptp ∧ (checkHoldover c v).num (0x7028 + x) 2 = v.num (0x7028 + x) 2 := fun v c => by
    have hown : Own [.clock] [⟨0x7000, 0x7000, 5, 5⟩, ⟨0x7000, 0x7000, 8, 8⟩] v (checkHoldover c v) :=
      Own.checkHoldover (by decide) (by decide) (Own.same v)
    exact ⟨hown.ptp (by decide), hown.numKept _ _ (evKey_port hx (by decide)) (by rcases (by omega : x = 0 ∨ x = 1) with rfl | rfl <;> rfl)⟩
  have hset : ∀ p, (u.setPtpPort x p).ptpPort x = p ∧ ∀ n, (u.setPtpPort x p).bit (0x7028 + x) 2 n = u.bit (0x7028 + x) 2 n :=
    fun p => ⟨ptpPort_set_same u x p, fun _ => rfl⟩
  obtain ⟨hp, hw⟩ := hset { u.ptpPort x with beyond := (s.ptpPort x).beyond + 1 }
  generalize u.setPtpPort x { u.ptpPort x with beyond := (s.ptpPort x).beyond + 1 } = v at hp hw ⊢
  have hbits : ∀ (w : State) c n, (checkHoldover c w).bit (0x7028 + x) 2 n = w.bit (0x7028 + x) 2 n := fun w c n => by
    simp only [State.bit, (hcheck w c).2]
  split
  · have hflag : ∀ m < 16, (((v.setBitO (0x7028 + x) 2 14 true).setBitO (0x7028 + x) 2 1 true).raise 195 x).bit (0x7028 + x) 2 m =
        if m = 1 then true else if m = 14 then true else v.bit (0x7028 + x) 2 m := fun m hm => by
      rw [bit_raise _ _ _ _ _ _ _ _ (evKey_port hx (by decide)), bit_port_set hx hm, bit_port_set hx hm]
    have hptp : (((v.setBitO (0x7028 + x) 2 14 true).setBitO (0x7028 + x) 2 1 true).raise 195 x).ptp = v.ptp := by simp
    generalize ((v.setBitO (0x7028 + x) 2 14 true).setBitO (0x7028 + x) 2 1 true).raise 195 x = w at hflag hptp ⊢
    rw [ptpPort_of ((hcheck w _).1), ptpPort_of hptp, hp, portSuspect, portHold, hbits, hbits, hflag 15 (by decide), hflag 14 (by decide), hw]
    exact ⟨hsus, rfl, fun _ => rfl⟩
  · rename_i hno
    rw [ptpPort_of ((hcheck v 1).1), hp, portSuspect, hbits, hw]
    exact ⟨hsus, rfl, fun h2 => absurd (by omega) hno⟩

/-! ### Masters (R346, R348, R349) -/

theorem setPortState_reads {x v : Nat} (hx : x < 2) (hv : v < 256) (s : State) : portState (setPortState s x v) x = v ∧
    ∀ y < 2, y ≠ x → portState (setPortState s x v) y = portState s y := by
  unfold setPortState
  split
  · rename_i h; exact ⟨h, fun _ _ _ => rfl⟩
  · have hkey := fun y (hy : y < 2) => evKey_port (j := 1) hy (by decide)
    refine ⟨?_, fun y hy hyx => ?_⟩
    · rw [portState, num_raise _ _ _ _ _ _ _ (hkey x hx), num_setNum_same, (sizeOf_port x hx).1]
      exact Nat.mod_eq_of_lt hv
    · rw [portState, num_raise _ _ _ _ _ _ _ (hkey y hy), num_setNum_far _ _ _ _ _ _ (by omega)]
      rfl

/-- A port takes the state of its role (R348): that of a slaveOnly port. -/
theorem portsByRole_slave {s : State} (hrole : s.timeRole = 2) {x : Nat} (hx : x < 2) :
    portState (portsByRole s) x = if ((s.ptpPort x).master).isSome then 9 else 4 := by
  have hst : ∀ m : Bool, (if m then 9 else 4) < 256 := by decide
  have hrole2 : (setPortState s 0 (if ((s.ptpPort 0).master).isSome = true then 9 else 4)).timeRole = 2 :=
    ((timeWords_of ((Own.setPortState (P := []) (G := [⟨0x7028, 0x7029, 1, 1⟩]) (by decide) (by decide) (Own.same s)).numKept 0x7010 1 rfl rfl)).1).trans hrole
  have hports : (setPortState s 0 (if ((s.ptpPort 0).master).isSome = true then 9 else 4)).ptpPort 1 = s.ptpPort 1 :=
    ptpPort_of ((Own.setPortState (P := []) (G := [⟨0x7028, 0x7029, 1, 1⟩]) (by decide) (by decide) (Own.same s)).ptp (by decide)) 1
  have hroles : portsByRole s = setPortState (setPortState s 0 (if ((s.ptpPort 0).master).isSome = true then 9 else 4)) 1
      (if ((s.ptpPort 1).master).isSome = true then 9 else 4) := by
    unfold portsByRole
    simp only [hrole, hrole2, hports, show ¬ (2 : Nat) = 1 by decide, if_false, if_true]
  obtain ⟨h0, -⟩ := setPortState_reads (x := 0) (by decide) (hst ((s.ptpPort 0).master).isSome) s
  rw [hroles]
  generalize setPortState s 0 (if ((s.ptpPort 0).master).isSome = true then 9 else 4) = u at h0
  obtain ⟨h1, hother⟩ := setPortState_reads (x := 1) (by decide) (hst ((s.ptpPort 1).master).isSome) u
  rcases (by omega : x = 0 ∨ x = 1) with rfl | rfl
  · exact (hother 0 (by decide) (by decide)).trans h0
  · exact h1

theorem portsByRole_own (s : State) : Own [] [⟨0x7028, 0x7029, 1, 1⟩] s (portsByRole s) := Own.portsByRole (by decide) (Own.same s)

theorem bit_port_own {P : List Part} {G : List Objs} {s u : State} {x : Nat} (h : Own P G s u) (hx : x < 2)
    (hg : ∀ y < 2, G.any (·.has ((0x7028 + y) * 256 + 2)) = false) (n : Nat) : u.bit (0x7028 + x) 2 n = s.bit (0x7028 + x) 2 n := by
  simp only [State.bit, h.numKept _ _ (evKey_port hx (by decide)) (hg x hx)]

/-- An Announce at a port (R349). -/
theorem takeAnnounce_reads {x : Nat} (hx : x < 2) (ds : List Nat) (s : State) : let u := takeAnnounce x ds s
    (u.ptpPort x).master = some (match (s.ptpPort x).master with
      | none => ds
      | some old => if nth 0 old 7 = nth 0 ds 7 ∨ dsBetter ds old = true then ds else old) ∧
      (u.ptpPort x).lastAnnounce = s.now ∧ u.bit (0x7028 + x) 2 13 = true ∧ (s.timeRole = 2 → portState u x = 9) := by
  unfold takeAnnounce
  extract_lets p m v u
  have hu : u = portsByRole (v.setBitO (0x7028 + x) 2 13 true) := rfl
  rw [hu]
  clear hu
  have hm : m = match (s.ptpPort x).master with
      | none => ds
      | some old => if nth 0 old 7 = nth 0 ds 7 ∨ dsBetter ds old = true then ds else old := by
    show (match (s.ptpPort x).master with | some old => _ | none => ds) = _
    cases (s.ptpPort x).master with
    | none => rfl
    | some old => simp only [Bool.or_eq_true, decide_eq_true_eq]
  have hv : (v.setBitO (0x7028 + x) 2 13 true).ptpPort x = { p with master := some m, gm := m[0]?, lastAnnounce := s.now, missed := 0 } :=
    (ptpPort_of rfl x).trans (ptpPort_set_same _ _ _)
  have hbit : (v.setBitO (0x7028 + x) 2 13 true).bit (0x7028 + x) 2 13 = true := by rw [bit_port_set hx (by decide), if_pos rfl]
  have hrole : (v.setBitO (0x7028 + x) 2 13 true).timeRole = s.timeRole := (timeWords_of (num_setBitO_far _ _ _ _ _ _ _ (by omega))).1
  generalize v.setBitO (0x7028 + x) 2 13 true = w at hv hbit hrole ⊢
  have hown := portsByRole_own w
  have hslave := fun h => portsByRole_slave (s := w) h hx
  rw [ptpPort_of (hown.ptp (by decide)), hv, bit_port_own hown hx (by decide), ← hm]
  refine ⟨rfl, rfl, hbit, fun h2 => ?_⟩
  rw [hslave (hrole.trans h2), hv]
  rfl

/-- The master of a port is lost (R346). -/
theorem loseMaster_reads {x : Nat} (hx : x < 2) (s : State) : let u := loseMaster x s
    (u.ptpPort x).master = none ∧ u.bit (0x7028 + x) 2 13 = false ∧ (s.timeRole = 2 → portState u x = 4) := by
  unfold loseMaster
  extract_lets q v u
  have hu : u = checkHoldover 1 (portsByRole (v.setBitO (0x7028 + x) 2 13 false)) := rfl
  rw [hu]
  clear hu
  have hv : (v.setBitO (0x7028 + x) 2 13 false).ptpPort x = { s.ptpPort x with master := none, lastOff := none } :=
    (ptpPort_of rfl x).trans (ptpPort_set_same _ _ _)
  have hbit : (v.setBitO (0x7028 + x) 2 13 false).bit (0x7028 + x) 2 13 = false := by rw [bit_port_set hx (by decide), if_pos rfl]
  have hrole : (v.setBitO (0x7028 + x) 2 13 false).timeRole = s.timeRole := (timeWords_of (num_setBitO_far _ _ _ _ _ _ _ (by omega))).1
  generalize v.setBitO (0x7028 + x) 2 13 false = w at hv hbit hrole ⊢
  have hown := (portsByRole_own w)
  have hslave := fun h => portsByRole_slave (s := w) h hx
  have hcheck : Own [.clock] [⟨0x7000, 0x7000, 5, 5⟩, ⟨0x7000, 0x7000, 8, 8⟩] (portsByRole w) (checkHoldover 1 (portsByRole w)) :=
    Own.checkHoldover (by decide) (by decide) (Own.same _)
  rw [ptpPort_of (hcheck.ptp (by decide)), ptpPort_of (hown.ptp (by decide)), hv, bit_port_own hcheck hx (by decide), bit_port_own hown hx (by decide)]
  refine ⟨rfl, hbit, fun h2 => ?_⟩
  rw [portState, hcheck.numKept _ _ (evKey_port hx (by decide)) (by rcases (by omega : x = 0 ∨ x = 1) with rfl | rfl <;> rfl)]
  exact (hslave (hrole.trans h2)).trans (by rw [hv]; rfl)

/-- Path-step hold ends with a held value (R353). -/
theorem endPathHold_reads {x : Nat} (hx : x < 2) (way : Nat) (held : Int) (s : State) : let u := endPathHold x way held s
    portHold u x = false ∧ portSuspect u x = false ∧ (u.ptpPort x).lastOff = none ∧ u.num (0x7028 + x) 4 = s.num (0x7028 + x) 4 ∧
      u.num (0x7028 + x) 3 = ofInt 64 held % 2 ^ 64 := by
  unfold endPathHold
  extract_lets p v
  have hbit : ∀ m < 16, v.bit (0x7028 + x) 2 m = if m = 15 then false else if m = 14 then false else s.bit (0x7028 + x) 2 m := fun m hm => by
    show (((s.setBitO (0x7028 + x) 2 14 false).setBitO (0x7028 + x) 2 15 false).setNum (0x7028 + x) 3 (ofInt 64 held)).bit (0x7028 + x) 2 m = _
    rw [bit_setNum_far _ _ _ _ _ _ _ (by omega), bit_port_set hx hm, bit_port_set hx hm]
  have hnum : v.num (0x7028 + x) 4 = s.num (0x7028 + x) 4 ∧ v.num (0x7028 + x) 3 = ofInt 64 held % 2 ^ 64 := by
    refine ⟨?_, ?_⟩
    · show (((s.setBitO (0x7028 + x) 2 14 false).setBitO (0x7028 + x) 2 15 false).setNum (0x7028 + x) 3 (ofInt 64 held)).num (0x7028 + x) 4 = _
      rw [num_setNum_far _ _ _ _ _ _ (by omega), num_setBitO_far _ _ _ _ _ _ _ (by omega), num_setBitO_far _ _ _ _ _ _ _ (by omega)]
    · refine (num_setNum_same _ _ _ _).trans ?_
      rw [(sizeOf_port x hx).2.2.1]
  clear_value v
  have hport : ∀ q, ((v.setPtpPort x q).raise 196 x way).ptpPort x = q := fun q => (ptpPort_of (by simp) x).trans (ptpPort_set_same v x q)
  have hkey := fun j (hj : j < 256) => evKey_port hx hj
  rw [hport, portHold, portSuspect, bit_raise _ _ _ _ _ _ _ _ (hkey 2 (by decide)), bit_raise _ _ _ _ _ _ _ _ (hkey 2 (by decide)),
    num_raise _ _ _ _ _ _ _ (hkey 4 (by decide)), num_raise _ _ _ _ _ _ _ (hkey 3 (by decide))]
  have h14 := hbit 14 (by decide)
  have h15 := hbit 15 (by decide)
  exact ⟨h14, h15, rfl, hnum⟩

/-! ### Messages sent (R278, R348, R351) -/

/-- The state under the next trailer number (R278). -/
def retagged (b : State) : State := { b with net := { b.net with redSeq := (b.net.redSeq + 1) % 65536 } }

/-- The bytes of a PTP message on a port. -/
def ptpFrame (b : State) (kind : Nat) (body : List Nat) (seq p : Nat) : List Nat :=
  ptpTransport b (kind != 4 && kind != 22) ++ [0] ++ beBytes 1 (b.fld 0x7010 1 23 16) ++ beBytes 2 seq ++ beBytes 8 (b.num 0x7020 1) ++
    beBytes 12 (toT96 (portStamp b (b.num (0x7028 + p) 6))) ++ frameTag (retagged b) (b.fld 0x1010 5 6 4) p ++ body

/-- A state in which messages leave as from another under its next trailer number. -/
structure Sending (b v : State) : Prop where
  own : Own [.ptp, .net, .out] [] b v
  tag : v.net.redSeq = (b.net.redSeq + 1) % 65536

theorem Sending.num {b v : State} (h : Sending b v) {i j : Nat} (he : evKey (i * 256 + j) = false) : v.num i j = b.num i j := h.own.numKept i j he rfl

theorem Sending.start (b : State) : Sending b (retagged b) := ⟨Own.net_set (by decide) (Own.same b), rfl⟩

theorem Sending.stamp {b v : State} (h : Sending b v) (l : Nat) : portStamp v l = portStamp b l := by
  simp only [portStamp, ridgeAt, h.num (i := 0x7000) (j := 2) rfl, h.own.now (by decide), h.own.time (by decide)]

theorem Sending.frame {b v : State} (h : Sending b v) {p : Nat} (hp : p < 2) (kind : Nat) (body : List Nat) (seq : Nat) :
    ptpTransport v (kind != 4 && kind != 22) ++ [0] ++ beBytes 1 (v.fld 0x7010 1 23 16) ++ beBytes 2 seq ++ beBytes 8 (v.num 0x7020 1) ++
      beBytes 12 (toT96 (portStamp v (v.num (0x7028 + p) 6))) ++ frameTag v (v.fld 0x1010 5 6 4) p ++ body = ptpFrame b kind body seq p := by
  have hred : (retagged b).net.redSeq = (b.net.redSeq + 1) % 65536 := rfl
  have htag : ∀ i j, (retagged b).num i j = b.num i j := fun i j => rfl
  simp only [ptpFrame, ptpTransport, frameTag, State.fld, State.bit, h.num (i := 0x7010) (j := 1) rfl, h.num (i := 0x7020) (j := 1) rfl,
    h.num (i := 0x1010) (j := 5) rfl, h.num (i := 0x1020) (j := 1) rfl, h.num (evKey_port hp (show 6 < 256 by decide)), h.stamp, h.tag, hred, htag] <;> rfl

/-- A message leaves one port (R351). -/
theorem sendPtpPort_reads {b v : State} (h : Sending b v) {p : Nat} (hp : p < 2) (kind : Nat) (body : List Nat) (seq : Nat) :
    let u := sendPtpPort kind p seq body v
    Sending b u ∧ u.ptp = v.ptp ∧ u.out = v.out ++ [⟨kind, p, ptpFrame b kind body seq p⟩] := by
  unfold sendPtpPort
  extract_lets w u
  have hline : Own [.net] [] v w := Own.countEvent (Own.takeLineTime (by decide) (Own.same v))
  have hred : w.net.redSeq = v.net.redSeq :=
    congrArg (fun n => n.redSeq) (countEvent_same p 0x13 1 0 (takeLineTime p (if v.bit 0x7010 1 28 then 90 else 118) v)).net
  have hw : Sending b w := ⟨h.own.step (Own.countEvent (Own.takeLineTime (by decide) (Own.same v))), hred.trans h.tag⟩
  have hframe := hw.frame hp kind body seq
  refine ⟨⟨hw.own.step (Own.emit (by decide) (Own.same w)), hw.tag⟩, hline.ptp (by decide), ?_⟩
  show w.out ++ [⟨kind, p, _⟩] = _
  rw [hframe, hline.out (by decide)]

/-- One port of a message sent by the device: the message, and its port's next sequence number. -/
theorem sendOne_reads {b v : State} (h : Sending b v) {p : Nat} (hp : p < 2) (kind : Nat) (body : List Nat) (seq n : Nat) :
    let u := sendPtpPort kind p seq body (v.setPtpPort p { v.ptpPort p with seqId := n })
    Sending b u ∧ (u.ptpPort p).seqId = n ∧ (∀ y, y ≠ p → u.ptpPort y = v.ptpPort y) ∧ u.out = v.out ++ [⟨kind, p, ptpFrame b kind body seq p⟩] := by
  have hset : Sending b (v.setPtpPort p { v.ptpPort p with seqId := n }) := ⟨h.own.step (Own.ptp_set (by decide) (Own.same v)), h.tag⟩
  obtain ⟨hsend, hptp, hout⟩ := sendPtpPort_reads hset hp kind body seq
  refine ⟨hsend, ?_, fun y hy => ?_, hout⟩
  · rw [ptpPort_of hptp, ptpPort_set_same]
  · rw [ptpPort_of hptp, ptpPort_set_other _ hy]

theorem portUp_own {b v : State} (h : Sending b v) (p : Nat) : portUp v p = portUp b p := by
  simp only [portUp, State.feeds, sideState_of (h.num (i := 0x6021) (j := 1) rfl)]

/-- A message of the device (R278, R348): on every served port of a GRANDMASTER, and else on its own. -/
theorem sendPtp_reads (b : State) {x : Nat} (hx : x < 2) (kind : Nat) (body : List Nat) :
    let u := sendPtp kind x body b
    let seq := (b.ptpPort x).seqId
    let ports := if b.timeRole = 1 then (List.range 2).filter (portUp b) else [x]
    u.out = b.out ++ ports.map (fun p => ⟨kind, p, ptpFrame b kind body seq p⟩) ∧ ∀ p ∈ ports, (u.ptpPort p).seqId = (seq + 1) % 65536 := by
  have hstart := Sending.start b
  have hrole : (retagged b).timeRole = b.timeRole := rfl
  have hsend : sendPtp kind x body b = if (retagged b).timeRole = 1 then forN 2 (fun p s => if portUp s p then
      sendPtpPort kind p (b.ptpPort x).seqId body (s.setPtpPort p { s.ptpPort p with seqId := ((b.ptpPort x).seqId + 1) % 65536 }) else s) (retagged b)
      else sendPtpPort kind x (b.ptpPort x).seqId body ((retagged b).setPtpPort x { (retagged b).ptpPort x with seqId := ((b.ptpPort x).seqId + 1) % 65536 }) := rfl
  have hout : (retagged b).out = b.out := rfl
  dsimp only
  rw [hsend, hrole]
  generalize (b.ptpPort x).seqId = seq
  generalize retagged b = v at hstart hout
  by_cases h1 : b.timeRole = 1
  · rw [if_pos h1, if_pos h1]
    have hup := portUp_own hstart
    have hfor : ∀ f : Nat → State → State, forN 2 f v = f 1 (f 0 v) := fun f => rfl
    rw [hfor]
    by_cases h0 : portUp b 0 = true
    · rw [if_pos ((hup 0).trans h0)]
      obtain ⟨hs0, hq0, hother0, ho0⟩ := sendOne_reads hstart (p := 0) (by decide) kind body seq ((seq + 1) % 65536)
      generalize sendPtpPort kind 0 seq body (v.setPtpPort 0 { v.ptpPort 0 with seqId := (seq + 1) % 65536 }) = w at hs0 hq0 ho0 ⊢
      by_cases h11 : portUp b 1 = true
      · rw [if_pos ((portUp_own hs0 1).trans h11)]
        obtain ⟨-, hq1, hother1, ho1⟩ := sendOne_reads hs0 (p := 1) (by decide) kind body seq ((seq + 1) % 65536)
        rw [ho1, ho0, hout]
        simp [List.range, List.range.loop, h0, h11, hq1, hother1 0 (by decide), hq0]
      · rw [if_neg (fun h => h11 ((portUp_own hs0 1).symm.trans h)), ho0, hout]
        simp [List.range, List.range.loop, h0, h11, hq0]
    · rw [if_neg (fun h => h0 ((hup 0).symm.trans h))]
      by_cases h11 : portUp b 1 = true
      · rw [if_pos ((hup 1).trans h11)]
        obtain ⟨-, hq1, -, ho1⟩ := sendOne_reads hstart (p := 1) (by decide) kind body seq ((seq + 1) % 65536)
        rw [ho1, hout]
        simp [List.range, List.range.loop, h0, h11, hq1]
      · rw [if_neg (fun h => h11 ((hup 1).symm.trans h)), hout]
        simp [List.range, List.range.loop, h0, h11]
  · rw [if_neg h1, if_neg h1]
    obtain ⟨-, hq, -, ho⟩ := sendOne_reads hstart hx kind body seq ((seq + 1) % 65536)
    rw [ho, hout]
    exact ⟨rfl, fun p hp => by rw [List.mem_singleton.1 hp, hq]⟩

/-! ### What the device sends only adds to what it has sent -/

/-- Messages have been added, none taken back. -/
def Grows (s u : State) : Prop := ∃ l, u.out = s.out ++ l

/-- Every part but time and what is sent. -/
abbrev silentParts : List Part := [.meas, .graphs, .gf, .plate, .pairs, .stacks, .sides, .safety, .sharing, .ptp, .clock, .plls, .capture,
  .scribe, .net, .boot, .free]

/-- An operation that sends nothing. -/
abbrev Silent (s u : State) : Prop := Own silentParts allObjs s u

theorem silent_commandWrite {w : Sender} {i j v : Nat} {b : List Nat} {s : State} (hj : j < 256) : Silent s (commandWrite w i j v b s) := by
  have hflags : ∀ {i j v m : Nat}, i * 256 + j < 2 ^ 24 → Silent s (clearFlags i j v m s) := fun h => Own.setNum (Own.hit_any h) (Own.same s)
  have hclock : ∀ v, Silent s (refSwitch v s) := fun v => by apply Own.refSwitch <;> first | decide | exact Own.same s
  have himage : ∀ v, Silent s (imageCommand v s) := fun v => by
    unfold imageCommand
    refine Own.branch (fun _ => ?_) (fun _ => Own.branch (fun _ => ?_) (fun _ => Own.branch (fun _ => ?_) (fun _ => Own.same s)))
    · apply Own.verifySlot <;> first | decide | exact Own.same s
    · apply Own.switchSlot <;> first | decide | exact Own.same s
    · apply Own.discardSlot <;> first | decide | exact Own.same s
  unfold commandWrite
  repeat' first
    | with_reducible exact Own.same _ | with_reducible exact hclock _ | with_reducible exact himage _
    | with_reducible refine Own.branch (fun hc => ?_) (fun hc => ?_)
    | with_reducible apply Own.countClear | with_reducible apply Own.bankSwap | with_reducible apply Own.sweepSwaps | with_reducible apply Own.syncWrite
    | with_reducible apply Own.switchRequest | with_reducible apply Own.swapRequest | with_reducible apply Own.stampCommand
    | with_reducible apply Own.gfCommandWrite | with_reducible apply Own.updateCommitWrite | with_reducible apply Own.carrierStartWrite
    | with_reducible apply Own.carrierStopWrite | with_reducible apply Own.tripRelease | with_reducible apply Own.enterCommission
    | with_reducible apply Own.leaveCommission | with_reducible apply Own.sideCommand | with_reducible apply Own.requestStep
    | with_reducible apply Own.confirmPath | with_reducible apply Own.clkCommand | with_reducible apply Own.captureCommandWrite
    | with_reducible apply Own.seedHours | with_reducible apply Own.seedCycles | with_reducible apply Own.scribeNote
    | with_reducible apply Own.histogramClear | with_reducible apply Own.counterCommandWrite | with_reducible apply Own.stackCommandWrite
    | with_reducible apply Own.bootCommandWrite | with_reducible apply Own.writePart
    | decide | omega | (simp only [inR, Bool.and_eq_true, decide_eq_true_eq] at *; omega)

namespace Grows

theorem same (s : State) : Grows s s := ⟨[], (List.append_nil _).symm⟩

theorem trans {a b c : State} (h : Grows a b) (g : Grows b c) : Grows a c := by
  obtain ⟨l, hl⟩ := h
  obtain ⟨m, hm⟩ := g
  exact ⟨l ++ m, by rw [hm, hl, List.append_assoc]⟩

theorem of_out {s u : State} (h : u.out = s.out) : Grows s u := ⟨[], by rw [h, List.append_nil]⟩

theorem silent {s u : State} (h : Silent s u) : Grows s u := of_out (h.out (by decide))

theorem branch {s a b : State} {c : Prop} [Decidable c] (ha : c → Grows s a) (hb : ¬ c → Grows s b) : Grows s (if c then a else b) := by
  split
  · exact ha ‹_›
  · exact hb ‹_›

theorem branch2 {α : Type} {s : State} {a b : α × State} {c : Prop} [Decidable c] (ha : c → Grows s a.2) (hb : ¬ c → Grows s b.2) :
    Grows s (if c then a else b).2 := by
  split
  · exact ha ‹_›
  · exact hb ‹_›

theorem forN {n : Nat} {f : Nat → State → State} (hf : ∀ i v, Grows v (f i v)) (s : State) : Grows s (Machine.forN n f s) := by
  unfold Machine.forN
  generalize List.range n = l
  induction l generalizing s with
  | nil => exact same s
  | cons a l ih => exact (hf a s).trans (ih _)

theorem emit (s : State) (kind dest : Nat) (data : List Nat) : Grows s (s.emit kind dest data) := ⟨_, rfl⟩

/-! #### Writes -/

theorem immWrite (i j v : Nat) (b : List Nat) (o : ObjRow) (s : State) : Grows s (immWrite i j v b o s) := by
  unfold Machine.immWrite
  refine branch (fun _ => silent (Own.pendingClear (by decide) (Own.same s))) (fun _ => branch (fun h => silent ?_) (fun _ => branch (fun h => silent ?_)
    (fun _ => branch (fun _ => silent (Own.overrideWrite (by decide) (by decide) (Own.same s))) (fun _ => branch (fun _ => silent (Own.writeSout (by decide) (by decide) (Own.same s)))
    (fun _ => branch (fun _ => silent (Own.writeIncrement (by decide) (Own.same s))) (fun _ => branch (fun h => ?_) (fun _ =>
    branch (fun _ => silent (Own.writeUtcOffset (by decide) (by decide) (Own.same s))) (fun _ => branch (fun _ => silent (Own.stampCounter (by decide) (Own.same s)))
    (fun _ => of_out rfl)))))))))
  · exact Own.shadowWriteOp (by decide) (by decide) (Own.same s)
  · simp only [Bool.and_eq_true, decide_eq_true_eq] at h
    exact Own.disableWrite (by decide) (by decide) (by omega) (Own.same s)
  · exact (of_out (u := clearFlags i j v o.w1c s) rfl).trans (silent (Own.writeTimeValid (by decide) (by decide) (Own.same _)))

theorem setCommand (w : Sender) (v : Nat) (s : State) : Grows s (setCommand w v s).2 := by
  unfold Machine.setCommand
  split
  · exact silent (Own.beginSet (by decide) (Own.same s))
  · exact silent (Own.commitSet (by decide) (Own.same s))
  · exact silent (Own.abortSet (by decide) (Own.same s))

theorem writeChecked (w : Sender) (k : Nat) (o : ObjRow) (l : List Nat) (s : State) : Grows s (writeChecked w k o l s).2 := by
  unfold Machine.writeChecked
  dsimp only
  split
  · exact same s
  · exact branch2 (fun _ => setCommand w _ s) (fun _ => silent (silent_commandWrite (by omega)))
  · exact branch2 (fun _ => silent (Own.immRefused (by decide) (by decide) (Own.same s))) (fun _ => immWrite _ _ _ _ _ s)
  · exact silent (Own.perWrite (by decide) (Own.same s))
  · exact silent (Own.stage (by decide) (Own.same s))

theorem writeObj (w : Sender) (k : Nat) (l : List Nat) (s : State) : Grows s (writeObj w k l s).2 := by
  unfold Machine.writeObj
  dsimp only
  split
  · exact same s
  · exact branch2 (fun _ => same s) (fun _ => branch2 (fun _ => same s) (fun _ => writeChecked _ _ _ _ s))

theorem putSeg (r k : Nat) (q : Option SegWrite) (s : State) : Grows s (putSeg r k q s) := silent (Own.putSeg (by decide) (Own.same s))

theorem writeSegment (w : Sender) (k a b n : Nat) (o : ObjRow) (l : List Nat) (s : State) : Grows s (writeSegment w k a b n o l s).2 := by
  unfold Machine.writeSegment
  have hdrop : ∀ q (m : Nat), Grows s (m, Machine.putSeg w.reader k q s).2 := fun q _ => putSeg _ _ q s
  dsimp only
  split
  · exact hdrop _ 0
  · exact branch2 (fun _ => hdrop _ _) (fun _ => branch2 (fun _ => hdrop _ _) (fun _ => branch2 (fun _ => (putSeg _ _ _ s).trans (writeChecked _ _ _ _ _))
      (fun _ => silent (Own.modSet (by decide) (Own.putSeg (by decide) (Own.same s))))))

theorem writeItem (w : Sender) (k a n : Nat) (l : List Nat) (s : State) : Grows s (writeItem w k a n l s).2 := by
  unfold Machine.writeItem
  dsimp only
  split
  · exact same s
  · exact branch2 (fun _ => same s) (fun _ => branch2 (fun _ => same s) (fun _ => branch2 (fun _ => writeObj _ _ _ s) (fun _ => writeSegment _ _ _ _ _ _ _ s)))

theorem writeItems (w : Sender) (l : List Item) (n : Nat) (s : State) : Grows s (writeItems w l n s).2.2 := by
  induction l generalizing n s with
  | nil => exact same s
  | cons q l ih => exact (writeItem _ _ _ _ _ s).trans (ih _ _)

/-! #### Answers and messages -/

theorem frameOut (len : Nat) (s : State) : Grows s (s.frameOut len) := by
  unfold State.frameOut
  refine trans (⟨portFrames { s with net := { s.net with redSeq := (s.net.redSeq + 1) % 65536 } }, rfl⟩ : Grows s { s with
    net := { s.net with redSeq := (s.net.redSeq + 1) % 65536 }, out := s.out ++ portFrames { s with net := { s.net with redSeq := (s.net.redSeq + 1) % 65536 } } })
    (forN (fun p v => branch (fun _ => silent (Own.countEvent (Own.takeLineTime (by decide) (Own.same v)))) (fun _ => same v)) _)

theorem sendSot (kind dest : Nat) (boot : Bool) (m : List Nat) (s : State) : Grows s (s.sendSot kind dest boot m) := by
  unfold State.sendSot
  exact branch (fun _ => of_out rfl) (fun _ => branch (fun _ => (emit s kind dest m).trans (frameOut _ _)) (fun _ => same s))

theorem sendSession (kind type sid ref : Nat) (body : List Nat) (s : State) : Grows s (s.sendSession kind type sid ref body) := by
  unfold State.sendSession
  split
  · exact same s
  · refine trans ?_ (sendSot _ _ _ _ _)
    exact of_out rfl

theorem answerBare (m : Msg) (body : List Nat) (s : State) : Grows s (answerBare m body s) := sendSot _ _ _ _ s

theorem answer (m : Msg) (sid : Nat) (body : List Nat) (s : State) : Grows s (answer m sid body s) := by
  unfold Machine.answer
  exact branch (fun _ => answerBare m body s) (fun _ => sendSession _ _ _ _ _ s)

theorem serve (m : Msg) (w : Sender) (sid : Nat) (s : State) : Grows s (serve m w sid s) := by
  unfold Machine.serve
  dsimp only
  split
  · exact (answer m sid [0] s).trans (silent (Own.closeSession (by decide) (by decide) (Own.same _)))
  · exact trans (b := (Machine.readItems w.reader ((itemsOf m).getD []) (sizeMax m.path - 63) s).2)
      (silent (Own.readItems (by decide) (by decide) (by decide) (Own.same s))) (answer _ _ _ _)
  · split
    · exact (writeItems _ _ _ s).trans (silent (Own.modSet (by decide) (Own.same _)))
    · exact (writeItems _ _ _ s).trans (answer _ _ _ _)
  · exact answer m sid [0] s
  · exact same s

theorem takeSession (m : Msg) (s : State) : Grows s (takeSession m s).2 := by
  unfold Machine.takeSession
  have hauth : Grows s (authFail m s) := silent (Own.authFail (by decide) (by decide) (by decide) (Own.same s))
  split
  · exact hauth
  · exact branch2 (fun _ => hauth) (fun _ => branch2 (fun _ => silent (Own.replayFail (by decide) (by decide) (by decide) (Own.same s)))
      (fun _ => (of_out (s := s) rfl).trans (serve _ _ _ _)))

theorem takeKeyLoad (m : Msg) (s : State) : Grows s (takeKeyLoad m s) := by
  unfold Machine.takeKeyLoad
  refine branch (fun _ => same s) (fun _ => ?_)
  split
  · exact same s
  · refine (silent ?_).trans (answerBare _ _ _)
    have hkeys : Silent s (Machine.forN 4 (fun r s => s.setBlob 4144 (r + 1) (slice ‹List Nat› (32 * r) 32)) s) :=
      (Own.same s).forN (fun r v hr => Own.setBlob (Own.hit_any (by omega)) (Own.same v))
    exact Own.raise (Own.endBootAccess (by decide) (Own.setNum (by decide) (Own.setNum (by decide) hkeys)))

theorem openWith (m : Msg) (sid : Nat) (s : State) : Grows s (openWith m sid s) := by
  unfold Machine.openWith
  refine trans (trans ?_ (sendSot _ _ _ _ _)) (silent (Own.raise (Own.same _)))
  exact of_out rfl

theorem takeOpen (m : Msg) (s : State) : Grows s (takeOpen m s).2 := by
  unfold Machine.takeOpen
  refine branch2 (fun _ => same s) (fun _ => branch2 (fun _ => silent (Own.authFail (by decide) (by decide) (by decide) (Own.same s))) (fun _ =>
    branch2 (fun _ => silent (Own.replayFail (by decide) (by decide) (by decide) (Own.same s))) (fun _ => branch2 (fun _ => same s) (fun _ => ?_))))
  split
  · exact same s
  · exact openWith _ _ s

theorem takeMessage (m : Msg) (s : State) : Grows s (takeMessage m s).2 := by
  unfold Machine.takeMessage
  refine branch2 (fun _ => same s) (fun _ => branch2 (fun _ => silent (Own.secInc (by decide) (Own.same s))) (fun _ => ?_))
  split
  · exact answerBare _ _ s
  · exact takeKeyLoad _ s
  · exact takeOpen _ s
  · exact branch2 (fun _ => takeSession _ s) (fun _ => branch2 (fun _ => serve _ _ _ s) (fun _ => same s))

theorem receive (m : Msg) (s : State) : Grows s (receive m s).2 :=
  takeMessage m { s with ridge := max s.ridge s.net.nextReceipt, net := { s.net with nextReceipt := max s.ridge s.net.nextReceipt + s.num 0x7000 2 } }

theorem messageIn (m : Msg) (d : Option (Nat × Nat)) (s : State) : Grows s (messageIn m d s).2 := by
  unfold Machine.messageIn
  exact branch2 (fun _ => same s) (fun _ => branch2 (fun _ => branch2 (fun _ => of_out rfl) (fun _ => silent (Own.secInc (by decide) (Own.same s))))
    (fun _ => receive m s))

theorem messageOf (m : Msg) (d : Option (Nat × Nat)) (s : State) : Grows s (messageOf m d s) := by
  unfold Machine.messageOf
  dsimp only
  split
  · exact branch (fun _ => (messageIn m _ s).trans (of_out rfl)) (fun _ => messageIn m _ s)
  · exact messageIn m _ s

theorem deliverFrame (n : Nat) (f : Frame) (d : Option (Nat × Nat)) (s : State) : Grows s (deliverFrame n f d s) := by
  unfold Machine.deliverFrame
  refine branch (fun _ => same s) (fun _ => ?_)
  split
  · exact messageOf _ _ s
  · exact same s

/-! #### Frames -/

theorem forwardFrame (n : Nat) (f : Frame) (s : State) : Grows s (forwardFrame n f s) := by
  unfold Machine.forwardFrame
  dsimp only
  refine branch (fun _ => same s) (fun _ => branch (fun _ => ?_) (fun _ => same s))
  refine trans (trans ?_ (emit _ _ _ _)) (silent (Own.countEvent (Own.same _)))
  exact silent (Own.takeLineTime (by decide) (Own.same s))

theorem takePrp (n : Nat) (f : Frame) (s : State) : Grows s (takePrp n f s) := by
  unfold Machine.takePrp
  dsimp only
  have hnode : Grows s ((noteNode n f.src s).setBitO 0x1020 5 (lanBit n) false) :=
    trans (b := noteNode n f.src s) (of_out (by unfold noteNode; rfl)) (silent (Own.setBitO (by decide) (Own.same _)))
  generalize (noteNode n f.src s).setBitO 0x1020 5 (lanBit n) false = b at hnode ⊢
  have hseen : Grows b (noteSeen f b) := of_out rfl
  refine branch (fun _ => same s) (fun _ => branch (fun _ => branch (fun _ => deliverFrame n f none s) (fun _ => same s)) (fun _ => branch (fun _ => ?_)
    (fun _ => branch (fun _ => ?_) (fun _ => ?_))))
  · exact hnode.trans (silent (Own.secInc (by decide) (Own.same _)))
  · exact hnode.trans (hseen.trans (deliverFrame n f _ _))
  · exact hnode.trans hseen

theorem takeHsr (n : Nat) (f : Frame) (s : State) : Grows s (takeHsr n f s) := by
  unfold Machine.takeHsr
  dsimp only
  have hseen : Grows s (if (f.tagged && f.fcsOk) = true then noteSeen f s else s) := branch (fun _ => of_out rfl) (fun _ => same s)
  refine branch (fun _ => branch (fun _ => silent (Own.ringBack (by decide) (by decide) (Own.same s))) (fun _ => same s)) (fun _ => branch (fun _ => same s)
    (fun _ => hseen.trans (branch (fun _ => ?_) (fun _ => branch (fun _ => ?_) (fun _ => forwardFrame n f _)))))
  · exact branch (fun _ => deliverFrame n f _ _) (fun _ => same _)
  · exact (forwardFrame n f _).trans (branch (fun _ => deliverFrame n f _ _) (fun _ => same _))

end Grows

/-! ### Requests answered (R349, R351, Table 12.4) -/

/-- The answer to a request on a port, with what its time of arrival and its own leaving give. -/
theorem answerPtp_reads {b w : State} {x : Nat} (hx : x < 2) {f : Frame} (hown : Own [.ptp, .net, .out] [] b w) (hsame : w.out = b.out) (hred : w.net.redSeq = b.net.redSeq) (hptp : f.isPtp = true)
    (hfcs : f.fcsOk = true) (hsrc : f.src ≠ ownMac b) (hup : portUp b x = true) (hours : ptpOurs b (f.etherType == 0x88F7) f.domain = true) :
    let answered := fun (kind : Nat) (corr : Int) => (answerPtp x f w).out = b.out ++ [⟨kind, x, ptpFrame b kind (beBytes 6 f.src ++
      beBytes 12 (toT96 (portStamp b (b.num (0x7028 + x) 5))) ++ beBytes 8 (ofInt 64 (sx 64 f.correction + corr))) f.ptpSeq x⟩]
    (f.ptpType = 1 → b.bit 0x7010 1 28 = false → portState b x = 6 → answered 22 0) ∧
    (f.ptpType = 2 → b.bit 0x7010 1 28 = true → b.timeRole ≠ 0 →
      answered 23 (sx 32 (b.num (0x7028 + x) 6) - sx 32 (b.num (0x7028 + x) 5))) := by
  intro answered
  have hsend : Sending b (retagged w) := ⟨Own.net_set (by decide) hown, by show (w.net.redSeq + 1) % 65536 = _; rw [hred]⟩
  have hkey := fun j (hj : j < 256) => hown.numKept (0x7028 + x) j (evKey_port hx hj) rfl
  have hstamp : portStamp w (w.num (0x7028 + x) 5) = portStamp b (b.num (0x7028 + x) 5) := by
    rw [hkey 5 (by decide)]
    simp only [portStamp, ridgeAt, hown.numKept 0x7000 2 rfl rfl, hown.now (by decide), hown.time (by decide)]
  have hwords := timeWords_of (hown.numKept 0x7010 1 rfl rfl)
  have hsent : ∀ (kind : Nat) (corr : Int), (sendPtpPort kind x f.ptpSeq (beBytes 6 f.src ++ beBytes 12 (toT96 (portStamp w (w.num (0x7028 + x) 5))) ++
      beBytes 8 (ofInt 64 (sx 64 f.correction + corr))) (retagged w)).out = b.out ++ [⟨kind, x, ptpFrame b kind (beBytes 6 f.src ++
      beBytes 12 (toT96 (portStamp b (b.num (0x7028 + x) 5))) ++ beBytes 8 (ofInt 64 (sx 64 f.correction + corr))) f.ptpSeq x⟩] := fun kind corr => by
    have hout : (retagged w).out = b.out := hsame
    rw [hstamp, (sendPtpPort_reads hsend hx kind _ _).2.2, hout]
  have hcheck : (f.isPtp && f.fcsOk && f.src != w.num 0x1010 1 && portUp w x && ptpOurs w (f.etherType == 0x88F7) f.domain) = true := by
    have hup' : portUp w x = portUp b x := by simp only [portUp, State.feeds, sideState_of (hown.numKept 0x6021 1 rfl rfl)]
    have hours' : ptpOurs w (f.etherType == 0x88F7) f.domain = ptpOurs b (f.etherType == 0x88F7) f.domain := by
      simp only [ptpOurs, hwords.2.2, State.fld, hown.numKept 0x7010 1 rfl rfl]
    rw [hptp, hfcs, hup', hup, hours', hours, hown.numKept 0x1010 1 rfl rfl]
    simpa [ownMac] using hsrc
  refine ⟨fun htype hpeer hport => ?_, fun htype hpeer hrole => ?_⟩
  · have hkind : (decide (f.ptpType = 1) && !w.bit 0x7010 1 28 && decide (portState w x = 6)) = true := by
      have hport' : portState w x = 6 := (hkey 1 (by decide)).trans hport
      rw [htype, hwords.2.2, hpeer, hport']
      rfl
    refine Eq.trans (congrArg State.out ?_) (hsent 22 0)
    unfold answerPtp
    exact (if_neg (by rw [hcheck]; decide)).trans (if_pos hkind)
  · have hkind : (decide (f.ptpType = 1) && !w.bit 0x7010 1 28 && decide (portState w x = 6)) = false := by rw [htype]; rfl
    have hpeer' : (decide (f.ptpType = 2) && peerDelay w) = true := by
      rw [htype, peerDelay, hwords.2.2, hpeer, hwords.1]
      simpa using hrole
    have hcorr : sx 32 (w.num (0x7028 + x) 6) - sx 32 (w.num (0x7028 + x) 5) = sx 32 (b.num (0x7028 + x) 6) - sx 32 (b.num (0x7028 + x) 5) := by
      rw [hkey 6 (by decide), hkey 5 (by decide)]
    refine Eq.trans (congrArg State.out ?_) (hsent 23 _)
    unfold answerPtp
    refine (if_neg (by rw [hcheck]; decide)).trans ((if_neg (by rw [hkind]; decide)).trans ((if_pos hpeer').trans ?_))
    rw [← hcorr]
    rfl

/-- A measurement at a port that is no SLAVE (R351). -/
theorem linkMeasure_reads {x : Nat} (hx : x < 2) (d : Int) (s : State) : let u := linkMeasure x d s
    let ms := lastN 16 ((s.ptpPort x).meas ++ [d])
    (u.ptpPort x).meas = ms ∧ u.num (0x7028 + x) 3 = ofInt 64 (meanOf ms) % 2 ^ 64 := by
  unfold linkMeasure
  extract_lets p ms v
  refine ⟨?_, (num_setNum_same _ _ _ _).trans (by rw [(sizeOf_port x hx).2.2.1])⟩
  exact congrArg PtpPort.meas ((ptpPort_of rfl x).trans (ptpPort_set_same _ _ _))

/-- A frame that the device takes is answered first, and what follows only adds to it (R433). -/
theorem frameReceived_answers {b : State} {x : Nat} {f : Frame} {kind : Nat} {l : List Nat}
    (h : (answerPtp x f (countEvent x 0x14 1 0 b)).out = b.out ++ [⟨kind, x, l⟩]) :
    ∃ m, (if redHsr (answerPtp x f (countEvent x 0x14 1 0 b)) = true then takeHsr x f (answerPtp x f (countEvent x 0x14 1 0 b))
      else takePrp x f (answerPtp x f (countEvent x 0x14 1 0 b))).out = b.out ++ ⟨kind, x, l⟩ :: m := by
  obtain ⟨m, hm⟩ := Grows.branch (c := redHsr (answerPtp x f (countEvent x 0x14 1 0 b)) = true) (fun _ => Grows.takeHsr x f (answerPtp x f (countEvent x 0x14 1 0 b)))
    (fun _ => Grows.takePrp x f (answerPtp x f (countEvent x 0x14 1 0 b)))
  exact ⟨m, by rw [hm, h, List.append_assoc]; rfl⟩

/-- Settles O40: every clause follows from what an operation of the PTP ports leaves there. -/
theorem ptpCompletes : Obligations.PtpCompletes := by
  intro s t b tagged frame shortEnough sends
  have hb : s.arrive t = b := rfl
  clear_value b
  have hframe : frame = ptpFrame b := rfl
  have hsends : ∀ {x : Nat}, x < 2 → ∀ (kind : Nat) (body : List Nat), sends kind x body ((sendPtp kind x body b).ended s.pending) := fun {x} hx kind body => by
    obtain ⟨hout, hseq⟩ := sendPtp_reads b hx kind body
    refine ⟨(clock_ended _ _).2.2.2.trans hout, fun p hp => ?_⟩
    rw [ptpPort_of (ptp_ended _ _)]
    exact hseq p hp
  clear_value frame
  have hkey := fun {x} (hx : x < 2) {j : Nat} (hj : j < 256) => evKey_port (x := x) hx hj
  refine ⟨fun x ether dom t1 t2 corr gm hx hdom h1 h2 hcorr hgm hours hup hstate hmaster => ?_, fun x ether dom t1 t2 corr gm hx hdom h1 h2 hcorr hgm hours => ?_,
    fun x d hx hd hup hstate hpeer hrole => ?_, fun x d hx hd hup hstate hhold hsus hwithin => ?_, fun x d hx hd hup hstate hhold hne hbeyond => ?_,
    fun x v hx hv hok hhold hsince => ?_, fun x v hx hv hok hno => ?_,
    fun x ether dom gm p1 cls acc var p2 steps sender hx hdom hgm hp1 hcls hacc hvar hp2 hsteps hsender hours hup hrole => ?_, fun x hx hmaster => ?_,
    fun x hx hmaster hsource husable hother => ?_, fun x hx hup hstate => ?_, fun x hx hup hstate => ?_, fun x hx hup hstate => ?_,
    fun x f hx hwf hshort hptp hfcs hsrc hserved hup hether hvlan hours => ?_⟩
  · refine gives_of_run hb (execPtpSyncReceived.eq_def ..) (by simp [Instr.wf]; omega) ?_
    rw [if_pos (by simp [hours, hup, hstate, hmaster]), ptpPort_of (ptp_ended _ _), num_ended _ _ _ _ rfl, num_ended _ _ _ _ rfl]
    exact takeSync_reads hx _ b
  · refine gives_of_run hb (execPtpSyncReceived.eq_def ..) (by simp [Instr.wf]; omega) ?_
    rw [if_neg (by simp [hours])]
    exact ⟨ptp_ended _ _, (clock_ended _ _).1⟩
  · refine gives_of_run hb (execPathDelayMeasurement.eq_def ..) (by simp [Instr.wf]; omega) ?_
    rw [if_neg (by simp [hup]), if_neg hstate, if_pos (by simp [peerDelay, hpeer, hrole]), ptpPort_of (ptp_ended _ _),
      num_ended _ _ _ _ (hkey hx (by decide))]
    exact linkMeasure_reads hx _ b
  · refine gives_of_run hb (execPathDelayMeasurement.eq_def ..) (by simp [Instr.wf]; omega) ?_
    rw [if_neg (by simp [hup]), if_pos hstate, ptpPort_of (ptp_ended _ _), num_ended _ _ _ _ (hkey hx (by decide))]
    exact pathMeasure_within hx hhold hsus hwithin
  · refine gives_of_run hb (execPathDelayMeasurement.eq_def ..) (by simp [Instr.wf]; omega) ?_
    rw [if_neg (by simp [hup]), if_pos hstate, ptpPort_of (ptp_ended _ _), portSuspect, portHold, bit_ended _ _ _ _ _ (hkey hx (by decide)),
      bit_ended _ _ _ _ _ (hkey hx (by decide))]
    exact pathMeasure_beyond hx hhold hne hbeyond
  · refine gives_of_run hb (execPathConfirm.eq_def ..) (by simp [Instr.wf]; omega) ?_
    have hconfirm : confirmPath x v b = endPathHold x 2 (meanOf (b.ptpPort x).sinceSuspect) (b.setNum (0x7028 + x) 4 v) := by
      unfold confirmPath
      exact if_pos (by simpa [hhold] using hsince)
    obtain ⟨h14, h15, hlast, h4, h3⟩ := endPathHold_reads hx 2 (meanOf (b.ptpPort x).sinceSuspect) (b.setNum (0x7028 + x) 4 v)
    rw [if_pos hok, hconfirm, ptpPort_of (ptp_ended _ _), portSuspect, portHold, bit_ended _ _ _ _ _ (hkey hx (by decide)),
      bit_ended _ _ _ _ _ (hkey hx (by decide)), num_ended _ _ _ _ (hkey hx (by decide)), num_ended _ _ _ _ (hkey hx (by decide)), h4, num_setNum_same,
      (sizeOf_port x hx).2.2.2]
    exact ⟨h14, h15, hlast, Nat.mod_eq_of_lt hv, h3⟩
  · refine gives_of_run hb (execPathConfirm.eq_def ..) (by simp [Instr.wf]; omega) ?_
    have hconfirm : confirmPath x v b = b.setBitO (0x7028 + x) 2 2 true := by
      unfold confirmPath
      refine if_neg ?_
      rcases hno with h | h <;> simp [h]
    rw [if_pos hok, hconfirm, bit_ended _ _ _ _ _ (hkey hx (by decide)), num_ended _ _ _ _ (hkey hx (by decide)), bit_port_set hx (by decide), if_pos rfl,
      num_setBitO_far _ _ _ _ _ _ _ (by omega)]
    exact ⟨ptp_ended _ _, rfl, rfl⟩
  · refine gives_of_run hb (execPtpAnnounceReceived.eq_def ..) (by simp [Instr.wf]; omega) ?_
    rw [if_pos (by simpa [hours, hup] using hrole), ptpPort_of (ptp_ended _ _), bit_ended _ _ _ _ _ (hkey hx (by decide)), portState,
      num_ended _ _ _ _ (hkey hx (by decide))]
    exact takeAnnounce_reads hx _ b
  · refine gives_of_run hb (execAnnounceTimeout.eq_def ..) (decide_eq_true hx) ?_
    rw [if_pos hmaster, ptpPort_of (ptp_ended _ _), bit_ended _ _ _ _ _ (hkey hx (by decide)), portState, num_ended _ _ _ _ (hkey hx (by decide))]
    exact loseMaster_reads hx b
  · refine gives_of_run hb (execAnnounceTimeout.eq_def ..) (decide_eq_true hx) ?_
    have hcheck : checkHoldover 1 b = beginHoldover 1 b := if_pos (by simp [hsource, husable, hother])
    rw [if_neg (by simp [hmaster]), hcheck, State.holdover, bit_ended _ _ _ _ _ rfl]
    by_cases hh : b.holdover = true
    · rw [beginHoldover, if_pos hh]; exact hh
    · exact (beginHoldover_reads 1 (by simpa using hh)).1
  · refine gives_of_run hb (execPtpSyncSend.eq_def ..) (decide_eq_true hx) ?_
    rw [if_pos (by simp [hup, hstate])]
    exact hsends hx 2 []
  · refine gives_of_run hb (execPtpDelayRequestSend.eq_def ..) (decide_eq_true hx) ?_
    rw [if_pos (by simpa [hup, peerDelay] using hstate)]
    exact hsends hx 3 []
  · refine gives_of_run hb (execPtpAnnounceSend.eq_def ..) (decide_eq_true hx) ?_
    rw [if_pos (by simp [hup, hstate])]
    exact hsends hx 4 _
  · intro answer
    have hcount : Own [.ptp, .net, .out] [] b (countEvent x 0x14 1 0 b) := Own.countEvent (Own.same b)
    obtain ⟨h22, h23⟩ := answerPtp_reads hx hcount (by simp) (congrArg (fun n => n.redSeq) (countEvent_same x 0x14 1 0 b).net) hptp hfcs hsrc hup hours
    have hvlan' : vlanOk (countEvent x 0x14 1 0 b) f.vlan = true := by
      have h5 := hcount.numKept 0x1010 5 rfl rfl
      simpa [vlanOk, State.fld, h5] using hvlan
    have hgives : ∀ kind corr, (answerPtp x f (countEvent x 0x14 1 0 b)).out = b.out ++ [⟨kind, x, ptpFrame b kind (beBytes 6 f.src ++
        beBytes 12 (toT96 (portStamp b (b.num (0x7028 + x) 5))) ++ beBytes 8 (ofInt 64 (sx 64 f.correction + corr))) f.ptpSeq x⟩] → answer kind corr := fun kind corr h => by
      refine gives_of_run hb (execFrameReceived.eq_def ..) (by simp [Instr.wf, hx, hwf]) ?_
      obtain ⟨m, hm⟩ := frameReceived_answers h
      have hlen : (!portServed b x || decide ((if f.vlan = 0 then 1518 else 1522) < f.len)) = false := by
        rw [hserved]
        simpa using hshort
      refine ⟨m, (clock_ended _ _).2.2.2.trans ?_⟩
      rw [if_neg (by rw [hlen]; decide), hframe]
      dsimp only
      rw [if_neg (by rw [hether, hvlan']; decide)]
      exact hm
    exact ⟨fun htype hpeer hport => hgives 22 0 (h22 htype hpeer hport), fun htype hpeer hrole => hgives 23 _ (h23 htype hpeer hrole)⟩

end Sys2Proof
end

section
/-!
SUPPORT. References and PLLs (chapter 13).
-/
namespace Sys2Proof
open Sys2Proof.Machine

/-! ### The objects of the references and the PLLs -/

theorem sizeOf_reference : sizeOf 0x7040 2 = 2 ∧ sizeOf 0x7040 3 = 4 := by decide

theorem sizeOf_pll : ∀ p < 5, sizeOf (0x7100 + p) 3 = 2 ∧ sizeOf (0x7100 + p) 4 = 1 ∧ sizeOf (0x7100 + p) 5 = 4 ∧ sizeOf (0x7100 + p) 6 = 2 := by decide

theorem evKey_pll {p j : Nat} (hp : p < 5) (hj : j < 256) : evKey ((0x7100 + p) * 256 + j) = false := evKey_eq_false hj (by omega)

/-- A flag of RefStatus after a write to one. -/
theorem bit_reference_set {m n : Nat} (hm : m < 16) (v : Bool) (s : State) :
    (s.setBitO 0x7040 2 n v).bit 0x7040 2 m = if m = n then v else s.bit 0x7040 2 m := by
  rw [State.bit_setBitO s v _ _ _ (by rw [sizeOf_reference.1]; exact hm)]
  simp

/-- A flag of PllStatus after a write to one. -/
theorem bit_pll_set {p m n : Nat} (hp : p < 5) (hm : m < 16) (v : Bool) (s : State) :
    (s.setBitO (0x7100 + p) 3 n v).bit (0x7100 + p) 3 m = if m = n then v else s.bit (0x7100 + p) 3 m := by
  rw [State.bit_setBitO s v _ _ _ (by rw [(sizeOf_pll p hp).1]; exact hm)]
  simp

theorem pll_of {s u : State} (h : u.plls = s.plls) (p : Nat) : u.pll p = s.pll p := by rw [State.pll, h]; rfl

theorem pll_setPll_same (s : State) (p : Nat) (q : Pll) : (s.setPll p q).pll p = q := get_put_same ..

theorem pll_ended (s : State) (q : List Instr) (p : Nat) : (s.ended q).pll p = s.pll p := pll_of (by simp) p

/-! ### References (R358 to R361) -/

/-- The fault of a reference as it is noted. -/
def refFaultNoted (alt : Bool) (s : State) : State :=
  ((((s.setBitO 0x7040 2 (if alt then 13 else 14) true).setBitO 0x7040 2 (if alt then 0 else 1) true).setNum 0x7040 3 0).setBitO 0x7040 2 12 false).raise 202
    alt.toNat

theorem refFaultNoted_own (alt : Bool) (s : State) : Own [] [⟨0x7040, 0x7040, 2, 3⟩] s (refFaultNoted alt s) :=
  Own.raise (Own.setBitO (by decide) (Own.setNum (by decide) (Own.setBitO (by decide) (Own.setBitO (by decide) (Own.same s)))))

theorem refFaultNoted_reads (alt : Bool) (s : State) : let u := refFaultNoted alt s
    refFaulty u alt = true ∧ refFaulty u (!alt) = refFaulty s (!alt) ∧ altInUse u = altInUse s ∧ u.num 0x7040 3 = 0 := by
  have hbit : ∀ m < 16, (refFaultNoted alt s).bit 0x7040 2 m = if m = 12 then false else if m = (if alt then 0 else 1) then true
      else if m = (if alt then 13 else 14) then true else s.bit 0x7040 2 m := fun m hm => by
    rw [refFaultNoted, bit_raise _ _ _ _ _ _ _ _ rfl, bit_reference_set hm, bit_setNum_far _ _ _ _ _ _ _ (by decide), bit_reference_set hm, bit_reference_set hm]
  refine ⟨(hbit _ (by split <;> decide)).trans ?_, (hbit _ (by split <;> decide)).trans ?_, (hbit 15 (by decide)).trans ?_, ?_⟩
  · cases alt <;> rfl
  · cases alt <;> rfl
  · cases alt <;> rfl
  · rw [refFaultNoted, num_raise _ _ _ _ _ _ _ rfl, num_setBitO_far _ _ _ _ _ _ _ (by decide), num_setNum_same]
    exact Nat.zero_mod _

/-- A reference in order becomes faulty (R359, R361). -/
theorem refBecomesFaulty_of {alt : Bool} {s : State} (h : refFaulty s alt = false) : refBecomesFaulty alt s =
    if (altInUse (refFaultNoted alt s) == alt) = true then
      if ((refFaultNoted alt s).bit 0x7040 1 15 && !refFaulty (refFaultNoted alt s) (!alt)) = true then switchRef (!alt) (refFaultNoted alt s)
      else ridgeFault (refFaultNoted alt s)
    else refFaultNoted alt s := by
  rw [refBecomesFaulty, if_neg (by simp [h])]
  rfl

theorem switchRef_reads (alt : Bool) (s : State) : let u := switchRef alt s
    altInUse u = alt ∧ u.bit 0x7040 2 2 = true ∧ ∀ a, refFaulty u a = refFaulty s a := by
  have hbit : ∀ m < 16, (switchRef alt s).bit 0x7040 2 m = if m = 2 then true else if m = 15 then alt else s.bit 0x7040 2 m := fun m hm => by
    rw [switchRef, bit_raise _ _ _ _ _ _ _ _ rfl, bit_reference_set hm, bit_reference_set hm]
  exact ⟨hbit 15 (by decide), hbit 2 (by decide), fun a => by cases a <;> exact hbit _ (by decide)⟩

theorem takeRef_reads (c : Bool × Nat) (s : State) : let u := takeRef c s
    altInUse u = c.1 ∧ (altInUse s ≠ c.1 → u.bit 0x7040 2 2 = true) ∧ (∀ a, refFaulty u a = refFaulty s a) ∧ u.clock = s.clock := by
  have hclock : (takeRef c s).clock = s.clock :=
    (Own.takeRef (P := []) (G := [⟨0x7040, 0x7040, 2, 2⟩]) (by decide) (Own.same s)).clock (by decide)
  unfold takeRef at hclock ⊢
  split at hclock
  · rename_i h
    rw [if_pos h]
    exact ⟨by simpa using h, fun hne => absurd (by simpa using h) hne, fun _ => rfl, rfl⟩
  · rename_i h
    rw [if_neg h]
    obtain ⟨halt, h2, hfaulty⟩ := switchRef_reads c.1 { s with ridge := c.2 }
    exact ⟨halt, fun _ => h2, hfaulty, hclock⟩

/-- The switches due move no fault of a reference. -/
theorem dueRefs_faulty (r : Nat) (a : Bool) (s : State) : refFaulty (dueRefs r s) a = refFaulty s a ∧ (dueRefs r s).clock.refDead = s.clock.refDead := by
  have hone : ∀ (c : Bool × Nat) (u : State), (refFaulty (takeRef (c.1, max r c.2) u) a, (takeRef (c.1, max r c.2) u).clock.refDead) =
      (refFaulty u a, u.clock.refDead) := fun c u => by
    obtain ⟨-, -, hfaulty, hclock⟩ := takeRef_reads (c.1, max r c.2) u
    rw [hfaulty, hclock]
  have hall := foldl_keep (fun u : State => (refFaulty u a, u.clock.refDead)) (s.clock.refCmds.filter (refDue s))
    (fun u (c : Bool × Nat) => takeRef (c.1, max r c.2) u) (fun u c _ => hone c u) { s with clock := { s.clock with refCmds := s.clock.refCmds.filter (fun c => !refDue s c) } }
  exact Prod.mk.inj hall

/-- The one switch that waits for a reference with edges acts at its time (R359). -/
theorem dueRefs_one {alt : Bool} {app r : Nat} {s : State} (h : s.clock.refCmds = [(alt, app)]) (happ : app ≤ s.ridge)
    (hedges : s.clock.refDead.testBit alt.toNat = false) : let u := dueRefs r s
    u.clock.refCmds = [] ∧ altInUse u = alt ∧ (altInUse s ≠ alt → u.bit 0x7040 2 2 = true) := by
  have hdue : refDue s (alt, app) = true := by simp [refDue, happ, hedges]
  have hone : dueRefs r s = takeRef (alt, max r app) { s with clock := { s.clock with refCmds := [] } } := by
    unfold dueRefs
    simp [h, hdue]
  obtain ⟨halt, h2, -, hclock⟩ := takeRef_reads (alt, max r app) { s with clock := { s.clock with refCmds := [] } }
  rw [hone]
  exact ⟨by rw [hclock], halt, h2⟩

/-! ### What time leaves of a switch that waits -/

/-- The references' commands and edges are as they were. -/
def SameRefs (s u : State) : Prop := u.clock.refCmds = s.clock.refCmds ∧ u.clock.refDead = s.clock.refDead

theorem SameRefs.trans {a b c : State} (h : SameRefs a b) (g : SameRefs b c) : SameRefs a c := ⟨g.1.trans h.1, g.2.trans h.2⟩

theorem SameRefs.of_clock {s u : State} (h : u.clock = s.clock) : SameRefs s u := by constructor <;> rw [h]

theorem sameRefs_dueTruss (x : Side) (s : State) : SameRefs s (dueTruss x s) := by
  unfold dueTruss
  extract_lets v w
  have hoff : SameRefs s v := by
    show SameRefs s (if trussIdle s x = true then pllOff (1 + sideIx x) s else s)
    split <;> exact ⟨rfl, rfl⟩
  have hwaits : ∀ y, SameRefs v (v.setWaits x y) := fun y => by cases x <;> exact ⟨rfl, rfl⟩
  refine hoff.trans ?_
  split
  · split
    · exact ⟨rfl, rfl⟩
    · exact hwaits _
  · split
    · exact (hwaits none).trans ⟨rfl, rfl⟩
    · exact hwaits none

theorem sameRefs_clkDue (s : State) : SameRefs s (clkDue s) := by
  have hone : ∀ (k : Nat) (start : Bool) (u : State), SameRefs u (clkOne k start u) := fun k start u => by
    unfold clkOne
    dsimp only
    split
    · split <;> exact ⟨rfl, rfl⟩
    · split
      · exact ⟨rfl, rfl⟩
      · split <;> exact ⟨rfl, rfl⟩
  have hall : ∀ (l : List (Nat × Bool × Nat)) (u : State), SameRefs u (l.foldl (fun s c => clkOne c.1 c.2.1 s) u) := fun l => by
    induction l with
    | nil => exact fun _ => ⟨rfl, rfl⟩
    | cons c l ih => exact fun u => (hone _ _ u).trans (ih _)
  exact SameRefs.trans (b := { s with clock := { s.clock with clkCmds := s.clock.clkCmds.filter (fun c => !decide (c.2.2 ≤ s.ridge)) } }) ⟨rfl, rfl⟩ (hall _ _)

/-- The objects that time writes outside the references. -/
def arriveOther : List Objs := arriveObjs.filter fun o => o.lo != 0x7040

/-- What time brings between the trusses' waits and the references' switches, and what follows. -/
theorem passed_around_refs (s : State) (t : Nat) : ∃ u,
    Own [.time, .meas, .graphs, .gf, .plate, .stacks, .sides, .safety, .sharing, .scribe, .out] arriveOther
      (dueTruss .B (dueTruss .A (if sameClock s.now t then s else dueFrozen s))) u ∧ s.passed t = noteSout (dueSlot (clkDue (dueRefs 0 u))) := by
  refine ⟨_, ?_, rfl⟩
  unfold dueSills
  repeat' first
    | with_reducible exact Own.same _ | with_reducible apply Own.dueLink | with_reducible apply Own.dueSems | with_reducible apply Own.dueSlots
    | with_reducible apply Own.judgeAlign | with_reducible apply Own.sweepSwaps | with_reducible apply Own.dueTags | with_reducible apply Own.dueTorn
    | with_reducible apply Own.dueCommits | with_reducible apply Own.dueClears | with_reducible apply Own.dueCounters | with_reducible apply Own.passTime
    | with_reducible apply Own.noteSout | decide

/-- A switch that falls due alone acts at its time (R359). -/
theorem passed_refs {s : State} {t app : Nat} {alt : Bool} (h : s.clock.refCmds = [(alt, app)]) (happ : app ≤ (s.passed t).ridge)
    (hedges : s.clock.refDead.testBit alt.toNat = false) :
    (s.passed t).clock.refCmds = [] ∧ altInUse (s.passed t) = alt ∧ (altInUse s ≠ alt → (s.passed t).bit 0x7040 2 2 = true) := by
  obtain ⟨u, hu, hpassed⟩ := passed_around_refs s t
  have ha : Own [.meas, .gf, .plate] arriveOther s (if sameClock s.now t then s else dueFrozen s) :=
    Own.branch (fun _ => Own.same s) (fun _ => Own.dueFrozen (by decide) (by decide) (by decide) (by decide) (Own.same s))
  generalize (if sameClock s.now t then s else dueFrozen s) = a at ha hu
  generalize hb : dueTruss .B (dueTruss .A a) = b at hu
  have htruss : SameRefs a b := hb ▸ (sameRefs_dueTruss .A a).trans (sameRefs_dueTruss .B _)
  have htrussOwn : Own [.clock, .plls] [⟨0x7050, 0x7050, 1, 1⟩, ⟨0x7100, 0x7104, 3, 3⟩] a b :=
    hb ▸ Own.dueTruss (by decide) (by decide) (Own.dueTruss (by decide) (by decide) (Own.same a))
  obtain ⟨hcmds, hdead⟩ := ((SameRefs.of_clock (ha.clock (by decide))).trans htruss).trans (SameRefs.of_clock (hu.clock (by decide)))
  have hstatus : u.num 0x7040 2 = s.num 0x7040 2 :=
    (hu.numKept _ _ rfl (by decide)).trans ((htrussOwn.numKept _ _ rfl rfl).trans (ha.numKept _ _ rfl (by decide)))
  have hinUse : altInUse u = altInUse s := by simp only [altInUse, State.bit, hstatus]
  have hclk : SameRefs (dueRefs 0 u) (clkDue (dueRefs 0 u)) := sameRefs_clkDue _
  have hclkOwn : Own [.clock] [] (dueRefs 0 u) (clkDue (dueRefs 0 u)) := Own.clkDue (by decide) (Own.same _)
  have hrefs : Own [.clock] [⟨0x7040, 0x7040, 2, 2⟩] u (dueRefs 0 u) := Own.dueRefs (by decide) (by decide) (Own.same u)
  have hone := fun h1 h2 h3 => dueRefs_one (r := 0) (s := u) (alt := alt) (app := app) h1 h2 h3
  generalize dueRefs 0 u = v at hclk hclkOwn hpassed hrefs hone
  have hafter : Own [.safety, .net, .boot] [⟨0x1000, 0x1000, 2, 2⟩, ⟨0xB000, 0xB000, 6, 7⟩, ⟨0xB200, 0xB200, 9, 10⟩] (clkDue v) (s.passed t) := by
    rw [hpassed]
    exact Own.noteSout (by decide) (Own.dueSlot (by decide) (by decide) (by decide) (Own.same _))
  have hridge : (s.passed t).ridge = u.ridge := (hafter.time (by decide)).trans ((hclkOwn.time (by decide)).trans (hrefs.time (by decide)))
  obtain ⟨hempty, halt, h2⟩ := hone (hcmds.trans h) (hridge ▸ happ) (by rw [hdead]; exact hedges)
  have hend : (s.passed t).num 0x7040 2 = v.num 0x7040 2 := (hafter.numKept _ _ rfl rfl).trans (hclkOwn.numKept _ _ rfl rfl)
  have hendBit : ∀ n, (s.passed t).bit 0x7040 2 n = v.bit 0x7040 2 n := fun n => by simp only [State.bit, hend]
  rw [hafter.clock (by decide), hclk.1, altInUse, hendBit, hendBit, ← hinUse]
  exact ⟨hempty, halt, h2⟩

/-! ### PLLs (R362 to R367) -/

theorem pll_raise (s : State) (e p0 p1 p2 p : Nat) : (s.raise e p0 p1 p2).pll p = s.pll p := pll_of (by simp) p

theorem hit_pll {p : Nat} (hp : p < 5) {G : List Objs} {j : Nat} (hG : Cov G [⟨0x7100, 0x7104, j, j⟩]) (hj : j < 256) : Hit G (0x7100 + p) j :=
  hG.hit 0x7100 0x7104 j j (by simp [Objs.within]) (by omega) (by omega) (Nat.le_refl _) (Nat.le_refl _) hj

/-- A PLL starts (R364). -/
theorem startPll_reads {p : Nat} (hp : p < 5) (s : State) : let u := startPll p s
    (∀ m < 16, u.bit (0x7100 + p) 3 m = if m = 14 then true else s.bit (0x7100 + p) 3 m) ∧ (u.pll p).phase = 1 ∧ (u.pll p).startedAt = s.now ∧
      u.num (0x7100 + p) 6 = satInc 16 (s.num (0x7100 + p) 6) := by
  unfold startPll
  extract_lets i stored table choice order bands _q u v
  have hbit : ∀ m < 16, u.bit (0x7100 + p) 3 m = if m = 14 then true else s.bit (0x7100 + p) 3 m := fun m hm => by
    show (((s.setBitO (0x7100 + p) 3 14 true).setNum (0x7100 + p) 6 _)).bit (0x7100 + p) 3 m = _
    rw [bit_setNum_far _ _ _ _ _ _ _ (by omega), bit_pll_set hp hm]
  have hnum : u.num (0x7100 + p) 6 = satInc 16 (s.num (0x7100 + p) 6) := by
    show ((s.setBitO (0x7100 + p) 3 14 true).setNum (0x7100 + p) 6 (satInc (8 * sizeOf (0x7100 + p) 6) ((s.setBitO (0x7100 + p) 3 14 true).num (0x7100 + p) 6))).num
      (0x7100 + p) 6 = _
    rw [num_setNum_same, num_setBitO_far _ _ _ _ _ _ _ (by omega), (sizeOf_pll p hp).2.2.2]
    refine Nat.mod_eq_of_lt ?_
    rw [satInc_eq_min]
    omega
  have hpll : u.pll p = { s.pll p with startedAt := s.now, stepAt := s.now, phase := 1, bands := bands } := pll_setPll_same _ _ _
  have hv : v.pll p = u.pll p ∧ (∀ m, v.bit (0x7100 + p) 3 m = u.bit (0x7100 + p) 3 m) ∧ v.num (0x7100 + p) 6 = u.num (0x7100 + p) 6 := by
    show (if table.isEmpty = true then u else u.setBlob i 7 table).pll p = _ ∧ (∀ m, (if table.isEmpty = true then u else u.setBlob i 7 table).bit _ _ m = _) ∧
      (if table.isEmpty = true then u else u.setBlob i 7 table).num _ _ = _
    split
    · exact ⟨rfl, fun _ => rfl, rfl⟩
    · refine ⟨rfl, fun m => ?_, num_setBlob_far _ _ _ _ _ _ (by omega)⟩
      simp only [State.bit, num_setBlob_far u i 7 table (0x7100 + p) 3 (by omega)]
  rw [hv.1, hv.2.2, hpll]
  exact ⟨fun m hm => (hv.2.1 m).trans (hbit m hm), rfl, rfl, hnum⟩

/-- Lock is declared (R364). -/
theorem declareLock_reads {p : Nat} (hp : p < 5) (x : Nat) (s : State) : let u := declareLock p x s
    pllLocked u p = true ∧ u.num (0x7100 + p) 4 = x % 256 ∧ (u.pll p).phase = 0 ∧
      u.num (0x7100 + p) 5 = (s.now - (s.pll p).startedAt) / nsFs 1 % 2 ^ 32 := by
  unfold declareLock
  extract_lets i q v _c w u
  have hsize := sizeOf_pll p hp
  have hv : v.bit (0x7100 + p) 3 15 = true ∧ v.num (0x7100 + p) 4 = x % 256 ∧ v.num (0x7100 + p) 5 = (s.now - q.startedAt) / nsFs 1 % 2 ^ 32 := by
    show (((s.setBitO (0x7100 + p) 3 15 true).setNum (0x7100 + p) 4 x).setNum (0x7100 + p) 5 _).bit (0x7100 + p) 3 15 = true ∧
      (((s.setBitO (0x7100 + p) 3 15 true).setNum (0x7100 + p) 4 x).setNum (0x7100 + p) 5 _).num (0x7100 + p) 4 = _ ∧
      (((s.setBitO (0x7100 + p) 3 15 true).setNum (0x7100 + p) 4 x).setNum (0x7100 + p) 5 _).num (0x7100 + p) 5 = _
    refine ⟨?_, ?_, ?_⟩
    · rw [bit_setNum_far _ _ _ _ _ _ _ (by omega), bit_setNum_far _ _ _ _ _ _ _ (by omega), bit_pll_set hp (by decide), if_pos rfl]
    · rw [num_setNum_far _ _ _ _ _ _ (by omega), num_setNum_same, hsize.2.1] <;> rfl
    · rw [num_setNum_same, hsize.2.2.1]
  have hw : ∀ j, w.num (0x7100 + p) j = v.num (0x7100 + p) j := fun j => by
    show (if p = 0 then ({ v with clock := { v.clock with divAt := v.now } } : State) else v).num _ _ = _
    split <;> rfl
  have hlock : u.bit (0x7100 + p) 3 15 = true := by
    show (w.setFld (0x7100 + p) 3 12 8 x).bit (0x7100 + p) 3 15 = true
    rw [bit_setFld_apart _ _ _ _ _ _ _ (by decide) (by rw [hsize.1]; decide) (by decide), State.bit, hw]
    exact hv.1
  have hfar : ∀ j, j < 256 → j ≠ 3 → u.num (0x7100 + p) j = w.num (0x7100 + p) j := fun j hj hne => by
    show (w.setFld (0x7100 + p) 3 12 8 x).num (0x7100 + p) j = _
    exact num_setNum_far _ _ _ _ _ _ (by omega)
  refine ⟨hlock, ?_, congrArg Pll.phase (pll_setPll_same _ _ _), ?_⟩
  · rw [hfar 4 (by decide) (by decide), hw, hv.2.1]
  · rw [hfar 5 (by decide) (by decide), hw, hv.2.2]

/-- A control that has not moved keeps its chip: a clock found to have stopped there is only noted. -/
theorem clockFound_inControl {x : Side} {s : State} (h : s.control = some x) :
    clockFound x s = s.setSideRt x { s.sideRt x with clockStopped := true } := by
  have hcontrol : (s.setSideRt x { s.sideRt x with clockStopped := true }).control = s.control := by cases x <;> rfl
  unfold clockFound
  dsimp only
  rw [hcontrol, h]
  split
  · rename_i hy; cases hy; exact if_pos rfl
  · rfl

theorem control_of_sides {x : Side} {s : State} (hx : s.sideState x = 1) (hy : s.sideState (otherSide x) = 2) : s.control = some x := by
  cases x
  · simp [State.control, hx]
  · have h : s.sideState .A = 2 := hy
    simp [State.control, h, hx]

/-- Settles O41: every clause follows from what an operation of the references or of a PLL leaves. -/
theorem referencesComplete : Obligations.ReferencesComplete := by
  intro s t b
  have hb : s.arrive t = b := rfl
  have hone : ∀ alt app, s.boot.restartAt = none → s.clock.refCmds = [(alt, app)] → app ≤ b.ridge → s.clock.refDead.testBit alt.toNat = false →
      b.clock.refCmds = [] ∧ altInUse b = alt ∧ (altInUse s ≠ alt → b.bit 0x7040 2 2 = true) := fun alt app hrestart hcmds happ hedges => by
    rw [← hb, arrive_without_restart hrestart] at happ ⊢
    exact passed_refs (s := { s with out := [] }) hcmds happ hedges
  clear_value b
  have hkey := fun {p} (hp : p < 5) {j : Nat} (hj : j < 256) => evKey_pll (p := p) hp hj
  have hdead : ∀ alt d, (∀ a, refFaulty (setRefDead alt d b) a = refFaulty b a) ∧ altInUse (setRefDead alt d b) = altInUse b ∧
      SameMachine b (setRefDead alt d b) := fun alt d => ⟨fun _ => rfl, rfl, by constructor <;> intros <;> rfl⟩
  have hbitEnd : ∀ (u : State) n, (u.ended s.pending).bit 0x7040 2 n = u.bit 0x7040 2 n := fun u n => bit_ended _ _ _ _ _ rfl
  refine ⟨fun alt e hok huse => ?_, fun alt e hok huse hswitch hother => ?_, fun alt e hok huse hno hready h6 => ?_, fun alt e => ?_,
    fun v hv hhost hok => ?_, fun v hv hhost hbad => ?_, hone, fun d hd h0 h1 => ?_, fun p hp hoff hasked => ?_,
    fun p x l hp hon hlock hphase hbands htime hstart => ?_, fun p w x l hp hon hlock hphase hbands htime hstart => ?_,
    fun p w x l hp hlock hphase hbands hlate => ?_, fun p hp hasked hside => ?_, fun p h1 hp hasked hside => ?_,
    fun p l x hp hl hphase hlate hchoice => ?_, fun l hl hphase hlate hchoice hready h6 => ?_, fun x hlock => ?_,
    fun p x h1 hp hlock hready hown hother => ?_⟩
  · refine gives_of_run hb (execRefFault.eq_def ..) rfl ?_
    obtain ⟨hfaulty, huse', hmachine⟩ := hdead alt (!e)
    rw [if_pos rfl, refBecomesFaulty_of ((hfaulty alt).trans hok)]
    obtain ⟨hf, -, hin, h3⟩ := refFaultNoted_reads alt (setRefDead alt (!e) b)
    rw [if_neg (by rw [hin, huse']; simpa using huse), refFaulty, altInUse, hbitEnd, hbitEnd, num_ended _ _ _ _ rfl]
    exact ⟨hf, hin, h3⟩
  · refine gives_of_run hb (execRefFault.eq_def ..) rfl ?_
    obtain ⟨hfaulty, huse', hmachine⟩ := hdead alt (!e)
    rw [if_pos rfl, refBecomesFaulty_of ((hfaulty alt).trans hok)]
    obtain ⟨hf, ho, hin, h3⟩ := refFaultNoted_reads alt (setRefDead alt (!e) b)
    have hconfig : (refFaultNoted alt (setRefDead alt (!e) b)).bit 0x7040 1 15 = b.bit 0x7040 1 15 := by
      simp only [State.bit, (refFaultNoted_own alt (setRefDead alt (!e) b)).numKept 0x7040 1 rfl rfl] <;> rfl
    obtain ⟨hin2, -, hf2⟩ := switchRef_reads (!alt) (refFaultNoted alt (setRefDead alt (!e) b))
    rw [if_pos (by rw [hin, huse', huse]; simp), if_pos (by rw [hconfig, hswitch, ho, hfaulty, hother]; rfl), refFaulty, altInUse, hbitEnd, hbitEnd]
    exact ⟨(hf2 alt).trans hf, hin2⟩
  · refine gives_of_run hb (execRefFault.eq_def ..) rfl ?_
    obtain ⟨hfaulty, huse', hmachine⟩ := hdead alt (!e)
    rw [if_pos rfl, refBecomesFaulty_of ((hfaulty alt).trans hok)]
    obtain ⟨hf, ho, hin, h3⟩ := refFaultNoted_reads alt (setRefDead alt (!e) b)
    have hown := refFaultNoted_own alt (setRefDead alt (!e) b)
    have hconfig : (refFaultNoted alt (setRefDead alt (!e) b)).bit 0x7040 1 15 = b.bit 0x7040 1 15 := by
      simp only [State.bit, hown.numKept 0x7040 1 rfl rfl] <;> rfl
    rw [if_pos (by rw [hin, huse', huse]; simp), if_neg (by rw [hconfig, ho, hfaulty]; rcases hno with h | h <;> simp [h]), refFaulty, hbitEnd]
    have hsame : SameMachine b (refFaultNoted alt (setRefDead alt (!e) b)) :=
      hmachine.trans (SameMachine.of_own hown (by decide) rfl rfl rfl rfl (by decide))
    generalize refFaultNoted alt (setRefDead alt (!e) b) = u at hf hsame ⊢
    have hstop : Own [.meas, .gf, .plate, .pairs, .stacks, .safety, .sharing] (deviceObjs.filter fun o => o.lo != 0x7040) u (ridgeFault u) := by
      apply Own.ridgeFault <;> first | decide | exact Own.same u
    refine ⟨?_, ridgeStop_ridgeFault hsame hready h6 s.pending⟩
    rw [State.bit, hstop.numKept _ _ rfl (by decide)]
    exact hf
  · refine gives_of_run hb (execRefFault.eq_def ..) rfl ?_
    rw [if_neg (by decide)]
    obtain ⟨hf, hd⟩ := dueRefs_faulty b.ridge alt (setRefDead alt false (b.setBitO 0x7040 2 (if alt then 13 else 14) false))
    rw [refFaulty, hbitEnd, (clock_ended _ _).1]
    refine ⟨hf.trans ((bit_reference_set (by split <;> decide) _ _).trans (if_pos rfl)), ?_⟩
    rw [hd]
    show (setBit b.clock.refDead alt.toNat false).testBit alt.toNat = false
    rw [testBit_setBit]
    simp
  · refine gives_of_run hb (execRefSwitchCommand.eq_def ..) (decide_eq_true (by omega)) ?_
    have hsw : refSwitch v b = { b with clock := { b.clock with refCmds := b.clock.refCmds ++ [(v == 2, b.appTime)] } } := by
      unfold refSwitch
      rw [if_pos (by simpa using hv)]
      exact if_neg (by simp [hok])
    rw [if_pos hhost, hsw, altInUse, hbitEnd, (clock_ended _ _).1]
    exact ⟨rfl, rfl⟩
  · refine gives_of_run hb (execRefSwitchCommand.eq_def ..) (decide_eq_true (by omega)) ?_
    have hsw : refSwitch v b = b.setBitO 0x7040 2 3 true := by
      unfold refSwitch
      rw [if_pos (by simpa using hv)]
      exact if_pos hbad
    rw [if_pos hhost, hsw, altInUse, hbitEnd, hbitEnd, (clock_ended _ _).1, bit_reference_set (by decide), bit_reference_set (by decide)]
    exact ⟨rfl, rfl, rfl⟩
  · refine gives_of_run hb (execRefDisagree.eq_def ..) (decide_eq_true hd) ?_
    rw [if_neg (by simp [h0, h1])]
    dsimp only
    rw [num_ended _ _ _ _ rfl, hbitEnd]
    have hset : ∀ v, ((b.setNum 0x7040 3 d).setBitO 0x7040 2 12 v).num 0x7040 3 = d ∧ ((b.setNum 0x7040 3 d).setBitO 0x7040 2 12 v).bit 0x7040 2 12 = v := fun v => by
      rw [num_setBitO_far _ _ _ _ _ _ _ (by decide), num_setNum_same, bit_reference_set (by decide), if_pos rfl, sizeOf_reference.2]
      exact ⟨Nat.mod_eq_of_lt hd, rfl⟩
    split
    · rw [num_raise _ _ _ _ _ _ _ rfl, bit_raise _ _ _ _ _ _ _ _ rfl]
      exact hset _
    · exact hset _
  · refine gives_of_run hb (execPllStart.eq_def ..) (decide_eq_true hp) ?_
    rw [if_neg (by simp [hoff, hasked])]
    dsimp only
    have hbays : Own [] [⟨0x7050, 0x7050, 1, 1⟩] b (if (decide (1 ≤ p) && b.sideState (pllSide p) == 5) = true then powerBays (pllSide p) b else b) :=
      Own.branch (fun _ => Own.powerBays (by decide) (Own.same b)) (fun _ => Own.same b)
    generalize (if (decide (1 ≤ p) && b.sideState (pllSide p) == 5) = true then powerBays (pllSide p) b else b : State) = u at hbays ⊢
    obtain ⟨hbit, hphase, hstart, h6⟩ := startPll_reads hp u
    rw [bit_ended _ _ _ _ _ (hkey hp (by decide)), pll_ended, num_ended _ _ _ _ (hkey hp (by decide)), hbit 14 (by decide), hphase, hstart, h6,
      hbays.now (by decide), hbays.numKept _ _ (hkey hp (by decide)) (by rcases (by omega : p = 0 ∨ p = 1 ∨ p = 2 ∨ p = 3 ∨ p = 4) with rfl | rfl | rfl | rfl | rfl <;> rfl)]
    exact ⟨rfl, rfl, rfl, rfl⟩
  · refine gives_of_run hb (execPllLock.eq_def ..) (decide_eq_true hp) ?_
    dsimp only
    rw [if_neg (by simp [hon, hlock, htime]), if_pos (by simp [hphase, hstart]), hbands]
    rw [pllLocked, bit_ended _ _ _ _ _ (hkey hp (by decide)), pll_ended, num_ended _ _ _ _ (hkey hp (by decide)), num_ended _ _ _ _ (hkey hp (by decide))]
    exact declareLock_reads hp x b
  · refine gives_of_run hb (execPllLock.eq_def ..) (decide_eq_true hp) ?_
    dsimp only
    rw [if_neg (by simp [hon, hlock, htime]), if_neg (by simp [hphase]), if_pos (by simp [hphase, hstart]), hbands]
    rw [pllLocked, bit_ended _ _ _ _ _ (hkey hp (by decide)), bit_ended _ _ _ _ _ (hkey hp (by decide)), pll_ended, num_ended _ _ _ _ (hkey hp (by decide))]
    dsimp only
    obtain ⟨h15, h4, h0, -⟩ := declareLock_reads hp x b
    generalize declareLock p x b = u at h15 h4 h0 ⊢
    rw [bit_raise _ _ _ _ _ _ _ _ (hkey hp (by decide)), bit_raise _ _ _ _ _ _ _ _ (hkey hp (by decide)), num_raise _ _ _ _ _ _ _ (hkey hp (by decide)),
      bit_pll_set hp (by decide), bit_pll_set hp (by decide), num_setBitO_far _ _ _ _ _ _ _ (by omega), if_neg (by decide)]
    exact ⟨h15, h4, (congrArg Pll.phase (pll_raise ..)).trans h0, rfl⟩
  · refine gives_of_run hb (execPllRetryBand.eq_def ..) (decide_eq_true hp) ?_
    dsimp only
    rw [if_pos (by simp [hphase, hlock, hlate]), hbands]
    rw [pll_ended, num_ended _ _ _ _ (hkey hp (by decide))]
    dsimp only
    rw [pll_setPll_same]
    exact ⟨rfl, rfl, rfl⟩
  · refine gives_of_run hb (execPllSweep.eq_def ..) (decide_eq_true hp) ?_
    have hon : b.bit (0x7100 + p) 3 14 = true := by
      simp only [sweepAsked, Bool.and_eq_true] at hasked
      exact hasked.1.1.1
    rw [if_neg (by simp [hasked]), if_neg (by rcases hside with h | h <;> simp [h]), pll_ended, bit_ended _ _ _ _ _ (hkey hp (by decide)),
      bit_ended _ _ _ _ _ (hkey hp (by decide)), bit_raise _ _ _ _ _ _ _ _ (hkey hp (by decide)), bit_raise _ _ _ _ _ _ _ _ (hkey hp (by decide)),
      bit_pll_set hp (by decide), bit_pll_set hp (by decide)]
    rw [pll_raise]
    exact ⟨congrArg Pll.phase (pll_setPll_same b p _), hon, rfl⟩
  · refine gives_of_run hb (execPllSweep.eq_def ..) (decide_eq_true hp) ?_
    rw [if_neg (by simp [hasked]), if_pos (by simp [h1, hside]), (ended_sideWords _ _).1]
    exact (failAttempt_reads (pllSide p) false b).1
  · refine gives_of_run hb (execPllSweepDone.eq_def ..) (by simp [Instr.wf, hp, hl]) ?_
    rw [if_neg (by simp [hphase]; omega)]
    dsimp only
    have hnum : ((b.setBlob (0x7100 + p) 7 l).setPll p { b.pll p with phase := 4 }).num (0x7100 + p) 2 = b.num (0x7100 + p) 2 :=
      num_setBlob_far b _ _ _ _ _ (by omega)
    have hblob : ((b.setBlob (0x7100 + p) 7 l).setPll p { b.pll p with phase := 4 }).blob (0x7100 + p) 7 = l := by
      show (b.setBlob (0x7100 + p) 7 l).blob (0x7100 + p) 7 = l
      rw [State.blob_setBlob, if_pos rfl]
    rw [hnum, hchoice]
    generalize (b.setBlob (0x7100 + p) 7 l).setPll p { b.pll p with phase := 4 } = u at hblob ⊢
    obtain ⟨h15, h4, -⟩ := declareLock_reads hp x u
    have hlock : Own [.plls, .clock] [⟨0x7100, 0x7104, 3, 3⟩, ⟨0x7100, 0x7104, 4, 4⟩, ⟨0x7100, 0x7104, 5, 5⟩] u (declareLock p x u) :=
      Own.declareLock (by decide) (by decide) (by decide) hp (Own.same u)
    dsimp only
    rw [pllLocked, bit_ended _ _ _ _ _ (hkey hp (by decide)), num_ended _ _ _ _ (hkey hp (by decide)), blob_ended _ _ _ _ (hkey hp (by decide)),
      hlock.blobKept _ _ (hkey hp (by decide)) (by rcases (by omega : p = 0 ∨ p = 1 ∨ p = 2 ∨ p = 3 ∨ p = 4) with rfl | rfl | rfl | rfl | rfl <;> rfl)]
    exact ⟨h15, h4, hblob⟩
  · refine gives_of_run hb (execPllSweepDone.eq_def ..) (by simp [Instr.wf, hl]) ?_
    rw [if_neg (by simp [hphase]; omega)]
    dsimp only
    have hnum : ((b.setBlob (0x7100 + 0) 7 l).setPll 0 { b.pll 0 with phase := 4 }).num (0x7100 + 0) 2 = b.num 0x7100 2 :=
      num_setBlob_far b _ _ _ _ _ (by decide)
    have hblob : ((b.setBlob (0x7100 + 0) 7 l).setPll 0 { b.pll 0 with phase := 4 }).blob 0x7100 7 = l := by
      show (b.setBlob 0x7100 7 l).blob 0x7100 7 = l
      rw [State.blob_setBlob, if_pos rfl]
    have hown : Own [.plls] [⟨0x7100, 0x7100, 7, 7⟩] b ((b.setBlob (0x7100 + 0) 7 l).setPll 0 { b.pll 0 with phase := 4 }) :=
      Own.setPll (by decide) (Own.setBlob (by decide) (Own.same b))
    rw [hnum, hchoice]
    generalize (b.setBlob (0x7100 + 0) 7 l).setPll 0 { b.pll 0 with phase := 4 } = u at hblob hown ⊢
    have hfail : sweepFailed 0 u = ridgeFault (u.raise 203 0) := by
      unfold sweepFailed
      rw [if_pos rfl]
      refine if_pos ?_
      rw [(stageWords_of (num_raise _ _ _ _ _ _ _ rfl)).2, (stageWords_of (hown.numKept 0xB000 1 rfl rfl)).2]
      exact hready
    have hraise : Own [.plls] [⟨0x7100, 0x7100, 7, 7⟩] b (u.raise 203 0) := Own.raise hown
    have hblob' : (u.raise 203 0).blob 0x7100 7 = l := (blob_raise _ _ _ _ _ _ _ rfl).trans hblob
    dsimp only
    rw [hfail, blob_ended _ _ _ _ rfl]
    generalize u.raise 203 0 = v at hraise hblob' ⊢
    have hstop : Own [.meas, .gf, .plate, .pairs, .stacks, .safety, .sharing] (deviceObjs.filter fun o => o.lo != 0x7100) v (ridgeFault v) := by
      apply Own.ridgeFault <;> first | decide | exact Own.same v
    refine ⟨ridgeStop_ridgeFault (SameMachine.of_own hraise (by decide) rfl rfl rfl rfl (by decide)) hready h6 s.pending, ?_⟩
    rw [hstop.blobKept _ _ rfl (by decide)]
    exact hblob'
  · refine gives_of_run hb (execPllLockLost.eq_def ..) rfl ?_
    dsimp only
    rw [if_neg (by simp [hlock]), if_pos rfl]
    have hlost : ∀ m < 16, ((((b.setBitO (0x7100 + 0) 3 15 false).setBitO (0x7100 + 0) 3 13 false).setBitO (0x7100 + 0) 3 1 true).raise 203 0).bit (0x7100 + 0) 3 m =
        if m = 1 then true else if m = 13 then false else if m = 15 then false else b.bit (0x7100 + 0) 3 m := fun m hm => by
      rw [bit_raise _ _ _ _ _ _ _ _ rfl, bit_pll_set (by decide) hm, bit_pll_set (by decide) hm, bit_pll_set (by decide) hm]
    generalize (((b.setBitO (0x7100 + 0) 3 15 false).setBitO (0x7100 + 0) 3 13 false).setBitO (0x7100 + 0) 3 1 true).raise 203 0 = u at hlost ⊢
    have hstop : Own [.clock] [⟨0x7200, 0x7207, 2, 2⟩] u (stopOutputs u) := Own.stopOutputs (by decide) (by decide) (Own.same u)
    have hkept := hstop.numKept (0x7100 + 0) 3 rfl rfl
    generalize stopOutputs u = w at hkept ⊢
    obtain ⟨hbit, hphase, -⟩ := startPll_reads (p := 0) (by decide) w
    have hw : ∀ m, w.bit (0x7100 + 0) 3 m = u.bit (0x7100 + 0) 3 m := fun m => by simp only [State.bit, hkept]
    rw [pllLocked, bit_ended _ _ _ _ _ rfl, bit_ended _ _ _ _ _ rfl, pll_ended]
    refine ⟨(hbit 15 (by decide)).trans ((hw 15).trans (hlost 15 (by decide))), hphase, (hbit 1 (by decide)).trans ((hw 1).trans (hlost 1 (by decide)))⟩
  · refine gives_of_run hb (execPllLockLost.eq_def ..) (decide_eq_true hp) ?_
    dsimp only
    rw [if_neg (by simp [hlock]), if_neg (by omega), (ended_sideWords _ _).1]
    have hlost : Own [.sides] [⟨0x7100, 0x7104, 3, 3⟩, ⟨0x6030, 0x6031, 1, 1⟩] b (((((b.setBitO (0x7100 + p) 3 15 false).setBitO (0x7100 + p) 3 13 false).setBitO (0x7100 + p) 3 1 true).raise
        203 p).setBitO (0x6030 + sideIx (pllSide p)) 1 20 true) := by
      have hit : Hit [⟨0x7100, 0x7104, 3, 3⟩, ⟨0x6030, 0x6031, 1, 1⟩] (0x7100 + p) 3 := hit_pll hp (by decide) (by decide)
      exact Own.setBitO (hit_side _ (by decide) (by decide)) (Own.raise (Own.setBitO hit (Own.setBitO hit (Own.setBitO hit (Own.same b)))))
    generalize ((((b.setBitO (0x7100 + p) 3 15 false).setBitO (0x7100 + p) 3 13 false).setBitO (0x7100 + p) 3 1 true).raise
        203 p).setBitO (0x6030 + sideIx (pllSide p)) 1 20 true = u at hlost ⊢
    have hsides := fun y => sideState_of (hlost.numKept 0x6021 1 rfl rfl) y
    have hfound : Own [.sides] [⟨0x7100, 0x7104, 3, 3⟩, ⟨0x6030, 0x6031, 1, 1⟩] b (if (x && decide (3 ≤ p)) = true then clockFound (pllSide p) u else u) := by
      refine Own.branch (fun _ => ?_) (fun _ => hlost)
      rw [clockFound_inControl (control_of_sides ((hsides _).trans hown) ((hsides _).trans hother))]
      exact Own.setSideRt (by decide) hlost
    exact sideFault_after hfound rfl rfl (pllSide p) 6 hready hown hother

end Sys2Proof
end

section
/-!
SUPPORT. Clock outputs and the clock source of the trusses (chapter 13).
-/
namespace Sys2Proof
open Sys2Proof.Machine

/-! ### Clock outputs (R368 to R370) -/

theorem sizeOf_output : ∀ k < 8, sizeOf (0x7200 + k) 2 = 2 := by decide

theorem evKey_output {k j : Nat} (hk : k < 8) (hj : j < 256) : evKey ((0x7200 + k) * 256 + j) = false := evKey_eq_false hj (by omega)

/-- An output is running by the write of its own word. -/
theorem clkRunning_set {k : Nat} (hk : k < 8) (v : Bool) (s : State) : clkRunning (s.setBitO (0x7200 + k) 2 15 v) k = v := by
  rw [clkRunning, State.bit_setBitO s v _ _ _ (by rw [sizeOf_output k hk]; decide), if_pos ⟨rfl, rfl⟩]

theorem clkRunning_raise {k : Nat} (hk : k < 8) (e p0 p1 : Nat) (s : State) : clkRunning (s.raise e p0 p1) k = clkRunning s k :=
  bit_raise _ _ _ _ _ _ _ _ (evKey_output hk (by decide))

theorem clkRunning_ended {k : Nat} (hk : k < 8) (s : State) (q : List Instr) : clkRunning (s.ended q) k = clkRunning s k :=
  bit_ended _ _ _ _ _ (evKey_output hk (by decide))

theorem clock_raise (s : State) (e p0 p1 p2 : Nat) : (s.raise e p0 p1 p2).clock = s.clock := by simp

theorem openGate_reads {k : Nat} (hk : k < 8) {s : State} (harmed : s.clock.clkArmed.testBit k = true) (hlock : pllLocked s 0 = true) (hready : s.ready = true)
    (hfalls : divFalls s k = true) : clkRunning (openGate k s) k = true ∧ (openGate k s).clock.clkArmed.testBit k = false := by
  unfold openGate
  rw [if_pos (by simp [harmed, hlock, hready, hfalls])]
  dsimp only
  rw [clkRunning_raise hk, clkRunning_set hk, clock_raise]
  refine ⟨rfl, ?_⟩
  show (setBit s.clock.clkArmed k false).testBit k = false
  rw [testBit_setBit]
  simp

theorem closeGate_reads {k : Nat} (hk : k < 8) {s : State} (hstopping : s.clock.clkStopping.testBit k = true) (hlow : divLow s k = true) :
    clkRunning (closeGate k s) k = false ∧ (closeGate k s).clock.clkStopping.testBit k = false := by
  have hbit : (setBit s.clock.clkStopping k false).testBit k = false := by
    rw [testBit_setBit]
    simp
  unfold closeGate
  rw [if_pos (by simp [hstopping, hlow])]
  dsimp only
  split
  · rw [clkRunning_raise hk, clkRunning_set hk, clock_raise]
    exact ⟨rfl, hbit⟩
  · rename_i h
    exact ⟨by simpa using h, hbit⟩

/-- A write of ClkOutCommand that is taken (R370). -/
theorem clkCommand_taken {w : Nat} {b : State} (hmask : bits w 15 8 &&& bits w 7 0 = 0) (hstop : clkStopRefused b (bits w 7 0) = false) :
    clkCommand w b = { b with clock := { b.clock with clkCmds := b.clock.clkCmds ++
      ((maskList 8 (bits w 15 8)).map (fun k => (k, true, b.appTime)) ++ (maskList 8 (bits w 7 0)).map (fun k => (k, false, b.appTime))) } } := by
  unfold clkCommand
  exact if_neg (by simp [hmask, hstop])

theorem clkCommand_refused {w : Nat} {b : State} (h : bits w 15 8 &&& bits w 7 0 ≠ 0 ∨ clkStopRefused b (bits w 7 0) = true) :
    (clkCommand w b).clock = b.clock ∧ (clkCommand w b).bit 0x7060 2 0 = true := by
  unfold clkCommand
  dsimp only
  rw [if_pos (by simpa using h), clock_raise, bit_raise _ _ _ _ _ _ _ _ rfl, State.bit_setBitO b true _ _ _ (by decide)]
  exact ⟨rfl, if_pos ⟨rfl, rfl⟩⟩

/-! ### The clock source of the trusses (R372, R373) -/

theorem sideIx_lt_two (x : Side) : sideIx x < 2 := by cases x <;> decide

/-- A flag of TrussClockStatus after a write to one. -/
theorem bit_truss_set {m n : Nat} (hm : m < 16) (v : Bool) (s : State) :
    (s.setBitO 0x7050 1 n v).bit 0x7050 1 m = if m = n then v else s.bit 0x7050 1 m := by
  rw [State.bit_setBitO s v _ _ _ (lt_of_lt_of_eq hm (by decide))]
  simp

theorem setDeferred_reads (x : Side) (v : Bool) (s : State) : let u := setDeferred x v s
    (u.clock.deferred.testBit (sideIx x) = v) ∧ (∀ m < 16, m ≠ 13 → u.bit 0x7050 1 m = s.bit 0x7050 1 m) ∧ (v = true → u.bit 0x7050 1 13 = true) := by
  have hbit : (setBit s.clock.deferred (sideIx x) v).testBit (sideIx x) = v := by
    rw [testBit_setBit]
    simp
  unfold setDeferred
  dsimp only
  refine ⟨hbit, fun m hm hne => ?_, fun hv => ?_⟩
  · rw [bit_truss_set hm, if_neg hne]
    rfl
  · rw [bit_truss_set (by decide), if_pos rfl, bne_iff_ne]
    intro h0
    rw [h0, Nat.zero_testBit] at hbit
    rw [hv] at hbit
    cases hbit

theorem bridged_setBridged (x : Side) (v : Bool) (s : State) : bridged (setBridged x v s) x = v := by
  have := sideIx_lt_two x
  rw [bridged, setBridged, bit_truss_set (by omega), if_pos rfl]

theorem bridged_setDeferred (x y : Side) (v : Bool) (s : State) : bridged (setDeferred x v s) y = bridged s y := by
  have := sideIx_lt_two y
  exact (setDeferred_reads x v s).2.1 _ (by omega) (by omega)

theorem bridged_ended (s : State) (q : List Instr) (x : Side) : bridged (s.ended q) x = bridged s x := bit_ended _ _ _ _ _ rfl

/-- PLL_TRUSS is powered off; its truss's words stay. -/
theorem pllOff_reads {p : Nat} (hp : p < 5) (s : State) : (pllOff p s).bit (0x7100 + p) 3 14 = false ∧ ∀ m, (pllOff p s).bit 0x7050 1 m = s.bit 0x7050 1 m := by
  have hown : Own [.plls] [⟨0x7100, 0x7104, 3, 3⟩] s (pllOff p s) := Own.pllOff (by decide) hp (Own.same s)
  refine ⟨?_, fun m => by simp only [State.bit, hown.numKept 0x7050 1 rfl rfl]⟩
  rw [pllOff, bit_pll_set hp (by decide), bit_pll_set hp (by decide)]
  rfl

/-! ### A change of source that is wanted from now on -/

/-- What a truss waits by. -/
theorem changeWanted_of {x : Side} {s u : State} (h1 : u.num 0xB000 1 = s.num 0xB000 1) (h2 : u.num 0x6021 1 = s.num 0x6021 1)
    (h3 : u.num 0x6000 2 = s.num 0x6000 2) (h4 : u.num 0x4001 3 = s.num 0x4001 3) (h5 : bridged u x = bridged s x)
    (h6 : u.num (0x7101 + sideIx x) 3 = s.num (0x7101 + sideIx x) 3) : changeWanted u x = changeWanted s x := by
  have h7 : pllLocked u (1 + sideIx x) = pllLocked s (1 + sideIx x) := by
    rw [show 0x7101 + sideIx x = 0x7100 + (1 + sideIx x) by omega] at h6
    simp only [pllLocked, State.bit, h6]
  simp only [changeWanted, wantBridge, (stageWords_of h1).2, (sideWords_of h2).2.2.1 x, profileWords_of h3, (gfWords_of h4).1, h5, h7]

/-- A PLL_TRUSS that its truss does not need is powered off. -/
def trussOff (x : Side) (s : State) : State := if trussIdle s x then pllOff (1 + sideIx x) s else s

/-- The wait of a truss after PLL_TRUSS is judged. -/
def trussWait (x : Side) (s : State) : State :=
  if changeWanted s x then (if (s.waitsSince x).isSome then s else s.setWaits x (some s.now))
  else if (s.setWaits x none).clock.deferred.testBit (sideIx x) then setDeferred x false (s.setWaits x none) else s.setWaits x none

theorem dueTruss_eq (x : Side) (s : State) : dueTruss x s = trussWait x (trussOff x s) := rfl

/-- Two states in which a truss waits alike. -/
structure SameWait (x : Side) (s u : State) : Prop where
  wanted : changeWanted u x = changeWanted s x
  since : u.waitsSince x = s.waitsSince x
  now : u.now = s.now

theorem SameWait.same (x : Side) (s : State) : SameWait x s s := ⟨rfl, rfl, rfl⟩

theorem SameWait.trans {x : Side} {a b c : State} (h : SameWait x a b) (g : SameWait x b c) : SameWait x a c :=
  ⟨g.wanted.trans h.wanted, g.since.trans h.since, g.now.trans h.now⟩

theorem sameWait_trussOff (x : Side) (s : State) : SameWait x s (trussOff (otherSide x) s) := by
  have hown : Own [.plls] [⟨0x7101 + sideIx (otherSide x), 0x7101 + sideIx (otherSide x), 3, 3⟩] s (trussOff (otherSide x) s) := by
    have hit : Hit [⟨0x7101 + sideIx (otherSide x), 0x7101 + sideIx (otherSide x), 3, 3⟩] (0x7100 + (1 + sideIx (otherSide x))) 3 := by
      cases x <;> decide
    exact Own.branch (fun _ => Own.setBitO hit (Own.setBitO hit (Own.setBitO hit (Own.same s)))) (fun _ => Own.same s)
  have hclock : (trussOff (otherSide x) s).clock = s.clock := hown.clock (by decide)
  refine ⟨changeWanted_of (hown.numKept _ _ rfl (by cases x <;> rfl)) (hown.numKept _ _ rfl (by cases x <;> rfl)) (hown.numKept _ _ rfl (by cases x <;> rfl))
    (hown.numKept _ _ rfl (by cases x <;> rfl)) (by simp only [bridged, State.bit, hown.numKept 0x7050 1 rfl (by cases x <;> rfl)])
    (hown.numKept _ _ (by cases x <;> rfl) (by cases x <;> rfl)), ?_, hown.now (by decide)⟩
  generalize trussOff (otherSide x) s = u at hclock
  cases x <;> simp only [State.waitsSince, hclock]

theorem sameWait_setWaits (x : Side) (n : Option Nat) (s : State) : SameWait x s (s.setWaits (otherSide x) n) := by
  cases x <;> exact ⟨rfl, rfl, rfl⟩

theorem sameWait_setDeferred (x : Side) (s : State) : SameWait x s (setDeferred (otherSide x) false s) := by
  have hown : Own [.clock] [⟨0x7050, 0x7050, 1, 1⟩] s (setDeferred (otherSide x) false s) := Own.setDeferred (by decide) (by decide) (Own.same s)
  refine ⟨changeWanted_of (hown.numKept _ _ rfl rfl) (hown.numKept _ _ rfl rfl) (hown.numKept _ _ rfl rfl) (hown.numKept _ _ rfl rfl)
    (bridged_setDeferred _ x _ s) (hown.numKept _ _ (by cases x <;> rfl) (by cases x <;> rfl)), ?_, hown.now (by decide)⟩
  unfold setDeferred
  cases x <;> simp only [State.waitsSince, State.setBitO_frame]

/-- What time does for the other truss leaves a truss's wait alone. -/
theorem dueTruss_other (x : Side) (s : State) : SameWait x s (dueTruss (otherSide x) s) := by
  rw [dueTruss_eq]
  refine (sameWait_trussOff x s).trans ?_
  generalize trussOff (otherSide x) s = u
  have hset := fun n => sameWait_setWaits x n u
  unfold trussWait
  split
  · split
    · exact SameWait.same x u
    · exact hset _
  · split
    · exact (hset none).trans (sameWait_setDeferred x _)
    · exact hset none

/-- A truss whose change is wanted begins to wait. -/
theorem dueTruss_waits {x : Side} {s : State} (h : changeWanted s x = true) (hnone : s.waitsSince x = none) :
    (dueTruss x s).waitsSince x = some s.now := by
  have hidle : trussIdle s x = false := by
    cases hw : wantBridge s <;> simp [trussIdle, changeWanted, hw] at h ⊢
    intro _ _ hb
    simp [hb] at h
  have hoff : trussOff x s = s := if_neg (by simp [hidle])
  rw [dueTruss_eq, hoff, trussWait, if_pos h, hnone, if_neg (by decide)]
  cases x <;> rfl

/-- No feedback waits for its sample: none is found frozen. -/
theorem dueFrozen_none {s : State} (h : ∀ c, c < 64 → (s.feedback c).waits = false) : dueFrozen s = s := by
  have hall : ∀ l : List Nat, (∀ c ∈ l, c < 64) → l.foldl (fun s c => if (s.feedback c).waits then declareFeedback c 3 s else s) s = s := fun l => by
    induction l with
    | nil => exact fun _ => rfl
    | cons c l ih =>
      intro hl
      rw [List.foldl_cons, if_neg (by rw [h c (hl c (by simp))]; decide)]
      exact ih (fun d hd => hl d (by simp [hd]))
  exact hall _ (fun c hc => List.mem_range.1 hc)

/-- The trusses' waits are as they were. -/
def SameWaits (s u : State) : Prop := u.clock.waitA = s.clock.waitA ∧ u.clock.waitB = s.clock.waitB

theorem SameWaits.trans {a b c : State} (h : SameWaits a b) (g : SameWaits b c) : SameWaits a c := ⟨g.1.trans h.1, g.2.trans h.2⟩

theorem SameWaits.of_clock {s u : State} (h : u.clock = s.clock) : SameWaits s u := by constructor <;> rw [h]

theorem SameWaits.since {s u : State} (h : SameWaits s u) (x : Side) : u.waitsSince x = s.waitsSince x := by
  cases x
  · exact h.1
  · exact h.2

theorem sameWaits_foldl {α : Type} {l : List α} {f : State → α → State} (hf : ∀ u c, SameWaits u (f u c)) (s : State) : SameWaits s (l.foldl f s) := by
  induction l generalizing s with
  | nil => exact ⟨rfl, rfl⟩
  | cons c l ih => exact (hf s c).trans (ih _)

theorem sameWaits_clkDue (s : State) : SameWaits s (clkDue s) := by
  have hone : ∀ (k : Nat) (start : Bool) (u : State), SameWaits u (clkOne k start u) := fun k start u => by
    unfold clkOne
    dsimp only
    split
    · split <;> exact ⟨rfl, rfl⟩
    · split
      · exact ⟨rfl, rfl⟩
      · split <;> exact ⟨rfl, rfl⟩
  exact SameWaits.trans (b := { s with clock := { s.clock with clkCmds := s.clock.clkCmds.filter (fun c => !decide (c.2.2 ≤ s.ridge)) } }) ⟨rfl, rfl⟩
    (sameWaits_foldl (fun u c => hone _ _ u) _)

theorem sameWaits_dueRefs (r : Nat) (s : State) : SameWaits s (dueRefs r s) :=
  SameWaits.trans (b := { s with clock := { s.clock with refCmds := s.clock.refCmds.filter (fun c => !refDue s c) } }) ⟨rfl, rfl⟩
    (sameWaits_foldl (fun u (c : Bool × Nat) => SameWaits.of_clock (takeRef_reads (c.1, max r c.2) u).2.2.2) _)

/-- Time leaves the wait of a truss that began with it. -/
theorem passed_waits {x : Side} {s : State} {t : Nat} (hfeed : ∀ c, c < 64 → (s.feedback c).waits = false) (h : changeWanted s x = true)
    (hnone : s.waitsSince x = none) : (s.passed t).waitsSince x = some s.now := by
  obtain ⟨u, hu, hpassed⟩ := passed_around_refs s t
  rw [show (if sameClock s.now t = true then s else dueFrozen s) = s by rw [dueFrozen_none hfeed]; exact ite_self s] at hu
  have hwaits : (dueTruss .B (dueTruss .A s)).waitsSince x = some s.now := by
    cases x
    · exact (dueTruss_other .A (dueTruss .A s)).since.trans (dueTruss_waits h hnone)
    · have hA := dueTruss_other .B s
      exact (dueTruss_waits (hA.wanted.trans h) (hA.since.trans hnone)).trans (congrArg some hA.now)
  have hclk := (SameWaits.of_clock (hu.clock (by decide))).trans ((sameWaits_dueRefs 0 u).trans (sameWaits_clkDue _))
  generalize clkDue (dueRefs 0 u) = v at hclk hpassed
  have hafter : Own [.safety, .net, .boot] [⟨0x1000, 0x1000, 2, 2⟩, ⟨0xB000, 0xB000, 6, 7⟩, ⟨0xB200, 0xB200, 9, 10⟩] v (s.passed t) := by
    rw [hpassed]
    exact Own.noteSout (by decide) (Own.dueSlot (by decide) (by decide) (by decide) (Own.same _))
  exact ((hclk.trans (SameWaits.of_clock (hafter.clock (by decide)))).since x).trans hwaits

/-- Settles O42: every clause follows from what an operation of the outputs or of the trusses' clocks leaves. -/
theorem clocksComplete : Obligations.ClocksComplete := by
  intro s t b
  have hb : s.arrive t = b := rfl
  have hwait : ∀ x, s.boot.restartAt = none → (∀ c, c < 64 → (s.feedback c).waits = false) → changeWanted s x = true → s.waitsSince x = none →
      b.waitsSince x = some s.now := fun x hrestart hfeed hchange hnone => by
    rw [← hb, arrive_without_restart hrestart]
    have hsame : changeWanted { s with out := [] } x = changeWanted s x := changeWanted_of rfl rfl rfl rfl rfl rfl
    exact passed_waits (s := { s with out := [] }) (fun c hc => by rw [feedback_of (s := s) (u := { s with out := [] }) rfl]; exact hfeed c hc) (hsame.trans hchange)
      (by cases x <;> exact hnone)
  clear_value b
  refine ⟨fun w hw hok hmask hstop => ?_, fun w hw hok hmask hstop => ?_, fun w hw hok hbad => ⟨?_, ?_⟩, fun k hk harmed hlock hready hfalls => ?_,
    fun k hk hstopping hlow => ?_, fun k hk hno => ?_, fun k hk hno => ?_, fun x hchange hwant hgap => ?_, fun x hchange hwant hgap => ?_,
    fun x l hchange hl => ?_, fun x hgap => ?_, hwait, fun x a hchange hsince hlate => ?_⟩
  · refine gives_of_run hb (execClkoutStart.eq_def ..) (decide_eq_true hw) ?_
    rw [if_pos hok, clkCommand_taken hmask hstop]
    exact (clock_ended _ _).1
  · refine gives_of_run hb (execClkoutStop.eq_def ..) (decide_eq_true hw) ?_
    rw [if_pos hok, clkCommand_taken hmask hstop]
    exact (clock_ended _ _).1
  · refine gives_of_run hb (execClkoutStart.eq_def ..) (decide_eq_true hw) ?_
    rw [if_pos hok, (clock_ended _ _).1, bit_ended _ _ _ _ _ rfl]
    exact clkCommand_refused hbad
  · refine gives_of_run hb (execClkoutStop.eq_def ..) (decide_eq_true hw) ?_
    rw [if_pos hok, (clock_ended _ _).1, bit_ended _ _ _ _ _ rfl]
    exact clkCommand_refused hbad
  · refine gives_of_run hb (execClkoutGateOpen.eq_def ..) (decide_eq_true hk) ?_
    rw [clkRunning_ended hk, (clock_ended _ _).1]
    exact openGate_reads hk harmed hlock hready hfalls
  · refine gives_of_run hb (execClkoutGateClose.eq_def ..) (decide_eq_true hk) ?_
    rw [clkRunning_ended hk, (clock_ended _ _).1]
    exact closeGate_reads hk hstopping hlow
  · refine gives_of_run hb (execClkoutGateOpen.eq_def ..) (decide_eq_true hk) ?_
    rw [clkRunning_ended hk, openGate, if_neg (by simp [hno])]
  · refine gives_of_run hb (execClkoutGateClose.eq_def ..) (decide_eq_true hk) ?_
    rw [clkRunning_ended hk, closeGate, if_neg (by simp [hno])]
  · refine gives_of_run hb (execTrussClockSwitch.eq_def ..) rfl ?_
    have hx := sideIx_lt_two x
    have hpll : evKey ((0x7101 + sideIx x) * 256 + 3) = false := by cases x <;> rfl
    obtain ⟨hoff, hkeeps⟩ := pllOff_reads (p := 1 + sideIx x) (by omega) (setBridged x true b)
    rw [show 0x7100 + (1 + sideIx x) = 0x7101 + sideIx x by omega] at hoff
    rw [switchTruss, if_neg (by simp [hchange, hgap]), if_pos hwant, bridged_ended, bit_ended _ _ _ _ _ hpll, (clock_ended _ _).1, bridged_setDeferred, bridged,
      hkeeps]
    refine ⟨bridged_setBridged x true b, ?_, (setDeferred_reads x false _).1⟩
    have hown : Own [.clock] [⟨0x7050, 0x7050, 1, 1⟩] (pllOff (1 + sideIx x) (setBridged x true b))
        (setDeferred x false (pllOff (1 + sideIx x) (setBridged x true b))) := Own.setDeferred (by decide) (by decide) (Own.same _)
    refine Eq.trans ?_ hoff
    simp only [State.bit, hown.numKept _ _ hpll (by cases x <;> rfl)]
  · refine gives_of_run hb (execTrussClockSwitch.eq_def ..) rfl ?_
    rw [switchTruss, if_neg (by simp [hchange, hgap]), if_neg (by simp [hwant]), bridged_ended, (clock_ended _ _).1, bridged_setDeferred]
    exact ⟨bridged_setBridged x false b, (setDeferred_reads x false _).1⟩
  · refine gives_of_run hb (execTrussClockSwitch.eq_def ..) rfl ?_
    have hgap : inGap b x = false := by
      have hawake : (b.graph x).awake.isEmpty = false := by
        cases h : (b.graph x).awake with
        | nil => rw [h] at hl; cases hl
        | cons a m => rfl
      simp [inGap, hawake]
    rw [switchTruss, if_pos (by simp [hgap]), bridged_ended]
  · refine gives_of_run hb (execTrussClockSwitch.eq_def ..) rfl ?_
    rw [switchTruss, if_pos (by simp [hgap]), bridged_ended]
  · refine gives_of_run hb (execSwitchDeferred.eq_def ..) rfl ?_
    have hasked : (changeWanted b x && (b.waitsSince x).any (fun a => decide (a + msFs 10 ≤ b.now))) = true := by
      rw [hchange, hsince, Bool.true_and, Option.any_some]
      exact decide_eq_true hlate
    rw [if_pos hasked, (clock_ended _ _).1, bit_ended _ _ _ _ _ rfl]
    obtain ⟨h1, -, h3⟩ := setDeferred_reads x true b
    exact ⟨h1, h3 rfl⟩

end Sys2Proof
end

section
/-!
SUPPORT. The capture commands, segments and their reading (chapter 14).
-/
namespace Sys2Proof
open Sys2Proof.Machine

/-! ### Engines, segments and streams under writes and events -/

theorem engine_of {s u : State} (h : u.capture.engines = s.capture.engines) (x : Side) (k : Nat) : u.engine x k = s.engine x k := by
  rw [State.engine, h]; rfl

theorem segment_of {s u : State} (h : u.capture.segs = s.capture.segs) (x : Side) (i : Nat) : u.segment x i = s.segment x i := by
  rw [State.segment, h]; rfl

theorem stream_of {s u : State} (h : u.capture.streams = s.capture.streams) (k : Nat) : u.stream k = s.stream k := by
  rw [State.stream, h]; rfl

theorem engine_set_other {x y : Side} {j k : Nat} (hj : j < 8) (hk : k < 8) (h : y ≠ x ∨ j ≠ k) (v : Engine) (s : State) :
    (s.setEngine x k v).engine y j = s.engine y j := by
  refine get_put_other _ _ ?_ _ _
  cases x <;> cases y <;> simp [sideIx] at h ⊢ <;> omega

theorem segment_set {x y : Side} {i j : Nat} (hi : i < 4096) (hj : j < 4096) (v : Segment) (s : State) : (s.setSegment x i v).segment y j =
    if y = x ∧ j = i then (if v = Segment.init then none else some v) else s.segment y j := by
  split
  · rename_i h
    obtain ⟨rfl, rfl⟩ := h
    exact find_put_same ..
  · rename_i h
    refine find_put_other _ ?_ _ _
    cases x <;> cases y <;> simp [sideIx, segKey] at h ⊢ <;> omega

theorem segment_drop_same (x : Side) (i : Nat) (s : State) : (s.dropSegment x i).segment x i = none :=
  (find_put_same Segment.init (segKey x i) Segment.init s.capture.segs).trans (if_pos rfl)

theorem segment_drop_other {x y : Side} (h : y ≠ x) {i : Nat} (s : State) : (s.dropSegment x i).segment y i = s.segment y i := by
  refine find_put_other Segment.init ?_ Segment.init s.capture.segs
  cases x <;> cases y <;> simp [sideIx, segKey] at h ⊢

/-- A segment put is read back, the initial one as none. -/
theorem segment_put_getD {x : Side} {i : Nat} (hi : i < 4096) (v : Segment) (s : State) : ((s.setSegment x i v).segment x i).getD Segment.init = v := by
  rw [segment_set hi hi, if_pos ⟨rfl, rfl⟩]
  split
  · rename_i h; exact h.symm
  · rfl

theorem ended_segment (s : State) (q : List Instr) (x : Side) (i : Nat) : (s.ended q).segment x i = s.segment x i := segment_of (by simp) x i

theorem ended_stream (s : State) (q : List Instr) (k : Nat) : (s.ended q).stream k = s.stream k := stream_of (by simp) k

theorem ended_engine (s : State) (q : List Instr) (x : Side) (k : Nat) : bareEngine ((s.ended q).engine x k) = bareEngine (s.engine x k) :=
  (reportLate_same s).engine x k

theorem ended_vals (s : State) (q : List Instr) (r : Nat) (i j : Nat) : ((s.ended q).reader r).val i j = (s.reader r).val i j := by
  have h : ((s.ended q).reader r).vals = (s.reader r).vals := by simp
  rw [Reader.val, h]
  rfl

theorem val_setVal_same (d : Reader) (i j v : Nat) : (d.setVal i j v).val i j = v := get_put_same 0 _ _ _

theorem val_setVal_other (d : Reader) {i j i' j' : Nat} (h : i' * 256 + j' ≠ i * 256 + j) (v : Nat) : (d.setVal i j v).val i' j' = d.val i' j' :=
  get_put_other 0 0 h v _

/-! ### What occurrences add to an engine's triggers (R383) -/

/-- Triggers have been added, none taken back. -/
structure MoreTriggers (s u : State) : Prop where
  more : ∀ x, ∀ k < 8, ∃ l, (u.engine x k).trigs = (s.engine x k).trigs ++ l

theorem MoreTriggers.trans {a b c : State} (h : MoreTriggers a b) (g : MoreTriggers b c) : MoreTriggers a c := by
  refine ⟨fun x k hk => ?_⟩
  obtain ⟨l, hl⟩ := h.more x k hk
  obtain ⟨m, hm⟩ := g.more x k hk
  exact ⟨l ++ m, by rw [hm, hl, List.append_assoc]⟩

theorem MoreTriggers.of_engines {s u : State} (h : u.capture.engines = s.capture.engines) : MoreTriggers s u :=
  ⟨fun x k _ => ⟨[], by rw [engine_of h, List.append_nil]⟩⟩

theorem MoreTriggers.same (s : State) : MoreTriggers s s := .of_engines rfl

theorem MoreTriggers.foldl {α : Type} {l : List α} {f : State → α → State} (hf : ∀ u, ∀ a ∈ l, MoreTriggers u (f u a)) (s : State) : MoreTriggers s (l.foldl f s) := by
  induction l generalizing s with
  | nil => exact .same s
  | cons a l ih => exact (hf s a (by simp)).trans (ih (fun u b hb => hf u b (by simp [hb])) _)

theorem MoreTriggers.branch {s a b : State} {c : Prop} [Decidable c] (ha : MoreTriggers s a) (hb : MoreTriggers s b) : MoreTriggers s (if c then a else b) := by
  split
  · exact ha
  · exact hb

theorem capture_countIf (bank ev n : Nat) (pass : State → Nat → Bool) (s : State) : (countIf bank ev n pass s).capture = s.capture := by
  have hadd : ∀ (i n : Nat) (u : State), (ctrAdd i n u).capture = u.capture := fun i n u => by
    unfold ctrAdd
    dsimp only
    split
    · rfl
    · split <;> rfl
  refine foldl_keep (fun u : State => u.capture) s.scribe.running _ (fun u i _ => ?_) s
  split
  · unfold ctrBump
    dsimp only
    split
    · exact (hadd _ _ _).trans (hadd _ _ _)
    · exact hadd _ _ _
  · rfl

theorem capture_countEvent (bank ev n e : Nat) (s : State) : (countEvent bank ev n e s).capture = s.capture := capture_countIf ..

theorem moreTriggers_pushTrigger {k : Nat} (hk : k < 8) (t : Nat) (s : State) : MoreTriggers s (pushTrigger k t s) := by
  refine MoreTriggers.foldl (fun u x _ => ?_) s
  refine MoreTriggers.branch ⟨fun y j hj => ?_⟩ (MoreTriggers.branch (.of_engines rfl) (.same u))
  by_cases h : y = x ∧ j = k
  · obtain ⟨rfl, rfl⟩ := h
    exact ⟨[t], by rw [engine_same]⟩
  · exact ⟨[], by rw [engine_set_other hj hk (by by_cases hy : y = x <;> simp_all), List.append_nil]⟩

theorem moreTriggers_occur (e p0 p1 p2 : Nat) (s : State) : MoreTriggers s (s.occur e p0 p1 p2) := by
  have hnotify : ∀ u : State, MoreTriggers u (u.notifyAll e) := fun u => by
    unfold State.notifyAll
    refine MoreTriggers.branch (MoreTriggers.foldl (fun v p _ => ?_) u) (.same u)
    dsimp only
    exact MoreTriggers.branch (.of_engines rfl) (.same v)
  have hplans : ∀ u : State, MoreTriggers u (captureEvents e u) := fun u => by
    unfold captureEvents
    refine MoreTriggers.foldl (fun v k hk => ?_) u
    exact MoreTriggers.branch (moreTriggers_pushTrigger (List.mem_range.1 hk) _ v) (.same v)
  unfold State.occur
  extract_lets u cnt v w
  have hw : MoreTriggers s w := .of_engines rfl
  exact hw.trans ((hnotify w).trans ((hplans _).trans (.of_engines (by rw [capture_countEvent]))))

theorem moreTriggers_record (code origin p0 p1 p2 : Nat) (s : State) : MoreTriggers s (s.record code origin p0 p1 p2) := by
  have hwrite : ∀ (u : State) d, MoreTriggers u (u.writeRecord code origin d p0 p1 p2) := fun u d => by
    unfold State.writeRecord
    extract_lets m r _q v w
    have hw : MoreTriggers u w := .of_engines (by
      show (countEvent 2 0x48 1 0 ((v.incWrap 0x8100 4).setNum 0xF000 1 (m + 1))).capture.engines = _
      rw [capture_countEvent]
      rfl)
    exact MoreTriggers.branch (hw.trans (moreTriggers_occur ..)) hw
  have hset : ∀ b : Store Bucket, MoreTriggers s { s with scribe := { s.scribe with buckets := b } } := fun _ => .of_engines rfl
  unfold State.record
  generalize bucketOf s code = bk
  obtain ⟨key, cap, refill⟩ := bk
  dsimp only
  refine MoreTriggers.branch ((hset _).trans (hwrite _ _)) (MoreTriggers.branch ((hset _).trans (hwrite _ _)) ?_)
  have hcount : (countEvent 2 0x49 1 0 ((s.incSat 0x8100 8).setBitO 0x8100 3 0 true)).capture = s.capture := capture_countEvent ..
  generalize countEvent 2 0x49 1 0 ((s.incSat 0x8100 8).setBitO 0x8100 3 0 true) = u at hcount ⊢
  have hdrop : ∀ b : Store Bucket, MoreTriggers s { u with scribe := { u.scribe with buckets := b } } := fun _ => .of_engines (congrArg (fun c => c.engines) hcount)
  exact MoreTriggers.branch ((hdrop _).trans (moreTriggers_occur ..)) (hdrop _)

theorem moreTriggers_raise (e p0 p1 p2 : Nat) (s : State) : MoreTriggers s (s.raise e p0 p1 p2) := by
  unfold State.raise
  exact MoreTriggers.branch ((moreTriggers_occur ..).trans (moreTriggers_record ..)) (moreTriggers_occur ..)

/-- The end of a command takes no trigger back. -/
theorem moreTriggers_ended (s : State) (q : List Instr) : MoreTriggers s (s.ended q) := by
  have hmissed : ∀ (l : List Nat) (u : State), MoreTriggers u (l.foldl (fun s k => s.raise 213 k) u) := fun l u => .foldl (fun v k _ => moreTriggers_raise ..) u
  have hovf : ∀ (l : List Nat) (u : State), MoreTriggers u (l.foldl (fun s i => s.raise 218 (ctrBank i) (i - 48 * ctrBank i)) u) :=
    fun l u => .foldl (fun v k _ => moreTriggers_raise ..) u
  exact (hmissed _ _).trans ((hovf _ _).trans (.of_engines rfl))

theorem evKey_plan {k j : Nat} (hk : k < 8) (hj : j < 13) : evKey ((0x8010 + k) * 256 + j) = false :=
  (show ∀ k < 8, ∀ j < 13, evKey ((0x8010 + k) * 256 + j) = false by decide) k hk j hj

theorem planWord_kept {k j : Nat} (hk : k < 8) (hj : j < 13) : [(⟨0x8010, 0x8017, 13, 13⟩ : Objs)].any (·.has ((0x8010 + k) * 256 + j)) = false :=
  (show ∀ k < 8, ∀ j < 13, [(⟨0x8010, 0x8017, 13, 13⟩ : Objs)].any (·.has ((0x8010 + k) * 256 + j)) = false by decide) k hk j hj

/-! ### A command to the plans of a mask (Table 14.4) -/

/-- A step for each plan of a mask acts on a plan of it once, with the other steps around it. -/
theorem forMask_through {n m k : Nat} {f : Nat → State → State} {R : State → State → Prop} (hrefl : ∀ v, R v v) (htrans : ∀ {a b c}, R a b → R b c → R a c)
    (hk : k < n) (hm : m.testBit k = true) (h : ∀ i v, i < n → i ≠ k → R v (f i v)) (s : State) : ∃ u, R s u ∧ R (f k u) (forMask n m f s) := by
  have hmem : k ∈ maskList n m := by simp [maskList, hk, hm]
  have hnodup : (maskList n m).Nodup := List.nodup_range.filter _
  have hlt : ∀ i ∈ maskList n m, i < n := fun i hi => maskList_lt hi
  unfold forMask
  obtain ⟨before, after, hsplit⟩ := List.append_of_mem hmem
  rw [hsplit] at hnodup hlt ⊢
  have hrest : ∀ (l : List Nat), (∀ i ∈ l, i < n ∧ i ≠ k) → ∀ v, R v (l.foldl (fun a i => f i a) v) := fun l => by
    induction l with
    | nil => exact fun _ v => hrefl v
    | cons i l ih => exact fun hl v => htrans (h i v (hl i (by simp)).1 (hl i (by simp)).2) (ih (fun j hj => hl j (by simp [hj])) _)
  have hne : (∀ i ∈ before, i ≠ k) ∧ ∀ i ∈ after, i ≠ k := by
    rw [List.nodup_append] at hnodup
    obtain ⟨-, h2, h3⟩ := hnodup
    exact ⟨fun i hi => h3 i hi k (by simp), fun i hi heq => (List.nodup_cons.1 h2).1 (heq ▸ hi)⟩
  rw [List.foldl_append, List.foldl_cons]
  exact ⟨_, hrest before (fun i hi => ⟨hlt i (by simp [hi]), hne.1 i hi⟩) s, hrest after (fun i hi => ⟨hlt i (by simp [hi]), hne.2 i hi⟩) _⟩

/-- Two states in which a plan stands alike. -/
structure SamePlan (k : Nat) (s u : State) : Prop where
  own : Own [.capture] [⟨0x8010, 0x8017, 13, 13⟩] s u
  engine : ∀ x, u.engine x k = s.engine x k
  stream : u.stream k = s.stream k

namespace SamePlan

theorem refl {k : Nat} (s : State) : SamePlan k s s := ⟨Own.same s, fun _ => rfl, rfl⟩

theorem trans {k : Nat} {a b c : State} (h : SamePlan k a b) (g : SamePlan k b c) : SamePlan k a c :=
  ⟨h.own.step g.own, fun x => (g.engine x).trans (h.engine x), g.stream.trans h.stream⟩

theorem branch {k : Nat} {s a b : State} {c : Prop} [Decidable c] (ha : SamePlan k s a) (hb : SamePlan k s b) : SamePlan k s (if c then a else b) := by
  split
  · exact ha
  · exact hb

theorem setEngine {k i : Nat} (hk : k < 8) (hi : i < 8) (h : i ≠ k) (x : Side) (v : Engine) (s : State) : SamePlan k s (s.setEngine x i v) :=
  ⟨Own.setEngine (by decide) (Own.same s), fun _ => engine_set_other hk hi (.inr (Ne.symm h)) v s, rfl⟩

theorem setStream {k i : Nat} (h : i ≠ k) (v : Stream) (s : State) : SamePlan k s (s.setStream i v) :=
  ⟨Own.setStream (by decide) (Own.same s), fun _ => rfl, by rw [stream_set, if_neg (Ne.symm h)]⟩

theorem pushTrigger {k i : Nat} (hk : k < 8) (hi : i < 8) (h : i ≠ k) (t : Nat) (s : State) : SamePlan k s (pushTrigger i t s) := by
  have hone : ∀ (u : State) (x : Side), SamePlan k u (if ((u.engine x i).seg.isSome && !(u.engine x i).past) = true
      then u.setEngine x i { u.engine x i with trigs := (u.engine x i).trigs ++ [t] } else if u.reports x = true then missTrigger i u else u) := fun u x =>
    branch (setEngine hk hi h ..) (branch ⟨Own.missTrigger (by decide) (by decide) hi (Own.same u), fun _ => rfl, rfl⟩ (refl u))
  exact (hone s .A).trans (hone _ .B)

theorem ended {k : Nat} {s u : State} (h : SamePlan k s u) (q : List Instr) : (∀ x, bareEngine ((u.ended q).engine x k) = bareEngine (s.engine x k)) ∧
    (u.ended q).stream k = s.stream k :=
  ⟨fun x => by rw [ended_engine, h.engine], by rw [ended_stream, h.stream]⟩

theorem planOn {k : Nat} (hk : k < 8) {s u : State} (h : SamePlan k s u) : planOn u k = planOn s k := by
  simp only [Machine.planOn, planIx, State.bit, h.own.numKept (0x8010 + k) 1 (evKey_plan hk (by decide)) (planWord_kept hk (by decide))]

end SamePlan

/-! ### The capture commands (R382, R383, R386) -/

/-- What ARM does to one plan. -/
def armOne (sid k : Nat) (s : State) : State :=
  if planOn s k then
    let one := fun (x : Side) (s : State) => s.setEngine x k { s.engine x k with armAt := some ((s.engine x k).armAt.getD s.appTime) }
    let v := s.engine s.reporter k
    let s := if v.armAt.isNone && (v.seg.isNone || v.stopping) then s.setStream k { s.stream k with owner := sid } else s
    one .B (one .A s)
  else s

theorem armPlans_eq (m sid : Nat) (s : State) : armPlans m sid s = forMask 8 m (armOne sid) s := rfl

theorem armOne_reads {sid k : Nat} (hk : k < 8) {s : State} (hon : planOn s k = true) : let u := armOne sid k s
    (∀ x, (u.engine x k).armAt = some ((s.engine x k).armAt.getD s.appTime)) ∧
      (u.stream k).owner = if (s.engine s.reporter k).armAt = none ∧ ((s.engine s.reporter k).seg = none ∨ (s.engine s.reporter k).stopping = true) then sid
        else (s.stream k).owner := by
  unfold armOne
  rw [if_pos hon]
  extract_lets one v _q w
  have hw : (∀ x, w.engine x k = s.engine x k) ∧ w.appTime = s.appTime ∧ (w.stream k).owner =
      if v.armAt = none ∧ (v.seg = none ∨ v.stopping = true) then sid else (s.stream k).owner := by
    have hcond : (v.armAt.isNone && (v.seg.isNone || v.stopping)) = decide (v.armAt = none ∧ (v.seg = none ∨ v.stopping = true)) := by
      cases v.armAt <;> cases v.seg <;> cases v.stopping <;> rfl
    have hw' : w = if (v.armAt.isNone && (v.seg.isNone || v.stopping)) = true then s.setStream k { s.stream k with owner := sid } else s := rfl
    rw [hw', hcond]
    by_cases h : v.armAt = none ∧ (v.seg = none ∨ v.stopping = true)
    · rw [if_pos (by simpa using h), if_pos h]
      exact ⟨fun _ => rfl, rfl, congrArg Stream.owner (stream_same ..)⟩
    · rw [if_neg (by simpa using h), if_neg h]
      exact ⟨fun _ => rfl, rfl, rfl⟩
  obtain ⟨hengine, happ, hstream⟩ := hw
  clear_value w
  have hone : ∀ (x : Side) (u : State), (one x u).engine x k = { u.engine x k with armAt := some ((u.engine x k).armAt.getD u.appTime) } ∧
      (one x u).engine (otherSide x) k = u.engine (otherSide x) k ∧ (one x u).appTime = u.appTime := fun x u =>
    ⟨engine_same .., engine_set_other hk hk (.inl (by cases x <;> decide)) .., rfl⟩
  refine ⟨fun x => ?_, hstream⟩
  have hA := hone .A w
  have hB := hone .B (one .A w)
  cases x
  · have h : (one .B (one .A w)).engine .A k = (one .A w).engine .A k := hB.2.1
    rw [h, hA.1, hengine, happ]
  · have h : (one .A w).engine .B k = w.engine .B k := hA.2.1
    rw [hB.1, h, hengine, hA.2.2, happ]

theorem armOne_samePlan {sid i k : Nat} (hk : k < 8) (hi : i < 8) (h : i ≠ k) (s : State) : SamePlan k s (armOne sid i s) := by
  unfold armOne
  refine SamePlan.branch ?_ (.refl s)
  extract_lets one v _q w
  have hw : SamePlan k s w := SamePlan.branch (.setStream h _ s) (.refl s)
  have hone : ∀ x u, SamePlan k u (one x u) := fun x u => .setEngine hk hi h x _ u
  exact hw.trans ((hone .A w).trans (hone .B _))

/-- What DISARM does to one plan. -/
def disarmOne (k : Nat) (s : State) : State :=
  let one := fun (x : Side) (s : State) => s.setEngine x k { s.engine x k with armAt := none, stopping := (s.engine x k).seg.isSome, full := false }
  one .B (one .A s)

theorem disarmPlans_eq (m : Nat) (s : State) : disarmPlans m s = forMask 8 m disarmOne s := rfl

theorem disarmOne_reads {k : Nat} (hk : k < 8) (s : State) (x : Side) : (disarmOne k s).engine x k =
    { s.engine x k with armAt := none, stopping := (s.engine x k).seg.isSome, full := false } := by
  unfold disarmOne
  extract_lets one
  have hone : ∀ (x : Side) (u : State), (one x u).engine x k = { u.engine x k with armAt := none, stopping := (u.engine x k).seg.isSome, full := false } ∧
      (one x u).engine (otherSide x) k = u.engine (otherSide x) k := fun x u =>
    ⟨engine_same .., engine_set_other hk hk (.inl (by cases x <;> decide)) ..⟩
  have hA := hone .A s
  have hB := hone .B (one .A s)
  cases x
  · have h : (one .B (one .A s)).engine .A k = (one .A s).engine .A k := hB.2
    rw [h, hA.1]
  · have h : (one .A s).engine .B k = s.engine .B k := hA.2
    rw [hB.1, h]

theorem disarmOne_samePlan {i k : Nat} (hk : k < 8) (hi : i < 8) (h : i ≠ k) (s : State) : SamePlan k s (disarmOne i s) :=
  (SamePlan.setEngine hk hi h .A _ s).trans (.setEngine hk hi h .B _ _)

/-- A trigger waits in each sill with an armed segment not past its own (R383). -/
theorem pushTrigger_reads {k : Nat} (hk : k < 8) {x : Side} {t : Nat} {s : State} (hseg : (s.engine x k).seg.isSome = true) (hpast : (s.engine x k).past = false) :
    t ∈ ((pushTrigger k t s).engine x k).trigs := by
  let one := fun (u : State) (y : Side) => if ((u.engine y k).seg.isSome && !(u.engine y k).past) = true
    then u.setEngine y k { u.engine y k with trigs := (u.engine y k).trigs ++ [t] } else if u.reports y = true then missTrigger k u else u
  have hpush : pushTrigger k t s = one (one s .A) .B := rfl
  have hother : ∀ (u : State) y, (one u y).engine (otherSide y) k = u.engine (otherSide y) k := fun u y => by
    show (if _ then _ else _ : State).engine _ _ = _
    split
    · exact engine_set_other hk hk (.inl (by cases y <;> decide)) ..
    · split <;> rfl
  have hsame : ∀ (u : State), (u.engine x k).seg.isSome = true → (u.engine x k).past = false → t ∈ ((one u x).engine x k).trigs := fun u h1 h2 => by
    show t ∈ ((if ((u.engine x k).seg.isSome && !(u.engine x k).past) = true
      then u.setEngine x k { u.engine x k with trigs := (u.engine x k).trigs ++ [t] } else _ : State).engine x k).trigs
    rw [if_pos (by rw [h1, h2]; rfl), engine_same]
    simp
  rw [hpush]
  cases x
  · have h : (one (one s .A) .B).engine .A k = (one s .A).engine .A k := hother (one s .A) .B
    rw [h]
    exact hsame s hseg hpast
  · have h : (one s .A).engine .B k = s.engine .B k := hother s .A
    exact hsame _ (by rw [h]; exact hseg) (by rw [h]; exact hpast)

/-! ### Segments freed and held (R386) -/

/-- A segment is freed on its side, and the other side's is left. -/
theorem freeSegment_reads {k i : Nat} (hk : k < 8) (hi : i < 4096) (x : Side) (s : State) : let u := freeSegment x k i s
    (∀ v, s.segment x i = some v → (if v.complete = true then u.segment x i = none ∧ ((s.engine x k).full = true →
        (u.engine x k).full = false ∧ (u.engine x k).armAt = some s.appTime)
      else (u.segment x i).getD Segment.init = { v with heldUntil := 0 })) ∧
    u.segment (otherSide x) i = s.segment (otherSide x) i ∧ u.engine (otherSide x) k = s.engine (otherSide x) k ∧ u.appTime = s.appTime := by
  have hne : otherSide x ≠ x := by cases x <;> decide
  unfold freeSegment
  cases hseg : s.segment x i with
  | none => exact ⟨fun v h => (by cases h), rfl, rfl, rfl⟩
  | some v =>
    dsimp only
    by_cases hc : v.complete = true
    · rw [if_pos hc]
      by_cases hf : ((s.dropSegment x i).engine x k).full = true
      · rw [if_pos hf]
        refine ⟨fun w hw => ?_, segment_drop_other hne s, engine_set_other hk hk (.inl hne) _ _, rfl⟩
        cases hw
        rw [if_pos hc, engine_same]
        exact ⟨segment_drop_same x i s, fun _ => ⟨rfl, rfl⟩⟩
      · rw [if_neg hf]
        refine ⟨fun w hw => ?_, segment_drop_other hne s, rfl, rfl⟩
        cases hw
        rw [if_pos hc]
        exact ⟨segment_drop_same x i s, fun h => absurd h hf⟩
    · rw [if_neg hc]
      refine ⟨fun w hw => ?_, ?_, rfl, rfl⟩
      · cases hw
        rw [if_neg hc]
        exact segment_put_getD hi _ s
      · rw [segment_set hi hi, if_neg (by simp [hne])]

/-- A release frees each side's segment by what stands there. -/
theorem releaseSegment_reads {k i : Nat} (hi : i < 4096) {s : State} (hplan : planOfSegment s i = some k) (x : Side) : let u := releaseSegment i s
    ∀ v, s.segment x i = some v → (if v.complete = true then u.segment x i = none ∧ ((s.engine x k).full = true →
        (u.engine x k).full = false ∧ (u.engine x k).armAt = some s.appTime)
      else (u.segment x i).getD Segment.init = { v with heldUntil := 0 }) := by
  have hk : k < 8 := List.mem_range.1 (List.mem_of_find?_eq_some hplan)
  have hrel : releaseSegment i s = freeSegment .B k i (freeSegment .A k i s) := by
    unfold releaseSegment
    rw [hplan]
  rw [hrel]
  obtain ⟨hA, hsegA, hengA, happA⟩ := freeSegment_reads hk hi .A s
  obtain ⟨hB, hsegB, hengB, -⟩ := freeSegment_reads hk hi .B (freeSegment .A k i s)
  intro u v hv
  cases x
  · have h1 : u.segment .A i = (freeSegment .A k i s).segment .A i := hsegB
    have h2 : u.engine .A k = (freeSegment .A k i s).engine .A k := hengB
    rw [h1, h2]
    exact hA v hv
  · have h1 : (freeSegment .A k i s).segment .B i = s.segment .B i := hsegA
    have h2 : (freeSegment .A k i s).engine .B k = s.engine .B k := hengA
    have h := hB v (h1.trans hv)
    rw [h2, happA] at h
    exact h

/-- A read holds the segment on both sides for 10 s. -/
theorem holdSegment_reads {i : Nat} (hi : i < 4096) (x : Side) {w : Segment} {s : State} (h : s.segment x i = some w) :
    ((holdSegment i s).segment x i).getD Segment.init = { w with heldUntil := s.now + secFs 10 } := by
  let one := fun (y : Side) (u : State) => match u.segment y i with
    | some v => u.setSegment y i { v with heldUntil := u.now + secFs 10 }
    | none => u
  have hhold : holdSegment i s = one .B (one .A s) := rfl
  have hone : ∀ (y : Side) (u : State), (one y u).segment (otherSide y) i = u.segment (otherSide y) i ∧ (one y u).now = u.now ∧
      ∀ v, u.segment y i = some v → ((one y u).segment y i).getD Segment.init = { v with heldUntil := u.now + secFs 10 } := fun y u => by
    show (match u.segment y i with | some v => u.setSegment y i { v with heldUntil := u.now + secFs 10 } | none => u).segment (otherSide y) i = _ ∧
      (match u.segment y i with | some v => u.setSegment y i { v with heldUntil := u.now + secFs 10 } | none => u).now = _ ∧ ∀ v, _ →
      ((match u.segment y i with | some v => u.setSegment y i { v with heldUntil := u.now + secFs 10 } | none => u).segment y i).getD Segment.init = _
    cases hseg : u.segment y i with
    | none => exact ⟨rfl, rfl, fun v hv => by cases hv⟩
    | some v =>
      refine ⟨?_, rfl, fun v' hv' => ?_⟩
      · dsimp only
        rw [segment_set hi hi, if_neg (by cases y <;> simp [otherSide])]
      · cases hv'
        exact segment_put_getD hi _ u
  rw [hhold]
  have hA := hone .A s
  have hB := hone .B (one .A s)
  cases x
  · have h1 : (one .B (one .A s)).segment .A i = (one .A s).segment .A i := hB.1
    rw [h1, hA.2.2 w h]
  · have h1 : (one .A s).segment .B i = s.segment .B i := hA.1
    rw [hB.2.2 w (h1.trans h), hA.2.1]

theorem appTime_own {P : List Part} {G : List Objs} {s u : State} (h : Own P G s u) (hp : Part.time ∉ P) : u.appTime = s.appTime := by
  simp only [State.appTime, h.time hp]

theorem reporter_own {P : List Part} {G : List Objs} {s u : State} (h : Own P G s u) (hG : G.any (·.has (0x6021 * 256 + 1)) = false) : u.reporter = s.reporter :=
  (sideWords_of (h.numKept 0x6021 1 rfl hG)).2.2.2.2.1

/-- Settles O43: every clause follows from what a command does to one plan, segment or reader. -/
theorem captureCommandsComplete : Obligations.CaptureCommandsComplete := by
  intro s t b
  have hb : s.arrive t = b := rfl
  clear_value b
  refine ⟨fun m r k hm hr hok hk hmask hon => ?_, fun m k hm hok hk hmask => ?_, fun m k x hm hok hk hmask hon hseg hpast => ?_,
    fun i k x v hi hok hplan hseg hc => ?_, fun i x v hi hok hseg hc => ?_, fun x i v hi hseg hlate => ?_, fun r v hr hv hok => ?_,
    fun r i v hr hi hok hsel => ?_, fun r hr hok hsel => ?_⟩
  · refine gives_of_run hb (execArm.eq_def ..) (by simp [Instr.wf, hm, hr]) ?_
    rw [if_pos hok, armPlans_eq]
    obtain ⟨u, hu, hafter⟩ := forMask_through (f := armOne ((b.sessionOf r).getD 0)) SamePlan.refl SamePlan.trans hk hmask (fun i v hi hne => armOne_samePlan hk hi hne v) b
    obtain ⟨harm, howner⟩ := armOne_reads (sid := (b.sessionOf r).getD 0) hk ((hu.planOn hk).trans hon)
    obtain ⟨hengine, hstream⟩ := hafter.ended s.pending
    rw [reporter_own hu.own rfl, hu.engine, hu.stream] at howner
    refine ⟨fun x => ?_, by rw [hstream]; exact howner⟩
    have hx := congrArg Engine.armAt (hengine x)
    refine hx.trans ((harm x).trans ?_)
    rw [hu.engine, appTime_own hu.own (by decide)]
  · refine gives_of_run hb (execDisarm.eq_def ..) (decide_eq_true hm) (fun x => ?_)
    rw [if_pos hok, disarmPlans_eq]
    obtain ⟨u, hu, hafter⟩ := forMask_through (f := disarmOne) SamePlan.refl SamePlan.trans hk hmask (fun i v hi hne => disarmOne_samePlan hk hi hne v) b
    obtain ⟨hengine, -⟩ := hafter.ended s.pending
    have hx := hengine x
    rw [disarmOne_reads hk, hu.engine] at hx
    exact ⟨congrArg Engine.armAt hx, congrArg Engine.full hx, congrArg Engine.stopping hx⟩
  · refine gives_of_run hb (execTrigger.eq_def ..) (decide_eq_true hm) ?_
    rw [if_pos hok]
    obtain ⟨u, hu, hafter⟩ := forMask_through (f := fun k s => if planOn s k then pushTrigger k s.appTime s else s) SamePlan.refl SamePlan.trans hk hmask
      (fun i v hi hne => SamePlan.branch (.pushTrigger hk hi hne _ v) (.refl v)) b
    have hpush := pushTrigger_reads hk (t := u.appTime) (by rw [hu.engine]; exact hseg) (by rw [hu.engine]; exact hpast)
    rw [if_pos ((hu.planOn hk).trans hon)] at hafter
    rw [← hafter.engine, appTime_own hu.own (by decide)] at hpush
    obtain ⟨l, hl⟩ := (moreTriggers_ended (triggerPlans m b) s.pending).more x k hk
    rw [hl]
    exact List.mem_append_left _ hpush
  · refine gives_of_run hb (execRelease.eq_def ..) (decide_eq_true hi) ?_
    rw [if_pos hok, ended_segment]
    have h := releaseSegment_reads hi hplan x v hseg
    rw [if_pos hc] at h
    refine ⟨h.1, fun hfull => ?_⟩
    have hend := ended_engine (releaseSegment i b) s.pending x k
    have h2 := h.2 hfull
    exact ⟨(congrArg Engine.full hend).trans h2.1, (congrArg Engine.armAt hend).trans h2.2⟩
  · refine gives_of_run hb (execRelease.eq_def ..) (decide_eq_true hi) ?_
    rw [if_pos hok, ended_segment]
    cases hplan : planOfSegment b i with
    | none =>
      have hrel : releaseSegment i b = b := by unfold releaseSegment; rw [hplan]
      rw [hrel, hseg]
      rfl
    | some k =>
      have h := releaseSegment_reads hi hplan x v hseg
      rw [if_neg (by simp [hc])] at h
      exact h
  · refine gives_of_run hb (execSegmentHoldExpiry.eq_def ..) (decide_eq_true hi) ?_
    rw [hseg]
    dsimp only
    rw [if_pos hlate, ended_segment]
    exact segment_put_getD hi _ b
  · refine gives_of_run hb (execSegmentSelect.eq_def ..) (by simp [Instr.wf, hr, hv]) ?_
    rw [if_pos hok, ended_vals, ended_vals, selectSegment, reader_same]
    exact ⟨(val_setVal_other _ (by decide) _).trans (val_setVal_same ..), val_setVal_same ..⟩
  · refine gives_of_run hb (execSegmentRowsRead.eq_def ..) (decide_eq_true hr) ?_
    intro off n
    have hread : readRows r b = (rowsData v off n, (holdSegment i b).setReader r ((b.reader r).setVal 0x8020 3 (off + n))) := by
      unfold readRows
      rw [hsel]
    rw [if_pos hok, hread]
    dsimp only
    have hhold : Own [.capture] [] b (holdSegment i b) := Own.holdSegment (by decide) (Own.same b)
    refine ⟨(clock_ended _ _).2.2.2.trans ?_, (ended_vals ..).trans ?_, fun x w hw => (congrArg (Option.getD · Segment.init) (ended_segment ..)).trans ?_⟩
    · show (holdSegment i b).out ++ _ = _
      rw [hhold.out (by decide)]
    · show (((holdSegment i b).setReader r ((b.reader r).setVal 0x8020 3 (off + n))).reader r).val 0x8020 3 = off + n
      rw [reader_same]
      exact val_setVal_same ..
    · exact holdSegment_reads hi x hw
  · refine gives_of_run hb (execSegmentRowsRead.eq_def ..) (decide_eq_true hr) ?_
    have hread : readRows r b = ([], b) := by
      unfold readRows
      rw [hsel]
    rw [if_pos hok, hread]
    exact (clock_ended _ _).2.2.2

end Sys2Proof
end

section
/-!
SUPPORT. Rows of capture plans and streams (chapter 14).
-/
namespace Sys2Proof
open Sys2Proof.Machine


/-! ### Rows (R379, R382 to R388) -/

/-- The last event taken by a plan is as it was. -/
structure SameLast (x : Side) (k : Nat) (s u : State) : Prop where
  last : (u.engine x k).lastEv = (s.engine x k).lastEv

namespace SameLast

variable {x : Side} {k : Nat} {s u : State}

theorem trans {a b c : State} (h : SameLast x k a b) (g : SameLast x k b c) : SameLast x k a c := ⟨g.last.trans h.last⟩

theorem of_engines (h : u.capture.engines = s.capture.engines) : SameLast x k s u := ⟨by rw [engine_of h]⟩

theorem same (s : State) : SameLast x k s s := ⟨rfl⟩

theorem of_events (h : EvSame s u) : SameLast x k s u := ⟨(congrArg Engine.lastEv (h.engine x k) : (bareEngine _).lastEv = (bareEngine _).lastEv)⟩

theorem raise (e p0 p1 p2 : Nat) (s : State) : SameLast x k s (s.raise e p0 p1 p2) := of_events (raise_same e p0 p1 p2 s)

theorem setEngine {v : Engine} (s : State) (h : v.lastEv = (s.engine x k).lastEv) : SameLast x k s (s.setEngine x k v) := ⟨by rw [engine_same, h]⟩

theorem branch {a b : State} {c : Prop} [Decidable c] (ha : c → SameLast x k s a) (hb : ¬ c → SameLast x k s b) : SameLast x k s (if c then a else b) := by
  split
  · exact ha ‹_›
  · exact hb ‹_›

theorem missWaiting (s : State) : SameLast x k s (missWaiting x k s) := by
  unfold Machine.missWaiting
  extract_lets v w
  have hw : SameLast x k s w := by
    refine branch (fun _ => ?_) (fun _ => same s)
    have hall : ∀ (l : List Nat) (u : State), SameLast x k u (l.foldl (fun s _ => missTrigger k s) u) := fun l => by
      induction l with
      | nil => exact fun u => same u
      | cons a l ih => exact fun u => (of_engines (s := u) (u := missTrigger k u) rfl).trans (ih _)
    exact hall v.trigs s
  exact hw.trans (setEngine w (by rw [hw.last]))

theorem armNext (since : Nat) (s : State) : SameLast x k s (armNext x k since s) := by
  unfold Machine.armNext
  extract_lets v w u
  split
  · exact ⟨by rw [engine_same]⟩
  · have hw : SameLast x k s w := missWaiting s
    have hu : SameLast x k s u := hw.trans (setEngine w (by rw [hw.last]))
    exact branch (fun _ => hu.trans (raise _ _ _ _ u)) (fun _ => hu)

theorem completeSegment (id : Nat) (cut : Bool) (s : State) : SameLast x k s (completeSegment x k id cut s) := by
  unfold Machine.completeSegment
  extract_lets v g g' s1 s2 s3 s4
  have h1 : SameLast x k s s1 := of_engines rfl
  have h2 : SameLast x k s s2 := h1.trans (setEngine s1 h1.last.symm)
  have h3 : SameLast x k s s3 := h2.trans (branch (fun _ => of_engines rfl) (fun _ => same s2))
  have h4 : SameLast x k s s4 := h3.trans (raise _ _ _ _ s3)
  exact branch (fun _ => h4.trans (missWaiting s4)) (fun _ => h4.trans (armNext 0 s4))

theorem doubleFactor (cause : Nat) (s : State) : SameLast x k s (doubleFactor x k cause s) := by
  unfold Machine.doubleFactor
  extract_lets v f s1 s2
  refine branch (fun _ => same s) (fun _ => ?_)
  have h1 : SameLast x k s s1 := setEngine s rfl
  have h2 : SameLast x k s1 s2 := by
    have hs2 : s2 = match v.seg.bind (s1.segment x) with
      | some g => if v.past then s1.setSegment x (v.seg.getD 0) { g with flags := g.flags ||| 8, changes := g.changes ++ [(v.total - v.start, f, cause)] } else s1
      | none => s1 := rfl
    rw [hs2]
    clear hs2
    split
    · exact branch (fun _ => of_engines rfl) (fun _ => same s1)
    · exact same s1
  exact h1.trans (h2.trans ((of_engines (s := s2) (u := s2.setBitO 0x8000 2 0 true) rfl).trans (raise _ _ _ _ _)))

theorem acceptTrigger (id : Nat) (r : Row) (s : State) : SameLast x k s (acceptTrigger x k id r s) := by
  unfold Machine.acceptTrigger
  extract_lets v pre first f0 ch flags _q s1 s2
  have h1 : SameLast x k s s1 := of_engines rfl
  have h2 : SameLast x k s s2 := h1.trans (setEngine s1 h1.last.symm)
  exact branch (fun _ => h2.trans (raise _ _ _ _ s2)) (fun _ => h2)

theorem takeRow (id : Nat) (r : Row) (s : State) : SameLast x k s (takeRow x k id r s) := by
  unfold Machine.takeRow
  extract_lets v due time late g s1 s2 v2
  have hw : SameLast x k s s2 := by
    refine branch (fun _ => ?_) (fun _ => branch (fun _ => acceptTrigger id r s) (fun _ => setEngine s rfl))
    exact branch (fun _ => of_engines rfl) (fun _ => of_engines rfl)
  exact hw.trans (setEngine s2 rfl)

theorem writeBacklog (id fill : Nat) (s : State) : SameLast x k s (writeBacklog x k id fill s) := by
  unfold Machine.writeBacklog
  extract_lets v s1 s2 s3
  have h1 : SameLast x k s s1 := of_engines rfl
  have h2 : SameLast x k s s2 := h1.trans (branch (fun _ => completeSegment id true s1) (fun _ => armNext 0 s1))
  have h3 : SameLast x k s s3 := setEngine s rfl
  exact branch (fun _ => h2.trans (raise _ _ _ _ s2)) (fun _ => branch (fun _ => h3.trans (doubleFactor 1 s3)) (fun _ => h3))

theorem recordRow (id e fill : Nat) (s : State) : SameLast x k s (recordRow x k id e fill s) := by
  unfold Machine.recordRow
  extract_lets sig s1 s2
  have h1 : SameLast x k s s1 := of_engines (by rw [show s1.capture = s.capture from capture_countEvent ..])
  have h2 : SameLast x k s s2 := h1.trans (takeRow _ _ s1)
  split
  · exact branch (fun _ => h2.trans (completeSegment _ _ s2)) (fun _ => h2.trans (writeBacklog _ _ s2))
  · exact h2.trans (writeBacklog _ _ s2)

theorem orderedDoubling (e : Nat) (s : State) : SameLast x k s (orderedDoubling x k e s) := by
  unfold Machine.orderedDoubling
  extract_lets v s1
  split
  · have h1 : SameLast x k s s1 := setEngine s rfl
    exact branch (fun _ => branch (fun _ => h1.trans (doubleFactor 2 s1)) (fun _ => h1)) (fun _ => same s)
  · exact same s

end SameLast

/-- An event of a plan's timebase is the last one taken. -/
theorem captureEvent_last (x : Side) (k : Nat) (ev : Nat × Nat) (fill : Nat) (s : State) : ((captureEvent x k ev fill s).engine x k).lastEv = some ev := by
  unfold captureEvent
  extract_lets e _q v s1 v1 arms s2 s3 v3
  have h1 : (s1.engine x k).lastEv = some ev := by
    have hs1 : s1 = if (v.stopping && !v.past) = true then missWaiting x k (s.setEngine x k { v with seg := none, stopping := false, rows := [] }) else s.setEngine x k v := rfl
    rw [hs1]
    split
    · rw [(SameLast.missWaiting _).last, engine_same]
    · rw [engine_same]
  have h2 : SameLast x k s1 s2 := SameLast.branch (fun _ => .same s1) (fun _ => SameLast.branch (fun _ => .setEngine s1 rfl)
    (fun _ => SameLast.trans (b := s1.setEngine x k { v1 with timeDone := false }) (.setEngine s1 rfl) (.armNext _ _)))
  have h3 : SameLast x k s1 s3 := h2.trans (.orderedDoubling e s2)
  have hv3 : v3.lastEv = (s3.engine x k).lastEv := rfl
  refine Eq.trans ?_ h1
  clear_value v3 s3 s2 arms v1 s1
  split
  · exact h3.last
  · refine (h3.trans ?_).last
    exact SameLast.branch (fun _ => .setEngine s3 hv3) (fun _ => .recordRow _ _ _ s3)

/-- An event of a plan with a segment armed and no command waiting is passed over or recorded (R379). -/
theorem captureEvent_plain {x : Side} {k : Nat} {ev : Nat × Nat} {fill i : Nat} {s : State} (hseg : (s.engine x k).seg = some i)
    (hstop : (s.engine x k).stopping = false) (harm : (s.engine x k).armAt = none) (hhalve : (s.engine x k).halveAt = none) :
    let v := { s.engine x k with lastEv := some ev }
    let u := s.setEngine x k v
    captureEvent x k ev fill s = if v.since + 1 < 2 ^ v.factor then u.setEngine x k { v with since := v.since + 1 } else recordRow x k i ev.1 fill u := by
  intro v u
  have hu : u.engine x k = v := engine_same ..
  have hord : orderedDoubling x k ev.1 u = u := by
    have : v.halveAt = none := hhalve
    simp only [orderedDoubling, hu, this]
  have hvseg : v.seg = some i := hseg
  unfold captureEvent
  extract_lets e _q v0 s1 v1 arms s2 s3 v3
  have h1 : s1 = u := if_neg (by
    show ¬ ((s.engine x k).stopping && !(s.engine x k).past) = true
    simp [hstop])
  have hv1 : v1 = v := by show s1.engine x k = v; rw [h1, hu]
  have harms : arms = false := by
    show v1.armAt.any (fun a => decide (a ≤ e)) = false
    rw [hv1, show v.armAt = none from harm]
    rfl
  have h2 : s2 = u := (if_pos (by rw [harms]; rfl)).trans h1
  have h3 : s3 = u := by show orderedDoubling x k e s2 = u; rw [h2]; exact hord
  have hv3 : v3 = v := by show s3.engine x k = v; rw [h3, hu]
  rw [hv3, h3]
  simp only [hvseg]
  rfl

/-- A segment put is read back on its own side. -/
theorem segment_put_same (x : Side) (i : Nat) {v : Segment} (hv : v ≠ Segment.init) (s : State) : (s.setSegment x i v).segment x i = some v :=
  (find_put_same ..).trans (if_neg hv)

/-- A row has its plan's signals. -/
theorem rowTriggers_waiting {s : State} {x : Side} {k : Nat} {r : Row} (hkind : planKind s k ≠ 1) :
    rowTriggers s x k r = (s.engine x k).trigs.any (fun t => decide (t ≤ r.stamp)) := by
  unfold rowTriggers
  have hlevel : (planKind s k == 1) = false := by simpa using hkind
  dsimp only
  rw [hlevel]
  cases (s.engine x k).prev <;> rfl

/-- An engine after the row of an event before its trigger. -/
def rowBefore (s : State) (k : Nat) (r : Row) (v : Engine) : Engine :=
  { v with
    rows := (r :: v.rows).take (planPre s k)
    total := v.total + 1
    since := 0
    sinceHalve := v.sinceHalve + 1
    prev := some (nth 0 r.vals (planSignal s k)) }

/-- The row of an event before the trigger (R383, R385): nothing waits, and the ring of rows takes it. -/
theorem takeRow_before {s : State} {x : Side} {k i : Nat} {r : Row} (h1 : planKind s k ≠ 1) (h3 : planKind s k ≠ 3) (hpast : (s.engine x k).past = false)
    (htrigs : (s.engine x k).trigs = []) :
    (takeRow x k i r s).engine x k = rowBefore s k r (s.engine x k) ∧ (takeRow x k i r s).capture.segs = s.capture.segs := by
  have hdue : rowTriggers s x k r = false := by rw [rowTriggers_waiting h1, htrigs]; rfl
  have htime : timeTriggers s x k r = false := by
    have : (planKind s k == 3) = false := by simpa using h3
    unfold timeTriggers
    rw [this]
    rfl
  unfold takeRow
  extract_lets v due time late g' s1 s2 v2
  have hs2 : s2 = s.setEngine x k { v with rows := (r :: v.rows).take (planPre s k) } := (if_neg (by show ¬ (s.engine x k).past = true; rw [hpast]; decide)).trans
    (if_neg (by show ¬ (rowTriggers s x k r || timeTriggers s x k r) = true; rw [hdue, htime]; decide))
  have hv2 : v2 = { v with rows := (r :: v.rows).take (planPre s k) } := by show s2.engine x k = _; rw [hs2, engine_same]
  have hsegs : s2.capture.segs = s.capture.segs := by rw [hs2]; rfl
  have hsignal : planSignal s2 k = planSignal s k := by rw [hs2]; rfl
  have htime' : time = false := htime
  clear_value v2 s2 time
  refine ⟨?_, hsegs⟩
  rw [engine_same, hv2, hsignal, htime']
  show _ = rowBefore s k r v
  have hnone : v.trigs = [] := htrigs
  clear_value v
  cases v
  cases hnone
  simp only [rowBefore, List.filter_nil, Bool.or_false]

/-- The trigger is accepted at a row (R385). -/
theorem acceptTrigger_reads (x : Side) (k i : Nat) (r : Row) (s : State) : let u := acceptTrigger x k i r s
    (u.engine x k).past = true ∧ (u.engine x k).total = (s.engine x k).total ∧
      ∃ g, u.segment x i = some g ∧ g.rows = ((s.engine x k).rows.take (planPre s k)).reverse ++ [r] ∧
        g.preCount = (((s.engine x k).rows.take (planPre s k)).reverse).length := by
  unfold acceptTrigger
  extract_lets v pre first f0 ch flags _q s1 s2 u0
  have hu0 : u0 = if s2.reports x = true then s2.raise 208 k i else s2 := rfl
  clear_value u0
  subst hu0
  have hs2 : s2.engine x k = { v with past := true, start := first, rows := [] } := engine_same ..
  have hseg : s2.segment x i = some { Segment.init with
      plan := k, seq := v.seqNo, rows := pre ++ [r], preCount := pre.length, flags := flags, factorStart := f0, changes := ch } := by
    refine segment_put_same x i (fun h => ?_) s
    have hrows := congrArg Segment.rows h
    simp [Segment.init] at hrows
  clear_value s2
  have hevents : EvSame s2 (if s2.reports x = true then s2.raise 208 k i else s2) := EvSame.ite (raise_same ..) (EvSame.refl s2)
  generalize (if s2.reports x = true then s2.raise 208 k i else s2 : State) = u at hevents ⊢
  have heng : bareEngine (u.engine x k) = bareEngine (s2.engine x k) := hevents.engine x k
  have hpast : (u.engine x k).past = (s2.engine x k).past := (congrArg Engine.past heng : (bareEngine _).past = (bareEngine _).past)
  have htotal : (u.engine x k).total = (s2.engine x k).total := (congrArg Engine.total heng : (bareEngine _).total = (bareEngine _).total)
  have hsegs : u.segment x i = s2.segment x i := segment_of hevents.captureFields.1 x i
  rw [hpast, htotal, hs2, hsegs, hseg]
  exact ⟨rfl, rfl, _, rfl, rfl, rfl⟩

/-- The row at which a waiting trigger is accepted (R383, R385). -/
theorem takeRow_trigger {s : State} {x : Side} {k i d : Nat} {r : Row} (h1 : planKind s k ≠ 1) (hpast : (s.engine x k).past = false)
    (hd : d ∈ (s.engine x k).trigs) (hdue : d ≤ r.stamp) : let u := takeRow x k i r s
    (u.engine x k).past = true ∧ (u.engine x k).total = (s.engine x k).total + 1 ∧
      ∃ g, u.segment x i = some g ∧ g.rows = ((s.engine x k).rows.take (planPre s k)).reverse ++ [r] ∧
        g.preCount = (((s.engine x k).rows.take (planPre s k)).reverse).length := by
  have htrig : rowTriggers s x k r = true := by
    rw [rowTriggers_waiting h1, List.any_eq_true]
    exact ⟨d, hd, decide_eq_true hdue⟩
  obtain ⟨haccPast, haccTotal, g, hseg, hrows, hpre⟩ := acceptTrigger_reads x k i r s
  unfold takeRow
  extract_lets v due time late g' s1 s2 v2
  have hs2 : s2 = acceptTrigger x k i r s := (if_neg (by show ¬ (s.engine x k).past = true; rw [hpast]; decide)).trans
    (if_pos (by show (rowTriggers s x k r || _) = true; rw [htrig]; rfl))
  have hv2 : v2 = s2.engine x k := rfl
  clear_value v2 s2
  rw [← hs2] at haccPast haccTotal hseg
  rw [engine_same, hv2]
  exact ⟨haccPast, congrArg (· + 1) haccTotal, g, hseg, hrows, hpre⟩

/-- A backlog of at most 48 KiB changes nothing of a segment (R387). -/
theorem writeBacklog_small {x : Side} {k i fill : Nat} (h : fill ≤ 49152) (s : State) :
    writeBacklog x k i fill s = s.setEngine x k { s.engine x k with above := false } := by
  have hlt : (decide (49152 < fill)) = false := decide_eq_false (by omega)
  unfold writeBacklog
  dsimp only
  rw [if_neg (by rw [Bool.and_eq_true, decide_eq_true_eq]; omega), hlt]
  rfl

/-- The signals of a row. -/
def rowOfEvent (s : State) (x : Side) (k e : Nat) : Row :=
  ⟨e, ((planSignals s k).map (signalAt s x e)).map (fun p => p.1), ((planSignals s k).map (signalAt s x e)).map (fun p => p.2)⟩

theorem recordRow_eq (x : Side) (k i e fill : Nat) (s : State) : recordRow x k i e fill s =
    (let w := takeRow x k i (rowOfEvent s x k e) (countEvent (sideIx x) 0x12 1 0 s)
    match w.segment x i with
    | some g =>
      if (w.engine x k).past && decide (planLength w k - planPre w k ≤ g.rows.length - g.preCount) then completeSegment x k i false w
      else writeBacklog x k i fill w
    | none => writeBacklog x k i fill w) := rfl

/-! ### Plan words -/

theorem planWords_of {k : Nat} {s u : State} (h : ∀ j < 13, u.num (0x8010 + k) j = s.num (0x8010 + k) j) :
    planKind u k = planKind s k ∧ planPre u k = planPre s k ∧ planLength u k = planLength s k := by
  refine ⟨?_, ?_, ?_⟩
  · simp only [planKind, planIx, State.fld, h 6 (by decide)]
  · simp only [planPre, planIx, h 4 (by decide)]
  · simp only [planLength, planIx, h 3 (by decide)]

theorem planWords_events {k : Nat} (hk : k < 8) {s u : State} (h : EvSame s u) :
    planKind u k = planKind s k ∧ planPre u k = planPre s k ∧ planLength u k = planLength s k := planWords_of fun j hj => h.num _ j (evKey_plan hk hj)

theorem planWords_takeRow {k : Nat} (hk : k < 8) (x : Side) (i : Nat) (r : Row) (s : State) : let u := takeRow x k i r s
    planKind u k = planKind s k ∧ planPre u k = planPre s k ∧ planLength u k = planLength s k := by
  have hown : Own [.capture] [⟨0x8010, 0x8017, 13, 13⟩] s (takeRow x k i r s) := Own.takeRow (by decide) (by decide) hk (Own.same s)
  exact planWords_of fun j hj => hown.numKept _ j (evKey_plan hk hj) (planWord_kept hk hj)

theorem rowOfEvent_setEngine (s : State) (x y : Side) (k j e : Nat) (v : Engine) : rowOfEvent (s.setEngine y j v) x k e = rowOfEvent s x k e := rfl

/-- An event recorded in a segment not yet triggered, with nothing waiting (R383). -/
theorem recordRow_before {x : Side} {k i e fill : Nat} {s : State} (hk : k < 8) (hfill : fill ≤ 49152) (hseg : s.segment x i = none)
    (hpast : (s.engine x k).past = false) (h1 : planKind s k ≠ 1) (h3 : planKind s k ≠ 3) (htrigs : (s.engine x k).trigs = []) :
    let u := recordRow x k i e fill s
    u.engine x k = { rowBefore s k (rowOfEvent s x k e) (s.engine x k) with above := false } ∧ u.capture.segs = s.capture.segs := by
  intro u
  have hcapture : (countEvent (sideIx x) 0x12 1 0 s).capture = s.capture := capture_countEvent ..
  obtain ⟨hkind, hpre, -⟩ := planWords_events hk (countEvent_same (sideIx x) 0x12 1 0 s)
  have hsignal : planSignal (countEvent (sideIx x) 0x12 1 0 s) k = planSignal s k := by
    simp only [planSignal, planIx, State.fld, (countEvent_same (sideIx x) 0x12 1 0 s).num _ 6 (evKey_plan hk (by decide))]
  have hu : u = _ := recordRow_eq x k i e fill s
  generalize countEvent (sideIx x) 0x12 1 0 s = w at hcapture hkind hpre hsignal hu
  have hengine : w.engine x k = s.engine x k := engine_of (by rw [hcapture]) x k
  obtain ⟨htake, hsegs⟩ := takeRow_before (i := i) (r := rowOfEvent s x k e) (by rw [hkind]; exact h1) (by rw [hkind]; exact h3) (by rw [hengine]; exact hpast)
    (by rw [hengine]; exact htrigs)
  dsimp only at hu
  generalize takeRow x k i (rowOfEvent s x k e) w = y at htake hsegs hu
  have hnone : y.segment x i = none := (segment_of (hsegs.trans (by rw [hcapture])) x i).trans hseg
  rw [hnone] at hu
  dsimp only at hu
  rw [writeBacklog_small hfill] at hu
  rw [hu, engine_same, htake, hengine]
  refine ⟨?_, hsegs.trans (by rw [hcapture])⟩
  simp only [rowBefore, hpre, hsignal]

/-- An event recorded at which a waiting trigger is accepted, in a segment that needs more rows (R385). -/
theorem recordRow_trigger {x : Side} {k i e fill d : Nat} {s : State} (hk : k < 8) (hfill : fill ≤ 49152)
    (hpast : (s.engine x k).past = false) (h1 : planKind s k ≠ 1) (hd : d ∈ (s.engine x k).trigs) (hdue : d ≤ e) (hlong : 1 < planLength s k - planPre s k) :
    let u := recordRow x k i e fill s
    (u.engine x k).past = true ∧ (u.engine x k).total = (s.engine x k).total + 1 ∧
      ((u.segment x i).getD Segment.init).rows = ((s.engine x k).rows.take (planPre s k)).reverse ++ [rowOfEvent s x k e] := by
  intro u
  have hcapture : (countEvent (sideIx x) 0x12 1 0 s).capture = s.capture := capture_countEvent ..
  obtain ⟨hkind, hpre, hlen⟩ := planWords_events hk (countEvent_same (sideIx x) 0x12 1 0 s)
  have hu : u = _ := recordRow_eq x k i e fill s
  generalize countEvent (sideIx x) 0x12 1 0 s = w at hcapture hkind hpre hlen hu
  have hengine : w.engine x k = s.engine x k := engine_of (by rw [hcapture]) x k
  obtain ⟨htakePast, htakeTotal, g, hseg, hrows, hcount⟩ := takeRow_trigger (i := i) (r := rowOfEvent s x k e) (by rw [hkind]; exact h1)
    (by rw [hengine]; exact hpast) (by rw [hengine]; exact hd) hdue
  obtain ⟨-, hpre2, hlen2⟩ := planWords_takeRow hk x i (rowOfEvent s x k e) w
  dsimp only at hu
  generalize takeRow x k i (rowOfEvent s x k e) w = y at htakePast htakeTotal hseg hpre2 hlen2 hu
  have hshort : ((y.engine x k).past && decide (planLength y k - planPre y k ≤ g.rows.length - g.preCount)) = false := by
    have hone : g.rows.length - g.preCount = 1 := by rw [hrows, hcount, List.length_append]; simp
    rw [htakePast, Bool.true_and, decide_eq_false_iff_not, hone, hlen2, hpre2, hlen, hpre]
    omega
  rw [hseg] at hu
  dsimp only at hu
  rw [hshort, if_neg (by decide), writeBacklog_small hfill] at hu
  have hsegs : (y.setEngine x k { y.engine x k with above := false }).segment x i = y.segment x i := rfl
  rw [hu, engine_same, hsegs, hseg]
  exact ⟨htakePast, htakeTotal.trans (by rw [hengine]), hrows.trans (by rw [hengine, hpre])⟩

/-- The end of a command changes an engine by triggers at most. -/
theorem ended_engine_eq (s : State) (q : List Instr) (x : Side) (k : Nat) : ∃ l, (s.ended q).engine x k = { s.engine x k with trigs := l } := by
  have h := ended_engine s q x k
  refine ⟨((s.ended q).engine x k).trigs, ?_⟩
  generalize (s.ended q).engine x k = v at h ⊢
  generalize s.engine x k = w at h ⊢
  cases v
  cases w
  simpa [bareEngine] using h

/-! ### Streams (R387, R390) -/

theorem sendStream_none {k : Nat} {s : State} (h : triggeredFrom s (readSide s) k (s.stream k).seq = []) : (sendStream k s).stream k =
    if (s.stream k).off = 0 then s.stream k else { s.stream k with seq := (s.stream k).seq + 1, off := 0 } := by
  unfold sendStream
  dsimp only
  rw [h, List.foldl_nil]
  dsimp only
  split
  · rfl
  · exact stream_same ..

theorem sendStream_first {k i : Nat} {v : Segment} {s : State} (h : triggeredFrom s (readSide s) k (s.stream k).seq = [(i, v)]) (hoff : (s.stream k).off = 0)
    (hdata : streamData s (readSide s) i 0 1352 v ≠ []) : let u := sendStream k s
    let n := (streamData s (readSide s) i 0 1352 v).length
    let done := v.complete && n == 128 + 16 * (planSignals s k).length + v.rows.length * segRowBytes v
    (u.stream k).seq = (if done then v.seq + 1 else v.seq) ∧ (u.stream k).off = (if done then 0 else n) ∧
      (u.stream k).side = sideIx (readSide s) ∧ (u.stream k).nextAt = s.now + n * 10 ^ 12 / max 1 (s.num (planIx k) 9) := by
  intro u n done
  have hu : u.stream k = (sendStream k s).stream k := rfl
  have hempty : (streamData s (readSide s) i 0 1352 v).isEmpty = false := by
    cases hl : streamData s (readSide s) i 0 1352 v with
    | nil => exact absurd hl hdata
    | cons a l => rfl
  clear_value u
  rw [hu]
  unfold sendStream
  extract_lets st x l least message _q cut
  have hleast : least = some (i, v) := by
    show (triggeredFrom s (readSide s) k (s.stream k).seq).foldl _ none = _
    rw [h]
    rfl
  have hst : st.off = 0 := hoff
  rw [hleast]
  dsimp only
  have hno : (decide (st.off ≠ 0) && (decide (v.seq ≠ st.seq) || (decide (st.side ≠ sideIx x) && !sameFactors ((st.off - (128 + 16 * (planSignals s k).length)) / segRowBytes v) st v))) = false := by
    rw [hst]; rfl
  rw [if_neg (by rw [hno]; decide), hst, hempty, if_neg (by decide), stream_same, Nat.zero_add]
  exact ⟨rfl, rfl, rfl, rfl⟩

/-- Settles O44: every clause follows from what an event does to a plan's engine, or a stream's step to its stream. -/
theorem captureRowsComplete : Obligations.CaptureRowsComplete := by
  intro s t b
  have hb : s.arrive t = b := rfl
  clear_value b
  refine ⟨fun x k st fill e hk hst hfill hev hfeeds hon => ?_, fun x k st fill e i hk hst hfill hev hfeeds hon hseg hstop harm hhalve hsince => ?_,
    fun x k st fill e i hk hst hfill hev hfeeds hon hseg hnone hpast hstop harm hhalve hsince h1 h3 => ?_, fun k hk => ?_,
    fun k x hk hover hstream hseg hfactor hhalve habove hfeeds => ?_, fun k hk hok hstream hnext hl => ?_, fun k i v hk hok hstream hnext hl hoff hdata => ?_⟩
  · refine gives_of_run hb (execCaptureRow.eq_def ..) (by simp [Instr.wf, hk]; omega) ?_
    rw [hev]
    dsimp only
    rw [if_pos (by rw [hfeeds, hon]; rfl)]
    have hlast := captureEvent_last x k e fill b
    generalize captureEvent x k e fill b = u at hlast ⊢
    obtain ⟨l, hend⟩ := ended_engine_eq u s.pending x k
    rw [hend]
    exact hlast
  · refine gives_of_run hb (execCaptureRow.eq_def ..) (by simp [Instr.wf, hk]; omega) ?_
    rw [hev]
    dsimp only
    rw [if_pos (by rw [hfeeds, hon]; rfl), captureEvent_plain hseg hstop harm hhalve, if_pos hsince]
    generalize hu : (b.setEngine x k { b.engine x k with lastEv := some e }).setEngine x k
      { b.engine x k with lastEv := some e, since := (b.engine x k).since + 1 } = u
    have hengine : u.engine x k = { b.engine x k with lastEv := some e, since := (b.engine x k).since + 1 } := by rw [← hu, engine_same]
    have hsegs : u.capture.segs = b.capture.segs := by rw [← hu]; rfl
    have hsegsEnd : (u.ended s.pending).capture.segs = u.capture.segs := by simp
    obtain ⟨l, hend⟩ := ended_engine_eq u s.pending x k
    rw [hend, hengine, hsegsEnd, hsegs]
    exact ⟨rfl, rfl, rfl⟩
  · intro sig r
    have hplain := fun fill => captureEvent_plain (ev := e) (fill := fill) hseg hstop harm hhalve
    have hrow : rowOfEvent (b.setEngine x k { b.engine x k with lastEv := some e }) x k e.1 = r := rfl
    have hwords : planKind (b.setEngine x k { b.engine x k with lastEv := some e }) k = planKind b k ∧
        planPre (b.setEngine x k { b.engine x k with lastEv := some e }) k = planPre b k ∧
        planLength (b.setEngine x k { b.engine x k with lastEv := some e }) k = planLength b k := ⟨rfl, rfl, rfl⟩
    have heng : (b.setEngine x k { b.engine x k with lastEv := some e }).engine x k = { b.engine x k with lastEv := some e } := engine_same ..
    have hsegs : (b.setEngine x k { b.engine x k with lastEv := some e }).capture.segs = b.capture.segs := rfl
    have hsegment : (b.setEngine x k { b.engine x k with lastEv := some e }).segment x i = none := hnone
    have hrun : ∀ {P : State → State → Prop}, P b ((recordRow x k i e.1 fill (b.setEngine x k { b.engine x k with lastEv := some e })).ended s.pending) →
        Gives (.captureRow t x k st fill) s P := fun {P} hP => by
      refine gives_of_run hb (execCaptureRow.eq_def ..) (by simp [Instr.wf, hk]; omega) ?_
      rw [hev]
      dsimp only
      rw [if_pos (by rw [hfeeds, hon]; rfl), hplain, if_neg (by show ¬ (b.engine x k).since + 1 < 2 ^ (b.engine x k).factor; omega)]
      exact hP
    generalize b.setEngine x k { b.engine x k with lastEv := some e } = u at hrow hwords heng hsegs hsegment hrun
    obtain ⟨hkind, hpre, hlen⟩ := hwords
    refine ⟨fun htrigs => hrun ?_, fun d hd hdue hlong => hrun ?_⟩
    · obtain ⟨hengine, hkeep⟩ := recordRow_before (e := e.1) hk hfill hsegment (by rw [heng]; exact hpast) (by rw [hkind]; exact h1) (by rw [hkind]; exact h3)
        (by rw [heng]; exact htrigs)
      rw [hrow, heng] at hengine
      generalize recordRow x k i e.1 fill u = w at hengine hkeep ⊢
      have hsegsEnd : (w.ended s.pending).capture.segs = w.capture.segs := by simp
      obtain ⟨l, hend⟩ := ended_engine_eq w s.pending x k
      rw [hend, hengine, hsegsEnd, hkeep, hsegs, ← hpre]
      exact ⟨rfl, rfl, rfl, hpast, rfl⟩
    · obtain ⟨hrpast, hrtotal, hrrows⟩ := recordRow_trigger (e := e.1) (i := i) hk hfill (by rw [heng]; exact hpast) (by rw [hkind]; exact h1)
        (by rw [heng]; exact hd) hdue (by rw [hlen, hpre]; exact hlong)
      rw [hrow, heng, hpre] at hrrows
      rw [heng] at hrtotal
      generalize recordRow x k i e.1 fill u = w at hrpast hrtotal hrrows ⊢
      obtain ⟨l, hend⟩ := ended_engine_eq w s.pending x k
      rw [ended_segment, hend]
      exact ⟨hrpast, hrtotal, hrrows⟩
  · refine gives_of_run hb (execStreamBacklogHalving.eq_def ..) (decide_eq_true hk) ?_
    dsimp only
    rw [ended_stream]
    have hset : ((b.setStream k { b.stream k with above := decide (b.num (planIx k) 0xA * 1024 < streamBacklog b k) }).stream k).above =
        decide (b.num (planIx k) 0xA * 1024 < streamBacklog b k) := by rw [stream_same]
    generalize b.setStream k { b.stream k with above := decide (b.num (planIx k) 0xA * 1024 < streamBacklog b k) } = u at hset ⊢
    have hone : ∀ (c : Prop) [Decidable c] (v : State) (y : Side) (q : Engine), (if c then v.setEngine y k q else v).stream k = v.stream k := fun c _ v y q => by
      split <;> rfl
    split
    · rw [hone, hone]; exact hset
    · exact hset
  · refine gives_of_run hb (execStreamBacklogHalving.eq_def ..) (decide_eq_true hk) ?_
    dsimp only
    have hto : streamsTo (b.setStream k { b.stream k with above := true }) k = true := by
      have hplan : planStreams (b.setStream k { b.stream k with above := true }) k = planStreams b k := rfl
      rw [streamsTo, stream_same, hplan]
      exact hstream
    rw [decide_eq_true hover, if_pos (by simp [hto, hseg, hfactor, hhalve, habove])]
    generalize hu : b.setStream k { b.stream k with above := true } = u
    have hfu : ∀ y, u.feeds y = b.feeds y := fun y => by rw [← hu]; rfl
    have happ : u.appTime = b.appTime := by rw [← hu]; rfl
    have hend : ∀ w : State, ((w.ended s.pending).engine x k).halveAt = (w.engine x k).halveAt := fun w => by
      obtain ⟨l, hl⟩ := ended_engine_eq w s.pending x k
      rw [hl]
    rw [hend]
    clear hend
    cases x
    · have hother : ∀ (v : State) q, (if v.feeds .B = true then v.setEngine .B k q else v).engine .A k = v.engine .A k := fun v q => by
        split
        · exact engine_set_other hk hk (.inl (by decide)) q v
        · rfl
      rw [hother, if_pos (by rw [hfu]; exact hfeeds), engine_same, happ]
    · have hkeep : ∀ (v : State) q, (if v.feeds .A = true then v.setEngine .A k q else v).feeds .B = v.feeds .B ∧
          (if v.feeds .A = true then v.setEngine .A k q else v).appTime = v.appTime := fun v q => by
        split <;> exact ⟨rfl, rfl⟩
      rw [if_pos (by rw [(hkeep _ _).1, hfu]; exact hfeeds), engine_same, (hkeep _ _).2, happ]
  · refine gives_of_run hb (execCaptureStreamSend.eq_def ..) (decide_eq_true hk) ?_
    have hsent := sendStream_none hl
    have hsend : (if (hostOk b && streamsTo b k && decide ((b.stream k).nextAt ≤ b.now)) = true then sendStream k b else b) = sendStream k b :=
      if_pos (by simp [hok, hstream, hnext])
    rw [hsend, ended_stream, hsent]
    by_cases h0 : (b.stream k).off = 0
    · rw [if_pos h0, if_pos h0]
    · rw [if_neg h0, if_neg h0]
  · refine gives_of_run hb (execCaptureStreamSend.eq_def ..) (decide_eq_true hk) ?_
    rw [if_pos (by simp [hok, hstream, hnext]), ended_stream]
    exact sendStream_first hl hoff hdata

end Sys2Proof
end

section
/-!
SUPPORT. The scribe and its histograms (R395 to R409): what events leave of the scribe's flags, one rule for a sample of a quantity, for a record and for a token, the clauses of O45 and the theorem that settles it.
-/
namespace Sys2Proof
open Sys2Proof.Machine

/-! ### ScribeStatus under events (Table 15.3) -/

theorem sizeOf_scribe : sizeOf 0x8100 3 = 2 ∧ sizeOf 0x8100 4 = 4 ∧ sizeOf 0x8100 9 = 4 ∧ sizeOf 0x8100 0xA = 4 := by decide

/-- A flag of ScribeStatus after a write to one. -/
theorem bit_scribe_set {m n : Nat} (hm : m < 16) (v : Bool) (s : State) :
    (s.setBitO 0x8100 3 n v).bit 0x8100 3 m = if m = n then v else s.bit 0x8100 3 m := by
  rw [State.bit_setBitO s v _ _ _ (by rw [sizeOf_scribe.1]; exact hm)]
  simp

/-- Of ScribeStatus events write its first flag alone, for records dropped (R407). -/
structure ScribeFlags (s u : State) : Prop where
  keep : ∀ m, m ≠ 0 → m < 16 → u.bit 0x8100 3 m = s.bit 0x8100 3 m

namespace ScribeFlags

theorem of_num {s u : State} (h : u.num 0x8100 3 = s.num 0x8100 3) : ScribeFlags s u := ⟨fun m _ _ => by rw [State.bit, h]; rfl⟩

theorem trans {a b c : State} (h : ScribeFlags a b) (g : ScribeFlags b c) : ScribeFlags a c := ⟨fun m hm hlt => (g.keep m hm hlt).trans (h.keep m hm hlt)⟩

theorem branch {s a b : State} {c : Prop} [Decidable c] (ha : ScribeFlags s a) (hb : ScribeFlags s b) : ScribeFlags s (if c then a else b) := by
  split
  · exact ha
  · exact hb

theorem same (s : State) : ScribeFlags s s := of_num rfl

theorem foldl {α : Type} {l : List α} {f : State → α → State} (hf : ∀ u a, ScribeFlags u (f u a)) (s : State) : ScribeFlags s (l.foldl f s) := by
  induction l generalizing s with
  | nil => exact same s
  | cons a l ih => exact (hf s a).trans (ih _)

theorem setNum {i j v : Nat} {s : State} (h : 0x8100 * 256 + 3 ≠ i * 256 + j) : ScribeFlags s (s.setNum i j v) := of_num (num_setNum_far _ _ _ _ _ _ h)

theorem countIf (bank ev n : Nat) (pass : State → Nat → Bool) (s : State) : ScribeFlags s (countIf bank ev n pass s) := by
  have hadd : ∀ (i n : Nat) (u : State), ScribeFlags u (ctrAdd i n u) := fun i n u => by
    unfold ctrAdd
    extract_lets v w y
    have hw : ScribeFlags u w := setNum (by simp only [ctrIx]; omega)
    have hy : ScribeFlags u y := hw.trans (of_num (num_setBitO_far _ _ _ _ _ _ _ (by simp only [ctrIx]; omega)))
    exact branch hw (branch (hy.trans (of_num rfl)) hy)
  refine foldl (fun u i => branch ?_ (same u)) s
  unfold ctrBump
  exact branch ((hadd _ _ _).trans (hadd _ _ _)) (hadd _ _ _)

theorem countEvent (bank ev n e : Nat) (s : State) : ScribeFlags s (countEvent bank ev n e s) := countIf ..

theorem occur (e p0 p1 p2 : Nat) (s : State) : ScribeFlags s (s.occur e p0 p1 p2) := by
  have hnotify : ∀ u : State, ScribeFlags u (u.notifyAll e) := fun u => by
    unfold State.notifyAll
    refine branch (foldl (fun v p => ?_) u) (same u)
    exact branch (of_num rfl) (same v)
  have hplans : ∀ u : State, ScribeFlags u (captureEvents e u) := fun u => by
    unfold captureEvents
    refine foldl (fun v k => ?_) u
    refine branch (foldl (fun w x => ?_) v) (same v)
    exact branch (of_num rfl) (branch ((setNum (by omega)).trans (of_num rfl)) (same w))
  unfold State.occur
  extract_lets u cnt v w
  have hu : ScribeFlags s u := (of_num (num_setBlob_far s 0x1200 1 _ _ _ (by decide))).trans (of_num rfl)
  have hv : ScribeFlags s v := hu.trans (of_num (num_setBlob_far u 0x1200 2 _ _ _ (by decide)))
  have hw : ScribeFlags s w := hv.trans (of_num (num_setBlob_far v 0x1200 7 _ _ _ (by decide)))
  exact hw.trans ((hnotify w).trans ((hplans _).trans (countEvent ..)))

theorem record (code origin p0 p1 p2 : Nat) (s : State) : ScribeFlags s (s.record code origin p0 p1 p2) := by
  have hwrite : ∀ (u : State) d, ScribeFlags u (u.writeRecord code origin d p0 p1 p2) := fun u d => by
    unfold State.writeRecord
    extract_lets m r _q v w
    have hv : ScribeFlags u v := of_num rfl
    have hcount : ScribeFlags v (v.incWrap 0x8100 4) := of_num (num_setNum_far _ _ _ _ _ _ (by decide))
    have hcompat : ScribeFlags v ((v.incWrap 0x8100 4).setNum 0xF000 1 (m + 1)) := hcount.trans (of_num (num_setNum_far _ _ _ _ _ _ (by decide)))
    have hw : ScribeFlags u w := hv.trans (hcompat.trans (countEvent ..))
    exact branch (hw.trans (occur ..)) hw
  have hset : ∀ b : Store Bucket, ScribeFlags s { s with scribe := { s.scribe with buckets := b } } := fun _ => of_num rfl
  unfold State.record
  generalize bucketOf s code = bk
  obtain ⟨key, cap, refill⟩ := bk
  dsimp only
  refine branch ((hset _).trans (hwrite _ _)) (branch ((hset _).trans (hwrite _ _)) ?_)
  have hdrop : ScribeFlags s ((s.incSat 0x8100 8).setBitO 0x8100 3 0 true) := by
    have hsat : ScribeFlags s (s.incSat 0x8100 8) := of_num (num_setNum_far _ _ _ _ _ _ (by decide))
    exact hsat.trans ⟨fun m hm hlt => by rw [bit_scribe_set hlt, if_neg hm]⟩
  have hcount := hdrop.trans (countEvent 2 0x49 1 0 _)
  generalize Machine.countEvent 2 0x49 1 0 ((s.incSat 0x8100 8).setBitO 0x8100 3 0 true) = u at hcount ⊢
  have hbuckets : ∀ b : Store Bucket, ScribeFlags s { u with scribe := { u.scribe with buckets := b } } := fun _ => hcount.trans (of_num rfl)
  exact branch ((hbuckets _).trans (occur ..)) (hbuckets _)

theorem raise (e p0 p1 p2 : Nat) (s : State) : ScribeFlags s (s.raise e p0 p1 p2) := by
  unfold State.raise
  exact branch ((occur ..).trans (record ..)) (occur ..)

/-- The end of a command writes the first flag at most. -/
theorem ended (s : State) (q : List Instr) : ScribeFlags s (s.ended q) :=
  (foldl (l := s.capture.missed) (fun _ _ => raise ..) s).trans ((foldl (l := s.scribe.ovf) (fun _ _ => raise ..) _).trans (of_num rfl))

end ScribeFlags

/-! ### Seeds, hours and reads (R395, R396, R406, R409) -/

theorem flag_ended {m : Nat} (h0 : m ≠ 0) (hm : m < 16) (s : State) (q : List Instr) : (s.ended q).bit 0x8100 3 m = s.bit 0x8100 3 m :=
  (ScribeFlags.ended s q).keep m h0 hm

/-- A seed refused is told; what it would have set stays. -/
theorem seedRefused_reads (w : Nat) (s : State) (q : List Instr) {j : Nat} (hj : j = 9 ∨ j = 10) :
    ((seedRefused w s).ended q).num 0x8100 j = s.num 0x8100 j ∧ ((seedRefused w s).ended q).bit 0x8100 3 2 = true := by
  have hev : evKey (0x8100 * 256 + j) = false := by rcases hj with rfl | rfl <;> rfl
  refine ⟨?_, ?_⟩
  · rw [num_ended _ _ _ _ hev, seedRefused, num_raise _ _ _ _ _ _ _ hev]
    exact num_setBitO_far _ _ _ _ _ _ _ (by omega)
  · rw [flag_ended (by decide) (by decide), seedRefused, (ScribeFlags.raise 217 w 0 0 _).keep 2 (by decide) (by decide), bit_scribe_set (by decide), if_pos rfl]

/-- A seed taken. -/
theorem seedTaken_reads {j m : Nat} (hj : (j = 9 ∧ m = 15) ∨ (j = 10 ∧ m = 14)) {v : Nat} (hv : v < 2 ^ 32) (code : Nat) (s : State) (q : List Instr) :
    let u := (((s.setNum 0x8100 j v).setBitO 0x8100 3 m true).fwNote code v).ended q
    u.num 0x8100 j = v ∧ u.bit 0x8100 3 m = true := by
  intro u
  have hev : evKey (0x8100 * 256 + j) = false := by rcases hj with ⟨rfl, -⟩ | ⟨rfl, -⟩ <;> rfl
  have hsize : sizeOf 0x8100 j = 4 := by rcases hj with ⟨rfl, -⟩ | ⟨rfl, -⟩ <;> decide
  have hm : m ≠ 0 ∧ m < 16 := by omega
  refine ⟨?_, ?_⟩
  · refine (num_ended _ _ _ _ hev).trans (((fwNote_same ..).num _ _ hev).trans ?_)
    rw [num_setBitO_far _ _ _ _ _ _ _ (by omega), num_setNum_same, hsize]
    exact Nat.mod_eq_of_lt hv
  · refine (flag_ended hm.1 hm.2 _ _).trans (((ScribeFlags.record ..).keep m hm.1 hm.2).trans ?_)
    rw [bit_scribe_set hm.2, if_pos rfl]

/-! ### Histograms (R398 to R401) -/

theorem quantKeys {q : Nat} (hq : q < 64) {j : Nat} (hj : j < 8) : evKey (quantIx q * 256 + j) = false := by
  have h : ∀ q < 64, ∀ j < 8, evKey (quantIx q * 256 + j) = false := by decide +kernel
  exact h q hq j hj

theorem sizeOf_quant : ∀ q < 64, sizeOf (quantIx q) 1 = 4 ∧ sizeOf (quantIx q) 6 = 4 ∧ sizeOf (quantIx q) 7 = 4 := by decide +kernel

/-- A quantity's sampling and configuration are as they were. -/
structure SameQuant (q : Nat) (s u : State) : Prop where
  histAt : u.scribe.histAt = s.scribe.histAt
  word : ∀ hi lo, hi < 32 → hi < 29 ∨ 29 < lo → u.fld (quantIx q) 1 hi lo = s.fld (quantIx q) 1 hi lo

namespace SameQuant

theorem same (q : Nat) (s : State) : SameQuant q s s := ⟨rfl, fun _ _ _ _ => rfl⟩

theorem trans {q : Nat} {a b c : State} (h : SameQuant q a b) (g : SameQuant q b c) : SameQuant q a c :=
  ⟨g.histAt.trans h.histAt, fun hi lo h1 h2 => (g.word hi lo h1 h2).trans (h.word hi lo h1 h2)⟩

theorem of_events {q : Nat} (hq : q < 64) {s u : State} (h : EvSame s u) : SameQuant q s u :=
  ⟨h.scribeFields.2.1, fun hi lo _ _ => by rw [State.fld, h.num _ _ (quantKeys hq (by decide))]; rfl⟩

/-- A clear of a quantity takes its flag of extremes back, and its counts. -/
theorem clearQuantity {q : Nat} (hq : q < 64) (j : Nat) (s : State) : SameQuant q s (clearQuantity j s) := by
  unfold Machine.clearQuantity
  extract_lets v w
  have hv : v.num (quantIx q) 1 = s.num (quantIx q) 1 := (num_setBlob_far _ _ _ _ _ _ (by omega)).trans (num_setBlob_far _ _ _ _ _ _ (by omega))
  have hnum : ((v.setNum (quantIx j) 6 0).setNum (quantIx j) 7 0).num (quantIx q) 1 = v.num (quantIx q) 1 :=
    (num_setNum_far _ _ _ _ _ _ (by omega)).trans (num_setNum_far _ _ _ _ _ _ (by omega))
  have hhist : w.scribe.histAt = s.scribe.histAt := rfl
  have hw : w = ((v.setNum (quantIx j) 6 0).setNum (quantIx j) 7 0).setBitO (quantIx j) 1 29 false := rfl
  clear_value w v
  refine ⟨hhist, fun hi lo h1 h2 => ?_⟩
  show w.fld (quantIx q) 1 hi lo = _
  rw [hw]
  by_cases hj : j = q
  · subst hj
    rw [fld_setBitO_apart _ _ _ _ _ _ _ (by rw [(sizeOf_quant j hq).1]; omega) (by omega), State.fld, hnum, hv]
    rfl
  · rw [fld_setBitO_far _ _ _ _ _ _ _ _ _ (by simp only [quantIx]; omega), State.fld, hnum, hv]
    rfl

theorem dueClears {q : Nat} (hq : q < 64) (r : Nat) (s : State) : SameQuant q s (dueClears r s) := by
  have hall : ∀ {α : Type} (l : List α) (f : State → α → State), (∀ u a, SameQuant q u (f u a)) → ∀ u, SameQuant q u (l.foldl f u) := fun l f hf => by
    induction l with
    | nil => exact same q
    | cons a l ih => exact fun u => (hf u a).trans (ih _)
  have hone : ∀ (u : State) (c : Nat × Nat), SameQuant q u (applyClear c u) := fun u c => by
    have hr : ∀ n : Nat, SameQuant q u { u with ridge := n } := fun _ => ⟨rfl, fun _ _ _ _ => rfl⟩
    have hmask : ∀ v, SameQuant q v (forMask 64 c.1 Machine.clearQuantity v) := fun v => hall _ _ (fun w a => clearQuantity hq a w) v
    have hnote : ∀ v a b, SameQuant q v (v.fwNote 0x0104 a b) := fun v a b => of_events hq (fwNote_same ..)
    exact ((hr c.2).trans (hmask _)).trans ((hnote _ (c.1 % 2 ^ 32) (c.1 / 2 ^ 32)).trans ⟨rfl, fun _ _ _ _ => rfl⟩)
  exact (show SameQuant q s { s with scribe := { s.scribe with clears := s.scribe.clears.filter (fun c => decide (r < c.2)) } } from ⟨rfl, fun _ _ _ _ => rfl⟩).trans
    (hall _ _ hone _)

theorem kind {q : Nat} {s u : State} (h : SameQuant q s u) : quantKind u q = quantKind s q := h.word 31 30 (by decide) (.inr (by decide))

theorem source {q : Nat} {s u : State} (h : SameQuant q s u) : quantSource u q = quantSource s q := h.word 24 16 (by decide) (.inl (by decide))

end SameQuant

/-- A sample is what results and sensors show, which a quantity's own objects do not move. -/
theorem quantSample_own {q : Nat} {P : List Part} {G : List Objs} {s u : State} (h : Own P G s u) (hP : Part.graphs ∉ P) (hPlate : Part.plate ∉ P) (hTime : Part.time ∉ P)
    (hG : G.any (fun o => o.lo < 0x8000 || 0x9000 ≤ o.hi) = false) (hquant : SameQuant q s u) : quantSample u q = quantSample s q := by
  have hout : ∀ i j, j < 256 → i < 0x8000 ∨ 0x9000 ≤ i → G.any (·.has (i * 256 + j)) = false := fun i j hj hi => by
    rw [List.any_eq_false] at hG ⊢
    intro o ho
    have := hG o ho
    simp only [Bool.or_eq_true, decide_eq_true_eq, not_or] at this
    simp only [Objs.has, Bool.and_eq_true, decide_eq_true_eq]
    omega
  have hnum := fun i j (hi : i < 0x8000 ∨ 0x9000 ≤ i) (hj : j < 256) he => h.numKept i j he (hout i j hj hi)
  have hblob := fun i j (hi : i < 0x8000 ∨ 0x9000 ≤ i) (hj : j < 256) he => h.blobKept i j he (hout i j hj hi)
  have hside := hnum 0x6021 1 (by decide) (by decide) rfl
  have hslot := hnum 0x3000 2 (by decide) (by decide) rfl
  have hslots : ∀ k, k < 2 → ∀ j, j < 256 → u.blob (0x3100 + k) j = s.blob (0x3100 + k) j := fun k hk j hj =>
    hblob _ _ (by omega) hj (evKey_eq_false hj (by omega))
  have hactive : activeGraph u = activeGraph s := by
    simp only [activeGraph, graphWords_of hslot]
    cases hk : s.activeSlot with
    | none => rfl
    | some k => simp only [slotGraph, hslots k (activeSlot_lt hk) 1 (by decide)]
  have hexport : ∀ j, exportOf u j = exportOf s j := fun j => by simp only [exportOf, hactive]
  have hsill := fun x => sill_of_own h hPlate x
  have hreporter : u.reporter = s.reporter := (sideWords_of hside).2.2.2.2.1
  have hticks : ticksOccur u = ticksOccur s :=
    ticksOccur_of hside hslot (fun k hk => hslots k hk 2 (by decide)) (hsill .A) (hsill .B) (congrArg (fun p => p.halted) (h.plate hPlate))
  have hlost : ∀ x, ticksLost u x = ticksLost s x := fun x => by simp only [ticksLost, graph_of_own h hP, hticks, h.now hTime]
  have hresult : ∀ j, resultSample u j = resultSample s j := fun j => by
    simp only [resultSample, servedResult, hexport, hreporter, hlost, graph_of_own h hP] <;> rfl
  have hsensor : ∀ n, sensorNow u n = sensorNow s n := fun n => by
    simp only [sensorNow, (stageWords_of (hnum 0xB000 1 (by decide) (by decide) rfl)).2, (sideWords_of hside).2.2.1, hblob 0xB010 1 (by decide) (by decide) rfl]
  simp only [quantSample, hquant.kind, hquant.source, hresult, hsensor]

/-- The extremes take a sample, whatever they held: the counts and the bins stay. -/
theorem takeExtremes_keeps {q : Nat} (x : Nat) (s : State) : let u := takeExtremes q x s
    (∀ j, j = 2 ∨ j = 3 ∨ j = 6 ∨ j = 7 → u.num (quantIx q) j = s.num (quantIx q) j) ∧ u.blob (quantIx q) 4 = s.blob (quantIx q) 4 ∧ u.scribe = s.scribe := by
  unfold takeExtremes
  extract_lets e first lo hi e' u
  have hu : u = if (lo || hi) = true then ifS (!s.bit 0x8100 3 15) (fun s => s.setBitO (quantIx q) 1 29 true) (s.setBlob (quantIx q) 5 e') else s := rfl
  rw [hu]
  split
  · have hset : ∀ v : State, ifS (!s.bit 0x8100 3 15) (fun s => s.setBitO (quantIx q) 1 29 true) v = if (!s.bit 0x8100 3 15) = true then v.setBitO (quantIx q) 1 29 true else v := fun v => rfl
    rw [hset]
    have hflag : ∀ v : State, let w := if (!s.bit 0x8100 3 15) = true then v.setBitO (quantIx q) 1 29 true else v
        (∀ j, j ≠ 1 → j < 256 → w.num (quantIx q) j = v.num (quantIx q) j) ∧ w.blob (quantIx q) 4 = v.blob (quantIx q) 4 ∧ w.scribe = v.scribe := fun v => by
      dsimp only
      split
      · exact ⟨fun j h1 h2 => num_setBitO_far _ _ _ _ _ _ _ (by omega), blob_setBitO_far v (quantIx q) 1 29 true (quantIx q) 4 (by omega), rfl⟩
      · exact ⟨fun _ _ _ => rfl, rfl, rfl⟩
    obtain ⟨hnum, hblob, hscribe⟩ := hflag (s.setBlob (quantIx q) 5 e')
    refine ⟨fun j hj => (hnum j (by omega) (by omega)).trans (num_setBlob_far _ _ _ _ _ _ (by omega)), hblob.trans ?_, hscribe⟩
    rw [State.blob_setBlob, if_neg (by omega)]
  · exact ⟨fun _ _ => rfl, rfl, rfl⟩

/-- A sample enters its bin, saturating, and the rest of its counts stays. -/
theorem takeBin_reads {q : Nat} (hq : q < 64) (x : Nat) (s : State) : let u := takeBin q x s
    let i := binOf (s.num (quantIx q) 2) (s.num (quantIx q) 3) x
    u.blob (quantIx q) 4 = patch (s.blob (quantIx q) 4) (4 * i) (beBytes 4 (satInc 32 (word32 (s.blob (quantIx q) 4) i))) ∧
      (∀ j, j = 6 ∨ j = 7 → u.num (quantIx q) j = s.num (quantIx q) j) ∧ u.scribe.histAt = s.scribe.histAt := by
  unfold takeBin
  extract_lets b i n v _q u
  have hv : v.blob (quantIx q) 4 = patch b (4 * i) (beBytes 4 n) ∧ (∀ j, j = 6 ∨ j = 7 → v.num (quantIx q) j = s.num (quantIx q) j) ∧ v.scribe.histAt = s.scribe.histAt := by
    refine ⟨?_, fun j hj => num_setBlob_far _ _ _ _ _ _ (by omega), rfl⟩
    show (s.setBlob (quantIx q) 4 _).blob (quantIx q) 4 = _
    rw [State.blob_setBlob, if_pos rfl]
  have hu : u = if (decide (n = 0xFFFFFFFF) && !v.scribe.saturated.testBit q) = true then
      ({ v with scribe := { v.scribe with saturated := setBit v.scribe.saturated q true } } : State).raise 216 q else v := rfl
  have hpatch : patch b (4 * i) (beBytes 4 n) = patch (s.blob (quantIx q) 4) (4 * i) (beBytes 4 (satInc 32 (word32 (s.blob (quantIx q) 4) i))) := rfl
  rw [hu, ← hpatch]
  clear_value u v n i b
  split
  · have hevents := raise_same 216 q 0 0 ({ v with scribe := { v.scribe with saturated := setBit v.scribe.saturated q true } } : State)
    refine ⟨(hevents.blob _ _ (quantKeys hq (by decide))).trans hv.1, fun j hj => (hevents.num _ _ (quantKeys hq (by omega))).trans (hv.2.1 j hj), hevents.scribeFields.2.1.trans hv.2.2⟩
  · exact hv

/-- A count of a quantity that saturates. -/
theorem num_incSat_quant {q j : Nat} (hq : q < 64) (hj : j = 6 ∨ j = 7) (s : State) : (s.incSat (quantIx q) j).num (quantIx q) j = satInc 32 (s.num (quantIx q) j) := by
  have hsize : sizeOf (quantIx q) j = 4 := by
    obtain ⟨-, h6, h7⟩ := sizeOf_quant q hq
    rcases hj with rfl | rfl
    · exact h6
    · exact h7
  rw [State.incSat, num_setNum_same, hsize]
  refine Nat.mod_eq_of_lt ?_
  rw [satInc_eq_min]
  omega

/-- A sample skipped counts as such; one taken counts and enters its bin. -/
theorem takeSample_reads {q : Nat} (hq : q < 64) (s : State) : let u := takeSample q s
    u.scribe.histAt = s.scribe.histAt ∧
    (quantSample s q = none → u.num (quantIx q) 7 = satInc 32 (s.num (quantIx q) 7)) ∧
    (∀ x, quantSample s q = some x → u.num (quantIx q) 6 = satInc 32 (s.num (quantIx q) 6) ∧
      let i := binOf (s.num (quantIx q) 2) (s.num (quantIx q) 3) x
      u.blob (quantIx q) 4 = patch (s.blob (quantIx q) 4) (4 * i) (beBytes 4 (satInc 32 (word32 (s.blob (quantIx q) 4) i)))) := by
  unfold takeSample
  cases hsample : quantSample s q with
  | none => exact ⟨rfl, fun _ => num_incSat_quant hq (.inr rfl) s, fun x hx => absurd hx (by simp)⟩
  | some x =>
    dsimp only
    obtain ⟨hnum, hblob, hscribe⟩ := takeExtremes_keeps x s
    generalize takeExtremes q x s = v at hnum hblob hscribe ⊢
    obtain ⟨hbin, hcount, hhist⟩ := takeBin_reads hq x v
    rw [hnum 2 (by omega), hnum 3 (by omega), hblob] at hbin
    generalize takeBin q x v = w at hbin hcount hhist ⊢
    have hfar : (w.incSat (quantIx q) 6).blob (quantIx q) 4 = w.blob (quantIx q) 4 := blob_setNum_far _ _ _ _ _ _ (by omega)
    refine ⟨hhist.trans (by rw [hscribe]), fun h => absurd h (by simp), fun y hy => ?_⟩
    cases hy
    rw [num_incSat_quant hq (.inl rfl), hcount 6 (.inl rfl), hnum 6 (by omega), hfar]
    exact ⟨rfl, hbin⟩
/-! ### Records written and tokens refilled (R404, R407, R408) -/

/-- Where no trigger was missed and no counter overflowed, the end of a command reports nothing. -/
theorem ended_quiet {s : State} (hmissed : s.capture.missed = []) (hovf : s.scribe.ovf = []) (q : List Instr) :
    (s.ended q).od = s.od ∧ (s.ended q).scribe = s.scribe := by
  have h : s.reportLate = { s with capture := { s.capture with missed := [] }, scribe := { s.scribe with ovf := [] } } := by
    unfold State.reportLate
    rw [hmissed, hovf]
    rfl
  have hod : s.reportLate.od = s.od := by rw [h]
  have hscribe : s.reportLate.scribe = s.scribe := by rw [h, ← hovf]
  exact ⟨hod, hscribe⟩

theorem num_of_od {s u : State} (h : u.od = s.od) (i j : Nat) : u.num i j = s.num i j := by
  simp only [State.num, State.val, h]

/-- With no counter running nothing is counted. -/
theorem countIf_none {s : State} (h : s.scribe.running = []) (bank ev n : Nat) (pass : State → Nat → Bool) : countIf bank ev n pass s = s := by
  rw [countIf, h]
  rfl

theorem slice_append_right (a b : List Nat) {off n : Nat} (h : a.length ≤ off) : slice (a ++ b) off n = slice b (off - a.length) n := by
  simp only [slice, List.drop_append, List.drop_eq_nil_of_le h, List.nil_append]

/-- A record that does not precede the last one of its ridge clock takes the next place. -/
theorem get_sinkRecord {m : Nat} (hm : m ≠ 0) {r : List Nat} {ring : Store (List Nat)}
    (hlast : let q := Store.get [] ((m - 1) % 16384) ring
      slice q 12 8 ≠ slice r 12 8 ∨ field q 0 2 ≤ field r 0 2) :
    Store.get [] (m % 16384) (sinkRecord m r ring) = patch r 3 [recMark m] := by
  obtain ⟨k, rfl⟩ := Nat.exists_eq_succ_of_ne_zero hm
  rw [sinkRecord]
  have hcond : ¬ ((slice (Store.get [] (k % 16384) ring) 12 8 = slice r 12 8 && decide (field r 0 2 < field (Store.get [] (k % 16384) ring) 0 2)) = true) := by
    simp only [Bool.and_eq_true, decide_eq_true_eq, not_and, Nat.not_lt]
    intro h
    exact hlast.resolve_left (fun hne => hne h)
  rw [if_neg hcond]
  exact get_put_same _ _ _ _

/-- The bytes of record number m (Table 15.3). -/
def recordBytes (s : State) (code origin dropped p0 p1 p2 : Nat) : List Nat :=
  beBytes 2 code ++ [recFlags s origin dropped, recMark (s.num 0x8100 4)] ++ beBytes 4 (s.num 0x8100 9) ++ beBytes 4 (s.num 0x8100 0xA)
    ++ beBytes 4 (rSecs s.ridge % 2 ^ 32) ++ beBytes 4 (rNs s.ridge) ++ beBytes 4 p0 ++ beBytes 4 p1 ++ beBytes 4 p2

theorem slice_recordBytes (s : State) (code origin d p0 p1 p2 : Nat) :
    slice (recordBytes s code origin d p0 p1 p2) 12 8 = beBytes 4 (rSecs s.ridge % 2 ^ 32) ++ beBytes 4 (rNs s.ridge) := by
  simp [recordBytes, slice, beBytes]

theorem field_recordBytes (s : State) {code : Nat} (h : code < 2 ^ 16) (origin d p0 p1 p2 : Nat) : field (recordBytes s code origin d p0 p1 p2) 0 2 = code := by
  simp [recordBytes, field, slice, beBytes, beNat]
  omega

theorem patch_recordBytes (s : State) (code origin d p0 p1 p2 : Nat) :
    patch (recordBytes s code origin d p0 p1 p2) 3 [recMark (s.num 0x8100 4)] = recordBytes s code origin d p0 p1 p2 := by
  simp [recordBytes, patch, beBytes]

/-- A record written with no counter running, not the first of a lap. -/
theorem writeRecord_reads {code origin d p0 p1 p2 : Nat} {s : State} (hcode : code < 2 ^ 16) (hrun : s.scribe.running = [])
    (hm : s.num 0x8100 4 % 16384 ≠ 0)
    (hlast : let q := Store.get [] ((s.num 0x8100 4 - 1) % 16384) s.scribe.ring
      slice q 12 8 ≠ beBytes 4 (rSecs s.ridge % 2 ^ 32) ++ beBytes 4 (rNs s.ridge) ∨ field q 0 2 ≤ code) :
    let u := s.writeRecord code origin d p0 p1 p2
    u.num 0x8100 4 = (s.num 0x8100 4 + 1) % 2 ^ 32 ∧ Store.get [] (s.num 0x8100 4 % 16384) u.scribe.ring = recordBytes s code origin d p0 p1 p2 ∧
      u.scribe.buckets = s.scribe.buckets ∧ u.scribe.ovf = s.scribe.ovf ∧ u.capture = s.capture := by
  have hring := get_sinkRecord (m := s.num 0x8100 4) (r := recordBytes s code origin d p0 p1 p2) (ring := s.scribe.ring) (by omega)
    (by rw [slice_recordBytes, field_recordBytes s hcode]; exact hlast)
  rw [patch_recordBytes] at hring
  unfold State.writeRecord
  extract_lets m r _q v w u
  have hv : v = { s with scribe := { s.scribe with ring := sinkRecord m r s.scribe.ring } } := rfl
  have hw : w = (v.incWrap 0x8100 4).setNum 0xF000 1 (m + 1) := countIf_none (by rw [hv]; exact hrun) ..
  have hu : u = w := if_neg (by simp [m, hm])
  have hnum : w.num 0x8100 4 = (s.num 0x8100 4 + 1) % 2 ^ 32 := by
    rw [hw, num_setNum_far _ _ _ _ _ _ (by decide), State.incWrap, num_setNum_same, sizeOf_scribe.2.1]
    rfl
  rw [hu]
  refine ⟨hnum, ?_, ?_⟩
  · rw [hw]; exact hring
  · rw [hw]; exact ⟨rfl, rfl, rfl⟩

/-- A note within its bucket's capacity is written and takes a token. -/
theorem recordNote_reads {code p0 p1 p2 : Nat} {s : State} (hcode : 0x8000 ≤ code) (hmax : code < 2 ^ 16) (hrun : s.scribe.running = [])
    (hm : s.num 0x8100 4 % 16384 ≠ 0) (hused : (Store.get Bucket.init 256 s.scribe.buckets).used < s.fld 0x8100 0xC 31 24)
    (hrefill : s.fld 0x8100 0xC 15 0 ≠ 0)
    (hlast : let q := Store.get [] ((s.num 0x8100 4 - 1) % 16384) s.scribe.ring
      slice q 12 8 ≠ beBytes 4 (rSecs s.ridge % 2 ^ 32) ++ beBytes 4 (rNs s.ridge) ∨ field q 0 2 ≤ code) :
    let u := s.record code 2 p0 p1 p2
    u.num 0x8100 4 = (s.num 0x8100 4 + 1) % 2 ^ 32 ∧
      Store.get [] (s.num 0x8100 4 % 16384) u.scribe.ring = recordBytes s code 2 (Store.get Bucket.init (0x10000 + code) s.scribe.buckets).drops p0 p1 p2 ∧
      (Store.get Bucket.init 256 u.scribe.buckets).used = (Store.get Bucket.init 256 s.scribe.buckets).used + 1 ∧
      u.scribe.ovf = s.scribe.ovf ∧ u.capture = s.capture := by
  have hbucket : bucketOf s code = (256, s.fld 0x8100 0xC 31 24, s.fld 0x8100 0xC 15 0) := if_neg (by omega)
  unfold State.record
  rw [hbucket]
  dsimp only
  rw [if_neg (by simp [hrefill]; omega), if_pos hused]
  generalize hbs : Store.put Bucket.init (0x10000 + code) Bucket.init _ = bs
  have hget : (Store.get Bucket.init 256 bs).used = (Store.get Bucket.init 256 s.scribe.buckets).used + 1 := by
    rw [← hbs, get_put_other _ _ (by omega), get_put_same]
  have hw := writeRecord_reads (code := code) (origin := 2) (d := (Store.get Bucket.init (0x10000 + code) s.scribe.buckets).drops) (p0 := p0) (p1 := p1) (p2 := p2)
    (s := { s with scribe := { s.scribe with buckets := bs } }) hmax hrun hm hlast
  obtain ⟨hnum, hring, hbuckets, hovf, hcapture⟩ := hw
  exact ⟨hnum, hring, by rw [hbuckets]; exact hget, hovf, hcapture⟩

/-! ### The theorem -/

theorem own_dueClears (r : Nat) (b : State) : Own [.scribe] [⟨0x8110, 0x814F, 1, 1⟩, ⟨0x8110, 0x814F, 4, 7⟩] b (dueClears r b) :=
  Own.dueClears (by decide) (by decide) (Own.same b)

/-- A state with a quantity's next sampling instant set. -/
def nextSample (q n : Nat) (u : State) : State := { u with scribe := { u.scribe with histAt := Store.put 0 q n u.scribe.histAt } }

theorem nextSample_reads (q n : Nat) (u : State) : Store.get 0 q (nextSample q n u).scribe.histAt = n ∧ quantSample (nextSample q n u) q = quantSample u q :=
  ⟨get_put_same 0 q _ _, rfl⟩

/-- Clears do not touch what a quantity is configured to. -/
theorem quantConfig_dueClears {q j : Nat} (hq : q < 64) (hj : j = 2 ∨ j = 3) (r : Nat) (b : State) : (dueClears r b).num (quantIx q) j = b.num (quantIx q) j := by
  refine (own_dueClears r b).numKept (quantIx q) j (quantKeys hq (by omega)) ?_
  have h : ∀ q < 64, ∀ j, j = 2 ∨ j = 3 → List.any [⟨0x8110, 0x814F, 1, 1⟩, ⟨0x8110, 0x814F, 4, 7⟩] (fun o : Objs => o.has (quantIx q * 256 + j)) = false := by
    intro q hq j hj
    rcases hj with rfl | rfl <;> revert q <;> decide +kernel
  exact h q hq j hj

/-- What the state in which a due quantity is sampled, clears taken and its next instant set, holds of the quantity. -/
theorem nextSample_dueClears {q : Nat} (hq : q < 64) (n : Nat) (b : State) :
    quantSample (nextSample q n (dueClears b.ridge b)) q = quantSample b q ∧
      (∀ j, j = 2 ∨ j = 3 → (nextSample q n (dueClears b.ridge b)).num (quantIx q) j = b.num (quantIx q) j) :=
  ⟨(nextSample_reads q n _).2.trans
      (quantSample_own (own_dueClears b.ridge b) (by decide) (by decide) (by decide) (by decide) (SameQuant.dueClears hq b.ridge b)),
    fun _ hj => quantConfig_dueClears hq hj b.ridge b⟩

/-- A due quantity is sampled, or skipped while the island is down. -/
theorem gives_histogramSample {t q : Nat} {s b : State} {P : State → State → Prop} (hb : s.arrive t = b) (hq : q < 64)
    (hkind : quantKind b q = 1 ∨ quantKind b q = 2) (hdue : Store.get 0 q b.scribe.histAt ≤ b.now)
    (hP : ∀ n, n = Store.get 0 q b.scribe.histAt + msFs (b.fld (quantIx q) 1 15 0) →
      ∀ v, v = nextSample q n (dueClears b.ridge b) →
      P b ((if b.boot.islandDown = true then v.incSat (quantIx q) 7 else takeSample q v).ended s.pending)) :
    Gives (.histogramSample t q) s P := by
  refine gives_of_run hb (execHistogramSample.eq_def ..) (decide_eq_true hq) ?_
  have hown := own_dueClears b.ridge b
  have hquant := SameQuant.dueClears hq b.ridge b
  have hword := hquant.word 15 0 (by decide) (.inl (by decide))
  rw [← hword, ← hquant.histAt, ← hown.boot (by decide)] at hP
  dsimp only
  rw [hquant.kind, if_pos (by simpa [hquant.histAt, hown.now (by decide)] using ⟨hkind, hdue⟩)]
  generalize Store.get 0 q (dueClears b.ridge b).scribe.histAt + msFs ((dueClears b.ridge b).fld (quantIx q) 1 15 0) = n at hP ⊢
  have hn := hP n rfl _ rfl
  have hset : nextSample q n (dueClears b.ridge b) =
    { dueClears b.ridge b with scribe := { (dueClears b.ridge b).scribe with histAt := Store.put 0 q n (dueClears b.ridge b).scribe.histAt } } := rfl
  rw [← hset]
  by_cases hdown : (dueClears b.ridge b).boot.islandDown = true
  · rw [if_pos hdown] at hn ⊢; exact hn
  · rw [if_neg hdown] at hn ⊢; exact hn

/-- The bucket after a token's return (R407). -/
theorem used_refilled (k due : Nat) (d : Bucket) (l : Store Bucket) :
    (Store.get Bucket.init k (Store.put Bucket.init k (if d.used = 1 then Bucket.init else ⟨d.used - 1, due, 0⟩) l)).used = d.used - 1 := by
  rw [get_put_same]
  split
  · rename_i h1
    rw [h1]
    rfl
  · rfl

/-- Settles O45: each command's effect by its own lemma; the scribe's objects as events keep them. -/
theorem scribeCompletes : Obligations.ScribeCompletes := by
  intro s t b
  have hb : s.arrive t = b := rfl
  clear_value b
  refine ⟨fun v hv hok => ?_, fun v hv hok => ?_, fun hdue => ?_, fun q hq hkind hdue => ?_, fun q x hq hkind hdue hisland hx => ?_, fun m hm hok => ?_,
    fun l hl hlen hok hcode => ?_, fun l hl hlen hok hlow hhigh hrun hovf hmissed hm hused hrefill hlast => ?_,
    fun k hk hovf hmissed hused hrefill hdue => ?_, fun r hr hok => ?_, fun r hr hok => ?_⟩
  · refine gives_of_run hb (execHoursSeed.eq_def ..) (decide_eq_true hv) ?_
    rw [if_pos hok]
    by_cases hset : b.bit 0x8100 3 15 = true
    · rw [seedHours, if_pos hset, if_pos hset]
      exact seedRefused_reads 1 b _ (.inl rfl)
    · rw [seedHours, if_neg hset, if_neg hset]
      exact seedTaken_reads (.inl ⟨rfl, rfl⟩) hv _ b _
  · refine gives_of_run hb (execPowerCycleSeed.eq_def ..) (decide_eq_true hv) ?_
    rw [if_pos hok]
    by_cases hset : b.bit 0x8100 3 14 = true
    · rw [seedCycles, if_pos hset, if_pos hset]
      exact seedRefused_reads 2 b _ (.inr rfl)
    · rw [seedCycles, if_neg hset, if_neg hset]
      exact seedTaken_reads (.inr ⟨rfl, rfl⟩) hv _ b _
  · refine gives_of_run hb (execOperatingHoursTick.eq_def ..) rfl ?_
    dsimp only
    rw [if_pos hdue]
    refine ⟨(num_ended _ _ _ _ rfl).trans ?_, by simp⟩
    have h : (b.incWrap 0x8100 9).num 0x8100 9 = (b.num 0x8100 9 + 1) % 2 ^ 32 := by
      rw [State.incWrap, num_setNum_same, sizeOf_scribe.2.2.1]
    exact h
  · refine gives_histogramSample hb hq hkind hdue fun n hn v hv => ?_
    have hsample : quantSample v q = quantSample b q := hv ▸ (nextSample_dueClears hq n b).1
    have hcount : ∀ j, v.num (quantIx q) j = (dueClears b.ridge b).num (quantIx q) j := fun _ => hv ▸ rfl
    have hat : Store.get 0 q v.scribe.histAt = n := hv ▸ (nextSample_reads q n _).1
    obtain ⟨hhist, hskip, htake⟩ := takeSample_reads hq v
    have hend : ∀ w : State, (w.ended s.pending).scribe.histAt = w.scribe.histAt ∧ ∀ j, j < 8 → (w.ended s.pending).num (quantIx q) j = w.num (quantIx q) j := fun w =>
      ⟨by simp, fun j hj => num_ended _ _ _ _ (quantKeys hq hj)⟩
    obtain ⟨hends, hnums⟩ := hend (if b.boot.islandDown = true then v.incSat (quantIx q) 7 else takeSample q v)
    rw [hsample, hcount] at hskip
    rw [hsample, hcount] at htake
    rw [hends, hnums 6 (by decide), hnums 7 (by decide), ← hn]
    clear hends hnums hn
    extract_lets u
    by_cases hdown : b.boot.islandDown = true
    · rw [if_pos hdown, if_pos (.inl hdown)]
      exact ⟨hat, (num_incSat_quant hq (.inr rfl) _).trans (by rw [hcount])⟩
    · rw [if_neg hdown]
      refine ⟨hhist ▸ hat, ?_⟩
      cases hx : quantSample b q with
      | none => rw [if_pos (.inr rfl)]; exact hskip hx
      | some x => rw [if_neg (by simp [hdown])]; exact (htake x hx).1
  · refine gives_histogramSample hb hq hkind hdue fun n _ v hv => ?_
    obtain ⟨hsample, hnum⟩ := nextSample_dueClears hq n b
    have hbins : (nextSample q n (dueClears b.ridge b)).blob (quantIx q) 4 = (dueClears b.ridge b).blob (quantIx q) 4 := rfl
    rw [← hv] at hsample hnum hbins
    obtain ⟨-, -, htake⟩ := takeSample_reads hq v
    have hbin := (htake x (hsample.trans hx)).2
    rw [hnum 2 (.inl rfl), hnum 3 (.inr rfl), hbins] at hbin
    rw [if_neg (by simp [hisland])]
    exact (blob_ended _ _ _ _ (quantKeys hq (by decide))).trans hbin
  · refine gives_of_run hb (execHistogramClear.eq_def ..) (decide_eq_true hm) ?_
    rw [if_pos hok]
    simp [histogramClear]
  · refine gives_of_run hb (execScribeNote.eq_def ..) hl ?_
    rw [if_pos (by simp [hok, hlen]), scribeNote]
    rw [if_neg (by simp; omega), flag_ended (by decide) (by decide), bit_scribe_set (by decide), if_pos rfl]
  · refine gives_of_run hb (execScribeNote.eq_def ..) hl ?_
    rw [if_pos (by simp [hok, hlen]), scribeNote]
    rw [if_pos (by simpa using ⟨hlow, hhigh⟩)]
    obtain ⟨hnum, hring, hbucket, hovf', hcap⟩ := recordNote_reads (p0 := field l 2 4) (p1 := field l 6 4) (p2 := field l 10 4) hlow (by omega) hrun hm hused hrefill hlast
    generalize b.record (field l 0 2) 2 (field l 2 4) (field l 6 4) (field l 10 4) = u at *
    obtain ⟨hod, hscribe⟩ := ended_quiet (s := u) (by rw [hcap]; exact hmissed) (hovf'.trans hovf) s.pending
    rw [num_of_od hod, hscribe]
    exact ⟨hnum, hring, hbucket⟩
  · refine gives_of_run hb (execScribeTokenRefill.eq_def ..) (decide_eq_true hk) ?_
    dsimp only
    rw [if_pos (by simp [hused, hrefill, hdue])]
    generalize (Store.get Bucket.init k b.scribe.buckets).since + msFs (refillOf b k) = due
    generalize hu : ({ b with scribe := _ } : State) = u
    obtain ⟨-, hscribe⟩ := ended_quiet (s := u) (by rw [← hu]; exact hmissed) (by rw [← hu]; exact hovf) s.pending
    rw [hscribe, ← hu]
    exact used_refilled k due _ _
  · refine gives_of_run hb (execScribeRecordsRead.eq_def ..) (decide_eq_true hr) ?_
    rw [if_pos hok]
    refine ⟨by simp [readRecords, State.emit], ?_⟩
    rw [ended_vals]
    simp only [readRecords]
    show ((State.setReader _ r _).reader r).val _ _ = _
    rw [State.reader, State.setReader, get_put_same, val_setVal_same]
  · refine gives_of_run hb (execCompatRecordsRead.eq_def ..) (decide_eq_true hr) ?_
    rw [if_pos hok]
    refine ⟨by simp [readCompat, State.emit], ?_⟩
    rw [ended_vals]
    simp only [readCompat]
    show ((State.setReader _ r _).reader r).val _ _ = _
    rw [State.reader, State.setReader, get_put_same, val_setVal_same]
end Sys2Proof
end

section
/-!
SUPPORT. Counters and the tag rings (R410 to R418): a counter's gain with and without its odd partner, one rule for a tag record, the clauses of O46 and the theorem that settles it.
-/
namespace Sys2Proof
open Sys2Proof.Machine

/-! ### Counters (R410, R411) -/

theorem sizeOf_counter : ∀ i < 112, sizeOf (ctrIx i) 5 = 4 ∧ 0 < sizeOf (ctrIx i) 8 := by decide +kernel

/-- A counter that does not pass its end gains, and no more. -/
theorem ctrAdd_within {i n : Nat} {s : State} (h : s.num (ctrIx i) 5 + n < 2 ^ 32) : ctrAdd i n s = s.setNum (ctrIx i) 5 (s.num (ctrIx i) 5 + n) := if_pos h

/-- A counter that passes its end with no event of its own wraps and shows its overflow. -/
theorem ctrAdd_over {i n : Nat} {s : State} (h : 2 ^ 32 ≤ s.num (ctrIx i) 5 + n) (hevent : s.bit (ctrIx i) 1 29 = false) :
    ctrAdd i n s = (s.setNum (ctrIx i) 5 (s.num (ctrIx i) 5 + n)).setBitO (ctrIx i) 8 0 true := by
  have hbit : ((s.setNum (ctrIx i) 5 (s.num (ctrIx i) 5 + n)).setBitO (ctrIx i) 8 0 true).bit (ctrIx i) 1 29 = false := by
    rw [bit_setBitO_far _ _ _ _ _ _ _ _ (by omega), bit_setNum_far _ _ _ _ _ _ _ (by omega)]
    exact hevent
  unfold ctrAdd
  dsimp only
  rw [if_neg (by omega), if_neg (by simp [hbit])]

theorem num_ctrAdd_over {i n : Nat} (hi : i < 112) {s : State} (h : 2 ^ 32 ≤ s.num (ctrIx i) 5 + n) (hevent : s.bit (ctrIx i) 1 29 = false) :
    (ctrAdd i n s).num (ctrIx i) 5 = (s.num (ctrIx i) 5 + n) % 2 ^ 32 ∧ (ctrAdd i n s).bit (ctrIx i) 8 0 = true := by
  rw [ctrAdd_over h hevent]
  refine ⟨?_, ?_⟩
  · rw [num_setBitO_far _ _ _ _ _ _ _ (by omega), num_setNum_same, (sizeOf_counter i hi).1]
  · rw [State.bit_setBitO _ _ _ _ _ (by have := (sizeOf_counter i hi).2; omega)]
    simp

/-- What the wrap of one counter leaves of every other. -/
theorem num_ctrAdd_other {i k n j : Nat} (hk : k ≠ i) (hj : j < 256) {s : State} (h : 2 ^ 32 ≤ s.num (ctrIx i) 5 + n) (hevent : s.bit (ctrIx i) 1 29 = false) :
    (ctrAdd i n s).num (ctrIx k) j = s.num (ctrIx k) j := by
  rw [ctrAdd_over h hevent]
  exact (num_setBitO_far _ _ _ _ _ _ _ (by simp only [ctrIx]; omega)).trans (num_setNum_far _ _ _ _ _ _ (by simp only [ctrIx]; omega))

theorem ctrAdd_parts {i n : Nat} {s : State} (h : 2 ^ 32 ≤ s.num (ctrIx i) 5 + n) (hevent : s.bit (ctrIx i) 1 29 = false) :
    (ctrAdd i n s).scribe = s.scribe ∧ (ctrAdd i n s).capture = s.capture := by
  rw [ctrAdd_over h hevent]
  exact ⟨rfl, rfl⟩

theorem bit_of_num {s u : State} {i j : Nat} (h : u.num i j = s.num i j) (n : Nat) : u.bit i j n = s.bit i j n := by
  rw [State.bit, h]
  rfl

theorem ctrChained_other {i k n : Nat} (hk : k ≠ i) {s : State} (h : 2 ^ 32 ≤ s.num (ctrIx i) 5 + n) (hevent : s.bit (ctrIx i) 1 29 = false) :
    ctrChained (ctrAdd i n s) k = ctrChained s k := by
  rw [ctrChained, bit_of_num (num_ctrAdd_other hk (by decide) h hevent)]
  rfl

/-- A counter with no odd partner on its carry. -/
theorem ctrBump_alone {i n : Nat} {s : State} (h : 2 ^ 32 ≤ s.num (ctrIx i) 5 + n) (hevent : s.bit (ctrIx i) 1 29 = false)
    (hchain : i % 2 = 0 → ctrChained s (i + 1) = false) : ctrBump i n s = ctrAdd i n s := by
  unfold ctrBump
  dsimp only
  rw [ctrChained_other (by omega) h hevent]
  refine if_neg fun hcond => ?_
  simp only [Bool.and_eq_true, decide_eq_true_eq] at hcond
  rw [hchain hcond.1.1.1] at hcond
  exact absurd hcond.1.2 (by simp)

/-- A counter whose odd partner counts its carries. -/
theorem ctrBump_chained {i n : Nat} {s : State} (heven : i % 2 = 0) (h : 2 ^ 32 ≤ s.num (ctrIx i) 5 + n) (hevent : s.bit (ctrIx i) 1 29 = false)
    (hchain : ctrChained s (i + 1) = true) (hrun : s.scribe.running.contains (i + 1) = true) :
    ctrBump i n s = ctrAdd (i + 1) ((s.num (ctrIx i) 5 + n) / 2 ^ 32) (ctrAdd i n s) := by
  have hcarry : (s.num (ctrIx i) 5 + n) / 2 ^ 32 ≠ 0 := by omega
  unfold ctrBump
  dsimp only
  rw [ctrChained_other (by omega) h hevent, (ctrAdd_parts h hevent).1]
  exact if_pos (by simp only [heven, hchain, hrun, hcarry, Bool.and_true, decide_true, ne_eq, not_false_eq_true])

/-! ### The tag rings (R418) -/

theorem tagKeys (x : Side) : sizeOf (0x8210 + sideIx x) 3 = 4 ∧ evKey ((0x8210 + sideIx x) * 256 + 3) = false := by cases x <;> decide

/-- The event of a tag ring leaves the rings and their counts. -/
theorem tagEvent_reads (x : Side) (s : State) : (s.raise 219 (sideIx x)).num (0x8210 + sideIx x) 3 = s.num (0x8210 + sideIx x) 3 ∧
    (s.raise 219 (sideIx x)).scribe.tagStopped = s.scribe.tagStopped ∧ (s.raise 219 (sideIx x)).scribe.tagRing = s.scribe.tagRing ∧
    (s.raise 219 (sideIx x)).scribe.tagPend = s.scribe.tagPend := by
  have h := raise_same 219 (sideIx x) 0 0 s
  obtain ⟨-, -, -, -, -, -, hring, hpend, hstopped, -⟩ := h.scribeFields
  exact ⟨h.num _ _ (tagKeys x).2, hstopped, hring, hpend⟩

/-- A tag record is appended, or refused where the ring stops on full. -/
theorem appendTag_reads (x : Side) (e timing : List Nat) (ns : Nat) (s : State) : let u := appendTag x e timing ns s
    let o := 0x8210 + sideIx x
    u.scribe.tagPend = s.scribe.tagPend ∧
    if s.bit o 1 30 = true ∧ 256 ≤ s.num o 3 - (s.reader 17).val o 4 then
      u.num o 3 = s.num o 3 ∧ u.scribe.tagStopped = setBit s.scribe.tagStopped (sideIx x) true ∧ u.scribe.tagRing = s.scribe.tagRing
    else u.num o 3 = (s.num o 3 + 1) % 2 ^ 32 ∧ u.scribe.tagStopped = setBit s.scribe.tagStopped (sideIx x) false ∧
      Store.get [] (256 * sideIx x + s.num o 3 % 256) u.scribe.tagRing = tagBytes (s.num o 3) e timing ns := by
  have hone : ∀ (v : State) (c : Prop) [Decidable c], let w := if c then v.raise 219 (sideIx x) else v
      w.num (0x8210 + sideIx x) 3 = v.num (0x8210 + sideIx x) 3 ∧ w.scribe.tagStopped = v.scribe.tagStopped ∧ w.scribe.tagRing = v.scribe.tagRing ∧
        w.scribe.tagPend = v.scribe.tagPend := fun v c _ => by
    dsimp only
    split
    · exact tagEvent_reads x v
    · exact ⟨rfl, rfl, rfl, rfl⟩
  unfold appendTag
  dsimp only
  by_cases hfull : s.bit (0x8210 + sideIx x) 1 30 = true ∧ 256 ≤ s.num (0x8210 + sideIx x) 3 - (s.reader 17).val (0x8210 + sideIx x) 4
  · rw [if_pos (by simpa using hfull), if_pos hfull]
    generalize hv : ({ s with scribe := { s.scribe with tagStopped := setBit s.scribe.tagStopped (sideIx x) true } } : State) = v
    have hflip : (if s.scribe.tagStopped.testBit (sideIx x) = true then v else v.raise 219 (sideIx x)) =
        if ¬ s.scribe.tagStopped.testBit (sideIx x) = true then v.raise 219 (sideIx x) else v := by split <;> simp_all
    rw [hflip]
    obtain ⟨hnum, hstopped, hring, hpend⟩ := hone v (¬ s.scribe.tagStopped.testBit (sideIx x) = true)
    rw [hnum, hstopped, hring, hpend, ← hv]
    exact ⟨rfl, rfl, rfl, rfl⟩
  · rw [if_neg (by simpa using hfull), if_neg hfull]
    generalize hv : State.incWrap _ (0x8210 + sideIx x) 3 = v
    obtain ⟨hnum, hstopped, hring, hpend⟩ := hone v ((decide (256 ≤ s.num (0x8210 + sideIx x) 3) && decide (s.num (0x8210 + sideIx x) 3 % 256 = 0)) = true)
    rw [hnum, hstopped, hring, hpend, ← hv]
    refine ⟨rfl, ?_, rfl, get_put_same [] _ _ _⟩
    rw [State.incWrap, num_setNum_same, (tagKeys x).1]
    rfl

/-! ### The theorem -/

/-- Settles O46: a counter's gain with and without its odd partner, a tag ring's append, and each command by its own fields. -/
theorem countersComplete : Obligations.CountersComplete := by
  intro s t b
  have hb : s.arrive t = b := rfl
  clear_value b
  have hstamp : ∀ code arg, ((stampCounter code arg b).ended s.pending).scribe.ctrCmds = b.scribe.ctrCmds ++ [(b.appTime, code, arg)] := fun code arg => by
    simp [stampCounter]
  refine ⟨fun n hn hok => ?_, fun n hn hok => ?_, fun n hn hok => ?_, fun c v hc hv hok => ?_, fun r c hr hc hok => ?_,
    fun c n hc hovf hmissed hon hevent hrun hchain hover hpartner => ?_, fun c n hc heven hovf hmissed hon hevent hrun hchain hrun1 hover hroom => ?_,
    fun x j l m e ns i hj hnext hearly => ?_, fun x j l m e ns i hj hnext hdue => ?_, fun r x hr hok => ?_⟩
  · refine gives_of_run hb (execStartCounters.eq_def ..) (decide_eq_true hn) ?_
    rw [if_pos hok]
    exact hstamp ..
  · refine gives_of_run hb (execStopCounters.eq_def ..) (decide_eq_true hn) ?_
    rw [if_pos hok]
    exact hstamp ..
  · refine gives_of_run hb (execClearCounters.eq_def ..) (decide_eq_true hn) ?_
    rw [if_pos hok]
    exact hstamp ..
  · refine gives_of_run hb (execCounterWrite.eq_def ..) (by simp [Instr.wf, hc]; omega) ?_
    rw [if_pos hok]
    exact hstamp ..
  · refine gives_of_run hb (execCounterReadLatch.eq_def ..) (by simp [Instr.wf, hr, hc]) ?_
    rw [if_pos hok]
    have hout : ∀ v : State, (v.ended s.pending).out = v.out := fun v => by simp
    have hlatched : ∀ v : State, ((v.ended s.pending).reader r).latched = (v.reader r).latched := fun v => by simp
    rw [hout, hlatched]
    refine ⟨?_, fun heven hchain => ?_⟩
    · simp only [readCounter]
      split <;> rfl
    · simp only [readCounter]
      rw [if_pos (by simp [heven, hchain])]
      show Store.get 0 (c + 1) (State.reader (b.setReader r _) r).latched = _
      rw [State.reader, State.setReader, get_put_same, get_put_same]
  · refine gives_of_run hb (execCounterOverflow.eq_def ..) (decide_eq_true hc) ?_
    rw [if_pos (by simp only [hon, hrun, hchain, Bool.not_false, Bool.and_true, decide_eq_true hover]), ctrBump_alone hover hevent hpartner]
    obtain ⟨hscribe, hcapture⟩ := ctrAdd_parts hover hevent
    obtain ⟨hod, -⟩ := ended_quiet (s := ctrAdd c n b) (by rw [hcapture]; exact hmissed) (by rw [hscribe]; exact hovf) s.pending
    rw [num_of_od hod, bit_of_num (num_of_od hod _ _)]
    exact num_ctrAdd_over hc hover hevent
  · refine gives_of_run hb (execCounterOverflow.eq_def ..) (decide_eq_true hc) ?_
    have hown : ctrChained b c = false := by simp [ctrChained, heven]
    have hother := num_ctrAdd_other (k := c + 1) (j := 5) (by omega) (by decide) hover hevent
    rw [if_pos (by simp only [hon, hrun, hown, Bool.not_false, Bool.and_true, decide_eq_true hover]), ctrBump_chained heven hover hevent hchain hrun1]
    rw [ctrAdd_within (by rw [hother]; exact hroom), hother]
    obtain ⟨hscribe, hcapture⟩ := ctrAdd_parts hover hevent
    have hnum := (num_ctrAdd_over hc hover hevent).1
    generalize ctrAdd c n b = u at hscribe hcapture hnum ⊢
    obtain ⟨hod, -⟩ := ended_quiet (s := u.setNum (ctrIx (c + 1)) 5 (b.num (ctrIx (c + 1)) 5 + (b.num (ctrIx c) 5 + n) / 2 ^ 32))
      (by rw [← hmissed, ← hcapture]; rfl) (by rw [← hovf, ← hscribe]; rfl) s.pending
    rw [num_of_od hod, num_of_od hod, num_setNum_same, num_setNum_far _ _ _ _ _ _ (by simp only [ctrIx]; omega), (sizeOf_counter (c + 1) (by omega)).1]
    exact ⟨hnum, Nat.mod_eq_of_lt hroom⟩
  · refine gives_of_run hb (execTagRecord.eq_def ..) (decide_eq_true hj) ?_
    dsimp only
    rw [hnext]
    dsimp only
    rw [if_pos hearly]
    exact ⟨by simp, by simp, num_ended _ _ _ _ (tagKeys x).2⟩
  · refine gives_of_run hb (execTagRecord.eq_def ..) (decide_eq_true hj) ?_
    dsimp only
    rw [hnext]
    dsimp only
    rw [if_neg (Nat.not_lt.mpr hdue)]
    generalize hv : ({ b with scribe := { b.scribe with tagPend := dropTag x j b.scribe.tagPend } } : State) = v
    have happend := appendTag_reads x e l ns v
    generalize appendTag x e l ns v = u at happend ⊢
    have hend : (u.ended s.pending).scribe.tagPend = u.scribe.tagPend ∧ (u.ended s.pending).scribe.tagStopped = u.scribe.tagStopped ∧
        (u.ended s.pending).scribe.tagRing = u.scribe.tagRing := by simp
    rw [hend.1, hend.2.1, hend.2.2, num_ended _ _ _ _ (tagKeys x).2]
    rw [← hv] at happend
    exact happend
  · refine gives_of_run hb (execTagRecordsRead.eq_def ..) (decide_eq_true hr) ?_
    rw [if_pos hok]
    dsimp only
    rw [ended_vals]
    refine ⟨by simp [readTags, State.emit], ?_⟩
    simp only [readTags]
    show ((State.setReader _ r _).reader r).val _ _ = _
    rw [State.reader, State.setReader, get_put_same, val_setVal_same]
end Sys2Proof
end

section
/-!
SUPPORT. A frame forwarded on a ring (R439): the state that refutes O47.
-/
namespace Sys2Proof
open Sys2Proof.Machine

/-! ### A frame forwarded where the waiting frames of a port have no place (R439) -/

/-- A state in HSR, READY and with both sides in service, that holds the frames waiting on port X alone. -/
def oneLine : State := let s := (((setStage 8 served).setNum 0x1020 1 1).setSideState .A 1).setSideState .B 2
  { s with net := { s.net with lines := [[]] } }

/-- A frame to another device of the ring. -/
def passingFrame : Frame := ⟨0x0800, 0, 64, true, 1, 2, false, false, 0, false, 0, 0, 0, 0, 0, none⟩

/-- The frames waiting on port Y as a step leaves them. -/
def lineY : Host.Outcome State Fault Refusal → List Nat
  | .next s => lineOf s 1
  | _ => []

/-- Refutes O47: a frame forwarded to port Y waits there, but a state whose list of waiting frames holds port X alone (no run from reset reaches one) has no place for it, so
the line stays empty (R439). -/
theorem not_networkCompletes : ¬ Obligations.NetworkCompletes := by
  intro h
  obtain ⟨-, hforward, -⟩ := h oneLine 0
  obtain ⟨s', hexec, l, -, -, -, hline⟩ := hforward 0 passingFrame (by decide +kernel) (by decide +kernel) (by decide +kernel) (by decide +kernel)
    (by decide +kernel) (by decide +kernel) (by decide +kernel) (by decide +kernel) (by decide +kernel)
  have hnone : lineY (exec (.frameReceived 0 0 passingFrame) oneLine) = [] := by decide +kernel
  rw [hexec, lineY] at hnone
  rw [hnone] at hline
  simp at hline
end Sys2Proof
end

section
/-!
SUPPORT. Messages and sessions (R434 to R445): what a message that leaves does not move, a message taken at its receipt, keys, sessions opened, answered and closed, the clauses of O48 and the theorem that settles it.
-/
namespace Sys2Proof
open Sys2Proof.Machine

/-! ### Messages that leave (R278, R436) -/

/-- A state whose messages leave as another's would. -/
structure FramesAs (b v : State) : Prop where
  served : ∀ x, x < 2 → portServed v x = portServed b x
  address : v.num 0x1010 5 = b.num 0x1010 5
  mode : v.num 0x1020 1 = b.num 0x1020 1
  seq : v.net.redSeq = b.net.redSeq
  out : v.out = b.out
  queue : v.net.bootQueue = b.net.bootQueue

/-- What messages and their frames do not move. -/
theorem FramesAs.of_own {P : List Part} {G : List Objs} {b v : State} (h : Own P G b v) (hboot : Part.boot ∉ P)
    (hG : ∀ k ∈ [0x101005, 0x102001, 0x602101, 0x710303, 0x710403, 0xB00001], G.any (·.has k) = false)
    (hseq : v.net.redSeq = b.net.redSeq) (hout : v.out = b.out) (hqueue : v.net.bootQueue = b.net.bootQueue) : FramesAs b v := by
  have hnum : ∀ i j, evKey (i * 256 + j) = false → i * 256 + j ∈ [0x101005, 0x102001, 0x602101, 0x710303, 0x710403, 0xB00001] → v.num i j = b.num i j :=
    fun i j he hk => h.numKept i j he (hG _ hk)
  refine ⟨fun x hx => ?_, hnum _ _ rfl (by decide), hnum _ _ rfl (by decide), hseq, hout, hqueue⟩
  have hlock : pllLocked v (3 + x) = pllLocked b (3 + x) := by
    have hpll : v.num (0x7100 + (3 + x)) 3 = b.num (0x7100 + (3 + x)) 3 := by
      have : x = 0 ∨ x = 1 := by omega
      rcases this with rfl | rfl <;> exact hnum _ _ rfl (by decide)
    simp only [pllLocked, State.bit, hpll]
  simp only [portServed, bootPortServed, State.ready, State.feeds, (stageWords_of (hnum 0xB000 1 rfl (by decide))).1,
    sideState_of (hnum 0x6021 1 rfl (by decide)), h.boot hboot, hlock] <;> rfl

theorem FramesAs.frames {b v : State} (h : FramesAs b v) : Framed v = Framed b ∧ anyPort v = anyPort b := by
  have hall : ∀ n : Nat, ({ v with net := { v.net with redSeq := n } } : State).num = v.num ∧ ∀ x, portServed ({ v with net := { v.net with redSeq := n } } : State) x = portServed v x :=
    fun _ => ⟨rfl, fun _ => rfl⟩
  have hall' : ∀ n : Nat, ({ b with net := { b.net with redSeq := n } } : State).num = b.num ∧ ∀ x, portServed ({ b with net := { b.net with redSeq := n } } : State) x = portServed b x :=
    fun _ => ⟨rfl, fun _ => rfl⟩
  refine ⟨?_, by simp only [anyPort, h.served 0 (by decide), h.served 1 (by decide)]⟩
  have hfilter : (List.range 2).filter (portServed v) = (List.range 2).filter (portServed b) :=
    List.filter_congr (fun x hx => h.served x (List.mem_range.mp hx))
  show ((List.range 2).filter (portServed v)).map _ = ((List.range 2).filter (portServed b)).map _
  rw [hfilter]
  refine List.map_congr_left fun p _ => ?_
  simp only [frameTag, State.fld, (hall _).1, (hall' _).1, h.address, h.mode, h.seq]

/-- The frames of a message leave; sessions and what waits at the boot port stay. -/
theorem frameOut_reads (s : State) (n : Nat) : (s.frameOut n).out = s.out ++ Framed s ∧ (s.frameOut n).net.bootQueue = s.net.bootQueue ∧
    (s.frameOut n).net.sessions = s.net.sessions ∧ (s.frameOut n).net.nonces = s.net.nonces := by
  unfold State.frameOut
  extract_lets _q v w
  have hone : ∀ (p : Nat) (u : State), let u' := if portServed u p then countEvent p 0x13 1 0 (takeLineTime p n u) else u
      u'.out = u.out ∧ u'.net.bootQueue = u.net.bootQueue ∧ u'.net.sessions = u.net.sessions ∧ u'.net.nonces = u.net.nonces := fun p u => by
    dsimp only
    split
    · have h := countEvent_same p 0x13 1 0 (takeLineTime p n u)
      obtain ⟨hsessions, -, hnonces, -, -, hqueue, -⟩ := h.netFields
      exact ⟨h.out, hqueue, hsessions, hnonces⟩
    · exact ⟨rfl, rfl, rfl, rfl⟩
  have hfor : ∀ f : Nat → State → State, forN 2 f w = f 1 (f 0 w) := fun _ => rfl
  rw [hfor]
  obtain ⟨ho, hq, hs, hn⟩ := hone 0 w
  obtain ⟨ho', hq', hs', hn'⟩ := hone 1 (if portServed w 0 then countEvent 0 0x13 1 0 (takeLineTime 0 n w) else w)
  exact ⟨ho'.trans ho, hq'.trans hq, hs'.trans hs, hn'.trans hn⟩

/-- The bytes of a message go out. -/
theorem sendSot_reads {b v : State} (h : FramesAs b v) (dest : Nat) (boot : Bool) (bytes : List Nat) :
    let u := v.sendSot 8 dest boot bytes
    Sent dest boot bytes b u ∧ u.net.sessions = v.net.sessions ∧ u.net.nonces = v.net.nonces := by
  obtain ⟨hframed, hany⟩ := h.frames
  unfold State.sendSot Sent
  cases boot with
  | true => exact ⟨⟨congrArg (· ++ [bytes]) h.queue, h.out⟩, rfl, rfl⟩
  | false =>
    dsimp only
    rw [if_neg (by decide), if_neg (by decide), ← hany]
    by_cases hport : anyPort v = true
    · rw [if_pos hport, if_pos hport]
      obtain ⟨hout, hqueue, hsessions, hnonces⟩ := frameOut_reads (v.emit 8 dest bytes) (bytes.length + 46)
      have hemit : (v.emit 8 dest bytes).out ++ Framed (v.emit 8 dest bytes) = b.out ++ ⟨8, dest, bytes⟩ :: Framed b := by
        have hsame : Framed (v.emit 8 dest bytes) = Framed v := rfl
        rw [hsame, hframed, State.emit, h.out, List.append_assoc]
        rfl
      exact ⟨⟨hout.trans hemit, hqueue.trans h.queue⟩, hsessions, hnonces⟩
    · rw [if_neg hport, if_neg hport]
      exact ⟨⟨h.out, h.queue⟩, rfl, rfl⟩

/-- What follows a message sent, and sends nothing. -/
theorem Sent.then {dest : Nat} {boot : Bool} {bytes : List Nat} {b u w : State} (h : Sent dest boot bytes b u) (hout : w.out = u.out)
    (hqueue : w.net.bootQueue = u.net.bootQueue) : Sent dest boot bytes b w := by
  unfold Sent at h ⊢
  rw [hout, hqueue]
  exact h

/-! ### A message taken (R434, R436) -/

theorem framesAs_received (b : State) : FramesAs b (Received b) :=
  ⟨fun _ _ => rfl, rfl, rfl, rfl, rfl, rfl⟩

/-- A message taken is processed at its receipt. -/
theorem messageIn_taken {b : State} {m : Msg} (h : Taken b m) : (messageIn m none b).2 = AtReceipt (fun c => (takeMessage m c).2) b := by
  obtain ⟨hserve, hup, hport, -⟩ := h
  have hpath : (!b.boot.serving || (m.path != 1 && !portServed b (m.path - 2))) = false := by
    rcases hport with h | h <;> simp [hserve, h]
  unfold messageIn
  rw [if_neg (by rw [hpath]; decide), if_neg (by rw [hup]; decide)]
  rfl

theorem typedIn_taken {b : State} {m : Msg} {k : Nat} (h : Taken b m) (hk : mType m = k) : typedIn k m b = AtReceipt (fun c => (takeMessage m c).2) b := by
  rw [typedIn, if_pos hk, messageIn_taken h]

/-- A message taken is neither blocked nor malformed. -/
theorem taken_passes {b : State} {m : Msg} (h : Taken b m) :
    ¬ blockedNow (Received b) m = true ∧ ¬ (!headerOk m || !bodyOk m) = true := by
  obtain ⟨-, -, -, hblocked, hheader, hbody⟩ := h
  have hblocked' : blockedNow (Received b) m = false := hblocked
  exact ⟨by rw [hblocked']; decide, by rw [hheader, hbody]; decide⟩

theorem takeMessage_identify {b : State} {m : Msg} (h : Taken b m) (htype : mType m = 1) :
    (takeMessage m (Received b)).2 = answerBare m (identifyBody (Received b)) (Received b) := by
  obtain ⟨hopen, hwhole⟩ := taken_passes h
  unfold takeMessage
  rw [if_neg hopen, if_neg hwhole]
  simp only [htype]

theorem takeMessage_keyLoad {b : State} {m : Msg} (h : Taken b m) (htype : mType m = 2) : (takeMessage m (Received b)).2 = takeKeyLoad m (Received b) := by
  obtain ⟨hopen, hwhole⟩ := taken_passes h
  unfold takeMessage
  rw [if_neg hopen, if_neg hwhole]
  simp only [htype]

theorem takeMessage_open {b : State} {m : Msg} (h : Taken b m) (htype : mType m = 3) : (takeMessage m (Received b)).2 = (takeOpen m (Received b)).2 := by
  obtain ⟨hopen, hwhole⟩ := taken_passes h
  unfold takeMessage
  rw [if_neg hopen, if_neg hwhole]
  simp only [htype]

theorem takeMessage_request {b : State} {m : Msg} (h : Taken b m) (htype : 4 ≤ mType m) : takeMessage m (Received b) =
    if keysLoaded (Received b) then takeSession m (Received b)
    else if m.path = 1 then (false, serve m ⟨0, 0xFF, none⟩ 0 (Received b)) else (false, Received b) := by
  obtain ⟨hopen, hwhole⟩ := taken_passes h
  unfold takeMessage
  rw [if_neg hopen, if_neg hwhole]
  split
  · omega
  · omega
  · omega
  · rfl

/-- A message of a session that passes its checks is served, its Sequence taken. -/
theorem takeSession_taken {c : State} {m : Msg} {e : Session} (h : SessionTaken c m e) : takeSession m c = (false, serve m ⟨readerOf (mSid m) e, mSid m, some e.role⟩ (mSid m)
    { c with net := { c.net with sessions := Store.put Session.init (mSid m) (takeSeq c.now (mSeq m) e) c.net.sessions } }) := by
  obtain ⟨-, hfind, hmac, hseq, htime⟩ := h
  unfold takeSession
  rw [hfind]
  dsimp only
  rw [if_neg (by rw [hmac]; decide), if_neg (by rw [hseq, htime]; decide)]

/-- A request of a session, by its Type. -/
theorem takeMessage_session {b : State} {m : Msg} {e : Session} (h : Taken b m) (htype : 4 ≤ mType m) (hs : SessionTaken (Received b) m e) :
    (takeMessage m (Received b)).2 = serve m ⟨readerOf (mSid m) e, mSid m, some e.role⟩ (mSid m)
      { Received b with net := { (Received b).net with sessions := Store.put Session.init (mSid m) (takeSeq b.now (mSeq m) e) b.net.sessions } } := by
  rw [takeMessage_request h htype, if_pos hs.1, takeSession_taken hs]
  rfl
/-! ### What a message's processing leaves at the end of its command -/

theorem atReceipt_congr {f g : State → State} {b : State} (h : f (Received b) = g (Received b)) : AtReceipt f b = AtReceipt g b := by
  unfold AtReceipt
  rw [h]

/-- The end of a message's command keeps what it sent and its sessions. -/
theorem ended_atReceipt (f : State → State) (b : State) (q : List Instr) : let u := f (Received b)
    let w := (AtReceipt f b).ended q
    w.out = u.out ∧ w.net.bootQueue = u.net.bootQueue ∧ w.net.sessions = u.net.sessions ∧ w.net.nonces = u.net.nonces := by
  refine ⟨?_, ?_, ?_, ?_⟩ <;> simp [AtReceipt]

theorem Sent.ended {dest : Nat} {boot : Bool} {bytes : List Nat} {b : State} {f : State → State} (h : Sent dest boot bytes b (f (Received b)))
    (q : List Instr) : Sent dest boot bytes b ((AtReceipt f b).ended q) :=
  h.then (ended_atReceipt f b q).1 (ended_atReceipt f b q).2.1

/-- A message whose row names its Type, taken. -/
theorem gives_typed {c : Instr} {k : Nat} {m : Msg} {s b : State} {P : State → State → Prop} (hb : s.arrive c.time = b)
    (hexec : exec c s = run c (typedIn k m) s) (hwf : c.wf = true) (h : Taken b m) (hk : mType m = k)
    (hP : P b ((AtReceipt (fun c => (takeMessage m c).2) b).ended s.pending)) : Gives c s P :=
  gives_of_run hb hexec hwf (by rw [typedIn_taken h hk]; exact hP)

/-- An answer without a session. -/
theorem answerBare_reads {b v : State} (h : FramesAs b v) (m : Msg) (body : List Nat) :
    Sent (noSession m) (m.path == 1) (sotBytes [] (mType m + 0x80) 0 0 (toT96 v.ridge) (mSeq m) body) b (answerBare m body v) :=
  (sendSot_reads h _ _ _).1

/-- An answer of a session goes out under its next Sequence. -/
theorem sendSession_reads {b v : State} (h : FramesAs b v) {sid : Nat} {e : Session} (hfind : Store.find sid v.net.sessions = some e) (hpath : e.path ≠ 0)
    (type ref : Nat) (body : List Nat) : let u := v.sendSession 8 type sid ref body
    Sent sid (e.path == 1) (sotBytes e.key type sid (e.outSeq + 1) (toT96 v.ridge) ref body) b u ∧
      Store.find sid u.net.sessions = some { e with outSeq := e.outSeq + 1 } := by
  unfold State.sendSession
  rw [hfind]
  dsimp only
  generalize hw : ({ v with net := { v.net with sessions := Store.put Session.init sid { e with outSeq := e.outSeq + 1 } v.net.sessions } } : State) = w
  have hridge : v.ridge = w.ridge := by rw [← hw]
  have hsessions : w.net.sessions = Store.put Session.init sid { e with outSeq := e.outSeq + 1 } v.net.sessions := by rw [← hw]
  have hframes : FramesAs b w := by
    rw [← hw]
    exact ⟨h.served, h.address, h.mode, h.seq, h.out, h.queue⟩
  obtain ⟨hsent, hkeep, -⟩ := sendSot_reads hframes sid (e.path == 1) (sotBytes e.key type sid (e.outSeq + 1) (toT96 w.ridge) ref body)
  refine ⟨hridge ▸ hsent, ?_⟩
  rw [hridge, hkeep, hsessions, find_put_same, if_neg (fun hinit => hpath (congrArg Session.path hinit))]

/-- A set dropped with its owner leaves messages and sessions. -/
theorem abortOpenSet_kept (c : Bool) (s : State) : let w := if c = true then abortOpenSet 2 s else s
    w.out = s.out ∧ w.ridge = s.ridge ∧ w.net.bootQueue = s.net.bootQueue ∧ w.net.redSeq = s.net.redSeq ∧ w.net.sessions = s.net.sessions := by
  dsimp only
  split
  · unfold abortOpenSet
    split
    · exact ⟨rfl, rfl, rfl, rfl, rfl⟩
    · simp
  · exact ⟨rfl, rfl, rfl, rfl, rfl⟩

theorem setStream_net (s : State) (k : Nat) (v : Stream) : (s.setStream k v).net = s.net := rfl

theorem dropStreams_net (drop : Stream → Stream) (v : State) : (forN 8 (fun k s => s.setStream k (drop (s.stream k))) v).net = v.net :=
  forN_keep (fun u => u.net) 8 (fun k s => s.setStream k (drop (s.stream k))) (fun k u _ => setStream_net u k _) v

/-- A session closes; the others stay, and nothing is sent. -/
theorem closeSession_reads {sid : Nat} {e : Session} {s : State} (hfind : Store.find sid s.net.sessions = some e) (way : Nat) :
    let u := closeSession way sid s
    u.out = s.out ∧ u.net.bootQueue = s.net.bootQueue ∧ u.net.sessions = s.net.sessions.filter (fun e => e.1 != sid) := by
  have hown : Own [.capture, .net] [] s (closeSession way sid s) := Own.closeSession (by decide) (by decide) (Own.same s)
  refine ⟨hown.out (by decide), ?_⟩
  unfold closeSession
  rw [hfind]
  dsimp -zeta only
  extract_lets _q v w drop x y
  have hv : w.net.bootQueue = s.net.bootQueue ∧ w.net.sessions = s.net.sessions.filter (fun e => e.1 != sid) := ⟨rfl, rfl⟩
  have hx : x.net = w.net := dropStreams_net drop w
  have hy : y = if x.net.openSet.any (fun o => o.owner == sid) = true then abortOpenSet 2 x else x := rfl
  clear_value y x w v drop
  obtain ⟨-, -, hq, -, hs⟩ := abortOpenSet_kept (x.net.openSet.any (fun o => o.owner == sid)) x
  rw [← hy, hx] at hq hs
  obtain ⟨hs', -, -, -, -, hq', -⟩ := (raise_same 227 sid way 0 y).netFields
  exact ⟨hq'.trans (hq.trans hv.1), hs'.trans (hs.trans hv.2)⟩

/-! ### Keys loaded (R442) -/

/-- The state with its keys loaded. -/
def keyed (k : List Nat) (holder : Nat) (s : State) : State :=
  ((forN 4 (fun r s => s.setBlob 0x1030 (r + 1) (slice k (32 * r) 32)) s).setNum 0x1000 6 1).setNum 0x1000 7 holder

theorem keyed_reads (k : List Nat) (holder : Nat) (s : State) : let u := keyed k holder s
    u.num 0x1000 6 = 1 ∧ u.num 0x1000 7 = holder % 2 ^ 64 ∧ (∀ r, r < 4 → u.blob 0x1030 (r + 1) = slice k (32 * r) 32) ∧
      Own [.net] [⟨0x1030, 0x1030, 1, 4⟩, ⟨0x1000, 0x1000, 6, 7⟩] s u := by
  have hsize : sizeOf 0x1000 6 = 1 ∧ sizeOf 0x1000 7 = 8 := by decide
  have hfor : ∀ f : Nat → State → State, forN 4 f s = f 3 (f 2 (f 1 (f 0 s))) := fun _ => rfl
  unfold keyed
  rw [hfor]
  refine ⟨?_, ?_, fun r hr => ?_, ?_⟩
  · rw [num_setNum_far _ _ _ _ _ _ (by decide)]
    exact num_setNum_fits _ (by rw [hsize.1]; decide)
  · rw [num_setNum_same, hsize.2]
  · rw [blob_setNum_far _ _ _ _ _ _ (by omega), blob_setNum_far _ _ _ _ _ _ (by omega)]
    have : r = 0 ∨ r = 1 ∨ r = 2 ∨ r = 3 := by omega
    rcases this with rfl | rfl | rfl | rfl <;> simp [State.blob_setBlob]
  · refine Own.setNum (by decide) (Own.setNum (by decide) ?_)
    exact Own.setBlob (by decide) (Own.setBlob (by decide) (Own.setBlob (by decide) (Own.setBlob (by decide) (Own.same s))))

theorem endBootAccess_reads (s : State) : (endBootAccess s).out = s.out ∧ (endBootAccess s).net.bootQueue = s.net.bootQueue ∧
    (endBootAccess s).net.redSeq = s.net.redSeq ∧ (endBootAccess s).ridge = s.ridge := by
  obtain ⟨hout, hridge, hqueue, hseq, -⟩ := abortOpenSet_kept (s.net.openSet.any (fun o => o.owner == 0xFF)) s
  exact ⟨hout, hqueue, hseq, hridge⟩

/-- A load that verifies (R442): the keys, and its answer. -/
theorem takeKeyLoad_reads {b c : State} (h : FramesAs b c) {m : Msg} {k : List Nat} (hempty : keysLoaded c = false) (hk : keysOf c m = some k) :
    let u := takeKeyLoad m c
    u.num 0x1000 6 = 1 ∧ u.num 0x1000 7 = (m.path <<< 56 ||| m.ip) % 2 ^ 64 ∧ (∀ r, r < 4 → u.blob 0x1030 (r + 1) = slice k (32 * r) 32) ∧
      Sent (noSession m) (m.path == 1) (sotBytes [] (mType m + 0x80) 0 0 (toT96 c.ridge) (mSeq m) [0]) b u := by
  obtain ⟨hstate, hholder, hkeys, hown⟩ := keyed_reads k (m.path <<< 56 ||| m.ip) c
  have hload : takeKeyLoad m c = answerBare m [0] ((endBootAccess (keyed k (m.path <<< 56 ||| m.ip) c)).raise 228 m.path m.ip) := by
    unfold takeKeyLoad
    rw [if_neg (by rw [hempty]; decide), hk]
    rfl
  rw [hload]
  have hparts : (keyed k (m.path <<< 56 ||| m.ip) c).net = c.net ∧ (keyed k (m.path <<< 56 ||| m.ip) c).out = c.out ∧ (keyed k (m.path <<< 56 ||| m.ip) c).ridge = c.ridge :=
    ⟨rfl, rfl, rfl⟩
  generalize keyed k (m.path <<< 56 ||| m.ip) c = v at hstate hholder hkeys hown hparts ⊢
  obtain ⟨hnet, hout, hridge⟩ := hparts
  obtain ⟨hout', hqueue, hseq, hridge'⟩ := endBootAccess_reads v
  have hend : ∀ G, Own [.net] G v ((endBootAccess v).raise 228 m.path m.ip) := fun G => Own.raise (Own.endBootAccess (by decide) (Own.same v))
  have hraise := raise_same 228 m.path m.ip 0 (endBootAccess v)
  generalize (endBootAccess v).raise 228 m.path m.ip = w at hend hraise ⊢
  have hlast : Own [.net, .out] [] w (answerBare m [0] w) := Own.answerBare (by decide) (by decide) (Own.same w)
  have hframes : FramesAs c w := by
    obtain ⟨-, -, -, -, -, hq, -, -, hr, -⟩ := hraise.netFields
    refine .of_own (P := [.net]) (G := [⟨0x1030, 0x1030, 1, 4⟩, ⟨0x1000, 0x1000, 6, 7⟩]) ?_ (by decide) (by decide)
      (hr.trans (hseq.trans (by rw [hnet]))) (hraise.out.trans (hout'.trans hout)) (hq.trans (hqueue.trans (by rw [hnet])))
    exact hown.step (hend _)
  have hboth : FramesAs b w := ⟨fun x hx => (hframes.served x hx).trans (h.served x hx), hframes.address.trans h.address, hframes.mode.trans h.mode,
    hframes.seq.trans h.seq, hframes.out.trans h.out, hframes.queue.trans h.queue⟩
  have hsent := answerBare_reads hboth m [0]
  rw [hraise.ridge.trans (hridge'.trans hridge)] at hsent
  refine ⟨?_, ?_, fun r hr => ?_, hsent⟩
  · exact (hlast.numKept 0x1000 6 rfl rfl).trans (((hend []).numKept 0x1000 6 rfl rfl).trans hstate)
  · exact (hlast.numKept 0x1000 7 rfl rfl).trans (((hend []).numKept 0x1000 7 rfl rfl).trans hholder)
  · have he : evKey (0x1030 * 256 + (r + 1)) = false := by
      have : r = 0 ∨ r = 1 ∨ r = 2 ∨ r = 3 := by omega
      rcases this with rfl | rfl | rfl | rfl <;> rfl
    exact (hlast.blobKept 0x1030 (r + 1) he rfl).trans (((hend []).blobKept 0x1030 (r + 1) he rfl).trans (hkeys r hr))

/-! ### Sessions opened (R444) -/

theorem openWith_reads {b c : State} (h : FramesAs b c) (m : Msg) (n : Nat) (hpath : m.path ≠ 0) :
    let role := nth 0 (mBody m) 0
    let dev := beBytes 16 (Config.freeWord c.freeCount % 2 ^ 128)
    let key := hmac (roleKey c role) ([0x53, 0x4F, 0x54, 0x31] ++ slice (mBody m) 4 16 ++ dev ++ beBytes 2 n)
    let u := openWith m n c
    Store.find n u.net.sessions = some ⟨role, m.path, m.ip, m.udp, key, 0, 1, c.now, 0⟩ ∧
      u.net.nonces = (beNat (slice (mBody m) 4 16) :: c.net.nonces).take 64 ∧
      Sent (noSession m) (m.path == 1) (sotBytes (roleKey c role) 0x83 n 0 (toT96 c.ridge) (mSeq m) (0 :: dev)) b u := by
  intro role dev key
  let taken : Net := { c.net with
    sessions := Store.put Session.init n ⟨role, m.path, m.ip, m.udp, key, 0, 1, c.now, 0⟩ c.net.sessions
    nonces := (beNat (slice (mBody m) 4 16) :: c.net.nonces).take 64 }
  generalize hv : ({ c.nextFree with net := taken } : State) = v
  have hopen : openWith m n c = (v.sendSot 8 (noSession m) (m.path == 1) (sotBytes (roleKey v role) 0x83 n 0 (toT96 v.ridge) (mSeq m) (0 :: dev))).raise 226 n role := by
    rw [← hv]
    rfl
  have hframes : FramesAs b v := by
    rw [← hv]
    exact ⟨h.served, h.address, h.mode, h.seq, h.out, h.queue⟩
  have hrole : roleKey v role = roleKey c role := by rw [← hv]; rfl
  have hridge : v.ridge = c.ridge := by rw [← hv]; rfl
  have hsessions : v.net.sessions = Store.put Session.init n ⟨role, m.path, m.ip, m.udp, key, 0, 1, c.now, 0⟩ c.net.sessions := by rw [← hv]
  have hnonces : v.net.nonces = (beNat (slice (mBody m) 4 16) :: c.net.nonces).take 64 := by rw [← hv]
  clear_value dev key role
  rw [hopen]
  obtain ⟨hsent, hs, hn⟩ := sendSot_reads hframes (noSession m) (m.path == 1) (sotBytes (roleKey v role) 0x83 n 0 (toT96 v.ridge) (mSeq m) (0 :: dev))
  generalize v.sendSot 8 (noSession m) (m.path == 1) (sotBytes (roleKey v role) 0x83 n 0 (toT96 v.ridge) (mSeq m) (0 :: dev)) = w at hsent hs hn ⊢
  have hraise := raise_same 226 n role 0 w
  obtain ⟨hs', -, hn', -, -, hq', -⟩ := hraise.netFields
  rw [hrole, hridge] at hsent
  refine ⟨?_, hn'.trans (hn.trans hnonces), hsent.then hraise.out hq'⟩
  rw [hs', hs, hsessions, find_put_same, if_neg (fun hinit => hpath (congrArg Session.path hinit))]
/-! ### The theorem -/

/-- The state that has taken a session's message and sessionAnswered it. -/
def sessionAnswered (m : Msg) (e : Session) (c : State) : State :=
  answer m (mSid m) [0] { c with net := { c.net with sessions := Store.put Session.init (mSid m) (takeSeq c.now (mSeq m) e) c.net.sessions } }

theorem takeSeq_fields (now n : Nat) (e : Session) : (takeSeq now n e).path = e.path ∧ (takeSeq now n e).key = e.key ∧ (takeSeq now n e).outSeq = e.outSeq := by
  unfold takeSeq
  dsimp only
  split <;> exact ⟨rfl, rfl, rfl⟩

theorem sessionAnswered_reads {b c : State} (h : FramesAs b c) {m : Msg} {e : Session} {type : Nat} (htype : mType m + 0x80 = type) (hsid : mSid m ≠ 0) (hpath : e.path ≠ 0) :
    Sent (mSid m) (e.path == 1) (sotBytes e.key type (mSid m) (e.outSeq + 1) (toT96 c.ridge) (mSeq m) [0]) b (sessionAnswered m e c) ∧
      Store.find (mSid m) (sessionAnswered m e c).net.sessions = some { takeSeq c.now (mSeq m) e with outSeq := e.outSeq + 1 } := by
  obtain ⟨hp, hk, ho⟩ := takeSeq_fields c.now (mSeq m) e
  unfold sessionAnswered
  generalize takeSeq c.now (mSeq m) e = q at hp hk ho ⊢
  generalize hv : ({ c with net := { c.net with sessions := Store.put Session.init (mSid m) q c.net.sessions } } : State) = v
  have hframes : FramesAs b v := by
    rw [← hv]
    exact ⟨h.served, h.address, h.mode, h.seq, h.out, h.queue⟩
  have hridge : v.ridge = c.ridge := by rw [← hv]
  have hfind : Store.find (mSid m) v.net.sessions = some q := by
    rw [← hv]
    exact (find_put_same _ _ _ _).trans (if_neg (fun hinit => hpath (hp.symm.trans (congrArg Session.path hinit))))
  obtain ⟨hsent, hkept⟩ := sendSession_reads hframes hfind (by rw [hp]; exact hpath) type (mSeq m) [0]
  rw [hp, hk, ho, hridge] at hsent
  rw [ho] at hkept
  have hanswer : answer m (mSid m) [0] v = v.sendSession 8 (mType m + 0x80) (mSid m) (mSeq m) [0] := if_neg hsid
  rw [hanswer, htype]
  exact ⟨hsent, hkept⟩

/-- Settles O48: a message taken is processed at its receipt by its Type, and each Type's effect has its own lemma. -/
theorem sessionsComplete : Obligations.SessionsComplete := by
  intro s t b c then_
  have hb : s.arrive t = b := rfl
  have hframes : FramesAs b c := framesAs_received b
  have hthen : ∀ f : State → State, then_ f = (AtReceipt f b).ended s.pending := fun _ => rfl
  clear_value then_ b
  refine ⟨fun m hm htype htaken => ?_, fun m hm htype htaken hempty => ?_, fun m n hm htype htaken hkeys hrole hmac htime hnonce hboot hfree => ?_,
    fun m e hm htype htaken hses hsid hpath => ?_, fun m e hm htype htaken hses => ?_, fun m hm htype htaken hempty hpath => ?_,
    fun m e hm htype htaken hses => ?_, fun m e hm htype htaken hses hsid hpath => ?_, fun a ha => ?_, fun n e hn hfind hidle => ?_,
    fun n m hn hm hstage hbusy hlen => ?_, fun n m hn hm hstage hbusy => ?_, fun n m hn hm hstage => ?_, fun hstage => ?_, fun hstage => ?_⟩
  · refine gives_typed hb (execIdentify.eq_def ..) hm htaken htype (Sent.ended ?_ _)
    rw [takeMessage_identify htaken htype]
    have h := answerBare_reads hframes m (identifyBody c)
    rw [htype] at h
    exact h
  · refine gives_typed hb (execKeyLoad.eq_def ..) hm htaken htype ?_
    have htake : (takeMessage m (Received b)).2 = takeKeyLoad m c := takeMessage_keyLoad htaken htype
    have hkeysOf : keysOf b m = keysOf c m := rfl
    rw [hkeysOf]
    have hstate : ∀ u : State, keysLoaded u = decide (u.num 0x1000 6 = 1) := fun u => rfl
    obtain ⟨hout, hqueue, hsessions, -⟩ := ended_atReceipt (fun c => (takeMessage m c).2) b s.pending
    have hnum : ∀ j, j = 6 ∨ j = 7 → ((AtReceipt (fun c => (takeMessage m c).2) b).ended s.pending).num 0x1000 j = (takeMessage m (Received b)).2.num 0x1000 j := fun j hj => by
      rcases hj with rfl | rfl <;> exact num_ended _ _ _ _ rfl
    have hblob : ∀ r, r < 4 → ((AtReceipt (fun c => (takeMessage m c).2) b).ended s.pending).blob 0x1030 (r + 1) = (takeMessage m (Received b)).2.blob 0x1030 (r + 1) := fun r hr => by
      have : r = 0 ∨ r = 1 ∨ r = 2 ∨ r = 3 := by omega
      rcases this with rfl | rfl | rfl | rfl <;> exact blob_ended _ _ _ _ rfl
    cases hk : keysOf c m with
    | none =>
      have hsame : takeKeyLoad m c = c := by
        unfold takeKeyLoad
        split
        · rfl
        · rw [hk]
      dsimp only
      rw [hstate, hnum 6 (.inl rfl), hout, hqueue, hsessions, htake, hsame]
      exact ⟨(hstate c).symm.trans hempty, rfl, rfl, rfl⟩
    | some k =>
      obtain ⟨hloaded, hholder, hroles, hsent⟩ := takeKeyLoad_reads hframes (m := m) hempty hk
      rw [htype] at hsent
      dsimp only
      refine ⟨?_, fun r hr => ?_, ?_, Sent.ended (htake ▸ hsent) _⟩
      · rw [hstate, hnum 6 (.inl rfl), htake, hloaded]
        rfl
      · exact (hblob r hr).trans (by rw [htake]; exact hroles r hr)
      · rw [hnum 7 (.inr rfl), htake, hholder]
  · refine gives_typed hb (execOpenSession.eq_def ..) hm htaken htype ?_
    have hpath : m.path ≠ 0 := by
      simp only [Msg.wf, Bool.and_eq_true, decide_eq_true_eq] at hm
      omega
    have htake : (takeMessage m (Received b)).2 = openWith m n c := by
      rw [takeMessage_open htaken htype]
      have hfree' : freeSid c = some n := hfree
      have hkeys' : keysLoaded c = true := hkeys
      have hmac' : macOk (roleKey c (nth 0 (mBody m) 0)) m = true := hmac
      have hnonce' : c.net.nonces.contains (beNat (slice (mBody m) 4 16)) = false := hnonce
      have hone : (m.path == 1 && (c.sessionOf 0).isSome) = false := by
        by_cases h1 : m.path = 1
        · have h0 : c.sessionOf 0 = none := hboot h1
          rw [h0, Bool.and_comm]
          rfl
        · simp [h1]
      show (takeOpen m c).2 = _
      unfold takeOpen
      dsimp only
      rw [if_neg (by rw [hkeys']; decide), if_neg (by rw [hmac']; simp; omega), if_neg (by rw [htime]; decide), if_neg (by rw [hnonce', hone]; decide), hfree']
    obtain ⟨hfind, hnonces, hsent⟩ := openWith_reads hframes m n hpath
    obtain ⟨-, -, hsessions, hnonces'⟩ := ended_atReceipt (fun c => (takeMessage m c).2) b s.pending
    refine ⟨?_, ?_, Sent.ended (htake ▸ hsent) _⟩
    · rw [hsessions, htake]
      exact hfind
    · rw [hnonces', htake]
      exact hnonces
  · refine gives_typed hb (execCloseSession.eq_def ..) hm htaken htype ?_
    obtain ⟨hsent, hfind⟩ := sessionAnswered_reads (m := m) (type := 0x84) hframes (by rw [htype]) hsid hpath
    have htake : (takeMessage m (Received b)).2 = closeSession 1 (mSid m) (sessionAnswered m e c) := by
      rw [takeMessage_session htaken (by omega) hses, serve, htype]
      rfl
    obtain ⟨hout, hqueue, hsessions⟩ := closeSession_reads hfind 1
    refine ⟨?_, Sent.ended (htake ▸ hsent.then hout hqueue) _⟩
    rw [(ended_atReceipt _ _ _).2.2.1, htake, hsessions]
    exact find_filter_same _ _
  · refine gives_typed hb (execReadObjects.eq_def ..) hm htaken htype ?_
    rw [hthen]
    refine congrArg (fun u : State => u.ended s.pending) (atReceipt_congr ?_)
    have htake := takeMessage_session htaken (by omega) hses
    rw [serve, htype] at htake
    exact htake
  · refine gives_typed hb (execReadObjects.eq_def ..) hm htaken htype ?_
    rw [hthen]
    refine congrArg (fun u : State => u.ended s.pending) (atReceipt_congr ?_)
    have hempty' : keysLoaded (Received b) = false := hempty
    rw [takeMessage_request htaken (by omega), if_neg (by rw [hempty']; decide), if_pos hpath, serve, htype]
    rfl
  · refine gives_typed hb (execWriteObjects.eq_def ..) hm htaken htype ?_
    rw [hthen]
    refine congrArg (fun u : State => u.ended s.pending) (atReceipt_congr ?_)
    have htake := takeMessage_session htaken (by omega) hses
    rw [serve, htype] at htake
    exact htake
  · refine gives_typed hb (execKeepalive.eq_def ..) hm htaken htype ?_
    obtain ⟨hsent, hfind⟩ := sessionAnswered_reads (m := m) (type := 0x87) hframes (by rw [htype]) hsid hpath
    have htake : (takeMessage m (Received b)).2 = sessionAnswered m e c := by
      rw [takeMessage_session htaken (by omega) hses, serve, htype]
      rfl
    refine ⟨?_, Sent.ended (htake ▸ hsent) _⟩
    rw [(ended_atReceipt _ _ _).2.2.1, htake]
    exact hfind
  · refine gives_of_run hb (execSourceBlockEnd.eq_def ..) (decide_eq_true ha) ?_
    simp
  · refine gives_of_run hb (execSessionIdleTimeout.eq_def ..) (decide_eq_true hn) ?_
    rw [hfind]
    dsimp only
    rw [if_pos hidle]
    have hsessions := (closeSession_reads hfind 2).2.2
    generalize closeSession 2 n b = u at hsessions ⊢
    have hend : (u.ended s.pending).net.sessions = u.net.sessions := by simp
    rw [hend, hsessions]
    exact ⟨find_filter_same n _, fun k hk => find_filter_other hk _⟩
  · refine gives_of_run hb (execBootSend.eq_def ..) (by simp only [Instr.wf, hm, decide_eq_true hn, Bool.and_self]) ?_
    have hbusy' : bootBusy (b.emit 6 0 [bootByte b]) = false := hbusy
    dsimp only
    rw [if_neg (Nat.not_lt.mpr hstage), if_neg (by rw [hbusy']; simpa using hlen)]
    rfl
  · refine gives_of_run hb (execBootSend.eq_def ..) (by simp only [Instr.wf, hm, decide_eq_true hn, Bool.and_self]) ?_
    have hbusy' : bootBusy (b.emit 6 0 [bootByte b]) = bootBusy b := rfl
    dsimp only
    rw [if_neg (Nat.not_lt.mpr hstage), if_pos (by rw [hbusy']; simpa using hbusy)]
    simp [State.emit]
  · refine gives_of_run hb (execBootSend.eq_def ..) (by simp only [Instr.wf, hm, decide_eq_true hn, Bool.and_self]) ?_
    rw [if_pos hstage]
    simp
  · refine gives_of_run hb (execBootFetch.eq_def ..) rfl ?_
    rw [if_neg (Nat.not_lt.mpr hstage)]
    cases hq : b.net.bootQueue with
    | nil => simp [State.emit, hq]
    | cons d l => simp [State.emit]
  · refine gives_of_run hb (execBootStatus.eq_def ..) rfl ?_
    rw [if_neg (Nat.not_lt.mpr hstage)]
    simp [State.emit]
end Sys2Proof
end

section
/-!
SUPPORT. The configuration set (R428 to R432): a reader's writes, values staged, the end of a commit's checks, the clauses of O49 and the theorem that settles it.
-/
namespace Sys2Proof
open Sys2Proof.Machine

/-! ### Writes of a reader (R423, R428) -/

/-- A write by a reader acts, and its status goes out. -/
theorem writeBy_taken {r : Nat} {w : Sender} {b : State} (hok : hostOk b = true) (hw : senderOf b r = some w) (f : Sender → State → Nat × State) :
    writeBy r f b = (f w b).2.emit 20 r [(f w b).1] := by
  unfold writeBy
  rw [if_neg (by rw [hok]; decide), hw]

/-- What a reader's write leaves at the end of its command. -/
theorem ended_writeBy {r : Nat} {w : Sender} {b : State} (hok : hostOk b = true) (hw : senderOf b r = some w) (f : Sender → State → Nat × State) (q : List Instr) :
    let u := (writeBy r f b).ended q
    u.out = (f w b).2.out ++ [⟨20, r, [(f w b).1]⟩] ∧ u.net.openSet = (f w b).2.net.openSet := by
  rw [writeBy_taken hok hw]
  simp [State.emit]

theorem setCommandBy_refused {w : Sender} (h : accessStatus w 0x105001 ≠ 0) (f : Sender → State → Nat × State) (b : State) :
    setCommandBy f w b = (accessStatus w 0x105001, b) := if_pos h

theorem setCommandBy_taken {w : Sender} (h : ¬ accessStatus w 0x105001 ≠ 0) (f : Sender → State → Nat × State) (b : State) :
    setCommandBy f w b = f w b := if_neg h

/-- A set that its owner may change is open. -/
theorem openSet_of_taken {w : Sender} {b : State} (h : ¬ setRefusal w b ≠ 0) : ∃ o, b.net.openSet = some o := by
  unfold setRefusal at h
  split at h
  · exact absurd (by decide) h
  · rename_i o ho
    exact ⟨o, ho⟩

/-- A set dropped is no longer open, and nothing is sent. -/
theorem abortOpenSet_reads (way : Nat) (s : State) : (abortOpenSet way s).out = s.out ∧ (abortOpenSet way s).net.openSet = none := by
  unfold abortOpenSet
  split
  · rename_i h
    exact ⟨rfl, h⟩
  · simp

/-! ### Configuration values staged (R429) -/

theorem rowOf_of_kind {k : Nat} (h : kindOf k = .cfg) {o : ObjRow} (ho : rowOf k = some o) : o.kind = .cfg := by
  rw [kindOf, ho] at h
  exact h

/-- The checks before a configuration value is staged. -/
theorem writeObj_refused {w : Sender} {k : Nat} {l : List Nat} {o : ObjRow} (ho : rowOf k = some o) (h : accessStatus w k ≠ 0) (b : State) :
    writeObj w k l b = (accessStatus w k, b) := by
  unfold writeObj
  rw [ho]
  exact if_pos h

theorem writeObj_badSize {w : Sender} {k : Nat} {l : List Nat} {o : ObjRow} (ho : rowOf k = some o) (h : accessStatus w k = 0)
    (hsize : badSize (k / 256) (k % 256) o l = true) (b : State) : writeObj w k l b = (0x13, b) := by
  unfold writeObj
  rw [ho]
  exact (if_neg (fun hne => hne h)).trans (if_pos hsize)

theorem writeObj_checked {w : Sender} {k : Nat} {l : List Nat} {o : ObjRow} (ho : rowOf k = some o) (h : accessStatus w k = 0)
    (hsize : badSize (k / 256) (k % 256) o l = false) (b : State) : writeObj w k l b = writeChecked w k o l b := by
  unfold writeObj
  rw [ho]
  exact (if_neg (fun hne => hne h)).trans (if_neg (by rw [hsize]; decide))

theorem writeObj_staged {w : Sender} {k : Nat} {l : List Nat} {o : ObjRow} (ho : rowOf k = some o) (hkind : o.kind = .cfg) (h : accessStatus w k = 0)
    (hsize : badSize (k / 256) (k % 256) o l = false) (b : State) : writeObj w k l b = stage w k (if o.size = 0 then .blob l else .num (beNat l)) b := by
  rw [writeObj_checked ho h hsize]
  unfold writeChecked
  rw [hkind]

theorem stage_refused {w : Sender} {b : State} (h : setRefusal w b ≠ 0) (k : Nat) (v : Val) : stage w k v b = (setRefusal w b, b) := by
  unfold stage
  dsimp only
  split
  · rfl
  · exact if_pos h

/-- The bytes that a set's staged values take with one more. -/
def bytesWith (q : OpenSet) (k : Nat) (v : Val) : Nat :=
  q.bytes - (match Store.find k q.staged with | some u => valBytes k u | none => 0) + valBytes k v

theorem stage_taken {w : Sender} {b : State} {q : OpenSet} (h : ¬ setRefusal w b ≠ 0) (hq : b.net.openSet = some q) (k : Nat) (v : Val) :
    stage w k v b = if stageMax < bytesWith q k v then (0x19, b)
      else (0, b.modSet (fun o => { o with staged := Store.put noVal k v o.staged, bytes := bytesWith q k v, last := b.now })) := by
  unfold stage
  rw [hq]
  exact if_neg h

/-- A write of a configuration object changes no object. -/
theorem writeObj_objects {w : Sender} {k : Nat} {l : List Nat} {o : ObjRow} (ho : rowOf k = some o) (hkind : o.kind = .cfg) (b : State) :
    (writeObj w k l b).2.od = b.od := by
  by_cases h : accessStatus w k = 0
  · cases hsize : badSize (k / 256) (k % 256) o l with
    | true => rw [writeObj_badSize ho h hsize]
    | false =>
      rw [writeObj_staged ho hkind h hsize]
      by_cases hset : setRefusal w b ≠ 0
      · rw [stage_refused hset]
      · obtain ⟨q, hq⟩ := openSet_of_taken hset
        rw [stage_taken hset hq]
        generalize (if o.size = 0 then Val.blob l else Val.num (beNat l)) = v
        split <;> rfl
  · rw [writeObj_refused ho h]

/-! ### The completion of a commit (R430 to R432) -/

/-- Messages that leave do not touch the open set. -/
theorem sendSot_openSet (s : State) (kind dest : Nat) (boot : Bool) (m : List Nat) : (s.sendSot kind dest boot m).net.openSet = s.net.openSet := by
  have hframe : ∀ (v : State) n, (v.frameOut n).net.openSet = v.net.openSet := fun v n => by
    unfold State.frameOut
    extract_lets _q v w
    refine (forN_keep (fun u => u.net.openSet) 2 _ (fun p u _ => ?_) w).trans rfl
    split
    · exact (countEvent_same p 0x13 1 0 (takeLineTime p n u)).netFields.2.1
    · rfl
  unfold State.sendSot
  split
  · rfl
  · split
    · exact hframe _ _
    · rfl

theorem replyCommit_openSet (st : Nat) (o : OpenSet) (s : State) : (replyCommit st o s).net.openSet = s.net.openSet := by
  unfold replyCommit
  split
  · rfl
  · dsimp only
    split
    · rfl
    · split
      · exact sendSot_openSet ..
      · unfold State.sendSession
        split
        · rfl
        · exact sendSot_openSet ..

theorem closeRoles_openSet (c : Cand) {s : State} (h : s.net.openSet = none) : (closeRoles c s).net.openSet = none := by
  have hone : ∀ (sid : Nat) {v : State}, v.net.openSet = none → (closeSession 3 sid v).net.openSet = none := fun sid v hv => by
    unfold closeSession
    split
    · exact hv
    · rename_i e _
      extract_lets _q x y drop z u
      have hz : z.net = y.net := dropStreams_net drop y
      have hu : u = z := if_neg (by rw [hz]; show ¬ Option.any _ v.net.openSet = true; rw [hv]; exact Bool.false_ne_true)
      rw [hu]
      exact (raise_same 227 sid 3 0 z).netFields.2.1.trans (by rw [hz]; exact hv)
  unfold closeRoles
  generalize List.filter _ _ = l
  induction l generalizing s with
  | nil => exact h
  | cons e l ih => exact ih (hone e.1 h)

theorem sizeOf_setRecord : sizeOf 0x1050 3 = 4 ∧ sizeOf 0x1050 4 = 12 ∧ sizeOf 0x1050 6 = 4 := by decide

/-- A reply to a reader's row is sent whatever follows of the commit. -/
theorem replyCommit_row {st r : Nat} {o : OpenSet} {y : Reply} (ho : o.reply = some y) (hy : y.row = some r) (s : State) :
    (replyCommit st o s).out = s.out ++ [⟨20, r, [st]⟩] := by
  unfold replyCommit
  rw [ho]
  dsimp only
  rw [hy]
  rfl

/-- The record of a set that has taken effect (R431): its identifier, the ridge time and OK. -/
def setDone (id : Nat) (s : State) : State :=
  let s := { s with net := { s.net with openSet := none } }
  (((s.setNum 0x1050 3 id).setNum 0x1050 4 (toT96 s.ridge)).setBlob 0x1050 5 ("OK".toList.map Char.toNat)).setNum 0x1050 6 0

theorem setDone_reads (id : Nat) (s : State) : (setDone id s).net.openSet = none ∧ (setDone id s).num 0x1050 3 = id % 2 ^ 32 ∧
    (setDone id s).num 0x1050 4 = toT96 (setDone id s).ridge % 2 ^ 96 ∧ (setDone id s).blob 0x1050 5 = ("OK".toList.map Char.toNat) ∧ (setDone id s).num 0x1050 6 = 0 := by
  obtain ⟨h3, h4, h6⟩ := sizeOf_setRecord
  have hridge : (setDone id s).ridge = s.ridge := rfl
  rw [hridge]
  unfold setDone
  refine ⟨rfl, ?_, ?_, ?_, ?_⟩
  · rw [num_setNum_far _ _ _ _ _ _ (by decide), num_setBlob_far _ _ _ _ _ _ (by decide), num_setNum_far _ _ _ _ _ _ (by decide), num_setNum_same, h3]
  · rw [num_setNum_far _ _ _ _ _ _ (by decide), num_setBlob_far _ _ _ _ _ _ (by decide), num_setNum_same, h4]
  · rw [blob_setNum_far _ _ _ _ _ _ (by decide), State.blob_setBlob, if_pos rfl]
  · exact num_setNum_fits _ (by rw [h6]; decide)

/-- What a set leaves where it takes effect (R431). -/
theorem takeSetEffect_reads (q : OpenSet) (c : Cand) (s : State) : let u := takeSetEffect q c s
    u.net.openSet = none ∧ u.num 0x1050 3 = q.id % 2 ^ 32 ∧ u.num 0x1050 4 = toT96 u.ridge % 2 ^ 96 ∧ u.blob 0x1050 5 = ("OK".toList.map Char.toNat) ∧
      u.num 0x1050 6 = 0 ∧ ∀ y r, q.reply = some y → y.row = some r → ⟨20, r, [0]⟩ ∈ u.out := by
  have hset : takeSetEffect q c s =
    closeRoles c (replyCommit 0 q (((setDone q.id (effects c (applyStaged q.staged s))).raise 229 q.id).fwNote 0x0103 q.id)) := rfl
  rw [hset]
  generalize effects c (applyStaged q.staged s) = v
  obtain ⟨hopen, hid, htime, hok, hobj⟩ := setDone_reads q.id v
  generalize setDone q.id v = w at hopen hid htime hok hobj ⊢
  have hevents := (raise_same 229 q.id 0 0 w).trans (fwNote_same 0x0103 q.id 0 0 (w.raise 229 q.id))
  generalize (w.raise 229 q.id).fwNote 0x0103 q.id = x at hevents ⊢
  have hreply : Own [.net, .out, .capture] [] x (replyCommit 0 q x) := Own.replyCommit (by decide) (by decide) (Own.same x)
  have hclose : Own [.net, .capture] [] (replyCommit 0 q x) (closeRoles c (replyCommit 0 q x)) := Own.closeRoles (by decide) (by decide) (Own.same _)
  have hall : Own [.net, .out, .capture] [] x (closeRoles c (replyCommit 0 q x)) := Own.closeRoles (by decide) (by decide) hreply
  have hridge : (closeRoles c (replyCommit 0 q x)).ridge = w.ridge := (hall.time (by decide)).trans hevents.ridge
  refine ⟨closeRoles_openSet c ?_, ?_, ?_, ?_, ?_, fun y r hy hr => ?_⟩
  · rw [replyCommit_openSet, hevents.netFields.2.1, hopen]
  · rw [hall.numKept 0x1050 3 rfl rfl, hevents.num 0x1050 3 rfl, hid]
  · rw [hall.numKept 0x1050 4 rfl rfl, hevents.num 0x1050 4 rfl, htime, hridge]
  · rw [hall.blobKept 0x1050 5 rfl rfl, hevents.blob 0x1050 5 rfl, hok]
  · rw [hall.numKept 0x1050 6 rfl rfl, hevents.num 0x1050 6 rfl, hobj]
  · rw [hclose.out (by decide), replyCommit_row hy hr]
    simp

/-- The record of a set that is rejected (R432): it stays open, and the check that failed is told. -/
def setRejected (name : String) (k : Nat) (s : State) : State :=
  ((s.modSet (fun q => { q with checking := false, reply := none })).setBlob 0x1050 5 (name.toList.map Char.toNat)).setNum 0x1050 6 (k * 256)

theorem setRejected_reads {q : OpenSet} {s : State} (hq : s.net.openSet = some q) (n : String) (k : Nat) : let u := setRejected n k s
    u.net.openSet = some { q with checking := false, reply := none } ∧ u.blob 0x1050 5 = (n.toList.map Char.toNat) ∧ u.num 0x1050 6 = k * 256 % 2 ^ 32 := by
  unfold setRejected
  refine ⟨?_, ?_, ?_⟩
  · show Option.map _ s.net.openSet = _
    rw [hq]
    rfl
  · rw [blob_setNum_far _ _ _ _ _ _ (by decide), State.blob_setBlob, if_pos rfl]
  · rw [num_setNum_same, sizeOf_setRecord.2.2]

/-- What a rejected set leaves (R432). -/
theorem rejectSet_reads {q : OpenSet} {s : State} (hq : s.net.openSet = some q) (n : String) (k : Nat) : let u := rejectSet q n k s
    u.net.openSet = some { q with checking := false, reply := none } ∧ u.blob 0x1050 5 = (n.toList.map Char.toNat) ∧ u.num 0x1050 6 = k * 256 % 2 ^ 32 ∧
      ∀ y r, q.reply = some y → y.row = some r → ⟨20, r, [0x17]⟩ ∈ u.out := by
  have hset : rejectSet q n k s = replyCommit 0x17 q ((setRejected n k s).raise 230 q.id (k * 256)) := rfl
  rw [hset]
  obtain ⟨hopen, hname, hobj⟩ := setRejected_reads hq n k
  generalize setRejected n k s = w at hopen hname hobj ⊢
  have hraise := raise_same 230 q.id (k * 256) 0 w
  generalize w.raise 230 q.id (k * 256) = x at hraise ⊢
  have hlast : Own [.net, .out] [] x (replyCommit 0x17 q x) := Own.replyCommit (by decide) (by decide) (Own.same x)
  refine ⟨?_, ?_, ?_, fun y r hy hr => ?_⟩
  · rw [replyCommit_openSet, hraise.netFields.2.1, hopen]
  · rw [hlast.blobKept 0x1050 5 rfl rfl, hraise.blob 0x1050 5 rfl, hname]
  · rw [hlast.numKept 0x1050 6 rfl rfl, hraise.num 0x1050 6 rfl, hobj]
  · rw [replyCommit_row hy hr]
    simp

theorem completeCommit_accepted {q : OpenSet} {s : State} (hq : s.net.openSet = some q) (hcheck : q.checking = true)
    (h : setFailure (candOf q.staged s) = none) : completeCommit s = takeSetEffect q (candOf q.staged s) s := by
  unfold completeCommit
  rw [hq]
  dsimp only
  rw [if_neg (by rw [hcheck]; decide), h]

theorem completeCommit_rejected {q : OpenSet} {n : String} {k : Nat} {s : State} (hq : s.net.openSet = some q) (hcheck : q.checking = true)
    (h : setFailure (candOf q.staged s) = some (n, k)) : completeCommit s = rejectSet q n k s := by
  unfold completeCommit
  rw [hq]
  dsimp only
  rw [if_neg (by rw [hcheck]; decide), h]

/-! ### The theorem -/

/-- Settles O49: a reader's write is answered with its status, and the open set is what each command makes of it. -/
theorem setsComplete : Obligations.SetsComplete := by
  intro s t b
  have hb : s.arrive t = b := rfl
  clear_value b
  have hend : ∀ u : State, (u.ended s.pending).out = u.out ∧ (u.ended s.pending).net.openSet = u.net.openSet ∧ (u.ended s.pending).ridge = u.ridge :=
    fun u => by simp
  refine ⟨fun r n w hr hn hok hw => ?_, fun r w hr hok hw => ?_, fun r w hr hok hw => ?_, fun q hq hcheck hgood => ?_,
    fun q n k hq hcheck hbad => ?_, fun q y r hq hcheck hy hrow => ?_, fun q hq hcheck => ?_,
    fun r k l w o q hr hk hl hkind hok hw ho haccess hsize hset hq => ?_, fun r k l w o hr hk hl hkind hok hw ho => ?_⟩
  · refine gives_of_run hb (execBeginSet.eq_def ..) (by simp only [Instr.wf, decide_eq_true hr, decide_eq_true hn, Bool.and_self]) ?_
    obtain ⟨hout, hopen⟩ := ended_writeBy hok hw (setCommandBy (fun w s => beginSet w n s)) s.pending
    rw [hout, hopen]
    by_cases haccess : accessStatus w 0x105001 ≠ 0
    · rw [if_pos haccess, setCommandBy_refused haccess]
      exact ⟨rfl, rfl⟩
    · rw [if_neg haccess, setCommandBy_taken haccess]
      unfold beginSet
      cases hq : b.net.openSet with
      | none => rw [if_pos rfl]; exact ⟨rfl, rfl⟩
      | some q => rw [if_neg (by simp)]; exact ⟨rfl, hq⟩
  · refine gives_of_run hb (execCommitSet.eq_def ..) (decide_eq_true hr) ?_
    rw [(hend _).1, (hend _).2.1]
    have hcommit : commitBy r b = if (setCommandBy commitSet w b).1 = 0 then
        (setCommandBy commitSet w b).2.modSet (fun o => { o with reply := some ⟨w.owner, 0, [], 0, 0, some r⟩ })
        else (setCommandBy commitSet w b).2.emit 20 r [(setCommandBy commitSet w b).1] := by
      unfold commitBy
      rw [if_neg (by rw [hok]; decide), hw]
    rw [hcommit]
    by_cases haccess : accessStatus w 0x105001 ≠ 0
    · rw [if_pos haccess, setCommandBy_refused haccess, if_neg haccess]
      exact ⟨rfl, rfl⟩
    · rw [if_neg haccess, setCommandBy_taken haccess]
      unfold commitSet
      by_cases hset : setRefusal w b ≠ 0
      · rw [if_pos hset, if_pos hset, if_neg hset]
        exact ⟨rfl, rfl⟩
      · rw [if_neg hset, if_neg hset, if_pos rfl]
        refine ⟨rfl, ?_⟩
        show Option.map _ (Option.map _ b.net.openSet) = _
        rw [Option.map_map]
        rfl
  · refine gives_of_run hb (execAbortSet.eq_def ..) (decide_eq_true hr) ?_
    obtain ⟨hout, hopen⟩ := ended_writeBy hok hw (setCommandBy abortSet) s.pending
    rw [hout, hopen]
    by_cases haccess : accessStatus w 0x105001 ≠ 0
    · rw [if_pos haccess, setCommandBy_refused haccess]
      exact ⟨rfl, rfl⟩
    · rw [if_neg haccess, setCommandBy_taken haccess]
      unfold abortSet
      by_cases hset : setRefusal w b ≠ 0
      · rw [if_pos hset, if_pos hset]
        exact ⟨rfl, rfl⟩
      · rw [if_neg hset, if_neg hset]
        obtain ⟨hsent, hnone⟩ := abortOpenSet_reads 1 b
        exact ⟨congrArg (· ++ [⟨20, r, [0]⟩]) hsent, hnone⟩
  · refine gives_of_run hb (execCommitComplete.eq_def ..) rfl ?_
    rw [completeCommit_accepted hq hcheck hgood]
    obtain ⟨hopen, hid, htime, hok, hobj, -⟩ := takeSetEffect_reads q (candOf q.staged b) b
    generalize takeSetEffect q (candOf q.staged b) b = u at hopen hid htime hok hobj ⊢
    rw [(hend u).2.1, (hend u).2.2, num_ended _ _ _ _ rfl, num_ended _ _ _ _ rfl, num_ended _ _ _ _ rfl, blob_ended _ _ _ _ rfl]
    exact ⟨hopen, hid, htime, hok, hobj⟩
  · refine gives_of_run hb (execCommitComplete.eq_def ..) rfl ?_
    rw [completeCommit_rejected hq hcheck hbad]
    obtain ⟨hopen, hname, hobj, -⟩ := rejectSet_reads hq n k
    generalize rejectSet q n k b = u at hopen hname hobj ⊢
    rw [(hend u).2.1, num_ended _ _ _ _ rfl, blob_ended _ _ _ _ rfl]
    exact ⟨hopen, hname, hobj⟩
  · refine gives_of_run hb (execCommitComplete.eq_def ..) rfl ?_
    rw [(hend _).1]
    cases hfail : setFailure (candOf q.staged b) with
    | none =>
      rw [if_pos rfl, completeCommit_accepted hq hcheck hfail]
      exact (takeSetEffect_reads q (candOf q.staged b) b).2.2.2.2.2 y r hy hrow
    | some f =>
      rw [if_neg (by simp), completeCommit_rejected hq hcheck hfail]
      exact (rejectSet_reads hq f.1 f.2).2.2.2 y r hy hrow
  · refine gives_of_run hb (execSetIdleTimeout.eq_def ..) rfl ?_
    rw [(hend _).2.1]
    rw [hq]
    dsimp only
    by_cases hidle : q.last + secFs (b.num 0x1050 8) ≤ b.now
    · rw [if_pos (by rw [hcheck, decide_eq_true hidle]; rfl), if_pos hidle]
      exact (abortOpenSet_reads 3 b).2
    · rw [if_neg (by rw [hcheck, decide_eq_false hidle]; decide), if_neg hidle, hq]
  · intro v n
    refine gives_of_run hb (execConfigObjectWrite.eq_def ..) (by simp only [Instr.wf, hl, decide_eq_true hr, decide_eq_true hk, Bool.and_self]) ?_
    rw [if_pos hkind]
    obtain ⟨hout, hopen⟩ := ended_writeBy hok hw (fun w s => writeObj w k l s) s.pending
    have hn : n = bytesWith q k v := rfl
    rw [hout, hopen, writeObj_staged ho (rowOf_of_kind hkind ho) haccess hsize, stage_taken (fun hne => hne hset) hq, ← hn]
    by_cases hmax : stageMax < n
    · rw [if_pos hmax, if_pos hmax]
      exact ⟨rfl, rfl⟩
    · rw [if_neg hmax, if_neg hmax]
      refine ⟨rfl, ?_⟩
      show Option.map _ b.net.openSet = _
      rw [hq]
      rfl
  · refine gives_of_run hb (execConfigObjectWrite.eq_def ..) (by simp only [Instr.wf, hl, decide_eq_true hr, decide_eq_true hk, Bool.and_self]) ?_
    rw [if_pos hkind]
    obtain ⟨hout, hopen⟩ := ended_writeBy hok hw (fun w s => writeObj w k l s) s.pending
    have hobjects : (writeBy r (fun w s => writeObj w k l s) b).od = b.od := by
      rw [writeBy_taken hok hw]
      exact writeObj_objects ho (rowOf_of_kind hkind ho) b
    rw [hout, hopen]
    refine ⟨fun i j he => ⟨?_, ?_⟩, fun haccess => ?_, fun haccess hsize => ?_, fun haccess hsize hset => ?_⟩
    · rw [num_ended _ _ _ _ he, num_of_od hobjects]
    · rw [blob_ended _ _ _ _ he]
      simp only [State.blob, State.val, hobjects]
    · rw [writeObj_refused ho haccess]
      exact ⟨rfl, rfl⟩
    · rw [writeObj_badSize ho haccess hsize]
      exact ⟨rfl, rfl⟩
    · rw [writeObj_staged ho (rowOf_of_kind hkind ho) haccess hsize, stage_refused hset]
      exact ⟨rfl, rfl⟩
end Sys2Proof
end

section
/-!
SUPPORT. Objects outside configuration, what ends and what is told (R423 to R427, R446, R448): one rule for each kind of write, writes in progress and snapshots that end, notification, the clauses of O50 and the theorem that settles it.
-/
namespace Sys2Proof
open Sys2Proof.Machine

/-! ### Writes of objects outside configuration (R423, R424, R479) -/

theorem writeObj_access {w : Sender} {k : Nat} {l : List Nat} (h : accessStatus w k ≠ 0) (b : State) : writeObj w k l b = (accessStatus w k, b) := by
  cases ho : rowOf k with
  | none =>
    have hnone : accessStatus w k = 0x10 := by
      unfold accessStatus
      rw [ho]
    unfold writeObj
    rw [ho, hnone]
  | some o => exact writeObj_refused ho h b

/-- A reader's own object takes the bits that may be written. -/
theorem writeObj_per {w : Sender} {k : Nat} {l : List Nat} {o : ObjRow} (ho : rowOf k = some o) (hkind : o.kind = .per) (h : accessStatus w k = 0)
    (hsize : badSize (k / 256) (k % 256) o l = false) (hk : k ≠ 0x802001) (b : State) :
    (writeObj w k l b).1 = 0 ∧ (writeObj w k l b).2.out = b.out ∧ ((writeObj w k l b).2.reader w.reader).val (k / 256) (k % 256) = beNat l &&& o.rw := by
  rw [writeObj_checked ho h hsize]
  unfold writeChecked
  rw [hkind]
  dsimp only
  unfold perWrite
  rw [if_neg (by simp; omega)]
  refine ⟨rfl, rfl, ?_⟩
  dsimp only
  rw [State.reader, State.setReader, get_put_same]
  split <;> exact val_setVal_same _ _ _ _

theorem clearMask_zero (n : Nat) : clearMask n 0 = n := by simp [clearMask]

/-- The row of SetIdleTimeout (R432). -/
theorem row_setIdle : ∃ o, rowOf 0x105008 = some o ∧ o.kind = .imm ∧ o.size = 2 ∧ o.rw = 0xFFFF ∧ o.w1c = 0 := by
  refine ⟨(rowOf 0x105008).get (by decide), ?_⟩
  decide

/-- Of a number of 16 bits that may all be written, a write leaves what it wrote. -/
theorem written_whole (old : Nat) {v : Nat} (hv : v < 2 ^ 16) : (clearMask old 0xFFFF ||| (v &&& 0xFFFF)) % 2 ^ 16 = v := by
  have hand : ∀ n : Nat, n &&& 0xFFFF = n % 2 ^ 16 := fun n => Nat.and_two_pow_sub_one_eq_mod n 16
  have hclear : clearMask old 0xFFFF % 2 ^ 16 = 0 := by
    rw [clearMask, hand]
    omega
  rw [Nat.or_mod_two_pow, hclear, hand, Nat.zero_or, Nat.mod_mod, Nat.mod_eq_of_lt hv]

theorem beNat_two {l : List Nat} (h : l.length = 2) : beNat l < 2 ^ 16 := by
  match l, h with
  | [x, y], _ =>
    simp only [beNat, List.foldl]
    omega

/-- A write of SetIdleTimeout out of its range is refused; one within it is taken. -/
theorem writeObj_setIdle {w : Sender} {l : List Nat} (hlen : l.length = 2) (h : accessStatus w 0x105008 = 0) (b : State) :
    if beNat l < 10 ∨ 3600 < beNat l then writeObj w 0x105008 l b = (0x1A, b)
    else (writeObj w 0x105008 l b).1 = 0 ∧ (writeObj w 0x105008 l b).2.out = b.out ∧ (writeObj w 0x105008 l b).2.num 0x1050 8 = beNat l := by
  obtain ⟨o, ho, hkind, hsize, hrw, hw1c⟩ := row_setIdle
  have hbad : badSize (0x105008 / 256) (0x105008 % 256) o l = false := by simp [badSize, hsize, hlen, isBool, inR]
  have hchecked : writeObj w 0x105008 l b = if immOutside b 0x1050 8 (beNat l) l then (0x1A, immRefused 0x1050 8 (beNat l) l b)
      else (0, immWrite 0x1050 8 (beNat l) l o b) := by
    rw [writeObj_checked ho h hbad]
    unfold writeChecked
    rw [hkind]
  have hrange : immOutside b 0x1050 8 (beNat l) l = true ↔ beNat l < 10 ∨ 3600 < beNat l := by simp [immOutside]
  rw [hchecked]
  by_cases hout : beNat l < 10 ∨ 3600 < beNat l
  · rw [if_pos hout, if_pos (hrange.mpr hout)]
    rfl
  · rw [if_neg hout, if_neg (fun hne => hout (hrange.mp hne))]
    refine ⟨rfl, rfl, ?_⟩
    have himm : immWrite 0x1050 8 (beNat l) l o b = clearFlags 0x1050 8 (beNat l) o.w1c (b.setNum 0x1050 8 (clearMask (b.num 0x1050 8) o.rw ||| (beNat l &&& o.rw))) := rfl
    have hbytes : sizeOf 0x1050 8 = 2 := by decide
    show (immWrite 0x1050 8 (beNat l) l o b).num 0x1050 8 = _
    rw [himm, clearFlags, hw1c, hrw, Nat.and_zero]
    have hnone : ∀ f, clearMask 0 f = 0 := fun f => Nat.zero_sub _
    rw [hnone, clearMask_zero, num_setNum_same, num_setNum_same, hbytes, written_whole _ (beNat_two hlen), Nat.mod_eq_of_lt (beNat_two hlen)]

/-! ### Writes in progress and snapshots that end (R426, R427) -/

theorem putSeg_reads (r k : Nat) (s : State) : ((putSeg r k none s).reader r).writes = (s.reader r).writes.filter (fun e => e.1 != k) := by
  show (State.reader (s.setReader r _) r).writes = _
  rw [State.reader, State.setReader, get_put_same]

theorem putSnap_reads (r k : Nat) (s : State) : ((putSnap r k none s).reader r).snaps = (s.reader r).snaps.filter (fun e => e.1 != k) := by
  show (State.reader (s.setReader r _) r).snaps = _
  rw [State.reader, State.setReader, get_put_same]

theorem segOf_of {s u : State} {r k : Nat} (hnow : u.now = s.now) (h : Store.find k (u.reader r).writes = Store.find k (s.reader r).writes) : segOf u r k = segOf s r k := by
  simp only [segOf, h, hnow]

/-! ### Notification (R448) -/

/-- Where no trigger was missed and no counter overflowed, the end of a command leaves communication alone. -/
theorem ended_quiet_net {s : State} (hmissed : s.capture.missed = []) (hovf : s.scribe.ovf = []) (q : List Instr) : (s.ended q).net = s.net := by
  have h : s.reportLate = { s with capture := { s.capture with missed := [] }, scribe := { s.scribe with ovf := [] } } := by
    unfold State.reportLate
    rw [hmissed, hovf]
    rfl
  have hnet : s.reportLate.net = s.net := by rw [h]
  exact hnet

/-- With no counter running, a message that leaves counts nothing. -/
theorem sendSot_quiet {s : State} (h : s.scribe.running = []) (kind dest : Nat) (boot : Bool) (m : List Nat) :
    (s.sendSot kind dest boot m).scribe = s.scribe ∧ (s.sendSot kind dest boot m).capture = s.capture := by
  have hframe : ∀ {v : State} (n : Nat), v.scribe.running = [] → (v.frameOut n).scribe = v.scribe ∧ (v.frameOut n).capture = v.capture := fun {v} n hv => by
    have hone : ∀ (p : Nat) {u : State}, u.scribe.running = [] → let w := if portServed u p then countEvent p 0x13 1 0 (takeLineTime p n u) else u
        w.scribe = u.scribe ∧ w.capture = u.capture := fun p {u} hu => by
      have hcount : countEvent p 0x13 1 0 (takeLineTime p n u) = takeLineTime p n u := countIf_none (s := takeLineTime p n u) hu ..
      dsimp only
      rw [hcount]
      split <;> exact ⟨rfl, rfl⟩
    unfold State.frameOut
    extract_lets _q x y
    have hfor : ∀ f : Nat → State → State, forN 2 f y = f 1 (f 0 y) := fun _ => rfl
    rw [hfor]
    obtain ⟨hs, hc⟩ := hone 0 (u := y) hv
    obtain ⟨hs', hc'⟩ := hone 1 (u := if portServed y 0 then countEvent 0 0x13 1 0 (takeLineTime 0 n y) else y) (by rw [hs]; exact hv)
    exact ⟨hs'.trans hs, hc'.trans hc⟩
  unfold State.sendSot
  split
  · exact ⟨rfl, rfl⟩
  · split
    · exact hframe (v := s.emit kind dest m) _ h
    · exact ⟨rfl, rfl⟩

theorem sendSession_quiet {s : State} (h : s.scribe.running = []) (kind type sid ref : Nat) (body : List Nat) :
    (s.sendSession kind type sid ref body).scribe = s.scribe ∧ (s.sendSession kind type sid ref body).capture = s.capture := by
  unfold State.sendSession
  split
  · exact ⟨rfl, rfl⟩
  · rename_i e _
    exact sendSot_quiet (s := { s with net := { s.net with sessions := Store.put Session.init sid { e with outSeq := e.outSeq + 1 } s.net.sessions } }) h ..

/-- Up to 40 entries go out in one message. -/
theorem chunks40_short {l : List Note} (hne : l ≠ []) (h : l.length ≤ 40) (n : Nat) : chunks40 (n + 2) l = [l] := by
  have hempty : l.isEmpty = false := by simpa using hne
  rw [chunks40, hempty, List.take_of_length_le h, List.drop_eq_nil_of_le h]
  rfl

/-! ### The theorem -/

/-- Settles O50: a reader's write is answered with its status, and what ends is dropped; the notes of a reader go out as one message. -/
theorem objectsComplete : Obligations.ObjectsComplete := by
  intro s t b
  have hb : s.arrive t = b := rfl
  clear_value b
  have hgives : ∀ {r k : Nat} {l : List Nat} {w : Sender} {P : State → State → Prop}, r < 18 → k < 2 ^ 24 → bytesOk l = true → kindOf k ≠ .cfg → k ≠ 0x105001 →
      hostOk b = true → senderOf b r = some w → P b ((((writeObj w k l b).2.emit 20 r [(writeObj w k l b).1])).ended s.pending) → Gives (.objectWrite t r k l) s P :=
    fun {r k l w P} hr hk hl hkind hset hok hw hP => by
      refine gives_of_run hb (execObjectWrite.eq_def ..) (by simp only [Instr.wf, hl, decide_eq_true hr, decide_eq_true hk, Bool.and_self]) ?_
      rw [if_neg (by simp [hkind, hset]), writeBy_taken hok hw]
      exact hP
  have hkindOf : ∀ {k : Nat} {o : ObjRow}, rowOf k = some o → kindOf k = o.kind := fun {k o} ho => by rw [kindOf, ho]
  have hend : ∀ (u : State) r st, ((u.emit 20 r [st]).ended s.pending).out = u.out ++ [⟨20, r, [st]⟩] ∧ ∀ i j, evKey (i * 256 + j) = false →
      ((u.emit 20 r [st]).ended s.pending).num i j = u.num i j ∧ ((u.emit 20 r [st]).ended s.pending).blob i j = u.blob i j := fun u r st =>
    ⟨by simp [State.emit], fun i j he => ⟨num_ended _ _ _ _ he, blob_ended _ _ _ _ he⟩⟩
  refine ⟨fun r k l w hr hk hl hkind hset hok hw => ?_, fun r k l w hr hk hl hkind hset hok hw haccess => ?_,
    fun r k l w o hr hk hl hset hok hw haccess ho hkind hsize => ?_, fun r k l w o hr hk hl hsel hok hw haccess ho hkind hsize => ?_,
    fun r l w hr hl hlen hok hw haccess => ?_, fun r k q hr hk hfind hold => ?_, fun r k q hr hk hfind hold => ?_,
    fun l hl hlen hok hovf hmissed => ?_, fun l hl hlen hok hovf hmissed => ?_,
    fun r n d e hr hok hhold hdue hsession hfind hpath hne hlen hrun hovf hmissed => ?_⟩
  · exact hgives hr hk hl hkind hset hok hw rfl
  · refine hgives hr hk hl hkind hset hok hw ?_
    rw [writeObj_access haccess]
    exact hend b r _
  · refine hgives hr hk hl (by rw [hkindOf ho]; exact hkind) hset hok hw ?_
    rw [writeObj_badSize ho haccess hsize]
    exact hend b r _
  · have hset : k ≠ 0x105001 := by
      rintro rfl
      have hcmd : kindOf 0x105001 = .cmd := by decide
      rw [hkindOf ho, hkind] at hcmd
      exact absurd hcmd (by decide)
    refine hgives hr hk hl (by rw [hkindOf ho, hkind]; decide) hset hok hw ?_
    obtain ⟨hstatus, hout, hval⟩ := writeObj_per ho hkind haccess hsize hsel b
    rw [hstatus, (hend _ _ _).1, ended_vals, hout]
    exact ⟨rfl, hval⟩
  · refine hgives hr (by decide) hl (by decide) (by decide) hok hw ?_
    have hwrite := writeObj_setIdle hlen haccess b
    obtain ⟨hout, hnum⟩ := hend (writeObj w 0x105008 l b).2 r (writeObj w 0x105008 l b).1
    rw [hout, (hnum 0x1050 8 rfl).1]
    by_cases hrange : beNat l < 10 ∨ 3600 < beNat l
    · rw [if_pos hrange] at hwrite ⊢
      rw [hwrite]
      exact ⟨rfl, rfl⟩
    · rw [if_neg hrange] at hwrite ⊢
      obtain ⟨hstatus, hkeep, hval⟩ := hwrite
      rw [hstatus, hkeep]
      exact ⟨rfl, hval⟩
  · refine gives_of_run hb (execSegmentedWriteTimeout.eq_def ..) (by simp only [Instr.wf, decide_eq_true hr, decide_eq_true hk, Bool.and_self]) ?_
    rw [hfind]
    dsimp only
    rw [if_pos hold]
    have hwrites : (((putSeg r k none b).ended s.pending).reader r).writes = (b.reader r).writes.filter (fun e => e.1 != k) :=
      (ended_readerFields _ _ r).2.2.2.2.trans (putSeg_reads r k b)
    have hnow : ((putSeg r k none b).ended s.pending).now = b.now := by
      have h : ((putSeg r k none b).ended s.pending).now = (putSeg r k none b).now := by simp
      exact h
    generalize (putSeg r k none b).ended s.pending = u at hwrites hnow ⊢
    have hnone : Store.find k (u.reader r).writes = none := by rw [hwrites]; exact find_filter_same k _
    refine ⟨?_, hnone, fun k' hk' => segOf_of hnow ?_⟩
    · rw [segOf, hnone]
      rfl
    · rw [hwrites]
      exact find_filter_other hk' _
  · refine gives_of_run hb (execSnapshotTimeout.eq_def ..) (by simp only [Instr.wf, decide_eq_true hr, decide_eq_true hk, Bool.and_self]) ?_
    rw [hfind]
    dsimp only
    rw [if_pos hold]
    have hsnaps : (((putSnap r k none b).ended s.pending).reader r).snaps = (b.reader r).snaps.filter (fun e => e.1 != k) :=
      (ended_readerFields _ _ r).2.2.2.1.trans (putSnap_reads r k b)
    rw [hsnaps]
    exact ⟨find_filter_same k _, fun k' hk' => find_filter_other hk' _⟩
  · refine gives_of_run hb (execPendingClear.eq_def ..) hl ?_
    rw [if_pos (by simp [hok, hlen])]
    have hod := (ended_quiet (s := pendingClear l b) hmissed hovf s.pending).1
    have hblob : ((pendingClear l b).ended s.pending).blob 0x1200 1 = (pendingClear l b).blob 0x1200 1 := by simp only [State.blob, State.val, hod]
    intro k hk
    rw [hblob, pendingClear]
    rw [State.blob_setBlob, if_pos rfl]
    simp [nth, hk]
  · refine gives_of_run hb (execCountClear.eq_def ..) hl ?_
    rw [if_pos (by simp [hok, hlen])]
    have hod := (ended_quiet (s := countClear l b) hmissed hovf s.pending).1
    have hblob : ((countClear l b).ended s.pending).blob 0x1200 2 = (countClear l b).blob 0x1200 2 := by simp only [State.blob, State.val, hod]
    rw [hblob, countClear]
    rw [State.blob_setBlob, if_pos rfl]
  · refine gives_of_run hb (execNotifyHoldoffExpiry.eq_def ..) (decide_eq_true hr) ?_
    dsimp only
    rw [hhold, hsession]
    dsimp only
    rw [if_neg (by rw [hok]; simpa using hdue), chunks40_short hne hlen 254]
    generalize hbody : beBytes 2 (b.reader r).notes.length ++ (b.reader r).notes.flatMap (noteBytes b) = body
    have hfold : ([(b.reader r).notes]).foldl (fun s l => s.sendSession 8 0xA0 n 0 (beBytes 2 l.length ++ l.flatMap (noteBytes s))) b =
        b.sendSession 8 0xA0 n 0 body := by rw [← hbody]; rfl
    rw [hfold]
    have hsent := (sendSession_reads (b := b) ⟨fun _ _ => rfl, rfl, rfl, rfl, rfl, rfl⟩ hfind hpath 0xA0 0 body).1
    obtain ⟨hscribe, hcapture⟩ := sendSession_quiet hrun 8 0xA0 n 0 body
    generalize b.sendSession 8 0xA0 n 0 body = u at hsent hscribe hcapture ⊢
    generalize hv : u.setReader r { u.reader r with notes := [], holdoff := none } = v
    have hvs : v.scribe = u.scribe ∧ v.capture = u.capture ∧ v.out = u.out ∧ v.net.bootQueue = u.net.bootQueue := by
      rw [← hv]
      exact ⟨rfl, rfl, rfl, rfl⟩
    have hreader : v.reader r = { u.reader r with notes := [], holdoff := none } := by
      rw [← hv, State.reader, State.setReader]
      exact get_put_same _ _ _ _
    have hnet := ended_quiet_net (s := v) (by rw [hvs.2.1, hcapture]; exact hmissed) (by rw [hvs.1, hscribe]; exact hovf) s.pending
    have hsame : (v.ended s.pending).reader r = v.reader r := by simp only [State.reader, hnet]
    have hout : (v.ended s.pending).out = v.out := by simp
    rw [hsame, hreader]
    exact ⟨rfl, rfl, hsent.then (hout.trans hvs.2.2.1) (by rw [hnet]; exact hvs.2.2.2)⟩
end Sys2Proof
end
